-- ==== Sys2Proof/Word.lean ====
section
/-!
DEFINITION. Sys2Proof/Word.lean: the word types of the block and its identifiers.
-/

namespace Sys2Proof

/-- One byte of memory or of a record. -/
abbrev Byte := BitVec 8
abbrev W16 := BitVec 16
abbrev W32 := BitVec 32
abbrev W64 := BitVec 64
/-- A 64 B slot, record or command: byte `i` is bits `[8i+7 : 8i]` (R3, little-endian). -/
abbrev Slot64 := BitVec 512
/-- A 32 B record (R74, R107). -/
abbrev Rec32 := BitVec 256

/-- A partition number (R38). -/
abbrev PartId := Fin 16
/-- A 6-bit queue ID: bits [5:4] the engine, bits [3:0] the queue (R37). -/
abbrev QueueId := Fin 64
/-- A fabric port or a memory-fabric port (R9, R13). -/
abbrev PortId := Fin 16
/-- A chip-to-chip link (R16). -/
abbrev LinkId := Fin 24
/-- A logical traversal unit (R427). -/
abbrev TuId := Fin 128
/-- A Setter core (R268). -/
abbrev CoreId := Fin 16
/-- A Strainer unit (R200). -/
abbrev UnitId := Fin 16
/-- A caddy (R417). -/
abbrev CaddyId := Fin 4
/-- A 20-bit chip ID (R20). -/
abbrev ChipId := BitVec 20

/-- The field of `w` whose lowest bit is `lo`, `len` bits wide. -/
abbrev fld {n : Nat} (w : BitVec n) (lo len : Nat) : BitVec len := w.extractLsb' lo len

/-- The field as a number. -/
abbrev fldN {n : Nat} (w : BitVec n) (lo len : Nat) : Nat := (w.extractLsb' lo len).toNat

/-- One bit as a Bool. -/
abbrev bit {n : Nat} (w : BitVec n) (i : Nat) : Bool := w.getLsbD i

/-- A Bool as one bit. -/
abbrev b1 (b : Bool) : BitVec 1 := BitVec.ofBool b

end Sys2Proof
end

