-- ==== Sys2Proof/Syntax.lean ====
section
/-!
DEFINITION. Sys2Proof/Syntax.lean: the commands of the block, one constructor of `Instr` for each row of
spec/opcode_table.json, with the operands a row carries. An operand is one of three things: what the sender of the row states
(an address, a value, a message), what the die or the far side reports (a self-test result, a power estimate), or a choice that
the spec leaves to the block (a Kennel slot among equals, a FAULT_ID, the die timebase at the event); the last are in `Env`.
-/

namespace Sys2Proof

/-- Who makes a control-bus access (R477, R525). -/
inductive Requester where
  | mgmt | debug | part (p : PartId)
deriving DecidableEq, Repr

/-- Width of a control-bus access; `other` is every width R21 does not accept. -/
inductive AccSize where
  | w32 | w64 | other
deriving DecidableEq, Repr

/-- One control-bus access (R21): requester, width, 20-bit offset in the aperture, and the data of a write (a 32-bit write
carries it in the low half). -/
structure Access where
  req  : Requester
  size : AccSize
  off  : BitVec 20
  data : W64
deriving DecidableEq, Repr

/-- Voltage domains (R23). -/
inductive Domain where
  | ctl | west | east | setter | router | array | vis
deriving DecidableEq, Repr

/-- The two half-arrays (R422). -/
inductive Half where
  | west | east
deriving DecidableEq, Repr

/-- What a reset release meets (R501 steps 1 to 4): the port map, links, timebase, fuses and the results of the self-tests; and how many
words of credit Rampor grants on each network of a fabric port, which R10 leaves to it. -/
structure ReleaseInfo where
  portMap     : BitVec 16
  linksUp     : BitVec 24
  timebase    : Nat
  caps        : W32
  fuseAgree   : Bool
  fuseBad     : BitVec 32
  spareFused  : BitVec 8
  fusedPos    : Vector (Fin 16) 8
  sramRepairs : BitVec 16
  sramFatal   : Option (BitVec 8 × BitVec 24)
  banksFailed : BitVec 64
  unitsFailed : BitVec 16
  coresFailed : BitVec 16
  tusFailed   : Vector (BitVec 17) 8
  portWords   : Nat
deriving DecidableEq, Repr

/-- Scopes of a batch boundary (R414) and the VIS frame boundary (R352). -/
inductive BoundaryScope where
  | engine (p : PartId) (e : Fin 4)
  | partition (p : PartId)
  | block
deriving DecidableEq, Repr

/-- A section of an RCI load (R474). -/
inductive Section where
  | global | part (p : PartId) | caddy (c : CaddyId)
deriving DecidableEq, Repr

/-- Items of the voter (R485) and the copy struck. -/
inductive VoteItem where
  | ptab (p : PartId) (w : Fin 4) | ptabShadow (p : PartId) (w : Fin 4) | ownBase | ownEpoch | caddySel | unlocked | caps
deriving DecidableEq, Repr

/-- An upset of one copy of a voted item: the bits flipped. -/
structure Upset where
  item : VoteItem
  copy : Fin 3
  flip : W64
deriving DecidableEq, Repr

/-- How a unit's arithmetic or storage check ended (R510, R511). -/
inductive Check where
  | ok | corrected | failed
deriving DecidableEq, Repr

/-- Outcome of reading and verifying the microcode image (R507 to R509). -/
inductive McCheck where
  | ok | readError | verifyFailed
deriving DecidableEq, Repr

/-- A box hierarchy's topology, which the collapse and treelet steps of R146 leave to the block, as a preorder list of tokens:
`leaf ps` lists input primitives, `node n` has its n subtrees after it. -/
inductive TreeTok where
  | leaf (prims : List Nat)
  | node (arity : Nat)
deriving DecidableEq, Repr

/-- One treelet restructured by step 4 of R146: where its top lies in the preorder list, where the subtrees below it begin, and its new shape, in
which the k-th of those subtrees stands as `leaf [k]`. -/
structure Treelet where
  top   : Nat
  cut   : List Nat
  shape : List TreeTok
deriving DecidableEq, Repr

/-- Measured mean times of the two halves (R404), in any common unit. -/
structure HalfTimes where
  west : Nat
  east : Nat
deriving DecidableEq, Repr

/-- Why a pack is issued (R164). -/
inductive IssueWhy where
  | full | idle
deriving DecidableEq, Repr

/-- The 16 B header of a forwarding message without its TYPE and LEN (R371). For ring messages `queryId` holds
[12:0] the hop count and [31:13] the sequence number. -/
structure MsgHdr where
  queryId : W32
  subtree : W16
  src     : ChipId
  dest    : ChipId
  epochLo : Byte
  hops    : BitVec 6
deriving DecidableEq, Repr

/-- FCTL of a query body (R373). -/
structure Fctl where
  cls : BitVec 2
  ovf : BitVec 2
deriving DecidableEq, Repr

/-- FWD_RAY body (R373). -/
structure FwdRayBody where
  ray      : Slot64
  descAddr : W64
  leaseUs  : W32
  fctl     : Fctl
deriving DecidableEq, Repr

/-- FWD_PROBE body (R373): `thresh` has 32 places, `slots` the bundle's slots in the order of R110. -/
structure FwdProbeBody where
  descAddr : W64
  k        : W16
  precise  : Bool
  nanRank  : BitVec 2
  reduce   : Bool
  fctl     : Fctl
  leaseUs  : W32
  alive    : W32
  thresh   : List W32
  slots    : List Slot64
deriving DecidableEq, Repr

/-- REDUCE_REQ body (R373): per query the (key, x) entries. -/
structure ReduceReqBody where
  vdescAddr : W64
  dv        : W16
  q         : Byte
  fctl      : Fctl
  leaseUs   : W32
  lists     : List (List (W32 × W32))
deriving DecidableEq, Repr

/-- The 64 B prefix of a result body (R375). -/
structure ResultPrefix where
  result  : Byte
  last    : Bool
  ended   : Bool
  faultVa : W64
  qstatus : List Byte
deriving DecidableEq, Repr

/-- A result entry: key, score, and the lo part under PRECISE (R116). -/
structure ProbeEntry where
  key   : W32
  score : W32
  lo    : W32
deriving DecidableEq, Repr

/-- A triple (m, s, w) of R224, FP32. -/
structure Triple where
  m : W32
  s : W32
  w : List W32
deriving DecidableEq, Repr

/-- The five credit pools (R377). -/
structure Credits where
  qEnd   : Nat
  qRelay : Nat
  rEnd   : Nat
  rRelay : Nat
  ring   : Nat
deriving DecidableEq, Repr

/-- ADV body (R380). -/
structure AdvBody where
  verMin   : Byte
  verMax   : Byte
  ops      : W16
  slotSize : W16
  hitSize  : W16
  epoch    : W32
  grants   : Credits
  maxBody  : W32
deriving DecidableEq, Repr

/-- AGREE body (R380). -/
structure AgreeBody where
  version : Byte
  ops     : W16
  lowId   : W32
  highId  : W32
deriving DecidableEq, Repr

/-- The body of a forwarding message (R372). -/
inductive MsgBody where
  | fwdRay (b : FwdRayBody)
  | fwdProbe (b : FwdProbeBody)
  | reduceReq (b : ReduceReqBody)
  | rayResult (p : ResultPrefix) (hit : Rec32)
  | probeResult (p : ResultPrefix) (precise : Bool) (lists : List (List ProbeEntry))
  | reduceResult (p : ResultPrefix) (triples : List (Fin 32 × Triple))
  | leaseExtend
  | cancel
  | creditReturn (c : Credits)
  | keepalive
  | hello (chip expected : W32)
  | adv (b : AdvBody)
  | agree (b : AgreeBody)
  | credit (c : Credits)
  | drain
  | drainDone
  | ownerEntries (epoch total : W32) (entries : List W64)
  | epochCommit (epoch total : W32) (applied missed : W16)
  | unknown (type : Byte) (len : Nat)
deriving DecidableEq, Repr

/-- A network of a fabric port (R9). -/
inductive Net where
  | scalar | vector | control
deriving DecidableEq, Repr

/-- A resident group: core and group slot (R269). -/
structure GroupRef where
  core : CoreId
  slot : Fin 16
deriving DecidableEq, Repr

/-- An operand of a Setter instruction: a vector register (one value a lane), a scalar register, or a constant. -/
inductive Src where
  | v (n : Nat) | s (n : Nat) | imm (w : W32)
deriving DecidableEq, Repr

/-- The destination of a Setter instruction: a vector register, or a scalar register for a result that is one for the group. -/
inductive Dst where
  | v (n : Nat) | s (n : Nat)
deriving DecidableEq, Repr

/-- Integer operations of R280; a shift right is arithmetic on signed types. -/
inductive IntOp where
  | add | sub | mulLo | mulHi | shl | shr | and | or | xor | not | eq | lt | le | select | neg | abs | min | max | div | rem
deriving DecidableEq, Repr

/-- Integer widths of R280. -/
inductive IntWidth where
  | b8 | b16 | b32 | b64
deriving DecidableEq, Repr

/-- Float operations of R280. -/
inductive FloatOp where
  | fma | add | mul | min | max | eq | lt | le
deriving DecidableEq, Repr

/-- Floating-point formats of R238. -/
inductive Fmt where
  | fp32 | fp16 | bf16 | e4m3 | e5m2
deriving DecidableEq, Repr

/-- Integer formats of R238. -/
inductive IntFmt where
  | s8 | u8 | s16 | s32
deriving DecidableEq, Repr

/-- Every format of the conversion table (R255). -/
inductive NumFmt where
  | f (x : Fmt) | i (x : IntFmt)
deriving DecidableEq, Repr

/-- Special functions (R280). -/
inductive SpecialFn where
  | rcp | rsqrt | sqrt | exp2 | log2 | sin | cos
deriving DecidableEq, Repr

/-- Lane-exchange operations (R280); sum, min and max on signed 32-bit integers or FP32. -/
inductive LaneOp where
  | shuffleIdx | shuffleOff (delta : Int) | broadcast (lane : Fin 32) | ballot | any | all
  | sumI | minI | maxI | sumF | minF | maxF
deriving DecidableEq, Repr

/-- Address spaces of a memory instruction (R285). -/
inductive Space where
  | global | loc
deriving DecidableEq, Repr

/-- Access widths of loads and stores, 8 to 128 bits (R280). -/
inductive MemWidth where
  | w8 | w16 | w32 | w64 | w128
deriving DecidableEq, Repr

/-- Atomic operations (R280). -/
inductive AtomOp where
  | addI | addF | minI | maxI | minU | maxU | and | or | xor | exch | cas
deriving DecidableEq, Repr

/-- Which item waits for a page-table walk (R441, R450). -/
inductive WalkFor where
  | ray (slot : Nat)
  | group (g : GroupRef)
  | none
deriving DecidableEq, Repr

/-- Access kinds of a translation (R440). -/
inductive AccKind where
  | read | write | atomic | exec
deriving DecidableEq, Repr

/-- What the save of a group meets (R301, R305, R454): the access of the instruction it is in that faults late, by address and kind, the check
of the words read of its registers and state, and that of the words read of its block's local store. -/
structure SaveEvt where
  group : GroupRef
  late  : Option (Nat × AccKind)
  regs  : Check
  store : Check
deriving DecidableEq, Repr

/-- What the checks of R510 and R511 find in the storage and the address arithmetic that a row uses: a residue error of the address arithmetic, the
check of the Retriever's buffered records, that of the unit's own lists (matching store, Steep list or CF queue state), and Kennel slots with the
checks of their words. -/
structure HwSeen where
  addr  : Bool
  buf   : Check
  lists : Check
  words : List (Nat × Check)
deriving DecidableEq, Repr

/-- Every check passes. -/
def HwSeen.clean : HwSeen := ⟨false, .ok, .ok, []⟩

/-- What the spec leaves open at one step: the die timebase in ns, the FAULT_IDs the step takes if accesses fault (R444),
the Kennel slots it takes if it allocates (R89, R93), what the saves it makes meet (R301, R305,
R454), the steps that the spin counter of a group it reads has counted since that was last brought up to date (R295), the check of the word
that a debug operation uses (R305, R511), and what the other checks find (R510, R511). -/
structure Env where
  t     : Nat
  fids  : List Nat
  slots : List Nat
  saves : List SaveEvt
  steps : Nat
  word  : Check
  hw    : HwSeen
deriving DecidableEq, Repr

/-- THE COMMANDS: one constructor for each row of spec/opcode_table.json, in the table's order. -/
inductive Instr where
  | powerOn
  | dieReset
  | resetRelease (info : ReleaseInfo)
  | supplyFault (d : Domain)
  | junctionLimit (h : Half)
  | linkUp (l : LinkId) (t : Nat)
  | linkDown (l : LinkId) (t : Nat)
  | partitionReset (req : Requester) (flr : Bool) (p : PartId)
  | partitionResetDone (p : PartId)
  | blkReset (req : Requester)
  | forcedResetAbandon
  | forcedResetRelease (info : ReleaseInfo)
  | queueEnable (req : Requester) (p : PartId) (slot : Fin 64) (value : W32) (env : Env)
  | queueDisable (req : Requester) (p : PartId) (slot : Fin 64) (value : W32)
  | queueDisableDone (q : QueueId)
  | queueResume (req : Requester) (p : PartId) (slot : Fin 64) (value : W32)
  | whistle (req : Requester) (p : PartId) (slot : Fin 64) (value : W32)
  | scalarWhistle (port : PortId) (word : W32)
  | commandFetch (env : Env)
  | commandAdmit (q : QueueId) (env : Env)
  | completionRecord (q : QueueId) (env : Env)
  | progressShadow (q : QueueId) (env : Env)
  | nop (q : QueueId)
  | traceRays (q : QueueId)
  | probe (q : QueueId) (env : Env)
  | probeReduce (q : QueueId) (env : Env)
  | buildBox (q : QueueId) (scratch : List (Nat × Byte)) (env : Env)
  | buildRefit (q : QueueId) (scratch : List (Nat × Byte)) (env : Env)
  | buildKeys (q : QueueId) (scratch : List (Nat × Byte)) (env : Env)
  | buildInsert (q : QueueId) (env : Env)
  | buildCompact (q : QueueId) (scratch : List (Nat × Byte)) (env : Env)
  | buildSplit (q : QueueId) (scratch : List (Nat × Byte)) (env : Env)
  | splatFwd (q : QueueId) (env : Env)
  | splatBwd (q : QueueId) (order : List (Nat × Nat)) (check : Check) (env : Env)
  | copy (q : QueueId) (inFlight : Nat) (env : Env)
  | residency (q : QueueId) (env : Env)
  | fwdSessionOpen (q : QueueId) (t : Nat)
  | fwdSessionDrain (q : QueueId) (t : Nat)
  | ownerPublish (q : QueueId) (env : Env)
  | fence (q : QueueId)
  | waitValue (q : QueueId) (env : Env)
  | waitValuePoll (q : QueueId) (env : Env)
  | waitTimeout (q : QueueId) (t : Nat)
  | signalValue (q : QueueId) (env : Env)
  | heel (q : QueueId) (t : Nat)
  | heelDrained (q : QueueId)
  | drainTimeout (q : QueueId) (t : Nat)
  | batchBoundary (scope : BoundaryScope)
  | bindHierarchy (q : QueueId)
  | bindProgram (q : QueueId) (env : Env)
  | setDeadline (q : QueueId) (t : Nat)
  | rayIntake (q : QueueId) (word : Option Slot64) (env : Env)
  | fetch (p : PartId) (line : Nat) (env : Env)
  | lineFill (p : PartId) (line : Nat)
  | packIssue (p : PartId) (line : Nat) (why : IssueWhy) (d : HalfTimes) (t : Nat)
  | packWaitExpiry (p : PartId) (line : Nat) (d : HalfTimes) (t : Nat)
  | test (tu : TuId) (check : Check) (words : List (Nat × Check)) (env : Env)
  | spillSlotGrant (ray : Nat) (slot : Nat)
  | spillWaitTimeout (ray : Nat) (t : Nat)
  | invoke (p : PartId) (cls : BitVec 2) (caddy : CaddyId) (slot : Fin 256) (t : Nat)
  | returnRay (ray : Nat) (check : Check)
  | delivery (port : PortId) (group : BitVec 12)
  | delivWaitExpiry (port : PortId) (group : BitVec 12) (t : Nat)
  | memoryWriteAck (id : Nat)
  | fabricCredit (port : PortId) (net : Net) (group : BitVec 12) (words : Nat)
  | bundleAdmit (q : QueueId) (words : List Slot64) (env : Env)
  | bound (tu : TuId) (check : Check) (env : Env)
  | boundReturn (bundle : Nat) (env : Env)
  | score (tu : TuId) (check : Check) (env : Env)
  | heapMerge (bundle : Nat) (check : Check) (env : Env)
  | reduce (bundle : Nat) (check : Check) (env : Env)
  | lseMerge (bundle : Nat) (query : Fin 32) (check : Check) (env : Env)
  | forward (slot : Nat) (check : Check) (env : Env)
  | fwdRay (l : LinkId) (hdr : MsgHdr) (body : FwdRayBody) (env : Env)
  | fwdProbe (l : LinkId) (hdr : MsgHdr) (body : FwdProbeBody) (env : Env)
  | reduceReq (l : LinkId) (hdr : MsgHdr) (body : ReduceReqBody) (env : Env)
  | rayResult (l : LinkId) (hdr : MsgHdr) (pre : ResultPrefix) (hit : Rec32) (env : Env)
  | probeResult (l : LinkId) (hdr : MsgHdr) (pre : ResultPrefix) (lists : List (List ProbeEntry)) (env : Env)
  | reduceResult (l : LinkId) (hdr : MsgHdr) (pre : ResultPrefix) (triples : List (Fin 32 × Triple)) (env : Env)
  | leaseExtend (l : LinkId) (hdr : MsgHdr) (t : Nat)
  | leaseExtendTimer (slot : Nat) (t : Nat)
  | cancel (l : LinkId) (hdr : MsgHdr) (t : Nat)
  | creditReturn (l : LinkId) (lo : Byte) (c : Credits) (t : Nat)
  | creditReturnTimer (l : LinkId) (t : Nat)
  | keepalive (l : LinkId) (lo : Byte) (t : Nat)
  | keepaliveTimer (l : LinkId) (t : Nat)
  | keepaliveLost (l : LinkId) (t : Nat)
  | hello (l : LinkId) (lo : Byte) (chip expected : W32) (t : Nat)
  | adv (l : LinkId) (body : AdvBody) (t : Nat)
  | agree (l : LinkId) (lo : Byte) (body : AgreeBody) (t : Nat)
  | credit (l : LinkId) (lo : Byte) (grants : Credits) (t : Nat)
  | sessionTimeout (l : LinkId) (t : Nat)
  | drain (l : LinkId) (lo : Byte) (t : Nat)
  | drainDone (l : LinkId) (lo : Byte) (t : Nat)
  | forcedDrain (l : LinkId) (t : Nat)
  | ownerEntries (l : LinkId) (hdr : MsgHdr) (epoch total : W32) (entries : List W64) (t : Nat)
  | epochCommit (l : LinkId) (hdr : MsgHdr) (epoch total : W32) (applied missed : W16) (t : Nat)
  | ringTimeout (seq : Nat) (t : Nat)
  | bypassReopen (t : Nat)
  | leaseDeadline (slot : Nat) (env : Env)
  | ownerReload (req : Requester) (value : W64) (env : Env)
  | ownerTableFetch (env : Env)
  | preemptionTimer (p : PartId) (env : Env)
  | decisionTimer (p : PartId) (check : Check) (env : Env)
  | reprojectionPresent (p : PartId) (env : Env)
  | groupRestore (g : GroupRef) (env : Env)
  | tileLoad (unit : Fin 64) (check : Check) (env : Env)
  | tileResolve (unit : Fin 64) (slot : Fin 4) (check : Check) (env : Env)
  | parkGrant (p : PartId) (grant : Nat)
  | callMessage (port : PortId) (hdr : Slot64) (args : List (BitVec 128))
  | groupLaunch (core : CoreId) (env : Env)
  | exit (g : GroupRef) (check : Check)
  | brk (g : GroupRef) (t : Nat) (check : Check)
  | bar (g : GroupRef) (b : Fin 16) (t : Nat) (check : Check)
  | barClu (g : GroupRef) (b : Fin 4) (check : Check)
  | fenceSys (g : GroupRef) (check : Check)
  | fenceBlk (g : GroupRef) (check : Check)
  | fenceClu (g : GroupRef) (check : Check)
  | lockacq (g : GroupRef) (dst : Nat) (space : Space) (addr : Src) (steps stood : Nat) (check : Check) (env : Env)
  | lockrel (g : GroupRef) (dst : Nat) (space : Space) (addr : Src) (check : Check) (env : Env)
  | atomic (g : GroupRef) (op : AtomOp) (wide : Bool) (space : Space) (dst : Nat) (addr a b : Src) (check : Check) (env : Env)
  | load (g : GroupRef) (space : Space) (w : MemWidth) (nc : Bool) (l1 : Bool) (dst : Nat) (addr : Src) (check : Check) (env : Env)
  | store (g : GroupRef) (space : Space) (w : MemWidth) (src : Nat) (addr : Src) (check : Check) (env : Env)
  | tex (g : GroupRef) (dst : Nat) (desc u v : Src) (check : Check) (env : Env)
  | texlod (g : GroupRef) (dst : Nat) (desc u v lod : Src) (check : Check) (env : Env)
  | scorer (g : GroupRef) (dst : Nat) (qfmt kfmt : BitVec 3) (queries keys : Nat) (check : Check) (t : Nat)
  | integer (g : GroupRef) (op : IntOp) (w : IntWidth) (signed sat : Bool) (dst : Dst) (a b c : Src) (check : Check)
  | float (g : GroupRef) (op : FloatOp) (f : Fmt) (dst : Dst) (a b c : Src) (check : Check)
  | convert (g : GroupRef) (src dst : NumFmt) (sat : Bool) (d : Dst) (a : Src) (check : Check)
  | specialFunction (g : GroupRef) (fn : SpecialFn) (dst : Dst) (a : Src) (check : Check)
  | laneExchange (g : GroupRef) (op : LaneOp) (dst : Dst) (a idx : Src) (check : Check)
  | branch (g : GroupRef) (target : W32) (check : Check)
  | divergencePush (g : GroupRef) (reconv : W32) (active : W32) (t : Nat) (check : Check)
  | divergencePop (g : GroupRef) (t : Nat) (check : Check)
  | programCall (g : GroupRef) (target : Option W32) (link : Nat) (check : Check)
  | halt (req : Requester) (p : PartId) (value : W32)
  | resume (req : Requester) (p : PartId) (value : W32)
  | stepGroup (req : Requester) (p : PartId) (value : W32)
  | restart (req : Requester) (p : PartId) (value : W32)
  | endGroup (req : Requester) (p : PartId) (value : W32)
  | groupRead (req : Requester) (p : PartId) (value : W32) (steps : Nat) (check : Check)
  | groupWrite (req : Requester) (p : PartId) (value : W32) (steps : Nat) (check : Check)
  | translationWalk (p : PartId) (va : Nat) (kind : AccKind) (who : WalkFor) (check : Check) (level : Fin 5) (env : Env)
  | mmuInval (req : Requester) (p : PartId) (value : W64)
  | invalComplete (p : PartId) (env : Env)
  | faultReplay (req : Requester) (p : PartId) (value : W32) (env : Env)
  | faultAbort (req : Requester) (p : PartId) (value : W32) (env : Env)
  | fqAck (req : Requester) (p : PartId) (value : W32) (env : Env)
  | unlock (req : Requester) (key : W32)
  | unlockTimeout
  | csrWrite (a : Access) (env : Env)
  | csrReadClear (a : Access)
  | voteScrub (upsets : List Upset) (refuse : W32)
  | cfgGo (req : Requester) (value : W64)
  | cfgImageRead (readError : Bool)
  | cfgSectionApply (s : Section)
  | cfgCancel (req : Requester) (value : W64)
  | freeze (req : Requester) (value : W64)
  | ptabWrite (req : Requester) (p : PartId) (w : Fin 4) (value : W64)
  | caddySwitch (req : Requester) (value : W32)
  | mcGo (req : Requester) (value : W32)
  | mcLoadDone (check : McCheck)
  | mmuGo (req : Requester) (value : W32) (env : Env)
  | chipId (req : Requester) (value : W32) (t : Nat)
  | fuseReread (req : Requester) (info : ReleaseInfo)
  | tuFence (req : Requester) (value : W32)
  | tuUnfence (req : Requester) (value : W32)
  | tuSelfTestDone (row : Fin 8) (pos : Fin 17) (pass : Bool)
  | sleepHalf (req : Requester) (h : Half) (value : W32)
  | halfAsleep (h : Half)
  | wakeHalf (req : Requester) (h : Half) (value : W32)
  | halfAwake (h : Half) (failed : Vector (BitVec 17) 8)
  | unitOut (req : Requester) (value : W32)
  | unitReturn (req : Requester) (value : W32)
  | unitReturnDone (kind : Fin 3) (idx : Fin 64) (pass : Bool)
  | powerEstimate (watts : Nat) (t : Nat)
  | traceEnable (req : Requester) (value : W64)
  | blkHeel (req : Requester) (value : W32) (t : Nat)
  | blockDrainDone
  | blkTimeout (t : Nat)
  | dbgRead (req : Requester) (value : W32) (check : Check)
  | dbgWrite (req : Requester) (value : W32)
  | powerDown
  | junctionLimitClear (h : Half)
  | routerFault (row : Fin 8) (pos : Fin 17)
  | messageRelay (l : LinkId) (hdr : MsgHdr) (body : MsgBody) (env : Env)
deriving DecidableEq, Repr

end Sys2Proof
end

