-- ==== Sys2Proof/Decode.lean ====
section
/-!
DEFINITION. Sys2Proof/Decode.lean: commands spelled by bits. spec/opcode_table.json gives no row any bits (the block takes typed
commands, bus accesses and messages, not words of an instruction stream), so no word spells a command.
-/

namespace Sys2Proof

/-- The command that a word of `nbits` bits spells by the opcode table: none, for no row of the table has bits. -/
def decodeTableWord (_nbits _w : Nat) : Option Instr := none

end Sys2Proof
end

