-- ==== Sys2Proof/Config.lean ====
section
/-!
DEFINITION. Sys2Proof/Config.lean: what the spec leaves open as a value (free values: opaque constants with no body,
of which nothing can be proved), and what an implementation fixes without the spec saying how.
-/

namespace Sys2Proof.Config

/-- The memory-fabric port of a 128 B line, by its physical line number: a hash the spec does not give (R13). -/
opaque portOfLine : Nat → PortId

/-- The NC bank group of a line of a partition: the spec does not give how lines map to banks (R27, R168, R422). -/
opaque bankGroup : PartId → Nat → Fin 8

/-- The NC bank of a line of a partition within its bank group, and the set within the bank: not given either (R27). -/
opaque ncSet : PartId → Nat → Fin 4 × Fin 512

/-- Which of the FP32 values within 2 units in the last place the exponential of an FP32 argument gives (R265, R324). -/
opaque expPick : W32 → Nat

/-- Which of the FP32 values within 2 units in the last place a special function gives: code of the function, then the operand (R280). -/
opaque specialPick : Nat → W32 → Nat

/-- The result of a special function at an infinity or at a zero where it has a pole, which R280 does not state: code, operand. -/
opaque special : Nat → W32 → W32

/-- A shift by the operand's width or more, whose result R280 does not state: code of the operation, width, operand, amount. -/
opaque shiftOut : Nat → Nat → Nat → Nat → Nat

/-- The lesser or greater of two floating-point values of which one is NaN, or of two zeros of different sign, which R280 does not
state: code of the operation and of the format, then the operands. -/
opaque minMaxOpen : Nat → Nat → Nat → Nat → Nat

/-- What a lane receives from a lane exchange whose source lane provides no operand (R280), by a fresh index. -/
opaque openLane : Nat → W32

/-- A register that no launch convention loads (R276): its value at launch, by a fresh index. -/
opaque launchReg : Nat → W32

/-- The level of detail that TEX derives from a quad, which R339 does not give as a formula: the quad's u and v, the level-0 size. -/
opaque texLod : List W32 → W32

/-- Whether a point or bilinear sample takes the upper of the two levels around a level of detail that is no integer (R339 gives no rule);
for a NaN, the level by its number. -/
opaque texLevel : W32 → Nat

/-- The texel coordinate of a coordinate that is not finite (R339 gives no rule). -/
opaque texCoord : W32 → Int

/-- The weight of the second texel along an axis whose coordinate is not finite (R339 gives no rule). -/
opaque texFrac : W32 → W32

/-- A byte of the state part of a saved group record, which R302 does not lay out, by a fresh index. -/
opaque savedByte : Nat → Byte

/-- The bits of a 64 B debug unit that the spec does not lay out or give a value (R526), by structure, index and a fresh index. -/
opaque debugUnit : Nat → Nat → Nat → Slot64

/-- How far a step of start-up had come, in basis points, where it stalled and R505 gives no total or no count: the words of the fuses, the
arrays under test, the bytes of a microcode image that failed; by step and DETAIL. -/
opaque stallDone : Nat → Nat → Nat

/-- 64 B units of the fuse array, whose size the spec does not give (R526). -/
opaque fuseUnits : Nat

/-- RK_QPROG of a queue that has no admitted, incomplete command (R77 states none), by queue and commands admitted so far. -/
opaque idleProg : Nat → Nat → W64

/-- ORIGIN and EXP (15 bytes) of a box node below which every primitive is DEAD and has no box, so that R129 gives it no grid, by unit index. -/
opaque deadGrid : Nat → BitVec 120

/-- QBOX of a box-node child whose primitives are all DEAD and have no box (R129, R133), by unit index and slot. -/
opaque deadBox : Nat → Nat → BitVec 48

/-- The code of a DEAD primitive, which has no box and so no centre to take a Morton code of (R133, R146), by PRIM_ID. -/
opaque deadCode : Nat → BitVec 63

/-- Whether the coordinate of a box centre in a Morton code is the next one up, R146 giving no rounding: axis, scene box, box. -/
opaque codeUp : Nat → List W32 → List W32 → Bool

/-- Which node of the children so far the collapse of BUILD_BOX opens next, whose rule R146 does not give: the boxes of the input, the
primitives below each child; none where the place is no node's. -/
opaque openKid : List (List W32) → List (List Nat) → Nat

/-- Whether a subtree small enough for a leaf becomes one (R145, R146 say only how large a leaf may be): the boxes, its primitives. -/
opaque makeLeaf : List (List W32) → List Nat → Bool

/-- The treelets that step 4 of a build restructures, in turn, and how, which R146 leaves to the block: the boxes, LEAF_MAX, the collapsed tree. -/
opaque treelets : List (List W32) → Nat → List TreeTok → List Treelet

/-- The 8 bits of a projected dimension in the Morton code of a leaf (R148 gives no range and no rounding): every complete leaf's extent in
the dimension, the leaf's own. -/
opaque keyCoord : List (W32 × W32) → W32 × W32 → Byte

/-- Which of the input records that neither their content nor INST_ID tells apart a refit puts into an instance unit, which holds no PRIM_ID
(R131, R147): the units, the records left. -/
opaque instPlace : List Nat → List Nat → Nat

/-- HEAP_OFF and WALK_OFF of a bundle (R230): the spec does not say how a unit places them; a bundle is told by its command and index, or by
the query it serves. -/
opaque strainOff : Nat → Nat → BitVec 13 × BitVec 13

/-- Fragments that the wait buffer of a tile slot holds: R313 gives the buffer and the scoreboard 1 KiB together and the size of no entry. -/
opaque waitRoom : Nat

/-- Which order of FP32 operations the sampler's filter takes, of those that R339 leaves open: descriptor, coordinates, level of detail. -/
opaque filterOrder : List W32 → Nat

end Sys2Proof.Config
end

