-- ==== Sys2Proof/Machine/State.lean ====
section
/-!
DEFINITION. Sys2Proof/Machine/State.lean: the state of the block as plain data, and the state right after reset.
Each field's docstring gives, in this order: its width, the rule and the file that name it, its reset value, what it holds.
File numbers are those of spec/ (02 is 02_engines_queues_and_command_lists.md, and so on). "spec" after a reset value means that
the spec states it; "DESIGN CHOICE (log n)" that the spec states none and the log entry names it.
-/

namespace Sys2Proof.Machine

/-- The memory behind the memory fabric: bytes at 52-bit physical addresses, addresses strictly rising, no zero byte listed
(an unlisted byte reads as 0). -/
abbrev Mem := List Host.Cell

/-- A shadowed field (R7 type SH): the shadow that a read returns and the value in force (R480). -/
structure Sh (α : Type) where
  shadow : α
  force  : α
deriving DecidableEq, Repr

/-- Both copies of a shadowed field at one value. -/
def Sh.both {α : Type} (a : α) : Sh α := ⟨a, a⟩

/-- A voted field (R7 suffix +V): three copies (R485). -/
structure Tri (α : Type) where
  a : α
  b : α
  c : α
deriving DecidableEq, Repr

/-- The three copies at one value. -/
def Tri.all {α : Type} (x : α) : Tri α := ⟨x, x, x⟩

/-- An interrupt message (R22): block-level or of a partition, and its vector. -/
structure Irq where
  block : Bool
  part  : PartId
  vec   : BitVec 4
deriving DecidableEq, Repr

/-- The response of the last control-bus access (R21). -/
inductive BusResp where
  | none | ok | data (w : W64) | error
deriving DecidableEq, Repr

/-- What Rampor sends on a fabric port: a delivery of hit records, its leading token with the count of valid records and 32 records by
lane (R11), a probe result (R117), a call reply (R278). -/
inductive PortMsg where
  | delivery (port : PortId) (group : BitVec 12) (count : Nat) (records : List Rec32)
  | probe (port : PortId) (group : BitVec 12) (count : Nat) (words : List Slot64)
  | reply (port : PortId) (group : BitVec 12) (tag : W32) (lanes : Byte) (status : Byte) (args : List (BitVec 128))
deriving DecidableEq, Repr

/-- A present message to the stream encoder (R350). -/
structure Present where
  surface : W64
  frame   : W32
  reproj  : Bool
  late    : Bool
  part    : PartId
deriving DecidableEq, Repr

/-- Boundary of the block with the die. -/
structure Pins where
  /-- 1; R500 14; true DESIGN CHOICE (log 3): the supply domains are up. -/
  powered : Bool
  /-- 1; R500, R501 14; true DESIGN CHOICE (log 3): the die, or a forced reset, holds Rampor in reset. -/
  inReset : Bool
  /-- 1; R524 14; false spec: a forced reset has stopped all issue and waits for acknowledgements. -/
  forced : Bool
  /-- 16; R12 01; 0 DESIGN CHOICE (log 3): fabric ports the bit-stream connects, learnt at reset release. -/
  portMap : BitVec 16
  /-- 24; R17 01; 0 DESIGN CHOICE (log 3): links whose PHY the die reports trained. -/
  linkUp : BitVec 24
  /-- Nat ns; R501 14; 0 DESIGN CHOICE (log 3): the die timebase as last met by a step. -/
  now : Nat
  /-- 1; R18 01; true spec: the shim's bypass is closed. -/
  bypass : Bool
  /-- 1; R424 11; false DESIGN CHOICE (log 3): the die reports the West half above its junction limit. -/
  hotWest : Bool
  /-- 1; R424 11; false DESIGN CHOICE (log 3): the die reports the East half above its junction limit. -/
  hotEast : Bool
  /-- list; R22 01; empty spec: interrupt messages raised, oldest first. -/
  irqs : List Irq
  /-- value; R21 01; none spec: response of the last control-bus access. -/
  resp : BusResp
  /-- list; R11, R117, R278 01, 03, 08; empty spec: messages sent on the fabric ports, oldest first. -/
  sent : List PortMsg
  /-- list; R371 10; empty spec: messages sent on the links, oldest first. -/
  links : List (LinkId × MsgHdr × MsgBody)
  /-- list; R350 09; empty spec: present messages sent, oldest first. -/
  presents : List Present
  /-- list; R518 14; empty spec: partitions whose FLR completion was reported to the die. -/
  flrDone : List PartId
  /-- Nat words; R10 01; 0 spec (R502: no credit is granted before READY): words of credit Rampor grants on each network of a fabric port. -/
  portWords : Nat
deriving DecidableEq, Repr

/-- Start-up, microcode and chip identity. -/
structure Boot where
  /-- 3; R504 14; 0b001 spec: RK_BOOT_PROG.STATE. -/
  state : BitVec 3
  /-- 4; R504 14; 1 spec: RK_BOOT_PROG.STEP. -/
  step : BitVec 4
  /-- 14; R504, R505 14; 0 spec: RK_BOOT_PROG.BP. -/
  bp : BitVec 14
  /-- 4; R504 14; 0 spec: RK_BOOT_PROG.STALL. -/
  stall : BitVec 4
  /-- 32; R504, R505 14; 0 spec: RK_BOOT_PROG.DETAIL. -/
  detail : W32
  /-- 1; R506 14; 1 spec: RK_BOOT_CTL.BOOT_IRQ. -/
  bootIrq : Bool
  /-- 1; R506 14; 1 spec: RK_BOOT_CTL.RESET_IRQ. -/
  resetIrq : Bool
  /-- 20; R506 14; 0 spec: RK_CHIP_ID.CHIP_ID. -/
  chipId : ChipId
  /-- 1; R487, R529 13; false spec: a write has changed CHIP_ID since reset. -/
  chipSet : Bool
  /-- 1; R503 14; false spec: RK_CHIP_ID has been written since reset, be it with the value it holds. -/
  chipWritten : Bool
  /-- 3 x 32; R33, R485 01, 13; 0x1080_80C0 DESIGN CHOICE (log 4) for the fuse bits, spec for the others: RK_CAPS, voted. -/
  caps : Tri W32
  /-- 32; R33, R485 01, 13; 0x1080_80C0 DESIGN CHOICE (log 4): what the last reading of the fuses gave RK_CAPS, which a vote that fails reads again. -/
  fuses : W32
  /-- 8; R506 14; 0 DESIGN CHOICE (log 4): RK_FUSE_MIRROR.SPARE_FUSED. -/
  spareFused : BitVec 8
  /-- 16; R506 14; 0 DESIGN CHOICE (log 4): RK_FUSE_MIRROR.SRAM_REPAIRS. -/
  sramRepairs : W16
  /-- 40; R509 14; 0 spec: RK_MC_ADDR.ADDR, bits [51:12]. -/
  mcAddr : BitVec 40
  /-- 1; R509 14; 0 spec: RK_MC_CTL.BUSY. -/
  mcBusy : Bool
  /-- 4; R509 14; 0 spec: RK_MC_CTL.REASON. -/
  mcReason : BitVec 4
  /-- 8; R509 14; 0 spec: RK_MC_CTL.ATTEMPTS. -/
  mcAttempts : Byte
  /-- 1; R509 14; 0 spec: RK_MC_CTL.BAD_GO. -/
  mcBadGo : Bool
  /-- 1 MiB; R507 14; empty DESIGN CHOICE (log 5): the microcode store, bytes by offset, zero bytes unlisted. -/
  mcStore : Mem
  /-- 1; R382 10; false spec: a ring session failed in start-up, and the bypass is closed until it is reopened. -/
  ringRetry : Bool
deriving DecidableEq, Repr

/-- Control-bus state of the global block. -/
structure Csr where
  /-- 3 x 1; R491, R485 13; 0 spec: RK_UNLOCK.UNLOCKED, voted. -/
  unlocked : Tri Bool
  /-- 16; R492 13; 0 spec: RK_CSR_STAT.LV_CNT. -/
  lvCnt : W16
  /-- 16; R492 13; 0 spec: RK_CSR_STAT.VOTE_CORR. -/
  voteCorr : W16
  /-- 8; R492 13; 0 spec: RK_CSR_STAT.BAD_KEY. -/
  badKey : Byte
  /-- 8; R492 13; 0 spec: RK_CSR_STAT.XPART. -/
  xpart : Byte
  /-- 4; R492 13; 0 spec: RK_CSR_STAT.VOTE_LAST. -/
  voteLast : BitVec 4
  /-- 1; R492 13; 0 spec: RK_CSR_STAT.VOTE_FAIL. -/
  voteFail : Bool
  /-- 1; R492 13; 0 spec: RK_CSR_STAT.LOCK_VIOL. -/
  lockViol : Bool
  /-- 1; R493 13; 0 spec: RK_CSR_CTL.CFG_IRQ. -/
  cfgIrq : Bool
  /-- 1; R493 13; 0 spec: RK_CSR_CTL.VOTE_IRQ. -/
  voteIrq : Bool
  /-- 1; R493 13; 0 spec: RK_CSR_CTL.LV_IRQ. -/
  lvIrq : Bool
  /-- 1; R494 13; 0 spec: RK_COMMIT.COMMIT_HOLD. -/
  hold : Bool
deriving DecidableEq, Repr

/-- One partition's settings in a caddy (R469). -/
structure CaddyEnt where
  tus      : BitVec 128
  cores    : BitVec 16
  kinds    : BitVec 5
  formats  : BitVec 5
  clusters : BitVec 2
deriving DecidableEq, Repr

/-- The empty caddy entry. -/
def CaddyEnt.none : CaddyEnt := ⟨0, 0, 0, 0, 0⟩

/-- A caddy (R417) with its generation (R419). -/
structure Caddy where
  gen  : BitVec 6
  ents : Vector CaddyEnt 16
deriving DecidableEq, Repr

/-- The four words of a partition-table entry (R498). -/
abbrev PtabWords := Vector W64 4

/-- A clamp entry before it is written (R475). -/
structure ClampE where
  field   : Nat
  kind    : Nat
  source  : Nat
  part    : Nat
  given   : Nat
  applied : Nat
deriving DecidableEq, Repr

/-- The global section of an image, checked and clamped (R467). -/
structure GlobalSec where
  mode       : BitVec 2
  dist       : Bool
  capW       : BitVec 9
  hostPart   : BitVec 4
  ringUp     : BitVec 5
  ringDown   : BitVec 5
  fwdLinks   : BitVec 24
  fwdReserve : Nat
  fwdBundles : Nat
  fwdStrain  : Nat
deriving DecidableEq, Repr

/-- A partition entry waiting to apply: its words, the FP_DEF byte that came with it where its EN is 1, and whether a CSR write gave it (R468,
R474, R498). -/
structure PartLoad where
  part  : PartId
  words : PtabWords
  fpDef : Option Byte
  csr   : Bool
deriving DecidableEq, Repr

/-- A caddy image waiting to apply (R474). -/
structure CaddyLoad where
  caddy : CaddyId
  ents  : Vector CaddyEnt 16
deriving DecidableEq, Repr

/-- The configuration image engine and what it has applied. -/
structure Cfg where
  /-- 1; R495 13; 0 spec: RK_CFG_CTL.FREEZE. -/
  freeze : Bool
  /-- 1; R495 13; 0 spec: RK_CFG_CTL.SRC_WIN. -/
  srcWin : Bool
  /-- 4; R495 13; 0 spec: RK_CFG_CTL.CADDY_MASK. -/
  caddyMask : BitVec 4
  /-- 16; R495 13; 0 spec: RK_CFG_CTL.PART_MASK. -/
  partMask : BitVec 16
  /-- 1; R495 13; 0 spec: RK_CFG_CTL.GLOBAL. -/
  glob : Bool
  /-- 1; R495 13; 0 spec: RK_CFG_CTL.BUSY. -/
  busy : Bool
  /-- 40; R496 13; 0 spec: RK_CFG_SRC.ADDR. -/
  src : BitVec 40
  /-- 40; R496 13; 0 spec: RK_CFG_RPT.ADDR. -/
  rptAddr : BitVec 40
  /-- 4; R496 13; 0 spec: RK_CFG_RPT.SIZE. -/
  rptSize : BitVec 4
  /-- 16; R497 13; 0 spec: RK_CFG_REPORT.CLAMPS. -/
  clamps : W16
  /-- Nat; R476, R497 13; 0 spec: entries written since the last GO; RK_CFG_REPORT.WRITE_POS shows it, at most 0xFFFF. -/
  writePos : Nat
  /-- 1; R497 13; 0 spec: RK_CFG_REPORT.OVERRUN. -/
  overrun : Bool
  /-- 1; R497 13; 0 spec: RK_CFG_REPORT.DONE. -/
  done : Bool
  /-- 3; R497 13; 0 spec: RK_CFG_REPORT.STATE. -/
  state : BitVec 3
  /-- 3; R497 13; 0 spec: RK_CFG_REPORT.REJECT. -/
  reject : BitVec 3
  /-- 4 KiB; R496 13; zero spec: RK_CFG_WIN, bytes by offset, zero bytes unlisted. -/
  window : Mem
  /-- list; R471 13; empty spec: clamp entries of the load under way, each with its section; step 7 writes them. -/
  notes : List (Option Section × ClampE)
  /-- list; R474 13; empty spec: partition sections that wait (PEND_PART). -/
  waitPart : List PartLoad
  /-- list; R474 13; empty spec: caddies that wait (PEND_CADDY). -/
  waitCaddy : List CaddyLoad
  /-- option; R474 13; none spec: the global section that waits. -/
  waitGlobal : Option GlobalSec
  /-- 16 x 4 x (shadow and force) x 3 x 64; R498, R485 13; 0 spec: RK_PTABp_W0 to W3. -/
  ptab : Vector (Vector (Sh (Tri W64)) 4) 16
  /-- 16 x 8; R468, R520 13, 14; 0x05 DESIGN CHOICE (log 6): FP_DEF of the last applied image. -/
  fpDef : Vector Byte 16
  /-- 5; R467 13; 0x1F DESIGN CHOICE (log 6): upstream ring link, 0x1F none. -/
  ringUp : BitVec 5
  /-- 5; R467 13; 0x1F DESIGN CHOICE (log 6): downstream ring link, 0x1F none. -/
  ringDown : BitVec 5
  /-- 24; R467 13; 0 DESIGN CHOICE (log 6): FWD_LINKS. -/
  fwdLinks : BitVec 24
  /-- Nat slots; R86 03; 0 DESIGN CHOICE (log 6): FWD_RESERVE. -/
  fwdReserve : Nat
  /-- Nat bundles; R378 10; 0 DESIGN CHOICE (log 6): FWD_BUNDLES. -/
  fwdBundles : Nat
  /-- Nat 64 KiB units; R378 10; 0 DESIGN CHOICE (log 6): FWD_STRAIN. -/
  fwdStrain : Nat
  /-- 4 caddies; R417, R419, R421 11; generation 0 spec, entries empty DESIGN CHOICE (log 6): the caddies. -/
  caddies : Vector Caddy 4
  /-- 3 x 2; R421, R485 11, 13; 0 spec: RK_CADDY_SEL.SEL, voted. -/
  sel : Tri (BitVec 2)
deriving DecidableEq, Repr

/-- A hierarchy binding (R72, R73): kind and descriptor address. -/
structure HierBind where
  kind : BitVec 3
  addr : Nat
deriving DecidableEq, Repr

/-- A program binding (R73, R271): role, split, cluster and the checked header. -/
structure Prog where
  role         : BitVec 3
  split        : BitVec 2
  cluster      : Nat
  addr         : Nat
  usesTex      : Bool
  barPartialOk : Bool
  usesScorer   : Bool
  vregs        : Nat
  sregs        : Nat
  localBytes   : Nat
  groups       : Nat
  dspill       : Nat
  codeOff      : Nat
  codeBytes    : Nat
  entry        : Nat
deriving DecidableEq, Repr

/-- A captured table of hierarchy bindings, slot and binding (R72, R97). -/
abbrev HierTable := List (Nat × HierBind)
/-- A captured table of program bindings, slot and program (R72, R160). -/
abbrev ProgTable := List (Nat × Prog)

/-- A hierarchy or value-tensor descriptor as one read found it (R125): its 128 B. -/
abbrev Desc := BitVec 1024

/-- What one access that faults says of itself (R445): everything of a fault record but the fault's own words. -/
structure FaultCtx where
  source : Byte
  queue  : Option QueueId
  cls    : BitVec 2
  caddy  : BitVec 2
  item   : W32
  tag    : W32
  pc     : W32
  unit   : Byte
deriving DecidableEq, Repr

/-- A unit of work that a fault parks (R450). `trapNote` is the record of a trap that found every FAULT_ID taken (R303, R444): the trap
code, and the group's block and number in it. -/
inductive Parked where
  | enable (q : QueueId)
  | ring (q : QueueId)
  | command (q : QueueId) (seq : Nat)
  | intake (q : QueueId) (seq : Nat)
  | ray (slot : Nat)
  | bundleOp (bundle : Nat) (op : Nat)
  | result (ent : Nat)
  | bundleResult (bundle : Nat)
  | completion (q : QueueId)
  | group (core : CoreId) (slot : Fin 16)
  | savedGroup (block : Nat) (inBlock : Nat)
  | remoteRay (slot : Nat)
  | remoteBundle (bundle : Nat) (leash : Nat)
  | forward (slot : Nat)
  | reload
  | trapNote (code : Byte) (block : Nat) (inBlock : Nat)
deriving DecidableEq, Repr

/-- Work on the overflow list (R444): what it is, for whom, and the address it faulted on. -/
structure Over where
  work : Parked
  ctx  : FaultCtx
  va   : Nat
deriving DecidableEq, Repr

/-- An invalid operation as the capture register shows it (R262). -/
structure FpInv where
  src  : Nat
  lane : Nat
  key  : Nat
  item : Nat
deriving DecidableEq, Repr

/-- An open fault (R444, R445). -/
structure OpenFault where
  id     : BitVec 10
  part   : PartId
  kind   : Byte
  cause  : Byte
  va     : W64
  access : Byte
  owner  : ChipId
  ctx    : FaultCtx
  time   : Nat
  parked : List Parked
deriving DecidableEq, Repr

/-- A leaf translation in the cache (R441): partition, page base and size in bytes, physical base, and the leaf's W and X. -/
structure TlbEntry where
  part : PartId
  va   : Nat
  size : Nat
  pa   : Nat
  w    : Bool
  x    : Bool
  level : Nat
deriving DecidableEq, Repr

/-- An invalidation of R443: scope and page, and once it has taken effect the writes, by number, and the line reads that were outstanding then
on the translations it removed. -/
structure Inval where
  scope  : BitVec 2
  va     : Nat
  writes : List Nat
  reads  : List (PartId × Nat × PortId)
deriving DecidableEq, Repr

/-- The state of a presentation deadline (R342, R359). -/
structure Deadline where
  /-- 3; R359 09; 0 spec: RK_DL_STAT.STATE. -/
  state : BitVec 3
  /-- option; R342 09; none spec: the command that is the deadline's frame, queue and admission number. -/
  frame : Option (QueueId × Nat)
  /-- 1; R342 09; false spec: the frame that the deadline is to bind has not been admitted. -/
  await : Bool
  /-- 1; R73, R349 02, 09; false spec: LATE_DISCARD of the SET_DEADLINE. -/
  lateDiscard : Bool
  /-- 1; R73 02; false spec: REPROJ of the SET_DEADLINE. -/
  reproj : Bool
deriving DecidableEq, Repr

/-- A partition's page of registers and its own state. -/
structure Part where
  /-- 1; R494 13; 0 spec: RK_PCOMMIT.COMMIT_HOLD. -/
  hold : Bool
  /-- 19; R119 03; 0 spec: RK_KSTAT.PEAK. -/
  kPeak : Nat
  /-- 8; R193 05; 0x04 spec: RK_RET_CTL.DELIV_WAIT. -/
  delivWait : Sh Byte
  /-- 13; R193 05; 0x0100 spec: RK_RET_CTL.FLOW_BUDGET. -/
  flowBudget : Sh (BitVec 13)
  /-- 1; R480, R482 13; false spec: FLOW_BUDGET has been written since a boundary last applied it. -/
  flowNew : Bool
  /-- 1; R194 05; 0 spec: RK_RET_STAT.BUDGET_STALL. -/
  budgetStall : Bool
  /-- 16; R194 05; 0 spec: RK_RET_STAT.STALL_FLOW. -/
  stallFlow : W16
  /-- 6; R233 06; 0x38 spec: RK_PRB_CTL.WAVE_MAX. -/
  waveMax : Sh (BitVec 6)
  /-- 16; R234 06; 0 spec: RK_PRB_STAT.TIGHT. -/
  tight : W16
  /-- 1; R234 06; 0 spec: RK_PRB_STAT.UNBOUNDED. -/
  unbounded : Bool
  /-- 4; R260 07; 0 spec: RK_FP_CTL.FP_VEC. -/
  fpVec : BitVec 4
  /-- 1; R260 07; 0 spec: RK_FP_CTL.OVF_IRQ. -/
  ovfIrq : Bool
  /-- 1; R260 07; 0 spec: RK_FP_CTL.INV_IRQ. -/
  invIrq : Bool
  /-- 2; R260 07; 0b01 spec: RK_FP_CTL.OVF_SPLAT. -/
  ovfSplat : Sh (BitVec 2)
  /-- 2; R260 07; 0b01 spec: RK_FP_CTL.OVF_TRAVERSE. -/
  ovfTraverse : Sh (BitVec 2)
  /-- 1; R261 07; 0 spec: RK_FPSTAT.OVERFLOW. -/
  fpOverflow : Bool
  /-- 1; R261 07; 0 spec: RK_FPSTAT.INVALID. -/
  fpInvalid : Bool
  /-- 64; R262 07; 0 spec: RK_FPSTAT_CAPTURE. -/
  fpCapture : W64
  /-- 32; R263 07; 0 spec: RK_FPSTAT_CNT.OVERFLOW_CNT. -/
  ovfCnt : W32
  /-- 32; R263 07; 0 spec: RK_FPSTAT_CNT.INVALID_CNT. -/
  invCnt : W32
  /-- 4; R307 08; 0 spec: RK_SET_CTL.TRAP_VEC. -/
  trapVec : BitVec 4
  /-- 1; R307 08; 0 spec: RK_SET_CTL.TRAP_IRQ. -/
  trapIrq : Bool
  /-- 1; R307 08; 1 spec: RK_SET_CTL.AUTO_END. -/
  autoEnd : Bool
  /-- 20; R307 08; 0x0_0400 spec: RK_SET_CTL.SPIN_LIMIT. -/
  spinLimit : Sh (BitVec 20)
  /-- 45; R308 08; 0 spec: RK_SET_SAVE.SAVE_BASE, bits [56:12]. -/
  saveBase : Sh (BitVec 45)
  /-- 16; R309 08; 0 spec: RK_SET_STAT.TRAPS. -/
  traps : W16
  /-- 1; R309 08; 0 spec: RK_SET_STAT.BAD_CMD. -/
  badCmd : Bool
  /-- 2; R311 08; 0 spec: RK_SET_DBG_ADDR.SPACE. -/
  dbgSpace : BitVec 2
  /-- 21; R311 08; 0 spec: RK_SET_DBG_ADDR.INDEX. -/
  dbgIndex : BitVec 21
  /-- 32; R311 08; 0 spec: RK_SET_DBG_DATA. -/
  dbgData : W32
  /-- 13; R352 09; 0x1000 spec: RK_VIS_CTL.PARK_MAX. -/
  parkMax : Sh (BitVec 13)
  /-- 16; R353 09; 0 spec: RK_VIS_STAT.PARTIALS. -/
  partials : W16
  /-- 16; R353 09; 0 spec: RK_VIS_STAT.DEFERRED. -/
  deferred : W16
  /-- 16; R353 09; 0 spec: RK_VIS_STAT.BAD_PRIMS. -/
  badPrims : W16
  /-- 1; R353 09; 0 spec: RK_VIS_STAT.OVERDEEP. -/
  overdeep : Bool
  /-- 14; R353 09; 0 spec: RK_VIS_STAT.PASSES. -/
  passes : BitVec 14
  /-- 64; R355 09; 0 spec: RK_TEX_FALLBACK. -/
  texFallback : W64
  /-- 1; R356 09; 0 spec: RK_RES_WIN.CONSULT. -/
  consult : Sh Bool
  /-- 1; R480, R482 13; false spec: CONSULT has been written since a boundary last applied it. -/
  consultNew : Bool
  /-- 17; R356 09; 0 spec: RK_RES_WIN.WIN_BASE, bits [56:40]. -/
  winBase : Sh (BitVec 17)
  /-- 45; R357 09; 0 spec: RK_RES_MAP.MAP_ADDR, bits [56:12]. -/
  mapAddr : Sh (BitVec 45)
  /-- 4; R358 09; 0 spec: RK_DL_CTL.DL_VEC. -/
  dlVec : BitVec 4
  /-- 1; R358 09; 0 spec: RK_DL_CTL.LATE_IRQ. -/
  lateIrq : Bool
  /-- 1; R358 09; 0 spec: RK_DL_CTL.REPROJ_IRQ. -/
  reprojIrq : Bool
  /-- 1; R358 09; 0 spec: RK_DL_CTL.FIRE_IRQ. -/
  fireIrq : Bool
  /-- 16; R359 09; 0 spec: RK_DL_STAT.REPROJECTIONS. -/
  reprojections : W16
  /-- 16; R359 09; 0 spec: RK_DL_STAT.LATE_FRAMES. -/
  lateFrames : W16
  /-- 16; R359 09; 0 spec: RK_DL_STAT.PRESENTED. -/
  presented : W16
  /-- 1; R359 09; 0 spec: RK_DL_STAT.REPROJ_DENIED. -/
  reprojDenied : Bool
  /-- record; R342, R359 09; IDLE spec: the presentation deadline. -/
  deadline : Deadline
  /-- 32; R350 09; 0 spec: frames presented. -/
  frame : W32
  /-- list; R349 09; empty spec: frames of re-projected deadlines that SET_DEADLINE replaced or cleared: queue, admission number, and
  LATE_DISCARD. -/
  lateOf : List (QueueId × Nat × Bool)
  /-- option; R348 09; none spec: the re-projection under way: the reference frame's descriptor and summary, and the matrix M, as they were at the
  decision. -/
  reproj : Option (Desc × List W32 × List (Nat × W16))
  /-- option; R347 09; none spec: the reference frame: target descriptor of the last frame presented from rendering. -/
  refFrame : Option Desc
  /-- option; R347 09; none spec: size of the PRESENT target the summary copies are reserved for, width and height. -/
  summary : Option (Nat × Nat)
  /-- list; R347 09; empty spec: the reference summary, minimum depth of each 4 x 4 block, FP16. -/
  refSummary : List (Nat × W16)
  /-- list; R347 09; empty spec: the spare summary. -/
  spareSummary : List (Nat × W16)
  /-- 4; R394 10; 3 spec: RK_FWD_LEASE.REISSUE_MAX. -/
  reissueMax : Sh (BitVec 4)
  /-- 4; R394 10; 4 spec: RK_FWD_LEASE.EXTEND_MAX. -/
  extendMax : Sh (BitVec 4)
  /-- 20; R394 10; 0x0_00C8 spec: RK_FWD_LEASE.LEASE_US. -/
  leaseUs : Sh (BitVec 20)
  /-- 1; R459 12; 0 spec: RK_MMU_ROOT.ENABLE. -/
  mmuEnable : Sh Bool
  /-- 40; R459 12; 0 spec: RK_MMU_ROOT.ROOT, bits [51:12]. -/
  mmuRoot : Sh (BitVec 40)
  /-- 45; R461 12; 0 spec: RK_FQ_BASE.BASE, bits [56:12]. -/
  fqBase : Sh (BitVec 45)
  /-- 4; R461 12; 0 spec: RK_FQ_BASE.FQ_VEC. -/
  fqVec : BitVec 4
  /-- 4; R461 12; 0 spec: RK_FQ_BASE.SIZE. -/
  fqSize : Sh (BitVec 4)
  /-- 1; R480, R482 13; false spec: SIZE has been written since a boundary last applied it. -/
  sizeNew : Bool
  /-- 17; R462 12; 0 spec: RK_FQ_ACK.FQ_HEAD. -/
  fqHead : BitVec 17
  /-- Nat; R446 12; 0 spec: write position of the fault queue. -/
  fqWrite : Nat
  /-- list; R446 12; empty spec: fault records held on chip, oldest first (each a 64 B record without its PHASE). -/
  fqHeld : List Slot64
  /-- 16; R464 12; 0 spec: RK_FAULT_STAT.FAULTS. -/
  faults : W16
  /-- 16; R464 12; 0 spec: RK_FAULT_STAT.JOINS. -/
  joins : W16
  /-- 1; R464 12; 0 spec: RK_FAULT_STAT.PART_ERROR. -/
  partError : Bool
  /-- 2; R464 12; 0 spec: RK_FAULT_STAT.PE_REASON. -/
  peReason : BitVec 2
  /-- 1; R464 12; 0 spec: RK_FAULT_STAT.BAD_REPLAY. -/
  badReplay : Bool
  /-- 1; R464 12; 0 spec: RK_FAULT_STAT.FQ_FAULT. -/
  fqFault : Bool
  /-- 1; R464 12; 0 spec: RK_FAULT_STAT.NOTICE_DROP. -/
  noticeDrop : Bool
  /-- list; R443 12; empty spec: invalidations not yet complete, the oldest in progress (INVAL_BUSY). -/
  invals : List Inval
  /-- list; R444 12; empty spec: the overflow list (OVERFLOW_WAIT). -/
  overflow : List Over
  /-- 16; R522 14; 0 spec: RK_PERR.CONT_CNT. -/
  contCnt : W16
  /-- 1; R522 14; 0 spec: RK_PERR.RESETTING. -/
  resetting : Bool
  /-- 1; R518 14; false spec: the reset under way was an FLR, or one joined it. -/
  flr : Bool
  /-- 1; R522 14; 0 spec: RK_PERR.RESET_DONE. -/
  resetDone : Bool
  /-- up to 1,024; R72 02; empty DESIGN CHOICE (log 7): hierarchy binding slots. -/
  hiers : HierTable
  /-- up to 256; R72 02; empty DESIGN CHOICE (log 7): program binding slots. -/
  progs : ProgTable
deriving DecidableEq, Repr

/-- Where an admitted command stands. -/
inductive Phase where
  | admitted | running | finished
deriving DecidableEq, Repr

/-- An admitted command that has no completion yet written (R53 to R57). `held` says why its intake is held: [0] Kennel slots (R91,
RK_KSTAT.HELD), [1] heap, [2] walk store, [3] bundle count (R201, RK_PRB_STAT), [4] flow budget or Retriever share (R161, R192); 0 while it
is not. -/
structure Cmd where
  seq      : Nat
  entry    : Nat
  index    : Nat
  raw      : Slot64
  phase    : Phase
  status   : W16
  done     : Nat
  total    : Nat
  itemBad  : Bool
  writes   : Nat
  next     : Nat
  last     : Nat
  intakeAt : Nat
  hold     : Bool
  parked   : Bool
  ovf      : BitVec 2
  caddy    : BitVec 2
  gen      : BitVec 6
  cls      : BitVec 2
  flowSeq  : Nat
  hiers    : HierTable
  progs    : ProgTable
  descs    : List (Nat × Desc)
  offset   : Nat
  record   : Bool
  presents : Bool
  held     : BitVec 5
deriving DecidableEq, Repr

/-- A command fetched and not yet admitted. -/
structure Fetched where
  entry : Nat
  index : Nat
  raw   : Slot64
  st    : W16
deriving DecidableEq, Repr

/-- The ring entry whose commands are being fetched (R42): its ring position, command list, count and next index. -/
structure Fetching where
  entry : Nat
  addr  : Nat
  count : Nat
  next  : Nat
deriving DecidableEq, Repr

/-- One queue (R37 to R56). -/
structure Queue where
  /-- 51; R46 02; 0 spec: RK_QDESC.DESC_ADDR, bits [56:6]. -/
  desc : BitVec 51
  /-- 4; R47 02; 0 spec: RK_QCTL.CPL_VEC. -/
  vec : BitVec 4
  /-- 1; R47 02; 0 spec: RK_QCTL.ENABLE. -/
  enable : Bool
  /-- 1; R49 02; 0 spec: RK_QSTAT.ENABLED. -/
  enabled : Bool
  /-- 1; R49 02; 0 spec: RK_QSTAT.BAD_WHISTLE. -/
  badWhistle : Bool
  /-- 1; R49 02; 0 spec: RK_QSTAT.BAD_DESC. -/
  badDesc : Bool
  /-- 1; R49 02; 0 spec: RK_QSTAT.ERR_STOP. -/
  errStop : Bool
  /-- 17; R49, R43 02; 0 spec: HEAD, ring position. -/
  head : Nat
  /-- 17; R43 02; 0 spec: the tail, ring position. -/
  tail : Nat
  /-- Nat; R41 02; 0 DESIGN CHOICE (log 8): RING_ADDR of the descriptor read at enable. -/
  ring : Nat
  /-- Nat; R41 02; 0 DESIGN CHOICE (log 8): RING_ENTRIES. -/
  entries : Nat
  /-- 2; R41, R51 02; 0 DESIGN CHOICE (log 8): PRIO. -/
  prio : BitVec 2
  /-- 1; R41 02; false DESIGN CHOICE (log 8): STOP_ON_ERR. -/
  stopOnErr : Bool
  /-- Nat; R41 02; 0 DESIGN CHOICE (log 8): CPL_ADDR. -/
  cplAddr : Nat
  /-- Nat; R41 02; 0 DESIGN CHOICE (log 8): CPL_ENTRIES. -/
  cplEntries : Nat
  /-- 17; R50 02; 0 spec: RK_QCPL_ACK.CPL_HEAD. -/
  cplHead : BitVec 17
  /-- Nat; R47 02; 0 spec: completion write position. -/
  cplWrite : Nat
  /-- option; R42 02; none spec: the ring entry whose commands are being fetched. -/
  cur : Option Fetching
  /-- list; R42, R52 02; empty spec: commands fetched and not yet admitted. -/
  fetched : List Fetched
  /-- list; R53, R55 02; empty spec: commands admitted whose completion is not yet written, in admission order. -/
  cmds : List Cmd
  /-- Nat; R53 02; 0 spec: admission number of the next command. -/
  seq : Nat
  /-- 1; R450 12; false spec: the fetch of the queue is parked on a fault. -/
  parked : Bool
  /-- 1; R450 12; false spec: the enable of the queue is parked on a fault. -/
  enParked : Bool
  /-- 1; R450 12; false spec: the completion writes of the queue are parked on a fault. -/
  cplParked : Bool
  /-- Nat; R52 02; 0 spec: fetch slots since the queue was last chosen. -/
  waited : Nat
  /-- option; R79 02; none spec: what the progress shadow reports last: TAG, opcode, entry, index, done, total. -/
  last : Option (W32 × Byte × Nat × Nat × Nat × Nat)
  /-- option; R79 02; none spec: TAG, entry and index of the command the progress shadow was last written for. -/
  shown : Option (W32 × Nat × Nat)
deriving DecidableEq, Repr

/-- The Command Front's arbitration (R52). -/
structure Front where
  /-- 4; R52 02; 0 DESIGN CHOICE (log 9): fetch slot number, modulo 16. -/
  slot : BitVec 4
  /-- 4 x 6; R52 02; 63 DESIGN CHOICE (log 9): last queue chosen of each class. -/
  last : Vector QueueId 4
deriving DecidableEq, Repr

/-- Ray state (R101). -/
inductive RState where
  | active | faultWait | invokeWait | haltWait | spillWait | forwarded | done
deriving DecidableEq, Repr

/-- Traversal state (R102): EXT, the short entries from S0 as signed differences (SDEPTH is the list's length), IN_INST, CUR_NODE. -/
structure TState where
  ext    : Bool
  short  : List Int
  inInst : Bool
  cur    : Nat
deriving DecidableEq, Repr

/-- The visit word (R172), with the leaf child that PRIM_POS counts in, of both levels (R174: "if that child was under way"). -/
structure Visit where
  lastTu    : Byte
  leafDone  : Byte
  primPos   : BitVec 5
  topDone   : Byte
  topPos    : BitVec 5
  resume    : Bool
  topResume : Bool
  child     : Option Nat
  topChild  : Option Nat
deriving DecidableEq, Repr

/-- The candidate entry (R187). -/
structure Cand where
  prim  : W32
  inst  : W32
  u     : W16
  v     : W16
  valid : Bool
  invalid : Bool
  nonres  : Bool
  fwd     : Bool
  reissued : Bool
deriving DecidableEq, Repr

/-- Which command of which queue an item stems from; `none` in `Ray.cmd` for a foreign query. -/
structure CmdRef where
  q   : QueueId
  seq : Nat
deriving DecidableEq, Repr

/-- What a ray does next when it is not in the Herder: the program it waits for (role, program slot, primitive of the leaf),
the slot it waits for, its end. -/
inductive RayWait where
  | none
  | invoke (role : Nat) (slot : Nat) (prim : W32) (t : W32) (u v : W16) (rec32 : Rec32) (opaqueHit : Bool)
  | spillPush (pushes : List Nat) (next : Nat)
  | spillInst (unit : Nat)
  | spillLeash (child : Nat) (subtree : W16)
  | forward (child : Nat) (subtree : W16)
  | remote (child : Nat) (leash : Nat)
  | ended (code : Byte)
deriving DecidableEq, Repr

/-- A ray record in the Kennel (R96), with its visit word (R172), its candidate entry (R187) and what binds it to its command; `doneAt` is
when it ended and became ready for RETURN (R188), `since` when it was ready as it parked on a fault (R448; 0 where it was not). -/
structure Ray where
  origin  : Vector W32 3
  dir     : Vector W32 3
  tmin    : W32
  tmax    : W32
  flow    : W16
  flags   : W16
  vis     : Byte
  rstate  : RState
  hier    : W16
  payload : W64
  ts      : TState
  visit   : Visit
  cand    : Cand
  wait    : RayWait
  cmd     : Option CmdRef
  index   : Nat
  cls     : BitVec 2
  caddy   : BitVec 2
  gen     : BitVec 6
  ovf     : BitVec 2
  kind    : BitVec 3
  base    : Nat
  root    : Nat
  desc    : Nat
  inst    : Option Nat
  leash   : Option Nat
  line    : Nat
  subBase : Nat × Nat × Nat
  doneAt  : Nat
  since   : Nat
deriving DecidableEq, Repr

/-- An instance frame (R106), with the instance's flags and program offset, and the hierarchy being walked. -/
structure InstFrame where
  origin  : Vector W32 3
  dir     : Vector W32 3
  instId  : W32
  saved   : TState
  blas    : W64
  iflags  : Byte
  progBase : W16
  savedBase : Nat
  savedRoot : Nat
deriving DecidableEq, Repr

/-- A Leash (R385). `failedSub` is the subtree that FAILED was lost for, `body` the query sent under it. -/
structure Leash where
  queryId : W32
  subtree : W16
  lkind   : BitVec 2
  entry   : Byte
  owner   : ChipId
  link    : BitVec 5
  failed  : ChipId
  failedValid : Bool
  failedSub : W16
  extends_ : Byte
  reissues : Byte
  epoch   : W32
  live    : Bool
  sent    : Bool
  body    : MsgBody
deriving DecidableEq, Repr

/-- What a Kennel slot holds (R85). -/
inductive KData where
  | ray (r : Ray)
  | ext (owner : Nat) (entries : List Nat)
  | inst (f : InstFrame)
  | head (raw : Slot64)
  | body (raw : Slot64)
  | leash (l : Leash)
deriving DecidableEq, Repr

/-- An allocated Kennel slot: sideband tag and link (R84), and its record. -/
structure KSlot where
  foreign : Bool
  part    : PartId
  link    : Option Nat
  data    : KData
deriving DecidableEq, Repr

/-- The Kennel (R83 to R95). -/
structure Kennel where
  /-- 262,144 x 64 B; R83, R84 03; all FREE spec: the slots that are not FREE, by rising index. -/
  slots : List (Nat × KSlot)
  /-- 262,144 x 14; R84, R94 03; 1 each spec: the generations that are not 1, by rising index. -/
  gens : List (Nat × BitVec 14)
  /-- 64; R88, R515 03, 14; 0 spec: banks out of service or leaving it. -/
  banksOut : BitVec 64
  /-- 64; R516 14; 0 spec: banks being scrubbed to return. -/
  banksBack : BitVec 64
  /-- 16; R120 03; 0 spec: RK_KERR.UNCORR. -/
  uncorr : W16
  /-- 16; R120 03; 0 spec: RK_KERR.CORR. -/
  corr : W16
  /-- list; R84, R118 03; empty spec: free slots that have held a record since reset or since their bank was scrubbed. -/
  stale : List Nat
  /-- 64; R118, R516 03, 14; 0 spec: banks that have been scrubbed to zero since reset. -/
  scrubbed : BitVec 64
  /-- 262,144 x 40; R172 05; 0xFF_0000_0000 spec (set at partition reset): the visit words of free slots that hold another value. -/
  visits : List (Nat × Visit)
  /-- 262,144 x 64 B; R526 14; empty spec: what debug WRITEs have left in free slots. -/
  images : List (Nat × Slot64)
  /-- 262,144 x 128; R187, R526 05, 14; empty spec: what debug WRITEs have left in the candidate entries of slots without a ray. -/
  cands : List (Nat × Cand)
deriving DecidableEq, Repr

/-- Kind of a probe operation (R213, R224). -/
inductive OpKind where
  | bound | score | reduce
deriving DecidableEq, Repr

/-- A probe operation waiting or in flight: bundle (header slot), its own number, kind, the frontier entry's child word and its
alive set, and when it was ready, if it parked then (R448). -/
structure ProbeOp where
  bundle : Nat
  id     : Nat
  kind   : OpKind
  child  : BitVec 24
  alive  : W32
  since  : Nat
deriving DecidableEq, Repr

/-- What waits in the Herder: a ray by its Kennel slot, a probe operation, or a group that waits for its scorer instruction (R281). -/
inductive HItem where
  | ray (slot : Nat)
  | op (o : ProbeOp)
  | group (block : Nat) (inBlock : Nat)
deriving DecidableEq, Repr

/-- An item in the Herder: its partition, the line it waits on, when it became ready (R397; 0 while it is not), and the ready time that it came
back with (R164, R448; 0 where it has none). -/
structure HWait where
  item  : HItem
  part  : PartId
  line  : Nat
  ready : Nat
  since : Nat
deriving DecidableEq, Repr

/-- An entry of the matching store (R162): partition, line of the virtual address, whether its items are ready, the items, and when the entry
was made, which is when its FETCH was ready but for a place on its port (R163, R396). -/
structure MatchEntry where
  part  : PartId
  line  : Nat
  ready : Bool
  items : List HWait
  born  : Nat
deriving DecidableEq, Repr

/-- A pack in a TU's queue (R164, R214). -/
structure Pack where
  part  : PartId
  line  : Nat
  items : List HWait
deriving DecidableEq, Repr

/-- A program invocation waiting to be grouped (R180). -/
structure Invoke where
  part  : PartId
  cls   : BitVec 2
  caddy : BitVec 2
  slot  : Nat
  ray   : Nat
  ready : Nat
deriving DecidableEq, Repr

/-- The Herder (R162 to R168). -/
structure Herd where
  /-- up to 32,768; R162 05; empty spec: the matching store, oldest entry first. -/
  store : List MatchEntry
  /-- list; R165 05; empty spec: the unmatched list, oldest first. -/
  unmatched : List HWait
  /-- list; R163 05; empty DESIGN CHOICE (log 10): lines present in the NC, partition and line of the virtual address. -/
  nc : List (PartId × Nat)
  /-- list; R14, R163 01, 05; empty spec: reads of lines outstanding: partition, line and memory-fabric port. -/
  reads : List (PartId × Nat × PortId)
  /-- list; R180 05; empty spec: invocations waiting to be grouped, oldest first. -/
  invokes : List Invoke
  /-- 1; R166 05; 1 spec: RK_HERD_CTL.IDLE_ISSUE. -/
  idleIssue : Sh Bool
  /-- 6; R166 05; 0x20 spec: RK_HERD_CTL.PACK_MAX. -/
  packMax : Sh (BitVec 6)
  /-- 16; R166 05; 0x03E8 spec: RK_HERD_CTL.PACK_WAIT. -/
  packWait : Sh W16
  /-- 1; R167 05; 0 spec: RK_HERD_STAT.MATCH_FULL. -/
  matchFull : Bool
  /-- 16; R167 05; 0 spec: RK_HERD_STAT.MATCH_PEAK. -/
  matchPeak : Nat
  /-- up to 4,096; R167 05; empty spec: rays of each of the last 4,096 packs, newest first (PACK_MEAN). -/
  packs : List Nat
  /-- 8 x 16 x 4; R398 11; 0 DESIGN CHOICE (log 15): issues of each ready list, modulo 16, by operation type and partition. -/
  issues : Vector (Vector (BitVec 4) 16) 8
  /-- list; R259 07; empty spec: invalid operations of the pack under way, not yet reported. -/
  invs : List FpInv
  /-- 4; R398 11; 15 DESIGN CHOICE (log 15): the partition that the block-wide FETCH list served last. -/
  turn : PartId
deriving DecidableEq, Repr

/-- A row of physical TUs (R427, R432). -/
structure Row where
  /-- 17; R432 11; 0 spec: FENCED. -/
  fenced : BitVec 17
  /-- 17; R432 11; 0x0_FFFF spec: ACTIVE. -/
  active : BitVec 17
  /-- 1; R432 11; 0 spec: ROW_FENCED. -/
  rowFenced : Bool
  /-- 1; R432 11; 0 spec: SPARE_USED. -/
  spareUsed : Bool
  /-- 4; R432 11; 0 spec: SPARE_POS. -/
  sparePos : BitVec 4
  /-- 17; R426 11; 0 spec: positions in self-test before they return. -/
  testing : BitVec 17
  /-- 17 counts; R428 11; 0 spec: residue errors of each position since its last self-test. -/
  residue : Vector Nat 17
  /-- option, 4; R428 11; none spec: the logical position that the idle spare was called for. -/
  callFor : Option (BitVec 4)
  /-- 1; R430 11; 0 spec: the spare drains to hand its position back. -/
  handBack : Bool
deriving DecidableEq, Repr

/-- A logical TU (R168, R214): its input queue, oldest first, the bundles in its query buffer, the lines in its L0, newest first (R413, R420), and
the generation of the settings of each caddy that it holds (R426). -/
structure Tu where
  queue  : List Pack
  buffer : List Nat
  l0     : List (PartId × Nat)
  gens   : Vector (BitVec 6) 4
deriving DecidableEq, Repr

/-- A TU that is cold: it holds nothing. -/
def Tu.reset : Tu := ⟨[], [], [], Vector.replicate 4 0⟩

/-- The traversal array (R422 to R436) and the services of R515 to R517. -/
structure Arr where
  /-- 128 TUs; R168, R214 05, 06; empty spec: the logical TUs. -/
  tus : Vector Tu 128
  /-- 8 rows; R427, R432 11; spec: the rows. -/
  rows : Vector Row 8
  /-- 4; R435 11; 2 spec: RK_ARR_CTL.AUTO_FENCE. -/
  autoFence : BitVec 4
  /-- 1; R435 11; 0 spec: RK_ARR_CTL.SLEEP_EAST. -/
  sleepEast : Bool
  /-- 1; R435 11; 0 spec: RK_ARR_CTL.SLEEP_WEST. -/
  sleepWest : Bool
  /-- 1; R435 11; 0 spec: RK_ARR_CTL.DIST_MODE. -/
  dist : Sh Bool
  /-- 2; R436 11; 0 spec: RK_ARR_STAT.EAST. -/
  east : BitVec 2
  /-- 2; R436 11; 0 spec: RK_ARR_STAT.WEST. -/
  west : BitVec 2
  /-- 1; R436 11; 0 spec: RK_ARR_STAT.SLEEP_REFUSED. -/
  sleepRefused : Bool
  /-- 1; R436 11; 0 spec: RK_ARR_STAT.FENCE_EVENT. -/
  fenceEvent : Bool
  /-- 16; R436 11; 0 spec: RK_ARR_STAT.RESIDUE_ERRS. -/
  residueErrs : W16
  /-- 4; R406 11; 6 spec: RK_SCHED_CTL.IMB_SET. -/
  imbSet : Sh (BitVec 4)
  /-- 3; R406 11; 3 spec: RK_SCHED_CTL.IMB_TU. -/
  imbTu : Sh (BitVec 3)
  /-- 8; R406 11; 0x0A spec: RK_SCHED_CTL.BLK_LIMIT_MS. -/
  blkLimit : Byte
  /-- 1; R406 11; 0 spec: RK_SCHED_CTL.BLK_DRAINING. -/
  blkDraining : Bool
  /-- 1; R406 11; 0 spec: RK_SCHED_CTL.BLK_TIMEOUT. -/
  blkTimeout : Bool
  /-- 16; R515, R517 14; 0 spec: Setter cores out of service or leaving it. -/
  coresOut : BitVec 16
  /-- 16; R515, R517 14; 0 spec: Strainer units out of service or leaving it. -/
  unitsOut : BitVec 16
  /-- 16; R516 14; 0 spec: Setter cores in self-test to return. -/
  coresBack : BitVec 16
  /-- 16; R516 14; 0 spec: Strainer units in scrub to return. -/
  unitsBack : BitVec 16
deriving DecidableEq, Repr

/-- The power controller (R29 to R32, R399). -/
structure Pwr where
  /-- 9; R31 01; 0x118 spec: RK_PWR_CTL.CAP_W. -/
  capW : BitVec 9
  /-- 2; R31 01; 0b11 spec: RK_PWR_CTL.MODE; the value in force is RK_PWR_STAT.MODE_APPLIED. -/
  mode : Sh (BitVec 2)
  /-- 8; R32 01; 0x9C spec: RK_PWR_STAT.V_SETTER, in 5 mV. -/
  vSetter : Byte
  /-- 8; R32 01; 0x9C spec: RK_PWR_STAT.V_EAST, in 5 mV. -/
  vEast : Byte
  /-- 8; R32 01; 0x9C spec: RK_PWR_STAT.V_WEST, in 5 mV. -/
  vWest : Byte
  /-- 1; R32 01; 0 spec: RK_PWR_STAT.OVER_CAP. -/
  overCap : Bool
  /-- 5; R399 11; 16 spec: the fraction F, in sixteenths; THROTTLE is F below 16. -/
  frac : BitVec 5
  /-- 9; R32 01; 0 spec: RK_PWR_STAT.EST_W. -/
  estW : BitVec 9
deriving DecidableEq, Repr

/-- How a Retriever entry stands (R188 to R190). -/
inductive RetState where
  | reserved | held | released | writing | parked
deriving DecidableEq, Repr

/-- An entry of the Retriever (R188, R191). -/
structure RetEntry where
  id      : Nat
  part    : PartId
  flow    : W16
  order   : Option Nat
  cmd     : CmdRef
  index   : Nat
  state   : RetState
  bundle  : Option Nat
  record  : Rec32
  deliver : Option (PortId × BitVec 12)
  addr    : Nat
deriving DecidableEq, Repr

/-- An ordered flow (R81, R190): its holding queue, the next release sequence to assign and the next to release. -/
structure Flow where
  part : PartId
  flow : W16
  q    : QueueId
  next : Nat
  rel  : Nat
  skip : List (Nat × Nat)
deriving DecidableEq, Repr

/-- A delivery being filled for a cell group (R189): its records' entries, whether it is due, and when its first record joined. -/
structure Deliv where
  port    : PortId
  group   : BitVec 12
  recs    : List Nat
  due     : Bool
  since   : Nat
deriving DecidableEq, Repr

/-- What waits on a memory write (R15): a Retriever entry, a command, a Setter group, or nothing any more. -/
inductive WriteFor where
  | entry (id : Nat)
  | command (c : CmdRef)
  | group (core : CoreId) (slot : Fin 16)
  | nobody
deriving DecidableEq, Repr

/-- An outstanding memory write (R15): its number, what waits on it, the partition it is for, and the runs of bytes it writes, virtual address and
length. -/
structure MemWrite where
  num   : Nat
  who   : WriteFor
  part  : PartId
  spans : List (Nat × Nat)
deriving DecidableEq, Repr

/-- The Retriever (R187 to R194) and the fabric credits (R10). -/
structure Ret where
  /-- up to 65,536; R188 05; empty spec: the entries held or reserved, oldest first. -/
  entries : List RetEntry
  /-- Nat; R188 05; 0 spec: number of the next entry. -/
  next : Nat
  /-- list; R81, R190 02, 05; empty spec: the ordered flows that are held. -/
  flows : List Flow
  /-- list; R189 05; empty spec: deliveries being filled. -/
  delivs : List Deliv
  /-- list; R10 01; empty spec: credit granted by receivers: port, network, cell group, words. -/
  credit : List ((PortId × Net × BitVec 12) × Nat)
  /-- list; R10 01; empty spec: words that senders have sent on a network of a port since Rampor last granted credit there. -/
  spent : List ((PortId × Net) × Nat)
  /-- list; R15 01; empty spec: writes not yet acknowledged. -/
  writes : List MemWrite
  /-- Nat; R15 01; 0 spec: number of the next write. -/
  nextWrite : Nat
  /-- list; R10, R12 01; empty spec: the networks of the ports on which Rampor has granted credit since reset release. -/
  granted : List (PortId × Net)
deriving DecidableEq, Repr

/-- A frontier entry (R209), with whether its operation is in flight, whether a Leash holds it, and whether it was picked for forwarding
(R384). -/
structure FEntry where
  child   : BitVec 24
  level   : Nat
  part    : Bool
  taken   : Byte
  alive   : W32
  prio    : W32
  busy    : Option Nat
  leash   : Option Nat
  fwd     : Bool
deriving DecidableEq, Repr

/-- An entry of a query's heap: key, score, lo part, and its source (R216, R228: 0 local, else subtree ID plus 1). -/
structure HeapEnt where
  key   : Nat
  score : W32
  lo    : W32
  src   : Nat
deriving DecidableEq, Repr

/-- The projection record of a query (R203). -/
structure Proj where
  pq  : List W32
  eps : W32
  rho : W32
deriving DecidableEq, Repr

/-- The result of a BOUND: operation number, frontier child, and per child slot its alive set and priority (R208, R210). -/
structure BoundRes where
  op    : Nat
  kids  : List (BitVec 24 × Nat × W32 × W32)
  nonres : Bool
  contained : Bool
deriving DecidableEq, Repr

/-- The result of a SCORE: operation number and candidates by query (R216). -/
structure ScoreRes where
  op    : Nat
  cands : List (Nat × HeapEnt)
  invalid : W32
  nonres : Bool
  alive : W32
  contained : Bool
deriving DecidableEq, Repr

/-- Phase of a bundle: its walk, its value rounds (REDUCING of R230), its end. FAULT_WAIT and FORWARDED of R230 follow from what it waits for. -/
inductive BState where
  | active | reducing | done
deriving DecidableEq, Repr

/-- A probe bundle in the Strainer (R197 to R230); `solo` is the BOUND in flight that was issued in tight mode (R211); `readyAt` is when it came to have
its FORWARD, its first REDUCE or its RETURN to make (R397). -/
structure Bundle where
  head     : Nat
  foreign  : Option (LinkId × MsgHdr × W32)
  cmd      : Option CmdRef
  index    : Nat
  cls      : BitVec 2
  caddy    : BitVec 2
  gen      : BitVec 6
  ovf      : BitVec 2
  part     : PartId
  flow     : W16
  q        : Nat
  qfmt     : BitVec 3
  d        : Nat
  k        : Nat
  precise  : Bool
  nanRank  : BitVec 2
  reduce   : Bool
  dv       : Nat
  outFmt   : Byte
  smScale  : W32
  desc     : Desc
  vdesc    : Desc
  unit     : UnitId
  heapB    : Nat
  walkB    : Nat
  state    : BState
  status   : W16
  solo     : Option Nat
  unbounded : Bool
  proj     : List Proj
  frontier : List FEntry
  heaps    : List (List HeapEnt)
  thresh0  : List W32
  qstatus  : List Byte
  inflight : List ProbeOp
  parkedOps : List ProbeOp
  nextOp   : Nat
  bounds   : W32
  scores   : W32
  boundRes : List BoundRes
  scoreRes : List ScoreRes
  chunks   : List (List Nat)
  triples  : List (Fin 32 × Triple)
  accs     : List (Option Triple)
  leashes  : List Nat
  offset   : Nat
  placed   : Bool
  xlists   : List (List (Nat × W32))
  requests : List (Nat × List (List (W32 × W32)))
  outs     : List (Option (List W32))
  result   : Option (List Slot64)
  readyAt  : Nat
deriving DecidableEq, Repr

/-- The Strainer (R199 to R202, R378). -/
structure Strain where
  /-- up to 4,096; R199 06; empty spec: the bundles in flight, oldest first. -/
  bundles : List Bundle
  /-- 16 counts; R515 14; 0 spec: uncorrectable words of each unit since its last self-test. -/
  uncorr : Vector Nat 16
deriving DecidableEq, Repr

/-- State of a Setter group (R299). -/
inductive GState where
  | free | running | waiting | halted | trapped | saved
deriving DecidableEq, Repr

/-- What a group works for: rays by lane, a call (port, header, lanes), fragments of a tile (unit, slot, the tile's serial number, list position, block). -/
inductive GWork where
  | rays (role : Nat) (slot : Nat) (lanes : List Nat)
  | call (port : PortId) (slot : Nat) (hdr : Slot64) (args : List (BitVec 128))
  | frag (unit : Fin 64) (slot : Fin 4) (serial : Nat) (pos : Nat) (block : Fin 8)
deriving DecidableEq, Repr

/-- The record of a partial barrier arrival (R297): barrier and absent lanes. -/
structure BarRec where
  bar    : Fin 16
  absent : W32
deriving DecidableEq, Repr

/-- What a WAITING group waits for: a barrier of its block or cluster set, the acknowledgements of FENCE.SYS, its scorer instruction
(R281: destination, formats, scalar register of the queries, vector register of the keys), or, once all its lanes have exited, the
acknowledgements of its stores and then a tile that can accept its results (R288, R289, R296, R328). -/
inductive GWait where
  | none | bar (b : Fin 16) | barClu (b : Fin 4) | fence | ending | accept
  | score (dst : Nat) (qfmt kfmt : BitVec 3) (queries keys : Nat)
deriving DecidableEq, Repr

/-- A Setter group, waiting for its launch, resident or saved (R269, R276, R283, R299): `free` numbers the values of the registers that
no convention loads, `dstack` the entries of the divergence stack held in hardware and `spilled` how many are in the spill area, `arrived`
and `cluArr` count its arrivals at each barrier, `results` holds what its exited lanes returned, `invs` and `ovfs` the invalid operations
and overflows it will report with its return (R259). -/
structure Group where
  part    : PartId
  cls     : BitVec 2
  caddy   : BitVec 2
  gen     : BitVec 6
  ovf     : BitVec 2
  prog    : Prog
  pslot   : Nat
  work    : GWork
  cmd     : Option CmdRef
  tag     : W32
  launch  : W32
  active  : W32
  exited  : W32
  pc      : W32
  state   : GState
  kept    : GState
  wait    : GWait
  vregs   : List (Nat × Vector W32 32)
  sregs   : List (Nat × W32)
  free    : Nat
  dstack  : List (W32 × W32)
  spilled : Nat
  spin    : Option Nat
  bars    : List BarRec
  arrived : List (Nat × Nat)
  cluArr  : List (Nat × Nat)
  trap    : Byte
  stepping : Bool
  block   : Nat
  rank    : Nat
  inBlock : Nat
  stores  : Nat
  results : List (Nat × List W32)
  age     : Nat
  invs    : List FpInv
  ovfs    : Nat
deriving DecidableEq, Repr

/-- A block of groups on a core (R269, R273): its cluster set, its program, the KiB of the core's local store it holds, and their content. -/
structure Block where
  id      : Nat
  set     : Nat
  rank    : Nat
  groups  : Nat
  ended   : Nat
  bytes   : Nat
  cluster : Nat
  prog    : Prog
  pages   : List Nat
  store   : Mem
deriving DecidableEq, Repr

/-- A byte that a group has stored and that is not yet visible to other cores and units (R288): the number of its write, the core, block
and number in it of the group, physical address, value, whether the write has been acknowledged, and whether the group has ended or its
fence has completed. -/
structure PendStore where
  num     : Nat
  core    : CoreId
  block   : Nat
  inBlock : Nat
  pa      : Nat
  value   : Byte
  acked   : Bool
  loose   : Bool
deriving DecidableEq, Repr

/-- A group or block waiting in a dispatcher queue (R298). -/
structure Waiting where
  groups : List Group
  cluster : Nat
deriving DecidableEq, Repr

/-- A Setter core (R268 to R275, R287, R298). -/
structure Core where
  /-- 16 slots; R268 08; empty spec: the resident groups by slot. -/
  groups : Vector (Option Group) 16
  /-- up to 8; R298 08; empty spec: the dispatcher queue, oldest first. -/
  queue : List Waiting
  /-- list; R269, R284 08; empty spec: blocks whose local store is held. -/
  blocks : List Block
  /-- 2; R73, R274 02, 08; 0 DESIGN CHOICE (log 11): the split in force. -/
  split : BitVec 2
  /-- list; R287 08; empty spec: L1 lines: partition, line, 128 B. -/
  l1 : List (PartId × Nat × BitVec 1024)
  /-- Nat; R515 14; 0 spec: uncorrectable words since the last self-test. -/
  uncorr : Nat
deriving DecidableEq, Repr

/-- The Setter cores and what waits for them (R268 to R302). -/
structure Setter where
  /-- 16 cores; R268 08; empty spec: the cores. -/
  cores : Vector Core 16
  /-- list; R300 08; empty spec: groups saved, with their core and slot, oldest first. -/
  saved : List (GroupRef × Group)
  /-- list; R300 08; empty spec: blocks saved, with their core. -/
  savedBlocks : List (CoreId × Block)
  /-- list; R278, R279 08; empty spec: calls waiting for their block to fill: port, program as bound at arrival, header, arguments. -/
  calls : List (PortId × Prog × Slot64 × List (BitVec 128))
  /-- list; R298 08; empty spec: for each partition, command and program slot the core that launched its most recent group. -/
  recent : List ((PartId × Option CmdRef × Nat) × CoreId)
  /-- list; R10, R278 01, 08; empty spec: call replies that wait for credit, oldest first. -/
  replies : List PortMsg
  /-- Nat; R269 08; 0 spec: number of the next block or launch. -/
  next : Nat
  /-- list; R288 08; empty spec: stored bytes not yet visible to other cores and units, oldest first. -/
  pend : List PendStore
deriving DecidableEq, Repr

/-- A pixel of a tile slot (R313, R323). -/
structure Pixel where
  chans : List W32
  depth : W32
  trans : W32
  last  : W32
  dead  : Bool
deriving DecidableEq, Repr

/-- A list position sent to a fragment program: the block, the lanes launched, the input record, and what the lanes returned (R326, R327). -/
structure Frag where
  pos    : Nat
  block  : Fin 8
  mask   : W32
  prim   : Slot64
  result : Option (List (Nat × List W32))
deriving DecidableEq, Repr

/-- A tile in a tile slot (R313, R322, R327): `serial` tells it from the slot's other tiles, `nexts` is NEXT of each quad, `issued` the
first list position not yet issued. -/
structure Tile where
  serial : Nat
  cmd    : CmdRef
  part   : PartId
  cls    : BitVec 2
  tile   : Nat
  list   : List (W32 × Nat)
  pixels : Vector Pixel 256
  status : Byte
  final  : Bool
  nexts  : List Nat
  frags  : List Frag
  issued : Nat
deriving DecidableEq, Repr

/-- Where a pass stands: it bins, it waits for parking at its first overflow, it renders its active set partially, or finally (R321, R331). -/
inductive PPhase where
  | binning | waiting | partly | finally_
deriving DecidableEq, Repr

/-- A SPLAT command in its passes (R321, R331): the first tile row of the band, the active set of the pass, the tiles deferred to a
further pass, the tiles of the phase not yet taken by a tile unit, the next primitive to bin, the tiles' lists, the depths in parking,
and what the status area will show. -/
structure Pass where
  cmd      : CmdRef
  part     : PartId
  cls      : BitVec 2
  target   : Desc
  row      : Nat
  phase    : PPhase
  active   : List Nat
  deferred : List Nat
  todo     : List Nat
  prim     : Nat
  bins     : List (Nat × List (W32 × Nat))
  parked   : List (Nat × List W32)
  granted  : Nat
  badPrims : Nat
  firstBad : W32
  partials : Nat
  passes   : Nat
  status   : List (Nat × Byte)
deriving DecidableEq, Repr

/-- A request that waits for depth parking (R332): its command, partition and class, and the target size of a summary reservation (R347);
none for a pass at its first overflow. -/
structure ParkReq where
  cmd  : CmdRef
  part : PartId
  cls  : BitVec 2
  size : Option (Nat × Nat)
deriving DecidableEq, Repr

/-- The VIS tile units and depth parking (R313 to R354). -/
structure Vis where
  /-- 64 x 4; R313 09; empty spec: the tile slots. -/
  units : Vector (Vector (Option Tile) 4) 64
  /-- list; R321 09; empty spec: the SPLAT commands in their passes, oldest first. -/
  passes : List Pass
  /-- 13; R354 09; 0 spec: RK_PARK_STAT.USED. -/
  parkUsed : Nat
  /-- 13; R354 09; 0 spec: RK_PARK_STAT.SUMMARY. -/
  parkSummary : Nat
  /-- list; R332 09; empty spec: requests that wait for parking, oldest first (PARK_WAIT of R353). -/
  parkWait : List ParkReq
deriving DecidableEq, Repr

/-- An owner-table entry (R361). -/
structure OwnEntry where
  replica : Option ChipId
  primary : ChipId
deriving DecidableEq, Repr

/-- A session of a link (R379, R392). -/
structure Session where
  /-- 3; R392 10; 0 spec: STATE. -/
  state : BitVec 3
  /-- 4; R392 10; 0 spec: REASON. -/
  reason : BitVec 4
  /-- 5; R392 10; 0 spec: TRIES. -/
  tries : BitVec 5
  /-- 20; R392 10; 0 spec: PEER. -/
  peer : ChipId
  /-- 8; R392 10; 0 spec: PEER_EPOCH. -/
  peerEpoch : Byte
  /-- 8; R392 10; 0 spec: VERSION. -/
  version : Byte
  /-- option; R379 10; none spec: the peer that is expected; none accepts any. -/
  expected : Option ChipId
  /-- option; R379 10; none spec: the peer of the last UP session since reset. -/
  lastPeer : Option ChipId
  /-- 16; R380 10; 0 spec: agreed OPS. -/
  ops : W16
  /-- record; R377 10; 0 spec: credit this chip holds to send. -/
  credit : Credits
  /-- record; R377 10; 0 spec: credit this chip owes its peer. -/
  owed : Credits
  /-- Nat queries; R87, R377 03, 10; 0 spec: queries for this chip that the peer holds Q_END credit for. -/
  granted : Nat
  /-- 1; R382 10; true spec: the rule of R382 trains the session again (a DRAIN command removes it until the next OPEN). -/
  auto : Bool
  /-- 1; R379 10; false spec: this side has sent DRAIN_DONE. -/
  doneSent : Bool
  /-- 1; R379 10; false spec: the peer's DRAIN_DONE has arrived. -/
  doneSeen : Bool
  /-- 1; R503 14; false spec: the session has been UP or has failed since start-up step 9 began. -/
  settled : Bool
deriving DecidableEq, Repr

/-- A ring message of this chip that has not returned (R20, R365): sequence, re-sends, and the message. -/
structure RingMsg where
  seq   : Nat
  tries : Nat
  hdr   : MsgHdr
  body  : MsgBody
deriving DecidableEq, Repr

/-- A publication under way (R365). -/
structure Publish where
  cmd    : CmdRef
  epoch  : W32
  total  : Nat
  commit : Bool
deriving DecidableEq, Repr

/-- A staging copy being filled (R366). -/
structure Staging where
  epoch : W32
  total : Nat
  got   : List (Nat × W64)
deriving DecidableEq, Repr

/-- A query held for another chip (R383, R384): its slot, the link it came on, its header, its lease and its kind. -/
structure Foreign where
  slot    : Nat
  link    : LinkId
  hdr     : MsgHdr
  leaseUs : Nat
  lkind   : BitVec 2
  slots   : Nat
  req     : Option ReduceReqBody
deriving DecidableEq, Repr

/-- Forwarding (R360 to R394). -/
structure Fwd where
  /-- 37; R388 10; 0 spec: RK_FWD_CTL.ROUTE_BASE, bits [56:20]. -/
  routeBase : Sh (BitVec 37)
  /-- 4; R388 10; 0 spec: RK_FWD_CTL.HOST_PART. -/
  hostPart : Sh (BitVec 4)
  /-- 1; R480, R482 13; false spec: HOST_PART has been written since a boundary last applied it. -/
  hostNew : Bool
  /-- 8; R388 10; 0x0A spec: RK_FWD_CTL.RING_TIMEOUT. -/
  ringTimeout : Sh Byte
  /-- 4; R388 10; 3 spec: RK_FWD_CTL.RING_RETRY. -/
  ringRetry : Sh (BitVec 4)
  /-- 3 x 51; R389, R485 10, 13; 0 spec: RK_OWN_BASE.TABLE_ADDR, voted. -/
  ownBase : Tri (BitVec 51)
  /-- 32; R390 10; 0 spec: RK_OWN_CTL.NEXT_EPOCH. -/
  nextEpoch : W32
  /-- 17; R390 10; 0 spec: RK_OWN_CTL.ENTRIES. -/
  ownEntries : BitVec 17
  /-- 3 x 32; R391, R485 10, 13; 0 spec: RK_OWN_STAT.EPOCH, voted. -/
  epoch : Tri W32
  /-- 13; R391 10; 0 spec: RK_OWN_STAT.APPLIED. -/
  applied : BitVec 13
  /-- 13; R391 10; 0 spec: RK_OWN_STAT.MISSED. -/
  missed : BitVec 13
  /-- 1; R391 10; 0 spec: RK_OWN_STAT.SUPERSEDED. -/
  superseded : Bool
  /-- 1; R391 10; 0 spec: RK_OWN_STAT.RELOAD_REJECT. -/
  reloadReject : Bool
  /-- 1; R391 10; 0 spec: RK_OWN_STAT.EPOCH_BEHIND. -/
  epochBehind : Bool
  /-- 1; R391 10; 0 spec: RK_OWN_STAT.EPOCH_MISSED. -/
  epochMissed : Bool
  /-- 1; R391 10; 0 spec: RK_OWN_STAT.RELOADING. -/
  reloading : Bool
  /-- 65,536 entries; R360 10; empty DESIGN CHOICE (log 12): the current copy, valid entries only, by rising subtree. -/
  table : List (Nat × OwnEntry)
  /-- option; R360, R366 10; none spec: the staging copy (STAGING). -/
  staging : Option Staging
  /-- 65,536 x 1; R360 10; empty DESIGN CHOICE (log 12): subtrees the previous copy gave this chip. -/
  prevMap : List Nat
  /-- list; R360 10; empty spec: subtrees whose entry met an uncorrectable word since the last epoch boundary. -/
  bad : List Nat
  /-- 24 sessions; R379, R392 10; DOWN spec: the sessions. -/
  sess : Vector Session 24
  /-- 16; R393 10; 0 spec: RK_FWD_STAT.STALE_DROP. -/
  staleDrop : W16
  /-- 16; R393 10; 0 spec: RK_FWD_STAT.REISSUES. -/
  reissues : W16
  /-- 16; R393 10; 0 spec: RK_FWD_STAT.FWD_FAILS. -/
  fwdFails : W16
  /-- 8; R393 10; 0 spec: RK_FWD_STAT.RELAY_DROP. -/
  relayDrop : Byte
  /-- 8; R393 10; 0 spec: RK_FWD_STAT.ORPHANS. -/
  orphans : Byte
  /-- list; R20, R365 01, 10; empty spec: ring messages of this chip that have not returned. -/
  ring : List RingMsg
  /-- Nat; R371 10; 0 spec: sequence number of the next ring message. -/
  ringSeq : Nat
  /-- option; R365 10; none spec: the publication under way. -/
  publish : Option Publish
  /-- list; R383 10; empty spec: foreign queries held. -/
  foreign : List Foreign
  /-- list; R377 10; empty spec: messages that wait for credit, oldest first. -/
  waiting : List (LinkId × MsgHdr × MsgBody)
  /-- list; R381 10; empty spec: FWD_SESSION commands that wait: link, OP, command. -/
  cmds : List (LinkId × Bool × CmdRef)
  /-- 4; R398 11; 15 DESIGN CHOICE (log 15): the partition that the block-wide FORWARD list served last. -/
  turn : PartId
deriving DecidableEq, Repr

/-- The MMU (R438 to R449). -/
structure Mmu where
  /-- up to 4,096; R441 12; empty spec: the translation cache. -/
  tlb : List TlbEntry
  /-- list; R444 12; empty spec: the open faults, oldest first. -/
  faults : List OpenFault
  /-- list; R442 12; empty spec: physical addresses of the table entries whose last read failed, each with its level. -/
  badPtes : List (Nat × Nat)
deriving DecidableEq, Repr

/-- A timer on a Steep list (R400). -/
inductive Timer where
  | packWait (p : PartId) (line : Nat)
  | groupWait (p : PartId) (cls caddy : BitVec 2) (slot : Nat)
  | delivWait (port : PortId) (group : BitVec 12)
  | lease (slot : Nat)
  | spill (ray : Nat)
  | preempt (p : PartId)
  | decision (p : PartId)
  | session (l : LinkId)
  | keepTx (l : LinkId)
  | keepRx (l : LinkId)
  | creditRet (l : LinkId)
  | ring (seq : Nat)
  | reopen
  | leaseExt (slot : Nat)
  | waitValue (q : QueueId)
  | waitPoll (q : QueueId)
  | heel (q : QueueId)
  | blkDrain
  | power
  | progress (q : QueueId)
deriving DecidableEq, Repr

/-- An entry of a Steep list (R401): its due tick, and its chain of items with their own due times in ns. -/
structure SteepEntry where
  tick  : Nat
  chain : List (Timer × Nat)
deriving DecidableEq, Repr

/-- The four Steep lists (R400 to R403). -/
structure Steep where
  /-- 4 lists of 2,048, 8,192, 256 and 5,888 entries; R400 11; empty spec: the lists, by rising tick. -/
  lists : Vector (List SteepEntry) 4
  /-- 8; R403 11; 0 spec: RK_STEEP_STAT.MERGED. -/
  merged : Byte
deriving DecidableEq, Repr

/-- The scheduling trace (R407 to R410). -/
structure Trace where
  /-- 45; R410 11; 0 spec: RK_TRACE_BASE.BASE, bits [56:12]. -/
  base : BitVec 45
  /-- 4; R410 11; 0 spec: RK_TRACE_BASE.SIZE. -/
  size : BitVec 4
  /-- 24; R410 11; 0 spec: RK_TRACE_CTL.READ_POS. -/
  readPos : BitVec 24
  /-- 8; R410 11; 0xFF spec: RK_TRACE_CTL.OP_MASK. -/
  opMask : Byte
  /-- 1; R410 11; 0 spec: RK_TRACE_CTL.ALL_PARTS. -/
  allParts : Bool
  /-- 4; R410 11; 0 spec: RK_TRACE_CTL.PART. -/
  part : BitVec 4
  /-- 1; R410 11; 0 spec: RK_TRACE_CTL.WRAP. -/
  wrap : Bool
  /-- 1; R410 11; 0 spec: RK_TRACE_CTL.ENABLE. -/
  enable : Bool
  /-- 45; R410 11; 0 spec: the base read when ENABLE last rose. -/
  ringBase : BitVec 45
  /-- 4; R410 11; 0 spec: the size read when ENABLE last rose. -/
  ringSize : BitVec 4
  /-- 24; R410 11; 0 spec: RK_TRACE_STAT.WRITE_POS. -/
  writePos : BitVec 24
  /-- 32; R410 11; 0 spec: RK_TRACE_STAT.DROPPED. -/
  dropped : W32
  /-- Nat; R409 11; 0 spec: when the on-chip buffer has passed on every record in it, in ns. -/
  drained : Nat
deriving DecidableEq, Repr

/-- The debug port (R525, R526). -/
structure Dbg where
  /-- 512; R526 14; 0 DESIGN CHOICE (log 13): RK_DBG_DATA. -/
  data : Slot64
  /-- 1; R526 14; 0 spec: RK_DBG_CTL.UNCORR. -/
  uncorr : Bool
  /-- 1; R526 14; 0 spec: RK_DBG_CTL.BAD. -/
  bad : Bool
  /-- 1; R526 14; 0 spec: RK_DBG_CTL.BUSY. -/
  busy : Bool
  /-- 1; R526 14; 0 spec: RK_DBG_CTL.WRITE_EN. -/
  writeEn : Bool
deriving DecidableEq, Repr

/-- Error reporting (R512, R514). -/
structure Err where
  /-- 16; R514 14; 0 spec: RK_ERR_STAT.CORR_CNT. -/
  corrCnt : W16
  /-- 16; R514 14; 0 spec: RK_ERR_STAT.CONT_CNT. -/
  contCnt : W16
  /-- 8; R514 14; 0 spec: RK_ERR_STAT.PART_CNT. -/
  partCnt : Byte
  /-- 64; R514 14; 0 spec: RK_ERR_LOG. -/
  log : W64
  /-- 1; R514 14; 1 spec: RK_ERR_CTL.BLOCK_IRQ. -/
  blockIrq : Bool
  /-- 1; R514 14; 1 spec: RK_ERR_CTL.PART_IRQ. -/
  partIrq : Bool
  /-- 1; R514 14; 0 spec: RK_ERR_CTL.CONT_IRQ. -/
  contIrq : Bool
deriving DecidableEq, Repr

/-- The block. -/
structure State where
  /-- list; the model's own; empty: the commands that wait, first in, first out. -/
  pending : List Instr
  pins : Pins
  boot : Boot
  csr : Csr
  cfg : Cfg
  parts : Vector Part 16
  queues : Vector Queue 64
  front : Front
  /-- 2^52 bytes; R13, R438 01, 12; zero DESIGN CHOICE (log 2): memory behind the memory fabric. -/
  mem : Mem
  kennel : Kennel
  herd : Herd
  arr : Arr
  pwr : Pwr
  ret : Ret
  strain : Strain
  setter : Setter
  vis : Vis
  fwd : Fwd
  mmu : Mmu
  steep : Steep
  trace : Trace
  dbg : Dbg
  err : Err
  /-- Nat; the model's own; 0 DESIGN CHOICE (log 14): index of the next free value. -/
  fresh : Nat
deriving DecidableEq, Repr

/-- Why the machine stops with a fault. -/
inductive Fault where
  /-- Raised by no command: every error of this block is a state of it (R512, R513). Kept so that the type has a value; safe. -/
  | none
deriving DecidableEq, Repr

/-- Why a command has no meaning. -/
inductive Refusal where
  /-- Answered by a dispatch arm whose command has no meaning yet; safe. -/
  | notModelled (mnemonic : String)
deriving DecidableEq, Repr

/-- One partition's page and state at reset. -/
def Part.reset : Part where
  hold := false
  kPeak := 0
  delivWait := .both 4
  flowBudget := .both 0x100
  flowNew := false
  budgetStall := false
  stallFlow := 0
  waveMax := .both 0x38
  tight := 0
  unbounded := false
  fpVec := 0
  ovfIrq := false
  invIrq := false
  ovfSplat := .both 1
  ovfTraverse := .both 1
  fpOverflow := false
  fpInvalid := false
  fpCapture := 0
  ovfCnt := 0
  invCnt := 0
  trapVec := 0
  trapIrq := false
  autoEnd := true
  spinLimit := .both 0x400
  saveBase := .both 0
  traps := 0
  badCmd := false
  dbgSpace := 0
  dbgIndex := 0
  dbgData := 0
  parkMax := .both 0x1000
  partials := 0
  deferred := 0
  badPrims := 0
  overdeep := false
  passes := 0
  texFallback := 0
  consult := .both false
  consultNew := false
  winBase := .both 0
  mapAddr := .both 0
  dlVec := 0
  lateIrq := false
  reprojIrq := false
  fireIrq := false
  reprojections := 0
  lateFrames := 0
  presented := 0
  reprojDenied := false
  deadline := ⟨0, none, false, false, false⟩
  frame := 0
  lateOf := []
  reproj := none
  refFrame := none
  summary := none
  refSummary := []
  spareSummary := []
  reissueMax := .both 3
  extendMax := .both 4
  leaseUs := .both 0xC8
  mmuEnable := .both false
  mmuRoot := .both 0
  fqBase := .both 0
  fqVec := 0
  fqSize := .both 0
  sizeNew := false
  fqHead := 0
  fqWrite := 0
  fqHeld := []
  faults := 0
  joins := 0
  partError := false
  peReason := 0
  badReplay := false
  fqFault := false
  noticeDrop := false
  invals := []
  overflow := []
  contCnt := 0
  resetting := false
  flr := false
  resetDone := false
  hiers := []
  progs := []

/-- A queue at reset. -/
def Queue.reset : Queue where
  desc := 0
  vec := 0
  enable := false
  enabled := false
  badWhistle := false
  badDesc := false
  errStop := false
  head := 0
  tail := 0
  ring := 0
  entries := 0
  prio := 0
  stopOnErr := false
  cplAddr := 0
  cplEntries := 0
  cplHead := 0
  cplWrite := 0
  cur := none
  fetched := []
  cmds := []
  seq := 0
  parked := false
  enParked := false
  cplParked := false
  waited := 0
  last := none
  shown := none

/-- A row of TUs at reset. -/
def Row.reset : Row := ⟨0, 0x0FFFF, false, false, 0, 0, Vector.replicate 17 0, none, false⟩

/-- A Setter core at reset. -/
def Core.reset : Core := ⟨Vector.replicate 16 none, [], [], 0, [], 0⟩

/-- No credit. -/
def noCredits : Credits := ⟨0, 0, 0, 0, 0⟩

/-- A session at reset. -/
def Session.reset : Session :=
  ⟨0, 0, 0, 0, 0, 0, none, none, 0, noCredits, noCredits, 0, true, false, false, false⟩

/-- The pins right after reset. -/
def Pins.reset : Pins :=
  ⟨true, true, false, 0, 0, 0, true, false, false, [], .none, [], [], [], [], 0⟩

/-- Start-up registers at reset. -/
def Boot.reset : Boot :=
  ⟨1, 1, 0, 0, 0, true, true, 0, false, false, .all 0x108080C0, 0x108080C0, 0, 0, 0, false, 0, 0, false, [], false⟩

/-- Control-bus state at reset. -/
def Csr.reset : Csr := ⟨.all false, 0, 0, 0, 0, 0, false, false, false, false, false, false⟩

/-- Configuration state at reset. -/
def Cfg.reset : Cfg where
  freeze := false
  srcWin := false
  caddyMask := 0
  partMask := 0
  glob := false
  busy := false
  src := 0
  rptAddr := 0
  rptSize := 0
  clamps := 0
  writePos := 0
  overrun := false
  done := false
  state := 0
  reject := 0
  window := []
  notes := []
  waitPart := []
  waitCaddy := []
  waitGlobal := none
  ptab := Vector.replicate 16 (Vector.replicate 4 (.both (.all 0)))
  fpDef := Vector.replicate 16 5
  ringUp := 0x1F
  ringDown := 0x1F
  fwdLinks := 0
  fwdReserve := 0
  fwdBundles := 0
  fwdStrain := 0
  caddies := Vector.replicate 4 ⟨0, Vector.replicate 16 .none⟩
  sel := .all 0

/-- The Kennel at reset. -/
def Kennel.reset : Kennel := ⟨[], [], 0, 0, 0, 0, [], 0, [], [], []⟩

/-- The Herder at reset. -/
def Herd.reset : Herd := ⟨[], [], [], [], [], .both true, .both 0x20, .both 0x3E8, false, 0, [],
  Vector.replicate 8 (Vector.replicate 16 0), [], 15⟩

/-- The array at reset. -/
def Arr.reset : Arr where
  tus := Vector.replicate 128 .reset
  rows := Vector.replicate 8 .reset
  autoFence := 2
  sleepEast := false
  sleepWest := false
  dist := .both false
  east := 0
  west := 0
  sleepRefused := false
  fenceEvent := false
  residueErrs := 0
  imbSet := .both 6
  imbTu := .both 3
  blkLimit := 0x0A
  blkDraining := false
  blkTimeout := false
  coresOut := 0
  unitsOut := 0
  coresBack := 0
  unitsBack := 0

/-- The power controller at reset. -/
def Pwr.reset : Pwr := ⟨0x118, .both 3, 0x9C, 0x9C, 0x9C, false, 16, 0⟩

/-- The Retriever at reset. -/
def Ret.reset : Ret := ⟨[], 0, [], [], [], [], [], 0, []⟩

/-- The Setter cores at reset. -/
def Setter.reset : Setter := ⟨Vector.replicate 16 .reset, [], [], [], [], [], 0, []⟩

/-- VIS at reset. -/
def Vis.reset : Vis := ⟨Vector.replicate 64 (Vector.replicate 4 none), [], 0, 0, []⟩

/-- Forwarding at reset. -/
def Fwd.reset : Fwd where
  routeBase := .both 0
  hostPart := .both 0
  hostNew := false
  ringTimeout := .both 0x0A
  ringRetry := .both 3
  ownBase := .all 0
  nextEpoch := 0
  ownEntries := 0
  epoch := .all 0
  applied := 0
  missed := 0
  superseded := false
  reloadReject := false
  epochBehind := false
  epochMissed := false
  reloading := false
  table := []
  staging := none
  prevMap := []
  bad := []
  sess := Vector.replicate 24 .reset
  staleDrop := 0
  reissues := 0
  fwdFails := 0
  relayDrop := 0
  orphans := 0
  ring := []
  ringSeq := 0
  publish := none
  foreign := []
  waiting := []
  cmds := []
  turn := 15

/-- The trace at reset. -/
def Trace.reset : Trace := ⟨0, 0, 0, 0xFF, false, 0, false, false, 0, 0, 0, 0, 0⟩

/-- Error registers at reset. -/
def Err.reset : Err := ⟨0, 0, 0, 0, true, true, false⟩

/-- The machine right after reset (R7 reset columns, R523): every register at its reset value, nothing in flight, held by the die
until RESET_RELEASE. -/
def State.reset : State where
  pending := []
  pins := .reset
  boot := .reset
  csr := .reset
  cfg := .reset
  parts := Vector.replicate 16 .reset
  queues := Vector.replicate 64 .reset
  front := ⟨0, Vector.replicate 4 63⟩
  mem := []
  kennel := .reset
  herd := .reset
  arr := .reset
  pwr := .reset
  ret := .reset
  strain := ⟨[], Vector.replicate 16 0⟩
  setter := .reset
  vis := .reset
  fwd := .reset
  mmu := ⟨[], [], []⟩
  steep := ⟨Vector.replicate 4 [], 0⟩
  trace := .reset
  dbg := ⟨0, false, false, false, false⟩
  err := .reset
  fresh := 0

end Sys2Proof.Machine
end

