-- ==== Sys2Proof/Machine/Ops.lean ====
section
/-!
DEFINITION. Sys2Proof/Machine/Ops.lean: the operations that the meanings share: memory, counters, registers of the aperture that
several rows use, interrupts, error classes, Steep lists, the partition table, the Kennel.
-/

namespace Sys2Proof.Machine

/-! ## Counters and packing -/

/-- One more on a count that saturates at its largest value (R492, R514). -/
def satInc {n : Nat} (w : BitVec n) : BitVec n := if w = BitVec.allOnes n then w else w + 1

/-- `k` more on a saturating count. -/
def satAdd {n : Nat} (w : BitVec n) (k : Nat) : BitVec n := BitVec.ofNat n (min (w.toNat + k) (2 ^ n - 1))

/-- Fields from the lowest bit up, each (width in bits, value), as one number (R3: little-endian). -/
def packN : List (Nat × Nat) → Nat
  | [] => 0
  | (w, v) :: r => v % 2 ^ w + 2 ^ w * packN r

/-- A number as `n` little-endian bytes. -/
def leBytes : Nat → Nat → List Byte
  | 0, _ => []
  | n + 1, v => BitVec.ofNat 8 v :: leBytes n (v / 256)

/-- Little-endian bytes as a number. -/
def leNat : List Byte → Nat
  | [] => 0
  | b :: r => b.toNat + 256 * leNat r

/-- The field of a number whose lowest bit is `lo`, `len` bits wide. -/
def nfld (v lo len : Nat) : Nat := (v / 2 ^ lo) % 2 ^ len

/-- `ceil (a / b)`. -/
def cdiv (a b : Nat) : Nat := (a + (b - 1)) / b

/-- Sign extension of the low `n` bits of `v`. -/
def sext (n v : Nat) : Int := if v % 2 ^ n < 2 ^ (n - 1) then ((v % 2 ^ n : Nat) : Int) else ((v % 2 ^ n : Nat) : Int) - 2 ^ n

/-- The number whose low `n` bits hold the integer. -/
def wrapN (n : Nat) (i : Int) : Nat := (i % (2 ^ n : Nat)).toNat

/-- Where the places of `l` that satisfy `f` lie. -/
def indicesFrom {α : Type} (f : α → Bool) : Nat → List α → List Nat
  | _, [] => []
  | i, a :: r => if f a then i :: indicesFrom f (i + 1) r else indicesFrom f (i + 1) r

/-- The numbers below `n` whose bit of `w` is set, rising. -/
def bitsOf {m : Nat} (w : BitVec m) (n : Nat) : List Nat := (List.range n).filter (fun i => w.getLsbD i)

/-- How many of the low `n` bits of `w` are set. -/
def popN {m : Nat} (w : BitVec m) (n : Nat) : Nat := (bitsOf w n).length

/-- `w` with bit `i` at `b`. -/
def setBit {n : Nat} (w : BitVec n) (i : Nat) (b : Bool) : BitVec n :=
  if b then w ||| (1#n <<< i) else w &&& ~~~ (1#n <<< i)

/-! ## Memory as a canonical list of bytes -/

/-- The byte at an address; an unlisted address reads as zero. -/
def Mem.get : Mem → Nat → Byte
  | [], _ => 0
  | (k, v) :: r, a => if k = a then v else if a < k then 0 else Mem.get r a

/-- The memory with one byte written, in canonical form. -/
def Mem.set : Mem → Nat → Byte → Mem
  | [], a, b => if b = 0 then [] else [(a, b)]
  | (k, v) :: r, a, b =>
    if a < k then (if b = 0 then (k, v) :: r else (a, b) :: (k, v) :: r)
    else if a = k then (if b = 0 then r else (k, b) :: r)
    else (k, v) :: Mem.set r a b

/-- Addresses strictly rising from `lo`, no zero byte. -/
def Mem.wfFrom : Nat → Mem → Bool
  | _, [] => true
  | lo, (k, v) :: r => decide (lo ≤ k) && decide (v ≠ 0) && Mem.wfFrom (k + 1) r

/-- The canonical form: addresses strictly rising, no byte equal to what an unlisted address reads as. -/
def Mem.wf (m : Mem) : Bool := Mem.wfFrom 0 m

/-- `n` bytes from `a`. -/
def Mem.read (m : Mem) : Nat → Nat → List Byte
  | _, 0 => []
  | a, n + 1 => Mem.get m a :: Mem.read m (a + 1) n

/-- Bytes written from `a`. -/
def Mem.write : Mem → Nat → List Byte → Mem
  | m, _, [] => m
  | m, a, b :: r => Mem.write (Mem.set m a b) (a + 1) r

/-- The little-endian number of `n` bytes at `a` (R3). -/
def Mem.num (m : Mem) (a n : Nat) : Nat := leNat (Mem.read m a n)

/-- The 64 B unit at `a`. -/
def Mem.slot (m : Mem) (a : Nat) : Slot64 := BitVec.ofNat 512 (m.num a 64)

/-! ## Access to the substates -/

def State.part (s : State) (p : PartId) : Part := s.parts[p]

def State.setPart (s : State) (p : PartId) (x : Part) : State := { s with parts := s.parts.set p x }

def State.updPart (s : State) (p : PartId) (f : Part → Part) : State := s.setPart p (f (s.part p))

def State.queue (s : State) (q : QueueId) : Queue := s.queues[q]

def State.setQueue (s : State) (q : QueueId) (x : Queue) : State := { s with queues := s.queues.set q x }

def State.updQueue (s : State) (q : QueueId) (f : Queue → Queue) : State := s.setQueue q (f (s.queue q))

/-- The command a reference names, while it has no completion yet. -/
def State.cmd? (s : State) (r : CmdRef) : Option Cmd := (s.queue r.q).cmds.find? (fun c => c.seq == r.seq)

/-- The commands of `l` with the one numbered `n` changed. -/
def updSeq (n : Nat) (f : Cmd → Cmd) (l : List Cmd) : List Cmd := l.map (fun c => if c.seq = n then f c else c)

def State.updCmd (s : State) (r : CmdRef) (f : Cmd → Cmd) : State :=
  s.updQueue r.q (fun q => { q with cmds := updSeq r.seq f q.cmds })

/-- The die timebase moves on to `t`, never back (R409: TIME never decreases). -/
def State.at (s : State) (t : Nat) : State := { s with pins := { s.pins with now := max s.pins.now t } }

/-- A control-bus response (R21). -/
def State.answer (s : State) (r : BusResp) : State := { s with pins := { s.pins with resp := r } }

/-! ## Voted fields (R485) -/

/-- The value two copies agree on; with three that differ, the first. -/
def Tri.get {α : Type} [DecidableEq α] (t : Tri α) : α := if t.a = t.b then t.a else if t.a = t.c then t.a else if t.b = t.c then t.b else t.a

/-- RK_CAPS as voted. -/
def State.caps (s : State) : W32 := s.boot.caps.get

/-- SPLAT engine, VIS, TEX and re-projection present (R33). -/
def State.hasSplat (s : State) : Bool := bit s.caps 2
def State.hasVis (s : State) : Bool := bit s.caps 3
def State.hasTex (s : State) : Bool := bit s.caps 4
def State.hasReproj (s : State) : Bool := bit s.caps 5

/-! ## Reset, error and readiness -/

/-- RK_BOOT_PROG.STATE values (R504). -/
def stBooting : BitVec 3 := 1
def stHeld : BitVec 3 := 2
def stReady : BitVec 3 := 3
def stError : BitVec 3 := 4

/-- Powered and out of reset. -/
def State.live (s : State) : Bool := s.pins.powered && !s.pins.inReset && !s.pins.forced

/-- The block is in ERROR (R513). -/
def State.errored (s : State) : Bool := decide (s.boot.state = stError)

/-- Work runs: live, READY (R501 step 11, R502, R513). -/
def State.ready (s : State) : Bool := s.live && decide (s.boot.state = stReady)

/-- Live, and neither HELD nor in ERROR: the units other than the CSR logic run (R507, R513). -/
def State.active (s : State) : Bool := s.live && (decide (s.boot.state = stReady) || decide (s.boot.state = stBooting))

/-- The partition issues work: READY, no PARTITION_ERROR, no reset under way (R457, R502, R519). -/
def State.works (s : State) (p : PartId) : Bool := s.ready && !(s.part p).partError && !(s.part p).resetting

/-! ## Interrupts (R22) -/

/-- An interrupt of a partition. -/
def State.irqPart (s : State) (p : PartId) (v : BitVec 4) : State :=
  { s with pins := { s.pins with irqs := s.pins.irqs ++ [⟨false, p, v⟩] } }

/-- A block-level interrupt: its partition number is zero. -/
def State.irqBlock (s : State) (v : BitVec 4) : State :=
  { s with pins := { s.pins with irqs := s.pins.irqs ++ [⟨true, 0, v⟩] } }

/-- `f` where `b` holds. -/
def State.doIf (s : State) (b : Bool) (f : State → State) : State := if b then f s else s

/-! ## Error classes (R512 to R514) -/

/-- An RK_ERR_LOG capture (R514). -/
def errWord (cls src part index item : Nat) : W64 :=
  BitVec.ofNat 64 (packN [(24, item), (24, index), (4, 0), (4, part), (5, src), (2, cls), (1, 1)])

/-- An error offered to RK_ERR_LOG: the first while it is not VALID; a BLOCK error replaces a lower class. -/
def State.offerLog (s : State) (w : W64) : State :=
  if !bit s.err.log 63 || (fldN w 61 2 == 3 && fldN s.err.log 61 2 != 3) then { s with err := { s.err with log := w } } else s

/-- An error of class CORRECTED. -/
def State.errCorrected (s : State) : State := { s with err := { s.err with corrCnt := satInc s.err.corrCnt } }

/-- An error of class CONTAINED charged to partition `p`. -/
def State.errContained (s : State) (p : PartId) (src index item : Nat) : State :=
  let s := { s with err := { s.err with contCnt := satInc s.err.contCnt } }
  let s := s.updPart p (fun x => { x with contCnt := satInc x.contCnt })
  (s.offerLog (errWord 1 src p.val index item)).doIf s.err.contIrq (·.irqBlock 7)

/-- An error of class BLOCK: the block enters ERROR and asks the shim to close its bypass (R513). -/
def State.errBlock (s : State) (src index : Nat) : State :=
  let s := { s with boot := { s.boot with state := stError }, pins := { s.pins with bypass := true } }
  (s.offerLog (errWord 3 src 0 index 0)).doIf s.err.blockIrq (·.irqBlock 7)

/-- Entry into PARTITION_ERROR for a reason of R464, an error of class PARTITION (R457, R512). -/
def State.errPartition (s : State) (p : PartId) (reason : BitVec 2) : State :=
  let s := s.updPart p (fun x => { x with partError := true, peReason := reason })
  let s := { s with err := { s.err with partCnt := satInc s.err.partCnt } }
  let s := (s.offerLog (errWord 2 0x13 p.val reason.toNat 0)).doIf s.err.partIrq (·.irqBlock 7)
  s.irqPart p (s.part p).fqVec

/-! ## The partition table (R38, R498) -/

/-- Word `w` of partition `p`'s entry in force. -/
def State.ptabW (s : State) (p : PartId) (w : Fin 4) : W64 := (s.cfg.ptab[p][w]).force.get

def State.partEn (s : State) (p : PartId) : Bool := bit (s.ptabW p 0) 63
def State.portMask (s : State) (p : PartId) : BitVec 16 := if s.partEn p then fld (s.ptabW p 0) 0 16 else 0
def State.queueMask (s : State) (p : PartId) : W64 := if s.partEn p then s.ptabW p 1 else 0
def State.flowBase (s : State) (p : PartId) : Nat := if s.partEn p then fldN (s.ptabW p 0) 40 16 else 0
def State.flowCount (s : State) (p : PartId) : Nat := if s.partEn p then fldN (s.ptabW p 0) 23 17 else 0
def State.kQuota (s : State) (p : PartId) : Nat := if s.partEn p then fldN (s.ptabW p 2) 45 19 else 0
def State.kSpill (s : State) (p : PartId) : Nat := if s.partEn p then fldN (s.ptabW p 2) 26 19 else 0
def State.retQuota (s : State) (p : PartId) : Nat := if s.partEn p then fldN (s.ptabW p 2) 9 17 else 0
def State.strQuota (s : State) (p : PartId) : Nat := if s.partEn p then fldN (s.ptabW p 3) 56 8 else 0

/-- All partitions, rising. -/
def allParts : List PartId := List.finRange 16
/-- All queues, rising. -/
def allQueues : List QueueId := List.finRange 64

/-- The partition a queue is assigned to. -/
def State.queueOwner (s : State) (q : QueueId) : Option PartId := allParts.find? (fun p => bit (s.queueMask p) q.val)

/-- The partition a fabric port is assigned to. -/
def State.portOwner (s : State) (o : PortId) : Option PartId := allParts.find? (fun p => bit (s.portMask p) o.val)

/-- The n-th queue assigned to a partition, by rising queue ID (R39). -/
def State.slotQueue (s : State) (p : PartId) (n : Nat) : Option QueueId :=
  (allQueues.filter (fun q => bit (s.queueMask p) q.val))[n]?

/-- The partition of a queue that carries work. -/
def State.qPart (s : State) (q : QueueId) : PartId := (s.queueOwner q).getD 0

/-- Engine of a queue (R37): 0 TRAVERSE, 1 BUILD, 2 SPLAT, 3 MOVE. -/
def engineOf (q : QueueId) : Nat := q.val / 16

/-- The flow range of a partition; flow 0 lies in every range (R38, R80, R473). -/
def State.flowIn (s : State) (p : PartId) (f : Nat) : Bool :=
  f == 0 || (decide (s.flowBase p ≤ f) && decide (f < s.flowBase p + s.flowCount p))

/-- Queues of one partition. -/
def State.queuesOf (s : State) (p : PartId) : List QueueId := allQueues.filter (fun q => s.queueOwner q == some p)

/-- The selected caddy (R421). -/
def State.sel (s : State) : BitVec 2 := s.cfg.sel.get

/-- A caddy. -/
def State.caddy (s : State) (c : BitVec 2) : Caddy := s.cfg.caddies[c.toFin]

/-- A partition's settings in a caddy; a partition whose EN is 0 has none (R468). -/
def State.caddyEnt (s : State) (c : BitVec 2) (p : PartId) : CaddyEnt := if s.partEn p then (s.caddy c).ents[p] else .none

/-- A format that a caddy lets a partition use (R417). -/
def State.fmtOn (s : State) (caddy : BitVec 2) (p : PartId) (f : Nat) : Bool := decide (f ≤ 4) && bit (s.caddyEnt caddy p).formats f

/-- The host partition in force (R363). -/
def State.hostPart (s : State) : PartId := s.fwd.hostPart.force.toFin

/-- The partition's DEADLINE work takes every issue (R398): its deadline is FIRING, REPROJECTING or LATE. -/
def State.firing (s : State) (p : PartId) : Bool :=
  let d := (s.part p).deadline.state
  decide (d = 2) || decide (d = 3) || decide (d = 4)

/-! ## Steep lists (R400 to R403) -/

/-- The list a timer lies on. -/
def Timer.list : Timer → Fin 4
  | .packWait _ _ => 0
  | .groupWait _ _ _ _ => 0
  | .delivWait _ _ => 0
  | .lease _ => 1
  | .spill _ => 1
  | .preempt _ => 2
  | .decision _ => 2
  | .session _ => 3
  | .keepTx _ => 3
  | .keepRx _ => 3
  | .creditRet _ => 3
  | .ring _ => 3
  | .reopen => 3
  | .leaseExt _ => 3
  | .waitValue _ => 3
  | .waitPoll _ => 3
  | .heel _ => 3
  | .blkDrain => 3
  | .power => 3
  | .progress _ => 3

/-- Entries of each list. -/
def steepCap : Fin 4 → Nat := fun i => if i = 0 then 2048 else if i = 1 then 8192 else if i = 2 then 256 else 5888

/-- The tick at or after a time: ticks fall at multiples of 64 ns. -/
def tickOf (due : Nat) : Nat := cdiv due 64

/-- An item joins the entry of its tick, or a new entry in tick order. -/
def steepPut (tick : Nat) (it : Timer × Nat) : List SteepEntry → List SteepEntry
  | [] => [⟨tick, [it]⟩]
  | e :: r =>
    if e.tick = tick then { e with chain := e.chain ++ [it] } :: r
    else if tick < e.tick then ⟨tick, [it]⟩ :: e :: r
    else e :: steepPut tick it r

/-- The entry with the latest due tick freed, its chain added to the entry before it. -/
def steepMerge : List SteepEntry → List SteepEntry
  | [] => []
  | [e] => [e]
  | [e, f] => [{ e with chain := e.chain ++ f.chain }]
  | e :: f :: g :: r => e :: steepMerge (f :: g :: r)

/-- Insertion under R401; the second part says whether entries were merged. -/
def steepInsert (cap : Nat) (it : Timer × Nat) (l : List SteepEntry) : List SteepEntry × Bool :=
  if l.any (fun e => e.tick == tickOf it.2) || decide (l.length < cap) then (steepPut (tickOf it.2) it l, false)
  else (steepPut (tickOf it.2) it (steepMerge l), true)

/-- Items of entries whose tick has come but whose own tick has not are inserted again (R401). -/
def steepReinsert (cap tick : Nat) (l : List SteepEntry) : List SteepEntry × Nat :=
  let undue := (l.filter (fun e => decide (e.tick ≤ tick))).flatMap (fun e => e.chain.filter (fun it => decide (tick < tickOf it.2)))
  let kept := (l.map (fun e => if e.tick ≤ tick then { e with chain := e.chain.filter (fun it => decide (tickOf it.2 ≤ tick)) } else e)).filter
    (fun e => !e.chain.isEmpty)
  undue.foldl (fun a it => let r := steepInsert cap it a.1; (r.1, if r.2 then a.2 + 1 else a.2)) (kept, 0)

/-- The lists as they are by now: what the entries whose tick has come held before its time has been inserted again (R401). -/
def State.steepNow (s : State) : Steep :=
  let r := Vector.ofFn (fun (i : Fin 4) => steepReinsert (steepCap i) (s.pins.now / 64) s.steep.lists[i])
  ⟨r.map (·.1), satAdd s.steep.merged (r.map (·.2)).sum⟩

/-- A timer starts, due at `due` ns; its list is as it is by now (R401). -/
def State.timerAdd (s : State) (tm : Timer) (due : Nat) : State :=
  let i := tm.list
  let l := steepReinsert (steepCap i) (s.pins.now / 64) s.steep.lists[i]
  let r := steepInsert (steepCap i) (tm, due) l.1
  { s with steep := { lists := s.steep.lists.set i r.1, merged := satAdd s.steep.merged (if r.2 then l.2 + 1 else l.2) } }

/-- The entries with a timer's items removed; an entry whose chain becomes empty is freed (R402). -/
def steepDrop (f : Timer → Bool) (l : List SteepEntry) : List SteepEntry :=
  (l.map (fun e => { e with chain := e.chain.filter (fun it => !f it.1) })).filter (fun e => !e.chain.isEmpty)

/-- A timer is removed. -/
def State.timerDel (s : State) (tm : Timer) : State :=
  let i := tm.list
  { s with steep := { s.steep with lists := s.steep.lists.set i (steepDrop (· == tm) s.steep.lists[i]) } }

/-- Every timer that satisfies `f` is removed. -/
def State.timerDelIf (s : State) (f : Timer → Bool) : State :=
  { s with steep := { s.steep with lists := s.steep.lists.map (steepDrop f) } }

/-- When a timer is due, if it runs. -/
def State.timerDue (s : State) (tm : Timer) : Option Nat :=
  ((s.steep.lists[tm.list]).flatMap (·.chain)).findSome? (fun it => if it.1 == tm then some it.2 else none)

/-- A timer can act at `t`: its tick has come (R401: never before its due tick). -/
def State.timerFires (s : State) (tm : Timer) (t : Nat) : Bool :=
  match s.timerDue tm with
  | some d => decide (tickOf d * 64 ≤ t)
  | none => false

/-- A timer acts at `t`: it leaves its list, and the undue items of the ticks that have come are inserted again. -/
def State.timerTake (s : State) (tm : Timer) (t : Nat) : State :=
  let s := (s.at t).timerDel tm
  let i := tm.list
  let r := steepReinsert (steepCap i) (t / 64) s.steep.lists[i]
  { s with steep := { lists := s.steep.lists.set i r.1, merged := satAdd s.steep.merged r.2 } }

/-! ## The Kennel (R83 to R95) -/

/-- What slot `i` holds. -/
def State.kGet (s : State) (i : Nat) : Option KSlot :=
  s.kennel.slots.findSome? (fun e => if e.1 = i then some e.2 else none)

/-- A pair put in a list kept by rising key. -/
def assocPut {α : Type} (i : Nat) (a : α) : List (Nat × α) → List (Nat × α)
  | [] => [(i, a)]
  | (k, v) :: r => if i < k then (i, a) :: (k, v) :: r else if i = k then (i, a) :: r else (k, v) :: assocPut i a r

/-- The value of a key. -/
def assocGet {α : Type} (i : Nat) (l : List (Nat × α)) : Option α :=
  l.findSome? (fun e => if e.1 = i then some e.2 else none)

/-- A key removed. -/
def assocDel {α : Type} (i : Nat) (l : List (Nat × α)) : List (Nat × α) := l.filter (fun e => decide (e.1 ≠ i))

def State.kPut (s : State) (i : Nat) (x : KSlot) : State :=
  { s with kennel := { s.kennel with slots := assocPut i x s.kennel.slots } }

/-- The visit word as allocation, re-issue and partition reset set it (R172). -/
def Visit.clear : Visit := ⟨0xFF, 0, 0, 0, 0, false, false, none, none⟩

/-- A slot freed (R92); a ray's visit word keeps its last value. -/
def State.kFree (s : State) (i : Nat) : State :=
  { s with kennel := { s.kennel with
      slots := assocDel i s.kennel.slots
      stale := if (s.kGet i).isSome then i :: s.kennel.stale.erase i else s.kennel.stale
      visits := match s.kGet i with | some ⟨_, _, _, .ray r⟩ => assocPut i r.visit s.kennel.visits | _ => s.kennel.visits } }

/-- GEN of a slot (R94): 1 unless listed. -/
def State.gen (s : State) (i : Nat) : BitVec 14 := (assocGet i s.kennel.gens).getD 1

/-- GEN moves on by 1, 16,383 to 1 (R94). -/
def State.genUp (s : State) (i : Nat) : State :=
  let g := if s.gen i = 0x3FFF then 1 else s.gen i + 1
  { s with kennel := { s.kennel with gens := if g = 1 then assocDel i s.kennel.gens else assocPut i g s.kennel.gens } }

/-- The ID of the ray or bundle whose ray or header slot is `i` (R93). -/
def State.kId (s : State) (i : Nat) : W32 := BitVec.ofNat 32 (packN [(18, i), (14, (s.gen i).toNat)])

/-- Slots that count against a partition's quota (R87). -/
def State.kUsed (s : State) (p : PartId) : Nat :=
  (s.kennel.slots.filter (fun e => !e.2.foreign && decide (e.2.part = p))).length

/-- Slots in the forwarding reserve (R87). -/
def State.kForeign (s : State) : Nat := (s.kennel.slots.filter (fun e => e.2.foreign)).length

/-- Every link, rising. -/
def allLinks : List LinkId := List.finRange 24

/-- Slots of FWD_RESERVE that neither a foreign query holds nor a peer has credit for (R87). -/
def State.fwdRoom (s : State) : Nat := s.cfg.fwdReserve - (s.kForeign + (allLinks.map (fun l => s.fwd.sess[l].granted)).sum)

/-- Free slots of a bank in service; none of a bank that is out (R88). -/
def State.bankFree (s : State) (b : Nat) : Nat :=
  if bit s.kennel.banksOut b then 0 else 4096 - (s.kennel.slots.filter (fun e => e.1 % 64 == b)).length

/-- The largest count of free slots of any bank. -/
def State.bankMost (s : State) : Nat := ((List.range 64).map s.bankFree).foldl max 0

/-- The bank that gives the next slot: after `none` one with the most free slots, else the next in rotation with a free slot. -/
def State.bankPick (s : State) (prev : Option Nat) (want : Nat) : Option Nat :=
  match prev with
  | none =>
    if s.bankMost = 0 then none
    else if s.bankFree (want % 64) = s.bankMost then some (want % 64)
    else (List.range 64).find? (fun b => s.bankFree b == s.bankMost)
  | some b => ((List.range 64).map (fun k => (b + 1 + k) % 64)).find? (fun b => decide (0 < s.bankFree b))

/-- The least free slot of a bank, trying `n` slots from the k-th of the bank. -/
def State.bankSlot (s : State) (b : Nat) : Nat → Nat → Option Nat
  | _, 0 => none
  | k, n + 1 => if (s.kGet (64 * k + b)).isNone then some (64 * k + b) else s.bankSlot b (k + 1) n

/-- The slot an allocation takes: the choice among equals of R93 is the step's (`Env.slots`), where it is a choice that R89 allows. -/
def State.slotPick (s : State) (env : Env) (prev : Option Nat) : Option Nat :=
  let ok := fun i => decide (i < 262144) && (s.kGet i).isNone && !bit s.kennel.banksOut (i % 64) && (s.bankPick prev i == some (i % 64))
  match env.slots.find? ok with
  | some i => some i
  | none => match s.bankPick prev 0 with
    | some b => s.bankSlot b 0 4096
    | none => none

/-- The highest USED since the last read of RK_KSTAT (R119). -/
def State.peak (s : State) (p : PartId) : State := s.updPart p (fun x => { x with kPeak := max x.kPeak (s.kUsed p) })

/-- A slot allocated holds nothing that a debug WRITE left there (R526). -/
def State.fresh64 (s : State) (i : Nat) : State :=
  { s with kennel := { s.kennel with images := assocDel i s.kennel.images, cands := assocDel i s.kennel.cands } }

/-- One slot allocated for partition `p`, or in the forwarding reserve, after the slot `prev` of the same record (R88, R94). -/
def State.kTake (s : State) (env : Env) (p : PartId) (foreign : Bool) (prev : Option Nat) (d : KData) : Option (Nat × State) :=
  match s.slotPick env (prev.map (· % 64)) with
  | none => none
  | some i =>
    let s := ((s.genUp i).kPut i ⟨foreign, p, none, d⟩).fresh64 i
    some (i, if foreign then s else s.peak p)

/-- Auxiliary slots can draw on the whole quota (R88, R89); those of foreign queries leave the slots that peers have credit for (R87). -/
def State.kAux (s : State) (env : Env) (p : PartId) (foreign : Bool) (d : KData) : Option (Nat × State) :=
  if foreign then (if 0 < s.fwdRoom then s.kTake env p true none d else none)
  else if s.kUsed p < s.kQuota p then s.kTake env p false none d else none

/-- A link set. -/
def State.kLink (s : State) (i : Nat) (l : Option Nat) : State :=
  match s.kGet i with
  | some x => s.kPut i { x with link := l }
  | none => s

/-- The slots of one record allocated in order, each linked from the one before it; none where one cannot be taken. -/
def State.kTakeAll (s : State) (env : Env) (p : PartId) (foreign : Bool) : Option Nat → List KData → Option (List Nat × State)
  | _, [] => some ([], s)
  | prev, d :: r =>
    match s.kTake env p foreign prev d with
    | none => none
    | some (i, s1) =>
      let s2 := match prev with | some j => s1.kLink j (some i) | none => s1
      match State.kTakeAll s2 env p foreign (some i) r with
      | none => none
      | some (is, s3) => some (i :: is, s3)

/-- A new ray or bundle: the free slots after the allocation must still exceed SPILL_RESERVE (R89). -/
def State.kAdmit (s : State) (env : Env) (p : PartId) (ds : List KData) : Option (List Nat × State) :=
  if s.kUsed p + ds.length + s.kSpill p < s.kQuota p then s.kTakeAll env p false none ds else none

/-- The ray in a slot. -/
def State.ray? (s : State) (i : Nat) : Option Ray :=
  match s.kGet i with
  | some ⟨_, _, _, .ray r⟩ => some r
  | _ => none

/-- The partition of a slot. -/
def State.kPart (s : State) (i : Nat) : PartId := match s.kGet i with | some x => x.part | none => 0

/-- Whether a slot is in the forwarding reserve. -/
def State.kIsForeign (s : State) (i : Nat) : Bool := match s.kGet i with | some x => x.foreign | none => false

/-- The link of a slot. -/
def State.kNext (s : State) (i : Nat) : Option Nat := match s.kGet i with | some x => x.link | none => none

def State.setRay (s : State) (i : Nat) (r : Ray) : State :=
  match s.kGet i with
  | some x => s.kPut i { x with data := .ray r }
  | none => s

def State.updRay (s : State) (i : Nat) (f : Ray → Ray) : State :=
  match s.ray? i with
  | some r => s.setRay i (f r)
  | none => s

/-- The Leash in a slot. -/
def State.leash? (s : State) (i : Nat) : Option Leash :=
  match s.kGet i with
  | some ⟨_, _, _, .leash l⟩ => some l
  | _ => none

def State.updLeash (s : State) (i : Nat) (f : Leash → Leash) : State :=
  match s.kGet i with
  | some ⟨g, p, k, .leash l⟩ => s.kPut i ⟨g, p, k, .leash (f l)⟩
  | _ => s

/-- The instance frame in a slot. -/
def State.frame? (s : State) (i : Nat) : Option InstFrame :=
  match s.kGet i with
  | some ⟨_, _, _, .inst f⟩ => some f
  | _ => none

/-- Slots along a chain of links, at most `n`. -/
def State.chain (s : State) : Nat → Option Nat → List Nat
  | 0, _ => []
  | _, none => []
  | n + 1, some i => i :: s.chain n (s.kNext i)

/-- Every slot a ray holds: its own, its instance frame, the extension slots of both levels, its Leash. -/
def State.raySlots (s : State) (i : Nat) : List Nat :=
  match s.ray? i with
  | none => []
  | some r =>
    [i] ++ s.chain 4 (s.kNext i) ++ (match r.inst with | some f => f :: s.chain 4 (s.kNext f) | none => []) ++ r.leash.toList

/-- Every slot of `l` freed. -/
def State.kFreeAll (s : State) (l : List Nat) : State := l.foldl State.kFree s

/-! ## Bundles of the Strainer -/

def State.bundle? (s : State) (h : Nat) : Option Bundle := s.strain.bundles.find? (fun b => b.head == h)

def State.updBundle (s : State) (h : Nat) (f : Bundle → Bundle) : State :=
  { s with strain := { s.strain with bundles := s.strain.bundles.map (fun b => if b.head = h then f b else b) } }

/-! ## Setter groups -/

def State.core (s : State) (c : CoreId) : Core := s.setter.cores[c]

def State.setCore (s : State) (c : CoreId) (x : Core) : State :=
  { s with setter := { s.setter with cores := s.setter.cores.set c x } }

def State.group? (s : State) (g : GroupRef) : Option Group := (s.core g.core).groups[g.slot]

def State.setGroup (s : State) (g : GroupRef) (x : Option Group) : State :=
  s.setCore g.core { s.core g.core with groups := (s.core g.core).groups.set g.slot x }

def State.updGroup (s : State) (g : GroupRef) (f : Group → Group) : State :=
  match s.group? g with
  | some x => s.setGroup g (some (f x))
  | none => s

/-- Every resident group, by core and slot. -/
def State.residents (s : State) : List (GroupRef × Group) :=
  (List.finRange 16).flatMap (fun c => (List.finRange 16).filterMap (fun k => (s.group? ⟨c, k⟩).map (fun x => (⟨c, k⟩, x))))

/-- A group by its block and its number in it, resident or saved. -/
def State.groupBy? (s : State) (block inBlock : Nat) : Option Group :=
  let is := fun (x : Group) => x.block == block && x.inBlock == inBlock
  match s.residents.find? (fun e => is e.2) with
  | some e => some e.2
  | none => (s.setter.saved.find? (fun e => is e.2)).map (·.2)

/-- A group by its block and its number in it changed, resident or saved. -/
def State.updGroupBy (s : State) (block inBlock : Nat) (f : Group → Group) : State :=
  let g := fun (x : Group) => if x.block == block && x.inBlock == inBlock then f x else x
  { s with setter := { s.setter with cores := s.setter.cores.map (fun c => { c with groups := c.groups.map (Option.map g) }),
                                     saved := s.setter.saved.map (fun e => (e.1, g e.2)) } }

/-! ## Outstanding writes (R15) -/

/-- A write of a partition that `w` waits on is issued, over the runs of bytes `l`. -/
def State.noteWrite (s : State) (w : WriteFor) (p : PartId) (l : List (Nat × Nat)) : State :=
  let s := match w with | .command c => s.updCmd c (fun x => { x with writes := x.writes + 1 }) | _ => s
  { s with ret := { s.ret with writes := s.ret.writes ++ [⟨s.ret.nextWrite, w, p, l⟩], nextWrite := s.ret.nextWrite + 1 } }

/-- The runs of bytes that some writes cover. -/
def spansOf (l : List (Nat × List Byte)) : List (Nat × Nat) := l.map (fun e => (e.1, e.2.length))

/-- The open choices of a row that has none: the timebase as it stands. -/
def State.env0 (s : State) : Env := ⟨s.pins.now, [], [], [], 0, .ok, .clean⟩

/-- Bytes at a physical address. -/
def State.poke (s : State) (pa : Nat) (bs : List Byte) : State := { s with mem := s.mem.write pa bs }

end Sys2Proof.Machine
end

