-- ==== Sys2Proof/Machine/Fp.lean ====
section
/-!
DEFINITION. Sys2Proof/Machine/Fp.lean: number formats and their arithmetic (R238 to R240, R250, R252 to R256): values as exact dyadic
numbers, one rounding, and the operations that round to nearest or outward.
-/

namespace Sys2Proof

open Machine

/-! ## Values -/

/-- An exact value: NaN, an infinity by its sign, or (-1)^neg * m * 2^e (a zero keeps its sign). -/
inductive Val where
  | nan
  | inf (neg : Bool)
  | fin (neg : Bool) (m : Nat) (e : Int)
deriving DecidableEq, Repr

/-- +0. -/
def Val.zero : Val := .fin false 0 0

/-- An integer as a value. -/
def Val.ofInt (i : Int) : Val := .fin (decide (i < 0)) i.natAbs 0

def Val.ofNat (n : Nat) : Val := .fin false n 0

def Val.isNan (v : Val) : Bool := match v with | .nan => true | _ => false
def Val.isInf (v : Val) : Bool := match v with | .inf _ => true | _ => false
def Val.isFin (v : Val) : Bool := match v with | .fin _ _ _ => true | _ => false
def Val.isZero (v : Val) : Bool := match v with | .fin _ m _ => m == 0 | _ => false
/-- The sign bit; NaN has none. -/
def Val.sign (v : Val) : Bool := match v with | .nan => false | .inf n => n | .fin n _ _ => n

def Val.neg (v : Val) : Val := match v with | .nan => .nan | .inf n => .inf !n | .fin n m e => .fin (!n) m e
def Val.abs (v : Val) : Val := match v with | .nan => .nan | .inf _ => .inf false | .fin _ m e => .fin false m e

/-- A finite value's signed significand at exponent `k` not above its own. -/
def Val.at_ (v : Val) (k : Int) : Int :=
  match v with
  | .fin n m e => let x : Int := m * 2 ^ (e - k).toNat
                  if n then -x else x
  | _ => 0

def Val.exp (v : Val) : Int := match v with | .fin _ _ e => e | _ => 0

/-- The exact sum; +∞ + −∞ is NaN; an exact zero sum of opposite signs is +0 (R239). -/
def Val.add (a b : Val) : Val :=
  match a, b with
  | .nan, _ => .nan
  | _, .nan => .nan
  | .inf x, .inf y => if x = y then .inf x else .nan
  | .inf x, .fin _ _ _ => .inf x
  | .fin _ _ _, .inf y => .inf y
  | .fin n m e, .fin n' m' e' =>
    let k := min e e'
    let i := Val.at_ (.fin n m e) k + Val.at_ (.fin n' m' e') k
    if i = 0 then .fin (n && n') 0 0 else .fin (decide (i < 0)) i.natAbs k

def Val.sub (a b : Val) : Val := a.add b.neg

/-- The exact product; 0 × ±∞ is NaN. -/
def Val.mul (a b : Val) : Val :=
  match a, b with
  | .nan, _ => .nan
  | _, .nan => .nan
  | .inf x, .inf y => .inf (x != y)
  | .inf x, .fin n m _ => if m = 0 then .nan else .inf (x != n)
  | .fin n m _, .inf y => if m = 0 then .nan else .inf (n != y)
  | .fin n m e, .fin n' m' e' => .fin (n != n') (m * m') (e + e')

/-- A value times 2^k. -/
def Val.scale (a : Val) (k : Int) : Val := match a with | .fin n m e => .fin n m (e + k) | x => x

/-- `a < b`; false where either is NaN; +0 and −0 are equal. -/
def Val.lt (a b : Val) : Bool :=
  match a, b with
  | .nan, _ => false
  | _, .nan => false
  | .inf x, .inf y => x && !y
  | .inf x, .fin _ _ _ => x
  | .fin _ _ _, .inf y => !y
  | .fin n m e, .fin n' m' e' =>
    let k := min e e'
    decide (Val.at_ (.fin n m e) k < Val.at_ (.fin n' m' e') k)

def Val.le (a b : Val) : Bool := !a.isNan && !b.isNan && !b.lt a
def Val.eq (a b : Val) : Bool := a.le b && b.le a

/-- The larger of two values that are not NaN; the first of equals. -/
def Val.max (a b : Val) : Val := if a.lt b then b else a
def Val.min (a b : Val) : Val := if b.lt a then b else a

/-! ## Rounding -/

inductive Rnd where
  | near | down | up
deriving DecidableEq, Repr

/-- The integer nearest to n / d (d above 0) of a magnitude with sign `neg`, under a rounding mode. -/
def roundQuot (r : Rnd) (neg : Bool) (n d : Nat) : Nat :=
  let q := n / d
  let t := n % d
  if t = 0 then q
  else match r with
    | .near => if 2 * t < d then q else if d < 2 * t then q + 1 else q + q % 2
    | .down => if neg then q + 1 else q
    | .up => if neg then q else q + 1

/-- floor(log2 (n / d)) of positive numbers. -/
def log2Quot (n d : Nat) : Int :=
  let g : Int := (Nat.log2 n : Int) - Nat.log2 d
  if (if 0 ≤ g then d * 2 ^ g.toNat ≤ n else d ≤ n * 2 ^ (-g).toNat) then g else g - 1

/-- n / d * 2^e rounded to `p` significant bits, no bit below 2^kmin: significand and exponent. -/
def roundSig (p : Nat) (kmin : Int) (r : Rnd) (neg : Bool) (n d : Nat) (e : Int) : Nat × Int :=
  if n = 0 then (0, kmin)
  else
    let k := max kmin (log2Quot n d + e - ((p : Int) - 1))
    let s := e - k
    (if 0 ≤ s then roundQuot r neg (n * 2 ^ s.toNat) d else roundQuot r neg n (d * 2 ^ (-s).toNat), k)

/-! ## Formats (R238) -/

def Fmt.expBits (f : Fmt) : Nat := match f with | .fp32 => 8 | .fp16 => 5 | .bf16 => 8 | .e4m3 => 4 | .e5m2 => 5
def Fmt.sigBits (f : Fmt) : Nat := match f with | .fp32 => 23 | .fp16 => 10 | .bf16 => 7 | .e4m3 => 3 | .e5m2 => 2
def Fmt.bias (f : Fmt) : Nat := match f with | .fp32 => 127 | .fp16 => 15 | .bf16 => 127 | .e4m3 => 7 | .e5m2 => 15
def Fmt.width (f : Fmt) : Nat := 1 + f.expBits + f.sigBits
/-- The exponent of the lowest bit of a subnormal. -/
def Fmt.kmin (f : Fmt) : Int := 1 - (f.bias : Int) - f.sigBits
/-- The largest finite value as a word without sign. -/
def Fmt.top (f : Fmt) : Nat := match f with | .fp32 => 0x7F7FFFFF | .fp16 => 0x7BFF | .bf16 => 0x7F7F | .e4m3 => 0x7E | .e5m2 => 0x7B
/-- The canonical NaN (R239). -/
def Fmt.nan (f : Fmt) : Nat := match f with | .fp32 => 0x7FC00000 | .fp16 => 0x7E00 | .bf16 => 0x7FC0 | .e4m3 => 0x7F | .e5m2 => 0x7E
/-- +∞; E4M3 has none. -/
def Fmt.infWord (f : Fmt) : Option Nat := match f with | .fp32 => some 0x7F800000 | .fp16 => some 0x7C00 | .bf16 => some 0x7F80 | .e4m3 => none | .e5m2 => some 0x7C

/-- A finite word without its sign as significand and exponent. -/
def Fmt.parts (f : Fmt) (w : Nat) : Nat × Int :=
  let e := (w / 2 ^ f.sigBits) % 2 ^ f.expBits
  let m := w % 2 ^ f.sigBits
  if e = 0 then (m, f.kmin) else (2 ^ f.sigBits + m, f.kmin + ((e : Int) - 1))

/-- The value of a word. -/
def Fmt.decode (f : Fmt) (w : Nat) : Val :=
  let neg := Nat.testBit w (f.width - 1)
  let mag := w % 2 ^ (f.width - 1)
  match f.infWord with
  | some i => if mag = i then .inf neg else if i < mag then .nan else .fin neg (f.parts mag).1 (f.parts mag).2
  | none => if mag = 0x7F then .nan else .fin neg (f.parts mag).1 (f.parts mag).2

/-- What a finite result beyond the range becomes: SATFINITE, IEEE (R252), or the infinity with no flag (R253). -/
inductive Ovf where
  | sat | ieee | quiet
deriving DecidableEq, Repr

/-- FP_OVF 0b10 is IEEE, the other value that a command resolves to is SATFINITE (R252). -/
def ovfOf (b : BitVec 2) : Ovf := if b = 2 then .ieee else .sat

/-- A word with its sign. -/
def Fmt.signed (f : Fmt) (neg : Bool) (mag : Nat) : Nat := if neg then mag + 2 ^ (f.width - 1) else mag

/-- The infinity of a sign; NaN where the format has none (R252). -/
def Fmt.infOf (f : Fmt) (neg : Bool) : Nat := match f.infWord with | some i => f.signed neg i | none => f.nan

/-- A finite result beyond the range: the word, and whether OVERFLOW is set. -/
def Fmt.overflow (f : Fmt) (r : Rnd) (o : Ovf) (neg : Bool) : Nat × Bool :=
  match r, neg with
  | .down, false => (f.signed neg f.top, false)
  | .up, true => (f.signed neg f.top, false)
  | .down, true => (f.infOf neg, false)
  | .up, false => (f.infOf neg, false)
  | .near, _ => match o with
    | .sat => (f.signed neg f.top, true)
    | .ieee => (f.infOf neg, true)
    | .quiet => (f.infOf neg, false)

/-- The word of a significand at an exponent that is the format's own. -/
def Fmt.pack (f : Fmt) (m : Nat) (k : Int) : Nat :=
  if m < 2 ^ f.sigBits then m
  else if m = 2 ^ (f.sigBits + 1) then ((k - f.kmin + 2).toNat) * 2 ^ f.sigBits
  else ((k - f.kmin + 1).toNat) * 2 ^ f.sigBits + (m - 2 ^ f.sigBits)

/-- The magnitude n / d * 2^e of a sign rounded once to a format: the word, and whether OVERFLOW is set (R254). -/
def Fmt.roundQ (f : Fmt) (r : Rnd) (o : Ovf) (neg : Bool) (n d : Nat) (e : Int) : Nat × Bool :=
  let x := roundSig (f.sigBits + 1) f.kmin r neg n d e
  let w := f.pack x.1 x.2
  if f.top < w then f.overflow r o neg else (f.signed neg w, false)

/-- A value rounded once to a format. ±∞ to E4M3 is NaN under IEEE and ±448 under SATFINITE, and sets OVERFLOW under both (R256). -/
def Fmt.round (f : Fmt) (r : Rnd) (o : Ovf) (v : Val) : Nat × Bool :=
  match v with
  | .nan => (f.nan, false)
  | .inf n => match f.infWord with
    | some i => (f.signed n i, false)
    | none => (match o with | .sat => f.signed n f.top | _ => f.nan, true)
  | .fin n m e => f.roundQ r o n m 1 e

/-! ## FP32 -/

/-- The value of an FP32 word. -/
def v32 (w : W32) : Val := Fmt.fp32.decode w.toNat

/-- Rounded once to FP32, no OVERFLOW reported. -/
def r32 (r : Rnd) (v : Val) : W32 := BitVec.ofNat 32 (Fmt.fp32.round r .quiet v).1

/-- Rounded to nearest under an overflow mode: the word and whether OVERFLOW is set. -/
def n32 (o : Ovf) (v : Val) : W32 × Bool := let x := Fmt.fp32.round .near o v; (BitVec.ofNat 32 x.1, x.2)

def fadd (r : Rnd) (a b : W32) : W32 := r32 r ((v32 a).add (v32 b))
def fsub (r : Rnd) (a b : W32) : W32 := r32 r ((v32 a).sub (v32 b))
def fmul (r : Rnd) (a b : W32) : W32 := r32 r ((v32 a).mul (v32 b))

/-- The quotient of two values rounded once to a format; 0 / 0 and ∞ / ∞ are NaN, x / 0 is an infinity. -/
def Fmt.div (f : Fmt) (r : Rnd) (o : Ovf) (a b : Val) : Nat × Bool :=
  match a, b with
  | .nan, _ => (f.nan, false)
  | _, .nan => (f.nan, false)
  | .inf _, .inf _ => (f.nan, false)
  | .inf x, .fin n _ _ => f.round r o (.inf (x != n))
  | .fin n _ _, .inf y => (f.signed (n != y) 0, false)
  | .fin n m e, .fin n' m' e' =>
    if m' = 0 then (if m = 0 then (f.nan, false) else f.round r .quiet (.inf (n != n')))
    else f.roundQ r o (n != n') m m' (e - e')

def fdiv (r : Rnd) (a b : W32) : W32 := BitVec.ofNat 32 (Fmt.fp32.div r .quiet (v32 a) (v32 b)).1

/-- floor(sqrt n) by its bits from the k-th down. -/
def isqrtFrom (n : Nat) : Nat → Nat → Nat
  | 0, r => r
  | k + 1, r => let c := r + 2 ^ k
                isqrtFrom n k (if c * c ≤ n then c else r)

def isqrt (n : Nat) : Nat := isqrtFrom n (Nat.log2 n / 2 + 1) 0

/-- The square root rounded toward +∞ in FP32. -/
def fsqrtUp (a : W32) : W32 :=
  match v32 a with
  | .nan => 0x7FC00000
  | .inf n => if n then 0x7FC00000 else 0x7F800000
  | .fin n m e =>
    if m = 0 then a
    else if n then 0x7FC00000
    else
      let s := 64 + (e % 2).toNat
      let x := m * 2 ^ s
      let r := isqrt x
      let e' := (e - s) / 2
      r32 .up (if r * r = x then .fin false r e' else .fin false (4 * r + 1) (e' - 2))

/-- The square root rounded to nearest in FP32 (R280). -/
def fsqrt (a : W32) : W32 :=
  match v32 a with
  | .nan => 0x7FC00000
  | .inf n => if n then 0x7FC00000 else 0x7F800000
  | .fin n m e =>
    if m = 0 then a
    else if n then 0x7FC00000
    else
      let s := 64 + (e % 2).toNat
      let x := m * 2 ^ s
      let r := isqrt x
      let e' := (e - s) / 2
      r32 .near (if r * r = x then .fin false r e' else .fin false (4 * r + 1) (e' - 2))

/-- The next FP32 value below a finite one (R207). -/
def fprev (a : W32) : W32 :=
  if a.toNat % 2 ^ 31 = 0 then 0x80000001
  else if bit a 31 then a + 1 else a - 1

def f32Inf : W32 := 0x7F800000
def f32NegInf : W32 := 0xFF800000
def f32Nan : W32 := 0x7FC00000

def isNan32 (a : W32) : Bool := (v32 a).isNan
def isFin32 (a : W32) : Bool := (v32 a).isFin
def flt (a b : W32) : Bool := (v32 a).lt (v32 b)
def fle (a b : W32) : Bool := (v32 a).le (v32 b)

/-! ## Conversions (R255, R256) -/

def IntFmt.width (f : IntFmt) : Nat := match f with | .s8 => 8 | .u8 => 8 | .s16 => 16 | .s32 => 32
def IntFmt.lo (f : IntFmt) : Int := match f with | .s8 => -128 | .u8 => 0 | .s16 => -32768 | .s32 => -2147483648
def IntFmt.hi (f : IntFmt) : Int := match f with | .s8 => 127 | .u8 => 255 | .s16 => 32767 | .s32 => 2147483647
/-- The integer of a word. -/
def IntFmt.decode (f : IntFmt) (w : Nat) : Int := match f with | .u8 => ((w % 256 : Nat) : Int) | _ => sext f.width w

/-- The outcome of a conversion: the word, OVERFLOW, INVALID. -/
structure Conv where
  word : Nat
  ovf  : Bool
  inv  : Bool
deriving DecidableEq, Repr

/-- A value to an integer, to nearest with ties to even, saturated (code F). -/
def toInt (f : IntFmt) (v : Val) : Conv :=
  let put := fun (i : Int) => wrapN f.width i
  match v with
  | .nan => ⟨0, false, true⟩
  | .inf n => ⟨put (if n then f.lo else f.hi), true, false⟩
  | .fin n m e =>
    let q := if 0 ≤ e then m * 2 ^ e.toNat else roundQuot .near n m (2 ^ (-e).toNat)
    let i : Int := if n then -(q : Int) else q
    if i < f.lo then ⟨put f.lo, true, false⟩ else if f.hi < i then ⟨put f.hi, true, false⟩ else ⟨put i, false, false⟩

/-- An integer to a narrower one (code I); `keep` keeps the low bits with no flag (SAT 0). -/
def intToInt (d : IntFmt) (i : Int) (keep : Bool) : Conv :=
  if decide (d.lo ≤ i) && decide (i ≤ d.hi) then ⟨wrapN d.width i, false, false⟩
  else if keep then ⟨wrapN d.width i, false, false⟩
  else ⟨wrapN d.width (if i < d.lo then d.lo else d.hi), true, false⟩

/-- One conversion of the table. A NaN source is invalid only to an integer (R256, R258). -/
def convert (src dst : NumFmt) (keep : Bool) (o : Ovf) (w : Nat) : Conv :=
  match src, dst with
  | .f a, .f b => let x := b.round .near o (a.decode (w % 2 ^ a.width)); ⟨x.1, x.2, false⟩
  | .f a, .i b => toInt b (a.decode (w % 2 ^ a.width))
  | .i a, .f b => let x := b.round .near o (Val.ofInt (a.decode w)); ⟨x.1, x.2, false⟩
  | .i a, .i b => intToInt b (a.decode w) keep

end Sys2Proof
end

