-- ==== Sys2Proof/Machine/Mmu.lean ====
section
/-!
DEFINITION. Sys2Proof/Machine/Mmu.lean: translation (R438 to R442), open faults and the fault queue (R444 to R447), notices, the
scheduling trace (R407 to R409), and reads and writes through a partition's translation.
-/

namespace Sys2Proof.Machine

/-! ## The page-table walk -/

/-- A failed translation: cause of R442, ACCESS byte of R445, and the address. -/
structure Xfault where
  cause  : Nat
  access : Nat
  va     : Nat
deriving DecidableEq, Repr

/-- What an access comes to. -/
inductive Acc (α : Type) where
  | ok (a : α)
  | bad (x : Xfault)
deriving DecidableEq, Repr

/-- Bits [2:0] of ACCESS for an access kind (R445): an atomic sets write too. -/
def accBits : AccKind → Nat
  | .read => 0
  | .write => 1
  | .atomic => 5
  | .exec => 2

/-- An access failed at a table entry or table read of a level: ACCESS [3] set. -/
def stopAt (k : AccKind) (cause level va : Nat) : Xfault := ⟨cause, accBits k + 8 + 16 * level, va⟩

/-- The entry breaks a rule of R440 on reserved bits, L, C or alignment. -/
def pteBad (e level : Nat) : Bool :=
  nfld e 52 7 != 0 || nfld e 5 7 != 0
  || (decide (3 ≤ level) && nfld e 1 1 == 1)
  || (decide (1 ≤ level) && nfld e 3 1 == 1)
  || (level == 1 && nfld e 1 1 == 1 && nfld e 12 9 != 0)
  || (level == 2 && nfld e 1 1 == 1 && nfld e 12 18 != 0)

/-- The entry is a leaf (R439). -/
def pteLeaf (e level : Nat) : Bool := level == 0 || (decide (level ≤ 2) && nfld e 1 1 == 1)

/-- Bytes of the page a leaf gives: 4 KiB, 64 KiB (C at level 0), 2 MiB, 1 GiB. -/
def leafSize (e level : Nat) : Nat :=
  if level = 0 then (if nfld e 3 1 = 1 then 65536 else 4096) else if level = 1 then 2097152 else 1073741824

/-- The translation a leaf gives for the page of `va`; a 64 KiB page clears ADDR [15:12]. -/
def leafEntry (p : PartId) (va e level : Nat) : TlbEntry :=
  let sz := leafSize e level
  ⟨p, va / sz * sz, sz, (4096 * nfld e 12 40) / sz * sz, nfld e 2 1 == 1, nfld e 4 1 == 1, level⟩

/-- Physical address of the entry of a level's table that a walk reads. -/
def pteAt (table va level : Nat) : Nat := table + 8 * nfld va (12 + 9 * level) 9

/-- The walk from a level's table down; a read of an entry in `bad` fails (R442). -/
def walkFrom (m : Mem) (bad : List (Nat × Nat)) (p : PartId) (k : AccKind) (va : Nat) : Nat → Nat → Acc TlbEntry
  | 0, table =>
    let a := pteAt table va 0
    let e := m.num a 8
    if bad.contains (a, 0) then .bad (stopAt k 6 0 va)
    else if nfld e 0 1 = 0 then .bad (stopAt k 1 0 va)
    else if pteBad e 0 then .bad (stopAt k 4 0 va)
    else .ok (leafEntry p va e 0)
  | l + 1, table =>
    let a := pteAt table va (l + 1)
    let e := m.num a 8
    if bad.contains (a, l + 1) then .bad (stopAt k 6 (l + 1) va)
    else if nfld e 0 1 = 0 then .bad (stopAt k 1 (l + 1) va)
    else if pteBad e (l + 1) then .bad (stopAt k 4 (l + 1) va)
    else if pteLeaf e (l + 1) then .ok (leafEntry p va e (l + 1))
    else walkFrom m bad p k va l (4096 * nfld e 12 40)

/-- The table entries that a walk reads, down to the one it ends at: physical address and level. -/
def walkPath (m : Mem) (va : Nat) : Nat → Nat → List (Nat × Nat)
  | 0, table => [(pteAt table va 0, 0)]
  | l + 1, table =>
    let e := m.num (pteAt table va (l + 1)) 8
    (pteAt table va (l + 1), l + 1) ::
      (if nfld e 0 1 = 0 || pteBad e (l + 1) || pteLeaf e (l + 1) then [] else walkPath m va l (4096 * nfld e 12 40))

/-- The table of level 4 of a partition (R438, R459). -/
def State.rootTable (s : State) (p : PartId) : Nat := 4096 * (s.part p).mmuRoot.force.toNat

/-- The whole walk of a partition (R438, R459): with translation off every access fails as a level-4 entry with V = 0. -/
def State.walk (s : State) (p : PartId) (k : AccKind) (va : Nat) : Acc TlbEntry :=
  if (s.part p).mmuEnable.force then walkFrom s.mem s.mmu.badPtes p k va 4 (s.rootTable p)
  else .bad (stopAt k 1 4 va)

/-- The table entries on the walk of an address are read again. -/
def State.forgetWalk (s : State) (p : PartId) (va : Nat) : State :=
  { s with mmu := { s.mmu with badPtes := s.mmu.badPtes.filter (fun e => !(walkPath s.mem va 4 (s.rootTable p)).contains e) } }

/-- The leaf permits the access (R440): WRITE_PROT and EXEC_PROT leave ACCESS [3] clear and give the leaf's level. -/
def leafAllows (k : AccKind) (e : TlbEntry) (va : Nat) : Acc Nat :=
  match k with
  | .read => .ok (e.pa + (va - e.va))
  | .write => if e.w then .ok (e.pa + (va - e.va)) else .bad ⟨2, accBits .write + 16 * e.level, va⟩
  | .atomic => if e.w then .ok (e.pa + (va - e.va)) else .bad ⟨2, accBits .atomic + 16 * e.level, va⟩
  | .exec => if e.x then .ok (e.pa + (va - e.va)) else .bad ⟨3, accBits .exec + 16 * e.level, va⟩

/-- The cached leaf translation that covers an address (R441). -/
def State.tlbHit (s : State) (p : PartId) (va : Nat) : Option TlbEntry :=
  s.mmu.tlb.find? (fun e => decide (e.part = p) && decide (e.va ≤ va) && decide (va < e.va + e.size))

/-- One translation: range (R442), the cache, else the walk. -/
def State.translate (s : State) (p : PartId) (k : AccKind) (va : Nat) : Acc Nat :=
  if 2 ^ 57 ≤ va then .bad ⟨5, accBits k, va⟩
  else if !(s.part p).mmuEnable.force then .bad (stopAt k 1 4 va)
  else match s.tlbHit p va with
    | some e => leafAllows k e va
    | none => match s.walk p k va with
      | .ok e => leafAllows k e va
      | .bad x => .bad x

/-- The pieces of `n` bytes at `va` that lie in one 4 KiB page each; `f` bounds their number. -/
def pagePieces : Nat → Nat → Nat → List (Nat × Nat)
  | 0, _, _ => []
  | f + 1, va, n =>
    if n = 0 then []
    else
      let k := min n (4096 - va % 4096)
      (va, k) :: pagePieces f (va + k) (n - k)

/-- The pieces of a whole access. -/
def pieces (va n : Nat) : List (Nat × Nat) := pagePieces (n / 4096 + 2) va n

/-- Physical pieces, or the first failure. -/
def State.xlat (s : State) (p : PartId) (k : AccKind) : List (Nat × Nat) → Acc (List (Nat × Nat))
  | [] => .ok []
  | (va, n) :: r =>
    match s.translate p k va with
    | .bad x => .bad x
    | .ok pa => match s.xlat p k r with
      | .bad x => .bad x
      | .ok l => .ok ((pa, n) :: l)

/-- `n` bytes read at a virtual address. -/
def State.vread (s : State) (p : PartId) (va n : Nat) : Acc (List Byte) :=
  match s.xlat p .read (pieces va n) with
  | .bad x => .bad x
  | .ok l => .ok (l.flatMap (fun e => s.mem.read e.1 e.2))

/-- Physical pieces written from one run of bytes. -/
def pokeAll : Mem → List (Nat × Nat) → List Byte → Mem
  | m, [], _ => m
  | m, (pa, n) :: r, bs => pokeAll (m.write pa (bs.take n)) r (bs.drop n)

/-- Bytes written at a virtual address: nothing is written where a page of them fails. -/
def State.vwriteAs (s : State) (k : AccKind) (p : PartId) (va : Nat) (bs : List Byte) : Acc State :=
  match s.xlat p k (pieces va bs.length) with
  | .bad x => .bad x
  | .ok l => .ok { s with mem := pokeAll s.mem l bs }

def State.vwrite (s : State) (p : PartId) (va : Nat) (bs : List Byte) : Acc State := s.vwriteAs .write p va bs

/-- The 64 B unit at a virtual address. -/
def State.vslot (s : State) (p : PartId) (va : Nat) : Acc Slot64 :=
  match s.vread p va 64 with
  | .bad x => .bad x
  | .ok l => .ok (BitVec.ofNat 512 (leNat l))

/-- The number in `n` bytes at a virtual address. -/
def State.vnum (s : State) (p : PartId) (va n : Nat) : Acc Nat :=
  match s.vread p va n with
  | .bad x => .bad x
  | .ok l => .ok (leNat l)

/-! ## The fault queue (R445, R446) -/

/-- A fault record without its PHASE (R445). -/
def faultRecord (s : State) (p : PartId) (kind : Nat) (x : Xfault) (fid : Nat) (owner : ChipId) (c : FaultCtx) : Slot64 :=
  BitVec.ofNat 512 (packN [(64, x.va), (8, kind), (8, x.cause), (8, x.access), (8, c.source.toNat),
    (8, match c.queue with | some q => q.val | none => 128), (8, c.cls.toNat + 4 * c.caddy.toNat + 16 * p.val), (16, fid % 1024),
    (32, c.item.toNat), (32, c.tag.toNat), (32, c.pc.toNat), (8, c.unit.toNat), (24, 0), (32, owner.toNat), (32, 0),
    (64, s.pins.now), (128, 0)])

/-- Records of the ring: 2^(SIZE + 6). -/
def fqLen (x : Part) : Nat := 2 ^ (x.fqSize.force.toNat + 6)

/-- The ring is full. -/
def fqFull (x : Part) : Bool := decide (fqLen x ≤ (x.fqWrite + 2 * fqLen x - x.fqHead.toNat % (2 * fqLen x)) % (2 * fqLen x))

/-- A record tells of a trap: KIND 1, or KIND 0 of a Setter group, which is MEM_FAULT (R303, R445). -/
def ofTrap (r : Slot64) : Bool := fldN r 64 8 == 1 || (fldN r 64 8 == 0 && fldN r 88 8 == 2)

/-- A trap record has been written: it is counted, and TRAP_VEC is raised where TRAP_IRQ is set (R303, R309). -/
def State.trapWritten (s : State) (p : PartId) : State :=
  (s.updPart p (fun y => { y with traps := satInc y.traps })).doIf (s.part p).trapIrq (·.irqPart p (s.part p).trapVec)

/-- One held record written to the ring, if there is room and its write translates (R446). -/
def State.fqOne (s : State) (p : PartId) (r : Slot64) : Option State :=
  let x := s.part p
  let m := fqLen x
  if fqFull x then none
  else
    let phase := if x.fqWrite < m then 1 else 0
    match s.vwrite p (4096 * x.fqBase.force.toNat + 64 * (x.fqWrite % m)) (leBytes 64 (r.toNat + phase * 2 ^ 127)) with
    | .bad _ => none
    | .ok s' =>
      let s1 := (s'.updPart p (fun y => { y with fqWrite := (x.fqWrite + 1) % (2 * m), fqFault := false })).irqPart p x.fqVec
      some (s1.doIf (ofTrap r) (·.trapWritten p))

/-- Held records written in order until one cannot be. -/
def State.fqPush (s : State) (p : PartId) : List Slot64 → State
  | [] => s.updPart p (fun y => { y with fqHeld := [], fqFault := false })
  | r :: rest =>
    match s.fqOne p r with
    | some s' => s'.fqPush p rest
    | none =>
      let x := s.part p
      let flt := !fqFull x
      (s.updPart p (fun y => { y with fqHeld := r :: rest, fqFault := y.fqFault || flt })).doIf (flt && !x.fqFault) (·.irqPart p x.fqVec)

/-- The held records are tried again, while the queue has a base. -/
def State.fqRetry (s : State) (p : PartId) : State :=
  if s.errored || decide ((s.part p).fqBase.force = 0) then s else s.fqPush p (s.part p).fqHeld

/-- A record enters the fault queue; a notice beyond 64 held is dropped (R446). -/
def State.fqPost (s : State) (p : PartId) (notice : Bool) (r : Slot64) : State :=
  let x := s.part p
  if x.fqBase.force = 0 || s.errored then s
  else if notice && decide (64 ≤ (x.fqHeld.filter (fun h => fldN h 64 8 == 4)).length) then
    s.updPart p (fun y => { y with noticeDrop := true })
  else
    let s := s.updPart p (fun y => { y with fqHeld := y.fqHeld ++ [r] })
    if x.fqFault then s else s.fqRetry p

/-- A record of KIND 4: an event that needs no answer. -/
def State.notice (s : State) (p : PartId) (x : Xfault) (c : FaultCtx) : State :=
  s.fqPost p true (faultRecord s p 4 x 0 0 c)

/-! ## What an item is (R164, R214, R397) -/

/-- Priority class of an item. -/
def State.itemCls (s : State) (i : HItem) : BitVec 2 :=
  match i with
  | .ray n => match s.ray? n with | some r => r.cls | none => 0
  | .op o => match s.bundle? o.bundle with | some b => b.cls | none => 0
  | .group b k => match s.groupBy? b k with | some x => x.cls | none => 0

/-- Caddy tag of an item. -/
def State.itemCaddy (s : State) (i : HItem) : BitVec 2 :=
  match i with
  | .ray n => match s.ray? n with | some r => r.caddy | none => 0
  | .op o => match s.bundle? o.bundle with | some b => b.caddy | none => 0
  | .group b k => match s.groupBy? b k with | some x => x.caddy | none => 0

/-- Ray or bundle ID of an item. -/
def State.itemId (s : State) (i : HItem) : W32 :=
  match i with
  | .ray n => s.kId n
  | .op o => s.kId o.bundle
  | .group b k => match s.groupBy? b k with | some x => BitVec.ofNat 32 x.age | none => 0

/-- Operation type of an item (R395). -/
def itemOp (i : HItem) : Nat :=
  match i with
  | .ray _ => 1
  | .op o => match o.kind with | .bound => 2 | .score => 3 | .reduce => 5
  | .group _ _ => 3

/-! ## The scheduling trace (R407 to R409) -/

/-- What a trace record says beside its time. -/
structure TraceRec where
  dec    : Nat
  op     : Nat
  cls    : Nat
  caddy  : Nat
  part   : Nat
  reason : Nat
  item   : Nat
  unit   : Nat
  kind   : Nat
  count  : Nat
  depth  : Nat
  line   : Nat
deriving DecidableEq, Repr

/-- The record is selected: decisions 0x09 to 0x0C always, the others by OP_MASK and the partition filter. -/
def State.traceSel (s : State) (r : TraceRec) : Bool :=
  s.trace.enable && ((decide (9 ≤ r.dec) && decide (r.dec ≤ 12))
    || (bit s.trace.opMask r.op && (s.trace.allParts || decide (s.trace.part.toNat = r.part))))

/-- One more dropped record. -/
def State.traceDrop (s : State) : State := { s with trace := { s.trace with dropped := satInc s.trace.dropped } }

/-- The on-chip buffer holds 256 records: it passes one on every 4 cycles, 2 ns (R409). -/
def State.bufferFull (s : State) : Bool := decide (s.pins.now + 2 * 255 < s.trace.drained)

/-- A decision is recorded while the trace is on. -/
def State.record (s : State) (r : TraceRec) : State :=
  if !s.traceSel r || s.errored then s
  else if s.bufferFull then s.traceDrop
  else
    let n := 2 ^ (s.trace.ringSize.toNat + 8)
    let used := (s.trace.writePos.toNat + 2 * n - s.trace.readPos.toNat % (2 * n)) % (2 * n)
    if !s.trace.wrap && decide (n ≤ used) then s.traceDrop
    else
      let p : PartId := s.trace.part.toFin
      let bytes := leBytes 32 (packN [(64, s.pins.now), (8, r.dec), (8, r.op), (8, r.cls + 4 * r.caddy + 16 * r.part), (8, r.reason),
        (32, r.item), (16, r.unit % 256 + 256 * r.kind), (8, r.count), (8, r.depth), (64, r.line), (32, 0)])
      match s.vwrite p (4096 * s.trace.ringBase.toNat + 32 * (s.trace.writePos.toNat % n)) bytes with
      | .ok s' => { s' with trace := { s'.trace with
          writePos := BitVec.ofNat 24 ((s.trace.writePos.toNat + 1) % (2 * n)), drained := max s.trace.drained s.pins.now + 2 } }
      | .bad x =>
        let s := { s.traceDrop with trace := { s.traceDrop.trace with enable := false } }
        s.notice p x ⟨9, none, 0, 0, 0, 0, 0, 0⟩

/-- A decision of an operation type of R395 for a partition. -/
def TraceRec.of (dec op part reason : Nat) : TraceRec := ⟨dec, op, 0, 0, part, reason, 0, 0, 0, 0, 0, 0⟩

/-- The class and caddy of the ray or bundle whose ray or header slot is `i`. -/
def State.slotCtx (s : State) (i : Nat) : BitVec 2 × BitVec 2 :=
  match s.ray? i with
  | some r => (r.cls, r.caddy)
  | none => match s.bundle? i with | some b => (b.cls, b.caddy) | none => (0, 0)

/-- A record about a ray or bundle by its ID. -/
def TraceRec.forId (r : TraceRec) (s : State) (id : W32) : TraceRec :=
  let c := s.slotCtx (fldN id 0 18)
  { r with cls := c.1.toNat, caddy := c.2.toNat, item := id.toNat }

/-- What the trace says of a timer that acts (R407): the work it times where it times work of a partition, and its list as the unit. -/
def State.timerRec (s : State) (tm : Timer) : TraceRec :=
  let r := fun (op : Nat) (p : PartId) => { TraceRec.of 8 op p.val 0 with unit := tm.list.val, kind := 5 }
  match tm with
  | .packWait p line => match (s.herd.store.find? (fun e => decide (e.part = p) && e.line == line)).map (·.items) with
    | some (w :: l) => { r (itemOp w.item) p with cls := (s.itemCls w.item).toNat, caddy := (s.itemCaddy w.item).toNat,
                                                  item := (s.itemId w.item).toNat, count := min 32 (l.length + 1), line := line }
    | _ => { r 1 p with line := line }
  | .groupWait p cls cd slot =>
    let l := s.herd.invokes.filter (fun v => decide (v.part = p) && v.cls == cls && v.caddy == cd && v.slot == slot)
    { r 4 p with cls := cls.toNat, caddy := cd.toNat, item := (match l with | v :: _ => (s.kId v.ray).toNat | [] => 0), count := min 32 l.length }
  | .delivWait port group =>
    let d := s.ret.delivs.find? (fun d => decide (d.port = port) && d.group == group)
    match d.bind (fun d => s.ret.entries.find? (fun e => d.recs.head? == some e.id)) with
    | some e => { r 6 e.part with cls := (match s.cmd? e.cmd with | some c => c.cls.toNat | none => 0), item := (fld e.record 0 32 : W32).toNat }
    | none => r 6 0
  | .lease slot | .leaseExt slot => match s.leash? slot with
    | some x => (r 7 (s.kPart slot)).forId s x.queryId
    | none => r 7 (s.kPart slot)
  | .spill i => (r 1 (s.kPart i)).forId s (s.kId i)
  | .preempt p | .decision p => r 0 p
  | .waitValue q | .waitPoll q | .heel q | .progress q => r 0 (s.qPart q)
  | .session _ | .keepTx _ | .keepRx _ | .creditRet _ | .ring _ | .reopen | .blkDrain | .power => r 0 0

/-- A timer acts: it leaves its list and the trace records STEEP_FIRE. -/
def State.fire (s : State) (tm : Timer) (t : Nat) : State := (s.timerTake tm t).record ((s.at t).timerRec tm)

/-- What the read of a Steep list entry meets (R511): an uncorrectable word puts the block in ERROR, and no timer acts. -/
def State.steepWord (s : State) (env : Env) (tm : Timer) : State :=
  match env.hw.lists with
  | .failed => (s.at env.t).errBlock 0x0B tm.list.val
  | .corrected => s.errCorrected
  | .ok => s

/-! ## Open faults (R444) -/

/-- Open faults of a partition. -/
def State.openOf (s : State) (p : PartId) : List OpenFault := s.mmu.faults.filter (fun f => decide (f.part = p))

/-- The FAULT_ID an open fault takes: any free one (R444), the step's choice, or the least. -/
def State.fidPick (s : State) (env : Env) : BitVec 10 :=
  let free := fun i => decide (i < 1024) && !s.mmu.faults.any (fun f => decide (f.id.toNat = i))
  BitVec.ofNat 10 ((env.fids.find? free).getD (((List.range 1024).find? free).getD 0))

/-- What each kind of work looks like while it is parked (R447, R450). -/
def State.park (s : State) (w : Parked) : State :=
  match w with
  | .enable q => s.updQueue q (fun x => { x with enParked := true })
  | .ring q => s.updQueue q (fun x => { x with parked := true })
  | .command q n => s.updCmd ⟨q, n⟩ (fun c => { c with parked := true })
  | .intake q n => s.updCmd ⟨q, n⟩ (fun c => { c with parked := true })
  | .ray i => s.updRay i (fun r => { r with rstate := .faultWait })
  | .bundleOp b n => s.updBundle b (fun x =>
      { x with inflight := x.inflight.filter (fun o => o.id != n),
               parkedOps := x.parkedOps ++ x.inflight.filter (fun o => o.id == n) })
  | .result e => { s with ret := { s.ret with entries := s.ret.entries.map (fun x => if x.id = e then { x with state := .parked } else x) } }
  | .bundleResult _ => s
  | .completion q => s.updQueue q (fun x => { x with cplParked := true })
  | .group c g => s.updGroup ⟨c, g⟩ (fun x => { x with state := .trapped, trap := 1, stepping := false })
  | .savedGroup _ _ => s
  | .remoteRay i => s.updRay i (fun r => { r with rstate := .faultWait })
  | .remoteBundle _ _ => s
  | .forward i => s.updRay i (fun r => { r with rstate := .faultWait })
  | .reload => s
  | .trapNote _ _ _ => s

/-- What the trace says of parked work (R407, R408): its operation type, the unit it was at and that unit's queue, for whom, and the line. -/
def State.parkRec (s : State) (dec : Nat) (p : PartId) (c : FaultCtx) (va : Nat) (w : Parked) : TraceRec :=
  let r := fun (op kind unit depth : Nat) => { TraceRec.of dec op p.val 0 with
    cls := c.cls.toNat, caddy := c.caddy.toNat, item := c.item.toNat, unit := unit, kind := kind, depth := depth, line := va % 2 ^ 57 / 128 }
  let tu := fun (op : Nat) => r op 0 c.unit.toNat (match s.arr.tus.toList[c.unit.toNat]? with | some t => t.queue.length | none => 0)
  let core := fun (n : Nat) => r 4 1 n (match s.setter.cores.toList[n]? with | some x => x.queue.length | none => 0)
  let link := fun (k : Option Nat) => r 7 4 (match k.bind s.leash? with | some x => x.link.toNat | none => 0) 0
  match w with
  | .enable _ | .ring _ | .command _ _ | .intake _ _ | .completion _ => r 0 7 0 0
  | .ray _ => tu 1
  | .bundleOp b n => match (s.bundle? b).bind (fun x => (x.inflight ++ x.parkedOps).find? (fun o => o.id == n)) with
    | some o => if c.source = 3 then r (itemOp (.op o)) 3 0 0 else tu (itemOp (.op o))
    | none => tu 2
  | .result _ | .bundleResult _ => r 6 3 0 0
  | .group g _ => core g.val
  | .savedGroup _ _ | .trapNote _ _ _ => core (c.unit.toNat % 16)
  | .remoteRay i => link ((s.ray? i).bind (·.leash))
  | .remoteBundle _ k => link (some k)
  | .forward _ | .reload => link none

/-- A decision to park an operation is traced (R408). -/
def State.tracePark (s : State) (p : PartId) (c : FaultCtx) (va : Nat) (w : Parked) : State := s.record (s.parkRec 6 p c va w)

/-- A parked operation issued again is traced (R408). -/
def State.traceReplay (s : State) (p : PartId) (c : FaultCtx) (va : Nat) (w : Parked) : State := s.record (s.parkRec 7 p c va w)

/-- The open fault that an access joins (R444): same partition, 4 KiB page, cause, write and instruction-fetch bits. -/
def joins (p : PartId) (x : Xfault) (f : OpenFault) : Bool :=
  decide (f.part = p) && f.kind == 0 && decide (f.va.toNat / 4096 = x.va / 4096) && decide (f.cause.toNat = x.cause)
    && decide (f.access.toNat % 4 = x.access % 4)

/-- An open fault of a kind opens with its record (R444, R445). -/
def State.openFault (s : State) (env : Env) (p : PartId) (kind : Nat) (x : Xfault) (owner : ChipId) (c : FaultCtx) (w : Parked) : State :=
  let id := s.fidPick env
  let f : OpenFault := ⟨id, p, BitVec.ofNat 8 kind, BitVec.ofNat 8 x.cause, BitVec.ofNat 64 x.va, BitVec.ofNat 8 x.access, owner, c,
    s.pins.now, [w]⟩
  let s := { s with mmu := { s.mmu with faults := s.mmu.faults ++ [f] } }
  let s := s.updPart p (fun y => { y with faults := satInc y.faults })
  s.fqPost p false (faultRecord s p kind x id.toNat owner c)

/-- A failed access parks the work that needs it and opens or joins a fault, or waits on the overflow list (R444, R447). -/
def State.fault (s : State) (env : Env) (p : PartId) (kind : Nat) (x : Xfault) (owner : ChipId) (c : FaultCtx) (w : Parked) : State :=
  let s := (s.park w).tracePark p c x.va w
  if kind = 0 && s.mmu.faults.any (joins p x) then
    let s := { s with mmu := { s.mmu with faults := s.mmu.faults.map (fun f => if joins p x f then { f with parked := f.parked ++ [w] } else f) } }
    s.updPart p (fun y => { y with joins := satInc y.joins })
  else if 64 ≤ (s.openOf p).length then s.updPart p (fun y => { y with overflow := y.overflow ++ [⟨w, c, x.va⟩] })
  else s.openFault env p kind x owner c w

/-- Work that waits on the same access as the work that `fault` has just parked: it parks on the same fault, or behind it on the overflow list, and
counts as no further access (R444, R464). -/
def State.faultAlso (s : State) (p : PartId) (x : Xfault) (c : FaultCtx) (w : Parked) : State :=
  let s := (s.park w).tracePark p c x.va w
  if s.mmu.faults.any (joins p x) then
    { s with mmu := { s.mmu with faults := s.mmu.faults.map (fun f => if joins p x f then { f with parked := f.parked ++ [w] } else f) } }
  else s.updPart p (fun y => { y with overflow := y.overflow ++ [⟨w, c, x.va⟩] })

/-- Who a command's own accesses are for (R445). -/
def State.cmdCtx (s : State) (r : CmdRef) (source : Nat) : FaultCtx :=
  match s.cmd? r with
  | some c => ⟨BitVec.ofNat 8 source, some r.q, c.cls, c.caddy, 0, fld c.raw 32 32, 0, 0⟩
  | none => ⟨BitVec.ofNat 8 source, some r.q, 0, 0, 0, 0, 0, 0⟩

/-- Whether some work is parked on a fault or on the overflow list. -/
def State.isParked (s : State) (w : Parked) : Bool :=
  s.mmu.faults.any (fun f => f.parked.contains w) || s.parts.toList.any (fun x => x.overflow.any (fun o => decide (o.work = w)))

end Sys2Proof.Machine
end

