-- ==== Sys2Proof/Machine/Operands.lean ====
section
/-!
DEFINITION. Sys2Proof/Machine/Operands.lean: the fields of a 64 B command and its check at admission (R53 step 1, R57 to R73).
-/

namespace Sys2Proof.Machine

/-- `n` bytes of a 64 B record from byte `b`, as a number. -/
def rb (raw : Slot64) (b n : Nat) : Nat := nfld raw.toNat (8 * b) (8 * n)

/-! ## The header (R57) -/

def opOf (raw : Slot64) : Nat := rb raw 0 1
def cplBit (raw : Slot64) : Bool := bit raw 8
def orderedBit (raw : Slot64) : Bool := bit raw 9
def irqBit (raw : Slot64) : Bool := bit raw 11
def ovfField (raw : Slot64) : BitVec 2 := fld raw 12 2
def flowField (raw : Slot64) : Nat := rb raw 2 2
def tagField (raw : Slot64) : W32 := fld raw 32 32

/-! ## Status codes (R76) -/

def stOk : W16 := 0
def stNopZero : W16 := 1
def stItem : W16 := 2
def stBadOpcode : W16 := 0x10
def stBadField : W16 := 0x11
def stAbsent : W16 := 0x12
def stNotBound : W16 := 0x13
def stFlowBusy : W16 := 0x14
def stQuota : W16 := 0x15
def stWaitTimeout : W16 := 0x20
def stDrainTimeout : W16 := 0x21
def stLinkDown : W16 := 0x22
def stSessionFail : W16 := 0x23
def stFaultAbort : W16 := 0x30
def stContained : W16 := 0x31

/-- A status of 0x0010 or above is an error (R56). -/
def isError (st : W16) : Bool := decide (0x10 ≤ st.toNat)

/-! ## Which commands there are (R58) -/

/-- The engine of a work opcode; 4 for the opcodes of any engine; none for an opcode that is not in the table. -/
def opEngine (op : Nat) : Option Nat :=
  if op = 0 then some 4
  else if op = 1 || op = 2 || op = 3 then some 0
  else if decide (0x10 ≤ op) && decide (op ≤ 0x15) then some 1
  else if op = 0x20 || op = 0x21 then some 2
  else if decide (0x30 ≤ op) && decide (op ≤ 0x33) then some 3
  else if decide (0x40 ≤ op) && decide (op ≤ 0x43) then some 4
  else if decide (0x50 ≤ op) && decide (op ≤ 0x52) then some 4
  else none

def isTrace (op : Nat) : Bool := op == 1
def isProbe (op : Nat) : Bool := op == 2 || op == 3
def isTraverse (op : Nat) : Bool := isTrace op || isProbe op
def isBuild (op : Nat) : Bool := decide (0x10 ≤ op) && decide (op ≤ 0x15)
def isSplat (op : Nat) : Bool := op == 0x20 || op == 0x21
def isMove (op : Nat) : Bool := decide (0x30 ≤ op) && decide (op ≤ 0x33)
/-- FENCE, WAIT_VALUE, SIGNAL_VALUE and HEEL (R54). -/
def isSync (op : Nat) : Bool := decide (0x40 ≤ op) && decide (op ≤ 0x43)
def isStateCmd (op : Nat) : Bool := decide (0x50 ≤ op) && decide (op ≤ 0x52)
/-- A work command: one of an engine of its own (R37). -/
def isWork (op : Nat) : Bool := isTraverse op || isBuild op || isSplat op || isMove op

/-! ## The body (R59 to R73) -/

/-- Bytes of the body that the command's table lists: byte and length. -/
def bodyFields (op : Nat) : List (Nat × Nat) :=
  if op = 1 then [(8, 8), (16, 4), (20, 1), (21, 1), (22, 2), (24, 8)]
  else if op = 2 then [(8, 8), (16, 4), (20, 2), (22, 1), (23, 1), (24, 8), (32, 2), (34, 2)]
  else if op = 3 then [(8, 8), (16, 4), (20, 2), (22, 1), (23, 1), (24, 8), (32, 2), (34, 2), (36, 2), (38, 2), (40, 1), (44, 4)]
  else if op = 0x11 then [(8, 8), (16, 4), (24, 8), (32, 8), (40, 1), (48, 8), (56, 2)]
  else if op = 0x12 then [(8, 8), (16, 4), (24, 8), (32, 8), (40, 1), (56, 2)]
  else if op = 0x15 then [(8, 8), (16, 4), (24, 8), (32, 8), (40, 1), (48, 8), (58, 4)]
  else if isBuild op then [(8, 8), (16, 4), (24, 8), (32, 8), (40, 1)]
  else if op = 0x20 then [(8, 8), (16, 4), (20, 4), (24, 8), (32, 2), (34, 2), (36, 2), (38, 2), (40, 1), (41, 1)]
  else if op = 0x21 then [(8, 8), (16, 4), (20, 4), (24, 8), (32, 2), (34, 2), (36, 2), (38, 2), (40, 1), (41, 1), (48, 8), (56, 1)]
  else if op = 0x30 then [(8, 8), (16, 8), (24, 8)]
  else if op = 0x31 then [(8, 8), (16, 4), (20, 1)]
  else if op = 0x32 then [(8, 1), (9, 1), (12, 4)]
  else if op = 0x33 then [(8, 8), (16, 4), (20, 4)]
  else if op = 0x40 then [(8, 1)]
  else if op = 0x41 then [(8, 8), (16, 8), (24, 1), (28, 4)]
  else if op = 0x42 then [(8, 8), (16, 8), (24, 1)]
  else if op = 0x43 then [(8, 1), (12, 4)]
  else if op = 0x50 then [(8, 2), (10, 1), (16, 8)]
  else if op = 0x51 then [(8, 1), (9, 1), (10, 1), (11, 1), (16, 8)]
  else if op = 0x52 then [(8, 8), (16, 4), (20, 4), (24, 1)]
  else []

/-- Reserved bits inside listed fields: byte, and the mask of the reserved bits. -/
def fieldReserved (op : Nat) (raw : Slot64) : Bool :=
  let m := fun b mask => (rb raw b 1) &&& mask != 0
  if op = 1 then m 20 0xF0 || (bit raw 160 && m 21 0xF0)
  else if isProbe op then m 22 0xE0 || (bit raw 176 && m 23 0xF0)
  else if op = 0x10 || op = 0x13 then m 40 0x80
  else if op = 0x11 || op = 0x12 || op = 0x14 then m 40 0xFE
  else if op = 0x15 then m 40 0xFF
  else if isSplat op then m 40 0xFC
  else if op = 0x32 then rb raw 12 4 / 2 ^ 20 != 0
  else if op = 0x52 then m 24 0xFC
  else false

/-- A byte of the body lies in no listed field and is not zero, or a reserved bit of the header or of a field is set (R4, R57, R59). -/
def reservedSet (raw : Slot64) : Bool :=
  let op := opOf raw
  bit raw 10 || bit raw 14 || bit raw 15
  || (List.range 64).any (fun b => decide (8 ≤ b) && rb raw b 1 != 0 && !(bodyFields op).any (fun f => decide (f.1 ≤ b) && decide (b < f.1 + f.2)))
  || fieldReserved op raw

/-- An address field that the command uses: byte and alignment (R60 to R73; R144, R150 for BUILD_INSERT). -/
def addrFields (op : Nat) (raw : Slot64) : List (Nat × Nat) :=
  if op = 1 then (if bit raw 160 then [] else [(8, 64)]) ++ (if bit raw 161 then [] else [(24, 32)])
  else if isProbe op then (if bit raw 176 then [] else [(8, 64)]) ++ (if bit raw 177 then [] else [(24, 64)])
  else if op = 0x11 || op = 0x15 then [(8, 64), (24, 64), (32, 4096), (48, 64)]
  else if isBuild op then [(8, 64), (24, 64), (32, 4096)]
  else if op = 0x20 then [(8, 64), (24, 64)]
  else if op = 0x21 then [(8, 64), (24, 64), (48, 8)]
  else if op = 0x30 then [(8, 1), (16, 1)]
  else if op = 0x31 then [(8, 65536)]
  else if op = 0x33 then [(8, 64)]
  else if op = 0x41 || op = 0x42 then [(8, 8)]
  else if op = 0x50 then [(16, 64)]
  else if op = 0x51 then [(16, 4096)]
  else []

/-- Fields with a maximum: byte, length, maximum (R59 to R73). -/
def fieldMaxima (op : Nat) : List (Nat × Nat × Nat) :=
  if op = 1 then [(16, 4, 16777216)]
  else if op = 2 then [(16, 4, 1048576), (20, 2, 256), (34, 2, 1023)]
  else if op = 3 then [(16, 4, 1048576), (20, 2, 256), (34, 2, 1023), (36, 2, 1023), (38, 2, 256), (40, 1, 2)]
  else if op = 0x10 || op = 0x13 then [(16, 4, 268435456)]
  else if op = 0x11 || op = 0x12 then [(16, 4, 16777216), (56, 2, 256)]
  else if op = 0x14 then [(16, 4, 536870912)]
  else if op = 0x15 then [(16, 4, 536870912), (58, 4, 65536)]
  else if op = 0x20 then [(16, 4, 268435456), (32, 2, 1023), (34, 2, 1023), (36, 2, 1024), (38, 2, 1024)]
  else if op = 0x21 then [(16, 4, 268435456), (32, 2, 1023), (34, 2, 1023), (36, 2, 1024), (38, 2, 1024), (56, 1, 1)]
  else if op = 0x30 then [(24, 8, 68719476736)]
  else if op = 0x31 then [(16, 4, 16777216), (20, 1, 1)]
  else if op = 0x32 then [(8, 1, 23), (9, 1, 1)]
  else if op = 0x33 then [(16, 4, 65536)]
  else if op = 0x40 then [(8, 1, 1)]
  else if op = 0x41 || op = 0x42 then [(24, 1, 2)]
  else if op = 0x43 then [(8, 1, 2)]
  else if op = 0x50 then [(8, 2, 1023), (10, 1, 4)]
  else if op = 0x51 then [(9, 1, 5), (10, 1, 3), (11, 1, 4)]
  else []

/-- Count and length fields whose zero gives NOP_ZERO (R59): byte and length. -/
def zeroFields (op : Nat) : List (Nat × Nat) :=
  if op = 3 then [(16, 4), (38, 2)]
  else if op = 0x11 || op = 0x12 then [(16, 4), (56, 2)]
  else if op = 0x15 then [(16, 4), (58, 4)]
  else if op = 0x30 then [(24, 8)]
  else if isWork op && op != 0x32 then [(16, 4)]
  else []

/-- Rules on single fields beyond alignment and maxima, which a command breaks (R61, R62, R64, R66, R73, R80, R145, R148, R315). -/
def ruleBroken (s : State) (p : PartId) (raw : Slot64) : Bool :=
  let op := opOf raw
  let owns := fun o => decide (s.portOwner (BitVec.ofNat 4 o).toFin = some p)
  let flow := flowField raw
  if isTraverse op then
    let fb := if op = 1 then 160 else 176
    let srcPort := if op = 1 then rb raw 21 1 else rb raw 23 1
    let dest := if op = 1 then rb raw 22 2 else rb raw 32 2
    let useFlow := !(op == 1 && bit raw 162)
    (op == 1 && orderedBit raw && bit raw 162)
    || (bit raw fb && !owns (srcPort % 16))
    || (bit raw (fb + 1) && !owns (dest / 4096))
    || (orderedBit raw && flow == 0)
    || (useFlow && !s.flowIn p flow)
    || (isProbe op && (rb raw 20 2 == 0 || fldN raw 179 2 == 3))
    || (op == 3 && (nfld (rb raw 44 4) 23 8 == 255 || (nfld (rb raw 44 4) 31 1 == 1 && nfld (rb raw 44 4) 0 31 != 0)))
  else if op = 0x10 || op = 0x13 then decide (3 < rb raw 40 1 % 8)
  else if op = 0x11 || op = 0x12 then rb raw 56 2 % 32 != 0
  else if isSplat op then
    decide (1024 < rb raw 32 2 + rb raw 36 2) || decide (1024 < rb raw 34 2 + rb raw 38 2)
    || (op == 0x21 && rb raw 40 1 != 0)
    || (rb raw 16 4 != 0 && decide (2 ^ 32 ≤ rb raw 20 4 + rb raw 16 4 - 1))
  else if op = 0x33 then decide (rb raw 20 4 ≤ s.fwd.epoch.get.toNat)
  else if op = 0x51 then rb raw 11 1 == 3
  else false

/-- A SPLAT command with a zero tile rectangle, which takes precedence over a zero PRIM_COUNT (R59, R315). -/
def zeroRect (raw : Slot64) : Bool := isSplat (opOf raw) && (rb raw 36 2 == 0 || rb raw 38 2 == 0)

/-- An ordered flow's holding queue is another (R81). -/
def State.flowBusy (s : State) (p : PartId) (q : QueueId) (flow : Nat) : Bool :=
  s.ret.flows.any (fun f => decide (f.part = p) && decide (f.flow.toNat = flow) && decide (f.q ≠ q))

/-- The check of a command at admission (R53 step 1): the status it ends with at once, or OK where it goes on. -/
def checkCmd (s : State) (p : PartId) (q : QueueId) (raw : Slot64) : W16 :=
  let op := opOf raw
  if engineOf q = 2 && !s.hasSplat then stAbsent
  else if opEngine op ≠ some 4 && opEngine op ≠ some (engineOf q) then stBadOpcode
  else if reservedSet raw || ovfField raw == 3 || (!isTraverse op && (flowField raw != 0 || orderedBit raw)) then stBadField
  else if (addrFields op raw).any (fun f => decide (2 ^ 57 ≤ rb raw f.1 8) || rb raw f.1 8 % f.2 != 0) then stBadField
  else if (fieldMaxima op).any (fun f => decide (f.2.2 < rb raw f.1 f.2.1)) then stBadField
  else if ruleBroken s p raw then stBadField
  else if op = 0x52 && bit raw 192 && !s.hasReproj then stAbsent
  else if zeroRect raw then stOk
  else if (zeroFields op).any (fun f => rb raw f.1 f.2 == 0) then stNopZero
  else if isTraverse op && s.kQuota p == 0 then stQuota
  else if isProbe op && s.strQuota p == 0 then stQuota
  else if (op = 0x32 || op = 0x33) && decide (p ≠ s.hostPart) then stQuota
  else if orderedBit raw && s.flowBusy p q (flowField raw) then stFlowBusy
  else stOk

/-- Items of a command (R78). -/
def itemsTotal (raw : Slot64) : Nat :=
  let op := opOf raw
  if isTraverse op || isBuild op || op = 0x31 || op = 0x33 then rb raw 16 4
  else if isSplat op then rb raw 36 2 * rb raw 38 2
  else if op = 0x30 then rb raw 24 8
  else 1

/-- Items in register units (R78): 32 items for BUILD, 4,096 B for COPY, 1 otherwise. -/
def regUnit (op : Nat) : Nat := if isBuild op then 32 else if op = 0x30 then 4096 else 1

/-- The FP_OVF mode of a command (R252): the header's, or the engine default of RK_FP_CTL at admission. -/
def resolveOvf (s : State) (p : PartId) (q : QueueId) (raw : Slot64) : BitVec 2 :=
  if ovfField raw = 1 || ovfField raw = 2 then ovfField raw
  else if engineOf q = 2 then (s.part p).ovfSplat.force else (s.part p).ovfTraverse.force

end Sys2Proof.Machine
end

