-- ==== Sys2Proof/Machine/Work.lean ====
section
/-!
DEFINITION. Sys2Proof/Machine/Work.lean: the life of a command that several rows share (holds, items done, ends), clamp entries,
the empty state and the batch, epoch and frame boundaries.
-/

namespace Sys2Proof.Machine

/-! ## Commands under way -/

/-- The command waits to begin, runs or has ended: FENCE, WAIT_VALUE, SIGNAL_VALUE, HEEL and the state commands hold every later
command of their queue until they are complete (R54). -/
def holdsLater (c : Cmd) : Bool :=
  c.parked && c.phase != .running || isSync (opOf c.raw) || (isStateCmd (opOf c.raw) && c.phase != .finished)

/-- A HEEL that is draining and not complete, with its scope (R71, R411). -/
def isHeel (c : Cmd) : Bool := opOf c.raw == 0x43 && c.phase != .finished

/-- A queue lies in the scope of a HEEL of queue `h` (R411): 0 the queue, 1 the engine's queues of the partition, 2 the partition. -/
def State.inScope (s : State) (h : QueueId) (scope : Nat) (q : QueueId) : Bool :=
  if scope = 0 then decide (q = h)
  else if scope = 1 then decide (engineOf q = engineOf h) && decide (s.queueOwner q = s.queueOwner h) && (s.queueOwner q).isSome
  else decide (s.queueOwner q = s.queueOwner h) && (s.queueOwner q).isSome

/-- Admission of a queue is stopped by a HEEL of its scope or by a block drain (R411 step 1, R416). -/
def State.drainHolds (s : State) (q : QueueId) : Bool :=
  s.arr.blkDraining || allQueues.any (fun h => (s.queue h).cmds.any (fun c => isHeel c && c.hold && s.inScope h (rb c.raw 8 1) q))

/-- SRC of a TRAVERSE command: its records come from the vector network (R60, R62). -/
def srcBit (raw : Slot64) : Bool := bit raw (if isTrace (opOf raw) then 160 else 176)

/-- SRC_PORT of a TRAVERSE command. -/
def srcPort (raw : Slot64) : PortId := (BitVec.ofNat 4 (rb raw (if isTrace (opOf raw) then 21 else 23) 1)).toFin

/-- A command takes in records. -/
def takesIn (c : Cmd) : Bool := c.phase == .running && isTraverse (opOf c.raw) && decide (c.next < c.last)

/-- The intake of a command is held for slots, and that of a probe command for any condition of R199 (R91, R201). -/
def slotHeld (c : Cmd) : Bool := takesIn c && decide ((if isTrace (opOf c.raw) then c.held &&& 0xF else c.held) ≠ 0)

/-- A queue whose running command waits for room for records from memory (R91, R201), which fetch arbitration skips. -/
def State.intakeHeld (s : State) (q : QueueId) : Bool := (s.queue q).cmds.any (fun c => slotHeld c && !srcBit c.raw)

/-- Some command of the partition is held for the reason of bit `i` (R119, R234). -/
def State.anyHeld (s : State) (p : PartId) (i : Nat) : Bool :=
  (s.queuesOf p).any (fun q => (s.queue q).cmds.any (fun c => takesIn c && bit c.held i))

/-- A held command takes its records from a fabric port (R91). -/
def State.vectorHeld (s : State) (p : PartId) (o : PortId) : Bool :=
  (s.queuesOf p).any (fun q => (s.queue q).cmds.any (fun c => takesIn c && decide (c.held ≠ 0) && srcBit c.raw && decide (srcPort c.raw = o)))

/-! ## Credit granted to the senders of the fabric ports (R10, R12) -/

/-- A port that the bit-stream connects and a partition owns; any other is idle (R12). -/
def State.portLive (s : State) (port : PortId) : Bool := bit s.pins.portMap port.val && (s.portOwner port).isSome

/-- Rampor grants credit on a network of a port: never on an idle port, before READY, in ERROR, PARTITION_ERROR or a partition reset (R12,
R457, R502, R513, R519), and on the vector network not while a command that takes its records there is held (R91). -/
def State.portGrants (s : State) (o : PortId) (n : Net) : Bool :=
  bit s.pins.portMap o.val && (match s.portOwner o with
    | some p => s.works p && !(decide (n = .vector) && s.vectorHeld p o)
    | none => false)

/-- Words sent since credit was last granted. -/
def State.spentOn (s : State) (o : PortId) (n : Net) : Nat :=
  (s.ret.spent.findSome? (fun e => if e.1 = (o, n) then some e.2 else none)).getD 0

/-- The sender holds credit for `k` words on a live port: what it was granted, given back word for word while Rampor grants; where Rampor no longer
grants, what is left of an earlier grant. -/
def State.hasCredit (s : State) (o : PortId) (n : Net) (k : Nat) : Bool :=
  decide (0 < s.pins.portWords) && s.portLive o
    && (s.portGrants o n || (decide ((o, n) ∈ s.ret.granted) && decide (s.spentOn o n + k ≤ s.pins.portWords)))

/-- Credit goes out on every network where Rampor grants and has not yet. -/
def State.grantPorts (s : State) : State :=
  let all := (List.finRange 16).flatMap (fun (o : PortId) => [Net.scalar, Net.vector, Net.control].map (fun n => (o, n)))
  { s with ret := { s.ret with granted := all.filter (fun e => decide (e ∈ s.ret.granted) || s.portGrants e.1 e.2) } }

/-- `k` words have come in on a network of a port against their sender's credit; it is given back where Rampor grants. -/
def State.useCredit (s : State) (o : PortId) (n : Net) (k : Nat) : State :=
  let l := s.ret.spent.filter (fun e => decide (e.1 ≠ (o, n)))
  { s with ret := { s.ret with spent := if s.portGrants o n then l else ((o, n), s.spentOn o n + k) :: l } }.grantPorts

/-- The queue fetches and admits nothing for now (R47, R52, R54, R56, R91, R332, R411, R450, R457, R519). -/
def State.qHeld (s : State) (q : QueueId) : Bool :=
  let x := s.queue q
  let p := s.qPart q
  !x.enabled || !x.enable || x.errStop || x.parked || x.enParked || x.cplParked || (s.queueOwner q).isNone || (s.part p).partError || (s.part p).resetting
    || x.cmds.any holdsLater || s.drainHolds q || s.intakeHeld q
    || s.vis.parkWait.any (fun w => decide (w.cmd.q = q))

/-- No completion record can be reserved (R53, R49 CPL_FULL). -/
def cplFull (x : Queue) : Bool :=
  let used := (x.cplWrite + 2 * x.cplEntries - x.cplHead.toNat % (2 * max 1 x.cplEntries)) % (2 * max 1 x.cplEntries)
  decide (x.cplEntries ≤ used + x.cmds.length)

/-- The oldest command of a queue that is admitted and has not begun; commands of one queue begin in queue order (R54). -/
def State.toBegin (s : State) (q : QueueId) : Option Cmd := (s.queue q).cmds.find? (fun c => c.phase == .admitted)

/-- The command that a row of opcode `op` begins, while its partition issues work (R457, R519). -/
def State.beginning (s : State) (q : QueueId) (op : Nat) : Option Cmd :=
  match s.toBegin q with
  | some c =>
    if s.works (s.qPart q) && opOf c.raw == op && !c.parked && (s.queueOwner q).isSome then some c else none
  | none => none

/-- The final status of a command that has done its work (R76, R109): its error, else ITEM_STATUS where an item is not OK. -/
def finalStatus (c : Cmd) : W16 := if isError c.status then c.status else if c.itemBad then stItem else stOk

/-- A command that counts as one item, which is done when the command completes (R78). -/
def oneItem (op : Nat) : Bool := isSync op || isStateCmd op || op == 0x32

/-- A command ends with a status; its completion record follows in queue order (R55). -/
def State.finish (s : State) (r : CmdRef) (st : W16) : State :=
  s.updCmd r (fun c => { c with phase := .finished, status := st, done := if oneItem (opOf c.raw) then c.total else c.done })

/-- A command ends with its work all done. -/
def State.finishOk (s : State) (r : CmdRef) : State :=
  s.updCmd r (fun c => { c with phase := .finished, done := c.total, status := finalStatus c })

/-- `n` items of a command are done, one of them not OK where `bad`; the command ends with its last item (R78, R109). -/
def State.itemsDone (s : State) (r : CmdRef) (n : Nat) (bad : Bool) : State :=
  s.updCmd r (fun c =>
    let c := { c with done := c.done + n, itemBad := c.itemBad || bad }
    if c.phase == .running && decide (c.last ≤ c.done) then { c with phase := .finished, status := finalStatus c } else c)

/-- A command takes in no more items, and ends with `st` once those it took are done (R76, R113, R450). -/
def State.cutIntake (s : State) (r : CmdRef) (st : W16) : State :=
  s.updCmd r (fun c =>
    let c := { c with last := c.next, status := if isError c.status then c.status else st }
    if c.phase == .running && decide (c.last ≤ c.done) then { c with phase := .finished, status := finalStatus c } else c)

/-- A command's work fails with an error status that its end will carry. -/
def State.failCmd (s : State) (r : CmdRef) (st : W16) : State :=
  s.updCmd r (fun c => { c with status := if isError c.status then c.status else st })

/-- Commands of a queue that are admitted and not complete, beside entry-level records. -/
def liveCmds (x : Queue) : List Cmd := x.cmds.filter (fun c => c.phase != .finished || decide (c.writes ≠ 0))

/-! ## Clamp entries (R475, R476) -/

/-- Entries of the report area: 2^(SIZE + 8). -/
def State.rptCap (s : State) : Nat := 2 ^ (s.cfg.rptSize.toNat + 8)

/-- One clamp entry (R475): counted, and written to the report area while it has room (R476). -/
def State.clampEntry (s : State) (field kind source part given applied : Nat) : State :=
  let s1 := { s with cfg := { s.cfg with clamps := satInc s.cfg.clamps } }
  if s.cfg.rptAddr = 0 then s1
  else if s.rptCap ≤ s.cfg.writePos then { s1 with cfg := { s1.cfg with overrun := true } }
  else
    let bytes := leBytes 16 (packN [(32, field), (8, kind), (8, source), (8, part), (8, 0), (32, given), (32, applied)])
    let s2 := s1.poke (4096 * s.cfg.rptAddr.toNat + 16 * s.cfg.writePos) bytes
    { s2 with cfg := { s2.cfg with writePos := s.cfg.writePos + 1 } }

/-- FIELD_ID of a register field (R475): offset in the aperture, lowest bit. -/
def regField (off lo : Nat) : Nat := off % 2 ^ 20 + 2 ^ 20 * lo

/-- Offset of a register of a partition's page (R488). -/
def pageOff (p : PartId) (off : Nat) : Nat := 0xF0000 + 0x1000 * p.val + off

/-! ## What drains wait for (R411 step 3, R413) -/

/-- A command reference lies in the scope. -/
def refIn (f : QueueId → Bool) (r : Option CmdRef) : Bool := match r with | some c => f c.q | none => false

/-- The command a Herder item stems from. -/
def State.itemCmd (s : State) (i : HItem) : Option CmdRef :=
  match i with
  | .ray n => (s.ray? n).bind (·.cmd)
  | .op o => (s.bundle? o.bundle).bind (·.cmd)
  | .group b k => (s.groupBy? b k).bind (·.cmd)

/-! ## Pinned caddies (R419) -/

/-- Tokens of a caddy (R419): admitted incomplete commands and held foreign queries that carry its tag. -/
def State.tokens (s : State) (c : BitVec 2) : Nat :=
  (s.queues.toList.map (fun q => (q.cmds.filter (fun d => decide (d.caddy = c))).length)).sum
    + (s.fwd.foreign.filter (fun f => match s.ray? f.slot with
        | some r => decide (r.caddy = c)
        | none => match s.bundle? f.slot with | some b => decide (b.caddy = c) | none => false)).length

/-- A caddy is pinned while it is selected or has tokens (R419). -/
def State.pinned (s : State) (c : BitVec 2) : Bool := decide (s.sel = c) || decide (0 < s.tokens c)

/-- The caddies pinned in `s` and no longer in `t` are traced as unpinned (R408). -/
def State.traceUnpin (s t : State) : State :=
  (List.range 4).foldl (fun (u : State) c => u.doIf (s.pinned (BitVec.ofNat 2 c) && !t.pinned (BitVec.ofNat 2 c)) (·.record (TraceRec.of 0x0B 0 0 c))) t

/-! ## Scopes of a drain (R411) -/

/-- The queue of parked work, none for foreign queries and calls. -/
def State.parkedQueue (s : State) (w : Parked) : Option QueueId :=
  match w with
  | .enable q => some q
  | .ring q => some q
  | .command q _ => some q
  | .intake q _ => some q
  | .ray i => (s.ray? i).bind (fun r => r.cmd.map (·.q))
  | .bundleOp b _ => (s.bundle? b).bind (fun x => x.cmd.map (·.q))
  | .result e => (s.ret.entries.find? (fun x => x.id == e)).map (·.cmd.q)
  | .bundleResult b => (s.bundle? b).bind (fun x => x.cmd.map (·.q))
  | .completion q => some q
  | .group c g => (s.group? ⟨c, g⟩).bind (fun x => x.cmd.map (·.q))
  | .savedGroup b j => (s.setter.saved.find? (fun e => e.2.block == b && e.2.inBlock == j)).bind (fun e => e.2.cmd.map (·.q))
  | .remoteRay i => (s.ray? i).bind (fun r => r.cmd.map (·.q))
  | .remoteBundle b _ => (s.bundle? b).bind (fun x => x.cmd.map (·.q))
  | .forward i => match s.ray? i with | some r => r.cmd.map (·.q) | none => (s.bundle? i).bind (fun x => x.cmd.map (·.q))
  | .reload => none
  | .trapNote _ b j => (s.groupBy? b j).bind (fun x => x.cmd.map (·.q))

/-- Every group of a partition, resident, waiting or saved. -/
def State.groupsAll (s : State) : List Group :=
  s.setter.cores.toList.flatMap (fun c => c.groups.toList.filterMap id ++ c.queue.flatMap (·.groups)) ++ s.setter.saved.map (·.2)

/-- The HEEL of a queue that drains. -/
def State.heelOf (s : State) (q : QueueId) : Option Cmd :=
  (s.queue q).cmds.find? (fun c => opOf c.raw == 0x43 && c.phase == .running)

/-- Parked work belongs to a scope: by its queue, or to the whole partition (R411). -/
def State.parkedIn (s : State) (f : QueueId → Bool) (whole : Bool) (w : Parked) : Bool :=
  whole || (match s.parkedQueue w with | some q => f q | none => false)

/-- An open fault is of the scope when any work parked on it is; with QUEUE NONE of scope 2 only (R411). -/
def State.faultIn (s : State) (p : PartId) (f : QueueId → Bool) (whole : Bool) (x : OpenFault) : Bool :=
  decide (x.part = p) && (whole || (x.ctx.queue.isSome && x.parked.any (s.parkedIn f false)))

/-- The scope is empty: no Kennel slot, matching-store entry, operation, heap or walk block, group, waiting call, Retriever entry, Leash, pass,
parked fault or unacknowledged write, and every work command admitted earlier has run (R411 steps 2 and 3). -/
def State.scopeEmpty (s : State) (p : PartId) (f : QueueId → Bool) (whole : Bool) : Bool :=
  let inS := fun (r : Option CmdRef) => whole || refIn f r
  !(s.kennel.slots.any (fun e => !e.2.foreign && decide (e.2.part = p) &&
      (match e.2.data with | .ray r => inS r.cmd | _ => whole)))
  && !(s.strain.bundles.any (fun b => decide (b.part = p) && b.foreign.isNone && inS b.cmd))
  && !(s.herd.store.any (fun e => decide (e.part = p) && (whole || e.items.any (fun w => refIn f (s.itemCmd w.item)))))
  && !(s.groupsAll.any (fun g => decide (g.part = p) && inS g.cmd))
  && !(s.ret.entries.any (fun e => decide (e.part = p) && (whole || f e.cmd.q)))
  && !(s.vis.passes.any (fun v => decide (v.part = p) && (whole || f v.cmd.q)))
  && !(s.mmu.faults.any (s.faultIn p f whole))
  && !((s.part p).overflow.any (fun o => s.parkedIn f whole o.work))
  && !((s.queuesOf p).any (fun q => (whole || f q) && (s.queue q).cmds.any (fun c =>
      (isWork (opOf c.raw) && c.phase != .finished) || decide (c.writes ≠ 0))))
  && !(whole && (s.setter.calls.any (fun c => decide (s.portOwner c.1 = some p)) || s.ret.writes.any (fun w => decide (w.part = p))))
  && (!whole || decide (p ≠ s.hostPart) || s.fwd.foreign.isEmpty)

/-- The partition has no admitted incomplete command and the empty state of R413 holds: it is at a partition batch boundary (R414). -/
def State.partIdle (s : State) (p : PartId) : Bool :=
  s.scopeEmpty p (fun _ => true) true && (s.queuesOf p).all (fun q => (s.queue q).cmds.isEmpty)

/-- Every partition is idle and no foreign query is held: a block batch boundary (R414). -/
def State.blockIdle (s : State) : Bool := allParts.all s.partIdle && s.fwd.foreign.isEmpty

/-- Q_END credit is withheld: a scope-2 HEEL of the host partition, or a block drain, is under way (R411, R416). -/
def State.creditHeld (s : State) : Bool :=
  s.arr.blkDraining || (s.queuesOf s.hostPart).any (fun q => match s.heelOf q with | some c => rb c.raw 8 1 == 2 | none => false)

/-! ## Boundaries (R414, R480 to R482) -/

/-- Force what the shadow holds. -/
def Sh.apply {α : Type} (x : Sh α) : Sh α := ⟨x.shadow, x.shadow⟩

/-- A shadow is pending. -/
def Sh.pend {α : Type} [DecidableEq α] (x : Sh α) : Bool := decide (x.shadow ≠ x.force)

/-- An engine batch boundary applies the engine's default overflow mode (R414). -/
def State.applyEngine (s : State) (p : PartId) (e : Nat) : State :=
  if (s.part p).hold then s
  else if e = 0 then s.updPart p (fun x => { x with ovfTraverse := x.ovfTraverse.apply })
  else if e = 2 then s.updPart p (fun x => { x with ovfSplat := x.ovfSplat.apply })
  else s

/-- The largest SIZE at most `n` whose ring does not cross a 2^52 boundary (R482). -/
def fqSizeFit (base : Nat) : Nat → Nat
  | 0 => 0
  | n + 1 => if (base % 2 ^ 52) + 64 * 2 ^ (n + 1 + 6) ≤ 2 ^ 52 then n + 1 else fqSizeFit base n

/-- A field of a pair at a boundary (R480, R482): its shadow where it has been written since a boundary last applied it, else the value in
force, which a PAIR change may have set apart from the shadow. -/
def Sh.due {α : Type} (x : Sh α) (new : Bool) : α := if new then x.shadow else x.force

/-- The FLOW_BUDGET, the CONSULT and the SIZE about to apply at a partition's boundary. -/
def Part.dueFlow (x : Part) : BitVec 13 := x.flowBudget.due x.flowNew
def Part.dueConsult (x : Part) : Bool := x.consult.due x.consultNew
def Part.dueSize (x : Part) : BitVec 4 := x.fqSize.due x.sizeNew

/-- FLOW_BUDGET under its agreement rule: at most max(1, RET_QUOTA) of an enabled partition (R482). -/
def State.pairFlow (s : State) (p : PartId) (v : BitVec 13) : BitVec 13 :=
  if s.partEn p && decide (max 1 (s.retQuota p) < v.toNat) then BitVec.ofNat 13 (max 1 (s.retQuota p)) else v

/-- A partition batch boundary: every shadowed field of the page but the VIS frame's applies, under the agreement rules (R414, R480,
R482), each pair that disagrees with its PAIR entry. The fault queue's write position returns to 0 when RK_FQ_BASE applies (R461). -/
def State.applyPart (s : State) (p : PartId) : State :=
  if (s.part p).hold then s
  else
    let x := s.part p
    let fb := s.pairFlow p x.dueFlow
    let co := x.dueConsult && decide (x.mapAddr.shadow ≠ 0)
    let sz := BitVec.ofNat 4 (fqSizeFit (4096 * x.fqBase.shadow.toNat) x.dueSize.toNat)
    let fqNew := decide (x.fqBase.shadow ≠ x.fqBase.force) || decide (sz ≠ x.fqSize.force)
    let y := { x with
      delivWait := x.delivWait.apply, flowBudget := ⟨x.flowBudget.shadow, fb⟩, flowNew := false, waveMax := x.waveMax.apply,
      ovfSplat := x.ovfSplat.apply, ovfTraverse := x.ovfTraverse.apply, spinLimit := x.spinLimit.apply, saveBase := x.saveBase.apply,
      consult := ⟨x.consult.shadow, co⟩, consultNew := false, winBase := x.winBase.apply, mapAddr := x.mapAddr.apply,
      reissueMax := x.reissueMax.apply, extendMax := x.extendMax.apply, leaseUs := x.leaseUs.apply,
      mmuEnable := x.mmuEnable.apply, mmuRoot := x.mmuRoot.apply, fqBase := x.fqBase.apply, fqSize := ⟨x.fqSize.shadow, sz⟩, sizeNew := false,
      fqWrite := if fqNew then 0 else x.fqWrite }
    let s1 := s.setPart p y
    let s2 := s1.doIf (decide (fb ≠ x.dueFlow)) (·.clampEntry (regField (pageOff p 0x18) 0) 4 2 p.val x.dueFlow.toNat fb.toNat)
    let s3 := s2.doIf (x.dueConsult && !co) (·.clampEntry (regField (pageOff p 0x118) 63) 4 2 p.val 1 0)
    s3.doIf (decide (sz ≠ x.dueSize)) (·.clampEntry (regField (pageOff p 0x210) 0) 4 2 p.val x.dueSize.toNat sz.toNat)

/-- A VIS frame boundary applies RK_VIS_CTL (R352). -/
def State.applyFrame (s : State) (p : PartId) : State :=
  if (s.part p).hold then s else s.updPart p (fun x => { x with parkMax := x.parkMax.apply })

/-- A block batch boundary applies RK_HERD_CTL, RK_PWR_CTL.MODE, RK_SCHED_CTL and RK_ARR_CTL.DIST_MODE (R414). -/
def State.applyBlock (s : State) : State :=
  if s.csr.hold then s
  else { s with
    herd := { s.herd with idleIssue := s.herd.idleIssue.apply, packMax := s.herd.packMax.apply, packWait := s.herd.packWait.apply }
    pwr := { s.pwr with mode := s.pwr.mode.apply }
    arr := { s.arr with dist := s.arr.dist.apply, imbSet := s.arr.imbSet.apply, imbTu := s.arr.imbTu.apply } }

/-- The lowest enabled partition, partition 0 where none is (R467, R482). -/
def State.lowestEn (s : State) : PartId := (allParts.find? s.partEn).getD 0

/-- An epoch boundary applies RK_FWD_CTL, its HOST_PART under the agreement rule (R364, R388, R482). -/
def State.applyEpoch (s : State) : State :=
  if s.csr.hold then s
  else
    let h := s.fwd.hostPart.due s.fwd.hostNew
    let ok := s.partEn h.toFin || allParts.all (fun p => !s.partEn p)
    let hp : BitVec 4 := if ok then h else BitVec.ofNat 4 s.lowestEn.val
    let s1 := { s with fwd := { s.fwd with routeBase := s.fwd.routeBase.apply, hostPart := ⟨s.fwd.hostPart.shadow, hp⟩, hostNew := false,
                                           ringTimeout := s.fwd.ringTimeout.apply, ringRetry := s.fwd.ringRetry.apply } }
    s1.doIf (!ok) (·.clampEntry (regField 0x300 16) 4 2 0 h.toNat hp.toNat)

/-- HOST_PART is checked again when a partition's EN changes (R467). -/
def State.recheckHost (s : State) : State :=
  let h := s.fwd.hostPart.force
  if s.partEn h.toFin || allParts.all (fun p => !s.partEn p) then s
  else
    let hp : BitVec 4 := BitVec.ofNat 4 s.lowestEn.val
    ({ s with fwd := { s.fwd with hostPart := ⟨s.fwd.hostPart.shadow, hp⟩ } }).clampEntry (regField 0x300 16) 4 2 0 h.toNat hp.toNat

/-- Every shadow of every scope applies (R474 at the start-up load, R501 step 8). A start-up load is not held (R481). -/
def State.applyAll (s : State) : State :=
  let held : Vector Bool 16 := s.parts.map (fun (x : Part) => x.hold)
  let h := s.csr.hold
  let s := { s with csr := { s.csr with hold := false }, parts := s.parts.map (fun (x : Part) => { x with hold := false }) }
  let s := allParts.foldl (fun s p => (s.applyPart p).applyFrame p) s
  let s := s.applyBlock.applyEpoch
  { s with csr := { s.csr with hold := h }, parts := s.parts.zipWith (fun (x : Part) b => { x with hold := b }) held }

/-- The partition's lines in the L0 of every TU and in the L1 of its cores become invalid at its boundary (R411 step 4, R413). -/
def State.cachesClean (s : State) (p : PartId) : State :=
  { s with
    setter := { s.setter with cores := s.setter.cores.map (fun c => { c with l1 := c.l1.filter (fun e => decide (e.1 ≠ p)) }) }
    arr := { s.arr with tus := s.arr.tus.map (fun (t : Tu) => { t with l0 := t.l0.filter (fun e => decide (e.1 ≠ p)) }) } }

/-! ## The start-up sequence around a load (R501 to R505) -/

/-- The sequence stalls, or its step goes on, at a code; a new STALL code raises vector 8 under BOOT_IRQ (R504, R506). -/
def State.stall (s : State) (code : BitVec 4) (detail : W32) : State :=
  let new := decide (code ≠ 0) && decide (code ≠ s.boot.stall)
  ({ s with boot := { s.boot with stall := code, detail := detail } }).doIf (new && s.boot.bootIrq) (·.irqBlock 8)

/-- BP of the step (R504). -/
def State.setBp (s : State) (n : BitVec 14) : State := { s with boot := { s.boot with bp := n } }

/-- BP of a step that stalled at a point which R505 does not count: at most 10,000. -/
def bpOpen (step : Nat) (detail : W32) : BitVec 14 := BitVec.ofNat 14 (min 10000 (Config.stallDone step detail.toNat))

/-- The sequence is at a step, which has begun. -/
def State.bootStep (s : State) (n : BitVec 4) : State := { s with boot := { s.boot with step := n, bp := 0, detail := 0, stall := 0 } }

end Sys2Proof.Machine
end

