-- ==== Sys2Proof/Machine/Herd.lean ====
section
/-!
DEFINITION. Sys2Proof/Machine/Herd.lean: the Herder (R162 to R168, R214): the matching store, packs, the choice of a TU, the order of the
ready lists (R397, R398).
-/

namespace Sys2Proof.Machine

/-! ## Sorting -/

/-- Insertion by a Boolean order; equal elements keep their order. -/
def insertBy {α : Type} (le : α → α → Bool) (a : α) : List α → List α
  | [] => [a]
  | b :: r => if le a b then a :: b :: r else b :: insertBy le a r

/-- Insertion sort, stable. -/
def sortBy {α : Type} (le : α → α → Bool) : List α → List α
  | [] => []
  | a :: r => insertBy le a (sortBy le r)

/-- The first of the least by a key. -/
def leastBy {α : Type} (k : α → Nat) : List α → Option α
  | [] => none
  | a :: r => match leastBy k r with
    | none => some a
    | some b => if k b < k a then some b else some a

/-! ## What an item is (R164, R214, R397) -/

/-- Queries of a probe operation's bundle. -/
def State.itemQueries (s : State) (i : HItem) : Nat :=
  match i with
  | .ray _ => 0
  | .op o => match s.bundle? o.bundle with | some b => b.q | none => 0
  | .group _ _ => 0

/-- The order of ready operations: class with DEADLINE first, ready time, item ID (R397). -/
def State.readyKey (s : State) (w : HWait) : Nat × Nat × Nat := ((s.itemCls w.item).toNat, w.ready, (s.itemId w.item).toNat)

/-- Lexicographic comparison. -/
def keyLe (a b : Nat × Nat × Nat) : Bool :=
  decide (a.1 < b.1) || (a.1 == b.1 && (decide (a.2.1 < b.2.1) || (a.2.1 == b.2.1 && decide (a.2.2 ≤ b.2.2))))

def State.waitLe (s : State) (a b : HWait) : Bool := keyLe (s.readyKey a) (s.readyKey b)

/-! ## The ready lists (R397, R398) -/

/-- The place of a ready operation on its list: partition, class, ready time, item ID. -/
structure Turn where
  part  : PartId
  cls   : BitVec 2
  since : Nat
  id    : Nat
deriving DecidableEq, Repr

def Turn.le (a b : Turn) : Bool := keyLe (a.cls.toNat, a.since, a.id) (b.cls.toNat, b.since, b.id)

/-- DEADLINE work of a partition whose deadline is served, which the rule of R398 leaves alone. -/
def State.served (s : State) (t : Turn) : Bool := s.firing t.part && decide (t.cls = 0)

/-- Of the operations of lower classes than the first, the one that has been ready longest. -/
def lowerOf {α : Type} (k : α → Turn) (a : α) (l : List α) : Option α :=
  leastBy (fun x => (k x).since) (l.filter (fun x => decide ((k a).cls.toNat < (k x).cls.toNat)))

/-- The operation a ready list issues next: the first in its order; in every 16 issues one goes to a lower class, where one waits. -/
def State.listTurn {α : Type} (s : State) (n : BitVec 4) (k : α → Turn) (l : List α) : Option α :=
  match sortBy (fun a b => (k a).le (k b)) l with
  | [] => none
  | a :: r => if n = 15 && !s.served (k a) then some ((lowerOf k a r).getD a) else some a

/-- How far a partition stands behind the one a block-wide list served last, in round-robin order. -/
def robin (last p : PartId) : Nat := (p.val + 15 - last.val) % 16

/-- The operation a block-wide list issues next: DEADLINE work of partitions whose deadline is served, else the first class, its partitions
round-robin; in every 16 issues one goes to a lower class, where one waits. -/
def State.blockTurn {α : Type} (s : State) (n : BitVec 4) (last : PartId) (k : α → Turn) (l : List α) : Option α :=
  let first := l.filter (fun x => s.served (k x))
  let ks := sortBy (fun a b => (k a).le (k b)) (if first.isEmpty then l else first)
  match ks with
  | [] => none
  | a :: r =>
    let turn := leastBy (fun x => robin last (k x).part) ((a :: r).filter (fun x => decide ((k x).cls = (k a).cls)))
    if n = 15 && first.isEmpty then some ((lowerOf k a r).getD (turn.getD a)) else turn

/-! ## Packs (R164, R214) -/

/-- Items that may share a pack: type, class and caddy tag (partition and line are the entry's). -/
def State.sameGroup (s : State) (a b : HWait) : Bool :=
  itemOp a.item == itemOp b.item && s.itemCls a.item == s.itemCls b.item && s.itemCaddy a.item == s.itemCaddy b.item

/-- The first items of a group, at most `n` and at most `q` queries in all. -/
def State.takeItems (s : State) : Nat → Nat → List HWait → List HWait
  | 0, _, _ => []
  | _, _, [] => []
  | n + 1, q, w :: r => if s.itemQueries w.item ≤ q then w :: s.takeItems n (q - s.itemQueries w.item) r else []

/-- A pack that could be issued, and whether it takes no further item. -/
structure Ready where
  pack : Pack
  full : Bool
deriving DecidableEq, Repr

/-- The pack of each group among ordered items; `f` bounds the number of groups. -/
def State.groupPacks (s : State) (p : PartId) (line : Nat) : Nat → List HWait → List Ready
  | 0, _ => []
  | _, [] => []
  | f + 1, w :: r =>
    let g := (w :: r).filter (s.sameGroup w)
    let t := s.takeItems s.herd.packMax.force.toNat 32 g
    ⟨⟨p, line, t⟩, decide (s.herd.packMax.force.toNat ≤ t.length) || decide (t.length < g.length)⟩
      :: s.groupPacks p line f ((w :: r).filter (fun x => !s.sameGroup w x))

/-- The packs of an entry, in the order of R397. -/
def State.entryPacks (s : State) (e : MatchEntry) : List Ready :=
  if e.ready then s.groupPacks e.part e.line e.items.length (sortBy s.waitLe e.items) else []

/-- The pack a TU would take first stands ahead. -/
def State.packLe (s : State) (a b : Pack) : Bool :=
  match a.items, b.items with
  | x :: _, y :: _ => s.waitLe x y
  | _, _ => false

/-- DEADLINE operations of a partition whose deadline is served are ready (R343, R344). -/
def State.dlReady (s : State) (p : PartId) : Bool :=
  s.firing p && (s.herd.store.any (fun e => decide (e.part = p) && e.ready && e.items.any (fun w => decide (s.itemCls w.item = 0)))
    || s.herd.unmatched.any (fun w => decide (w.part = p) && decide (s.itemCls w.item = 0)))

def packOp (k : Pack) : Nat := match k.items with | w :: _ => itemOp w.item | [] => 0
def State.packCls (s : State) (k : Pack) : BitVec 2 := match k.items with | w :: _ => s.itemCls w.item | [] => 0
def State.packCaddy (s : State) (k : Pack) : BitVec 2 := match k.items with | w :: _ => s.itemCaddy w.item | [] => 0
/-- When the oldest item of a pack became ready. -/
def packSince (k : Pack) : Nat := match k.items with | [] => 0 | w :: r => r.foldl (fun a x => min a x.ready) w.ready

/-! ## Logical TUs, their places and distances (R422, R427, R433) -/

/-- The physical position that serves logical TU `n`, if one does. -/
def State.tuPlace (s : State) (n : TuId) : Option Nat :=
  let r := s.arr.rows[n.val / 16]
  let q := n.val % 16
  if r.spareUsed && decide (r.sparePos.toNat = q) then some 16
  else if bit r.active q then some q else none

/-- A logical TU is the spare's, which drains to hand the position back (R430). -/
def State.handingBack (s : State) (n : TuId) : Bool :=
  let r := s.arr.rows[n.val / 16]
  r.handBack && r.spareUsed && decide (r.sparePos.toNat = n.val % 16)

/-- State of the half a logical TU lies in: 0 AWAKE. -/
def State.halfOf (s : State) (n : TuId) : BitVec 2 := if n.val < 64 then s.arr.west else s.arr.east

/-- Distance of a logical TU from a bank group (R433); an absent TU has 0. -/
def State.distance (s : State) (n : TuId) (g : Fin 8) : Nat :=
  match s.tuPlace n with
  | none => 0
  | some pos =>
    let row := n.val / 16
    let a := if pos < 4 then 2 else if pos < 8 then 4 else if pos < 12 then 6 else 8
    let b := if (row % 4) / 2 = (g.val % 4) / 2 then 0 else 2
    let c := if row / 4 = g.val / 4 then 0 else 4
    a + b + c

/-- Packs queued at a TU. -/
def State.tuDepth (s : State) (n : TuId) : Nat := (s.arr.tus[n]).queue.length

/-- A TU that the Herder may choose for a partition under a caddy (R168, R417, R425, R427). -/
def State.tuUsable (s : State) (p : PartId) (c : BitVec 2) (n : TuId) : Bool :=
  bit (s.caddyEnt c p).tus n.val && (s.tuPlace n).isSome && decide (s.halfOf n = 0) && !s.handingBack n

/-- The imbalance threshold of a TU (R404). -/
def State.tuLimit (s : State) (d : HalfTimes) (n : TuId) : Nat :=
  let dh := if n.val < 64 then d.west else d.east
  let imb := s.arr.imbTu.force.toNat
  if dh = 0 then imb else max 1 (imb * min d.west d.east / dh)

/-! ## Choosing a TU (R168, R214, R405) -/

/-- LAST_TU of an item. -/
def State.lastTu (s : State) (i : HItem) : Option Nat :=
  match i with
  | .ray n => match s.ray? n with | some r => (if r.visit.lastTu = 0xFF then none else some r.visit.lastTu.toNat) | none => none
  | .op _ => none
  | .group _ _ => none

/-- The affinity TU: named by the most rays, the lowest among equals. -/
def State.affinity (s : State) (k : Pack) : Option TuId :=
  let v := k.items.filterMap (fun w => s.lastTu w.item)
  let votes := fun (n : TuId) => (v.filter (· == n.val)).length
  match leastBy (fun n => 32 - votes n) (List.finRange 128) with
  | some n => if 0 < votes n then some n else none
  | none => none

/-- Step 3 of R168: the TU and the reason of R408; `biased` takes the bias of R405 under SWIFT, which the unmatched list does not (R165). -/
def State.fewest (s : State) (k : Pack) (noAff : Nat) (biased : Bool) : Option (TuId × Nat) :=
  let l := (List.finRange 128).filter (fun n => s.tuUsable k.part (s.packCaddy k) n && decide (s.tuDepth n < 4))
  let g := Config.bankGroup k.part k.line
  match leastBy s.tuDepth l with
  | none => none
  | some n0 =>
    let low := s.tuDepth n0
    if biased && s.pwr.mode.force = 1 then
      (leastBy (fun n => s.distance n g) (l.filter (fun n => decide (s.tuDepth n ≤ low + 1)))).map (fun n => (n, 0x14))
    else
      let same := l.filter (fun n => decide (s.tuDepth n = low))
      if s.arr.dist.force then
        (leastBy (fun n => s.distance n g) same).map (fun n => (n, if same.length = 1 then noAff else 0x13))
      else some (n0, noAff)

/-- Every bundle of the pack lies in the TU's query buffer. -/
def State.bufferHolds (s : State) (k : Pack) (n : TuId) : Bool :=
  k.items.all (fun w => match w.item with | .op o => (s.arr.tus[n]).buffer.contains o.bundle | .ray _ => false | .group _ _ => false)

/-- The TU the Herder chooses for a pack, with the reason; none where every queue it may use is full. Where
several TUs hold every bundle of a SCORE pack, the lowest number takes it (DESIGN CHOICE, log 209). -/
def State.chooseTu (s : State) (k : Pack) (d : HalfTimes) : Option (TuId × Nat) :=
  let ok := fun n => s.tuUsable k.part (s.packCaddy k) n && decide (s.tuDepth n < s.tuLimit d n) && decide (s.tuDepth n < 4)
  if packOp k = 1 then
    match s.affinity k with
    | some n => if ok n then some (n, 0x10) else s.fewest k 0x11 true
    | none => s.fewest k 0x12 true
  else if packOp k = 3 then
    match (List.finRange 128).find? (fun n => ok n && s.bufferHolds k n) with
    | some n => some (n, 0x15)
    | none => s.fewest k 0x12 true
  else s.fewest k 0x12 true

/-! ## PACK_WAIT (R164, R29) -/

/-- PACK_WAIT as the power mode in force takes it: SWIFT 0, LEAN four times, at most 65,535 ns. -/
def State.packWaitNs (s : State) : Nat :=
  if s.pwr.mode.force = 1 then 0
  else if s.pwr.mode.force = 2 then min 65535 (4 * s.herd.packWait.force.toNat)
  else s.herd.packWait.force.toNat

/-- The entry of a line. -/
def State.entry? (s : State) (p : PartId) (line : Nat) : Option MatchEntry :=
  s.herd.store.find? (fun e => decide (e.part = p) && e.line == line)

/-- An entry changed; it leaves the store with its last item. -/
def State.setEntry (s : State) (e : MatchEntry) : State :=
  { s with herd := { s.herd with store :=
    (s.herd.store.map (fun x => if x.part = e.part && x.line == e.line then e else x)).filter (fun x => !x.items.isEmpty) } }

/-- When PACK_WAIT of an item passes; DEADLINE work has none while its partition fires (R343). -/
def State.waitDue (s : State) (w : HWait) : Nat :=
  if s.firing w.part && decide (s.itemCls w.item = 0) then w.ready else w.ready + s.packWaitNs

/-- The first of these moments among items. -/
def State.itemsDue (s : State) (l : List HWait) : Nat :=
  match l with
  | [] => 0
  | w :: r => r.foldl (fun a x => min a (s.waitDue x)) (s.waitDue w)

/-- The PACK_WAIT timer of an entry runs from its oldest ready item. -/
def State.armPack (s : State) (p : PartId) (line : Nat) : State :=
  let s1 := s.timerDel (.packWait p line)
  match s1.entry? p line with
  | some e =>
    if e.ready && !e.items.isEmpty then s1.timerAdd (.packWait p line) (s1.itemsDue e.items) else s1
  | none => s1

/-! ## Entering the Herder (R162, R163, R165) -/

/-- The NC holds a line (R163). -/
def State.inNc (s : State) (p : PartId) (line : Nat) : Bool := s.herd.nc.contains (p, line)

/-- The generations of the caddies. -/
def State.caddyGens (s : State) : Vector (BitVec 6) 4 := s.cfg.caddies.map (·.gen)

/-- A row whose spare has drained hands the position back to its own TU, which is cold; the spare is idle again (R426, R430). -/
def State.handBack (s : State) (r : Fin 8) : State :=
  let x := s.arr.rows[r]
  let n : TuId := (BitVec.ofNat 7 (16 * r.val + x.sparePos.toNat)).toFin
  if x.handBack && x.spareUsed && (s.arr.tus[n]).queue.isEmpty then
    { s with arr := { s.arr with
        rows := s.arr.rows.set r { x with
          active := setBit (setBit x.active x.sparePos.toNat true) 16 false
          spareUsed := false, sparePos := 0, handBack := false }
        tus := s.arr.tus.set n { s.arr.tus[n] with buffer := [], l0 := [], gens := s.caddyGens } } }
  else s

/-- Every row whose spare has drained hands its position back. -/
def State.handBacks (s : State) : State := (List.finRange 8).foldl State.handBack s

/-- A TU reads a line through its L0 of 512 lines, which keeps it; the line read longest ago leaves (R413, R420). -/
def State.l0Read (s : State) (tu : TuId) (p : PartId) (line : Nat) : State :=
  let t := s.arr.tus[tu]
  { s with arr := { s.arr with tus := s.arr.tus.set tu { t with l0 := ((p, line) :: t.l0.filter (fun e => decide (e ≠ (p, line)))).take 512 } } }

/-- The item is a group's scorer instruction, which waits on no line (R281, R396). -/
def HItem.isGroup (i : HItem) : Bool := match i with | .group _ _ => true | _ => false

/-- An item enters the matching store, or the unmatched list while the store is full; a scorer instruction always waits unmatched. `since` is when it became ready, for an item that
comes back with its ready time. -/
def State.enterAs (s : State) (i : HItem) (p : PartId) (line : Nat) (since : Option Nat) : State :=
  let rdy := since.getD s.pins.now
  let back := since.getD 0
  if i.isGroup then
    { s with herd := { s.herd with unmatched := s.herd.unmatched ++ [⟨i, p, line, rdy, 0⟩] } }
  else match s.entry? p line with
  | some e =>
    (s.setEntry { e with items := e.items ++ [⟨i, p, line, if e.ready then rdy else 0, if e.ready then 0 else back⟩] }).armPack p line
  | none =>
    if 32768 ≤ s.herd.store.length then
      { s with herd := { s.herd with unmatched := s.herd.unmatched ++ [⟨i, p, line, rdy, 0⟩], matchFull := true } }
    else
      let r := s.inNc p line
      let store := s.herd.store ++ [(⟨p, line, r, [⟨i, p, line, if r then rdy else 0, if r then 0 else back⟩], s.pins.now⟩ : MatchEntry)]
      let s1 := { s with herd := { s.herd with store := store, matchPeak := max s.herd.matchPeak store.length,
                                                matchFull := s.herd.matchFull || decide (32768 ≤ store.length) } }
      s1.armPack p line

/-- A ray or operation enters the Herder for a line, with the ready time it had, 0 where it had none (R448). -/
def State.enterSince (s : State) (i : HItem) (p : PartId) (line since : Nat) : State :=
  let s1 := match i with
    | .ray n => s.updRay n (fun r => { r with rstate := .active, line := line })
    | .op _ => s
    | .group _ _ => s
  s1.enterAs i p line (if since = 0 then none else some since)

/-- A ray or operation enters the Herder for a line. -/
def State.enter (s : State) (i : HItem) (p : PartId) (line : Nat) : State := s.enterSince i p line 0

/-- Items that satisfy `f` leave the store, the unmatched list and the TU queues. -/
def State.herdDrop (s : State) (f : HItem → Bool) : State :=
  let keep := fun (l : List HWait) => l.filter (fun w => !f w.item)
  let store := (s.herd.store.map (fun e => { e with items := keep e.items })).filter (fun e => !e.items.isEmpty)
  let tus := s.arr.tus.map (fun (t : Tu) => { t with queue := (t.queue.map (fun k => { k with items := keep k.items })).filter (fun k => !k.items.isEmpty) })
  let gone := s.herd.store.filter (fun e => !store.any (fun x => decide (x.part = e.part) && x.line == e.line))
  let s1 := { s with herd := { s.herd with store := store, unmatched := keep s.herd.unmatched }, arr := { s.arr with tus := tus } }
  (gone.foldl (fun s e => s.timerDel (.packWait e.part e.line)) s1).handBacks

/-- A queued pack returns to the ready lists with its ready times (R343, R428). -/
def State.unpack (s : State) (k : Pack) : State := k.items.foldl (fun s w => s.enterAs w.item w.part w.line (some w.ready)) s

/-! ## Issue (R164, R168, R397, R398) -/

/-- Another pack stands ahead of `k` for the TU `n`. -/
def State.aheadFor (s : State) (d : HalfTimes) (n : TuId) (k : Pack) : Bool :=
  s.herd.store.any (fun e => (s.entryPacks e).any (fun r => decide (r.pack ≠ k) && s.packLe r.pack k &&
    (match s.chooseTu r.pack d with | some c => decide (c.1 = n) | none => false)))

/-- The IDLE_ISSUE moment of R164. -/
def State.idleOk (s : State) (d : HalfTimes) (k : Pack) : Bool :=
  s.herd.idleIssue.force && (match s.chooseTu k d with
    | some c => decide (s.tuDepth c.1 = 0) && !s.aheadFor d c.1 k
    | none => false)

/-- A pack is at one of its moments and a TU can take it. -/
def State.issuable (s : State) (d : HalfTimes) (r : Ready) : Bool := (s.chooseTu r.pack d).isSome && (r.full || s.idleOk d r.pack)

/-- Issues that a list has made, modulo 16 (R398). -/
def State.issueCount (s : State) (p : PartId) (op : Nat) : BitVec 4 := s.herd.issues[(BitVec.ofNat 3 op).toFin][p]

/-- The place of a pack on its ready list: that of its first item. -/
def State.packTurn (s : State) (k : Pack) : Turn :=
  ⟨k.part, s.packCls k, packSince k, match k.items with | w :: _ => (s.itemId w.item).toNat | [] => 0⟩

/-- The issue a ready list makes next, by type and partition. -/
def State.listChoice (s : State) (d : HalfTimes) (p : PartId) (op : Nat) : Option Pack :=
  let l := ((s.herd.store.filter (fun e => decide (e.part = p))).flatMap s.entryPacks).filter (fun r => packOp r.pack == op && s.issuable d r)
  s.listTurn (s.issueCount p op) s.packTurn (l.map (·.pack))

/-- An issue goes past an operation of a higher class that waits, which the 1-in-16 rule lets it (R398). -/
def State.starves (s : State) (d : HalfTimes) (k : Pack) : Bool :=
  s.issueCount k.part (packOp k) == 15 && (s.herd.store.filter (fun e => decide (e.part = k.part))).any (fun e => (s.entryPacks e).any (fun r =>
    packOp r.pack == packOp k && s.issuable d r && decide ((s.packCls r.pack).toNat < (s.packCls k).toNat)))

/-- An issue of a list is counted. -/
def State.countIssue (s : State) (p : PartId) (op : Nat) : State :=
  let o := (BitVec.ofNat 3 op).toFin
  { s with herd := { s.herd with issues := s.herd.issues.set o ((s.herd.issues[o]).set p (s.herd.issues[o][p] + 1)) } }

/-- A trace record of a pack's decision. -/
def State.packTrace (s : State) (k : Pack) (dec reason unit depth : Nat) : TraceRec :=
  { TraceRec.of dec (packOp k) k.part.val reason with
    cls := (s.packCls k).toNat, caddy := (s.packCaddy k).toNat,
    item := (match k.items with | w :: _ => (s.itemId w.item).toNat | [] => 0), unit := unit, count := k.items.length, depth := depth, line := k.line }

/-- A pack joins a TU's input queue; its items leave their entry. -/
def State.issue (s : State) (k : Pack) (n : TuId) (why reason : Nat) (starve : Bool) : State :=
  let t1 := s.packTrace k 1 why n.val (s.tuDepth n)
  let t2 := s.packTrace k 2 reason n.val (s.tuDepth n)
  let s1 := match s.entry? k.part k.line with
    | some e => (s.setEntry { e with items := e.items.filter (fun w => !k.items.contains w) }).armPack k.part k.line
    | none => s
  let tu := s1.arr.tus[n]
  let s2 := { s1 with arr := { s1.arr with tus := s1.arr.tus.set n { tu with queue := tu.queue ++ [k] } } }
  let s3 := if packOp k = 1 then { s2 with herd := { s2.herd with packs := (k.items.length :: s2.herd.packs).take 4096 } } else s2
  let s4 := s3.countIssue k.part (packOp k)
  let s5 := s4.doIf starve (·.record { t1 with dec := 4, reason := 0 })
  (s5.record t1).record t2

/-- The next item of the unmatched list and its TU: the oldest of a partition that works for which a TU can take a pack (R165). -/
def State.unmatchedNext (s : State) : Option (HWait × TuId × Nat) :=
  s.herd.unmatched.findSome? (fun w =>
    if s.works w.part then (s.fewest ⟨w.part, w.line, [w]⟩ 0x12 false).map (fun c => (w, c.1, c.2)) else none)

/-- PACK_ISSUE: a full pack, or one for an idle TU, is issued to the TU of R168; a ray of the unmatched list goes alone to the least-loaded
TU (R165). -/
def execPackIssue (p : PartId) (line : Nat) (why : IssueWhy) (d : HalfTimes) (t : Nat) (s : State) : Host.Outcome State Fault Refusal :=
  let s := s.at t
  if !s.works p then .next s
  else
    let packs := match s.entry? p line with | some e => s.entryPacks e | none => []
    let moment := fun (r : Ready) => match why with | .full => r.full | .idle => s.idleOk d r.pack
    match packs.find? (fun r => moment r && decide (s.listChoice d p (packOp r.pack) = some r.pack)) with
    | some r => match s.chooseTu r.pack d with
      | some c =>
        .next (s.issue r.pack c.1 (match why with | .full => 1 | .idle => 3) c.2 (s.starves d r.pack))
      | none => .next s
    | none => match s.unmatchedNext with
      | some (w, n, reason) =>
        if w.part = p && w.line == line then
          .next ((({ s with herd := { s.herd with unmatched := s.herd.unmatched.erase w } }).issue ⟨p, line, [w]⟩ n 0 reason false))
        else .next s
      | none => .next s

/-- PACK_WAIT of a pack's oldest item has passed (R164). -/
def State.packDue (s : State) (k : Pack) : Bool := decide (s.itemsDue k.items ≤ s.pins.now)

/-- The pack of an entry whose timer has come that PACK_WAIT issues: one that is due, that a TU takes, that DEADLINE work which is served does not
hold back (R344), and that its ready list issues next among the due packs of the partition (R397, R398). -/
def State.dueChoice (s : State) (p : PartId) (d : HalfTimes) (packs : List Ready) : Option Pack :=
  let free := fun (k : Pack) => (decide (s.packCls k = 0) || !s.dlReady p) && (s.chooseTu k d).isSome
  let first := leastBy (fun r => s.itemsDue r.pack.items) packs
  let mine := (packs.filter (fun r => s.packDue r.pack || decide (first = some r))).map (·.pack)
  let all := (((s.herd.store.filter (fun e => decide (e.part = p))).flatMap s.entryPacks).map (·.pack)).filter
    (fun k => mine.contains k || (s.packDue k && free k))
  (mine.filter free).find? (fun k => decide (s.listTurn (s.issueCount p (packOp k)) s.packTurn
    (all.filter (fun x => packOp x == packOp k && free x)) = some k))

/-- PACK_WAIT_EXPIRY: PACK_WAIT has passed since the oldest item of a pack became ready (R164); a pack of another class is held back while
DEADLINE work that is served is ready (R344). -/
def execPackWaitExpiry (p : PartId) (line : Nat) (d : HalfTimes) (t : Nat) (s : State) : Host.Outcome State Fault Refusal :=
  if s.works p && s.timerFires (.packWait p line) t then
    let s1 := s.at t
    let packs := match s1.entry? p line with | some e => s1.entryPacks e | none => []
    if packs.isEmpty then .next (s1.fire (.packWait p line) t)
    else match s1.dueChoice p d packs with
    | some k => match s1.chooseTu k d with
      | some c => .next ((s1.fire (.packWait p line) t).issue k c.1 2 c.2 (s1.starves d k))
      | none => .next s1
    | none => .next s1
  else .next s

end Sys2Proof.Machine
end

