-- ==== Sys2Proof/Machine/Link.lean ====
section
/-!
DEFINITION. Sys2Proof/Machine/Link.lean: the forwarding port's shared operations: messages and credit (R371 to R378), routes and
targets (R362, R369), and the hit record (R107).
-/

namespace Sys2Proof

open Machine

/-! ## Messages (R371 to R375) -/

/-- Class of a message: 0 query, 1 result, 2 control, 3 ring (R372). -/
def MsgBody.cls : MsgBody → Nat
  | .fwdRay _ => 0
  | .fwdProbe _ => 0
  | .reduceReq _ => 0
  | .rayResult _ _ => 1
  | .probeResult _ _ _ => 1
  | .reduceResult _ _ => 1
  | .leaseExtend => 2
  | .cancel => 2
  | .creditReturn _ => 2
  | .keepalive => 2
  | .hello _ _ => 2
  | .adv _ => 2
  | .agree _ => 2
  | .credit _ => 2
  | .drain => 2
  | .drainDone => 2
  | .ownerEntries _ _ _ => 3
  | .epochCommit _ _ _ _ => 3
  | .unknown _ _ => 2

/-- Number of elements of the lists of a list. -/
def sumLen {α : Type} (l : List (List α)) : Nat := (l.map List.length).foldl (· + ·) 0

/-- LEN: the body in 16 B units (R371, R373, R375, R377, R380). -/
def MsgBody.len : MsgBody → Nat
  | .fwdRay _ => 5
  | .fwdProbe b => 12 + 4 * b.slots.length
  | .reduceReq b => 8 + cdiv (8 * sumLen b.lists) 16
  | .rayResult _ _ => 6
  | .probeResult _ precise l => 8 + (if precise then sumLen l else cdiv (8 * sumLen l) 16)
  | .reduceResult _ l => 5 + cdiv ((l.map (fun t => 16 + 4 * t.2.w.length)).foldl (· + ·) 0) 16
  | .leaseExtend => 0
  | .cancel => 0
  | .creditReturn _ => 1
  | .keepalive => 0
  | .hello _ _ => 1
  | .adv _ => 4
  | .agree _ => 1
  | .credit _ => 1
  | .drain => 0
  | .drainDone => 0
  | .ownerEntries _ _ es => 1 + cdiv (8 * es.length) 16
  | .epochCommit _ _ _ _ => 1
  | .unknown _ n => n

/-- Kennel slots a query takes at its owner (R377). -/
def MsgBody.slots : MsgBody → Nat
  | .fwdRay _ => 1
  | .fwdProbe b => b.slots.length
  | .reduceReq b => cdiv ((8 + cdiv (8 * sumLen b.lists) 16) * 16) 64
  | _ => 0

/-! ## Credit (R377) -/

/-- Credit pool by pool. -/
def Credits.add (a b : Credits) : Credits :=
  ⟨a.qEnd + b.qEnd, a.qRelay + b.qRelay, a.rEnd + b.rEnd, a.rRelay + b.rRelay, a.ring + b.ring⟩

def Credits.sub (a b : Credits) : Credits :=
  ⟨a.qEnd - b.qEnd, a.qRelay - b.qRelay, a.rEnd - b.rEnd, a.rRelay - b.rRelay, a.ring - b.ring⟩

/-- `a` lies within `b` in every pool. -/
def Credits.within (a b : Credits) : Bool :=
  decide (a.qEnd ≤ b.qEnd) && decide (a.qRelay ≤ b.qRelay) && decide (a.rEnd ≤ b.rEnd) && decide (a.rRelay ≤ b.rRelay)
    && decide (a.ring ≤ b.ring)

end Sys2Proof

namespace Sys2Proof.Machine

/-- What a message to the peer `peer` draws: its pools (Q_END, Q_RELAY, R_END, R_RELAY, RING). -/
def creditCost (peer : ChipId) (h : MsgHdr) (b : MsgBody) : Credits :=
  let u := 1 + b.len
  let mine := decide (h.dest = peer)
  if b.cls = 0 then (if mine then ⟨b.slots, 0, 0, 0, 0⟩ else ⟨0, u, 0, 0, 0⟩)
  else if b.cls = 1 then (if mine then ⟨0, 0, u, 0, 0⟩ else ⟨0, 0, 0, u, 0⟩)
  else if b.cls = 3 then ⟨0, 0, 0, 0, 1⟩
  else noCredits

/-- Session states (R392). -/
def ssDown : BitVec 3 := 0
def ssUp : BitVec 3 := 5
def ssDrain : BitVec 3 := 6

def State.sess (s : State) (l : LinkId) : Session := s.fwd.sess[l]

def State.setSess (s : State) (l : LinkId) (x : Session) : State := { s with fwd := { s.fwd with sess := s.fwd.sess.set l x } }

def State.updSess (s : State) (l : LinkId) (f : Session → Session) : State := s.setSess l (f (s.sess l))

/-- A message can go out on a link now: its session takes its class (R379), its pool holds enough credit, and no message of its class
waits there. -/
def State.canSend (s : State) (l : LinkId) (h : MsgHdr) (b : MsgBody) : Bool :=
  let x := s.sess l
  (decide (x.state = ssUp) || (decide (x.state = ssDrain) && decide (b.cls ≠ 0 ∨ h.src ≠ s.boot.chipId)))
    && (creditCost x.peer h b).within x.credit
    && !s.fwd.waiting.any (fun w => decide (w.1 = l) && decide (w.2.2.cls = b.cls))

/-- A message leaves on a link; the 100 µs of R379 without sending start again. -/
def State.emit (s : State) (l : LinkId) (h : MsgHdr) (b : MsgBody) : State :=
  let s1 := { s with pins := { s.pins with links := s.pins.links ++ [(l, h, b)] } }
  if (s.sess l).state = ssUp then (s1.timerDel (.keepTx l)).timerAdd (.keepTx l) (s.pins.now + 100000) else s1

/-- A message against its credit. -/
def State.sendNow (s : State) (l : LinkId) (h : MsgHdr) (b : MsgBody) : State :=
  (s.updSess l (fun x => { x with credit := x.credit.sub (creditCost x.peer h b) })).emit l h b

/-- A message is sent, or waits for credit behind those of its class. -/
def State.send (s : State) (l : LinkId) (h : MsgHdr) (b : MsgBody) : State :=
  if s.canSend l h b then s.sendNow l h b else { s with fwd := { s.fwd with waiting := s.fwd.waiting ++ [(l, h, b)] } }

/-- The waiting messages of a list are tried in order. -/
def State.sendAll (s : State) : List (LinkId × MsgHdr × MsgBody) → State
  | [] => s
  | (l, h, b) :: r => (s.send l h b).sendAll r

/-- Every waiting message of a link is tried again. -/
def State.sendWaiting (s : State) (l : LinkId) : State :=
  let w := s.fwd.waiting.filter (fun x => decide (x.1 = l))
  ({ s with fwd := { s.fwd with waiting := s.fwd.waiting.filter (fun x => decide (x.1 ≠ l)) } }).sendAll w

/-- Low 8 bits of the epoch. -/
def State.epochLo (s : State) : Byte := fld s.fwd.epoch.get 0 8

/-- A header this chip creates (R371). -/
def State.hdr (s : State) (id : W32) (sub : W16) (dest : ChipId) : MsgHdr := ⟨id, sub, s.boot.chipId, dest, s.epochLo, 0⟩

/-! ## Routes and targets (R362, R369) -/

/-- What a route byte comes to. -/
inductive Route where
  | link (l : LinkId)
  | none
  | bad (x : Xfault)
deriving DecidableEq, Repr

/-- The route toward a chip, read under the host partition's MMU root: unreachable where its byte names no link or a link whose session
is not UP, or whose session has not agreed every operation of `ops` (R369, R380). -/
def State.route (s : State) (ops : W16) (chip : ChipId) : Route :=
  match s.vnum s.hostPart (2 ^ 20 * s.fwd.routeBase.force.toNat + chip.toNat) 1 with
  | .bad x => .bad x
  | .ok b =>
    if h : b % 32 < 24 then
      let l : LinkId := ⟨b % 32, h⟩
      if (s.sess l).state = ssUp && decide ((s.sess l).ops &&& ops = ops) then .link l else .none
    else .none

/-- Where a subtree is walked. -/
inductive Target where
  | fail
  | here
  | send (chip : ChipId) (l : LinkId)
  | park (x : Xfault)
deriving DecidableEq, Repr

/-- The entry of a subtree in the current copy of the owner table; one that met an uncorrectable word is not valid until the next epoch
boundary (R360). -/
def State.owner? (s : State) (sub : Nat) : Option OwnEntry := if s.fwd.bad.contains sub then none else assocGet sub s.fwd.table

/-- The last choice of R362: a target that is not the failed chip and can be reached. -/
def State.targetOf (s : State) (ops : W16) (failed skip : Option ChipId) (t : ChipId) : Target :=
  if failed = some t || skip = some t then .fail
  else match s.route ops t with
    | .link l => .send t l
    | .none => .fail
    | .bad x => .park x

/-- R362. `failed` is the chip lost for this subtree; `skip` a chip whose route byte's fault was aborted (R450). -/
def State.target (s : State) (ops : W16) (sub : Nat) (failed skip : Option ChipId) : Target :=
  match s.owner? sub with
  | none => .fail
  | some e =>
    if e.primary = s.boot.chipId || e.replica = some s.boot.chipId then .here
    else match s.targetOf ops failed skip e.primary with
      | .fail => match e.replica with
        | some r => s.targetOf ops failed skip r
        | none => .fail
      | t => t

/-! ## The hit record (R107, R108, R187) -/

/-- STATUS of a ray that ends with a code, with the flags of HFLAGS. -/
def rayStatus (r : Ray) (code : Nat) : Nat :=
  code + (if r.cand.invalid then 256 else 0) + (if r.cand.nonres then 512 else 0) + (if r.cand.fwd then 1024 else 0)
    + (if r.cand.reissued then 2048 else 0)

/-- The code of a walk that ended without an error. -/
def rayCode (r : Ray) : Nat := if r.cand.valid then 0 else 1

/-- A hit record. An error code keeps no hit (R186). -/
def hitRecord (r : Ray) (id : W32) (code : Nat) : Rec32 :=
  let hit := r.cand.valid && decide (code = 0)
  BitVec.ofNat 256 (packN [(32, id.toNat), (32, if hit then r.cand.prim.toNat else 0xFFFFFFFF), (32, if hit then r.cand.inst.toNat else 0xFFFFFFFF),
    (32, if hit then r.tmax.toNat else f32Inf.toNat), (16, if hit then r.cand.u.toNat else 0), (16, if hit then r.cand.v.toNat else 0),
    (16, rayStatus r code), (16, r.flow.toNat), (64, r.payload.toNat)])

end Sys2Proof.Machine
end

