-- ==== Sys2Proof/Machine/Session.lean ====
section
/-!
DEFINITION. Sys2Proof/Machine/Session.lean: the sessions of the links (R379 to R382, R392): their states, messages, timeouts and ends, the
credit owed to a peer (R377), the FWD_SESSION commands that wait, and what start-up step 9 shows of them (R503, R505).
-/

namespace Sys2Proof.Machine

/-! ## Links -/

/-- A ring link (R382). -/
def State.isRing (s : State) (l : LinkId) : Bool := decide (s.cfg.ringUp.toNat = l.val) || decide (s.cfg.ringDown.toNat = l.val)

/-- A link of FWD_LINKS; the ring links are among them (R467). -/
def State.inLinks (s : State) (l : LinkId) : Bool := bit s.cfg.fwdLinks l.val

/-- Messages of a link reach this Rampor: out of reset, neither HELD nor in ERROR, the link up, and no closed bypass around it (R17, R18,
R507, R513). -/
def State.hears (s : State) (l : LinkId) : Bool :=
  s.active && bit s.pins.linkUp l.val && !(s.pins.bypass && s.isRing l)

/-- The initial grants of a session (R377). -/
def State.grants (s : State) (l : LinkId) : Credits :=
  ⟨s.cfg.fwdReserve / max 1 (popN s.cfg.fwdLinks 24), 2304, 2304, 2304, if s.isRing l then 16 else 0⟩

/-- Session states (R392). -/
def ssListen : BitVec 3 := 1
def ssAdvertise : BitVec 3 := 2
def ssAgree : BitVec 3 := 3
def ssCredit : BitVec 3 := 4

/-- Reasons of R392. -/
def rsTimeout : BitVec 4 := 1
def rsMismatch : BitVec 4 := 2
def rsIncompatible : BitVec 4 := 3
def rsLinkDown : BitVec 4 := 4
def rsKeepalive : BitVec 4 := 5
def rsDrained : BitVec 4 := 6
def rsForced : BitVec 4 := 7
def rsRestart : BitVec 4 := 8

/-! ## Credit owed (R377) -/

/-- Some pool's debt has reached one eighth of its initial grant. -/
def debtDue (owed grant : Credits) : Bool :=
  let f := fun (o g : Nat) => decide (0 < o) && decide (g ≤ 8 * o)
  f owed.qEnd grant.qEnd || f owed.qRelay grant.qRelay || f owed.rEnd grant.rEnd || f owed.rRelay grant.rRelay || f owed.ring grant.ring

/-- The part of some credit that may be granted now: none during a block drain, no Q_END credit while a scope-2 HEEL of the host partition drains or
beyond the slots FWD_RESERVE has (R87, R411, R416). -/
def State.grantable (s : State) (c : Credits) : Credits :=
  if s.arr.blkDraining then noCredits else { c with qEnd := if s.creditHeld then 0 else min c.qEnd s.fwdRoom }

/-- Everything owed to a link's peer is returned, but the credit that is withheld (R87, R377, R411, R416). -/
def State.payBack (s : State) (l : LinkId) : State :=
  let x := s.sess l
  let out := s.grantable x.owed
  let rest := x.owed.sub out
  let s1 := (s.timerDel (.creditRet l)).updSess l (fun x => { x with owed := rest, granted := x.granted + out.qEnd })
  let s2 := if out = noCredits then s1 else s1.emit l (s.hdr 0 0 x.peer) (.creditReturn out)
  if rest = noCredits then s2 else s2.timerAdd (.creditRet l) (s.pins.now + 1000)

/-- Credit is owed to a link's peer: it is returned at one eighth of a grant, or 1 µs after the first. -/
def State.owe (s : State) (l : LinkId) (c : Credits) : State :=
  let x := s.sess l
  if c = noCredits || !(x.state = ssUp || x.state = ssDrain) then s
  else
    let s1 := s.updSess l (fun x => { x with owed := x.owed.add c })
    if debtDue (x.owed.add c) (s.grants l) then s1.payBack l
    else if x.owed = noCredits then s1.timerAdd (.creditRet l) (s.pins.now + 1000)
    else s1

/-! ## States and messages (R379, R380) -/

/-- Timeout of a state in ns, and its retries. -/
def ssWait (st : BitVec 3) : Nat := if st = ssListen then 100000 else if st = ssDrain then 10000000 else 20000
def ssRetries (st : BitVec 3) : Nat := if st = ssListen then 10 else if st = ssDrain then 0 else 5

/-- The expected peer of a HELLO; 0xFFFF_FFFF accepts any (R382). -/
def State.expectWord (s : State) (l : LinkId) : W32 :=
  if s.isRing l then 0xFFFFFFFF else match (s.sess l).expected with | some c => c.setWidth 32 | none => 0xFFFFFFFF

/-- This chip's AGREE. -/
def State.ownAgree (s : State) (l : LinkId) : AgreeBody :=
  let x := s.sess l
  let a := s.boot.chipId.setWidth 32
  let b := x.peer.setWidth 32
  ⟨x.version, x.ops, if a.toNat ≤ b.toNat then a else b, if a.toNat ≤ b.toNat then b else a⟩

/-- The message a state sends on entry and at each timeout. -/
def State.stateMsg (s : State) (l : LinkId) (st : BitVec 3) : MsgBody :=
  if st = ssListen then .hello (s.boot.chipId.setWidth 32) (s.expectWord l)
  else if st = ssAdvertise then .adv ⟨1, 1, 0xF, 64, 32, s.fwd.epoch.get, s.grants l, 18432⟩
  else if st = ssAgree then .agree (s.ownAgree l)
  else if st = ssCredit then .credit ((s.grants l).sub (s.sess l).owed)
  else .drain

/-- The message of a state is sent. -/
def State.sendState (s : State) (l : LinkId) : State := s.emit l (s.hdr 0 0 (s.sess l).peer) (s.stateMsg l (s.sess l).state)

/-- A session enters a state that sends: its message goes out and its timeout starts. The grants of its CREDIT leave out what is withheld then, which
stays owed (R87, R377, R411, R416). -/
def State.enterSess (s : State) (l : LinkId) (st : BitVec 3) : State :=
  let s1 := s.updSess l (fun x => { x with state := st, tries := 0 })
  let s2 := s1.doIf (decide (st = ssCredit)) (·.updSess l (fun x => { x with
    owed := (s.grants l).sub (s.grantable (s.grants l)), granted := (s.grantable (s.grants l)).qEnd }))
  ((s2.sendState l).timerDel (.session l)).timerAdd (.session l) (s.pins.now + ssWait st)

/-- Timers of a session. -/
def State.quietLink (s : State) (l : LinkId) : State :=
  (((s.timerDel (.session l)).timerDel (.keepTx l)).timerDel (.keepRx l)).timerDel (.creditRet l)

/-- What waits on a session for credit is lost with it; a query or result of another chip in transit counts in RELAY_DROP (R369). -/
def State.dropWaiting (s : State) (l : LinkId) : State :=
  let gone := s.fwd.waiting.filter (fun w => decide (w.1 = l) && decide (w.2.1.src ≠ s.boot.chipId) && decide (w.2.2.cls ≠ 3))
  { s with fwd := { s.fwd with waiting := s.fwd.waiting.filter (fun w => decide (w.1 ≠ l)), relayDrop := satAdd s.fwd.relayDrop gone.length } }

/-- A session enters LISTEN, with nothing of an earlier one left. -/
def State.listen (s : State) (l : LinkId) : State :=
  let s1 := (s.quietLink l).updSess l (fun x => { x with
    credit := noCredits, owed := noCredits, granted := 0, doneSent := false, doneSeen := false })
  (s1.dropWaiting l).enterSess l ssListen

/-- A session goes to DOWN for a reason. -/
def State.downSess (s : State) (l : LinkId) (reason : BitVec 4) : State :=
  let s1 := (s.quietLink l).updSess l (fun x => { x with
    state := ssDown, reason := reason, tries := 0, credit := noCredits, owed := noCredits, granted := 0, doneSent := false, doneSeen := false,
    settled := true })
  s1.dropWaiting l

/-! ## FWD_SESSION commands that wait (R381) -/

/-- The waiting commands of a link and an OP end with a status. -/
def State.endCmds (s : State) (l : LinkId) (drain : Bool) (st : W16) : State :=
  let mine := fun (w : LinkId × Bool × CmdRef) => decide (w.1 = l) && w.2.1 == drain
  let s1 := { s with fwd := { s.fwd with cmds := s.fwd.cmds.filter (fun w => !mine w) } }
  (s.fwd.cmds.filter mine).foldl (fun s w => if st = 0 then s.finishOk w.2.2 else s.finish w.2.2 st) s1

/-- A command of a link and an OP waits. -/
def State.hasCmd (s : State) (l : LinkId) (drain : Bool) : Bool := s.fwd.cmds.any (fun w => decide (w.1 = l) && w.2.1 == drain)

/-! ## Start-up step 9 (R503, R505) -/

/-- Step 9 is under way. -/
def State.inStep9 (s : State) : Bool := decide (s.boot.state = stBooting) && decide (s.boot.step = 9)

/-- BP and DETAIL of step 9: sessions settled, and the links that have not. -/
def State.boot9 (s : State) : State :=
  if !s.inStep9 then s
  else
    let n := popN s.cfg.fwdLinks 24
    let open_ := allLinks.filter (fun l => s.inLinks l && !(s.sess l).settled)
    let bp := 10000 * (n - open_.length) / max 1 n
    { s with boot := { s.boot with bp := BitVec.ofNat 14 bp, detail := open_.foldl (fun (w : W32) l => setBit w l.val true) 0 } }

/-- Start-up trains sessions or has trained them: steps 9 and 10. -/
def State.inStart (s : State) : Bool := decide (s.boot.state = stBooting) && decide (9 ≤ s.boot.step.toNat)

/-- A ring session is not UP in start-up, its training over: step 9 shows WAIT_RING, and the bypass closes again and is reopened 10 ms later
(R382, R503). -/
def State.ringFailed (s : State) (l : LinkId) : State :=
  if !s.inStart || !s.isRing l then s
  else
    let s1 := { s with pins := { s.pins with bypass := true }, boot := { s.boot with ringRetry := true } }
    let s2 := s1.doIf s1.inStep9 (·.stall 0xA s1.boot.detail)
    if (s2.timerDue .reopen).isSome then s2 else s2.timerAdd .reopen (s.pins.now + 10000000)

/-- The ring sessions that are DOWN count as failed. -/
def State.ringDowns (s : State) : State := allLinks.foldl (fun s l => s.doIf (decide ((s.sess l).state = ssDown)) (·.ringFailed l)) s

/-- Both ring sessions are UP; true where there is no ring. -/
def State.ringUpBoth (s : State) : Bool := allLinks.all (fun l => !s.isRing l || decide ((s.sess l).state = ssUp))

/-- Every session of FWD_LINKS is UP or has failed, and both ring sessions are UP: step 9 ends (R503). -/
def State.step9Done (s : State) : Bool := allLinks.all (fun l => !s.inLinks l || (s.sess l).settled) && s.ringUpBoth

/-! ## Failure, UP and DRAIN -/

/-- Training fails (R379): the session goes to DOWN, an OPEN that waits completes with SESSION_FAIL. -/
def State.failSess (s : State) (l : LinkId) (reason : BitVec 4) : State :=
  ((((s.downSess l reason).endCmds l false stSessionFail).endCmds l true stOk).ringFailed l).boot9

/-- No Leash names the link and no foreign query from its peer is held (R379). -/
def State.drained (s : State) (l : LinkId) : Bool :=
  !s.kennel.slots.any (fun e => match e.2.data with | .leash k => k.sent && decide (k.link.toNat = l.val) | _ => false)
    && !s.fwd.foreign.any (fun f => decide (f.link = l))

/-- A session that start-up, R382 or an OPEN trains; without a FWD_SESSION it expects the peer of its last UP session (R379). -/
def State.openSess (s : State) (l : LinkId) (peer : Option ChipId) : State :=
  (s.updSess l (fun x => { x with expected := peer })).listen l

/-- The PEER of the OPEN that waits on a link, if one does (R66). -/
def State.openPeer (s : State) (l : LinkId) : Option ChipId :=
  match s.fwd.cmds.find? (fun w => decide (w.1 = l) && !w.2.1) with
  | some w => (s.cmd? w.2.2).map (fun c => BitVec.ofNat 20 (rb c.raw 12 4))
  | none => none

/-- A drained session is DOWN: DRAIN commands complete, and a waiting OPEN trains it with its own PEER (R66, R381). -/
def State.endDrain (s : State) (l : LinkId) (reason : BitVec 4) : State :=
  let s1 := (s.downSess l reason).endCmds l true stOk
  (if s1.hasCmd l false then s1.openSess l (s1.openPeer l) else s1).boot9

/-- In DRAIN: DRAIN_DONE goes out once this side is empty; once both have been exchanged the session is DOWN. -/
def State.drainCheck (s : State) (l : LinkId) : State :=
  if (s.sess l).state ≠ ssDrain then s
  else
    let s1 := if !(s.sess l).doneSent && s.drained l then
        (s.emit l (s.hdr 0 0 (s.sess l).peer) .drainDone).updSess l (fun x => { x with doneSent := true })
      else s
    if (s1.sess l).doneSent && (s1.sess l).doneSeen then s1.endDrain l rsDrained else s1

/-- A Leash has ended or a query has gone: every link in DRAIN is looked at (R379). -/
def State.drainAll (s : State) : State := allLinks.foldl State.drainCheck s

/-- An UP session enters DRAIN, which leaves UP (R392). -/
def State.startDrain (s : State) (l : LinkId) : State :=
  ((((s.timerDel (.keepTx l)).timerDel (.keepRx l)).enterSess l ssDrain).irqBlock 4).drainCheck l

/-- A session reaches UP with the peer's grants. -/
def State.upSess (s : State) (l : LinkId) (c : Credits) : State :=
  let s1 := (s.timerDel (.session l)).updSess l (fun x => { x with
    state := ssUp, tries := 0, credit := c, lastPeer := some x.peer, settled := true, doneSent := false, doneSeen := false })
  let s2 := (((s1.timerAdd (.keepTx l) (s.pins.now + 100000)).timerAdd (.keepRx l) (s.pins.now + 500000)).doIf
    (decide ((s.sess l).owed ≠ noCredits)) (·.timerAdd (.creditRet l) (s.pins.now + 1000))).endCmds l false stOk
  let s3 := if s2.boot.ringRetry && s2.ringUpBoth then
      ({ s2 with boot := { s2.boot with ringRetry := false } }).doIf s2.inStep9 (fun s => s.stall 0 s.boot.detail)
    else s2
  (if s3.hasCmd l true then s3.startDrain l else s3).boot9

/-- Something arrived on a session in UP: its receive timeout starts again (R379). -/
def State.heard (s : State) (l : LinkId) : State :=
  if (s.sess l).state = ssUp then (s.timerDel (.keepRx l)).timerAdd (.keepRx l) (s.pins.now + 500000) else s

/-- A message of a later epoch arrived (R368). -/
def State.epochSeen (s : State) (lo : Byte) : State :=
  let d := (lo - s.epochLo).toNat
  if 1 ≤ d && decide (d ≤ 127) then ({ s with fwd := { s.fwd with epochBehind := true } }).irqBlock 4 else s

/-- Step 9 opens the bypass and trains every session of FWD_LINKS whose PHY is trained; a ring session whose PHY is not has failed (R19, R501, R503). -/
def State.step9Open (s : State) : State :=
  let s0 := { s with pins := { s.pins with bypass := false } }
  (allLinks.foldl (fun s l => if s.inLinks l && bit s.pins.linkUp l.val && decide ((s.sess l).state = ssDown) then s.openSess l (s.sess l).lastPeer else s) s0).ringDowns.boot9

end Sys2Proof.Machine
end

