-- ==== Sys2Proof/Machine/Foreign.lean ====
section
/-!
DEFINITION. Sys2Proof/Machine/Foreign.lean: how a query held for another chip ends (R375, R383, R384), and entry into PARTITION_ERROR (R457).
-/

namespace Sys2Proof.Machine

/-! ## Foreign queries (R383, R384) -/

def State.foreign? (s : State) (slot : Nat) : Option Foreign := s.fwd.foreign.find? (fun f => f.slot == slot)

/-- The prefix of a result body. -/
def resultPrefix (result : Nat) (ended : Bool) (va : Nat) (q : List Byte) : ResultPrefix :=
  ⟨BitVec.ofNat 8 result, true, ended, BitVec.ofNat 64 va, q⟩

/-- Every group changed, resident, waiting or saved. -/
def State.mapGroups (s : State) (f : Group → Group) : State :=
  { s with setter := { s.setter with
      cores := s.setter.cores.map (fun (c : Core) => { c with groups := c.groups.map (fun g => g.map f),
                                                              queue := c.queue.map (fun (w : Waiting) => { w with groups := w.groups.map f }) })
      saved := s.setter.saved.map (fun e => (e.1, f e.2)) } }

/-- No lane of a group works for the ray of a slot any more. -/
def Group.forget (slot : Nat) (g : Group) : Group :=
  match g.work with
  | .rays role p lanes => { g with work := .rays role p (lanes.map (fun i => if i = slot then 262144 else i)) }
  | _ => g

/-- A foreign query leaves: its slots, its Herder items, its bundle and its timer. -/
def State.dropForeign (s : State) (f : Foreign) : State :=
  let s1 := s.herdDrop (fun i => match i with | .ray n => n == f.slot | .op o => o.bundle == f.slot | .group _ _ => false)
  let slots := if f.lkind = 0 then s1.raySlots f.slot else f.slot :: s1.chain 300 (s1.kNext f.slot)
  let s2 := (s1.kFreeAll slots).timerDel (.leaseExt f.slot)
  let s3 := s2.timerDel (.spill f.slot)
  let s4 := { s3 with
    strain := { s3.strain with bundles := s3.strain.bundles.filter (fun b => b.head != f.slot) }
    arr := { s3.arr with tus := s3.arr.tus.map (fun (t : Tu) => { t with buffer := t.buffer.filter (· != f.slot) }) }
    herd := { s3.herd with invokes := s3.herd.invokes.filter (fun i => i.ray != f.slot) }
    fwd := { s3.fwd with foreign := s3.fwd.foreign.filter (fun x => x.slot != f.slot) } }
  s.traceUnpin (((s4.mapGroups (Group.forget f.slot)).owe f.link ⟨f.slots, 0, 0, 0, 0⟩).drainCheck f.link)

/-- The result body of a foreign query that ends without its result: ABORTED, FAULT_REMOTE, NOT_OWNER or CONTAINED. -/
def failBody (s : State) (f : Foreign) (result va : Nat) : MsgBody :=
  let p := resultPrefix result false va []
  if f.lkind = 0 then
    .rayResult p (match s.ray? f.slot with | some r => hitRecord r f.hdr.queryId 0x17 | none => 0)
  else if f.lkind = 1 then .probeResult p (match s.bundle? f.slot with | some b => b.precise | none => false) []
  else .reduceResult p []

/-- The link toward a chip for results and control messages; the link a query came on where its route is unreachable. -/
def State.backLink (s : State) (f : Foreign) : LinkId := match s.route 0 f.hdr.src with | .link l => l | _ => f.link

/-- A result of a foreign query is sent (R375). -/
def State.sendResult (s : State) (f : Foreign) (b : MsgBody) : State :=
  s.send (s.backLink f) (s.hdr f.hdr.queryId f.hdr.subtree f.hdr.src) b

/-- A foreign query ends without its result. -/
def State.failForeign (s : State) (f : Foreign) (result va : Nat) : State :=
  (s.sendResult f (failBody s f result va)).dropForeign f

/-- Every foreign query ends with ABORTED (R384). -/
def State.abortForeign (s : State) : State := s.fwd.foreign.foldl (fun s f => s.failForeign f 3 0) s

/-- Entry into PARTITION_ERROR (R457); as host partition it ends every foreign query with ABORTED. -/
def State.partitionError (s : State) (p : PartId) (reason : BitVec 2) : State :=
  (s.errPartition p reason).doIf (decide (p = s.hostPart)) (·.abortForeign)

end Sys2Proof.Machine
end

