-- ==== Sys2Proof/Machine/Bus.lean ====
section
/-!
DEFINITION. Sys2Proof/Machine/Bus.lean: what every control-bus access passes: reset, requester, ERROR, the lock (R21, R477, R486,
R487, R513, R521, R524, R529).
-/

namespace Sys2Proof.Machine

/-- How an access fares before it reaches a register. -/
inductive Gate where
  | refused (s : State)
  | ignored
  | go
deriving DecidableEq

/-- An error response (R21). -/
def State.busError (s : State) : State := s.answer .error

/-- An access refused under R477 is counted in XPART. -/
def State.busXpart (s : State) : State := ({ s with csr := { s.csr with xpart := satInc s.csr.xpart } }).busError

/-- Requester rights (R477): a partition function has its own page, and may read the global block only. In reset every access returns
an error (R524). -/
def State.gate (s : State) (req : Requester) (page : Option PartId) (write : Bool) : Gate :=
  if !s.live then .refused s.busError
  else match req with
    | .part p => if page = some p || (page.isNone && !write) then .go else .refused s.busXpart
    | .mgmt => .go
    | .debug => .go

/-- UNLOCKED as voted (R485, R491). -/
def State.isUnlocked (s : State) : Bool := s.csr.unlocked.get

/-- A write of the management function or the debug port clears UNLOCKED (R486); a partition's never changes it. -/
def State.relock (s : State) (req : Requester) : State :=
  match req with
  | .part _ => s
  | .mgmt => { s with csr := { s.csr with unlocked := .all false } }
  | .debug => { s with csr := { s.csr with unlocked := .all false } }

/-- A write ignored by the lock or by write-once (R487, R493). -/
def State.lockViolation (s : State) : State :=
  let was := s.csr.lockViol
  ({ s with csr := { s.csr with lockViol := true, lvCnt := satInc s.csr.lvCnt } }).doIf (!was && s.csr.lvIrq) (·.irqBlock 6)

/-- The partition's page takes no writes while it is being reset (R521). -/
def State.pageClosed (s : State) (page : Option PartId) : Bool :=
  match page with
  | some p => (s.part p).resetting
  | none => false

/-- A write: refused, ignored, or carried out by `f`, which is told whether the lock was open. In ERROR only the registers of R513
act (`inError`); in a partition reset only RK_PART_RESET (`inReset`). -/
def State.busWrite (s : State) (req : Requester) (page : Option PartId) (inError inReset : Bool) (f : Bool → State → State) : State :=
  match s.gate req page true with
  | .refused s' => s'
  | .ignored => s.answer .ok
  | .go =>
    if s.errored && !inError then s.answer .ok
    else
      let u := s.isUnlocked
      let s1 := s.relock req
      if s1.pageClosed page && !inReset then s1.answer .ok else (f u s1).answer .ok

/-- A write to a register of the global block. -/
def State.globalWrite (s : State) (req : Requester) (f : Bool → State → State) : State := s.busWrite req none false false f

/-- A write to a register of a partition's page. -/
def State.pageWrite (s : State) (req : Requester) (p : PartId) (f : State → State) : State :=
  s.busWrite req (some p) false false (fun _ x => f x)

/-- A write that targets a key-locked field acts only while the lock was open (R487, R529). -/
def State.locked (s : State) (unlocked targets : Bool) (f : State → State) : State :=
  if !targets then s else if unlocked then f s else s.lockViolation

end Sys2Proof.Machine
end

