-- ==== Sys2Proof/Machine/Present.lean ====
section
/-!
DEFINITION. Sys2Proof/Machine/Present.lean: presenting a frame (R342, R347, R349, R350): what the end of a PRESENT command does.
-/

namespace Sys2Proof.Machine

/-- DEADLINE states (R359). -/
def dlIdle : BitVec 3 := 0
def dlArmed : BitVec 3 := 1
def dlFiring : BitVec 3 := 2
def dlReproj : BitVec 3 := 3
def dlLate : BitVec 3 := 4

/-- A present message leaves; FRAME counts it (R350, R359). -/
def State.sendPresent (s : State) (p : PartId) (surface : Nat) (reproj late : Bool) : State :=
  let x := s.part p
  let m : Present := ⟨BitVec.ofNat 64 surface, x.frame, reproj, late, p⟩
  ({ s with pins := { s.pins with presents := s.pins.presents ++ [m] } }).updPart p (fun y =>
    { y with frame := y.frame + 1, presented := satInc y.presented })

/-- The deadline state becomes IDLE: both timers are disarmed (R342). -/
def State.deadlineIdle (s : State) (p : PartId) : State :=
  ((s.timerDel (.preempt p)).timerDel (.decision p)).updPart p (fun x => { x with deadline := ⟨dlIdle, none, false, false, false⟩ })

/-- The command is its partition's deadline frame. -/
def State.isFrame (s : State) (p : PartId) (r : CmdRef) : Bool := decide ((s.part p).deadline.frame = some (r.q, r.seq))

/-- LATE_DISCARD of the re-projected deadline that a command was the frame of, where SET_DEADLINE has replaced or cleared it (R349). -/
def State.wasLate (s : State) (p : PartId) (r : CmdRef) : Option Bool :=
  ((s.part p).lateOf.find? (fun e => decide ((e.1, e.2.1) = (r.q, r.seq)))).map (fun e => e.2.2)

/-- The frame of a re-projected deadline that is replaced or cleared stays a late frame (R349). -/
def State.keepLate (s : State) (p : PartId) : State :=
  let d := (s.part p).deadline
  match d.frame with
  | some f => if d.state = dlReproj || d.state = dlLate then s.updPart p (fun x => { x with lateOf := x.lateOf ++ [(f.1, f.2, d.lateDiscard)] }) else s
  | none => s

/-- The frame becomes the reference frame, and the summary copies swap (R347). -/
def State.takeReference (s : State) (p : PartId) (c : Cmd) : State :=
  s.updPart p (fun x => { x with refFrame := assocGet 0 c.descs, refSummary := x.spareSummary, spareSummary := x.refSummary })

/-- COLOR_ADDR of a PRESENT command's target. -/
def presentSurface (c : Cmd) : Nat := match assocGet 0 c.descs with | some d => nfld d.toNat 64 64 | none => 0

/-- A PRESENT command whose tiles are written and acknowledged presents its frame, ends its deadline, and is a VIS frame boundary (R342,
R349 to R352). A command that ends with an error presents nothing. -/
def State.presentFrame (s : State) (p : PartId) (r : CmdRef) (c : Cmd) : State :=
  let d := (s.part p).deadline
  let mine := s.isFrame p r
  let late := (mine && decide (d.state = dlLate)) || (s.wasLate p r).isSome
  let shows := !isError c.status && !(late && (s.wasLate p r).getD d.lateDiscard)
  let s1 := (s.updCmd r (fun x => { x with presents := false })).doIf shows
    (fun s => (s.sendPresent p (presentSurface c) false late).takeReference p c)
  let s2 := s1.doIf (mine && (late || shows)) (·.deadlineIdle p)
  let s3 := s2.doIf late (fun s => (s.updPart p (fun x => { x with
      lateFrames := satInc x.lateFrames, lateOf := x.lateOf.filter (fun e => decide ((e.1, e.2.1) ≠ (r.q, r.seq))) })).doIf (s.part p).lateIrq
    (·.irqPart p (s.part p).dlVec))
  s3.applyFrame p

/-- A PRESENT command waits to complete while its deadline's re-projection is under way. -/
def State.presentWaits (s : State) (p : PartId) (r : CmdRef) (c : Cmd) : Bool :=
  c.presents && (s.part p).reproj.isSome && ((s.isFrame p r && decide ((s.part p).deadline.state = dlReproj)) || (s.wasLate p r).isSome)

end Sys2Proof.Machine
end

