-- ==== Sys2Proof/Machine/Target.lean ====
section
/-!
DEFINITION. Sys2Proof/Machine/Target.lean: descriptors as memory holds them; render targets and what the admission of a SPLAT command does
with its own (R314 to R316, R342, R347); depth parking (R331, R332, R354).
-/

namespace Sys2Proof.Machine

/-! ## Descriptors -/

/-- `n` bytes of a descriptor or node from byte `b`. -/
def by_ (v b n : Nat) : Nat := nfld v (8 * b) (8 * n)

/-- The 128 B at an address. -/
def State.vunit (s : State) (p : PartId) (va : Nat) : Acc Nat := s.vnum p va 128

/-- A descriptor read. -/
def State.vdesc (s : State) (p : PartId) (va : Nat) : Acc Desc :=
  match s.vunit p va with
  | .ok n => .ok (BitVec.ofNat 1024 n)
  | .bad x => .bad x

/-- `n` bytes of a descriptor. -/
def Desc.byte (d : Desc) (b n : Nat) : Nat := by_ d.toNat b n

/-! ## Render targets (R314, R316) -/

def Desc.width (d : Desc) : Nat := d.byte 0 2
def Desc.height (d : Desc) : Nat := d.byte 2 2
def Desc.chans (d : Desc) : Nat := d.byte 4 1
/-- Bytes of a channel in memory. -/
def Desc.chanBytes (d : Desc) : Nat := if d.byte 5 1 = 1 then 4 else 2
def Desc.clear (d : Desc) : Bool := bit d 48
def Desc.present (d : Desc) : Bool := bit d 49
def Desc.colorAddr (d : Desc) : Nat := d.byte 8 8
def Desc.transAddr (d : Desc) : Nat := d.byte 16 8
def Desc.lastAddr (d : Desc) : Nat := d.byte 24 8
def Desc.featAddr (d : Desc) : Nat := d.byte 32 8
def Desc.statusAddr (d : Desc) : Nat := d.byte 40 8
def Desc.dldcAddr (d : Desc) : Nat := d.byte 48 8
def Desc.reprojM (d : Desc) : Nat := d.byte 56 8
def Desc.reprojOut (d : Desc) : Nat := d.byte 64 8
/-- Tiles in a row, and tile rows. -/
def Desc.tileCols (d : Desc) : Nat := cdiv d.width 16
def Desc.tileRows (d : Desc) : Nat := cdiv d.height 16
/-- 4 × 4 blocks of the target (R315). -/
def Desc.blocks4 (d : Desc) : Nat := cdiv d.width 4 * cdiv d.height 4

/-- The descriptor keeps R314. -/
def Desc.targetOk (d : Desc) : Bool :=
  decide (1 ≤ d.width) && decide (d.width ≤ 16384) && decide (1 ≤ d.height) && decide (d.height ≤ 16384)
    && decide (1 ≤ d.chans) && decide (d.chans ≤ 32) && decide (d.byte 5 1 ≤ 1) && decide (d.byte 6 1 < 4) && d.byte 7 1 == 0
    && (List.range 8).all (fun k => decide (d.byte (8 + 8 * k) 8 < 2 ^ 57) && d.byte (8 + 8 * k) 8 % 64 == 0)
    && d.byte 72 56 == 0

/-- The pixel p of tile t: x and y in the target. -/
def Desc.pixel (d : Desc) (t p : Nat) : Nat × Nat := (16 * (t % d.tileCols) + p % 16, 16 * (t / d.tileCols) + p / 16)

/-- A pixel of a tile lies inside the target. -/
def Desc.inside (d : Desc) (t p : Nat) : Bool := decide ((d.pixel t p).1 < d.width) && decide ((d.pixel t p).2 < d.height)

/-! ## SPLAT commands (R65, R315) -/

def spX0 (raw : Slot64) : Nat := rb raw 32 2
def spY0 (raw : Slot64) : Nat := rb raw 34 2
def spW (raw : Slot64) : Nat := rb raw 36 2
def spH (raw : Slot64) : Nat := rb raw 38 2
def spTri (raw : Slot64) : Bool := bit raw 321
def spProg (raw : Slot64) : Bool := bit raw 320

/-- The status of a SPLAT command whose descriptor was read (R315). -/
def splatCheck (c : Cmd) (d : Desc) : W16 :=
  let raw := c.raw
  if !d.targetOk || decide (d.tileCols < spX0 raw + spW raw) || decide (d.tileRows < spY0 raw + spH raw)
    || (d.present && decide (786432 < d.blocks4)) then stBadField
  else if spProg raw && (match assocGet (rb raw 41 1) c.progs with | some g => decide (g.role ≠ 4) | none => true) then stNotBound
  else stOk

/-! ## Depth parking (R331, R332, R347, R354) -/

/-- Depth parking in use (R354). -/
def State.parkFree (s : State) : Nat := 4096 - (s.vis.parkUsed + s.vis.parkSummary)

/-- Entries that two summary copies of a target take (R347). -/
def summaryNeed (w h : Nat) : Nat := 2 * cdiv (cdiv w 4 * cdiv h 4 * 2) 1024

/-- What waits in parking's order that a test names is dropped. -/
def State.dropParkWait (s : State) (f : ParkReq → Bool) : State :=
  { s with vis := { s.vis with parkWait := s.vis.parkWait.filter (fun w => !f w) } }

/-- The summary reservation of a partition is released, granted or asked for (R347). -/
def State.dropSummary (s : State) (p : PartId) : State :=
  let s1 := s.dropParkWait (fun w => decide (w.part = p) && w.size.isSome)
  match (s.part p).summary with
  | none => s1
  | some (w, h) =>
    ({ s1 with vis := { s1.vis with parkSummary := s1.vis.parkSummary - summaryNeed w h } }).updPart p (fun x =>
      { x with summary := none, refFrame := none, refSummary := [], spareSummary := [] })

/-- The partition's summary reservation waits for its grant. -/
def State.summaryWaits (s : State) (p : PartId) : Bool := s.vis.parkWait.any (fun w => decide (w.part = p) && w.size.isSome)

/-- A PRESENT command's target needs the partition's two summary copies at its size: one of another size is released, and a request joins
those that wait (R332, R347). -/
def State.askSummary (s : State) (p : PartId) (r : CmdRef) (cls : BitVec 2) (w h : Nat) : State :=
  let has := match s.vis.parkWait.find? (fun x => decide (x.part = p) && x.size.isSome) with
    | some x => decide (x.size = some (w, h))
    | none => decide ((s.part p).summary = some (w, h))
  if has then s
  else
    let s1 := s.dropSummary p
    { s1 with vis := { s1.vis with parkWait := s1.vis.parkWait ++ [⟨r, p, cls, some (w, h)⟩] } }

/-! ## A SPLAT command at admission (R314, R315, R342) -/

/-- The first PRESENT command of class DEADLINE after a SET_DEADLINE is the deadline's frame (R342). -/
def State.bindFrame (s : State) (p : PartId) (r : CmdRef) (cls : BitVec 2) : State :=
  if cls = 0 && (s.part p).deadline.await then
    s.updPart p (fun x => { x with deadline := { x.deadline with frame := some (r.q, r.seq), await := false } })
  else s

/-- The descriptor of an admitted SPLAT command is read and checked; a PRESENT command asks for its summary copies and may become its
partition's deadline frame. A read that faults parks the command's admission (R54). -/
def State.readTarget (s : State) (env : Env) (q : QueueId) (c : Cmd) : State :=
  let p := s.qPart q
  let r : CmdRef := ⟨q, c.seq⟩
  match s.vdesc p (rb c.raw 24 8) with
  | .bad x => s.fault env p 0 x 0 (s.cmdCtx r 0) (.command q c.seq)
  | .ok d =>
    let st := splatCheck c d
    let shows := d.present && opOf c.raw == 0x20
    let s1 := s.updCmd r (fun x => { x with descs := [(0, d)], presents := shows })
    if st ≠ stOk then s1.finish r st
    else s1.doIf shows (fun s => (s.bindFrame p r c.cls).askSummary p r c.cls d.width d.height)

end Sys2Proof.Machine
end

