-- ==== Sys2Proof/Machine/Queue.lean ====
section
/-!
DEFINITION. Sys2Proof/Machine/Queue.lean: queues (R37 to R58, R74 to R79): enable and disable, Whistles, fetch, admission, completion
records and the progress shadow.
-/

namespace Sys2Proof.Machine

/-! ## Enable, disable, resume (R41, R47) -/

/-- A power of two from 16 to 65,536. -/
def ringSizeOk (n : Nat) : Bool := (List.range 13).any (fun k => n == 2 ^ (k + 4))

/-- The descriptor keeps every rule of R41. -/
def qdescOk (d : Slot64) : Bool :=
  rb d 0 8 % 4096 == 0 && decide (rb d 0 8 < 2 ^ 57) && ringSizeOk (rb d 8 4) && decide (rb d 12 1 < 8) && rb d 13 3 == 0
    && rb d 16 8 % 4096 == 0 && decide (rb d 16 8 < 2 ^ 57) && ringSizeOk (rb d 24 4) && rb d 28 36 == 0

/-- The queue as the descriptor sets it. -/
def queueFrom (x : Queue) (d : Slot64) : Queue :=
  { x with enabled := true, badDesc := false, ring := rb d 0 8, entries := rb d 8 4, prio := fld d 96 2, stopOnErr := bit d 98,
           cplAddr := rb d 16 8, cplEntries := rb d 24 4 }

/-- The descriptor of an enable is read (R41, R459); a fault parks the enable (R450). -/
def State.readQdesc (s : State) (env : Env) (q : QueueId) : State :=
  let p := s.qPart q
  let x := s.queue q
  if !(s.part p).mmuEnable.force then s.setQueue q { x with badDesc := true }
  else match s.vslot p (x.desc.toNat * 64) with
    | .bad e => s.fault env p 0 e 0 ⟨0, some q, 0, 0, 0, 0, 0, 0⟩ (.enable q)
    | .ok d => s.setQueue q (if qdescOk d then queueFrom x d else { x with badDesc := true })

/-- ENABLE rises: head, tail and completion write position return to 0 and the descriptor is read (R47). Ignored before READY (R502). -/
def State.enableQueue (s : State) (env : Env) (q : QueueId) : State :=
  if !s.ready then s
  else
    let s1 := s.updQueue q (fun x => { x with enable := true, head := 0, tail := 0, cplWrite := 0, cur := none, fetched := [], last := none,
                                              shown := none, waited := 0 })
    s1.readQdesc env q

/-- A write to RK_QCTL (R47). -/
def State.writeQctl (s : State) (env : Env) (q : QueueId) (v : W32) : State :=
  let x := s.queue q
  let s1 := s.setQueue q { x with vec := fld v 8 4, errStop := x.errStop && !bit v 1 }
  if bit v 0 && !x.enable then s1.enableQueue env q
  else if !bit v 0 && x.enable then s1.updQueue q (fun y => { y with enable := false })
  else s1

/-- A write to the n-th queue slot of a page; a slot with no queue ignores it (R39). -/
def State.queueSlotWrite (s : State) (req : Requester) (p : PartId) (n : Fin 64) (f : QueueId → State → State) : State :=
  s.pageWrite req p (fun s => match s.slotQueue p n.val with | some q => f q s | none => s)

/-- QUEUE_ENABLE: RK_QCTL written with ENABLE 1 (R47). -/
def execQueueEnable (req : Requester) (p : PartId) (slot : Fin 64) (value : W32) (env : Env) (s : State) :
    Host.Outcome State Fault Refusal :=
  .next ((s.at env.t).queueSlotWrite req p slot (fun q s => s.writeQctl env q (value ||| 1)))

/-- QUEUE_DISABLE: RK_QCTL written with ENABLE 0: admission stops (R47). -/
def execQueueDisable (req : Requester) (p : PartId) (slot : Fin 64) (value : W32) (s : State) : Host.Outcome State Fault Refusal :=
  .next (s.queueSlotWrite req p slot (fun q s => s.writeQctl s.env0 q (value &&& ~~~1#32)))

/-- QUEUE_DISABLE_DONE: with every admitted command complete, ENABLED clears (R47). -/
def execQueueDisableDone (q : QueueId) (s : State) : Host.Outcome State Fault Refusal :=
  let x := s.queue q
  if s.ready && x.enabled && !x.enable && x.cmds.isEmpty then
    .next (s.setQueue q { x with enabled := false, cur := none, fetched := [] })
  else .next s

/-- QUEUE_RESUME: RK_QCTL written with RESUME 1 and ENABLE as it stands: a queue in ERR_STOP resumes admission (R47, R56). -/
def execQueueResume (req : Requester) (p : PartId) (slot : Fin 64) (value : W32) (s : State) : Host.Outcome State Fault Refusal :=
  .next (s.queueSlotWrite req p slot (fun q s =>
    s.writeQctl s.env0 q (setBit (value ||| 2) 0 (s.queue q).enable)))

/-! ## Whistles (R43, R44, R48) -/

/-- How far a ring position lies ahead of the head. -/
def aheadOf (x : Queue) (t : Nat) : Nat := (t + 2 * x.entries - x.head) % (2 * x.entries)

/-- A Whistle moves the tail forward, at most the ring's size ahead of the head; any other is ignored and sets BAD_WHISTLE. -/
def whistleQueue (x : Queue) (t : Nat) : Queue :=
  if x.enabled && decide (t < 2 * x.entries) && decide (aheadOf x t ≤ x.entries) && decide (aheadOf x x.tail ≤ aheadOf x t)
  then { x with tail := t } else { x with badWhistle := true }

/-- A Whistle reaches a queue; before READY, in PARTITION_ERROR and in a reset it is ignored (R457, R502, R519). -/
def State.whistleAt (s : State) (p : PartId) (q : QueueId) (t : Nat) : State :=
  if !s.ready || (s.part p).partError || (s.part p).resetting then s else s.updQueue q (fun x => whistleQueue x t)

/-- WHISTLE: RK_QWHISTLE written (R48). -/
def execWhistle (req : Requester) (p : PartId) (slot : Fin 64) (value : W32) (s : State) : Host.Outcome State Fault Refusal :=
  .next (s.queueSlotWrite req p slot (fun q s => s.whistleAt p q (fldN value 0 17)))

/-- SCALAR_WHISTLE: one scalar word of a cell: [31:26] the queue slot, [16:0] the tail; the port's partition owns the queue (R40, R44).
The sender spends credit (R10), and an idle port carries nothing (R12). -/
def execScalarWhistle (port : PortId) (word : W32) (s : State) : Host.Outcome State Fault Refusal :=
  if !s.hasCredit port .scalar 1 then .next s
  else match s.portOwner port with
    | none => .next s
    | some p => match s.slotQueue p (fldN word 26 6) with
      | none => .next (s.useCredit port .scalar 1)
      | some q => .next ((s.useCredit port .scalar 1).whistleAt p q (fldN word 0 17))

/-! ## Fetch (R42, R51, R52) -/

/-- The queue can be fetched from. -/
def State.canFetch (s : State) (q : QueueId) : Bool :=
  let x := s.queue q
  !s.qHeld q && x.fetched.isEmpty && (x.cur.isSome || decide (x.head ≠ x.tail))

/-- The best class among queues. -/
def bestClass (s : State) (l : List QueueId) : Nat := (l.map (fun q => (s.queue q).prio.toNat)).foldl min 3

/-- The queue that waited longest, the lowest first. -/
def longest (s : State) : List QueueId → Option QueueId
  | [] => none
  | q :: r => match longest s r with
    | none => some q
    | some q' => if (s.queue q).waited < (s.queue q').waited then some q' else some q

/-- The queue the Command Front fetches from: the highest class first, round-robin within it; in every 16 slots one goes to the queue of
a lower class that has waited longest (R52). -/
def State.fetchChoice (s : State) : Option QueueId :=
  let l := allQueues.filter s.canFetch
  let top := bestClass s l
  let lower := l.filter (fun q => decide (top < (s.queue q).prio.toNat) && !s.firing (s.qPart q))
  let same := l.filter (fun q => decide ((s.queue q).prio.toNat = top))
  if s.front.slot = 15 && !lower.isEmpty then longest s lower
  else
    let last := s.front.last[(BitVec.ofNat 2 top).toFin]
    match same.find? (fun q => decide (last < q)) with
    | some q => some q
    | none => same.head?

/-- The slot is counted: the chosen queue has waited no slot, the others that could fetch one more. -/
def State.fetchCount (s : State) (q : QueueId) : State :=
  let can := s.canFetch
  let cls := (s.queue q).prio.toFin
  { s with
    front := { slot := s.front.slot + 1, last := s.front.last.set cls q }
    queues := Vector.ofFn (fun k => let x := s.queues[k]; { x with waited := if k = q then 0 else if can k then x.waited + 1 else 0 }) }

/-- The next ring position. -/
def nextPos (x : Queue) : Nat := (x.head + 1) % (2 * x.entries)

/-- A command of the entry being fetched is read (R42); a fault parks the queue at that entry (R450). -/
def State.fetchCmd (s : State) (env : Env) (p : PartId) (q : QueueId) (f : Fetching) : State :=
  match s.vslot p (f.addr + 64 * f.next) with
  | .bad e => s.fault env p 0 e 0 ⟨0, some q, (s.queue q).prio, s.sel, 0, 0, 0, 0⟩ (.ring q)
  | .ok raw => s.updQueue q (fun (x : Queue) =>
      let x : Queue := { x with fetched := x.fetched ++ [({ entry := f.entry, index := f.next, raw := raw, st := 0 } : Fetched)] }
      if f.count ≤ f.next + 1 then { x with cur := none, head := nextPos x } else { x with cur := some { f with next := f.next + 1 } })

/-- The ring entry at the head is read (R42). -/
def State.fetchEntry (s : State) (env : Env) (p : PartId) (q : QueueId) : State :=
  let x := s.queue q
  match s.vread p (x.ring + 16 * (x.head % x.entries)) 16 with
  | .bad e => s.fault env p 0 e 0 ⟨0, some q, x.prio, s.sel, 0, 0, 0, 0⟩ (.ring q)
  | .ok l =>
    let w := leNat l
    let addr := nfld w 0 64
    let count := nfld w 64 32
    if addr % 64 ≠ 0 || decide (2 ^ 57 ≤ addr) || decide (65535 < count) || nfld w 96 32 ≠ 0 then
      s.setQueue q { x with fetched := x.fetched ++ [⟨x.head, 0xFFFF, 0, stBadField⟩], head := nextPos x }
    else if count = 0 then s.setQueue q { x with head := nextPos x }
    else
      let f : Fetching := ⟨x.head, addr, count, 0⟩
      (s.setQueue q { x with cur := some f }).fetchCmd env p q f

/-- COMMAND_FETCH: one fetch slot (R52); `env.hw.lists` is what the read of the queue state meets (R511). -/
def execCommandFetch (env : Env) (s : State) : Host.Outcome State Fault Refusal :=
  let s := s.at env.t
  if !s.ready then .next s
  else match s.fetchChoice with
    | none => .next s
    | some q =>
     if env.hw.lists = .failed then .next (s.errBlock 0x12 q.val)
     else
      let s1 := (s.fetchCount q).doIf (decide (env.hw.lists = .corrected)) State.errCorrected
      match (s1.queue q).cur with
      | some f => .next (s1.fetchCmd env (s.qPart q) q f)
      | none => .next (s1.fetchEntry env (s.qPart q) q)

/-! ## Admission (R53, R72, R81, R418) -/

/-- The number of the next admission in the block. -/
def State.nextSeq (s : State) : Nat := (s.queues.toList.map (·.seq)).foldl max 0

/-- An ordered flow takes the command's items after those it has (R81, R82). -/
def State.takeFlow (s : State) (p : PartId) (q : QueueId) (flow n : Nat) : Nat × State :=
  match s.ret.flows.find? (fun f => decide (f.part = p) && decide (f.flow.toNat = flow)) with
  | some f => (f.next, { s with ret := { s.ret with flows := s.ret.flows.map (fun g =>
      if g.part = p && g.flow.toNat = flow then { g with next := g.next + n } else g) } })
  | none => (0, { s with ret := { s.ret with flows := s.ret.flows ++ [⟨p, BitVec.ofNat 16 flow, q, n, 0, []⟩] } })

/-- The command as admitted (R53): checked, its completion record reserved by its place in the queue, its bindings and mode captured. -/
def admitted (s : State) (p : PartId) (q : QueueId) (f : Fetched) (n flowSeq : Nat) : Cmd :=
  let st := if f.st ≠ 0 then f.st else checkCmd s p q f.raw
  let raw := f.raw
  { seq := n, entry := f.entry, index := f.index, raw := raw,
    phase := if st = 0 then .admitted else .finished
    status := st, done := 0, total := itemsTotal raw, itemBad := false, writes := 0, next := 0, last := itemsTotal raw,
    intakeAt := rb raw 8 8, hold := false, parked := false, ovf := resolveOvf s p q raw, caddy := s.sel, gen := (s.caddy s.sel).gen,
    cls := (s.queue q).prio, flowSeq := flowSeq, hiers := (s.part p).hiers, progs := (s.part p).progs, descs := [], offset := 0,
    record := cplBit raw || irqBit raw, presents := false, held := 0 }

/-- A fetched command admitted to its queue; a SPLAT command's descriptor is read with it (R314). -/
def State.admitOne (s : State) (env : Env) (q : QueueId) (f : Fetched) : State :=
  let p := s.qPart q
  let n := s.nextSeq
  let ok := f.st = 0 && decide (checkCmd s p q f.raw = 0) && orderedBit f.raw
  let r := if ok then s.takeFlow p q (flowField f.raw) (itemsTotal f.raw) else (0, s)
  let c := admitted s p q f n r.1
  let s1 := r.2.updQueue q (fun x => { x with fetched := x.fetched.drop 1, cmds := x.cmds ++ [c], seq := n + 1 })
  if c.phase = .admitted && isSplat (opOf c.raw) && !zeroRect c.raw then s1.readTarget env q c else s1

/-- COMMAND_ADMIT: the oldest fetched command of a queue, while a completion record can be reserved (R53) and nothing holds it. -/
def execCommandAdmit (q : QueueId) (env : Env) (s : State) : Host.Outcome State Fault Refusal :=
  let s := s.at env.t
  if !s.ready || s.qHeld q || cplFull (s.queue q) then .next s
  else match (s.queue q).fetched with
    | [] => .next s
    | f :: _ => .next (s.admitOne env q f)

/-- NOP: no action; one item, done when it completes (R58, R78). -/
def execNop (q : QueueId) (s : State) : Host.Outcome State Fault Refusal :=
  match s.beginning q 0 with
  | none => .next s
  | some c => .next (s.finishOk ⟨q, c.seq⟩)

/-! ## Completion records and progress (R55, R56, R74 to R79) -/

/-- BP of R77. A command whose total is 0 shows 0 (DESIGN CHOICE, log 203: R77 states no quotient by 0). -/
def bpOf (done total : Nat) : Nat := if total = 0 then 0 else 10000 * min done total / total

/-- A completion record (R74) with its PHASE. -/
def completionBytes (s : State) (c : Cmd) (phase : Nat) : List Byte :=
  leBytes 32 (packN [(32, (tagField c.raw).toNat), (8, opOf c.raw), (8, phase), (16, c.status.toNat), (32, c.entry), (16, c.index), (16, 0),
    (64, c.done), (64, s.pins.now)])

/-- What the progress shadow shows of a command once it is done. -/
def progressOf (c : Cmd) : W32 × Byte × Nat × Nat × Nat × Nat :=
  (tagField c.raw, BitVec.ofNat 8 (opOf c.raw), c.entry, c.index, c.done, c.total)

/-- A command leaves its queue (R55); its record, if it has one, is written; an error with STOP_ON_ERR stops admission (R56). -/
def State.retire (s : State) (q : QueueId) (c : Cmd) (wrote : Bool) : State :=
  s.traceUnpin <| s.updQueue q (fun x =>
    { x with cmds := x.cmds.filter (fun d => decide (d.seq ≠ c.seq)), last := if c.index = 0xFFFF then x.last else some (progressOf c),
             cplWrite := if wrote then (x.cplWrite + 1) % (2 * x.cplEntries) else x.cplWrite,
             errStop := x.errStop || (wrote && isError c.status && x.stopOnErr) })

/-- The oldest command of a queue completes once all its result writes are acknowledged (R15): its record is written where CPL or IRQ is
set or its status is an error (R75), and IRQ raises the queue's vector (R57). A fault parks the queue's completion writes (R450). -/
def State.completeHead (s : State) (env : Env) (q : QueueId) (c : Cmd) : State :=
  let x := s.queue q
  let p := s.qPart q
  if c.record || isError c.status then
    let phase := if x.cplWrite < x.cplEntries then 1 else 0
    match s.vwrite p (x.cplAddr + 64 + 32 * (x.cplWrite % x.cplEntries)) (completionBytes s c phase) with
    | .bad e => s.fault env p 0 e 0 { s.cmdCtx ⟨q, c.seq⟩ 0 with queue := some q } (.completion q)
    | .ok s1 => (s1.retire q c true).doIf (irqBit c.raw) (·.irqPart p x.vec)
  else s.retire q c false

/-- A command can complete now: it has finished, its writes are acknowledged (R15), and a PRESENT command waits for nothing else (R351). -/
def State.canComplete (s : State) (q : QueueId) (c : Cmd) : Bool :=
  c.phase == .finished && decide (c.writes = 0) && !s.presentWaits (s.qPart q) ⟨q, c.seq⟩ c

/-- What the completion of a command does beside its record: a PRESENT command presents its frame (R351); its completion, and that of a SPLAT
command with a zero rectangle, is a VIS frame boundary (R352). -/
def State.onComplete (s : State) (q : QueueId) (c : Cmd) : State :=
  (s.doIf c.presents (·.presentFrame (s.qPart q) ⟨q, c.seq⟩ c)).doIf (zeroRect c.raw) (·.applyFrame (s.qPart q))

/-- COMPLETION_RECORD (R55, R74, R75). -/
def execCompletionRecord (q : QueueId) (env : Env) (s : State) : Host.Outcome State Fault Refusal :=
  let s := s.at env.t
  let x := s.queue q
  if !s.ready || x.cplParked || (s.part (s.qPart q)).resetting then .next s
  else match x.cmds with
    | [] => .next s
    | c :: _ => if s.canComplete q c then .next ((s.onComplete q c).completeHead env q c) else .next s

/-- What the progress shadow and RK_QPROG report: the oldest admitted, incomplete command, else the last that completed (R77, R79). A command
is incomplete until its record is written (R15, R55). The record of a bad ring entry is of no command (log 165). -/
def reported (x : Queue) : Option (W32 × Byte × Nat × Nat × Nat × Nat) :=
  match x.cmds.find? (fun c => decide (c.index ≠ 0xFFFF)) with
  | some c => some (progressOf c)
  | none => x.last

/-- The 64 B progress shadow (R79). -/
def shadowBytes (s : State) (r : W32 × Byte × Nat × Nat × Nat × Nat) : List Byte :=
  match r with
  | (tag, op, entry, index, done, total) =>
    leBytes 64 (packN [(32, tag.toNat), (8, op.toNat), (8, 0), (16, bpOf done total), (32, entry), (16, index), (16, 0), (64, done),
      (64, total), (64, s.pins.now), (192, 0)])

/-- PROGRESS_SHADOW: written when the reported command changes, and otherwise at most once in every 1,024 ns (R79). -/
def execProgressShadow (q : QueueId) (env : Env) (s : State) : Host.Outcome State Fault Refusal :=
  let s := s.at env.t
  let x := s.queue q
  if !s.ready || !x.enabled || x.cplParked || (s.part (s.qPart q)).resetting then .next s
  else match reported x with
    | none => .next s
    | some (tag, op, entry, index, done, total) =>
      let changed := decide (x.shown ≠ some (tag, entry, index))
      let due := (s.timerDue (.progress q)).isNone || s.timerFires (.progress q) env.t
      if !changed && !due then .next s
      else
        let s1 := (s.timerDel (.progress q)).timerAdd (.progress q) (s.pins.now + 1024)
        match s1.vwrite (s.qPart q) x.cplAddr (shadowBytes s1 (tag, op, entry, index, done, total)) with
        | .bad e => .next (s1.fault env (s.qPart q) 0 e 0 ⟨0, some q, x.prio, s.sel, 0, tag, 0, 0⟩ (.completion q))
        | .ok s2 => .next (s2.updQueue q (fun y => { y with shown := some (tag, entry, index) }))

end Sys2Proof.Machine
end

