-- ==== Sys2Proof/Machine/Rci.lean ====
section
/-!
DEFINITION. Sys2Proof/Machine/Rci.lean: the configuration image (R465 to R476), the partition table (R498), caddies (R417 to R421).
-/

namespace Sys2Proof.Machine

/-! ## CRC-32 of IEEE 802.3 (R466, R508) -/

/-- Eight steps of the reflected CRC-32 on one bit each. -/
def crcBits : Nat → Nat → Nat
  | 0, c => c
  | n + 1, c => crcBits n (if c % 2 = 1 then (c / 2) ^^^ 0xEDB88320 else c / 2)

/-- The CRC register after one byte. -/
def crcByte (c : Nat) (b : Byte) : Nat := crcBits 8 (c ^^^ b.toNat)

/-- CRC-32 with the IEEE 802.3 polynomial over bytes. -/
def crc32 (l : List Byte) : Nat := (l.foldl crcByte 0xFFFFFFFF) ^^^ 0xFFFFFFFF

/-- Bytes 12 to 15 read as zero. -/
def crcHole (l : List Byte) : List Byte := l.take 12 ++ [0, 0, 0, 0] ++ l.drop 16

/-! ## Field checks (R473) -/

/-- A checked value and the entries it makes. -/
abbrev Checked (α : Type) := α × List ClampE

/-- A field held to its maximum and its unit: RANGE, then ALIGN (R473). -/
def rangeField (src field part v top unit : Nat) : Checked Nat :=
  let a := min v top
  (a - a % unit, (if a = v then [] else [⟨field, 0, src, part, v, a⟩]) ++ (if a % unit = 0 then [] else [⟨field, 1, src, part, v, a - a % unit⟩]))

/-- A reserved field applied as zero with a RANGE entry. -/
def reservedField (src field part v : Nat) : List ClampE := if v = 0 then [] else [⟨field, 0, src, part, v % 2 ^ 32, 0⟩]

/-- CAP_W (R31): 0 is 280, 1 to 79 are 80, above 320 is 320. -/
def capField (src field v : Nat) : Checked Nat :=
  let a := if v = 0 then 280 else min (max v 80) 320
  (a, if v = 0 || a = v then [] else [⟨field, 0, src, 0, v, a⟩])

/-- A ring link: 0 to 23, or 0x1F for none; other encodings are none. -/
def ringField (field v : Nat) : Checked Nat :=
  if v < 24 || v = 31 then (v, []) else (31, [⟨field, 0, 0, 0, v, 31⟩])

/-- An FP_OVF field: 0b01 and 0b10 stand, the others are 0b01 (R260). -/
def ovfFieldCk (src field part v : Nat) : Checked Nat :=
  if v = 1 || v = 2 then (v, []) else (1, [⟨field, 0, src, part, v, 1⟩])

/-! ## The global section (R467) -/

/-- The bytes of an image: `rd byte n`. -/
abbrev Image := Nat → Nat → Nat

/-- The global section checked, in rising byte offset. -/
def checkGlobal (rd : Image) : Checked GlobalSec :=
  let at_ := fun byte lo => byte * 8 + lo
  let cap := capField 0 (at_ 0x42 0) (rd 0x42 2 % 512)
  let up := ringField (at_ 0x45 0) (rd 0x45 1 % 32)
  let dn := ringField (at_ 0x46 0) (rd 0x46 1 % 32)
  let d := rd 0x47 1
  let res := if d % 2 = 1 then (16384, []) else rangeField 0 (at_ 0x4C 0) 0 (rd 0x4C 4) 65536 64
  let bun := if d / 2 % 2 = 1 then (256, []) else rangeField 0 (at_ 0x50 0) 0 (rd 0x50 2) 1024 1
  let str := if d / 4 % 2 = 1 then (8, []) else rangeField 0 (at_ 0x52 0) 0 (rd 0x52 2) 32 1
  let es := reservedField 0 (at_ 0x40 2) 0 (rd 0x40 1 / 4) ++ reservedField 0 (at_ 0x41 1) 0 (rd 0x41 1 / 2)
    ++ cap.2 ++ reservedField 0 (at_ 0x42 9) 0 (rd 0x42 2 / 512)
    ++ reservedField 0 (at_ 0x44 4) 0 (rd 0x44 1 / 16)
    ++ up.2 ++ reservedField 0 (at_ 0x45 5) 0 (rd 0x45 1 / 32) ++ dn.2 ++ reservedField 0 (at_ 0x46 5) 0 (rd 0x46 1 / 32)
    ++ reservedField 0 (at_ 0x47 3) 0 (d / 8) ++ reservedField 0 (at_ 0x48 24) 0 (rd 0x48 4 / 2 ^ 24)
    ++ res.2 ++ bun.2 ++ str.2 ++ reservedField 0 (at_ 0x54 0) 0 (rd 0x54 44)
  ({ mode := BitVec.ofNat 2 (rd 0x40 1), dist := rd 0x41 1 % 2 == 1, capW := BitVec.ofNat 9 cap.1, hostPart := BitVec.ofNat 4 (rd 0x44 1),
     ringUp := BitVec.ofNat 5 up.1, ringDown := BitVec.ofNat 5 dn.1, fwdLinks := BitVec.ofNat 24 (rd 0x48 4),
     fwdReserve := res.1, fwdBundles := bun.1, fwdStrain := str.1 }, es)

/-- The agreement rules of R467: a ring link outside FWD_LINKS is no ring; a HOST_PART that is not enabled is the lowest enabled. -/
def pairGlobal (en : PartId → Bool) (g : GlobalSec) : Checked GlobalSec :=
  let low := (allParts.find? en).getD 0
  let hp : BitVec 4 := if en g.hostPart.toFin || allParts.all (fun p => !en p) then g.hostPart else BitVec.ofNat 4 low.val
  let fix := fun (r : BitVec 5) => if r = 31 || bit g.fwdLinks r.toNat then r else 31
  let pr := fun (field a b : Nat) => if a = b then [] else [(⟨field, 4, 0, 0, a, b⟩ : ClampE)]
  ({ g with hostPart := hp, ringUp := fix g.ringUp, ringDown := fix g.ringDown },
    pr (0x44 * 8) g.hostPart.toNat hp.toNat ++ pr (0x45 * 8) g.ringUp.toNat (fix g.ringUp).toNat
      ++ pr (0x46 * 8) g.ringDown.toNat (fix g.ringDown).toNat)

/-! ## Partition entries (R468, R498) -/

/-- A partition entry by field. -/
structure PartF where
  en    : Bool
  spDef : Bool
  rqDef : Bool
  sqDef : Bool
  fbase : Nat
  fcnt  : Nat
  ports : Nat
  queues : Nat
  kq    : Nat
  sp    : Nat
  rq    : Nat
  sq    : Nat
deriving DecidableEq, Repr

/-- The entry that gives nothing (R468: EN 0). -/
def PartF.off : PartF := ⟨false, false, false, false, 0, 0, 0, 0, 0, 0, 0, 0⟩

/-- The fields of four words. -/
def partOf (w : PtabWords) : PartF :=
  if !bit w[0] 63 then .off
  else ⟨true, bit w[0] 62, bit w[0] 61, bit w[0] 60, fldN w[0] 40 16, fldN w[0] 23 17, fldN w[0] 0 16, w[1].toNat,
    fldN w[2] 45 19, fldN w[2] 26 19, fldN w[2] 9 17, fldN w[3] 56 8⟩

/-- The words of an entry. -/
def wordsOf (f : PartF) : PtabWords :=
  if !f.en then Vector.replicate 4 0
  else #v[BitVec.ofNat 64 (packN [(16, f.ports), (7, 0), (17, f.fcnt), (16, f.fbase), (4, 0), (1, if f.sqDef then 1 else 0),
      (1, if f.rqDef then 1 else 0), (1, if f.spDef then 1 else 0), (1, 1)]),
    BitVec.ofNat 64 f.queues,
    BitVec.ofNat 64 (packN [(9, 0), (17, f.rq), (19, f.sp), (19, f.kq)]),
    BitVec.ofNat 64 (packN [(56, 0), (8, f.sq)])]

/-- FIELD_ID of a field of a partition entry: in the image or in the register (R475). -/
def partFid (src : Nat) (p : PartId) (w lo : Nat) : Nat :=
  if src = 0 then (0x80 + 64 * p.val + 8 * w) * 8 + lo else regField (0xC00 + 32 * p.val + 8 * w) lo

/-- One entry checked field by field, in rising offset (R473); an entry with EN 0 is not checked further (R468). -/
def checkPart (src : Nat) (p : PartId) (w : PtabWords) : Checked PartF :=
  let f := partOf w
  if !f.en then (.off, [])
  else
    let fid := partFid src p
    let cmax := min 65536 (65536 - f.fbase)
    let fc := rangeField src (fid 0 23) p.val f.fcnt cmax 1
    let rq := if f.rqDef then (f.rq, []) else rangeField src (fid 2 9) p.val f.rq 65536 64
    let sp := if f.spDef then (f.sp, []) else rangeField src (fid 2 26) p.val f.sp 262144 64
    let kq := rangeField src (fid 2 45) p.val f.kq 262144 64
    let sq := if f.sqDef then (f.sq, []) else rangeField src (fid 3 56) p.val f.sq 128 1
    ({ f with fcnt := fc.1, rq := rq.1, sp := sp.1, kq := kq.1, sq := sq.1 },
      reservedField src (fid 0 16) p.val (fldN w[0] 16 7) ++ fc.2 ++ reservedField src (fid 0 56) p.val (fldN w[0] 56 4)
        ++ reservedField src (fid 2 0) p.val (fldN w[2] 0 9) ++ rq.2 ++ sp.2 ++ kq.2
        ++ reservedField src (fid 3 0) p.val (fldN w[3] 0 56) ++ sq.2)

/-- FP_DEF and the reserved bytes after it (R468); on a part without the SPLAT engine a non-zero OVF_SPLAT is ABSENT (R36, R473). -/
def checkFpDef (splat : Bool) (p : PartId) (b : Nat) (tail : Nat) : Checked Nat :=
  let fid := (0x80 + 64 * p.val + 32) * 8
  let tr := ovfFieldCk 0 fid p.val (b % 4)
  let sp := if splat then ovfFieldCk 0 (fid + 2) p.val (b / 4 % 4)
    else (0, if b / 4 % 4 = 0 then [] else [⟨fid + 2, 5, 0, p.val, b / 4 % 4, 0⟩])
  (tr.1 + 4 * sp.1, tr.2 ++ sp.2 ++ reservedField 0 (fid + 4) p.val (b / 16) ++ reservedField 0 (fid + 8) p.val tail)

/-! ## Sum and overlap rules (R86, R188, R202, R473) -/

/-- A table of entries. -/
abbrev PartTable := Vector PartF 16

/-- The entry with a quota changed, by a setter. -/
def PartTable.upd (t : PartTable) (p : PartId) (f : PartF → PartF) : PartTable := t.set p (f t[p])

/-- Quotas lowered from the highest-numbered partition of the load until `excess` is gone; one SUM entry for each change. -/
def lowerSum (src : Nat) (get : PartF → Nat) (put : PartF → Nat → PartF) (w lo : Nat) :
    List PartId → Nat → PartTable → Checked PartTable
  | [], _, t => (t, [])
  | p :: r, excess, t =>
    let q := get t[p]
    let cut := min excess q
    if cut = 0 then lowerSum src get put w lo r excess t
    else
      let x := lowerSum src get put w lo r (excess - cut) (t.upd p (fun f => put f (q - cut)))
      (x.1, ⟨partFid src p w lo, 2, src, p.val, q, q - cut⟩ :: x.2)

/-- The sum of a quota over the table. -/
def sumOf (get : PartF → Nat) (t : PartTable) : Nat := (t.toList.map get).sum

/-- Counting defaults of the loaded entries (R188, R202), by the number of enabled entries. -/
def fillDefaults (loaded : List PartId) (t : PartTable) : PartTable :=
  let n := max 1 (t.toList.filter (·.en)).length
  loaded.foldl (fun t p => t.upd p (fun f =>
    if !f.en then f
    else { f with rq := if f.rqDef then 65536 / n / 64 * 64 else f.rq, sq := if f.sqDef then 128 / n else f.sq })) t

/-- SPILL_RESERVE against the quota applied after the sum rule (R86, R473): default an eighth, at most half, multiples of 64. -/
def spillRule (src : Nat) : List PartId → PartTable → Checked PartTable
  | [], t => (t, [])
  | p :: r, t =>
    let f := t[p]
    let top := f.kq / 2 / 64 * 64
    if !f.en then spillRule src r t
    else if f.spDef then spillRule src r (t.upd p (fun f => { f with sp := f.kq / 8 / 64 * 64 }))
    else if f.sp ≤ f.kq / 2 then spillRule src r t
    else
      let x := spillRule src r (t.upd p (fun f => { f with sp := top }))
      (x.1, ⟨partFid src p 2 26, 0, src, p.val, f.sp, top⟩ :: x.2)

/-- Bits that a lower-numbered enabled partition names too, removed (R473 OVERLAP). -/
def maskOverlap (below : Nat) (v : Nat) : Nat := v &&& (2 ^ 128 - 1 - below % 2 ^ 128)

/-- Two flow ranges meet, flow 0 aside. -/
def flowsMeet (a b : PartF) : Bool :=
  decide (max (max a.fbase b.fbase) 1 < min (a.fbase + a.fcnt) (b.fbase + b.fcnt))

/-- An enabled entry without what the entries `low` of lower-numbered partitions name too: ports, queues, and its whole flow range where it
meets one of theirs. -/
def overlapOne (src : Nat) (p : PartId) (low : List PartF) (f : PartF) : Checked PartF :=
  let ports := maskOverlap (low.foldl (fun a k => a ||| k.ports) 0) f.ports
  let queues := maskOverlap (low.foldl (fun a k => a ||| k.queues) 0) f.queues
  let bad := f.fcnt ≠ 0 && low.any (flowsMeet f)
  if !f.en then (f, [])
  else ({ f with ports := ports, queues := queues, fcnt := if bad then 0 else f.fcnt },
    (if ports = f.ports then [] else [(⟨partFid src p 0 0, 3, src, p.val, f.ports, ports⟩ : ClampE)])
      ++ (if bad then [(⟨partFid src p 0 23, 3, src, p.val, f.fcnt, 0⟩ : ClampE)] else [])
      ++ (if queues = f.queues then [] else [(⟨partFid src p 1 0, 3, src, p.val, f.queues % 2 ^ 32, queues % 2 ^ 32⟩ : ClampE)]))

/-- The enabled entries below a partition. -/
def PartTable.below (t : PartTable) (p : PartId) : List PartF := (allParts.filter (fun k => decide (k < p) && t[k].en)).map (fun k => t[k])

/-- Overlaps removed, partitions in rising order. -/
def overlapRule (src : Nat) (loaded : List PartId) : List PartId → PartTable → Checked PartTable
  | [], t => (t, [])
  | p :: r, t =>
    let g := overlapOne src p (t.below p) t[p]
    let x := overlapRule src loaded r (t.upd p (fun _ => g.1))
    (x.1, (if loaded.contains p then g.2 else []) ++ x.2)

/-- The table after the sum and overlap rules (R471 step 5). -/
def resolveTable (src : Nat) (loaded : List PartId) (fwdReserve fwdStrain : Nat) (t : PartTable) : Checked PartTable :=
  let down := loaded.reverse
  let t0 := fillDefaults loaded t
  let k := lowerSum src (·.kq) (fun f n => { f with kq := n }) 2 45 down (sumOf (·.kq) t0 + fwdReserve - 262144) t0
  let r := lowerSum src (·.rq) (fun f n => { f with rq := n }) 2 9 down (sumOf (·.rq) k.1 - 65536) k.1
  let q := lowerSum src (·.sq) (fun f n => { f with sq := n }) 3 56 down (sumOf (·.sq) r.1 - (128 - fwdStrain)) r.1
  let sp := spillRule src loaded q.1
  let ov := overlapRule src loaded allParts sp.1
  (ov.1, k.2 ++ r.2 ++ q.2 ++ sp.2 ++ ov.2)

/-- The table in force. -/
def State.table (s : State) : PartTable := Vector.ofFn (fun p => partOf (s.cfg.ptab[p].map (fun w => w.force.get)))

/-! ## Caddies (R417, R469) -/

/-- Bit offset of a field of a caddy entry. -/
def caddyFid (c : CaddyId) (p : PartId) (byte lo : Nat) : Nat := (0x480 + 512 * c.val + 32 * p.val + byte) * 8 + lo

/-- One caddy entry, before the overlap rule. -/
def checkCaddyEnt (rd : Image) (c : CaddyId) (p : PartId) : Checked CaddyEnt :=
  let o := 0x480 + 512 * c.val + 32 * p.val
  let fid := caddyFid c p
  (⟨BitVec.ofNat 128 (rd o 16), BitVec.ofNat 16 (rd (o + 16) 2), BitVec.ofNat 5 (rd (o + 18) 1), BitVec.ofNat 5 (rd (o + 19) 1),
     BitVec.ofNat 2 (rd (o + 20) 1)⟩,
    reservedField 0 (fid 18 5) p.val (rd (o + 18) 1 / 32) ++ reservedField 0 (fid 19 5) p.val (rd (o + 19) 1 / 32)
      ++ reservedField 0 (fid 20 2) p.val (rd (o + 20) 1 / 4) ++ reservedField 0 (fid 21 0) p.val (rd (o + 21) 11))

/-- TUs and cores that a lower-numbered enabled partition names too, removed. -/
def caddyOverlap (c : CaddyId) : List PartId → Nat → Nat → Vector CaddyEnt 16 → Checked (Vector CaddyEnt 16)
  | [], _, _, v => (v, [])
  | p :: r, tus, cores, v =>
    let e := v[p]
    let a := maskOverlap tus e.tus.toNat
    let b := maskOverlap cores e.cores.toNat
    let x := caddyOverlap c r (tus ||| a) (cores ||| b) (v.set p { e with tus := BitVec.ofNat 128 a, cores := BitVec.ofNat 16 b })
    (x.1, (if a = e.tus.toNat then [] else [(⟨caddyFid c p 0 0, 3, 0, p.val, e.tus.toNat % 2 ^ 32, a % 2 ^ 32⟩ : ClampE)])
      ++ (if b = e.cores.toNat then [] else [(⟨caddyFid c p 16 0, 3, 0, p.val, e.cores.toNat, b⟩ : ClampE)]) ++ x.2)

/-- The fields of one caddy of an image, in rising offset: entries of partitions with EN 0 are ignored (R469, R471 step 4). -/
def checkCaddy (rd : Image) (c : CaddyId) (en : PartId → Bool) : Checked CaddyLoad :=
  let on := allParts.filter en
  (⟨c, on.foldl (fun (v : Vector CaddyEnt 16) (p : PartId) => v.set p (checkCaddyEnt rd c p).1) (Vector.replicate 16 .none)⟩,
    on.flatMap (fun p => (checkCaddyEnt rd c p).2))

/-- The overlap rule on one caddy (R471 step 5). -/
def resolveCaddy (l : CaddyLoad) (en : PartId → Bool) : Checked CaddyLoad :=
  let x := caddyOverlap l.caddy (allParts.filter en) 0 0 l.ents
  (⟨l.caddy, x.1⟩, x.2)

/-- A caddy loaded: its generation moves on, modulo 64 (R419). -/
def State.loadCaddy (s : State) (l : CaddyLoad) : State :=
  { s with cfg := { s.cfg with caddies := s.cfg.caddies.set l.caddy ⟨s.cfg.caddies[l.caddy].gen + 1, l.ents⟩ } }

/-! ## Sections applied (R474) -/

/-- The bits of an entry's words that are fields; the others are RO and read zero (R498). -/
def ptabFields : PtabWords := #v[0xF0FFFFFFFF80FFFF, 0xFFFFFFFFFFFFFFFF, 0xFFFFFFFFFFFFFE00, 0xFF00000000000000]

/-- A partition entry in force, both copies, voted. -/
def State.putPtab (s : State) (p : PartId) (w : PtabWords) : State :=
  { s with cfg := { s.cfg with ptab := s.cfg.ptab.set p ((w.zipWith (· &&& ·) ptabFields).map (fun x => Sh.both (Tri.all x))) } }

/-- FP_DEF written to RK_FP_CTL: into the shadows, and into force where `now`. -/
def State.putFpDef (s : State) (p : PartId) (b : Byte) (now : Bool) : State :=
  let tr := fld b 0 2
  let sp := fld b 2 2
  let s1 := { s with cfg := { s.cfg with fpDef := s.cfg.fpDef.set p b } }
  s1.updPart p (fun x => { x with ovfTraverse := ⟨tr, if now then tr else x.ovfTraverse.force⟩,
                                  ovfSplat := ⟨sp, if now then sp else x.ovfSplat.force⟩ })

/-- The table as it will stand: the waiting entries, and those in force of the partitions with none. -/
def State.tableDue (s : State) : PartTable :=
  s.cfg.waitPart.foldl (fun (t : PartTable) (l : PartLoad) => t.set l.part (partOf l.words)) s.table

/-- A partition loses in force what a lower-numbered entry that applies names too; its shadow follows unless a CSR write has left another
there. -/
def State.stripPart (s : State) (p : PartId) (f : PartF) : State :=
  let w := wordsOf f
  let kept := s.cfg.waitPart.any (fun l => l.csr && decide (l.part = p))
  { s with cfg := { s.cfg with ptab := s.cfg.ptab.set p ((s.cfg.ptab[p]).zipWith
      (fun (x : Sh (Tri W64)) (y : W64) => (⟨if kept then x.shadow else .all y, .all y⟩ : Sh (Tri W64))) w) } }

/-- The overlap rule of R473 as entry `p` with fields `f` applies: every higher-numbered enabled partition loses what `f` names, with an
OVERLAP entry unless an entry of its own waits, whose check has made it. -/
def State.takeOver (s : State) (src : Nat) (p : PartId) (f : PartF) : Checked State :=
  (allParts.filter (fun r => decide (p < r))).foldl (fun (a : Checked State) r =>
    let old := a.1.table[r]
    let g := overlapOne src r [f] old
    if g.1 = old then a
    else (a.1.stripPart r g.1, a.2 ++ (if a.1.cfg.waitPart.any (fun l => decide (l.part = r)) then [] else g.2))) (s, [])

/-- FLOW_BUDGET in force is held to the RET_QUOTA that a section of a load changed (R482). -/
def State.recheckFlow (s : State) (p : PartId) : State :=
  let v := (s.part p).flowBudget.force
  let fb := s.pairFlow p v
  if fb = v then s
  else (s.updPart p (fun x => { x with flowBudget := ⟨x.flowBudget.shadow, fb⟩ })).clampEntry (regField (pageOff p 0x18) 0) 4 2 p.val v.toNat fb.toNat

/-- Clamp entries written in order. -/
def State.clampAll (s : State) (l : List ClampE) : State :=
  l.foldl (fun s e => s.clampEntry e.field e.kind e.source e.part e.given e.applied) s

/-- Entries of a section. -/
def noteAs (o : Option Section) (l : List ClampE) : List (Option Section × ClampE) := l.map (fun e => (o, e))

/-- A partition section applied, under the overlap rule with the entries that lower-numbered partitions will have; HOST_PART is checked
again where EN changes (R467), and FLOW_BUDGET where a load changed the quota (R482). Entries of a load join its report, those of a CSR
write are written. -/
def State.applySection (s : State) (l : PartLoad) (now : Bool) : State :=
  let was := s.partEn l.part
  let src := if l.csr then 1 else 0
  let me := overlapOne src l.part (s.tableDue.below l.part) (partOf l.words)
  let ov := (s.putPtab l.part (if me.1.en then wordsOf me.1 else l.words)).takeOver src l.part me.1
  let es := me.2 ++ ov.2
  let s1 := if l.csr then ov.1.clampAll es
    else { ov.1 with cfg := { ov.1.cfg with notes := ov.1.cfg.notes ++ noteAs (some (.part l.part)) es } }
  let s2 := match l.fpDef with | some b => s1.putFpDef l.part b now | none => s1
  ((s2.doIf (decide (s2.partEn l.part ≠ was) && !now) (·.recheckHost)).doIf (!now && !l.csr) (·.recheckFlow l.part)).grantPorts

/-- Every session of the current FWD_LINKS is DOWN. -/
def State.sessionsDown (s : State) : Bool :=
  (List.finRange 24).all (fun l => !bit s.cfg.fwdLinks l.val || decide (s.fwd.sess[l].state = 0))

/-- A DEFERRED entry for a field that differs (R474). -/
def deferred (field a b : Nat) : List ClampE := if a = b then [] else [⟨field, 6, 0, 0, a, b⟩]

/-- Entries of the forwarding fields that a later load cannot apply while a session is not DOWN. -/
def State.globalDeferred (s : State) (g : GlobalSec) : List ClampE :=
  if s.sessionsDown then []
  else deferred (0x45 * 8) g.ringUp.toNat s.cfg.ringUp.toNat ++ deferred (0x46 * 8) g.ringDown.toNat s.cfg.ringDown.toNat
    ++ deferred (0x48 * 8) g.fwdLinks.toNat s.cfg.fwdLinks.toNat ++ deferred (0x4C * 8) g.fwdReserve s.cfg.fwdReserve
    ++ deferred (0x50 * 8) g.fwdBundles s.cfg.fwdBundles ++ deferred (0x52 * 8) g.fwdStrain s.cfg.fwdStrain

/-- The global section applied (R467, R474): `start` at the start-up load, which counts as a boundary of every kind. -/
def State.applyGlobal (s : State) (g : GlobalSec) (start : Bool) : State :=
  let s1 := { s with
    pwr := { s.pwr with mode := .both g.mode, capW := g.capW }
    arr := { s.arr with dist := .both g.dist }
    fwd := { s.fwd with hostPart := ⟨g.hostPart, if start then g.hostPart else s.fwd.hostPart.force⟩
                        hostNew := !start && decide (g.hostPart ≠ s.fwd.hostPart.force) } }
  if s.sessionsDown || start then
    { s1 with cfg := { s1.cfg with ringUp := g.ringUp, ringDown := g.ringDown, fwdLinks := g.fwdLinks, fwdReserve := g.fwdReserve,
                                   fwdBundles := g.fwdBundles, fwdStrain := g.fwdStrain } }
  else s1

/-- Step 7 of R471: the entries are written, BUSY clears, DONE is set and vector 6 is raised under CFG_IRQ. -/
def State.endLoad (s : State) (reject : BitVec 3) : State :=
  let s1 := s.clampAll (s.cfg.notes.map (·.2))
  ({ s1 with cfg := { s1.cfg with notes := [], busy := false, done := true, state := 0, reject := reject } }).doIf s.csr.cfgIrq (·.irqBlock 6)

/-- Nothing of the load waits any more. -/
def State.loadIdle (s : State) : Bool :=
  s.cfg.waitPart.all (·.csr) && s.cfg.waitCaddy.isEmpty && s.cfg.waitGlobal.isNone

/-! ## The load (R470 to R472) -/

/-- BP of step 6 of start-up with `n` of the 7 steps of R471 complete (R504, R505). -/
def bp7 (n : Nat) : BitVec 14 := BitVec.ofNat 14 (10000 * n / 7)

/-- The image's bytes: from memory at a physical address, or from the window. -/
def State.image (s : State) : Image :=
  if s.cfg.srcWin then fun b n => s.cfg.window.num b n else fun b n => s.mem.num (4096 * s.cfg.src.toNat + b) n

/-- The 4,096 bytes. -/
def State.imageBytes (s : State) : List Byte :=
  if s.cfg.srcWin then s.cfg.window.read 0 4096 else s.mem.read (4096 * s.cfg.src.toNat) 4096

/-- The REJECT code of an image (R472), 0 where it is accepted. -/
def State.rejectCode (s : State) (readError start : Bool) : BitVec 3 :=
  let rd := s.image
  if readError then 5
  else if rd 0 4 ≠ 0x31494352 then 1
  else if rd 4 1 ≠ 1 then 2
  else if rd 8 4 ≠ 4096 || rd 5 3 ≠ 0 || decide (16 ≤ rd 24 1) || rd 25 39 ≠ 0 then 3
  else if crc32 (crcHole s.imageBytes) ≠ rd 12 4 then 4
  else if start && rd 24 1 % 2 = 0 then 6
  else 0

/-- A checked image: what applies, and the entries with their sections. -/
structure Load where
  glob   : Option GlobalSec
  parts  : List PartLoad
  caddies : List CaddyLoad
  notes  : List (Option Section × ClampE)
deriving DecidableEq, Repr

/-- Entries of partition fields, each with its partition's section. -/
def notePart (l : List ClampE) : List (Option Section × ClampE) :=
  l.map (fun e => (some (Section.part (BitVec.ofNat 4 e.part).toFin), e))

/-- Steps 4 and 5 of R471 on the selected sections. -/
def State.checkImage (s : State) (selG : Bool) (selP : BitVec 16) (selC : BitVec 4) : Load :=
  let rd := s.image
  let loaded := allParts.filter (fun p => bit selP p.val)
  let g := checkGlobal rd
  let word := fun (p : PartId) (w : Nat) => BitVec.ofNat 64 (rd (0x80 + 64 * p.val + 8 * w) 8)
  let ck := fun (p : PartId) => checkPart 0 p #v[word p 0, word p 1, word p 2, word p 3]
  let fp := fun (p : PartId) =>
    if (ck p).1.en then checkFpDef s.hasSplat p (rd (0x80 + 64 * p.val + 32) 1) (rd (0x80 + 64 * p.val + 33) 31)
    else (0, [])
  let t0 : PartTable := loaded.foldl (fun (t : PartTable) (p : PartId) => t.set p (ck p).1) s.table
  let res := if selG then g.1.fwdReserve else s.cfg.fwdReserve
  let str := if selG then g.1.fwdStrain else s.cfg.fwdStrain
  let t := resolveTable 0 loaded res str t0
  let en := fun (p : PartId) => t.1[p].en
  let pg := pairGlobal en g.1
  let cads := (List.finRange 4).filter (fun c => bit selC c.val && bit (BitVec.ofNat 8 (rd 24 1)) c.val)
  let ckC := fun (c : CaddyId) => checkCaddy rd c en
  let ovC := fun (c : CaddyId) => resolveCaddy (ckC c).1 en
  { glob := if selG then some pg.1 else none
    parts := loaded.map (fun p => ⟨p, wordsOf t.1[p], if t.1[p].en then some (BitVec.ofNat 8 (fp p).1) else none, false⟩)
    caddies := cads.map (fun c => (ovC c).1)
    notes := noteAs (some .global) (if selG then g.2 else [])
      ++ notePart (loaded.flatMap (fun p => (ck p).2 ++ (fp p).2))
      ++ cads.flatMap (fun c => noteAs (some (.caddy c)) (ckC c).2)
      ++ noteAs none (reservedField 0 (0xC80 * 8) 0 (rd 0xC80 0x380))
      ++ notePart t.2
      ++ cads.flatMap (fun c => noteAs (some (.caddy c)) (ovC c).2)
      ++ noteAs (some .global) (if selG then pg.2 else []) }

/-- The start-up load applied: every section; caddies the image does not load are copies of caddy 0; every generation moves on
(R417, R419, R470, R474). The image gives every partition's entry, so an entry that a CSR write left waiting is superseded. -/
def State.applyStart (s : State) (l : Load) : State :=
  let s0 := { s with cfg := { s.cfg with waitPart := [] } }
  let s1 := match l.glob with | some g => s0.applyGlobal g true | none => s0
  let s2 := l.parts.foldl (fun s x => s.applySection x true) s1
  let s3 := l.caddies.foldl State.loadCaddy s2
  let zero := s3.cfg.caddies[(0 : CaddyId)].ents
  let rest := (List.finRange 4).filter (fun c => !l.caddies.any (fun x => decide (x.caddy = c)))
  (rest.foldl (fun s c => s.loadCaddy ⟨c, zero⟩) s3).applyAll

/-- CFG_IMAGE_READ: steps 2 to 6 of R471. -/
def execCfgImageRead (readError : Bool) (s : State) : Host.Outcome State Fault Refusal :=
  if !s.live || s.errored || !s.cfg.busy || s.cfg.state ≠ 1 then .next s
  else
    let start := decide (s.boot.step = 6)
    let code := s.rejectCode readError start
    if code ≠ 0 then
      .next ((s.endLoad code).doIf start (fun s => (s.stall 7 (BitVec.ofNat 32 code.toNat)).setBp (bp7 (if readError then 1 else 2))))
    else if start then
      let l := s.checkImage true 0xFFFF 0xF
      let s1 := { s with cfg := { s.cfg with notes := l.notes } }
      let s2 := (s1.applyStart l).endLoad 0
      let s3 := { s2.bootStep 7 with cfg := { (s2.bootStep 7).cfg with sel := .all 0 } }
      .next ((s3.bootStep 8).stall 8 0)
    else
      let l := s.checkImage s.cfg.glob s.cfg.partMask s.cfg.caddyMask
      let s1 := { s with cfg := { s.cfg with notes := l.notes, waitGlobal := l.glob, waitPart := s.cfg.waitPart ++ l.parts,
                                             waitCaddy := l.caddies, state := 3 } }
      .next (s1.doIf s1.loadIdle (·.endLoad 0))

/-! ## Waiting sections (R474) -/

/-- Partitions that gain or give up a queue, port or flow through an entry: its own where anything changes, and those that hold now what
it gains. -/
def State.touched (s : State) (l : PartLoad) : List PartId :=
  let old := partOf (s.cfg.ptab[l.part].map (fun w => w.force.get))
  let new := partOf l.words
  let changes := old.ports ≠ new.ports || old.queues ≠ new.queues || old.fbase ≠ new.fbase || old.fcnt ≠ new.fcnt
  let t := s.table
  allParts.filter (fun p =>
    if p = l.part then changes
    else (t[p].ports &&& new.ports &&& maskOverlap old.ports (2 ^ 16 - 1)) != 0
      || (t[p].queues &&& new.queues &&& maskOverlap old.queues (2 ^ 64 - 1)) != 0
      || (flowsMeet t[p] new && (old.fbase ≠ new.fbase || old.fcnt ≠ new.fcnt)))

/-- Every queue that changes owner has ENABLED 0. -/
def State.movedDisabled (s : State) (l : PartLoad) : Bool :=
  let old := partOf (s.cfg.ptab[l.part].map (fun w => w.force.get))
  let new := partOf l.words
  allQueues.all (fun q => !(Nat.testBit (old.queues ^^^ new.queues) q.val) || !(s.queue q).enabled)

/-- A partition section can apply (R474, R481): the partitions it concerns are at boundaries (`at_`), no queue that moves is enabled, the
partition's boundaries are not held. An entry that a CSR write gave is a shadow (R498), which applies from READY on, at a batch boundary of
its partition. -/
def State.partReady (s : State) (at_ : PartId → Bool) (l : PartLoad) : Bool :=
  !s.cfg.freeze && (s.touched l).all at_ && s.movedDisabled l && !(s.part l.part).hold && (!l.csr || (s.ready && at_ l.part))

/-- The entry of `p` that a CSR write left waiting applies, where it can. -/
def State.applyPtab (s : State) (at_ : PartId → Bool) (p : PartId) : State :=
  match s.cfg.waitPart.find? (fun l => l.csr && decide (l.part = p)) with
  | none => s
  | some l => if s.partReady at_ l then ({ s with cfg := { s.cfg with waitPart := s.cfg.waitPart.erase l } }).applySection l false else s

/-- A batch boundary of a partition: its partition-table entry written by CSR, and every batch shadow of its page, apply together (R414, R480,
R498). -/
def State.boundaryPart (s : State) (at_ : PartId → Bool) (p : PartId) : State := (s.applyPtab at_ p).applyPart p

/-- Every shadow of every scope, the partition table's among them, as MMU_GO applies them (R501 step 8, R502). -/
def State.applyShadows (s : State) : State :=
  let ws := if s.cfg.freeze then [] else s.cfg.waitPart.filter (·.csr)
  (ws.foldl (fun s l => ({ s with cfg := { s.cfg with waitPart := s.cfg.waitPart.erase l } }).applySection l false) s).applyAll

/-- CFG_SECTION_APPLY: a waiting section applies at its boundary; the load ends with its last (R471, R474). -/
def execCfgSectionApply (sec : Section) (s : State) : Host.Outcome State Fault Refusal :=
  if !s.live || s.errored then .next s
  else match sec with
    | .part p => match s.cfg.waitPart.find? (fun l => decide (l.part = p)) with
      | none => .next s
      | some l =>
        if !s.partReady s.partIdle l then .next s
        else
          let s1 := { s with cfg := { s.cfg with waitPart := s.cfg.waitPart.erase l } }
          let s2 := (s1.applySection l false).doIf l.csr (·.applyPart p)
          .next (s2.doIf (s2.cfg.busy && decide (s2.cfg.state = 3) && s2.loadIdle) (·.endLoad 0))
    | .global => match s.cfg.waitGlobal with
      | none => .next s
      | some g =>
        if !s.blockIdle || s.csr.hold then .next s
        else
          let es := s.globalDeferred g
          let s1 := s.applyGlobal g false
          let s2 := { s1 with cfg := { s1.cfg with waitGlobal := none, notes := s1.cfg.notes ++ noteAs (some .global) es } }
          .next (s2.doIf s2.loadIdle (·.endLoad 0))
    | .caddy c => match s.cfg.waitCaddy.find? (fun l => decide (l.caddy = c)) with
      | none => .next s
      | some l =>
        if s.pinned (BitVec.ofNat 2 c.val) then .next s
        else
          let s1 := { s with cfg := { s.cfg with waitCaddy := s.cfg.waitCaddy.erase l } }
          let s2 := s1.loadCaddy l
          .next (s2.doIf s2.loadIdle (·.endLoad 0))

/-! ## RK_CFG_CTL (R470, R474, R495) -/

/-- CANCEL: sections of the load that have not applied are dropped with their entries, and the load ends. -/
def State.cancelLoad (s : State) : State :=
  if !s.cfg.busy || s.cfg.state ≠ 3 then s
  else
    let dead := fun (o : Option Section) => match o with
      | some (.part p) => s.cfg.waitPart.any (fun l => decide (l.part = p) && !l.csr)
      | some .global => s.cfg.waitGlobal.isSome
      | some (.caddy c) => s.cfg.waitCaddy.any (fun l => decide (l.caddy = c))
      | none => false
    let s1 := { s with cfg := { s.cfg with notes := s.cfg.notes.filter (fun e => !dead e.1), waitPart := s.cfg.waitPart.filter (·.csr),
                                           waitCaddy := [], waitGlobal := none } }
    s1.endLoad 0

/-- GO: a load begins (R471 step 1), unless one runs or start-up step 6 has not begun (R470). -/
def State.startLoad (s : State) : State :=
  if s.cfg.busy || decide (s.boot.step.toNat < 6) then s
  else { s with cfg := { s.cfg with busy := true, state := 1, clamps := 0, writePos := 0, reject := 0, notes := [] },
                boot := if s.boot.step = 6 then { s.boot with stall := 0, detail := 0, bp := bp7 1 } else s.boot }

/-- A write to RK_CFG_CTL; `m` marks the bits written. FREEZE is KL-W1: set once, under the lock (R486, R487, R529). -/
def State.regCfgCtl (s : State) (u : Bool) (v m : W64) : State :=
  let c := s.cfg
  let pick := fun (i : Nat) (old : Bool) => if bit m i then bit v i else old
  let s1 := { s with cfg := { c with
    srcWin := pick 56 c.srcWin, caddyMask := (c.caddyMask &&& ~~~ fld m 52 4) ||| (fld v 52 4 &&& fld m 52 4),
    partMask := (c.partMask &&& ~~~ fld m 32 16) ||| (fld v 32 16 &&& fld m 32 16), glob := pick 31 c.glob } }
  let targets := bit m 60 && decide (bit v 60 ≠ c.freeze)
  let s2 := if !targets then s1 else if u && !c.freeze then { s1 with cfg := { s1.cfg with freeze := true } } else s1.lockViolation
  let s3 := s2.doIf (bit m 62 && bit v 62) (·.cancelLoad)
  s3.doIf (bit m 63 && bit v 63) (·.startLoad)

/-- CFG_GO: RK_CFG_CTL written with GO 1 (R470). -/
def execCfgGo (req : Requester) (value : W64) (s : State) : Host.Outcome State Fault Refusal :=
  .next (s.globalWrite req (fun u s => s.regCfgCtl u (setBit value 63 true) (BitVec.allOnes 64)))

/-- CFG_CANCEL: RK_CFG_CTL written with CANCEL 1 (R474). -/
def execCfgCancel (req : Requester) (value : W64) (s : State) : Host.Outcome State Fault Refusal :=
  .next (s.globalWrite req (fun u s => s.regCfgCtl u (setBit value 62 true) (BitVec.allOnes 64)))

/-- FREEZE: RK_CFG_CTL written with FREEZE 1 (R495). -/
def execFreeze (req : Requester) (value : W64) (s : State) : Host.Outcome State Fault Refusal :=
  .next (s.globalWrite req (fun u s => s.regCfgCtl u (setBit value 60 true) (BitVec.allOnes 64)))

/-! ## RK_PTABp_W0 to W3 (R498) -/

/-- A write to a word of a partition's entry: checked with SOURCE 1 and waiting as a load of that entry; key-locked, and a lock violation
while FREEZE is 1. Reserved bits are RO: a write of them is ignored and no violation (R7, R8). -/
def State.regPtab (s : State) (u : Bool) (p : PartId) (w : Fin 4) (v m : W64) : State :=
  let cur := s.cfg.ptab[p].map (fun x => x.shadow.get)
  let k := m &&& ptabFields[w]
  let nv := (cur[w] &&& ~~~k) ||| (v &&& k)
  if nv = cur[w] then s
  else if !u || s.cfg.freeze then s.lockViolation
  else
    let ck := checkPart 1 p (cur.set w nv)
    let t := resolveTable 1 [p] s.cfg.fwdReserve s.cfg.fwdStrain (s.tableDue.set p ck.1)
    let words := if bit (cur.set w nv)[(0 : Fin 4)] 63 then wordsOf t.1[p] else cur.set w nv
    let l : PartLoad := ⟨p, words, none, true⟩
    let s1 := { s with cfg := { s.cfg with
      ptab := s.cfg.ptab.set p ((s.cfg.ptab[p]).zipWith (fun (x : Sh (Tri W64)) (y : W64) => (⟨Tri.all y, x.force⟩ : Sh (Tri W64))) words)
      waitPart := s.cfg.waitPart.filter (fun (x : PartLoad) => !(x.csr && decide (x.part = p))) ++ [l] } }
    s1.clampAll (ck.2 ++ t.2)

/-- PTAB_WRITE (R498). -/
def execPtabWrite (req : Requester) (p : PartId) (w : Fin 4) (value : W64) (s : State) : Host.Outcome State Fault Refusal :=
  .next (s.globalWrite req (fun u s => s.regPtab u p w value (BitVec.allOnes 64)))

/-! ## The selected caddy (R419, R421) -/

/-- A write to RK_CADDY_SEL.SEL switches caddies; commands admitted from now on take it, and the one before may be unpinned. -/
def State.regCaddySel (s : State) (v m : W64) : State :=
  let n := (s.sel &&& ~~~ fld m 0 2) ||| (fld v 0 2 &&& fld m 0 2)
  let s1 := ({ s with cfg := { s.cfg with sel := .all n } }).record (TraceRec.of 0x0B 0 0 n.toNat)
  s.traceUnpin s1

/-- CADDY_SWITCH (R419). -/
def execCaddySwitch (req : Requester) (value : W32) (s : State) : Host.Outcome State Fault Refusal :=
  .next (s.globalWrite req (fun _ s => s.regCaddySel (value.setWidth 64) 0xFFFFFFFF))

end Sys2Proof.Machine
end

