-- ==== Sys2Proof/Machine/Array.lean ====
section
/-!
DEFINITION. Sys2Proof/Machine/Array.lean: fences, spares, sleep and units leaving and returning service (R422 to R436, R515 to R517), the
power controller (R28 to R32, R399, R424), the trace switch (R410) and the block drain (R416).
-/

namespace Sys2Proof.Machine

/-! ## Array changes (R427 to R430) -/

/-- Logical TUs in service: those that a position serves (R436). -/
def State.activeTus (s : State) : Nat := ((List.finRange 128).filter (fun n => (s.tuPlace n).isSome)).length

/-- Each change of ACTIVE_TUS raises block-level vector 5 (R436). -/
def State.tusChanged (s : State) (before : Nat) : State := s.doIf (decide (s.activeTus ≠ before)) (·.irqBlock 5)

/-- A change of the array is traced (R408). -/
def State.traceArr (s : State) (reason unit : Nat) : State := s.record { TraceRec.of 0x0C 0 0 reason with unit := unit }

def State.setRow (s : State) (r : Fin 8) (x : Row) : State := { s with arr := { s.arr with rows := s.arr.rows.set r x } }

/-- The logical TU that a physical position of a row serves, if any. -/
def Row.serves (x : Row) (p : Nat) : Option Nat :=
  if !bit x.active p then none else if p = 16 then (if x.spareUsed then some x.sparePos.toNat else none) else some p

/-- Nothing serves a logical position of a row. -/
def Row.isVacant (x : Row) (q : Nat) : Bool := !bit x.active q && !(x.spareUsed && decide (x.sparePos.toNat = q))

/-- The lowest logical position of a row that nothing serves. -/
def Row.vacant (x : Row) : Option Nat := (List.range 16).find? x.isVacant

/-- The queued packs of a logical TU return to the ready lists, and its L0 and query buffer are lost. -/
def State.emptyTu (s : State) (n : TuId) : State :=
  let l := (s.arr.tus[n]).queue
  let s1 := { s with arr := { s.arr with tus := s.arr.tus.set n .reset } }
  l.foldl State.unpack s1

/-- A logical TU is cold (R426): its L0 and its query buffer are empty, and it has fetched the settings of every caddy. -/
def State.coldTu (s : State) (n : TuId) : State :=
  { s with arr := { s.arr with tus := s.arr.tus.set n { s.arr.tus[n] with buffer := [], l0 := [], gens := s.caddyGens } } }

/-- Logical TU `q` of row `r`. -/
def tuOf (r : Fin 8) (q : Nat) : TuId := (BitVec.ofNat 7 (16 * r.val + q)).toFin

/-- One physical position leaves service (R428): its packs return, and an idle spare begins its self-test to take the place. -/
def State.fencePos (s : State) (r : Fin 8) (p : Fin 17) (reason : Nat) : State :=
  let x := s.arr.rows[r]
  if bit x.fenced p.val then s
  else
    let lost := x.serves p.val
    let spareIdle := decide (p.val ≠ 16) && !bit x.fenced 16 && !x.spareUsed && !bit x.testing 16 && lost.isSome
    -- A TU that waits to have its position back from the spare takes it at once where the spare itself is fenced.
    let back := x.handBack && x.spareUsed && decide (p.val = 16)
    let y := { x with
      fenced := setBit x.fenced p.val true
      active := if back then setBit (setBit x.active p.val false) x.sparePos.toNat true else setBit x.active p.val false
      spareUsed := x.spareUsed && decide (p.val ≠ 16), sparePos := if p.val = 16 then 0 else x.sparePos,
      callFor := if p.val = 16 then none else if spareIdle then lost.map (BitVec.ofNat 4) else x.callFor
      handBack := x.handBack && decide (p.val ≠ 16) && !(x.spareUsed && decide (x.sparePos.toNat = p.val))
      testing := setBit (setBit x.testing p.val false) 16 (spareIdle || (bit x.testing 16 && decide (p.val ≠ 16))) }
    let s1 := { (s.setRow r y) with arr := { (s.setRow r y).arr with fenceEvent := true } }
    let s2 := match lost with | some q => s1.emptyTu (tuOf r q) | none => s1
    s2.traceArr reason (16 * r.val + lost.getD 0)

/-- A whole row leaves service (R429). -/
def State.fenceRow (s : State) (r : Fin 8) : State :=
  let x := s.arr.rows[r]
  let y := { x with fenced := 0x1FFFF, active := 0, rowFenced := true, spareUsed := false, sparePos := 0, testing := 0, callFor := none, handBack := false }
  let s1 := { (s.setRow r y) with arr := { (s.setRow r y).arr with fenceEvent := true } }
  ((List.range 16).foldl (fun s q => s.emptyTu (tuOf r q)) s1).traceArr 0x25 (16 * r.val)

/-- A fenced position begins its self-test to return (R426, R430). -/
def State.returnPos (s : State) (r : Fin 8) (p : Fin 17) : State :=
  let x := s.arr.rows[r]
  if bit x.fenced p.val then s.setRow r { x with testing := setBit x.testing p.val true } else s

/-- A position that passed its self-test is placed (R428, R430): one that the spare serves waits until the spare has drained; else it takes its own or,
for the spare, the logical position it was called for or the row's vacant one; else it is the idle spare. -/
def Row.place (x : Row) (p : Nat) : Row :=
  let x := { x with fenced := setBit x.fenced p false, testing := setBit x.testing p false, rowFenced := false,
                    residue := x.residue.mapIdx (fun i n => if i = p then 0 else n) }
  if p < 16 then
    if x.spareUsed && decide (x.sparePos.toNat = p) then { x with handBack := true }
    else { x with active := setBit x.active p true }
  else
    let called := match x.callFor with | some q => if x.isVacant q.toNat then some q.toNat else x.vacant | none => x.vacant
    match called with
    | some q => { x with active := setBit x.active 16 true, spareUsed := true, sparePos := BitVec.ofNat 4 q, callFor := none }
    | none => { x with callFor := none }

/-- A residue error of a TU, which RESIDUE_ERRS counts (R436). -/
def State.residueSeen (s : State) : State := { s with arr := { s.arr with residueErrs := satInc s.arr.residueErrs } }

/-- A residue error of a logical TU's testers (R428, R511): counted, and the TU is fenced when its count reaches AUTO_FENCE. -/
def State.residueError (s : State) (n : TuId) : State :=
  let s1 := s.residueSeen
  match s1.tuPlace n with
  | none => s1
  | some p =>
    let r : Fin 8 := (BitVec.ofNat 3 (n.val / 16)).toFin
    let x := s1.arr.rows[r]
    let c := x.residue[p]! + 1
    let s2 := s1.setRow r { x with residue := x.residue.mapIdx (fun i k => if i = p then c else k) }
    if s2.arr.autoFence.toNat ≤ c then
      let before := s2.activeTus
      (s2.fencePos r (Fin.ofNat 17 p) 0x21).tusChanged before
    else s2

/-! ## RK_TU_FENCE (R428 to R431) -/

/-- A write to RK_TU_FENCE; a zero value targets no field and so sets no LOCK_VIOL (R529). -/
def State.regTuFence (s : State) (u : Bool) (v : W64) : State :=
  if !u then s.doIf (decide (fld v 0 32 ≠ 0)) State.lockViolation
  else
    let pos := fldN v 0 5
    let r : Fin 8 := (fld v 5 3).toFin
    let before := s.activeTus
    if 16 < pos then s
    else
      let p : Fin 17 := Fin.ofNat 17 pos
      let s1 := if bit v 9 then
          (if bit v 8 then (List.finRange 17).foldl (fun s p => s.returnPos r p) s else s.returnPos r p)
        else if bit v 8 then s.fenceRow r else s.fencePos r p 0x20
      s1.tusChanged before

/-- TU_FENCE: RK_TU_FENCE written with OP 0 (R428, R431). -/
def execTuFence (req : Requester) (value : W32) (s : State) : Host.Outcome State Fault Refusal :=
  .next (s.globalWrite req (fun u s => s.regTuFence u ((setBit value 9 false).setWidth 64)))

/-- TU_UNFENCE: RK_TU_FENCE written with OP 1 (R430, R431). -/
def execTuUnfence (req : Requester) (value : W32) (s : State) : Host.Outcome State Fault Refusal :=
  .next (s.globalWrite req (fun u s => s.regTuFence u ((setBit value 9 true).setWidth 64)))

/-- TU_SELF_TEST_DONE: a returning position is placed, or stays fenced (R426, R430). -/
def execTuSelfTestDone (row : Fin 8) (pos : Fin 17) (pass : Bool) (s : State) : Host.Outcome State Fault Refusal :=
  let x := s.arr.rows[row]
  if !s.live || s.errored || !bit x.testing pos.val then .next s
  else
    let before := s.activeTus
    if pass then
      let y := x.place pos.val
      let s1 := s.setRow row y
      let s2 := (match y.serves pos.val with | some q => s1.coldTu (tuOf row q) | none => s1).handBacks
      .next ((s2.traceArr (if pos.val = 16 then 0x22 else 0x26) (16 * row.val + (y.serves pos.val).getD 0)).tusChanged before)
    else
      let y := { x with testing := setBit x.testing pos.val false, fenced := setBit x.fenced pos.val true }
      let s1 := s.setRow row y
      .next { s1 with arr := { s1.arr with fenceEvent := true } }

/-- ROUTER_FAULT: the whole row is fenced (R429). -/
def execRouterFault (row : Fin 8) (_pos : Fin 17) (s : State) : Host.Outcome State Fault Refusal :=
  if !s.live || s.errored then .next s
  else
    let before := s.activeTus
    .next ((s.fenceRow row).tusChanged before)

/-! ## Sleep (R425) -/

/-- TUs of a half. -/
def inHalf (h : Half) (n : Nat) : Bool := match h with | .west => decide (n < 64) | .east => decide (64 ≤ n)

def State.half (s : State) (h : Half) : BitVec 2 := match h with | .west => s.arr.west | .east => s.arr.east

def State.setHalf (s : State) (h : Half) (v : BitVec 2) : State :=
  match h with
  | .west => { s with arr := { s.arr with west := v } }
  | .east => { s with arr := { s.arr with east := v } }

def State.setSleep (s : State) (h : Half) (b : Bool) : State :=
  match h with
  | .west => { s with arr := { s.arr with sleepWest := b } }
  | .east => { s with arr := { s.arr with sleepEast := b } }

def otherHalf (h : Half) : Half := match h with | .west => .east | .east => .west

/-- A partition's TU set under a pinned caddy lies wholly in the half. -/
def State.whollyIn (s : State) (h : Half) : Bool :=
  (List.finRange 4).any (fun c => s.pinned (BitVec.ofNat 2 c.val) && allParts.any (fun p =>
    let l := bitsOf (s.caddyEnt (BitVec.ofNat 2 c.val) p).tus 128
    s.partEn p && !l.isEmpty && l.all (inHalf h)))

/-- A write of 1 to a sleep bit (R425): DRAINING, or refused. -/
def State.sleep (s : State) (h : Half) : State :=
  if s.half h = 1 || s.half h = 2 then s
  else if s.half (otherHalf h) ≠ 0 || s.whollyIn h then { s with arr := { s.arr with sleepRefused := true } }
  else (s.setHalf h 1).setSleep h true

/-- A write of 0 to a sleep bit (R425): WAKING. -/
def State.wake (s : State) (h : Half) : State :=
  if s.half h = 1 || s.half h = 2 then (s.setHalf h 3).setSleep h false else s.setSleep h false

/-- A write to RK_ARR_CTL (R435); AUTO_FENCE zero is stored as 2 (R527). -/
def State.regArrCtl (s : State) (v m : W64) : State :=
  let a := (s.arr.autoFence &&& ~~~ fld m 8 4) ||| (fld v 8 4 &&& fld m 8 4)
  let s1 := { s with arr := { s.arr with autoFence := if a = 0 then 2 else a,
                                          dist := if bit m 0 then ⟨bit v 0, s.arr.dist.force⟩ else s.arr.dist } }
  let s2 := if bit m 5 then (if bit v 5 then s1.sleep .east else s1.wake .east) else s1
  if bit m 4 then (if bit v 4 then s2.sleep .west else s2.wake .west) else s2

def sleepBit (h : Half) : Nat := match h with | .west => 4 | .east => 5

/-- SLEEP_HALF: RK_ARR_CTL written with the half's sleep bit 1. -/
def execSleepHalf (req : Requester) (h : Half) (value : W32) (s : State) : Host.Outcome State Fault Refusal :=
  .next (s.globalWrite req (fun _ s => s.regArrCtl ((setBit value (sleepBit h) true).setWidth 64) 0xFFFFFFFF))

/-- WAKE_HALF: RK_ARR_CTL written with the half's sleep bit 0. -/
def execWakeHalf (req : Requester) (h : Half) (value : W32) (s : State) : Host.Outcome State Fault Refusal :=
  .next (s.globalWrite req (fun _ s => s.regArrCtl ((setBit value (sleepBit h) false).setWidth 64) 0xFFFFFFFF))

/-- The half's TUs have no queued pack. -/
def State.halfDrained (s : State) (h : Half) : Bool :=
  (List.finRange 128).all (fun n => !inHalf h n.val || (s.arr.tus[n]).queue.isEmpty)

/-- Every TU of the half is cold. -/
def State.coldHalf (s : State) (h : Half) : State :=
  (List.finRange 128).foldl (fun s n => if inHalf h n.val then s.coldTu n else s) s

/-- HALF_ASLEEP: with its TUs drained, the half is ASLEEP (R425 step 3). -/
def execHalfAsleep (h : Half) (s : State) : Host.Outcome State Fault Refusal :=
  if s.live && !s.errored && decide (s.half h = 1) && s.halfDrained h then
    .next (((s.setHalf h 2).coldHalf h).traceArr 0x23 (match h with | .west => 0 | .east => 1))
  else .next s

/-- Rows of a half. -/
def rowIn (h : Half) (r : Fin 8) : Bool := match h with | .west => decide (r.val < 4) | .east => decide (4 ≤ r.val)

/-- HALF_AWAKE: after its ramp and self-tests the half is AWAKE; TUs that failed are fenced (R425, R426). -/
def execHalfAwake (h : Half) (failed : Vector (BitVec 17) 8) (s : State) : Host.Outcome State Fault Refusal :=
  if s.live && !s.errored && decide (s.half h = 3) then
    let before := s.activeTus
    let rows := (List.finRange 8).filter (rowIn h)
    let s1 := (s.setHalf h 0).coldHalf h
    let s2 := rows.foldl (fun s r => s.setRow r { s.arr.rows[r] with residue := Vector.replicate 17 0 }) s1
    let s3 := rows.foldl (fun s r => (List.finRange 17).foldl (fun s p => if bit failed[r] p.val then s.fencePos r p 0x21 else s) s) s2
    .next ((s3.traceArr 0x24 (match h with | .west => 0 | .east => 1)).tusChanged before)
  else .next s

/-! ## Units (R515 to R517) -/

/-- A bank that holds no slot, a core with no resident group, a Strainer unit with no bundle: it has left service once it is leaving. -/
def State.unitEmpty (s : State) (kind idx : Nat) : Bool :=
  if kind = 0 then !s.kennel.slots.any (fun e => e.1 % 64 == idx)
  else if kind = 1 then ((s.core (BitVec.ofNat 4 idx).toFin).groups.toList.all (·.isNone))
  else !s.strain.bundles.any (fun b => b.placed && b.unit.val == idx)

/-- A unit begins to leave service. -/
def State.unitOut (s : State) (kind idx : Nat) : State :=
  if kind = 0 then { s with kennel := { s.kennel with banksOut := setBit s.kennel.banksOut idx true, banksBack := setBit s.kennel.banksBack idx false } }
  else if kind = 1 then { s with arr := { s.arr with coresOut := setBit s.arr.coresOut idx true, coresBack := setBit s.arr.coresBack idx false } }
  else { s with arr := { s.arr with unitsOut := setBit s.arr.unitsOut idx true, unitsBack := setBit s.arr.unitsBack idx false } }

/-- A corrected word of the Kennel is counted (R120, R512). -/
def State.kennelCorrected (s : State) : State := ({ s with kennel := { s.kennel with corr := satInc s.kennel.corr } }).errCorrected

/-- An uncorrectable word of a Kennel slot is counted, and its bank leaves service (R88, R118, R120). -/
def State.kennelLost (s : State) (i : Nat) : State := ({ s with kennel := { s.kennel with uncorr := satInc s.kennel.uncorr } }).unitOut 0 (i % 64)

/-- A unit that has left service begins its scrub or self-test. -/
def State.unitBack (s : State) (kind idx : Nat) : State :=
  if !s.unitEmpty kind idx then s
  else if kind = 0 then (if bit s.kennel.banksOut idx then { s with kennel := { s.kennel with banksBack := setBit s.kennel.banksBack idx true } } else s)
  else if kind = 1 then (if bit s.arr.coresOut idx then { s with arr := { s.arr with coresBack := setBit s.arr.coresBack idx true } } else s)
  else if bit s.arr.unitsOut idx then { s with arr := { s.arr with unitsBack := setBit s.arr.unitsBack idx true } } else s

/-- A write to RK_UNIT_SVC (R517). -/
def State.regUnitSvc (s : State) (u : Bool) (v : W64) : State :=
  if !u then s.doIf (decide (fld v 0 32 ≠ 0)) State.lockViolation
  else
    let kind := fldN v 8 3
    let idx := fldN v 0 6
    if 2 < kind || (kind ≠ 0 && decide (15 < idx)) then s
    else if bit v 11 then s.unitBack kind idx else s.unitOut kind idx

/-- UNIT_OUT: RK_UNIT_SVC written with OP 0. -/
def execUnitOut (req : Requester) (value : W32) (s : State) : Host.Outcome State Fault Refusal :=
  .next (s.globalWrite req (fun u s => s.regUnitSvc u ((setBit value 11 false).setWidth 64)))

/-- UNIT_RETURN: RK_UNIT_SVC written with OP 1. -/
def execUnitReturn (req : Requester) (value : W32) (s : State) : Host.Outcome State Fault Refusal :=
  .next (s.globalWrite req (fun u s => s.regUnitSvc u ((setBit value 11 true).setWidth 64)))

/-- A unit is in its scrub or self-test. -/
def State.unitTesting (s : State) (kind idx : Nat) : Bool :=
  if kind = 0 then bit s.kennel.banksBack idx else if kind = 1 then bit s.arr.coresBack idx else bit s.arr.unitsBack idx

/-- A unit is in service again, cold (R516). -/
def State.unitIn (s : State) (kind idx : Nat) : State :=
  if kind = 0 then { s with kennel := { s.kennel with
      banksOut := setBit s.kennel.banksOut idx false, banksBack := setBit s.kennel.banksBack idx false
      scrubbed := setBit s.kennel.scrubbed idx true, stale := s.kennel.stale.filter (fun i => i % 64 != idx)
      images := s.kennel.images.filter (fun e => e.1 % 64 != idx) } }
  else if kind = 1 then
    let c : CoreId := (BitVec.ofNat 4 idx).toFin
    let s1 := s.setCore c { s.core c with l1 := [], uncorr := 0 }
    { s1 with arr := { s1.arr with coresOut := setBit s.arr.coresOut idx false, coresBack := setBit s.arr.coresBack idx false } }
  else
    { s with
      arr := { s.arr with unitsOut := setBit s.arr.unitsOut idx false, unitsBack := setBit s.arr.unitsBack idx false }
      strain := { s.strain with uncorr := s.strain.uncorr.set (BitVec.ofNat 4 idx).toFin 0 } }

/-- UNIT_RETURN_DONE: the unit returns to service, or stays out with FENCE_EVENT set (R516). -/
def execUnitReturnDone (kind : Fin 3) (idx : Fin 64) (pass : Bool) (s : State) : Host.Outcome State Fault Refusal :=
  if !s.live || s.errored || !s.unitTesting kind.val idx.val then .next s
  else if pass then .next (s.unitIn kind.val idx.val)
  else
    let s1 := s.unitOut kind.val idx.val
    .next { s1 with arr := { s1.arr with fenceEvent := true } }

/-- An uncorrectable word in a Setter core's or Strainer unit's storage: the unit leaves service when its count reaches AUTO_FENCE (R515). -/
def State.coreUncorr (s : State) (c : CoreId) : State :=
  let n := (s.core c).uncorr + 1
  let s1 := s.setCore c { s.core c with uncorr := n }
  if s1.arr.autoFence.toNat ≤ n then s1.unitOut 1 c.val else s1

def State.strainUncorr (s : State) (u : UnitId) : State :=
  let n := s.strain.uncorr[u] + 1
  let s1 := { s with strain := { s.strain with uncorr := s.strain.uncorr.set u n } }
  if s1.arr.autoFence.toNat ≤ n then s1.unitOut 2 u.val else s1

/-! ## Power (R29 to R32, R399, R424, R528) -/

/-- The voltage target of a mode, in 5 mV. -/
def modeTarget (m : BitVec 2) : Nat := if m = 0 then 180 else if m = 2 then 136 else 156

/-- The limit of a mode in watts. -/
def modeLimit (m : BitVec 2) (cap : Nat) : Nat := if m = 0 then 320 else cap

/-- One step of 10 mV down, never below 0.60 V (R24). -/
def stepDown (v : Byte) : Byte := BitVec.ofNat 8 (max 120 (v.toNat - 2))

/-- One step of 10 mV toward the target from below. -/
def stepUp (target : Nat) (v : Byte) : Byte := if v.toNat < target then BitVec.ofNat 8 (min target (v.toNat + 2)) else v

/-- One step of 10 mV toward the target from above. -/
def stepTo (target : Nat) (v : Byte) : Byte := if target < v.toNat then BitVec.ofNat 8 (max target (v.toNat - 2)) else v

/-- The controller's decision on an estimate (R30, R399). -/
def powerDecide (x : Pwr) (hotW hotE : Bool) (est : Nat) : Pwr :=
  let lim := modeLimit x.mode.force x.capW.toNat
  let tg := modeTarget x.mode.force
  let x := { x with estW := BitVec.ofNat 9 (min est 511) }
  let y :=
    if lim < est then
      let low := decide (x.vWest.toNat ≤ 120) && decide (x.vEast.toNat ≤ 120) && decide (x.vSetter.toNat ≤ 120)
      if low then { x with overCap := true, frac := if x.frac.toNat ≤ 4 then 4 else x.frac - 1 }
      else { x with overCap := true, vWest := stepDown x.vWest, vEast := stepDown x.vEast, vSetter := stepDown x.vSetter }
    else if 100 * est < 95 * lim then
      if x.frac.toNat < 16 then { x with frac := x.frac + 1 }
      else { x with vSetter := stepTo tg (stepUp tg x.vSetter), vWest := if hotW then x.vWest else stepTo tg (stepUp tg x.vWest),
                    vEast := if hotE then x.vEast else stepTo tg (stepUp tg x.vEast) }
    else { x with vWest := stepTo tg x.vWest, vEast := stepTo tg x.vEast, vSetter := stepTo tg x.vSetter }
  { y with vWest := if hotW then stepDown y.vWest else y.vWest, vEast := if hotE then stepDown y.vEast else y.vEast }

/-- POWER_ESTIMATE: every 1,024 ns (R30). -/
def execPowerEstimate (watts : Nat) (t : Nat) (s : State) : Host.Outcome State Fault Refusal :=
  if s.active && s.timerFires .power t then
    let s1 := (s.fire .power t).timerAdd .power ((s.timerDue .power).getD t + 1024)
    let x := powerDecide s.pwr s.pins.hotWest s.pins.hotEast watts
    .next (({ s1 with pwr := x }).doIf (decide (x.frac ≠ s.pwr.frac)) (·.record (TraceRec.of 9 0 0 x.frac.toNat)))
  else .next s

/-- JUNCTION_LIMIT: the die reports a half above its junction limit (R424). -/
def execJunctionLimit (h : Half) (s : State) : Host.Outcome State Fault Refusal :=
  match h with
  | .west => .next { s with pins := { s.pins with hotWest := true } }
  | .east => .next { s with pins := { s.pins with hotEast := true } }

/-- JUNCTION_LIMIT_CLEAR: the report clears (R424). -/
def execJunctionLimitClear (h : Half) (s : State) : Host.Outcome State Fault Refusal :=
  match h with
  | .west => .next { s with pins := { s.pins with hotWest := false } }
  | .east => .next { s with pins := { s.pins with hotEast := false } }

/-! ## The trace switch (R410) -/

/-- A write to RK_TRACE_CTL: the base and size are read when ENABLE rises, and WRITE_POS returns to 0. -/
def State.regTraceCtl (s : State) (v m : W64) : State :=
  let x := s.trace
  let mix := fun (lo len : Nat) (old : Nat) => ((BitVec.ofNat len old &&& ~~~ fld m lo len) ||| (fld v lo len &&& fld m lo len)).toNat
  let en := if bit m 0 then bit v 0 else x.enable
  let y := { x with
    readPos := BitVec.ofNat 24 (mix 40 24 x.readPos.toNat), opMask := BitVec.ofNat 8 (mix 32 8 x.opMask.toNat),
    allParts := if bit m 20 then bit v 20 else x.allParts, part := BitVec.ofNat 4 (mix 16 4 x.part.toNat),
    wrap := if bit m 1 then bit v 1 else x.wrap, enable := en }
  { s with trace := if en && !x.enable then { y with ringBase := x.base, ringSize := x.size, writePos := 0 } else y }

/-- TRACE_ENABLE: RK_TRACE_CTL written with ENABLE 1. -/
def execTraceEnable (req : Requester) (value : W64) (s : State) : Host.Outcome State Fault Refusal :=
  .next (s.globalWrite req (fun _ s => s.regTraceCtl (setBit value 0 true) (BitVec.allOnes 64)))

/-! ## The block drain (R406, R416) -/

/-- A value held to a range at a CSR write, with its clamp entry (R527); zero stands for `dflt`. -/
def State.clampWrite (s : State) (off lo part v top dflt : Nat) : Nat × State :=
  if v = 0 then (dflt, s) else if top < v then (top, s.clampEntry (regField off lo) 0 1 part v top) else (v, s)

/-- A write to RK_SCHED_CTL (R406). -/
def State.regSchedCtl (s : State) (v m : W64) : State :=
  let set := (s.clampWrite 0x228 4 0 (fldN v 4 4) 8 6)
  let s1 := if fld m 4 4 ≠ 0 then { set.2 with arr := { set.2.arr with imbSet := ⟨BitVec.ofNat 4 set.1, s.arr.imbSet.force⟩ } } else s
  let tu := (s1.clampWrite 0x228 0 0 (fldN v 0 3) 4 3)
  let s2 := if fld m 0 3 ≠ 0 then { tu.2 with arr := { tu.2.arr with imbTu := ⟨BitVec.ofNat 3 tu.1, s.arr.imbTu.force⟩ } } else s1
  let lim := fld v 16 8
  let s3 := if fld m 16 8 ≠ 0 then { s2 with arr := { s2.arr with blkLimit := if lim = 0 then 10 else lim } } else s2
  if bit m 31 && bit v 31 && !s3.arr.blkDraining then
    ({ s3 with arr := { s3.arr with blkDraining := true } }).timerAdd .blkDrain (s3.pins.now + 1000000 * s3.arr.blkLimit.toNat)
  else s3

/-- BLK_HEEL: RK_SCHED_CTL written with BLK_HEEL 1 (R416). -/
def execBlkHeel (req : Requester) (value : W32) (t : Nat) (s : State) : Host.Outcome State Fault Refusal :=
  .next ((s.at t).globalWrite req (fun _ s => s.regSchedCtl ((setBit value 31 true).setWidth 64) 0xFFFFFFFF))

/-- BLOCK_DRAIN_DONE: the drain reaches a block boundary (R414, R416). -/
def execBlockDrainDone (s : State) : Host.Outcome State Fault Refusal :=
  if s.live && !s.errored && s.arr.blkDraining && s.blockIdle then
    let s1 := allParts.foldl (fun s p => (s.cachesClean p).boundaryPart (fun _ => true) p) (s.timerDel .blkDrain)
    .next ({ s1.applyBlock with arr := { s1.applyBlock.arr with blkDraining := false } }.irqBlock 5)
  else .next s

/-- BLK_TIMEOUT: BLK_LIMIT_MS passes; a partition that holds an open fault enters PARTITION_ERROR with reason DRAIN (R416, R458). -/
def execBlkTimeout (t : Nat) (s : State) : Host.Outcome State Fault Refusal :=
  if s.live && !s.errored && s.timerFires .blkDrain t then
    let s1 := s.fire .blkDrain t
    let s2 := { s1 with arr := { s1.arr with blkDraining := false, blkTimeout := true } }
    let s3 := allParts.foldl (fun s p => if (s.openOf p).isEmpty then s else s.partitionError p 3) s2
    .next (s3.irqBlock 5)
  else .next s

end Sys2Proof.Machine
end

