-- ==== Sys2Proof/Machine/Flags.lean ====
section
/-!
DEFINITION. Sys2Proof/Machine/Flags.lean: the arithmetic flags of a partition (R258 to R263).
-/

namespace Sys2Proof.Machine

/-- Sources of RK_FPSTAT_CAPTURE (R262). -/
def fsScore : Nat := 0
def fsReduce : Nat := 1
def fsRay : Nat := 2
def fsOther : Nat := 3

/-- The one captured of several in one cycle: the lowest ITEM_ID, then LANE, then KEY (R259). -/
def firstInv : List FpInv → Option FpInv
  | [] => none
  | a :: r => match firstInv r with
    | none => some a
    | some b =>
      if a.item < b.item || (a.item == b.item && (decide (a.lane < b.lane) || (a.lane == b.lane && decide (a.key ≤ b.key)))) then some a
      else some b

/-- The capture word. -/
def captureWord (i : FpInv) : W64 := BitVec.ofNat 64 (packN [(32, i.item), (24, i.key), (5, i.lane), (2, i.src), (1, 1)])

/-- Invalid operations of one operation are reported (R259). -/
def State.fpInvalids (s : State) (p : PartId) (l : List FpInv) : State :=
  match firstInv l with
  | none => s
  | some i =>
    let x := s.part p
    (s.setPart p { x with
      fpInvalid := true, invCnt := satAdd x.invCnt l.length,
      fpCapture := if bit x.fpCapture 63 then x.fpCapture else captureWord i }).doIf (!x.fpInvalid && x.invIrq) (·.irqPart p x.fpVec)

/-- Invalid operations that the operation under way will report. -/
def State.pushInvs (s : State) (l : List FpInv) : State := { s with herd := { s.herd with invs := s.herd.invs ++ l } }

/-- What the operation under way has found is reported: one pack, one group (R259). -/
def State.flushInvs (s : State) (p : PartId) : State := ({ s with herd := { s.herd with invs := [] } }).fpInvalids p s.herd.invs

/-- Overflows of one operation are reported (R259). -/
def State.fpOverflows (s : State) (p : PartId) (n : Nat) : State :=
  if n = 0 then s
  else
    let x := s.part p
    (s.setPart p { x with fpOverflow := true, ovfCnt := satAdd x.ovfCnt n }).doIf (!x.fpOverflow && x.ovfIrq) (·.irqPart p x.fpVec)

end Sys2Proof.Machine
end

