-- ==== Sys2Proof/Machine/Fetch.lean ====
section
/-!
DEFINITION. Sys2Proof/Machine/Fetch.lean: FETCH and LINE_FILL (R163, R341), and what a fetch of the array that faults comes to (R169, R231,
R384).
-/

namespace Sys2Proof.Machine

/-! ## FETCH and LINE_FILL (R163, R341) -/

/-- Physical line of an address. -/
def portOf (pa : Nat) : PortId := Config.portOfLine (pa / 128)

/-- Whether the residency map lets a fetch be made (R340, R341); a map byte that faults counts as non-resident and leaves a notice
(R450). `src` is the SOURCE of the fetch. -/
def State.resident (s : State) (p : PartId) (va : Nat) (c : FaultCtx) : Bool × State :=
  let x := s.part p
  let base := 2 ^ 40 * x.winBase.force.toNat
  if !x.consult.force || decide (va < base) || decide (base + 2 ^ 40 ≤ va) then (true, s)
  else
    let n := (va - base) / 65536
    match s.vnum p (4096 * x.mapAddr.force.toNat + n / 8) 1 with
    | .ok b => (Nat.testBit b (n % 8), s)
    | .bad e => (false, s.notice p e c)

/-- The fault context of an item in the array (R445): of a TU, `unit`, or of the value gather of a REDUCE. -/
def State.itemCtx (s : State) (i : HItem) (unit : Nat) : FaultCtx :=
  let r := match i with
    | .ray n => (s.ray? n).bind (·.cmd)
    | .op o => (s.bundle? o.bundle).bind (·.cmd)
    | .group b k => (s.groupBy? b k).bind (·.cmd)
  let tag := match r with | some c => (match s.cmd? c with | some x => tagField x.raw | none => 0) | none => 0
  ⟨if itemOp i = 5 then 3 else 1, r.map (·.q), s.itemCls i, s.itemCaddy i, s.itemId i, tag, 0, BitVec.ofNat 8 unit⟩

/-- The work that parks when an item's fetch faults (R450). -/
def parkedItem (i : HItem) : Parked :=
  match i with
  | .ray n => .ray n
  | .op o => .bundleOp o.bundle o.id
  | .group b k => .savedGroup b k

/-- The foreign query of an item. -/
def State.itemForeign (s : State) (i : HItem) : Option Foreign :=
  match i with
  | .ray n => s.foreign? n
  | .op o => s.foreign? o.bundle
  | .group _ _ => none

/-- A fetch in a foreign walk faults: the query ends with FAULT_REMOTE and its address, and a record of KIND 4 tells the host partition
(R384, R455). -/
def State.faultForeign (s : State) (f : Foreign) (p : PartId) (x : Xfault) (c : FaultCtx) : State :=
  (s.notice p x c).failForeign f 1 x.va

/-- When an item was ready, as it parks. -/
def HWait.was (w : HWait) : Nat := if w.ready = 0 then w.since else w.ready

/-- An item is about to park on a line; it keeps the time at which it was ready (R448). -/
def State.keepSince (s : State) (line : Nat) (w : HWait) : State :=
  match w.item with
  | .ray n => s.updRay n (fun r => { r with line := line, since := w.was })
  | .op o => s.updBundle o.bundle (fun b => { b with inflight := b.inflight.map (fun a => if a.id = o.id then { a with since := w.was } else a) })
  | .group _ _ => s

/-- The fetch of an item in the array faults: it parks on the line that faulted (R169, R175, R231); `also` where it is the access of an item that
has parked before. -/
def State.parkItem (s : State) (env : Env) (p : PartId) (x : Xfault) (w : HWait) (unit : Nat) (also : Bool) : State :=
  match s.itemForeign w.item with
  | some f => s.faultForeign f p x (s.itemCtx w.item unit)
  | none =>
    let s1 := s.keepSince (x.va / 128) w
    if also then s1.faultAlso p x (s1.itemCtx w.item unit) (parkedItem w.item)
    else s1.fault env p 0 x 0 (s1.itemCtx w.item unit) (parkedItem w.item)

/-- The items of one fetch park on its fault, which is one access (R444). -/
def State.parkFrom (s : State) (env : Env) (p : PartId) (x : Xfault) (unit : Nat) : Bool → List HWait → State
  | _, [] => s
  | also, w :: r => (s.parkItem env p x w unit also).parkFrom env p x unit (also || (s.itemForeign w.item).isNone) r

def State.parkItems (s : State) (env : Env) (p : PartId) (x : Xfault) (unit : Nat) (l : List HWait) : State := s.parkFrom env p x unit false l

/-- The items of an entry become ready now. -/
def State.makeReady (s : State) (p : PartId) (line : Nat) : State :=
  match s.entry? p line with
  | some e => (s.setEntry { e with ready := true, items := e.items.map (fun w =>
      { w with ready := if w.since = 0 then s.pins.now else w.since, since := 0 }) }).armPack p line
  | none => s

/-- Reads outstanding on a port. -/
def State.portReads (s : State) (o : PortId) : Nat := (s.herd.reads.filter (fun r => decide (r.2.2 = o))).length

/-- The best class among the items of an entry. -/
def State.entryCls (s : State) (e : MatchEntry) : BitVec 2 := e.items.foldl (fun c w => if (s.itemCls w.item).toNat < c.toNat then s.itemCls w.item else c) 3

/-- The place of an entry's FETCH on the block-wide list: the entry's best class, when the entry was made, and its lowest item ID (R163, R397). -/
def State.fetchTurn (s : State) (e : MatchEntry) : Turn :=
  ⟨e.part, s.entryCls e, e.born, match e.items.map (fun w => (s.itemId w.item).toNat) with | [] => 0 | n :: r => r.foldl min n⟩

/-- The entry of a line is to be fetched: its line is not in the NC and no read of it is outstanding. -/
def State.unfetched (s : State) (e : MatchEntry) : Bool :=
  s.works e.part && !e.ready && !s.herd.reads.any (fun r => decide (r.1 = e.part) && r.2.1 == e.line)

/-- The port of an entry's FETCH, where its translation gives one with a free place (R14, R396). -/
def State.fetchPort (s : State) (e : MatchEntry) : Option PortId :=
  match s.translate e.part .read (e.line * 128) with
  | .ok pa => if s.portReads (portOf pa) < 2048 then some (portOf pa) else none
  | .bad _ => none

/-- The FETCH that the block-wide list issues next (R397, R398). -/
def State.lineChoice (s : State) : Option MatchEntry :=
  s.blockTurn (s.issueCount 0 0) s.herd.turn s.fetchTurn (s.herd.store.filter (fun e => s.unfetched e && (s.fetchPort e).isSome))

/-- A FETCH goes to its port. -/
def State.sendFetch (s : State) (e : MatchEntry) (o : PortId) : State :=
  let s1 := { s with herd := { s.herd with reads := s.herd.reads ++ [(e.part, e.line, o)], turn := e.part } }
  (s1.countIssue 0 0).record { (s.packTrace ⟨e.part, e.line, e.items⟩ 3 0 o.val (s.portReads o)) with op := 0, kind := 2, count := 0 }

/-- FETCH: the read of an entry's line is issued to a memory-fabric port with a free place, in the order of the block-wide list (R14, R163, R396 to
R398); a failed translation parks every item of the entry (R169); a page that the map reports non-resident is not read (R341). An uncorrectable word of
the matching store puts the block in ERROR (R511). -/
def execFetch (p : PartId) (line : Nat) (env : Env) (s : State) : Host.Outcome State Fault Refusal :=
  let s := s.at env.t
  match s.entry? p line with
  | none => .next s
  | some e =>
    if !s.unfetched e then .next s
    else if env.hw.lists = .failed then .next (s.errBlock 0x0A 0)
    else
      let s := s.doIf (decide (env.hw.lists = .corrected)) State.errCorrected
      let c := match e.items with | w :: _ => s.itemCtx w.item 0 | [] => ⟨1, none, 0, 0, 0, 0, 0, 0⟩
      let r := s.resident p (line * 128) c
      if !r.1 then .next (r.2.makeReady p line)
      else match r.2.translate p .read (line * 128) with
        | .bad x => .next (((r.2).setEntry { e with items := [] }).parkItems env p x 0 e.items)
        | .ok pa => if r.2.lineChoice = some e then .next (r.2.sendFetch e (portOf pa)) else .next s

/-- The bank and the set of the NC that a line of a partition falls in: 8 groups of 4 banks, 512 sets of 16 lines in each (R27). -/
def ncPlace (e : PartId × Nat) : Fin 8 × Fin 4 × Fin 512 := (Config.bankGroup e.1 e.2, Config.ncSet e.1 e.2)

/-- The NC must keep a line: an entry whose items are ready, or a pack in a TU's queue, has it still to read (R163). -/
def State.ncHeld (s : State) (e : PartId × Nat) : Bool :=
  s.herd.store.any (fun x => x.ready && decide (x.part = e.1) && x.line == e.2)
    || s.arr.tus.toList.any (fun t => t.queue.any (fun k => decide (k.part = e.1) && k.line == e.2))

/-- A line enters the NC; where the 16 ways of its set are taken, the oldest line there that need not be kept leaves. None where all 16 must
be kept. -/
def State.ncFill (s : State) (p : PartId) (line : Nat) : Option State :=
  if s.inNc p line then some s
  else
    let set := s.herd.nc.filter (fun e => decide (ncPlace e = ncPlace (p, line)))
    if set.length < 16 then some { s with herd := { s.herd with nc := s.herd.nc ++ [(p, line)] } }
    else match set.find? (fun e => !s.ncHeld e) with
      | some e => some { s with herd := { s.herd with nc := s.herd.nc.erase e ++ [(p, line)] } }
      | none => none

/-- A line is read into the NC, where it finds a way (R339); items that wait on it are ready as it is present there (R163). -/
def State.ncTouch (s : State) (p : PartId) (line : Nat) : State :=
  match s.ncFill p line with
  | some s1 => match s1.entry? p line with
    | some e => if e.ready then s1 else s1.makeReady p line
    | none => s1
  | none => s

/-- LINE_FILL: the line is present in the NC, and every item of its entry becomes ready (R163); it waits while its set has no way free. -/
def execLineFill (p : PartId) (line : Nat) (s : State) : Host.Outcome State Fault Refusal :=
  if s.live && s.herd.reads.any (fun r => decide (r.1 = p) && r.2.1 == line) then
    match s.ncFill p line with
    | some s1 =>
      let s2 := { s1 with herd := { s1.herd with reads := s1.herd.reads.filter (fun r => !(decide (r.1 = p) && r.2.1 == line)) } }
      .next (s2.makeReady p line)
    | none => .next s
  else .next s

end Sys2Proof.Machine
end

