-- ==== Sys2Proof/Machine/Hier.lean ====
section
/-!
DEFINITION. Sys2Proof/Machine/Hier.lean: the descriptors and node formats of hierarchies as memory holds them (R121 to R136, R156).
-/

namespace Sys2Proof.Machine

/-! ## Descriptors (R121 to R125) -/

def Desc.kind (d : Desc) : Nat := d.byte 0 1
def Desc.stale (d : Desc) : Bool := bit d 16
/-- The kind is a box kind (0, 2) or a key kind (1, 3). -/
def Desc.isBox (d : Desc) : Bool := d.kind == 0 || d.kind == 2
def Desc.isKey (d : Desc) : Bool := d.kind == 1 || d.kind == 3
def Desc.isSharded (d : Desc) : Bool := d.kind == 2 || d.kind == 3
def Desc.root (d : Desc) : Nat := d.byte 4 4
def Desc.base (d : Desc) : Nat := d.byte 8 8
def Desc.used (d : Desc) : Nat := d.byte 16 4
def Desc.cap (d : Desc) : Nat := d.byte 20 4
def Desc.subAddr (d : Desc) : Nat := d.byte 24 8
def Desc.subCount (d : Desc) : Nat := d.byte 32 4
def Desc.subBase (d : Desc) : Nat := d.byte 36 2
def Desc.depth (d : Desc) : Nat := d.byte 38 1
def Desc.seq (d : Desc) : Nat := d.byte 44 4
def Desc.primCount (d : Desc) : Nat := d.byte 88 4
def Desc.primKind (d : Desc) : Nat := d.byte 92 1
def Desc.kfmt (d : Desc) : Nat := d.byte 64 1 % 8
def Desc.dim (d : Desc) : Nat := d.byte 66 2
def Desc.scale (d : Desc) : W32 := BitVec.ofNat 32 (d.byte 68 4)
def Desc.keyCount (d : Desc) : Nat := d.byte 72 4
def Desc.keyCap (d : Desc) : Nat := d.byte 76 4
def Desc.keyAddr (d : Desc) : Nat := d.byte 80 8
def Desc.scaleAddr (d : Desc) : Nat := d.byte 88 8
def Desc.pAddr (d : Desc) : Nat := d.byte 96 8
def Desc.delta (d : Desc) : W32 := BitVec.ofNat 32 (d.byte 104 4)

/-- ROOT of an empty hierarchy; a key ROOT that is the EMPTY child word reads as it (R136). -/
def Desc.empty (d : Desc) : Bool := d.root == 0xFFFFFFFF || (d.isKey && d.root == 0x00FFFFFF)

/-- An address field of 64 bits from byte `b` has a reserved bit that is not zero (R5). -/
def Desc.wideAddr (d : Desc) (b : Nat) : Bool := d.byte (b + 7) 1 / 2 != 0

/-- A reserved bit outside ROOT is not zero (R5, R121 to R124); the block-scale address of a BF16 tensor is ignored. -/
def Desc.reservedBits (d : Desc) : Bool :=
  d.byte 2 2 / 8 != 0 || d.byte 39 1 != 0 || d.byte 48 16 != 0 || d.wideAddr 8
  || (!d.isSharded && d.subAddr != 0) || d.wideAddr 24
  || ((d.isKey || d.kind == 4) && (d.wideAddr 80 || (d.kfmt != 4 && d.wideAddr 88)))
  || (d.isKey && d.wideAddr 96)
  || (d.isBox && d.byte 93 35 != 0)
  || (d.isKey && (d.byte 64 1 / 8 != 0 || d.byte 65 1 != 0 || d.byte 108 20 != 0))
  || (d.kind == 4 && (d.byte 2 62 != 0 || d.byte 64 1 / 8 != 0 || d.byte 65 1 != 0 || d.byte 76 4 != 0 || d.byte 96 32 != 0))

/-- A reserved bit is not zero; a key ROOT above 24 bits that is not empty counts as one (R121 to R124, R136). -/
def Desc.reserved (d : Desc) : Bool := d.reservedBits || (d.isKey && d.byte 7 1 != 0 && !d.empty)

/-- What a descriptor's condition makes of a walk (R125). -/
inductive Usable where
  | ok | notBound | stale | empty
deriving DecidableEq, Repr

/-- The condition of a descriptor read for a binding of a kind. -/
def Desc.usable (d : Desc) (kind : Nat) : Usable :=
  if d.kind != kind || d.byte 1 1 != 1 || d.reserved then .notBound
  else if d.stale then .stale
  else if d.kind != 4 && d.empty then .empty
  else .ok

/-! ## Box nodes (R127 to R129) -/

/-- A child of a box node: slot, kind, primitives, index, mask, decoded box. -/
structure BoxChild where
  slot : Nat
  kind : Nat
  n    : Nat
  idx  : Nat
  mask : Nat
  lo   : Vector W32 3
  hi   : Vector W32 3
deriving DecidableEq, Repr

/-- ORIGIN_a + q × 2^EXP_a, rounded outward (R129). -/
def gridPoint (r : Rnd) (origin : W32) (e : Int) (q : Nat) : W32 := r32 r ((v32 origin).add (.fin false q e))

/-- Child `c` of a box node; none where its slot is empty. -/
def boxChild (v : Nat) (c : Nat) : Option BoxChild :=
  let idx := by_ v (16 + 4 * c) 4
  if idx = 0xFFFFFFFF then none
  else
    let meta_ := by_ v (48 + c) 1
    let org := fun (a : Nat) => BitVec.ofNat 32 (by_ v (4 * a) 4)
    let ex := fun (a : Nat) => sext 8 (by_ v (12 + a) 1)
    let q := fun (k : Nat) => by_ v (64 + 6 * c + k) 1
    some ⟨c, meta_ % 8, meta_ / 8 + 1, idx, by_ v (56 + c) 1,
      Vector.ofFn (fun (a : Fin 3) => gridPoint .down (org a.val) (ex a.val) (q a.val)),
      Vector.ofFn (fun (a : Fin 3) => gridPoint .up (org a.val) (ex a.val) (q (3 + a.val)))⟩

/-- The children of a box node, by rising slot. -/
def boxChildren (v : Nat) : List BoxChild := (List.range 8).filterMap (boxChild v)

/-- Three FP32 values from byte `b`. -/
def vec3 (v b : Nat) : Vector W32 3 := Vector.ofFn (fun (a : Fin 3) => BitVec.ofNat 32 (by_ v (b + 4 * a.val) 4))

/-- The byte of the subtree table where a subtree's entry lies (R156). -/
def subEntryAddr (addr base sub : Nat) : Nat := addr + 32 * (sub - base)

end Sys2Proof.Machine
end

