-- ==== Sys2Proof/Machine/Ret.lean ====
section
/-!
DEFINITION. Sys2Proof/Machine/Ret.lean: the Retriever (R187 to R194): budgets, acceptance and release of records, deliveries (R10, R11,
R189), and write acknowledgements (R15).
-/

namespace Sys2Proof.Machine

/-! ## Shares and budgets (R188, R191) -/

/-- Entries a partition holds or has reserved. -/
def State.retUsed (s : State) (p : PartId) : Nat := (s.ret.entries.filter (fun e => decide (e.part = p))).length

/-- The partition's share has a free entry. -/
def State.retRoom (s : State) (p : PartId) : Bool := decide (s.retUsed p < s.retQuota p)

/-- count(f) of R191: reserved and held entries of ordered commands, held entries of the others. -/
def State.flowHeld (s : State) (p : PartId) (flow : W16) : Nat :=
  (s.ret.entries.filter (fun e => decide (e.part = p) && decide (e.flow = flow))).length

/-- FLOW_BUDGET; zero means 256 (R193). -/
def State.budget (s : State) (p : PartId) : Nat :=
  if (s.part p).flowBudget.force = 0 then 256 else (s.part p).flowBudget.force.toNat

/-- The flow is below its budget. -/
def State.underBudget (s : State) (p : PartId) (flow : W16) : Bool := decide (s.flowHeld p flow < s.budget p)

/-- Admission of a flow was held by its budget (R194). -/
def State.stallFlow (s : State) (p : PartId) (flow : W16) : State := s.updPart p (fun x => { x with budgetStall := true, stallFlow := flow })

/-- The place of an item in its ordered flow (R82); none for an unordered command. -/
def flowOrder (c : Cmd) (index : Nat) : Option Nat := if orderedBit c.raw then some (c.flowSeq + index) else none

/-- An entry reserved for an item of an ordered command (R191). -/
def State.reserve (s : State) (p : PartId) (flow : W16) (order : Nat) (r : CmdRef) (index : Nat) (bundle : Option Nat) : State :=
  { s with ret := { s.ret with
      entries := s.ret.entries ++ [⟨s.ret.next, p, flow, some order, r, index, .reserved, bundle, 0, none, 0⟩], next := s.ret.next + 1 } }

/-- An entry by its number. -/
def State.retEntry? (s : State) (id : Nat) : Option RetEntry := s.ret.entries.find? (fun e => e.id == id)

def State.updEntry (s : State) (id : Nat) (f : RetEntry → RetEntry) : State :=
  { s with ret := { s.ret with entries := s.ret.entries.map (fun e => if e.id = id then f e else e) } }

/-- The reserved entry of an item. -/
def State.reserved? (s : State) (r : CmdRef) (index : Nat) : Option RetEntry :=
  s.ret.entries.find? (fun e => decide (e.cmd = r) && e.index == index && decide (e.state = .reserved))

/-! ## Freeing (R189) -/

/-- A bundle has left the Strainer: its result is written or delivered (R188). -/
def State.bundleGone (s : State) (h : Nat) : State :=
  { s with strain := { s.strain with bundles := s.strain.bundles.filter (fun b => b.head != h) } }

/-- An entry is freed; its command waits for one write less. -/
def State.freeEntry (s : State) (id : Nat) : State :=
  match s.retEntry? id with
  | none => s
  | some e =>
    let s1 := { s with ret := { s.ret with entries := s.ret.entries.filter (fun x => x.id != id) } }
    let s2 := s1.updCmd e.cmd (fun c => { c with writes := c.writes - 1 })
    match e.bundle with | some h => s2.bundleGone h | none => s2

/-! ## Release (R189, R190) -/

/-- The bytes an entry writes or delivers. -/
def State.entryBytes (s : State) (e : RetEntry) : List Byte :=
  match e.bundle with
  | none => leBytes 32 e.record.toNat
  | some h => match s.bundle? h with
    | some b => (b.result.getD []).flatMap (fun w => leBytes 64 w.toNat)
    | none => []

/-- Who a result write is for (R445). -/
def State.entryCtx (s : State) (e : RetEntry) : FaultCtx :=
  let c := s.cmdCtx e.cmd 4
  { c with item := match e.bundle with
      | some h => (match (s.bundle? h).bind (·.result) with | some (w :: _) => fld w 0 32 | _ => 0)
      | none => fld e.record 0 32 }

/-- A result write; its entry is freed when it is acknowledged. A fault parks the write (R450). A buffered record with an uncorrectable word is not
written, and its command completes with CONTAINED (R511). -/
def State.writeEntry (s : State) (env : Env) (e : RetEntry) : State :=
  match env.hw.buf with
  | .failed => ((s.errContained e.part 1 (e.id % 65536) (s.entryCtx e).item.toNat).failCmd e.cmd stContained).freeEntry e.id
  | c =>
    let s := s.doIf (decide (c = .corrected)) State.errCorrected
    match s.vwrite e.part e.addr (s.entryBytes e) with
    | .ok s1 => (s1.updEntry e.id (fun x => { x with state := .writing })).noteWrite (.entry e.id) e.part [(e.addr, (s.entryBytes e).length)]
    | .bad x => s.fault env e.part 0 x 0 (s.entryCtx e) (match e.bundle with | some h => .bundleResult h | none => .result e.id)

/-- A delivery of a cell group. -/
def ofGroup (port : PortId) (group : BitVec 12) (d : Deliv) : Bool := decide (d.port = port) && decide (d.group = group)

/-- The partition of a delivery's records. -/
def State.delivPart (s : State) (d : Deliv) : PartId :=
  match d.recs with | i :: _ => (match s.retEntry? i with | some e => e.part | none => 0) | [] => 0

/-- The wait of a cell group runs from the first record of its oldest delivery that is still being filled (R189). -/
def State.armDeliv (s : State) (port : PortId) (group : BitVec 12) : State :=
  let s1 := s.timerDel (.delivWait port group)
  match s.ret.delivs.find? (fun d => ofGroup port group d && !d.due) with
  | some d => s1.timerAdd (.delivWait port group) (d.since + 64 * (s.part (s.delivPart d)).delivWait.force.toNat)
  | none => s1

/-- A delivery that changes, its group's wait with it. -/
def State.setDeliv (s : State) (old new : Deliv) : State :=
  ({ s with ret := { s.ret with delivs := s.ret.delivs.map (fun d => if d = old then new else d) } }).armDeliv old.port old.group

/-- A new delivery behind the others of its group. -/
def State.newDeliv (s : State) (port : PortId) (group : BitVec 12) (id : Nat) (due : Bool) : State :=
  ({ s with ret := { s.ret with delivs := s.ret.delivs ++ [(⟨port, group, [id], due, s.pins.now⟩ : Deliv)] } }).armDeliv port group

/-- A record joins the last delivery of its group, where that is being filled, else begins one; a bundle's result is a delivery of its own. What is
released later stands behind what was released before (R82, R189). -/
def State.joinDeliv (s : State) (e : RetEntry) (port : PortId) (group : BitVec 12) : State :=
  if e.bundle.isSome then s.newDeliv port group e.id true
  else match (s.ret.delivs.filter (ofGroup port group)).getLast? with
    | some d =>
      if d.due then s.newDeliv port group e.id (decide ((s.part e.part).delivWait.force = 0))
      else s.setDeliv d { d with recs := d.recs ++ [e.id], due := decide (d.recs.length + 1 = 32) }
    | none => s.newDeliv port group e.id (decide ((s.part e.part).delivWait.force = 0))

/-- An entry is released: its write is issued, or it joins its delivery. -/
def State.release (s : State) (env : Env) (e : RetEntry) : State :=
  let s1 := s.updEntry e.id (fun x => { x with state := .released })
  match e.deliver with
  | none => s1.writeEntry env e
  | some (port, group) => s1.joinDeliv e port group

/-- The flow's next release is not held back by items that no one will take in. -/
def skipTo (f : Flow) : Nat → Nat
  | 0 => f.rel
  | n + 1 => match f.skip.find? (fun k => decide (k.1 ≤ f.rel) && decide (f.rel < k.1 + k.2)) with
    | some k => skipTo { f with rel := k.1 + k.2 } n
    | none => f.rel

/-- One entry released of an ordered flow whose turn has come. -/
def State.releaseOne (s : State) (env : Env) (f : Flow) : Option State :=
  let rel := skipTo f f.skip.length
  let set := fun (s : State) (n : Nat) => { s with ret := { s.ret with flows := s.ret.flows.map (fun g =>
    if g.part = f.part && g.flow = f.flow then { g with rel := n } else g) } }
  match s.ret.entries.find? (fun e => decide (e.part = f.part) && decide (e.flow = f.flow) && e.order == some rel && decide (e.state = .held)) with
  | some e => some ((set s (rel + 1)).release env e)
  | none => if rel = f.rel then none else some (set s rel)

/-- Runs of consecutive entries of every flow released (R190); a flow is no longer held once its last result is released (R81). -/
def State.releaseRuns (s : State) (env : Env) : Nat → State
  | 0 => s
  | n + 1 => match s.ret.flows.findSome? (s.releaseOne env) with
    | some s1 => s1.releaseRuns env n
    | none => { s with ret := { s.ret with flows := s.ret.flows.filter (fun f => decide (f.rel < f.next)) } }

/-- A command's last record has been released: it has ended and none of its entries waits for release. -/
def State.lastReleased (s : State) (r : CmdRef) : Bool :=
  !s.ret.entries.any (fun e => decide (e.cmd = r) && (decide (e.state = .reserved) || decide (e.state = .held)))
    && (match s.cmd? r with | some c => c.phase == .finished | none => true)

/-- Deliveries that hold a record of a command whose last record has been released are due (R189); one release may release the last
records of several commands of a flow. -/
def State.delivLast (s : State) : State :=
  (s.ret.delivs.filter (fun d => !d.due && d.recs.any (fun i => match s.retEntry? i with | some e => s.lastReleased e.cmd | none => false))).foldl
    (fun s d => s.setDeliv d { d with due := true }) s

/-- Everything whose turn has come is released. -/
def State.releaseAll (s : State) (env : Env) : State :=
  (s.releaseRuns env (s.ret.entries.length + 2 * (s.ret.flows.length + 1) + (s.ret.flows.map (fun f => f.skip.length)).foldl (· + ·) 0)).delivLast

/-- Items of an ordered command that will not be taken in leave no gap in their flow. -/
def State.skipItems (s : State) (p : PartId) (c : Cmd) (flow : W16) : State :=
  if orderedBit c.raw && decide (c.next < c.last) then
    { s with ret := { s.ret with flows := s.ret.flows.map (fun f =>
        if f.part = p && f.flow = flow then { f with skip := f.skip ++ [(c.flowSeq + c.next, c.last - c.next)] } else f) } }
  else s

/-- A command takes in no more items: those that it will not take in leave no gap, and what waited behind them is released (R81, R82). -/
def State.skipRest (s : State) (env : Env) (p : PartId) (r : CmdRef) : State :=
  match s.cmd? r with
  | some c => if isTraverse (opOf c.raw) then
      ((s.skipItems p c (BitVec.ofNat 16 (flowField c.raw))).updCmd r (fun x => { x with last := x.next })).releaseAll env else s
  | none => s

/-- A command takes in no more records and ends with `st` once those it took are done; the delivery of its last record is due where that has been
released (R63, R189). -/
def State.endIntake (s : State) (env : Env) (p : PartId) (r : CmdRef) (st : W16) : State := ((s.skipRest env p r).cutIntake r st).delivLast

/-! ## Acceptance (R188) -/

/-- A record or a finished bundle is accepted: it uses the entry reserved for it, or a free one; the item is retired (R78). -/
def State.accept (s : State) (env : Env) (p : PartId) (flow : W16) (c : Cmd) (r : CmdRef) (index : Nat) (bundle : Option Nat) (record : Rec32)
    (deliver : Option (PortId × BitVec 12)) (addr : Nat) (bad : Bool) : State :=
  let fill := fun (e : RetEntry) => { e with state := .held, record := record, deliver := deliver, addr := addr, bundle := bundle }
  let s1 := match s.reserved? r index with
    | some e => s.updEntry e.id fill
    | none => { s with ret := { s.ret with
        entries := s.ret.entries ++ [fill ⟨s.ret.next, p, flow, flowOrder c index, r, index, .held, bundle, record, deliver, addr⟩],
        next := s.ret.next + 1 } }
  let s2 := (s1.updCmd r (fun c => { c with writes := c.writes + 1 })).itemsDone r 1 bad
  let s3 := match s2.ret.entries.find? (fun e => decide (e.cmd = r) && e.index == index && e.order.isNone && decide (e.state = .held)) with
    | some e => s2.release env e
    | none => s2
  s3.releaseAll env

/-- DELIVER and DEST of a TRAVERSE command. -/
def deliverOf (raw : Slot64) : Option (PortId × BitVec 12) :=
  let tr := isTrace (opOf raw)
  if bit raw (if tr then 161 else 177) then
    let d := if tr then rb raw 22 2 else rb raw 32 2
    some ((BitVec.ofNat 4 (d / 4096)).toFin, BitVec.ofNat 12 d)
  else none

/-- HIT_ADDR + 32 × n (R60). -/
def hitAddr (raw : Slot64) (index : Nat) : Nat := rb raw 24 8 + 32 * index

/-- A ray's record handed to the Retriever. -/
def State.acceptRay (s : State) (env : Env) (p : PartId) (flow : W16) (c : Cmd) (r : CmdRef) (index : Nat) (record : Rec32) : State :=
  let st := fldN record 160 16
  s.accept env p flow c r index none record (deliverOf c.raw) (hitAddr c.raw index) (decide (1 < st % 256) || nfld st 8 2 != 0)

/-! ## RETURN (R92, R188) -/

/-- The share takes this item's record: an entry is reserved for it, or the share has a free one. -/
def State.canAccept (s : State) (p : PartId) (r : CmdRef) (index : Nat) : Bool := (s.reserved? r index).isSome || s.retRoom p

/-- The result of a foreign ray. A foreign ray is never forwarded (R383); its FORWARDED bit holds END of R375. -/
def rayBody (r : Ray) (f : Foreign) (code : Nat) : MsgBody :=
  .rayResult (resultPrefix (if code = 0x17 then 4 else 0) r.cand.fwd 0 []) (hitRecord { r with cand := { r.cand with fwd := false } } f.hdr.queryId code)

/-- A terminated ray can leave: the Retriever's share takes its record, or the link its result. -/
def State.canReturn (s : State) (i : Nat) (r : Ray) : Bool :=
  (match r.wait with | .ended _ => true | _ => false)
    && (match s.foreign? i with
      | some f => s.canSend (s.backLink f) (s.hdr f.hdr.queryId f.hdr.subtree f.hdr.src) (rayBody r f 0)
      | none => match r.cmd with | some c => (s.cmd? c).isSome && s.canAccept (s.kPart i) c r.index | none => false)

/-- A finished bundle whose result the Retriever's share takes (R92, R188). -/
def State.bundleReturns (s : State) (b : Bundle) : Bool :=
  decide (b.state = .done) && b.result.isSome && decide (b.head < 262144)
    && (match b.cmd with | some c => (s.cmd? c).isSome && s.canAccept b.part c b.index | none => false)

/-- The RETURNs of a partition that are ready, each by its slot: rays that have ended and bundles that have finished (R396, R397). -/
def State.returns (s : State) (p : PartId) : List (Nat × Turn) :=
  s.kennel.slots.filterMap (fun e => match e.2.data with
    | .ray x => if e.2.part = p && s.canReturn e.1 x then some (e.1, ⟨p, x.cls, x.doneAt, (s.kId e.1).toNat⟩) else none
    | _ => none)
  ++ s.strain.bundles.filterMap (fun b =>
    if b.part = p && s.bundleReturns b then some (b.head, ⟨p, b.cls, b.readyAt, (s.kId b.head).toNat⟩) else none)

/-- The RETURN that a partition's list issues next is that of a slot (R188, R397, R398). -/
def State.returnNext (s : State) (p : PartId) (i : Nat) : Bool :=
  match s.listTurn (s.issueCount p 6) (·.2) (s.returns p) with
  | some x => decide (x.1 = i)
  | none => false

/-- A RETURN is made: it counts on its list, and the trace says where it went past a higher class (R398, R408). -/
def State.returned (s : State) (p : PartId) (i : Nat) : State :=
  let l := s.returns p
  let s1 := s.countIssue p 6
  match l.find? (fun x => decide (x.1 = i)) with
  | some x => s1.doIf (s.issueCount p 6 == 15 && l.any (fun y => decide (y.2.cls.toNat < x.2.cls.toNat)))
      (·.record { TraceRec.of 4 6 p.val 0 with cls := x.2.cls.toNat, item := x.2.id })
  | none => s1

/-! ## DELIVERY and DELIV_WAIT_EXPIRY (R10, R11, R12, R189) -/

/-- Credit of a cell group on a network. -/
def State.creditOf (s : State) (port : PortId) (net : Net) (group : BitVec 12) : Nat :=
  (s.ret.credit.findSome? (fun e => if e.1 = (port, net, group) then some e.2 else none)).getD 0

/-- Credit changed; a key with none is not listed. -/
def State.setCredit (s : State) (port : PortId) (net : Net) (group : BitVec 12) (n : Nat) : State :=
  let l := s.ret.credit.filter (fun e => decide (e.1 ≠ (port, net, group)))
  { s with ret := { s.ret with credit := if n = 0 then l else ((port, net, group), n) :: l } }

/-- `n` words drawn. -/
def State.drawCredit (s : State) (port : PortId) (net : Net) (group : BitVec 12) (n : Nat) : State :=
  s.setCredit port net group (s.creditOf port net group - n)

/-- A message leaves on a fabric port. -/
def State.sendPort (s : State) (m : PortMsg) : State := { s with pins := { s.pins with sent := s.pins.sent ++ [m] } }

/-- The oldest delivery of a cell group, if it is due. -/
def State.delivHead (s : State) (port : PortId) (group : BitVec 12) : Option Deliv :=
  match s.ret.delivs.find? (fun d => decide (d.port = port) && decide (d.group = group)) with
  | some d => if d.due then some d else none
  | none => none

/-- Vector words of a delivery: 16 of hit records, or a bundle's result. -/
def State.delivWords (s : State) (d : Deliv) : Option (List Slot64) :=
  match d.recs with
  | [i] => match s.retEntry? i with
    | some e => match e.bundle with
      | some h => (s.bundle? h).map (fun b => b.result.getD [])
      | none => none
    | none => none
  | _ => none

/-- The records of a delivery message: record n for lane n, all-zero records beyond those that are valid (R11). -/
def laneRecords (l : List Rec32) : List Rec32 := (List.range 32).map (fun n => l.getD n 0)

/-- The due delivery of a cell group is sent against one control token and its vector words, unless its partition is in PARTITION_ERROR or a reset (R457);
its entries are freed. -/
def State.deliver (s : State) (port : PortId) (group : BitVec 12) : State :=
  match s.delivHead port group with
  | none => s
  | some d =>
    let w := s.delivWords d
    let n := match w with | some l => l.length | none => 16
    if s.works (s.delivPart d) && s.portLive port && decide (1 ≤ s.creditOf port .control group) && decide (n ≤ s.creditOf port .vector group) then
      let m := match w with
        | some l => PortMsg.probe port group l.length l
        | none => PortMsg.delivery port group d.recs.length (laneRecords (d.recs.filterMap (fun i => (s.retEntry? i).map (·.record))))
      let s1 := (((s.drawCredit port .control group 1).drawCredit port .vector group n).sendPort m)
      let s2 := { s1 with ret := { s1.ret with delivs := s1.ret.delivs.erase d } }
      d.recs.foldl State.freeEntry s2
    else s

/-- DELIVERY (R11, R189). -/
def execDelivery (port : PortId) (group : BitVec 12) (s : State) : Host.Outcome State Fault Refusal :=
  if s.ready then .next (s.deliver port group) else .next s

/-- The oldest delivery of a cell group that is being filled is due. -/
def State.delivDue (s : State) (port : PortId) (group : BitVec 12) : State :=
  match s.ret.delivs.find? (fun d => ofGroup port group d && !d.due) with
  | some d => s.setDeliv d { d with due := true }
  | none => s

/-- DELIV_WAIT_EXPIRY: DELIV_WAIT has passed since the first record joined; the delivery is due, and goes out against credit. -/
def execDelivWaitExpiry (port : PortId) (group : BitVec 12) (t : Nat) (s : State) : Host.Outcome State Fault Refusal :=
  if s.ready && s.timerFires (.delivWait port group) t then
    .next (((s.fire (.delivWait port group) t).delivDue port group).deliver port group)
  else .next s

end Sys2Proof.Machine
end

