-- ==== Sys2Proof/Machine/Ray.lean ====
section
/-!
DEFINITION. Sys2Proof/Machine/Ray.lean: the walk of a ray (R170 to R187): the box test, the triangle test, candidates, programs, instances,
remote subtrees, the stack (R102 to R106), and the rows TEST, SPILL_SLOT_GRANT and SPILL_WAIT_TIMEOUT.
-/

namespace Sys2Proof.Machine

/-! ## What a ray walks -/

/-- The instance a ray is in. -/
def State.rayInst (s : State) (r : Ray) : Option InstFrame := if r.ts.inInst then r.inst.bind s.frame? else none

/-- Origin and direction, in object space while IN_INST is 1. -/
def State.raySpace (s : State) (r : Ray) : Vector W32 3 × Vector W32 3 :=
  match s.rayInst r with
  | some f => (f.origin, f.dir)
  | none => (r.origin, r.dir)

/-- Address of the node a ray visits. -/
def nodeVa (r : Ray) : Nat := r.base + 128 * r.ts.cur

/-- The program table of a ray: its command's captured table (R160), or the host partition's (R363). -/
def State.rayProgs (s : State) (r : Ray) : ProgTable :=
  match r.cmd with
  | some c => match s.cmd? c with | some x => x.progs | none => []
  | none => (s.part s.hostPart).progs

/-- The program of a role: slot (PROG_BASE + role) mod 256, none where it is empty or bound to another role (R179). -/
def State.progOf (s : State) (r : Ray) (role : Nat) : Option (Nat × Prog) :=
  let base := match s.rayInst r with | some f => f.progBase.toNat | none => 0
  let slot := (base + role) % 256
  match assocGet slot (s.rayProgs r) with
  | some g => if g.role.toNat = role then some (slot, g) else none
  | none => none

/-- INVALID is set on a ray; the report follows with the operation's (R258, R259, R262). -/
def State.rayInvalid (s : State) (i key : Nat) : State :=
  (s.updRay i (fun r => { r with cand := { r.cand with invalid := true } })).pushInvs [⟨fsRay, 0, key, (s.kId i).toNat⟩]

def State.rayNonres (s : State) (i : Nat) : State := s.updRay i (fun r => { r with cand := { r.cand with nonres := true } })

/-! ## Ends and invocations (R182, R186) -/

/-- The auxiliary slots of a ray: everything but its ray slot. -/
def State.freeAux (s : State) (i : Nat) : State :=
  let s0 := match (s.ray? i).bind (·.leash) with | some l => s.timerDel (.lease l) | none => s
  let s1 := s0.kFreeAll ((s.raySlots i).filter (fun k => k != i))
  (s1.kLink i none).updRay i (fun r => { r with inst := none, leash := none, ts := { r.ts with inInst := false, ext := false, short := [] } })

/-- A ray ends with a code, frees its auxiliary slots and is ready for RETURN. -/
def State.endRay (s : State) (i : Nat) (code : Nat) : State :=
  ((s.timerDel (.spill i)).freeAux i).updRay i (fun r =>
    { r with wait := .ended (BitVec.ofNat 8 code), rstate := .active, doneAt := s.pins.now })

/-- A ray ends with FWD_FAIL, which RK_FWD_STAT counts (R362, R393). -/
def State.rayFwdFail (s : State) (i : Nat) : State :=
  ({ s with fwd := { s.fwd with fwdFails := satInc s.fwd.fwdFails } }).endRay i 0x18

/-- A ray invokes a program and leaves its TU with RESUME 1 (R173, R182); PACK_WAIT runs from the first invocation that waits for a group (R180). -/
def State.invokeRay (s : State) (i role slot : Nat) (prim t : W32) (u v : W16) (rec32 : Rec32) (opq : Bool) : State :=
  match s.ray? i with
  | none => s
  | some r =>
    let p := s.kPart i
    let s1 := s.setRay i { r with wait := .invoke role slot prim t u v rec32 opq, rstate := .invokeWait, visit := { r.visit with resume := true } }
    let first := !s.herd.invokes.any (fun v => decide (v.part = p) && decide (v.cls = r.cls) && decide (v.caddy = r.caddy) && v.slot == slot)
    let s2 := { s1 with herd := { s1.herd with invokes := s1.herd.invokes ++ [(⟨p, r.cls, r.caddy, slot, i, s.pins.now⟩ : Invoke)] } }
    s2.doIf first (·.timerAdd (.groupWait p r.cls r.caddy slot) (s.pins.now + (if s.firing p && decide (r.cls = 0) then 0 else s.packWaitNs)))

/-- A ray's walk is over without an error: the closest-hit filter runs where there is a hit, SKIP_CLOSEST is clear and one is bound. -/
def State.finishRay (s : State) (i : Nat) : State :=
  match s.ray? i with
  | none => s
  | some r =>
    match (if r.cand.valid && !bit r.flags 4 then s.progOf r 2 else none) with
    | some g => s.invokeRay i 2 g.1 r.cand.prim r.tmax r.cand.u r.cand.v 0 false
    | none => s.endRay i (rayCode r)

/-- A ray's visit goes on: it enters the Herder keyed by its node's line with RESUME 1 (R173, R174). -/
def State.resumeRay (s : State) (i : Nat) : State :=
  match s.ray? i with
  | none => s
  | some r =>
    (s.setRay i { r with wait := .none, visit := { r.visit with resume := true } }).enter (.ray i) (s.kPart i) (nodeVa r / 128)

/-! ## Candidates (R178) -/

/-- INST_ID of a candidate. -/
def State.instId (s : State) (r : Ray) : W32 := match s.rayInst r with | some f => f.instId | none => 0xFFFFFFFF

/-- Whether a candidate is eligible. -/
def eligible (r : Ray) (inst prim t : W32) : Bool :=
  fle r.tmin t && fle t r.tmax && (!r.cand.valid || flt t r.tmax
    || decide (inst < r.cand.inst) || (decide (inst = r.cand.inst) && decide (prim < r.cand.prim)))

/-- Acceptance sets TMAX and stores the candidate (R187). -/
def acceptCand (r : Ray) (inst prim t : W32) (u v : W16) : Ray :=
  { r with tmax := t, cand := { r.cand with valid := true, prim := prim, inst := inst, u := u, v := v } }

/-- How a step of the leaf phase comes out: it goes on, the ray has left its TU, or an access failed. -/
inductive Leg where
  | go (s : State)
  | out (s : State)
  | bad (s : State) (x : Xfault)

/-- The visit is left at a place of a leaf child; past place 31 the child is finished, which PRIM_POS cannot say (R128, R174). -/
def State.leave (s : State) (i c pos : Nat) : State :=
  s.updRay i (fun r => { r with visit :=
    if 32 ≤ pos then { r.visit with resume := true, leafDone := setBit r.visit.leafDone c true, child := none, primPos := 0 }
    else { r.visit with resume := true, child := some c, primPos := BitVec.ofNat 5 pos } })

/-- An accepted hit ends the ray under FIRST_HIT (R186). -/
def State.afterAccept (s : State) (i : Nat) : Leg :=
  match s.ray? i with
  | some r => if bit r.flags 0 then .out (s.finishRay i) else .go s
  | none => .out s

/-- A candidate is offered (R178, R179): accepted where it is opaque or no any-hit program is bound, else given to any-hit, the visit left as
`lv` says. -/
def State.offer (s : State) (lv : State → State) (i : Nat) (prim t : W32) (u v : W16) (opq : Bool) : Leg :=
  match s.ray? i with
  | none => .out s
  | some r =>
    let inst := s.instId r
    if !eligible r inst prim t then .go s
    else
      match (if opq then none else s.progOf r 1) with
      | none => (s.setRay i (acceptCand r inst prim t u v)).afterAccept i
      | some g => .out ((lv s).invokeRay i 1 g.1 prim t u v 0 false)

/-- Opacity (R177): `primBit` is the primitive word's, none for a Gaussian. -/
def State.opaque_ (s : State) (r : Ray) (primBit : Bool) : Bool :=
  if bit r.flags 3 then true
  else match s.rayInst r with
    | some f => if bit f.iflags 1 then true else if bit f.iflags 2 then false else primBit
    | none => primBit

/-! ## The box test (R170) -/

/-- The child is skipped. -/
def skipChild (r : Ray) (k : BoxChild) : Bool :=
  (BitVec.ofNat 8 k.mask &&& r.vis) == 0 || (k.kind == 1 && bit r.flags 6) || (k.kind == 4 && bit r.flags 5) || (k.kind == 3 && bit r.flags 7)

/-- One axis: near and far limits, none where it sets no limit; `none` of the whole where the axis misses the child. -/
def axisTest (o d lo hi : W32) : Option (Option (W32 × W32)) :=
  if d.toNat % 2 ^ 31 = 0 then (if fle lo o && fle o hi then some none else none)
  else
    let q := fun (r : Rnd) (b : W32) => BitVec.ofNat 32 (Fmt.fp32.div r .quiet ((v32 b).sub (v32 o)) (v32 d)).1
    if bit d 31 then some (some (q .down hi, q .up lo)) else some (some (q .down lo, q .up hi))

/-- Axes from the a-th on, against the entry and exit so far. -/
def axesTest (o d lo hi : Vector W32 3) : List (Fin 3) → W32 → W32 → Option W32
  | [], en, ex => if fle en ex then some en else none
  | a :: r, en, ex =>
    match axisTest o[a] d[a] lo[a] hi[a] with
    | none => none
    | some none => axesTest o d lo hi r en ex
    | some (some (n, f)) => axesTest o d lo hi r (if flt en n then n else en) (if flt f ex then f else ex)

/-- The entry of a hit child. -/
def boxTest (r : Ray) (o d : Vector W32 3) (k : BoxChild) : Option W32 := axesTest o d k.lo k.hi [0, 1, 2] r.tmin r.tmax

/-- An entry as a sorting key: entries are not below zero. -/
def entryKey (w : W32) : Nat := if bit w 31 then 0 else w.toNat

/-- The hit children with their entries, by ascending entry, ties to the lower slot (R171). -/
def boxPhase (r : Ray) (o d : Vector W32 3) (kids : List BoxChild) : List (W32 × BoxChild) :=
  sortBy (fun a b => keyLe (entryKey a.1, a.2.slot, 0) (entryKey b.1, b.2.slot, 0))
    ((kids.filter (fun k => !skipChild r k)).filterMap (fun k => (boxTest r o d k).map (fun e => (e, k))))

/-! ## The triangle test (R176, R177) -/

/-- What the watertight test finds. -/
inductive TriRes where
  | miss
  | invalid
  | hit (t : W32) (u v : W16)
deriving DecidableEq, Repr

/-- An edge function p q − r s in FP32; one that is exactly zero is recomputed without rounding. -/
def edgeFn (p q r s : W32) : Val :=
  let e := fsub .near (fmul .near p q) (fmul .near r s)
  if e.toNat % 2 ^ 31 = 0 && isFin32 p && isFin32 q && isFin32 r && isFin32 s then
    ((v32 p).mul (v32 q)).sub ((v32 r).mul (v32 s))
  else v32 e

/-- The axis of largest |d|, the first among equals. -/
def mainAxis (d : Vector W32 3) : Fin 3 :=
  let m := fun (a : Fin 3) => d[a].toNat % 2 ^ 31
  if m 1 ≤ m 0 && m 2 ≤ m 0 then 0 else if m 2 ≤ m 1 then 1 else 2

def isPosV (v : Val) : Bool := Val.zero.lt v
def isNegV (v : Val) : Bool := v.lt Val.zero

/-- An edge of a triangle from its first vertex, exactly. -/
def triEdge (v0 v : Vector W32 3) (a : Fin 3) : Val := (v32 v[a]).sub (v32 v0[a])

/-- (V1 − V0) × (V2 − V0), exactly. -/
def triNormal (v0 v1 v2 : Vector W32 3) (a : Fin 3) : Val :=
  ((triEdge v0 v1 (a + 1)).mul (triEdge v0 v2 (a + 2))).sub ((triEdge v0 v1 (a + 2)).mul (triEdge v0 v2 (a + 1)))

/-- A triangle of zero area, which the test never hits (R133, R176). -/
def flat (v0 v1 v2 : Vector W32 3) : Bool := (triNormal v0 v1 v2 0).isZero && (triNormal v0 v1 v2 1).isZero && (triNormal v0 v1 v2 2).isZero

/-- The watertight test of one triangle. -/
def triTest (o d v0 v1 v2 : Vector W32 3) : TriRes :=
  let kz := mainAxis d
  let flip := bit d[kz] 31
  let kx : Fin 3 := if flip then kz + 2 else kz + 1
  let ky : Fin 3 := if flip then kz + 1 else kz + 2
  let sx := fdiv .near d[kx] d[kz]
  let sy := fdiv .near d[ky] d[kz]
  let sz := fdiv .near 0x3F800000 d[kz]
  let rel := fun (v : Vector W32 3) => Vector.ofFn (fun (a : Fin 3) => fsub .near v[a] o[a])
  let x := fun (p : Vector W32 3) => fsub .near p[kx] (fmul .near sx p[kz])
  let y := fun (p : Vector W32 3) => fsub .near p[ky] (fmul .near sy p[kz])
  let a := rel v0
  let b := rel v1
  let c := rel v2
  let eu := edgeFn (x c) (y b) (y c) (x b)
  let ev := edgeFn (x a) (y c) (y a) (x c)
  let ew := edgeFn (x b) (y a) (y b) (x a)
  if flat v0 v1 v2 then .miss
  else
    let det := r32 .near ((v32 (r32 .near (eu.add ev))).add ew)
    if !isFin32 det then .invalid
    else if (isNegV eu || isNegV ev || isNegV ew) && (isPosV eu || isPosV ev || isPosV ew) then .miss
    else if det.toNat % 2 ^ 31 = 0 then .miss
    else
      let m := fun (e : Val) (p : Vector W32 3) => v32 (r32 .near (e.mul (v32 (fmul .near sz p[kz]))))
      let depth := r32 .near ((v32 (r32 .near ((m eu a).add (m ev b)))).add (m ew c))
      let t := fdiv .near depth det
      let u := (Fmt.fp16.div .near .quiet ev (v32 det)).1
      let v := (Fmt.fp16.div .near .quiet ew (v32 det)).1
      if isFin32 t && (Fmt.fp16.decode u).isFin && (Fmt.fp16.decode v).isFin then .hit t (BitVec.ofNat 16 u) (BitVec.ofNat 16 v) else .invalid

/-- DIR · ((V1 − V0) × (V2 − V0)) is below zero, exactly (R130). -/
def frontFacing (d v0 v1 v2 : Vector W32 3) : Bool :=
  let n := triNormal v0 v1 v2
  isNegV ((((v32 d[0]).mul (n 0)).add ((v32 d[1]).mul (n 1))).add ((v32 d[2]).mul (n 2)))

/-- A triangle is culled (R177). -/
def State.culled (s : State) (r : Ray) (d v0 v1 v2 : Vector W32 3) : Bool :=
  let f := frontFacing d v0 v1 v2
  match s.rayInst r with
  | some k =>
    let f := if bit k.iflags 4 then !f else f
    !bit k.iflags 3 && ((f && bit r.flags 2) || (!f && bit r.flags 1))
  | none => (f && bit r.flags 2) || (!f && bit r.flags 1)

/-! ## Leaf units (R173, R341) -/

/-- What the read of a leaf unit comes to. -/
inductive UnitRes where
  | got (s : State) (v : Nat)
  | skip (s : State)
  | wait (s : State) (line : Nat)
  | bad (s : State) (x : Xfault)

/-- A leaf unit read by the TU: from the pack's own line or the NC, else the ray waits on the unit's line. -/
def State.leafUnit (s : State) (p : PartId) (i tu line va : Nat) : UnitRes :=
  let r := s.resident p va (s.itemCtx (.ray i) tu)
  if !r.1 then .skip (r.2.rayNonres i)
  else match r.2.vunit p va with
    | .bad x => .bad r.2 x
    | .ok v => if va / 128 == line || r.2.inNc p (va / 128) then .got (r.2.l0Read (BitVec.ofNat 7 tu).toFin p (va / 128)) v else .wait r.2 (va / 128)

/-- The primitives of one unit from a place on; `f` counts them. -/
def primLoop (h : State → Nat → Nat → Leg) (v : Nat) : Nat → State → Nat → Leg
  | 0, s, _ => .go s
  | f + 1, s, pos => match h s v pos with
    | .go s1 => primLoop h v f s1 (pos + 1)
    | o => o

/-- The units of a leaf child from a place on; `per` primitives lie in a unit, `f` bounds the units. -/
def unitLoop (p : PartId) (i tu line per : Nat) (k : BoxChild) (h : State → Nat → Nat → Leg) : Nat → State → Nat → Leg
  | 0, s, _ => .go s
  | f + 1, s, pos =>
    if k.n ≤ pos then .go s
    else match s.ray? i with
      | none => .out s
      | some r =>
        match s.leafUnit p i tu line (r.base + 128 * (k.idx + pos / per)) with
        | .skip s1 => .go s1
        | .wait s1 l => .out ((s1.leave i k.slot pos).enter (.ray i) p l)
        | .bad s1 x => .bad (s1.leave i k.slot pos) x
        | .got s1 v =>
          let stop := min k.n ((pos / per + 1) * per)
          match primLoop h v (stop - pos) s1 pos with
          | .go s2 => unitLoop p i tu line per k h f s2 stop
          | o => o

/-- Triangle `pos` of a leaf (R176 to R178). -/
def triPrim (i : Nat) (k : BoxChild) (s : State) (v pos : Nat) : Leg :=
  match s.ray? i with
  | none => .out s
  | some r =>
    let n := pos % 3
    let word := by_ v (108 + 4 * n) 4
    if Nat.testBit word 29 then .go s
    else
      let sp := s.raySpace r
      let v0 := vec3 v (36 * n)
      let v1 := vec3 v (36 * n + 12)
      let v2 := vec3 v (36 * n + 24)
      let prim := word % 2 ^ 29
      match triTest sp.1 sp.2 v0 v1 v2 with
      | .miss => .go s
      | .invalid => .go (s.rayInvalid i prim)
      | .hit t bu bv =>
        if s.culled r sp.2 v0 v1 v2 then .go s
        else s.offer (·.leave i k.slot (pos + 1)) i (BitVec.ofNat 32 prim) t bu bv (s.opaque_ r (Nat.testBit word 30))

/-- Gaussian or procedural primitive `pos` of a leaf: its intersection program runs (R179). -/
def customPrim (i slot : Nat) (k : BoxChild) (s : State) (v pos : Nat) : Leg :=
  match s.ray? i with
  | none => .out s
  | some r =>
    let rec32 := by_ v (32 * (pos % 4)) 32
    let word := by_ rec32 28 4
    if Nat.testBit word 29 then .go s
    else .out ((s.leave i k.slot (pos + 1)).invokeRay i 0 slot (BitVec.ofNat 32 (word % 2 ^ 29)) 0 0 0 (BitVec.ofNat 256 rec32)
      (s.opaque_ r (k.kind == 4 && Nat.testBit word 30)))

/-! ## Instances (R183, R184) -/

/-- A component of W2O × (x, w), exact and rounded once. -/
def xform (m : Nat → Val) (x : Vector W32 3) (w : Bool) (a : Nat) : W32 :=
  let t := ((m (4 * a)).mul (v32 x[0])).add (((m (4 * a + 1)).mul (v32 x[1])).add ((m (4 * a + 2)).mul (v32 x[2])))
  r32 .near (if w then t.add (m (4 * a + 3)) else t)

/-- OBJ_ORIGIN and OBJ_DIR; none where the entry is invalid (R258). -/
def toObject (v : Nat) (r : Ray) : Option (Vector W32 3 × Vector W32 3) :=
  let m := fun (k : Nat) => v32 (BitVec.ofNat 32 (by_ v (4 * k) 4))
  let o := Vector.ofFn (fun (a : Fin 3) => xform m r.origin true a.val)
  let d := Vector.ofFn (fun (a : Fin 3) => xform m r.dir false a.val)
  if (List.range 12).all (fun k => (m k).isFin) && o.toList.all isFin32 && d.toList.all isFin32 && d.toList.any (fun w => w.toNat % 2 ^ 31 != 0) then
    some (o, d)
  else none

/-- A ray waits for a slot: SPILL_WAIT, at most 100 µs (R105). -/
def State.spillWait (s : State) (i : Nat) (w : RayWait) : State :=
  (s.updRay i (fun r => { r with wait := w, rstate := .spillWait, visit := { r.visit with resume := true } })).timerAdd (.spill i) (s.pins.now + 100000)

/-- The instance frame of an instance unit. -/
def instFrame (v : Nat) (r : Ray) (o d : Vector W32 3) : InstFrame :=
  ⟨o, d, BitVec.ofNat 32 (by_ v 56 4), r.ts, BitVec.ofNat 64 (by_ v 48 8 % 2 ^ 57), BitVec.ofNat 8 (by_ v 61 1), BitVec.ofNat 16 (by_ v 62 2), r.base, r.root⟩

/-- The ray enters the instance: its top-level state is saved and the bottom-level walk starts at the BLAS root (R183 steps 5 and 6). -/
def State.enterInst (s : State) (i f c pos : Nat) (fr : InstFrame) (b : Desc) : State :=
  let s1 := match s.kGet f with | some x => s.kPut f { x with data := .inst fr, link := s.kNext i } | none => s
  let s2 := (s1.kLink i none).updRay i (fun r => { r with
    base := b.base, root := b.root % 2 ^ 29, ts := ⟨false, [], true, b.root % 2 ^ 29⟩,
    visit := { r.visit with topDone := r.visit.leafDone, topPos := BitVec.ofNat 5 pos, topResume := true, topChild := some c,
                            leafDone := 0, primPos := 0, resume := false, child := none } })
  match s2.ray? i with
  | some r => s2.enter (.ray i) (s.kPart i) (nodeVa r / 128)
  | none => s2

/-- The instance slot of a ray, which it takes where it has none yet. -/
def State.instSlot (s : State) (env : Env) (i : Nat) (fr : InstFrame) : Option (Nat × State) :=
  match (s.ray? i).bind (·.inst) with
  | some f => some (f, s)
  | none => match s.kAux env (s.kPart i) (s.kIsForeign i) (.inst fr) with
    | some (f, s1) => some (f, s1.updRay i (fun r => { r with inst := some f }))
    | none => none

/-- A ray gives back an instance slot it has not entered with. -/
def State.dropInst (s : State) (i : Nat) : State :=
  match (s.ray? i).bind (·.inst) with
  | some f => (s.kFree f).updRay i (fun r => { r with inst := none })
  | none => s

/-- Instance `pos` of a leaf. -/
def instPrim (env : Env) (p : PartId) (i : Nat) (k : BoxChild) (s : State) (v pos : Nat) : Leg :=
  match s.ray? i with
  | none => .out s
  | some r =>
    if Nat.testBit (by_ v 61 1) 0 || (BitVec.ofNat 8 (by_ v 60 1) &&& r.vis) == 0 then .go s
    else match toObject v r with
      | none => .go (s.rayInvalid i (by_ v 56 4))
      | some (o, d) =>
        let fr := instFrame v r o d
        match s.instSlot env i fr with
        | none => .out ((s.leave i k.slot pos).spillWait i (.spillInst (r.base + 128 * (k.idx + pos))))
        | some (f, s1) => match s1.vdesc p (by_ v 48 8 % 2 ^ 57) with
          | .bad x => .bad (s1.leave i k.slot pos) x
          | .ok b => match b.usable 0 with
            | .notBound => .out (s1.endRay i 0x14)
            | .stale => .out (s1.endRay i 0x14)
            | .empty => .go (s1.dropInst i)
            | .ok => .out (s1.enterInst i f k.slot pos fr b)

/-- The bottom-level walk is over (R184). -/
def State.leaveInst (s : State) (i : Nat) : State :=
  match s.ray? i with
  | none => s
  | some r => match r.inst.bind (fun f => (s.frame? f).map (fun x => (f, x))) with
    | none => s.finishRay i
    | some (f, fr) =>
      let s1 := ((s.kLink i (s.kNext f)).kFree f).updRay i (fun r => { r with
        inst := none, base := fr.savedBase, root := fr.savedRoot, ts := fr.saved,
        visit := { r.visit with leafDone := r.visit.topDone, primPos := r.visit.topPos + 1, resume := r.visit.topResume, child := r.visit.topChild,
                                topDone := 0, topPos := 0, topResume := false, topChild := none } })
      -- A leaf of 32 instances is finished when PRIM_POS would pass 31.
      let s2 := if r.visit.topPos = 31 then s1.updRay i (fun r => { r with visit := { r.visit with
        leafDone := (match r.visit.child with | some c => setBit r.visit.leafDone c true | none => r.visit.leafDone), child := none, primPos := 0 } }) else s1
      match s2.ray? i with
      | some r2 => s2.enter (.ray i) (s.kPart i) (nodeVa r2 / 128)
      | none => s2

/-! ## The stack (R102 to R105) -/

/-- A node index as a short entry of CUR_NODE lies in 21 bits. -/
def inReach (cur : Nat) (e : Nat) : Bool :=
  let d : Int := (e : Int) - cur
  decide (-1048576 ≤ d) && decide (d ≤ 1048575)

/-- Short entries re-based on `cur`: the first out of range and all deeper move out, deepest first. -/
def rebase (cur : Nat) : List Nat → List Nat × List Nat
  | [] => ([], [])
  | e :: r => if inReach cur e then let x := rebase cur r; (e :: x.1, x.2) else ([], (e :: r).reverse)

/-- A push on the short stack, with what moves to the extension. -/
def pushShort (cur e : Nat) (st : List Nat × List Nat) : List Nat × List Nat :=
  let full := decide (3 ≤ st.1.length)
  let kept := if full then st.1.take 2 else st.1
  let x := rebase cur (e :: kept)
  (x.1, st.2 ++ (if full then st.1.drop 2 else []) ++ x.2)

/-- The newest extension slot of a ray's level and its entries, oldest first. -/
def State.extTop (s : State) (i : Nat) : Option (Nat × List Nat) :=
  match s.kNext i with
  | none => none
  | some e => match s.kGet e with
    | some ⟨_, _, _, .ext _ l⟩ => some (e, l)
    | _ => none

/-- The stack after a commit: short entries as indices, entries that move out, the next node. -/
structure Moves where
  short : List Nat
  out   : List Nat
  next  : Nat
deriving DecidableEq, Repr

/-- The stack after the walk goes on to `next` with `pushes`, nearest last. -/
def stackMoves (cur next : Nat) (short : List Int) (pushes : List Nat) : Moves :=
  let abs := short.map (fun d => ((cur : Int) + d).toNat)
  let st := pushes.foldl (fun st e => pushShort next e st) (rebase next abs)
  ⟨st.1, st.2, next⟩

/-- The moves are made; the ray goes on to the next node, its visit word cleared (R171 step 3). -/
def State.goTo (s : State) (i : Nat) (m : Moves) : State :=
  let s1 := s.updRay i (fun r => { r with
    wait := .none, ts := { r.ts with ext := (s.kNext i).isSome, short := m.short.map (fun (e : Nat) => (e : Int) - (m.next : Int)), cur := m.next },
    visit := { r.visit with leafDone := 0, primPos := 0, resume := false, child := none } })
  match s1.ray? i with
  | some r => s1.enter (.ray i) (s.kPart i) (nodeVa r / 128)
  | none => s1

/-- Entries appended to the newest extension slot, up to 15. -/
def State.extAppend (s : State) (e : Nat) (l : List Nat) : State :=
  match s.kGet e with
  | some x => match x.data with
    | .ext o es => s.kPut e { x with data := .ext o (es ++ l) }
    | _ => s
  | none => s

/-- The stack moves of a commit are made with the extension slots they need: at most one more; a fifth ends the ray (R105), and one that
cannot be had makes it wait. -/
def State.applyMoves (s : State) (env : Env) (i : Nat) (m : Moves) (pushes : List Nat) : State :=
  let top := s.extTop i
  let used := match top with | some t => t.2.length | none => 15
  if used + m.out.length ≤ 15 || m.out.isEmpty then
    (match top with | some t => s.extAppend t.1 m.out | none => s).goTo i m
  else if 4 ≤ (s.chain 8 (s.kNext i)).length then s.endRay i 0x11
  else
    let s1 := match top with | some t => s.extAppend t.1 (m.out.take (15 - used)) | none => s
    match s1.kAux env (s.kPart i) (s.kIsForeign i) (.ext i (m.out.drop (15 - used))) with
    | none => s.spillWait i (.spillPush pushes m.next)
    | some (e, s2) => (((s2.kLink e (s1.kNext i)).kLink i (some e)).goTo i m)

/-- The newest extension entry is popped; an empty slot is freed (R104). -/
def State.extPop (s : State) (i e : Nat) (l : List Nat) : State :=
  if l.length ≤ 1 then (s.kLink i (s.kNext e)).kFree e
  else match s.kGet e with
    | some x => s.kPut e { x with data := .ext i l.dropLast }
    | none => s

/-- The commit (R171 step 3): to the nearest hit child, or a pop; with an empty stack the ray leaves its instance or ends. -/
def State.commit (s : State) (env : Env) (i : Nat) (hits : List Nat) : State :=
  match s.ray? i with
  | none => s
  | some r =>
    match hits with
    | h :: rest => s.applyMoves env i (stackMoves r.ts.cur h r.ts.short rest.reverse) rest.reverse
    | [] => match r.ts.short with
      | d :: short =>
        let next := ((r.ts.cur : Int) + d).toNat
        let s1 := s.updRay i (fun r => { r with ts := { r.ts with short := short } })
        s1.applyMoves env i (stackMoves r.ts.cur next short []) []
      | [] => match s.extTop i with
        | some (e, l) => (s.extPop i e l).goTo i ⟨[], [], l.getLast?.getD 0⟩
        | none => if r.ts.inInst then s.leaveInst i else s.finishRay i

/-! ## Remote subtrees (R185) -/

/-- A remote child's entry read: the index of its root, held locally. -/
inductive RemoteRes where
  | root (s : State) (idx : Nat)
  | leg (l : Leg)

/-- A hit REMOTE child. -/
def State.remoteChild (s : State) (p : PartId) (i tu line : Nat) (k : BoxChild) : RemoteRes :=
  match s.ray? i with
  | none => .leg (.out s)
  | some r =>
    let sub := k.idx % 65536
    let sh := r.subBase
    if r.kind != 2 || r.ts.inInst || r.cmd.isNone then .leg (.out (s.endRay i 0x17))
    else match s.owner? sub with
      | none => .leg (.out (s.rayFwdFail i))
      | some e =>
        if e.primary = s.boot.chipId || e.replica = some s.boot.chipId then
          if sub < sh.2.2 || sh.2.2 + sh.2.1 ≤ sub then .leg (.out (s.endRay i 0x17))
          else
            let va := subEntryAddr sh.1 sh.2.2 sub
            match s.leafUnit p i tu line (va / 128 * 128) with
            | .skip s1 => .leg (.go (s1.updRay i (fun r => { r with visit := { r.visit with leafDone := setBit r.visit.leafDone k.slot true } })))
            | .wait s1 l => .leg (.out ((s1.leave i k.slot 0).enter (.ray i) p l))
            | .bad s1 x => .leg (.bad (s1.leave i k.slot 0) x)
            | .got s1 v => .root s1 (by_ v (va % 128 + 4) 4 % 2 ^ 29)
        else .leg (.out ((s.leave i k.slot 0).updRay i (fun r =>
          { r with wait := .forward k.slot (BitVec.ofNat 16 sub), rstate := .active, doneAt := s.pins.now })))

/-! ## The visit (R169 to R175) -/

/-- The order in which kinds are handled in the leaf phase (R171). -/
def leafRank (kind : Nat) : Nat := if kind = 1 then 0 else if kind = 3 then 1 else if kind = 4 then 2 else if kind = 2 then 3 else if kind = 5 then 4 else 5

/-- The place a leaf child starts at: PRIM_POS for the child under way. -/
def startPos (r : Ray) (c : Nat) : Nat := if r.visit.child = some c then r.visit.primPos.toNat else 0

/-- One leaf child, whole; kinds 6 and 7 end the ray (R128). -/
def State.leafChild (s : State) (env : Env) (p : PartId) (i tu line : Nat) (k : BoxChild) : Leg :=
  match s.ray? i with
  | none => .out s
  | some r =>
    let pos := startPos r k.slot
    if k.kind = 1 then unitLoop p i tu line 3 k (triPrim i k) 32 s pos
    else if k.kind = 2 then
      if r.ts.inInst then .out (s.endRay i 0x13) else unitLoop p i tu line 1 k (instPrim env p i k) 32 s pos
    else if k.kind = 3 || k.kind = 4 then
      match s.progOf r 0 with
      | none => .out (s.endRay i 0x14)
      | some g => unitLoop p i tu line 4 k (customPrim i g.1 k) 32 s pos
    else .out (s.endRay i 0x17)

/-- A leaf child is finished. -/
def State.leafDone (s : State) (i c : Nat) : State :=
  s.updRay i (fun r => { r with visit := { r.visit with leafDone := setBit r.visit.leafDone c true, child := none, primPos := 0 } })

/-- The leaf phase over the hit leaf children in their order, then the commit with the hit internal children (R171). -/
def State.leafPhase (s : State) (env : Env) (p : PartId) (i tu line : Nat) (inner : List (W32 × Nat × Nat)) : List (W32 × BoxChild) → Leg
  | [] => .out (s.commit env i ((sortBy (fun a b => keyLe (entryKey a.1, a.2.1, 0) (entryKey b.1, b.2.1, 0)) inner).map (fun x => x.2.2)))
  | (e, k) :: r =>
    match s.ray? i with
    | none => .out s
    | some ray =>
      if bit ray.visit.leafDone k.slot then s.leafPhase env p i tu line inner r
      else if k.kind = 5 then
        match s.remoteChild p i tu line k with
        | .root s1 idx => s1.leafPhase env p i tu line (inner ++ [(e, k.slot, idx)]) r
        | .leg (.go s1) => s1.leafPhase env p i tu line inner r
        | .leg o => o
      else match s.leafChild env p i tu line k with
        | .go s1 => (s1.leafDone i k.slot).leafPhase env p i tu line inner r
        | o => o

/-- The leaf children that a repeated box phase no longer hits are done (R174). -/
def missedDone (r : Ray) (kids : List BoxChild) (hits : List (W32 × BoxChild)) : Ray :=
  if !r.visit.resume then r
  else
    let gone := kids.filter (fun k => k.kind != 0 && !hits.any (fun h => h.2.slot == k.slot))
    let done := gone.foldl (fun d k => setBit d k.slot true) r.visit.leafDone
    let lost := match r.visit.child with | some c => gone.any (fun k => k.slot == c) | none => false
    { r with visit := { r.visit with leafDone := done, child := if lost then none else r.visit.child, primPos := if lost then 0 else r.visit.primPos } }

/-- One ray's visit of its node. -/
def State.visitRay (s : State) (env : Env) (p : PartId) (i tu line : Nat) : Leg :=
  match s.ray? i with
  | none => .out s
  | some r =>
    let res := s.resident p (nodeVa r) (s.itemCtx (.ray i) tu)
    if !res.1 then .out ((res.2.rayNonres i).commit env i [])
    else match res.2.vunit p (nodeVa r) with
      | .bad x => .bad (res.2.updRay i (fun r => { r with visit := { r.visit with resume := true } })) x
      | .ok v =>
        let kids := boxChildren v
        let sp := res.2.raySpace r
        let hits := boxPhase r sp.1 sp.2 kids
        let s1 := res.2.setRay i { (missedDone r kids hits) with wait := .none }
        let leaves := sortBy (fun a b => keyLe (leafRank a.2.kind, entryKey a.1, a.2.slot) (leafRank b.2.kind, entryKey b.1, b.2.slot))
          (hits.filter (fun h => h.2.kind != 0))
        let inner := (hits.filter (fun h => h.2.kind == 0)).map (fun h => (h.1, h.2.slot, h.2.idx % 2 ^ 29))
        s1.leafPhase env p i tu line inner leaves

/-! ## TEST -/

/-- The rays of a pack in turn, up to the first access that fails. -/
def State.visitAll (s : State) (env : Env) (p : PartId) (tu line : Nat) : List HWait → Leg
  | [] => .go s
  | w :: rest =>
    match w.item with
    | .ray i => match s.visitRay env p i tu line with
      | .go s1 => s1.visitAll env p tu line rest
      | .out s1 => s1.visitAll env p tu line rest
      | .bad s1 x => .bad s1 x
    | _ => s.visitAll env p tu line rest

/-- Every ray of a pack parks on the line that faulted (R169, R450), its visit resuming there (R175). -/
def State.parkPack (s : State) (env : Env) (p : PartId) (tu : Nat) (x : Xfault) (l : List HWait) : State :=
  let rays := l.filter (fun w => match w.item with | .ray _ => true | _ => false)
  (rays.foldl (fun s w => match w.item with
    | .ray i => s.updRay i (fun r => { r with visit := { r.visit with resume := true } })
    | _ => s) s).parkItems env p x tu rays

/-- The visits of a pack and their report; where an access fails no visit of the pack has happened, and the whole pack parks. -/
def State.visitPack (s : State) (env : Env) (p : PartId) (tu line : Nat) (l : List HWait) : State :=
  match s.visitAll env p tu line l with
  | .go s1 => s1.flushInvs p
  | .out s1 => s1.flushInvs p
  | .bad _ x => s.parkPack env p tu x l

/-- A TU may start a pack: its partition issues work, and a pack of another class gives way to DEADLINE work that is served and ready (R344). -/
def State.mayStart (s : State) (tu : TuId) (k : Pack) : Bool :=
  s.works k.part && (decide (s.packCls k = 0)
    || !(s.dlReady k.part || (s.firing k.part && (s.arr.tus[tu]).queue.any (fun x => decide (x.part = k.part) && decide (s.packCls x = 0)))))

/-- The pack of a type that a TU takes next: the first of its queue in the order of the ready lists that it may start (R168, R397). -/
def State.tuNext (s : State) (tu : TuId) (ops : List Nat) : Option Pack :=
  (sortBy s.packLe ((s.arr.tus[tu]).queue.filter (fun k => ops.contains (packOp k) && s.mayStart tu k))).head?

/-- A pack leaves a TU's queue for its operation, which reads its line through the L0; a spare that this empties hands its position back (R430). -/
def State.tuTake (s : State) (tu : TuId) (k : Pack) : State :=
  let t := s.arr.tus[tu]
  ({ s with arr := { s.arr with tus := s.arr.tus.set tu { t with queue := t.queue.erase k } } }.l0Read tu k.part k.line).handBacks

/-- LAST_TU of a pack's rays (R168). -/
def State.setLastTu (s : State) (tu : TuId) (k : Pack) : State :=
  k.items.foldl (fun s w => match w.item with
    | .ray i => s.updRay i (fun r => { r with visit := { r.visit with lastTu := BitVec.ofNat 8 tu.val } })
    | _ => s) s

/-- A residue error of a pack's operation: its rays end with CONTAINED (R511). `src` is the SOURCE of the error: the testers, or the address
arithmetic. -/
def State.endPack (s : State) (src : Nat) (tu : TuId) (k : Pack) : State :=
  k.items.foldl (fun s w => match w.item with
    | .ray i => (s.errContained k.part src tu.val (s.kId i).toNat).endRay i 0x17
    | _ => s) s

/-- A Kennel word that a pack's ray meets: a corrected one is counted; an uncorrectable one ends the ray with CONTAINED and takes the bank out
of service (R88, R118, R120, R511). -/
def State.kennelWord (s : State) (p : PartId) (items : List HWait) (w : Nat × Check) : State :=
  match (items.filterMap (fun x => match x.item with | .ray i => some i | _ => none)).find? (fun i => (s.raySlots i).contains w.1) with
  | none => s
  | some i => match w.2 with
    | .ok => s
    | .corrected => s.kennelCorrected
    | .failed => ((s.kennelLost w.1).errContained p 0 (w.1 % 64) (s.kId i).toNat).endRay i 0x17

/-- A ray has ended. -/
def State.rayOver (s : State) (i : Nat) : Bool := match s.ray? i with | some r => (match r.wait with | .ended _ => true | _ => false) | none => true

/-- The rays of a pack that an uncorrectable word has not ended. -/
def State.standing (s : State) (l : List HWait) : List HWait :=
  l.filter (fun w => match w.item with | .ray i => !s.rayOver i | _ => true)

/-- TEST: a TU visits a node with the pack it takes next (R169 to R175); `words` are the slots of its rays whose words the Kennel's code
corrected or gave up. A residue error of the testers counts toward AUTO_FENCE (R428, R511). -/
def execTest (tu : TuId) (check : Check) (words : List (Nat × Check)) (env : Env) (s : State) : Host.Outcome State Fault Refusal :=
  let s := s.at env.t
  if (s.tuPlace tu).isNone then .next s
  else match s.tuNext tu [1] with
    | none => .next s
    | some k =>
      let s0 := (s.tuTake tu k).setLastTu tu k
      let s1 := words.foldl (fun s w => s.kennelWord k.part k.items w) s0
      let l := s1.standing k.items
      if env.hw.addr then .next (s1.endPack 6 tu { k with items := l })
      else match check with
      | .failed => .next ((s1.endPack 3 tu { k with items := l }).residueError tu)
      | .corrected => .next (s1.errCorrected.visitPack env k.part tu.val k.line l)
      | .ok => .next (s1.visitPack env k.part tu.val k.line l)

/-! ## Verdicts (R181) -/

/-- A foreign walk ended on ACCEPT_END or END: RFLAGS.END of its result (R375), held in the FORWARDED bit that a foreign ray does not use. -/
def State.markEnd (s : State) (i : Nat) : State :=
  s.updRay i (fun r => if r.cmd.isNone then { r with cand := { r.cand with fwd := true } } else r)

/-- A program's verdict byte, with the t of an intersection program and the new PAYLOAD of a filter: the ray goes on, ends, or is given to
any-hit. -/
def State.verdict (s : State) (i v : Nat) (t : W32) (payload : Option W64) : State :=
  match s.ray? i with
  | none => s
  | some r =>
    match r.wait with
    | .invoke role _ prim ct u w _ opq =>
      let inst := s.instId r
      let legs := fun (l : Leg) => match l with | .go s1 => s1.resumeRay i | .out s1 => s1 | .bad s1 _ => s1
      if 3 < v then s.endRay i 0x15
      else if role = 0 then
        if v = 0 then s.resumeRay i
        else if v = 3 then (s.markEnd i).finishRay i
        else if isNan32 t then
          let s1 := s.rayInvalid i prim.toNat
          if v = 2 then (s1.markEnd i).finishRay i else s1.resumeRay i
        else if v = 2 then
          ((if eligible r inst prim t then s.setRay i (acceptCand r inst prim t 0 0) else s).markEnd i).finishRay i
        else legs (s.offer id i prim t 0 0 opq)
      else if role = 1 then
        if v = 0 then s.resumeRay i
        else if v = 3 then (s.markEnd i).finishRay i
        else
          let s1 := s.setRay i (acceptCand r inst prim ct u w)
          if v = 2 then (s1.markEnd i).finishRay i else if bit r.flags 0 then s1.finishRay i else s1.resumeRay i
      else
        let r1 := { r with payload := payload.getD r.payload, cand := { r.cand with valid := r.cand.valid && decide (v ≠ 0) } }
        (s.setRay i r1).endRay i (rayCode r1)
    | _ => s

/-! ## SPILL_WAIT (R105) -/

/-- A Leash of a ray before its first forward. -/
def Leash.fresh (kind : BitVec 2) : Leash := ⟨0, 0, kind, 0, 0, 0, 0, false, 0, 0, 0, 0, false, false, .cancel⟩

/-- SPILL_SLOT_GRANT: the slot a ray waits for is free: it takes it and goes on. -/
def execSpillSlotGrant (ray slot : Nat) (s : State) : Host.Outcome State Fault Refusal :=
  match s.ray? ray with
  | none => .next s
  | some r =>
    if decide (r.rstate ≠ .spillWait) || !s.works (s.kPart ray) then .next s
    else
      let env : Env := { s.env0 with slots := [slot] }
      let p := s.kPart ray
      let f := s.kIsForeign ray
      let off := (s.timerDel (.spill ray)).updRay ray (fun r => { r with rstate := .active })
      match r.wait with
      | .spillPush pushes next =>
        match s.kAux env p f (.ext ray []) with
        | none => .next s
        | some _ => .next (off.applyMoves env ray (stackMoves r.ts.cur next r.ts.short pushes) pushes)
      | .spillInst _ =>
        match off.kAux env p f (.inst ⟨r.origin, r.dir, 0, r.ts, 0, 0, 0, r.base, r.root⟩) with
        | none => .next s
        | some (k, s1) => .next ((s1.updRay ray (fun r => { r with inst := some k })).resumeRay ray)
      | .spillLeash child sub =>
        match off.kAux env p f (.leash (Leash.fresh 0)) with
        | none => .next s
        | some (k, s1) => .next (s1.updRay ray (fun r => { r with leash := some k, wait := .forward child sub, doneAt := s.pins.now }))
      | _ => .next s

/-- SPILL_WAIT_TIMEOUT: the slot was not granted within 100 µs; the ray ends with KENNEL_SPILL. -/
def execSpillWaitTimeout (ray : Nat) (t : Nat) (s : State) : Host.Outcome State Fault Refusal :=
  if s.ready && s.timerFires (.spill ray) t then
    let s1 := s.fire (.spill ray) t
    match s1.ray? ray with
    | some r => if r.rstate = .spillWait then .next (s1.endRay ray 0x12) else .next s1
    | none => .next s1
  else .next s

end Sys2Proof.Machine
end

