-- ==== Sys2Proof/Machine/Sync.lean ====
section
/-!
DEFINITION. Sys2Proof/Machine/Sync.lean: the synchronisation commands (R68 to R71), drains of a HEEL (R411 to R415), batch boundaries
(R414) and BIND_HIERARCHY (R72, R73).
-/

namespace Sys2Proof.Machine

/-- The command runs from now on. -/
def State.begin (s : State) (r : CmdRef) : State := s.updCmd r (fun c => { c with phase := .running })

/-! ## FENCE -/

/-- What a FENCE waits for has completed: scope 0 the earlier commands of its queue, scope 1 those admitted earlier in any queue of the
partition (R68). -/
def State.fenceMet (s : State) (q : QueueId) (c : Cmd) : Bool :=
  let earlier := fun (x : Queue) => x.cmds.all (fun d => decide (c.seq ≤ d.seq))
  if rb c.raw 8 1 = 0 then earlier (s.queue q) else (s.queuesOf (s.qPart q)).all (fun k => earlier (s.queue k))

/-- FENCE (R68). -/
def execFence (q : QueueId) (s : State) : Host.Outcome State Fault Refusal :=
  match s.beginning q 0x40 with
  | none => .next s
  | some c => if s.fenceMet q c then .next (s.finishOk ⟨q, c.seq⟩) else .next s

/-! ## WAIT_VALUE and SIGNAL_VALUE (R69, R70) -/

/-- The condition of a WAIT_VALUE: 0 at least, unsigned; 1 equal; 2 not equal (R68). -/
def waitHolds (cond sem val : Nat) : Bool :=
  if cond = 0 then decide (val ≤ sem) else if cond = 1 then decide (sem = val) else decide (sem ≠ val)

/-- The timers of a WAIT_VALUE end. -/
def State.waitEnd (s : State) (q : QueueId) : State := (s.timerDel (.waitValue q)).timerDel (.waitPoll q)

/-- A WAIT_VALUE evaluates its condition (R69); a fault parks the command (R450). -/
def State.waitEval (s : State) (env : Env) (q : QueueId) (c : Cmd) : State :=
  let r : CmdRef := ⟨q, c.seq⟩
  match s.vnum (s.qPart q) (rb c.raw 8 8) 8 with
  | .bad e => s.fault env (s.qPart q) 0 e 0 (s.cmdCtx r 0) (.command q c.seq)
  | .ok v => if waitHolds (rb c.raw 24 1) v (rb c.raw 16 8) then (s.finishOk r).waitEnd q else s

/-- The WAIT_VALUE of a queue that waits. -/
def State.waiting (s : State) (q : QueueId) : Option Cmd :=
  (s.queue q).cmds.find? (fun c => opOf c.raw == 0x41 && c.phase == .running && !c.parked)

/-- WAIT_VALUE becomes the oldest waiting command of its queue: it evaluates its condition, and waits with its timeout and its poll
every 1,024 ns, which run on while a fault of its semaphore parks it (R68, R69, R453). -/
def execWaitValue (q : QueueId) (env : Env) (s : State) : Host.Outcome State Fault Refusal :=
  let s := s.at env.t
  match s.beginning q 0x41 with
  | none => .next s
  | some c =>
    let r : CmdRef := ⟨q, c.seq⟩
    let us := rb c.raw 28 4
    let s1 := (s.begin r).timerAdd (.waitPoll q) (s.pins.now + 1024)
    .next ((s1.doIf (decide (us ≠ 0)) (·.timerAdd (.waitValue q) (s.pins.now + 1000 * us))).waitEval env q c)

/-- WAIT_VALUE_POLL: every 1,024 ns the condition is evaluated (R69). -/
def execWaitValuePoll (q : QueueId) (env : Env) (s : State) : Host.Outcome State Fault Refusal :=
  let s := s.doIf (s.ready && s.timerFires (.waitPoll q) env.t) (·.steepWord env (.waitPoll q))
  if s.ready && s.timerFires (.waitPoll q) env.t then
    let s1 := s.fire (.waitPoll q) env.t
    match s1.waiting q with
    | none => .next (s1.doIf ((s1.queue q).cmds.any (fun c => opOf c.raw == 0x41 && c.phase == .running))
        (·.timerAdd (.waitPoll q) (s1.pins.now + 1024)))
    | some c => .next ((s1.timerAdd (.waitPoll q) (s1.pins.now + 1024)).waitEval env q c)
  else .next s

/-- WAIT_TIMEOUT: TIMEOUT_US passes and WAIT_VALUE completes with WAIT_TIMEOUT (R69). -/
def execWaitTimeout (q : QueueId) (t : Nat) (s : State) : Host.Outcome State Fault Refusal :=
  if s.ready && s.timerFires (.waitValue q) t then
    let s1 := (s.fire (.waitValue q) t).waitEnd q
    match (s1.queue q).cmds.find? (fun c => opOf c.raw == 0x41 && c.phase == .running) with
    | none => .next s1
    | some c => .next (s1.finish ⟨q, c.seq⟩ stWaitTimeout)
  else .next s

/-- The operation of a SIGNAL_VALUE: 0 store, 1 add modulo 2^64, 2 unsigned maximum (R68). -/
def signalOp (op old val : Nat) : Nat :=
  if op = 0 then val else if op = 1 then (old + val) % 2 ^ 64 else max old val

/-- Every WAIT_VALUE of the partition evaluates its condition (R69). -/
def State.waitAll (s : State) (env : Env) (p : PartId) : State :=
  (s.queuesOf p).foldl (fun s q => match s.waiting q with | some c => s.waitEval env q c | none => s) s

/-- SIGNAL_VALUE: with every earlier command of its queue complete, one 64-bit atomic read-modify-write (R70); then the partition's
WAIT_VALUEs look again (R69). -/
def execSignalValue (q : QueueId) (env : Env) (s : State) : Host.Outcome State Fault Refusal :=
  let s := s.at env.t
  match s.beginning q 0x42 with
  | none => .next s
  | some c =>
    if (s.queue q).cmds.any (fun d => decide (d.seq < c.seq)) then .next s
    else
      let p := s.qPart q
      let r : CmdRef := ⟨q, c.seq⟩
      match s.translate p .atomic (rb c.raw 8 8) with
      | .bad e => .next (s.fault env p 0 e 0 (s.cmdCtx r 0) (.command q c.seq))
      | .ok pa =>
        let v := signalOp (rb c.raw 24 1) (s.mem.num pa 8) (rb c.raw 16 8)
        .next ((((s.poke pa (leBytes 8 v)).finishOk r).noteWrite (.command r) p [(rb c.raw 8 8, 8)]).waitAll env p)

/-! ## HEEL (R71, R411, R415) -/

/-- A drain reached a step of R411. -/
def State.traceDrain (s : State) (p : PartId) (step : Nat) : State := s.record (TraceRec.of 0x0A 0 p.val step)

/-- HEEL begins: admission stops in its scope and its limit runs, 10,000 µs where TIMEOUT_US is zero (R68, R411 steps 1 and 2). -/
def execHeel (q : QueueId) (t : Nat) (s : State) : Host.Outcome State Fault Refusal :=
  let s := s.at t
  match s.beginning q 0x43 with
  | none => .next s
  | some c =>
    let us := if rb c.raw 12 4 = 0 then 10000 else rb c.raw 12 4
    let s1 := s.updCmd ⟨q, c.seq⟩ (fun d => { d with phase := .running, hold := true })
    .next ((s1.timerAdd (.heel q) (s.pins.now + 1000 * us)).traceDrain (s.qPart q) 1 |>.traceDrain (s.qPart q) 2)

/-- No command of an engine's queues in the partition is admitted and incomplete, those that `but` exempts aside (R414). -/
def State.engineIdle (s : State) (p : PartId) (e : Nat) (but : QueueId → Cmd → Bool) : Bool :=
  (s.queuesOf p).all (fun q => decide (engineOf q ≠ e) || (s.queue q).cmds.all (but q))

/-- Step 3 of R411 is met for the HEEL of a queue. -/
def State.heelMet (s : State) (q : QueueId) : Bool :=
  match s.heelOf q with
  | some c => s.scopeEmpty (s.qPart q) (s.inScope q (rb c.raw 8 1)) (rb c.raw 8 1 == 2)
  | none => false

/-- HEEL_DRAINED: the scope is empty (R411 step 3); the boundary applies what R414 gives its scope, and the HEEL completes. -/
def execHeelDrained (q : QueueId) (s : State) : Host.Outcome State Fault Refusal :=
  match s.heelOf q with
  | none => .next s
  | some c =>
    let p := s.qPart q
    let scope := rb c.raw 8 1
    if s.ready && s.heelMet q then
      let s1 := (s.timerDel (.heel q)).traceDrain p 3
      let s2 := (s1.doIf (scope == 2) (fun s => (s.traceDrain p 4).cachesClean p)).traceDrain p 5
      let s3 := (s2.doIf (scope == 2) (·.boundaryPart (fun k => decide (k = p) || s.partIdle k) p)).doIf
        (s2.engineIdle p (engineOf q) (fun k d => decide (k = q) && decide (d.seq = c.seq))) (·.applyEngine p (engineOf q))
      .next ((s3.finishOk ⟨q, c.seq⟩).traceDrain p 6)
    else .next s

/-- An open fault of the scope is not answered (R458). -/
def State.scopeFault (s : State) (p : PartId) (f : QueueId → Bool) (whole : Bool) : Bool :=
  s.mmu.faults.any (s.faultIn p f whole)

/-- DRAIN_TIMEOUT: before step 3 of R411 is met, the HEEL completes with DRAIN_TIMEOUT and applies nothing; with a fault of its scope open, the
partition enters PARTITION_ERROR with reason DRAIN (R415, R458). -/
def execDrainTimeout (q : QueueId) (t : Nat) (s : State) : Host.Outcome State Fault Refusal :=
  if s.ready && s.timerFires (.heel q) t && !s.heelMet q then
    let s1 := s.fire (.heel q) t
    match s1.heelOf q with
    | none => .next s1
    | some c =>
      let p := s1.qPart q
      let scope := rb c.raw 8 1
      let bad := s1.scopeFault p (s1.inScope q scope) (scope == 2)
      .next ((s1.finish ⟨q, c.seq⟩ stDrainTimeout).doIf bad (·.partitionError p 3))
  else .next s

/-! ## Batch boundaries (R414) -/

/-- A HEEL of the engine has completed with no other command of the engine incomplete: the condition of an engine boundary (R414). -/
def State.engineBoundary (s : State) (p : PartId) (e : Nat) : Bool :=
  let heel := fun (c : Cmd) => opOf c.raw == 0x43 && c.phase == .finished && decide (c.status = 0)
  s.engineIdle p e (fun _ c => heel c) && (s.queuesOf p).any (fun q => decide (engineOf q = e) && (s.queue q).cmds.any heel)

/-- BATCH_BOUNDARY: where the scope is at a boundary, its shadows apply together (R414, R480). An idle partition is at one in every
cycle. -/
def execBatchBoundary (scope : BoundaryScope) (s : State) : Host.Outcome State Fault Refusal :=
  if !s.ready then .next s
  else match scope with
    | .engine p e => if s.engineBoundary p e.val then .next (s.applyEngine p e.val) else .next s
    | .partition p => if s.partIdle p then .next ((s.cachesClean p).boundaryPart s.partIdle p) else .next s
    | .block => if s.blockIdle then .next s.applyBlock else .next s

/-! ## BIND_HIERARCHY (R72, R73, R417) -/

/-- BIND_HIERARCHY: a slot bound, or emptied by address 0; a kind that the command's caddy does not enable completes with NOT_BOUND. -/
def execBindHierarchy (q : QueueId) (s : State) : Host.Outcome State Fault Refusal :=
  match s.beginning q 0x50 with
  | none => .next s
  | some c =>
    let p := s.qPart q
    let slot := rb c.raw 8 2
    let kind := rb c.raw 10 1
    let addr := rb c.raw 16 8
    let r : CmdRef := ⟨q, c.seq⟩
    if addr = 0 then .next ((s.updPart p (fun x => { x with hiers := assocDel slot x.hiers })).finishOk r)
    else if !bit (s.caddyEnt c.caddy p).kinds kind then .next (s.finish r stNotBound)
    else .next ((s.updPart p (fun x => { x with hiers := assocPut slot ⟨BitVec.ofNat 3 kind, addr⟩ x.hiers })).finishOk r)

end Sys2Proof.Machine
end

