-- ==== Sys2Proof/Machine/RayIn.lean ====
section
/-!
DEFINITION. Sys2Proof/Machine/RayIn.lean: TRACE_RAYS and RAY_INTAKE (R60, R61, R93, R96 to R100, R125, R159 to R161).
-/

namespace Sys2Proof.Machine

/-- TRACE_RAYS begins; each of its rays is taken in by RAY_INTAKE, and no binding is checked for the command as a whole (R97). -/
def execTraceRays (q : QueueId) (s : State) : Host.Outcome State Fault Refusal :=
  match s.beginning q 1 with
  | none => .next s
  | some c => .next (s.begin ⟨q, c.seq⟩)

/-- The commands of `l` that take their records from a fabric port, the oldest of each port. -/
def portHeads : List PortId → List Cmd → List Cmd
  | _, [] => []
  | seen, c :: r => if seen.contains (srcPort c.raw) then portHeads seen r else c :: portHeads (srcPort c.raw :: seen) r

/-- The commands of a queue whose records can be taken in, oldest first: those that run, are not parked and have records left, from memory
or, of each fabric port the oldest, from the vector network. -/
def State.intakes (s : State) (q : QueueId) (f : Nat → Bool) (vec : Bool) : List Cmd :=
  let l := (s.queue q).cmds.filter (fun c => takesIn c && !c.parked && f (opOf c.raw) && srcBit c.raw == vec)
  if vec then portHeads [] l else l

/-- The oldest of them. -/
def State.intakeCmd (s : State) (q : QueueId) (f : Nat → Bool) (vec : Bool) : Option Cmd := (s.intakes q f vec).head?

/-- An attempt to take in a record of a command has come to something: the record is taken, or the command is parked or takes in no more. -/
def State.advanced (s : State) (q : QueueId) (c : Cmd) : Bool :=
  match s.cmd? ⟨q, c.seq⟩ with
  | none => true
  | some d => d.parked || decide (d.next ≠ c.next) || decide (d.last ≠ c.last) || d.phase != .running

/-- The next record of the first command that is not held is taken in; a command that is held stops only itself (R161, R192). -/
def State.intakeTry (q : QueueId) (go : State → Cmd → State) : List Cmd → State → State
  | [], s => s
  | c :: r, s => if (go s c).advanced q c then go s c else State.intakeTry q go r (go s c)

/-- No earlier ordered command of the queue's flow has items that are not taken in (R82). -/
def State.orderTurn (s : State) (q : QueueId) (c : Cmd) : Bool :=
  !orderedBit c.raw || (s.queue q).cmds.all (fun d => decide (c.seq ≤ d.seq) || !orderedBit d.raw || flowField d.raw != flowField c.raw
    || decide (d.last ≤ d.next) || d.phase == .finished)

/-- A float of the record. -/
def recF (raw : Slot64) (b : Nat) : W32 := BitVec.ofNat 32 (rb raw b 4)

/-- The flow of a ray (R96). -/
def rayFlow (c : Cmd) (raw : Slot64) : W16 := BitVec.ofNat 16 (if bit c.raw 162 then rb raw 36 2 else flowField c.raw)

/-- A ray record breaks a rule of R99. -/
def State.badRay (s : State) (p : PartId) (c : Cmd) (raw : Slot64) : Bool :=
  let fs := (List.range 8).map (fun k => recF raw (4 * k))
  let od := (List.range 6).map (fun k => recF raw (4 * k))
  let fl := rb raw 38 2
  fs.any isNan32 || od.any (fun w => !isFin32 w)
    || ((List.range 3).all (fun k => (recF raw (12 + 4 * k)).toNat % 2 ^ 31 == 0))
    || flt (recF raw 24) 0 || flt (recF raw 28) (recF raw 24)
    || (Nat.testBit fl 1 && Nat.testBit fl 2)
    || (bit c.raw 162 && !s.flowIn p (rb raw 36 2))
    || fl / 256 != 0 || rb raw 42 2 / 1024 != 0

/-- A ray that ends at once as a miss (R100). -/
def emptyRay (raw : Slot64) : Bool :=
  let fl := rb raw 38 2
  rb raw 40 1 == 0 || (Nat.testBit fl 5 && Nat.testBit fl 6 && Nat.testBit fl 7)

/-- The Kennel copy of a ray record (R96, R172, R187). -/
def mkRay (c : Cmd) (r : CmdRef) (raw : Slot64) (d : Desc) (addr : Nat) : Ray where
  origin := Vector.ofFn (fun (a : Fin 3) => recF raw (4 * a.val))
  dir := Vector.ofFn (fun (a : Fin 3) => recF raw (12 + 4 * a.val))
  tmin := recF raw 24
  tmax := recF raw 28
  flow := rayFlow c raw
  flags := BitVec.ofNat 16 (rb raw 38 2) ||| (if bit c.raw 163 then 1 else 0)
  vis := BitVec.ofNat 8 (rb raw 40 1)
  rstate := .active
  hier := BitVec.ofNat 16 (rb raw 42 2)
  payload := BitVec.ofNat 64 (rb raw 44 8)
  ts := ⟨false, [], false, d.root % 2 ^ 29⟩
  visit := Visit.clear
  cand := ⟨0xFFFFFFFF, 0xFFFFFFFF, 0, 0, false, false, false, false, false⟩
  wait := .none
  cmd := some r
  index := c.next
  cls := c.cls
  caddy := c.caddy
  gen := c.gen
  ovf := c.ovf
  kind := BitVec.ofNat 3 d.kind
  base := d.base
  root := d.root % 2 ^ 29
  desc := addr
  inst := none
  leash := none
  line := 0
  subBase := (d.subAddr, d.subCount, d.subBase)
  doneAt := 0
  since := 0

/-- The record is taken in: the command goes on to its next one, and nothing holds it any more. -/
def State.taken (s : State) (r : CmdRef) : State := s.updCmd r (fun c => { c with next := c.next + 1, held := 0 })

/-- The intake of a command is held (R91, R161, R201). -/
def State.holdIntake (s : State) (r : CmdRef) (why : BitVec 5) : State := s.updCmd r (fun c => { c with held := why })

/-- A flow at its budget holds the command's intake (R161, R194). -/
def State.holdFlow (s : State) (p : PartId) (r : CmdRef) (flow : W16) : State := (s.stallFlow p flow).holdIntake r 16

/-- A ray that never takes a slot: its record, with ID 0, goes to the Retriever (R93, R159), once its share has a free entry. Only an ordered
command's record is held to its flow's budget, since it alone reserves an entry at admission (DESIGN CHOICE, log 164: R191 states the
budget of admitted rays and R159 has this one never admitted). -/
def State.directRay (s : State) (env : Env) (p : PartId) (c : Cmd) (r : CmdRef) (ray : Ray) (code : Nat) : State :=
  if orderedBit c.raw && !s.underBudget p ray.flow then s.holdFlow p r ray.flow
  else if !s.retRoom p then s.holdIntake r 16
  else (s.taken r).acceptRay env p ray.flow c r c.next (hitRecord ray 0 code)

/-- A ray that takes a slot: it enters the Herder for its root's line, or ends at once with a code (R97). -/
def State.admitRay (s : State) (env : Env) (p : PartId) (c : Cmd) (r : CmdRef) (ray : Ray) (code : Option Nat) : State :=
  if !s.underBudget p ray.flow then s.holdFlow p r ray.flow
  else if orderedBit c.raw && !s.retRoom p then s.holdIntake r 16
  else match s.kAdmit env p [.ray ray] with
    | some ([i], s1) =>
      let s2 := s1.taken r
      let s3 := match flowOrder c c.next with | some o => s2.reserve p ray.flow o r c.next none | none => s2
      match code with
      | some n => s3.endRay i n
      | none => s3.enter (.ray i) p (nodeVa ray / 128)
    | _ => s.holdIntake r 1

/-- One ray record of a command. -/
def State.takeRay (s : State) (env : Env) (p : PartId) (c : Cmd) (r : CmdRef) (raw : Slot64) : State :=
  let slot := rb raw 42 2 % 1024
  let plain := mkRay c r raw 0 0
  if s.badRay p c raw then s.directRay env p c r plain 0x10
  else if emptyRay raw then s.directRay env p c r plain 1
  else match assocGet slot c.hiers with
    | none => s.admitRay env p c r plain (some 0x14)
    | some h =>
      if decide (h.kind ≠ 0) && decide (h.kind ≠ 2) then s.admitRay env p c r plain (some 0x14)
      else
        let read := match assocGet slot c.descs with
          | some d => Acc.ok d
          | none => s.vdesc p h.addr
        match read with
        | .bad x => s.fault env p 0 x 0 (s.cmdCtx r 0) (.intake r.q r.seq)
        | .ok d =>
          let ray := mkRay c r raw d h.addr
          let s1 := match d.usable h.kind.toNat with
            | .notBound => s.directRay env p c r ray 0x14
            | .stale => s.directRay env p c r ray 0x17
            | .empty => s.directRay env p c r ray 1
            | .ok => s.admitRay env p c r ray none
          -- The read stands for the command's later rays once this one is taken in.
          s1.updCmd r (fun x => if x.next = c.next then x else { x with descs := assocPut slot d x.descs })

/-- The next record of a command, read from memory or arrived as `word`; its sender gets its credit back where Rampor grants (R10);
a held record is one that has come in (R91). -/
def State.rayFrom (env : Env) (p : PartId) (q : QueueId) (word : Option Slot64) (s : State) (c : Cmd) : State :=
  let r : CmdRef := ⟨q, c.seq⟩
  if !s.orderTurn q c then s
  else match word with
    | some w =>
      if s.portLive (srcPort c.raw) && (decide (c.held ≠ 0) || s.hasCredit (srcPort c.raw) .vector 1) then
        let s1 := s.takeRay env p c r w
        s1.doIf (s1.advanced q c) (·.useCredit (srcPort c.raw) .vector 1)
      else s
    | none => if env.hw.addr then (s.errContained p 6 q.val 0).endIntake env p r stContained
      else match s.vslot p (rb c.raw 8 8 + 64 * c.next) with
      | .bad x => s.fault env p 0 x 0 (s.cmdCtx r 0) (.intake q c.seq)
      | .ok w => s.takeRay env p c r w

/-- RAY_INTAKE: the next record of a running TRACE_RAYS, from memory or from the vector network (R61, R159, R161). -/
def execRayIntake (q : QueueId) (word : Option Slot64) (env : Env) (s : State) : Host.Outcome State Fault Refusal :=
  let s := s.at env.t
  let p := s.qPart q
  if !s.works p || decide (31744 < s.herd.store.length) then .next s
  else .next (State.intakeTry q (State.rayFrom env p q word) (s.intakes q isTrace word.isSome) s)

end Sys2Proof.Machine
end

