-- ==== Sys2Proof/Machine/Approx.lean ====
section
/-!
DEFINITION. Sys2Proof/Machine/Approx.lean: the functions that the spec holds to 2 units in the last place (R265, R280, R324): an
enclosure of the real value by integer arithmetic, and the FP32 words that lie within the bound, of which a free value picks one.
-/

namespace Sys2Proof.Machine

/-- A positive real enclosed: it lies between lo and hi, times 2^e. -/
structure Encl where
  lo : Nat
  hi : Nat
  e  : Int
deriving DecidableEq, Repr

/-- Quotient rounded down, or up. -/
def dq (up : Bool) (a b : Nat) : Nat := if up then (a + (b - 1)) / b else a / b

/-- One in the fixed point of 256 fraction bits. -/
def fx1 : Nat := 2 ^ 256

/-- Terms k to k + n - 1 of the exponential series at y, in fixed point, rounded to one side; rounded up, the rest is bounded by twice the next term. -/
def expSum (up : Bool) (y : Nat) : Nat → Nat → Nat → Nat → Nat
  | 0, _, t, acc => if up then acc + 2 * t else acc
  | n + 1, k, t, acc => expSum up y n (k + 1) (dq up (t * y) ((k + 1) * fx1)) (acc + t)

/-- exp y of a fixed-point y below 1, rounded to one side. -/
def expFx (up : Bool) (y : Nat) : Nat := expSum up y 48 0 fx1 0

/-- Squared n times in fixed point, rounded to one side. -/
def sqFx (up : Bool) : Nat → Nat → Nat
  | 0, v => v
  | n + 1, v => sqFx up n (dq up (v * v) fx1)

/-- exp (-m * 2^e) for an argument of magnitude below 128. -/
def expNeg (m : Nat) (e : Int) : Encl :=
  let y := m * 2 ^ (e + 249).toNat
  let lo := sqFx false 7 (expFx false y)
  let hi := sqFx true 7 (expFx true y)
  ⟨dq false (2 ^ 1024) hi, dq true (2 ^ 1024) lo, -768⟩

/-- ln 2 in fixed point, rounded down. -/
def ln2Fx : Nat := 0xb17217f7d1cf79abc9e3b39803f2f6af40f343267298b62d8a0d175b8baafa2b

/-- 2^x of a finite value; below 2^-400 and above 2^400, nothing but that is said. -/
def exp2Encl (v : Val) : Encl :=
  let x := Val.at_ v (-149)
  let k : Int := x / (2 ^ 149 : Nat)
  let f := (x % (2 ^ 149 : Nat)).toNat * 2 ^ 107
  if k < -400 then ⟨0, 1, -400⟩
  else if 400 < k then ⟨1, 1, 400⟩
  else ⟨expFx false (dq false (f * ln2Fx) fx1), expFx true (dq true (f * (ln2Fx + 1)) fx1), k - 256⟩

/-- 1 / (m * 2^e). -/
def rcpEncl (m : Nat) (e : Int) : Encl := ⟨dq false (2 ^ 512) m, dq true (2 ^ 512) m, -512 - e⟩

/-- 1 / sqrt (m * 2^e). -/
def rsqrtEncl (m : Nat) (e : Int) : Encl :=
  let odd := e % 2 ≠ 0
  let m' := if odd then 2 * m else m
  let e' := if odd then e - 1 else e
  let r := isqrt (2 ^ 1024 / m')
  ⟨r, r + 1, -512 - e' / 2⟩

/-- n binary digits of log2 of a fixed-point y of [1, 2), after those of acc, rounded to one side. -/
def logDigits (up : Bool) : Nat → Nat → Nat → Nat
  | 0, _, acc => acc
  | n + 1, y, acc =>
    let z := dq up (y * y) fx1
    if 2 * fx1 ≤ z then logDigits up n (dq up z 2) (2 * acc + 1) else logDigits up n z (2 * acc)

/-- log2 (m * 2^e): its sign and its magnitude. -/
def log2Encl (m : Nat) (e : Int) : Bool × Encl :=
  let g := Nat.log2 m
  let y := m * 2 ^ (256 - g)
  let k : Int := (e + g) * (2 ^ 160 : Nat)
  let lo : Int := k + logDigits false 160 y 0
  let hi : Int := k + (if y = fx1 then 0 else logDigits true 160 y 0 + 1 : Nat)
  if 0 ≤ lo then (false, ⟨lo.toNat, hi.toNat, -160⟩) else (true, ⟨(-hi).toNat, (-lo).toNat, -160⟩)

/-! ## Sine and cosine -/

/-- π / 2 with 512 fraction bits, rounded down. -/
def halfPiFx : Nat :=
  0x1921fb54442d18469898cc51701b839a252049c1114cf98e804177d4c76273644a29410f31c6809bbdf2a33679a748636605614dbe4be286e9fc26adadaa3848b

/-- 1 / (2 π) with 640 fraction bits, rounded down. -/
def invTwoPiFx : Nat :=
  0x28be60db9391054a7f09d5f47d4d377036d8a5664f10e4107f9458eaf7aef1586dc91b8e909374b801924bba827464873f877ac72c4a69cfba208d7d4baed1213a671c09ad17df904e64758e60d4ce7d

/-- The terms of the exponential series at θ, in fixed point of 512 bits, whose number is `sel` modulo 4. -/
def trigSum (up : Bool) (sel y : Nat) : Nat → Nat → Nat → Nat → Nat
  | 0, _, t, acc => if up then acc + 2 * t else acc
  | n + 1, k, t, acc => trigSum up sel y n (k + 1) (dq up (t * y) ((k + 1) * 2 ^ 512)) (if k % 4 = sel then acc + t else acc)

/-- The terms `p` modulo 4 less the terms `p + 2` modulo 4, at an angle between two: the cosine for 0, the sine for 1. -/
def trigEncl (p lo hi : Nat) : Encl :=
  let f := fun up sel y => trigSum up sel y 104 0 (2 ^ 512) 0
  ⟨f false p lo - f true (p + 2) hi, f true p hi - f false (p + 2) lo, -512⟩

/-- The angle m * 2^e as a quarter of the circle and what it has beyond or before it: the quarter, whether before, the magnitude in
radians, in fixed point of 512 bits, from one side and from the other. -/
def quarter (m : Nat) (e : Int) : Nat × Bool × Nat × Nat :=
  let t := 2 ^ 789
  let lo := 4 * (m * invTwoPiFx * 2 ^ (e + 149).toNat)
  let hi := 4 * (m * (invTwoPiFx + 1) * 2 ^ (e + 149).toNat)
  let q := (lo + t / 2) / t
  let before := decide (lo < q * t)
  let a := if before then q * t - hi else lo - q * t
  let b := if before then q * t - lo else hi - q * t
  (q % 4, before, dq false (a * halfPiFx) t, dq true (b * (halfPiFx + 1)) t)

/-- The sine (k 0) or the cosine (k 1) of m * 2^e: its sign and its magnitude. -/
def trigOf (k m : Nat) (e : Int) : Bool × Encl :=
  let x := quarter m e
  let q := (x.1 + k) % 4
  let isSin := q % 2 == 0
  (decide (2 ≤ q) != (isSin && x.2.1), trigEncl (if isSin then 1 else 0) x.2.2.1 x.2.2.2)

/-! ## The words within the bound -/

/-- The exponent of a unit in the last place of FP32 at a value of at least `lo` * 2^e. -/
def ulpExp (lo : Nat) (e : Int) : Int := if lo = 0 then -149 else max (-149) ((Nat.log2 lo : Int) + e - 23)

/-- The magnitudes of FP32 within 2 units in the last place of a value that an enclosure holds, rising. -/
def within2 (x : Encl) : List Nat :=
  let n := (Fmt.fp32.roundQ .near .sat false x.lo 1 x.e).1
  let slack := Val.fin false 1 (ulpExp x.lo x.e + 1)
  ((List.range 9).filterMap (fun i => if 4 ≤ n + i then some (n + i - 4) else none)).filter (fun w =>
    decide (w ≤ Fmt.fp32.top)
      && (Fmt.fp32.decode w).le ((Val.fin false x.hi x.e).add slack)
      && (Val.fin false x.lo x.e).le ((Fmt.fp32.decode w).add slack))

/-- One of some words, chosen by a free value. -/
def pickOf (l : List Nat) (k d : Nat) : Nat := l.getD (k % max 1 l.length) d

/-- The value is beyond the range of FP32 before it is rounded (R254). -/
def beyond32 (x : Encl) : Bool := (Val.fin false (2 ^ 25 - 1) 103).le (Val.fin false x.lo x.e)

/-- A result of a sign within 2 units in the last place, under an overflow mode: the word and whether OVERFLOW is set. -/
def approx32 (o : Ovf) (neg : Bool) (x : Encl) (k : Nat) : W32 × Bool :=
  if beyond32 x then let r := Fmt.fp32.overflow .near o neg; (BitVec.ofNat 32 r.1, r.2)
  else (BitVec.ofNat 32 (Fmt.fp32.signed neg (pickOf (within2 x) k 0)), false)

/-- A NaN is written as the canonical one (R239). -/
def canon32 (w : W32) : W32 := if isNan32 w then f32Nan else w

/-- exp of a difference that is not above 0: 1 at 0, +0 below −104, else a value of [+0, 1] within 2 units in the last place (R265). -/
def expOf (d : W32) : W32 :=
  match v32 d with
  | .nan => f32Nan
  | .inf _ => 0
  | .fin _ m e =>
    if m = 0 then 0x3F800000
    else if flt d 0xC2D00000 then 0
    else BitVec.ofNat 32 (pickOf ((within2 (expNeg m e)).filter (fun w => decide (w ≤ 0x3F800000))) (Config.expPick d) 0)

end Sys2Proof.Machine
end

