-- ==== Sys2Proof/Machine/Score.lean ====
section
/-!
DEFINITION. Sys2Proof/Machine/Score.lean: the arithmetic of probes: elements and scales (R111, R112), the leaf scorer (R242 to R249), the
projection record (R203, R204, R251), the bound (R205), the reduction operators (R224, R225, R264, R265), and the ranking of candidates
(R216).
-/

namespace Sys2Proof.Machine

/-! ## Elements (R111, R112, R241) -/

/-- Bytes of an element of a QFMT, KFMT or VFMT encoding; none where it is undefined. -/
def elemBytes (f : Nat) : Option Nat := if f ≤ 3 then some 1 else if f = 4 then some 2 else none

/-- Bytes of an element; encoding 5 is the FP16 that reaches the scorer from programs only (R241). -/
def elemWidth (f : Nat) : Nat := if f ≤ 3 then 1 else 2

/-- The exact value of an element. -/
def elemVal (f w : Nat) : Val :=
  if f = 0 then Fmt.e4m3.decode (w % 256)
  else if f = 1 then Fmt.e5m2.decode (w % 256)
  else if f = 2 then Val.ofInt (IntFmt.decode .s8 w)
  else if f = 3 then Val.ofNat (w % 256)
  else if f = 5 then Fmt.fp16.decode (w % 65536)
  else Fmt.bf16.decode (w % 65536)

def intFmt (f : Nat) : Bool := f == 2 || f == 3

/-- The elements of a row of `d` elements held in bytes. -/
def rowVals (f d : Nat) (bytes : Nat) : List Val :=
  let e := elemWidth f
  (List.range d).map (fun k => elemVal f (by_' bytes (e * k) e))
where by_' (v b n : Nat) : Nat := (v / 256 ^ b) % 256 ^ n

/-- The block scales of a row: E8M0 bytes, 127 (a factor of 1) for a 16-bit format. -/
def rowScales (f d : Nat) (bytes : Nat) : List Nat :=
  (List.range (d / 32)).map (fun b => if f = 4 then 127 else (bytes / 256 ^ b) % 256)

/-- An element times its block scale (exact); a scale of 0xFF is NaN. -/
def scaled (v : Val) (sc : Nat) : Val := if sc = 255 then .nan else v.scale ((sc : Int) - 127)

/-- Elements with their block scales applied. -/
def scaledRow (vals : List Val) (scs : List Nat) : List Val :=
  (vals.zip (List.range vals.length)).map (fun x => scaled x.1 (scs.getD (x.2 / 32) 127))

/-! ## The leaf scorer (R242 to R249) -/

/-- floor(log2 |v|) of a finite non-zero value. -/
def vLog2 (v : Val) : Int := match v with | .fin _ m e => (Nat.log2 m : Int) + e | _ => 0

/-- Truncated toward −∞ to a multiple of 2^q. -/
def floorTo (v : Val) (q : Int) : Val :=
  match v with
  | .fin n m e =>
    if q ≤ e then v
    else
      let k := roundQuot .down n m (2 ^ (q - e).toNat)
      if k = 0 then .zero else .fin n k q
  | x => x

/-- Rounded toward −∞ to `sig` significant bits. -/
def downSig (sig : Nat) (v : Val) : Val :=
  match v with
  | .fin n m e => if m = 0 then v else let x := roundSig sig (-100000) .down n m 1 e; .fin n x.1 x.2
  | x => x

/-- The sum of one group of 16 products (R244, R245). -/
def groupSum (exact precise : Bool) (ps : List Val) : Val :=
  let s := ps.foldl Val.add .zero
  if s.isZero then .zero
  else if exact then s
  else
    let nz := ps.filter (fun p => !p.isZero)
    let e := (nz.map vLog2).foldl max ((nz.head?.map vLog2).getD 0)
    floorTo s (e - (if precise then 54 else 27))

/-- The result of one score: hi, lo, INVALID, OVERFLOW. -/
structure Sigma where
  hi  : W32
  lo  : W32
  inv : Bool
  ovf : Bool
deriving DecidableEq, Repr

/-- The special cases of R248; none where the adder tree runs. -/
def specialScore (q k : List Val) (badScale : Bool) (sq sk : W32) : Option Sigma :=
  let ps := q.zip k
  let inf := ps.filter (fun p => p.1.isInf || p.2.isInf)
  if badScale || q.any Val.isNan || k.any Val.isNan then some ⟨f32Nan, 0, true, false⟩
  else if inf.any (fun p => p.1.isZero || p.2.isZero) then some ⟨f32Nan, 0, true, false⟩
  else
    let neg := inf.any (fun p => p.1.sign != p.2.sign)
    let pos := inf.any (fun p => p.1.sign == p.2.sign)
    if neg && pos then some ⟨f32Nan, 0, true, false⟩
    else if neg || pos then some ⟨if (neg != bit sq 31) != bit sk 31 then f32NegInf else f32Inf, 0, false, false⟩
    else none

/-- Step 6 of R242, and the pair of R249. -/
def finalScore (a : Val) (sq sk : W32) (precise : Bool) (o : Ovf) : Sigma :=
  let v := ((v32 sq).mul (v32 sk)).mul a
  let h := n32 o v
  if !precise || h.2 || !isFin32 h.1 then ⟨h.1, 0, false, h.2⟩
  else ⟨h.1, r32 .near (v.sub (v32 h.1)), false, false⟩

/-- The groups of 16 of blocks from the b-th on, added to the accumulator in order. -/
def scoreAcc (exact precise : Bool) (q k : List Val) (qs ks : List Nat) : List Nat → Val → Val
  | [], a => a
  | g :: r, a =>
    let b := g / 2
    let ps := ((q.drop (16 * g)).take 16).zipWith Val.mul ((k.drop (16 * g)).take 16)
    let s := (groupSum exact precise ps).scale ((qs.getD b 127 : Int) + (ks.getD b 127 : Int) - 254)
    scoreAcc exact precise q k qs ks r (downSig (if precise then 64 else 40) (a.add s))

/-- σ of one query and one key. -/
def score (precise : Bool) (qf : Nat) (q : List Val) (qs : List Nat) (sq : W32) (kf : Nat) (k : List Val) (ks : List Nat) (sk : W32) (o : Ovf) :
    Sigma :=
  match specialScore q k (qs.any (· == 255) || ks.any (· == 255)) sq sk with
  | some x => x
  | none => finalScore (scoreAcc (intFmt qf && intFmt kf) precise q k qs ks (List.range (q.length / 16)) .zero) sq sk precise o

/-! ## Ranking (R207, R216) -/

/-- The pair of a candidate above another's (R216 rank 1); neither is NaN. -/
def pairGt (a b : HeapEnt) : Bool := flt b.score a.score || (!flt a.score b.score && flt b.lo a.lo)

/-- `a` ranks above `b`: NAN_RANK 2 is PROPAGATE, 1 LOWEST. -/
def ranksAbove (nanRank : BitVec 2) (a b : HeapEnt) : Bool :=
  match isNan32 a.score, isNan32 b.score with
  | true, true => decide (a.key < b.key)
  | true, false => decide (nanRank = 2)
  | false, true => decide (nanRank ≠ 2)
  | false, false => pairGt a b || (!pairGt b a && decide (a.key < b.key))

/-- A candidate enters a heap of at most `k` entries, kept in rank order (R216). -/
def heapInsert (nanRank : BitVec 2) (k : Nat) (h : List HeapEnt) (c : HeapEnt) : List HeapEnt :=
  if isNan32 c.score && decide (nanRank = 0) then h
  else if h.any (fun e => e.key == c.key) then h
  else (insertBy' (ranksAbove nanRank) c h).take k
where
  insertBy' (above : HeapEnt → HeapEnt → Bool) (c : HeapEnt) : List HeapEnt → List HeapEnt
    | [] => [c]
    | e :: r => if above c e then c :: e :: r else e :: insertBy' above c r

/-- θ of a heap (R207), not below its starting threshold. -/
def theta (precise : Bool) (nanRank : BitVec 2) (k : Nat) (h : List HeapEnt) (start : W32) : W32 :=
  let own := if h.length < k then f32NegInf
    else match h[k - 1]? with
      | none => f32NegInf
      | some e =>
        if isNan32 e.score then (if nanRank = 2 then f32Inf else f32NegInf)
        else if precise && flt e.lo 0 then fprev e.score else e.score
  if flt own start then start else own

/-! ## The projection record (R203, R204, R251) -/

/-- Rounded toward +∞: sum and product. -/
def upAdd (a b : W32) : W32 := fadd .up a b
def upMul (a b : W32) : W32 := fmul .up a b
def nrAdd (a b : W32) : W32 := fadd .near a b
def nrMul (a b : W32) : W32 := fmul .near a b
def fAbs (a : W32) : W32 := a &&& 0x7FFFFFFF
def maxF (a b : W32) : W32 := if flt a b then b else a

/-- n × 2^-24 in FP32, exact for n below 2^24. -/
def times24 (n : Nat) : W32 := r32 .near (.fin false n (-24))

/-- The projection of one query: P by rows as FP32, the scaled query. An overflow or a NaN anywhere makes it unbounded: EPS +∞. -/
def project (d : Nat) (pm : List (List W32)) (q : List Val) : Proj :=
  let qt := q.map (r32 .near)
  let dot := fun (row : List W32) => (row.zipWith nrMul qt).foldl nrAdd 0
  let p := pm.map dot
  let a := pm.map (fun row => (row.zipWith (fun x y => upMul (fAbs x) (fAbs y)) qt).foldl upAdd 0)
  let eps := upMul (times24 (d + 2)) (a.foldl maxF 0)
  let col := fun (k : Nat) => pm.map (fun row => row.getD k 0)
  let ks := List.range d
  let r := ks.map (fun k => fsub .near (qt.getD k 0) (((col k).zipWith nrMul p).foldl nrAdd 0))
  let b := ks.map (fun k => upAdd (fAbs (qt.getD k 0)) (((col k).zipWith (fun x y => upMul (fAbs x) (fAbs y)) p).foldl upAdd 0))
  let c := ks.map (fun k => upMul eps (((col k).map fAbs).foldl upAdd 0))
  let norm := fsqrtUp ((r.map (fun x => upMul x x)).foldl upAdd 0)
  let worst := (b.zipWith (fun x y => upAdd (upMul (times24 34) x) y) c).foldl maxF 0
  let rho := upAdd norm (upMul (fsqrtUp (r32 .near (Val.ofNat d))) worst)
  let all := qt ++ p ++ a ++ [eps] ++ r ++ b ++ c ++ [norm, worst, rho]
  if q.all Val.isFin && all.all isFin32 then ⟨p, eps, rho⟩ else ⟨p, f32Inf, rho⟩

/-! ## The bound (R205) -/

/-- B′ of one query and one child: coarse scales, projection, decoded box, radius; +∞ for an unbounded query. A bound
that comes out NaN, as 0 × ∞ does, is +∞ (DESIGN CHOICE, log 208). -/
def boundOf (sq sk : W32) (pr : Proj) (lo hi : List W32) (rad : W32) : W32 :=
  if !isFin32 pr.eps then f32Inf
  else
    let t := (pr.pq.zip (lo.zip hi)).map (fun x => maxF (upMul x.1 x.2.1) (upMul x.1 x.2.2))
    let m := (lo.zip hi).map (fun x => maxF (fAbs x.1) (fAbs x.2))
    let x := upAdd (upAdd (t.foldl upAdd 0) (upMul pr.eps (m.foldl upAdd 0))) (upMul pr.rho rad)
    let b := upMul (upMul sq sk) x
    let b' := upAdd (upAdd b (upMul (r32 .near (.fin false 1 (-22))) (fAbs b))) 0x00800000
    if isNan32 b' then f32Inf else b'

/-! ## Reduction (R224, R225, R264, R265) -/

/-- e(a, b) of R224. -/
def eFn (a b : W32) : W32 :=
  if isNan32 a || isNan32 b then f32Nan
  else if fle a b && fle b a then 0x3F800000
  else expOf (fsub .near a b)

/-- A value with its flags: INVALID where NaN comes of operands none of which is NaN, OVERFLOW. -/
structure Fl where
  v   : W32
  inv : Bool
  ovf : Bool
deriving DecidableEq, Repr

/-- The sum, rounded once. A NaN operand, read from memory or not, is no invalid operation of its own (DEDUCED, log 211). -/
def flAdd (o : Ovf) (a b : W32) : Fl :=
  let v := (v32 a).add (v32 b)
  let x := n32 o v
  ⟨x.1, v.isNan && !isNan32 a && !isNan32 b, x.2⟩

def flMul (o : Ovf) (a b : W32) : Fl :=
  let v := (v32 a).mul (v32 b)
  let x := n32 o v
  ⟨x.1, v.isNan && !isNan32 a && !isNan32 b, x.2⟩

def flDiv (o : Ovf) (a b : W32) : Fl :=
  let x := Fmt.fp32.div .near o (v32 a) (v32 b)
  ⟨BitVec.ofNat 32 x.1, isNan32 (BitVec.ofNat 32 x.1) && !isNan32 a && !isNan32 b, x.2⟩

/-- Sums of flagged steps: value and how many elements were invalid or overflowed. -/
structure Tally where
  inv : Nat
  ovf : Nat
deriving DecidableEq, Repr

/-- One element of w: the sum over the keys of e × v, with its flags. -/
def wElem (o : Ovf) (es : List (W32 × W32)) : Fl :=
  match es with
  | [] => ⟨0, false, false⟩
  | (e, v) :: r =>
    let p := flMul o e v
    r.foldl (fun acc x =>
      let q := flMul o x.1 x.2
      let t := flAdd o acc.v q.v
      ⟨t.v, acc.inv || q.inv || t.inv, acc.ovf || q.ovf || t.ovf⟩) p

/-- The place of the first term at which the sum of one element of w becomes invalid. -/
def wFirst (o : Ovf) : Nat → Option W32 → List (W32 × W32) → Option Nat
  | _, _, [] => none
  | i, acc, x :: r =>
    let q := flMul o x.1 x.2
    let t := match acc with | none => q | some a => let u := flAdd o a q.v; (⟨u.v, q.inv || u.inv, u.ovf⟩ : Fl)
    if t.inv then some i else wFirst o (i + 1) (some t.v) r

/-- The triple of one query over its keys of a chunk, (x, row) in ascending key order, with the flags of its elements and the place of the
first key whose term is invalid. -/
def chunkTriple (o : Ovf) (dv : Nat) (xs : List (W32 × List W32)) : Triple × Tally × Option Nat :=
  let m := (xs.map (·.1)).foldl maxF f32NegInf
  let es := xs.map (fun x => eFn x.1 m)
  let s := match es with | [] => 0 | e :: r => r.foldl nrAdd e
  let cols := (List.range dv).map (fun n => (es.zip xs).map (fun x => (x.1, x.2.2.getD n 0)))
  let ws := cols.map (wElem o)
  (⟨m, s, ws.map (·.v)⟩, ⟨(ws.filter (·.inv)).length, (ws.filter (·.ovf)).length⟩, (cols.filterMap (wFirst o 0 none)).min?)

/-- LSE_MERGE of two triples. -/
def lseMerge (o : Ovf) (a b : Triple) : Triple × Tally :=
  let m := maxF a.m b.m
  let e1 := eFn a.m m
  let e2 := eFn b.m m
  let comb := fun (x y : W32) =>
    let p := flMul o x e1
    let q := flMul o y e2
    let t := flAdd o p.v q.v
    (⟨t.v, p.inv || q.inv || t.inv, p.ovf || q.ovf || t.ovf⟩ : Fl)
  let ws := a.w.zipWith comb b.w
  (⟨m, (comb a.s b.s).v, ws.map (·.v)⟩, ⟨(ws.filter (·.inv)).length, (ws.filter (·.ovf)).length⟩)

/-- OUT_FMT: 0 FP32, 1 BF16, 2 E4M3. -/
def outFmt (f : Nat) : Fmt := if f = 1 then .bf16 else if f = 2 then .e4m3 else .fp32

/-- w ÷ s in OUT_FMT (R225): the codes with the flags of the elements. -/
def outElems (o : Ovf) (f : Nat) (t : Triple) : List W32 × Tally :=
  let es := t.w.map (fun w =>
    let q := flDiv o w t.s
    if f = 0 then q
    else let c := (outFmt f).round .near o (v32 q.v); (⟨BitVec.ofNat 32 c.1, q.inv, q.ovf || c.2⟩ : Fl))
  (es.map (·.v), ⟨(es.filter (·.inv)).length, (es.filter (·.ovf)).length⟩)

/-- SM_SCALE 0: the FP32 value nearest to 1 ÷ √d (R62). -/
def defaultScale (d : Nat) : W32 :=
  let x := 2 ^ 240 / d
  let r := isqrt x
  r32 .near (.fin false (2 * r + 1) (-121))

/-- x of R224: SM_SCALE times the score, under PRECISE of hi + lo rounded once. -/
def xOf (o : Ovf) (precise : Bool) (sm hi lo : W32) : Fl :=
  flMul o sm (if precise && isFin32 hi then nrAdd hi lo else hi)

/-- A value row: element × V_SCALE × block scale, rounded once; with the flags. A NaN or a 0xFF scale read from memory is invalid (R258). -/
def valueRow (o : Ovf) (vals : List Val) (scs : List Nat) (vs : W32) : List W32 × Tally :=
  let es := (vals.zip (List.range vals.length)).map (fun x =>
    let v := (scaled x.1 (scs.getD (x.2 / 32) 127)).mul (v32 vs)
    let r := n32 o v
    (⟨r.1, v.isNan, r.2⟩ : Fl))
  (es.map (·.v), ⟨(es.filter (·.inv)).length, (es.filter (·.ovf)).length⟩)


end Sys2Proof.Machine
end

