-- ==== Sys2Proof/Machine/Bundle.lean ====
section
/-!
DEFINITION. Sys2Proof/Machine/Bundle.lean: what the Strainer does with a bundle between its operations: result formats (R114 to R117), issue
in normal and tight mode (R209 to R212), the end of the walk, the weight lists of PROBE_REDUCE (R222, R228), how a bundle ends and how its
result leaves (R188, R231, R232, R375).
-/

namespace Sys2Proof.Machine

/-! ## Result formats (R114 to R117) -/

/-- Bytes of an output element (R62). -/
def outBytes (f : Nat) : Nat := if f = 0 then 4 else if f = 1 then 2 else 1

/-- Bytes of the results of `q` queries, without the header. -/
def bodyBytes (reduce : Bool) (q k : Nat) (precise : Bool) (dv f : Nat) : Nat :=
  if reduce then q * (64 * cdiv (dv * outBytes f) 64) else 64 * cdiv (q * k * (if precise then 16 else 8)) 64

/-- Bytes as 64 B words, the last one padded with zeros; `n` bounds their number. -/
def slotsOf : Nat → List Byte → List Slot64
  | 0, _ => []
  | _, [] => []
  | n + 1, l => BitVec.ofNat 512 (leNat (l.take 64)) :: slotsOf n (l.drop 64)

/-- The result header (R115). -/
def resultHead (id : W32) (flow : W16) (q : Nat) (status : W16) (payload : Nat) (qs : List Byte) : Slot64 :=
  BitVec.ofNat 512 (packN ([(32, id.toNat), (16, flow.toNat), (8, q), (8, 0), (16, status.toNat), (48, 0), (64, payload), (64, 0)]
    ++ (List.range 32).map (fun j => (8, (qs.getD j 0).toNat))))

/-- A result entry (R116); none is an unfilled place. A NaN is written as the canonical one (R218). -/
def placeBytes (precise : Bool) (e : Option HeapEnt) : List Byte :=
  let key := match e with | some x => x.key | none => 0xFFFFFFFF
  let sc := match e with | some x => (if isNan32 x.score then f32Nan else x.score) | none => f32NegInf
  let lo := match e with | some x => x.lo | none => 0
  leBytes 4 key ++ leBytes 4 sc.toNat ++ (if precise then leBytes 4 lo.toNat ++ leBytes 4 0 else [])

/-- The k places of one query. -/
def queryPlaces (precise : Bool) (k : Nat) (h : List HeapEnt) : List Byte := (List.range k).flatMap (fun i => placeBytes precise h[i]?)

/-- The output vector of one query, padded to 64 B (R117). -/
def queryOutput (f dv : Nat) (l : List W32) : List Byte :=
  let bs := (List.range dv).flatMap (fun n => leBytes (outBytes f) (l.getD n 0).toNat)
  bs ++ List.replicate (64 * cdiv bs.length 64 - bs.length) 0

/-- The bytes after the header of a bundle that has ended: with a status other than OK no place is filled and every output is zero (R221). -/
def Bundle.bodyOf (b : Bundle) : List Byte :=
  if b.reduce then
    (List.range b.q).flatMap (fun j => queryOutput b.outFmt.toNat b.dv (if b.status = 0 then ((b.outs[j]?).bind id).getD [] else []))
  else (List.range b.q).flatMap (fun j => queryPlaces b.precise b.k (if b.status = 0 then b.heaps.getD j [] else []))

/-- The words of a bundle's result. -/
def Bundle.words (b : Bundle) (id : W32) (payload : Nat) : List Slot64 :=
  resultHead id b.flow b.q b.status payload b.qstatus :: slotsOf 4096 b.bodyOf

/-! ## QSTATUS (R115) -/

def qsInvalid : Byte := 1
def qsNonres : Byte := 2
def qsShort : Byte := 4
def qsFwd : Byte := 8
def qsReissued : Byte := 16

/-- A bit ORed into the QSTATUS of the queries of a set. -/
def Bundle.mark (b : Bundle) (qs : W32) (m : Byte) : Bundle :=
  { b with qstatus := (List.range b.qstatus.length).map (fun j => if bit qs j then b.qstatus.getD j 0 ||| m else b.qstatus.getD j 0) }

/-- Every query of the bundle. -/
def Bundle.everyQ (b : Bundle) : W32 := BitVec.ofNat 32 (2 ^ b.q - 1)

/-! ## Thresholds and picks (R207, R211) -/

/-- θ of a query. -/
def Bundle.theta (b : Bundle) (j : Nat) : W32 := Sys2Proof.Machine.theta b.precise b.nanRank b.k (b.heaps.getD j []) (b.thresh0.getD j f32NegInf)

/-- Kind and index of a key child word (R136). -/
def childKind (w : BitVec 24) : Nat := fldN w 22 2
def childIdx (w : BitVec 24) : Nat := fldN w 0 22

/-- Operations in flight, the parked ones among them. -/
def Bundle.ops (b : Bundle) : Nat := b.inflight.length + b.parkedOps.length

/-- The key of normal mode: highest PRIO, then higher LEVEL, then lower child word. -/
def normalLe (a b : FEntry) : Bool :=
  if flt b.prio a.prio then true else if flt a.prio b.prio then false
  else if b.level < a.level then true else if a.level < b.level then false else decide (a.child.toNat ≤ b.child.toNat)

/-- The key of tight mode: highest LEVEL, then higher PRIO. -/
def tightLe (a b : FEntry) : Bool :=
  if b.level < a.level then true else if a.level < b.level then false else normalLe a b

/-- The chip walks a subtree itself (R362). -/
def State.ownsSub (s : State) (sub : Nat) : Bool :=
  match s.owner? sub with
  | some o => decide (o.primary = s.boot.chipId) || decide (o.replica = some s.boot.chipId)
  | none => false

/-- A REMOTE entry that another chip owns: it waits for FORWARD. -/
def State.elsewhere (s : State) (b : Bundle) (e : FEntry) : Bool :=
  childKind e.child == 2 && b.foreign.isNone && b.desc.kind == 3 && (s.owner? (childIdx e.child % 65536)).isSome
    && !s.ownsSub (childIdx e.child % 65536)

/-- The entry issued next: of those that are not in flight, not under a Leash and not picked for FORWARD. -/
def Bundle.pick (b : Bundle) (tight : Bool) : Option FEntry :=
  (sortBy (if tight then tightLe else normalLe) (b.frontier.filter (fun e => e.busy.isNone && e.leash.isNone && !e.fwd))).head?

/-- WAVE_MAX; zero means 56 (R233). -/
def State.waveMax (s : State) (p : PartId) : Nat :=
  let w := (s.part p).waveMax.force.toNat
  if w = 0 || 56 < w then 56 else w

/-! ## Leaving the walk -/

/-- Parked work that satisfies `f` no longer waits on a fault. -/
def State.unpark (s : State) (f : Parked → Bool) : State :=
  { s with
    mmu := { s.mmu with faults := s.mmu.faults.map (fun x => { x with parked := x.parked.filter (fun w => !f w) }) }
    parts := s.parts.map (fun (x : Part) => { x with overflow := x.overflow.filter (fun o => !f o.work) }) }

/-- Parked work is known by another name from now on. -/
def State.renameParked (s : State) (a b : Parked) : State :=
  let f := fun (w : Parked) => if w = a then b else w
  { s with
    mmu := { s.mmu with faults := s.mmu.faults.map (fun x => { x with parked := x.parked.map f }) }
    parts := s.parts.map (fun (x : Part) => { x with overflow := x.overflow.map (fun o => { o with work := f o.work }) }) }

/-- Parked work of a bundle. -/
def ofBundle (h : Nat) (w : Parked) : Bool :=
  match w with
  | .bundleOp b _ => b == h
  | .remoteBundle b _ => b == h
  | .forward i => i == h
  | _ => false

/-- Nothing of a bundle is under way any more: its Herder items, parked operations, results and Leashes go. -/
def State.quiet (s : State) (h : Nat) : State :=
  let s1 := (s.herdDrop (fun i => match i with | .ray _ => false | .op o => o.bundle == h | .group _ _ => false)).unpark (ofBundle h)
  match s1.bundle? h with
  | none => s1
  | some b =>
    let s2 := (b.leashes.foldl (fun s l => (s.timerDel (.lease l)).kFree l) s1).drainAll
    s2.updBundle h (fun b => { b with frontier := [], inflight := [], parkedOps := [], boundRes := [], scoreRes := [], chunks := [], triples := [],
                                      requests := [], leashes := [] })

/-- Number of the pseudo slot under which a bundle without Kennel slots is held until its result has left. -/
def State.afterSlot (s : State) : Nat := 262144 + s.ret.next

/-- The Kennel slots of a bundle. -/
def State.bundleSlots (s : State) (h : Nat) : List Nat := h :: s.chain 300 (s.kNext h)

/-- A result goes to the Retriever once its share takes it; the bundle's slots are freed (R92, R188). -/
def State.giveBundle (s : State) (env : Env) (h : Nat) : State :=
  match s.bundle? h with
  | none => s
  | some b => match b.result, b.cmd with
    | some ws, some r => match s.cmd? r with
      | none => s
      | some c =>
        if s.works b.part && s.returnNext b.part h then
          let s := s.returned b.part h
          let n := s.afterSlot
          let s1 := (s.kFreeAll (s.bundleSlots h)).updBundle h (fun b => { b with head := n, state := .done, result := some ws })
          let s2 := { s1 with arr := { s1.arr with tus := s1.arr.tus.map (fun (t : Tu) => { t with buffer := t.buffer.filter (· != h) }) } }
          let bad := decide (b.status ≠ 0) || b.qstatus.any (fun x => x &&& 3 != 0)
          s2.accept env b.part b.flow c r b.index (some n) 0 (deliverOf c.raw) (rb c.raw 24 8 + b.offset) bad
        else s
    | _, _ => s

/-- PAYLOAD of a bundle's header slot. -/
def State.bundlePayload (s : State) (h : Nat) : Nat := match s.kGet h with | some ⟨_, _, _, .head raw⟩ => rb raw 16 8 | _ => 0

/-! ## Results of foreign queries (R374, R375) -/

/-- Lists of consecutive queries cut so that each part holds at most `cap` of a weight; the others of a part are empty. -/
def cutRuns {α : Type} (w : α → Nat) (cap : Nat) (blank : α) : Nat → List α → List (List α)
  | _, [] => []
  | 0, _ => []
  | f + 1, l =>
    let n := runLen l cap
    let k := max 1 n
    (l.take k) :: (cutRuns w cap blank f (l.drop k)).map (fun r => List.replicate k blank ++ r)
where
  runLen : List α → Nat → Nat
    | [], _ => 0
    | a :: r, room => if w a ≤ room then runLen r (room - w a) + 1 else 0

/-- Whether an owner returns an entry: its score is at least the received θ (R227). -/
def returned (b : Bundle) (j : Nat) (e : HeapEnt) : Bool :=
  let t := b.thresh0.getD j f32NegInf
  fle t e.score || (isNan32 e.score && (decide (b.nanRank = 2) || decide (t = f32NegInf)))

/-- The parts of a foreign bundle's result, the last with LAST. -/
def probeParts (b : Bundle) : List MsgBody :=
  let lists := (List.range b.q).map (fun j => ((b.heaps.getD j []).filter (returned b j)).map (fun e => (⟨BitVec.ofNat 32 e.key, e.score, e.lo⟩ : ProbeEntry)))
  let parts := cutRuns List.length (if b.precise then 1144 else 2288) [] 33 lists
  let n := parts.length
  (parts.zip (List.range n)).map (fun x => .probeResult { resultPrefix 0 false 0 b.qstatus with last := decide (x.2 + 1 = n) } b.precise x.1)

/-- The parts of a foreign reduce request's result. -/
def reduceParts (b : Bundle) : List MsgBody :=
  let ts := ((List.finRange 32).zip b.accs).filterMap (fun x => x.2.map (fun t => (x.1, t)))
  let per := max 1 (18352 / (16 + 4 * b.dv))
  let cut := fun (n : Nat) => (ts.drop (n * per)).take per
  let n := max 1 (cdiv ts.length per)
  (List.range n).map (fun i => .reduceResult { resultPrefix 0 false 0 b.qstatus with last := decide (i + 1 = n) } (cut i))

/-- A bundle has ended: a foreign one sends its result, a local one forms it and gives it to the Retriever. -/
def State.endBundle (s : State) (env : Env) (h : Nat) : State :=
  let s1 := s.quiet h
  match s1.bundle? h with
  | none => s1
  | some b => match s1.foreign? h with
    | some f =>
      let parts := if b.reduce then reduceParts b else probeParts b
      (parts.foldl (fun s m => s.sendResult f m) s1).dropForeign f
    | none =>
      let s2 := s1.updBundle h (fun b => { b with state := .done, readyAt := s1.pins.now, result := some (b.words (s1.kId h) (s1.bundlePayload h)) })
      s2.giveBundle env h

/-- A bundle ends with a status (R115): CONTAINED, FWD_FAIL or FAULT_ABORT; a foreign one with CONTAINED (R383, R384). -/
def State.failBundle (s : State) (env : Env) (h : Nat) (st : W16) : State :=
  match s.foreign? h with
  | some f => (s.quiet h).failForeign f 4 0
  | none =>
    let s1 := if st = 4 then { s with fwd := { s.fwd with fwdFails := satInc s.fwd.fwdFails } } else s
    (s1.updBundle h (fun b => { b with status := st })).endBundle env h

/-! ## The weight lists (R222, R224, R228) -/

/-- Keys of a list in ascending order, each once. -/
def unionKeys (l : List Nat) : List Nat := (sortBy (fun a b => decide (a ≤ b)) l).eraseDups

/-- Chunks of at most 32. -/
def chunks32 : Nat → List Nat → List (List Nat)
  | _, [] => []
  | 0, _ => []
  | n + 1, l => l.take 32 :: chunks32 n (l.drop 32)

/-- The entries of a query that carry weight; NaN entries are left out. -/
def weighed (h : List HeapEnt) : List HeapEnt := h.filter (fun e => !isNan32 e.score)

/-- x of a heap entry. -/
def Bundle.x (b : Bundle) (e : HeapEnt) : Fl := xOf (ovfOf b.ovf) b.precise b.smScale e.score e.lo

/-- Every element of a query's output is NaN: a NaN entry under PROPAGATE. -/
def Bundle.allNan (b : Bundle) (j : Nat) : Bool := decide (b.nanRank = 2) && (b.heaps.getD j []).any (fun e => isNan32 e.score)

/-- The winners of each query that weigh, with x. -/
def Bundle.winners (b : Bundle) : List (List (HeapEnt × Fl)) :=
  (List.range b.q).map (fun j => if b.allNan j then [] else (weighed (b.heaps.getD j [])).map (fun e => (e, b.x e)))

/-- The reduce requests for one subtree (R374). -/
def subRequests (ws : List (List (HeapEnt × Fl))) (sub : Nat) : List (Nat × List (List (W32 × W32))) :=
  let ls := ws.map (fun l => (sortBy (fun a b => decide (a.1.toNat ≤ b.1.toNat))
    ((l.filter (fun e => decide (e.1.src = sub + 1))).map (fun e => (BitVec.ofNat 32 e.1.key, e.2.v)))))
  ((cutRuns List.length 2048 [] 33 ls).filter (fun r => r.any (fun l => !l.isEmpty))).map (fun r => (sub, r))

/-- The walk of a PROBE_REDUCE has ended: its weight lists, chunks and requests are formed. -/
def Bundle.toReduce (now : Nat) (b : Bundle) : Bundle :=
  let ws := b.winners
  let xl := ws.map (fun l => (l.filter (fun e => decide (e.1.src = 0))).map (fun e => (e.1.key, e.2.v)))
  let keys := unionKeys (xl.flatMap (fun l => l.map (·.1)))
  let subs := unionKeys (ws.flatMap (fun l => (l.filter (fun e => decide (e.1.src ≠ 0))).map (fun e => e.1.src - 1)))
  let nan := BitVec.ofNat 32 (Sys2Proof.Machine.outFmt b.outFmt.toNat).nan
  let outs := (List.range b.q).map (fun j =>
    if b.allNan j then some (List.replicate b.dv nan) else if (ws.getD j []).isEmpty then some (List.replicate b.dv 0) else none)
  let short := BitVec.ofNat 32 (packN ((List.range b.q).map (fun j => (1, if !b.allNan j && (ws.getD j []).isEmpty then 1 else 0))))
  ({ b with state := .reducing, readyAt := now, xlists := xl, chunks := chunks32 (keys.length + 1) keys, requests := subs.flatMap (subRequests ws),
            accs := List.replicate b.q none, outs := outs }).mark short qsShort

/-- Queries with fewer than k places filled. -/
def Bundle.shorts (b : Bundle) : W32 :=
  BitVec.ofNat 32 (packN ((List.range b.q).map (fun j => (1, if (b.heaps.getD j []).length < b.k then 1 else 0))))

/-- The walk's end, and the end of a bundle whose fault was aborted once its other operations have drained (R211, R231). -/
def State.endWalk (s : State) (env : Env) (h : Nat) : State :=
  match s.bundle? h with
  | none => s
  | some b =>
    if !b.placed || b.result.isSome then s
    else if b.status ≠ 0 then (if b.ops = 0 then s.endBundle env h else s)
    else if b.state = .reducing then (if b.outs.all (·.isSome) then s.endBundle env h else s)
    else if !b.frontier.isEmpty || decide (b.ops ≠ 0) || !b.leashes.isEmpty then s
    else
      let b1 := b.mark b.shorts qsShort
      if !b.reduce then (s.updBundle h (fun _ => b1)).endBundle env h
      else
        let ovf := ((b1.winners.flatMap (fun l => l.filter (·.2.ovf))).length)
        let b2 := b1.toReduce s.pins.now
        let s1 := (s.updBundle h (fun _ => b2)).fpOverflows b.part ovf
        if b2.outs.all (·.isSome) then s1.endBundle env h else s1

/-! ## Issue (R211 to R213) -/

/-- An entry becomes an operation in flight; one issued in tight mode is the bundle's only one. -/
def Bundle.launch (b : Bundle) (e : FEntry) (al : W32) (kind : OpKind) (tight : Bool) : Bundle × ProbeOp :=
  let o : ProbeOp := ⟨b.head, b.nextOp, kind, e.child, al, 0⟩
  ({ b with
      frontier := b.frontier.map (fun x => if x = e then { x with alive := al, busy := some o.id } else x)
      inflight := b.inflight ++ [o], nextOp := b.nextOp + 1, solo := if tight then some o.id else b.solo
      bounds := if kind = .bound then b.bounds + 1 else b.bounds
      scores := if kind = .score then b.scores + 1 else b.scores }, o)

/-- First byte of a leaf's keys (R213). -/
def Desc.leafVa (d : Desc) (j : Nat) : Nat := d.keyAddr + 32 * j * d.dim * (elemBytes d.kfmt).getD 1

/-- The queries that remain alive when an entry is issued (R212). -/
def Bundle.narrow (b : Bundle) (e : FEntry) : W32 :=
  BitVec.ofNat 32 (packN ((List.range 32).map (fun j => (1, if decide (j < b.q) && bit e.alive j && fle (b.theta j) e.prio then 1 else 0))))

/-- A REMOTE entry that this chip walks: the subtree's ROOT takes its place (R227). -/
def State.subRoot (s : State) (env : Env) (h : Nat) (b : Bundle) (e : FEntry) (al : W32) (tight : Bool) : State :=
  let sub := childIdx e.child % 65536
  let d := b.desc
  if sub < d.subBase || d.subBase + d.subCount ≤ sub then s.failBundle env h 3
  else
    match s.vnum b.part (subEntryAddr d.subAddr d.subBase sub + 4) 4 with
    | .bad x =>
      let r := b.launch e al .bound tight
      let s1 := s.updBundle h (fun _ => r.1)
      s1.fault env b.part 0 x 0 { s1.itemCtx (.op r.2) 0 with source := 3 } (.bundleOp h r.2.id)
    | .ok n =>
      let w := BitVec.ofNat 24 n
      s.updBundle h (fun b =>
        { b with frontier := if childKind w = 3 then b.frontier.filter (fun x => decide (x ≠ e))
                             else b.frontier.map (fun x => if x = e then { x with child := w, alive := al } else x) })

/-- One entry issued, removed or replaced; none where nothing can be issued. -/
def State.strainStep (s : State) (env : Env) (h : Nat) : Option State :=
  match s.bundle? h with
  | none => none
  | some b =>
    let tight := decide (56 ≤ b.frontier.length)
    if !b.placed || decide (b.status ≠ 0) || b.state == .reducing || b.state == .done || b.result.isSome
        || (if tight then decide (b.ops ≠ 0) else decide (s.waveMax b.part ≤ b.ops)) then none
    else match b.pick tight with
      | none => none
      | some e =>
        let al := b.narrow e
        if al = 0 then some (s.updBundle h (fun b => { b with frontier := b.frontier.filter (fun x => decide (x ≠ e)) }))
        else if childKind e.child = 0 then
          let r := b.launch e al .bound tight
          some ((s.updBundle h (fun _ => r.1)).enter (.op r.2) b.part ((b.desc.base + 640 * childIdx e.child) / 128))
        else if childKind e.child = 1 then
          let r := b.launch e al .score tight
          some ((s.updBundle h (fun _ => r.1)).enter (.op r.2) b.part (b.desc.leafVa (childIdx e.child) / 128))
        else if childKind e.child = 2 then
          if b.desc.kind ≠ 3 || b.foreign.isSome then some (s.failBundle env h 3)
          else if s.ownsSub (childIdx e.child % 65536) then some (s.subRoot env h b e al tight)
          else if s.elsewhere b e then
            some (s.updBundle h (fun b => { b with frontier := b.frontier.map (fun x => if x = e then { x with alive := al, fwd := true } else x), readyAt := s.pins.now }))
          else some (s.failBundle env h 4)
        else some (s.updBundle h (fun b => { b with frontier := b.frontier.filter (fun x => decide (x ≠ e)) }))

/-- Everything a bundle can issue now; `n` bounds the steps. -/
def State.strainIssue (s : State) (env : Env) (h : Nat) : Nat → State
  | 0 => s
  | n + 1 => match s.strainStep env h with
    | some s1 => s1.strainIssue env h n
    | none => s

/-- A bundle goes on after one of its results was taken: it issues, and ends where nothing is left. -/
def State.goOn (s : State) (env : Env) (h : Nat) : State := (s.strainIssue env h 256).endWalk env h

/-! ## RETURN (R92, R188) -/

/-- RETURN: a terminated ray hands its record to the Retriever and frees its slots; a foreign ray sends its result to its origin (R383). An
uncorrectable candidate entry ends the ray with CONTAINED (R511). A finished bundle hands its result over in the same way (R92). -/
def execReturnRay (ray : Nat) (check : Check) (s : State) : Host.Outcome State Fault Refusal :=
  match s.ray? ray with
  | none => match s.bundle? ray with
    | some _ => .next (s.giveBundle s.env0 ray)
    | none => .next s
  | some r =>
    match r.wait with
    | .ended code0 =>
      let p := s.kPart ray
      if !s.works p || !s.canReturn ray r || !s.returnNext p ray then .next s
      else
        let s := s.returned p ray
        let code : Nat := match check with | .failed => 0x17 | _ => code0.toNat
        let s := match check with
          | .ok => s
          | .corrected => s.errCorrected
          | .failed => s.errContained p 1 ray (s.kId ray).toNat
        match s.foreign? ray with
        | some f => .next ((s.sendResult f (rayBody r f code)).dropForeign f)
        | none => match r.cmd with
          | none => .next s
          | some cr => match s.cmd? cr with
            | none => .next s
            | some c =>
              let s1 := ((s.timerDel (.spill ray)).kFreeAll (s.raySlots ray)).drainAll
              .next (s1.acceptRay s.env0 p r.flow c cr r.index (hitRecord r (s.kId ray) code))
    | _ => .next s

end Sys2Proof.Machine
end

