-- ==== Sys2Proof/Machine/Probe.lean ====
section
/-!
DEFINITION. Sys2Proof/Machine/Probe.lean: PROBE, PROBE_REDUCE and BUNDLE_ADMIT (R62, R111 to R113, R125, R199 to R202, R223, R378), the
walk's operations BOUND, BOUND_RETURN, SCORE and HEAP_MERGE (R203 to R218), and the value rounds REDUCE and LSE_MERGE (R224 to R226).
-/

namespace Sys2Proof.Machine

/-! ## PROBE and PROBE_REDUCE begin (R72, R125) -/

/-- A named slot of a captured table, if it is bound to one of the kinds. -/
def boundTo (t : HierTable) (slot : Nat) (kinds : List Nat) : Option HierBind :=
  match assocGet slot t with
  | some h => if kinds.contains h.kind.toNat then some h else none
  | none => none

/-- A probe command begins: it reads the descriptors of the bindings it names; `descs` holds the hierarchy's under 0, the values' under 1. -/
def State.beginProbe (s : State) (env : Env) (q : QueueId) (op : Nat) : State :=
  let s := s.at env.t
  match s.beginning q op with
  | none => s
  | some c =>
    let p := s.qPart q
    let r : CmdRef := ⟨q, c.seq⟩
    let park := fun (x : Xfault) => s.fault env p 0 x 0 (s.cmdCtx r 0) (.command q c.seq)
    let start := fun (l : List (Nat × Desc)) => (s.updCmd r (fun c => { c with descs := l })).begin r
    let unbound := ((s.skipRest env p r).finish r stNotBound).delivLast
    match boundTo c.hiers (rb c.raw 34 2) [1, 3] with
    | none => unbound
    | some h =>
      if op = 2 then
        match s.vdesc p h.addr with
        | .bad x => park x
        | .ok d => start [(0, d)]
      else match boundTo c.hiers (rb c.raw 36 2) [4] with
        | none => unbound
        | some v => match s.vdesc p h.addr, s.vdesc p v.addr with
          | .bad x, _ => park x
          | _, .bad x => park x
          | .ok d, .ok e => start [(0, d), (1, e)]

/-- PROBE begins. -/
def execProbe (q : QueueId) (env : Env) (s : State) : Host.Outcome State Fault Refusal := .next (s.beginProbe env q 2)

/-- PROBE_REDUCE begins. -/
def execProbeReduce (q : QueueId) (env : Env) (s : State) : Host.Outcome State Fault Refusal := .next (s.beginProbe env q 3)

/-! ## The bundle header (R110 to R113) -/

def headQ (w : Slot64) : Nat := rb w 6 1
def headFmt (w : Slot64) : Nat := rb w 7 1 % 8
def headD (w : Slot64) : Nat := rb w 8 2
def headScale (w : Slot64) : W32 := BitVec.ofNat 32 (rb w 12 4)

/-- The fields give the bundle a size. -/
def headSized (w : Slot64) : Bool :=
  decide (1 ≤ headQ w) && decide (headQ w ≤ 32) && (elemBytes (headFmt w)).isSome && headD w % 32 == 0 && decide (32 ≤ headD w) && decide (headD w ≤ 256)

/-- Slots of one query; P of R110, rounded up where a query does not fill its last slot. -/
def querySlots (f d : Nat) : Nat := cdiv (d * (elemBytes f).getD 1) 64

/-- Scale slots S. -/
def scaleSlots (f q d : Nat) : Nat := if f = 4 then 0 else cdiv (q * (d / 32)) 64

/-- Slots of a sized bundle. -/
def slotsOfHead (w : Slot64) : Nat :=
  1 + scaleSlots (headFmt w) (headQ w) (headD w) + headQ w * querySlots (headFmt w) (headD w)

/-- A bundle is rejected (R113); `d` is the key dimension of the bound hierarchy. -/
def State.badHead (s : State) (caddy : BitVec 2) (p : PartId) (d : Nat) (w : Slot64) : Bool :=
  !headSized w || !s.fmtOn caddy p (headFmt w) || headD w != d || !isFin32 (headScale w) || !flt 0 (headScale w)
    || rb w 7 1 / 8 != 0 || rb w 10 2 != 0 || rb w 24 8 != 0

/-- How every usable bundle of a command ends at once, if it does (R125, R223): a status, OK for an empty hierarchy. STALE
and NOT_BOUND are tested before the value descriptor, and that before an empty hierarchy (DESIGN CHOICE, log 210). -/
def State.probeEnds (s : State) (p : PartId) (c : Cmd) (kind : Nat) (d : Desc) (v : Option Desc) : Option W16 :=
  let vBad := match v with
    | none => false
    | some e => e.usable 4 != .ok || e.dim != rb c.raw 38 2 || !s.fmtOn c.caddy p e.kfmt || decide (e.keyCount < d.keyCount)
  match d.usable kind with
  | .notBound => some 1
  | .stale => some 3
  | u =>
    if vBad || !s.fmtOn c.caddy p d.kfmt then some 1
    else match u with
      | .empty => some 0
      | _ => none

/-! ## Strainer space (R199 to R202, R378) -/

/-- Bytes in multiples of 64. -/
def up64 (n : Nat) : Nat := 64 * cdiv n 64

/-- H: heap of a bundle; `wide` for PRECISE, or a PROBE_REDUCE on a sharded hierarchy. -/
def heapBytes (q k : Nat) (wide : Bool) : Nat := up64 (q * k * (if wide then 16 else 8))

/-- W: walk block of a bundle. -/
def walkBytes (q : Nat) : Nat := up64 (1024 + 136 * q)

/-- Sum over the placed bundles that satisfy `f`. -/
def State.sumBundles (s : State) (f : Bundle → Bool) (g : Bundle → Nat) : Nat :=
  ((s.strain.bundles.filter (fun b => b.placed && f b)).map g).foldl (· + ·) 0

/-- Free bytes of a unit for a bundle: a local one leaves the reserved share that foreign bundles do not hold. -/
def State.unitFree (s : State) (foreign : Bool) (u : UnitId) (g : Bundle → Nat) : Nat :=
  let used := s.sumBundles (fun b => decide (b.unit = u)) g
  let held := s.sumBundles (fun b => decide (b.unit = u) && b.foreign.isSome) g
  524288 - used - (if foreign then 0 else s.cfg.fwdStrain * 4096 - held)

/-- Units in service that can hold H, and those that can hold W too. -/
def State.heapUnits (s : State) (foreign : Bool) (h : Nat) : List UnitId :=
  (List.finRange 16).filter (fun u => !bit s.arr.unitsOut u.val && decide (h ≤ s.unitFree foreign u (·.heapB)))

def State.fitUnits (s : State) (foreign : Bool) (h w : Nat) : List UnitId :=
  (s.heapUnits foreign h).filter (fun u => decide (w ≤ s.unitFree foreign u (·.walkB)))

/-- The unit with the most free heap, the lowest among equals. -/
def State.pickUnit (s : State) (foreign : Bool) (h w : Nat) : Option UnitId :=
  leastBy (fun u => 524288 - (524288 - s.sumBundles (fun b => decide (b.unit = u)) (·.heapB))) (s.fitUnits foreign h w)

/-- Bundles in flight: those that hold a walk block. -/
def State.countBundles (s : State) (foreign : Bool) : Nat :=
  (s.strain.bundles.filter (fun b => b.placed && decide (b.walkB ≠ 0) && b.foreign.isSome == foreign)).length

/-- A place among the 4,096 bundles. -/
def State.roomBundle (s : State) (foreign : Bool) : Bool :=
  if foreign then decide (s.countBundles true + s.countBundles false < 4096)
  else decide (s.countBundles false + max s.cfg.fwdBundles (s.countBundles true) < 4096)

/-- Heap that a partition's bundles hold. -/
def State.heapOf (s : State) (p : PartId) : Nat := s.sumBundles (fun b => decide (b.part = p) && b.foreign.isNone) (·.heapB)

/-! ## A bundle's record -/

/-- A bundle before its fields are set. -/
def Bundle.blank : Bundle where
  head := 0
  foreign := none
  cmd := none
  index := 0
  cls := 0
  caddy := 0
  gen := 0
  ovf := 0
  part := 0
  flow := 0
  q := 0
  qfmt := 0
  d := 0
  k := 0
  precise := false
  nanRank := 0
  reduce := false
  dv := 0
  outFmt := 0
  smScale := 0
  desc := 0
  vdesc := 0
  unit := 0
  heapB := 0
  walkB := 0
  state := .active
  status := 0
  solo := none
  unbounded := false
  proj := []
  frontier := []
  heaps := []
  thresh0 := []
  qstatus := []
  inflight := []
  parkedOps := []
  nextOp := 0
  bounds := 0
  scores := 0
  boundRes := []
  scoreRes := []
  chunks := []
  triples := []
  accs := []
  leashes := []
  offset := 0
  placed := true
  xlists := []
  requests := []
  outs := []
  result := none
  readyAt := 0

/-- SM_SCALE as used; zero means 1/√d (R62). -/
def smScaleOf (raw : Slot64) (d : Nat) : W32 :=
  let w := BitVec.ofNat 32 (rb raw 44 4)
  if w.toNat % 2 ^ 31 = 0 then defaultScale d else w

/-- A bundle of a command, by its header. -/
def mkBundle (p : PartId) (c : Cmd) (r : CmdRef) (w : Slot64) (d v : Desc) : Bundle :=
  let red := opOf c.raw == 3
  { Bundle.blank with
    cmd := some r, index := c.next, cls := c.cls, caddy := c.caddy, gen := c.gen, ovf := c.ovf, part := p,
    flow := BitVec.ofNat 16 (flowField c.raw), q := headQ w, qfmt := BitVec.ofNat 3 (headFmt w), d := headD w, k := rb c.raw 20 2,
    precise := bit c.raw 178, nanRank := fld c.raw 179 2, reduce := red, dv := if red then rb c.raw 38 2 else 0,
    outFmt := if red then BitVec.ofNat 8 (rb c.raw 40 1) else 0, smScale := if red then smScaleOf c.raw d.dim else 0, desc := d, vdesc := v,
    heaps := List.replicate (headQ w) [], thresh0 := List.replicate (headQ w) f32NegInf, qstatus := List.replicate (headQ w) 0,
    offset := c.offset }

/-- The root entry (R208). -/
def rootEntry (root : Nat) (al : W32) : FEntry := ⟨BitVec.ofNat 24 root, 0, false, 0, al, f32Inf, none, none, false⟩

/-! ## BUNDLE_ADMIT -/

/-- The record is taken in: the next one begins `n` slots on, its result `m` bytes on. -/
def State.takenBundle (s : State) (r : CmdRef) (n m : Nat) : State :=
  (s.taken r).updCmd r (fun c => { c with intakeAt := c.intakeAt + 64 * n, offset := c.offset + m })

/-- A bundle that takes no slots: its result, with ID 0, waits for the Retriever's share only. `sized` false leaves the header alone. -/
def State.directBundle (s : State) (env : Env) (p : PartId) (c : Cmd) (r : CmdRef) (w : Slot64) (b : Bundle) (st : W16) (sized : Bool) : State :=
  if orderedBit c.raw && !s.underBudget p b.flow then s.holdFlow p r b.flow
  else if !s.retRoom p then s.holdIntake r 16
  else
    let b1 := { b with head := s.afterSlot, status := st, state := .done }
    let b2 := if st = 0 then { b1.mark b1.everyQ qsShort with outs := List.replicate b.q (some (List.replicate b.dv 0)) } else b1
    let ws := if sized then b2.words 0 (rb w 16 8) else [resultHead 0 b.flow (headQ w) st (rb w 16 8) []]
    let b3 := { b2 with result := some ws }
    let m := 64 * ws.length
    let s1 := s.takenBundle r (if sized then slotsOfHead w else 1) m
    let s2 := { s1 with strain := { s1.strain with bundles := s1.strain.bundles ++ [b3] } }
    s2.accept env p b.flow c r c.next (some b3.head) 0 (deliverOf c.raw) (rb c.raw 24 8 + c.offset) (decide (st ≠ 0))

/-- A bundle that no space of the partition could ever hold ends the command's intake with QUOTA (R113, R201). -/
def State.quotaEnd (s : State) (env : Env) (p : PartId) (r : CmdRef) : State := s.endIntake env p r stQuota

/-- The Kennel copy of a bundle header: FLOW_ID is the command's (R96, R111). -/
def withFlow (w : Slot64) (flow : W16) : Slot64 := (w &&& ~~~(0xFFFF#512 <<< 32)) ||| (flow.setWidth 512 <<< 32)

/-- A bundle that walks: admitted whole when every condition of R199 holds. -/
def State.admitBundle (s : State) (env : Env) (p : PartId) (c : Cmd) (r : CmdRef) (ws : List Slot64) (b : Bundle) : State :=
  let w := withFlow (ws.headD 0) b.flow
  let hb := heapBytes b.q b.k (b.precise || (b.reduce && b.desc.kind == 3))
  let wb := walkBytes b.q
  if s.kQuota p - s.kSpill p < ws.length || s.strQuota p * 65536 < hb then s.quotaEnd env p r
  else
    let heapOk := decide (s.heapOf p + hb ≤ s.strQuota p * 65536) && !(s.heapUnits false hb).isEmpty
    let walkOk := !heapOk || !(s.fitUnits false hb wb).isEmpty
    let countOk := s.roomBundle false
    let flowOk := s.underBudget p b.flow
    let retOk := flowOk && (!orderedBit c.raw || s.retRoom p)
    let got := s.kAdmit env p (.head w :: (ws.drop 1).map KData.body)
    let why : BitVec 5 := (if got.isSome then 0 else 1) ||| (if heapOk then 0 else 2) ||| (if walkOk then 0 else 4) ||| (if countOk then 0 else 8)
      ||| (if retOk then 0 else 16)
    if why ≠ 0 then (s.doIf (!flowOk) (·.stallFlow p b.flow)).holdIntake r why
    else match got, s.pickUnit false hb wb with
      | some (h :: _, s1), some u =>
        let s2 := s1.takenBundle r ws.length (64 + bodyBytes b.reduce b.q b.k b.precise b.dv b.outFmt.toNat)
        let s3 := match flowOrder c c.next with | some o => s2.reserve p b.flow o r c.next none | none => s2
        let b1 := { b with head := h, unit := u, heapB := hb, walkB := wb, frontier := [rootEntry b.desc.root b.everyQ] }
        let s4 := { s3 with strain := { s3.strain with bundles := s3.strain.bundles ++ [b1] } }
        s4.goOn env h
      | _, _ => s.holdIntake r 1

/-- One bundle of a command, its words at hand. -/
def State.takeBundle (s : State) (env : Env) (p : PartId) (c : Cmd) (r : CmdRef) (ws : List Slot64) : State :=
  let w := ws.headD 0
  let d := (assocGet 0 c.descs).getD 0
  let v := assocGet 1 c.descs
  let b := mkBundle p c r w d (v.getD 0)
  let kind := match assocGet (rb c.raw 34 2) c.hiers with | some h => h.kind.toNat | none => 0
  if !headSized w then s.directBundle env p c r w { b with q := 0, qstatus := [] } 1 false
  else if s.badHead c.caddy p d.dim w then s.directBundle env p c r w b 1 true
  else match s.probeEnds p c kind d v with
    | some st => s.directBundle env p c r w b st true
    | none => s.admitBundle env p c r ws b

/-- Foreign bundles that wait are placed in arrival order (R378). -/
def State.placeForeign (s : State) (env : Env) : Nat → State
  | 0 => s
  | n + 1 => match s.strain.bundles.find? (fun b => !b.placed) with
    | none => s
    | some b =>
      if !s.roomBundle true then s
      else match s.pickUnit true b.heapB b.walkB with
        | none => s
        | some u => ((s.updBundle b.head (fun x => { x with placed := true, unit := u })).goOn env b.head).placeForeign env n

/-- The next bundle of a command, read from memory or arrived as `words`; its sender gets its credit back where Rampor grants
(R10); a held bundle is one whose words came in, or will once credit is granted again (R91). -/
def State.bundleFrom (env : Env) (p : PartId) (q : QueueId) (words : List Slot64) (s : State) (c : Cmd) : State :=
  let r : CmdRef := ⟨q, c.seq⟩
  let park := fun (x : Xfault) => s.fault env p 0 x 0 (s.cmdCtx r 0) (.intake q c.seq)
  if !s.orderTurn q c then s
  else match words with
    | w :: _ =>
      let n := if headSized w then slotsOfHead w else 1
      if s.portLive (srcPort c.raw) && (decide (c.held ≠ 0) || s.hasCredit (srcPort c.raw) .vector n) && decide (n ≤ words.length) then
        let s1 := s.takeBundle env p c r (words.take n)
        s1.doIf (s1.advanced q c) (·.useCredit (srcPort c.raw) .vector n)
      else s
    | [] => if env.hw.addr then (s.errContained p 6 q.val 0).endIntake env p r stContained
      else match s.vslot p c.intakeAt with
      | .bad x => park x
      | .ok w =>
        let n := if headSized w then slotsOfHead w else 1
        match s.vread p c.intakeAt (64 * n) with
        | .bad x => park x
        | .ok bs => s.takeBundle env p c r (slotsOf (n + 1) bs)

/-- BUNDLE_ADMIT: foreign bundles that wait are placed, then the next bundle of a running probe command is taken in, from memory or from the
vector network (R61, R113, R199). -/
def execBundleAdmit (q : QueueId) (words : List Slot64) (env : Env) (s : State) : Host.Outcome State Fault Refusal :=
  let s := s.at env.t
  if !s.ready then .next s
  else
    let s := if s.works s.hostPart then s.placeForeign env (s.strain.bundles.length + 1) else s
    let p := s.qPart q
    if !s.works p then .next s
    else .next (State.intakeTry q (State.bundleFrom env p q words) (s.intakes q isProbe (!words.isEmpty)) s)

/-! ## Queries as the Kennel holds them (R112) -/

/-- 64 B slots as one little-endian number. -/
def slotsNat : List Slot64 → Nat
  | [] => 0
  | w :: r => w.toNat + 2 ^ 512 * slotsNat r

/-- s_q, and per query its elements and block scales. -/
def State.queryRows (s : State) (b : Bundle) : W32 × List (List Val × List Nat) :=
  let raws := (s.bundleSlots b.head).filterMap (fun i => match s.kGet i with
    | some ⟨_, _, _, .head w⟩ => some w
    | some ⟨_, _, _, .body w⟩ => some w
    | _ => none)
  let f := b.qfmt.toNat
  let sc := scaleSlots f b.q b.d
  let per := querySlots f b.d
  let scn := slotsNat ((raws.drop 1).take sc)
  (headScale (raws.headD 0), (List.range b.q).map (fun j =>
    (rowVals f b.d (slotsNat ((raws.drop (1 + sc + j * per)).take per)), rowScales f b.d (scn / 256 ^ (j * (b.d / 32))))))

/-! ## BOUND (R203 to R208, R213) -/

/-- P: 32 rows of d BF16 values as FP32. -/
def pRows (d n : Nat) : List (List W32) :=
  (List.range 32).map (fun i => (List.range d).map (fun k => BitVec.ofNat 32 (by_ n (2 * (i * d + k)) 2 * 65536)))

/-- A corner of a child's box in FP32 (R138, R205). -/
def keyCorner (r : Rnd) (v c : Nat) (off : Nat) (i : Nat) : W32 :=
  let org := Fmt.fp16.decode (by_ v (32 + 2 * i) 2)
  let shift := (by_ v (96 + i / 2) 1 / 16 ^ (i % 2)) % 16
  r32 r (org.add (.fin false (by_ v (128 + 64 * c + 2 * i + off) 1) (sext 8 (by_ v 24 1) + shift)))

/-- The children of a node that are neither EMPTY nor taken: word, slot, alive set and priority after the test. -/
def boundKids (b : Bundle) (sq : W32) (v : Nat) (taken : Byte) (al : W32) : List (BitVec 24 × Nat × W32 × W32) :=
  (List.range 8).filterMap (fun c =>
    let w := BitVec.ofNat 24 (by_ v (3 * c) 3)
    if childKind w = 3 || bit taken c then none
    else
      let lo := (List.range 32).map (keyCorner .down v c 0)
      let hi := (List.range 32).map (keyCorner .up v c 1)
      let rad := r32 .up (Fmt.fp16.decode (by_ v (112 + 2 * c) 2))
      let bs := (List.range b.q).filterMap (fun j =>
        if !bit al j then none
        else
          let x := boundOf sq b.desc.scale (b.proj.getD j ⟨[], f32Inf, f32Inf⟩) lo hi rad
          if fle (b.theta j) x then some (j, x) else none)
      let al' := bs.foldl (fun (a : W32) x => setBit a x.1 true) 0
      some (w, c, al', (bs.map (·.2)).foldl maxF f32NegInf))

/-- Every page of a run of bytes of a node, key or scale fetch is resident (R221, R341). -/
def State.residentRun (s : State) (p : PartId) (va n : Nat) (c : FaultCtx) : Bool × State :=
  let r := s.resident p va c
  if !r.1 || n = 0 then r else r.2.resident p (va + n - 1) c

/-- The projection records of a bundle, formed at its first BOUND. -/
def State.projected (s : State) (b : Bundle) : Acc (List Proj) :=
  if !b.proj.isEmpty then .ok b.proj
  else match s.vnum b.part b.desc.pAddr (64 * b.d) with
    | .bad x => .bad x
    | .ok n => .ok ((s.queryRows b).2.map (fun r => project b.d (pRows b.d n) (scaledRow r.1 r.2)))

/-- An operation of a pack parks on the line that faulted; the pack's fetch is one access, however many of its operations need it (R231, R444). -/
def State.parkOp (s : State) (env : Env) (k : Pack) (w : HWait) (tu : TuId) (x : Xfault) : State :=
  let peers := k.items.map (fun v => parkedItem v.item)
  s.parkItem env k.part x w tu.val (s.mmu.faults.any (fun f => joins k.part x f && f.parked.any peers.contains)
    || (s.part k.part).overflow.any (fun o => peers.contains o.work))

/-- One BOUND of a pack. -/
def State.boundOp (s : State) (env : Env) (tu : TuId) (k : Pack) (w : HWait) (o : ProbeOp) : State :=
  match s.bundle? o.bundle with
  | none => s
  | some b => match b.frontier.find? (fun e => e.busy == some o.id) with
    | none => s
    | some e =>
      let va := b.desc.base + 640 * childIdx o.child
      let r := s.residentRun b.part va 640 (s.itemCtx (.op o) tu.val)
      let put := fun (s : State) (x : BoundRes) => s.updBundle b.head (fun b => { b with boundRes := b.boundRes ++ [x] })
      if !r.1 then put r.2 ⟨o.id, [], true, false⟩
      else match r.2.projected b, r.2.vnum b.part va 640 with
        | .bad x, _ => r.2.parkOp env k w tu x
        | _, .bad x => r.2.parkOp env k w tu x
        | .ok pr, .ok v =>
          let unb := pr.any (fun x => !isFin32 x.eps)
          let b1 := { b with proj := pr, unbounded := unb }
          let s1 := (r.2.updBundle b.head (fun x => { x with proj := pr, unbounded := unb })).updPart b.part
            (fun x => { x with unbounded := x.unbounded || unb })
          put s1 ⟨o.id, boundKids b1 (s1.queryRows b1).1 v e.taken o.alive, false, false⟩

/-- A pack whose arithmetic check failed: each of its bundles ends with CONTAINED (R232, R511). -/
def State.failOps (s : State) (env : Env) (src : Nat) (tu : TuId) (k : Pack) : State :=
  k.items.foldl (fun s w => match w.item with
    | .op o => (s.errContained k.part src tu.val (s.kId o.bundle).toNat).failBundle env o.bundle 3
    | _ => s) s

/-- The operations of a pack in turn. -/
def State.packOps (s : State) (f : State → HWait → ProbeOp → State) (k : Pack) : State :=
  k.items.foldl (fun s w => match w.item with | .op o => f s w o | _ => s) s

/-- The bundles of a pack. -/
def packBundles (k : Pack) : List Nat := k.items.filterMap (fun w => match w.item with | .op o => some o.bundle | _ => none)

/-- A Kennel word of one of some bundles, Leashes included: a corrected one is counted; an uncorrectable one ends the bundle with CONTAINED and takes
the bank out of service (R88, R118, R120, R511). -/
def State.bundleWord (s : State) (env : Env) (p : PartId) (l : List Nat) (w : Nat × Check) : State :=
  match l.find? (fun h => (s.bundleSlots h).contains w.1 || (match s.bundle? h with | some b => b.leashes.contains w.1 | none => false)) with
  | none => s
  | some h => match w.2 with
    | .ok => s
    | .corrected => s.kennelCorrected
    | .failed => ((s.kennelLost w.1).errContained p 0 (w.1 % 64) (s.kId h).toNat).failBundle env h 3

/-- The Kennel words that a row meets in some bundles' slots. -/
def State.bundleWords (s : State) (env : Env) (p : PartId) (l : List Nat) (ws : List (Nat × Check)) : State :=
  ws.foldl (fun s w => s.bundleWord env p l w) s

/-- A pack without the operations of bundles that an error has ended. -/
def State.standingOps (s : State) (k : Pack) : Pack :=
  { k with items := k.items.filter (fun w => match w.item with
      | .op o => (match s.bundle? o.bundle with | some b => decide (b.status = 0) | none => false)
      | _ => true) }

/-- BOUND: a TU tests the bundles of the next pack against a node. -/
def execBound (tu : TuId) (check : Check) (env : Env) (s : State) : Host.Outcome State Fault Refusal :=
  let s := s.at env.t
  if (s.tuPlace tu).isNone then .next s
  else match s.tuNext tu [2] with
    | none => .next s
    | some k =>
      let s1 := (s.tuTake tu k).bundleWords env k.part (packBundles k) env.hw.words
      let k := s1.standingOps k
      if env.hw.addr then .next (s1.failOps env 6 tu k)
      else match check with
      | .failed => .next ((s1.failOps env 4 tu k).residueError tu)
      | .corrected => .next (s1.errCorrected.packOps (fun s w o => s.boundOp env tu k w o) k)
      | .ok => .next (s1.packOps (fun s w o => s.boundOp env tu k w o) k)

/-! ## BOUND_RETURN (R210, R211) -/

/-- The order in which children are inserted: descending priority, then the lower slot. -/
def kidLe (a b : BitVec 24 × Nat × W32 × W32) : Bool :=
  if flt b.2.2.2 a.2.2.2 then true else if flt a.2.2.2 b.2.2.2 then false else decide (a.2.1 ≤ b.2.1)

/-- The frontier after a BOUND's result is taken. USED counts every entry of the frontier, a
PARTIAL one too (DEDUCED, log 206). -/
def insertKids (tight : Bool) (fr : List FEntry) (e : FEntry) (kids : List (BitVec 24 × Nat × W32 × W32)) : List FEntry :=
  let rest := fr.filter (fun x => decide (x ≠ e))
  let live := sortBy kidLe (kids.filter (fun k => decide (k.2.2.1 ≠ 0)))
  let n := if tight then 1 else 56 - rest.length
  let ins := live.take n
  let left := live.drop n
  let new := ins.map (fun k => (⟨k.1, e.level + 1, false, 0, k.2.2.1, k.2.2.2, none, none, false⟩ : FEntry))
  let gone := (kids.filter (fun k => decide (k.2.2.1 = 0))) ++ ins
  let stay := match left with
    | [] => []
    | k :: _ => [{ e with part := true, taken := gone.foldl (fun (t : Byte) x => setBit t x.2.1 true) e.taken, prio := k.2.2.2,
                          alive := left.foldl (fun (a : W32) x => a ||| x.2.2.1) 0, busy := none }]
  rest ++ new ++ stay

/-- The oldest BOUND result of a bundle is taken. -/
def State.takeBound (s : State) (h : Nat) : State :=
  match s.bundle? h with
  | none => s
  | some b => match b.boundRes with
    | [] => s
    | x :: r =>
      let al := match b.inflight.find? (fun o => o.id == x.op) with | some o => o.alive | none => 0
      let b1 := if x.nonres then b.mark al qsNonres else b
      let fr := match b.frontier.find? (fun e => e.busy == some x.op) with
        | none => b.frontier
        | some e => insertKids (decide (b.solo = some x.op)) b.frontier e x.kids
      let b2 := { b1 with
        boundRes := r, inflight := b.inflight.filter (fun o => o.id != x.op), frontier := fr
        solo := if b.solo = some x.op then none else b.solo }
      let s1 := s.updBundle h (fun _ => b2)
      s1.doIf (decide (b.frontier.length < 56) && decide (56 ≤ fr.length)) (·.updPart b.part (fun y => { y with tight := satInc y.tight }))

/-- BOUND_RETURN: the Strainer takes a bundle's oldest BOUND result and the bundle goes on. -/
def execBoundReturn (bundle : Nat) (env : Env) (s : State) : Host.Outcome State Fault Refusal :=
  let s := s.at env.t
  match s.bundle? bundle with
  | none => .next s
  | some b =>
    if !s.works b.part then .next s
    else if b.state = .done then .next (s.giveBundle env bundle)
    else .next ((s.takeBound bundle).goOn env bundle)

/-! ## SCORE (R213, R218, R242) -/

/-- The query buffer of a TU holds a bundle's slots; the least recent leave its 16 KiB (R214). -/
def State.bufferAdd (s : State) (tu : TuId) (h : Nat) : State :=
  let size := fun (i : Nat) => (s.bundleSlots i).length - 1
  let rec_ := h :: (s.arr.tus[tu]).buffer.filter (· != h)
  let keep := (rec_.foldl (fun (a : List Nat × Nat) i => if a.2 + size i ≤ 256 then (a.1 ++ [i], a.2 + size i) else (a.1, 257)) ([], 0)).1
  { s with arr := { s.arr with tus := s.arr.tus.set tu { (s.arr.tus[tu]) with buffer := keep } } }

/-- The scores of one alive query against the keys of a leaf. -/
def leafScores (b : Bundle) (sq : W32) (row : List Val × List Nat) (j : Nat) (keys : List (Nat × List Val × List Nat)) : List (Nat × Nat × Sigma) :=
  keys.map (fun k => (j, k.1, score b.precise b.qfmt.toNat row.1 row.2 sq b.desc.kfmt k.2.1 k.2.2 b.desc.scale (ovfOf b.ovf)))

/-- One SCORE of a pack. -/
def State.scoreOp (s : State) (env : Env) (tu : TuId) (k : Pack) (w : HWait) (o : ProbeOp) : State :=
  match s.bundle? o.bundle with
  | none => s
  | some b =>
    let d := b.desc
    let j := childIdx o.child
    let e := (elemBytes d.kfmt).getD 1
    let row := d.dim * e
    let c := s.itemCtx (.op o) tu.val
    let put := fun (s : State) (x : ScoreRes) => (s.updBundle b.head (fun b => { b with scoreRes := b.scoreRes ++ [x] })).bufferAdd tu b.head
    let sca := d.scaleAddr + 32 * j * (d.dim / 32)
    let scn := if e = 1 then d.dim else 0
    let r1 := s.residentRun b.part (d.leafVa j) (32 * row) c
    let r2 := if !r1.1 || scn = 0 then r1 else r1.2.residentRun b.part sca scn c
    if !r2.1 then put r2.2 ⟨o.id, [], 0, true, o.alive, false⟩
    else match r2.2.vnum b.part (d.leafVa j) (32 * row), r2.2.vnum b.part sca scn with
      | .bad x, _ => r2.2.parkOp env k w tu x
      | _, .bad x => r2.2.parkOp env k w tu x
      | .ok kn, .ok sn =>
        let keys := ((List.range 32).filter (fun i => decide (32 * j + i < d.keyCount))).map (fun i =>
          (32 * j + i, rowVals d.kfmt d.dim (kn / 256 ^ (row * i)), rowScales d.kfmt d.dim (sn / 256 ^ (d.dim / 32 * i))))
        let qr := r2.2.queryRows b
        let all := (List.range b.q).flatMap (fun n => if bit o.alive n then leafScores b qr.1 (qr.2.getD n ([], [])) n keys else [])
        let inv := all.filter (fun x => x.2.2.inv)
        let s1 := r2.2.fpOverflows b.part (all.filter (fun x => x.2.2.ovf)).length
        let s2 := s1.pushInvs (inv.map (fun x => ⟨fsScore, x.1, x.2.1, (s.kId b.head).toNat⟩))
        put s2 ⟨o.id, all.map (fun x => (x.1, ⟨x.2.1, x.2.2.hi, x.2.2.lo, 0⟩)),
          (all.filter (fun x => isNan32 x.2.2.hi)).foldl (fun (w : W32) x => setBit w x.1 true) 0, false, o.alive, false⟩

/-! ## HEAP_MERGE (R216, R217) -/

/-- Candidates entered into the heaps of their queries. -/
def mergeCands (b : Bundle) (l : List (Nat × HeapEnt)) : Bundle :=
  { b with heaps := l.foldl (fun (hs : List (List HeapEnt)) c =>
      hs.set c.1 (heapInsert b.nanRank b.k (hs.getD c.1 []) c.2)) b.heaps }

/-- The oldest SCORE result of a bundle is taken. -/
def State.takeScore (s : State) (h : Nat) : State :=
  s.updBundle h (fun b => match b.scoreRes with
    | [] => b
    | x :: r =>
      let b1 := (mergeCands b x.cands).mark x.invalid qsInvalid
      let b2 := if x.nonres then b1.mark x.alive qsNonres else b1
      { b2 with scoreRes := r, inflight := b.inflight.filter (fun o => o.id != x.op),
                frontier := b.frontier.filter (fun e => e.busy != some x.op), solo := if b.solo = some x.op then none else b.solo })

/-- An uncorrectable word of a bundle's heap or walk block (R232, R511, R515). -/
def State.strainLost (s : State) (env : Env) (b : Bundle) : State :=
  ((s.errContained b.part 2 b.unit.val (s.kId b.head).toNat).strainUncorr b.unit).failBundle env b.head 3

/-- HEAP_MERGE: the Strainer merges a bundle's oldest scores and the bundle goes on. -/
def execHeapMerge (bundle : Nat) (check : Check) (env : Env) (s : State) : Host.Outcome State Fault Refusal :=
  let s := s.at env.t
  match s.bundle? bundle with
  | none => .next s
  | some b =>
    if !s.works b.part then .next s
    else if b.state = .done then .next (s.giveBundle env bundle)
    else match check with
      | .failed => .next (s.strainLost env b)
      | .corrected => .next ((s.errCorrected.takeScore bundle).goOn env bundle)
      | .ok => .next ((s.takeScore bundle).goOn env bundle)

/-! ## REDUCE (R224) -/

/-- The value row of a key with its tally, and whether it holds a NaN or an infinity. -/
structure VRow where
  key : Nat
  row : List W32
  inv : Nat
  ovf : Nat
  bad : Bool

/-- The value rows of a chunk, or the first access that fails. -/
def State.valueRows (s : State) (b : Bundle) : List Nat → Acc (List VRow)
  | [] => .ok []
  | key :: r =>
    let v := b.vdesc
    let e := (elemBytes v.kfmt).getD 1
    match s.vnum b.part (v.keyAddr + key * v.dim * e) (v.dim * e), s.vnum b.part (v.scaleAddr + key * (v.dim / 32)) (if e = 1 then v.dim / 32 else 0) with
    | .bad x, _ => .bad x
    | _, .bad x => .bad x
    | .ok rn, .ok sn =>
      let vals := rowVals v.kfmt v.dim rn
      let scs := rowScales v.kfmt v.dim sn
      let t := valueRow (ovfOf b.ovf) vals scs v.scale
      match s.valueRows b r with
      | .bad x => .bad x
      | .ok l => .ok (⟨key, t.1, t.2.inv, t.2.ovf, decide (0 < t.2.inv) || vals.any (fun x => !x.isFin)⟩ :: l)

/-- The terms of one query in a chunk, in ascending key order: x and row. -/
def chunkTerms (xl : List (Nat × W32)) (rows : List VRow) : List (W32 × VRow) :=
  rows.filterMap (fun r => (assocGet r.key xl).map (fun x => (x, r)))

/-- A chunk's triples join those that wait to merge; the flags of R258 and R259 are reported. -/
def State.reduceChunk (s : State) (b : Bundle) (chunk : List Nat) (rows : List VRow) : State :=
  let per := (List.finRange 32).filterMap (fun j =>
    let ts := chunkTerms (b.xlists.getD j.val []) rows
    if ts.isEmpty then none
    else
      let t := chunkTriple (ovfOf b.ovf) b.vdesc.dim (ts.map (fun x => (x.1, x.2.row)))
      some (j, ts, t))
  let id := (s.kId b.head).toNat
  let inv := per.flatMap (fun x =>
    (match x.2.2.2.2 with
      | some n => List.replicate x.2.2.2.1.inv (⟨fsReduce, x.1.val, match x.2.1[n]? with | some k => k.2.key | none => 0, id⟩ : FpInv)
      | none => [])
    ++ x.2.1.flatMap (fun k => List.replicate k.2.inv ⟨fsReduce, x.1.val, k.2.key, id⟩))
  let ovf := (per.map (fun x => x.2.2.2.1.ovf)).foldl (· + ·) 0 + (rows.map (·.ovf)).foldl (· + ·) 0
  let bad := per.foldl (fun (w : W32) x => if decide (0 < x.2.2.2.1.inv) || x.2.1.any (fun k => k.2.bad) then setBit w x.1.val true else w) 0
  let s1 := (s.fpInvalids b.part inv).fpOverflows b.part ovf
  s1.updBundle b.head (fun b => { b.mark bad qsInvalid with
    chunks := b.chunks.filter (fun c => decide (c ≠ chunk)), triples := b.triples ++ per.map (fun x => (x.1, x.2.2.1)) })

/-- The chunk of a bundle that is reduced next: the first that no fault holds. -/
def Bundle.nextChunk (b : Bundle) : Option (List Nat) := b.chunks.find? (fun c => !b.parkedOps.any (fun o => o.child.toNat == c.headD 0))

/-- A bundle has a REDUCE to issue: its walk has ended, a chunk waits, and WAVE_MAX leaves room (R226). -/
def State.reduces (s : State) (b : Bundle) : Bool :=
  decide (b.state = .reducing) && decide (b.status = 0) && decide (b.ops < s.waveMax b.part) && b.nextChunk.isSome

/-- The operation of a bundle's next chunk, which its first key names. -/
def Bundle.reduceOp (b : Bundle) (chunk : List Nat) : ProbeOp := ⟨b.head, b.nextOp, .reduce, BitVec.ofNat 24 (chunk.headD 0), 0, 0⟩

/-- A REDUCE as a pack of its own, keyed by the line of its first value row. -/
def Bundle.reducePack (b : Bundle) (chunk : List Nat) : Pack :=
  let v := b.vdesc
  let line := (v.keyAddr + chunk.headD 0 * v.dim * (elemBytes v.kfmt).getD 1) / 128
  ⟨b.part, line, [⟨.op (b.reduceOp chunk), b.part, line, b.readyAt, 0⟩]⟩

/-- The REDUCE that a partition's list issues next is that of a bundle (R397, R398). -/
def State.reduceNext (s : State) (b : Bundle) : Bool :=
  let l := s.strain.bundles.filter (fun x => decide (x.part = b.part) && s.reduces x)
  match s.listTurn (s.issueCount b.part 5) (fun (x : Bundle) => ⟨x.part, x.cls, x.readyAt, (s.kId x.head).toNat⟩) l with
  | some x => decide (x.head = b.head)
  | none => false

/-- A REDUCE is issued to a TU's leaf scorer (R395, R405, R408). -/
def State.issueReduce (s : State) (k : Pack) (c : TuId × Nat) : State :=
  let t1 := s.packTrace k 1 0 c.1.val (s.tuDepth c.1)
  (((s.countIssue k.part 5).record t1).record { t1 with dec := 2, reason := c.2 })

/-- A chunk is gathered and reduced by a TU; a fault parks it. -/
def State.runReduce1 (s : State) (env : Env) (b : Bundle) (chunk : List Nat) (tu : TuId) : State :=
  match s.valueRows b chunk with
  | .ok rows => s.reduceChunk b chunk rows
  | .bad x =>
    let o := b.reduceOp chunk
    (s.updBundle b.head (fun b => { b with inflight := b.inflight ++ [o], nextOp := b.nextOp + 1 })).parkItem env b.part x ⟨.op o, b.part, 0, 0, 0⟩
      tu.val false

/-- REDUCE: the next chunk of a bundle is gathered, and the leaf scorer of the TU that step 3 of R168 chooses reduces it, in the order of its ready list
(R224, R226, R396, R397, R405). -/
def execReduce (bundle : Nat) (check : Check) (env : Env) (s : State) : Host.Outcome State Fault Refusal :=
  let s := s.at env.t
  match s.bundle? bundle with
  | none => .next s
  | some b =>
    if !s.works b.part || !s.reduces b || !s.reduceNext b then .next s
    else match b.nextChunk with
      | none => .next s
      | some chunk =>
        let k := b.reducePack chunk
        match s.fewest k 0x12 true with
        | none => .next s
        | some c =>
          let s := s.issueReduce k c
          if env.hw.addr then .next ((s.errContained b.part 6 c.1.val (s.kId bundle).toNat).failBundle env bundle 3)
          else match check with
            | .failed => .next (((s.errContained b.part 5 c.1.val (s.kId bundle).toNat).failBundle env bundle 3).residueSeen)
            | .corrected => .next (s.errCorrected.runReduce1 env b chunk c.1)
            | .ok => .next (s.runReduce1 env b chunk c.1)

/-! ## LSE_MERGE (R225) -/

/-- A reduce request that a Leash holds carries keys of a query. -/
def State.leashHolds (s : State) (l j : Nat) : Bool :=
  match s.leash? l with
  | some ⟨_, _, _, _, _, _, _, _, _, _, _, _, _, _, .reduceReq r⟩ => !(r.lists.getD j []).isEmpty
  | _ => false

/-- Triples of a query are still to come or to merge. -/
def State.owing (s : State) (b : Bundle) (j : Nat) : Bool :=
  b.chunks.any (fun c => c.any (fun k => (assocGet k (b.xlists.getD j [])).isSome)) || b.triples.any (fun t => t.1.val == j)
    || b.requests.any (fun r => !(r.2.getD j []).isEmpty) || b.leashes.any (fun l => s.leashHolds l j)

/-- w ÷ s of a query whose last triple has merged, with the flags of the Strainer's division (R225, R262). -/
def State.output (s : State) (b : Bundle) (j : Nat) (t : Triple) : State :=
  if b.foreign.isSome then s.updBundle b.head (fun b => { b with outs := b.outs.set j (some []) })
  else
    let r := outElems (ovfOf b.ovf) b.outFmt.toNat t
    let s1 := (s.fpInvalids b.part (List.replicate r.2.inv ⟨fsReduce, j, 0, (s.kId b.head).toNat⟩)).fpOverflows b.part r.2.ovf
    s1.updBundle b.head (fun b =>
      { b.mark (if 0 < r.2.inv then setBit 0 j true else 0) qsInvalid with outs := b.outs.set j (some r.1) })

/-- One triple of a query merges into what it has. -/
def State.mergeOne (s : State) (b : Bundle) (j : Fin 32) (t : Triple) : State :=
  let b1 := { b with triples := b.triples.erase (j, t) }
  match b.accs.getD j.val none with
  | none => s.updBundle b.head (fun _ => { b1 with accs := b1.accs.set j.val (some t) })
  | some a =>
    let r := lseMerge (ovfOf b.ovf) a t
    let s1 := (s.fpInvalids b.part (List.replicate r.2.inv ⟨fsOther, 0, 0, (s.kId b.head).toNat⟩)).fpOverflows b.part r.2.ovf
    s1.updBundle b.head (fun _ => { b1.mark (if 0 < r.2.inv then setBit 0 j.val true else 0) qsInvalid with accs := b1.accs.set j.val (some r.1) })

/-- A triple of a query merges; the last one yields the query's output. -/
def State.mergeTriple (s : State) (env : Env) (h : Nat) (j : Fin 32) : State :=
  match s.bundle? h with
  | none => s
  | some b => match b.triples.find? (fun t => decide (t.1 = j)) with
    | none => s
    | some (_, t) =>
      let s1 := s.mergeOne b j t
      match s1.bundle? h with
      | none => s1
      | some b1 =>
        if s1.owing b1 j.val then s1
        else (s1.output b1 j.val ((b1.accs.getD j.val none).getD t)).endWalk env h

/-- LSE_MERGE: a waiting triple of a query merges in the reduction network. -/
def execLseMerge (bundle : Nat) (query : Fin 32) (check : Check) (env : Env) (s : State) : Host.Outcome State Fault Refusal :=
  let s := s.at env.t
  match s.bundle? bundle with
  | none => .next s
  | some b =>
    if !s.works b.part then .next s
    else if b.state = .done then .next (s.giveBundle env bundle)
    else match check with
      | .failed => .next ((s.errContained b.part 7 b.unit.val (s.kId bundle).toNat).failBundle env bundle 3)
      | .corrected => .next (s.errCorrected.mergeTriple env bundle query)
      | .ok => .next (s.mergeTriple env bundle query)

end Sys2Proof.Machine
end

