-- ==== Sys2Proof/Machine/Lease.lean ====
section
/-!
DEFINITION. Sys2Proof/Machine/Lease.lean: the Leashes at the origin (R385): sending a query to its owner (R185, R227, R228, R373), the re-issue
of a query whose owner is lost (R386), and the row FORWARD.
-/

namespace Sys2Proof.Machine

/-! ## Leases (R385, R394) -/

/-- LEASE_US of a partition; zero means 200 µs. -/
def State.leaseUs (s : State) (p : PartId) : Nat :=
  if (s.part p).leaseUs.force = 0 then 200 else (s.part p).leaseUs.force.toNat

/-- The deadline of a Leash starts again. -/
def State.armLease (s : State) (k : Nat) (p : PartId) : State :=
  (s.timerDel (.lease k)).timerAdd (.lease k) (s.pins.now + 1000 * s.leaseUs p)

/-- A Leash whose query is sent now; FAILED and REISSUES carry over (R385). -/
def State.sentLeash (s : State) (k : Leash) (id : W32) (sub : W16) (kind : BitVec 2) (entry : Byte) (t : ChipId) (l : LinkId) (b : MsgBody) : Leash :=
  { k with queryId := id, subtree := sub, lkind := kind, entry := entry, owner := t, link := BitVec.ofNat 5 l.val, extends_ := 0,
           epoch := s.fwd.epoch.get, live := true, sent := true, body := b }

/-- The query of a Leash goes out: the Leash lives and its deadline runs. -/
def State.sendLeash (s : State) (p : PartId) (k : Nat) (x : Leash) (id : W32) (sub : W16) (kind : BitVec 2) (entry : Byte) (t : ChipId) (l : LinkId)
    (b : MsgBody) : State :=
  ((s.sendNow l (s.hdr id sub t) b).updLeash k (fun _ => s.sentLeash x id sub kind entry t l b)).armLease k p

/-- CANCEL goes to the owner of a Leash under its ID (R386); none while its route is unreachable. -/
def State.sendCancel (s : State) (k : Leash) : State :=
  match s.route 0 k.owner with
  | .link l => s.send l (s.hdr k.queryId k.subtree k.owner) .cancel
  | _ => s

/-- The owner of a Leash is lost: FAILED names it, REISSUES counts, its deadline ends. -/
def State.loseLeash (s : State) (k : Nat) : State :=
  ((s.timerDel (.lease k)).updLeash k (fun x =>
    { x with failed := x.owner, failedValid := true, failedSub := x.subtree, owner := 0, link := 0, reissues := x.reissues + 1, live := false,
             sent := false })).drainAll

/-- A forward has ended: the Leash stays, its deadline ends, OWNER is cleared, the first-hop link with it (R385). -/
def State.restLeash (s : State) (k : Nat) : State :=
  ((s.timerDel (.lease k)).updLeash k (fun x => { x with owner := 0, link := 0, live := false, sent := false })).drainAll

/-- One re-issue is counted (R393). -/
def State.countReissue (s : State) : State := { s with fwd := { s.fwd with reissues := satInc s.fwd.reissues } }

/-! ## Messages of queries (R373) -/

/-- The ray slot of a FWD_RAY. -/
def raySlotOf (r : Ray) (id : W32) : Slot64 :=
  BitVec.ofNat 512 (packN [(32, r.origin[0].toNat), (32, r.origin[1].toNat), (32, r.origin[2].toNat), (32, r.dir[0].toNat), (32, r.dir[1].toNat),
    (32, r.dir[2].toNat), (32, r.tmin.toNat), (32, r.tmax.toNat), (32, id.toNat), (16, r.flow.toNat), (16, r.flags.toNat), (8, r.vis.toNat), (8, 0),
    (16, 0), (64, r.payload.toNat)])

/-- FWD_RAY of a ray. -/
def State.rayMsg (s : State) (i : Nat) (r : Ray) : MsgBody :=
  .fwdRay ⟨raySlotOf r (s.kId i), BitVec.ofNat 64 r.desc, BitVec.ofNat 32 (s.leaseUs (s.kPart i)), ⟨r.cls, r.ovf⟩⟩

/-- The raw slots of a bundle. -/
def State.rawSlots (s : State) (h : Nat) : List Slot64 :=
  (s.bundleSlots h).filterMap (fun i => match s.kGet i with
    | some ⟨_, _, _, .head w⟩ => some w
    | some ⟨_, _, _, .body w⟩ => some w
    | _ => none)

/-- DESC_ADDR of a bundle: the address its command's hierarchy slot is bound to. -/
def State.bundleDesc (s : State) (b : Bundle) (values : Bool) : Nat :=
  match b.cmd.bind s.cmd? with
  | some c => match assocGet (if values then rb c.raw 36 2 else rb c.raw 34 2) c.hiers with | some h => h.addr | none => 0
  | none => 0

/-- FWD_PROBE of a bundle's entry, with the thresholds of now. -/
def State.probeMsg (s : State) (b : Bundle) (al : W32) : MsgBody :=
  .fwdProbe ⟨BitVec.ofNat 64 (s.bundleDesc b false), BitVec.ofNat 16 b.k, b.precise, b.nanRank, b.reduce, ⟨b.cls, b.ovf⟩,
    BitVec.ofNat 32 (s.leaseUs b.part), al, (List.range 32).map (fun j => if bit al j then b.theta j else 0), s.rawSlots b.head⟩

/-- REDUCE_REQ of some of a bundle's winners. -/
def State.reduceMsg (s : State) (b : Bundle) (lists : List (List (W32 × W32))) : MsgBody :=
  .reduceReq ⟨BitVec.ofNat 64 (s.bundleDesc b true), BitVec.ofNat 16 b.dv, BitVec.ofNat 8 b.q, ⟨b.cls, b.ovf⟩, BitVec.ofNat 32 (s.leaseUs b.part),
    lists⟩

/-- Operations a session must have agreed for a message (R380). -/
def opsOf : MsgBody → W16
  | .fwdRay _ => 1
  | .fwdProbe b => if b.precise then 6 else 2
  | .reduceReq _ => 8
  | _ => 0

/-- A query message again with the thresholds of now. -/
def State.freshMsg (s : State) (b : Bundle) : MsgBody → MsgBody
  | .fwdProbe m => s.probeMsg b m.alive
  | m => m

/-! ## Re-issue (R386) -/

/-- A ray whose owner is lost restarts its walk under a new ID, or ends with FWD_FAIL. -/
def State.reissueRay (s : State) (i : Nat) : State :=
  match s.ray? i with
  | none => s
  | some r => match r.leash.bind (fun k => (s.leash? k).map (fun x => (k, x))) with
    | none => s
    | some (k, x) =>
      let p := s.kPart i
      if x.reissues.toNat = (s.part p).reissueMax.force.toNat then s.rayFwdFail i
      else
        let s1 := ((s.countReissue.sendCancel x).genUp i).loseLeash k
        let aux := (s.raySlots i).filter (fun n => n != i && n != k)
        let s2 := ((s1.kFreeAll aux).kLink i none).setRay i { r with
          cand := ⟨0xFFFFFFFF, 0xFFFFFFFF, 0, 0, false, false, false, false, true⟩
          visit := Visit.clear, ts := ⟨false, [], false, r.root⟩, inst := none, wait := .none, rstate := .active }
        s2.enter (.ray i) p ((r.base + 128 * r.root) / 128)

/-- A live Leash of a re-issued bundle is sent again under the new ID, to its same owner, with the thresholds of now; where its link has not agreed the
operation (R380) or is not UP the Leash waits to be sent to the target of R362. -/
def State.resendLeash (s : State) (h k : Nat) : State :=
  match s.bundle? h, s.leash? k with
  | some b, some x =>
    if hl : x.link.toNat < 24 then
      let l : LinkId := ⟨x.link.toNat, hl⟩
      let m := s.freshMsg b x.body
      if (s.sess l).state = ssUp && decide ((s.sess l).ops &&& opsOf m = opsOf m) then
        ((s.send l (s.hdr (s.kId h) x.subtree x.owner) m).updLeash k (fun y =>
          { y with queryId := s.kId h, extends_ := 0, epoch := s.fwd.epoch.get, body := m })).armLease k b.part
      else (s.timerDel (.lease k)).updLeash k (fun y => { y with live := false, sent := false })
    else s
  | _, _ => s

/-- A bundle with lost Leashes: one re-issue under a new ID; the lost ones wait to be sent to the target of R362, the other live ones are
sent again. -/
def State.reissueBundle (s : State) (env : Env) (h : Nat) (lost : List Nat) : State :=
  match s.bundle? h with
  | none => s
  | some b =>
    let top := (s.part b.part).reissueMax.force.toNat
    if lost.any (fun k => match s.leash? k with | some x => x.reissues.toNat == top | none => false) then s.failBundle env h 4
    else
      let others := b.leashes.filter (fun k => !lost.contains k && (match s.leash? k with | some x => x.live | none => false))
      let cancel := fun (s : State) (k : Nat) => match s.leash? k with | some x => s.sendCancel x | none => s
      let s1 := (lost ++ others).foldl cancel s.countReissue
      let s2 := lost.foldl State.loseLeash ((s1.genUp h).updBundle h (fun b => b.mark b.everyQ qsReissued))
      others.foldl (fun s k => s.resendLeash h k) s2

/-- The owners of some live Leashes are lost at once. -/
def State.loseOwners (s : State) (env : Env) (ks : List Nat) : State :=
  let rays := s.kennel.slots.filterMap (fun e => match e.2.data with
    | .ray r => (match r.leash with | some k => if ks.contains k then some e.1 else none | none => none)
    | _ => none)
  let bundles := s.strain.bundles.filterMap (fun b =>
    let l := b.leashes.filter ks.contains
    if l.isEmpty then none else some (b.head, l))
  bundles.foldl (fun s x => s.reissueBundle env x.1 x.2) (rays.foldl State.reissueRay s)

/-- Live Leashes whose first hop is a link. -/
def State.leashesOn (s : State) (l : LinkId) : List Nat :=
  s.kennel.slots.filterMap (fun e => match e.2.data with
    | .leash k => if k.live && decide (k.link.toNat = l.val) then some e.1 else none
    | _ => none)

/-- The holder of a Leash: the slot of its ray or bundle. -/
def State.leashHolder (s : State) (k : Nat) : Option (Nat × Bool) :=
  match s.kennel.slots.findSome? (fun e => match e.2.data with | .ray r => if r.leash = some k then some e.1 else none | _ => none) with
  | some i => some (i, true)
  | none => (s.strain.bundles.find? (fun b => b.leashes.contains k)).map (fun b => (b.head, false))

/-! ## FORWARD -/

/-- Who a forward's route read is for (R445). -/
def State.forwardCtx (s : State) (slot : Nat) : FaultCtx :=
  let i : HItem := match s.ray? slot with | some _ => .ray slot | none => .op ⟨slot, 0, .bound, 0, 0, 0⟩
  { s.itemCtx i 0 with source := 8 }

/-- FAILED of a Leash as R362 takes it for a subtree: only where the chip was lost for the same one (R385). -/
def failedFor (x : Option Leash) (sub : W16) : Option ChipId :=
  match x with
  | some k => if k.failedValid && decide (k.failedSub = sub) then some k.failed else none
  | none => none

/-- A ray that waits in FORWARD: `skip` is a chip that counts as unreachable. -/
def State.forwardRay (s : State) (env : Env) (i : Nat) (r : Ray) (child : Nat) (sub : W16) (skip : Option ChipId) : State :=
  let p := s.kPart i
  match s.target 1 sub.toNat (failedFor (r.leash.bind s.leash?) sub) skip with
  | .fail => s.rayFwdFail i
  | .here => s.resumeRay i
  | .park x => s.fault env s.hostPart 0 x 0 (s.forwardCtx i) (.forward i)
  | .send t l =>
    let b := s.rayMsg i r
    if !s.canSend l (s.hdr (s.kId i) sub t) b then s
    else
      let go := fun (s : State) (k : Nat) => (s.sendLeash p k ((s.leash? k).getD (Leash.fresh 0)) (s.kId i) sub 0 (BitVec.ofNat 8 child) t l b).updRay i
        (fun r => { r with wait := .remote child k, rstate := .forwarded })
      match r.leash with
      | some k => go s k
      | none => match s.kAux env p false (.leash (Leash.fresh 0)) with
        | none => s.spillWait i (.spillLeash child sub)
        | some (k, s1) => go (s1.updRay i (fun r => { r with leash := some k })) k

/-- A bundle's Leash that waits to be sent again after its owner was lost. -/
def State.lostLeash (s : State) (b : Bundle) : Option (Nat × Leash) :=
  b.leashes.findSome? (fun k => match s.leash? k with | some x => if x.sent then none else some (k, x) | none => none)

/-- A Leash of a bundle is freed. -/
def State.freeLeash (s : State) (h k : Nat) : State :=
  (((s.timerDel (.lease k)).kFree k).updBundle h (fun b => { b with leashes := b.leashes.filter (· != k) })).drainAll

/-- Winners of a request that this chip turns out to hold are reduced here. -/
def Bundle.keepLocal (b : Bundle) (lists : List (List (W32 × W32))) : Bundle :=
  let add := (List.range b.q).map (fun j => ((lists.getD j []).map (fun e => (e.1.toNat, e.2))))
  let keys := unionKeys (add.flatMap (fun l => l.map (·.1)))
  { b with xlists := (List.range b.q).map (fun j => b.xlists.getD j [] ++ add.getD j []), chunks := b.chunks ++ chunks32 (keys.length + 1) keys }

/-- A query of a bundle goes to a chip under a Leash, its own or a new one; none where no slot or credit is free. -/
def State.sendBundle (s : State) (env : Env) (b : Bundle) (old : Option (Nat × Leash)) (sub : W16) (kind : BitVec 2) (entry : Byte) (t : ChipId)
    (l : LinkId) (m : MsgBody) : Option (Nat × State) :=
  if !s.canSend l (s.hdr (s.kId b.head) sub t) m then none
  else match old with
    | some (k, x) => some (k, s.sendLeash b.part k x (s.kId b.head) sub kind entry t l m)
    | none => match s.kAux env b.part false (.leash (Leash.fresh kind)) with
      | none => none
      | some (k, s1) => some (k, (s1.sendLeash b.part k (Leash.fresh kind) (s.kId b.head) sub kind entry t l m).updBundle b.head
          (fun b => { b with leashes := b.leashes ++ [k] }))

/-- A frontier entry that another chip owns is forwarded, or comes back where this chip owns it now. -/
def State.forwardEntry (s : State) (env : Env) (b : Bundle) (e : FEntry) (old : Option (Nat × Leash)) (skip : Option ChipId) : State :=
  let h := b.head
  let sub := BitVec.ofNat 16 (childIdx e.child % 65536)
  let al := b.narrow e
  let back := fun (s : State) (f : List FEntry) => s.updBundle h (fun b => { b with frontier := f })
  let free := fun (s : State) => match old with | some (k, _) => s.freeLeash h k | none => s
  if al = 0 then (back (free s) (b.frontier.filter (fun x => decide (x ≠ e)))).goOn env h
  else
    let m := s.probeMsg b al
    match s.target (opsOf m) sub.toNat (failedFor (old.map (·.2)) sub) skip with
    | .fail => s.failBundle env h 4
    | .here => (back (free s) (b.frontier.map (fun x => if x = e then { x with leash := none, fwd := false } else x))).goOn env h
    | .park x => s.fault env s.hostPart 0 x 0 (s.forwardCtx h) (.forward h)
    | .send t l =>
      match s.sendBundle env b old sub 1 (BitVec.ofNat 8 (b.frontier.idxOf e)) t l m with
      | none => s
      | some (k, s1) => back s1 (b.frontier.map (fun x => if x = e then { x with alive := al, leash := some k } else x))

/-- A reduce request is sent to the subtree's owner, or its winners are reduced here. -/
def State.forwardReduce (s : State) (env : Env) (b : Bundle) (sub : W16) (lists : List (List (W32 × W32))) (old : Option (Nat × Leash))
    (skip : Option ChipId) : State :=
  let h := b.head
  let m := s.reduceMsg b lists
  let done := fun (s : State) => match old with
    | some _ => s
    | none => s.updBundle h (fun b => { b with requests := b.requests.drop 1 })
  match s.target (opsOf m) sub.toNat (failedFor (old.map (·.2)) sub) skip with
  | .fail => s.failBundle env h 4
  | .here => (done (match old with | some (k, _) => s.freeLeash h k | none => s)).updBundle h (fun b => b.keepLocal lists)
  | .park x => s.fault env s.hostPart 0 x 0 (s.forwardCtx h) (.forward h)
  | .send t l => match s.sendBundle env b old sub 2 0xFF t l m with
    | none => s
    | some (_, s1) => done s1

/-- A frontier entry picked for FORWARD that no Leash holds yet. -/
def Bundle.marked (b : Bundle) : Option FEntry := b.frontier.find? (fun e => e.fwd && e.leash.isNone)

/-- A bundle's next query: a lost Leash first, then a frontier entry picked for FORWARD, then a reduce request. -/
def State.forwardBundle (s : State) (env : Env) (b : Bundle) (skip : Option ChipId) : State :=
  match s.lostLeash b with
  | some (k, x) => match x.body with
    | .reduceReq r => s.forwardReduce env b x.subtree r.lists (some (k, x)) skip
    | _ => match b.frontier.find? (fun e => e.leash == some k) with
      | some e => s.forwardEntry env b e (some (k, x)) skip
      | none => s.freeLeash b.head k
  | none => match b.marked with
    | some e => s.forwardEntry env b e none skip
    | none => match b.requests with
      | (sub, lists) :: _ => s.forwardReduce env b (BitVec.ofNat 16 sub) lists none skip
      | [] => s

/-- The forward of a slot waits on a fault of its route byte. -/
def State.forwardParked (s : State) (slot : Nat) : Bool := s.isParked (.forward slot)

/-- What a slot has to forward goes out; `skip` is a chip whose route byte's fault was aborted (R450). -/
def State.forwardSlot (s : State) (env : Env) (slot : Nat) (skip : Option ChipId) : State :=
  match s.ray? slot with
  | some r => match r.wait with
    | .forward child sub => if r.rstate = .active then s.forwardRay env slot r child sub skip else s
    | _ => s
  | none => match s.bundle? slot with
    | some b => if !b.placed || decide (b.status ≠ 0) || b.foreign.isSome || b.result.isSome then s else s.forwardBundle env b skip
    | none => s

/-- What a slot has to forward: subtree, message, and the Leash that an earlier owner was lost from. -/
def State.forwardQuery (s : State) (slot : Nat) : Option (W16 × MsgBody × Option Leash) :=
  match s.ray? slot with
  | some r => match r.wait with
    | .forward _ sub => if r.rstate = .active then some (sub, s.rayMsg slot r, r.leash.bind s.leash?) else none
    | _ => none
  | none => match s.bundle? slot with
    | none => none
    | some b =>
      let entry := fun (e : FEntry) (x : Option Leash) => (BitVec.ofNat 16 (childIdx e.child % 65536), s.probeMsg b (b.narrow e), x)
      if !b.placed || decide (b.status ≠ 0) || b.foreign.isSome || b.result.isSome then none
      else match s.lostLeash b with
        | some (k, x) => match x.body with
          | .reduceReq r => some (x.subtree, s.reduceMsg b r.lists, some x)
          | _ => (b.frontier.find? (fun e => e.leash == some k)).map (fun e => entry e (some x))
        | none => match b.marked with
          | some e => some (entry e none)
          | none => b.requests.head?.map (fun r => (BitVec.ofNat 16 r.1, s.reduceMsg b r.2, none))

/-- The subtree of what a slot has to forward, whose owner-table entry FORWARD reads. -/
def State.forwardSub (s : State) (slot : Nat) : Option Nat := (s.forwardQuery slot).map (·.1.toNat)

/-- The partition of a slot's ray or bundle. -/
def State.slotOwner (s : State) (slot : Nat) : PartId :=
  match s.ray? slot with
  | some _ => s.kPart slot
  | none => match s.bundle? slot with | some b => b.part | none => 0

/-- The link that a slot's query goes out on, where its pool has the credit: the FORWARD is ready (R377, R396). -/
def State.forwardLink (s : State) (slot : Nat) : Option LinkId :=
  if !s.works (s.slotOwner slot) || s.forwardParked slot then none
  else match s.forwardQuery slot with
    | none => none
    | some (sub, m, x) => match s.target (opsOf m) sub.toNat (failedFor x sub) none with
      | .send t l => if s.canSend l (s.hdr (s.kId slot) sub t) m then some l else none
      | _ => none

/-- The FORWARDs that are ready, each by its slot with its place on the block-wide list. -/
def State.forwards (s : State) : List (Nat × Turn) :=
  (s.kennel.slots.filterMap (fun e => match e.2.data with
    | .ray r => if (s.forwardLink e.1).isSome then some (e.1, ⟨e.2.part, r.cls, r.doneAt, (s.kId e.1).toNat⟩) else none
    | _ => none))
  ++ s.strain.bundles.filterMap (fun b =>
    if (s.forwardLink b.head).isSome then some (b.head, ⟨b.part, b.cls, b.readyAt, (s.kId b.head).toNat⟩) else none)

/-- The FORWARD that the block-wide list issues next is that of a slot (R397, R398). -/
def State.forwardNext (s : State) (slot : Nat) : Bool :=
  match s.blockTurn (s.issueCount 0 7) s.fwd.turn (·.2) s.forwards with
  | some x => decide (x.1 = slot)
  | none => false

/-- A FORWARD is issued to a link: it counts on its list and takes its partition's turn, and the trace records it (R398, R408). -/
def State.forwardIssued (s : State) (slot : Nat) (l : LinkId) : State :=
  let x := (s.forwards.find? (fun x => decide (x.1 = slot))).map (·.2)
  let c := match x with | some t => t.cls | none => 0
  let rec0 : TraceRec := { TraceRec.of 2 7 (s.slotOwner slot).val 0 with cls := c.toNat, item := (s.kId slot).toNat, unit := l.val, kind := 4 }
  let s1 := ({ s with fwd := { s.fwd with turn := s.slotOwner slot } }.countIssue 0 7).record rec0
  s1.doIf (s.issueCount 0 7 == 15 && s.forwards.any (fun y => decide (y.2.cls.toNat < c.toNat))) (·.record { rec0 with dec := 4 })

/-- An uncorrectable word of the owner-table entry of a subtree: the entry is not valid until the next epoch boundary (R360, R511). -/
def State.ownerLost (s : State) (p : PartId) (slot : Nat) : State :=
  match s.forwardSub slot with
  | some sub => ({ s with fwd := { s.fwd with bad := sub :: s.fwd.bad.erase sub } }).errContained p 12 sub (s.kId slot).toNat
  | none => s

/-- The forward of a slot: one that is ready goes in the order of the block-wide list (R397, R398). -/
def State.forwardTurn (s : State) (env : Env) (slot : Nat) : State :=
  match s.forwardLink slot with
  | none => s.forwardSlot env slot none
  | some l => if s.forwardNext slot then (s.forwardIssued slot l).forwardSlot env slot none else s

/-- The Kennel words of a forwarded ray or bundle (R118). -/
def State.forwardWords (s : State) (env : Env) (p : PartId) (slot : Nat) : State :=
  match s.ray? slot with
  | some _ => env.hw.words.foldl (fun s w => s.kennelWord p [⟨.ray slot, p, 0, 0, 0⟩] w) s
  | none => s.bundleWords env p [slot] env.hw.words

/-- FORWARD: a query bound for a remote owner is sent against credit and takes a Leash. `check` is that of the owner table's word. -/
def execForward (slot : Nat) (check : Check) (env : Env) (s : State) : Host.Outcome State Fault Refusal :=
  let s := s.at env.t
  let p := s.slotOwner slot
  if !s.works p || s.forwardParked slot then .next s
  else
    let s := s.forwardWords env p slot
    match check with
    | .ok => .next (s.forwardTurn env slot)
    | .corrected => .next ((s.doIf (s.forwardSub slot).isSome State.errCorrected).forwardTurn env slot)
    | .failed => .next ((s.ownerLost p slot).forwardTurn env slot)

end Sys2Proof.Machine
end

