-- ==== Sys2Proof/Machine/Result.lean ====
section
/-!
DEFINITION. Sys2Proof/Machine/Result.lean: results that come back to the origin (R95, R185, R227, R228, R375, R376, R387, R455), LEASE_EXTEND
and LEASE_DEADLINE (R385).
-/

namespace Sys2Proof.Machine

/-! ## Arrival -/

/-- A link's session carries traffic. -/
def State.carries (s : State) (l : LinkId) : Bool :=
  s.hears l && (decide ((s.sess l).state = ssUp) || decide ((s.sess l).state = ssDrain))

/-- What every message with a header brings with it: the receive timeout starts again and its epoch is looked at (R368, R379). -/
def State.arrived (s : State) (l : LinkId) (h : MsgHdr) : State := (s.heard l).epochSeen h.epochLo

/-- Credit of a result addressed to this chip. -/
def State.oweResult (s : State) (l : LinkId) (b : MsgBody) : State := s.owe l ⟨0, 0, 1 + b.len, 0, 0⟩

/-- Chips reach at most 63 relays (R369): the message goes on with HOPS incremented, or is discarded and counted; a query goes only where its kind is
agreed (R380). -/
def State.relay (s : State) (l : LinkId) (h : MsgHdr) (b : MsgBody) : State :=
  let u := 1 + b.len
  let owed : Credits := if b.cls = 0 then ⟨0, u, 0, 0, 0⟩ else if b.cls = 1 then ⟨0, 0, 0, u, 0⟩ else noCredits
  let s1 := s.owe l owed
  let drop := fun (s : State) => { s with fwd := { s.fwd with relayDrop := satInc s.fwd.relayDrop } }
  if h.hops = 63 then drop s1
  else match s1.route (opsOf b) h.dest with
    | .link o => s1.send o { h with hops := h.hops + 1 } b
    | _ => drop s1

/-- A message that names no type of R372 is discarded and counted. -/
def knownType : MsgBody → Bool
  | .unknown _ _ => false
  | _ => true

/-- MESSAGE_RELAY: a message for another chip goes on toward it (R369); one of an unknown type is discarded (R372). -/
def execMessageRelay (l : LinkId) (hdr : MsgHdr) (body : MsgBody) (env : Env) (s : State) : Host.Outcome State Fault Refusal :=
  let s := s.at env.t
  if !s.carries l then .next s
  else
    let s1 := s.arrived l hdr
    if !knownType body then .next { s1 with fwd := { s1.fwd with relayDrop := satInc s1.fwd.relayDrop } }
    else if hdr.dest = s.boot.chipId then .next s1
    else .next (s1.relay l hdr body)

/-! ## Acceptance (R95) -/

/-- The live Leash of a kind that a header names: its slot's current ID, the owner that sent it, its subtree. -/
def State.liveLeash (s : State) (h : MsgHdr) (kind : BitVec 2) (ok : Leash → Bool) : Option (Nat × Leash) :=
  let slot := h.queryId.toNat % 262144
  if s.kId slot ≠ h.queryId then none
  else
    let ks := match s.ray? slot with
      | some r => r.leash.toList
      | none => match s.bundle? slot with | some b => b.leashes | none => []
    ks.findSome? (fun k => match s.leash? k with
      | some x => if x.live && decide (x.lkind = kind) && decide (x.queryId = h.queryId) && decide (x.owner = h.src) && decide (x.subtree = h.subtree) && ok x
          then some (k, x) else none
      | none => none)

/-- A result that fails the checks is dropped and counted (R387). -/
def State.staleResult (s : State) : State := { s with fwd := { s.fwd with staleDrop := satInc s.fwd.staleDrop } }

/-- Slot of a query ID. -/
def slotOfId (id : W32) : Nat := id.toNat % 262144

/-- FAULT_REMOTE: an open fault of KIND 2 in the query's partition; the Leash's deadline ends while the query is parked (R376, R455). -/
def State.remoteFault (s : State) (env : Env) (p : PartId) (k : Nat) (x : Leash) (va : W64) (c : FaultCtx) (w : Parked) : State :=
  ((s.timerDel (.lease k)).updLeash k (fun y => { y with live := false })).fault env p 2 ⟨0, 0, va.toNat⟩ x.owner { c with source := 8 } w

/-! ## RAY_RESULT -/

/-- A result's hit joins a ray as a candidate (R178, R185 step 1); true where it is accepted. -/
def mergeHit (r : Ray) (hit : Rec32) : Ray × Bool :=
  let prim : W32 := fld hit 32 32
  let inst : W32 := fld hit 64 32
  let t : W32 := fld hit 96 32
  if fldN hit 160 8 = 0 && eligible r inst prim t then (acceptCand r inst prim t (fld hit 128 16) (fld hit 144 16), true) else (r, false)

/-- The flags of a result joined to a ray (R185 step 2). -/
def markHit (r : Ray) (hit : Rec32) (reissued : Bool) : Ray :=
  { r with cand := { r.cand with invalid := r.cand.invalid || bit hit 168, nonres := r.cand.nonres || bit hit 169, fwd := true,
                                 reissued := r.cand.reissued || reissued } }

/-- A result part of a ray merges (R185, R375); with LAST the forward ends, and the walk is taken up again after its child was walked elsewhere, or ends. -/
def State.rayDone (s : State) (i k : Nat) (x : Leash) (pre : ResultPrefix) (hit : Rec32) : State :=
  match s.ray? i with
  | none => s
  | some r =>
    let m := mergeHit r hit
    let y := markHit m.1 hit (decide (x.reissues ≠ 0))
    if 16 ≤ fldN hit 160 8 then ((s.restLeash k).setRay i { y with wait := .none, rstate := .active }).endRay i (fldN hit 160 8)
    else if !pre.last then s.setRay i y
    else
      let s2 := ((s.restLeash k).setRay i { y with wait := .none, rstate := .active }).leafDone i x.entry.toNat
      if pre.ended || (m.2 && bit r.flags 0) then s2.finishRay i else s2.resumeRay i

/-- RAY_RESULT at the origi; a partition in PARTITION_ERROR or a reset takes nothing further up (R457, R519). -/
def execRayResult (l : LinkId) (hdr : MsgHdr) (pre : ResultPrefix) (hit : Rec32) (env : Env) (s : State) : Host.Outcome State Fault Refusal :=
  let s := s.at env.t
  if !s.carries l then .next s
  else
    let b := MsgBody.rayResult pre hit
    let s1 := s.arrived l hdr
    if hdr.dest ≠ s.boot.chipId then .next (s1.relay l hdr b)
    else
      let s2 := s1.oweResult l b
      let i := slotOfId hdr.queryId
      match s2.liveLeash hdr 0 (fun _ => true) with
      | none => .next s2.staleResult
      | some (k, x) =>
        if !s2.works (s2.kPart i) then .next s2
        else if pre.result = 0 then .next (s2.rayDone i k x pre hit)
        else if pre.result = 1 then .next (s2.remoteFault env (s2.kPart i) k x pre.faultVa (s2.itemCtx (.ray i) 0) (.remoteRay i))
        else if pre.result = 2 || pre.result = 3 then .next (s2.reissueRay i)
        else if pre.result = 4 then .next (s2.endRay i 0x17)
        else .next s2.staleResult

/-! ## PROBE_RESULT -/

/-- QSTATUS of a result joined to a bundle (R227 step 2). -/
def Bundle.joinStatus (b : Bundle) (al : W32) (pre : ResultPrefix) (reissued : Bool) : Bundle :=
  { b with qstatus := (List.range b.qstatus.length).map (fun j =>
      let m := (pre.qstatus.getD j 0) &&& 3
      b.qstatus.getD j 0 ||| m ||| (if bit al j then (if reissued then qsFwd ||| qsReissued else qsFwd) else 0)) }

/-- The alive set of a Leash's bundle. -/
def Leash.alive (x : Leash) : W32 := match x.body with | .fwdProbe m => m.alive | _ => 0

/-- One part of a probe result merges; the last frees the Leash and removes its entry (R227, R375). -/
def State.probePart (s : State) (env : Env) (h k : Nat) (x : Leash) (pre : ResultPrefix) (lists : List (List ProbeEntry)) : State :=
  match s.bundle? h with
  | none => s
  | some b =>
    let cands := (List.range b.q).flatMap (fun j => (lists.getD j []).map (fun (e : ProbeEntry) =>
      (j, (⟨e.key.toNat, e.score, e.lo, x.subtree.toNat + 1⟩ : HeapEnt))))
    let b1 := (mergeCands b cands).joinStatus x.alive pre (decide (x.reissues ≠ 0))
    if !pre.last then s.updBundle h (fun _ => b1)
    else (((s.updBundle h (fun _ => { b1 with frontier := b1.frontier.filter (fun e => e.leash != some k) })).freeLeash h k)).goOn env h

/-- A result other than DONE for a bundle's Leash. -/
def State.bundleResult (s : State) (env : Env) (h k : Nat) (x : Leash) (pre : ResultPrefix) : State :=
  if pre.result = 1 then
    match s.bundle? h with
    | some b => s.remoteFault env b.part k x pre.faultVa (s.itemCtx (.op ⟨h, 0, .bound, 0, 0, 0⟩) 0) (.remoteBundle h k)
    | none => s
  else if pre.result = 2 || pre.result = 3 then s.reissueBundle env h [k]
  else if pre.result = 4 then s.failBundle env h 3
  else s.staleResult

/-- PROBE_RESULT at the origi; a partition in PARTITION_ERROR or a reset takes nothing further up (R457, R519). -/
def execProbeResult (l : LinkId) (hdr : MsgHdr) (pre : ResultPrefix) (lists : List (List ProbeEntry)) (env : Env) (s : State) :
    Host.Outcome State Fault Refusal :=
  let s := s.at env.t
  if !s.carries l then .next s
  else
    let i := slotOfId hdr.queryId
    let precise := match s.bundle? i with | some b => b.precise | none => false
    let b := MsgBody.probeResult pre precise lists
    let s1 := s.arrived l hdr
    if hdr.dest ≠ s.boot.chipId then .next (s1.relay l hdr b)
    else
      let s2 := s1.oweResult l b
      match s2.liveLeash hdr 1 (fun _ => true) with
      | none => .next s2.staleResult
      | some (k, x) => if !s2.works (s2.kPart i) then .next s2 else if pre.result = 0 then .next (s2.probePart env i k x pre lists) else .next (s2.bundleResult env i k x pre)

/-! ## REDUCE_RESULT -/

/-- The request of a Leash carries keys of a query. -/
def Leash.carries (x : Leash) (j : Nat) : Bool := match x.body with | .reduceReq r => !(r.lists.getD j []).isEmpty | _ => false

/-- Queries whose last triple has merged while a request was still out yield their outputs (R225, R228). -/
def State.closeQueries (s : State) (env : Env) (h : Nat) : State :=
  match s.bundle? h with
  | none => s
  | some b =>
    let s1 := (List.range b.q).foldl (fun s j => match s.bundle? h with
      | none => s
      | some b => match b.accs.getD j none with
        | some t => if (b.outs.getD j none).isNone && !s.owing b j then s.output b j t else s
        | none => s) s
    s1.endWalk env h

/-- One part of a reduce result: its triples wait to merge; the last part frees the Leash. -/
def State.reducePart (s : State) (env : Env) (h k : Nat) (x : Leash) (pre : ResultPrefix) (ts : List (Fin 32 × Triple)) : State :=
  let al := BitVec.ofNat 32 (packN ((List.range 32).map (fun j => (1, if x.carries j then 1 else 0))))
  let s1 := s.updBundle h (fun b => { (b.joinStatus al pre (decide (x.reissues ≠ 0))) with triples := b.triples ++ ts })
  if pre.last then (s1.freeLeash h k).closeQueries env h else s1

/-- REDUCE_RESULT at the origin: the Leash is the one whose request carries the triples' queries; a partition in PARTITION_ERROR or a reset takes
nothing further up (R457, R519). -/
def execReduceResult (l : LinkId) (hdr : MsgHdr) (pre : ResultPrefix) (triples : List (Fin 32 × Triple)) (env : Env) (s : State) :
    Host.Outcome State Fault Refusal :=
  let s := s.at env.t
  if !s.carries l then .next s
  else
    let b := MsgBody.reduceResult pre triples
    let s1 := s.arrived l hdr
    if hdr.dest ≠ s.boot.chipId then .next (s1.relay l hdr b)
    else
      let s2 := s1.oweResult l b
      let i := slotOfId hdr.queryId
      match s2.liveLeash hdr 2 (fun x => triples.all (fun t => x.carries t.1.val)) with
      | none => .next s2.staleResult
      | some (k, x) => if !s2.works (s2.kPart i) then .next s2 else if pre.result = 0 then .next (s2.reducePart env i k x pre triples) else .next (s2.bundleResult env i k x pre)

/-! ## LEASE_EXTEND and LEASE_DEADLINE (R385) -/

/-- The live Leashes that a LEASE_EXTEND of an owner is for. -/
def State.extended (s : State) (h : MsgHdr) : List Nat :=
  s.kennel.slots.filterMap (fun e => match e.2.data with
    | .leash x => if x.live && decide (x.queryId = h.queryId) && decide (x.owner = h.src) && decide (x.subtree = h.subtree) then some e.1 else none
    | _ => none)

/-- A Leash is extended while EXTENDS is below EXTEND_MAX. -/
def State.extendLease (s : State) (k : Nat) : State :=
  match s.leash? k with
  | none => s
  | some x =>
    let p := s.kPart k
    if x.extends_.toNat < (s.part p).extendMax.force.toNat then (s.updLeash k (fun x => { x with extends_ := x.extends_ + 1 })).armLease k p else s

/-- LEASE_EXTEND from an owner. -/
def execLeaseExtend (l : LinkId) (hdr : MsgHdr) (t : Nat) (s : State) : Host.Outcome State Fault Refusal :=
  let s := s.at t
  if !s.carries l then .next s
  else
    let s1 := s.arrived l hdr
    if hdr.dest ≠ s.boot.chipId then .next (s1.relay l hdr .leaseExtend)
    else if s.kId (slotOfId hdr.queryId) ≠ hdr.queryId then .next s1
    else .next ((s1.extended hdr).foldl State.extendLease s1)

/-- LEASE_DEADLINE: the deadline of a live Leash fires and its owner is lost (R384, R386). -/
def execLeaseDeadline (slot : Nat) (env : Env) (s : State) : Host.Outcome State Fault Refusal :=
  let s := s.doIf (s.works (s.kPart slot) && s.timerFires (.lease slot) env.t) (·.steepWord env (.lease slot))
  if s.works (s.kPart slot) && s.timerFires (.lease slot) env.t then
    let s1 := s.fire (.lease slot) env.t
    match s1.leash? slot with
    | some x => if x.live then .next (s1.loseOwners env [slot]) else .next s1
    | none => .next s1
  else .next s

end Sys2Proof.Machine
end

