-- ==== Sys2Proof/Machine/Setter.lean ====
section
/-!
DEFINITION. Sys2Proof/Machine/Setter.lean: Setter cores and groups (R268 to R277, R298): registers, resources, the choice of a core, the
dispatcher queues, launches, and the row INVOKE.
-/

namespace Sys2Proof.Machine

/-! ## Registers (R276) -/

/-- A vector register of a lane; one that nothing has loaded holds a free value. -/
def Group.vreg (g : Group) (n : Nat) (l : Fin 32) : W32 :=
  match assocGet n g.vregs with
  | some v => v[l]
  | none => Config.launchReg ((g.free * 1024 + n) * 32 + l.val)

/-- A scalar register; one that nothing has loaded holds a free value. -/
def Group.sreg (g : Group) (n : Nat) : W32 :=
  match assocGet n g.sregs with
  | some w => w
  | none => Config.launchReg ((g.free * 1024 + 512 + n) * 32)

/-- A vector register written in the lanes where `f` gives a value. -/
def Group.setV (g : Group) (n : Nat) (f : Fin 32 → Option W32) : Group :=
  { g with vregs := assocPut n (Vector.ofFn (fun l => (f l).getD (g.vreg n l))) g.vregs }

/-- A scalar register written. -/
def Group.setS (g : Group) (n : Nat) (w : W32) : Group := { g with sregs := assocPut n w g.sregs }

/-- Active lanes, ascending. -/
def Group.lanes (g : Group) : List (Fin 32) := (List.finRange 32).filter (fun l => bit g.active l.val)

/-- Every lane of LAUNCH_MASK has exited: the group has ended (R284). -/
def Group.over (g : Group) : Bool := decide (g.exited &&& g.launch = g.launch)

/-- The registers v0 to v17 of a lane, as EXIT leaves them (R277, R278, R326). -/
def Group.returned (g : Group) (l : Fin 32) : List W32 := (List.range 18).map (fun n => g.vreg n l)

/-! ## Resources (R268, R273 to R275) -/

/-- Local part of a split in bytes (R73). -/
def localPart (split : BitVec 2) : Nat := (if split = 0 then 64 else if split = 1 then 192 else if split = 2 then 320 else 448) * 1024

/-- Local store of a block in bytes (R273). -/
def blockBytes (g : Prog) : Nat := cdiv (g.localBytes + g.groups * g.dspill * 8) 1024 * 1024

/-- A block fits one core under its split (R275). -/
def fitsCore (g : Prog) : Bool :=
  decide (g.groups ≤ 16) && decide (g.groups * g.vregs ≤ 2048) && decide (g.groups * g.sregs ≤ 4096) && decide (blockBytes g ≤ localPart g.split)

/-- Resident groups of a core. -/
def Core.resident (c : Core) : List Group := c.groups.toList.filterMap id

/-- Group slots that are free, rising. -/
def Core.freeSlots (c : Core) : List (Fin 16) := (List.finRange 16).filter (fun i => (c.groups[i]).isNone)

/-- A core holds no block: it may change its split (R274). -/
def Core.vacant (c : Core) : Bool := c.blocks.isEmpty && c.resident.isEmpty

/-- The blocks of a core that have not ended: they hold their group slots and registers (R274, R284). -/
def Core.running (c : Core) : List Block := c.blocks.filter (fun b => decide (b.ended < b.groups))

/-- What some blocks hold of a resource of which each group has `f`. -/
def blocksHold (l : List Block) (f : Prog → Nat) : Nat := (l.map (fun b => b.groups * f b.prog)).sum

/-- The resources of some further blocks of one split are all free at once on a core (R274): group slots, vector and scalar registers of
the blocks that have not ended, and the local store of every one. -/
def Core.room (c : Core) (split : BitVec 2) (l : List Block) : Bool :=
  let run := c.running ++ l.filter (fun b => decide (b.ended < b.groups))
  (c.vacant || decide (c.split = split))
    && decide (blocksHold run (fun _ => 1) ≤ 16) && decide (blocksHold run (·.vregs) ≤ 2048) && decide (blocksHold run (·.sregs) ≤ 4096)
    && decide (((c.blocks ++ l).map (·.bytes)).sum ≤ localPart split)

/-- A block before its launch. -/
def newBlock (id set rank cluster : Nat) (g : Prog) (pages : List Nat) : Block := ⟨id, set, rank, g.groups, 0, blockBytes g, cluster, g, pages, []⟩

/-- A block's resources are all free at once on a core (R274). -/
def Core.takes (c : Core) (g : Prog) : Bool := decide (g.groups ≤ c.freeSlots.length) && c.room g.split [newBlock 0 0 0 0 g []]

/-- The KiB of local store that a block takes: the lowest that no block of the core holds, those that saved blocks held last. -/
def Core.pickPages (c : Core) (saved : List Nat) (g : Prog) : List Nat :=
  let free := (List.range (localPart g.split / 1024)).filter (fun k => !c.blocks.any (fun b => b.pages.contains k))
  (free.filter (fun k => !saved.contains k) ++ free.filter (fun k => saved.contains k)).take (blockBytes g / 1024)

/-! ## Cores of a partition (R270, R298, R417, R515) -/

/-- The cores of a partition under a caddy that are in service. -/
def State.coreSet (s : State) (p : PartId) (caddy : BitVec 2) : List CoreId :=
  (List.finRange 16).filter (fun c => bit (s.caddyEnt caddy p).cores c.val && !bit s.arr.coresOut c.val)

/-- The first cores of the aligned sets of `n` cores that count as owned by the partition (R270, R469). -/
def State.coreSets (s : State) (p : PartId) (caddy : BitVec 2) (n : Nat) : List CoreId :=
  let l := s.coreSet p caddy
  let on := decide (n ≤ 1) || bit (s.caddyEnt caddy p).clusters (if n = 2 then 0 else 1)
  if on then l.filter (fun c => c.val % n == 0 && (List.range n).all (fun k => l.any (fun d => d.val == c.val + k))) else []

/-- Core number `n`. -/
def coreNo (n : Nat) : CoreId := (BitVec.ofNat 4 n).toFin

/-- Groups queued at a core's dispatcher. -/
def State.queued (s : State) (c : CoreId) : Nat := (s.core c).queue.length

/-- What a group shares with the groups of its program: partition, command, program slot (R287, R298). -/
def Group.key (g : Group) : PartId × Option CmdRef × Nat := (g.part, g.cmd, g.pslot)

/-- The core the Herder sends a group to (R298): the core that most recently launched one of its command and program slot while its queue
is below the imbalance threshold IMB_SET, else the one with the fewest queued groups. None where that queue is full. -/
def State.pickCore (s : State) (caddy : BitVec 2) (k : PartId × Option CmdRef × Nat) : Option CoreId :=
  let l := s.coreSet k.1 caddy
  let best := match leastBy s.queued l with | some c => if s.queued c < 8 then some c else none | none => none
  match s.setter.recent.find? (fun e => decide (e.1 = k)) with
  | some e => if l.contains e.2 && decide (s.queued e.2 < min 8 s.arr.imbSet.force.toNat) then some e.2 else best
  | none => best

/-- A group or block joins a dispatcher queue. -/
def State.enqueue (s : State) (c : CoreId) (w : Waiting) : State := s.setCore c { s.core c with queue := (s.core c).queue ++ [w] }

/-! ## Launch (R270, R274, R276, R287, R298) -/

/-- Two groups are of one command or call and program slot (R287). -/
def Group.sameProgram (a b : Group) : Bool :=
  decide (a.key = b.key) && (a.cmd.isSome || decide (a.block = b.block) || (match a.work with | .rays _ _ _ => true | _ => false))

/-- A group takes a slot of a core. A first group of its program on the core is a program boundary. -/
def State.placeGroup (s : State) (c : CoreId) (slot : Fin 16) (x : Group) : State :=
  let s2v := BitVec.ofNat 32 (packN [(4, x.part.val), (4, c.val), (4, slot.val), (1, if x.cls = 0 then 1 else 0)])
  let s3v := BitVec.ofNat 32 (packN [(5, x.rank), (5, x.inBlock)])
  let y := (({ x with state := .running, free := s.fresh, age := s.setter.next }).setS 2 s2v).setS 3 s3v
  let co := s.core c
  let l1 := if co.resident.any (fun r => r.sameProgram y) then co.l1 else []
  let s1 := s.setCore c { co with groups := co.groups.set slot (some y), l1 := l1 }
  { s1 with
    fresh := s.fresh + 1
    setter := { s1.setter with recent := (x.key, c) :: s1.setter.recent.filter (fun e => decide (e.1 ≠ x.key)) } }

/-- The groups of a block take the free slots of a core, lowest first. -/
def State.placeGroups (s : State) (c : CoreId) (block rank : Nat) : Nat → List Group → State
  | _, [] => s
  | j, x :: r => match (s.core c).freeSlots with
    | slot :: _ => (s.placeGroup c slot { x with block := block, rank := rank, inBlock := j }).placeGroups c block rank (j + 1) r
    | [] => s

/-- The blocks of a set are launched on consecutive cores. -/
def State.launchSet (s : State) (set home cluster : Nat) (per : Nat) : Nat → List Group → State
  | 0, _ => s
  | n + 1, gs => match gs with
    | [] => s
    | x :: _ =>
      let rank := cluster - (n + 1)
      let c := coreNo (home + rank)
      let id := s.setter.next + 1
      let co := s.core c
      let saved := (s.setter.savedBlocks.filter (fun e => decide (e.1 = c))).flatMap (fun e => e.2.pages)
      let b := { newBlock id set rank cluster x.prog (co.pickPages saved x.prog) with groups := per }
      let s1 := s.setCore c { co with blocks := co.blocks ++ [b], split := x.prog.split }
      let s2 := { s1 with setter := { s1.setter with next := id } }
      (s2.placeGroups c id rank 0 (gs.take per)).launchSet set home cluster per n (gs.drop per)

/-- Program of a queue entry. -/
def Waiting.prog? (w : Waiting) : Option Prog := w.groups.head?.map (·.prog)

/-- Class of a queue entry. -/
def Waiting.cls (w : Waiting) : BitVec 2 := match w.groups with | x :: _ => x.cls | [] => 0

/-- Partition of a queue entry. -/
def Waiting.part (w : Waiting) : PartId := match w.groups with | x :: _ => x.part | [] => 0

/-- A queue entry can be launched now: its partition issues work, its resources are free on every core of its set, and no DEADLINE service
holds its class back (R300, R515). -/
def State.launchable (s : State) (c : CoreId) (w : Waiting) : Bool :=
  match w.prog? with
  | none => false
  | some g => s.works w.part && (!s.firing w.part || decide (w.cls = 0))
      && (List.range w.cluster).all (fun k => !bit s.arr.coresOut (c.val + k) && (s.core (coreNo (c.val + k))).takes g)

/-- The entry a dispatcher launches next: DEADLINE first, then the oldest, with one issue in 16 to a lower class (R397, R398). -/
def State.nextLaunch (s : State) (c : CoreId) : Option Waiting :=
  match sortBy (fun a b => decide (a.cls.toNat ≤ b.cls.toNat)) ((s.core c).queue.filter (s.launchable c)) with
  | [] => none
  | w :: r =>
    let low := r.filter (fun x => decide (x.part = w.part) && decide (w.cls.toNat < x.cls.toNat))
    if s.herd.issues[(4 : Fin 8)][w.part] = 15 && !(s.firing w.part && decide (w.cls = 0)) then some (low.head?.getD w) else some w

/-- A core's dispatcher launches the entry that is next. -/
def State.dispatch (s : State) (core : CoreId) : State :=
  match s.nextLaunch core with
  | none => s
  | some w =>
    let co := s.core core
    let s1 := (s.setCore core { co with queue := co.queue.erase w }).countIssue w.part 4
    s1.launchSet (s1.setter.next + 1) core.val w.cluster (w.groups.length / max 1 w.cluster) w.cluster w.groups

/-! ## Groups of invocations (R180, R277) -/

/-- A group before its launch. -/
def newGroup (p : PartId) (cls caddy : BitVec 2) (gen : BitVec 6) (ovf : BitVec 2) (prog : Prog) (pslot : Nat) (work : GWork)
    (cmd : Option CmdRef) (tag launch : W32) : Group where
  part := p
  cls := cls
  caddy := caddy
  gen := gen
  ovf := ovf
  prog := prog
  pslot := pslot
  work := work
  cmd := cmd
  tag := tag
  launch := launch
  active := launch
  exited := 0
  pc := BitVec.ofNat 32 prog.entry
  state := .free
  kept := .free
  wait := .none
  vregs := []
  sregs := [(0, launch), (1, tag)]
  free := 0
  dstack := []
  spilled := 0
  spin := none
  bars := []
  arrived := []
  cluArr := []
  trap := 0
  stepping := false
  block := 0
  rank := 0
  inBlock := 0
  stores := 0
  results := []
  age := 0
  invs := []
  ovfs := 0

/-- The registers of R277 that a ray's lane receives, from v0. -/
def State.laneRegs (s : State) (i : Nat) : List W32 :=
  match s.ray? i with
  | none => []
  | some r =>
    let sp := s.raySpace r
    let base := fun (prim inst : W32) =>
      [sp.1[0], sp.1[1], sp.1[2], sp.2[0], sp.2[1], sp.2[2], r.tmin, r.tmax, prim, inst, fld r.payload 0 32, fld r.payload 32 32]
    match r.wait with
    | .invoke role _ prim t u v rec32 _ =>
      if role = 0 then base prim (s.instId r) ++ (List.range 8).map (fun k => fld rec32 (32 * k) 32)
      else if role = 1 then base prim (s.instId r) ++ [t, BitVec.ofNat 32 (packN [(16, u.toNat), (16, v.toNat)])]
      else base r.cand.prim r.cand.inst ++ [t, BitVec.ofNat 32 (packN [(16, u.toNat), (16, v.toNat)])]
    | _ => []

/-- Vector registers loaded lane by lane. -/
def Group.load (g : Group) (rows : List (List W32)) : Group :=
  let n := rows.foldl (fun a r => max a r.length) 0
  (List.range n).foldl (fun (g : Group) k => g.setV k (fun l => (rows[l.val]?).bind (fun r => r[k]?))) g

/-- The role, program and command of a waiting invocation. -/
def State.invokeProg (s : State) (v : Invoke) : Option (Nat × Prog × Option CmdRef) :=
  match s.ray? v.ray with
  | some r => match r.wait with
    | .invoke role slot _ _ _ _ _ _ => (assocGet slot (s.rayProgs r)).map (fun g => (role, g, r.cmd))
    | _ => none
  | none => none

/-- TAG of a command; zero for a foreign query. -/
def State.tagOf (s : State) (r : Option CmdRef) : W32 := match r.bind s.cmd? with | some c => tagField c.raw | none => 0

/-- The invocations that could share a group: of a partition, class, caddy and slot, in sets of one command and program, each set in the order of its
oldest. -/
def State.sets (s : State) : Nat → List Invoke → List (List Invoke)
  | 0, _ => []
  | _, [] => []
  | n + 1, v :: r => (v :: r.filter (fun w => decide (s.invokeProg w = s.invokeProg v)))
      :: s.sets n (r.filter (fun w => decide (s.invokeProg w ≠ s.invokeProg v)))

/-- The invocations of the next group of a partition, class, caddy and slot: of the first command's set that is full, or else of the oldest invocation's
set (R164, R180). -/
def State.gather (s : State) (p : PartId) (cls caddy : BitVec 2) (slot : Nat) : List Invoke :=
  let l := s.herd.invokes.filter (fun v => decide (v.part = p) && decide (v.cls = cls) && decide (v.caddy = caddy) && v.slot == slot)
  let top := min 32 s.herd.packMax.force.toNat
  let sets := s.sets l.length l
  ((sets.find? (fun x => decide (top ≤ x.length))).getD (sets.headD [])).take top

/-- The group of some invocations. -/
def State.rayGroup (s : State) (p : PartId) (cls caddy : BitVec 2) (slot : Nat) (l : List Invoke) : Option Group :=
  match l with
  | [] => none
  | v :: _ => match s.invokeProg v, s.ray? v.ray with
    | some (role, g, cmd), some r =>
      some ((newGroup p cls caddy r.gen r.ovf g slot (.rays role slot (l.map (·.ray))) cmd (s.tagOf cmd)
        (BitVec.ofNat 32 (2 ^ l.length - 1))).load (l.map (fun w => s.laneRegs w.ray)))
    | _, _ => none

/-- When PACK_WAIT of an invocation passes (R164, R180); DEADLINE work has none while its partition fires (R343). -/
def State.invokeAt (s : State) (v : Invoke) : Nat := if s.firing v.part && decide (v.cls = 0) then v.ready else v.ready + s.packWaitNs

/-- The PACK_WAIT timer of the invocations that could share a group runs from the oldest. -/
def State.armGroup (s : State) (p : PartId) (cls caddy : BitVec 2) (slot : Nat) : State :=
  let s1 := s.timerDel (.groupWait p cls caddy slot)
  match s1.herd.invokes.filter (fun v => decide (v.part = p) && decide (v.cls = cls) && decide (v.caddy = caddy) && v.slot == slot) with
  | [] => s1
  | v :: r => s1.timerAdd (.groupWait p cls caddy slot) (r.foldl (fun a x => min a (s1.invokeAt x)) (s1.invokeAt v))

/-- The order of R397 among invocations. -/
def State.invokeKey (s : State) (v : Invoke) : Nat × Nat × Nat := (v.cls.toNat, v.ready, (s.kId v.ray).toNat)

/-- Another invocation of the partition, that does not join the group `l`, stands ahead for the core `c`. -/
def State.invokeAhead (s : State) (c : CoreId) (v : Invoke) (l : List Invoke) : Bool :=
  s.herd.invokes.any (fun w => decide (w.part = v.part) && !l.contains w && keyLe (s.invokeKey w) (s.invokeKey v)
    && (match s.rayGroup w.part w.cls w.caddy w.slot [w] with | some x => decide (s.pickCore w.caddy x.key = some c) | none => false))

/-- A group of invocations is at one of the moments of R164: it is full, PACK_WAIT has passed, or with IDLE_ISSUE its core has a free group
slot, an empty queue, and no group ahead of it (R180). -/
def State.groupMoment (s : State) (c : CoreId) (l : List Invoke) (due : Bool) : Bool :=
  match l with
  | [] => false
  | v :: _ => decide (min 32 s.herd.packMax.force.toNat ≤ l.length) || due || (s.firing v.part && decide (v.cls = 0))
      || (s.herd.idleIssue.force && !(s.core c).freeSlots.isEmpty && decide (s.queued c = 0) && !s.invokeAhead c v l)

/-- Why a group is issued at its moment (R408). -/
def State.groupWhy (s : State) (l : List Invoke) (due : Bool) : Nat :=
  if min 32 s.herd.packMax.force.toNat ≤ l.length then 1 else if due then 2 else 3

/-- A group of invocations goes to a core, and the trace records its issue and its unit (R298, R408). -/
def State.sendGroup (s : State) (c : CoreId) (x : Group) (l : List Invoke) (why : Nat) : State :=
  let oldest := match l with | v :: _ => (s.kId v.ray).toNat | [] => 0
  let r : TraceRec := { TraceRec.of 1 4 x.part.val why with
    cls := x.cls.toNat, caddy := x.caddy.toNat, item := oldest, unit := c.val, kind := 1, count := l.length, depth := s.queued c }
  ((({ s with herd := { s.herd with invokes := s.herd.invokes.filter (fun v => !l.contains v) } }.enqueue c ⟨[x], 1⟩).record r).record
    { r with dec := 2, reason := 0 })

/-- INVOKE: the Herder gathers invocations that wait into a group and, at one of its moments, sends it to a Setter core (R180, R298). -/
def execInvoke (p : PartId) (cls : BitVec 2) (caddy : CaddyId) (slot : Fin 256) (t : Nat) (s : State) : Host.Outcome State Fault Refusal :=
  let s := s.at t
  let cd : BitVec 2 := BitVec.ofNat 2 caddy.val
  let l := s.gather p cls cd slot.val
  let due := s.timerFires (.groupWait p cls cd slot.val) t
  if !s.works p then .next s
  else match s.rayGroup p cls cd slot.val l with
    | none => .next (s.doIf due (·.fire (.groupWait p cls cd slot.val) t))
    | some x => match s.pickCore cd x.key with
      | none => .next s
      | some c =>
        if !s.groupMoment c l due then .next s
        else
          let s1 := s.doIf due (·.fire (.groupWait p cls cd slot.val) t)
          .next ((s1.sendGroup c x l (s.groupWhy l due)).armGroup p cls cd slot.val)

end Sys2Proof.Machine
end

