-- ==== Sys2Proof/Machine/Vis.lean ====
section
/-!
DEFINITION. Sys2Proof/Machine/Vis.lean: render targets, tiles and fragments (R314 to R319, R323 to R330): coverage, the fixed-function
fragment, the blend, ordered retirement.
-/

namespace Sys2Proof.Machine

/-! ## Primitive records (R317) -/

/-- A field of a record as a word. -/
def recW (v b : Nat) : W32 := BitVec.ofNat 32 (by_ v b 4)

/-- An FP16 field as FP32, exactly. -/
def half32 (w : Nat) : W32 := r32 .near (Fmt.fp16.decode w)

/-- Bytes of an input record. -/
def recBytes (tri : Bool) : Nat := if tri then 64 else 32

def recKey (tri : Bool) (v : Nat) : W32 := recW v (if tri then 36 else 16)
def recSkip (tri : Bool) (v : Nat) : Bool := Nat.testBit v (if tri then 320 else 208)

/-- The fields of a record that R319 wants finite. -/
def recFinite (tri : Bool) (v : Nat) : Bool :=
  if tri then (List.range 9).all (fun k => isFin32 (recW v (4 * k)))
  else [recW v 0, recW v 4, recW v 20].all isFin32 && [8, 10, 12, 14, 24].all (fun b => (Fmt.fp16.decode (by_ v b 2)).isFin)

/-- The closed box a primitive covers, as values: least and largest x and y (R318). -/
def recBox (tri : Bool) (v : Nat) : (Val × Val) × (Val × Val) :=
  if tri then
    let x := fun k => v32 (recW v (12 * k))
    let y := fun k => v32 (recW v (12 * k + 4))
    ((((x 0).min (x 1)).min (x 2), ((x 0).max (x 1)).max (x 2)), (((y 0).min (y 1)).min (y 2), ((y 0).max (y 1)).max (y 2)))
  else
    let r := Fmt.fp16.decode (by_ v 24 2)
    let mx := v32 (recW v 0)
    let my := v32 (recW v 4)
    ((mx.sub r, mx.add r), (my.sub r, my.add r))

/-- RADIUS is +0 or below. -/
def recFlat (tri : Bool) (v : Nat) : Bool := !tri && (Fmt.fp16.decode (by_ v 24 2)).le Val.zero

/-- The pixel area of a rectangle of tiles meets the closed box. -/
def rectMeets (b : (Val × Val) × (Val × Val)) (tx ty w h : Nat) : Bool :=
  b.1.1.le (Val.ofNat (16 * (tx + w))) && (Val.ofNat (16 * tx)).le b.1.2 && b.2.1.le (Val.ofNat (16 * (ty + h)))
    && (Val.ofNat (16 * ty)).le b.2.2

/-- A tile's pixel area meets the closed box. -/
def boxMeets (b : (Val × Val) × (Val × Val)) (tx ty : Nat) : Bool := rectMeets b tx ty 1 1

/-- A box of finite numbers. -/
def boxFinite (b : (Val × Val) × (Val × Val)) : Bool := b.1.1.isFin && b.1.2.isFin && b.2.1.isFin && b.2.2.isFin

/-- n + 1/2 as a value. -/
def centre (n : Nat) : Val := .fin false (2 * n + 1) (-1)

/-- A pixel's centre lies in the closed box. -/
def boxHolds (b : (Val × Val) × (Val × Val)) (x y : Nat) : Bool :=
  b.1.1.le (centre x) && (centre x).le b.1.2 && b.2.1.le (centre y) && (centre y).le b.2.2

/-! ## The Gaussian's fragment (R324) -/

def alphaMax : W32 := 0x3F7D70A4
def alphaMin : W32 := 0x3B808081
def tMin : W32 := 0x38D1B717
def fHalf : W32 := 0x3F000000
def fOne : W32 := 0x3F800000

/-- What R324 gives a pixel: alpha where there is a fragment, whether it was clamped, exp(power), dx, dy, and the invalid operations. -/
structure GEval where
  frag  : Option W32
  clamp : Bool
  ex    : W32
  dx    : W32
  dy    : W32
  inv   : Nat
deriving DecidableEq, Repr

/-- How many of some results are invalid, and how many overflowed. -/
def invCount (l : List Fl) : Nat := (l.filter (·.inv)).length
def ovfCount (l : List Fl) : Nat := (l.filter (·.ovf)).length

/-- The difference with its flags. -/
def flSub (o : Ovf) (a b : W32) : Fl := flAdd o a (b ^^^ 0x80000000)

/-- The clamp and the test of an alpha: NaN and values below alpha_min give no fragment (R324, R326, R330). -/
def alphaFrag (a : W32) : Option W32 × Bool :=
  let c := flt alphaMax a
  let m := if c then alphaMax else a
  (if isNan32 m || flt m alphaMin then none else some m, c)

/-- The evaluation of a Gaussian at a pixel. -/
def gaussAt (v x y : Nat) : GEval :=
  let q := Ovf.quiet
  let a := half32 (by_ v 8 2)
  let b := half32 (by_ v 10 2)
  let c := half32 (by_ v 12 2)
  let dx := flSub q (r32 .near (centre x)) (recW v 0)
  let dy := flSub q (r32 .near (centre y)) (recW v 4)
  let ax := flMul q a dx.v
  let axx := flMul q ax.v dx.v
  let cy := flMul q c dy.v
  let cyy := flMul q cy.v dy.v
  let su := flAdd q axx.v cyy.v
  let hs := flMul q 0xBF000000 su.v
  let bx := flMul q b dx.v
  let bxy := flMul q bx.v dy.v
  let pw := flSub q hs.v bxy.v
  let inv := invCount [dx, dy, ax, axx, cy, cyy, su, hs, bx, bxy, pw]
  if flt 0 pw.v then ⟨none, false, 0, dx.v, dy.v, inv⟩
  else
    let ex := expOf pw.v
    let al := flMul q (half32 (by_ v 14 2)) ex
    let f := alphaFrag al.v
    ⟨f.1, f.2, ex, dx.v, dy.v, inv + invCount [al]⟩

/-- One channel of the blend: col + feat × alpha × t. A NaN feature is carried
and not counted (DEDUCED from R330, log 211). -/
def blendChan (o : Ovf) (col feat alpha t : W32) : W32 × List Fl :=
  let p := flMul o feat alpha
  let q := flMul o p.v t
  let r := flAdd o col q.v
  (r.v, [p, q, r])

/-- The blend of a Gaussian fragment (R324, from its blend step on). -/
def blendPixel (o : Ovf) (feat : List W32) (alpha vdepth seq : W32) (x : Pixel) : Pixel × List Fl :=
  let cs := x.chans.zipWith (fun col f => blendChan o col f alpha x.trans) feat
  let om := flSub o fOne alpha
  let tn := flMul o x.trans om.v
  ({ chans := cs.map (·.1), depth := if flt fHalf x.trans && fle tn.v fHalf then vdepth else x.depth, trans := tn.v, last := seq,
     dead := flt tn.v tMin }, cs.flatMap (·.2) ++ [om, tn])

/-! ## The triangle's fragment (R325) -/

/-- The FP32 edge function of a → b at a point, every operation rounded to nearest. -/
def edgeFrom (ax ay bx by' px py : W32) : W32 :=
  fsub .near (fmul .near (fsub .near bx ax) (fsub .near py ay)) (fmul .near (fsub .near by' ay) (fsub .near px ax))

/-- The edge function of a → b: an edge is evaluated from its lesser end, so that its two directions give opposite values (R325). -/
def edgeAt (ax ay bx by' px py : W32) : Val :=
  if flt ax bx || (fle ax bx && fle ay by') then v32 (edgeFrom ax ay bx by' px py) else (v32 (edgeFrom bx by' ax ay px py)).neg

/-- Twice the signed area of a triangle, exactly. -/
def areaOf (ax ay bx by' cx cy : W32) : Val :=
  let d := fun a b => (v32 a).sub (v32 b)
  ((d bx ax).mul (d cy ay)).sub ((d by' ay).mul (d cx ax))

/-- A top edge or a left edge of a triangle whose area is positive. -/
def topLeft (ax ay bx by' : W32) : Bool := flt by' ay || (!flt ay by' && !flt by' ay && flt ax bx)

/-- A pixel of a triangle: the barycentrics of V1 and V2 and the interpolated z; none where its centre is not covered. -/
def triAt (v x y : Nat) : Option (W32 × W32 × W32) :=
  let px := r32 .near (centre x)
  let py := r32 .near (centre y)
  let c := fun k j => recW v (12 * k + 4 * j)
  let e := fun i j => edgeAt (c i 0) (c i 1) (c j 0) (c j 1) px py
  let area := areaOf (c 0 0) (c 0 1) (c 1 0) (c 1 1) (c 2 0) (c 2 1)
  if area.isZero || !area.isFin then none
  else
    let pos := Val.zero.lt area
    let one := fun i j =>
      let w := if pos then e i j else (e j i)
      let tl := if pos then topLeft (c i 0) (c i 1) (c j 0) (c j 1) else topLeft (c j 0) (c j 1) (c i 0) (c i 1)
      Val.zero.lt w || (w.isZero && tl)
    if one 0 1 && one 1 2 && one 2 0 then
      let b1 := e 2 0
      let b2 := e 0 1
      let z := fun k => v32 (c k 2)
      let num := ((e 1 2).mul (z 0)).add ((b1.mul (z 1)).add (b2.mul (z 2)))
      let q := fun (n : Val) => BitVec.ofNat 32 (Fmt.fp32.div .near .quiet n area).1
      some (q b1, q b2, q num)
    else none

/-! ## Tiles (R323, R326, R327, R329) -/

/-- A pixel at the start of a cleared tile. -/
def Pixel.clear (c : Nat) : Pixel := ⟨List.replicate c 0, f32Inf, fOne, 0xFFFFFFFF, false⟩

/-- The 8 × 4 block of a pixel, and its lane. -/
def blockOf (p : Nat) : Fin 8 := (BitVec.ofNat 3 (p / 64 * 2 + p % 16 / 8)).toFin
def laneOf (p : Nat) : Nat := p / 16 % 4 * 8 + p % 8
/-- The pixel of a lane of a block. -/
def lanePixel (b : Fin 8) (l : Nat) : Nat := 16 * (4 * (b.val / 2) + l / 8) + 8 * (b.val % 2) + l % 8

/-- The four pixels of a 2 × 2 quad. -/
def quadPixels (q : Nat) : List Nat := let p := 32 * (q / 8) + 2 * (q % 8); [p, p + 1, p + 16, p + 17]

/-- The tile's pixels changed, each by its place. -/
def Tile.mapPixels (t : Tile) (f : Nat → Pixel → Pixel) : Tile := { t with pixels := Vector.ofFn (fun (i : Fin 256) => f i.val t.pixels[i]) }

/-- Smallest NEXT of a tile. -/
def Tile.least (t : Tile) : Nat := t.nexts.foldl min t.list.length

/-- Every quad has retired the whole list. -/
def Tile.done (t : Tile) : Bool := t.nexts.all (fun n => decide (t.list.length ≤ n))

/-- What the blends of a tile report: invalid operations and overflows (R330). -/
structure TileOut where
  tile : Tile
  invs : List FpInv
  ovfs : Nat
deriving DecidableEq, Repr

/-- What one fragment's blend reports. -/
def reportOf (seq : W32) (l : List Fl) : List FpInv := List.replicate (invCount l) ⟨fsOther, 0, 0, seq.toNat⟩

/-- A pixel of the tile set. -/
def Tile.setPixel (t : Tile) (p : Nat) (x : Pixel) : Tile := t.mapPixels (fun i y => if i = p then x else y)

/-- Pixel p of the tile. -/
def Tile.px (t : Tile) (p : Nat) : Pixel := t.pixels[(BitVec.ofNat 8 p).toFin]

/-- A program's channels: FP16 pairs of v1 to v16 as FP32. -/
def progChans (c : Nat) (regs : List W32) : List W32 :=
  (List.range c).map (fun k => half32 (fldN (regs.getD (1 + k / 2) 0) (16 * (k % 2)) 16))

/-- The fragment that a lane of a program returned, blended or tested at its pixel (R326). -/
def progPixel (tri : Bool) (o : Ovf) (c rec : Nat) (seq : W32) (xy : Nat × Nat) (regs : List W32) (x : Pixel) : Pixel × List Fl :=
  if tri then
    match triAt rec xy.1 xy.2 with
    | some (_, _, z) =>
      if bit (regs.getD 0 0) 0 && flt z x.depth then ({ x with chans := progChans c regs, depth := z, last := seq }, []) else (x, [])
    | none => (x, [])
  else if x.dead then (x, [])
  else match (alphaFrag (regs.getD 0 0)).1 with
    | some a => blendPixel o (progChans c regs) a (regs.getD 17 0) seq x
    | none => (x, [])

/-- What a tile's retirement needs: its target, whether its primitives are triangles, the overflow mode, SEQ_BASE. -/
structure TileEnv where
  target : Desc
  tri    : Bool
  o      : Ovf
  seq0   : Nat
deriving DecidableEq, Repr

/-- Sequence number of an input index (R317). -/
def TileEnv.seqOf (e : TileEnv) (i : Nat) : W32 := BitVec.ofNat 32 (e.seq0 + i)

/-- The retirement of a position at a quad: the lanes' fragments in turn. -/
def retireAt (e : TileEnv) (q pos : Nat) (f : Frag) (rs : List (Nat × List W32)) (w : TileOut) : TileOut :=
  let idx := (w.tile.list.getD pos (0, 0)).2
  (quadPixels q).foldl (fun (w : TileOut) p =>
    match (if bit f.mask (laneOf p) then assocGet (laneOf p) rs else none) with
    | none => w
    | some regs =>
      let r := progPixel e.tri e.o e.target.chans f.prim.toNat (e.seqOf idx) (e.target.pixel w.tile.tile p) regs (w.tile.px p)
      ⟨w.tile.setPixel p r.1, w.invs ++ reportOf (e.seqOf idx) r.2, w.ovfs + ovfCount r.2⟩) w

/-- A quad retires positions in order while it can (R327); in Gaussian mode a quad whose pixels have all terminated skips the rest (R329). -/
def retireQuad (e : TileEnv) (q : Nat) : Nat → TileOut → TileOut
  | 0, w => w
  | n + 1, w =>
    let t := w.tile
    let pos := t.nexts.getD q 0
    let go := fun (w : TileOut) k => { w with tile := { w.tile with nexts := w.tile.nexts.set q k } }
    if t.list.length ≤ pos then w
    else if !e.tri && (quadPixels q).all (fun p => !e.target.inside t.tile p || (t.px p).dead) then go w t.list.length
    else if t.issued ≤ pos then w
    else match t.frags.find? (fun f => f.pos == pos && decide (f.block = blockOf ((quadPixels q).headD 0))) with
      | none => retireQuad e q n (go w (pos + 1))
      | some f =>
        if (quadPixels q).all (fun p => !bit f.mask (laneOf p)) then retireQuad e q n (go w (pos + 1))
        else match f.result with
          | none => w
          | some rs => retireQuad e q n (go (retireAt e q pos f rs w) (pos + 1))

/-- Every quad of a tile retires what it can; records no quad of their block waits for any more are dropped. -/
def retireTile (e : TileEnv) (t : Tile) : TileOut :=
  let w := (List.range 64).foldl (fun w q => retireQuad e q (t.list.length + 1) w) ⟨t, [], 0⟩
  let keep := fun (f : Frag) => (List.range 64).any (fun q =>
    decide (blockOf ((quadPixels q).headD 0) = f.block) && decide (w.tile.nexts.getD q 0 ≤ f.pos))
  { w with tile := { w.tile with frags := w.tile.frags.filter keep } }

/-- The tile in a slot of a unit. -/
def State.tile? (s : State) (u : Fin 64) (k : Fin 4) : Option Tile := (s.vis.units[u])[k]

def State.setTile (s : State) (u : Fin 64) (k : Fin 4) (t : Option Tile) : State :=
  { s with vis := { s.vis with units := s.vis.units.set u ((s.vis.units[u]).set k t) } }

/-- The pass of a command. -/
def State.pass? (s : State) (r : CmdRef) : Option Pass := s.vis.passes.find? (fun v => decide (v.cmd = r))

def State.updPass (s : State) (r : CmdRef) (f : Pass → Pass) : State :=
  { s with vis := { s.vis with passes := s.vis.passes.map (fun v => if v.cmd = r then f v else v) } }

/-- A bit of a tile's status byte (R316) set in its slot. -/
def Tile.mark (t : Tile) (b : Nat) : Tile := { t with status := setBit t.status b true }

/-- Input record i of a SPLAT command. -/
def State.splatRec (s : State) (p : PartId) (raw : Slot64) (i : Nat) : Acc Nat :=
  let n := recBytes (bit raw 321)
  s.vnum p (rb raw 8 8 + n * i) n

/-- What a tile of a pass reads. -/
def tileEnv (v : Pass) (c : Cmd) : TileEnv := ⟨v.target, bit c.raw 321, ovfOf c.ovf, rb c.raw 20 4⟩

/-- The tile with what its retirement reports: INVALID of its status byte, the flags and counts of its partition (R330). -/
def State.putTile (s : State) (u : Fin 64) (k : Fin 4) (p : PartId) (w : TileOut) : State :=
  let t := if w.invs.isEmpty then w.tile else w.tile.mark 0
  ((s.setTile u k (some t)).fpInvalids p w.invs).fpOverflows p w.ovfs

/-- The quad of a pixel of a tile. -/
def quadOf (p : Nat) : Nat := 8 * (p / 32) + p % 16 / 2

/-- Fragments of a list position's block that have not retired. -/
def Tile.unretired (t : Tile) (f : Frag) : Nat := ((bitsOf f.mask 32).filter (fun l => decide (t.nexts.getD (quadOf (lanePixel f.block l)) 0 ≤ f.pos))).length

/-- Fragments in a slot's wait buffer: those that have returned and have not retired (R327, R328). -/
def Tile.waiting (t : Tile) : Nat := ((t.frags.filter (fun f => f.result.isSome)).map t.unretired).sum

/-- The tile with what a fragment group returned, retired as far as it goes. -/
def Tile.withResult (t : Tile) (e : TileEnv) (pos : Nat) (block : Fin 8) (rs : List (Nat × List W32)) : TileOut :=
  retireTile e { t with frags := t.frags.map (fun f => if f.pos = pos && f.block = block then { f with result := some rs } else f) }

/-- What a fragment group returns can be accepted whole (R328): it retires at once, or the slot's wait buffer has room for those of its fragments that
do not. -/
def Tile.accepts (t : Tile) (e : TileEnv) (pos : Nat) (block : Fin 8) (rs : List (Nat × List W32)) : Bool :=
  let w := (t.withResult e pos block rs).tile
  (w.frags.filter (fun f => f.pos == pos && decide (f.block = block))).all (fun f => w.unretired f == 0) || decide (w.waiting ≤ Config.waitRoom)

/-- The tile with those fragments of a group that retire at once; the group keeps the others (R328). -/
def Tile.withNow (t : Tile) (e : TileEnv) (pos : Nat) (block : Fin 8) (rs : List (Nat × List W32)) : TileOut :=
  let w := t.withResult e pos block rs
  { w with tile := { w.tile with frags := w.tile.frags.map (fun f => if f.pos = pos && f.block = block then { f with result := none } else f) } }

/-- Some fragment of a group retires at once. -/
def Tile.someNow (t : Tile) (e : TileEnv) (pos : Nat) (block : Fin 8) (rs : List (Nat × List W32)) : Bool :=
  let left := fun (t : Tile) => ((t.frags.filter (fun f => f.pos == pos && decide (f.block = block))).map t.unretired).sum
  decide (left (t.withNow e pos block rs).tile < left t)

/-- The tile that a fragment group works for, with its pass and command. -/
def State.fragTile (s : State) (u : Fin 64) (k : Fin 4) (cmd : Option CmdRef) (serial : Nat) : Option (Tile × Pass × Cmd) :=
  match s.tile? u k with
  | none => none
  | some t =>
    if cmd ≠ some t.cmd || t.serial ≠ serial then none
    else match s.pass? t.cmd, s.cmd? t.cmd with
      | some v, some c => some (t, v, c)
      | _, _ => none

/-- A fragment group has ended: what its lanes returned reaches its tile, or the tile is marked TRAP (R326, R327, R330). -/
def State.fragDone (s : State) (u : Fin 64) (k : Fin 4) (cmd : Option CmdRef) (serial pos : Nat) (block : Fin 8) (rs : Option (List (Nat × List W32))) : State :=
  match s.fragTile u k cmd serial with
  | none => s
  | some (t, v, c) =>
    let t1 := if rs.isNone then t.mark 4 else t
    s.putTile u k v.part (t1.withResult (tileEnv v c) pos block (rs.getD []))

/-- Those fragments of a group at EXIT that retire at once reach its tile (R328). -/
def State.fragNow (s : State) (u : Fin 64) (k : Fin 4) (cmd : Option CmdRef) (serial pos : Nat) (block : Fin 8) (rs : List (Nat × List W32)) : State :=
  match s.fragTile u k cmd serial with
  | none => s
  | some (t, v, c) => s.putTile u k v.part (t.withNow (tileEnv v c) pos block rs)

/-- An invalid operation of a fragment program marks its tile INVALID (R330). -/
def State.markFrag (s : State) (u : Fin 64) (k : Fin 4) (cmd : Option CmdRef) (serial : Nat) : State :=
  match s.fragTile u k cmd serial with
  | none => s
  | some (t, _, _) => s.setTile u k (some (t.mark 0))

end Sys2Proof.Machine
end

