-- ==== Sys2Proof/Machine/Group.lean ====
section
/-!
DEFINITION. Sys2Proof/Machine/Group.lean: the life of a Setter group after its launch: barriers, traps, ends (R283, R284, R288, R289, R296,
R303 to R305), calls (R278, R279), and the rows BIND_PROGRAM, CALL_MESSAGE, EXIT, BRK, MEMORY_WRITE_ACK and FABRIC_CREDIT.
-/

namespace Sys2Proof.Machine

/-! ## Call replies (R10, R278) -/

/-- A call reply goes out against 9 words of vector credit. -/
def State.sendReply (s : State) (m : PortMsg) : Option State :=
  match m with
  | .reply port group _ _ _ _ =>
    if s.portLive port && decide (9 ≤ s.creditOf port .vector group) then some ((s.drawCredit port .vector group 9).sendPort m) else none
  | _ => none

/-- The replies that wait go out in order, each group's behind its own only. -/
def State.sendReplies (s : State) : List PortMsg → State
  | [] => s
  | m :: r => match s.sendReply m with
    | some s1 => s1.sendReplies r
    | none =>
      let s1 := s.sendReplies r
      { s1 with setter := { s1.setter with replies := m :: s1.setter.replies } }

/-- Waiting replies are tried again. -/
def State.flushReplies (s : State) : State :=
  ({ s with setter := { s.setter with replies := [] } }).sendReplies s.setter.replies

/-- A call is answered: its STATUS and the returned records (R278). A DEST port that the partition does not own gets no word (R12, R40). -/
def State.reply (s : State) (p : PartId) (hdr : Slot64) (status : Byte) (args : List (BitVec 128)) : State :=
  let dest := rb hdr 2 2
  let port : PortId := (BitVec.ofNat 4 (dest / 4096)).toFin
  if s.portOwner port = some p then
    ({ s with setter := { s.setter with replies := s.setter.replies ++
      [PortMsg.reply port (BitVec.ofNat 12 dest) (fld hdr 32 32) (fld hdr 8 8) status args] } }).flushReplies
  else s

/-! ## Rays of a group (R101, R182) -/

/-- The rays a group's lanes serve. -/
def Group.rays (g : Group) : List Nat := match g.work with | .rays _ _ l => l | _ => []

/-- RSTATE of a group's rays: HALT_WAIT while the group is halted, INVOKE_WAIT otherwise. -/
def State.rayHalt (s : State) (x : Group) (halt : Bool) : State :=
  x.rays.foldl (fun s i => s.updRay i (fun r => match r.wait with
    | .invoke _ _ _ _ _ _ _ _ => { r with rstate := if halt then .haltWait else .invokeWait }
    | _ => r)) s

/-! ## Barriers (R296, R297) -/

/-- Arrivals of a group at a barrier. -/
def arrivals (l : List (Nat × Nat)) (b : Nat) : Nat := (assocGet b l).getD 0

/-- Every resident or saved group. -/
def State.liveGroups (s : State) : List Group := s.setter.cores.toList.flatMap Core.resident ++ s.setter.saved.map (·.2)

/-- Every block that is held, on a core or saved. -/
def State.blocksAll (s : State) : List Block := s.setter.cores.toList.flatMap (·.blocks) ++ s.setter.savedBlocks.map (·.2)

/-- The cluster set of a block. -/
def State.setOf (s : State) (block : Nat) : Nat := match s.blocksAll.find? (fun b => b.id == block) with | some b => b.set | none => 0

/-- A wait of a group ends: a WAITING group runs again, one that was stepping is halted again (R296, R306). -/
def Group.wake (g : Group) : Group :=
  let after : GState := if g.stepping then .halted else .running
  { g with wait := .none, stepping := g.stepping && decide (g.state ≠ .waiting),
           state := if g.state = .waiting then after else g.state, kept := if g.kept = .waiting then after else g.kept }

/-- The groups of a block that wait at a barrier where every group of the block has arrived or ended go on; likewise for the cluster set. -/
def State.barriers (s : State) (block : Nat) : State :=
  let set := s.setOf block
  let live := s.liveGroups.filter (fun g => !g.over)
  let mine := live.filter (fun g => g.block == block)
  let peers := live.filter (fun g => s.setOf g.block == set)
  let met : Group → Bool := fun g => match g.wait with
    | .bar b => g.block == block && mine.all (fun h => decide (arrivals g.arrived b.val ≤ arrivals h.arrived b.val))
    | .barClu b => s.setOf g.block == set && peers.all (fun h => decide (arrivals g.cluArr b.val ≤ arrivals h.cluArr b.val))
    | _ => false
  let halted := live.filter (fun g => met g && g.stepping && decide (g.state = .waiting))
  halted.foldl (fun (s : State) (g : Group) => s.rayHalt g true) (s.mapGroups (fun (g : Group) => if met g then g.wake else g))

/-! ## Local store and the divergence stack (R273, R283) -/

/-- The blocks of every core, changed by number. -/
def State.updBlock (s : State) (id : Nat) (f : Block → Block) : State :=
  { s with setter := { s.setter with
      cores := s.setter.cores.map (fun (c : Core) => { c with blocks := c.blocks.map (fun b => if b.id = id then f b else b) }) } }

/-- `n` bytes of a block's local store as a number. -/
def State.locNum (s : State) (id off n : Nat) : Nat :=
  match s.blocksAll.find? (fun b => b.id == id) with
  | some b => b.store.num off n
  | none => 0

/-- `n` bytes of a block's local store written. -/
def State.locPut (s : State) (id off n v : Nat) : State := s.updBlock id (fun x => { x with store := x.store.write off (leBytes n v) })

/-- Where entry `n` of a group's spill area lies in its block's local store: the areas of the block's groups stand in order at the top. -/
def Group.spillOff (x : Group) (n : Nat) : Nat :=
  blockBytes x.prog - 8 * x.prog.groups * x.prog.dspill + 8 * (x.inBlock * x.prog.dspill + n)

/-- A divergence-stack entry as 8 bytes: mask, reconvergence point. -/
def stackWord (e : W32 × W32) : Nat := e.1.toNat + 2 ^ 32 * e.2.toNat

/-- The lanes of `m` leave every mask of a group's spill area. -/
def State.dropSpilled (s : State) (x : Group) (m : W32) : State :=
  (List.range x.spilled).foldl (fun s n =>
    s.locPut x.block (x.spillOff n) 4 (BitVec.ofNat 32 (s.locNum x.block (x.spillOff n) 4) &&& ~~~m).toNat) s

/-! ## Stores that others do not see yet (R288) -/

/-- A byte is acknowledged and its group has ended or fenced. -/
def PendStore.go (e : PendStore) : Bool := e.acked && e.loose

/-- The bytes that go on waiting, oldest first: neither those that reach memory, nor a byte older than one that does, at its address and of its
core. -/
def stillPending : List PendStore → List PendStore
  | [] => []
  | e :: r => if e.go || r.any (fun f => f.go && decide (f.core = e.core) && f.pa == e.pa) then stillPending r else e :: stillPending r

/-- Bytes that are acknowledged and whose group has ended or fenced reach memory, in order. -/
def State.publish (s : State) : State :=
  (s.setter.pend.filter (·.go)).foldl (fun s e => s.poke e.pa [e.value])
    { s with setter := { s.setter with pend := stillPending s.setter.pend } }

/-- Bytes that wait changed. -/
def State.mapPend (s : State) (f : PendStore → PendStore) : State := { s with setter := { s.setter with pend := s.setter.pend.map f } }

/-- A write is acknowledged. -/
def State.ackPend (s : State) (num : Nat) : State := (s.mapPend (fun e => if e.num = num then { e with acked := true } else e)).publish

/-- A group has ended, or its fence has completed: its acknowledged stores are visible to all. -/
def State.loosen (s : State) (block inBlock : Nat) : State :=
  (s.mapPend (fun e => if e.block = block && e.inBlock = inBlock then { e with loose := true } else e)).publish

/-! ## The end of a group (R284, R287, R289, R304, R305) -/

/-- What a group has found in its arithmetic is reported with its return, with what its verdicts find (R259); a fragment group's tile is marked INVALID (R330). -/
def State.reportGroup (s : State) (x : Group) : State :=
  let s1 := (s.pushInvs x.invs).fpOverflows x.part x.ovfs
  match x.work with
  | .frag u k serial _ _ => s1.doIf (!x.invs.isEmpty) (·.markFrag u k x.cmd serial)
  | _ => s1

/-- The blocks of a cluster set whose groups have all ended give up their local store. -/
def State.freeSets (s : State) : State :=
  let all := s.blocksAll
  let done := fun (b : Block) => (all.filter (fun c => c.set == b.set)).all (fun c => decide (c.groups ≤ c.ended))
  { s with setter := { s.setter with
      cores := s.setter.cores.map (fun (c : Core) => { c with blocks := c.blocks.filter (fun b => !done b) })
      savedBlocks := s.setter.savedBlocks.filter (fun e => !done e.2) } }

/-- One more group of a block has ended. -/
def State.blockEnded (s : State) (block : Nat) : State :=
  let f := fun (b : Block) => if b.id = block then { b with ended := b.ended + 1 } else b
  ({ s with setter := { s.setter with
      cores := s.setter.cores.map (fun (c : Core) => { c with blocks := c.blocks.map f })
      savedBlocks := s.setter.savedBlocks.map (fun (e : CoreId × Block) => (e.1, f e.2)) } } : State).freeSets

/-- No write of a group is waited on any more. -/
def State.dropWrites (s : State) (g : GroupRef) : State :=
  { s with ret := { s.ret with writes := s.ret.writes.map (fun w => if w.who = .group g.core g.slot then { w with who := .nobody } else w) } }

/-- The scorer instruction that a group waits for is given up. -/
def State.dropScorer (s : State) (x : Group) : State :=
  match x.wait with
  | .score _ _ _ _ _ => s.herdDrop (fun i => match i with | .group b j => b == x.block && j == x.inBlock | _ => false)
  | _ => s

/-- A group of fragments. -/
def Group.isFrag (x : Group) : Bool := match x.work with | .frag _ _ _ _ _ => true | _ => false

/-- A resident group leaves its slot: its reports are made, its stores become visible once acknowledged, its block counts it as ended,
barriers go on without it; the end of the last group of its program on the core is a program boundary.
A fragment group reports before its fragments blend (R259). -/
def State.leaveSlot (s : State) (g : GroupRef) (x : Group) : State :=
  let s0 := ((s.reportGroup x).loosen x.block x.inBlock).dropScorer x
  let s1 := ((s0.dropWrites g).unpark (fun w => decide (w = Parked.group g.core g.slot))).setGroup g none
  let co := s1.core g.core
  let s2 := if co.resident.any (fun r => r.sameProgram x) then s1 else s1.setCore g.core { co with l1 := [] }
  ((s2.blockEnded x.block).barriers x.block).doIf x.isFrag (·.flushInvs x.part)

/-- What a lane returned, as a verdict for its ray (R181, R277). -/
def State.laneVerdict (s : State) (role i : Nat) (r : List W32) : State :=
  let v1 := r.getD 1 0
  s.verdict i ((r.getD 0 0).toNat % 256) v1 (if role = 2 && bit v1 0 then some ((r.getD 11 0) ++ (r.getD 10 0)) else none)

/-- An ended group hands over its results: verdicts, the call's reply, its fragments (R277, R278, R326). -/
def State.giveResults (s : State) (x : Group) : State :=
  match x.work with
  | .rays role _ lanes =>
    (List.range lanes.length).foldl (fun s l => match assocGet l x.results with
      | some r => s.laneVerdict role (lanes.getD l 262144) r
      | none => s) s
  | .call _ _ hdr _ =>
    s.reply x.part hdr 0 ((List.range 32).map (fun l => match assocGet l x.results with
      | some r => BitVec.ofNat 128 (packN [(32, (r.getD 0 0).toNat), (32, (r.getD 1 0).toNat), (32, (r.getD 2 0).toNat), (32, (r.getD 3 0).toNat)])
      | none => 0))
  | .frag u k serial pos block => s.fragDone u k x.cmd serial pos block (some x.results)

/-- A group whose lanes have all exited and whose stores are visible is over (R284, R289). -/
def State.finishGroup (s : State) (g : GroupRef) (x : Group) : State := ((s.leaveSlot g x).giveResults x).flushInvs x.part

/-- The results of a group whose lanes have all exited can be taken: a fragment group needs a place at its tile (R328). -/
def State.acceptable (s : State) (x : Group) : Bool :=
  match x.work with
  | .frag u k serial pos block => match s.fragTile u k x.cmd serial with
    | some (t, v, c) => t.accepts (tileEnv v c) pos block x.results
    | none => true
  | _ => true

/-- Some fragments of a group retire at once though the group cannot be taken whole (R328). -/
def State.partly (s : State) (x : Group) : Bool :=
  match x.work with
  | .frag u k serial pos block => match s.fragTile u k x.cmd serial with
    | some (t, v, c) => t.someNow (tileEnv v c) pos block x.results
    | none => false
  | _ => false

/-- Those fragments are taken, and the group goes on waiting in its slot. -/
def State.acceptSome (s : State) (x : Group) : State :=
  match x.work with
  | .frag u k serial pos block => s.fragNow u k x.cmd serial pos block x.results
  | _ => s

/-- Fragment groups that waited at EXIT are over once their tiles accept their results, oldest slot first; of one that cannot be taken whole, the
fragments that retire at once are taken (R328). -/
def State.acceptMore (s : State) : Nat → State
  | 0 => s
  | n + 1 => match s.residents.find? (fun e => decide (e.2.wait = .accept) && (s.acceptable e.2 || s.partly e.2)) with
    | some e => (if s.acceptable e.2 then s.finishGroup e.1 e.2 else s.acceptSome e.2).acceptMore n
    | none => s

/-- What a group without results leaves: its rays end with a code, its call gets STATUS 2, its tile is marked TRAP (R304, R305). -/
def State.failResults (s : State) (x : Group) (code : Nat) : State :=
  match x.work with
  | .rays _ _ lanes => lanes.foldl (fun s i => match s.ray? i with
      | some r => (match r.wait with | .invoke _ _ _ _ _ _ _ _ => s.endRay i code | _ => s)
      | none => s) s
  | .call _ _ hdr _ => s.reply x.part hdr 2 (List.replicate 32 0)
  | .frag u k serial pos block => s.fragDone u k x.cmd serial pos block none

/-- A group is ended (R304): rays with PROGRAM_TRAP. -/
def State.endGroup (s : State) (g : GroupRef) (x : Group) : State := (((s.leaveSlot g x).failResults x 0x15).flushInvs x.part).acceptMore 4096

/-- A group that an error of class CONTAINED ends; `src` is the error's SOURCE (R305, R511). -/
def State.lostGroup (s : State) (src : Nat) (g : GroupRef) (x : Group) : State :=
  (((s.errContained x.part src (g.core.val + 16 * g.slot.val) 0).leaveSlot g x).failResults x 0x17).flushInvs x.part

/-- An uncorrectable word of a group ends it with error class CONTAINED (R305); the error counts toward AUTO_FENCE (R515). -/
def State.containGroup (s : State) (g : GroupRef) (x : Group) : State := ((s.lostGroup 8 g x).coreUncorr g.core).acceptMore 4096

/-- A saved group, if there is one of a block and place. -/
def State.savedGroup? (s : State) (block inBlock : Nat) : Option (GroupRef × Group) :=
  s.setter.saved.find? (fun e => e.2.block == block && e.2.inBlock == inBlock)

/-- A saved group ends where it lies (R305, R449). -/
def State.endSaved (s : State) (e : GroupRef × Group) (code : Nat) : State :=
  let s1 := ((({ s with setter := { s.setter with saved := s.setter.saved.filter (fun x => decide (x ≠ e)) } } : State).reportGroup e.2).loosen
    e.2.block e.2.inBlock).dropScorer e.2
  (((s1.blockEnded e.2.block).failResults e.2 code).flushInvs e.2.part).acceptMore 4096

/-! ## Traps (R303, R304, R454) -/

/-- What a group's access or trap says of itself (R445). -/
def State.groupCtx (g : GroupRef) (x : Group) : FaultCtx :=
  ⟨2, x.cmd.map (·.q), x.cls, x.caddy, 0, x.tag, x.pc, BitVec.ofNat 8 (g.core.val + 16 * g.slot.val)⟩

/-- MEM_FAULT: the group parks on the fault of its access, at its instruction (R454). -/
def State.memFault (s : State) (env : Env) (g : GroupRef) (x : Group) (f : Xfault) : State :=
  s.fault env x.part 0 f 0 (State.groupCtx g x) (.group g.core g.slot)

/-- Any other trap: the group is TRAPPED, its record opens a fault of KIND 1, and with AUTO_END the group is ended (R303, R304). With 64
open faults the record waits on the overflow list, and the group stays TRAPPED until it is written. -/
def State.trap (s : State) (env : Env) (g : GroupRef) (x : Group) (code : Nat) : State :=
  let c := State.groupCtx g x
  let s1 := s.updGroup g (fun y => { y with state := .trapped, trap := BitVec.ofNat 8 code, stepping := false })
  if 64 ≤ (s1.openOf x.part).length then
    s1.updPart x.part (fun y => { y with overflow := y.overflow ++ [⟨.trapNote (BitVec.ofNat 8 code) x.block x.inBlock, c, 0⟩] })
  else
    let s2 := s1.openFault env x.part 1 ⟨code, 0, 0⟩ 0 c (.group g.core g.slot)
    if (s.part x.part).autoEnd then s2.endGroup g { x with trap := BitVec.ofNat 8 code } else s2

/-! ## Instructions (R269, R303, R306) -/

/-- A group changed by an instruction. -/
def State.put (s : State) (g : GroupRef) (x : Group) : State := s.setGroup g (some x)

/-- How an instruction comes out: its effect is made and the PC moves on, or the PC is set, or the group waits at its next instruction; or a
precise trap (`stop` keeps a state word that the trap shows), or an access fault. -/
inductive Ran where
  | done (s : State)
  | jump (s : State) (pc : W32)
  | hold (s : State) (w : GWait)
  | trap (code : Nat)
  | stop (s : State) (code : Nat)
  | fault (x : Xfault)
  | gone (s : State)

/-- The group that issues an instruction: RUNNING, of a partition that issues work. -/
def State.issuing (s : State) (g : GroupRef) : Option Group :=
  match s.group? g with
  | some x => if s.works x.part && decide (x.state = .running) then some x else none
  | none => none

/-- The virtual address of a group's instruction. -/
def Group.codeVa (x : Group) : Nat := x.prog.addr + x.prog.codeOff + x.pc.toNat

/-- An instruction completes: a group that was stepping is HALTED again. -/
def State.stepped (s : State) (g : GroupRef) : State :=
  match s.group? g with
  | some x => if x.stepping && decide (x.state = .running)
      then (s.setGroup g (some { x with stepping := false, state := .halted })).rayHalt x true else s
  | none => s

/-- One instruction of a group (R269, R303): its fetch translates for execution (R440); an uncorrectable word that it uses of its registers,
state or local store ends the group (R305), a corrected one is counted (R268, R512), and a residue error of its address arithmetic ends the group before
the access is issued (R510, R511); then it has its effect or traps. -/
def State.instr (s : State) (g : GroupRef) (env : Env) (check : Check) (f : State → Group → Ran) : State :=
  match s.issuing g with
  | none => s
  | some x => match s.translate x.part .exec x.codeVa with
    | .bad e => s.memFault env g x e
    | .ok _ =>
      if check = .failed then s.containGroup g x
      else if env.hw.addr then (s.lostGroup 6 g x).acceptMore 4096
      else
        let s0 := s.doIf (decide (check = .corrected)) State.errCorrected
        match f s0 x with
        | .done s1 => (s1.updGroup g (fun y => { y with pc := y.pc + 8 })).stepped g
        | .jump s1 pc => (s1.updGroup g (fun y => { y with pc := pc })).stepped g
        | .hold s1 w => (s1.updGroup g (fun y => { y with pc := y.pc + 8, wait := w, state := .waiting })).barriers x.block
        | .trap code => s0.trap env g x code
        | .stop s1 code => s1.trap env g x code
        | .fault e => s0.memFault env g x e
        | .gone s1 => s1

/-! ## EXIT and BRK (R284, R289, R303) -/

/-- Lanes removed from every mask of the divergence stack (R284). -/
def dropLanes (m : W32) (l : List (W32 × W32)) : List (W32 × W32) := l.map (fun e => (e.1 &&& ~~~m, e.2))

/-- A group whose lanes have all exited is over when its stores are visible and its results can be taken; until then it waits in its slot
(R284, R289, R328). -/
def State.wrapUp (s : State) (g : GroupRef) (x : Group) : State :=
  let stay := fun w => (s.put g { x with wait := w, state := .waiting }).barriers x.block
  if x.stores ≠ 0 then stay .ending
  else if !s.acceptable x then (stay .accept).acceptMore 4096
  else (s.finishGroup g x).acceptMore 4096

/-- EXIT: the active lanes leave for good; once every lane has, the group is over (R284, R289). -/
def execExit (g : GroupRef) (check : Check) (s : State) : Host.Outcome State Fault Refusal :=
  .next (s.instr g s.env0 check (fun s x =>
    let s1 := s.dropSpilled x x.active
    let y := { x with exited := x.exited ||| x.active, active := 0, dstack := dropLanes x.active x.dstack,
                      results := x.results ++ x.lanes.map (fun l => (l.val, x.returned l)) }
    if !y.over then .done (s1.put g y) else .gone ((s1.put g y).wrapUp g y)))

/-- BRK traps with BREAK (R303). -/
def execBrk (g : GroupRef) (t : Nat) (check : Check) (s : State) : Host.Outcome State Fault Refusal :=
  .next ((s.at t).instr g (s.at t).env0 check (fun _ _ => .trap 9))

/-! ## Acknowledgements and credit (R10, R15, R288, R289) -/

/-- A group's store or atomic is acknowledged: a fence that waits for the last one ends, its stores become visible and the core's L1 is
invalidated; an ended group hands over its results (R288, R289). -/
def State.groupAck (s : State) (g : GroupRef) : State :=
  match s.group? g with
  | none => s
  | some x =>
    let y := { x with stores := x.stores - 1 }
    if y.stores ≠ 0 then s.put g y
    else match x.wait with
      | .ending => (s.put g y).wrapUp g y
      | .fence =>
        let s1 := (s.put g y.wake).loosen x.block x.inBlock
        (s1.setCore g.core { s1.core g.core with l1 := [] }).doIf (x.stepping && decide (x.state = .waiting)) (·.rayHalt x true)
      | _ => s.put g y

/-- MEMORY_WRITE_ACK: the write's entry is freed, or the command or group that waits on it waits for one write less (R15). -/
def execMemoryWriteAck (id : Nat) (s : State) : Host.Outcome State Fault Refusal :=
  if !s.live then .next s
  else match s.ret.writes.find? (fun w => w.num == id) with
    | none => .next s
    | some w =>
      let s1 := ({ s with ret := { s.ret with writes := s.ret.writes.filter (fun x => x.num != id) } }).ackPend id
      match w.who with
      | .entry e => .next (s1.freeEntry e)
      | .command c => .next (s1.updCmd c (fun x => { x with writes := x.writes - 1 }))
      | .group core slot => .next (s1.groupAck ⟨core, slot⟩)
      | .nobody => .next s1

/-- FABRIC_CREDIT: a receiver grants words of a network of a port (R10). -/
def execFabricCredit (port : PortId) (net : Net) (group : BitVec 12) (words : Nat) (s : State) : Host.Outcome State Fault Refusal :=
  if s.live then .next ((s.setCredit port net group (s.creditOf port net group + words)).doIf s.ready State.flushReplies) else .next s

/-! ## BIND_PROGRAM (R73, R270 to R275) -/

/-- The program of a header under a BIND_PROGRAM; none where a field breaks R271 or R272. -/
def progOfHeader (raw : Slot64) (h : Slot64) : Option Prog :=
  let role := rb raw 9 1
  let clu := max 1 (rb raw 11 1)
  let flags := rb h 2 2
  let g : Prog := ⟨BitVec.ofNat 3 role, BitVec.ofNat 2 (rb raw 10 1), clu, rb raw 16 8, Nat.testBit flags 0, Nat.testBit flags 1, Nat.testBit flags 2,
    rb h 4 2, rb h 6 2, rb h 8 4, rb h 12 1, rb h 13 1, rb h 16 4, rb h 20 4, rb h 24 4⟩
  let ok := rb h 0 1 == role && rb h 1 1 == 1 && decide (flags < 8)
    && decide (8 ≤ g.vregs) && decide (g.vregs ≤ 256) && g.vregs % 8 == 0
    && decide (16 ≤ g.sregs) && decide (g.sregs ≤ 256) && g.sregs % 16 == 0
    && decide (g.localBytes ≤ 458752) && g.localBytes % 1024 == 0
    && decide (1 ≤ g.groups) && decide (g.groups ≤ 16) && decide (g.dspill ≤ 240) && rb h 14 2 == 0
    && decide (64 ≤ g.codeOff) && g.codeOff % 64 == 0
    && decide (8 ≤ g.codeBytes) && decide (g.codeBytes ≤ 16777216) && g.codeBytes % 8 == 0
    && decide (g.entry < g.codeBytes) && g.entry % 8 == 0 && rb h 28 36 == 0
    && !((role == 0 || role == 1 || role == 2 || role == 4) && (decide (1 < g.groups) || decide (1 < clu)))
    && !(g.usesScorer && role != 3) && fitsCore g
  if ok then some g else none

/-- BIND_PROGRAM reads and checks a program header and binds or empties a program slot (R271, R272). -/
def execBindProgram (q : QueueId) (env : Env) (s : State) : Host.Outcome State Fault Refusal :=
  let s := s.at env.t
  match s.beginning q 0x51 with
  | none => .next s
  | some c =>
    let p := s.qPart q
    let slot := rb c.raw 8 1
    let r : CmdRef := ⟨q, c.seq⟩
    let clu := max 1 (rb c.raw 11 1)
    if rb c.raw 16 8 = 0 then .next ((s.updPart p (fun x => { x with progs := assocDel slot x.progs })).finishOk r)
    else match s.vslot p (rb c.raw 16 8) with
      | .bad x => .next (s.fault env p 0 x 0 (s.cmdCtx r 0) (.command q c.seq))
      | .ok h => match progOfHeader c.raw h with
        | none => .next (s.finish r stBadField)
        | some g =>
          if g.usesTex && !s.hasTex then .next (s.finish r stAbsent)
          else if (s.coreSet p c.caddy).isEmpty || (decide (1 < clu) && (s.coreSets p c.caddy clu).isEmpty) then .next (s.finish r stQuota)
          else .next ((s.updPart p (fun x => { x with progs := assocPut slot g x.progs })).finishOk r)

/-! ## CALL_MESSAGE (R278, R279) -/

/-- Groups and queued groups of a core: its load. -/
def State.coreLoad (s : State) (c : CoreId) : Nat := (s.core c).resident.length + ((s.core c).queue.map (fun w => w.groups.length)).sum

/-- The group of one call, of class NORMAL: lane n holds its record in v0 to v3. -/
def State.callGroup (s : State) (p : PartId) (g : Prog) (port : PortId) (hdr : Slot64) (args : List (BitVec 128)) : Group :=
  let slot := rb hdr 0 1
  (newGroup p 2 s.sel (s.caddy s.sel).gen (s.part p).ovfTraverse.force g slot (.call port slot hdr args) none (fld hdr 32 32)
    (BitVec.ofNat 32 (2 ^ rb hdr 1 1 - 1))).load ((args.take 32).map (fun a => (List.range 4).map (fun k => fld a (32 * k) 32)))

/-- The calls of one port, slot and program that fill a block or cluster set are sent to the least-loaded core, or set of cores, with room
in its queue (R279, R298). -/
def State.launchCalls (s : State) (port : PortId) (slot : Nat) (g : Prog) : State :=
  let mine := fun (e : PortId × Prog × Slot64 × List (BitVec 128)) => decide (e.1 = port) && decide (e.2.1 = g) && rb e.2.2.1 0 1 == slot
  let l := s.setter.calls.filter mine
  let n := g.groups * g.cluster
  let p := (s.portOwner port).getD 0
  if l.length < n || !s.works p then s
  else
    let load := fun (c : CoreId) => ((List.range g.cluster).map (fun k => s.coreLoad (coreNo (c.val + k)))).sum
    match leastBy load ((s.coreSets p s.sel g.cluster).filter (fun c => decide (s.queued c < 8))) with
    | none => s
    | some c =>
      let gs := (l.take n).map (fun e => s.callGroup p g e.1 e.2.2.1 e.2.2.2)
      let s1 := { s with setter := { s.setter with calls := s.setter.calls.filter (fun e => !mine e) ++ l.drop n } }
      s1.enqueue c ⟨gs, g.cluster⟩

/-- CALL_MESSAGE: a call of a role 3 or 5 program arrives on a fabric port (R278). -/
def execCallMessage (port : PortId) (hdr : Slot64) (args : List (BitVec 128)) (s : State) : Host.Outcome State Fault Refusal :=
  match s.portOwner port with
  | none => .next s
  | some p =>
    if !s.works p || !s.hasCredit port .vector 9 then .next s
    else
      let s := s.useCredit port .vector 9
      let lanes := rb hdr 1 1
      match assocGet (rb hdr 0 1) (s.part p).progs with
      | none => .next (s.reply p hdr 1 (List.replicate 32 0))
      | some g =>
        if (g.role ≠ 3 && g.role ≠ 5) || lanes = 0 || decide (32 < lanes) || rb hdr 8 56 ≠ 0 then .next (s.reply p hdr 1 (List.replicate 32 0))
        else .next (({ s with setter := { s.setter with calls := s.setter.calls ++ [(port, g, hdr, args)] } }).launchCalls port (rb hdr 0 1) g)

end Sys2Proof.Machine
end

