-- ==== Sys2Proof/Machine/Alu.lean ====
section
/-!
DEFINITION. Sys2Proof/Machine/Alu.lean: the Setter instructions that touch registers and control only (R257, R258, R280 to R284): integer,
float, convert, special function, lane exchange, scorer, branch, divergence push and pop, call and return.
-/

namespace Sys2Proof

open Machine

/-! ## Operands (R276) -/

/-- The registers of an operand exist: inside VREGS or SREGS, a 64-bit value in an aligned pair. -/
def Src.fits (x : Group) (wide : Bool) : Src → Bool
  | .v n => decide (n + (if wide then 2 else 1) ≤ x.prog.vregs) && (!wide || n % 2 == 0)
  | .s n => decide (n + (if wide then 2 else 1) ≤ x.prog.sregs) && (!wide || n % 2 == 0)
  | .imm _ => true

/-- An operand has one value for the group. -/
def Src.uniform : Src → Bool
  | .v _ => false
  | _ => true

/-- The 32-bit value of an operand at a lane. -/
def Src.val (x : Group) (l : Fin 32) : Src → W32
  | .v n => x.vreg n l
  | .s n => x.sreg n
  | .imm w => w

/-- The 64-bit value of an operand at a lane; an immediate is zero-extended. -/
def Src.val64 (x : Group) (l : Fin 32) : Src → W64
  | .v n => x.vreg (n + 1) l ++ x.vreg n l
  | .s n => x.sreg (n + 1) ++ x.sreg n
  | .imm w => w.setWidth 64

/-- An operand of either width as a number. -/
def Src.num (x : Group) (wide : Bool) (l : Fin 32) (a : Src) : Nat := if wide then (a.val64 x l).toNat else (a.val x l).toNat

/-- The registers of a destination exist. -/
def Dst.fits (x : Group) (wide : Bool) : Dst → Bool
  | .v n => Src.fits x wide (.v n)
  | .s n => Src.fits x wide (.s n)

/-- A destination takes results that vary by lane. -/
def Dst.vector : Dst → Bool
  | .v _ => true
  | .s _ => false

end Sys2Proof

namespace Sys2Proof.Machine

/-- A lane is active. -/
def Group.on (x : Group) (l : Fin 32) : Bool := bit x.active l.val

/-- Results written: to the active lanes of a vector register, or to a scalar register from the first active lane. -/
def Group.write (x : Group) (d : Dst) (f : Fin 32 → W32) : Group :=
  match d with
  | .v n => x.setV n (fun l => if x.on l then some (f l) else none)
  | .s n => match x.lanes with
    | l :: _ => x.setS n (f l)
    | [] => x

/-- 64-bit results written to a pair. -/
def Group.write64 (x : Group) (d : Dst) (f : Fin 32 → W64) : Group :=
  let lo := fun l => fld (f l) 0 32
  let hi := fun l => fld (f l) 32 32
  match d with
  | .v n => (x.write (.v n) lo).write (.v (n + 1)) hi
  | .s n => (x.write (.s n) lo).write (.s (n + 1)) hi

/-- Every operand exists, and a scalar destination takes operands that are one for the group. -/
def operandsOk (x : Group) (d : Dst) (wd : Bool) (l : List (Src × Bool)) : Bool :=
  d.fits x wd && l.all (fun a => a.1.fits x a.2) && (d.vector || l.all (fun a => a.1.uniform))

/-- The item of a lane in an arithmetic report (R262): the ray it serves, the primitive's sequence number of a fragment, else zero. -/
def State.laneItem (s : State) (x : Group) (l : Nat) : Nat :=
  match x.work with
  | .rays _ _ r => (s.kId (r.getD l 0)).toNat
  | .call _ _ _ _ => 0
  | .frag u k serial pos _ => match s.fragTile u k x.cmd serial with
    | some (t, v, c) => ((tileEnv v c).seqOf (t.list.getD pos (0, 0)).2).toNat
    | none => 0

/-- Flags of an arithmetic instruction kept for the group's report: the lanes with an invalid operation, and the count of overflows (R259). -/
def State.report (s : State) (x : Group) (inv : List Nat) (ovf : Nat) : Group :=
  { x with invs := x.invs ++ inv.map (fun l => ⟨fsOther, 0, 0, s.laneItem x l⟩), ovfs := x.ovfs + ovf }

/-! ## Integer (R257, R280) -/

end Sys2Proof.Machine

namespace Sys2Proof

open Machine

def IntWidth.bits : IntWidth → Nat
  | .b8 => 8 | .b16 => 16 | .b32 => 32 | .b64 => 64

end Sys2Proof

namespace Sys2Proof.Machine

/-- An n-bit word as the integer it stands for. -/
def intOf (n : Nat) (signed : Bool) (v : Nat) : Int := if signed then sext n v else ((v % 2 ^ n : Nat) : Int)

/-- The range of an n-bit type. -/
def intLo (n : Nat) (signed : Bool) : Int := if signed then -(2 ^ (n - 1) : Nat) else 0
def intHi (n : Nat) (signed : Bool) : Int := if signed then (2 ^ (n - 1) : Nat) - 1 else (2 ^ n : Nat) - 1

/-- A result: saturated with SAT 1, wrapped with SAT 0. -/
def intFit (n : Nat) (signed sat : Bool) (i : Int) : Nat :=
  wrapN n (if sat then (if i < intLo n signed then intLo n signed else if intHi n signed < i then intHi n signed else i) else i)

/-- The value of one integer operation: an n-bit word. Division truncates toward zero; the remainder has the dividend's sign. -/
def intEval (op : IntOp) (n : Nat) (signed sat : Bool) (a b c : Nat) : Nat :=
  let x := intOf n signed a
  let y := intOf n signed b
  let fit := intFit n signed sat
  let flag := fun (p : Bool) => if p then 1 else 0
  match op with
  | .add => fit (x + y)
  | .sub => fit (x - y)
  | .mulLo => fit (x * y)
  | .mulHi => wrapN n (x * y / (2 ^ n : Nat))
  | .shl => if n ≤ b % 2 ^ n then Config.shiftOut 0 n a b % 2 ^ n else fit (x * (2 ^ (b % 2 ^ n) : Nat))
  | .shr => if n ≤ b % 2 ^ n then Config.shiftOut (if signed then 2 else 1) n a b % 2 ^ n else wrapN n (x / (2 ^ (b % 2 ^ n) : Nat))
  | .and => (a &&& b) % 2 ^ n
  | .or => (a ||| b) % 2 ^ n
  | .xor => (a ^^^ b) % 2 ^ n
  | .not => 2 ^ n - 1 - a % 2 ^ n
  | .eq => flag (decide (x = y))
  | .lt => flag (decide (x < y))
  | .le => flag (decide (x ≤ y))
  | .select => if a = 0 then c % 2 ^ n else b % 2 ^ n
  | .neg => fit (-x)
  | .abs => fit (if x < 0 then -x else x)
  | .min => wrapN n (if x < y then x else y)
  | .max => wrapN n (if y < x then x else y)
  | .div => if y = 0 then 0 else fit (x.tdiv y)
  | .rem => if y = 0 then wrapN n x else wrapN n (x.tmod y)

end Sys2Proof.Machine

namespace Sys2Proof

open Machine

/-- A comparison gives 1 or 0 in one register. -/
def IntOp.compares : IntOp → Bool
  | .eq => true | .lt => true | .le => true | _ => false

end Sys2Proof

namespace Sys2Proof.Machine

/-- An n-bit result in a 32-bit register: sign-extended where the type is signed. -/
def widen (n : Nat) (signed : Bool) (v : Nat) : W32 := if signed then BitVec.ofNat 32 (wrapN 32 (sext n v)) else BitVec.ofNat 32 v

/-- INTEGER: one operation of R280 on 8, 16, 32 or 64 bits. -/
def execInteger (g : GroupRef) (op : IntOp) (w : IntWidth) (signed sat : Bool) (dst : Dst) (a b c : Src) (check : Check) (s : State) :
    Host.Outcome State Fault Refusal :=
  .next (s.instr g s.env0 check (fun s x =>
    let n := w.bits
    let wide := decide (n = 64)
    let wd := wide && !op.compares
    let wa := wide && decide (op ≠ .select)
    if !operandsOk x dst wd [(a, wa), (b, wide), (c, wide)] then .trap 2
    else
      let f := fun l => intEval op n signed sat (a.num x wa l) (b.num x wide l) (c.num x wide l)
      if wd then .done (s.put g (x.write64 dst (fun l => BitVec.ofNat 64 (f l))))
      else .done (s.put g (x.write dst (fun l => if op.compares then BitVec.ofNat 32 (f l) else widen n signed (f l))))))

/-! ## Float (R252, R258, R280) -/

end Sys2Proof.Machine

namespace Sys2Proof

open Machine

/-- Code of a format for the free values. -/
def Fmt.code : Fmt → Nat
  | .fp32 => 0 | .fp16 => 1 | .bf16 => 2 | .e4m3 => 3 | .e5m2 => 4

end Sys2Proof

namespace Sys2Proof.Machine

/-- A NaN of a format is written as the canonical one (R239). -/
def canonF (f : Fmt) (w : Nat) : Nat := if (f.decode w).isNan then f.nan else w

/-- The lesser of two values; free where one is NaN or both are zeros of different sign. -/
def fmtMin (f : Fmt) (a b : Nat) : Nat :=
  let x := f.decode a
  let y := f.decode b
  if x.isNan || y.isNan || (x.isZero && y.isZero && x.sign != y.sign) then canonF f (Config.minMaxOpen 0 f.code a b % 2 ^ f.width)
  else if y.lt x then b else a

/-- The greater of two values. -/
def fmtMax (f : Fmt) (a b : Nat) : Nat :=
  let x := f.decode a
  let y := f.decode b
  if x.isNan || y.isNan || (x.isZero && y.isZero && x.sign != y.sign) then canonF f (Config.minMaxOpen 1 f.code a b % 2 ^ f.width)
  else if x.lt y then b else a

/-- One float operation on words of a format: the word, INVALID, OVERFLOW. -/
def floatEval (op : FloatOp) (f : Fmt) (o : Ovf) (a b c : Nat) : Conv :=
  let x := f.decode a
  let y := f.decode b
  let z := f.decode c
  let put := fun (v : Val) (nan : Bool) => let r := f.round .near o v; (⟨r.1, r.2, v.isNan && !nan⟩ : Conv)
  let flag := fun (p : Bool) => (⟨if p then 1 else 0, false, false⟩ : Conv)
  match op with
  | .fma => put ((x.mul y).add z) (x.isNan || y.isNan || z.isNan)
  | .add => put (x.add y) (x.isNan || y.isNan)
  | .mul => put (x.mul y) (x.isNan || y.isNan)
  | .min => ⟨fmtMin f a b, false, false⟩
  | .max => ⟨fmtMax f a b, false, false⟩
  | .eq => flag (x.eq y)
  | .lt => flag (x.lt y)
  | .le => flag (x.le y)

/-- The elements of a register in a format: one of 32 bits, or a pair of 16 bits. -/
def floatParts (f : Fmt) (op : FloatOp) (o : Ovf) (a b c : W32) : List Conv :=
  if f.width = 32 then [floatEval op f o a.toNat b.toNat c.toNat]
  else [floatEval op f o (fldN a 0 16) (fldN b 0 16) (fldN c 0 16), floatEval op f o (fldN a 16 16) (fldN b 16 16) (fldN c 16 16)]

/-- The register of some elements. -/
def joinParts (l : List Conv) : W32 := BitVec.ofNat 32 (match l with | [e] => e.word | e :: h :: _ => e.word + 65536 * h.word | [] => 0)

/-- FLOAT: FMA, add, multiply, min, max and compare in FP32, FP16 and BF16, the 16-bit formats in pairs; the group's FP_OVF mode. -/
def execFloat (g : GroupRef) (op : FloatOp) (f : Fmt) (dst : Dst) (a b c : Src) (check : Check) (s : State) : Host.Outcome State Fault Refusal :=
  .next (s.instr g s.env0 check (fun s x =>
    if f = .e4m3 || f = .e5m2 || !operandsOk x dst false [(a, false), (b, false), (c, false)] then .trap 2
    else
      let r := fun l => floatParts f op (ovfOf x.ovf) (a.val x l) (b.val x l) (c.val x l)
      let all := x.lanes.map (fun l => (l.val, r l))
      let inv := all.flatMap (fun e => (e.2.filter (·.inv)).map (fun _ => e.1))
      .done (s.put g ((s.report x inv (all.flatMap (fun e => e.2.filter (·.ovf))).length).write dst (fun l => joinParts (r l))))))

/-! ## Convert (R255 to R257) -/

/-- A converted element in a register: signed integers sign-extended. -/
def convWord (d : NumFmt) (v : Nat) : W32 :=
  match d with
  | .f _ => BitVec.ofNat 32 v
  | .i f => widen f.width (decide (f ≠ .u8)) v

/-- CONVERT: every pair of R255; the SAT field governs integer narrowing. -/
def execConvert (g : GroupRef) (src dst : NumFmt) (sat : Bool) (d : Dst) (a : Src) (check : Check) (s : State) : Host.Outcome State Fault Refusal :=
  .next (s.instr g s.env0 check (fun s x =>
    if !operandsOk x d false [(a, false)] then .trap 2
    else
      let r := fun l => convert src dst (!sat) (ovfOf x.ovf) (a.val x l).toNat
      let all := x.lanes.map (fun l => (l.val, r l))
      .done (s.put g ((s.report x ((all.filter (·.2.inv)).map (·.1)) (all.filter (·.2.ovf)).length).write d (fun l => convWord dst (r l).word)))))

/-! ## Special functions (R280) -/

end Sys2Proof.Machine

namespace Sys2Proof

open Machine

/-- Code of a special function for the free values. -/
def SpecialFn.code : SpecialFn → Nat
  | .rcp => 0 | .rsqrt => 1 | .exp2 => 2 | .log2 => 3 | .sin => 4 | .cos => 5 | .sqrt => 6

end Sys2Proof

namespace Sys2Proof.Machine

/-- The special function of a word, with INVALID and OVERFLOW: the square root is correctly rounded; the others give one of the FP32 values
within 2 units in the last place of the real result, and a result beyond the range follows FP_OVF (R252, R253). NaN gives NaN, and an
argument outside the function's domain is an invalid operation (R258). At an infinity or a pole the result is a free value. -/
def specialEval (fn : SpecialFn) (o : Ovf) (w : W32) : Conv :=
  let v := v32 w
  let put := fun (x : W32 × Bool) => (⟨x.1.toNat, x.2, false⟩ : Conv)
  let open_ := put (canon32 (Config.special fn.code w), false)
  let bad : Conv := ⟨f32Nan.toNat, false, true⟩
  let near := fun (neg : Bool) (x : Encl) => put (approx32 o neg x (Config.specialPick fn.code w))
  match v with
  | .nan => put (f32Nan, false)
  | .inf n => match fn with
    | .sqrt => if n then bad else put (fsqrt w, false)
    | .rsqrt => if n then bad else open_
    | .log2 => if n then bad else open_
    | .sin => bad
    | .cos => bad
    | _ => open_
  | .fin n m e => match fn with
    | .sqrt => if n && decide (m ≠ 0) then bad else put (fsqrt w, false)
    | .rcp => if m = 0 then open_ else near n (rcpEncl m e)
    | .rsqrt => if m = 0 then open_ else if n then bad else near false (rsqrtEncl m e)
    | .exp2 => near false (exp2Encl v)
    | .log2 => if m = 0 then open_ else if n then bad else let x := log2Encl m e; near x.1 x.2
    | .sin => if m = 0 then near n ⟨0, 0, 0⟩ else let x := trigOf 0 m e; near (x.1 != n) x.2
    | .cos => if m = 0 then near false ⟨1, 1, 0⟩ else let x := trigOf 1 m e; near x.1 x.2

/-- SPECIAL_FUNCTION in FP32. -/
def execSpecialFunction (g : GroupRef) (fn : SpecialFn) (dst : Dst) (a : Src) (check : Check) (s : State) : Host.Outcome State Fault Refusal :=
  .next (s.instr g s.env0 check (fun s x =>
    if !operandsOk x dst false [(a, false)] then .trap 2
    else
      let r := fun l => specialEval fn (ovfOf x.ovf) (a.val x l)
      let inv := (x.lanes.filter (fun l => (r l).inv)).map (·.val)
      .done (s.put g ((s.report x inv (x.lanes.filter (fun l => (r l).ovf)).length).write dst (fun l => BitVec.ofNat 32 (r l).word)))))

/-! ## Lane exchange (R280) -/

/-- The source lane of a shuffle, if it is active. -/
def shuffleFrom (x : Group) (i : Int) : Option (Fin 32) :=
  if 0 ≤ i && i < 32 then (x.lanes.find? (fun l => (l.val : Int) == i)) else none

/-- A shuffle: a lane whose source is inactive or no lane receives a free value. -/
def shuffle (s : State) (x : Group) (a : Src) (from_ : Fin 32 → Int) (l : Fin 32) : W32 :=
  match shuffleFrom x (from_ l) with
  | some k => a.val x k
  | none => Config.openLane (s.fresh * 32 + l.val)

/-- The sum of FP32 values in ascending lane order, with its flags. -/
def sumFp (o : Ovf) : List W32 → W32 × List Fl
  | [] => (0, [])
  | a :: r => r.foldl (fun acc b => let t := flAdd o acc.1 b; (t.v, acc.2 ++ [t])) (canon32 a, [])

/-- The value of a reduction or vote over the active lanes. -/
def laneFold (op : LaneOp) (o : Ovf) (mask : W32) (vals : List W32) : W32 × List Fl :=
  let ints := vals.map (fun v => v.toInt)
  let pick := fun (f : Nat → Nat → Nat) => match vals with | [] => (0 : W32) | a :: r => r.foldl (fun m b => BitVec.ofNat 32 (f m.toNat b.toNat)) (canon32 a)
  match op with
  | .ballot => (mask, [])
  | .any => (if mask = 0 then 0 else 1, [])
  | .all => (if vals.all (fun v => decide (v ≠ 0)) then 1 else 0, [])
  | .sumI => (vals.foldl (· + ·) 0, [])
  | .minI => (BitVec.ofInt 32 (match ints with | [] => 0 | a :: r => r.foldl min a), [])
  | .maxI => (BitVec.ofInt 32 (match ints with | [] => 0 | a :: r => r.foldl max a), [])
  | .sumF => sumFp o vals
  | .minF => (pick (fmtMin .fp32), [])
  | .maxF => (pick (fmtMax .fp32), [])
  | _ => (0, [])

end Sys2Proof.Machine

namespace Sys2Proof

open Machine

/-- The operation moves values between lanes. -/
def LaneOp.moves : LaneOp → Bool
  | .shuffleIdx => true | .shuffleOff _ => true | .broadcast _ => true | _ => false

end Sys2Proof

namespace Sys2Proof.Machine

/-- LANE_EXCHANGE: inactive lanes provide no operand and receive no result. -/
def execLaneExchange (g : GroupRef) (op : LaneOp) (dst : Dst) (a idx : Src) (check : Check) (s : State) : Host.Outcome State Fault Refusal :=
  .next (s.instr g s.env0 check (fun s x =>
    if !dst.fits x false || !a.fits x false || !idx.fits x false || (op.moves && !dst.vector) then .trap 2
    else
      let sh := fun f => Ran.done (({ s with fresh := s.fresh + 1 }).put g (x.write dst (shuffle s x a f)))
      match op with
      | .shuffleIdx => sh (fun l => (idx.val x l).toInt)
      | .shuffleOff d => sh (fun l => (l.val : Int) + d)
      | .broadcast k => sh (fun _ => (k.val : Int))
      | _ =>
        let vals := x.lanes.map (fun l => a.val x l)
        let mask := x.lanes.foldl (fun (m : W32) l => setBit m l.val (decide (a.val x l ≠ 0))) 0
        let r := laneFold op (ovfOf x.ovf) mask vals
        let inv := List.replicate (invCount r.2) ((x.lanes.head?.map (·.val)).getD 0)
        .done (s.put g ((s.report x inv (ovfCount r.2)).write dst (fun _ => r.1)))))

/-! ## Scorer (R242 to R249, R280, R281) -/

/-- A query or key format that the partition may use (R111, R417); FP16, which no caddy entry names, is 5 and reaches the datapath from
programs of role 3 only (R241). -/
def State.formatOn (s : State) (x : Group) (f : BitVec 3) : Bool :=
  (decide (f.toNat ≤ 4) && bit (s.caddyEnt x.caddy x.part).formats f.toNat) || (decide (f = 5) && decide (x.prog.role = 3))

/-- Registers that 32 elements of a format take. -/
def elemRegs (f : BitVec 3) : Nat := 8 * elemWidth f.toNat

/-- The 32 elements of some registers. -/
def regElems (f : BitVec 3) (reg : Nat → W32) : List Val :=
  rowVals f.toNat 32 (packN ((List.range (elemRegs f)).map (fun k => (32, (reg k).toNat))))

/-- The operands of SCORER exist: eight queries in scalar registers, a key a lane in vector registers, eight destination registers. -/
def scorerFits (x : Group) (dst : Nat) (qfmt kfmt : BitVec 3) (queries keys : Nat) : Bool :=
  decide (dst + 8 ≤ x.prog.vregs) && decide (queries + 8 * elemRegs qfmt ≤ x.prog.sregs) && decide (keys + elemRegs kfmt ≤ x.prog.vregs)

/-- SCORER: the group becomes a SCORE operation of the Herder and waits until it returns (R281). -/
def execScorer (g : GroupRef) (dst : Nat) (qfmt kfmt : BitVec 3) (queries keys : Nat) (check : Check) (t : Nat) (s : State) :
    Host.Outcome State Fault Refusal :=
  .next ((s.at t).instr g (s.at t).env0 check (fun s x =>
    if !x.prog.usesScorer || !s.formatOn x qfmt || !s.formatOn x kfmt || !scorerFits x dst qfmt kfmt queries keys then .trap 2
    else .hold (s.enterAs (.group x.block x.inBlock) x.part 0 none) (.score dst qfmt kfmt queries keys)))

/-- The score of one block of 32 elements: a query of the group against the key of a lane, without scales (R242 to R249). -/
def scorerScore (x : Group) (qfmt kfmt : BitVec 3) (queries keys j : Nat) (l : Fin 32) : Sigma :=
  score false qfmt.toNat (regElems qfmt (fun k => x.sreg (queries + j * elemRegs qfmt + k))) [127] fOne
    kfmt.toNat (regElems kfmt (fun k => x.vreg (keys + k) l)) [127] fOne (ovfOf x.ovf)

/-- A group's SCORE operation returns and reports: each lane receives the scores of its key, and the group goes on (R259, R281). The capture shows SOURCE
SCORE, the query, the lane as KEY and ITEM_ID 0 (DESIGN CHOICE, log 201: R262 names no key or item for a called program). -/
def State.scoreGroup (s : State) (block inBlock : Nat) : State :=
  match s.groupBy? block inBlock with
  | none => s
  | some x => match x.wait with
    | .score dst qfmt kfmt queries keys =>
      let r := scorerScore x qfmt kfmt queries keys
      let all := (List.range 8).flatMap (fun j => x.lanes.map (fun l => (j, l.val, r j l)))
      let y := (List.range 8).foldl (fun (y : Group) j => y.write (.v (dst + j)) (fun l => (r j l).hi)) x
      let inv := (all.filter (fun e => e.2.2.inv)).map (fun e => (⟨fsScore, e.1, e.2.1, 0⟩ : FpInv))
      let s1 := (s.fpInvalids x.part inv).fpOverflows x.part (all.filter (fun e => e.2.2.ovf)).length
      (s1.updGroupBy block inBlock (fun _ => y.wake)).doIf (x.stepping && decide (x.state = .waiting)) (·.rayHalt x true)
    | _ => s

/-- The groups of a pack in turn. -/
def State.packGroups (s : State) (f : State → Nat → Nat → State) (k : Pack) : State :=
  k.items.foldl (fun s w => match w.item with | .group b j => f s b j | _ => s) s

/-- A group whose scorer, or the address arithmetic of its operation, failed its check ends with CONTAINED, resident or saved (R305, R511). -/
def State.scoreLost (s : State) (src : Nat) (tu : TuId) (block inBlock : Nat) : State :=
  match s.residents.find? (fun e => e.2.block == block && e.2.inBlock == inBlock) with
  | some e => (((s.errContained e.2.part src tu.val 0).leaveSlot e.1 e.2).failResults e.2 0x17).flushInvs e.2.part |>.acceptMore 4096
  | none => match s.savedGroup? block inBlock with
    | some e => (s.errContained e.2.part src tu.val 0).endSaved e 0x17
    | none => s

/-- SCORE: a TU's leaf scorer scores the bundles of the next pack against a leaf, and carries out the scorer instructions in it (R213, R281). -/
def execScore (tu : TuId) (check : Check) (env : Env) (s : State) : Host.Outcome State Fault Refusal :=
  let s := s.at env.t
  if (s.tuPlace tu).isNone then .next s
  else match s.tuNext tu [3] with
    | none => .next s
    | some k =>
      let s1 := (s.tuTake tu k).bundleWords env k.part (packBundles k) env.hw.words
      let k := s1.standingOps k
      let run := fun (s : State) => ((s.packOps (fun s w o => s.scoreOp env tu k w o) k).packGroups State.scoreGroup k).flushInvs k.part
      if env.hw.addr then .next ((s1.failOps env 6 tu k).packGroups (fun s b j => s.scoreLost 6 tu b j) k)
      else match check with
      | .failed => .next (((s1.failOps env 5 tu k).packGroups (fun s b j => s.scoreLost 5 tu b j) k).residueSeen)
      | .corrected => .next (run s1.errCorrected)
      | .ok => .next (run s1)

/-! ## Control (R280, R283) -/

/-- BRANCH: the group's PC is the target. -/
def execBranch (g : GroupRef) (target : W32) (check : Check) (s : State) : Host.Outcome State Fault Refusal :=
  .next (s.instr g s.env0 check (fun s _ => .jump s target))

/-- DIVERGENCE_PUSH: an entry with the active mask and the reconvergence point; the named lanes of the active ones stay active. Where the 16
hardware entries are taken the oldest moves to the spill area in local store; when that is full too the push traps. -/
def execDivergencePush (g : GroupRef) (reconv : W32) (active : W32) (t : Nat) (check : Check) (s : State) : Host.Outcome State Fault Refusal :=
  .next ((s.at t).instr g (s.at t).env0 check (fun s x =>
    let y := { x with dstack := (x.active, reconv) :: x.dstack, active := x.active &&& active }
    if x.dstack.length < 16 then .done (s.put g y)
    else if x.prog.dspill ≤ x.spilled then .trap 5
    else
      let s1 := s.locPut x.block (x.spillOff x.spilled) 8 (stackWord (x.dstack.getLast?.getD (0, 0)))
      .done (s1.put g { y with dstack := y.dstack.dropLast, spilled := x.spilled + 1 })))

/-- The newest entry of a group's spill area. -/
def State.refill (s : State) (x : Group) : W32 × W32 :=
  let w := s.locNum x.block (x.spillOff (x.spilled - 1)) 8
  (BitVec.ofNat 32 w, BitVec.ofNat 32 (w / 2 ^ 32))

/-- DIVERGENCE_POP: the newest entry's lanes that have not exited are active again, and an entry of the spill area comes back to the
hardware; an empty stack traps. -/
def execDivergencePop (g : GroupRef) (t : Nat) (check : Check) (s : State) : Host.Outcome State Fault Refusal :=
  .next ((s.at t).instr g (s.at t).env0 check (fun s x =>
    match x.dstack with
    | [] => .trap 2
    | e :: r =>
      let y := { x with dstack := r, active := e.1 &&& ~~~x.exited }
      .done (s.put g (if x.spilled = 0 then y else { y with dstack := r ++ [s.refill x], spilled := x.spilled - 1 }))))

/-- PROGRAM_CALL: a call sets the PC to a target in the image and leaves the offset behind it in a scalar register; a return takes it back. -/
def execProgramCall (g : GroupRef) (target : Option W32) (link : Nat) (check : Check) (s : State) : Host.Outcome State Fault Refusal :=
  .next (s.instr g s.env0 check (fun s x =>
    if !Src.fits x false (.s link) then .trap 2
    else match target with
      | some t => .jump (s.put g (x.setS link (x.pc + 8))) t
      | none => .jump s (x.sreg link)))

end Sys2Proof.Machine
end

