-- ==== Sys2Proof/Machine/Boot.lean ====
section
/-!
DEFINITION. Sys2Proof/Machine/Boot.lean: power, reset and start-up to step 6 (R500 to R509, R523, R524), the lock (R486, R491) and the voter
(R485).
-/

namespace Sys2Proof.Machine

/-! ## Power and reset (R500, R523) -/

/-- The block in reset: every register at its reset value; what the die reports, what has been sent, memory and the waiting commands
stay, and RK_ERR_LOG where `keep` (R514, R523). -/
def State.toReset (s : State) (keep : Bool) : State :=
  { State.reset with
    pending := s.pending
    mem := s.mem
    pins := { s.pins with inReset := true, forced := false, bypass := true, resp := .none }
    err := { Err.reset with log := if keep then s.err.log else 0 }
    fresh := s.fresh }

/-- POWER_ON: the domains ramp; the die holds the block in reset (R500). -/
def execPowerOn (s : State) : Host.Outcome State Fault Refusal :=
  if s.pins.powered then .next s
  else
    let s1 := s.toReset false
    .next { s1 with pins := { s1.pins with powered := true } }

/-- Number of a domain in the order of the table of R23. -/
def domainNo (d : Domain) : Nat :=
  match d with
  | .ctl => 0
  | .west => 1
  | .east => 2
  | .setter => 3
  | .router => 4
  | .array => 5
  | .vis => 6

/-- POWER_DOWN: in reset, all storage is lost (R500); out of reset a domain leaves its range, which is an error of class BLOCK. -/
def execPowerDown (s : State) : Host.Outcome State Fault Refusal :=
  if !s.pins.powered then .next s
  else if s.pins.inReset then
    let s1 := s.toReset false
    .next { s1 with pins := { s1.pins with powered := false } }
  else .next (s.errBlock 0x14 (domainNo (if s.hasVis then .vis else .west)))

/-- DIE_RESET: the die resets the block (R523); RK_ERR_LOG stays. -/
def execDieReset (s : State) : Host.Outcome State Fault Refusal :=
  if s.pins.powered then .next (s.toReset true) else .next s

/-- SUPPLY_FAULT: a domain out of range while out of reset is an error of class BLOCK (R500). -/
def execSupplyFault (d : Domain) (s : State) : Host.Outcome State Fault Refusal :=
  if s.pins.powered && !s.pins.inReset then .next (s.errBlock 0x14 (domainNo d)) else .next s

/-- RK_BLK_RESET.GO: all issue stops and the shim closes the bypass (R19, R524). Only GO is under the lock (DEDUCED, log 188: R486 lists RK_BLK_RESET.GO alone, while the map of R524 types its reserved bits KL-WO). -/
def State.regBlkReset (s : State) (u : Bool) (v : W64) : State :=
  if !bit v 0 then s
  else if !u then s.lockViolation
  else { s with pins := { s.pins with forced := true, bypass := true } }

/-- BLK_RESET: RK_BLK_RESET written with GO 1; it acts in ERROR too (R513). -/
def execBlkReset (req : Requester) (s : State) : Host.Outcome State Fault Refusal :=
  .next (s.busWrite req none true false (fun u s => s.regBlkReset u 1))

/-- FORCED_RESET_ABANDON: requests not acknowledged are abandoned, and the block enters reset (R524). -/
def execForcedResetAbandon (s : State) : Host.Outcome State Fault Refusal :=
  if s.pins.powered && s.pins.forced && !s.pins.inReset then
    let s1 := s.toReset true
    .next { s1 with pins := { s1.pins with forced := true } }
  else .next s

/-! ## Start-up steps 1 to 5 (R501, R504, R505, R517) -/

/-- RK_CAPS from the fuses: the fuse bits are [5:0] (R33). -/
def capsOf (fuses : W32) : W32 := 0x108080C0 ||| (fuses &&& 0x3F)

/-- The fuses read into RK_CAPS and RK_FUSE_MIRROR (R501 step 2, R506). -/
def State.readFuses (s : State) (i : ReleaseInfo) : State :=
  { s with boot := { s.boot with caps := .all (capsOf i.caps), fuses := capsOf i.caps, spareFused := i.spareFused, sramRepairs := i.sramRepairs } }

/-- A row as fuses and self-tests leave it: a fused or failed position is fenced, and the row's spare, where it passed, serves the fused or
the lowest vacant position (R427, R501 steps 3 and 4). -/
def rowAt (fused : Option (Fin 16)) (failed : BitVec 17) : Row :=
  let bad : BitVec 17 := match fused with | some q => setBit failed q.val true | none => failed
  let act : BitVec 17 := 0x0FFFF &&& ~~~bad
  let x : Row := { Row.reset with fenced := bad, active := act }
  if bit bad 16 then x
  else match (match fused with | some q => some q.val | none => x.vacant) with
    | some q => { x with active := setBit act 16 true, spareUsed := true, sparePos := BitVec.ofNat 4 q }
    | none => x

/-- TUs that pass start-up step 4. -/
def passedTus (i : ReleaseInfo) : Nat :=
  ((List.finRange 8).map (fun r => 17 - popN i.tusFailed[r] 17)).sum

/-- Steps 3 to 5: storage tests, self-tests, the wait for the microcode. -/
def State.bootTests (s : State) (i : ReleaseInfo) : State :=
  match i.sramFatal with
  | some (src, idx) =>
    (((s.bootStep 3).stall 2 (src ++ idx)).setBp (bpOpen 3 (src ++ idx))).errBlock src.toNat idx.toNat
  | none =>
    let before := s.activeTus
    let rows := Vector.ofFn (fun (r : Fin 8) => rowAt (if bit i.spareFused r.val then some i.fusedPos[r] else none) i.tusFailed[r])
    let any := (List.finRange 8).any (fun r => decide (i.tusFailed[r] ≠ 0))
    let s1 := { s with
      kennel := { s.kennel with banksOut := i.banksFailed }
      arr := { s.arr with rows := rows, coresOut := i.coresFailed, unitsOut := i.unitsFailed, fenceEvent := s.arr.fenceEvent || any } }
    let s2 := s1.tusChanged before
    if passedTus i = 0 then (((s2.bootStep 4).stall 3 0).setBp 10000).errBlock 0x03 0
    else ((s2.bootStep 5).stall 4 0).timerAdd .power (s2.pins.now + 1024)

/-- Step 2 and what follows it; three readings that disagree stall the sequence with FUSE, an error of class BLOCK. -/
def State.bootFuses (s : State) (i : ReleaseInfo) : State :=
  if !i.fuseAgree then (((s.bootStep 2).stall 1 i.fuseBad).setBp (bpOpen 2 i.fuseBad)).errBlock 0x10 i.fuseBad.toNat
  else (s.readFuses i).bootTests i

/-- Reset release: step 1 learns the port map, the links and the timebase. -/
def State.leaveReset (s : State) (i : ReleaseInfo) : State :=
  let s1 := { s with pins := { s.pins with inReset := false, forced := false, portMap := i.portMap, linkUp := i.linksUp, portWords := i.portWords } }
  (s1.at i.timebase).bootFuses i

/-- RESET_RELEASE: the die releases reset (R501). -/
def execResetRelease (info : ReleaseInfo) (s : State) : Host.Outcome State Fault Refusal :=
  if s.pins.powered && s.pins.inReset && !s.pins.forced then .next (s.leaveReset info) else .next s

/-- FORCED_RESET_RELEASE: a forced reset releases itself (R524). -/
def execForcedResetRelease (info : ReleaseInfo) (s : State) : Host.Outcome State Fault Refusal :=
  if s.pins.powered && s.pins.inReset && s.pins.forced then .next (s.leaveReset info) else .next s

/-- The sequence stands at a FUSE stall. -/
def State.fuseStall (s : State) : Bool := decide (s.boot.step = 2) && decide (s.boot.stall = 1)

/-- A write to RK_FUSE_MIRROR: REREAD reads the fuses again; at a FUSE stall it repeats step 2 (R506). -/
def State.regFuse (s : State) (u : Bool) (v : W64) (i : ReleaseInfo) : State :=
  if !bit v 63 then s
  else if !u then s.lockViolation
  else if s.fuseStall then
    (if i.fuseAgree then { s with boot := { s.boot with state := stBooting } } else s).bootFuses i
  else s.readFuses i

/-- FUSE_REREAD: RK_FUSE_MIRROR written with REREAD 1; it acts at a FUSE stall although the block is in ERROR there. -/
def execFuseReread (req : Requester) (info : ReleaseInfo) (s : State) : Host.Outcome State Fault Refusal :=
  .next (s.busWrite req none s.fuseStall false (fun u s => s.regFuse u (setBit 0 63 true) info))

/-! ## Microcode (R507 to R509) -/

/-- A write to RK_MC_CTL: GO starts a load in step 5 while none runs; any other GO is ignored and sets BAD_GO. -/
def State.regMcCtl (s : State) (u : Bool) (v : W64) : State :=
  if !bit v 31 then s
  else if !u then s.lockViolation
  else if s.boot.step = 5 && !s.boot.mcBusy then
    { s with boot := { s.boot with mcBusy := true, mcAttempts := satInc s.boot.mcAttempts, state := stBooting, stall := 0, detail := 0, bp := 0 } }
  else { s with boot := { s.boot with mcBadGo := true } }

/-- MC_GO: RK_MC_CTL written with GO 1 (R507). -/
def execMcGo (req : Requester) (value : W32) (s : State) : Host.Outcome State Fault Refusal :=
  .next (s.globalWrite req (fun u s => s.regMcCtl u ((setBit value 31 true).setWidth 64)))

/-- The REASON of R509 for an image at an address, 0 where it is good. -/
def State.mcReasonOf (s : State) (c : McCheck) : BitVec 4 :=
  let a := 4096 * s.boot.mcAddr.toNat
  let rd := fun b n => s.mem.num (a + b) n
  let len := rd 8 4
  match c with
  | .readError => 6
  | _ =>
    if rd 0 4 ≠ 0x31434D52 then 1
    else if rd 4 1 ≠ 1 then 2
    else if len % 4096 ≠ 0 || decide (len < 8192) || decide (1048576 < len) || rd 5 1 / 4 ≠ 0 || rd 6 2 ≠ 0 || rd 24 40 ≠ 0 then 3
    else if crc32 (crcHole (s.mem.read a len)) ≠ rd 12 4 then 4
    else if (BitVec.ofNat 2 (rd 5 1)) &&& (fld s.caps 0 2) = 0 then 5
    else match c with | .verifyFailed => 7 | _ => 0

/-- MC_LOAD_DONE: the image is checked, stored and verified; step 5 ends, or the block is HELD (R507). -/
def execMcLoadDone (check : McCheck) (s : State) : Host.Outcome State Fault Refusal :=
  if !s.live || s.errored || !s.boot.mcBusy then .next s
  else
    let r := s.mcReasonOf check
    let s1 := { s with boot := { s.boot with mcBusy := false, mcReason := r } }
    if r ≠ 0 then
      .next ((({ s1 with boot := { s1.boot with state := stHeld } }).stall 5 (r.setWidth 32)).setBp (if r = 7 then 10000 else bpOpen 5 (r.setWidth 32)))
    else
      let a := 4096 * s.boot.mcAddr.toNat
      let s2 := { s1 with boot := { s1.boot with mcStore := Mem.write [] 0 (s.mem.read a (s.mem.num (a + 8) 4)) } }
      .next ((s2.bootStep 6).stall 6 0)

/-! ## The lock (R486, R491) -/

/-- RK_UNLOCK.KEY written: the key opens the lock; any other value closes it and is counted. -/
def State.regUnlock (s : State) (key : W32) : State :=
  if key = 0x7EA5D0C5 then { s with csr := { s.csr with unlocked := .all true } }
  else { s with csr := { s.csr with unlocked := .all false, badKey := satInc s.csr.badKey } }

/-- UNLOCK: a write of RK_UNLOCK.KEY; it acts in ERROR too (R513). -/
def execUnlock (req : Requester) (key : W32) (s : State) : Host.Outcome State Fault Refusal :=
  .next (s.busWrite req none true false (fun _ s => s.regUnlock key))

/-- UNLOCK_TIMEOUT: 2,048 cycles without a management write (R486). -/
def execUnlockTimeout (s : State) : Host.Outcome State Fault Refusal :=
  if s.live then .next { s with csr := { s.csr with unlocked := .all false } } else .next s

/-! ## The voter (R485) -/

/-- A copy struck. -/
def Tri.strike {α : Type} (t : Tri α) (c : Fin 3) (f : α → α) : Tri α :=
  if c = 0 then { t with a := f t.a } else if c = 1 then { t with b := f t.b } else { t with c := f t.c }

/-- All three copies differ. -/
def Tri.split {α : Type} [DecidableEq α] (t : Tri α) : Bool := decide (t.a ≠ t.b) && decide (t.a ≠ t.c) && decide (t.b ≠ t.c)

/-- The three copies agree. -/
def Tri.agree {α : Type} [DecidableEq α] (t : Tri α) : Bool := decide (t.a = t.b) && decide (t.b = t.c)

/-- The copies in force of a partition-table word changed. -/
def State.onPtab (s : State) (p : PartId) (w : Fin 4) (f : Tri W64 → Tri W64) : State :=
  let x := (s.cfg.ptab[p])[w]
  { s with cfg := { s.cfg with ptab := s.cfg.ptab.set p (s.cfg.ptab[p].set w { x with force := f x.force }) } }

/-- The copies of the shadow of a partition-table word changed. -/
def State.onPtabShadow (s : State) (p : PartId) (w : Fin 4) (f : Tri W64 → Tri W64) : State :=
  let x := (s.cfg.ptab[p])[w]
  { s with cfg := { s.cfg with ptab := s.cfg.ptab.set p (s.cfg.ptab[p].set w { x with shadow := f x.shadow }) } }

/-- An upset of one copy of a voted item. -/
def State.upset (s : State) (u : Upset) : State :=
  match u.item with
  | .ptab p w => s.onPtab p w (fun t => t.strike u.copy (· ^^^ u.flip))
  | .ptabShadow p w => s.onPtabShadow p w (fun t => t.strike u.copy (· ^^^ u.flip))
  | .ownBase => { s with fwd := { s.fwd with ownBase := s.fwd.ownBase.strike u.copy (· ^^^ fld u.flip 0 51) } }
  | .ownEpoch => { s with fwd := { s.fwd with epoch := s.fwd.epoch.strike u.copy (· ^^^ fld u.flip 0 32) } }
  | .caddySel => { s with cfg := { s.cfg with sel := s.cfg.sel.strike u.copy (· ^^^ fld u.flip 0 2) } }
  | .unlocked => { s with csr := { s.csr with unlocked := s.csr.unlocked.strike u.copy (fun b => b != bit u.flip 0) } }
  | .caps => { s with boot := { s.boot with caps := s.boot.caps.strike u.copy (· ^^^ fld u.flip 0 32) } }

/-- A vote that corrects a copy is counted (R485, R512). -/
def State.voted (s : State) (item : Nat) : State :=
  ({ s with csr := { s.csr with voteCorr := satInc s.csr.voteCorr, voteLast := BitVec.ofNat 4 item } }).errCorrected

/-- A vote with three different copies (R485, R493). -/
def State.voteFailed (s : State) (item : Nat) : State :=
  ({ s with csr := { s.csr with voteFail := true, voteLast := BitVec.ofNat 4 item } }).doIf (!s.csr.voteFail && s.csr.voteIrq) (·.irqBlock 6)

/-- A vote on one item: agreement, a correction that `put` stores, or failure with its outcome. -/
def State.vote {α : Type} [DecidableEq α] (s : State) (item : Nat) (t : Tri α) (put : State → Tri α → State) (lost : State → State) : State :=
  if t.agree then s
  else if t.split then lost (s.voteFailed item)
  else (put s (.all t.get)).voted item

/-- A vote on a partition-table word in force, on its shadow, and on each other voted item (the table of R485). -/
def State.votePtabW (s : State) (p : PartId) (w : Fin 4) : State :=
  s.vote 0 ((s.cfg.ptab[p])[w]).force (fun s t => s.onPtab p w (fun _ => t)) (·.errBlock 0x0E 0)

def State.votePtabShadow (s : State) (p : PartId) (w : Fin 4) : State :=
  s.vote 0 ((s.cfg.ptab[p])[w]).shadow (fun s t => s.onPtabShadow p w (fun _ => t)) (·.errBlock 0x0E 0)

def State.voteOwnBase (s : State) : State :=
  s.vote 1 s.fwd.ownBase (fun s t => { s with fwd := { s.fwd with ownBase := t } }) (·.errBlock 0x0E 1)

def State.voteEpoch (s : State) : State :=
  s.vote 2 s.fwd.epoch (fun s t => { s with fwd := { s.fwd with epoch := t } }) (·.errBlock 0x0E 2)

def State.voteSel (s : State) : State :=
  s.vote 3 s.cfg.sel (fun s t => { s with cfg := { s.cfg with sel := t } }) (·.errBlock 0x0E 3)

def State.voteLock (s : State) : State :=
  s.vote 4 s.csr.unlocked (fun s t => { s with csr := { s.csr with unlocked := t } }) (fun s => { s with csr := { s.csr with unlocked := .all false } })

/-- A vote on RK_CAPS; where its copies all differ the fuses are read again, which find `fuses`. -/
def State.voteCaps (s : State) (fuses : W32) : State :=
  s.vote 5 s.boot.caps (fun s t => { s with boot := { s.boot with caps := t } }) (fun s => { s with boot := { s.boot with caps := .all fuses } })

/-- Every word of the partition table, in force and shadow. -/
def State.votePtab (s : State) : State :=
  allParts.foldl (fun (s : State) (p : PartId) => (List.finRange 4).foldl (fun (s : State) (w : Fin 4) =>
    (s.votePtabW p w).votePtabShadow p w) s) s

/-- VOTE_SCRUB: the voted fields are voted (R485); `refuse` is what the fuses read where all three copies of RK_CAPS differ. -/
def execVoteScrub (upsets : List Upset) (refuse : W32) (s : State) : Host.Outcome State Fault Refusal :=
  if !s.live || s.errored then .next s
  else .next (((upsets.foldl State.upset s).votePtab.voteOwnBase.voteEpoch.voteSel.voteLock).voteCaps (capsOf refuse))

end Sys2Proof.Machine
end

