-- ==== Sys2Proof/Machine/Move.lean ====
section
/-!
DEFINITION. Sys2Proof/Machine/Move.lean: the MOVE engine's COPY and RESIDENCY (R66, R340, R451).
-/

namespace Sys2Proof.Machine

/-! ## COPY (R451) -/

/-- Bytes of the chunk of a copy at an offset: it ends at a 4 KiB boundary of the destination. -/
def chunkLen (dst total off : Nat) : Nat := min (4096 - (dst + off) % 4096) (total - off)

/-- One chunk copied. -/
def State.copyChunk (s : State) (p : PartId) (src dst n : Nat) : Acc State :=
  match s.vread p src n with
  | .bad x => .bad x
  | .ok b => s.vwrite p dst b

/-- How far a copy gets: the state, the bytes of the prefix that is written, and the access that failed. -/
structure Copied where
  s    : State
  done : Nat
  bad  : Option Xfault

/-- Chunks in ascending order from an offset until the end or a fault; `f` bounds their number. -/
def State.copyFrom (s : State) (p : PartId) (src dst total : Nat) : Nat → Nat → Copied
  | 0, off => ⟨s, off, none⟩
  | f + 1, off =>
    if total ≤ off then ⟨s, off, none⟩
    else
      let n := chunkLen dst total off
      match s.copyChunk p (src + off) (dst + off) n with
      | .bad x => ⟨s, off, some x⟩
      | .ok s1 => s1.copyFrom p src dst total f (off + n)

/-- Chunks behind a faulting one that were in flight finish, as far as they do not fault themselves. -/
def State.copyBehind (s : State) (p : PartId) (src dst total : Nat) : Nat → Nat → State
  | 0, _ => s
  | f + 1, off =>
    if total ≤ off then s
    else
      let n := chunkLen dst total off
      (match s.copyChunk p (src + off) (dst + off) n with | .ok s1 => s1 | .bad _ => s).copyBehind p src dst total f (off + n)

/-- The running command of an opcode in a queue, else the next one begun. -/
def State.runOrBegin (s : State) (q : QueueId) (op : Nat) : Option Cmd :=
  match (s.queue q).cmds.find? (fun c => c.phase == .running && opOf c.raw == op && !c.parked) with
  | some c => if s.works (s.qPart q) then some c else none
  | none => s.beginning q op

/-- COPY: from the bytes already written on; `inFlight` chunks behind a faulting one were under way. -/
def execCopy (q : QueueId) (inFlight : Nat) (env : Env) (s : State) : Host.Outcome State Fault Refusal :=
  let s := s.at env.t
  match s.runOrBegin q 0x30 with
  | none => .next s
  | some c =>
    let p := s.qPart q
    let r : CmdRef := ⟨q, c.seq⟩
    let src := rb c.raw 8 8
    let dst := rb c.raw 16 8
    let total := rb c.raw 24 8
    let x := (s.updCmd r (fun y => { y with phase := .running })).copyFrom p src dst total (total / 4096 + 2) c.done
    let s1 := (x.s.updCmd r (fun y => { y with done := x.done })).noteWrite (.command r) p [(dst + c.done, x.done - c.done)]
    match x.bad with
    | none => .next (s1.finishOk r)
    | some e =>
      let s2 := s1.copyBehind p src dst total (min inFlight 63) (x.done + chunkLen dst total x.done)
      .next (s2.fault env p 0 e 0 (s2.cmdCtx r 6) (.command q c.seq))

/-! ## RESIDENCY (R340) -/

/-- The bytes of a bitmap from byte `b0` with the bits of pages `lo` to `hi - 1` set to a value. -/
def markPages (b0 lo hi : Nat) (v : Bool) (bs : List Byte) : List Byte :=
  (List.range bs.length).map (fun i => (List.range 8).foldl (fun (b : Byte) k =>
    let n := 8 * (b0 + i) + k
    if lo ≤ n && n < hi then setBit b k v else b) (bs.getD i 0))

/-- RESIDENCY: the pages' bits in the map; pages beyond the window end the command with BAD_FIELD. -/
def execResidency (q : QueueId) (env : Env) (s : State) : Host.Outcome State Fault Refusal :=
  let s := s.at env.t
  match s.beginning q 0x31 with
  | none => .next s
  | some c =>
    let p := s.qPart q
    let r : CmdRef := ⟨q, c.seq⟩
    let base := 2 ^ 40 * (s.part p).winBase.force.toNat
    let va := rb c.raw 8 8
    let pages := rb c.raw 16 4
    if va < base || decide (base + 2 ^ 40 < va + 65536 * pages) then .next (s.finish r stBadField)
    else
      let lo := (va - base) / 65536
      let hi := lo + pages
      let b0 := lo / 8
      let map := 4096 * (s.part p).mapAddr.force.toNat + b0
      let bad := fun e => Host.Outcome.next (s.fault env p 0 e 0 (s.cmdCtx r 6) (.command q c.seq))
      match s.vread p map ((hi + 7) / 8 - b0) with
      | .bad e => bad e
      | .ok bs => match s.vwrite p map (markPages b0 lo hi (rb c.raw 20 1 == 0) bs) with
        | .bad e => bad e
        | .ok s1 => .next ((s1.noteWrite (.command r) p [(map, bs.length)]).finishOk r)

end Sys2Proof.Machine
end

