-- ==== Sys2Proof/Machine/SetMem.lean ====
section
/-!
DEFINITION. Sys2Proof/Machine/SetMem.lean: the Setter's memory instructions (R285 to R297): loads, stores, atomics, locks, fences, barriers.
-/

namespace Sys2Proof.Machine

/-! ## Addresses (R285) -/

/-- Bytes of an access width. -/
def widthBytes : MemWidth → Nat
  | .w8 => 1 | .w16 => 2 | .w32 => 4 | .w64 => 8 | .w128 => 16

/-- Where one lane's access goes: local store of a block, by its number and offset, or a physical address. -/
inductive Cell where
  | loc (block off : Nat)
  | mem (pa : Nat)
deriving DecidableEq, Repr

/-- How the addresses of an instruction resolve. -/
inductive Cells where
  | ok (l : List (Fin 32 × Cell))
  | trap (code : Nat)
  | fault (x : Xfault)
deriving DecidableEq, Repr

/-- The address of a lane: 64 bits in global memory, 32 bits in local store. -/
def laneAddr (x : Group) (sp : Space) (a : Src) (l : Fin 32) : Nat :=
  match sp with
  | .global => (a.val64 x l).toNat
  | .loc => (a.val x l).toNat

/-- The block of a rank in a group's cluster set. -/
def State.rankBlock (s : State) (x : Group) (rank : Nat) : Option Block :=
  s.blocksAll.find? (fun b => decide (b.set = s.setOf x.block) && b.rank == rank)

/-- A local-store address: reserved bits, rank and offset (R285). -/
def State.localCell (s : State) (x : Group) (va : Nat) : Option Cell :=
  let rank := nfld va 19 2
  let off := nfld va 0 19
  if va / 2 ^ 21 ≠ 0 || decide (x.prog.cluster ≤ rank) || decide (x.prog.localBytes ≤ off) then none
  else (s.rankBlock x rank).map (fun b => .loc b.id off)

/-- The lanes' addresses resolved in ascending lane order, their alignment already checked. -/
def State.resolve (s : State) (x : Group) (sp : Space) (k : AccKind) (a : Src) : List (Fin 32) → Cells
  | [] => .ok []
  | l :: r =>
    let va := laneAddr x sp a l
    let rest := fun c => match s.resolve x sp k a r with
      | .ok q => .ok ((l, c) :: q)
      | e => e
    match sp with
    | .loc => match s.localCell x va with
      | none => .trap 4
      | some c => rest c
    | .global => match s.translate x.part k va with
      | .bad e => .fault e
      | .ok pa => rest (.mem pa)

/-- The cells of an access of `n` bytes a lane: MISALIGNED where any active lane's address is not a multiple of `n`. -/
def State.cells (s : State) (x : Group) (sp : Space) (k : AccKind) (n : Nat) (a : Src) : Cells :=
  if x.lanes.any (fun l => laneAddr x sp a l % n != 0) then .trap 3 else s.resolve x sp k a x.lanes

/-! ## Reading and writing cells -/

/-- `n` bytes of a cell. -/
def State.cellNum (s : State) (c : Cell) (n : Nat) : Nat :=
  match c with
  | .loc b off => s.locNum b off n
  | .mem pa => s.mem.num pa n

/-- `n` bytes of a cell written. -/
def State.cellPut (s : State) (c : Cell) (n v : Nat) : State :=
  match c with
  | .loc b off => s.locPut b off n v
  | .mem pa => s.poke pa (leBytes n v)

/-! ## What a core sees of memory (R287, R288) -/

/-- A byte of memory as a core sees it: the byte its groups have stored last and that others do not see yet lies over memory. -/
def State.coreByte (s : State) (c : CoreId) (a : Nat) : Byte :=
  match s.setter.pend.reverse.find? (fun e => decide (e.core = c) && e.pa == a) with
  | some e => e.value
  | none => BitVec.ofNat 8 (s.mem.num a 1)

/-- `n` bytes of memory as a core sees them. -/
def State.coreNum (s : State) (c : CoreId) (pa n : Nat) : Nat :=
  if s.setter.pend.isEmpty then s.mem.num pa n else packN ((List.range n).map (fun i => (8, (s.coreByte c (pa + i)).toNat)))

/-- The bytes of a store wait for its group's fence or end, behind older ones (R288). -/
def State.pendStore (s : State) (g : GroupRef) (x : Group) (pa n v : Nat) : State :=
  let new := (List.range n).map (fun i => (⟨s.ret.nextWrite, g.core, x.block, x.inBlock, pa + i, BitVec.ofNat 8 (v / 256 ^ i), false, false⟩ : PendStore))
  { s with setter := { s.setter with pend := s.setter.pend ++ new } }

/-- What a core still holds back of some cells reaches memory, before an atomic there. -/
def State.drainCells (s : State) (c : CoreId) (n : Nat) (l : List (Fin 32 × Cell)) : State :=
  let hit := fun (e : PendStore) => decide (e.core = c) && l.any (fun k => match k.2 with | .mem pa => decide (pa ≤ e.pa) && decide (e.pa < pa + n) | .loc _ _ => false)
  (s.setter.pend.filter hit).foldl (fun s e => s.poke e.pa [e.value])
    { s with setter := { s.setter with pend := s.setter.pend.filter (fun e => !hit e) } }

/-! ## L1 (R287) -/

/-- The line of a physical address in a core's L1. -/
def State.l1Line (s : State) (c : CoreId) (p : PartId) (line : Nat) : Option (BitVec 1024) :=
  ((s.core c).l1.find? (fun e => decide (e.1 = p) && e.2.1 == line)).map (·.2.2)

/-- A line read from memory joins the L1 in place of what it held of that line. -/
def State.l1Fill (s : State) (c : CoreId) (p : PartId) (line : Nat) : State :=
  let d := BitVec.ofNat 1024 (s.coreNum c (128 * line) 128)
  let co := s.core c
  s.setCore c { co with l1 := (p, line, d) :: co.l1.filter (fun e => !(decide (e.1 = p) && e.2.1 == line)) }

/-- A store updates the L1 line it hits. -/
def State.l1Store (s : State) (c : CoreId) (p : PartId) (pa n v : Nat) : State :=
  let co := s.core c
  let sh := 8 * (pa % 128)
  let mask : BitVec 1024 := BitVec.ofNat 1024 ((2 ^ (8 * n) - 1) * 2 ^ sh)
  s.setCore c { co with l1 := co.l1.map (fun e =>
    if e.1 = p && e.2.1 = pa / 128 then (e.1, e.2.1, (e.2.2 &&& ~~~mask) ||| BitVec.ofNat 1024 (v % 2 ^ (8 * n) * 2 ^ sh)) else e) }

/-- A load of one cell: local store; memory for NC; else the L1 line, which is filled from memory where it is not held or, by `hit`, no longer. -/
def State.cellLoad (s : State) (core : CoreId) (p : PartId) (nc hit : Bool) (c : Cell) (n : Nat) : Nat × State :=
  match c with
  | .loc b off => (s.locNum b off n, s)
  | .mem pa =>
    if nc then (s.coreNum core pa n, s)
    else match (if hit then s.l1Line core p (pa / 128) else none) with
      | some d => (nfld d.toNat (8 * (pa % 128)) (8 * n), s)
      | none => (s.coreNum core pa n, s.l1Fill core p (pa / 128))

/-- The loads of the lanes in turn. -/
def State.loadAll (s : State) (core : CoreId) (p : PartId) (nc hit : Bool) (n : Nat) : List (Fin 32 × Cell) → List (Nat × Nat) × State
  | [] => ([], s)
  | (l, c) :: r =>
    let a := s.cellLoad core p nc hit c n
    let b := a.2.loadAll core p nc hit n r
    ((l.val, a.1) :: b.1, b.2)

/-- Registers that a value of `n` bytes takes. -/
def regsOf (n : Nat) : Nat := cdiv n 4

/-- A vector register operand of `n` bytes exists: a pair and a quad begin at an even number. -/
def vfits (x : Group) (n reg : Nat) : Bool := decide (reg + regsOf n ≤ x.prog.vregs) && (decide (n ≤ 4) || reg % 2 == 0)

/-- Loaded values written, zero-extended, word by word. -/
def Group.putWords (x : Group) (dst n : Nat) (vals : List (Nat × Nat)) : Group :=
  (List.range (regsOf n)).foldl (fun (y : Group) k =>
    y.setV (dst + k) (fun l => (assocGet l.val vals).map (fun v => BitVec.ofNat 32 (v / 2 ^ (32 * k))))) x

/-- LOAD (R280, R285, R287). -/
def execLoad (g : GroupRef) (space : Space) (w : MemWidth) (nc l1 : Bool) (dst : Nat) (addr : Src) (check : Check) (env : Env) (s : State) :
    Host.Outcome State Fault Refusal :=
  .next ((s.at env.t).instr g env check (fun s x =>
    let n := widthBytes w
    if !vfits x n dst || !addr.fits x (decide (space = .global)) then .trap 2
    else match s.cells x space .read n addr with
      | .trap c => .trap c
      | .fault e => .fault e
      | .ok l =>
        let r := s.loadAll g.core x.part nc l1 n l
        .done (r.2.put g (x.putWords dst n r.1))))

/-- The value of `n` bytes that a lane stores. -/
def Group.storeVal (x : Group) (src n : Nat) (l : Fin 32) : Nat :=
  packN ((List.range (regsOf n)).map (fun k => (32, (x.vreg (src + k) l).toNat))) % 2 ^ (8 * n)

/-- One lane's store: through the L1 toward memory, or to local store. -/
def State.storeCell (s : State) (g : GroupRef) (x : Group) (c : Cell) (n v : Nat) : State :=
  match c with
  | .loc _ _ => s.cellPut c n v
  | .mem pa => (s.pendStore g x pa n v).l1Store g.core x.part pa n v

/-- A store or atomic instruction that reached memory is outstanding until it is acknowledged (R288). -/
def State.owesAck (s : State) (g : GroupRef) (x : Group) (space : Space) (addr : Src) (n : Nat) (l : List (Fin 32 × Cell)) : State :=
  if space = .global && !l.isEmpty then
    (s.updGroup g (fun y => { y with stores := y.stores + 1 })).noteWrite (.group g.core g.slot) x.part (l.map (fun e => (laneAddr x space addr e.1, n)))
  else s

/-- STORE: the lanes' stores in ascending order (R280, R285, R287, R288). -/
def execStore (g : GroupRef) (space : Space) (w : MemWidth) (src : Nat) (addr : Src) (check : Check) (env : Env) (s : State) :
    Host.Outcome State Fault Refusal :=
  .next ((s.at env.t).instr g env check (fun s x =>
    let n := widthBytes w
    if !vfits x n src || !addr.fits x (decide (space = .global)) then .trap 2
    else match s.cells x space .write n addr with
      | .trap c => .trap c
      | .fault e => .fault e
      | .ok l =>
        let s1 := l.foldl (fun s e => s.storeCell g x e.2 n (x.storeVal src n e.1)) s
        .done (s1.owesAck g x space addr n l)))

/-! ## Atomics (R290, R291) -/

/-- The new value of one atomic on `n` bits; CAS compares with `a` and stores `b`. -/
def atomNew (op : AtomOp) (n old a b : Nat) : Nat :=
  let lt := fun x y => decide (sext n x < sext n y)
  match op with
  | .addI => (old + a) % 2 ^ n
  | .addF => old
  | .minI => if lt a old then a else old
  | .maxI => if lt old a then a else old
  | .minU => min old a
  | .maxU => max old a
  | .and => old &&& a
  | .or => old ||| a
  | .xor => old ^^^ a
  | .exch => a
  | .cas => if old = a then b else old

/-- The lanes' integer and bitwise atomics in ascending lane order: what each receives. -/
def State.atomRun (s : State) (op : AtomOp) (bytes : Nat) (v : Fin 32 → Nat × Nat) : List (Fin 32 × Cell) → List (Nat × Nat) × State
  | [] => ([], s)
  | (l, c) :: r =>
    let old := s.cellNum c bytes
    let q := (s.cellPut c bytes (atomNew op (8 * bytes) old (v l).1 (v l).2)).atomRun op bytes v r
    ((l.val, old) :: q.1, q.2)

/-- The distinct cells, in the order of their lowest lanes. -/
def distinctCells : List (Fin 32 × Cell) → List Cell
  | [] => []
  | (_, c) :: r => c :: (distinctCells r).filter (fun d => decide (d ≠ c))

/-- The prefix sums of some FP32 operands: before each one the sum of those before it (none for the first), and the whole sum. -/
def prefixSums (o : Ovf) : Option Fl → List W32 → List (Option Fl) × Option Fl
  | acc, [] => ([], acc)
  | acc, a :: r =>
    let nxt := match acc with | none => (⟨a, false, false⟩ : Fl) | some t => flAdd o t.v a
    let q := prefixSums o (some nxt) r
    (acc :: q.1, q.2)

/-- FP32 ADD on one address: the operands summed in ascending lane order, the old value plus the sum rounded once, each lane the old value
plus its prefix rounded once. What the lanes receive, and the additions made. -/
def State.fpAtomCell (s : State) (o : Ovf) (c : Cell) (ops : List (Fin 32 × W32)) : List (Nat × Nat) × List (Nat × Fl) × State :=
  let old := BitVec.ofNat 32 (s.cellNum c 4)
  let p := prefixSums o none (ops.map (·.2))
  let ret := (ops.zip p.1).map (fun e => (e.1.1.val, match e.2 with | none => old.toNat | some t => (flAdd o old t.v).v.toNat))
  let first := (ops.head?.map (fun e => e.1.val)).getD 0
  match p.2 with
  | none => ([], [], s)
  | some t =>
    let fin := flAdd o old t.v
    (ret, (p.1.filterMap id ++ [t, fin]).map (fun f => (first, f)), s.cellPut c 4 fin.v.toNat)

/-- FP32 ADD on every address of the lanes. -/
def State.fpAtoms (s : State) (o : Ovf) (l : List (Fin 32 × Cell)) (v : Fin 32 → W32) : List Cell → List (Nat × Nat) × List (Nat × Fl) × State
  | [] => ([], [], s)
  | c :: r =>
    let a := s.fpAtomCell o c ((l.filter (fun e => decide (e.2 = c))).map (fun e => (e.1, v e.1)))
    let b := a.2.2.fpAtoms o l v r
    (a.1 ++ b.1, a.2.1 ++ b.2.1, b.2.2)

/-- ATOMIC: performed at the memory or the local store; every active lane receives what lane order gives it (R290, R291). -/
def execAtomic (g : GroupRef) (op : AtomOp) (wide : Bool) (space : Space) (dst : Nat) (addr a b : Src) (check : Check) (env : Env) (s : State) :
    Host.Outcome State Fault Refusal :=
  .next ((s.at env.t).instr g env check (fun s x =>
    let n := if wide then 8 else 4
    let fp := decide (op = .addF)
    if !vfits x n dst || !addr.fits x (decide (space = .global)) || !a.fits x wide || !b.fits x wide || (fp && wide) then .trap 2
    else match s.cells x space .atomic n addr with
      | .trap c => .trap c
      | .fault e => .fault e
      | .ok l =>
        if fp then
          let r := (s.drainCells g.core n l).fpAtoms (ovfOf x.ovf) l (fun k => a.val x k) (distinctCells l)
          let inv := (r.2.1.filter (fun e => e.2.inv)).map (·.1)
          .done ((r.2.2.put g ((s.report x inv (r.2.1.filter (fun e => e.2.ovf)).length).putWords dst 4 r.1)).owesAck g x space addr n l)
        else
          let r := (s.drainCells g.core n l).atomRun op n (fun k => (a.num x wide k, b.num x wide k)) l
          .done ((r.2.put g (x.putWords dst n r.1)).owesAck g x space addr n l)))

/-! ## Locks (R292 to R295) -/

/-- The word of a lock held by a lane. -/
def lockWord (g : GroupRef) (l : Fin 32) : Nat := packN [(5, l.val), (4, g.slot.val), (4, g.core.val), (18, 0), (1, 1)]

/-- One lane of LOCKACQ after those below it: its status; an address already won in this instruction answers LOCK_SELF. -/
def State.lockRun (s : State) (g : GroupRef) : List (Fin 32 × Cell) → List (Nat × Nat) × State
  | [] => ([], s)
  | (l, c) :: r =>
    let w := s.cellNum c 4
    let st := if w = 0 then 0 else if w / 32 = lockWord g 0 / 32 then 2 else 1
    let q := (if w = 0 then s.cellPut c 4 (lockWord g l) else s).lockRun g r
    ((l.val, st) :: q.1, q.2)

/-- The spin counter of a group that issues LOCKACQ `steps` steps after its counter was last brought up to date, by a LOCKACQ or by a READ or WRITE
of its state (R311); for `stood` of them it was HALTED or SAVED itself, or another group of its partition was HALTED (R295). -/
def Group.spinNow (x : Group) (steps stood : Nat) : Option Nat := x.spin.map (fun n => n + (steps - stood))

/-- LOCKACQ: a status for each active lane; a spin counter above SPIN_LIMIT traps instead. -/
def execLockacq (g : GroupRef) (dst : Nat) (space : Space) (addr : Src) (steps stood : Nat) (check : Check) (env : Env) (s : State) :
    Host.Outcome State Fault Refusal :=
  .next ((s.at env.t).instr g env check (fun s x =>
    let spin := x.spinNow steps stood
    let lim := 1024 * (s.part x.part).spinLimit.force.toNat
    if !vfits x 4 dst || !addr.fits x (decide (space = .global)) then .trap 2
    else if decide (lim ≠ 0) && decide (lim < spin.getD 0) then .stop (s.put g { x with spin := spin }) 8
    else match s.cells x space .atomic 4 addr with
      | .trap c => .trap c
      | .fault e => .fault e
      | .ok l =>
        let r := (s.drainCells g.core 4 l).lockRun g l
        let won := r.1.any (fun e => e.2 == 0)
        let lost := r.1.any (fun e => e.2 != 0)
        let sp := if lost then some (if won then 0 else spin.getD 0) else if won then none else spin
        .done ((r.2.put g ({ x with spin := sp }.putWords dst 4 r.1)).owesAck g x space addr 4 l)))

/-- The lanes' releases in ascending order. -/
def State.unlockRun (s : State) (g : GroupRef) : List (Fin 32 × Cell) → List (Nat × Nat) × State
  | [] => ([], s)
  | (l, c) :: r =>
    let mine := decide (s.cellNum c 4 = lockWord g l)
    let q := (if mine then s.cellPut c 4 0 else s).unlockRun g r
    ((l.val, if mine then 0 else 3) :: q.1, q.2)

/-- LOCKREL: writes 0 to a lock that names the lane, else returns NOT_HELD (R294). -/
def execLockrel (g : GroupRef) (dst : Nat) (space : Space) (addr : Src) (check : Check) (env : Env) (s : State) : Host.Outcome State Fault Refusal :=
  .next ((s.at env.t).instr g env check (fun s x =>
    if !vfits x 4 dst || !addr.fits x (decide (space = .global)) then .trap 2
    else match s.cells x space .atomic 4 addr with
      | .trap c => .trap c
      | .fault e => .fault e
      | .ok l =>
        let r := (s.drainCells g.core 4 l).unlockRun g l
        .done ((r.2.put g (x.putWords dst 4 r.1)).owesAck g x space addr 4 l)))

/-! ## Fences (R288) -/

/-- FENCE.SYS: the group waits until its stores and atomics are acknowledged; with none outstanding they are visible to all and the core's L1
is invalidated at once. -/
def execFenceSys (g : GroupRef) (check : Check) (s : State) : Host.Outcome State Fault Refusal :=
  .next (s.instr g s.env0 check (fun s x =>
    if x.stores ≠ 0 then .hold s .fence
    else
      let s1 := s.loosen x.block x.inBlock
      .done (s1.setCore g.core { s1.core g.core with l1 := [] })))

/-- FENCE.BLK: local store accesses of one machine are in order already. -/
def execFenceBlk (g : GroupRef) (check : Check) (s : State) : Host.Outcome State Fault Refusal := .next (s.instr g s.env0 check (fun s _ => .done s))

/-- FENCE.CLU: as FENCE.BLK, for the cluster set. -/
def execFenceClu (g : GroupRef) (check : Check) (s : State) : Host.Outcome State Fault Refusal := .next (s.instr g s.env0 check (fun s _ => .done s))

/-! ## Barriers (R296, R297) -/

/-- One more arrival at a barrier. -/
def arrive (b : Nat) (l : List (Nat × Nat)) : List (Nat × Nat) := assocPut b (arrivals l b + 1) l

/-- BAR: the group arrives with its full mask, or in part where its header allows; absent lanes may not come later. -/
def execBar (g : GroupRef) (b : Fin 16) (t : Nat) (check : Check) (s : State) : Host.Outcome State Fault Refusal :=
  .next ((s.at t).instr g (s.at t).env0 check (fun s x =>
    let full := x.launch &&& ~~~x.exited
    let others := x.bars.filter (fun r => decide (r.bar ≠ b))
    let go := fun bars => Ran.hold (s.put g { x with arrived := arrive b.val x.arrived, bars := bars }) (.bar b)
    if x.active = full then go others
    else if x.bars.any (fun r => decide (r.bar = b) && decide (r.absent &&& x.active ≠ 0)) then .trap 7
    else if x.prog.barPartialOk then go (⟨b, full &&& ~~~x.active⟩ :: others)
    else .trap 6))

/-- BAR.CLU: the group arrives at a barrier of its cluster set. -/
def execBarClu (g : GroupRef) (b : Fin 4) (check : Check) (s : State) : Host.Outcome State Fault Refusal :=
  .next (s.instr g s.env0 check (fun s x => .hold (s.put g { x with cluArr := arrive b.val x.cluArr }) (.barClu b)))

end Sys2Proof.Machine
end

