-- ==== Sys2Proof/Machine/Tex.lean ====
section
/-!
DEFINITION. Sys2Proof/Machine/Tex.lean: texture sampling (R140, R338, R339, R341): TEX and TEXLOD.
-/

namespace Sys2Proof.Machine

/-! ## Descriptors and levels (R140, R338) -/

/-- A texture descriptor, 32 B as a number. -/
structure TexDesc where
  raw : Nat
deriving DecidableEq, Repr

def TexDesc.base (d : TexDesc) : Nat := by_ d.raw 0 8
def TexDesc.width (d : TexDesc) : Nat := by_ d.raw 8 2
def TexDesc.height (d : TexDesc) : Nat := by_ d.raw 10 2
def TexDesc.levels (d : TexDesc) : Nat := by_ d.raw 12 1
def TexDesc.fmt (d : TexDesc) : Nat := by_ d.raw 13 1
def TexDesc.filter (d : TexDesc) : Nat := by_ d.raw 14 1 % 4
def TexDesc.wrapU (d : TexDesc) : Nat := by_ d.raw 15 1 % 4
def TexDesc.wrapV (d : TexDesc) : Nat := by_ d.raw 15 1 / 4 % 4

/-- The descriptor keeps R338. -/
def TexDesc.ok (d : TexDesc) : Bool :=
  d.base % 4096 == 0 && decide (d.base < 2 ^ 57)
    && decide (1 ≤ d.width) && decide (d.width ≤ 16384) && decide (1 ≤ d.height) && decide (d.height ≤ 16384)
    && decide (1 ≤ d.levels) && decide (d.levels ≤ 15) && decide (d.levels ≤ 1 + Nat.log2 (max d.width d.height))
    && decide (d.fmt ≤ 4) && decide (by_ d.raw 14 1 ≤ 2) && decide (by_ d.raw 15 1 < 16) && decide (d.wrapU ≠ 3) && decide (d.wrapV ≠ 3)
    && by_ d.raw 16 16 == 0

/-- Texel size in bytes, and bits of the tile's width and height in texels. -/
def TexDesc.shape (d : TexDesc) : Nat × Nat × Nat :=
  match d.fmt with
  | 0 => (1, 6, 6)
  | 1 => (2, 6, 5)
  | 2 => (4, 5, 5)
  | 3 => (8, 5, 4)
  | _ => (16, 4, 4)

/-- Size of a level. -/
def TexDesc.levelW (d : TexDesc) (m : Nat) : Nat := max 1 (d.width / 2 ^ m)
def TexDesc.levelH (d : TexDesc) (m : Nat) : Nat := max 1 (d.height / 2 ^ m)

/-- Tiles of a row of a level, and of the level. -/
def TexDesc.tileCols (d : TexDesc) (m : Nat) : Nat := cdiv (d.levelW m) (2 ^ d.shape.2.1)
def TexDesc.tiles (d : TexDesc) (m : Nat) : Nat := d.tileCols m * cdiv (d.levelH m) (2 ^ d.shape.2.2)

/-- Where a level begins. -/
def TexDesc.levelVa (d : TexDesc) (m : Nat) : Nat := d.base + 4096 * ((List.range m).map d.tiles).sum

/-- The Morton index of a texel in a tile `h` bits high: x in the even places, y in the odd; what x has above stands above. -/
def morton (h x y : Nat) : Nat :=
  ((List.range h).map (fun i => nfld x i 1 * 4 ^ i + nfld y i 1 * 2 * 4 ^ i)).sum + x / 2 ^ h * 4 ^ h

/-- The address of a texel. -/
def TexDesc.texelVa (d : TexDesc) (m x y : Nat) : Nat :=
  let w := d.shape.2.1
  let h := d.shape.2.2
  d.levelVa m + (y / 2 ^ h * d.tileCols m + x / 2 ^ w) * 4096 + morton h (x % 2 ^ w) (y % 2 ^ h) * d.shape.1

/-- A channel of eight bits: value ÷ 255 to nearest. -/
def unorm (v : Nat) : W32 := BitVec.ofNat 32 (Fmt.fp32.div .near .quiet (Val.ofNat (v % 256)) (Val.ofNat 255)).1

/-- R, G, B, A of a texel's bytes; absent channels 0, alpha 1.0. -/
def TexDesc.rgba (d : TexDesc) (v : Nat) : List W32 :=
  match d.fmt with
  | 0 => [unorm v, 0, 0, fOne]
  | 1 => [half32 (v % 65536), 0, 0, fOne]
  | 2 => (List.range 4).map (fun k => unorm (by_ v k 1))
  | 3 => (List.range 4).map (fun k => half32 (by_ v (2 * k) 2))
  | _ => (List.range 4).map (fun k => canon32 (BitVec.ofNat 32 (by_ v (4 * k) 4)))

/-! ## Coordinates and levels of detail (R339) -/

/-- The integer at or below a finite value. -/
def Val.floorInt (v : Val) : Int :=
  match v with
  | .fin n m e =>
    let x : Int := if n then -(m : Int) else m
    if 0 ≤ e then x * 2 ^ e.toNat else x / 2 ^ (-e).toNat
  | _ => 0

/-- The texel coordinates along one axis that a sample takes: the nearest, or the two around u × W − 0.5. -/
def axisTexels (bilinear : Bool) (u : W32) (w : Nat) : List Int :=
  let t := (v32 u).mul (Val.ofNat w)
  let i := if t.isFin then Val.floorInt (if bilinear then t.sub (centre 0) else t) else Config.texCoord u
  if bilinear then [i, i + 1] else [i]

/-- A texel coordinate brought into a level: repeat, clamp to edge, mirror. -/
def wrapTexel (mode w : Nat) (i : Int) : Nat :=
  if mode = 0 then (i % w).toNat
  else if mode = 1 then (if i < 0 then 0 else min i.toNat (w - 1))
  else
    let j := (i % (2 * w : Nat)).toNat
    if j < w then j else 2 * w - 1 - j

/-- The texels of a sample at a level. -/
def TexDesc.texels (d : TexDesc) (m : Nat) (u v : W32) : List (Nat × Nat) :=
  let bi := decide (d.filter ≠ 0)
  (axisTexels bi v (d.levelH m)).flatMap (fun y => (axisTexels bi u (d.levelW m)).map (fun x =>
    (wrapTexel d.wrapU (d.levelW m) x, wrapTexel d.wrapV (d.levelH m) y)))

/-- The levels a sample takes: one, or two around a trilinear level of detail. -/
def TexDesc.picks (d : TexDesc) (lod : W32) : List Nat :=
  let top := d.levels - 1
  let x := v32 lod
  if x.isNan then [Config.texLevel lod % d.levels]
  else if x.lt Val.zero || x.isZero then [0]
  else if x.isInf || !x.lt (Val.ofNat top) then [top]
  else
    let m := (Val.floorInt x).toNat
    if x.eq (Val.ofNat m) then [m]
    else if d.filter = 2 then [m, m + 1]
    else [m + Config.texLevel lod % 2]

/-! ## Samples (R339, R341) -/

/-- What a lane's sample gives: R, G, B, A and the lane status. -/
structure Sample where
  rgba   : List W32
  nonres : Bool
  inv    : Bool
deriving DecidableEq, Repr

/-- The fallback texel (R355). -/
def State.fallback (s : State) (p : PartId) : List W32 := (List.range 4).map (fun k => half32 (fldN (s.part p).texFallback (16 * k) 16))

/-- Every texel of a list is in a resident page. -/
def State.texResident (s : State) (p : PartId) (d : TexDesc) (c : FaultCtx) : List (Nat × Nat × Nat) → Bool × State
  | [] => (true, s)
  | (m, x, y) :: r =>
    let a := s.resident p (d.texelVa m x y) c
    if a.1 then a.2.texResident p d c r else a

/-- The texels of a list, read; their lines pass through the NC (R339). -/
def State.texRead (s : State) (p : PartId) (d : TexDesc) : List (Nat × Nat × Nat) → Acc (List (List W32) × State)
  | [] => .ok ([], s)
  | (m, x, y) :: r => match s.vnum p (d.texelVa m x y) d.shape.1 with
    | .bad e => .bad e
    | .ok v => match (s.ncTouch p (d.texelVa m x y / 128)).texRead p d r with
      | .bad e => .bad e
      | .ok q => .ok (d.rgba v :: q.1, q.2)

/-- The places of a sample at some levels. -/
def TexDesc.places (d : TexDesc) (u v : W32) (ms : List Nat) : List (Nat × Nat × Nat) := ms.flatMap (fun m => (d.texels m u v).map (fun t => (m, t.1, t.2)))

/-! ## Filtering in FP32 (R339) -/

/-- A product added to a value with one rounding. -/
def flFma (a b c : W32) : Fl :=
  let v := ((v32 a).mul (v32 b)).add (v32 c)
  ⟨r32 .near v, v.isNan && !isNan32 a && !isNan32 b && !isNan32 c, false⟩

/-- `a` and `b` weighted by 1 − f and f: the forms that FP32 filtering leaves open, by number. -/
def lerpBy (form : Nat) (f a b : W32) : W32 × List Fl :=
  let q := Ovf.quiet
  let d := flSub q b a
  let g := flSub q fOne f
  let ag := flMul q a g.v
  let bf := flMul q b f
  match form with
  | 0 => let m := flMul q f d.v
         let t := flAdd q a m.v
         (t.v, [d, m, t])
  | 1 => let t := flFma f d.v a
         (t.v, [d, t])
  | 2 => let t := flAdd q ag.v bf.v
         (t.v, [g, ag, bf, t])
  | 3 => let t := flFma b f ag.v
         (t.v, [g, ag, t])
  | _ => let t := flFma a g.v bf.v
         (t.v, [g, bf, t])

/-- The weight of the upper of the two texels around u × W − 0.5. -/
def axisFrac (u : W32) (w : Nat) : W32 :=
  let t := ((v32 u).mul (Val.ofNat w)).sub (centre 0)
  if t.isFin then r32 .near (t.sub (Val.ofInt (Val.floorInt t))) else Config.texFrac u

/-- One channel of a level: the texel, or the four texels (x0, y0), (x1, y0), (x0, y1), (x1, y1) filtered along one axis and then the
other. -/
def levelChan (pick : Nat) (fx fy : W32) (ts : List W32) : W32 × List Fl :=
  match ts with
  | [a, b, c, d] =>
    let form := pick / 2 % 5
    let one := fun f x y => lerpBy form f x y
    let h := if pick % 2 = 0 then (one fx a b, one fx c d) else (one fy a c, one fy b d)
    let r := one (if pick % 2 = 0 then fy else fx) h.1.1 h.2.1
    (r.1, h.1.2 ++ h.2.2 ++ r.2)
  | a :: _ => (a, [])
  | [] => (0, [])

/-- The channel of a sample from the texels of its levels: one level, or two weighted by the fraction of the level of detail. -/
def sampleChan (d : TexDesc) (pick : Nat) (u v lod : W32) (ms : List Nat) (ts : List W32) : W32 × List Fl :=
  let per := if d.filter = 0 then 1 else 4
  let at_ := fun (k m : Nat) => levelChan pick (axisFrac u (d.levelW m)) (axisFrac v (d.levelH m)) ((ts.drop (per * k)).take per)
  match ms with
  | [m, n] =>
    let x := at_ 0 m
    let y := at_ 1 n
    let f := flSub Ovf.quiet lod (r32 .near (Val.ofNat m))
    let r := lerpBy (pick / 2 % 5) f.v x.1 y.1
    (r.1, x.2 ++ y.2 ++ [f] ++ r.2)
  | m :: _ => at_ 0 m
  | [] => (0, [])

/-- The filtered sample of some levels: FP32 operations in one of the orders that R339 leaves open. -/
def State.texSample (s : State) (p : PartId) (d : TexDesc) (u v lod : W32) (ms : List Nat) (nonres : Bool) : Acc (Sample × State) :=
  match s.texRead p d (d.places u v ms) with
  | .bad e => .bad e
  | .ok (ts, s1) =>
    let pick := Config.filterOrder [BitVec.ofNat 32 (d.raw / 2 ^ 64), u, v, lod]
    let cs := (List.range 4).map (fun k => sampleChan d pick u v lod ms (ts.map (fun t => t.getD k 0)))
    .ok (⟨cs.map (·.1), nonres, cs.any (fun c => c.2.any (·.inv))⟩, s1)

/-- One sample (R338, R339, R341). -/
def State.sample (s : State) (p : PartId) (c : FaultCtx) (d : TexDesc) (u v lod : W32) : Acc (Sample × State) :=
  if !d.ok then .ok (⟨s.fallback p, false, true⟩, s)
  else
    let l := d.places u v (d.picks lod)
    let a := s.texResident p d c l
    if a.1 then a.2.texSample p d u v lod (d.picks lod) false
    else
      let l2 := d.places u v [d.levels - 1]
      let b := a.2.texResident p d c l2
      if b.1 then b.2.texSample p d u v lod [d.levels - 1] true else .ok (⟨s.fallback p, true, false⟩, b.2)

/-- The samples of some lanes in turn: the descriptor of each lane is read at its address. -/
def State.samples (s : State) (p : PartId) (c : FaultCtx) (desc : Fin 32 → Nat) (u v : Fin 32 → W32) (lod : Fin 32 → TexDesc → W32) :
    List (Fin 32) → Acc (List (Fin 32 × Sample) × State)
  | [] => .ok ([], s)
  | l :: r => match s.vnum p (desc l) 32 with
    | .bad e => .bad e
    | .ok raw => match s.sample p c ⟨raw⟩ (u l) (v l) (lod l ⟨raw⟩) with
      | .bad e => .bad e
      | .ok (x, s1) => match s1.samples p c desc u v lod r with
        | .bad e => .bad e
        | .ok (q, s2) => .ok ((l, x) :: q, s2)

/-- NONRESIDENT and INVALID reach what the group serves: the rays, or the tile (R330, R341). -/
def State.texMarks (s : State) (x : Group) (l : List (Fin 32 × Sample)) : State :=
  let non := l.filter (fun e => e.2.nonres)
  match x.work with
  | .rays _ _ rays => non.foldl (fun s e => match rays[e.1.val]? with | some i => s.rayNonres i | none => s) s
  | .call _ _ _ _ => s
  | .frag u k serial _ _ => match s.tile? u k with
    | some t =>
      if t.serial ≠ serial || x.cmd ≠ some t.cmd then s
      else
        let t1 := if non.isEmpty then t else t.mark 1
        s.setTile u k (some (if l.any (fun e => e.2.inv) then t1.mark 0 else t1))
    | none => s

/-- The five registers a lane receives. -/
def Sample.regs (x : Sample) : List W32 := x.rgba ++ [BitVec.ofNat 32 (packN [(1, if x.nonres then 1 else 0), (1, if x.inv then 1 else 0)])]

/-- TEX and TEXLOD at a level of detail by lane. -/
def State.texInstr (s : State) (g : GroupRef) (check : Check) (env : Env) (dst : Nat) (desc u v lod : Src)
    (f : Group → Fin 32 → TexDesc → W32) : State :=
  (s.at env.t).instr g env check (fun s x =>
    if !x.prog.usesTex || decide (x.prog.vregs < dst + 5) || !desc.fits x true || !u.fits x false || !v.fits x false || !lod.fits x false then .trap 2
    else match s.samples x.part { State.groupCtx g x with source := 7 } (fun l => (desc.val64 x l).toNat) (u.val x) (v.val x) (f x) x.lanes with
      | .bad e => .fault e
      | .ok (l, s1) =>
        let y := (List.range 5).foldl (fun (y : Group) k => y.setV (dst + k) (fun i =>
          (l.find? (fun e => decide (e.1 = i))).map (fun e => e.2.regs.getD k 0))) (s.report x ((l.filter (fun e => e.2.inv)).map (·.1.val)) 0)
        .done ((s1.texMarks x l).put g y))

/-- The lanes of a lane's 2 × 2 quad in the layout of R326. -/
def quadLanes (l : Fin 32) : List (Fin 32) :=
  let b := l.val / 16 * 16 + l.val % 8 / 2 * 2
  [b, b + 1, b + 8, b + 9].map (fun i => (BitVec.ofNat 5 i).toFin)

/-- The level of detail TEX takes: from the quads of a fragment group, 0 in every other role. -/
def texLodOf (x : Group) (u v : Src) (l : Fin 32) (d : TexDesc) : W32 :=
  match x.work with
  | .frag _ _ _ _ _ => Config.texLod ((quadLanes l).flatMap (fun k => [u.val x k, v.val x k]) ++ [BitVec.ofNat 32 d.width, BitVec.ofNat 32 d.height])
  | _ => 0

/-- TEX. -/
def execTex (g : GroupRef) (dst : Nat) (desc u v : Src) (check : Check) (env : Env) (s : State) : Host.Outcome State Fault Refusal :=
  .next (s.texInstr g check env dst desc u v (.imm 0) (fun x => texLodOf x u v))

/-- TEXLOD. -/
def execTexlod (g : GroupRef) (dst : Nat) (desc u v lod : Src) (check : Check) (env : Env) (s : State) : Host.Outcome State Fault Refusal :=
  .next (s.texInstr g check env dst desc u v lod (fun x l _ => lod.val x l))

end Sys2Proof.Machine
end

