-- ==== Sys2Proof/Machine/SetDbg.lean ====
section
/-!
DEFINITION. Sys2Proof/Machine/SetDbg.lean: RK_SET_GRPCMD and its operations on single groups (R304, R306, R310, R311).
-/

namespace Sys2Proof.Machine

/-- STATE of R299. -/
def gstateCode : GState → Nat
  | .free => 0 | .running => 1 | .waiting => 2 | .halted => 3 | .trapped => 4 | .saved => 5

/-- BAD_CMD is set and nothing else happens (R306). -/
def State.badGroupCmd (s : State) (p : PartId) : State := s.updPart p (fun x => { x with badCmd := true })

/-- HALT: a RUNNING or WAITING group becomes HALTED, its rays HALT_WAIT; a HALTED or TRAPPED one is left alone. -/
def State.haltGroup (s : State) (p : PartId) (g : GroupRef) (x : Group) : State :=
  match x.state with
  | .running => (s.put g { x with state := .halted, stepping := false }).rayHalt x true
  | .waiting => (s.put g { x with state := .halted, stepping := false }).rayHalt x true
  | .halted => s
  | .trapped => s
  | _ => s.badGroupCmd p

/-- The group goes on where it stood: RUNNING, or WAITING while what it waits for has not come. -/
def Group.goOn (x : Group) (step : Bool) : Group := { x with state := if x.wait = .none then .running else .waiting, stepping := step }

/-- RESUME and STEP of a HALTED group. -/
def State.resumeGroup (s : State) (p : PartId) (g : GroupRef) (x : Group) (step : Bool) : State :=
  if x.state = .halted then (s.put g (x.goOn step)).rayHalt x false else s.badGroupCmd p

/-- RESTART of a group TRAPPED by another code than MEM_FAULT: it issues the trapping instruction again, its spin counter cleared. -/
def State.restartGroup (s : State) (p : PartId) (g : GroupRef) (x : Group) : State :=
  if x.state = .trapped && decide (x.trap ≠ 1) then
    (s.unpark (fun w => decide (w = Parked.group g.core g.slot))).put g { x with state := .running, spin := none, wait := .none }
  else s.badGroupCmd p

/-- END of a HALTED or TRAPPED group (R304). -/
def State.endCmd (s : State) (p : PartId) (g : GroupRef) (x : Group) : State :=
  if x.state = .halted || x.state = .trapped then s.endGroup g x else s.badGroupCmd p

/-- The word that RK_SET_DBG_ADDR names (R311); none where INDEX lies beyond what the group has. -/
def State.dbgWord (s : State) (x : Group) (space : BitVec 2) (i : Nat) : Option W32 :=
  if space = 0 then (if i / 32 < x.prog.vregs then some (x.vreg (i / 32) (BitVec.ofNat 5 i).toFin) else none)
  else if space = 1 then (if i < x.prog.sregs then some (x.sreg i) else none)
  else if space = 2 then
    match i with
    | 0 => some x.pc
    | 1 => some x.active
    | 2 => some x.launch
    | 3 => some (BitVec.ofNat 32 (gstateCode x.state))
    | 4 => some (BitVec.ofNat 32 (x.spin.getD 0))
    | 5 => some (BitVec.ofNat 32 x.trap.toNat)
    | _ => none
  else if i < x.prog.localBytes && i % 4 = 0 then some (BitVec.ofNat 32 (s.locNum x.block i 4))
  else none

/-- The word that RK_SET_DBG_ADDR names, written; none where it is read-only or not there. -/
def State.dbgPut (s : State) (g : GroupRef) (x : Group) (space : BitVec 2) (i : Nat) (w : W32) : Option State :=
  if space = 0 then
    (if i / 32 < x.prog.vregs then some (s.put g (x.setV (i / 32) (fun l => if l.val = i % 32 then some w else none))) else none)
  else if space = 1 then (if i < x.prog.sregs then some (s.put g (x.setS i w)) else none)
  else if space = 2 then
    match i with
    | 0 => some (s.put g { x with pc := w })
    | 1 => some (s.put g { x with active := w })
    | 2 => some (s.put g { x with launch := w })
    | 4 => some (s.put g { x with spin := some w.toNat })
    | _ => none
  else if i < x.prog.localBytes && i % 4 = 0 then some (s.locPut x.block i 4 w.toNat)
  else none

/-- READ of a HALTED or TRAPPED group. -/
def State.readGroup (s : State) (p : PartId) (x : Group) : State :=
  if x.state = .halted || x.state = .trapped then
    match s.dbgWord x (s.part p).dbgSpace (s.part p).dbgIndex.toNat with
    | some w => s.updPart p (fun y => { y with dbgData := w })
    | none => s.badGroupCmd p
  else s.badGroupCmd p

/-- WRITE of a HALTED or TRAPPED group. -/
def State.writeGroup (s : State) (p : PartId) (g : GroupRef) (x : Group) : State :=
  if x.state = .halted || x.state = .trapped then
    (s.dbgPut g x (s.part p).dbgSpace (s.part p).dbgIndex.toNat (s.part p).dbgData).getD (s.badGroupCmd p)
  else s.badGroupCmd p

/-- READ or WRITE of a HALTED or TRAPPED group under the check of the word it uses, where `uses`: an uncorrectable one ends the group (R305),
a corrected one is counted. -/
def State.checked (s : State) (g : GroupRef) (x : Group) (uses : Bool) (check : Check) (f : State → State) : State :=
  if (x.state = .halted || x.state = .trapped) && uses then
    match check with
    | .ok => f s
    | .corrected => f s.errCorrected
    | .failed => s.containGroup g x
  else f s

/-- The spin counter brought up to date: it has counted `n` steps since it last was (R295). -/
def Group.counted (x : Group) (n : Nat) : Group := { x with spin := x.spin.map (· + n) }

/-- READ and WRITE bring the spin counter of their group up to date; `steps` are those it counted before it stood. -/
def State.countSpin (s : State) (g : GroupRef) (v : W32) (steps : Nat) : State :=
  match s.group? g with
  | some x => if (x.state = .halted || x.state = .trapped) && (fldN v 0 4 == 6 || fldN v 0 4 == 7) then s.put g (x.counted steps) else s
  | none => s

/-- RK_SET_GRPCMD written: the operation on the group of a core and slot, if it is one of the partition's. -/
def State.regGrpCmd (s : State) (p : PartId) (v : W32) (steps : Nat) (check : Check) : State :=
  let g : GroupRef := ⟨(fld v 20 4).toFin, (fld v 16 4).toFin⟩
  match s.group? g with
  | none => s.badGroupCmd p
  | some y =>
    if y.part ≠ p then s.badGroupCmd p
    else
      let s := s.countSpin g v steps
      let x := (s.group? g).getD y
      match fldN v 0 4 with
      | 1 => s.haltGroup p g x
      | 2 => s.resumeGroup p g x false
      | 3 => s.resumeGroup p g x true
      | 4 => s.restartGroup p g x
      | 5 => s.endCmd p g x
      | 6 => s.checked g x (s.dbgWord x (s.part p).dbgSpace (s.part p).dbgIndex.toNat).isSome check (·.readGroup p x)
      | 7 => s.checked g x (s.dbgPut g x (s.part p).dbgSpace (s.part p).dbgIndex.toNat 0).isSome check (·.writeGroup p g x)
      | _ => s.badGroupCmd p

/-- RK_SET_GRPCMD of a page written with an operation. -/
def State.grpCmdRow (s : State) (req : Requester) (p : PartId) (value : W32) (op : W32) (steps : Nat) (check : Check) : State :=
  s.pageWrite req p (fun s => s.regGrpCmd p ((value &&& ~~~0xF#32) ||| op) steps check)

/-- HALT (R306). -/
def execHalt (req : Requester) (p : PartId) (value : W32) (s : State) : Host.Outcome State Fault Refusal := .next (s.grpCmdRow req p value 1 0 .ok)
/-- RESUME (R306). -/
def execResume (req : Requester) (p : PartId) (value : W32) (s : State) : Host.Outcome State Fault Refusal := .next (s.grpCmdRow req p value 2 0 .ok)
/-- STEP (R306). -/
def execStepGroup (req : Requester) (p : PartId) (value : W32) (s : State) : Host.Outcome State Fault Refusal := .next (s.grpCmdRow req p value 3 0 .ok)
/-- RESTART (R304). -/
def execRestart (req : Requester) (p : PartId) (value : W32) (s : State) : Host.Outcome State Fault Refusal := .next (s.grpCmdRow req p value 4 0 .ok)
/-- END (R304). -/
def execEndGroup (req : Requester) (p : PartId) (value : W32) (s : State) : Host.Outcome State Fault Refusal := .next (s.grpCmdRow req p value 5 0 .ok)
/-- READ (R311). -/
def execGroupRead (req : Requester) (p : PartId) (value : W32) (steps : Nat) (check : Check) (s : State) : Host.Outcome State Fault Refusal :=
  .next (s.grpCmdRow req p value 6 steps check)
/-- WRITE (R311). -/
def execGroupWrite (req : Requester) (p : PartId) (value : W32) (steps : Nat) (check : Check) (s : State) : Host.Outcome State Fault Refusal :=
  .next (s.grpCmdRow req p value 7 steps check)

end Sys2Proof.Machine
end

