-- ==== Sys2Proof/Machine/Splat.lean ====
section
/-!
DEFINITION. Sys2Proof/Machine/Splat.lean: the forward pass (R315, R318 to R332): SPLAT_FWD begins a command and bins its passes, PARK_GRANT
grants depth parking, TILE_LOAD takes a tile and its fragments, TILE_RESOLVE writes it.
-/

namespace Sys2Proof.Machine

/-! ## Commands and their tiles (R321) -/

/-- Tile rows of a band: at most 65,536 tiles. -/
def bandRows (raw : Slot64) : Nat := max 1 (65536 / max 1 (spW raw))

/-- The tiles of the band that begins at a tile row, row-major. -/
def bandTiles (d : Desc) (raw : Slot64) (row : Nat) : List Nat :=
  (List.range (min (bandRows raw) (spY0 raw + spH raw - row))).flatMap (fun j =>
    (List.range (spW raw)).map (fun i => (row + j) * d.tileCols + spX0 raw + i))

/-- Bin entries (R313). -/
def binCap : Nat := 1572864

/-- Entries of a pass. -/
def Pass.entries (v : Pass) : Nat := (v.bins.map (fun b => b.2.length)).sum

/-- The entries of a tile. -/
def Pass.bin (v : Pass) (t : Nat) : List (W32 × Nat) := (assocGet t v.bins).getD []

/-- A pass begins over some tiles. -/
def State.beginPass (s : State) (r : CmdRef) (f : Pass → Pass) : State :=
  match s.pass? r with
  | none => s
  | some v =>
    let y : Pass := f v
    let z : Pass := { y with phase := .binning, todo := [], prim := 0, bins := [], parked := [], granted := 0, passes := v.passes + 1 }
    (s.updPass r (fun _ => z)).updPart v.part (fun x => { x with passes := satInc x.passes })

/-- A SPLAT command begins: its first band begins, a PRESENT command's once its summary copies are granted (R347). A command whose
admission a fault had parked reads its descriptor first. -/
def State.beginSplat (s : State) (env : Env) (q : QueueId) (c : Cmd) : State :=
  let p := s.qPart q
  let r : CmdRef := ⟨q, c.seq⟩
  if zeroRect c.raw then s.finishOk r
  else match assocGet 0 c.descs with
    | none => s.readTarget env q c
    | some d =>
      if c.presents && s.summaryWaits p then s
      else
        let v : Pass := ⟨r, p, c.cls, d, spY0 c.raw, .binning, [], [], [], 0, [], [], 0, 0, 0xFFFFFFFF, 0, 0, []⟩
        let s1 := { s with vis := { s.vis with passes := s.vis.passes ++ [v] } }
        (s1.updCmd r (fun x => { x with phase := .running })).beginPass r (fun v => { v with active := bandTiles d c.raw (spY0 c.raw) })

/-! ## Binning (R318 to R320, R331) -/

/-- The tiles of the active set that a primitive covers. -/
def Pass.covers (v : Pass) (tri : Bool) (rec : Nat) : List Nat :=
  let b := recBox tri rec
  v.active.filter (fun t => boxMeets b (t % v.target.tileCols) (t / v.target.tileCols))

/-- An entry appended to each of some tiles' lists. -/
def Pass.place (v : Pass) (key : W32) (i : Nat) (ts : List Nat) : Pass :=
  { v with bins := ts.foldl (fun b t => assocPut t ((assocGet t b).getD [] ++ [(key, i)]) b) v.bins }

/-- Where the binning of a pass stops. -/
inductive Binned where
  | done (s : State) (v : Pass)
  | full (s : State) (v : Pass)
  | fault (s : State) (v : Pass) (x : Xfault)

/-- A rejected primitive (R319): counted, with its report, in the command's first pass. -/
def State.reject (s : State) (v : Pass) (seq : W32) : State × Pass :=
  if v.passes = 1 then
    ((s.updPart v.part (fun x => { x with badPrims := satInc x.badPrims })).fpInvalids v.part [⟨fsOther, 0, 0, seq.toNat⟩],
      { v with badPrims := v.badPrims + 1, firstBad := if v.badPrims = 0 then seq else v.firstBad })
  else (s, v)

/-- Bin entries that the other passes hold (R313). -/
def State.binOthers (s : State) (r : CmdRef) : Nat := ((s.vis.passes.filter (fun v => decide (v.cmd ≠ r))).map (fun v => v.entries)).sum

/-- A primitive covers no tile of the command's rectangle (R318). -/
def outside (raw : Slot64) (rec : Nat) : Bool :=
  let b := recBox (spTri raw) rec
  boxFinite b && !rectMeets b (spX0 raw) (spY0 raw) (spW raw) (spH raw)

/-- Primitives are binned from the pass's next one, at most `n`; with `cap` false nothing overflows (SPLAT_BWD counts first). -/
def State.binFrom (s : State) (raw : Slot64) (cap : Bool) : Nat → Pass → Binned
  | 0, v => .done s v
  | n + 1, v =>
    match s.splatRec v.part raw v.prim with
    | .bad x => .fault s v x
    | .ok rec =>
      let tri := spTri raw
      let nxt := fun (s : State) (v : Pass) => s.binFrom raw cap n { v with prim := v.prim + 1 }
      if recSkip tri rec || recFlat tri rec || outside raw rec then nxt s v
      else if !recFinite tri rec then
        let a := s.reject v (BitVec.ofNat 32 (rb raw 20 4 + v.prim))
        nxt a.1 a.2
      else
        let ts := v.covers tri rec
        if cap && decide (binCap < s.binOthers v.cmd + v.entries + ts.length) then .full s v
        else nxt s (v.place (recKey tri rec) v.prim ts)

/-- Tiles of the active set that hold entries. -/
def Pass.held (v : Pass) : List Nat := v.active.filter (fun t => !(v.bin t).isEmpty)

/-- A forward pass bins until its last primitive or an overflow: the first of a pass waits for parking, a later one renders partially what the
pass holds; a pass that holds nothing, since others fill bin memory, goes on binning later. -/
def State.binPass (s : State) (env : Env) (q : QueueId) (c : Cmd) (v : Pass) : State :=
  let r : CmdRef := ⟨q, c.seq⟩
  match s.binFrom c.raw true (rb c.raw 16 4 - v.prim) v with
  | .done s1 y => s1.updPass r (fun _ => { y with phase := .finally_, todo := y.active })
  | .full s1 y =>
    if y.granted = 0 then
      let s2 := s1.updPass r (fun _ => { y with phase := .waiting })
      { s2 with vis := { s2.vis with parkWait := s2.vis.parkWait ++ [⟨r, v.part, v.cls, none⟩] } }
    else s1.updPass r (fun _ => if y.held.isEmpty then y else { y with phase := .partly, todo := y.held })
  | .fault s1 y x => (s1.updPass r (fun _ => y)).fault env v.part 0 x 0 (s.cmdCtx r 7) (.command q c.seq)

/-- The command of a queue whose pass is to bin. -/
def State.binning (s : State) (q : QueueId) (op : Nat) : Option (Cmd × Pass) :=
  (s.queue q).cmds.findSome? (fun c =>
    if c.phase == .running && opOf c.raw == op && !c.parked then
      match s.pass? ⟨q, c.seq⟩ with
      | some v => if v.phase = .binning then some (c, v) else none
      | none => none
    else none)

/-- SPLAT_FWD: bins the pass of the queue's running command that is binning, else begins the next command and bins its first pass. -/
def execSplatFwd (q : QueueId) (env : Env) (s : State) : Host.Outcome State Fault Refusal :=
  let s := s.at env.t
  let bin := fun (s : State) => match s.binning q 0x20 with | some (c, v) => s.binPass env q c v | none => s
  if !s.works (s.qPart q) then .next s
  else match s.binning q 0x20 with
    | some _ => .next (bin s)
    | none => match s.beginning q 0x20 with
      | none => .next s
      | some c => .next (bin (s.beginSplat env q c))

/-! ## Depth parking (R331, R332) -/

/-- The request that depth parking serves next: by priority class, then the oldest. -/
def State.nextPark (s : State) : Option ParkReq :=
  (sortBy (fun (a b : ParkReq) => decide (a.cls.toNat ≤ b.cls.toNat)) s.vis.parkWait).head?

/-- Most entries of one grant (R352). -/
def State.parkMax (s : State) (p : PartId) : Nat := let m := (s.part p).parkMax.force.toNat; if m = 0 then 4096 else min m 4096

/-- A pass gets its entries: the leading tiles become its active set, the others are deferred (R331). -/
def State.grantPass (s : State) (v : Pass) (grant : Nat) : State :=
  let a := v.active.take grant
  let b := v.active.drop grant
  let y : Pass := { v with active := a, deferred := v.deferred ++ b, granted := a.length, bins := v.bins.filter (fun e => a.contains e.1) }
  let z : Pass := if y.held.isEmpty then { y with phase := .binning } else { y with phase := .partly, todo := y.held }
  let s1 := { s with vis := { s.vis with parkUsed := s.vis.parkUsed + a.length } }
  (s1.updPass v.cmd (fun _ => z)).updPart v.part (fun x => { x with deferred := satAdd x.deferred b.length })

/-- A partition gets its two summary copies (R347). -/
def State.grantSummary (s : State) (p : PartId) (w h : Nat) : State :=
  ({ s with vis := { s.vis with parkSummary := s.vis.parkSummary + summaryNeed w h } }).updPart p (fun x => { x with summary := some (w, h) })

/-- PARK_GRANT: the first request that waits gets its entries, a pass as many as the grant gives it. -/
def execParkGrant (p : PartId) (grant : Nat) (s : State) : Host.Outcome State Fault Refusal :=
  match s.nextPark with
  | none => .next s
  | some w =>
    let s1 := s.dropParkWait (fun x => decide (x = w))
    if w.part ≠ p || !s.works p then .next s
    else match w.size with
      | some (a, b) => if s.parkFree < summaryNeed a b then .next s else .next (s1.grantSummary p a b)
      | none => match s.pass? w.cmd with
        | none => .next s1
        | some v =>
          if grant = 0 || decide (s.parkMax p < grant) || decide (s.parkFree < grant) then .next s else .next (s1.grantPass v grant)

/-! ## Tiles start (R322, R323) -/

/-- An input primitive as a tile's list brings it: its index, record, and feature row. -/
structure Prim where
  idx   : Nat
  rcd   : Nat
  feats : List W32
deriving DecidableEq, Repr

/-- The record, and with `feats` the feature row, of an input index. -/
def State.readPrim (s : State) (v : Pass) (raw : Slot64) (feats : Bool) (i : Nat) : Acc Prim :=
  let n := v.target.chans
  match s.splatRec v.part raw i with
  | .bad x => .bad x
  | .ok rec => match (if feats then s.vnum v.part (v.target.featAddr + 2 * n * i) (2 * n) else .ok 0) with
    | .bad x => .bad x
    | .ok f => .ok ⟨i, rec, if feats then (List.range n).map (fun k => half32 (by_ f (2 * k) 2)) else []⟩

/-- The primitives of a list. -/
def State.readPrims (s : State) (v : Pass) (raw : Slot64) (feats : Bool) : List (W32 × Nat) → Acc (List Prim)
  | [] => .ok []
  | (_, i) :: r => match s.readPrim v raw feats i with
    | .bad x => .bad x
    | .ok a => match s.readPrims v raw feats r with
      | .bad x => .bad x
      | .ok l => .ok (a :: l)

/-- The start state of a tile: cleared, or from the surfaces; depth +∞, or from parking. -/
def State.startTile (s : State) (v : Pass) (tri : Bool) (t : Nat) : Acc (Vector Pixel 256) :=
  let d := v.target
  let n := d.chans
  let e := d.chanBytes
  let dead := fun (w : W32) => !tri && flt w tMin
  match assocGet t v.parked, d.clear with
  | none, true => .ok (Vector.replicate 256 (Pixel.clear n))
  | parked, _ =>
    match s.vnum v.part (d.colorAddr + 256 * t * n * e) (256 * n * e), s.vnum v.part (d.transAddr + 1024 * t) 1024,
        s.vnum v.part (d.lastAddr + 1024 * t) 1024 with
    | .ok col, .ok tr, .ok la => .ok (Vector.ofFn (fun (p : Fin 256) =>
        let tw := recW tr (4 * p.val)
        ⟨(List.range n).map (fun k => let w := by_ col ((p.val * n + k) * e) e; if e = 4 then BitVec.ofNat 32 w else half32 w),
          match parked with | some l => l.getD p.val f32Inf | none => f32Inf, tw, recW la (4 * p.val), dead tw⟩))
    | .bad x, _, _ => .bad x
    | _, .bad x, _ => .bad x
    | _, _, .bad x => .bad x

/-- A tile's list in bin order (R320). -/
def binOrder (l : List (W32 × Nat)) : List (W32 × Nat) :=
  sortBy (fun a b => decide (a.1.toNat < b.1.toNat) || (decide (a.1 = b.1) && decide (a.2 ≤ b.2))) l

/-! ## Fixed-function fragments (R324, R325) -/

/-- A pixel with what its blends report. -/
abbrev PixOut := Pixel × List FpInv × Nat

/-- One primitive at one pixel, fixed-function. -/
def fixedPixel (e : TileEnv) (xy : Nat × Nat) (w : PixOut) (f : Prim) : PixOut :=
  let x := w.1
  let seq := e.seqOf f.idx
  if e.tri then
    match triAt f.rcd xy.1 xy.2 with
    | some (_, _, z) => if flt z x.depth then ({ x with depth := z, last := seq }, w.2) else w
    | none => w
  else if x.dead || !boxHolds (recBox false f.rcd) xy.1 xy.2 then w
  else
    let g := gaussAt f.rcd xy.1 xy.2
    let rep := List.replicate g.inv (⟨fsOther, 0, 0, seq.toNat⟩ : FpInv)
    match g.frag with
    | none => (x, w.2.1 ++ rep, w.2.2)
    | some a =>
      let r := blendPixel e.o f.feats a (recW f.rcd 20) seq x
      (r.1, w.2.1 ++ rep ++ reportOf seq r.2, w.2.2 + ovfCount r.2)

/-- One primitive at every pixel of a tile, fixed-function. -/
def fixedPrim (e : TileEnv) (w : TileOut) (f : Prim) : TileOut :=
  let t := w.tile
  let run := fun (p : Nat) => if e.target.inside t.tile p then fixedPixel e (e.target.pixel t.tile p) (t.px p, [], 0) f else (t.px p, [], 0)
  let all := (List.range 256).map run
  ⟨{ t with pixels := Vector.ofFn (fun (i : Fin 256) => (all.getD i.val (t.pixels[i], [], 0)).1) }, w.invs ++ all.flatMap (fun r => r.2.1),
    w.ovfs + (all.map (fun r => r.2.2)).sum⟩

/-- Every pixel of a tile inside the target has terminated: in Gaussian mode the rest of its list is not read (R329). -/
def Tile.allDead (t : Tile) (e : TileEnv) : Bool := !e.tri && (List.range 256).all (fun p => !e.target.inside t.tile p || (t.px p).dead)

/-- A fixed-function tile takes the primitives of its list in order, each read as it is reached. -/
def State.fixedTile (s : State) (v : Pass) (raw : Slot64) (e : TileEnv) : List (W32 × Nat) → TileOut → Acc TileOut
  | [], w => .ok w
  | (_, i) :: r, w =>
    if w.tile.allDead e then .ok w
    else match s.readPrim v raw (!e.tri) i with
      | .bad x => .bad x
      | .ok f => s.fixedTile v raw e r (fixedPrim e w f)

/-! ## Fragment programs (R326, R327) -/

/-- The lanes of a block that a primitive is sent to: inside the target, covered, not terminated. -/
def Tile.laneMask (t : Tile) (e : TileEnv) (rec : Nat) (b : Fin 8) : W32 :=
  (List.range 32).foldl (fun (m : W32) l =>
    let p := lanePixel b l
    let xy := e.target.pixel t.tile p
    let cov := if e.tri then (triAt rec xy.1 xy.2).isSome else boxHolds (recBox false rec) xy.1 xy.2
    setBit m l (e.target.inside t.tile p && cov && !(t.px p).dead)) 0

/-- The vector registers of a lane: pixel centre, alpha or z, barycentrics. -/
def fragRegs (tri : Bool) (rec : Nat) (xy : Nat × Nat) : List W32 :=
  let c := fun n => r32 .near (centre n)
  [c xy.1, c xy.2] ++ (if tri then match triAt rec xy.1 xy.2 with | some (b1, b2, z) => [z, b1, b2] | none => [0, 0, 0]
    else [(gaussAt rec xy.1 xy.2).frag.getD 0])

/-- The group of a block of a list position. -/
def fragGroup (v : Pass) (c : Cmd) (e : TileEnv) (g : Prog) (u : Fin 64) (k : Fin 4) (t : Tile) (pos idx rec : Nat) (b : Fin 8) (mask : W32) : Group :=
  let n := recBytes e.tri / 4
  let x := newGroup v.part c.cls c.caddy c.gen c.ovf g (rb c.raw 41 1) (.frag u k t.serial pos b) (some v.cmd) (tagField c.raw) mask
  let s4 := BitVec.ofNat 32 (packN [(16, t.tile % e.target.tileCols), (16, t.tile / e.target.tileCols)])
  let x := (((x.setS 1 (e.seqOf idx)).setS 4 s4).setS 5 (BitVec.ofNat 32 b.val)).setS 6 (BitVec.ofNat 32 idx)
  let x := (List.range n).foldl (fun (x : Group) i => x.setS (8 + i) (recW rec (4 * i))) x
  x.load ((List.range 32).map (fun l => fragRegs e.tri rec (e.target.pixel t.tile (lanePixel b l))))

/-- The blocks of a position sent to Setter cores; none where a dispatcher queue has no room. -/
def State.sendBlocks (s : State) (v : Pass) (c : Cmd) (e : TileEnv) (g : Prog) (u : Fin 64) (k : Fin 4) (t : Tile) (pos idx rec : Nat) :
    List (Fin 8 × W32) → Option State
  | [] => some s
  | (b, m) :: r =>
    let x := fragGroup v c e g u k t pos idx rec b m
    match s.pickCore c.caddy x.key with
    | none => none
    | some co => (s.enqueue co ⟨[x], 1⟩).sendBlocks v c e g u k t pos idx rec r

/-- One list position of a tile issued: its record is read, and each covered block becomes a group. -/
def State.issueOne (s : State) (v : Pass) (c : Cmd) (e : TileEnv) (g : Prog) (u : Fin 64) (k : Fin 4) (t : Tile) : Acc (Option (State × TileOut)) :=
  match t.list[t.issued]? with
  | none => .ok none
  | some (_, idx) =>
    if t.least + 64 ≤ t.issued || t.done then .ok none
    else match s.splatRec v.part c.raw idx with
      | .bad x => .bad x
      | .ok rec =>
        let bs := ((List.finRange 8).map (fun b => (b, t.laneMask e rec b))).filter (fun x => decide (x.2 ≠ 0))
        match s.sendBlocks v c e g u k t t.issued idx rec bs with
        | none => .ok none
        | some s1 =>
          let seq := e.seqOf idx
          let inv := if e.tri then [] else bs.flatMap (fun b => (bitsOf b.2 32).flatMap (fun l =>
            let xy := e.target.pixel t.tile (lanePixel b.1 l)
            List.replicate (gaussAt rec xy.1 xy.2).inv (⟨fsOther, 0, 0, seq.toNat⟩ : FpInv)))
          let fr := bs.map (fun b => (⟨t.issued, b.1, b.2, BitVec.ofNat 512 rec, none⟩ : Frag))
          let w := retireTile e { t with issued := t.issued + 1, frags := t.frags ++ fr }
          .ok (some (s1, { w with invs := inv ++ w.invs }))

/-- Positions of a tile issued while they may be, at most `n`; a record that faults ends it. -/
def State.issueTile (s : State) (v : Pass) (c : Cmd) (e : TileEnv) (g : Prog) (u : Fin 64) (k : Fin 4) : Nat → Tile → State × Option Xfault
  | 0, _ => (s, none)
  | n + 1, t => match s.issueOne v c e g u k t with
    | .bad x => (s, some x)
    | .ok none => (s, none)
    | .ok (some (s1, w)) => (s1.putTile u k v.part w).issueTile v c e g u k n (if w.invs.isEmpty then w.tile else w.tile.mark 0)

/-- A pass has a tile that a unit can take. -/
def State.tileReady (s : State) (v : Pass) : Bool :=
  !v.todo.isEmpty && (decide (v.phase = .partly) || decide (v.phase = .finally_)) && s.works v.part
    && (match s.cmd? v.cmd with | some c => !c.parked | none => false)

/-- A slot's tile has fragment work that can be issued. -/
def State.fragReady (s : State) (t : Tile) : Bool :=
  decide (t.issued < t.list.length) && decide (t.issued < t.least + 64) && !t.done && s.works t.part
    && (match s.cmd? t.cmd with | some c => !c.parked && spProg c.raw | none => false)

/-- DEADLINE tiles or fragments of a partition whose deadline is served are ready: its other tile work does not start (R343, R344). -/
def State.dlTiles (s : State) (p : PartId) : Bool :=
  s.firing p && (s.vis.passes.any (fun v => decide (v.part = p) && decide (v.cls = 0) && s.tileReady v)
    || s.vis.units.toList.any (fun u => u.toList.any (fun k => match k with
        | some t => decide (t.part = p) && decide (t.cls = 0) && s.fragReady t
        | none => false)))

/-- Tile work of a partition and class may start. -/
def State.tileGoes (s : State) (p : PartId) (cls : BitVec 2) : Bool := decide (cls = 0) || !s.dlTiles p

/-- The fragment work of a slot goes on. -/
def State.issueSlot (s : State) (env : Env) (u : Fin 64) (k : Fin 4) : State :=
  match s.tile? u k with
  | none => s
  | some t => match s.pass? t.cmd, s.cmd? t.cmd with
    | some v, some c =>
      if c.parked || !s.works v.part || !spProg c.raw || !s.tileGoes t.part t.cls then s
      else match assocGet (rb c.raw 41 1) c.progs with
        | none => s
        | some g =>
          let a := s.issueTile v c (tileEnv v c) g u k t.list.length t
          match a.2 with
          | none => a.1
          | some x => a.1.fault env v.part 0 x 0 (a.1.cmdCtx t.cmd 7) (.command t.cmd.q t.cmd.seq)
    | _, _ => s

/-! ## TILE_LOAD (R321, R322, R345) -/

/-- Some partition's deadline is ARMED or later: slot 3 takes DEADLINE tiles only. -/
def State.anyArmed (s : State) : Bool := s.parts.toList.any (fun x => decide (x.deadline.state ≠ 0))

/-- The free slot of a unit that a tile of a class may take. -/
def State.tileSlot (s : State) (u : Fin 64) (cls : BitVec 2) : Option (Fin 4) :=
  (List.finRange 4).find? (fun k => (s.tile? u k).isNone && (decide (k.val < 3) || decide (cls = 0) || !s.anyArmed))

/-- Passes whose next tile a unit can take, by class, then age. -/
def State.tilePasses (s : State) : List Pass :=
  sortBy (fun (a b : Pass) => decide (a.cls.toNat ≤ b.cls.toNat)) (s.vis.passes.filter (fun v => s.tileReady v && s.tileGoes v.part v.cls))

/-- The command of a pass ends at once: its bin entries, parking and tile slots are freed, and groups that its tiles kept at EXIT end (R328,
R330, R450). -/
def State.endSplat (s : State) (r : CmdRef) (st : W16) : State :=
  let used := match s.pass? r with | some v => v.granted | none => 0
  let s1 := { s with vis := { s.vis with
    passes := s.vis.passes.filter (fun v => decide (v.cmd ≠ r)), parkUsed := s.vis.parkUsed - used
    parkWait := s.vis.parkWait.filter (fun w => decide (w.cmd ≠ r) || w.size.isSome)
    units := s.vis.units.map (fun (u : Vector (Option Tile) 4) => u.map (fun (k : Option Tile) => match k with | some t => if t.cmd = r then none else some t | none => none)) } }
  (s1.updCmd r (fun c => { c with phase := .finished, status := st, parked := false })).acceptMore 4096

/-- An uncorrectable word of VIS, or a residue error of its address arithmetic, ends the command with CONTAINED (R330, R511). -/
def State.containSplat (s : State) (src unit : Nat) (v : Pass) : State := (s.errContained v.part src unit 0).endSplat v.cmd stContained

/-- A tile of a pass enters a slot; a fixed-function tile blends its list. -/
def State.loadTile (s : State) (env : Env) (u : Fin 64) (k : Fin 4) (v : Pass) (c : Cmd) (t : Nat) : State :=
  let e := tileEnv v c
  let l := binOrder (v.bin t)
  let bad := fun x => s.fault env v.part 0 x 0 (s.cmdCtx v.cmd 7) (.command v.cmd.q v.cmd.seq)
  match s.startTile v e.tri t with
  | .bad x => bad x
  | .ok px =>
    let tile : Tile := ⟨s.fresh, v.cmd, v.part, v.cls, t, l, px, (assocGet t v.status).getD 0, decide (v.phase = .finally_), List.replicate 64 0, [], 0⟩
    let take := fun (s : State) => { s.updPass v.cmd (fun y => { y with todo := y.todo.drop 1 }) with fresh := s.fresh + 1 }
    if spProg c.raw then (take s).putTile u k v.part (retireTile e tile)
    else match s.fixedTile v c.raw e l ⟨tile, [], 0⟩ with
      | .bad x => bad x
      | .ok w => (take s).putTile u k v.part { w with tile := { w.tile with nexts := List.replicate 64 l.length, issued := l.length } }

/-- The slots of a unit, those with DEADLINE tiles first (R343). -/
def State.slotOrder (s : State) (u : Fin 64) : List (Fin 4) :=
  let dl := fun k => match s.tile? u k with | some t => decide (t.cls = 0) | none => false
  (List.finRange 4).filter dl ++ (List.finRange 4).filter (fun k => !dl k)

/-- TILE_LOAD: a unit takes the next tile into a free slot, and the fragment work of its tiles goes on, DEADLINE fragments first. -/
def execTileLoad (unit : Fin 64) (check : Check) (env : Env) (s : State) : Host.Outcome State Fault Refusal :=
  let s := s.at env.t
  let s1 := match s.tilePasses.findSome? (fun v => (s.tileSlot unit v.cls).map (fun k => (v, k))) with
    | none => s
    | some (v, k) => match v.todo, s.cmd? v.cmd with
      | t :: _, some c =>
        if check = Check.failed then s.containSplat 9 unit.val v
        else if env.hw.addr then s.containSplat 6 unit.val v
        else (s.doIf (decide (check = Check.corrected)) State.errCorrected).loadTile env unit k v c t
      | _, _ => s
  .next (((s1.slotOrder unit).foldl (fun s k => s.issueSlot env unit k) s1).acceptMore 4096)

/-! ## TILE_RESOLVE (R316, R330, R331, R347) -/

/-- Writes in turn; none is made where one of them faults. -/
def State.vwriteAll (s : State) (p : PartId) : List (Nat × List Byte) → Acc State
  | [] => .ok s
  | (va, b) :: r => match s.vwrite p va b with
    | .bad x => .bad x
    | .ok s1 => s1.vwriteAll p r

/-- A channel in memory form. -/
def chanOut (d : Desc) (o : Ovf) (w : W32) : List Byte × Bool :=
  if d.chanBytes = 4 then (leBytes 4 (canon32 w).toNat, false)
  else
    let x := Fmt.fp16.round .near o (v32 w)
    (leBytes 2 x.1, x.2)

/-- The surface writes of a tile, and the overflows of its conversion. -/
def tileWrites (d : Desc) (o : Ovf) (t : Tile) : List (Nat × List Byte) × Nat :=
  let n := d.chans
  let e := d.chanBytes
  let ps := (List.range 256).filter (d.inside t.tile)
  let cs := ps.map (fun p => (p, (t.px p).chans.map (chanOut d o)))
  (cs.map (fun x => (d.colorAddr + (256 * t.tile + x.1) * n * e, x.2.flatMap (·.1)))
    ++ ps.flatMap (fun p => [(d.transAddr + 1024 * t.tile + 4 * p, leBytes 4 (canon32 (t.px p).trans).toNat),
        (d.lastAddr + 1024 * t.tile + 4 * p, leBytes 4 (t.px p).last.toNat)]),
    (cs.map (fun x => (x.2.filter (·.2)).length)).sum)

/-- The least depth of some pixels, as FP16 rounded toward −∞. -/
def leastDepth (l : List W32) : W16 :=
  match l with
  | [] => 0
  | a :: r => BitVec.ofNat 16 (Fmt.fp16.round .down .quiet (v32 (r.foldl (fun m x => if flt x m then x else m) a))).1

/-- The blocks of a tile in the re-projection summary. -/
def tileSummary (d : Desc) (t : Tile) : List (Nat × W16) :=
  (List.range 16).filterMap (fun b =>
    let ps := ((List.range 16).map (fun i => 16 * (4 * (b / 4) + i / 4) + 4 * (b % 4) + i % 4)).filter (d.inside t.tile)
    match ps with
    | [] => none
    | p :: _ =>
      let xy := d.pixel t.tile p
      some (xy.2 / 4 * cdiv d.width 4 + xy.1 / 4, leastDepth (ps.map (fun p => (t.px p).depth))))

/-- The header of the status area (R316). -/
def headerBytes (v : Pass) : List Byte :=
  leBytes 64 (packN [(32, v.badPrims), (32, v.firstBad.toNat), (32, v.partials), (32, v.passes), (384, 0)])

/-- A tile byte that turns its command's status into ITEM_STATUS. -/
def badByte (b : Byte) : Bool := decide (b &&& 0x1B ≠ 0)

/-- Some slot holds a tile of a command. -/
def State.tileBusy (s : State) (r : CmdRef) : Bool := s.vis.units.toList.any (fun u => u.toList.any (fun k => match k with | some t => decide (t.cmd = r) | none => false))

/-- The phase of a pass whose tiles are all dealt with ends: binning goes on, or the next pass or band begins, or the command has no more. -/
def State.passStep (s : State) (r : CmdRef) (raw : Slot64) : State :=
  match s.pass? r with
  | none => s
  | some v =>
    if !v.todo.isEmpty || s.tileBusy r then s
    else match v.phase with
      | .partly => s.updPass r (fun y => { y with phase := .binning })
      | .finally_ =>
        let row := v.row + bandRows raw
        if !v.deferred.isEmpty then s.beginPass r (fun y => { y with active := y.deferred, deferred := [] })
        else if row < spY0 raw + spH raw then s.beginPass r (fun y => { y with row := row, active := bandTiles v.target raw row })
        else { s with vis := { s.vis with passes := s.vis.passes.filter (fun y => decide (y.cmd ≠ r)) } }
      | _ => s

/-- The last tile of a command is being resolved: its header goes out with it. -/
def lastTile (c : Cmd) : Bool := decide (c.last ≤ c.done + 1)

/-- The writes of a tile's resolve: surfaces, at its final resolve the status byte, with the command's last tile the header. -/
def resolveWrites (v : Pass) (c : Cmd) (t : Tile) : List (Nat × List Byte) × Nat :=
  let d := v.target
  let w := tileWrites d (ovfOf c.ovf) t
  let st := if t.final && d.statusAddr ≠ 0 then [(d.statusAddr + 64 + t.tile, [t.status])] else []
  let hd := if t.final && lastTile c && d.statusAddr ≠ 0 then [(d.statusAddr, headerBytes v)] else []
  (w.1 ++ st ++ hd, w.2)

/-- What a resolve leaves in its pass, command and partition. -/
def State.resolved (s : State) (u : Fin 64) (k : Fin 4) (v : Pass) (c : Cmd) (t : Tile) : State :=
  let r := v.cmd
  let s1 := s.setTile u k none
  if t.final then
    let parked := decide (0 < v.granted)
    let s2 := { s1 with vis := { s1.vis with parkUsed := if parked then s1.vis.parkUsed - 1 else s1.vis.parkUsed } }
    let s3 := s2.updPass r (fun y => { y with granted := y.granted - 1, bins := assocDel t.tile y.bins })
    let s4 := s3.doIf c.presents (fun s => s.updPart v.part (fun x => { x with
      spareSummary := (tileSummary v.target t).foldl (fun l e => assocPut e.1 e.2 l) x.spareSummary }))
    (s4.passStep r c.raw).itemsDone r 1 (badByte t.status || (lastTile c && decide (0 < v.badPrims)))
  else
    let s2 := s1.updPass r (fun y => { y with
      partials := y.partials + 1, parked := assocPut t.tile (t.pixels.toList.map (·.depth)) y.parked, bins := assocDel t.tile y.bins
      status := assocPut t.tile (setBit t.status 2 true) y.status })
    (s2.updPart v.part (fun x => { x with partials := satInc x.partials })).passStep r c.raw

/-- TILE_RESOLVE: a tile whose list has retired is written and leaves its slot. -/
def execTileResolve (unit : Fin 64) (slot : Fin 4) (check : Check) (env : Env) (s : State) : Host.Outcome State Fault Refusal :=
  let s := s.at env.t
  match s.tile? unit slot with
  | none => .next s
  | some t => match s.pass? t.cmd, s.cmd? t.cmd with
    | some v, some c =>
      if c.parked || !s.works v.part || !t.done then .next s
      else if check = .failed then .next (s.containSplat 9 unit.val v)
      else
        let s1 := s.doIf (decide (check = Check.corrected)) State.errCorrected
        let w := resolveWrites v c t
        match s1.vwriteAll v.part w.1 with
        | .bad x => .next (s1.fault env v.part 0 x 0 (s1.cmdCtx t.cmd 7) (.command t.cmd.q t.cmd.seq))
        | .ok s2 => .next (((((s2.noteWrite (.command t.cmd) v.part (spansOf w.1)).fpOverflows v.part w.2)).resolved unit slot v c t).acceptMore 4096)
    | _, _ => .next s

end Sys2Proof.Machine
end

