-- ==== Sys2Proof/Machine/Build.lean ====
section
/-!
DEFINITION. Sys2Proof/Machine/Build.lean: the BUILD engine's common steps (R141, R142), and BUILD_BOX and BUILD_REFIT (R129 to R133,
R145 to R147).
-/

namespace Sys2Proof.Machine

/-! ## Steps that the BUILD commands share -/

/-- Bytes from `b` of a number replaced. -/
def putBy (v b n x : Nat) : Nat := v - by_ v b n * 256 ^ b + (x % 256 ^ n) * 256 ^ b

/-- A number of `n` bytes in one write. -/
def wr (va n v : Nat) : Nat × List Byte := (va, leBytes n v)

/-- Node unit of a kind in bytes (R121). -/
def unitBytes (isBox : Bool) : Nat := if isBox then 128 else 640

/-- The fields of a descriptor that software sets are in range, VERSION is 0x01 and the reserved bits are zero (R141); `root` says
whether ROOT's reserved bits count, which a command that writes ROOT first does not read. -/
def Desc.softOk (d : Desc) (kind : Nat) (root : Bool) : Bool :=
  d.kind == kind && d.byte 1 1 == 1 && !(if root then d.reserved else d.reservedBits)
  && d.base % 4096 == 0 && decide (d.base < 2 ^ 57)
  && d.subAddr % 64 == 0 && decide (d.subAddr < 2 ^ 57)
  && (!d.isBox || decide (d.cap ≤ 536870912))
  && (!d.isKey || ((elemBytes d.kfmt).isSome && isFin32 d.scale && flt 0 d.scale && decide (1 ≤ d.keyCap) && decide (d.keyCap ≤ 16777216)
        && (d.kfmt == 4 || (d.scaleAddr % 64 == 0 && decide (d.scaleAddr < 2 ^ 57)))))

/-- What a run of writes did: the state after those that went through, how many, and the access that failed. -/
structure Wrote where
  s   : State
  n   : Nat
  bad : Option Xfault

/-- Writes in order, up to the first that fails. -/
def State.vwriteSome (s : State) (p : PartId) : List (Nat × List Byte) → Nat → Wrote
  | [], n => ⟨s, n, none⟩
  | w :: r, n => match s.vwrite p w.1 w.2 with
    | .bad x => ⟨s, n, some x⟩
    | .ok s1 => s1.vwriteSome p r (n + 1)

/-- A BUILD command parks at its current step (R450). -/
def State.buildPark (s : State) (env : Env) (r : CmdRef) (x : Xfault) : State :=
  s.fault env (s.qPart r.q) 0 x 0 (s.cmdCtx r 5) (.command r.q r.seq)

/-- What the engine leaves in its scratch area (R141): the bytes of the list that lie in the area. -/
def scratchWrites (c : Cmd) (size : Nat) (l : List (Nat × Byte)) : List (Nat × List Byte) :=
  let a := rb c.raw 32 8
  (l.filter (fun x => decide (a ≤ x.1) && decide (x.1 < a + size))).map (fun x => (x.1, [x.2]))

/-- The first writes of a command that replaces the hierarchy (R142): ROOT empty, STALE clear. -/
def emptyFirst (dst : Nat) (d : Desc) : List (Nat × List Byte) :=
  [wr (dst + 4) 4 0xFFFFFFFF, wr (dst + 2) 1 (d.byte 2 1 / 2 * 2)]

/-- The items that some writes complete (R144): each mark is the number of writes it takes and the items done with it. -/
def itemsAt (marks : List (Nat × Nat)) (n : Nat) : Nat := ((marks.filter (fun m => decide (m.1 ≤ n))).map (·.2)).sum

/-- The marks of runs of writes behind `at_` others: per run its writes and its items. -/
def runMarks : Nat → List (Nat × Nat) → List (Nat × Nat)
  | _, [] => []
  | at_, (w, i) :: r => (at_ + w, i) :: runMarks (at_ + w) r

/-- A BUILD command that has passed its checks parks with some items done, never fewer than it has shown (R77); if it is aborted its hierarchy at `dst` is left as R142 says. -/
def State.buildHalt (s : State) (env : Env) (r : CmdRef) (dst done : Nat) (x : Xfault) : State :=
  (s.updCmd r (fun c => { c with done := max c.done done, intakeAt := dst, offset := 1 })).buildPark env r x

/-- Writes that the command's completion waits for (R15): the state after those that went through. -/
def State.buildWrite (s : State) (r : CmdRef) (ws : List (Nat × List Byte)) : Wrote :=
  let x := s.vwriteSome (s.qPart r.q) ws 0
  { x with s := x.s.doIf (decide (x.n ≠ 0)) (·.noteWrite (.command r) (s.qPart r.q) (spansOf (ws.take x.n))) }

/-- Writes go out in order; the command parks at one that fails and otherwise ends with a status. -/
def State.buildOut (s : State) (env : Env) (r : CmdRef) (dst : Nat) (ws : List (Nat × List Byte)) (marks : List (Nat × Nat)) (st : Option W16) :
    State :=
  let x := s.buildWrite r ws
  match x.bad with
  | some e => x.s.buildHalt env r dst (itemsAt marks x.n) e
  | none => match st with | none => x.s.finishOk r | some e => x.s.finish r e

/-- The list is a permutation of 0 to n − 1. -/
def permOf (n : Nat) (l : List Nat) : Bool := l.length == n && (List.range n).all l.contains

/-! ## Topology (R127, R146) -/

/-- A child in a topology: a leaf of primitives, or the node of a number in preorder. -/
inductive Kid where
  | leaf (prims : List Nat)
  | node (n : Nat)
deriving DecidableEq, Repr

/-- Reading a preorder list: nodes closed, nodes open (number, children still to come, children so far), the next number. -/
structure Parse where
  done  : List (Nat × List Kid)
  stack : List (Nat × Nat × List Kid)
  next  : Nat
  ok    : Bool
deriving DecidableEq, Repr

/-- Nodes whose children are complete close. -/
def Parse.pop (x : Parse) : Nat → Parse
  | 0 => x
  | f + 1 => match x.stack with
    | (n, 0, ks) :: r => ({ x with done := (n, ks) :: x.done, stack := r }).pop f
    | _ => x

/-- A child joins the open node. -/
def Parse.kid (x : Parse) (k : Kid) : Parse :=
  match x.stack with
  | (n, a + 1, ks) :: r => { x with stack := (n, a, ks ++ [k]) :: r }
  | _ => { x with ok := false }

def Parse.tok (x : Parse) (t : TreeTok) : Parse :=
  match t with
  | .leaf ps => let y := x.kid (.leaf ps)
                y.pop (y.stack.length + 1)
  | .node a =>
    let y := if x.next = 0 then x else x.kid (.node x.next)
    { y with stack := (x.next, a, []) :: y.stack, next := x.next + 1 }

/-- The nodes of a preorder list by rising number; none where the list is no tree below one node. -/
def parseTree (l : List TreeTok) : Option (List (Nat × List Kid)) :=
  let x := l.foldl (fun (x : Parse) t => if x.stack.isEmpty && decide (x.next ≠ 0) then { x with ok := false } else x.tok t) ⟨[], [], 0, true⟩
  if x.ok && x.stack.isEmpty && decide (x.next ≠ 0) then
    some ((List.range x.next).filterMap (fun n => (x.done.find? (fun e => e.1 == n)))) else none

/-- Levels of internal nodes on the longest path below each node, children first. -/
def treeDepths (l : List (Nat × List Kid)) : List (Nat × Nat) :=
  l.foldr (fun n acc =>
    let ds := n.2.map (fun k => match k with | .leaf _ => 0 | .node m => ((acc.find? (fun e => e.1 == m)).map (·.2)).getD 0)
    (n.1, ds.foldl max 0 + 1) :: acc) []

/-- The topology is one that BUILD_BOX may reach (R127, R145, R146): up to 8 children, leaves of 1 to the largest size, every primitive once,
at most 24 levels; only a root may have a single child, a leaf. -/
def treeOk (count leafMax : Nat) (l : List (Nat × List Kid)) : Bool :=
  let prims := l.flatMap (fun n => n.2.flatMap (fun k => match k with | .leaf ps => ps | .node _ => []))
  permOf count prims
  && l.all (fun n => decide (n.2.length ≤ 8) && (decide (2 ≤ n.2.length) || (n.1 == 0 && n.2.length == 1)))
  && l.all (fun n => n.2.all (fun k => match k with
      | .leaf ps => decide (1 ≤ ps.length) && decide (ps.length ≤ leafMax)
      | .node _ => decide (2 ≤ n.2.length)))
  && decide ((((treeDepths l).find? (fun e => e.1 == 0)).map (·.2)).getD 0 ≤ 24)

/-! ## Primitives (R130 to R133) -/

/-- Bytes of an input record of a PRIM_KIND of OPTIONS (R145). -/
def primBytes (kind : Nat) : Nat := if kind = 0 then 40 else if kind = 1 then 64 else 32

/-- Units of a leaf of `n` primitives of a child kind (R128). -/
def leafUnits (kind n : Nat) : Nat := if kind = 1 then cdiv n 3 else if kind = 2 then n else cdiv n 4

def minF (a b : W32) : W32 := if flt b a then b else a

/-- A box: lower and upper corner. -/
abbrev Box := List W32 × List W32

def boxJoin (a b : Box) : Box := (a.1.zipWith minF b.1, a.2.zipWith maxF b.2)

/-- The union of the boxes there are. -/
def boxUnion : List (Option Box) → Option Box
  | [] => none
  | none :: r => boxUnion r
  | some b :: r => match boxUnion r with | none => some b | some c => some (boxJoin b c)

def word (v b : Nat) : W32 := BitVec.ofNat 32 (by_ v b 4)

/-- A coordinate that leaves its primitive live: finite, of magnitude at most 2^126 (R133). -/
def coordOk (a : W32) : Bool := isFin32 a && fle (fAbs a) 0x7E800000

/-- A box of coordinates that leave it live. -/
def boxOk (b : Box) : Option Box := if b.1.all coordOk && b.2.all coordOk then some b else none

/-- A triangle record's box; none where it is DEAD. -/
def triBox (v : Nat) : Option Box :=
  let c := fun (k a : Nat) => word v (12 * k + 4 * a)
  if !(List.range 9).all (fun k => isFin32 (word v (4 * k))) then none
  else boxOk ((List.range 3).map (fun a => minF (minF (c 0 a) (c 1 a)) (c 2 a)), (List.range 3).map (fun a => maxF (maxF (c 0 a) (c 1 a)) (c 2 a)))

/-- A procedural record's box; none where it is DEAD. -/
def procBox (v : Nat) : Option Box :=
  let lo := (List.range 3).map (fun a => word v (4 * a))
  let hi := (List.range 3).map (fun a => word v (12 + 4 * a))
  if !(lo ++ hi).all isFin32 || (lo.zip hi).any (fun x => flt x.2 x.1) then none else boxOk (lo, hi)

/-- The rows of |q|² R for a quaternion (w, x, y, z), and |q|² (R132). -/
def quatRows (w x y z : Val) : List (List Val) × Val :=
  let n := ((w.mul w).add (x.mul x)).add ((y.mul y).add (z.mul z))
  let two := fun (v : Val) => v.scale 1
  ([[n.sub (two ((y.mul y).add (z.mul z))), two ((x.mul y).sub (w.mul z)), two ((x.mul z).add (w.mul y))],
    [two ((x.mul y).add (w.mul z)), n.sub (two ((x.mul x).add (z.mul z))), two ((y.mul z).sub (w.mul x))],
    [two ((x.mul z).sub (w.mul y)), two ((y.mul z).add (w.mul x)), n.sub (two ((x.mul x).add (y.mul y)))]], n)

/-- c × √(Σ_j (N_j σ_j)²) / n, cut below 2^−200 with a sticky bit, so that one directed rounding of a sum with it is exact. -/
def extentOf (c : Nat) (row sg : List Val) (n : Val) : Val :=
  let t := row.zipWith Val.mul sg
  match (t.map (fun x => x.mul x)).foldl Val.add .zero, n with
  | .fin _ m e, .fin _ m' e' =>
    let x := c * c * m * 2 ^ (e - 2 * e' + 400).toNat
    let q := m' * m'
    let h := isqrt (x / q)
    .fin false (2 * h + (if h * h * q = x then 0 else 1)) (-201)
  | _, _ => .nan

/-- A Gaussian record's box (R132); none where it is DEAD. -/
def gaussBox (sigma4 : Bool) (v : Nat) : Option Box :=
  let mean := (List.range 3).map (fun a => word v (4 * a))
  let h := fun (b : Nat) => Fmt.fp16.decode (by_ v b 2)
  let sg := [h 12, h 14, h 16]
  let q := [h 18, h 20, h 22, h 24]
  if !mean.all isFin32 || !(sg ++ q).all Val.isFin || sg.any (fun x => x.lt .zero) || q.all Val.isZero then none
  else
    let r := quatRows (h 18) (h 20) (h 22) (h 24)
    let ext := r.1.map (fun row => extentOf (if sigma4 then 4 else 3) row sg r.2)
    boxOk (mean.zipWith (fun m x => r32 .down ((v32 m).sub x)) ext, mean.zipWith (fun m x => r32 .up ((v32 m).add x)) ext)

/-- The determinant of the 3 × 3 part of a transform, and its cofactors by row of the inverse. -/
def cofactors (v : Nat) : Val × List (List Val) :=
  let a := fun (i j : Nat) => v32 (word v (4 * (4 * (i % 3) + j % 3)))
  let cof := fun (i j : Nat) => ((a (i + 1) (j + 1)).mul (a (i + 2) (j + 2))).sub ((a (i + 1) (j + 2)).mul (a (i + 2) (j + 1)))
  (((a 0 0).mul (cof 0 0)).add (((a 0 1).mul (cof 0 1)).add ((a 0 2).mul (cof 0 2))),
   (List.range 3).map (fun j => (List.range 3).map (fun i => cof i j)))

/-- The box of a BLAS under the inverse of a transform: one corner of one axis, divided by the determinant. -/
def instCorner (up : Bool) (det : Val) (cof : List Val) (v : Nat) (b : Box) : W32 :=
  let s := fun (x : Val) => if det.sign then x.neg else x
  let t := fun (i : Nat) => v32 (word v (4 * (4 * i + 3)))
  let ends := (List.range 3).map (fun i =>
    let c := s (cof.getD i .zero)
    let x := c.mul ((v32 (b.1.getD i 0)).sub (t i))
    let y := c.mul ((v32 (b.2.getD i 0)).sub (t i))
    if up then x.max y else x.min y)
  BitVec.ofNat 32 (Fmt.fp32.div (if up then .up else .down) .quiet (ends.foldl Val.add .zero) det.abs).1

/-- An instance record's box, the BLAS box there is given; none where it is DEAD (R133). -/
def instBox (v : Nat) (blas : Option Box) : Option Box :=
  let x := cofactors v
  let fl := by_ v 61 1
  if !(List.range 12).all (fun k => isFin32 (word v (4 * k))) || x.1.abs.lt (.fin false 1 (-40)) || (fl / 2 % 2 == 1 && fl / 4 % 2 == 1)
      || by_ v 56 4 == 0xFFFFFFFF then none
  else match blas with
    | none => none
    | some b =>
      if !(b.1 ++ b.2).all isFin32 then none
      else boxOk (x.2.map (fun c => instCorner false x.1 c v b), x.2.map (fun c => instCorner true x.1 c v b))

/-- An input record as the build sees it: the record, its box (none: DEAD) and its instance mask. -/
structure PrimRec where
  raw  : Nat
  box  : Option Box
  mask : Nat
deriving DecidableEq, Repr

/-- The BLAS box of an instance record; none where the descriptor is unusable or the BLAS empty. -/
def State.blasBox (s : State) (p : PartId) (v : Nat) : Acc (Option Box) :=
  match s.vdesc p (by_ v 48 8 % 2 ^ 57) with
  | .bad x => .bad x
  | .ok d =>
    let n := d.toNat
    .ok (if d.usable 0 == .ok then
      some ((List.range 3).map (fun a => word n (64 + 4 * a)), (List.range 3).map (fun a => word n (76 + 4 * a))) else none)

/-- Input record of a PRIM_KIND. -/
def State.primRec (s : State) (p : PartId) (kind : Nat) (sigma4 : Bool) (v : Nat) : Acc PrimRec :=
  if kind = 0 then .ok ⟨v, triBox v, 255⟩
  else if kind = 2 then .ok ⟨v, gaussBox sigma4 v, 255⟩
  else if kind = 3 then .ok ⟨v, procBox v, 255⟩
  else match s.blasBox p v with
    | .bad x => .bad x
    | .ok b => .ok ⟨v, instBox v b, by_ v 60 1⟩

def State.primRecs (s : State) (p : PartId) (kind : Nat) (sigma4 : Bool) : List Nat → Acc (List PrimRec)
  | [] => .ok []
  | v :: r => match s.primRec p kind sigma4 v with
    | .bad x => .bad x
    | .ok a => match s.primRecs p kind sigma4 r with
      | .bad x => .bad x
      | .ok l => .ok (a :: l)

/-- The input records of a command, in order. -/
def State.inputRecs (s : State) (p : PartId) (c : Cmd) : Acc (List PrimRec) :=
  let kind := rb c.raw 40 1 % 8
  let n := rb c.raw 16 4
  let w := primBytes kind
  match s.vnum p (rb c.raw 8 8) (n * w) with
  | .bad x => .bad x
  | .ok v => s.primRecs p kind (bit c.raw 326) ((List.range n).map (fun i => by_ v (w * i) w))

/-! ## Leaf units (R130 to R132) -/

/-- A primitive word: PRIM_ID, DEAD, OPAQUE. -/
def primWord (id : Nat) (dead opq : Bool) : Nat := id % 2 ^ 29 + (if dead then 2 ^ 29 else 0) + (if opq then 2 ^ 30 else 0)

/-- A triangle unit: up to three primitives, unused places with zero vertices and DEAD. -/
def triUnit (ps : List (Nat × PrimRec)) : Nat :=
  (List.range 3).foldl (fun v k => match ps[k]? with
    | some (id, r) => v + by_ r.raw 0 36 * 256 ^ (36 * k) + primWord id r.box.isNone (r.raw.testBit 318) * 256 ^ (108 + 4 * k)
    | none => v + 0x20000000 * 256 ^ (108 + 4 * k)) 0

/-- An instance unit, its reserved bits zero. -/
def instUnit (r : PrimRec) : Nat :=
  putBy (putBy (by_ r.raw 0 64) 48 8 (by_ r.raw 48 8 % 2 ^ 57)) 61 1 (by_ r.raw 61 1 % 32 / 2 * 2 + (if r.box.isNone then 1 else 0))

/-- A Gaussian or procedural unit: up to four primitives, unused places zero with DEAD. -/
def recUnit (proc : Bool) (ps : List (Nat × PrimRec)) : Nat :=
  (List.range 4).foldl (fun v k => match ps[k]? with
    | some (id, r) => v + by_ r.raw 0 28 * 256 ^ (32 * k) + primWord id r.box.isNone (proc && r.raw.testBit 254) * 256 ^ (32 * k + 28)
    | none => v + 0x20000000 * 256 ^ (32 * k + 28)) 0

/-- Groups of `n` of a list; `f` bounds their number. -/
def groupsOf {α : Type} (n : Nat) : Nat → List α → List (List α)
  | 0, _ => []
  | f + 1, l => if l.isEmpty then [] else l.take n :: groupsOf n f (l.drop n)

/-- The units of a leaf of a child kind. -/
def encodeLeaf (kind : Nat) (ps : List (Nat × PrimRec)) : List Nat :=
  if kind = 1 then (groupsOf 3 ps.length ps).map triUnit
  else if kind = 2 then ps.map (fun x => instUnit x.2)
  else (groupsOf 4 ps.length ps).map (recUnit (kind == 4))

/-! ## Box nodes (R127, R129) -/

/-- The smallest exponent e with 255 × 2^e at least a value not below zero; none for zero. -/
def gridExp (v : Val) : Option Int :=
  match v with
  | .fin _ m k =>
    if m = 0 then none
    else
      let l := Nat.log2 m
      some (k + (if m * 2 ^ 7 ≤ 255 * 2 ^ l then (l : Int) - 7 else (l : Int) - 6))
  | _ => some 127

/-- A value not below zero over 2^e as an integer, rounded down or up. -/
def gridStep (r : Rnd) (v : Val) (e : Int) : Nat :=
  match v with
  | .fin _ m k => if e ≤ k then m * 2 ^ (k - e).toNat else roundQuot r false m (2 ^ (e - k).toNat)
  | _ => 255

/-- A child of a box node to write: slot, child word, kind, leaf primitives minus 1, mask, box. -/
structure BoxKid where
  slot : Nat
  idx  : Nat
  kind : Nat
  n    : Nat
  mask : Nat
  box  : Option Box
deriving DecidableEq, Repr

/-- A difference of coordinates under a directed rounding, as a value. -/
def dif (r : Rnd) (a b : W32) : Val := v32 (fsub r a b)

/-- ORIGIN and EXP of a node over a union of boxes (R129). -/
def boxGrid (u : Box) : List W32 × List Int :=
  (u.1, u.1.zipWith (fun lo hi => match gridExp (dif .up hi lo) with | none => -128 | some e => max (-128) e) u.2)

/-- QBOX of a child on a grid, in byte order. -/
def quantBox (g : List W32 × List Int) (b : Box) : List Nat :=
  (List.range 3).map (fun a => gridStep .down (dif .down (b.1.getD a 0) (g.1.getD a 0)) (g.2.getD a 0))
  ++ (List.range 3).map (fun a => gridStep .up (dif .up (b.2.getD a 0) (g.1.getD a 0)) (g.2.getD a 0))

/-- Bytes of numbers of a width, from the lowest. -/
def packBytes (w : Nat) (l : List Nat) : Nat := l.foldr (fun x acc => x % 256 ^ w + 256 ^ w * acc) 0

/-- A box node's 128 B (R127). A node or child without a box keeps open grid bytes. -/
def encodeBoxNode (unit : Nat) (kids : List BoxKid) : Nat :=
  let u := boxUnion (kids.map (·.box))
  let head := match u with
    | none => (Config.deadGrid unit).toNat
    | some b => let g := boxGrid b
                packBytes 4 (g.1.map (·.toNat)) + 256 ^ 12 * packBytes 1 (g.2.map (wrapN 8))
  let kid := fun (c : Nat) => kids.find? (fun k => k.slot == c)
  let slots := List.range 8
  let word := fun c => match kid c with | some k => k.idx | none => 0xFFFFFFFF
  let meta_ := fun c => match kid c with | some k => k.kind + 8 * k.n | none => 0
  let mask := fun c => match kid c with | some k => k.mask | none => 0
  let qbox := fun c => match kid c with
    | none => 0
    | some k => match k.box, u with
      | some b, some x => packBytes 1 (quantBox (boxGrid x) b)
      | _, _ => (Config.deadBox unit c).toNat
  head + 256 ^ 16 * packBytes 4 (slots.map word) + 256 ^ 48 * packBytes 1 (slots.map meta_) + 256 ^ 56 * packBytes 1 (slots.map mask)
    + 256 ^ 64 * packBytes 6 (slots.map qbox)

/-! ## Topology of a build (R146) -/

/-- Bits interleaved, the first number's lowest: `n` bits of each. -/
def interleave (n : Nat) (xs : List Nat) : Nat :=
  ((List.range n).flatMap (fun b => (xs.zip (List.range xs.length)).map (fun x => (x.1 / 2 ^ b % 2) * 2 ^ (b * xs.length + x.2)))).sum

/-- The centre of a box along an axis as one of 2^21 places over the scene box, the next one up where `up`. -/
def axisCode (up : Bool) (lo hi sl sh : W32) : Nat :=
  let c := ((v32 lo).add (v32 hi)).sub ((v32 sl).scale 1)
  let w := (v32 sh).sub (v32 sl)
  match c, w with
  | .fin _ m e, .fin _ m' e' =>
    if m' = 0 then 0
    else
      let k := e - e' + 20
      let q := if 0 ≤ k then m * 2 ^ k.toNat / m' else m / (m' * 2 ^ (-k).toNat)
      min (q + (if up then 1 else 0)) (2 ^ 21 - 1)
  | _, _ => 0

/-- The 63-bit Morton code of a box centre over the scene box. -/
def boxCode (scene b : Box) : Nat :=
  interleave 21 ((List.range 3).map (fun a =>
    axisCode (Config.codeUp a (scene.1 ++ scene.2) (b.1 ++ b.2)) (b.1.getD a 0) (b.2.getD a 0) (scene.1.getD a 0) (scene.2.getD a 0)))

/-- The primitives by Morton code, ties by PRIM_ID: the code with the ID below it, and the ID. -/
def mortonOrder (boxes : List (Option Box)) : List (Nat × Nat) :=
  let scene := (boxUnion boxes).getD ([], [])
  let code := fun (x : Option Box × Nat) => match x.1 with
    | some b => boxCode scene b
    | none => (Config.deadCode x.2).toNat
  sortBy (fun (a b : Nat × Nat) => decide (a.1 ≤ b.1))
    ((boxes.zip (List.range boxes.length)).map (fun x => (code x * 2 ^ 32 + x.2, x.2)))

/-- A binary tree over primitives. -/
inductive Bin where
  | leaf (i : Nat)
  | node (l r : Bin)
deriving DecidableEq, Repr

def Bin.prims : Bin → List Nat
  | .leaf i => [i]
  | .node l r => l.prims ++ r.prims

/-- The binary radix tree of keys that differ in their lowest `b` bits only. -/
def radixTree : Nat → List (Nat × Nat) → Bin
  | 0, l => .leaf ((l.head?.map (·.2)).getD 0)
  | b + 1, l =>
    if l.length ≤ 1 then .leaf ((l.head?.map (·.2)).getD 0)
    else
      let hi := l.filter (fun x => x.1.testBit b)
      let lo := l.filter (fun x => !x.1.testBit b)
      if hi.isEmpty then radixTree b lo else if lo.isEmpty then radixTree b hi else .node (radixTree b lo) (radixTree b hi)

/-- A balanced binary tree over primitives in order, of at most `f` levels. -/
def medianTree : Nat → List Nat → Bin
  | 0, l => .leaf (l.headD 0)
  | f + 1, l => if l.length ≤ 1 then .leaf (l.headD 0) else .node (medianTree f (l.take (cdiv l.length 2))) (medianTree f (l.drop (cdiv l.length 2)))

/-- A list split at its median, three times. -/
def medianParts : Nat → List Nat → List (List Nat)
  | 0, l => [l]
  | f + 1, l => if l.length ≤ 1 then [l] else medianParts f (l.take (cdiv l.length 2)) ++ medianParts f (l.drop (cdiv l.length 2))

/-- A subtree becomes a leaf: always one primitive, and one small enough where the engine makes it so. -/
def Bin.isLeaf (boxes : List (List W32)) (leafMax : Nat) (k : Bin) : Bool :=
  decide (k.prims.length = 1) || (decide (k.prims.length ≤ leafMax) && Config.makeLeaf boxes k.prims)

/-- The children of a node opened in the engine's order, up to eight. -/
def openKids (boxes : List (List W32)) (leafMax : Nat) : Nat → List Bin → List Bin
  | 0, ks => ks
  | f + 1, ks =>
    let i := Config.openKid boxes (ks.map Bin.prims)
    match ks[i]? with
    | some (.node l r) =>
      if (Bin.node l r).isLeaf boxes leafMax then ks else openKids boxes leafMax f (ks.take i ++ [l, r] ++ ks.drop (i + 1))
    | _ => ks

/-- The children of a wide node with `b` levels of nodes below it; a subtree too large for them is split at the median primitive. -/
def Bin.kids (boxes : List (List W32)) (leafMax b : Nat) (k : Bin) : List Bin :=
  match k with
  | .leaf i => [.leaf i]
  | .node l r =>
    let ks := openKids boxes leafMax 6 [l, r]
    if ks.all (fun x => decide (x.prims.length ≤ leafMax * 8 ^ b)) then ks else (medianParts 3 k.prims).map (medianTree 32)

/-- The wide tree below a node with `b` levels of nodes under it, in preorder. -/
def wideTree (boxes : List (List W32)) (leafMax : Nat) : Nat → List Bin → List TreeTok
  | 0, ks => .node ks.length :: ks.map (fun k => .leaf k.prims)
  | b + 1, ks => .node ks.length :: ks.flatMap (fun k =>
      if k.isLeaf boxes leafMax then [.leaf k.prims] else wideTree boxes leafMax b (k.kids boxes leafMax b))

/-- The collapsed tree of step 3 (R146). -/
def collapsed (boxes : List (Option Box)) (leafMax : Nat) : List TreeTok :=
  let raw := boxes.map (fun b => match b with | some x => x.1 ++ x.2 | none => [])
  let t := radixTree 95 (mortonOrder boxes)
  wideTree raw leafMax 23 (if t.isLeaf raw leafMax then [t] else t.kids raw leafMax 23)

/-- A topology read from its preorder list, one that BUILD_BOX may reach. -/
def treeOf (count leafMax : Nat) (l : List TreeTok) : Option (List (Nat × List Kid)) :=
  match parseTree l with
  | some t => if treeOk count leafMax t then some t else none
  | none => none

/-! ## BUILD_BOX (R145, R146) -/

/-- Where the nodes and leaves of a topology go: units of nodes by number, of leaves by node and slot, and the next free unit. The root is
unit 0; the children of each node follow as one run, nodes in depth-first order. -/
structure BoxLay where
  nodes  : List (Nat × Nat)
  leaves : List ((Nat × Nat) × Nat)
  next   : Nat
deriving DecidableEq, Repr

/-- The first unit of the leaf in a slot of a node. -/
def BoxLay.leafAt (l : BoxLay) (n c : Nat) : Nat := ((l.leaves.find? (fun e => e.1 == (n, c))).map (·.2)).getD 0

def layKids (kind n : Nat) : List Kid → Nat → BoxLay → BoxLay
  | [], _, l => l
  | .node m :: r, c, l => layKids kind n r (c + 1) { l with nodes := (m, l.next) :: l.nodes, next := l.next + 1 }
  | .leaf ps :: r, c, l => layKids kind n r (c + 1) { l with leaves := ((n, c), l.next) :: l.leaves, next := l.next + leafUnits kind ps.length }

def layTree (kind : Nat) (t : List (Nat × List Kid)) : BoxLay := t.foldl (fun l n => layKids kind n.1 n.2 0 l) ⟨[(0, 0)], [], 1⟩

/-- What a finished child gives its parent: box and mask. -/
structure Done where
  n    : Nat
  box  : Option Box
  mask : Nat
deriving DecidableEq, Repr

def orMask (l : List Nat) : Nat := l.foldl (· ||| ·) 0

/-- The primitives of a leaf with their records. -/
def recsOf (recs : List PrimRec) (ps : List Nat) : List (Nat × PrimRec) := ps.map (fun i => (i, recs.getD i ⟨0, none, 0⟩))

/-- One node of a build: its children's entries from the nodes below it. -/
def boxKids (kind : Nat) (recs : List PrimRec) (lay : BoxLay) (below : List Done) (n : Nat) (ks : List Kid) : List BoxKid :=
  (ks.zip (List.range ks.length)).map (fun x => match x.1 with
    | .node m =>
      let d := (below.find? (fun e => e.n == m)).getD ⟨0, none, 0⟩
      ⟨x.2, (assocGet m lay.nodes).getD 0, 0, 0, d.mask, d.box⟩
    | .leaf ps =>
      let rs := recsOf recs ps
      ⟨x.2, lay.leafAt n x.2, kind, ps.length - 1, orMask (rs.map (·.2.mask)), boxUnion (rs.map (·.2.box))⟩)

/-- Every node of a build with its children, children first computed: unit and number. -/
def boxNodes (kind : Nat) (recs : List PrimRec) (lay : BoxLay) (t : List (Nat × List Kid)) : List (Nat × Nat) × List Done :=
  t.foldr (fun n acc =>
    let ks := boxKids kind recs lay acc.2 n.1 n.2
    let u := (assocGet n.1 lay.nodes).getD 0
    ((u, encodeBoxNode u ks) :: acc.1, ⟨n.1, boxUnion (ks.map (·.box)), orMask (ks.map (·.mask))⟩ :: acc.2)) ([], [])

/-- The leaf units of a build. -/
def boxLeaves (kind : Nat) (recs : List PrimRec) (lay : BoxLay) (t : List (Nat × List Kid)) : List (Nat × Nat) :=
  t.flatMap (fun n => (n.2.zip (List.range n.2.length)).flatMap (fun x => match x.1 with
    | .node _ => []
    | .leaf ps =>
      let u := lay.leafAt n.1 x.2
      let us := encodeLeaf kind (recsOf recs ps)
      us.zip (List.range us.length) |>.map (fun y => (u + y.2, y.1))))

/-- Corner words of a root box; +∞ and −∞ where no primitive has a box. -/
def rootBoxWrites (dst : Nat) (b : Option Box) : List (Nat × List Byte) :=
  let x := b.getD (List.replicate 3 f32Inf, List.replicate 3 f32NegInf)
  [wr (dst + 64) 24 (packBytes 4 ((x.1 ++ x.2).map (·.toNat)))]

/-- UPDATE_SEQ goes up by 1 (R121). -/
def seqWrite (dst : Nat) (d : Desc) : Nat × List Byte := wr (dst + 44) 4 (d.seq + 1)

def unitWrites (base w : Nat) (l : List (Nat × Nat)) : List (Nat × List Byte) := l.map (fun x => wr (base + w * x.1) w x.2)

/-- Everything BUILD_BOX writes after its checks. -/
def boxImage (c : Cmd) (d : Desc) (recs : List PrimRec) (t : List (Nat × List Kid)) : List (Nat × List Byte) :=
  let dst := rb c.raw 24 8
  let kind := rb c.raw 40 1 % 8 + 1
  let lay := layTree kind t
  let nodes := boxNodes kind recs lay t
  let depth := (((treeDepths t).find? (fun e => e.1 == 0)).map (·.2)).getD 0
  unitWrites d.base 128 (boxLeaves kind recs lay t ++ nodes.1)
  ++ [wr (dst + 2) 2 0, wr (dst + 16) 4 lay.next, wr (dst + 38) 1 depth, wr (dst + 40) 4 (recs.filter (fun r => r.box.isNone)).length]
  ++ rootBoxWrites dst ((nodes.2.find? (fun e => e.n == 0)).bind (·.box))
  ++ [wr (dst + 88) 4 (rb c.raw 16 4), wr (dst + 92) 1 kind, seqWrite dst d, wr (dst + 4) 4 0]

/-- The marks of a build: each leaf with its units and primitives, in the order of its writes. -/
def boxMarks (kind : Nat) (t : List (Nat × List Kid)) : List (Nat × Nat) :=
  runMarks 0 (t.flatMap (fun n => n.2.filterMap (fun k => match k with
    | .node _ => none
    | .leaf ps => some (leafUnits kind ps.length, ps.length))))

/-- Tokens of the next `n` subtrees of a preorder list. -/
def spanLen : List TreeTok → Nat → Nat
  | [], _ => 0
  | _, 0 => 0
  | .leaf _ :: r, n + 1 => spanLen r n + 1
  | .node a :: r, n + 1 => spanLen r (n + a) + 1

/-- The subtree that begins at a place of a preorder list. -/
def subtreeAt (l : List TreeTok) (i : Nat) : List TreeTok := (l.drop i).take (spanLen (l.drop i) 1)

/-- Half the surface of the union of the boxes of some primitives; a DEAD one has none. -/
def halfArea (boxes : List (Option Box)) (ps : List Nat) : Val :=
  match boxUnion (ps.map (fun i => (boxes[i]?).join)) with
  | none => .zero
  | some b =>
    let e := fun (a : Nat) => (v32 (b.2.getD a 0)).sub (v32 (b.1.getD a 0))
    (((e 0).mul (e 1)).add ((e 1).mul (e 2))).add ((e 2).mul (e 0))

/-- The surface-area cost of a tree's nodes (R146): the surface of each. -/
def treeCost (boxes : List (Option Box)) : List TreeTok → Val
  | [] => .zero
  | .leaf _ :: r => treeCost boxes r
  | .node a :: r =>
    (halfArea boxes ((r.take (spanLen r a)).flatMap (fun t => match t with | .leaf ps => ps | .node _ => []))).add (treeCost boxes r)

/-- The list with one treelet restructured. It is left alone where the place is no treelet of up to 64 nodes, where the outcome is no tree that
BUILD_BOX may reach (`ok`), and where its surface-area cost is not lower. -/
def restructure (boxes : List (Option Box)) (ok : List TreeTok → Bool) (l : List TreeTok) (x : Treelet) : List TreeTok :=
  let sub := subtreeAt l x.top
  let parts := x.cut.map (subtreeAt l)
  let inPart := fun (i : Nat) => (x.cut.zip parts).any (fun c => decide (c.1 ≤ i) && decide (i < c.1 + c.2.length))
  let inner := (List.range sub.length).filter (fun i => !inPart (x.top + i))
  let whole := inner.all (fun i => match sub[i]? with | some (.node _) => true | _ => false)
    && inner.length + (parts.map (·.length)).sum == sub.length
  let new := x.shape.flatMap (fun t => match t with
    | .leaf ps => parts.getD (ps.headD parts.length) []
    | .node a => [.node a])
  let out := l.take x.top ++ new ++ l.drop (x.top + sub.length)
  if whole && decide (1 ≤ inner.length) && decide (inner.length ≤ 64) && ok out && (treeCost boxes new).lt (treeCost boxes sub) then out else l

/-- The topology of a build: the collapsed tree, its treelets restructured unless FAST (R145, R146). -/
def buildTree (fast : Bool) (kind leafMax cap : Nat) (recs : List PrimRec) (base : List TreeTok) : List (Nat × List Kid) :=
  let boxes := recs.map (·.box)
  let t0 := (parseTree base).getD []
  if fast || decide (t0.length ≤ 1) then t0
  else
    let raw := boxes.map (fun b => match b with | some x => x.1 ++ x.2 | none => [])
    let ok := fun l => (treeOf recs.length leafMax l).isSome
    match parseTree ((Config.treelets raw leafMax base).foldl (restructure boxes ok) base) with
    | some t => if (layTree kind t).next ≤ cap then t else t0
    | none => t0

/-- BUILD_BOX. -/
def execBuildBox (q : QueueId) (scratch : List (Nat × Byte)) (env : Env) (s : State) : Host.Outcome State Fault Refusal :=
  let s := s.at env.t
  match s.beginning q 0x10 with
  | none => .next s
  | some c =>
    let p := s.qPart q
    let r : CmdRef := ⟨q, c.seq⟩
    let n := rb c.raw 16 4
    let dst := rb c.raw 24 8
    let kind := rb c.raw 40 1 % 8 + 1
    let leafMax := 4 * 2 ^ (rb c.raw 40 1 / 16 % 4)
    match s.vdesc p dst with
    | .bad x => .next (s.buildPark env r x)
    | .ok d =>
      if !d.softOk 0 false then .next (s.finish r stBadField)
      else
        let s1 := s.buildWrite r (emptyFirst dst d ++ scratchWrites c (32 * n + 2 ^ 22) scratch)
        match s1.bad with
        | some x => .next (s1.s.buildHalt env r dst 0 x)
        | none => match s1.s.inputRecs p c with
          | .bad x => .next (s1.s.buildHalt env r dst 0 x)
          | .ok recs =>
            let base := collapsed (recs.map (·.box)) leafMax
            let need := (layTree kind ((parseTree base).getD [])).next
            if d.cap < need then .next (s1.s.buildOut env r dst [wr (dst + 16) 4 need, seqWrite dst d] [] (some stBadField))
            else
              let t := buildTree (bit c.raw 323) kind leafMax d.cap recs base
              .next (s1.s.buildOut env r dst (boxImage c d recs t) (boxMarks kind t) none)

/-! ## BUILD_REFIT (R147) -/

/-- A node met in memory: unit, level below the root, its 128 or 640 bytes. -/
structure MemNode where
  unit  : Nat
  level : Nat
  raw   : Nat
deriving DecidableEq, Repr

/-- A child word in memory: slot, 0 internal, 1 leaf, 2 remote, 3 not allowed; index, leaf child kind and primitives. -/
structure MemKid where
  slot : Nat
  what : Nat
  idx  : Nat
  kind : Nat
  n    : Nat
deriving DecidableEq, Repr

/-- The children of a node of either format. -/
def memKids (isBox : Bool) (v : Nat) : List MemKid :=
  (List.range 8).filterMap (fun c =>
    if isBox then
      let i := by_ v (16 + 4 * c) 4
      let m := by_ v (48 + c) 1
      if i = 0xFFFFFFFF then none
      else some ⟨c, if m % 8 = 0 then 0 else if m % 8 ≤ 4 then 1 else if m % 8 = 5 then 2 else 3, i, m % 8, m / 8 + 1⟩
    else
      let w := by_ v (3 * c) 3
      let k := w / 2 ^ 22
      if k = 3 then none else some ⟨c, k, w % 2 ^ 22, 0, 0⟩)

/-- Units that a child takes in the node area beside nodes of its own. -/
def MemKid.leafLen (k : MemKid) (isBox : Bool) : Nat := if isBox && k.what == 1 then leafUnits k.kind k.n else 0

/-- The nodes below some units in depth-first order; none where a child is not allowed or there are more than the bound. -/
def State.memWalk (s : State) (p : PartId) (isBox : Bool) (base : Nat) : Nat → List (Nat × Nat) → Acc (Option (List MemNode))
  | _, [] => .ok (some [])
  | 0, _ :: _ => .ok none
  | f + 1, (u, l) :: st => match s.vnum p (base + unitBytes isBox * u) (unitBytes isBox) with
    | .bad x => .bad x
    | .ok v =>
      let ks := memKids isBox v
      if ks.any (fun k => k.what == 3) then .ok none
      else match s.memWalk p isBox base f (((ks.filter (fun k => k.what == 0)).map (fun k => (k.idx, l + 1))) ++ st) with
        | .bad x => .bad x
        | .ok none => .ok none
        | .ok (some ns) => .ok (some (⟨u, l, v⟩ :: ns))

/-- The leaf units of a hierarchy in memory, by first unit. -/
def State.memLeaves (s : State) (p : PartId) (base : Nat) : List (Nat × Nat) → Acc (List (Nat × Nat))
  | [] => .ok []
  | (u, n) :: r => match s.vnum p (base + 128 * u) (128 * n), s.memLeaves p base r with
    | .bad x, _ => .bad x
    | _, .bad x => .bad x
    | .ok v, .ok l => .ok ((u, v) :: l)

/-- The leaf children of walked nodes: node unit and child. -/
def leafKids (ns : List MemNode) : List (Nat × MemKid) :=
  ns.flatMap (fun n => ((memKids true n.raw).filter (fun k => k.what == 1)).map (fun k => (n.unit, k)))

/-- The PRIM_IDs that a leaf of a kind other than instances holds. -/
def leafIds (kind n v : Nat) : List Nat :=
  (List.range n).map (fun k =>
    (if kind = 1 then by_ v (128 * (k / 3) + 108 + 4 * (k % 3)) 4 else by_ v (32 * k + 28) 4) % 2 ^ 29)

/-- The record of each instance unit (R147), units in depth-first order, `u` a unit as it is and `enc` a record as a unit. A unit that some record
left would leave unchanged takes that record, so that records that have not changed stay in their leaves; another takes one of the records of
its INST_ID, and one whose INST_ID no record has any record, where it can none that a unit still to come claims: a free value picks among them. -/
def instPlaces (enc : Nat → Nat) : List Nat → List Nat → List Nat
  | [], _ => []
  | u :: r, left =>
    let id := fun (v : Nat) => by_ v 56 4
    let first := fun (f g : Nat → Bool) => let l := left.filter f; let m := l.filter g; if m.isEmpty then l else m
    let same := left.filter (fun i => enc i == u)
    let mine := first (fun i => id (enc i) == id u) (fun i => !r.contains (enc i))
    let rest := first (fun _ => true) (fun i => !r.any (fun v => id v == id (enc i)))
    let pool := if mine.isEmpty then rest else mine
    let i := match same with
      | i :: _ => i
      | [] => pool.getD (Config.instPlace (u :: r) pool % max 1 pool.length) 0
    i :: instPlaces enc r (left.erase i)

/-- The units of instance leaves, in depth-first order. -/
def unitInsts (leaves : List (Nat × Nat)) (ks : List (Nat × MemKid)) : List Nat :=
  ks.flatMap (fun k => (List.range k.2.n).map (fun i => by_ ((assocGet k.2.idx leaves).getD 0) (128 * i) 128))

/-- The primitives of every leaf in depth-first order: from the leaves' PRIM_IDs, from `places` for instances, which hold none. -/
def refitPrims (kind : Nat) (leaves : List (Nat × Nat)) (places : List Nat) : List (Nat × MemKid) → Nat → List (Nat × List Nat)
  | [], _ => []
  | (_, k) :: r, at_ =>
    (k.idx, if kind = 2 then (places.drop at_).take k.n else leafIds kind k.n ((assocGet k.idx leaves).getD 0))
      :: refitPrims kind leaves places r (at_ + k.n)

/-- The children of a node of a refit, from the nodes below. -/
def refitKids (recs : List PrimRec) (prims : List (Nat × List Nat)) (below : List Done) (v : Nat) : List BoxKid :=
  (memKids true v).map (fun k =>
    let d := if k.what = 1 then
        let rs := recsOf recs ((assocGet k.idx prims).getD [])
        ⟨0, boxUnion (rs.map (·.2.box)), orMask (rs.map (·.2.mask))⟩
      else (below.find? (fun e => e.n == k.idx)).getD (⟨0, none, 0⟩ : Done)
    ⟨k.slot, k.idx, if k.what = 1 then k.kind else 0, if k.what = 1 then k.n - 1 else 0, d.mask, d.box⟩)

/-- The node area's new contents, bottom-up, and the root's box. -/
def refitImage (kind : Nat) (recs : List PrimRec) (prims : List (Nat × List Nat)) (ns : List MemNode) : List (Nat × Nat) × Option Box :=
  let x := ns.foldr (fun n (acc : List (Nat × Nat) × List Done) =>
    let ks := refitKids recs prims acc.2 n.raw
    (acc.1 ++ [(n.unit, encodeBoxNode n.unit ks)], ⟨n.unit, boxUnion (ks.map (·.box)), orMask (ks.map (·.mask))⟩ :: acc.2)) ([], [])
  let leaves := prims.flatMap (fun l => let us := encodeLeaf kind (recsOf recs l.2)
                                        (us.zip (List.range us.length)).map (fun y => (l.1 + y.2, y.1)))
  (leaves ++ x.1, (x.2.head?).bind (·.box))

/-- The refit's writes, behind `pre` of them to scratch; the command parks at one that fails and remembers that nodes were written (R142). -/
def State.refitOut (s : State) (env : Env) (r : CmdRef) (dst pre : Nat) (ws : List (Nat × List Byte)) (marks : List (Nat × Nat)) : State :=
  let x := s.buildWrite r ws
  match x.bad with
  | none => x.s.finishOk r
  | some e => if x.n ≤ pre then x.s.buildPark env r e else x.s.buildHalt env r dst (itemsAt marks x.n) e

/-- BUILD_REFIT: leaves and boxes from new records on the topology in memory. -/
def execBuildRefit (q : QueueId) (scratch : List (Nat × Byte)) (env : Env) (s : State) : Host.Outcome State Fault Refusal :=
  let s := s.at env.t
  match s.beginning q 0x13 with
  | none => .next s
  | some c =>
    let p := s.qPart q
    let r : CmdRef := ⟨q, c.seq⟩
    let n := rb c.raw 16 4
    let dst := rb c.raw 24 8
    let kind := rb c.raw 40 1 % 8 + 1
    match s.vdesc p dst with
    | .bad x => .next (s.buildPark env r x)
    | .ok d =>
      if !d.softOk 0 true || d.primCount != n || d.primKind != kind then .next (s.finish r stBadField)
      else match s.inputRecs p c, s.memWalk p true d.base (d.used + 1) (if d.empty then [] else [(d.root, 1)]) with
        | .bad x, _ => .next (s.buildPark env r x)
        | _, .bad x => .next (s.buildPark env r x)
        | _, .ok none => .next (s.finish r stContained)
        | .ok recs, .ok (some ns) =>
          let ks := leafKids ns
          match s.memLeaves p d.base (ks.map (fun k => (k.2.idx, leafUnits k.2.kind k.2.n))) with
          | .bad x => .next (s.buildPark env r x)
          | .ok leaves =>
            let enc := fun i => instUnit (recs.getD i ⟨0, none, 0⟩)
            let places := if kind = 2 then instPlaces enc (unitInsts leaves ks) (List.range n) else []
            let prims := refitPrims kind leaves places ks 0
            let img := refitImage kind recs prims ns
            let sw := scratchWrites c (8 * d.used + 2 ^ 20) scratch
            .next (s.refitOut env r dst sw.length (sw ++ unitWrites d.base 128 img.1
                ++ [wr (dst + 40) 4 (recs.filter (fun x => x.box.isNone)).length] ++ rootBoxWrites dst img.2 ++ [seqWrite dst d])
              (runMarks sw.length (prims.map (fun l => (leafUnits kind l.2.length, l.2.length)))))

end Sys2Proof.Machine
end

