-- ==== Sys2Proof/Machine/BuildKey.lean ====
section
/-!
DEFINITION. Sys2Proof/Machine/BuildKey.lean: BUILD_KEYS (R137 to R139, R148, R149) and BUILD_INSERT (R150, R151).
-/

namespace Sys2Proof.Machine

/-! ## Keys (R134, R137) -/

/-- Where a hierarchy's keys lie: format, dimension, key tensor, block scales. -/
structure KeySrc where
  fmt    : Nat
  dim    : Nat
  addr   : Nat
  scales : Nat
deriving DecidableEq, Repr

/-- k̃ of a key; none where an element or block scale is not finite (R139). -/
def State.keyRow (s : State) (p : PartId) (k : KeySrc) (i : Nat) : Acc (Option (List Val)) :=
  let e := (elemBytes k.fmt).getD 1
  let sc := if k.fmt = 4 then Acc.ok 0 else s.vnum p (k.scales + i * (k.dim / 32)) (k.dim / 32)
  match s.vnum p (k.addr + i * k.dim * e) (k.dim * e), sc with
  | .bad x, _ => .bad x
  | _, .bad x => .bad x
  | .ok v, .ok b =>
    let row := scaledRow (rowVals k.fmt k.dim v) (rowScales k.fmt k.dim b)
    .ok (if row.all Val.isFin then some row else none)

/-- A dot product of exact factors, each step rounded in one direction. -/
def dotDir (r : Rnd) (xs ys : List Val) : W32 := (xs.zip ys).foldl (fun a x => r32 r ((v32 a).add (x.1.mul x.2))) 0

/-- What one key gives its leaf: y rounded down and up, ‖y‖ rounded up, and its radius in FP16. -/
structure KeyY where
  lo   : List W32
  hi   : List W32
  norm : W32
  rad  : Nat
deriving DecidableEq, Repr

/-- The larger magnitude of two bounds of one number. -/
def magUp (l u : W32) : W32 := maxF (fAbs l) (fAbs u)

/-- ‖v‖ rounded up, from upper bounds of the magnitudes. -/
def normUp (l : List W32) : W32 := fsqrtUp ((l.map (fun x => upMul x x)).foldl upAdd 0)

/-- 1 + 2^−16. -/
def onePlus : W32 := r32 .near (.fin false 65537 (-16))

/-- y, ‖y‖ and the residual of a key (R137), lower bounds rounded down and upper bounds up (R250). -/
def keyY (pm : List (List W32)) (k : List Val) : KeyY :=
  let pv := pm.map (fun row => row.map v32)
  let lo := pv.map (fun row => dotDir .down row k)
  let hi := pv.map (fun row => dotDir .up row k)
  let y := lo.zip hi
  let res := (List.range k.length).map (fun d =>
    let col := pv.map (fun row => row.getD d .zero)
    let l := (col.zip y).foldl (fun a x => r32 .down ((v32 a).add (x.1.mul (v32 (if x.1.sign then x.2.2 else x.2.1))))) 0
    let u := (col.zip y).foldl (fun a x => r32 .up ((v32 a).add (x.1.mul (v32 (if x.1.sign then x.2.1 else x.2.2))))) 0
    let kd := k.getD d .zero
    magUp (r32 .down (kd.sub (v32 u))) (r32 .up (kd.sub (v32 l))))
  ⟨lo, hi, normUp (lo.zipWith magUp hi), (Fmt.fp16.round .up .quiet (v32 (upMul (normUp res) onePlus))).1⟩

/-- A key meets R139 by its projection or radius. -/
def KeyY.bad (y : KeyY) : Bool :=
  !(y.lo ++ y.hi ++ [y.norm]).all isFin32 || (y.lo.zipWith magUp y.hi).any (fun x => fle 0x47000000 x) || decide (0x7800 ≤ y.rad)

/-- δ of P (R137), rounded up. -/
def deltaOf (pm : List (List W32)) : W32 :=
  let pv := pm.map (fun row => row.map v32)
  ((List.range 32).flatMap (fun i => (List.range 32).map (fun j =>
    let a := pv.getD i []
    let b := pv.getD j []
    let one : W32 := if i = j then 0x3F800000 else 0
    magUp (fsub .down (dotDir .down a b) one) (fsub .up (dotDir .up a b) one)))).foldl maxF 0

/-- δ is above 2^−4, or no number. -/
def deltaBad (pm : List (List W32)) : Bool := !(pm.all (fun r => r.all isFin32)) || !isFin32 (deltaOf pm) || flt 0x3D800000 (deltaOf pm)

/-- A child of a key node: its box and its radius in FP16. -/
structure KBox where
  box : Box
  rad : Nat
deriving DecidableEq, Repr

def KBox.join (a b : KBox) : KBox := ⟨boxJoin a.box b.box, max a.rad b.rad⟩

/-- The union of some children. -/
def joinAll : List KBox → Option KBox
  | [] => none
  | b :: r => match joinAll r with | none => some b | some c => some (b.join c)

/-- The box and radius of a set of keys: bounds of y, widened by w (R137). -/
def keysBox (delta : W32) (ys : List KeyY) : KBox :=
  let m := (ys.map (·.norm)).foldl maxF 0
  let w := upMul (upAdd (upMul 0x42000000 delta) 0x37800000) m
  let u := (boxUnion (ys.map (fun y => some (y.lo, y.hi)))).getD ([], [])
  ⟨(u.1.map (fun x => fsub .down x w), u.2.map (fun x => fadd .up x w)), (ys.map (·.rad)).foldl max 0⟩

/-! ## Key nodes (R135, R138) -/

/-- A grid: ORIGIN in FP16, NODE_EXP, SHIFT. -/
structure KGrid where
  org : List Nat
  ex  : Int
  sh  : List Nat
deriving DecidableEq, Repr

def f16 (w : Nat) : Val := Fmt.fp16.decode w

/-- The grid over a union of boxes (R138). -/
def keyGrid (u : Box) : KGrid :=
  let org := u.1.map (fun x => (Fmt.fp16.round .down .quiet (v32 x)).1)
  let es := org.zipWith (fun o hi => gridExp (v32 (r32 .up ((v32 hi).sub (f16 o))))) u.2
  let top := (es.filterMap id).foldl (fun (a : Option Int) e => some (match a with | none => e | some b => max b e)) none
  let ex := match top with | none => -128 | some e => max (e - 15) (-128)
  ⟨org, ex, es.map (fun e => match e with | none => 0 | some e => (e - ex).toNat)⟩

/-- The grid of a node in memory. -/
def nodeGrid (v : Nat) : KGrid :=
  ⟨(List.range 32).map (fun i => by_ v (32 + 2 * i) 2), sext 8 (by_ v 24 1), (List.range 32).map (fun i => nfld v (8 * 96 + 4 * i) 4)⟩

/-- LO and HI of a box on a grid, dimension by dimension. -/
def quantKey (g : KGrid) (b : Box) : List (Nat × Nat) :=
  (List.range 32).map (fun i =>
    let o := f16 (g.org.getD i 0)
    let e := g.ex + g.sh.getD i 0
    (gridStep .down (v32 (r32 .down ((v32 (b.1.getD i 0)).sub o))) e, gridStep .up (v32 (r32 .up ((v32 (b.2.getD i 0)).sub o))) e))

/-- A box lies within what a grid can express. -/
def fitsGrid (g : KGrid) (b : Box) : Bool :=
  (List.range 32).all (fun i => (f16 (g.org.getD i 0)).le (v32 (b.1.getD i 0))) && (quantKey g b).all (fun x => decide (x.2 ≤ 255))

/-- A key node's 640 B from its grid and, per slot, child word, radius and quantised box; slots beyond the list are EMPTY. -/
def encodeKeyNode (g : KGrid) (kids : List (Nat × Nat × List (Nat × Nat))) : Nat :=
  let slot := fun c => kids[c]?
  let cs := List.range 8
  packBytes 3 (cs.map (fun c => match slot c with | some k => k.1 | none => 0xFFFFFF))
  + 256 ^ 24 * wrapN 8 g.ex
  + 256 ^ 32 * packBytes 2 g.org
  + 256 ^ 96 * (g.sh.foldr (fun x acc => x % 16 + 16 * acc) 0)
  + 256 ^ 112 * packBytes 2 (cs.map (fun c => match slot c with | some k => k.2.1 | none => 0))
  + 256 ^ 128 * packBytes 64 (cs.map (fun c => match slot c with
      | some k => packBytes 1 (k.2.2.flatMap (fun x => [x.1, x.2]))
      | none => 0))

/-- A node over children with exact boxes: a fresh grid (R138). -/
def freshKeyNode (kids : List (Nat × KBox)) : Nat :=
  match joinAll (kids.map (·.2)) with
  | none => encodeKeyNode ⟨List.replicate 32 0, -128, List.replicate 32 0⟩ []
  | some u => let g := keyGrid u.box
              encodeKeyNode g (kids.map (fun k => (k.1, k.2.rad, quantKey g k.2.box)))

/-- Child word of a slot. -/
def kidWord (v c : Nat) : Nat := by_ v (3 * c) 3

/-- Slots of a node that are not EMPTY. -/
def kidSlots (v : Nat) : List Nat := (List.range 8).filter (fun c => kidWord v c / 2 ^ 22 != 3)

/-- A child's box as decoded, and its radius. -/
def decodedKid (v c : Nat) : KBox :=
  ⟨((List.range 32).map (keyCorner .down v c 0), (List.range 32).map (keyCorner .up v c 1)), by_ v (112 + 2 * c) 2⟩

/-- The decoded union of a node's children. -/
def decodedUnion (v : Nat) : Option KBox := joinAll ((kidSlots v).map (decodedKid v))

/-- LEAF and INTERNAL child words (R136). -/
def leafWord (j : Nat) : Nat := 0x400000 + j
def nodeWord (u : Nat) : Nat := u

/-! ## A tree over leaves (R149) -/

/-- Nodes at a level over `n` leaves; level 0 counts the leaves. -/
def levelCount (n : Nat) : Nat → Nat
  | 0 => n
  | l + 1 => cdiv (levelCount n l) 8

/-- The lowest level with one item. -/
def rootLevel (n : Nat) : Nat → Nat
  | 0 => 0
  | f + 1 => if n ≤ 1 then 0 else rootLevel (cdiv n 8) f + 1

/-- Children of node `i` of level l + 1, as numbers of level l. -/
def groupKids (n l i : Nat) : List Nat := (List.range 8).filterMap (fun c => if 8 * i + c < levelCount n l then some (8 * i + c) else none)

/-- The nodes below a node in depth-first order, as level and number. -/
def keyVisit (n : Nat) : Nat → Nat → List (Nat × Nat)
  | 0, _ => []
  | l + 1, i => (l + 1, i) :: (groupKids n l i).flatMap (keyVisit n l)

/-- Units of the nodes: the root at `first`, then the children of each node as one run, in depth-first order. -/
def keyUnits (n first : Nat) (order : List (Nat × Nat)) : List ((Nat × Nat) × Nat) :=
  (order.foldl (fun (acc : List ((Nat × Nat) × Nat) × Nat) x =>
    if x.1 ≤ 1 then acc
    else
      let ks := groupKids n (x.1 - 1) x.2
      (acc.1 ++ (ks.zip (List.range ks.length)).map (fun k => ((x.1 - 1, k.1), acc.2 + k.2)), acc.2 + ks.length))
    ((order.head?.map (fun x => (x, first))).toList, first + 1)).1

def unitAt (us : List ((Nat × Nat) × Nat)) (x : Nat × Nat) : Nat := ((us.find? (fun e => e.1 == x)).map (·.2)).getD 0

/-- The root word, depth and nodes of a tree over items given by child word and box, the root node at unit `first`; a leaf alone is the root. -/
def wordTree (first : Nat) (items : List (Nat × KBox)) : Nat × Nat × List (Nat × Nat) :=
  let n := items.length
  let item := fun i => items.getD i (0xFFFFFFFF, ⟨([], []), 0⟩)
  let top := if n = 1 && (item 0).1 / 2 ^ 22 != 1 then 1 else rootLevel n n
  if top = 0 then ((item 0).1, 0, [])
  else
    let order := keyVisit n top 0
    let us := keyUnits n first order
    let nodes := order.foldr (fun x (acc : List ((Nat × Nat) × Nat × KBox)) =>
      let kids := (groupKids n (x.1 - 1) x.2).map (fun i =>
        if x.1 = 1 then item i
        else (nodeWord (unitAt us (x.1 - 1, i)), ((acc.find? (fun e => e.1 == (x.1 - 1, i))).map (·.2.2)).getD ⟨([], []), 0⟩))
      let v := freshKeyNode kids
      (x, v, (decodedUnion v).getD ⟨([], []), 0⟩) :: acc) []
    (nodeWord first, top, nodes.map (fun x => (unitAt us x.1, x.2.1)))

/-- The tree over leaves given by index and box. -/
def keyTree (first : Nat) (leaves : List (Nat × KBox)) : Nat × Nat × List (Nat × Nat) := wordTree first (leaves.map (fun x => (leafWord x.1, x.2)))

/-! ## BUILD_KEYS (R148, R149) -/

/-- Keys `i` to `i + n - 1` of a leaf; none where one meets R139. -/
def State.keysOf (s : State) (p : PartId) (k : KeySrc) (pm : List (List W32)) : Nat → Nat → Acc (Option (List KeyY))
  | _, 0 => .ok (some [])
  | i, n + 1 => match s.keyRow p k i with
    | .bad x => .bad x
    | .ok none => .ok none
    | .ok (some row) =>
      let y := keyY pm row
      if y.bad then .ok none
      else match s.keysOf p k pm (i + 1) n with
        | .bad x => .bad x
        | .ok none => .ok none
        | .ok (some l) => .ok (some (y :: l))

/-- Least capacity in node units (R149). -/
def keyCapUnits (cap : Nat) : Nat := cdiv (cdiv cap 32) 7 + 7

/-- The leaf boxes of `count` keys. -/
def leafBoxes (delta : W32) (count : Nat) (ys : List KeyY) : List KBox :=
  (List.range (cdiv count 32)).map (fun j => keysBox delta ((ys.drop (32 * j)).take 32))

/-- Keys `i` to `i + n - 1` that could be read before the first that could not (R144). -/
def State.keysRead (s : State) (p : PartId) (k : KeySrc) : Nat → Nat → Nat
  | _, 0 => 0
  | i, n + 1 => match s.keyRow p k i with
    | .ok (some _) => s.keysRead p k (i + 1) n + 1
    | _ => 0

/-- The 64-bit Morton code of a leaf's box centre among complete leaves: 8 bits of each of the first 8 projected dimensions (R148). -/
def leafCode (bs : List KBox) (b : KBox) : Nat :=
  let ext := fun (k : KBox) (i : Nat) => (k.box.1.getD i 0, k.box.2.getD i 0)
  interleave 8 ((List.range 8).map (fun i => (Config.keyCoord (bs.map (fun k => ext k i)) (ext b i)).toNat))

/-- Leaves by Morton code, ties by leaf index (R148, R153). -/
def leafOrder (l : List (Nat × KBox)) : List Nat :=
  let code := fun (x : Nat × KBox) => leafCode (l.map (·.2)) x.2 * 2 ^ 32 + x.1
  (sortBy (fun (a b : Nat × Nat) => decide (a.1 ≤ b.1)) (l.map (fun x => (code x, x.1)))).map (·.2)

/-- The complete leaves in the order their grouping takes, the open leaf behind them (R149). -/
def leafPlaces (keep : Bool) (count : Nat) (box : Nat → KBox) : List Nat :=
  (if keep then List.range (count / 32) else leafOrder ((List.range (count / 32)).map (fun j => (j, box j))))
    ++ (if count % 32 = 0 then [] else [count / 32])

/-- BUILD_KEYS: it writes nothing before every key has met R139; from there it replaces the hierarchy (R139, R142). -/
def execBuildKeys (q : QueueId) (scratch : List (Nat × Byte)) (env : Env) (s : State) : Host.Outcome State Fault Refusal :=
  let s := s.at env.t
  match s.beginning q 0x11 with
  | none => .next s
  | some c =>
    let p := s.qPart q
    let r : CmdRef := ⟨q, c.seq⟩
    let n := rb c.raw 16 4
    let dst := rb c.raw 24 8
    let dim := rb c.raw 56 2
    let keep := bit c.raw 320
    match s.vdesc p dst with
    | .bad x => .next (s.buildPark env r x)
    | .ok d =>
      let src : KeySrc := ⟨d.kfmt, dim, rb c.raw 8 8, d.scaleAddr⟩
      if !d.softOk 1 false || !s.fmtOn c.caddy p d.kfmt || decide (d.keyCap < n) || decide (d.cap < keyCapUnits d.keyCap) then .next (s.finish r stBadField)
      else match s.vnum p (rb c.raw 48 8) (64 * dim) with
        | .bad x => .next (s.buildHalt env r dst 0 x)
        | .ok pn =>
          let pm := pRows dim pn
          if deltaBad pm then .next (s.finish r stBadField)
          else match s.keysOf p src pm 0 n with
            | .bad x => .next (s.buildHalt env r dst (s.keysRead p src 0 n / 32 * 32) x)
            | .ok none => .next (s.finish r stBadField)
            | .ok (some ys) =>
              let bs := leafBoxes (deltaOf pm) n ys
              let box := fun j => bs.getD j ⟨([], []), 0⟩
              let t := keyTree 0 ((leafPlaces keep n box).map (fun j => (j, box j)))
              .next (s.buildOut env r dst (emptyFirst dst d ++ scratchWrites c (320 * cdiv n 32 + 2 ^ 20) scratch
                ++ unitWrites d.base 640 t.2.2
                ++ [wr (dst + 2) 2 (if keep then 2 else 0), wr (dst + 16) 4 t.2.2.length, wr (dst + 38) 1 t.2.1,
                    wr (dst + 66) 2 dim, wr (dst + 72) 4 n, wr (dst + 80) 8 (rb c.raw 8 8), wr (dst + 96) 8 (rb c.raw 48 8),
                    wr (dst + 104) 4 (deltaOf pm).toNat, seqWrite dst d, wr (dst + 4) 4 t.1]) [(0, n)] none)

/-! ## BUILD_INSERT (R150, R151) -/

/-- An index while an entry is applied: its descriptor as it will be, and the nodes written so far by unit. -/
structure Ins where
  root  : Nat
  used  : Nat
  depth : Nat
  count : Nat
  nodes : List (Nat × Nat)

/-- What a key's insertion comes to. -/
inductive InsRes where
  | ok (w : Ins)
  | stop
  | fault (x : Xfault)

def Ins.empty_ (w : Ins) : Bool := w.root == 0xFFFFFFFF || w.root == 0x00FFFFFF

/-- A node as the entry has left it. -/
def State.insNode (s : State) (p : PartId) (base : Nat) (w : Ins) (u : Nat) : Acc Nat :=
  match assocGet u w.nodes with
  | some v => .ok v
  | none => s.vnum p (base + 640 * u) 640

/-- A node's reserved bytes zero (R4, R127, R135). -/
def cleanNode (isBox : Bool) (v : Nat) : Nat := if isBox then putBy (putBy v 15 1 0) 112 16 0 else putBy v 25 7 0

/-- A node as the entry leaves it, its reserved bytes zero (R4). -/
def Ins.put (w : Ins) (u v : Nat) : Ins := { w with nodes := (u, cleanNode false v) :: w.nodes.filter (fun e => e.1 != u) }

/-- The tail path from a node of a level down to the bottom: unit, tail slot. -/
def State.tailPath (s : State) (p : PartId) (base : Nat) (w : Ins) : Nat → Nat → Acc (List (Nat × Nat))
  | 0, _ => .ok []
  | l + 1, u => match s.insNode p base w u with
    | .bad x => .bad x
    | .ok v =>
      let c := (kidSlots v).length - 1
      match s.tailPath p base w l (kidWord v c % 2 ^ 22) with
      | .bad x => .bad x
      | .ok r => .ok ((u, c) :: r)

/-- A child's box and radius grow in its node (R151): within the node's grid, else on a new one over every child as decoded. `fresh` marks
a child that has no box yet. -/
def growKid (v c : Nat) (fresh : Bool) (b : KBox) : Nat :=
  let others := (kidSlots v).filter (fun k => k != c)
  let g := nodeGrid v
  let rad := if fresh then b.rad else max b.rad (by_ v (112 + 2 * c) 2)
  if (!others.isEmpty || !fresh) && fitsGrid g b.box then
    let qs := quantKey g b.box
    (List.range 32).foldl (fun v i =>
      let x := qs.getD i (0, 0)
      let at_ := 128 + 64 * c + 2 * i
      let lo := if fresh then x.1 else min x.1 (by_ v at_ 1)
      let hi := if fresh then x.2 else max x.2 (by_ v (at_ + 1) 1)
      putBy (putBy v at_ 1 lo) (at_ + 1) 1 hi) (putBy v (112 + 2 * c) 2 rad)
  else
    let kid := fun k => if k = c then (if fresh then b else ⟨boxJoin (decodedKid v c).box b.box, rad⟩) else decodedKid v k
    freshKeyNode ((kidSlots v).map (fun k => (kidWord v k, kid k)))

/-- Growth up the tail, bottom first: unit, slot, whether its child is new there. -/
def State.growUp (s : State) (p : PartId) (base : Nat) : List (Nat × Nat × Bool) → KBox → Ins → Acc Ins
  | [], _, w => .ok w
  | (u, c, fresh) :: r, b, w => match s.insNode p base w u with
    | .bad x => .bad x
    | .ok v =>
      let v1 := growKid v c fresh b
      s.growUp p base r ((decodedUnion v1).getD b) (w.put u v1)

/-- A node whose only child is given, its box to come. -/
def chainNode (wd : Nat) : Nat := encodeKeyNode ⟨List.replicate 32 0, -128, List.replicate 32 0⟩ [(wd, 0, List.replicate 32 (0, 0))]

/-- A chain of `k` new nodes down to a leaf: the word of its top, the new path from the top, the index after it. -/
def leafChain (j : Nat) : Nat → Ins → Nat × List (Nat × Nat × Bool) × Ins
  | 0, w => (leafWord j, [], w)
  | k + 1, w =>
    let u := w.used
    let x := leafChain j k { w with used := w.used + 1 }
    (nodeWord u, (u, 0, true) :: x.2.1, x.2.2.put u (chainNode x.1))

/-- A new leaf's path from the top after it is attached at the tail of a path (R151); none of the path's nodes has an empty slot: `none`. -/
def State.attachAt (s : State) (p : PartId) (base j : Nat) (w : Ins) : List (Nat × Nat) → Acc (Option (List (Nat × Nat × Bool) × Ins))
  | [] => .ok none
  | (u, c) :: r => match s.attachAt p base j w r with
    | .bad x => .bad x
    | .ok (some y) => .ok (some ((u, c, false) :: y.1, y.2))
    | .ok none =>
      if 7 ≤ c then .ok none
      else match s.insNode p base w u with
        | .bad x => .bad x
        | .ok v =>
          let x := leafChain j r.length w
          .ok (some ((u, c + 1, true) :: x.2.1, x.2.2.put u (putBy v (3 * (c + 1)) 3 x.1)))

/-- The box and radius of the old root, which a new root holds as child 0. -/
def State.rootBox (s : State) (p : PartId) (base : Nat) (k : KeySrc) (pm : List (List W32)) (delta : W32) (w : Ins) : Acc (Option KBox) :=
  if w.depth = 0 then
    match s.keysOf p k pm (32 * (w.root % 2 ^ 22)) 32 with
    | .bad x => .bad x
    | .ok none => .ok none
    | .ok (some ys) => .ok (some (keysBox delta ys))
  else match s.insNode p base w w.root with
    | .bad x => .bad x
    | .ok v => .ok (decodedUnion v)

/-- The tail path of the key's leaf, bottom first, the leaf attached where the key opens one. In a hierarchy that a failed
build left empty the stored ROOT and DEPTH are walked as they stand (DESIGN CHOICE, log 205). -/
def State.insPath (s : State) (p : PartId) (base cap : Nat) (k : KeySrc) (pm : List (List W32)) (delta : W32) (w : Ins) :
    Acc (Option (List (Nat × Nat × Bool) × Ins)) :=
  let j := w.count / 32
  let done := fun (x : List (Nat × Nat × Bool) × Ins) => if cap < x.2.used then none else some (x.1.reverse, x.2)
  if w.count % 32 ≠ 0 then
    match s.tailPath p base w w.depth w.root with
    | .bad x => .bad x
    | .ok l => .ok (done (l.map (fun x => (x.1, x.2, false)), w))
  else if w.empty_ then .ok (done ([], { w with root := leafWord j, depth := 0 }))
  else match s.tailPath p base w w.depth w.root with
    | .bad x => .bad x
    | .ok l => match s.attachAt p base j w l with
      | .bad x => .bad x
      | .ok (some y) => .ok (done y)
      | .ok none => match s.rootBox p base k pm delta w with
        | .bad x => .bad x
        | .ok none => .ok none
        | .ok (some b) =>
          let u := w.used
          let x := leafChain j w.depth { w with used := w.used + 1 }
          let v := putBy (freshKeyNode [(w.root, b)]) 3 3 x.1
          .ok (done ((u, 1, true) :: x.2.1, { x.2.2.put u v with root := nodeWord u, depth := w.depth + 1 }))

/-- One key inserted (R151); `stop` where it meets R139, by δ of the descriptor or by the key, or finds no node unit left. -/
def State.insKey (s : State) (p : PartId) (base cap : Nat) (k : KeySrc) (pm : List (List W32)) (delta : W32) (w : Ins) : InsRes :=
  if !isFin32 delta || flt 0x3D800000 delta then .stop
  else match s.keysOf p k pm w.count 1 with
  | .bad x => .fault x
  | .ok (some [y]) => match s.insPath p base cap k pm delta w with
    | .bad x => .fault x
    | .ok none => .stop
    | .ok (some (path, w1)) => match s.growUp p base path (keysBox delta [y]) w1 with
      | .bad x => .fault x
      | .ok w2 => .ok { w2 with count := w.count + 1 }
  | .ok _ => .stop

/-- Up to `n` keys: the index after those inserted, how many, and what stopped them. -/
def State.insKeys (s : State) (p : PartId) (base cap : Nat) (k : KeySrc) (pm : List (List W32)) (delta : W32) : Nat → Nat → Ins →
    Ins × Nat × Option (Option Xfault)
  | 0, m, w => (w, m, none)
  | n + 1, m, w => match s.insKey p base cap k pm delta w with
    | .ok w1 => s.insKeys p base cap k pm delta n (m + 1) w1
    | .stop => (w, m, some none)
    | .fault x => (w, m, some (some x))

/-- The descriptor fields of an index at the end of an entry, ROOT last (R142, R151). -/
def insFields (dst : Nat) (d : Desc) (w : Ins) : List (Nat × List Byte) :=
  [wr (dst + 72) 4 w.count, wr (dst + 16) 4 w.used, wr (dst + 38) 1 w.depth, seqWrite dst d, wr (dst + 4) 4 w.root]

/-- The descriptor with an entry's progress in it, as the engine holds it while the entry is parked. -/
def heldDesc (d : Desc) (w : Ins) : Desc :=
  BitVec.ofNat 1024 (putBy (putBy (putBy (putBy d.toNat 4 4 w.root) 16 4 w.used) 38 1 w.depth) 72 4 w.count)

/-- One entry applied to its index, from the keys of it already inserted on: `d` is the descriptor in memory, `h` the one held. -/
def State.insEntry (s : State) (env : Env) (c : Cmd) (r : CmdRef) (dst keys : Nat) (d h : Desc) : State :=
  let p := s.qPart r.q
  let part := h.keyCount - d.keyCount
  let park := fun (s : State) (x : Xfault) => s.buildPark env r x
  match s.vnum p h.pAddr (64 * h.dim) with
  | .bad x => park s x
  | .ok pn =>
    let pm := pRows h.dim pn
    let x := s.insKeys p h.base h.cap ⟨h.kfmt, h.dim, h.keyAddr, h.scaleAddr⟩ pm h.delta (keys - part) 0
      ⟨h.root, h.used, h.depth, h.keyCount, []⟩
    let ns := unitWrites h.base 640 x.1.nodes
    let wrote := decide (c.offset ≠ 0) || !x.1.nodes.isEmpty
    let m := x.2.1
    let put := fun (ws : List (Nat × List Byte)) (f : State → State) => match s.vwriteAll p ws with
      | .bad e => park s e
      | .ok s1 => f (s1.doIf (!ws.isEmpty) (·.noteWrite (.command r) p (spansOf ws)))
    match x.2.2 with
    | none => put (ns ++ insFields dst d x.1) (fun s1 =>
        let s2 := s1.updCmd r (fun y => { y with phase := .running, next := y.next + 1, done := y.done + m, offset := 0, descs := [] })
        s2.doIf (decide (c.total ≤ c.done + m)) (·.finishOk r))
    | some none =>
      if m + part = 0 then s.finish r stBadField
      else put (ns ++ insFields dst d x.1 ++ (if wrote then [wr (dst + 2) 1 (d.byte 2 1 / 2 * 2 + 1)] else [])) (fun s1 =>
        (s1.updCmd r (fun y => { y with done := y.done + m })).finish r stBadField)
    | some (some e) => put ns (fun s1 =>
        park (s1.updCmd r (fun y => { y with
          phase := .running, done := y.done + m, intakeAt := dst, offset := if wrote then 1 else 0, descs := [(0, heldDesc h x.1)] })) e)

/-- BUILD_INSERT: the next entry of the running command, or the command's one index. The reserved bits of an entry's address are ignored
(R4, R5); a misaligned one has the fault BAD_FIELD (DESIGN CHOICE, log 163). -/
def execBuildInsert (q : QueueId) (env : Env) (s : State) : Host.Outcome State Fault Refusal :=
  let s := s.at env.t
  match s.runOrBegin q 0x12 with
  | none => .next s
  | some c =>
    let p := s.qPart q
    let r : CmdRef := ⟨q, c.seq⟩
    let n := rb c.raw 16 4
    let go := fun (dst keys : Nat) => match s.vdesc p dst with
      | .bad x => s.buildPark env r x
      | .ok d => match assocGet 0 c.descs with
        | some h => s.insEntry env c r dst keys d h
        | none =>
          if !d.softOk 1 true || decide (d.keyCap - d.keyCount < keys) || d.dim != rb c.raw 56 2 then s.finish r stBadField
          else s.insEntry env c r dst keys d d
    if !bit c.raw 320 then .next (go (rb c.raw 24 8) n)
    else match s.vnum p (rb c.raw 8 8 + 16 * c.next) 16 with
      | .bad x => .next (s.buildPark env r x)
      | .ok e =>
        let dst := by_ e 0 8 % 2 ^ 57
        let keys := by_ e 8 4
        if keys = 0 then .next (s.updCmd r (fun y => { y with phase := .running, next := y.next + 1 }))
        else if (c.descs.isEmpty && decide (n < c.done + keys)) || dst % 64 != 0 then .next (s.finish r stBadField)
        else .next (go dst keys)

end Sys2Proof.Machine
end

