-- ==== Sys2Proof/Machine/BuildCopy.lean ====
section
/-!
DEFINITION. Sys2Proof/Machine/BuildCopy.lean: BUILD_COMPACT (R153) and BUILD_SPLIT (R154 to R156).
-/

namespace Sys2Proof.Machine

/-! ## Where copied nodes go -/

/-- New units of source nodes and leaves by source unit, and the next free unit. -/
structure CopyLay where
  nodes  : List (Nat × Nat)
  leaves : List (Nat × Nat)
  next   : Nat
deriving DecidableEq, Repr

/-- Children of a node take the next units, in the order given; a child that `cut` names takes none here. -/
def layRun (isBox : Bool) (cut : Nat → Bool) : List MemKid → CopyLay → CopyLay
  | [], l => l
  | k :: r, l =>
    if k.what = 0 && !cut k.idx then layRun isBox cut r { l with nodes := (k.idx, l.next) :: l.nodes, next := l.next + 1 }
    else if k.what = 1 && isBox then layRun isBox cut r { l with leaves := (k.idx, l.next) :: l.leaves, next := l.next + k.leafLen true }
    else layRun isBox cut r l

/-- The children of a node in the order of their run: as their slots stand, or internal children first (R153). -/
def runOrder (intFirst : Bool) (ks : List MemKid) : List MemKid :=
  if intFirst then ks.filter (fun k => k.what == 0) ++ ks.filter (fun k => k.what != 0) else ks

/-- A part of a hierarchy, its nodes in depth-first order, laid out from unit `first`. -/
def layPart (isBox intFirst : Bool) (cut : Nat → Bool) (first : Nat) (ns : List MemNode) (l : CopyLay) : CopyLay :=
  match ns with
  | [] => l
  | root :: _ => ns.foldl (fun l n => layRun isBox cut (runOrder intFirst (memKids isBox n.raw)) l)
      { l with nodes := (root.unit, first) :: l.nodes, next := first + 1 }

def CopyLay.node (l : CopyLay) (u : Nat) : Nat := (assocGet u l.nodes).getD 0
def CopyLay.leaf (l : CopyLay) (u : Nat) : Nat := (assocGet u l.leaves).getD 0

/-- META of a child that is no leaf keeps its kind only (R127). -/
def metaOf (k : MemKid) (kind : Nat) : Nat := if k.what = 1 then k.kind + 8 * (k.n - 1) else kind

/-- A node with its child words renamed and its reserved bits zero; a child that `cut` gives an ID becomes REMOTE and keeps its box and
radius (R156). -/
def renameNode (isBox : Bool) (l : CopyLay) (cut : Nat → Option Nat) (v : Nat) : Nat :=
  (memKids isBox v).foldl (fun v k =>
    if isBox then
      let put := fun (idx kind : Nat) => putBy (putBy v (16 + 4 * k.slot) 4 idx) (48 + k.slot) 1 (metaOf k kind)
      if k.what = 0 then match cut k.idx with
        | some id => put id 5
        | none => put (l.node k.idx) 0
      else if k.what = 1 then put (l.leaf k.idx) 0 else put (k.idx % 2 ^ 16) 5
    else if k.what = 0 then match cut k.idx with
      | some id => putBy v (3 * k.slot) 3 (0x800000 + id)
      | none => putBy v (3 * k.slot) 3 (nodeWord (l.node k.idx))
    else if k.what = 2 then putBy v (3 * k.slot) 3 (0x800000 + k.idx % 2 ^ 16)
    else v) (cleanNode isBox v)

/-- A leaf unit of a child kind with its reserved bits zero (R4, R130 to R132). -/
def cleanUnit (kind v : Nat) : Nat :=
  if kind = 1 then (List.range 3).foldl (fun v k => putBy v (108 + 4 * k) 4 (by_ v (108 + 4 * k) 4 % 2 ^ 31)) (putBy v 120 8 0)
  else if kind = 2 then putBy (putBy (putBy v 64 64 0) 48 8 (by_ v 48 8 % 2 ^ 57)) 61 1 (by_ v 61 1 % 32)
  else (List.range 4).foldl (fun v k => putBy v (32 * k + 28) 4 (by_ v (32 * k + 28) 4 % 2 ^ (if kind = 4 then 31 else 30))) v

/-- The leaves of walked box nodes as they are written. -/
def cleanLeaves (ns : List MemNode) (leaves : List (Nat × Nat)) : List (Nat × Nat) :=
  (leafKids ns).map (fun k =>
    let v := (assocGet k.2.idx leaves).getD 0
    (k.2.idx, packBytes 128 ((List.range (leafUnits k.2.kind k.2.n)).map (fun i => cleanUnit k.2.kind (by_ v (128 * i) 128)))))

/-- Source leaves of walked box nodes: first unit, units. -/
def boxLeafUnits (isBox : Bool) (ns : List MemNode) : List (Nat × Nat) :=
  if isBox then (leafKids ns).map (fun k => (k.2.idx, leafUnits k.2.kind k.2.n)) else []

/-- The writes of copied nodes and leaf units. -/
def copyWrites (isBox : Bool) (base : Nat) (l : CopyLay) (cut : Nat → Option Nat) (ns : List MemNode) (leaves : List (Nat × Nat))
    (lens : List (Nat × Nat)) : List (Nat × List Byte) :=
  lens.map (fun x => wr (base + 128 * l.leaf x.1) (128 * x.2) ((assocGet x.1 leaves).getD 0))
  ++ ns.map (fun n => wr (base + unitBytes isBox * l.node n.unit) (unitBytes isBox) (renameNode isBox l cut n.raw))

/-- The marks of those writes behind `at_` others: node units copied (R144). -/
def copyMarks (at_ : Nat) (ns : List MemNode) (lens : List (Nat × Nat)) : List (Nat × Nat) :=
  runMarks at_ (lens.map (fun x => (1, x.2)) ++ ns.map (fun _ => (1, 1)))

/-- The node areas of two descriptors overlap. -/
def areasOverlap (a b : Desc) : Bool :=
  let w := unitBytes a.isBox
  decide (a.base < b.base + b.cap * w) && decide (b.base < a.base + a.cap * w)

/-- Fields of the destination that the source's hierarchy gives (R122, R123). -/
def copiedFields (dst : Nat) (src : Desc) : List (Nat × List Byte) :=
  let f := fun b n => wr (dst + b) n (src.byte b n)
  if src.isBox then [f 38 1, f 40 4, f 64 29] else [f 38 1, f 66 2, f 72 4, f 80 8, f 96 12]

/-- The source of a copy or split can be read as a hierarchy. -/
def Desc.source (d : Desc) : Bool := decide (d.kind ≤ 3) && d.byte 1 1 == 1 && !d.reserved && !d.stale && !d.empty

/-! ## BUILD_COMPACT -/

/-- Walks of several roots, one list per root. -/
def State.memWalks (s : State) (p : PartId) (isBox : Bool) (base fuel : Nat) : List Nat → Acc (Option (List (List MemNode)))
  | [] => .ok (some [])
  | u :: r => match s.memWalk p isBox base fuel [(u, 1)], s.memWalks p isBox base fuel r with
    | .bad x, _ => .bad x
    | _, .bad x => .bad x
    | .ok (some l), .ok (some m) => .ok (some (l :: m))
    | _, _ => .ok none

/-- The subtree table of a sharded source; nothing for the other kinds. -/
def State.subTable (s : State) (p : PartId) (d : Desc) : Acc Nat :=
  if d.isSharded then s.vnum p d.subAddr (32 * d.subCount) else .ok 0

/-- The node that a root word names, if it names one. -/
def rootNode (isBox : Bool) (w : Nat) : List Nat := if isBox || w / 2 ^ 22 = 0 then [w] else []

/-- The new word of a root. -/
def newRoot (isBox : Bool) (l : CopyLay) (w : Nat) : Nat := if isBox || w / 2 ^ 22 = 0 then l.node w else w

/-- The leaf lists of a sharded key source, which follow its table (R156). -/
def tableEntries (n table : Nat) : List Nat := (List.range n).map (fun i => by_ table (32 * i) 32)

/-- The table of a compacted sharded hierarchy: new roots and ranges, leaf lists behind the destination's table, reserved bits zero. -/
def compactTable (isBox : Bool) (dst : Desc) (src : Desc) (roots : List Nat) (parts : List (Nat × Nat)) (es : List Nat) : Nat :=
  packBytes 32 ((es.zip (List.range es.length)).map (fun x =>
    let r := parts.getD x.2 (0, 0)
    let list := by_ x.1 16 8
    putBy (putBy (putBy (putBy (putBy (putBy x.1 2 2 0) 28 4 0) 4 4 (roots.getD x.2 0)) 8 4 r.1) 12 4 r.2) 16 8
      (if isBox then 0 else (list - src.subAddr + dst.subAddr) % 2 ^ 57)))

/-- Parts laid out one behind another; the first unit and length of each. -/
def layParts (isBox : Bool) : List (List MemNode) → CopyLay → CopyLay × List (Nat × Nat)
  | [], l => (l, [])
  | ns :: r, l =>
    let l1 := layPart isBox true (fun _ => false) l.next ns l
    let x := layParts isBox r l1
    (x.1, (l.next, l1.next - l.next) :: x.2)

/-- A command that replaces a hierarchy ends with an error after its first writes: UPDATE_SEQ goes up (R121, R142). -/
def State.buildFail (s : State) (env : Env) (r : CmdRef) (dst : Nat) (d : Desc) (st : W16) : State := s.buildOut env r dst [seqWrite dst d] [] (some st)

/-- BUILD_COMPACT of a hierarchy as it stands. -/
def State.compactPlain (s : State) (env : Env) (c : Cmd) (r : CmdRef) (src d : Desc) : State :=
  let p := s.qPart r.q
  let box := d.isBox
  let dst := rb c.raw 24 8
  match s.subTable p src with
  | .bad x => s.buildHalt env r dst 0 x
  | .ok table =>
    let es := if src.isSharded then tableEntries src.subCount table else []
    let roots := rootNode box src.root ++ es.flatMap (fun e => rootNode box (by_ e 4 4))
    match s.memWalks p box src.base (src.used + 1) roots with
    | .bad x => s.buildHalt env r dst 0 x
    | .ok none => s.buildFail env r dst d stContained
    | .ok (some parts) =>
      let ns := parts.flatMap id
      let lens := boxLeafUnits box ns
      let lay := layParts box parts ⟨[], [], 0⟩
      let lists := if src.isSharded && !box then (es.map (fun e => by_ e 24 4)).foldl (· + ·) 0 else 0
      if d.cap < lay.1.next then s.buildFail env r dst d stBadField
      else match s.memLeaves p src.base lens, s.vnum p (src.subAddr + 32 * es.length) (4 * lists) with
        | .bad x, _ => s.buildHalt env r dst 0 x
        | _, .bad x => s.buildHalt env r dst 0 x
        | .ok leaves, .ok lv =>
          let ranges := if (rootNode box src.root).isEmpty then lay.2 else lay.2.drop 1
          s.buildOut env r dst (copyWrites box d.base lay.1 (fun _ => none) ns (cleanLeaves ns leaves) lens
            ++ (if src.isSharded then
                  [wr d.subAddr (32 * es.length) (compactTable box d src (es.map (fun e => newRoot box lay.1 (by_ e 4 4))) ranges es), wr (d.subAddr + 32 * es.length) (4 * lists) lv,
                   wr (dst + 32) 6 (src.byte 32 6)] else [])
            ++ copiedFields dst src
            ++ [wr (dst + 2) 2 (4 + src.byte 2 1 / 2 % 2 * 2), wr (dst + 16) 4 lay.1.next, seqWrite dst d,
                wr (dst + 4) 4 (newRoot box lay.1 src.root)]) (copyMarks 0 ns lens) none

/-- The complete leaves' boxes of a key hierarchy, and the open leaf's, from its bottom nodes. -/
def bottomBoxes (ns : List MemNode) : List (Nat × KBox) :=
  ns.flatMap (fun n => ((memKids false n.raw).filter (fun k => k.what == 1)).map (fun k => (k.idx, decodedKid n.raw k.slot)))

/-- BUILD_COMPACT with RECLUSTER: the complete leaves in the order of BUILD_KEYS with KEEP_ORDER 0, the open leaf behind them. -/
def State.recluster (s : State) (env : Env) (c : Cmd) (r : CmdRef) (src d : Desc) : State :=
  let p := s.qPart r.q
  let dst := rb c.raw 24 8
  match s.memWalks p false src.base (src.used + 1) (rootNode false src.root) with
  | .bad x => s.buildHalt env r dst 0 x
  | .ok none => s.buildFail env r dst d stContained
  | .ok (some parts) =>
    let bs := bottomBoxes (parts.flatMap id)
    let single := if src.root / 2 ^ 22 = 1 then [src.root % 2 ^ 22] else []
    let box := fun j => ((bs.find? (fun b => b.1 == j)).map (·.2)).getD ⟨([], []), 0⟩
    let place := leafPlaces false src.keyCount box
    let t := keyTree 0 (place.map (fun j => (j, box j)))
    if !place.all (fun j => bs.any (fun b => b.1 == j) || single.contains j) then s.buildFail env r dst d stContained
    else if d.cap < t.2.2.length then s.buildFail env r dst d stBadField
    else s.buildOut env r dst (unitWrites d.base 640 t.2.2
      ++ copiedFields dst src ++ [wr (dst + 2) 2 4, wr (dst + 16) 4 t.2.2.length, wr (dst + 38) 1 t.2.1, seqWrite dst d, wr (dst + 4) 4 t.1])
      ((List.range t.2.2.length).map (fun i => (i + 1, 1))) none

/-- The items of one tree of a sharded source as RECLUSTER groups them: its complete leaves by Morton code, the open leaf, its REMOTE children. -/
def treeItems (count : Nat) (ns : List MemNode) : List (Nat × KBox) :=
  let bs := bottomBoxes ns
  let full := bs.filter (fun b => decide (32 * (b.1 + 1) ≤ count))
  let box := fun j => ((bs.find? (fun b => b.1 == j)).map (·.2)).getD ⟨([], []), 0⟩
  let leaves := leafOrder full ++ (bs.filter (fun b => decide (count < 32 * (b.1 + 1)))).map (·.1)
  leaves.map (fun j => (leafWord j, box j))
    ++ ns.flatMap (fun n => ((memKids false n.raw).filter (fun k => k.what == 2)).map (fun k => (kidWord n.raw k.slot, decodedKid n.raw k.slot)))

/-- Trees regrouped one behind another from unit `first`: root word, depth, first unit and nodes of each. A root that is no node stays. -/
def regroupAll (count : Nat) : Nat → List Nat → List (List MemNode) → List (Nat × Nat × Nat × List (Nat × Nat))
  | _, [], _ => []
  | first, w :: r, parts =>
    if (rootNode false w).isEmpty then (w, 0, first, []) :: regroupAll count first r parts
    else match parts with
      | [] => []
      | ns :: ps =>
        let t := wordTree first (treeItems count ns)
        (t.1, t.2.1, first, t.2.2) :: regroupAll count (first + t.2.2.length) r ps

/-- BUILD_COMPACT with RECLUSTER of a sharded hierarchy: each of its trees is regrouped by itself, and the table names the new roots (DESIGN CHOICE,
log 139). -/
def State.reclusterShards (s : State) (env : Env) (c : Cmd) (r : CmdRef) (src d : Desc) : State :=
  let p := s.qPart r.q
  let dst := rb c.raw 24 8
  match s.subTable p src with
  | .bad x => s.buildHalt env r dst 0 x
  | .ok table =>
    let es := tableEntries src.subCount table
    let roots := src.root :: es.map (fun e => by_ e 4 4)
    match s.memWalks p false src.base (src.used + 1) (roots.flatMap (rootNode false)) with
    | .bad x => s.buildHalt env r dst 0 x
    | .ok none => s.buildFail env r dst d stContained
    | .ok (some parts) =>
      let ts := regroupAll src.keyCount 0 roots parts
      let ns := ts.flatMap (fun t => t.2.2.2)
      let subs := ts.drop 1
      let lists := (es.map (fun e => by_ e 24 4)).foldl (· + ·) 0
      if d.cap < ns.length then s.buildFail env r dst d stBadField
      else match s.vnum p (src.subAddr + 32 * es.length) (4 * lists) with
        | .bad x => s.buildHalt env r dst 0 x
        | .ok lv =>
          s.buildOut env r dst (unitWrites d.base 640 ns
            ++ [wr d.subAddr (32 * es.length) (compactTable false d src (subs.map (·.1)) (subs.map (fun t => (t.2.2.1, t.2.2.2.length))) es),
                wr (d.subAddr + 32 * es.length) (4 * lists) lv, wr (dst + 32) 6 (src.byte 32 6)]
            ++ copiedFields dst src
            ++ [wr (dst + 2) 2 4, wr (dst + 16) 4 ns.length, wr (dst + 38) 1 ((ts.head?.map (·.2.1)).getD 0), seqWrite dst d,
                wr (dst + 4) 4 ((ts.head?.map (·.1)).getD 0xFFFFFFFF)])
            ((List.range ns.length).map (fun i => (i + 1, 1))) none

/-- BUILD_COMPACT: the destination is emptied before the source is walked (R142). -/
def execBuildCompact (q : QueueId) (scratch : List (Nat × Byte)) (env : Env) (s : State) : Host.Outcome State Fault Refusal :=
  let s := s.at env.t
  match s.beginning q 0x14 with
  | none => .next s
  | some c =>
    let p := s.qPart q
    let r : CmdRef := ⟨q, c.seq⟩
    let dst := rb c.raw 24 8
    let re := bit c.raw 320
    match s.vdesc p dst, s.vdesc p (rb c.raw 8 8) with
    | .bad x, _ => .next (s.buildPark env r x)
    | _, .bad x => .next (s.buildPark env r x)
    | .ok d, .ok src =>
      if !src.source || !d.softOk src.kind false || rb c.raw 16 4 != src.used || areasOverlap d src || (re && d.isBox) then .next (s.finish r stBadField)
      else
        let s1 := s.buildWrite r (emptyFirst dst d ++ scratchWrites c (4 * rb c.raw 16 4 + 2 ^ 20) scratch)
        match s1.bad with
        | some x => .next (s1.s.buildHalt env r dst 0 x)
        | none => .next (
          if re && src.isSharded then s1.s.reclusterShards env c r src d
          else if re then s1.s.recluster env c r src d
          else s1.s.compactPlain env c r src d)

/-! ## BUILD_SPLIT -/

/-- The nodes below some units among walked ones, in depth-first order, not entering those that `cut` names. -/
def nodesFrom (isBox : Bool) (ns : List MemNode) (cut : Nat → Bool) : Nat → List Nat → List MemNode
  | _, [] => []
  | 0, _ :: _ => []
  | f + 1, u :: st => match ns.find? (fun n => n.unit == u) with
    | none => nodesFrom isBox ns cut f st
    | some n => n :: nodesFrom isBox ns cut f (((memKids isBox n.raw).filter (fun k => k.what == 0 && !cut k.idx)).map (·.idx) ++ st)

/-- The whole subtree of a unit. -/
def subtreeNodes (isBox : Bool) (ns : List MemNode) (u : Nat) : List MemNode := nodesFrom isBox ns (fun _ => false) (2 * ns.length + 1) [u]

/-- Node units of a subtree. -/
def subtreeUnits (isBox : Bool) (ns : List MemNode) (u : Nat) : Nat :=
  let l := subtreeNodes isBox ns u
  l.length + ((boxLeafUnits isBox l).map (·.2)).foldl (· + ·) 0

/-- Internal children of a unit. -/
def internalKids (isBox : Bool) (ns : List MemNode) (u : Nat) : List Nat :=
  match ns.find? (fun n => n.unit == u) with
  | none => []
  | some n => ((memKids isBox n.raw).filter (fun k => k.what == 0)).map (·.idx)

/-- The candidate to open (R155): of those with an internal child the largest, the lowest index among equals. -/
def pickCand (isBox : Bool) (ns : List MemNode) : List Nat → Option Nat
  | [] => none
  | c :: r =>
    let best := pickCand isBox ns r
    if (internalKids isBox ns c).isEmpty then best
    else match best with
      | none => some c
      | some b =>
        let x := subtreeUnits isBox ns c
        let y := subtreeUnits isBox ns b
        if y < x || (x == y && decide (c < b)) then some c else some b

/-- The loop of R155. -/
def splitCands (isBox : Bool) (ns : List MemNode) (subtrees maxNodes : Nat) : Nat → List Nat → List Nat
  | 0, cs => cs
  | f + 1, cs => match pickCand isBox ns cs with
    | none => cs
    | some c =>
      let ks := internalKids isBox ns c
      if subtrees < cs.length + ks.length - 1 then cs
      else if maxNodes ≠ 0 && cs.all (fun c => decide (subtreeUnits isBox ns c ≤ maxNodes)) then cs
      else splitCands isBox ns subtrees maxNodes f (cs.filter (fun x => x != c) ++ ks)

/-- The first unit from `i` on whose address is a multiple of 2^a, in units of 128 or 640 bytes from a base of 4 KiB alignment. -/
def alignUnit (isBox : Bool) (base a i : Nat) : Nat :=
  let m := 2 ^ (a - 7)
  let t := (m - base / 128 % m) % m * (if isBox then 1 else 0xCCCCCCCD % m) % m
  i + (t + m - i % m) % m

/-- The subtrees laid out behind the top tree, each from an aligned unit; the first unit and length of each. -/
def laySubs (isBox : Bool) (base a : Nat) : List (List MemNode) → CopyLay → CopyLay × List (Nat × Nat)
  | [], l => (l, [])
  | ns :: r, l =>
    let first := alignUnit isBox base a l.next
    let l1 := layPart isBox false (fun _ => false) first ns l
    let x := laySubs isBox base a r l1
    (x.1, (first, l1.next - first) :: x.2)

/-- A number into its place of a rising list. -/
def insertNat (x : Nat) : List Nat → List Nat
  | [] => [x]
  | y :: r => if x ≤ y then x :: y :: r else y :: insertNat x r

/-- The leaves of a subtree's nodes by rising index. -/
def leafList (ns : List MemNode) : List Nat :=
  (ns.flatMap (fun n => ((memKids false n.raw).filter (fun k => k.what == 1)).map (·.idx))).foldr insertNat []

/-- The subtree table and its leaf lists (R156): entries from ID `id` on, the next list at `list`. -/
def splitTable (isBox : Bool) (l : CopyLay) : Nat → Nat → List (List MemNode × (Nat × Nat)) → List Nat × List Nat
  | _, _, [] => ([], [])
  | id, list, (ns, first, len) :: r =>
    let root := match ns with | [] => 0 | n :: _ => l.node n.unit
    let lv := if isBox then [] else leafList ns
    let x := splitTable isBox l (id + 1) (list + 4 * lv.length) r
    (packN [(16, id), (16, 0), (32, if isBox then root else nodeWord root), (32, first), (32, len), (64, if isBox then 0 else list), (32, lv.length),
            (32, 0)] :: x.1, lv ++ x.2)

/-- The split plan's fields: MAX_NODES, ID_BASE, ALIGN with its default; none where one is out of range (R154). -/
def splitPlan (v : Nat) : Option (Nat × Nat × Nat) :=
  let a := by_ v 6 1
  if (decide (1 ≤ a) && decide (a ≤ 11)) || decide (30 < a) || decide (536870912 < by_ v 0 4) then none
  else some (by_ v 0 4, by_ v 4 2, if a = 0 then 16 else a)

/-- Everything BUILD_SPLIT writes after its checks. -/
def splitImage (c : Cmd) (src d : Desc) (ns : List MemNode) (cands : List Nat) (idBase : Nat) (lay : CopyLay × List (Nat × Nat))
    (leaves : List (Nat × Nat)) (subs : List (List MemNode)) : List (Nat × List Byte) :=
  let box := src.isBox
  let dst := rb c.raw 24 8
  let n := cands.length
  let cut := fun u => (cands.findIdx? (· == u)).map (· + idBase)
  let top := nodesFrom box ns (fun u => cands.contains u) (2 * ns.length + 1) (rootNode box src.root)
  let t := splitTable box lay.1 idBase (d.subAddr + 32 * n) (subs.zip lay.2)
  let lens := boxLeafUnits box ns
  copyWrites box d.base lay.1 cut top leaves [] ++ copyWrites box d.base lay.1 (fun _ => none) (subs.flatMap id) leaves lens
  ++ [wr d.subAddr (32 * n) (packBytes 32 t.1), wr (d.subAddr + 32 * n) (4 * t.2.length) (packBytes 4 t.2)]
  ++ copiedFields dst src
  ++ [wr (dst + 2) 2 (src.byte 2 1 / 2 % 2 * 2), wr (dst + 16) 4 (ns.length + (lens.map (·.2)).foldl (· + ·) 0), wr (dst + 32) 4 n,
      wr (dst + 36) 2 idBase, seqWrite dst d, wr (dst + 4) 4 (newRoot box lay.1 src.root)]

/-- Marks whose last takes `k` writes more: of BUILD_SPLIT the table and the lists, before which progress is not whole (R156). -/
def lastLater (k : Nat) : List (Nat × Nat) → List (Nat × Nat)
  | [] => []
  | [m] => [(m.1 + k, m.2)]
  | m :: r => m :: lastLater k r

/-- BUILD_SPLIT behind its checks and first writes. -/
def State.splitRun (s : State) (env : Env) (c : Cmd) (r : CmdRef) (src d : Desc) (maxNodes idBase a : Nat) : State :=
  let p := s.qPart r.q
  let box := src.isBox
  let dst := rb c.raw 24 8
  let subtrees := rb c.raw 58 4
  match s.memWalks p box src.base (src.used + 1) (rootNode box src.root) with
  | .bad x => s.buildHalt env r dst 0 x
  | .ok none => s.buildFail env r dst d stContained
  | .ok (some parts) =>
    let ns := parts.flatMap id
    let found := splitCands box ns subtrees maxNodes (ns.length + 1) ((rootNode box src.root).flatMap (internalKids box ns))
    let cands := (ns.map (·.unit)).filter found.contains
    let top := nodesFrom box ns (fun u => cands.contains u) (2 * ns.length + 1) (rootNode box src.root)
    let subs := cands.map (subtreeNodes box ns)
    let lay := laySubs box d.base a subs (layPart box false (fun u => cands.contains u) 0 top ⟨[], [], 0⟩)
    if subtrees < cands.length || (maxNodes != 0 && cands.any (fun c => decide (maxNodes < subtreeUnits box ns c)))
        || decide (d.cap < lay.1.next) then s.buildFail env r dst d stBadField
    else match s.memLeaves p src.base (boxLeafUnits box ns) with
      | .bad x => s.buildHalt env r dst 0 x
      | .ok leaves => s.buildOut env r dst (splitImage c src d ns cands idBase lay (cleanLeaves ns leaves) subs)
          (lastLater 2 (runMarks 0 (top.map (fun _ => (1, 1)) ++ (boxLeafUnits box ns).map (fun x => (1, x.2)) ++ (subs.flatMap id).map (fun _ => (1, 1))))) none

/-- BUILD_SPLIT: the destination is emptied before the source is walked (R142). -/
def execBuildSplit (q : QueueId) (scratch : List (Nat × Byte)) (env : Env) (s : State) : Host.Outcome State Fault Refusal :=
  let s := s.at env.t
  match s.beginning q 0x15 with
  | none => .next s
  | some c =>
    let p := s.qPart q
    let r : CmdRef := ⟨q, c.seq⟩
    let dst := rb c.raw 24 8
    let subtrees := rb c.raw 58 4
    match s.vdesc p dst, s.vdesc p (rb c.raw 8 8), s.vnum p (rb c.raw 48 8) 64 with
    | .bad x, _, _ => .next (s.buildPark env r x)
    | _, .bad x, _ => .next (s.buildPark env r x)
    | _, _, .bad x => .next (s.buildPark env r x)
    | .ok d, .ok src, .ok pv => match splitPlan pv with
      | none => .next (s.finish r stBadField)
      | some (maxNodes, idBase, a) =>
        let box := src.isBox
        let w := unitBytes box
        if !src.source || src.isSharded || !d.softOk (src.kind + 2) false || rb c.raw 16 4 != src.used || decide (65536 < idBase + subtrees)
            || areasOverlap src d || decide (d.cap * w < src.used * w + subtrees * 2 ^ a) then .next (s.finish r stBadField)
        else
          let s1 := s.buildWrite r (emptyFirst dst d ++ scratchWrites c (8 * rb c.raw 16 4 + 2 ^ 20) scratch)
          match s1.bad with
          | some x => .next (s1.s.buildHalt env r dst 0 x)
          | none => .next (s1.s.splitRun env c r src d maxNodes idBase a)

end Sys2Proof.Machine
end

