-- ==== Sys2Proof/Machine/SplatBwd.lean ====
section
/-!
DEFINITION. Sys2Proof/Machine/SplatBwd.lean: the backward pass (R264, R334 to R337): SPLAT_BWD.
-/

namespace Sys2Proof.Machine

/-! ## Gradients of a tile (R336) -/

/-- State of a pixel's replay: transmittance, the colour behind, the input indices of invalid operations, the overflows. -/
structure Replay where
  t    : W32
  s    : List W32
  invs : List Nat
  ovfs : Nat
deriving DecidableEq, Repr

/-- The values of operations. -/
def flv (l : List Fl) : List W32 := l.map (·.v)

/-- One entry at one pixel: the replay after it, and the gradients of mean, conic, opacity and channels where it had a fragment. -/
def bwdEntry (o : Ovf) (f : Prim) (dldc : List W32) (xy : Nat × Nat) (w : Replay) : Replay × Option (List W32) :=
  let g := if boxHolds (recBox false f.rcd) xy.1 xy.2 then gaussAt f.rcd xy.1 xy.2 else ⟨none, false, 0, 0, 0, 0⟩
  match g.frag with
  | none => ({ w with invs := w.invs ++ List.replicate g.inv f.idx }, none)
  | some al =>
    let om := flSub o fOne al
    let t := flDiv o w.t om.v
    let ta := flMul o t.v al
    let n := dldc.length
    let ch := (List.range n).map (fun c => flMul o ta.v (dldc.getD c 0))
    let tf := (List.range n).map (fun c => flMul o t.v (f.feats.getD c 0))
    let so := (List.range n).map (fun c => flDiv o (w.s.getD c 0) om.v)
    let df := (List.range n).map (fun c => flSub o ((flv tf).getD c 0) ((flv so).getD c 0))
    let pr := (List.range n).map (fun c => flMul o (dldc.getD c 0) ((flv df).getD c 0))
    let ga := (flv pr).foldl (fun (a : W32 × List Fl) x => let r := flAdd o a.1 x; (r.v, a.2 ++ [r])) (0, [])
    let sf := (List.range n).map (fun c => flMul o ta.v (f.feats.getD c 0))
    let sn := (List.range n).map (fun c => flAdd o (w.s.getD c 0) ((flv sf).getD c 0))
    let gp := if g.clamp then (⟨0, false, false⟩ : Fl) else flMul o al ga.1
    let go := if g.clamp then (⟨0, false, false⟩ : Fl) else flMul o ga.1 g.ex
    let a := half32 (by_ f.rcd 8 2)
    let b := half32 (by_ f.rcd 10 2)
    let c := half32 (by_ f.rcd 12 2)
    let lin := fun (p q : W32) => let x := flMul o p g.dx; let y := flMul o q g.dy; let z := flAdd o x.v y.v; (z.v, [x, y, z])
    let m1 := lin a b
    let m2 := lin b c
    let gx := flMul o gp.v m1.1
    let gy := flMul o gp.v m2.1
    let quad := fun (k u v : W32) => let x := flMul o k u; let y := flMul o x.v v; (y.v, [x, y])
    let q1 := quad 0xBF000000 g.dx g.dx
    let q2 := quad 0xBF800000 g.dx g.dy
    let q3 := quad 0xBF000000 g.dy g.dy
    let c1 := flMul o gp.v q1.1
    let c2 := flMul o gp.v q2.1
    let c3 := flMul o gp.v q3.1
    let fls := [om, t, ta] ++ ch ++ tf ++ so ++ df ++ pr ++ ga.2 ++ sf ++ sn ++ [gp, go] ++ m1.2 ++ m2.2 ++ [gx, gy] ++ q1.2 ++ q2.2 ++ q3.2
      ++ [c1, c2, c3]
    (⟨t.v, flv sn, w.invs ++ List.replicate (g.inv + invCount fls) f.idx, w.ovfs + ovfCount fls⟩, some ([gx.v, gy.v, c1.v, c2.v, c3.v, go.v] ++ flv ch))

/-- Gradients added word by word. -/
def addGrads (o : Ovf) (a b : List W32) : List Fl := (List.range a.length).map (fun k => flAdd o (a.getD k 0) (b.getD k 0))

/-- A pixel's replay over the entries from its LAST back to the first, adding to the tile's sums. -/
def bwdPixel (o : Ovf) (dldc : List W32) (xy : Nat × Nat) : List (Nat × Prim) → Replay → List (List W32) → List (List W32) × Replay
  | [], w, acc => (acc, w)
  | (k, f) :: r, w, acc =>
    let x := bwdEntry o f dldc xy w
    match x.2 with
    | none => bwdPixel o dldc xy r x.1 acc
    | some g =>
      let z := addGrads o (acc.getD k []) g
      bwdPixel o dldc xy r { x.1 with invs := x.1.invs ++ List.replicate (invCount z) f.idx, ovfs := x.1.ovfs + ovfCount z } (acc.set k (flv z))

/-- What a tile's replay gives: the sums of each entry, the input indices of invalid operations, the overflows. -/
structure BwdTile where
  sums : List (List W32)
  invs : List Nat
  ovfs : Nat
deriving DecidableEq, Repr

/-- The entries of a pixel: from the one whose sequence number is its LAST back to the first. -/
def bwdEntries (e : TileEnv) (ps : List Prim) (last : W32) : List (Nat × Prim) :=
  let l := (List.range ps.length).zip ps
  match l.find? (fun x => decide (e.seqOf x.2.idx = last)) with
  | some (k, _) => (l.take (k + 1)).reverse
  | none => []

/-- A tile's replay from its transmittance, LAST and upstream gradient, as read. -/
def bwdTile (e : TileEnv) (t : Nat) (ps : List Prim) (tr la dl : Nat) : BwdTile :=
  let n := e.target.chans
  let zero := List.replicate ps.length (List.replicate (6 + n) (0 : W32))
  ((List.range 256).filter (e.target.inside t)).foldl (fun (w : BwdTile) p =>
    let dldc := (List.range n).map (fun c => recW dl ((p * n + c) * 4))
    let r := bwdPixel e.o dldc (e.target.pixel t p) (bwdEntries e ps (recW la (4 * p))) ⟨recW tr (4 * p), List.replicate n 0, [], 0⟩ w.sums
    ⟨r.1, w.invs ++ r.2.invs, w.ovfs + r.2.ovfs⟩) ⟨zero, [], 0⟩

/-! ## The reduction network (R264, R337) -/

/-- pair_add of R264 under an overflow mode: the pair, and the operations reported. -/
def pairAdd (o : Ovf) (h1 l1 h2 l2 : W32) : (W32 × W32) × List Fl :=
  let q := Ovf.quiet
  let s := flAdd o h1 h2
  if s.ovf || !isFin32 s.v then ((s.v, 0), [s])
  else
    let bb := flSub q s.v h1
    let e1 := flSub q h1 (flSub q s.v bb.v).v
    let e2 := flSub q h2 bb.v
    let err := flAdd q e1.v e2.v
    let t := flAdd q (flAdd q err.v l1).v l2
    let hi := flAdd o s.v t.v
    if hi.ovf || !isFin32 hi.v then ((hi.v, 0), [hi])
    else ((hi.v, (flSub q t.v (flSub q hi.v s.v).v).v), [s, hi])

/-- Bytes of an accumulator. -/
def gradStride (pair : Bool) (n : Nat) : Nat := cdiv ((6 + n) * (if pair then 8 else 4)) 32 * 32

/-- A record added to its accumulator: the new bytes and the reports. -/
def gradAdd (o : Ovf) (pair : Bool) (old : Nat) (g : List W32) : List Byte × List Fl :=
  let r := (List.range g.length).map (fun k =>
    if pair then
      let x := pairAdd o (recW old (8 * k)) (recW old (8 * k + 4)) (g.getD k 0) 0
      (leBytes 4 x.1.1.toNat ++ leBytes 4 x.1.2.toNat, x.2)
    else
      let x := flAdd o (recW old (4 * k)) (g.getD k 0)
      (leBytes 4 x.v.toNat, [x]))
  (r.flatMap (·.1), r.flatMap (·.2))

/-- Partial records applied in turn, each with its tile, index and sums; the reports carry the tile and the index. -/
def State.applyGrads (s : State) (p : PartId) (o : Ovf) (pair : Bool) (base n : Nat) :
    List (Nat × Nat × List W32) → Acc (State × List (Nat × Nat × Fl))
  | [] => .ok (s, [])
  | (t, i, g) :: r =>
    let va := base + i * gradStride pair n
    match s.vnum p va ((6 + n) * (if pair then 8 else 4)) with
    | .bad x => .bad x
    | .ok old =>
      let a := gradAdd o pair old g
      match s.vwrite p va a.1 with
      | .bad x => .bad x
      | .ok s1 => match s1.applyGrads p o pair base n r with
        | .bad x => .bad x
        | .ok (s2, l) => .ok (s2, a.2.map (fun f => (t, i, f)) ++ l)

/-! ## The pass (R335) -/

/-- The tiles of a pass of SPLAT_BWD: those it renders, those without gradients, those deferred. `used` entries of bin memory are taken. -/
def bwdKeep (v : Pass) : Nat → List Nat → List Nat × List Nat × List Nat
  | _, [] => ([], [], [])
  | used, t :: r =>
    let n := (v.bin t).length
    if binCap < n then let x := bwdKeep v used r; (x.1, t :: x.2.1, x.2.2)
    else if used + n ≤ binCap then let x := bwdKeep v (used + n) r; (t :: x.1, x.2.1, x.2.2)
    else ([], [], t :: r)

/-- A tile with its entries' sums. -/
structure BwdDone where
  tile : Nat
  ps   : List Prim
  out  : BwdTile
deriving DecidableEq, Repr

/-- The tiles of a pass replayed. -/
def State.bwdTiles (s : State) (v : Pass) (c : Cmd) : List Nat → Acc (List BwdDone)
  | [] => .ok []
  | t :: r =>
    let d := v.target
    let e := tileEnv v c
    match s.readPrims v c.raw true (binOrder (v.bin t)), s.vnum v.part (d.transAddr + 1024 * t) 1024, s.vnum v.part (d.lastAddr + 1024 * t) 1024,
        s.vnum v.part (d.dldcAddr + 1024 * t * d.chans) (1024 * d.chans) with
    | .ok ps, .ok tr, .ok la, .ok dl => match s.bwdTiles v c r with
      | .ok l => .ok (⟨t, ps, bwdTile e t ps tr la dl⟩ :: l)
      | .bad x => .bad x
    | .bad x, _, _, _ => .bad x
    | _, .bad x, _, _ => .bad x
    | _, _, .bad x, _ => .bad x
    | _, _, _, .bad x => .bad x

/-- The partial records of a pass: tile, index, sums. -/
def bwdRecords (l : List BwdDone) : List (Nat × Nat × List W32) :=
  l.flatMap (fun x => (List.range x.ps.length).map (fun k => (x.tile, (x.ps.getD k ⟨0, 0, []⟩).idx, x.out.sums.getD k [])))

/-- The records in the order the network combines them: those that `order` names first, in its order, then the others. -/
def bwdOrder (order : List (Nat × Nat)) (l : List (Nat × Nat × List W32)) : List (Nat × Nat × List W32) :=
  let named := order.eraseDups
  let first := named.filterMap (fun o => l.find? (fun r => decide ((r.1, r.2.1) = o)))
  first ++ l.filter (fun r => !named.contains (r.1, r.2.1))

/-- Status byte of a replayed tile: INVALID where its replay or one of its records in the network was invalid (R258, R330). -/
def bwdByte (x : BwdDone) (fls : List (Nat × Nat × Fl)) : Byte :=
  if x.out.invs.isEmpty && !fls.any (fun f => f.1 == x.tile && f.2.2.inv) then 0 else 1

/-- A whole pass of SPLAT_BWD: its bins, its tiles' replays, their gradients, its status bytes, with the command's last pass the header. It
waits where the entries that other passes hold leave room for none of its tiles (R313). -/
def State.bwdPass (s : State) (env : Env) (q : QueueId) (order : List (Nat × Nat)) (c : Cmd) (v0 : Pass) : State :=
  let r : CmdRef := ⟨q, c.seq⟩
  let p := v0.part
  let bad := fun x => s.fault env p 0 x 0 (s.cmdCtx r 7) (.command q c.seq)
  match s.binFrom c.raw false (rb c.raw 16 4) v0 with
  | .fault _ _ x => bad x
  | .full s1 _ => s1
  | .done s1 v =>
    let keep := bwdKeep v (s.binOthers r) v.active
    let d := v.target
    let o := ovfOf c.ovf
    if keep.1.isEmpty && keep.2.1.isEmpty && !v.active.isEmpty then s
    else match s1.bwdTiles v c keep.1 with
    | .bad x => bad x
    | .ok l =>
      let pair := rb c.raw 56 1 == 1
      match s1.applyGrads p o pair (rb c.raw 48 8) d.chans (bwdOrder order (bwdRecords l)) with
      | .bad x => bad x
      | .ok (s2, fls) =>
        let bytes := l.map (fun x => (x.tile, bwdByte x fls)) ++ keep.2.1.map (fun t => (t, (8 : Byte)))
        let n := bytes.length
        let final := decide (c.last ≤ c.done + n)
        let wr := if d.statusAddr = 0 then [] else
          bytes.map (fun b => (d.statusAddr + 64 + b.1, [b.2])) ++ (if final then [(d.statusAddr, headerBytes v)] else [])
        match s2.vwriteAll p wr with
        | .bad x => bad x
        | .ok s3 =>
          let item := fun i => (BitVec.ofNat 32 (rb c.raw 20 4 + i) : W32).toNat
          let tinv := l.flatMap (fun x => x.out.invs.map (fun i => (⟨fsOther, 0, 0, item i⟩ : FpInv)))
          let ninv := (fls.filter (fun e => e.2.2.inv)).map (fun e => (⟨fsOther, 0, 0, item e.2.1⟩ : FpInv))
          let s4 := (s3.fpInvalids p (tinv ++ ninv)).fpOverflows p ((l.map (fun x => x.out.ovfs)).sum + (fls.filter (fun e => e.2.2.ovf)).length)
          let s5 := s4.updPart p (fun x => { x with overdeep := x.overdeep || !keep.2.1.isEmpty, deferred := satAdd x.deferred keep.2.2.length })
          let y : Pass := { v with phase := .finally_, todo := [], deferred := keep.2.2 }
          ((((s5.noteWrite (.command r) p (spansOf wr)).updPass r (fun _ => y)).passStep r c.raw)).itemsDone r n
            (bytes.any (fun b => badByte b.2) || (final && decide (0 < v.badPrims)))

/-- The pass of SPLAT_BWD that a queue's command is to run: an uncorrectable word of VIS, or a failed reduction adder, ends the command (R330, R511). -/
def State.bwdRun (s : State) (env : Env) (q : QueueId) (order : List (Nat × Nat)) (check : Check) : State :=
  match s.binning q 0x21 with
  | none => s
  | some (c, v) =>
    if check = .failed then s.containSplat 9 0 v
    else (s.doIf (decide (check = .corrected)) State.errCorrected).bwdPass env q order c v

/-- SPLAT_BWD: runs a pass of the queue's running command, else begins the next command and runs its first pass. -/
def execSplatBwd (q : QueueId) (order : List (Nat × Nat)) (check : Check) (env : Env) (s : State) : Host.Outcome State Fault Refusal :=
  let s := s.at env.t
  let run := fun (s : State) => s.bwdRun env q order check
  if !s.works (s.qPart q) then .next s
  else match s.binning q 0x21 with
    | some _ => .next (run s)
    | none => match s.beginning q 0x21 with
      | none => .next s
      | some c => .next (run (s.beginSplat env q c))

end Sys2Proof.Machine
end

