-- ==== Sys2Proof/Machine/Save.lean ====
section
/-!
DEFINITION. Sys2Proof/Machine/Save.lean: saving and restoring Setter groups (R300 to R302, R456), and the rows GROUP_LAUNCH and GROUP_RESTORE.
-/

namespace Sys2Proof.Machine

/-! ## The save area (R302) -/

/-- Where a core's and slot's group record lies. -/
def State.recordVa (s : State) (p : PartId) (g : GroupRef) : Nat :=
  4096 * (s.part p).saveBase.force.toNat + 36864 * (g.core.val * 16 + g.slot.val)

/-- Where a core's local store lies. -/
def State.localVa (s : State) (p : PartId) (c : CoreId) : Nat := 4096 * (s.part p).saveBase.force.toNat + 9 * 1048576 + 458752 * c.val

/-- A divergence-stack entry in memory (R283). -/
def stackBytes (e : W32 × W32) : List Byte := leBytes 4 e.1.toNat ++ leBytes 4 e.2.toNat

/-- A group record: 256 B of state that R302 does not lay out, the hardware part of the stack, oldest first, the registers in use. -/
def State.recordWrites (s : State) (g : GroupRef) (x : Group) : List (Nat × List Byte) :=
  let b := s.recordVa x.part g
  [(b, (List.range 256).map (fun i => Config.savedByte (s.fresh * 256 + i))),
   (b + 256, x.dstack.reverse.flatMap stackBytes),
   (b + 1024, (List.range x.prog.sregs).flatMap (fun n => leBytes 4 (x.sreg n).toNat)),
   (b + 2048, (List.range x.prog.vregs).flatMap (fun n => (List.finRange 32).flatMap (fun l => leBytes 4 (x.vreg n l).toNat)))]

/-- The local store of some blocks of a core, each KiB at its place in the core's. -/
def State.localWrites (s : State) (p : PartId) (c : CoreId) (l : List Block) : List (Nat × List Byte) :=
  l.flatMap (fun b => (b.pages.zip (List.range b.pages.length)).map (fun k => (s.localVa p c + 1024 * k.1, b.store.read (1024 * k.2) 1024)))

/-! ## Saving (R300, R301) -/

/-- The groups of a cluster set that hold slots. -/
def State.setRefs (s : State) (set : Nat) : List GroupRef :=
  (List.finRange 16).flatMap (fun c => ((List.finRange 16).filter (fun k => match (s.core c).groups[k] with
    | some x => s.setOf x.block == set
    | none => false)).map (fun k => ⟨c, k⟩))

/-- The outstanding stores and atomics of a group complete at save priority (R301 step 2). -/
def State.settle (s : State) (g : GroupRef) : State :=
  match s.group? g with
  | some x =>
    if x.stores = 0 then s
    else (((s.mapPend (fun e => if e.block = x.block && e.inBlock = x.inBlock then { e with acked := true } else e)).dropWrites g).put g
      { x with stores := 1 }).groupAck g
  | none => s

/-- What an access of a save or restore says of itself (R445): it is of no program's instruction and of no unit. -/
def FaultCtx.ofSave (c : FaultCtx) : FaultCtx := { c with source := 10, pc := 0, unit := 0 }

/-- An access to the save area faults: a record of KIND 3, the group is lost, the partition is in PARTITION_ERROR (R456). With 64 faults open no
record is written (R444). -/
def State.saveFault (s : State) (env : Env) (p : PartId) (ctx : FaultCtx) (x : Xfault) (g : GroupRef) (reason : BitVec 2) : State :=
  let w : Parked := .group g.core g.slot
  (s.doIf (decide ((s.openOf p).length < 64)) (fun s => (s.openFault env p 3 x 0 ctx.ofSave w).unpark (fun y => decide (y = w)))).partitionError p reason

/-- What the step says of the save of a group. -/
def saveOf (env : Env) (g : GroupRef) : Option SaveEvt := env.saves.find? (fun e => decide (e.group = g))

/-- The access of the instruction that a running group is in faults while the group is to be saved (R301 step 2, R454). -/
def State.lateFault (s : State) (env : Env) (g : GroupRef) : State :=
  match s.issuing g, (saveOf env g).bind (·.late) with
  | some x, some a => match s.translate x.part a.2 a.1 with
    | .bad e => s.memFault env g x e
    | .ok _ => s
  | _, _ => s

/-- Some word that a save reads of a group is uncorrectable: of its registers and state, or of its block's local store (R305). -/
def State.saveBad (s : State) (env : Env) (g : GroupRef) (x : Group) : Bool :=
  env.saves.any (fun e => (decide (e.group = g) && e.regs == .failed)
    || (e.store == .failed && (match s.group? e.group with | some y => y.block == x.block | none => false)))

/-- Corrected words among them. -/
def State.saveCorrected (env : Env) (l : List GroupRef) : Nat :=
  ((env.saves.filter (fun e => l.contains e.group)).map (fun e => (if e.regs = .corrected then 1 else 0) + (if e.store = .corrected then 1 else 0))).sum

/-- The groups among some that are about to be saved and use an uncorrectable word end with CONTAINED (R305). -/
def State.containBad (s : State) (env : Env) (l : List GroupRef) : State :=
  let bad := l.filter (fun g => match s.group? g with | some x => s.saveBad env g x | none => false)
  bad.foldl (fun s g => match s.group? g with | some x => s.containGroup g x | none => s)
    ((List.range (State.saveCorrected env l)).foldl (fun s _ => s.errCorrected) s)

/-- One group of a set saved: its record is written and its slot is free. A save that has faulted has ended (R456). -/
def State.saveGroup (s : State) (env : Env) (g : GroupRef) : State :=
  match s.group? g with
  | none => s
  | some x => if (s.part x.part).partError then s else match s.vwriteAll x.part (s.recordWrites g x) with
    | .bad e => (((((s.reportGroup x).loosen x.block x.inBlock).dropScorer x).setGroup g none).dropWrites g).saveFault env x.part (State.groupCtx g x) e g 1
    | .ok s1 =>
      let y := { x with kept := x.state, state := .saved }
      let s2 := (s1.setGroup g none).renameParked (.group g.core g.slot) (.savedGroup x.block x.inBlock)
      { s2 with setter := { s2.setter with saved := s2.setter.saved ++ [(g, y)] }, fresh := s.fresh + 1 }

/-- The saved groups of some blocks are lost (R456). -/
def State.loseSaved (s : State) (l : List Block) : State :=
  let mine := fun (x : Group) => l.any (fun b => b.id == x.block)
  { s with setter := { s.setter with saved := s.setter.saved.filter (fun e => !mine e.2) } }

/-- The blocks of a set on a core are saved with their local store; a write that faults loses their groups. -/
def State.saveBlocks (s : State) (env : Env) (p : PartId) (set : Nat) (c : CoreId) : State :=
  let co := s.core c
  let bs := co.blocks.filter (fun b => b.set == set)
  if bs.isEmpty || (s.part p).partError then s
  else
    let s1 := s.setCore c { co with blocks := co.blocks.filter (fun b => b.set != set) }
    let s2 := { s1 with setter := { s1.setter with savedBlocks := s1.setter.savedBlocks ++ bs.map (fun b => (c, b)) } }
    match s2.vwriteAll p (s2.localWrites p c bs) with
    | .ok s3 => s3
    | .bad e => (s2.loseSaved bs).saveFault env p ⟨10, none, 0, 0, 0, 0, 0, 0⟩ e ⟨c, 0⟩ 1

/-- A cluster set is saved whole (R301): issue stops, where an access under way may still fault, the outstanding stores complete, and what the
save reads is checked. -/
def State.saveSet (s : State) (env : Env) (p : PartId) (set : Nat) : State :=
  let s0 := (s.setRefs set).foldl (fun s g => (s.lateFault env g).settle g) s
  let s1 := s0.containBad env (s0.setRefs set)
  let s2 := (s1.setRefs set).foldl (fun s g => s.saveGroup env g) s1
  (List.finRange 16).foldl (fun s c => s.saveBlocks env p set c) s2

/-- The set that is saved next to make room on some cores: of the partition's non-DEADLINE sets that hold a block there, the most recently
launched. -/
def State.victim (s : State) (p : PartId) (cores : List CoreId) : Option Nat :=
  let sets := (cores.flatMap (fun c => (s.core c).blocks)).map (·.set)
  let l := (s.residents.map (·.2)).filter (fun x => decide (x.part = p) && decide (x.cls ≠ 0) && sets.contains (s.setOf x.block))
  (leastBy (fun x => s.setter.next + 1 - x.age) l).map (fun x => s.setOf x.block)

/-- What some queue entries, each with the core it is queued on, would hold of a core. -/
def waitBlocks (l : List (CoreId × Waiting)) (c : CoreId) : List Block :=
  (l.filter (fun e => decide (e.1.val ≤ c.val) && decide (c.val < e.1.val + e.2.cluster))).filterMap (fun e => e.2.prog?.map (fun g => newBlock 0 0 0 0 g []))

/-- Some queue entries fit together on their cores (R274). -/
def State.fitAll (s : State) (l : List (CoreId × Waiting)) : Bool :=
  (List.finRange 16).all (fun c => match waitBlocks l c with
    | [] => true
    | b :: r => !bit s.arr.coresOut c.val && (b :: r).all (fun x => decide (x.prog.split = b.prog.split)) && (s.core c).room b.prog.split (b :: r))

/-- The groups saved since `s` under R343 are traced as pre-empted (R408). -/
def State.tracePreempt (s t : State) (p : PartId) : State :=
  (t.setter.saved.filter (fun e => !s.setter.saved.contains e)).foldl (fun (u : State) e =>
    u.record { TraceRec.of 5 4 p.val 0 with
      cls := e.2.cls.toNat, caddy := e.2.caddy.toNat, unit := e.1.core.val, kind := 1, count := popN e.2.launch 32, depth := (u.core e.1.core).queue.length,
      item := (match e.2.work with
        | .rays _ _ lanes => (match lanes.find? (fun i => decide (i < 262144)) with | some i => (u.kId i).toNat | none => 0)
        | _ => 0) }) t

/-- Sets saved until some queued entries fit together, at most `n`. -/
def State.makeRoom (s : State) (env : Env) (p : PartId) (l : List (CoreId × Waiting)) : Nat → State
  | 0 => s
  | n + 1 =>
    if s.fitAll l || !s.works p then s
    else match s.victim p ((List.finRange 16).filter (fun c => !(waitBlocks l c).isEmpty)) with
      | none => s
      | some set => (s.tracePreempt (s.saveSet env p set) p).makeRoom env p l n

/-- The DEADLINE entries of a partition that are queued on cores, those of lower cores first. -/
def State.dlQueued (s : State) (p : PartId) : List (CoreId × Waiting) :=
  (List.finRange 16).flatMap (fun c => ((s.core c).queue.filter (fun w => decide (w.part = p) && decide (w.cls = 0))).map (fun w => (c, w)))

/-- While a partition's deadline fires its dispatchers save groups until its queued DEADLINE groups fit, one after the other, all those before
included (R300). -/
def State.preemptPart (s : State) (env : Env) (p : PartId) : State :=
  if s.firing p && decide ((s.part p).saveBase.force ≠ 0) then
    let l := s.dlQueued p
    (List.range l.length).foldl (fun s k => s.makeRoom env p (l.take (k + 1)) 64) s
  else s

/-- GROUP_LAUNCH: a core's dispatcher launches the oldest queued group, block or cluster set whose resources are free (R274, R298), saving
groups for DEADLINE work (R300); calls that fill a block take the places that come free. -/
def execGroupLaunch (core : CoreId) (env : Env) (s : State) : Host.Outcome State Fault Refusal :=
  let s := s.at env.t
  let s1 := (allParts.foldl (fun s p => s.preemptPart env p) s).dispatch core
  .next (s1.setter.calls.foldl (fun s e => s.launchCalls e.1 (rb e.2.2.1 0 1) e.2.1) s1)

/-! ## Restoring (R300, R456) -/

/-- Saved groups of a set. -/
def State.savedOf (s : State) (set : Nat) : List (GroupRef × Group) := s.setter.saved.filter (fun e => s.setOf e.2.block == set)

/-- The resources of a saved set are free on its cores: its group slots, and what its blocks hold (R274, R300). -/
def State.restorable (s : State) (set : Nat) : Bool :=
  let bs := s.setter.savedBlocks.filter (fun e => e.2.set == set)
  (s.savedOf set).all (fun e => (s.group? e.1).isNone) && (List.finRange 16).all (fun c =>
    let mine := (bs.filter (fun e => decide (e.1 = c))).map (·.2)
    match mine with
    | [] => true
    | b :: _ => (s.core c).room b.prog.split mine)

/-- The state a restored group goes on in; one saved in the middle of a STEP that has become HALTED steps no more (R306). -/
def Group.restored (x : Group) : Group :=
  { x with state := if x.kept = .waiting && x.wait = .none then .running else x.kept, kept := .free,
           stepping := x.stepping && decide (x.kept ≠ .halted) }

/-- One saved group returns to its slot; a read of its record that faults loses it and ends the restore (R456). -/
def State.restoreGroup (s : State) (env : Env) (g : GroupRef) (x : Group) : State :=
  if (s.part x.part).partError then s
  else
  let s1 := { s with setter := { s.setter with saved := s.setter.saved.filter (fun e => decide (e.1 ≠ g) || decide (e.2.block ≠ x.block)) } }
  match s.vread x.part (s.recordVa x.part g) (2048 + 128 * x.prog.vregs) with
  | .bad e => (s1.unpark (fun w => decide (w = .savedGroup x.block x.inBlock))).saveFault env x.part (State.groupCtx g x) e g 2
  | .ok _ => ((s1.setGroup g (some x.restored)).renameParked (.savedGroup x.block x.inBlock) (.group g.core g.slot)).doIf
      (decide (x.restored.state = .halted)) (·.rayHalt x true)

/-- The blocks of a set return to their cores, to the KiB of local store they held where those are free. -/
def State.restoreBlocks (s : State) (set : Nat) : State :=
  let bs := s.setter.savedBlocks.filter (fun e => e.2.set == set)
  let s1 := { s with setter := { s.setter with savedBlocks := s.setter.savedBlocks.filter (fun e => e.2.set != set) } }
  bs.foldl (fun s e =>
    let co := s.core e.1
    let free := e.2.pages.all (fun k => !co.blocks.any (fun b => b.pages.contains k))
    let b := if free then e.2 else { e.2 with pages := co.pickPages [] e.2.prog }
    s.setCore e.1 { co with blocks := co.blocks ++ [b], split := b.prog.split }) s1

/-- A saved group's set is the oldest of its partition. -/
def State.restoreTurn (s : State) (x : Group) : Bool :=
  match leastBy (fun (e : GroupRef × Group) => e.2.age) (s.setter.saved.filter (fun e => decide (e.2.part = x.part))) with
  | some e => s.setOf e.2.block == s.setOf x.block
  | none => false

/-- GROUP_RESTORE: the partition's oldest saved set returns once no DEADLINE service needs its resources. -/
def execGroupRestore (g : GroupRef) (env : Env) (s : State) : Host.Outcome State Fault Refusal :=
  let s := s.at env.t
  match s.setter.saved.find? (fun e => decide (e.1 = g) && s.restoreTurn e.2) with
  | none => .next s
  | some (_, x) =>
    let set := s.setOf x.block
    if !s.works x.part || s.firing x.part || !s.restorable set then .next s
    else .next (((s.savedOf set).foldl (fun s e => s.restoreGroup env e.1 e.2) (s.restoreBlocks set)).acceptMore 256)

end Sys2Proof.Machine
end

