-- ==== Sys2Proof/Machine/Deadline.lean ====
section
/-!
DEFINITION. Sys2Proof/Machine/Deadline.lean: presentation deadlines and late re-projection (R342 to R349).
-/

namespace Sys2Proof.Machine

/-! ## DEADLINE service (R342, R343) -/

/-- The queued non-DEADLINE packs of a partition at a TU return to the Herder, each a PREEMPT of the trace (R343 step 4, R408). -/
def State.yieldTu (s : State) (p : PartId) (n : TuId) : State :=
  let t := s.arr.tus[n]
  let out := fun (k : Pack) => decide (k.part = p) && decide (s.packCls k ≠ 0)
  let s1 := { s with arr := { s.arr with tus := s.arr.tus.set n { t with queue := t.queue.filter (fun k => !out k) } } }
  ((t.queue.filter out).foldl (fun s k => (s.record (s.packTrace k 5 0 n.val (s.tuDepth n))).unpack k) s1).handBacks

/-- The deadline state changes. -/
def State.setDl (s : State) (p : PartId) (st : BitVec 3) : State := s.updPart p (fun x => { x with deadline := { x.deadline with state := st } })

/-- DEADLINE service begins: the TUs yield, DEADLINE packs wait no longer, groups are saved for queued DEADLINE groups (R300, R343). -/
def State.beginService (s : State) (env : Env) (p : PartId) : State :=
  let s2 := (List.finRange 128).foldl (fun s n => s.yieldTu p n) s
  let s3 := (s2.herd.store.filter (fun e => decide (e.part = p))).foldl (fun s e => s.armPack p e.line) s2
  s3.preemptPart env p

/-- The state enters FIRING, with FIRE_IRQ (R358). -/
def State.setFiring (s : State) (p : PartId) : State := (s.setDl p dlFiring).doIf (s.part p).fireIrq (·.irqPart p (s.part p).dlVec)

/-- FIRING begins, and DEADLINE service with it (R342). -/
def State.enterFiring (s : State) (env : Env) (p : PartId) : State := (s.setFiring p).beginService env p

/-- TUs of a partition in the selected caddy: its RCI share, and those of it in service (R346). -/
def State.shareTus (s : State) (p : PartId) : Nat := popN (s.caddyEnt s.sel p).tus 128
def State.servedTus (s : State) (p : PartId) : Nat :=
  ((List.finRange 128).filter (fun n => bit (s.caddyEnt s.sel p).tus n.val && (s.tuPlace n).isSome)).length

/-- A PRESENT command of a partition is in flight. -/
def State.presenting (s : State) (p : PartId) : Bool := (s.queuesOf p).any (fun q => (s.queue q).cmds.any (fun c => c.presents))

/-! ## SET_DEADLINE (R73, R342, R346, R347) -/

/-- A non-zero deadline is armed; it replaces what was armed, a re-projected deadline's frame staying late (R342, R349). -/
def State.arm (s : State) (env : Env) (p : PartId) (raw : Slot64) : State :=
  let d := rb raw 8 8
  let pt := d - rb raw 16 4
  let s1 := ((s.keepLate p).timerDel (.preempt p)).timerDel (.decision p)
  let s2 := s1.updPart p (fun x => { x with deadline := ⟨dlArmed, none, true, bit raw 193, bit raw 192⟩ })
  let s3 := s2.doIf (bit raw 192) (·.timerAdd (.decision p) (d - rb raw 20 4))
  if pt < s.pins.now then s3.enterFiring env p else s3.timerAdd (.preempt p) pt

/-- SET_DEADLINE; a zero deadline lets a re-projection under way finish first. -/
def execSetDeadline (q : QueueId) (t : Nat) (s : State) : Host.Outcome State Fault Refusal :=
  let s := s.at t
  match s.beginning q 0x52 with
  | none => .next s
  | some c =>
    let p := s.qPart q
    let r : CmdRef := ⟨q, c.seq⟩
    if rb c.raw 8 8 = 0 then
      .next (if (s.part p).reproj.isSome then s else (((s.keepLate p).deadlineIdle p).doIf (!s.presenting p) (·.dropSummary p)).finishOk r)
    else if bit c.raw 192 && decide (s.shareTus p < 64) then .next (s.finish r stQuota)
    else .next ((s.arm s.env0 p c.raw).finishOk r)

/-! ## The timers (R342, R346) -/

/-- PREEMPTION_TIMER. -/
def execPreemptionTimer (p : PartId) (env : Env) (s : State) : Host.Outcome State Fault Refusal :=
  let s := s.doIf (s.ready && s.timerFires (.preempt p) env.t) (·.steepWord env (.preempt p))
  if s.ready && s.timerFires (.preempt p) env.t then
    let s1 := s.fire (.preempt p) env.t
    .next (if (s1.part p).deadline.state = dlArmed then s1.enterFiring env p else s1)
  else .next s

/-- Re-projection is denied: REPROJ_DENIED with its interrupt; the state stays FIRING, or enters it from REPROJECTING (R346, R358). -/
def State.denyReproj (s : State) (p : PartId) : State :=
  let s1 := s.doIf (decide ((s.part p).deadline.state = dlReproj)) (·.setFiring p)
  (s1.updPart p (fun x => { x with reprojDenied := true, reproj := none })).doIf (s.part p).reprojIrq (·.irqPart p (s.part p).dlVec)

/-- The reference frame's descriptor, where re-projection is possible at the decision: 64 TUs in service, a reference frame (R346). -/
def State.reprojFrame (s : State) (p : PartId) : Option Desc := if 64 ≤ s.servedTus p then (s.part p).refFrame else none

/-- The decision that starts a re-projection or denies it: its summary is read with `check`, then the matrix M; the frame drawn is that of the decision, summary included (R346, R348). -/
def State.decideReproj (s : State) (env : Env) (p : PartId) (check : Check) : State :=
  let armed := decide ((s.part p).deadline.state = dlArmed)
  let no := fun (s : State) => (s.doIf armed (·.enterFiring env p)).denyReproj p
  match s.reprojFrame p with
  | none => no s
  | some d =>
    if check = .failed then no (s.errContained p 9 0 0)
    else
      let s1 := s.doIf (decide (check = .corrected)) State.errCorrected
      match s1.vnum p d.reprojM 64 with
      | .bad x => no (s1.notice p x ⟨7, none, 0, 0, 0, 0, 0, 0⟩)
      | .ok mv =>
        let s2 := (s1.setDl p dlReproj).updPart p (fun y => { y with reproj := some (d, (List.range 16).map (fun i => recW mv (4 * i)), (s.part p).refSummary) })
        s2.doIf armed (·.beginService env p)

/-- DECISION_TIMER: with the frame not presented, re-projection begins or is denied. It waits for a re-projection of an earlier deadline. -/
def execDecisionTimer (p : PartId) (check : Check) (env : Env) (s : State) : Host.Outcome State Fault Refusal :=
  let s := s.doIf (s.ready && s.timerFires (.decision p) env.t) (·.steepWord env (.decision p))
  if s.ready && (s.part p).reproj.isNone && s.timerFires (.decision p) env.t then
    let s1 := s.fire (.decision p) env.t
    let st := (s1.part p).deadline.state
    .next (if st = dlArmed || st = dlFiring then s1.decideReproj env p check else s1)
  else .next s

/-! ## Late re-projection (R348) -/

/-- The dot product of a row of M with (x, y, z, 1), each operation rounded to nearest even. -/
def rowDot (m : List W32) (k : Nat) (x y z : W32) : W32 :=
  let e := fun j => m.getD (4 * k + j) 0
  fadd .near (fadd .near (fadd .near (fmul .near (e 0) x) (fmul .near (e 1) y)) (fmul .near (e 2) z)) (e 3)

/-- The integer nearest to a finite value, ties to even. -/
def nearInt (v : Val) : Int :=
  let t := Val.floorInt (v.add (centre 0))
  if (v.add (centre 0)).eq (Val.ofInt t) && t % 2 ≠ 0 then t - 1 else t

/-- The offset of a block from its depth. -/
def reprojOffset (m : List W32) (bx by' : Nat) (z : W16) : Int × Int :=
  let x := r32 .near (Val.ofNat (4 * bx + 2))
  let y := r32 .near (Val.ofNat (4 * by' + 2))
  let zf := if z = 0x7C00 then r32 .near (Val.ofNat 65504) else half32 z.toNat
  let w := rowDot m 3 x y zf
  let dv := fun k => BitVec.ofNat 32 (Fmt.fp32.div .near .quiet (v32 (rowDot m k x y zf)) (v32 w)).1
  let px : W32 := dv 0
  let py : W32 := dv 1
  if !flt 0 w || !isFin32 px || !isFin32 py then (0, 0)
  else (nearInt (v32 (fsub .near px x)), nearInt (v32 (fsub .near py y)))

/-- A coordinate clamped to the target. -/
def clampTo (n : Nat) (i : Int) : Nat := if i < 0 then 0 else min i.toNat (n - 1)

/-- Tile and place of a pixel. -/
def pixelAt (d : Desc) (x y : Nat) : Nat := (y / 16 * d.tileCols + x / 16) * 256 + 16 * (y % 16) + x % 16

/-- The writes of a re-projected frame, from the reference surface and the summary `sum` of the decision. -/
def State.reprojWrites (s : State) (p : PartId) (d : Desc) (m : List W32) (sum : List (Nat × W16)) : Acc (List (Nat × List Byte)) :=
  let n := d.chans
  let k := min n 4
  let e := d.chanBytes
  (List.range (d.width * d.height)).foldl (fun (a : Acc (List (Nat × List Byte))) i =>
    match a with
    | .bad x => .bad x
    | .ok l =>
      let x := i % d.width
      let y := i / d.width
      let o := reprojOffset m (x / 4) (y / 4) ((assocGet (y / 4 * cdiv d.width 4 + x / 4) sum).getD 0x7C00)
      match s.vread p (d.colorAddr + pixelAt d (clampTo d.width (x + o.1)) (clampTo d.height (y + o.2)) * n * e) (k * e) with
      | .bad f => .bad f
      | .ok b => .ok (l ++ [(d.reprojOut + pixelAt d x y * k * e, b)])) (.ok [])

/-- The re-projected frame is built and presented, and the deadline it belongs to is LATE; an access that faults denies it and leaves a notice. -/
def State.reproject (s : State) (p : PartId) (d : Desc) (m : List W32) (sum : List (Nat × W16)) : State :=
  let fail := fun x => (s.notice p x ⟨7, none, 0, 0, 0, 0, 0, 0⟩).denyReproj p
  match s.reprojWrites p d m sum with
  | .bad x => fail x
  | .ok l => match s.vwriteAll p l with
    | .bad x => fail x
    | .ok s1 =>
      let s2 := (s1.noteWrite .nobody p (spansOf l)).sendPresent p d.reprojOut true false
      let s3 := s2.doIf (decide ((s.part p).deadline.state = dlReproj)) (·.setDl p dlLate)
      (s3.updPart p (fun x => { x with reprojections := satInc x.reprojections, reproj := none })).doIf (s.part p).reprojIrq
        (·.irqPart p (s.part p).dlVec)

/-- REPROJECTION_PRESENT: the re-projected frame is complete. It was built as DEADLINE work in slot 3 of a tile unit (R348). -/
def execReprojectionPresent (p : PartId) (env : Env) (s : State) : Host.Outcome State Fault Refusal :=
  let s := s.at env.t
  match (s.part p).reproj with
  | some (d, m, sum) => if s.works p && (List.finRange 64).any (fun u => (s.tile? u 3).isNone) then .next (s.reproject p d m sum) else .next s
  | none => .next s

end Sys2Proof.Machine
end

