-- ==== Sys2Proof/Machine/CsrRead.lean ====
section
/-!
DEFINITION. Sys2Proof/Machine/CsrRead.lean: what the aperture's registers read as, and the row CSR_READ_CLEAR (R21, R477 to R480, R488 to R490). A
register is named by the offset of its 64-bit word; two 32-bit registers of one word are its halves.
-/

namespace Sys2Proof.Machine

/-- Fields of a 64-bit word from the lowest bit up, each (width, value). -/
def pack64 (l : List (Nat × Nat)) : W64 := BitVec.ofNat 64 (packN l)

/-- The bits of a field. -/
def fieldMask (lo len : Nat) : W64 := BitVec.ofNat 64 ((2 ^ len - 1) * 2 ^ lo)

/-- A read of the bits `m` covers a field whole (R479). -/
def covers (m : W64) (lo len : Nat) : Bool := decide (fieldMask lo len &&& m = fieldMask lo len)

/-- A bitmap of the numbers below `n` that satisfy `f`. -/
def bitmap (n : Nat) (f : Nat → Bool) : Nat := ((List.range n).map (fun i => if f i then 2 ^ i else 0)).sum

/-! ## Global registers (R489) -/

/-- Rays a pack holds on average over the last 4,096 packs, rounded down (R167). -/
def State.packMean (s : State) : Nat := if s.herd.packs.isEmpty then 0 else s.herd.packs.sum / s.herd.packs.length

/-- Block-batch shadows are pending (R494). -/
def State.pendBlock (s : State) : Bool :=
  s.herd.idleIssue.pend || s.herd.packMax.pend || s.herd.packWait.pend || s.pwr.mode.pend || s.arr.dist.pend || s.arr.imbSet.pend || s.arr.imbTu.pend

/-- Epoch-boundary shadows are pending (R494). -/
def State.pendEpoch (s : State) : Bool := s.fwd.routeBase.pend || s.fwd.hostNew || s.fwd.ringTimeout.pend || s.fwd.ringRetry.pend

/-- RK_FWD_LSTAT of a link (R392). -/
def lstatImage (x : Session) : W64 :=
  pack64 [(16, 0), (8, x.version.toNat), (8, x.peerEpoch.toNat), (20, x.peer.toNat), (5, x.tries.toNat), (4, x.reason.toNat), (3, x.state.toNat)]

/-- RK_ARR_ROW of a row (R432). -/
def rowImage (r : Row) : W64 :=
  pack64 [(12, 0), (4, r.sparePos.toNat), (1, r.spareUsed.toNat), (1, r.rowFenced.toNat), (17, r.active.toNat), (17, r.fenced.toNat)]

/-- RK_ARR_DIST of a logical TU (R434): zero while the distance mode in force is UNIFORM. -/
def State.distImage (s : State) (n : TuId) : Nat :=
  if s.arr.dist.force then packN ((List.finRange 8).map (fun g => (4, s.distance n g))) else 0

/-- A unit has left service (R515, R517). -/
def State.unitGone (s : State) (kind : Nat) (out : Nat → Bool) (i : Nat) : Bool := out i && s.unitEmpty kind i

/-- The word at an offset of the global block that is not a table. -/
def State.globalWord (s : State) (base : Nat) : W64 :=
  match base with
  | 0x0 => s.caps.setWidth 64
  | 0x8 => pack64 [(1, s.isUnlocked.toNat)]
  | 0x10 => pack64 [(1, s.csr.lockViol.toNat), (2, 0), (1, s.csr.voteFail.toNat), (4, s.csr.voteLast.toNat), (8, 0), (8, s.csr.xpart.toNat),
      (8, s.csr.badKey.toNat), (16, s.csr.voteCorr.toNat), (16, s.csr.lvCnt.toNat)]
  | 0x18 => pack64 [(1, s.csr.lvIrq.toNat), (1, s.csr.voteIrq.toNat), (1, s.csr.cfgIrq.toNat)]
  | 0x20 => pack64 [(1, s.csr.hold.toNat), (1, s.pendBlock.toNat), (1, s.pendEpoch.toNat)]
  | 0x40 => pack64 [(31, 0), (1, s.cfg.glob.toNat), (16, s.cfg.partMask.toNat), (4, 0), (4, s.cfg.caddyMask.toNat), (1, s.cfg.srcWin.toNat), (3, 0),
      (1, s.cfg.freeze.toNat), (1, s.cfg.busy.toNat)]
  | 0x48 => pack64 [(12, 0), (40, s.cfg.src.toNat)]
  | 0x50 => pack64 [(4, s.cfg.rptSize.toNat), (8, 0), (40, s.cfg.rptAddr.toNat)]
  | 0x58 => pack64 [(4, 0), (16, bitmap 16 (fun p => s.cfg.waitPart.any (fun l => l.part.val == p))),
      (4, bitmap 4 (fun c => s.cfg.waitCaddy.any (fun l => l.caddy.val == c))), (3, s.cfg.reject.toNat), (3, s.cfg.state.toNat), (1, s.cfg.done.toNat),
      (1, s.cfg.overrun.toNat), (16, min s.cfg.writePos 0xFFFF), (16, s.cfg.clamps.toNat)]
  | 0x200 => pack64 [(2, s.pwr.mode.shadow.toNat), (14, 0), (9, s.pwr.capW.toNat)]
  | 0x208 => pack64 [(19, 0), (9, s.pwr.estW.toNat), (2, s.pwr.mode.force.toNat), (1, (decide (s.pwr.frac.toNat < 16)).toNat), (1, s.pwr.overCap.toNat),
      (8, s.pwr.vWest.toNat), (8, s.pwr.vEast.toNat), (8, s.pwr.vSetter.toNat)]
  | 0x210 => pack64 [(16, s.kennel.corr.toNat), (16, s.kennel.uncorr.toNat),
      (7, ((List.range 64).filter (s.unitGone 0 (fun b => bit s.kennel.banksOut b))).length)]
  | 0x218 => pack64 [(16, s.herd.packWait.shadow.toNat), (6, s.herd.packMax.shadow.toNat), (1, 0), (1, s.herd.idleIssue.shadow.toNat)]
  | 0x220 => pack64 [(6, s.packMean), (10, 0), (16, s.herd.store.length), (16, s.herd.matchPeak), (15, 0), (1, s.herd.matchFull.toNat)]
  | 0x228 => pack64 [(3, s.arr.imbTu.shadow.toNat), (1, 0), (4, s.arr.imbSet.shadow.toNat), (8, 0), (8, s.arr.blkLimit.toNat), (5, 0),
      (1, s.arr.blkTimeout.toNat), (1, s.arr.blkDraining.toNat)]
  | 0x230 => pack64 ((s.steepNow.lists.toList.map (fun l => (14, l.length))) ++ [(8, s.steepNow.merged.toNat)])
  | 0x238 => if s.hasVis then pack64 [(16, s.vis.parkUsed), (13, s.vis.parkSummary)] else 0
  | 0x240 => pack64 ([(2, s.sel.toNat), (1, (!s.cfg.waitCaddy.isEmpty).toNat), (5, 0)] ++ s.cfg.caddies.toList.map (fun c => (6, c.gen.toNat)))
  | 0x248 => pack64 ((List.range 4).map (fun c => (16, min 0xFFFF (s.tokens (BitVec.ofNat 2 c)))))
  | 0x300 => pack64 [(4, 0), (4, s.fwd.ringRetry.shadow.toNat), (8, s.fwd.ringTimeout.shadow.toNat), (4, s.fwd.hostPart.shadow.toNat),
      (37, s.fwd.routeBase.shadow.toNat)]
  | 0x308 => pack64 [(8, s.fwd.orphans.toNat), (8, s.fwd.relayDrop.toNat), (16, s.fwd.fwdFails.toNat), (16, s.fwd.reissues.toNat),
      (16, s.fwd.staleDrop.toNat)]
  | 0x310 => pack64 [(6, 0), (51, s.fwd.ownBase.get.toNat)]
  | 0x318 => pack64 [(17, s.fwd.ownEntries.toNat), (15, 0), (32, s.fwd.nextEpoch.toNat)]
  | 0x320 => pack64 [(1, s.fwd.staging.isSome.toNat), (1, s.fwd.reloading.toNat), (1, s.fwd.epochMissed.toNat), (1, s.fwd.epochBehind.toNat),
      (1, s.fwd.reloadReject.toNat), (1, s.fwd.superseded.toNat), (13, s.fwd.missed.toNat), (13, s.fwd.applied.toNat), (32, s.fwd.epoch.get.toNat)]
  | 0x500 => pack64 [(4, s.trace.size.toNat), (8, 0), (45, s.trace.base.toNat)]
  | 0x508 => pack64 [(1, s.trace.enable.toNat), (1, s.trace.wrap.toNat), (14, 0), (4, s.trace.part.toNat), (1, s.trace.allParts.toNat), (11, 0),
      (8, s.trace.opMask.toNat), (24, s.trace.readPos.toNat)]
  | 0x510 => pack64 [(32, s.trace.dropped.toNat), (8, 0), (24, s.trace.writePos.toNat)]
  | 0x600 => pack64 [(1, s.arr.dist.shadow.toNat), (3, 0), (1, s.arr.sleepWest.toNat), (1, s.arr.sleepEast.toNat), (2, 0), (4, s.arr.autoFence.toNat)]
  | 0x608 => pack64 [(16, s.arr.residueErrs.toNat), (6, 0), (1, s.arr.fenceEvent.toNat), (1, s.arr.sleepRefused.toNat), (2, s.arr.west.toNat),
      (2, s.arr.east.toNat), (3, 0), (1, (decide (s.activeTus < 128)).toNat), (8, bitmap 8 (fun r => match s.arr.rows[r]? with | some x => x.spareUsed | none => false)),
      (8, bitmap 8 (fun r => match s.arr.rows[r]? with | some x => x.rowFenced | none => false)), (8, s.activeTus)]
  | 0x1000 => pack64 [(32, s.boot.detail.toNat), (4, 0), (4, s.boot.stall.toNat), (3, 0), (14, s.boot.bp.toNat), (4, s.boot.step.toNat), (3, s.boot.state.toNat)]
  | 0x1008 => pack64 [(1, 0), (1, s.boot.resetIrq.toNat), (1, s.boot.bootIrq.toNat)]
  | 0x1010 => pack64 [(20, s.boot.chipId.toNat)]
  | 0x1018 => pack64 [(16, s.boot.sramRepairs.toNat), (24, 0), (8, s.boot.spareFused.toNat)]
  | 0x1020 => pack64 [(12, 0), (40, s.boot.mcAddr.toNat)]
  | 0x1028 => pack64 [(1, s.boot.mcBadGo.toNat), (7, 0), (8, s.boot.mcAttempts.toNat), (4, 0), (4, s.boot.mcReason.toNat), (6, 0), (1, s.boot.mcBusy.toNat)]
  | 0x1040 => pack64 [(16, bitmap 16 (fun p => match s.parts[p]? with | some x => x.partError | none => false)), (1, s.errored.toNat), (7, 0),
      (8, s.err.partCnt.toNat), (16, s.err.contCnt.toNat), (16, s.err.corrCnt.toNat)]
  | 0x1048 => s.err.log
  | 0x1050 => pack64 [(1, s.err.contIrq.toNat), (1, s.err.partIrq.toNat), (1, s.err.blockIrq.toNat)]
  | 0x1068 => pack64 [(32, 0), (16, bitmap 16 (s.unitGone 2 (fun u => bit s.arr.unitsOut u))), (16, bitmap 16 (s.unitGone 1 (fun c => bit s.arr.coresOut c)))]
  | 0x10008 => pack64 [(1, s.dbg.writeEn.toNat), (1, s.dbg.busy.toNat), (1, s.dbg.bad.toNat), (1, s.dbg.uncorr.toNat)]
  | _ => 0

/-- The word at an offset of the global block. -/
def State.globalImage (s : State) (base : Nat) : W64 :=
  if 0xC00 ≤ base && base < 0xE00 then
    let p : PartId := (BitVec.ofNat 4 ((base - 0xC00) / 32)).toFin
    let w : Fin 4 := (BitVec.ofNat 2 ((base - 0xC00) / 8)).toFin
    (s.cfg.ptab[p][w]).shadow.get
  else if 0x400 ≤ base && base < 0x4C0 then match s.fwd.sess[(base - 0x400) / 8]? with | some x => lstatImage x | none => 0
  else if 0x640 ≤ base && base < 0x680 then match s.arr.rows[(base - 0x640) / 8]? with | some r => rowImage r | none => 0
  else if 0x800 ≤ base && base < 0xA00 then
    let n := (base - 0x800) / 4
    pack64 [(32, s.distImage (BitVec.ofNat 7 n).toFin), (32, s.distImage (BitVec.ofNat 7 (n + 1)).toFin)]
  else if 0x2000 ≤ base && base < 0x3000 then BitVec.ofNat 64 (leNat (s.cfg.window.read (base - 0x2000) 8))
  else if 0x10040 ≤ base && base < 0x10080 then fld s.dbg.data (8 * (base - 0x10040)) 64
  else s.globalWord base

/-- The RO bits of a global word, all that a partition function sees of it (R477). -/
def globalRo (base : Nat) : W64 :=
  if 0x400 ≤ base && base < 0x4C0 then BitVec.allOnes 64
  else if 0x640 ≤ base && base < 0x680 then BitVec.allOnes 64
  else if 0x800 ≤ base && base < 0xA00 then BitVec.allOnes 64
  else match base with
    | 0x0 => BitVec.allOnes 64
    | 0x8 => fieldMask 0 32
    | 0x10 => fieldMask 4 4
    | 0x20 => fieldMask 1 2
    | 0x40 => fieldMask 61 1
    | 0x58 => ~~~fieldMask 30 2
    | 0x208 => ~~~fieldMask 31 1
    | 0x210 => fieldMask 32 7
    | 0x220 => fieldMask 0 32
    | 0x228 => fieldMask 30 1
    | 0x230 => fieldMask 0 56
    | 0x238 => BitVec.allOnes 64
    | 0x240 => ~~~fieldMask 0 2
    | 0x248 => BitVec.allOnes 64
    | 0x320 => ~~~fieldMask 2 4
    | 0x510 => fieldMask 40 24
    | 0x608 => fieldMask 24 40
    | 0x1000 => BitVec.allOnes 64
    | 0x1018 => fieldMask 0 63
    | 0x1028 => ~~~fieldMask 0 1
    | 0x1040 => fieldMask 0 17
    | 0x1068 => BitVec.allOnes 64
    | _ => 0

/-- The RC fields of a global word that a read of the bits `m` covers are cleared (R479); MATCH_FULL of a store that is full stays (R167). -/
def State.globalClear (s : State) (base : Nat) (m : W64) : State :=
  let z := fun {n : Nat} (lo len : Nat) (w : BitVec n) => if covers m lo len then 0 else w
  let f := fun (lo : Nat) (b : Bool) => b && !covers m lo 1
  match base with
  | 0x10 => { s with csr := { s.csr with
      lvCnt := z 48 16 s.csr.lvCnt, voteCorr := z 32 16 s.csr.voteCorr, badKey := z 24 8 s.csr.badKey, xpart := z 16 8 s.csr.xpart,
      voteFail := f 3 s.csr.voteFail, lockViol := f 0 s.csr.lockViol } }
  | 0x58 => { s with cfg := { s.cfg with overrun := f 31 s.cfg.overrun, done := f 30 s.cfg.done } }
  | 0x208 => { s with pwr := { s.pwr with overCap := f 31 s.pwr.overCap } }
  | 0x210 => { s with kennel := { s.kennel with uncorr := z 16 16 s.kennel.uncorr, corr := z 0 16 s.kennel.corr } }
  | 0x220 => { s with herd := { s.herd with
      matchFull := if covers m 63 1 then decide (32768 ≤ s.herd.store.length) else s.herd.matchFull
      matchPeak := if covers m 32 16 then s.herd.store.length else s.herd.matchPeak } }
  | 0x228 => { s with arr := { s.arr with blkTimeout := f 29 s.arr.blkTimeout } }
  | 0x230 => { s with steep := { s.steepNow with merged := z 56 8 s.steepNow.merged } }
  | 0x308 => { s with fwd := { s.fwd with
      staleDrop := z 48 16 s.fwd.staleDrop, reissues := z 32 16 s.fwd.reissues, fwdFails := z 16 16 s.fwd.fwdFails,
      relayDrop := z 8 8 s.fwd.relayDrop, orphans := z 0 8 s.fwd.orphans } }
  | 0x320 => { s with fwd := { s.fwd with
      superseded := f 5 s.fwd.superseded, reloadReject := f 4 s.fwd.reloadReject, epochBehind := f 3 s.fwd.epochBehind,
      epochMissed := f 2 s.fwd.epochMissed } }
  | 0x510 => { s with trace := { s.trace with dropped := z 0 32 s.trace.dropped } }
  | 0x608 => { s with arr := { s.arr with
      sleepRefused := f 23 s.arr.sleepRefused, fenceEvent := f 22 s.arr.fenceEvent, residueErrs := z 0 16 s.arr.residueErrs } }
  | 0x1028 => { s with boot := { s.boot with mcBadGo := f 0 s.boot.mcBadGo } }
  | 0x1040 => { s with err := { s.err with corrCnt := z 48 16 s.err.corrCnt, contCnt := z 32 16 s.err.contCnt, partCnt := z 24 8 s.err.partCnt } }
  | 0x1048 =>
    let gone := ([(63, 1), (61, 2), (56, 5), (52, 4), (24, 24), (0, 24)].filter (fun x => covers m x.1 x.2)).foldl (fun a x => a ||| fieldMask x.1 x.2) 0
    { s with err := { s.err with log := s.err.log &&& ~~~gone } }
  | 0x10008 => { s with dbg := { s.dbg with uncorr := f 3 s.dbg.uncorr, bad := f 2 s.dbg.bad } }
  | _ => s

/-! ## Queue slots (R45 to R50, R77) -/

/-- Items of a register unit of RK_QPROG (R78). -/
def progUnit (q : QueueId) (op : Nat) : Nat := if engineOf q = 1 then 32 else if op = 0x30 then 4096 else 1

/-- RK_QPROG: what the oldest admitted, incomplete command has done. TOTAL of a command
rejected for a count above its maximum is the low bits of the raw count (DESIGN CHOICE, log 204). -/
def State.qprogImage (s : State) (q : QueueId) : W64 :=
  let x := s.queue q
  if x.cmds.isEmpty && x.last.isSome then Config.idleProg q.val x.seq
  else match reported x with
    | none => 0
    | some (_, op, _, _, done, total) =>
      let u := progUnit q op.toNat
      pack64 [(25, cdiv total u), (25, done / u), (14, bpOf done total)]

/-- A word of a queue's slot. -/
def State.queueImage (s : State) (q : QueueId) (base : Nat) : W64 :=
  let x := s.queue q
  match base with
  | 0x0 => pack64 [(6, 0), (51, x.desc.toNat)]
  | 0x8 => pack64 [(1, x.enable.toNat), (7, 0), (4, x.vec.toNat)]
  | 0x10 => pack64 [(1, x.enabled.toNat), (1, x.cmds.isEmpty.toNat), (1, x.errStop.toNat), (1, x.badDesc.toNat), (1, x.badWhistle.toNat),
      (1, (cplFull x && !x.fetched.isEmpty).toNat), (9, 0), (17, x.head), (17, x.cplHead.toNat)]
  | 0x18 => s.qprogImage q
  | _ => 0

/-! ## Partition pages (R490) -/

/-- Engine or partition batch shadows of a page are pending (R494). -/
def Part.pendBatch (x : Part) : Bool :=
  x.delivWait.pend || x.flowNew || x.waveMax.pend || x.ovfSplat.pend || x.ovfTraverse.pend || x.spinLimit.pend || x.saveBase.pend || x.consultNew
    || x.winBase.pend || x.mapAddr.pend || x.reissueMax.pend || x.extendMax.pend || x.leaseUs.pend || x.mmuEnable.pend || x.mmuRoot.pend || x.fqBase.pend
    || x.sizeNew

/-- Groups of a partition in a state. -/
def State.groupsIn (s : State) (p : PartId) (st : GState) : Nat := (s.groupsAll.filter (fun g => decide (g.part = p) && decide (g.state = st))).length

/-- Groups of a partition that hold a slot. -/
def State.residentOf (s : State) (p : PartId) : Nat :=
  (s.setter.cores.toList.map (fun c => (c.resident.filter (fun g => decide (g.part = p))).length)).sum

/-- Heap held by a partition, in 64 B units (R234). -/
def State.heapUsed (s : State) (p : PartId) : Nat :=
  ((s.strain.bundles.filter (fun b => b.placed && decide (b.part = p) && b.foreign.isNone)).map (·.heapB)).sum / 64

/-- Engine or partition batch shadows of a partition are pending, its RK_PTAB entry written by CSR among them (R494, R498). -/
def State.pendBatch (s : State) (p : PartId) : Bool := (s.part p).pendBatch || s.cfg.waitPart.any (fun l => l.csr && decide (l.part = p))

/-- A word of a partition's page. -/
def State.pageWord (s : State) (p : PartId) (base : Nat) : W64 :=
  let x := s.part p
  match base with
  | 0x0 => pack64 [(2, 0), (16, s.flowBase p), (17, s.flowCount p), (5, (s.coreSet p s.sel).length), (8, s.servedTus p), (16, (s.portMask p).toNat)]
  | 0x8 => pack64 [(1, x.hold.toNat), (1, (s.pendBatch p).toNat), (1, x.parkMax.pend.toNat)]
  | 0x10 => pack64 [(19, s.kUsed p), (19, s.kQuota p), (19, x.kPeak), (1, (s.anyHeld p 0).toNat),
      (1, (s.kennel.slots.any (fun e => !e.2.foreign && decide (e.2.part = p) && (match e.2.data with | .ray r => decide (r.rstate = .spillWait) | _ => false))).toNat)]
  | 0x18 => pack64 [(13, x.flowBudget.shadow.toNat), (3, 0), (8, x.delivWait.shadow.toNat)]
  | 0x20 => pack64 [(16, x.stallFlow.toNat), (16, 0), (17, (s.ret.entries.filter (fun e => decide (e.part = p))).length), (1, x.budgetStall.toNat)]
  | 0x28 => pack64 [(6, x.waveMax.shadow.toNat)]
  | 0x30 => pack64 [(13, (s.strain.bundles.filter (fun b => b.placed && decide (b.walkB ≠ 0) && decide (b.part = p) && b.foreign.isNone)).length), (5, 0), (18, s.heapUsed p), (8, 0),
      (1, x.unbounded.toNat), (16, x.tight.toNat), (1, (s.anyHeld p 3).toNat), (1, (s.anyHeld p 2).toNat), (1, (s.anyHeld p 1).toNat)]
  | 0x40 => pack64 [(2, x.ovfTraverse.shadow.toNat), (2, if s.hasSplat then x.ovfSplat.shadow.toNat else 0), (4, 0), (1, x.invIrq.toNat), (1, x.ovfIrq.toNat),
      (2, 0), (4, x.fpVec.toNat), (16, 0), (1, x.fpInvalid.toNat), (1, x.fpOverflow.toNat)]
  | 0x48 => x.fpCapture
  | 0x50 => pack64 [(32, x.invCnt.toNat), (32, x.ovfCnt.toNat)]
  | 0x80 => pack64 [(20, x.spinLimit.shadow.toNat), (2, 0), (1, x.autoEnd.toNat), (1, x.trapIrq.toNat), (4, x.trapVec.toNat)]
  | 0x88 => pack64 [(12, 0), (45, x.saveBase.shadow.toNat)]
  | 0x90 => pack64 [(9, 0), (9, s.residentOf p), (9, s.groupsIn p .saved), (9, s.groupsIn p .halted), (9, s.groupsIn p .trapped), (2, 0), (1, x.badCmd.toNat),
      (16, x.traps.toNat)]
  | 0x98 => pack64 [(32, 0), (21, x.dbgIndex.toNat), (9, 0), (2, x.dbgSpace.toNat)]
  | 0xA0 => x.dbgData.setWidth 64
  | 0x100 => if s.hasVis then pack64 [(13, x.parkMax.shadow.toNat)] else 0
  | 0x108 => if s.hasVis then pack64 [(14, x.passes.toNat), (1, x.overdeep.toNat),
      (1, (s.vis.parkWait.any (fun w => decide (w.part = p))).toNat), (16, x.badPrims.toNat), (16, x.deferred.toNat),
      (16, x.partials.toNat)] else 0
  | 0x110 => if s.hasTex then x.texFallback else 0
  | 0x118 => pack64 [(40, 0), (17, x.winBase.shadow.toNat), (6, 0), (1, x.consult.shadow.toNat)]
  | 0x120 => pack64 [(12, 0), (45, x.mapAddr.shadow.toNat)]
  | 0x128 => pack64 [(1, x.fireIrq.toNat), (1, x.reprojIrq.toNat), (1, x.lateIrq.toNat), (5, 0), (4, x.dlVec.toNat)]
  | 0x130 => pack64 [(3, x.deadline.state.toNat), (5, 0), (1, x.reprojDenied.toNat), (7, 0), (16, x.presented.toNat), (16, x.lateFrames.toNat),
      (16, x.reprojections.toNat)]
  | 0x180 => pack64 [(20, x.leaseUs.shadow.toNat), (4, 0), (4, x.extendMax.shadow.toNat), (4, x.reissueMax.shadow.toNat)]
  | 0x200 => pack64 [(12, 0), (40, x.mmuRoot.shadow.toNat), (11, 0), (1, x.mmuEnable.shadow.toNat)]
  | 0x210 => pack64 [(4, x.fqSize.shadow.toNat), (4, 0), (4, x.fqVec.toNat), (45, x.fqBase.shadow.toNat)]
  | 0x218 => pack64 [(17, x.fqHead.toNat)]
  | 0x220 => pack64 [(7, (s.openOf p).length), (16, 0), (1, x.noticeDrop.toNat), (1, x.fqFault.toNat), (1, (!x.overflow.isEmpty).toNat),
      (1, (!x.invals.isEmpty).toNat), (1, x.badReplay.toNat), (1, (!x.fqHeld.isEmpty && fqFull x).toNat), (2, x.peReason.toNat), (1, x.partError.toNat),
      (16, x.joins.toNat), (16, x.faults.toNat)]
  | 0x408 => pack64 [(1, x.resetDone.toNat), (1, x.resetting.toNat), (46, 0), (16, x.contCnt.toNat)]
  | _ => 0

/-- The word at an offset of a page, its queue slots included (R39). -/
def State.pageImage (s : State) (p : PartId) (base : Nat) : W64 :=
  if base < 0x800 then s.pageWord p base
  else match s.slotQueue p ((base - 0x800) / 32) with
    | some q => s.queueImage q (base % 32)
    | none => 0

/-- The RC fields of a page's word that a read of the bits `m` covers are cleared (R479); RK_FPSTAT_CAPTURE by a 64-bit read only.
BUDGET_STALL stays set while a flow still holds admission (R194). -/
def State.pageClear (s : State) (p : PartId) (base : Nat) (m : W64) : State :=
  let x := s.part p
  let z := fun {n : Nat} (lo len : Nat) (w : BitVec n) => if covers m lo len then 0 else w
  let f := fun (lo : Nat) (b : Bool) => b && !covers m lo 1
  if 0x800 ≤ base then
    match s.slotQueue p ((base - 0x800) / 32) with
    | some q => if base % 32 = 0x10 then s.updQueue q (fun y => { y with badWhistle := f 4 y.badWhistle }) else s
    | none => s
  else match base with
    | 0x10 => s.setPart p { x with kPeak := if covers m 38 19 then s.kUsed p else x.kPeak }
    | 0x20 => s.setPart p { x with budgetStall := f 49 x.budgetStall || (s.anyHeld p 4 && !s.underBudget p x.stallFlow) }
    | 0x30 => s.setPart p { x with tight := z 45 16 x.tight, unbounded := f 44 x.unbounded }
    | 0x40 => s.setPart p { x with fpOverflow := f 33 x.fpOverflow, fpInvalid := f 32 x.fpInvalid }
    | 0x48 => s.setPart p { x with fpCapture := z 0 64 x.fpCapture }
    | 0x50 => s.setPart p { x with ovfCnt := z 32 32 x.ovfCnt, invCnt := z 0 32 x.invCnt }
    | 0x90 => s.setPart p { x with traps := z 48 16 x.traps, badCmd := f 47 x.badCmd }
    | 0x108 => if s.hasVis then s.setPart p { x with
        partials := z 48 16 x.partials, deferred := z 32 16 x.deferred, badPrims := z 16 16 x.badPrims, overdeep := f 14 x.overdeep, passes := z 0 14 x.passes }
      else s
    | 0x130 => s.setPart p { x with
        reprojections := z 48 16 x.reprojections, lateFrames := z 32 16 x.lateFrames, presented := z 16 16 x.presented, reprojDenied := f 8 x.reprojDenied }
    | 0x220 => s.setPart p { x with
        faults := z 48 16 x.faults, joins := z 32 16 x.joins, badReplay := f 27 x.badReplay, noticeDrop := f 23 x.noticeDrop }
    | 0x408 => s.setPart p { x with contCnt := z 48 16 x.contCnt, resetDone := f 0 x.resetDone }
    | _ => s

/-! ## The access (R21, R477, R479, R488) -/

/-- A naturally aligned access of 32 or 64 bits. -/
def accOk (a : Access) : Bool :=
  match a.size with
  | .w32 => a.off.toNat % 4 == 0
  | .w64 => a.off.toNat % 8 == 0
  | .other => false

/-- The 64-bit word an access lies in. -/
def accWord (a : Access) : Nat := a.off.toNat / 8 * 8

/-- The access is of the upper half of its word. -/
def accUpper (a : Access) : Bool := decide (a.size = .w32) && a.off.toNat % 8 == 4

/-- The bits of its word that an access covers. -/
def accMask (a : Access) : W64 :=
  if a.size = .w64 then BitVec.allOnes 64 else if accUpper a then fieldMask 32 32 else fieldMask 0 32

/-- The page an offset lies in, none for the global block (R488). -/
def accPage (a : Access) : Option PartId :=
  if a.off.toNat < 0xF0000 then none else some (BitVec.ofNat 4 ((a.off.toNat - 0xF0000) / 4096)).toFin

/-- What an access returns of its word. -/
def accTake (a : Access) (w : W64) : W64 :=
  if a.size = .w64 then w else if accUpper a then (fld w 32 32).setWidth 64 else (fld w 0 32).setWidth 64

/-- The requester clears RC fields: not the debug port, and a partition function only in its own page. -/
def accClears (a : Access) : Bool :=
  match a.req with
  | .mgmt => true
  | .debug => false
  | .part _ => (accPage a).isSome

/-- A read of a word of the global block votes on the voted field it covers a bit of (R485). -/
def State.voteRead (s : State) (base : Nat) (m : W64) : State :=
  let on := fun (lo len : Nat) => decide (fieldMask lo len &&& m ≠ 0)
  if 0xC00 ≤ base && base < 0xE00 then
    s.votePtabShadow (BitVec.ofNat 4 ((base - 0xC00) / 32)).toFin (BitVec.ofNat 2 ((base - 0xC00) / 8)).toFin
  else match base with
    | 0x0 => s.doIf (on 0 32) (fun s => s.voteCaps s.boot.fuses)
    | 0x8 => s.doIf (on 0 1) State.voteLock
    | 0x240 => s.doIf (on 0 2) State.voteSel
    | 0x310 => s.doIf (on 6 51) State.voteOwnBase
    | 0x320 => s.doIf (on 32 32) State.voteEpoch
    | _ => s

/-- A read that passed the gate: the word, masked for a partition function in the global block, and then its RC fields cleared. -/
def State.readWord (s : State) (a : Access) : State :=
  match accPage a with
  | some p =>
    let b := accWord a % 4096
    let s1 := s.doIf (accClears a) (fun s => s.pageClear p b (accMask a))
    s1.answer (.data (accTake a (s.pageImage p b)))
  | none =>
    let s := s.voteRead (accWord a) (accMask a)
    let w := s.globalImage (accWord a)
    let v := match a.req with
      | .part _ => w &&& globalRo (accWord a)
      | .mgmt => w
      | .debug => w
    let s1 := s.doIf (accClears a) (fun s => s.globalClear (accWord a) (accMask a))
    s1.answer (.data (accTake a v))

/-- CSR_READ_CLEAR: a read of a register; RC fields that it covers whole are cleared. -/
def execCsrReadClear (a : Access) (s : State) : Host.Outcome State Fault Refusal :=
  if !accOk a then .next s.busError
  else match s.gate a.req (accPage a) false with
    | .refused s1 => .next s1
    | .ignored => .next s
    | .go => .next (s.readWord a)

end Sys2Proof.Machine
end

