-- ==== Sys2Proof/Machine/Debug.lean ====
section
/-!
DEFINITION. Sys2Proof/Machine/Debug.lean: the debug window (R525, R526): what a READ of an internal structure shows and what a WRITE changes.
-/

namespace Sys2Proof.Machine

/-! ## Records as the debug port shows them -/

/-- TSTATE (R102): CUR_NODE, IN_INST, SDEPTH, S0 to S2, EXT; `o` fills the short entries that are not valid. -/
def packTState (t : TState) (o : Nat) : Nat :=
  let e := fun k => match t.short[k]? with | some i => wrapN 21 i | none => nfld o (32 + 21 * k) 21
  packN [(29, t.cur), (1, t.inInst.toNat), (2, t.short.length), (21, e 0), (21, e 1), (21, e 2), (1, t.ext.toNat)]

/-- TSTATE read back. -/
def unpackTState (n : Nat) : TState :=
  ⟨Nat.testBit n 95, (List.range (min 3 (nfld n 30 2))).map (fun k => sext 21 (nfld n (32 + 21 * k) 21)), Nat.testBit n 29, nfld n 0 29⟩

/-- RSTATE (R101). -/
def rstateCode (r : RState) : Nat :=
  match r with
  | .active => 0
  | .faultWait => 1
  | .invokeWait => 2
  | .haltWait => 3
  | .spillWait => 4
  | .forwarded => 5
  | .done => 6

/-- RSTATE read back; a reserved value leaves the state as it is. -/
def rstateOf (n : Nat) (old : RState) : RState :=
  match n with
  | 0 => .active
  | 1 => .faultWait
  | 2 => .invokeWait
  | 3 => .haltWait
  | 4 => .spillWait
  | 5 => .forwarded
  | 6 => .done
  | _ => old

/-- Three FP32 words as fields. -/
def packVec (v : Vector W32 3) : List (Nat × Nat) := [(32, v[0].toNat), (32, v[1].toNat), (32, v[2].toNat)]

/-- Three FP32 words from byte `b` of a unit. -/
def vecAt (w : Slot64) (b : Nat) : Vector W32 3 := #v[fld w (8 * b) 32, fld w (8 * b + 32) 32, fld w (8 * b + 64) 32]

/-- The ray record of a slot (R96). -/
def State.rayUnit (s : State) (i : Nat) (r : Ray) (o : Nat) : Nat :=
  packN (packVec r.origin ++ packVec r.dir ++ [(32, r.tmin.toNat), (32, r.tmax.toNat), (32, (s.kId i).toNat), (16, r.flow.toNat), (16, r.flags.toNat),
    (8, r.vis.toNat), (8, rstateCode r.rstate), (16, r.hier.toNat), (64, r.payload.toNat), (96, packTState r.ts o)])

/-- A stack-extension slot (R104). -/
def extUnit (l : List Nat) (o : Nat) : Nat :=
  packN ((List.range 15).map (fun k => (32, match l[k]? with | some e => e | none => nfld o (32 * k) 32)) ++ [(8, l.length), (24, 0)])

/-- An instance slot (R106). -/
def frameUnit (f : InstFrame) (o : Nat) : Nat :=
  packN (packVec f.origin ++ packVec f.dir ++ [(32, f.instId.toNat), (32, 0), (96, packTState f.saved o), (64, f.blas.toNat), (96, 0)])

/-- BSTATE.STATE of a bundle (R230). -/
def State.bundleStateCode (s : State) (b : Bundle) : Nat :=
  match b.state with
  | .done => 6
  | .reducing => if b.parkedOps.isEmpty && !s.isParked (.forward b.head) then 7 else 1
  | .active =>
    if !b.parkedOps.isEmpty || s.isParked (.forward b.head) then 1
    else if b.inflight.isEmpty && b.leashes.any (fun k => match s.leash? k with | some x => x.live | none => false) then 5 else 0

/-- Live Leashes of a bundle. -/
def State.liveLeashes (s : State) (b : Bundle) : Nat :=
  (b.leashes.filter (fun k => match s.leash? k with | some x => x.live | none => false)).length

/-- Where a bundle's heap and walk block lie in its unit: HEAP_OFF and WALK_OFF. -/
def Bundle.offsets (b : Bundle) : BitVec 13 × BitVec 13 :=
  match b.cmd, b.foreign with
  | some r, _ => Config.strainOff (1 + r.q.val + 64 * r.seq) b.index
  | none, some (l, h, _) => Config.strainOff 0 (l.val + 32 * (h.src.toNat + 2 ^ 20 * h.queryId.toNat))
  | none, none => Config.strainOff 0 0

/-- The header slot of a bundle (R111), with BSTATE (R230); where its blocks lie in their unit is not given, but they stay there. An operation parked on a
fault is not among INFLIGHT (DEDUCED, log 207). -/
def State.headUnit (s : State) (i : Nat) (raw : Slot64) (o : Nat) : Nat :=
  let low := packN [(32, (s.kId i).toNat), (224, nfld raw.toNat 32 224)]
  let state := match s.bundle? i with
    | some b =>
      packN [(8, s.bundleStateCode b), (8, b.unit.val), (8, b.frontier.length), (8, b.inflight.length), (16, s.liveLeashes b),
        (8, (decide (56 ≤ b.frontier.length)).toNat + 2 * b.unbounded.toNat), (8, 0), (32, b.offsets.1.toNat),
        (32, b.offsets.2.toNat), (32, b.desc.keyCount), (32, b.bounds.toNat), (32, b.scores.toNat), (32, 0)]
    | none => nfld o 256 256
  packN [(256, low), (256, state)]

/-- A Leash (R385); its DEADLINE while it runs. -/
def State.leashUnit (s : State) (i : Nat) (k : Leash) (o : Nat) : Nat :=
  packN [(32, k.queryId.toNat), (16, k.subtree.toNat), (8, k.lkind.toNat), (8, k.entry.toNat), (20, k.owner.toNat), (5, k.link.toNat), (7, 0),
    (20, k.failed.toNat), (11, 0), (1, k.failedValid.toNat), (64, (s.timerDue (.lease i)).getD (nfld o 128 64)), (8, k.extends_.toNat),
    (8, k.reissues.toNat), (16, 0), (32, k.epoch.toNat), (256, 0)]

/-- The 64 B of a Kennel slot. Those of a free slot are what a debug WRITE left there, else zero where its bank has been scrubbed since it last held a record (R118), else open. -/
def State.slotUnit (s : State) (i o : Nat) : Nat :=
  match s.kGet i with
  | none => match assocGet i s.kennel.images with
    | some w => w.toNat
    | none => if bit s.kennel.scrubbed (i % 64) && !s.kennel.stale.contains i then 0 else o
  | some x => match x.data with
    | .ray r => s.rayUnit i r o
    | .ext _ l => extUnit l o
    | .inst f => frameUnit f o
    | .head raw => s.headUnit i raw o
    | .body raw => raw.toNat
    | .leash k => s.leashUnit i k o

/-- KIND of a slot (R85). -/
def State.slotKind (s : State) (i : Nat) : Nat :=
  match s.kGet i with
  | none => 0
  | some x => match x.data with
    | .ray _ => 1
    | .ext _ _ => 2
    | .inst _ => 3
    | .head _ => 4
    | .body _ => 5
    | .leash _ => 6

/-- PART of a slot's tag (R84): at its reset value until the slot first holds a record, open when it is free again. -/
def State.slotPart (s : State) (i o : Nat) : Nat :=
  match s.kGet i with
  | some x => x.part.val
  | none => if s.kennel.stale.contains i then nfld o 32 4 else 0

/-- The tag (R84) and the link field; a link that there is not is open. -/
def State.tagUnit (s : State) (i o : Nat) : Nat :=
  packN [(15, 0), (14, (s.gen i).toNat), (3, s.slotKind i), (4, s.slotPart i o),
    (1, (s.kIsForeign i).toNat), (3, 0), (18, (s.kNext i).getD (nfld o 40 18)), (6, nfld o 58 6), (448, nfld o 64 448)]

/-- The visit word of a ray (R172), its upper bytes open. -/
def visitUnit (v : Visit) (o : Nat) : Nat :=
  packN [(4, 0), (1, v.topResume.toNat), (1, v.resume.toNat), (5, v.topPos.toNat), (8, v.topDone.toNat), (5, v.primPos.toNat), (8, v.leafDone.toNat),
    (8, v.lastTu.toNat), (472, nfld o 40 472)]

/-- HFLAGS of a candidate (R187). -/
def hflags (c : Cand) : Nat := c.valid.toNat + 2 * c.invalid.toNat + 4 * c.nonres.toNat + 8 * c.fwd.toNat + 16 * c.reissued.toNat

/-- The candidate entry of a ray (R187). -/
def candUnit (c : Cand) (o : Nat) : Nat :=
  packN [(32, c.prim.toNat), (32, c.inst.toNat), (16, c.u.toNat), (16, c.v.toNat), (16, hflags c), (16, 0), (384, nfld o 128 384)]

/-- An entry of the current owner table (R361); of a subtree it does not list only VALID 0 is given. -/
def State.ownerUnit (s : State) (i o : Nat) : Nat :=
  let e := match assocGet i s.fwd.table with
    | some e => packN [(20, e.primary.toNat), (20, match e.replica with | some c => c.toNat | none => 0), (6, 0), (1, e.replica.isSome.toNat), (1, 1), (16, i)]
    | none => packN [(47, o), (1, 0), (16, i)]
  packN [(64, e), (448, nfld o 64 448)]

/-! ## Commands (R526) -/

/-- Units of a structure; none of a reserved one. -/
def dbgUnits (st : Nat) (index : Nat) : Nat :=
  match st with
  | 0 => 262144
  | 1 => 262144
  | 2 => 262144
  | 3 => 262144
  | 4 => 32768
  | 5 => 262144
  | 6 => 131072
  | 7 => 4096
  | 8 => 65536
  | 9 => if index / 16384 < 4 then index / 16384 * 16384 + steepCap (Fin.ofNat 4 (index / 16384)) else 0
  | 10 => Config.fuseUnits
  | 11 => 16384
  | _ => 0

/-- The unit that a READ returns. -/
def State.dbgUnit (s : State) (st i : Nat) : Slot64 :=
  let o := (Config.debugUnit st i s.fresh).toNat
  BitVec.ofNat 512 (match st with
    | 0 => s.slotUnit i o
    | 1 => s.tagUnit i o
    | 2 => visitUnit (match s.ray? i with | some r => r.visit | none => (assocGet i s.kennel.visits).getD Visit.clear) o
    | 3 => match s.ray? i with | some r => candUnit r.cand o | none => (match assocGet i s.kennel.cands with | some c => candUnit c o | none => o)
    | 8 => s.ownerUnit i o
    | 11 => leNat (s.boot.mcStore.read (64 * i) 64)
    | _ => o)

/-- A Kennel slot in use takes a record of its kind; a free one keeps the 64 B until it is allocated. -/
def State.putSlotUnit (s : State) (i : Nat) (w : Slot64) : State :=
  match s.kGet i with
  | none => { s with kennel := { s.kennel with images := assocPut i w s.kennel.images } }
  | some x =>
    let put := fun d => s.kPut i { x with data := d }
    match x.data with
    | .ray r => put (.ray { r with
        origin := vecAt w 0, dir := vecAt w 12, tmin := fld w 192 32, tmax := fld w 224 32, flow := fld w 288 16, flags := fld w 304 16,
        vis := fld w 320 8, rstate := rstateOf (rb w 41 1) r.rstate, hier := fld w 336 16, payload := fld w 352 64,
        ts := unpackTState (rb w 52 12) })
    | .ext k _ => put (.ext k ((List.range (min 15 (nfld w.toNat 480 4))).map (fun j => nfld w.toNat (32 * j) 29)))
    | .inst f => put (.inst { f with
        origin := vecAt w 0, dir := vecAt w 12, instId := fld w 192 32, saved := unpackTState (rb w 32 12), blas := fld w 352 64 })
    | .head _ => (put (.head w)).updBundle i (fun b => { b with
        unbounded := bit w 305, bounds := fld w 416 32, scores := fld w 448 32 })
    | .body _ => put (.body w)
    | .leash k =>
      let s1 := put (.leash { (k : Leash) with
        queryId := fld w 0 32, subtree := fld w 32 16, lkind := fld w 48 2, entry := fld w 56 8, owner := fld w 64 20, link := fld w 84 5,
        failed := fld w 96 20, failedValid := bit w 127, failedSub := fld w 32 16, extends_ := fld w 192 8, reissues := fld w 200 8, epoch := fld w 224 32 })
      if (s.timerDue (.lease i)).isSome then (s1.timerDel (.lease i)).timerAdd (.lease i) (rb w 16 8) else s1

/-- A tag is written: GEN, and of a slot in use its partition, FOREIGN, link, and KIND where it becomes FREE. -/
def State.putTagUnit (s : State) (i : Nat) (w : Slot64) : State :=
  let g : BitVec 14 := fld w 15 14
  let s1 := { s with kennel := { s.kennel with gens := if g = 1 then assocDel i s.kennel.gens else assocPut i g s.kennel.gens } }
  match s.kGet i with
  | none => s1
  | some x =>
    if nfld w.toNat 29 3 = 0 then s1.kFree i
    else s1.kPut i { x with part := (fld w 32 4).toFin, foreign := bit w 36, link := if x.link.isSome then some (nfld w.toNat 40 18) else none }

/-- A visit word is written. -/
def State.putVisitUnit (s : State) (i : Nat) (w : Slot64) : State :=
  let f := fun (v : Visit) => { v with
    topResume := bit w 4, resume := bit w 5, topPos := fld w 6 5, topDone := fld w 11 8, primPos := fld w 19 5, leafDone := fld w 24 8,
    lastTu := fld w 32 8 }
  match s.ray? i with
  | some r => s.setRay i { r with visit := f r.visit }
  | none => { s with kennel := { s.kennel with visits := assocPut i (f ((assocGet i s.kennel.visits).getD Visit.clear)) s.kennel.visits } }

/-- A candidate entry as a unit holds it. -/
def candOf (w : Slot64) : Cand := ⟨fld w 0 32, fld w 32 32, fld w 64 16, fld w 80 16, bit w 96, bit w 97, bit w 98, bit w 99, bit w 100⟩

/-- A candidate entry is written; that of a slot without a ray stays until one is allocated there. -/
def State.putCandUnit (s : State) (i : Nat) (w : Slot64) : State :=
  match s.ray? i with
  | some _ => s.updRay i (fun r => { r with cand := candOf w })
  | none => { s with kennel := { s.kennel with cands := assocPut i (candOf w) s.kennel.cands } }

/-- An entry of the current owner table is written. -/
def State.putOwnerUnit (s : State) (i : Nat) (w : Slot64) : State :=
  let e : OwnEntry := ⟨if bit w 46 then some (fld w 20 20) else none, fld w 0 20⟩
  { s with fwd := { s.fwd with table := if bit w 47 then assocPut i e s.fwd.table else assocDel i s.fwd.table } }

/-- A WRITE of a unit; of a structure that the spec does not lay out nothing is known to change. -/
def State.putUnit (s : State) (st i : Nat) (w : Slot64) : State :=
  match st with
  | 0 => s.putSlotUnit i w
  | 1 => s.putTagUnit i w
  | 2 => s.putVisitUnit i w
  | 3 => s.putCandUnit i w
  | 8 => s.putOwnerUnit i w
  | _ => s

/-- A command that is ignored. -/
def State.dbgBad (s : State) : State := { s with dbg := { s.dbg with bad := true } }

/-- The ray, or else the bundle, whose record a Kennel slot is part of. -/
def State.slotRay (s : State) (i : Nat) : Option Nat :=
  (s.kennel.slots.find? (fun e => (match e.2.data with | .ray _ => true | _ => false) && (s.raySlots e.1).contains i)).map (·.1)

def State.slotBundle (s : State) (i : Nat) : Option Nat :=
  (s.strain.bundles.find? (fun b => (s.bundleSlots b.head).contains i || b.leashes.contains i)).map (·.head)

/-- An uncorrectable word of a Kennel slot that a debug READ meets: it is counted, its bank leaves service, and the record that holds it ends with
CONTAINED (R118, R120). -/
def State.slotLost (s : State) (i : Nat) : State :=
  let s1 := s.kennelLost i
  match s.slotRay i with
  | some n => ((s1.errContained (s.kPart n) 0 (i % 64) (s.kId n).toNat).herdDrop (fun x => x == .ray n)).endRay n 0x17
  | none => match s.slotBundle i with
    | some h => (s1.errContained (s.kPart h) 0 (i % 64) (s.kId h).toNat).failBundle s.env0 h 3
    | none => s1.errContained (s.kPart i) 0 (i % 64) 0

/-- What a debug READ of a unit meets, as any other read of the structure does: a corrected word is counted, in RK_KERR too for the Kennel; an
uncorrectable one of a Kennel slot ends its record, one of the microcode store after READY puts the block in ERROR (R118, R120, R507, R511, R512). -/
def State.dbgMeets (s : State) (st i : Nat) (check : Check) : State :=
  match check with
  | .ok => s
  | .corrected => if st = 0 || st = 1 then s.kennelCorrected else s.errCorrected
  | .failed => if st = 0 || st = 1 then s.slotLost i else if st = 11 && s.ready then s.errBlock 0x0F i else s

/-- A write to RK_DBG_CMD: READ, WRITE, or BAD. -/
def State.regDbgCmd (s : State) (v : W32) (check : Check) : State :=
  let op := fldN v 28 4
  let st := fldN v 24 4
  let i := fldN v 0 24
  if (op ≠ 1 && op ≠ 2) || decide (dbgUnits st i ≤ i) then s.dbgBad
  else if op = 1 then
    let data := if check = Check.failed then Config.debugUnit st i s.fresh else s.dbgUnit st i
    let s1 := { s with dbg := { s.dbg with data := data, uncorr := decide (check = Check.failed) }, fresh := s.fresh + 1 }
    s1.dbgMeets st i check
  else if !s.dbg.writeEn || st = 10 || st = 11 then s.dbgBad
  else s.putUnit st i s.dbg.data

/-- The debug window serves the debug port and the management function only, in ERROR too (R513, R525). -/
def State.dbgAccess (s : State) (req : Requester) (f : State → State) : State := s.busWrite req none true false (fun _ s => f s)

/-- DBG_READ: RK_DBG_CMD written with OP READ. -/
def execDbgRead (req : Requester) (value : W32) (check : Check) (s : State) : Host.Outcome State Fault Refusal :=
  .next (s.dbgAccess req (fun s => s.regDbgCmd (BitVec.ofNat 32 (2 ^ 28 + value.toNat % 2 ^ 28)) check))

/-- DBG_WRITE: RK_DBG_CMD written with OP WRITE. -/
def execDbgWrite (req : Requester) (value : W32) (s : State) : Host.Outcome State Fault Refusal :=
  .next (s.dbgAccess req (fun s => s.regDbgCmd (BitVec.ofNat 32 (2 ^ 29 + value.toNat % 2 ^ 28)) .ok))

end Sys2Proof.Machine
end

