-- ==== Sys2Proof/Machine/Train.lean ====
section
/-!
DEFINITION. Sys2Proof/Machine/Train.lean: the rows of the links and their sessions (R16, R17, R66, R67, R377 to R382, R392): LINK_UP, LINK_DOWN,
FWD_SESSION, the training messages, keepalives, drains and credit returns.
-/

namespace Sys2Proof.Machine

/-! ## A session is lost -/

/-- A session leaves UP, DRAIN or training as lost: vector 4 where it was UP, its commands end, and the owners behind it are lost (R17, R379,
R384, R392). -/
def State.dropSess (s : State) (env : Env) (l : LinkId) (reason : BitVec 4) : State :=
  let st := (s.sess l).state
  let ks := s.leashesOn l
  let s1 := (s.downSess l reason).doIf (decide (st = ssUp)) (·.irqBlock 4)
  let s2 := (s1.endCmds l false stSessionFail).endCmds l true stOk
  s2.loseOwners env ks

/-- A session is lost: it is DOWN; a ring session lost in start-up counts as failed. -/
def State.loseSess (s : State) (env : Env) (l : LinkId) (reason : BitVec 4) : State := ((s.dropSess env l reason).ringFailed l).boot9

/-- The peer has restarted (R379): the session is lost and enters LISTEN at once, expecting the PEER of an OPEN that waits, which goes on waiting, else
the peer of its last UP session (R66, R379); a ring session is not UP then (R503). -/
def State.restartSess (s : State) (env : Env) (l : LinkId) : State :=
  let opens := s.fwd.cmds.filter (fun w => decide (w.1 = l) && !w.2.1)
  let peer := match s.openPeer l with | some p => some p | none => (s.sess l).lastPeer
  let s0 := { s with fwd := { s.fwd with cmds := s.fwd.cmds.filter (fun w => !(decide (w.1 = l) && !w.2.1)) } }
  let s1 := s0.dropSess env l rsRestart
  ((({ s1 with fwd := { s1.fwd with cmds := s1.fwd.cmds ++ opens } }).openSess l peer).ringFailed l).boot9

/-! ## LINK_UP and LINK_DOWN (R17, R382) -/

/-- Sessions train: READY, or start-up past the wait for the chip ID in step 9 (R501, R503). -/
def State.mayTrain (s : State) : Bool :=
  s.ready || (s.live && decide (s.boot.state = stBooting) && decide (9 ≤ s.boot.step.toNat) && !(s.boot.step = 9 && s.boot.stall = 9))

/-- LINK_UP: the die reports a link's PHY trained; a session of FWD_LINKS that is DOWN enters LISTEN unless a DRAIN command removed it. -/
def execLinkUp (l : LinkId) (t : Nat) (s : State) : Host.Outcome State Fault Refusal :=
  let s := s.at t
  let s1 := { s with pins := { s.pins with linkUp := setBit s.pins.linkUp l.val true } }
  if s1.mayTrain && s1.inLinks l && (s1.sess l).auto && decide ((s1.sess l).state = ssDown) && !(s1.pins.bypass && s1.isRing l) then
    .next (s1.openSess l (s1.sess l).lastPeer)
  else .next s1

/-- LINK_DOWN: the die reports a link down: its session goes to DOWN as lost. -/
def execLinkDown (l : LinkId) (t : Nat) (s : State) : Host.Outcome State Fault Refusal :=
  let s := s.at t
  let s1 := { s with pins := { s.pins with linkUp := setBit s.pins.linkUp l.val false } }
  if s1.active && decide ((s1.sess l).state ≠ ssDown) then .next (s1.loseSess s1.env0 l rsLinkDown)
  else if s1.active then .next (s1.updSess l (fun x => { x with reason := rsLinkDown }))
  else .next s1

/-! ## FWD_SESSION (R66, R67, R381) -/

/-- The link of a FWD_SESSION. -/
def sessLink (raw : Slot64) : LinkId := if h : rb raw 8 1 < 24 then ⟨rb raw 8 1, h⟩ else 0

/-- A FWD_SESSION waits for its session. -/
def State.awaitSess (s : State) (l : LinkId) (drain : Bool) (r : CmdRef) : State :=
  let s1 := s.updCmd r (fun c => { c with phase := .running })
  { s1 with fwd := { s1.fwd with cmds := s1.fwd.cmds ++ [(l, drain, r)] } }

/-- FWD_SESSION OPEN: the link is under the rule of R382 again, whatever the OPEN ends with. -/
def execFwdSessionOpen (q : QueueId) (t : Nat) (s : State) : Host.Outcome State Fault Refusal :=
  let s := s.at t
  match s.beginning q 0x32 with
  | none => .next s
  | some c =>
    let r : CmdRef := ⟨q, c.seq⟩
    let l := sessLink c.raw
    let s1 := s.updSess l (fun x => { x with auto := true })
    if rb c.raw 9 1 ≠ 0 then .next s
    else if !bit s.pins.linkUp l.val then .next (s1.finish r stLinkDown)
    else
      let st := (s1.sess l).state
      if st = ssUp then .next (s1.finishOk r)
      else
        let s2 := s1.awaitSess l false r
        if st = ssDown then .next (s2.openSess l (some (BitVec.ofNat 20 (rb c.raw 12 4)))) else .next s2

/-- FWD_SESSION DRAIN: the link leaves the rule of R382 until the next OPEN. -/
def execFwdSessionDrain (q : QueueId) (t : Nat) (s : State) : Host.Outcome State Fault Refusal :=
  let s := s.at t
  match s.beginning q 0x32 with
  | none => .next s
  | some c =>
    let r : CmdRef := ⟨q, c.seq⟩
    let l := sessLink c.raw
    if rb c.raw 9 1 ≠ 1 then .next s
    else
      let s1 := s.updSess l (fun x => { x with auto := false })
      let st := (s1.sess l).state
      if st = ssDown then .next (s1.finishOk r)
      else
        let s2 := s1.awaitSess l true r
        if st = ssUp then .next (s2.startDrain l) else .next s2

/-! ## Training messages (R379, R380) -/

/-- A HELLO is from the expected peer; ring links accept any. -/
def State.helloOk (s : State) (l : LinkId) (chip : W32) : Bool :=
  s.isRing l || (match (s.sess l).expected with | some c => decide (c.setWidth 32 = chip) | none => true)

/-- A message of a link arrives at a Rampor that hears it: in UP the receive timeout starts again, and its EPOCH_LO is looked at (R368, R371, R379). -/
def State.headerSeen (s : State) (l : LinkId) (lo : Byte) : State := s.doIf (s.hears l) (fun s => (s.heard l).epochSeen lo)

/-- HELLO arrives. In ADVERTISE one from another chip than the peer fails a session that is not of a ring link; the peer's own is one it sent again. -/
def execHello (l : LinkId) (lo : Byte) (chip _expected : W32) (t : Nat) (s : State) : Host.Outcome State Fault Refusal :=
  let s := (s.at t).headerSeen l lo
  let st := (s.sess l).state
  if !s.hears l || decide (st = ssDown) then .next s
  else if st = ssAdvertise then
    if s.isRing l || (s.sess l).peer.setWidth 32 = chip then .next s else .next (s.failSess l rsMismatch)
  else if st = ssListen then
    if s.helloOk l chip then .next ((s.updSess l (fun x => { x with peer := chip.setWidth 20 })).enterSess l ssAdvertise)
    else .next (s.failSess l rsMismatch)
  else .next (s.restartSess s.env0 l)

/-- The peer's ADV fits this chip's (R380). -/
def advOk (b : AdvBody) : Bool :=
  decide (b.verMin.toNat ≤ 1) && decide (1 ≤ b.verMax.toNat) && decide (b.slotSize = 64) && decide (b.hitSize = 32) && decide (b.maxBody = 18432)

/-- ADV arrives. -/
def execAdv (l : LinkId) (body : AdvBody) (t : Nat) (s : State) : Host.Outcome State Fault Refusal :=
  let s := (s.at t).headerSeen l (fld body.epoch 0 8)
  if !s.hears l || decide ((s.sess l).state ≠ ssAdvertise) then .next s
  else if advOk body then
      .next ((s.updSess l (fun x => { x with peerEpoch := fld body.epoch 0 8, version := 1, ops := body.ops &&& 0xF })).enterSess l ssAgree)
  else .next (s.failSess l rsIncompatible)

/-- AGREE arrives. -/
def execAgree (l : LinkId) (lo : Byte) (body : AgreeBody) (t : Nat) (s : State) : Host.Outcome State Fault Refusal :=
  let s := (s.at t).headerSeen l lo
  if !s.hears l || decide ((s.sess l).state ≠ ssAgree) then .next s
  else if body = s.ownAgree l then .next (s.enterSess l ssCredit)
  else .next (s.failSess l rsIncompatible)

/-- CREDIT arrives with the initial grants: the session is UP. -/
def execCredit (l : LinkId) (lo : Byte) (grants : Credits) (t : Nat) (s : State) : Host.Outcome State Fault Refusal :=
  let s := (s.at t).headerSeen l lo
  if s.hears l && decide ((s.sess l).state = ssCredit) then .next (s.upSess l grants) else .next s

/-- The session is in a training state. -/
def training (st : BitVec 3) : Bool := decide (st = ssListen) || decide (st = ssAdvertise) || decide (st = ssAgree) || decide (st = ssCredit)

/-- SESSION_TIMEOUT: a training state's message goes out again, or the session fails. -/
def execSessionTimeout (l : LinkId) (t : Nat) (s : State) : Host.Outcome State Fault Refusal :=
  let x := s.sess l
  if s.active && training x.state && s.timerFires (.session l) t then
    let s1 := s.fire (.session l) t
    if x.tries.toNat < ssRetries x.state then
      .next (((s1.updSess l (fun x => { x with tries := x.tries + 1 })).sendState l).timerAdd (.session l) (s1.pins.now + ssWait x.state))
    else .next (s1.failSess l rsTimeout)
  else .next s

/-! ## DRAIN (R379) -/

/-- DRAIN arrives. -/
def execDrain (l : LinkId) (lo : Byte) (t : Nat) (s : State) : Host.Outcome State Fault Refusal :=
  let s := (s.at t).headerSeen l lo
  if s.hears l && decide ((s.sess l).state = ssUp) then .next (s.startDrain l) else .next s

/-- DRAIN_DONE arrives. -/
def execDrainDone (l : LinkId) (lo : Byte) (t : Nat) (s : State) : Host.Outcome State Fault Refusal :=
  let s := (s.at t).headerSeen l lo
  if s.hears l && decide ((s.sess l).state = ssDrain) then .next ((s.updSess l (fun x => { x with doneSeen := true })).drainCheck l) else .next s

/-- FORCED_DRAIN: 10 ms in DRAIN: the session is DOWN and the owners behind it are lost. -/
def execForcedDrain (l : LinkId) (t : Nat) (s : State) : Host.Outcome State Fault Refusal :=
  if s.active && decide ((s.sess l).state = ssDrain) && s.timerFires (.session l) t then
    let s1 := s.fire (.session l) t
    let ks := s1.leashesOn l
    .next ((s1.endDrain l rsForced).loseOwners s1.env0 ks)
  else .next s

/-! ## Keepalives and credit (R377, R379) -/

/-- KEEPALIVE arrives. -/
def execKeepalive (l : LinkId) (lo : Byte) (t : Nat) (s : State) : Host.Outcome State Fault Refusal :=
  let s := (s.at t).headerSeen l lo
  if s.carries l then .next (s.heard l) else .next s

/-- KEEPALIVE_TIMER: 100 µs without sending in UP. -/
def execKeepaliveTimer (l : LinkId) (t : Nat) (s : State) : Host.Outcome State Fault Refusal :=
  if s.active && s.timerFires (.keepTx l) t then
    let s1 := s.fire (.keepTx l) t
    if (s1.sess l).state = ssUp then .next (s1.emit l (s1.hdr 0 0 (s1.sess l).peer) .keepalive) else .next s1
  else .next s

/-- KEEPALIVE_LOST: 500 µs with nothing received in UP. -/
def execKeepaliveLost (l : LinkId) (t : Nat) (s : State) : Host.Outcome State Fault Refusal :=
  if s.active && decide ((s.sess l).state = ssUp) && s.timerFires (.keepRx l) t then
    let s1 := s.fire (.keepRx l) t
    .next (s1.loseSess s1.env0 l rsKeepalive)
  else .next s

/-- CREDIT_RETURN arrives: the pools fill, and what waits for credit is tried again. -/
def execCreditReturn (l : LinkId) (lo : Byte) (c : Credits) (t : Nat) (s : State) : Host.Outcome State Fault Refusal :=
  let s := (s.at t).headerSeen l lo
  if s.carries l then .next (((s.heard l).updSess l (fun x => { x with credit := x.credit.add c })).sendWaiting l) else .next s

/-- CREDIT_RETURN_TIMER: 1 µs after the first credit owed. -/
def execCreditReturnTimer (l : LinkId) (t : Nat) (s : State) : Host.Outcome State Fault Refusal :=
  if s.active && s.timerFires (.creditRet l) t then .next ((s.fire (.creditRet l) t).payBack l) else .next s

/-- A ring session trains from LISTEN again; what it carried is lost. -/
def State.retrain (s : State) (l : LinkId) : State :=
  if !s.isRing l || !bit s.pins.linkUp l.val then s
  else
    let s1 := if (s.sess l).state = ssDown then s else s.dropSess s.env0 l (s.sess l).reason
    s1.openSess l none

/-- BYPASS_REOPEN: 10 ms after a ring session failed in start-up, the bypass opens again and the ring sessions train (R382). -/
def execBypassReopen (t : Nat) (s : State) : Host.Outcome State Fault Refusal :=
  if s.active && s.timerFires .reopen t then
    let s1 := s.fire .reopen t
    .next ((allLinks.foldl State.retrain { s1 with pins := { s1.pins with bypass := false } }).ringDowns.boot9)
  else .next s

end Sys2Proof.Machine
end

