-- ==== Sys2Proof/Machine/Owner.lean ====
section
/-!
DEFINITION. Sys2Proof/Machine/Owner.lean: the owner table (R360 to R368): publication round the ring (R20, R365, R366), reload (R367), and
start-up steps 8 to 11 (R501, R503).
-/

namespace Sys2Proof.Machine

/-! ## Tables (R361, R364) -/

/-- An 8 B entry breaks a rule of R361. -/
def ownBad (w : W64) : Bool := fldN w 40 6 != 0 || (bit w 46 && decide ((fld w 20 20 : ChipId) = fld w 0 20))

/-- The table of some entries, in order: the last listing of a subtree counts. -/
def ownTable (ws : List W64) : List (Nat × OwnEntry) :=
  ws.foldl (fun t w =>
    let sub := fldN w 48 16
    if bit w 47 then assocPut sub ⟨if bit w 46 then some (fld w 20 20) else none, fld w 0 20⟩ t else assocDel sub t) []

/-- 8 B words of a run of bytes; `n` of them. -/
def words64 : Nat → List Byte → List W64
  | 0, _ => []
  | n + 1, l => BitVec.ofNat 64 (leNat (l.take 8)) :: words64 n (l.drop 8)

/-- Subtrees that a table gives a chip. -/
def ownedBy (t : List (Nat × OwnEntry)) (chip : ChipId) : List Nat :=
  (t.filter (fun e => decide (e.2.primary = chip) || decide (e.2.replica = some chip))).map (·.1)

/-- An epoch boundary (R360, R364): the previous-epoch map, the new table with its epoch and no bad entry, the shadows of RK_FWD_CTL. -/
def State.epochBoundary (s : State) (epoch : W32) (ws : List W64) : State :=
  ({ s with fwd := { s.fwd with prevMap := ownedBy s.fwd.table s.boot.chipId, table := ownTable ws, epoch := .all epoch, staging := none, bad := [] } }).applyEpoch

/-! ## Ring messages (R20, R371) -/

/-- Hop count and sequence number of a ring message. -/
def ringHops (h : MsgHdr) : Nat := fldN h.queryId 0 13
def ringSeqOf (h : MsgHdr) : Nat := fldN h.queryId 13 19

/-- The header of a ring message of this chip. -/
def State.ringHdr (s : State) (seq : Nat) (sub : W16) : MsgHdr := s.hdr (BitVec.ofNat 32 (packN [(13, 0), (19, seq)])) sub 0

/-- RING_TIMEOUT in ns; zero means 10 ms. -/
def State.ringWait (s : State) : Nat := 1000000 * (if s.fwd.ringTimeout.force = 0 then 10 else s.fwd.ringTimeout.force.toNat)

/-- A message goes downstream; without a downstream link it goes nowhere. -/
def State.downstream (s : State) (h : MsgHdr) (b : MsgBody) : State :=
  if hl : s.cfg.ringDown.toNat < 24 then s.send ⟨s.cfg.ringDown.toNat, hl⟩ h b else s

/-- A message of this chip starts round the ring. -/
def State.startRing (s : State) (sub : W16) (b : MsgBody) : State :=
  let h := s.ringHdr s.fwd.ringSeq sub
  let n := s.fwd.ringSeq
  let s1 := { s with fwd := { s.fwd with ringSeq := n + 1, ring := s.fwd.ring ++ [({ seq := n, tries := 0, hdr := h, body := b } : RingMsg)] } }
  (s1.downstream h b).timerAdd (.ring n) (s.pins.now + s.ringWait)

/-- Ring messages of this chip are no longer awaited. -/
def State.stopRing (s : State) (f : RingMsg → Bool) : State :=
  let s1 := (s.fwd.ring.filter f).foldl (fun s m => s.timerDel (.ring m.seq)) s
  { s1 with fwd := { s1.fwd with ring := s1.fwd.ring.filter (fun m => !f m) } }

/-- The publication under way ends, and its command completes. -/
def State.endPublish (s : State) (ok : Bool) : State :=
  match s.fwd.publish with
  | none => s
  | some u =>
    let s1 := { (s.stopRing (fun _ => true)) with fwd := { (s.stopRing (fun _ => true)).fwd with publish := none } }
    if ok then s1.finishOk u.cmd else s1.finish u.cmd stItem

/-- The indexed parts of a table, at most 1,024 entries each. -/
def tableParts : Nat → Nat → List W64 → List (Nat × List W64)
  | _, _, [] => []
  | 0, _, _ => []
  | f + 1, i, l => (i, l.take 1024) :: tableParts f (i + 1024) (l.drop 1024)

/-- Entries with their indices. -/
def indexed (i : Nat) : List W64 → List (Nat × W64)
  | [] => []
  | w :: r => (i, w) :: indexed (i + 1) r

/-- OWNER_PUBLISH (R66, R361, R365): the table is read, checked and staged, and its entries are sent round the ring (R78). A second publication of this chip waits
for the first. -/
def execOwnerPublish (q : QueueId) (env : Env) (s : State) : Host.Outcome State Fault Refusal :=
  let s := s.at env.t
  match s.beginning q 0x33 with
  | none => .next s
  | some c =>
    let r : CmdRef := ⟨q, c.seq⟩
    let n := rb c.raw 16 4
    let epoch := BitVec.ofNat 32 (rb c.raw 20 4)
    if s.fwd.publish.isSome then .next s
    else match s.vread (s.qPart q) (rb c.raw 8 8) (8 * n) with
      | .bad x => .next (s.fault env (s.qPart q) 0 x 0 (s.cmdCtx r 6) (.command q c.seq))
      | .ok bs =>
        let ws := words64 n bs
        if ws.any ownBad then .next (s.finish r stBadField)
        else
          let s1 := (s.updCmd r (fun c => { c with phase := .running, done := n }))
          let s2 := { s1 with fwd := { s1.fwd with staging := some ⟨epoch, n, indexed 0 ws⟩, publish := some ⟨r, epoch, n, false⟩ } }
          .next ((tableParts (n + 1) 0 ws).foldl (fun s x => s.startRing (BitVec.ofNat 16 x.1) (.ownerEntries epoch (BitVec.ofNat 32 n) x.2)) s2)

/-- A ring message of this chip has returned: it is retired. True where it was awaited. -/
def State.ringBack (s : State) (h : MsgHdr) : Bool × State :=
  let mine := fun (m : RingMsg) => decide (m.seq % 2 ^ 19 = ringSeqOf h)
  (s.fwd.ring.any mine, s.stopRing mine)

/-- A message of another chip is passed on with its hop count incremented; at 4,096 it is retired as orphaned (R20). -/
def State.passOn (s : State) (h : MsgHdr) (b : MsgBody) : State :=
  s.downstream { h with queryId := BitVec.ofNat 32 (packN [(13, ringHops h + 1), (19, ringSeqOf h)]) } b

/-- The hop count has reached 4,096. -/
def orphan (h : MsgHdr) : Bool := decide (4096 ≤ ringHops h)

def State.countOrphan (s : State) : State := { s with fwd := { s.fwd with orphans := satInc s.fwd.orphans } }

/-- Another chip's entries of a later epoch stop a publication of this chip (R366). -/
def State.supersede (s : State) (epoch : W32) : State :=
  match s.fwd.publish with
  | some u =>
    if u.epoch.toNat < epoch.toNat then ({ s with fwd := { s.fwd with superseded := true } }).endPublish false else s
  | none => s

/-- OWNER_ENTRIES of another chip is staged (R366). -/
def State.stageEntries (s : State) (h : MsgHdr) (epoch total : W32) (es : List W64) : State :=
  let put := fun (g : List (Nat × W64)) => (indexed h.subtree.toNat es).foldl (fun g e => assocPut e.1 e.2 g) g
  match s.fwd.staging with
  | some st =>
    if st.epoch = epoch then { s with fwd := { s.fwd with staging := some { st with got := put st.got } } }
    else if st.epoch.toNat < epoch.toNat && s.fwd.epoch.get.toNat < epoch.toNat then
      let s1 := s.supersede epoch
      { s1 with fwd := { s1.fwd with staging := some ⟨epoch, total.toNat, put []⟩ } }
    else s
  | none =>
    if s.fwd.epoch.get.toNat < epoch.toNat then
      let s1 := s.supersede epoch
      { s1 with fwd := { s1.fwd with staging := some ⟨epoch, total.toNat, put []⟩ } }
    else s

/-- The originator's last OWNER_ENTRIES has returned: it applies its epoch and sends EPOCH_COMMIT (R365 step 3). -/
def State.commitOwn (s : State) : State :=
  match s.fwd.publish with
  | some u =>
    if u.commit || !s.fwd.ring.isEmpty then s
    else
      let ws := match s.fwd.staging with | some st => st.got.map (·.2) | none => []
      let s1 := s.epochBoundary u.epoch ws
      let s2 := { s1 with fwd := { s1.fwd with publish := some { u with commit := true } } }
      s2.startRing 0 (.epochCommit u.epoch (BitVec.ofNat 32 u.total) 1 0)
  | none => s

/-- One ring credit is owed for a message taken. -/
def State.oweRing (s : State) (l : LinkId) : State := s.owe l ⟨0, 0, 0, 0, 1⟩

/-- OWNER_ENTRIES arrives. -/
def execOwnerEntries (l : LinkId) (hdr : MsgHdr) (epoch total : W32) (entries : List W64) (t : Nat) (s : State) : Host.Outcome State Fault Refusal :=
  let s := s.at t
  if !s.carries l then .next s
  else
    let s1 := (s.arrived l hdr).oweRing l
    if hdr.src = s.boot.chipId then
      let r := s1.ringBack hdr
      if r.1 then .next r.2.commitOwn else .next r.2
    else if orphan hdr then .next s1.countOrphan
    else .next ((s1.stageEntries hdr epoch total entries).passOn hdr (.ownerEntries epoch total entries))

/-- A staging copy holds every entry of an epoch. -/
def State.staged (s : State) (epoch : W32) : Option (List W64) :=
  match s.fwd.staging with
  | some st => if st.epoch = epoch && decide (st.got.length = st.total) then some (st.got.map (·.2)) else none
  | none => none

/-- EPOCH_COMMIT of another chip (R366): the state and the counts it is passed on with. -/
def State.commitOther (s : State) (epoch : W32) (applied missed : W16) : State × W16 × W16 :=
  if epoch.toNat ≤ s.fwd.epoch.get.toNat then (s, applied, missed)
  else match s.staged epoch with
    | some ws => (s.epochBoundary epoch ws, applied + 1, missed)
    | none => (({ s with fwd := { s.fwd with epochMissed := true } }).irqBlock 4, applied, missed + 1)

/-- EPOCH_COMMIT arrives. -/
def execEpochCommit (l : LinkId) (hdr : MsgHdr) (epoch total : W32) (applied missed : W16) (t : Nat) (s : State) : Host.Outcome State Fault Refusal :=
  let s := s.at t
  if !s.carries l then .next s
  else
    let s1 := (s.arrived l hdr).oweRing l
    if hdr.src = s.boot.chipId then
      let r := s1.ringBack hdr
      if r.1 then
        .next (({ r.2 with fwd := { r.2.fwd with applied := applied.setWidth 13, missed := missed.setWidth 13 } }).endPublish (decide (missed = 0)))
      else .next r.2
    else if orphan hdr then .next s1.countOrphan
    else
      let r := s1.commitOther epoch applied missed
      .next (r.1.passOn hdr (.epochCommit epoch total r.2.1 r.2.2))

/-- RING_TIMEOUT: a message has not returned: it is sent again, up to RING_RETRY times; then the publication ends with ITEM_STATUS. -/
def execRingTimeout (seq : Nat) (t : Nat) (s : State) : Host.Outcome State Fault Refusal :=
  if s.active && s.timerFires (.ring seq) t then
    let s1 := s.fire (.ring seq) t
    match s1.fwd.ring.find? (fun m => m.seq == seq) with
    | none => .next s1
    | some m =>
      if m.tries < s1.fwd.ringRetry.force.toNat then
        let s2 := { s1 with fwd := { s1.fwd with ring := s1.fwd.ring.map (fun (x : RingMsg) => if x.seq = seq then { x with tries := x.tries + 1 } else x) } }
        .next ((s2.downstream { m.hdr with epochLo := s2.epochLo } m.body).timerAdd (.ring seq) (s2.pins.now + s2.ringWait))
      else .next (s1.endPublish false)
  else .next s

/-! ## Reload (R367) and start-up steps 10 and 11 (R501, R503) -/

/-- Step 10 of start-up. -/
def State.inStep10 (s : State) : Bool := decide (s.boot.state = stBooting) && decide (s.boot.step = 10)

/-- Step 11: READY; vector 8 under BOOT_IRQ (R506). -/
def State.toReady (s : State) : State :=
  let s1 := { (s.bootStep 11) with boot := { (s.bootStep 11).boot with bp := 10000, state := stReady } }
  s1.grantPorts.doIf s1.boot.bootIrq (·.irqBlock 8)

/-- A RELOAD is ignored; at step 10 it stalls start-up. -/
def State.rejectReload (s : State) : State :=
  let s1 := { s with fwd := { s.fwd with reloadReject := true } }
  s1.doIf s1.inStep10 (·.stall 0xB 0)

/-- The reload that was parked, if one was, no longer is. -/
def State.leaveReload (s : State) : State :=
  let s1 := s.unpark (fun w => match w with | .reload => true | _ => false)
  { s1 with fwd := { s1.fwd with reloading := false } }

/-- The FAULT_ID of the fault the reload is parked on. -/
def State.reloadFault (s : State) : W32 :=
  match s.mmu.faults.find? (fun f => f.parked.contains .reload) with | some f => f.id.setWidth 32 | none => 0

/-- The table is read under the host partition's MMU root, checked and applied with NEXT_EPOCH; at step 10 READY follows. A fault parks the
reload. -/
def State.readTable (s : State) (env : Env) : State :=
  let p := s.hostPart
  let n := min s.fwd.ownEntries.toNat 65536
  if s.inStep10 && !(s.part p).mmuEnable.force then s.rejectReload
  else match s.vread p (s.fwd.ownBase.get.toNat * 64) (8 * n) with
    | .bad x =>
      let s1 := ({ s with fwd := { s.fwd with reloading := true } }).fault env p 0 x 0 ⟨8, none, 0, 0, 0, 0, 0, 0⟩ .reload
      s1.doIf s1.inStep10 (fun s => (s.stall 0xC s.reloadFault).setBp (BitVec.ofNat 14 (10000 * ((x.va - s.fwd.ownBase.get.toNat * 64) / 8) / max 1 n)))
    | .ok bs =>
      let ws := words64 n bs
      if ws.any ownBad then s.rejectReload.doIf s.inStep10 (·.setBp 10000)
      else
        let s1 := s.epochBoundary s.fwd.nextEpoch ws
        if s.inStep10 then s1.toReady else s1

/-- A RELOAD of R367; at step 10 it retries the step (R503). -/
def State.reload (s : State) (env : Env) : State :=
  let s1 := if s.inStep10 then s.leaveReload.setBp 0 else s
  if decide (s1.fwd.nextEpoch.toNat ≤ s1.fwd.epoch.get.toNat) || s1.fwd.reloading then s1.rejectReload else s1.readTable env

/-- A write to RK_OWN_CTL (R390). -/
def State.regOwnCtl (s : State) (env : Env) (v mask : W64) : State :=
  let n := fldN v 0 17
  let s1 := if mask &&& 0x1FFFF = 0 then s
    else
      let s1 := { s with fwd := { s.fwd with ownEntries := BitVec.ofNat 17 (min n 65536) } }
      s1.doIf (decide (65536 < n)) (·.clampEntry (regField 0x318 0) 0 1 0 n 65536)
  let s2 := if mask &&& (0xFFFFFFFF <<< 32) = 0 then s1 else { s1 with fwd := { s1.fwd with nextEpoch := fld v 32 32 } }
  s2.doIf (bit v 31 && bit mask 31) (·.reload env)

/-- OWNER_RELOAD: RK_OWN_CTL written with RELOAD 1. -/
def execOwnerReload (req : Requester) (value : W64) (env : Env) (s : State) : Host.Outcome State Fault Refusal :=
  .next ((s.at env.t).globalWrite req (fun _ s => s.regOwnCtl env (setBit value 31 true) (BitVec.allOnes 64)))

/-- OWNER_TABLE_FETCH: step 9 has ended, and step 10 fetches the table as a RELOAD; NEXT_EPOCH 0 skips it. -/
def execOwnerTableFetch (env : Env) (s : State) : Host.Outcome State Fault Refusal :=
  let s := s.at env.t
  if !s.live then .next s
  else
    let s1 := if s.inStep9 && decide (s.boot.stall ≠ 9) && s.step9Done then s.bootStep 10 else s
    if !s1.inStep10 || decide (s1.boot.stall ≠ 0) then .next s1
    else if s1.fwd.nextEpoch = 0 then .next s1.toReady
    else .next (s1.reload env)

/-! ## Steps 8 and 9 (R501, R503) -/

/-- Step 9 has nothing to do. -/
def State.noForwarding (s : State) : Bool := decide (s.cfg.fwdLinks = 0) && decide (s.cfg.ringUp = 0x1F) && decide (s.cfg.ringDown = 0x1F)

/-- Step 9 begins. -/
def State.beginStep9 (s : State) : State :=
  if s.noForwarding then s.bootStep 10
  else if !s.boot.chipWritten then (s.bootStep 9).stall 9 0
  else (s.bootStep 9).step9Open

/-- A write to RK_BOOT_CTL (R506). -/
def State.regBootCtl (s : State) (v mask : W64) : State :=
  let s1 := { s with boot := { s.boot with bootIrq := if bit mask 2 then bit v 2 else s.boot.bootIrq,
                                           resetIrq := if bit mask 1 then bit v 1 else s.boot.resetIrq } }
  s1.doIf (bit v 0 && bit mask 0 && decide (s1.boot.state = stBooting) && decide (s1.boot.step = 8)) (fun s => s.applyShadows.beginStep9)

/-- MMU_GO: RK_BOOT_CTL written with MMU_GO 1: step 8 ends, with every shadow applied. -/
def execMmuGo (req : Requester) (value : W32) (env : Env) (s : State) : Host.Outcome State Fault Refusal :=
  .next ((s.at env.t).globalWrite req (fun _ s => s.regBootCtl ((setBit value 0 true).setWidth 64) (BitVec.allOnes 64)))

/-- A write to RK_CHIP_ID: under the lock it changes CHIP_ID once (R487, R506); a write of the value it holds targets nothing (R529), yet RK_CHIP_ID
has then been written: at the wait of step 9 the bypass opens and the sessions train (R503). -/
def State.regChipId (s : State) (u : Bool) (v : W64) : State :=
  let same := decide (fld v 0 20 = s.boot.chipId)
  if same && !u then s
  else if !same && (!u || s.boot.chipSet) then s.lockViolation
  else
    let s1 := { s with boot := { s.boot with chipId := fld v 0 20, chipSet := s.boot.chipSet || !same, chipWritten := true } }
    if s1.inStep9 && decide (s1.boot.stall = 9) then (s1.stall 0 0).step9Open else s1

/-- CHIP_ID: RK_CHIP_ID written. -/
def execChipId (req : Requester) (value : W32) (t : Nat) (s : State) : Host.Outcome State Fault Refusal :=
  .next ((s.at t).globalWrite req (fun u s => s.regChipId u (value.setWidth 64)))

end Sys2Proof.Machine
end

