-- ==== Sys2Proof/Machine/Faults.lean ====
section
/-!
DEFINITION. Sys2Proof/Machine/Faults.lean: the translation cache and its invalidation (R441, R443, R460), replay and abort of open faults
(R448 to R458), and the fault queue's acknowledgement (R446).
-/

namespace Sys2Proof.Machine

/-! ## TRANSLATION_WALK (R440, R441) -/

/-- The cache takes a translation; where it is full an entry leaves (R441). -/
def State.tlbFill (s : State) (e : TlbEntry) : State :=
  let keep := if 4096 ≤ s.mmu.tlb.length then s.mmu.tlb.drop 1 else s.mmu.tlb
  { s with mmu := { s.mmu with tlb := keep ++ [e] } }

/-- An uncorrectable word in the cache drops the entry of an address (R441). -/
def State.tlbDrop (s : State) (p : PartId) (va : Nat) : State :=
  { s with mmu := { s.mmu with tlb := s.mmu.tlb.filter (fun e => !(decide (e.part = p) && decide (e.va ≤ va) && decide (va < e.va + e.size))) } }

/-- What the table reads of a walk leave (R442): one that fails is the read of the entry of its level, if the walk comes to that; every other
entry on the walk has been read well. -/
def State.walkReads (s : State) (p : PartId) (va : Nat) (check : Check) (level : Nat) : State :=
  let s1 := s.forgetWalk p va
  match (walkPath s.mem va 4 (s.rootTable p)).find? (fun e => decide (e.2 = level)) with
  | some e => if check = .failed then { s1 with mmu := { s1.mmu with badPtes := s1.mmu.badPtes ++ [e] } } else s1
  | none => s1

/-- What a walk yields for an access. -/
def State.walkOut (s : State) (p : PartId) (k : AccKind) (va : Nat) : Acc TlbEntry :=
  match s.walk p k va with
  | .bad x => .bad x
  | .ok e => match leafAllows k e va with
    | .bad x => .bad x
    | .ok _ => .ok e

/-- The access that waits on a walk faults: the items of its line's entry, or the group at its instruction. -/
def State.walkFault (s : State) (env : Env) (p : PartId) (k : AccKind) (va : Nat) (who : WalkFor) (x : Xfault) : State :=
  match who with
  | .none => s
  | .ray n => match s.entry? p (va / 128) with
    | some e =>
      if !e.ready && e.items.any (fun w => w.item == .ray n) then
        (s.setEntry { e with items := [] }).parkItems env p x 0 e.items
      else s
    | none => s
  | .group g => match s.issuing g with
    | some y =>
      if decide (y.part = p) && (k != .exec || decide (va / 8 = y.codeVa / 8)) then s.memFault env g y x else s
    | none => s

/-- A residue error of the MMU's address arithmetic: the access is not issued, and its ray or group ends with CONTAINED (R511). -/
def State.walkLost (s : State) (p : PartId) (who : WalkFor) : State :=
  match who with
  | .none => s
  | .ray n => match s.ray? n with
    | some _ => ((s.errContained p 6 0 (s.kId n).toNat).herdDrop (fun i => i == .ray n)).endRay n 0x17
    | none => s
  | .group g => match s.issuing g with
    | some y => if y.part = p then (s.lostGroup 6 g y).acceptMore 4096 else s
    | none => s

/-- TRANSLATION_WALK: a walk ends: the cache is filled, or its access faults. A read that failed leaves its entry failing for every access until
the entry is read again (R442). -/
def execTranslationWalk (p : PartId) (va : Nat) (kind : AccKind) (who : WalkFor) (check : Check) (level : Fin 5) (env : Env) (s : State) :
    Host.Outcome State Fault Refusal :=
  let s := s.at env.t
  if !s.works p || !(s.part p).mmuEnable.force || decide (2 ^ 57 ≤ va) then .next s
  else
    let s1 := if check = .corrected then (s.tlbDrop p va).errCorrected else s
    if (s1.tlbHit p va).isSome then .next s1
    else if env.hw.addr then .next (s1.walkLost p who)
    else
      let s2 := s1.walkReads p va check level.val
      match s2.walkOut p kind va with
      | .ok e => .next (s2.tlbFill e)
      | .bad x => .next (s2.walkFault env p kind va who x)

/-! ## Invalidation (R443, R460) -/

/-- `n` bytes at `va` meet an invalidation's scope. -/
def invalMeets (i : Inval) (va n : Nat) : Bool :=
  let meets := fun (k : Nat) => decide (va < i.va / k * k + k) && decide (i.va / k * k < va + n)
  match i.scope.toNat with
  | 0 => meets 4096
  | 1 => meets 2097152
  | 2 => meets 1073741824
  | _ => true

/-- A cached translation lies in an invalidation's scope. -/
def invalCovers (i : Inval) (e : TlbEntry) : Bool := invalMeets i e.va e.size

/-- The translations in an invalidation's scope are removed. -/
def State.invalidate (s : State) (p : PartId) (i : Inval) : State :=
  { s with mmu := { s.mmu with tlb := s.mmu.tlb.filter (fun e => !(decide (e.part = p) && invalCovers i e)), badPtes := [] } }

/-- An invalidation with the accesses it waits for: the writes and the line reads outstanding on addresses of its scope. -/
def State.invalWaits (s : State) (p : PartId) (i : Inval) : Inval :=
  { i with
    writes := (s.ret.writes.filter (fun w => decide (w.part = p) && w.spans.any (fun e => invalMeets i e.1 e.2))).map (·.num)
    reads := s.herd.reads.filter (fun r => decide (r.1 = p) && invalMeets i (128 * r.2.1) 128) }

/-- The oldest invalidation of a partition takes effect. -/
def State.beginInval (s : State) (p : PartId) : State :=
  match (s.part p).invals with
  | [] => s
  | i :: r => (s.invalidate p i).updPart p (fun x => { x with invals := s.invalWaits p i :: r })

/-- Every access that an invalidation waits for is acknowledged (R443). -/
def State.invalDone (s : State) (i : Inval) : Bool :=
  !s.ret.writes.any (fun w => i.writes.contains w.num) && !s.herd.reads.any (fun r => i.reads.contains r)

/-- A write to RK_MMU_INVAL: it takes effect, or waits behind the one in progress. -/
def State.regMmuInval (s : State) (p : PartId) (v : W64) : State :=
  let s1 := s.updPart p (fun x => { x with invals := x.invals ++ [⟨fld v 0 2, 4096 * fldN v 12 45, [], []⟩] })
  s1.doIf (s.part p).invals.isEmpty (·.beginInval p)

/-- MMU_INVAL: RK_MMU_INVAL written. -/
def execMmuInval (req : Requester) (p : PartId) (value : W64) (s : State) : Host.Outcome State Fault Refusal :=
  .next (s.pageWrite req p (fun s => s.regMmuInval p value))

/-- INVAL_COMPLETE: the invalidation in progress is done, with every access on a translation it removed acknowledged (R443); the held records are
tried again and the next invalidation takes effect. -/
def execInvalComplete (p : PartId) (env : Env) (s : State) : Host.Outcome State Fault Refusal :=
  let s := s.at env.t
  match (s.part p).invals with
  | [] => .next s
  | i :: r => if s.invalDone i then .next (((s.updPart p (fun x => { x with invals := r })).fqRetry p).beginInval p) else .next s

/-! ## Saved groups -/

/-- A group whose memory fault is replayed issues its instruction again (R454). -/
def Group.refetch (x : Group) : Group := { x with state := .running, wait := .none }

/-! ## Replay (R448, R450) -/

/-- The line an operation reads first. -/
def opLine (b : Bundle) (o : ProbeOp) : Nat :=
  match o.kind with
  | .score => b.desc.leafVa (childIdx o.child) / 128
  | _ => (b.desc.base + 640 * childIdx o.child) / 128

/-- A parked operation of a bundle goes on: a chunk may be gathered again, a subtree's entry be read again, a BOUND or SCORE returns to the
ready lists. -/
def State.replayOp (s : State) (env : Env) (h n : Nat) : State :=
  match s.bundle? h with
  | none => s
  | some b => match b.parkedOps.find? (fun o => o.id == n) with
    | none => s
    | some o =>
      let drop := fun (b : Bundle) => { b with parkedOps := b.parkedOps.filter (fun o => o.id != n) }
      if o.kind = .reduce then s.updBundle h drop
      else if childKind o.child = 2 then
        (s.updBundle h (fun b => { drop b with frontier := b.frontier.map (fun e => if e.busy = some n then { e with busy := none } else e) })).goOn env h
      else (s.updBundle h (fun b => { drop b with inflight := b.inflight ++ [{ o with since := 0 }] })).enterSince (.op { o with since := 0 }) b.part
        (opLine b o) o.since

/-- The query of a Leash is sent again to the same owner, under the same ID and with a new deadline (R376, R455); none where the owner can
no longer be reached. -/
def State.resend (s : State) (id : W32) (k : Nat) (p : PartId) : Option State :=
  match s.leash? k with
  | none => none
  | some x => match s.route (opsOf x.body) x.owner with
    | .link l => some (((s.send l (s.hdr id x.subtree x.owner) x.body).updLeash k (fun y =>
        { y with link := BitVec.ofNat 5 l.val, epoch := s.fwd.epoch.get, live := true, sent := true })).armLease k p)
    | _ => none

/-- A result write is tried again. -/
def State.rewrite (s : State) (env : Env) (f : RetEntry → Bool) : State :=
  match s.ret.entries.find? f with
  | some e => (s.updEntry e.id (fun x => { x with state := .released })).writeEntry env e
  | none => s

/-- Parked work goes back to where it was, unless another fault still holds it. -/
def State.replayWork (s : State) (env : Env) (w : Parked) : State :=
  if s.isParked w then s
  else match w with
  | .enable q =>
    let s1 := s.updQueue q (fun x => { x with enParked := false })
    if (s.queue q).enable then s1.readQdesc env q else s1
  | .ring q => s.updQueue q (fun x => { x with parked := false })
  | .completion q => s.updQueue q (fun x => { x with cplParked := false })
  | .command q n => s.updCmd ⟨q, n⟩ (fun c => { c with parked := false })
  | .intake q n => s.updCmd ⟨q, n⟩ (fun c => { c with parked := false })
  | .ray i => match s.ray? i with | some r => s.enterSince (.ray i) (s.kPart i) r.line r.since | none => s
  | .bundleOp b n => s.replayOp env b n
  | .result e => s.rewrite env (fun x => x.id == e)
  | .bundleResult b => s.rewrite env (fun x => x.bundle == some b)
  | .group c g => match s.group? ⟨c, g⟩ with
    | some x => if x.state = .trapped && x.trap = 1 then s.put ⟨c, g⟩ x.refetch else s
    | none => s
  | .savedGroup b j => { s with setter := { s.setter with saved := s.setter.saved.map (fun (e : GroupRef × Group) =>
      if e.2.block == b && e.2.inBlock == j && decide (e.2.kept = .trapped) && decide (e.2.trap = 1) then
        (e.1, { e.2.refetch with state := .saved, kept := .running }) else e) } }
  | .remoteRay i => match s.ray? i with
    | some r => match r.leash with
      | some k => match s.resend (s.kId i) k (s.kPart i) with
        | some s1 => s1.updRay i (fun r => { r with rstate := .forwarded })
        | none => s.reissueRay i
      | none => s
    | none => s
  | .remoteBundle h k => match s.bundle? h with
    | some b => match s.resend (s.kId h) k b.part with
      | some s1 => s1
      | none => s.reissueBundle env h [k]
    | none => s
  | .forward i => match s.ray? i with
    | some _ => s.updRay i (fun r => { r with rstate := .active })
    | none => s
  | .reload => (s.leaveReload.doIf s.inStep10 (·.stall 0 0)).readTable env
  | .trapNote _ _ _ => s

/-- Parked work issued again, and traced, unless another fault still holds it (R408, R448). -/
def State.againWork (s : State) (env : Env) (p : PartId) (c : FaultCtx) (va : Nat) (w : Parked) : State :=
  (s.doIf (!s.isParked w) (·.traceReplay p c va w)).replayWork env w

/-- A trap whose record waited on the overflow list opens its fault, and with AUTO_END ends its group, if that is still TRAPPED; other parked
work goes back (R303, R304, R444). -/
def State.reissueWork (s : State) (env : Env) (p : PartId) (o : Over) : State :=
  match o.work with
  | .trapNote code b j =>
    if 64 ≤ (s.openOf p).length then s.updPart p (fun y => { y with overflow := y.overflow ++ [o] })
    else
      let stuck := fun (x : Group) => x.block == b && x.inBlock == j && decide (x.trap = code)
      match s.residents.find? (fun e => stuck e.2 && decide (e.2.state = .trapped)) with
      | some (g, x) => (s.openFault env p 1 ⟨code.toNat, 0, 0⟩ 0 o.ctx (.group g.core g.slot)).doIf (s.part p).autoEnd (·.endGroup g x)
      | none => match s.setter.saved.find? (fun e => stuck e.2 && decide (e.2.kept = .trapped)) with
        | some e => (s.openFault env p 1 ⟨code.toNat, 0, 0⟩ 0 o.ctx (.savedGroup b j)).doIf (s.part p).autoEnd (·.endSaved e 0x15)
        | none => s.openFault env p 1 ⟨code.toNat, 0, 0⟩ 0 o.ctx o.work
  | w => s.againWork env p o.ctx o.va w

/-- A fault closes. -/
def State.closeFault (s : State) (f : OpenFault) : State := { s with mmu := { s.mmu with faults := s.mmu.faults.filter (fun x => decide (x.id ≠ f.id)) } }

/-- One fault replayed: the page's translation is invalidated, the fault closes, its work goes back (R448). -/
def State.replayFault (s : State) (env : Env) (f : OpenFault) : State :=
  let s1 := s.doIf (f.kind == 0) (fun s => s.invalidate f.part ⟨0, f.va.toNat, [], []⟩)
  f.parked.foldl (fun s w => s.againWork env f.part f.ctx f.va.toNat w) (s1.closeFault f)

/-! ## Abort (R449, R450) -/

/-- A BUILD command that has begun to write its hierarchy is aborted (R121, R142): BUILD_REFIT and BUILD_INSERT leave it STALE, the others
empty; UPDATE_SEQ goes up, and the completion waits for the writes (R15). -/
def State.abortBuild (s : State) (p : PartId) (r : CmdRef) (c : Cmd) : State :=
  if isBuild (opOf c.raw) && c.offset == 1 then
    let dst := c.intakeAt
    match s.vdesc p dst with
    | .bad _ => s
    | .ok d =>
      let flags := d.byte 2 1 / 2 * 2
      let ws := if opOf c.raw == 0x12 || opOf c.raw == 0x13 then [wr (dst + 2) 1 (flags + 1), seqWrite dst d]
        else [wr (dst + 4) 4 0xFFFFFFFF, wr (dst + 2) 1 flags, seqWrite dst d]
      (s.buildWrite r ws).s
  else s

/-- A parked command ends with FAULT_ABORT. -/
def State.abortCmd (s : State) (env : Env) (q : QueueId) (n : Nat) : State :=
  let r : CmdRef := ⟨q, n⟩
  match s.cmd? r with
  | none => s
  | some c =>
    let s1 := (s.updCmd r (fun c => { c with parked := false })).abortBuild (s.qPart q) r c
    if isSplat (opOf c.raw) && (s.pass? r).isSome then s1.endSplat r stFaultAbort
    else (s1.doIf (opOf c.raw == 0x41 && c.phase == .running) (·.waitEnd q)).skipRest env (s.qPart q) r |>.finish r stFaultAbort |>.delivLast

/-- The command or entry that could not be fetched completes with FAULT_ABORT, and fetching goes on behind it. -/
def State.abortRing (s : State) (q : QueueId) : State :=
  s.updQueue q (fun (x : Queue) =>
    match x.cur with
    | some f =>
      let x : Queue := { x with parked := false, fetched := x.fetched ++ [(⟨f.entry, f.next, 0, stFaultAbort⟩ : Fetched)] }
      if f.count ≤ f.next + 1 then { x with cur := none, head := nextPos x } else { x with cur := some { f with next := f.next + 1 } }
    | none => { x with parked := false, fetched := x.fetched ++ [(⟨x.head, 0xFFFF, 0, stFaultAbort⟩ : Fetched)], head := nextPos x })

/-- Commands at the head of a queue that can complete do so without a record. -/
def State.dropRecords (s : State) (q : QueueId) : List Cmd → State
  | [] => s
  | c :: r => if s.canComplete q c then ((s.onComplete q c).retire q c false).dropRecords q r else s

/-- The records whose writes were parked are lost, while their commands complete, and the queue enters ERR_STOP. -/
def State.abortCompletion (s : State) (q : QueueId) : State :=
  (s.updQueue q (fun x => { x with cplParked := false, errStop := true })).dropRecords q (s.queue q).cmds

/-- A result that could not be written is given up; its command completes with FAULT_ABORT. -/
def State.abortResult (s : State) (f : RetEntry → Bool) : State :=
  match s.ret.entries.find? f with
  | some e => (s.failCmd e.cmd stFaultAbort).freeEntry e.id
  | none => s

/-- A bundle ends with FAULT_ABORT once its other operations have drained. -/
def State.abortBundle (s : State) (env : Env) (h : Nat) (drop : Bundle → Bundle) : State :=
  (s.updBundle h (fun b => { drop b with status := if b.status = 0 then 2 else b.status })).endWalk env h

/-- The chip whose route byte lies at an address. -/
def State.routeChip (s : State) (va : Nat) : ChipId := BitVec.ofNat 20 (va - 2 ^ 20 * s.fwd.routeBase.force.toNat)

/-- Parked work of an aborted fault ends (R450). -/
def State.abortWork (s : State) (env : Env) (f : OpenFault) (w : Parked) : State :=
  let s := s.unpark (fun x => decide (x = w))
  match w with
  | .enable q => s.updQueue q (fun x => { x with enParked := false, badDesc := true })
  | .ring q => s.abortRing q
  | .completion q => s.abortCompletion q
  | .command q n => s.abortCmd env q n
  | .intake q n => match s.cmd? ⟨q, n⟩ with
    | some _ =>
      let s1 := s.updCmd ⟨q, n⟩ (fun c => { c with parked := false })
      s1.endIntake env (s.qPart q) ⟨q, n⟩ stFaultAbort
    | none => s
  | .ray i => s.endRay i 0x16
  | .bundleOp b n => s.abortBundle env b (fun b => { b with parkedOps := b.parkedOps.filter (fun o => o.id != n) })
  | .result e => s.abortResult (fun x => x.id == e)
  | .bundleResult b => s.abortResult (fun x => x.bundle == some b)
  | .group c g => match s.group? ⟨c, g⟩ with | some x => s.endGroup ⟨c, g⟩ x | none => s
  | .savedGroup b j => match s.savedGroup? b j with | some e => s.endSaved e 0x15 | none => s
  | .remoteRay i => s.endRay i 0x16
  | .remoteBundle h k => (s.freeLeash h k).abortBundle env h id
  | .forward i => (match s.ray? i with
    | some _ => s.updRay i (fun r => { r with rstate := .active })
    | none => s).forwardSlot env i (some (s.routeChip f.va.toNat))
  | .reload => s.leaveReload.rejectReload
  | .trapNote _ _ _ => s

/-- One fault aborted: it closes, and its work ends. -/
def State.abortFault (s : State) (env : Env) (f : OpenFault) : State := f.parked.foldl (fun s w => s.abortWork env f w) (s.closeFault f)

/-! ## RK_FAULT_REPLAY (R448, R449, R463) -/

/-- The overflow list is issued again (R444). -/
def State.reissueOverflow (s : State) (env : Env) (p : PartId) : State :=
  let l := (s.part p).overflow
  l.foldl (fun s o => s.reissueWork env p o) (s.updPart p (fun x => { x with overflow := [] }))

/-- A write to RK_FAULT_REPLAY that names nothing to act on. -/
def State.badReplay (s : State) (p : PartId) : State := s.updPart p (fun x => { x with badReplay := true })

/-- The open fault of a partition with a number. -/
def State.faultOf (s : State) (p : PartId) (id : BitVec 10) : Option OpenFault :=
  s.mmu.faults.find? (fun f => decide (f.part = p) && decide (f.id = id))

/-- One open fault replayed or aborted, with all that is parked on it by then. -/
def State.actFault (s : State) (env : Env) (p : PartId) (abort : Bool) (id : BitVec 10) : State :=
  match s.faultOf p id with
  | some f => if abort then s.abortFault env f else s.replayFault env f
  | none => s

/-- A write to RK_FAULT_REPLAY. -/
def State.regFaultReplay (s : State) (env : Env) (p : PartId) (v : W32) : State :=
  if (s.part p).partError then s.badReplay p
  else if bit v 31 then (((s.openOf p).map (·.id)).foldl (fun s id => s.actFault env p (bit v 30) id) s).reissueOverflow env p
  else match s.faultOf p (fld v 0 10) with
    | none => s.badReplay p
    | some f => if f.kind = 3 then s.badReplay p else (s.actFault env p (bit v 30) f.id).reissueOverflow env p

/-- FAULT_REPLAY: RK_FAULT_REPLAY written with ABORT 0. -/
def execFaultReplay (req : Requester) (p : PartId) (value : W32) (env : Env) (s : State) : Host.Outcome State Fault Refusal :=
  .next ((s.at env.t).pageWrite req p (fun s => s.regFaultReplay env p (setBit value 30 false)))

/-- FAULT_ABORT: RK_FAULT_REPLAY written with ABORT 1. -/
def execFaultAbort (req : Requester) (p : PartId) (value : W32) (env : Env) (s : State) : Host.Outcome State Fault Refusal :=
  .next ((s.at env.t).pageWrite req p (fun s => s.regFaultReplay env p (setBit value 30 true)))

/-! ## RK_FQ_ACK (R446, R462) -/

/-- A write to RK_FQ_ACK: FQ_HEAD moves, and held records are written while there is room. -/
def State.regFqAck (s : State) (p : PartId) (v mask : W32) : State :=
  (s.updPart p (fun x => { x with fqHead := (x.fqHead &&& ~~~(fld mask 0 17)) ||| (fld v 0 17 &&& fld mask 0 17) })).fqRetry p

/-- FQ_ACK: RK_FQ_ACK written. -/
def execFqAck (req : Requester) (p : PartId) (value : W32) (env : Env) (s : State) : Host.Outcome State Fault Refusal :=
  .next ((s.at env.t).pageWrite req p (fun s => s.regFqAck p value (BitVec.allOnes 32)))

end Sys2Proof.Machine
end

