-- ==== Sys2Proof/Machine/Reset.lean ====
section
/-!
DEFINITION. Sys2Proof/Machine/Reset.lean: the reset of a partition (R118, R232, R305, R387, R464, R518 to R522).
-/

namespace Sys2Proof.Machine

/-! ## Steps 1 to 3 (R519) -/

/-- A call that is dropped gets STATUS 2; rays and fragments of a dropped group are discarded with their commands (R305). -/
def State.dropResults (s : State) (x : Group) : State :=
  match x.work with
  | .call _ _ _ _ => s.failResults x 0x17
  | _ => s

/-- Every group of a partition ends without a record: resident, queued and saved ones, and calls that wait for their block (R305). -/
def State.dropGroups (s : State) (p : PartId) : State :=
  let s1 := (List.finRange 16).foldl (fun s c => (List.finRange 16).foldl (fun s k =>
    match s.group? ⟨c, k⟩ with
    | some x => if x.part = p then ((s.leaveSlot ⟨c, k⟩ x).dropResults x).flushInvs p else s
    | none => s) s) s
  let s2 := (s1.setter.saved.filter (fun e => decide (e.2.part = p))).foldl (fun s e =>
    ((({ s with setter := { s.setter with saved := s.setter.saved.filter (fun x => decide (x ≠ e)) } }).loosen e.2.block e.2.inBlock).blockEnded e.2.block).dropResults e.2) s1
  let s3 := (List.finRange 16).foldl (fun s c =>
    let co := s.core c
    (co.queue.filter (fun w => decide (w.part = p))).foldl (fun s w => w.groups.foldl State.dropResults s)
      (s.setCore c { co with queue := co.queue.filter (fun w => decide (w.part ≠ p)) })) s2
  let mine := fun (e : PortId × Prog × Slot64 × List (BitVec 128)) => s.portOwner e.1 == some p
  let s4 := { s3 with setter := { s3.setter with
    calls := s3.setter.calls.filter (fun e => !mine e), recent := s3.setter.recent.filter (fun e => decide (e.1.1 ≠ p)) } }
  (s3.setter.calls.filter mine).foldl (fun s e => s.reply p e.2.2.1 2 (List.replicate 32 0)) s4

/-- Ready operations, packs and invocations of a partition are dropped, with the timers of its packs. -/
def State.dropHerd (s : State) (p : PartId) : State :=
  let other := fun (w : HWait) => decide (w.part ≠ p)
  ({ s with
    herd := { s.herd with store := s.herd.store.filter (fun e => decide (e.part ≠ p)), unmatched := s.herd.unmatched.filter other,
                          invokes := s.herd.invokes.filter (fun i => decide (i.part ≠ p)) }
    arr := { s.arr with tus := s.arr.tus.map (fun (t : Tu) => { t with queue := t.queue.filter (fun k => decide (k.part ≠ p)) }) } }).timerDelIf
      (fun t => match t with | .packWait q _ => decide (q = p) | .groupWait q _ _ _ => decide (q = p) | _ => false)

/-- Passes, tile slots, bin entries and parking of a partition are discarded, and its summaries (R351). -/
def State.dropVis (s : State) (p : PartId) : State :=
  let used := ((s.vis.passes.filter (fun v => decide (v.part = p))).map (·.granted)).sum
  let keep := fun (k : Option Tile) => match k with | some t => if t.part = p then none else some t | none => none
  ((({ s with vis := { s.vis with
      passes := s.vis.passes.filter (fun v => decide (v.part ≠ p)), parkUsed := s.vis.parkUsed - used
      parkWait := s.vis.parkWait.filter (fun w => decide (w.part ≠ p))
      units := s.vis.units.map (fun (u : Vector (Option Tile) 4) => u.map keep) } } : State)).dropSummary p).updPart p (fun x => { x with lateOf := [], reproj := none })

/-- CANCEL is sent for each live Leash of a partition; no result or deadline of it counts any more (R387). -/
def State.cancelLeashes (s : State) (p : PartId) : State :=
  s.kennel.slots.foldl (fun s e => match e.2.data with
    | .leash k => if decide (e.2.part = p) && k.live then
        ((s.sendCancel k).timerDel (.lease e.1)).updLeash e.1 (fun y => { y with live := false }) else s
    | _ => s) s

/-- A partition reset begins, or joins the one under way (R518). -/
def State.beginReset (s : State) (p : PartId) (flr : Bool) : State :=
  if (s.part p).resetting then s.updPart p (fun x => { x with flr := x.flr || flr })
  else
    let s1 := (s.updPart p (fun x => { x with resetting := true, flr := flr })).deadlineIdle p
    let s2 := (((s1.doIf (decide (p = s.hostPart)) (·.abortForeign)).dropHerd p).dropGroups p).dropVis p
    s2.cancelLeashes p

/-- A write to RK_PART_RESET (R522). -/
def State.regPartReset (s : State) (p : PartId) (v : W32) : State := s.doIf (bit v 0) (·.beginReset p false)

/-- PARTITION_RESET: an FLR from the die, or a write of 1 to RK_PART_RESET.GO. In ERROR it is ignored (R513). -/
def execPartitionReset (req : Requester) (flr : Bool) (p : PartId) (s : State) : Host.Outcome State Fault Refusal :=
  if flr then .next (if s.live && !s.errored then s.beginReset p true else s)
  else .next (s.busWrite req (some p) false true (fun _ s => s.regPartReset p 1))

/-! ## Step 5 (R118, R232, R464) -/

/-- A slot's visit word is cleared (R172). -/
def State.clearVisit (s : State) (i : Nat) : State := { s with kennel := { s.kennel with visits := assocDel i s.kennel.visits } }

/-- The partition's Kennel slots are discarded; the generation of each ray and header slot is raised. -/
def State.discardSlots (s : State) (p : PartId) : State :=
  s.kennel.slots.foldl (fun s e =>
    if e.2.foreign || decide (e.2.part ≠ p) then s
    else match e.2.data with
      | .ray _ => ((s.kFree e.1).genUp e.1).clearVisit e.1
      | .head _ => (s.kFree e.1).genUp e.1
      | _ => s.kFree e.1) s

/-- Its bundles with their heaps, walk blocks and triples, the Retriever's entries, flows and deliveries; its ports have their initial
credit again (R519 step 6). -/
def State.discardResults (s : State) (p : PartId) : State :=
  let gone := (s.strain.bundles.filter (fun b => decide (b.part = p) && b.foreign.isNone)).map (·.head)
  let ids := (s.ret.entries.filter (fun e => decide (e.part = p))).map (·.id)
  { s with
    strain := { s.strain with bundles := s.strain.bundles.filter (fun b => !gone.contains b.head) }
    arr := { s.arr with tus := s.arr.tus.map (fun (t : Tu) => { t with buffer := t.buffer.filter (fun h => !gone.contains h) }) }
    ret := { s.ret with entries := s.ret.entries.filter (fun e => decide (e.part ≠ p)), flows := s.ret.flows.filter (fun f => decide (f.part ≠ p)),
                        delivs := s.ret.delivs.filter (fun d => !d.recs.any ids.contains),
                        spent := s.ret.spent.filter (fun e => s.portOwner e.1.1 != some p) } }

/-- A timer serves a partition. -/
def State.timerOf (s : State) (p : PartId) (t : Timer) : Bool :=
  let slot := fun i => match s.kGet i with | some x => !x.foreign && decide (x.part = p) | none => false
  let queue := fun (q : QueueId) => s.queueOwner q == some p
  match t with
  | .packWait q _ => decide (q = p)
  | .groupWait q _ _ _ => decide (q = p)
  | .delivWait port _ => s.portOwner port == some p
  | .lease k => slot k
  | .spill i => slot i
  | .preempt q => decide (q = p)
  | .decision q => decide (q = p)
  | .waitValue q => queue q
  | .waitPoll q => queue q
  | .heel q => queue q
  | .progress q => queue q
  | .session _ => false
  | .keepTx _ => false
  | .keepRx _ => false
  | .creditRet _ => false
  | .ring _ => false
  | .reopen => false
  | .leaseExt _ => false
  | .blkDrain => false
  | .power => false

/-- Open faults close without a record and the partition's translations go; what other partitions had parked there is tried again, and a
parked reload ends (R464). -/
def State.closeFaults (s : State) (env : Env) (p : PartId) : State :=
  let work := (s.openOf p).flatMap (·.parked) ++ (s.part p).overflow.map (·.work)
  let s1 := { s with mmu := { s.mmu with tlb := s.mmu.tlb.filter (fun e => decide (e.part ≠ p)), faults := s.mmu.faults.filter (fun f => decide (f.part ≠ p)) } }
  let s2 := s1.updPart p (fun x => { x with overflow := [] })
  work.foldl (fun s w => match w with
    | .forward i => if (s.kGet i).isSome && decide (s.kPart i ≠ p) then s.replayWork env w else s
    | .reload => s.leaveReload.rejectReload
    | _ => s) s2

/-! ## Step 6 (R520) -/

/-- The partition's queues are empty and hold their reset values. -/
def State.resetQueues (s : State) (p : PartId) : State :=
  let mine := s.queuesOf p
  let s1 := mine.foldl (fun s q => s.setQueue q { Queue.reset with seq := (s.queue q).seq }) s
  { s1 with fwd := { s1.fwd with cmds := s1.fwd.cmds.filter (fun w => !mine.contains w.2.2.q) } }

/-- The partition's page holds its reset values, but for RK_PERR and the default overflow modes; its binding slots are empty. -/
def State.resetPage (s : State) (p : PartId) : State :=
  let x := s.part p
  let b := s.cfg.fpDef[p]
  s.setPart p { Part.reset with contCnt := x.contCnt, resetDone := true, ovfTraverse := .both (fld b 0 2), ovfSplat := .both (fld b 2 2) }

/-- Every request for the partition's work has been acknowledged (step 4). -/
def State.settled (s : State) (p : PartId) : Bool :=
  !(s.herd.reads.any (fun r => decide (r.1 = p))) && !(s.ret.writes.any (fun w => decide (w.part = p)))

/-- PARTITION_RESET_DONE: steps 5 and 6; RESET_DONE is set, vector 8 raised under RESET_IRQ, and an FLR's completion reported to the die. -/
def execPartitionResetDone (p : PartId) (s : State) : Host.Outcome State Fault Refusal :=
  if !s.live || s.errored || !(s.part p).resetting || !s.settled p then .next s
  else
    let flr := (s.part p).flr
    let s1 := (s.timerDelIf (s.timerOf p)).discardResults p
    let s2 := ((s1.discardSlots p).closeFaults s.env0 p).resetQueues p
    let s3 := ((s2.resetPage p).cachesClean p).doIf s.boot.resetIrq (·.irqBlock 8)
    let s4 := ((s.traceUnpin s3).drainAll).grantPorts
    .next (if flr then { s4 with pins := { s4.pins with flrDone := s4.pins.flrDone ++ [p] } } else s4)

end Sys2Proof.Machine
end

