-- ==== Sys2Proof/Machine/Csr.lean ====
section
/-!
DEFINITION. Sys2Proof/Machine/Csr.lean: writes to the aperture's registers (R21, R477, R478, R486 to R490, R527, R529) and the row CSR_WRITE. A
write carries the 64-bit word it lies in: the value and a mask of the bits written.
-/

namespace Sys2Proof.Machine

/-- A field as a write leaves it. -/
def mixF {n : Nat} (v m : W64) (lo : Nat) (old : BitVec n) : BitVec n := (old &&& ~~~fld m lo n) ||| (fld v lo n &&& fld m lo n)

/-- A one-bit field as a write leaves it. -/
def mixB (v m : W64) (i : Nat) (old : Bool) : Bool := if bit m i then bit v i else old

/-- A shadow as a write leaves it. -/
def mixSh {n : Nat} (v m : W64) (lo : Nat) (x : Sh (BitVec n)) : Sh (BitVec n) := ⟨mixF v m lo x.shadow, x.force⟩

/-- The write covers the lower, the upper half of its word. -/
def lowHalf (m : W64) : Bool := decide (m &&& 0xFFFFFFFF ≠ 0)
def highHalf (m : W64) : Bool := decide (m >>> 32 ≠ 0)

/-! ## Global registers -/

/-- RK_PWR_CTL: CAP_W is held to 80 to 320, zero stored as 280 (R31, R527). -/
def State.regPwrCtl (s : State) (v : W64) : State :=
  let c := fldN v 16 9
  let a := if c = 0 then 280 else min 320 (max 80 c)
  let s1 := { s with pwr := { s.pwr with capW := BitVec.ofNat 9 a, mode := ⟨fld v 0 2, s.pwr.mode.force⟩ } }
  s1.doIf (decide (c ≠ 0) && decide (a ≠ c)) (·.clampEntry (regField 0x200 16) 0 1 0 c a)

/-- RK_HERD_CTL (R166). -/
def State.regHerdCtl (s : State) (v : W64) : State :=
  let r := s.clampWrite 0x218 16 0 (fldN v 16 6) 32 32
  { r.2 with herd := { r.2.herd with
      idleIssue := ⟨bit v 23, s.herd.idleIssue.force⟩, packMax := ⟨BitVec.ofNat 6 r.1, s.herd.packMax.force⟩
      packWait := ⟨fld v 0 16, s.herd.packWait.force⟩ } }

/-- RK_CFG_RPT: SIZE above 12 is stored as 12 (R496). -/
def State.regCfgRpt (s : State) (v m : W64) : State :=
  let n := fldN v 0 4
  let s1 := { s with cfg := { s.cfg with
    rptAddr := mixF v m 12 s.cfg.rptAddr, rptSize := if lowHalf m then BitVec.ofNat 4 (min n 12) else s.cfg.rptSize } }
  s1.doIf (lowHalf m && decide (12 < n)) (·.clampEntry (regField 0x50 0) 0 1 0 n 12)

/-- RK_FWD_CTL: RING_TIMEOUT zero is stored as 10 (R388, R527). -/
def State.regFwdCtl (s : State) (v m : W64) : State :=
  let t : Byte := fld v 8 8
  { s with fwd := { s.fwd with
      routeBase := mixSh v m 20 s.fwd.routeBase, hostPart := mixSh v m 16 s.fwd.hostPart, ringRetry := mixSh v m 4 s.fwd.ringRetry
      hostNew := if lowHalf m then decide (fld v 16 4 ≠ s.fwd.hostPart.force) else s.fwd.hostNew
      ringTimeout := if lowHalf m then ⟨if t = 0 then 10 else t, s.fwd.ringTimeout.force⟩ else s.fwd.ringTimeout } }

/-- RK_MC_ADDR: key-locked (R509, R529). -/
def State.regMcAddr (s : State) (u : Bool) (v m : W64) : State :=
  let a := mixF v m 12 s.boot.mcAddr
  s.locked u (decide (a ≠ s.boot.mcAddr)) (fun s => { s with boot := { s.boot with mcAddr := a } })

/-- RK_UNLOCK: a write of KEY; a write of the other half alone leaves the lock as it was (R486, R491). -/
def State.regUnlockWord (s : State) (u : Bool) (v m : W64) : State :=
  if highHalf m then s.regUnlock (fld v 32 32) else { s with csr := { s.csr with unlocked := .all u } }

/-- RK_DBG_CTL: WRITE_EN is key-locked (R526, R529). -/
def State.regDbgCtl (s : State) (u : Bool) (v : W64) : State :=
  s.locked u (decide (bit v 0 ≠ s.dbg.writeEn)) (fun s => { s with dbg := { s.dbg with writeEn := bit v 0 } })

/-- The configuration window, not while a load runs (R496). -/
def State.regCfgWin (s : State) (off : Nat) (v m : W64) : State :=
  if s.cfg.busy then s
  else
    let old := BitVec.ofNat 64 (leNat (s.cfg.window.read off 8))
    { s with cfg := { s.cfg with window := s.cfg.window.write off (leBytes 8 (mixF v m 0 old).toNat) } }

/-- A write of the global block's words that are 32-bit registers, all of them covered by its lower half. -/
def State.globalLow (s : State) (u : Bool) (base : Nat) (v m : W64) : State :=
  match base with
  | 0x18 => { s with csr := { s.csr with lvIrq := bit v 0, voteIrq := bit v 1, cfgIrq := bit v 2 } }
  | 0x20 => { s with csr := { s.csr with hold := bit v 0 } }
  | 0x200 => s.regPwrCtl v
  | 0x218 => s.regHerdCtl v
  | 0x228 => s.regSchedCtl v m
  | 0x240 => s.regCaddySel v m
  | 0x600 => s.regArrCtl v m
  | 0x610 => s.regTuFence u (v &&& 0xFFFFFFFF)
  | 0x1008 => s.regBootCtl v m
  | 0x1010 => s.regChipId u v
  | 0x1028 => s.regMcCtl u v
  | 0x1050 => { s with err := { s.err with contIrq := bit v 0, partIrq := bit v 1, blockIrq := bit v 2 } }
  | 0x1060 => s.regUnitSvc u (v &&& 0xFFFFFFFF)
  | 0x1080 => s.regBlkReset u v
  | 0x10008 => s.regDbgCtl u v
  | _ => s

/-- What a re-read of unchanged fuses finds (R506). -/
def State.fusesAsRead (s : State) : ReleaseInfo :=
  ⟨s.pins.portMap, s.pins.linkUp, s.pins.now, s.boot.fuses, true, 0, s.boot.spareFused, Vector.replicate 8 0, s.boot.sramRepairs, none, 0, 0, 0,
    Vector.replicate 8 0, s.pins.portWords⟩

/-- A write of a word of the global block. -/
def State.globalPut (s : State) (env : Env) (u : Bool) (base : Nat) (v m : W64) : State :=
  if 0xC00 ≤ base && base < 0xE00 then
    s.regPtab u (BitVec.ofNat 4 ((base - 0xC00) / 32)).toFin (BitVec.ofNat 2 ((base - 0xC00) / 8)).toFin v m
  else if 0x2000 ≤ base && base < 0x3000 then s.regCfgWin (base - 0x2000) v m
  else if 0x10040 ≤ base && base < 0x10080 then
    let at_ := 8 * (base - 0x10040)
    let w := mixF v m 0 (fld s.dbg.data at_ 64 : W64)
    { s with dbg := { s.dbg with data := (s.dbg.data &&& ~~~((0xFFFFFFFFFFFFFFFF : Slot64) <<< at_)) ||| (w.setWidth 512 <<< at_) } }
  else match base with
    | 0x8 => s.regUnlockWord u v m
    | 0x40 => s.regCfgCtl u v m
    | 0x48 => { s with cfg := { s.cfg with src := mixF v m 12 s.cfg.src } }
    | 0x50 => s.regCfgRpt v m
    | 0x300 => s.regFwdCtl v m
    | 0x310 => { s with fwd := { s.fwd with ownBase := .all (mixF v m 6 s.fwd.ownBase.get) } }
    | 0x318 => s.regOwnCtl env v m
    | 0x500 => { s with trace := { s.trace with base := mixF v m 12 s.trace.base, size := mixF v m 0 s.trace.size } }
    | 0x508 => s.regTraceCtl v m
    | 0x10000 => s.doIf (lowHalf m) (·.regDbgCmd (fld v 0 32) env.word)
    | 0x1018 => s.regFuse u (v &&& m) s.fusesAsRead
    | 0x1020 => s.regMcAddr u v m
    | _ => if lowHalf m then s.globalLow u base v m else s

/-! ## Partition pages -/

/-- A default overflow mode as stored (R260): an undefined encoding becomes 0b01. -/
def State.ovfWrite (s : State) (p : PartId) (lo : Nat) (v : BitVec 2) : BitVec 2 × State :=
  if v = 0 || v = 3 then (1, s.clampEntry (regField (pageOff p 0x40) lo) 0 1 p.val v.toNat 1) else (v, s)

/-- RK_FP_CTL (R260); OVF_SPLAT of an absent engine is not written. -/
def State.regFpCtl (s : State) (p : PartId) (v : W64) : State :=
  let a := s.ovfWrite p 0 (fld v 0 2)
  let b := if s.hasSplat then a.2.ovfWrite p 2 (fld v 2 2) else ((s.part p).ovfSplat.shadow, a.2)
  b.2.updPart p (fun x => { x with
    fpVec := fld v 12 4, ovfIrq := bit v 9, invIrq := bit v 8, ovfSplat := ⟨b.1, x.ovfSplat.force⟩, ovfTraverse := ⟨a.1, x.ovfTraverse.force⟩ })

/-- RK_FQ_BASE: SIZE above 10 is stored as 10 (R461). -/
def State.regFqBase (s : State) (p : PartId) (v m : W64) : State :=
  let n := fldN v 0 4
  let s1 := s.updPart p (fun x => { x with
    fqBase := mixSh v m 12 x.fqBase, fqVec := mixF v m 8 x.fqVec
    fqSize := if lowHalf m then ⟨BitVec.ofNat 4 (min n 10), x.fqSize.force⟩ else x.fqSize
    sizeNew := if lowHalf m then decide (BitVec.ofNat 4 (min n 10) ≠ x.fqSize.force) else x.sizeNew })
  s1.doIf (lowHalf m && decide (10 < n)) (·.clampEntry (regField (pageOff p 0x210) 0) 0 1 p.val n 10)

/-- A write of a page's words that are 32-bit registers, by its lower half. -/
def State.pageLow (s : State) (p : PartId) (base : Nat) (v : W64) : State :=
  match base with
  | 0x8 => s.updPart p (fun x => { x with hold := bit v 0 })
  | 0x18 =>
    let r := s.clampWrite (pageOff p 0x18) 0 p.val (fldN v 0 13) 4096 256
    r.2.updPart p (fun x => { x with
      delivWait := ⟨fld v 16 8, x.delivWait.force⟩, flowBudget := ⟨BitVec.ofNat 13 r.1, x.flowBudget.force⟩
      flowNew := decide (BitVec.ofNat 13 r.1 ≠ x.flowBudget.force) })
  | 0x28 =>
    let r := s.clampWrite (pageOff p 0x28) 0 p.val (fldN v 0 6) 56 56
    r.2.updPart p (fun x => { x with waveMax := ⟨BitVec.ofNat 6 r.1, x.waveMax.force⟩ })
  | 0x40 => s.regFpCtl p v
  | 0x80 => s.updPart p (fun x => { x with
      trapVec := fld v 24 4, trapIrq := bit v 23, autoEnd := bit v 22, spinLimit := ⟨fld v 0 20, x.spinLimit.force⟩ })
  | 0xA0 => s.updPart p (fun x => { x with dbgData := fld v 0 32 })
  | 0x100 =>
    if s.hasVis then
      let r := s.clampWrite (pageOff p 0x100) 0 p.val (fldN v 0 13) 4096 4096
      r.2.updPart p (fun x => { x with parkMax := ⟨BitVec.ofNat 13 r.1, x.parkMax.force⟩ })
    else s
  | 0x128 => s.updPart p (fun x => { x with dlVec := fld v 8 4, lateIrq := bit v 2, reprojIrq := bit v 1, fireIrq := bit v 0 })
  | 0x180 =>
    let r := s.clampWrite (pageOff p 0x180) 0 p.val (fldN v 0 20) 1000000 200
    r.2.updPart p (fun x => { x with
      reissueMax := ⟨fld v 28 4, x.reissueMax.force⟩, extendMax := ⟨fld v 24 4, x.extendMax.force⟩, leaseUs := ⟨BitVec.ofNat 20 r.1, x.leaseUs.force⟩ })
  | 0x218 => s.regFqAck p (fld v 0 32) (BitVec.allOnes 32)
  | 0x400 => s.regPartReset p (fld v 0 32)
  | _ => s

/-- A write of a queue's slot (R45 to R50); a write of both RK_QCTL and RK_QWHISTLE takes RK_QCTL first (R48). -/
def State.queuePut (s : State) (env : Env) (p : PartId) (q : QueueId) (base : Nat) (v m : W64) : State :=
  match base with
  | 0x0 => s.updQueue q (fun x => if x.enabled then x else { x with desc := mixF v m 6 x.desc })
  | 0x8 => (s.doIf (lowHalf m) (·.writeQctl env q (fld v 0 32))).doIf (highHalf m) (·.whistleAt p q (fldN v 32 17))
  | 0x10 => s.doIf (highHalf m) (·.updQueue q (fun x => { x with cplHead := fld v 32 17 }))
  | _ => s

/-- A write of a word of a partition's page. -/
def State.pagePut (s : State) (env : Env) (p : PartId) (base : Nat) (v m : W64) : State :=
  if 0x800 ≤ base then match s.slotQueue p ((base - 0x800) / 32) with
    | some q => s.queuePut env p q (base % 32) v m
    | none => s
  else match base with
    | 0x88 => s.updPart p (fun x => { x with saveBase := mixSh v m 12 x.saveBase })
    | 0x98 =>
      (s.doIf (highHalf m) (·.updPart p (fun x => { x with dbgSpace := fld v 62 2, dbgIndex := fld v 32 21 }))).doIf (lowHalf m)
        (·.regGrpCmd p (fld v 0 32) env.steps env.word)
    | 0x110 => if s.hasTex then s.updPart p (fun x => { x with texFallback := mixF v m 0 x.texFallback }) else s
    | 0x118 => s.updPart p (fun x => { x with
        winBase := mixSh v m 40 x.winBase, consult := ⟨mixB v m 63 x.consult.shadow, x.consult.force⟩
        consultNew := if bit m 63 then decide (bit v 63 ≠ x.consult.force) else x.consultNew })
    | 0x120 => s.updPart p (fun x => { x with mapAddr := mixSh v m 12 x.mapAddr })
    | 0x200 => s.updPart p (fun x => { x with mmuRoot := mixSh v m 12 x.mmuRoot, mmuEnable := ⟨mixB v m 63 x.mmuEnable.shadow, x.mmuEnable.force⟩ })
    | 0x208 => s.regMmuInval p (v &&& m)
    | 0x210 => s.regFqBase p v m
    | 0x218 => (s.doIf (lowHalf m) (·.pageLow p 0x218 v)).doIf (highHalf m) (·.regFaultReplay env p (fld v 32 32))
    | _ => if lowHalf m then s.pageLow p base v else s

/-! ## The access -/

/-- The write as the 64-bit word it lies in. -/
def accData (a : Access) : W64 := if accUpper a then a.data <<< 32 else a.data

/-- Registers of the global block that act in ERROR: RK_UNLOCK, RK_BLK_RESET, the debug window, and at a FUSE stall RK_FUSE_MIRROR (R513). -/
def State.actsInError (s : State) (base : Nat) : Bool :=
  decide (base = 0x8) || decide (base = 0x1080) || (decide (0x10000 ≤ base) && decide (base < 0x20000)) || (decide (base = 0x1018) && s.fuseStall)

/-- CSR_WRITE: a write of a register, checked for size, requester and lock. -/
def execCsrWrite (a : Access) (env : Env) (s : State) : Host.Outcome State Fault Refusal :=
  let s := s.at env.t
  let b := accWord a
  if !accOk a then .next s.busError
  else match accPage a with
    | none => .next (s.busWrite a.req none (s.actsInError b) false (fun u s => s.globalPut env u b (accData a) (accMask a)))
    | some p => .next (s.busWrite a.req (some p) false (b % 4096 == 0x400) (fun _ s => s.pagePut env p (b % 4096) (accData a) (accMask a)))

end Sys2Proof.Machine
end

