-- ==== Sys2Proof/Machine/FwdIn.lean ====
section
/-!
DEFINITION. Sys2Proof/Machine/FwdIn.lean: queries of other chips at their owner (R363, R373, R377, R378, R383, R384): FWD_RAY, FWD_PROBE,
REDUCE_REQ, LEASE_EXTEND_TIMER and CANCEL.
-/

namespace Sys2Proof.Machine

/-! ## Arrival (R377, R383) -/

/-- This chip owns the subtree, in the current copy or in the previous-epoch map (R383 step 1). -/
def State.namesSub (s : State) (sub : Nat) : Bool := s.ownsSub sub || s.fwd.prevMap.contains sub

/-- A query that takes no slot is answered at once, and its credit is owed. -/
def State.answerQuery (s : State) (l : LinkId) (h : MsgHdr) (n : Nat) (b : MsgBody) : State :=
  (s.owe l ⟨n, 0, 0, 0, 0⟩).send (match s.route 0 h.src with | .link o => o | _ => l) (s.hdr h.queryId h.subtree h.src) b

/-- The result body that ends a query of a kind at once. -/
def endBody (kind : BitVec 2) (precise : Bool) (result va : Nat) : MsgBody :=
  let p := resultPrefix result false va []
  if kind = 0 then .rayResult p 0 else if kind = 1 then .probeResult p precise [] else .reduceResult p []

/-- A query is held in slots of FWD_RESERVE, and LEASE_EXTEND falls due at half its lease. -/
def State.holdQuery (s : State) (f : Foreign) : State :=
  ({ s with fwd := { s.fwd with foreign := s.fwd.foreign ++ [f] } }).timerAdd (.leaseExt f.slot) (s.pins.now + 500 * max 1 f.leaseUs)

/-- What the owner finds for a query: its descriptor and its subtree's root, or how it ends. -/
inductive Found where
  | ok (d : Desc) (root : Nat)
  | contained
  | fault (x : Xfault)

/-- DESC_ADDR and the subtree's table entry (R125, R156, R383 step 2): a descriptor of R125's table, or a subtree outside its range, is CONTAINED. All
64 bits of the address are translated (DESIGN CHOICE, log 202). -/
def State.findSub (s : State) (addr kind sub : Nat) : Found :=
  match s.vdesc s.hostPart addr with
  | .bad x => .fault x
  | .ok d =>
    if d.usable kind ≠ .ok || decide (sub < d.subBase) || decide (d.subBase + d.subCount ≤ sub) then .contained
    else match s.vnum s.hostPart (subEntryAddr d.subAddr d.subBase sub + 4) 4 with
      | .bad x => .fault x
      | .ok r => .ok d r

/-- A fault at the owner ends the query with FAULT_REMOTE; a record of KIND 4 tells the host partition (R384, R455). -/
def State.faultQuery (s : State) (f : Foreign) (x : Xfault) : State :=
  s.faultForeign f s.hostPart x ⟨8, none, 0, s.sel, s.kId f.slot, 0, 0, 0⟩

/-- A query addressed to this chip: where the host partition cannot run it or no slot is left, ABORTED; where nothing names this chip for the
subtree, NOT_OWNER; else it takes its slots, and `go` runs it. -/
def State.takeQuery (s : State) (env : Env) (l : LinkId) (h : MsgHdr) (b : MsgBody) (kind : BitVec 2) (precise : Bool) (leaseUs : Nat)
    (req : Option ReduceReqBody) (ds : List KData) (go : Nat → Foreign → State → State) : State :=
  let p := s.hostPart
  let n := b.slots
  if !s.works p then s.answerQuery l h n (endBody kind precise 3 0)
  else if !s.namesSub h.subtree.toNat then s.answerQuery l h n (endBody kind precise 2 0)
  else match s.kTakeAll env p true none ds with
    | some (i :: _, s1) =>
      let f : Foreign := ⟨i, l, h, leaseUs, kind, n, req⟩
      go i f (s1.holdQuery f)
    | _ => s.answerQuery l h n (endBody kind precise 3 0)

/-- A query message: for another chip it is relayed. -/
def State.queryIn (s : State) (env : Env) (l : LinkId) (h : MsgHdr) (b : MsgBody) (take : State → State) : State :=
  let s := s.at env.t
  if !s.carries l then s
  else
    let s1 := s.arrived l h
    if h.dest ≠ s.boot.chipId then s1.relay l h b else take (s1.updSess l (fun x => { x with granted := x.granted - b.slots }))

/-! ## FWD_RAY -/

/-- The ray of a FWD_RAY body, walked from a subtree's root. -/
def foreignRay (b : FwdRayBody) (caddy : BitVec 2) (gen : BitVec 6) (d : Desc) (root : Nat) : Ray where
  origin := Vector.ofFn (fun (a : Fin 3) => recF b.ray (4 * a.val))
  dir := Vector.ofFn (fun (a : Fin 3) => recF b.ray (12 + 4 * a.val))
  tmin := recF b.ray 24
  tmax := recF b.ray 28
  flow := BitVec.ofNat 16 (rb b.ray 36 2)
  flags := BitVec.ofNat 16 (rb b.ray 38 2)
  vis := BitVec.ofNat 8 (rb b.ray 40 1)
  rstate := .active
  hier := 0
  payload := BitVec.ofNat 64 (rb b.ray 44 8)
  ts := ⟨false, [], false, root % 2 ^ 29⟩
  visit := Visit.clear
  cand := ⟨0xFFFFFFFF, 0xFFFFFFFF, 0, 0, false, false, false, false, false⟩
  wait := .none
  cmd := none
  index := 0
  cls := b.fctl.cls
  caddy := caddy
  gen := gen
  ovf := b.fctl.ovf
  kind := 2
  base := d.base
  root := root % 2 ^ 29
  desc := b.descAddr.toNat
  inst := none
  leash := none
  line := 0
  subBase := (d.subAddr, d.subCount, d.subBase)
  doneAt := 0
  since := 0

/-- A held ray begins its walk. -/
def State.runRay (s : State) (b : FwdRayBody) (i : Nat) (f : Foreign) : State :=
  match s.findSub b.descAddr.toNat 2 f.hdr.subtree.toNat with
  | .fault x => s.faultQuery f x
  | .contained => s.failForeign f 4 0
  | .ok d root =>
    let r := foreignRay b s.sel (s.caddy s.sel).gen d root
    let s1 := s.setRay i r
    if root = 0xFFFFFFFF then s1.endRay i 1 else s1.enter (.ray i) s.hostPart (nodeVa r / 128)

/-- FWD_RAY arrives. -/
def execFwdRay (l : LinkId) (hdr : MsgHdr) (body : FwdRayBody) (env : Env) (s : State) : Host.Outcome State Fault Refusal :=
  .next (s.queryIn env l hdr (.fwdRay body) (fun s =>
    s.takeQuery env l hdr (.fwdRay body) 0 false body.leaseUs.toNat none [.ray (foreignRay body s.sel (s.caddy s.sel).gen 0 0)]
      (fun i f s => s.runRay body i f)))

/-! ## FWD_PROBE -/

/-- A held bundle waits for its place in the Strainer (R378). -/
def State.runBundle (s : State) (env : Env) (b : FwdProbeBody) (i : Nat) (f : Foreign) : State :=
  let p := s.hostPart
  let w := b.slots.headD 0
  match s.findSub b.descAddr.toNat 3 f.hdr.subtree.toNat with
  | .fault x => s.faultQuery f x
  | .contained => s.failForeign f 4 0
  | .ok d root =>
    if !headSized w || s.badHead s.sel p d.dim w || decide (b.slots.length ≠ slotsOfHead w) || !s.fmtOn s.sel p d.kfmt then s.failForeign f 4 0
    else
      let q := headQ w
      let al := b.alive &&& BitVec.ofNat 32 (2 ^ q - 1)
      let x := { Bundle.blank with
        head := i, foreign := some (f.link, f.hdr, b.leaseUs), cls := b.fctl.cls, caddy := s.sel, gen := (s.caddy s.sel).gen, ovf := b.fctl.ovf, part := p,
        flow := BitVec.ofNat 16 (rb w 4 2), q := q, qfmt := BitVec.ofNat 3 (headFmt w), d := headD w, k := b.k.toNat, precise := b.precise,
        nanRank := b.nanRank, desc := d, heapB := heapBytes q b.k.toNat (b.precise || b.reduce), walkB := walkBytes q,
        heaps := List.replicate q [], thresh0 := (List.range q).map (fun j => b.thresh.getD j f32NegInf), qstatus := List.replicate q 0,
        frontier := if childKind (BitVec.ofNat 24 root) = 3 then [] else [rootEntry root al], placed := false }
      ({ s with strain := { s.strain with bundles := s.strain.bundles ++ [x] } }).placeForeign env (s.strain.bundles.length + 2)

/-- FWD_PROBE arrives. -/
def execFwdProbe (l : LinkId) (hdr : MsgHdr) (body : FwdProbeBody) (env : Env) (s : State) : Host.Outcome State Fault Refusal :=
  .next (s.queryIn env l hdr (.fwdProbe body) (fun s =>
    s.takeQuery env l hdr (.fwdProbe body) 1 body.precise body.leaseUs.toNat none
      ((.head (body.slots.headD 0)) :: (body.slots.drop 1).map KData.body) (fun i f s => s.runBundle env body i f)))

/-! ## REDUCE_REQ -/

/-- The body of a reduce request as its slots hold it (R373). -/
def reduceBytes (b : ReduceReqBody) : List Byte :=
  leBytes 8 b.vdescAddr.toNat ++ leBytes 2 b.dv.toNat ++ [b.q] ++ leBytes 1 (b.fctl.cls.toNat + 4 * b.fctl.ovf.toNat) ++ leBytes 4 b.leaseUs.toNat
    ++ List.replicate 48 0 ++ (List.range 32).flatMap (fun j => leBytes 2 (b.lists.getD j []).length)
    ++ b.lists.flatMap (fun l => l.flatMap (fun e => leBytes 4 e.1.toNat ++ leBytes 4 e.2.toNat))

/-- A held reduce request gathers its rows (R224). All 64 bits of the
address are translated (DESIGN CHOICE, log 202). -/
def State.runReduce (s : State) (env : Env) (b : ReduceReqBody) (i : Nat) (f : Foreign) : State :=
  let p := s.hostPart
  match s.vdesc p b.vdescAddr.toNat with
  | .bad x => s.faultQuery f x
  | .ok v =>
    if v.usable 4 ≠ .ok || decide (v.dim ≠ b.dv.toNat) || !s.fmtOn s.sel p v.kfmt then s.failForeign f 4 0
    else
      let q := b.q.toNat
      let lists := (List.range q).map (fun j => (b.lists.getD j []).map (fun (e : W32 × W32) => (e.1.toNat, e.2)))
      let keys := unionKeys (lists.flatMap (fun l => l.map (·.1)))
      let x := { Bundle.blank with
        head := i, foreign := some (f.link, f.hdr, b.leaseUs), cls := b.fctl.cls, caddy := s.sel, gen := (s.caddy s.sel).gen, ovf := b.fctl.ovf, part := p,
        q := q, reduce := true, dv := b.dv.toNat, vdesc := v, state := .reducing, qstatus := List.replicate q 0, xlists := lists,
        chunks := chunks32 (keys.length + 1) keys, accs := List.replicate q none,
        outs := lists.map (fun l => if l.isEmpty then some [] else none) }
      ({ s with strain := { s.strain with bundles := s.strain.bundles ++ [x] } }).endWalk env i

/-- REDUCE_REQ arrives. -/
def execReduceReq (l : LinkId) (hdr : MsgHdr) (body : ReduceReqBody) (env : Env) (s : State) : Host.Outcome State Fault Refusal :=
  let ws := slotsOf 512 (reduceBytes body)
  .next (s.queryIn env l hdr (.reduceReq body) (fun s =>
    s.takeQuery env l hdr (.reduceReq body) 2 false body.leaseUs.toNat (some body) ((.head (ws.headD 0)) :: (ws.drop 1).map KData.body)
      (fun i f s => s.runReduce env body i f)))

/-! ## LEASE_EXTEND_TIMER and CANCEL (R384) -/

/-- LEASE_EXTEND_TIMER: half a lease has passed since the query arrived or the last LEASE_EXTEND. -/
def execLeaseExtendTimer (slot : Nat) (t : Nat) (s : State) : Host.Outcome State Fault Refusal :=
  if s.active && s.timerFires (.leaseExt slot) t then
    let s1 := s.fire (.leaseExt slot) t
    match s1.foreign? slot with
    | none => .next s1
    | some f =>
      .next ((s1.send (s1.backLink f) (s1.hdr f.hdr.queryId f.hdr.subtree f.hdr.src) .leaseExtend).timerAdd (.leaseExt slot)
        (s1.pins.now + 500 * max 1 f.leaseUs))
  else .next s

/-- CANCEL: the held queries with its ID and source are discarded. -/
def execCancel (l : LinkId) (hdr : MsgHdr) (t : Nat) (s : State) : Host.Outcome State Fault Refusal :=
  let s := s.at t
  if !s.carries l then .next s
  else
    let s1 := s.arrived l hdr
    if hdr.dest ≠ s.boot.chipId then .next (s1.relay l hdr .cancel)
    else
      let hit := s1.fwd.foreign.filter (fun f => decide (f.hdr.queryId = hdr.queryId) && decide (f.hdr.src = hdr.src))
      .next (hit.foldl (fun s f => s.dropForeign f) s1)

end Sys2Proof.Machine
end

