-- ==== Sys2Proof/Machine/Dispatch.lean ====
section
/-! DEFINITION. Sys2Proof/Machine/Dispatch.lean: the effect of a command on everything but the queue, one arm for each constructor. -/

namespace Sys2Proof.Machine

def exec (i : Instr) (s : State) : Host.Outcome State Fault Refusal :=
  match i with
  | .powerOn => Sys2Proof.Machine.execPowerOn s
  | .dieReset => Sys2Proof.Machine.execDieReset s
  | .resetRelease info => Sys2Proof.Machine.execResetRelease info s
  | .supplyFault d => Sys2Proof.Machine.execSupplyFault d s
  | .junctionLimit h => Sys2Proof.Machine.execJunctionLimit h s
  | .linkUp l t => Sys2Proof.Machine.execLinkUp l t s
  | .linkDown l t => Sys2Proof.Machine.execLinkDown l t s
  | .partitionReset req flr p => Sys2Proof.Machine.execPartitionReset req flr p s
  | .partitionResetDone p => Sys2Proof.Machine.execPartitionResetDone p s
  | .blkReset req => Sys2Proof.Machine.execBlkReset req s
  | .forcedResetAbandon => Sys2Proof.Machine.execForcedResetAbandon s
  | .forcedResetRelease info => Sys2Proof.Machine.execForcedResetRelease info s
  | .queueEnable req p slot value env => Sys2Proof.Machine.execQueueEnable req p slot value env s
  | .queueDisable req p slot value => Sys2Proof.Machine.execQueueDisable req p slot value s
  | .queueDisableDone q => Sys2Proof.Machine.execQueueDisableDone q s
  | .queueResume req p slot value => Sys2Proof.Machine.execQueueResume req p slot value s
  | .whistle req p slot value => Sys2Proof.Machine.execWhistle req p slot value s
  | .scalarWhistle port word => Sys2Proof.Machine.execScalarWhistle port word s
  | .commandFetch env => Sys2Proof.Machine.execCommandFetch env s
  | .commandAdmit q env => Sys2Proof.Machine.execCommandAdmit q env s
  | .completionRecord q env => Sys2Proof.Machine.execCompletionRecord q env s
  | .progressShadow q env => Sys2Proof.Machine.execProgressShadow q env s
  | .nop q => Sys2Proof.Machine.execNop q s
  | .traceRays q => Sys2Proof.Machine.execTraceRays q s
  | .probe q env => Sys2Proof.Machine.execProbe q env s
  | .probeReduce q env => Sys2Proof.Machine.execProbeReduce q env s
  | .buildBox q scratch env => Sys2Proof.Machine.execBuildBox q scratch env s
  | .buildRefit q scratch env => Sys2Proof.Machine.execBuildRefit q scratch env s
  | .buildKeys q scratch env => Sys2Proof.Machine.execBuildKeys q scratch env s
  | .buildInsert q env => Sys2Proof.Machine.execBuildInsert q env s
  | .buildCompact q scratch env => Sys2Proof.Machine.execBuildCompact q scratch env s
  | .buildSplit q scratch env => Sys2Proof.Machine.execBuildSplit q scratch env s
  | .splatFwd q env => Sys2Proof.Machine.execSplatFwd q env s
  | .splatBwd q order check env => Sys2Proof.Machine.execSplatBwd q order check env s
  | .copy q inFlight env => Sys2Proof.Machine.execCopy q inFlight env s
  | .residency q env => Sys2Proof.Machine.execResidency q env s
  | .fwdSessionOpen q t => Sys2Proof.Machine.execFwdSessionOpen q t s
  | .fwdSessionDrain q t => Sys2Proof.Machine.execFwdSessionDrain q t s
  | .ownerPublish q env => Sys2Proof.Machine.execOwnerPublish q env s
  | .fence q => Sys2Proof.Machine.execFence q s
  | .waitValue q env => Sys2Proof.Machine.execWaitValue q env s
  | .waitValuePoll q env => Sys2Proof.Machine.execWaitValuePoll q env s
  | .waitTimeout q t => Sys2Proof.Machine.execWaitTimeout q t s
  | .signalValue q env => Sys2Proof.Machine.execSignalValue q env s
  | .heel q t => Sys2Proof.Machine.execHeel q t s
  | .heelDrained q => Sys2Proof.Machine.execHeelDrained q s
  | .drainTimeout q t => Sys2Proof.Machine.execDrainTimeout q t s
  | .batchBoundary scope => Sys2Proof.Machine.execBatchBoundary scope s
  | .bindHierarchy q => Sys2Proof.Machine.execBindHierarchy q s
  | .bindProgram q env => Sys2Proof.Machine.execBindProgram q env s
  | .setDeadline q t => Sys2Proof.Machine.execSetDeadline q t s
  | .rayIntake q word env => Sys2Proof.Machine.execRayIntake q word env s
  | .fetch p line env => Sys2Proof.Machine.execFetch p line env s
  | .lineFill p line => Sys2Proof.Machine.execLineFill p line s
  | .packIssue p line why d t => Sys2Proof.Machine.execPackIssue p line why d t s
  | .packWaitExpiry p line d t => Sys2Proof.Machine.execPackWaitExpiry p line d t s
  | .test tu check words env => Sys2Proof.Machine.execTest tu check words env s
  | .spillSlotGrant ray slot => Sys2Proof.Machine.execSpillSlotGrant ray slot s
  | .spillWaitTimeout ray t => Sys2Proof.Machine.execSpillWaitTimeout ray t s
  | .invoke p cls caddy slot t => Sys2Proof.Machine.execInvoke p cls caddy slot t s
  | .returnRay ray check => Sys2Proof.Machine.execReturnRay ray check s
  | .delivery port group => Sys2Proof.Machine.execDelivery port group s
  | .delivWaitExpiry port group t => Sys2Proof.Machine.execDelivWaitExpiry port group t s
  | .memoryWriteAck id => Sys2Proof.Machine.execMemoryWriteAck id s
  | .fabricCredit port net group words => Sys2Proof.Machine.execFabricCredit port net group words s
  | .bundleAdmit q words env => Sys2Proof.Machine.execBundleAdmit q words env s
  | .bound tu check env => Sys2Proof.Machine.execBound tu check env s
  | .boundReturn bundle env => Sys2Proof.Machine.execBoundReturn bundle env s
  | .score tu check env => Sys2Proof.Machine.execScore tu check env s
  | .heapMerge bundle check env => Sys2Proof.Machine.execHeapMerge bundle check env s
  | .reduce bundle check env => Sys2Proof.Machine.execReduce bundle check env s
  | .lseMerge bundle query check env => Sys2Proof.Machine.execLseMerge bundle query check env s
  | .forward slot check env => Sys2Proof.Machine.execForward slot check env s
  | .fwdRay l hdr body env => Sys2Proof.Machine.execFwdRay l hdr body env s
  | .fwdProbe l hdr body env => Sys2Proof.Machine.execFwdProbe l hdr body env s
  | .reduceReq l hdr body env => Sys2Proof.Machine.execReduceReq l hdr body env s
  | .rayResult l hdr pre hit env => Sys2Proof.Machine.execRayResult l hdr pre hit env s
  | .probeResult l hdr pre lists env => Sys2Proof.Machine.execProbeResult l hdr pre lists env s
  | .reduceResult l hdr pre triples env => Sys2Proof.Machine.execReduceResult l hdr pre triples env s
  | .leaseExtend l hdr t => Sys2Proof.Machine.execLeaseExtend l hdr t s
  | .leaseExtendTimer slot t => Sys2Proof.Machine.execLeaseExtendTimer slot t s
  | .cancel l hdr t => Sys2Proof.Machine.execCancel l hdr t s
  | .creditReturn l lo c t => Sys2Proof.Machine.execCreditReturn l lo c t s
  | .creditReturnTimer l t => Sys2Proof.Machine.execCreditReturnTimer l t s
  | .keepalive l lo t => Sys2Proof.Machine.execKeepalive l lo t s
  | .keepaliveTimer l t => Sys2Proof.Machine.execKeepaliveTimer l t s
  | .keepaliveLost l t => Sys2Proof.Machine.execKeepaliveLost l t s
  | .hello l lo chip expected t => Sys2Proof.Machine.execHello l lo chip expected t s
  | .adv l body t => Sys2Proof.Machine.execAdv l body t s
  | .agree l lo body t => Sys2Proof.Machine.execAgree l lo body t s
  | .credit l lo grants t => Sys2Proof.Machine.execCredit l lo grants t s
  | .sessionTimeout l t => Sys2Proof.Machine.execSessionTimeout l t s
  | .drain l lo t => Sys2Proof.Machine.execDrain l lo t s
  | .drainDone l lo t => Sys2Proof.Machine.execDrainDone l lo t s
  | .forcedDrain l t => Sys2Proof.Machine.execForcedDrain l t s
  | .ownerEntries l hdr epoch total entries t => Sys2Proof.Machine.execOwnerEntries l hdr epoch total entries t s
  | .epochCommit l hdr epoch total applied missed t => Sys2Proof.Machine.execEpochCommit l hdr epoch total applied missed t s
  | .ringTimeout seq t => Sys2Proof.Machine.execRingTimeout seq t s
  | .bypassReopen t => Sys2Proof.Machine.execBypassReopen t s
  | .leaseDeadline slot env => Sys2Proof.Machine.execLeaseDeadline slot env s
  | .ownerReload req value env => Sys2Proof.Machine.execOwnerReload req value env s
  | .ownerTableFetch env => Sys2Proof.Machine.execOwnerTableFetch env s
  | .preemptionTimer p env => Sys2Proof.Machine.execPreemptionTimer p env s
  | .decisionTimer p check env => Sys2Proof.Machine.execDecisionTimer p check env s
  | .reprojectionPresent p env => Sys2Proof.Machine.execReprojectionPresent p env s
  | .groupRestore g env => Sys2Proof.Machine.execGroupRestore g env s
  | .tileLoad unit check env => Sys2Proof.Machine.execTileLoad unit check env s
  | .tileResolve unit slot check env => Sys2Proof.Machine.execTileResolve unit slot check env s
  | .parkGrant p grant => Sys2Proof.Machine.execParkGrant p grant s
  | .callMessage port hdr args => Sys2Proof.Machine.execCallMessage port hdr args s
  | .groupLaunch core env => Sys2Proof.Machine.execGroupLaunch core env s
  | .exit g check => Sys2Proof.Machine.execExit g check s
  | .brk g t check => Sys2Proof.Machine.execBrk g t check s
  | .bar g b t check => Sys2Proof.Machine.execBar g b t check s
  | .barClu g b check => Sys2Proof.Machine.execBarClu g b check s
  | .fenceSys g check => Sys2Proof.Machine.execFenceSys g check s
  | .fenceBlk g check => Sys2Proof.Machine.execFenceBlk g check s
  | .fenceClu g check => Sys2Proof.Machine.execFenceClu g check s
  | .lockacq g dst space addr steps stood check env => Sys2Proof.Machine.execLockacq g dst space addr steps stood check env s
  | .lockrel g dst space addr check env => Sys2Proof.Machine.execLockrel g dst space addr check env s
  | .atomic g op wide space dst addr a b check env => Sys2Proof.Machine.execAtomic g op wide space dst addr a b check env s
  | .load g space w nc l1 dst addr check env => Sys2Proof.Machine.execLoad g space w nc l1 dst addr check env s
  | .store g space w src addr check env => Sys2Proof.Machine.execStore g space w src addr check env s
  | .tex g dst desc u v check env => Sys2Proof.Machine.execTex g dst desc u v check env s
  | .texlod g dst desc u v lod check env => Sys2Proof.Machine.execTexlod g dst desc u v lod check env s
  | .scorer g dst qfmt kfmt queries keys check t => Sys2Proof.Machine.execScorer g dst qfmt kfmt queries keys check t s
  | .integer g op w signed sat dst a b c check => Sys2Proof.Machine.execInteger g op w signed sat dst a b c check s
  | .float g op f dst a b c check => Sys2Proof.Machine.execFloat g op f dst a b c check s
  | .convert g src dst sat d a check => Sys2Proof.Machine.execConvert g src dst sat d a check s
  | .specialFunction g fn dst a check => Sys2Proof.Machine.execSpecialFunction g fn dst a check s
  | .laneExchange g op dst a idx check => Sys2Proof.Machine.execLaneExchange g op dst a idx check s
  | .branch g target check => Sys2Proof.Machine.execBranch g target check s
  | .divergencePush g reconv active t check => Sys2Proof.Machine.execDivergencePush g reconv active t check s
  | .divergencePop g t check => Sys2Proof.Machine.execDivergencePop g t check s
  | .programCall g target link check => Sys2Proof.Machine.execProgramCall g target link check s
  | .halt req p value => Sys2Proof.Machine.execHalt req p value s
  | .resume req p value => Sys2Proof.Machine.execResume req p value s
  | .stepGroup req p value => Sys2Proof.Machine.execStepGroup req p value s
  | .restart req p value => Sys2Proof.Machine.execRestart req p value s
  | .endGroup req p value => Sys2Proof.Machine.execEndGroup req p value s
  | .groupRead req p value steps check => Sys2Proof.Machine.execGroupRead req p value steps check s
  | .groupWrite req p value steps check => Sys2Proof.Machine.execGroupWrite req p value steps check s
  | .translationWalk p va kind who check level env => Sys2Proof.Machine.execTranslationWalk p va kind who check level env s
  | .mmuInval req p value => Sys2Proof.Machine.execMmuInval req p value s
  | .invalComplete p env => Sys2Proof.Machine.execInvalComplete p env s
  | .faultReplay req p value env => Sys2Proof.Machine.execFaultReplay req p value env s
  | .faultAbort req p value env => Sys2Proof.Machine.execFaultAbort req p value env s
  | .fqAck req p value env => Sys2Proof.Machine.execFqAck req p value env s
  | .unlock req key => Sys2Proof.Machine.execUnlock req key s
  | .unlockTimeout => Sys2Proof.Machine.execUnlockTimeout s
  | .csrWrite a env => Sys2Proof.Machine.execCsrWrite a env s
  | .csrReadClear a => Sys2Proof.Machine.execCsrReadClear a s
  | .voteScrub upsets refuse => Sys2Proof.Machine.execVoteScrub upsets refuse s
  | .cfgGo req value => Sys2Proof.Machine.execCfgGo req value s
  | .cfgImageRead readError => Sys2Proof.Machine.execCfgImageRead readError s
  | .cfgSectionApply sec => Sys2Proof.Machine.execCfgSectionApply sec s
  | .cfgCancel req value => Sys2Proof.Machine.execCfgCancel req value s
  | .freeze req value => Sys2Proof.Machine.execFreeze req value s
  | .ptabWrite req p w value => Sys2Proof.Machine.execPtabWrite req p w value s
  | .caddySwitch req value => Sys2Proof.Machine.execCaddySwitch req value s
  | .mcGo req value => Sys2Proof.Machine.execMcGo req value s
  | .mcLoadDone check => Sys2Proof.Machine.execMcLoadDone check s
  | .mmuGo req value env => Sys2Proof.Machine.execMmuGo req value env s
  | .chipId req value t => Sys2Proof.Machine.execChipId req value t s
  | .fuseReread req info => Sys2Proof.Machine.execFuseReread req info s
  | .tuFence req value => Sys2Proof.Machine.execTuFence req value s
  | .tuUnfence req value => Sys2Proof.Machine.execTuUnfence req value s
  | .tuSelfTestDone row pos pass => Sys2Proof.Machine.execTuSelfTestDone row pos pass s
  | .sleepHalf req h value => Sys2Proof.Machine.execSleepHalf req h value s
  | .halfAsleep h => Sys2Proof.Machine.execHalfAsleep h s
  | .wakeHalf req h value => Sys2Proof.Machine.execWakeHalf req h value s
  | .halfAwake h failed => Sys2Proof.Machine.execHalfAwake h failed s
  | .unitOut req value => Sys2Proof.Machine.execUnitOut req value s
  | .unitReturn req value => Sys2Proof.Machine.execUnitReturn req value s
  | .unitReturnDone kind idx pass => Sys2Proof.Machine.execUnitReturnDone kind idx pass s
  | .powerEstimate watts t => Sys2Proof.Machine.execPowerEstimate watts t s
  | .traceEnable req value => Sys2Proof.Machine.execTraceEnable req value s
  | .blkHeel req value t => Sys2Proof.Machine.execBlkHeel req value t s
  | .blockDrainDone => Sys2Proof.Machine.execBlockDrainDone s
  | .blkTimeout t => Sys2Proof.Machine.execBlkTimeout t s
  | .dbgRead req value check => Sys2Proof.Machine.execDbgRead req value check s
  | .dbgWrite req value => Sys2Proof.Machine.execDbgWrite req value s
  | .powerDown => Sys2Proof.Machine.execPowerDown s
  | .junctionLimitClear h => Sys2Proof.Machine.execJunctionLimitClear h s
  | .routerFault row pos => Sys2Proof.Machine.execRouterFault row pos s
  | .messageRelay l hdr body env => Sys2Proof.Machine.execMessageRelay l hdr body env s

end Sys2Proof.Machine
end

