-- ==== Sys2Proof/Safety.lean ====
section
/-!
DEFINITION. Sys2Proof/Safety.lean: the terms in which statements say what a command leaves alone: the components of the state, and for
each command the components it may change; the invariants of the block; and when a command of a kind can run.
-/

namespace Sys2Proof.Machine

/-! ## Components of the state -/

/-- The components a frame speaks of. The queue of waiting commands is none of them: no command changes it. -/
inductive Comp where
  /-- What the die reports and drives: power, reset, port map, links, junction limits, FLR reports (R12, R17, R500, R501). -/
  | die
  /-- The request to the shim to close its bypass (R18). -/
  | bypass
  /-- The die timebase as last met (R501). -/
  | now
  /-- Interrupt messages raised (R22). -/
  | irqs
  /-- The response of the last control-bus access (R21). -/
  | resp
  /-- Messages sent on the fabric ports (R11, R117, R278). -/
  | sent
  /-- Messages sent on the links (R371). -/
  | links
  /-- Present messages sent (R350). -/
  | presents
  /-- RK_BOOT_PROG.STATE (R504). -/
  | bootState
  /-- Start-up progress and its interrupt enables (R504, R506). -/
  | bootProg
  /-- Chip ID, capabilities and the fuse mirror (R33, R506). -/
  | chip
  /-- The microcode store and its loader (R507 to R509). -/
  | mcode
  /-- UNLOCKED (R491). -/
  | lock
  /-- The counters and enables of the CSR block (R492 to R494). -/
  | csr
  /-- The partition table (R498). -/
  | ptab
  /-- The caddies and RK_CADDY_SEL (R417, R421). -/
  | caddies
  /-- What the image engine last applied outside the tables (R467). -/
  | applied
  /-- The image engine: source, window, report, waiting sections (R495 to R497). -/
  | image
  /-- The partition pages and what each partition holds. -/
  | parts
  /-- The queues (R37 to R56). -/
  | queues
  /-- The arbitration of the Command Front (R52). -/
  | front
  /-- Memory behind the memory fabric (R13). -/
  | mem
  /-- The Kennel slots and their generations (R83, R94). -/
  | slots
  /-- The Kennel banks in service and its error counts (R88, R120). -/
  | banks
  /-- The Herder (R162 to R168). -/
  | herd
  /-- The queues and query buffers of the logical TUs (R168, R214). -/
  | tus
  /-- The rows of the array, sleep, scheduling and service settings (R427 to R436, R515). -/
  | arr
  /-- The power controller (R29 to R32). -/
  | pwr
  /-- The Retriever, the fabric credits and the outstanding writes (R10, R15, R188). -/
  | ret
  /-- The Strainer (R199). -/
  | strain
  /-- The Setter cores and what waits for them (R268 to R302). -/
  | setter
  /-- The VIS tile units, the passes and depth parking (R313 to R354). -/
  | vis
  /-- The owner table and its registers (R360, R389 to R391). -/
  | owners
  /-- The sessions of the links (R379, R392). -/
  | sess
  /-- The rest of forwarding: foreign queries, ring messages, counters (R360 to R394). -/
  | fwd
  /-- The translation cache (R441). -/
  | tlb
  /-- The open faults (R444). -/
  | faults
  /-- The Steep lists (R400). -/
  | steep
  /-- The scheduling trace (R407 to R410). -/
  | trace
  /-- The debug port (R525). -/
  | dbg
  /-- The error registers (R514). -/
  | err
  /-- The model's counter of free values. -/
  | fresh
deriving DecidableEq, Repr

/-- The component is the same in both states. -/
def Comp.same (c : Comp) (s t : State) : Prop :=
  match c with
  | .die => t.pins.powered = s.pins.powered ∧ t.pins.inReset = s.pins.inReset ∧ t.pins.forced = s.pins.forced
      ∧ t.pins.portMap = s.pins.portMap ∧ t.pins.linkUp = s.pins.linkUp ∧ t.pins.hotWest = s.pins.hotWest
      ∧ t.pins.hotEast = s.pins.hotEast ∧ t.pins.flrDone = s.pins.flrDone ∧ t.pins.portWords = s.pins.portWords
  | .bypass => t.pins.bypass = s.pins.bypass
  | .now => t.pins.now = s.pins.now
  | .irqs => t.pins.irqs = s.pins.irqs
  | .resp => t.pins.resp = s.pins.resp
  | .sent => t.pins.sent = s.pins.sent
  | .links => t.pins.links = s.pins.links
  | .presents => t.pins.presents = s.pins.presents
  | .bootState => t.boot.state = s.boot.state
  | .bootProg => t.boot.step = s.boot.step ∧ t.boot.bp = s.boot.bp ∧ t.boot.stall = s.boot.stall ∧ t.boot.detail = s.boot.detail
      ∧ t.boot.bootIrq = s.boot.bootIrq ∧ t.boot.resetIrq = s.boot.resetIrq ∧ t.boot.ringRetry = s.boot.ringRetry
  | .chip => t.boot.chipId = s.boot.chipId ∧ t.boot.chipSet = s.boot.chipSet ∧ t.boot.caps = s.boot.caps
      ∧ t.boot.spareFused = s.boot.spareFused ∧ t.boot.sramRepairs = s.boot.sramRepairs
      ∧ t.boot.chipWritten = s.boot.chipWritten ∧ t.boot.fuses = s.boot.fuses
  | .mcode => t.boot.mcAddr = s.boot.mcAddr ∧ t.boot.mcBusy = s.boot.mcBusy ∧ t.boot.mcReason = s.boot.mcReason
      ∧ t.boot.mcAttempts = s.boot.mcAttempts ∧ t.boot.mcBadGo = s.boot.mcBadGo ∧ t.boot.mcStore = s.boot.mcStore
  | .lock => t.csr.unlocked = s.csr.unlocked
  | .csr => t.csr.lvCnt = s.csr.lvCnt ∧ t.csr.voteCorr = s.csr.voteCorr ∧ t.csr.badKey = s.csr.badKey ∧ t.csr.xpart = s.csr.xpart
      ∧ t.csr.voteLast = s.csr.voteLast ∧ t.csr.voteFail = s.csr.voteFail ∧ t.csr.lockViol = s.csr.lockViol ∧ t.csr.cfgIrq = s.csr.cfgIrq
      ∧ t.csr.voteIrq = s.csr.voteIrq ∧ t.csr.lvIrq = s.csr.lvIrq ∧ t.csr.hold = s.csr.hold
  | .ptab => t.cfg.ptab = s.cfg.ptab
  | .caddies => t.cfg.caddies = s.cfg.caddies ∧ t.cfg.sel = s.cfg.sel
  | .applied => t.cfg.fpDef = s.cfg.fpDef ∧ t.cfg.ringUp = s.cfg.ringUp ∧ t.cfg.ringDown = s.cfg.ringDown
      ∧ t.cfg.fwdLinks = s.cfg.fwdLinks ∧ t.cfg.fwdReserve = s.cfg.fwdReserve ∧ t.cfg.fwdBundles = s.cfg.fwdBundles
      ∧ t.cfg.fwdStrain = s.cfg.fwdStrain
  | .image => t.cfg.freeze = s.cfg.freeze ∧ t.cfg.srcWin = s.cfg.srcWin ∧ t.cfg.caddyMask = s.cfg.caddyMask
      ∧ t.cfg.partMask = s.cfg.partMask ∧ t.cfg.glob = s.cfg.glob ∧ t.cfg.busy = s.cfg.busy ∧ t.cfg.src = s.cfg.src
      ∧ t.cfg.rptAddr = s.cfg.rptAddr ∧ t.cfg.rptSize = s.cfg.rptSize ∧ t.cfg.clamps = s.cfg.clamps ∧ t.cfg.writePos = s.cfg.writePos
      ∧ t.cfg.overrun = s.cfg.overrun ∧ t.cfg.done = s.cfg.done ∧ t.cfg.state = s.cfg.state ∧ t.cfg.reject = s.cfg.reject
      ∧ t.cfg.window = s.cfg.window ∧ t.cfg.notes = s.cfg.notes ∧ t.cfg.waitPart = s.cfg.waitPart ∧ t.cfg.waitCaddy = s.cfg.waitCaddy
      ∧ t.cfg.waitGlobal = s.cfg.waitGlobal
  | .parts => t.parts = s.parts
  | .queues => t.queues = s.queues
  | .front => t.front = s.front
  | .mem => t.mem = s.mem
  | .slots => t.kennel.slots = s.kennel.slots ∧ t.kennel.gens = s.kennel.gens ∧ t.kennel.stale = s.kennel.stale
      ∧ t.kennel.visits = s.kennel.visits ∧ t.kennel.images = s.kennel.images ∧ t.kennel.cands = s.kennel.cands
  | .banks => t.kennel.banksOut = s.kennel.banksOut ∧ t.kennel.banksBack = s.kennel.banksBack ∧ t.kennel.uncorr = s.kennel.uncorr
      ∧ t.kennel.corr = s.kennel.corr ∧ t.kennel.scrubbed = s.kennel.scrubbed
  | .herd => t.herd = s.herd
  | .tus => t.arr.tus = s.arr.tus
  | .arr => t.arr.rows = s.arr.rows ∧ t.arr.autoFence = s.arr.autoFence ∧ t.arr.sleepEast = s.arr.sleepEast
      ∧ t.arr.sleepWest = s.arr.sleepWest ∧ t.arr.dist = s.arr.dist ∧ t.arr.east = s.arr.east ∧ t.arr.west = s.arr.west
      ∧ t.arr.sleepRefused = s.arr.sleepRefused ∧ t.arr.fenceEvent = s.arr.fenceEvent ∧ t.arr.residueErrs = s.arr.residueErrs
      ∧ t.arr.imbSet = s.arr.imbSet ∧ t.arr.imbTu = s.arr.imbTu ∧ t.arr.blkLimit = s.arr.blkLimit ∧ t.arr.blkDraining = s.arr.blkDraining
      ∧ t.arr.blkTimeout = s.arr.blkTimeout ∧ t.arr.coresOut = s.arr.coresOut ∧ t.arr.unitsOut = s.arr.unitsOut
      ∧ t.arr.coresBack = s.arr.coresBack ∧ t.arr.unitsBack = s.arr.unitsBack
  | .pwr => t.pwr = s.pwr
  | .ret => t.ret = s.ret
  | .strain => t.strain = s.strain
  | .setter => t.setter = s.setter
  | .vis => t.vis = s.vis
  | .owners => t.fwd.ownBase = s.fwd.ownBase ∧ t.fwd.nextEpoch = s.fwd.nextEpoch ∧ t.fwd.ownEntries = s.fwd.ownEntries
      ∧ t.fwd.epoch = s.fwd.epoch ∧ t.fwd.applied = s.fwd.applied ∧ t.fwd.missed = s.fwd.missed ∧ t.fwd.superseded = s.fwd.superseded
      ∧ t.fwd.reloadReject = s.fwd.reloadReject ∧ t.fwd.epochBehind = s.fwd.epochBehind ∧ t.fwd.epochMissed = s.fwd.epochMissed
      ∧ t.fwd.reloading = s.fwd.reloading ∧ t.fwd.table = s.fwd.table ∧ t.fwd.staging = s.fwd.staging ∧ t.fwd.prevMap = s.fwd.prevMap
      ∧ t.fwd.bad = s.fwd.bad
  | .sess => t.fwd.sess = s.fwd.sess
  | .fwd => t.fwd.routeBase = s.fwd.routeBase ∧ t.fwd.hostPart = s.fwd.hostPart ∧ t.fwd.ringTimeout = s.fwd.ringTimeout
      ∧ t.fwd.ringRetry = s.fwd.ringRetry ∧ t.fwd.staleDrop = s.fwd.staleDrop ∧ t.fwd.reissues = s.fwd.reissues
      ∧ t.fwd.fwdFails = s.fwd.fwdFails ∧ t.fwd.relayDrop = s.fwd.relayDrop ∧ t.fwd.orphans = s.fwd.orphans ∧ t.fwd.ring = s.fwd.ring
      ∧ t.fwd.ringSeq = s.fwd.ringSeq ∧ t.fwd.publish = s.fwd.publish ∧ t.fwd.foreign = s.fwd.foreign ∧ t.fwd.waiting = s.fwd.waiting
      ∧ t.fwd.cmds = s.fwd.cmds ∧ t.fwd.hostNew = s.fwd.hostNew ∧ t.fwd.turn = s.fwd.turn
  | .tlb => t.mmu.tlb = s.mmu.tlb ∧ t.mmu.badPtes = s.mmu.badPtes
  | .faults => t.mmu.faults = s.mmu.faults
  | .steep => t.steep = s.steep
  | .trace => t.trace = s.trace
  | .dbg => t.dbg = s.dbg
  | .err => t.err = s.err
  | .fresh => t.fresh = s.fresh

/-- What every control-bus write may change (R21, R477, R486). -/
def busSet : List Comp :=
  [.resp, .lock, .csr]

/-- What a trace record changes, written or not (R407 to R409). -/
def traceSet : List Comp :=
  [.irqs, .parts, .mem, .trace]

/-- What a step of a session changes. -/
def sessSet : List Comp :=
  [.now, .irqs, .links, .bootProg, .queues, .sess, .fwd, .steep]

/-- What an access that faults changes (R444 to R450). -/
def faultSet : List Comp :=
  [.irqs, .parts, .queues, .mem, .slots, .ret, .strain, .setter, .faults, .trace]

/-- What the completion, the trap or the fault of a Setter instruction changes. -/
def groupSet : List Comp :=
  [.irqs, .sent, .parts, .queues, .mem, .slots, .banks, .herd, .tus, .arr, .ret, .strain, .setter, .vis, .faults, .steep, .trace, .err]

/-- What changes where a bundle or a remote query goes on. -/
def walkSet : List Comp :=
  [.irqs, .links, .bootProg, .parts, .queues, .mem, .slots, .herd, .tus, .arr, .ret, .strain, .setter, .sess, .fwd, .faults, .steep,
    .trace, .err]

/-- What a reset of the block changes (R500, R523, R524). -/
def resetSet : List Comp :=
  [.die, .bypass, .resp, .bootState, .bootProg, .chip, .mcode, .lock, .csr, .ptab, .caddies, .applied, .image, .parts,
    .queues, .front, .slots, .banks, .herd, .tus, .arr, .pwr, .ret, .strain, .setter, .vis, .owners, .sess, .fwd, .tlb, .faults, .steep, .trace, .dbg, .err]

/-- The components a command may change; every other component, and the queue of waiting commands, it leaves as they are. -/
def Comp.ofInstr (i : Instr) : List Comp :=
  match i with
  | .powerOn => resetSet
  | .dieReset => resetSet
  | .resetRelease _ => [.die, .bypass, .now, .irqs, .bootState, .bootProg, .chip, .banks, .arr, .steep, .err]
  | .supplyFault _ => [.bypass, .irqs, .bootState, .err]
  | .junctionLimit _ => [.die]
  | .linkUp _ _ => [.die, .now, .links, .sess, .fwd, .steep]
  | .linkDown _ _ => walkSet ++ [.die, .bypass, .now]
  | .partitionReset _ _ _ => faultSet ++ busSet ++ [.sent, .links, .bootProg, .herd, .tus, .arr, .vis, .sess, .fwd, .steep]
  | .partitionResetDone _ => walkSet ++ [.die, .bootState, .image, .owners, .tlb]
  | .blkReset _ => busSet ++ [.die, .bypass, .irqs]
  | .forcedResetAbandon => resetSet
  | .forcedResetRelease _ => [.die, .bypass, .now, .irqs, .bootState, .bootProg, .chip, .banks, .arr, .steep, .err]
  | .queueEnable _ _ _ _ _ => faultSet ++ busSet ++ [.now]
  | .queueDisable _ _ _ _ => faultSet ++ busSet
  | .queueDisableDone _ => [.queues]
  | .queueResume _ _ _ _ => faultSet ++ busSet
  | .whistle _ _ _ _ => busSet ++ [.queues]
  | .scalarWhistle _ _ => [.queues, .ret]
  | .commandFetch _ => faultSet ++ [.bypass, .now, .bootState, .front, .err]
  | .commandAdmit _ _ => faultSet ++ [.now, .vis]
  | .completionRecord _ _ => faultSet ++ [.now, .presents, .steep]
  | .progressShadow _ _ => faultSet ++ [.now, .steep]
  | .nop _ => [.queues]
  | .traceRays _ => [.queues]
  | .probe _ _ => faultSet ++ [.now, .steep, .err]
  | .probeReduce _ _ => faultSet ++ [.now, .steep, .err]
  | .buildBox _ _ _ => faultSet ++ [.now]
  | .buildRefit _ _ _ => faultSet ++ [.now]
  | .buildKeys _ _ _ => faultSet ++ [.now]
  | .buildInsert _ _ => faultSet ++ [.now]
  | .buildCompact _ _ _ => faultSet ++ [.now]
  | .buildSplit _ _ _ => faultSet ++ [.now]
  | .splatFwd _ _ => faultSet ++ [.now, .vis]
  | .splatBwd _ _ _ _ => faultSet ++ [.now, .sent, .herd, .tus, .arr, .vis, .steep, .err]
  | .copy _ _ _ => faultSet ++ [.now]
  | .residency _ _ => faultSet ++ [.now]
  | .fwdSessionOpen _ _ => [.now, .links, .queues, .sess, .fwd, .steep]
  | .fwdSessionDrain _ _ => sessSet
  | .ownerPublish _ _ => faultSet ++ [.now, .links, .owners, .sess, .fwd, .steep]
  | .fence _ => [.queues]
  | .waitValue _ _ => faultSet ++ [.now, .steep]
  | .waitValuePoll _ _ => faultSet ++ [.bypass, .now, .bootState, .steep, .err]
  | .waitTimeout _ _ => traceSet ++ [.now, .queues, .steep]
  | .signalValue _ _ => faultSet ++ [.now, .steep]
  | .heel _ _ => traceSet ++ [.now, .queues, .steep]
  | .heelDrained _ => traceSet ++ [.ptab, .applied, .image, .queues, .tus, .ret, .setter, .fwd, .steep]
  | .drainTimeout _ _ => sessSet ++ traceSet ++ [.slots, .herd, .tus, .arr, .strain, .setter, .err]
  | .batchBoundary _ => [.ptab, .applied, .image, .parts, .mem, .herd, .tus, .arr, .pwr, .ret, .setter, .fwd]
  | .bindHierarchy _ => [.parts, .queues]
  | .bindProgram _ _ => faultSet ++ [.now]
  | .setDeadline _ _ => groupSet ++ walkSet ++ [.now, .fresh]
  | .rayIntake _ _ _ => faultSet ++ [.now, .herd, .steep, .err]
  | .fetch _ _ _ => walkSet ++ [.bypass, .now, .bootState]
  | .lineFill _ _ => [.herd, .steep]
  | .packIssue _ _ _ _ _ => traceSet ++ [.now, .herd, .tus, .steep]
  | .packWaitExpiry _ _ _ _ => traceSet ++ [.now, .herd, .tus, .steep]
  | .test _ _ _ _ => walkSet ++ [.now, .banks, .arr, .err]
  | .spillSlotGrant _ _ => [.parts, .slots, .herd, .steep]
  | .spillWaitTimeout _ _ => traceSet ++ [.now, .slots, .steep]
  | .invoke _ _ _ _ _ => traceSet ++ [.now, .herd, .setter, .steep]
  | .returnRay _ _ => walkSet ++ [.err]
  | .delivery _ _ => [.sent, .queues, .ret, .strain]
  | .delivWaitExpiry _ _ _ => traceSet ++ [.now, .sent, .queues, .ret, .strain, .steep]
  | .memoryWriteAck _ => [.irqs, .sent, .parts, .queues, .mem, .slots, .herd, .tus, .arr, .ret, .strain, .setter, .vis, .faults, .steep]
  | .fabricCredit _ _ _ _ => [.sent, .ret, .setter]
  | .bundleAdmit _ _ _ => walkSet ++ [.now]
  | .bound _ _ _ => walkSet ++ [.now, .banks]
  | .boundReturn _ _ => walkSet ++ [.now]
  | .score _ _ _ => groupSet ++ walkSet ++ [.now]
  | .heapMerge _ _ _ => walkSet ++ [.now, .banks, .arr, .err]
  | .reduce _ _ _ => walkSet ++ [.now, .err]
  | .lseMerge _ _ _ _ => walkSet ++ [.now, .err]
  | .forward _ _ _ => walkSet ++ [.now, .banks, .owners]
  | .fwdRay _ _ _ _ => sessSet ++ traceSet ++ [.slots, .herd, .tus, .arr, .strain, .setter, .owners]
  | .fwdProbe _ _ _ _ => walkSet ++ [.now, .owners]
  | .reduceReq _ _ _ _ => walkSet ++ [.now, .owners]
  | .rayResult _ _ _ _ _ => faultSet ++ sessSet ++ [.herd, .owners]
  | .probeResult _ _ _ _ _ => walkSet ++ [.now, .owners]
  | .reduceResult _ _ _ _ _ => walkSet ++ [.now, .owners]
  | .leaseExtend _ _ _ => [.now, .irqs, .links, .slots, .owners, .sess, .fwd, .steep]
  | .leaseExtendTimer _ _ => traceSet ++ [.now, .links, .sess, .fwd, .steep]
  | .cancel _ _ _ => sessSet ++ traceSet ++ [.slots, .herd, .tus, .arr, .strain, .setter, .owners]
  | .creditReturn _ _ _ _ => [.now, .irqs, .links, .owners, .sess, .fwd, .steep]
  | .creditReturnTimer _ _ => traceSet ++ [.now, .links, .sess, .steep]
  | .keepalive _ _ _ => [.now, .irqs, .owners, .steep]
  | .keepaliveTimer _ _ => traceSet ++ [.now, .links, .steep]
  | .keepaliveLost _ _ => walkSet ++ [.bypass, .now]
  | .hello _ _ _ _ _ => walkSet ++ [.bypass, .now, .owners]
  | .adv _ _ _ => sessSet ++ [.bypass, .owners]
  | .agree _ _ _ _ => sessSet ++ [.bypass, .owners]
  | .credit _ _ _ _ => sessSet ++ [.owners]
  | .sessionTimeout _ _ => sessSet ++ traceSet ++ [.bypass]
  | .drain _ _ _ => sessSet ++ [.owners]
  | .drainDone _ _ _ => sessSet ++ [.owners]
  | .forcedDrain _ _ => walkSet ++ [.now]
  | .ownerEntries _ _ _ _ _ _ => [.now, .irqs, .links, .image, .queues, .mem, .owners, .sess, .fwd, .steep]
  | .epochCommit _ _ _ _ _ _ _ => [.now, .irqs, .links, .image, .queues, .mem, .owners, .sess, .fwd, .steep]
  | .ringTimeout _ _ => traceSet ++ [.now, .links, .queues, .sess, .fwd, .steep]
  | .bypassReopen _ => walkSet ++ [.bypass, .now]
  | .leaseDeadline _ _ => walkSet ++ [.bypass, .now, .bootState]
  | .ownerReload _ _ _ => faultSet ++ busSet ++ [.now, .bootState, .bootProg, .image, .owners, .fwd]
  | .ownerTableFetch _ => faultSet ++ [.now, .bootState, .bootProg, .image, .owners, .fwd]
  | .preemptionTimer _ _ => groupSet ++ walkSet ++ [.bypass, .now, .bootState, .fresh]
  | .decisionTimer _ _ _ => groupSet ++ walkSet ++ [.bypass, .now, .bootState, .fresh]
  | .reprojectionPresent _ _ => [.now, .irqs, .presents, .parts, .queues, .mem, .ret]
  | .groupRestore _ _ => walkSet ++ [.now, .sent, .vis]
  | .tileLoad _ _ _ => faultSet ++ [.now, .sent, .herd, .tus, .arr, .vis, .steep, .err, .fresh]
  | .tileResolve _ _ _ _ => faultSet ++ [.now, .sent, .herd, .tus, .arr, .vis, .steep, .err]
  | .parkGrant _ _ => [.parts, .vis]
  | .callMessage _ _ _ => [.sent, .ret, .setter]
  | .groupLaunch _ _ => groupSet ++ walkSet ++ [.now, .fresh]
  | .exit _ _ => groupSet ++ [.herd]
  | .brk _ _ _ => groupSet ++ [.now]
  | .bar _ _ _ _ => groupSet ++ [.now]
  | .barClu _ _ _ => groupSet
  | .fenceSys _ _ => groupSet
  | .fenceBlk _ _ => groupSet
  | .fenceClu _ _ => groupSet
  | .lockacq _ _ _ _ _ _ _ _ => groupSet ++ [.now]
  | .lockrel _ _ _ _ _ _ => groupSet ++ [.now]
  | .atomic _ _ _ _ _ _ _ _ _ _ => groupSet ++ [.now]
  | .load _ _ _ _ _ _ _ _ _ => groupSet ++ [.now]
  | .store _ _ _ _ _ _ _ => groupSet ++ [.now]
  | .tex _ _ _ _ _ _ _ => groupSet ++ [.now]
  | .texlod _ _ _ _ _ _ _ _ => groupSet ++ [.now]
  | .scorer _ _ _ _ _ _ _ _ => groupSet ++ [.now]
  | .integer _ _ _ _ _ _ _ _ _ _ => groupSet
  | .float _ _ _ _ _ _ _ _ => groupSet
  | .convert _ _ _ _ _ _ _ => groupSet
  | .specialFunction _ _ _ _ _ => groupSet
  | .laneExchange _ _ _ _ _ _ => groupSet ++ [.fresh]
  | .branch _ _ _ => groupSet
  | .divergencePush _ _ _ _ _ => groupSet ++ [.now]
  | .divergencePop _ _ _ => groupSet ++ [.now]
  | .programCall _ _ _ _ => groupSet
  | .halt _ _ _ => busSet ++ [.irqs, .sent, .parts, .mem, .slots, .banks, .herd, .tus, .arr, .ret, .setter, .vis, .faults, .steep, .err]
  | .resume _ _ _ => busSet ++ [.irqs, .sent, .parts, .mem, .slots, .banks, .herd, .tus, .arr, .ret, .setter, .vis, .faults, .steep, .err]
  | .stepGroup _ _ _ => busSet ++ [.irqs, .sent, .parts, .mem, .slots, .banks, .herd, .tus, .arr, .ret, .setter, .vis, .faults, .steep, .err]
  | .restart _ _ _ => busSet ++ [.irqs, .sent, .parts, .mem, .slots, .banks, .herd, .tus, .arr, .ret, .setter, .vis, .faults, .steep, .err]
  | .endGroup _ _ _ => busSet ++ [.irqs, .sent, .parts, .mem, .slots, .banks, .herd, .tus, .arr, .ret, .setter, .vis, .faults, .steep, .err]
  | .groupRead _ _ _ _ _ => busSet ++ [.irqs, .sent, .parts, .mem, .slots, .banks, .herd, .tus, .arr, .ret, .setter, .vis, .faults, .steep, .err]
  | .groupWrite _ _ _ _ _ => busSet ++ [.irqs, .sent, .parts, .mem, .slots, .banks, .herd, .tus, .arr, .ret, .setter, .vis, .faults, .steep, .err]
  | .translationWalk _ _ _ _ _ _ _ => walkSet ++ [.now, .sent, .vis, .tlb]
  | .mmuInval _ _ _ => busSet ++ [.parts, .tlb]
  | .invalComplete _ _ => [.now, .irqs, .parts, .mem, .tlb]
  | .faultReplay _ _ _ _ => walkSet ++ busSet ++ [.now, .sent, .presents, .bootState, .image, .vis, .owners, .tlb]
  | .faultAbort _ _ _ _ => walkSet ++ busSet ++ [.now, .sent, .presents, .bootState, .image, .vis, .owners, .tlb]
  | .fqAck _ _ _ _ => busSet ++ [.now, .irqs, .parts, .mem]
  | .unlock _ _ => busSet
  | .unlockTimeout => [.lock]
  | .csrWrite _ _ => groupSet ++ walkSet ++ busSet ++ [.die, .bypass, .now, .presents, .bootState, .chip, .mcode, .ptab, .caddies, .applied, .image, .pwr, .owners, .tlb, .dbg, .fresh]
  | .csrReadClear _ => busSet ++ [.bypass, .irqs, .bootState, .chip, .mcode, .ptab, .caddies, .image, .parts, .queues, .banks, .herd, .arr, .pwr, .owners, .fwd, .steep, .trace, .dbg, .err]
  | .voteScrub _ _ => [.bypass, .irqs, .bootState, .chip, .lock, .csr, .ptab, .caddies, .owners, .err]
  | .cfgGo _ _ => busSet ++ [.irqs, .bootProg, .image, .mem]
  | .cfgImageRead _ => [.irqs, .bootProg, .csr, .ptab, .caddies, .applied, .image, .parts, .mem, .herd, .arr, .pwr, .ret, .fwd]
  | .cfgSectionApply _ => [.irqs, .ptab, .caddies, .applied, .image, .parts, .mem, .arr, .pwr, .ret, .fwd]
  | .cfgCancel _ _ => busSet ++ [.irqs, .bootProg, .image, .mem]
  | .freeze _ _ => busSet ++ [.irqs, .bootProg, .image, .mem]
  | .ptabWrite _ _ _ _ => busSet ++ [.irqs, .ptab, .image, .mem]
  | .caddySwitch _ _ => traceSet ++ busSet ++ [.caddies]
  | .mcGo _ _ => busSet ++ [.irqs, .bootState, .bootProg, .mcode]
  | .mcLoadDone _ => [.irqs, .bootState, .bootProg, .mcode]
  | .mmuGo _ _ _ => busSet ++ [.bypass, .now, .irqs, .links, .bootProg, .ptab, .applied, .image, .parts, .mem, .herd, .arr, .pwr, .ret, .sess, .fwd, .steep]
  | .chipId _ _ _ => busSet ++ [.bypass, .now, .irqs, .links, .bootProg, .chip, .sess, .fwd, .steep]
  | .fuseReread _ _ => busSet ++ [.bypass, .irqs, .bootState, .bootProg, .chip, .banks, .arr, .steep, .err]
  | .tuFence _ _ => traceSet ++ busSet ++ [.herd, .tus, .arr, .steep]
  | .tuUnfence _ _ => traceSet ++ busSet ++ [.herd, .tus, .arr, .steep]
  | .tuSelfTestDone _ _ _ => traceSet ++ [.tus, .arr]
  | .sleepHalf _ _ _ => busSet ++ [.arr]
  | .halfAsleep _ => traceSet ++ [.tus, .arr]
  | .wakeHalf _ _ _ => busSet ++ [.arr]
  | .halfAwake _ _ => traceSet ++ [.herd, .tus, .arr, .steep]
  | .unitOut _ _ => busSet ++ [.irqs, .banks, .arr]
  | .unitReturn _ _ => busSet ++ [.irqs, .banks, .arr]
  | .unitReturnDone _ _ _ => [.slots, .banks, .arr, .strain, .setter]
  | .powerEstimate _ _ => traceSet ++ [.now, .pwr, .steep]
  | .traceEnable _ _ => busSet ++ [.trace]
  | .blkHeel _ _ _ => busSet ++ [.now, .image, .mem, .arr, .steep]
  | .blockDrainDone => [.irqs, .ptab, .applied, .image, .parts, .mem, .herd, .tus, .arr, .pwr, .ret, .setter, .fwd, .steep]
  | .blkTimeout _ => sessSet ++ traceSet ++ [.slots, .herd, .tus, .arr, .strain, .setter, .err]
  | .dbgRead _ _ _ => walkSet ++ busSet ++ [.bypass, .bootState, .banks, .owners, .dbg, .fresh]
  | .dbgWrite _ _ => walkSet ++ busSet ++ [.bypass, .bootState, .banks, .owners, .dbg, .fresh]
  | .powerDown => resetSet ++ [.irqs]
  | .junctionLimitClear _ => [.die]
  | .routerFault _ _ => traceSet ++ [.herd, .tus, .arr, .steep]
  | .messageRelay _ _ _ _ => [.now, .irqs, .links, .owners, .sess, .fwd, .steep]


/-! ## Invariants -/

/-- Memory is in its canonical form: addresses strictly rising, no zero byte listed. -/
def State.memOk (s : State) : Prop := s.mem.wf = true

/-! ## When a command of a kind can act, and how a command of a queue stands -/

/-- A write of the global block is carried out: out of reset, not in ERROR, and not from a partition function (R21, R477, R513). -/
def State.takesGlobal (s : State) (req : Requester) : Prop :=
  s.live = true ∧ s.errored = false ∧ ∀ p, req ≠ .part p

/-- A write of partition `p`'s page is carried out: out of reset, not in ERROR, the page not closed by a reset of the partition, and not from
another partition's function (R21, R477, R513, R521). -/
def State.takesPage (s : State) (req : Requester) (p : PartId) : Prop :=
  s.live = true ∧ s.errored = false ∧ (s.part p).resetting = false ∧ ∀ q, req = .part q → q = p

/-- UNLOCKED after a write that the requester made (R486). -/
def lockAfter (req : Requester) (u : Tri Bool) : Tri Bool :=
  match req with
  | .part _ => u
  | .mgmt => .all false
  | .debug => .all false

/-- The queue of `r` holds the command numbered `r.seq`, and every record it holds of it satisfies `f`. -/
def State.cmdIs (s : State) (r : CmdRef) (f : Cmd → Prop) : Prop :=
  (∃ c ∈ (s.queue r.q).cmds, c.seq = r.seq) ∧ ∀ c ∈ (s.queue r.q).cmds, c.seq = r.seq → f c

/-- The command has ended with the status. -/
def State.endedWith (s : State) (r : CmdRef) (st : W16) : Prop := s.cmdIs r (fun c => c.phase = .finished ∧ c.status = st)

/-- The command has ended with all its items done. -/
def State.endedDone (s : State) (r : CmdRef) : Prop := s.cmdIs r (fun c => c.phase = .finished ∧ c.done = c.total)

/-- The command runs. -/
def State.isRunning (s : State) (r : CmdRef) : Prop := s.cmdIs r (fun c => c.phase = .running)

/-- The timer runs and is due at `due` (R401). -/
def State.timed (s : State) (tm : Timer) (due : Nat) : Prop := ∃ e ∈ s.steep.lists[tm.list], (tm, due) ∈ e.chain

/-- The timer does not run. -/
def State.untimed (s : State) (tm : Timer) : Prop := ∀ due, ¬ s.timed tm due

/-- An interrupt message: every message raised before, and one more. -/
def State.raises (s t : State) (i : Irq) : Prop := t.pins.irqs = s.pins.irqs ++ [i]

/-! ## Next states that several statements name -/

/-- A write of the management function or the debug port that reached its register (R21, R486): the lock is closed and the response is ok. -/
def State.written (s : State) : State :=
  { s with csr := { s.csr with unlocked := .all false }, pins := { s.pins with resp := .ok } }

/-- A write that the lock or write-once ignored (R487, R493): LOCK_VIOL is set, LV_CNT counts it, and vector 6 rises under LV_IRQ where
LOCK_VIOL was 0. -/
def State.violated (s : State) : State :=
  { s with
    csr := { s.csr with unlocked := .all false, lockViol := true, lvCnt := satInc s.csr.lvCnt }
    pins := { s.pins with resp := .ok, irqs := s.pins.irqs ++ (if !s.csr.lockViol && s.csr.lvIrq then [⟨true, 0, 6⟩] else []) } }

/-- The copies of every voted item agree (R485). -/
def State.votesAgree (s : State) : Prop :=
  (∀ (p : PartId) (w : Fin 4), ((s.cfg.ptab[p])[w]).force.agree = true ∧ ((s.cfg.ptab[p])[w]).shadow.agree = true) ∧ s.fwd.ownBase.agree = true ∧ s.fwd.epoch.agree = true
    ∧ s.cfg.sel.agree = true ∧ s.csr.unlocked.agree = true ∧ s.boot.caps.agree = true

/-- The number of a voted item in VOTE_LAST (R492). -/
def voteItemNo (i : VoteItem) : Nat :=
  match i with
  | .ptab _ _ => 0
  | .ptabShadow _ _ => 0
  | .ownBase => 1
  | .ownEpoch => 2
  | .caddySel => 3
  | .unlocked => 4
  | .caps => 5

/-- A vote corrected one copy (R485, R512): VOTE_CORR and CORR_CNT count it, VOTE_LAST names the item. -/
def State.voteCorrected (s : State) (i : VoteItem) : State :=
  { s with csr := { s.csr with voteCorr := satInc s.csr.voteCorr, voteLast := BitVec.ofNat 4 (voteItemNo i) }
           err := { s.err with corrCnt := satInc s.err.corrCnt } }

/-- The group at `g` issues an instruction and its fetch translates for execution (R269, R440). -/
def State.fetches (s : State) (g : GroupRef) (x : Group) : Prop :=
  s.issuing g = some x ∧ ∃ pa, s.translate x.part .exec x.codeVa = .ok pa

/-- The state an instruction acts on once its words are read: a word corrected on the way is counted (R268, R512). -/
def State.seen (s : State) (check : Check) : State := s.doIf (decide (check = .corrected)) State.errCorrected

/-- An instruction of the group at `g` completed and left it as `y`; a group that was stepping is HALTED again, its rays HALT_WAIT (R303, R306). -/
def State.ranTo (s : State) (g : GroupRef) (y : Group) : State :=
  if y.stepping then (s.setGroup g (some { y with stepping := false, state := .halted })).rayHalt y true else s.setGroup g (some y)

/-- `y` is `x` behind its instruction with `regs` registers from the destination written and nothing else: the active lanes of vector
registers, or scalar registers from the first active lane (R269, R276, R280). -/
def Group.wrote (x y : Group) (d : Dst) (regs : Nat) (f : Nat → Fin 32 → W32) : Prop :=
  y = { x with pc := x.pc + 8, vregs := y.vregs, sregs := y.sregs }
  ∧ match d with
    | .v n => y.sregs = x.sregs
        ∧ ∀ m l, y.vreg m l = if n ≤ m ∧ m < n + regs ∧ x.on l = true then f (m - n) l else x.vreg m l
    | .s n => y.vregs = x.vregs
        ∧ ∀ m, y.sreg m = match x.lanes with
          | [] => x.sreg m
          | l :: _ => if n ≤ m ∧ m < n + regs then f (m - n) l else x.sreg m

end Sys2Proof.Machine
end

