-- ==== Sys2Proof/Certificates/Slice0/Obligations.lean ====
section
/-!
DEFINITION. Sys2Proof/Certificates/Slice0/Obligations.lean: the statements about the block, for the provers. Each docstring names the rules its
clauses rest on; where a clause rests on a choice of the model, it names the log entry.
-/

open Sys2Proof
open Sys2Proof.Machine

/-! ## Reset, the queue of commands, whole-machine rules -/

/-- Reset leaves the state the spec gives: RK_BOOT_PROG in BOOTING at step 1 with no stall (R504), UNLOCKED 0 (R491), the bypass closed
(R18, R19), no interrupt raised, RK_ERR_LOG not valid (R514), every queue and every partition page disabled and without an error
(R49, R464), the Kennel, the Herder, the Retriever, the Strainer, the Setter and the VIS empty (R84, R523), every session DOWN (R392), no
open fault (R444), no timer (R400); and no command waits. -/
def Obligations.ResetLeavesTheBlockEmpty : Prop :=
  let s := State.reset
  s.pending = [] ∧ s.boot.state = stBooting ∧ s.boot.step = 1 ∧ s.boot.stall = 0 ∧ s.csr.unlocked.get = false ∧ s.pins.bypass = true
    ∧ s.pins.irqs = [] ∧ s.err.log = 0 ∧ s.mem = [] ∧ s.kennel.slots = [] ∧ s.herd.store = [] ∧ s.herd.unmatched = [] ∧ s.ret.entries = []
    ∧ s.strain.bundles = [] ∧ s.vis.passes = [] ∧ s.mmu.faults = [] ∧ s.mmu.tlb = []
    ∧ (∀ q, (s.queue q).enabled = false ∧ (s.queue q).errStop = false ∧ (s.queue q).cmds = [])
    ∧ (∀ p, (s.part p).partError = false ∧ (s.part p).resetting = false ∧ (s.part p).mmuEnable = .both false)
    ∧ (∀ l, (s.sess l).state = ssDown) ∧ (∀ g, s.group? g = none) ∧ (∀ i, s.steep.lists[(i : Fin 4)] = [])

/-- One step takes the command at the front of the queue and carries it out on the state whose queue is the rest. -/
def Obligations.StepRunsTheFrontCommand : Prop :=
  ∀ (i : Instr) (r : List Instr) (s : State), step { s with pending := i :: r } = exec i { s with pending := r }

/-- With no command waiting the block idles (DESIGN CHOICE, log 16: the opcode table has no row for a tick). -/
def Obligations.EmptyQueueIdles : Prop := ∀ s : State, s.pending = [] → step s = .next s

/-- Memory at reset is in its canonical form. -/
def Obligations.ResetMemoryCanonical : Prop := State.reset.memOk

/-- Every step keeps memory in its canonical form, from every state that has it: addresses strictly rising, and no byte listed that equals
what an unlisted address reads as. -/
def Obligations.StepKeepsMemoryCanonical : Prop :=
  ∀ s t : State, s.memOk → step s = .next t → t.memOk

/-- The frame of every command: what the command is not listed to change in `Comp.ofInstr` (Safety.lean) is as it was, and so is the queue of
commands that wait. The list names, per command, the registers, buffers, flags and pins its rules write. -/
def Obligations.EveryCommandKeepsItsFrame : Prop :=
  ∀ (i : Instr) (s t : State), exec i s = .next t → t.pending = s.pending ∧ ∀ c, c ∉ Comp.ofInstr i → c.same s t

/-- No command stops the block: every command, on every state, answers a next state. -/
def Obligations.EveryCommandAnswersNext : Prop := ∀ (i : Instr) (s : State), ∃ t, exec i s = .next t

/-! ## Power, reset, pins and links of the die -/

/-- POWER_ON, DIE_RESET, POWER_DOWN in reset and FORCED_RESET_ABANDON leave every register of the block at its reset value: what the die reports and
drives, messages sent, memory and the waiting commands stay, and RK_ERR_LOG stays but where power was off or is lost (R500, R514, R523,
R524). -/
def Obligations.ResetsPutEveryRegisterAtItsResetValue : Prop :=
  let after := fun (s : State) (on forced : Bool) (log : W64) =>
    { State.reset with
      pending := s.pending
      mem := s.mem
      fresh := s.fresh
      pins := { s.pins with powered := on, inReset := true, forced := forced, bypass := true, resp := .none }
      err := { Err.reset with log := log } }
  ∀ s : State,
    (s.pins.powered = false → exec .powerOn s = .next (after s true false 0))
    ∧ (s.pins.powered = true → exec .dieReset s = .next (after s true false s.err.log))
    ∧ (s.pins.powered = true → s.pins.inReset = true → exec .powerDown s = .next (after s false false 0))
    ∧ (s.pins.powered = true → s.pins.forced = true → s.pins.inReset = false →
        exec .forcedResetAbandon s = .next (after s true true s.err.log))

/-- SUPPLY_FAULT out of reset, and POWER_DOWN out of reset, are errors of class BLOCK: the block enters ERROR, the bypass is asked to close, the
error is captured where RK_ERR_LOG held none of class BLOCK, and vector 7 rises where enabled (R500, R513, R514). -/
def Obligations.SupplyLossOutOfResetIsABlockError : Prop :=
  let blockError := fun (s t : State) (domain : Nat) =>
    t.boot.state = stError ∧ t.pins.bypass = true
      ∧ t.err.log = (if bit s.err.log 63 = true ∧ fldN s.err.log 61 2 = 3 then s.err.log else errWord 3 0x14 0 domain 0)
      ∧ t.pins.irqs = s.pins.irqs ++ (if s.err.blockIrq then [⟨true, 0, 7⟩] else [])
  ∀ s : State, s.pins.powered = true → s.pins.inReset = false →
    (∀ d, ∃ t, exec (.supplyFault d) s = .next t ∧ blockError s t (domainNo d))
    ∧ ∃ t, exec .powerDown s = .next t ∧ blockError s t (if s.hasVis then 6 else 1)

/-- JUNCTION_LIMIT and JUNCTION_LIMIT_CLEAR set and clear the report of one half and change nothing else (R424). -/
def Obligations.JunctionReportsReachTheirHalf : Prop :=
  ∀ s : State,
    exec (.junctionLimit .west) s = .next { s with pins := { s.pins with hotWest := true } }
    ∧ exec (.junctionLimit .east) s = .next { s with pins := { s.pins with hotEast := true } }
    ∧ exec (.junctionLimitClear .west) s = .next { s with pins := { s.pins with hotWest := false } }
    ∧ exec (.junctionLimitClear .east) s = .next { s with pins := { s.pins with hotEast := false } }

/-- RESET_RELEASE and FORCED_RESET_RELEASE: the block leaves reset and learns the port map, the links and the timebase. Where the three fuse readings
agree, no storage test fails and a TU passes, RK_CAPS and the mirror hold the fuses, and start-up waits at step 5 for the microcode (R501,
R506, R524). -/
def Obligations.ReleaseLearnsTheDieAndWaitsForMicrocode : Prop :=
  ∀ (info : ReleaseInfo) (s : State), s.pins.powered = true → s.pins.inReset = true →
    info.fuseAgree = true → info.sramFatal = none → passedTus info ≠ 0 →
    ∃ t, exec (if s.pins.forced then .forcedResetRelease info else .resetRelease info) s = .next t
      ∧ t.pins.inReset = false ∧ t.pins.forced = false ∧ t.pins.portMap = info.portMap ∧ t.pins.linkUp = info.linksUp
      ∧ t.pins.now = max s.pins.now info.timebase
      ∧ t.caps = capsOf info.caps ∧ t.boot.spareFused = info.spareFused ∧ t.boot.sramRepairs = info.sramRepairs
      ∧ t.boot.step = 5 ∧ t.boot.stall = 4 ∧ t.boot.state = s.boot.state

/-- LINK_UP and LINK_DOWN take the die's report; a link that goes down takes its session, where no query sent over it is
out, to DOWN with reason LINK_DOWN (R17, R392). -/
def Obligations.LinkReportsReachTheSession : Prop :=
  ∀ (l : LinkId) (t : Nat) (s : State),
    (∃ u, exec (.linkUp l t) s = .next u ∧ u.pins.linkUp = setBit s.pins.linkUp l.val true ∧ u.pins.now = max s.pins.now t)
    ∧ ∃ u, exec (.linkDown l t) s = .next u ∧ u.pins.linkUp = setBit s.pins.linkUp l.val false ∧ u.pins.now = max s.pins.now t
        ∧ (s.active = true → s.leashesOn l = [] → (u.sess l).reason = rsLinkDown ∧ (u.sess l).state = ssDown)

/-- A partition reset begins by FLR or by RK_PART_RESET.GO: RESETTING rises, the deadline becomes IDLE, and nothing of the partition waits in the
Herder (R518, R519, R522); PARTITION_RESET_DONE, once every request is acknowledged, clears it and sets RESET_DONE, leaves no Retriever entry of
the partition, and reports an FLR's completion (R518). -/
def Obligations.PartitionResetBeginsAndEnds : Prop :=
  ∀ (p : PartId) (s : State),
    let begun := fun (t : State) => (t.part p).resetting = true ∧ (t.part p).deadline.state = dlIdle
      ∧ (∀ e ∈ t.herd.store, e.part ≠ p) ∧ (∀ w ∈ t.herd.unmatched, w.part ≠ p)
    (s.live = true → s.errored = false → (s.part p).resetting = false →
      (∀ req, ∃ t, exec (.partitionReset req true p) s = .next t ∧ begun t ∧ (t.part p).flr = true)
      ∧ (∀ req, (∀ q, req = .part q → q = p) →
          ∃ t, exec (.partitionReset req false p) s = .next t ∧ begun t ∧ (t.part p).flr = false ∧ t.pins.resp = .ok))
    ∧ (s.live = true → s.errored = false → (s.part p).resetting = true → s.settled p = true →
      ∃ t, exec (.partitionResetDone p) s = .next t ∧ (t.part p).resetting = false ∧ (t.part p).resetDone = true
        ∧ (∀ e ∈ t.ret.entries, e.part ≠ p)
        ∧ t.pins.flrDone = (if (s.part p).flr then s.pins.flrDone ++ [p] else s.pins.flrDone))

/-- RK_BLK_RESET.GO under the open lock: issue stops, the shim is asked to close the bypass, and the lock closes; under the closed lock the write is
a lock violation. It acts in ERROR too (R19, R486, R487, R513, R524). -/
def Obligations.ForcedResetNeedsTheOpenLock : Prop :=
  ∀ (req : Requester) (s : State), s.live = true → (∀ p, req ≠ .part p) →
    ∃ t, exec (.blkReset req) s = .next t ∧ t.csr.unlocked = .all false ∧ t.pins.resp = .ok
      ∧ (s.isUnlocked = true → t.pins.forced = true ∧ t.pins.bypass = true ∧ t.csr.lvCnt = s.csr.lvCnt)
      ∧ (s.isUnlocked = false → t.pins.forced = s.pins.forced ∧ t.csr.lockViol = true ∧ t.csr.lvCnt = satInc s.csr.lvCnt)

/-! ## Queues (02) -/

/-- RK_QCTL (R47): with ENABLE 1 on a disabled queue, under a valid descriptor, the queue is enabled with head, tail and completion write position 0,
and ring, class and completion area as the descriptor gives them; with ENABLE 0 admission stops, and ENABLED stays until every admitted
command is complete; RESUME clears ERR_STOP and leaves ENABLE; QUEUE_DISABLE_DONE clears ENABLED once no admitted command is
left. Each write gives the queue its CPL_VEC. -/
def Obligations.QueueControlEnablesDisablesAndResumes : Prop :=
  ∀ (req : Requester) (p : PartId) (slot : Fin 64) (q : QueueId) (v : W32) (s : State),
    s.takesPage req p → s.slotQueue p slot.val = some q →
    (∀ env d, s.ready = true → (s.queue q).enable = false → (s.part (s.qPart q)).mmuEnable.force = true →
      s.vslot (s.qPart q) ((s.queue q).desc.toNat * 64) = .ok d → qdescOk d = true →
      ∃ t, exec (.queueEnable req p slot v env) s = .next t ∧ t.pins.resp = .ok
        ∧ (let x := t.queue q
           x.enable = true ∧ x.enabled = true ∧ x.head = 0 ∧ x.tail = 0 ∧ x.cplWrite = 0 ∧ x.vec = fld v 8 4 ∧ x.fetched = []
            ∧ x.ring = rb d 0 8 ∧ x.entries = rb d 8 4 ∧ x.prio = fld d 96 2 ∧ x.stopOnErr = bit d 98
            ∧ x.cplAddr = rb d 16 8 ∧ x.cplEntries = rb d 24 4 ∧ x.cmds = (s.queue q).cmds)
        ∧ ∀ k, k ≠ q → t.queue k = s.queue k)
    ∧ ((s.queue q).enable = true →
      ∃ t, exec (.queueDisable req p slot v) s = .next t ∧ t.pins.resp = .ok
        ∧ (t.queue q).enable = false ∧ (t.queue q).enabled = (s.queue q).enabled ∧ (t.queue q).cmds = (s.queue q).cmds
        ∧ (t.queue q).vec = fld v 8 4 ∧ ∀ k, k ≠ q → t.queue k = s.queue k)
    ∧ (∃ t, exec (.queueResume req p slot v) s = .next t ∧ t.pins.resp = .ok
        ∧ (t.queue q).errStop = false ∧ (t.queue q).enable = (s.queue q).enable ∧ (t.queue q).enabled = (s.queue q).enabled
        ∧ (t.queue q).cmds = (s.queue q).cmds ∧ (t.queue q).vec = fld v 8 4 ∧ ∀ k, k ≠ q → t.queue k = s.queue k)
    ∧ (s.ready = true → (s.queue q).enabled = true → (s.queue q).enable = false → (s.queue q).cmds = [] →
      ∃ t, exec (.queueDisableDone q) s = .next t ∧ (t.queue q).enabled = false ∧ (t.queue q).fetched = []
        ∧ ∀ k, k ≠ q → t.queue k = s.queue k)

/-- A Whistle by RK_QWHISTLE or by a scalar word of a cell (R44; also R10, R40, R43, R48): a value below twice the ring's size that moves the tail
forward, at most the ring's size ahead of the head, becomes the tail; any other sets BAD_WHISTLE and leaves the tail. Nothing else of any queue
changes. A scalar word spends its sender's credit; without credit it does not come in. A scalar Whistle for a slot with no queue is ignored. -/
def Obligations.WhistleMovesTheTailForward : Prop :=
  let whistled := fun (s t : State) (q : QueueId) (v : Nat) =>
    let x := s.queue q
    (if x.enabled = true ∧ v < 2 * x.entries ∧ aheadOf x v ≤ x.entries ∧ aheadOf x x.tail ≤ aheadOf x v
      then t.queue q = { x with tail := v } else t.queue q = { x with badWhistle := true })
    ∧ ∀ k, k ≠ q → t.queue k = s.queue k
  ∀ (p : PartId) (s : State), s.ready = true → (s.part p).partError = false → (s.part p).resetting = false →
    (∀ req (slot : Fin 64) (v : W32) q, s.takesPage req p → s.slotQueue p slot.val = some q →
      ∃ t, exec (.whistle req p slot v) s = .next t ∧ t.pins.resp = .ok ∧ whistled s t q (fldN v 0 17))
    ∧ ∀ (port : PortId) (w : W32), s.portOwner port = some p →
      (s.hasCredit port .scalar 1 = true → ∃ t, exec (.scalarWhistle port w) s = .next t
        ∧ t.ret.spent = (s.useCredit port .scalar 1).ret.spent
        ∧ (∀ q, s.slotQueue p (fldN w 26 6) = some q → whistled s t q (fldN w 0 17))
        ∧ (s.slotQueue p (fldN w 26 6) = none → t.queues = s.queues))
      ∧ (s.hasCredit port .scalar 1 = false → exec (.scalarWhistle port w) s = .next s)

/-- COMMAND_FETCH reads the next command of the entry under way of the queue that the arbitration of R52 chooses; where the check of the queue state
it reads fails, the block enters ERROR and the queue stays as it is (R511, R513). COMMAND_ADMIT admits the oldest fetched command with the number, caddy, class, modes and bindings in force (R42, R53); a SPLAT command whose tile rectangle is not zero reads
its descriptor with it and ends where that fails its checks (R314, R315). -/
def Obligations.FetchAndAdmissionTakeCommandsInOrder : Prop :=
  ∀ (q : QueueId) (env : Env) (s : State),
    let s1 := s.at env.t
    (s1.ready = true → s1.fetchChoice = some q → env.hw.lists = .failed →
      ∃ t, exec (.commandFetch env) s = .next t ∧ t.boot.state = stError ∧ t.queues = s.queues)
    ∧ (∀ f raw, s1.ready = true → s1.fetchChoice = some q → env.hw.lists ≠ .failed → (s1.queue q).cur = some f →
      s1.vslot (s1.qPart q) (f.addr + 64 * f.next) = .ok raw →
      ∃ t, exec (.commandFetch env) s = .next t
        ∧ (t.queue q).fetched = (s.queue q).fetched ++ [⟨f.entry, f.next, raw, 0⟩] ∧ (t.queue q).cmds = (s.queue q).cmds
        ∧ (f.next + 1 < f.count → (t.queue q).cur = some { f with next := f.next + 1 } ∧ (t.queue q).head = (s.queue q).head)
        ∧ (f.count ≤ f.next + 1 → (t.queue q).cur = none ∧ (t.queue q).head = ((s.queue q).head + 1) % (2 * (s.queue q).entries)))
    ∧ (∀ f l, s1.ready = true → s1.qHeld q = false → cplFull (s1.queue q) = false → (s.queue q).fetched = f :: l →
      (∀ d ∈ (s.queue q).cmds, d.seq ≠ s.nextSeq) →
      let st := if f.st ≠ 0 then f.st else checkCmd s1 (s.qPart q) q f.raw
      let reads := st = 0 ∧ isSplat (opOf f.raw) = true ∧ zeroRect f.raw = false
      let taken := fun (t : State) (c : Cmd) =>
        (t.queue q).fetched = l ∧ (t.queue q).cmds = (s.queue q).cmds ++ [c]
          ∧ c.raw = f.raw ∧ c.entry = f.entry ∧ c.index = f.index ∧ c.seq = s.nextSeq ∧ c.caddy = s.sel ∧ c.gen = (s.caddy s.sel).gen
          ∧ c.cls = (s.queue q).prio ∧ c.hiers = (s.part (s.qPart q)).hiers ∧ c.progs = (s.part (s.qPart q)).progs
      (¬ reads → ∃ t c, exec (.commandAdmit q env) s = .next t ∧ taken t c
        ∧ c.status = st ∧ c.phase = (if st = 0 then .admitted else .finished))
      ∧ ∀ d, reads → s1.vdesc (s.qPart q) (rb f.raw 24 8) = .ok d →
        ∃ t c, exec (.commandAdmit q env) s = .next t ∧ taken t c ∧ c.descs = [(0, d)]
          ∧ c.status = splatCheck c d ∧ c.phase = (if c.status = 0 then .admitted else .finished))

/-- COMPLETION_RECORD (R55 to R57, R74, R75): the oldest command of a queue, finished and with every write acknowledged, leaves the queue; where CPL or
IRQ is set or its status is an error its record is written to the completion area with the PHASE of its pass and the write position
moves on, and IRQ raises the queue's vector. An error of a queue with STOP_ON_ERR stops admission. With the trace off nothing else is written
and no other vector rises (a caddy that the command no longer pins is traced, R408). -/
def Obligations.CompletionRetiresTheOldestCommand : Prop :=
  ∀ (q : QueueId) (env : Env) (c : Cmd) (l : List Cmd) (s : State),
    let s1 := s.at env.t
    let p := s.qPart q
    let x := s.queue q
    s.ready = true → x.cplParked = false → (s.part p).resetting = false → x.cmds = c :: l → (∀ d ∈ l, d.seq ≠ c.seq) →
    c.phase = .finished → c.writes = 0 → c.presents = false →
    (c.record = false → isError c.status = false →
      ∃ t, exec (.completionRecord q env) s = .next t ∧ (t.queue q).cmds = l ∧ (t.queue q).cplWrite = x.cplWrite
        ∧ (s.trace.enable = false → t.mem = s.mem ∧ t.pins.irqs = s.pins.irqs) ∧ ∀ k, k ≠ q → t.queue k = s.queue k)
    ∧ (∀ s2, c.record = true ∨ isError c.status = true →
      s1.vwrite p (x.cplAddr + 64 + 32 * (x.cplWrite % x.cplEntries)) (completionBytes s1 c (if x.cplWrite < x.cplEntries then 1 else 0)) = .ok s2 →
      ∃ t, exec (.completionRecord q env) s = .next t ∧ (t.queue q).cmds = l
        ∧ (t.queue q).cplWrite = (x.cplWrite + 1) % (2 * x.cplEntries)
        ∧ (t.queue q).errStop = (x.errStop || (isError c.status && x.stopOnErr))
        ∧ (s.trace.enable = false → t.mem = s2.mem ∧ t.pins.irqs = s.pins.irqs ++ (if irqBit c.raw then [⟨false, p, x.vec⟩] else []))
        ∧ ∀ k, k ≠ q → t.queue k = s.queue k)

/-- PROGRESS_SHADOW (R79): when the command that the shadow reports changes, and else when 1,024 ns have passed since it was written, 64 bytes
with the command's tag, opcode, entry, index, counts and time are written at the start of the completion area, and the 1,024 ns begin again. No
other queue and no command changes. With nothing to report, or the same command before its time, only the time goes on. -/
def Obligations.ProgressShadowIsWrittenOnAChange : Prop :=
  ∀ (q : QueueId) (env : Env) (s : State),
    let s1 := s.at env.t
    s.ready = true → (s.queue q).enabled = true → (s.queue q).cplParked = false → (s.part (s.qPart q)).resetting = false →
    (reported (s.queue q) = none → exec (.progressShadow q env) s = .next s1)
    ∧ ∀ tag op entry index done total, reported (s.queue q) = some (tag, op, entry, index, done, total) →
      let due := s.timerDue (.progress q) = none ∨ s.timerFires (.progress q) env.t = true
      (((s.queue q).shown = some (tag, entry, index) ∧ ¬ due) → exec (.progressShadow q env) s = .next s1)
      ∧ (∀ s2, (s.queue q).shown ≠ some (tag, entry, index) ∨ due →
        s1.vwrite (s.qPart q) (s.queue q).cplAddr (shadowBytes s1 (tag, op, entry, index, done, total)) = .ok s2 →
        ∃ t, exec (.progressShadow q env) s = .next t ∧ t.mem = s2.mem ∧ t.timed (.progress q) (s1.pins.now + 1024)
          ∧ t.queue q = { s.queue q with shown := some (tag, entry, index) } ∧ ∀ k, k ≠ q → t.queue k = s.queue k)

/-! ## Synchronisation and state commands (02, 11) -/

/-- NOP ends at once; TRACE_RAYS begins; FENCE ends once what it waits for is complete (R58, R60, R68). Each changes its own command's record and no
other state. -/
def Obligations.NopTraceAndFenceChangeOnlyTheirCommand : Prop :=
  ∀ (q : QueueId) (c : Cmd) (s : State),
    let r : CmdRef := ⟨q, c.seq⟩
    let only := fun (t : State) => ∃ f, t = s.updCmd r f
    (s.beginning q 0x00 = some c → ∃ t, exec (.nop q) s = .next t ∧ t.endedDone r ∧ only t)
    ∧ (s.beginning q 0x01 = some c → ∃ t, exec (.traceRays q) s = .next t ∧ t.isRunning r ∧ only t)
    ∧ (s.beginning q 0x40 = some c → s.fenceMet q c = true → ∃ t, exec (.fence q) s = .next t ∧ t.endedDone r ∧ only t)
    ∧ (s.beginning q 0x40 = some c → s.fenceMet q c = false → exec (.fence q) s = .next s)

/-- WAIT_VALUE (R68, R69): with its condition met it ends and its timers with it; else it runs, its poll is due 1,024 ns later and, with TIMEOUT_US
not zero, its timeout after TIMEOUT_US. A poll that finds the condition met ends it, any other leaves it waiting with the next poll due 1,024 ns
later; at the timeout it ends with WAIT_TIMEOUT. An evaluation writes no memory. -/
def Obligations.WaitValueWaitsPollsAndTimesOut : Prop :=
  ∀ (q : QueueId) (env : Env) (c : Cmd) (s : State),
    let s1 := s.at env.t
    let r : CmdRef := ⟨q, c.seq⟩
    let met := fun v => waitHolds (rb c.raw 24 1) v (rb c.raw 16 8) = true
    let ended := fun (t : State) => t.endedDone r ∧ t.untimed (.waitPoll q) ∧ t.untimed (.waitValue q)
    (∀ v, s1.beginning q 0x41 = some c → s1.vnum (s1.qPart q) (rb c.raw 8 8) 8 = .ok v →
      ∃ t, exec (.waitValue q env) s = .next t ∧ t.mem = s.mem ∧ (met v → ended t)
        ∧ (¬ met v → t.isRunning r ∧ t.timed (.waitPoll q) (s1.pins.now + 1024)
          ∧ (rb c.raw 28 4 ≠ 0 → t.timed (.waitValue q) (s1.pins.now + 1000 * rb c.raw 28 4))))
    ∧ (∀ v, let f := s.fire (.waitPoll q) env.t;
        s.ready = true → s.timerFires (.waitPoll q) env.t = true → f.waiting q = some c →
        f.vnum (f.qPart q) (rb c.raw 8 8) 8 = .ok v →
        ∃ t, exec (.waitValuePoll q env) s = .next t ∧ t.mem = f.mem ∧ (met v → ended t)
          ∧ (¬ met v → t.queues = f.queues ∧ t.timed (.waitPoll q) (f.pins.now + 1024)))
    ∧ (let f := s.fire (.waitValue q) env.t;
        s.ready = true → s.timerFires (.waitValue q) env.t = true →
        (f.queue q).cmds.find? (fun c => opOf c.raw == 0x41 && c.phase == .running) = some c →
        ∃ t, exec (.waitTimeout q env.t) s = .next t ∧ t.endedWith r stWaitTimeout ∧ t.untimed (.waitPoll q) ∧ t.untimed (.waitValue q)
          ∧ t.mem = f.mem)

/-- SIGNAL_VALUE (R70): with no earlier command of its queue incomplete, the 64-bit word at its address becomes the value, the sum modulo 2^64 or
the unsigned maximum, and the command ends; no byte outside the word changes but by a WAIT_VALUE's own faults, and no WAIT_VALUE is
waiting here. -/
def Obligations.SignalValueWritesItsWord : Prop :=
  ∀ (q : QueueId) (env : Env) (c : Cmd) (pa : Nat) (s : State),
    let s1 := s.at env.t
    let old := s.mem.num pa 8
    let val := rb c.raw 16 8
    s.memOk → s1.beginning q 0x42 = some c → (∀ d ∈ (s.queue q).cmds, c.seq ≤ d.seq) →
    s1.translate (s1.qPart q) .atomic (rb c.raw 8 8) = .ok pa →
    (∀ k d, d ∈ (s.queue k).cmds → opOf d.raw ≠ 0x41) →
    ∃ t, exec (.signalValue q env) s = .next t
      ∧ t.mem.num pa 8 = (if rb c.raw 24 1 = 0 then val else if rb c.raw 24 1 = 1 then (old + val) % 2 ^ 64 else max old val)
      ∧ (∀ a, a < pa ∨ pa + 8 ≤ a → t.mem.get a = s.mem.get a)
      ∧ t.cmdIs ⟨q, c.seq⟩ (fun d => d.phase = .finished ∧ d.done = d.total)

/-- HEEL (R71, R411, R414, R415, R458): it begins to drain, its queue admits nothing behind it, and its limit runs: TIMEOUT_US, and 10,000 µs where
that is zero. While its scope is not empty HEEL_DRAINED does nothing; once it is, the HEEL ends with its work done. At its limit, with its scope
not empty, it ends with DRAIN_TIMEOUT; where a fault of its scope is then open its partition enters PARTITION_ERROR with reason DRAIN too, and
where none is, no partition changes: no boundary occurs. A HEEL whose scope is empty, or whose limit has not come, does not time out. -/
def Obligations.HeelDrainsOrTimesOut : Prop :=
  ∀ (q : QueueId) (c : Cmd) (s : State),
    let r : CmdRef := ⟨q, c.seq⟩
    (∀ t, (s.at t).beginning q 0x43 = some c →
      ∃ u, exec (.heel q t) s = .next u ∧ u.cmdIs r (fun d => d.phase = .running ∧ d.hold = true) ∧ u.qHeld q = true
        ∧ u.timed (.heel q) ((s.at t).pins.now + 1000 * (if rb c.raw 12 4 = 0 then 10000 else rb c.raw 12 4)))
    ∧ (s.ready = true → s.heelOf q = some c →
      (s.scopeEmpty (s.qPart q) (s.inScope q (rb c.raw 8 1)) (rb c.raw 8 1 == 2) = true →
        ∃ u, exec (.heelDrained q) s = .next u ∧ u.endedDone r)
      ∧ (s.scopeEmpty (s.qPart q) (s.inScope q (rb c.raw 8 1)) (rb c.raw 8 1 == 2) = false → exec (.heelDrained q) s = .next s))
    ∧ (∀ t, let f := s.fire (.heel q) t
      s.ready = true → f.heelOf q = some c →
      ((s.timerFires (.heel q) t = false ∨ s.heelMet q = true) → exec (.drainTimeout q t) s = .next s)
      ∧ (s.timerFires (.heel q) t = true → s.heelMet q = false →
        ∃ u, exec (.drainTimeout q t) s = .next u ∧ u.endedWith r stDrainTimeout
          ∧ (let open_ := f.scopeFault (f.qPart q) (f.inScope q (rb c.raw 8 1)) (rb c.raw 8 1 == 2)
             (open_ = true → (u.part (f.qPart q)).partError = true ∧ (u.part (f.qPart q)).peReason = 3)
             ∧ (open_ = false → u.parts = s.parts))))

/-- BATCH_BOUNDARY (R414, R480 to R482, R461): at a partition's boundary, where COMMIT_HOLD is 0, every field of its page that a batch boundary
applies takes its shadow, all together: the plainly shadowed ones as they stand, FLOW_BUDGET held to RET_QUOTA, CONSULT to a map and SIZE to the
address space, and the fault queue's write position returns to 0 where its base or size changes; at an engine's, the engine's default overflow
mode does; at the block's, the shadowed fields of the global block do. Where COMMIT_HOLD is 1 no field changes, and where the scope is at no
boundary nothing does. That FLOW_BUDGET, CONSULT and SIZE take a shadow that has not been written since the last boundary from the value in force is
the model's reading (log 189). -/
def Obligations.BoundariesApplyTheShadows : Prop :=
  (∀ (p : PartId) (s : State), s.ready = true →
    (s.partIdle p = true → (s.part p).hold = false → ∃ t, exec (.batchBoundary (.partition p)) s = .next t
      ∧ (let x := s.part p
         let y := t.part p
         y.delivWait = .both x.delivWait.shadow ∧ y.waveMax = .both x.waveMax.shadow ∧ y.ovfSplat = .both x.ovfSplat.shadow
          ∧ y.ovfTraverse = .both x.ovfTraverse.shadow ∧ y.spinLimit = .both x.spinLimit.shadow ∧ y.saveBase = .both x.saveBase.shadow
          ∧ y.winBase = .both x.winBase.shadow ∧ y.mapAddr = .both x.mapAddr.shadow ∧ y.reissueMax = .both x.reissueMax.shadow
          ∧ y.extendMax = .both x.extendMax.shadow ∧ y.leaseUs = .both x.leaseUs.shadow ∧ y.mmuEnable = .both x.mmuEnable.shadow
          ∧ y.mmuRoot = .both x.mmuRoot.shadow ∧ y.fqBase = .both x.fqBase.shadow
          ∧ y.flowBudget = ⟨x.flowBudget.shadow, t.pairFlow p x.dueFlow⟩ ∧ y.flowNew = false
          ∧ y.consult = ⟨x.consult.shadow, x.dueConsult && decide (x.mapAddr.shadow ≠ 0)⟩ ∧ y.consultNew = false
          ∧ y.fqSize = ⟨x.fqSize.shadow, BitVec.ofNat 4 (fqSizeFit (4096 * x.fqBase.shadow.toNat) x.dueSize.toNat)⟩ ∧ y.sizeNew = false
          ∧ y.fqWrite = (if y.fqBase.force ≠ x.fqBase.force ∨ y.fqSize.force ≠ x.fqSize.force then 0 else x.fqWrite)))
    ∧ (s.engineBoundary p 0 = true → (s.part p).hold = false → ∃ t, exec (.batchBoundary (.engine p 0)) s = .next t
      ∧ t = s.updPart p (fun x => { x with ovfTraverse := .both x.ovfTraverse.shadow }))
    ∧ (s.engineBoundary p 2 = true → (s.part p).hold = false → ∃ t, exec (.batchBoundary (.engine p 2)) s = .next t
      ∧ t = s.updPart p (fun x => { x with ovfSplat := .both x.ovfSplat.shadow }))
    ∧ ((s.part p).hold = true →
      (s.partIdle p = true → exec (.batchBoundary (.partition p)) s = .next (s.cachesClean p))
      ∧ ∀ e, exec (.batchBoundary (.engine p e)) s = .next s)
    ∧ (s.partIdle p = false → exec (.batchBoundary (.partition p)) s = .next s)
    ∧ ∀ e, s.engineBoundary p e.val = false → exec (.batchBoundary (.engine p e)) s = .next s)
  ∧ ∀ s : State, s.ready = true →
    (s.blockIdle = true → s.csr.hold = false → ∃ t, exec (.batchBoundary .block) s = .next t
      ∧ t.herd = { s.herd with idleIssue := .both s.herd.idleIssue.shadow, packMax := .both s.herd.packMax.shadow,
                               packWait := .both s.herd.packWait.shadow }
      ∧ t.pwr = { s.pwr with mode := .both s.pwr.mode.shadow }
      ∧ t.arr = { s.arr with dist := .both s.arr.dist.shadow, imbSet := .both s.arr.imbSet.shadow, imbTu := .both s.arr.imbTu.shadow })
    ∧ (s.blockIdle = false ∨ s.csr.hold = true → exec (.batchBoundary .block) s = .next s)

/-- BIND_HIERARCHY and BIND_PROGRAM (R72, R73, R271): address 0 empties the slot; else a kind that the command's caddy enables, or a program with a valid
header whose needs the partition's cores meet, is bound to it; a kind that is not enabled ends the command with NOT_BOUND. -/
def Obligations.BindingsSetAndEmptyTheirSlot : Prop :=
  ∀ (q : QueueId) (env : Env) (c : Cmd) (s : State),
    let p := s.qPart q
    let r : CmdRef := ⟨q, c.seq⟩
    let s1 := s.at env.t
    (s.beginning q 0x50 = some c →
      ∃ t, exec (.bindHierarchy q) s = .next t ∧ t.mem = s.mem
        ∧ (rb c.raw 16 8 = 0 → t.endedDone r ∧ (t.part p).hiers = assocDel (rb c.raw 8 2) (s.part p).hiers)
        ∧ (rb c.raw 16 8 ≠ 0 → bit (s.caddyEnt c.caddy p).kinds (rb c.raw 10 1) = true → t.endedDone r
            ∧ (t.part p).hiers = assocPut (rb c.raw 8 2) ⟨BitVec.ofNat 3 (rb c.raw 10 1), rb c.raw 16 8⟩ (s.part p).hiers)
        ∧ (rb c.raw 16 8 ≠ 0 → bit (s.caddyEnt c.caddy p).kinds (rb c.raw 10 1) = false → t.endedWith r stNotBound ∧ t.parts = s.parts))
    ∧ (s1.beginning q 0x51 = some c → rb c.raw 16 8 = 0 →
      ∃ t, exec (.bindProgram q env) s = .next t ∧ t.endedDone r ∧ (t.part p).progs = assocDel (rb c.raw 8 1) (s.part p).progs)
    ∧ (∀ h g, s1.beginning q 0x51 = some c → rb c.raw 16 8 ≠ 0 → s1.vslot p (rb c.raw 16 8) = .ok h → progOfHeader c.raw h = some g →
      (g.usesTex = true → s.hasTex = true) → s.coreSet p c.caddy ≠ [] →
      (1 < max 1 (rb c.raw 11 1) → s.coreSets p c.caddy (max 1 (rb c.raw 11 1)) ≠ []) →
      ∃ t, exec (.bindProgram q env) s = .next t ∧ t.endedDone r ∧ (t.part p).progs = assocPut (rb c.raw 8 1) g (s.part p).progs)

/-- SET_DEADLINE (R73, R342, R346): deadline 0 disarms and leaves the state IDLE, once no re-projection is under way; a deadline with re-projection
whose partition's share is below 64 TUs ends with QUOTA; any other is armed, replacing what was armed, with its pre-emption and decision times,
and the command ends; where the pre-emption time has passed FIRING begins at once. That a zero deadline waits for a re-projection is the
model's choice (log 115). -/
def Obligations.SetDeadlineArmsOrDisarms : Prop :=
  ∀ (q : QueueId) (t : Nat) (c : Cmd) (s : State),
    let s1 := s.at t
    let p := s.qPart q
    let r : CmdRef := ⟨q, c.seq⟩
    let d := rb c.raw 8 8
    let armed : Deadline := ⟨dlArmed, none, true, bit c.raw 193, bit c.raw 192⟩
    s1.beginning q 0x52 = some c →
    (d = 0 → (s.part p).reproj = none → ∃ u, exec (.setDeadline q t) s = .next u ∧ u.endedDone r ∧ (u.part p).deadline.state = dlIdle)
    ∧ (d = 0 → (s.part p).reproj ≠ none → exec (.setDeadline q t) s = .next s1)
    ∧ (d ≠ 0 → bit c.raw 192 = true → s1.shareTus p < 64 →
      ∃ u, exec (.setDeadline q t) s = .next u ∧ u.endedWith r stQuota ∧ u.parts = s.parts)
    ∧ (d ≠ 0 → ¬ (bit c.raw 192 = true ∧ s1.shareTus p < 64) →
      (s1.pins.now ≤ d - rb c.raw 16 4 →
        ∃ u, exec (.setDeadline q t) s = .next u ∧ u.endedDone r ∧ (u.part p).deadline = armed
          ∧ u.timed (.preempt p) (d - rb c.raw 16 4) ∧ (bit c.raw 192 = true → u.timed (.decision p) (d - rb c.raw 20 4)))
      ∧ (d - rb c.raw 16 4 < s1.pins.now →
        ∃ w : State, (w.part p).deadline = armed ∧ (bit c.raw 192 = true → w.timed (.decision p) (d - rb c.raw 20 4))
          ∧ exec (.setDeadline q t) s = .next ((w.enterFiring s1.env0 p).finishOk r)))

/-! ## Probe, BUILD, SPLAT and data-movement commands (02, 04, 06, 09) -/

/-- PROBE and PROBE_REDUCE (R63, R72, R81): with their hierarchy (and values) bound, they begin and keep the descriptors they read, and nothing but
the command's record changes; with no binding of a fitting kind they end NOT_BOUND, once the items they will not take in leave no gap in an
ordered flow. -/
def Obligations.ProbesBeginUnderTheirBindings : Prop :=
  ∀ (q : QueueId) (env : Env) (c : Cmd) (s : State),
    let s1 := s.at env.t
    let r : CmdRef := ⟨q, c.seq⟩
    let unbound := fun (i : Instr) => ∃ t, exec i s = .next t ∧ t = ((s1.skipRest env (s.qPart q) r).finish r stNotBound).delivLast
      ∧ (orderedBit c.raw = false → s.ret.flows = [] → s.ret.delivs = [] → t.endedWith r stNotBound ∧ t.mem = s.mem)
    let begun := fun (i : Instr) (l : List (Nat × Desc)) => ∃ t, exec i s = .next t
      ∧ t.cmdIs r (fun x => x.phase = .running ∧ x.descs = l) ∧ ∃ f, t = (s1.updCmd r f).begin r
    (s1.beginning q 2 = some c →
      (boundTo c.hiers (rb c.raw 34 2) [1, 3] = none → unbound (.probe q env))
      ∧ ∀ h d, boundTo c.hiers (rb c.raw 34 2) [1, 3] = some h → s1.vdesc (s.qPart q) h.addr = .ok d → begun (.probe q env) [(0, d)])
    ∧ (s1.beginning q 3 = some c →
      (boundTo c.hiers (rb c.raw 34 2) [1, 3] = none → unbound (.probeReduce q env))
      ∧ ∀ h, boundTo c.hiers (rb c.raw 34 2) [1, 3] = some h →
        (boundTo c.hiers (rb c.raw 36 2) [4] = none → unbound (.probeReduce q env))
        ∧ ∀ v d e, boundTo c.hiers (rb c.raw 36 2) [4] = some v → s1.vdesc (s.qPart q) h.addr = .ok d → s1.vdesc (s.qPart q) v.addr = .ok e →
            begun (.probeReduce q env) [(0, d), (1, e)])

/-- BUILD_BOX and BUILD_REFIT (R141, R142, R146, R147, R153): a build that its descriptor allows empties ROOT, builds the tree of its records' Morton
order, writes its image in order and ends with its work done; a collapsed tree that needs more nodes than NODE_CAP writes NODE_USED and UPDATE_SEQ
and ends BAD_FIELD; a refit writes leaves and boxes from the new records on the topology in memory; a descriptor that does not fit ends
BAD_FIELD with memory as it was. What the engine leaves in scratch is an operand; where R146 leaves the tree open the model's choices and free
values stand (log 126). -/
def Obligations.BoxBuildsWriteTheirImage : Prop :=
  ∀ (q : QueueId) (env : Env) (c : Cmd) (d : Desc) (scratch : List (Nat × Byte)) (s : State),
    let s1 := s.at env.t
    let p := s.qPart q
    let r : CmdRef := ⟨q, c.seq⟩
    let n := rb c.raw 16 4
    let dst := rb c.raw 24 8
    let kind := rb c.raw 40 1 % 8 + 1
    let badField := fun (i : Instr) => ∃ u, exec i s = .next u ∧ u.endedWith r stBadField ∧ u.mem = s.mem
    s1.vdesc p dst = .ok d →
    (s1.beginning q 0x10 = some c →
      (d.softOk 0 false = false → badField (.buildBox q scratch env))
      ∧ ∀ recs, d.softOk 0 false = true →
        let a := s1.vwriteSome p (emptyFirst dst d ++ scratchWrites c (32 * n + 2 ^ 22) scratch) 0
        let leafMax := 4 * 2 ^ (rb c.raw 40 1 / 16 % 4)
        let base := collapsed (recs.map (·.box)) leafMax
        let need := (layTree kind ((parseTree base).getD [])).next
        let t := buildTree (bit c.raw 323) kind leafMax d.cap recs base
        let b := a.s.vwriteSome p (if d.cap < need then [wr (dst + 16) 4 need, seqWrite dst d] else boxImage c d recs t) 0
        a.bad = none → a.s.inputRecs p c = .ok recs → b.bad = none →
        ∃ u, exec (.buildBox q scratch env) s = .next u ∧ u.mem = b.s.mem
          ∧ (need ≤ d.cap → u.endedDone r) ∧ (d.cap < need → u.endedWith r stBadField) ∧ ∀ k, k ≠ q → u.queue k = s.queue k)
    ∧ (s1.beginning q 0x13 = some c →
      (d.softOk 0 true = false ∨ d.primCount ≠ n ∨ d.primKind ≠ kind → badField (.buildRefit q scratch env))
      ∧ ∀ recs ns leaves, d.softOk 0 true = true → d.primCount = n → d.primKind = kind →
        s1.inputRecs p c = .ok recs → s1.memWalk p true d.base (d.used + 1) (if d.empty then [] else [(d.root, 1)]) = .ok (some ns) →
        let ks := leafKids ns
        s1.memLeaves p d.base (ks.map (fun k => (k.2.idx, leafUnits k.2.kind k.2.n))) = .ok leaves →
        let places := if kind = 2 then instPlaces (fun i => instUnit (recs.getD i ⟨0, none, 0⟩)) (unitInsts leaves ks) (List.range n) else []
        let img := refitImage kind recs (refitPrims kind leaves places ks 0) ns
        let b := s1.vwriteSome p (scratchWrites c (8 * d.used + 2 ^ 20) scratch ++ unitWrites d.base 128 img.1
          ++ [wr (dst + 40) 4 (recs.filter (fun x => x.box.isNone)).length] ++ rootBoxWrites dst img.2 ++ [seqWrite dst d]) 0
        b.bad = none →
        ∃ u, exec (.buildRefit q scratch env) s = .next u ∧ u.mem = b.s.mem ∧ u.endedDone r ∧ ∀ k, k ≠ q → u.queue k = s.queue k)

/-- BUILD_KEYS, BUILD_INSERT, BUILD_COMPACT and BUILD_SPLIT (R139, R141, R142, R147 to R157): a command whose descriptors, sizes and records fit writes
its image in order and ends with its work done; one whose destination or source does not fit, or whose first key meets R139, ends BAD_FIELD and
memory stays. COMPACT and SPLIT empty the destination before they walk the source; the tree that COMPACT writes is stated of a source that is not
sharded. Each entry of a BUILD_INSERT list is one step; an entry
with no keys is passed over. -/
def Obligations.KeyBuildsWriteTheirImage : Prop :=
  ∀ (q : QueueId) (env : Env) (c : Cmd) (d src : Desc) (scratch : List (Nat × Byte)) (s : State),
    let s1 := s.at env.t
    let p := s.qPart q
    let r : CmdRef := ⟨q, c.seq⟩
    let n := rb c.raw 16 4
    let dst := rb c.raw 24 8
    let dim := rb c.raw 56 2
    let badField := fun (i : Instr) => ∃ u, exec i s = .next u ∧ u.endedWith r stBadField ∧ u.mem = s.mem
    let writes := fun (i : Instr) (w : Wrote) =>
      w.bad = none → ∃ u, exec i s = .next u ∧ u.mem = w.s.mem ∧ u.endedDone r ∧ ∀ k, k ≠ q → u.queue k = s.queue k
    (s1.beginning q 0x11 = some c → s1.vdesc p dst = .ok d →
      (d.softOk 1 false = false ∨ s1.fmtOn c.caddy p d.kfmt = false ∨ d.keyCap < n ∨ d.cap < keyCapUnits d.keyCap →
        badField (.buildKeys q scratch env))
      ∧ ∀ pn, d.softOk 1 false = true → s1.fmtOn c.caddy p d.kfmt = true → n ≤ d.keyCap → keyCapUnits d.keyCap ≤ d.cap →
        let keep := bit c.raw 320
        let pm := pRows dim pn
        let keys := s1.keysOf p ⟨d.kfmt, dim, rb c.raw 8 8, d.scaleAddr⟩ pm 0 n
        s1.vnum p (rb c.raw 48 8) (64 * dim) = .ok pn →
        (deltaBad pm = true ∨ keys = .ok none → badField (.buildKeys q scratch env))
        ∧ ∀ ys, deltaBad pm = false → keys = .ok (some ys) →
          let bs := leafBoxes (deltaOf pm) n ys
          let box := fun j => bs.getD j ⟨([], []), 0⟩
          let t := keyTree 0 ((leafPlaces keep n box).map (fun j => (j, box j)))
          writes (.buildKeys q scratch env) (s1.vwriteSome p (emptyFirst dst d ++ scratchWrites c (320 * cdiv n 32 + 2 ^ 20) scratch
            ++ unitWrites d.base 640 t.2.2
            ++ [wr (dst + 2) 2 (if keep then 2 else 0), wr (dst + 16) 4 t.2.2.length, wr (dst + 38) 1 t.2.1,
                wr (dst + 66) 2 dim, wr (dst + 72) 4 n, wr (dst + 80) 8 (rb c.raw 8 8), wr (dst + 96) 8 (rb c.raw 48 8),
                wr (dst + 104) 4 (deltaOf pm).toNat, seqWrite dst d, wr (dst + 4) 4 t.1]) 0))
    ∧ (s1.runOrBegin q 0x12 = some c → c.descs = [] →
      (∀ e, bit c.raw 320 = true → s1.vnum p (rb c.raw 8 8 + 16 * c.next) 16 = .ok e → by_ e 8 4 = 0 →
        ∃ u, exec (.buildInsert q env) s = .next u ∧ u.mem = s.mem ∧ u.isRunning r ∧ ∃ y ∈ (u.queue q).cmds, y.seq = c.seq ∧ y.next = c.next + 1)
      ∧ ∀ dest keys, (bit c.raw 320 = false ∧ dest = dst ∧ keys = n)
          ∨ (∃ e, bit c.raw 320 = true ∧ s1.vnum p (rb c.raw 8 8 + 16 * c.next) 16 = .ok e ∧ dest = by_ e 0 8 % 2 ^ 57 ∧ dest % 64 = 0
              ∧ keys = by_ e 8 4 ∧ 0 < keys ∧ c.done + keys ≤ n) →
        s1.vdesc p dest = .ok d →
        (d.softOk 1 true = false ∨ d.keyCap - d.keyCount < keys ∨ d.dim ≠ dim → badField (.buildInsert q env))
        ∧ ∀ pn, d.softOk 1 true = true → keys ≤ d.keyCap - d.keyCount → d.dim = dim → s1.vnum p d.pAddr (64 * d.dim) = .ok pn →
          let x := s1.insKeys p d.base d.cap ⟨d.kfmt, d.dim, d.keyAddr, d.scaleAddr⟩ (pRows d.dim pn) d.delta keys 0
            ⟨d.root, d.used, d.depth, d.keyCount, []⟩
          (x.2.2 = some none → x.2.1 = 0 → badField (.buildInsert q env))
          ∧ ∀ s2, x.2.2 = none → s1.vwriteAll p (unitWrites d.base 640 x.1.nodes ++ insFields dest d x.1) = .ok s2 →
            ∃ u, exec (.buildInsert q env) s = .next u ∧ u.mem = s2.mem ∧ (∀ k, k ≠ q → u.queue k = s.queue k)
              ∧ (c.total ≤ c.done + x.2.1 → u.endedDone r)
              ∧ (c.done + x.2.1 < c.total → u.isRunning r
                ∧ ∃ y ∈ (u.queue q).cmds, y.seq = c.seq ∧ y.next = c.next + 1 ∧ y.done = c.done + x.2.1))
    ∧ (s1.beginning q 0x14 = some c → s1.vdesc p dst = .ok d → s1.vdesc p (rb c.raw 8 8) = .ok src →
      let re := bit c.raw 320
      (src.source = false ∨ d.softOk src.kind false = false ∨ n ≠ src.used ∨ areasOverlap d src = true ∨ (re = true ∧ d.isBox = true) →
          badField (.buildCompact q scratch env))
      ∧ (src.source = true → d.softOk src.kind false = true → n = src.used → areasOverlap d src = false →
        let a := s1.vwriteSome p (emptyFirst dst d ++ scratchWrites c (4 * n + 2 ^ 20) scratch) 0
        a.bad = none →
        (∀ parts leaves, re = false → src.isSharded = false →
          a.s.memWalks p d.isBox src.base (src.used + 1) (rootNode d.isBox src.root) = .ok (some parts) →
          let ns := parts.flatMap id
          let lens := boxLeafUnits d.isBox ns
          let lay := layParts d.isBox parts ⟨[], [], 0⟩
          lay.1.next ≤ d.cap → a.s.memLeaves p src.base lens = .ok leaves →
          writes (.buildCompact q scratch env) (a.s.vwriteSome p (copyWrites d.isBox d.base lay.1 (fun _ => none) ns (cleanLeaves ns leaves) lens
            ++ copiedFields dst src
            ++ [wr (dst + 2) 2 (4 + src.byte 2 1 / 2 % 2 * 2), wr (dst + 16) 4 lay.1.next, seqWrite dst d, wr (dst + 4) 4 (newRoot d.isBox lay.1 src.root)]) 0))
        ∧ (∀ parts, re = true → d.isBox = false → src.isSharded = false →
          a.s.memWalks p false src.base (src.used + 1) (rootNode false src.root) = .ok (some parts) →
          let bs := bottomBoxes (parts.flatMap id)
          let single := if src.root / 2 ^ 22 = 1 then [src.root % 2 ^ 22] else []
          let box := fun j => ((bs.find? (fun b => b.1 == j)).map (·.2)).getD ⟨([], []), 0⟩
          let place := leafPlaces false src.keyCount box
          let t := keyTree 0 (place.map (fun j => (j, box j)))
          place.all (fun j => bs.any (fun b => b.1 == j) || single.contains j) = true → t.2.2.length ≤ d.cap →
          writes (.buildCompact q scratch env) (a.s.vwriteSome p (unitWrites d.base 640 t.2.2 ++ copiedFields dst src
            ++ [wr (dst + 2) 2 4, wr (dst + 16) 4 t.2.2.length, wr (dst + 38) 1 t.2.1, seqWrite dst d, wr (dst + 4) 4 t.1]) 0))))
    ∧ (s1.beginning q 0x15 = some c → s1.vdesc p dst = .ok d → s1.vdesc p (rb c.raw 8 8) = .ok src → ∀ pv, s1.vnum p (rb c.raw 48 8) 64 = .ok pv →
      (splitPlan pv = none ∨ src.source = false ∨ src.isSharded = true ∨ n ≠ src.used ∨ areasOverlap src d = true → badField (.buildSplit q scratch env))
      ∧ ∀ maxNodes idBase a parts leaves, splitPlan pv = some (maxNodes, idBase, a) →
        let box := src.isBox
        let subtrees := rb c.raw 58 4
        src.source = true → src.isSharded = false → d.softOk (src.kind + 2) false = true → n = src.used → idBase + subtrees ≤ 65536 →
        areasOverlap src d = false → src.used * unitBytes box + subtrees * 2 ^ a ≤ d.cap * unitBytes box →
        let w1 := s1.vwriteSome p (emptyFirst dst d ++ scratchWrites c (8 * n + 2 ^ 20) scratch) 0
        w1.bad = none →
        w1.s.memWalks p box src.base (src.used + 1) (rootNode box src.root) = .ok (some parts) →
        let ns := parts.flatMap id
        let found := splitCands box ns subtrees maxNodes (ns.length + 1) ((rootNode box src.root).flatMap (internalKids box ns))
        let cands := (ns.map (·.unit)).filter found.contains
        let top := nodesFrom box ns (fun u => cands.contains u) (2 * ns.length + 1) (rootNode box src.root)
        let subs := cands.map (subtreeNodes box ns)
        let lay := laySubs box d.base a subs (layPart box false (fun u => cands.contains u) 0 top ⟨[], [], 0⟩)
        cands.length ≤ subtrees → (maxNodes ≠ 0 → ∀ x ∈ cands, subtreeUnits box ns x ≤ maxNodes) → lay.1.next ≤ d.cap →
        w1.s.memLeaves p src.base (boxLeafUnits box ns) = .ok leaves →
        writes (.buildSplit q scratch env) (w1.s.vwriteSome p (splitImage c src d ns cands idBase lay (cleanLeaves ns leaves) subs) 0))

/-- SPLAT_FWD and SPLAT_BWD (R312, R313, R315, R318, R326 to R332, R347): a zero rectangle ends at once; a command whose summary copies are not granted
waits; one that begins takes its first pass, and a pass that bins its last primitive goes on to its tiles, one whose bins are full waits for
parking or, where it has a grant, renders what it holds; a backward pass that has room writes its gradients and status bytes. -/
def Obligations.SplatPassesBinTheirPrimitives : Prop :=
  ∀ (q : QueueId) (env : Env) (s : State),
    let s1 := s.at env.t
    s1.works (s.qPart q) = true →
    (∀ c, s1.binning q 0x20 = none → s1.beginning q 0x20 = some c →
      (zeroRect c.raw = true →
        ∃ t, exec (.splatFwd q env) s = .next t ∧ t.endedDone ⟨q, c.seq⟩ ∧ t.mem = s.mem)
      ∧ ∀ d, zeroRect c.raw = false → assocGet 0 c.descs = some d → c.presents = true → s1.summaryWaits (s.qPart q) = true →
        exec (.splatFwd q env) s = .next s1)
    ∧ (∀ s2 c v, s2 = s1 ∨ (s1.binning q 0x20 = none ∧ ∃ c0, s1.beginning q 0x20 = some c0 ∧ s2 = s1.beginSplat env q c0) →
      s2.binning q 0x20 = some (c, v) →
      let r : CmdRef := ⟨q, c.seq⟩
      (∀ s3 y, s2.binFrom c.raw true (rb c.raw 16 4 - v.prim) v = .done s3 y →
        exec (.splatFwd q env) s = .next (s3.updPass r (fun _ => { y with phase := .finally_, todo := y.active })))
      ∧ ∀ s3 y, s2.binFrom c.raw true (rb c.raw 16 4 - v.prim) v = .full s3 y →
        ∃ t, exec (.splatFwd q env) s = .next t
          ∧ (y.granted = 0 → t.vis.parkWait = s3.vis.parkWait ++ [⟨r, v.part, v.cls, none⟩]
              ∧ t.vis.passes = (s3.updPass r (fun _ => { y with phase := .waiting })).vis.passes)
          ∧ (y.granted ≠ 0 → t = s3.updPass r (fun _ => if y.held.isEmpty then y else { y with phase := .partly, todo := y.held })))
    ∧ (∀ order check c v s2 v1, check ≠ .failed → s1.binning q 0x21 = some (c, v) →
      (s1.seen check).binFrom c.raw false (rb c.raw 16 4) v = .done s2 v1 →
      let keep := bwdKeep v1 (s1.binOthers ⟨q, c.seq⟩) v1.active
      let waits := v1.active ≠ [] ∧ keep.1 = [] ∧ keep.2.1 = []
      (waits → exec (.splatBwd q order check env) s = .next (s1.seen check))
      ∧ ∀ l s3 fls s4, ¬ waits →
        let d := v1.target
        let bytes := l.map (fun x => (x.tile, bwdByte x fls)) ++ keep.2.1.map (fun t => (t, (8 : Byte)))
        s2.bwdTiles v1 c keep.1 = .ok l →
        s2.applyGrads v.part (ovfOf c.ovf) (rb c.raw 56 1 == 1) (rb c.raw 48 8) d.chans (bwdOrder order (bwdRecords l)) = .ok (s3, fls) →
        s3.vwriteAll v.part (if d.statusAddr = 0 then [] else bytes.map (fun b => (d.statusAddr + 64 + b.1, [b.2]))
          ++ (if c.last ≤ c.done + bytes.length then [(d.statusAddr, headerBytes v1)] else [])) = .ok s4 →
        ∃ t, exec (.splatBwd q order check env) s = .next t ∧ t.mem = s4.mem)

/-- COPY (R64) of bytes in one 4 KiB page of the destination, and RESIDENCY (R65, R340) of pages in the partition's window: the bytes, or the pages'
bits, are written and the command ends; pages outside the window end it BAD_FIELD with memory as it was. -/
def Obligations.CopyAndResidencyWriteTheirBytes : Prop :=
  ∀ (q : QueueId) (env : Env) (c : Cmd) (s : State),
    let s1 := s.at env.t
    let p := s.qPart q
    let r : CmdRef := ⟨q, c.seq⟩
    (∀ n bs s2, s1.runOrBegin q 0x30 = some c → c.done = 0 → rb c.raw 24 8 = n → 0 < n → rb c.raw 16 8 % 4096 + n ≤ 4096 →
      s1.vread p (rb c.raw 8 8) n = .ok bs → s1.vwrite p (rb c.raw 16 8) bs = .ok s2 →
      ∃ t, exec (.copy q n env) s = .next t ∧ t.mem = s2.mem ∧ t.endedDone r ∧ ∀ k, k ≠ q → t.queue k = s.queue k)
    ∧ (s1.beginning q 0x31 = some c →
      let base := 2 ^ 40 * (s.part p).winBase.force.toNat
      let va := rb c.raw 8 8
      let pages := rb c.raw 16 4
      let lo := (va - base) / 65536
      let map := 4096 * (s.part p).mapAddr.force.toNat + lo / 8
      (va < base ∨ base + 2 ^ 40 < va + 65536 * pages →
        ∃ t, exec (.residency q env) s = .next t ∧ t.endedWith r stBadField ∧ t.mem = s.mem)
      ∧ ∀ bs s2, base ≤ va → va + 65536 * pages ≤ base + 2 ^ 40 → s1.vread p map ((lo + pages + 7) / 8 - lo / 8) = .ok bs →
        s1.vwrite p map (markPages (lo / 8) lo (lo + pages) (rb c.raw 20 1 == 0) bs) = .ok s2 →
        ∃ t, exec (.residency q env) s = .next t ∧ t.mem = s2.mem ∧ t.endedDone r ∧ ∀ k, k ≠ q → t.queue k = s.queue k)

/-- FWD_SESSION OPEN and DRAIN (R67, R379, R382, R392) and OWNER_PUBLISH (R66, R361, R365): OPEN puts the link under the rule of R382 again; with the
link down it ends LINK_DOWN, with the session UP it ends, from
DOWN the session listens and the command waits, in any other state the command waits; DRAIN of a session that is DOWN ends, from UP the session drains; a publication stages
its table and waits for the ring, and an entry that breaks the table's rules ends it BAD_FIELD. -/
def Obligations.SessionCommandsMoveTheirSession : Prop :=
  ∀ (q : QueueId) (c : Cmd) (s : State),
    let r : CmdRef := ⟨q, c.seq⟩
    let l := sessLink c.raw
    (∀ time, (s.at time).beginning q 0x32 = some c → rb c.raw 9 1 = 0 →
      (bit s.pins.linkUp l.val = false → ∃ t, exec (.fwdSessionOpen q time) s = .next t ∧ t.endedWith r stLinkDown
          ∧ t.fwd = (s.updSess l (fun x => { x with auto := true })).fwd)
      ∧ (bit s.pins.linkUp l.val = true → (s.sess l).state = ssUp →
        ∃ t, exec (.fwdSessionOpen q time) s = .next t ∧ t.endedDone r ∧ (t.sess l).auto = true ∧ (t.sess l).state = ssUp)
      ∧ (bit s.pins.linkUp l.val = true → (s.sess l).state = ssDown →
        ∃ t, exec (.fwdSessionOpen q time) s = .next t ∧ t.isRunning r ∧ (t.sess l).auto = true ∧ (t.sess l).state = ssListen
          ∧ (t.sess l).expected = some (BitVec.ofNat 20 (rb c.raw 12 4)) ∧ (l, false, r) ∈ t.fwd.cmds)
      ∧ (bit s.pins.linkUp l.val = true → (s.sess l).state ≠ ssUp → (s.sess l).state ≠ ssDown →
        ∃ t, exec (.fwdSessionOpen q time) s = .next t ∧ t.isRunning r ∧ (t.sess l).auto = true ∧ (t.sess l).state = (s.sess l).state
          ∧ (l, false, r) ∈ t.fwd.cmds))
    ∧ (∀ time, (s.at time).beginning q 0x32 = some c → rb c.raw 9 1 = 1 →
      ((s.sess l).state = ssDown → ∃ t, exec (.fwdSessionDrain q time) s = .next t ∧ t.endedDone r ∧ (t.sess l).auto = false)
      ∧ ((s.sess l).state = ssUp → (s.sess l).doneSeen = false →
        ∃ t, exec (.fwdSessionDrain q time) s = .next t ∧ t.isRunning r ∧ (t.sess l).auto = false ∧ (t.sess l).state = ssDrain
          ∧ (l, true, r) ∈ t.fwd.cmds)
      ∧ ((s.sess l).state ≠ ssUp → (s.sess l).state ≠ ssDown →
        ∃ t, exec (.fwdSessionDrain q time) s = .next t ∧ t.isRunning r ∧ (t.sess l).auto = false ∧ (t.sess l).state = (s.sess l).state
          ∧ (l, true, r) ∈ t.fwd.cmds))
    ∧ (∀ env bs, (s.at env.t).beginning q 0x33 = some c → s.fwd.publish = none →
      (s.at env.t).vread (s.qPart q) (rb c.raw 8 8) (8 * rb c.raw 16 4) = .ok bs →
      let ws := words64 (rb c.raw 16 4) bs
      (ws.any ownBad = true → ∃ t, exec (.ownerPublish q env) s = .next t ∧ t.endedWith r stBadField ∧ t.fwd = s.fwd)
      ∧ (ws.any ownBad = false → ∃ t, exec (.ownerPublish q env) s = .next t ∧ t.isRunning r
          ∧ t.fwd.staging = some ⟨BitVec.ofNat 32 (rb c.raw 20 4), rb c.raw 16 4, indexed 0 ws⟩
          ∧ t.fwd.publish = some ⟨r, BitVec.ofNat 32 (rb c.raw 20 4), rb c.raw 16 4, false⟩))

/-! ## Rays (01, 03, 05) -/

/-- RAY_INTAKE (R10, R61, R89, R99, R125, R159), FETCH (R14, R163, R397, R398, R511) and LINE_FILL (R27, R163, R448): a well-formed ray of a usable hierarchy takes a free
Kennel slot and waits in the matching store for its root's line, and its command goes on to the next record; a record from the vector network is
taken as it comes against its sender's credit; the read of a line is issued once, when the block-wide list gives its entry the turn, to the port of
its address, which has a free place; an uncorrectable word of the matching store that it meets puts the block in ERROR instead; when the line is
there and its set of the NC has a way, the NC holds it and every item of its entry is ready, since now or, replayed, since its own time. -/
def Obligations.RaysEnterTheHerder : Prop :=
  (∀ (q : QueueId) (env : Env) (c : Cmd) (s : State),
    let s1 := s.at env.t
    let p := s.qPart q
    let r : CmdRef := ⟨q, c.seq⟩
    s1.works p = true → s.herd.store.length ≤ 31744 → (∀ d ∈ (s.queue q).cmds, d.seq = c.seq → d = c) → env.hw.addr = false →
    (∀ raw d h i s2,
      let slot := rb raw 42 2 % 1024
      let ray := mkRay c r raw d h.addr
      s1.intakeCmd q isTrace false = some c → orderedBit c.raw = false → s1.vslot p (rb c.raw 8 8 + 64 * c.next) = .ok raw →
      s1.badRay p c raw = false → emptyRay raw = false → assocGet slot c.hiers = some h → (h.kind = 0 ∨ h.kind = 2) →
      assocGet slot c.descs = none → s1.vdesc p h.addr = .ok d → d.usable h.kind.toNat = .ok → s1.underBudget p ray.flow = true →
      s1.kAdmit env p [.ray ray] = some ([i], s2) →
      ∃ t, exec (.rayIntake q none env) s = .next t ∧ t.ray? i = some { ray with line := nodeVa ray / 128 }
        ∧ (∃ e ∈ t.herd.store, e.part = p ∧ e.line = nodeVa ray / 128 ∧ ∃ w ∈ e.items, w.item = .ray i)
        ∧ ∃ y ∈ (t.queue q).cmds, y.seq = c.seq ∧ y.next = c.next + 1)
    ∧ (∀ w, let port := srcPort c.raw
      s1.intakeCmd q isTrace true = some c → s1.orderTurn q c = true → s1.portLive port = true → s1.hasCredit port .vector 1 = true →
      (s1.takeRay env p c r w).advanced q c = true →
      exec (.rayIntake q (some w) env) s = .next ((s1.takeRay env p c r w).useCredit port .vector 1)))
  ∧ (∀ (p : PartId) (line : Nat) (env : Env) (e : MatchEntry) (s : State),
    let s1 := (s.at env.t).seen env.hw.lists
    let res := s1.resident p (line * 128) (match e.items with | w :: _ => s1.itemCtx w.item 0 | [] => ⟨1, none, 0, 0, 0, 0, 0, 0⟩)
    s1.entry? p line = some e → s1.unfetched e = true →
    (env.hw.lists = .failed → ∃ t, exec (.fetch p line env) s = .next t ∧ t.boot.state = stError ∧ t.herd = s.herd)
    ∧ ∀ pa, env.hw.lists ≠ .failed → res.1 = true → res.2.translate p .read (line * 128) = .ok pa →
      (res.2.lineChoice = some e → s1.portReads (portOf pa) < 2048
        ∧ ∃ t, exec (.fetch p line env) s = .next t ∧ t.herd.reads = s.herd.reads ++ [(p, line, portOf pa)] ∧ t.herd.store = s.herd.store)
      ∧ (res.2.lineChoice ≠ some e → exec (.fetch p line env) s = .next s1))
  ∧ (∀ (p : PartId) (line : Nat) (port : PortId) (e : MatchEntry) (s : State),
    s.live = true → (p, line, port) ∈ s.herd.reads → s.entry? p line = some e → e.items ≠ [] →
    (s.ncFill p line = none → exec (.lineFill p line) s = .next s)
    ∧ (s.ncFill p line ≠ none →
      ∃ t, exec (.lineFill p line) s = .next t ∧ t.inNc p line = true ∧ (∀ x ∈ t.herd.reads, x.1 = p → x.2.1 ≠ line)
        ∧ t.entry? p line = some { e with ready := true, items := e.items.map (fun w =>
            { w with ready := if w.since = 0 then s.pins.now else w.since, since := 0 }) }))

/-- PACK_ISSUE (R164, R165, R168, R397), PACK_WAIT_EXPIRY (R164, R344, R397), TEST (R120, R169 to R175, R511) and INVOKE (R164, R180, R298): a pack
that may go, with the turn of its ready list, leaves its entry and joins the input queue of the TU chosen for it, a ray of the unmatched list goes
alone; a TU visits its node with the rays of the pack it takes next that no uncorrectable Kennel word has ended; a failed check of the testers ends
them and counts toward AUTO_FENCE, one of the address arithmetic ends them; an access that fails parks the whole pack; the invocations gathered for a program, at one of their moments, leave the Herder and join the chosen core's queue as one group. -/
def Obligations.PacksGoToTheirUnit : Prop :=
  let joined := fun (s u : State) (k : Pack) (n : TuId) =>
    (u.arr.tus[n]).queue = (s.arr.tus[n]).queue ++ [k] ∧ (∀ m : TuId, m ≠ n → u.arr.tus[m] = s.arr.tus[m])
      ∧ ∀ e ∈ u.herd.store, e.part = k.part → e.line = k.line → ∀ w ∈ e.items, w ∉ k.items
  (∀ (p : PartId) (line : Nat) (why : IssueWhy) (d : HalfTimes) (t : Nat) (n : TuId) (reason : Nat) (s : State),
    let s1 := s.at t
    let go := (match s1.entry? p line with | some e => s1.entryPacks e | none => []).find? (fun (r : Ready) =>
      (match why with | .full => r.full | .idle => s1.idleOk d r.pack) && decide (s1.listChoice d p (packOp r.pack) = some r.pack))
    s1.works p = true →
    (∀ r, go = some r → s1.chooseTu r.pack d = some (n, reason) → ∃ u, exec (.packIssue p line why d t) s = .next u ∧ joined s u r.pack n)
    ∧ (∀ w, go = none → s1.unmatchedNext = some (w, n, reason) → w.part = p → w.line = line →
      ∃ u, exec (.packIssue p line why d t) s = .next u ∧ joined s u ⟨p, line, [w]⟩ n ∧ u.herd.unmatched = s.herd.unmatched.erase w))
  ∧ (∀ (p : PartId) (line : Nat) (d : HalfTimes) (t : Nat) (e : MatchEntry) (s : State),
    let s1 := s.at t
    s.works p = true → s.timerFires (.packWait p line) t = true → s1.entry? p line = some e → s1.entryPacks e ≠ [] →
    (∀ k n reason, s1.dueChoice p d (s1.entryPacks e) = some k → s1.chooseTu k d = some (n, reason) →
      ∃ u, exec (.packWaitExpiry p line d t) s = .next u ∧ joined s u k n)
    ∧ (s1.dueChoice p d (s1.entryPacks e) = none → exec (.packWaitExpiry p line d t) s = .next s1))
  ∧ (∀ (tu : TuId) (words : List (Nat × Check)) (env : Env) (k : Pack) (s : State),
    let s1 := s.at env.t
    let s2 := words.foldl (fun s w => s.kennelWord k.part k.items w) ((s1.tuTake tu k).setLastTu tu k)
    let l := s2.standing k.items
    (s1.tuPlace tu).isSome = true → s1.tuNext tu [1] = some k →
    (env.hw.addr = true → ∀ check, exec (.test tu check words env) s = .next (s2.endPack 6 tu { k with items := l }))
    ∧ (env.hw.addr = false →
      exec (.test tu .ok words env) s = .next (s2.visitPack env k.part tu.val k.line l)
      ∧ exec (.test tu .corrected words env) s = .next (s2.errCorrected.visitPack env k.part tu.val k.line l)
      ∧ exec (.test tu .failed words env) s = .next ((s2.endPack 3 tu { k with items := l }).residueError tu)
      ∧ (∀ w i s3, l = [w] → w.item = .ray i → s2.visitRay env k.part i tu.val k.line = .out s3 →
        exec (.test tu .ok words env) s = .next (s3.flushInvs k.part))
      ∧ ∀ s3 x, s2.visitAll env k.part tu.val k.line l = .bad s3 x → exec (.test tu .ok words env) s = .next (s2.parkPack env k.part tu.val x l)))
  ∧ (∀ (p : PartId) (cls : BitVec 2) (caddy : CaddyId) (slot : Fin 256) (t : Nat) (x : Group) (c : CoreId) (s : State),
    let s1 := s.at t
    let cd : BitVec 2 := BitVec.ofNat 2 caddy.val
    let l := s1.gather p cls cd slot.val
    s1.works p = true → s1.rayGroup p cls cd slot.val l = some x → s1.pickCore cd x.key = some c →
    (s1.groupMoment c l (s1.timerFires (.groupWait p cls cd slot.val) t) = false → exec (.invoke p cls caddy slot t) s = .next s1)
    ∧ (s1.groupMoment c l (s1.timerFires (.groupWait p cls cd slot.val) t) = true →
      ∃ u, exec (.invoke p cls caddy slot t) s = .next u ∧ (u.core c).queue = (s.core c).queue ++ [⟨[x], 1⟩]
        ∧ (∀ k, k ≠ c → u.core k = s.core k) ∧ u.herd.invokes = s.herd.invokes.filter (fun v => !l.contains v)))

/-- SPILL_SLOT_GRANT, SPILL_WAIT_TIMEOUT (R90, R105, R183, R185) and RETURN (R188, R383, R397, R511): a ray that waits for an auxiliary slot takes it and
goes on; one that waited too long ends with KENNEL_SPILL; a terminated ray that can leave, when its partition's list gives it the turn, frees its slots and hands
its record to the Retriever, a foreign one sends its result to its origin; an uncorrectable candidate entry makes its code CONTAINED. -/
def Obligations.WaitingRaysGoOnOrEnd : Prop :=
  ∀ (ray slot : Nat) (r : Ray) (s : State), s.ray? ray = some r →
    let env : Env := { s.env0 with slots := [slot] }
    let p := s.kPart ray
    let off := (s.timerDel (.spill ray)).updRay ray (fun r => { r with rstate := .active })
    (r.rstate = .spillWait → s.works p = true →
      (∀ pushes next x, r.wait = .spillPush pushes next → s.kAux env p (s.kIsForeign ray) (.ext ray []) = some x →
        exec (.spillSlotGrant ray slot) s = .next (off.applyMoves env ray (stackMoves r.ts.cur next r.ts.short pushes) pushes))
      ∧ (∀ n k s1, r.wait = .spillInst n → off.kAux env p (s.kIsForeign ray) (.inst ⟨r.origin, r.dir, 0, r.ts, 0, 0, 0, r.base, r.root⟩) = some (k, s1) →
        exec (.spillSlotGrant ray slot) s = .next ((s1.updRay ray (fun r => { r with inst := some k })).resumeRay ray))
      ∧ (∀ child sub k s1, r.wait = .spillLeash child sub → off.kAux env p (s.kIsForeign ray) (.leash (Leash.fresh 0)) = some (k, s1) →
        exec (.spillSlotGrant ray slot) s = .next (s1.updRay ray (fun r => { r with leash := some k, wait := .forward child sub, doneAt := s.pins.now }))))
    ∧ (∀ t, r.rstate = .spillWait → s.ready = true → s.timerFires (.spill ray) t = true →
      ∃ u, exec (.spillWaitTimeout ray t) s = .next u ∧ (∀ k ∈ s.raySlots ray, k ≠ ray → u.kGet k = none)
        ∧ u.ray? ray = some { r with
            inst := none
            leash := none
            ts := { r.ts with inInst := false, ext := false, short := [] }
            wait := .ended 0x12
            rstate := .active
            doneAt := max s.pins.now t })
    ∧ (∀ code check, r.wait = .ended code → s.works p = true → s.canReturn ray r = true → s.returnNext p ray = true →
      let n := if check = .failed then 0x17 else code.toNat
      let s0 := s.returned p ray
      let s1 := if check = .failed then s0.errContained p 1 ray (s0.kId ray).toNat else s0.seen check
      (∀ cr c, s.foreign? ray = none → r.cmd = some cr → s.cmd? cr = some c →
        exec (.returnRay ray check) s = .next
          ((((s1.timerDel (.spill ray)).kFreeAll (s1.raySlots ray)).drainAll).acceptRay s.env0 p r.flow c cr r.index (hitRecord r (s.kId ray) n)))
      ∧ (∀ f, s.foreign? ray = some f → exec (.returnRay ray check) s = .next ((s1.sendResult f (rayBody r f n)).dropForeign f)))
    ∧ ((∀ code, r.wait = .ended code → s.canReturn ray r = false ∨ s.returnNext p ray = false) → ∀ check,
      exec (.returnRay ray check) s = .next s)

/-- FABRIC_CREDIT (R10), DELIVERY and DELIV_WAIT_EXPIRY (R11, R189), MEMORY_WRITE_ACK (R15, R288): granted words add to the credit of their cell group,
and replies that wait for it go out; a due delivery goes out against one control token and its vector words, which it draws, hit records as 32
with record n for lane n and zeros beyond those that are valid; an acknowledged write frees its entry or is one write less to wait for. -/
def Obligations.CreditIsGrantedAndDrawn : Prop :=
  let sent := fun (s t : State) (port : PortId) (group : BitVec 12) (d : Deliv) =>
    let n := match s.delivWords d with | some l => l.length | none => 16
    t.pins.sent = s.pins.sent ++ [match s.delivWords d with
        | some l => PortMsg.probe port group l.length l
        | none => PortMsg.delivery port group d.recs.length
            ((List.range 32).map (fun n => (d.recs.filterMap (fun i => (s.retEntry? i).map (·.record))).getD n 0))]
      ∧ t.creditOf port .control group + 1 = s.creditOf port .control group
      ∧ t.creditOf port .vector group + n = s.creditOf port .vector group
      ∧ t.ret.delivs = s.ret.delivs.erase d
  let enough := fun (s : State) (port : PortId) (group : BitVec 12) (d : Deliv) =>
    s.delivHead port group = some d ∧ s.works (s.delivPart d) = true ∧ s.portLive port = true ∧ 1 ≤ s.creditOf port .control group
      ∧ (match s.delivWords d with | some l => l.length | none => 16) ≤ s.creditOf port .vector group
  ∀ (port : PortId) (group : BitVec 12) (s : State),
    (∀ net words, s.live = true →
      (s.setter.replies = [] → ∃ t, exec (.fabricCredit port net group words) s = .next t
        ∧ t.creditOf port net group = s.creditOf port net group + words
        ∧ ∀ a b g, (a, b, g) ≠ (port, net, group) → t.creditOf a b g = s.creditOf a b g)
      ∧ (s.ready = true → exec (.fabricCredit port net group words) s =
          .next (s.setCredit port net group (s.creditOf port net group + words)).flushReplies))
    ∧ (∀ d, s.ready = true → enough s port group d → ∃ t, exec (.delivery port group) s = .next t ∧ sent s t port group d)
    ∧ (∀ time d, s.ready = true → s.timerFires (.delivWait port group) time = true →
      let s1 := (s.fire (.delivWait port group) time).delivDue port group
      enough s1 port group d → ∃ t, exec (.delivWaitExpiry port group time) s = .next t ∧ sent s1 t port group d)
    ∧ (∀ id w, s.live = true → s.ret.writes.find? (fun x => x.num == id) = some w →
      let s1 := ({ s with ret := { s.ret with writes := s.ret.writes.filter (fun x => x.num != id) } }).ackPend id
      (∀ e, w.who = .entry e → exec (.memoryWriteAck id) s = .next (s1.freeEntry e))
      ∧ (∀ c, w.who = .command c → exec (.memoryWriteAck id) s = .next (s1.updCmd c (fun x => { x with writes := x.writes - 1 })))
      ∧ (∀ k g, w.who = .group k g → exec (.memoryWriteAck id) s = .next (s1.groupAck ⟨k, g⟩))
      ∧ (w.who = .nobody → exec (.memoryWriteAck id) s = .next s1))

/-! ## Probes (06, 07) -/

/-- BUNDLE_ADMIT (R10, R61, R113), BOUND (R203 to R209, R234), BOUND_RETURN (R210, R213), SCORE (R214 to R216, R248) and HEAP_MERGE (R216): the next bundle is
taken in from memory or from the vector network; a BOUND gives its bundle the children it may still need, a SCORE the scores of the
leaf's keys for the queries alive; the Strainer takes the oldest result of each kind and the bundle goes on. -/
def Obligations.BundlesAreBoundedAndScored : Prop :=
  ∀ (env : Env) (s : State),
    let s1 := s.at env.t
    (∀ q c, let p := s.qPart q; let r : CmdRef := ⟨q, c.seq⟩
      s1.works p = true → (∀ b ∈ s.strain.bundles, b.placed = true) → s1.orderTurn q c = true →
      (∀ w bs, s1.intakeCmd q isProbe false = some c → s1.vslot p c.intakeAt = .ok w →
        let n := if headSized w then slotsOfHead w else 1
        let t := s1.takeBundle env p c r (slotsOf (n + 1) bs)
        s1.vread p c.intakeAt (64 * n) = .ok bs → t.advanced q c = true → env.hw.addr = false → exec (.bundleAdmit q [] env) s = .next t)
      ∧ (∀ w ws, let port := srcPort c.raw
        let n := if headSized w then slotsOfHead w else 1
        let t := s1.takeBundle env p c r ((w :: ws).take n)
        s1.intakeCmd q isProbe true = some c → s1.portLive port = true → s1.hasCredit port .vector n = true → n ≤ (w :: ws).length →
        t.advanced q c = true → exec (.bundleAdmit q (w :: ws) env) s = .next (t.useCredit port .vector n)))
    ∧ (∀ tu k w o b e, let s2 := s1.tuTake tu k
      (s1.tuPlace tu).isSome = true → k.items = [w] → w.item = .op o → s2.bundle? o.bundle = some b → b.status = 0 → env.hw.addr = false → env.hw.words = [] →
      (s1.tuNext tu [2] = some k → b.frontier.find? (fun e => e.busy == some o.id) = some e →
        ∀ pr v, (s2.residentRun b.part (b.desc.base + 640 * childIdx o.child) 640 (s2.itemCtx (.op o) tu.val)).1 = true →
          s2.projected b = .ok pr → s2.vnum b.part (b.desc.base + 640 * childIdx o.child) 640 = .ok v →
          let unb := pr.any (fun x => !isFin32 x.eps)
          let b1 := { b with proj := pr, unbounded := unb }
          ∃ u, exec (.bound tu .ok env) s = .next u
            ∧ u.bundle? o.bundle = some { b1 with boundRes := b.boundRes ++ [⟨o.id, boundKids b1 (s2.queryRows b1).1 v e.taken o.alive, false, false⟩] }
            ∧ (u.part b.part).unbounded = ((s.part b.part).unbounded || unb))
      ∧ (s1.tuNext tu [3] = some k →
        let d := b.desc
        let j := childIdx o.child
        let row := d.dim * (elemBytes d.kfmt).getD 1
        let scn := if (elemBytes d.kfmt).getD 1 = 1 then d.dim else 0
        let sca := d.scaleAddr + 32 * j * (d.dim / 32)
        ∀ kn sn, (s2.residentRun b.part (d.leafVa j) (32 * row) (s2.itemCtx (.op o) tu.val)).1 = true →
          (scn ≠ 0 → (s2.residentRun b.part sca scn (s2.itemCtx (.op o) tu.val)).1 = true) →
          s2.vnum b.part (d.leafVa j) (32 * row) = .ok kn → s2.vnum b.part sca scn = .ok sn →
          let keys := ((List.range 32).filter (fun i => decide (32 * j + i < d.keyCount))).map (fun i =>
            (32 * j + i, rowVals d.kfmt d.dim (kn / 256 ^ (row * i)), rowScales d.kfmt d.dim (sn / 256 ^ (d.dim / 32 * i))))
          let qr := s2.queryRows b
          let all := (List.range b.q).flatMap (fun n => if bit o.alive n then leafScores b qr.1 (qr.2.getD n ([], [])) n keys else [])
          ∃ u, exec (.score tu .ok env) s = .next u
            ∧ u.bundle? o.bundle = some { b with scoreRes := b.scoreRes ++ [⟨o.id, all.map (fun x => (x.1, ⟨x.2.1, x.2.2.hi, x.2.2.lo, 0⟩)),
                (all.filter (fun x => isNan32 x.2.2.hi)).foldl (fun (w : W32) x => setBit w x.1 true) 0, false, o.alive, false⟩] }))
    ∧ (∀ h b, s1.bundle? h = some b → s1.works b.part = true → b.state ≠ .done →
      (∀ x r, b.boundRes = x :: r →
        exec (.boundReturn h env) s = .next ((s1.takeBound h).goOn env h)
        ∧ ∃ y, (s1.takeBound h).bundle? h = some y ∧ y.boundRes = r ∧ y.inflight = b.inflight.filter (fun o => o.id != x.op)
          ∧ y.frontier = (match b.frontier.find? (fun e => e.busy == some x.op) with | none => b.frontier | some e => insertKids (decide (b.solo = some x.op)) b.frontier e x.kids)
          ∧ y.heaps = b.heaps)
      ∧ (∀ x r, b.scoreRes = x :: r →
        exec (.heapMerge h .ok env) s = .next ((s1.takeScore h).goOn env h)
        ∧ ∃ y, (s1.takeScore h).bundle? h = some y ∧ y.scoreRes = r ∧ y.inflight = b.inflight.filter (fun o => o.id != x.op)
          ∧ y.frontier = b.frontier.filter (fun e => e.busy != some x.op)
          ∧ y.heaps = x.cands.foldl (fun hs c => hs.set c.1 (heapInsert b.nanRank b.k (hs.getD c.1 []) c.2)) b.heaps))

/-- REDUCE (R224, R226, R405) and LSE_MERGE (R225, R264, R265): when its ready list gives a bundle the turn and a TU can take it, its next chunk
leaves its list, and the triples of the queries that have keys in it
wait to merge; the first triple of a query is taken as it is, a later one is merged by LSE_MERGE; nothing else changes while more are owed. -/
def Obligations.ChunksReduceAndTriplesMerge : Prop :=
  ∀ (h : Nat) (env : Env) (b : Bundle) (s : State),
    let s1 := s.at env.t
    s1.bundle? h = some b → s1.works b.part = true →
    (∀ chunk n reason rows, s1.reduces b = true → s1.reduceNext b = true → b.nextChunk = some chunk →
      s1.fewest (b.reducePack chunk) 0x12 true = some (n, reason) → env.hw.addr = false →
      (s1.issueReduce (b.reducePack chunk) (n, reason)).valueRows b chunk = .ok rows →
      ∃ u y, exec (.reduce h .ok env) s = .next u ∧ u.bundle? h = some y ∧ y.chunks = b.chunks.filter (fun c => decide (c ≠ chunk))
        ∧ y.accs = b.accs
        ∧ y.triples = b.triples ++ (List.finRange 32).filterMap (fun j =>
            let ts := chunkTerms (b.xlists.getD j.val []) rows
            if ts.isEmpty then none else some (j, (chunkTriple (ovfOf b.ovf) b.vdesc.dim (ts.map (fun x => (x.1, x.2.row)))).1)))
    ∧ (∀ (j : Fin 32) t, b.state ≠ .done → b.triples.find? (fun t => decide (t.1 = j)) = some (j, t) → j.val < b.accs.length →
      ∀ y, (s1.mergeOne b j t).bundle? h = some y → (s1.mergeOne b j t).owing y j.val = true →
        exec (.lseMerge h j .ok env) s = .next (s1.mergeOne b j t)
        ∧ y.triples = b.triples.erase (j, t)
        ∧ (b.accs.getD j.val none = none → y.accs.getD j.val none = some t)
        ∧ ∀ a, b.accs.getD j.val none = some a → y.accs.getD j.val none = some (lseMerge (ovfOf b.ovf) a t).1)

/-! ## Forwarding (10, 11) -/

/-- HELLO, ADV, AGREE, CREDIT, SESSION_TIMEOUT, DRAIN, DRAIN_DONE, FORCED_DRAIN and BYPASS_REOPEN (R379 to R382, R392; also R368): each training message
moves its session one state on and sends that state's message, or ends the training with its reason; a HELLO past ADVERTISE restarts the session, one
from another chip in ADVERTISE fails it where it is of no ring link; CREDIT carries the initial grants but for what is withheld; a timeout sends
again or fails; a drained or forced session is DOWN; the reopened ring trains from LISTEN, and the bypass stays open where no ring session has
failed again. The EPOCH_LO that a message carries is looked at as it arrives. -/
def Obligations.SessionMessagesMoveTheirSession : Prop :=
  ∀ (l : LinkId) (lo : Byte) (t : Nat) (s : State),
    let x := s.sess l
    let a := (s.at t).headerSeen l lo
    let went := fun (u : State) (peer : ChipId) (b : MsgBody) => u.pins.links = s.pins.links ++ [(l, s.hdr 0 0 peer, b)]
    let down := fun (u : State) (reason : BitVec 4) => (u.sess l).state = ssDown ∧ (u.sess l).reason = reason
    let low := if s.boot.chipId.toNat ≤ x.peer.toNat then s.boot.chipId else x.peer
    let high := if s.boot.chipId.toNat ≤ x.peer.toNat then x.peer else s.boot.chipId
    (s.hears l = true →
      (∀ chip e, x.state = ssListen →
        (s.helloOk l chip = true → ∃ u, exec (.hello l lo chip e t) s = .next u
          ∧ u.sess l = { x with peer := chip.setWidth 20, state := ssAdvertise, tries := 0 }
          ∧ went u (chip.setWidth 20) (.adv ⟨1, 1, 0xF, 64, 32, s.fwd.epoch.get, s.grants l, 18432⟩))
        ∧ (s.helloOk l chip = false → ∃ u, exec (.hello l lo chip e t) s = .next u ∧ down u rsMismatch))
      ∧ (∀ chip e, x.state ≠ ssListen → x.state ≠ ssDown → x.state ≠ ssAdvertise →
        exec (.hello l lo chip e t) s = .next (a.restartSess a.env0 l))
      ∧ (∀ chip e, x.state = ssAdvertise →
        (s.isRing l = false → x.peer.setWidth 32 ≠ chip → ∃ u, exec (.hello l lo chip e t) s = .next u ∧ down u rsMismatch)
        ∧ (s.isRing l = true ∨ x.peer.setWidth 32 = chip → exec (.hello l lo chip e t) s = .next a))
      ∧ (∀ body, x.state = ssAdvertise →
        (advOk body = true → ∃ u, exec (.adv l body t) s = .next u
          ∧ u.sess l = { x with peerEpoch := fld body.epoch 0 8, version := 1, ops := body.ops &&& 0xF, state := ssAgree, tries := 0 }
          ∧ went u x.peer (.agree ⟨1, body.ops &&& 0xF, low.setWidth 32, high.setWidth 32⟩))
        ∧ (advOk body = false → ∃ u, exec (.adv l body t) s = .next u ∧ down u rsIncompatible))
      ∧ (∀ body, x.state = ssAgree →
        (body = ⟨x.version, x.ops, low.setWidth 32, high.setWidth 32⟩ → ∃ u, exec (.agree l lo body t) s = .next u
          ∧ u.sess l = { x with
              state := ssCredit, tries := 0, owed := (s.grants l).sub (s.grantable (s.grants l)), granted := (s.grantable (s.grants l)).qEnd }
          ∧ went u x.peer (.credit (s.grantable (s.grants l))))
        ∧ (body ≠ ⟨x.version, x.ops, low.setWidth 32, high.setWidth 32⟩ → ∃ u, exec (.agree l lo body t) s = .next u ∧ down u rsIncompatible))
      ∧ (∀ g, x.state = ssCredit → s.hasCmd l true = false → ∃ u, exec (.credit l lo g t) s = .next u
        ∧ u.sess l = { x with
            state := ssUp, tries := 0, credit := g, lastPeer := some x.peer, settled := true, doneSent := false, doneSeen := false }
        ∧ (∀ w ∈ u.fwd.cmds, w.1 = l → w.2.1 = true) ∧ u.pins.links = s.pins.links)
      ∧ (x.state = ssUp → x.doneSeen = false → ∃ u, exec (.drain l lo t) s = .next u ∧ (u.sess l).state = ssDrain
        ∧ (u.sess l).doneSent = (x.doneSent || s.drained l) ∧ u.pins.irqs = a.pins.irqs ++ [⟨true, 0, 4⟩]
        ∧ u.pins.links = s.pins.links ++ [(l, s.hdr 0 0 x.peer, .drain)]
          ++ (if x.doneSent = false ∧ s.drained l = true then [(l, s.hdr 0 0 x.peer, .drainDone)] else []))
      ∧ (x.state = ssDrain →
        (x.doneSent = true ∨ s.drained l = true → s.hasCmd l false = false → ∃ u, exec (.drainDone l lo t) s = .next u ∧ down u rsDrained)
        ∧ (x.doneSent = false → s.drained l = false → ∃ u, exec (.drainDone l lo t) s = .next u ∧ u.sess l = { x with doneSeen := true })))
    ∧ (s.active = true →
      (training x.state = true → s.timerFires (.session l) t = true →
        (x.tries.toNat < ssRetries x.state → ∃ u, exec (.sessionTimeout l t) s = .next u ∧ u.sess l = { x with tries := x.tries + 1 }
          ∧ went u x.peer (s.stateMsg l x.state))
        ∧ (ssRetries x.state ≤ x.tries.toNat → ∃ u, exec (.sessionTimeout l t) s = .next u ∧ down u rsTimeout))
      ∧ (x.state = ssDrain → s.timerFires (.session l) t = true →
        let s1 := s.fire (.session l) t
        exec (.forcedDrain l t) s = .next ((s1.endDrain l rsForced).loseOwners s1.env0 (s.leashesOn l))
          ∧ (s.hasCmd l false = false → down (s1.endDrain l rsForced) rsForced))
      ∧ (s.timerFires .reopen t = true → ∃ u, exec (.bypassReopen t) s = .next u
        ∧ (s.inStart = false ∨ (∀ n, s.isRing n = true → bit s.pins.linkUp n.val = true) → u.pins.bypass = false)
        ∧ ((∀ n, s.isRing n = true → (s.sess n).state = ssDown) →
          ∀ n, s.isRing n = true → bit s.pins.linkUp n.val = true → (u.sess n).state = ssListen)))

/-- KEEPALIVE, KEEPALIVE_TIMER, KEEPALIVE_LOST, CREDIT_RETURN and CREDIT_RETURN_TIMER (R87, R377, R379, R411, R416): what arrives starts the 500 µs again; 100 µs
without sending send a KEEPALIVE; a session not heard for 500 µs is DOWN, its commands end and its owners are lost; returned credit
fills the pools, owed credit goes out but for what is withheld: all of it during a block drain, the Q_END credit during a scope-2 HEEL of the host
partition, and the Q_END credit that FWD_RESERVE has no slot for. -/
def Obligations.KeepalivesAndCreditServeTheSession : Prop :=
  ∀ (l : LinkId) (lo : Byte) (t : Nat) (s : State),
    let x := s.sess l
    let a := (s.at t).headerSeen l lo
    let went := fun (u : State) (b : MsgBody) => u.pins.links = s.pins.links ++ [(l, s.hdr 0 0 x.peer, b)]
    (s.carries l = true →
      (exec (.keepalive l lo t) s = .next (if x.state = ssUp then (a.timerDel (.keepRx l)).timerAdd (.keepRx l) (max s.pins.now t + 500000) else a))
      ∧ (∀ c, (∀ w ∈ s.fwd.waiting, w.1 ≠ l) → ∃ u, exec (.creditReturn l lo c t) s = .next u
        ∧ u.sess l = { x with credit := x.credit.add c } ∧ u.pins.links = s.pins.links ∧ u.fwd.waiting = s.fwd.waiting)
      ∧ ∀ c h b, s.fwd.waiting = [(l, h, b)] →
        ((creditCost x.peer h b).within (x.credit.add c) = true → x.state = ssUp → ∃ u, exec (.creditReturn l lo c t) s = .next u
          ∧ u.fwd.waiting = [] ∧ u.pins.links = s.pins.links ++ [(l, h, b)]
          ∧ u.sess l = { x with credit := (x.credit.add c).sub (creditCost x.peer h b) })
        ∧ ((creditCost x.peer h b).within (x.credit.add c) = false → ∃ u, exec (.creditReturn l lo c t) s = .next u
          ∧ u.fwd.waiting = [(l, h, b)] ∧ u.pins.links = s.pins.links ∧ u.sess l = { x with credit := x.credit.add c }))
    ∧ (s.active = true →
      (s.timerFires (.keepTx l) t = true → x.state = ssUp →
        ∃ u, exec (.keepaliveTimer l t) s = .next u ∧ went u .keepalive ∧ u.sess l = x)
      ∧ (s.timerFires (.keepRx l) t = true → x.state = ssUp →
        let s1 := s.fire (.keepRx l) t
        let s2 := (s1.downSess l rsKeepalive).irqBlock 4
        exec (.keepaliveLost l t) s = .next (((((s2.endCmds l false stSessionFail).endCmds l true stOk).loseOwners s1.env0 (s.leashesOn l)).ringFailed l).boot9)
          ∧ s2.sess l = { x with state := ssDown, reason := rsKeepalive, tries := 0, credit := noCredits, owed := noCredits, granted := 0,
                                 doneSent := false, doneSeen := false, settled := true })
      ∧ (s.timerFires (.creditRet l) t = true →
        let out := s.grantable x.owed
        ∃ u, exec (.creditReturnTimer l t) s = .next u ∧ (out ≠ noCredits → went u (.creditReturn out))
          ∧ (out = noCredits → u.pins.links = s.pins.links)
          ∧ u.sess l = { x with owed := x.owed.sub out, granted := x.granted + out.qEnd }))

/-- FWD_RAY, FWD_PROBE, REDUCE_REQ, LEASE_EXTEND_TIMER and CANCEL (R373, R377, R378, R383, R384): a query for this chip takes its slots, is held, and its walk
begins; where the host partition cannot run it it is ABORTED, where this chip is not named NOT_OWNER; half a lease sends LEASE_EXTEND
again; CANCEL leaves no query of its ID and source. -/
def Obligations.QueriesOfOtherChipsAreHeld : Prop :=
  ∀ (l : LinkId) (hdr : MsgHdr) (env : Env) (s : State),
    let taken := fun (b : MsgBody) => ((s.at env.t).arrived l hdr).updSess l (fun x => { x with granted := x.granted - b.slots })
    let p := s.hostPart
    let held := fun (s2 u : State) (f : Foreign) => s2.fwd.foreign = s.fwd.foreign ∧ u = s2.holdQuery f ∧ u.fwd.foreign = s.fwd.foreign ++ [f]
    let ends := fun (i : Instr) (b : MsgBody) (n : Nat) (kind : BitVec 2) (precise : Bool) =>
      (s.works p = false → exec i s = .next ((taken b).answerQuery l hdr n (endBody kind precise 3 0)))
      ∧ (s.works p = true → s.namesSub hdr.subtree.toNat = false → exec i s = .next ((taken b).answerQuery l hdr n (endBody kind precise 2 0)))
    (s.carries l = true → hdr.dest = s.boot.chipId →
      (∀ body, let r0 := foreignRay body s.sel (s.caddy s.sel).gen
        ends (.fwdRay l hdr body env) (.fwdRay body) 1 0 false
        ∧ (s.works p = true → s.namesSub hdr.subtree.toNat = true → ∀ i ks s2 d root,
          (taken (.fwdRay body)).kTakeAll env p true none [.ray (r0 0 0)] = some (i :: ks, s2) →
          ∃ s3, held s2 s3 ⟨i, l, hdr, body.leaseUs.toNat, 0, 1, none⟩
            ∧ (s3.findSub body.descAddr.toNat 2 hdr.subtree.toNat = .ok d root → root ≠ 0xFFFFFFFF →
              exec (.fwdRay l hdr body env) s = .next ((s3.setRay i (r0 d root)).enter (.ray i) p (nodeVa (r0 d root) / 128)))))
      ∧ (∀ body, let n := body.slots.length
        ends (.fwdProbe l hdr body env) (.fwdProbe body) n 1 body.precise
        ∧ (s.works p = true → s.namesSub hdr.subtree.toNat = true → ∀ i ks s2 d root,
          (taken (.fwdProbe body)).kTakeAll env p true none ((.head (body.slots.headD 0)) :: (body.slots.drop 1).map KData.body) = some (i :: ks, s2) →
          let w := body.slots.headD 0
          ∃ s3, held s2 s3 ⟨i, l, hdr, body.leaseUs.toNat, 1, n, none⟩
            ∧ (s3.findSub body.descAddr.toNat 3 hdr.subtree.toNat = .ok d root → headSized w = true → s3.badHead s3.sel p d.dim w = false →
              n = slotsOfHead w → s3.fmtOn s3.sel p d.kfmt = true →
              ∃ b : Bundle, b.head = i ∧ b.foreign = some (l, hdr, body.leaseUs) ∧ b.part = p ∧ b.q = headQ w ∧ b.d = headD w ∧ b.k = body.k.toNat
                ∧ b.desc = d ∧ b.heaps = List.replicate (headQ w) [] ∧ b.placed = false ∧ b.status = 0
                ∧ exec (.fwdProbe l hdr body env) s = .next
                  (({ s3 with strain := { s3.strain with bundles := s3.strain.bundles ++ [b] } }).placeForeign env (s3.strain.bundles.length + 2)))))
      ∧ (∀ body, let ws := slotsOf 512 (reduceBytes body)
        let n := (MsgBody.reduceReq body).slots
        ends (.reduceReq l hdr body env) (.reduceReq body) n 2 false
        ∧ (s.works p = true → s.namesSub hdr.subtree.toNat = true → ∀ i ks s2 v,
          (taken (.reduceReq body)).kTakeAll env p true none ((.head (ws.headD 0)) :: (ws.drop 1).map KData.body) = some (i :: ks, s2) →
          ∃ s3, held s2 s3 ⟨i, l, hdr, body.leaseUs.toNat, 2, n, some body⟩
            ∧ (s3.vdesc p body.vdescAddr.toNat = .ok v → v.usable 4 = .ok → v.dim = body.dv.toNat → s3.fmtOn s3.sel p v.kfmt = true →
              ∃ b : Bundle, b.head = i ∧ b.foreign = some (l, hdr, body.leaseUs) ∧ b.part = p ∧ b.q = body.q.toNat ∧ b.reduce = true ∧ b.vdesc = v
                ∧ b.state = .reducing ∧ b.accs = List.replicate body.q.toNat none
                ∧ exec (.reduceReq l hdr body env) s = .next
                  (({ s3 with strain := { s3.strain with bundles := s3.strain.bundles ++ [b] } }).endWalk env i))))
      ∧ (∃ u, exec (.cancel l hdr env.t) s = .next u
        ∧ u.fwd.foreign = s.fwd.foreign.filter (fun f => !s.fwd.foreign.any (fun g =>
            decide (g.hdr.queryId = hdr.queryId) && decide (g.hdr.src = hdr.src) && g.slot == f.slot))))
    ∧ (∀ slot t f, s.active = true → s.timerFires (.leaseExt slot) t = true → s.foreign? slot = some f →
      let s2 := s.fire (.leaseExt slot) t
      let h := s.hdr f.hdr.queryId f.hdr.subtree f.hdr.src
      s2.canSend (s2.backLink f) h .leaseExtend = true →
      ∃ u, exec (.leaseExtendTimer slot t) s = .next u ∧ u.pins.links = s.pins.links ++ [(s2.backLink f, h, .leaseExtend)] ∧ u.fwd.foreign = s.fwd.foreign)

/-- RAY_RESULT, PROBE_RESULT, REDUCE_RESULT, LEASE_EXTEND and LEASE_DEADLINE (R185, R227, R228, R375, R376, R384 to R387, R457, R511): a result for a live Leash joins its hit,
candidates or triples to the query, which with the last part goes on; one that fits no live Leash is dropped and counted, and a partition in
PARTITION_ERROR or a reset takes none; a Leash is extended up to EXTEND_MAX; a deadline that fires loses the owner, or puts the block in ERROR where
the Steep list's word is uncorrectable. -/
def Obligations.ResultsReachTheirLeash : Prop :=
  ∀ (l : LinkId) (hdr : MsgHdr) (env : Env) (s : State),
    let s1 := (s.at env.t).arrived l hdr
    let i := slotOfId hdr.queryId
    (s.carries l = true → hdr.dest = s.boot.chipId →
      (∀ pre hit, let s2 := s1.oweResult l (.rayResult pre hit)
        (s2.liveLeash hdr 0 (fun _ => true) = none →
          ∃ u, exec (.rayResult l hdr pre hit env) s = .next u ∧ u.fwd.staleDrop = satInc s.fwd.staleDrop ∧ u.kennel.slots = s.kennel.slots)
        ∧ ∀ k x, s2.liveLeash hdr 0 (fun _ => true) = some (k, x) →
          (s.works (s.kPart i) = false → exec (.rayResult l hdr pre hit env) s = .next s2)
          ∧ (s.works (s.kPart i) = true → (pre.result = 0 → ∀ r, s2.ray? i = some r →
            let m := mergeHit r hit
            let y := markHit m.1 hit (decide (x.reissues ≠ 0))
            let s3 := (s2.restLeash k).setRay i { y with wait := .none, rstate := .active }
            let s4 := s3.leafDone i x.entry.toNat
            exec (.rayResult l hdr pre hit env) s = .next (if 16 ≤ fldN hit 160 8 then s3.endRay i (fldN hit 160 8)
              else if pre.last = false then s2.setRay i y
              else if pre.ended || (m.2 && bit r.flags 0) then s4.finishRay i else s4.resumeRay i))
          ∧ (pre.result = 1 → exec (.rayResult l hdr pre hit env) s
            = .next (s2.remoteFault env (s2.kPart i) k x pre.faultVa (s2.itemCtx (.ray i) 0) (.remoteRay i)))
          ∧ (pre.result = 2 ∨ pre.result = 3 → exec (.rayResult l hdr pre hit env) s = .next (s2.reissueRay i))
          ∧ (pre.result = 4 → exec (.rayResult l hdr pre hit env) s = .next (s2.endRay i 0x17))))
      ∧ (∀ pre lists b, s.bundle? i = some b → s.works (s.kPart i) = true → let s2 := s1.oweResult l (.probeResult pre b.precise lists)
        ∀ k x, s2.liveLeash hdr 1 (fun _ => true) = some (k, x) → pre.result = 0 →
          let cands := (List.range b.q).flatMap (fun j => (lists.getD j []).map (fun (e : ProbeEntry) =>
            (j, (⟨e.key.toNat, e.score, e.lo, x.subtree.toNat + 1⟩ : HeapEnt))))
          let b1 := (mergeCands b cands).joinStatus x.alive pre (decide (x.reissues ≠ 0))
          (pre.last = false → ∃ u, exec (.probeResult l hdr pre lists env) s = .next u ∧ u.bundle? i = some b1 ∧ u.kennel.slots = s.kennel.slots)
          ∧ (pre.last = true → exec (.probeResult l hdr pre lists env) s = .next
            (((s2.updBundle i (fun _ => { b1 with frontier := b1.frontier.filter (fun e => e.leash != some k) })).freeLeash i k).goOn env i)))
      ∧ (∀ pre triples b, s.bundle? i = some b → s.works (s.kPart i) = true → let s2 := s1.oweResult l (.reduceResult pre triples)
        ∀ k x, s2.liveLeash hdr 2 (fun x => triples.all (fun t => x.carries t.1.val)) = some (k, x) →
          let carried := BitVec.ofNat 32 (packN ((List.range 32).map (fun j => (1, if x.carries j then 1 else 0))))
          let joined := fun (y : Bundle) =>
            { (y.joinStatus carried pre (decide (x.reissues ≠ 0))) with triples := y.triples ++ triples }
          (pre.result = 0 → pre.last = false → exec (.reduceResult l hdr pre triples env) s = .next (s2.updBundle i joined)
            ∧ (s2.updBundle i joined).bundle? i = some (joined b))
          ∧ (pre.result = 0 → pre.last = true →
            exec (.reduceResult l hdr pre triples env) s = .next (((s2.updBundle i joined).freeLeash i k).closeQueries env i))
          ∧ (pre.result = 2 ∨ pre.result = 3 → exec (.reduceResult l hdr pre triples env) s = .next (s2.reissueBundle env i [k]))
          ∧ (pre.result = 4 → exec (.reduceResult l hdr pre triples env) s = .next (s2.failBundle env i 3)))
      ∧ (s.kId i = hdr.queryId → ∀ k x, s.extended hdr = [k] → s.leash? k = some x →
        let top := (s.part (s.kPart k)).extendMax.force.toNat
        (x.extends_.toNat < top → ∃ u, exec (.leaseExtend l hdr env.t) s = .next u ∧ u.leash? k = some { x with extends_ := x.extends_ + 1 }
          ∧ ∀ n, n ≠ k → u.kGet n = s.kGet n)
        ∧ (top ≤ x.extends_.toNat → exec (.leaseExtend l hdr env.t) s = .next s1)))
    ∧ (∀ slot x, s.works (s.kPart slot) = true → s.timerFires (.lease slot) env.t = true → s.leash? slot = some x → x.live = true →
      (env.hw.lists = .ok → exec (.leaseDeadline slot env) s = .next ((s.fire (.lease slot) env.t).loseOwners env [slot]))
      ∧ (env.hw.lists = .failed → ∃ u, exec (.leaseDeadline slot env) s = .next u ∧ u.boot.state = stError ∧ u.kennel = s.kennel))

/-- FORWARD and MESSAGE_RELAY (R185, R360, R362, R369, R377, R380, R385, R397, R511): a ray whose child another chip owns goes, when the block-wide list
gives it the turn, to the target's link against its credit, under a live Leash that holds its ID; a target that fails ends it FWD_FAIL, a child that is here after all is walked here; a corrected word of
the owner-table entry is counted, and an entry with an uncorrectable word is not valid from then on, so that the ray ends FWD_FAIL; a message for
another chip goes on with HOPS one higher, a query only where its kind is agreed, and is dropped and counted at 63 or where no route leads on. -/
def Obligations.QueriesAndMessagesGoOn : Prop :=
  ∀ (env : Env) (s : State),
    let s0 := s.at env.t
    (∀ i r child sub check, s.ray? i = some r → r.wait = .forward child sub → r.rstate = .active → s.works (s.kPart i) = true → s.forwardParked i = false →
      env.hw.words = [] →
      let p := s.kPart i
      let s1 := match check with | .ok => s0 | .corrected => s0.errCorrected | .failed => s0.ownerLost p i
      let goal := s1.target 1 sub.toNat (failedFor (r.leash.bind s.leash?) sub) none
      (check = .failed → s1.owner? sub.toNat = none ∧ goal = .fail)
      ∧ (goal = .fail → exec (.forward i check env) s = .next (s1.rayFwdFail i))
      ∧ (goal = .here → exec (.forward i check env) s = .next (s1.resumeRay i))
      ∧ (∀ x, goal = .park x → exec (.forward i check env) s = .next (s1.fault env s.hostPart 0 x 0 (s1.forwardCtx i) (.forward i)))
      ∧ ∀ c l, goal = .send c l →
        let h := s.hdr (s.kId i) sub c
        let m := s.rayMsg i r
        (s.canSend l h m = false → exec (.forward i check env) s = .next s1)
        ∧ (s.canSend l h m = true → s1.forwardNext i = false → exec (.forward i check env) s = .next s1)
        ∧ ∀ k x, s.canSend l h m = true → s1.forwardNext i = true → r.leash = some k → k ≠ i → s.leash? k = some x →
          ∃ u y, exec (.forward i check env) s = .next u ∧ u.pins.links = s.pins.links ++ [(l, h, m)]
            ∧ (u.sess l).credit = (s.sess l).credit.sub (creditCost (s.sess l).peer h m)
            ∧ u.ray? i = some { r with wait := .remote child k, rstate := .forwarded }
            ∧ u.leash? k = some y ∧ y.owner = c ∧ y.queryId = s.kId i ∧ y.subtree = sub ∧ y.live = true ∧ y.extends_ = 0 ∧ y.epoch = s.fwd.epoch.get
            ∧ y.body = m
            ∧ ∀ n, n ≠ i → n ≠ k → u.kGet n = s.kGet n)
    ∧ (∀ slot b check, s.ray? slot = none → s.bundle? slot = some b → s.works b.part = true → s.forwardParked slot = false →
      b.placed = true → b.status = 0 → b.foreign = none → b.result = none → env.hw.words = [] →
      let s1 := match check with
        | .ok => s0
        | .corrected => s0.doIf (s.forwardSub slot).isSome State.errCorrected
        | .failed => s0.ownerLost b.part slot
      (s1.forwardLink slot = none → exec (.forward slot check env) s = .next (s1.forwardBundle env b none))
        ∧ (∀ l, s1.forwardLink slot = some l →
          (s1.forwardNext slot = true → exec (.forward slot check env) s = .next ((s1.forwardIssued slot l).forwardBundle env b none))
          ∧ (s1.forwardNext slot = false → exec (.forward slot check env) s = .next s1))
        ∧ (check = .failed → ∀ sub, s.forwardSub slot = some sub → s1.owner? sub = none))
    ∧ (∀ (l : LinkId) (hdr : MsgHdr) body, s.carries l = true → knownType body = true → hdr.dest ≠ s.boot.chipId →
      let u := 1 + body.len
      let s1 := (s0.arrived l hdr).owe l (if body.cls = 0 then ⟨0, u, 0, 0, 0⟩ else if body.cls = 1 then ⟨0, 0, 0, u, 0⟩ else noCredits)
      (hdr.hops = 63 → ∃ t, exec (.messageRelay l hdr body env) s = .next t ∧ t.fwd.relayDrop = satInc s.fwd.relayDrop ∧ t.pins.links = s1.pins.links)
      ∧ (hdr.hops ≠ 63 → s1.route (opsOf body) hdr.dest = .none →
        ∃ t, exec (.messageRelay l hdr body env) s = .next t ∧ t.fwd.relayDrop = satInc s.fwd.relayDrop ∧ t.pins.links = s1.pins.links)
      ∧ ∀ o, hdr.hops ≠ 63 → s1.route (opsOf body) hdr.dest = .link o → s1.canSend o { hdr with hops := hdr.hops + 1 } body = true →
        ∃ t, exec (.messageRelay l hdr body env) s = .next t ∧ t.pins.links = s1.pins.links ++ [(o, { hdr with hops := hdr.hops + 1 }, body)]
          ∧ t.fwd.relayDrop = s.fwd.relayDrop)

/-- OWNER_ENTRIES, EPOCH_COMMIT, RING_TIMEOUT, OWNER_RELOAD and OWNER_TABLE_FETCH (R20, R361, R364 to R367, R390, R501): entries of another chip are staged and
passed on with one hop more, a commit makes the staged table the current one; a message of this chip that returns commits its own epoch, and
its last one ends the publication with the counts; a message that does not return is sent again, then the publication ends with
ITEM_STATUS; a reload reads, checks and applies the table. The hop count's place is the model's reading (DEDUCED, log 57). -/
def Obligations.OwnerTablesGoRoundTheRing : Prop :=
  ∀ (l : LinkId) (hdr : MsgHdr) (epoch total : W32) (t : Nat) (s : State),
    let s1 := ((s.at t).arrived l hdr).oweRing l
    let newTable := fun (u : State) (e : W32) (ws : List W64) =>
      u.fwd.table = ownTable ws ∧ u.fwd.epoch = .all e ∧ u.fwd.prevMap = ownedBy s.fwd.table s.boot.chipId ∧ u.fwd.staging = none ∧ u.fwd.bad = []
    let sameTable := fun (u : State) => u.fwd.table = s.fwd.table ∧ u.fwd.epoch = s.fwd.epoch ∧ u.fwd.prevMap = s.fwd.prevMap
    let onward := { hdr with queryId := BitVec.ofNat 32 (packN [(13, ringHops hdr + 1), (19, ringSeqOf hdr)]) }
    let awaited := fun (m : RingMsg) => decide (m.seq % 2 ^ 19 = ringSeqOf hdr)
    (s.carries l = true → hdr.src ≠ s.boot.chipId →
      (∀ es, orphan hdr = true → ∃ u, exec (.ownerEntries l hdr epoch total es t) s = .next u ∧ u.fwd.orphans = satInc s.fwd.orphans
        ∧ sameTable u ∧ u.fwd.staging = s.fwd.staging ∧ u.pins.links = s1.pins.links)
      ∧ (∀ a m, orphan hdr = true → ∃ u, exec (.epochCommit l hdr epoch total a m t) s = .next u ∧ u.fwd.orphans = satInc s.fwd.orphans
        ∧ sameTable u ∧ u.fwd.staging = s.fwd.staging ∧ u.pins.links = s1.pins.links)
      ∧ (orphan hdr = false →
        (∀ es, s.fwd.staging = none → s.fwd.publish = none → ∃ u, exec (.ownerEntries l hdr epoch total es t) s = .next u ∧ sameTable u
          ∧ u.fwd.staging = (if s.fwd.epoch.get.toNat < epoch.toNat
              then some ⟨epoch, total.toNat, (indexed hdr.subtree.toNat es).foldl (fun g e => assocPut e.1 e.2 g) []⟩ else none)
          ∧ ∀ d : LinkId, s.cfg.ringDown.toNat = d.val → s1.canSend d onward (.ownerEntries epoch total es) = true →
            u.pins.links = s1.pins.links ++ [(d, onward, .ownerEntries epoch total es)])
        ∧ (∀ a m, s.fwd.epoch.get.toNat < epoch.toNat →
          (∀ got, s.fwd.staging = some ⟨epoch, got.length, got⟩ →
            ∃ u, exec (.epochCommit l hdr epoch total a m t) s = .next u ∧ newTable u epoch (got.map (·.2)) ∧ u.fwd.epochMissed = s.fwd.epochMissed)
          ∧ (s.fwd.staging = none →
            ∃ u, exec (.epochCommit l hdr epoch total a m t) s = .next u ∧ sameTable u ∧ u.fwd.epochMissed = true))))
    ∧ (s.carries l = true → hdr.src = s.boot.chipId → s.fwd.ring.any awaited = true → ∀ p, s.fwd.publish = some p →
      (∀ es, p.commit = false → s.fwd.ring.filter (fun m => !awaited m) = [] →
        ∃ u, exec (.ownerEntries l hdr epoch total es t) s = .next u
          ∧ newTable u p.epoch (match s.fwd.staging with | some st => st.got.map (·.2) | none => [])
          ∧ u.fwd.publish = some { p with commit := true } ∧ u.fwd.ring.length = 1)
      ∧ (∀ a m : W16, (∃ c ∈ (s.queue p.cmd.q).cmds, c.seq = p.cmd.seq) →
        ∃ u, exec (.epochCommit l hdr epoch total a m t) s = .next u ∧ u.fwd.applied = a.setWidth 13 ∧ u.fwd.missed = m.setWidth 13
          ∧ u.fwd.publish = none ∧ u.fwd.ring = [] ∧ sameTable u
          ∧ (m = 0 → u.endedDone p.cmd) ∧ (m ≠ 0 → u.endedWith p.cmd stItem)))
    ∧ (∀ seq m, s.active = true → s.timerFires (.ring seq) t = true → s.fwd.ring.find? (fun m => m.seq == seq) = some m →
      (m.tries < s.fwd.ringRetry.force.toNat → ∃ u, exec (.ringTimeout seq t) s = .next u
        ∧ u.fwd.ring = s.fwd.ring.map (fun x => if x.seq = seq then { x with tries := x.tries + 1 } else x) ∧ u.fwd.publish = s.fwd.publish)
      ∧ (s.fwd.ringRetry.force.toNat ≤ m.tries → ∀ p, s.fwd.publish = some p → (∃ c ∈ (s.queue p.cmd.q).cmds, c.seq = p.cmd.seq) →
        ∃ u, exec (.ringTimeout seq t) s = .next u ∧ u.fwd.ring = [] ∧ u.fwd.publish = none ∧ u.endedWith p.cmd stItem))
    ∧ (∀ req value env, s.takesGlobal req → s.inStep10 = false → fldN value 0 17 ≤ 65536 →
      let n := fldN value 0 17
      let next : W32 := fld value 32 32
      (next.toNat ≤ s.fwd.epoch.get.toNat ∨ s.fwd.reloading = true →
        ∃ u, exec (.ownerReload req value env) s = .next u ∧ u.fwd.reloadReject = true ∧ sameTable u ∧ u.fwd.nextEpoch = next)
      ∧ (s.fwd.epoch.get.toNat < next.toNat → s.fwd.reloading = false → ∀ bs, s.vread s.hostPart (s.fwd.ownBase.get.toNat * 64) (8 * n) = .ok bs →
        ((words64 n bs).any ownBad = true → ∃ u, exec (.ownerReload req value env) s = .next u ∧ u.fwd.reloadReject = true ∧ sameTable u)
        ∧ ((words64 n bs).any ownBad = false →
          ∃ u, exec (.ownerReload req value env) s = .next u ∧ newTable u next (words64 n bs) ∧ u.fwd.reloadReject = s.fwd.reloadReject)))
    ∧ (∀ env, s.live = true → s.inStep10 = true → s.boot.stall = 0 →
      let n := min s.fwd.ownEntries.toNat 65536
      let ready := fun (u : State) => u.boot.state = stReady ∧ u.boot.step = 11 ∧ u.boot.bp = 10000
      (s.fwd.nextEpoch = 0 → ∃ u, exec (.ownerTableFetch env) s = .next u ∧ ready u ∧ sameTable u)
      ∧ (s.fwd.epoch.get.toNat < s.fwd.nextEpoch.toNat → (s.part s.hostPart).mmuEnable.force = true →
        ∀ bs, s.vread s.hostPart (s.fwd.ownBase.get.toNat * 64) (8 * n) = .ok bs → (words64 n bs).any ownBad = false →
          ∃ u, exec (.ownerTableFetch env) s = .next u ∧ ready u ∧ newTable u s.fwd.nextEpoch (words64 n bs)))

/-- PREEMPTION_TIMER, DECISION_TIMER, REPROJECTION_PRESENT and GROUP_RESTORE (R300, R342, R343, R346 to R348, R456, R511): an armed deadline fires at its
pre-emption time, with its interrupt; at its decision time re-projection begins, its matrix read, where 64 TUs serve it, a reference frame is there with
its summary whole and the matrix can be read, and is denied otherwise with its interrupt; an uncorrectable word of the Steep list puts the block in ERROR,
and no timer acts; a re-projected frame is written, from the summary of its decision, and presented, and the state
of its deadline is LATE, or it is denied at an access that faults; a saved group returns to its slot when its set's resources are free. That a decision
waits while an earlier re-projection is under way, and that a frame is built while some tile unit's slot 3 is free, are the model's (DESIGN CHOICE, log 115). -/
def Obligations.DeadlinesFireAndReproject : Prop :=
  ∀ (p : PartId) (env : Env) (s : State),
    let st := (s.part p).deadline.state
    let denied := fun (i : Instr) => ∃ u, exec i s = .next u ∧ (u.part p).deadline.state = dlFiring ∧ (u.part p).reprojDenied = true
      ∧ (u.part p).reproj = none ∧ u.pins.presents = s.pins.presents ∧ ((s.part p).reprojIrq = true → ⟨false, p, (s.part p).dlVec⟩ ∈ u.pins.irqs)
    (s.ready = true → s.timerFires (.preempt p) env.t = true → env.hw.lists = .ok →
      (st = dlArmed → ∃ u, exec (.preemptionTimer p env) s = .next u ∧ (u.part p).deadline = { (s.part p).deadline with state := dlFiring }
        ∧ ((s.part p).fireIrq = true → ⟨false, p, (s.part p).dlVec⟩ ∈ u.pins.irqs))
      ∧ (st ≠ dlArmed → exec (.preemptionTimer p env) s = .next (s.fire (.preempt p) env.t)))
    ∧ (s.ready = true → env.hw.lists = .failed →
      (s.timerFires (.preempt p) env.t = true → ∃ u, exec (.preemptionTimer p env) s = .next u ∧ u.boot.state = stError ∧ u.parts = s.parts)
      ∧ (∀ check, s.timerFires (.decision p) env.t = true →
        ∃ u, exec (.decisionTimer p check env) s = .next u ∧ u.boot.state = stError ∧ u.parts = s.parts))
    ∧ (∀ check, s.ready = true → (s.part p).reproj = none → s.timerFires (.decision p) env.t = true → env.hw.lists = .ok →
      let s1 := s.fire (.decision p) env.t
      let s2 := s1.doIf (decide (check = .corrected)) State.errCorrected
      (st = dlArmed ∨ st = dlFiring →
        (∀ d, 64 ≤ s.servedTus p → (s.part p).refFrame = some d → check ≠ .failed →
          (∀ mv, s2.vnum p d.reprojM 64 = .ok mv → ∃ u, exec (.decisionTimer p check env) s = .next u ∧ (u.part p).deadline.state = dlReproj
            ∧ (u.part p).reproj = some (d, (List.range 16).map (fun i => recW mv (4 * i)), (s.part p).refSummary)
            ∧ (u.part p).reprojDenied = (s.part p).reprojDenied)
          ∧ (∀ x, s2.vnum p d.reprojM 64 = .bad x → denied (.decisionTimer p check env)))
        ∧ (s.servedTus p < 64 ∨ (s.part p).refFrame = none ∨ check = .failed → denied (.decisionTimer p check env)))
      ∧ (st ≠ dlArmed → st ≠ dlFiring → exec (.decisionTimer p check env) s = .next s1))
    ∧ (∀ check, (s.part p).reproj ≠ none → env.hw.lists = .ok → exec (.decisionTimer p check env) s = .next s)
    ∧ (∀ d m sum, (s.part p).reproj = some (d, m, sum) → s.works p = true →
      let s1 := s.at env.t
      ((∀ unit, s.tile? unit 3 ≠ none) → exec (.reprojectionPresent p env) s = .next s1)
      ∧ ((∃ unit, s.tile? unit 3 = none) →
        (∀ l s2, s1.reprojWrites p d m sum = .ok l → s1.vwriteAll p l = .ok s2 →
          ∃ u, exec (.reprojectionPresent p env) s = .next u ∧ u.mem = s2.mem
            ∧ (u.part p).deadline = { (s.part p).deadline with state := if st = dlReproj then dlLate else st }
            ∧ u.pins.presents = s.pins.presents ++ [⟨BitVec.ofNat 64 d.reprojOut, (s.part p).frame, true, false, p⟩]
            ∧ (u.part p).reprojections = satInc (s.part p).reprojections ∧ (u.part p).frame = (s.part p).frame + 1 ∧ (u.part p).reproj = none
            ∧ ((s.part p).reprojIrq = true → ⟨false, p, (s.part p).dlVec⟩ ∈ u.pins.irqs))
        ∧ (∀ x, st = dlReproj → s1.reprojWrites p d m sum = .bad x ∨ (∃ l, s1.reprojWrites p d m sum = .ok l ∧ s1.vwriteAll p l = .bad x) →
          denied (.reprojectionPresent p env))))
    ∧ ((s.part p).reproj = none → exec (.reprojectionPresent p env) s = .next (s.at env.t))
    ∧ (∀ (g : GroupRef) (x : Group), s.setter.saved.find? (fun e => decide (e.1 = g) && s.restoreTurn e.2) = some (g, x) →
      s.works x.part = true → s.firing x.part = false → s.restorable (s.setOf x.block) = true → s.savedOf (s.setOf x.block) = [(g, x)] →
      (∃ bs, s.vread x.part (s.recordVa x.part g) (2048 + 128 * x.prog.vregs) = .ok bs) →
      x.wait ≠ .accept → (∀ k y, s.group? k = some y → y.wait ≠ .accept) →
      ∃ u, exec (.groupRestore g env) s = .next u ∧ u.group? g = some x.restored ∧ (∀ k, k ≠ g → u.group? k = s.group? k)
        ∧ u.setter.saved = s.setter.saved.filter (fun e => decide (e.1 ≠ g) || decide (e.2.block ≠ x.block)))
    ∧ (∀ (g : GroupRef), (∀ e ∈ s.setter.saved, e.1 ≠ g) → exec (.groupRestore g env) s = .next (s.at env.t))

/-- TILE_LOAD, TILE_RESOLVE and PARK_GRANT (R316, R321 to R323, R329 to R332, R345, R347, R352), in a state where no group waits at EXIT: a free slot takes the
next tile of the first pass that has one, blended whole where the command names no program, with its start state where it names one and the tile holds no
entry; a tile whose list has retired is written and leaves its slot, its final resolve being one item of its command; an uncorrectable word, or a residue error of VIS's address
arithmetic, ends the command CONTAINED; depth parking goes to the first request that waits: a pass gets its entries, its leading tiles first, a summary reservation its two copies once
they fit. The grant's size is an operand (DESIGN CHOICE, log 116). -/
def Obligations.TilesAreLoadedAndResolved : Prop :=
  ∀ (env : Env) (s : State), (∀ g x, s.group? g = some x → x.wait ≠ .accept) →
    (∀ (unit : Fin 64) (v : Pass) (k : Fin 4) (c : Cmd) (n : Nat) (r : List Nat),
      s.tilePasses.findSome? (fun v => (s.tileSlot unit v.cls).map (fun k => (v, k))) = some (v, k) → v.todo = n :: r → s.cmd? v.cmd = some c →
      s.pass? v.cmd = some v → (∀ j, s.tile? unit j = none) →
      (∀ check px, check ≠ .failed → env.hw.addr = false →
        let s1 := (s.at env.t).doIf (decide (check = Check.corrected)) State.errCorrected
        let l := binOrder (v.bin n)
        let tile : Tile := ⟨s.fresh, v.cmd, v.part, v.cls, n, l, px, (assocGet n v.status).getD 0, decide (v.phase = .finally_), List.replicate 64 0, [], 0⟩
        let loads := fun (pixels : Vector Pixel 256) =>
          ∃ u t y, exec (.tileLoad unit check env) s = .next u ∧ u.tile? unit k = some t ∧ t.cmd = v.cmd ∧ t.part = v.part ∧ t.tile = n
            ∧ t.list = l ∧ t.pixels = pixels ∧ t.final = decide (v.phase = .finally_) ∧ (∀ j, j ≠ k → u.tile? unit j = none)
            ∧ u.pass? v.cmd = some y ∧ y.todo = r ∧ u.mem = s.mem
        s1.startTile v (tileEnv v c).tri n = .ok px →
        (∀ w, spProg c.raw = false → s1.fixedTile v c.raw (tileEnv v c) l ⟨tile, [], 0⟩ = .ok w → loads w.tile.pixels)
        ∧ (spProg c.raw = true → v.bin n = [] → loads px))
      ∧ ∀ check, check = .failed ∨ env.hw.addr = true →
        ∃ u, exec (.tileLoad unit check env) s = .next u ∧ u.endedWith v.cmd stContained ∧ u.pass? v.cmd = none ∧ u.mem = s.mem)
    ∧ (∀ (unit : Fin 64) (slot : Fin 4) (t : Tile) (v : Pass) (c : Cmd), s.tile? unit slot = some t → s.pass? t.cmd = some v → s.cmd? t.cmd = some c →
      (∀ check, c.parked = true ∨ s.works v.part = false ∨ t.done = false → exec (.tileResolve unit slot check env) s = .next (s.at env.t))
      ∧ (c.parked = false → s.works v.part = true → t.done = true →
        (∀ check, check ≠ .failed →
          let s1 := (s.at env.t).doIf (decide (check = Check.corrected)) State.errCorrected
          (∀ s2, s1.vwriteAll v.part (resolveWrites v c t).1 = .ok s2 →
            ∃ u, exec (.tileResolve unit slot check env) s = .next u ∧ u.mem = s2.mem ∧ u.tile? unit slot = none
              ∧ ((∀ d ∈ (s.queue t.cmd.q).cmds, d.seq = t.cmd.seq → d = c) → u.cmdIs t.cmd (fun d => d.done = c.done + (if t.final then 1 else 0))))
          ∧ (∀ x, s1.vwriteAll v.part (resolveWrites v c t).1 = .bad x →
            exec (.tileResolve unit slot check env) s
              = .next (s1.fault env v.part 0 x 0 (s1.cmdCtx t.cmd 7) (.command t.cmd.q t.cmd.seq))))
        ∧ ∃ u, exec (.tileResolve unit slot .failed env) s = .next u ∧ u.endedWith t.cmd stContained ∧ u.mem = s.mem))
    ∧ (∀ (p : PartId) (grant : Nat), s.nextPark = none → exec (.parkGrant p grant) s = .next s)
    ∧ (∀ (p : PartId) (grant : Nat) (w : ParkReq), s.nextPark = some w →
      (w.part ≠ p ∨ s.works p = false → exec (.parkGrant p grant) s = .next s)
      ∧ (∀ a b, w.part = p → s.works p = true → w.size = some (a, b) →
        (s.parkFree < summaryNeed a b → exec (.parkGrant p grant) s = .next s)
        ∧ (summaryNeed a b ≤ s.parkFree → ∃ u, exec (.parkGrant p grant) s = .next u ∧ (u.part p).summary = some (a, b)
          ∧ u.vis.parkSummary = s.vis.parkSummary + summaryNeed a b ∧ u.vis.parkWait = s.vis.parkWait.filter (fun y => decide (y ≠ w))
          ∧ u.vis.parkUsed = s.vis.parkUsed ∧ u.vis.passes = s.vis.passes ∧ u.queues = s.queues))
      ∧ (∀ v, w.part = p → s.works p = true → w.size = none → s.pass? w.cmd = some v →
        (grant = 0 ∨ s.parkMax p < grant ∨ s.parkFree < grant → exec (.parkGrant p grant) s = .next s)
        ∧ (0 < grant → grant ≤ s.parkMax p → grant ≤ s.parkFree →
          let a := v.active.take grant
          ∃ u y, exec (.parkGrant p grant) s = .next u ∧ u.vis.parkUsed = s.vis.parkUsed + a.length ∧ u.pass? v.cmd = some y
            ∧ y.active = a ∧ y.deferred = v.deferred ++ v.active.drop grant ∧ y.granted = a.length
            ∧ y.bins = v.bins.filter (fun e => a.contains e.1) ∧ (y.phase = .binning ∨ y.phase = .partly)
            ∧ u.vis.parkWait = s.vis.parkWait.filter (fun y => decide (y ≠ w)) ∧ u.queues = s.queues)))

/-- CALL_MESSAGE, GROUP_LAUNCH, EXIT and BRK (R9, R10, R268, R269, R276, R278, R279, R284, R298, R303, R305, R328): a call whose nine words its sender holds credit
for waits, where it is of a bound role 3 or 5 program, until its block is full and then goes to a dispatcher, any other such call is answered with
STATUS 1; a dispatcher launches the entry that is next; the lanes that EXIT leave for good, and the last ones end the group once its stores are visible and its
results can be taken, of a fragment group those that retire at once before the others; a word that EXIT or BRK finds corrected is counted, an uncorrectable
one ends the group CONTAINED; BRK traps with BREAK at its own PC, its record waiting while 64 faults are open. -/
def Obligations.GroupsBeginAndEnd : Prop :=
  ∀ s : State,
    (∀ (port : PortId) (hdr : Slot64) (args : List (BitVec 128)) p, s.portOwner port = some p → s.works p = true →
      let slot := rb hdr 0 1
      let lanes := rb hdr 1 1
      let run := exec (.callMessage port hdr args) s
      (s.hasCredit port .vector 9 = false → run = .next s)
      ∧ (s.hasCredit port .vector 9 = true →
        let s1 := s.useCredit port .vector 9
        (assocGet slot (s.part p).progs = none → run = .next (s1.reply p hdr 1 (List.replicate 32 0)))
        ∧ ∀ f, assocGet slot (s.part p).progs = some f →
          let good := (f.role = 3 ∨ f.role = 5) ∧ 1 ≤ lanes ∧ lanes ≤ 32 ∧ rb hdr 8 56 = 0
          let mine := fun (e : PortId × Prog × Slot64 × List (BitVec 128)) => decide (e.1 = port) && decide (e.2.1 = f) && rb e.2.2.1 0 1 == slot
          let all := s.setter.calls.filter mine ++ [(port, f, hdr, args)]
          let n := f.groups * f.cluster
          let load := fun (c : CoreId) => ((List.range f.cluster).map (fun k => s.coreLoad (coreNo (c.val + k)))).sum
          let best := leastBy load ((s.coreSets p s.sel f.cluster).filter (fun c => decide (s.queued c < 8)))
          let y := s.callGroup p f port hdr args
          (¬ good → run = .next (s1.reply p hdr 1 (List.replicate 32 0)))
          ∧ (good → all.length < n ∨ best = none →
            run = .next { s1 with setter := { s.setter with calls := s.setter.calls ++ [(port, f, hdr, args)] } })
          ∧ (good → all.length = n → ∀ c, best = some c →
            ∃ u, run = .next u ∧ u.setter.calls = s.setter.calls.filter (fun e => !mine e)
              ∧ (u.core c).queue = (s.core c).queue ++ [⟨all.map (fun e => s.callGroup p f e.1 e.2.2.1 e.2.2.2), f.cluster⟩]
              ∧ u.ret = s1.ret ∧ ∀ d, d ≠ c → u.core d = s.core d)
          ∧ y.cls = 2 ∧ y.launch = BitVec.ofNat 32 (2 ^ lanes - 1) ∧ y.active = y.launch ∧ y.tag = fld hdr 32 32 ∧ y.pc = BitVec.ofNat 32 f.entry
          ∧ (args.length = 32 → ∀ (l : Fin 32) k, k < 4 → y.vreg k l = fld (args.getD l.val 0) (32 * k) 32)))
    ∧ (∀ (core : CoreId) (env : Env),
      (∀ c, ∀ w ∈ (s.core c).queue, s.firing w.part = false ∨ w.cls ≠ 0 ∨ (s.part w.part).saveBase.force = 0) → s.setter.calls = [] →
      (s.nextLaunch core = none → exec (.groupLaunch core env) s = .next (s.at env.t))
      ∧ ∀ x, s.nextLaunch core = some ⟨[x], 1⟩ → x.prog.groups = 1 → ∃ u slot y, exec (.groupLaunch core env) s = .next u
        ∧ (s.core core).freeSlots.head? = some slot ∧ u.group? ⟨core, slot⟩ = some y
        ∧ y.state = .running ∧ y.pc = x.pc ∧ y.active = x.active ∧ y.vregs = x.vregs ∧ y.prog = x.prog ∧ y.work = x.work ∧ y.rank = 0 ∧ y.inBlock = 0
        ∧ y.sreg 2 = BitVec.ofNat 32 (packN [(4, x.part.val), (4, core.val), (4, slot.val), (1, if x.cls = 0 then 1 else 0)]) ∧ y.sreg 3 = 0
        ∧ (∀ n w, n ≠ 2 → n ≠ 3 → assocGet n x.sregs = some w → y.sreg n = w)
        ∧ (∀ k, k ≠ slot → u.group? ⟨core, k⟩ = s.group? ⟨core, k⟩)
        ∧ (u.core core).queue = (s.core core).queue.erase ⟨[x], 1⟩ ∧ (u.core core).split = x.prog.split
        ∧ (∃ pages, (u.core core).blocks = (s.core core).blocks ++ [⟨y.block, y.block, 0, 1, 0, blockBytes x.prog, 1, x.prog, pages, []⟩]
          ∧ ∀ k ∈ pages, k < localPart x.prog.split / 1024 ∧ ∀ b ∈ (s.core core).blocks, k ∉ b.pages)
        ∧ ∀ d, d ≠ core → u.core d = s.core d)
    ∧ (∀ g x, s.fetches g x →
      let y := { x with exited := x.exited ||| x.active, active := 0, dstack := dropLanes x.active x.dstack,
                        results := x.results ++ x.lanes.map (fun l => (l.val, x.returned l)) }
      let stays := fun (i : Instr) (w : GWait) => ∃ u, exec i s = .next u ∧ u.group? g = some { y with wait := w, state := .waiting }
      (∀ check, check ≠ .failed →
        let s1 := (s.seen check).dropSpilled x x.active
        let s2 := s1.put g y
        (y.over = false → exec (.exit g check) s = .next (s1.ranTo g { y with pc := x.pc + 8 }))
        ∧ (y.over = true → x.stores = 0 → s2.acceptable y = true → exec (.exit g check) s = .next ((s2.finishGroup g y).acceptMore 4096)
          ∧ (s2.leaveSlot g y).group? g = none)
        ∧ (y.over = true → x.stores = 0 → s2.acceptable y = false →
          exec (.exit g check) s = .next (((s2.put g { y with wait := .accept, state := .waiting }).barriers x.block).acceptMore 4096)
          ∧ (s2.partly y = false → (∀ k z, k ≠ g → s.group? k = some z → z.wait ≠ .accept) → stays (.exit g check) .accept))
        ∧ (y.over = true → x.stores ≠ 0 → stays (.exit g check) .ending))
      ∧ exec (.exit g .failed) s = .next (s.containGroup g x))
    ∧ (∀ g x t, (s.at t).fetches g x →
      let now := { x with state := .trapped, trap := 9, stepping := false }
      (∀ check, check ≠ .failed →
        (64 ≤ (s.openOf x.part).length → ∃ u, exec (.brk g t check) s = .next u ∧ u.group? g = some now ∧ u.mmu = s.mmu
          ∧ (u.part x.part).overflow = (s.part x.part).overflow ++ [⟨.trapNote 9 x.block x.inBlock, State.groupCtx g x, 0⟩])
        ∧ ((s.openOf x.part).length < 64 → (s.part x.part).autoEnd = false → ∃ u f, exec (.brk g t check) s = .next u ∧ u.group? g = some now
          ∧ u.mmu.faults = s.mmu.faults ++ [f] ∧ f.part = x.part ∧ f.kind = 1 ∧ f.cause = 9 ∧ f.parked = [.group g.core g.slot]))
      ∧ exec (.brk g t .failed) s = .next ((s.at t).containGroup g x))

/-- BAR, BAR.CLU, FENCE.SYS, FENCE.BLK and FENCE.CLU (R288, R297; also R268, R296, R303, R305): a group that arrives waits until every group of its block, or of
its cluster set, has arrived or ended, and then goes on; an arrival with some lanes absent traps precisely unless the header allows it, the absent lanes are
recorded, a BAR by such a lane traps, and an arrival with the full mask clears the record; a corrected word of the group is counted, an uncorrectable one ends the
group; FENCE.SYS waits for the group's stores and atomics, and with none outstanding leaves no acknowledged byte of the group hidden and the core's L1 empty; the
other two fences only go on. -/
def Obligations.BarriersAndFencesHoldTheirGroup : Prop :=
  (∀ (g : GroupRef) (x : Group) (b : Fin 16) (t : Nat) (s : State), (s.at t).fetches g x →
    let full := x.launch &&& ~~~x.exited
    let others := x.bars.filter (fun r => decide (r.bar ≠ b))
    let again := x.bars.any (fun r => decide (r.bar = b) && decide (r.absent &&& x.active ≠ 0))
    let arrives := fun (check : Check) (bars : List BarRec) =>
      let y := { x with pc := x.pc + 8, arrived := assocPut b.val (arrivals x.arrived b.val + 1) x.arrived, bars := bars, wait := .bar b, state := .waiting }
      let peers := ((s.at t).put g y).liveGroups.filter (fun h => !h.over && h.block == x.block)
      ∃ u, exec (.bar g b t check) s = .next u
        ∧ ((∀ h ∈ peers, arrivals x.arrived b.val + 1 ≤ arrivals h.arrived b.val) → u.group? g = some y.wake)
        ∧ ((∃ h ∈ peers, arrivals h.arrived b.val ≤ arrivals x.arrived b.val) → u.group? g = some y)
        ∧ u.mem = s.mem ∧ u.queues = s.queues ∧ u.err = ((s.at t).seen check).err
    let traps := fun (check : Check) (code : Byte) =>
      exec (.bar g b t check) s = .next (((s.at t).seen check).trap (s.at t).env0 g x code.toNat)
      ∧ ((s.part x.part).autoEnd = false → ∃ u, exec (.bar g b t check) s = .next u
        ∧ u.group? g = some { x with state := .trapped, trap := code, stepping := false })
    (∀ check, check ≠ .failed →
      (x.active = full → arrives check others)
      ∧ (x.active ≠ full → again = false → x.prog.barPartialOk = true → arrives check (⟨b, full &&& ~~~x.active⟩ :: others))
      ∧ (x.active ≠ full → again = true → traps check 7)
      ∧ (x.active ≠ full → again = false → x.prog.barPartialOk = false → traps check 6))
    ∧ exec (.bar g b t .failed) s = .next ((s.at t).containGroup g x))
  ∧ ∀ (g : GroupRef) (x : Group) (s : State), s.fetches g x →
    let on_ := { x with pc := x.pc + 8 }
    (∀ b : Fin 4,
      let y := { on_ with cluArr := assocPut b.val (arrivals x.cluArr b.val + 1) x.cluArr, wait := .barClu b, state := .waiting }
      let peers := (s.put g y).liveGroups.filter (fun h => !h.over && s.setOf h.block == s.setOf x.block)
      (∀ check, check ≠ .failed → ∃ u, exec (.barClu g b check) s = .next u
        ∧ ((∀ h ∈ peers, arrivals x.cluArr b.val + 1 ≤ arrivals h.cluArr b.val) → u.group? g = some y.wake)
        ∧ ((∃ h ∈ peers, arrivals h.cluArr b.val ≤ arrivals x.cluArr b.val) → u.group? g = some y)
        ∧ u.mem = s.mem ∧ u.queues = s.queues ∧ u.err = (s.seen check).err)
      ∧ exec (.barClu g b .failed) s = .next (s.containGroup g x))
    ∧ (∀ check, check ≠ .failed →
      let s0 := s.seen check
      (x.stores = 0 →
        let s1 := s0.loosen x.block x.inBlock
        exec (.fenceSys g check) s = .next ((s1.setCore g.core { s1.core g.core with l1 := [] }).ranTo g on_)
          ∧ ∀ e ∈ s1.setter.pend, e.acked = true → e.block ≠ x.block ∨ e.inBlock ≠ x.inBlock)
      ∧ (x.stores ≠ 0 → ∃ u, exec (.fenceSys g check) s = .next u ∧ u.group? g = some { on_ with wait := .fence, state := .waiting }
        ∧ (u.core g.core).l1 = (s.core g.core).l1 ∧ u.mem = s.mem)
      ∧ exec (.fenceBlk g check) s = .next (s0.ranTo g on_)
      ∧ exec (.fenceClu g check) s = .next (s0.ranTo g on_))
    ∧ exec (.fenceSys g .failed) s = .next (s.containGroup g x)
    ∧ exec (.fenceBlk g .failed) s = .next (s.containGroup g x)
    ∧ exec (.fenceClu g .failed) s = .next (s.containGroup g x)

/-- LOAD, STORE, ATOMIC, LOCKACQ and LOCKREL (R268, R280, R285, R287, R288, R290 to R295, R303, R305): the active lanes' accesses at their resolved addresses, in
lane order; a load brings its bytes into the destination, those its core has stored and others do not see yet before memory's; a store's bytes are what its core,
and no other, sees there from then on, its local store's bytes are there at once, and nothing else changes; an atomic performed at memory writes the new value
and returns the old one, a lock is won where its word is 0 and given up where its word names the lane; a store or atomic that reached memory is outstanding until
it is acknowledged; operands that do not exist trap with ILLEGAL_INSTR, an address that is no multiple of the width with MISALIGNED, too many spins with SPIN, an
access that fails parks the group; a corrected word is counted, an uncorrectable one, or a residue error of the address arithmetic, ends the group. That a store stays hidden from other cores until its
group's fence or end is the model's reading of the earliest moment R288 gives (DEDUCED, log 98). -/
def Obligations.GroupsAccessMemory : Prop :=
  ∀ (g : GroupRef) (x : Group) (space : Space) (addr : Src) (check : Check) (env : Env) (s : State),
    let s0 := s.at env.t
    let s1 := s0.seen check
    s0.fetches g x →
    let wideAddr := decide (space = .global)
    let goes := fun (i : Instr) (legal : Bool) (k : AccKind) (n : Nat) (done : List (Fin 32 × Cell) → Prop) =>
      let c := s1.cells x space k n addr
      (check = .failed → exec i s = .next (s0.containGroup g x))
      ∧ (check ≠ .failed → env.hw.addr = true → exec i s = .next ((s0.lostGroup 6 g x).acceptMore 4096))
      ∧ (check ≠ .failed → env.hw.addr = false →
        (legal = false → exec i s = .next (s1.trap env g x 2))
        ∧ (legal = true →
          ((∃ l ∈ x.lanes, laneAddr x space addr l % n ≠ 0) → c = .trap 3)
          ∧ (c = .trap 3 → exec i s = .next (s1.trap env g x 3)) ∧ (c = .trap 4 → exec i s = .next (s1.trap env g x 4))
          ∧ (∀ e, c = .fault e → exec i s = .next (s1.memFault env g x e))
          ∧ ∀ l, c = .ok l → done l))
    let ends := fun (i : Instr) (n : Nat) (l : List (Fin 32 × Cell)) (u : State) (y : Group) =>
      exec i s = .next (if space = .global ∧ l ≠ []
        then (u.noteWrite (.group g.core g.slot) x.part (l.map (fun e => (laneAddr x space addr e.1, n)))).ranTo g { y with stores := x.stores + 1 }
        else u.ranTo g y)
    let apart := fun (n pa : Nat) (m : Mem) => ∀ a, a < pa ∨ pa + n ≤ a → m.get a = s.mem.get a
    (∀ (w : MemWidth) (nc l1 : Bool) dst, let n := widthBytes w
      let i := Instr.load g space w nc l1 dst addr check env
      goes i (vfits x n dst && addr.fits x wideAddr) .read n (fun l =>
        let r := s1.loadAll g.core x.part nc l1 n l
        ∃ y, exec i s = .next (r.2.ranTo g y)
          ∧ x.wrote y (.v dst) (regsOf n) (fun k i => BitVec.ofNat 32 ((assocGet i.val r.1).getD 0 / 2 ^ (32 * k)))
          ∧ (nc = true ∨ space = .loc →
            r.1 = l.map (fun e => (e.1.val, match e.2 with | .loc b off => s.locNum b off n | .mem pa => s.coreNum g.core pa n))
            ∧ r.2.setter = s.setter ∧ r.2.mem = s.mem)
          ∧ (∀ k pa, nc = false → l = [(k, .mem pa)] →
            r.1 = [(k.val, match (if l1 then s.l1Line g.core x.part (pa / 128) else none) with
              | some d => nfld d.toNat (8 * (pa % 128)) (8 * n)
              | none => s.coreNum g.core pa n)] ∧ r.2.mem = s.mem)))
    ∧ (∀ (w : MemWidth) src, let n := widthBytes w
      let i := Instr.store g space w src addr check env
      goes i (vfits x n src && addr.fits x wideAddr) .write n (fun l =>
        let u := l.foldl (fun s e => s.storeCell g x e.2 n (x.storeVal src n e.1)) s1
        ends i n l u { x with pc := x.pc + 8 } ∧ u.mem = s.mem
          ∧ (∀ c a, (c ≠ g.core ∨ ∀ e ∈ l, ∀ pa, e.2 = .mem pa → a < pa ∨ pa + n ≤ a) → u.coreByte c a = s.coreByte c a)
          ∧ (∀ e ∈ l, ∀ pa, e.2 = .mem pa → (∀ d ∈ l, e.1 < d.1 → ∀ pb, d.2 = .mem pb → pb + n ≤ pa ∨ pa + n ≤ pb) →
            u.coreNum g.core pa n = x.storeVal src n e.1)
          ∧ ((∀ b ∈ s.blocksAll, b.store.wf = true) →
            (∀ b off, (∀ e ∈ l, ∀ o, e.2 = .loc b o → off < o ∨ o + n ≤ off) → u.locNum b off 1 = s.locNum b off 1)
            ∧ ∀ e ∈ l, ∀ b o, e.2 = .loc b o → (∀ d ∈ l, e.1 < d.1 → ∀ q, d.2 = .loc b q → q + n ≤ o ∨ o + n ≤ q) →
              u.locNum b o n = x.storeVal src n e.1)))
    ∧ (∀ (op : AtomOp) (wide : Bool) dst a b, let n := if wide then 8 else 4
      let i := Instr.atomic g op wide space dst addr a b check env
      goes i (vfits x n dst && addr.fits x wideAddr && a.fits x wide && b.fits x wide && !(decide (op = .addF) && wide)) .atomic n (fun l =>
        let s2 := s1.drainCells g.core n l
        (∀ k pa, s.mem.wf = true → l = [(k, .mem pa)] → apart n pa s2.mem ∧ s2.mem.num pa n = s.coreNum g.core pa n)
        ∧ (op ≠ .addF →
          let r := s2.atomRun op n (fun k => (a.num x wide k, b.num x wide k)) l
          ∃ y, ends i n l r.2 y
            ∧ x.wrote y (.v dst) (regsOf n) (fun k j => BitVec.ofNat 32 ((assocGet j.val r.1).getD 0 / 2 ^ (32 * k)))
            ∧ ∀ k pa, s.mem.wf = true → l = [(k, .mem pa)] → let old := s2.mem.num pa n
              r.1 = [(k.val, old)] ∧ r.2.mem.num pa n = atomNew op (8 * n) old (a.num x wide k) (b.num x wide k) % 2 ^ (8 * n) ∧ apart n pa r.2.mem)
        ∧ (op = .addF →
          let r := s2.fpAtoms (ovfOf x.ovf) l (fun k => a.val x k) (distinctCells l)
          let inv := (r.2.1.filter (fun e => e.2.inv)).map (·.1)
          ∃ y, ends i n l r.2.2 y
            ∧ (s1.report x inv (r.2.1.filter (fun e => e.2.ovf)).length).wrote y (.v dst) 1 (fun _ j => BitVec.ofNat 32 ((assocGet j.val r.1).getD 0))
            ∧ ∀ k pa, s.mem.wf = true → l = [(k, .mem pa)] → let old := BitVec.ofNat 32 (s2.mem.num pa 4)
              r.1 = [(k.val, old.toNat)] ∧ r.2.2.mem.num pa 4 = (flAdd (ovfOf x.ovf) old (a.val x k)).v.toNat ∧ apart 4 pa r.2.2.mem)))
    ∧ (∀ dst steps stood,
      let spin := x.spinNow steps stood
      let lim := 1024 * (s.part x.part).spinLimit.force.toNat
      let legal := vfits x 4 dst && addr.fits x wideAddr
      let i := Instr.lockacq g dst space addr steps stood check env
      (check = .failed → exec i s = .next (s0.containGroup g x))
      ∧ (check ≠ .failed → env.hw.addr = false → legal = false → exec i s = .next (s1.trap env g x 2))
      ∧ (check ≠ .failed → env.hw.addr = false → legal = true → lim ≠ 0 → lim < spin.getD 0 → exec i s = .next ((s1.put g { x with spin := spin }).trap env g x 8))
      ∧ (lim = 0 ∨ spin.getD 0 ≤ lim → goes i legal .atomic 4 (fun l =>
        let s2 := s1.drainCells g.core 4 l
        let r := s2.lockRun g l
        ∃ y sp, ends i 4 l r.2 y ∧ Group.wrote { x with spin := sp } y (.v dst) 1 (fun _ j => BitVec.ofNat 32 ((assocGet j.val r.1).getD 0))
          ∧ (r.1 ≠ [] → (∀ e ∈ r.1, e.2 = 0) → sp = none)
          ∧ ((∃ e ∈ r.1, e.2 ≠ 0) → sp = some (if r.1.any (fun e => e.2 == 0) then 0 else spin.getD 0))
          ∧ ∀ k pa, s.mem.wf = true → l = [(k, .mem pa)] → let w := s2.mem.num pa 4
            apart 4 pa r.2.mem
            ∧ (w = 0 → r.1 = [(k.val, 0)] ∧ r.2.mem.num pa 4 = lockWord g k)
            ∧ (w ≠ 0 → r.1 = [(k.val, if w / 32 = lockWord g 0 / 32 then 2 else 1)] ∧ r.2.mem = s2.mem))))
    ∧ (∀ dst,
      let i := Instr.lockrel g dst space addr check env
      goes i (vfits x 4 dst && addr.fits x wideAddr) .atomic 4 (fun l =>
        let s2 := s1.drainCells g.core 4 l
        let r := s2.unlockRun g l
        ∃ y, ends i 4 l r.2 y ∧ x.wrote y (.v dst) 1 (fun _ j => BitVec.ofNat 32 ((assocGet j.val r.1).getD 0))
          ∧ ∀ k pa, s.mem.wf = true → l = [(k, .mem pa)] → let w := s2.mem.num pa 4
            apart 4 pa r.2.mem
            ∧ (w = lockWord g k → r.1 = [(k.val, 0)] ∧ r.2.mem.num pa 4 = 0)
            ∧ (w ≠ lockWord g k → r.1 = [(k.val, 3)] ∧ r.2.mem = s2.mem)))

/-- TEX and TEXLOD (R268, R303, R305, R330, R338, R339, R341): each active lane's sample of its descriptor leaves R, G, B, A and the lane status in five registers;
samples that are not resident or invalid mark what the group serves, and the invalid ones are kept for its report; an access that fails parks the group; a group
that does not declare the texture unit, or an operand that does not exist, traps with ILLEGAL_INSTR; a descriptor that is not valid gives the fallback texel
with INVALID; a corrected word is counted, an uncorrectable one, or a residue error of the address arithmetic, ends the group. Outside a fragment group
TEX samples at level 0. -/
def Obligations.TextureSamplesReachTheirLanes : Prop :=
  ∀ (g : GroupRef) (x : Group) (dst : Nat) (desc u v lod : Src) (check : Check) (env : Env) (s : State),
    let s0 := s.at env.t
    let s1 := s0.seen check
    s0.fetches g x →
    let tex := Instr.tex g dst desc u v check env
    let texlod := Instr.texlod g dst desc u v lod check env
    let fits := x.prog.usesTex = true ∧ dst + 5 ≤ x.prog.vregs ∧ desc.fits x true = true ∧ u.fits x false = true ∧ v.fits x false = true
    let ctx := { State.groupCtx g x with source := 7 }
    let vals := fun (f : Fin 32 → TexDesc → W32) => s1.samples x.part ctx (fun l => (desc.val64 x l).toNat) (u.val x) (v.val x) f x.lanes
    let illegal := fun (i : Instr) => exec i s = .next (s1.trap env g x 2)
    let runs := fun (i : Instr) (f : Fin 32 → TexDesc → W32) =>
      (∀ e, vals f = .bad e → exec i s = .next (s1.memFault env g x e))
      ∧ ∀ l s2, vals f = .ok (l, s2) →
        ∃ y, exec i s = .next ((s2.texMarks x l).ranTo g y)
          ∧ (s1.report x ((l.filter (fun e => e.2.inv)).map (·.1.val)) 0).wrote y (.v dst) 5
            (fun k j => match l.find? (fun e => decide (e.1 = j)) with | some e => e.2.regs.getD k 0 | none => 0)
    (check ≠ .failed → env.hw.addr = true →
      exec tex s = .next ((s0.lostGroup 6 g x).acceptMore 4096) ∧ exec texlod s = .next ((s0.lostGroup 6 g x).acceptMore 4096))
    ∧ (check ≠ .failed → env.hw.addr = false →
      (fits → runs tex (texLodOf x u v)
        ∧ ((∀ u k c p b, x.work ≠ .frag u k c p b) → runs tex (fun _ _ => 0)))
      ∧ (fits → lod.fits x false = true → runs texlod (fun l _ => lod.val x l))
      ∧ (¬ fits → illegal tex ∧ illegal texlod)
      ∧ (lod.fits x false = false → illegal texlod))
    ∧ (check = .failed → exec tex s = .next (s0.containGroup g x) ∧ exec texlod s = .next (s0.containGroup g x))
    ∧ (∀ p d (a b c : W32), d.ok = false → s0.sample p ctx d a b c = .ok (⟨s0.fallback p, false, true⟩, s0))

/-- INTEGER, FLOAT, CONVERT, SPECIAL_FUNCTION, LANE_EXCHANGE and SCORER (R239, R241 to R249, R252, R253, R256, R259, R268, R269, R276, R280, R281, R303, R305):
each active lane's result goes to the destination and the PC moves on; invalid operations and overflows are kept for the group's report; an operand
that does not exist, or a class the header does not allow, traps with ILLEGAL_INSTR; a corrected word is counted, an uncorrectable one ends the group. Additions
wrap or saturate as SAT says; division by zero gives 0 and leaves the dividend. SCORER waits behind the unmatched work of the Herder until its eight scores for
each lane are written, and reports what they found. Where a shuffle has no active source, for a shift by the width or more, and at the poles of the special functions the result is a
free value. That a group scores without scales, in a line of its own of the unmatched list, and what its
report names, are the model's (DESIGN CHOICE, logs 105 and 201). -/
def Obligations.LaneArithmeticWritesItsDestination : Prop :=
  (∀ (g : GroupRef) (x : Group) (check : Check) (s : State), s.fetches g x →
    let s1 := s.seen check
    let o := ovfOf x.ovf
    let goes := fun (i : Instr) (legal : Bool) (done : Prop) =>
      (check = .failed → exec i s = .next (s.containGroup g x))
      ∧ (check ≠ .failed → (legal = false → exec i s = .next (s1.trap s.env0 g x 2)) ∧ (legal = true → done))
    (∀ op w signed sat dst a b c, let n := IntWidth.bits w
      let wide := decide (n = 64)
      let wd := wide && !op.compares
      let wa := wide && decide (op ≠ .select)
      let i := Instr.integer g op w signed sat dst a b c check
      let r := fun l => intEval op n signed sat (a.num x wa l) (b.num x wide l) (c.num x wide l)
      goes i (operandsOk x dst wd [(a, wa), (b, wide), (c, wide)]) (∃ y, exec i s = .next (s1.ranTo g y)
        ∧ (wd = true → x.wrote y dst 2 (fun k l => fld (BitVec.ofNat 64 (r l)) (32 * k) 32))
        ∧ (wd = false → x.wrote y dst 1 (fun _ l => if op.compares then BitVec.ofNat 32 (r l) else widen n signed (r l)))
        ∧ ∀ d, dst = .v d → w = .b32 → ∀ l, x.on l = true →
          (op = .add → sat = false → y.vreg d l = a.val x l + b.val x l)
          ∧ (op = .sub → sat = false → y.vreg d l = a.val x l - b.val x l)
          ∧ (op = .add → sat = true → signed = false → (y.vreg d l).toNat = min (2 ^ 32 - 1) ((a.val x l).toNat + (b.val x l).toNat))
          ∧ (op = .eq → y.vreg d l = if a.val x l = b.val x l then 1 else 0)
          ∧ (op = .div → b.val x l = 0 → y.vreg d l = 0)
          ∧ (op = .rem → b.val x l = 0 → y.vreg d l = a.val x l)))
    ∧ (∀ op f dst a b c, let i := Instr.float g op f dst a b c check
      let ok := decide (f ≠ .e4m3) && decide (f ≠ .e5m2) && operandsOk x dst false [(a, false), (b, false), (c, false)]
      let r := fun l => floatParts f op o (a.val x l) (b.val x l) (c.val x l)
      let all := x.lanes.map (fun l => (l.val, r l))
      let inv := all.flatMap (fun e => (e.2.filter (·.inv)).map (fun _ => e.1))
      goes i ok (∃ y, exec i s = .next (s1.ranTo g y)
        ∧ (s1.report x inv (all.flatMap (fun e => e.2.filter (·.ovf))).length).wrote y dst 1 (fun _ l => joinParts (r l))))
    ∧ (∀ src dst sat d a, let i := Instr.convert g src dst sat d a check
      let r := fun l => convert src dst (!sat) o (a.val x l).toNat
      let all := x.lanes.map (fun l => (l.val, r l))
      goes i (operandsOk x d false [(a, false)]) (∃ y, exec i s = .next (s1.ranTo g y)
        ∧ (s1.report x ((all.filter (·.2.inv)).map (·.1)) (all.filter (·.2.ovf)).length).wrote y d 1 (fun _ l => convWord dst (r l).word)))
    ∧ (∀ fn dst a, let i := Instr.specialFunction g fn dst a check
      let r := fun l => specialEval fn o (a.val x l)
      goes i (operandsOk x dst false [(a, false)]) (∃ y, exec i s = .next (s1.ranTo g y)
        ∧ (s1.report x ((x.lanes.filter (fun l => (r l).inv)).map (·.val)) (x.lanes.filter (fun l => (r l).ovf)).length).wrote y dst 1
          (fun _ l => BitVec.ofNat 32 (r l).word)))
    ∧ (∀ op dst a idx, let i := Instr.laneExchange g op dst a idx check
      let ok := dst.fits x false && a.fits x false && idx.fits x false && (!op.moves || dst.vector)
      let from_ := fun (l : Fin 32) => match op with
        | .shuffleOff d => (l.val : Int) + d
        | .broadcast k => (k.val : Int)
        | _ => (idx.val x l).toInt
      let vals := x.lanes.map (fun l => a.val x l)
      let mask := x.lanes.foldl (fun (m : W32) l => setBit m l.val (decide (a.val x l ≠ 0))) 0
      let r := laneFold op o mask vals
      goes i ok ((op.moves = true → ∃ y, exec i s = .next (({ s1 with fresh := s.fresh + 1 }).ranTo g y)
          ∧ x.wrote y dst 1 (fun _ l => shuffle s x a from_ l)
          ∧ ∀ d l k, dst = .v d → x.on l = true → x.on k = true → from_ l = (k.val : Int) → y.vreg d l = a.val x k)
        ∧ (op.moves = false → ∃ y, exec i s = .next (s1.ranTo g y)
          ∧ (s1.report x (List.replicate (invCount r.2) ((x.lanes.head?.map (·.val)).getD 0)) (ovfCount r.2)).wrote y dst 1 (fun _ _ => r.1)))))
  ∧ (∀ (g : GroupRef) (x : Group) (dst : Nat) (qfmt kfmt : BitVec 3) (queries keys : Nat) (check : Check) (t : Nat) (s : State), (s.at t).fetches g x →
    let s1 := (s.at t).seen check
    let i := Instr.scorer g dst qfmt kfmt queries keys check t
    let ok := x.prog.usesScorer && s.formatOn x qfmt && s.formatOn x kfmt && scorerFits x dst qfmt kfmt queries keys
    let item : HItem := .group x.block x.inBlock
    (check = .failed → exec i s = .next ((s.at t).containGroup g x))
    ∧ (check ≠ .failed → ok = false → exec i s = .next (s1.trap (s.at t).env0 g x 2))
    ∧ (check ≠ .failed → ok = true → ∃ u, exec i s = .next u
      ∧ u.group? g = some { x with pc := x.pc + 8, wait := .score dst qfmt kfmt queries keys, state := .waiting }
      ∧ u.herd = { s.herd with unmatched := s.herd.unmatched ++ [⟨item, x.part, 0, s1.pins.now, 0⟩] } ∧ u.mem = s.mem ∧ u.queues = s.queues))
  ∧ ∀ (x : Group) (dst : Nat) (qfmt kfmt : BitVec 3) (queries keys : Nat) (s : State), s.groupBy? x.block x.inBlock = some x →
    x.wait = .score dst qfmt kfmt queries keys → x.stepping = false →
    let r := scorerScore x qfmt kfmt queries keys
    let all := (List.range 8).flatMap (fun j => x.lanes.map (fun l => (j, l.val, r j l)))
    let inv := (all.filter (fun e => e.2.2.inv)).map (fun e => (⟨fsScore, e.1, e.2.1, 0⟩ : FpInv))
    ∃ y, s.scoreGroup x.block x.inBlock
        = ((s.fpInvalids x.part inv).fpOverflows x.part (all.filter (fun e => e.2.2.ovf)).length).updGroupBy x.block x.inBlock (fun _ => y)
      ∧ y.wait = .none ∧ y.pc = x.pc ∧ y.sregs = x.sregs ∧ y.invs = x.invs ∧ y.ovfs = x.ovfs ∧ (x.state = .waiting → y.state = .running)
      ∧ ∀ n l, y.vreg n l = if dst ≤ n ∧ n < dst + 8 ∧ x.on l = true then (r (n - dst) l).hi else x.vreg n l

/-- BRANCH, DIVERGENCE_PUSH, DIVERGENCE_POP and PROGRAM_CALL (R268, R269, R273, R280, R283, R284, R303, R305): a branch sets the PC; a push saves the active
mask and the reconvergence point and keeps the named lanes active, its oldest hardware entry moving to the group's spill area in local store where 16 are
held, and traps with STACK_OVF where DSPILL are spilled too; a pop makes the newest entry's lanes that have not exited active again and brings the newest
spilled entry back; a call leaves the offset behind it in its link register and a return takes it back; a corrected word is counted, an uncorrectable one ends the
group. -/
def Obligations.ControlMovesThePcAndTheStack : Prop :=
  (∀ (g : GroupRef) (x : Group) (check : Check) (s : State), s.fetches g x →
    let s1 := s.seen check
    (check = .failed → ∀ target link t, exec (.branch g target check) s = .next (s.containGroup g x)
      ∧ exec (.programCall g t link check) s = .next (s.containGroup g x))
    ∧ (check ≠ .failed →
      (∀ target, exec (.branch g target check) s = .next (s1.ranTo g { x with pc := target }))
      ∧ ∀ link, (x.prog.sregs ≤ link → ∀ target, exec (.programCall g target link check) s = .next (s1.trap s.env0 g x 2))
        ∧ (link < x.prog.sregs →
          exec (.programCall g none link check) s = .next (s1.ranTo g { x with pc := x.sreg link })
          ∧ ∀ t, ∃ y, exec (.programCall g (some t) link check) s = .next (s1.ranTo g y) ∧ y = { x with pc := t, sregs := y.sregs }
            ∧ y.sreg link = x.pc + 8 ∧ ∀ n, n ≠ link → y.sreg n = x.sreg n)))
  ∧ ∀ (g : GroupRef) (x : Group) (t : Nat) (check : Check) (s : State), let s0 := s.at t
    let s1 := s0.seen check
    s0.fetches g x →
    (check = .failed → exec (.divergencePop g t check) s = .next (s0.containGroup g x)
      ∧ ∀ reconv active, exec (.divergencePush g reconv active t check) s = .next (s0.containGroup g x))
    ∧ (check ≠ .failed →
      (∀ reconv active, let y := { x with pc := x.pc + 8, dstack := (x.active, reconv) :: x.dstack, active := x.active &&& active }
        let i := Instr.divergencePush g reconv active t check
        (x.dstack.length < 16 → exec i s = .next (s1.ranTo g y))
        ∧ (16 ≤ x.dstack.length → x.spilled < x.prog.dspill → ∀ e, x.dstack.getLast? = some e →
          exec i s = .next ((s1.locPut x.block (x.spillOff x.spilled) 8 (stackWord e)).ranTo g { y with dstack := y.dstack.dropLast, spilled := x.spilled + 1 }))
        ∧ (16 ≤ x.dstack.length → x.prog.dspill ≤ x.spilled → exec i s = .next (s1.trap s0.env0 g x 5)))
      ∧ (x.dstack = [] → exec (.divergencePop g t check) s = .next (s1.trap s0.env0 g x 2))
      ∧ ∀ e r, x.dstack = e :: r → let y := { x with pc := x.pc + 8, dstack := r, active := e.1 &&& ~~~x.exited }
        (x.spilled = 0 → exec (.divergencePop g t check) s = .next (s1.ranTo g y))
        ∧ (x.spilled ≠ 0 → ∀ w, s.locNum x.block (x.spillOff (x.spilled - 1)) 8 = stackWord w →
          exec (.divergencePop g t check) s = .next (s1.ranTo g { y with dstack := r ++ [w], spilled := x.spilled - 1 })))

/-- HALT, RESUME, STEP, RESTART, END, READ and WRITE (R101, R295, R299, R304, R305, R306, R311): the operation on the group that CORE and SLOT name: a RUNNING or WAITING
group halts, a HALTED one goes on or runs one instruction, a TRAPPED one issues its instruction again unless an access failed, a HALTED or TRAPPED one ends or
has the word that RK_SET_DBG_ADDR names read or written, its spin counter first brought up to date by the steps it has counted (R295), the word counted
where it was corrected, the group ended where it is uncorrectable; in any other state, for no
group or one of another partition, BAD_CMD is set and nothing else happens. -/
def Obligations.GroupCommandsActOnTheirGroup : Prop :=
  ∀ (req : Requester) (p : PartId) (value : W32) (steps : Nat) (check : Check) (s : State), s.takesPage req p →
    let g : GroupRef := ⟨(fld value 20 4).toFin, (fld value 16 4).toFin⟩
    let s0 := s.relock req
    let rd := Instr.groupRead req p value steps check
    let wr := Instr.groupWrite req p value steps check
    let bad := fun (i : Instr) => exec i s = .next ((s0.updPart p (fun y => { y with badCmd := true })).answer .ok)
    let all := [Instr.halt req p value, .resume req p value, .stepGroup req p value, .restart req p value, .endGroup req p value, rd, wr]
    let stopped := fun (x : Group) => x.state = .halted ∨ x.state = .trapped
    let index := (s.part p).dbgIndex.toNat
    let space := (s.part p).dbgSpace
    (s.group? g = none → ∀ i ∈ all, bad i)
    ∧ ∀ x, s.group? g = some x →
      let goes := fun (step : Bool) => { x with state := if x.wait = .none then .running else .waiting, stepping := step }
      (x.part ≠ p → ∀ i ∈ all, bad i)
      ∧ (x.part = p →
        (x.state = .running ∨ x.state = .waiting → exec (.halt req p value) s
          = .next (((s0.put g { x with state := .halted, stepping := false }).rayHalt x true).answer .ok))
        ∧ (stopped x → exec (.halt req p value) s = .next (s0.answer .ok))
        ∧ (x.state = .halted →
          exec (.resume req p value) s = .next (((s0.put g (goes false)).rayHalt x false).answer .ok)
          ∧ exec (.stepGroup req p value) s = .next (((s0.put g (goes true)).rayHalt x false).answer .ok))
        ∧ (x.state ≠ .halted → bad (.resume req p value) ∧ bad (.stepGroup req p value))
        ∧ (x.state = .trapped → x.trap ≠ 1 → ∃ u, exec (.restart req p value) s = .next u
          ∧ u.group? g = some { x with state := .running, spin := none, wait := .none } ∧ u.isParked (.group g.core g.slot) = false
          ∧ ∀ k, k ≠ g → u.group? k = s.group? k)
        ∧ (x.state ≠ .trapped ∨ x.trap = 1 → bad (.restart req p value))
        ∧ (stopped x → exec (.endGroup req p value) s = .next ((s0.endGroup g x).answer .ok) ∧ (s0.leaveSlot g x).group? g = none)
        ∧ (¬ stopped x → bad (.endGroup req p value) ∧ bad rd ∧ bad wr)
        ∧ (stopped x →
          let y0 := x.counted steps
          let sc := s0.put g y0
          let s1 := sc.seen check
          let noRead := exec rd s = .next ((sc.updPart p (fun y => { y with badCmd := true })).answer .ok)
          let noWrite := exec wr s = .next ((sc.updPart p (fun y => { y with badCmd := true })).answer .ok)
          let reads := fun (w : W32) => (check = .failed → exec rd s = .next ((sc.containGroup g y0).answer .ok))
            ∧ (check ≠ .failed → exec rd s = .next ((s1.updPart p (fun y => { y with dbgData := w })).answer .ok))
          let writes := fun (y : Group) => (check = .failed → exec wr s = .next ((sc.containGroup g y0).answer .ok))
            ∧ (check ≠ .failed → exec wr s = .next ((s1.put g y).answer .ok))
          let w := (s.part p).dbgData
          (space = 0 → index / 32 < x.prog.vregs → let l : Fin 32 := (BitVec.ofNat 5 index).toFin
            reads (x.vreg (index / 32) l)
            ∧ ∃ y, writes y ∧ y = { y0 with vregs := y.vregs } ∧ ∀ n k, y.vreg n k = if n = index / 32 ∧ k = l then w else x.vreg n k)
          ∧ (space = 0 → x.prog.vregs ≤ index / 32 → noRead ∧ noWrite)
          ∧ (space = 1 → index < x.prog.sregs → reads (x.sreg index)
            ∧ ∃ y, writes y ∧ y = { y0 with sregs := y.sregs } ∧ ∀ n, y.sreg n = if n = index then w else x.sreg n)
          ∧ (space = 1 → x.prog.sregs ≤ index → noRead ∧ noWrite)
          ∧ (space = 2 →
            (index = 0 → reads x.pc ∧ writes { y0 with pc := w })
            ∧ (index = 1 → reads x.active ∧ writes { y0 with active := w })
            ∧ (index = 2 → reads x.launch ∧ writes { y0 with launch := w })
            ∧ (index = 3 → reads (if x.state = .halted then 3 else 4) ∧ noWrite)
            ∧ (index = 4 → reads (BitVec.ofNat 32 ((x.spin.map (· + steps)).getD 0)) ∧ writes { y0 with spin := some w.toNat })
            ∧ (index = 5 → reads (x.trap.setWidth 32) ∧ noWrite)
            ∧ (6 ≤ index → noRead ∧ noWrite))
          ∧ (space = 3 → index < x.prog.localBytes → index % 4 = 0 →
            reads (BitVec.ofNat 32 (s.locNum x.block index 4))
            ∧ (check = .failed → exec wr s = .next ((sc.containGroup g y0).answer .ok))
            ∧ (check ≠ .failed → exec wr s = .next ((s1.locPut x.block index 4 w.toNat).answer .ok)))
          ∧ (space = 3 → x.prog.localBytes ≤ index ∨ index % 4 ≠ 0 → noRead ∧ noWrite)))

/-- TRANSLATION_WALK, MMU_INVAL, INVAL_COMPLETE and FQ_ACK (R438 to R443, R446, R460, R462): a walk whose table reads succeed puts its leaf into the
cache; one that fails, or whose read at a level it comes to failed (WALK_ERROR), faults the access that waits for it, and a
residue error of the addresses ends it; an invalidation takes the
partition's cached translations of its scope away, at once or when it reaches the front, and leaves the front only when the accesses it waits
for are acknowledged; a write of FQ_HEAD moves it. The order of invalidations is the model's reading (DEDUCED, log 142); what a failed
table read leaves, and which accesses an invalidation waits for, are its readings too (DESIGN CHOICE and DEDUCED, logs 194 and 195). -/
def Obligations.TranslationsAreCachedAndInvalidated : Prop :=
  ∀ (req : Requester) (p : PartId) (env : Env) (s : State),
    let kept := fun (i : Inval) => s.mmu.tlb.filter (fun e => !(decide (e.part = p) && invalCovers i e))
    (∀ va kind who (level : Fin 5), s.works p = true → (s.part p).mmuEnable.force = true → va < 2 ^ 57 →
      let read := (s.at env.t).forgetWalk p va
      ((s.tlbHit p va).isSome = true → exec (.translationWalk p va kind who .ok level env) s = .next (s.at env.t))
      ∧ ((s.tlbHit p va) = none → env.hw.addr = true → exec (.translationWalk p va kind .none .ok level env) s = .next (s.at env.t)
        ∧ ∀ g y, s.issuing g = some y → y.part = p →
          exec (.translationWalk p va kind (.group g) .ok level env) s = .next (((s.at env.t).lostGroup 6 g y).acceptMore 4096))
      ∧ ((s.tlbHit p va) = none → env.hw.addr = false →
        (∀ e pa, read.walk p kind va = .ok e → leafAllows kind e va = .ok pa →
          exec (.translationWalk p va kind who .ok level env) s = .next { read with mmu := { read.mmu with
            tlb := (if 4096 ≤ s.mmu.tlb.length then s.mmu.tlb.drop 1 else s.mmu.tlb) ++ [e] } })
        ∧ (∀ x, read.walk p kind va = .bad x →
          exec (.translationWalk p va kind .none .ok level env) s = .next read
          ∧ ∀ g y, s.issuing g = some y → y.part = p → kind ≠ .exec →
            exec (.translationWalk p va kind (.group g) .ok level env) s = .next (read.memFault env g y x))
        ∧ ∀ a, (a, level.val) ∈ walkPath s.mem va 4 (s.rootTable p) →
          let bad := { read with mmu := { read.mmu with badPtes := read.mmu.badPtes ++ [(a, level.val)] } }
          exec (.translationWalk p va kind .none .failed level env) s = .next bad
          ∧ ∀ g y, s.issuing g = some y → y.part = p → kind ≠ .exec →
            exec (.translationWalk p va kind (.group g) .failed level env) s
              = .next (bad.memFault env g y ⟨6, accBits kind + 8 + 16 * level.val, va⟩)))
    ∧ (∀ value : W64, s.takesPage req p →
      let i : Inval := ⟨fld value 0 2, 4096 * fldN value 12 45, [], []⟩
      ∃ t, exec (.mmuInval req p value) s = .next t ∧ t.pins.resp = .ok ∧ t.mmu.faults = s.mmu.faults
        ∧ ((s.part p).invals = [] → t.mmu.tlb = kept i ∧ t.mmu.badPtes = [] ∧ (t.part p).invals = [s.invalWaits p i])
        ∧ ((s.part p).invals ≠ [] → t.mmu = s.mmu ∧ (t.part p).invals = (s.part p).invals ++ [i]))
    ∧ (∀ i r, (s.part p).invals = i :: r →
      (s.invalDone i = false → exec (.invalComplete p env) s = .next (s.at env.t))
      ∧ (s.invalDone i = true → ∃ t, exec (.invalComplete p env) s = .next t
        ∧ (r = [] → t.mmu.tlb = s.mmu.tlb ∧ (t.part p).invals = [])
        ∧ (∀ j l, r = j :: l → t.mmu.tlb = kept j ∧ ∃ k, (t.part p).invals = k :: l ∧ k.scope = j.scope ∧ k.va = j.va
          ∧ ((s.part p).fqHeld = [] → k = s.invalWaits p j))))
    ∧ (∀ value : W32, s.takesPage req p → (s.part p).fqHeld = [] →
      ∃ t, exec (.fqAck req p value env) s = .next t ∧ t.pins.resp = .ok ∧ (t.part p).fqHead = fld value 0 17 ∧ t.mem = s.mem
        ∧ (t.part p).fqWrite = (s.part p).fqWrite)

/-- FAULT_REPLAY and FAULT_ABORT (R448 to R450, R457, R463): a write that names no open fault of the partition, or a partition in
PARTITION_ERROR, sets BAD_REPLAY; a replay of an access fault invalidates the page, closes the fault and lets its work go on; an abort closes it and its
work ends: a command that takes in no items, is no SPLAT and has written no hierarchy with FAULT_ABORT, the entry that could not be
fetched as a command of that status. -/
def Obligations.FaultsAreReplayedAndAborted : Prop :=
  ∀ (req : Requester) (p : PartId) (value : W32) (env : Env) (s : State), s.takesPage req p →
    let replay := Instr.faultReplay req p value env
    let abort := Instr.faultAbort req p value env
    let refused := fun (i : Instr) => ∃ t, exec i s = .next t ∧ t.pins.resp = .ok ∧ (t.part p).badReplay = true ∧ t.mmu = s.mmu ∧ t.queues = s.queues
    ((s.part p).partError = true → refused replay ∧ refused abort)
    ∧ ((s.part p).partError = false → bit value 31 = false →
      (s.mmu.faults.find? (fun f => decide (f.part = p) && decide (f.id = fld value 0 10)) = none → refused replay ∧ refused abort)
      ∧ ∀ f, s.mmu.faults.find? (fun f => decide (f.part = p) && decide (f.id = fld value 0 10)) = some f → (s.part p).overflow = [] → f.kind = 0 →
        let left := s.mmu.faults.filter (fun x => decide (x.id ≠ f.id))
        let clean := s.mmu.tlb.filter (fun e => !(decide (e.part = p) && invalCovers ⟨0, f.va.toNat, [], []⟩ e))
        (f.parked = [] →
          (∃ t, exec replay s = .next t ∧ t.mmu = ⟨clean, left, []⟩ ∧ t.queues = s.queues ∧ (t.part p).badReplay = (s.part p).badReplay)
          ∧ ∃ t, exec abort s = .next t ∧ t.mmu = { s.mmu with faults := left } ∧ t.queues = s.queues ∧ (t.part p).badReplay = (s.part p).badReplay)
        ∧ (∀ q, f.parked = [.ring q] →
          ((s.closeFault f).isParked (.ring q) = false →
            ∃ t, exec replay s = .next t ∧ t.mmu = ⟨clean, left, []⟩ ∧ t.queue q = { s.queue q with parked := false } ∧ ∀ k, k ≠ q → t.queue k = s.queue k)
          ∧ ((s.queue q).cur = none →
            ∃ t, exec abort s = .next t ∧ (t.queue q).parked = false ∧ (t.queue q).head = nextPos (s.queue q)
              ∧ (t.queue q).fetched = (s.queue q).fetched ++ [⟨(s.queue q).head, 0xFFFF, 0, stFaultAbort⟩] ∧ ∀ k, k ≠ q → t.queue k = s.queue k))
        ∧ ∀ q c, f.parked = [.command q c.seq] → s.cmd? ⟨q, c.seq⟩ = some c →
          ((s.closeFault f).isParked (.command q c.seq) = false →
            ∃ t, exec replay s = .next t ∧ t.mmu = ⟨clean, left, []⟩ ∧ t.cmdIs ⟨q, c.seq⟩ (fun d => d.parked = false))
          ∧ (isSplat (opOf c.raw) = false → isTraverse (opOf c.raw) = false → (isBuild (opOf c.raw) && c.offset == 1) = false →
            ∃ t, exec abort s = .next t ∧ t.endedWith ⟨q, c.seq⟩ stFaultAbort ∧ t.mem = s.mem))

/-- UNLOCK, UNLOCK_TIMEOUT, MC_GO, MC_LOAD_DONE, MMU_GO, CHIP_ID, FUSE_REREAD and VOTE_SCRUB (R485 to R487, R491, R501 to R509, R529): the key opens the
lock, in ERROR too, any other value closes it and is counted; a write of a locked field under the closed lock changes nothing but the
violation's record; GO in step 5 starts a load; a good image ends step 5 and a bad one leaves the block HELD with its reason; MMU_GO ends step 8;
CHIP_ID changes once, and its first writing opens the bypass at the wait of step 9, where a ring link whose physical layer is down leaves
WAIT_RING; a vote restores the one copy that differs. -/
def Obligations.LockAndStartUpCommandsAct : Prop :=
  ∀ (req : Requester) (s : State), s.live = true → (∀ p, req ≠ .part p) →
    let open_ := { s with csr := { s.csr with unlocked := .all false } }
    (exec (.unlock req 0x7EA5D0C5) s = .next { s.written with csr := { s.csr with unlocked := .all true } })
    ∧ (∀ key, key ≠ 0x7EA5D0C5 → exec (.unlock req key) s = .next { s.written with csr := { s.written.csr with badKey := satInc s.csr.badKey } })
    ∧ exec .unlockTimeout s = .next open_
    ∧ (∀ info, s.errored = false ∨ s.fuseStall = true →
      (s.isUnlocked = false → exec (.fuseReread req info) s = .next s.violated)
      ∧ (s.isUnlocked = true → s.fuseStall = false → exec (.fuseReread req info) s = .next { s.written with
          boot := { s.boot with caps := .all (capsOf info.caps), fuses := capsOf info.caps, spareFused := info.spareFused, sramRepairs := info.sramRepairs } })
      ∧ (s.isUnlocked = true → s.fuseStall = true → info.fuseAgree = true → info.sramFatal = none → passedTus info ≠ 0 →
          ∃ t, exec (.fuseReread req info) s = .next t ∧ t.boot.step = 5 ∧ t.boot.stall = 4 ∧ t.boot.state = stBooting
            ∧ t.caps = capsOf info.caps ∧ t.boot.spareFused = info.spareFused ∧ t.pins.resp = .ok))
    ∧ (s.errored = false →
      (∀ value, (s.isUnlocked = false → exec (.mcGo req value) s = .next s.violated)
        ∧ (s.isUnlocked = true → s.boot.step = 5 → s.boot.mcBusy = false → exec (.mcGo req value) s = .next { s.written with
            boot := { s.boot with mcBusy := true, mcAttempts := satInc s.boot.mcAttempts, state := stBooting, stall := 0, detail := 0, bp := 0 } })
        ∧ (s.isUnlocked = true → s.boot.step ≠ 5 ∨ s.boot.mcBusy = true → exec (.mcGo req value) s = .next { s.written with
            boot := { s.boot with mcBadGo := true } }))
      ∧ (∀ check, s.boot.mcBusy = true →
        let why := s.mcReasonOf check
        (why ≠ 0 → ∃ t, exec (.mcLoadDone check) s = .next t ∧ t.boot.state = stHeld ∧ t.boot.stall = 5 ∧ t.boot.mcReason = why ∧ t.boot.mcBusy = false
          ∧ t.boot.step = s.boot.step ∧ t.boot.mcStore = s.boot.mcStore)
        ∧ (why = 0 → ∃ t, exec (.mcLoadDone check) s = .next t ∧ t.boot.state = s.boot.state ∧ t.boot.step = 6 ∧ t.boot.stall = 6 ∧ t.boot.mcReason = 0
          ∧ t.boot.mcBusy = false
          ∧ t.boot.mcStore = Mem.write [] 0 (s.mem.read (4096 * s.boot.mcAddr.toNat) (s.mem.num (4096 * s.boot.mcAddr.toNat + 8) 4))))
      ∧ (∀ value env,
        let s1 := (s.at env.t).relock req
        let s2 := { s1 with boot := { s1.boot with bootIrq := bit value 2, resetIrq := bit value 1 } }
        (s.boot.state = stBooting → s.boot.step = 8 → exec (.mmuGo req value env) s = .next (s2.applyShadows.beginStep9.answer .ok))
        ∧ (s.boot.state ≠ stBooting ∨ s.boot.step ≠ 8 → exec (.mmuGo req value env) s = .next (s2.answer .ok)))
      ∧ (∀ value t, let id : ChipId := fld value 0 20
        (s.isUnlocked = false → id ≠ s.boot.chipId → exec (.chipId req value t) s = .next (s.at t).violated)
        ∧ (s.boot.chipSet = true → id ≠ s.boot.chipId → exec (.chipId req value t) s = .next (s.at t).violated)
        ∧ (s.isUnlocked = true → s.boot.chipSet = false → s.inStep9 = false → exec (.chipId req value t) s = .next { (s.at t).written with
            boot := { s.boot with chipId := id, chipSet := decide (id ≠ s.boot.chipId), chipWritten := true } })
        ∧ (s.isUnlocked = false → id = s.boot.chipId → ∃ u, exec (.chipId req value t) s = .next u ∧ u.boot = s.boot ∧ u.csr.lockViol = s.csr.lockViol)
        ∧ (s.isUnlocked = true → s.boot.chipSet = false → s.inStep9 = true → s.boot.stall = 9 →
          let trains := fun l => (s.sess l).state ≠ ssDown ∨ (s.inLinks l = true ∧ bit s.pins.linkUp l.val = true)
          ∃ u, exec (.chipId req value t) s = .next u ∧ u.boot.chipId = id ∧ u.boot.chipWritten = true
            ∧ ((∀ l, s.isRing l = true → trains l) → u.boot.stall = 0 ∧ u.pins.bypass = false)
            ∧ ((∃ l, s.isRing l = true ∧ ¬ trains l) → u.boot.stall = 0xA ∧ u.pins.bypass = true)))
      ∧ (s.votesAgree → ∀ refuse, exec (.voteScrub [] refuse) s = .next s
        ∧ ∀ x : Upset, (s.upset x = s → exec (.voteScrub [x] refuse) s = .next s)
          ∧ (s.upset x ≠ s → exec (.voteScrub [x] refuse) s = .next (s.voteCorrected x.item))))

/-- CSR_WRITE and CSR_READ_CLEAR (R21, R488; also R477 to R479, R485, R486, R513, R521, R525): an access of 32 or 64 bits, naturally aligned, is
carried out whole in one step, below 0xF_0000 on the global block and at 0xF_0000 + 0x1000 p on partition p's page; any other
size or alignment gets an error response and does nothing else. The management function and the debug port reach all of it; a partition function
reaches its own page and reads the RO fields of the global block, and its other writes and every access to another partition's page are refused and
counted. A read clears RC fields, but not for the debug port nor for a partition function in the global block; it votes on a voted field
that it covers. -/
def Obligations.AccessesReachTheirRegister : Prop :=
  ∀ (a : Access) (env : Env) (s : State),
    let off := a.off.toNat
    let word := off / 8 * 8
    let taken := (a.size = .w32 ∧ off % 4 = 0) ∨ (a.size = .w64 ∧ off % 8 = 0)
    let upper := a.size = .w32 ∧ off % 8 = 4
    let take := fun (w : W64) => if a.size = .w64 then w else if upper then (fld w 32 32).setWidth 64 else (fld w 0 32).setWidth 64
    let data := if upper then a.data <<< 32 else a.data
    let mask : W64 := if a.size = .w64 then 0xFFFFFFFFFFFFFFFF else if upper then 0xFFFFFFFF00000000 else 0xFFFFFFFF
    let s1 := (s.at env.t).relock a.req
    let refused : State → Host.Outcome State Fault Refusal := fun s => .next
      { s with csr := { s.csr with xpart := satInc s.csr.xpart }, pins := { s.pins with resp := .error } }
    (¬ taken → exec (.csrWrite a env) s = .next ((s.at env.t).answer .error) ∧ exec (.csrReadClear a) s = .next (s.answer .error))
    ∧ (taken → s.live = true → off < 0xF0000 →
      let v := s.voteRead word mask
      let w := v.globalImage word
      (s.votesAgree → v = s)
      ∧ (a.req = .mgmt → exec (.csrReadClear a) s = .next ((v.globalClear word mask).answer (.data (take w))))
      ∧ (a.req = .debug → exec (.csrReadClear a) s = .next (v.answer (.data (take w))))
      ∧ (∀ q, a.req = .part q → exec (.csrReadClear a) s = .next (v.answer (.data (take (w &&& globalRo word))))
        ∧ exec (.csrWrite a env) s = refused (s.at env.t))
      ∧ ((∀ q, a.req ≠ .part q) →
        (s.errored = false → exec (.csrWrite a env) s = .next ((s1.globalPut env s.isUnlocked word data mask).answer .ok)
          ∧ (off = 0x48 → a.size = .w64 → ∃ t, exec (.csrWrite a env) s = .next t ∧ t.cfg.src = fld a.data 12 40
            ∧ t.globalImage 0x48 = a.data &&& 0x000FFFFFFFFFF000))
        ∧ (s.errored = true → s.actsInError word = false → exec (.csrWrite a env) s = .next ((s.at env.t).answer .ok))))
    ∧ (taken → s.live = true → ∀ (p : PartId) (b : Nat), b < 0x1000 → off = 0xF0000 + 0x1000 * p.val + b →
      let w := take (s.pageImage p (b / 8 * 8))
      (∀ q, a.req = .part q → q ≠ p → exec (.csrReadClear a) s = refused s ∧ exec (.csrWrite a env) s = refused (s.at env.t))
      ∧ (a.req = .debug → exec (.csrReadClear a) s = .next (s.answer (.data w)))
      ∧ ((∀ q, a.req = .part q → q = p) →
        (a.req ≠ .debug → exec (.csrReadClear a) s = .next ((s.pageClear p (b / 8 * 8) mask).answer (.data w)))
        ∧ (s.errored = false → (s.part p).resetting = false ∨ b / 8 * 8 = 0x400 →
          exec (.csrWrite a env) s = .next ((s1.pagePut env p (b / 8 * 8) data mask).answer .ok))
        ∧ (s.errored = false → (s.part p).resetting = true → b / 8 * 8 ≠ 0x400 → exec (.csrWrite a env) s = .next (s1.answer .ok))
        ∧ (s.errored = true → exec (.csrWrite a env) s = .next ((s.at env.t).answer .ok))))

/-- CFG_GO, CFG_CANCEL, FREEZE, PTAB_WRITE, CADDY_SWITCH, CFG_IMAGE_READ and CFG_SECTION_APPLY (R7, R8, R419, R421, R470 to R474, R486, R487, R495, R498, R501): GO
starts a load while none runs, CANCEL drops what has not applied, FREEZE is set once under the lock, a partition word's
fields, not its reserved bits, go to its shadow and wait, the selected caddy switches at its write; a bad image applies nothing, a good one applies at start-up or waits section by
section, and each section applies at its boundary, where the higher-numbered partitions lose what the entry names too. A write of any value
to RK_CFG_CTL is carried out and leaves the table and the caddies. That an entry in force loses what a lower-numbered entry takes when that one
applies is the model's reading (DEDUCED, log 193). -/
def Obligations.ConfigurationLoadsAndApplies : Prop :=
  ∀ (req : Requester) (s : State), s.live = true → s.errored = false →
    let set := fun (value : W64) =>
      { s.cfg with srcWin := bit value 56, caddyMask := fld value 52 4, partMask := fld value 32 16, glob := bit value 31 }
    ((∀ p, req ≠ .part p) →
      (∀ value, ∀ i ∈ [Instr.cfgGo req value, .cfgCancel req value, .freeze req value],
        ∃ t, exec i s = .next t ∧ t.pins.resp = .ok ∧ t.cfg.ptab = s.cfg.ptab ∧ t.cfg.caddies = s.cfg.caddies ∧ t.cfg.sel = s.cfg.sel
          ∧ t.cfg.srcWin = bit value 56 ∧ t.cfg.caddyMask = fld value 52 4 ∧ t.cfg.partMask = fld value 32 16 ∧ t.cfg.glob = bit value 31)
      ∧ (∀ value, bit value 60 = s.cfg.freeze → bit value 62 = false →
        (s.cfg.busy = false → 6 ≤ s.boot.step.toNat → exec (.cfgGo req value) s = .next { s.written with
          cfg := { set value with busy := true, state := 1, clamps := 0, writePos := 0, reject := 0, notes := [] }
          boot := if s.boot.step = 6 then { s.boot with stall := 0, detail := 0, bp := bp7 1 } else s.boot })
        ∧ (s.cfg.busy = true ∨ s.boot.step.toNat < 6 → exec (.cfgGo req value) s = .next { s.written with cfg := set value }))
      ∧ (∀ value, bit value 60 = s.cfg.freeze → bit value 63 = false →
        (s.cfg.busy = true → s.cfg.state = 3 → ∃ t, exec (.cfgCancel req value) s = .next t ∧ t.cfg.busy = false ∧ t.cfg.done = true ∧ t.cfg.state = 0
          ∧ t.cfg.reject = 0 ∧ t.cfg.waitGlobal = none ∧ t.cfg.waitCaddy = [] ∧ t.cfg.waitPart = s.cfg.waitPart.filter (·.csr)
          ∧ t.cfg.ptab = s.cfg.ptab ∧ t.cfg.caddies = s.cfg.caddies)
        ∧ (s.cfg.busy = false ∨ s.cfg.state ≠ 3 → exec (.cfgCancel req value) s = .next { s.written with cfg := set value }))
      ∧ (∀ value, bit value 62 = false → bit value 63 = false →
        (s.cfg.freeze = true → exec (.freeze req value) s = .next { s.written with cfg := set value })
        ∧ (s.cfg.freeze = false → s.isUnlocked = true → exec (.freeze req value) s = .next { s.written with cfg := { set value with freeze := true } })
        ∧ (s.cfg.freeze = false → s.isUnlocked = false → exec (.freeze req value) s = .next { s.violated with cfg := set value }))
      ∧ (∀ (p : PartId) (w : Fin 4) value,
        let words := s.cfg.ptab[p].map (fun x => x.shadow.get)
        let old := words[w]
        let new := (old &&& ~~~ptabFields[w]) ||| (value &&& ptabFields[w])
        (new = old → exec (.ptabWrite req p w value) s = .next s.written)
        ∧ (new ≠ old → s.isUnlocked = false ∨ s.cfg.freeze = true → exec (.ptabWrite req p w value) s = .next s.violated)
        ∧ (new ≠ old → s.isUnlocked = true → s.cfg.freeze = false →
          let mine := words.set w new
          let ck := checkPart 1 p mine
          let due := resolveTable 1 [p] s.cfg.fwdReserve s.cfg.fwdStrain (s.tableDue.set p ck.1)
          ∃ t, exec (.ptabWrite req p w value) s = .next t ∧ t.pins.resp = .ok
          ∧ (bit mine[(0 : Fin 4)] 63 = false → ∀ v, ((t.cfg.ptab[p])[(v : Fin 4)]).shadow = .all mine[v])
          ∧ (bit mine[(0 : Fin 4)] 63 = true → ∀ v, ((t.cfg.ptab[p])[(v : Fin 4)]).shadow = .all (wordsOf due.1[p])[v])
          ∧ (bit mine[(0 : Fin 4)] 63 = true → fldN mine[(0 : Fin 4)] 60 3 = 0 → ck.2 = [] → due.2 = [] → ((t.cfg.ptab[p])[w]).shadow = .all new)
          ∧ (∀ q v, ((t.cfg.ptab[(q : PartId)])[(v : Fin 4)]).force = ((s.cfg.ptab[q])[v]).force)
          ∧ (∀ q v, q ≠ p → ((t.cfg.ptab[(q : PartId)])[(v : Fin 4)]).shadow = ((s.cfg.ptab[q])[v]).shadow)
          ∧ ∃ l, t.cfg.waitPart = s.cfg.waitPart.filter (fun x => !(x.csr && decide (x.part = p))) ++ [l] ∧ l.part = p ∧ l.csr = true
            ∧ l.words = (t.cfg.ptab[p]).map (fun x => x.shadow.get)))
      ∧ (∀ value, ∃ t, exec (.caddySwitch req value) s = .next t ∧ t.cfg = { s.cfg with sel := .all (fld value 0 2) } ∧ t.pins.resp = .ok))
    ∧ (∀ readError, s.cfg.busy = false ∨ s.cfg.state ≠ 1 → exec (.cfgImageRead readError) s = .next s)
    ∧ (∀ readError, s.cfg.busy = true → s.cfg.state = 1 →
      let code := s.rejectCode readError (decide (s.boot.step = 6))
      let l := s.checkImage s.cfg.glob s.cfg.partMask s.cfg.caddyMask
      (code ≠ 0 → ∃ t, exec (.cfgImageRead readError) s = .next t ∧ t.cfg.busy = false ∧ t.cfg.done = true ∧ t.cfg.reject = code
        ∧ t.cfg.ptab = s.cfg.ptab ∧ t.cfg.caddies = s.cfg.caddies ∧ (s.boot.step = 6 → t.boot.stall = 7))
      ∧ (code = 0 → s.boot.step = 6 → ∃ t, exec (.cfgImageRead readError) s = .next t ∧ t.cfg.busy = false ∧ t.cfg.done = true ∧ t.cfg.reject = 0
        ∧ t.boot.step = 8 ∧ t.boot.stall = 8 ∧ t.sel = 0 ∧ t.cfg.waitPart = [])
      ∧ (code = 0 → s.boot.step ≠ 6 → (l.glob ≠ none ∨ l.parts ≠ [] ∨ l.caddies ≠ []) → exec (.cfgImageRead readError) s = .next { s with
          cfg := { s.cfg with notes := l.notes, waitGlobal := l.glob, waitPart := s.cfg.waitPart ++ l.parts, waitCaddy := l.caddies, state := 3 } })
      ∧ (code = 0 → s.boot.step ≠ 6 → l.glob = none → l.parts = [] → l.caddies = [] → s.cfg.waitPart.all (·.csr) = true →
        ∃ t, exec (.cfgImageRead readError) s = .next t ∧ t.cfg.busy = false ∧ t.cfg.done = true ∧ t.cfg.reject = 0 ∧ t.cfg.state = 0
          ∧ t.cfg.ptab = s.cfg.ptab ∧ t.cfg.caddies = s.cfg.caddies))
    ∧ (∀ g, s.cfg.waitGlobal = some g →
      (s.blockIdle = false ∨ s.csr.hold = true → exec (.cfgSectionApply .global) s = .next s)
      ∧ (s.blockIdle = true → s.csr.hold = false → ∃ t, exec (.cfgSectionApply .global) s = .next t ∧ t.cfg.waitGlobal = none
        ∧ t.pwr = { s.pwr with mode := .both g.mode, capW := g.capW } ∧ t.arr = { s.arr with dist := .both g.dist }
        ∧ t.fwd.hostPart = ⟨g.hostPart, s.fwd.hostPart.force⟩
        ∧ (s.sessionsDown = true → t.cfg.ringUp = g.ringUp ∧ t.cfg.ringDown = g.ringDown ∧ t.cfg.fwdLinks = g.fwdLinks
          ∧ t.cfg.fwdReserve = g.fwdReserve ∧ t.cfg.fwdBundles = g.fwdBundles ∧ t.cfg.fwdStrain = g.fwdStrain)))
    ∧ (∀ p l, s.cfg.waitPart.find? (fun x => decide (x.part = p)) = some l →
      (s.partReady s.partIdle l = false → exec (.cfgSectionApply (.part p)) s = .next s)
      ∧ (s.partReady s.partIdle l = true →
        let src := if l.csr then 1 else 0
        let me := (overlapOne src p (s.tableDue.below p) (partOf l.words)).1
        let words := (if me.en then wordsOf me else l.words).zipWith (· &&& ·) ptabFields
        let left := fun (r : PartId) => (overlapOne src r [me] s.table[r]).1
        ∃ t, exec (.cfgSectionApply (.part p)) s = .next t ∧ t.cfg.waitPart = s.cfg.waitPart.erase l ∧ t.cfg.caddies = s.cfg.caddies
          ∧ t.cfg.ptab[p] = words.map (fun x => Sh.both (Tri.all x))
          ∧ (∀ r, r < p ∨ (p < r ∧ left r = s.table[r]) → t.cfg.ptab[(r : PartId)] = s.cfg.ptab[r])
          ∧ ∀ r, p < r → left r ≠ s.table[r] → ∀ v, ((t.cfg.ptab[(r : PartId)])[(v : Fin 4)]).force = .all (wordsOf (left r))[v]))
    ∧ (∀ c l, s.cfg.waitCaddy.find? (fun x => decide (x.caddy = c)) = some l →
      (s.pinned (BitVec.ofNat 2 c.val) = true → exec (.cfgSectionApply (.caddy c)) s = .next s)
      ∧ (s.pinned (BitVec.ofNat 2 c.val) = false →
        ∃ t, exec (.cfgSectionApply (.caddy c)) s = .next t ∧ t.cfg.waitCaddy = s.cfg.waitCaddy.erase l ∧ t.cfg.ptab = s.cfg.ptab
          ∧ t.cfg.caddies = s.cfg.caddies.set c ⟨s.cfg.caddies[c].gen + 1, l.ents⟩))

/-- TU_FENCE, TU_UNFENCE, TU_SELF_TEST_DONE, ROUTER_FAULT, SLEEP_HALF, HALF_ASLEEP, WAKE_HALF, HALF_AWAKE, UNIT_OUT, UNIT_RETURN and UNIT_RETURN_DONE (R425 to
R431, R435, R486, R515 to R517): under the open lock a position, a row or a unit leaves service or begins its test, under the closed lock the write
is a violation; a test that passes places the position or returns the unit, one that fails leaves it out with FENCE_EVENT; the spare
is called for the position that an idle spare can take, and where it serves the returned one it drains first; a half goes DRAINING, ASLEEP with its
L0 contents lost, WAKING, AWAKE. -/
def Obligations.UnitsLeaveAndReturn : Prop :=
  ∀ (req : Requester) (s : State), s.live = true → s.errored = false →
    let rows := fun (t : State) (r : Fin 8) (x : Row) => t.arr.rows = s.arr.rows.set r x
    ((∀ p, req ≠ .part p) →
      (∀ (value : W32) (r : Fin 8) (pos : Fin 17), fldN value 5 3 = r.val → fldN value 0 5 = pos.val →
        let x := s.arr.rows[r]
        (s.isUnlocked = false → (value &&& ~~~0x200#32 ≠ 0 → exec (.tuFence req value) s = .next s.violated) ∧ exec (.tuUnfence req value) s = .next s.violated)
        ∧ (s.isUnlocked = true → bit value 8 = false →
          (bit x.fenced pos.val = true → exec (.tuFence req value) s = .next s.written)
          ∧ (bit x.fenced pos.val = false → ∃ t y, exec (.tuFence req value) s = .next t ∧ rows t r y ∧ t.arr.fenceEvent = true
            ∧ y.fenced = setBit x.fenced pos.val true
            ∧ y.active = (if x.handBack && x.spareUsed && decide (pos.val = 16) then setBit (setBit x.active 16 false) x.sparePos.toNat true
              else setBit x.active pos.val false)
            ∧ y.spareUsed = (x.spareUsed && decide (pos.val ≠ 16))
            ∧ (pos.val ≠ 16 → bit x.active pos.val = true → bit x.fenced 16 = false → x.spareUsed = false → bit x.testing 16 = false →
              y.callFor = some (BitVec.ofNat 4 pos.val) ∧ bit y.testing 16 = true))
          ∧ (∃ t, exec (.tuUnfence req value) s = .next t ∧ t.herd = s.herd
            ∧ rows t r (if bit x.fenced pos.val then { x with testing := setBit x.testing pos.val true } else x)))
        ∧ (s.isUnlocked = true → bit value 8 = true →
          ∃ t, exec (.tuUnfence req value) s = .next t ∧ t.herd = s.herd ∧ rows t r { x with testing := x.testing ||| x.fenced })
        ∧ (s.isUnlocked = true → bit value 8 = true → ∃ t, exec (.tuFence req value) s = .next t ∧ t.arr.fenceEvent = true
          ∧ rows t r { x with fenced := 0x1FFFF, active := 0, rowFenced := true, spareUsed := false, sparePos := 0, testing := 0, callFor := none, handBack := false }))
      ∧ (∀ (h : Half) (value : W32), bit value (sleepBit (otherHalf h)) = false →
        (s.half h = 0 → s.half (otherHalf h) = 0 → s.whollyIn h = false →
          ∃ t, exec (.sleepHalf req h value) s = .next t ∧ t.half h = 1 ∧ t.half (otherHalf h) = 0 ∧ t.arr.tus = s.arr.tus)
        ∧ (s.half h = 0 → s.half (otherHalf h) ≠ 0 ∨ s.whollyIn h = true →
          ∃ t, exec (.sleepHalf req h value) s = .next t ∧ t.half h = 0 ∧ t.arr.sleepRefused = true ∧ t.arr.tus = s.arr.tus)
        ∧ (s.half h = 1 ∨ s.half h = 2 → ∃ t, exec (.wakeHalf req h value) s = .next t ∧ t.half h = 3 ∧ t.arr.tus = s.arr.tus))
      ∧ (∀ (value : W32) (n : Nat), fldN value 0 6 = n →
        let v1 := value &&& ~~~0x800#32
        (s.isUnlocked = false → (v1 ≠ 0 → exec (.unitOut req value) s = .next s.violated) ∧ exec (.unitReturn req value) s = .next s.violated)
        ∧ (s.isUnlocked = true →
          (fldN value 8 3 = 0 →
            exec (.unitOut req value) s = .next { s.written with
              kennel := { s.kennel with banksOut := setBit s.kennel.banksOut n true, banksBack := setBit s.kennel.banksBack n false } }
            ∧ (bit s.kennel.banksOut n = true → (∀ e ∈ s.kennel.slots, e.1 % 64 ≠ n) → exec (.unitReturn req value) s = .next { s.written with
              kennel := { s.kennel with banksBack := setBit s.kennel.banksBack n true } }))
          ∧ (fldN value 8 3 = 1 → n < 16 →
            exec (.unitOut req value) s = .next { s.written with
              arr := { s.arr with coresOut := setBit s.arr.coresOut n true, coresBack := setBit s.arr.coresBack n false } }
            ∧ (bit s.arr.coresOut n = true → s.unitEmpty 1 n = true → exec (.unitReturn req value) s = .next { s.written with
              arr := { s.arr with coresBack := setBit s.arr.coresBack n true } }))
          ∧ (fldN value 8 3 = 2 → n < 16 →
            exec (.unitOut req value) s = .next { s.written with
              arr := { s.arr with unitsOut := setBit s.arr.unitsOut n true, unitsBack := setBit s.arr.unitsBack n false } }
            ∧ (bit s.arr.unitsOut n = true → (∀ b ∈ s.strain.bundles, b.placed = true → b.unit.val ≠ n) → exec (.unitReturn req value) s = .next { s.written with
              arr := { s.arr with unitsBack := setBit s.arr.unitsBack n true } })))))
    ∧ (∀ (row : Fin 8) (pos : Fin 17), let x := s.arr.rows[row]
      let y := x.place pos.val
      let served := x.spareUsed = true ∧ x.sparePos.toNat = pos.val
      (bit x.testing pos.val = true →
        (∃ t, exec (.tuSelfTestDone row pos true) s = .next t ∧ t.arr.rows = (s.setRow row y).handBacks.arr.rows ∧ bit y.fenced pos.val = false
          ∧ bit y.testing pos.val = false
          ∧ (pos.val < 16 → ¬ served → y.active = setBit x.active pos.val true ∧ y.handBack = x.handBack)
          ∧ (pos.val < 16 → served → y.active = x.active ∧ y.handBack = true)
          ∧ (∀ q, pos.val = 16 → x.callFor = some q → bit x.active q.toNat = false → x.spareUsed = false →
            y.active = setBit x.active 16 true ∧ y.spareUsed = true ∧ y.sparePos = q ∧ y.callFor = none))
        ∧ exec (.tuSelfTestDone row pos false) s = .next { s with arr := { s.arr with
            rows := s.arr.rows.set row { x with testing := setBit x.testing pos.val false, fenced := setBit x.fenced pos.val true }, fenceEvent := true } })
      ∧ ∃ t, exec (.routerFault row pos) s = .next t ∧ t.arr.fenceEvent = true
        ∧ rows t row { x with fenced := 0x1FFFF, active := 0, rowFenced := true, spareUsed := false, sparePos := 0, testing := 0, callFor := none, handBack := false })
    ∧ (∀ h : Half,
      (s.half h = 1 → s.halfDrained h = true → ∃ t, exec (.halfAsleep h) s = .next t ∧ t.half h = 2 ∧ t.half (otherHalf h) = s.half (otherHalf h)
        ∧ t.arr.rows = s.arr.rows ∧ ∀ n : TuId, inHalf h n.val = true → (t.arr.tus[n]).l0 = [] ∧ (t.arr.tus[n]).buffer = [])
      ∧ (s.half h = 1 → s.halfDrained h = false → exec (.halfAsleep h) s = .next s)
      ∧ ∀ failed, s.half h = 3 → ∃ t, exec (.halfAwake h failed) s = .next t ∧ t.half h = 0
        ∧ ∀ r, rowIn h r = true → ∀ p : Fin 17, bit failed[(r : Fin 8)] p.val = true → bit (t.arr.rows[r]).fenced p.val = true)
    ∧ (∀ (kind : Fin 3) (idx : Fin 64), s.unitTesting kind.val idx.val = true →
      (∃ t, exec (.unitReturnDone kind idx true) s = .next t ∧ t.unitTesting kind.val idx.val = false
        ∧ bit (if kind = 0 then t.kennel.banksOut else if kind = 1 then t.arr.coresOut.setWidth 64 else t.arr.unitsOut.setWidth 64) idx.val = false)
      ∧ (∃ t, exec (.unitReturnDone kind idx false) s = .next t ∧ t.unitTesting kind.val idx.val = false ∧ t.arr.fenceEvent = true
        ∧ bit (if kind = 0 then t.kennel.banksOut else if kind = 1 then t.arr.coresOut.setWidth 64 else t.arr.unitsOut.setWidth 64) idx.val = true))

/-- POWER_ESTIMATE, TRACE_ENABLE, BLK_HEEL, BLOCK_DRAIN_DONE, BLK_TIMEOUT, DBG_READ and DBG_WRITE (R30, R399, R406, R410, R416, R424, R458, R513, R525, R526): an
estimate above the mode's limit sets OVER_CAP and lowers the voltages by 10 mV, down to 0.60 V, then F; one below 95 % of it raises F, then the
voltages to the mode's target; a half above its junction limit is lowered besides. The trace starts at position 0 of
its ring; a block drain, which a second request leaves as it is, ends at its boundary, where the waiting shadows apply, or at its limit, with
vector 5 either way, and partitions with an open fault then enter PARTITION_ERROR with reason DRAIN. The debug window reads and writes a unit, in
ERROR too, a corrected word counted and an uncorrectable one marked. The
10 mV a step are the model's reading (DESIGN CHOICE, log 38); what a write to a unit that no slot or ray uses leaves is too (DESIGN CHOICE, log 152). -/
def Obligations.ControllersAndDebugAct : Prop :=
  ∀ (req : Requester) (s : State),
    (∀ watts t, s.active = true → s.timerFires .power t = true →
      let x := s.pwr
      let lim := if x.mode.force = 0 then 320 else x.capW.toNat
      let target := if x.mode.force = 0 then 180 else if x.mode.force = 2 then 136 else 156
      let low := x.vWest.toNat ≤ 120 ∧ x.vEast.toNat ≤ 120 ∧ x.vSetter.toNat ≤ 120
      let down := fun (v : Byte) => max 120 (v.toNat - 2)
      let fall := fun (v : Byte) => if target < v.toNat then max target (v.toNat - 2) else v.toNat
      let move := fun (v : Byte) => if v.toNat < target then min target (v.toNat + 2) else fall v
      let cool := fun (hot : Bool) (v : Nat) => if hot then max 120 (v - 2) else v
      ∃ u, exec (.powerEstimate watts t) s = .next u ∧ u.pwr.estW = BitVec.ofNat 9 (min watts 511) ∧ u.pwr.mode = x.mode ∧ u.pwr.capW = x.capW
        ∧ (lim < watts → u.pwr.overCap = true
          ∧ (¬ low → u.pwr.frac = x.frac ∧ u.pwr.vSetter.toNat = down x.vSetter
            ∧ u.pwr.vWest.toNat = cool s.pins.hotWest (down x.vWest) ∧ u.pwr.vEast.toNat = cool s.pins.hotEast (down x.vEast))
          ∧ (low → u.pwr.frac = (if x.frac.toNat ≤ 4 then 4 else x.frac - 1) ∧ u.pwr.vSetter = x.vSetter
            ∧ u.pwr.vWest.toNat = cool s.pins.hotWest x.vWest.toNat ∧ u.pwr.vEast.toNat = cool s.pins.hotEast x.vEast.toNat))
        ∧ (watts ≤ lim → u.pwr.overCap = x.overCap
          ∧ (100 * watts < 95 * lim → x.frac.toNat < 16 → u.pwr.frac = x.frac + 1 ∧ u.pwr.vSetter = x.vSetter
            ∧ u.pwr.vWest.toNat = cool s.pins.hotWest x.vWest.toNat ∧ u.pwr.vEast.toNat = cool s.pins.hotEast x.vEast.toNat)
          ∧ (100 * watts < 95 * lim → 16 ≤ x.frac.toNat → u.pwr.frac = x.frac ∧ u.pwr.vSetter.toNat = move x.vSetter
            ∧ u.pwr.vWest.toNat = (if s.pins.hotWest then down x.vWest else move x.vWest)
            ∧ u.pwr.vEast.toNat = (if s.pins.hotEast then down x.vEast else move x.vEast))
          ∧ (95 * lim ≤ 100 * watts → u.pwr.frac = x.frac ∧ u.pwr.vSetter.toNat = fall x.vSetter
            ∧ u.pwr.vWest.toNat = cool s.pins.hotWest (fall x.vWest) ∧ u.pwr.vEast.toNat = cool s.pins.hotEast (fall x.vEast))))
    ∧ (s.live = true → s.errored = false → (∀ p, req ≠ .part p) →
      (∀ value, exec (.traceEnable req value) s = .next { s.written with trace := { s.trace with
          enable := true, readPos := fld value 40 24, opMask := fld value 32 8, allParts := bit value 20, part := fld value 16 4, wrap := bit value 1
          ringBase := if s.trace.enable then s.trace.ringBase else s.trace.base
          ringSize := if s.trace.enable then s.trace.ringSize else s.trace.size
          writePos := if s.trace.enable then s.trace.writePos else 0 } })
      ∧ (∀ value t, ∃ u, exec (.blkHeel req value t) s = .next u ∧ u.arr.blkDraining = true ∧ u.pins.resp = .ok
          ∧ u.arr.blkLimit = (if fld value 16 8 = 0 then 10 else fld value 16 8) ∧ u.queues = s.queues
          ∧ (s.arr.blkDraining = true → u.steep = s.steep)))
    ∧ (s.live = true → s.errored = false →
      (s.arr.blkDraining = false ∨ s.blockIdle = false → exec .blockDrainDone s = .next s)
      ∧ (s.arr.blkDraining = true → s.blockIdle = true →
        ∃ t, exec .blockDrainDone s = .next t ∧ t.arr.blkDraining = false ∧ (∃ l, t.pins.irqs = l ++ [⟨true, 0, 5⟩])
          ∧ (s.csr.hold = false → t.arr.dist = .both s.arr.dist.shadow ∧ t.pwr.mode = .both s.pwr.mode.shadow
            ∧ t.arr.imbSet = .both s.arr.imbSet.shadow ∧ t.arr.imbTu = .both s.arr.imbTu.shadow ∧ t.herd.packMax = .both s.herd.packMax.shadow
            ∧ t.herd.packWait = .both s.herd.packWait.shadow ∧ t.herd.idleIssue = .both s.herd.idleIssue.shadow)
          ∧ (s.csr.hold = true → t.arr.dist = s.arr.dist ∧ t.pwr.mode = s.pwr.mode ∧ t.herd.packMax = s.herd.packMax)
          ∧ ∀ p, (s.part p).hold = false → (t.part p).mmuRoot = .both (s.part p).mmuRoot.shadow ∧ (t.part p).waveMax = .both (s.part p).waveMax.shadow)
      ∧ (∀ time, s.timerFires .blkDrain time = true →
        ∃ t, exec (.blkTimeout time) s = .next t ∧ t.arr.blkDraining = false ∧ t.arr.blkTimeout = true ∧ (∃ l, t.pins.irqs = l ++ [⟨true, 0, 5⟩])
          ∧ (∀ p, (∃ f ∈ s.mmu.faults, f.part = p) → (t.part p).partError = true ∧ (t.part p).peReason = 3)
          ∧ ∀ p, (∀ f ∈ s.mmu.faults, f.part ≠ p) → (t.part p).partError = (s.part p).partError))
    ∧ (s.live = true → (∀ p, req ≠ .part p) → ∀ value : W32,
      let st := fldN value 24 4
      let i := fldN value 0 24
      let bad := { s.written with dbg := { s.dbg with bad := true } }
      (dbgUnits st i ≤ i → (∀ check, exec (.dbgRead req value check) s = .next bad) ∧ exec (.dbgWrite req value) s = .next bad)
      ∧ (i < dbgUnits st i →
        let seen := { s.written with dbg := { s.dbg with data := s.written.dbgUnit st i, uncorr := false }, fresh := s.fresh + 1 }
        let lost := fun (data : Slot64) => { s.relock req with dbg := { s.dbg with data := data, uncorr := true }, fresh := s.fresh + 1 }
        exec (.dbgRead req value .ok) s = .next seen
        ∧ exec (.dbgRead req value .corrected) s = .next (if st = 0 ∨ st = 1 then seen.kennelCorrected else seen.errCorrected)
        ∧ (∃ data, (st = 0 ∨ st = 1 → exec (.dbgRead req value .failed) s = .next (((lost data).slotLost i).answer .ok))
          ∧ (st = 11 → s.ready = true → exec (.dbgRead req value .failed) s = .next (((lost data).errBlock 0x0F i).answer .ok))
          ∧ (st ≠ 0 → st ≠ 1 → st ≠ 11 ∨ s.ready = false → exec (.dbgRead req value .failed) s = .next ((lost data).answer .ok)))
        ∧ (s.dbg.writeEn = false ∨ st = 10 ∨ st = 11 → exec (.dbgWrite req value) s = .next bad)
        ∧ (s.dbg.writeEn = true →
          (st = 8 → exec (.dbgWrite req value) s = .next { s.written with fwd := { s.fwd with table :=
            (if bit s.dbg.data 47 then assocPut i ⟨if bit s.dbg.data 46 then some (fld s.dbg.data 20 20) else none, fld s.dbg.data 0 20⟩ s.fwd.table
              else assocDel i s.fwd.table) } })
          ∧ (st = 0 → s.kGet i = none → exec (.dbgWrite req value) s
            = .next { s.written with kennel := { s.kennel with images := assocPut i s.dbg.data s.kennel.images } })
          ∧ (st = 3 → s.ray? i = none → exec (.dbgWrite req value) s
            = .next { s.written with kennel := { s.kennel with cands := assocPut i (candOf s.dbg.data) s.kennel.cands } })
          ∧ (st = 3 → (s.ray? i).isSome = true → exec (.dbgWrite req value) s
            = .next (s.written.updRay i (fun r => { r with cand := candOf s.dbg.data })))
          ∧ (st = 1 → s.kGet i = none → let g : BitVec 14 := fld s.dbg.data 15 14
            exec (.dbgWrite req value) s = .next { s.written with kennel := { s.kennel with
              gens := if g = 1 then assocDel i s.kennel.gens else assocPut i g s.kennel.gens } })
          ∧ (st = 4 ∨ st = 5 ∨ st = 6 ∨ st = 7 ∨ st = 9 → exec (.dbgWrite req value) s = .next s.written))))
end

