-- ==== Sys2Proof/Laws/Blank.lean ====
section
/-!
SUPPORT. Sys2Proof/Laws/Blank.lean: the state with some of its components blanked, and what an update of one field does to it.
-/

set_option linter.all false

namespace Sys2Proof.Machine
open Sys2Proof

/-- The state with the components whose bit `m` has set (bit numbers as in `Comp.idx`) put at their reset values: two states with one
blank differ in those components only. -/
def blank (m : BitVec 48) (s : State) : State :=
  ⟨s.pending,
   ⟨(bif m.getLsbD 0 then State.reset.pins.powered else s.pins.powered),
     (bif m.getLsbD 0 then State.reset.pins.inReset else s.pins.inReset),
     (bif m.getLsbD 0 then State.reset.pins.forced else s.pins.forced),
     (bif m.getLsbD 0 then State.reset.pins.portMap else s.pins.portMap),
     (bif m.getLsbD 0 then State.reset.pins.linkUp else s.pins.linkUp),
     (bif m.getLsbD 2 then State.reset.pins.now else s.pins.now),
     (bif m.getLsbD 1 then State.reset.pins.bypass else s.pins.bypass),
     (bif m.getLsbD 0 then State.reset.pins.hotWest else s.pins.hotWest),
     (bif m.getLsbD 0 then State.reset.pins.hotEast else s.pins.hotEast),
     (bif m.getLsbD 3 then State.reset.pins.irqs else s.pins.irqs),
     (bif m.getLsbD 4 then State.reset.pins.resp else s.pins.resp),
     (bif m.getLsbD 5 then State.reset.pins.sent else s.pins.sent),
     (bif m.getLsbD 6 then State.reset.pins.links else s.pins.links),
     (bif m.getLsbD 7 then State.reset.pins.presents else s.pins.presents),
     (bif m.getLsbD 0 then State.reset.pins.flrDone else s.pins.flrDone),
     (bif m.getLsbD 0 then State.reset.pins.portWords else s.pins.portWords)⟩,
   ⟨(bif m.getLsbD 8 then State.reset.boot.state else s.boot.state),
     (bif m.getLsbD 9 then State.reset.boot.step else s.boot.step),
     (bif m.getLsbD 9 then State.reset.boot.bp else s.boot.bp),
     (bif m.getLsbD 9 then State.reset.boot.stall else s.boot.stall),
     (bif m.getLsbD 9 then State.reset.boot.detail else s.boot.detail),
     (bif m.getLsbD 9 then State.reset.boot.bootIrq else s.boot.bootIrq),
     (bif m.getLsbD 9 then State.reset.boot.resetIrq else s.boot.resetIrq),
     (bif m.getLsbD 10 then State.reset.boot.chipId else s.boot.chipId),
     (bif m.getLsbD 10 then State.reset.boot.chipSet else s.boot.chipSet),
     (bif m.getLsbD 10 then State.reset.boot.chipWritten else s.boot.chipWritten),
     (bif m.getLsbD 10 then State.reset.boot.caps else s.boot.caps),
     (bif m.getLsbD 10 then State.reset.boot.fuses else s.boot.fuses),
     (bif m.getLsbD 10 then State.reset.boot.spareFused else s.boot.spareFused),
     (bif m.getLsbD 10 then State.reset.boot.sramRepairs else s.boot.sramRepairs),
     (bif m.getLsbD 11 then State.reset.boot.mcAddr else s.boot.mcAddr),
     (bif m.getLsbD 11 then State.reset.boot.mcBusy else s.boot.mcBusy),
     (bif m.getLsbD 11 then State.reset.boot.mcReason else s.boot.mcReason),
     (bif m.getLsbD 11 then State.reset.boot.mcAttempts else s.boot.mcAttempts),
     (bif m.getLsbD 11 then State.reset.boot.mcBadGo else s.boot.mcBadGo),
     (bif m.getLsbD 11 then State.reset.boot.mcStore else s.boot.mcStore),
     (bif m.getLsbD 9 then State.reset.boot.ringRetry else s.boot.ringRetry)⟩,
   ⟨(bif m.getLsbD 12 then State.reset.csr.unlocked else s.csr.unlocked),
     (bif m.getLsbD 13 then State.reset.csr.lvCnt else s.csr.lvCnt),
     (bif m.getLsbD 13 then State.reset.csr.voteCorr else s.csr.voteCorr),
     (bif m.getLsbD 13 then State.reset.csr.badKey else s.csr.badKey),
     (bif m.getLsbD 13 then State.reset.csr.xpart else s.csr.xpart),
     (bif m.getLsbD 13 then State.reset.csr.voteLast else s.csr.voteLast),
     (bif m.getLsbD 13 then State.reset.csr.voteFail else s.csr.voteFail),
     (bif m.getLsbD 13 then State.reset.csr.lockViol else s.csr.lockViol),
     (bif m.getLsbD 13 then State.reset.csr.cfgIrq else s.csr.cfgIrq),
     (bif m.getLsbD 13 then State.reset.csr.voteIrq else s.csr.voteIrq),
     (bif m.getLsbD 13 then State.reset.csr.lvIrq else s.csr.lvIrq),
     (bif m.getLsbD 13 then State.reset.csr.hold else s.csr.hold)⟩,
   ⟨(bif m.getLsbD 17 then State.reset.cfg.freeze else s.cfg.freeze),
     (bif m.getLsbD 17 then State.reset.cfg.srcWin else s.cfg.srcWin),
     (bif m.getLsbD 17 then State.reset.cfg.caddyMask else s.cfg.caddyMask),
     (bif m.getLsbD 17 then State.reset.cfg.partMask else s.cfg.partMask),
     (bif m.getLsbD 17 then State.reset.cfg.glob else s.cfg.glob),
     (bif m.getLsbD 17 then State.reset.cfg.busy else s.cfg.busy),
     (bif m.getLsbD 17 then State.reset.cfg.src else s.cfg.src),
     (bif m.getLsbD 17 then State.reset.cfg.rptAddr else s.cfg.rptAddr),
     (bif m.getLsbD 17 then State.reset.cfg.rptSize else s.cfg.rptSize),
     (bif m.getLsbD 17 then State.reset.cfg.clamps else s.cfg.clamps),
     (bif m.getLsbD 17 then State.reset.cfg.writePos else s.cfg.writePos),
     (bif m.getLsbD 17 then State.reset.cfg.overrun else s.cfg.overrun),
     (bif m.getLsbD 17 then State.reset.cfg.done else s.cfg.done),
     (bif m.getLsbD 17 then State.reset.cfg.state else s.cfg.state),
     (bif m.getLsbD 17 then State.reset.cfg.reject else s.cfg.reject),
     (bif m.getLsbD 17 then State.reset.cfg.window else s.cfg.window),
     (bif m.getLsbD 17 then State.reset.cfg.notes else s.cfg.notes),
     (bif m.getLsbD 17 then State.reset.cfg.waitPart else s.cfg.waitPart),
     (bif m.getLsbD 17 then State.reset.cfg.waitCaddy else s.cfg.waitCaddy),
     (bif m.getLsbD 17 then State.reset.cfg.waitGlobal else s.cfg.waitGlobal),
     (bif m.getLsbD 14 then State.reset.cfg.ptab else s.cfg.ptab),
     (bif m.getLsbD 16 then State.reset.cfg.fpDef else s.cfg.fpDef),
     (bif m.getLsbD 16 then State.reset.cfg.ringUp else s.cfg.ringUp),
     (bif m.getLsbD 16 then State.reset.cfg.ringDown else s.cfg.ringDown),
     (bif m.getLsbD 16 then State.reset.cfg.fwdLinks else s.cfg.fwdLinks),
     (bif m.getLsbD 16 then State.reset.cfg.fwdReserve else s.cfg.fwdReserve),
     (bif m.getLsbD 16 then State.reset.cfg.fwdBundles else s.cfg.fwdBundles),
     (bif m.getLsbD 16 then State.reset.cfg.fwdStrain else s.cfg.fwdStrain),
     (bif m.getLsbD 15 then State.reset.cfg.caddies else s.cfg.caddies),
     (bif m.getLsbD 15 then State.reset.cfg.sel else s.cfg.sel)⟩,
   (bif m.getLsbD 18 then State.reset.parts else s.parts),
   (bif m.getLsbD 19 then State.reset.queues else s.queues),
   (bif m.getLsbD 20 then State.reset.front else s.front),
   (bif m.getLsbD 21 then State.reset.mem else s.mem),
   ⟨(bif m.getLsbD 22 then State.reset.kennel.slots else s.kennel.slots),
     (bif m.getLsbD 22 then State.reset.kennel.gens else s.kennel.gens),
     (bif m.getLsbD 23 then State.reset.kennel.banksOut else s.kennel.banksOut),
     (bif m.getLsbD 23 then State.reset.kennel.banksBack else s.kennel.banksBack),
     (bif m.getLsbD 23 then State.reset.kennel.uncorr else s.kennel.uncorr),
     (bif m.getLsbD 23 then State.reset.kennel.corr else s.kennel.corr),
     (bif m.getLsbD 22 then State.reset.kennel.stale else s.kennel.stale),
     (bif m.getLsbD 23 then State.reset.kennel.scrubbed else s.kennel.scrubbed),
     (bif m.getLsbD 22 then State.reset.kennel.visits else s.kennel.visits),
     (bif m.getLsbD 22 then State.reset.kennel.images else s.kennel.images),
     (bif m.getLsbD 22 then State.reset.kennel.cands else s.kennel.cands)⟩,
   (bif m.getLsbD 24 then State.reset.herd else s.herd),
   ⟨(bif m.getLsbD 25 then State.reset.arr.tus else s.arr.tus),
     (bif m.getLsbD 26 then State.reset.arr.rows else s.arr.rows),
     (bif m.getLsbD 26 then State.reset.arr.autoFence else s.arr.autoFence),
     (bif m.getLsbD 26 then State.reset.arr.sleepEast else s.arr.sleepEast),
     (bif m.getLsbD 26 then State.reset.arr.sleepWest else s.arr.sleepWest),
     (bif m.getLsbD 26 then State.reset.arr.dist else s.arr.dist),
     (bif m.getLsbD 26 then State.reset.arr.east else s.arr.east),
     (bif m.getLsbD 26 then State.reset.arr.west else s.arr.west),
     (bif m.getLsbD 26 then State.reset.arr.sleepRefused else s.arr.sleepRefused),
     (bif m.getLsbD 26 then State.reset.arr.fenceEvent else s.arr.fenceEvent),
     (bif m.getLsbD 26 then State.reset.arr.residueErrs else s.arr.residueErrs),
     (bif m.getLsbD 26 then State.reset.arr.imbSet else s.arr.imbSet),
     (bif m.getLsbD 26 then State.reset.arr.imbTu else s.arr.imbTu),
     (bif m.getLsbD 26 then State.reset.arr.blkLimit else s.arr.blkLimit),
     (bif m.getLsbD 26 then State.reset.arr.blkDraining else s.arr.blkDraining),
     (bif m.getLsbD 26 then State.reset.arr.blkTimeout else s.arr.blkTimeout),
     (bif m.getLsbD 26 then State.reset.arr.coresOut else s.arr.coresOut),
     (bif m.getLsbD 26 then State.reset.arr.unitsOut else s.arr.unitsOut),
     (bif m.getLsbD 26 then State.reset.arr.coresBack else s.arr.coresBack),
     (bif m.getLsbD 26 then State.reset.arr.unitsBack else s.arr.unitsBack)⟩,
   (bif m.getLsbD 27 then State.reset.pwr else s.pwr),
   (bif m.getLsbD 28 then State.reset.ret else s.ret),
   (bif m.getLsbD 29 then State.reset.strain else s.strain),
   (bif m.getLsbD 30 then State.reset.setter else s.setter),
   (bif m.getLsbD 31 then State.reset.vis else s.vis),
   ⟨(bif m.getLsbD 34 then State.reset.fwd.routeBase else s.fwd.routeBase),
     (bif m.getLsbD 34 then State.reset.fwd.hostPart else s.fwd.hostPart),
     (bif m.getLsbD 34 then State.reset.fwd.hostNew else s.fwd.hostNew),
     (bif m.getLsbD 34 then State.reset.fwd.ringTimeout else s.fwd.ringTimeout),
     (bif m.getLsbD 34 then State.reset.fwd.ringRetry else s.fwd.ringRetry),
     (bif m.getLsbD 32 then State.reset.fwd.ownBase else s.fwd.ownBase),
     (bif m.getLsbD 32 then State.reset.fwd.nextEpoch else s.fwd.nextEpoch),
     (bif m.getLsbD 32 then State.reset.fwd.ownEntries else s.fwd.ownEntries),
     (bif m.getLsbD 32 then State.reset.fwd.epoch else s.fwd.epoch),
     (bif m.getLsbD 32 then State.reset.fwd.applied else s.fwd.applied),
     (bif m.getLsbD 32 then State.reset.fwd.missed else s.fwd.missed),
     (bif m.getLsbD 32 then State.reset.fwd.superseded else s.fwd.superseded),
     (bif m.getLsbD 32 then State.reset.fwd.reloadReject else s.fwd.reloadReject),
     (bif m.getLsbD 32 then State.reset.fwd.epochBehind else s.fwd.epochBehind),
     (bif m.getLsbD 32 then State.reset.fwd.epochMissed else s.fwd.epochMissed),
     (bif m.getLsbD 32 then State.reset.fwd.reloading else s.fwd.reloading),
     (bif m.getLsbD 32 then State.reset.fwd.table else s.fwd.table),
     (bif m.getLsbD 32 then State.reset.fwd.staging else s.fwd.staging),
     (bif m.getLsbD 32 then State.reset.fwd.prevMap else s.fwd.prevMap),
     (bif m.getLsbD 32 then State.reset.fwd.bad else s.fwd.bad),
     (bif m.getLsbD 33 then State.reset.fwd.sess else s.fwd.sess),
     (bif m.getLsbD 34 then State.reset.fwd.staleDrop else s.fwd.staleDrop),
     (bif m.getLsbD 34 then State.reset.fwd.reissues else s.fwd.reissues),
     (bif m.getLsbD 34 then State.reset.fwd.fwdFails else s.fwd.fwdFails),
     (bif m.getLsbD 34 then State.reset.fwd.relayDrop else s.fwd.relayDrop),
     (bif m.getLsbD 34 then State.reset.fwd.orphans else s.fwd.orphans),
     (bif m.getLsbD 34 then State.reset.fwd.ring else s.fwd.ring),
     (bif m.getLsbD 34 then State.reset.fwd.ringSeq else s.fwd.ringSeq),
     (bif m.getLsbD 34 then State.reset.fwd.publish else s.fwd.publish),
     (bif m.getLsbD 34 then State.reset.fwd.foreign else s.fwd.foreign),
     (bif m.getLsbD 34 then State.reset.fwd.waiting else s.fwd.waiting),
     (bif m.getLsbD 34 then State.reset.fwd.cmds else s.fwd.cmds),
     (bif m.getLsbD 34 then State.reset.fwd.turn else s.fwd.turn)⟩,
   ⟨(bif m.getLsbD 35 then State.reset.mmu.tlb else s.mmu.tlb),
     (bif m.getLsbD 36 then State.reset.mmu.faults else s.mmu.faults),
     (bif m.getLsbD 35 then State.reset.mmu.badPtes else s.mmu.badPtes)⟩,
   (bif m.getLsbD 37 then State.reset.steep else s.steep),
   (bif m.getLsbD 38 then State.reset.trace else s.trace),
   (bif m.getLsbD 39 then State.reset.dbg else s.dbg),
   (bif m.getLsbD 40 then State.reset.err else s.err),
   (bif m.getLsbD 41 then State.reset.fresh else s.fresh)⟩

theorem cond_cond_sub {α : Type} {a b : BitVec 48} (h : a &&& ~~~ b = 0) (i : Nat) (d x : α) :
    (bif b.getLsbD i then d else bif a.getLsbD i then d else x) = bif b.getLsbD i then d else x := by
  have h1 := congrArg (·.getLsbD i) h
  simp only [BitVec.getLsbD_and, BitVec.getLsbD_not, BitVec.getLsbD_zero] at h1
  cases hb : b.getLsbD i <;> cases ha : a.getLsbD i <;> simp_all

theorem blank_frame {a b : BitVec 48} (h : a &&& ~~~ b = 0) (s : State) : blank b (blank a s) = blank b s := by
  simp only [blank, cond_cond_sub h]

theorem blank_mono {a b : BitVec 48} {s t : State} (h : a &&& ~~~ b = 0) (e : blank a s = blank a t) : blank b s = blank b t := by
  rw [← blank_frame h s, e, blank_frame h t]

theorem blank_sub {a b c : BitVec 48} (h : b &&& ~~~ c = 0) (e : a &&& ~~~ b = 0) : a &&& ~~~ c = 0 := by
  ext i hi
  have h1 := congrArg (·.getLsbD i) h
  have h2 := congrArg (·.getLsbD i) e
  simp [hi] at h1 h2 ⊢
  grind

@[simp] theorem State.doIf_frame (s : State) (b : Bool) (f : State → State) (bm : BitVec 48) (h : ∀ x, blank bm (f x) = blank bm x) : blank bm (s.doIf b f) = blank bm s := by
  unfold State.doIf; split <;> simp [h]

@[simp] theorem foldl_frame {α : Type} (f : State → α → State) (bm : BitVec 48) (h : ∀ x a, blank bm (f x a) = blank bm x) (l : List α) (s : State) : blank bm (l.foldl f s) = blank bm s := by
  induction l generalizing s with
  | nil => rfl
  | cons a l ih => simp [ih, h]

@[simp] theorem ite_frame (bm : BitVec 48) (c : Prop) [Decidable c] (a b : State) : blank bm (if c then a else b) = if c then blank bm a else blank bm b := by split <;> rfl

@[simp] theorem cond_frame (bm : BitVec 48) (c : Bool) (a b : State) : blank bm (bif c then a else b) = bif c then blank bm a else blank bm b := by cases c <;> rfl

@[simp] theorem blank_pins_powered (x : State) (v : Bool) (bm : BitVec 48) (hm : 0x1#48 &&& ~~~ bm = 0) : blank bm { x with pins := { x.pins with powered := v } } = blank bm x := by
  refine blank_mono hm ?_; clear hm bm; simp [blank]

@[simp] theorem blank_pins_inReset (x : State) (v : Bool) (bm : BitVec 48) (hm : 0x1#48 &&& ~~~ bm = 0) : blank bm { x with pins := { x.pins with inReset := v } } = blank bm x := by
  refine blank_mono hm ?_; clear hm bm; simp [blank]

@[simp] theorem blank_pins_forced (x : State) (v : Bool) (bm : BitVec 48) (hm : 0x1#48 &&& ~~~ bm = 0) : blank bm { x with pins := { x.pins with forced := v } } = blank bm x := by
  refine blank_mono hm ?_; clear hm bm; simp [blank]

@[simp] theorem blank_pins_portMap (x : State) (v : BitVec 16) (bm : BitVec 48) (hm : 0x1#48 &&& ~~~ bm = 0) : blank bm { x with pins := { x.pins with portMap := v } } = blank bm x := by
  refine blank_mono hm ?_; clear hm bm; simp [blank]

@[simp] theorem blank_pins_linkUp (x : State) (v : BitVec 24) (bm : BitVec 48) (hm : 0x1#48 &&& ~~~ bm = 0) : blank bm { x with pins := { x.pins with linkUp := v } } = blank bm x := by
  refine blank_mono hm ?_; clear hm bm; simp [blank]

@[simp] theorem blank_pins_now (x : State) (v : Nat) (bm : BitVec 48) (hm : 0x4#48 &&& ~~~ bm = 0) : blank bm { x with pins := { x.pins with now := v } } = blank bm x := by
  refine blank_mono hm ?_; clear hm bm; simp [blank]

@[simp] theorem blank_pins_bypass (x : State) (v : Bool) (bm : BitVec 48) (hm : 0x2#48 &&& ~~~ bm = 0) : blank bm { x with pins := { x.pins with bypass := v } } = blank bm x := by
  refine blank_mono hm ?_; clear hm bm; simp [blank]

@[simp] theorem blank_pins_hotWest (x : State) (v : Bool) (bm : BitVec 48) (hm : 0x1#48 &&& ~~~ bm = 0) : blank bm { x with pins := { x.pins with hotWest := v } } = blank bm x := by
  refine blank_mono hm ?_; clear hm bm; simp [blank]

@[simp] theorem blank_pins_hotEast (x : State) (v : Bool) (bm : BitVec 48) (hm : 0x1#48 &&& ~~~ bm = 0) : blank bm { x with pins := { x.pins with hotEast := v } } = blank bm x := by
  refine blank_mono hm ?_; clear hm bm; simp [blank]

@[simp] theorem blank_pins_irqs (x : State) (v : List Irq) (bm : BitVec 48) (hm : 0x8#48 &&& ~~~ bm = 0) : blank bm { x with pins := { x.pins with irqs := v } } = blank bm x := by
  refine blank_mono hm ?_; clear hm bm; simp [blank]

@[simp] theorem blank_pins_resp (x : State) (v : BusResp) (bm : BitVec 48) (hm : 0x10#48 &&& ~~~ bm = 0) : blank bm { x with pins := { x.pins with resp := v } } = blank bm x := by
  refine blank_mono hm ?_; clear hm bm; simp [blank]

@[simp] theorem blank_pins_sent (x : State) (v : List PortMsg) (bm : BitVec 48) (hm : 0x20#48 &&& ~~~ bm = 0) : blank bm { x with pins := { x.pins with sent := v } } = blank bm x := by
  refine blank_mono hm ?_; clear hm bm; simp [blank]

@[simp] theorem blank_pins_links (x : State) (v : List (LinkId × MsgHdr × MsgBody)) (bm : BitVec 48) (hm : 0x40#48 &&& ~~~ bm = 0) : blank bm { x with pins := { x.pins with links := v } } = blank bm x := by
  refine blank_mono hm ?_; clear hm bm; simp [blank]

@[simp] theorem blank_pins_presents (x : State) (v : List Present) (bm : BitVec 48) (hm : 0x80#48 &&& ~~~ bm = 0) : blank bm { x with pins := { x.pins with presents := v } } = blank bm x := by
  refine blank_mono hm ?_; clear hm bm; simp [blank]

@[simp] theorem blank_pins_flrDone (x : State) (v : List PartId) (bm : BitVec 48) (hm : 0x1#48 &&& ~~~ bm = 0) : blank bm { x with pins := { x.pins with flrDone := v } } = blank bm x := by
  refine blank_mono hm ?_; clear hm bm; simp [blank]

@[simp] theorem blank_pins_portWords (x : State) (v : Nat) (bm : BitVec 48) (hm : 0x1#48 &&& ~~~ bm = 0) : blank bm { x with pins := { x.pins with portWords := v } } = blank bm x := by
  refine blank_mono hm ?_; clear hm bm; simp [blank]

@[simp] theorem blank_boot_state (x : State) (v : BitVec 3) (bm : BitVec 48) (hm : 0x100#48 &&& ~~~ bm = 0) : blank bm { x with boot := { x.boot with state := v } } = blank bm x := by
  refine blank_mono hm ?_; clear hm bm; simp [blank]

@[simp] theorem blank_boot_step (x : State) (v : BitVec 4) (bm : BitVec 48) (hm : 0x200#48 &&& ~~~ bm = 0) : blank bm { x with boot := { x.boot with step := v } } = blank bm x := by
  refine blank_mono hm ?_; clear hm bm; simp [blank]

@[simp] theorem blank_boot_bp (x : State) (v : BitVec 14) (bm : BitVec 48) (hm : 0x200#48 &&& ~~~ bm = 0) : blank bm { x with boot := { x.boot with bp := v } } = blank bm x := by
  refine blank_mono hm ?_; clear hm bm; simp [blank]

@[simp] theorem blank_boot_stall (x : State) (v : BitVec 4) (bm : BitVec 48) (hm : 0x200#48 &&& ~~~ bm = 0) : blank bm { x with boot := { x.boot with stall := v } } = blank bm x := by
  refine blank_mono hm ?_; clear hm bm; simp [blank]

@[simp] theorem blank_boot_detail (x : State) (v : W32) (bm : BitVec 48) (hm : 0x200#48 &&& ~~~ bm = 0) : blank bm { x with boot := { x.boot with detail := v } } = blank bm x := by
  refine blank_mono hm ?_; clear hm bm; simp [blank]

@[simp] theorem blank_boot_bootIrq (x : State) (v : Bool) (bm : BitVec 48) (hm : 0x200#48 &&& ~~~ bm = 0) : blank bm { x with boot := { x.boot with bootIrq := v } } = blank bm x := by
  refine blank_mono hm ?_; clear hm bm; simp [blank]

@[simp] theorem blank_boot_resetIrq (x : State) (v : Bool) (bm : BitVec 48) (hm : 0x200#48 &&& ~~~ bm = 0) : blank bm { x with boot := { x.boot with resetIrq := v } } = blank bm x := by
  refine blank_mono hm ?_; clear hm bm; simp [blank]

@[simp] theorem blank_boot_chipId (x : State) (v : ChipId) (bm : BitVec 48) (hm : 0x400#48 &&& ~~~ bm = 0) : blank bm { x with boot := { x.boot with chipId := v } } = blank bm x := by
  refine blank_mono hm ?_; clear hm bm; simp [blank]

@[simp] theorem blank_boot_chipSet (x : State) (v : Bool) (bm : BitVec 48) (hm : 0x400#48 &&& ~~~ bm = 0) : blank bm { x with boot := { x.boot with chipSet := v } } = blank bm x := by
  refine blank_mono hm ?_; clear hm bm; simp [blank]

@[simp] theorem blank_boot_chipWritten (x : State) (v : Bool) (bm : BitVec 48) (hm : 0x400#48 &&& ~~~ bm = 0) : blank bm { x with boot := { x.boot with chipWritten := v } } = blank bm x := by
  refine blank_mono hm ?_; clear hm bm; simp [blank]

@[simp] theorem blank_boot_caps (x : State) (v : Tri W32) (bm : BitVec 48) (hm : 0x400#48 &&& ~~~ bm = 0) : blank bm { x with boot := { x.boot with caps := v } } = blank bm x := by
  refine blank_mono hm ?_; clear hm bm; simp [blank]

@[simp] theorem blank_boot_fuses (x : State) (v : W32) (bm : BitVec 48) (hm : 0x400#48 &&& ~~~ bm = 0) : blank bm { x with boot := { x.boot with fuses := v } } = blank bm x := by
  refine blank_mono hm ?_; clear hm bm; simp [blank]

@[simp] theorem blank_boot_spareFused (x : State) (v : BitVec 8) (bm : BitVec 48) (hm : 0x400#48 &&& ~~~ bm = 0) : blank bm { x with boot := { x.boot with spareFused := v } } = blank bm x := by
  refine blank_mono hm ?_; clear hm bm; simp [blank]

@[simp] theorem blank_boot_sramRepairs (x : State) (v : W16) (bm : BitVec 48) (hm : 0x400#48 &&& ~~~ bm = 0) : blank bm { x with boot := { x.boot with sramRepairs := v } } = blank bm x := by
  refine blank_mono hm ?_; clear hm bm; simp [blank]

@[simp] theorem blank_boot_mcAddr (x : State) (v : BitVec 40) (bm : BitVec 48) (hm : 0x800#48 &&& ~~~ bm = 0) : blank bm { x with boot := { x.boot with mcAddr := v } } = blank bm x := by
  refine blank_mono hm ?_; clear hm bm; simp [blank]

@[simp] theorem blank_boot_mcBusy (x : State) (v : Bool) (bm : BitVec 48) (hm : 0x800#48 &&& ~~~ bm = 0) : blank bm { x with boot := { x.boot with mcBusy := v } } = blank bm x := by
  refine blank_mono hm ?_; clear hm bm; simp [blank]

@[simp] theorem blank_boot_mcReason (x : State) (v : BitVec 4) (bm : BitVec 48) (hm : 0x800#48 &&& ~~~ bm = 0) : blank bm { x with boot := { x.boot with mcReason := v } } = blank bm x := by
  refine blank_mono hm ?_; clear hm bm; simp [blank]

@[simp] theorem blank_boot_mcAttempts (x : State) (v : Byte) (bm : BitVec 48) (hm : 0x800#48 &&& ~~~ bm = 0) : blank bm { x with boot := { x.boot with mcAttempts := v } } = blank bm x := by
  refine blank_mono hm ?_; clear hm bm; simp [blank]

@[simp] theorem blank_boot_mcBadGo (x : State) (v : Bool) (bm : BitVec 48) (hm : 0x800#48 &&& ~~~ bm = 0) : blank bm { x with boot := { x.boot with mcBadGo := v } } = blank bm x := by
  refine blank_mono hm ?_; clear hm bm; simp [blank]

@[simp] theorem blank_boot_mcStore (x : State) (v : Mem) (bm : BitVec 48) (hm : 0x800#48 &&& ~~~ bm = 0) : blank bm { x with boot := { x.boot with mcStore := v } } = blank bm x := by
  refine blank_mono hm ?_; clear hm bm; simp [blank]

@[simp] theorem blank_boot_ringRetry (x : State) (v : Bool) (bm : BitVec 48) (hm : 0x200#48 &&& ~~~ bm = 0) : blank bm { x with boot := { x.boot with ringRetry := v } } = blank bm x := by
  refine blank_mono hm ?_; clear hm bm; simp [blank]

@[simp] theorem blank_csr_unlocked (x : State) (v : Tri Bool) (bm : BitVec 48) (hm : 0x1000#48 &&& ~~~ bm = 0) : blank bm { x with csr := { x.csr with unlocked := v } } = blank bm x := by
  refine blank_mono hm ?_; clear hm bm; simp [blank]

@[simp] theorem blank_csr_lvCnt (x : State) (v : W16) (bm : BitVec 48) (hm : 0x2000#48 &&& ~~~ bm = 0) : blank bm { x with csr := { x.csr with lvCnt := v } } = blank bm x := by
  refine blank_mono hm ?_; clear hm bm; simp [blank]

@[simp] theorem blank_csr_voteCorr (x : State) (v : W16) (bm : BitVec 48) (hm : 0x2000#48 &&& ~~~ bm = 0) : blank bm { x with csr := { x.csr with voteCorr := v } } = blank bm x := by
  refine blank_mono hm ?_; clear hm bm; simp [blank]

@[simp] theorem blank_csr_badKey (x : State) (v : Byte) (bm : BitVec 48) (hm : 0x2000#48 &&& ~~~ bm = 0) : blank bm { x with csr := { x.csr with badKey := v } } = blank bm x := by
  refine blank_mono hm ?_; clear hm bm; simp [blank]

@[simp] theorem blank_csr_xpart (x : State) (v : Byte) (bm : BitVec 48) (hm : 0x2000#48 &&& ~~~ bm = 0) : blank bm { x with csr := { x.csr with xpart := v } } = blank bm x := by
  refine blank_mono hm ?_; clear hm bm; simp [blank]

@[simp] theorem blank_csr_voteLast (x : State) (v : BitVec 4) (bm : BitVec 48) (hm : 0x2000#48 &&& ~~~ bm = 0) : blank bm { x with csr := { x.csr with voteLast := v } } = blank bm x := by
  refine blank_mono hm ?_; clear hm bm; simp [blank]

@[simp] theorem blank_csr_voteFail (x : State) (v : Bool) (bm : BitVec 48) (hm : 0x2000#48 &&& ~~~ bm = 0) : blank bm { x with csr := { x.csr with voteFail := v } } = blank bm x := by
  refine blank_mono hm ?_; clear hm bm; simp [blank]

@[simp] theorem blank_csr_lockViol (x : State) (v : Bool) (bm : BitVec 48) (hm : 0x2000#48 &&& ~~~ bm = 0) : blank bm { x with csr := { x.csr with lockViol := v } } = blank bm x := by
  refine blank_mono hm ?_; clear hm bm; simp [blank]

@[simp] theorem blank_csr_cfgIrq (x : State) (v : Bool) (bm : BitVec 48) (hm : 0x2000#48 &&& ~~~ bm = 0) : blank bm { x with csr := { x.csr with cfgIrq := v } } = blank bm x := by
  refine blank_mono hm ?_; clear hm bm; simp [blank]

@[simp] theorem blank_csr_voteIrq (x : State) (v : Bool) (bm : BitVec 48) (hm : 0x2000#48 &&& ~~~ bm = 0) : blank bm { x with csr := { x.csr with voteIrq := v } } = blank bm x := by
  refine blank_mono hm ?_; clear hm bm; simp [blank]

@[simp] theorem blank_csr_lvIrq (x : State) (v : Bool) (bm : BitVec 48) (hm : 0x2000#48 &&& ~~~ bm = 0) : blank bm { x with csr := { x.csr with lvIrq := v } } = blank bm x := by
  refine blank_mono hm ?_; clear hm bm; simp [blank]

@[simp] theorem blank_csr_hold (x : State) (v : Bool) (bm : BitVec 48) (hm : 0x2000#48 &&& ~~~ bm = 0) : blank bm { x with csr := { x.csr with hold := v } } = blank bm x := by
  refine blank_mono hm ?_; clear hm bm; simp [blank]

@[simp] theorem blank_cfg_freeze (x : State) (v : Bool) (bm : BitVec 48) (hm : 0x20000#48 &&& ~~~ bm = 0) : blank bm { x with cfg := { x.cfg with freeze := v } } = blank bm x := by
  refine blank_mono hm ?_; clear hm bm; simp [blank]

@[simp] theorem blank_cfg_srcWin (x : State) (v : Bool) (bm : BitVec 48) (hm : 0x20000#48 &&& ~~~ bm = 0) : blank bm { x with cfg := { x.cfg with srcWin := v } } = blank bm x := by
  refine blank_mono hm ?_; clear hm bm; simp [blank]

@[simp] theorem blank_cfg_caddyMask (x : State) (v : BitVec 4) (bm : BitVec 48) (hm : 0x20000#48 &&& ~~~ bm = 0) : blank bm { x with cfg := { x.cfg with caddyMask := v } } = blank bm x := by
  refine blank_mono hm ?_; clear hm bm; simp [blank]

@[simp] theorem blank_cfg_partMask (x : State) (v : BitVec 16) (bm : BitVec 48) (hm : 0x20000#48 &&& ~~~ bm = 0) : blank bm { x with cfg := { x.cfg with partMask := v } } = blank bm x := by
  refine blank_mono hm ?_; clear hm bm; simp [blank]

@[simp] theorem blank_cfg_glob (x : State) (v : Bool) (bm : BitVec 48) (hm : 0x20000#48 &&& ~~~ bm = 0) : blank bm { x with cfg := { x.cfg with glob := v } } = blank bm x := by
  refine blank_mono hm ?_; clear hm bm; simp [blank]

@[simp] theorem blank_cfg_busy (x : State) (v : Bool) (bm : BitVec 48) (hm : 0x20000#48 &&& ~~~ bm = 0) : blank bm { x with cfg := { x.cfg with busy := v } } = blank bm x := by
  refine blank_mono hm ?_; clear hm bm; simp [blank]

@[simp] theorem blank_cfg_src (x : State) (v : BitVec 40) (bm : BitVec 48) (hm : 0x20000#48 &&& ~~~ bm = 0) : blank bm { x with cfg := { x.cfg with src := v } } = blank bm x := by
  refine blank_mono hm ?_; clear hm bm; simp [blank]

@[simp] theorem blank_cfg_rptAddr (x : State) (v : BitVec 40) (bm : BitVec 48) (hm : 0x20000#48 &&& ~~~ bm = 0) : blank bm { x with cfg := { x.cfg with rptAddr := v } } = blank bm x := by
  refine blank_mono hm ?_; clear hm bm; simp [blank]

@[simp] theorem blank_cfg_rptSize (x : State) (v : BitVec 4) (bm : BitVec 48) (hm : 0x20000#48 &&& ~~~ bm = 0) : blank bm { x with cfg := { x.cfg with rptSize := v } } = blank bm x := by
  refine blank_mono hm ?_; clear hm bm; simp [blank]

@[simp] theorem blank_cfg_clamps (x : State) (v : W16) (bm : BitVec 48) (hm : 0x20000#48 &&& ~~~ bm = 0) : blank bm { x with cfg := { x.cfg with clamps := v } } = blank bm x := by
  refine blank_mono hm ?_; clear hm bm; simp [blank]

@[simp] theorem blank_cfg_writePos (x : State) (v : Nat) (bm : BitVec 48) (hm : 0x20000#48 &&& ~~~ bm = 0) : blank bm { x with cfg := { x.cfg with writePos := v } } = blank bm x := by
  refine blank_mono hm ?_; clear hm bm; simp [blank]

@[simp] theorem blank_cfg_overrun (x : State) (v : Bool) (bm : BitVec 48) (hm : 0x20000#48 &&& ~~~ bm = 0) : blank bm { x with cfg := { x.cfg with overrun := v } } = blank bm x := by
  refine blank_mono hm ?_; clear hm bm; simp [blank]

@[simp] theorem blank_cfg_done (x : State) (v : Bool) (bm : BitVec 48) (hm : 0x20000#48 &&& ~~~ bm = 0) : blank bm { x with cfg := { x.cfg with done := v } } = blank bm x := by
  refine blank_mono hm ?_; clear hm bm; simp [blank]

@[simp] theorem blank_cfg_state (x : State) (v : BitVec 3) (bm : BitVec 48) (hm : 0x20000#48 &&& ~~~ bm = 0) : blank bm { x with cfg := { x.cfg with state := v } } = blank bm x := by
  refine blank_mono hm ?_; clear hm bm; simp [blank]

@[simp] theorem blank_cfg_reject (x : State) (v : BitVec 3) (bm : BitVec 48) (hm : 0x20000#48 &&& ~~~ bm = 0) : blank bm { x with cfg := { x.cfg with reject := v } } = blank bm x := by
  refine blank_mono hm ?_; clear hm bm; simp [blank]

@[simp] theorem blank_cfg_window (x : State) (v : Mem) (bm : BitVec 48) (hm : 0x20000#48 &&& ~~~ bm = 0) : blank bm { x with cfg := { x.cfg with window := v } } = blank bm x := by
  refine blank_mono hm ?_; clear hm bm; simp [blank]

@[simp] theorem blank_cfg_notes (x : State) (v : List (Option Section × ClampE)) (bm : BitVec 48) (hm : 0x20000#48 &&& ~~~ bm = 0) : blank bm { x with cfg := { x.cfg with notes := v } } = blank bm x := by
  refine blank_mono hm ?_; clear hm bm; simp [blank]

@[simp] theorem blank_cfg_waitPart (x : State) (v : List PartLoad) (bm : BitVec 48) (hm : 0x20000#48 &&& ~~~ bm = 0) : blank bm { x with cfg := { x.cfg with waitPart := v } } = blank bm x := by
  refine blank_mono hm ?_; clear hm bm; simp [blank]

@[simp] theorem blank_cfg_waitCaddy (x : State) (v : List CaddyLoad) (bm : BitVec 48) (hm : 0x20000#48 &&& ~~~ bm = 0) : blank bm { x with cfg := { x.cfg with waitCaddy := v } } = blank bm x := by
  refine blank_mono hm ?_; clear hm bm; simp [blank]

@[simp] theorem blank_cfg_waitGlobal (x : State) (v : Option GlobalSec) (bm : BitVec 48) (hm : 0x20000#48 &&& ~~~ bm = 0) : blank bm { x with cfg := { x.cfg with waitGlobal := v } } = blank bm x := by
  refine blank_mono hm ?_; clear hm bm; simp [blank]

@[simp] theorem blank_cfg_ptab (x : State) (v : Vector (Vector (Sh (Tri W64)) 4) 16) (bm : BitVec 48) (hm : 0x4000#48 &&& ~~~ bm = 0) : blank bm { x with cfg := { x.cfg with ptab := v } } = blank bm x := by
  refine blank_mono hm ?_; clear hm bm; simp [blank]

@[simp] theorem blank_cfg_fpDef (x : State) (v : Vector Byte 16) (bm : BitVec 48) (hm : 0x10000#48 &&& ~~~ bm = 0) : blank bm { x with cfg := { x.cfg with fpDef := v } } = blank bm x := by
  refine blank_mono hm ?_; clear hm bm; simp [blank]

@[simp] theorem blank_cfg_ringUp (x : State) (v : BitVec 5) (bm : BitVec 48) (hm : 0x10000#48 &&& ~~~ bm = 0) : blank bm { x with cfg := { x.cfg with ringUp := v } } = blank bm x := by
  refine blank_mono hm ?_; clear hm bm; simp [blank]

@[simp] theorem blank_cfg_ringDown (x : State) (v : BitVec 5) (bm : BitVec 48) (hm : 0x10000#48 &&& ~~~ bm = 0) : blank bm { x with cfg := { x.cfg with ringDown := v } } = blank bm x := by
  refine blank_mono hm ?_; clear hm bm; simp [blank]

@[simp] theorem blank_cfg_fwdLinks (x : State) (v : BitVec 24) (bm : BitVec 48) (hm : 0x10000#48 &&& ~~~ bm = 0) : blank bm { x with cfg := { x.cfg with fwdLinks := v } } = blank bm x := by
  refine blank_mono hm ?_; clear hm bm; simp [blank]

@[simp] theorem blank_cfg_fwdReserve (x : State) (v : Nat) (bm : BitVec 48) (hm : 0x10000#48 &&& ~~~ bm = 0) : blank bm { x with cfg := { x.cfg with fwdReserve := v } } = blank bm x := by
  refine blank_mono hm ?_; clear hm bm; simp [blank]

@[simp] theorem blank_cfg_fwdBundles (x : State) (v : Nat) (bm : BitVec 48) (hm : 0x10000#48 &&& ~~~ bm = 0) : blank bm { x with cfg := { x.cfg with fwdBundles := v } } = blank bm x := by
  refine blank_mono hm ?_; clear hm bm; simp [blank]

@[simp] theorem blank_cfg_fwdStrain (x : State) (v : Nat) (bm : BitVec 48) (hm : 0x10000#48 &&& ~~~ bm = 0) : blank bm { x with cfg := { x.cfg with fwdStrain := v } } = blank bm x := by
  refine blank_mono hm ?_; clear hm bm; simp [blank]

@[simp] theorem blank_cfg_caddies (x : State) (v : Vector Caddy 4) (bm : BitVec 48) (hm : 0x8000#48 &&& ~~~ bm = 0) : blank bm { x with cfg := { x.cfg with caddies := v } } = blank bm x := by
  refine blank_mono hm ?_; clear hm bm; simp [blank]

@[simp] theorem blank_cfg_sel (x : State) (v : Tri (BitVec 2)) (bm : BitVec 48) (hm : 0x8000#48 &&& ~~~ bm = 0) : blank bm { x with cfg := { x.cfg with sel := v } } = blank bm x := by
  refine blank_mono hm ?_; clear hm bm; simp [blank]

@[simp] theorem blank_parts (x : State) (v : Vector Part 16) (bm : BitVec 48) (hm : 0x40000#48 &&& ~~~ bm = 0) : blank bm { x with parts := v } = blank bm x := by
  refine blank_mono hm ?_; clear hm bm; simp [blank]

@[simp] theorem blank_queues (x : State) (v : Vector Queue 64) (bm : BitVec 48) (hm : 0x80000#48 &&& ~~~ bm = 0) : blank bm { x with queues := v } = blank bm x := by
  refine blank_mono hm ?_; clear hm bm; simp [blank]

@[simp] theorem blank_front (x : State) (v : Front) (bm : BitVec 48) (hm : 0x100000#48 &&& ~~~ bm = 0) : blank bm { x with front := v } = blank bm x := by
  refine blank_mono hm ?_; clear hm bm; simp [blank]

@[simp] theorem blank_mem (x : State) (v : Mem) (bm : BitVec 48) (hm : 0x200000#48 &&& ~~~ bm = 0) : blank bm { x with mem := v } = blank bm x := by
  refine blank_mono hm ?_; clear hm bm; simp [blank]

@[simp] theorem blank_kennel_slots (x : State) (v : List (Nat × KSlot)) (bm : BitVec 48) (hm : 0x400000#48 &&& ~~~ bm = 0) : blank bm { x with kennel := { x.kennel with slots := v } } = blank bm x := by
  refine blank_mono hm ?_; clear hm bm; simp [blank]

@[simp] theorem blank_kennel_gens (x : State) (v : List (Nat × BitVec 14)) (bm : BitVec 48) (hm : 0x400000#48 &&& ~~~ bm = 0) : blank bm { x with kennel := { x.kennel with gens := v } } = blank bm x := by
  refine blank_mono hm ?_; clear hm bm; simp [blank]

@[simp] theorem blank_kennel_banksOut (x : State) (v : BitVec 64) (bm : BitVec 48) (hm : 0x800000#48 &&& ~~~ bm = 0) : blank bm { x with kennel := { x.kennel with banksOut := v } } = blank bm x := by
  refine blank_mono hm ?_; clear hm bm; simp [blank]

@[simp] theorem blank_kennel_banksBack (x : State) (v : BitVec 64) (bm : BitVec 48) (hm : 0x800000#48 &&& ~~~ bm = 0) : blank bm { x with kennel := { x.kennel with banksBack := v } } = blank bm x := by
  refine blank_mono hm ?_; clear hm bm; simp [blank]

@[simp] theorem blank_kennel_uncorr (x : State) (v : W16) (bm : BitVec 48) (hm : 0x800000#48 &&& ~~~ bm = 0) : blank bm { x with kennel := { x.kennel with uncorr := v } } = blank bm x := by
  refine blank_mono hm ?_; clear hm bm; simp [blank]

@[simp] theorem blank_kennel_corr (x : State) (v : W16) (bm : BitVec 48) (hm : 0x800000#48 &&& ~~~ bm = 0) : blank bm { x with kennel := { x.kennel with corr := v } } = blank bm x := by
  refine blank_mono hm ?_; clear hm bm; simp [blank]

@[simp] theorem blank_kennel_stale (x : State) (v : List Nat) (bm : BitVec 48) (hm : 0x400000#48 &&& ~~~ bm = 0) : blank bm { x with kennel := { x.kennel with stale := v } } = blank bm x := by
  refine blank_mono hm ?_; clear hm bm; simp [blank]

@[simp] theorem blank_kennel_scrubbed (x : State) (v : BitVec 64) (bm : BitVec 48) (hm : 0x800000#48 &&& ~~~ bm = 0) : blank bm { x with kennel := { x.kennel with scrubbed := v } } = blank bm x := by
  refine blank_mono hm ?_; clear hm bm; simp [blank]

@[simp] theorem blank_kennel_visits (x : State) (v : List (Nat × Visit)) (bm : BitVec 48) (hm : 0x400000#48 &&& ~~~ bm = 0) : blank bm { x with kennel := { x.kennel with visits := v } } = blank bm x := by
  refine blank_mono hm ?_; clear hm bm; simp [blank]

@[simp] theorem blank_kennel_images (x : State) (v : List (Nat × Slot64)) (bm : BitVec 48) (hm : 0x400000#48 &&& ~~~ bm = 0) : blank bm { x with kennel := { x.kennel with images := v } } = blank bm x := by
  refine blank_mono hm ?_; clear hm bm; simp [blank]

@[simp] theorem blank_kennel_cands (x : State) (v : List (Nat × Cand)) (bm : BitVec 48) (hm : 0x400000#48 &&& ~~~ bm = 0) : blank bm { x with kennel := { x.kennel with cands := v } } = blank bm x := by
  refine blank_mono hm ?_; clear hm bm; simp [blank]

@[simp] theorem blank_herd (x : State) (v : Herd) (bm : BitVec 48) (hm : 0x1000000#48 &&& ~~~ bm = 0) : blank bm { x with herd := v } = blank bm x := by
  refine blank_mono hm ?_; clear hm bm; simp [blank]

@[simp] theorem blank_arr_tus (x : State) (v : Vector Tu 128) (bm : BitVec 48) (hm : 0x2000000#48 &&& ~~~ bm = 0) : blank bm { x with arr := { x.arr with tus := v } } = blank bm x := by
  refine blank_mono hm ?_; clear hm bm; simp [blank]

@[simp] theorem blank_arr_rows (x : State) (v : Vector Row 8) (bm : BitVec 48) (hm : 0x4000000#48 &&& ~~~ bm = 0) : blank bm { x with arr := { x.arr with rows := v } } = blank bm x := by
  refine blank_mono hm ?_; clear hm bm; simp [blank]

@[simp] theorem blank_arr_autoFence (x : State) (v : BitVec 4) (bm : BitVec 48) (hm : 0x4000000#48 &&& ~~~ bm = 0) : blank bm { x with arr := { x.arr with autoFence := v } } = blank bm x := by
  refine blank_mono hm ?_; clear hm bm; simp [blank]

@[simp] theorem blank_arr_sleepEast (x : State) (v : Bool) (bm : BitVec 48) (hm : 0x4000000#48 &&& ~~~ bm = 0) : blank bm { x with arr := { x.arr with sleepEast := v } } = blank bm x := by
  refine blank_mono hm ?_; clear hm bm; simp [blank]

@[simp] theorem blank_arr_sleepWest (x : State) (v : Bool) (bm : BitVec 48) (hm : 0x4000000#48 &&& ~~~ bm = 0) : blank bm { x with arr := { x.arr with sleepWest := v } } = blank bm x := by
  refine blank_mono hm ?_; clear hm bm; simp [blank]

@[simp] theorem blank_arr_dist (x : State) (v : Sh Bool) (bm : BitVec 48) (hm : 0x4000000#48 &&& ~~~ bm = 0) : blank bm { x with arr := { x.arr with dist := v } } = blank bm x := by
  refine blank_mono hm ?_; clear hm bm; simp [blank]

@[simp] theorem blank_arr_east (x : State) (v : BitVec 2) (bm : BitVec 48) (hm : 0x4000000#48 &&& ~~~ bm = 0) : blank bm { x with arr := { x.arr with east := v } } = blank bm x := by
  refine blank_mono hm ?_; clear hm bm; simp [blank]

@[simp] theorem blank_arr_west (x : State) (v : BitVec 2) (bm : BitVec 48) (hm : 0x4000000#48 &&& ~~~ bm = 0) : blank bm { x with arr := { x.arr with west := v } } = blank bm x := by
  refine blank_mono hm ?_; clear hm bm; simp [blank]

@[simp] theorem blank_arr_sleepRefused (x : State) (v : Bool) (bm : BitVec 48) (hm : 0x4000000#48 &&& ~~~ bm = 0) : blank bm { x with arr := { x.arr with sleepRefused := v } } = blank bm x := by
  refine blank_mono hm ?_; clear hm bm; simp [blank]

@[simp] theorem blank_arr_fenceEvent (x : State) (v : Bool) (bm : BitVec 48) (hm : 0x4000000#48 &&& ~~~ bm = 0) : blank bm { x with arr := { x.arr with fenceEvent := v } } = blank bm x := by
  refine blank_mono hm ?_; clear hm bm; simp [blank]

@[simp] theorem blank_arr_residueErrs (x : State) (v : W16) (bm : BitVec 48) (hm : 0x4000000#48 &&& ~~~ bm = 0) : blank bm { x with arr := { x.arr with residueErrs := v } } = blank bm x := by
  refine blank_mono hm ?_; clear hm bm; simp [blank]

@[simp] theorem blank_arr_imbSet (x : State) (v : Sh (BitVec 4)) (bm : BitVec 48) (hm : 0x4000000#48 &&& ~~~ bm = 0) : blank bm { x with arr := { x.arr with imbSet := v } } = blank bm x := by
  refine blank_mono hm ?_; clear hm bm; simp [blank]

@[simp] theorem blank_arr_imbTu (x : State) (v : Sh (BitVec 3)) (bm : BitVec 48) (hm : 0x4000000#48 &&& ~~~ bm = 0) : blank bm { x with arr := { x.arr with imbTu := v } } = blank bm x := by
  refine blank_mono hm ?_; clear hm bm; simp [blank]

@[simp] theorem blank_arr_blkLimit (x : State) (v : Byte) (bm : BitVec 48) (hm : 0x4000000#48 &&& ~~~ bm = 0) : blank bm { x with arr := { x.arr with blkLimit := v } } = blank bm x := by
  refine blank_mono hm ?_; clear hm bm; simp [blank]

@[simp] theorem blank_arr_blkDraining (x : State) (v : Bool) (bm : BitVec 48) (hm : 0x4000000#48 &&& ~~~ bm = 0) : blank bm { x with arr := { x.arr with blkDraining := v } } = blank bm x := by
  refine blank_mono hm ?_; clear hm bm; simp [blank]

@[simp] theorem blank_arr_blkTimeout (x : State) (v : Bool) (bm : BitVec 48) (hm : 0x4000000#48 &&& ~~~ bm = 0) : blank bm { x with arr := { x.arr with blkTimeout := v } } = blank bm x := by
  refine blank_mono hm ?_; clear hm bm; simp [blank]

@[simp] theorem blank_arr_coresOut (x : State) (v : BitVec 16) (bm : BitVec 48) (hm : 0x4000000#48 &&& ~~~ bm = 0) : blank bm { x with arr := { x.arr with coresOut := v } } = blank bm x := by
  refine blank_mono hm ?_; clear hm bm; simp [blank]

@[simp] theorem blank_arr_unitsOut (x : State) (v : BitVec 16) (bm : BitVec 48) (hm : 0x4000000#48 &&& ~~~ bm = 0) : blank bm { x with arr := { x.arr with unitsOut := v } } = blank bm x := by
  refine blank_mono hm ?_; clear hm bm; simp [blank]

@[simp] theorem blank_arr_coresBack (x : State) (v : BitVec 16) (bm : BitVec 48) (hm : 0x4000000#48 &&& ~~~ bm = 0) : blank bm { x with arr := { x.arr with coresBack := v } } = blank bm x := by
  refine blank_mono hm ?_; clear hm bm; simp [blank]

@[simp] theorem blank_arr_unitsBack (x : State) (v : BitVec 16) (bm : BitVec 48) (hm : 0x4000000#48 &&& ~~~ bm = 0) : blank bm { x with arr := { x.arr with unitsBack := v } } = blank bm x := by
  refine blank_mono hm ?_; clear hm bm; simp [blank]

@[simp] theorem blank_pwr (x : State) (v : Pwr) (bm : BitVec 48) (hm : 0x8000000#48 &&& ~~~ bm = 0) : blank bm { x with pwr := v } = blank bm x := by
  refine blank_mono hm ?_; clear hm bm; simp [blank]

@[simp] theorem blank_ret (x : State) (v : Ret) (bm : BitVec 48) (hm : 0x10000000#48 &&& ~~~ bm = 0) : blank bm { x with ret := v } = blank bm x := by
  refine blank_mono hm ?_; clear hm bm; simp [blank]

@[simp] theorem blank_strain (x : State) (v : Strain) (bm : BitVec 48) (hm : 0x20000000#48 &&& ~~~ bm = 0) : blank bm { x with strain := v } = blank bm x := by
  refine blank_mono hm ?_; clear hm bm; simp [blank]

@[simp] theorem blank_setter (x : State) (v : Setter) (bm : BitVec 48) (hm : 0x40000000#48 &&& ~~~ bm = 0) : blank bm { x with setter := v } = blank bm x := by
  refine blank_mono hm ?_; clear hm bm; simp [blank]

@[simp] theorem blank_vis (x : State) (v : Vis) (bm : BitVec 48) (hm : 0x80000000#48 &&& ~~~ bm = 0) : blank bm { x with vis := v } = blank bm x := by
  refine blank_mono hm ?_; clear hm bm; simp [blank]

@[simp] theorem blank_fwd_routeBase (x : State) (v : Sh (BitVec 37)) (bm : BitVec 48) (hm : 0x400000000#48 &&& ~~~ bm = 0) : blank bm { x with fwd := { x.fwd with routeBase := v } } = blank bm x := by
  refine blank_mono hm ?_; clear hm bm; simp [blank]

@[simp] theorem blank_fwd_hostPart (x : State) (v : Sh (BitVec 4)) (bm : BitVec 48) (hm : 0x400000000#48 &&& ~~~ bm = 0) : blank bm { x with fwd := { x.fwd with hostPart := v } } = blank bm x := by
  refine blank_mono hm ?_; clear hm bm; simp [blank]

@[simp] theorem blank_fwd_hostNew (x : State) (v : Bool) (bm : BitVec 48) (hm : 0x400000000#48 &&& ~~~ bm = 0) : blank bm { x with fwd := { x.fwd with hostNew := v } } = blank bm x := by
  refine blank_mono hm ?_; clear hm bm; simp [blank]

@[simp] theorem blank_fwd_ringTimeout (x : State) (v : Sh Byte) (bm : BitVec 48) (hm : 0x400000000#48 &&& ~~~ bm = 0) : blank bm { x with fwd := { x.fwd with ringTimeout := v } } = blank bm x := by
  refine blank_mono hm ?_; clear hm bm; simp [blank]

@[simp] theorem blank_fwd_ringRetry (x : State) (v : Sh (BitVec 4)) (bm : BitVec 48) (hm : 0x400000000#48 &&& ~~~ bm = 0) : blank bm { x with fwd := { x.fwd with ringRetry := v } } = blank bm x := by
  refine blank_mono hm ?_; clear hm bm; simp [blank]

@[simp] theorem blank_fwd_ownBase (x : State) (v : Tri (BitVec 51)) (bm : BitVec 48) (hm : 0x100000000#48 &&& ~~~ bm = 0) : blank bm { x with fwd := { x.fwd with ownBase := v } } = blank bm x := by
  refine blank_mono hm ?_; clear hm bm; simp [blank]

@[simp] theorem blank_fwd_nextEpoch (x : State) (v : W32) (bm : BitVec 48) (hm : 0x100000000#48 &&& ~~~ bm = 0) : blank bm { x with fwd := { x.fwd with nextEpoch := v } } = blank bm x := by
  refine blank_mono hm ?_; clear hm bm; simp [blank]

@[simp] theorem blank_fwd_ownEntries (x : State) (v : BitVec 17) (bm : BitVec 48) (hm : 0x100000000#48 &&& ~~~ bm = 0) : blank bm { x with fwd := { x.fwd with ownEntries := v } } = blank bm x := by
  refine blank_mono hm ?_; clear hm bm; simp [blank]

@[simp] theorem blank_fwd_epoch (x : State) (v : Tri W32) (bm : BitVec 48) (hm : 0x100000000#48 &&& ~~~ bm = 0) : blank bm { x with fwd := { x.fwd with epoch := v } } = blank bm x := by
  refine blank_mono hm ?_; clear hm bm; simp [blank]

@[simp] theorem blank_fwd_applied (x : State) (v : BitVec 13) (bm : BitVec 48) (hm : 0x100000000#48 &&& ~~~ bm = 0) : blank bm { x with fwd := { x.fwd with applied := v } } = blank bm x := by
  refine blank_mono hm ?_; clear hm bm; simp [blank]

@[simp] theorem blank_fwd_missed (x : State) (v : BitVec 13) (bm : BitVec 48) (hm : 0x100000000#48 &&& ~~~ bm = 0) : blank bm { x with fwd := { x.fwd with missed := v } } = blank bm x := by
  refine blank_mono hm ?_; clear hm bm; simp [blank]

@[simp] theorem blank_fwd_superseded (x : State) (v : Bool) (bm : BitVec 48) (hm : 0x100000000#48 &&& ~~~ bm = 0) : blank bm { x with fwd := { x.fwd with superseded := v } } = blank bm x := by
  refine blank_mono hm ?_; clear hm bm; simp [blank]

@[simp] theorem blank_fwd_reloadReject (x : State) (v : Bool) (bm : BitVec 48) (hm : 0x100000000#48 &&& ~~~ bm = 0) : blank bm { x with fwd := { x.fwd with reloadReject := v } } = blank bm x := by
  refine blank_mono hm ?_; clear hm bm; simp [blank]

@[simp] theorem blank_fwd_epochBehind (x : State) (v : Bool) (bm : BitVec 48) (hm : 0x100000000#48 &&& ~~~ bm = 0) : blank bm { x with fwd := { x.fwd with epochBehind := v } } = blank bm x := by
  refine blank_mono hm ?_; clear hm bm; simp [blank]

@[simp] theorem blank_fwd_epochMissed (x : State) (v : Bool) (bm : BitVec 48) (hm : 0x100000000#48 &&& ~~~ bm = 0) : blank bm { x with fwd := { x.fwd with epochMissed := v } } = blank bm x := by
  refine blank_mono hm ?_; clear hm bm; simp [blank]

@[simp] theorem blank_fwd_reloading (x : State) (v : Bool) (bm : BitVec 48) (hm : 0x100000000#48 &&& ~~~ bm = 0) : blank bm { x with fwd := { x.fwd with reloading := v } } = blank bm x := by
  refine blank_mono hm ?_; clear hm bm; simp [blank]

@[simp] theorem blank_fwd_table (x : State) (v : List (Nat × OwnEntry)) (bm : BitVec 48) (hm : 0x100000000#48 &&& ~~~ bm = 0) : blank bm { x with fwd := { x.fwd with table := v } } = blank bm x := by
  refine blank_mono hm ?_; clear hm bm; simp [blank]

@[simp] theorem blank_fwd_staging (x : State) (v : Option Staging) (bm : BitVec 48) (hm : 0x100000000#48 &&& ~~~ bm = 0) : blank bm { x with fwd := { x.fwd with staging := v } } = blank bm x := by
  refine blank_mono hm ?_; clear hm bm; simp [blank]

@[simp] theorem blank_fwd_prevMap (x : State) (v : List Nat) (bm : BitVec 48) (hm : 0x100000000#48 &&& ~~~ bm = 0) : blank bm { x with fwd := { x.fwd with prevMap := v } } = blank bm x := by
  refine blank_mono hm ?_; clear hm bm; simp [blank]

@[simp] theorem blank_fwd_bad (x : State) (v : List Nat) (bm : BitVec 48) (hm : 0x100000000#48 &&& ~~~ bm = 0) : blank bm { x with fwd := { x.fwd with bad := v } } = blank bm x := by
  refine blank_mono hm ?_; clear hm bm; simp [blank]

@[simp] theorem blank_fwd_sess (x : State) (v : Vector Session 24) (bm : BitVec 48) (hm : 0x200000000#48 &&& ~~~ bm = 0) : blank bm { x with fwd := { x.fwd with sess := v } } = blank bm x := by
  refine blank_mono hm ?_; clear hm bm; simp [blank]

@[simp] theorem blank_fwd_staleDrop (x : State) (v : W16) (bm : BitVec 48) (hm : 0x400000000#48 &&& ~~~ bm = 0) : blank bm { x with fwd := { x.fwd with staleDrop := v } } = blank bm x := by
  refine blank_mono hm ?_; clear hm bm; simp [blank]

@[simp] theorem blank_fwd_reissues (x : State) (v : W16) (bm : BitVec 48) (hm : 0x400000000#48 &&& ~~~ bm = 0) : blank bm { x with fwd := { x.fwd with reissues := v } } = blank bm x := by
  refine blank_mono hm ?_; clear hm bm; simp [blank]

@[simp] theorem blank_fwd_fwdFails (x : State) (v : W16) (bm : BitVec 48) (hm : 0x400000000#48 &&& ~~~ bm = 0) : blank bm { x with fwd := { x.fwd with fwdFails := v } } = blank bm x := by
  refine blank_mono hm ?_; clear hm bm; simp [blank]

@[simp] theorem blank_fwd_relayDrop (x : State) (v : Byte) (bm : BitVec 48) (hm : 0x400000000#48 &&& ~~~ bm = 0) : blank bm { x with fwd := { x.fwd with relayDrop := v } } = blank bm x := by
  refine blank_mono hm ?_; clear hm bm; simp [blank]

@[simp] theorem blank_fwd_orphans (x : State) (v : Byte) (bm : BitVec 48) (hm : 0x400000000#48 &&& ~~~ bm = 0) : blank bm { x with fwd := { x.fwd with orphans := v } } = blank bm x := by
  refine blank_mono hm ?_; clear hm bm; simp [blank]

@[simp] theorem blank_fwd_ring (x : State) (v : List RingMsg) (bm : BitVec 48) (hm : 0x400000000#48 &&& ~~~ bm = 0) : blank bm { x with fwd := { x.fwd with ring := v } } = blank bm x := by
  refine blank_mono hm ?_; clear hm bm; simp [blank]

@[simp] theorem blank_fwd_ringSeq (x : State) (v : Nat) (bm : BitVec 48) (hm : 0x400000000#48 &&& ~~~ bm = 0) : blank bm { x with fwd := { x.fwd with ringSeq := v } } = blank bm x := by
  refine blank_mono hm ?_; clear hm bm; simp [blank]

@[simp] theorem blank_fwd_publish (x : State) (v : Option Publish) (bm : BitVec 48) (hm : 0x400000000#48 &&& ~~~ bm = 0) : blank bm { x with fwd := { x.fwd with publish := v } } = blank bm x := by
  refine blank_mono hm ?_; clear hm bm; simp [blank]

@[simp] theorem blank_fwd_foreign (x : State) (v : List Foreign) (bm : BitVec 48) (hm : 0x400000000#48 &&& ~~~ bm = 0) : blank bm { x with fwd := { x.fwd with foreign := v } } = blank bm x := by
  refine blank_mono hm ?_; clear hm bm; simp [blank]

@[simp] theorem blank_fwd_waiting (x : State) (v : List (LinkId × MsgHdr × MsgBody)) (bm : BitVec 48) (hm : 0x400000000#48 &&& ~~~ bm = 0) : blank bm { x with fwd := { x.fwd with waiting := v } } = blank bm x := by
  refine blank_mono hm ?_; clear hm bm; simp [blank]

@[simp] theorem blank_fwd_cmds (x : State) (v : List (LinkId × Bool × CmdRef)) (bm : BitVec 48) (hm : 0x400000000#48 &&& ~~~ bm = 0) : blank bm { x with fwd := { x.fwd with cmds := v } } = blank bm x := by
  refine blank_mono hm ?_; clear hm bm; simp [blank]

@[simp] theorem blank_fwd_turn (x : State) (v : PartId) (bm : BitVec 48) (hm : 0x400000000#48 &&& ~~~ bm = 0) : blank bm { x with fwd := { x.fwd with turn := v } } = blank bm x := by
  refine blank_mono hm ?_; clear hm bm; simp [blank]

@[simp] theorem blank_mmu_tlb (x : State) (v : List TlbEntry) (bm : BitVec 48) (hm : 0x800000000#48 &&& ~~~ bm = 0) : blank bm { x with mmu := { x.mmu with tlb := v } } = blank bm x := by
  refine blank_mono hm ?_; clear hm bm; simp [blank]

@[simp] theorem blank_mmu_faults (x : State) (v : List OpenFault) (bm : BitVec 48) (hm : 0x1000000000#48 &&& ~~~ bm = 0) : blank bm { x with mmu := { x.mmu with faults := v } } = blank bm x := by
  refine blank_mono hm ?_; clear hm bm; simp [blank]

@[simp] theorem blank_mmu_badPtes (x : State) (v : List (Nat × Nat)) (bm : BitVec 48) (hm : 0x800000000#48 &&& ~~~ bm = 0) : blank bm { x with mmu := { x.mmu with badPtes := v } } = blank bm x := by
  refine blank_mono hm ?_; clear hm bm; simp [blank]

@[simp] theorem blank_steep (x : State) (v : Steep) (bm : BitVec 48) (hm : 0x2000000000#48 &&& ~~~ bm = 0) : blank bm { x with steep := v } = blank bm x := by
  refine blank_mono hm ?_; clear hm bm; simp [blank]

@[simp] theorem blank_trace (x : State) (v : Trace) (bm : BitVec 48) (hm : 0x4000000000#48 &&& ~~~ bm = 0) : blank bm { x with trace := v } = blank bm x := by
  refine blank_mono hm ?_; clear hm bm; simp [blank]

@[simp] theorem blank_dbg (x : State) (v : Dbg) (bm : BitVec 48) (hm : 0x8000000000#48 &&& ~~~ bm = 0) : blank bm { x with dbg := v } = blank bm x := by
  refine blank_mono hm ?_; clear hm bm; simp [blank]

@[simp] theorem blank_err (x : State) (v : Err) (bm : BitVec 48) (hm : 0x10000000000#48 &&& ~~~ bm = 0) : blank bm { x with err := v } = blank bm x := by
  refine blank_mono hm ?_; clear hm bm; simp [blank]

@[simp] theorem blank_fresh (x : State) (v : Nat) (bm : BitVec 48) (hm : 0x20000000000#48 &&& ~~~ bm = 0) : blank bm { x with fresh := v } = blank bm x := by
  refine blank_mono hm ?_; clear hm bm; simp [blank]

end Sys2Proof.Machine
end

