-- ==== Sys2Proof/Laws/FrameBase.lean ====
section
/-!
SUPPORT. Sys2Proof/Laws/FrameBase.lean: what each operation of Machine/{Ops, Mmu, Work, Herd, Link, Session, Foreign, Fetch, Ret}.lean changes at most: blanked in those components, the state after it is the state before it.
-/

set_option linter.all false

namespace Sys2Proof.Machine
open Sys2Proof

/-! ## Ops -/

@[simp] theorem State.setPart_frame (s : State) (p : PartId) (x : Part) (bm : BitVec 48) (hm : 0x40000#48 &&& ~~~ bm = 0) : blank bm (State.setPart s p x) = blank bm s := by
  refine blank_mono hm ?_; clear hm bm
  simp [State.setPart]

@[simp] theorem State.updPart_frame (s : State) (p : PartId) (f : Part → Part) (bm : BitVec 48) (hm : 0x40000#48 &&& ~~~ bm = 0) : blank bm (State.updPart s p f) = blank bm s := by
  refine blank_mono hm ?_; clear hm bm
  simp [State.updPart]

@[simp] theorem State.setQueue_frame (s : State) (q : QueueId) (x : Queue) (bm : BitVec 48) (hm : 0x80000#48 &&& ~~~ bm = 0) : blank bm (State.setQueue s q x) = blank bm s := by
  refine blank_mono hm ?_; clear hm bm
  simp [State.setQueue]

@[simp] theorem State.updQueue_frame (s : State) (q : QueueId) (f : Queue → Queue) (bm : BitVec 48) (hm : 0x80000#48 &&& ~~~ bm = 0) : blank bm (State.updQueue s q f) = blank bm s := by
  refine blank_mono hm ?_; clear hm bm
  simp [State.updQueue]

@[simp] theorem State.updCmd_frame (s : State) (r : CmdRef) (f : Cmd → Cmd) (bm : BitVec 48) (hm : 0x80000#48 &&& ~~~ bm = 0) : blank bm (State.updCmd s r f) = blank bm s := by
  refine blank_mono hm ?_; clear hm bm
  simp [State.updCmd]

@[simp] theorem State.at_frame (s : State) (t : ℕ) (bm : BitVec 48) (hm : 0x4#48 &&& ~~~ bm = 0) : blank bm (State.at s t) = blank bm s := by
  refine blank_mono hm ?_; clear hm bm
  simp [State.at]

@[simp] theorem State.answer_frame (s : State) (r : BusResp) (bm : BitVec 48) (hm : 0x10#48 &&& ~~~ bm = 0) : blank bm (State.answer s r) = blank bm s := by
  refine blank_mono hm ?_; clear hm bm
  simp [State.answer]

@[simp] theorem State.irqPart_frame (s : State) (p : PartId) (v : BitVec 4) (bm : BitVec 48) (hm : 0x8#48 &&& ~~~ bm = 0) : blank bm (State.irqPart s p v) = blank bm s := by
  refine blank_mono hm ?_; clear hm bm
  simp [State.irqPart]

@[simp] theorem State.irqBlock_frame (s : State) (v : BitVec 4) (bm : BitVec 48) (hm : 0x8#48 &&& ~~~ bm = 0) : blank bm (State.irqBlock s v) = blank bm s := by
  refine blank_mono hm ?_; clear hm bm
  simp [State.irqBlock]

@[simp] theorem State.offerLog_frame (s : State) (w : W64) (bm : BitVec 48) (hm : 0x10000000000#48 &&& ~~~ bm = 0) : blank bm (State.offerLog s w) = blank bm s := by
  refine blank_mono hm ?_; clear hm bm
  simp [State.offerLog]

@[simp] theorem State.errCorrected_frame (s : State) (bm : BitVec 48) (hm : 0x10000000000#48 &&& ~~~ bm = 0) : blank bm (State.errCorrected s) = blank bm s := by
  refine blank_mono hm ?_; clear hm bm
  simp [State.errCorrected]

@[simp] theorem State.errContained_frame (s : State) (p : PartId) (src : ℕ) (index : ℕ) (item : ℕ) (bm : BitVec 48) (hm : 0x10000040008#48 &&& ~~~ bm = 0) : blank bm (State.errContained s p src index item) = blank bm s := by
  refine blank_mono hm ?_; clear hm bm
  simp [State.errContained]

@[simp] theorem State.errBlock_frame (s : State) (src : ℕ) (index : ℕ) (bm : BitVec 48) (hm : 0x1000000010A#48 &&& ~~~ bm = 0) : blank bm (State.errBlock s src index) = blank bm s := by
  refine blank_mono hm ?_; clear hm bm
  simp only [State.errBlock]; (repeat' split) <;> (try simp) <;> simp [blank]

@[simp] theorem State.errPartition_frame (s : State) (p : PartId) (reason : BitVec 2) (bm : BitVec 48) (hm : 0x10000040008#48 &&& ~~~ bm = 0) : blank bm (State.errPartition s p reason) = blank bm s := by
  refine blank_mono hm ?_; clear hm bm
  simp [State.errPartition]

@[simp] theorem State.timerAdd_frame (s : State) (tm : Timer) (due : ℕ) (bm : BitVec 48) (hm : 0x2000000000#48 &&& ~~~ bm = 0) : blank bm (State.timerAdd s tm due) = blank bm s := by
  refine blank_mono hm ?_; clear hm bm
  simp [State.timerAdd]

@[simp] theorem State.timerDel_frame (s : State) (tm : Timer) (bm : BitVec 48) (hm : 0x2000000000#48 &&& ~~~ bm = 0) : blank bm (State.timerDel s tm) = blank bm s := by
  refine blank_mono hm ?_; clear hm bm
  simp [State.timerDel]

@[simp] theorem State.timerDelIf_frame (s : State) (f : Timer → Bool) (bm : BitVec 48) (hm : 0x2000000000#48 &&& ~~~ bm = 0) : blank bm (State.timerDelIf s f) = blank bm s := by
  refine blank_mono hm ?_; clear hm bm
  simp [State.timerDelIf]

@[simp] theorem State.timerTake_frame (s : State) (tm : Timer) (t : ℕ) (bm : BitVec 48) (hm : 0x2000000004#48 &&& ~~~ bm = 0) : blank bm (State.timerTake s tm t) = blank bm s := by
  refine blank_mono hm ?_; clear hm bm
  simp [State.timerTake]

@[simp] theorem State.kPut_frame (s : State) (i : ℕ) (x : KSlot) (bm : BitVec 48) (hm : 0x400000#48 &&& ~~~ bm = 0) : blank bm (State.kPut s i x) = blank bm s := by
  refine blank_mono hm ?_; clear hm bm
  simp [State.kPut]

@[simp] theorem State.kFree_frame (s : State) (i : ℕ) (bm : BitVec 48) (hm : 0x400000#48 &&& ~~~ bm = 0) : blank bm (State.kFree s i) = blank bm s := by
  refine blank_mono hm ?_; clear hm bm
  simp [State.kFree, blank]

@[simp] theorem State.genUp_frame (s : State) (i : ℕ) (bm : BitVec 48) (hm : 0x400000#48 &&& ~~~ bm = 0) : blank bm (State.genUp s i) = blank bm s := by
  refine blank_mono hm ?_; clear hm bm
  simp [State.genUp]

@[simp] theorem State.peak_frame (s : State) (p : PartId) (bm : BitVec 48) (hm : 0x40000#48 &&& ~~~ bm = 0) : blank bm (State.peak s p) = blank bm s := by
  refine blank_mono hm ?_; clear hm bm
  simp [State.peak]

@[simp] theorem State.fresh64_frame (s : State) (i : ℕ) (bm : BitVec 48) (hm : 0x400000#48 &&& ~~~ bm = 0) : blank bm (State.fresh64 s i) = blank bm s := by
  refine blank_mono hm ?_; clear hm bm
  first | (simp [State.fresh64]; done) | (simp only [State.fresh64]; (repeat' split) <;> simp; done) | (simp only [State.fresh64]; (repeat' split) <;> simp [blank]; done)

theorem State.kTake_frame (s : State) (env : Env) (p : PartId) (f : Bool) (prev : Option Nat) (d : KData) {i : Nat} {t : State} (h : s.kTake env p f prev d = some (i, t)) (bm : BitVec 48) (hm : 0x440000#48 &&& ~~~ bm = 0) : blank bm t = blank bm s := by
  refine blank_mono hm ?_; clear hm bm
  unfold State.kTake at h
  split at h
  · cases h
  · simp only [Option.some.injEq, Prod.mk.injEq] at h
    obtain ⟨-, rfl⟩ := h
    split <;> simp

theorem State.kAux_frame (s : State) (env : Env) (p : PartId) (f : Bool) (d : KData) {i : Nat} {t : State} (h : s.kAux env p f d = some (i, t)) (bm : BitVec 48) (hm : 0x440000#48 &&& ~~~ bm = 0) : blank bm t = blank bm s := by
  refine blank_mono hm ?_; clear hm bm
  unfold State.kAux at h
  (repeat' split at h) <;> first | cases h; done | exact State.kTake_frame _ _ _ _ _ _ h _ (by decide)

@[simp] theorem State.kLink_frame (s : State) (i : ℕ) (l : Option ℕ) (bm : BitVec 48) (hm : 0x400000#48 &&& ~~~ bm = 0) : blank bm (State.kLink s i l) = blank bm s := by
  refine blank_mono hm ?_; clear hm bm
  simp only [State.kLink]; (repeat' split) <;> simp

theorem State.kTakeAll_frame (s : State) (env : Env) (p : PartId) (f : Bool) (prev : Option Nat) (ds : List KData) {i : List Nat} {t : State} (h : State.kTakeAll s env p f prev ds = some (i, t)) (bm : BitVec 48) (hm : 0x440000#48 &&& ~~~ bm = 0) : blank bm t = blank bm s := by
  refine blank_mono hm ?_; clear hm bm
  induction ds generalizing s prev i t with
  | nil => simp [State.kTakeAll] at h; simp [h.2]
  | cons d r ih =>
    simp only [State.kTakeAll] at h
    split at h
    · cases h
    · rename_i j s1 h1
      have e1 := State.kTake_frame _ _ _ _ _ _ h1 0x440000#48 (by decide)
      split at h <;> rename_i h2 <;> simp at h
      have e2 := ih _ _ h2
      rw [← h.2, e2, ← e1]
      split <;> simp

theorem State.kAdmit_frame (s : State) (env : Env) (p : PartId) (ds : List KData) {i : List Nat} {t : State} (h : s.kAdmit env p ds = some (i, t)) (bm : BitVec 48) (hm : 0x440000#48 &&& ~~~ bm = 0) : blank bm t = blank bm s := by
  refine blank_mono hm ?_; clear hm bm
  unfold State.kAdmit at h
  split at h
  · exact State.kTakeAll_frame _ _ _ _ _ _ h _ (by decide)
  · cases h

@[simp] theorem State.setRay_frame (s : State) (i : ℕ) (r : Ray) (bm : BitVec 48) (hm : 0x400000#48 &&& ~~~ bm = 0) : blank bm (State.setRay s i r) = blank bm s := by
  refine blank_mono hm ?_; clear hm bm
  simp only [State.setRay]; (repeat' split) <;> simp

@[simp] theorem State.updRay_frame (s : State) (i : ℕ) (f : Ray → Ray) (bm : BitVec 48) (hm : 0x400000#48 &&& ~~~ bm = 0) : blank bm (State.updRay s i f) = blank bm s := by
  refine blank_mono hm ?_; clear hm bm
  simp only [State.updRay]; (repeat' split) <;> simp

@[simp] theorem State.updLeash_frame (s : State) (i : ℕ) (f : Leash → Leash) (bm : BitVec 48) (hm : 0x400000#48 &&& ~~~ bm = 0) : blank bm (State.updLeash s i f) = blank bm s := by
  refine blank_mono hm ?_; clear hm bm
  simp only [State.updLeash]; (repeat' split) <;> simp

@[simp] theorem State.kFreeAll_frame (s : State) (l : List ℕ) (bm : BitVec 48) (hm : 0x400000#48 &&& ~~~ bm = 0) : blank bm (State.kFreeAll s l) = blank bm s := by
  refine blank_mono hm ?_; clear hm bm
  simp [State.kFreeAll]

@[simp] theorem State.updBundle_frame (s : State) (h : ℕ) (f : Bundle → Bundle) (bm : BitVec 48) (hm : 0x20000000#48 &&& ~~~ bm = 0) : blank bm (State.updBundle s h f) = blank bm s := by
  refine blank_mono hm ?_; clear hm bm
  simp [State.updBundle]

@[simp] theorem State.setCore_frame (s : State) (c : CoreId) (x : Core) (bm : BitVec 48) (hm : 0x40000000#48 &&& ~~~ bm = 0) : blank bm (State.setCore s c x) = blank bm s := by
  refine blank_mono hm ?_; clear hm bm
  simp [State.setCore]

@[simp] theorem State.setGroup_frame (s : State) (g : GroupRef) (x : Option Group) (bm : BitVec 48) (hm : 0x40000000#48 &&& ~~~ bm = 0) : blank bm (State.setGroup s g x) = blank bm s := by
  refine blank_mono hm ?_; clear hm bm
  simp [State.setGroup]

@[simp] theorem State.updGroup_frame (s : State) (g : GroupRef) (f : Group → Group) (bm : BitVec 48) (hm : 0x40000000#48 &&& ~~~ bm = 0) : blank bm (State.updGroup s g f) = blank bm s := by
  refine blank_mono hm ?_; clear hm bm
  simp only [State.updGroup]; (repeat' split) <;> simp

@[simp] theorem State.updGroupBy_frame (s : State) (block : ℕ) (inBlock : ℕ) (f : Machine.Group → Machine.Group) (bm : BitVec 48) (hm : 0x40000000#48 &&& ~~~ bm = 0) : blank bm (State.updGroupBy s block inBlock f) = blank bm s := by
  refine blank_mono hm ?_; clear hm bm
  first | (simp [State.updGroupBy]; done) | (simp only [State.updGroupBy]; (repeat' split) <;> simp; done) | (simp only [State.updGroupBy]; (repeat' split) <;> simp [blank]; done)

@[simp] theorem State.noteWrite_frame (s : State) (w : WriteFor) (p : PartId) (l : List (ℕ × ℕ)) (bm : BitVec 48) (hm : 0x10080000#48 &&& ~~~ bm = 0) : blank bm (State.noteWrite s w p l) = blank bm s := by
  refine blank_mono hm ?_; clear hm bm
  simp only [State.noteWrite]; (repeat' split) <;> simp

@[simp] theorem State.poke_frame (s : State) (pa : ℕ) (bs : List Byte) (bm : BitVec 48) (hm : 0x200000#48 &&& ~~~ bm = 0) : blank bm (State.poke s pa bs) = blank bm s := by
  refine blank_mono hm ?_; clear hm bm
  simp [State.poke]

/-! ## Mmu -/

@[simp] theorem State.forgetWalk_frame (s : State) (p : PartId) (va : ℕ) (bm : BitVec 48) (hm : 0x800000000#48 &&& ~~~ bm = 0) : blank bm (State.forgetWalk s p va) = blank bm s := by
  refine blank_mono hm ?_; clear hm bm
  first | (simp [State.forgetWalk]; done) | (simp only [State.forgetWalk]; (repeat' split) <;> simp; done) | (simp only [State.forgetWalk]; (repeat' split) <;> simp [blank]; done)

theorem State.vwriteAs_frame {s : State} {k : AccKind} {p : PartId} {va : Nat} {bs : List Byte} {t : State} (h : s.vwriteAs k p va bs = .ok t) (bm : BitVec 48) (hm : 0x200000#48 &&& ~~~ bm = 0) : blank bm t = blank bm s := by
  refine blank_mono hm ?_; clear hm bm
  unfold State.vwriteAs at h
  split at h
  · cases h
  · cases h; simp

theorem State.vwrite_frame {s : State} {p : PartId} {va : Nat} {bs : List Byte} {t : State} (h : s.vwrite p va bs = .ok t) (bm : BitVec 48) (hm : 0x200000#48 &&& ~~~ bm = 0) : blank bm t = blank bm s := by
  refine blank_mono hm ?_; clear hm bm
  exact State.vwriteAs_frame h _ (by decide)

@[simp] theorem State.trapWritten_frame (s : State) (p : PartId) (bm : BitVec 48) (hm : 0x40008#48 &&& ~~~ bm = 0) : blank bm (State.trapWritten s p) = blank bm s := by
  refine blank_mono hm ?_; clear hm bm
  first | (simp [State.trapWritten]; done) | (simp only [State.trapWritten]; (repeat' split) <;> simp; done) | (simp only [State.trapWritten]; (repeat' split) <;> simp [blank]; done)

theorem State.fqOne_frame {s : State} {p : PartId} {r : Slot64} {t : State} (h : s.fqOne p r = some t) (bm : BitVec 48) (hm : 0x240008#48 &&& ~~~ bm = 0) : blank bm t = blank bm s := by
  refine blank_mono hm ?_; clear hm bm
  simp only [State.fqOne] at h
  split at h
  · cases h
  · split at h
    · cases h
    · rename_i h1
      cases h
      simp [State.vwrite_frame h1]

@[simp] theorem State.fqPush_frame (s : State) (p : PartId) (x2 : List Slot64) (bm : BitVec 48) (hm : 0x240008#48 &&& ~~~ bm = 0) : blank bm (State.fqPush s p x2) = blank bm s := by
  refine blank_mono hm ?_; clear hm bm
  induction x2 generalizing s with
  | nil => simp [State.fqPush]
  | cons r rest ih =>
    simp only [State.fqPush]
    split
    · rename_i h; simp [ih, State.fqOne_frame h]
    · simp

@[simp] theorem State.fqRetry_frame (s : State) (p : PartId) (bm : BitVec 48) (hm : 0x240008#48 &&& ~~~ bm = 0) : blank bm (State.fqRetry s p) = blank bm s := by
  refine blank_mono hm ?_; clear hm bm
  simp [State.fqRetry]

@[simp] theorem State.fqPost_frame (s : State) (p : PartId) (notice : Bool) (r : Slot64) (bm : BitVec 48) (hm : 0x240008#48 &&& ~~~ bm = 0) : blank bm (State.fqPost s p notice r) = blank bm s := by
  refine blank_mono hm ?_; clear hm bm
  simp [State.fqPost]

@[simp] theorem State.notice_frame (s : State) (p : PartId) (x : Xfault) (c : FaultCtx) (bm : BitVec 48) (hm : 0x240008#48 &&& ~~~ bm = 0) : blank bm (State.notice s p x c) = blank bm s := by
  refine blank_mono hm ?_; clear hm bm
  simp [State.notice]

@[simp] theorem State.traceDrop_frame (s : State) (bm : BitVec 48) (hm : 0x4000000000#48 &&& ~~~ bm = 0) : blank bm (State.traceDrop s) = blank bm s := by
  refine blank_mono hm ?_; clear hm bm
  simp [State.traceDrop]

@[simp] theorem State.record_frame (s : State) (r : TraceRec) (bm : BitVec 48) (hm : 0x4000240008#48 &&& ~~~ bm = 0) : blank bm (State.record s r) = blank bm s := by
  refine blank_mono hm ?_; clear hm bm
  unfold State.record
  simp only []
  (repeat' split) <;> (try simp)
  rename_i h
  simp [State.vwrite_frame h]

@[simp] theorem State.fire_frame (s : State) (tm : Timer) (t : ℕ) (bm : BitVec 48) (hm : 0x600024000C#48 &&& ~~~ bm = 0) : blank bm (State.fire s tm t) = blank bm s := by
  refine blank_mono hm ?_; clear hm bm
  simp [State.fire]

@[simp] theorem State.steepWord_frame (s : State) (env : Env) (tm : Timer) (bm : BitVec 48) (hm : 0x1000000010E#48 &&& ~~~ bm = 0) : blank bm (State.steepWord s env tm) = blank bm s := by
  refine blank_mono hm ?_; clear hm bm
  first | (simp [State.steepWord]; done) | (simp only [State.steepWord]; (repeat' split) <;> simp; done) | (simp only [State.steepWord]; (repeat' split) <;> simp [blank]; done)

@[simp] theorem State.park_frame (s : State) (w : Parked) (bm : BitVec 48) (hm : 0x70480000#48 &&& ~~~ bm = 0) : blank bm (State.park s w) = blank bm s := by
  refine blank_mono hm ?_; clear hm bm
  simp only [State.park]; (repeat' split) <;> simp

@[simp] theorem State.tracePark_frame (s : State) (p : PartId) (c : FaultCtx) (va : ℕ) (w : Parked) (bm : BitVec 48) (hm : 0x4000240008#48 &&& ~~~ bm = 0) : blank bm (State.tracePark s p c va w) = blank bm s := by
  refine blank_mono hm ?_; clear hm bm
  simp [State.tracePark]

@[simp] theorem State.traceReplay_frame (s : State) (p : PartId) (c : FaultCtx) (va : ℕ) (w : Parked) (bm : BitVec 48) (hm : 0x4000240008#48 &&& ~~~ bm = 0) : blank bm (State.traceReplay s p c va w) = blank bm s := by
  refine blank_mono hm ?_; clear hm bm
  first | (simp [State.traceReplay]; done) | (simp only [State.traceReplay]; (repeat' split) <;> simp; done) | (simp only [State.traceReplay]; (repeat' split) <;> simp [blank]; done)

@[simp] theorem State.openFault_frame (s : State) (env : Env) (p : PartId) (kind : ℕ) (x : Xfault) (owner : ChipId) (c : FaultCtx) (w : Parked) (bm : BitVec 48) (hm : 0x1000240008#48 &&& ~~~ bm = 0) : blank bm (State.openFault s env p kind x owner c w) = blank bm s := by
  refine blank_mono hm ?_; clear hm bm
  simp [State.openFault]

@[simp] theorem State.fault_frame (s : State) (env : Env) (p : PartId) (kind : ℕ) (x : Xfault) (owner : ChipId) (c : FaultCtx) (w : Parked) (bm : BitVec 48) (hm : 0x50706C0008#48 &&& ~~~ bm = 0) : blank bm (State.fault s env p kind x owner c w) = blank bm s := by
  refine blank_mono hm ?_; clear hm bm
  simp [State.fault]

@[simp] theorem State.faultAlso_frame (s : State) (p : PartId) (x : Xfault) (c : FaultCtx) (w : Parked) (bm : BitVec 48) (hm : 0x50706C0008#48 &&& ~~~ bm = 0) : blank bm (State.faultAlso s p x c w) = blank bm s := by
  refine blank_mono hm ?_; clear hm bm
  first | (simp [State.faultAlso]; done) | (simp only [State.faultAlso]; (repeat' split) <;> simp; done) | (simp only [State.faultAlso]; (repeat' split) <;> simp [blank]; done)

/-! ## Work -/

@[simp] theorem State.grantPorts_frame (s : State) (bm : BitVec 48) (hm : 0x10000000#48 &&& ~~~ bm = 0) : blank bm (State.grantPorts s) = blank bm s := by
  refine blank_mono hm ?_; clear hm bm
  first | (simp [State.grantPorts]; done) | (simp only [State.grantPorts]; (repeat' split) <;> simp; done) | (simp only [State.grantPorts]; (repeat' split) <;> simp [blank]; done)

@[simp] theorem State.useCredit_frame (s : State) (o : PortId) (n : Net) (k : ℕ) (bm : BitVec 48) (hm : 0x10000000#48 &&& ~~~ bm = 0) : blank bm (State.useCredit s o n k) = blank bm s := by
  refine blank_mono hm ?_; clear hm bm
  first | (simp [State.useCredit]; done) | (simp only [State.useCredit]; (repeat' split) <;> simp; done) | (simp only [State.useCredit]; (repeat' split) <;> simp [blank]; done)

@[simp] theorem blank_csrparts (x : State) (v1 : Bool) (v2 : Vector Part 16) (bm : BitVec 48) (hm : 0x42000#48 &&& ~~~ bm = 0) : blank bm { x with csr := { x.csr with hold := v1 }, parts := v2 } = blank bm x := by
  refine blank_mono hm ?_; clear hm bm; simp [blank]

@[simp] theorem State.finish_frame (s : State) (r : CmdRef) (st : W16) (bm : BitVec 48) (hm : 0x80000#48 &&& ~~~ bm = 0) : blank bm (State.finish s r st) = blank bm s := by
  refine blank_mono hm ?_; clear hm bm
  simp [State.finish]

@[simp] theorem State.finishOk_frame (s : State) (r : CmdRef) (bm : BitVec 48) (hm : 0x80000#48 &&& ~~~ bm = 0) : blank bm (State.finishOk s r) = blank bm s := by
  refine blank_mono hm ?_; clear hm bm
  simp [State.finishOk]

@[simp] theorem State.itemsDone_frame (s : State) (r : CmdRef) (n : ℕ) (bad : Bool) (bm : BitVec 48) (hm : 0x80000#48 &&& ~~~ bm = 0) : blank bm (State.itemsDone s r n bad) = blank bm s := by
  refine blank_mono hm ?_; clear hm bm
  simp [State.itemsDone]

@[simp] theorem State.cutIntake_frame (s : State) (r : CmdRef) (st : W16) (bm : BitVec 48) (hm : 0x80000#48 &&& ~~~ bm = 0) : blank bm (State.cutIntake s r st) = blank bm s := by
  refine blank_mono hm ?_; clear hm bm
  simp [State.cutIntake]

@[simp] theorem State.failCmd_frame (s : State) (r : CmdRef) (st : W16) (bm : BitVec 48) (hm : 0x80000#48 &&& ~~~ bm = 0) : blank bm (State.failCmd s r st) = blank bm s := by
  refine blank_mono hm ?_; clear hm bm
  simp [State.failCmd]

@[simp] theorem State.clampEntry_frame (s : State) (field : ℕ) (kind : ℕ) (source : ℕ) (part : ℕ) (given : ℕ) (applied : ℕ) (bm : BitVec 48) (hm : 0x220000#48 &&& ~~~ bm = 0) : blank bm (State.clampEntry s field kind source part given applied) = blank bm s := by
  refine blank_mono hm ?_; clear hm bm
  simp only [State.clampEntry]; (repeat' split) <;> (try simp) <;> simp [blank]

@[simp] theorem State.traceUnpin_frame (s t : State) (bm : BitVec 48) (hm : 0x4000240008#48 &&& ~~~ bm = 0) : blank bm (State.traceUnpin s t) = blank bm t := by
  unfold State.traceUnpin
  exact foldl_frame _ _ (fun x c => State.doIf_frame _ _ _ _ (fun y => State.record_frame y _ _ hm)) _ _

@[simp] theorem State.applyEngine_frame (s : State) (p : PartId) (e : ℕ) (bm : BitVec 48) (hm : 0x40000#48 &&& ~~~ bm = 0) : blank bm (State.applyEngine s p e) = blank bm s := by
  refine blank_mono hm ?_; clear hm bm
  simp [State.applyEngine]

@[simp] theorem State.applyPart_frame (s : State) (p : PartId) (bm : BitVec 48) (hm : 0x260000#48 &&& ~~~ bm = 0) : blank bm (State.applyPart s p) = blank bm s := by
  refine blank_mono hm ?_; clear hm bm
  simp [State.applyPart]

@[simp] theorem State.applyFrame_frame (s : State) (p : PartId) (bm : BitVec 48) (hm : 0x40000#48 &&& ~~~ bm = 0) : blank bm (State.applyFrame s p) = blank bm s := by
  refine blank_mono hm ?_; clear hm bm
  simp [State.applyFrame]

@[simp] theorem State.applyBlock_frame (s : State) (bm : BitVec 48) (hm : 0xD000000#48 &&& ~~~ bm = 0) : blank bm (State.applyBlock s) = blank bm s := by
  refine blank_mono hm ?_; clear hm bm
  simp only [State.applyBlock]; (repeat' split) <;> (try simp) <;> simp [blank]

@[simp] theorem State.applyEpoch_frame (s : State) (bm : BitVec 48) (hm : 0x400220000#48 &&& ~~~ bm = 0) : blank bm (State.applyEpoch s) = blank bm s := by
  refine blank_mono hm ?_; clear hm bm
  simp only [State.applyEpoch]; (repeat' split) <;> (try simp) <;> simp [blank]

@[simp] theorem State.recheckHost_frame (s : State) (bm : BitVec 48) (hm : 0x400220000#48 &&& ~~~ bm = 0) : blank bm (State.recheckHost s) = blank bm s := by
  refine blank_mono hm ?_; clear hm bm
  simp [State.recheckHost]

@[simp] theorem State.applyAll_frame (s : State) (bm : BitVec 48) (hm : 0x40D262000#48 &&& ~~~ bm = 0) : blank bm (State.applyAll s) = blank bm s := by
  refine blank_mono hm ?_; clear hm bm
  simp only [State.applyAll, blank_csrparts, State.applyEpoch_frame, State.applyBlock_frame, foldl_frame, State.applyPart_frame, State.applyFrame_frame]; simp

@[simp] theorem State.cachesClean_frame (s : State) (p : PartId) (bm : BitVec 48) (hm : 0x42000000#48 &&& ~~~ bm = 0) : blank bm (State.cachesClean s p) = blank bm s := by
  refine blank_mono hm ?_; clear hm bm
  first | (simp [State.cachesClean]; done) | (simp only [State.cachesClean]; (repeat' split) <;> simp; done) | (simp only [State.cachesClean]; (repeat' split) <;> simp [blank]; done)

@[simp] theorem State.stall_frame (s : State) (code : BitVec 4) (detail : W32) (bm : BitVec 48) (hm : 0x208#48 &&& ~~~ bm = 0) : blank bm (State.stall s code detail) = blank bm s := by
  refine blank_mono hm ?_; clear hm bm
  simp only [State.stall]; (repeat' split) <;> (try simp) <;> simp [blank]

@[simp] theorem State.setBp_frame (s : State) (n : BitVec 14) (bm : BitVec 48) (hm : 0x200#48 &&& ~~~ bm = 0) : blank bm (State.setBp s n) = blank bm s := by
  refine blank_mono hm ?_; clear hm bm
  first | (simp [State.setBp]; done) | (simp only [State.setBp]; (repeat' split) <;> simp; done) | (simp only [State.setBp]; (repeat' split) <;> simp [blank]; done)

@[simp] theorem State.bootStep_frame (s : State) (n : BitVec 4) (bm : BitVec 48) (hm : 0x200#48 &&& ~~~ bm = 0) : blank bm (State.bootStep s n) = blank bm s := by
  refine blank_mono hm ?_; clear hm bm
  simp only [State.bootStep]; (repeat' split) <;> (try simp) <;> simp [blank]

/-! ## Herd -/

@[simp] theorem blank_th (x : State) (v1 : Vector Tu 128) (v2 : Herd) (bm : BitVec 48) (hm : 0x3000000#48 &&& ~~~ bm = 0) : blank bm { x with arr := { x.arr with tus := v1 }, herd := v2 } = blank bm x := by
  refine blank_mono hm ?_; clear hm bm; simp [blank]

@[simp] theorem State.setEntry_frame (s : State) (e : MatchEntry) (bm : BitVec 48) (hm : 0x1000000#48 &&& ~~~ bm = 0) : blank bm (State.setEntry s e) = blank bm s := by
  refine blank_mono hm ?_; clear hm bm
  simp [State.setEntry]

@[simp] theorem State.armPack_frame (s : State) (p : PartId) (line : ℕ) (bm : BitVec 48) (hm : 0x2000000000#48 &&& ~~~ bm = 0) : blank bm (State.armPack s p line) = blank bm s := by
  refine blank_mono hm ?_; clear hm bm
  simp only [State.armPack]; (repeat' split) <;> simp

@[simp] theorem State.handBack_frame (s : State) (r : Fin 8) (bm : BitVec 48) (hm : 0x6000000#48 &&& ~~~ bm = 0) : blank bm (State.handBack s r) = blank bm s := by
  refine blank_mono hm ?_; clear hm bm
  first | (simp [State.handBack]; done) | (simp only [State.handBack]; (repeat' split) <;> simp; done) | (simp only [State.handBack]; (repeat' split) <;> simp [blank]; done)

@[simp] theorem State.handBacks_frame (s : State) (bm : BitVec 48) (hm : 0x6000000#48 &&& ~~~ bm = 0) : blank bm (State.handBacks s) = blank bm s := by
  refine blank_mono hm ?_; clear hm bm
  first | (simp [State.handBacks]; done) | (simp only [State.handBacks]; (repeat' split) <;> simp; done) | (simp only [State.handBacks]; (repeat' split) <;> simp [blank]; done)

@[simp] theorem State.l0Read_frame (s : State) (tu : TuId) (p : PartId) (line : ℕ) (bm : BitVec 48) (hm : 0x2000000#48 &&& ~~~ bm = 0) : blank bm (State.l0Read s tu p line) = blank bm s := by
  refine blank_mono hm ?_; clear hm bm
  first | (simp [State.l0Read]; done) | (simp only [State.l0Read]; (repeat' split) <;> simp; done) | (simp only [State.l0Read]; (repeat' split) <;> simp [blank]; done)

@[simp] theorem State.enterAs_frame (s : State) (i : HItem) (p : PartId) (line : ℕ) (since : Option ℕ) (bm : BitVec 48) (hm : 0x2001000000#48 &&& ~~~ bm = 0) : blank bm (State.enterAs s i p line since) = blank bm s := by
  refine blank_mono hm ?_; clear hm bm
  simp only [State.enterAs]; (repeat' split) <;> simp

@[simp] theorem State.enterSince_frame (s : State) (i : HItem) (p : PartId) (line : ℕ) (since : ℕ) (bm : BitVec 48) (hm : 0x2001400000#48 &&& ~~~ bm = 0) : blank bm (State.enterSince s i p line since) = blank bm s := by
  refine blank_mono hm ?_; clear hm bm
  first | (simp [State.enterSince]; done) | (simp only [State.enterSince]; (repeat' split) <;> simp; done) | (simp only [State.enterSince]; (repeat' split) <;> simp [blank]; done)

@[simp] theorem State.enter_frame (s : State) (i : HItem) (p : PartId) (line : ℕ) (bm : BitVec 48) (hm : 0x2001400000#48 &&& ~~~ bm = 0) : blank bm (State.enter s i p line) = blank bm s := by
  refine blank_mono hm ?_; clear hm bm
  simp only [State.enter]; (repeat' split) <;> simp

@[simp] theorem State.herdDrop_frame (s : State) (f : HItem → Bool) (bm : BitVec 48) (hm : 0x2007000000#48 &&& ~~~ bm = 0) : blank bm (State.herdDrop s f) = blank bm s := by
  refine blank_mono hm ?_; clear hm bm
  simp only [State.herdDrop]; (repeat' split) <;> (try simp) <;> simp [blank]

@[simp] theorem State.unpack_frame (s : State) (k : Pack) (bm : BitVec 48) (hm : 0x2001000000#48 &&& ~~~ bm = 0) : blank bm (State.unpack s k) = blank bm s := by
  refine blank_mono hm ?_; clear hm bm
  simp [State.unpack]

@[simp] theorem State.countIssue_frame (s : State) (p : PartId) (op : ℕ) (bm : BitVec 48) (hm : 0x1000000#48 &&& ~~~ bm = 0) : blank bm (State.countIssue s p op) = blank bm s := by
  refine blank_mono hm ?_; clear hm bm
  simp [State.countIssue]

@[simp] theorem State.issue_frame (s : State) (k : Pack) (n : TuId) (why : ℕ) (reason : ℕ) (starve : Bool) (bm : BitVec 48) (hm : 0x6003240008#48 &&& ~~~ bm = 0) : blank bm (State.issue s k n why reason starve) = blank bm s := by
  refine blank_mono hm ?_; clear hm bm
  simp only [State.issue]
  simp only [State.record_frame, State.doIf_frame, State.countIssue_frame, BitVec.reduceAnd, BitVec.reduceNot, BitVec.reduceEq]
  (repeat' split) <;> simp

/-! ## Link -/

@[simp] theorem State.setSess_frame (s : State) (l : LinkId) (x : Session) (bm : BitVec 48) (hm : 0x200000000#48 &&& ~~~ bm = 0) : blank bm (State.setSess s l x) = blank bm s := by
  refine blank_mono hm ?_; clear hm bm
  simp [State.setSess]

@[simp] theorem State.updSess_frame (s : State) (l : LinkId) (f : Session → Session) (bm : BitVec 48) (hm : 0x200000000#48 &&& ~~~ bm = 0) : blank bm (State.updSess s l f) = blank bm s := by
  refine blank_mono hm ?_; clear hm bm
  simp [State.updSess]

@[simp] theorem State.emit_frame (s : State) (l : LinkId) (h : MsgHdr) (b : MsgBody) (bm : BitVec 48) (hm : 0x2000000040#48 &&& ~~~ bm = 0) : blank bm (State.emit s l h b) = blank bm s := by
  refine blank_mono hm ?_; clear hm bm
  simp [State.emit]

@[simp] theorem State.sendNow_frame (s : State) (l : LinkId) (h : MsgHdr) (b : MsgBody) (bm : BitVec 48) (hm : 0x2200000040#48 &&& ~~~ bm = 0) : blank bm (State.sendNow s l h b) = blank bm s := by
  refine blank_mono hm ?_; clear hm bm
  simp [State.sendNow]

@[simp] theorem State.send_frame (s : State) (l : LinkId) (h : MsgHdr) (b : MsgBody) (bm : BitVec 48) (hm : 0x2600000040#48 &&& ~~~ bm = 0) : blank bm (State.send s l h b) = blank bm s := by
  refine blank_mono hm ?_; clear hm bm
  simp [State.send]

@[simp] theorem State.sendAll_frame (s : State) (x1 : List (LinkId × MsgHdr × MsgBody)) (bm : BitVec 48) (hm : 0x2600000040#48 &&& ~~~ bm = 0) : blank bm (State.sendAll s x1) = blank bm s := by
  refine blank_mono hm ?_; clear hm bm
  induction x1 generalizing s with
  | nil => simp [State.sendAll]
  | cons a r ih => obtain ⟨l, h, b⟩ := a; simp [State.sendAll, ih]

@[simp] theorem State.sendWaiting_frame (s : State) (l : LinkId) (bm : BitVec 48) (hm : 0x2600000040#48 &&& ~~~ bm = 0) : blank bm (State.sendWaiting s l) = blank bm s := by
  refine blank_mono hm ?_; clear hm bm
  simp [State.sendWaiting]

/-! ## Session -/

@[simp] theorem State.payBack_frame (s : State) (l : LinkId) (bm : BitVec 48) (hm : 0x2200000040#48 &&& ~~~ bm = 0) : blank bm (State.payBack s l) = blank bm s := by
  refine blank_mono hm ?_; clear hm bm
  simp [State.payBack]

@[simp] theorem State.owe_frame (s : State) (l : LinkId) (c : Credits) (bm : BitVec 48) (hm : 0x2200000040#48 &&& ~~~ bm = 0) : blank bm (State.owe s l c) = blank bm s := by
  refine blank_mono hm ?_; clear hm bm
  simp [State.owe]

@[simp] theorem State.sendState_frame (s : State) (l : LinkId) (bm : BitVec 48) (hm : 0x2000000040#48 &&& ~~~ bm = 0) : blank bm (State.sendState s l) = blank bm s := by
  refine blank_mono hm ?_; clear hm bm
  simp [State.sendState]

@[simp] theorem State.enterSess_frame (s : State) (l : LinkId) (st : BitVec 3) (bm : BitVec 48) (hm : 0x2200000040#48 &&& ~~~ bm = 0) : blank bm (State.enterSess s l st) = blank bm s := by
  refine blank_mono hm ?_; clear hm bm
  simp [State.enterSess]

@[simp] theorem State.quietLink_frame (s : State) (l : LinkId) (bm : BitVec 48) (hm : 0x2000000000#48 &&& ~~~ bm = 0) : blank bm (State.quietLink s l) = blank bm s := by
  refine blank_mono hm ?_; clear hm bm
  simp [State.quietLink]

@[simp] theorem State.dropWaiting_frame (s : State) (l : LinkId) (bm : BitVec 48) (hm : 0x400000000#48 &&& ~~~ bm = 0) : blank bm (State.dropWaiting s l) = blank bm s := by
  refine blank_mono hm ?_; clear hm bm
  simp [State.dropWaiting, blank]

@[simp] theorem State.listen_frame (s : State) (l : LinkId) (bm : BitVec 48) (hm : 0x2600000040#48 &&& ~~~ bm = 0) : blank bm (State.listen s l) = blank bm s := by
  refine blank_mono hm ?_; clear hm bm
  simp [State.listen]

@[simp] theorem State.downSess_frame (s : State) (l : LinkId) (reason : BitVec 4) (bm : BitVec 48) (hm : 0x2600000000#48 &&& ~~~ bm = 0) : blank bm (State.downSess s l reason) = blank bm s := by
  refine blank_mono hm ?_; clear hm bm
  simp [State.downSess]

@[simp] theorem State.endCmds_frame (s : State) (l : LinkId) (drain : Bool) (st : W16) (bm : BitVec 48) (hm : 0x400080000#48 &&& ~~~ bm = 0) : blank bm (State.endCmds s l drain st) = blank bm s := by
  refine blank_mono hm ?_; clear hm bm
  simp [State.endCmds]

@[simp] theorem State.boot9_frame (s : State) (bm : BitVec 48) (hm : 0x200#48 &&& ~~~ bm = 0) : blank bm (State.boot9 s) = blank bm s := by
  refine blank_mono hm ?_; clear hm bm
  simp only [State.boot9]; (repeat' split) <;> (try simp) <;> simp [blank]

@[simp] theorem State.ringFailed_frame (s : State) (l : LinkId) (bm : BitVec 48) (hm : 0x200000020A#48 &&& ~~~ bm = 0) : blank bm (State.ringFailed s l) = blank bm s := by
  refine blank_mono hm ?_; clear hm bm
  simp only [State.ringFailed]; (repeat' split) <;> (try simp) <;> simp [blank]

@[simp] theorem State.ringDowns_frame (s : State) (bm : BitVec 48) (hm : 0x200000020A#48 &&& ~~~ bm = 0) : blank bm (State.ringDowns s) = blank bm s := by
  refine blank_mono hm ?_; clear hm bm
  unfold State.ringDowns
  exact foldl_frame _ _ (fun x l => State.doIf_frame _ _ _ _ (fun y => State.ringFailed_frame y _ _ (by decide))) _ _

@[simp] theorem State.failSess_frame (s : State) (l : LinkId) (reason : BitVec 4) (bm : BitVec 48) (hm : 0x260008020A#48 &&& ~~~ bm = 0) : blank bm (State.failSess s l reason) = blank bm s := by
  refine blank_mono hm ?_; clear hm bm
  simp [State.failSess]

@[simp] theorem State.openSess_frame (s : State) (l : LinkId) (peer : Option ChipId) (bm : BitVec 48) (hm : 0x2600000040#48 &&& ~~~ bm = 0) : blank bm (State.openSess s l peer) = blank bm s := by
  refine blank_mono hm ?_; clear hm bm
  simp [State.openSess]

@[simp] theorem State.endDrain_frame (s : State) (l : LinkId) (reason : BitVec 4) (bm : BitVec 48) (hm : 0x2600080240#48 &&& ~~~ bm = 0) : blank bm (State.endDrain s l reason) = blank bm s := by
  refine blank_mono hm ?_; clear hm bm
  simp [State.endDrain]

@[simp] theorem State.drainCheck_frame (s : State) (l : LinkId) (bm : BitVec 48) (hm : 0x2600080240#48 &&& ~~~ bm = 0) : blank bm (State.drainCheck s l) = blank bm s := by
  refine blank_mono hm ?_; clear hm bm
  simp [State.drainCheck]

@[simp] theorem State.drainAll_frame (s : State) (bm : BitVec 48) (hm : 0x2600080240#48 &&& ~~~ bm = 0) : blank bm (State.drainAll s) = blank bm s := by
  refine blank_mono hm ?_; clear hm bm
  first | (simp [State.drainAll]; done) | (simp only [State.drainAll]; (repeat' split) <;> simp; done) | (simp only [State.drainAll]; (repeat' split) <;> simp [blank]; done)

@[simp] theorem State.startDrain_frame (s : State) (l : LinkId) (bm : BitVec 48) (hm : 0x2600080248#48 &&& ~~~ bm = 0) : blank bm (State.startDrain s l) = blank bm s := by
  refine blank_mono hm ?_; clear hm bm
  simp [State.startDrain]

@[simp] theorem State.upSess_frame (s : State) (l : LinkId) (c : Credits) (bm : BitVec 48) (hm : 0x2600080248#48 &&& ~~~ bm = 0) : blank bm (State.upSess s l c) = blank bm s := by
  refine blank_mono hm ?_; clear hm bm
  simp [State.upSess]

@[simp] theorem State.heard_frame (s : State) (l : LinkId) (bm : BitVec 48) (hm : 0x2000000000#48 &&& ~~~ bm = 0) : blank bm (State.heard s l) = blank bm s := by
  refine blank_mono hm ?_; clear hm bm
  simp [State.heard]

@[simp] theorem State.epochSeen_frame (s : State) (lo : Byte) (bm : BitVec 48) (hm : 0x100000008#48 &&& ~~~ bm = 0) : blank bm (State.epochSeen s lo) = blank bm s := by
  refine blank_mono hm ?_; clear hm bm
  simp [State.epochSeen]

@[simp] theorem State.step9Open_frame (s : State) (bm : BitVec 48) (hm : 0x260000024A#48 &&& ~~~ bm = 0) : blank bm (State.step9Open s) = blank bm s := by
  refine blank_mono hm ?_; clear hm bm
  simp [State.step9Open]

/-! ## Foreign -/

@[simp] theorem blank_dropF (x : State) (v1 : Strain) (v2 : Vector Tu 128) (v3 : Herd) (v4 : List Foreign) (bm : BitVec 48) (hm : 0x423000000#48 &&& ~~~ bm = 0) : blank bm { x with strain := v1, arr := { x.arr with tus := v2 }, herd := v3, fwd := { x.fwd with foreign := v4 } } = blank bm x := by
  refine blank_mono hm ?_; clear hm bm; simp [blank]

@[simp] theorem State.mapGroups_frame (s : State) (f : Group → Group) (bm : BitVec 48) (hm : 0x40000000#48 &&& ~~~ bm = 0) : blank bm (State.mapGroups s f) = blank bm s := by
  refine blank_mono hm ?_; clear hm bm
  simp [State.mapGroups]

@[simp] theorem State.dropForeign_frame (s : State) (f : Foreign) (bm : BitVec 48) (hm : 0x66676C0248#48 &&& ~~~ bm = 0) : blank bm (State.dropForeign s f) = blank bm s := by
  refine blank_mono hm ?_; clear hm bm
  simp only [State.dropForeign]
  simp

@[simp] theorem State.sendResult_frame (s : State) (f : Foreign) (b : MsgBody) (bm : BitVec 48) (hm : 0x2600000040#48 &&& ~~~ bm = 0) : blank bm (State.sendResult s f b) = blank bm s := by
  refine blank_mono hm ?_; clear hm bm
  simp [State.sendResult]

@[simp] theorem State.failForeign_frame (s : State) (f : Foreign) (result : ℕ) (va : ℕ) (bm : BitVec 48) (hm : 0x66676C0248#48 &&& ~~~ bm = 0) : blank bm (State.failForeign s f result va) = blank bm s := by
  refine blank_mono hm ?_; clear hm bm
  simp [State.failForeign]

@[simp] theorem State.abortForeign_frame (s : State) (bm : BitVec 48) (hm : 0x66676C0248#48 &&& ~~~ bm = 0) : blank bm (State.abortForeign s) = blank bm s := by
  refine blank_mono hm ?_; clear hm bm
  simp [State.abortForeign]

@[simp] theorem State.partitionError_frame (s : State) (p : PartId) (reason : BitVec 2) (bm : BitVec 48) (hm : 0x166676C0248#48 &&& ~~~ bm = 0) : blank bm (State.partitionError s p reason) = blank bm s := by
  refine blank_mono hm ?_; clear hm bm
  simp [State.partitionError]

/-! ## Fetch -/

@[simp] theorem State.resident_frame (s : State) (p : PartId) (va : Nat) (c : FaultCtx) (bm : BitVec 48) (hm : 0x240008#48 &&& ~~~ bm = 0) : blank bm (s.resident p va c).2 = blank bm s := by
  refine blank_mono hm ?_; clear hm bm
  simp only [State.resident]; (repeat' split) <;> simp

@[simp] theorem State.faultForeign_frame (s : State) (f : Foreign) (p : PartId) (x : Xfault) (c : FaultCtx) (bm : BitVec 48) (hm : 0x66676C0248#48 &&& ~~~ bm = 0) : blank bm (State.faultForeign s f p x c) = blank bm s := by
  refine blank_mono hm ?_; clear hm bm
  simp [State.faultForeign]

@[simp] theorem State.keepSince_frame (s : State) (line : ℕ) (w : HWait) (bm : BitVec 48) (hm : 0x20400000#48 &&& ~~~ bm = 0) : blank bm (State.keepSince s line w) = blank bm s := by
  refine blank_mono hm ?_; clear hm bm
  first | (simp [State.keepSince]; done) | (simp only [State.keepSince]; (repeat' split) <;> simp; done) | (simp only [State.keepSince]; (repeat' split) <;> simp [blank]; done)

@[simp] theorem State.parkItem_frame (s : State) (env : Env) (p : PartId) (x : Xfault) (w : HWait) (unit : ℕ) (also : Bool) (bm : BitVec 48) (hm : 0x76776C0248#48 &&& ~~~ bm = 0) : blank bm (State.parkItem s env p x w unit also) = blank bm s := by
  refine blank_mono hm ?_; clear hm bm
  simp only [State.parkItem]; (repeat' split) <;> simp

@[simp] theorem State.parkFrom_frame (s : State) (env : Env) (p : PartId) (x : Xfault) (unit : Nat) (also : Bool) (l : List HWait) (bm : BitVec 48) (hm : 0x76776C0248#48 &&& ~~~ bm = 0) : blank bm (s.parkFrom env p x unit also l) = blank bm s := by
  refine blank_mono hm ?_; clear hm bm
  induction l generalizing s also with
  | nil => rfl
  | cons w r ih => simp only [State.parkFrom, ih]; simp

@[simp] theorem State.parkItems_frame (s : State) (env : Env) (p : PartId) (x : Xfault) (unit : ℕ) (l : List HWait) (bm : BitVec 48) (hm : 0x76776C0248#48 &&& ~~~ bm = 0) : blank bm (State.parkItems s env p x unit l) = blank bm s := by
  refine blank_mono hm ?_; clear hm bm
  first | (simp [State.parkItems]; done) | (simp only [State.parkItems]; (repeat' split) <;> simp; done) | (simp only [State.parkItems]; (repeat' split) <;> simp [blank]; done)

@[simp] theorem State.makeReady_frame (s : State) (p : PartId) (line : ℕ) (bm : BitVec 48) (hm : 0x2001000000#48 &&& ~~~ bm = 0) : blank bm (State.makeReady s p line) = blank bm s := by
  refine blank_mono hm ?_; clear hm bm
  simp only [State.makeReady]; (repeat' split) <;> simp

@[simp] theorem State.sendFetch_frame (s : State) (e : MatchEntry) (o : PortId) (bm : BitVec 48) (hm : 0x4001240008#48 &&& ~~~ bm = 0) : blank bm (State.sendFetch s e o) = blank bm s := by
  refine blank_mono hm ?_; clear hm bm
  first | (simp [State.sendFetch]; done) | (simp only [State.sendFetch]; (repeat' split) <;> simp; done) | (simp only [State.sendFetch]; (repeat' split) <;> simp [blank]; done)

theorem State.ncFill_frame {s : State} {p : PartId} {line : Nat} {t : State} (h : s.ncFill p line = some t) (bm : BitVec 48) (hm : 0x1000000#48 &&& ~~~ bm = 0) : blank bm t = blank bm s := by
  refine blank_mono hm ?_; clear hm bm
  simp only [State.ncFill] at h
  (repeat' split at h) <;> cases h <;> simp

@[simp] theorem State.ncTouch_frame (s : State) (p : PartId) (line : ℕ) (bm : BitVec 48) (hm : 0x2001000000#48 &&& ~~~ bm = 0) : blank bm (State.ncTouch s p line) = blank bm s := by
  refine blank_mono hm ?_; clear hm bm
  unfold State.ncTouch
  cases h : s.ncFill p line with
  | none => rfl
  | some t => simp only []; (repeat' split) <;> simp [State.ncFill_frame h]

/-! ## Ret -/

@[simp] theorem State.stallFlow_frame (s : State) (p : PartId) (flow : W16) (bm : BitVec 48) (hm : 0x40000#48 &&& ~~~ bm = 0) : blank bm (State.stallFlow s p flow) = blank bm s := by
  refine blank_mono hm ?_; clear hm bm
  simp [State.stallFlow]

@[simp] theorem State.reserve_frame (s : State) (p : PartId) (flow : W16) (order : ℕ) (r : CmdRef) (index : ℕ) (bundle : Option ℕ) (bm : BitVec 48) (hm : 0x10000000#48 &&& ~~~ bm = 0) : blank bm (State.reserve s p flow order r index bundle) = blank bm s := by
  refine blank_mono hm ?_; clear hm bm
  simp [State.reserve]

@[simp] theorem State.updEntry_frame (s : State) (id : ℕ) (f : RetEntry → RetEntry) (bm : BitVec 48) (hm : 0x10000000#48 &&& ~~~ bm = 0) : blank bm (State.updEntry s id f) = blank bm s := by
  refine blank_mono hm ?_; clear hm bm
  simp [State.updEntry]

@[simp] theorem State.bundleGone_frame (s : State) (h : ℕ) (bm : BitVec 48) (hm : 0x20000000#48 &&& ~~~ bm = 0) : blank bm (State.bundleGone s h) = blank bm s := by
  refine blank_mono hm ?_; clear hm bm
  simp [State.bundleGone]

@[simp] theorem State.freeEntry_frame (s : State) (id : ℕ) (bm : BitVec 48) (hm : 0x30080000#48 &&& ~~~ bm = 0) : blank bm (State.freeEntry s id) = blank bm s := by
  refine blank_mono hm ?_; clear hm bm
  simp only [State.freeEntry]; (repeat' split) <;> simp

@[simp] theorem State.writeEntry_frame (s : State) (env : Env) (e : RetEntry) (bm : BitVec 48) (hm : 0x150706C0008#48 &&& ~~~ bm = 0) : blank bm (State.writeEntry s env e) = blank bm s := by
  refine blank_mono hm ?_; clear hm bm
  unfold State.writeEntry
  split
  · simp
  · dsimp only
    split
    · rename_i h; simp [State.vwrite_frame h]
    · simp

@[simp] theorem State.armDeliv_frame (s : State) (port : PortId) (group : BitVec 12) (bm : BitVec 48) (hm : 0x2000000000#48 &&& ~~~ bm = 0) : blank bm (State.armDeliv s port group) = blank bm s := by
  refine blank_mono hm ?_; clear hm bm
  first | (simp [State.armDeliv]; done) | (simp only [State.armDeliv]; (repeat' split) <;> simp; done) | (simp only [State.armDeliv]; (repeat' split) <;> simp [blank]; done)

@[simp] theorem State.setDeliv_frame (s : State) (old : Deliv) (new : Deliv) (bm : BitVec 48) (hm : 0x2010000000#48 &&& ~~~ bm = 0) : blank bm (State.setDeliv s old new) = blank bm s := by
  refine blank_mono hm ?_; clear hm bm
  first | (simp [State.setDeliv]; done) | (simp only [State.setDeliv]; (repeat' split) <;> simp; done) | (simp only [State.setDeliv]; (repeat' split) <;> simp [blank]; done)

@[simp] theorem State.newDeliv_frame (s : State) (port : PortId) (group : BitVec 12) (id : ℕ) (due : Bool) (bm : BitVec 48) (hm : 0x2010000000#48 &&& ~~~ bm = 0) : blank bm (State.newDeliv s port group id due) = blank bm s := by
  refine blank_mono hm ?_; clear hm bm
  first | (simp [State.newDeliv]; done) | (simp only [State.newDeliv]; (repeat' split) <;> simp; done) | (simp only [State.newDeliv]; (repeat' split) <;> simp [blank]; done)

@[simp] theorem State.joinDeliv_frame (s : State) (e : RetEntry) (port : PortId) (group : BitVec 12) (bm : BitVec 48) (hm : 0x2010000000#48 &&& ~~~ bm = 0) : blank bm (State.joinDeliv s e port group) = blank bm s := by
  refine blank_mono hm ?_; clear hm bm
  simp only [State.joinDeliv]; (repeat' split) <;> simp

@[simp] theorem State.release_frame (s : State) (env : Env) (e : RetEntry) (bm : BitVec 48) (hm : 0x170706C0008#48 &&& ~~~ bm = 0) : blank bm (State.release s env e) = blank bm s := by
  refine blank_mono hm ?_; clear hm bm
  simp only [State.release]; (repeat' split) <;> simp

theorem State.releaseOne_frame {s : State} {env : Env} {f : Flow} {t : State} (h : s.releaseOne env f = some t) (bm : BitVec 48) (hm : 0x170706C0008#48 &&& ~~~ bm = 0) : blank bm t = blank bm s := by
  refine blank_mono hm ?_; clear hm bm
  simp only [State.releaseOne] at h
  split at h
  · cases h; simp
  · split at h
    · cases h
    · cases h; simp

@[simp] theorem State.releaseRuns_frame (s : State) (env : Env) (x2 : ℕ) (bm : BitVec 48) (hm : 0x170706C0008#48 &&& ~~~ bm = 0) : blank bm (State.releaseRuns s env x2) = blank bm s := by
  refine blank_mono hm ?_; clear hm bm
  induction x2 generalizing s with
  | zero => simp [State.releaseRuns]
  | succ n ih =>
    simp only [State.releaseRuns]
    split
    · rename_i h
      rw [List.findSome?_eq_some_iff] at h
      obtain ⟨_, _, _, _, h, _⟩ := h
      simp [ih, State.releaseOne_frame h]
    · simp

@[simp] theorem State.delivLast_frame (s : State) (bm : BitVec 48) (hm : 0x2010000000#48 &&& ~~~ bm = 0) : blank bm (State.delivLast s) = blank bm s := by
  refine blank_mono hm ?_; clear hm bm
  simp [State.delivLast]

@[simp] theorem State.releaseAll_frame (s : State) (env : Env) (bm : BitVec 48) (hm : 0x170706C0008#48 &&& ~~~ bm = 0) : blank bm (State.releaseAll s env) = blank bm s := by
  refine blank_mono hm ?_; clear hm bm
  simp [State.releaseAll]

@[simp] theorem State.skipItems_frame (s : State) (p : PartId) (c : Cmd) (flow : W16) (bm : BitVec 48) (hm : 0x10000000#48 &&& ~~~ bm = 0) : blank bm (State.skipItems s p c flow) = blank bm s := by
  refine blank_mono hm ?_; clear hm bm
  simp [State.skipItems]

@[simp] theorem State.skipRest_frame (s : State) (env : Env) (p : PartId) (r : CmdRef) (bm : BitVec 48) (hm : 0x170706C0008#48 &&& ~~~ bm = 0) : blank bm (State.skipRest s env p r) = blank bm s := by
  refine blank_mono hm ?_; clear hm bm
  first | (simp [State.skipRest]; done) | (simp only [State.skipRest]; (repeat' split) <;> simp; done) | (simp only [State.skipRest]; (repeat' split) <;> simp [blank]; done)

@[simp] theorem State.endIntake_frame (s : State) (env : Env) (p : PartId) (r : CmdRef) (st : W16) (bm : BitVec 48) (hm : 0x170706C0008#48 &&& ~~~ bm = 0) : blank bm (State.endIntake s env p r st) = blank bm s := by
  refine blank_mono hm ?_; clear hm bm
  first | (simp [State.endIntake]; done) | (simp only [State.endIntake]; (repeat' split) <;> simp; done) | (simp only [State.endIntake]; (repeat' split) <;> simp [blank]; done)

@[simp] theorem State.accept_frame (s : State) (env : Env) (p : PartId) (flow : W16) (c : Cmd) (r : CmdRef) (index : ℕ) (bundle : Option ℕ) (record : Rec32) (deliver : Option (PortId × BitVec 12)) (addr : ℕ) (bad : Bool) (bm : BitVec 48) (hm : 0x170706C0008#48 &&& ~~~ bm = 0) : blank bm (State.accept s env p flow c r index bundle record deliver addr bad) = blank bm s := by
  refine blank_mono hm ?_; clear hm bm
  simp only [State.accept]; (repeat' split) <;> simp

@[simp] theorem State.acceptRay_frame (s : State) (env : Env) (p : PartId) (flow : W16) (c : Cmd) (r : CmdRef) (index : ℕ) (record : Rec32) (bm : BitVec 48) (hm : 0x170706C0008#48 &&& ~~~ bm = 0) : blank bm (State.acceptRay s env p flow c r index record) = blank bm s := by
  refine blank_mono hm ?_; clear hm bm
  simp [State.acceptRay]

@[simp] theorem State.returned_frame (s : State) (p : PartId) (i : ℕ) (bm : BitVec 48) (hm : 0x4001240008#48 &&& ~~~ bm = 0) : blank bm (State.returned s p i) = blank bm s := by
  refine blank_mono hm ?_; clear hm bm
  first | (simp [State.returned]; done) | (simp only [State.returned]; (repeat' split) <;> simp; done) | (simp only [State.returned]; (repeat' split) <;> simp [blank]; done)

@[simp] theorem State.setCredit_frame (s : State) (port : PortId) (net : Net) (group : BitVec 12) (n : ℕ) (bm : BitVec 48) (hm : 0x10000000#48 &&& ~~~ bm = 0) : blank bm (State.setCredit s port net group n) = blank bm s := by
  refine blank_mono hm ?_; clear hm bm
  simp [State.setCredit]

@[simp] theorem State.drawCredit_frame (s : State) (port : PortId) (net : Net) (group : BitVec 12) (n : ℕ) (bm : BitVec 48) (hm : 0x10000000#48 &&& ~~~ bm = 0) : blank bm (State.drawCredit s port net group n) = blank bm s := by
  refine blank_mono hm ?_; clear hm bm
  simp [State.drawCredit]

@[simp] theorem State.sendPort_frame (s : State) (m : PortMsg) (bm : BitVec 48) (hm : 0x20#48 &&& ~~~ bm = 0) : blank bm (State.sendPort s m) = blank bm s := by
  refine blank_mono hm ?_; clear hm bm
  simp [State.sendPort]

@[simp] theorem State.deliver_frame (s : State) (port : PortId) (group : BitVec 12) (bm : BitVec 48) (hm : 0x30080020#48 &&& ~~~ bm = 0) : blank bm (State.deliver s port group) = blank bm s := by
  refine blank_mono hm ?_; clear hm bm
  simp only [State.deliver]; (repeat' split) <;> simp

@[simp] theorem State.delivDue_frame (s : State) (port : PortId) (group : BitVec 12) (bm : BitVec 48) (hm : 0x2010000000#48 &&& ~~~ bm = 0) : blank bm (State.delivDue s port group) = blank bm s := by
  refine blank_mono hm ?_; clear hm bm
  simp only [State.delivDue]; split <;> simp

end Sys2Proof.Machine
end

