-- ==== Sys2Proof/Laws/FrameFront.lean ====
section
/-!
SUPPORT. Sys2Proof/Laws/FrameFront.lean: what each operation of Machine/{Flags, Bus, Target, Present, Queue, Sync, Rci, Array}.lean changes at most: blanked in those components, the state after it is the state before it.
-/

set_option linter.all false

namespace Sys2Proof.Machine
open Sys2Proof

/-! ## Flags -/

@[simp] theorem State.fpInvalids_frame (s : State) (p : PartId) (l : List FpInv) (bm : BitVec 48) (hm : 0x40008#48 &&& ~~~ bm = 0) : blank bm (State.fpInvalids s p l) = blank bm s := by
  refine blank_mono hm ?_; clear hm bm
  simp only [State.fpInvalids]; (repeat' split) <;> simp

@[simp] theorem State.pushInvs_frame (s : State) (l : List FpInv) (bm : BitVec 48) (hm : 0x1000000#48 &&& ~~~ bm = 0) : blank bm (State.pushInvs s l) = blank bm s := by
  refine blank_mono hm ?_; clear hm bm
  first | (simp [State.pushInvs]; done) | (simp only [State.pushInvs]; (repeat' split) <;> simp; done) | (simp only [State.pushInvs]; (repeat' split) <;> simp [blank]; done)

@[simp] theorem State.flushInvs_frame (s : State) (p : PartId) (bm : BitVec 48) (hm : 0x1040008#48 &&& ~~~ bm = 0) : blank bm (State.flushInvs s p) = blank bm s := by
  refine blank_mono hm ?_; clear hm bm
  first | (simp [State.flushInvs]; done) | (simp only [State.flushInvs]; (repeat' split) <;> simp; done) | (simp only [State.flushInvs]; (repeat' split) <;> simp [blank]; done)

@[simp] theorem State.fpOverflows_frame (s : State) (p : PartId) (n : ℕ) (bm : BitVec 48) (hm : 0x40008#48 &&& ~~~ bm = 0) : blank bm (State.fpOverflows s p n) = blank bm s := by
  refine blank_mono hm ?_; clear hm bm
  simp [State.fpOverflows]

/-! ## Bus -/

@[simp] theorem State.busError_frame (s : State) (bm : BitVec 48) (hm : 0x10#48 &&& ~~~ bm = 0) : blank bm (State.busError s) = blank bm s := by
  refine blank_mono hm ?_; clear hm bm
  simp [State.busError]

@[simp] theorem State.busXpart_frame (s : State) (bm : BitVec 48) (hm : 0x2010#48 &&& ~~~ bm = 0) : blank bm (State.busXpart s) = blank bm s := by
  refine blank_mono hm ?_; clear hm bm
  simp [State.busXpart]

theorem State.gate_frame {s : State} {req : Requester} {page : Option PartId} {w : Bool} {t : State} (h : s.gate req page w = .refused t)
    (bm : BitVec 48) (hm : 0x2010#48 &&& ~~~ bm = 0) : blank bm t = blank bm s := by
  refine blank_mono hm ?_; clear hm bm
  unfold State.gate at h
  split at h
  · cases h; simp [State.busError]
  · split at h
    · split at h
      · cases h
      · cases h; simp [State.busXpart, State.busError]
    · cases h
    · cases h

@[simp] theorem State.relock_frame (s : State) (req : Requester) (bm : BitVec 48) (hm : 0x1000#48 &&& ~~~ bm = 0) : blank bm (State.relock s req) = blank bm s := by
  refine blank_mono hm ?_; clear hm bm
  simp only [State.relock]; (repeat' split) <;> simp

@[simp] theorem State.lockViolation_frame (s : State) (bm : BitVec 48) (hm : 0x2008#48 &&& ~~~ bm = 0) : blank bm (State.lockViolation s) = blank bm s := by
  refine blank_mono hm ?_; clear hm bm
  simp only [State.lockViolation]; (repeat' split) <;> (try simp) <;> simp [blank]

@[simp] theorem State.busWrite_frame (s : State) (req : Requester) (page : Option PartId) (a b : Bool) (f : Bool → State → State) (bm : BitVec 48) (hf : ∀ u x, blank bm (f u x) = blank bm x) (hm : 0x3010#48 &&& ~~~ bm = 0) : blank bm (s.busWrite req page a b f) = blank bm s := by
  have e1 := State.relock_frame s req bm (blank_sub hm (by decide))
  unfold State.busWrite
  split
  · rename_i h; exact State.gate_frame h _ (blank_sub hm (by decide))
  · exact State.answer_frame _ _ _ (blank_sub hm (by decide))
  · simp only []
    (repeat' split) <;> simp [State.answer_frame _ _ bm (blank_sub hm (by decide)), hf, e1]

@[simp] theorem State.globalWrite_frame (s : State) (req : Requester) (f : Bool → State → State) (bm : BitVec 48) (hf : ∀ u x, blank bm (f u x) = blank bm x) (hm : 0x3010#48 &&& ~~~ bm = 0) : blank bm (s.globalWrite req f) = blank bm s := by
  exact State.busWrite_frame _ _ _ _ _ _ _ hf hm

@[simp] theorem State.pageWrite_frame (s : State) (req : Requester) (p : PartId) (f : State → State) (bm : BitVec 48) (hf : ∀ x, blank bm (f x) = blank bm x) (hm : 0x3010#48 &&& ~~~ bm = 0) : blank bm (s.pageWrite req p f) = blank bm s := by
  exact State.busWrite_frame _ _ _ _ _ _ _ (fun _ => hf) hm

@[simp] theorem State.locked_frame (s : State) (a b : Bool) (f : State → State) (bm : BitVec 48) (hf : ∀ x, blank bm (f x) = blank bm x) (hm : 0x2008#48 &&& ~~~ bm = 0) : blank bm (s.locked a b f) = blank bm s := by
  unfold State.locked; (repeat' split) <;> first | rfl | exact hf _ | exact State.lockViolation_frame _ _ (blank_sub hm (by decide))

/-! ## Present -/

@[simp] theorem State.sendPresent_frame (s : State) (p : PartId) (surface : ℕ) (reproj : Bool) (late : Bool) (bm : BitVec 48) (hm : 0x40080#48 &&& ~~~ bm = 0) : blank bm (State.sendPresent s p surface reproj late) = blank bm s := by
  refine blank_mono hm ?_; clear hm bm
  simp [State.sendPresent]

@[simp] theorem State.deadlineIdle_frame (s : State) (p : PartId) (bm : BitVec 48) (hm : 0x2000040000#48 &&& ~~~ bm = 0) : blank bm (State.deadlineIdle s p) = blank bm s := by
  refine blank_mono hm ?_; clear hm bm
  simp [State.deadlineIdle]

@[simp] theorem State.keepLate_frame (s : State) (p : PartId) (bm : BitVec 48) (hm : 0x40000#48 &&& ~~~ bm = 0) : blank bm (State.keepLate s p) = blank bm s := by
  refine blank_mono hm ?_; clear hm bm
  first | (simp [State.keepLate]; done) | (simp only [State.keepLate]; (repeat' split) <;> simp; done) | (simp only [State.keepLate]; (repeat' split) <;> simp [blank]; done)

@[simp] theorem State.takeReference_frame (s : State) (p : PartId) (c : Cmd) (bm : BitVec 48) (hm : 0x40000#48 &&& ~~~ bm = 0) : blank bm (State.takeReference s p c) = blank bm s := by
  refine blank_mono hm ?_; clear hm bm
  simp [State.takeReference]

@[simp] theorem State.presentFrame_frame (s : State) (p : PartId) (r : CmdRef) (c : Cmd) (bm : BitVec 48) (hm : 0x20000C0088#48 &&& ~~~ bm = 0) : blank bm (State.presentFrame s p r c) = blank bm s := by
  refine blank_mono hm ?_; clear hm bm
  simp only [State.presentFrame]
  simp only [State.applyFrame_frame, BitVec.reduceAnd, BitVec.reduceNot, BitVec.reduceEq]
  rw [State.doIf_frame, State.doIf_frame, State.doIf_frame] <;> simp

/-! ## Target -/

@[simp] theorem State.dropParkWait_frame (s : State) (f : ParkReq → Bool) (bm : BitVec 48) (hm : 0x80000000#48 &&& ~~~ bm = 0) : blank bm (State.dropParkWait s f) = blank bm s := by
  refine blank_mono hm ?_; clear hm bm
  first | (simp [State.dropParkWait]; done) | (simp only [State.dropParkWait]; (repeat' split) <;> simp; done) | (simp only [State.dropParkWait]; (repeat' split) <;> simp [blank]; done)

@[simp] theorem State.dropSummary_frame (s : State) (p : PartId) (bm : BitVec 48) (hm : 0x80040000#48 &&& ~~~ bm = 0) : blank bm (State.dropSummary s p) = blank bm s := by
  refine blank_mono hm ?_; clear hm bm
  simp only [State.dropSummary]; (repeat' split) <;> simp

@[simp] theorem State.askSummary_frame (s : State) (p : PartId) (r : CmdRef) (cls : BitVec 2) (w : ℕ) (h : ℕ) (bm : BitVec 48) (hm : 0x80040000#48 &&& ~~~ bm = 0) : blank bm (State.askSummary s p r cls w h) = blank bm s := by
  refine blank_mono hm ?_; clear hm bm
  first | (simp [State.askSummary]; done) | (simp only [State.askSummary]; (repeat' split) <;> simp; done) | (simp only [State.askSummary]; (repeat' split) <;> simp [blank]; done)

@[simp] theorem State.bindFrame_frame (s : State) (p : PartId) (r : CmdRef) (cls : BitVec 2) (bm : BitVec 48) (hm : 0x40000#48 &&& ~~~ bm = 0) : blank bm (State.bindFrame s p r cls) = blank bm s := by
  refine blank_mono hm ?_; clear hm bm
  simp [State.bindFrame]

@[simp] theorem State.readTarget_frame (s : State) (env : Env) (q : QueueId) (c : Cmd) (bm : BitVec 48) (hm : 0x50F06C0008#48 &&& ~~~ bm = 0) : blank bm (State.readTarget s env q c) = blank bm s := by
  refine blank_mono hm ?_; clear hm bm
  first | (simp [State.readTarget]; done) | (simp only [State.readTarget]; (repeat' split) <;> simp; done) | (simp only [State.readTarget]; (repeat' split) <;> simp [blank]; done)

/-! ## Queue -/

@[simp] theorem State.readQdesc_frame (s : State) (env : Env) (q : QueueId) (bm : BitVec 48) (hm : 0x50706C0008#48 &&& ~~~ bm = 0) : blank bm (State.readQdesc s env q) = blank bm s := by
  refine blank_mono hm ?_; clear hm bm
  simp only [State.readQdesc]; (repeat' split) <;> simp

@[simp] theorem State.enableQueue_frame (s : State) (env : Env) (q : QueueId) (bm : BitVec 48) (hm : 0x50706C0008#48 &&& ~~~ bm = 0) : blank bm (State.enableQueue s env q) = blank bm s := by
  refine blank_mono hm ?_; clear hm bm
  simp [State.enableQueue]

@[simp] theorem State.writeQctl_frame (s : State) (env : Env) (q : QueueId) (v : W32) (bm : BitVec 48) (hm : 0x50706C0008#48 &&& ~~~ bm = 0) : blank bm (State.writeQctl s env q v) = blank bm s := by
  refine blank_mono hm ?_; clear hm bm
  simp [State.writeQctl]

@[simp] theorem State.queueSlotWrite_frame (s : State) (req : Requester) (p : PartId) (n : Fin 64) (f : QueueId → State → State) (bm : BitVec 48) (hf : ∀ q x, blank bm (f q x) = blank bm x) (hm : 0x3010#48 &&& ~~~ bm = 0) : blank bm (s.queueSlotWrite req p n f) = blank bm s := by
  exact State.pageWrite_frame _ _ _ _ _ (fun x => by split <;> simp [hf]) hm

@[simp] theorem State.whistleAt_frame (s : State) (p : PartId) (q : QueueId) (t : ℕ) (bm : BitVec 48) (hm : 0x80000#48 &&& ~~~ bm = 0) : blank bm (State.whistleAt s p q t) = blank bm s := by
  refine blank_mono hm ?_; clear hm bm
  simp [State.whistleAt]

@[simp] theorem State.fetchCount_frame (s : State) (q : QueueId) (bm : BitVec 48) (hm : 0x180000#48 &&& ~~~ bm = 0) : blank bm (State.fetchCount s q) = blank bm s := by
  refine blank_mono hm ?_; clear hm bm
  simp only [State.fetchCount]; (repeat' split) <;> (try simp) <;> simp [blank]

@[simp] theorem State.fetchCmd_frame (s : State) (env : Env) (p : PartId) (q : QueueId) (f : Fetching) (bm : BitVec 48) (hm : 0x50706C0008#48 &&& ~~~ bm = 0) : blank bm (State.fetchCmd s env p q f) = blank bm s := by
  refine blank_mono hm ?_; clear hm bm
  simp only [State.fetchCmd]; (repeat' split) <;> simp

@[simp] theorem State.fetchEntry_frame (s : State) (env : Env) (p : PartId) (q : QueueId) (bm : BitVec 48) (hm : 0x50706C0008#48 &&& ~~~ bm = 0) : blank bm (State.fetchEntry s env p q) = blank bm s := by
  refine blank_mono hm ?_; clear hm bm
  simp only [State.fetchEntry]; (repeat' split) <;> simp

@[simp] theorem State.takeFlow_frame (s : State) (p : PartId) (q : QueueId) (flow n : Nat) (bm : BitVec 48) (hm : 0x10000000#48 &&& ~~~ bm = 0) : blank bm (s.takeFlow p q flow n).2 = blank bm s := by
  refine blank_mono hm ?_; clear hm bm
  simp only [State.takeFlow]; (repeat' split) <;> simp

@[simp] theorem State.admitOne_frame (s : State) (env : Env) (q : QueueId) (f : Fetched) (bm : BitVec 48) (hm : 0x50F06C0008#48 &&& ~~~ bm = 0) : blank bm (State.admitOne s env q f) = blank bm s := by
  refine blank_mono hm ?_; clear hm bm
  simp only [State.admitOne]; (repeat' split) <;> simp

@[simp] theorem State.retire_frame (s : State) (q : QueueId) (c : Cmd) (wrote : Bool) (bm : BitVec 48) (hm : 0x40002C0008#48 &&& ~~~ bm = 0) : blank bm (State.retire s q c wrote) = blank bm s := by
  refine blank_mono hm ?_; clear hm bm
  simp [State.retire]

@[simp] theorem State.completeHead_frame (s : State) (env : Env) (q : QueueId) (c : Cmd) (bm : BitVec 48) (hm : 0x50706C0008#48 &&& ~~~ bm = 0) : blank bm (State.completeHead s env q c) = blank bm s := by
  refine blank_mono hm ?_; clear hm bm
  simp only [State.completeHead]
  split
  · split
    · simp
    · rename_i h; simp [State.vwrite_frame h]
  · simp

@[simp] theorem State.onComplete_frame (s : State) (q : QueueId) (c : Cmd) (bm : BitVec 48) (hm : 0x20000C0088#48 &&& ~~~ bm = 0) : blank bm (State.onComplete s q c) = blank bm s := by
  refine blank_mono hm ?_; clear hm bm
  first | (simp [State.onComplete]; done) | (simp only [State.onComplete]; (repeat' split) <;> simp; done) | (simp only [State.onComplete]; (repeat' split) <;> simp [blank]; done)

/-! ## Rci -/

@[simp] theorem blank_endl (x : State) (v1 : List (Option Section × ClampE)) (v2 : Bool) (v3 : Bool) (v4 : BitVec 3) (v5 : BitVec 3) (bm : BitVec 48) (hm : 0x20000#48 &&& ~~~ bm = 0) : blank bm { x with cfg := { x.cfg with notes := v1, busy := v2, done := v3, state := v4, reject := v5 } } = blank bm x := by
  refine blank_mono hm ?_; clear hm bm; simp [blank]

@[simp] theorem blank_ptw (x : State) (v1 : Vector (Vector (Sh (Tri W64)) 4) 16) (v2 : List PartLoad) (bm : BitVec 48) (hm : 0x24000#48 &&& ~~~ bm = 0) : blank bm { x with cfg := { x.cfg with ptab := v1, waitPart := v2 } } = blank bm x := by
  refine blank_mono hm ?_; clear hm bm; simp [blank]

@[simp] theorem State.loadCaddy_frame (s : State) (l : CaddyLoad) (bm : BitVec 48) (hm : 0x8000#48 &&& ~~~ bm = 0) : blank bm (State.loadCaddy s l) = blank bm s := by
  refine blank_mono hm ?_; clear hm bm
  simp [State.loadCaddy]

@[simp] theorem State.putPtab_frame (s : State) (p : PartId) (w : PtabWords) (bm : BitVec 48) (hm : 0x4000#48 &&& ~~~ bm = 0) : blank bm (State.putPtab s p w) = blank bm s := by
  refine blank_mono hm ?_; clear hm bm
  simp [State.putPtab]

@[simp] theorem State.putFpDef_frame (s : State) (p : PartId) (b : Byte) (now : Bool) (bm : BitVec 48) (hm : 0x50000#48 &&& ~~~ bm = 0) : blank bm (State.putFpDef s p b now) = blank bm s := by
  refine blank_mono hm ?_; clear hm bm
  simp [State.putFpDef]

@[simp] theorem State.stripPart_frame (s : State) (p : PartId) (f : PartF) (bm : BitVec 48) (hm : 0x4000#48 &&& ~~~ bm = 0) : blank bm (State.stripPart s p f) = blank bm s := by
  refine blank_mono hm ?_; clear hm bm
  first | (simp [State.stripPart]; done) | (simp only [State.stripPart]; (repeat' split) <;> simp; done) | (simp only [State.stripPart]; (repeat' split) <;> simp [blank]; done)

@[simp] theorem State.takeOver_frame (s : State) (src : Nat) (p : PartId) (f : PartF) (bm : BitVec 48) (hm : 0x4000#48 &&& ~~~ bm = 0) : blank bm (s.takeOver src p f).1 = blank bm s := by
  unfold State.takeOver
  generalize hl : List.filter _ allParts = l
  clear hl
  suffices h : ∀ a : Checked State, blank bm (l.foldl _ a).1 = blank bm a.1 from h (s, [])
  induction l with
  | nil => intro a; rfl
  | cons r t ih => intro a; rw [List.foldl_cons, ih]; dsimp only; split <;> simp [State.stripPart_frame _ _ _ bm hm]

@[simp] theorem State.recheckFlow_frame (s : State) (p : PartId) (bm : BitVec 48) (hm : 0x260000#48 &&& ~~~ bm = 0) : blank bm (State.recheckFlow s p) = blank bm s := by
  refine blank_mono hm ?_; clear hm bm
  first | (simp [State.recheckFlow]; done) | (simp only [State.recheckFlow]; (repeat' split) <;> simp; done) | (simp only [State.recheckFlow]; (repeat' split) <;> simp [blank]; done)

@[simp] theorem State.clampAll_frame (s : State) (l : List ClampE) (bm : BitVec 48) (hm : 0x220000#48 &&& ~~~ bm = 0) : blank bm (State.clampAll s l) = blank bm s := by
  refine blank_mono hm ?_; clear hm bm
  simp [State.clampAll]

@[simp] theorem State.applySection_frame (s : State) (l : PartLoad) (now : Bool) (bm : BitVec 48) (hm : 0x410274000#48 &&& ~~~ bm = 0) : blank bm (State.applySection s l now) = blank bm s := by
  refine blank_mono hm ?_; clear hm bm
  simp only [State.applySection]
  simp
  split <;> simp

@[simp] theorem State.applyGlobal_frame (s : State) (g : GlobalSec) (start : Bool) (bm : BitVec 48) (hm : 0x40C010000#48 &&& ~~~ bm = 0) : blank bm (State.applyGlobal s g start) = blank bm s := by
  refine blank_mono hm ?_; clear hm bm
  simp only [State.applyGlobal]; (repeat' split) <;> (try simp) <;> simp [blank]

@[simp] theorem State.endLoad_frame (s : State) (reject : BitVec 3) (bm : BitVec 48) (hm : 0x220008#48 &&& ~~~ bm = 0) : blank bm (State.endLoad s reject) = blank bm s := by
  refine blank_mono hm ?_; clear hm bm
  simp only [State.endLoad]
  simp

@[simp] theorem State.applyStart_frame (s : State) (l : Load) (bm : BitVec 48) (hm : 0x41D27E000#48 &&& ~~~ bm = 0) : blank bm (State.applyStart s l) = blank bm s := by
  refine blank_mono hm ?_; clear hm bm
  simp only [State.applyStart]; (repeat' split) <;> simp

@[simp] theorem State.applyPtab_frame (s : State) (at_ : PartId → Bool) (p : PartId) (bm : BitVec 48) (hm : 0x410274000#48 &&& ~~~ bm = 0) : blank bm (State.applyPtab s at_ p) = blank bm s := by
  refine blank_mono hm ?_; clear hm bm
  first | (simp [State.applyPtab]; done) | (simp only [State.applyPtab]; (repeat' split) <;> simp; done) | (simp only [State.applyPtab]; (repeat' split) <;> simp [blank]; done)

@[simp] theorem State.boundaryPart_frame (s : State) (at_ : PartId → Bool) (p : PartId) (bm : BitVec 48) (hm : 0x410274000#48 &&& ~~~ bm = 0) : blank bm (State.boundaryPart s at_ p) = blank bm s := by
  refine blank_mono hm ?_; clear hm bm
  first | (simp [State.boundaryPart]; done) | (simp only [State.boundaryPart]; (repeat' split) <;> simp; done) | (simp only [State.boundaryPart]; (repeat' split) <;> simp [blank]; done)

@[simp] theorem State.applyShadows_frame (s : State) (bm : BitVec 48) (hm : 0x41D276000#48 &&& ~~~ bm = 0) : blank bm (State.applyShadows s) = blank bm s := by
  refine blank_mono hm ?_; clear hm bm
  first | (simp [State.applyShadows]; done) | (simp only [State.applyShadows]; (repeat' split) <;> simp; done) | (simp only [State.applyShadows]; (repeat' split) <;> simp [blank]; done)

@[simp] theorem State.cancelLoad_frame (s : State) (bm : BitVec 48) (hm : 0x220008#48 &&& ~~~ bm = 0) : blank bm (State.cancelLoad s) = blank bm s := by
  refine blank_mono hm ?_; clear hm bm
  simp only [State.cancelLoad]; (repeat' split) <;> (try simp) <;> simp [blank]

@[simp] theorem State.startLoad_frame (s : State) (bm : BitVec 48) (hm : 0x20200#48 &&& ~~~ bm = 0) : blank bm (State.startLoad s) = blank bm s := by
  refine blank_mono hm ?_; clear hm bm
  simp only [State.startLoad]; (repeat' split) <;> (try simp) <;> simp [blank]

@[simp] theorem State.regCfgCtl_frame (s : State) (u : Bool) (v : W64) (m : W64) (bm : BitVec 48) (hm : 0x222208#48 &&& ~~~ bm = 0) : blank bm (State.regCfgCtl s u v m) = blank bm s := by
  refine blank_mono hm ?_; clear hm bm
  simp only [State.regCfgCtl]; (repeat' split) <;> (try simp) <;> simp [blank]

@[simp] theorem State.regPtab_frame (s : State) (u : Bool) (p : PartId) (w : Fin 4) (v : W64) (m : W64) (bm : BitVec 48) (hm : 0x226008#48 &&& ~~~ bm = 0) : blank bm (State.regPtab s u p w v m) = blank bm s := by
  refine blank_mono hm ?_; clear hm bm
  unfold State.regPtab
  simp only []
  split
  · rfl
  · split
    · exact State.lockViolation_frame _ _ (by decide)
    · rw [State.clampAll_frame _ _ _ (by decide)]; exact blank_ptw _ _ _ _ (by decide)

@[simp] theorem State.regCaddySel_frame (s : State) (v : W64) (m : W64) (bm : BitVec 48) (hm : 0x4000248008#48 &&& ~~~ bm = 0) : blank bm (State.regCaddySel s v m) = blank bm s := by
  refine blank_mono hm ?_; clear hm bm
  simp [State.regCaddySel]

/-! ## Sync -/

@[simp] theorem State.begin_frame (s : State) (r : CmdRef) (bm : BitVec 48) (hm : 0x80000#48 &&& ~~~ bm = 0) : blank bm (State.begin s r) = blank bm s := by
  refine blank_mono hm ?_; clear hm bm
  simp [State.begin]

@[simp] theorem State.waitEnd_frame (s : State) (q : QueueId) (bm : BitVec 48) (hm : 0x2000000000#48 &&& ~~~ bm = 0) : blank bm (State.waitEnd s q) = blank bm s := by
  refine blank_mono hm ?_; clear hm bm
  simp [State.waitEnd]

@[simp] theorem State.waitEval_frame (s : State) (env : Env) (q : QueueId) (c : Cmd) (bm : BitVec 48) (hm : 0x70706C0008#48 &&& ~~~ bm = 0) : blank bm (State.waitEval s env q c) = blank bm s := by
  refine blank_mono hm ?_; clear hm bm
  simp only [State.waitEval]; (repeat' split) <;> simp

@[simp] theorem State.waitAll_frame (s : State) (env : Env) (p : PartId) (bm : BitVec 48) (hm : 0x70706C0008#48 &&& ~~~ bm = 0) : blank bm (State.waitAll s env p) = blank bm s := by
  refine blank_mono hm ?_; clear hm bm
  unfold State.waitAll
  apply foldl_frame
  intro x a
  split <;> simp

@[simp] theorem State.traceDrain_frame (s : State) (p : PartId) (step : ℕ) (bm : BitVec 48) (hm : 0x4000240008#48 &&& ~~~ bm = 0) : blank bm (State.traceDrain s p step) = blank bm s := by
  refine blank_mono hm ?_; clear hm bm
  simp [State.traceDrain]

/-! ## Array -/

@[simp] theorem blank_co2 (x : State) (v1 : BitVec 16) (v2 : BitVec 16) (bm : BitVec 48) (hm : 0x4000000#48 &&& ~~~ bm = 0) : blank bm { x with arr := { x.arr with coresOut := v1, coresBack := v2 } } = blank bm x := by
  refine blank_mono hm ?_; clear hm bm; simp [blank]

@[simp] theorem blank_un2 (x : State) (v1 : BitVec 16) (v2 : BitVec 16) (v3 : Strain) (bm : BitVec 48) (hm : 0x24000000#48 &&& ~~~ bm = 0) : blank bm { x with arr := { x.arr with unitsOut := v1, unitsBack := v2 }, strain := v3 } = blank bm x := by
  refine blank_mono hm ?_; clear hm bm; simp [blank]

@[simp] theorem blank_kb2 (x : State) (v1 : BitVec 64) (v2 : BitVec 64) (bm : BitVec 48) (hm : 0x800000#48 &&& ~~~ bm = 0) : blank bm { x with kennel := { x.kennel with banksOut := v1, banksBack := v2 } } = blank bm x := by
  refine blank_mono hm ?_; clear hm bm; simp [blank]

@[simp] theorem State.tusChanged_frame (s : State) (before : ℕ) (bm : BitVec 48) (hm : 0x8#48 &&& ~~~ bm = 0) : blank bm (State.tusChanged s before) = blank bm s := by
  refine blank_mono hm ?_; clear hm bm
  simp [State.tusChanged]

@[simp] theorem State.traceArr_frame (s : State) (reason : ℕ) (unit : ℕ) (bm : BitVec 48) (hm : 0x4000240008#48 &&& ~~~ bm = 0) : blank bm (State.traceArr s reason unit) = blank bm s := by
  refine blank_mono hm ?_; clear hm bm
  simp [State.traceArr]

@[simp] theorem State.setRow_frame (s : State) (r : Fin 8) (x : Row) (bm : BitVec 48) (hm : 0x4000000#48 &&& ~~~ bm = 0) : blank bm (State.setRow s r x) = blank bm s := by
  refine blank_mono hm ?_; clear hm bm
  simp [State.setRow]

@[simp] theorem State.emptyTu_frame (s : State) (n : TuId) (bm : BitVec 48) (hm : 0x2003000000#48 &&& ~~~ bm = 0) : blank bm (State.emptyTu s n) = blank bm s := by
  refine blank_mono hm ?_; clear hm bm
  simp [State.emptyTu]

@[simp] theorem State.coldTu_frame (s : State) (n : TuId) (bm : BitVec 48) (hm : 0x2000000#48 &&& ~~~ bm = 0) : blank bm (State.coldTu s n) = blank bm s := by
  refine blank_mono hm ?_; clear hm bm
  simp [State.coldTu]

@[simp] theorem State.fencePos_frame (s : State) (r : Fin 8) (p : Fin 17) (reason : ℕ) (bm : BitVec 48) (hm : 0x6007240008#48 &&& ~~~ bm = 0) : blank bm (State.fencePos s r p reason) = blank bm s := by
  refine blank_mono hm ?_; clear hm bm
  simp only [State.fencePos]; (repeat' split) <;> simp

@[simp] theorem State.fenceRow_frame (s : State) (r : Fin 8) (bm : BitVec 48) (hm : 0x6007240008#48 &&& ~~~ bm = 0) : blank bm (State.fenceRow s r) = blank bm s := by
  refine blank_mono hm ?_; clear hm bm
  simp [State.fenceRow]

@[simp] theorem State.returnPos_frame (s : State) (r : Fin 8) (p : Fin 17) (bm : BitVec 48) (hm : 0x4000000#48 &&& ~~~ bm = 0) : blank bm (State.returnPos s r p) = blank bm s := by
  refine blank_mono hm ?_; clear hm bm
  simp [State.returnPos]

@[simp] theorem State.residueSeen_frame (s : State) (bm : BitVec 48) (hm : 0x4000000#48 &&& ~~~ bm = 0) : blank bm (State.residueSeen s) = blank bm s := by
  refine blank_mono hm ?_; clear hm bm
  first | (simp [State.residueSeen]; done) | (simp only [State.residueSeen]; (repeat' split) <;> simp; done) | (simp only [State.residueSeen]; (repeat' split) <;> simp [blank]; done)

@[simp] theorem State.residueError_frame (s : State) (n : TuId) (bm : BitVec 48) (hm : 0x6007240008#48 &&& ~~~ bm = 0) : blank bm (State.residueError s n) = blank bm s := by
  refine blank_mono hm ?_; clear hm bm
  simp only [State.residueError]; (repeat' split) <;> simp

@[simp] theorem State.regTuFence_frame (s : State) (u : Bool) (v : W64) (bm : BitVec 48) (hm : 0x6007242008#48 &&& ~~~ bm = 0) : blank bm (State.regTuFence s u v) = blank bm s := by
  refine blank_mono hm ?_; clear hm bm
  simp [State.regTuFence]

@[simp] theorem State.setHalf_frame (s : State) (h : Half) (v : BitVec 2) (bm : BitVec 48) (hm : 0x4000000#48 &&& ~~~ bm = 0) : blank bm (State.setHalf s h v) = blank bm s := by
  refine blank_mono hm ?_; clear hm bm
  simp only [State.setHalf]; (repeat' split) <;> simp

@[simp] theorem State.setSleep_frame (s : State) (h : Half) (b : Bool) (bm : BitVec 48) (hm : 0x4000000#48 &&& ~~~ bm = 0) : blank bm (State.setSleep s h b) = blank bm s := by
  refine blank_mono hm ?_; clear hm bm
  simp only [State.setSleep]; (repeat' split) <;> simp

@[simp] theorem State.sleep_frame (s : State) (h : Half) (bm : BitVec 48) (hm : 0x4000000#48 &&& ~~~ bm = 0) : blank bm (State.sleep s h) = blank bm s := by
  refine blank_mono hm ?_; clear hm bm
  simp [State.sleep]

@[simp] theorem State.wake_frame (s : State) (h : Half) (bm : BitVec 48) (hm : 0x4000000#48 &&& ~~~ bm = 0) : blank bm (State.wake s h) = blank bm s := by
  refine blank_mono hm ?_; clear hm bm
  simp [State.wake]

@[simp] theorem State.regArrCtl_frame (s : State) (v : W64) (m : W64) (bm : BitVec 48) (hm : 0x4000000#48 &&& ~~~ bm = 0) : blank bm (State.regArrCtl s v m) = blank bm s := by
  refine blank_mono hm ?_; clear hm bm
  simp only [State.regArrCtl]; (repeat' split) <;> (try simp) <;> simp [blank]

@[simp] theorem State.coldHalf_frame (s : State) (h : Half) (bm : BitVec 48) (hm : 0x2000000#48 &&& ~~~ bm = 0) : blank bm (State.coldHalf s h) = blank bm s := by
  refine blank_mono hm ?_; clear hm bm
  simp [State.coldHalf]

@[simp] theorem State.unitOut_frame (s : State) (kind : ℕ) (idx : ℕ) (bm : BitVec 48) (hm : 0x4800000#48 &&& ~~~ bm = 0) : blank bm (State.unitOut s kind idx) = blank bm s := by
  refine blank_mono hm ?_; clear hm bm
  simp only [State.unitOut]; (repeat' split) <;> (try simp) <;> simp [blank]

@[simp] theorem State.kennelCorrected_frame (s : State) (bm : BitVec 48) (hm : 0x10000800000#48 &&& ~~~ bm = 0) : blank bm (State.kennelCorrected s) = blank bm s := by
  refine blank_mono hm ?_; clear hm bm
  first | (simp [State.kennelCorrected]; done) | (simp only [State.kennelCorrected]; (repeat' split) <;> simp; done) | (simp only [State.kennelCorrected]; (repeat' split) <;> simp [blank]; done)

@[simp] theorem State.kennelLost_frame (s : State) (i : ℕ) (bm : BitVec 48) (hm : 0x4800000#48 &&& ~~~ bm = 0) : blank bm (State.kennelLost s i) = blank bm s := by
  refine blank_mono hm ?_; clear hm bm
  first | (simp [State.kennelLost]; done) | (simp only [State.kennelLost]; (repeat' split) <;> simp; done) | (simp only [State.kennelLost]; (repeat' split) <;> simp [blank]; done)

@[simp] theorem State.unitBack_frame (s : State) (kind : ℕ) (idx : ℕ) (bm : BitVec 48) (hm : 0x4800000#48 &&& ~~~ bm = 0) : blank bm (State.unitBack s kind idx) = blank bm s := by
  refine blank_mono hm ?_; clear hm bm
  simp [State.unitBack]

@[simp] theorem State.regUnitSvc_frame (s : State) (u : Bool) (v : W64) (bm : BitVec 48) (hm : 0x4802008#48 &&& ~~~ bm = 0) : blank bm (State.regUnitSvc s u v) = blank bm s := by
  refine blank_mono hm ?_; clear hm bm
  simp [State.regUnitSvc]

@[simp] theorem State.unitIn_frame (s : State) (kind : ℕ) (idx : ℕ) (bm : BitVec 48) (hm : 0x64C00000#48 &&& ~~~ bm = 0) : blank bm (State.unitIn s kind idx) = blank bm s := by
  refine blank_mono hm ?_; clear hm bm
  simp only [State.unitIn]
  (repeat' split) <;> simp [blank, State.setCore]

@[simp] theorem State.coreUncorr_frame (s : State) (c : CoreId) (bm : BitVec 48) (hm : 0x44800000#48 &&& ~~~ bm = 0) : blank bm (State.coreUncorr s c) = blank bm s := by
  refine blank_mono hm ?_; clear hm bm
  simp [State.coreUncorr]

@[simp] theorem State.strainUncorr_frame (s : State) (u : UnitId) (bm : BitVec 48) (hm : 0x24800000#48 &&& ~~~ bm = 0) : blank bm (State.strainUncorr s u) = blank bm s := by
  refine blank_mono hm ?_; clear hm bm
  simp [State.strainUncorr]

@[simp] theorem State.regTraceCtl_frame (s : State) (v : W64) (m : W64) (bm : BitVec 48) (hm : 0x4000000000#48 &&& ~~~ bm = 0) : blank bm (State.regTraceCtl s v m) = blank bm s := by
  refine blank_mono hm ?_; clear hm bm
  simp [State.regTraceCtl]

@[simp] theorem State.clampWrite_frame (s : State) (off lo part v top dflt : Nat) (bm : BitVec 48) (hm : 0x220000#48 &&& ~~~ bm = 0) : blank bm (s.clampWrite off lo part v top dflt).2 = blank bm s := by
  refine blank_mono hm ?_; clear hm bm
  simp only [State.clampWrite]; (repeat' split) <;> simp

@[simp] theorem State.regSchedCtl_frame (s : State) (v : W64) (m : W64) (bm : BitVec 48) (hm : 0x2004220000#48 &&& ~~~ bm = 0) : blank bm (State.regSchedCtl s v m) = blank bm s := by
  refine blank_mono hm ?_; clear hm bm
  simp [State.regSchedCtl]

end Sys2Proof.Machine
end

