-- ==== Sys2Proof/Laws/Strain.lean ====
section
/-!
SUPPORT. Sys2Proof/Laws/Strain.lean: all that one step of the Strainer can do, said once for the laws of frames and of memory.
-/

namespace Sys2Proof.Machine

/-- A property of what a choice between two optional states gives. -/
theorem opt_ite_of {α : Type} {c : Prop} [Decidable c] {a b : Option α} {P : α → Prop} (ha : ∀ t, a = some t → P t)
    (hb : ∀ t, b = some t → P t) : ∀ t, (if c then a else b) = some t → P t := by
  intro t h
  by_cases hc : c
  · exact ha t (by rwa [if_pos hc] at h)
  · exact hb t (by rwa [if_neg hc] at h)

/-- All that a step of the Strainer does: its bundle changes, an operation enters the Herder, the bundle fails, or a subtree's root is
taken. -/
theorem State.strainStep_of {P : State → Prop} {s : State} {env : Env} {j : Nat} (h1 : ∀ f, P (s.updBundle j f))
    (h2 : ∀ f i p l, P ((s.updBundle j f).enter i p l)) (h3 : ∀ n, P (s.failBundle env j n))
    (h4 : ∀ b e al w, P (s.subRoot env j b e al w)) : ∀ t, s.strainStep env j = some t → P t := by
  have none_of : ∀ t, (none : Option State) = some t → P t := fun _ h => nomatch h
  have some_of : ∀ x, P x → ∀ t, some x = some t → P t := fun _ hx _ h => Option.some.inj h ▸ hx
  unfold State.strainStep
  cases s.bundle? j with
  | none => exact none_of
  | some b =>
    dsimp only
    refine opt_ite_of none_of ?_
    cases b.pick (decide (56 ≤ b.frontier.length)) with
    | none => exact none_of
    | some e =>
      exact opt_ite_of (some_of _ (h1 _)) (opt_ite_of (some_of _ (h2 _ _ _ _)) (opt_ite_of (some_of _ (h2 _ _ _ _))
        (opt_ite_of (opt_ite_of (some_of _ (h3 _)) (opt_ite_of (some_of _ (h4 _ _ _ _)) (opt_ite_of (some_of _ (h1 _)) (some_of _ (h3 _)))))
          (some_of _ (h1 _)))))

end Sys2Proof.Machine
end

