-- ==== Sys2Proof/Laws/FrameWalk.lean ====
section
/-!
SUPPORT. Sys2Proof/Laws/FrameWalk.lean: what each operation of Machine/{Ray, RayIn, Bundle, Probe, Lease, Result}.lean changes at most: blanked in those components, the state after it is the state before it.
-/

set_option linter.all false

namespace Sys2Proof.Machine
open Sys2Proof

/-! ## Ray -/

theorem State.kAux_frame' {s : State} {env : Env} {p : PartId} {f : Bool} {d : KData} {i : Nat} {t : State} (h : s.kAux env p f d = some (i, t))
    (bm : BitVec 48) (hm : 0x440000#48 &&& ~~~ bm = 0) : blank bm t = blank bm s := State.kAux_frame _ _ _ _ _ h _ hm

theorem State.kAdmit_frame' {s : State} {env : Env} {p : PartId} {d : List KData} {i : List Nat} {t : State} (h : s.kAdmit env p d = some (i, t))
    (bm : BitVec 48) (hm : 0x440000#48 &&& ~~~ bm = 0) : blank bm t = blank bm s := State.kAdmit_frame _ _ _ _ h _ hm

/-- The state a step of the leaf phase leaves. -/

def Leg.st : Leg → State
  | .go s => s
  | .out s => s
  | .bad s _ => s

@[simp] theorem Leg.st_go (s : State) : (Leg.go s).st = s := rfl

@[simp] theorem Leg.st_out (s : State) : (Leg.out s).st = s := rfl

@[simp] theorem Leg.st_bad (s : State) (x : Xfault) : (Leg.bad s x).st = s := rfl

def UnitRes.st : UnitRes → State
  | .got s _ => s
  | .skip s => s
  | .wait s _ => s
  | .bad s _ => s

def RemoteRes.st : RemoteRes → State
  | .root s _ => s
  | .leg l => l.st

theorem st_frame_go {l : Leg} {s t : State} {m : BitVec 48} (e : blank m l.st = blank m s) (h : l = .go t) : blank m t = blank m s := by subst h; exact e

theorem st_frame_out {l : Leg} {s t : State} {m : BitVec 48} (e : blank m l.st = blank m s) (h : l = .out t) : blank m t = blank m s := by subst h; exact e

theorem st_frame_bad {l : Leg} {s t : State} {x : Xfault} {m : BitVec 48} (e : blank m l.st = blank m s) (h : l = .bad t x) : blank m t = blank m s := by subst h; exact e

@[simp] theorem State.rayInvalid_frame (s : State) (i : ℕ) (key : ℕ) (bm : BitVec 48) (hm : 0x1400000#48 &&& ~~~ bm = 0) : blank bm (State.rayInvalid s i key) = blank bm s := by
  refine blank_mono hm ?_; clear hm bm
  simp [State.rayInvalid]

@[simp] theorem State.rayNonres_frame (s : State) (i : ℕ) (bm : BitVec 48) (hm : 0x400000#48 &&& ~~~ bm = 0) : blank bm (State.rayNonres s i) = blank bm s := by
  refine blank_mono hm ?_; clear hm bm
  simp [State.rayNonres]

@[simp] theorem State.freeAux_frame (s : State) (i : ℕ) (bm : BitVec 48) (hm : 0x2000400000#48 &&& ~~~ bm = 0) : blank bm (State.freeAux s i) = blank bm s := by
  refine blank_mono hm ?_; clear hm bm
  simp only [State.freeAux]; (repeat' split) <;> simp

@[simp] theorem State.endRay_frame (s : State) (i : ℕ) (code : ℕ) (bm : BitVec 48) (hm : 0x2000400000#48 &&& ~~~ bm = 0) : blank bm (State.endRay s i code) = blank bm s := by
  refine blank_mono hm ?_; clear hm bm
  simp [State.endRay]

@[simp] theorem State.rayFwdFail_frame (s : State) (i : ℕ) (bm : BitVec 48) (hm : 0x2400400000#48 &&& ~~~ bm = 0) : blank bm (State.rayFwdFail s i) = blank bm s := by
  refine blank_mono hm ?_; clear hm bm
  simp [State.rayFwdFail]

@[simp] theorem State.invokeRay_frame (s : State) (i : ℕ) (role : ℕ) (slot : ℕ) (prim : W32) (t : W32) (u : W16) (v : W16) (rec32 : Rec32) (opq : Bool) (bm : BitVec 48) (hm : 0x2001400000#48 &&& ~~~ bm = 0) : blank bm (State.invokeRay s i role slot prim t u v rec32 opq) = blank bm s := by
  refine blank_mono hm ?_; clear hm bm
  simp only [State.invokeRay]; (repeat' split) <;> simp

@[simp] theorem State.finishRay_frame (s : State) (i : ℕ) (bm : BitVec 48) (hm : 0x2001400000#48 &&& ~~~ bm = 0) : blank bm (State.finishRay s i) = blank bm s := by
  refine blank_mono hm ?_; clear hm bm
  simp only [State.finishRay]; (repeat' split) <;> simp

@[simp] theorem State.resumeRay_frame (s : State) (i : ℕ) (bm : BitVec 48) (hm : 0x2001400000#48 &&& ~~~ bm = 0) : blank bm (State.resumeRay s i) = blank bm s := by
  refine blank_mono hm ?_; clear hm bm
  simp only [State.resumeRay]; (repeat' split) <;> simp

@[simp] theorem State.leave_frame (s : State) (i : ℕ) (c : ℕ) (pos : ℕ) (bm : BitVec 48) (hm : 0x400000#48 &&& ~~~ bm = 0) : blank bm (State.leave s i c pos) = blank bm s := by
  refine blank_mono hm ?_; clear hm bm
  simp [State.leave]

@[simp] theorem State.afterAccept_frame (s : State) (i : Nat) (bm : BitVec 48) (hm : 0x2001400000#48 &&& ~~~ bm = 0) : blank bm (s.afterAccept i).st = blank bm s := by
  refine blank_mono hm ?_; clear hm bm
  unfold State.afterAccept; (repeat' split) <;> simp

theorem State.offer_frame (s : State) (lv : State → State) (i : Nat) (prim t : W32) (u v : W16) (opq : Bool) (bm : BitVec 48) (hl : ∀ x, blank bm (lv x) = blank bm x) (hm : 0x2001400000#48 &&& ~~~ bm = 0) : blank bm (s.offer lv i prim t u v opq).st = blank bm s := by
  unfold State.offer; simp only []
  (repeat' split) <;> simp [hl, State.setRay_frame _ _ _ bm (blank_sub hm (by decide)), State.afterAccept_frame _ _ bm (blank_sub hm (by decide)), State.invokeRay_frame _ _ _ _ _ _ _ _ _ _ bm (blank_sub hm (by decide))]

@[simp] theorem State.leafUnit_frame (s : State) (p : PartId) (i tu line va : Nat) (bm : BitVec 48) (hm : 0x2640008#48 &&& ~~~ bm = 0) : blank bm (s.leafUnit p i tu line va).st = blank bm s := by
  refine blank_mono hm ?_; clear hm bm
  unfold State.leafUnit; simp only []; (repeat' split) <;> simp [UnitRes.st]

theorem primLoop_frame (bm : BitVec 48) (h : State → Nat → Nat → Leg) (hh : ∀ x v p, blank bm (h x v p).st = blank bm x) (v n : Nat) (s : State) (pos : Nat) :
    blank bm (primLoop h v n s pos).st = blank bm s := by
  induction n generalizing s pos with
  | zero => rfl
  | succ n ih =>
    simp only [primLoop]
    split
    · rename_i e; rw [ih]; exact st_frame_go (hh _ _ _) e
    · exact hh _ _ _

theorem unitLoop_frame (bm : BitVec 48) (p : PartId) (i tu line per : Nat) (k : BoxChild) (h : State → Nat → Nat → Leg)
    (hh : ∀ x v p, blank bm (h x v p).st = blank bm x) (hm : 0x2003640008#48 &&& ~~~ bm = 0) (n : Nat) (s : State) (pos : Nat) :
    blank bm (unitLoop p i tu line per k h n s pos).st = blank bm s := by
  induction n generalizing s pos with
  | zero => rfl
  | succ n ih =>
    simp only [unitLoop]
    split
    · rfl
    · split
      · rfl
      · rename_i r _
        have e := State.leafUnit_frame s p i tu line (r.base + 128 * (k.idx + pos / per)) bm (blank_sub hm (by decide))
        split <;> rename_i h1 <;> rw [h1] at e <;> simp only [UnitRes.st] at e
        · exact e
        · rw [← e]; simp [State.leave_frame _ _ _ _ bm (blank_sub hm (by decide)), State.enter_frame _ _ _ _ bm (blank_sub hm (by decide))]
        · rw [← e]; simp [State.leave_frame _ _ _ _ bm (blank_sub hm (by decide))]
        · have e2 := primLoop_frame bm h hh
          split
          · rename_i h2; rw [ih, ← e]; exact st_frame_go (e2 _ _ _ _) h2
          · rw [e2, e]

@[simp] theorem triPrim_frame (i : Nat) (k : BoxChild) (s : State) (v pos : Nat) (bm : BitVec 48) (hm : 0x2001400000#48 &&& ~~~ bm = 0) : blank bm (triPrim i k s v pos).st = blank bm s := by
  refine blank_mono hm ?_; clear hm bm
  unfold triPrim; simp only []
  (repeat' split) <;> first | (simp; done) | exact State.offer_frame _ _ _ _ _ _ _ _ _ (by intro x; simp) (by decide)

@[simp] theorem customPrim_frame (i slot : Nat) (k : BoxChild) (s : State) (v pos : Nat) (bm : BitVec 48) (hm : 0x2001400000#48 &&& ~~~ bm = 0) : blank bm (customPrim i slot k s v pos).st = blank bm s := by
  refine blank_mono hm ?_; clear hm bm
  unfold customPrim; simp only []; (repeat' split) <;> simp

@[simp] theorem State.spillWait_frame (s : State) (i : ℕ) (w : RayWait) (bm : BitVec 48) (hm : 0x2000400000#48 &&& ~~~ bm = 0) : blank bm (State.spillWait s i w) = blank bm s := by
  refine blank_mono hm ?_; clear hm bm
  simp [State.spillWait]

@[simp] theorem State.enterInst_frame (s : State) (i : ℕ) (f : ℕ) (c : ℕ) (pos : ℕ) (fr : InstFrame) (b : Desc) (bm : BitVec 48) (hm : 0x2001400000#48 &&& ~~~ bm = 0) : blank bm (State.enterInst s i f c pos fr b) = blank bm s := by
  refine blank_mono hm ?_; clear hm bm
  simp only [State.enterInst]; (repeat' split) <;> simp

theorem State.instSlot_frame {s : State} {env : Env} {j : Nat} {fr : InstFrame} {i : Nat} {t : State} (h : s.instSlot env j fr = some (i, t)) (bm : BitVec 48) (hm : 0x440000#48 &&& ~~~ bm = 0) : blank bm t = blank bm s := by
  refine blank_mono hm ?_; clear hm bm
  unfold State.instSlot at h
  split at h
  · cases h; rfl
  · split at h
    · rename_i h1
      cases h
      simp [State.kAux_frame _ _ _ _ _ h1]
    · cases h

@[simp] theorem State.dropInst_frame (s : State) (i : ℕ) (bm : BitVec 48) (hm : 0x400000#48 &&& ~~~ bm = 0) : blank bm (State.dropInst s i) = blank bm s := by
  refine blank_mono hm ?_; clear hm bm
  simp only [State.dropInst]; (repeat' split) <;> simp

@[simp] theorem instPrim_frame (env : Env) (p : PartId) (i : Nat) (k : BoxChild) (s : State) (v pos : Nat) (bm : BitVec 48) (hm : 0x2001440000#48 &&& ~~~ bm = 0) : blank bm (instPrim env p i k s v pos).st = blank bm s := by
  refine blank_mono hm ?_; clear hm bm
  unfold instPrim; simp only []
  split
  · rfl
  · split
    · rfl
    · split
      · simp
      · split
        · simp
        · rename_i h
          have e := State.instSlot_frame h 0x2001440000#48 (by decide)
          (repeat' split) <;> simp [e]

@[simp] theorem State.leaveInst_frame (s : State) (i : ℕ) (bm : BitVec 48) (hm : 0x2001400000#48 &&& ~~~ bm = 0) : blank bm (State.leaveInst s i) = blank bm s := by
  refine blank_mono hm ?_; clear hm bm
  simp only [State.leaveInst]; (repeat' split) <;> simp

@[simp] theorem State.goTo_frame (s : State) (i : ℕ) (m : Moves) (bm : BitVec 48) (hm : 0x2001400000#48 &&& ~~~ bm = 0) : blank bm (State.goTo s i m) = blank bm s := by
  refine blank_mono hm ?_; clear hm bm
  simp only [State.goTo]; (repeat' split) <;> simp

@[simp] theorem State.extAppend_frame (s : State) (e : ℕ) (l : List ℕ) (bm : BitVec 48) (hm : 0x400000#48 &&& ~~~ bm = 0) : blank bm (State.extAppend s e l) = blank bm s := by
  refine blank_mono hm ?_; clear hm bm
  simp only [State.extAppend]; (repeat' split) <;> simp

@[simp] theorem State.applyMoves_frame (s : State) (env : Env) (i : ℕ) (m : Moves) (pushes : List ℕ) (bm : BitVec 48) (hm : 0x2001440000#48 &&& ~~~ bm = 0) : blank bm (State.applyMoves s env i m pushes) = blank bm s := by
  refine blank_mono hm ?_; clear hm bm
  simp only [State.applyMoves]
  cases s.extTop i with
  | none =>
    simp only []
    (repeat' split) <;> (try simp)
    rename_i h; simp [State.kAux_frame' h]
  | some t =>
    simp only []
    (repeat' split) <;> (try simp)
    rename_i h; simp [State.kAux_frame' h]

@[simp] theorem State.extPop_frame (s : State) (i : ℕ) (e : ℕ) (l : List ℕ) (bm : BitVec 48) (hm : 0x400000#48 &&& ~~~ bm = 0) : blank bm (State.extPop s i e l) = blank bm s := by
  refine blank_mono hm ?_; clear hm bm
  simp only [State.extPop]; (repeat' split) <;> simp

@[simp] theorem State.commit_frame (s : State) (env : Env) (i : ℕ) (hits : List ℕ) (bm : BitVec 48) (hm : 0x2001440000#48 &&& ~~~ bm = 0) : blank bm (State.commit s env i hits) = blank bm s := by
  refine blank_mono hm ?_; clear hm bm
  simp only [State.commit]; (repeat' split) <;> simp

@[simp] theorem State.remoteChild_frame (s : State) (p : PartId) (i tu line : Nat) (k : BoxChild) (bm : BitVec 48) (hm : 0x2403640008#48 &&& ~~~ bm = 0) : blank bm (s.remoteChild p i tu line k).st = blank bm s := by
  refine blank_mono hm ?_; clear hm bm
  unfold State.remoteChild; simp only []
  split
  · rfl
  · rename_i r _
    split
    · simp [RemoteRes.st]
    · split
      · simp [RemoteRes.st]
      · split
        · split
          · simp [RemoteRes.st]
          · have e := State.leafUnit_frame s p i tu line (subEntryAddr r.subBase.1 r.subBase.2.2 (k.idx % 65536) / 128 * 128) 0x2403640008#48 (by decide)
            split <;> rename_i h1 <;> rw [h1] at e <;> simp only [UnitRes.st] at e <;> rw [← e] <;> simp [RemoteRes.st]
        · simp [RemoteRes.st]

@[simp] theorem State.leafChild_frame (s : State) (env : Env) (p : PartId) (i tu line : Nat) (k : BoxChild) (bm : BitVec 48) (hm : 0x2003640008#48 &&& ~~~ bm = 0) : blank bm (s.leafChild env p i tu line k).st = blank bm s := by
  refine blank_mono hm ?_; clear hm bm
  unfold State.leafChild; simp only []
  (repeat' split) <;> (try simp) <;> exact unitLoop_frame _ _ _ _ _ _ _ _ (by simp) (by decide) _ _ _

@[simp] theorem State.leafDone_frame (s : State) (i : ℕ) (c : ℕ) (bm : BitVec 48) (hm : 0x400000#48 &&& ~~~ bm = 0) : blank bm (State.leafDone s i c) = blank bm s := by
  refine blank_mono hm ?_; clear hm bm
  simp [State.leafDone]

@[simp] theorem State.leafPhase_frame (s : State) (env : Env) (p : PartId) (i tu line : Nat) (inner : List (W32 × Nat × Nat)) (l : List (W32 × BoxChild)) (bm : BitVec 48) (hm : 0x2403640008#48 &&& ~~~ bm = 0) : blank bm (s.leafPhase env p i tu line inner l).st = blank bm s := by
  refine blank_mono hm ?_; clear hm bm
  induction l generalizing s inner with
  | nil => simp [State.leafPhase]
  | cons a r ih =>
    obtain ⟨e, k⟩ := a
    simp only [State.leafPhase]
    have e1 := State.remoteChild_frame s p i tu line k 0x2403640008#48 (by decide)
    have e2 := State.leafChild_frame s env p i tu line k 0x2403640008#48 (by decide)
    split
    · rfl
    · split
      · exact ih _ _
      · split
        · split <;> rename_i h1 <;> rw [h1] at e1 <;> simp only [RemoteRes.st, Leg.st] at e1
          · rw [ih]; exact e1
          · rw [ih]; exact e1
          · exact e1
        · split
          · rename_i h1; rw [h1] at e2; simp only [Leg.st] at e2; rw [ih]; simp [e2]
          · exact e2

@[simp] theorem State.visitRay_frame (s : State) (env : Env) (p : PartId) (i tu line : Nat) (bm : BitVec 48) (hm : 0x2403640008#48 &&& ~~~ bm = 0) : blank bm (s.visitRay env p i tu line).st = blank bm s := by
  refine blank_mono hm ?_; clear hm bm
  unfold State.visitRay; simp only []; (repeat' split) <;> simp

@[simp] theorem State.visitAll_frame (s : State) (env : Env) (p : PartId) (tu line : Nat) (l : List HWait) (bm : BitVec 48) (hm : 0x2403640008#48 &&& ~~~ bm = 0) : blank bm (s.visitAll env p tu line l).st = blank bm s := by
  refine blank_mono hm ?_; clear hm bm
  induction l generalizing s with
  | nil => rfl
  | cons w rest ih =>
    simp only [State.visitAll]
    split
    · rename_i i _
      have e := State.visitRay_frame s env p i tu line 0x2403640008#48 (by decide)
      split <;> rename_i h <;> rw [h] at e <;> simp only [Leg.st] at e
      · rw [ih, e]
      · rw [ih, e]
      · exact e
    · exact ih _

@[simp] theorem State.parkPack_frame (s : State) (env : Env) (p : PartId) (tu : ℕ) (x : Xfault) (l : List HWait) (bm : BitVec 48) (hm : 0x76776C0248#48 &&& ~~~ bm = 0) : blank bm (State.parkPack s env p tu x l) = blank bm s := by
  refine blank_mono hm ?_; clear hm bm
  unfold State.parkPack
  rw [State.parkItems_frame _ _ _ _ _ _ _ (by decide)]
  exact foldl_frame _ _ (by intro x w; beta_reduce; split <;> simp) _ _

@[simp] theorem State.visitPack_frame (s : State) (env : Env) (p : PartId) (tu : ℕ) (line : ℕ) (l : List HWait) (bm : BitVec 48) (hm : 0x76776C0248#48 &&& ~~~ bm = 0) : blank bm (State.visitPack s env p tu line l) = blank bm s := by
  refine blank_mono hm ?_; clear hm bm
  have e := State.visitAll_frame s env p tu line l 0x76776C0248#48 (by decide)
  simp only [State.visitPack]
  split <;> rename_i h <;> rw [h] at e <;> simp only [Leg.st] at e <;> simp [e]

@[simp] theorem State.tuTake_frame (s : State) (tu : TuId) (k : Pack) (bm : BitVec 48) (hm : 0x6000000#48 &&& ~~~ bm = 0) : blank bm (State.tuTake s tu k) = blank bm s := by
  refine blank_mono hm ?_; clear hm bm
  simp [State.tuTake]

@[simp] theorem State.setLastTu_frame (s : State) (tu : TuId) (k : Pack) (bm : BitVec 48) (hm : 0x400000#48 &&& ~~~ bm = 0) : blank bm (State.setLastTu s tu k) = blank bm s := by
  refine blank_mono hm ?_; clear hm bm
  unfold State.setLastTu; apply foldl_frame; intro x a; split <;> simp

@[simp] theorem State.endPack_frame (s : State) (src : ℕ) (tu : TuId) (k : Pack) (bm : BitVec 48) (hm : 0x12000440008#48 &&& ~~~ bm = 0) : blank bm (State.endPack s src tu k) = blank bm s := by
  refine blank_mono hm ?_; clear hm bm
  unfold State.endPack
  exact foldl_frame _ _ (by intro x w; beta_reduce; split <;> simp) _ _

@[simp] theorem State.kennelWord_frame (s : State) (p : PartId) (items : List HWait) (w : ℕ × Check) (bm : BitVec 48) (hm : 0x12004C40008#48 &&& ~~~ bm = 0) : blank bm (State.kennelWord s p items w) = blank bm s := by
  refine blank_mono hm ?_; clear hm bm
  first | (simp [State.kennelWord]; done) | (simp only [State.kennelWord]; (repeat' split) <;> simp; done) | (simp only [State.kennelWord]; (repeat' split) <;> simp [blank]; done)

@[simp] theorem State.markEnd_frame (s : State) (i : ℕ) (bm : BitVec 48) (hm : 0x400000#48 &&& ~~~ bm = 0) : blank bm (State.markEnd s i) = blank bm s := by
  refine blank_mono hm ?_; clear hm bm
  simp [State.markEnd]

@[simp] theorem State.verdict_frame (s : State) (i : ℕ) (v : ℕ) (t : W32) (payload : Option W64) (bm : BitVec 48) (hm : 0x2001400000#48 &&& ~~~ bm = 0) : blank bm (State.verdict s i v t payload) = blank bm s := by
  refine blank_mono hm ?_; clear hm bm
  unfold State.verdict
  split
  · rfl
  · simp only []
    split
    · have e : ∀ p t o, blank 0x2001400000#48 (s.offer id i p t 0 0 o).st = blank 0x2001400000#48 s := fun _ _ _ => State.offer_frame _ _ _ _ _ _ _ _ _ (fun _ => rfl) (by decide)
      (repeat' split) <;> (try simp) <;> (repeat' split) <;> (try simp)
      all_goals
        rename_i h
        first | exact st_frame_go (e _ _ _) h | exact (State.resumeRay_frame _ _ _ (by decide)).trans (st_frame_go (e _ _ _) h) | exact st_frame_out (e _ _ _) h | exact st_frame_bad (e _ _ _) h
    · rfl

/-! ## RayIn -/

@[simp] theorem State.intakeTry_frame (q : QueueId) (go : State → Cmd → State) (l : List Cmd) (s : State) (bm : BitVec 48) (h : ∀ x c, blank bm (go x c) = blank bm x) : blank bm (State.intakeTry q go l s) = blank bm s := by
  induction l generalizing s with
  | nil => rfl
  | cons c r ih => simp only [State.intakeTry]; split <;> simp [ih, h]

@[simp] theorem State.taken_frame (s : State) (r : CmdRef) (bm : BitVec 48) (hm : 0x80000#48 &&& ~~~ bm = 0) : blank bm (State.taken s r) = blank bm s := by
  refine blank_mono hm ?_; clear hm bm
  simp [State.taken]

@[simp] theorem State.holdIntake_frame (s : State) (r : CmdRef) (why : BitVec 5) (bm : BitVec 48) (hm : 0x80000#48 &&& ~~~ bm = 0) : blank bm (State.holdIntake s r why) = blank bm s := by
  refine blank_mono hm ?_; clear hm bm
  first | (simp [State.holdIntake]; done) | (simp only [State.holdIntake]; (repeat' split) <;> simp; done) | (simp only [State.holdIntake]; (repeat' split) <;> simp [blank]; done)

@[simp] theorem State.holdFlow_frame (s : State) (p : PartId) (r : CmdRef) (flow : W16) (bm : BitVec 48) (hm : 0xC0000#48 &&& ~~~ bm = 0) : blank bm (State.holdFlow s p r flow) = blank bm s := by
  refine blank_mono hm ?_; clear hm bm
  first | (simp [State.holdFlow]; done) | (simp only [State.holdFlow]; (repeat' split) <;> simp; done) | (simp only [State.holdFlow]; (repeat' split) <;> simp [blank]; done)

@[simp] theorem State.directRay_frame (s : State) (env : Env) (p : PartId) (c : Cmd) (r : CmdRef) (ray : Ray) (code : ℕ) (bm : BitVec 48) (hm : 0x170706C0008#48 &&& ~~~ bm = 0) : blank bm (State.directRay s env p c r ray code) = blank bm s := by
  refine blank_mono hm ?_; clear hm bm
  simp [State.directRay]

@[simp] theorem State.admitRay_frame (s : State) (env : Env) (p : PartId) (c : Cmd) (r : CmdRef) (ray : Ray) (code : Option ℕ) (bm : BitVec 48) (hm : 0x20114C0000#48 &&& ~~~ bm = 0) : blank bm (State.admitRay s env p c r ray code) = blank bm s := by
  refine blank_mono hm ?_; clear hm bm
  simp only [State.admitRay]
  split
  · simp
  · split
    · rfl
    · split
      · rename_i h
        have e := State.kAdmit_frame' h 0x20114C0000#48 (by decide)
        split <;> split <;> simp [e]
      · simp

@[simp] theorem State.takeRay_frame (s : State) (env : Env) (p : PartId) (c : Cmd) (r : CmdRef) (raw : Slot64) (bm : BitVec 48) (hm : 0x170716C0008#48 &&& ~~~ bm = 0) : blank bm (State.takeRay s env p c r raw) = blank bm s := by
  refine blank_mono hm ?_; clear hm bm
  simp only [State.takeRay]; (repeat' split) <;> simp

@[simp] theorem State.rayFrom_frame (env : Env) (p : PartId) (q : QueueId) (word : Option Slot64) (s : State) (c : Cmd) (bm : BitVec 48) (hm : 0x170716C0008#48 &&& ~~~ bm = 0) : blank bm (State.rayFrom env p q word s c) = blank bm s := by
  refine blank_mono hm ?_; clear hm bm
  first | (simp [State.rayFrom]; done) | (simp only [State.rayFrom]; (repeat' split) <;> simp; done) | (simp only [State.rayFrom]; (repeat' split) <;> simp [blank]; done)

/-! ## Bundle -/

@[simp] theorem State.unpark_frame (s : State) (f : Parked → Bool) (bm : BitVec 48) (hm : 0x1000040000#48 &&& ~~~ bm = 0) : blank bm (State.unpark s f) = blank bm s := by
  refine blank_mono hm ?_; clear hm bm
  simp only [State.unpark]; (repeat' split) <;> (try simp) <;> simp [blank]

@[simp] theorem State.renameParked_frame (s : State) (a : Parked) (b : Parked) (bm : BitVec 48) (hm : 0x1000040000#48 &&& ~~~ bm = 0) : blank bm (State.renameParked s a b) = blank bm s := by
  refine blank_mono hm ?_; clear hm bm
  simp only [State.renameParked]; (repeat' split) <;> (try simp) <;> simp [blank]

@[simp] theorem State.quiet_frame (s : State) (h : ℕ) (bm : BitVec 48) (hm : 0x36274C0240#48 &&& ~~~ bm = 0) : blank bm (State.quiet s h) = blank bm s := by
  refine blank_mono hm ?_; clear hm bm
  unfold State.quiet
  generalize hd : State.unpark _ _ = s1
  have e : blank 0x36274C0240#48 s1 = blank 0x36274C0240#48 s := by rw [← hd, State.unpark_frame _ _ _ (by decide), State.herdDrop_frame _ _ _ (by decide)]
  clear hd
  dsimp only
  split
  · exact e
  · rw [State.updBundle_frame _ _ _ _ (by decide), State.drainAll_frame _ _ (by decide), ← e]
    exact foldl_frame _ _ (fun x l => by rw [State.kFree_frame _ _ _ (by decide), State.timerDel_frame _ _ _ (by decide)]) _ _

@[simp] theorem State.giveBundle_frame (s : State) (env : Env) (h : ℕ) (bm : BitVec 48) (hm : 0x170736C0008#48 &&& ~~~ bm = 0) : blank bm (State.giveBundle s env h) = blank bm s := by
  refine blank_mono hm ?_; clear hm bm
  simp only [State.giveBundle]; (repeat' split) <;> simp

@[simp] theorem State.endBundle_frame (s : State) (env : Env) (h : ℕ) (bm : BitVec 48) (hm : 0x176776C0248#48 &&& ~~~ bm = 0) : blank bm (State.endBundle s env h) = blank bm s := by
  refine blank_mono hm ?_; clear hm bm
  unfold State.endBundle
  dsimp only
  split
  · simp
  · split
    · rw [State.dropForeign_frame _ _ _ (by decide), foldl_frame _ _ (fun x m => State.sendResult_frame _ _ _ _ (by decide)), State.quiet_frame _ _ _ (by decide)]
    · rw [State.giveBundle_frame _ _ _ _ (by decide), State.updBundle_frame _ _ _ _ (by decide), State.quiet_frame _ _ _ (by decide)]

@[simp] theorem State.failBundle_frame (s : State) (env : Env) (h : ℕ) (st : W16) (bm : BitVec 48) (hm : 0x176776C0248#48 &&& ~~~ bm = 0) : blank bm (State.failBundle s env h st) = blank bm s := by
  refine blank_mono hm ?_; clear hm bm
  simp only [State.failBundle]; (repeat' split) <;> simp

@[simp] theorem State.endWalk_frame (s : State) (env : Env) (h : ℕ) (bm : BitVec 48) (hm : 0x176776C0248#48 &&& ~~~ bm = 0) : blank bm (State.endWalk s env h) = blank bm s := by
  refine blank_mono hm ?_; clear hm bm
  simp only [State.endWalk]; (repeat' split) <;> simp

@[simp] theorem State.subRoot_frame (s : State) (env : Env) (h : ℕ) (b : Bundle) (e : FEntry) (al : W32) (tight : Bool) (bm : BitVec 48) (hm : 0x176776C0248#48 &&& ~~~ bm = 0) : blank bm (State.subRoot s env h b e al tight) = blank bm s := by
  refine blank_mono hm ?_; clear hm bm
  simp only [State.subRoot]; (repeat' split) <;> simp

theorem State.strainStep_frame {s : State} {env : Env} {j : Nat} {t : State} (h : s.strainStep env j = some t) (bm : BitVec 48) (hm : 0x176776C0248#48 &&& ~~~ bm = 0) : blank bm t = blank bm s := by
  refine blank_mono hm ?_
  exact State.strainStep_of (P := fun t => blank 0x176776C0248#48 t = blank 0x176776C0248#48 s) (by intros; simp) (by intros; simp)
    (by intros; simp) (by intros; simp) t h

@[simp] theorem State.strainIssue_frame (s : State) (env : Env) (h : ℕ) (x3 : ℕ) (bm : BitVec 48) (hm : 0x176776C0248#48 &&& ~~~ bm = 0) : blank bm (State.strainIssue s env h x3) = blank bm s := by
  refine blank_mono hm ?_; clear hm bm
  induction x3 generalizing s with
  | zero => simp [State.strainIssue]
  | succ n ih =>
    simp only [State.strainIssue]
    split
    · rename_i h; simp [ih, State.strainStep_frame h]
    · rfl

@[simp] theorem State.goOn_frame (s : State) (env : Env) (h : ℕ) (bm : BitVec 48) (hm : 0x176776C0248#48 &&& ~~~ bm = 0) : blank bm (State.goOn s env h) = blank bm s := by
  refine blank_mono hm ?_; clear hm bm
  simp [State.goOn]

/-! ## Probe -/

@[simp] theorem State.beginProbe_frame (s : State) (env : Env) (q : QueueId) (op : ℕ) (bm : BitVec 48) (hm : 0x170706C000C#48 &&& ~~~ bm = 0) : blank bm (State.beginProbe s env q op) = blank bm s := by
  refine blank_mono hm ?_; clear hm bm
  simp only [State.beginProbe]; (repeat' split) <;> simp

@[simp] theorem State.takenBundle_frame (s : State) (r : CmdRef) (n : ℕ) (m : ℕ) (bm : BitVec 48) (hm : 0x80000#48 &&& ~~~ bm = 0) : blank bm (State.takenBundle s r n m) = blank bm s := by
  refine blank_mono hm ?_; clear hm bm
  simp [State.takenBundle]

@[simp] theorem State.directBundle_frame (s : State) (env : Env) (p : PartId) (c : Cmd) (r : CmdRef) (w : Slot64) (b : Bundle) (st : W16) (sized : Bool) (bm : BitVec 48) (hm : 0x170706C0008#48 &&& ~~~ bm = 0) : blank bm (State.directBundle s env p c r w b st sized) = blank bm s := by
  refine blank_mono hm ?_; clear hm bm
  simp [State.directBundle]

@[simp] theorem State.quotaEnd_frame (s : State) (env : Env) (p : PartId) (r : CmdRef) (bm : BitVec 48) (hm : 0x170706C0008#48 &&& ~~~ bm = 0) : blank bm (State.quotaEnd s env p r) = blank bm s := by
  refine blank_mono hm ?_; clear hm bm
  simp [State.quotaEnd]

@[simp] theorem State.admitBundle_frame (s : State) (env : Env) (p : PartId) (c : Cmd) (r : CmdRef) (ws : List Slot64) (b : Bundle) (bm : BitVec 48) (hm : 0x176776C0248#48 &&& ~~~ bm = 0) : blank bm (State.admitBundle s env p c r ws b) = blank bm s := by
  refine blank_mono hm ?_; clear hm bm
  simp only [State.admitBundle]
  (repeat' split) <;> (try simp)
  all_goals
    have e := State.kAdmit_frame' (by assumption) 0x176776C0248#48 (by decide)
    simp [e]

@[simp] theorem State.takeBundle_frame (s : State) (env : Env) (p : PartId) (c : Cmd) (r : CmdRef) (ws : List Slot64) (bm : BitVec 48) (hm : 0x176776C0248#48 &&& ~~~ bm = 0) : blank bm (State.takeBundle s env p c r ws) = blank bm s := by
  refine blank_mono hm ?_; clear hm bm
  simp only [State.takeBundle]; (repeat' split) <;> simp

@[simp] theorem State.placeForeign_frame (s : State) (env : Env) (x2 : ℕ) (bm : BitVec 48) (hm : 0x176776C0248#48 &&& ~~~ bm = 0) : blank bm (State.placeForeign s env x2) = blank bm s := by
  refine blank_mono hm ?_; clear hm bm
  induction x2 generalizing s with
  | zero => simp [State.placeForeign]
  | succ n ih =>
    simp only [State.placeForeign]
    (repeat' split) <;> (try rfl)
    rw [ih]; simp

@[simp] theorem State.bundleFrom_frame (env : Env) (p : PartId) (q : QueueId) (words : List Slot64) (s : State) (c : Cmd) (bm : BitVec 48) (hm : 0x176776C0248#48 &&& ~~~ bm = 0) : blank bm (State.bundleFrom env p q words s c) = blank bm s := by
  refine blank_mono hm ?_; clear hm bm
  first | (simp [State.bundleFrom]; done) | (simp only [State.bundleFrom]; (repeat' split) <;> simp; done) | (simp only [State.bundleFrom]; (repeat' split) <;> simp [blank]; done)

@[simp] theorem State.residentRun_frame (s : State) (p : PartId) (va n : Nat) (c : FaultCtx) (bm : BitVec 48) (hm : 0x240008#48 &&& ~~~ bm = 0) : blank bm (s.residentRun p va n c).2 = blank bm s := by
  refine blank_mono hm ?_; clear hm bm
  simp only [State.residentRun]; (repeat' split) <;> simp

@[simp] theorem State.parkOp_frame (s : State) (env : Env) (k : Pack) (w : HWait) (tu : TuId) (x : Xfault) (bm : BitVec 48) (hm : 0x76776C0248#48 &&& ~~~ bm = 0) : blank bm (State.parkOp s env k w tu x) = blank bm s := by
  refine blank_mono hm ?_; clear hm bm
  first | (simp [State.parkOp]; done) | (simp only [State.parkOp]; (repeat' split) <;> simp; done) | (simp only [State.parkOp]; (repeat' split) <;> simp [blank]; done)

@[simp] theorem State.boundOp_frame (s : State) (env : Env) (tu : TuId) (k : Pack) (w : HWait) (o : ProbeOp) (bm : BitVec 48) (hm : 0x76776C0248#48 &&& ~~~ bm = 0) : blank bm (State.boundOp s env tu k w o) = blank bm s := by
  refine blank_mono hm ?_; clear hm bm
  simp only [State.boundOp]; (repeat' split) <;> simp

@[simp] theorem State.failOps_frame (s : State) (env : Env) (src : ℕ) (tu : TuId) (k : Pack) (bm : BitVec 48) (hm : 0x176776C0248#48 &&& ~~~ bm = 0) : blank bm (State.failOps s env src tu k) = blank bm s := by
  refine blank_mono hm ?_; clear hm bm
  unfold State.failOps; apply foldl_frame; intro x a; split <;> simp

@[simp] theorem State.packOps_frame (s : State) (f : State → HWait → ProbeOp → State) (k : Pack) (bm : BitVec 48) (hf : ∀ x w o, blank bm (f x w o) = blank bm x) (hm : 0x0#48 &&& ~~~ bm = 0) : blank bm (s.packOps f k) = blank bm s := by
  unfold State.packOps; apply foldl_frame; intro x a; split <;> simp [hf]

@[simp] theorem State.bundleWord_frame (s : State) (env : Env) (p : PartId) (l : List ℕ) (w : ℕ × Check) (bm : BitVec 48) (hm : 0x17677EC0248#48 &&& ~~~ bm = 0) : blank bm (State.bundleWord s env p l w) = blank bm s := by
  refine blank_mono hm ?_; clear hm bm
  first | (simp [State.bundleWord]; done) | (simp only [State.bundleWord]; (repeat' split) <;> simp; done) | (simp only [State.bundleWord]; (repeat' split) <;> simp [blank]; done)

@[simp] theorem State.bundleWords_frame (s : State) (env : Env) (p : PartId) (l : List ℕ) (ws : List (ℕ × Check)) (bm : BitVec 48) (hm : 0x17677EC0248#48 &&& ~~~ bm = 0) : blank bm (State.bundleWords s env p l ws) = blank bm s := by
  refine blank_mono hm ?_; clear hm bm
  first | (simp [State.bundleWords]; done) | (simp only [State.bundleWords]; (repeat' split) <;> simp; done) | (simp only [State.bundleWords]; (repeat' split) <;> simp [blank]; done)

@[simp] theorem State.takeBound_frame (s : State) (h : ℕ) (bm : BitVec 48) (hm : 0x20040000#48 &&& ~~~ bm = 0) : blank bm (State.takeBound s h) = blank bm s := by
  refine blank_mono hm ?_; clear hm bm
  simp only [State.takeBound]; (repeat' split) <;> simp

@[simp] theorem State.bufferAdd_frame (s : State) (tu : TuId) (h : ℕ) (bm : BitVec 48) (hm : 0x2000000#48 &&& ~~~ bm = 0) : blank bm (State.bufferAdd s tu h) = blank bm s := by
  refine blank_mono hm ?_; clear hm bm
  simp [State.bufferAdd]

@[simp] theorem State.scoreOp_frame (s : State) (env : Env) (tu : TuId) (k : Pack) (w : HWait) (o : ProbeOp) (bm : BitVec 48) (hm : 0x76776C0248#48 &&& ~~~ bm = 0) : blank bm (State.scoreOp s env tu k w o) = blank bm s := by
  refine blank_mono hm ?_; clear hm bm
  simp only [State.scoreOp]; (repeat' split) <;> simp

@[simp] theorem State.takeScore_frame (s : State) (h : ℕ) (bm : BitVec 48) (hm : 0x20000000#48 &&& ~~~ bm = 0) : blank bm (State.takeScore s h) = blank bm s := by
  refine blank_mono hm ?_; clear hm bm
  simp [State.takeScore]

@[simp] theorem State.strainLost_frame (s : State) (env : Env) (b : Bundle) (bm : BitVec 48) (hm : 0x17677EC0248#48 &&& ~~~ bm = 0) : blank bm (State.strainLost s env b) = blank bm s := by
  refine blank_mono hm ?_; clear hm bm
  simp [State.strainLost]

@[simp] theorem State.reduceChunk_frame (s : State) (b : Bundle) (chunk : List ℕ) (rows : List VRow) (bm : BitVec 48) (hm : 0x20040008#48 &&& ~~~ bm = 0) : blank bm (State.reduceChunk s b chunk rows) = blank bm s := by
  refine blank_mono hm ?_; clear hm bm
  simp [State.reduceChunk]

@[simp] theorem State.issueReduce_frame (s : State) (k : Pack) (c : TuId × ℕ) (bm : BitVec 48) (hm : 0x4001240008#48 &&& ~~~ bm = 0) : blank bm (State.issueReduce s k c) = blank bm s := by
  refine blank_mono hm ?_; clear hm bm
  first | (simp [State.issueReduce]; done) | (simp only [State.issueReduce]; (repeat' split) <;> simp; done) | (simp only [State.issueReduce]; (repeat' split) <;> simp [blank]; done)

@[simp] theorem State.runReduce1_frame (s : State) (env : Env) (b : Bundle) (chunk : List ℕ) (tu : TuId) (bm : BitVec 48) (hm : 0x76776C0248#48 &&& ~~~ bm = 0) : blank bm (State.runReduce1 s env b chunk tu) = blank bm s := by
  refine blank_mono hm ?_; clear hm bm
  first | (simp [State.runReduce1]; done) | (simp only [State.runReduce1]; (repeat' split) <;> simp; done) | (simp only [State.runReduce1]; (repeat' split) <;> simp [blank]; done)

@[simp] theorem State.output_frame (s : State) (b : Bundle) (j : ℕ) (t : Triple) (bm : BitVec 48) (hm : 0x20040008#48 &&& ~~~ bm = 0) : blank bm (State.output s b j t) = blank bm s := by
  refine blank_mono hm ?_; clear hm bm
  simp [State.output]

@[simp] theorem State.mergeOne_frame (s : State) (b : Bundle) (j : Fin 32) (t : Triple) (bm : BitVec 48) (hm : 0x20040008#48 &&& ~~~ bm = 0) : blank bm (State.mergeOne s b j t) = blank bm s := by
  refine blank_mono hm ?_; clear hm bm
  simp only [State.mergeOne]; (repeat' split) <;> simp

@[simp] theorem State.mergeTriple_frame (s : State) (env : Env) (h : ℕ) (j : Fin 32) (bm : BitVec 48) (hm : 0x176776C0248#48 &&& ~~~ bm = 0) : blank bm (State.mergeTriple s env h j) = blank bm s := by
  refine blank_mono hm ?_; clear hm bm
  simp only [State.mergeTriple]; (repeat' split) <;> simp

/-! ## Lease -/

@[simp] theorem State.armLease_frame (s : State) (k : ℕ) (p : PartId) (bm : BitVec 48) (hm : 0x2000000000#48 &&& ~~~ bm = 0) : blank bm (State.armLease s k p) = blank bm s := by
  refine blank_mono hm ?_; clear hm bm
  simp [State.armLease]

@[simp] theorem State.sendLeash_frame (s : State) (p : PartId) (k : ℕ) (x : Leash) (id : W32) (sub : W16) (kind : BitVec 2) (entry : Byte) (t : ChipId) (l : LinkId) (b : MsgBody) (bm : BitVec 48) (hm : 0x2200400040#48 &&& ~~~ bm = 0) : blank bm (State.sendLeash s p k x id sub kind entry t l b) = blank bm s := by
  refine blank_mono hm ?_; clear hm bm
  simp [State.sendLeash]

@[simp] theorem State.sendCancel_frame (s : State) (k : Leash) (bm : BitVec 48) (hm : 0x2600000040#48 &&& ~~~ bm = 0) : blank bm (State.sendCancel s k) = blank bm s := by
  refine blank_mono hm ?_; clear hm bm
  simp only [State.sendCancel]; (repeat' split) <;> simp

@[simp] theorem State.loseLeash_frame (s : State) (k : ℕ) (bm : BitVec 48) (hm : 0x2600480240#48 &&& ~~~ bm = 0) : blank bm (State.loseLeash s k) = blank bm s := by
  refine blank_mono hm ?_; clear hm bm
  simp [State.loseLeash]

@[simp] theorem State.restLeash_frame (s : State) (k : ℕ) (bm : BitVec 48) (hm : 0x2600480240#48 &&& ~~~ bm = 0) : blank bm (State.restLeash s k) = blank bm s := by
  refine blank_mono hm ?_; clear hm bm
  simp [State.restLeash]

@[simp] theorem State.countReissue_frame (s : State) (bm : BitVec 48) (hm : 0x400000000#48 &&& ~~~ bm = 0) : blank bm (State.countReissue s) = blank bm s := by
  refine blank_mono hm ?_; clear hm bm
  simp [State.countReissue]

@[simp] theorem State.reissueRay_frame (s : State) (i : ℕ) (bm : BitVec 48) (hm : 0x2601480240#48 &&& ~~~ bm = 0) : blank bm (State.reissueRay s i) = blank bm s := by
  refine blank_mono hm ?_; clear hm bm
  simp only [State.reissueRay]; (repeat' split) <;> simp

@[simp] theorem State.resendLeash_frame (s : State) (h : ℕ) (k : ℕ) (bm : BitVec 48) (hm : 0x2600400040#48 &&& ~~~ bm = 0) : blank bm (State.resendLeash s h k) = blank bm s := by
  refine blank_mono hm ?_; clear hm bm
  simp only [State.resendLeash]; (repeat' split) <;> simp

@[simp] theorem State.reissueBundle_frame (s : State) (env : Env) (h : ℕ) (lost : List ℕ) (bm : BitVec 48) (hm : 0x176776C0248#48 &&& ~~~ bm = 0) : blank bm (State.reissueBundle s env h lost) = blank bm s := by
  refine blank_mono hm ?_; clear hm bm
  simp only [State.reissueBundle]
  split
  · rfl
  · split
    · simp
    · rw [foldl_frame _ _ (fun x a => State.resendLeash_frame _ _ _ _ (by decide)), foldl_frame _ _ (fun x a => State.loseLeash_frame _ _ _ (by decide))]
      simp only [State.updBundle_frame, State.genUp_frame, BitVec.reduceAnd, BitVec.reduceNot, BitVec.reduceEq]
      rw [foldl_frame]
      · simp
      · intro x a; split <;> simp

@[simp] theorem State.loseOwners_frame (s : State) (env : Env) (ks : List ℕ) (bm : BitVec 48) (hm : 0x176776C0248#48 &&& ~~~ bm = 0) : blank bm (State.loseOwners s env ks) = blank bm s := by
  refine blank_mono hm ?_; clear hm bm
  simp [State.loseOwners]

@[simp] theorem State.forwardRay_frame (s : State) (env : Env) (i : ℕ) (r : Ray) (child : ℕ) (sub : W16) (skip : Option ChipId) (bm : BitVec 48) (hm : 0x76716C0048#48 &&& ~~~ bm = 0) : blank bm (State.forwardRay s env i r child sub skip) = blank bm s := by
  refine blank_mono hm ?_; clear hm bm
  simp only [State.forwardRay]
  (repeat' split) <;> (try simp)
  all_goals
    have e := State.kAux_frame' (by assumption) 0x76716C0048#48 (by decide)
    simp [e]

@[simp] theorem State.freeLeash_frame (s : State) (h : ℕ) (k : ℕ) (bm : BitVec 48) (hm : 0x2620480240#48 &&& ~~~ bm = 0) : blank bm (State.freeLeash s h k) = blank bm s := by
  refine blank_mono hm ?_; clear hm bm
  simp [State.freeLeash]

theorem State.sendBundle_frame {s : State} {env : Env} {b : Bundle} {old : Option (Nat × Leash)} {sub : W16} {kind : BitVec 2} {entry : Byte} {tc : ChipId} {l : LinkId} {x : MsgBody} {i : Nat} {t : State} (h : s.sendBundle env b old sub kind entry tc l x = some (i, t)) (bm : BitVec 48) (hm : 0x2220440040#48 &&& ~~~ bm = 0) : blank bm t = blank bm s := by
  refine blank_mono hm ?_; clear hm bm
  simp only [State.sendBundle] at h
  split at h
  · cases h
  · split at h
    · cases h; simp
    · split at h
      · cases h
      · rename_i h1; cases h; simp [State.kAux_frame' h1]

@[simp] theorem State.forwardEntry_frame (s : State) (env : Env) (b : Bundle) (e : FEntry) (old : Option (ℕ × Leash)) (skip : Option ChipId) (bm : BitVec 48) (hm : 0x176776C0248#48 &&& ~~~ bm = 0) : blank bm (State.forwardEntry s env b e old skip) = blank bm s := by
  refine blank_mono hm ?_; clear hm bm
  simp only [State.forwardEntry]
  (repeat' split) <;> (try simp)
  all_goals
    have e := State.sendBundle_frame (by assumption) 0x176776C0248#48 (by decide)
    simp [e]

@[simp] theorem State.forwardReduce_frame (s : State) (env : Env) (b : Bundle) (sub : W16) (lists : List (List (W32 × W32))) (old : Option (ℕ × Leash)) (skip : Option ChipId) (bm : BitVec 48) (hm : 0x176776C0248#48 &&& ~~~ bm = 0) : blank bm (State.forwardReduce s env b sub lists old skip) = blank bm s := by
  refine blank_mono hm ?_; clear hm bm
  simp only [State.forwardReduce]
  (repeat' split) <;> (try simp)
  all_goals
    have e := State.sendBundle_frame (by assumption) 0x176776C0248#48 (by decide)
    simp [e]

@[simp] theorem State.forwardBundle_frame (s : State) (env : Env) (b : Bundle) (skip : Option ChipId) (bm : BitVec 48) (hm : 0x176776C0248#48 &&& ~~~ bm = 0) : blank bm (State.forwardBundle s env b skip) = blank bm s := by
  refine blank_mono hm ?_; clear hm bm
  simp only [State.forwardBundle]; (repeat' split) <;> simp

@[simp] theorem State.forwardSlot_frame (s : State) (env : Env) (slot : ℕ) (skip : Option ChipId) (bm : BitVec 48) (hm : 0x176776C0248#48 &&& ~~~ bm = 0) : blank bm (State.forwardSlot s env slot skip) = blank bm s := by
  refine blank_mono hm ?_; clear hm bm
  simp only [State.forwardSlot]; (repeat' split) <;> simp

@[simp] theorem State.forwardIssued_frame (s : State) (slot : ℕ) (l : LinkId) (bm : BitVec 48) (hm : 0x4401240008#48 &&& ~~~ bm = 0) : blank bm (State.forwardIssued s slot l) = blank bm s := by
  refine blank_mono hm ?_; clear hm bm
  first | (simp [State.forwardIssued]; done) | (simp only [State.forwardIssued]; (repeat' split) <;> simp; done) | (simp only [State.forwardIssued]; (repeat' split) <;> simp [blank]; done)

@[simp] theorem State.ownerLost_frame (s : State) (p : PartId) (slot : ℕ) (bm : BitVec 48) (hm : 0x10100040008#48 &&& ~~~ bm = 0) : blank bm (State.ownerLost s p slot) = blank bm s := by
  refine blank_mono hm ?_; clear hm bm
  first | (simp [State.ownerLost]; done) | (simp only [State.ownerLost]; (repeat' split) <;> simp; done) | (simp only [State.ownerLost]; (repeat' split) <;> simp [blank]; done)

@[simp] theorem State.forwardTurn_frame (s : State) (env : Env) (slot : ℕ) (bm : BitVec 48) (hm : 0x176776C0248#48 &&& ~~~ bm = 0) : blank bm (State.forwardTurn s env slot) = blank bm s := by
  refine blank_mono hm ?_; clear hm bm
  first | (simp [State.forwardTurn]; done) | (simp only [State.forwardTurn]; (repeat' split) <;> simp; done) | (simp only [State.forwardTurn]; (repeat' split) <;> simp [blank]; done)

@[simp] theorem State.forwardWords_frame (s : State) (env : Env) (p : PartId) (slot : ℕ) (bm : BitVec 48) (hm : 0x17677EC0248#48 &&& ~~~ bm = 0) : blank bm (State.forwardWords s env p slot) = blank bm s := by
  refine blank_mono hm ?_; clear hm bm
  first | (simp [State.forwardWords]; done) | (simp only [State.forwardWords]; (repeat' split) <;> simp; done) | (simp only [State.forwardWords]; (repeat' split) <;> simp [blank]; done)

/-! ## Result -/

@[simp] theorem State.arrived_frame (s : State) (l : LinkId) (h : MsgHdr) (bm : BitVec 48) (hm : 0x2100000008#48 &&& ~~~ bm = 0) : blank bm (State.arrived s l h) = blank bm s := by
  refine blank_mono hm ?_; clear hm bm
  simp [State.arrived]

@[simp] theorem State.oweResult_frame (s : State) (l : LinkId) (b : MsgBody) (bm : BitVec 48) (hm : 0x2200000040#48 &&& ~~~ bm = 0) : blank bm (State.oweResult s l b) = blank bm s := by
  refine blank_mono hm ?_; clear hm bm
  simp [State.oweResult]

@[simp] theorem State.relay_frame (s : State) (l : LinkId) (h : MsgHdr) (b : MsgBody) (bm : BitVec 48) (hm : 0x2600000040#48 &&& ~~~ bm = 0) : blank bm (State.relay s l h b) = blank bm s := by
  refine blank_mono hm ?_; clear hm bm
  simp only [State.relay]; (repeat' split) <;> simp

@[simp] theorem State.staleResult_frame (s : State) (bm : BitVec 48) (hm : 0x400000000#48 &&& ~~~ bm = 0) : blank bm (State.staleResult s) = blank bm s := by
  refine blank_mono hm ?_; clear hm bm
  simp [State.staleResult]

@[simp] theorem State.remoteFault_frame (s : State) (env : Env) (p : PartId) (k : ℕ) (x : Leash) (va : W64) (c : FaultCtx) (w : Parked) (bm : BitVec 48) (hm : 0x70706C0008#48 &&& ~~~ bm = 0) : blank bm (State.remoteFault s env p k x va c w) = blank bm s := by
  refine blank_mono hm ?_; clear hm bm
  simp [State.remoteFault]

@[simp] theorem State.rayDone_frame (s : State) (i : ℕ) (k : ℕ) (x : Leash) (pre : ResultPrefix) (hit : Rec32) (bm : BitVec 48) (hm : 0x2601480240#48 &&& ~~~ bm = 0) : blank bm (State.rayDone s i k x pre hit) = blank bm s := by
  refine blank_mono hm ?_; clear hm bm
  simp only [State.rayDone]; (repeat' split) <;> simp

@[simp] theorem State.probePart_frame (s : State) (env : Env) (h : ℕ) (k : ℕ) (x : Leash) (pre : ResultPrefix) (lists : List (List ProbeEntry)) (bm : BitVec 48) (hm : 0x176776C0248#48 &&& ~~~ bm = 0) : blank bm (State.probePart s env h k x pre lists) = blank bm s := by
  refine blank_mono hm ?_; clear hm bm
  simp only [State.probePart]; (repeat' split) <;> simp

@[simp] theorem State.bundleResult_frame (s : State) (env : Env) (h : ℕ) (k : ℕ) (x : Leash) (pre : ResultPrefix) (bm : BitVec 48) (hm : 0x176776C0248#48 &&& ~~~ bm = 0) : blank bm (State.bundleResult s env h k x pre) = blank bm s := by
  refine blank_mono hm ?_; clear hm bm
  simp only [State.bundleResult]; (repeat' split) <;> simp

@[simp] theorem State.closeQueries_frame (s : State) (env : Env) (h : ℕ) (bm : BitVec 48) (hm : 0x176776C0248#48 &&& ~~~ bm = 0) : blank bm (State.closeQueries s env h) = blank bm s := by
  refine blank_mono hm ?_; clear hm bm
  unfold State.closeQueries
  split
  · rfl
  · simp only [State.endWalk_frame, BitVec.reduceAnd, BitVec.reduceNot, BitVec.reduceEq]
    apply foldl_frame
    intro x a
    (repeat' split) <;> simp

@[simp] theorem State.reducePart_frame (s : State) (env : Env) (h : ℕ) (k : ℕ) (x : Leash) (pre : ResultPrefix) (ts : List (Fin 32 × Triple)) (bm : BitVec 48) (hm : 0x176776C0248#48 &&& ~~~ bm = 0) : blank bm (State.reducePart s env h k x pre ts) = blank bm s := by
  refine blank_mono hm ?_; clear hm bm
  simp [State.reducePart]

@[simp] theorem State.extendLease_frame (s : State) (k : ℕ) (bm : BitVec 48) (hm : 0x2000400000#48 &&& ~~~ bm = 0) : blank bm (State.extendLease s k) = blank bm s := by
  refine blank_mono hm ?_; clear hm bm
  simp only [State.extendLease]; (repeat' split) <;> simp

end Sys2Proof.Machine
end

