-- ==== Sys2Proof/Laws/FrameSetter.lean ====
section
/-!
SUPPORT. Sys2Proof/Laws/FrameSetter.lean: what each operation of Machine/{Setter, Vis, Group, Alu, Boot, SetMem, Tex, SetDbg}.lean changes at most: blanked in those components, the state after it is the state before it.
-/

set_option linter.all false

namespace Sys2Proof.Machine
open Sys2Proof

/-! ## Setter -/

@[simp] theorem blank_freshset (x : State) (v1 : Nat) (v2 : Setter) (bm : BitVec 48) (hm : 0x20040000000#48 &&& ~~~ bm = 0) : blank bm { x with fresh := v1, setter := v2 } = blank bm x := by
  refine blank_mono hm ?_; clear hm bm; simp [blank]

@[simp] theorem State.enqueue_frame (s : State) (c : CoreId) (w : Waiting) (bm : BitVec 48) (hm : 0x40000000#48 &&& ~~~ bm = 0) : blank bm (State.enqueue s c w) = blank bm s := by
  refine blank_mono hm ?_; clear hm bm
  simp [State.enqueue]

@[simp] theorem State.placeGroup_frame (s : State) (c : CoreId) (slot : Fin 16) (x : Group) (bm : BitVec 48) (hm : 0x20040000000#48 &&& ~~~ bm = 0) : blank bm (State.placeGroup s c slot x) = blank bm s := by
  refine blank_mono hm ?_; clear hm bm
  simp only [State.placeGroup]; simp

@[simp] theorem State.placeGroups_frame (s : State) (c : CoreId) (block : ℕ) (rank : ℕ) (x4 : ℕ) (x5 : List Group) (bm : BitVec 48) (hm : 0x20040000000#48 &&& ~~~ bm = 0) : blank bm (State.placeGroups s c block rank x4 x5) = blank bm s := by
  refine blank_mono hm ?_; clear hm bm
  induction x5 generalizing s x4 with
  | nil => simp [State.placeGroups]
  | cons x r ih =>
    simp only [State.placeGroups]
    split
    · rw [ih]; simp
    · rfl

@[simp] theorem State.launchSet_frame (s : State) (set : ℕ) (home : ℕ) (cluster : ℕ) (per : ℕ) (x5 : ℕ) (x6 : List Group) (bm : BitVec 48) (hm : 0x20040000000#48 &&& ~~~ bm = 0) : blank bm (State.launchSet s set home cluster per x5 x6) = blank bm s := by
  refine blank_mono hm ?_; clear hm bm
  induction x5 generalizing s x6 with
  | zero => simp [State.launchSet]
  | succ n ih =>
    cases x6 with
    | nil => simp [State.launchSet]
    | cons x r => simp only [State.launchSet]; rw [ih]; simp

@[simp] theorem State.dispatch_frame (s : State) (core : CoreId) (bm : BitVec 48) (hm : 0x20041000000#48 &&& ~~~ bm = 0) : blank bm (State.dispatch s core) = blank bm s := by
  refine blank_mono hm ?_; clear hm bm
  simp only [State.dispatch]; (repeat' split) <;> simp

@[simp] theorem State.armGroup_frame (s : State) (p : PartId) (cls : BitVec 2) (caddy : BitVec 2) (slot : ℕ) (bm : BitVec 48) (hm : 0x2000000000#48 &&& ~~~ bm = 0) : blank bm (State.armGroup s p cls caddy slot) = blank bm s := by
  refine blank_mono hm ?_; clear hm bm
  first | (simp [State.armGroup]; done) | (simp only [State.armGroup]; (repeat' split) <;> simp; done) | (simp only [State.armGroup]; (repeat' split) <;> simp [blank]; done)

@[simp] theorem State.sendGroup_frame (s : State) (c : CoreId) (x : Machine.Group) (l : List Invoke) (why : ℕ) (bm : BitVec 48) (hm : 0x4041240008#48 &&& ~~~ bm = 0) : blank bm (State.sendGroup s c x l why) = blank bm s := by
  refine blank_mono hm ?_; clear hm bm
  first | (simp [State.sendGroup]; done) | (simp only [State.sendGroup]; (repeat' split) <;> simp; done) | (simp only [State.sendGroup]; (repeat' split) <;> simp [blank]; done)

/-! ## Vis -/

@[simp] theorem State.setTile_frame (s : State) (u : Fin 64) (k : Fin 4) (t : Option Tile) (bm : BitVec 48) (hm : 0x80000000#48 &&& ~~~ bm = 0) : blank bm (State.setTile s u k t) = blank bm s := by
  refine blank_mono hm ?_; clear hm bm
  simp [State.setTile]

@[simp] theorem State.updPass_frame (s : State) (r : CmdRef) (f : Pass → Pass) (bm : BitVec 48) (hm : 0x80000000#48 &&& ~~~ bm = 0) : blank bm (State.updPass s r f) = blank bm s := by
  refine blank_mono hm ?_; clear hm bm
  simp [State.updPass]

@[simp] theorem State.putTile_frame (s : State) (u : Fin 64) (k : Fin 4) (p : PartId) (w : TileOut) (bm : BitVec 48) (hm : 0x80040008#48 &&& ~~~ bm = 0) : blank bm (State.putTile s u k p w) = blank bm s := by
  refine blank_mono hm ?_; clear hm bm
  simp [State.putTile]

@[simp] theorem State.fragDone_frame (s : State) (u : Fin 64) (k : Fin 4) (cmd : Option CmdRef) (serial : ℕ) (pos : ℕ) (block : Fin 8) (rs : Option (List (ℕ × List W32))) (bm : BitVec 48) (hm : 0x80040008#48 &&& ~~~ bm = 0) : blank bm (State.fragDone s u k cmd serial pos block rs) = blank bm s := by
  refine blank_mono hm ?_; clear hm bm
  simp only [State.fragDone]; (repeat' split) <;> simp

@[simp] theorem State.fragNow_frame (s : State) (u : Fin 64) (k : Fin 4) (cmd : Option CmdRef) (serial : ℕ) (pos : ℕ) (block : Fin 8) (rs : List (ℕ × List W32)) (bm : BitVec 48) (hm : 0x80040008#48 &&& ~~~ bm = 0) : blank bm (State.fragNow s u k cmd serial pos block rs) = blank bm s := by
  refine blank_mono hm ?_; clear hm bm
  first | (simp [State.fragNow]; done) | (simp only [State.fragNow]; (repeat' split) <;> simp; done) | (simp only [State.fragNow]; (repeat' split) <;> simp [blank]; done)

@[simp] theorem State.markFrag_frame (s : State) (u : Fin 64) (k : Fin 4) (cmd : Option CmdRef) (serial : ℕ) (bm : BitVec 48) (hm : 0x80000000#48 &&& ~~~ bm = 0) : blank bm (State.markFrag s u k cmd serial) = blank bm s := by
  refine blank_mono hm ?_; clear hm bm
  first | (simp [State.markFrag]; done) | (simp only [State.markFrag]; (repeat' split) <;> simp; done) | (simp only [State.markFrag]; (repeat' split) <;> simp [blank]; done)

/-! ## Group -/

/-- The state an instruction's run leaves; `d` where it stops. -/
def Ran.st (d : State) : Ran → State
  | .done s => s
  | .jump s _ => s
  | .hold s _ => s
  | .gone s => s
  | .stop s _ => s
  | _ => d

@[simp] theorem Ran.st_done (d s : State) : (Ran.done s).st d = s := rfl

@[simp] theorem Ran.st_jump (d s : State) (pc : W32) : (Ran.jump s pc).st d = s := rfl

@[simp] theorem Ran.st_hold (d s : State) (w : GWait) : (Ran.hold s w).st d = s := rfl

@[simp] theorem Ran.st_gone (d s : State) : (Ran.gone s).st d = s := rfl

@[simp] theorem Ran.st_trap (d : State) (n : Nat) : (Ran.trap n).st d = d := rfl

@[simp] theorem Ran.st_fault (d : State) (x : Xfault) : (Ran.fault x).st d = d := rfl

@[simp] theorem Ran.st_stop (d s : State) (n : Nat) : (Ran.stop s n).st d = s := rfl

theorem State.sendReply_frame {s : State} {x : PortMsg} {t : State} (h : s.sendReply x = some t) (bm : BitVec 48) (hm : 0x10000020#48 &&& ~~~ bm = 0) : blank bm t = blank bm s := by
  refine blank_mono hm ?_; clear hm bm
  unfold State.sendReply at h
  (repeat' split at h) <;> cases h
  simp

@[simp] theorem State.sendReplies_frame (s : State) (x1 : List PortMsg) (bm : BitVec 48) (hm : 0x50000020#48 &&& ~~~ bm = 0) : blank bm (State.sendReplies s x1) = blank bm s := by
  refine blank_mono hm ?_; clear hm bm
  induction x1 generalizing s with
  | nil => simp [State.sendReplies]
  | cons a r ih =>
    simp only [State.sendReplies]
    split
    · rename_i h; rw [ih]; exact State.sendReply_frame h _ (by decide)
    · simp [ih]

@[simp] theorem State.flushReplies_frame (s : State) (bm : BitVec 48) (hm : 0x50000020#48 &&& ~~~ bm = 0) : blank bm (State.flushReplies s) = blank bm s := by
  refine blank_mono hm ?_; clear hm bm
  simp [State.flushReplies]

@[simp] theorem State.reply_frame (s : State) (p : PartId) (hdr : Slot64) (status : Byte) (args : List (BitVec 128)) (bm : BitVec 48) (hm : 0x50000020#48 &&& ~~~ bm = 0) : blank bm (State.reply s p hdr status args) = blank bm s := by
  refine blank_mono hm ?_; clear hm bm
  simp [State.reply]

@[simp] theorem State.rayHalt_frame (s : State) (x : Group) (halt : Bool) (bm : BitVec 48) (hm : 0x400000#48 &&& ~~~ bm = 0) : blank bm (State.rayHalt s x halt) = blank bm s := by
  refine blank_mono hm ?_; clear hm bm
  simp [State.rayHalt]

@[simp] theorem State.barriers_frame (s : State) (block : ℕ) (bm : BitVec 48) (hm : 0x40400000#48 &&& ~~~ bm = 0) : blank bm (State.barriers s block) = blank bm s := by
  refine blank_mono hm ?_; clear hm bm
  simp [State.barriers]

@[simp] theorem State.updBlock_frame (s : State) (id : ℕ) (f : Block → Block) (bm : BitVec 48) (hm : 0x40000000#48 &&& ~~~ bm = 0) : blank bm (State.updBlock s id f) = blank bm s := by
  refine blank_mono hm ?_; clear hm bm
  simp [State.updBlock]

@[simp] theorem State.locPut_frame (s : State) (id : ℕ) (off : ℕ) (n : ℕ) (v : ℕ) (bm : BitVec 48) (hm : 0x40000000#48 &&& ~~~ bm = 0) : blank bm (State.locPut s id off n v) = blank bm s := by
  refine blank_mono hm ?_; clear hm bm
  first | (simp [State.locPut]; done) | (simp only [State.locPut]; (repeat' split) <;> simp; done) | (simp only [State.locPut]; (repeat' split) <;> simp [blank]; done)

@[simp] theorem State.dropSpilled_frame (s : State) (x : Machine.Group) (m : W32) (bm : BitVec 48) (hm : 0x40000000#48 &&& ~~~ bm = 0) : blank bm (State.dropSpilled s x m) = blank bm s := by
  refine blank_mono hm ?_; clear hm bm
  first | (simp [State.dropSpilled]; done) | (simp only [State.dropSpilled]; (repeat' split) <;> simp; done) | (simp only [State.dropSpilled]; (repeat' split) <;> simp [blank]; done)

@[simp] theorem State.publish_frame (s : State) (bm : BitVec 48) (hm : 0x40200000#48 &&& ~~~ bm = 0) : blank bm (State.publish s) = blank bm s := by
  refine blank_mono hm ?_; clear hm bm
  first | (simp [State.publish]; done) | (simp only [State.publish]; (repeat' split) <;> simp; done) | (simp only [State.publish]; (repeat' split) <;> simp [blank]; done)

@[simp] theorem State.mapPend_frame (s : State) (f : PendStore → PendStore) (bm : BitVec 48) (hm : 0x40000000#48 &&& ~~~ bm = 0) : blank bm (State.mapPend s f) = blank bm s := by
  refine blank_mono hm ?_; clear hm bm
  first | (simp [State.mapPend]; done) | (simp only [State.mapPend]; (repeat' split) <;> simp; done) | (simp only [State.mapPend]; (repeat' split) <;> simp [blank]; done)

@[simp] theorem State.ackPend_frame (s : State) (num : ℕ) (bm : BitVec 48) (hm : 0x40200000#48 &&& ~~~ bm = 0) : blank bm (State.ackPend s num) = blank bm s := by
  refine blank_mono hm ?_; clear hm bm
  first | (simp [State.ackPend]; done) | (simp only [State.ackPend]; (repeat' split) <;> simp; done) | (simp only [State.ackPend]; (repeat' split) <;> simp [blank]; done)

@[simp] theorem State.loosen_frame (s : State) (block : ℕ) (inBlock : ℕ) (bm : BitVec 48) (hm : 0x40200000#48 &&& ~~~ bm = 0) : blank bm (State.loosen s block inBlock) = blank bm s := by
  refine blank_mono hm ?_; clear hm bm
  first | (simp [State.loosen]; done) | (simp only [State.loosen]; (repeat' split) <;> simp; done) | (simp only [State.loosen]; (repeat' split) <;> simp [blank]; done)

@[simp] theorem State.reportGroup_frame (s : State) (x : Machine.Group) (bm : BitVec 48) (hm : 0x81040008#48 &&& ~~~ bm = 0) : blank bm (State.reportGroup s x) = blank bm s := by
  refine blank_mono hm ?_; clear hm bm
  first | (simp [State.reportGroup]; done) | (simp only [State.reportGroup]; (repeat' split) <;> simp; done) | (simp only [State.reportGroup]; (repeat' split) <;> simp [blank]; done)

@[simp] theorem State.freeSets_frame (s : State) (bm : BitVec 48) (hm : 0x40000000#48 &&& ~~~ bm = 0) : blank bm (State.freeSets s) = blank bm s := by
  refine blank_mono hm ?_; clear hm bm
  simp [State.freeSets]

@[simp] theorem State.blockEnded_frame (s : State) (block : ℕ) (bm : BitVec 48) (hm : 0x40000000#48 &&& ~~~ bm = 0) : blank bm (State.blockEnded s block) = blank bm s := by
  refine blank_mono hm ?_; clear hm bm
  simp [State.blockEnded]

@[simp] theorem State.dropWrites_frame (s : State) (g : GroupRef) (bm : BitVec 48) (hm : 0x10000000#48 &&& ~~~ bm = 0) : blank bm (State.dropWrites s g) = blank bm s := by
  refine blank_mono hm ?_; clear hm bm
  simp [State.dropWrites]

@[simp] theorem State.dropScorer_frame (s : State) (x : Machine.Group) (bm : BitVec 48) (hm : 0x2007000000#48 &&& ~~~ bm = 0) : blank bm (State.dropScorer s x) = blank bm s := by
  refine blank_mono hm ?_; clear hm bm
  first | (simp [State.dropScorer]; done) | (simp only [State.dropScorer]; (repeat' split) <;> simp; done) | (simp only [State.dropScorer]; (repeat' split) <;> simp [blank]; done)

@[simp] theorem State.leaveSlot_frame (s : State) (g : GroupRef) (x : Group) (bm : BitVec 48) (hm : 0x30D7640008#48 &&& ~~~ bm = 0) : blank bm (State.leaveSlot s g x) = blank bm s := by
  refine blank_mono hm ?_; clear hm bm
  simp [State.leaveSlot]

@[simp] theorem State.laneVerdict_frame (s : State) (role : ℕ) (i : ℕ) (r : List W32) (bm : BitVec 48) (hm : 0x2001400000#48 &&& ~~~ bm = 0) : blank bm (State.laneVerdict s role i r) = blank bm s := by
  refine blank_mono hm ?_; clear hm bm
  simp [State.laneVerdict]

@[simp] theorem State.giveResults_frame (s : State) (x : Group) (bm : BitVec 48) (hm : 0x20D1440028#48 &&& ~~~ bm = 0) : blank bm (State.giveResults s x) = blank bm s := by
  refine blank_mono hm ?_; clear hm bm
  unfold State.giveResults
  split
  · apply foldl_frame; intro y a; split <;> simp
  · simp
  · simp

@[simp] theorem State.finishGroup_frame (s : State) (g : GroupRef) (x : Group) (bm : BitVec 48) (hm : 0x30D7640028#48 &&& ~~~ bm = 0) : blank bm (State.finishGroup s g x) = blank bm s := by
  refine blank_mono hm ?_; clear hm bm
  simp [State.finishGroup]

@[simp] theorem State.acceptSome_frame (s : State) (x : Machine.Group) (bm : BitVec 48) (hm : 0x80040008#48 &&& ~~~ bm = 0) : blank bm (State.acceptSome s x) = blank bm s := by
  refine blank_mono hm ?_; clear hm bm
  first | (simp [State.acceptSome]; done) | (simp only [State.acceptSome]; (repeat' split) <;> simp; done) | (simp only [State.acceptSome]; (repeat' split) <;> simp [blank]; done)

@[simp] theorem State.acceptMore_frame (s : State) (n : Nat) (bm : BitVec 48) (hm : 0x30D7640028#48 &&& ~~~ bm = 0) : blank bm (s.acceptMore n) = blank bm s := by
  refine blank_mono hm ?_; clear hm bm
  induction n generalizing s with
  | zero => rfl
  | succ n ih => simp only [State.acceptMore]; split <;> simp [ih]

@[simp] theorem State.failResults_frame (s : State) (x : Group) (code : ℕ) (bm : BitVec 48) (hm : 0x20D0440028#48 &&& ~~~ bm = 0) : blank bm (State.failResults s x code) = blank bm s := by
  refine blank_mono hm ?_; clear hm bm
  unfold State.failResults
  split
  · apply foldl_frame; intro y a; (repeat' split) <;> simp
  · simp
  · simp

@[simp] theorem State.endGroup_frame (s : State) (g : GroupRef) (x : Group) (bm : BitVec 48) (hm : 0x30D7640028#48 &&& ~~~ bm = 0) : blank bm (State.endGroup s g x) = blank bm s := by
  refine blank_mono hm ?_; clear hm bm
  simp [State.endGroup]

@[simp] theorem State.lostGroup_frame (s : State) (src : ℕ) (g : GroupRef) (x : Machine.Group) (bm : BitVec 48) (hm : 0x130D7640028#48 &&& ~~~ bm = 0) : blank bm (State.lostGroup s src g x) = blank bm s := by
  refine blank_mono hm ?_; clear hm bm
  first | (simp [State.lostGroup]; done) | (simp only [State.lostGroup]; (repeat' split) <;> simp; done) | (simp only [State.lostGroup]; (repeat' split) <;> simp [blank]; done)

@[simp] theorem State.containGroup_frame (s : State) (g : GroupRef) (x : Group) (bm : BitVec 48) (hm : 0x130D7E40028#48 &&& ~~~ bm = 0) : blank bm (State.containGroup s g x) = blank bm s := by
  refine blank_mono hm ?_; clear hm bm
  simp [State.containGroup]

@[simp] theorem State.endSaved_frame (s : State) (e : GroupRef × Machine.Group) (code : ℕ) (bm : BitVec 48) (hm : 0x30D7640028#48 &&& ~~~ bm = 0) : blank bm (State.endSaved s e code) = blank bm s := by
  refine blank_mono hm ?_; clear hm bm
  simp [State.endSaved]

@[simp] theorem State.memFault_frame (s : State) (env : Env) (g : GroupRef) (x : Group) (f : Xfault) (bm : BitVec 48) (hm : 0x50706C0008#48 &&& ~~~ bm = 0) : blank bm (State.memFault s env g x f) = blank bm s := by
  refine blank_mono hm ?_; clear hm bm
  simp [State.memFault]

@[simp] theorem State.trap_frame (s : State) (env : Env) (g : GroupRef) (x : Group) (code : ℕ) (bm : BitVec 48) (hm : 0x30D7640028#48 &&& ~~~ bm = 0) : blank bm (State.trap s env g x code) = blank bm s := by
  refine blank_mono hm ?_; clear hm bm
  simp [State.trap]

@[simp] theorem State.put_frame (s : State) (g : GroupRef) (x : Group) (bm : BitVec 48) (hm : 0x40000000#48 &&& ~~~ bm = 0) : blank bm (State.put s g x) = blank bm s := by
  refine blank_mono hm ?_; clear hm bm
  simp [State.put]

@[simp] theorem State.stepped_frame (s : State) (g : GroupRef) (bm : BitVec 48) (hm : 0x40400000#48 &&& ~~~ bm = 0) : blank bm (State.stepped s g) = blank bm s := by
  refine blank_mono hm ?_; clear hm bm
  simp only [State.stepped]; (repeat' split) <;> simp

@[simp] theorem State.instr_frame (s : State) (g : GroupRef) (env : Env) (check : Check) (f : State → Group → Ran) (bm : BitVec 48) (hf : ∀ x y, blank bm ((f x y).st x) = blank bm x) (hm : 0x170F7EC0028#48 &&& ~~~ bm = 0) : blank bm (s.instr g env check f) = blank bm s := by
  unfold State.instr
  split
  · rfl
  · rename_i x _
    have e := (hf (s.doIf (decide (check = .corrected)) State.errCorrected) x).trans
      (State.doIf_frame s _ State.errCorrected bm (fun y => State.errCorrected_frame y _ (blank_sub hm (by decide))))
    split
    · exact State.memFault_frame _ _ _ _ _ _ (blank_sub hm (by decide))
    · split
      · exact State.containGroup_frame _ _ _ _ (blank_sub hm (by decide))
      · split
        · rw [State.acceptMore_frame _ _ _ (blank_sub hm (by decide)), State.lostGroup_frame _ _ _ _ _ (blank_sub hm (by decide))]
        · dsimp only
          split <;> rename_i h <;> rw [h] at e <;> simp only [Ran.st] at e
          · rw [State.stepped_frame _ _ _ (blank_sub hm (by decide)), State.updGroup_frame _ _ _ _ (blank_sub hm (by decide))]; exact e
          · rw [State.stepped_frame _ _ _ (blank_sub hm (by decide)), State.updGroup_frame _ _ _ _ (blank_sub hm (by decide))]; exact e
          · rw [State.barriers_frame _ _ _ (blank_sub hm (by decide)), State.updGroup_frame _ _ _ _ (blank_sub hm (by decide))]; exact e
          · rw [State.trap_frame _ _ _ _ _ _ (blank_sub hm (by decide))]; exact e
          · rw [State.trap_frame _ _ _ _ _ _ (blank_sub hm (by decide))]; exact e
          · rw [State.memFault_frame _ _ _ _ _ _ (blank_sub hm (by decide))]; exact e
          · exact e

@[simp] theorem State.wrapUp_frame (s : State) (g : GroupRef) (x : Machine.Group) (bm : BitVec 48) (hm : 0x30D7640028#48 &&& ~~~ bm = 0) : blank bm (State.wrapUp s g x) = blank bm s := by
  refine blank_mono hm ?_; clear hm bm
  first | (simp [State.wrapUp]; done) | (simp only [State.wrapUp]; (repeat' split) <;> simp; done) | (simp only [State.wrapUp]; (repeat' split) <;> simp [blank]; done)

@[simp] theorem State.groupAck_frame (s : State) (g : GroupRef) (bm : BitVec 48) (hm : 0x30D7640028#48 &&& ~~~ bm = 0) : blank bm (State.groupAck s g) = blank bm s := by
  refine blank_mono hm ?_; clear hm bm
  simp only [State.groupAck]; (repeat' split) <;> simp

@[simp] theorem State.launchCalls_frame (s : State) (port : PortId) (slot : ℕ) (g : Prog) (bm : BitVec 48) (hm : 0x40000000#48 &&& ~~~ bm = 0) : blank bm (State.launchCalls s port slot g) = blank bm s := by
  refine blank_mono hm ?_; clear hm bm
  simp only [State.launchCalls]; (repeat' split) <;> simp

/-! ## Alu -/

@[simp] theorem State.scoreGroup_frame (s : State) (block : ℕ) (inBlock : ℕ) (bm : BitVec 48) (hm : 0x40440008#48 &&& ~~~ bm = 0) : blank bm (State.scoreGroup s block inBlock) = blank bm s := by
  refine blank_mono hm ?_; clear hm bm
  first | (simp [State.scoreGroup]; done) | (simp only [State.scoreGroup]; (repeat' split) <;> simp; done) | (simp only [State.scoreGroup]; (repeat' split) <;> simp [blank]; done)

@[simp] theorem State.packGroups_frame (s : State) (f : State → Nat → Nat → State) (k : Pack) (bm : BitVec 48) (hf : ∀ x b j, blank bm (f x b j) = blank bm x) : blank bm (s.packGroups f k) = blank bm s := by
  unfold State.packGroups
  exact foldl_frame _ _ (by intro x w; beta_reduce; split <;> simp [hf]) _ _

@[simp] theorem State.scoreLost_frame (s : State) (src : ℕ) (tu : TuId) (block : ℕ) (inBlock : ℕ) (bm : BitVec 48) (hm : 0x130D7640028#48 &&& ~~~ bm = 0) : blank bm (State.scoreLost s src tu block inBlock) = blank bm s := by
  refine blank_mono hm ?_; clear hm bm
  first | (simp [State.scoreLost]; done) | (simp only [State.scoreLost]; (repeat' split) <;> simp; done) | (simp only [State.scoreLost]; (repeat' split) <;> simp [blank]; done)

/-! ## Boot -/

@[simp] theorem State.toReset_frame (s : State) (keep : Bool) (bm : BitVec 48) (hm : 0x1FFFFDFFF13#48 &&& ~~~ bm = 0) : blank bm (State.toReset s keep) = blank bm s := by
  refine blank_mono hm ?_; clear hm bm
  simp [State.toReset, blank]

@[simp] theorem State.regBlkReset_frame (s : State) (u : Bool) (v : W64) (bm : BitVec 48) (hm : 0x200B#48 &&& ~~~ bm = 0) : blank bm (State.regBlkReset s u v) = blank bm s := by
  refine blank_mono hm ?_; clear hm bm
  simp only [State.regBlkReset]; (repeat' split) <;> (try simp) <;> simp [blank]

@[simp] theorem State.readFuses_frame (s : State) (i : ReleaseInfo) (bm : BitVec 48) (hm : 0x400#48 &&& ~~~ bm = 0) : blank bm (State.readFuses s i) = blank bm s := by
  refine blank_mono hm ?_; clear hm bm
  simp only [State.readFuses]; (repeat' split) <;> (try simp) <;> simp [blank]

@[simp] theorem State.bootTests_frame (s : State) (i : ReleaseInfo) (bm : BitVec 48) (hm : 0x1200480030A#48 &&& ~~~ bm = 0) : blank bm (State.bootTests s i) = blank bm s := by
  refine blank_mono hm ?_; clear hm bm
  simp only [State.bootTests]; (repeat' split) <;> (try simp) <;> simp [blank]

@[simp] theorem State.bootFuses_frame (s : State) (i : ReleaseInfo) (bm : BitVec 48) (hm : 0x1200480070A#48 &&& ~~~ bm = 0) : blank bm (State.bootFuses s i) = blank bm s := by
  refine blank_mono hm ?_; clear hm bm
  simp [State.bootFuses]

@[simp] theorem State.leaveReset_frame (s : State) (i : ReleaseInfo) (bm : BitVec 48) (hm : 0x1200480070F#48 &&& ~~~ bm = 0) : blank bm (State.leaveReset s i) = blank bm s := by
  refine blank_mono hm ?_; clear hm bm
  simp only [State.leaveReset]; (repeat' split) <;> (try simp) <;> simp [blank]

@[simp] theorem State.regFuse_frame (s : State) (u : Bool) (v : W64) (i : ReleaseInfo) (bm : BitVec 48) (hm : 0x1200480270A#48 &&& ~~~ bm = 0) : blank bm (State.regFuse s u v i) = blank bm s := by
  refine blank_mono hm ?_; clear hm bm
  simp [State.regFuse]

@[simp] theorem State.regMcCtl_frame (s : State) (u : Bool) (v : W64) (bm : BitVec 48) (hm : 0x2B08#48 &&& ~~~ bm = 0) : blank bm (State.regMcCtl s u v) = blank bm s := by
  refine blank_mono hm ?_; clear hm bm
  simp only [State.regMcCtl]; (repeat' split) <;> (try simp) <;> simp [blank]

@[simp] theorem State.regUnlock_frame (s : State) (key : W32) (bm : BitVec 48) (hm : 0x3000#48 &&& ~~~ bm = 0) : blank bm (State.regUnlock s key) = blank bm s := by
  refine blank_mono hm ?_; clear hm bm
  simp only [State.regUnlock]; (repeat' split) <;> (try simp) <;> simp [blank]

@[simp] theorem State.onPtab_frame (s : State) (p : PartId) (w : Fin 4) (f : Tri W64 → Tri W64) (bm : BitVec 48) (hm : 0x4000#48 &&& ~~~ bm = 0) : blank bm (State.onPtab s p w f) = blank bm s := by
  refine blank_mono hm ?_; clear hm bm
  simp [State.onPtab]

@[simp] theorem State.onPtabShadow_frame (s : State) (p : PartId) (w : Fin 4) (f : Tri W64 → Tri W64) (bm : BitVec 48) (hm : 0x4000#48 &&& ~~~ bm = 0) : blank bm (State.onPtabShadow s p w f) = blank bm s := by
  refine blank_mono hm ?_; clear hm bm
  first | (simp [State.onPtabShadow]; done) | (simp only [State.onPtabShadow]; (repeat' split) <;> simp; done) | (simp only [State.onPtabShadow]; (repeat' split) <;> simp [blank]; done)

@[simp] theorem State.upset_frame (s : State) (u : Upset) (bm : BitVec 48) (hm : 0x10000D400#48 &&& ~~~ bm = 0) : blank bm (State.upset s u) = blank bm s := by
  refine blank_mono hm ?_; clear hm bm
  simp only [State.upset]; (repeat' split) <;> simp

@[simp] theorem State.voted_frame (s : State) (item : ℕ) (bm : BitVec 48) (hm : 0x10000002000#48 &&& ~~~ bm = 0) : blank bm (State.voted s item) = blank bm s := by
  refine blank_mono hm ?_; clear hm bm
  simp only [State.voted]; (repeat' split) <;> (try simp) <;> simp [blank]

@[simp] theorem State.voteFailed_frame (s : State) (item : ℕ) (bm : BitVec 48) (hm : 0x2008#48 &&& ~~~ bm = 0) : blank bm (State.voteFailed s item) = blank bm s := by
  refine blank_mono hm ?_; clear hm bm
  simp only [State.voteFailed]; (repeat' split) <;> (try simp) <;> simp [blank]

theorem State.vote_frame {α : Type} [DecidableEq α] (s : State) (item : Nat) (t : Tri α) (put : State → Tri α → State) (lost : State → State) (bm : BitVec 48)
    (hp : ∀ x y, blank bm (put x y) = blank bm x) (hl : ∀ x, blank bm (lost x) = blank bm x) (hm : 0x10000002008#48 &&& ~~~ bm = 0) :
    blank bm (s.vote item t put lost) = blank bm s := by
  unfold State.vote
  split
  · rfl
  · split
    · rw [hl]; exact State.voteFailed_frame _ _ _ (blank_sub hm (by decide))
    · rw [State.voted_frame _ _ _ (blank_sub hm (by decide)), hp]

@[simp] theorem State.votePtabW_frame (s : State) (p : PartId) (w : Fin 4) (bm : BitVec 48) (hm : 0x1000000610A#48 &&& ~~~ bm = 0) : blank bm (State.votePtabW s p w) = blank bm s := by
  refine blank_mono hm ?_; clear hm bm
  unfold State.votePtabW
  exact State.vote_frame _ _ _ _ _ _ (fun x y => by simp) (fun x => by simp) (by decide)

@[simp] theorem State.votePtabShadow_frame (s : State) (p : PartId) (w : Fin 4) (bm : BitVec 48) (hm : 0x1000000610A#48 &&& ~~~ bm = 0) : blank bm (State.votePtabShadow s p w) = blank bm s := by
  refine blank_mono hm ?_; clear hm bm
  unfold State.votePtabShadow
  exact State.vote_frame _ _ _ _ _ _ (fun x y => by simp) (fun x => by simp) (by decide)

@[simp] theorem State.voteOwnBase_frame (s : State) (bm : BitVec 48) (hm : 0x1010000210A#48 &&& ~~~ bm = 0) : blank bm (State.voteOwnBase s) = blank bm s := by
  refine blank_mono hm ?_; clear hm bm
  unfold State.voteOwnBase
  exact State.vote_frame _ _ _ _ _ _ (fun x y => by simp) (fun x => by simp) (by decide)

@[simp] theorem State.voteEpoch_frame (s : State) (bm : BitVec 48) (hm : 0x1010000210A#48 &&& ~~~ bm = 0) : blank bm (State.voteEpoch s) = blank bm s := by
  refine blank_mono hm ?_; clear hm bm
  unfold State.voteEpoch
  exact State.vote_frame _ _ _ _ _ _ (fun x y => by simp) (fun x => by simp) (by decide)

@[simp] theorem State.voteSel_frame (s : State) (bm : BitVec 48) (hm : 0x1000000A10A#48 &&& ~~~ bm = 0) : blank bm (State.voteSel s) = blank bm s := by
  refine blank_mono hm ?_; clear hm bm
  unfold State.voteSel
  exact State.vote_frame _ _ _ _ _ _ (fun x y => by simp) (fun x => by simp) (by decide)

@[simp] theorem State.voteLock_frame (s : State) (bm : BitVec 48) (hm : 0x10000003008#48 &&& ~~~ bm = 0) : blank bm (State.voteLock s) = blank bm s := by
  refine blank_mono hm ?_; clear hm bm
  unfold State.voteLock
  exact State.vote_frame _ _ _ _ _ _ (fun x y => by simp) (fun x => by simp) (by decide)

@[simp] theorem State.voteCaps_frame (s : State) (fuses : W32) (bm : BitVec 48) (hm : 0x10000002408#48 &&& ~~~ bm = 0) : blank bm (State.voteCaps s fuses) = blank bm s := by
  refine blank_mono hm ?_; clear hm bm
  unfold State.voteCaps
  exact State.vote_frame _ _ _ _ _ _ (fun x y => by simp) (fun x => by simp) (by decide)

@[simp] theorem State.votePtab_frame (s : State) (bm : BitVec 48) (hm : 0x1000000610A#48 &&& ~~~ bm = 0) : blank bm (State.votePtab s) = blank bm s := by
  refine blank_mono hm ?_; clear hm bm
  unfold State.votePtab
  exact foldl_frame _ _ (fun x p => foldl_frame _ _ (fun y w => by simp) _ _) _ _

/-! ## SetMem -/

@[simp] theorem State.cellPut_frame (s : State) (c : Cell) (n : ℕ) (v : ℕ) (bm : BitVec 48) (hm : 0x40200000#48 &&& ~~~ bm = 0) : blank bm (State.cellPut s c n v) = blank bm s := by
  refine blank_mono hm ?_; clear hm bm
  simp only [State.cellPut]; (repeat' split) <;> simp

@[simp] theorem State.pendStore_frame (s : State) (g : GroupRef) (x : Machine.Group) (pa : ℕ) (n : ℕ) (v : ℕ) (bm : BitVec 48) (hm : 0x40000000#48 &&& ~~~ bm = 0) : blank bm (State.pendStore s g x pa n v) = blank bm s := by
  refine blank_mono hm ?_; clear hm bm
  first | (simp [State.pendStore]; done) | (simp only [State.pendStore]; (repeat' split) <;> simp; done) | (simp only [State.pendStore]; (repeat' split) <;> simp [blank]; done)

@[simp] theorem State.drainCells_frame (s : State) (c : CoreId) (n : ℕ) (l : List (Fin 32 × Cell)) (bm : BitVec 48) (hm : 0x40200000#48 &&& ~~~ bm = 0) : blank bm (State.drainCells s c n l) = blank bm s := by
  refine blank_mono hm ?_; clear hm bm
  first | (simp [State.drainCells]; done) | (simp only [State.drainCells]; (repeat' split) <;> simp; done) | (simp only [State.drainCells]; (repeat' split) <;> simp [blank]; done)

@[simp] theorem State.l1Fill_frame (s : State) (c : CoreId) (p : PartId) (line : ℕ) (bm : BitVec 48) (hm : 0x40000000#48 &&& ~~~ bm = 0) : blank bm (State.l1Fill s c p line) = blank bm s := by
  refine blank_mono hm ?_; clear hm bm
  simp [State.l1Fill]

@[simp] theorem State.l1Store_frame (s : State) (c : CoreId) (p : PartId) (pa : ℕ) (n : ℕ) (v : ℕ) (bm : BitVec 48) (hm : 0x40000000#48 &&& ~~~ bm = 0) : blank bm (State.l1Store s c p pa n v) = blank bm s := by
  refine blank_mono hm ?_; clear hm bm
  simp [State.l1Store]

@[simp] theorem State.cellLoad_frame (s : State) (core : CoreId) (p : PartId) (nc hit : Bool) (c : Cell) (n : Nat) (bm : BitVec 48) (hm : 0x40000000#48 &&& ~~~ bm = 0) : blank bm (s.cellLoad core p nc hit c n).2 = blank bm s := by
  refine blank_mono hm ?_; clear hm bm
  unfold State.cellLoad; (repeat' split) <;> simp

@[simp] theorem State.loadAll_frame (s : State) (core : CoreId) (p : PartId) (nc hit : Bool) (n : Nat) (l : List (Fin 32 × Cell)) (bm : BitVec 48) (hm : 0x40000000#48 &&& ~~~ bm = 0) : blank bm (s.loadAll core p nc hit n l).2 = blank bm s := by
  refine blank_mono hm ?_; clear hm bm
  induction l generalizing s with
  | nil => rfl
  | cons a r ih => obtain ⟨l, c⟩ := a; simp only [State.loadAll]; rw [ih]; simp

@[simp] theorem State.storeCell_frame (s : State) (g : GroupRef) (x : Machine.Group) (c : Cell) (n : ℕ) (v : ℕ) (bm : BitVec 48) (hm : 0x40200000#48 &&& ~~~ bm = 0) : blank bm (State.storeCell s g x c n v) = blank bm s := by
  refine blank_mono hm ?_; clear hm bm
  simp only [State.storeCell]; (repeat' split) <;> simp

@[simp] theorem State.owesAck_frame (s : State) (g : GroupRef) (x : Machine.Group) (space : Space) (addr : Src) (n : ℕ) (l : List (Fin 32 × Cell)) (bm : BitVec 48) (hm : 0x50080000#48 &&& ~~~ bm = 0) : blank bm (State.owesAck s g x space addr n l) = blank bm s := by
  refine blank_mono hm ?_; clear hm bm
  simp only [State.owesAck]; (repeat' split) <;> simp

@[simp] theorem State.atomRun_frame (s : State) (op : AtomOp) (bytes : Nat) (v : Fin 32 → Nat × Nat) (l : List (Fin 32 × Cell)) (bm : BitVec 48) (hm : 0x40200000#48 &&& ~~~ bm = 0) : blank bm (s.atomRun op bytes v l).2 = blank bm s := by
  refine blank_mono hm ?_; clear hm bm
  induction l generalizing s with
  | nil => rfl
  | cons a r ih => obtain ⟨l, c⟩ := a; simp only [State.atomRun]; rw [ih]; simp

@[simp] theorem State.fpAtomCell_frame (s : State) (o : Ovf) (c : Cell) (l : List (Fin 32 × W32)) (bm : BitVec 48) (hm : 0x40200000#48 &&& ~~~ bm = 0) : blank bm (s.fpAtomCell o c l).2.2 = blank bm s := by
  refine blank_mono hm ?_; clear hm bm
  unfold State.fpAtomCell; simp only []; split <;> simp

@[simp] theorem State.fpAtoms_frame (s : State) (o : Ovf) (l : List (Fin 32 × Cell)) (v : Fin 32 → W32) (cs : List Cell) (bm : BitVec 48) (hm : 0x40200000#48 &&& ~~~ bm = 0) : blank bm (s.fpAtoms o l v cs).2.2 = blank bm s := by
  refine blank_mono hm ?_; clear hm bm
  induction cs generalizing s with
  | nil => rfl
  | cons a r ih => simp only [State.fpAtoms]; rw [ih]; simp

@[simp] theorem State.lockRun_frame (s : State) (g : GroupRef) (l : List (Fin 32 × Cell)) (bm : BitVec 48) (hm : 0x40200000#48 &&& ~~~ bm = 0) : blank bm (s.lockRun g l).2 = blank bm s := by
  refine blank_mono hm ?_; clear hm bm
  induction l generalizing s with
  | nil => rfl
  | cons a r ih => obtain ⟨l, c⟩ := a; simp only [State.lockRun]; rw [ih]; split <;> simp

@[simp] theorem State.unlockRun_frame (s : State) (g : GroupRef) (l : List (Fin 32 × Cell)) (bm : BitVec 48) (hm : 0x40200000#48 &&& ~~~ bm = 0) : blank bm (s.unlockRun g l).2 = blank bm s := by
  refine blank_mono hm ?_; clear hm bm
  induction l generalizing s with
  | nil => rfl
  | cons a r ih => obtain ⟨l, c⟩ := a; simp only [State.unlockRun]; rw [ih]; split <;> simp

/-! ## Tex -/

theorem State.samples_nil (s : State) (p : PartId) (c : FaultCtx) (desc : Fin 32 → Nat) (u v : Fin 32 → W32) (lod : Fin 32 → TexDesc → W32) :
    s.samples p c desc u v lod [] = .ok ([], s) := by delta State.samples; rfl

theorem State.samples_cons (s : State) (p : PartId) (c : FaultCtx) (desc : Fin 32 → Nat) (u v : Fin 32 → W32) (lod : Fin 32 → TexDesc → W32)
    (l : Fin 32) (r : List (Fin 32)) :
    s.samples p c desc u v lod (l :: r) = match s.vnum p (desc l) 32 with
      | .bad e => .bad e
      | .ok raw => match s.sample p c ⟨raw⟩ (u l) (v l) (lod l ⟨raw⟩) with
        | .bad e => .bad e
        | .ok (x, s1) => match s1.samples p c desc u v lod r with
          | .bad e => .bad e
          | .ok (q, s2) => .ok ((l, x) :: q, s2) := by delta State.samples; rfl

@[simp] theorem State.texResident_frame (s : State) (p : PartId) (d : TexDesc) (c : FaultCtx) (l : List (Nat × Nat × Nat)) (bm : BitVec 48) (hm : 0x240008#48 &&& ~~~ bm = 0) : blank bm (s.texResident p d c l).2 = blank bm s := by
  refine blank_mono hm ?_; clear hm bm
  induction l generalizing s with
  | nil => rfl
  | cons a r ih => obtain ⟨m, x, y⟩ := a; simp only [State.texResident]; split <;> simp [ih]

theorem State.texRead_frame {s : State} {p : PartId} {d : TexDesc} {l : List (Nat × Nat × Nat)} {y : List (List W32)} {t : State} (h : s.texRead p d l = .ok (y, t)) (bm : BitVec 48) (hm : 0x2001000000#48 &&& ~~~ bm = 0) : blank bm t = blank bm s := by
  refine blank_mono hm ?_; clear hm bm
  induction l generalizing s y t with
  | nil => simp only [State.texRead, Acc.ok.injEq, Prod.mk.injEq] at h; rw [h.2]
  | cons a r ih =>
    obtain ⟨m, x, k⟩ := a
    simp only [State.texRead] at h
    (repeat' split at h) <;> first | (cases h; done) | skip
    rename_i h1
    simp only [Acc.ok.injEq, Prod.mk.injEq] at h
    rw [← h.2, ih h1]; simp

theorem State.texSample_frame {s : State} {p : PartId} {d : TexDesc} {u v lod : W32} {ms : List Nat} {b : Bool} {y : Sample} {t : State} (h : s.texSample p d u v lod ms b = .ok (y, t)) (bm : BitVec 48) (hm : 0x2001000000#48 &&& ~~~ bm = 0) : blank bm t = blank bm s := by
  refine blank_mono hm ?_; clear hm bm
  simp only [State.texSample] at h
  split at h
  · cases h
  · rename_i h1
    simp only [Acc.ok.injEq, Prod.mk.injEq] at h
    rw [← h.2]; exact State.texRead_frame h1 _ (by decide)

theorem State.sample_frame {s : State} {p : PartId} {c : FaultCtx} {d : TexDesc} {u v lod : W32} {y : Sample} {t : State} (h : s.sample p c d u v lod = .ok (y, t)) (bm : BitVec 48) (hm : 0x2001240008#48 &&& ~~~ bm = 0) : blank bm t = blank bm s := by
  refine blank_mono hm ?_; clear hm bm
  unfold State.sample at h
  split at h
  · cases h; rfl
  · simp only [] at h
    split at h
    · rw [State.texSample_frame h _ (by decide)]; simp
    · split at h
      · rw [State.texSample_frame h _ (by decide)]; simp
      · simp only [Acc.ok.injEq, Prod.mk.injEq] at h
        rw [← h.2]; simp

theorem State.samples_frame {s : State} {p : PartId} {c : FaultCtx} {desc : Fin 32 → Nat} {u v : Fin 32 → W32} {lod : Fin 32 → TexDesc → W32} {l : List (Fin 32)} {y : List (Fin 32 × Sample)} {t : State} (h : s.samples p c desc u v lod l = .ok (y, t)) (bm : BitVec 48) (hm : 0x2001240008#48 &&& ~~~ bm = 0) : blank bm t = blank bm s := by
  refine blank_mono hm ?_; clear hm bm
  induction l generalizing s y t with
  | nil =>
    simp only [State.samples_nil, Acc.ok.injEq, Prod.mk.injEq] at h
    rw [h.2]
  | cons a r ih =>
    rw [State.samples_cons] at h
    split at h
    · cases h
    · split at h
      · cases h
      · rename_i h1
        split at h
        · cases h
        · rename_i h2
          simp only [Acc.ok.injEq, Prod.mk.injEq] at h
          rw [← h.2, ih h2]; exact State.sample_frame h1 _ (by decide)

@[simp] theorem State.texMarks_frame (s : State) (x : Group) (l : List (Fin 32 × Sample)) (bm : BitVec 48) (hm : 0x80400000#48 &&& ~~~ bm = 0) : blank bm (State.texMarks s x l) = blank bm s := by
  refine blank_mono hm ?_; clear hm bm
  unfold State.texMarks
  simp only []
  split
  · apply foldl_frame; intro y a; split <;> simp
  · rfl
  · split
    · split <;> simp
    · rfl

@[simp] theorem State.texInstr_frame (s : State) (g : GroupRef) (check : Check) (env : Env) (dst : Nat) (desc u v lod : Src) (f : Group → Fin 32 → TexDesc → W32) (bm : BitVec 48)  (hm : 0x170F7EC002C#48 &&& ~~~ bm = 0) : blank bm (s.texInstr g check env dst desc u v lod f) = blank bm s := by
  refine blank_mono hm ?_; clear hm bm
  unfold State.texInstr
  rw [State.instr_frame]
  · simp
  · intro x y
    simp only []
    (repeat' split) <;> (try simp)
    rename_i h
    simp [State.samples_frame h]
  · decide

/-! ## SetDbg -/

@[simp] theorem State.badGroupCmd_frame (s : State) (p : PartId) (bm : BitVec 48) (hm : 0x40000#48 &&& ~~~ bm = 0) : blank bm (State.badGroupCmd s p) = blank bm s := by
  refine blank_mono hm ?_; clear hm bm
  simp [State.badGroupCmd]

@[simp] theorem State.haltGroup_frame (s : State) (p : PartId) (g : GroupRef) (x : Group) (bm : BitVec 48) (hm : 0x40440000#48 &&& ~~~ bm = 0) : blank bm (State.haltGroup s p g x) = blank bm s := by
  refine blank_mono hm ?_; clear hm bm
  simp only [State.haltGroup]; (repeat' split) <;> simp

@[simp] theorem State.resumeGroup_frame (s : State) (p : PartId) (g : GroupRef) (x : Group) (step : Bool) (bm : BitVec 48) (hm : 0x40440000#48 &&& ~~~ bm = 0) : blank bm (State.resumeGroup s p g x step) = blank bm s := by
  refine blank_mono hm ?_; clear hm bm
  simp [State.resumeGroup]

@[simp] theorem State.restartGroup_frame (s : State) (p : PartId) (g : GroupRef) (x : Group) (bm : BitVec 48) (hm : 0x1040040000#48 &&& ~~~ bm = 0) : blank bm (State.restartGroup s p g x) = blank bm s := by
  refine blank_mono hm ?_; clear hm bm
  simp [State.restartGroup]

@[simp] theorem State.endCmd_frame (s : State) (p : PartId) (g : GroupRef) (x : Group) (bm : BitVec 48) (hm : 0x30D7640028#48 &&& ~~~ bm = 0) : blank bm (State.endCmd s p g x) = blank bm s := by
  refine blank_mono hm ?_; clear hm bm
  simp [State.endCmd]

theorem State.dbgPut_frame {s : State} {g : GroupRef} {x : Group} {space : BitVec 2} {i : Nat} {w : W32} {t : State} (h : s.dbgPut g x space i w = some t) (bm : BitVec 48) (hm : 0x40000000#48 &&& ~~~ bm = 0) : blank bm t = blank bm s := by
  refine blank_mono hm ?_; clear hm bm
  unfold State.dbgPut at h
  (repeat' split at h) <;> cases h <;> simp

@[simp] theorem State.readGroup_frame (s : State) (p : PartId) (x : Group) (bm : BitVec 48) (hm : 0x40000#48 &&& ~~~ bm = 0) : blank bm (State.readGroup s p x) = blank bm s := by
  refine blank_mono hm ?_; clear hm bm
  simp only [State.readGroup]; (repeat' split) <;> simp

@[simp] theorem State.writeGroup_frame (s : State) (p : PartId) (g : GroupRef) (x : Group) (bm : BitVec 48) (hm : 0x40040000#48 &&& ~~~ bm = 0) : blank bm (State.writeGroup s p g x) = blank bm s := by
  refine blank_mono hm ?_; clear hm bm
  unfold State.writeGroup
  split
  · cases h : s.dbgPut g x (s.part p).dbgSpace (s.part p).dbgIndex.toNat (s.part p).dbgData with
    | none => simp
    | some t => simp [State.dbgPut_frame h]
  · simp

@[simp] theorem State.checked_frame (s : State) (g : GroupRef) (x : Group) (uses : Bool) (check : Check) (f : State → State) (bm : BitVec 48) (hf : ∀ y, blank bm (f y) = blank bm y) (hm : 0x130D7E40028#48 &&& ~~~ bm = 0) : blank bm (s.checked g x uses check f) = blank bm s := by
  unfold State.checked
  (repeat' split) <;> simp [hf, State.errCorrected_frame _ bm (blank_sub hm (by decide)), State.containGroup_frame _ _ _ bm (blank_sub hm (by decide))]

@[simp] theorem State.countSpin_frame (s : State) (g : GroupRef) (v : W32) (steps : ℕ) (bm : BitVec 48) (hm : 0x40000000#48 &&& ~~~ bm = 0) : blank bm (State.countSpin s g v steps) = blank bm s := by
  refine blank_mono hm ?_; clear hm bm
  first | (simp [State.countSpin]; done) | (simp only [State.countSpin]; (repeat' split) <;> simp; done) | (simp only [State.countSpin]; (repeat' split) <;> simp [blank]; done)

@[simp] theorem State.regGrpCmd_frame (s : State) (p : PartId) (v : W32) (steps : ℕ) (check : Check) (bm : BitVec 48) (hm : 0x130D7E40028#48 &&& ~~~ bm = 0) : blank bm (State.regGrpCmd s p v steps check) = blank bm s := by
  refine blank_mono hm ?_; clear hm bm
  simp only [State.regGrpCmd]
  (repeat' split) <;> first | (simp; done) | exact State.checked_frame _ _ _ _ _ _ _ (fun y => by simp) (by decide)

@[simp] theorem State.grpCmdRow_frame (s : State) (req : Requester) (p : PartId) (value : W32) (op : W32) (steps : ℕ) (check : Check) (bm : BitVec 48) (hm : 0x130D7E43038#48 &&& ~~~ bm = 0) : blank bm (State.grpCmdRow s req p value op steps check) = blank bm s := by
  refine blank_mono hm ?_; clear hm bm
  simp [State.grpCmdRow]

end Sys2Proof.Machine
end

