-- ==== Sys2Proof/Laws/FrameEngine.lean ====
section
/-!
SUPPORT. Sys2Proof/Laws/FrameEngine.lean: what each operation of Machine/{Splat, Move, Build, BuildKey, BuildCopy, SplatBwd, Save, Deadline}.lean changes at most: blanked in those components, the state after it is the state before it.
-/

set_option linter.all false

namespace Sys2Proof.Machine
open Sys2Proof

/-! ## Splat -/

def Binned.st : Binned → State
  | .done s _ => s
  | .full s _ => s
  | .fault s _ _ => s

@[simp] theorem State.beginPass_frame (s : State) (r : CmdRef) (f : Pass → Pass) (bm : BitVec 48) (hm : 0x80040000#48 &&& ~~~ bm = 0) : blank bm (State.beginPass s r f) = blank bm s := by
  refine blank_mono hm ?_; clear hm bm
  simp only [State.beginPass]; (repeat' split) <;> simp

@[simp] theorem State.beginSplat_frame (s : State) (env : Env) (q : QueueId) (c : Cmd) (bm : BitVec 48) (hm : 0x50F06C0008#48 &&& ~~~ bm = 0) : blank bm (State.beginSplat s env q c) = blank bm s := by
  refine blank_mono hm ?_; clear hm bm
  simp only [State.beginSplat]
  (repeat' split) <;> simp

@[simp] theorem State.reject_frame (s : State) (v : Pass) (seq : W32) (bm : BitVec 48) (hm : 0x40008#48 &&& ~~~ bm = 0) : blank bm (s.reject v seq).1 = blank bm s := by
  refine blank_mono hm ?_; clear hm bm
  unfold State.reject; split <;> simp

@[simp] theorem State.binFrom_frame (s : State) (raw : Slot64) (cap : Bool) (n : Nat) (v : Pass) (bm : BitVec 48) (hm : 0x40008#48 &&& ~~~ bm = 0) :
    blank bm (s.binFrom raw cap n v).st = blank bm s := by
  refine blank_mono hm ?_; clear hm bm
  induction n generalizing s v with
  | zero => rfl
  | succ n ih =>
    simp only [State.binFrom]
    split
    · rfl
    · split
      · exact ih _ _
      · split
        · rw [ih]; exact State.reject_frame _ _ _ _ (by decide)
        · split
          · rfl
          · exact ih _ _

@[simp] theorem State.binPass_frame (s : State) (env : Env) (q : QueueId) (c : Cmd) (v : Pass) (bm : BitVec 48) (hm : 0x50F06C0008#48 &&& ~~~ bm = 0) : blank bm (State.binPass s env q c v) = blank bm s := by
  refine blank_mono hm ?_; clear hm bm
  simp only [State.binPass]
  have e := State.binFrom_frame s c.raw true (rb c.raw 16 4 - v.prim) v 0x50F06C0008#48 (by decide)
  split <;> rename_i h <;> rw [h] at e <;> simp only [Binned.st] at e <;> simp [e]

@[simp] theorem State.grantPass_frame (s : State) (v : Pass) (grant : ℕ) (bm : BitVec 48) (hm : 0x80040000#48 &&& ~~~ bm = 0) : blank bm (State.grantPass s v grant) = blank bm s := by
  refine blank_mono hm ?_; clear hm bm
  first | (simp [State.grantPass]; done) | (simp only [State.grantPass]; (repeat' split) <;> simp; done) | (simp only [State.grantPass]; (repeat' split) <;> simp [blank]; done)

@[simp] theorem State.grantSummary_frame (s : State) (p : PartId) (w : ℕ) (h : ℕ) (bm : BitVec 48) (hm : 0x80040000#48 &&& ~~~ bm = 0) : blank bm (State.grantSummary s p w h) = blank bm s := by
  refine blank_mono hm ?_; clear hm bm
  first | (simp [State.grantSummary]; done) | (simp only [State.grantSummary]; (repeat' split) <;> simp; done) | (simp only [State.grantSummary]; (repeat' split) <;> simp [blank]; done)

theorem State.sendBlocks_frame {s : State} {v : Pass} {c : Cmd} {e : TileEnv} {g : Prog} {u : Fin 64} {k : Fin 4} {x : Tile} {pos idx rec : Nat} {l : List (Fin 8 × W32)} {t : State} (h : s.sendBlocks v c e g u k x pos idx rec l = some t) (bm : BitVec 48) (hm : 0x40000000#48 &&& ~~~ bm = 0) : blank bm t = blank bm s := by
  refine blank_mono hm ?_; clear hm bm
  induction l generalizing s with
  | nil => cases h; rfl
  | cons a r ih =>
    obtain ⟨b, mm⟩ := a
    simp only [State.sendBlocks] at h
    split at h
    · cases h
    · rw [ih h]; simp

theorem State.issueOne_frame {s : State} {v : Pass} {c : Cmd} {e : TileEnv} {g : Prog} {u : Fin 64} {k : Fin 4} {x : Tile} {t : State} {w : TileOut} (h : s.issueOne v c e g u k x = .ok (some (t, w))) (bm : BitVec 48) (hm : 0x40000000#48 &&& ~~~ bm = 0) : blank bm t = blank bm s := by
  refine blank_mono hm ?_; clear hm bm
  simp only [State.issueOne] at h
  (repeat' split at h) <;> cases h
  all_goals exact State.sendBlocks_frame (by assumption) _ (by decide)

@[simp] theorem State.issueTile_frame (s : State) (v : Pass) (c : Cmd) (e : TileEnv) (g : Prog) (u : Fin 64) (k : Fin 4) (n : Nat) (t : Tile) (bm : BitVec 48) (hm : 0xC0040008#48 &&& ~~~ bm = 0) : blank bm (s.issueTile v c e g u k n t).1 = blank bm s := by
  refine blank_mono hm ?_; clear hm bm
  induction n generalizing s t with
  | zero => rfl
  | succ n ih =>
    simp only [State.issueTile]
    split
    · rfl
    · rfl
    · rename_i h; rw [ih]; simp [State.issueOne_frame h]

@[simp] theorem State.issueSlot_frame (s : State) (env : Env) (u : Fin 64) (k : Fin 4) (bm : BitVec 48) (hm : 0x50F06C0008#48 &&& ~~~ bm = 0) : blank bm (State.issueSlot s env u k) = blank bm s := by
  refine blank_mono hm ?_; clear hm bm
  simp only [State.issueSlot]
  (repeat' split) <;> simp

@[simp] theorem State.endSplat_frame (s : State) (r : CmdRef) (st : W16) (bm : BitVec 48) (hm : 0x30D76C0028#48 &&& ~~~ bm = 0) : blank bm (State.endSplat s r st) = blank bm s := by
  refine blank_mono hm ?_; clear hm bm
  simp [State.endSplat]

@[simp] theorem State.containSplat_frame (s : State) (src : ℕ) (unit : ℕ) (v : Pass) (bm : BitVec 48) (hm : 0x130D76C0028#48 &&& ~~~ bm = 0) : blank bm (State.containSplat s src unit v) = blank bm s := by
  refine blank_mono hm ?_; clear hm bm
  simp [State.containSplat]

@[simp] theorem State.loadTile_frame (s : State) (env : Env) (u : Fin 64) (k : Fin 4) (v : Pass) (c : Cmd) (t : ℕ) (bm : BitVec 48) (hm : 0x250F06C0008#48 &&& ~~~ bm = 0) : blank bm (State.loadTile s env u k v c t) = blank bm s := by
  refine blank_mono hm ?_; clear hm bm
  simp only [State.loadTile]; (repeat' split) <;> simp

theorem State.vwriteAll_frame {s : State} {p : PartId} {l : List (Nat × List Byte)} {t : State} (h : s.vwriteAll p l = .ok t) (bm : BitVec 48) (hm : 0x200000#48 &&& ~~~ bm = 0) : blank bm t = blank bm s := by
  refine blank_mono hm ?_; clear hm bm
  induction l generalizing s with
  | nil => cases h; rfl
  | cons a r ih =>
    obtain ⟨va, b⟩ := a
    simp only [State.vwriteAll] at h
    split at h
    · cases h
    · rename_i h1; rw [ih h]; exact State.vwrite_frame h1 _ (by decide)

@[simp] theorem State.passStep_frame (s : State) (r : CmdRef) (raw : Slot64) (bm : BitVec 48) (hm : 0x80040000#48 &&& ~~~ bm = 0) : blank bm (State.passStep s r raw) = blank bm s := by
  refine blank_mono hm ?_; clear hm bm
  simp only [State.passStep]; (repeat' split) <;> simp

@[simp] theorem State.resolved_frame (s : State) (u : Fin 64) (k : Fin 4) (v : Pass) (c : Cmd) (t : Tile) (bm : BitVec 48) (hm : 0x800C0000#48 &&& ~~~ bm = 0) : blank bm (State.resolved s u k v c t) = blank bm s := by
  refine blank_mono hm ?_; clear hm bm
  simp [State.resolved]

/-! ## Move -/

theorem State.copyChunk_frame {s : State} {p : PartId} {a b n : Nat} {t : State} (h : s.copyChunk p a b n = .ok t) (bm : BitVec 48) (hm : 0x200000#48 &&& ~~~ bm = 0) : blank bm t = blank bm s := by
  refine blank_mono hm ?_; clear hm bm
  unfold State.copyChunk at h
  split at h
  · cases h
  · exact State.vwrite_frame h _ (by decide)



@[simp] theorem State.copyFrom_frame (s : State) (p : PartId) (a b n f o : Nat) (bm : BitVec 48) (hm : 0x200000#48 &&& ~~~ bm = 0) :
    blank bm (s.copyFrom p a b n f o).s = blank bm s := by
  refine blank_mono hm ?_; clear hm bm
  induction f generalizing s o with
  | zero => rfl
  | succ f ih =>
    simp only [State.copyFrom]
    split
    · rfl
    · split
      · rfl
      · rename_i h; rw [ih]; exact State.copyChunk_frame h _ (by decide)

@[simp] theorem State.copyBehind_frame (s : State) (p : PartId) (src : ℕ) (dst : ℕ) (total : ℕ) (x5 : ℕ) (x6 : ℕ) (bm : BitVec 48) (hm : 0x200000#48 &&& ~~~ bm = 0) : blank bm (State.copyBehind s p src dst total x5 x6) = blank bm s := by
  refine blank_mono hm ?_; clear hm bm
  induction x5 generalizing s x6 with
  | zero => rfl
  | succ n ih =>
    simp only [State.copyBehind]
    split
    · rfl
    · rw [ih]
      split
      · rename_i h; exact State.copyChunk_frame h _ (by decide)
      · rfl

/-! ## Build -/



@[simp] theorem State.vwriteSome_frame (s : State) (p : PartId) (l : List (Nat × List Byte)) (n : Nat) (bm : BitVec 48) (hm : 0x200000#48 &&& ~~~ bm = 0) :
    blank bm (s.vwriteSome p l n).s = blank bm s := by
  refine blank_mono hm ?_; clear hm bm
  induction l generalizing s n with
  | nil => rfl
  | cons a r ih =>
    obtain ⟨va, b⟩ := a
    simp only [State.vwriteSome]
    split
    · rfl
    · rename_i h; rw [ih]; exact State.vwrite_frame h _ (by decide)

@[simp] theorem State.buildPark_frame (s : State) (env : Env) (r : CmdRef) (x : Xfault) (bm : BitVec 48) (hm : 0x50706C0008#48 &&& ~~~ bm = 0) : blank bm (State.buildPark s env r x) = blank bm s := by
  refine blank_mono hm ?_; clear hm bm
  simp [State.buildPark]

@[simp] theorem State.buildHalt_frame (s : State) (env : Env) (r : CmdRef) (dst : ℕ) (done : ℕ) (x : Xfault) (bm : BitVec 48) (hm : 0x50706C0008#48 &&& ~~~ bm = 0) : blank bm (State.buildHalt s env r dst done x) = blank bm s := by
  refine blank_mono hm ?_; clear hm bm
  first | (simp [State.buildHalt]; done) | (simp only [State.buildHalt]; (repeat' split) <;> simp; done) | (simp only [State.buildHalt]; (repeat' split) <;> simp [blank]; done)

@[simp] theorem State.buildWrite_frame (s : State) (r : CmdRef) (ws : List (Nat × List Byte)) (bm : BitVec 48) (hm : 0x10280000#48 &&& ~~~ bm = 0) : blank bm (s.buildWrite r ws).s = blank bm s := by
  refine blank_mono hm ?_; clear hm bm
  simp [State.buildWrite]

@[simp] theorem State.buildOut_frame (s : State) (env : Env) (r : CmdRef) (dst : ℕ) (ws : List (ℕ × List Byte)) (marks : List (ℕ × ℕ)) (st : Option W16) (bm : BitVec 48) (hm : 0x50706C0008#48 &&& ~~~ bm = 0) : blank bm (State.buildOut s env r dst ws marks st) = blank bm s := by
  refine blank_mono hm ?_; clear hm bm
  simp only [State.buildOut]
  (repeat' split) <;> simp

@[simp] theorem State.refitOut_frame (s : State) (env : Env) (r : CmdRef) (dst : ℕ) (pre : ℕ) (ws : List (ℕ × List Byte)) (marks : List (ℕ × ℕ)) (bm : BitVec 48) (hm : 0x50706C0008#48 &&& ~~~ bm = 0) : blank bm (State.refitOut s env r dst pre ws marks) = blank bm s := by
  refine blank_mono hm ?_; clear hm bm
  simp only [State.refitOut]
  (repeat' split) <;> simp

/-! ## BuildKey -/

@[simp] theorem State.insEntry_frame (s : State) (env : Env) (c : Cmd) (r : CmdRef) (dst : ℕ) (keys : ℕ) (d : Desc) (h : Desc) (bm : BitVec 48) (hm : 0x50706C0008#48 &&& ~~~ bm = 0) : blank bm (State.insEntry s env c r dst keys d h) = blank bm s := by
  refine blank_mono hm ?_; clear hm bm
  simp only [State.insEntry]
  (repeat' split) <;> (try simp)
  all_goals
    have e := State.vwriteAll_frame (by assumption) 0x50706C0008#48 (by decide)
    simp [e]

/-! ## BuildCopy -/

@[simp] theorem State.buildFail_frame (s : State) (env : Env) (r : CmdRef) (dst : ℕ) (d : Desc) (st : W16) (bm : BitVec 48) (hm : 0x50706C0008#48 &&& ~~~ bm = 0) : blank bm (State.buildFail s env r dst d st) = blank bm s := by
  refine blank_mono hm ?_; clear hm bm
  first | (simp [State.buildFail]; done) | (simp only [State.buildFail]; (repeat' split) <;> simp; done) | (simp only [State.buildFail]; (repeat' split) <;> simp [blank]; done)

@[simp] theorem State.compactPlain_frame (s : State) (env : Env) (c : Cmd) (r : CmdRef) (src : Desc) (d : Desc) (bm : BitVec 48) (hm : 0x50706C0008#48 &&& ~~~ bm = 0) : blank bm (State.compactPlain s env c r src d) = blank bm s := by
  refine blank_mono hm ?_; clear hm bm
  simp only [State.compactPlain]; (repeat' split) <;> simp

@[simp] theorem State.recluster_frame (s : State) (env : Env) (c : Cmd) (r : CmdRef) (src : Desc) (d : Desc) (bm : BitVec 48) (hm : 0x50706C0008#48 &&& ~~~ bm = 0) : blank bm (State.recluster s env c r src d) = blank bm s := by
  refine blank_mono hm ?_; clear hm bm
  simp only [State.recluster]; (repeat' split) <;> simp

@[simp] theorem State.reclusterShards_frame (s : State) (env : Env) (c : Cmd) (r : CmdRef) (src : Desc) (d : Desc) (bm : BitVec 48) (hm : 0x50706C0008#48 &&& ~~~ bm = 0) : blank bm (State.reclusterShards s env c r src d) = blank bm s := by
  refine blank_mono hm ?_; clear hm bm
  first | (simp [State.reclusterShards]; done) | (simp only [State.reclusterShards]; (repeat' split) <;> simp; done) | (simp only [State.reclusterShards]; (repeat' split) <;> simp [blank]; done)

@[simp] theorem State.splitRun_frame (s : State) (env : Env) (c : Cmd) (r : CmdRef) (src : Desc) (d : Desc) (maxNodes : ℕ) (idBase : ℕ) (a : ℕ) (bm : BitVec 48) (hm : 0x50706C0008#48 &&& ~~~ bm = 0) : blank bm (State.splitRun s env c r src d maxNodes idBase a) = blank bm s := by
  refine blank_mono hm ?_; clear hm bm
  first | (simp [State.splitRun]; done) | (simp only [State.splitRun]; (repeat' split) <;> simp; done) | (simp only [State.splitRun]; (repeat' split) <;> simp [blank]; done)

/-! ## SplatBwd -/

theorem State.applyGrads_frame {s : State} {p : PartId} {o : Ovf} {pair : Bool} {base n : Nat} {l : List (Nat × Nat × List W32)} {y : List (Nat × Nat × Fl)} {t : State} (h : s.applyGrads p o pair base n l = .ok (t, y)) (bm : BitVec 48) (hm : 0x200000#48 &&& ~~~ bm = 0) : blank bm t = blank bm s := by
  refine blank_mono hm ?_; clear hm bm
  induction l generalizing s y t with
  | nil =>
    simp only [State.applyGrads, Acc.ok.injEq, Prod.mk.injEq] at h
    rw [h.1]
  | cons a r ih =>
    obtain ⟨k, i, g⟩ := a
    simp only [State.applyGrads] at h
    split at h
    · cases h
    · split at h
      · cases h
      · rename_i h1
        split at h
        · cases h
        · rename_i h2
          simp only [Acc.ok.injEq, Prod.mk.injEq] at h
          rw [← h.1, ih h2]; exact State.vwrite_frame h1 _ (by decide)

@[simp] theorem State.bwdPass_frame (s : State) (env : Env) (q : QueueId) (order : List (ℕ × ℕ)) (c : Cmd) (v0 : Pass) (bm : BitVec 48) (hm : 0x50F06C0008#48 &&& ~~~ bm = 0) : blank bm (State.bwdPass s env q order c v0) = blank bm s := by
  refine blank_mono hm ?_; clear hm bm
  simp only [State.bwdPass]
  have e := State.binFrom_frame s c.raw false (rb c.raw 16 4) v0 0x50F06C0008#48 (by decide)
  split <;> rename_i h <;> rw [h] at e <;> simp only [Binned.st] at e
  · simp
  · exact e
  · split
    · rfl
    · split
      · simp
      · split
        · simp
        · rename_i h1
          have e1 := State.applyGrads_frame h1 0x50F06C0008#48 (by decide)
          split
          · simp
          · rename_i h2
            have e2 := State.vwriteAll_frame h2 0x50F06C0008#48 (by decide)
            simp [e, e1, e2]

@[simp] theorem State.bwdRun_frame (s : State) (env : Env) (q : QueueId) (order : List (ℕ × ℕ)) (check : Check) (bm : BitVec 48) (hm : 0x170F76C0028#48 &&& ~~~ bm = 0) : blank bm (State.bwdRun s env q order check) = blank bm s := by
  refine blank_mono hm ?_; clear hm bm
  first | (simp [State.bwdRun]; done) | (simp only [State.bwdRun]; (repeat' split) <;> simp; done) | (simp only [State.bwdRun]; (repeat' split) <;> simp [blank]; done)

/-! ## Save -/

@[simp] theorem blank_sf (x : State) (v1 : Setter) (v2 : Nat) (bm : BitVec 48) (hm : 0x20040000000#48 &&& ~~~ bm = 0) : blank bm { x with setter := v1, fresh := v2 } = blank bm x := by
  refine blank_mono hm ?_; clear hm bm; simp [blank]

@[simp] theorem State.settle_frame (s : State) (g : GroupRef) (bm : BitVec 48) (hm : 0x30D7640028#48 &&& ~~~ bm = 0) : blank bm (State.settle s g) = blank bm s := by
  refine blank_mono hm ?_; clear hm bm
  simp only [State.settle]; (repeat' split) <;> simp

@[simp] theorem State.saveFault_frame (s : State) (env : Env) (p : PartId) (ctx : FaultCtx) (x : Xfault) (g : GroupRef) (reason : BitVec 2) (bm : BitVec 48) (hm : 0x176676C0248#48 &&& ~~~ bm = 0) : blank bm (State.saveFault s env p ctx x g reason) = blank bm s := by
  refine blank_mono hm ?_; clear hm bm
  simp [State.saveFault]

@[simp] theorem State.lateFault_frame (s : State) (env : Env) (g : GroupRef) (bm : BitVec 48) (hm : 0x50706C0008#48 &&& ~~~ bm = 0) : blank bm (State.lateFault s env g) = blank bm s := by
  refine blank_mono hm ?_; clear hm bm
  first | (simp [State.lateFault]; done) | (simp only [State.lateFault]; (repeat' split) <;> simp; done) | (simp only [State.lateFault]; (repeat' split) <;> simp [blank]; done)

@[simp] theorem State.containBad_frame (s : State) (env : Env) (l : List GroupRef) (bm : BitVec 48) (hm : 0x130D7E40028#48 &&& ~~~ bm = 0) : blank bm (State.containBad s env l) = blank bm s := by
  refine blank_mono hm ?_; clear hm bm
  unfold State.containBad
  dsimp only
  rw [foldl_frame _ _ (by intro x g; beta_reduce; split <;> simp), foldl_frame _ _ (by intro x g; simp)]

@[simp] theorem State.saveGroup_frame (s : State) (env : Env) (g : GroupRef) (bm : BitVec 48) (hm : 0x376F76C0248#48 &&& ~~~ bm = 0) : blank bm (State.saveGroup s env g) = blank bm s := by
  refine blank_mono hm ?_; clear hm bm
  simp only [State.saveGroup]
  (repeat' split) <;> (try simp)
  rename_i h
  have e := State.vwriteAll_frame h 0x376F76C0248#48 (by decide)
  simp [e]

@[simp] theorem State.loseSaved_frame (s : State) (l : List Block) (bm : BitVec 48) (hm : 0x40000000#48 &&& ~~~ bm = 0) : blank bm (State.loseSaved s l) = blank bm s := by
  refine blank_mono hm ?_; clear hm bm
  first | (simp [State.loseSaved]; done) | (simp only [State.loseSaved]; (repeat' split) <;> simp; done) | (simp only [State.loseSaved]; (repeat' split) <;> simp [blank]; done)

@[simp] theorem State.saveBlocks_frame (s : State) (env : Env) (p : PartId) (set : ℕ) (c : CoreId) (bm : BitVec 48) (hm : 0x176676C0248#48 &&& ~~~ bm = 0) : blank bm (State.saveBlocks s env p set c) = blank bm s := by
  refine blank_mono hm ?_; clear hm bm
  simp only [State.saveBlocks]
  (repeat' split) <;> (try simp)
  rename_i h
  have e := State.vwriteAll_frame h 0x176676C0248#48 (by decide)
  simp [e]

@[simp] theorem State.saveSet_frame (s : State) (env : Env) (p : PartId) (set : ℕ) (bm : BitVec 48) (hm : 0x376F7EC0268#48 &&& ~~~ bm = 0) : blank bm (State.saveSet s env p set) = blank bm s := by
  refine blank_mono hm ?_; clear hm bm
  simp [State.saveSet]

@[simp] theorem State.tracePreempt_frame (s t : State) (p : PartId) (bm : BitVec 48) (hm : 0x4000240008#48 &&& ~~~ bm = 0) : blank bm (State.tracePreempt s t p) = blank bm t := by
  unfold State.tracePreempt
  exact foldl_frame _ _ (fun x e => State.record_frame x _ _ hm) _ _

@[simp] theorem State.makeRoom_frame (s : State) (env : Env) (p : PartId) (l : List (CoreId × Waiting)) (n : Nat) (bm : BitVec 48) (hm : 0x376F7EC0268#48 &&& ~~~ bm = 0) : blank bm (s.makeRoom env p l n) = blank bm s := by
  refine blank_mono hm ?_; clear hm bm
  induction n generalizing s with
  | zero => rfl
  | succ n ih =>
    simp only [State.makeRoom]
    (repeat' split) <;> (try rfl)
    rw [ih]; simp

@[simp] theorem State.preemptPart_frame (s : State) (env : Env) (p : PartId) (bm : BitVec 48) (hm : 0x376F7EC0268#48 &&& ~~~ bm = 0) : blank bm (State.preemptPart s env p) = blank bm s := by
  refine blank_mono hm ?_; clear hm bm
  first | (simp [State.preemptPart]; done) | (simp only [State.preemptPart]; (repeat' split) <;> simp; done) | (simp only [State.preemptPart]; (repeat' split) <;> simp [blank]; done)

@[simp] theorem State.restoreGroup_frame (s : State) (env : Env) (g : GroupRef) (x : Group) (bm : BitVec 48) (hm : 0x176676C0248#48 &&& ~~~ bm = 0) : blank bm (State.restoreGroup s env g x) = blank bm s := by
  refine blank_mono hm ?_; clear hm bm
  simp only [State.restoreGroup]; (repeat' split) <;> simp

@[simp] theorem State.restoreBlocks_frame (s : State) (set : ℕ) (bm : BitVec 48) (hm : 0x40000000#48 &&& ~~~ bm = 0) : blank bm (State.restoreBlocks s set) = blank bm s := by
  refine blank_mono hm ?_; clear hm bm
  simp [State.restoreBlocks]

/-! ## Deadline -/

@[simp] theorem State.yieldTu_frame (s : State) (p : PartId) (n : TuId) (bm : BitVec 48) (hm : 0x6007240008#48 &&& ~~~ bm = 0) : blank bm (State.yieldTu s p n) = blank bm s := by
  refine blank_mono hm ?_; clear hm bm
  simp [State.yieldTu]

@[simp] theorem State.setDl_frame (s : State) (p : PartId) (st : BitVec 3) (bm : BitVec 48) (hm : 0x40000#48 &&& ~~~ bm = 0) : blank bm (State.setDl s p st) = blank bm s := by
  refine blank_mono hm ?_; clear hm bm
  simp [State.setDl]

@[simp] theorem State.beginService_frame (s : State) (env : Env) (p : PartId) (bm : BitVec 48) (hm : 0x376F7EC0268#48 &&& ~~~ bm = 0) : blank bm (State.beginService s env p) = blank bm s := by
  refine blank_mono hm ?_; clear hm bm
  first | (simp [State.beginService]; done) | (simp only [State.beginService]; (repeat' split) <;> simp; done) | (simp only [State.beginService]; (repeat' split) <;> simp [blank]; done)

@[simp] theorem State.setFiring_frame (s : State) (p : PartId) (bm : BitVec 48) (hm : 0x40008#48 &&& ~~~ bm = 0) : blank bm (State.setFiring s p) = blank bm s := by
  refine blank_mono hm ?_; clear hm bm
  first | (simp [State.setFiring]; done) | (simp only [State.setFiring]; (repeat' split) <;> simp; done) | (simp only [State.setFiring]; (repeat' split) <;> simp [blank]; done)

@[simp] theorem State.enterFiring_frame (s : State) (env : Env) (p : PartId) (bm : BitVec 48) (hm : 0x376F7EC0268#48 &&& ~~~ bm = 0) : blank bm (State.enterFiring s env p) = blank bm s := by
  refine blank_mono hm ?_; clear hm bm
  simp [State.enterFiring]

@[simp] theorem State.arm_frame (s : State) (env : Env) (p : PartId) (raw : Slot64) (bm : BitVec 48) (hm : 0x376F7EC0268#48 &&& ~~~ bm = 0) : blank bm (State.arm s env p raw) = blank bm s := by
  refine blank_mono hm ?_; clear hm bm
  simp [State.arm]

@[simp] theorem State.denyReproj_frame (s : State) (p : PartId) (bm : BitVec 48) (hm : 0x40008#48 &&& ~~~ bm = 0) : blank bm (State.denyReproj s p) = blank bm s := by
  refine blank_mono hm ?_; clear hm bm
  simp [State.denyReproj]

@[simp] theorem State.decideReproj_frame (s : State) (env : Env) (p : PartId) (check : Check) (bm : BitVec 48) (hm : 0x376F7EC0268#48 &&& ~~~ bm = 0) : blank bm (State.decideReproj s env p check) = blank bm s := by
  refine blank_mono hm ?_; clear hm bm
  first | (simp [State.decideReproj]; done) | (simp only [State.decideReproj]; (repeat' split) <;> simp; done) | (simp only [State.decideReproj]; (repeat' split) <;> simp [blank]; done)

@[simp] theorem State.reproject_frame (s : State) (p : PartId) (d : Desc) (m : List W32) (sum : List (ℕ × W16)) (bm : BitVec 48) (hm : 0x102C0088#48 &&& ~~~ bm = 0) : blank bm (State.reproject s p d m sum) = blank bm s := by
  refine blank_mono hm ?_; clear hm bm
  simp only [State.reproject]
  (repeat' split) <;> (try simp)
  rename_i h
  have e := State.vwriteAll_frame h 0x102C0088#48 (by decide)
  simp [e]

end Sys2Proof.Machine
end

