-- ==== Sys2Proof/Laws/FrameChip.lean ====
section
/-!
SUPPORT. Sys2Proof/Laws/FrameChip.lean: what each operation of Machine/{CsrRead, Train, Owner, Faults, Reset, Debug, Csr, FwdIn}.lean changes at most: blanked in those components, the state after it is the state before it.
-/

set_option linter.all false

namespace Sys2Proof.Machine
open Sys2Proof

/-! ## CsrRead -/

@[simp] theorem State.globalClear_frame (s : State) (base : ℕ) (m : W64) (bm : BitVec 48) (hm : 0x1E50D822800#48 &&& ~~~ bm = 0) : blank bm (State.globalClear s base m) = blank bm s := by
  refine blank_mono hm ?_; clear hm bm
  unfold State.globalClear; (repeat' split) <;> (try simp) <;> simp [blank]

@[simp] theorem State.pageClear_frame (s : State) (p : PartId) (base : ℕ) (m : W64) (bm : BitVec 48) (hm : 0xC0000#48 &&& ~~~ bm = 0) : blank bm (State.pageClear s p base m) = blank bm s := by
  refine blank_mono hm ?_; clear hm bm
  unfold State.pageClear; (repeat' split) <;> (try simp) <;> simp [blank]

@[simp] theorem State.voteRead_frame (s : State) (base : ℕ) (m : W64) (bm : BitVec 48) (hm : 0x1010000F50A#48 &&& ~~~ bm = 0) : blank bm (State.voteRead s base m) = blank bm s := by
  refine blank_mono hm ?_; clear hm bm
  first | (simp [State.voteRead]; done) | (simp only [State.voteRead]; (repeat' split) <;> simp; done) | (simp only [State.voteRead]; (repeat' split) <;> simp [blank]; done)

@[simp] theorem State.readWord_frame (s : State) (a : Access) (bm : BitVec 48) (hm : 0x1E50D8EFD1A#48 &&& ~~~ bm = 0) : blank bm (State.readWord s a) = blank bm s := by
  refine blank_mono hm ?_; clear hm bm
  unfold State.readWord; (repeat' split) <;> (try simp) <;> simp [blank]

/-! ## Train -/

@[simp] theorem State.dropSess_frame (s : State) (env : Env) (l : LinkId) (reason : BitVec 4) (bm : BitVec 48) (hm : 0x176776C0248#48 &&& ~~~ bm = 0) : blank bm (State.dropSess s env l reason) = blank bm s := by
  refine blank_mono hm ?_; clear hm bm
  simp [State.dropSess]

@[simp] theorem State.loseSess_frame (s : State) (env : Env) (l : LinkId) (reason : BitVec 4) (bm : BitVec 48) (hm : 0x176776C024A#48 &&& ~~~ bm = 0) : blank bm (State.loseSess s env l reason) = blank bm s := by
  refine blank_mono hm ?_; clear hm bm
  simp [State.loseSess]

@[simp] theorem State.restartSess_frame (s : State) (env : Env) (l : LinkId) (bm : BitVec 48) (hm : 0x176776C024A#48 &&& ~~~ bm = 0) : blank bm (State.restartSess s env l) = blank bm s := by
  refine blank_mono hm ?_; clear hm bm
  simp [State.restartSess]

@[simp] theorem State.awaitSess_frame (s : State) (l : LinkId) (drain : Bool) (r : CmdRef) (bm : BitVec 48) (hm : 0x400080000#48 &&& ~~~ bm = 0) : blank bm (State.awaitSess s l drain r) = blank bm s := by
  refine blank_mono hm ?_; clear hm bm
  simp [State.awaitSess]

@[simp] theorem State.headerSeen_frame (s : State) (l : LinkId) (lo : Byte) (bm : BitVec 48) (hm : 0x2100000008#48 &&& ~~~ bm = 0) : blank bm (State.headerSeen s l lo) = blank bm s := by
  refine blank_mono hm ?_; clear hm bm
  first | (simp [State.headerSeen]; done) | (simp only [State.headerSeen]; (repeat' split) <;> simp; done) | (simp only [State.headerSeen]; (repeat' split) <;> simp [blank]; done)

@[simp] theorem State.retrain_frame (s : State) (l : LinkId) (bm : BitVec 48) (hm : 0x176776C0248#48 &&& ~~~ bm = 0) : blank bm (State.retrain s l) = blank bm s := by
  refine blank_mono hm ?_; clear hm bm
  simp [State.retrain]

/-! ## Owner -/

@[simp] theorem blank_b2 (x : State) (v1 : BitVec 14) (v2 : BitVec 3) (bm : BitVec 48) (hm : 0x300#48 &&& ~~~ bm = 0) : blank bm { x with boot := { x.boot with bp := v1, state := v2 } } = blank bm x := by
  refine blank_mono hm ?_; clear hm bm; simp [blank]

@[simp] theorem State.epochBoundary_frame (s : State) (epoch : W32) (ws : List W64) (bm : BitVec 48) (hm : 0x500220000#48 &&& ~~~ bm = 0) : blank bm (State.epochBoundary s epoch ws) = blank bm s := by
  refine blank_mono hm ?_; clear hm bm
  simp only [State.epochBoundary]; (repeat' split) <;> (try simp) <;> simp [blank]

@[simp] theorem State.downstream_frame (s : State) (h : MsgHdr) (b : MsgBody) (bm : BitVec 48) (hm : 0x2600000040#48 &&& ~~~ bm = 0) : blank bm (State.downstream s h b) = blank bm s := by
  refine blank_mono hm ?_; clear hm bm
  simp only [State.downstream]; (repeat' split) <;> simp

@[simp] theorem State.startRing_frame (s : State) (sub : W16) (b : MsgBody) (bm : BitVec 48) (hm : 0x2600000040#48 &&& ~~~ bm = 0) : blank bm (State.startRing s sub b) = blank bm s := by
  refine blank_mono hm ?_; clear hm bm
  simp only [State.startRing]; (repeat' split) <;> (try simp) <;> simp [blank]

@[simp] theorem State.stopRing_frame (s : State) (f : RingMsg → Bool) (bm : BitVec 48) (hm : 0x2400000000#48 &&& ~~~ bm = 0) : blank bm (State.stopRing s f) = blank bm s := by
  refine blank_mono hm ?_; clear hm bm
  simp [State.stopRing]

@[simp] theorem State.endPublish_frame (s : State) (ok : Bool) (bm : BitVec 48) (hm : 0x2400080000#48 &&& ~~~ bm = 0) : blank bm (State.endPublish s ok) = blank bm s := by
  refine blank_mono hm ?_; clear hm bm
  simp only [State.endPublish]; (repeat' split) <;> simp

@[simp] theorem State.ringBack_frame (s : State) (h : MsgHdr) (bm : BitVec 48) (hm : 0x2400000000#48 &&& ~~~ bm = 0) : blank bm (s.ringBack h).2 = blank bm s := by
  refine blank_mono hm ?_; clear hm bm
  unfold State.ringBack; simp

@[simp] theorem State.passOn_frame (s : State) (h : MsgHdr) (b : MsgBody) (bm : BitVec 48) (hm : 0x2600000040#48 &&& ~~~ bm = 0) : blank bm (State.passOn s h b) = blank bm s := by
  refine blank_mono hm ?_; clear hm bm
  simp [State.passOn]

@[simp] theorem State.countOrphan_frame (s : State) (bm : BitVec 48) (hm : 0x400000000#48 &&& ~~~ bm = 0) : blank bm (State.countOrphan s) = blank bm s := by
  refine blank_mono hm ?_; clear hm bm
  simp [State.countOrphan]

@[simp] theorem State.supersede_frame (s : State) (epoch : W32) (bm : BitVec 48) (hm : 0x2500080000#48 &&& ~~~ bm = 0) : blank bm (State.supersede s epoch) = blank bm s := by
  refine blank_mono hm ?_; clear hm bm
  simp only [State.supersede]; (repeat' split) <;> simp

@[simp] theorem State.stageEntries_frame (s : State) (h : MsgHdr) (epoch : W32) (total : W32) (es : List W64) (bm : BitVec 48) (hm : 0x2500080000#48 &&& ~~~ bm = 0) : blank bm (State.stageEntries s h epoch total es) = blank bm s := by
  refine blank_mono hm ?_; clear hm bm
  simp only [State.stageEntries]; (repeat' split) <;> simp

@[simp] theorem State.commitOwn_frame (s : State) (bm : BitVec 48) (hm : 0x2700220040#48 &&& ~~~ bm = 0) : blank bm (State.commitOwn s) = blank bm s := by
  refine blank_mono hm ?_; clear hm bm
  simp only [State.commitOwn]; (repeat' split) <;> simp

@[simp] theorem State.oweRing_frame (s : State) (l : LinkId) (bm : BitVec 48) (hm : 0x2200000040#48 &&& ~~~ bm = 0) : blank bm (State.oweRing s l) = blank bm s := by
  refine blank_mono hm ?_; clear hm bm
  simp [State.oweRing]

@[simp] theorem State.commitOther_frame (s : State) (e : W32) (a b : W16) (bm : BitVec 48) (hm : 0x500220008#48 &&& ~~~ bm = 0) : blank bm (s.commitOther e a b).1 = blank bm s := by
  refine blank_mono hm ?_; clear hm bm
  unfold State.commitOther; (repeat' split) <;> simp

@[simp] theorem State.toReady_frame (s : State) (bm : BitVec 48) (hm : 0x10000308#48 &&& ~~~ bm = 0) : blank bm (State.toReady s) = blank bm s := by
  refine blank_mono hm ?_; clear hm bm
  simp only [State.toReady]; simp

@[simp] theorem State.rejectReload_frame (s : State) (bm : BitVec 48) (hm : 0x100000208#48 &&& ~~~ bm = 0) : blank bm (State.rejectReload s) = blank bm s := by
  refine blank_mono hm ?_; clear hm bm
  simp [State.rejectReload]

@[simp] theorem State.leaveReload_frame (s : State) (bm : BitVec 48) (hm : 0x1100040000#48 &&& ~~~ bm = 0) : blank bm (State.leaveReload s) = blank bm s := by
  refine blank_mono hm ?_; clear hm bm
  simp [State.leaveReload]

@[simp] theorem State.readTable_frame (s : State) (env : Env) (bm : BitVec 48) (hm : 0x55706E0308#48 &&& ~~~ bm = 0) : blank bm (State.readTable s env) = blank bm s := by
  refine blank_mono hm ?_; clear hm bm
  simp only [State.readTable]; (repeat' split) <;> simp

@[simp] theorem State.reload_frame (s : State) (env : Env) (bm : BitVec 48) (hm : 0x55706E0308#48 &&& ~~~ bm = 0) : blank bm (State.reload s env) = blank bm s := by
  refine blank_mono hm ?_; clear hm bm
  simp [State.reload]

@[simp] theorem State.regOwnCtl_frame (s : State) (env : Env) (v : W64) (mask : W64) (bm : BitVec 48) (hm : 0x55706E0308#48 &&& ~~~ bm = 0) : blank bm (State.regOwnCtl s env v mask) = blank bm s := by
  refine blank_mono hm ?_; clear hm bm
  simp [State.regOwnCtl]

@[simp] theorem State.beginStep9_frame (s : State) (bm : BitVec 48) (hm : 0x260000024A#48 &&& ~~~ bm = 0) : blank bm (State.beginStep9 s) = blank bm s := by
  refine blank_mono hm ?_; clear hm bm
  simp [State.beginStep9]

@[simp] theorem State.regBootCtl_frame (s : State) (v : W64) (mask : W64) (bm : BitVec 48) (hm : 0x261D27624A#48 &&& ~~~ bm = 0) : blank bm (State.regBootCtl s v mask) = blank bm s := by
  refine blank_mono hm ?_; clear hm bm
  simp only [State.regBootCtl]; (repeat' split) <;> (try simp) <;> simp [blank]

@[simp] theorem State.regChipId_frame (s : State) (u : Bool) (v : W64) (bm : BitVec 48) (hm : 0x260000264A#48 &&& ~~~ bm = 0) : blank bm (State.regChipId s u v) = blank bm s := by
  refine blank_mono hm ?_; clear hm bm
  simp only [State.regChipId]; (repeat' split) <;> (try simp) <;> simp [blank]

/-! ## Faults -/

@[simp] theorem State.tlbFill_frame (s : State) (e : TlbEntry) (bm : BitVec 48) (hm : 0x800000000#48 &&& ~~~ bm = 0) : blank bm (State.tlbFill s e) = blank bm s := by
  refine blank_mono hm ?_; clear hm bm
  simp [State.tlbFill]

@[simp] theorem State.tlbDrop_frame (s : State) (p : PartId) (va : ℕ) (bm : BitVec 48) (hm : 0x800000000#48 &&& ~~~ bm = 0) : blank bm (State.tlbDrop s p va) = blank bm s := by
  refine blank_mono hm ?_; clear hm bm
  simp [State.tlbDrop]

@[simp] theorem State.walkReads_frame (s : State) (p : PartId) (va : ℕ) (check : Check) (level : ℕ) (bm : BitVec 48) (hm : 0x800000000#48 &&& ~~~ bm = 0) : blank bm (State.walkReads s p va check level) = blank bm s := by
  refine blank_mono hm ?_; clear hm bm
  first | (simp [State.walkReads]; done) | (simp only [State.walkReads]; (repeat' split) <;> simp; done) | (simp only [State.walkReads]; (repeat' split) <;> simp [blank]; done)

@[simp] theorem State.walkFault_frame (s : State) (env : Env) (p : PartId) (k : AccKind) (va : ℕ) (who : WalkFor) (x : Xfault) (bm : BitVec 48) (hm : 0x76776C0248#48 &&& ~~~ bm = 0) : blank bm (State.walkFault s env p k va who x) = blank bm s := by
  refine blank_mono hm ?_; clear hm bm
  simp only [State.walkFault]; (repeat' split) <;> simp

@[simp] theorem State.walkLost_frame (s : State) (p : PartId) (who : WalkFor) (bm : BitVec 48) (hm : 0x130D7640028#48 &&& ~~~ bm = 0) : blank bm (State.walkLost s p who) = blank bm s := by
  refine blank_mono hm ?_; clear hm bm
  first | (simp [State.walkLost]; done) | (simp only [State.walkLost]; (repeat' split) <;> simp; done) | (simp only [State.walkLost]; (repeat' split) <;> simp [blank]; done)

@[simp] theorem State.invalidate_frame (s : State) (p : PartId) (i : Inval) (bm : BitVec 48) (hm : 0x800000000#48 &&& ~~~ bm = 0) : blank bm (State.invalidate s p i) = blank bm s := by
  refine blank_mono hm ?_; clear hm bm
  simp [State.invalidate, blank]

@[simp] theorem State.beginInval_frame (s : State) (p : PartId) (bm : BitVec 48) (hm : 0x800040000#48 &&& ~~~ bm = 0) : blank bm (State.beginInval s p) = blank bm s := by
  refine blank_mono hm ?_; clear hm bm
  first | (simp [State.beginInval]; done) | (simp only [State.beginInval]; (repeat' split) <;> simp; done) | (simp only [State.beginInval]; (repeat' split) <;> simp [blank]; done)

@[simp] theorem State.regMmuInval_frame (s : State) (p : PartId) (v : W64) (bm : BitVec 48) (hm : 0x800040000#48 &&& ~~~ bm = 0) : blank bm (State.regMmuInval s p v) = blank bm s := by
  refine blank_mono hm ?_; clear hm bm
  simp [State.regMmuInval]

@[simp] theorem State.replayOp_frame (s : State) (env : Env) (h : ℕ) (n : ℕ) (bm : BitVec 48) (hm : 0x176776C0248#48 &&& ~~~ bm = 0) : blank bm (State.replayOp s env h n) = blank bm s := by
  refine blank_mono hm ?_; clear hm bm
  simp only [State.replayOp]; (repeat' split) <;> simp

theorem State.resend_frame {s : State} {id : W32} {k : Nat} {p : PartId} {t : State} (h : s.resend id k p = some t) (bm : BitVec 48) (hm : 0x2600400040#48 &&& ~~~ bm = 0) : blank bm t = blank bm s := by
  refine blank_mono hm ?_; clear hm bm
  unfold State.resend at h
  (repeat' split at h) <;> cases h <;> simp

@[simp] theorem State.rewrite_frame (s : State) (env : Env) (f : RetEntry → Bool) (bm : BitVec 48) (hm : 0x150706C0008#48 &&& ~~~ bm = 0) : blank bm (State.rewrite s env f) = blank bm s := by
  refine blank_mono hm ?_; clear hm bm
  simp only [State.rewrite]; (repeat' split) <;> simp

@[simp] theorem State.replayWork_frame (s : State) (env : Env) (w : Parked) (bm : BitVec 48) (hm : 0x177776E0348#48 &&& ~~~ bm = 0) : blank bm (State.replayWork s env w) = blank bm s := by
  refine blank_mono hm ?_; clear hm bm
  unfold State.replayWork
  split
  · rfl
  · simp only []
    split <;> (repeat' split) <;> (try simp)
    all_goals
      have e := State.resend_frame (by assumption) 0x177776E0348#48 (by decide)
      simp [e]

@[simp] theorem State.againWork_frame (s : State) (env : Env) (p : PartId) (c : FaultCtx) (va : ℕ) (w : Parked) (bm : BitVec 48) (hm : 0x177776E0348#48 &&& ~~~ bm = 0) : blank bm (State.againWork s env p c va w) = blank bm s := by
  refine blank_mono hm ?_; clear hm bm
  first | (simp [State.againWork]; done) | (simp only [State.againWork]; (repeat' split) <;> simp; done) | (simp only [State.againWork]; (repeat' split) <;> simp [blank]; done)

@[simp] theorem State.reissueWork_frame (s : State) (env : Env) (p : PartId) (o : Over) (bm : BitVec 48) (hm : 0x177F76E0368#48 &&& ~~~ bm = 0) : blank bm (State.reissueWork s env p o) = blank bm s := by
  refine blank_mono hm ?_; clear hm bm
  simp only [State.reissueWork]; (repeat' split) <;> simp

@[simp] theorem State.closeFault_frame (s : State) (f : OpenFault) (bm : BitVec 48) (hm : 0x1000000000#48 &&& ~~~ bm = 0) : blank bm (State.closeFault s f) = blank bm s := by
  refine blank_mono hm ?_; clear hm bm
  simp [State.closeFault]

@[simp] theorem State.replayFault_frame (s : State) (env : Env) (f : OpenFault) (bm : BitVec 48) (hm : 0x17F776E0348#48 &&& ~~~ bm = 0) : blank bm (State.replayFault s env f) = blank bm s := by
  refine blank_mono hm ?_; clear hm bm
  simp [State.replayFault]

@[simp] theorem State.abortBuild_frame (s : State) (p : PartId) (r : CmdRef) (c : Cmd) (bm : BitVec 48) (hm : 0x10280000#48 &&& ~~~ bm = 0) : blank bm (State.abortBuild s p r c) = blank bm s := by
  refine blank_mono hm ?_; clear hm bm
  simp only [State.abortBuild]; (repeat' split) <;> (try simp) <;> (repeat' split) <;> simp

@[simp] theorem State.abortCmd_frame (s : State) (env : Env) (q : QueueId) (n : ℕ) (bm : BitVec 48) (hm : 0x170F76C0028#48 &&& ~~~ bm = 0) : blank bm (State.abortCmd s env q n) = blank bm s := by
  refine blank_mono hm ?_; clear hm bm
  simp only [State.abortCmd]; (repeat' split) <;> simp

@[simp] theorem State.abortRing_frame (s : State) (q : QueueId) (bm : BitVec 48) (hm : 0x80000#48 &&& ~~~ bm = 0) : blank bm (State.abortRing s q) = blank bm s := by
  refine blank_mono hm ?_; clear hm bm
  simp [State.abortRing]

@[simp] theorem State.dropRecords_frame (s : State) (q : QueueId) (l : List Cmd) (bm : BitVec 48) (hm : 0x60002C0088#48 &&& ~~~ bm = 0) : blank bm (s.dropRecords q l) = blank bm s := by
  refine blank_mono hm ?_; clear hm bm
  induction l generalizing s with
  | nil => rfl
  | cons c r ih =>
    simp only [State.dropRecords]
    split
    · rw [ih]; simp
    · rfl

@[simp] theorem State.abortCompletion_frame (s : State) (q : QueueId) (bm : BitVec 48) (hm : 0x60002C0088#48 &&& ~~~ bm = 0) : blank bm (State.abortCompletion s q) = blank bm s := by
  refine blank_mono hm ?_; clear hm bm
  simp [State.abortCompletion]

@[simp] theorem State.abortResult_frame (s : State) (f : RetEntry → Bool) (bm : BitVec 48) (hm : 0x30080000#48 &&& ~~~ bm = 0) : blank bm (State.abortResult s f) = blank bm s := by
  refine blank_mono hm ?_; clear hm bm
  simp only [State.abortResult]; (repeat' split) <;> simp

@[simp] theorem State.abortBundle_frame (s : State) (env : Env) (h : ℕ) (drop : Bundle → Bundle) (bm : BitVec 48) (hm : 0x176776C0248#48 &&& ~~~ bm = 0) : blank bm (State.abortBundle s env h drop) = blank bm s := by
  refine blank_mono hm ?_; clear hm bm
  simp [State.abortBundle]

@[simp] theorem State.abortWork_frame (s : State) (env : Env) (f : OpenFault) (w : Parked) (bm : BitVec 48) (hm : 0x177F76C02E8#48 &&& ~~~ bm = 0) : blank bm (State.abortWork s env f w) = blank bm s := by
  refine blank_mono hm ?_; clear hm bm
  simp only [State.abortWork]; (repeat' split) <;> simp

@[simp] theorem State.abortFault_frame (s : State) (env : Env) (f : OpenFault) (bm : BitVec 48) (hm : 0x177F76C02E8#48 &&& ~~~ bm = 0) : blank bm (State.abortFault s env f) = blank bm s := by
  refine blank_mono hm ?_; clear hm bm
  simp [State.abortFault]

@[simp] theorem State.reissueOverflow_frame (s : State) (env : Env) (p : PartId) (bm : BitVec 48) (hm : 0x177F76E0368#48 &&& ~~~ bm = 0) : blank bm (State.reissueOverflow s env p) = blank bm s := by
  refine blank_mono hm ?_; clear hm bm
  simp [State.reissueOverflow]

@[simp] theorem State.badReplay_frame (s : State) (p : PartId) (bm : BitVec 48) (hm : 0x40000#48 &&& ~~~ bm = 0) : blank bm (State.badReplay s p) = blank bm s := by
  refine blank_mono hm ?_; clear hm bm
  simp [State.badReplay]

@[simp] theorem State.actFault_frame (s : State) (env : Env) (p : PartId) (abort : Bool) (id : BitVec 10) (bm : BitVec 48) (hm : 0x17FF76E03E8#48 &&& ~~~ bm = 0) : blank bm (State.actFault s env p abort id) = blank bm s := by
  refine blank_mono hm ?_; clear hm bm
  first | (simp [State.actFault]; done) | (simp only [State.actFault]; (repeat' split) <;> simp; done) | (simp only [State.actFault]; (repeat' split) <;> simp [blank]; done)

@[simp] theorem State.regFaultReplay_frame (s : State) (env : Env) (p : PartId) (v : W32) (bm : BitVec 48) (hm : 0x17FF76E03E8#48 &&& ~~~ bm = 0) : blank bm (State.regFaultReplay s env p v) = blank bm s := by
  refine blank_mono hm ?_; clear hm bm
  simp only [State.regFaultReplay]; (repeat' split) <;> simp

@[simp] theorem State.regFqAck_frame (s : State) (p : PartId) (v : W32) (mask : W32) (bm : BitVec 48) (hm : 0x240008#48 &&& ~~~ bm = 0) : blank bm (State.regFqAck s p v mask) = blank bm s := by
  refine blank_mono hm ?_; clear hm bm
  simp [State.regFqAck]

/-! ## Reset -/

@[simp] theorem blank_mmu2 (x : State) (v1 : List TlbEntry) (v2 : List OpenFault) (bm : BitVec 48) (hm : 0x1800000000#48 &&& ~~~ bm = 0) : blank bm { x with mmu := { x.mmu with tlb := v1, faults := v2 } } = blank bm x := by
  refine blank_mono hm ?_; clear hm bm; simp [blank]

@[simp] theorem State.dropResults_frame (s : State) (x : Group) (bm : BitVec 48) (hm : 0x20D0440028#48 &&& ~~~ bm = 0) : blank bm (State.dropResults s x) = blank bm s := by
  refine blank_mono hm ?_; clear hm bm
  simp only [State.dropResults]; (repeat' split) <;> simp

@[simp] theorem State.dropGroups_frame (s : State) (p : PartId) (bm : BitVec 48) (hm : 0x30D7640028#48 &&& ~~~ bm = 0) : blank bm (State.dropGroups s p) = blank bm s := by
  refine blank_mono hm ?_; clear hm bm
  simp only [State.dropGroups]
  rw [foldl_frame _ _ (fun x a => State.reply_frame _ _ _ _ _ _ (by decide))]
  simp only [blank_setter, BitVec.reduceAnd, BitVec.reduceNot, BitVec.reduceEq]
  rw [foldl_frame, foldl_frame, foldl_frame]
  · intro x c
    apply foldl_frame; intro y k
    (repeat' split) <;> simp
  · intro x e; simp
  · intro x c
    rw [foldl_frame]
    · simp
    · intro y w
      rw [foldl_frame]
      intro z g; simp

@[simp] theorem State.dropHerd_frame (s : State) (p : PartId) (bm : BitVec 48) (hm : 0x2003000000#48 &&& ~~~ bm = 0) : blank bm (State.dropHerd s p) = blank bm s := by
  refine blank_mono hm ?_; clear hm bm
  simp only [State.dropHerd]; (repeat' split) <;> (try simp) <;> simp [blank]

@[simp] theorem State.dropVis_frame (s : State) (p : PartId) (bm : BitVec 48) (hm : 0x80040000#48 &&& ~~~ bm = 0) : blank bm (State.dropVis s p) = blank bm s := by
  refine blank_mono hm ?_; clear hm bm
  simp [State.dropVis]

@[simp] theorem State.cancelLeashes_frame (s : State) (p : PartId) (bm : BitVec 48) (hm : 0x2600400040#48 &&& ~~~ bm = 0) : blank bm (State.cancelLeashes s p) = blank bm s := by
  refine blank_mono hm ?_; clear hm bm
  unfold State.cancelLeashes
  apply foldl_frame; intro x e
  (repeat' split) <;> simp

@[simp] theorem State.beginReset_frame (s : State) (p : PartId) (flr : Bool) (bm : BitVec 48) (hm : 0x76F76C0268#48 &&& ~~~ bm = 0) : blank bm (State.beginReset s p flr) = blank bm s := by
  refine blank_mono hm ?_; clear hm bm
  simp [State.beginReset]

@[simp] theorem State.regPartReset_frame (s : State) (p : PartId) (v : W32) (bm : BitVec 48) (hm : 0x76F76C0268#48 &&& ~~~ bm = 0) : blank bm (State.regPartReset s p v) = blank bm s := by
  refine blank_mono hm ?_; clear hm bm
  simp [State.regPartReset]

@[simp] theorem State.clearVisit_frame (s : State) (i : ℕ) (bm : BitVec 48) (hm : 0x400000#48 &&& ~~~ bm = 0) : blank bm (State.clearVisit s i) = blank bm s := by
  refine blank_mono hm ?_; clear hm bm
  first | (simp [State.clearVisit]; done) | (simp only [State.clearVisit]; (repeat' split) <;> simp; done) | (simp only [State.clearVisit]; (repeat' split) <;> simp [blank]; done)

@[simp] theorem State.discardSlots_frame (s : State) (p : PartId) (bm : BitVec 48) (hm : 0x400000#48 &&& ~~~ bm = 0) : blank bm (State.discardSlots s p) = blank bm s := by
  refine blank_mono hm ?_; clear hm bm
  unfold State.discardSlots
  apply foldl_frame; intro x e
  (repeat' split) <;> simp

@[simp] theorem State.discardResults_frame (s : State) (p : PartId) (bm : BitVec 48) (hm : 0x32000000#48 &&& ~~~ bm = 0) : blank bm (State.discardResults s p) = blank bm s := by
  refine blank_mono hm ?_; clear hm bm
  simp only [State.discardResults]; (repeat' split) <;> (try simp) <;> simp [blank]

@[simp] theorem State.closeFaults_frame (s : State) (env : Env) (p : PartId) (bm : BitVec 48) (hm : 0x17F776E0348#48 &&& ~~~ bm = 0) : blank bm (State.closeFaults s env p) = blank bm s := by
  refine blank_mono hm ?_; clear hm bm
  simp only [State.closeFaults]
  rw [foldl_frame]
  · simp
  · intro x w
    (repeat' split) <;> simp

@[simp] theorem State.resetQueues_frame (s : State) (p : PartId) (bm : BitVec 48) (hm : 0x400080000#48 &&& ~~~ bm = 0) : blank bm (State.resetQueues s p) = blank bm s := by
  refine blank_mono hm ?_; clear hm bm
  simp [State.resetQueues]

@[simp] theorem State.resetPage_frame (s : State) (p : PartId) (bm : BitVec 48) (hm : 0x40000#48 &&& ~~~ bm = 0) : blank bm (State.resetPage s p) = blank bm s := by
  refine blank_mono hm ?_; clear hm bm
  simp [State.resetPage]

/-! ## Debug -/

@[simp] theorem State.putSlotUnit_frame (s : State) (i : ℕ) (w : Slot64) (bm : BitVec 48) (hm : 0x2020400000#48 &&& ~~~ bm = 0) : blank bm (State.putSlotUnit s i w) = blank bm s := by
  refine blank_mono hm ?_; clear hm bm
  simp only [State.putSlotUnit]; (repeat' split) <;> simp

@[simp] theorem State.putTagUnit_frame (s : State) (i : ℕ) (w : Slot64) (bm : BitVec 48) (hm : 0x400000#48 &&& ~~~ bm = 0) : blank bm (State.putTagUnit s i w) = blank bm s := by
  refine blank_mono hm ?_; clear hm bm
  simp only [State.putTagUnit]; (repeat' split) <;> simp

@[simp] theorem State.putVisitUnit_frame (s : State) (i : ℕ) (w : Slot64) (bm : BitVec 48) (hm : 0x400000#48 &&& ~~~ bm = 0) : blank bm (State.putVisitUnit s i w) = blank bm s := by
  refine blank_mono hm ?_; clear hm bm
  simp only [State.putVisitUnit]; (repeat' split) <;> first | (simp; done) | simp [blank]

@[simp] theorem State.putCandUnit_frame (s : State) (i : ℕ) (w : Slot64) (bm : BitVec 48) (hm : 0x400000#48 &&& ~~~ bm = 0) : blank bm (State.putCandUnit s i w) = blank bm s := by
  refine blank_mono hm ?_; clear hm bm
  simp only [State.putCandUnit]; split <;> simp

@[simp] theorem State.putOwnerUnit_frame (s : State) (i : ℕ) (w : Slot64) (bm : BitVec 48) (hm : 0x100000000#48 &&& ~~~ bm = 0) : blank bm (State.putOwnerUnit s i w) = blank bm s := by
  refine blank_mono hm ?_; clear hm bm
  simp [State.putOwnerUnit]

@[simp] theorem State.putUnit_frame (s : State) (st : ℕ) (i : ℕ) (w : Slot64) (bm : BitVec 48) (hm : 0x2120400000#48 &&& ~~~ bm = 0) : blank bm (State.putUnit s st i w) = blank bm s := by
  refine blank_mono hm ?_; clear hm bm
  simp only [State.putUnit]; (repeat' split) <;> simp

@[simp] theorem State.dbgBad_frame (s : State) (bm : BitVec 48) (hm : 0x8000000000#48 &&& ~~~ bm = 0) : blank bm (State.dbgBad s) = blank bm s := by
  refine blank_mono hm ?_; clear hm bm
  simp [State.dbgBad]

@[simp] theorem State.slotLost_frame (s : State) (i : ℕ) (bm : BitVec 48) (hm : 0x17677EC0248#48 &&& ~~~ bm = 0) : blank bm (State.slotLost s i) = blank bm s := by
  refine blank_mono hm ?_; clear hm bm
  first | (simp [State.slotLost]; done) | (simp only [State.slotLost]; (repeat' split) <;> simp; done) | (simp only [State.slotLost]; (repeat' split) <;> simp [blank]; done)

@[simp] theorem State.dbgMeets_frame (s : State) (st : ℕ) (i : ℕ) (check : Check) (bm : BitVec 48) (hm : 0x17677EC034A#48 &&& ~~~ bm = 0) : blank bm (State.dbgMeets s st i check) = blank bm s := by
  refine blank_mono hm ?_; clear hm bm
  first | (simp [State.dbgMeets]; done) | (simp only [State.dbgMeets]; (repeat' split) <;> simp; done) | (simp only [State.dbgMeets]; (repeat' split) <;> simp [blank]; done)

@[simp] theorem State.regDbgCmd_frame (s : State) (v : W32) (check : Check) (bm : BitVec 48) (hm : 0x3F777EC034A#48 &&& ~~~ bm = 0) : blank bm (State.regDbgCmd s v check) = blank bm s := by
  refine blank_mono hm ?_; clear hm bm
  simp only [State.regDbgCmd]; (repeat' split) <;> (try simp) <;> simp [blank]

@[simp] theorem State.dbgAccess_frame (s : State) (req : Requester) (f : State → State) (bm : BitVec 48) (hf : ∀ x, blank bm (f x) = blank bm x) (hm : 0x3010#48 &&& ~~~ bm = 0) : blank bm (s.dbgAccess req f) = blank bm s := by
  exact State.busWrite_frame _ _ _ _ _ _ _ (fun _ => hf) hm

/-! ## Csr -/

@[simp] theorem State.regPwrCtl_frame (s : State) (v : W64) (bm : BitVec 48) (hm : 0x8220000#48 &&& ~~~ bm = 0) : blank bm (State.regPwrCtl s v) = blank bm s := by
  refine blank_mono hm ?_; clear hm bm
  simp [State.regPwrCtl]

@[simp] theorem State.regHerdCtl_frame (s : State) (v : W64) (bm : BitVec 48) (hm : 0x1220000#48 &&& ~~~ bm = 0) : blank bm (State.regHerdCtl s v) = blank bm s := by
  refine blank_mono hm ?_; clear hm bm
  simp only [State.regHerdCtl]; (repeat' split) <;> simp

@[simp] theorem State.regCfgRpt_frame (s : State) (v : W64) (m : W64) (bm : BitVec 48) (hm : 0x220000#48 &&& ~~~ bm = 0) : blank bm (State.regCfgRpt s v m) = blank bm s := by
  refine blank_mono hm ?_; clear hm bm
  simp only [State.regCfgRpt]; (repeat' split) <;> (try simp) <;> simp [blank]

@[simp] theorem State.regFwdCtl_frame (s : State) (v : W64) (m : W64) (bm : BitVec 48) (hm : 0x400000000#48 &&& ~~~ bm = 0) : blank bm (State.regFwdCtl s v m) = blank bm s := by
  refine blank_mono hm ?_; clear hm bm
  simp only [State.regFwdCtl]; (repeat' split) <;> (try simp) <;> simp [blank]

@[simp] theorem State.regMcAddr_frame (s : State) (u : Bool) (v : W64) (m : W64) (bm : BitVec 48) (hm : 0x2808#48 &&& ~~~ bm = 0) : blank bm (State.regMcAddr s u v m) = blank bm s := by
  refine blank_mono hm ?_; clear hm bm
  simp only [State.regMcAddr]; (repeat' split) <;> simp

@[simp] theorem State.regUnlockWord_frame (s : State) (u : Bool) (v : W64) (m : W64) (bm : BitVec 48) (hm : 0x3000#48 &&& ~~~ bm = 0) : blank bm (State.regUnlockWord s u v m) = blank bm s := by
  refine blank_mono hm ?_; clear hm bm
  simp only [State.regUnlockWord]; (repeat' split) <;> simp

@[simp] theorem State.regDbgCtl_frame (s : State) (u : Bool) (v : W64) (bm : BitVec 48) (hm : 0x8000002008#48 &&& ~~~ bm = 0) : blank bm (State.regDbgCtl s u v) = blank bm s := by
  refine blank_mono hm ?_; clear hm bm
  simp only [State.regDbgCtl]; (repeat' split) <;> simp

@[simp] theorem State.regCfgWin_frame (s : State) (off : ℕ) (v : W64) (m : W64) (bm : BitVec 48) (hm : 0x20000#48 &&& ~~~ bm = 0) : blank bm (State.regCfgWin s off v m) = blank bm s := by
  refine blank_mono hm ?_; clear hm bm
  simp only [State.regCfgWin]; (repeat' split) <;> simp

@[simp] theorem State.globalLow_frame (s : State) (u : Bool) (base : ℕ) (v : W64) (m : W64) (bm : BitVec 48) (hm : 0x1E61FA7EF4B#48 &&& ~~~ bm = 0) : blank bm (State.globalLow s u base v m) = blank bm s := by
  refine blank_mono hm ?_; clear hm bm
  simp only [State.globalLow]; (repeat' split) <;> (try simp) <;> simp [blank]

@[simp] theorem State.globalPut_frame (s : State) (env : Env) (u : Bool) (base : ℕ) (v : W64) (m : W64) (bm : BitVec 48) (hm : 0x3F77FEFFF4B#48 &&& ~~~ bm = 0) : blank bm (State.globalPut s env u base v m) = blank bm s := by
  refine blank_mono hm ?_; clear hm bm
  simp only [State.globalPut]; (repeat' split) <;> simp

@[simp] theorem State.ovfWrite_frame (s : State) (p : PartId) (lo : Nat) (v : BitVec 2) (bm : BitVec 48) (hm : 0x220000#48 &&& ~~~ bm = 0) : blank bm (s.ovfWrite p lo v).2 = blank bm s := by
  refine blank_mono hm ?_; clear hm bm
  unfold State.ovfWrite; split <;> simp

@[simp] theorem State.regFpCtl_frame (s : State) (p : PartId) (v : W64) (bm : BitVec 48) (hm : 0x260000#48 &&& ~~~ bm = 0) : blank bm (State.regFpCtl s p v) = blank bm s := by
  refine blank_mono hm ?_; clear hm bm
  simp only [State.regFpCtl]; (repeat' split) <;> simp

@[simp] theorem State.regFqBase_frame (s : State) (p : PartId) (v : W64) (m : W64) (bm : BitVec 48) (hm : 0x260000#48 &&& ~~~ bm = 0) : blank bm (State.regFqBase s p v m) = blank bm s := by
  refine blank_mono hm ?_; clear hm bm
  simp [State.regFqBase]

@[simp] theorem State.pageLow_frame (s : State) (p : PartId) (base : ℕ) (v : W64) (bm : BitVec 48) (hm : 0x76F76E0268#48 &&& ~~~ bm = 0) : blank bm (State.pageLow s p base v) = blank bm s := by
  refine blank_mono hm ?_; clear hm bm
  simp only [State.pageLow]; (repeat' split) <;> simp

@[simp] theorem State.queuePut_frame (s : State) (env : Env) (p : PartId) (q : QueueId) (base : ℕ) (v : W64) (m : W64) (bm : BitVec 48) (hm : 0x50706C0008#48 &&& ~~~ bm = 0) : blank bm (State.queuePut s env p q base v m) = blank bm s := by
  refine blank_mono hm ?_; clear hm bm
  simp only [State.queuePut]; (repeat' split) <;> simp

@[simp] theorem State.pagePut_frame (s : State) (env : Env) (p : PartId) (base : ℕ) (v : W64) (m : W64) (bm : BitVec 48) (hm : 0x17FF7EE03E8#48 &&& ~~~ bm = 0) : blank bm (State.pagePut s env p base v m) = blank bm s := by
  refine blank_mono hm ?_; clear hm bm
  simp only [State.pagePut]; (repeat' split) <;> simp

/-! ## FwdIn -/

@[simp] theorem State.answerQuery_frame (s : State) (l : LinkId) (h : MsgHdr) (n : ℕ) (b : MsgBody) (bm : BitVec 48) (hm : 0x2600000040#48 &&& ~~~ bm = 0) : blank bm (State.answerQuery s l h n b) = blank bm s := by
  refine blank_mono hm ?_; clear hm bm
  simp [State.answerQuery]

@[simp] theorem State.holdQuery_frame (s : State) (f : Foreign) (bm : BitVec 48) (hm : 0x2400000000#48 &&& ~~~ bm = 0) : blank bm (State.holdQuery s f) = blank bm s := by
  refine blank_mono hm ?_; clear hm bm
  simp [State.holdQuery]

@[simp] theorem State.faultQuery_frame (s : State) (f : Foreign) (x : Xfault) (bm : BitVec 48) (hm : 0x66676C0248#48 &&& ~~~ bm = 0) : blank bm (State.faultQuery s f x) = blank bm s := by
  refine blank_mono hm ?_; clear hm bm
  simp [State.faultQuery]

@[simp] theorem State.takeQuery_frame (s : State) (env : Env) (l : LinkId) (h : MsgHdr) (b : MsgBody) (kind : BitVec 2) (precise : Bool) (leaseUs : Nat) (req : Option ReduceReqBody) (ds : List KData) (go : Nat → Foreign → State → State) (bm : BitVec 48) (hf : ∀ i f x, blank bm (go i f x) = blank bm x) (hm : 0x2600440040#48 &&& ~~~ bm = 0) : blank bm (s.takeQuery env l h b kind precise leaseUs req ds go) = blank bm s := by
  simp only [State.takeQuery]
  have e := fun (x : State) => State.answerQuery_frame x
  split
  · exact State.answerQuery_frame _ _ _ _ _ _ (blank_sub hm (by decide))
  · split
    · exact State.answerQuery_frame _ _ _ _ _ _ (blank_sub hm (by decide))
    · split
      · rename_i h1
        rw [hf, State.holdQuery_frame _ _ _ (blank_sub hm (by decide))]
        exact State.kTakeAll_frame _ _ _ _ _ _ h1 _ (blank_sub hm (by decide))
      · exact State.answerQuery_frame _ _ _ _ _ _ (blank_sub hm (by decide))

@[simp] theorem State.queryIn_frame (s : State) (env : Env) (l : LinkId) (h : MsgHdr) (b : MsgBody) (take : State → State) (bm : BitVec 48) (hf : ∀ x, blank bm (take x) = blank bm x) (hm : 0x270000004C#48 &&& ~~~ bm = 0) : blank bm (s.queryIn env l h b take) = blank bm s := by
  have e : blank bm (s.at env.t) = blank bm s := State.at_frame _ _ _ (blank_sub hm (by decide))
  simp only [State.queryIn]
  split
  · exact e
  · split
    · rw [State.relay_frame _ _ _ _ _ (blank_sub hm (by decide)), State.arrived_frame _ _ _ _ (blank_sub hm (by decide)), e]
    · rw [hf, State.updSess_frame _ _ _ _ (blank_sub hm (by decide)), State.arrived_frame _ _ _ _ (blank_sub hm (by decide)), e]

@[simp] theorem State.runRay_frame (s : State) (b : FwdRayBody) (i : ℕ) (f : Foreign) (bm : BitVec 48) (hm : 0x66676C0248#48 &&& ~~~ bm = 0) : blank bm (State.runRay s b i f) = blank bm s := by
  refine blank_mono hm ?_; clear hm bm
  simp only [State.runRay]; (repeat' split) <;> simp

@[simp] theorem State.runBundle_frame (s : State) (env : Env) (b : FwdProbeBody) (i : ℕ) (f : Foreign) (bm : BitVec 48) (hm : 0x176776C0248#48 &&& ~~~ bm = 0) : blank bm (State.runBundle s env b i f) = blank bm s := by
  refine blank_mono hm ?_; clear hm bm
  simp only [State.runBundle]; (repeat' split) <;> simp

@[simp] theorem State.runReduce_frame (s : State) (env : Env) (b : ReduceReqBody) (i : ℕ) (f : Foreign) (bm : BitVec 48) (hm : 0x176776C0248#48 &&& ~~~ bm = 0) : blank bm (State.runReduce s env b i f) = blank bm s := by
  refine blank_mono hm ?_; clear hm bm
  simp only [State.runReduce]; (repeat' split) <;> simp

end Sys2Proof.Machine
end

