-- ==== Sys2Proof/Laws/FrameExec.lean ====
section
/-!
SUPPORT. Sys2Proof/Laws/FrameExec.lean: what each command changes at most.
-/

set_option linter.all false

namespace Sys2Proof.Machine
open Sys2Proof

@[simp] theorem blank_wg (x : State) (v1 : Option GlobalSec) (v2 : List (Option Section × ClampE)) (bm : BitVec 48) (hm : 0x20000#48 &&& ~~~ bm = 0) : blank bm { x with cfg := { x.cfg with waitGlobal := v1, notes := v2 } } = blank bm x := by
  refine blank_mono hm ?_; clear hm bm; simp [blank]

@[simp] theorem blank_cfg4 (x : State) (v1 : List (Option Section × ClampE)) (v2 : Option GlobalSec) (v3 : List PartLoad) (v4 : List CaddyLoad) (v5 : BitVec 3) (bm : BitVec 48) (hm : 0x20000#48 &&& ~~~ bm = 0) : blank bm { x with cfg := { x.cfg with notes := v1, waitGlobal := v2, waitPart := v3, waitCaddy := v4, state := v5 } } = blank bm x := by
  refine blank_mono hm ?_; clear hm bm; simp [blank]

@[simp] theorem blank_op (x : State) (v1 : Option Staging) (v2 : Option Publish) (bm : BitVec 48) (hm : 0x500000000#48 &&& ~~~ bm = 0) : blank bm { x with fwd := { x.fwd with staging := v1, publish := v2 } } = blank bm x := by
  refine blank_mono hm ?_; clear hm bm; simp [blank]

@[simp] theorem blank_op2 (x : State) (v1 : BitVec 13) (v2 : BitVec 13) (bm : BitVec 48) (hm : 0x100000000#48 &&& ~~~ bm = 0) : blank bm { x with fwd := { x.fwd with applied := v1, missed := v2 } } = blank bm x := by
  refine blank_mono hm ?_; clear hm bm; simp [blank]

theorem execPackIssue_frame (p : PartId) (line : ℕ) (why : IssueWhy) (d : HalfTimes) (t : ℕ) (s : State) (t_ : State) (h_ : execPackIssue p line why d t s = .next t_) : blank 0x600324000C#48 t_ = blank 0x600324000C#48 s := by
  simp only [execPackIssue] at h_
  (repeat' split at h_) <;> cases h_ <;> simp

theorem execPackWaitExpiry_frame (p : PartId) (line : ℕ) (d : HalfTimes) (t : ℕ) (s : State) (t_ : State) (h_ : execPackWaitExpiry p line d t s = .next t_) : blank 0x600324000C#48 t_ = blank 0x600324000C#48 s := by
  simp only [execPackWaitExpiry] at h_
  (repeat' split at h_) <;> cases h_ <;> simp

theorem execFetch_frame (p : PartId) (line : ℕ) (env : Env) (s : State) (t_ : State) (h_ : execFetch p line env s = .next t_) : blank 0x176776C034E#48 t_ = blank 0x176776C034E#48 s := by
  simp only [execFetch] at h_
  (repeat' split at h_) <;> cases h_ <;> simp

theorem execLineFill_frame (p : PartId) (line : ℕ) (s : State) (t_ : State) (h_ : execLineFill p line s = .next t_) : blank 0x2001000000#48 t_ = blank 0x2001000000#48 s := by
  simp only [execLineFill] at h_
  (repeat' split at h_) <;> cases h_ <;> (try simp)
  rename_i h
  rw [State.ncFill_frame h _ (by decide)]

theorem execDelivery_frame (port : PortId) (group : BitVec 12) (s : State) (t_ : State) (h_ : execDelivery port group s = .next t_) : blank 0x30080020#48 t_ = blank 0x30080020#48 s := by
  simp only [execDelivery] at h_
  (repeat' split at h_) <;> cases h_ <;> simp

theorem execDelivWaitExpiry_frame (port : PortId) (group : BitVec 12) (t : ℕ) (s : State) (t_ : State) (h_ : execDelivWaitExpiry port group t s = .next t_) : blank 0x60302C002C#48 t_ = blank 0x60302C002C#48 s := by
  simp only [execDelivWaitExpiry] at h_
  (repeat' split at h_) <;> cases h_ <;> simp

theorem execQueueEnable_frame (req : Requester) (p : PartId) (slot : Fin 64) (value : W32) (env : Env) (s : State) (t_ : State) (h_ : execQueueEnable req p slot value env s = .next t_) : blank 0x50706C301C#48 t_ = blank 0x50706C301C#48 s := by
  simp only [execQueueEnable] at h_
  (repeat' split at h_) <;> cases h_ <;> simp

theorem execQueueDisable_frame (req : Requester) (p : PartId) (slot : Fin 64) (value : W32) (s : State) (t_ : State) (h_ : execQueueDisable req p slot value s = .next t_) : blank 0x50706C3018#48 t_ = blank 0x50706C3018#48 s := by
  simp only [execQueueDisable] at h_
  (repeat' split at h_) <;> cases h_ <;> simp

theorem execQueueDisableDone_frame (q : QueueId) (s : State) (t_ : State) (h_ : execQueueDisableDone q s = .next t_) : blank 0x80000#48 t_ = blank 0x80000#48 s := by
  simp only [execQueueDisableDone] at h_
  (repeat' split at h_) <;> cases h_ <;> simp

theorem execQueueResume_frame (req : Requester) (p : PartId) (slot : Fin 64) (value : W32) (s : State) (t_ : State) (h_ : execQueueResume req p slot value s = .next t_) : blank 0x50706C3018#48 t_ = blank 0x50706C3018#48 s := by
  simp only [execQueueResume] at h_
  (repeat' split at h_) <;> cases h_ <;> simp

theorem execWhistle_frame (req : Requester) (p : PartId) (slot : Fin 64) (value : W32) (s : State) (t_ : State) (h_ : execWhistle req p slot value s = .next t_) : blank 0x83010#48 t_ = blank 0x83010#48 s := by
  simp only [execWhistle] at h_
  (repeat' split at h_) <;> cases h_ <;> simp

theorem execScalarWhistle_frame (port : PortId) (word : W32) (s : State) (t_ : State) (h_ : execScalarWhistle port word s = .next t_) : blank 0x10080000#48 t_ = blank 0x10080000#48 s := by
  simp only [execScalarWhistle] at h_
  (repeat' split at h_) <;> cases h_ <;> simp

theorem execCommandFetch_frame (env : Env) (s : State) (t_ : State) (h_ : execCommandFetch env s = .next t_) : blank 0x150707C010E#48 t_ = blank 0x150707C010E#48 s := by
  simp only [execCommandFetch] at h_
  (repeat' split at h_) <;> rw [← Host.Outcome.next.inj h_]
  · simp
  · simp
  · simp
  · rw [State.fetchCmd_frame _ _ _ _ _ _ (by decide), State.doIf_frame _ _ _ _ (fun x => State.errCorrected_frame _ _ (by decide)), State.fetchCount_frame _ _ _ (by decide)]; simp
  · rw [State.fetchEntry_frame _ _ _ _ _ (by decide), State.doIf_frame _ _ _ _ (fun x => State.errCorrected_frame _ _ (by decide)), State.fetchCount_frame _ _ _ (by decide)]; simp

theorem execCommandAdmit_frame (q : QueueId) (env : Env) (s : State) (t_ : State) (h_ : execCommandAdmit q env s = .next t_) : blank 0x50F06C000C#48 t_ = blank 0x50F06C000C#48 s := by
  simp only [execCommandAdmit] at h_
  (repeat' split at h_) <;> cases h_ <;> simp

theorem execNop_frame (q : QueueId) (s : State) (t_ : State) (h_ : execNop q s = .next t_) : blank 0x80000#48 t_ = blank 0x80000#48 s := by
  simp only [execNop] at h_
  (repeat' split at h_) <;> cases h_ <;> simp

theorem execCompletionRecord_frame (q : QueueId) (env : Env) (s : State) (t_ : State) (h_ : execCompletionRecord q env s = .next t_) : blank 0x70706C008C#48 t_ = blank 0x70706C008C#48 s := by
  simp only [execCompletionRecord] at h_
  (repeat' split at h_) <;> cases h_ <;> simp

theorem execProgressShadow_frame (q : QueueId) (env : Env) (s : State) (t_ : State) (h_ : execProgressShadow q env s = .next t_) : blank 0x70706C000C#48 t_ = blank 0x70706C000C#48 s := by
  simp only [execProgressShadow] at h_
  (repeat' split at h_) <;> cases h_ <;> (try simp)
  all_goals
    have e := State.vwrite_frame (by assumption) 0x70706C000C#48 (by decide)
    simp [e]

theorem execCfgImageRead_frame (readError : Bool) (s : State) (t_ : State) (h_ : execCfgImageRead readError s = .next t_) : blank 0x41D27E208#48 t_ = blank 0x41D27E208#48 s := by
  simp only [execCfgImageRead] at h_
  split at h_
  · rw [← Host.Outcome.next.inj h_]
  · split at h_
    · rw [← Host.Outcome.next.inj h_]; simp
    · split at h_ <;> rw [← Host.Outcome.next.inj h_] <;> simp

theorem execCfgSectionApply_frame (sec : Section) (s : State) (t_ : State) (h_ : execCfgSectionApply sec s = .next t_) : blank 0x41C27C008#48 t_ = blank 0x41C27C008#48 s := by
  unfold execCfgSectionApply at h_
  split at h_
  · rw [← Host.Outcome.next.inj h_]
  · split at h_
    · split at h_
      · rw [← Host.Outcome.next.inj h_]
      · simp only [] at h_
        split at h_
        · rw [← Host.Outcome.next.inj h_]
        · rw [← Host.Outcome.next.inj h_, State.doIf_frame _ _ _ _ (fun x => State.endLoad_frame _ _ _ (by decide))]; simp
    · split at h_
      · rw [← Host.Outcome.next.inj h_]
      · split at h_
        · rw [← Host.Outcome.next.inj h_]
        · rw [← Host.Outcome.next.inj h_]
          simp only []
          rw [State.doIf_frame _ _ _ _ (fun x => State.endLoad_frame _ _ _ (by decide)), blank_wg _ _ _ _ (by decide)]
          exact State.applyGlobal_frame _ _ _ _ (by decide)
    · split at h_
      · rw [← Host.Outcome.next.inj h_]
      · split at h_
        · rw [← Host.Outcome.next.inj h_]
        · rw [← Host.Outcome.next.inj h_, State.doIf_frame _ _ _ _ (fun x => State.endLoad_frame _ _ _ (by decide))]; simp

theorem execCfgGo_frame (req : Requester) (value : W64) (s : State) (t_ : State) (h_ : execCfgGo req value s = .next t_) : blank 0x223218#48 t_ = blank 0x223218#48 s := by
  simp only [execCfgGo] at h_
  (repeat' split at h_) <;> cases h_ <;> simp

theorem execCfgCancel_frame (req : Requester) (value : W64) (s : State) (t_ : State) (h_ : execCfgCancel req value s = .next t_) : blank 0x223218#48 t_ = blank 0x223218#48 s := by
  simp only [execCfgCancel] at h_
  (repeat' split at h_) <;> cases h_ <;> simp

theorem execFreeze_frame (req : Requester) (value : W64) (s : State) (t_ : State) (h_ : execFreeze req value s = .next t_) : blank 0x223218#48 t_ = blank 0x223218#48 s := by
  simp only [execFreeze] at h_
  (repeat' split at h_) <;> cases h_ <;> simp

theorem execPtabWrite_frame (req : Requester) (p : PartId) (w : Fin 4) (value : W64) (s : State) (t_ : State) (h_ : execPtabWrite req p w value s = .next t_) : blank 0x227018#48 t_ = blank 0x227018#48 s := by
  simp only [execPtabWrite] at h_
  (repeat' split at h_) <;> cases h_ <;> simp

theorem execCaddySwitch_frame (req : Requester) (value : W32) (s : State) (t_ : State) (h_ : execCaddySwitch req value s = .next t_) : blank 0x400024B018#48 t_ = blank 0x400024B018#48 s := by
  simp only [execCaddySwitch] at h_
  (repeat' split at h_) <;> cases h_ <;> simp

theorem execFence_frame (q : QueueId) (s : State) (t_ : State) (h_ : execFence q s = .next t_) : blank 0x80000#48 t_ = blank 0x80000#48 s := by
  simp only [execFence] at h_
  (repeat' split at h_) <;> cases h_ <;> simp

theorem execWaitValue_frame (q : QueueId) (env : Env) (s : State) (t_ : State) (h_ : execWaitValue q env s = .next t_) : blank 0x70706C000C#48 t_ = blank 0x70706C000C#48 s := by
  simp only [execWaitValue] at h_
  (repeat' split at h_) <;> cases h_ <;> simp

theorem execWaitValuePoll_frame (q : QueueId) (env : Env) (s : State) (t_ : State) (h_ : execWaitValuePoll q env s = .next t_) : blank 0x170706C010E#48 t_ = blank 0x170706C010E#48 s := by
  simp only [execWaitValuePoll] at h_
  (repeat' split at h_) <;> cases h_ <;> simp

theorem execWaitTimeout_frame (q : QueueId) (t : ℕ) (s : State) (t_ : State) (h_ : execWaitTimeout q t s = .next t_) : blank 0x60002C000C#48 t_ = blank 0x60002C000C#48 s := by
  simp only [execWaitTimeout] at h_
  (repeat' split at h_) <;> cases h_ <;> simp

theorem execSignalValue_frame (q : QueueId) (env : Env) (s : State) (t_ : State) (h_ : execSignalValue q env s = .next t_) : blank 0x70706C000C#48 t_ = blank 0x70706C000C#48 s := by
  simp only [execSignalValue] at h_
  (repeat' split at h_) <;> cases h_ <;> simp

theorem execHeel_frame (q : QueueId) (t : ℕ) (s : State) (t_ : State) (h_ : execHeel q t s = .next t_) : blank 0x60002C000C#48 t_ = blank 0x60002C000C#48 s := by
  simp only [execHeel] at h_
  (repeat' split at h_) <;> cases h_ <;> simp

theorem execHeelDrained_frame (q : QueueId) (s : State) (t_ : State) (h_ : execHeelDrained q s = .next t_) : blank 0x64522F4008#48 t_ = blank 0x64522F4008#48 s := by
  simp only [execHeelDrained] at h_
  (repeat' split at h_) <;> cases h_ <;> simp

theorem execDrainTimeout_frame (q : QueueId) (t : ℕ) (s : State) (t_ : State) (h_ : execDrainTimeout q t s = .next t_) : blank 0x166676C024C#48 t_ = blank 0x166676C024C#48 s := by
  simp only [execDrainTimeout] at h_
  (repeat' split at h_) <;> cases h_ <;> simp

theorem execBatchBoundary_frame (scope : BoundaryScope) (s : State) (t_ : State) (h_ : execBatchBoundary scope s = .next t_) : blank 0x45F274000#48 t_ = blank 0x45F274000#48 s := by
  simp only [execBatchBoundary] at h_
  (repeat' split at h_) <;> cases h_ <;> simp

theorem execBindHierarchy_frame (q : QueueId) (s : State) (t_ : State) (h_ : execBindHierarchy q s = .next t_) : blank 0xC0000#48 t_ = blank 0xC0000#48 s := by
  simp only [execBindHierarchy] at h_
  (repeat' split at h_) <;> cases h_ <;> simp

theorem execTuFence_frame (req : Requester) (value : W32) (s : State) (t_ : State) (h_ : execTuFence req value s = .next t_) : blank 0x6007243018#48 t_ = blank 0x6007243018#48 s := by
  simp only [execTuFence] at h_
  (repeat' split at h_) <;> cases h_ <;> simp

theorem execTuUnfence_frame (req : Requester) (value : W32) (s : State) (t_ : State) (h_ : execTuUnfence req value s = .next t_) : blank 0x6007243018#48 t_ = blank 0x6007243018#48 s := by
  simp only [execTuUnfence] at h_
  (repeat' split at h_) <;> cases h_ <;> simp

theorem execTuSelfTestDone_frame (row : Fin 8) (pos : Fin 17) (pass : Bool) (s : State) (t_ : State) (h_ : execTuSelfTestDone row pos pass s = .next t_) : blank 0x4006240008#48 t_ = blank 0x4006240008#48 s := by
  unfold execTuSelfTestDone at h_
  generalize s.arr.rows[row] = x at h_
  dsimp only at h_
  split at h_
  · cases h_; rfl
  · split at h_ <;> rw [← Host.Outcome.next.inj h_]
    · rw [State.tusChanged_frame _ _ _ (by decide), State.traceArr_frame _ _ _ _ (by decide), State.handBacks_frame _ _ (by decide)]
      split <;> simp
    · simp

theorem execRouterFault_frame (row : Fin 8) (_pos : Fin 17) (s : State) (t_ : State) (h_ : execRouterFault row _pos s = .next t_) : blank 0x6007240008#48 t_ = blank 0x6007240008#48 s := by
  simp only [execRouterFault] at h_
  (repeat' split at h_) <;> rw [← Host.Outcome.next.inj h_] <;> simp

theorem execSleepHalf_frame (req : Requester) (h : Half) (value : W32) (s : State) (t_ : State) (h_ : execSleepHalf req h value s = .next t_) : blank 0x4003010#48 t_ = blank 0x4003010#48 s := by
  simp only [execSleepHalf] at h_
  (repeat' split at h_) <;> cases h_ <;> simp

theorem execWakeHalf_frame (req : Requester) (h : Half) (value : W32) (s : State) (t_ : State) (h_ : execWakeHalf req h value s = .next t_) : blank 0x4003010#48 t_ = blank 0x4003010#48 s := by
  simp only [execWakeHalf] at h_
  (repeat' split at h_) <;> cases h_ <;> simp

theorem execHalfAsleep_frame (h : Half) (s : State) (t_ : State) (h_ : execHalfAsleep h s = .next t_) : blank 0x4006240008#48 t_ = blank 0x4006240008#48 s := by
  simp only [execHalfAsleep] at h_
  (repeat' split at h_) <;> cases h_ <;> simp

theorem execHalfAwake_frame (h : Half) (failed : Vector (BitVec 17) 8) (s : State) (t_ : State) (h_ : execHalfAwake h failed s = .next t_) : blank 0x6007240008#48 t_ = blank 0x6007240008#48 s := by
  simp only [execHalfAwake] at h_
  split at h_ <;> rw [← Host.Outcome.next.inj h_]
  rw [State.tusChanged_frame _ _ _ (by decide), State.traceArr_frame _ _ _ _ (by decide), foldl_frame, foldl_frame]
  · simp
  · intro x r; simp
  · intro x r; rw [foldl_frame]; intro y p; split <;> simp

theorem execUnitOut_frame (req : Requester) (value : W32) (s : State) (t_ : State) (h_ : execUnitOut req value s = .next t_) : blank 0x4803018#48 t_ = blank 0x4803018#48 s := by
  simp only [execUnitOut] at h_
  (repeat' split at h_) <;> cases h_ <;> simp

theorem execUnitReturn_frame (req : Requester) (value : W32) (s : State) (t_ : State) (h_ : execUnitReturn req value s = .next t_) : blank 0x4803018#48 t_ = blank 0x4803018#48 s := by
  simp only [execUnitReturn] at h_
  (repeat' split at h_) <;> cases h_ <;> simp

theorem execUnitReturnDone_frame (kind : Fin 3) (idx : Fin 64) (pass : Bool) (s : State) (t_ : State) (h_ : execUnitReturnDone kind idx pass s = .next t_) : blank 0x64C00000#48 t_ = blank 0x64C00000#48 s := by
  simp only [execUnitReturnDone] at h_
  (repeat' split at h_) <;> cases h_ <;> simp

theorem execPowerEstimate_frame (watts : ℕ) (t : ℕ) (s : State) (t_ : State) (h_ : execPowerEstimate watts t s = .next t_) : blank 0x600824000C#48 t_ = blank 0x600824000C#48 s := by
  simp only [execPowerEstimate] at h_
  (repeat' split at h_) <;> cases h_ <;> simp

theorem execJunctionLimit_frame (h : Half) (s : State) (t_ : State) (h_ : execJunctionLimit h s = .next t_) : blank 0x1#48 t_ = blank 0x1#48 s := by
  simp only [execJunctionLimit] at h_
  (repeat' split at h_) <;> cases h_ <;> simp

theorem execJunctionLimitClear_frame (h : Half) (s : State) (t_ : State) (h_ : execJunctionLimitClear h s = .next t_) : blank 0x1#48 t_ = blank 0x1#48 s := by
  simp only [execJunctionLimitClear] at h_
  (repeat' split at h_) <;> cases h_ <;> simp

theorem execTraceEnable_frame (req : Requester) (value : W64) (s : State) (t_ : State) (h_ : execTraceEnable req value s = .next t_) : blank 0x4000003010#48 t_ = blank 0x4000003010#48 s := by
  simp only [execTraceEnable] at h_
  (repeat' split at h_) <;> cases h_ <;> simp

theorem execBlkHeel_frame (req : Requester) (value : W32) (t : ℕ) (s : State) (t_ : State) (h_ : execBlkHeel req value t s = .next t_) : blank 0x2004223014#48 t_ = blank 0x2004223014#48 s := by
  simp only [execBlkHeel] at h_
  (repeat' split at h_) <;> cases h_ <;> simp

theorem execBlockDrainDone_frame (s : State) (t_ : State) (h_ : execBlockDrainDone s = .next t_) : blank 0x245F274008#48 t_ = blank 0x245F274008#48 s := by
  simp only [execBlockDrainDone] at h_
  split at h_ <;> rw [← Host.Outcome.next.inj h_]
  rw [State.irqBlock_frame _ _ _ (by decide)]
  have e : ∀ x : State, ∀ v, blank 0x245F274008#48 { x with arr := { x.arr with blkDraining := v } } = blank 0x245F274008#48 x := fun x v => by simp
  rw [e, State.applyBlock_frame _ _ (by decide), foldl_frame]
  · simp
  · intro x p; simp

theorem execBlkTimeout_frame (t : ℕ) (s : State) (t_ : State) (h_ : execBlkTimeout t s = .next t_) : blank 0x166676C024C#48 t_ = blank 0x166676C024C#48 s := by
  unfold execBlkTimeout at h_
  split at h_
  · have h_ := Host.Outcome.next.inj h_
    subst h_
    simp only []
    rw [State.irqBlock_frame _ _ _ (by decide), foldl_frame]
    · have e : ∀ x : State, ∀ v w, blank 0x166676C024C#48 { x with arr := { x.arr with blkDraining := v, blkTimeout := w } } = blank 0x166676C024C#48 x := fun x v w => by simp [blank]
      rw [e]; exact State.fire_frame _ _ _ _ (by decide)
    · intro x p; split
      · rfl
      · exact State.partitionError_frame _ _ _ _ (by decide)
  · rw [← Host.Outcome.next.inj h_]

theorem execTest_frame (tu : TuId) (check : Check) (words : List (ℕ × Check)) (env : Env) (s : State) (t_ : State) (h_ : execTest tu check words env s = .next t_) : blank 0x17677EC024C#48 t_ = blank 0x17677EC024C#48 s := by
  simp only [execTest] at h_
  (repeat' split at h_) <;> cases h_ <;> simp

theorem execSpillSlotGrant_frame (ray : ℕ) (slot : ℕ) (s : State) (t_ : State) (h_ : execSpillSlotGrant ray slot s = .next t_) : blank 0x2001440000#48 t_ = blank 0x2001440000#48 s := by
  simp only [execSpillSlotGrant] at h_
  (repeat' split at h_) <;> cases h_ <;> (try simp)
  all_goals
    have e := State.kAux_frame' (by assumption) 0x2001440000#48 (by decide)
    simp [e]

theorem execSpillWaitTimeout_frame (ray : ℕ) (t : ℕ) (s : State) (t_ : State) (h_ : execSpillWaitTimeout ray t s = .next t_) : blank 0x600064000C#48 t_ = blank 0x600064000C#48 s := by
  simp only [execSpillWaitTimeout] at h_
  (repeat' split at h_) <;> cases h_ <;> simp

theorem execTraceRays_frame (q : QueueId) (s : State) (t_ : State) (h_ : execTraceRays q s = .next t_) : blank 0x80000#48 t_ = blank 0x80000#48 s := by
  simp only [execTraceRays] at h_
  (repeat' split at h_) <;> cases h_ <;> simp

theorem execRayIntake_frame (q : QueueId) (word : Option Slot64) (env : Env) (s : State) (t_ : State) (h_ : execRayIntake q word env s = .next t_) : blank 0x170716C000C#48 t_ = blank 0x170716C000C#48 s := by
  simp only [execRayIntake] at h_
  (repeat' split at h_) <;> rw [← Host.Outcome.next.inj h_] <;> simp

theorem execReturnRay_frame (ray : ℕ) (check : Check) (s : State) (t_ : State) (h_ : execReturnRay ray check s = .next t_) : blank 0x176776C0248#48 t_ = blank 0x176776C0248#48 s := by
  simp only [execReturnRay] at h_
  (repeat' split at h_) <;> rw [← Host.Outcome.next.inj h_] <;> simp

theorem execProbe_frame (q : QueueId) (env : Env) (s : State) (t_ : State) (h_ : execProbe q env s = .next t_) : blank 0x170706C000C#48 t_ = blank 0x170706C000C#48 s := by
  simp only [execProbe] at h_
  (repeat' split at h_) <;> cases h_ <;> simp

theorem execProbeReduce_frame (q : QueueId) (env : Env) (s : State) (t_ : State) (h_ : execProbeReduce q env s = .next t_) : blank 0x170706C000C#48 t_ = blank 0x170706C000C#48 s := by
  simp only [execProbeReduce] at h_
  (repeat' split at h_) <;> cases h_ <;> simp

theorem execBundleAdmit_frame (q : QueueId) (words : List Slot64) (env : Env) (s : State) (t_ : State) (h_ : execBundleAdmit q words env s = .next t_) : blank 0x176776C024C#48 t_ = blank 0x176776C024C#48 s := by
  simp only [execBundleAdmit] at h_
  (repeat' split at h_) <;> rw [← Host.Outcome.next.inj h_] <;> simp

theorem execBound_frame (tu : TuId) (check : Check) (env : Env) (s : State) (t_ : State) (h_ : execBound tu check env s = .next t_) : blank 0x17677EC024C#48 t_ = blank 0x17677EC024C#48 s := by
  simp only [execBound] at h_
  (repeat' split at h_) <;> cases h_ <;> simp

theorem execBoundReturn_frame (bundle : ℕ) (env : Env) (s : State) (t_ : State) (h_ : execBoundReturn bundle env s = .next t_) : blank 0x176776C024C#48 t_ = blank 0x176776C024C#48 s := by
  simp only [execBoundReturn] at h_
  (repeat' split at h_) <;> cases h_ <;> simp

theorem execHeapMerge_frame (bundle : ℕ) (check : Check) (env : Env) (s : State) (t_ : State) (h_ : execHeapMerge bundle check env s = .next t_) : blank 0x17677EC024C#48 t_ = blank 0x17677EC024C#48 s := by
  simp only [execHeapMerge] at h_
  (repeat' split at h_) <;> cases h_ <;> simp

theorem execReduce_frame (bundle : ℕ) (check : Check) (env : Env) (s : State) (t_ : State) (h_ : execReduce bundle check env s = .next t_) : blank 0x176776C024C#48 t_ = blank 0x176776C024C#48 s := by
  simp only [execReduce] at h_
  (repeat' split at h_) <;> cases h_ <;> simp

theorem execLseMerge_frame (bundle : ℕ) (query : Fin 32) (check : Check) (env : Env) (s : State) (t_ : State) (h_ : execLseMerge bundle query check env s = .next t_) : blank 0x176776C024C#48 t_ = blank 0x176776C024C#48 s := by
  simp only [execLseMerge] at h_
  (repeat' split at h_) <;> cases h_ <;> simp

theorem execForward_frame (slot : ℕ) (check : Check) (env : Env) (s : State) (t_ : State) (h_ : execForward slot check env s = .next t_) : blank 0x17777EC024C#48 t_ = blank 0x17777EC024C#48 s := by
  simp only [execForward] at h_
  (repeat' split at h_) <;> cases h_ <;> simp

theorem execMessageRelay_frame (l : LinkId) (hdr : MsgHdr) (body : MsgBody) (env : Env) (s : State) (t_ : State) (h_ : execMessageRelay l hdr body env s = .next t_) : blank 0x270000004C#48 t_ = blank 0x270000004C#48 s := by
  simp only [execMessageRelay] at h_
  (repeat' split at h_) <;> cases h_ <;> simp

theorem execRayResult_frame (l : LinkId) (hdr : MsgHdr) (pre : ResultPrefix) (hit : Rec32) (env : Env) (s : State) (t_ : State) (h_ : execRayResult l hdr pre hit env s = .next t_) : blank 0x77716C024C#48 t_ = blank 0x77716C024C#48 s := by
  simp only [execRayResult] at h_
  (repeat' split at h_) <;> rw [← Host.Outcome.next.inj h_] <;> simp

theorem execProbeResult_frame (l : LinkId) (hdr : MsgHdr) (pre : ResultPrefix) (lists : List (List ProbeEntry)) (env : Env) (s : State) (t_ : State) (h_ : execProbeResult l hdr pre lists env s = .next t_) : blank 0x177776C024C#48 t_ = blank 0x177776C024C#48 s := by
  simp only [execProbeResult] at h_
  (repeat' split at h_) <;> cases h_ <;> simp

theorem execReduceResult_frame (l : LinkId) (hdr : MsgHdr) (pre : ResultPrefix) (triples : List (Fin 32 × Triple)) (env : Env) (s : State) (t_ : State) (h_ : execReduceResult l hdr pre triples env s = .next t_) : blank 0x177776C024C#48 t_ = blank 0x177776C024C#48 s := by
  simp only [execReduceResult] at h_
  (repeat' split at h_) <;> cases h_ <;> simp

theorem execLeaseExtend_frame (l : LinkId) (hdr : MsgHdr) (t : ℕ) (s : State) (t_ : State) (h_ : execLeaseExtend l hdr t s = .next t_) : blank 0x270040004C#48 t_ = blank 0x270040004C#48 s := by
  simp only [execLeaseExtend] at h_
  (repeat' split at h_) <;> cases h_ <;> simp

theorem execLeaseDeadline_frame (slot : ℕ) (env : Env) (s : State) (t_ : State) (h_ : execLeaseDeadline slot env s = .next t_) : blank 0x176776C034E#48 t_ = blank 0x176776C034E#48 s := by
  simp only [execLeaseDeadline] at h_
  (repeat' split at h_) <;> cases h_ <;> simp

theorem execInvoke_frame (p : PartId) (cls : BitVec 2) (caddy : CaddyId) (slot : Fin 256) (t : ℕ) (s : State) (t_ : State) (h_ : execInvoke p cls caddy slot t s = .next t_) : blank 0x604124000C#48 t_ = blank 0x604124000C#48 s := by
  simp only [execInvoke] at h_
  (repeat' split at h_) <;> cases h_ <;> simp

theorem execExit_frame (g : GroupRef) (check : Check) (s : State) (t_ : State) (h_ : execExit g check s = .next t_) : blank 0x170F7EC0028#48 t_ = blank 0x170F7EC0028#48 s := by
  unfold execExit at h_
  cases h_
  apply State.instr_frame
  · intro x y
    simp only []
    (repeat' split) <;> simp
  · decide

theorem execBrk_frame (g : GroupRef) (t : ℕ) (check : Check) (s : State) (t_ : State) (h_ : execBrk g t check s = .next t_) : blank 0x170F7EC002C#48 t_ = blank 0x170F7EC002C#48 s := by
  unfold execBrk at h_
  cases h_
  apply State.instr_frame
  · intro x y
    (repeat' split) <;> simp
  · decide

theorem execMemoryWriteAck_frame (id : ℕ) (s : State) (t_ : State) (h_ : execMemoryWriteAck id s = .next t_) : blank 0x30F76C0028#48 t_ = blank 0x30F76C0028#48 s := by
  simp only [execMemoryWriteAck] at h_
  (repeat' split at h_) <;> cases h_ <;> simp

theorem execFabricCredit_frame (port : PortId) (net : Net) (group : BitVec 12) (words : ℕ) (s : State) (t_ : State) (h_ : execFabricCredit port net group words s = .next t_) : blank 0x50000020#48 t_ = blank 0x50000020#48 s := by
  simp only [execFabricCredit] at h_
  (repeat' split at h_) <;> cases h_ <;> simp

theorem execBindProgram_frame (q : QueueId) (env : Env) (s : State) (t_ : State) (h_ : execBindProgram q env s = .next t_) : blank 0x50706C000C#48 t_ = blank 0x50706C000C#48 s := by
  simp only [execBindProgram] at h_
  (repeat' split at h_) <;> cases h_ <;> simp

theorem execCallMessage_frame (port : PortId) (hdr : Slot64) (args : List (BitVec 128)) (s : State) (t_ : State) (h_ : execCallMessage port hdr args s = .next t_) : blank 0x50000020#48 t_ = blank 0x50000020#48 s := by
  simp only [execCallMessage] at h_
  (repeat' split at h_) <;> cases h_ <;> simp

theorem execInteger_frame (g : GroupRef) (op : IntOp) (w : IntWidth) (signed : Bool) (sat : Bool) (dst : Dst) (a : Src) (b : Src) (c : Src) (check : Check) (s : State) (t_ : State) (h_ : execInteger g op w signed sat dst a b c check s = .next t_) : blank 0x170F7EC0028#48 t_ = blank 0x170F7EC0028#48 s := by
  unfold execInteger at h_
  cases h_
  apply State.instr_frame
  · intro x y
    simp only []
    (repeat' split) <;> simp
  · decide

theorem execFloat_frame (g : GroupRef) (op : FloatOp) (f : Fmt) (dst : Dst) (a : Src) (b : Src) (c : Src) (check : Check) (s : State) (t_ : State) (h_ : execFloat g op f dst a b c check s = .next t_) : blank 0x170F7EC0028#48 t_ = blank 0x170F7EC0028#48 s := by
  unfold execFloat at h_
  cases h_
  apply State.instr_frame
  · intro x y
    simp only []
    (repeat' split) <;> simp
  · decide

theorem execConvert_frame (g : GroupRef) (src : NumFmt) (dst : NumFmt) (sat : Bool) (d : Dst) (a : Src) (check : Check) (s : State) (t_ : State) (h_ : execConvert g src dst sat d a check s = .next t_) : blank 0x170F7EC0028#48 t_ = blank 0x170F7EC0028#48 s := by
  unfold execConvert at h_
  cases h_
  apply State.instr_frame
  · intro x y
    simp only []
    (repeat' split) <;> simp
  · decide

theorem execSpecialFunction_frame (g : GroupRef) (fn : SpecialFn) (dst : Dst) (a : Src) (check : Check) (s : State) (t_ : State) (h_ : execSpecialFunction g fn dst a check s = .next t_) : blank 0x170F7EC0028#48 t_ = blank 0x170F7EC0028#48 s := by
  unfold execSpecialFunction at h_
  cases h_
  apply State.instr_frame
  · intro x y
    simp only []
    (repeat' split) <;> simp
  · decide

theorem execLaneExchange_frame (g : GroupRef) (op : LaneOp) (dst : Dst) (a : Src) (idx : Src) (check : Check) (s : State) (t_ : State) (h_ : execLaneExchange g op dst a idx check s = .next t_) : blank 0x370F7EC0028#48 t_ = blank 0x370F7EC0028#48 s := by
  unfold execLaneExchange at h_
  cases h_
  apply State.instr_frame
  · intro x y
    simp only []
    (repeat' split) <;> simp
  · decide

theorem execScorer_frame (g : GroupRef) (dst : ℕ) (qfmt : BitVec 3) (kfmt : BitVec 3) (queries : ℕ) (keys : ℕ) (check : Check) (t : ℕ) (s : State) (t_ : State) (h_ : execScorer g dst qfmt kfmt queries keys check t s = .next t_) : blank 0x170F7EC002C#48 t_ = blank 0x170F7EC002C#48 s := by
  unfold execScorer at h_
  rw [← Host.Outcome.next.inj h_, State.instr_frame]
  · simp
  · intro x y
    (repeat' split) <;> simp
  · decide

theorem execScore_frame (tu : TuId) (check : Check) (env : Env) (s : State) (t_ : State) (h_ : execScore tu check env s = .next t_) : blank 0x176F7EC026C#48 t_ = blank 0x176F7EC026C#48 s := by
  simp only [execScore] at h_
  (repeat' split at h_) <;> rw [← Host.Outcome.next.inj h_] <;> simp

theorem execBranch_frame (g : GroupRef) (target : W32) (check : Check) (s : State) (t_ : State) (h_ : execBranch g target check s = .next t_) : blank 0x170F7EC0028#48 t_ = blank 0x170F7EC0028#48 s := by
  unfold execBranch at h_
  cases h_
  apply State.instr_frame
  · intro x y
    (repeat' split) <;> simp
  · decide

theorem execDivergencePush_frame (g : GroupRef) (reconv : W32) (active : W32) (t : ℕ) (check : Check) (s : State) (t_ : State) (h_ : execDivergencePush g reconv active t check s = .next t_) : blank 0x170F7EC002C#48 t_ = blank 0x170F7EC002C#48 s := by
  unfold execDivergencePush at h_
  cases h_
  apply State.instr_frame
  · intro x y
    (repeat' split) <;> simp
  · decide

theorem execDivergencePop_frame (g : GroupRef) (t : ℕ) (check : Check) (s : State) (t_ : State) (h_ : execDivergencePop g t check s = .next t_) : blank 0x170F7EC002C#48 t_ = blank 0x170F7EC002C#48 s := by
  unfold execDivergencePop at h_
  cases h_
  apply State.instr_frame
  · intro x y
    (repeat' split) <;> simp
  · decide

theorem execProgramCall_frame (g : GroupRef) (target : Option W32) (link : ℕ) (check : Check) (s : State) (t_ : State) (h_ : execProgramCall g target link check s = .next t_) : blank 0x170F7EC0028#48 t_ = blank 0x170F7EC0028#48 s := by
  unfold execProgramCall at h_
  cases h_
  apply State.instr_frame
  · intro x y
    (repeat' split) <;> simp
  · decide

theorem execPowerOn_frame (s : State) (t_ : State) (h_ : execPowerOn s = .next t_) : blank 0x1FFFFDFFF13#48 t_ = blank 0x1FFFFDFFF13#48 s := by
  simp only [execPowerOn] at h_
  (repeat' split at h_) <;> cases h_ <;> simp

theorem execPowerDown_frame (s : State) (t_ : State) (h_ : execPowerDown s = .next t_) : blank 0x1FFFFDFFF1B#48 t_ = blank 0x1FFFFDFFF1B#48 s := by
  simp only [execPowerDown] at h_
  (repeat' split at h_) <;> cases h_ <;> simp

theorem execDieReset_frame (s : State) (t_ : State) (h_ : execDieReset s = .next t_) : blank 0x1FFFFDFFF13#48 t_ = blank 0x1FFFFDFFF13#48 s := by
  simp only [execDieReset] at h_
  (repeat' split at h_) <;> cases h_ <;> simp

theorem execSupplyFault_frame (d : Domain) (s : State) (t_ : State) (h_ : execSupplyFault d s = .next t_) : blank 0x1000000010A#48 t_ = blank 0x1000000010A#48 s := by
  simp only [execSupplyFault] at h_
  (repeat' split at h_) <;> cases h_ <;> simp

theorem execBlkReset_frame (req : Requester) (s : State) (t_ : State) (h_ : execBlkReset req s = .next t_) : blank 0x301B#48 t_ = blank 0x301B#48 s := by
  simp only [execBlkReset] at h_
  (repeat' split at h_) <;> cases h_ <;> simp

theorem execForcedResetAbandon_frame (s : State) (t_ : State) (h_ : execForcedResetAbandon s = .next t_) : blank 0x1FFFFDFFF13#48 t_ = blank 0x1FFFFDFFF13#48 s := by
  simp only [execForcedResetAbandon] at h_
  (repeat' split at h_) <;> cases h_ <;> simp

theorem execResetRelease_frame (info : ReleaseInfo) (s : State) (t_ : State) (h_ : execResetRelease info s = .next t_) : blank 0x1200480070F#48 t_ = blank 0x1200480070F#48 s := by
  simp only [execResetRelease] at h_
  (repeat' split at h_) <;> cases h_ <;> simp

theorem execForcedResetRelease_frame (info : ReleaseInfo) (s : State) (t_ : State) (h_ : execForcedResetRelease info s = .next t_) : blank 0x1200480070F#48 t_ = blank 0x1200480070F#48 s := by
  simp only [execForcedResetRelease] at h_
  (repeat' split at h_) <;> cases h_ <;> simp

theorem execFuseReread_frame (req : Requester) (info : ReleaseInfo) (s : State) (t_ : State) (h_ : execFuseReread req info s = .next t_) : blank 0x1200480371A#48 t_ = blank 0x1200480371A#48 s := by
  simp only [execFuseReread] at h_
  (repeat' split at h_) <;> cases h_ <;> simp

theorem execMcGo_frame (req : Requester) (value : W32) (s : State) (t_ : State) (h_ : execMcGo req value s = .next t_) : blank 0x3B18#48 t_ = blank 0x3B18#48 s := by
  simp only [execMcGo] at h_
  (repeat' split at h_) <;> cases h_ <;> simp

theorem execMcLoadDone_frame (check : McCheck) (s : State) (t_ : State) (h_ : execMcLoadDone check s = .next t_) : blank 0xB08#48 t_ = blank 0xB08#48 s := by
  simp only [execMcLoadDone] at h_
  (repeat' split at h_) <;> rw [← Host.Outcome.next.inj h_]
  all_goals first | (rw [State.setBp_frame _ _ _ (by decide), State.stall_frame _ _ _ _ (by decide)]; simp [blank]; done) | (rw [State.stall_frame _ _ _ _ (by decide), State.bootStep_frame _ _ _ (by decide)]; simp [blank])

theorem execUnlock_frame (req : Requester) (key : W32) (s : State) (t_ : State) (h_ : execUnlock req key s = .next t_) : blank 0x3010#48 t_ = blank 0x3010#48 s := by
  simp only [execUnlock] at h_
  (repeat' split at h_) <;> cases h_ <;> simp

theorem execUnlockTimeout_frame (s : State) (t_ : State) (h_ : execUnlockTimeout s = .next t_) : blank 0x1000#48 t_ = blank 0x1000#48 s := by
  simp only [execUnlockTimeout] at h_
  (repeat' split at h_) <;> cases h_ <;> simp

theorem execVoteScrub_frame (upsets : List Upset) (refuse : W32) (s : State) (t_ : State) (h_ : execVoteScrub upsets refuse s = .next t_) : blank 0x1010000F50A#48 t_ = blank 0x1010000F50A#48 s := by
  simp only [execVoteScrub] at h_
  split at h_ <;> rw [← Host.Outcome.next.inj h_] <;> simp

theorem execLoad_frame (g : GroupRef) (space : Space) (w : MemWidth) (nc : Bool) (l1 : Bool) (dst : ℕ) (addr : Src) (check : Check) (env : Env) (s : State) (t_ : State) (h_ : execLoad g space w nc l1 dst addr check env s = .next t_) : blank 0x170F7EC002C#48 t_ = blank 0x170F7EC002C#48 s := by
  unfold execLoad at h_
  cases h_
  apply State.instr_frame
  · intro x y
    simp only []
    (repeat' split) <;> simp
  · decide

theorem execStore_frame (g : GroupRef) (space : Space) (w : MemWidth) (src : ℕ) (addr : Src) (check : Check) (env : Env) (s : State) (t_ : State) (h_ : execStore g space w src addr check env s = .next t_) : blank 0x170F7EC002C#48 t_ = blank 0x170F7EC002C#48 s := by
  unfold execStore at h_
  cases h_
  apply State.instr_frame
  · intro x y
    simp only []
    (repeat' split) <;> simp
  · decide

theorem execAtomic_frame (g : GroupRef) (op : AtomOp) (wide : Bool) (space : Space) (dst : ℕ) (addr : Src) (a : Src) (b : Src) (check : Check) (env : Env) (s : State) (t_ : State) (h_ : execAtomic g op wide space dst addr a b check env s = .next t_) : blank 0x170F7EC002C#48 t_ = blank 0x170F7EC002C#48 s := by
  unfold execAtomic at h_
  cases h_
  apply State.instr_frame
  · intro x y
    simp only []
    (repeat' split) <;> simp
  · decide

theorem execLockacq_frame (g : GroupRef) (dst : ℕ) (space : Space) (addr : Src) (steps : ℕ) (stood : ℕ) (check : Check) (env : Env) (s : State) (t_ : State) (h_ : execLockacq g dst space addr steps stood check env s = .next t_) : blank 0x170F7EC002C#48 t_ = blank 0x170F7EC002C#48 s := by
  unfold execLockacq at h_
  cases h_
  apply State.instr_frame
  · intro x y
    simp only []
    (repeat' split) <;> simp
  · decide

theorem execLockrel_frame (g : GroupRef) (dst : ℕ) (space : Space) (addr : Src) (check : Check) (env : Env) (s : State) (t_ : State) (h_ : execLockrel g dst space addr check env s = .next t_) : blank 0x170F7EC002C#48 t_ = blank 0x170F7EC002C#48 s := by
  unfold execLockrel at h_
  cases h_
  apply State.instr_frame
  · intro x y
    simp only []
    (repeat' split) <;> simp
  · decide

theorem execFenceSys_frame (g : GroupRef) (check : Check) (s : State) (t_ : State) (h_ : execFenceSys g check s = .next t_) : blank 0x170F7EC0028#48 t_ = blank 0x170F7EC0028#48 s := by
  unfold execFenceSys at h_
  cases h_
  apply State.instr_frame
  · intro x y
    simp only []
    (repeat' split) <;> simp
  · decide

theorem execFenceBlk_frame (g : GroupRef) (check : Check) (s : State) (t_ : State) (h_ : execFenceBlk g check s = .next t_) : blank 0x170F7EC0028#48 t_ = blank 0x170F7EC0028#48 s := by
  unfold execFenceBlk at h_
  cases h_
  apply State.instr_frame
  · intro x y
    (repeat' split) <;> simp
  · decide

theorem execFenceClu_frame (g : GroupRef) (check : Check) (s : State) (t_ : State) (h_ : execFenceClu g check s = .next t_) : blank 0x170F7EC0028#48 t_ = blank 0x170F7EC0028#48 s := by
  unfold execFenceClu at h_
  cases h_
  apply State.instr_frame
  · intro x y
    (repeat' split) <;> simp
  · decide

theorem execBar_frame (g : GroupRef) (b : Fin 16) (t : ℕ) (check : Check) (s : State) (t_ : State) (h_ : execBar g b t check s = .next t_) : blank 0x170F7EC002C#48 t_ = blank 0x170F7EC002C#48 s := by
  unfold execBar at h_
  cases h_
  apply State.instr_frame
  · intro x y
    simp only []
    (repeat' split) <;> simp
  · decide

theorem execBarClu_frame (g : GroupRef) (b : Fin 4) (check : Check) (s : State) (t_ : State) (h_ : execBarClu g b check s = .next t_) : blank 0x170F7EC0028#48 t_ = blank 0x170F7EC0028#48 s := by
  simp only [execBarClu] at h_
  (repeat' split at h_) <;> cases h_ <;> simp

theorem execTex_frame (g : GroupRef) (dst : ℕ) (desc : Src) (u : Src) (v : Src) (check : Check) (env : Env) (s : State) (t_ : State) (h_ : execTex g dst desc u v check env s = .next t_) : blank 0x170F7EC002C#48 t_ = blank 0x170F7EC002C#48 s := by
  simp only [execTex] at h_
  (repeat' split at h_) <;> cases h_ <;> simp

theorem execTexlod_frame (g : GroupRef) (dst : ℕ) (desc : Src) (u : Src) (v : Src) (lod : Src) (check : Check) (env : Env) (s : State) (t_ : State) (h_ : execTexlod g dst desc u v lod check env s = .next t_) : blank 0x170F7EC002C#48 t_ = blank 0x170F7EC002C#48 s := by
  simp only [execTexlod] at h_
  (repeat' split at h_) <;> cases h_ <;> simp

theorem execHalt_frame (req : Requester) (p : PartId) (value : W32) (s : State) (t_ : State) (h_ : execHalt req p value s = .next t_) : blank 0x130D7E43038#48 t_ = blank 0x130D7E43038#48 s := by
  simp only [execHalt] at h_
  (repeat' split at h_) <;> cases h_ <;> simp

theorem execResume_frame (req : Requester) (p : PartId) (value : W32) (s : State) (t_ : State) (h_ : execResume req p value s = .next t_) : blank 0x130D7E43038#48 t_ = blank 0x130D7E43038#48 s := by
  simp only [execResume] at h_
  (repeat' split at h_) <;> cases h_ <;> simp

theorem execStepGroup_frame (req : Requester) (p : PartId) (value : W32) (s : State) (t_ : State) (h_ : execStepGroup req p value s = .next t_) : blank 0x130D7E43038#48 t_ = blank 0x130D7E43038#48 s := by
  simp only [execStepGroup] at h_
  (repeat' split at h_) <;> cases h_ <;> simp

theorem execRestart_frame (req : Requester) (p : PartId) (value : W32) (s : State) (t_ : State) (h_ : execRestart req p value s = .next t_) : blank 0x130D7E43038#48 t_ = blank 0x130D7E43038#48 s := by
  simp only [execRestart] at h_
  (repeat' split at h_) <;> cases h_ <;> simp

theorem execEndGroup_frame (req : Requester) (p : PartId) (value : W32) (s : State) (t_ : State) (h_ : execEndGroup req p value s = .next t_) : blank 0x130D7E43038#48 t_ = blank 0x130D7E43038#48 s := by
  simp only [execEndGroup] at h_
  (repeat' split at h_) <;> cases h_ <;> simp

theorem execGroupRead_frame (req : Requester) (p : PartId) (value : W32) (steps : ℕ) (check : Check) (s : State) (t_ : State) (h_ : execGroupRead req p value steps check s = .next t_) : blank 0x130D7E43038#48 t_ = blank 0x130D7E43038#48 s := by
  simp only [execGroupRead] at h_
  (repeat' split at h_) <;> cases h_ <;> simp

theorem execGroupWrite_frame (req : Requester) (p : PartId) (value : W32) (steps : ℕ) (check : Check) (s : State) (t_ : State) (h_ : execGroupWrite req p value steps check s = .next t_) : blank 0x130D7E43038#48 t_ = blank 0x130D7E43038#48 s := by
  simp only [execGroupWrite] at h_
  (repeat' split at h_) <;> cases h_ <;> simp

theorem execSplatFwd_frame (q : QueueId) (env : Env) (s : State) (t_ : State) (h_ : execSplatFwd q env s = .next t_) : blank 0x50F06C000C#48 t_ = blank 0x50F06C000C#48 s := by
  simp only [execSplatFwd] at h_
  (repeat' split at h_) <;> cases h_ <;> simp

theorem execParkGrant_frame (p : PartId) (grant : ℕ) (s : State) (t_ : State) (h_ : execParkGrant p grant s = .next t_) : blank 0x80040000#48 t_ = blank 0x80040000#48 s := by
  simp only [execParkGrant] at h_
  (repeat' split at h_) <;> cases h_ <;> simp

theorem execTileLoad_frame (unit : Fin 64) (check : Check) (env : Env) (s : State) (t_ : State) (h_ : execTileLoad unit check env s = .next t_) : blank 0x370F76C002C#48 t_ = blank 0x370F76C002C#48 s := by
  simp only [execTileLoad] at h_
  rw [← Host.Outcome.next.inj h_, State.acceptMore_frame _ _ _ (by decide), foldl_frame]
  · (repeat' split) <;> simp
  · intro x k; exact State.issueSlot_frame _ _ _ _ _ (by decide)

theorem execTileResolve_frame (unit : Fin 64) (slot : Fin 4) (check : Check) (env : Env) (s : State) (t_ : State) (h_ : execTileResolve unit slot check env s = .next t_) : blank 0x170F76C002C#48 t_ = blank 0x170F76C002C#48 s := by
  simp only [execTileResolve] at h_
  (repeat' split at h_) <;> cases h_ <;> (try simp)
  all_goals
    have e := State.vwriteAll_frame (by assumption) 0x170F76C002C#48 (by decide)
    simp [e]

theorem execCopy_frame (q : QueueId) (inFlight : ℕ) (env : Env) (s : State) (t_ : State) (h_ : execCopy q inFlight env s = .next t_) : blank 0x50706C000C#48 t_ = blank 0x50706C000C#48 s := by
  simp only [execCopy] at h_
  split at h_
  · rw [← Host.Outcome.next.inj h_]; simp
  · split at h_ <;> rw [← Host.Outcome.next.inj h_] <;> simp

theorem execResidency_frame (q : QueueId) (env : Env) (s : State) (t_ : State) (h_ : execResidency q env s = .next t_) : blank 0x50706C000C#48 t_ = blank 0x50706C000C#48 s := by
  simp only [execResidency] at h_
  (repeat' split at h_) <;> cases h_ <;> (try simp)
  all_goals
    have e := State.vwrite_frame (by assumption) 0x50706C000C#48 (by decide)
    simp [e]

theorem execBuildBox_frame (q : QueueId) (scratch : List (ℕ × Byte)) (env : Env) (s : State) (t_ : State) (h_ : execBuildBox q scratch env s = .next t_) : blank 0x50706C000C#48 t_ = blank 0x50706C000C#48 s := by
  simp only [execBuildBox] at h_
  (repeat' split at h_) <;> cases h_ <;> simp

theorem execBuildRefit_frame (q : QueueId) (scratch : List (ℕ × Byte)) (env : Env) (s : State) (t_ : State) (h_ : execBuildRefit q scratch env s = .next t_) : blank 0x50706C000C#48 t_ = blank 0x50706C000C#48 s := by
  simp only [execBuildRefit] at h_
  (repeat' split at h_) <;> cases h_ <;> simp

theorem execBuildKeys_frame (q : QueueId) (scratch : List (ℕ × Byte)) (env : Env) (s : State) (t_ : State) (h_ : execBuildKeys q scratch env s = .next t_) : blank 0x50706C000C#48 t_ = blank 0x50706C000C#48 s := by
  simp only [execBuildKeys] at h_
  (repeat' split at h_) <;> cases h_ <;> simp

theorem execBuildInsert_frame (q : QueueId) (env : Env) (s : State) (t_ : State) (h_ : execBuildInsert q env s = .next t_) : blank 0x50706C000C#48 t_ = blank 0x50706C000C#48 s := by
  simp only [execBuildInsert] at h_
  (repeat' split at h_) <;> cases h_ <;> simp

theorem execBuildCompact_frame (q : QueueId) (scratch : List (ℕ × Byte)) (env : Env) (s : State) (t_ : State) (h_ : execBuildCompact q scratch env s = .next t_) : blank 0x50706C000C#48 t_ = blank 0x50706C000C#48 s := by
  simp only [execBuildCompact] at h_
  (repeat' split at h_) <;> cases h_ <;> simp

theorem execBuildSplit_frame (q : QueueId) (scratch : List (ℕ × Byte)) (env : Env) (s : State) (t_ : State) (h_ : execBuildSplit q scratch env s = .next t_) : blank 0x50706C000C#48 t_ = blank 0x50706C000C#48 s := by
  simp only [execBuildSplit] at h_
  (repeat' split at h_) <;> cases h_ <;> simp

theorem execSplatBwd_frame (q : QueueId) (order : List (ℕ × ℕ)) (check : Check) (env : Env) (s : State) (t_ : State) (h_ : execSplatBwd q order check env s = .next t_) : blank 0x170F76C002C#48 t_ = blank 0x170F76C002C#48 s := by
  simp only [execSplatBwd] at h_
  (repeat' split at h_) <;> cases h_ <;> simp

theorem execGroupLaunch_frame (core : CoreId) (env : Env) (s : State) (t_ : State) (h_ : execGroupLaunch core env s = .next t_) : blank 0x376F7EC026C#48 t_ = blank 0x376F7EC026C#48 s := by
  unfold execGroupLaunch at h_
  rw [← Host.Outcome.next.inj h_]
  rw [foldl_frame _ _ (fun x e => State.launchCalls_frame _ _ _ _ _ (by decide)), State.dispatch_frame _ _ _ (by decide),
    foldl_frame _ _ (fun x p => State.preemptPart_frame _ _ _ _ (by decide)), State.at_frame _ _ _ (by decide)]

theorem execGroupRestore_frame (g : GroupRef) (env : Env) (s : State) (t_ : State) (h_ : execGroupRestore g env s = .next t_) : blank 0x176F76C026C#48 t_ = blank 0x176F76C026C#48 s := by
  simp only [execGroupRestore] at h_
  (repeat' split at h_) <;> cases h_ <;> simp

theorem execSetDeadline_frame (q : QueueId) (t : ℕ) (s : State) (t_ : State) (h_ : execSetDeadline q t s = .next t_) : blank 0x376F7EC026C#48 t_ = blank 0x376F7EC026C#48 s := by
  simp only [execSetDeadline] at h_
  (repeat' split at h_) <;> cases h_ <;> simp

theorem execPreemptionTimer_frame (p : PartId) (env : Env) (s : State) (t_ : State) (h_ : execPreemptionTimer p env s = .next t_) : blank 0x376F7EC036E#48 t_ = blank 0x376F7EC036E#48 s := by
  simp only [execPreemptionTimer] at h_
  (repeat' split at h_) <;> rw [← Host.Outcome.next.inj h_] <;> simp

theorem execDecisionTimer_frame (p : PartId) (check : Check) (env : Env) (s : State) (t_ : State) (h_ : execDecisionTimer p check env s = .next t_) : blank 0x376F7EC036E#48 t_ = blank 0x376F7EC036E#48 s := by
  simp only [execDecisionTimer] at h_
  (repeat' split at h_) <;> rw [← Host.Outcome.next.inj h_] <;> simp

theorem execReprojectionPresent_frame (p : PartId) (env : Env) (s : State) (t_ : State) (h_ : execReprojectionPresent p env s = .next t_) : blank 0x102C008C#48 t_ = blank 0x102C008C#48 s := by
  simp only [execReprojectionPresent] at h_
  (repeat' split at h_) <;> cases h_ <;> simp

theorem execCsrReadClear_frame (a : Access) (s : State) (t_ : State) (h_ : execCsrReadClear a s = .next t_) : blank 0x1E50D8EFD1A#48 t_ = blank 0x1E50D8EFD1A#48 s := by
  unfold execCsrReadClear at h_
  split at h_
  · cases h_; simp [State.busError]
  · split at h_
    · rename_i h1; cases h_; exact State.gate_frame h1 _ (by decide)
    · cases h_; rfl
    · cases h_; simp

theorem execLinkUp_frame (l : LinkId) (t : ℕ) (s : State) (t_ : State) (h_ : execLinkUp l t s = .next t_) : blank 0x2600000045#48 t_ = blank 0x2600000045#48 s := by
  simp only [execLinkUp] at h_
  (repeat' split at h_) <;> cases h_ <;> simp

theorem execLinkDown_frame (l : LinkId) (t : ℕ) (s : State) (t_ : State) (h_ : execLinkDown l t s = .next t_) : blank 0x176776C024F#48 t_ = blank 0x176776C024F#48 s := by
  simp only [execLinkDown] at h_
  (repeat' split at h_) <;> rw [← Host.Outcome.next.inj h_] <;> simp

theorem execFwdSessionOpen_frame (q : QueueId) (t : ℕ) (s : State) (t_ : State) (h_ : execFwdSessionOpen q t s = .next t_) : blank 0x2600080044#48 t_ = blank 0x2600080044#48 s := by
  simp only [execFwdSessionOpen] at h_
  (repeat' split at h_) <;> cases h_ <;> simp

theorem execFwdSessionDrain_frame (q : QueueId) (t : ℕ) (s : State) (t_ : State) (h_ : execFwdSessionDrain q t s = .next t_) : blank 0x260008024C#48 t_ = blank 0x260008024C#48 s := by
  simp only [execFwdSessionDrain] at h_
  (repeat' split at h_) <;> cases h_ <;> simp

theorem execHello_frame (l : LinkId) (lo : Byte) (chip : W32) (_expected : W32) (t : ℕ) (s : State) (t_ : State) (h_ : execHello l lo chip _expected t s = .next t_) : blank 0x177776C024E#48 t_ = blank 0x177776C024E#48 s := by
  simp only [execHello] at h_
  (repeat' split at h_) <;> rw [← Host.Outcome.next.inj h_] <;> simp

theorem execAdv_frame (l : LinkId) (body : AdvBody) (t : ℕ) (s : State) (t_ : State) (h_ : execAdv l body t s = .next t_) : blank 0x270008024E#48 t_ = blank 0x270008024E#48 s := by
  simp only [execAdv] at h_
  (repeat' split at h_) <;> cases h_ <;> simp

theorem execAgree_frame (l : LinkId) (lo : Byte) (body : AgreeBody) (t : ℕ) (s : State) (t_ : State) (h_ : execAgree l lo body t s = .next t_) : blank 0x270008024E#48 t_ = blank 0x270008024E#48 s := by
  simp only [execAgree] at h_
  (repeat' split at h_) <;> cases h_ <;> simp

theorem execCredit_frame (l : LinkId) (lo : Byte) (grants : Credits) (t : ℕ) (s : State) (t_ : State) (h_ : execCredit l lo grants t s = .next t_) : blank 0x270008024C#48 t_ = blank 0x270008024C#48 s := by
  simp only [execCredit] at h_
  (repeat' split at h_) <;> cases h_ <;> simp

theorem execSessionTimeout_frame (l : LinkId) (t : ℕ) (s : State) (t_ : State) (h_ : execSessionTimeout l t s = .next t_) : blank 0x66002C024E#48 t_ = blank 0x66002C024E#48 s := by
  simp only [execSessionTimeout] at h_
  (repeat' split at h_) <;> cases h_ <;> simp

theorem execDrain_frame (l : LinkId) (lo : Byte) (t : ℕ) (s : State) (t_ : State) (h_ : execDrain l lo t s = .next t_) : blank 0x270008024C#48 t_ = blank 0x270008024C#48 s := by
  simp only [execDrain] at h_
  (repeat' split at h_) <;> cases h_ <;> simp

theorem execDrainDone_frame (l : LinkId) (lo : Byte) (t : ℕ) (s : State) (t_ : State) (h_ : execDrainDone l lo t s = .next t_) : blank 0x270008024C#48 t_ = blank 0x270008024C#48 s := by
  simp only [execDrainDone] at h_
  (repeat' split at h_) <;> cases h_ <;> simp

theorem execForcedDrain_frame (l : LinkId) (t : ℕ) (s : State) (t_ : State) (h_ : execForcedDrain l t s = .next t_) : blank 0x176776C024C#48 t_ = blank 0x176776C024C#48 s := by
  simp only [execForcedDrain] at h_
  (repeat' split at h_) <;> cases h_ <;> simp

theorem execKeepalive_frame (l : LinkId) (lo : Byte) (t : ℕ) (s : State) (t_ : State) (h_ : execKeepalive l lo t s = .next t_) : blank 0x210000000C#48 t_ = blank 0x210000000C#48 s := by
  simp only [execKeepalive] at h_
  (repeat' split at h_) <;> cases h_ <;> simp

theorem execKeepaliveTimer_frame (l : LinkId) (t : ℕ) (s : State) (t_ : State) (h_ : execKeepaliveTimer l t s = .next t_) : blank 0x600024004C#48 t_ = blank 0x600024004C#48 s := by
  simp only [execKeepaliveTimer] at h_
  (repeat' split at h_) <;> cases h_ <;> simp

theorem execKeepaliveLost_frame (l : LinkId) (t : ℕ) (s : State) (t_ : State) (h_ : execKeepaliveLost l t s = .next t_) : blank 0x176776C024E#48 t_ = blank 0x176776C024E#48 s := by
  simp only [execKeepaliveLost] at h_
  (repeat' split at h_) <;> rw [← Host.Outcome.next.inj h_] <;> simp

theorem execCreditReturn_frame (l : LinkId) (lo : Byte) (c : Credits) (t : ℕ) (s : State) (t_ : State) (h_ : execCreditReturn l lo c t s = .next t_) : blank 0x270000004C#48 t_ = blank 0x270000004C#48 s := by
  simp only [execCreditReturn] at h_
  (repeat' split at h_) <;> cases h_ <;> simp

theorem execCreditReturnTimer_frame (l : LinkId) (t : ℕ) (s : State) (t_ : State) (h_ : execCreditReturnTimer l t s = .next t_) : blank 0x620024004C#48 t_ = blank 0x620024004C#48 s := by
  simp only [execCreditReturnTimer] at h_
  (repeat' split at h_) <;> cases h_ <;> simp

theorem execBypassReopen_frame (t : ℕ) (s : State) (t_ : State) (h_ : execBypassReopen t s = .next t_) : blank 0x176776C024E#48 t_ = blank 0x176776C024E#48 s := by
  simp only [execBypassReopen] at h_
  (repeat' split at h_) <;> rw [← Host.Outcome.next.inj h_] <;> simp

theorem execOwnerPublish_frame (q : QueueId) (env : Env) (s : State) (t_ : State) (h_ : execOwnerPublish q env s = .next t_) : blank 0x77706C004C#48 t_ = blank 0x77706C004C#48 s := by
  simp only [execOwnerPublish] at h_
  (repeat' split at h_) <;> rw [← Host.Outcome.next.inj h_] <;> simp

theorem execOwnerEntries_frame (l : LinkId) (hdr : MsgHdr) (epoch : W32) (total : W32) (entries : List W64) (t : ℕ) (s : State) (t_ : State) (h_ : execOwnerEntries l hdr epoch total entries t s = .next t_) : blank 0x27002A004C#48 t_ = blank 0x27002A004C#48 s := by
  simp only [execOwnerEntries] at h_
  (repeat' split at h_) <;> cases h_ <;> simp

theorem execEpochCommit_frame (l : LinkId) (hdr : MsgHdr) (epoch : W32) (total : W32) (applied : W16) (missed : W16) (t : ℕ) (s : State) (t_ : State) (h_ : execEpochCommit l hdr epoch total applied missed t s = .next t_) : blank 0x27002A004C#48 t_ = blank 0x27002A004C#48 s := by
  simp only [execEpochCommit] at h_
  (repeat' split at h_) <;> rw [← Host.Outcome.next.inj h_] <;> simp

theorem execRingTimeout_frame (seq : ℕ) (t : ℕ) (s : State) (t_ : State) (h_ : execRingTimeout seq t s = .next t_) : blank 0x66002C004C#48 t_ = blank 0x66002C004C#48 s := by
  simp only [execRingTimeout] at h_
  (repeat' split at h_) <;> cases h_ <;> simp

theorem execOwnerReload_frame (req : Requester) (value : W64) (env : Env) (s : State) (t_ : State) (h_ : execOwnerReload req value env s = .next t_) : blank 0x55706E331C#48 t_ = blank 0x55706E331C#48 s := by
  simp only [execOwnerReload] at h_
  (repeat' split at h_) <;> cases h_ <;> simp

theorem execOwnerTableFetch_frame (env : Env) (s : State) (t_ : State) (h_ : execOwnerTableFetch env s = .next t_) : blank 0x55706E030C#48 t_ = blank 0x55706E030C#48 s := by
  simp only [execOwnerTableFetch] at h_
  (repeat' split at h_) <;> cases h_ <;> simp

theorem execMmuGo_frame (req : Requester) (value : W32) (env : Env) (s : State) (t_ : State) (h_ : execMmuGo req value env s = .next t_) : blank 0x261D27725E#48 t_ = blank 0x261D27725E#48 s := by
  simp only [execMmuGo] at h_
  (repeat' split at h_) <;> cases h_ <;> simp

theorem execChipId_frame (req : Requester) (value : W32) (t : ℕ) (s : State) (t_ : State) (h_ : execChipId req value t s = .next t_) : blank 0x260000365E#48 t_ = blank 0x260000365E#48 s := by
  simp only [execChipId] at h_
  (repeat' split at h_) <;> cases h_ <;> simp

theorem execTranslationWalk_frame (p : PartId) (va : ℕ) (kind : AccKind) (who : WalkFor) (check : Check) (level : Fin 5) (env : Env) (s : State) (t_ : State) (h_ : execTranslationWalk p va kind who check level env s = .next t_) : blank 0x17EF76C026C#48 t_ = blank 0x17EF76C026C#48 s := by
  simp only [execTranslationWalk] at h_
  (repeat' split at h_) <;> cases h_ <;> simp

theorem execMmuInval_frame (req : Requester) (p : PartId) (value : W64) (s : State) (t_ : State) (h_ : execMmuInval req p value s = .next t_) : blank 0x800043010#48 t_ = blank 0x800043010#48 s := by
  simp only [execMmuInval] at h_
  (repeat' split at h_) <;> cases h_ <;> simp

theorem execInvalComplete_frame (p : PartId) (env : Env) (s : State) (t_ : State) (h_ : execInvalComplete p env s = .next t_) : blank 0x80024000C#48 t_ = blank 0x80024000C#48 s := by
  simp only [execInvalComplete] at h_
  (repeat' split at h_) <;> cases h_ <;> simp

theorem execFaultReplay_frame (req : Requester) (p : PartId) (value : W32) (env : Env) (s : State) (t_ : State) (h_ : execFaultReplay req p value env s = .next t_) : blank 0x17FF76E33FC#48 t_ = blank 0x17FF76E33FC#48 s := by
  simp only [execFaultReplay] at h_
  (repeat' split at h_) <;> cases h_ <;> simp

theorem execFaultAbort_frame (req : Requester) (p : PartId) (value : W32) (env : Env) (s : State) (t_ : State) (h_ : execFaultAbort req p value env s = .next t_) : blank 0x17FF76E33FC#48 t_ = blank 0x17FF76E33FC#48 s := by
  simp only [execFaultAbort] at h_
  (repeat' split at h_) <;> cases h_ <;> simp

theorem execFqAck_frame (req : Requester) (p : PartId) (value : W32) (env : Env) (s : State) (t_ : State) (h_ : execFqAck req p value env s = .next t_) : blank 0x24301C#48 t_ = blank 0x24301C#48 s := by
  simp only [execFqAck] at h_
  (repeat' split at h_) <;> cases h_ <;> simp

theorem execPartitionReset_frame (req : Requester) (flr : Bool) (p : PartId) (s : State) (t_ : State) (h_ : execPartitionReset req flr p s = .next t_) : blank 0x76F76C3278#48 t_ = blank 0x76F76C3278#48 s := by
  simp only [execPartitionReset] at h_
  (repeat' split at h_) <;> cases h_ <;> simp

theorem execPartitionResetDone_frame (p : PartId) (s : State) (t_ : State) (h_ : execPartitionResetDone p s = .next t_) : blank 0x17F776E0349#48 t_ = blank 0x17F776E0349#48 s := by
  unfold execPartitionResetDone at h_
  split at h_
  · cases h_; rfl
  · dsimp only at h_
    generalize h4 : State.grantPorts _ = s4 at h_
    have e : blank 0x17F776E0349#48 s4 = blank 0x17F776E0349#48 s := by
      rw [← h4, State.grantPorts_frame _ _ (by decide), State.drainAll_frame _ _ (by decide), State.traceUnpin_frame _ _ _ (by decide),
        State.doIf_frame _ _ _ _ (fun x => State.irqBlock_frame _ _ _ (by decide)), State.cachesClean_frame _ _ _ (by decide), State.resetPage_frame _ _ _ (by decide),
        State.resetQueues_frame _ _ _ (by decide), State.closeFaults_frame _ _ _ _ (by decide), State.discardSlots_frame _ _ _ (by decide),
        State.discardResults_frame _ _ _ (by decide), State.timerDelIf_frame _ _ _ (by decide)]
    rw [← Host.Outcome.next.inj h_]
    split
    · rw [← e]; simp
    · exact e

theorem execDbgRead_frame (req : Requester) (value : W32) (check : Check) (s : State) (t_ : State) (h_ : execDbgRead req value check s = .next t_) : blank 0x3F777EC335A#48 t_ = blank 0x3F777EC335A#48 s := by
  simp only [execDbgRead] at h_
  (repeat' split at h_) <;> cases h_ <;> simp

theorem execDbgWrite_frame (req : Requester) (value : W32) (s : State) (t_ : State) (h_ : execDbgWrite req value s = .next t_) : blank 0x3F777EC335A#48 t_ = blank 0x3F777EC335A#48 s := by
  simp only [execDbgWrite] at h_
  (repeat' split at h_) <;> cases h_ <;> simp

theorem execCsrWrite_frame (a : Access) (env : Env) (s : State) (t_ : State) (h_ : execCsrWrite a env s = .next t_) : blank 0x3FFFFEFFFFF#48 t_ = blank 0x3FFFFEFFFFF#48 s := by
  simp only [execCsrWrite] at h_
  (repeat' split at h_) <;> cases h_ <;> simp

theorem execFwdRay_frame (l : LinkId) (hdr : MsgHdr) (body : FwdRayBody) (env : Env) (s : State) (t_ : State) (h_ : execFwdRay l hdr body env s = .next t_) : blank 0x67676C024C#48 t_ = blank 0x67676C024C#48 s := by
  unfold execFwdRay at h_
  cases h_
  apply State.queryIn_frame
  · intro x
    apply State.takeQuery_frame
    · intro i f y; simp
    · decide
  · decide

theorem execFwdProbe_frame (l : LinkId) (hdr : MsgHdr) (body : FwdProbeBody) (env : Env) (s : State) (t_ : State) (h_ : execFwdProbe l hdr body env s = .next t_) : blank 0x177776C024C#48 t_ = blank 0x177776C024C#48 s := by
  unfold execFwdProbe at h_
  cases h_
  apply State.queryIn_frame
  · intro x
    apply State.takeQuery_frame
    · intro i f y; simp
    · decide
  · decide

theorem execReduceReq_frame (l : LinkId) (hdr : MsgHdr) (body : ReduceReqBody) (env : Env) (s : State) (t_ : State) (h_ : execReduceReq l hdr body env s = .next t_) : blank 0x177776C024C#48 t_ = blank 0x177776C024C#48 s := by
  unfold execReduceReq at h_
  cases h_
  apply State.queryIn_frame
  · intro x
    apply State.takeQuery_frame
    · intro i f y; simp
    · decide
  · decide

theorem execLeaseExtendTimer_frame (slot : ℕ) (t : ℕ) (s : State) (t_ : State) (h_ : execLeaseExtendTimer slot t s = .next t_) : blank 0x660024004C#48 t_ = blank 0x660024004C#48 s := by
  simp only [execLeaseExtendTimer] at h_
  (repeat' split at h_) <;> cases h_ <;> simp

theorem execCancel_frame (l : LinkId) (hdr : MsgHdr) (t : ℕ) (s : State) (t_ : State) (h_ : execCancel l hdr t s = .next t_) : blank 0x67676C024C#48 t_ = blank 0x67676C024C#48 s := by
  simp only [execCancel] at h_
  (repeat' split at h_) <;> cases h_ <;> simp

end Sys2Proof.Machine
end

