-- ==== Sys2Proof/Laws/MemBase.lean ====
section
/-!
SUPPORT. Sys2Proof/Laws/MemBase.lean: each operation of Machine/{Ops, Mmu, Work, Herd, Link, Session, Foreign, Fetch, Ret}.lean keeps memory in its canonical form.
-/

set_option linter.all false

namespace Sys2Proof.Machine
open Sys2Proof

/-! ## Ops -/

theorem wf_of_frame {m : BitVec 48} {s t : State} (e : blank m t = blank m s) (hm : m.getLsbD 21 = false) (h : s.mem.wf = true) : t.mem.wf = true := by
  have e1 := congrArg State.mem e
  simp only [blank, hm, cond_false] at e1
  rw [e1]; exact h

theorem Mem.set_wfFrom (m : Mem) (lo a : Nat) (b : Byte) (hl : lo ≤ a) (h : Mem.wfFrom lo m = true) : Mem.wfFrom lo (Mem.set m a b) = true := by
  induction m generalizing lo with
  | nil => unfold Mem.set; split <;> simp_all [Mem.wfFrom]
  | cons c r ih =>
    obtain ⟨k, v⟩ := c
    simp only [Mem.wfFrom, Bool.and_eq_true, decide_eq_true_eq] at h
    unfold Mem.set
    split
    · split
      · simp only [Mem.wfFrom, Bool.and_eq_true, decide_eq_true_eq]; exact h
      · rename_i hb
        simp only [Mem.wfFrom, Bool.and_eq_true, decide_eq_true_eq]; exact ⟨⟨hl, hb⟩, ⟨by omega, h.1.2⟩, h.2⟩
    · split
      · split
        · have : ∀ (l : Mem) (x y : Nat), x ≤ y → Mem.wfFrom y l = true → Mem.wfFrom x l = true := by
            intro l x y hxy hl
            cases l with
            | nil => rfl
            | cons c r => obtain ⟨k', v'⟩ := c; simp only [Mem.wfFrom, Bool.and_eq_true, decide_eq_true_eq] at hl ⊢; exact ⟨⟨by omega, hl.1.2⟩, hl.2⟩
          exact this _ _ _ (by omega) h.2
        · rename_i hb
          simp only [Mem.wfFrom, Bool.and_eq_true, decide_eq_true_eq]; exact ⟨⟨h.1.1, hb⟩, h.2⟩
      · simp only [Mem.wfFrom, Bool.and_eq_true, decide_eq_true_eq]
        exact ⟨h.1, ih _ (by omega) h.2⟩

theorem Mem.set_wf (m : Mem) (a : Nat) (b : Byte) (h : m.wf = true) : (m.set a b).wf = true := Mem.set_wfFrom m 0 a b (Nat.zero_le _) h

theorem Mem.write_wf (m : Mem) (a : Nat) (bs : List Byte) (h : m.wf = true) : (m.write a bs).wf = true := by
  induction bs generalizing m a with
  | nil => exact h
  | cons b r ih => exact ih _ _ (Mem.set_wf m a b h)

theorem State.doIf_wf {s : State} {b : Bool} {f : State → State} (hf : ∀ x : State, x.mem.wf = true → (f x).mem.wf = true) (h : s.mem.wf = true) : (s.doIf b f).mem.wf = true := by
  unfold State.doIf; split <;> simp_all

theorem foldl_wf {α : Type} {f : State → α → State} {l : List α} {s : State} (hf : ∀ (x : State) a, x.mem.wf = true → (f x a).mem.wf = true) (h : s.mem.wf = true) : (l.foldl f s).mem.wf = true := by
  induction l generalizing s with
  | nil => exact h
  | cons a l ih => exact ih (hf _ _ h)

theorem State.setPart_wf (s : State) (p : PartId) (x : Machine.Part) (hw : s.mem.wf = true) : (State.setPart s p x).mem.wf = true := wf_of_frame (State.setPart_frame _ _ _ 0x40000#48 (by decide)) (by decide) hw

theorem State.updPart_wf (s : State) (p : PartId) (f : Machine.Part → Machine.Part) (hw : s.mem.wf = true) : (State.updPart s p f).mem.wf = true := wf_of_frame (State.updPart_frame _ _ _ 0x40000#48 (by decide)) (by decide) hw

theorem State.setQueue_wf (s : State) (q : QueueId) (x : Queue) (hw : s.mem.wf = true) : (State.setQueue s q x).mem.wf = true := wf_of_frame (State.setQueue_frame _ _ _ 0x80000#48 (by decide)) (by decide) hw

theorem State.updQueue_wf (s : State) (q : QueueId) (f : Queue → Queue) (hw : s.mem.wf = true) : (State.updQueue s q f).mem.wf = true := wf_of_frame (State.updQueue_frame _ _ _ 0x80000#48 (by decide)) (by decide) hw

theorem State.updCmd_wf (s : State) (r : CmdRef) (f : Cmd → Cmd) (hw : s.mem.wf = true) : (State.updCmd s r f).mem.wf = true := wf_of_frame (State.updCmd_frame _ _ _ 0x80000#48 (by decide)) (by decide) hw

theorem State.at_wf (s : State) (t : ℕ) (hw : s.mem.wf = true) : (State.at s t).mem.wf = true := wf_of_frame (State.at_frame _ _ 0x4#48 (by decide)) (by decide) hw

theorem State.answer_wf (s : State) (r : BusResp) (hw : s.mem.wf = true) : (State.answer s r).mem.wf = true := wf_of_frame (State.answer_frame _ _ 0x10#48 (by decide)) (by decide) hw

theorem State.irqPart_wf (s : State) (p : PartId) (v : BitVec 4) (hw : s.mem.wf = true) : (State.irqPart s p v).mem.wf = true := wf_of_frame (State.irqPart_frame _ _ _ 0x8#48 (by decide)) (by decide) hw

theorem State.irqBlock_wf (s : State) (v : BitVec 4) (hw : s.mem.wf = true) : (State.irqBlock s v).mem.wf = true := wf_of_frame (State.irqBlock_frame _ _ 0x8#48 (by decide)) (by decide) hw

theorem State.offerLog_wf (s : State) (w : W64) (hw : s.mem.wf = true) : (State.offerLog s w).mem.wf = true := wf_of_frame (State.offerLog_frame _ _ 0x10000000000#48 (by decide)) (by decide) hw

theorem State.errCorrected_wf (s : State) (hw : s.mem.wf = true) : (State.errCorrected s).mem.wf = true := wf_of_frame (State.errCorrected_frame _ 0x10000000000#48 (by decide)) (by decide) hw

theorem State.errContained_wf (s : State) (p : PartId) (src : ℕ) (index : ℕ) (item : ℕ) (hw : s.mem.wf = true) : (State.errContained s p src index item).mem.wf = true := wf_of_frame (State.errContained_frame _ _ _ _ _ 0x10000040008#48 (by decide)) (by decide) hw

theorem State.errBlock_wf (s : State) (src : ℕ) (index : ℕ) (hw : s.mem.wf = true) : (State.errBlock s src index).mem.wf = true := wf_of_frame (State.errBlock_frame _ _ _ 0x1000000010A#48 (by decide)) (by decide) hw

theorem State.errPartition_wf (s : State) (p : PartId) (reason : BitVec 2) (hw : s.mem.wf = true) : (State.errPartition s p reason).mem.wf = true := wf_of_frame (State.errPartition_frame _ _ _ 0x10000040008#48 (by decide)) (by decide) hw

theorem State.timerAdd_wf (s : State) (tm : Timer) (due : ℕ) (hw : s.mem.wf = true) : (State.timerAdd s tm due).mem.wf = true := wf_of_frame (State.timerAdd_frame _ _ _ 0x2000000000#48 (by decide)) (by decide) hw

theorem State.timerDel_wf (s : State) (tm : Timer) (hw : s.mem.wf = true) : (State.timerDel s tm).mem.wf = true := wf_of_frame (State.timerDel_frame _ _ 0x2000000000#48 (by decide)) (by decide) hw

theorem State.timerDelIf_wf (s : State) (f : Timer → Bool) (hw : s.mem.wf = true) : (State.timerDelIf s f).mem.wf = true := wf_of_frame (State.timerDelIf_frame _ _ 0x2000000000#48 (by decide)) (by decide) hw

theorem State.timerTake_wf (s : State) (tm : Timer) (t : ℕ) (hw : s.mem.wf = true) : (State.timerTake s tm t).mem.wf = true := wf_of_frame (State.timerTake_frame _ _ _ 0x2000000004#48 (by decide)) (by decide) hw

theorem State.kPut_wf (s : State) (i : ℕ) (x : KSlot) (hw : s.mem.wf = true) : (State.kPut s i x).mem.wf = true := wf_of_frame (State.kPut_frame _ _ _ 0x400000#48 (by decide)) (by decide) hw

theorem State.kFree_wf (s : State) (i : ℕ) (hw : s.mem.wf = true) : (State.kFree s i).mem.wf = true := wf_of_frame (State.kFree_frame _ _ 0x400000#48 (by decide)) (by decide) hw

theorem State.genUp_wf (s : State) (i : ℕ) (hw : s.mem.wf = true) : (State.genUp s i).mem.wf = true := wf_of_frame (State.genUp_frame _ _ 0x400000#48 (by decide)) (by decide) hw

theorem State.peak_wf (s : State) (p : PartId) (hw : s.mem.wf = true) : (State.peak s p).mem.wf = true := wf_of_frame (State.peak_frame _ _ 0x40000#48 (by decide)) (by decide) hw

theorem State.fresh64_wf (s : State) (i : ℕ) (hw : s.mem.wf = true) : (State.fresh64 s i).mem.wf = true := wf_of_frame (State.fresh64_frame _ _ 0x400000#48 (by decide)) (by decide) hw

theorem State.kTake_wf {s : State} {env : Env} {p : PartId} {foreign : Bool} {prev : Option ℕ} {d : KData} {i_ : ℕ} {t_ : State} (h_ : (State.kTake s env p foreign prev d) = some (i_, t_)) (hw : s.mem.wf = true) : t_.mem.wf = true := wf_of_frame (State.kTake_frame _ _ _ _ _ _ h_ 0x440000#48 (by decide)) (by decide) hw

theorem State.kAux_wf {s : State} {env : Env} {p : PartId} {foreign : Bool} {d : KData} {i_ : ℕ} {t_ : State} (h_ : (State.kAux s env p foreign d) = some (i_, t_)) (hw : s.mem.wf = true) : t_.mem.wf = true := wf_of_frame (State.kAux_frame _ _ _ _ _ h_ 0x440000#48 (by decide)) (by decide) hw

theorem State.kLink_wf (s : State) (i : ℕ) (l : Option ℕ) (hw : s.mem.wf = true) : (State.kLink s i l).mem.wf = true := wf_of_frame (State.kLink_frame _ _ _ 0x400000#48 (by decide)) (by decide) hw

theorem State.kTakeAll_wf {s : State} {env : Env} {p : PartId} {foreign : Bool} {x4 : Option ℕ} {x5 : List KData} {i_ : List ℕ} {t_ : State} (h_ : (State.kTakeAll s env p foreign x4 x5) = some (i_, t_)) (hw : s.mem.wf = true) : t_.mem.wf = true := wf_of_frame (State.kTakeAll_frame _ _ _ _ _ _ h_ 0x440000#48 (by decide)) (by decide) hw

theorem State.kAdmit_wf {s : State} {env : Env} {p : PartId} {ds : List KData} {i_ : List ℕ} {t_ : State} (h_ : (State.kAdmit s env p ds) = some (i_, t_)) (hw : s.mem.wf = true) : t_.mem.wf = true := wf_of_frame (State.kAdmit_frame _ _ _ _ h_ 0x440000#48 (by decide)) (by decide) hw

theorem State.setRay_wf (s : State) (i : ℕ) (r : Ray) (hw : s.mem.wf = true) : (State.setRay s i r).mem.wf = true := wf_of_frame (State.setRay_frame _ _ _ 0x400000#48 (by decide)) (by decide) hw

theorem State.updRay_wf (s : State) (i : ℕ) (f : Ray → Ray) (hw : s.mem.wf = true) : (State.updRay s i f).mem.wf = true := wf_of_frame (State.updRay_frame _ _ _ 0x400000#48 (by decide)) (by decide) hw

theorem State.updLeash_wf (s : State) (i : ℕ) (f : Leash → Leash) (hw : s.mem.wf = true) : (State.updLeash s i f).mem.wf = true := wf_of_frame (State.updLeash_frame _ _ _ 0x400000#48 (by decide)) (by decide) hw

theorem State.kFreeAll_wf (s : State) (l : List ℕ) (hw : s.mem.wf = true) : (State.kFreeAll s l).mem.wf = true := wf_of_frame (State.kFreeAll_frame _ _ 0x400000#48 (by decide)) (by decide) hw

theorem State.updBundle_wf (s : State) (h : ℕ) (f : Bundle → Bundle) (hw : s.mem.wf = true) : (State.updBundle s h f).mem.wf = true := wf_of_frame (State.updBundle_frame _ _ _ 0x20000000#48 (by decide)) (by decide) hw

theorem State.setCore_wf (s : State) (c : CoreId) (x : Core) (hw : s.mem.wf = true) : (State.setCore s c x).mem.wf = true := wf_of_frame (State.setCore_frame _ _ _ 0x40000000#48 (by decide)) (by decide) hw

theorem State.setGroup_wf (s : State) (g : GroupRef) (x : Option Machine.Group) (hw : s.mem.wf = true) : (State.setGroup s g x).mem.wf = true := wf_of_frame (State.setGroup_frame _ _ _ 0x40000000#48 (by decide)) (by decide) hw

theorem State.updGroup_wf (s : State) (g : GroupRef) (f : Machine.Group → Machine.Group) (hw : s.mem.wf = true) : (State.updGroup s g f).mem.wf = true := wf_of_frame (State.updGroup_frame _ _ _ 0x40000000#48 (by decide)) (by decide) hw

theorem State.updGroupBy_wf (s : State) (block : ℕ) (inBlock : ℕ) (f : Machine.Group → Machine.Group) (hw : s.mem.wf = true) : (State.updGroupBy s block inBlock f).mem.wf = true := wf_of_frame (State.updGroupBy_frame _ _ _ _ 0x40000000#48 (by decide)) (by decide) hw

theorem State.noteWrite_wf (s : State) (w : WriteFor) (p : PartId) (l : List (ℕ × ℕ)) (hw : s.mem.wf = true) : (State.noteWrite s w p l).mem.wf = true := wf_of_frame (State.noteWrite_frame _ _ _ _ 0x10080000#48 (by decide)) (by decide) hw

theorem State.poke_wf (s : State) (pa : ℕ) (bs : List Byte)  (hw : s.mem.wf = true) : (State.poke s pa bs).mem.wf = true := by
  exact Mem.write_wf _ _ _ hw

/-! ## Mmu -/

theorem State.forgetWalk_wf (s : State) (p : PartId) (va : ℕ) (hw : s.mem.wf = true) : (State.forgetWalk s p va).mem.wf = true := wf_of_frame (State.forgetWalk_frame _ _ _ 0x800000000#48 (by decide)) (by decide) hw

theorem pokeAll_wf (m : Mem) (l : List (Nat × Nat)) (bs : List Byte) (h : m.wf = true) : (pokeAll m l bs).wf = true := by
  induction l generalizing m bs with
  | nil => exact h
  | cons a r ih => obtain ⟨pa, n⟩ := a; exact ih _ _ (Mem.write_wf _ _ _ h)

theorem State.vwriteAs_wf {s : State} {k : AccKind} {p : PartId} {va : ℕ} {bs : List Byte} {t_ : State} (h_ : (State.vwriteAs s k p va bs) = .ok t_) (hw : s.mem.wf = true) : t_.mem.wf = true := by
  unfold State.vwriteAs at h_
  split at h_
  · cases h_
  · cases h_; exact pokeAll_wf _ _ _ hw

theorem State.vwrite_wf {s : State} {p : PartId} {va : ℕ} {bs : List Byte} {t_ : State} (h_ : (State.vwrite s p va bs) = .ok t_) (hw : s.mem.wf = true) : t_.mem.wf = true := by
  exact State.vwriteAs_wf h_ hw

theorem State.trapWritten_wf (s : State) (p : PartId) (hw : s.mem.wf = true) : (State.trapWritten s p).mem.wf = true := wf_of_frame (State.trapWritten_frame _ _ 0x40008#48 (by decide)) (by decide) hw

theorem State.fqOne_wf {s : State} {p : PartId} {r : Slot64} {t_ : State} (h_ : (State.fqOne s p r) = some t_) (hw : s.mem.wf = true) : t_.mem.wf = true := by
  simp only [State.fqOne] at h_
  (repeat' split at h_) <;> cases h_ <;> repeat' (first | with_reducible assumption | with_reducible apply State.irqPart_wf | with_reducible apply State.updPart_wf | with_reducible apply State.trapWritten_wf | with_reducible apply foldl_wf | with_reducible apply State.doIf_wf | intro _ | split | (with_reducible refine State.vwrite_wf (by assumption) ?_) | fail)

theorem State.fqPush_wf (s : State) (p : PartId) (x2 : List Slot64)  (hw : s.mem.wf = true) : (State.fqPush s p x2).mem.wf = true := by
  induction x2 generalizing s with
  | nil => exact State.updPart_wf _ _ _ hw
  | cons r rest ih =>
    simp only [State.fqPush]
    split
    · rename_i h1; exact ih _ (State.fqOne_wf h1 hw)
    · apply State.doIf_wf
      · intro x hx; exact State.irqPart_wf _ _ _ hx
      · exact State.updPart_wf _ _ _ hw

theorem State.fqRetry_wf (s : State) (p : PartId) (hw : s.mem.wf = true) : (State.fqRetry s p).mem.wf = true := by
  simp only [State.fqRetry]
  repeat' (first | with_reducible assumption | with_reducible apply State.fqPush_wf | with_reducible apply foldl_wf | with_reducible apply State.doIf_wf | intro _ | split | fail)

theorem State.fqPost_wf (s : State) (p : PartId) (notice : Bool) (r : Slot64) (hw : s.mem.wf = true) : (State.fqPost s p notice r).mem.wf = true := by
  simp only [State.fqPost]
  repeat' (first | with_reducible assumption | with_reducible apply State.fqRetry_wf | with_reducible apply State.updPart_wf | with_reducible apply foldl_wf | with_reducible apply State.doIf_wf | intro _ | split | fail)

theorem State.notice_wf (s : State) (p : PartId) (x : Xfault) (c : FaultCtx) (hw : s.mem.wf = true) : (State.notice s p x c).mem.wf = true := by
  simp only [State.notice]
  repeat' (first | with_reducible assumption | with_reducible apply State.fqPost_wf | with_reducible apply foldl_wf | with_reducible apply State.doIf_wf | intro _ | split | fail)

theorem State.traceDrop_wf (s : State) (hw : s.mem.wf = true) : (State.traceDrop s).mem.wf = true := wf_of_frame (State.traceDrop_frame _ 0x4000000000#48 (by decide)) (by decide) hw

theorem State.record_wf (s : State) (r : TraceRec) (hw : s.mem.wf = true) : (State.record s r).mem.wf = true := by
  unfold State.record
  simp only []
  split
  · exact hw
  · split
    · exact State.traceDrop_wf _ hw
    · split
      · exact State.traceDrop_wf _ hw
      · split
        · rename_i h1; have e := State.vwrite_wf h1 hw; exact e
        · exact State.notice_wf _ _ _ _ (State.traceDrop_wf _ hw)

theorem State.fire_wf (s : State) (tm : Timer) (t : ℕ) (hw : s.mem.wf = true) : (State.fire s tm t).mem.wf = true := by
  simp only [State.fire]
  repeat' (first | with_reducible assumption | with_reducible apply State.record_wf | with_reducible apply State.at_wf | with_reducible apply State.timerTake_wf | with_reducible apply foldl_wf | with_reducible apply State.doIf_wf | intro _ | split | fail)

theorem State.steepWord_wf (s : State) (env : Env) (tm : Timer) (hw : s.mem.wf = true) : (State.steepWord s env tm).mem.wf = true := wf_of_frame (State.steepWord_frame _ _ _ 0x1000000010E#48 (by decide)) (by decide) hw

theorem State.park_wf (s : State) (w : Parked) (hw : s.mem.wf = true) : (State.park s w).mem.wf = true := wf_of_frame (State.park_frame _ _ 0x70480000#48 (by decide)) (by decide) hw

theorem State.tracePark_wf (s : State) (p : PartId) (c : FaultCtx) (va : ℕ) (w : Parked) (hw : s.mem.wf = true) : (State.tracePark s p c va w).mem.wf = true := by
  simp only [State.tracePark]
  repeat' (first | with_reducible assumption | with_reducible apply State.record_wf | with_reducible apply foldl_wf | with_reducible apply State.doIf_wf | intro _ | split | fail)

theorem State.traceReplay_wf (s : State) (p : PartId) (c : FaultCtx) (va : ℕ) (w : Parked) (hw : s.mem.wf = true) : (State.traceReplay s p c va w).mem.wf = true := by
  simp only [State.traceReplay]
  repeat' (first | with_reducible assumption | with_reducible apply State.record_wf | with_reducible apply foldl_wf | with_reducible apply State.doIf_wf | intro _ | split | fail)

theorem State.openFault_wf (s : State) (env : Env) (p : PartId) (kind : ℕ) (x : Xfault) (owner : ChipId) (c : FaultCtx) (w : Parked) (hw : s.mem.wf = true) : (State.openFault s env p kind x owner c w).mem.wf = true := by
  simp only [State.openFault]
  repeat' (first | with_reducible assumption | with_reducible apply State.updPart_wf | with_reducible apply State.fqPost_wf | with_reducible apply foldl_wf | with_reducible apply State.doIf_wf | intro _ | split | fail)

theorem State.fault_wf (s : State) (env : Env) (p : PartId) (kind : ℕ) (x : Xfault) (owner : ChipId) (c : FaultCtx) (w : Parked) (hw : s.mem.wf = true) : (State.fault s env p kind x owner c w).mem.wf = true := by
  simp only [State.fault]
  repeat' (first | with_reducible assumption | with_reducible apply State.tracePark_wf | with_reducible apply State.openFault_wf | with_reducible apply State.updPart_wf | with_reducible apply State.park_wf | with_reducible apply foldl_wf | with_reducible apply State.doIf_wf | intro _ | split | fail)

theorem State.faultAlso_wf (s : State) (p : PartId) (x : Xfault) (c : FaultCtx) (w : Parked) (hw : s.mem.wf = true) : (State.faultAlso s p x c w).mem.wf = true := by
  simp only [State.faultAlso]
  repeat' (first | with_reducible assumption | with_reducible apply State.tracePark_wf | with_reducible apply State.updPart_wf | with_reducible apply State.park_wf | with_reducible apply foldl_wf | with_reducible apply State.doIf_wf | intro _ | split | fail)

/-! ## Work -/

theorem State.grantPorts_wf (s : State) (hw : s.mem.wf = true) : (State.grantPorts s).mem.wf = true := wf_of_frame (State.grantPorts_frame _ 0x10000000#48 (by decide)) (by decide) hw

theorem State.useCredit_wf (s : State) (o : PortId) (n : Net) (k : ℕ) (hw : s.mem.wf = true) : (State.useCredit s o n k).mem.wf = true := wf_of_frame (State.useCredit_frame _ _ _ _ 0x10000000#48 (by decide)) (by decide) hw

theorem State.finish_wf (s : State) (r : CmdRef) (st : W16) (hw : s.mem.wf = true) : (State.finish s r st).mem.wf = true := wf_of_frame (State.finish_frame _ _ _ 0x80000#48 (by decide)) (by decide) hw

theorem State.finishOk_wf (s : State) (r : CmdRef) (hw : s.mem.wf = true) : (State.finishOk s r).mem.wf = true := wf_of_frame (State.finishOk_frame _ _ 0x80000#48 (by decide)) (by decide) hw

theorem State.itemsDone_wf (s : State) (r : CmdRef) (n : ℕ) (bad : Bool) (hw : s.mem.wf = true) : (State.itemsDone s r n bad).mem.wf = true := wf_of_frame (State.itemsDone_frame _ _ _ _ 0x80000#48 (by decide)) (by decide) hw

theorem State.cutIntake_wf (s : State) (r : CmdRef) (st : W16) (hw : s.mem.wf = true) : (State.cutIntake s r st).mem.wf = true := wf_of_frame (State.cutIntake_frame _ _ _ 0x80000#48 (by decide)) (by decide) hw

theorem State.failCmd_wf (s : State) (r : CmdRef) (st : W16) (hw : s.mem.wf = true) : (State.failCmd s r st).mem.wf = true := wf_of_frame (State.failCmd_frame _ _ _ 0x80000#48 (by decide)) (by decide) hw

theorem State.clampEntry_wf (s : State) (field : ℕ) (kind : ℕ) (source : ℕ) (part : ℕ) (given : ℕ) (applied : ℕ) (hw : s.mem.wf = true) : (State.clampEntry s field kind source part given applied).mem.wf = true := by
  simp only [State.clampEntry]
  repeat' (first | with_reducible assumption | with_reducible apply State.poke_wf | with_reducible apply foldl_wf | with_reducible apply State.doIf_wf | intro _ | split | fail)

theorem State.traceUnpin_wf (s t : State) (hw : t.mem.wf = true) : (s.traceUnpin t).mem.wf = true := by
  unfold State.traceUnpin
  exact foldl_wf (fun x c h => State.doIf_wf (fun y => State.record_wf y _) h) hw

theorem State.applyEngine_wf (s : State) (p : PartId) (e : ℕ) (hw : s.mem.wf = true) : (State.applyEngine s p e).mem.wf = true := wf_of_frame (State.applyEngine_frame _ _ _ 0x40000#48 (by decide)) (by decide) hw

theorem State.applyPart_wf (s : State) (p : PartId) (hw : s.mem.wf = true) : (State.applyPart s p).mem.wf = true := by
  simp only [State.applyPart]
  repeat' (first | with_reducible assumption | with_reducible apply State.clampEntry_wf | with_reducible apply State.setPart_wf | with_reducible apply foldl_wf | with_reducible apply State.doIf_wf | intro _ | split | fail)

theorem State.applyFrame_wf (s : State) (p : PartId) (hw : s.mem.wf = true) : (State.applyFrame s p).mem.wf = true := wf_of_frame (State.applyFrame_frame _ _ 0x40000#48 (by decide)) (by decide) hw

theorem State.applyBlock_wf (s : State) (hw : s.mem.wf = true) : (State.applyBlock s).mem.wf = true := wf_of_frame (State.applyBlock_frame _ 0xD000000#48 (by decide)) (by decide) hw

theorem State.applyEpoch_wf (s : State) (hw : s.mem.wf = true) : (State.applyEpoch s).mem.wf = true := by
  simp only [State.applyEpoch]
  repeat' (first | with_reducible assumption | with_reducible apply State.clampEntry_wf | with_reducible apply foldl_wf | with_reducible apply State.doIf_wf | intro _ | split | fail)

theorem State.recheckHost_wf (s : State) (hw : s.mem.wf = true) : (State.recheckHost s).mem.wf = true := by
  simp only [State.recheckHost]
  repeat' (first | with_reducible assumption | with_reducible apply State.clampEntry_wf | with_reducible apply foldl_wf | with_reducible apply State.doIf_wf | intro _ | split | fail)

theorem State.applyAll_wf (s : State) (hw : s.mem.wf = true) : (State.applyAll s).mem.wf = true := by
  simp only [State.applyAll]
  repeat' (first | with_reducible assumption | with_reducible apply State.applyBlock_wf | with_reducible apply State.applyEpoch_wf | with_reducible apply State.applyPart_wf | with_reducible apply State.applyFrame_wf | with_reducible apply foldl_wf | with_reducible apply State.doIf_wf | intro _ | split | fail)

theorem State.cachesClean_wf (s : State) (p : PartId) (hw : s.mem.wf = true) : (State.cachesClean s p).mem.wf = true := wf_of_frame (State.cachesClean_frame _ _ 0x42000000#48 (by decide)) (by decide) hw

theorem State.stall_wf (s : State) (code : BitVec 4) (detail : W32) (hw : s.mem.wf = true) : (State.stall s code detail).mem.wf = true := wf_of_frame (State.stall_frame _ _ _ 0x208#48 (by decide)) (by decide) hw

theorem State.setBp_wf (s : State) (n : BitVec 14) (hw : s.mem.wf = true) : (State.setBp s n).mem.wf = true := wf_of_frame (State.setBp_frame _ _ 0x200#48 (by decide)) (by decide) hw

theorem State.bootStep_wf (s : State) (n : BitVec 4) (hw : s.mem.wf = true) : (State.bootStep s n).mem.wf = true := wf_of_frame (State.bootStep_frame _ _ 0x200#48 (by decide)) (by decide) hw

/-! ## Herd -/

theorem State.setEntry_wf (s : State) (e : MatchEntry) (hw : s.mem.wf = true) : (State.setEntry s e).mem.wf = true := wf_of_frame (State.setEntry_frame _ _ 0x1000000#48 (by decide)) (by decide) hw

theorem State.armPack_wf (s : State) (p : PartId) (line : ℕ) (hw : s.mem.wf = true) : (State.armPack s p line).mem.wf = true := wf_of_frame (State.armPack_frame _ _ _ 0x2000000000#48 (by decide)) (by decide) hw

theorem State.handBack_wf (s : State) (r : Fin 8) (hw : s.mem.wf = true) : (State.handBack s r).mem.wf = true := wf_of_frame (State.handBack_frame _ _ 0x6000000#48 (by decide)) (by decide) hw

theorem State.handBacks_wf (s : State) (hw : s.mem.wf = true) : (State.handBacks s).mem.wf = true := wf_of_frame (State.handBacks_frame _ 0x6000000#48 (by decide)) (by decide) hw

theorem State.l0Read_wf (s : State) (tu : TuId) (p : PartId) (line : ℕ) (hw : s.mem.wf = true) : (State.l0Read s tu p line).mem.wf = true := wf_of_frame (State.l0Read_frame _ _ _ _ 0x2000000#48 (by decide)) (by decide) hw

theorem State.enterAs_wf (s : State) (i : HItem) (p : PartId) (line : ℕ) (since : Option ℕ) (hw : s.mem.wf = true) : (State.enterAs s i p line since).mem.wf = true := wf_of_frame (State.enterAs_frame _ _ _ _ _ 0x2001000000#48 (by decide)) (by decide) hw

theorem State.enterSince_wf (s : State) (i : HItem) (p : PartId) (line : ℕ) (since : ℕ) (hw : s.mem.wf = true) : (State.enterSince s i p line since).mem.wf = true := wf_of_frame (State.enterSince_frame _ _ _ _ _ 0x2001400000#48 (by decide)) (by decide) hw

theorem State.enter_wf (s : State) (i : HItem) (p : PartId) (line : ℕ) (hw : s.mem.wf = true) : (State.enter s i p line).mem.wf = true := wf_of_frame (State.enter_frame _ _ _ _ 0x2001400000#48 (by decide)) (by decide) hw

theorem State.herdDrop_wf (s : State) (f : HItem → Bool) (hw : s.mem.wf = true) : (State.herdDrop s f).mem.wf = true := wf_of_frame (State.herdDrop_frame _ _ 0x2007000000#48 (by decide)) (by decide) hw

theorem State.unpack_wf (s : State) (k : Pack) (hw : s.mem.wf = true) : (State.unpack s k).mem.wf = true := wf_of_frame (State.unpack_frame _ _ 0x2001000000#48 (by decide)) (by decide) hw

theorem State.countIssue_wf (s : State) (p : PartId) (op : ℕ) (hw : s.mem.wf = true) : (State.countIssue s p op).mem.wf = true := wf_of_frame (State.countIssue_frame _ _ _ 0x1000000#48 (by decide)) (by decide) hw

theorem State.issue_wf (s : State) (k : Pack) (n : TuId) (why : ℕ) (reason : ℕ) (starve : Bool) (hw : s.mem.wf = true) : (State.issue s k n why reason starve).mem.wf = true := by
  simp only [State.issue]
  repeat' (first | with_reducible assumption | with_reducible apply State.countIssue_wf | with_reducible apply State.setEntry_wf | with_reducible apply State.armPack_wf | with_reducible apply State.record_wf | with_reducible apply foldl_wf | with_reducible apply State.doIf_wf | intro _ | split | fail)

/-! ## Link -/

theorem State.setSess_wf (s : State) (l : LinkId) (x : Session) (hw : s.mem.wf = true) : (State.setSess s l x).mem.wf = true := wf_of_frame (State.setSess_frame _ _ _ 0x200000000#48 (by decide)) (by decide) hw

theorem State.updSess_wf (s : State) (l : LinkId) (f : Session → Session) (hw : s.mem.wf = true) : (State.updSess s l f).mem.wf = true := wf_of_frame (State.updSess_frame _ _ _ 0x200000000#48 (by decide)) (by decide) hw

theorem State.emit_wf (s : State) (l : LinkId) (h : MsgHdr) (b : MsgBody) (hw : s.mem.wf = true) : (State.emit s l h b).mem.wf = true := wf_of_frame (State.emit_frame _ _ _ _ 0x2000000040#48 (by decide)) (by decide) hw

theorem State.sendNow_wf (s : State) (l : LinkId) (h : MsgHdr) (b : MsgBody) (hw : s.mem.wf = true) : (State.sendNow s l h b).mem.wf = true := wf_of_frame (State.sendNow_frame _ _ _ _ 0x2200000040#48 (by decide)) (by decide) hw

theorem State.send_wf (s : State) (l : LinkId) (h : MsgHdr) (b : MsgBody) (hw : s.mem.wf = true) : (State.send s l h b).mem.wf = true := wf_of_frame (State.send_frame _ _ _ _ 0x2600000040#48 (by decide)) (by decide) hw

theorem State.sendAll_wf (s : State) (a : List (LinkId × MsgHdr × MsgBody)) (hw : s.mem.wf = true) : (State.sendAll s a).mem.wf = true := wf_of_frame (State.sendAll_frame _ _ 0x2600000040#48 (by decide)) (by decide) hw

theorem State.sendWaiting_wf (s : State) (l : LinkId) (hw : s.mem.wf = true) : (State.sendWaiting s l).mem.wf = true := wf_of_frame (State.sendWaiting_frame _ _ 0x2600000040#48 (by decide)) (by decide) hw

/-! ## Session -/

theorem State.payBack_wf (s : State) (l : LinkId) (hw : s.mem.wf = true) : (State.payBack s l).mem.wf = true := wf_of_frame (State.payBack_frame _ _ 0x2200000040#48 (by decide)) (by decide) hw

theorem State.owe_wf (s : State) (l : LinkId) (c : Credits) (hw : s.mem.wf = true) : (State.owe s l c).mem.wf = true := wf_of_frame (State.owe_frame _ _ _ 0x2200000040#48 (by decide)) (by decide) hw

theorem State.sendState_wf (s : State) (l : LinkId) (hw : s.mem.wf = true) : (State.sendState s l).mem.wf = true := wf_of_frame (State.sendState_frame _ _ 0x2000000040#48 (by decide)) (by decide) hw

theorem State.enterSess_wf (s : State) (l : LinkId) (st : BitVec 3) (hw : s.mem.wf = true) : (State.enterSess s l st).mem.wf = true := wf_of_frame (State.enterSess_frame _ _ _ 0x2200000040#48 (by decide)) (by decide) hw

theorem State.quietLink_wf (s : State) (l : LinkId) (hw : s.mem.wf = true) : (State.quietLink s l).mem.wf = true := wf_of_frame (State.quietLink_frame _ _ 0x2000000000#48 (by decide)) (by decide) hw

theorem State.dropWaiting_wf (s : State) (l : LinkId) (hw : s.mem.wf = true) : (State.dropWaiting s l).mem.wf = true := wf_of_frame (State.dropWaiting_frame _ _ 0x400000000#48 (by decide)) (by decide) hw

theorem State.listen_wf (s : State) (l : LinkId) (hw : s.mem.wf = true) : (State.listen s l).mem.wf = true := wf_of_frame (State.listen_frame _ _ 0x2600000040#48 (by decide)) (by decide) hw

theorem State.downSess_wf (s : State) (l : LinkId) (reason : BitVec 4) (hw : s.mem.wf = true) : (State.downSess s l reason).mem.wf = true := wf_of_frame (State.downSess_frame _ _ _ 0x2600000000#48 (by decide)) (by decide) hw

theorem State.endCmds_wf (s : State) (l : LinkId) (drain : Bool) (st : W16) (hw : s.mem.wf = true) : (State.endCmds s l drain st).mem.wf = true := wf_of_frame (State.endCmds_frame _ _ _ _ 0x400080000#48 (by decide)) (by decide) hw

theorem State.boot9_wf (s : State) (hw : s.mem.wf = true) : (State.boot9 s).mem.wf = true := wf_of_frame (State.boot9_frame _ 0x200#48 (by decide)) (by decide) hw

theorem State.ringFailed_wf (s : State) (l : LinkId) (hw : s.mem.wf = true) : (State.ringFailed s l).mem.wf = true := wf_of_frame (State.ringFailed_frame _ _ 0x200000020A#48 (by decide)) (by decide) hw

theorem State.ringDowns_wf (s : State) (hw : s.mem.wf = true) : (State.ringDowns s).mem.wf = true := wf_of_frame (State.ringDowns_frame _ 0x200000020A#48 (by decide)) (by decide) hw

theorem State.failSess_wf (s : State) (l : LinkId) (reason : BitVec 4) (hw : s.mem.wf = true) : (State.failSess s l reason).mem.wf = true := wf_of_frame (State.failSess_frame _ _ _ 0x260008020A#48 (by decide)) (by decide) hw

theorem State.openSess_wf (s : State) (l : LinkId) (peer : Option ChipId) (hw : s.mem.wf = true) : (State.openSess s l peer).mem.wf = true := wf_of_frame (State.openSess_frame _ _ _ 0x2600000040#48 (by decide)) (by decide) hw

theorem State.endDrain_wf (s : State) (l : LinkId) (reason : BitVec 4) (hw : s.mem.wf = true) : (State.endDrain s l reason).mem.wf = true := wf_of_frame (State.endDrain_frame _ _ _ 0x2600080240#48 (by decide)) (by decide) hw

theorem State.drainCheck_wf (s : State) (l : LinkId) (hw : s.mem.wf = true) : (State.drainCheck s l).mem.wf = true := wf_of_frame (State.drainCheck_frame _ _ 0x2600080240#48 (by decide)) (by decide) hw

theorem State.drainAll_wf (s : State) (hw : s.mem.wf = true) : (State.drainAll s).mem.wf = true := wf_of_frame (State.drainAll_frame _ 0x2600080240#48 (by decide)) (by decide) hw

theorem State.startDrain_wf (s : State) (l : LinkId) (hw : s.mem.wf = true) : (State.startDrain s l).mem.wf = true := wf_of_frame (State.startDrain_frame _ _ 0x2600080248#48 (by decide)) (by decide) hw

theorem State.upSess_wf (s : State) (l : LinkId) (c : Credits) (hw : s.mem.wf = true) : (State.upSess s l c).mem.wf = true := wf_of_frame (State.upSess_frame _ _ _ 0x2600080248#48 (by decide)) (by decide) hw

theorem State.heard_wf (s : State) (l : LinkId) (hw : s.mem.wf = true) : (State.heard s l).mem.wf = true := wf_of_frame (State.heard_frame _ _ 0x2000000000#48 (by decide)) (by decide) hw

theorem State.epochSeen_wf (s : State) (lo : Byte) (hw : s.mem.wf = true) : (State.epochSeen s lo).mem.wf = true := wf_of_frame (State.epochSeen_frame _ _ 0x100000008#48 (by decide)) (by decide) hw

theorem State.step9Open_wf (s : State) (hw : s.mem.wf = true) : (State.step9Open s).mem.wf = true := wf_of_frame (State.step9Open_frame _ 0x260000024A#48 (by decide)) (by decide) hw

/-! ## Foreign -/

theorem State.mapGroups_wf (s : State) (f : Machine.Group → Machine.Group) (hw : s.mem.wf = true) : (State.mapGroups s f).mem.wf = true := wf_of_frame (State.mapGroups_frame _ _ 0x40000000#48 (by decide)) (by decide) hw

theorem State.dropForeign_wf (s : State) (f : Foreign) (hw : s.mem.wf = true) : (State.dropForeign s f).mem.wf = true := by
  simp only [State.dropForeign]
  repeat' (first | with_reducible assumption | with_reducible apply State.drainCheck_wf | with_reducible apply State.mapGroups_wf | with_reducible apply State.kFreeAll_wf | with_reducible apply State.timerDel_wf | with_reducible apply State.owe_wf | with_reducible apply State.traceUnpin_wf | with_reducible apply State.herdDrop_wf | with_reducible apply foldl_wf | with_reducible apply State.doIf_wf | intro _ | split | fail)

theorem State.sendResult_wf (s : State) (f : Foreign) (b : MsgBody) (hw : s.mem.wf = true) : (State.sendResult s f b).mem.wf = true := wf_of_frame (State.sendResult_frame _ _ _ 0x2600000040#48 (by decide)) (by decide) hw

theorem State.failForeign_wf (s : State) (f : Foreign) (result : ℕ) (va : ℕ) (hw : s.mem.wf = true) : (State.failForeign s f result va).mem.wf = true := by
  simp only [State.failForeign]
  repeat' (first | with_reducible assumption | with_reducible apply State.dropForeign_wf | with_reducible apply State.sendResult_wf | with_reducible apply foldl_wf | with_reducible apply State.doIf_wf | intro _ | split | fail)

theorem State.abortForeign_wf (s : State) (hw : s.mem.wf = true) : (State.abortForeign s).mem.wf = true := by
  simp only [State.abortForeign]
  repeat' (first | with_reducible assumption | with_reducible apply State.failForeign_wf | with_reducible apply foldl_wf | with_reducible apply State.doIf_wf | intro _ | split | fail)

theorem State.partitionError_wf (s : State) (p : PartId) (reason : BitVec 2) (hw : s.mem.wf = true) : (State.partitionError s p reason).mem.wf = true := by
  simp only [State.partitionError]
  repeat' (first | with_reducible assumption | with_reducible apply State.abortForeign_wf | with_reducible apply State.errPartition_wf | with_reducible apply foldl_wf | with_reducible apply State.doIf_wf | intro _ | split | fail)

/-! ## Fetch -/

theorem State.resident_wf (s : State) (p : PartId) (va : ℕ) (c : FaultCtx)  (hw : s.mem.wf = true) : ((State.resident s p va c)).2.mem.wf = true := by
  simp only [State.resident]
  repeat' (first | with_reducible assumption | with_reducible apply State.notice_wf | with_reducible apply foldl_wf | with_reducible apply State.doIf_wf | intro _ | split | fail)

theorem State.faultForeign_wf (s : State) (f : Foreign) (p : PartId) (x : Xfault) (c : FaultCtx) (hw : s.mem.wf = true) : (State.faultForeign s f p x c).mem.wf = true := by
  simp only [State.faultForeign]
  repeat' (first | with_reducible assumption | with_reducible apply State.failForeign_wf | with_reducible apply State.notice_wf | with_reducible apply foldl_wf | with_reducible apply State.doIf_wf | intro _ | split | fail)

theorem State.keepSince_wf (s : State) (line : ℕ) (w : HWait) (hw : s.mem.wf = true) : (State.keepSince s line w).mem.wf = true := wf_of_frame (State.keepSince_frame _ _ _ 0x20400000#48 (by decide)) (by decide) hw

theorem State.parkItem_wf (s : State) (env : Env) (p : PartId) (x : Xfault) (w : HWait) (unit : ℕ) (also : Bool) (hw : s.mem.wf = true) : (State.parkItem s env p x w unit also).mem.wf = true := by
  simp only [State.parkItem]
  repeat' (first | with_reducible assumption | with_reducible apply State.fault_wf | with_reducible apply State.keepSince_wf | with_reducible apply State.faultForeign_wf | with_reducible apply State.faultAlso_wf | with_reducible apply foldl_wf | with_reducible apply State.doIf_wf | intro _ | split | fail)

theorem State.parkFrom_wf (s : State) (env : Env) (p : PartId) (x : Xfault) (unit : Nat) (also : Bool) (l : List HWait) (hw : s.mem.wf = true) : (s.parkFrom env p x unit also l).mem.wf = true := by
  induction l generalizing s also with
  | nil => exact hw
  | cons w r ih => exact ih _ _ (State.parkItem_wf _ _ _ _ _ _ _ hw)

theorem State.parkItems_wf (s : State) (env : Env) (p : PartId) (x : Xfault) (unit : ℕ) (l : List HWait) (hw : s.mem.wf = true) : (State.parkItems s env p x unit l).mem.wf = true := by
  simp only [State.parkItems]
  repeat' (first | with_reducible assumption | with_reducible apply State.parkFrom_wf | with_reducible apply foldl_wf | with_reducible apply State.doIf_wf | intro _ | split | fail)

theorem State.makeReady_wf (s : State) (p : PartId) (line : ℕ) (hw : s.mem.wf = true) : (State.makeReady s p line).mem.wf = true := wf_of_frame (State.makeReady_frame _ _ _ 0x2001000000#48 (by decide)) (by decide) hw

theorem State.sendFetch_wf (s : State) (e : MatchEntry) (o : PortId) (hw : s.mem.wf = true) : (State.sendFetch s e o).mem.wf = true := by
  simp only [State.sendFetch]
  repeat' (first | with_reducible assumption | with_reducible apply State.countIssue_wf | with_reducible apply State.record_wf | with_reducible apply foldl_wf | with_reducible apply State.doIf_wf | intro _ | split | fail)

theorem State.ncFill_wf {s : State} {p : PartId} {line : Nat} {t : State} (h : s.ncFill p line = some t) (hw : s.mem.wf = true) : t.mem.wf = true :=
  wf_of_frame (State.ncFill_frame h 0x1000000#48 (by decide)) (by decide) hw

theorem State.ncTouch_wf (s : State) (p : PartId) (line : ℕ) (hw : s.mem.wf = true) : (State.ncTouch s p line).mem.wf = true := wf_of_frame (State.ncTouch_frame _ _ _ 0x2001000000#48 (by decide)) (by decide) hw

/-! ## Ret -/

theorem State.stallFlow_wf (s : State) (p : PartId) (flow : W16) (hw : s.mem.wf = true) : (State.stallFlow s p flow).mem.wf = true := wf_of_frame (State.stallFlow_frame _ _ _ 0x40000#48 (by decide)) (by decide) hw

theorem State.reserve_wf (s : State) (p : PartId) (flow : W16) (order : ℕ) (r : CmdRef) (index : ℕ) (bundle : Option ℕ) (hw : s.mem.wf = true) : (State.reserve s p flow order r index bundle).mem.wf = true := wf_of_frame (State.reserve_frame _ _ _ _ _ _ _ 0x10000000#48 (by decide)) (by decide) hw

theorem State.updEntry_wf (s : State) (id : ℕ) (f : RetEntry → RetEntry) (hw : s.mem.wf = true) : (State.updEntry s id f).mem.wf = true := wf_of_frame (State.updEntry_frame _ _ _ 0x10000000#48 (by decide)) (by decide) hw

theorem State.bundleGone_wf (s : State) (h : ℕ) (hw : s.mem.wf = true) : (State.bundleGone s h).mem.wf = true := wf_of_frame (State.bundleGone_frame _ _ 0x20000000#48 (by decide)) (by decide) hw

theorem State.freeEntry_wf (s : State) (id : ℕ) (hw : s.mem.wf = true) : (State.freeEntry s id).mem.wf = true := wf_of_frame (State.freeEntry_frame _ _ 0x30080000#48 (by decide)) (by decide) hw

theorem State.writeEntry_wf (s : State) (env : Env) (e : RetEntry) (hw : s.mem.wf = true) : (State.writeEntry s env e).mem.wf = true := by
  simp only [State.writeEntry]
  repeat' (first | with_reducible assumption | with_reducible apply State.fault_wf | with_reducible apply State.updEntry_wf | with_reducible apply State.errCorrected_wf | with_reducible apply State.failCmd_wf | with_reducible apply State.errContained_wf | with_reducible apply State.noteWrite_wf | with_reducible apply State.freeEntry_wf | with_reducible apply foldl_wf | with_reducible apply State.doIf_wf | intro _ | split | (with_reducible refine State.vwrite_wf (by assumption) ?_) | fail)

theorem State.armDeliv_wf (s : State) (port : PortId) (group : BitVec 12) (hw : s.mem.wf = true) : (State.armDeliv s port group).mem.wf = true := wf_of_frame (State.armDeliv_frame _ _ _ 0x2000000000#48 (by decide)) (by decide) hw

theorem State.setDeliv_wf (s : State) (old : Deliv) (new : Deliv) (hw : s.mem.wf = true) : (State.setDeliv s old new).mem.wf = true := wf_of_frame (State.setDeliv_frame _ _ _ 0x2010000000#48 (by decide)) (by decide) hw

theorem State.newDeliv_wf (s : State) (port : PortId) (group : BitVec 12) (id : ℕ) (due : Bool) (hw : s.mem.wf = true) : (State.newDeliv s port group id due).mem.wf = true := wf_of_frame (State.newDeliv_frame _ _ _ _ _ 0x2010000000#48 (by decide)) (by decide) hw

theorem State.joinDeliv_wf (s : State) (e : RetEntry) (port : PortId) (group : BitVec 12) (hw : s.mem.wf = true) : (State.joinDeliv s e port group).mem.wf = true := wf_of_frame (State.joinDeliv_frame _ _ _ _ 0x2010000000#48 (by decide)) (by decide) hw

theorem State.release_wf (s : State) (env : Env) (e : RetEntry) (hw : s.mem.wf = true) : (State.release s env e).mem.wf = true := by
  simp only [State.release]
  repeat' (first | with_reducible assumption | with_reducible apply State.updEntry_wf | with_reducible apply State.writeEntry_wf | with_reducible apply State.joinDeliv_wf | with_reducible apply foldl_wf | with_reducible apply State.doIf_wf | intro _ | split | fail)

theorem State.releaseOne_wf {s : State} {env : Env} {f : Flow} {t_ : State} (h_ : (State.releaseOne s env f) = some t_) (hw : s.mem.wf = true) : t_.mem.wf = true := by
  simp only [State.releaseOne] at h_
  (repeat' split at h_) <;> cases h_ <;> repeat' (first | with_reducible assumption | with_reducible apply State.release_wf | with_reducible apply foldl_wf | with_reducible apply State.doIf_wf | intro _ | split | fail)

theorem State.releaseRuns_wf (s : State) (env : Env) (x2 : ℕ)  (hw : s.mem.wf = true) : (State.releaseRuns s env x2).mem.wf = true := by
  induction x2 generalizing s with
  | zero => exact hw
  | succ n ih =>
    simp only [State.releaseRuns]
    split
    · rename_i h
      rw [List.findSome?_eq_some_iff] at h
      obtain ⟨_, _, _, _, h, _⟩ := h
      exact ih _ (State.releaseOne_wf h hw)
    · exact hw

theorem State.delivLast_wf (s : State) (hw : s.mem.wf = true) : (State.delivLast s).mem.wf = true := wf_of_frame (State.delivLast_frame _ 0x2010000000#48 (by decide)) (by decide) hw

theorem State.releaseAll_wf (s : State) (env : Env) (hw : s.mem.wf = true) : (State.releaseAll s env).mem.wf = true := by
  simp only [State.releaseAll]
  repeat' (first | with_reducible assumption | with_reducible apply State.releaseRuns_wf | with_reducible apply State.delivLast_wf | with_reducible apply foldl_wf | with_reducible apply State.doIf_wf | intro _ | split | fail)

theorem State.skipItems_wf (s : State) (p : PartId) (c : Cmd) (flow : W16) (hw : s.mem.wf = true) : (State.skipItems s p c flow).mem.wf = true := wf_of_frame (State.skipItems_frame _ _ _ _ 0x10000000#48 (by decide)) (by decide) hw

theorem State.skipRest_wf (s : State) (env : Env) (p : PartId) (r : CmdRef) (hw : s.mem.wf = true) : (State.skipRest s env p r).mem.wf = true := by
  simp only [State.skipRest]
  repeat' (first | with_reducible assumption | with_reducible apply State.updCmd_wf | with_reducible apply State.releaseAll_wf | with_reducible apply State.skipItems_wf | with_reducible apply foldl_wf | with_reducible apply State.doIf_wf | intro _ | split | fail)

theorem State.endIntake_wf (s : State) (env : Env) (p : PartId) (r : CmdRef) (st : W16) (hw : s.mem.wf = true) : (State.endIntake s env p r st).mem.wf = true := by
  simp only [State.endIntake]
  repeat' (first | with_reducible assumption | with_reducible apply State.cutIntake_wf | with_reducible apply State.skipRest_wf | with_reducible apply State.delivLast_wf | with_reducible apply foldl_wf | with_reducible apply State.doIf_wf | intro _ | split | fail)

theorem State.accept_wf (s : State) (env : Env) (p : PartId) (flow : W16) (c : Cmd) (r : CmdRef) (index : ℕ) (bundle : Option ℕ) (record : Rec32) (deliver : Option (PortId × BitVec 12)) (addr : ℕ) (bad : Bool) (hw : s.mem.wf = true) : (State.accept s env p flow c r index bundle record deliver addr bad).mem.wf = true := by
  simp only [State.accept]
  repeat' (first | with_reducible assumption | with_reducible apply State.updCmd_wf | with_reducible apply State.updEntry_wf | with_reducible apply State.releaseAll_wf | with_reducible apply State.itemsDone_wf | with_reducible apply State.release_wf | with_reducible apply foldl_wf | with_reducible apply State.doIf_wf | intro _ | split | fail)

theorem State.acceptRay_wf (s : State) (env : Env) (p : PartId) (flow : W16) (c : Cmd) (r : CmdRef) (index : ℕ) (record : Rec32) (hw : s.mem.wf = true) : (State.acceptRay s env p flow c r index record).mem.wf = true := by
  simp only [State.acceptRay]
  repeat' (first | with_reducible assumption | with_reducible apply State.accept_wf | with_reducible apply foldl_wf | with_reducible apply State.doIf_wf | intro _ | split | fail)

theorem State.returned_wf (s : State) (p : PartId) (i : ℕ) (hw : s.mem.wf = true) : (State.returned s p i).mem.wf = true := by
  simp only [State.returned]
  repeat' (first | with_reducible assumption | with_reducible apply State.countIssue_wf | with_reducible apply State.record_wf | with_reducible apply foldl_wf | with_reducible apply State.doIf_wf | intro _ | split | fail)

theorem State.setCredit_wf (s : State) (port : PortId) (net : Net) (group : BitVec 12) (n : ℕ) (hw : s.mem.wf = true) : (State.setCredit s port net group n).mem.wf = true := wf_of_frame (State.setCredit_frame _ _ _ _ _ 0x10000000#48 (by decide)) (by decide) hw

theorem State.drawCredit_wf (s : State) (port : PortId) (net : Net) (group : BitVec 12) (n : ℕ) (hw : s.mem.wf = true) : (State.drawCredit s port net group n).mem.wf = true := wf_of_frame (State.drawCredit_frame _ _ _ _ _ 0x10000000#48 (by decide)) (by decide) hw

theorem State.sendPort_wf (s : State) (m : PortMsg) (hw : s.mem.wf = true) : (State.sendPort s m).mem.wf = true := wf_of_frame (State.sendPort_frame _ _ 0x20#48 (by decide)) (by decide) hw

theorem State.deliver_wf (s : State) (port : PortId) (group : BitVec 12) (hw : s.mem.wf = true) : (State.deliver s port group).mem.wf = true := wf_of_frame (State.deliver_frame _ _ _ 0x30080020#48 (by decide)) (by decide) hw

theorem State.delivDue_wf (s : State) (port : PortId) (group : BitVec 12) (hw : s.mem.wf = true) : (State.delivDue s port group).mem.wf = true := wf_of_frame (State.delivDue_frame _ _ _ 0x2010000000#48 (by decide)) (by decide) hw

end Sys2Proof.Machine
end

