-- ==== Sys2Proof/Laws/MemFront.lean ====
section
/-!
SUPPORT. Sys2Proof/Laws/MemFront.lean: each operation of Machine/{Flags, Bus, Target, Present, Queue, Sync, Rci, Array}.lean keeps memory in its canonical form.
-/

set_option linter.all false

namespace Sys2Proof.Machine
open Sys2Proof

/-! ## Flags -/

theorem State.fpInvalids_wf (s : State) (p : PartId) (l : List FpInv) (hw : s.mem.wf = true) : (State.fpInvalids s p l).mem.wf = true := wf_of_frame (State.fpInvalids_frame _ _ _ 0x40008#48 (by decide)) (by decide) hw

theorem State.pushInvs_wf (s : State) (l : List FpInv) (hw : s.mem.wf = true) : (State.pushInvs s l).mem.wf = true := wf_of_frame (State.pushInvs_frame _ _ 0x1000000#48 (by decide)) (by decide) hw

theorem State.flushInvs_wf (s : State) (p : PartId) (hw : s.mem.wf = true) : (State.flushInvs s p).mem.wf = true := wf_of_frame (State.flushInvs_frame _ _ 0x1040008#48 (by decide)) (by decide) hw

theorem State.fpOverflows_wf (s : State) (p : PartId) (n : ℕ) (hw : s.mem.wf = true) : (State.fpOverflows s p n).mem.wf = true := wf_of_frame (State.fpOverflows_frame _ _ _ 0x40008#48 (by decide)) (by decide) hw

/-! ## Bus -/

theorem State.busError_wf (s : State) (hw : s.mem.wf = true) : (State.busError s).mem.wf = true := wf_of_frame (State.busError_frame _ 0x10#48 (by decide)) (by decide) hw

theorem State.busXpart_wf (s : State) (hw : s.mem.wf = true) : (State.busXpart s).mem.wf = true := wf_of_frame (State.busXpart_frame _ 0x2010#48 (by decide)) (by decide) hw

theorem State.relock_wf (s : State) (req : Requester) (hw : s.mem.wf = true) : (State.relock s req).mem.wf = true := wf_of_frame (State.relock_frame _ _ 0x1000#48 (by decide)) (by decide) hw

theorem State.lockViolation_wf (s : State) (hw : s.mem.wf = true) : (State.lockViolation s).mem.wf = true := wf_of_frame (State.lockViolation_frame _ 0x2008#48 (by decide)) (by decide) hw

theorem State.busWrite_wf (s : State) (req : Requester) (page : Option PartId) (a b : Bool) (f : Bool → State → State) (hf : ∀ u (x : State), x.mem.wf = true → (f u x).mem.wf = true) (hw : s.mem.wf = true) : (s.busWrite req page a b f).mem.wf = true := by
  unfold State.busWrite
  split
  · rename_i h; exact wf_of_frame (State.gate_frame h 0x3010#48 (by decide)) (by decide) hw
  · exact State.answer_wf _ _ hw
  · simp only []
    repeat' (first | with_reducible assumption | with_reducible apply State.answer_wf | with_reducible apply State.relock_wf | with_reducible apply hf | split)

theorem State.globalWrite_wf (s : State) (req : Requester) (f : Bool → State → State) (hf : ∀ u (x : State), x.mem.wf = true → (f u x).mem.wf = true) (hw : s.mem.wf = true) : (s.globalWrite req f).mem.wf = true := by
  exact State.busWrite_wf _ _ _ _ _ _ hf hw

theorem State.pageWrite_wf (s : State) (req : Requester) (p : PartId) (f : State → State) (hf : ∀ x : State, x.mem.wf = true → (f x).mem.wf = true) (hw : s.mem.wf = true) : (s.pageWrite req p f).mem.wf = true := by
  exact State.busWrite_wf _ _ _ _ _ _ (fun _ => hf) hw

theorem State.locked_wf (s : State) (a b : Bool) (f : State → State) (hf : ∀ x : State, x.mem.wf = true → (f x).mem.wf = true) (hw : s.mem.wf = true) : (s.locked a b f).mem.wf = true := by
  unfold State.locked; (repeat' split) <;> first | assumption | exact hf _ hw | exact State.lockViolation_wf _ hw

/-! ## Present -/

theorem State.sendPresent_wf (s : State) (p : PartId) (surface : ℕ) (reproj : Bool) (late : Bool) (hw : s.mem.wf = true) : (State.sendPresent s p surface reproj late).mem.wf = true := wf_of_frame (State.sendPresent_frame _ _ _ _ _ 0x40080#48 (by decide)) (by decide) hw

theorem State.deadlineIdle_wf (s : State) (p : PartId) (hw : s.mem.wf = true) : (State.deadlineIdle s p).mem.wf = true := wf_of_frame (State.deadlineIdle_frame _ _ 0x2000040000#48 (by decide)) (by decide) hw

theorem State.keepLate_wf (s : State) (p : PartId) (hw : s.mem.wf = true) : (State.keepLate s p).mem.wf = true := wf_of_frame (State.keepLate_frame _ _ 0x40000#48 (by decide)) (by decide) hw

theorem State.takeReference_wf (s : State) (p : PartId) (c : Cmd) (hw : s.mem.wf = true) : (State.takeReference s p c).mem.wf = true := wf_of_frame (State.takeReference_frame _ _ _ 0x40000#48 (by decide)) (by decide) hw

theorem State.presentFrame_wf (s : State) (p : PartId) (r : CmdRef) (c : Cmd) (hw : s.mem.wf = true) : (State.presentFrame s p r c).mem.wf = true := wf_of_frame (State.presentFrame_frame _ _ _ _ 0x20000C0088#48 (by decide)) (by decide) hw

/-! ## Target -/

theorem State.dropParkWait_wf (s : State) (f : ParkReq → Bool) (hw : s.mem.wf = true) : (State.dropParkWait s f).mem.wf = true := wf_of_frame (State.dropParkWait_frame _ _ 0x80000000#48 (by decide)) (by decide) hw

theorem State.dropSummary_wf (s : State) (p : PartId) (hw : s.mem.wf = true) : (State.dropSummary s p).mem.wf = true := wf_of_frame (State.dropSummary_frame _ _ 0x80040000#48 (by decide)) (by decide) hw

theorem State.askSummary_wf (s : State) (p : PartId) (r : CmdRef) (cls : BitVec 2) (w : ℕ) (h : ℕ) (hw : s.mem.wf = true) : (State.askSummary s p r cls w h).mem.wf = true := wf_of_frame (State.askSummary_frame _ _ _ _ _ _ 0x80040000#48 (by decide)) (by decide) hw

theorem State.bindFrame_wf (s : State) (p : PartId) (r : CmdRef) (cls : BitVec 2) (hw : s.mem.wf = true) : (State.bindFrame s p r cls).mem.wf = true := wf_of_frame (State.bindFrame_frame _ _ _ _ 0x40000#48 (by decide)) (by decide) hw

theorem State.readTarget_wf (s : State) (env : Env) (q : QueueId) (c : Cmd) (hw : s.mem.wf = true) : (State.readTarget s env q c).mem.wf = true := by
  simp only [State.readTarget]
  repeat' (first | with_reducible assumption | with_reducible apply State.updCmd_wf | with_reducible apply State.fault_wf | with_reducible apply State.finish_wf | with_reducible apply State.bindFrame_wf | with_reducible apply State.askSummary_wf | with_reducible apply foldl_wf | with_reducible apply State.doIf_wf | intro _ | split | fail)

/-! ## Queue -/

theorem State.readQdesc_wf (s : State) (env : Env) (q : QueueId) (hw : s.mem.wf = true) : (State.readQdesc s env q).mem.wf = true := by
  simp only [State.readQdesc]
  repeat' (first | with_reducible assumption | with_reducible apply State.fault_wf | with_reducible apply State.setQueue_wf | with_reducible apply foldl_wf | with_reducible apply State.doIf_wf | intro _ | split | fail)

theorem State.enableQueue_wf (s : State) (env : Env) (q : QueueId) (hw : s.mem.wf = true) : (State.enableQueue s env q).mem.wf = true := by
  simp only [State.enableQueue]
  repeat' (first | with_reducible assumption | with_reducible apply State.updQueue_wf | with_reducible apply State.readQdesc_wf | with_reducible apply foldl_wf | with_reducible apply State.doIf_wf | intro _ | split | fail)

theorem State.writeQctl_wf (s : State) (env : Env) (q : QueueId) (v : W32) (hw : s.mem.wf = true) : (State.writeQctl s env q v).mem.wf = true := by
  simp only [State.writeQctl]
  repeat' (first | with_reducible assumption | with_reducible apply State.setQueue_wf | with_reducible apply State.enableQueue_wf | with_reducible apply State.updQueue_wf | with_reducible apply foldl_wf | with_reducible apply State.doIf_wf | intro _ | split | fail)

theorem State.queueSlotWrite_wf (s : State) (req : Requester) (p : PartId) (n : Fin 64) (f : QueueId → State → State) (hf : ∀ q (x : State), x.mem.wf = true → (f q x).mem.wf = true) (hw : s.mem.wf = true) : (s.queueSlotWrite req p n f).mem.wf = true := by
  exact State.pageWrite_wf _ _ _ _ (fun x hx => by split <;> first | exact hf _ _ hx | exact hx) hw

theorem State.whistleAt_wf (s : State) (p : PartId) (q : QueueId) (t : ℕ) (hw : s.mem.wf = true) : (State.whistleAt s p q t).mem.wf = true := wf_of_frame (State.whistleAt_frame _ _ _ _ 0x80000#48 (by decide)) (by decide) hw

theorem State.fetchCount_wf (s : State) (q : QueueId) (hw : s.mem.wf = true) : (State.fetchCount s q).mem.wf = true := wf_of_frame (State.fetchCount_frame _ _ 0x180000#48 (by decide)) (by decide) hw

theorem State.fetchCmd_wf (s : State) (env : Env) (p : PartId) (q : QueueId) (f : Fetching) (hw : s.mem.wf = true) : (State.fetchCmd s env p q f).mem.wf = true := by
  simp only [State.fetchCmd]
  repeat' (first | with_reducible assumption | with_reducible apply State.fault_wf | with_reducible apply State.updQueue_wf | with_reducible apply foldl_wf | with_reducible apply State.doIf_wf | intro _ | split | fail)

theorem State.fetchEntry_wf (s : State) (env : Env) (p : PartId) (q : QueueId) (hw : s.mem.wf = true) : (State.fetchEntry s env p q).mem.wf = true := by
  simp only [State.fetchEntry]
  repeat' (first | with_reducible assumption | with_reducible apply State.fault_wf | with_reducible apply State.setQueue_wf | with_reducible apply State.fetchCmd_wf | with_reducible apply foldl_wf | with_reducible apply State.doIf_wf | intro _ | split | fail)

theorem State.takeFlow_wf (s : State) (p : PartId) (q : QueueId) (flow : ℕ) (n : ℕ)  (hw : s.mem.wf = true) : ((State.takeFlow s p q flow n)).2.mem.wf = true := wf_of_frame (State.takeFlow_frame _ _ _ _ _ 0x10000000#48 (by decide)) (by decide) hw

theorem State.admitOne_wf (s : State) (env : Env) (q : QueueId) (f : Fetched) (hw : s.mem.wf = true) : (State.admitOne s env q f).mem.wf = true := by
  simp only [State.admitOne]
  repeat' (first | with_reducible assumption | with_reducible apply State.readTarget_wf | with_reducible apply State.takeFlow_wf | with_reducible apply State.updQueue_wf | with_reducible apply foldl_wf | with_reducible apply State.doIf_wf | intro _ | split | fail)

theorem State.retire_wf (s : State) (q : QueueId) (c : Cmd) (wrote : Bool) (hw : s.mem.wf = true) : (State.retire s q c wrote).mem.wf = true := by
  simp only [State.retire]
  repeat' (first | with_reducible assumption | with_reducible apply State.traceUnpin_wf | with_reducible apply State.updQueue_wf | with_reducible apply foldl_wf | with_reducible apply State.doIf_wf | intro _ | split | fail)

theorem State.completeHead_wf (s : State) (env : Env) (q : QueueId) (c : Cmd) (hw : s.mem.wf = true) : (State.completeHead s env q c).mem.wf = true := by
  simp only [State.completeHead]
  repeat' (first | with_reducible assumption | with_reducible apply State.fault_wf | with_reducible apply State.retire_wf | with_reducible apply State.irqPart_wf | with_reducible apply foldl_wf | with_reducible apply State.doIf_wf | intro _ | split | (with_reducible refine State.vwrite_wf (by assumption) ?_) | fail)

theorem State.onComplete_wf (s : State) (q : QueueId) (c : Cmd) (hw : s.mem.wf = true) : (State.onComplete s q c).mem.wf = true := wf_of_frame (State.onComplete_frame _ _ _ 0x20000C0088#48 (by decide)) (by decide) hw

/-! ## Rci -/

theorem State.loadCaddy_wf (s : State) (l : CaddyLoad) (hw : s.mem.wf = true) : (State.loadCaddy s l).mem.wf = true := wf_of_frame (State.loadCaddy_frame _ _ 0x8000#48 (by decide)) (by decide) hw

theorem State.putPtab_wf (s : State) (p : PartId) (w : PtabWords) (hw : s.mem.wf = true) : (State.putPtab s p w).mem.wf = true := wf_of_frame (State.putPtab_frame _ _ _ 0x4000#48 (by decide)) (by decide) hw

theorem State.putFpDef_wf (s : State) (p : PartId) (b : Byte) (now : Bool) (hw : s.mem.wf = true) : (State.putFpDef s p b now).mem.wf = true := wf_of_frame (State.putFpDef_frame _ _ _ _ 0x50000#48 (by decide)) (by decide) hw

theorem State.stripPart_wf (s : State) (p : PartId) (f : PartF) (hw : s.mem.wf = true) : (State.stripPart s p f).mem.wf = true := wf_of_frame (State.stripPart_frame _ _ _ 0x4000#48 (by decide)) (by decide) hw

theorem State.takeOver_wf (s : State) (src : Nat) (p : PartId) (f : PartF) (hw : s.mem.wf = true) : (s.takeOver src p f).1.mem.wf = true :=
  wf_of_frame (State.takeOver_frame _ _ _ _ 0x4000#48 (by decide)) (by decide) hw

theorem State.recheckFlow_wf (s : State) (p : PartId) (hw : s.mem.wf = true) : (State.recheckFlow s p).mem.wf = true := by
  simp only [State.recheckFlow]
  repeat' (first | with_reducible assumption | with_reducible apply State.clampEntry_wf | with_reducible apply State.updPart_wf | with_reducible apply foldl_wf | with_reducible apply State.doIf_wf | intro _ | split | fail)

theorem State.clampAll_wf (s : State) (l : List ClampE) (hw : s.mem.wf = true) : (State.clampAll s l).mem.wf = true := by
  simp only [State.clampAll]
  repeat' (first | with_reducible assumption | with_reducible apply State.clampEntry_wf | with_reducible apply foldl_wf | with_reducible apply State.doIf_wf | intro _ | split | fail)

theorem State.applySection_wf (s : State) (l : PartLoad) (now : Bool) (hw : s.mem.wf = true) : (State.applySection s l now).mem.wf = true := by
  simp only [State.applySection]
  repeat' (first | with_reducible assumption | with_reducible apply State.clampAll_wf | with_reducible apply State.takeOver_wf | with_reducible apply State.grantPorts_wf | with_reducible apply State.recheckHost_wf | with_reducible apply State.recheckFlow_wf | with_reducible apply State.putPtab_wf | with_reducible apply State.putFpDef_wf | with_reducible apply foldl_wf | with_reducible apply State.doIf_wf | intro _ | split | fail)

theorem State.applyGlobal_wf (s : State) (g : GlobalSec) (start : Bool) (hw : s.mem.wf = true) : (State.applyGlobal s g start).mem.wf = true := wf_of_frame (State.applyGlobal_frame _ _ _ 0x40C010000#48 (by decide)) (by decide) hw

theorem State.endLoad_wf (s : State) (reject : BitVec 3) (hw : s.mem.wf = true) : (State.endLoad s reject).mem.wf = true := by
  simp only [State.endLoad]
  repeat' (first | with_reducible assumption | with_reducible apply State.clampAll_wf | with_reducible apply State.irqBlock_wf | with_reducible apply foldl_wf | with_reducible apply State.doIf_wf | intro _ | split | fail)

theorem State.applyStart_wf (s : State) (l : Load) (hw : s.mem.wf = true) : (State.applyStart s l).mem.wf = true := by
  simp only [State.applyStart]
  repeat' (first | with_reducible assumption | with_reducible apply State.applyGlobal_wf | with_reducible apply State.loadCaddy_wf | with_reducible apply State.applyAll_wf | with_reducible apply State.applySection_wf | with_reducible apply foldl_wf | with_reducible apply State.doIf_wf | intro _ | split | fail)

theorem State.applyPtab_wf (s : State) (at_ : PartId → Bool) (p : PartId) (hw : s.mem.wf = true) : (State.applyPtab s at_ p).mem.wf = true := by
  simp only [State.applyPtab]
  repeat' (first | with_reducible assumption | with_reducible apply State.applySection_wf | with_reducible apply foldl_wf | with_reducible apply State.doIf_wf | intro _ | split | fail)

theorem State.boundaryPart_wf (s : State) (at_ : PartId → Bool) (p : PartId) (hw : s.mem.wf = true) : (State.boundaryPart s at_ p).mem.wf = true := by
  simp only [State.boundaryPart]
  repeat' (first | with_reducible assumption | with_reducible apply State.applyPtab_wf | with_reducible apply State.applyPart_wf | with_reducible apply foldl_wf | with_reducible apply State.doIf_wf | intro _ | split | fail)

theorem State.applyShadows_wf (s : State) (hw : s.mem.wf = true) : (State.applyShadows s).mem.wf = true := by
  simp only [State.applyShadows]
  repeat' (first | with_reducible assumption | with_reducible apply State.applyAll_wf | with_reducible apply State.applySection_wf | with_reducible apply foldl_wf | with_reducible apply State.doIf_wf | intro _ | split | fail)

theorem State.cancelLoad_wf (s : State) (hw : s.mem.wf = true) : (State.cancelLoad s).mem.wf = true := by
  simp only [State.cancelLoad]
  repeat' (first | with_reducible assumption | with_reducible apply State.endLoad_wf | with_reducible apply foldl_wf | with_reducible apply State.doIf_wf | intro _ | split | fail)

theorem State.startLoad_wf (s : State) (hw : s.mem.wf = true) : (State.startLoad s).mem.wf = true := wf_of_frame (State.startLoad_frame _ 0x20200#48 (by decide)) (by decide) hw

theorem State.regCfgCtl_wf (s : State) (u : Bool) (v : W64) (m : W64) (hw : s.mem.wf = true) : (State.regCfgCtl s u v m).mem.wf = true := by
  simp only [State.regCfgCtl]
  repeat' (first | with_reducible assumption | with_reducible apply State.cancelLoad_wf | with_reducible apply State.startLoad_wf | with_reducible apply State.lockViolation_wf | with_reducible apply foldl_wf | with_reducible apply State.doIf_wf | intro _ | split | fail)

theorem State.regPtab_wf (s : State) (u : Bool) (p : PartId) (w : Fin 4) (v : W64) (m : W64) (hw : s.mem.wf = true) : (State.regPtab s u p w v m).mem.wf = true := by
  simp only [State.regPtab]
  repeat' (first | with_reducible assumption | with_reducible apply State.clampAll_wf | with_reducible apply State.lockViolation_wf | with_reducible apply foldl_wf | with_reducible apply State.doIf_wf | intro _ | split | fail)

theorem State.regCaddySel_wf (s : State) (v : W64) (m : W64) (hw : s.mem.wf = true) : (State.regCaddySel s v m).mem.wf = true := by
  simp only [State.regCaddySel]
  repeat' (first | with_reducible assumption | with_reducible apply State.record_wf | with_reducible apply State.traceUnpin_wf | with_reducible apply foldl_wf | with_reducible apply State.doIf_wf | intro _ | split | fail)

/-! ## Sync -/

theorem State.begin_wf (s : State) (r : CmdRef) (hw : s.mem.wf = true) : (State.begin s r).mem.wf = true := wf_of_frame (State.begin_frame _ _ 0x80000#48 (by decide)) (by decide) hw

theorem State.waitEnd_wf (s : State) (q : QueueId) (hw : s.mem.wf = true) : (State.waitEnd s q).mem.wf = true := wf_of_frame (State.waitEnd_frame _ _ 0x2000000000#48 (by decide)) (by decide) hw

theorem State.waitEval_wf (s : State) (env : Env) (q : QueueId) (c : Cmd) (hw : s.mem.wf = true) : (State.waitEval s env q c).mem.wf = true := by
  simp only [State.waitEval]
  repeat' (first | with_reducible assumption | with_reducible apply State.waitEnd_wf | with_reducible apply State.fault_wf | with_reducible apply State.finishOk_wf | with_reducible apply foldl_wf | with_reducible apply State.doIf_wf | intro _ | split | fail)

theorem State.waitAll_wf (s : State) (env : Env) (p : PartId) (hw : s.mem.wf = true) : (State.waitAll s env p).mem.wf = true := by
  simp only [State.waitAll]
  repeat' (first | with_reducible assumption | with_reducible apply State.waitEval_wf | with_reducible apply foldl_wf | with_reducible apply State.doIf_wf | intro _ | split | fail)

theorem State.traceDrain_wf (s : State) (p : PartId) (step : ℕ) (hw : s.mem.wf = true) : (State.traceDrain s p step).mem.wf = true := by
  simp only [State.traceDrain]
  repeat' (first | with_reducible assumption | with_reducible apply State.record_wf | with_reducible apply foldl_wf | with_reducible apply State.doIf_wf | intro _ | split | fail)

/-! ## Array -/

theorem State.tusChanged_wf (s : State) (before : ℕ) (hw : s.mem.wf = true) : (State.tusChanged s before).mem.wf = true := wf_of_frame (State.tusChanged_frame _ _ 0x8#48 (by decide)) (by decide) hw

theorem State.traceArr_wf (s : State) (reason : ℕ) (unit : ℕ) (hw : s.mem.wf = true) : (State.traceArr s reason unit).mem.wf = true := by
  simp only [State.traceArr]
  repeat' (first | with_reducible assumption | with_reducible apply State.record_wf | with_reducible apply foldl_wf | with_reducible apply State.doIf_wf | intro _ | split | fail)

theorem State.setRow_wf (s : State) (r : Fin 8) (x : Row) (hw : s.mem.wf = true) : (State.setRow s r x).mem.wf = true := wf_of_frame (State.setRow_frame _ _ _ 0x4000000#48 (by decide)) (by decide) hw

theorem State.emptyTu_wf (s : State) (n : TuId) (hw : s.mem.wf = true) : (State.emptyTu s n).mem.wf = true := wf_of_frame (State.emptyTu_frame _ _ 0x2003000000#48 (by decide)) (by decide) hw

theorem State.coldTu_wf (s : State) (n : TuId) (hw : s.mem.wf = true) : (State.coldTu s n).mem.wf = true := wf_of_frame (State.coldTu_frame _ _ 0x2000000#48 (by decide)) (by decide) hw

theorem State.fencePos_wf (s : State) (r : Fin 8) (p : Fin 17) (reason : ℕ) (hw : s.mem.wf = true) : (State.fencePos s r p reason).mem.wf = true := by
  simp only [State.fencePos]
  repeat' (first | with_reducible assumption | with_reducible apply State.setRow_wf | with_reducible apply State.emptyTu_wf | with_reducible apply State.traceArr_wf | with_reducible apply foldl_wf | with_reducible apply State.doIf_wf | intro _ | split | fail)

theorem State.fenceRow_wf (s : State) (r : Fin 8) (hw : s.mem.wf = true) : (State.fenceRow s r).mem.wf = true := by
  simp only [State.fenceRow]
  repeat' (first | with_reducible assumption | with_reducible apply State.setRow_wf | with_reducible apply State.emptyTu_wf | with_reducible apply State.traceArr_wf | with_reducible apply foldl_wf | with_reducible apply State.doIf_wf | intro _ | split | fail)

theorem State.returnPos_wf (s : State) (r : Fin 8) (p : Fin 17) (hw : s.mem.wf = true) : (State.returnPos s r p).mem.wf = true := wf_of_frame (State.returnPos_frame _ _ _ 0x4000000#48 (by decide)) (by decide) hw

theorem State.residueSeen_wf (s : State) (hw : s.mem.wf = true) : (State.residueSeen s).mem.wf = true := wf_of_frame (State.residueSeen_frame _ 0x4000000#48 (by decide)) (by decide) hw

theorem State.residueError_wf (s : State) (n : TuId) (hw : s.mem.wf = true) : (State.residueError s n).mem.wf = true := by
  simp only [State.residueError]
  repeat' (first | with_reducible assumption | with_reducible apply State.setRow_wf | with_reducible apply State.tusChanged_wf | with_reducible apply State.fencePos_wf | with_reducible apply State.residueSeen_wf | with_reducible apply foldl_wf | with_reducible apply State.doIf_wf | intro _ | split | fail)

theorem State.regTuFence_wf (s : State) (u : Bool) (v : W64) (hw : s.mem.wf = true) : (State.regTuFence s u v).mem.wf = true := by
  simp only [State.regTuFence]
  repeat' (first | with_reducible assumption | with_reducible apply State.fenceRow_wf | with_reducible apply State.tusChanged_wf | with_reducible apply State.lockViolation_wf | with_reducible apply State.fencePos_wf | with_reducible apply State.returnPos_wf | with_reducible apply foldl_wf | with_reducible apply State.doIf_wf | intro _ | split | fail)

theorem State.setHalf_wf (s : State) (h : Half) (v : BitVec 2) (hw : s.mem.wf = true) : (State.setHalf s h v).mem.wf = true := wf_of_frame (State.setHalf_frame _ _ _ 0x4000000#48 (by decide)) (by decide) hw

theorem State.setSleep_wf (s : State) (h : Half) (b : Bool) (hw : s.mem.wf = true) : (State.setSleep s h b).mem.wf = true := wf_of_frame (State.setSleep_frame _ _ _ 0x4000000#48 (by decide)) (by decide) hw

theorem State.sleep_wf (s : State) (h : Half) (hw : s.mem.wf = true) : (State.sleep s h).mem.wf = true := wf_of_frame (State.sleep_frame _ _ 0x4000000#48 (by decide)) (by decide) hw

theorem State.wake_wf (s : State) (h : Half) (hw : s.mem.wf = true) : (State.wake s h).mem.wf = true := wf_of_frame (State.wake_frame _ _ 0x4000000#48 (by decide)) (by decide) hw

theorem State.regArrCtl_wf (s : State) (v : W64) (m : W64) (hw : s.mem.wf = true) : (State.regArrCtl s v m).mem.wf = true := wf_of_frame (State.regArrCtl_frame _ _ _ 0x4000000#48 (by decide)) (by decide) hw

theorem State.coldHalf_wf (s : State) (h : Half) (hw : s.mem.wf = true) : (State.coldHalf s h).mem.wf = true := wf_of_frame (State.coldHalf_frame _ _ 0x2000000#48 (by decide)) (by decide) hw

theorem State.unitOut_wf (s : State) (kind : ℕ) (idx : ℕ) (hw : s.mem.wf = true) : (State.unitOut s kind idx).mem.wf = true := wf_of_frame (State.unitOut_frame _ _ _ 0x4800000#48 (by decide)) (by decide) hw

theorem State.kennelCorrected_wf (s : State) (hw : s.mem.wf = true) : (State.kennelCorrected s).mem.wf = true := wf_of_frame (State.kennelCorrected_frame _ 0x10000800000#48 (by decide)) (by decide) hw

theorem State.kennelLost_wf (s : State) (i : ℕ) (hw : s.mem.wf = true) : (State.kennelLost s i).mem.wf = true := wf_of_frame (State.kennelLost_frame _ _ 0x4800000#48 (by decide)) (by decide) hw

theorem State.unitBack_wf (s : State) (kind : ℕ) (idx : ℕ) (hw : s.mem.wf = true) : (State.unitBack s kind idx).mem.wf = true := wf_of_frame (State.unitBack_frame _ _ _ 0x4800000#48 (by decide)) (by decide) hw

theorem State.regUnitSvc_wf (s : State) (u : Bool) (v : W64) (hw : s.mem.wf = true) : (State.regUnitSvc s u v).mem.wf = true := wf_of_frame (State.regUnitSvc_frame _ _ _ 0x4802008#48 (by decide)) (by decide) hw

theorem State.unitIn_wf (s : State) (kind : ℕ) (idx : ℕ) (hw : s.mem.wf = true) : (State.unitIn s kind idx).mem.wf = true := wf_of_frame (State.unitIn_frame _ _ _ 0x64C00000#48 (by decide)) (by decide) hw

theorem State.coreUncorr_wf (s : State) (c : CoreId) (hw : s.mem.wf = true) : (State.coreUncorr s c).mem.wf = true := wf_of_frame (State.coreUncorr_frame _ _ 0x44800000#48 (by decide)) (by decide) hw

theorem State.strainUncorr_wf (s : State) (u : UnitId) (hw : s.mem.wf = true) : (State.strainUncorr s u).mem.wf = true := wf_of_frame (State.strainUncorr_frame _ _ 0x24800000#48 (by decide)) (by decide) hw

theorem State.regTraceCtl_wf (s : State) (v : W64) (m : W64) (hw : s.mem.wf = true) : (State.regTraceCtl s v m).mem.wf = true := wf_of_frame (State.regTraceCtl_frame _ _ _ 0x4000000000#48 (by decide)) (by decide) hw

theorem State.clampWrite_wf (s : State) (off : ℕ) (lo : ℕ) (part : ℕ) (v : ℕ) (top : ℕ) (dflt : ℕ)  (hw : s.mem.wf = true) : ((State.clampWrite s off lo part v top dflt)).2.mem.wf = true := by
  simp only [State.clampWrite]
  repeat' (first | with_reducible assumption | with_reducible apply State.clampEntry_wf | with_reducible apply foldl_wf | with_reducible apply State.doIf_wf | intro _ | split | fail)

theorem State.regSchedCtl_wf (s : State) (v : W64) (m : W64) (hw : s.mem.wf = true) : (State.regSchedCtl s v m).mem.wf = true := by
  simp only [State.regSchedCtl]
  repeat' (first | with_reducible assumption | with_reducible apply State.timerAdd_wf | with_reducible apply State.clampWrite_wf | with_reducible apply foldl_wf | with_reducible apply State.doIf_wf | intro _ | split | fail)

end Sys2Proof.Machine
end

