-- ==== Sys2Proof/Laws/MemWalk.lean ====
section
/-!
SUPPORT. Sys2Proof/Laws/MemWalk.lean: each operation of Machine/{Ray, RayIn, Bundle, Probe, Lease, Result}.lean keeps memory in its canonical form.
-/

set_option linter.all false

namespace Sys2Proof.Machine
open Sys2Proof

/-! ## Ray -/

theorem State.rayInvalid_wf (s : State) (i : ℕ) (key : ℕ) (hw : s.mem.wf = true) : (State.rayInvalid s i key).mem.wf = true := wf_of_frame (State.rayInvalid_frame _ _ _ 0x1400000#48 (by decide)) (by decide) hw

theorem State.rayNonres_wf (s : State) (i : ℕ) (hw : s.mem.wf = true) : (State.rayNonres s i).mem.wf = true := wf_of_frame (State.rayNonres_frame _ _ 0x400000#48 (by decide)) (by decide) hw

theorem State.freeAux_wf (s : State) (i : ℕ) (hw : s.mem.wf = true) : (State.freeAux s i).mem.wf = true := wf_of_frame (State.freeAux_frame _ _ 0x2000400000#48 (by decide)) (by decide) hw

theorem State.endRay_wf (s : State) (i : ℕ) (code : ℕ) (hw : s.mem.wf = true) : (State.endRay s i code).mem.wf = true := wf_of_frame (State.endRay_frame _ _ _ 0x2000400000#48 (by decide)) (by decide) hw

theorem State.rayFwdFail_wf (s : State) (i : ℕ) (hw : s.mem.wf = true) : (State.rayFwdFail s i).mem.wf = true := wf_of_frame (State.rayFwdFail_frame _ _ 0x2400400000#48 (by decide)) (by decide) hw

theorem State.invokeRay_wf (s : State) (i : ℕ) (role : ℕ) (slot : ℕ) (prim : W32) (t : W32) (u : W16) (v : W16) (rec32 : Rec32) (opq : Bool) (hw : s.mem.wf = true) : (State.invokeRay s i role slot prim t u v rec32 opq).mem.wf = true := wf_of_frame (State.invokeRay_frame _ _ _ _ _ _ _ _ _ _ 0x2001400000#48 (by decide)) (by decide) hw

theorem State.finishRay_wf (s : State) (i : ℕ) (hw : s.mem.wf = true) : (State.finishRay s i).mem.wf = true := wf_of_frame (State.finishRay_frame _ _ 0x2001400000#48 (by decide)) (by decide) hw

theorem State.resumeRay_wf (s : State) (i : ℕ) (hw : s.mem.wf = true) : (State.resumeRay s i).mem.wf = true := wf_of_frame (State.resumeRay_frame _ _ 0x2001400000#48 (by decide)) (by decide) hw

theorem State.leave_wf (s : State) (i : ℕ) (c : ℕ) (pos : ℕ) (hw : s.mem.wf = true) : (State.leave s i c pos).mem.wf = true := wf_of_frame (State.leave_frame _ _ _ _ 0x400000#48 (by decide)) (by decide) hw

theorem State.leafUnit_wf (s : State) (p : PartId) (i tu line va : Nat) (hw : s.mem.wf = true) : (s.leafUnit p i tu line va).st.mem.wf = true := by
  unfold State.leafUnit
  simp only []
  have e := State.resident_wf s p va (s.itemCtx (.ray i) tu) hw
  (repeat' split) <;> simp only [UnitRes.st] <;> first | exact e | exact State.rayNonres_wf _ _ e

theorem primLoop_wf (h : State → Nat → Nat → Leg) (hh : ∀ (x : State) v p, x.mem.wf = true → (h x v p).st.mem.wf = true) (v n : Nat) (s : State) (pos : Nat)
    (hw : s.mem.wf = true) : (primLoop h v n s pos).st.mem.wf = true := by
  induction n generalizing s pos with
  | zero => exact hw
  | succ n ih =>
    simp only [primLoop]
    have e1 := hh s v pos hw
    split
    · rename_i e; rw [e] at e1; exact ih _ _ e1
    · exact e1

theorem unitLoop_wf (p : PartId) (i tu line per : Nat) (k : BoxChild) (h : State → Nat → Nat → Leg)
    (hh : ∀ (x : State) v p, x.mem.wf = true → (h x v p).st.mem.wf = true) (n : Nat) (s : State) (pos : Nat) (hw : s.mem.wf = true) :
    (unitLoop p i tu line per k h n s pos).st.mem.wf = true := by
  induction n generalizing s pos with
  | zero => exact hw
  | succ n ih =>
    simp only [unitLoop]
    split
    · exact hw
    · split
      · exact hw
      · rename_i r _
        have e := State.leafUnit_wf s p i tu line (r.base + 128 * (k.idx + pos / per)) hw
        split <;> rename_i h1 <;> rw [h1] at e <;> simp only [UnitRes.st] at e
        · exact e
        · simp only [Leg.st]; exact State.enter_wf _ _ _ _ (State.leave_wf _ _ _ _ e)
        · exact State.leave_wf _ _ _ _ e
        · rename_i s1 v
          have e2 := primLoop_wf h hh v (min k.n ((pos / per + 1) * per) - pos) s1 pos e
          split
          · rename_i h2; rw [h2] at e2; exact ih _ _ e2
          · exact e2

theorem triPrim_wf (i : Nat) (k : BoxChild) (s : State) (v pos : Nat) (hw : s.mem.wf = true) : (triPrim i k s v pos).st.mem.wf = true := by
  exact wf_of_frame (triPrim_frame _ _ _ _ _ 0x2001400000#48 (by decide)) (by decide) hw

theorem customPrim_wf (i slot : Nat) (k : BoxChild) (s : State) (v pos : Nat) (hw : s.mem.wf = true) : (customPrim i slot k s v pos).st.mem.wf = true := by
  exact wf_of_frame (customPrim_frame _ _ _ _ _ _ 0x2001400000#48 (by decide)) (by decide) hw

theorem State.spillWait_wf (s : State) (i : ℕ) (w : RayWait) (hw : s.mem.wf = true) : (State.spillWait s i w).mem.wf = true := wf_of_frame (State.spillWait_frame _ _ _ 0x2000400000#48 (by decide)) (by decide) hw

theorem State.enterInst_wf (s : State) (i : ℕ) (f : ℕ) (c : ℕ) (pos : ℕ) (fr : InstFrame) (b : Desc) (hw : s.mem.wf = true) : (State.enterInst s i f c pos fr b).mem.wf = true := wf_of_frame (State.enterInst_frame _ _ _ _ _ _ _ 0x2001400000#48 (by decide)) (by decide) hw

theorem State.instSlot_wf {s : State} {env : Env} {i : ℕ} {fr : InstFrame} {i_ : ℕ} {t_ : State} (h_ : (State.instSlot s env i fr) = some (i_, t_)) (hw : s.mem.wf = true) : t_.mem.wf = true := wf_of_frame (State.instSlot_frame  h_ 0x440000#48 (by decide)) (by decide) hw

theorem State.dropInst_wf (s : State) (i : ℕ) (hw : s.mem.wf = true) : (State.dropInst s i).mem.wf = true := wf_of_frame (State.dropInst_frame _ _ 0x400000#48 (by decide)) (by decide) hw

theorem instPrim_wf (env : Env) (p : PartId) (i : Nat) (k : BoxChild) (s : State) (v pos : Nat) (hw : s.mem.wf = true) : (instPrim env p i k s v pos).st.mem.wf = true := by
  exact wf_of_frame (instPrim_frame _ _ _ _ _ _ _ 0x2001440000#48 (by decide)) (by decide) hw

theorem State.leaveInst_wf (s : State) (i : ℕ) (hw : s.mem.wf = true) : (State.leaveInst s i).mem.wf = true := wf_of_frame (State.leaveInst_frame _ _ 0x2001400000#48 (by decide)) (by decide) hw

theorem State.goTo_wf (s : State) (i : ℕ) (m : Moves) (hw : s.mem.wf = true) : (State.goTo s i m).mem.wf = true := wf_of_frame (State.goTo_frame _ _ _ 0x2001400000#48 (by decide)) (by decide) hw

theorem State.extAppend_wf (s : State) (e : ℕ) (l : List ℕ) (hw : s.mem.wf = true) : (State.extAppend s e l).mem.wf = true := wf_of_frame (State.extAppend_frame _ _ _ 0x400000#48 (by decide)) (by decide) hw

theorem State.applyMoves_wf (s : State) (env : Env) (i : ℕ) (m : Moves) (pushes : List ℕ) (hw : s.mem.wf = true) : (State.applyMoves s env i m pushes).mem.wf = true := wf_of_frame (State.applyMoves_frame _ _ _ _ _ 0x2001440000#48 (by decide)) (by decide) hw

theorem State.extPop_wf (s : State) (i : ℕ) (e : ℕ) (l : List ℕ) (hw : s.mem.wf = true) : (State.extPop s i e l).mem.wf = true := wf_of_frame (State.extPop_frame _ _ _ _ 0x400000#48 (by decide)) (by decide) hw

theorem State.commit_wf (s : State) (env : Env) (i : ℕ) (hits : List ℕ) (hw : s.mem.wf = true) : (State.commit s env i hits).mem.wf = true := wf_of_frame (State.commit_frame _ _ _ _ 0x2001440000#48 (by decide)) (by decide) hw

theorem State.remoteChild_wf (s : State) (p : PartId) (i tu line : Nat) (k : BoxChild) (hw : s.mem.wf = true) : (s.remoteChild p i tu line k).st.mem.wf = true := by
  unfold State.remoteChild; simp only []
  split
  · exact hw
  · rename_i r _
    split
    · exact State.endRay_wf _ _ _ hw
    · split
      · exact State.rayFwdFail_wf _ _ hw
      · split
        · split
          · exact State.endRay_wf _ _ _ hw
          · have e := State.leafUnit_wf s p i tu line (subEntryAddr r.subBase.1 r.subBase.2.2 (k.idx % 65536) / 128 * 128) hw
            split <;> rename_i h1 <;> rw [h1] at e <;> simp only [UnitRes.st] at e <;> simp only [RemoteRes.st, Leg.st]
            · exact State.updRay_wf _ _ _ e
            · exact State.enter_wf _ _ _ _ (State.leave_wf _ _ _ _ e)
            · exact State.leave_wf _ _ _ _ e
            · exact e
        · exact State.updRay_wf _ _ _ (State.leave_wf _ _ _ _ hw)

theorem State.leafChild_wf (s : State) (env : Env) (p : PartId) (i tu line : Nat) (k : BoxChild) (hw : s.mem.wf = true) : (s.leafChild env p i tu line k).st.mem.wf = true := by
  unfold State.leafChild
  split
  · exact hw
  · simp only []
    split
    · exact unitLoop_wf _ _ _ _ _ _ _ (fun x v p hx => triPrim_wf _ _ _ _ _ hx) _ _ _ hw
    · split
      · split
        · simp only [Leg.st]; exact State.endRay_wf _ _ _ hw
        · exact unitLoop_wf _ _ _ _ _ _ _ (fun x v p hx => instPrim_wf _ _ _ _ _ _ _ hx) _ _ _ hw
      · split
        · split
          · simp only [Leg.st]; exact State.endRay_wf _ _ _ hw
          · exact unitLoop_wf _ _ _ _ _ _ _ (fun x v p hx => customPrim_wf _ _ _ _ _ _ hx) _ _ _ hw
        · simp only [Leg.st]; exact State.endRay_wf _ _ _ hw

theorem State.leafDone_wf (s : State) (i : ℕ) (c : ℕ) (hw : s.mem.wf = true) : (State.leafDone s i c).mem.wf = true := wf_of_frame (State.leafDone_frame _ _ _ 0x400000#48 (by decide)) (by decide) hw

theorem State.leafPhase_wf (s : State) (env : Env) (p : PartId) (i tu line : Nat) (inner : List (W32 × Nat × Nat)) (l : List (W32 × BoxChild)) (hw : s.mem.wf = true) : (s.leafPhase env p i tu line inner l).st.mem.wf = true := by
  induction l generalizing s inner with
  | nil => exact State.commit_wf _ _ _ _ hw
  | cons a r ih =>
    obtain ⟨e, k⟩ := a
    simp only [State.leafPhase]
    have e1 := State.remoteChild_wf s p i tu line k hw
    have e2 := State.leafChild_wf s env p i tu line k hw
    split
    · exact hw
    · split
      · exact ih _ _ hw
      · split
        · split <;> rename_i h1 <;> rw [h1] at e1
          · exact ih _ _ e1
          · exact ih _ _ e1
          · exact e1
        · split
          · rename_i h1; rw [h1] at e2; exact ih _ _ (State.leafDone_wf _ _ _ e2)
          · exact e2

theorem State.visitRay_wf (s : State) (env : Env) (p : PartId) (i tu line : Nat) (hw : s.mem.wf = true) : (s.visitRay env p i tu line).st.mem.wf = true := by
  unfold State.visitRay
  split
  · exact hw
  · rename_i r _
    simp only []
    have e := State.resident_wf s p (nodeVa r) (s.itemCtx (.ray i) tu) hw
    split
    · simp only [Leg.st]; exact State.commit_wf _ _ _ _ (State.rayNonres_wf _ _ e)
    · split
      · simp only [Leg.st]; exact State.updRay_wf _ _ _ e
      · exact State.leafPhase_wf _ _ _ _ _ _ _ _ (State.setRay_wf _ _ _ e)

theorem State.visitAll_wf (s : State) (env : Env) (p : PartId) (tu line : Nat) (l : List HWait) (hw : s.mem.wf = true) : (s.visitAll env p tu line l).st.mem.wf = true := by
  induction l generalizing s with
  | nil => exact hw
  | cons w rest ih =>
    simp only [State.visitAll]
    split
    · rename_i i _
      have e := State.visitRay_wf s env p i tu line hw
      split <;> rename_i h <;> rw [h] at e
      · exact ih _ e
      · exact ih _ e
      · exact e
    · exact ih _ hw

theorem State.parkPack_wf (s : State) (env : Env) (p : PartId) (tu : ℕ) (x : Xfault) (l : List HWait) (hw : s.mem.wf = true) : (State.parkPack s env p tu x l).mem.wf = true := by
  simp only [State.parkPack]
  repeat' (first | with_reducible assumption | with_reducible apply State.updRay_wf | with_reducible apply State.parkItems_wf | with_reducible apply foldl_wf | with_reducible apply State.doIf_wf | intro _ | split | fail)

theorem State.visitPack_wf (s : State) (env : Env) (p : PartId) (tu : ℕ) (line : ℕ) (l : List HWait) (hw : s.mem.wf = true) : (State.visitPack s env p tu line l).mem.wf = true := by
  have e := State.visitAll_wf s env p tu line l hw
  simp only [State.visitPack]
  split <;> rename_i h <;> rw [h] at e
  · exact State.flushInvs_wf _ _ e
  · exact State.flushInvs_wf _ _ e
  · exact State.parkPack_wf _ _ _ _ _ _ hw

theorem State.tuTake_wf (s : State) (tu : TuId) (k : Pack) (hw : s.mem.wf = true) : (State.tuTake s tu k).mem.wf = true := wf_of_frame (State.tuTake_frame _ _ _ 0x6000000#48 (by decide)) (by decide) hw

theorem State.setLastTu_wf (s : State) (tu : TuId) (k : Pack) (hw : s.mem.wf = true) : (State.setLastTu s tu k).mem.wf = true := wf_of_frame (State.setLastTu_frame _ _ _ 0x400000#48 (by decide)) (by decide) hw

theorem State.endPack_wf (s : State) (src : ℕ) (tu : TuId) (k : Pack) (hw : s.mem.wf = true) : (State.endPack s src tu k).mem.wf = true := wf_of_frame (State.endPack_frame _ _ _ _ 0x12000440008#48 (by decide)) (by decide) hw

theorem State.kennelWord_wf (s : State) (p : PartId) (items : List HWait) (w : ℕ × Check) (hw : s.mem.wf = true) : (State.kennelWord s p items w).mem.wf = true := wf_of_frame (State.kennelWord_frame _ _ _ _ 0x12004C40008#48 (by decide)) (by decide) hw

theorem State.markEnd_wf (s : State) (i : ℕ) (hw : s.mem.wf = true) : (State.markEnd s i).mem.wf = true := wf_of_frame (State.markEnd_frame _ _ 0x400000#48 (by decide)) (by decide) hw

theorem State.verdict_wf (s : State) (i : ℕ) (v : ℕ) (t : W32) (payload : Option W64) (hw : s.mem.wf = true) : (State.verdict s i v t payload).mem.wf = true := wf_of_frame (State.verdict_frame _ _ _ _ _ 0x2001400000#48 (by decide)) (by decide) hw

/-! ## RayIn -/

theorem State.intakeTry_wf (q : QueueId) (go : State → Cmd → State) (l : List Cmd) (s : State) (hg : ∀ (x : State) c, x.mem.wf = true → (go x c).mem.wf = true) (hw : s.mem.wf = true) : (State.intakeTry q go l s).mem.wf = true := by
  induction l generalizing s with
  | nil => exact hw
  | cons c r ih => simp only [State.intakeTry]; split <;> simp_all

theorem State.taken_wf (s : State) (r : CmdRef) (hw : s.mem.wf = true) : (State.taken s r).mem.wf = true := wf_of_frame (State.taken_frame _ _ 0x80000#48 (by decide)) (by decide) hw

theorem State.holdIntake_wf (s : State) (r : CmdRef) (why : BitVec 5) (hw : s.mem.wf = true) : (State.holdIntake s r why).mem.wf = true := wf_of_frame (State.holdIntake_frame _ _ _ 0x80000#48 (by decide)) (by decide) hw

theorem State.holdFlow_wf (s : State) (p : PartId) (r : CmdRef) (flow : W16) (hw : s.mem.wf = true) : (State.holdFlow s p r flow).mem.wf = true := wf_of_frame (State.holdFlow_frame _ _ _ _ 0xC0000#48 (by decide)) (by decide) hw

theorem State.directRay_wf (s : State) (env : Env) (p : PartId) (c : Cmd) (r : CmdRef) (ray : Ray) (code : ℕ) (hw : s.mem.wf = true) : (State.directRay s env p c r ray code).mem.wf = true := by
  simp only [State.directRay]
  repeat' (first | with_reducible assumption | with_reducible apply State.acceptRay_wf | with_reducible apply State.taken_wf | with_reducible apply State.holdFlow_wf | with_reducible apply State.holdIntake_wf | with_reducible apply foldl_wf | with_reducible apply State.doIf_wf | intro _ | split | fail)

theorem State.admitRay_wf (s : State) (env : Env) (p : PartId) (c : Cmd) (r : CmdRef) (ray : Ray) (code : Option ℕ) (hw : s.mem.wf = true) : (State.admitRay s env p c r ray code).mem.wf = true := wf_of_frame (State.admitRay_frame _ _ _ _ _ _ _ 0x20114C0000#48 (by decide)) (by decide) hw

theorem State.takeRay_wf (s : State) (env : Env) (p : PartId) (c : Cmd) (r : CmdRef) (raw : Slot64) (hw : s.mem.wf = true) : (State.takeRay s env p c r raw).mem.wf = true := by
  simp only [State.takeRay]
  repeat' (first | with_reducible assumption | with_reducible apply State.updCmd_wf | with_reducible apply State.fault_wf | with_reducible apply State.admitRay_wf | with_reducible apply State.directRay_wf | with_reducible apply foldl_wf | with_reducible apply State.doIf_wf | intro _ | split | fail)

theorem State.rayFrom_wf (env : Env) (p : PartId) (q : QueueId) (word : Option Slot64) (s : State) (c : Cmd) (hw : s.mem.wf = true) : (State.rayFrom env p q word s c).mem.wf = true := by
  simp only [State.rayFrom]
  repeat' (first | with_reducible assumption | with_reducible apply State.fault_wf | with_reducible apply State.useCredit_wf | with_reducible apply State.takeRay_wf | with_reducible apply State.errContained_wf | with_reducible apply State.endIntake_wf | with_reducible apply foldl_wf | with_reducible apply State.doIf_wf | intro _ | split | fail)

/-! ## Bundle -/

theorem State.unpark_wf (s : State) (f : Parked → Bool) (hw : s.mem.wf = true) : (State.unpark s f).mem.wf = true := wf_of_frame (State.unpark_frame _ _ 0x1000040000#48 (by decide)) (by decide) hw

theorem State.renameParked_wf (s : State) (a : Parked) (b : Parked) (hw : s.mem.wf = true) : (State.renameParked s a b).mem.wf = true := wf_of_frame (State.renameParked_frame _ _ _ 0x1000040000#48 (by decide)) (by decide) hw

theorem State.quiet_wf (s : State) (h : ℕ) (hw : s.mem.wf = true) : (State.quiet s h).mem.wf = true := wf_of_frame (State.quiet_frame _ _ 0x36274C0240#48 (by decide)) (by decide) hw

theorem State.giveBundle_wf (s : State) (env : Env) (h : ℕ) (hw : s.mem.wf = true) : (State.giveBundle s env h).mem.wf = true := by
  simp only [State.giveBundle]
  repeat' (first | with_reducible assumption | with_reducible apply State.updBundle_wf | with_reducible apply State.kFreeAll_wf | with_reducible apply State.returned_wf | with_reducible apply State.accept_wf | with_reducible apply foldl_wf | with_reducible apply State.doIf_wf | intro _ | split | fail)

theorem State.endBundle_wf (s : State) (env : Env) (h : ℕ) (hw : s.mem.wf = true) : (State.endBundle s env h).mem.wf = true := by
  have hq := State.quiet_wf s h hw
  unfold State.endBundle
  dsimp only
  split
  · exact hq
  · split
    · exact State.dropForeign_wf _ _ (foldl_wf (fun x m h => State.sendResult_wf _ _ _ h) hq)
    · exact State.giveBundle_wf _ _ _ (State.updBundle_wf _ _ _ hq)

theorem State.failBundle_wf (s : State) (env : Env) (h : ℕ) (st : W16) (hw : s.mem.wf = true) : (State.failBundle s env h st).mem.wf = true := by
  simp only [State.failBundle]
  repeat' (first | with_reducible assumption | with_reducible apply State.updBundle_wf | with_reducible apply State.quiet_wf | with_reducible apply State.endBundle_wf | with_reducible apply State.failForeign_wf | with_reducible apply foldl_wf | with_reducible apply State.doIf_wf | intro _ | split | fail)

theorem State.endWalk_wf (s : State) (env : Env) (h : ℕ) (hw : s.mem.wf = true) : (State.endWalk s env h).mem.wf = true := by
  simp only [State.endWalk]
  repeat' (first | with_reducible assumption | with_reducible apply State.updBundle_wf | with_reducible apply State.fpOverflows_wf | with_reducible apply State.endBundle_wf | with_reducible apply foldl_wf | with_reducible apply State.doIf_wf | intro _ | split | fail)

theorem State.subRoot_wf (s : State) (env : Env) (h : ℕ) (b : Bundle) (e : FEntry) (al : W32) (tight : Bool) (hw : s.mem.wf = true) : (State.subRoot s env h b e al tight).mem.wf = true := by
  simp only [State.subRoot]
  repeat' (first | with_reducible assumption | with_reducible apply State.fault_wf | with_reducible apply State.updBundle_wf | with_reducible apply State.failBundle_wf | with_reducible apply foldl_wf | with_reducible apply State.doIf_wf | intro _ | split | fail)

theorem State.strainStep_wf {s : State} {env : Env} {h : ℕ} {t_ : State} (h_ : (State.strainStep s env h) = some t_) (hw : s.mem.wf = true) : t_.mem.wf = true :=
  State.strainStep_of (P := fun t => t.mem.wf = true) (fun _ => State.updBundle_wf _ _ _ hw)
    (fun _ _ _ _ => State.enter_wf _ _ _ _ (State.updBundle_wf _ _ _ hw)) (fun _ => State.failBundle_wf _ _ _ _ hw)
    (fun _ _ _ _ => State.subRoot_wf _ _ _ _ _ _ _ hw) t_ h_

theorem State.strainIssue_wf (s : State) (env : Env) (h : ℕ) (x3 : ℕ)  (hw : s.mem.wf = true) : (State.strainIssue s env h x3).mem.wf = true := by
  induction x3 generalizing s with
  | zero => exact hw
  | succ n ih =>
    simp only [State.strainIssue]
    split
    · rename_i h; exact ih _ (State.strainStep_wf h hw)
    · exact hw

theorem State.goOn_wf (s : State) (env : Env) (h : ℕ) (hw : s.mem.wf = true) : (State.goOn s env h).mem.wf = true := by
  simp only [State.goOn]
  repeat' (first | with_reducible assumption | with_reducible apply State.strainIssue_wf | with_reducible apply State.endWalk_wf | with_reducible apply foldl_wf | with_reducible apply State.doIf_wf | intro _ | split | fail)

/-! ## Probe -/

theorem State.beginProbe_wf (s : State) (env : Env) (q : QueueId) (op : ℕ) (hw : s.mem.wf = true) : (State.beginProbe s env q op).mem.wf = true := by
  simp only [State.beginProbe]
  repeat' (first | with_reducible assumption | with_reducible apply State.updCmd_wf | with_reducible apply State.fault_wf | with_reducible apply State.skipRest_wf | with_reducible apply State.finish_wf | with_reducible apply State.at_wf | with_reducible apply State.begin_wf | with_reducible apply State.delivLast_wf | with_reducible apply foldl_wf | with_reducible apply State.doIf_wf | intro _ | split | fail)

theorem State.takenBundle_wf (s : State) (r : CmdRef) (n : ℕ) (m : ℕ) (hw : s.mem.wf = true) : (State.takenBundle s r n m).mem.wf = true := wf_of_frame (State.takenBundle_frame _ _ _ _ 0x80000#48 (by decide)) (by decide) hw

theorem State.directBundle_wf (s : State) (env : Env) (p : PartId) (c : Cmd) (r : CmdRef) (w : Slot64) (b : Bundle) (st : W16) (sized : Bool) (hw : s.mem.wf = true) : (State.directBundle s env p c r w b st sized).mem.wf = true := by
  simp only [State.directBundle]
  repeat' (first | with_reducible assumption | with_reducible apply State.holdFlow_wf | with_reducible apply State.takenBundle_wf | with_reducible apply State.accept_wf | with_reducible apply State.holdIntake_wf | with_reducible apply foldl_wf | with_reducible apply State.doIf_wf | intro _ | split | fail)

theorem State.quotaEnd_wf (s : State) (env : Env) (p : PartId) (r : CmdRef) (hw : s.mem.wf = true) : (State.quotaEnd s env p r).mem.wf = true := by
  simp only [State.quotaEnd]
  repeat' (first | with_reducible assumption | with_reducible apply State.endIntake_wf | with_reducible apply foldl_wf | with_reducible apply State.doIf_wf | intro _ | split | fail)

theorem State.admitBundle_wf (s : State) (env : Env) (p : PartId) (c : Cmd) (r : CmdRef) (ws : List Slot64) (b : Bundle) (hw : s.mem.wf = true) : (State.admitBundle s env p c r ws b).mem.wf = true := by
  simp only [State.admitBundle]
  repeat' (first | with_reducible assumption | with_reducible apply State.quotaEnd_wf | with_reducible apply State.reserve_wf | with_reducible apply State.stallFlow_wf | with_reducible apply State.goOn_wf | with_reducible apply State.takenBundle_wf | with_reducible apply State.holdIntake_wf | with_reducible apply foldl_wf | with_reducible apply State.doIf_wf | intro _ | split | (with_reducible refine State.kAdmit_wf (by assumption) ?_) | fail)

theorem State.takeBundle_wf (s : State) (env : Env) (p : PartId) (c : Cmd) (r : CmdRef) (ws : List Slot64) (hw : s.mem.wf = true) : (State.takeBundle s env p c r ws).mem.wf = true := by
  simp only [State.takeBundle]
  repeat' (first | with_reducible assumption | with_reducible apply State.directBundle_wf | with_reducible apply State.admitBundle_wf | with_reducible apply foldl_wf | with_reducible apply State.doIf_wf | intro _ | split | fail)

theorem State.placeForeign_wf (s : State) (env : Env) (x2 : ℕ)  (hw : s.mem.wf = true) : (State.placeForeign s env x2).mem.wf = true := by
  induction x2 generalizing s with
  | zero => exact hw
  | succ n ih =>
    simp only [State.placeForeign]
    (repeat' split) <;> (try exact hw)
    exact ih _ (State.goOn_wf _ _ _ (State.updBundle_wf _ _ _ hw))

theorem State.bundleFrom_wf (env : Env) (p : PartId) (q : QueueId) (words : List Slot64) (s : State) (c : Cmd) (hw : s.mem.wf = true) : (State.bundleFrom env p q words s c).mem.wf = true := by
  simp only [State.bundleFrom]
  repeat' (first | with_reducible assumption | with_reducible apply State.fault_wf | with_reducible apply State.takeBundle_wf | with_reducible apply State.useCredit_wf | with_reducible apply State.errContained_wf | with_reducible apply State.endIntake_wf | with_reducible apply foldl_wf | with_reducible apply State.doIf_wf | intro _ | split | fail)

theorem State.residentRun_wf (s : State) (p : PartId) (va : ℕ) (n : ℕ) (c : FaultCtx)  (hw : s.mem.wf = true) : ((State.residentRun s p va n c)).2.mem.wf = true := by
  simp only [State.residentRun]
  repeat' (first | with_reducible assumption | with_reducible apply State.resident_wf | with_reducible apply foldl_wf | with_reducible apply State.doIf_wf | intro _ | split | fail)

theorem State.parkOp_wf (s : State) (env : Env) (k : Pack) (w : HWait) (tu : TuId) (x : Xfault) (hw : s.mem.wf = true) : (State.parkOp s env k w tu x).mem.wf = true := by
  simp only [State.parkOp]
  repeat' (first | with_reducible assumption | with_reducible apply State.parkItem_wf | with_reducible apply foldl_wf | with_reducible apply State.doIf_wf | intro _ | split | fail)

theorem State.boundOp_wf (s : State) (env : Env) (tu : TuId) (k : Pack) (w : HWait) (o : ProbeOp) (hw : s.mem.wf = true) : (State.boundOp s env tu k w o).mem.wf = true := by
  simp only [State.boundOp]
  repeat' (first | with_reducible assumption | with_reducible apply State.updBundle_wf | with_reducible apply State.parkOp_wf | with_reducible apply State.residentRun_wf | with_reducible apply State.updPart_wf | with_reducible apply foldl_wf | with_reducible apply State.doIf_wf | intro _ | split | fail)

theorem State.failOps_wf (s : State) (env : Env) (src : ℕ) (tu : TuId) (k : Pack) (hw : s.mem.wf = true) : (State.failOps s env src tu k).mem.wf = true := by
  simp only [State.failOps]
  repeat' (first | with_reducible assumption | with_reducible apply State.errContained_wf | with_reducible apply State.failBundle_wf | with_reducible apply foldl_wf | with_reducible apply State.doIf_wf | intro _ | split | fail)

theorem State.packOps_wf (s : State) (f : State → HWait → ProbeOp → State) (k : Pack) (hf : ∀ (x : State) w o, x.mem.wf = true → (f x w o).mem.wf = true) (hw : s.mem.wf = true) : (s.packOps f k).mem.wf = true := by
  unfold State.packOps
  refine foldl_wf ?_ hw
  intro x a h
  beta_reduce
  split
  · exact hf _ _ _ h
  · exact h

theorem State.bundleWord_wf (s : State) (env : Env) (p : PartId) (l : List ℕ) (w : ℕ × Check) (hw : s.mem.wf = true) : (State.bundleWord s env p l w).mem.wf = true := by
  simp only [State.bundleWord]
  repeat' (first | with_reducible assumption | with_reducible apply State.kennelCorrected_wf | with_reducible apply State.errContained_wf | with_reducible apply State.kennelLost_wf | with_reducible apply State.failBundle_wf | with_reducible apply foldl_wf | with_reducible apply State.doIf_wf | intro _ | split | fail)

theorem State.bundleWords_wf (s : State) (env : Env) (p : PartId) (l : List ℕ) (ws : List (ℕ × Check)) (hw : s.mem.wf = true) : (State.bundleWords s env p l ws).mem.wf = true := by
  simp only [State.bundleWords]
  repeat' (first | with_reducible assumption | with_reducible apply State.bundleWord_wf | with_reducible apply foldl_wf | with_reducible apply State.doIf_wf | intro _ | split | fail)

theorem State.takeBound_wf (s : State) (h : ℕ) (hw : s.mem.wf = true) : (State.takeBound s h).mem.wf = true := wf_of_frame (State.takeBound_frame _ _ 0x20040000#48 (by decide)) (by decide) hw

theorem State.bufferAdd_wf (s : State) (tu : TuId) (h : ℕ) (hw : s.mem.wf = true) : (State.bufferAdd s tu h).mem.wf = true := wf_of_frame (State.bufferAdd_frame _ _ _ 0x2000000#48 (by decide)) (by decide) hw

theorem State.scoreOp_wf (s : State) (env : Env) (tu : TuId) (k : Pack) (w : HWait) (o : ProbeOp) (hw : s.mem.wf = true) : (State.scoreOp s env tu k w o).mem.wf = true := by
  simp only [State.scoreOp]
  repeat' (first | with_reducible assumption | with_reducible apply State.updBundle_wf | with_reducible apply State.fpOverflows_wf | with_reducible apply State.parkOp_wf | with_reducible apply State.pushInvs_wf | with_reducible apply State.residentRun_wf | with_reducible apply State.bufferAdd_wf | with_reducible apply foldl_wf | with_reducible apply State.doIf_wf | intro _ | split | fail)

theorem State.takeScore_wf (s : State) (h : ℕ) (hw : s.mem.wf = true) : (State.takeScore s h).mem.wf = true := wf_of_frame (State.takeScore_frame _ _ 0x20000000#48 (by decide)) (by decide) hw

theorem State.strainLost_wf (s : State) (env : Env) (b : Bundle) (hw : s.mem.wf = true) : (State.strainLost s env b).mem.wf = true := by
  simp only [State.strainLost]
  repeat' (first | with_reducible assumption | with_reducible apply State.strainUncorr_wf | with_reducible apply State.errContained_wf | with_reducible apply State.failBundle_wf | with_reducible apply foldl_wf | with_reducible apply State.doIf_wf | intro _ | split | fail)

theorem State.reduceChunk_wf (s : State) (b : Bundle) (chunk : List ℕ) (rows : List VRow) (hw : s.mem.wf = true) : (State.reduceChunk s b chunk rows).mem.wf = true := wf_of_frame (State.reduceChunk_frame _ _ _ _ 0x20040008#48 (by decide)) (by decide) hw

theorem State.issueReduce_wf (s : State) (k : Pack) (c : TuId × ℕ) (hw : s.mem.wf = true) : (State.issueReduce s k c).mem.wf = true := by
  simp only [State.issueReduce]
  repeat' (first | with_reducible assumption | with_reducible apply State.countIssue_wf | with_reducible apply State.record_wf | with_reducible apply foldl_wf | with_reducible apply State.doIf_wf | intro _ | split | fail)

theorem State.runReduce1_wf (s : State) (env : Env) (b : Bundle) (chunk : List ℕ) (tu : TuId) (hw : s.mem.wf = true) : (State.runReduce1 s env b chunk tu).mem.wf = true := by
  simp only [State.runReduce1]
  repeat' (first | with_reducible assumption | with_reducible apply State.updBundle_wf | with_reducible apply State.reduceChunk_wf | with_reducible apply State.parkItem_wf | with_reducible apply foldl_wf | with_reducible apply State.doIf_wf | intro _ | split | fail)

theorem State.output_wf (s : State) (b : Bundle) (j : ℕ) (t : Triple) (hw : s.mem.wf = true) : (State.output s b j t).mem.wf = true := wf_of_frame (State.output_frame _ _ _ _ 0x20040008#48 (by decide)) (by decide) hw

theorem State.mergeOne_wf (s : State) (b : Bundle) (j : Fin 32) (t : Triple) (hw : s.mem.wf = true) : (State.mergeOne s b j t).mem.wf = true := wf_of_frame (State.mergeOne_frame _ _ _ _ 0x20040008#48 (by decide)) (by decide) hw

theorem State.mergeTriple_wf (s : State) (env : Env) (h : ℕ) (j : Fin 32) (hw : s.mem.wf = true) : (State.mergeTriple s env h j).mem.wf = true := by
  simp only [State.mergeTriple]
  repeat' (first | with_reducible assumption | with_reducible apply State.output_wf | with_reducible apply State.mergeOne_wf | with_reducible apply State.endWalk_wf | with_reducible apply foldl_wf | with_reducible apply State.doIf_wf | intro _ | split | fail)

/-! ## Lease -/

theorem State.armLease_wf (s : State) (k : ℕ) (p : PartId) (hw : s.mem.wf = true) : (State.armLease s k p).mem.wf = true := wf_of_frame (State.armLease_frame _ _ _ 0x2000000000#48 (by decide)) (by decide) hw

theorem State.sendLeash_wf (s : State) (p : PartId) (k : ℕ) (x : Leash) (id : W32) (sub : W16) (kind : BitVec 2) (entry : Byte) (t : ChipId) (l : LinkId) (b : MsgBody) (hw : s.mem.wf = true) : (State.sendLeash s p k x id sub kind entry t l b).mem.wf = true := wf_of_frame (State.sendLeash_frame _ _ _ _ _ _ _ _ _ _ _ 0x2200400040#48 (by decide)) (by decide) hw

theorem State.sendCancel_wf (s : State) (k : Leash) (hw : s.mem.wf = true) : (State.sendCancel s k).mem.wf = true := wf_of_frame (State.sendCancel_frame _ _ 0x2600000040#48 (by decide)) (by decide) hw

theorem State.loseLeash_wf (s : State) (k : ℕ) (hw : s.mem.wf = true) : (State.loseLeash s k).mem.wf = true := wf_of_frame (State.loseLeash_frame _ _ 0x2600480240#48 (by decide)) (by decide) hw

theorem State.restLeash_wf (s : State) (k : ℕ) (hw : s.mem.wf = true) : (State.restLeash s k).mem.wf = true := wf_of_frame (State.restLeash_frame _ _ 0x2600480240#48 (by decide)) (by decide) hw

theorem State.countReissue_wf (s : State) (hw : s.mem.wf = true) : (State.countReissue s).mem.wf = true := wf_of_frame (State.countReissue_frame _ 0x400000000#48 (by decide)) (by decide) hw

theorem State.reissueRay_wf (s : State) (i : ℕ) (hw : s.mem.wf = true) : (State.reissueRay s i).mem.wf = true := wf_of_frame (State.reissueRay_frame _ _ 0x2601480240#48 (by decide)) (by decide) hw

theorem State.resendLeash_wf (s : State) (h : ℕ) (k : ℕ) (hw : s.mem.wf = true) : (State.resendLeash s h k).mem.wf = true := wf_of_frame (State.resendLeash_frame _ _ _ 0x2600400040#48 (by decide)) (by decide) hw

theorem State.reissueBundle_wf (s : State) (env : Env) (h : ℕ) (lost : List ℕ) (hw : s.mem.wf = true) : (State.reissueBundle s env h lost).mem.wf = true := by
  simp only [State.reissueBundle]
  repeat' (first | with_reducible assumption | with_reducible apply State.updBundle_wf | with_reducible apply State.genUp_wf | with_reducible apply State.countReissue_wf | with_reducible apply State.resendLeash_wf | with_reducible apply State.failBundle_wf | with_reducible apply State.loseLeash_wf | with_reducible apply State.sendCancel_wf | with_reducible apply foldl_wf | with_reducible apply State.doIf_wf | intro _ | split | fail)

theorem State.loseOwners_wf (s : State) (env : Env) (ks : List ℕ) (hw : s.mem.wf = true) : (State.loseOwners s env ks).mem.wf = true := by
  simp only [State.loseOwners]
  repeat' (first | with_reducible assumption | with_reducible apply State.reissueRay_wf | with_reducible apply State.reissueBundle_wf | with_reducible apply foldl_wf | with_reducible apply State.doIf_wf | intro _ | split | fail)

theorem State.forwardRay_wf (s : State) (env : Env) (i : ℕ) (r : Ray) (child : ℕ) (sub : W16) (skip : Option ChipId) (hw : s.mem.wf = true) : (State.forwardRay s env i r child sub skip).mem.wf = true := by
  simp only [State.forwardRay]
  repeat' (first | with_reducible assumption | with_reducible apply State.fault_wf | with_reducible apply State.sendLeash_wf | with_reducible apply State.updRay_wf | with_reducible apply State.rayFwdFail_wf | with_reducible apply State.spillWait_wf | with_reducible apply State.resumeRay_wf | with_reducible apply foldl_wf | with_reducible apply State.doIf_wf | intro _ | split | (with_reducible refine State.kAux_wf (by assumption) ?_) | fail)

theorem State.freeLeash_wf (s : State) (h : ℕ) (k : ℕ) (hw : s.mem.wf = true) : (State.freeLeash s h k).mem.wf = true := wf_of_frame (State.freeLeash_frame _ _ _ 0x2620480240#48 (by decide)) (by decide) hw

theorem State.sendBundle_wf {s : State} {env : Env} {b : Bundle} {old : Option (ℕ × Leash)} {sub : W16} {kind : BitVec 2} {entry : Byte} {t : ChipId} {l : LinkId} {m : MsgBody} {i_ : ℕ} {t_ : State} (h_ : (State.sendBundle s env b old sub kind entry t l m) = some (i_, t_)) (hw : s.mem.wf = true) : t_.mem.wf = true := wf_of_frame (State.sendBundle_frame  h_ 0x2220440040#48 (by decide)) (by decide) hw

theorem State.forwardEntry_wf (s : State) (env : Env) (b : Bundle) (e : FEntry) (old : Option (ℕ × Leash)) (skip : Option ChipId) (hw : s.mem.wf = true) : (State.forwardEntry s env b e old skip).mem.wf = true := by
  simp only [State.forwardEntry]
  repeat' (first | with_reducible assumption | with_reducible apply State.fault_wf | with_reducible apply State.updBundle_wf | with_reducible apply State.goOn_wf | with_reducible apply State.freeLeash_wf | with_reducible apply State.failBundle_wf | with_reducible apply foldl_wf | with_reducible apply State.doIf_wf | intro _ | split | (with_reducible refine State.sendBundle_wf (by assumption) ?_) | fail)

theorem State.forwardReduce_wf (s : State) (env : Env) (b : Bundle) (sub : W16) (lists : List (List (W32 × W32))) (old : Option (ℕ × Leash)) (skip : Option ChipId) (hw : s.mem.wf = true) : (State.forwardReduce s env b sub lists old skip).mem.wf = true := by
  simp only [State.forwardReduce]
  repeat' (first | with_reducible assumption | with_reducible apply State.fault_wf | with_reducible apply State.updBundle_wf | with_reducible apply State.freeLeash_wf | with_reducible apply State.failBundle_wf | with_reducible apply foldl_wf | with_reducible apply State.doIf_wf | intro _ | split | (with_reducible refine State.sendBundle_wf (by assumption) ?_) | fail)

theorem State.forwardBundle_wf (s : State) (env : Env) (b : Bundle) (skip : Option ChipId) (hw : s.mem.wf = true) : (State.forwardBundle s env b skip).mem.wf = true := by
  simp only [State.forwardBundle]
  repeat' (first | with_reducible assumption | with_reducible apply State.freeLeash_wf | with_reducible apply State.forwardReduce_wf | with_reducible apply State.forwardEntry_wf | with_reducible apply foldl_wf | with_reducible apply State.doIf_wf | intro _ | split | fail)

theorem State.forwardSlot_wf (s : State) (env : Env) (slot : ℕ) (skip : Option ChipId) (hw : s.mem.wf = true) : (State.forwardSlot s env slot skip).mem.wf = true := by
  simp only [State.forwardSlot]
  repeat' (first | with_reducible assumption | with_reducible apply State.forwardRay_wf | with_reducible apply State.forwardBundle_wf | with_reducible apply foldl_wf | with_reducible apply State.doIf_wf | intro _ | split | fail)

theorem State.forwardIssued_wf (s : State) (slot : ℕ) (l : LinkId) (hw : s.mem.wf = true) : (State.forwardIssued s slot l).mem.wf = true := by
  simp only [State.forwardIssued]
  repeat' (first | with_reducible assumption | with_reducible apply State.countIssue_wf | with_reducible apply State.record_wf | with_reducible apply foldl_wf | with_reducible apply State.doIf_wf | intro _ | split | fail)

theorem State.ownerLost_wf (s : State) (p : PartId) (slot : ℕ) (hw : s.mem.wf = true) : (State.ownerLost s p slot).mem.wf = true := wf_of_frame (State.ownerLost_frame _ _ _ 0x10100040008#48 (by decide)) (by decide) hw

theorem State.forwardTurn_wf (s : State) (env : Env) (slot : ℕ) (hw : s.mem.wf = true) : (State.forwardTurn s env slot).mem.wf = true := by
  simp only [State.forwardTurn]
  repeat' (first | with_reducible assumption | with_reducible apply State.forwardIssued_wf | with_reducible apply State.forwardSlot_wf | with_reducible apply foldl_wf | with_reducible apply State.doIf_wf | intro _ | split | fail)

theorem State.forwardWords_wf (s : State) (env : Env) (p : PartId) (slot : ℕ) (hw : s.mem.wf = true) : (State.forwardWords s env p slot).mem.wf = true := by
  simp only [State.forwardWords]
  repeat' (first | with_reducible assumption | with_reducible apply State.kennelWord_wf | with_reducible apply State.bundleWords_wf | with_reducible apply foldl_wf | with_reducible apply State.doIf_wf | intro _ | split | fail)

/-! ## Result -/

theorem State.arrived_wf (s : State) (l : LinkId) (h : MsgHdr) (hw : s.mem.wf = true) : (State.arrived s l h).mem.wf = true := wf_of_frame (State.arrived_frame _ _ _ 0x2100000008#48 (by decide)) (by decide) hw

theorem State.oweResult_wf (s : State) (l : LinkId) (b : MsgBody) (hw : s.mem.wf = true) : (State.oweResult s l b).mem.wf = true := wf_of_frame (State.oweResult_frame _ _ _ 0x2200000040#48 (by decide)) (by decide) hw

theorem State.relay_wf (s : State) (l : LinkId) (h : MsgHdr) (b : MsgBody) (hw : s.mem.wf = true) : (State.relay s l h b).mem.wf = true := wf_of_frame (State.relay_frame _ _ _ _ 0x2600000040#48 (by decide)) (by decide) hw

theorem State.staleResult_wf (s : State) (hw : s.mem.wf = true) : (State.staleResult s).mem.wf = true := wf_of_frame (State.staleResult_frame _ 0x400000000#48 (by decide)) (by decide) hw

theorem State.remoteFault_wf (s : State) (env : Env) (p : PartId) (k : ℕ) (x : Leash) (va : W64) (c : FaultCtx) (w : Parked) (hw : s.mem.wf = true) : (State.remoteFault s env p k x va c w).mem.wf = true := by
  simp only [State.remoteFault]
  repeat' (first | with_reducible assumption | with_reducible apply State.fault_wf | with_reducible apply State.timerDel_wf | with_reducible apply State.updLeash_wf | with_reducible apply foldl_wf | with_reducible apply State.doIf_wf | intro _ | split | fail)

theorem State.rayDone_wf (s : State) (i : ℕ) (k : ℕ) (x : Leash) (pre : ResultPrefix) (hit : Rec32) (hw : s.mem.wf = true) : (State.rayDone s i k x pre hit).mem.wf = true := wf_of_frame (State.rayDone_frame _ _ _ _ _ _ 0x2601480240#48 (by decide)) (by decide) hw

theorem State.probePart_wf (s : State) (env : Env) (h : ℕ) (k : ℕ) (x : Leash) (pre : ResultPrefix) (lists : List (List ProbeEntry)) (hw : s.mem.wf = true) : (State.probePart s env h k x pre lists).mem.wf = true := by
  simp only [State.probePart]
  repeat' (first | with_reducible assumption | with_reducible apply State.updBundle_wf | with_reducible apply State.goOn_wf | with_reducible apply State.freeLeash_wf | with_reducible apply foldl_wf | with_reducible apply State.doIf_wf | intro _ | split | fail)

theorem State.bundleResult_wf (s : State) (env : Env) (h : ℕ) (k : ℕ) (x : Leash) (pre : ResultPrefix) (hw : s.mem.wf = true) : (State.bundleResult s env h k x pre).mem.wf = true := by
  simp only [State.bundleResult]
  repeat' (first | with_reducible assumption | with_reducible apply State.staleResult_wf | with_reducible apply State.reissueBundle_wf | with_reducible apply State.failBundle_wf | with_reducible apply State.remoteFault_wf | with_reducible apply foldl_wf | with_reducible apply State.doIf_wf | intro _ | split | fail)

theorem State.closeQueries_wf (s : State) (env : Env) (h : ℕ) (hw : s.mem.wf = true) : (State.closeQueries s env h).mem.wf = true := by
  simp only [State.closeQueries]
  repeat' (first | with_reducible assumption | with_reducible apply State.output_wf | with_reducible apply State.endWalk_wf | with_reducible apply foldl_wf | with_reducible apply State.doIf_wf | intro _ | split | fail)

theorem State.reducePart_wf (s : State) (env : Env) (h : ℕ) (k : ℕ) (x : Leash) (pre : ResultPrefix) (ts : List (Fin 32 × Triple)) (hw : s.mem.wf = true) : (State.reducePart s env h k x pre ts).mem.wf = true := by
  simp only [State.reducePart]
  repeat' (first | with_reducible assumption | with_reducible apply State.updBundle_wf | with_reducible apply State.freeLeash_wf | with_reducible apply State.closeQueries_wf | with_reducible apply foldl_wf | with_reducible apply State.doIf_wf | intro _ | split | fail)

theorem State.extendLease_wf (s : State) (k : ℕ) (hw : s.mem.wf = true) : (State.extendLease s k).mem.wf = true := wf_of_frame (State.extendLease_frame _ _ 0x2000400000#48 (by decide)) (by decide) hw

end Sys2Proof.Machine
end

