-- ==== Sys2Proof/Laws/MemSetter.lean ====
section
/-!
SUPPORT. Sys2Proof/Laws/MemSetter.lean: each operation of Machine/{Setter, Vis, Group, Alu, Boot, SetMem, Tex, SetDbg}.lean keeps memory in its canonical form.
-/

set_option linter.all false

namespace Sys2Proof.Machine
open Sys2Proof

/-! ## Setter -/

theorem State.enqueue_wf (s : State) (c : CoreId) (w : Waiting) (hw : s.mem.wf = true) : (State.enqueue s c w).mem.wf = true := wf_of_frame (State.enqueue_frame _ _ _ 0x40000000#48 (by decide)) (by decide) hw

theorem State.placeGroup_wf (s : State) (c : CoreId) (slot : Fin 16) (x : Machine.Group) (hw : s.mem.wf = true) : (State.placeGroup s c slot x).mem.wf = true := wf_of_frame (State.placeGroup_frame _ _ _ _ 0x20040000000#48 (by decide)) (by decide) hw

theorem State.placeGroups_wf (s : State) (c : CoreId) (block : ℕ) (rank : ℕ) (a : ℕ) (a5 : List Machine.Group) (hw : s.mem.wf = true) : (State.placeGroups s c block rank a a5).mem.wf = true := wf_of_frame (State.placeGroups_frame _ _ _ _ _ _ 0x20040000000#48 (by decide)) (by decide) hw

theorem State.launchSet_wf (s : State) (set : ℕ) (home : ℕ) (cluster : ℕ) (per : ℕ) (a : ℕ) (a6 : List Machine.Group) (hw : s.mem.wf = true) : (State.launchSet s set home cluster per a a6).mem.wf = true := wf_of_frame (State.launchSet_frame _ _ _ _ _ _ _ 0x20040000000#48 (by decide)) (by decide) hw

theorem State.dispatch_wf (s : State) (core : CoreId) (hw : s.mem.wf = true) : (State.dispatch s core).mem.wf = true := wf_of_frame (State.dispatch_frame _ _ 0x20041000000#48 (by decide)) (by decide) hw

theorem State.armGroup_wf (s : State) (p : PartId) (cls : BitVec 2) (caddy : BitVec 2) (slot : ℕ) (hw : s.mem.wf = true) : (State.armGroup s p cls caddy slot).mem.wf = true := wf_of_frame (State.armGroup_frame _ _ _ _ _ 0x2000000000#48 (by decide)) (by decide) hw

theorem State.sendGroup_wf (s : State) (c : CoreId) (x : Machine.Group) (l : List Invoke) (why : ℕ) (hw : s.mem.wf = true) : (State.sendGroup s c x l why).mem.wf = true := by
  simp only [State.sendGroup]
  repeat' (first | with_reducible assumption | with_reducible apply State.enqueue_wf | with_reducible apply State.record_wf | with_reducible apply foldl_wf | with_reducible apply State.doIf_wf | intro _ | split | fail)

/-! ## Vis -/

theorem State.setTile_wf (s : State) (u : Fin 64) (k : Fin 4) (t : Option Tile) (hw : s.mem.wf = true) : (State.setTile s u k t).mem.wf = true := wf_of_frame (State.setTile_frame _ _ _ _ 0x80000000#48 (by decide)) (by decide) hw

theorem State.updPass_wf (s : State) (r : CmdRef) (f : Pass → Pass) (hw : s.mem.wf = true) : (State.updPass s r f).mem.wf = true := wf_of_frame (State.updPass_frame _ _ _ 0x80000000#48 (by decide)) (by decide) hw

theorem State.putTile_wf (s : State) (u : Fin 64) (k : Fin 4) (p : PartId) (w : TileOut) (hw : s.mem.wf = true) : (State.putTile s u k p w).mem.wf = true := wf_of_frame (State.putTile_frame _ _ _ _ _ 0x80040008#48 (by decide)) (by decide) hw

theorem State.fragDone_wf (s : State) (u : Fin 64) (k : Fin 4) (cmd : Option CmdRef) (serial : ℕ) (pos : ℕ) (block : Fin 8) (rs : Option (List (ℕ × List W32))) (hw : s.mem.wf = true) : (State.fragDone s u k cmd serial pos block rs).mem.wf = true := wf_of_frame (State.fragDone_frame _ _ _ _ _ _ _ _ 0x80040008#48 (by decide)) (by decide) hw

theorem State.fragNow_wf (s : State) (u : Fin 64) (k : Fin 4) (cmd : Option CmdRef) (serial : ℕ) (pos : ℕ) (block : Fin 8) (rs : List (ℕ × List W32)) (hw : s.mem.wf = true) : (State.fragNow s u k cmd serial pos block rs).mem.wf = true := wf_of_frame (State.fragNow_frame _ _ _ _ _ _ _ _ 0x80040008#48 (by decide)) (by decide) hw

theorem State.markFrag_wf (s : State) (u : Fin 64) (k : Fin 4) (cmd : Option CmdRef) (serial : ℕ) (hw : s.mem.wf = true) : (State.markFrag s u k cmd serial).mem.wf = true := wf_of_frame (State.markFrag_frame _ _ _ _ _ 0x80000000#48 (by decide)) (by decide) hw

/-! ## Group -/

theorem State.sendReply_wf {s : State} {m : PortMsg} {t_ : State} (h_ : (State.sendReply s m) = some t_) (hw : s.mem.wf = true) : t_.mem.wf = true := wf_of_frame (State.sendReply_frame  h_ 0x10000020#48 (by decide)) (by decide) hw

theorem State.sendReplies_wf (s : State) (a : List PortMsg) (hw : s.mem.wf = true) : (State.sendReplies s a).mem.wf = true := wf_of_frame (State.sendReplies_frame _ _ 0x50000020#48 (by decide)) (by decide) hw

theorem State.flushReplies_wf (s : State) (hw : s.mem.wf = true) : (State.flushReplies s).mem.wf = true := wf_of_frame (State.flushReplies_frame _ 0x50000020#48 (by decide)) (by decide) hw

theorem State.reply_wf (s : State) (p : PartId) (hdr : Slot64) (status : Byte) (args : List (BitVec 128)) (hw : s.mem.wf = true) : (State.reply s p hdr status args).mem.wf = true := wf_of_frame (State.reply_frame _ _ _ _ _ 0x50000020#48 (by decide)) (by decide) hw

theorem State.rayHalt_wf (s : State) (x : Machine.Group) (halt : Bool) (hw : s.mem.wf = true) : (State.rayHalt s x halt).mem.wf = true := wf_of_frame (State.rayHalt_frame _ _ _ 0x400000#48 (by decide)) (by decide) hw

theorem State.barriers_wf (s : State) (block : ℕ) (hw : s.mem.wf = true) : (State.barriers s block).mem.wf = true := wf_of_frame (State.barriers_frame _ _ 0x40400000#48 (by decide)) (by decide) hw

theorem State.updBlock_wf (s : State) (id : ℕ) (f : Block → Block) (hw : s.mem.wf = true) : (State.updBlock s id f).mem.wf = true := wf_of_frame (State.updBlock_frame _ _ _ 0x40000000#48 (by decide)) (by decide) hw

theorem State.locPut_wf (s : State) (id : ℕ) (off : ℕ) (n : ℕ) (v : ℕ) (hw : s.mem.wf = true) : (State.locPut s id off n v).mem.wf = true := wf_of_frame (State.locPut_frame _ _ _ _ _ 0x40000000#48 (by decide)) (by decide) hw

theorem State.dropSpilled_wf (s : State) (x : Machine.Group) (m : W32) (hw : s.mem.wf = true) : (State.dropSpilled s x m).mem.wf = true := wf_of_frame (State.dropSpilled_frame _ _ _ 0x40000000#48 (by decide)) (by decide) hw

theorem State.publish_wf (s : State) (hw : s.mem.wf = true) : (State.publish s).mem.wf = true := by
  simp only [State.publish]
  repeat' (first | with_reducible assumption | with_reducible apply State.poke_wf | with_reducible apply foldl_wf | with_reducible apply State.doIf_wf | intro _ | split | fail)

theorem State.mapPend_wf (s : State) (f : PendStore → PendStore) (hw : s.mem.wf = true) : (State.mapPend s f).mem.wf = true := wf_of_frame (State.mapPend_frame _ _ 0x40000000#48 (by decide)) (by decide) hw

theorem State.ackPend_wf (s : State) (num : ℕ) (hw : s.mem.wf = true) : (State.ackPend s num).mem.wf = true := by
  simp only [State.ackPend]
  repeat' (first | with_reducible assumption | with_reducible apply State.publish_wf | with_reducible apply State.mapPend_wf | with_reducible apply foldl_wf | with_reducible apply State.doIf_wf | intro _ | split | fail)

theorem State.loosen_wf (s : State) (block : ℕ) (inBlock : ℕ) (hw : s.mem.wf = true) : (State.loosen s block inBlock).mem.wf = true := by
  simp only [State.loosen]
  repeat' (first | with_reducible assumption | with_reducible apply State.publish_wf | with_reducible apply State.mapPend_wf | with_reducible apply foldl_wf | with_reducible apply State.doIf_wf | intro _ | split | fail)

theorem State.reportGroup_wf (s : State) (x : Machine.Group) (hw : s.mem.wf = true) : (State.reportGroup s x).mem.wf = true := wf_of_frame (State.reportGroup_frame _ _ 0x81040008#48 (by decide)) (by decide) hw

theorem State.freeSets_wf (s : State) (hw : s.mem.wf = true) : (State.freeSets s).mem.wf = true := wf_of_frame (State.freeSets_frame _ 0x40000000#48 (by decide)) (by decide) hw

theorem State.blockEnded_wf (s : State) (block : ℕ) (hw : s.mem.wf = true) : (State.blockEnded s block).mem.wf = true := wf_of_frame (State.blockEnded_frame _ _ 0x40000000#48 (by decide)) (by decide) hw

theorem State.dropWrites_wf (s : State) (g : GroupRef) (hw : s.mem.wf = true) : (State.dropWrites s g).mem.wf = true := wf_of_frame (State.dropWrites_frame _ _ 0x10000000#48 (by decide)) (by decide) hw

theorem State.dropScorer_wf (s : State) (x : Machine.Group) (hw : s.mem.wf = true) : (State.dropScorer s x).mem.wf = true := wf_of_frame (State.dropScorer_frame _ _ 0x2007000000#48 (by decide)) (by decide) hw

theorem State.leaveSlot_wf (s : State) (g : GroupRef) (x : Machine.Group) (hw : s.mem.wf = true) : (State.leaveSlot s g x).mem.wf = true := by
  simp only [State.leaveSlot]
  repeat' (first | with_reducible assumption | with_reducible apply State.dropScorer_wf | with_reducible apply State.setGroup_wf | with_reducible apply State.unpark_wf | with_reducible apply State.blockEnded_wf | with_reducible apply State.flushInvs_wf | with_reducible apply State.dropWrites_wf | with_reducible apply State.barriers_wf | with_reducible apply State.setCore_wf | with_reducible apply State.reportGroup_wf | with_reducible apply State.loosen_wf | with_reducible apply foldl_wf | with_reducible apply State.doIf_wf | intro _ | split | fail)

theorem State.laneVerdict_wf (s : State) (role : ℕ) (i : ℕ) (r : List W32) (hw : s.mem.wf = true) : (State.laneVerdict s role i r).mem.wf = true := wf_of_frame (State.laneVerdict_frame _ _ _ _ 0x2001400000#48 (by decide)) (by decide) hw

theorem State.giveResults_wf (s : State) (x : Machine.Group) (hw : s.mem.wf = true) : (State.giveResults s x).mem.wf = true := wf_of_frame (State.giveResults_frame _ _ 0x20D1440028#48 (by decide)) (by decide) hw

theorem State.finishGroup_wf (s : State) (g : GroupRef) (x : Machine.Group) (hw : s.mem.wf = true) : (State.finishGroup s g x).mem.wf = true := by
  simp only [State.finishGroup]
  repeat' (first | with_reducible assumption | with_reducible apply State.leaveSlot_wf | with_reducible apply State.giveResults_wf | with_reducible apply State.flushInvs_wf | with_reducible apply foldl_wf | with_reducible apply State.doIf_wf | intro _ | split | fail)

theorem State.acceptSome_wf (s : State) (x : Machine.Group) (hw : s.mem.wf = true) : (State.acceptSome s x).mem.wf = true := wf_of_frame (State.acceptSome_frame _ _ 0x80040008#48 (by decide)) (by decide) hw

theorem State.acceptMore_wf (s : State) (n : Nat) (hw : s.mem.wf = true) : (s.acceptMore n).mem.wf = true := by
  induction n generalizing s with
  | zero => exact hw
  | succ n ih =>
    simp only [State.acceptMore]
    split
    · refine ih _ ?_
      split
      · exact State.finishGroup_wf _ _ _ hw
      · exact State.acceptSome_wf _ _ hw
    · exact hw

theorem State.failResults_wf (s : State) (x : Machine.Group) (code : ℕ) (hw : s.mem.wf = true) : (State.failResults s x code).mem.wf = true := wf_of_frame (State.failResults_frame _ _ _ 0x20D0440028#48 (by decide)) (by decide) hw

theorem State.endGroup_wf (s : State) (g : GroupRef) (x : Machine.Group) (hw : s.mem.wf = true) : (State.endGroup s g x).mem.wf = true := by
  simp only [State.endGroup]
  repeat' (first | with_reducible assumption | with_reducible apply State.leaveSlot_wf | with_reducible apply State.acceptMore_wf | with_reducible apply State.flushInvs_wf | with_reducible apply State.failResults_wf | with_reducible apply foldl_wf | with_reducible apply State.doIf_wf | intro _ | split | fail)

theorem State.lostGroup_wf (s : State) (src : ℕ) (g : GroupRef) (x : Machine.Group) (hw : s.mem.wf = true) : (State.lostGroup s src g x).mem.wf = true := by
  simp only [State.lostGroup]
  repeat' (first | with_reducible assumption | with_reducible apply State.leaveSlot_wf | with_reducible apply State.errContained_wf | with_reducible apply State.flushInvs_wf | with_reducible apply State.failResults_wf | with_reducible apply foldl_wf | with_reducible apply State.doIf_wf | intro _ | split | fail)

theorem State.containGroup_wf (s : State) (g : GroupRef) (x : Machine.Group) (hw : s.mem.wf = true) : (State.containGroup s g x).mem.wf = true := by
  simp only [State.containGroup]
  repeat' (first | with_reducible assumption | with_reducible apply State.acceptMore_wf | with_reducible apply State.coreUncorr_wf | with_reducible apply State.lostGroup_wf | with_reducible apply foldl_wf | with_reducible apply State.doIf_wf | intro _ | split | fail)

theorem State.endSaved_wf (s : State) (e : GroupRef × Machine.Group) (code : ℕ) (hw : s.mem.wf = true) : (State.endSaved s e code).mem.wf = true := by
  simp only [State.endSaved]
  repeat' (first | with_reducible assumption | with_reducible apply State.acceptMore_wf | with_reducible apply State.dropScorer_wf | with_reducible apply State.blockEnded_wf | with_reducible apply State.flushInvs_wf | with_reducible apply State.failResults_wf | with_reducible apply State.reportGroup_wf | with_reducible apply State.loosen_wf | with_reducible apply foldl_wf | with_reducible apply State.doIf_wf | intro _ | split | fail)

theorem State.memFault_wf (s : State) (env : Env) (g : GroupRef) (x : Machine.Group) (f : Xfault) (hw : s.mem.wf = true) : (State.memFault s env g x f).mem.wf = true := by
  simp only [State.memFault]
  repeat' (first | with_reducible assumption | with_reducible apply State.fault_wf | with_reducible apply foldl_wf | with_reducible apply State.doIf_wf | intro _ | split | fail)

theorem State.trap_wf (s : State) (env : Env) (g : GroupRef) (x : Machine.Group) (code : ℕ) (hw : s.mem.wf = true) : (State.trap s env g x code).mem.wf = true := by
  simp only [State.trap]
  repeat' (first | with_reducible assumption | with_reducible apply State.updGroup_wf | with_reducible apply State.endGroup_wf | with_reducible apply State.openFault_wf | with_reducible apply State.updPart_wf | with_reducible apply foldl_wf | with_reducible apply State.doIf_wf | intro _ | split | fail)

theorem State.put_wf (s : State) (g : GroupRef) (x : Machine.Group) (hw : s.mem.wf = true) : (State.put s g x).mem.wf = true := wf_of_frame (State.put_frame _ _ _ 0x40000000#48 (by decide)) (by decide) hw

theorem State.stepped_wf (s : State) (g : GroupRef) (hw : s.mem.wf = true) : (State.stepped s g).mem.wf = true := wf_of_frame (State.stepped_frame _ _ 0x40400000#48 (by decide)) (by decide) hw

theorem State.instr_wf (s : State) (g : GroupRef) (env : Env) (check : Check) (f : State → Group → Ran) (hf : ∀ (x : State) y, x.mem.wf = true → ((f x y).st x).mem.wf = true) (hw : s.mem.wf = true) : (s.instr g env check f).mem.wf = true := by
  unfold State.instr
  split
  · exact hw
  · rename_i x _
    have e := hf (s.doIf (decide (check = .corrected)) State.errCorrected) x (State.doIf_wf (fun y => State.errCorrected_wf y) hw)
    split
    · exact State.memFault_wf _ _ _ _ _ hw
    · split
      · exact State.containGroup_wf _ _ _ hw
      · split
        · exact State.acceptMore_wf _ _ (State.lostGroup_wf _ _ _ _ hw)
        · dsimp only
          split <;> rename_i h <;> rw [h] at e <;> simp only [Ran.st] at e
          · exact State.stepped_wf _ _ (State.updGroup_wf _ _ _ e)
          · exact State.stepped_wf _ _ (State.updGroup_wf _ _ _ e)
          · exact State.barriers_wf _ _ (State.updGroup_wf _ _ _ e)
          · exact State.trap_wf _ _ _ _ _ e
          · exact State.trap_wf _ _ _ _ _ e
          · exact State.memFault_wf _ _ _ _ _ e
          · exact e

theorem State.wrapUp_wf (s : State) (g : GroupRef) (x : Machine.Group) (hw : s.mem.wf = true) : (State.wrapUp s g x).mem.wf = true := by
  simp only [State.wrapUp]
  repeat' (first | with_reducible assumption | with_reducible apply State.acceptMore_wf | with_reducible apply State.put_wf | with_reducible apply State.barriers_wf | with_reducible apply State.finishGroup_wf | with_reducible apply foldl_wf | with_reducible apply State.doIf_wf | intro _ | split | fail)

theorem State.groupAck_wf (s : State) (g : GroupRef) (hw : s.mem.wf = true) : (State.groupAck s g).mem.wf = true := by
  simp only [State.groupAck]
  repeat' (first | with_reducible assumption | with_reducible apply State.put_wf | with_reducible apply State.setCore_wf | with_reducible apply State.loosen_wf | with_reducible apply State.rayHalt_wf | with_reducible apply State.wrapUp_wf | with_reducible apply foldl_wf | with_reducible apply State.doIf_wf | intro _ | split | fail)

theorem State.launchCalls_wf (s : State) (port : PortId) (slot : ℕ) (g : Prog) (hw : s.mem.wf = true) : (State.launchCalls s port slot g).mem.wf = true := wf_of_frame (State.launchCalls_frame _ _ _ _ 0x40000000#48 (by decide)) (by decide) hw

/-! ## Alu -/

theorem State.scoreGroup_wf (s : State) (block : ℕ) (inBlock : ℕ) (hw : s.mem.wf = true) : (State.scoreGroup s block inBlock).mem.wf = true := wf_of_frame (State.scoreGroup_frame _ _ _ 0x40440008#48 (by decide)) (by decide) hw

theorem State.packGroups_wf (s : State) (f : State → Nat → Nat → State) (k : Pack) (hf : ∀ (x : State) b j, x.mem.wf = true → (f x b j).mem.wf = true) (hw : s.mem.wf = true) : (s.packGroups f k).mem.wf = true := by
  unfold State.packGroups
  refine foldl_wf ?_ hw
  intro x w hx
  beta_reduce
  split
  · exact hf _ _ _ hx
  · exact hx

theorem State.scoreLost_wf (s : State) (src : ℕ) (tu : TuId) (block : ℕ) (inBlock : ℕ) (hw : s.mem.wf = true) : (State.scoreLost s src tu block inBlock).mem.wf = true := by
  simp only [State.scoreLost]
  repeat' (first | with_reducible assumption | with_reducible apply State.leaveSlot_wf | with_reducible apply State.acceptMore_wf | with_reducible apply State.errContained_wf | with_reducible apply State.flushInvs_wf | with_reducible apply State.failResults_wf | with_reducible apply State.endSaved_wf | with_reducible apply foldl_wf | with_reducible apply State.doIf_wf | intro _ | split | fail)

/-! ## Boot -/

theorem State.toReset_wf (s : State) (keep : Bool) (hw : s.mem.wf = true) : (State.toReset s keep).mem.wf = true := wf_of_frame (State.toReset_frame _ _ 0x1FFFFDFFF13#48 (by decide)) (by decide) hw

theorem State.regBlkReset_wf (s : State) (u : Bool) (v : W64) (hw : s.mem.wf = true) : (State.regBlkReset s u v).mem.wf = true := wf_of_frame (State.regBlkReset_frame _ _ _ 0x200B#48 (by decide)) (by decide) hw

theorem State.readFuses_wf (s : State) (i : ReleaseInfo) (hw : s.mem.wf = true) : (State.readFuses s i).mem.wf = true := wf_of_frame (State.readFuses_frame _ _ 0x400#48 (by decide)) (by decide) hw

theorem State.bootTests_wf (s : State) (i : ReleaseInfo) (hw : s.mem.wf = true) : (State.bootTests s i).mem.wf = true := wf_of_frame (State.bootTests_frame _ _ 0x1200480030A#48 (by decide)) (by decide) hw

theorem State.bootFuses_wf (s : State) (i : ReleaseInfo) (hw : s.mem.wf = true) : (State.bootFuses s i).mem.wf = true := wf_of_frame (State.bootFuses_frame _ _ 0x1200480070A#48 (by decide)) (by decide) hw

theorem State.leaveReset_wf (s : State) (i : ReleaseInfo) (hw : s.mem.wf = true) : (State.leaveReset s i).mem.wf = true := wf_of_frame (State.leaveReset_frame _ _ 0x1200480070F#48 (by decide)) (by decide) hw

theorem State.regFuse_wf (s : State) (u : Bool) (v : W64) (i : ReleaseInfo) (hw : s.mem.wf = true) : (State.regFuse s u v i).mem.wf = true := wf_of_frame (State.regFuse_frame _ _ _ _ 0x1200480270A#48 (by decide)) (by decide) hw

theorem State.regMcCtl_wf (s : State) (u : Bool) (v : W64) (hw : s.mem.wf = true) : (State.regMcCtl s u v).mem.wf = true := wf_of_frame (State.regMcCtl_frame _ _ _ 0x2B08#48 (by decide)) (by decide) hw

theorem State.regUnlock_wf (s : State) (key : W32) (hw : s.mem.wf = true) : (State.regUnlock s key).mem.wf = true := wf_of_frame (State.regUnlock_frame _ _ 0x3000#48 (by decide)) (by decide) hw

theorem State.onPtab_wf (s : State) (p : PartId) (w : Fin 4) (f : Tri W64 → Tri W64) (hw : s.mem.wf = true) : (State.onPtab s p w f).mem.wf = true := wf_of_frame (State.onPtab_frame _ _ _ _ 0x4000#48 (by decide)) (by decide) hw

theorem State.onPtabShadow_wf (s : State) (p : PartId) (w : Fin 4) (f : Tri W64 → Tri W64) (hw : s.mem.wf = true) : (State.onPtabShadow s p w f).mem.wf = true := wf_of_frame (State.onPtabShadow_frame _ _ _ _ 0x4000#48 (by decide)) (by decide) hw

theorem State.upset_wf (s : State) (u : Upset) (hw : s.mem.wf = true) : (State.upset s u).mem.wf = true := wf_of_frame (State.upset_frame _ _ 0x10000D400#48 (by decide)) (by decide) hw

theorem State.voted_wf (s : State) (item : ℕ) (hw : s.mem.wf = true) : (State.voted s item).mem.wf = true := wf_of_frame (State.voted_frame _ _ 0x10000002000#48 (by decide)) (by decide) hw

theorem State.voteFailed_wf (s : State) (item : ℕ) (hw : s.mem.wf = true) : (State.voteFailed s item).mem.wf = true := wf_of_frame (State.voteFailed_frame _ _ 0x2008#48 (by decide)) (by decide) hw

theorem State.vote_wf {α : Type} [DecidableEq α] (s : State) (item : Nat) (t : Tri α) (put : State → Tri α → State) (lost : State → State)
    (hp : ∀ (x : State) y, x.mem.wf = true → (put x y).mem.wf = true) (hl : ∀ x : State, x.mem.wf = true → (lost x).mem.wf = true) (hw : s.mem.wf = true) :
    (s.vote item t put lost).mem.wf = true := by
  unfold State.vote
  split
  · exact hw
  · split
    · exact hl _ (State.voteFailed_wf _ _ hw)
    · exact State.voted_wf _ _ (hp _ _ hw)

theorem State.votePtabW_wf (s : State) (p : PartId) (w : Fin 4) (hw : s.mem.wf = true) : (State.votePtabW s p w).mem.wf = true := wf_of_frame (State.votePtabW_frame _ _ _ 0x1000000610A#48 (by decide)) (by decide) hw

theorem State.votePtabShadow_wf (s : State) (p : PartId) (w : Fin 4) (hw : s.mem.wf = true) : (State.votePtabShadow s p w).mem.wf = true := wf_of_frame (State.votePtabShadow_frame _ _ _ 0x1000000610A#48 (by decide)) (by decide) hw

theorem State.voteOwnBase_wf (s : State) (hw : s.mem.wf = true) : (State.voteOwnBase s).mem.wf = true := wf_of_frame (State.voteOwnBase_frame _ 0x1010000210A#48 (by decide)) (by decide) hw

theorem State.voteEpoch_wf (s : State) (hw : s.mem.wf = true) : (State.voteEpoch s).mem.wf = true := wf_of_frame (State.voteEpoch_frame _ 0x1010000210A#48 (by decide)) (by decide) hw

theorem State.voteSel_wf (s : State) (hw : s.mem.wf = true) : (State.voteSel s).mem.wf = true := wf_of_frame (State.voteSel_frame _ 0x1000000A10A#48 (by decide)) (by decide) hw

theorem State.voteLock_wf (s : State) (hw : s.mem.wf = true) : (State.voteLock s).mem.wf = true := wf_of_frame (State.voteLock_frame _ 0x10000003008#48 (by decide)) (by decide) hw

theorem State.voteCaps_wf (s : State) (fuses : W32) (hw : s.mem.wf = true) : (State.voteCaps s fuses).mem.wf = true := wf_of_frame (State.voteCaps_frame _ _ 0x10000002408#48 (by decide)) (by decide) hw

theorem State.votePtab_wf (s : State) (hw : s.mem.wf = true) : (State.votePtab s).mem.wf = true := wf_of_frame (State.votePtab_frame _ 0x1000000610A#48 (by decide)) (by decide) hw

/-! ## SetMem -/

theorem State.cellPut_wf (s : State) (c : Cell) (n : ℕ) (v : ℕ) (hw : s.mem.wf = true) : (State.cellPut s c n v).mem.wf = true := by
  simp only [State.cellPut]
  repeat' (first | with_reducible assumption | with_reducible apply State.locPut_wf | with_reducible apply State.poke_wf | with_reducible apply foldl_wf | with_reducible apply State.doIf_wf | intro _ | split | fail)

theorem State.pendStore_wf (s : State) (g : GroupRef) (x : Machine.Group) (pa : ℕ) (n : ℕ) (v : ℕ) (hw : s.mem.wf = true) : (State.pendStore s g x pa n v).mem.wf = true := wf_of_frame (State.pendStore_frame _ _ _ _ _ _ 0x40000000#48 (by decide)) (by decide) hw

theorem State.drainCells_wf (s : State) (c : CoreId) (n : ℕ) (l : List (Fin 32 × Cell)) (hw : s.mem.wf = true) : (State.drainCells s c n l).mem.wf = true := by
  simp only [State.drainCells]
  repeat' (first | with_reducible assumption | with_reducible apply State.poke_wf | with_reducible apply foldl_wf | with_reducible apply State.doIf_wf | intro _ | split | fail)

theorem State.l1Fill_wf (s : State) (c : CoreId) (p : PartId) (line : ℕ) (hw : s.mem.wf = true) : (State.l1Fill s c p line).mem.wf = true := wf_of_frame (State.l1Fill_frame _ _ _ _ 0x40000000#48 (by decide)) (by decide) hw

theorem State.l1Store_wf (s : State) (c : CoreId) (p : PartId) (pa : ℕ) (n : ℕ) (v : ℕ) (hw : s.mem.wf = true) : (State.l1Store s c p pa n v).mem.wf = true := wf_of_frame (State.l1Store_frame _ _ _ _ _ _ 0x40000000#48 (by decide)) (by decide) hw

theorem State.cellLoad_wf (s : State) (core : CoreId) (p : PartId) (nc : Bool) (hit : Bool) (c : Cell) (n : ℕ)  (hw : s.mem.wf = true) : ((State.cellLoad s core p nc hit c n)).2.mem.wf = true := wf_of_frame (State.cellLoad_frame _ _ _ _ _ _ _ 0x40000000#48 (by decide)) (by decide) hw

theorem State.loadAll_wf (s : State) (core : CoreId) (p : PartId) (nc : Bool) (hit : Bool) (n : ℕ) (x6 : List (Fin 32 × Cell))  (hw : s.mem.wf = true) : ((State.loadAll s core p nc hit n x6)).2.mem.wf = true := wf_of_frame (State.loadAll_frame _ _ _ _ _ _ _ 0x40000000#48 (by decide)) (by decide) hw

theorem State.storeCell_wf (s : State) (g : GroupRef) (x : Machine.Group) (c : Cell) (n : ℕ) (v : ℕ) (hw : s.mem.wf = true) : (State.storeCell s g x c n v).mem.wf = true := by
  simp only [State.storeCell]
  repeat' (first | with_reducible assumption | with_reducible apply State.l1Store_wf | with_reducible apply State.pendStore_wf | with_reducible apply State.cellPut_wf | with_reducible apply foldl_wf | with_reducible apply State.doIf_wf | intro _ | split | fail)

theorem State.owesAck_wf (s : State) (g : GroupRef) (x : Machine.Group) (space : Space) (addr : Src) (n : ℕ) (l : List (Fin 32 × Cell)) (hw : s.mem.wf = true) : (State.owesAck s g x space addr n l).mem.wf = true := wf_of_frame (State.owesAck_frame _ _ _ _ _ _ _ 0x50080000#48 (by decide)) (by decide) hw

theorem State.atomRun_wf (s : State) (op : AtomOp) (bytes : ℕ) (v : Fin 32 → ℕ × ℕ) (x4 : List (Fin 32 × Cell))  (hw : s.mem.wf = true) : ((State.atomRun s op bytes v x4)).2.mem.wf = true := by
  induction x4 generalizing s with
  | nil => exact hw
  | cons a r ih =>
    obtain ⟨l, c⟩ := a
    simp only [State.atomRun]
    apply ih
    first | exact State.cellPut_wf _ _ _ _ hw | (split; exact State.cellPut_wf _ _ _ _ hw; exact hw)

theorem State.fpAtomCell_wf (s : State) (o : Ovf) (c : Cell) (ops : List (Fin 32 × W32))  (hw : s.mem.wf = true) : ((State.fpAtomCell s o c ops)).2.2.mem.wf = true := by
  simp only [State.fpAtomCell]
  repeat' (first | with_reducible assumption | with_reducible apply State.cellPut_wf | with_reducible apply foldl_wf | with_reducible apply State.doIf_wf | intro _ | split | fail)

theorem State.fpAtoms_wf (s : State) (o : Ovf) (l : List (Fin 32 × Cell)) (v : Fin 32 → W32) (x4 : List Cell)  (hw : s.mem.wf = true) : ((State.fpAtoms s o l v x4)).2.2.mem.wf = true := by
  induction x4 generalizing s with
  | nil => exact hw
  | cons a r ih => simp only [State.fpAtoms]; exact ih _ (State.fpAtomCell_wf _ _ _ _ hw)

theorem State.lockRun_wf (s : State) (g : GroupRef) (x2 : List (Fin 32 × Cell))  (hw : s.mem.wf = true) : ((State.lockRun s g x2)).2.mem.wf = true := by
  induction x2 generalizing s with
  | nil => exact hw
  | cons a r ih =>
    obtain ⟨l, c⟩ := a
    simp only [State.lockRun]
    apply ih
    first | exact State.cellPut_wf _ _ _ _ hw | (split; exact State.cellPut_wf _ _ _ _ hw; exact hw)

theorem State.unlockRun_wf (s : State) (g : GroupRef) (x2 : List (Fin 32 × Cell))  (hw : s.mem.wf = true) : ((State.unlockRun s g x2)).2.mem.wf = true := by
  induction x2 generalizing s with
  | nil => exact hw
  | cons a r ih =>
    obtain ⟨l, c⟩ := a
    simp only [State.unlockRun]
    apply ih
    first | exact State.cellPut_wf _ _ _ _ hw | (split; exact State.cellPut_wf _ _ _ _ hw; exact hw)

/-! ## Tex -/

theorem State.texResident_wf (s : State) (p : PartId) (d : TexDesc) (c : FaultCtx) (x4 : List (ℕ × ℕ × ℕ))  (hw : s.mem.wf = true) : ((State.texResident s p d c x4)).2.mem.wf = true := by
  induction x4 generalizing s with
  | nil => exact hw
  | cons a r ih =>
    obtain ⟨m, x, y⟩ := a
    simp only [State.texResident]
    split
    · exact ih _ (State.resident_wf _ _ _ _ hw)
    · exact State.resident_wf _ _ _ _ hw

theorem State.texRead_wf {s : State} {p : PartId} {d : TexDesc} {l : List (Nat × Nat × Nat)} {y : List (List W32)} {t : State} (h : s.texRead p d l = .ok (y, t)) (hw : s.mem.wf = true) : t.mem.wf = true :=
  wf_of_frame (State.texRead_frame h 0x2001000000#48 (by decide)) (by decide) hw

theorem State.texSample_wf {s : State} {p : PartId} {d : TexDesc} {u v lod : W32} {ms : List Nat} {b : Bool} {y : Sample} {t : State} (h : s.texSample p d u v lod ms b = .ok (y, t)) (hw : s.mem.wf = true) : t.mem.wf = true :=
  wf_of_frame (State.texSample_frame h 0x2001000000#48 (by decide)) (by decide) hw

theorem State.sample_wf {s : State} {p : PartId} {c : FaultCtx} {d : TexDesc} {u v lod : W32} {y : Sample} {t : State} (h : s.sample p c d u v lod = .ok (y, t)) (hw : s.mem.wf = true) : t.mem.wf = true := by
  unfold State.sample at h
  split at h
  · cases h; exact hw
  · simp only [] at h
    split at h
    · exact State.texSample_wf h (State.texResident_wf _ _ _ _ _ hw)
    · split at h
      · exact State.texSample_wf h (State.texResident_wf _ _ _ _ _ (State.texResident_wf _ _ _ _ _ hw))
      · simp only [Acc.ok.injEq, Prod.mk.injEq] at h
        rw [← h.2]; exact State.texResident_wf _ _ _ _ _ (State.texResident_wf _ _ _ _ _ hw)

theorem State.samples_wf {s : State} {p : PartId} {c : FaultCtx} {desc : Fin 32 → ℕ} {u : Fin 32 → W32} {v : Fin 32 → W32} {lod : Fin 32 → TexDesc → W32} {x7 : List (Fin 32)} {i_ : List (Fin 32 × Sample)} {t_ : State} (h_ : (State.samples s p c desc u v lod x7) = .ok (i_, t_)) (hw : s.mem.wf = true) : t_.mem.wf = true := by
  induction x7 generalizing s i_ t_ with
  | nil =>
    rw [State.samples_nil] at h_
    simp only [Acc.ok.injEq, Prod.mk.injEq] at h_
    rw [← h_.2]; exact hw
  | cons a r ih =>
    rw [State.samples_cons] at h_
    split at h_
    · cases h_
    · split at h_
      · cases h_
      · rename_i h1
        split at h_
        · cases h_
        · rename_i h2
          simp only [Acc.ok.injEq, Prod.mk.injEq] at h_
          rw [← h_.2]; exact ih h2 (State.sample_wf h1 hw)

theorem State.texMarks_wf (s : State) (x : Machine.Group) (l : List (Fin 32 × Sample)) (hw : s.mem.wf = true) : (State.texMarks s x l).mem.wf = true := wf_of_frame (State.texMarks_frame _ _ _ 0x80400000#48 (by decide)) (by decide) hw

theorem State.texInstr_wf (s : State) (g : GroupRef) (check : Check) (env : Env) (dst : Nat) (desc u v lod : Src) (f : Group → Fin 32 → TexDesc → W32) (hw : s.mem.wf = true) : (s.texInstr g check env dst desc u v lod f).mem.wf = true := by
  unfold State.texInstr
  apply State.instr_wf
  · intro x y hx
    simp only []
    (repeat' split) <;> (simp only [Ran.st]; first | exact hx | exact State.put_wf _ _ _ (State.texMarks_wf _ _ _ (State.samples_wf (by assumption) hx)))
  · exact State.at_wf _ _ hw

/-! ## SetDbg -/

theorem State.badGroupCmd_wf (s : State) (p : PartId) (hw : s.mem.wf = true) : (State.badGroupCmd s p).mem.wf = true := wf_of_frame (State.badGroupCmd_frame _ _ 0x40000#48 (by decide)) (by decide) hw

theorem State.haltGroup_wf (s : State) (p : PartId) (g : GroupRef) (x : Machine.Group) (hw : s.mem.wf = true) : (State.haltGroup s p g x).mem.wf = true := wf_of_frame (State.haltGroup_frame _ _ _ _ 0x40440000#48 (by decide)) (by decide) hw

theorem State.resumeGroup_wf (s : State) (p : PartId) (g : GroupRef) (x : Machine.Group) (step : Bool) (hw : s.mem.wf = true) : (State.resumeGroup s p g x step).mem.wf = true := wf_of_frame (State.resumeGroup_frame _ _ _ _ _ 0x40440000#48 (by decide)) (by decide) hw

theorem State.restartGroup_wf (s : State) (p : PartId) (g : GroupRef) (x : Machine.Group) (hw : s.mem.wf = true) : (State.restartGroup s p g x).mem.wf = true := wf_of_frame (State.restartGroup_frame _ _ _ _ 0x1040040000#48 (by decide)) (by decide) hw

theorem State.endCmd_wf (s : State) (p : PartId) (g : GroupRef) (x : Machine.Group) (hw : s.mem.wf = true) : (State.endCmd s p g x).mem.wf = true := by
  simp only [State.endCmd]
  repeat' (first | with_reducible assumption | with_reducible apply State.badGroupCmd_wf | with_reducible apply State.endGroup_wf | with_reducible apply foldl_wf | with_reducible apply State.doIf_wf | intro _ | split | fail)

theorem State.dbgPut_wf {s : State} {g : GroupRef} {x : Group} {space : BitVec 2} {i : ℕ} {w : W32} {t_ : State} (h_ : (State.dbgPut s g x space i w) = some t_) (hw : s.mem.wf = true) : t_.mem.wf = true := by
  simp only [State.dbgPut] at h_
  (repeat' split at h_) <;> cases h_ <;> repeat' (first | with_reducible assumption | with_reducible apply State.locPut_wf | with_reducible apply State.put_wf | with_reducible apply foldl_wf | with_reducible apply State.doIf_wf | intro _ | split | fail)

theorem State.readGroup_wf (s : State) (p : PartId) (x : Machine.Group) (hw : s.mem.wf = true) : (State.readGroup s p x).mem.wf = true := wf_of_frame (State.readGroup_frame _ _ _ 0x40000#48 (by decide)) (by decide) hw

theorem State.writeGroup_wf (s : State) (p : PartId) (g : GroupRef) (x : Group)  (hw : s.mem.wf = true) : (State.writeGroup s p g x).mem.wf = true := by
  unfold State.writeGroup
  split
  · cases h : s.dbgPut g x (s.part p).dbgSpace (s.part p).dbgIndex.toNat (s.part p).dbgData with
    | none => exact State.badGroupCmd_wf _ _ hw
    | some t => exact State.dbgPut_wf h hw
  · exact State.badGroupCmd_wf _ _ hw

theorem State.checked_wf (s : State) (g : GroupRef) (x : Group) (uses : Bool) (check : Check) (f : State → State) (hf : ∀ y : State, y.mem.wf = true → (f y).mem.wf = true) (hw : s.mem.wf = true) : (s.checked g x uses check f).mem.wf = true := by
  unfold State.checked
  (repeat' split) <;> first | exact hf _ hw | exact hf _ (State.errCorrected_wf _ hw) | exact State.containGroup_wf _ _ _ hw

theorem State.countSpin_wf (s : State) (g : GroupRef) (v : W32) (steps : ℕ) (hw : s.mem.wf = true) : (State.countSpin s g v steps).mem.wf = true := wf_of_frame (State.countSpin_frame _ _ _ _ 0x40000000#48 (by decide)) (by decide) hw

theorem State.regGrpCmd_wf (s : State) (p : PartId) (v : W32) (steps : ℕ) (check : Check) (hw : s.mem.wf = true) : (State.regGrpCmd s p v steps check).mem.wf = true := by
  simp only [State.regGrpCmd]
  repeat' (first | with_reducible assumption | with_reducible apply State.readGroup_wf | with_reducible apply State.badGroupCmd_wf | with_reducible apply State.checked_wf | with_reducible apply State.endCmd_wf | with_reducible apply State.countSpin_wf | with_reducible apply State.restartGroup_wf | with_reducible apply State.resumeGroup_wf | with_reducible apply State.haltGroup_wf | with_reducible apply State.writeGroup_wf | with_reducible apply foldl_wf | with_reducible apply State.doIf_wf | intro _ | split | (with_reducible refine State.dbgPut_wf (by assumption) ?_) | fail)

theorem State.grpCmdRow_wf (s : State) (req : Requester) (p : PartId) (value : W32) (op : W32) (steps : ℕ) (check : Check) (hw : s.mem.wf = true) : (State.grpCmdRow s req p value op steps check).mem.wf = true := by
  simp only [State.grpCmdRow]
  repeat' (first | with_reducible assumption | with_reducible apply State.regGrpCmd_wf | with_reducible apply State.pageWrite_wf | with_reducible apply foldl_wf | with_reducible apply State.doIf_wf | intro _ | split | fail)

end Sys2Proof.Machine
end

