-- ==== Sys2Proof/Laws/MemEngine.lean ====
section
/-!
SUPPORT. Sys2Proof/Laws/MemEngine.lean: each operation of Machine/{Splat, Move, Build, BuildKey, BuildCopy, SplatBwd, Save, Deadline}.lean keeps memory in its canonical form.
-/

set_option linter.all false

namespace Sys2Proof.Machine
open Sys2Proof

/-! ## Splat -/

theorem State.beginPass_wf (s : State) (r : CmdRef) (f : Pass → Pass) (hw : s.mem.wf = true) : (State.beginPass s r f).mem.wf = true := wf_of_frame (State.beginPass_frame _ _ _ 0x80040000#48 (by decide)) (by decide) hw

theorem State.beginSplat_wf (s : State) (env : Env) (q : QueueId) (c : Cmd) (hw : s.mem.wf = true) : (State.beginSplat s env q c).mem.wf = true := by
  simp only [State.beginSplat]
  repeat' (first | with_reducible assumption | with_reducible apply State.updCmd_wf | with_reducible apply State.readTarget_wf | with_reducible apply State.finishOk_wf | with_reducible apply State.beginPass_wf | with_reducible apply foldl_wf | with_reducible apply State.doIf_wf | intro _ | split | fail)

theorem State.reject_wf (s : State) (v : Pass) (seq : W32)  (hw : s.mem.wf = true) : ((State.reject s v seq)).1.mem.wf = true := wf_of_frame (State.reject_frame _ _ _ 0x40008#48 (by decide)) (by decide) hw

theorem State.binPass_wf (s : State) (env : Env) (q : QueueId) (c : Cmd) (v : Pass) (hw : s.mem.wf = true) : (State.binPass s env q c v).mem.wf = true := by
  simp only [State.binPass]
  have e := wf_of_frame (State.binFrom_frame s c.raw true (rb c.raw 16 4 - v.prim) v 0x40008#48 (by decide)) (by decide) hw
  split <;> rename_i h <;> rw [h] at e
  · exact State.updPass_wf _ _ _ e
  · split
    · exact e
    · exact State.updPass_wf _ _ _ e
  · exact State.fault_wf _ _ _ _ _ _ _ _ (State.updPass_wf _ _ _ e)

theorem State.grantPass_wf (s : State) (v : Pass) (grant : ℕ) (hw : s.mem.wf = true) : (State.grantPass s v grant).mem.wf = true := wf_of_frame (State.grantPass_frame _ _ _ 0x80040000#48 (by decide)) (by decide) hw

theorem State.grantSummary_wf (s : State) (p : PartId) (w : ℕ) (h : ℕ) (hw : s.mem.wf = true) : (State.grantSummary s p w h).mem.wf = true := wf_of_frame (State.grantSummary_frame _ _ _ _ 0x80040000#48 (by decide)) (by decide) hw

theorem State.sendBlocks_wf {s : State} {v : Pass} {c : Cmd} {e : TileEnv} {g : Prog} {u : Fin 64} {k : Fin 4} {t : Tile} {pos : ℕ} {idx : ℕ} {rec : ℕ} {x11 : List (Fin 8 × W32)} {t_ : State} (h_ : (State.sendBlocks s v c e g u k t pos idx rec x11) = some t_) (hw : s.mem.wf = true) : t_.mem.wf = true := wf_of_frame (State.sendBlocks_frame  h_ 0x40000000#48 (by decide)) (by decide) hw

theorem State.issueTile_wf (s : State) (v : Pass) (c : Cmd) (e : TileEnv) (g : Prog) (u : Fin 64) (k : Fin 4) (x7 : ℕ) (x8 : Tile)  (hw : s.mem.wf = true) : ((State.issueTile s v c e g u k x7 x8)).1.mem.wf = true := wf_of_frame (State.issueTile_frame _ _ _ _ _ _ _ _ _ 0xC0040008#48 (by decide)) (by decide) hw

theorem State.issueSlot_wf (s : State) (env : Env) (u : Fin 64) (k : Fin 4) (hw : s.mem.wf = true) : (State.issueSlot s env u k).mem.wf = true := by
  simp only [State.issueSlot]
  repeat' (first | with_reducible assumption | with_reducible apply State.fault_wf | with_reducible apply State.issueTile_wf | with_reducible apply foldl_wf | with_reducible apply State.doIf_wf | intro _ | split | fail)

theorem State.endSplat_wf (s : State) (r : CmdRef) (st : W16) (hw : s.mem.wf = true) : (State.endSplat s r st).mem.wf = true := by
  simp only [State.endSplat]
  repeat' (first | with_reducible assumption | with_reducible apply State.updCmd_wf | with_reducible apply State.acceptMore_wf | with_reducible apply foldl_wf | with_reducible apply State.doIf_wf | intro _ | split | fail)

theorem State.containSplat_wf (s : State) (src : ℕ) (unit : ℕ) (v : Pass) (hw : s.mem.wf = true) : (State.containSplat s src unit v).mem.wf = true := by
  simp only [State.containSplat]
  repeat' (first | with_reducible assumption | with_reducible apply State.endSplat_wf | with_reducible apply State.errContained_wf | with_reducible apply foldl_wf | with_reducible apply State.doIf_wf | intro _ | split | fail)

theorem State.loadTile_wf (s : State) (env : Env) (u : Fin 64) (k : Fin 4) (v : Pass) (c : Cmd) (t : ℕ) (hw : s.mem.wf = true) : (State.loadTile s env u k v c t).mem.wf = true := by
  simp only [State.loadTile]
  repeat' (first | with_reducible assumption | with_reducible apply State.fault_wf | with_reducible apply State.putTile_wf | with_reducible apply State.updPass_wf | with_reducible apply foldl_wf | with_reducible apply State.doIf_wf | intro _ | split | fail)

theorem State.vwriteAll_wf {s : State} {p : PartId} {x2 : List (ℕ × List Byte)} {t_ : State} (h_ : (State.vwriteAll s p x2) = .ok t_) (hw : s.mem.wf = true) : t_.mem.wf = true := by
  induction x2 generalizing s with
  | nil => cases h_; exact hw
  | cons a r ih =>
    obtain ⟨va, b⟩ := a
    simp only [State.vwriteAll] at h_
    split at h_
    · cases h_
    · rename_i h1; exact ih h_ (State.vwrite_wf h1 hw)

theorem State.passStep_wf (s : State) (r : CmdRef) (raw : Slot64) (hw : s.mem.wf = true) : (State.passStep s r raw).mem.wf = true := wf_of_frame (State.passStep_frame _ _ _ 0x80040000#48 (by decide)) (by decide) hw

theorem State.resolved_wf (s : State) (u : Fin 64) (k : Fin 4) (v : Pass) (c : Cmd) (t : Tile) (hw : s.mem.wf = true) : (State.resolved s u k v c t).mem.wf = true := wf_of_frame (State.resolved_frame _ _ _ _ _ _ 0x800C0000#48 (by decide)) (by decide) hw

/-! ## Move -/

theorem State.copyChunk_wf {s : State} {p : PartId} {src : ℕ} {dst : ℕ} {n : ℕ} {t_ : State} (h_ : (State.copyChunk s p src dst n) = .ok t_) (hw : s.mem.wf = true) : t_.mem.wf = true := by
  unfold State.copyChunk at h_
  split at h_
  · cases h_
  · exact State.vwrite_wf h_ hw

theorem State.copyFrom_wf (s : State) (p : PartId) (a b n f o : Nat) (hw : s.mem.wf = true) : (s.copyFrom p a b n f o).s.mem.wf = true := by
  induction f generalizing s o with
  | zero => exact hw
  | succ f ih =>
    simp only [State.copyFrom]
    split
    · exact hw
    · split
      · exact hw
      · rename_i h; exact ih _ _ (State.copyChunk_wf h hw)

theorem State.copyBehind_wf (s : State) (p : PartId) (src : ℕ) (dst : ℕ) (total : ℕ) (x5 : ℕ) (x6 : ℕ)  (hw : s.mem.wf = true) : (State.copyBehind s p src dst total x5 x6).mem.wf = true := by
  induction x5 generalizing s x6 with
  | zero => exact hw
  | succ n ih =>
    simp only [State.copyBehind]
    split
    · exact hw
    · apply ih
      split
      · rename_i h; exact State.copyChunk_wf h hw
      · exact hw

/-! ## Build -/

theorem State.vwriteSome_wf (s : State) (p : PartId) (l : List (Nat × List Byte)) (n : Nat) (hw : s.mem.wf = true) : (s.vwriteSome p l n).s.mem.wf = true := by
  induction l generalizing s n with
  | nil => exact hw
  | cons a r ih =>
    obtain ⟨va, b⟩ := a
    simp only [State.vwriteSome]
    split
    · exact hw
    · rename_i h; exact ih _ _ (State.vwrite_wf h hw)

theorem State.buildPark_wf (s : State) (env : Env) (r : CmdRef) (x : Xfault) (hw : s.mem.wf = true) : (State.buildPark s env r x).mem.wf = true := by
  simp only [State.buildPark]
  repeat' (first | with_reducible assumption | with_reducible apply State.fault_wf | with_reducible apply foldl_wf | with_reducible apply State.doIf_wf | intro _ | split | fail)

theorem State.buildHalt_wf (s : State) (env : Env) (r : CmdRef) (dst : ℕ) (done : ℕ) (x : Xfault) (hw : s.mem.wf = true) : (State.buildHalt s env r dst done x).mem.wf = true := by
  simp only [State.buildHalt]
  repeat' (first | with_reducible assumption | with_reducible apply State.updCmd_wf | with_reducible apply State.buildPark_wf | with_reducible apply foldl_wf | with_reducible apply State.doIf_wf | intro _ | split | fail)

theorem State.buildWrite_wf (s : State) (r : CmdRef) (ws : List (Nat × List Byte)) (hw : s.mem.wf = true) : (s.buildWrite r ws).s.mem.wf = true := by
  simp only [State.buildWrite]
  exact State.doIf_wf (fun x => State.noteWrite_wf x _ _ _) (State.vwriteSome_wf _ _ _ _ hw)

theorem State.buildOut_wf (s : State) (env : Env) (r : CmdRef) (dst : ℕ) (ws : List (ℕ × List Byte)) (marks : List (ℕ × ℕ)) (st : Option W16) (hw : s.mem.wf = true) : (State.buildOut s env r dst ws marks st).mem.wf = true := by
  simp only [State.buildOut]
  repeat' (first | with_reducible assumption | with_reducible apply State.buildWrite_wf | with_reducible apply State.buildHalt_wf | with_reducible apply Wrote.s_wf | with_reducible apply State.finish_wf | with_reducible apply State.finishOk_wf | with_reducible apply foldl_wf | with_reducible apply State.doIf_wf | intro _ | split | fail)

theorem State.refitOut_wf (s : State) (env : Env) (r : CmdRef) (dst : ℕ) (pre : ℕ) (ws : List (ℕ × List Byte)) (marks : List (ℕ × ℕ)) (hw : s.mem.wf = true) : (State.refitOut s env r dst pre ws marks).mem.wf = true := by
  simp only [State.refitOut]
  repeat' (first | with_reducible assumption | with_reducible apply State.buildWrite_wf | with_reducible apply State.buildHalt_wf | with_reducible apply Wrote.s_wf | with_reducible apply State.buildPark_wf | with_reducible apply State.finishOk_wf | with_reducible apply foldl_wf | with_reducible apply State.doIf_wf | intro _ | split | fail)

/-! ## BuildKey -/

theorem State.insEntry_wf (s : State) (env : Env) (c : Cmd) (r : CmdRef) (dst : ℕ) (keys : ℕ) (d : Desc) (h : Desc) (hw : s.mem.wf = true) : (State.insEntry s env c r dst keys d h).mem.wf = true := by
  simp only [State.insEntry]
  repeat' (first | with_reducible assumption | with_reducible apply State.updCmd_wf | with_reducible apply State.noteWrite_wf | with_reducible apply State.finish_wf | with_reducible apply State.buildPark_wf | with_reducible apply State.finishOk_wf | with_reducible apply foldl_wf | with_reducible apply State.doIf_wf | intro _ | split | (with_reducible refine State.vwriteAll_wf (by assumption) ?_) | fail)

/-! ## BuildCopy -/

theorem State.buildFail_wf (s : State) (env : Env) (r : CmdRef) (dst : ℕ) (d : Desc) (st : W16) (hw : s.mem.wf = true) : (State.buildFail s env r dst d st).mem.wf = true := by
  simp only [State.buildFail]
  repeat' (first | with_reducible assumption | with_reducible apply State.buildOut_wf | with_reducible apply foldl_wf | with_reducible apply State.doIf_wf | intro _ | split | fail)

theorem State.compactPlain_wf (s : State) (env : Env) (c : Cmd) (r : CmdRef) (src : Desc) (d : Desc) (hw : s.mem.wf = true) : (State.compactPlain s env c r src d).mem.wf = true := by
  simp only [State.compactPlain]
  repeat' (first | with_reducible assumption | with_reducible apply State.buildHalt_wf | with_reducible apply State.buildFail_wf | with_reducible apply State.buildOut_wf | with_reducible apply foldl_wf | with_reducible apply State.doIf_wf | intro _ | split | fail)

theorem State.recluster_wf (s : State) (env : Env) (c : Cmd) (r : CmdRef) (src : Desc) (d : Desc) (hw : s.mem.wf = true) : (State.recluster s env c r src d).mem.wf = true := by
  simp only [State.recluster]
  repeat' (first | with_reducible assumption | with_reducible apply State.buildHalt_wf | with_reducible apply State.buildFail_wf | with_reducible apply State.buildOut_wf | with_reducible apply foldl_wf | with_reducible apply State.doIf_wf | intro _ | split | fail)

theorem State.reclusterShards_wf (s : State) (env : Env) (c : Cmd) (r : CmdRef) (src : Desc) (d : Desc) (hw : s.mem.wf = true) : (State.reclusterShards s env c r src d).mem.wf = true := by
  simp only [State.reclusterShards]
  repeat' (first | with_reducible assumption | with_reducible apply State.buildHalt_wf | with_reducible apply State.buildFail_wf | with_reducible apply State.buildOut_wf | with_reducible apply foldl_wf | with_reducible apply State.doIf_wf | intro _ | split | fail)

theorem State.splitRun_wf (s : State) (env : Env) (c : Cmd) (r : CmdRef) (src : Desc) (d : Desc) (maxNodes : ℕ) (idBase : ℕ) (a : ℕ) (hw : s.mem.wf = true) : (State.splitRun s env c r src d maxNodes idBase a).mem.wf = true := by
  simp only [State.splitRun]
  repeat' (first | with_reducible assumption | with_reducible apply State.buildHalt_wf | with_reducible apply State.buildFail_wf | with_reducible apply State.buildOut_wf | with_reducible apply foldl_wf | with_reducible apply State.doIf_wf | intro _ | split | fail)

/-! ## SplatBwd -/

theorem State.applyGrads_wf {s : State} {p : PartId} {o : Ovf} {pair : Bool} {base n : Nat} {l : List (Nat × Nat × List W32)} {y : List (Nat × Nat × Fl)} {t : State} (h : s.applyGrads p o pair base n l = .ok (t, y)) (hw : s.mem.wf = true) : t.mem.wf = true := by
  induction l generalizing s y t with
  | nil =>
    simp only [State.applyGrads, Acc.ok.injEq, Prod.mk.injEq] at h
    rw [← h.1]; exact hw
  | cons a r ih =>
    obtain ⟨k, i, g⟩ := a
    simp only [State.applyGrads] at h
    split at h
    · cases h
    · split at h
      · cases h
      · rename_i h1
        split at h
        · cases h
        · rename_i h2
          simp only [Acc.ok.injEq, Prod.mk.injEq] at h
          rw [← h.1]; exact ih h2 (State.vwrite_wf h1 hw)

theorem State.bwdPass_wf (s : State) (env : Env) (q : QueueId) (order : List (ℕ × ℕ)) (c : Cmd) (v0 : Pass) (hw : s.mem.wf = true) : (State.bwdPass s env q order c v0).mem.wf = true := by
  simp only [State.bwdPass]
  have e := wf_of_frame (State.binFrom_frame s c.raw false (rb c.raw 16 4) v0 0x40008#48 (by decide)) (by decide) hw
  split <;> rename_i h <;> rw [h] at e
  · exact State.fault_wf _ _ _ _ _ _ _ _ hw
  · exact e
  · split
    · exact hw
    · split
      · exact State.fault_wf _ _ _ _ _ _ _ _ hw
      · split
        · exact State.fault_wf _ _ _ _ _ _ _ _ hw
        · rename_i h1
          have e1 := State.applyGrads_wf h1 e
          split
          · exact State.fault_wf _ _ _ _ _ _ _ _ hw
          · rename_i h2
            have e2 := State.vwriteAll_wf h2 e1
            exact State.itemsDone_wf _ _ _ _ (State.passStep_wf _ _ _ (State.updPass_wf _ _ _ (State.noteWrite_wf _ _ _ _ (State.updPart_wf _ _ _
              (State.fpOverflows_wf _ _ _ (State.fpInvalids_wf _ _ _ e2))))))

theorem State.bwdRun_wf (s : State) (env : Env) (q : QueueId) (order : List (ℕ × ℕ)) (check : Check) (hw : s.mem.wf = true) : (State.bwdRun s env q order check).mem.wf = true := by
  simp only [State.bwdRun]
  repeat' (first | with_reducible assumption | with_reducible apply State.containSplat_wf | with_reducible apply State.errCorrected_wf | with_reducible apply State.bwdPass_wf | with_reducible apply foldl_wf | with_reducible apply State.doIf_wf | intro _ | split | fail)

/-! ## Save -/

theorem State.settle_wf (s : State) (g : GroupRef) (hw : s.mem.wf = true) : (State.settle s g).mem.wf = true := by
  simp only [State.settle]
  repeat' (first | with_reducible assumption | with_reducible apply State.dropWrites_wf | with_reducible apply State.put_wf | with_reducible apply State.mapPend_wf | with_reducible apply State.groupAck_wf | with_reducible apply foldl_wf | with_reducible apply State.doIf_wf | intro _ | split | fail)

theorem State.saveFault_wf (s : State) (env : Env) (p : PartId) (ctx : FaultCtx) (x : Xfault) (g : GroupRef) (reason : BitVec 2) (hw : s.mem.wf = true) : (State.saveFault s env p ctx x g reason).mem.wf = true := by
  simp only [State.saveFault]
  repeat' (first | with_reducible assumption | with_reducible apply State.unpark_wf | with_reducible apply State.openFault_wf | with_reducible apply State.partitionError_wf | with_reducible apply foldl_wf | with_reducible apply State.doIf_wf | intro _ | split | fail)

theorem State.lateFault_wf (s : State) (env : Env) (g : GroupRef) (hw : s.mem.wf = true) : (State.lateFault s env g).mem.wf = true := by
  simp only [State.lateFault]
  repeat' (first | with_reducible assumption | with_reducible apply State.memFault_wf | with_reducible apply foldl_wf | with_reducible apply State.doIf_wf | intro _ | split | fail)

theorem State.containBad_wf (s : State) (env : Env) (l : List GroupRef) (hw : s.mem.wf = true) : (State.containBad s env l).mem.wf = true := by
  simp only [State.containBad]
  repeat' (first | with_reducible assumption | with_reducible apply State.errCorrected_wf | with_reducible apply State.containGroup_wf | with_reducible apply foldl_wf | with_reducible apply State.doIf_wf | intro _ | split | fail)

theorem State.saveGroup_wf (s : State) (env : Env) (g : GroupRef) (hw : s.mem.wf = true) : (State.saveGroup s env g).mem.wf = true := by
  simp only [State.saveGroup]
  repeat' (first | with_reducible assumption | with_reducible apply State.dropScorer_wf | with_reducible apply State.setGroup_wf | with_reducible apply State.dropWrites_wf | with_reducible apply State.saveFault_wf | with_reducible apply State.reportGroup_wf | with_reducible apply State.loosen_wf | with_reducible apply State.renameParked_wf | with_reducible apply foldl_wf | with_reducible apply State.doIf_wf | intro _ | split | (with_reducible refine State.vwriteAll_wf (by assumption) ?_) | fail)

theorem State.loseSaved_wf (s : State) (l : List Block) (hw : s.mem.wf = true) : (State.loseSaved s l).mem.wf = true := wf_of_frame (State.loseSaved_frame _ _ 0x40000000#48 (by decide)) (by decide) hw

theorem State.saveBlocks_wf (s : State) (env : Env) (p : PartId) (set : ℕ) (c : CoreId) (hw : s.mem.wf = true) : (State.saveBlocks s env p set c).mem.wf = true := by
  simp only [State.saveBlocks]
  repeat' (first | with_reducible assumption | with_reducible apply State.setCore_wf | with_reducible apply State.saveFault_wf | with_reducible apply State.loseSaved_wf | with_reducible apply foldl_wf | with_reducible apply State.doIf_wf | intro _ | split | (with_reducible refine State.vwriteAll_wf (by assumption) ?_) | fail)

theorem State.saveSet_wf (s : State) (env : Env) (p : PartId) (set : ℕ) (hw : s.mem.wf = true) : (State.saveSet s env p set).mem.wf = true := by
  simp only [State.saveSet]
  repeat' (first | with_reducible assumption | with_reducible apply State.lateFault_wf | with_reducible apply State.saveBlocks_wf | with_reducible apply State.settle_wf | with_reducible apply State.containBad_wf | with_reducible apply State.saveGroup_wf | with_reducible apply foldl_wf | with_reducible apply State.doIf_wf | intro _ | split | fail)

theorem State.tracePreempt_wf (s t : State) (p : PartId) (hw : t.mem.wf = true) : (s.tracePreempt t p).mem.wf = true := by
  unfold State.tracePreempt
  exact foldl_wf (fun x e h => State.record_wf x _ h) hw

theorem State.makeRoom_wf (s : State) (env : Env) (p : PartId) (l : List (CoreId × Waiting)) (n : Nat) (hw : s.mem.wf = true) : (s.makeRoom env p l n).mem.wf = true := by
  induction n generalizing s with
  | zero => exact hw
  | succ n ih =>
    simp only [State.makeRoom]
    split
    · exact hw
    · split
      · exact hw
      · exact ih _ (State.tracePreempt_wf _ _ _ (State.saveSet_wf _ _ _ _ hw))

theorem State.preemptPart_wf (s : State) (env : Env) (p : PartId) (hw : s.mem.wf = true) : (State.preemptPart s env p).mem.wf = true := by
  simp only [State.preemptPart]
  repeat' (first | with_reducible assumption | with_reducible apply State.makeRoom_wf | with_reducible apply foldl_wf | with_reducible apply State.doIf_wf | intro _ | split | fail)

theorem State.restoreGroup_wf (s : State) (env : Env) (g : GroupRef) (x : Machine.Group) (hw : s.mem.wf = true) : (State.restoreGroup s env g x).mem.wf = true := by
  simp only [State.restoreGroup]
  repeat' (first | with_reducible assumption | with_reducible apply State.setGroup_wf | with_reducible apply State.unpark_wf | with_reducible apply State.saveFault_wf | with_reducible apply State.rayHalt_wf | with_reducible apply State.renameParked_wf | with_reducible apply foldl_wf | with_reducible apply State.doIf_wf | intro _ | split | fail)

theorem State.restoreBlocks_wf (s : State) (set : ℕ) (hw : s.mem.wf = true) : (State.restoreBlocks s set).mem.wf = true := wf_of_frame (State.restoreBlocks_frame _ _ 0x40000000#48 (by decide)) (by decide) hw

/-! ## Deadline -/

theorem State.yieldTu_wf (s : State) (p : PartId) (n : TuId) (hw : s.mem.wf = true) : (State.yieldTu s p n).mem.wf = true := by
  simp only [State.yieldTu]
  repeat' (first | with_reducible assumption | with_reducible apply State.record_wf | with_reducible apply State.unpack_wf | with_reducible apply State.handBacks_wf | with_reducible apply foldl_wf | with_reducible apply State.doIf_wf | intro _ | split | fail)

theorem State.setDl_wf (s : State) (p : PartId) (st : BitVec 3) (hw : s.mem.wf = true) : (State.setDl s p st).mem.wf = true := wf_of_frame (State.setDl_frame _ _ _ 0x40000#48 (by decide)) (by decide) hw

theorem State.beginService_wf (s : State) (env : Env) (p : PartId) (hw : s.mem.wf = true) : (State.beginService s env p).mem.wf = true := by
  simp only [State.beginService]
  repeat' (first | with_reducible assumption | with_reducible apply State.armPack_wf | with_reducible apply State.yieldTu_wf | with_reducible apply State.preemptPart_wf | with_reducible apply foldl_wf | with_reducible apply State.doIf_wf | intro _ | split | fail)

theorem State.setFiring_wf (s : State) (p : PartId) (hw : s.mem.wf = true) : (State.setFiring s p).mem.wf = true := wf_of_frame (State.setFiring_frame _ _ 0x40008#48 (by decide)) (by decide) hw

theorem State.enterFiring_wf (s : State) (env : Env) (p : PartId) (hw : s.mem.wf = true) : (State.enterFiring s env p).mem.wf = true := by
  simp only [State.enterFiring]
  repeat' (first | with_reducible assumption | with_reducible apply State.setFiring_wf | with_reducible apply State.beginService_wf | with_reducible apply foldl_wf | with_reducible apply State.doIf_wf | intro _ | split | fail)

theorem State.arm_wf (s : State) (env : Env) (p : PartId) (raw : Slot64) (hw : s.mem.wf = true) : (State.arm s env p raw).mem.wf = true := by
  simp only [State.arm]
  repeat' (first | with_reducible assumption | with_reducible apply State.timerAdd_wf | with_reducible apply State.enterFiring_wf | with_reducible apply State.timerDel_wf | with_reducible apply State.keepLate_wf | with_reducible apply State.updPart_wf | with_reducible apply foldl_wf | with_reducible apply State.doIf_wf | intro _ | split | fail)

theorem State.denyReproj_wf (s : State) (p : PartId) (hw : s.mem.wf = true) : (State.denyReproj s p).mem.wf = true := wf_of_frame (State.denyReproj_frame _ _ 0x40008#48 (by decide)) (by decide) hw

/-- Memory is in its canonical form, as a name the kernel compares by its argument. -/
def MemOk (s : State) : Prop := s.mem.wf = true

theorem State.doIf_ok {s : State} {b : Bool} {f : State → State} (hf : ∀ x : State, MemOk x → MemOk (f x)) (h : MemOk s) : MemOk (s.doIf b f) := by
  unfold State.doIf; split <;> simp_all

theorem State.enterFiring_ok (s : State) (env : Env) (p : PartId) (h : MemOk s) : MemOk (s.enterFiring env p) := State.enterFiring_wf s env p h

theorem State.beginService_ok (s : State) (env : Env) (p : PartId) (h : MemOk s) : MemOk (s.beginService env p) := State.beginService_wf s env p h

theorem State.enterFiringIf_wf (s : State) (env : Env) (p : PartId) (b : Bool) (hw : s.mem.wf = true) : (s.doIf b (·.enterFiring env p)).mem.wf = true :=
  State.doIf_ok (fun y hy => State.enterFiring_ok y env p hy) hw

theorem State.beginServiceIf_wf (s : State) (env : Env) (p : PartId) (b : Bool) (hw : s.mem.wf = true) : (s.doIf b (·.beginService env p)).mem.wf = true :=
  State.doIf_ok (fun y hy => State.beginService_ok y env p hy) hw

theorem State.decideReproj_wf (s : State) (env : Env) (p : PartId) (check : Check) (hw : s.mem.wf = true) : (State.decideReproj s env p check).mem.wf = true := by
  unfold State.decideReproj
  dsimp only
  split
  · exact State.denyReproj_wf _ _ (State.enterFiringIf_wf _ _ _ _ hw)
  · split
    · exact State.denyReproj_wf _ _ (State.enterFiringIf_wf _ _ _ _ (State.errContained_wf _ _ _ _ _ hw))
    · have h1 := State.doIf_wf (b := decide (check = .corrected)) (fun y => State.errCorrected_wf y) hw
      split
      · exact State.denyReproj_wf _ _ (State.enterFiringIf_wf _ _ _ _ (State.notice_wf _ _ _ _ h1))
      · exact State.beginServiceIf_wf _ _ _ _ (State.updPart_wf _ _ _ (State.setDl_wf _ _ _ h1))

theorem State.reproject_wf (s : State) (p : PartId) (d : Desc) (m : List W32) (sum : List (ℕ × W16)) (hw : s.mem.wf = true) : (State.reproject s p d m sum).mem.wf = true := by
  simp only [State.reproject]
  repeat' (first | with_reducible assumption | with_reducible apply State.irqPart_wf | with_reducible apply State.noteWrite_wf | with_reducible apply State.denyReproj_wf | with_reducible apply State.updPart_wf | with_reducible apply State.setDl_wf | with_reducible apply State.sendPresent_wf | with_reducible apply State.notice_wf | with_reducible apply foldl_wf | with_reducible apply State.doIf_wf | intro _ | split | (with_reducible refine State.vwriteAll_wf (by assumption) ?_) | fail)

end Sys2Proof.Machine
end

