-- ==== Sys2Proof/Laws/MemChip.lean ====
section
/-!
SUPPORT. Sys2Proof/Laws/MemChip.lean: each operation of Machine/{CsrRead, Train, Owner, Faults, Reset, Debug, Csr, FwdIn}.lean keeps memory in its canonical form.
-/

set_option linter.all false

namespace Sys2Proof.Machine
open Sys2Proof

/-! ## CsrRead -/

theorem State.globalClear_wf (s : State) (base : ℕ) (m : W64) (hw : s.mem.wf = true) : (State.globalClear s base m).mem.wf = true := wf_of_frame (State.globalClear_frame _ _ _ 0x1E50D822800#48 (by decide)) (by decide) hw

theorem State.pageClear_wf (s : State) (p : PartId) (base : ℕ) (m : W64) (hw : s.mem.wf = true) : (State.pageClear s p base m).mem.wf = true := wf_of_frame (State.pageClear_frame _ _ _ _ 0xC0000#48 (by decide)) (by decide) hw

theorem State.voteRead_wf (s : State) (base : ℕ) (m : W64) (hw : s.mem.wf = true) : (State.voteRead s base m).mem.wf = true := wf_of_frame (State.voteRead_frame _ _ _ 0x1010000F50A#48 (by decide)) (by decide) hw

theorem State.readWord_wf (s : State) (a : Access) (hw : s.mem.wf = true) : (State.readWord s a).mem.wf = true := wf_of_frame (State.readWord_frame _ _ 0x1E50D8EFD1A#48 (by decide)) (by decide) hw

/-! ## Train -/

theorem State.dropSess_wf (s : State) (env : Env) (l : LinkId) (reason : BitVec 4) (hw : s.mem.wf = true) : (State.dropSess s env l reason).mem.wf = true := by
  simp only [State.dropSess]
  repeat' (first | with_reducible assumption | with_reducible apply State.downSess_wf | with_reducible apply State.endCmds_wf | with_reducible apply State.irqBlock_wf | with_reducible apply State.loseOwners_wf | with_reducible apply foldl_wf | with_reducible apply State.doIf_wf | intro _ | split | fail)

theorem State.loseSess_wf (s : State) (env : Env) (l : LinkId) (reason : BitVec 4) (hw : s.mem.wf = true) : (State.loseSess s env l reason).mem.wf = true := by
  simp only [State.loseSess]
  repeat' (first | with_reducible assumption | with_reducible apply State.dropSess_wf | with_reducible apply State.ringFailed_wf | with_reducible apply State.boot9_wf | with_reducible apply foldl_wf | with_reducible apply State.doIf_wf | intro _ | split | fail)

theorem State.restartSess_wf (s : State) (env : Env) (l : LinkId) (hw : s.mem.wf = true) : (State.restartSess s env l).mem.wf = true := by
  simp only [State.restartSess]
  repeat' (first | with_reducible assumption | with_reducible apply State.dropSess_wf | with_reducible apply State.ringFailed_wf | with_reducible apply State.boot9_wf | with_reducible apply State.openSess_wf | with_reducible apply foldl_wf | with_reducible apply State.doIf_wf | intro _ | split | fail)

theorem State.awaitSess_wf (s : State) (l : LinkId) (drain : Bool) (r : CmdRef) (hw : s.mem.wf = true) : (State.awaitSess s l drain r).mem.wf = true := wf_of_frame (State.awaitSess_frame _ _ _ _ 0x400080000#48 (by decide)) (by decide) hw

theorem State.headerSeen_wf (s : State) (l : LinkId) (lo : Byte) (hw : s.mem.wf = true) : (State.headerSeen s l lo).mem.wf = true := wf_of_frame (State.headerSeen_frame _ _ _ 0x2100000008#48 (by decide)) (by decide) hw

theorem State.retrain_wf (s : State) (l : LinkId) (hw : s.mem.wf = true) : (State.retrain s l).mem.wf = true := by
  simp only [State.retrain]
  repeat' (first | with_reducible assumption | with_reducible apply State.dropSess_wf | with_reducible apply State.openSess_wf | with_reducible apply foldl_wf | with_reducible apply State.doIf_wf | intro _ | split | fail)

/-! ## Owner -/

theorem State.epochBoundary_wf (s : State) (epoch : W32) (ws : List W64) (hw : s.mem.wf = true) : (State.epochBoundary s epoch ws).mem.wf = true := by
  simp only [State.epochBoundary]
  repeat' (first | with_reducible assumption | with_reducible apply State.applyEpoch_wf | with_reducible apply foldl_wf | with_reducible apply State.doIf_wf | intro _ | split | fail)

theorem State.downstream_wf (s : State) (h : MsgHdr) (b : MsgBody) (hw : s.mem.wf = true) : (State.downstream s h b).mem.wf = true := wf_of_frame (State.downstream_frame _ _ _ 0x2600000040#48 (by decide)) (by decide) hw

theorem State.startRing_wf (s : State) (sub : W16) (b : MsgBody) (hw : s.mem.wf = true) : (State.startRing s sub b).mem.wf = true := wf_of_frame (State.startRing_frame _ _ _ 0x2600000040#48 (by decide)) (by decide) hw

theorem State.stopRing_wf (s : State) (f : RingMsg → Bool) (hw : s.mem.wf = true) : (State.stopRing s f).mem.wf = true := wf_of_frame (State.stopRing_frame _ _ 0x2400000000#48 (by decide)) (by decide) hw

theorem State.endPublish_wf (s : State) (ok : Bool) (hw : s.mem.wf = true) : (State.endPublish s ok).mem.wf = true := wf_of_frame (State.endPublish_frame _ _ 0x2400080000#48 (by decide)) (by decide) hw

theorem State.ringBack_wf (s : State) (h : MsgHdr)  (hw : s.mem.wf = true) : ((State.ringBack s h)).2.mem.wf = true := wf_of_frame (State.ringBack_frame _ _ 0x2400000000#48 (by decide)) (by decide) hw

theorem State.passOn_wf (s : State) (h : MsgHdr) (b : MsgBody) (hw : s.mem.wf = true) : (State.passOn s h b).mem.wf = true := wf_of_frame (State.passOn_frame _ _ _ 0x2600000040#48 (by decide)) (by decide) hw

theorem State.countOrphan_wf (s : State) (hw : s.mem.wf = true) : (State.countOrphan s).mem.wf = true := wf_of_frame (State.countOrphan_frame _ 0x400000000#48 (by decide)) (by decide) hw

theorem State.supersede_wf (s : State) (epoch : W32) (hw : s.mem.wf = true) : (State.supersede s epoch).mem.wf = true := wf_of_frame (State.supersede_frame _ _ 0x2500080000#48 (by decide)) (by decide) hw

theorem State.stageEntries_wf (s : State) (h : MsgHdr) (epoch : W32) (total : W32) (es : List W64) (hw : s.mem.wf = true) : (State.stageEntries s h epoch total es).mem.wf = true := wf_of_frame (State.stageEntries_frame _ _ _ _ _ 0x2500080000#48 (by decide)) (by decide) hw

theorem State.commitOwn_wf (s : State) (hw : s.mem.wf = true) : (State.commitOwn s).mem.wf = true := by
  simp only [State.commitOwn]
  repeat' (first | with_reducible assumption | with_reducible apply State.startRing_wf | with_reducible apply State.epochBoundary_wf | with_reducible apply foldl_wf | with_reducible apply State.doIf_wf | intro _ | split | fail)

theorem State.oweRing_wf (s : State) (l : LinkId) (hw : s.mem.wf = true) : (State.oweRing s l).mem.wf = true := wf_of_frame (State.oweRing_frame _ _ 0x2200000040#48 (by decide)) (by decide) hw

theorem State.commitOther_wf (s : State) (epoch : W32) (applied : W16) (missed : W16)  (hw : s.mem.wf = true) : ((State.commitOther s epoch applied missed)).1.mem.wf = true := by
  simp only [State.commitOther]
  repeat' (first | with_reducible assumption | with_reducible apply State.irqBlock_wf | with_reducible apply State.epochBoundary_wf | with_reducible apply foldl_wf | with_reducible apply State.doIf_wf | intro _ | split | fail)

theorem State.toReady_wf (s : State) (hw : s.mem.wf = true) : (State.toReady s).mem.wf = true := wf_of_frame (State.toReady_frame _ 0x10000308#48 (by decide)) (by decide) hw

theorem State.rejectReload_wf (s : State) (hw : s.mem.wf = true) : (State.rejectReload s).mem.wf = true := wf_of_frame (State.rejectReload_frame _ 0x100000208#48 (by decide)) (by decide) hw

theorem State.leaveReload_wf (s : State) (hw : s.mem.wf = true) : (State.leaveReload s).mem.wf = true := wf_of_frame (State.leaveReload_frame _ 0x1100040000#48 (by decide)) (by decide) hw

theorem State.readTable_wf (s : State) (env : Env) (hw : s.mem.wf = true) : (State.readTable s env).mem.wf = true := by
  simp only [State.readTable]
  repeat' (first | with_reducible assumption | with_reducible apply State.fault_wf | with_reducible apply State.stall_wf | with_reducible apply State.rejectReload_wf | with_reducible apply State.toReady_wf | with_reducible apply State.setBp_wf | with_reducible apply State.epochBoundary_wf | with_reducible apply foldl_wf | with_reducible apply State.doIf_wf | intro _ | split | fail)

theorem State.reload_wf (s : State) (env : Env) (hw : s.mem.wf = true) : (State.reload s env).mem.wf = true := by
  simp only [State.reload]
  repeat' (first | with_reducible assumption | with_reducible apply State.readTable_wf | with_reducible apply State.rejectReload_wf | with_reducible apply State.setBp_wf | with_reducible apply State.leaveReload_wf | with_reducible apply foldl_wf | with_reducible apply State.doIf_wf | intro _ | split | fail)

theorem State.regOwnCtl_wf (s : State) (env : Env) (v : W64) (mask : W64) (hw : s.mem.wf = true) : (State.regOwnCtl s env v mask).mem.wf = true := by
  simp only [State.regOwnCtl]
  repeat' (first | with_reducible assumption | with_reducible apply State.clampEntry_wf | with_reducible apply State.reload_wf | with_reducible apply foldl_wf | with_reducible apply State.doIf_wf | intro _ | split | fail)

theorem State.beginStep9_wf (s : State) (hw : s.mem.wf = true) : (State.beginStep9 s).mem.wf = true := wf_of_frame (State.beginStep9_frame _ 0x260000024A#48 (by decide)) (by decide) hw

theorem State.regBootCtl_wf (s : State) (v : W64) (mask : W64) (hw : s.mem.wf = true) : (State.regBootCtl s v mask).mem.wf = true := by
  simp only [State.regBootCtl]
  repeat' (first | with_reducible assumption | with_reducible apply State.beginStep9_wf | with_reducible apply State.applyShadows_wf | with_reducible apply foldl_wf | with_reducible apply State.doIf_wf | intro _ | split | fail)

theorem State.regChipId_wf (s : State) (u : Bool) (v : W64) (hw : s.mem.wf = true) : (State.regChipId s u v).mem.wf = true := wf_of_frame (State.regChipId_frame _ _ _ 0x260000264A#48 (by decide)) (by decide) hw

/-! ## Faults -/

theorem State.tlbFill_wf (s : State) (e : TlbEntry) (hw : s.mem.wf = true) : (State.tlbFill s e).mem.wf = true := wf_of_frame (State.tlbFill_frame _ _ 0x800000000#48 (by decide)) (by decide) hw

theorem State.tlbDrop_wf (s : State) (p : PartId) (va : ℕ) (hw : s.mem.wf = true) : (State.tlbDrop s p va).mem.wf = true := wf_of_frame (State.tlbDrop_frame _ _ _ 0x800000000#48 (by decide)) (by decide) hw

theorem State.walkReads_wf (s : State) (p : PartId) (va : ℕ) (check : Check) (level : ℕ) (hw : s.mem.wf = true) : (State.walkReads s p va check level).mem.wf = true := wf_of_frame (State.walkReads_frame _ _ _ _ _ 0x800000000#48 (by decide)) (by decide) hw

theorem State.walkFault_wf (s : State) (env : Env) (p : PartId) (k : AccKind) (va : ℕ) (who : WalkFor) (x : Xfault) (hw : s.mem.wf = true) : (State.walkFault s env p k va who x).mem.wf = true := by
  simp only [State.walkFault]
  repeat' (first | with_reducible assumption | with_reducible apply State.setEntry_wf | with_reducible apply State.memFault_wf | with_reducible apply State.parkItems_wf | with_reducible apply foldl_wf | with_reducible apply State.doIf_wf | intro _ | split | fail)

theorem State.walkLost_wf (s : State) (p : PartId) (who : WalkFor) (hw : s.mem.wf = true) : (State.walkLost s p who).mem.wf = true := by
  simp only [State.walkLost]
  repeat' (first | with_reducible assumption | with_reducible apply State.acceptMore_wf | with_reducible apply State.lostGroup_wf | with_reducible apply State.errContained_wf | with_reducible apply State.endRay_wf | with_reducible apply State.herdDrop_wf | with_reducible apply foldl_wf | with_reducible apply State.doIf_wf | intro _ | split | fail)

theorem State.invalidate_wf (s : State) (p : PartId) (i : Inval) (hw : s.mem.wf = true) : (State.invalidate s p i).mem.wf = true := wf_of_frame (State.invalidate_frame _ _ _ 0x800000000#48 (by decide)) (by decide) hw

theorem State.beginInval_wf (s : State) (p : PartId) (hw : s.mem.wf = true) : (State.beginInval s p).mem.wf = true := wf_of_frame (State.beginInval_frame _ _ 0x800040000#48 (by decide)) (by decide) hw

theorem State.regMmuInval_wf (s : State) (p : PartId) (v : W64) (hw : s.mem.wf = true) : (State.regMmuInval s p v).mem.wf = true := wf_of_frame (State.regMmuInval_frame _ _ _ 0x800040000#48 (by decide)) (by decide) hw

theorem State.replayOp_wf (s : State) (env : Env) (h : ℕ) (n : ℕ) (hw : s.mem.wf = true) : (State.replayOp s env h n).mem.wf = true := by
  simp only [State.replayOp]
  repeat' (first | with_reducible assumption | with_reducible apply State.updBundle_wf | with_reducible apply State.goOn_wf | with_reducible apply State.enterSince_wf | with_reducible apply foldl_wf | with_reducible apply State.doIf_wf | intro _ | split | fail)

theorem State.resend_wf {s : State} {id : W32} {k : ℕ} {p : PartId} {t_ : State} (h_ : (State.resend s id k p) = some t_) (hw : s.mem.wf = true) : t_.mem.wf = true := wf_of_frame (State.resend_frame  h_ 0x2600400040#48 (by decide)) (by decide) hw

theorem State.rewrite_wf (s : State) (env : Env) (f : RetEntry → Bool) (hw : s.mem.wf = true) : (State.rewrite s env f).mem.wf = true := by
  simp only [State.rewrite]
  repeat' (first | with_reducible assumption | with_reducible apply State.updEntry_wf | with_reducible apply State.writeEntry_wf | with_reducible apply foldl_wf | with_reducible apply State.doIf_wf | intro _ | split | fail)

theorem State.replayWork_wf (s : State) (env : Env) (w : Parked) (hw : s.mem.wf = true) : (State.replayWork s env w).mem.wf = true := by
  simp only [State.replayWork]
  repeat' (first | with_reducible assumption | with_reducible apply State.updCmd_wf | with_reducible apply State.readTable_wf | with_reducible apply State.stall_wf | with_reducible apply State.reissueRay_wf | with_reducible apply State.reissueBundle_wf | with_reducible apply State.replayOp_wf | with_reducible apply State.updRay_wf | with_reducible apply State.put_wf | with_reducible apply State.rewrite_wf | with_reducible apply State.updQueue_wf | with_reducible apply State.readQdesc_wf | with_reducible apply State.enterSince_wf | with_reducible apply State.leaveReload_wf | with_reducible apply foldl_wf | with_reducible apply State.doIf_wf | intro _ | split | (with_reducible refine State.resend_wf (by assumption) ?_) | fail)

theorem State.againWork_wf (s : State) (env : Env) (p : PartId) (c : FaultCtx) (va : ℕ) (w : Parked) (hw : s.mem.wf = true) : (State.againWork s env p c va w).mem.wf = true := by
  simp only [State.againWork]
  repeat' (first | with_reducible assumption | with_reducible apply State.replayWork_wf | with_reducible apply State.traceReplay_wf | with_reducible apply foldl_wf | with_reducible apply State.doIf_wf | intro _ | split | fail)

theorem State.reissueWork_wf (s : State) (env : Env) (p : PartId) (o : Over) (hw : s.mem.wf = true) : (State.reissueWork s env p o).mem.wf = true := by
  simp only [State.reissueWork]
  repeat' (first | with_reducible assumption | with_reducible apply State.endGroup_wf | with_reducible apply State.openFault_wf | with_reducible apply State.againWork_wf | with_reducible apply State.updPart_wf | with_reducible apply State.endSaved_wf | with_reducible apply foldl_wf | with_reducible apply State.doIf_wf | intro _ | split | fail)

theorem State.closeFault_wf (s : State) (f : OpenFault) (hw : s.mem.wf = true) : (State.closeFault s f).mem.wf = true := wf_of_frame (State.closeFault_frame _ _ 0x1000000000#48 (by decide)) (by decide) hw

theorem State.replayFault_wf (s : State) (env : Env) (f : OpenFault) (hw : s.mem.wf = true) : (State.replayFault s env f).mem.wf = true := by
  simp only [State.replayFault]
  repeat' (first | with_reducible assumption | with_reducible apply State.invalidate_wf | with_reducible apply State.againWork_wf | with_reducible apply State.closeFault_wf | with_reducible apply foldl_wf | with_reducible apply State.doIf_wf | intro _ | split | fail)

theorem State.abortBuild_wf (s : State) (p : PartId) (r : CmdRef) (c : Cmd) (hw : s.mem.wf = true) : (State.abortBuild s p r c).mem.wf = true := by
  simp only [State.abortBuild]
  repeat' (first | with_reducible assumption | with_reducible apply State.buildWrite_wf | with_reducible apply Wrote.s_wf | with_reducible apply foldl_wf | with_reducible apply State.doIf_wf | intro _ | split | fail)

theorem State.abortCmd_wf (s : State) (env : Env) (q : QueueId) (n : ℕ) (hw : s.mem.wf = true) : (State.abortCmd s env q n).mem.wf = true := by
  simp only [State.abortCmd]
  repeat' (first | with_reducible assumption | with_reducible apply State.updCmd_wf | with_reducible apply State.waitEnd_wf | with_reducible apply State.endSplat_wf | with_reducible apply State.skipRest_wf | with_reducible apply State.finish_wf | with_reducible apply State.abortBuild_wf | with_reducible apply State.delivLast_wf | with_reducible apply foldl_wf | with_reducible apply State.doIf_wf | intro _ | split | fail)

theorem State.abortRing_wf (s : State) (q : QueueId) (hw : s.mem.wf = true) : (State.abortRing s q).mem.wf = true := wf_of_frame (State.abortRing_frame _ _ 0x80000#48 (by decide)) (by decide) hw

theorem State.dropRecords_wf (s : State) (q : QueueId) (l : List Cmd) (hw : s.mem.wf = true) : (s.dropRecords q l).mem.wf = true := by
  induction l generalizing s with
  | nil => exact hw
  | cons c r ih =>
    simp only [State.dropRecords]
    split
    · exact ih _ (State.retire_wf _ _ _ _ (State.onComplete_wf _ _ _ hw))
    · exact hw

theorem State.abortCompletion_wf (s : State) (q : QueueId) (hw : s.mem.wf = true) : (State.abortCompletion s q).mem.wf = true := by
  simp only [State.abortCompletion]
  repeat' (first | with_reducible assumption | with_reducible apply State.dropRecords_wf | with_reducible apply State.updQueue_wf | with_reducible apply foldl_wf | with_reducible apply State.doIf_wf | intro _ | split | fail)

theorem State.abortResult_wf (s : State) (f : RetEntry → Bool) (hw : s.mem.wf = true) : (State.abortResult s f).mem.wf = true := wf_of_frame (State.abortResult_frame _ _ 0x30080000#48 (by decide)) (by decide) hw

theorem State.abortBundle_wf (s : State) (env : Env) (h : ℕ) (drop : Bundle → Bundle) (hw : s.mem.wf = true) : (State.abortBundle s env h drop).mem.wf = true := by
  simp only [State.abortBundle]
  repeat' (first | with_reducible assumption | with_reducible apply State.updBundle_wf | with_reducible apply State.endWalk_wf | with_reducible apply foldl_wf | with_reducible apply State.doIf_wf | intro _ | split | fail)

theorem State.abortWork_wf (s : State) (env : Env) (f : OpenFault) (w : Parked) (hw : s.mem.wf = true) : (State.abortWork s env f w).mem.wf = true := by
  simp only [State.abortWork]
  repeat' (first | with_reducible assumption | with_reducible apply State.updCmd_wf | with_reducible apply State.abortResult_wf | with_reducible apply State.endGroup_wf | with_reducible apply State.rejectReload_wf | with_reducible apply State.unpark_wf | with_reducible apply State.updRay_wf | with_reducible apply State.abortBundle_wf | with_reducible apply State.freeLeash_wf | with_reducible apply State.abortRing_wf | with_reducible apply State.updQueue_wf | with_reducible apply State.forwardSlot_wf | with_reducible apply State.endRay_wf | with_reducible apply State.endSaved_wf | with_reducible apply State.endIntake_wf | with_reducible apply State.abortCmd_wf | with_reducible apply State.leaveReload_wf | with_reducible apply State.abortCompletion_wf | with_reducible apply foldl_wf | with_reducible apply State.doIf_wf | intro _ | split | fail)

theorem State.abortFault_wf (s : State) (env : Env) (f : OpenFault) (hw : s.mem.wf = true) : (State.abortFault s env f).mem.wf = true := by
  simp only [State.abortFault]
  repeat' (first | with_reducible assumption | with_reducible apply State.abortWork_wf | with_reducible apply State.closeFault_wf | with_reducible apply foldl_wf | with_reducible apply State.doIf_wf | intro _ | split | fail)

theorem State.reissueOverflow_wf (s : State) (env : Env) (p : PartId) (hw : s.mem.wf = true) : (State.reissueOverflow s env p).mem.wf = true := by
  simp only [State.reissueOverflow]
  repeat' (first | with_reducible assumption | with_reducible apply State.reissueWork_wf | with_reducible apply State.updPart_wf | with_reducible apply foldl_wf | with_reducible apply State.doIf_wf | intro _ | split | fail)

theorem State.badReplay_wf (s : State) (p : PartId) (hw : s.mem.wf = true) : (State.badReplay s p).mem.wf = true := wf_of_frame (State.badReplay_frame _ _ 0x40000#48 (by decide)) (by decide) hw

theorem State.actFault_wf (s : State) (env : Env) (p : PartId) (abort : Bool) (id : BitVec 10) (hw : s.mem.wf = true) : (State.actFault s env p abort id).mem.wf = true := by
  simp only [State.actFault]
  repeat' (first | with_reducible assumption | with_reducible apply State.abortFault_wf | with_reducible apply State.replayFault_wf | with_reducible apply foldl_wf | with_reducible apply State.doIf_wf | intro _ | split | fail)

theorem State.regFaultReplay_wf (s : State) (env : Env) (p : PartId) (v : W32) (hw : s.mem.wf = true) : (State.regFaultReplay s env p v).mem.wf = true := by
  simp only [State.regFaultReplay]
  repeat' (first | with_reducible assumption | with_reducible apply State.badReplay_wf | with_reducible apply State.actFault_wf | with_reducible apply State.reissueOverflow_wf | with_reducible apply foldl_wf | with_reducible apply State.doIf_wf | intro _ | split | fail)

theorem State.regFqAck_wf (s : State) (p : PartId) (v : W32) (mask : W32) (hw : s.mem.wf = true) : (State.regFqAck s p v mask).mem.wf = true := by
  simp only [State.regFqAck]
  repeat' (first | with_reducible assumption | with_reducible apply State.fqRetry_wf | with_reducible apply State.updPart_wf | with_reducible apply foldl_wf | with_reducible apply State.doIf_wf | intro _ | split | fail)

/-! ## Reset -/

theorem State.dropResults_wf (s : State) (x : Machine.Group) (hw : s.mem.wf = true) : (State.dropResults s x).mem.wf = true := wf_of_frame (State.dropResults_frame _ _ 0x20D0440028#48 (by decide)) (by decide) hw

theorem State.dropGroups_wf (s : State) (p : PartId) (hw : s.mem.wf = true) : (State.dropGroups s p).mem.wf = true := by
  simp only [State.dropGroups]
  repeat' (first | with_reducible assumption | with_reducible apply State.leaveSlot_wf | with_reducible apply State.reply_wf | with_reducible apply State.blockEnded_wf | with_reducible apply State.flushInvs_wf | with_reducible apply State.setCore_wf | with_reducible apply State.dropResults_wf | with_reducible apply State.loosen_wf | with_reducible apply foldl_wf | with_reducible apply State.doIf_wf | intro _ | split | fail)

theorem State.dropHerd_wf (s : State) (p : PartId) (hw : s.mem.wf = true) : (State.dropHerd s p).mem.wf = true := wf_of_frame (State.dropHerd_frame _ _ 0x2003000000#48 (by decide)) (by decide) hw

theorem State.dropVis_wf (s : State) (p : PartId) (hw : s.mem.wf = true) : (State.dropVis s p).mem.wf = true := wf_of_frame (State.dropVis_frame _ _ 0x80040000#48 (by decide)) (by decide) hw

theorem State.cancelLeashes_wf (s : State) (p : PartId) (hw : s.mem.wf = true) : (State.cancelLeashes s p).mem.wf = true := wf_of_frame (State.cancelLeashes_frame _ _ 0x2600400040#48 (by decide)) (by decide) hw

theorem State.beginReset_wf (s : State) (p : PartId) (flr : Bool) (hw : s.mem.wf = true) : (State.beginReset s p flr).mem.wf = true := by
  simp only [State.beginReset]
  repeat' (first | with_reducible assumption | with_reducible apply State.dropHerd_wf | with_reducible apply State.dropVis_wf | with_reducible apply State.abortForeign_wf | with_reducible apply State.cancelLeashes_wf | with_reducible apply State.deadlineIdle_wf | with_reducible apply State.updPart_wf | with_reducible apply State.dropGroups_wf | with_reducible apply foldl_wf | with_reducible apply State.doIf_wf | intro _ | split | fail)

theorem State.regPartReset_wf (s : State) (p : PartId) (v : W32) (hw : s.mem.wf = true) : (State.regPartReset s p v).mem.wf = true := by
  simp only [State.regPartReset]
  repeat' (first | with_reducible assumption | with_reducible apply State.beginReset_wf | with_reducible apply foldl_wf | with_reducible apply State.doIf_wf | intro _ | split | fail)

theorem State.clearVisit_wf (s : State) (i : ℕ) (hw : s.mem.wf = true) : (State.clearVisit s i).mem.wf = true := wf_of_frame (State.clearVisit_frame _ _ 0x400000#48 (by decide)) (by decide) hw

theorem State.discardSlots_wf (s : State) (p : PartId) (hw : s.mem.wf = true) : (State.discardSlots s p).mem.wf = true := wf_of_frame (State.discardSlots_frame _ _ 0x400000#48 (by decide)) (by decide) hw

theorem State.discardResults_wf (s : State) (p : PartId) (hw : s.mem.wf = true) : (State.discardResults s p).mem.wf = true := wf_of_frame (State.discardResults_frame _ _ 0x32000000#48 (by decide)) (by decide) hw

theorem State.closeFaults_wf (s : State) (env : Env) (p : PartId) (hw : s.mem.wf = true) : (State.closeFaults s env p).mem.wf = true := by
  simp only [State.closeFaults]
  repeat' (first | with_reducible assumption | with_reducible apply State.rejectReload_wf | with_reducible apply State.replayWork_wf | with_reducible apply State.updPart_wf | with_reducible apply State.leaveReload_wf | with_reducible apply foldl_wf | with_reducible apply State.doIf_wf | intro _ | split | fail)

theorem State.resetQueues_wf (s : State) (p : PartId) (hw : s.mem.wf = true) : (State.resetQueues s p).mem.wf = true := wf_of_frame (State.resetQueues_frame _ _ 0x400080000#48 (by decide)) (by decide) hw

theorem State.resetPage_wf (s : State) (p : PartId) (hw : s.mem.wf = true) : (State.resetPage s p).mem.wf = true := wf_of_frame (State.resetPage_frame _ _ 0x40000#48 (by decide)) (by decide) hw

/-! ## Debug -/

theorem State.putSlotUnit_wf (s : State) (i : ℕ) (w : Slot64) (hw : s.mem.wf = true) : (State.putSlotUnit s i w).mem.wf = true := wf_of_frame (State.putSlotUnit_frame _ _ _ 0x2020400000#48 (by decide)) (by decide) hw

theorem State.putTagUnit_wf (s : State) (i : ℕ) (w : Slot64) (hw : s.mem.wf = true) : (State.putTagUnit s i w).mem.wf = true := wf_of_frame (State.putTagUnit_frame _ _ _ 0x400000#48 (by decide)) (by decide) hw

theorem State.putVisitUnit_wf (s : State) (i : ℕ) (w : Slot64) (hw : s.mem.wf = true) : (State.putVisitUnit s i w).mem.wf = true := wf_of_frame (State.putVisitUnit_frame _ _ _ 0x400000#48 (by decide)) (by decide) hw

theorem State.putCandUnit_wf (s : State) (i : ℕ) (w : Slot64) (hw : s.mem.wf = true) : (State.putCandUnit s i w).mem.wf = true := wf_of_frame (State.putCandUnit_frame _ _ _ 0x400000#48 (by decide)) (by decide) hw

theorem State.putOwnerUnit_wf (s : State) (i : ℕ) (w : Slot64) (hw : s.mem.wf = true) : (State.putOwnerUnit s i w).mem.wf = true := wf_of_frame (State.putOwnerUnit_frame _ _ _ 0x100000000#48 (by decide)) (by decide) hw

theorem State.putUnit_wf (s : State) (st : ℕ) (i : ℕ) (w : Slot64) (hw : s.mem.wf = true) : (State.putUnit s st i w).mem.wf = true := wf_of_frame (State.putUnit_frame _ _ _ _ 0x2120400000#48 (by decide)) (by decide) hw

theorem State.dbgBad_wf (s : State) (hw : s.mem.wf = true) : (State.dbgBad s).mem.wf = true := wf_of_frame (State.dbgBad_frame _ 0x8000000000#48 (by decide)) (by decide) hw

theorem State.slotLost_wf (s : State) (i : ℕ) (hw : s.mem.wf = true) : (State.slotLost s i).mem.wf = true := by
  simp only [State.slotLost]
  repeat' (first | with_reducible assumption | with_reducible apply State.errContained_wf | with_reducible apply State.kennelLost_wf | with_reducible apply State.failBundle_wf | with_reducible apply State.endRay_wf | with_reducible apply State.herdDrop_wf | with_reducible apply foldl_wf | with_reducible apply State.doIf_wf | intro _ | split | fail)

theorem State.dbgMeets_wf (s : State) (st : ℕ) (i : ℕ) (check : Check) (hw : s.mem.wf = true) : (State.dbgMeets s st i check).mem.wf = true := by
  simp only [State.dbgMeets]
  repeat' (first | with_reducible assumption | with_reducible apply State.kennelCorrected_wf | with_reducible apply State.slotLost_wf | with_reducible apply State.errCorrected_wf | with_reducible apply State.errBlock_wf | with_reducible apply foldl_wf | with_reducible apply State.doIf_wf | intro _ | split | fail)

theorem State.regDbgCmd_wf (s : State) (v : W32) (check : Check) (hw : s.mem.wf = true) : (State.regDbgCmd s v check).mem.wf = true := by
  simp only [State.regDbgCmd]
  repeat' (first | with_reducible assumption | with_reducible apply State.dbgBad_wf | with_reducible apply State.dbgMeets_wf | with_reducible apply State.putUnit_wf | with_reducible apply foldl_wf | with_reducible apply State.doIf_wf | intro _ | split | fail)

theorem State.dbgAccess_wf (s : State) (req : Requester) (f : State → State) (hf : ∀ x : State, x.mem.wf = true → (f x).mem.wf = true) (hw : s.mem.wf = true) : (s.dbgAccess req f).mem.wf = true := by
  exact State.busWrite_wf _ _ _ _ _ _ (fun _ => hf) hw

/-! ## Csr -/

theorem State.regPwrCtl_wf (s : State) (v : W64) (hw : s.mem.wf = true) : (State.regPwrCtl s v).mem.wf = true := by
  simp only [State.regPwrCtl]
  repeat' (first | with_reducible assumption | with_reducible apply State.clampEntry_wf | with_reducible apply foldl_wf | with_reducible apply State.doIf_wf | intro _ | split | fail)

theorem State.regHerdCtl_wf (s : State) (v : W64) (hw : s.mem.wf = true) : (State.regHerdCtl s v).mem.wf = true := by
  simp only [State.regHerdCtl]
  repeat' (first | with_reducible assumption | with_reducible apply State.clampWrite_wf | with_reducible apply foldl_wf | with_reducible apply State.doIf_wf | intro _ | split | fail)

theorem State.regCfgRpt_wf (s : State) (v : W64) (m : W64) (hw : s.mem.wf = true) : (State.regCfgRpt s v m).mem.wf = true := by
  simp only [State.regCfgRpt]
  repeat' (first | with_reducible assumption | with_reducible apply State.clampEntry_wf | with_reducible apply foldl_wf | with_reducible apply State.doIf_wf | intro _ | split | fail)

theorem State.regFwdCtl_wf (s : State) (v : W64) (m : W64) (hw : s.mem.wf = true) : (State.regFwdCtl s v m).mem.wf = true := wf_of_frame (State.regFwdCtl_frame _ _ _ 0x400000000#48 (by decide)) (by decide) hw

theorem State.regMcAddr_wf (s : State) (u : Bool) (v : W64) (m : W64) (hw : s.mem.wf = true) : (State.regMcAddr s u v m).mem.wf = true := wf_of_frame (State.regMcAddr_frame _ _ _ _ 0x2808#48 (by decide)) (by decide) hw

theorem State.regUnlockWord_wf (s : State) (u : Bool) (v : W64) (m : W64) (hw : s.mem.wf = true) : (State.regUnlockWord s u v m).mem.wf = true := wf_of_frame (State.regUnlockWord_frame _ _ _ _ 0x3000#48 (by decide)) (by decide) hw

theorem State.regDbgCtl_wf (s : State) (u : Bool) (v : W64) (hw : s.mem.wf = true) : (State.regDbgCtl s u v).mem.wf = true := wf_of_frame (State.regDbgCtl_frame _ _ _ 0x8000002008#48 (by decide)) (by decide) hw

theorem State.regCfgWin_wf (s : State) (off : ℕ) (v : W64) (m : W64) (hw : s.mem.wf = true) : (State.regCfgWin s off v m).mem.wf = true := wf_of_frame (State.regCfgWin_frame _ _ _ _ 0x20000#48 (by decide)) (by decide) hw

theorem State.globalLow_wf (s : State) (u : Bool) (base : ℕ) (v : W64) (m : W64) (hw : s.mem.wf = true) : (State.globalLow s u base v m).mem.wf = true := by
  simp only [State.globalLow]
  repeat' (first | with_reducible assumption | with_reducible apply State.regDbgCtl_wf | with_reducible apply State.regUnitSvc_wf | with_reducible apply State.regTuFence_wf | with_reducible apply State.regChipId_wf | with_reducible apply State.regCaddySel_wf | with_reducible apply State.regMcCtl_wf | with_reducible apply State.regHerdCtl_wf | with_reducible apply State.regBootCtl_wf | with_reducible apply State.regPwrCtl_wf | with_reducible apply State.regBlkReset_wf | with_reducible apply State.regSchedCtl_wf | with_reducible apply State.regArrCtl_wf | with_reducible apply foldl_wf | with_reducible apply State.doIf_wf | intro _ | split | fail)

theorem State.globalPut_wf (s : State) (env : Env) (u : Bool) (base : ℕ) (v : W64) (m : W64) (hw : s.mem.wf = true) : (State.globalPut s env u base v m).mem.wf = true := by
  simp only [State.globalPut]
  repeat' (first | with_reducible assumption | with_reducible apply State.regCfgWin_wf | with_reducible apply State.regMcAddr_wf | with_reducible apply State.regCfgCtl_wf | with_reducible apply State.regCfgRpt_wf | with_reducible apply State.regDbgCmd_wf | with_reducible apply State.regUnlockWord_wf | with_reducible apply State.regFwdCtl_wf | with_reducible apply State.regFuse_wf | with_reducible apply State.globalLow_wf | with_reducible apply State.regTraceCtl_wf | with_reducible apply State.regPtab_wf | with_reducible apply State.regOwnCtl_wf | with_reducible apply foldl_wf | with_reducible apply State.doIf_wf | intro _ | split | fail)

theorem State.ovfWrite_wf (s : State) (p : PartId) (lo : ℕ) (v : BitVec 2)  (hw : s.mem.wf = true) : ((State.ovfWrite s p lo v)).2.mem.wf = true := by
  simp only [State.ovfWrite]
  repeat' (first | with_reducible assumption | with_reducible apply State.clampEntry_wf | with_reducible apply foldl_wf | with_reducible apply State.doIf_wf | intro _ | split | fail)

theorem State.regFpCtl_wf (s : State) (p : PartId) (v : W64) (hw : s.mem.wf = true) : (State.regFpCtl s p v).mem.wf = true := by
  simp only [State.regFpCtl]
  repeat' (first | with_reducible assumption | with_reducible apply State.ovfWrite_wf | with_reducible apply State.updPart_wf | with_reducible apply foldl_wf | with_reducible apply State.doIf_wf | intro _ | split | fail)

theorem State.regFqBase_wf (s : State) (p : PartId) (v : W64) (m : W64) (hw : s.mem.wf = true) : (State.regFqBase s p v m).mem.wf = true := by
  simp only [State.regFqBase]
  repeat' (first | with_reducible assumption | with_reducible apply State.clampEntry_wf | with_reducible apply State.updPart_wf | with_reducible apply foldl_wf | with_reducible apply State.doIf_wf | intro _ | split | fail)

theorem State.pageLow_wf (s : State) (p : PartId) (base : ℕ) (v : W64) (hw : s.mem.wf = true) : (State.pageLow s p base v).mem.wf = true := by
  simp only [State.pageLow]
  repeat' (first | with_reducible assumption | with_reducible apply State.regFqAck_wf | with_reducible apply State.clampWrite_wf | with_reducible apply State.regPartReset_wf | with_reducible apply State.regFpCtl_wf | with_reducible apply State.updPart_wf | with_reducible apply foldl_wf | with_reducible apply State.doIf_wf | intro _ | split | fail)

theorem State.queuePut_wf (s : State) (env : Env) (p : PartId) (q : QueueId) (base : ℕ) (v : W64) (m : W64) (hw : s.mem.wf = true) : (State.queuePut s env p q base v m).mem.wf = true := by
  simp only [State.queuePut]
  repeat' (first | with_reducible assumption | with_reducible apply State.writeQctl_wf | with_reducible apply State.whistleAt_wf | with_reducible apply State.updQueue_wf | with_reducible apply foldl_wf | with_reducible apply State.doIf_wf | intro _ | split | fail)

theorem State.pagePut_wf (s : State) (env : Env) (p : PartId) (base : ℕ) (v : W64) (m : W64) (hw : s.mem.wf = true) : (State.pagePut s env p base v m).mem.wf = true := by
  simp only [State.pagePut]
  repeat' (first | with_reducible assumption | with_reducible apply State.regMmuInval_wf | with_reducible apply State.regFaultReplay_wf | with_reducible apply State.regFqBase_wf | with_reducible apply State.regGrpCmd_wf | with_reducible apply State.queuePut_wf | with_reducible apply State.updPart_wf | with_reducible apply State.pageLow_wf | with_reducible apply foldl_wf | with_reducible apply State.doIf_wf | intro _ | split | fail)

/-! ## FwdIn -/

theorem State.answerQuery_wf (s : State) (l : LinkId) (h : MsgHdr) (n : ℕ) (b : MsgBody) (hw : s.mem.wf = true) : (State.answerQuery s l h n b).mem.wf = true := wf_of_frame (State.answerQuery_frame _ _ _ _ _ 0x2600000040#48 (by decide)) (by decide) hw

theorem State.holdQuery_wf (s : State) (f : Foreign) (hw : s.mem.wf = true) : (State.holdQuery s f).mem.wf = true := wf_of_frame (State.holdQuery_frame _ _ 0x2400000000#48 (by decide)) (by decide) hw

theorem State.faultQuery_wf (s : State) (f : Foreign) (x : Xfault) (hw : s.mem.wf = true) : (State.faultQuery s f x).mem.wf = true := by
  simp only [State.faultQuery]
  repeat' (first | with_reducible assumption | with_reducible apply State.faultForeign_wf | with_reducible apply foldl_wf | with_reducible apply State.doIf_wf | intro _ | split | fail)

theorem State.takeQuery_wf (s : State) (env : Env) (l : LinkId) (h : MsgHdr) (b : MsgBody) (kind : BitVec 2) (precise : Bool) (leaseUs : Nat) (req : Option ReduceReqBody) (ds : List KData) (go : Nat → Foreign → State → State) (hf : ∀ i f (x : State), x.mem.wf = true → (go i f x).mem.wf = true) (hw : s.mem.wf = true) : (s.takeQuery env l h b kind precise leaseUs req ds go).mem.wf = true := by
  simp only [State.takeQuery]
  split
  · exact State.answerQuery_wf _ _ _ _ _ hw
  · split
    · exact State.answerQuery_wf _ _ _ _ _ hw
    · split
      · rename_i h1; exact hf _ _ _ (State.holdQuery_wf _ _ (State.kTakeAll_wf h1 hw))
      · exact State.answerQuery_wf _ _ _ _ _ hw

theorem State.queryIn_wf (s : State) (env : Env) (l : LinkId) (h : MsgHdr) (b : MsgBody) (take : State → State) (hf : ∀ x : State, x.mem.wf = true → (take x).mem.wf = true) (hw : s.mem.wf = true) : (s.queryIn env l h b take).mem.wf = true := by
  simp only [State.queryIn]
  split
  · exact State.at_wf _ _ hw
  · split
    · exact State.relay_wf _ _ _ _ (State.arrived_wf _ _ _ (State.at_wf _ _ hw))
    · exact hf _ (State.arrived_wf _ _ _ (State.at_wf _ _ hw))

theorem State.runRay_wf (s : State) (b : FwdRayBody) (i : ℕ) (f : Foreign) (hw : s.mem.wf = true) : (State.runRay s b i f).mem.wf = true := by
  simp only [State.runRay]
  repeat' (first | with_reducible assumption | with_reducible apply State.faultQuery_wf | with_reducible apply State.setRay_wf | with_reducible apply State.enter_wf | with_reducible apply State.endRay_wf | with_reducible apply State.failForeign_wf | with_reducible apply foldl_wf | with_reducible apply State.doIf_wf | intro _ | split | fail)

theorem State.runBundle_wf (s : State) (env : Env) (b : FwdProbeBody) (i : ℕ) (f : Foreign) (hw : s.mem.wf = true) : (State.runBundle s env b i f).mem.wf = true := by
  simp only [State.runBundle]
  repeat' (first | with_reducible assumption | with_reducible apply State.faultQuery_wf | with_reducible apply State.placeForeign_wf | with_reducible apply State.failForeign_wf | with_reducible apply foldl_wf | with_reducible apply State.doIf_wf | intro _ | split | fail)

theorem State.runReduce_wf (s : State) (env : Env) (b : ReduceReqBody) (i : ℕ) (f : Foreign) (hw : s.mem.wf = true) : (State.runReduce s env b i f).mem.wf = true := by
  simp only [State.runReduce]
  repeat' (first | with_reducible assumption | with_reducible apply State.faultQuery_wf | with_reducible apply State.endWalk_wf | with_reducible apply State.failForeign_wf | with_reducible apply foldl_wf | with_reducible apply State.doIf_wf | intro _ | split | fail)

end Sys2Proof.Machine
end

