-- ==== Sys2Proof/Laws/MemExec.lean ====
section
/-!
SUPPORT. Sys2Proof/Laws/MemExec.lean: each command keeps memory in its canonical form.
-/

set_option linter.all false

namespace Sys2Proof.Machine
open Sys2Proof

theorem execPackIssue_wf (p : PartId) (line : ℕ) (why : IssueWhy) (d : HalfTimes) (t : ℕ) (s : State) (t_ : State) (h_ : execPackIssue p line why d t s = .next t_) (hw : s.mem.wf = true) : t_.mem.wf = true := by
  simp only [execPackIssue] at h_
  (repeat' split at h_) <;> rw [← Host.Outcome.next.inj h_] <;> repeat' (first | with_reducible assumption | with_reducible apply State.issue_wf | with_reducible apply State.at_wf | with_reducible apply foldl_wf | with_reducible apply State.doIf_wf | intro _ | split | fail)

theorem execPackWaitExpiry_wf (p : PartId) (line : ℕ) (d : HalfTimes) (t : ℕ) (s : State) (t_ : State) (h_ : execPackWaitExpiry p line d t s = .next t_) (hw : s.mem.wf = true) : t_.mem.wf = true := by
  simp only [execPackWaitExpiry] at h_
  (repeat' split at h_) <;> rw [← Host.Outcome.next.inj h_] <;> repeat' (first | with_reducible assumption | with_reducible apply State.fire_wf | with_reducible apply State.issue_wf | with_reducible apply State.at_wf | with_reducible apply foldl_wf | with_reducible apply State.doIf_wf | intro _ | split | fail)

theorem execFetch_wf (p : PartId) (line : ℕ) (env : Env) (s : State) (t_ : State) (h_ : execFetch p line env s = .next t_) (hw : s.mem.wf = true) : t_.mem.wf = true := by
  simp only [execFetch] at h_
  (repeat' split at h_) <;> rw [← Host.Outcome.next.inj h_] <;> repeat' (first | with_reducible assumption | with_reducible apply State.setEntry_wf | with_reducible apply State.errCorrected_wf | with_reducible apply State.makeReady_wf | with_reducible apply State.sendFetch_wf | with_reducible apply State.at_wf | with_reducible apply State.parkItems_wf | with_reducible apply State.resident_wf | with_reducible apply State.errBlock_wf | with_reducible apply foldl_wf | with_reducible apply State.doIf_wf | intro _ | split | fail)

theorem execLineFill_wf (p : PartId) (line : ℕ) (s : State) (t_ : State) (h_ : execLineFill p line s = .next t_) (hw : s.mem.wf = true) : t_.mem.wf = true := wf_of_frame (execLineFill_frame _ _ _ _ h_) (by decide) hw

theorem execDelivery_wf (port : PortId) (group : BitVec 12) (s : State) (t_ : State) (h_ : execDelivery port group s = .next t_) (hw : s.mem.wf = true) : t_.mem.wf = true := wf_of_frame (execDelivery_frame _ _ _ _ h_) (by decide) hw

theorem execDelivWaitExpiry_wf (port : PortId) (group : BitVec 12) (t : ℕ) (s : State) (t_ : State) (h_ : execDelivWaitExpiry port group t s = .next t_) (hw : s.mem.wf = true) : t_.mem.wf = true := by
  simp only [execDelivWaitExpiry] at h_
  (repeat' split at h_) <;> rw [← Host.Outcome.next.inj h_] <;> repeat' (first | with_reducible assumption | with_reducible apply State.fire_wf | with_reducible apply State.delivDue_wf | with_reducible apply State.deliver_wf | with_reducible apply foldl_wf | with_reducible apply State.doIf_wf | intro _ | split | fail)

theorem execQueueEnable_wf (req : Requester) (p : PartId) (slot : Fin 64) (value : W32) (env : Env) (s : State) (t_ : State) (h_ : execQueueEnable req p slot value env s = .next t_) (hw : s.mem.wf = true) : t_.mem.wf = true := by
  simp only [execQueueEnable] at h_
  (repeat' split at h_) <;> rw [← Host.Outcome.next.inj h_] <;> repeat' (first | with_reducible assumption | with_reducible apply State.writeQctl_wf | with_reducible apply State.queueSlotWrite_wf | with_reducible apply State.at_wf | with_reducible apply foldl_wf | with_reducible apply State.doIf_wf | intro _ | split | fail)

theorem execQueueDisable_wf (req : Requester) (p : PartId) (slot : Fin 64) (value : W32) (s : State) (t_ : State) (h_ : execQueueDisable req p slot value s = .next t_) (hw : s.mem.wf = true) : t_.mem.wf = true := by
  simp only [execQueueDisable] at h_
  (repeat' split at h_) <;> rw [← Host.Outcome.next.inj h_] <;> repeat' (first | with_reducible assumption | with_reducible apply State.writeQctl_wf | with_reducible apply State.queueSlotWrite_wf | with_reducible apply foldl_wf | with_reducible apply State.doIf_wf | intro _ | split | fail)

theorem execQueueDisableDone_wf (q : QueueId) (s : State) (t_ : State) (h_ : execQueueDisableDone q s = .next t_) (hw : s.mem.wf = true) : t_.mem.wf = true := wf_of_frame (execQueueDisableDone_frame _ _ _ h_) (by decide) hw

theorem execQueueResume_wf (req : Requester) (p : PartId) (slot : Fin 64) (value : W32) (s : State) (t_ : State) (h_ : execQueueResume req p slot value s = .next t_) (hw : s.mem.wf = true) : t_.mem.wf = true := by
  simp only [execQueueResume] at h_
  (repeat' split at h_) <;> rw [← Host.Outcome.next.inj h_] <;> repeat' (first | with_reducible assumption | with_reducible apply State.writeQctl_wf | with_reducible apply State.queueSlotWrite_wf | with_reducible apply foldl_wf | with_reducible apply State.doIf_wf | intro _ | split | fail)

theorem execWhistle_wf (req : Requester) (p : PartId) (slot : Fin 64) (value : W32) (s : State) (t_ : State) (h_ : execWhistle req p slot value s = .next t_) (hw : s.mem.wf = true) : t_.mem.wf = true := wf_of_frame (execWhistle_frame _ _ _ _ _ _ h_) (by decide) hw

theorem execScalarWhistle_wf (port : PortId) (word : W32) (s : State) (t_ : State) (h_ : execScalarWhistle port word s = .next t_) (hw : s.mem.wf = true) : t_.mem.wf = true := wf_of_frame (execScalarWhistle_frame _ _ _ _ h_) (by decide) hw

theorem execCommandFetch_wf (env : Env) (s : State) (t_ : State) (h_ : execCommandFetch env s = .next t_) (hw : s.mem.wf = true) : t_.mem.wf = true := by
  simp only [execCommandFetch] at h_
  (repeat' split at h_) <;> rw [← Host.Outcome.next.inj h_] <;> repeat' (first | with_reducible assumption | with_reducible apply State.fetchCount_wf | with_reducible apply State.errCorrected_wf | with_reducible apply State.fetchCmd_wf | with_reducible apply State.fetchEntry_wf | with_reducible apply State.at_wf | with_reducible apply State.errBlock_wf | with_reducible apply foldl_wf | with_reducible apply State.doIf_wf | intro _ | split | fail)

theorem execCommandAdmit_wf (q : QueueId) (env : Env) (s : State) (t_ : State) (h_ : execCommandAdmit q env s = .next t_) (hw : s.mem.wf = true) : t_.mem.wf = true := by
  simp only [execCommandAdmit] at h_
  (repeat' split at h_) <;> rw [← Host.Outcome.next.inj h_] <;> repeat' (first | with_reducible assumption | with_reducible apply State.at_wf | with_reducible apply State.admitOne_wf | with_reducible apply foldl_wf | with_reducible apply State.doIf_wf | intro _ | split | fail)

theorem execNop_wf (q : QueueId) (s : State) (t_ : State) (h_ : execNop q s = .next t_) (hw : s.mem.wf = true) : t_.mem.wf = true := wf_of_frame (execNop_frame _ _ _ h_) (by decide) hw

theorem execCompletionRecord_wf (q : QueueId) (env : Env) (s : State) (t_ : State) (h_ : execCompletionRecord q env s = .next t_) (hw : s.mem.wf = true) : t_.mem.wf = true := by
  simp only [execCompletionRecord] at h_
  (repeat' split at h_) <;> rw [← Host.Outcome.next.inj h_] <;> repeat' (first | with_reducible assumption | with_reducible apply State.at_wf | with_reducible apply State.onComplete_wf | with_reducible apply State.completeHead_wf | with_reducible apply foldl_wf | with_reducible apply State.doIf_wf | intro _ | split | fail)

theorem execProgressShadow_wf (q : QueueId) (env : Env) (s : State) (t_ : State) (h_ : execProgressShadow q env s = .next t_) (hw : s.mem.wf = true) : t_.mem.wf = true := by
  simp only [execProgressShadow] at h_
  (repeat' split at h_) <;> rw [← Host.Outcome.next.inj h_] <;> repeat' (first | with_reducible assumption | with_reducible apply State.fault_wf | with_reducible apply State.timerAdd_wf | with_reducible apply State.timerDel_wf | with_reducible apply State.at_wf | with_reducible apply State.updQueue_wf | with_reducible apply foldl_wf | with_reducible apply State.doIf_wf | intro _ | split | (with_reducible refine State.vwrite_wf (by assumption) ?_) | fail)

theorem execCfgImageRead_wf (readError : Bool) (s : State) (t_ : State) (h_ : execCfgImageRead readError s = .next t_) (hw : s.mem.wf = true) : t_.mem.wf = true := by
  simp only [execCfgImageRead] at h_
  (repeat' split at h_) <;> rw [← Host.Outcome.next.inj h_] <;> repeat' (first | with_reducible assumption | with_reducible apply State.stall_wf | with_reducible apply State.endLoad_wf | with_reducible apply State.bootStep_wf | with_reducible apply State.applyStart_wf | with_reducible apply State.setBp_wf | with_reducible apply foldl_wf | with_reducible apply State.doIf_wf | intro _ | split | fail)

theorem execCfgSectionApply_wf (sec : Section) (s : State) (t_ : State) (h_ : execCfgSectionApply sec s = .next t_) (hw : s.mem.wf = true) : t_.mem.wf = true := by
  unfold execCfgSectionApply at h_
  have en : ∀ (x : State) b, x.mem.wf = true → (x.doIf b (·.endLoad 0)).mem.wf = true := fun x b hx => State.doIf_wf (fun y hy => State.endLoad_wf _ _ hy) hx
  split at h_
  · rw [← Host.Outcome.next.inj h_]; exact hw
  · split at h_
    · split at h_
      · rw [← Host.Outcome.next.inj h_]; exact hw
      · simp only [] at h_
        split at h_
        · rw [← Host.Outcome.next.inj h_]; exact hw
        · rw [← Host.Outcome.next.inj h_]; exact en _ _ (State.doIf_wf (fun y hy => State.applyPart_wf y _ hy) (State.applySection_wf _ _ _ hw))
    · split at h_
      · rw [← Host.Outcome.next.inj h_]; exact hw
      · split at h_
        · rw [← Host.Outcome.next.inj h_]; exact hw
        · rw [← Host.Outcome.next.inj h_]
          exact en _ _ (State.applyGlobal_wf s _ _ hw)
    · split at h_
      · rw [← Host.Outcome.next.inj h_]; exact hw
      · split at h_
        · rw [← Host.Outcome.next.inj h_]; exact hw
        · rw [← Host.Outcome.next.inj h_]; exact en _ _ (State.loadCaddy_wf _ _ hw)

theorem execCfgGo_wf (req : Requester) (value : W64) (s : State) (t_ : State) (h_ : execCfgGo req value s = .next t_) (hw : s.mem.wf = true) : t_.mem.wf = true := by
  simp only [execCfgGo] at h_
  (repeat' split at h_) <;> rw [← Host.Outcome.next.inj h_] <;> repeat' (first | with_reducible assumption | with_reducible apply State.regCfgCtl_wf | with_reducible apply State.globalWrite_wf | with_reducible apply foldl_wf | with_reducible apply State.doIf_wf | intro _ | split | fail)

theorem execCfgCancel_wf (req : Requester) (value : W64) (s : State) (t_ : State) (h_ : execCfgCancel req value s = .next t_) (hw : s.mem.wf = true) : t_.mem.wf = true := by
  simp only [execCfgCancel] at h_
  (repeat' split at h_) <;> rw [← Host.Outcome.next.inj h_] <;> repeat' (first | with_reducible assumption | with_reducible apply State.regCfgCtl_wf | with_reducible apply State.globalWrite_wf | with_reducible apply foldl_wf | with_reducible apply State.doIf_wf | intro _ | split | fail)

theorem execFreeze_wf (req : Requester) (value : W64) (s : State) (t_ : State) (h_ : execFreeze req value s = .next t_) (hw : s.mem.wf = true) : t_.mem.wf = true := by
  simp only [execFreeze] at h_
  (repeat' split at h_) <;> rw [← Host.Outcome.next.inj h_] <;> repeat' (first | with_reducible assumption | with_reducible apply State.regCfgCtl_wf | with_reducible apply State.globalWrite_wf | with_reducible apply foldl_wf | with_reducible apply State.doIf_wf | intro _ | split | fail)

theorem execPtabWrite_wf (req : Requester) (p : PartId) (w : Fin 4) (value : W64) (s : State) (t_ : State) (h_ : execPtabWrite req p w value s = .next t_) (hw : s.mem.wf = true) : t_.mem.wf = true := by
  simp only [execPtabWrite] at h_
  (repeat' split at h_) <;> rw [← Host.Outcome.next.inj h_] <;> repeat' (first | with_reducible assumption | with_reducible apply State.globalWrite_wf | with_reducible apply State.regPtab_wf | with_reducible apply foldl_wf | with_reducible apply State.doIf_wf | intro _ | split | fail)

theorem execCaddySwitch_wf (req : Requester) (value : W32) (s : State) (t_ : State) (h_ : execCaddySwitch req value s = .next t_) (hw : s.mem.wf = true) : t_.mem.wf = true := by
  simp only [execCaddySwitch] at h_
  (repeat' split at h_) <;> rw [← Host.Outcome.next.inj h_] <;> repeat' (first | with_reducible assumption | with_reducible apply State.globalWrite_wf | with_reducible apply State.regCaddySel_wf | with_reducible apply foldl_wf | with_reducible apply State.doIf_wf | intro _ | split | fail)

theorem execFence_wf (q : QueueId) (s : State) (t_ : State) (h_ : execFence q s = .next t_) (hw : s.mem.wf = true) : t_.mem.wf = true := wf_of_frame (execFence_frame _ _ _ h_) (by decide) hw

theorem execWaitValue_wf (q : QueueId) (env : Env) (s : State) (t_ : State) (h_ : execWaitValue q env s = .next t_) (hw : s.mem.wf = true) : t_.mem.wf = true := by
  simp only [execWaitValue] at h_
  (repeat' split at h_) <;> rw [← Host.Outcome.next.inj h_] <;> repeat' (first | with_reducible assumption | with_reducible apply State.timerAdd_wf | with_reducible apply State.waitEval_wf | with_reducible apply State.at_wf | with_reducible apply State.begin_wf | with_reducible apply foldl_wf | with_reducible apply State.doIf_wf | intro _ | split | fail)

theorem execWaitValuePoll_wf (q : QueueId) (env : Env) (s : State) (t_ : State) (h_ : execWaitValuePoll q env s = .next t_) (hw : s.mem.wf = true) : t_.mem.wf = true := by
  simp only [execWaitValuePoll] at h_
  (repeat' split at h_) <;> rw [← Host.Outcome.next.inj h_] <;> repeat' (first | with_reducible assumption | with_reducible apply State.fire_wf | with_reducible apply State.timerAdd_wf | with_reducible apply State.waitEval_wf | with_reducible apply State.steepWord_wf | with_reducible apply foldl_wf | with_reducible apply State.doIf_wf | intro _ | split | fail)

theorem execWaitTimeout_wf (q : QueueId) (t : ℕ) (s : State) (t_ : State) (h_ : execWaitTimeout q t s = .next t_) (hw : s.mem.wf = true) : t_.mem.wf = true := by
  simp only [execWaitTimeout] at h_
  (repeat' split at h_) <;> rw [← Host.Outcome.next.inj h_] <;> repeat' (first | with_reducible assumption | with_reducible apply State.fire_wf | with_reducible apply State.waitEnd_wf | with_reducible apply State.finish_wf | with_reducible apply foldl_wf | with_reducible apply State.doIf_wf | intro _ | split | fail)

theorem execSignalValue_wf (q : QueueId) (env : Env) (s : State) (t_ : State) (h_ : execSignalValue q env s = .next t_) (hw : s.mem.wf = true) : t_.mem.wf = true := by
  simp only [execSignalValue] at h_
  (repeat' split at h_) <;> rw [← Host.Outcome.next.inj h_] <;> repeat' (first | with_reducible assumption | with_reducible apply State.fault_wf | with_reducible apply State.noteWrite_wf | with_reducible apply State.poke_wf | with_reducible apply State.at_wf | with_reducible apply State.finishOk_wf | with_reducible apply State.waitAll_wf | with_reducible apply foldl_wf | with_reducible apply State.doIf_wf | intro _ | split | fail)

theorem execHeel_wf (q : QueueId) (t : ℕ) (s : State) (t_ : State) (h_ : execHeel q t s = .next t_) (hw : s.mem.wf = true) : t_.mem.wf = true := by
  simp only [execHeel] at h_
  (repeat' split at h_) <;> rw [← Host.Outcome.next.inj h_] <;> repeat' (first | with_reducible assumption | with_reducible apply State.updCmd_wf | with_reducible apply State.traceDrain_wf | with_reducible apply State.timerAdd_wf | with_reducible apply State.at_wf | with_reducible apply foldl_wf | with_reducible apply State.doIf_wf | intro _ | split | fail)

theorem execHeelDrained_wf (q : QueueId) (s : State) (t_ : State) (h_ : execHeelDrained q s = .next t_) (hw : s.mem.wf = true) : t_.mem.wf = true := by
  simp only [execHeelDrained] at h_
  (repeat' split at h_) <;> rw [← Host.Outcome.next.inj h_] <;> repeat' (first | with_reducible assumption | with_reducible apply State.traceDrain_wf | with_reducible apply State.applyEngine_wf | with_reducible apply State.timerDel_wf | with_reducible apply State.boundaryPart_wf | with_reducible apply State.cachesClean_wf | with_reducible apply State.finishOk_wf | with_reducible apply foldl_wf | with_reducible apply State.doIf_wf | intro _ | split | fail)

theorem execDrainTimeout_wf (q : QueueId) (t : ℕ) (s : State) (t_ : State) (h_ : execDrainTimeout q t s = .next t_) (hw : s.mem.wf = true) : t_.mem.wf = true := by
  simp only [execDrainTimeout] at h_
  (repeat' split at h_) <;> rw [← Host.Outcome.next.inj h_] <;> repeat' (first | with_reducible assumption | with_reducible apply State.fire_wf | with_reducible apply State.finish_wf | with_reducible apply State.partitionError_wf | with_reducible apply foldl_wf | with_reducible apply State.doIf_wf | intro _ | split | fail)

theorem execBatchBoundary_wf (scope : BoundaryScope) (s : State) (t_ : State) (h_ : execBatchBoundary scope s = .next t_) (hw : s.mem.wf = true) : t_.mem.wf = true := by
  simp only [execBatchBoundary] at h_
  (repeat' split at h_) <;> rw [← Host.Outcome.next.inj h_] <;> repeat' (first | with_reducible assumption | with_reducible apply State.applyBlock_wf | with_reducible apply State.applyEngine_wf | with_reducible apply State.boundaryPart_wf | with_reducible apply State.cachesClean_wf | with_reducible apply foldl_wf | with_reducible apply State.doIf_wf | intro _ | split | fail)

theorem execBindHierarchy_wf (q : QueueId) (s : State) (t_ : State) (h_ : execBindHierarchy q s = .next t_) (hw : s.mem.wf = true) : t_.mem.wf = true := wf_of_frame (execBindHierarchy_frame _ _ _ h_) (by decide) hw

theorem execTuFence_wf (req : Requester) (value : W32) (s : State) (t_ : State) (h_ : execTuFence req value s = .next t_) (hw : s.mem.wf = true) : t_.mem.wf = true := by
  simp only [execTuFence] at h_
  (repeat' split at h_) <;> rw [← Host.Outcome.next.inj h_] <;> repeat' (first | with_reducible assumption | with_reducible apply State.regTuFence_wf | with_reducible apply State.globalWrite_wf | with_reducible apply foldl_wf | with_reducible apply State.doIf_wf | intro _ | split | fail)

theorem execTuUnfence_wf (req : Requester) (value : W32) (s : State) (t_ : State) (h_ : execTuUnfence req value s = .next t_) (hw : s.mem.wf = true) : t_.mem.wf = true := by
  simp only [execTuUnfence] at h_
  (repeat' split at h_) <;> rw [← Host.Outcome.next.inj h_] <;> repeat' (first | with_reducible assumption | with_reducible apply State.regTuFence_wf | with_reducible apply State.globalWrite_wf | with_reducible apply foldl_wf | with_reducible apply State.doIf_wf | intro _ | split | fail)

theorem execTuSelfTestDone_wf (row : Fin 8) (pos : Fin 17) (pass : Bool) (s : State) (t_ : State) (h_ : execTuSelfTestDone row pos pass s = .next t_) (hw : s.mem.wf = true) : t_.mem.wf = true := by
  simp only [execTuSelfTestDone] at h_
  (repeat' split at h_) <;> rw [← Host.Outcome.next.inj h_] <;> repeat' (first | with_reducible assumption | with_reducible apply State.setRow_wf | with_reducible apply State.tusChanged_wf | with_reducible apply State.traceArr_wf | with_reducible apply State.handBacks_wf | with_reducible apply State.coldTu_wf | with_reducible apply foldl_wf | with_reducible apply State.doIf_wf | intro _ | split | fail)

theorem execRouterFault_wf (row : Fin 8) (_pos : Fin 17) (s : State) (t_ : State) (h_ : execRouterFault row _pos s = .next t_) (hw : s.mem.wf = true) : t_.mem.wf = true := by
  simp only [execRouterFault] at h_
  (repeat' split at h_) <;> rw [← Host.Outcome.next.inj h_] <;> repeat' (first | with_reducible assumption | with_reducible apply State.fenceRow_wf | with_reducible apply State.tusChanged_wf | with_reducible apply foldl_wf | with_reducible apply State.doIf_wf | intro _ | split | fail)

theorem execSleepHalf_wf (req : Requester) (h : Half) (value : W32) (s : State) (t_ : State) (h_ : execSleepHalf req h value s = .next t_) (hw : s.mem.wf = true) : t_.mem.wf = true := wf_of_frame (execSleepHalf_frame _ _ _ _ _ h_) (by decide) hw

theorem execWakeHalf_wf (req : Requester) (h : Half) (value : W32) (s : State) (t_ : State) (h_ : execWakeHalf req h value s = .next t_) (hw : s.mem.wf = true) : t_.mem.wf = true := wf_of_frame (execWakeHalf_frame _ _ _ _ _ h_) (by decide) hw

theorem execHalfAsleep_wf (h : Half) (s : State) (t_ : State) (h_ : execHalfAsleep h s = .next t_) (hw : s.mem.wf = true) : t_.mem.wf = true := by
  simp only [execHalfAsleep] at h_
  (repeat' split at h_) <;> rw [← Host.Outcome.next.inj h_] <;> repeat' (first | with_reducible assumption | with_reducible apply State.traceArr_wf | with_reducible apply State.coldHalf_wf | with_reducible apply State.setHalf_wf | with_reducible apply foldl_wf | with_reducible apply State.doIf_wf | intro _ | split | fail)

theorem execHalfAwake_wf (h : Half) (failed : Vector (BitVec 17) 8) (s : State) (t_ : State) (h_ : execHalfAwake h failed s = .next t_) (hw : s.mem.wf = true) : t_.mem.wf = true := by
  simp only [execHalfAwake] at h_
  (repeat' split at h_) <;> rw [← Host.Outcome.next.inj h_] <;> repeat' (first | with_reducible assumption | with_reducible apply State.setRow_wf | with_reducible apply State.tusChanged_wf | with_reducible apply State.traceArr_wf | with_reducible apply State.fencePos_wf | with_reducible apply State.coldHalf_wf | with_reducible apply State.setHalf_wf | with_reducible apply foldl_wf | with_reducible apply State.doIf_wf | intro _ | split | fail)

theorem execUnitOut_wf (req : Requester) (value : W32) (s : State) (t_ : State) (h_ : execUnitOut req value s = .next t_) (hw : s.mem.wf = true) : t_.mem.wf = true := wf_of_frame (execUnitOut_frame _ _ _ _ h_) (by decide) hw

theorem execUnitReturn_wf (req : Requester) (value : W32) (s : State) (t_ : State) (h_ : execUnitReturn req value s = .next t_) (hw : s.mem.wf = true) : t_.mem.wf = true := wf_of_frame (execUnitReturn_frame _ _ _ _ h_) (by decide) hw

theorem execUnitReturnDone_wf (kind : Fin 3) (idx : Fin 64) (pass : Bool) (s : State) (t_ : State) (h_ : execUnitReturnDone kind idx pass s = .next t_) (hw : s.mem.wf = true) : t_.mem.wf = true := wf_of_frame (execUnitReturnDone_frame _ _ _ _ _ h_) (by decide) hw

theorem execPowerEstimate_wf (watts : ℕ) (t : ℕ) (s : State) (t_ : State) (h_ : execPowerEstimate watts t s = .next t_) (hw : s.mem.wf = true) : t_.mem.wf = true := by
  simp only [execPowerEstimate] at h_
  (repeat' split at h_) <;> rw [← Host.Outcome.next.inj h_] <;> repeat' (first | with_reducible assumption | with_reducible apply State.fire_wf | with_reducible apply State.timerAdd_wf | with_reducible apply State.record_wf | with_reducible apply foldl_wf | with_reducible apply State.doIf_wf | intro _ | split | fail)

theorem execJunctionLimit_wf (h : Half) (s : State) (t_ : State) (h_ : execJunctionLimit h s = .next t_) (hw : s.mem.wf = true) : t_.mem.wf = true := wf_of_frame (execJunctionLimit_frame _ _ _ h_) (by decide) hw

theorem execJunctionLimitClear_wf (h : Half) (s : State) (t_ : State) (h_ : execJunctionLimitClear h s = .next t_) (hw : s.mem.wf = true) : t_.mem.wf = true := wf_of_frame (execJunctionLimitClear_frame _ _ _ h_) (by decide) hw

theorem execTraceEnable_wf (req : Requester) (value : W64) (s : State) (t_ : State) (h_ : execTraceEnable req value s = .next t_) (hw : s.mem.wf = true) : t_.mem.wf = true := wf_of_frame (execTraceEnable_frame _ _ _ _ h_) (by decide) hw

theorem execBlkHeel_wf (req : Requester) (value : W32) (t : ℕ) (s : State) (t_ : State) (h_ : execBlkHeel req value t s = .next t_) (hw : s.mem.wf = true) : t_.mem.wf = true := by
  simp only [execBlkHeel] at h_
  (repeat' split at h_) <;> rw [← Host.Outcome.next.inj h_] <;> repeat' (first | with_reducible assumption | with_reducible apply State.globalWrite_wf | with_reducible apply State.at_wf | with_reducible apply State.regSchedCtl_wf | with_reducible apply foldl_wf | with_reducible apply State.doIf_wf | intro _ | split | fail)

theorem execBlockDrainDone_wf (s : State) (t_ : State) (h_ : execBlockDrainDone s = .next t_) (hw : s.mem.wf = true) : t_.mem.wf = true := by
  simp only [execBlockDrainDone] at h_
  (repeat' split at h_) <;> rw [← Host.Outcome.next.inj h_] <;> repeat' (first | with_reducible assumption | with_reducible apply State.applyBlock_wf | with_reducible apply State.timerDel_wf | with_reducible apply State.cachesClean_wf | with_reducible apply State.irqBlock_wf | with_reducible apply State.boundaryPart_wf | with_reducible apply foldl_wf | with_reducible apply State.doIf_wf | intro _ | split | fail)

theorem execBlkTimeout_wf (t : ℕ) (s : State) (t_ : State) (h_ : execBlkTimeout t s = .next t_) (hw : s.mem.wf = true) : t_.mem.wf = true := by
  simp only [execBlkTimeout] at h_
  (repeat' split at h_) <;> rw [← Host.Outcome.next.inj h_] <;> repeat' (first | with_reducible assumption | with_reducible apply State.fire_wf | with_reducible apply State.irqBlock_wf | with_reducible apply State.partitionError_wf | with_reducible apply foldl_wf | with_reducible apply State.doIf_wf | intro _ | split | fail)

theorem execTest_wf (tu : TuId) (check : Check) (words : List (ℕ × Check)) (env : Env) (s : State) (t_ : State) (h_ : execTest tu check words env s = .next t_) (hw : s.mem.wf = true) : t_.mem.wf = true := by
  simp only [execTest] at h_
  (repeat' split at h_) <;> rw [← Host.Outcome.next.inj h_] <;> repeat' (first | with_reducible assumption | with_reducible apply State.kennelWord_wf | with_reducible apply State.setLastTu_wf | with_reducible apply State.errCorrected_wf | with_reducible apply State.tuTake_wf | with_reducible apply State.residueError_wf | with_reducible apply State.at_wf | with_reducible apply State.endPack_wf | with_reducible apply State.visitPack_wf | with_reducible apply foldl_wf | with_reducible apply State.doIf_wf | intro _ | split | fail)

theorem execSpillSlotGrant_wf (ray : ℕ) (slot : ℕ) (s : State) (t_ : State) (h_ : execSpillSlotGrant ray slot s = .next t_) (hw : s.mem.wf = true) : t_.mem.wf = true := wf_of_frame (execSpillSlotGrant_frame _ _ _ _ h_) (by decide) hw

theorem execSpillWaitTimeout_wf (ray : ℕ) (t : ℕ) (s : State) (t_ : State) (h_ : execSpillWaitTimeout ray t s = .next t_) (hw : s.mem.wf = true) : t_.mem.wf = true := by
  simp only [execSpillWaitTimeout] at h_
  (repeat' split at h_) <;> rw [← Host.Outcome.next.inj h_] <;> repeat' (first | with_reducible assumption | with_reducible apply State.fire_wf | with_reducible apply State.endRay_wf | with_reducible apply foldl_wf | with_reducible apply State.doIf_wf | intro _ | split | fail)

theorem execTraceRays_wf (q : QueueId) (s : State) (t_ : State) (h_ : execTraceRays q s = .next t_) (hw : s.mem.wf = true) : t_.mem.wf = true := wf_of_frame (execTraceRays_frame _ _ _ h_) (by decide) hw

theorem execRayIntake_wf (q : QueueId) (word : Option Slot64) (env : Env) (s : State) (t_ : State) (h_ : execRayIntake q word env s = .next t_) (hw : s.mem.wf = true) : t_.mem.wf = true := by
  simp only [execRayIntake] at h_
  (repeat' split at h_) <;> rw [← Host.Outcome.next.inj h_] <;> repeat' (first | with_reducible assumption | with_reducible apply State.intakeTry_wf | with_reducible apply State.rayFrom_wf | with_reducible apply State.at_wf | with_reducible apply foldl_wf | with_reducible apply State.doIf_wf | intro _ | split | fail)

theorem execReturnRay_wf (ray : ℕ) (check : Check) (s : State) (t_ : State) (h_ : execReturnRay ray check s = .next t_) (hw : s.mem.wf = true) : t_.mem.wf = true := by
  simp only [execReturnRay] at h_
  (repeat' split at h_) <;> rw [← Host.Outcome.next.inj h_] <;> repeat' (first | with_reducible assumption | with_reducible apply State.acceptRay_wf | with_reducible apply State.dropForeign_wf | with_reducible apply State.drainAll_wf | with_reducible apply State.errCorrected_wf | with_reducible apply State.errContained_wf | with_reducible apply State.kFreeAll_wf | with_reducible apply State.timerDel_wf | with_reducible apply State.giveBundle_wf | with_reducible apply State.returned_wf | with_reducible apply State.sendResult_wf | with_reducible apply foldl_wf | with_reducible apply State.doIf_wf | intro _ | split | fail)

theorem execProbe_wf (q : QueueId) (env : Env) (s : State) (t_ : State) (h_ : execProbe q env s = .next t_) (hw : s.mem.wf = true) : t_.mem.wf = true := by
  simp only [execProbe] at h_
  (repeat' split at h_) <;> rw [← Host.Outcome.next.inj h_] <;> repeat' (first | with_reducible assumption | with_reducible apply State.beginProbe_wf | with_reducible apply foldl_wf | with_reducible apply State.doIf_wf | intro _ | split | fail)

theorem execProbeReduce_wf (q : QueueId) (env : Env) (s : State) (t_ : State) (h_ : execProbeReduce q env s = .next t_) (hw : s.mem.wf = true) : t_.mem.wf = true := by
  simp only [execProbeReduce] at h_
  (repeat' split at h_) <;> rw [← Host.Outcome.next.inj h_] <;> repeat' (first | with_reducible assumption | with_reducible apply State.beginProbe_wf | with_reducible apply foldl_wf | with_reducible apply State.doIf_wf | intro _ | split | fail)

theorem execBundleAdmit_wf (q : QueueId) (words : List Slot64) (env : Env) (s : State) (t_ : State) (h_ : execBundleAdmit q words env s = .next t_) (hw : s.mem.wf = true) : t_.mem.wf = true := by
  simp only [execBundleAdmit] at h_
  (repeat' split at h_) <;> rw [← Host.Outcome.next.inj h_] <;> repeat' (first | with_reducible assumption | with_reducible apply State.intakeTry_wf | with_reducible apply State.bundleFrom_wf | with_reducible apply State.at_wf | with_reducible apply State.placeForeign_wf | with_reducible apply foldl_wf | with_reducible apply State.doIf_wf | intro _ | split | fail)

theorem execBound_wf (tu : TuId) (check : Check) (env : Env) (s : State) (t_ : State) (h_ : execBound tu check env s = .next t_) (hw : s.mem.wf = true) : t_.mem.wf = true := by
  simp only [execBound] at h_
  (repeat' split at h_) <;> rw [← Host.Outcome.next.inj h_] <;> repeat' (first | with_reducible assumption | with_reducible apply State.errCorrected_wf | with_reducible apply State.tuTake_wf | with_reducible apply State.residueError_wf | with_reducible apply State.packOps_wf | with_reducible apply State.at_wf | with_reducible apply State.boundOp_wf | with_reducible apply State.failOps_wf | with_reducible apply State.bundleWords_wf | with_reducible apply foldl_wf | with_reducible apply State.doIf_wf | intro _ | split | fail)

theorem execBoundReturn_wf (bundle : ℕ) (env : Env) (s : State) (t_ : State) (h_ : execBoundReturn bundle env s = .next t_) (hw : s.mem.wf = true) : t_.mem.wf = true := by
  simp only [execBoundReturn] at h_
  (repeat' split at h_) <;> rw [← Host.Outcome.next.inj h_] <;> repeat' (first | with_reducible assumption | with_reducible apply State.goOn_wf | with_reducible apply State.takeBound_wf | with_reducible apply State.giveBundle_wf | with_reducible apply State.at_wf | with_reducible apply foldl_wf | with_reducible apply State.doIf_wf | intro _ | split | fail)

theorem execHeapMerge_wf (bundle : ℕ) (check : Check) (env : Env) (s : State) (t_ : State) (h_ : execHeapMerge bundle check env s = .next t_) (hw : s.mem.wf = true) : t_.mem.wf = true := by
  simp only [execHeapMerge] at h_
  (repeat' split at h_) <;> rw [← Host.Outcome.next.inj h_] <;> repeat' (first | with_reducible assumption | with_reducible apply State.strainLost_wf | with_reducible apply State.goOn_wf | with_reducible apply State.errCorrected_wf | with_reducible apply State.giveBundle_wf | with_reducible apply State.at_wf | with_reducible apply State.takeScore_wf | with_reducible apply foldl_wf | with_reducible apply State.doIf_wf | intro _ | split | fail)

theorem execReduce_wf (bundle : ℕ) (check : Check) (env : Env) (s : State) (t_ : State) (h_ : execReduce bundle check env s = .next t_) (hw : s.mem.wf = true) : t_.mem.wf = true := by
  simp only [execReduce] at h_
  (repeat' split at h_) <;> rw [← Host.Outcome.next.inj h_] <;> repeat' (first | with_reducible assumption | with_reducible apply State.errCorrected_wf | with_reducible apply State.errContained_wf | with_reducible apply State.at_wf | with_reducible apply State.failBundle_wf | with_reducible apply State.runReduce1_wf | with_reducible apply State.issueReduce_wf | with_reducible apply State.residueSeen_wf | with_reducible apply foldl_wf | with_reducible apply State.doIf_wf | intro _ | split | fail)

theorem execLseMerge_wf (bundle : ℕ) (query : Fin 32) (check : Check) (env : Env) (s : State) (t_ : State) (h_ : execLseMerge bundle query check env s = .next t_) (hw : s.mem.wf = true) : t_.mem.wf = true := by
  simp only [execLseMerge] at h_
  (repeat' split at h_) <;> rw [← Host.Outcome.next.inj h_] <;> repeat' (first | with_reducible assumption | with_reducible apply State.errCorrected_wf | with_reducible apply State.errContained_wf | with_reducible apply State.giveBundle_wf | with_reducible apply State.mergeTriple_wf | with_reducible apply State.at_wf | with_reducible apply State.failBundle_wf | with_reducible apply foldl_wf | with_reducible apply State.doIf_wf | intro _ | split | fail)

theorem execForward_wf (slot : ℕ) (check : Check) (env : Env) (s : State) (t_ : State) (h_ : execForward slot check env s = .next t_) (hw : s.mem.wf = true) : t_.mem.wf = true := by
  simp only [execForward] at h_
  (repeat' split at h_) <;> rw [← Host.Outcome.next.inj h_] <;> repeat' (first | with_reducible assumption | with_reducible apply State.forwardWords_wf | with_reducible apply State.errCorrected_wf | with_reducible apply State.ownerLost_wf | with_reducible apply State.at_wf | with_reducible apply State.forwardTurn_wf | with_reducible apply foldl_wf | with_reducible apply State.doIf_wf | intro _ | split | fail)

theorem execMessageRelay_wf (l : LinkId) (hdr : MsgHdr) (body : MsgBody) (env : Env) (s : State) (t_ : State) (h_ : execMessageRelay l hdr body env s = .next t_) (hw : s.mem.wf = true) : t_.mem.wf = true := wf_of_frame (execMessageRelay_frame _ _ _ _ _ _ h_) (by decide) hw

theorem execRayResult_wf (l : LinkId) (hdr : MsgHdr) (pre : ResultPrefix) (hit : Rec32) (env : Env) (s : State) (t_ : State) (h_ : execRayResult l hdr pre hit env s = .next t_) (hw : s.mem.wf = true) : t_.mem.wf = true := by
  simp only [execRayResult] at h_
  (repeat' split at h_) <;> rw [← Host.Outcome.next.inj h_] <;> repeat' (first | with_reducible assumption | with_reducible apply State.staleResult_wf | with_reducible apply State.reissueRay_wf | with_reducible apply State.relay_wf | with_reducible apply State.rayDone_wf | with_reducible apply State.at_wf | with_reducible apply State.oweResult_wf | with_reducible apply State.endRay_wf | with_reducible apply State.arrived_wf | with_reducible apply State.remoteFault_wf | with_reducible apply foldl_wf | with_reducible apply State.doIf_wf | intro _ | split | fail)

theorem execProbeResult_wf (l : LinkId) (hdr : MsgHdr) (pre : ResultPrefix) (lists : List (List ProbeEntry)) (env : Env) (s : State) (t_ : State) (h_ : execProbeResult l hdr pre lists env s = .next t_) (hw : s.mem.wf = true) : t_.mem.wf = true := by
  simp only [execProbeResult] at h_
  (repeat' split at h_) <;> rw [← Host.Outcome.next.inj h_] <;> repeat' (first | with_reducible assumption | with_reducible apply State.bundleResult_wf | with_reducible apply State.staleResult_wf | with_reducible apply State.relay_wf | with_reducible apply State.at_wf | with_reducible apply State.oweResult_wf | with_reducible apply State.arrived_wf | with_reducible apply State.probePart_wf | with_reducible apply foldl_wf | with_reducible apply State.doIf_wf | intro _ | split | fail)

theorem execReduceResult_wf (l : LinkId) (hdr : MsgHdr) (pre : ResultPrefix) (triples : List (Fin 32 × Triple)) (env : Env) (s : State) (t_ : State) (h_ : execReduceResult l hdr pre triples env s = .next t_) (hw : s.mem.wf = true) : t_.mem.wf = true := by
  simp only [execReduceResult] at h_
  (repeat' split at h_) <;> rw [← Host.Outcome.next.inj h_] <;> repeat' (first | with_reducible assumption | with_reducible apply State.bundleResult_wf | with_reducible apply State.staleResult_wf | with_reducible apply State.relay_wf | with_reducible apply State.at_wf | with_reducible apply State.oweResult_wf | with_reducible apply State.arrived_wf | with_reducible apply State.reducePart_wf | with_reducible apply foldl_wf | with_reducible apply State.doIf_wf | intro _ | split | fail)

theorem execLeaseExtend_wf (l : LinkId) (hdr : MsgHdr) (t : ℕ) (s : State) (t_ : State) (h_ : execLeaseExtend l hdr t s = .next t_) (hw : s.mem.wf = true) : t_.mem.wf = true := wf_of_frame (execLeaseExtend_frame _ _ _ _ _ h_) (by decide) hw

theorem execLeaseDeadline_wf (slot : ℕ) (env : Env) (s : State) (t_ : State) (h_ : execLeaseDeadline slot env s = .next t_) (hw : s.mem.wf = true) : t_.mem.wf = true := by
  simp only [execLeaseDeadline] at h_
  (repeat' split at h_) <;> rw [← Host.Outcome.next.inj h_] <;> repeat' (first | with_reducible assumption | with_reducible apply State.fire_wf | with_reducible apply State.steepWord_wf | with_reducible apply State.loseOwners_wf | with_reducible apply foldl_wf | with_reducible apply State.doIf_wf | intro _ | split | fail)

theorem execInvoke_wf (p : PartId) (cls : BitVec 2) (caddy : CaddyId) (slot : Fin 256) (t : ℕ) (s : State) (t_ : State) (h_ : execInvoke p cls caddy slot t s = .next t_) (hw : s.mem.wf = true) : t_.mem.wf = true := by
  simp only [execInvoke] at h_
  (repeat' split at h_) <;> rw [← Host.Outcome.next.inj h_] <;> repeat' (first | with_reducible assumption | with_reducible apply State.fire_wf | with_reducible apply State.armGroup_wf | with_reducible apply State.sendGroup_wf | with_reducible apply State.at_wf | with_reducible apply foldl_wf | with_reducible apply State.doIf_wf | intro _ | split | fail)

theorem execExit_wf (g : GroupRef) (check : Check) (s : State) (t_ : State) (h_ : execExit g check s = .next t_) (hw : s.mem.wf = true) : t_.mem.wf = true := by
  unfold execExit at h_
  rw [← Host.Outcome.next.inj h_]
  apply State.instr_wf
  · intro x y hx
    try simp only []
    (repeat' split) <;> (simp only [Ran.st]; repeat' (first | with_reducible assumption | with_reducible apply State.put_wf | with_reducible apply State.instr_wf | with_reducible apply State.dropSpilled_wf | with_reducible apply State.wrapUp_wf | with_reducible apply foldl_wf | with_reducible apply State.doIf_wf | intro _ | split | fail))
  · repeat' (first | with_reducible assumption | with_reducible apply State.put_wf | with_reducible apply State.instr_wf | with_reducible apply State.dropSpilled_wf | with_reducible apply State.wrapUp_wf | with_reducible apply foldl_wf | with_reducible apply State.doIf_wf | intro _ | split | fail)

theorem execBrk_wf (g : GroupRef) (t : ℕ) (check : Check) (s : State) (t_ : State) (h_ : execBrk g t check s = .next t_) (hw : s.mem.wf = true) : t_.mem.wf = true := by
  unfold execBrk at h_
  rw [← Host.Outcome.next.inj h_]
  apply State.instr_wf
  · intro x y hx
    try simp only []
    (repeat' split) <;> (simp only [Ran.st]; repeat' (first | with_reducible assumption | with_reducible apply State.instr_wf | with_reducible apply State.at_wf | with_reducible apply foldl_wf | with_reducible apply State.doIf_wf | intro _ | split | fail))
  · repeat' (first | with_reducible assumption | with_reducible apply State.instr_wf | with_reducible apply State.at_wf | with_reducible apply foldl_wf | with_reducible apply State.doIf_wf | intro _ | split | fail)

theorem execMemoryWriteAck_wf (id : ℕ) (s : State) (t_ : State) (h_ : execMemoryWriteAck id s = .next t_) (hw : s.mem.wf = true) : t_.mem.wf = true := by
  simp only [execMemoryWriteAck] at h_
  (repeat' split at h_) <;> rw [← Host.Outcome.next.inj h_] <;> repeat' (first | with_reducible assumption | with_reducible apply State.updCmd_wf | with_reducible apply State.freeEntry_wf | with_reducible apply State.groupAck_wf | with_reducible apply State.ackPend_wf | with_reducible apply foldl_wf | with_reducible apply State.doIf_wf | intro _ | split | fail)

theorem execFabricCredit_wf (port : PortId) (net : Net) (group : BitVec 12) (words : ℕ) (s : State) (t_ : State) (h_ : execFabricCredit port net group words s = .next t_) (hw : s.mem.wf = true) : t_.mem.wf = true := wf_of_frame (execFabricCredit_frame _ _ _ _ _ _ h_) (by decide) hw

theorem execBindProgram_wf (q : QueueId) (env : Env) (s : State) (t_ : State) (h_ : execBindProgram q env s = .next t_) (hw : s.mem.wf = true) : t_.mem.wf = true := by
  simp only [execBindProgram] at h_
  (repeat' split at h_) <;> rw [← Host.Outcome.next.inj h_] <;> repeat' (first | with_reducible assumption | with_reducible apply State.fault_wf | with_reducible apply State.finish_wf | with_reducible apply State.at_wf | with_reducible apply State.finishOk_wf | with_reducible apply State.updPart_wf | with_reducible apply foldl_wf | with_reducible apply State.doIf_wf | intro _ | split | fail)

theorem execCallMessage_wf (port : PortId) (hdr : Slot64) (args : List (BitVec 128)) (s : State) (t_ : State) (h_ : execCallMessage port hdr args s = .next t_) (hw : s.mem.wf = true) : t_.mem.wf = true := wf_of_frame (execCallMessage_frame _ _ _ _ _ h_) (by decide) hw

theorem execInteger_wf (g : GroupRef) (op : IntOp) (w : IntWidth) (signed : Bool) (sat : Bool) (dst : Dst) (a : Src) (b : Src) (c : Src) (check : Check) (s : State) (t_ : State) (h_ : execInteger g op w signed sat dst a b c check s = .next t_) (hw : s.mem.wf = true) : t_.mem.wf = true := by
  unfold execInteger at h_
  rw [← Host.Outcome.next.inj h_]
  apply State.instr_wf
  · intro x y hx
    try simp only []
    (repeat' split) <;> (simp only [Ran.st]; repeat' (first | with_reducible assumption | with_reducible apply State.put_wf | with_reducible apply State.instr_wf | with_reducible apply foldl_wf | with_reducible apply State.doIf_wf | intro _ | split | fail))
  · repeat' (first | with_reducible assumption | with_reducible apply State.put_wf | with_reducible apply State.instr_wf | with_reducible apply foldl_wf | with_reducible apply State.doIf_wf | intro _ | split | fail)

theorem execFloat_wf (g : GroupRef) (op : FloatOp) (f : Fmt) (dst : Dst) (a : Src) (b : Src) (c : Src) (check : Check) (s : State) (t_ : State) (h_ : execFloat g op f dst a b c check s = .next t_) (hw : s.mem.wf = true) : t_.mem.wf = true := by
  unfold execFloat at h_
  rw [← Host.Outcome.next.inj h_]
  apply State.instr_wf
  · intro x y hx
    try simp only []
    (repeat' split) <;> (simp only [Ran.st]; repeat' (first | with_reducible assumption | with_reducible apply State.put_wf | with_reducible apply State.instr_wf | with_reducible apply foldl_wf | with_reducible apply State.doIf_wf | intro _ | split | fail))
  · repeat' (first | with_reducible assumption | with_reducible apply State.put_wf | with_reducible apply State.instr_wf | with_reducible apply foldl_wf | with_reducible apply State.doIf_wf | intro _ | split | fail)

theorem execConvert_wf (g : GroupRef) (src : NumFmt) (dst : NumFmt) (sat : Bool) (d : Dst) (a : Src) (check : Check) (s : State) (t_ : State) (h_ : execConvert g src dst sat d a check s = .next t_) (hw : s.mem.wf = true) : t_.mem.wf = true := by
  unfold execConvert at h_
  rw [← Host.Outcome.next.inj h_]
  apply State.instr_wf
  · intro x y hx
    try simp only []
    (repeat' split) <;> (simp only [Ran.st]; repeat' (first | with_reducible assumption | with_reducible apply State.put_wf | with_reducible apply State.instr_wf | with_reducible apply foldl_wf | with_reducible apply State.doIf_wf | intro _ | split | fail))
  · repeat' (first | with_reducible assumption | with_reducible apply State.put_wf | with_reducible apply State.instr_wf | with_reducible apply foldl_wf | with_reducible apply State.doIf_wf | intro _ | split | fail)

theorem execSpecialFunction_wf (g : GroupRef) (fn : SpecialFn) (dst : Dst) (a : Src) (check : Check) (s : State) (t_ : State) (h_ : execSpecialFunction g fn dst a check s = .next t_) (hw : s.mem.wf = true) : t_.mem.wf = true := by
  unfold execSpecialFunction at h_
  rw [← Host.Outcome.next.inj h_]
  apply State.instr_wf
  · intro x y hx
    try simp only []
    (repeat' split) <;> (simp only [Ran.st]; repeat' (first | with_reducible assumption | with_reducible apply State.put_wf | with_reducible apply State.instr_wf | with_reducible apply foldl_wf | with_reducible apply State.doIf_wf | intro _ | split | fail))
  · repeat' (first | with_reducible assumption | with_reducible apply State.put_wf | with_reducible apply State.instr_wf | with_reducible apply foldl_wf | with_reducible apply State.doIf_wf | intro _ | split | fail)

theorem execLaneExchange_wf (g : GroupRef) (op : LaneOp) (dst : Dst) (a : Src) (idx : Src) (check : Check) (s : State) (t_ : State) (h_ : execLaneExchange g op dst a idx check s = .next t_) (hw : s.mem.wf = true) : t_.mem.wf = true := by
  unfold execLaneExchange at h_
  rw [← Host.Outcome.next.inj h_]
  apply State.instr_wf
  · intro x y hx
    try simp only []
    (repeat' split) <;> (simp only [Ran.st]; repeat' (first | with_reducible assumption | with_reducible apply State.put_wf | with_reducible apply State.instr_wf | with_reducible apply foldl_wf | with_reducible apply State.doIf_wf | intro _ | split | fail))
  · repeat' (first | with_reducible assumption | with_reducible apply State.put_wf | with_reducible apply State.instr_wf | with_reducible apply foldl_wf | with_reducible apply State.doIf_wf | intro _ | split | fail)

theorem execScorer_wf (g : GroupRef) (dst : ℕ) (qfmt : BitVec 3) (kfmt : BitVec 3) (queries : ℕ) (keys : ℕ) (check : Check) (t : ℕ) (s : State) (t_ : State) (h_ : execScorer g dst qfmt kfmt queries keys check t s = .next t_) (hw : s.mem.wf = true) : t_.mem.wf = true := by
  unfold execScorer at h_
  rw [← Host.Outcome.next.inj h_]
  apply State.instr_wf
  · intro x y hx
    try simp only []
    (repeat' split) <;> (simp only [Ran.st]; repeat' (first | with_reducible assumption | with_reducible apply State.enterAs_wf | with_reducible apply State.instr_wf | with_reducible apply State.at_wf | with_reducible apply foldl_wf | with_reducible apply State.doIf_wf | intro _ | split | fail))
  · repeat' (first | with_reducible assumption | with_reducible apply State.enterAs_wf | with_reducible apply State.instr_wf | with_reducible apply State.at_wf | with_reducible apply foldl_wf | with_reducible apply State.doIf_wf | intro _ | split | fail)

theorem execScore_wf (tu : TuId) (check : Check) (env : Env) (s : State) (t_ : State) (h_ : execScore tu check env s = .next t_) (hw : s.mem.wf = true) : t_.mem.wf = true := by
  simp only [execScore] at h_
  (repeat' split at h_) <;> rw [← Host.Outcome.next.inj h_] <;> repeat' (first | with_reducible assumption | with_reducible apply State.errCorrected_wf | with_reducible apply State.tuTake_wf | with_reducible apply State.scoreGroup_wf | with_reducible apply State.packGroups_wf | with_reducible apply State.packOps_wf | with_reducible apply State.flushInvs_wf | with_reducible apply State.at_wf | with_reducible apply State.failOps_wf | with_reducible apply State.scoreOp_wf | with_reducible apply State.bundleWords_wf | with_reducible apply State.residueSeen_wf | with_reducible apply State.scoreLost_wf | with_reducible apply foldl_wf | with_reducible apply State.doIf_wf | intro _ | split | fail)

theorem execBranch_wf (g : GroupRef) (target : W32) (check : Check) (s : State) (t_ : State) (h_ : execBranch g target check s = .next t_) (hw : s.mem.wf = true) : t_.mem.wf = true := by
  unfold execBranch at h_
  rw [← Host.Outcome.next.inj h_]
  apply State.instr_wf
  · intro x y hx
    try simp only []
    (repeat' split) <;> (simp only [Ran.st]; repeat' (first | with_reducible assumption | with_reducible apply State.instr_wf | with_reducible apply foldl_wf | with_reducible apply State.doIf_wf | intro _ | split | fail))
  · repeat' (first | with_reducible assumption | with_reducible apply State.instr_wf | with_reducible apply foldl_wf | with_reducible apply State.doIf_wf | intro _ | split | fail)

theorem execDivergencePush_wf (g : GroupRef) (reconv : W32) (active : W32) (t : ℕ) (check : Check) (s : State) (t_ : State) (h_ : execDivergencePush g reconv active t check s = .next t_) (hw : s.mem.wf = true) : t_.mem.wf = true := by
  unfold execDivergencePush at h_
  rw [← Host.Outcome.next.inj h_]
  apply State.instr_wf
  · intro x y hx
    try simp only []
    (repeat' split) <;> (simp only [Ran.st]; repeat' (first | with_reducible assumption | with_reducible apply State.locPut_wf | with_reducible apply State.put_wf | with_reducible apply State.instr_wf | with_reducible apply State.at_wf | with_reducible apply foldl_wf | with_reducible apply State.doIf_wf | intro _ | split | fail))
  · repeat' (first | with_reducible assumption | with_reducible apply State.locPut_wf | with_reducible apply State.put_wf | with_reducible apply State.instr_wf | with_reducible apply State.at_wf | with_reducible apply foldl_wf | with_reducible apply State.doIf_wf | intro _ | split | fail)

theorem execDivergencePop_wf (g : GroupRef) (t : ℕ) (check : Check) (s : State) (t_ : State) (h_ : execDivergencePop g t check s = .next t_) (hw : s.mem.wf = true) : t_.mem.wf = true := by
  unfold execDivergencePop at h_
  rw [← Host.Outcome.next.inj h_]
  apply State.instr_wf
  · intro x y hx
    try simp only []
    (repeat' split) <;> (simp only [Ran.st]; repeat' (first | with_reducible assumption | with_reducible apply State.put_wf | with_reducible apply State.instr_wf | with_reducible apply State.at_wf | with_reducible apply foldl_wf | with_reducible apply State.doIf_wf | intro _ | split | fail))
  · repeat' (first | with_reducible assumption | with_reducible apply State.put_wf | with_reducible apply State.instr_wf | with_reducible apply State.at_wf | with_reducible apply foldl_wf | with_reducible apply State.doIf_wf | intro _ | split | fail)

theorem execProgramCall_wf (g : GroupRef) (target : Option W32) (link : ℕ) (check : Check) (s : State) (t_ : State) (h_ : execProgramCall g target link check s = .next t_) (hw : s.mem.wf = true) : t_.mem.wf = true := by
  unfold execProgramCall at h_
  rw [← Host.Outcome.next.inj h_]
  apply State.instr_wf
  · intro x y hx
    try simp only []
    (repeat' split) <;> (simp only [Ran.st]; repeat' (first | with_reducible assumption | with_reducible apply State.put_wf | with_reducible apply State.instr_wf | with_reducible apply foldl_wf | with_reducible apply State.doIf_wf | intro _ | split | fail))
  · repeat' (first | with_reducible assumption | with_reducible apply State.put_wf | with_reducible apply State.instr_wf | with_reducible apply foldl_wf | with_reducible apply State.doIf_wf | intro _ | split | fail)

theorem execPowerOn_wf (s : State) (t_ : State) (h_ : execPowerOn s = .next t_) (hw : s.mem.wf = true) : t_.mem.wf = true := wf_of_frame (execPowerOn_frame _ _ h_) (by decide) hw

theorem execPowerDown_wf (s : State) (t_ : State) (h_ : execPowerDown s = .next t_) (hw : s.mem.wf = true) : t_.mem.wf = true := wf_of_frame (execPowerDown_frame _ _ h_) (by decide) hw

theorem execDieReset_wf (s : State) (t_ : State) (h_ : execDieReset s = .next t_) (hw : s.mem.wf = true) : t_.mem.wf = true := wf_of_frame (execDieReset_frame _ _ h_) (by decide) hw

theorem execSupplyFault_wf (d : Domain) (s : State) (t_ : State) (h_ : execSupplyFault d s = .next t_) (hw : s.mem.wf = true) : t_.mem.wf = true := wf_of_frame (execSupplyFault_frame _ _ _ h_) (by decide) hw

theorem execBlkReset_wf (req : Requester) (s : State) (t_ : State) (h_ : execBlkReset req s = .next t_) (hw : s.mem.wf = true) : t_.mem.wf = true := wf_of_frame (execBlkReset_frame _ _ _ h_) (by decide) hw

theorem execForcedResetAbandon_wf (s : State) (t_ : State) (h_ : execForcedResetAbandon s = .next t_) (hw : s.mem.wf = true) : t_.mem.wf = true := wf_of_frame (execForcedResetAbandon_frame _ _ h_) (by decide) hw

theorem execResetRelease_wf (info : ReleaseInfo) (s : State) (t_ : State) (h_ : execResetRelease info s = .next t_) (hw : s.mem.wf = true) : t_.mem.wf = true := wf_of_frame (execResetRelease_frame _ _ _ h_) (by decide) hw

theorem execForcedResetRelease_wf (info : ReleaseInfo) (s : State) (t_ : State) (h_ : execForcedResetRelease info s = .next t_) (hw : s.mem.wf = true) : t_.mem.wf = true := wf_of_frame (execForcedResetRelease_frame _ _ _ h_) (by decide) hw

theorem execFuseReread_wf (req : Requester) (info : ReleaseInfo) (s : State) (t_ : State) (h_ : execFuseReread req info s = .next t_) (hw : s.mem.wf = true) : t_.mem.wf = true := wf_of_frame (execFuseReread_frame _ _ _ _ h_) (by decide) hw

theorem execMcGo_wf (req : Requester) (value : W32) (s : State) (t_ : State) (h_ : execMcGo req value s = .next t_) (hw : s.mem.wf = true) : t_.mem.wf = true := wf_of_frame (execMcGo_frame _ _ _ _ h_) (by decide) hw

theorem execMcLoadDone_wf (check : McCheck) (s : State) (t_ : State) (h_ : execMcLoadDone check s = .next t_) (hw : s.mem.wf = true) : t_.mem.wf = true := wf_of_frame (execMcLoadDone_frame _ _ _ h_) (by decide) hw

theorem execUnlock_wf (req : Requester) (key : W32) (s : State) (t_ : State) (h_ : execUnlock req key s = .next t_) (hw : s.mem.wf = true) : t_.mem.wf = true := wf_of_frame (execUnlock_frame _ _ _ _ h_) (by decide) hw

theorem execUnlockTimeout_wf (s : State) (t_ : State) (h_ : execUnlockTimeout s = .next t_) (hw : s.mem.wf = true) : t_.mem.wf = true := wf_of_frame (execUnlockTimeout_frame _ _ h_) (by decide) hw

theorem execVoteScrub_wf (upsets : List Upset) (refuse : W32) (s : State) (t_ : State) (h_ : execVoteScrub upsets refuse s = .next t_) (hw : s.mem.wf = true) : t_.mem.wf = true := wf_of_frame (execVoteScrub_frame _ _ _ _ h_) (by decide) hw

theorem execLoad_wf (g : GroupRef) (space : Space) (w : MemWidth) (nc : Bool) (l1 : Bool) (dst : ℕ) (addr : Src) (check : Check) (env : Env) (s : State) (t_ : State) (h_ : execLoad g space w nc l1 dst addr check env s = .next t_) (hw : s.mem.wf = true) : t_.mem.wf = true := by
  unfold execLoad at h_
  rw [← Host.Outcome.next.inj h_]
  apply State.instr_wf
  · intro x y hx
    try simp only []
    (repeat' split) <;> (simp only [Ran.st]; repeat' (first | with_reducible assumption | with_reducible apply State.loadAll_wf | with_reducible apply State.put_wf | with_reducible apply State.instr_wf | with_reducible apply State.at_wf | with_reducible apply foldl_wf | with_reducible apply State.doIf_wf | intro _ | split | fail))
  · repeat' (first | with_reducible assumption | with_reducible apply State.loadAll_wf | with_reducible apply State.put_wf | with_reducible apply State.instr_wf | with_reducible apply State.at_wf | with_reducible apply foldl_wf | with_reducible apply State.doIf_wf | intro _ | split | fail)

theorem execStore_wf (g : GroupRef) (space : Space) (w : MemWidth) (src : ℕ) (addr : Src) (check : Check) (env : Env) (s : State) (t_ : State) (h_ : execStore g space w src addr check env s = .next t_) (hw : s.mem.wf = true) : t_.mem.wf = true := by
  unfold execStore at h_
  rw [← Host.Outcome.next.inj h_]
  apply State.instr_wf
  · intro x y hx
    try simp only []
    (repeat' split) <;> (simp only [Ran.st]; repeat' (first | with_reducible assumption | with_reducible apply State.storeCell_wf | with_reducible apply State.owesAck_wf | with_reducible apply State.instr_wf | with_reducible apply State.at_wf | with_reducible apply foldl_wf | with_reducible apply State.doIf_wf | intro _ | split | fail))
  · repeat' (first | with_reducible assumption | with_reducible apply State.storeCell_wf | with_reducible apply State.owesAck_wf | with_reducible apply State.instr_wf | with_reducible apply State.at_wf | with_reducible apply foldl_wf | with_reducible apply State.doIf_wf | intro _ | split | fail)

theorem execAtomic_wf (g : GroupRef) (op : AtomOp) (wide : Bool) (space : Space) (dst : ℕ) (addr : Src) (a : Src) (b : Src) (check : Check) (env : Env) (s : State) (t_ : State) (h_ : execAtomic g op wide space dst addr a b check env s = .next t_) (hw : s.mem.wf = true) : t_.mem.wf = true := by
  unfold execAtomic at h_
  rw [← Host.Outcome.next.inj h_]
  apply State.instr_wf
  · intro x y hx
    try simp only []
    (repeat' split) <;> (simp only [Ran.st]; repeat' (first | with_reducible assumption | with_reducible apply State.drainCells_wf | with_reducible apply State.owesAck_wf | with_reducible apply State.atomRun_wf | with_reducible apply State.put_wf | with_reducible apply State.fpAtoms_wf | with_reducible apply State.instr_wf | with_reducible apply State.at_wf | with_reducible apply foldl_wf | with_reducible apply State.doIf_wf | intro _ | split | fail))
  · repeat' (first | with_reducible assumption | with_reducible apply State.drainCells_wf | with_reducible apply State.owesAck_wf | with_reducible apply State.atomRun_wf | with_reducible apply State.put_wf | with_reducible apply State.fpAtoms_wf | with_reducible apply State.instr_wf | with_reducible apply State.at_wf | with_reducible apply foldl_wf | with_reducible apply State.doIf_wf | intro _ | split | fail)

theorem execLockacq_wf (g : GroupRef) (dst : ℕ) (space : Space) (addr : Src) (steps : ℕ) (stood : ℕ) (check : Check) (env : Env) (s : State) (t_ : State) (h_ : execLockacq g dst space addr steps stood check env s = .next t_) (hw : s.mem.wf = true) : t_.mem.wf = true := by
  unfold execLockacq at h_
  rw [← Host.Outcome.next.inj h_]
  apply State.instr_wf
  · intro x y hx
    try simp only []
    (repeat' split) <;> (simp only [Ran.st]; repeat' (first | with_reducible assumption | with_reducible apply State.drainCells_wf | with_reducible apply State.owesAck_wf | with_reducible apply State.put_wf | with_reducible apply State.instr_wf | with_reducible apply State.lockRun_wf | with_reducible apply State.at_wf | with_reducible apply foldl_wf | with_reducible apply State.doIf_wf | intro _ | split | fail))
  · repeat' (first | with_reducible assumption | with_reducible apply State.drainCells_wf | with_reducible apply State.owesAck_wf | with_reducible apply State.put_wf | with_reducible apply State.instr_wf | with_reducible apply State.lockRun_wf | with_reducible apply State.at_wf | with_reducible apply foldl_wf | with_reducible apply State.doIf_wf | intro _ | split | fail)

theorem execLockrel_wf (g : GroupRef) (dst : ℕ) (space : Space) (addr : Src) (check : Check) (env : Env) (s : State) (t_ : State) (h_ : execLockrel g dst space addr check env s = .next t_) (hw : s.mem.wf = true) : t_.mem.wf = true := by
  unfold execLockrel at h_
  rw [← Host.Outcome.next.inj h_]
  apply State.instr_wf
  · intro x y hx
    try simp only []
    (repeat' split) <;> (simp only [Ran.st]; repeat' (first | with_reducible assumption | with_reducible apply State.drainCells_wf | with_reducible apply State.owesAck_wf | with_reducible apply State.put_wf | with_reducible apply State.instr_wf | with_reducible apply State.at_wf | with_reducible apply State.unlockRun_wf | with_reducible apply foldl_wf | with_reducible apply State.doIf_wf | intro _ | split | fail))
  · repeat' (first | with_reducible assumption | with_reducible apply State.drainCells_wf | with_reducible apply State.owesAck_wf | with_reducible apply State.put_wf | with_reducible apply State.instr_wf | with_reducible apply State.at_wf | with_reducible apply State.unlockRun_wf | with_reducible apply foldl_wf | with_reducible apply State.doIf_wf | intro _ | split | fail)

theorem execFenceSys_wf (g : GroupRef) (check : Check) (s : State) (t_ : State) (h_ : execFenceSys g check s = .next t_) (hw : s.mem.wf = true) : t_.mem.wf = true := by
  unfold execFenceSys at h_
  rw [← Host.Outcome.next.inj h_]
  apply State.instr_wf
  · intro x y hx
    try simp only []
    (repeat' split) <;> (simp only [Ran.st]; repeat' (first | with_reducible assumption | with_reducible apply State.setCore_wf | with_reducible apply State.instr_wf | with_reducible apply State.loosen_wf | with_reducible apply foldl_wf | with_reducible apply State.doIf_wf | intro _ | split | fail))
  · repeat' (first | with_reducible assumption | with_reducible apply State.setCore_wf | with_reducible apply State.instr_wf | with_reducible apply State.loosen_wf | with_reducible apply foldl_wf | with_reducible apply State.doIf_wf | intro _ | split | fail)

theorem execFenceBlk_wf (g : GroupRef) (check : Check) (s : State) (t_ : State) (h_ : execFenceBlk g check s = .next t_) (hw : s.mem.wf = true) : t_.mem.wf = true := by
  unfold execFenceBlk at h_
  rw [← Host.Outcome.next.inj h_]
  apply State.instr_wf
  · intro x y hx
    try simp only []
    (repeat' split) <;> (simp only [Ran.st]; repeat' (first | with_reducible assumption | with_reducible apply State.instr_wf | with_reducible apply foldl_wf | with_reducible apply State.doIf_wf | intro _ | split | fail))
  · repeat' (first | with_reducible assumption | with_reducible apply State.instr_wf | with_reducible apply foldl_wf | with_reducible apply State.doIf_wf | intro _ | split | fail)

theorem execFenceClu_wf (g : GroupRef) (check : Check) (s : State) (t_ : State) (h_ : execFenceClu g check s = .next t_) (hw : s.mem.wf = true) : t_.mem.wf = true := by
  unfold execFenceClu at h_
  rw [← Host.Outcome.next.inj h_]
  apply State.instr_wf
  · intro x y hx
    try simp only []
    (repeat' split) <;> (simp only [Ran.st]; repeat' (first | with_reducible assumption | with_reducible apply State.instr_wf | with_reducible apply foldl_wf | with_reducible apply State.doIf_wf | intro _ | split | fail))
  · repeat' (first | with_reducible assumption | with_reducible apply State.instr_wf | with_reducible apply foldl_wf | with_reducible apply State.doIf_wf | intro _ | split | fail)

theorem execBar_wf (g : GroupRef) (b : Fin 16) (t : ℕ) (check : Check) (s : State) (t_ : State) (h_ : execBar g b t check s = .next t_) (hw : s.mem.wf = true) : t_.mem.wf = true := by
  unfold execBar at h_
  rw [← Host.Outcome.next.inj h_]
  apply State.instr_wf
  · intro x y hx
    try simp only []
    (repeat' split) <;> (simp only [Ran.st]; repeat' (first | with_reducible assumption | with_reducible apply State.put_wf | with_reducible apply State.instr_wf | with_reducible apply State.at_wf | with_reducible apply foldl_wf | with_reducible apply State.doIf_wf | intro _ | split | fail))
  · repeat' (first | with_reducible assumption | with_reducible apply State.put_wf | with_reducible apply State.instr_wf | with_reducible apply State.at_wf | with_reducible apply foldl_wf | with_reducible apply State.doIf_wf | intro _ | split | fail)

theorem execBarClu_wf (g : GroupRef) (b : Fin 4) (check : Check) (s : State) (t_ : State) (h_ : execBarClu g b check s = .next t_) (hw : s.mem.wf = true) : t_.mem.wf = true := by
  unfold execBarClu at h_
  rw [← Host.Outcome.next.inj h_]
  apply State.instr_wf
  · intro x y hx
    try simp only []
    (repeat' split) <;> (simp only [Ran.st]; repeat' (first | with_reducible assumption | with_reducible apply State.put_wf | with_reducible apply State.instr_wf | with_reducible apply foldl_wf | with_reducible apply State.doIf_wf | intro _ | split | fail))
  · repeat' (first | with_reducible assumption | with_reducible apply State.put_wf | with_reducible apply State.instr_wf | with_reducible apply foldl_wf | with_reducible apply State.doIf_wf | intro _ | split | fail)

theorem execTex_wf (g : GroupRef) (dst : ℕ) (desc : Src) (u : Src) (v : Src) (check : Check) (env : Env) (s : State) (t_ : State) (h_ : execTex g dst desc u v check env s = .next t_) (hw : s.mem.wf = true) : t_.mem.wf = true := by
  simp only [execTex] at h_
  (repeat' split at h_) <;> rw [← Host.Outcome.next.inj h_] <;> repeat' (first | with_reducible assumption | with_reducible apply State.texInstr_wf | with_reducible apply foldl_wf | with_reducible apply State.doIf_wf | intro _ | split | fail)

theorem execTexlod_wf (g : GroupRef) (dst : ℕ) (desc : Src) (u : Src) (v : Src) (lod : Src) (check : Check) (env : Env) (s : State) (t_ : State) (h_ : execTexlod g dst desc u v lod check env s = .next t_) (hw : s.mem.wf = true) : t_.mem.wf = true := by
  simp only [execTexlod] at h_
  (repeat' split at h_) <;> rw [← Host.Outcome.next.inj h_] <;> repeat' (first | with_reducible assumption | with_reducible apply State.texInstr_wf | with_reducible apply foldl_wf | with_reducible apply State.doIf_wf | intro _ | split | fail)

theorem execHalt_wf (req : Requester) (p : PartId) (value : W32) (s : State) (t_ : State) (h_ : execHalt req p value s = .next t_) (hw : s.mem.wf = true) : t_.mem.wf = true := by
  simp only [execHalt] at h_
  (repeat' split at h_) <;> rw [← Host.Outcome.next.inj h_] <;> repeat' (first | with_reducible assumption | with_reducible apply State.grpCmdRow_wf | with_reducible apply foldl_wf | with_reducible apply State.doIf_wf | intro _ | split | fail)

theorem execResume_wf (req : Requester) (p : PartId) (value : W32) (s : State) (t_ : State) (h_ : execResume req p value s = .next t_) (hw : s.mem.wf = true) : t_.mem.wf = true := by
  simp only [execResume] at h_
  (repeat' split at h_) <;> rw [← Host.Outcome.next.inj h_] <;> repeat' (first | with_reducible assumption | with_reducible apply State.grpCmdRow_wf | with_reducible apply foldl_wf | with_reducible apply State.doIf_wf | intro _ | split | fail)

theorem execStepGroup_wf (req : Requester) (p : PartId) (value : W32) (s : State) (t_ : State) (h_ : execStepGroup req p value s = .next t_) (hw : s.mem.wf = true) : t_.mem.wf = true := by
  simp only [execStepGroup] at h_
  (repeat' split at h_) <;> rw [← Host.Outcome.next.inj h_] <;> repeat' (first | with_reducible assumption | with_reducible apply State.grpCmdRow_wf | with_reducible apply foldl_wf | with_reducible apply State.doIf_wf | intro _ | split | fail)

theorem execRestart_wf (req : Requester) (p : PartId) (value : W32) (s : State) (t_ : State) (h_ : execRestart req p value s = .next t_) (hw : s.mem.wf = true) : t_.mem.wf = true := by
  simp only [execRestart] at h_
  (repeat' split at h_) <;> rw [← Host.Outcome.next.inj h_] <;> repeat' (first | with_reducible assumption | with_reducible apply State.grpCmdRow_wf | with_reducible apply foldl_wf | with_reducible apply State.doIf_wf | intro _ | split | fail)

theorem execEndGroup_wf (req : Requester) (p : PartId) (value : W32) (s : State) (t_ : State) (h_ : execEndGroup req p value s = .next t_) (hw : s.mem.wf = true) : t_.mem.wf = true := by
  simp only [execEndGroup] at h_
  (repeat' split at h_) <;> rw [← Host.Outcome.next.inj h_] <;> repeat' (first | with_reducible assumption | with_reducible apply State.grpCmdRow_wf | with_reducible apply foldl_wf | with_reducible apply State.doIf_wf | intro _ | split | fail)

theorem execGroupRead_wf (req : Requester) (p : PartId) (value : W32) (steps : ℕ) (check : Check) (s : State) (t_ : State) (h_ : execGroupRead req p value steps check s = .next t_) (hw : s.mem.wf = true) : t_.mem.wf = true := by
  simp only [execGroupRead] at h_
  (repeat' split at h_) <;> rw [← Host.Outcome.next.inj h_] <;> repeat' (first | with_reducible assumption | with_reducible apply State.grpCmdRow_wf | with_reducible apply foldl_wf | with_reducible apply State.doIf_wf | intro _ | split | fail)

theorem execGroupWrite_wf (req : Requester) (p : PartId) (value : W32) (steps : ℕ) (check : Check) (s : State) (t_ : State) (h_ : execGroupWrite req p value steps check s = .next t_) (hw : s.mem.wf = true) : t_.mem.wf = true := by
  simp only [execGroupWrite] at h_
  (repeat' split at h_) <;> rw [← Host.Outcome.next.inj h_] <;> repeat' (first | with_reducible assumption | with_reducible apply State.grpCmdRow_wf | with_reducible apply foldl_wf | with_reducible apply State.doIf_wf | intro _ | split | fail)

theorem execSplatFwd_wf (q : QueueId) (env : Env) (s : State) (t_ : State) (h_ : execSplatFwd q env s = .next t_) (hw : s.mem.wf = true) : t_.mem.wf = true := by
  simp only [execSplatFwd] at h_
  (repeat' split at h_) <;> rw [← Host.Outcome.next.inj h_] <;> repeat' (first | with_reducible assumption | with_reducible apply State.beginSplat_wf | with_reducible apply State.binPass_wf | with_reducible apply State.at_wf | with_reducible apply foldl_wf | with_reducible apply State.doIf_wf | intro _ | split | fail)

theorem execParkGrant_wf (p : PartId) (grant : ℕ) (s : State) (t_ : State) (h_ : execParkGrant p grant s = .next t_) (hw : s.mem.wf = true) : t_.mem.wf = true := wf_of_frame (execParkGrant_frame _ _ _ _ h_) (by decide) hw

theorem execTileLoad_wf (unit : Fin 64) (check : Check) (env : Env) (s : State) (t_ : State) (h_ : execTileLoad unit check env s = .next t_) (hw : s.mem.wf = true) : t_.mem.wf = true := by
  simp only [execTileLoad] at h_
  (repeat' split at h_) <;> rw [← Host.Outcome.next.inj h_] <;> repeat' (first | with_reducible assumption | with_reducible apply State.containSplat_wf | with_reducible apply State.acceptMore_wf | with_reducible apply State.loadTile_wf | with_reducible apply State.errCorrected_wf | with_reducible apply State.at_wf | with_reducible apply State.issueSlot_wf | with_reducible apply foldl_wf | with_reducible apply State.doIf_wf | intro _ | split | fail)

theorem execTileResolve_wf (unit : Fin 64) (slot : Fin 4) (check : Check) (env : Env) (s : State) (t_ : State) (h_ : execTileResolve unit slot check env s = .next t_) (hw : s.mem.wf = true) : t_.mem.wf = true := by
  simp only [execTileResolve] at h_
  (repeat' split at h_) <;> rw [← Host.Outcome.next.inj h_] <;> repeat' (first | with_reducible assumption | with_reducible apply State.fault_wf | with_reducible apply State.containSplat_wf | with_reducible apply State.acceptMore_wf | with_reducible apply State.fpOverflows_wf | with_reducible apply State.resolved_wf | with_reducible apply State.errCorrected_wf | with_reducible apply State.noteWrite_wf | with_reducible apply State.at_wf | with_reducible apply foldl_wf | with_reducible apply State.doIf_wf | intro _ | split | (with_reducible refine State.vwriteAll_wf (by assumption) ?_) | fail)

theorem execCopy_wf (q : QueueId) (inFlight : ℕ) (env : Env) (s : State) (t_ : State) (h_ : execCopy q inFlight env s = .next t_) (hw : s.mem.wf = true) : t_.mem.wf = true := by
  simp only [execCopy] at h_
  split at h_
  · rw [← Host.Outcome.next.inj h_]; exact State.at_wf _ _ hw
  · have e := fun (r : CmdRef) (f : Cmd → Cmd) (p : PartId) (a b n m o : Nat) =>
      State.copyFrom_wf _ p a b n m o (State.updCmd_wf _ r f (State.at_wf s env.t hw))
    split at h_ <;> rw [← Host.Outcome.next.inj h_]
    · exact State.finishOk_wf _ _ (State.noteWrite_wf _ _ _ _ (State.updCmd_wf _ _ _ (e _ _ _ _ _ _ _ _)))
    · exact State.fault_wf _ _ _ _ _ _ _ _ (State.copyBehind_wf _ _ _ _ _ _ _ (State.noteWrite_wf _ _ _ _ (State.updCmd_wf _ _ _ (e _ _ _ _ _ _ _ _))))

theorem execResidency_wf (q : QueueId) (env : Env) (s : State) (t_ : State) (h_ : execResidency q env s = .next t_) (hw : s.mem.wf = true) : t_.mem.wf = true := by
  simp only [execResidency] at h_
  (repeat' split at h_) <;> rw [← Host.Outcome.next.inj h_] <;> repeat' (first | with_reducible assumption | with_reducible apply State.fault_wf | with_reducible apply State.noteWrite_wf | with_reducible apply State.finish_wf | with_reducible apply State.at_wf | with_reducible apply State.finishOk_wf | with_reducible apply foldl_wf | with_reducible apply State.doIf_wf | intro _ | split | (with_reducible refine State.vwrite_wf (by assumption) ?_) | fail)

theorem execBuildBox_wf (q : QueueId) (scratch : List (ℕ × Byte)) (env : Env) (s : State) (t_ : State) (h_ : execBuildBox q scratch env s = .next t_) (hw : s.mem.wf = true) : t_.mem.wf = true := by
  simp only [execBuildBox] at h_
  (repeat' split at h_) <;> rw [← Host.Outcome.next.inj h_] <;> repeat' (first | with_reducible assumption | with_reducible apply State.buildWrite_wf | with_reducible apply State.buildHalt_wf | with_reducible apply Wrote.s_wf | with_reducible apply State.finish_wf | with_reducible apply State.buildPark_wf | with_reducible apply State.at_wf | with_reducible apply State.buildOut_wf | with_reducible apply foldl_wf | with_reducible apply State.doIf_wf | intro _ | split | fail)

theorem execBuildRefit_wf (q : QueueId) (scratch : List (ℕ × Byte)) (env : Env) (s : State) (t_ : State) (h_ : execBuildRefit q scratch env s = .next t_) (hw : s.mem.wf = true) : t_.mem.wf = true := by
  simp only [execBuildRefit] at h_
  (repeat' split at h_) <;> rw [← Host.Outcome.next.inj h_] <;> repeat' (first | with_reducible assumption | with_reducible apply State.refitOut_wf | with_reducible apply State.finish_wf | with_reducible apply State.buildPark_wf | with_reducible apply State.at_wf | with_reducible apply foldl_wf | with_reducible apply State.doIf_wf | intro _ | split | fail)

theorem execBuildKeys_wf (q : QueueId) (scratch : List (ℕ × Byte)) (env : Env) (s : State) (t_ : State) (h_ : execBuildKeys q scratch env s = .next t_) (hw : s.mem.wf = true) : t_.mem.wf = true := by
  simp only [execBuildKeys] at h_
  (repeat' split at h_) <;> rw [← Host.Outcome.next.inj h_] <;> repeat' (first | with_reducible assumption | with_reducible apply State.buildHalt_wf | with_reducible apply State.finish_wf | with_reducible apply State.buildPark_wf | with_reducible apply State.at_wf | with_reducible apply State.buildOut_wf | with_reducible apply foldl_wf | with_reducible apply State.doIf_wf | intro _ | split | fail)

theorem execBuildInsert_wf (q : QueueId) (env : Env) (s : State) (t_ : State) (h_ : execBuildInsert q env s = .next t_) (hw : s.mem.wf = true) : t_.mem.wf = true := by
  simp only [execBuildInsert] at h_
  (repeat' split at h_) <;> rw [← Host.Outcome.next.inj h_] <;> repeat' (first | with_reducible assumption | with_reducible apply State.updCmd_wf | with_reducible apply State.insEntry_wf | with_reducible apply State.finish_wf | with_reducible apply State.buildPark_wf | with_reducible apply State.at_wf | with_reducible apply foldl_wf | with_reducible apply State.doIf_wf | intro _ | split | fail)

theorem execBuildCompact_wf (q : QueueId) (scratch : List (ℕ × Byte)) (env : Env) (s : State) (t_ : State) (h_ : execBuildCompact q scratch env s = .next t_) (hw : s.mem.wf = true) : t_.mem.wf = true := by
  simp only [execBuildCompact] at h_
  (repeat' split at h_) <;> rw [← Host.Outcome.next.inj h_] <;> repeat' (first | with_reducible assumption | with_reducible apply State.recluster_wf | with_reducible apply State.buildWrite_wf | with_reducible apply State.reclusterShards_wf | with_reducible apply State.buildHalt_wf | with_reducible apply Wrote.s_wf | with_reducible apply State.finish_wf | with_reducible apply State.buildPark_wf | with_reducible apply State.at_wf | with_reducible apply State.compactPlain_wf | with_reducible apply foldl_wf | with_reducible apply State.doIf_wf | intro _ | split | fail)

theorem execBuildSplit_wf (q : QueueId) (scratch : List (ℕ × Byte)) (env : Env) (s : State) (t_ : State) (h_ : execBuildSplit q scratch env s = .next t_) (hw : s.mem.wf = true) : t_.mem.wf = true := by
  simp only [execBuildSplit] at h_
  (repeat' split at h_) <;> rw [← Host.Outcome.next.inj h_] <;> repeat' (first | with_reducible assumption | with_reducible apply State.splitRun_wf | with_reducible apply State.buildWrite_wf | with_reducible apply State.buildHalt_wf | with_reducible apply Wrote.s_wf | with_reducible apply State.finish_wf | with_reducible apply State.buildPark_wf | with_reducible apply State.at_wf | with_reducible apply foldl_wf | with_reducible apply State.doIf_wf | intro _ | split | fail)

theorem execSplatBwd_wf (q : QueueId) (order : List (ℕ × ℕ)) (check : Check) (env : Env) (s : State) (t_ : State) (h_ : execSplatBwd q order check env s = .next t_) (hw : s.mem.wf = true) : t_.mem.wf = true := by
  simp only [execSplatBwd] at h_
  (repeat' split at h_) <;> rw [← Host.Outcome.next.inj h_] <;> repeat' (first | with_reducible assumption | with_reducible apply State.beginSplat_wf | with_reducible apply State.bwdRun_wf | with_reducible apply State.at_wf | with_reducible apply foldl_wf | with_reducible apply State.doIf_wf | intro _ | split | fail)

theorem execGroupLaunch_wf (core : CoreId) (env : Env) (s : State) (t_ : State) (h_ : execGroupLaunch core env s = .next t_) (hw : s.mem.wf = true) : t_.mem.wf = true := by
  simp only [execGroupLaunch] at h_
  (repeat' split at h_) <;> rw [← Host.Outcome.next.inj h_] <;> repeat' (first | with_reducible assumption | with_reducible apply State.dispatch_wf | with_reducible apply State.at_wf | with_reducible apply State.launchCalls_wf | with_reducible apply State.preemptPart_wf | with_reducible apply foldl_wf | with_reducible apply State.doIf_wf | intro _ | split | fail)

theorem execGroupRestore_wf (g : GroupRef) (env : Env) (s : State) (t_ : State) (h_ : execGroupRestore g env s = .next t_) (hw : s.mem.wf = true) : t_.mem.wf = true := by
  simp only [execGroupRestore] at h_
  (repeat' split at h_) <;> rw [← Host.Outcome.next.inj h_] <;> repeat' (first | with_reducible assumption | with_reducible apply State.acceptMore_wf | with_reducible apply State.restoreGroup_wf | with_reducible apply State.at_wf | with_reducible apply State.restoreBlocks_wf | with_reducible apply foldl_wf | with_reducible apply State.doIf_wf | intro _ | split | fail)

theorem execSetDeadline_wf (q : QueueId) (t : ℕ) (s : State) (t_ : State) (h_ : execSetDeadline q t s = .next t_) (hw : s.mem.wf = true) : t_.mem.wf = true := by
  simp only [execSetDeadline] at h_
  (repeat' split at h_) <;> rw [← Host.Outcome.next.inj h_] <;> repeat' (first | with_reducible assumption | with_reducible apply State.finish_wf | with_reducible apply State.arm_wf | with_reducible apply State.deadlineIdle_wf | with_reducible apply State.at_wf | with_reducible apply State.finishOk_wf | with_reducible apply State.keepLate_wf | with_reducible apply State.dropSummary_wf | with_reducible apply foldl_wf | with_reducible apply State.doIf_wf | intro _ | split | fail)

theorem execPreemptionTimer_wf (p : PartId) (env : Env) (s : State) (t_ : State) (h_ : execPreemptionTimer p env s = .next t_) (hw : s.mem.wf = true) : t_.mem.wf = true := by
  simp only [execPreemptionTimer] at h_
  (repeat' split at h_) <;> rw [← Host.Outcome.next.inj h_] <;> repeat' (first | with_reducible assumption | with_reducible apply State.fire_wf | with_reducible apply State.enterFiring_wf | with_reducible apply State.steepWord_wf | with_reducible apply foldl_wf | with_reducible apply State.doIf_wf | intro _ | split | fail)

theorem execDecisionTimer_wf (p : PartId) (check : Check) (env : Env) (s : State) (t_ : State) (h_ : execDecisionTimer p check env s = .next t_) (hw : s.mem.wf = true) : t_.mem.wf = true := by
  simp only [execDecisionTimer] at h_
  (repeat' split at h_) <;> rw [← Host.Outcome.next.inj h_] <;> repeat' (first | with_reducible assumption | with_reducible apply State.fire_wf | with_reducible apply State.decideReproj_wf | with_reducible apply State.steepWord_wf | with_reducible apply foldl_wf | with_reducible apply State.doIf_wf | intro _ | split | fail)

theorem execReprojectionPresent_wf (p : PartId) (env : Env) (s : State) (t_ : State) (h_ : execReprojectionPresent p env s = .next t_) (hw : s.mem.wf = true) : t_.mem.wf = true := by
  simp only [execReprojectionPresent] at h_
  (repeat' split at h_) <;> rw [← Host.Outcome.next.inj h_] <;> repeat' (first | with_reducible assumption | with_reducible apply State.reproject_wf | with_reducible apply State.at_wf | with_reducible apply foldl_wf | with_reducible apply State.doIf_wf | intro _ | split | fail)

theorem execCsrReadClear_wf (a : Access) (s : State) (t_ : State) (h_ : execCsrReadClear a s = .next t_) (hw : s.mem.wf = true) : t_.mem.wf = true := wf_of_frame (execCsrReadClear_frame _ _ _ h_) (by decide) hw

theorem execLinkUp_wf (l : LinkId) (t : ℕ) (s : State) (t_ : State) (h_ : execLinkUp l t s = .next t_) (hw : s.mem.wf = true) : t_.mem.wf = true := wf_of_frame (execLinkUp_frame _ _ _ _ h_) (by decide) hw

theorem execLinkDown_wf (l : LinkId) (t : ℕ) (s : State) (t_ : State) (h_ : execLinkDown l t s = .next t_) (hw : s.mem.wf = true) : t_.mem.wf = true := by
  simp only [execLinkDown] at h_
  (repeat' split at h_) <;> rw [← Host.Outcome.next.inj h_] <;> repeat' (first | with_reducible assumption | with_reducible apply State.updSess_wf | with_reducible apply State.at_wf | with_reducible apply State.loseSess_wf | with_reducible apply foldl_wf | with_reducible apply State.doIf_wf | intro _ | split | fail)

theorem execFwdSessionOpen_wf (q : QueueId) (t : ℕ) (s : State) (t_ : State) (h_ : execFwdSessionOpen q t s = .next t_) (hw : s.mem.wf = true) : t_.mem.wf = true := wf_of_frame (execFwdSessionOpen_frame _ _ _ _ h_) (by decide) hw

theorem execFwdSessionDrain_wf (q : QueueId) (t : ℕ) (s : State) (t_ : State) (h_ : execFwdSessionDrain q t s = .next t_) (hw : s.mem.wf = true) : t_.mem.wf = true := wf_of_frame (execFwdSessionDrain_frame _ _ _ _ h_) (by decide) hw

theorem execHello_wf (l : LinkId) (lo : Byte) (chip : W32) (_expected : W32) (t : ℕ) (s : State) (t_ : State) (h_ : execHello l lo chip _expected t s = .next t_) (hw : s.mem.wf = true) : t_.mem.wf = true := by
  simp only [execHello] at h_
  (repeat' split at h_) <;> rw [← Host.Outcome.next.inj h_] <;> repeat' (first | with_reducible assumption | with_reducible apply State.headerSeen_wf | with_reducible apply State.failSess_wf | with_reducible apply State.updSess_wf | with_reducible apply State.at_wf | with_reducible apply State.restartSess_wf | with_reducible apply State.enterSess_wf | with_reducible apply foldl_wf | with_reducible apply State.doIf_wf | intro _ | split | fail)

theorem execAdv_wf (l : LinkId) (body : AdvBody) (t : ℕ) (s : State) (t_ : State) (h_ : execAdv l body t s = .next t_) (hw : s.mem.wf = true) : t_.mem.wf = true := wf_of_frame (execAdv_frame _ _ _ _ _ h_) (by decide) hw

theorem execAgree_wf (l : LinkId) (lo : Byte) (body : AgreeBody) (t : ℕ) (s : State) (t_ : State) (h_ : execAgree l lo body t s = .next t_) (hw : s.mem.wf = true) : t_.mem.wf = true := wf_of_frame (execAgree_frame _ _ _ _ _ _ h_) (by decide) hw

theorem execCredit_wf (l : LinkId) (lo : Byte) (grants : Credits) (t : ℕ) (s : State) (t_ : State) (h_ : execCredit l lo grants t s = .next t_) (hw : s.mem.wf = true) : t_.mem.wf = true := wf_of_frame (execCredit_frame _ _ _ _ _ _ h_) (by decide) hw

theorem execSessionTimeout_wf (l : LinkId) (t : ℕ) (s : State) (t_ : State) (h_ : execSessionTimeout l t s = .next t_) (hw : s.mem.wf = true) : t_.mem.wf = true := by
  simp only [execSessionTimeout] at h_
  (repeat' split at h_) <;> rw [← Host.Outcome.next.inj h_] <;> repeat' (first | with_reducible assumption | with_reducible apply State.fire_wf | with_reducible apply State.timerAdd_wf | with_reducible apply State.sendState_wf | with_reducible apply State.failSess_wf | with_reducible apply State.updSess_wf | with_reducible apply foldl_wf | with_reducible apply State.doIf_wf | intro _ | split | fail)

theorem execDrain_wf (l : LinkId) (lo : Byte) (t : ℕ) (s : State) (t_ : State) (h_ : execDrain l lo t s = .next t_) (hw : s.mem.wf = true) : t_.mem.wf = true := wf_of_frame (execDrain_frame _ _ _ _ _ h_) (by decide) hw

theorem execDrainDone_wf (l : LinkId) (lo : Byte) (t : ℕ) (s : State) (t_ : State) (h_ : execDrainDone l lo t s = .next t_) (hw : s.mem.wf = true) : t_.mem.wf = true := wf_of_frame (execDrainDone_frame _ _ _ _ _ h_) (by decide) hw

theorem execForcedDrain_wf (l : LinkId) (t : ℕ) (s : State) (t_ : State) (h_ : execForcedDrain l t s = .next t_) (hw : s.mem.wf = true) : t_.mem.wf = true := by
  simp only [execForcedDrain] at h_
  (repeat' split at h_) <;> rw [← Host.Outcome.next.inj h_] <;> repeat' (first | with_reducible assumption | with_reducible apply State.fire_wf | with_reducible apply State.endDrain_wf | with_reducible apply State.loseOwners_wf | with_reducible apply foldl_wf | with_reducible apply State.doIf_wf | intro _ | split | fail)

theorem execKeepalive_wf (l : LinkId) (lo : Byte) (t : ℕ) (s : State) (t_ : State) (h_ : execKeepalive l lo t s = .next t_) (hw : s.mem.wf = true) : t_.mem.wf = true := wf_of_frame (execKeepalive_frame _ _ _ _ _ h_) (by decide) hw

theorem execKeepaliveTimer_wf (l : LinkId) (t : ℕ) (s : State) (t_ : State) (h_ : execKeepaliveTimer l t s = .next t_) (hw : s.mem.wf = true) : t_.mem.wf = true := by
  simp only [execKeepaliveTimer] at h_
  (repeat' split at h_) <;> rw [← Host.Outcome.next.inj h_] <;> repeat' (first | with_reducible assumption | with_reducible apply State.fire_wf | with_reducible apply State.emit_wf | with_reducible apply foldl_wf | with_reducible apply State.doIf_wf | intro _ | split | fail)

theorem execKeepaliveLost_wf (l : LinkId) (t : ℕ) (s : State) (t_ : State) (h_ : execKeepaliveLost l t s = .next t_) (hw : s.mem.wf = true) : t_.mem.wf = true := by
  simp only [execKeepaliveLost] at h_
  (repeat' split at h_) <;> rw [← Host.Outcome.next.inj h_] <;> repeat' (first | with_reducible assumption | with_reducible apply State.fire_wf | with_reducible apply State.loseSess_wf | with_reducible apply foldl_wf | with_reducible apply State.doIf_wf | intro _ | split | fail)

theorem execCreditReturn_wf (l : LinkId) (lo : Byte) (c : Credits) (t : ℕ) (s : State) (t_ : State) (h_ : execCreditReturn l lo c t s = .next t_) (hw : s.mem.wf = true) : t_.mem.wf = true := wf_of_frame (execCreditReturn_frame _ _ _ _ _ _ h_) (by decide) hw

theorem execCreditReturnTimer_wf (l : LinkId) (t : ℕ) (s : State) (t_ : State) (h_ : execCreditReturnTimer l t s = .next t_) (hw : s.mem.wf = true) : t_.mem.wf = true := by
  simp only [execCreditReturnTimer] at h_
  (repeat' split at h_) <;> rw [← Host.Outcome.next.inj h_] <;> repeat' (first | with_reducible assumption | with_reducible apply State.fire_wf | with_reducible apply State.payBack_wf | with_reducible apply foldl_wf | with_reducible apply State.doIf_wf | intro _ | split | fail)

theorem execBypassReopen_wf (t : ℕ) (s : State) (t_ : State) (h_ : execBypassReopen t s = .next t_) (hw : s.mem.wf = true) : t_.mem.wf = true := by
  simp only [execBypassReopen] at h_
  (repeat' split at h_) <;> rw [← Host.Outcome.next.inj h_] <;> repeat' (first | with_reducible assumption | with_reducible apply State.fire_wf | with_reducible apply State.ringDowns_wf | with_reducible apply State.boot9_wf | with_reducible apply State.retrain_wf | with_reducible apply foldl_wf | with_reducible apply State.doIf_wf | intro _ | split | fail)

theorem execOwnerPublish_wf (q : QueueId) (env : Env) (s : State) (t_ : State) (h_ : execOwnerPublish q env s = .next t_) (hw : s.mem.wf = true) : t_.mem.wf = true := by
  simp only [execOwnerPublish] at h_
  (repeat' split at h_) <;> rw [← Host.Outcome.next.inj h_] <;> repeat' (first | with_reducible assumption | with_reducible apply State.updCmd_wf | with_reducible apply State.fault_wf | with_reducible apply State.finish_wf | with_reducible apply State.at_wf | with_reducible apply State.startRing_wf | with_reducible apply foldl_wf | with_reducible apply State.doIf_wf | intro _ | split | fail)

theorem execOwnerEntries_wf (l : LinkId) (hdr : MsgHdr) (epoch : W32) (total : W32) (entries : List W64) (t : ℕ) (s : State) (t_ : State) (h_ : execOwnerEntries l hdr epoch total entries t s = .next t_) (hw : s.mem.wf = true) : t_.mem.wf = true := by
  simp only [execOwnerEntries] at h_
  (repeat' split at h_) <;> rw [← Host.Outcome.next.inj h_] <;> repeat' (first | with_reducible assumption | with_reducible apply State.commitOwn_wf | with_reducible apply State.countOrphan_wf | with_reducible apply State.stageEntries_wf | with_reducible apply State.oweRing_wf | with_reducible apply State.at_wf | with_reducible apply State.passOn_wf | with_reducible apply State.ringBack_wf | with_reducible apply State.arrived_wf | with_reducible apply foldl_wf | with_reducible apply State.doIf_wf | intro _ | split | fail)

theorem execEpochCommit_wf (l : LinkId) (hdr : MsgHdr) (epoch : W32) (total : W32) (applied : W16) (missed : W16) (t : ℕ) (s : State) (t_ : State) (h_ : execEpochCommit l hdr epoch total applied missed t s = .next t_) (hw : s.mem.wf = true) : t_.mem.wf = true := by
  simp only [execEpochCommit] at h_
  (repeat' split at h_) <;> rw [← Host.Outcome.next.inj h_] <;> repeat' (first | with_reducible assumption | with_reducible apply State.commitOther_wf | with_reducible apply State.countOrphan_wf | with_reducible apply State.oweRing_wf | with_reducible apply State.at_wf | with_reducible apply State.passOn_wf | with_reducible apply State.ringBack_wf | with_reducible apply State.arrived_wf | with_reducible apply State.endPublish_wf | with_reducible apply foldl_wf | with_reducible apply State.doIf_wf | intro _ | split | fail)

theorem execRingTimeout_wf (seq : ℕ) (t : ℕ) (s : State) (t_ : State) (h_ : execRingTimeout seq t s = .next t_) (hw : s.mem.wf = true) : t_.mem.wf = true := by
  simp only [execRingTimeout] at h_
  (repeat' split at h_) <;> rw [← Host.Outcome.next.inj h_] <;> repeat' (first | with_reducible assumption | with_reducible apply State.fire_wf | with_reducible apply State.timerAdd_wf | with_reducible apply State.endPublish_wf | with_reducible apply State.downstream_wf | with_reducible apply foldl_wf | with_reducible apply State.doIf_wf | intro _ | split | fail)

theorem execOwnerReload_wf (req : Requester) (value : W64) (env : Env) (s : State) (t_ : State) (h_ : execOwnerReload req value env s = .next t_) (hw : s.mem.wf = true) : t_.mem.wf = true := by
  simp only [execOwnerReload] at h_
  (repeat' split at h_) <;> rw [← Host.Outcome.next.inj h_] <;> repeat' (first | with_reducible assumption | with_reducible apply State.globalWrite_wf | with_reducible apply State.at_wf | with_reducible apply State.regOwnCtl_wf | with_reducible apply foldl_wf | with_reducible apply State.doIf_wf | intro _ | split | fail)

theorem execOwnerTableFetch_wf (env : Env) (s : State) (t_ : State) (h_ : execOwnerTableFetch env s = .next t_) (hw : s.mem.wf = true) : t_.mem.wf = true := by
  simp only [execOwnerTableFetch] at h_
  (repeat' split at h_) <;> rw [← Host.Outcome.next.inj h_] <;> repeat' (first | with_reducible assumption | with_reducible apply State.bootStep_wf | with_reducible apply State.toReady_wf | with_reducible apply State.at_wf | with_reducible apply State.reload_wf | with_reducible apply foldl_wf | with_reducible apply State.doIf_wf | intro _ | split | fail)

theorem execMmuGo_wf (req : Requester) (value : W32) (env : Env) (s : State) (t_ : State) (h_ : execMmuGo req value env s = .next t_) (hw : s.mem.wf = true) : t_.mem.wf = true := by
  simp only [execMmuGo] at h_
  (repeat' split at h_) <;> rw [← Host.Outcome.next.inj h_] <;> repeat' (first | with_reducible assumption | with_reducible apply State.globalWrite_wf | with_reducible apply State.regBootCtl_wf | with_reducible apply State.at_wf | with_reducible apply foldl_wf | with_reducible apply State.doIf_wf | intro _ | split | fail)

theorem execChipId_wf (req : Requester) (value : W32) (t : ℕ) (s : State) (t_ : State) (h_ : execChipId req value t s = .next t_) (hw : s.mem.wf = true) : t_.mem.wf = true := wf_of_frame (execChipId_frame _ _ _ _ _ h_) (by decide) hw

theorem execTranslationWalk_wf (p : PartId) (va : ℕ) (kind : AccKind) (who : WalkFor) (check : Check) (level : Fin 5) (env : Env) (s : State) (t_ : State) (h_ : execTranslationWalk p va kind who check level env s = .next t_) (hw : s.mem.wf = true) : t_.mem.wf = true := by
  simp only [execTranslationWalk] at h_
  (repeat' split at h_) <;> rw [← Host.Outcome.next.inj h_] <;> repeat' (first | with_reducible assumption | with_reducible apply State.walkLost_wf | with_reducible apply State.walkFault_wf | with_reducible apply State.errCorrected_wf | with_reducible apply State.tlbDrop_wf | with_reducible apply State.walkReads_wf | with_reducible apply State.at_wf | with_reducible apply State.tlbFill_wf | with_reducible apply foldl_wf | with_reducible apply State.doIf_wf | intro _ | split | fail)

theorem execMmuInval_wf (req : Requester) (p : PartId) (value : W64) (s : State) (t_ : State) (h_ : execMmuInval req p value s = .next t_) (hw : s.mem.wf = true) : t_.mem.wf = true := wf_of_frame (execMmuInval_frame _ _ _ _ _ h_) (by decide) hw

theorem execInvalComplete_wf (p : PartId) (env : Env) (s : State) (t_ : State) (h_ : execInvalComplete p env s = .next t_) (hw : s.mem.wf = true) : t_.mem.wf = true := by
  simp only [execInvalComplete] at h_
  (repeat' split at h_) <;> rw [← Host.Outcome.next.inj h_] <;> repeat' (first | with_reducible assumption | with_reducible apply State.fqRetry_wf | with_reducible apply State.at_wf | with_reducible apply State.beginInval_wf | with_reducible apply State.updPart_wf | with_reducible apply foldl_wf | with_reducible apply State.doIf_wf | intro _ | split | fail)

theorem execFaultReplay_wf (req : Requester) (p : PartId) (value : W32) (env : Env) (s : State) (t_ : State) (h_ : execFaultReplay req p value env s = .next t_) (hw : s.mem.wf = true) : t_.mem.wf = true := by
  simp only [execFaultReplay] at h_
  (repeat' split at h_) <;> rw [← Host.Outcome.next.inj h_] <;> repeat' (first | with_reducible assumption | with_reducible apply State.regFaultReplay_wf | with_reducible apply State.at_wf | with_reducible apply State.pageWrite_wf | with_reducible apply foldl_wf | with_reducible apply State.doIf_wf | intro _ | split | fail)

theorem execFaultAbort_wf (req : Requester) (p : PartId) (value : W32) (env : Env) (s : State) (t_ : State) (h_ : execFaultAbort req p value env s = .next t_) (hw : s.mem.wf = true) : t_.mem.wf = true := by
  simp only [execFaultAbort] at h_
  (repeat' split at h_) <;> rw [← Host.Outcome.next.inj h_] <;> repeat' (first | with_reducible assumption | with_reducible apply State.regFaultReplay_wf | with_reducible apply State.at_wf | with_reducible apply State.pageWrite_wf | with_reducible apply foldl_wf | with_reducible apply State.doIf_wf | intro _ | split | fail)

theorem execFqAck_wf (req : Requester) (p : PartId) (value : W32) (env : Env) (s : State) (t_ : State) (h_ : execFqAck req p value env s = .next t_) (hw : s.mem.wf = true) : t_.mem.wf = true := by
  simp only [execFqAck] at h_
  (repeat' split at h_) <;> rw [← Host.Outcome.next.inj h_] <;> repeat' (first | with_reducible assumption | with_reducible apply State.regFqAck_wf | with_reducible apply State.at_wf | with_reducible apply State.pageWrite_wf | with_reducible apply foldl_wf | with_reducible apply State.doIf_wf | intro _ | split | fail)

theorem execPartitionReset_wf (req : Requester) (flr : Bool) (p : PartId) (s : State) (t_ : State) (h_ : execPartitionReset req flr p s = .next t_) (hw : s.mem.wf = true) : t_.mem.wf = true := by
  simp only [execPartitionReset] at h_
  (repeat' split at h_) <;> rw [← Host.Outcome.next.inj h_] <;> repeat' (first | with_reducible assumption | with_reducible apply State.busWrite_wf | with_reducible apply State.beginReset_wf | with_reducible apply State.regPartReset_wf | with_reducible apply foldl_wf | with_reducible apply State.doIf_wf | intro _ | split | fail)

theorem execPartitionResetDone_wf (p : PartId) (s : State) (t_ : State) (h_ : execPartitionResetDone p s = .next t_) (hw : s.mem.wf = true) : t_.mem.wf = true := by
  simp only [execPartitionResetDone] at h_
  (repeat' split at h_) <;> rw [← Host.Outcome.next.inj h_] <;> repeat' (first | with_reducible assumption | with_reducible apply State.closeFaults_wf | with_reducible apply State.drainAll_wf | with_reducible apply State.grantPorts_wf | with_reducible apply State.discardResults_wf | with_reducible apply State.timerDelIf_wf | with_reducible apply State.resetQueues_wf | with_reducible apply State.discardSlots_wf | with_reducible apply State.resetPage_wf | with_reducible apply State.cachesClean_wf | with_reducible apply State.traceUnpin_wf | with_reducible apply State.irqBlock_wf | with_reducible apply foldl_wf | with_reducible apply State.doIf_wf | intro _ | split | fail)

theorem execDbgRead_wf (req : Requester) (value : W32) (check : Check) (s : State) (t_ : State) (h_ : execDbgRead req value check s = .next t_) (hw : s.mem.wf = true) : t_.mem.wf = true := by
  simp only [execDbgRead] at h_
  (repeat' split at h_) <;> rw [← Host.Outcome.next.inj h_] <;> repeat' (first | with_reducible assumption | with_reducible apply State.regDbgCmd_wf | with_reducible apply State.dbgAccess_wf | with_reducible apply foldl_wf | with_reducible apply State.doIf_wf | intro _ | split | fail)

theorem execDbgWrite_wf (req : Requester) (value : W32) (s : State) (t_ : State) (h_ : execDbgWrite req value s = .next t_) (hw : s.mem.wf = true) : t_.mem.wf = true := by
  simp only [execDbgWrite] at h_
  (repeat' split at h_) <;> rw [← Host.Outcome.next.inj h_] <;> repeat' (first | with_reducible assumption | with_reducible apply State.regDbgCmd_wf | with_reducible apply State.dbgAccess_wf | with_reducible apply foldl_wf | with_reducible apply State.doIf_wf | intro _ | split | fail)

theorem execCsrWrite_wf (a : Access) (env : Env) (s : State) (t_ : State) (h_ : execCsrWrite a env s = .next t_) (hw : s.mem.wf = true) : t_.mem.wf = true := by
  simp only [execCsrWrite] at h_
  (repeat' split at h_) <;> rw [← Host.Outcome.next.inj h_] <;> repeat' (first | with_reducible assumption | with_reducible apply State.busError_wf | with_reducible apply State.busWrite_wf | with_reducible apply State.globalPut_wf | with_reducible apply State.pagePut_wf | with_reducible apply State.at_wf | with_reducible apply foldl_wf | with_reducible apply State.doIf_wf | intro _ | split | fail)

theorem execFwdRay_wf (l : LinkId) (hdr : MsgHdr) (body : FwdRayBody) (env : Env) (s : State) (t_ : State) (h_ : execFwdRay l hdr body env s = .next t_) (hw : s.mem.wf = true) : t_.mem.wf = true := by
  simp only [execFwdRay] at h_
  (repeat' split at h_) <;> rw [← Host.Outcome.next.inj h_] <;> repeat' (first | with_reducible assumption | with_reducible apply State.queryIn_wf | with_reducible apply State.runRay_wf | with_reducible apply State.takeQuery_wf | with_reducible apply foldl_wf | with_reducible apply State.doIf_wf | intro _ | split | fail)

theorem execFwdProbe_wf (l : LinkId) (hdr : MsgHdr) (body : FwdProbeBody) (env : Env) (s : State) (t_ : State) (h_ : execFwdProbe l hdr body env s = .next t_) (hw : s.mem.wf = true) : t_.mem.wf = true := by
  simp only [execFwdProbe] at h_
  (repeat' split at h_) <;> rw [← Host.Outcome.next.inj h_] <;> repeat' (first | with_reducible assumption | with_reducible apply State.queryIn_wf | with_reducible apply State.takeQuery_wf | with_reducible apply State.runBundle_wf | with_reducible apply foldl_wf | with_reducible apply State.doIf_wf | intro _ | split | fail)

theorem execReduceReq_wf (l : LinkId) (hdr : MsgHdr) (body : ReduceReqBody) (env : Env) (s : State) (t_ : State) (h_ : execReduceReq l hdr body env s = .next t_) (hw : s.mem.wf = true) : t_.mem.wf = true := by
  simp only [execReduceReq] at h_
  (repeat' split at h_) <;> rw [← Host.Outcome.next.inj h_] <;> repeat' (first | with_reducible assumption | with_reducible apply State.queryIn_wf | with_reducible apply State.runReduce_wf | with_reducible apply State.takeQuery_wf | with_reducible apply foldl_wf | with_reducible apply State.doIf_wf | intro _ | split | fail)

theorem execLeaseExtendTimer_wf (slot : ℕ) (t : ℕ) (s : State) (t_ : State) (h_ : execLeaseExtendTimer slot t s = .next t_) (hw : s.mem.wf = true) : t_.mem.wf = true := by
  simp only [execLeaseExtendTimer] at h_
  (repeat' split at h_) <;> rw [← Host.Outcome.next.inj h_] <;> repeat' (first | with_reducible assumption | with_reducible apply State.fire_wf | with_reducible apply State.timerAdd_wf | with_reducible apply State.send_wf | with_reducible apply foldl_wf | with_reducible apply State.doIf_wf | intro _ | split | fail)

theorem execCancel_wf (l : LinkId) (hdr : MsgHdr) (t : ℕ) (s : State) (t_ : State) (h_ : execCancel l hdr t s = .next t_) (hw : s.mem.wf = true) : t_.mem.wf = true := by
  simp only [execCancel] at h_
  (repeat' split at h_) <;> rw [← Host.Outcome.next.inj h_] <;> repeat' (first | with_reducible assumption | with_reducible apply State.dropForeign_wf | with_reducible apply State.relay_wf | with_reducible apply State.at_wf | with_reducible apply State.arrived_wf | with_reducible apply foldl_wf | with_reducible apply State.doIf_wf | intro _ | split | fail)

end Sys2Proof.Machine
end

