-- ==== Sys2Proof/Laws/Comp.lean ====
section
/-!
SUPPORT. Sys2Proof/Laws/Comp.lean: from equal blanks to equal components, and from a frame mask to the list of components it names.
-/

namespace Sys2Proof.Machine
open Sys2Proof

/-- The mask bit of a component. -/
def Comp.idx (c : Comp) : Nat :=
  match c with
  | .die => 0
  | .bypass => 1
  | .now => 2
  | .irqs => 3
  | .resp => 4
  | .sent => 5
  | .links => 6
  | .presents => 7
  | .bootState => 8
  | .bootProg => 9
  | .chip => 10
  | .mcode => 11
  | .lock => 12
  | .csr => 13
  | .ptab => 14
  | .caddies => 15
  | .applied => 16
  | .image => 17
  | .parts => 18
  | .queues => 19
  | .front => 20
  | .mem => 21
  | .slots => 22
  | .banks => 23
  | .herd => 24
  | .tus => 25
  | .arr => 26
  | .pwr => 27
  | .ret => 28
  | .strain => 29
  | .setter => 30
  | .vis => 31
  | .owners => 32
  | .sess => 33
  | .fwd => 34
  | .tlb => 35
  | .faults => 36
  | .steep => 37
  | .trace => 38
  | .dbg => 39
  | .err => 40
  | .fresh => 41

/-- The mask of a list of components. -/
def Comp.maskOf : List Comp → BitVec 48
  | [] => 0
  | c :: l => BitVec.twoPow 48 c.idx ||| maskOf l

theorem Comp.not_mem_mask (c : Comp) (l : List Comp) (h : c ∉ l) : (Comp.maskOf l).getLsbD c.idx = false := by
  induction l with
  | nil => simp [Comp.maskOf]
  | cons d r ih =>
    simp only [List.mem_cons, not_or] at h
    have e : ∀ c d : Comp, c ≠ d → (BitVec.twoPow 48 d.idx).getLsbD c.idx = false := by
      intro c d; cases c <;> cases d <;> decide
    simp only [Comp.maskOf, BitVec.getLsbD_or, ih h.2, e c d h.1, Bool.or_false]

/-- What a mask does not blank is in the blank as it was. -/
theorem of_unblanked {α : Type} {m : BitVec 48} {k : Nat} {r x y : α} (h : m.getLsbD k = false)
    (e : (bif m.getLsbD k then r else x) = (bif m.getLsbD k then r else y)) : x = y := by
  rw [h] at e
  exact e

/-- Two states with one blank agree in every component the mask does not name. -/
theorem same_of_blank {m : BitVec 48} {s t : State} (e : blank m t = blank m s) (c : Comp) (hm : m.getLsbD c.idx = false) : c.same s t :=
  match c, hm with
  | .die, hm => ⟨of_unblanked hm (congrArg (·.pins.powered) e), of_unblanked hm (congrArg (·.pins.inReset) e), of_unblanked hm (congrArg (·.pins.forced) e),
      of_unblanked hm (congrArg (·.pins.portMap) e), of_unblanked hm (congrArg (·.pins.linkUp) e), of_unblanked hm (congrArg (·.pins.hotWest) e),
      of_unblanked hm (congrArg (·.pins.hotEast) e), of_unblanked hm (congrArg (·.pins.flrDone) e), of_unblanked hm (congrArg (·.pins.portWords) e)⟩
  | .bypass, hm => of_unblanked hm (congrArg (·.pins.bypass) e)
  | .now, hm => of_unblanked hm (congrArg (·.pins.now) e)
  | .irqs, hm => of_unblanked hm (congrArg (·.pins.irqs) e)
  | .resp, hm => of_unblanked hm (congrArg (·.pins.resp) e)
  | .sent, hm => of_unblanked hm (congrArg (·.pins.sent) e)
  | .links, hm => of_unblanked hm (congrArg (·.pins.links) e)
  | .presents, hm => of_unblanked hm (congrArg (·.pins.presents) e)
  | .bootState, hm => of_unblanked hm (congrArg (·.boot.state) e)
  | .bootProg, hm => ⟨of_unblanked hm (congrArg (·.boot.step) e), of_unblanked hm (congrArg (·.boot.bp) e), of_unblanked hm (congrArg (·.boot.stall) e),
      of_unblanked hm (congrArg (·.boot.detail) e), of_unblanked hm (congrArg (·.boot.bootIrq) e), of_unblanked hm (congrArg (·.boot.resetIrq) e),
      of_unblanked hm (congrArg (·.boot.ringRetry) e)⟩
  | .chip, hm => ⟨of_unblanked hm (congrArg (·.boot.chipId) e), of_unblanked hm (congrArg (·.boot.chipSet) e), of_unblanked hm (congrArg (·.boot.caps) e),
      of_unblanked hm (congrArg (·.boot.spareFused) e), of_unblanked hm (congrArg (·.boot.sramRepairs) e), of_unblanked hm (congrArg (·.boot.chipWritten) e),
      of_unblanked hm (congrArg (·.boot.fuses) e)⟩
  | .mcode, hm => ⟨of_unblanked hm (congrArg (·.boot.mcAddr) e), of_unblanked hm (congrArg (·.boot.mcBusy) e), of_unblanked hm (congrArg (·.boot.mcReason) e),
      of_unblanked hm (congrArg (·.boot.mcAttempts) e), of_unblanked hm (congrArg (·.boot.mcBadGo) e), of_unblanked hm (congrArg (·.boot.mcStore) e)⟩
  | .lock, hm => of_unblanked hm (congrArg (·.csr.unlocked) e)
  | .csr, hm => ⟨of_unblanked hm (congrArg (·.csr.lvCnt) e), of_unblanked hm (congrArg (·.csr.voteCorr) e), of_unblanked hm (congrArg (·.csr.badKey) e),
      of_unblanked hm (congrArg (·.csr.xpart) e), of_unblanked hm (congrArg (·.csr.voteLast) e), of_unblanked hm (congrArg (·.csr.voteFail) e),
      of_unblanked hm (congrArg (·.csr.lockViol) e), of_unblanked hm (congrArg (·.csr.cfgIrq) e), of_unblanked hm (congrArg (·.csr.voteIrq) e),
      of_unblanked hm (congrArg (·.csr.lvIrq) e), of_unblanked hm (congrArg (·.csr.hold) e)⟩
  | .ptab, hm => of_unblanked hm (congrArg (·.cfg.ptab) e)
  | .caddies, hm => ⟨of_unblanked hm (congrArg (·.cfg.caddies) e), of_unblanked hm (congrArg (·.cfg.sel) e)⟩
  | .applied, hm => ⟨of_unblanked hm (congrArg (·.cfg.fpDef) e), of_unblanked hm (congrArg (·.cfg.ringUp) e), of_unblanked hm (congrArg (·.cfg.ringDown) e),
      of_unblanked hm (congrArg (·.cfg.fwdLinks) e), of_unblanked hm (congrArg (·.cfg.fwdReserve) e), of_unblanked hm (congrArg (·.cfg.fwdBundles) e),
      of_unblanked hm (congrArg (·.cfg.fwdStrain) e)⟩
  | .image, hm => ⟨of_unblanked hm (congrArg (·.cfg.freeze) e), of_unblanked hm (congrArg (·.cfg.srcWin) e), of_unblanked hm (congrArg (·.cfg.caddyMask) e),
      of_unblanked hm (congrArg (·.cfg.partMask) e), of_unblanked hm (congrArg (·.cfg.glob) e), of_unblanked hm (congrArg (·.cfg.busy) e), of_unblanked hm (congrArg (·.cfg.src) e),
      of_unblanked hm (congrArg (·.cfg.rptAddr) e), of_unblanked hm (congrArg (·.cfg.rptSize) e), of_unblanked hm (congrArg (·.cfg.clamps) e),
      of_unblanked hm (congrArg (·.cfg.writePos) e), of_unblanked hm (congrArg (·.cfg.overrun) e), of_unblanked hm (congrArg (·.cfg.done) e), of_unblanked hm (congrArg (·.cfg.state) e),
      of_unblanked hm (congrArg (·.cfg.reject) e), of_unblanked hm (congrArg (·.cfg.window) e), of_unblanked hm (congrArg (·.cfg.notes) e),
      of_unblanked hm (congrArg (·.cfg.waitPart) e), of_unblanked hm (congrArg (·.cfg.waitCaddy) e), of_unblanked hm (congrArg (·.cfg.waitGlobal) e)⟩
  | .parts, hm => of_unblanked hm (congrArg (·.parts) e)
  | .queues, hm => of_unblanked hm (congrArg (·.queues) e)
  | .front, hm => of_unblanked hm (congrArg (·.front) e)
  | .mem, hm => of_unblanked hm (congrArg (·.mem) e)
  | .slots, hm => ⟨of_unblanked hm (congrArg (·.kennel.slots) e), of_unblanked hm (congrArg (·.kennel.gens) e), of_unblanked hm (congrArg (·.kennel.stale) e),
      of_unblanked hm (congrArg (·.kennel.visits) e), of_unblanked hm (congrArg (·.kennel.images) e), of_unblanked hm (congrArg (·.kennel.cands) e)⟩
  | .banks, hm => ⟨of_unblanked hm (congrArg (·.kennel.banksOut) e), of_unblanked hm (congrArg (·.kennel.banksBack) e), of_unblanked hm (congrArg (·.kennel.uncorr) e),
      of_unblanked hm (congrArg (·.kennel.corr) e), of_unblanked hm (congrArg (·.kennel.scrubbed) e)⟩
  | .herd, hm => of_unblanked hm (congrArg (·.herd) e)
  | .tus, hm => of_unblanked hm (congrArg (·.arr.tus) e)
  | .arr, hm => ⟨of_unblanked hm (congrArg (·.arr.rows) e), of_unblanked hm (congrArg (·.arr.autoFence) e), of_unblanked hm (congrArg (·.arr.sleepEast) e),
      of_unblanked hm (congrArg (·.arr.sleepWest) e), of_unblanked hm (congrArg (·.arr.dist) e), of_unblanked hm (congrArg (·.arr.east) e), of_unblanked hm (congrArg (·.arr.west) e),
      of_unblanked hm (congrArg (·.arr.sleepRefused) e), of_unblanked hm (congrArg (·.arr.fenceEvent) e), of_unblanked hm (congrArg (·.arr.residueErrs) e),
      of_unblanked hm (congrArg (·.arr.imbSet) e), of_unblanked hm (congrArg (·.arr.imbTu) e), of_unblanked hm (congrArg (·.arr.blkLimit) e),
      of_unblanked hm (congrArg (·.arr.blkDraining) e), of_unblanked hm (congrArg (·.arr.blkTimeout) e), of_unblanked hm (congrArg (·.arr.coresOut) e),
      of_unblanked hm (congrArg (·.arr.unitsOut) e), of_unblanked hm (congrArg (·.arr.coresBack) e), of_unblanked hm (congrArg (·.arr.unitsBack) e)⟩
  | .pwr, hm => of_unblanked hm (congrArg (·.pwr) e)
  | .ret, hm => of_unblanked hm (congrArg (·.ret) e)
  | .strain, hm => of_unblanked hm (congrArg (·.strain) e)
  | .setter, hm => of_unblanked hm (congrArg (·.setter) e)
  | .vis, hm => of_unblanked hm (congrArg (·.vis) e)
  | .owners, hm => ⟨of_unblanked hm (congrArg (·.fwd.ownBase) e), of_unblanked hm (congrArg (·.fwd.nextEpoch) e), of_unblanked hm (congrArg (·.fwd.ownEntries) e),
      of_unblanked hm (congrArg (·.fwd.epoch) e), of_unblanked hm (congrArg (·.fwd.applied) e), of_unblanked hm (congrArg (·.fwd.missed) e),
      of_unblanked hm (congrArg (·.fwd.superseded) e), of_unblanked hm (congrArg (·.fwd.reloadReject) e), of_unblanked hm (congrArg (·.fwd.epochBehind) e),
      of_unblanked hm (congrArg (·.fwd.epochMissed) e), of_unblanked hm (congrArg (·.fwd.reloading) e), of_unblanked hm (congrArg (·.fwd.table) e),
      of_unblanked hm (congrArg (·.fwd.staging) e), of_unblanked hm (congrArg (·.fwd.prevMap) e), of_unblanked hm (congrArg (·.fwd.bad) e)⟩
  | .sess, hm => of_unblanked hm (congrArg (·.fwd.sess) e)
  | .fwd, hm => ⟨of_unblanked hm (congrArg (·.fwd.routeBase) e), of_unblanked hm (congrArg (·.fwd.hostPart) e), of_unblanked hm (congrArg (·.fwd.ringTimeout) e),
      of_unblanked hm (congrArg (·.fwd.ringRetry) e), of_unblanked hm (congrArg (·.fwd.staleDrop) e), of_unblanked hm (congrArg (·.fwd.reissues) e),
      of_unblanked hm (congrArg (·.fwd.fwdFails) e), of_unblanked hm (congrArg (·.fwd.relayDrop) e), of_unblanked hm (congrArg (·.fwd.orphans) e),
      of_unblanked hm (congrArg (·.fwd.ring) e), of_unblanked hm (congrArg (·.fwd.ringSeq) e), of_unblanked hm (congrArg (·.fwd.publish) e),
      of_unblanked hm (congrArg (·.fwd.foreign) e), of_unblanked hm (congrArg (·.fwd.waiting) e), of_unblanked hm (congrArg (·.fwd.cmds) e),
      of_unblanked hm (congrArg (·.fwd.hostNew) e), of_unblanked hm (congrArg (·.fwd.turn) e)⟩
  | .tlb, hm => ⟨of_unblanked hm (congrArg (·.mmu.tlb) e), of_unblanked hm (congrArg (·.mmu.badPtes) e)⟩
  | .faults, hm => of_unblanked hm (congrArg (·.mmu.faults) e)
  | .steep, hm => of_unblanked hm (congrArg (·.steep) e)
  | .trace, hm => of_unblanked hm (congrArg (·.trace) e)
  | .dbg, hm => of_unblanked hm (congrArg (·.dbg) e)
  | .err, hm => of_unblanked hm (congrArg (·.err) e)
  | .fresh, hm => of_unblanked hm (congrArg (·.fresh) e)

/-- Blanking leaves the queue of waiting commands. -/
theorem pending_of_blank {m : BitVec 48} {s t : State} (e : blank m t = blank m s) : t.pending = s.pending :=
  (congrArg State.pending e : (blank m t).pending = (blank m s).pending)

/-- A frame mask within the mask of a list keeps every component outside the list. -/
theorem same_of_mask {m : BitVec 48} {s t : State} (e : blank m t = blank m s) (l : List Comp) (h : m &&& ~~~ Comp.maskOf l = 0)
    (c : Comp) (hc : c ∉ l) : c.same s t := by
  refine same_of_blank e c ?_
  have h1 := Comp.not_mem_mask c l hc
  have h2 := congrArg (fun x => x.getLsbD c.idx) h
  have h3 : c.idx < 48 := by cases c <;> decide
  rw [BitVec.getLsbD_and, BitVec.getLsbD_not, h1] at h2
  simpa [h3] using h2

/-! ## One component: its frame from the blank of all the others -/

theorem Comp.same_die {s t : State} (e : blank 0xFFFFFFFFFFFE#48 t = blank 0xFFFFFFFFFFFE#48 s) : Comp.die.same s t := same_of_blank e .die (by decide)
theorem Comp.same_bypass {s t : State} (e : blank 0xFFFFFFFFFFFD#48 t = blank 0xFFFFFFFFFFFD#48 s) : Comp.bypass.same s t := same_of_blank e .bypass (by decide)
theorem Comp.same_now {s t : State} (e : blank 0xFFFFFFFFFFFB#48 t = blank 0xFFFFFFFFFFFB#48 s) : Comp.now.same s t := same_of_blank e .now (by decide)
theorem Comp.same_irqs {s t : State} (e : blank 0xFFFFFFFFFFF7#48 t = blank 0xFFFFFFFFFFF7#48 s) : Comp.irqs.same s t := same_of_blank e .irqs (by decide)
theorem Comp.same_resp {s t : State} (e : blank 0xFFFFFFFFFFEF#48 t = blank 0xFFFFFFFFFFEF#48 s) : Comp.resp.same s t := same_of_blank e .resp (by decide)
theorem Comp.same_sent {s t : State} (e : blank 0xFFFFFFFFFFDF#48 t = blank 0xFFFFFFFFFFDF#48 s) : Comp.sent.same s t := same_of_blank e .sent (by decide)
theorem Comp.same_links {s t : State} (e : blank 0xFFFFFFFFFFBF#48 t = blank 0xFFFFFFFFFFBF#48 s) : Comp.links.same s t := same_of_blank e .links (by decide)
theorem Comp.same_presents {s t : State} (e : blank 0xFFFFFFFFFF7F#48 t = blank 0xFFFFFFFFFF7F#48 s) : Comp.presents.same s t := same_of_blank e .presents (by decide)
theorem Comp.same_bootState {s t : State} (e : blank 0xFFFFFFFFFEFF#48 t = blank 0xFFFFFFFFFEFF#48 s) : Comp.bootState.same s t := same_of_blank e .bootState (by decide)
theorem Comp.same_bootProg {s t : State} (e : blank 0xFFFFFFFFFDFF#48 t = blank 0xFFFFFFFFFDFF#48 s) : Comp.bootProg.same s t := same_of_blank e .bootProg (by decide)
theorem Comp.same_chip {s t : State} (e : blank 0xFFFFFFFFFBFF#48 t = blank 0xFFFFFFFFFBFF#48 s) : Comp.chip.same s t := same_of_blank e .chip (by decide)
theorem Comp.same_mcode {s t : State} (e : blank 0xFFFFFFFFF7FF#48 t = blank 0xFFFFFFFFF7FF#48 s) : Comp.mcode.same s t := same_of_blank e .mcode (by decide)
theorem Comp.same_lock {s t : State} (e : blank 0xFFFFFFFFEFFF#48 t = blank 0xFFFFFFFFEFFF#48 s) : Comp.lock.same s t := same_of_blank e .lock (by decide)
theorem Comp.same_csr {s t : State} (e : blank 0xFFFFFFFFDFFF#48 t = blank 0xFFFFFFFFDFFF#48 s) : Comp.csr.same s t := same_of_blank e .csr (by decide)
theorem Comp.same_ptab {s t : State} (e : blank 0xFFFFFFFFBFFF#48 t = blank 0xFFFFFFFFBFFF#48 s) : Comp.ptab.same s t := same_of_blank e .ptab (by decide)
theorem Comp.same_caddies {s t : State} (e : blank 0xFFFFFFFF7FFF#48 t = blank 0xFFFFFFFF7FFF#48 s) : Comp.caddies.same s t := same_of_blank e .caddies (by decide)
theorem Comp.same_applied {s t : State} (e : blank 0xFFFFFFFEFFFF#48 t = blank 0xFFFFFFFEFFFF#48 s) : Comp.applied.same s t := same_of_blank e .applied (by decide)
theorem Comp.same_image {s t : State} (e : blank 0xFFFFFFFDFFFF#48 t = blank 0xFFFFFFFDFFFF#48 s) : Comp.image.same s t := same_of_blank e .image (by decide)
theorem Comp.same_parts {s t : State} (e : blank 0xFFFFFFFBFFFF#48 t = blank 0xFFFFFFFBFFFF#48 s) : Comp.parts.same s t := same_of_blank e .parts (by decide)
theorem Comp.same_queues {s t : State} (e : blank 0xFFFFFFF7FFFF#48 t = blank 0xFFFFFFF7FFFF#48 s) : Comp.queues.same s t := same_of_blank e .queues (by decide)
theorem Comp.same_front {s t : State} (e : blank 0xFFFFFFEFFFFF#48 t = blank 0xFFFFFFEFFFFF#48 s) : Comp.front.same s t := same_of_blank e .front (by decide)
theorem Comp.same_mem {s t : State} (e : blank 0xFFFFFFDFFFFF#48 t = blank 0xFFFFFFDFFFFF#48 s) : Comp.mem.same s t := same_of_blank e .mem (by decide)
theorem Comp.same_slots {s t : State} (e : blank 0xFFFFFFBFFFFF#48 t = blank 0xFFFFFFBFFFFF#48 s) : Comp.slots.same s t := same_of_blank e .slots (by decide)
theorem Comp.same_banks {s t : State} (e : blank 0xFFFFFF7FFFFF#48 t = blank 0xFFFFFF7FFFFF#48 s) : Comp.banks.same s t := same_of_blank e .banks (by decide)
theorem Comp.same_herd {s t : State} (e : blank 0xFFFFFEFFFFFF#48 t = blank 0xFFFFFEFFFFFF#48 s) : Comp.herd.same s t := same_of_blank e .herd (by decide)
theorem Comp.same_tus {s t : State} (e : blank 0xFFFFFDFFFFFF#48 t = blank 0xFFFFFDFFFFFF#48 s) : Comp.tus.same s t := same_of_blank e .tus (by decide)
theorem Comp.same_arr {s t : State} (e : blank 0xFFFFFBFFFFFF#48 t = blank 0xFFFFFBFFFFFF#48 s) : Comp.arr.same s t := same_of_blank e .arr (by decide)
theorem Comp.same_pwr {s t : State} (e : blank 0xFFFFF7FFFFFF#48 t = blank 0xFFFFF7FFFFFF#48 s) : Comp.pwr.same s t := same_of_blank e .pwr (by decide)
theorem Comp.same_ret {s t : State} (e : blank 0xFFFFEFFFFFFF#48 t = blank 0xFFFFEFFFFFFF#48 s) : Comp.ret.same s t := same_of_blank e .ret (by decide)
theorem Comp.same_strain {s t : State} (e : blank 0xFFFFDFFFFFFF#48 t = blank 0xFFFFDFFFFFFF#48 s) : Comp.strain.same s t := same_of_blank e .strain (by decide)
theorem Comp.same_setter {s t : State} (e : blank 0xFFFFBFFFFFFF#48 t = blank 0xFFFFBFFFFFFF#48 s) : Comp.setter.same s t := same_of_blank e .setter (by decide)
theorem Comp.same_vis {s t : State} (e : blank 0xFFFF7FFFFFFF#48 t = blank 0xFFFF7FFFFFFF#48 s) : Comp.vis.same s t := same_of_blank e .vis (by decide)
theorem Comp.same_owners {s t : State} (e : blank 0xFFFEFFFFFFFF#48 t = blank 0xFFFEFFFFFFFF#48 s) : Comp.owners.same s t := same_of_blank e .owners (by decide)
theorem Comp.same_sess {s t : State} (e : blank 0xFFFDFFFFFFFF#48 t = blank 0xFFFDFFFFFFFF#48 s) : Comp.sess.same s t := same_of_blank e .sess (by decide)
theorem Comp.same_fwd {s t : State} (e : blank 0xFFFBFFFFFFFF#48 t = blank 0xFFFBFFFFFFFF#48 s) : Comp.fwd.same s t := same_of_blank e .fwd (by decide)
theorem Comp.same_tlb {s t : State} (e : blank 0xFFF7FFFFFFFF#48 t = blank 0xFFF7FFFFFFFF#48 s) : Comp.tlb.same s t := same_of_blank e .tlb (by decide)
theorem Comp.same_faults {s t : State} (e : blank 0xFFEFFFFFFFFF#48 t = blank 0xFFEFFFFFFFFF#48 s) : Comp.faults.same s t := same_of_blank e .faults (by decide)
theorem Comp.same_steep {s t : State} (e : blank 0xFFDFFFFFFFFF#48 t = blank 0xFFDFFFFFFFFF#48 s) : Comp.steep.same s t := same_of_blank e .steep (by decide)
theorem Comp.same_trace {s t : State} (e : blank 0xFFBFFFFFFFFF#48 t = blank 0xFFBFFFFFFFFF#48 s) : Comp.trace.same s t := same_of_blank e .trace (by decide)
theorem Comp.same_dbg {s t : State} (e : blank 0xFF7FFFFFFFFF#48 t = blank 0xFF7FFFFFFFFF#48 s) : Comp.dbg.same s t := same_of_blank e .dbg (by decide)
theorem Comp.same_err {s t : State} (e : blank 0xFEFFFFFFFFFF#48 t = blank 0xFEFFFFFFFFFF#48 s) : Comp.err.same s t := same_of_blank e .err (by decide)
theorem Comp.same_fresh {s t : State} (e : blank 0xFDFFFFFFFFFF#48 t = blank 0xFDFFFFFFFFFF#48 s) : Comp.fresh.same s t := same_of_blank e .fresh (by decide)

end Sys2Proof.Machine
end

