-- ==== Sys2Proof/Laws/State.lean ====
section
/-!
SUPPORT. Sys2Proof/Laws/State.lean: what each elementary update leaves of each field of the state, and a read after a write.
-/

set_option linter.all false

namespace Sys2Proof.Machine
open Sys2Proof

/-! ## setPart -/

@[simp] theorem State.setPart_pending (s : State) (p : PartId) (x : Part) : (s.setPart p x).pending = s.pending := rfl
@[simp] theorem State.setPart_pins (s : State) (p : PartId) (x : Part) : (s.setPart p x).pins = s.pins := rfl
@[simp] theorem State.setPart_boot (s : State) (p : PartId) (x : Part) : (s.setPart p x).boot = s.boot := rfl
@[simp] theorem State.setPart_csr (s : State) (p : PartId) (x : Part) : (s.setPart p x).csr = s.csr := rfl
@[simp] theorem State.setPart_cfg (s : State) (p : PartId) (x : Part) : (s.setPart p x).cfg = s.cfg := rfl
@[simp] theorem State.setPart_queues (s : State) (p : PartId) (x : Part) : (s.setPart p x).queues = s.queues := rfl
@[simp] theorem State.setPart_front (s : State) (p : PartId) (x : Part) : (s.setPart p x).front = s.front := rfl
@[simp] theorem State.setPart_mem (s : State) (p : PartId) (x : Part) : (s.setPart p x).mem = s.mem := rfl
@[simp] theorem State.setPart_kennel (s : State) (p : PartId) (x : Part) : (s.setPart p x).kennel = s.kennel := rfl
@[simp] theorem State.setPart_herd (s : State) (p : PartId) (x : Part) : (s.setPart p x).herd = s.herd := rfl
@[simp] theorem State.setPart_arr (s : State) (p : PartId) (x : Part) : (s.setPart p x).arr = s.arr := rfl
@[simp] theorem State.setPart_pwr (s : State) (p : PartId) (x : Part) : (s.setPart p x).pwr = s.pwr := rfl
@[simp] theorem State.setPart_ret (s : State) (p : PartId) (x : Part) : (s.setPart p x).ret = s.ret := rfl
@[simp] theorem State.setPart_strain (s : State) (p : PartId) (x : Part) : (s.setPart p x).strain = s.strain := rfl
@[simp] theorem State.setPart_setter (s : State) (p : PartId) (x : Part) : (s.setPart p x).setter = s.setter := rfl
@[simp] theorem State.setPart_vis (s : State) (p : PartId) (x : Part) : (s.setPart p x).vis = s.vis := rfl
@[simp] theorem State.setPart_fwd (s : State) (p : PartId) (x : Part) : (s.setPart p x).fwd = s.fwd := rfl
@[simp] theorem State.setPart_mmu (s : State) (p : PartId) (x : Part) : (s.setPart p x).mmu = s.mmu := rfl
@[simp] theorem State.setPart_steep (s : State) (p : PartId) (x : Part) : (s.setPart p x).steep = s.steep := rfl
@[simp] theorem State.setPart_trace (s : State) (p : PartId) (x : Part) : (s.setPart p x).trace = s.trace := rfl
@[simp] theorem State.setPart_dbg (s : State) (p : PartId) (x : Part) : (s.setPart p x).dbg = s.dbg := rfl
@[simp] theorem State.setPart_err (s : State) (p : PartId) (x : Part) : (s.setPart p x).err = s.err := rfl
@[simp] theorem State.setPart_fresh (s : State) (p : PartId) (x : Part) : (s.setPart p x).fresh = s.fresh := rfl

/-! ## updPart -/

@[simp] theorem State.updPart_pending (s : State) (p : PartId) (f : Part → Part) : (s.updPart p f).pending = s.pending := rfl
@[simp] theorem State.updPart_pins (s : State) (p : PartId) (f : Part → Part) : (s.updPart p f).pins = s.pins := rfl
@[simp] theorem State.updPart_boot (s : State) (p : PartId) (f : Part → Part) : (s.updPart p f).boot = s.boot := rfl
@[simp] theorem State.updPart_csr (s : State) (p : PartId) (f : Part → Part) : (s.updPart p f).csr = s.csr := rfl
@[simp] theorem State.updPart_cfg (s : State) (p : PartId) (f : Part → Part) : (s.updPart p f).cfg = s.cfg := rfl
@[simp] theorem State.updPart_queues (s : State) (p : PartId) (f : Part → Part) : (s.updPart p f).queues = s.queues := rfl
@[simp] theorem State.updPart_front (s : State) (p : PartId) (f : Part → Part) : (s.updPart p f).front = s.front := rfl
@[simp] theorem State.updPart_mem (s : State) (p : PartId) (f : Part → Part) : (s.updPart p f).mem = s.mem := rfl
@[simp] theorem State.updPart_kennel (s : State) (p : PartId) (f : Part → Part) : (s.updPart p f).kennel = s.kennel := rfl
@[simp] theorem State.updPart_herd (s : State) (p : PartId) (f : Part → Part) : (s.updPart p f).herd = s.herd := rfl
@[simp] theorem State.updPart_arr (s : State) (p : PartId) (f : Part → Part) : (s.updPart p f).arr = s.arr := rfl
@[simp] theorem State.updPart_pwr (s : State) (p : PartId) (f : Part → Part) : (s.updPart p f).pwr = s.pwr := rfl
@[simp] theorem State.updPart_ret (s : State) (p : PartId) (f : Part → Part) : (s.updPart p f).ret = s.ret := rfl
@[simp] theorem State.updPart_strain (s : State) (p : PartId) (f : Part → Part) : (s.updPart p f).strain = s.strain := rfl
@[simp] theorem State.updPart_setter (s : State) (p : PartId) (f : Part → Part) : (s.updPart p f).setter = s.setter := rfl
@[simp] theorem State.updPart_vis (s : State) (p : PartId) (f : Part → Part) : (s.updPart p f).vis = s.vis := rfl
@[simp] theorem State.updPart_fwd (s : State) (p : PartId) (f : Part → Part) : (s.updPart p f).fwd = s.fwd := rfl
@[simp] theorem State.updPart_mmu (s : State) (p : PartId) (f : Part → Part) : (s.updPart p f).mmu = s.mmu := rfl
@[simp] theorem State.updPart_steep (s : State) (p : PartId) (f : Part → Part) : (s.updPart p f).steep = s.steep := rfl
@[simp] theorem State.updPart_trace (s : State) (p : PartId) (f : Part → Part) : (s.updPart p f).trace = s.trace := rfl
@[simp] theorem State.updPart_dbg (s : State) (p : PartId) (f : Part → Part) : (s.updPart p f).dbg = s.dbg := rfl
@[simp] theorem State.updPart_err (s : State) (p : PartId) (f : Part → Part) : (s.updPart p f).err = s.err := rfl
@[simp] theorem State.updPart_fresh (s : State) (p : PartId) (f : Part → Part) : (s.updPart p f).fresh = s.fresh := rfl

/-! ## setQueue -/

@[simp] theorem State.setQueue_pending (s : State) (q : QueueId) (x : Queue) : (s.setQueue q x).pending = s.pending := rfl
@[simp] theorem State.setQueue_pins (s : State) (q : QueueId) (x : Queue) : (s.setQueue q x).pins = s.pins := rfl
@[simp] theorem State.setQueue_boot (s : State) (q : QueueId) (x : Queue) : (s.setQueue q x).boot = s.boot := rfl
@[simp] theorem State.setQueue_csr (s : State) (q : QueueId) (x : Queue) : (s.setQueue q x).csr = s.csr := rfl
@[simp] theorem State.setQueue_cfg (s : State) (q : QueueId) (x : Queue) : (s.setQueue q x).cfg = s.cfg := rfl
@[simp] theorem State.setQueue_parts (s : State) (q : QueueId) (x : Queue) : (s.setQueue q x).parts = s.parts := rfl
@[simp] theorem State.setQueue_front (s : State) (q : QueueId) (x : Queue) : (s.setQueue q x).front = s.front := rfl
@[simp] theorem State.setQueue_mem (s : State) (q : QueueId) (x : Queue) : (s.setQueue q x).mem = s.mem := rfl
@[simp] theorem State.setQueue_kennel (s : State) (q : QueueId) (x : Queue) : (s.setQueue q x).kennel = s.kennel := rfl
@[simp] theorem State.setQueue_herd (s : State) (q : QueueId) (x : Queue) : (s.setQueue q x).herd = s.herd := rfl
@[simp] theorem State.setQueue_arr (s : State) (q : QueueId) (x : Queue) : (s.setQueue q x).arr = s.arr := rfl
@[simp] theorem State.setQueue_pwr (s : State) (q : QueueId) (x : Queue) : (s.setQueue q x).pwr = s.pwr := rfl
@[simp] theorem State.setQueue_ret (s : State) (q : QueueId) (x : Queue) : (s.setQueue q x).ret = s.ret := rfl
@[simp] theorem State.setQueue_strain (s : State) (q : QueueId) (x : Queue) : (s.setQueue q x).strain = s.strain := rfl
@[simp] theorem State.setQueue_setter (s : State) (q : QueueId) (x : Queue) : (s.setQueue q x).setter = s.setter := rfl
@[simp] theorem State.setQueue_vis (s : State) (q : QueueId) (x : Queue) : (s.setQueue q x).vis = s.vis := rfl
@[simp] theorem State.setQueue_fwd (s : State) (q : QueueId) (x : Queue) : (s.setQueue q x).fwd = s.fwd := rfl
@[simp] theorem State.setQueue_mmu (s : State) (q : QueueId) (x : Queue) : (s.setQueue q x).mmu = s.mmu := rfl
@[simp] theorem State.setQueue_steep (s : State) (q : QueueId) (x : Queue) : (s.setQueue q x).steep = s.steep := rfl
@[simp] theorem State.setQueue_trace (s : State) (q : QueueId) (x : Queue) : (s.setQueue q x).trace = s.trace := rfl
@[simp] theorem State.setQueue_dbg (s : State) (q : QueueId) (x : Queue) : (s.setQueue q x).dbg = s.dbg := rfl
@[simp] theorem State.setQueue_err (s : State) (q : QueueId) (x : Queue) : (s.setQueue q x).err = s.err := rfl
@[simp] theorem State.setQueue_fresh (s : State) (q : QueueId) (x : Queue) : (s.setQueue q x).fresh = s.fresh := rfl

/-! ## updQueue -/

@[simp] theorem State.updQueue_pending (s : State) (q : QueueId) (f : Queue → Queue) : (s.updQueue q f).pending = s.pending := rfl
@[simp] theorem State.updQueue_pins (s : State) (q : QueueId) (f : Queue → Queue) : (s.updQueue q f).pins = s.pins := rfl
@[simp] theorem State.updQueue_boot (s : State) (q : QueueId) (f : Queue → Queue) : (s.updQueue q f).boot = s.boot := rfl
@[simp] theorem State.updQueue_csr (s : State) (q : QueueId) (f : Queue → Queue) : (s.updQueue q f).csr = s.csr := rfl
@[simp] theorem State.updQueue_cfg (s : State) (q : QueueId) (f : Queue → Queue) : (s.updQueue q f).cfg = s.cfg := rfl
@[simp] theorem State.updQueue_parts (s : State) (q : QueueId) (f : Queue → Queue) : (s.updQueue q f).parts = s.parts := rfl
@[simp] theorem State.updQueue_front (s : State) (q : QueueId) (f : Queue → Queue) : (s.updQueue q f).front = s.front := rfl
@[simp] theorem State.updQueue_mem (s : State) (q : QueueId) (f : Queue → Queue) : (s.updQueue q f).mem = s.mem := rfl
@[simp] theorem State.updQueue_kennel (s : State) (q : QueueId) (f : Queue → Queue) : (s.updQueue q f).kennel = s.kennel := rfl
@[simp] theorem State.updQueue_herd (s : State) (q : QueueId) (f : Queue → Queue) : (s.updQueue q f).herd = s.herd := rfl
@[simp] theorem State.updQueue_arr (s : State) (q : QueueId) (f : Queue → Queue) : (s.updQueue q f).arr = s.arr := rfl
@[simp] theorem State.updQueue_pwr (s : State) (q : QueueId) (f : Queue → Queue) : (s.updQueue q f).pwr = s.pwr := rfl
@[simp] theorem State.updQueue_ret (s : State) (q : QueueId) (f : Queue → Queue) : (s.updQueue q f).ret = s.ret := rfl
@[simp] theorem State.updQueue_strain (s : State) (q : QueueId) (f : Queue → Queue) : (s.updQueue q f).strain = s.strain := rfl
@[simp] theorem State.updQueue_setter (s : State) (q : QueueId) (f : Queue → Queue) : (s.updQueue q f).setter = s.setter := rfl
@[simp] theorem State.updQueue_vis (s : State) (q : QueueId) (f : Queue → Queue) : (s.updQueue q f).vis = s.vis := rfl
@[simp] theorem State.updQueue_fwd (s : State) (q : QueueId) (f : Queue → Queue) : (s.updQueue q f).fwd = s.fwd := rfl
@[simp] theorem State.updQueue_mmu (s : State) (q : QueueId) (f : Queue → Queue) : (s.updQueue q f).mmu = s.mmu := rfl
@[simp] theorem State.updQueue_steep (s : State) (q : QueueId) (f : Queue → Queue) : (s.updQueue q f).steep = s.steep := rfl
@[simp] theorem State.updQueue_trace (s : State) (q : QueueId) (f : Queue → Queue) : (s.updQueue q f).trace = s.trace := rfl
@[simp] theorem State.updQueue_dbg (s : State) (q : QueueId) (f : Queue → Queue) : (s.updQueue q f).dbg = s.dbg := rfl
@[simp] theorem State.updQueue_err (s : State) (q : QueueId) (f : Queue → Queue) : (s.updQueue q f).err = s.err := rfl
@[simp] theorem State.updQueue_fresh (s : State) (q : QueueId) (f : Queue → Queue) : (s.updQueue q f).fresh = s.fresh := rfl

/-! ## updCmd -/

@[simp] theorem State.updCmd_pending (s : State) (r : CmdRef) (f : Cmd → Cmd) : (s.updCmd r f).pending = s.pending := rfl
@[simp] theorem State.updCmd_pins (s : State) (r : CmdRef) (f : Cmd → Cmd) : (s.updCmd r f).pins = s.pins := rfl
@[simp] theorem State.updCmd_boot (s : State) (r : CmdRef) (f : Cmd → Cmd) : (s.updCmd r f).boot = s.boot := rfl
@[simp] theorem State.updCmd_csr (s : State) (r : CmdRef) (f : Cmd → Cmd) : (s.updCmd r f).csr = s.csr := rfl
@[simp] theorem State.updCmd_cfg (s : State) (r : CmdRef) (f : Cmd → Cmd) : (s.updCmd r f).cfg = s.cfg := rfl
@[simp] theorem State.updCmd_parts (s : State) (r : CmdRef) (f : Cmd → Cmd) : (s.updCmd r f).parts = s.parts := rfl
@[simp] theorem State.updCmd_front (s : State) (r : CmdRef) (f : Cmd → Cmd) : (s.updCmd r f).front = s.front := rfl
@[simp] theorem State.updCmd_mem (s : State) (r : CmdRef) (f : Cmd → Cmd) : (s.updCmd r f).mem = s.mem := rfl
@[simp] theorem State.updCmd_kennel (s : State) (r : CmdRef) (f : Cmd → Cmd) : (s.updCmd r f).kennel = s.kennel := rfl
@[simp] theorem State.updCmd_herd (s : State) (r : CmdRef) (f : Cmd → Cmd) : (s.updCmd r f).herd = s.herd := rfl
@[simp] theorem State.updCmd_arr (s : State) (r : CmdRef) (f : Cmd → Cmd) : (s.updCmd r f).arr = s.arr := rfl
@[simp] theorem State.updCmd_pwr (s : State) (r : CmdRef) (f : Cmd → Cmd) : (s.updCmd r f).pwr = s.pwr := rfl
@[simp] theorem State.updCmd_ret (s : State) (r : CmdRef) (f : Cmd → Cmd) : (s.updCmd r f).ret = s.ret := rfl
@[simp] theorem State.updCmd_strain (s : State) (r : CmdRef) (f : Cmd → Cmd) : (s.updCmd r f).strain = s.strain := rfl
@[simp] theorem State.updCmd_setter (s : State) (r : CmdRef) (f : Cmd → Cmd) : (s.updCmd r f).setter = s.setter := rfl
@[simp] theorem State.updCmd_vis (s : State) (r : CmdRef) (f : Cmd → Cmd) : (s.updCmd r f).vis = s.vis := rfl
@[simp] theorem State.updCmd_fwd (s : State) (r : CmdRef) (f : Cmd → Cmd) : (s.updCmd r f).fwd = s.fwd := rfl
@[simp] theorem State.updCmd_mmu (s : State) (r : CmdRef) (f : Cmd → Cmd) : (s.updCmd r f).mmu = s.mmu := rfl
@[simp] theorem State.updCmd_steep (s : State) (r : CmdRef) (f : Cmd → Cmd) : (s.updCmd r f).steep = s.steep := rfl
@[simp] theorem State.updCmd_trace (s : State) (r : CmdRef) (f : Cmd → Cmd) : (s.updCmd r f).trace = s.trace := rfl
@[simp] theorem State.updCmd_dbg (s : State) (r : CmdRef) (f : Cmd → Cmd) : (s.updCmd r f).dbg = s.dbg := rfl
@[simp] theorem State.updCmd_err (s : State) (r : CmdRef) (f : Cmd → Cmd) : (s.updCmd r f).err = s.err := rfl
@[simp] theorem State.updCmd_fresh (s : State) (r : CmdRef) (f : Cmd → Cmd) : (s.updCmd r f).fresh = s.fresh := rfl

/-! ## kPut -/

@[simp] theorem State.kPut_pending (s : State) (i : Nat) (x : KSlot) : (s.kPut i x).pending = s.pending := rfl
@[simp] theorem State.kPut_pins (s : State) (i : Nat) (x : KSlot) : (s.kPut i x).pins = s.pins := rfl
@[simp] theorem State.kPut_boot (s : State) (i : Nat) (x : KSlot) : (s.kPut i x).boot = s.boot := rfl
@[simp] theorem State.kPut_csr (s : State) (i : Nat) (x : KSlot) : (s.kPut i x).csr = s.csr := rfl
@[simp] theorem State.kPut_cfg (s : State) (i : Nat) (x : KSlot) : (s.kPut i x).cfg = s.cfg := rfl
@[simp] theorem State.kPut_parts (s : State) (i : Nat) (x : KSlot) : (s.kPut i x).parts = s.parts := rfl
@[simp] theorem State.kPut_queues (s : State) (i : Nat) (x : KSlot) : (s.kPut i x).queues = s.queues := rfl
@[simp] theorem State.kPut_front (s : State) (i : Nat) (x : KSlot) : (s.kPut i x).front = s.front := rfl
@[simp] theorem State.kPut_mem (s : State) (i : Nat) (x : KSlot) : (s.kPut i x).mem = s.mem := rfl
@[simp] theorem State.kPut_herd (s : State) (i : Nat) (x : KSlot) : (s.kPut i x).herd = s.herd := rfl
@[simp] theorem State.kPut_arr (s : State) (i : Nat) (x : KSlot) : (s.kPut i x).arr = s.arr := rfl
@[simp] theorem State.kPut_pwr (s : State) (i : Nat) (x : KSlot) : (s.kPut i x).pwr = s.pwr := rfl
@[simp] theorem State.kPut_ret (s : State) (i : Nat) (x : KSlot) : (s.kPut i x).ret = s.ret := rfl
@[simp] theorem State.kPut_strain (s : State) (i : Nat) (x : KSlot) : (s.kPut i x).strain = s.strain := rfl
@[simp] theorem State.kPut_setter (s : State) (i : Nat) (x : KSlot) : (s.kPut i x).setter = s.setter := rfl
@[simp] theorem State.kPut_vis (s : State) (i : Nat) (x : KSlot) : (s.kPut i x).vis = s.vis := rfl
@[simp] theorem State.kPut_fwd (s : State) (i : Nat) (x : KSlot) : (s.kPut i x).fwd = s.fwd := rfl
@[simp] theorem State.kPut_mmu (s : State) (i : Nat) (x : KSlot) : (s.kPut i x).mmu = s.mmu := rfl
@[simp] theorem State.kPut_steep (s : State) (i : Nat) (x : KSlot) : (s.kPut i x).steep = s.steep := rfl
@[simp] theorem State.kPut_trace (s : State) (i : Nat) (x : KSlot) : (s.kPut i x).trace = s.trace := rfl
@[simp] theorem State.kPut_dbg (s : State) (i : Nat) (x : KSlot) : (s.kPut i x).dbg = s.dbg := rfl
@[simp] theorem State.kPut_err (s : State) (i : Nat) (x : KSlot) : (s.kPut i x).err = s.err := rfl
@[simp] theorem State.kPut_fresh (s : State) (i : Nat) (x : KSlot) : (s.kPut i x).fresh = s.fresh := rfl

/-! ## kFree -/

@[simp] theorem State.kFree_pending (s : State) (i : Nat) : (s.kFree i).pending = s.pending := rfl
@[simp] theorem State.kFree_pins (s : State) (i : Nat) : (s.kFree i).pins = s.pins := rfl
@[simp] theorem State.kFree_boot (s : State) (i : Nat) : (s.kFree i).boot = s.boot := rfl
@[simp] theorem State.kFree_csr (s : State) (i : Nat) : (s.kFree i).csr = s.csr := rfl
@[simp] theorem State.kFree_cfg (s : State) (i : Nat) : (s.kFree i).cfg = s.cfg := rfl
@[simp] theorem State.kFree_parts (s : State) (i : Nat) : (s.kFree i).parts = s.parts := rfl
@[simp] theorem State.kFree_queues (s : State) (i : Nat) : (s.kFree i).queues = s.queues := rfl
@[simp] theorem State.kFree_front (s : State) (i : Nat) : (s.kFree i).front = s.front := rfl
@[simp] theorem State.kFree_mem (s : State) (i : Nat) : (s.kFree i).mem = s.mem := rfl
@[simp] theorem State.kFree_herd (s : State) (i : Nat) : (s.kFree i).herd = s.herd := rfl
@[simp] theorem State.kFree_arr (s : State) (i : Nat) : (s.kFree i).arr = s.arr := rfl
@[simp] theorem State.kFree_pwr (s : State) (i : Nat) : (s.kFree i).pwr = s.pwr := rfl
@[simp] theorem State.kFree_ret (s : State) (i : Nat) : (s.kFree i).ret = s.ret := rfl
@[simp] theorem State.kFree_strain (s : State) (i : Nat) : (s.kFree i).strain = s.strain := rfl
@[simp] theorem State.kFree_setter (s : State) (i : Nat) : (s.kFree i).setter = s.setter := rfl
@[simp] theorem State.kFree_vis (s : State) (i : Nat) : (s.kFree i).vis = s.vis := rfl
@[simp] theorem State.kFree_fwd (s : State) (i : Nat) : (s.kFree i).fwd = s.fwd := rfl
@[simp] theorem State.kFree_mmu (s : State) (i : Nat) : (s.kFree i).mmu = s.mmu := rfl
@[simp] theorem State.kFree_steep (s : State) (i : Nat) : (s.kFree i).steep = s.steep := rfl
@[simp] theorem State.kFree_trace (s : State) (i : Nat) : (s.kFree i).trace = s.trace := rfl
@[simp] theorem State.kFree_dbg (s : State) (i : Nat) : (s.kFree i).dbg = s.dbg := rfl
@[simp] theorem State.kFree_err (s : State) (i : Nat) : (s.kFree i).err = s.err := rfl
@[simp] theorem State.kFree_fresh (s : State) (i : Nat) : (s.kFree i).fresh = s.fresh := rfl

/-! ## genUp -/

@[simp] theorem State.genUp_pending (s : State) (i : Nat) : (s.genUp i).pending = s.pending := rfl
@[simp] theorem State.genUp_pins (s : State) (i : Nat) : (s.genUp i).pins = s.pins := rfl
@[simp] theorem State.genUp_boot (s : State) (i : Nat) : (s.genUp i).boot = s.boot := rfl
@[simp] theorem State.genUp_csr (s : State) (i : Nat) : (s.genUp i).csr = s.csr := rfl
@[simp] theorem State.genUp_cfg (s : State) (i : Nat) : (s.genUp i).cfg = s.cfg := rfl
@[simp] theorem State.genUp_parts (s : State) (i : Nat) : (s.genUp i).parts = s.parts := rfl
@[simp] theorem State.genUp_queues (s : State) (i : Nat) : (s.genUp i).queues = s.queues := rfl
@[simp] theorem State.genUp_front (s : State) (i : Nat) : (s.genUp i).front = s.front := rfl
@[simp] theorem State.genUp_mem (s : State) (i : Nat) : (s.genUp i).mem = s.mem := rfl
@[simp] theorem State.genUp_herd (s : State) (i : Nat) : (s.genUp i).herd = s.herd := rfl
@[simp] theorem State.genUp_arr (s : State) (i : Nat) : (s.genUp i).arr = s.arr := rfl
@[simp] theorem State.genUp_pwr (s : State) (i : Nat) : (s.genUp i).pwr = s.pwr := rfl
@[simp] theorem State.genUp_ret (s : State) (i : Nat) : (s.genUp i).ret = s.ret := rfl
@[simp] theorem State.genUp_strain (s : State) (i : Nat) : (s.genUp i).strain = s.strain := rfl
@[simp] theorem State.genUp_setter (s : State) (i : Nat) : (s.genUp i).setter = s.setter := rfl
@[simp] theorem State.genUp_vis (s : State) (i : Nat) : (s.genUp i).vis = s.vis := rfl
@[simp] theorem State.genUp_fwd (s : State) (i : Nat) : (s.genUp i).fwd = s.fwd := rfl
@[simp] theorem State.genUp_mmu (s : State) (i : Nat) : (s.genUp i).mmu = s.mmu := rfl
@[simp] theorem State.genUp_steep (s : State) (i : Nat) : (s.genUp i).steep = s.steep := rfl
@[simp] theorem State.genUp_trace (s : State) (i : Nat) : (s.genUp i).trace = s.trace := rfl
@[simp] theorem State.genUp_dbg (s : State) (i : Nat) : (s.genUp i).dbg = s.dbg := rfl
@[simp] theorem State.genUp_err (s : State) (i : Nat) : (s.genUp i).err = s.err := rfl
@[simp] theorem State.genUp_fresh (s : State) (i : Nat) : (s.genUp i).fresh = s.fresh := rfl

/-! ## timerAdd -/

@[simp] theorem State.timerAdd_pending (s : State) (tm : Timer) (due : Nat) : (s.timerAdd tm due).pending = s.pending := rfl
@[simp] theorem State.timerAdd_pins (s : State) (tm : Timer) (due : Nat) : (s.timerAdd tm due).pins = s.pins := rfl
@[simp] theorem State.timerAdd_boot (s : State) (tm : Timer) (due : Nat) : (s.timerAdd tm due).boot = s.boot := rfl
@[simp] theorem State.timerAdd_csr (s : State) (tm : Timer) (due : Nat) : (s.timerAdd tm due).csr = s.csr := rfl
@[simp] theorem State.timerAdd_cfg (s : State) (tm : Timer) (due : Nat) : (s.timerAdd tm due).cfg = s.cfg := rfl
@[simp] theorem State.timerAdd_parts (s : State) (tm : Timer) (due : Nat) : (s.timerAdd tm due).parts = s.parts := rfl
@[simp] theorem State.timerAdd_queues (s : State) (tm : Timer) (due : Nat) : (s.timerAdd tm due).queues = s.queues := rfl
@[simp] theorem State.timerAdd_front (s : State) (tm : Timer) (due : Nat) : (s.timerAdd tm due).front = s.front := rfl
@[simp] theorem State.timerAdd_mem (s : State) (tm : Timer) (due : Nat) : (s.timerAdd tm due).mem = s.mem := rfl
@[simp] theorem State.timerAdd_kennel (s : State) (tm : Timer) (due : Nat) : (s.timerAdd tm due).kennel = s.kennel := rfl
@[simp] theorem State.timerAdd_herd (s : State) (tm : Timer) (due : Nat) : (s.timerAdd tm due).herd = s.herd := rfl
@[simp] theorem State.timerAdd_arr (s : State) (tm : Timer) (due : Nat) : (s.timerAdd tm due).arr = s.arr := rfl
@[simp] theorem State.timerAdd_pwr (s : State) (tm : Timer) (due : Nat) : (s.timerAdd tm due).pwr = s.pwr := rfl
@[simp] theorem State.timerAdd_ret (s : State) (tm : Timer) (due : Nat) : (s.timerAdd tm due).ret = s.ret := rfl
@[simp] theorem State.timerAdd_strain (s : State) (tm : Timer) (due : Nat) : (s.timerAdd tm due).strain = s.strain := rfl
@[simp] theorem State.timerAdd_setter (s : State) (tm : Timer) (due : Nat) : (s.timerAdd tm due).setter = s.setter := rfl
@[simp] theorem State.timerAdd_vis (s : State) (tm : Timer) (due : Nat) : (s.timerAdd tm due).vis = s.vis := rfl
@[simp] theorem State.timerAdd_fwd (s : State) (tm : Timer) (due : Nat) : (s.timerAdd tm due).fwd = s.fwd := rfl
@[simp] theorem State.timerAdd_mmu (s : State) (tm : Timer) (due : Nat) : (s.timerAdd tm due).mmu = s.mmu := rfl
@[simp] theorem State.timerAdd_trace (s : State) (tm : Timer) (due : Nat) : (s.timerAdd tm due).trace = s.trace := rfl
@[simp] theorem State.timerAdd_dbg (s : State) (tm : Timer) (due : Nat) : (s.timerAdd tm due).dbg = s.dbg := rfl
@[simp] theorem State.timerAdd_err (s : State) (tm : Timer) (due : Nat) : (s.timerAdd tm due).err = s.err := rfl
@[simp] theorem State.timerAdd_fresh (s : State) (tm : Timer) (due : Nat) : (s.timerAdd tm due).fresh = s.fresh := rfl

/-! ## timerDel -/

@[simp] theorem State.timerDel_pending (s : State) (tm : Timer) : (s.timerDel tm).pending = s.pending := rfl
@[simp] theorem State.timerDel_pins (s : State) (tm : Timer) : (s.timerDel tm).pins = s.pins := rfl
@[simp] theorem State.timerDel_boot (s : State) (tm : Timer) : (s.timerDel tm).boot = s.boot := rfl
@[simp] theorem State.timerDel_csr (s : State) (tm : Timer) : (s.timerDel tm).csr = s.csr := rfl
@[simp] theorem State.timerDel_cfg (s : State) (tm : Timer) : (s.timerDel tm).cfg = s.cfg := rfl
@[simp] theorem State.timerDel_parts (s : State) (tm : Timer) : (s.timerDel tm).parts = s.parts := rfl
@[simp] theorem State.timerDel_queues (s : State) (tm : Timer) : (s.timerDel tm).queues = s.queues := rfl
@[simp] theorem State.timerDel_front (s : State) (tm : Timer) : (s.timerDel tm).front = s.front := rfl
@[simp] theorem State.timerDel_mem (s : State) (tm : Timer) : (s.timerDel tm).mem = s.mem := rfl
@[simp] theorem State.timerDel_kennel (s : State) (tm : Timer) : (s.timerDel tm).kennel = s.kennel := rfl
@[simp] theorem State.timerDel_herd (s : State) (tm : Timer) : (s.timerDel tm).herd = s.herd := rfl
@[simp] theorem State.timerDel_arr (s : State) (tm : Timer) : (s.timerDel tm).arr = s.arr := rfl
@[simp] theorem State.timerDel_pwr (s : State) (tm : Timer) : (s.timerDel tm).pwr = s.pwr := rfl
@[simp] theorem State.timerDel_ret (s : State) (tm : Timer) : (s.timerDel tm).ret = s.ret := rfl
@[simp] theorem State.timerDel_strain (s : State) (tm : Timer) : (s.timerDel tm).strain = s.strain := rfl
@[simp] theorem State.timerDel_setter (s : State) (tm : Timer) : (s.timerDel tm).setter = s.setter := rfl
@[simp] theorem State.timerDel_vis (s : State) (tm : Timer) : (s.timerDel tm).vis = s.vis := rfl
@[simp] theorem State.timerDel_fwd (s : State) (tm : Timer) : (s.timerDel tm).fwd = s.fwd := rfl
@[simp] theorem State.timerDel_mmu (s : State) (tm : Timer) : (s.timerDel tm).mmu = s.mmu := rfl
@[simp] theorem State.timerDel_trace (s : State) (tm : Timer) : (s.timerDel tm).trace = s.trace := rfl
@[simp] theorem State.timerDel_dbg (s : State) (tm : Timer) : (s.timerDel tm).dbg = s.dbg := rfl
@[simp] theorem State.timerDel_err (s : State) (tm : Timer) : (s.timerDel tm).err = s.err := rfl
@[simp] theorem State.timerDel_fresh (s : State) (tm : Timer) : (s.timerDel tm).fresh = s.fresh := rfl

/-! ## timerDelIf -/

@[simp] theorem State.timerDelIf_pending (s : State) (f : Timer → Bool) : (s.timerDelIf f).pending = s.pending := rfl
@[simp] theorem State.timerDelIf_pins (s : State) (f : Timer → Bool) : (s.timerDelIf f).pins = s.pins := rfl
@[simp] theorem State.timerDelIf_boot (s : State) (f : Timer → Bool) : (s.timerDelIf f).boot = s.boot := rfl
@[simp] theorem State.timerDelIf_csr (s : State) (f : Timer → Bool) : (s.timerDelIf f).csr = s.csr := rfl
@[simp] theorem State.timerDelIf_cfg (s : State) (f : Timer → Bool) : (s.timerDelIf f).cfg = s.cfg := rfl
@[simp] theorem State.timerDelIf_parts (s : State) (f : Timer → Bool) : (s.timerDelIf f).parts = s.parts := rfl
@[simp] theorem State.timerDelIf_queues (s : State) (f : Timer → Bool) : (s.timerDelIf f).queues = s.queues := rfl
@[simp] theorem State.timerDelIf_front (s : State) (f : Timer → Bool) : (s.timerDelIf f).front = s.front := rfl
@[simp] theorem State.timerDelIf_mem (s : State) (f : Timer → Bool) : (s.timerDelIf f).mem = s.mem := rfl
@[simp] theorem State.timerDelIf_kennel (s : State) (f : Timer → Bool) : (s.timerDelIf f).kennel = s.kennel := rfl
@[simp] theorem State.timerDelIf_herd (s : State) (f : Timer → Bool) : (s.timerDelIf f).herd = s.herd := rfl
@[simp] theorem State.timerDelIf_arr (s : State) (f : Timer → Bool) : (s.timerDelIf f).arr = s.arr := rfl
@[simp] theorem State.timerDelIf_pwr (s : State) (f : Timer → Bool) : (s.timerDelIf f).pwr = s.pwr := rfl
@[simp] theorem State.timerDelIf_ret (s : State) (f : Timer → Bool) : (s.timerDelIf f).ret = s.ret := rfl
@[simp] theorem State.timerDelIf_strain (s : State) (f : Timer → Bool) : (s.timerDelIf f).strain = s.strain := rfl
@[simp] theorem State.timerDelIf_setter (s : State) (f : Timer → Bool) : (s.timerDelIf f).setter = s.setter := rfl
@[simp] theorem State.timerDelIf_vis (s : State) (f : Timer → Bool) : (s.timerDelIf f).vis = s.vis := rfl
@[simp] theorem State.timerDelIf_fwd (s : State) (f : Timer → Bool) : (s.timerDelIf f).fwd = s.fwd := rfl
@[simp] theorem State.timerDelIf_mmu (s : State) (f : Timer → Bool) : (s.timerDelIf f).mmu = s.mmu := rfl
@[simp] theorem State.timerDelIf_trace (s : State) (f : Timer → Bool) : (s.timerDelIf f).trace = s.trace := rfl
@[simp] theorem State.timerDelIf_dbg (s : State) (f : Timer → Bool) : (s.timerDelIf f).dbg = s.dbg := rfl
@[simp] theorem State.timerDelIf_err (s : State) (f : Timer → Bool) : (s.timerDelIf f).err = s.err := rfl
@[simp] theorem State.timerDelIf_fresh (s : State) (f : Timer → Bool) : (s.timerDelIf f).fresh = s.fresh := rfl

/-! ## setCore -/

@[simp] theorem State.setCore_pending (s : State) (c : CoreId) (x : Core) : (s.setCore c x).pending = s.pending := rfl
@[simp] theorem State.setCore_pins (s : State) (c : CoreId) (x : Core) : (s.setCore c x).pins = s.pins := rfl
@[simp] theorem State.setCore_boot (s : State) (c : CoreId) (x : Core) : (s.setCore c x).boot = s.boot := rfl
@[simp] theorem State.setCore_csr (s : State) (c : CoreId) (x : Core) : (s.setCore c x).csr = s.csr := rfl
@[simp] theorem State.setCore_cfg (s : State) (c : CoreId) (x : Core) : (s.setCore c x).cfg = s.cfg := rfl
@[simp] theorem State.setCore_parts (s : State) (c : CoreId) (x : Core) : (s.setCore c x).parts = s.parts := rfl
@[simp] theorem State.setCore_queues (s : State) (c : CoreId) (x : Core) : (s.setCore c x).queues = s.queues := rfl
@[simp] theorem State.setCore_front (s : State) (c : CoreId) (x : Core) : (s.setCore c x).front = s.front := rfl
@[simp] theorem State.setCore_mem (s : State) (c : CoreId) (x : Core) : (s.setCore c x).mem = s.mem := rfl
@[simp] theorem State.setCore_kennel (s : State) (c : CoreId) (x : Core) : (s.setCore c x).kennel = s.kennel := rfl
@[simp] theorem State.setCore_herd (s : State) (c : CoreId) (x : Core) : (s.setCore c x).herd = s.herd := rfl
@[simp] theorem State.setCore_arr (s : State) (c : CoreId) (x : Core) : (s.setCore c x).arr = s.arr := rfl
@[simp] theorem State.setCore_pwr (s : State) (c : CoreId) (x : Core) : (s.setCore c x).pwr = s.pwr := rfl
@[simp] theorem State.setCore_ret (s : State) (c : CoreId) (x : Core) : (s.setCore c x).ret = s.ret := rfl
@[simp] theorem State.setCore_strain (s : State) (c : CoreId) (x : Core) : (s.setCore c x).strain = s.strain := rfl
@[simp] theorem State.setCore_vis (s : State) (c : CoreId) (x : Core) : (s.setCore c x).vis = s.vis := rfl
@[simp] theorem State.setCore_fwd (s : State) (c : CoreId) (x : Core) : (s.setCore c x).fwd = s.fwd := rfl
@[simp] theorem State.setCore_mmu (s : State) (c : CoreId) (x : Core) : (s.setCore c x).mmu = s.mmu := rfl
@[simp] theorem State.setCore_steep (s : State) (c : CoreId) (x : Core) : (s.setCore c x).steep = s.steep := rfl
@[simp] theorem State.setCore_trace (s : State) (c : CoreId) (x : Core) : (s.setCore c x).trace = s.trace := rfl
@[simp] theorem State.setCore_dbg (s : State) (c : CoreId) (x : Core) : (s.setCore c x).dbg = s.dbg := rfl
@[simp] theorem State.setCore_err (s : State) (c : CoreId) (x : Core) : (s.setCore c x).err = s.err := rfl
@[simp] theorem State.setCore_fresh (s : State) (c : CoreId) (x : Core) : (s.setCore c x).fresh = s.fresh := rfl

/-! ## updBundle -/

@[simp] theorem State.updBundle_pending (s : State) (h : Nat) (f : Bundle → Bundle) : (s.updBundle h f).pending = s.pending := rfl
@[simp] theorem State.updBundle_pins (s : State) (h : Nat) (f : Bundle → Bundle) : (s.updBundle h f).pins = s.pins := rfl
@[simp] theorem State.updBundle_boot (s : State) (h : Nat) (f : Bundle → Bundle) : (s.updBundle h f).boot = s.boot := rfl
@[simp] theorem State.updBundle_csr (s : State) (h : Nat) (f : Bundle → Bundle) : (s.updBundle h f).csr = s.csr := rfl
@[simp] theorem State.updBundle_cfg (s : State) (h : Nat) (f : Bundle → Bundle) : (s.updBundle h f).cfg = s.cfg := rfl
@[simp] theorem State.updBundle_parts (s : State) (h : Nat) (f : Bundle → Bundle) : (s.updBundle h f).parts = s.parts := rfl
@[simp] theorem State.updBundle_queues (s : State) (h : Nat) (f : Bundle → Bundle) : (s.updBundle h f).queues = s.queues := rfl
@[simp] theorem State.updBundle_front (s : State) (h : Nat) (f : Bundle → Bundle) : (s.updBundle h f).front = s.front := rfl
@[simp] theorem State.updBundle_mem (s : State) (h : Nat) (f : Bundle → Bundle) : (s.updBundle h f).mem = s.mem := rfl
@[simp] theorem State.updBundle_kennel (s : State) (h : Nat) (f : Bundle → Bundle) : (s.updBundle h f).kennel = s.kennel := rfl
@[simp] theorem State.updBundle_herd (s : State) (h : Nat) (f : Bundle → Bundle) : (s.updBundle h f).herd = s.herd := rfl
@[simp] theorem State.updBundle_arr (s : State) (h : Nat) (f : Bundle → Bundle) : (s.updBundle h f).arr = s.arr := rfl
@[simp] theorem State.updBundle_pwr (s : State) (h : Nat) (f : Bundle → Bundle) : (s.updBundle h f).pwr = s.pwr := rfl
@[simp] theorem State.updBundle_ret (s : State) (h : Nat) (f : Bundle → Bundle) : (s.updBundle h f).ret = s.ret := rfl
@[simp] theorem State.updBundle_setter (s : State) (h : Nat) (f : Bundle → Bundle) : (s.updBundle h f).setter = s.setter := rfl
@[simp] theorem State.updBundle_vis (s : State) (h : Nat) (f : Bundle → Bundle) : (s.updBundle h f).vis = s.vis := rfl
@[simp] theorem State.updBundle_fwd (s : State) (h : Nat) (f : Bundle → Bundle) : (s.updBundle h f).fwd = s.fwd := rfl
@[simp] theorem State.updBundle_mmu (s : State) (h : Nat) (f : Bundle → Bundle) : (s.updBundle h f).mmu = s.mmu := rfl
@[simp] theorem State.updBundle_steep (s : State) (h : Nat) (f : Bundle → Bundle) : (s.updBundle h f).steep = s.steep := rfl
@[simp] theorem State.updBundle_trace (s : State) (h : Nat) (f : Bundle → Bundle) : (s.updBundle h f).trace = s.trace := rfl
@[simp] theorem State.updBundle_dbg (s : State) (h : Nat) (f : Bundle → Bundle) : (s.updBundle h f).dbg = s.dbg := rfl
@[simp] theorem State.updBundle_err (s : State) (h : Nat) (f : Bundle → Bundle) : (s.updBundle h f).err = s.err := rfl
@[simp] theorem State.updBundle_fresh (s : State) (h : Nat) (f : Bundle → Bundle) : (s.updBundle h f).fresh = s.fresh := rfl

/-! ## poke -/

@[simp] theorem State.poke_pending (s : State) (pa : Nat) (bs : List Byte) : (s.poke pa bs).pending = s.pending := rfl
@[simp] theorem State.poke_pins (s : State) (pa : Nat) (bs : List Byte) : (s.poke pa bs).pins = s.pins := rfl
@[simp] theorem State.poke_boot (s : State) (pa : Nat) (bs : List Byte) : (s.poke pa bs).boot = s.boot := rfl
@[simp] theorem State.poke_csr (s : State) (pa : Nat) (bs : List Byte) : (s.poke pa bs).csr = s.csr := rfl
@[simp] theorem State.poke_cfg (s : State) (pa : Nat) (bs : List Byte) : (s.poke pa bs).cfg = s.cfg := rfl
@[simp] theorem State.poke_parts (s : State) (pa : Nat) (bs : List Byte) : (s.poke pa bs).parts = s.parts := rfl
@[simp] theorem State.poke_queues (s : State) (pa : Nat) (bs : List Byte) : (s.poke pa bs).queues = s.queues := rfl
@[simp] theorem State.poke_front (s : State) (pa : Nat) (bs : List Byte) : (s.poke pa bs).front = s.front := rfl
@[simp] theorem State.poke_kennel (s : State) (pa : Nat) (bs : List Byte) : (s.poke pa bs).kennel = s.kennel := rfl
@[simp] theorem State.poke_herd (s : State) (pa : Nat) (bs : List Byte) : (s.poke pa bs).herd = s.herd := rfl
@[simp] theorem State.poke_arr (s : State) (pa : Nat) (bs : List Byte) : (s.poke pa bs).arr = s.arr := rfl
@[simp] theorem State.poke_pwr (s : State) (pa : Nat) (bs : List Byte) : (s.poke pa bs).pwr = s.pwr := rfl
@[simp] theorem State.poke_ret (s : State) (pa : Nat) (bs : List Byte) : (s.poke pa bs).ret = s.ret := rfl
@[simp] theorem State.poke_strain (s : State) (pa : Nat) (bs : List Byte) : (s.poke pa bs).strain = s.strain := rfl
@[simp] theorem State.poke_setter (s : State) (pa : Nat) (bs : List Byte) : (s.poke pa bs).setter = s.setter := rfl
@[simp] theorem State.poke_vis (s : State) (pa : Nat) (bs : List Byte) : (s.poke pa bs).vis = s.vis := rfl
@[simp] theorem State.poke_fwd (s : State) (pa : Nat) (bs : List Byte) : (s.poke pa bs).fwd = s.fwd := rfl
@[simp] theorem State.poke_mmu (s : State) (pa : Nat) (bs : List Byte) : (s.poke pa bs).mmu = s.mmu := rfl
@[simp] theorem State.poke_steep (s : State) (pa : Nat) (bs : List Byte) : (s.poke pa bs).steep = s.steep := rfl
@[simp] theorem State.poke_trace (s : State) (pa : Nat) (bs : List Byte) : (s.poke pa bs).trace = s.trace := rfl
@[simp] theorem State.poke_dbg (s : State) (pa : Nat) (bs : List Byte) : (s.poke pa bs).dbg = s.dbg := rfl
@[simp] theorem State.poke_err (s : State) (pa : Nat) (bs : List Byte) : (s.poke pa bs).err = s.err := rfl
@[simp] theorem State.poke_fresh (s : State) (pa : Nat) (bs : List Byte) : (s.poke pa bs).fresh = s.fresh := rfl

/-! ## setSess -/

@[simp] theorem State.setSess_pending (s : State) (l : LinkId) (x : Session) : (s.setSess l x).pending = s.pending := rfl
@[simp] theorem State.setSess_pins (s : State) (l : LinkId) (x : Session) : (s.setSess l x).pins = s.pins := rfl
@[simp] theorem State.setSess_boot (s : State) (l : LinkId) (x : Session) : (s.setSess l x).boot = s.boot := rfl
@[simp] theorem State.setSess_csr (s : State) (l : LinkId) (x : Session) : (s.setSess l x).csr = s.csr := rfl
@[simp] theorem State.setSess_cfg (s : State) (l : LinkId) (x : Session) : (s.setSess l x).cfg = s.cfg := rfl
@[simp] theorem State.setSess_parts (s : State) (l : LinkId) (x : Session) : (s.setSess l x).parts = s.parts := rfl
@[simp] theorem State.setSess_queues (s : State) (l : LinkId) (x : Session) : (s.setSess l x).queues = s.queues := rfl
@[simp] theorem State.setSess_front (s : State) (l : LinkId) (x : Session) : (s.setSess l x).front = s.front := rfl
@[simp] theorem State.setSess_mem (s : State) (l : LinkId) (x : Session) : (s.setSess l x).mem = s.mem := rfl
@[simp] theorem State.setSess_kennel (s : State) (l : LinkId) (x : Session) : (s.setSess l x).kennel = s.kennel := rfl
@[simp] theorem State.setSess_herd (s : State) (l : LinkId) (x : Session) : (s.setSess l x).herd = s.herd := rfl
@[simp] theorem State.setSess_arr (s : State) (l : LinkId) (x : Session) : (s.setSess l x).arr = s.arr := rfl
@[simp] theorem State.setSess_pwr (s : State) (l : LinkId) (x : Session) : (s.setSess l x).pwr = s.pwr := rfl
@[simp] theorem State.setSess_ret (s : State) (l : LinkId) (x : Session) : (s.setSess l x).ret = s.ret := rfl
@[simp] theorem State.setSess_strain (s : State) (l : LinkId) (x : Session) : (s.setSess l x).strain = s.strain := rfl
@[simp] theorem State.setSess_setter (s : State) (l : LinkId) (x : Session) : (s.setSess l x).setter = s.setter := rfl
@[simp] theorem State.setSess_vis (s : State) (l : LinkId) (x : Session) : (s.setSess l x).vis = s.vis := rfl
@[simp] theorem State.setSess_mmu (s : State) (l : LinkId) (x : Session) : (s.setSess l x).mmu = s.mmu := rfl
@[simp] theorem State.setSess_steep (s : State) (l : LinkId) (x : Session) : (s.setSess l x).steep = s.steep := rfl
@[simp] theorem State.setSess_trace (s : State) (l : LinkId) (x : Session) : (s.setSess l x).trace = s.trace := rfl
@[simp] theorem State.setSess_dbg (s : State) (l : LinkId) (x : Session) : (s.setSess l x).dbg = s.dbg := rfl
@[simp] theorem State.setSess_err (s : State) (l : LinkId) (x : Session) : (s.setSess l x).err = s.err := rfl
@[simp] theorem State.setSess_fresh (s : State) (l : LinkId) (x : Session) : (s.setSess l x).fresh = s.fresh := rfl

/-! ## updSess -/

@[simp] theorem State.updSess_pending (s : State) (l : LinkId) (f : Session → Session) : (s.updSess l f).pending = s.pending := rfl
@[simp] theorem State.updSess_pins (s : State) (l : LinkId) (f : Session → Session) : (s.updSess l f).pins = s.pins := rfl
@[simp] theorem State.updSess_boot (s : State) (l : LinkId) (f : Session → Session) : (s.updSess l f).boot = s.boot := rfl
@[simp] theorem State.updSess_csr (s : State) (l : LinkId) (f : Session → Session) : (s.updSess l f).csr = s.csr := rfl
@[simp] theorem State.updSess_cfg (s : State) (l : LinkId) (f : Session → Session) : (s.updSess l f).cfg = s.cfg := rfl
@[simp] theorem State.updSess_parts (s : State) (l : LinkId) (f : Session → Session) : (s.updSess l f).parts = s.parts := rfl
@[simp] theorem State.updSess_queues (s : State) (l : LinkId) (f : Session → Session) : (s.updSess l f).queues = s.queues := rfl
@[simp] theorem State.updSess_front (s : State) (l : LinkId) (f : Session → Session) : (s.updSess l f).front = s.front := rfl
@[simp] theorem State.updSess_mem (s : State) (l : LinkId) (f : Session → Session) : (s.updSess l f).mem = s.mem := rfl
@[simp] theorem State.updSess_kennel (s : State) (l : LinkId) (f : Session → Session) : (s.updSess l f).kennel = s.kennel := rfl
@[simp] theorem State.updSess_herd (s : State) (l : LinkId) (f : Session → Session) : (s.updSess l f).herd = s.herd := rfl
@[simp] theorem State.updSess_arr (s : State) (l : LinkId) (f : Session → Session) : (s.updSess l f).arr = s.arr := rfl
@[simp] theorem State.updSess_pwr (s : State) (l : LinkId) (f : Session → Session) : (s.updSess l f).pwr = s.pwr := rfl
@[simp] theorem State.updSess_ret (s : State) (l : LinkId) (f : Session → Session) : (s.updSess l f).ret = s.ret := rfl
@[simp] theorem State.updSess_strain (s : State) (l : LinkId) (f : Session → Session) : (s.updSess l f).strain = s.strain := rfl
@[simp] theorem State.updSess_setter (s : State) (l : LinkId) (f : Session → Session) : (s.updSess l f).setter = s.setter := rfl
@[simp] theorem State.updSess_vis (s : State) (l : LinkId) (f : Session → Session) : (s.updSess l f).vis = s.vis := rfl
@[simp] theorem State.updSess_mmu (s : State) (l : LinkId) (f : Session → Session) : (s.updSess l f).mmu = s.mmu := rfl
@[simp] theorem State.updSess_steep (s : State) (l : LinkId) (f : Session → Session) : (s.updSess l f).steep = s.steep := rfl
@[simp] theorem State.updSess_trace (s : State) (l : LinkId) (f : Session → Session) : (s.updSess l f).trace = s.trace := rfl
@[simp] theorem State.updSess_dbg (s : State) (l : LinkId) (f : Session → Session) : (s.updSess l f).dbg = s.dbg := rfl
@[simp] theorem State.updSess_err (s : State) (l : LinkId) (f : Session → Session) : (s.updSess l f).err = s.err := rfl
@[simp] theorem State.updSess_fresh (s : State) (l : LinkId) (f : Session → Session) : (s.updSess l f).fresh = s.fresh := rfl

/-! ## errCorrected -/

@[simp] theorem State.errCorrected_pending (s : State)  : (s.errCorrected).pending = s.pending := rfl
@[simp] theorem State.errCorrected_pins (s : State)  : (s.errCorrected).pins = s.pins := rfl
@[simp] theorem State.errCorrected_boot (s : State)  : (s.errCorrected).boot = s.boot := rfl
@[simp] theorem State.errCorrected_csr (s : State)  : (s.errCorrected).csr = s.csr := rfl
@[simp] theorem State.errCorrected_cfg (s : State)  : (s.errCorrected).cfg = s.cfg := rfl
@[simp] theorem State.errCorrected_parts (s : State)  : (s.errCorrected).parts = s.parts := rfl
@[simp] theorem State.errCorrected_queues (s : State)  : (s.errCorrected).queues = s.queues := rfl
@[simp] theorem State.errCorrected_front (s : State)  : (s.errCorrected).front = s.front := rfl
@[simp] theorem State.errCorrected_mem (s : State)  : (s.errCorrected).mem = s.mem := rfl
@[simp] theorem State.errCorrected_kennel (s : State)  : (s.errCorrected).kennel = s.kennel := rfl
@[simp] theorem State.errCorrected_herd (s : State)  : (s.errCorrected).herd = s.herd := rfl
@[simp] theorem State.errCorrected_arr (s : State)  : (s.errCorrected).arr = s.arr := rfl
@[simp] theorem State.errCorrected_pwr (s : State)  : (s.errCorrected).pwr = s.pwr := rfl
@[simp] theorem State.errCorrected_ret (s : State)  : (s.errCorrected).ret = s.ret := rfl
@[simp] theorem State.errCorrected_strain (s : State)  : (s.errCorrected).strain = s.strain := rfl
@[simp] theorem State.errCorrected_setter (s : State)  : (s.errCorrected).setter = s.setter := rfl
@[simp] theorem State.errCorrected_vis (s : State)  : (s.errCorrected).vis = s.vis := rfl
@[simp] theorem State.errCorrected_fwd (s : State)  : (s.errCorrected).fwd = s.fwd := rfl
@[simp] theorem State.errCorrected_mmu (s : State)  : (s.errCorrected).mmu = s.mmu := rfl
@[simp] theorem State.errCorrected_steep (s : State)  : (s.errCorrected).steep = s.steep := rfl
@[simp] theorem State.errCorrected_trace (s : State)  : (s.errCorrected).trace = s.trace := rfl
@[simp] theorem State.errCorrected_dbg (s : State)  : (s.errCorrected).dbg = s.dbg := rfl
@[simp] theorem State.errCorrected_fresh (s : State)  : (s.errCorrected).fresh = s.fresh := rfl

/-! ## at -/

@[simp] theorem State.at_pending (s : State) (t : Nat) : (s.at t).pending = s.pending := rfl
@[simp] theorem State.at_boot (s : State) (t : Nat) : (s.at t).boot = s.boot := rfl
@[simp] theorem State.at_csr (s : State) (t : Nat) : (s.at t).csr = s.csr := rfl
@[simp] theorem State.at_cfg (s : State) (t : Nat) : (s.at t).cfg = s.cfg := rfl
@[simp] theorem State.at_parts (s : State) (t : Nat) : (s.at t).parts = s.parts := rfl
@[simp] theorem State.at_queues (s : State) (t : Nat) : (s.at t).queues = s.queues := rfl
@[simp] theorem State.at_front (s : State) (t : Nat) : (s.at t).front = s.front := rfl
@[simp] theorem State.at_mem (s : State) (t : Nat) : (s.at t).mem = s.mem := rfl
@[simp] theorem State.at_kennel (s : State) (t : Nat) : (s.at t).kennel = s.kennel := rfl
@[simp] theorem State.at_herd (s : State) (t : Nat) : (s.at t).herd = s.herd := rfl
@[simp] theorem State.at_arr (s : State) (t : Nat) : (s.at t).arr = s.arr := rfl
@[simp] theorem State.at_pwr (s : State) (t : Nat) : (s.at t).pwr = s.pwr := rfl
@[simp] theorem State.at_ret (s : State) (t : Nat) : (s.at t).ret = s.ret := rfl
@[simp] theorem State.at_strain (s : State) (t : Nat) : (s.at t).strain = s.strain := rfl
@[simp] theorem State.at_setter (s : State) (t : Nat) : (s.at t).setter = s.setter := rfl
@[simp] theorem State.at_vis (s : State) (t : Nat) : (s.at t).vis = s.vis := rfl
@[simp] theorem State.at_fwd (s : State) (t : Nat) : (s.at t).fwd = s.fwd := rfl
@[simp] theorem State.at_mmu (s : State) (t : Nat) : (s.at t).mmu = s.mmu := rfl
@[simp] theorem State.at_steep (s : State) (t : Nat) : (s.at t).steep = s.steep := rfl
@[simp] theorem State.at_trace (s : State) (t : Nat) : (s.at t).trace = s.trace := rfl
@[simp] theorem State.at_dbg (s : State) (t : Nat) : (s.at t).dbg = s.dbg := rfl
@[simp] theorem State.at_err (s : State) (t : Nat) : (s.at t).err = s.err := rfl
@[simp] theorem State.at_fresh (s : State) (t : Nat) : (s.at t).fresh = s.fresh := rfl
@[simp] theorem State.at_pins_powered (s : State) (t : Nat) : (s.at t).pins.powered = s.pins.powered := rfl
@[simp] theorem State.at_pins_inReset (s : State) (t : Nat) : (s.at t).pins.inReset = s.pins.inReset := rfl
@[simp] theorem State.at_pins_forced (s : State) (t : Nat) : (s.at t).pins.forced = s.pins.forced := rfl
@[simp] theorem State.at_pins_portMap (s : State) (t : Nat) : (s.at t).pins.portMap = s.pins.portMap := rfl
@[simp] theorem State.at_pins_linkUp (s : State) (t : Nat) : (s.at t).pins.linkUp = s.pins.linkUp := rfl
@[simp] theorem State.at_pins_now (s : State) (t : Nat) : (s.at t).pins.now = max s.pins.now t := rfl
@[simp] theorem State.at_pins_bypass (s : State) (t : Nat) : (s.at t).pins.bypass = s.pins.bypass := rfl
@[simp] theorem State.at_pins_hotWest (s : State) (t : Nat) : (s.at t).pins.hotWest = s.pins.hotWest := rfl
@[simp] theorem State.at_pins_hotEast (s : State) (t : Nat) : (s.at t).pins.hotEast = s.pins.hotEast := rfl
@[simp] theorem State.at_pins_irqs (s : State) (t : Nat) : (s.at t).pins.irqs = s.pins.irqs := rfl
@[simp] theorem State.at_pins_resp (s : State) (t : Nat) : (s.at t).pins.resp = s.pins.resp := rfl
@[simp] theorem State.at_pins_sent (s : State) (t : Nat) : (s.at t).pins.sent = s.pins.sent := rfl
@[simp] theorem State.at_pins_links (s : State) (t : Nat) : (s.at t).pins.links = s.pins.links := rfl
@[simp] theorem State.at_pins_presents (s : State) (t : Nat) : (s.at t).pins.presents = s.pins.presents := rfl
@[simp] theorem State.at_pins_flrDone (s : State) (t : Nat) : (s.at t).pins.flrDone = s.pins.flrDone := rfl

/-! ## answer -/

@[simp] theorem State.answer_pending (s : State) (r : BusResp) : (s.answer r).pending = s.pending := rfl
@[simp] theorem State.answer_boot (s : State) (r : BusResp) : (s.answer r).boot = s.boot := rfl
@[simp] theorem State.answer_csr (s : State) (r : BusResp) : (s.answer r).csr = s.csr := rfl
@[simp] theorem State.answer_cfg (s : State) (r : BusResp) : (s.answer r).cfg = s.cfg := rfl
@[simp] theorem State.answer_parts (s : State) (r : BusResp) : (s.answer r).parts = s.parts := rfl
@[simp] theorem State.answer_queues (s : State) (r : BusResp) : (s.answer r).queues = s.queues := rfl
@[simp] theorem State.answer_front (s : State) (r : BusResp) : (s.answer r).front = s.front := rfl
@[simp] theorem State.answer_mem (s : State) (r : BusResp) : (s.answer r).mem = s.mem := rfl
@[simp] theorem State.answer_kennel (s : State) (r : BusResp) : (s.answer r).kennel = s.kennel := rfl
@[simp] theorem State.answer_herd (s : State) (r : BusResp) : (s.answer r).herd = s.herd := rfl
@[simp] theorem State.answer_arr (s : State) (r : BusResp) : (s.answer r).arr = s.arr := rfl
@[simp] theorem State.answer_pwr (s : State) (r : BusResp) : (s.answer r).pwr = s.pwr := rfl
@[simp] theorem State.answer_ret (s : State) (r : BusResp) : (s.answer r).ret = s.ret := rfl
@[simp] theorem State.answer_strain (s : State) (r : BusResp) : (s.answer r).strain = s.strain := rfl
@[simp] theorem State.answer_setter (s : State) (r : BusResp) : (s.answer r).setter = s.setter := rfl
@[simp] theorem State.answer_vis (s : State) (r : BusResp) : (s.answer r).vis = s.vis := rfl
@[simp] theorem State.answer_fwd (s : State) (r : BusResp) : (s.answer r).fwd = s.fwd := rfl
@[simp] theorem State.answer_mmu (s : State) (r : BusResp) : (s.answer r).mmu = s.mmu := rfl
@[simp] theorem State.answer_steep (s : State) (r : BusResp) : (s.answer r).steep = s.steep := rfl
@[simp] theorem State.answer_trace (s : State) (r : BusResp) : (s.answer r).trace = s.trace := rfl
@[simp] theorem State.answer_dbg (s : State) (r : BusResp) : (s.answer r).dbg = s.dbg := rfl
@[simp] theorem State.answer_err (s : State) (r : BusResp) : (s.answer r).err = s.err := rfl
@[simp] theorem State.answer_fresh (s : State) (r : BusResp) : (s.answer r).fresh = s.fresh := rfl
@[simp] theorem State.answer_pins_powered (s : State) (r : BusResp) : (s.answer r).pins.powered = s.pins.powered := rfl
@[simp] theorem State.answer_pins_inReset (s : State) (r : BusResp) : (s.answer r).pins.inReset = s.pins.inReset := rfl
@[simp] theorem State.answer_pins_forced (s : State) (r : BusResp) : (s.answer r).pins.forced = s.pins.forced := rfl
@[simp] theorem State.answer_pins_portMap (s : State) (r : BusResp) : (s.answer r).pins.portMap = s.pins.portMap := rfl
@[simp] theorem State.answer_pins_linkUp (s : State) (r : BusResp) : (s.answer r).pins.linkUp = s.pins.linkUp := rfl
@[simp] theorem State.answer_pins_now (s : State) (r : BusResp) : (s.answer r).pins.now = s.pins.now := rfl
@[simp] theorem State.answer_pins_bypass (s : State) (r : BusResp) : (s.answer r).pins.bypass = s.pins.bypass := rfl
@[simp] theorem State.answer_pins_hotWest (s : State) (r : BusResp) : (s.answer r).pins.hotWest = s.pins.hotWest := rfl
@[simp] theorem State.answer_pins_hotEast (s : State) (r : BusResp) : (s.answer r).pins.hotEast = s.pins.hotEast := rfl
@[simp] theorem State.answer_pins_irqs (s : State) (r : BusResp) : (s.answer r).pins.irqs = s.pins.irqs := rfl
@[simp] theorem State.answer_pins_resp (s : State) (r : BusResp) : (s.answer r).pins.resp = r := rfl
@[simp] theorem State.answer_pins_sent (s : State) (r : BusResp) : (s.answer r).pins.sent = s.pins.sent := rfl
@[simp] theorem State.answer_pins_links (s : State) (r : BusResp) : (s.answer r).pins.links = s.pins.links := rfl
@[simp] theorem State.answer_pins_presents (s : State) (r : BusResp) : (s.answer r).pins.presents = s.pins.presents := rfl
@[simp] theorem State.answer_pins_flrDone (s : State) (r : BusResp) : (s.answer r).pins.flrDone = s.pins.flrDone := rfl

/-! ## irqPart -/

@[simp] theorem State.irqPart_pending (s : State) (p : PartId) (v : BitVec 4) : (s.irqPart p v).pending = s.pending := rfl
@[simp] theorem State.irqPart_boot (s : State) (p : PartId) (v : BitVec 4) : (s.irqPart p v).boot = s.boot := rfl
@[simp] theorem State.irqPart_csr (s : State) (p : PartId) (v : BitVec 4) : (s.irqPart p v).csr = s.csr := rfl
@[simp] theorem State.irqPart_cfg (s : State) (p : PartId) (v : BitVec 4) : (s.irqPart p v).cfg = s.cfg := rfl
@[simp] theorem State.irqPart_parts (s : State) (p : PartId) (v : BitVec 4) : (s.irqPart p v).parts = s.parts := rfl
@[simp] theorem State.irqPart_queues (s : State) (p : PartId) (v : BitVec 4) : (s.irqPart p v).queues = s.queues := rfl
@[simp] theorem State.irqPart_front (s : State) (p : PartId) (v : BitVec 4) : (s.irqPart p v).front = s.front := rfl
@[simp] theorem State.irqPart_mem (s : State) (p : PartId) (v : BitVec 4) : (s.irqPart p v).mem = s.mem := rfl
@[simp] theorem State.irqPart_kennel (s : State) (p : PartId) (v : BitVec 4) : (s.irqPart p v).kennel = s.kennel := rfl
@[simp] theorem State.irqPart_herd (s : State) (p : PartId) (v : BitVec 4) : (s.irqPart p v).herd = s.herd := rfl
@[simp] theorem State.irqPart_arr (s : State) (p : PartId) (v : BitVec 4) : (s.irqPart p v).arr = s.arr := rfl
@[simp] theorem State.irqPart_pwr (s : State) (p : PartId) (v : BitVec 4) : (s.irqPart p v).pwr = s.pwr := rfl
@[simp] theorem State.irqPart_ret (s : State) (p : PartId) (v : BitVec 4) : (s.irqPart p v).ret = s.ret := rfl
@[simp] theorem State.irqPart_strain (s : State) (p : PartId) (v : BitVec 4) : (s.irqPart p v).strain = s.strain := rfl
@[simp] theorem State.irqPart_setter (s : State) (p : PartId) (v : BitVec 4) : (s.irqPart p v).setter = s.setter := rfl
@[simp] theorem State.irqPart_vis (s : State) (p : PartId) (v : BitVec 4) : (s.irqPart p v).vis = s.vis := rfl
@[simp] theorem State.irqPart_fwd (s : State) (p : PartId) (v : BitVec 4) : (s.irqPart p v).fwd = s.fwd := rfl
@[simp] theorem State.irqPart_mmu (s : State) (p : PartId) (v : BitVec 4) : (s.irqPart p v).mmu = s.mmu := rfl
@[simp] theorem State.irqPart_steep (s : State) (p : PartId) (v : BitVec 4) : (s.irqPart p v).steep = s.steep := rfl
@[simp] theorem State.irqPart_trace (s : State) (p : PartId) (v : BitVec 4) : (s.irqPart p v).trace = s.trace := rfl
@[simp] theorem State.irqPart_dbg (s : State) (p : PartId) (v : BitVec 4) : (s.irqPart p v).dbg = s.dbg := rfl
@[simp] theorem State.irqPart_err (s : State) (p : PartId) (v : BitVec 4) : (s.irqPart p v).err = s.err := rfl
@[simp] theorem State.irqPart_fresh (s : State) (p : PartId) (v : BitVec 4) : (s.irqPart p v).fresh = s.fresh := rfl
@[simp] theorem State.irqPart_pins_powered (s : State) (p : PartId) (v : BitVec 4) : (s.irqPart p v).pins.powered = s.pins.powered := rfl
@[simp] theorem State.irqPart_pins_inReset (s : State) (p : PartId) (v : BitVec 4) : (s.irqPart p v).pins.inReset = s.pins.inReset := rfl
@[simp] theorem State.irqPart_pins_forced (s : State) (p : PartId) (v : BitVec 4) : (s.irqPart p v).pins.forced = s.pins.forced := rfl
@[simp] theorem State.irqPart_pins_portMap (s : State) (p : PartId) (v : BitVec 4) : (s.irqPart p v).pins.portMap = s.pins.portMap := rfl
@[simp] theorem State.irqPart_pins_linkUp (s : State) (p : PartId) (v : BitVec 4) : (s.irqPart p v).pins.linkUp = s.pins.linkUp := rfl
@[simp] theorem State.irqPart_pins_now (s : State) (p : PartId) (v : BitVec 4) : (s.irqPart p v).pins.now = s.pins.now := rfl
@[simp] theorem State.irqPart_pins_bypass (s : State) (p : PartId) (v : BitVec 4) : (s.irqPart p v).pins.bypass = s.pins.bypass := rfl
@[simp] theorem State.irqPart_pins_hotWest (s : State) (p : PartId) (v : BitVec 4) : (s.irqPart p v).pins.hotWest = s.pins.hotWest := rfl
@[simp] theorem State.irqPart_pins_hotEast (s : State) (p : PartId) (v : BitVec 4) : (s.irqPart p v).pins.hotEast = s.pins.hotEast := rfl
@[simp] theorem State.irqPart_pins_irqs (s : State) (p : PartId) (v : BitVec 4) : (s.irqPart p v).pins.irqs = s.pins.irqs ++ [⟨false, p, v⟩] := rfl
@[simp] theorem State.irqPart_pins_resp (s : State) (p : PartId) (v : BitVec 4) : (s.irqPart p v).pins.resp = s.pins.resp := rfl
@[simp] theorem State.irqPart_pins_sent (s : State) (p : PartId) (v : BitVec 4) : (s.irqPart p v).pins.sent = s.pins.sent := rfl
@[simp] theorem State.irqPart_pins_links (s : State) (p : PartId) (v : BitVec 4) : (s.irqPart p v).pins.links = s.pins.links := rfl
@[simp] theorem State.irqPart_pins_presents (s : State) (p : PartId) (v : BitVec 4) : (s.irqPart p v).pins.presents = s.pins.presents := rfl
@[simp] theorem State.irqPart_pins_flrDone (s : State) (p : PartId) (v : BitVec 4) : (s.irqPart p v).pins.flrDone = s.pins.flrDone := rfl

/-! ## irqBlock -/

@[simp] theorem State.irqBlock_pending (s : State) (v : BitVec 4) : (s.irqBlock v).pending = s.pending := rfl
@[simp] theorem State.irqBlock_boot (s : State) (v : BitVec 4) : (s.irqBlock v).boot = s.boot := rfl
@[simp] theorem State.irqBlock_csr (s : State) (v : BitVec 4) : (s.irqBlock v).csr = s.csr := rfl
@[simp] theorem State.irqBlock_cfg (s : State) (v : BitVec 4) : (s.irqBlock v).cfg = s.cfg := rfl
@[simp] theorem State.irqBlock_parts (s : State) (v : BitVec 4) : (s.irqBlock v).parts = s.parts := rfl
@[simp] theorem State.irqBlock_queues (s : State) (v : BitVec 4) : (s.irqBlock v).queues = s.queues := rfl
@[simp] theorem State.irqBlock_front (s : State) (v : BitVec 4) : (s.irqBlock v).front = s.front := rfl
@[simp] theorem State.irqBlock_mem (s : State) (v : BitVec 4) : (s.irqBlock v).mem = s.mem := rfl
@[simp] theorem State.irqBlock_kennel (s : State) (v : BitVec 4) : (s.irqBlock v).kennel = s.kennel := rfl
@[simp] theorem State.irqBlock_herd (s : State) (v : BitVec 4) : (s.irqBlock v).herd = s.herd := rfl
@[simp] theorem State.irqBlock_arr (s : State) (v : BitVec 4) : (s.irqBlock v).arr = s.arr := rfl
@[simp] theorem State.irqBlock_pwr (s : State) (v : BitVec 4) : (s.irqBlock v).pwr = s.pwr := rfl
@[simp] theorem State.irqBlock_ret (s : State) (v : BitVec 4) : (s.irqBlock v).ret = s.ret := rfl
@[simp] theorem State.irqBlock_strain (s : State) (v : BitVec 4) : (s.irqBlock v).strain = s.strain := rfl
@[simp] theorem State.irqBlock_setter (s : State) (v : BitVec 4) : (s.irqBlock v).setter = s.setter := rfl
@[simp] theorem State.irqBlock_vis (s : State) (v : BitVec 4) : (s.irqBlock v).vis = s.vis := rfl
@[simp] theorem State.irqBlock_fwd (s : State) (v : BitVec 4) : (s.irqBlock v).fwd = s.fwd := rfl
@[simp] theorem State.irqBlock_mmu (s : State) (v : BitVec 4) : (s.irqBlock v).mmu = s.mmu := rfl
@[simp] theorem State.irqBlock_steep (s : State) (v : BitVec 4) : (s.irqBlock v).steep = s.steep := rfl
@[simp] theorem State.irqBlock_trace (s : State) (v : BitVec 4) : (s.irqBlock v).trace = s.trace := rfl
@[simp] theorem State.irqBlock_dbg (s : State) (v : BitVec 4) : (s.irqBlock v).dbg = s.dbg := rfl
@[simp] theorem State.irqBlock_err (s : State) (v : BitVec 4) : (s.irqBlock v).err = s.err := rfl
@[simp] theorem State.irqBlock_fresh (s : State) (v : BitVec 4) : (s.irqBlock v).fresh = s.fresh := rfl
@[simp] theorem State.irqBlock_pins_powered (s : State) (v : BitVec 4) : (s.irqBlock v).pins.powered = s.pins.powered := rfl
@[simp] theorem State.irqBlock_pins_inReset (s : State) (v : BitVec 4) : (s.irqBlock v).pins.inReset = s.pins.inReset := rfl
@[simp] theorem State.irqBlock_pins_forced (s : State) (v : BitVec 4) : (s.irqBlock v).pins.forced = s.pins.forced := rfl
@[simp] theorem State.irqBlock_pins_portMap (s : State) (v : BitVec 4) : (s.irqBlock v).pins.portMap = s.pins.portMap := rfl
@[simp] theorem State.irqBlock_pins_linkUp (s : State) (v : BitVec 4) : (s.irqBlock v).pins.linkUp = s.pins.linkUp := rfl
@[simp] theorem State.irqBlock_pins_now (s : State) (v : BitVec 4) : (s.irqBlock v).pins.now = s.pins.now := rfl
@[simp] theorem State.irqBlock_pins_bypass (s : State) (v : BitVec 4) : (s.irqBlock v).pins.bypass = s.pins.bypass := rfl
@[simp] theorem State.irqBlock_pins_hotWest (s : State) (v : BitVec 4) : (s.irqBlock v).pins.hotWest = s.pins.hotWest := rfl
@[simp] theorem State.irqBlock_pins_hotEast (s : State) (v : BitVec 4) : (s.irqBlock v).pins.hotEast = s.pins.hotEast := rfl
@[simp] theorem State.irqBlock_pins_irqs (s : State) (v : BitVec 4) : (s.irqBlock v).pins.irqs = s.pins.irqs ++ [⟨true, 0, v⟩] := rfl
@[simp] theorem State.irqBlock_pins_resp (s : State) (v : BitVec 4) : (s.irqBlock v).pins.resp = s.pins.resp := rfl
@[simp] theorem State.irqBlock_pins_sent (s : State) (v : BitVec 4) : (s.irqBlock v).pins.sent = s.pins.sent := rfl
@[simp] theorem State.irqBlock_pins_links (s : State) (v : BitVec 4) : (s.irqBlock v).pins.links = s.pins.links := rfl
@[simp] theorem State.irqBlock_pins_presents (s : State) (v : BitVec 4) : (s.irqBlock v).pins.presents = s.pins.presents := rfl
@[simp] theorem State.irqBlock_pins_flrDone (s : State) (v : BitVec 4) : (s.irqBlock v).pins.flrDone = s.pins.flrDone := rfl

/-! ## Reads after writes -/

@[simp] theorem State.part_setPart (s : State) (p : PartId) (x : Part) : (s.setPart p x).part p = x := by
  simp [State.part, State.setPart]

theorem State.part_setPart_ne (s : State) {p q : PartId} (x : Part) (h : p ≠ q) : (s.setPart p x).part q = s.part q := by
  have : (p : Nat) ≠ q := fun e => h (Fin.ext e)
  simp [State.part, State.setPart, Vector.getElem_set_ne, this]

@[simp] theorem State.part_updPart (s : State) (p : PartId) (f : Part → Part) : (s.updPart p f).part p = f (s.part p) := by
  simp [State.updPart]

theorem State.part_updPart_ne (s : State) {p q : PartId} (f : Part → Part) (h : p ≠ q) : (s.updPart p f).part q = s.part q := by
  simp [State.updPart, State.part_setPart_ne _ _ h]

@[simp] theorem State.queue_setQueue (s : State) (q : QueueId) (x : Queue) : (s.setQueue q x).queue q = x := by
  simp [State.queue, State.setQueue]

theorem State.queue_setQueue_ne (s : State) {q r : QueueId} (x : Queue) (h : q ≠ r) : (s.setQueue q x).queue r = s.queue r := by
  have : (q : Nat) ≠ r := fun e => h (Fin.ext e)
  simp [State.queue, State.setQueue, Vector.getElem_set_ne, this]

@[simp] theorem State.queue_updQueue (s : State) (q : QueueId) (f : Queue → Queue) : (s.updQueue q f).queue q = f (s.queue q) := by
  simp [State.updQueue]

theorem State.queue_updQueue_ne (s : State) {q r : QueueId} (f : Queue → Queue) (h : q ≠ r) : (s.updQueue q f).queue r = s.queue r := by
  simp [State.updQueue, State.queue_setQueue_ne _ _ h]

@[simp] theorem State.sess_setSess (s : State) (l : LinkId) (x : Session) : (s.setSess l x).sess l = x := by
  simp [State.sess, State.setSess]

theorem State.sess_setSess_ne (s : State) {l k : LinkId} (x : Session) (h : l ≠ k) : (s.setSess l x).sess k = s.sess k := by
  have : (l : Nat) ≠ k := fun e => h (Fin.ext e)
  simp [State.sess, State.setSess, Vector.getElem_set_ne, this]

@[simp] theorem State.sess_updSess (s : State) (l : LinkId) (f : Session → Session) : (s.updSess l f).sess l = f (s.sess l) := by
  simp [State.updSess]

@[simp] theorem State.core_setCore (s : State) (c : CoreId) (x : Core) : (s.setCore c x).core c = x := by
  simp [State.core, State.setCore]

theorem State.core_setCore_ne (s : State) {c d : CoreId} (x : Core) (h : c ≠ d) : (s.setCore c x).core d = s.core d := by
  have : (c : Nat) ≠ d := fun e => h (Fin.ext e)
  simp [State.core, State.setCore, Vector.getElem_set_ne, this]

@[simp] theorem State.group?_setGroup (s : State) (g : GroupRef) (x : Option Group) : (s.setGroup g x).group? g = x := by
  simp [State.group?, State.setGroup]

/-- The byte just written reads back; every other byte is as it was. -/
theorem Mem.get_set (m : Mem) (a k : Nat) (b : Byte) (h : m.wf = true) : (m.set a b).get k = if k = a then b else m.get k := by
  have key : ∀ (m : Mem) (lo : Nat), Mem.wfFrom lo m = true → (∀ j, j < lo → m.get j = 0) ∧ (m.set a b).get k = if k = a then b else m.get k := by
    intro m
    induction m with
    | nil =>
      intro lo _
      refine ⟨fun _ _ => rfl, ?_⟩
      by_cases hk : k = a
      · subst hk; by_cases hb : b = 0#8 <;> simp [Mem.set, hb, Mem.get]
      · have : a ≠ k := fun e => hk e.symm
        by_cases hb : b = 0#8 <;> simp [Mem.set, hb, Mem.get, hk, this]
    | cons c r ih =>
      obtain ⟨i, v⟩ := c
      intro lo h
      simp only [Mem.wfFrom, Bool.and_eq_true, decide_eq_true_eq] at h
      obtain ⟨ih1, ih2⟩ := ih (i + 1) h.2
      refine ⟨fun j hj => ?_, ?_⟩
      · have h1 : i ≠ j := by omega
        have h2 : j < i := by omega
        simp [Mem.get, h1, h2]
      · unfold Mem.set
        by_cases h1 : a < i
        · simp only [h1, ite_true]
          by_cases hb : b = 0#8
          · by_cases hk : k = a
            · subst hk; have : i ≠ k := by omega
              simp [hb, Mem.get, this, h1]
            · simp [hb, hk]
          · by_cases hk : k = a
            · subst hk; simp [hb, Mem.get]
            · have : a ≠ k := fun e => hk e.symm
              by_cases hlt : k < a
              · have h3 : i ≠ k := by omega
                have h4 : k < i := by omega
                simp [hb, hk, Mem.get, this, hlt, h3, h4]
              · simp [hb, hk, Mem.get, this, hlt]
        · by_cases h2 : a = i
          · subst h2
            simp only [Nat.lt_irrefl, ite_false, ite_true]
            by_cases hk : k = a
            · subst hk
              by_cases hb : b = 0#8
              · simp [hb, ih1 k (by omega)]
              · simp [hb, Mem.get]
            · have : a ≠ k := fun e => hk e.symm
              by_cases hb : b = 0#8
              · by_cases hlt : k < a
                · simp [hb, hk, Mem.get, this, hlt, ih1 k (by omega)]
                · simp [hb, hk, Mem.get, this, hlt]
              · simp [hb, hk, Mem.get, this]
          · simp only [h1, h2, ite_false]
            by_cases hk : k = i
            · subst hk; have : ¬ k = a := fun e => h2 e.symm
              simp [Mem.get, this]
            · have h3 : i ≠ k := fun e => hk e.symm
              by_cases hlt : k < i
              · have h4 : ¬ k = a := by omega
                simp [Mem.get, h3, hlt, h4]
              · simp [Mem.get, h3, hlt, ih2]
  exact (key m 0 h).2

/-- A write of several bytes leaves every byte outside them. -/
theorem Mem.get_write_ne (m : Mem) (a k : Nat) (bs : List Byte) (h : m.wf = true) (hk : k < a ∨ a + bs.length ≤ k) :
    (m.write a bs).get k = m.get k := by
  induction bs generalizing m a with
  | nil => rfl
  | cons b r ih =>
    simp only [List.length_cons] at hk
    simp only [Mem.write]
    rw [ih _ _ (Mem.set_wf m a b h) (by omega), Mem.get_set m a k b h]
    have : k ≠ a := by omega
    simp [this]

/-- A read of the bytes just written gives them. -/
theorem Mem.read_write (m : Mem) (a : Nat) (bs : List Byte) (h : m.wf = true) : (m.write a bs).read a bs.length = bs := by
  induction bs generalizing m a with
  | nil => rfl
  | cons b r ih =>
    simp only [List.length_cons, Mem.read, Mem.write]
    rw [ih _ _ (Mem.set_wf m a b h), Mem.get_write_ne _ _ _ _ (Mem.set_wf m a b h) (by omega), Mem.get_set m a a b h]
    simp

end Sys2Proof.Machine
end

