-- ==== Sys2Proof/Laws/Spec.lean ====
section
/-!
SUPPORT. Sys2Proof/Laws/Spec.lean: what the shared operations do, once each: control-bus writes, the life of a queue's command, start-up
stalls, error captures.
-/

set_option linter.all false

namespace Sys2Proof.Machine
open Sys2Proof

/-! ## Control-bus writes -/

theorem State.relock_isUnlocked_csr (s : State) (req : Requester) : (s.relock req).csr = { s.csr with unlocked := lockAfter req s.csr.unlocked } := by
  cases req <;> rfl

theorem State.relock_eq (s : State) (req : Requester) :
    s.relock req = { s with csr := { s.csr with unlocked := lockAfter req s.csr.unlocked } } := by
  cases req <;> rfl

/-- A write of the global block that is taken: the operation, told whether the lock was open, then the answer. -/
theorem State.busWrite_global (s : State) (req : Requester) (inError inReset : Bool) (f : Bool → State → State)
    (hl : s.live = true) (he : s.errored = false ∨ inError = true) (hr : ∀ p, req ≠ .part p) :
    s.busWrite req none inError inReset f = (f s.isUnlocked (s.relock req)).answer .ok := by
  have hg : s.gate req none true = .go := by
    cases req with
    | part p => exact absurd rfl (hr p)
    | mgmt => simp [State.gate, hl]
    | debug => simp [State.gate, hl]
  have hx : (s.errored && !inError) = false := by rcases he with h | h <;> simp [h]
  simp [State.busWrite, hg, hx, State.pageClosed]

/-- A write of a partition's page that is taken. -/
theorem State.busWrite_page (s : State) (req : Requester) (p : PartId) (inError inReset : Bool) (f : Bool → State → State)
    (h : s.takesPage req p) : s.busWrite req (some p) inError inReset f = (f s.isUnlocked (s.relock req)).answer .ok := by
  obtain ⟨hl, he, hr, hq⟩ := h
  have hg : s.gate req (some p) true = .go := by
    cases req with
    | part q => have := hq q rfl; subst this; simp [State.gate, hl]
    | mgmt => simp [State.gate, hl]
    | debug => simp [State.gate, hl]
  have hp : (s.relock req).pageClosed (some p) = false := by
    rw [State.relock_eq]; exact hr
  simp [State.busWrite, hg, he, hp]

/-! ## The commands of a queue -/

/-- A change of one command's record reaches that record, and the others stay. -/
theorem updSeq_mem {n : Nat} {f : Cmd → Cmd} {l : List Cmd} (hf : ∀ c, (f c).seq = c.seq) {d : Cmd} (hd : d ∈ updSeq n f l) (hn : d.seq = n) :
    ∃ c ∈ l, c.seq = n ∧ d = f c := by
  simp only [updSeq, List.mem_map] at hd
  obtain ⟨c, hc, rfl⟩ := hd
  by_cases h : c.seq = n
  · exact ⟨c, hc, h, by simp only [h, if_true]⟩
  · simp only [h, if_false] at hn

/-- What `updCmd` makes of a command holds of it afterwards. -/
theorem State.cmdIs_updCmd (s : State) (r : CmdRef) (f : Cmd → Cmd) (P : Cmd → Prop) (hf : ∀ c, (f c).seq = c.seq)
    (he : ∃ c ∈ (s.queue r.q).cmds, c.seq = r.seq) (h : ∀ c ∈ (s.queue r.q).cmds, c.seq = r.seq → P (f c)) : (s.updCmd r f).cmdIs r P := by
  constructor
  · obtain ⟨c, hc, hs⟩ := he
    refine ⟨f c, ?_, by rw [hf]; exact hs⟩
    simp only [State.updCmd, State.queue_updQueue, updSeq, List.mem_map]
    exact ⟨c, hc, by simp [hs]⟩
  · intro d hd hs
    simp only [State.updCmd, State.queue_updQueue] at hd
    obtain ⟨c, hc, hcs, rfl⟩ := updSeq_mem hf hd hs
    exact h c hc hcs

/-- The command that begins is one the queue holds. -/
theorem State.beginning_mem {s : State} {q : QueueId} {op : Nat} {c : Cmd} (h : s.beginning q op = some c) : c ∈ (s.queue q).cmds := by
  simp only [State.beginning, State.toBegin] at h
  split at h
  · rename_i d hd
    split at h
    · cases h; exact List.mem_of_find?_eq_some hd
    · cases h
  · cases h

/-- A command that ends with a status has ended with it. -/
theorem State.endedWith_finish (s : State) (r : CmdRef) (st : W16) (he : ∃ c ∈ (s.queue r.q).cmds, c.seq = r.seq) : (s.finish r st).endedWith r st :=
  State.cmdIs_updCmd s r _ _ (fun _ => rfl) he (fun _ _ _ => ⟨rfl, rfl⟩)

/-- A command that ends with its work done has ended with all its items done. -/
theorem State.endedDone_finishOk (s : State) (r : CmdRef) (he : ∃ c ∈ (s.queue r.q).cmds, c.seq = r.seq) : (s.finishOk r).endedDone r :=
  State.cmdIs_updCmd s r _ _ (fun _ => rfl) he (fun _ _ _ => ⟨rfl, rfl⟩)

/-- A command that begins runs. -/
theorem State.isRunning_begin (s : State) (r : CmdRef) (he : ∃ c ∈ (s.queue r.q).cmds, c.seq = r.seq) : (s.begin r).isRunning r :=
  State.cmdIs_updCmd s r _ _ (fun _ => rfl) he (fun _ _ _ => rfl)

/-- What holds of a command holds in every state whose queues are the same. -/
theorem State.cmdIs_congr {s t : State} (r : CmdRef) (P : Cmd → Prop) (h : t.queues = s.queues) (hs : s.cmdIs r P) : t.cmdIs r P := by
  unfold State.cmdIs State.queue at *; rw [h]; exact hs

/-! ## Start-up -/

theorem State.doIf_irqBlock_boot (s : State) (b : Bool) (v : BitVec 4) : (s.doIf b (·.irqBlock v)).boot = s.boot := by
  unfold State.doIf; split <;> rfl

@[simp] theorem State.stall_boot (s : State) (c : BitVec 4) (d : W32) : (s.stall c d).boot = { s.boot with stall := c, detail := d } := by
  simp only [State.stall, State.doIf_irqBlock_boot]

@[simp] theorem State.tusChanged_boot (s : State) (n : Nat) : (s.tusChanged n).boot = s.boot := by
  simp only [State.tusChanged, State.doIf_irqBlock_boot]

/-! ## Errors -/

theorem cls_of_ofNat (n : Nat) : fldN (BitVec.ofNat 64 n) 61 2 = n / 2 ^ 61 % 4 := by
  simp only [fldN, BitVec.toNat_ofNat, BitVec.extractLsb'_toNat, Nat.shiftRight_eq_div_pow]
  omega

/-- A capture of class BLOCK replaces every capture of a lower class. -/
theorem State.offerLog_block (s : State) (w : W64) (h : fldN w 61 2 = 3) :
    (s.offerLog w).err.log = if bit s.err.log 63 = true ∧ fldN s.err.log 61 2 = 3 then s.err.log else w := by
  simp only [State.offerLog, h]
  repeat' split
  all_goals simp_all

theorem State.offerLog_rest (s : State) (w : W64) :
    (s.offerLog w).pins = s.pins ∧ (s.offerLog w).boot = s.boot ∧ (s.offerLog w).err.blockIrq = s.err.blockIrq := by
  simp only [State.offerLog]
  split <;> simp

/-! ## Leashes -/

theorem State.loseOwners_nil (s : State) (env : Env) : s.loseOwners env [] = s := by
  have h : ∀ l : List (Nat × KSlot), l.filterMap (fun e => match e.2.data with
      | .ray r => (match r.leash with | some k => if ([] : List Nat).contains k then some e.1 else none | none => none)
      | _ => none) = [] := by
    intro l
    rw [List.filterMap_eq_nil_iff]
    rintro ⟨i, g, p, k, d⟩ _
    cases d with
    | ray y => cases hy : y.leash <;> simp [hy]
    | _ => rfl
  unfold State.loseOwners
  simp only []
  erw [h]
  simp

/-! ## Accesses depend on memory, the pages and the memory management unit only -/

theorem State.translate_congr {s t : State} (hm : t.mem = s.mem) (hp : t.parts = s.parts) (ht : t.mmu = s.mmu) (p : PartId) (k : AccKind) (va : Nat) :
    t.translate p k va = s.translate p k va := by
  have e1 : t.part p = s.part p := by simp only [State.part, hp]
  have e2 : t.tlbHit p va = s.tlbHit p va := by simp only [State.tlbHit, ht]
  have e3 : t.walk p k va = s.walk p k va := by simp only [State.walk, State.rootTable, e1, hm, ht]
  simp only [State.translate, e1, e2, e3]

theorem State.xlat_congr {s t : State} (hm : t.mem = s.mem) (hp : t.parts = s.parts) (ht : t.mmu = s.mmu) (p : PartId) (k : AccKind) (l : List (Nat × Nat)) :
    t.xlat p k l = s.xlat p k l := by
  induction l with
  | nil => rfl
  | cons a r ih => simp only [State.xlat, State.translate_congr hm hp ht, ih]

theorem State.vread_congr {s t : State} (hm : t.mem = s.mem) (hp : t.parts = s.parts) (ht : t.mmu = s.mmu) (p : PartId) (va n : Nat) :
    t.vread p va n = s.vread p va n := by
  simp only [State.vread, State.xlat_congr hm hp ht, hm]

theorem State.vnum_congr {s t : State} (hm : t.mem = s.mem) (hp : t.parts = s.parts) (ht : t.mmu = s.mmu) (p : PartId) (va n : Nat) :
    t.vnum p va n = s.vnum p va n := by
  simp only [State.vnum, State.vread_congr hm hp ht]

theorem State.vslot_congr {s t : State} (hm : t.mem = s.mem) (hp : t.parts = s.parts) (ht : t.mmu = s.mmu) (p : PartId) (va : Nat) :
    t.vslot p va = s.vslot p va := by
  simp only [State.vslot, State.vread_congr hm hp ht]

theorem State.vunit_congr {s t : State} (hm : t.mem = s.mem) (hp : t.parts = s.parts) (ht : t.mmu = s.mmu) (p : PartId) (va : Nat) :
    t.vunit p va = s.vunit p va := State.vnum_congr hm hp ht p va 128

theorem State.vdesc_congr {s t : State} (hm : t.mem = s.mem) (hp : t.parts = s.parts) (ht : t.mmu = s.mmu) (p : PartId) (va : Nat) :
    t.vdesc p va = s.vdesc p va := by
  simp only [State.vdesc, State.vunit_congr hm hp ht]

theorem State.vwrite_mem {s t u : State} (hm : t.mem = s.mem) (hp : t.parts = s.parts) (ht : t.mmu = s.mmu) {p : PartId} {va : Nat} {bs : List Byte}
    (h : s.vwrite p va bs = .ok u) : t.vwrite p va bs = .ok { t with mem := u.mem } := by
  simp only [State.vwrite, State.vwriteAs] at h ⊢
  rw [State.xlat_congr hm hp ht]
  split at h
  · cases h
  · cases h; simp [hm]

theorem State.vwrite_eq {s u : State} {p : PartId} {va : Nat} {bs : List Byte} (h : s.vwrite p va bs = .ok u) : u = { s with mem := u.mem } := by
  simp only [State.vwrite, State.vwriteAs] at h
  split at h
  · cases h
  · cases h; rfl

/-! ## The trace -/

/-- With the trace off nothing is recorded. -/
theorem State.record_off (s : State) (r : TraceRec) (h : s.trace.enable = false) : s.record r = s := by
  simp [State.record, State.traceSel, h]

/-! ## Numbers in memory -/

theorem leNat_leBytes (n v : Nat) : leNat (leBytes n v) = v % 256 ^ n := by
  induction n generalizing v with
  | zero => simp [leBytes, leNat, Nat.mod_one]
  | succ n ih =>
    rw [show 256 ^ (n + 1) = 256 * 256 ^ n from by ring, Nat.mod_mul]
    simp only [leBytes, leNat, ih, BitVec.toNat_ofNat]

theorem leBytes_length (n v : Nat) : (leBytes n v).length = n := by
  induction n generalizing v with
  | zero => rfl
  | succ n ih => simp [leBytes, ih]

theorem leNat_lt (l : List Byte) : leNat l < 256 ^ l.length := by
  induction l with
  | nil => simp [leNat]
  | cons b r ih => simp only [leNat, List.length_cons, Nat.pow_succ]; have := b.isLt; omega

theorem Mem.read_length (m : Mem) (a n : Nat) : (m.read a n).length = n := by
  induction n generalizing a with
  | zero => rfl
  | succ n ih => simp [Mem.read, ih]

/-! ## More on queues -/

/-- A write to a queue slot that holds a queue and is taken. -/
theorem State.queueSlotWrite_taken (s : State) (req : Requester) (p : PartId) (n : Fin 64) (q : QueueId) (f : QueueId → State → State)
    (h : s.takesPage req p) (hq : s.slotQueue p n.val = some q) : s.queueSlotWrite req p n f = (f q (s.relock req)).answer .ok := by
  have e : (s.relock req).slotQueue p n.val = s.slotQueue p n.val := by rw [State.relock_eq]; rfl
  simp only [State.queueSlotWrite, State.pageWrite]
  rw [State.busWrite_page s req p _ _ _ h, e, hq]

/-- A command of any queue after a change of one command's record stems from a record before it. -/
theorem State.mem_updCmd {s : State} {r : CmdRef} {f : Cmd → Cmd} {k : QueueId} {d : Cmd} (h : d ∈ ((s.updCmd r f).queue k).cmds) :
    ∃ c ∈ (s.queue k).cmds, d = c ∨ d = f c := by
  by_cases hk : r.q = k
  · subst hk
    simp only [State.updCmd, State.queue_updQueue, updSeq, List.mem_map] at h
    obtain ⟨c, hc, rfl⟩ := h
    refine ⟨c, hc, ?_⟩
    split
    · exact .inr rfl
    · exact .inl rfl
  · rw [State.updCmd, State.queue_updQueue_ne _ _ hk] at h
    exact ⟨d, h, .inl rfl⟩

/-- Where no WAIT_VALUE is admitted none looks again. -/
theorem State.waitAll_none (s : State) (env : Env) (p : PartId) (h : ∀ k d, d ∈ (s.queue k).cmds → opOf d.raw ≠ 0x41) : s.waitAll env p = s := by
  have hw : ∀ k, s.waiting k = none := by
    intro k
    simp only [State.waiting, List.find?_eq_none]
    intro d hd; simp [h k d hd]
  simp only [State.waitAll]
  generalize s.queuesOf p = l
  induction l with
  | nil => rfl
  | cons a r ih => simp only [List.foldl_cons, hw, ih]

/-- The end of a command depends on the queues only. -/
theorem State.finishOk_queues {s t : State} (r : CmdRef) (h : s.queues = t.queues) : (s.finishOk r).queues = (t.finishOk r).queues := by
  simp only [State.finishOk, State.updCmd, State.updQueue, State.setQueue, State.queue, h]

theorem State.doIf_queues (s : State) (b : Bool) (f : State → State) (h : ∀ x : State, (f x).queues = x.queues) : (s.doIf b f).queues = s.queues := by
  unfold State.doIf; split <;> simp [h]

theorem State.doIf_part (s : State) (b : Bool) (f : State → State) (p : PartId) (h : ∀ x : State, (f x).part p = x.part p) :
    (s.doIf b f).part p = s.part p := by
  unfold State.doIf; split <;> simp [h]

@[simp] theorem State.finishOk_part (s : State) (r : CmdRef) (p : PartId) : (s.finishOk r).part p = s.part p := rfl

@[simp] theorem State.finish_part (s : State) (r : CmdRef) (st : W16) (p : PartId) : (s.finish r st).part p = s.part p := rfl

/-- The partition of a queue depends on the partition table only. -/
theorem State.qPart_congr {s t : State} (h : t.cfg.ptab = s.cfg.ptab) (q : QueueId) : t.qPart q = s.qPart q := by
  simp only [State.qPart, State.queueOwner, State.queueMask, State.partEn, State.ptabW, h]
  rfl

end Sys2Proof.Machine
end

