-- ==== Sys2Proof/Laws/Group.lean ====
section
/-!
SUPPORT. Sys2Proof/Laws/Group.lean: what an instruction of a Setter group does once its effect is known (R269, R303, R306).
-/

namespace Sys2Proof.Machine

/-- A group that is set is the one found there. -/
theorem group?_setGroup (s : State) (g : GroupRef) (x : Option Group) : (s.setGroup g x).group? g = x := by
  simp [State.group?, State.setGroup, State.core, State.setCore]

/-- Of two changes of a group slot the second counts. -/
theorem setGroup_setGroup (s : State) (g : GroupRef) (x y : Option Group) : (s.setGroup g x).setGroup g y = s.setGroup g y := by
  simp [State.setGroup, State.core, State.setCore]

/-- An instruction that completes leaves the group behind it. -/
theorem instr_done {s s1 : State} {g : GroupRef} {env : Env} {check : Check} {x y : Group} {f : State → Group → Ran}
    (h : s.fetches g x) (hc : check ≠ .failed) (ha : env.hw.addr = false) (hf : f (s.seen check) x = .done (s1.put g y)) (hy : y.state = .running) :
    s.instr g env check f = s1.ranTo g { y with pc := y.pc + 8 } := by
  obtain ⟨hi, pa, ht⟩ := h
  rw [State.seen] at hf
  simp only [State.instr, hi, ht, hc, ha, Bool.false_eq_true, if_false, hf, State.put, State.updGroup, group?_setGroup, setGroup_setGroup, State.stepped, State.ranTo, hy]
  cases y.stepping <;> simp [State.rayHalt, Group.rays]

/-- An instruction that sets the PC leaves the group there. -/
theorem instr_jump {s s1 : State} {g : GroupRef} {env : Env} {check : Check} {x y : Group} {f : State → Group → Ran} {pc : W32}
    (h : s.fetches g x) (hc : check ≠ .failed) (ha : env.hw.addr = false) (hf : f (s.seen check) x = .jump (s1.put g y) pc) (hy : y.state = .running) :
    s.instr g env check f = s1.ranTo g { y with pc := pc } := by
  obtain ⟨hi, pa, ht⟩ := h
  rw [State.seen] at hf
  simp only [State.instr, hi, ht, hc, ha, Bool.false_eq_true, if_false, hf, State.put, State.updGroup, group?_setGroup, setGroup_setGroup, State.stepped, State.ranTo, hy]
  cases y.stepping <;> simp [State.rayHalt, Group.rays]

/-- An instruction that uses an uncorrectable word ends its group (R305). -/
theorem instr_failed {s : State} {g : GroupRef} {env : Env} {x : Group} {f : State → Group → Ran} (h : s.fetches g x) :
    s.instr g env .failed f = s.containGroup g x := by
  obtain ⟨hi, pa, ht⟩ := h
  simp [State.instr, hi, ht]

/-- A group that issues is resident and RUNNING. -/
theorem issuing_running {s : State} {g : GroupRef} {x : Group} (h : s.issuing g = some x) : s.group? g = some x ∧ x.state = .running := by
  unfold State.issuing at h
  split at h
  · split at h
    · rename_i y hy hc; simp at hc h; subst h; exact ⟨hy, hc.2⟩
    · simp at h
  · simp at h

/-- A group put back where it stands changes nothing. -/
theorem setGroup_self {s : State} {g : GroupRef} {x : Group} (h : s.group? g = some x) : s.put g x = s := by
  have h2 : (s.setter.cores[g.core]).groups.set g.slot (some x) = (s.setter.cores[g.core]).groups := by
    have h3 : (s.setter.cores[g.core]).groups[g.slot] = some x := h
    rw [← h3]; simp
  have h4 : s.setter.cores.set g.core (s.setter.cores[g.core]) = s.setter.cores := by simp
  have h5 : ∀ c : Core, c = s.setter.cores[g.core] → s.setCore g.core c = s := by
    intro c hc
    subst hc
    show { s with setter := { s.setter with cores := s.setter.cores.set g.core (s.setter.cores[g.core]) } } = s
    rw [h4]
  refine h5 _ ?_
  have h6 : (s.core g.core).groups.set g.slot (some x) = (s.setter.cores[g.core]).groups := h2
  rw [h6]
  rfl

end Sys2Proof.Machine
end

