-- ==== Sys2Proof/Laws/Steep.lean ====
section
/-!
SUPPORT. Sys2Proof/Laws/Steep.lean: timers (R401 to R404): one that is started runs, one that is removed does not, and neither touches another.
-/

namespace Sys2Proof.Machine

/-- An item put into a list is there, and every other item stays. -/
theorem mem_steepPut (k : Nat) (it x : Timer × Nat) (l : List SteepEntry) :
    (∃ e ∈ steepPut k it l, x ∈ e.chain) ↔ x = it ∨ ∃ e ∈ l, x ∈ e.chain := by
  induction l with
  | nil => simp [steepPut]
  | cons e r ih =>
    unfold steepPut
    split
    · simp only [List.mem_cons, exists_eq_or_imp, List.mem_append, List.not_mem_nil, or_false]; tauto
    · split
      · simp
      · simp only [List.mem_cons, exists_eq_or_imp, ih]; tauto

/-- Merging the two latest entries loses no item. -/
theorem mem_steepMerge (x : Timer × Nat) : ∀ l : List SteepEntry, (∃ e ∈ steepMerge l, x ∈ e.chain) ↔ ∃ e ∈ l, x ∈ e.chain
  | [] => by simp [steepMerge]
  | [e] => by simp [steepMerge]
  | [e, f] => by simp [steepMerge]
  | e :: f :: g :: r => by
    have ih := mem_steepMerge x (f :: g :: r)
    simp only [steepMerge, List.mem_cons, exists_eq_or_imp] at ih ⊢
    rw [ih]

/-- Insertion adds its item and loses none. -/
theorem mem_steepInsert (cap : Nat) (it x : Timer × Nat) (l : List SteepEntry) :
    (∃ e ∈ (steepInsert cap it l).1, x ∈ e.chain) ↔ x = it ∨ ∃ e ∈ l, x ∈ e.chain := by
  unfold steepInsert
  split
  · exact mem_steepPut _ _ _ _
  · rw [mem_steepPut, mem_steepMerge]

/-- Inserting items one after another adds them all and loses none. -/
theorem mem_steepInserts (cap : Nat) (x : Timer × Nat) (its : List (Timer × Nat)) (a : List SteepEntry × Nat) :
    (∃ e ∈ (its.foldl (fun a it => ((steepInsert cap it a.1).1, if (steepInsert cap it a.1).2 then a.2 + 1 else a.2)) a).1, x ∈ e.chain)
      ↔ x ∈ its ∨ ∃ e ∈ a.1, x ∈ e.chain := by
  induction its generalizing a with
  | nil => simp
  | cons i r ih => rw [List.foldl_cons, ih, mem_steepInsert, List.mem_cons]; tauto

/-- The items inserted again are the items there were (R401). -/
theorem mem_steepReinsert (cap t : Nat) (x : Timer × Nat) (l : List SteepEntry) :
    (∃ e ∈ (steepReinsert cap t l).1, x ∈ e.chain) ↔ ∃ e ∈ l, x ∈ e.chain := by
  have h := mem_steepInserts cap x ((l.filter (fun e => decide (e.tick ≤ t))).flatMap (fun e => e.chain.filter (fun it => decide (t < tickOf it.2))))
    ((l.map (fun e => if e.tick ≤ t then { e with chain := e.chain.filter (fun it => decide (tickOf it.2 ≤ t)) } else e)).filter
      (fun e => !e.chain.isEmpty), 0)
  refine h.trans ?_
  simp only [List.mem_flatMap, List.mem_filter, decide_eq_true_eq, List.mem_map]
  constructor
  · rintro (⟨e, ⟨he, -⟩, hx, -⟩ | ⟨e, ⟨⟨f, hf, rfl⟩, -⟩, hx⟩)
    · exact ⟨e, he, hx⟩
    · refine ⟨f, hf, ?_⟩
      split at hx
      · exact (List.mem_filter.1 hx).1
      · exact hx
  · rintro ⟨e, he, hx⟩
    by_cases h1 : e.tick ≤ t
    · by_cases h2 : t < tickOf x.2
      · exact .inl ⟨e, ⟨he, h1⟩, hx, h2⟩
      · have h3 : x ∈ e.chain.filter (fun it => decide (tickOf it.2 ≤ t)) := List.mem_filter.2 ⟨hx, by simpa using h2⟩
        refine .inr ⟨{ e with chain := e.chain.filter (fun it => decide (tickOf it.2 ≤ t)) }, ⟨⟨e, he, by rw [if_pos h1]⟩, ?_⟩, h3⟩
        rw [Bool.not_eq_true', List.isEmpty_eq_false_iff_exists_mem]; exact ⟨x, h3⟩
    · refine .inr ⟨e, ⟨⟨e, he, by rw [if_neg h1]⟩, ?_⟩, hx⟩
      rw [Bool.not_eq_true', List.isEmpty_eq_false_iff_exists_mem]; exact ⟨x, hx⟩

/-- A drop keeps exactly the items it does not name. -/
theorem mem_steepDrop (f : Timer → Bool) (x : Timer × Nat) (l : List SteepEntry) :
    (∃ e ∈ steepDrop f l, x ∈ e.chain) ↔ f x.1 = false ∧ ∃ e ∈ l, x ∈ e.chain := by
  constructor
  · rintro ⟨e, he, hx⟩
    simp only [steepDrop, List.mem_filter, List.mem_map] at he
    obtain ⟨⟨a, ha, rfl⟩, -⟩ := he
    simp only [List.mem_filter] at hx
    exact ⟨by simpa using hx.2, a, ha, hx.1⟩
  · rintro ⟨hf, e, he, hx⟩
    refine ⟨{ e with chain := e.chain.filter (fun it => !f it.1) }, ?_, ?_⟩
    · simp only [steepDrop, List.mem_filter, List.mem_map]
      refine ⟨⟨e, he, rfl⟩, ?_⟩
      simp only [Bool.not_eq_true', List.isEmpty_eq_false_iff_exists_mem]
      exact ⟨x, by simp [hx, hf]⟩
    · simp [hx, hf]

/-- A list that is set is the one there; the others are as they were. -/
theorem lists_set (l : Vector (List SteepEntry) 4) (i j : Fin 4) (v : List SteepEntry) : (l.set i v)[j] = if i = j then v else l[j] := by
  by_cases h : i = j
  · subst h; simp
  · rw [if_neg h]; exact Vector.getElem_set_ne _ _ (by simpa [Fin.ext_iff] using h)

/-- What runs after a timer is started. -/
theorem timed_timerAdd (s : State) (a b : Timer) (d e : Nat) : (s.timerAdd a d).timed b e ↔ (b = a ∧ e = d) ∨ s.timed b e := by
  have h1 : (s.timerAdd a d).steep.lists = s.steep.lists.set a.list
      (steepInsert (steepCap a.list) (a, d) (steepReinsert (steepCap a.list) (s.pins.now / 64) s.steep.lists[a.list]).1).1 := rfl
  simp only [State.timed, h1, lists_set]
  split
  · rename_i h
    have h2 : s.steep.lists[b.list] = s.steep.lists[a.list] := by simp only [h]
    rw [mem_steepInsert, mem_steepReinsert, h2]; simp [Prod.ext_iff]
  · rename_i h
    exact ⟨.inr, fun h2 => h2.elim (fun h3 => absurd (h3.1 ▸ rfl) h) id⟩

/-- What runs after a timer is removed. -/
theorem timed_timerDel (s : State) (a b : Timer) (e : Nat) : (s.timerDel a).timed b e ↔ b ≠ a ∧ s.timed b e := by
  have h1 : (s.timerDel a).steep.lists = s.steep.lists.set a.list (steepDrop (· == a) s.steep.lists[a.list]) := rfl
  simp only [State.timed, h1, lists_set]
  split
  · rename_i h
    have h2 : s.steep.lists[b.list] = s.steep.lists[a.list] := by simp only [h]
    rw [mem_steepDrop, h2]; simp
  · rename_i h
    exact ⟨fun h2 => ⟨fun h3 => h (by rw [h3]), h2⟩, And.right⟩

/-- A started timer runs. -/
theorem timed_self (s : State) (a : Timer) (d : Nat) : (s.timerAdd a d).timed a d := (timed_timerAdd s a a d d).2 (.inl ⟨rfl, rfl⟩)

/-- A removed timer does not run. -/
theorem untimed_self (s : State) (a : Timer) : (s.timerDel a).untimed a := fun d h => ((timed_timerDel s a a d).1 h).1 rfl

/-- A timer that does not run still does not once another is removed. -/
theorem untimed_timerDel {s : State} {b : Timer} (a : Timer) (h : s.untimed b) : (s.timerDel a).untimed b :=
  fun d hd => h d ((timed_timerDel s a b d).1 hd).2

end Sys2Proof.Machine
end

