-- ==== Sys2Proof/WellFormed.lean ====
section
/-!
DEFINITION. Sys2Proof/WellFormed.lean: which commands a sender can form. An operand that the spec bounds (a Kennel slot, a FAULT_ID,
a line number, the places of a message body) is held to its bound; a command that breaks one is not a command of this block.
-/

namespace Sys2Proof

/-- A Kennel slot index (R83: 262,144 slots). -/
def wfSlot (n : Nat) : Bool := n < 262144

/-- A FAULT_ID (R445: 10 bits). -/
def wfFid (n : Nat) : Bool := n < 1024

/-- A 128 B line of the 57-bit virtual address space (R13, R438). -/
def wfLine (n : Nat) : Bool := n < 2 ^ 50

/-- The open choices of one step lie in their ranges; a late access has an address of 64 bits. -/
def Env.wf (e : Env) : Bool :=
  e.fids.all wfFid && e.slots.all wfSlot && e.saves.all (fun x => match x.late with | some a => decide (a.1 < 2 ^ 64) | none => true)

/-- Bytes that a BUILD command leaves in its scratch area are at virtual addresses of 57 bits (R141, R438). -/
def wfScratch (l : List (Nat × Byte)) : Bool := l.all (fun c => c.1 < 2 ^ 57)

/-- A program register number (R271: at most 256 vector registers). -/
def wfReg (n : Nat) : Bool := n < 256

/-- An instruction operand names a register that exists. -/
def Src.wf : Src → Bool
  | .v n => wfReg n
  | .s n => wfReg n
  | .imm _ => true

/-- An instruction destination names a register that exists. -/
def Dst.wf : Dst → Bool
  | .v n => wfReg n
  | .s n => wfReg n

/-- FWD_PROBE body: 32 thresholds, and a bundle of at most 257 slots (R110, R373). -/
def FwdProbeBody.wf (b : FwdProbeBody) : Bool := b.thresh.length == 32 && decide (b.slots.length ≤ 257)

/-- REDUCE_REQ body: one list for each of at most 32 queries (R373). -/
def ReduceReqBody.wf (b : ReduceReqBody) : Bool := b.lists.length == b.q.toNat && decide (b.q.toNat ≤ 32)

/-- A result prefix carries at most 32 query status bytes (R375). -/
def ResultPrefix.wf (p : ResultPrefix) : Bool := decide (p.qstatus.length ≤ 32)

/-- A message body holds its places (R372 to R375). -/
def MsgBody.wf : MsgBody → Bool
  | .fwdRay _ => true
  | .fwdProbe b => b.wf
  | .reduceReq b => b.wf
  | .rayResult p _ => p.wf
  | .probeResult p _ l => p.wf && decide (l.length ≤ 32)
  | .reduceResult p l => p.wf && decide (l.length ≤ 32)
  | .leaseExtend => true
  | .cancel => true
  | .creditReturn _ => true
  | .keepalive => true
  | .hello _ _ => true
  | .adv _ => true
  | .agree _ => true
  | .credit _ => true
  | .drain => true
  | .drainDone => true
  | .ownerEntries _ _ es => decide (es.length ≤ 1024)
  | .epochCommit _ _ _ _ => true
  | .unknown _ _ => true

/-- The command's operands lie in the ranges of the spec. -/
def Instr.wf : Instr → Bool
  | .powerOn => true
  | .dieReset => true
  | .resetRelease _ => true
  | .supplyFault _ => true
  | .junctionLimit _ => true
  | .linkUp _ _ => true
  | .linkDown _ _ => true
  | .partitionReset _ _ _ => true
  | .partitionResetDone _ => true
  | .blkReset _ => true
  | .forcedResetAbandon => true
  | .forcedResetRelease _ => true
  | .queueEnable _ _ _ _ env => env.wf
  | .queueDisable _ _ _ _ => true
  | .queueDisableDone _ => true
  | .queueResume _ _ _ _ => true
  | .whistle _ _ _ _ => true
  | .scalarWhistle _ _ => true
  | .commandFetch env => env.wf
  | .commandAdmit _ env => env.wf
  | .completionRecord _ env => env.wf
  | .progressShadow _ env => env.wf
  | .nop _ => true
  | .traceRays _ => true
  | .probe _ env => env.wf
  | .probeReduce _ env => env.wf
  | .buildBox _ scratch env => wfScratch scratch && env.wf
  | .buildRefit _ scratch env => wfScratch scratch && env.wf
  | .buildKeys _ scratch env => wfScratch scratch && env.wf
  | .buildInsert _ env => env.wf
  | .buildCompact _ scratch env => wfScratch scratch && env.wf
  | .buildSplit _ scratch env => wfScratch scratch && env.wf
  | .splatFwd _ env => env.wf
  | .splatBwd _ _ _ env => env.wf
  | .copy _ inFlight env => decide (inFlight ≤ 63) && env.wf
  | .residency _ env => env.wf
  | .fwdSessionOpen _ _ => true
  | .fwdSessionDrain _ _ => true
  | .ownerPublish _ env => env.wf
  | .fence _ => true
  | .waitValue _ env => env.wf
  | .waitValuePoll _ env => env.wf
  | .waitTimeout _ _ => true
  | .signalValue _ env => env.wf
  | .heel _ _ => true
  | .heelDrained _ => true
  | .drainTimeout _ _ => true
  | .batchBoundary _ => true
  | .bindHierarchy _ => true
  | .bindProgram _ env => env.wf
  | .setDeadline _ _ => true
  | .rayIntake _ _ env => env.wf
  | .fetch _ line env => wfLine line && env.wf
  | .lineFill _ line => wfLine line
  | .packIssue _ line _ _ _ => wfLine line
  | .packWaitExpiry _ line _ _ => wfLine line
  | .test _ _ words env => words.all (fun w => wfSlot w.1) && env.wf
  | .spillSlotGrant ray slot => wfSlot ray && wfSlot slot
  | .spillWaitTimeout ray _ => wfSlot ray
  | .invoke _ _ _ _ _ => true
  | .returnRay ray _ => wfSlot ray
  | .delivery _ _ => true
  | .delivWaitExpiry _ _ _ => true
  | .memoryWriteAck _ => true
  | .fabricCredit _ _ _ _ => true
  | .bundleAdmit _ words env => decide (words.length ≤ 257) && env.wf
  | .bound _ _ env => env.wf
  | .boundReturn bundle env => wfSlot bundle && env.wf
  | .score _ _ env => env.wf
  | .heapMerge bundle _ env => wfSlot bundle && env.wf
  | .reduce bundle _ env => wfSlot bundle && env.wf
  | .lseMerge bundle _ _ env => wfSlot bundle && env.wf
  | .forward slot _ env => wfSlot slot && env.wf
  | .fwdRay _ _ _ env => env.wf
  | .fwdProbe _ _ body env => body.wf && env.wf
  | .reduceReq _ _ body env => body.wf && env.wf
  | .rayResult _ _ pre _ env => pre.wf && env.wf
  | .probeResult _ _ pre lists env => pre.wf && decide (lists.length ≤ 32) && env.wf
  | .reduceResult _ _ pre triples env => pre.wf && decide (triples.length ≤ 32) && env.wf
  | .leaseExtend _ _ _ => true
  | .leaseExtendTimer slot _ => wfSlot slot
  | .cancel _ _ _ => true
  | .creditReturn _ _ _ _ => true
  | .creditReturnTimer _ _ => true
  | .keepalive _ _ _ => true
  | .keepaliveTimer _ _ => true
  | .keepaliveLost _ _ => true
  | .hello _ _ _ _ _ => true
  | .adv _ _ _ => true
  | .agree _ _ _ _ => true
  | .credit _ _ _ _ => true
  | .sessionTimeout _ _ => true
  | .drain _ _ _ => true
  | .drainDone _ _ _ => true
  | .forcedDrain _ _ => true
  | .ownerEntries _ _ _ _ entries _ => decide (entries.length ≤ 1024)
  | .epochCommit _ _ _ _ _ _ _ => true
  | .ringTimeout _ _ => true
  | .bypassReopen _ => true
  | .leaseDeadline slot env => wfSlot slot && env.wf
  | .ownerReload _ _ env => env.wf
  | .ownerTableFetch env => env.wf
  | .preemptionTimer _ env => env.wf
  | .decisionTimer _ _ env => env.wf
  | .reprojectionPresent _ env => env.wf
  | .groupRestore _ env => env.wf
  | .tileLoad _ _ env => env.wf
  | .tileResolve _ _ _ env => env.wf
  | .parkGrant _ _ => true
  | .callMessage _ _ args => decide (args.length ≤ 32)
  | .groupLaunch _ env => env.wf
  | .exit _ _ => true
  | .brk _ _ _ => true
  | .bar _ _ _ _ => true
  | .barClu _ _ _ => true
  | .fenceSys _ _ => true
  | .fenceBlk _ _ => true
  | .fenceClu _ _ => true
  | .lockacq _ dst _ addr _ _ _ env => wfReg dst && addr.wf && env.wf
  | .lockrel _ dst _ addr _ env => wfReg dst && addr.wf && env.wf
  | .atomic _ _ _ _ dst addr a b _ env => wfReg dst && addr.wf && a.wf && b.wf && env.wf
  | .load _ _ _ _ _ dst addr _ env => wfReg dst && addr.wf && env.wf
  | .store _ _ _ src addr _ env => wfReg src && addr.wf && env.wf
  | .tex _ dst desc u v _ env => wfReg dst && desc.wf && u.wf && v.wf && env.wf
  | .texlod _ dst desc u v lod _ env => wfReg dst && desc.wf && u.wf && v.wf && lod.wf && env.wf
  | .scorer _ dst _ _ queries keys _ _ => wfReg dst && wfReg queries && wfReg keys
  | .integer _ _ _ _ _ dst a b c _ => dst.wf && a.wf && b.wf && c.wf
  | .float _ _ _ dst a b c _ => dst.wf && a.wf && b.wf && c.wf
  | .convert _ _ _ _ d a _ => d.wf && a.wf
  | .specialFunction _ _ dst a _ => dst.wf && a.wf
  | .laneExchange _ _ dst a idx _ => dst.wf && a.wf && idx.wf
  | .branch _ _ _ => true
  | .divergencePush _ _ _ _ _ => true
  | .divergencePop _ _ _ => true
  | .programCall _ _ _ _ => true
  | .halt _ _ _ => true
  | .resume _ _ _ => true
  | .stepGroup _ _ _ => true
  | .restart _ _ _ => true
  | .endGroup _ _ _ => true
  | .groupRead _ _ _ _ _ => true
  | .groupWrite _ _ _ _ _ => true
  | .translationWalk _ va _ _ _ _ env => decide (va < 2 ^ 57) && env.wf
  | .mmuInval _ _ _ => true
  | .invalComplete _ env => env.wf
  | .faultReplay _ _ _ env => env.wf
  | .faultAbort _ _ _ env => env.wf
  | .fqAck _ _ _ env => env.wf
  | .unlock _ _ => true
  | .unlockTimeout => true
  | .csrWrite _ env => env.wf
  | .csrReadClear _ => true
  | .voteScrub _ _ => true
  | .cfgGo _ _ => true
  | .cfgImageRead _ => true
  | .cfgSectionApply _ => true
  | .cfgCancel _ _ => true
  | .freeze _ _ => true
  | .ptabWrite _ _ _ _ => true
  | .caddySwitch _ _ => true
  | .mcGo _ _ => true
  | .mcLoadDone _ => true
  | .mmuGo _ _ env => env.wf
  | .chipId _ _ _ => true
  | .fuseReread _ _ => true
  | .tuFence _ _ => true
  | .tuUnfence _ _ => true
  | .tuSelfTestDone _ _ _ => true
  | .sleepHalf _ _ _ => true
  | .halfAsleep _ => true
  | .wakeHalf _ _ _ => true
  | .halfAwake _ _ => true
  | .unitOut _ _ => true
  | .unitReturn _ _ => true
  | .unitReturnDone _ _ _ => true
  | .powerEstimate _ _ => true
  | .traceEnable _ _ => true
  | .blkHeel _ _ _ => true
  | .blockDrainDone => true
  | .blkTimeout _ => true
  | .dbgRead _ _ _ => true
  | .dbgWrite _ _ => true
  | .powerDown => true
  | .junctionLimitClear _ => true
  | .routerFault _ _ => true
  | .messageRelay _ _ body env => body.wf && env.wf

end Sys2Proof
end

