-- ==== Sys2Proof/Tests/Slice0.lean ====
section
/-!
SUPPORT. Sys2Proof/Tests/Slice0.lean: the model's own tests, on small states. A `test_` theorem shows one step or one check against the
spec; a `witness_` theorem shows a state and operands that meet the hypotheses of a statement, or of some of its clauses, together.
-/

namespace Sys2Proof.Tests
open Sys2Proof
open Sys2Proof.Machine
set_option Elab.async false

/-! ## Well-formed commands -/

def wfEnv : Env := ⟨9, [1023], [262143], [], 0, .ok, .clean⟩
def wfHdr : MsgHdr := ⟨1, 2, 7, 1, 0, 0⟩
def wfPre (n : Nat) : ResultPrefix := ⟨0, true, false, 0, List.replicate n 0⟩
theorem test_wf_accepts : ([.nop 0, .commandFetch wfEnv, .copy 16 63 wfEnv, .fetch 0 (2 ^ 50 - 1) wfEnv, .spillSlotGrant 0 262143,
    .buildKeys 16 [(2 ^ 57 - 1, 1)] wfEnv, .bundleAdmit 0 (List.replicate 257 0) wfEnv, .probeResult 3 wfHdr (wfPre 32) (List.replicate 32 []) wfEnv,
    .load ⟨0, 0⟩ .global .w32 false false 255 (.v 255) .ok wfEnv, .translationWalk 0 (2 ^ 57 - 1) .read .none .ok 0 wfEnv] : List Instr).all Instr.wf = true := by
  decide +kernel
theorem test_wf_slot : Instr.wf (.spillSlotGrant 0 262144) = false ∧ Instr.wf (.returnRay 262144 .ok) = false
    ∧ Instr.wf (.test 0 .ok [(262144, .failed)] wfEnv) = false := by decide +kernel
theorem test_wf_env : Instr.wf (.commandFetch ⟨9, [1024], [], [], 0, .ok, .clean⟩) = false ∧ Instr.wf (.probe 0 ⟨9, [], [262144], [], 0, .ok, .clean⟩) = false := by decide +kernel
theorem test_wf_line : Instr.wf (.fetch 0 (2 ^ 50) wfEnv) = false ∧ Instr.wf (.lineFill 0 (2 ^ 50)) = false := by decide +kernel
theorem test_wf_scratch : Instr.wf (.buildKeys 16 [(2 ^ 57, 1)] wfEnv) = false := by decide +kernel
theorem test_wf_registers : Instr.wf (.load ⟨0, 0⟩ .global .w32 false false 256 (.v 0) .ok wfEnv) = false
    ∧ Instr.wf (.branch ⟨0, 0⟩ 8 .ok) = true ∧ Instr.wf (.convert ⟨0, 0⟩ (.f .fp32) (.f .fp16) true (.v 256) (.s 0) .ok) = false
    ∧ Instr.wf (.convert ⟨0, 0⟩ (.f .fp32) (.f .fp16) true (.v 0) (.s 256) .ok) = false := by decide +kernel
theorem test_wf_copy : Instr.wf (.copy 16 64 wfEnv) = false := by decide +kernel
theorem test_wf_bundle : Instr.wf (.bundleAdmit 0 (List.replicate 258 0) wfEnv) = false := by decide +kernel
def wfProbe (thresh slots : Nat) : FwdProbeBody := ⟨0, 4, false, 0, false, ⟨0, 0⟩, 200, 1, List.replicate thresh 0, List.replicate slots 0⟩
theorem test_wf_probe_body : (wfProbe 32 257).wf = true ∧ Instr.wf (.fwdProbe 3 wfHdr (wfProbe 31 3) wfEnv) = false
    ∧ Instr.wf (.fwdProbe 3 wfHdr (wfProbe 32 258) wfEnv) = false := by decide +kernel
def wfReduce (q : Byte) (lists : Nat) : ReduceReqBody := ⟨0, 32, q, ⟨0, 0⟩, 200, List.replicate lists []⟩
theorem test_wf_reduce_body : (wfReduce 32 32).wf = true ∧ Instr.wf (.reduceReq 3 wfHdr (wfReduce 2 1) wfEnv) = false
    ∧ Instr.wf (.reduceReq 3 wfHdr (wfReduce 33 33) wfEnv) = false := by decide +kernel
theorem test_wf_results : Instr.wf (.rayResult 3 wfHdr (wfPre 33) 0 wfEnv) = false
    ∧ Instr.wf (.probeResult 3 wfHdr (wfPre 0) (List.replicate 33 []) wfEnv) = false
    ∧ Instr.wf (.reduceResult 3 wfHdr (wfPre 0) (List.replicate 33 (0, ⟨0, 0, []⟩)) wfEnv) = false := by decide +kernel
theorem test_wf_entries : Instr.wf (.ownerEntries 3 wfHdr 1 1 (List.replicate 1025 0) 9) = false := by decide +kernel
theorem test_wf_call : Instr.wf (.callMessage 2 0 (List.replicate 33 0)) = false := by decide +kernel
theorem test_wf_scorer : Instr.wf (.scorer ⟨0, 0⟩ 0 0 0 0 256 .ok 0) = false := by decide +kernel
theorem test_wf_walk : Instr.wf (.translationWalk 0 (2 ^ 57) .read .none .ok 0 wfEnv) = false := by decide +kernel
theorem test_wf_relay : Instr.wf (.messageRelay 3 wfHdr (.ownerEntries 1 1 (List.replicate 1025 0)) wfEnv) = false
    ∧ Instr.wf (.messageRelay 3 wfHdr (.rayResult (wfPre 33) 0) wfEnv) = false := by decide +kernel
/-- No word spells a command. -/
theorem test_no_words : decodeTableWord 32 0 = none ∧ State.withFetchWord State.reset 32 0 = State.reset := ⟨rfl, rfl⟩

/-! ## Small states -/

/-- A command's 64 bytes from fields (byte, length, value). -/
def raw (l : List (Nat × Nat × Nat)) : Slot64 := BitVec.ofNat 512 (l.map (fun f => f.2.2 % 256 ^ f.2.1 * 256 ^ f.1)).sum

/-- A step's open choices: the timebase, no FAULT_ID, the Kennel slots 0 to 3. -/
def env (t : Nat) : Env := ⟨t, [], [0, 1, 2, 3], [], 0, .ok, .clean⟩
/-- The same, where the checks of R510 and R511 fail: the address arithmetic, the result's record, the lists. -/
def envLost (t : Nat) : Env := { env t with hw := ⟨true, .failed, .failed, [(0, .failed)]⟩ }
theorem witness_checks : (env 9).hw.addr = false ∧ (env 9).hw.words = [] ∧ (env 9).hw.lists = .ok ∧ (env 9).hw.buf = .ok ∧ (envLost 9).hw.addr = true
    ∧ (envLost 9).hw.lists = .failed ∧ (envLost 9).hw.buf = .failed ∧ (env 9).t = (envLost 9).t := by decide +kernel

/-- The block in service: READY, every port and link there, all queues, ports and cores with partition 0, whose MMU maps the first 2^40
bytes onto themselves. -/
def up : State :=
  { State.reset with
    pins := { Pins.reset with inReset := false, portMap := 0xFFFF, linkUp := 0xFFFFFF, bypass := false, portWords := 64 }
    boot := { Boot.reset with state := stReady, step := 11, caps := .all 0x108080FC, chipId := 1 }
    cfg := { Cfg.reset with
      ptab := Cfg.reset.ptab.set 0 (#v[0x800000000000FFFF, 0xFFFFFFFFFFFFFFFF, 0x0200001000000200, 0x0800000000000000].map (fun w => Sh.both (Tri.all w)))
      caddies := Vector.replicate 4 ⟨0, (Vector.replicate 16 CaddyEnt.none).set 0 ⟨BitVec.allOnes 128, 0xFFFF, 0x1F, 0x1F, 3⟩⟩
      fwdReserve := 64, fwdBundles := 4, fwdStrain := 4, fwdLinks := 0xFFFFFF }
    parts := State.reset.parts.set 0 { Part.reset with mmuEnable := .both true }
    mmu := ⟨[⟨0, 0, 2 ^ 40, 0, true, true, 4⟩], [], []⟩ }

/-- An admitted command. -/
def mkCmd (seq : Nat) (r : Slot64) (phase : Phase) : Cmd :=
  ⟨seq, 0, 0, r, phase, 0, 0, itemsTotal r, false, 0, 0, rb r 16 4, rb r 8 8, false, false, 1, 0, 0, 2, 0, [], [], [], 0, false, false, 0⟩

/-- A queue of 16 entries with some commands. -/
def mkQueue (l : List Cmd) : Queue :=
  { Queue.reset with enable := true, enabled := true, entries := 16, prio := 2, cplAddr := 0x10000, cplEntries := 16, cmds := l }

/-- A state with a queue. -/
def withQ (s : State) (q : QueueId) (x : Queue) : State := s.setQueue q x

/-- A state with one admitted command in a queue. -/
def withCmd (q : QueueId) (r : Slot64) : State := withQ up q (mkQueue [mkCmd 5 r .admitted])

/-- A state with a timer due at 64 ns. -/
def withTimer (s : State) (tm : Timer) : State := s.timerAdd tm 64

/-- The bytes `bs` at `a`. -/
def withMem (s : State) (a : Nat) (bs : List Byte) : State := s.poke a bs

theorem takesGlobal_mgmt {s : State} (h1 : s.live = true) (h2 : s.errored = false) : s.takesGlobal .mgmt := ⟨h1, h2, nofun⟩
theorem takesPage_mgmt {s : State} {p : PartId} (h1 : s.live = true) (h2 : s.errored = false) (h3 : (s.part p).resetting = false) :
    s.takesPage .mgmt p := ⟨h1, h2, h3, nofun⟩

/-- What holds of the next state of a command. -/
def next (i : Instr) (s : State) (f : State → Bool) : Bool := match exec i s with | .next t => f t | _ => false

/-- An access that succeeds, with a value of which something holds. -/
def okAnd {α : Type} (a : Acc α) (f : α → Bool) : Bool := match a with | .ok x => f x | .bad _ => false
theorem ok_of {α : Type} {a : Acc α} {f : α → Bool} (h : okAnd a f = true) : ∃ x, a = .ok x ∧ f x = true := by
  cases a with
  | ok x => exact ⟨x, rfl, h⟩
  | bad e => simp [okAnd] at h

/-- A choice that is made, with a value of which something holds. -/
def someAnd {α : Type} (a : Option α) (f : α → Bool) : Bool := match a with | some x => f x | none => false
theorem some_of {α : Type} {a : Option α} {f : α → Bool} (h : someAnd a f = true) : ∃ x, a = some x ∧ f x = true := by
  cases a with
  | some x => exact ⟨x, rfl, h⟩
  | none => simp [someAnd] at h

/-- A release that meets no failure. -/
def goodInfo : ReleaseInfo := ⟨1, 1, 0, 0xFC, true, 0, 0, Vector.replicate 8 0, 0, none, 0, 0, 0, Vector.replicate 8 0, 64⟩

/-! ## Reset, power, pins and links -/

theorem witness_resets : { State.reset with pins := { Pins.reset with powered := false } }.pins.powered = false ∧ State.reset.pins.powered = true
    ∧ State.reset.pins.inReset = true ∧ { up with pins := { up.pins with forced := true } }.pins.inReset = false := by decide +kernel
theorem witness_supply_loss : up.pins.powered = true ∧ up.pins.inReset = false := by decide +kernel
theorem witness_release : State.reset.pins.powered = true ∧ State.reset.pins.inReset = true ∧ goodInfo.fuseAgree = true
    ∧ goodInfo.sramFatal = none ∧ passedTus goodInfo ≠ 0 := by decide +kernel
theorem witness_link_down : up.active = true ∧ up.leashesOn 0 = [] := by decide +kernel
theorem witness_part_reset : up.live = true ∧ up.errored = false ∧ (up.part 0).resetting = false := by decide +kernel
theorem witness_part_reset_done : let s := up.updPart 0 (fun x => { x with resetting := true })
    s.live = true ∧ s.errored = false ∧ (s.part 0).resetting = true ∧ s.settled 0 = true := by decide +kernel
theorem witness_forced_reset : up.live = true ∧ up.isUnlocked = false
    ∧ { up with csr := { up.csr with unlocked := .all true } }.isUnlocked = true ∧ (∀ p, Requester.mgmt ≠ .part p) := ⟨by decide +kernel, by decide +kernel, by decide +kernel, nofun⟩

/-! ## Queues -/

def qdesc : Slot64 := raw [(0, 8, 0x20000), (8, 4, 16), (12, 1, 2), (16, 8, 0x10000), (24, 4, 16)]
def withDesc : State := withMem (withQ up 0 { Queue.reset with desc := 0x1000 }) 0x40000 (leBytes 64 qdesc.toNat)

theorem witness_queue_enable : withDesc.takesPage .mgmt 0 ∧ withDesc.slotQueue 0 0 = some 0 ∧ withDesc.ready = true
    ∧ (withDesc.queue 0).enable = false ∧ (withDesc.part 0).mmuEnable.force = true ∧ withDesc.qPart 0 = 0
    ∧ withDesc.vslot 0 ((withDesc.queue 0).desc.toNat * 64) = .ok qdesc ∧ qdescOk qdesc = true :=
  ⟨takesPage_mgmt (by decide +kernel) (by decide +kernel) (by decide +kernel), by decide +kernel⟩
theorem witness_queue_disable : (withQ up 0 (mkQueue [])).takesPage .mgmt 0 ∧ (withQ up 0 (mkQueue [])).slotQueue 0 0 = some 0
    ∧ ((withQ up 0 (mkQueue [])).queue 0).enable = true := ⟨takesPage_mgmt (by decide +kernel) (by decide +kernel) (by decide +kernel), by decide +kernel⟩
theorem witness_queue_disable_done : let s := withQ up 0 { mkQueue [] with enable := false }
    s.ready = true ∧ (s.queue 0).enabled = true ∧ (s.queue 0).enable = false ∧ (s.queue 0).cmds = [] := by decide +kernel
theorem witness_whistle : up.ready = true ∧ (up.part 0).partError = false ∧ (up.part 0).resetting = false ∧ up.takesPage .mgmt 0
    ∧ up.slotQueue 0 0 = some 0 ∧ bit up.pins.portMap 0 = true ∧ up.portOwner 0 = some 0 ∧ up.slotQueue 0 (fldN (0xFC000000 : W32) 26 6) = some 63
    ∧ up.hasCredit 0 .scalar 1 = true ∧ { up with pins := { up.pins with portWords := 0 } }.hasCredit 0 .scalar 1 = false :=
  ⟨by decide +kernel, by decide +kernel, by decide +kernel, takesPage_mgmt (by decide +kernel) (by decide +kernel) (by decide +kernel), by decide +kernel⟩
/-- Partition 0 with queue 0 alone: slot 1 has none. -/
def oneQueue : State := { up with cfg := { up.cfg with ptab := up.cfg.ptab.set 0 (up.cfg.ptab[0].set 1 (.both (.all 1))) } }
theorem witness_whistle_ignored : oneQueue.ready = true ∧ oneQueue.portOwner 0 = some 0 ∧ oneQueue.slotQueue 0 (fldN (0x04000001 : W32) 26 6) = none := by
  decide +kernel
/-- The ring of 256 of the example of R44. -/
def ring256 (tail : Nat) : Queue := { mkQueue [] with entries := 256, head := 510, tail := tail }
theorem test_whistle_example : next (.scalarWhistle 0 1) (withQ up 0 (ring256 510)) (fun t => (t.queue 0).tail == 1) = true := by decide +kernel
theorem test_whistle_behind : next (.scalarWhistle 0 510) (withQ up 0 (ring256 1))
    (fun t => (t.queue 0).tail == 1 && (t.queue 0).badWhistle) = true := by decide +kernel

def nopRaw : Slot64 := raw [(0, 1, 0)]
/-- Queue 0 fetches the last of two commands of an entry. -/
def fetching : State := withQ up 0 { mkQueue [] with head := 1, tail := 2, cur := some ⟨1, 0x4000, 2, 1⟩ }
theorem witness_fetch : let s := fetching.at 9
    s.ready = true ∧ s.fetchChoice = some 0 ∧ (s.queue 0).cur = some ⟨1, 0x4000, 2, 1⟩ ∧ ∃ r, s.vslot (s.qPart 0) (0x4000 + 64 * 1) = .ok r ∧ (r == 0) = true :=
  ⟨by decide +kernel, by decide +kernel, by decide +kernel, ok_of (by decide +kernel)⟩
theorem witness_admit : let s := withQ up 0 { mkQueue [] with fetched := [⟨1, 1, nopRaw, 0⟩] }
    (s.at 9).ready = true ∧ (s.at 9).qHeld 0 = false ∧ cplFull ((s.at 9).queue 0) = false ∧ (s.queue 0).fetched = [⟨1, 1, nopRaw, 0⟩] := by decide +kernel
/-- A descriptor from fields (byte, length, value). -/
def descOf (l : List (Nat × Nat × Nat)) : Desc := BitVec.ofNat 1024 (l.map (fun f => f.2.2 % 256 ^ f.2.1 * 256 ^ f.1)).sum
/-- A SPLAT_FWD of one tile, its target 16 x 16 pixels of one channel. -/
def targetDesc : List (Nat × Nat × Nat) := [(0, 2, 16), (2, 2, 16), (4, 1, 1), (5, 1, 1), (6, 1, 1), (8, 8, 0x10000), (16, 8, 0x11000), (24, 8, 0x12000)]
def splatAsk : Slot64 := raw [(0, 1, 0x20), (8, 8, 0x8000), (16, 4, 1), (24, 8, 0x5000), (36, 2, 1), (38, 2, 1)]
def admitting : State := withMem (withQ up 32 { mkQueue [] with fetched := [⟨1, 1, splatAsk, 0⟩] }) 0x5000
  (leBytes 128 (targetDesc.map (fun f => f.2.2 % 256 ^ f.2.1 * 256 ^ f.1)).sum)
theorem witness_admit_splat : let s := admitting
    (s.at 9).ready = true ∧ (s.at 9).qHeld 32 = false ∧ cplFull ((s.at 9).queue 32) = false ∧ (s.queue 32).fetched = [⟨1, 1, splatAsk, 0⟩]
    ∧ checkCmd (s.at 9) (s.qPart 32) 32 splatAsk = 0 ∧ isSplat (opOf splatAsk) = true ∧ zeroRect splatAsk = false
    ∧ okAnd ((s.at 9).vdesc (s.qPart 32) 0x5000) (fun d => d.targetOk && splatCheck (mkCmd 5 splatAsk .admitted) d == stOk) = true := by decide +kernel

/-- A finished command without and with a record. -/
def finished (record : Bool) : State := withQ up 0 (mkQueue [{ mkCmd 5 nopRaw .finished with record := record }])
theorem witness_completion : (finished false).ready = true ∧ ((finished false).queue 0).cplParked = false ∧ (finished false).trace.enable = false ∧ ((finished false).part 0).resetting = false
    ∧ ((finished false).queue 0).cmds = [{ mkCmd 5 nopRaw .finished with record := false }] ∧ isError (mkCmd 5 nopRaw .finished).status = false := by
  decide +kernel
theorem witness_completion_record : let s := (finished true).at 9
    ∃ s2, s.vwrite 0 (0x10000 + 64) (completionBytes s { mkCmd 5 nopRaw .finished with record := true } 1) = .ok s2 ∧ (s2.mem != []) = true :=
  ok_of (by decide +kernel)

def shadowing : State := withQ up 0 (mkQueue [mkCmd 5 (raw [(0, 1, 0), (4, 4, 77)]) .running])
theorem witness_shadow : shadowing.ready = true ∧ (shadowing.queue 0).enabled = true ∧ (shadowing.queue 0).cplParked = false
    ∧ (shadowing.part (shadowing.qPart 0)).resetting = false ∧ reported (shadowing.queue 0) = some (77, 0, 0, 0, 0, 1)
    ∧ (shadowing.queue 0).shown ≠ some (77, 0, 0) := by decide +kernel
theorem witness_shadow_write : let s := ((shadowing.at 9).timerDel (.progress 0)).timerAdd (.progress 0) (9 + 1024)
    ∃ s2, s.vwrite 0 0x10000 (shadowBytes s (77, 0, 0, 0, 0, 1)) = .ok s2 ∧ (s2.mem != []) = true := ok_of (by decide +kernel)

/-! ## Synchronisation and state commands -/

theorem witness_nop : (withCmd 0 nopRaw).beginning 0 0 = some (mkCmd 5 nopRaw .admitted) := by decide +kernel
def traceRaw : Slot64 := raw [(0, 1, 1), (8, 8, 0x8000), (16, 4, 1), (24, 8, 0x9000)]
theorem witness_trace : (withCmd 0 traceRaw).beginning 0 1 = some (mkCmd 5 traceRaw .admitted) := by decide +kernel
def fenceRaw (scope : Nat) : Slot64 := raw [(0, 1, 0x40), (8, 1, scope)]
theorem witness_fence : (withCmd 0 (fenceRaw 1)).beginning 0 0x40 = some (mkCmd 5 (fenceRaw 1) .admitted)
    ∧ (withCmd 0 (fenceRaw 1)).fenceMet 0 (mkCmd 5 (fenceRaw 1) .admitted) = true := by decide +kernel
def fenceBehind : State := withQ (withCmd 0 (fenceRaw 1)) 1 (mkQueue [mkCmd 4 traceRaw .running])
theorem witness_fence_waits : fenceBehind.beginning 0 0x40 = some (mkCmd 5 (fenceRaw 1) .admitted)
    ∧ fenceBehind.fenceMet 0 (mkCmd 5 (fenceRaw 1) .admitted) = false := by decide +kernel

def waitRaw (v : Nat) : Slot64 := raw [(0, 1, 0x41), (8, 8, 0x3000), (16, 8, v), (24, 1, 0), (28, 4, 5)]
theorem witness_wait : ((withCmd 0 (waitRaw 0)).at 9).beginning 0 0x41 = some (mkCmd 5 (waitRaw 0) .admitted)
    ∧ ∃ v, ((withCmd 0 (waitRaw 0)).at 9).vnum 0 0x3000 8 = .ok v ∧ (waitHolds 0 v 0 && !waitHolds 0 v 1) = true :=
  ⟨by decide +kernel, ok_of (by decide +kernel)⟩
def waitingCmd : State := withTimer (withTimer (withQ up 0 (mkQueue [mkCmd 5 (waitRaw 1) .running])) (.waitPoll 0)) (.waitValue 0)
theorem witness_wait_poll : waitingCmd.ready = true ∧ waitingCmd.timerFires (.waitPoll 0) 64 = true
    ∧ (waitingCmd.fire (.waitPoll 0) 64).waiting 0 = some (mkCmd 5 (waitRaw 1) .running)
    ∧ ∃ v, ((waitingCmd.fire (.waitPoll 0) 64).timerAdd (.waitPoll 0) (64 + 1024)).vnum 0 0x3000 8 = .ok v ∧ (!waitHolds 0 v 1) = true :=
  ⟨by decide +kernel, by decide +kernel, by decide +kernel, ok_of (by decide +kernel)⟩
theorem witness_wait_timeout : waitingCmd.ready = true ∧ waitingCmd.timerFires (.waitValue 0) 64 = true
    ∧ (((waitingCmd.fire (.waitValue 0) 64).waitEnd 0).queue 0).cmds.find? (fun c => opOf c.raw == 0x41 && c.phase == .running)
      = some (mkCmd 5 (waitRaw 1) .running) := by decide +kernel

def signalRaw (op v : Nat) : Slot64 := raw [(0, 1, 0x42), (8, 8, 0x3000), (16, 8, v), (24, 1, op)]
theorem witness_signal : let s := withCmd 0 (signalRaw 1 3)
    s.mem.wf = true ∧ (s.at 9).beginning 0 0x42 = some (mkCmd 5 (signalRaw 1 3) .admitted) ∧ (∀ d ∈ (s.queue 0).cmds, 5 ≤ d.seq)
    ∧ (s.at 9).translate 0 .atomic 0x3000 = .ok 0x3000 ∧ (∀ k, ∀ d ∈ (s.queue k).cmds, opOf d.raw ≠ 0x41) := by decide +kernel
/-- The sum wraps modulo 2^64 (R68). -/
theorem test_signal_wraps : next (.signalValue 0 (env 9)) (withMem (withCmd 0 (signalRaw 1 3)) 0x3000 (leBytes 8 (2 ^ 64 - 2)))
    (fun t => t.mem.num 0x3000 8 == 1) = true := by decide +kernel
theorem test_signal_max : next (.signalValue 0 (env 9)) (withMem (withCmd 0 (signalRaw 2 3)) 0x3000 (leBytes 8 (2 ^ 63)))
    (fun t => t.mem.num 0x3000 8 == 2 ^ 63) = true := by decide +kernel

def heelRaw : Slot64 := raw [(0, 1, 0x43), (8, 1, 1)]
theorem witness_heel : ((withCmd 0 heelRaw).at 9).beginning 0 0x43 = some (mkCmd 5 heelRaw .admitted) := by decide +kernel
def heeling : State := withTimer (withQ up 0 (mkQueue [mkCmd 5 heelRaw .running])) (.heel 0)
theorem witness_heel_drained : heeling.ready = true ∧ heeling.heelOf 0 = some (mkCmd 5 heelRaw .running)
    ∧ heeling.scopeEmpty 0 (heeling.inScope 0 1) false = true := by decide +kernel
/-- An older command of the HEEL's scope runs, with or without an open fault. -/
def heelBehind (fault : Bool) : State :=
  let s := withTimer (withQ (withQ up 0 (mkQueue [mkCmd 5 heelRaw .running])) 1 (mkQueue [mkCmd 4 traceRaw .running])) (.heel 0)
  { s with mmu := { s.mmu with faults := if fault then [⟨5, 0, 0, 1, 0x4000, 0, 0, ⟨0, some 1, 0, 0, 0, 0, 0, 0⟩, 0, [.command 1 4]⟩] else [] } }
theorem witness_drain_timeout : ∀ b : Bool, let s := heelBehind b
    s.ready = true ∧ s.timerFires (.heel 0) 64 = true ∧ s.heelMet 0 = false ∧ s.scopeEmpty 0 (s.inScope 0 1) false = false
    ∧ s.heelOf 0 = some (mkCmd 5 heelRaw .running) ∧ (s.fire (.heel 0) 64).heelOf 0 = some (mkCmd 5 heelRaw .running)
    ∧ (s.fire (.heel 0) 64).scopeFault 0 ((s.fire (.heel 0) 64).inScope 0 1) false = b ∧ heeling.heelMet 0 = true := by
  intro b
  cases b <;> decide +kernel

def heeled (q : QueueId) : State := withQ up q (mkQueue [mkCmd 5 heelRaw .finished])
theorem witness_boundary : up.ready = true ∧ (up.part 0).hold = false ∧ up.partIdle 0 = true ∧ (heeled 0).engineBoundary 0 0 = true
    ∧ (heeled 32).engineBoundary 0 2 = true
    ∧ ((up.updPart 0 (fun x => { x with hold := true })).part 0).hold = true ∧ (up.updPart 0 (fun x => { x with hold := true })).partIdle 0 = true
    ∧ (withCmd 0 nopRaw).partIdle 0 = false ∧ (withCmd 0 nopRaw).engineBoundary 0 0 = false ∧ up.blockIdle = true ∧ up.csr.hold = false
    ∧ { up.csr with hold := true }.hold = true ∧ (withCmd 0 nopRaw).blockIdle = false := by decide +kernel

def bindRaw (kind addr : Nat) : Slot64 := raw [(0, 1, 0x50), (8, 2, 7), (10, 1, kind), (16, 8, addr)]
theorem witness_bind_hierarchy : (withCmd 0 (bindRaw 0 0)).beginning 0 0x50 = some (mkCmd 5 (bindRaw 0 0) .admitted)
    ∧ (withCmd 0 (bindRaw 4 64)).beginning 0 0x50 = some (mkCmd 5 (bindRaw 4 64) .admitted) ∧ bit (up.caddyEnt 0 0).kinds 4 = true
    ∧ bit ({ up with cfg := Cfg.reset }.caddyEnt 0 0).kinds 4 = false := by decide +kernel
/-- A header of a role 3 program with 16 vector and 16 scalar registers (R271). -/
def progHdr : Slot64 := raw [(0, 1, 3), (1, 1, 1), (4, 2, 16), (6, 2, 16), (8, 4, 1024), (12, 1, 1), (16, 4, 64), (20, 4, 64), (24, 4, 0)]
def bindProgRaw (addr : Nat) : Slot64 := raw [(0, 1, 0x51), (8, 1, 2), (9, 1, 3), (11, 1, 1), (16, 8, addr)]
def withProgHdr : State := withMem (withCmd 0 (bindProgRaw 0x5000)) 0x5000 (leBytes 64 progHdr.toNat)
theorem witness_unbind_program : ((withCmd 0 (bindProgRaw 0)).at 9).beginning 0 0x51 = some (mkCmd 5 (bindProgRaw 0) .admitted) := by decide +kernel
theorem witness_bind_program : (withProgHdr.at 9).beginning 0 0x51 = some (mkCmd 5 (bindProgRaw 0x5000) .admitted)
    ∧ (withProgHdr.at 9).vslot 0 0x5000 = .ok progHdr ∧ withProgHdr.coreSet 0 0 ≠ []
    ∧ ∃ g, progOfHeader (bindProgRaw 0x5000) progHdr = some g ∧ (g.role == 3 && !g.usesTex) = true :=
  ⟨by decide +kernel, by decide +kernel, by decide +kernel, some_of (by decide +kernel)⟩

def deadlineRaw (at_ : Nat) : Slot64 := raw [(0, 1, 0x52), (8, 8, at_), (16, 4, 1000)]
theorem witness_set_deadline : ((withCmd 0 (deadlineRaw 0)).at 9).beginning 0 0x52 = some (mkCmd 5 (deadlineRaw 0) .admitted)
    ∧ ((withCmd 0 (deadlineRaw 1009)).at 9).beginning 0 0x52 = some (mkCmd 5 (deadlineRaw 1009) .admitted)
    ∧ (up.part 0).reproj = none ∧ bit (deadlineRaw 1009) 192 = false ∧ max up.pins.now 9 ≤ 1009 - 1000 ∧ 1008 - 1000 < max up.pins.now 9
    ∧ bit (deadlineRaw 1009 ||| raw [(24, 1, 1)]) 192 = true ∧ 64 ≤ up.shareTus 0
    ∧ { up with cfg := { up.cfg with caddies := Cfg.reset.caddies } }.shareTus 0 < 64 := by decide +kernel

/-- The next state of a command. -/
def run (i : Instr) (s : State) : State := match exec i s with | .next t => t | _ => s

/-- A descriptor's bytes. -/
def descBytes (l : List (Nat × Nat × Nat)) : List Byte := leBytes 128 (l.map (fun f => f.2.2 % 256 ^ f.2.1 * 256 ^ f.1)).sum

/-! ## Probe, BUILD, SPLAT and data-movement commands -/

def keyDesc : List (Nat × Nat × Nat) := [(0, 1, 1), (1, 1, 1), (4, 4, 0xFFFFFFFF), (8, 8, 0x20000), (20, 4, 64), (64, 1, 0), (66, 2, 32),
  (68, 4, 0x3F800000), (76, 4, 32), (80, 8, 0x30000), (88, 8, 0x38000), (96, 8, 0x39000)]
def probeRaw (op : Nat) : Slot64 := raw [(0, 1, op), (8, 8, 0x8000), (16, 4, 1), (20, 2, 4), (24, 8, 0x9000), (34, 2, 1), (36, 2, 2), (38, 2, 4)]
/-- A probe whose table binds key hierarchy 1 and, if told so, values 2. -/
def probing (op : Nat) (hiers : HierTable) : State :=
  withMem (withQ up 0 (mkQueue [{ mkCmd 5 (probeRaw op) .admitted with hiers := hiers }])) 0x5000 (descBytes keyDesc)
theorem witness_probe_not_bound : ((probing 2 []).at 9).beginning 0 2 = some (mkCmd 5 (probeRaw 2) .admitted)
    ∧ boundTo [] (rb (probeRaw 2) 34 2) [1, 3] = none ∧ orderedBit (probeRaw 2) = false ∧ up.ret.flows = [] ∧ up.ret.delivs = [] := by decide +kernel
theorem witness_probe : let l : HierTable := [(1, ⟨1, 0x5000⟩)]
    ((probing 2 l).at 9).beginning 0 2 = some { mkCmd 5 (probeRaw 2) .admitted with hiers := l }
    ∧ boundTo l (rb (probeRaw 2) 34 2) [1, 3] = some ⟨1, 0x5000⟩ ∧ ∃ d, ((probing 2 l).at 9).vdesc 0 0x5000 = .ok d ∧ (d.kind == 1) = true :=
  ⟨by decide +kernel, by decide +kernel, ok_of (by decide +kernel)⟩
theorem witness_probe_reduce : let l : HierTable := [(1, ⟨1, 0x5000⟩), (2, ⟨4, 0x5000⟩)]
    ((probing 3 l).at 9).beginning 0 3 = some { mkCmd 5 (probeRaw 3) .admitted with hiers := l }
    ∧ boundTo l (rb (probeRaw 3) 34 2) [1, 3] = some ⟨1, 0x5000⟩ ∧ boundTo l (rb (probeRaw 3) 36 2) [4] = some ⟨4, 0x5000⟩ := by decide +kernel

/-- One triangle of corners (0, 0, 0), (1, 0, 0), (0, 1, 0). -/
def triBytes : List Byte := leBytes 40 (0x3F800000 * 256 ^ 12 + 0x3F800000 * 256 ^ 28)
def boxDesc (kind cap : Nat) : List (Nat × Nat × Nat) := [(0, 1, kind), (1, 1, 1), (4, 4, 0xFFFFFFFF), (8, 8, 0x20000), (20, 4, cap)]
def boxRaw (op : Nat) : Slot64 := raw [(0, 1, op), (8, 8, 0x8000), (16, 4, 1), (24, 8, 0x5000), (32, 8, 0x100000)]
def boxing (desc : List (Nat × Nat × Nat)) : State := withMem (withMem (withCmd 16 (boxRaw 0x10)) 0x5000 (descBytes desc)) 0x8000 triBytes

theorem witness_build_box_bad : ((boxing (boxDesc 1 8)).at 9).beginning 16 0x10 = some (mkCmd 5 (boxRaw 0x10) .admitted)
    ∧ ∃ d, ((boxing (boxDesc 1 8)).at 9).vdesc 0 0x5000 = .ok d ∧ (!d.softOk 0 false) = true := ⟨by decide +kernel, ok_of (by decide +kernel)⟩
/-- The build of one triangle: its collapsed tree is one leaf below a root, and every write goes through. -/
def boxBuilds (cap : Nat) : Bool :=
  let s := (boxing (boxDesc 0 cap)).at 9
  let c := mkCmd 5 (boxRaw 0x10) .admitted
  decide (s.beginning 16 0x10 = some c) && okAnd (s.vdesc 0 0x5000) (fun d => d.softOk 0 false
    && (let a := s.vwriteSome 0 (emptyFirst 0x5000 d ++ scratchWrites c (32 + 2 ^ 22) [(0x100000, 7)]) 0
        a.bad == none && okAnd (a.s.inputRecs 0 c) (fun recs =>
          let base := collapsed (recs.map (·.box)) 4
          let need := (layTree 1 ((parseTree base).getD [])).next
          need == 2 && treeOk 1 4 ((parseTree base).getD [])
          && (a.s.vwriteSome 0 (if d.cap < need then [wr (0x5000 + 16) 4 need, seqWrite 0x5000 d]
            else boxImage c d recs (buildTree false 1 4 d.cap recs base)) 0).bad == none)))
theorem witness_build_box : boxBuilds 8 = true := by decide +kernel
theorem witness_build_box_small : boxBuilds 1 = true := by decide +kernel
/-- The box hierarchy of one triangle in memory, with its build command gone. -/
def boxed : State := withQ (run (.buildBox 16 [] (env 9)) (boxing (boxDesc 0 8))) 16 (mkQueue [])
theorem test_build_box_used : (boxed.mem.num 0x5010 4, boxed.mem.num 0x5004 4, boxed.mem.num 0x5058 4) = (2, 0, 1) := by decide +kernel

def refitting : State := withQ boxed 16 (mkQueue [mkCmd 6 (boxRaw 0x13) .admitted])
theorem witness_build_refit : (let s := refitting.at 9
    let c := mkCmd 6 (boxRaw 0x13) .admitted
    decide (s.beginning 16 0x13 = some c) && okAnd (s.vdesc 0 0x5000) (fun d => d.softOk 0 true && d.primCount == 1 && d.primKind == 1
      && okAnd (s.inputRecs 0 c) (fun recs => okAnd (s.memWalk 0 true d.base (d.used + 1) (if d.empty then [] else [(d.root, 1)])) (fun w => match w with
        | none => false
        | some ns => okAnd (s.memLeaves 0 d.base ((leafKids ns).map (fun k => (k.2.idx, leafUnits k.2.kind k.2.n)))) (fun leaves =>
          let img := refitImage 1 recs (refitPrims 1 leaves [] (leafKids ns) 0) ns
          (s.vwriteSome 0 (scratchWrites c (8 * d.used + 2 ^ 20) [] ++ unitWrites d.base 128 img.1
            ++ [wr (0x5000 + 40) 4 (recs.filter (fun x => x.box.isNone)).length] ++ rootBoxWrites 0x5000 img.2 ++ [seqWrite 0x5000 d]) 0).bad == none))))) = true := by
  decide +kernel
theorem witness_build_refit_bad : okAnd ((withMem refitting 0x5058 [2]).vdesc 0 0x5000) (fun d => d.primCount != 1) = true := by decide +kernel

def compactRaw : Slot64 := raw [(0, 1, 0x14), (8, 8, 0x5000), (16, 4, 2), (24, 8, 0x6000), (32, 8, 0x100000)]
def compacting (n : Nat) : State :=
  withMem (withQ boxed 16 (mkQueue [mkCmd 6 (compactRaw + (BitVec.ofNat 512 (n - 2)) <<< 128) .admitted])) 0x6000
    (descBytes [(0, 1, 0), (1, 1, 1), (8, 8, 0x40000), (20, 4, 8)])
theorem witness_build_compact : (let s := (compacting 2).at 9
    let c := mkCmd 6 compactRaw .admitted
    decide (s.beginning 16 0x14 = some c) && okAnd (s.vdesc 0 0x6000) (fun d => okAnd (s.vdesc 0 0x5000) (fun src =>
      src.source && d.softOk src.kind false && src.used == 2 && !areasOverlap d src && !src.isSharded
      && (let a := s.vwriteSome 0 (emptyFirst 0x6000 d ++ scratchWrites c (4 * 2 + 2 ^ 20) []) 0
          a.bad == none && okAnd (a.s.memWalks 0 d.isBox src.base (src.used + 1) (rootNode d.isBox src.root)) (fun w => match w with
            | none => false
            | some parts =>
              let ns := parts.flatMap id
              let lens := boxLeafUnits d.isBox ns
              let lay := layParts d.isBox parts ⟨[], [], 0⟩
              decide (lay.1.next ≤ d.cap) && okAnd (a.s.memLeaves 0 src.base lens) (fun leaves =>
                (a.s.vwriteSome 0 (copyWrites d.isBox d.base lay.1 (fun _ => none) ns (cleanLeaves ns leaves) lens ++ copiedFields 0x6000 src
                  ++ [wr (0x6000 + 2) 2 (4 + src.byte 2 1 / 2 % 2 * 2), wr (0x6000 + 16) 4 lay.1.next, seqWrite 0x6000 d,
                      wr (0x6000 + 4) 4 (newRoot d.isBox lay.1 src.root)]) 0).bad == none)))))) = true := by decide +kernel
theorem witness_build_compact_bad : ((compacting 3).at 9).beginning 16 0x14 = some (mkCmd 6 (compactRaw + (BitVec.ofNat 512 1) <<< 128) .admitted)
    ∧ rb (compactRaw + (BitVec.ofNat 512 1) <<< 128) 16 4 ≠ 2 := by decide +kernel

def splitRaw : Slot64 := raw [(0, 1, 0x15), (8, 8, 0x5000), (16, 4, 2), (24, 8, 0x6000), (32, 8, 0x100000), (48, 8, 0x7000), (58, 4, 1)]
def splitting (plan : List Byte) : State :=
  withMem (withMem (withQ boxed 16 (mkQueue [mkCmd 6 splitRaw .admitted])) 0x6000
    (descBytes [(0, 1, 2), (1, 1, 1), (8, 8, 0x40000), (20, 4, 2048), (24, 8, 0xA000)])) 0x7000 plan
theorem witness_build_split : (let s := (splitting []).at 9
    let c := mkCmd 6 splitRaw .admitted
    decide (s.beginning 16 0x15 = some c) && okAnd (s.vdesc 0 0x6000) (fun d => okAnd (s.vdesc 0 0x5000) (fun src => okAnd (s.vnum 0 0x7000 64) (fun pv =>
      decide (splitPlan pv = some (0, 0, 16)) && src.source && !src.isSharded && d.softOk (src.kind + 2) false && src.used == 2
      && !areasOverlap src d && decide (src.used * 128 + 2 ^ 16 ≤ d.cap * 128)
      && (let a := s.vwriteSome 0 (emptyFirst 0x6000 d ++ scratchWrites c (8 * 2 + 2 ^ 20) []) 0
          a.bad == none && okAnd (a.s.memWalks 0 true src.base (src.used + 1) (rootNode true src.root)) (fun w => match w with
            | none => false
            | some parts =>
              let ns := parts.flatMap id
              let found := splitCands true ns 1 0 (ns.length + 1) ((rootNode true src.root).flatMap (internalKids true ns))
              let top := nodesFrom true ns (fun _ => false) (2 * ns.length + 1) (rootNode true src.root)
              let lay := laySubs true d.base 16 [] (layPart true false (fun _ => false) 0 top ⟨[], [], 0⟩)
              found.isEmpty && decide (lay.1.next ≤ d.cap) && okAnd (a.s.memLeaves 0 src.base (boxLeafUnits true ns)) (fun leaves =>
                (a.s.vwriteSome 0 (splitImage c src d ns [] 0 lay (cleanLeaves ns leaves) []) 0).bad == none))))))) = true := by decide +kernel
theorem witness_build_split_bad : okAnd (((splitting [0, 0, 0, 0, 0, 0, 31]).at 9).vnum 0 0x7000 64) (fun pv => splitPlan pv == none) = true := by
  decide +kernel

/-- The identity matrix of 32 rows in memory, bf16, and its rows in FP32. -/
def unitP : Nat := ((List.range 32).map (fun i => 0x3F80 * 256 ^ (2 * (i * 32 + i)))).sum
def unitRow (i : Nat) : List W32 := (List.range 32).map (fun j => if i = j then 0x3F800000 else 0)
theorem unitP_rows : pRows 32 unitP = (List.range 32).map unitRow := by decide +kernel
/-- One step of a dot product. -/
def dotStep (r : Rnd) (a x y : W32) : W32 := r32 r ((v32 a).add ((v32 x).mul (v32 y)))
theorem dotStep_zero : ∀ r : Bool, ∀ a x y : Bool, !(x && y) →
    dotStep (if r then .down else .up) (if a then 0x3F800000 else 0) (if x then 0x3F800000 else 0) (if y then 0x3F800000 else 0)
      = if a then 0x3F800000 else 0 := by decide +kernel
theorem dotStep_one : ∀ r : Bool, dotStep (if r then .down else .up) 0 0x3F800000 0x3F800000 = 0x3F800000 := by decide +kernel
theorem dot_steps (r : Rnd) (i j : Nat) : ∀ (l : List Nat) (a : W32),
    ((l.map (fun k => v32 (if i = k then 0x3F800000 else 0))).zip (l.map (fun k => v32 (if j = k then 0x3F800000 else 0)))).foldl
      (fun a x => r32 r ((v32 a).add (x.1.mul x.2))) a
    = l.foldl (fun a k => dotStep r a (if i = k then 0x3F800000 else 0) (if j = k then 0x3F800000 else 0)) a
  | [], _ => rfl
  | _ :: l, _ => by simp only [List.map_cons, List.zip_cons_cons, List.foldl_cons]; exact dot_steps r i j l _
/-- A row of the identity times a row. -/
theorem unit_fold (r : Bool) (i j m : Nat) :
    (List.range m).foldl (fun a k => dotStep (if r then .down else .up) a (if i = k then 0x3F800000 else 0) (if j = k then 0x3F800000 else 0)) 0
      = if i = j ∧ i < m then 0x3F800000 else 0 := by
  have keep : ∀ (a : Bool) (l : List Nat), (∀ k ∈ l, ¬ (i = k ∧ j = k)) →
      l.foldl (fun a k => dotStep (if r then .down else .up) a (if i = k then 0x3F800000 else 0) (if j = k then 0x3F800000 else 0)) (if a then 0x3F800000 else 0)
        = if a then 0x3F800000 else 0 := by
    intro a l
    induction l with
    | nil => intro _; rfl
    | cons k l ih =>
      intro h
      have hk := h k (by simp)
      have := dotStep_zero r a (decide (i = k)) (decide (j = k)) (by simp; omega)
      simp only [decide_eq_true_eq] at this
      rw [List.foldl_cons, this]
      exact ih (fun k hk => h k (by simp [hk]))
  by_cases h : i = j ∧ i < m
  · obtain ⟨n, rfl⟩ : ∃ n, m = i + (1 + n) := ⟨m - 1 - i, by omega⟩
    rw [if_pos h]
    have e := h.1
    subst e
    have h0 := keep false (List.range i) (by simp; omega)
    simp only [Bool.false_eq_true, if_false] at h0
    rw [List.range_add, List.foldl_append, h0, List.range_add, List.map_append, List.foldl_append]
    have h2 := keep true ((List.range n).map (fun x => 1 + x) |>.map (fun x => i + x)) (by simp; omega)
    simp only [if_true] at h2
    simp only [List.range_one, List.map_cons, List.map_nil, Nat.add_zero, List.foldl_cons, List.foldl_nil, if_true, dotStep_one]
    exact h2
  · rw [if_neg h]
    have h0 := keep false (List.range m) (by simp only [List.mem_range]; omega)
    simpa only [Bool.false_eq_true, if_false] using h0
theorem dot_unit (r : Bool) (i j : Nat) : dotDir (if r then .down else .up) ((unitRow i).map v32) ((unitRow j).map v32)
    = if i = j ∧ i < 32 then 0x3F800000 else 0 := by
  unfold dotDir unitRow
  rw [List.map_map, List.map_map]
  show ((List.map (fun k => v32 (if i = k then 0x3F800000 else 0)) _).zip (List.map (fun k => v32 (if j = k then 0x3F800000 else 0)) _)).foldl _ _ = _
  rw [dot_steps]
  exact unit_fold r i j 32
theorem delta_unit : deltaOf (pRows 32 unitP) = 0 := by
  have none : ∀ l : List W32, (∀ x ∈ l, x = 0) → l.foldl maxF 0 = 0 := by
    intro l
    induction l with
    | nil => intro _; rfl
    | cons x l ih =>
      intro h
      rw [List.foldl_cons, h x (by simp), show maxF 0 0 = 0 from by decide +kernel]
      exact ih (fun x hx => h x (by simp [hx]))
  have zero : ∀ b : Bool, magUp (fsub .down (if b then 0x3F800000 else 0) (if b then 0x3F800000 else 0))
      (fsub .up (if b then 0x3F800000 else 0) (if b then 0x3F800000 else 0)) = 0 := by decide +kernel
  rw [unitP_rows]
  apply none
  intro x hx
  simp only [List.mem_flatMap, List.mem_map, List.mem_range] at hx
  obtain ⟨i, hi, j, hj, rfl⟩ := hx
  have row : ∀ n, n < 32 → (((List.range 32).map unitRow).map (fun row => row.map v32)).getD n [] = (unitRow n).map v32 := by
    intro n hn
    simp [List.getD, hn]
  rw [row i hi, row j hj]
  have hd := dot_unit true i j
  have hu := dot_unit false i j
  simp only [if_true, Bool.false_eq_true, if_false] at hd hu
  rw [hd, hu]
  have := zero (decide (i = j))
  simpa [hi] using this
theorem delta_ok : deltaBad (pRows 32 unitP) = false := by
  unfold deltaBad
  rw [delta_unit, unitP_rows]
  decide +kernel

def keyRaw (op n : Nat) : Slot64 := raw [(0, 1, op), (8, 8, 0x30000), (16, 4, n), (24, 8, 0x5000), (32, 8, 0x100000), (48, 8, 0x39000), (56, 2, 32)]
/-- The identity in memory at 39000 (hex). -/
def unitCells : Mem := (List.range 32).flatMap (fun i => [(0x39000 + 66 * i, 0x80), (0x39001 + 66 * i, 0x3F)])
/-- A BUILD command on the index at 5000 (hex), the identity as its projection. -/
def keying (op n : Nat) (desc : List (Nat × Nat × Nat)) : State :=
  let s := withMem (withCmd 16 (keyRaw op n)) 0x5000 (descBytes desc)
  { s with mem := s.mem ++ unitCells }
theorem witness_build_keys_bad : ((keying 0x11 0 (boxDesc 0 64)).at 9).beginning 16 0x11 = some (mkCmd 5 (keyRaw 0x11 0) .admitted)
    ∧ ∃ d, ((keying 0x11 0 (boxDesc 0 64)).at 9).vdesc 0 0x5000 = .ok d ∧ (!d.softOk 1 false) = true := ⟨by decide +kernel, ok_of (by decide +kernel)⟩
theorem leNat_append : ∀ l r : List Byte, leNat (l ++ r) = leNat l + 256 ^ l.length * leNat r
  | [], r => by simp [leNat]
  | b :: l, r => by simp only [List.cons_append, leNat, leNat_append l r, List.length_cons, pow_succ]; ring
theorem read_add (m : Mem) : ∀ n a k, m.read a (n + k) = m.read a n ++ m.read (a + n) k
  | 0, a, k => by simp [Mem.read]
  | n + 1, a, k => by
    rw [show n + 1 + k = (n + k) + 1 from by omega]
    simp only [Mem.read, List.cons_append, read_add m n (a + 1) k, show a + 1 + n = a + (n + 1) from by omega]
theorem read_len (m : Mem) : ∀ n a, (m.read a n).length = n
  | 0, _ => rfl
  | n + 1, a => by simp [Mem.read, read_len m n]
/-- The number in `k` rows of 64 bytes. -/
def rowSum : Nat → Nat
  | 0 => 0
  | k + 1 => rowSum k + 256 ^ (64 * k) * (0x3F80 * 256 ^ (2 * k))
theorem rows_read (m : Mem) (h : ∀ i : Fin 32, leNat (m.read (0x39000 + 64 * i.val) 64) = 0x3F80 * 256 ^ (2 * i.val)) :
    ∀ k, k ≤ 32 → leNat (m.read 0x39000 (64 * k)) = rowSum k
  | 0, _ => rfl
  | k + 1, hk => by
    rw [show 64 * (k + 1) = 64 * k + 64 from by omega, read_add, leNat_append, read_len, rows_read m h k (by omega), h ⟨k, by omega⟩, rowSum]
theorem unitP_read : ((keying 0x11 0 keyDesc).at 9).vnum 0 0x39000 2048 = .ok unitP := by
  have hx : ((keying 0x11 0 keyDesc).at 9).xlat 0 .read (pieces 0x39000 2048) = .ok [(0x39000, 2048)] := by decide +kernel
  unfold State.vnum State.vread
  rw [hx]
  simp only [List.flatMap_cons, List.flatMap_nil, List.append_nil]
  rw [rows_read _ (by decide +kernel) 32 (by omega)]
  congr 1
/-- The writes of the build of an index without keys go through. -/
def keyWrites (s : State) (d : Desc) : Bool :=
  let t := keyTree 0 ((leafPlaces false 0 (fun _ => ⟨([], []), 0⟩)).map (fun j => (j, (⟨([], []), 0⟩ : KBox))))
  (s.vwriteSome 0 (emptyFirst 0x5000 d ++ scratchWrites (mkCmd 5 (keyRaw 0x11 0) .admitted) (2 ^ 20) [] ++ unitWrites d.base 640 t.2.2
    ++ [wr 0x5002 2 0, wr 0x5010 4 t.2.2.length, wr 0x5026 1 t.2.1, wr 0x5042 2 32, wr 0x5048 4 0, wr 0x5050 8 0x30000, wr 0x5060 8 0x39000,
        wr 0x5068 4 0, seqWrite 0x5000 d, wr 0x5004 4 t.1]) 0).bad == none
theorem witness_build_keys : ((keying 0x11 0 keyDesc).at 9).beginning 16 0x11 = some (mkCmd 5 (keyRaw 0x11 0) .admitted)
    ∧ ((keying 0x11 0 keyDesc).at 9).vnum 0 0x39000 2048 = .ok unitP ∧ rb (keyRaw 0x11 0) 48 8 = 0x39000 ∧ deltaBad (pRows 32 unitP) = false
    ∧ deltaOf (pRows 32 unitP) = 0 ∧ ∃ d, ((keying 0x11 0 keyDesc).at 9).vdesc 0 0x5000 = .ok d
      ∧ (d.softOk 1 false && ((keying 0x11 0 keyDesc).at 9).fmtOn (mkCmd 5 (keyRaw 0x11 0) .admitted).caddy 0 d.kfmt
        && decide (keyCapUnits d.keyCap ≤ d.cap) && keyWrites ((keying 0x11 0 keyDesc).at 9) d
        && decide (((keying 0x11 0 keyDesc).at 9).keysOf 0 ⟨d.kfmt, 32, 0x30000, d.scaleAddr⟩ (pRows 32 unitP) 0 0 = .ok (some []))) = true :=
  ⟨by decide +kernel, unitP_read, by decide +kernel, delta_ok, delta_unit, ok_of (by decide +kernel)⟩
theorem witness_build_insert : ((keying 0x12 0 keyDesc).at 9).runOrBegin 16 0x12 = some (mkCmd 5 (keyRaw 0x12 0) .admitted)
    ∧ ∃ d, ((keying 0x12 0 keyDesc).at 9).vdesc 0 0x5000 = .ok d ∧ (d.softOk 1 true && decide (0 ≤ d.keyCap - d.keyCount) && d.dim == 32
      && okAnd (((keying 0x12 0 keyDesc).at 9).vnum 0 d.pAddr (64 * d.dim)) (fun _ => true)
      && okAnd (((keying 0x12 0 keyDesc).at 9).vwriteAll 0 (insFields 0x5000 d ⟨d.root, d.used, d.depth, d.keyCount, []⟩)) (fun _ => true)) = true :=
  ⟨by decide +kernel, ok_of (by decide +kernel)⟩
/-- A list of two entries: none for the index at 5000 (hex), then one key for it. -/
def listRaw : Slot64 := raw [(0, 1, 0x12), (8, 8, 0x3A000), (16, 4, 1), (24, 8, 0), (40, 1, 1), (56, 2, 32)]
def listing (next : Nat) : State :=
  withMem (withMem (withQ up 16 (mkQueue [{ mkCmd 5 listRaw .running with next := next }])) 0x5000 (descBytes (boxDesc 1 8)))
    0x3A000 (leBytes 32 (0x5000 + (0x5000 + 256 ^ 8) * 256 ^ 16))
theorem witness_insert_list : bit listRaw 320 = true ∧ ((listing 0).at 9).runOrBegin 16 0x12 = some (mkCmd 5 listRaw .running)
    ∧ okAnd (((listing 0).at 9).vnum 0 0x3A000 16) (fun e => by_ e 8 4 == 0) = true
    ∧ okAnd (((listing 1).at 9).vnum 0 0x3A010 16) (fun e => by_ e 0 8 % 2 ^ 57 == 0x5000 && by_ e 8 4 == 1) = true
    ∧ okAnd (((listing 1).at 9).vdesc 0 0x5000) (fun d => !d.softOk 1 true) = true := by decide +kernel
/-- The compaction of an index of one leaf of 3 keys into another, its leaves grouped anew (R153). -/
def regroupRaw : Slot64 := raw [(0, 1, 0x14), (8, 8, 0x5000), (16, 4, 0), (24, 8, 0x6000), (32, 8, 0x100000), (40, 1, 1)]
def regrouping : State := withMem (withMem (withCmd 16 regroupRaw) 0x5000
  (descBytes (keyDesc.map (fun f => if f.1 = 4 then (4, 4, 0x400000) else f) ++ [(72, 4, 3)]))) 0x6000
  (descBytes (keyDesc.map (fun f => if f.1 = 8 then (8, 8, 0x60000) else f)))
theorem witness_regroup : (let s := regrouping.at 9
    let c := mkCmd 5 regroupRaw .admitted
    decide (s.beginning 16 0x14 = some c) && bit regroupRaw 320 && okAnd (s.vdesc 0 0x6000) (fun d => okAnd (s.vdesc 0 0x5000) (fun src =>
      src.source && d.softOk src.kind false && src.used == 0 && !areasOverlap d src && !d.isBox && !d.isSharded && !src.isSharded
      && (let a := s.vwriteSome 0 (emptyFirst 0x6000 d ++ scratchWrites c (2 ^ 20) []) 0
          a.bad == none && okAnd (a.s.memWalks 0 false src.base (src.used + 1) (rootNode false src.root)) (fun w => match w with
            | none => false
            | some parts =>
              let t := keyTree 0 [(0, ⟨([], []), 0⟩)]
              (bottomBoxes (parts.flatMap id)).isEmpty && leafPlaces false src.keyCount (fun _ => ⟨([], []), 0⟩) == [0] && src.root / 2 ^ 22 == 1
              && src.root % 2 ^ 22 == 0 && decide (t.2.2.length ≤ d.cap) && ((a.s.vwriteSome 0 (unitWrites d.base 640 t.2.2 ++ copiedFields 0x6000 src
                    ++ [wr 0x6002 2 4, wr 0x6010 4 0, wr 0x6026 1 t.2.1, seqWrite 0x6000 d, wr 0x6004 4 t.1]) 0).bad == none)))))) = true := by
  decide +kernel

/-! ## SPLAT, COPY, RESIDENCY, sessions and publications -/

def splatRaw (op w : Nat) : Slot64 := raw [(0, 1, op), (8, 8, 0x8000), (16, 4, 0), (24, 8, 0x5000), (36, 2, w), (38, 2, w)]
theorem witness_splat_empty : (((withCmd 32 (splatRaw 0x20 0)).at 9).works 0 = true) ∧ ((withCmd 32 (splatRaw 0x20 0)).at 9).binning 32 0x20 = none
    ∧ ((withCmd 32 (splatRaw 0x20 0)).at 9).beginning 32 0x20 = some (mkCmd 5 (splatRaw 0x20 0) .admitted) ∧ zeroRect (splatRaw 0x20 0) = true := by
  decide +kernel
/-- The command shows its target, and its summary copies are not granted. -/
def showing : State :=
  let s := withQ up 32 (mkQueue [{ mkCmd 5 (splatRaw 0x20 1) .admitted with descs := [(0, descOf targetDesc)], presents := true }])
  { s with vis := { s.vis with parkWait := [⟨⟨32, 5⟩, 0, 2, some (16, 16)⟩] } }
theorem witness_splat_waits : (showing.at 9).binning 32 0x20 = none
    ∧ (showing.at 9).beginning 32 0x20 = some { mkCmd 5 (splatRaw 0x20 1) .admitted with descs := [(0, descOf targetDesc)], presents := true }
    ∧ zeroRect (splatRaw 0x20 1) = false ∧ (showing.at 9).summaryWaits 0 = true := by decide +kernel
theorem witness_splat_bad : ((withCmd 32 (splatRaw 0x20 1)).at 9).beginning 32 0x20 = some (mkCmd 5 (splatRaw 0x20 1) .admitted)
    ∧ zeroRect (splatRaw 0x20 1) = false ∧ ∃ d, ((withCmd 32 (splatRaw 0x20 1)).at 9).vdesc 0 0x5000 = .ok d
      ∧ (splatCheck (mkCmd 5 (splatRaw 0x20 1) .admitted) d != stOk) = true := ⟨by decide +kernel, by decide +kernel, ok_of (by decide +kernel)⟩
/-- A pass of SPLAT_FWD that has nothing left to bin. -/
def aPass (phase : PPhase) : Pass := ⟨⟨32, 5⟩, 0, 2, 0, 0, phase, [0], [], [], 0, [], [], 0, 0, 0, 0, 1, []⟩
def binningAt (op : Nat) : State := let s := withQ up 32 (mkQueue [mkCmd 5 (splatRaw op 1) .running]); { s with vis := { s.vis with passes := [aPass .binning] } }
theorem witness_splat_bins : ((binningAt 0x20).at 9).works 0 = true ∧ ((binningAt 0x20).at 9).binning 32 0x20 = some (mkCmd 5 (splatRaw 0x20 1) .running, aPass .binning)
    ∧ ((binningAt 0x20).at 9).binFrom (splatRaw 0x20 1) true 0 (aPass .binning) = .done ((binningAt 0x20).at 9) (aPass .binning)
    ∧ rb (splatRaw 0x20 1) 16 4 - (aPass .binning).prim = 0 := ⟨by decide +kernel, by decide +kernel, rfl, by decide +kernel⟩
theorem witness_splat_backward : (let s := (binningAt 0x21).at 9
    let v := aPass .binning
    let c := mkCmd 5 (splatRaw 0x21 1) .running
    s.binning 32 0x21 == some (c, v) && rb (splatRaw 0x21 1) 16 4 == 0
    && okAnd (s.bwdTiles v c (bwdKeep v (s.binOthers ⟨32, 5⟩) v.active).1) (fun l => l.length == 1
      && okAnd (s.applyGrads 0 .sat false 0 0 (bwdOrder [] (bwdRecords l))) (fun x => okAnd (x.1.vwriteAll 0 []) (fun _ => true)))) = true := by decide +kernel
/-- Another pass holds all of bin memory; the command's pass meets a Gaussian of radius 1 in tile 0. -/
def fullPass : Pass := { aPass .waiting with cmd := ⟨33, 6⟩, bins := [(0, List.replicate binCap (0, 0))] }
def crowdRaw (op : Nat) : Slot64 := raw [(0, 1, op), (8, 8, 0x8000), (16, 4, 1), (24, 8, 0x5000), (36, 2, 1), (38, 2, 1)]
def crowded (op n : Nat) : State :=
  let s := withMem (withQ up 32 (mkQueue [mkCmd 5 (crowdRaw op) .running])) 0x8018 [0, 0x3C]
  { s with vis := { s.vis with passes := [{ aPass .binning with granted := n }, fullPass] } }
theorem crowded_others (op n : Nat) : ((crowded op n).at 9).binOthers ⟨32, 5⟩ = binCap := by
  have h : fullPass.entries = binCap := by simp [Pass.entries, fullPass]
  show (([{ aPass .binning with granted := n }, fullPass].filter (fun v => decide (v.cmd ≠ ⟨32, 5⟩))).map (fun v => v.entries)).sum = binCap
  rw [show [{ aPass .binning with granted := n }, fullPass].filter (fun v => decide (v.cmd ≠ ⟨32, 5⟩)) = [fullPass] from rfl]
  simp [h]
/-- The command's pass, with `n` tiles parked. -/
def binPass (n : Nat) : Pass := { aPass .binning with granted := n }
theorem bin_full (s : State) (n : Nat) (h : s.splatRec 0 (crowdRaw 0x20) 0 = .ok (0x3C00 * 256 ^ 24)) (hc : s.binOthers ⟨32, 5⟩ = binCap) :
    s.binFrom (crowdRaw 0x20) true 1 (binPass n) = .full s (binPass n) := by
  have ht : (binPass n).covers (spTri (crowdRaw 0x20)) (0x3C00 * 256 ^ 24) = [0] := by
    show (aPass .binning).covers (spTri (crowdRaw 0x20)) (0x3C00 * 256 ^ 24) = [0]
    decide +kernel
  have h1 : (recSkip (spTri (crowdRaw 0x20)) (0x3C00 * 256 ^ 24) || recFlat (spTri (crowdRaw 0x20)) (0x3C00 * 256 ^ 24)
    || outside (crowdRaw 0x20) (0x3C00 * 256 ^ 24)) = false := by decide +kernel
  have h2 : recFinite (spTri (crowdRaw 0x20)) (0x3C00 * 256 ^ 24) = true := by decide +kernel
  have h3 : decide (binCap < binCap + (binPass n).entries + [0].length) = true := rfl
  have hp : (binPass n).part = 0 ∧ (binPass n).prim = 0 ∧ (binPass n).cmd = ⟨32, 5⟩ := ⟨rfl, rfl, rfl⟩
  generalize binPass n = v at *
  simp only [State.binFrom, hp.1, hp.2.1, hp.2.2, h, h1, h2, ht, hc, h3, Bool.false_eq_true, if_false, Bool.not_true, Bool.and_true, if_true]
theorem witness_splat_full : ∀ b : Bool, let s := (crowded 0x20 (if b then 1 else 0)).at 9
    let v := binPass (if b then 1 else 0)
    s.binning 32 0x20 = some (mkCmd 5 (crowdRaw 0x20) .running, v) ∧ s.binFrom (crowdRaw 0x20) true 1 v = .full s v
    ∧ (v.granted = 0 ↔ b = false) := by
  intro b
  exact ⟨by cases b <;> decide +kernel, bin_full _ _ (by cases b <;> decide +kernel) (crowded_others 0x20 _), by cases b <;> decide +kernel⟩
theorem witness_splat_backward_waits : let v := (aPass .binning).place 0 0 [0]
    bwdKeep v (((crowded 0x21 0).at 9).binOthers ⟨32, 5⟩) v.active = ([], [], [0]) := by
  rw [crowded_others]
  decide +kernel

def copyRaw (n : Nat) : Slot64 := raw [(0, 1, 0x30), (8, 8, 0x8000), (16, 8, 0x9000), (24, 8, n)]
def copying (n : Nat) : State := withMem (withCmd 16 (copyRaw n)) 0x8000 [1, 2, 3, 4, 5]
theorem witness_copy : ((copying 5).at 9).runOrBegin 16 0x30 = some (mkCmd 5 (copyRaw 5) .admitted) ∧ rb (copyRaw 5) 24 8 = 5
    ∧ rb (copyRaw 5) 16 8 % 4096 + 5 ≤ 4096 ∧ ((copying 5).at 9).vread 0 (rb (copyRaw 5) 8 8) 5 = .ok [1, 2, 3, 4, 5]
    ∧ ∃ s2, ((copying 5).at 9).vwrite 0 (rb (copyRaw 5) 16 8) [1, 2, 3, 4, 5] = .ok s2 ∧ (s2.mem.num 0x9000 5 == 0x0504030201) = true :=
  ⟨by decide +kernel, by decide +kernel, by decide +kernel, by decide +kernel, ok_of (by decide +kernel)⟩
theorem test_copy : next (.copy 16 5 (env 9)) (copying 5) (fun t => t.mem.num 0x9000 5 == 0x0504030201) = true := by decide +kernel
def resRaw (va : Nat) : Slot64 := raw [(0, 1, 0x31), (8, 8, va), (16, 4, 3), (20, 1, 0)]
theorem witness_residency : ((withCmd 16 (resRaw 0x50000)).at 9).beginning 16 0x31 = some (mkCmd 5 (resRaw 0x50000) .admitted)
    ∧ 2 ^ 40 * (up.part 0).winBase.force.toNat ≤ rb (resRaw 0x50000) 8 8
    ∧ rb (resRaw 0x50000) 8 8 + 65536 * rb (resRaw 0x50000) 16 4 ≤ 2 ^ 40 * (up.part 0).winBase.force.toNat + 2 ^ 40
    ∧ ((withCmd 16 (resRaw 0x50000)).at 9).vread 0 0 1 = .ok [0]
    ∧ ∃ s2, ((withCmd 16 (resRaw 0x50000)).at 9).vwrite 0 0 (markPages 0 5 8 true [0]) = .ok s2 ∧ (s2.mem.num 0 1 == 0xE0) = true :=
  ⟨by decide +kernel, by decide +kernel, by decide +kernel, by decide +kernel, ok_of (by decide +kernel)⟩
theorem witness_residency_bad : ((withCmd 16 (resRaw (2 ^ 40))).at 9).beginning 16 0x31 = some (mkCmd 5 (resRaw (2 ^ 40)) .admitted)
    ∧ 2 ^ 40 * (up.part 0).winBase.force.toNat + 2 ^ 40 < rb (resRaw (2 ^ 40)) 8 8 + 65536 * rb (resRaw (2 ^ 40)) 16 4 := by decide +kernel

def sessRaw (op : Nat) : Slot64 := raw [(0, 1, 0x32), (8, 1, 3), (9, 1, op), (12, 4, 7)]
/-- A state whose session 3 is as told. -/
def withSess (s : State) (x : Session) : State := s.setSess 3 x
def upSess : Session := { Session.reset with state := ssUp, peer := 7, credit := ⟨99, 99, 99, 99, 99⟩ }
theorem witness_session_open : ((withCmd 16 (sessRaw 0)).at 9).beginning 16 0x32 = some (mkCmd 5 (sessRaw 0) .admitted) ∧ rb (sessRaw 0) 9 1 = 0
    ∧ sessLink (sessRaw 0) = 3 ∧ bit up.pins.linkUp 3 = true ∧ (up.sess 3).state = ssDown ∧ ((withSess up upSess).sess 3).state = ssUp
    ∧ bit { up with pins := { up.pins with linkUp := 0 } }.pins.linkUp 3 = false := by decide +kernel
theorem witness_session_drain : ((withCmd 16 (sessRaw 1)).at 9).beginning 16 0x32 = some (mkCmd 5 (sessRaw 1) .admitted) ∧ rb (sessRaw 1) 9 1 = 1
    ∧ (withSess up upSess).sess 3 = upSess ∧ upSess.doneSeen = false := by decide +kernel
def publishRaw : Slot64 := raw [(0, 1, 0x33), (8, 8, 0x8000), (16, 4, 1), (20, 4, 9)]
theorem witness_publish : ((withCmd 16 publishRaw).at 9).beginning 16 0x33 = some (mkCmd 5 publishRaw .admitted) ∧ up.fwd.publish = none
    ∧ ∃ bs, ((withCmd 16 publishRaw).at 9).vread 0 0x8000 8 = .ok bs ∧ (!(words64 1 bs).any ownBad) = true :=
  ⟨by decide +kernel, by decide +kernel, ok_of (by decide +kernel)⟩
theorem witness_publish_bad : ∃ bs, ((withMem (withCmd 16 publishRaw) 0x8000 [255, 255, 255, 255, 255, 255, 255, 255]).at 9).vread 0 0x8000 8 = .ok bs
    ∧ (words64 1 bs).any ownBad = true := ok_of (by decide +kernel)

/-! ## Rays -/

/-- A box hierarchy whose root is node 0, at 20000 (hex). -/
def usedDesc : List (Nat × Nat × Nat) := [(0, 1, 0), (1, 1, 1), (4, 4, 0), (8, 8, 0x20000), (16, 4, 2), (20, 4, 8)]
/-- A ray from (0, 0, 0) along z, 0 to 1. -/
def rayRaw : Slot64 := raw [(20, 4, 0x3F800000), (28, 4, 0x3F800000), (40, 1, 0xFF)]
def aProg (role : Nat) : Prog := ⟨BitVec.ofNat 3 role, 0, 1, 0x5000, false, true, false, 16, 16, 1024, 1, 64, 64, 64, 0⟩
def rayTable : HierTable := [(0, ⟨0, 0x5000⟩)]
/-- The running trace command of the rays. -/
def traceCmd (last : Nat) : Cmd := { mkCmd 5 traceRaw .running with hiers := rayTable, progs := [(3, aProg 0)], last := last }
def tracing : State := withMem (withMem (withQ up 0 (mkQueue [traceCmd 1])) 0x5000 (descBytes usedDesc)) 0x8000 (leBytes 64 rayRaw.toNat)

/-- Everything the intake of a well-formed ray asks for. -/
def intakeOk : Bool :=
  let s := tracing.at 9
  let c := traceCmd 1
  s.works 0 && s.herd.store.isEmpty && s.intakeCmd 0 isTrace false == some c && !orderedBit c.raw && !bit c.raw 160
    && okAnd (s.vslot 0 (rb c.raw 8 8 + 64 * c.next)) (fun w => w == rayRaw && !s.badRay 0 c w && !emptyRay w)
    && okAnd (s.vdesc 0 0x5000) (fun d => decide (d.usable 0 = .ok)
      && (let ray := mkRay c ⟨0, 5⟩ rayRaw d 0x5000
          s.underBudget 0 ray.flow && someAnd (s.kAdmit (env 9) 0 [.ray ray]) (fun x => x.1 == [0])))
theorem witness_ray_intake : intakeOk = true ∧ assocGet (rb rayRaw 42 2 % 1024) (traceCmd 1).hiers = some ⟨0, 0x5000⟩
    ∧ assocGet (rb rayRaw 42 2 % 1024) (traceCmd 1).descs = none := by decide +kernel
def vectorRaw : Slot64 := traceRaw ||| raw [(20, 1, 1)]
def vectorCmd : Cmd := { traceCmd 1 with raw := vectorRaw }
theorem witness_ray_vector : let s := (withQ up 0 (mkQueue [vectorCmd])).at 9
    s.works 0 = true ∧ s.intakeCmd 0 isTrace true = some vectorCmd ∧ s.orderTurn 0 vectorCmd = true ∧ s.portLive (srcPort vectorCmd.raw) = true
    ∧ s.hasCredit (srcPort vectorCmd.raw) .vector 1 = true ∧ (s.takeRay (env 9) 0 vectorCmd ⟨0, 5⟩ 0).advanced 0 vectorCmd = true := by decide +kernel

def aRay : Ray := { mkRay (traceCmd 0) ⟨0, 5⟩ rayRaw 0 0x5000 with base := 0x20000, line := 0x400 }
/-- A state with a ray in Kennel slot 0. -/
def withRay (r : Ray) : State := let s := withQ up 0 (mkQueue [traceCmd 0]); s.kPut 0 ⟨false, 0, none, .ray r⟩
def aWait (ready : Nat) : HWait := ⟨.ray 0, 0, 0x400, ready, 0⟩
/-- The ray waits for its line, which is there or not. -/
def herded (ready : Bool) : State := let s := withRay aRay; { s with herd := { s.herd with store := [⟨0, 0x400, ready, [aWait 0], 0⟩] } }
theorem witness_fetch_line : let s := (herded false).at 9
    s.works 0 = true ∧ (herded false).herd.reads = [] ∧ s.entry? 0 0x400 = some ⟨0, 0x400, false, [aWait 0], 0⟩
    ∧ (s.resident 0 (0x400 * 128) (s.itemCtx (.ray 0) 0)).1 = true ∧ s.translate 0 .read (0x400 * 128) = .ok 0x20000
    ∧ s.unfetched ⟨0, 0x400, false, [aWait 0], 0⟩ = true
    ∧ (s.resident 0 (0x400 * 128) (s.itemCtx (.ray 0) 0)).2.lineChoice = some ⟨0, 0x400, false, [aWait 0], 0⟩
    ∧ ({ s with herd := { s.herd with reads := (List.range 2048).map (fun n => (0, n, portOf 0x20000)) } } : State).lineChoice = none := by
  decide +kernel
def reading : State := let s := herded false; { s with herd := { s.herd with reads := [(0, 0x400, 3)] } }
theorem witness_line_fill : reading.live = true ∧ (0, 0x400, 3) ∈ reading.herd.reads ∧ reading.entry? 0 0x400 = some ⟨0, 0x400, false, [aWait 0], 0⟩
    ∧ reading.inNc 0 0x400 = false ∧ reading.herd.nc = [] := by decide +kernel
/-- Line 17 of a set of the NC, whatever the sets are: the lines of the other 16 are still to be read. -/
def crowding (g : Nat → Nat) : State :=
  { up with herd := { up.herd with
    reads := [(0, g 16, 3)], nc := (List.range 16).map (fun i => (0, g i))
    store := ⟨0, g 16, false, [⟨.ray 0, 0, g 16, 0, 0⟩], 0⟩ :: (List.range 16).map (fun i => ⟨0, g i, true, [⟨.ray 1, 0, g i, 0, 0⟩], 0⟩) } }
theorem witness_line_fill_waits : ∃ g : Nat → Nat, (crowding g).live = true ∧ (0, g 16, 3) ∈ (crowding g).herd.reads
    ∧ (crowding g).entry? 0 (g 16) = some ⟨0, g 16, false, [⟨.ray 0, 0, g 16, 0, 0⟩], 0⟩ ∧ (crowding g).ncFill 0 (g 16) = none := by
  obtain ⟨y, hy⟩ := Finite.exists_infinite_fiber (fun n : Nat => ncPlace (0, n))
  have h : ∃ g : Nat → Nat, (∀ i, ncPlace (0, g i) = y) ∧ ∀ i, i < 16 → g i ≠ g 16 := by
    let f := Infinite.natEmbedding ((fun n : Nat => ncPlace (0, n)) ⁻¹' {y})
    refine ⟨fun i => (f i).1, fun i => (f i).2, fun i hi e => ?_⟩
    have := f.injective (Subtype.ext e)
    omega
  obtain ⟨g, hg, hne⟩ := h
  refine ⟨g, by show up.live = true; decide +kernel, List.mem_singleton.mpr rfl, ?_, ?_⟩
  · simp [State.entry?, crowding]
  · have hn : (crowding g).inNc 0 (g 16) = false := by
      simp only [State.inNc, crowding, List.contains_eq_mem, List.mem_map, List.mem_range, Prod.mk.injEq, true_and, decide_eq_false_iff_not, not_exists, not_and]
      exact fun i hi => hne i hi
    have hs : (crowding g).herd.nc.filter (fun e => decide (ncPlace e = ncPlace (0, g 16))) = (List.range 16).map (fun i => ((0 : PartId), g i)) := by
      show ((List.range 16).map (fun i => ((0 : PartId), g i))).filter _ = _
      refine List.filter_eq_self.mpr ?_
      intro e he
      obtain ⟨i, _, rfl⟩ := List.mem_map.mp he
      simp [hg]
    have hh : ∀ e ∈ (List.range 16).map (fun i => ((0 : PartId), g i)), (crowding g).ncHeld e = true := by
      intro e he
      obtain ⟨i, hi, rfl⟩ := List.mem_map.mp he
      simp only [State.ncHeld, crowding, Bool.or_eq_true, List.any_eq_true]
      exact .inl ⟨_, List.mem_cons_of_mem _ (List.mem_map_of_mem hi), by simp⟩
    have hfind : ((List.range 16).map (fun i => ((0 : PartId), g i))).find? (fun e => !(crowding g).ncHeld e) = none := by
      rw [List.find?_eq_none]
      intro e he
      simp [hh e he]
    simp [State.ncFill, hn, hs, hfind]
theorem test_line_fill : next (.lineFill 0 0x400) reading (fun t => t.inNc 0 0x400) = true := by decide +kernel

def aPack : Pack := ⟨0, 0x400, [aWait 0]⟩
def halves : HalfTimes := ⟨1, 1⟩
theorem witness_pack_issue : let s := (herded true).at 9
    s.works 0 = true ∧ s.entry? 0 0x400 = some ⟨0, 0x400, true, [aWait 0], 0⟩
    ∧ ((s.entryPacks ⟨0, 0x400, true, [aWait 0], 0⟩).find? (fun r => s.idleOk halves r.pack
        && decide (s.listChoice halves 0 (packOp r.pack) = some r.pack))).map (·.pack) = some aPack
    ∧ (s.chooseTu aPack halves).isSome = true := by decide +kernel
/-- The ray waits in the unmatched list. -/
theorem witness_pack_unmatched : let s := withRay aRay
    let s1 := ({ s with herd := { s.herd with unmatched := [aWait 0] } }).at 9
    s1.works 0 = true ∧ s1.entry? 0 0x400 = none ∧ (s1.unmatchedNext.map (·.1)) = some (aWait 0) ∧ (aWait 0).part = 0 ∧ (aWait 0).line = 0x400 := by decide +kernel
theorem witness_pack_expiry : let s := withTimer (herded true) (.packWait 0 0x400)
    s.works 0 = true ∧ s.timerFires (.packWait 0 0x400) 64 = true ∧ (s.at 64).dlReady 0 = false ∧ ((s.at 64).chooseTu aPack halves).isSome = true
    ∧ (leastBy (fun r => (s.at 64).itemsDue r.pack.items) ((s.at 64).entryPacks ⟨0, 0x400, true, [aWait 0], 0⟩)).map (·.pack) = some aPack := by
  decide +kernel
/-- The pack is in the queue of TU 2. -/
def packed : State := let s := withRay aRay; { s with arr := { s.arr with tus := s.arr.tus.set 2 ⟨[aPack], [], [], up.caddyGens⟩ } }
theorem witness_test_tu : ((packed.at 9).tuPlace 2).isSome = true ∧ (packed.at 9).tuNext 2 [1] = some aPack := by decide +kernel
def goes (l : Leg) : Bool := match l with | .go _ => true | _ => false
/-- A visit after which the ray has left its TU. -/
def leaves (l : Leg) : Bool := match l with | .out _ => true | _ => false
theorem witness_test_visit : leaves ((((packed.at 9).tuTake 2 aPack).setLastTu 2 aPack).visitRay (env 9) 0 0 2 0x400) = true := by decide +kernel
/-- The same ray where its node's line cannot be read. -/
theorem witness_test_parks : let s := ({ packed with mmu := ⟨[], [], []⟩ } : State).at 9
    let s2 := (s.tuTake 2 aPack).setLastTu 2 aPack
    s2.standing aPack.items = aPack.items ∧ (match s2.visitAll (env 9) 0 2 0x400 aPack.items with | .bad _ _ => true | _ => false) = true := by decide +kernel
/-- The ray waits for the any-hit program in slot 3. -/
def invoking : State :=
  let s := withRay { aRay with wait := .invoke 0 3 0 0 0 0 0 false, rstate := .invokeWait }
  { s with herd := { s.herd with invokes := [⟨0, 2, 0, 3, 0, 0⟩] } }
theorem witness_invoke : let s := invoking.at 9
    let off : State := { s with herd := { s.herd with idleIssue := .both false } }
    s.works 0 = true ∧ off.works 0 = true ∧ someAnd (s.rayGroup 0 2 0 3 (s.gather 0 2 0 3)) (fun x => someAnd (s.pickCore 0 x.key) (fun c =>
      s.groupMoment c (s.gather 0 2 0 3) false && off.gather 0 2 0 3 == s.gather 0 2 0 3
      && !off.groupMoment c (s.gather 0 2 0 3) (off.timerFires (.groupWait 0 2 0 3) 9))) = true := by decide +kernel

/-! ## Spilling and the end of a ray -/

theorem witness_spill_push : let s := withRay { aRay with rstate := .spillWait, wait := .spillPush [1, 2] 5 }
    s.works 0 = true ∧ (s.kAux ⟨s.pins.now, [], [1], [], 0, .ok, .clean⟩ 0 (s.kIsForeign 0) (.ext 0 [])).isSome = true := by decide +kernel
theorem witness_spill_instance : let r : Ray := { aRay with rstate := .spillWait, wait := .spillInst 7 }
    let s := withRay r
    s.works 0 = true ∧ (((s.timerDel (.spill 0)).updRay 0 (fun r => { r with rstate := .active })).kAux ⟨s.pins.now, [], [1], [], 0, .ok, .clean⟩ 0 (s.kIsForeign 0)
      (.inst ⟨r.origin, r.dir, 0, r.ts, 0, 0, 0, r.base, r.root⟩)).isSome = true := by decide +kernel
theorem witness_spill_leash : let s := withRay { aRay with rstate := .spillWait, wait := .spillLeash 1 2 }
    s.works 0 = true ∧ (((s.timerDel (.spill 0)).updRay 0 (fun r => { r with rstate := .active })).kAux ⟨s.pins.now, [], [1], [], 0, .ok, .clean⟩ 0 (s.kIsForeign 0)
      (.leash (Leash.fresh 0))).isSome = true := by decide +kernel
theorem witness_spill_timeout : let r : Ray := { aRay with rstate := .spillWait, wait := .spillPush [1, 2] 5 }
    let s := withTimer (withRay r) (.spill 0)
    s.ray? 0 = some r ∧ s.ready = true ∧ s.timerFires (.spill 0) 64 = true := by decide +kernel
theorem witness_return : let r : Ray := { aRay with wait := .ended 1 }
    let s := withRay r
    s.ray? 0 = some r ∧ s.works 0 = true ∧ s.foreign? 0 = none ∧ s.cmd? ⟨0, 5⟩ = some (traceCmd 0) ∧ s.canReturn 0 r = true ∧ s.returnNext 0 0 = true := by decide +kernel
/-- A query of chip 7 that this chip walks. -/
def aForeign (kind : BitVec 2) : Foreign := ⟨0, 3, ⟨1, 0, 7, 1, 0, 0⟩, 100, kind, 1, none⟩
def withForeign (s : State) (f : Foreign) : State := { s with fwd := { s.fwd with foreign := [f] } }
theorem witness_return_foreign : let r : Ray := { aRay with wait := .ended 1 }
    let s := withSess (withForeign (withRay r) (aForeign 0)) upSess
    s.works 0 = true ∧ s.foreign? 0 = some (aForeign 0) ∧ s.canReturn 0 r = true ∧ s.returnNext 0 0 = true := by decide +kernel

/-! ## Credit, deliveries and acknowledgements -/

theorem witness_credit : up.live = true ∧ up.setter.replies = [] := by decide +kernel
theorem test_credit : next (.fabricCredit 2 .vector 9 5) up (fun t => t.creditOf 2 .vector 9 == 5) = true := by decide +kernel
/-- One delivery of one record is due, and credit for it is there. -/
def delivering (due : Bool) : State :=
  let s := up
  { s with ret := { s.ret with entries := [⟨4, 0, 0, none, ⟨0, 5⟩, 0, .held, none, 77, some (2, 9), 0⟩], delivs := [⟨2, 9, [4], due, 0⟩],
                               credit := [((2, .control, 9), 1), ((2, .vector, 9), 16)] } }
theorem witness_delivery : let s := delivering true
    s.ready = true ∧ s.delivHead 2 9 = some ⟨2, 9, [4], true, 0⟩ ∧ s.portLive 2 = true ∧ 1 ≤ s.creditOf 2 .control 9
    ∧ (match s.delivWords ⟨2, 9, [4], true, 0⟩ with | some l => l.length | none => 16) ≤ s.creditOf 2 .vector 9 := by decide +kernel
theorem witness_deliv_wait : let s := withTimer (delivering false) (.delivWait 2 9)
    s.ready = true ∧ s.timerFires (.delivWait 2 9) 64 = true
    ∧ ((s.fire (.delivWait 2 9) 64).delivDue 2 9).delivHead 2 9 = some ⟨2, 9, [4], true, 0⟩ := by decide +kernel
def acking (w : WriteFor) : State := { up with ret := { up.ret with writes := [⟨6, w, 0, []⟩] } }
theorem witness_ack : ∀ w, w = .nobody ∨ w = .entry 4 ∨ w = .command ⟨0, 5⟩ ∨ w = .group 1 2 →
    (acking w).live = true ∧ (acking w).ret.writes.find? (fun x => x.num == 6) = some ⟨6, w, 0, []⟩ := by
  rintro w (rfl | rfl | rfl | rfl) <;> decide +kernel

/-! ## Bundles -/

/-- The running probe command of the bundles. -/
def probeCmd (r : Slot64) (last : Nat) : Cmd := { mkCmd 5 r .running with hiers := [(1, ⟨1, 0x5000⟩)], last := last }
def probeQ (r : Slot64) (last : Nat) : State := withQ up 0 (mkQueue [probeCmd r last])
theorem witness_bundle_memory : let s := (probeQ (probeRaw 2) 1).at 9
    s.works 0 = true ∧ s.strain.bundles = [] ∧ s.intakeCmd 0 isProbe false = some (probeCmd (probeRaw 2) 1) ∧ s.orderTurn 0 (probeCmd (probeRaw 2) 1) = true
    ∧ okAnd (s.vslot 0 0x8000) (fun w => !headSized w && okAnd (s.vread 0 0x8000 64) (fun bs =>
        (s.takeBundle (env 9) 0 (probeCmd (probeRaw 2) 1) ⟨0, 5⟩ (slotsOf 2 bs)).advanced 0 (probeCmd (probeRaw 2) 1))) = true := by decide +kernel
def probeVec : Slot64 := probeRaw 2 ||| raw [(22, 1, 1)]
theorem witness_bundle_vector : let s := (probeQ probeVec 1).at 9
    s.intakeCmd 0 isProbe true = some (probeCmd probeVec 1) ∧ s.orderTurn 0 (probeCmd probeVec 1) = true ∧ s.portLive (srcPort probeVec) = true
    ∧ headSized 0 = false ∧ s.hasCredit (srcPort probeVec) .vector 1 = true
    ∧ (s.takeBundle (env 9) 0 (probeCmd probeVec 1) ⟨0, 5⟩ [0]).advanced 0 (probeCmd probeVec 1) = true := by decide +kernel

def keyD : Desc := descOf keyDesc
/-- A bundle of one query in slot 0. -/
def aBundle : Bundle := ⟨0, none, some ⟨0, 5⟩, 0, 2, 0, 1, 0, 0, 0, 1, 0, 32, 4, false, 0, false, 32, 0, 0x3F800000, keyD, keyD, 0, 1, 1, .active, 0, none, false,
  [⟨List.replicate 32 0, 0, 0⟩], [], [[]], [], [0], [], [], 0, 0, 0, [], [], [], [], [none], [], 0, true, [[]], [], [none], none, 0⟩
def withBundle (b : Bundle) : State :=
  let s := (probeQ (probeRaw 2) 0).kPut 0 ⟨false, 0, none, .head 0⟩
  { s with strain := { s.strain with bundles := [b] } }
def anOp (k : OpKind) (child : BitVec 24) : ProbeOp := ⟨0, 1, k, child, 1, 0⟩
def opPack (k : OpKind) (child : BitVec 24) : Pack := ⟨0, 0x400, [⟨.op (anOp k child), 0, 0x400, 0, 0⟩]⟩
/-- A bundle whose operation is in the queue of TU 2. -/
def operating (k : OpKind) (child : BitVec 24) : State :=
  let s := withBundle { aBundle with inflight := [anOp k child], frontier := [⟨child, 1, false, 0, 1, 0x3F800000, some 1, none, false⟩] }
  { s with arr := { s.arr with tus := s.arr.tus.set 2 ⟨[opPack k child], [], [], up.caddyGens⟩ } }
theorem witness_bound : let s := (operating .bound 0).at 9
    let s2 := s.tuTake 2 (opPack .bound 0)
    (s.tuPlace 2).isSome = true ∧ s.tuNext 2 [2] = some (opPack .bound 0)
    ∧ someAnd (s2.bundle? 0) (fun b => (b.frontier.find? (fun e => e.busy == some 1)).isSome
      && (s2.residentRun b.part (b.desc.base + 640 * childIdx 0) 640 (s2.itemCtx (.op (anOp .bound 0)) 2)).1
      && okAnd (s2.projected b) (fun pr => pr.length == 1) && okAnd (s2.vnum b.part (b.desc.base + 640 * childIdx 0) 640) (fun _ => true)) = true := by
  decide +kernel
theorem witness_score : let s := (operating .score 0).at 9
    let s2 := s.tuTake 2 (opPack .score 0)
    s.tuNext 2 [3] = some (opPack .score 0)
    ∧ someAnd (s2.bundle? 0) (fun b =>
      let row := b.desc.dim * (elemBytes b.desc.kfmt).getD 1
      (s2.residentRun b.part (b.desc.leafVa 0) (32 * row) (s2.itemCtx (.op (anOp .score 0)) 2)).1
      && (s2.residentRun b.part b.desc.scaleAddr 32 (s2.itemCtx (.op (anOp .score 0)) 2)).1
      && okAnd (s2.vnum b.part (b.desc.leafVa 0) (32 * row)) (fun _ => true) && okAnd (s2.vnum b.part b.desc.scaleAddr 32) (fun _ => true)) = true := by
  decide +kernel
theorem witness_bound_return : let b := { aBundle with boundRes := [⟨1, [], false, false⟩] }
    ((withBundle b).at 9).bundle? 0 = some b ∧ ((withBundle b).at 9).works 0 = true ∧ b.state ≠ .done := by decide +kernel
theorem witness_heap_merge : let b := { aBundle with scoreRes := [⟨1, [(0, ⟨7, 0x3F800000, 0, 0⟩)], 0, false, 1, false⟩] }
    ((withBundle b).at 9).bundle? 0 = some b ∧ b.state ≠ .done := by decide +kernel
theorem test_heap_merge : someAnd (((withBundle { aBundle with scoreRes := [⟨1, [(0, ⟨7, 0x3F800000, 0, 0⟩)], 0, false, 1, false⟩] }).takeScore 0).bundle? 0)
    (fun b => b.heaps == [[⟨7, 0x3F800000, 0, 0⟩]] && b.scoreRes.isEmpty) = true := by decide +kernel
def reducing : Bundle := { aBundle with state := .reducing, chunks := [[3]], xlists := [[(3, 0x3F800000)]], outs := [none] }
theorem witness_reduce : let s := (withBundle reducing).at 9
    s.bundle? 0 = some reducing ∧ s.works 0 = true ∧ reducing.ops < s.waveMax 0
    ∧ reducing.chunks.find? (fun c => !reducing.parkedOps.any (fun o => o.child.toNat == c.headD 0)) = some [3]
    ∧ okAnd (s.valueRows reducing [3]) (fun l => l.length == 1) = true := by decide +kernel
def merging : Bundle := { reducing with triples := [(0, ⟨0, 0, []⟩)] }
theorem witness_merge : let s := (withBundle merging).at 9
    s.bundle? 0 = some merging ∧ merging.triples.find? (fun t => decide (t.1 = 0)) = some (0, ⟨0, 0, []⟩) ∧ 0 < merging.accs.length
    ∧ someAnd ((s.mergeOne merging 0 ⟨0, 0, []⟩).bundle? 0) (fun y => (s.mergeOne merging 0 ⟨0, 0, []⟩).owing y 0) = true
    ∧ merging.accs.getD 0 none = none := by decide +kernel
def mergingOn : Bundle := { merging with accs := [some ⟨0, 0, []⟩] }
theorem witness_merge_on : let s := (withBundle mergingOn).at 9
    s.bundle? 0 = some mergingOn ∧ mergingOn.accs.getD 0 none = some ⟨0, 0, []⟩
    ∧ someAnd ((s.mergeOne mergingOn 0 ⟨0, 0, []⟩).bundle? 0) (fun y => (s.mergeOne mergingOn 0 ⟨0, 0, []⟩).owing y 0) = true := by decide +kernel

/-! ## Sessions -/

def inState (st : BitVec 3) : State := withSess up { upSess with state := st }
theorem witness_session_states : ∀ st : Fin 8, (inState (BitVec.ofFin st)).hears 3 = true ∧ ((inState (BitVec.ofFin st)).sess 3).state = BitVec.ofFin st := by
  decide +kernel
theorem witness_hello : up.helloOk 3 7 = true ∧ (withSess up { upSess with expected := some 8 }).helloOk 3 7 = false := by decide +kernel
theorem witness_adv : advOk ⟨1, 1, 0xF, 64, 32, 0, noCredits, 18432⟩ = true ∧ advOk ⟨2, 2, 0xF, 64, 32, 0, noCredits, 18432⟩ = false := by decide +kernel
theorem witness_credit_session : (inState ssCredit).hasCmd 3 true = false := by decide +kernel
theorem witness_drain_session : upSess.doneSeen = false ∧ (inState ssDrain).drained 3 = true ∧ (inState ssDrain).hasCmd 3 false = false
    ∧ (withForeign (inState ssDrain) (aForeign 0)).drained 3 = false ∧ ((inState ssDrain).sess 3).doneSent = false := by decide +kernel
theorem witness_session_timeout : let s := withTimer (inState ssListen) (.session 3)
    s.active = true ∧ training (s.sess 3).state = true ∧ s.timerFires (.session 3) 64 = true ∧ (s.sess 3).tries.toNat < ssRetries (s.sess 3).state
    ∧ ssRetries ssListen ≤ (10 : BitVec 5).toNat := by decide +kernel
theorem witness_forced_drain : let s := withTimer (inState ssDrain) (.session 3)
    s.active = true ∧ (s.sess 3).state = ssDrain ∧ s.timerFires (.session 3) 64 = true ∧ s.hasCmd 3 false = false := by decide +kernel
theorem witness_reopen : let s := withTimer up .reopen
    s.active = true ∧ s.timerFires .reopen 64 = true ∧ (∀ n, s.isRing n = true → (s.sess n).state = ssDown) := by decide +kernel

def waitingMsg : LinkId × MsgHdr × MsgBody := (3, ⟨1, 0, 0, 7, 0, 0⟩, .leaseExtend)
def queued (credit : Credits) : State := let s := withSess up { upSess with credit := credit }; { s with fwd := { s.fwd with waiting := [waitingMsg] } }
theorem witness_credit_return : (queued noCredits).carries 3 = true ∧ (queued noCredits).fwd.waiting = [waitingMsg]
    ∧ (creditCost 7 waitingMsg.2.1 waitingMsg.2.2).within (noCredits.add ⟨9, 9, 9, 9, 9⟩) = true ∧ (∀ w ∈ up.fwd.waiting, w.1 ≠ 3) := by decide +kernel
theorem witness_credit_short : let m : LinkId × MsgHdr × MsgBody := (3, ⟨1, 0, 0, 7, 0, 0⟩, .rayResult (resultPrefix 0 false 0 []) 0)
    (creditCost 7 m.2.1 m.2.2).within (noCredits.add noCredits) = false := by decide +kernel
theorem witness_keepalive : ∀ tm, tm = .keepTx 3 ∨ tm = .keepRx 3 ∨ tm = .creditRet 3 →
    let s := withTimer (withSess up { upSess with owed := ⟨1, 0, 0, 0, 0⟩ }) tm
    s.active = true ∧ s.timerFires tm 64 = true ∧ (s.sess 3).state = ssUp ∧ (s.sess 3).owed ≠ noCredits := by
  rintro tm (rfl | rfl | rfl) <;> decide +kernel

/-! ## Queries of other chips -/

/-- Chip 7 asks this chip, 1, about subtree 2. -/
def askHdr : MsgHdr := ⟨1, 2, 7, 1, 0, 0⟩
def sharded (kind : Nat) : List (Nat × Nat × Nat) := [(0, 1, kind), (1, 1, 1), (4, 4, 0), (8, 8, 0x20000), (16, 4, 2), (20, 4, 8), (24, 8, 0xA000), (32, 4, 4)]
  ++ (if kind = 3 then [(66, 2, 32)] else [])
/-- Session 3 is UP, and this chip owns subtree 2. -/
def owning (desc : List (Nat × Nat × Nat)) : State :=
  let s := withMem (withSess up upSess) 0x6000 (descBytes desc)
  { s with fwd := { s.fwd with table := [(2, ⟨none, 1⟩)] } }
theorem witness_query : let s := owning (sharded 2)
    s.carries 3 = true ∧ askHdr.dest = s.boot.chipId ∧ s.works s.hostPart = true ∧ s.namesSub askHdr.subtree.toNat = true
    ∧ up.namesSub askHdr.subtree.toNat = false
    ∧ ({ up with boot := { up.boot with state := stBooting } }.works up.hostPart = false) := by decide +kernel
def isFound (f : Found) (g : Desc → Nat → Bool) : Bool := match f with | .ok d r => g d r | _ => false
def rayBody : FwdRayBody := ⟨rayRaw, 0x6000, 200, ⟨2, 1⟩⟩
theorem witness_fwd_ray : let s := owning (sharded 2)
    someAnd (((s.at 9).arrived 3 askHdr).kTakeAll (env 9) s.hostPart true none [.ray (foreignRay rayBody s.sel (s.caddy s.sel).gen 0 0)]) (fun x => x.1.length == 1
      && isFound ((x.2.holdQuery ⟨x.1.headD 0, 3, askHdr, 200, 0, 1, none⟩).findSub 0x6000 2 2) (fun _ root => root != 0xFFFFFFFF)) = true := by decide +kernel
def headRaw : Slot64 := raw [(6, 1, 1), (8, 2, 32), (12, 4, 0x3F800000)]
def probeBody : FwdProbeBody := ⟨0x6000, 4, false, 0, false, ⟨2, 1⟩, 200, 1, List.replicate 32 0, [headRaw, 0, 0]⟩
theorem witness_fwd_probe : let s := owning (sharded 3)
    headSized headRaw = true ∧ slotsOfHead headRaw = 3 ∧ s.badHead s.sel s.hostPart 32 headRaw = false
    ∧ someAnd (((s.at 9).arrived 3 askHdr).kTakeAll (env 9) s.hostPart true none [.head headRaw, .body 0, .body 0]) (fun x => x.1.length == 3
      && isFound ((x.2.holdQuery ⟨x.1.headD 0, 3, askHdr, 200, 1, 3, none⟩).findSub 0x6000 3 2) (fun d _ => d.dim == 32 && s.fmtOn s.sel s.hostPart d.kfmt)) = true := by
  decide +kernel
def valueDesc : List (Nat × Nat × Nat) := [(0, 1, 4), (1, 1, 1), (66, 2, 32), (68, 4, 0x3F800000)]
def reduceBody : ReduceReqBody := ⟨0x6000, 32, 1, ⟨2, 1⟩, 200, [[]]⟩
theorem witness_reduce_req : let s := owning valueDesc
    let ws := slotsOf 512 (reduceBytes reduceBody)
    someAnd (((s.at 9).arrived 3 askHdr).kTakeAll (env 9) s.hostPart true none ((.head (ws.headD 0)) :: (ws.drop 1).map KData.body)) (fun x => !x.1.isEmpty
      && okAnd (s.vdesc s.hostPart 0x6000) (fun v => decide (v.usable 4 = .ok) && v.dim == 32 && s.fmtOn s.sel s.hostPart v.kfmt)) = true := by decide +kernel
theorem witness_lease_extend_timer : let s := withTimer (withForeign (withSess up upSess) (aForeign 0)) (.leaseExt 0)
    s.active = true ∧ s.timerFires (.leaseExt 0) 64 = true ∧ s.foreign? 0 = some (aForeign 0)
    ∧ (s.fire (.leaseExt 0) 64).canSend ((s.fire (.leaseExt 0) 64).backLink (aForeign 0)) (s.hdr 1 0 7) .leaseExtend = true := by decide +kernel
theorem test_cancel : next (.cancel 3 ⟨1, 0, 7, 1, 0, 0⟩ 9) (withForeign (withSess up upSess) (aForeign 0)) (fun t => t.fwd.foreign.isEmpty) = true := by decide +kernel

/-! ## Results -/

def aLeash (kind : BitVec 2) (id : W32) : Leash := ⟨id, 2, kind, 0, 7, 3, 0, false, 0, 0, 0, 0, true, true, .cancel⟩
/-- The result of the query with the ID of slot 0. -/
def backHdr : MsgHdr := ⟨up.kId 0, 2, 7, 1, 0, 0⟩
/-- The ray waits under the Leash in slot 1. -/
def awaiting : State :=
  ((withSess (withRay { aRay with leash := some 1, wait := .remote 0 1, rstate := .forwarded }) upSess).kPut 1 ⟨false, 0, none, .leash (aLeash 0 (up.kId 0))⟩)
theorem witness_ray_result : awaiting.carries 3 = true ∧ backHdr.dest = awaiting.boot.chipId
    ∧ (((awaiting.at 9).arrived 3 backHdr).oweResult 3 (.rayResult (resultPrefix 0 false 0 []) 0)).liveLeash backHdr 0 (fun _ => true)
      = some (1, aLeash 0 (up.kId 0))
    ∧ (((up.at 9).arrived 3 backHdr).oweResult 3 (.rayResult (resultPrefix 0 false 0 []) 0)).liveLeash backHdr 0 (fun _ => true) = none := by decide +kernel
/-- The bundle waits under the Leash in slot 1. -/
def bundleAwaits (kind : BitVec 2) : State := (withSess (withBundle { aBundle with leashes := [1] }) upSess).kPut 1 ⟨false, 0, none, .leash { aLeash kind (up.kId 0) with body := .cancel }⟩
theorem witness_probe_result : (bundleAwaits 1).bundle? 0 = some { aBundle with leashes := [1] }
    ∧ ((((bundleAwaits 1).at 9).arrived 3 backHdr).oweResult 3 (.probeResult (resultPrefix 0 false 0 []) false [])).liveLeash backHdr 1 (fun _ => true)
      = some (1, aLeash 1 (up.kId 0)) := by decide +kernel
theorem witness_reduce_result : ((((bundleAwaits 2).at 9).arrived 3 backHdr).oweResult 3 (.reduceResult (resultPrefix 0 false 0 []) [])).liveLeash backHdr 2
    (fun x => ([] : List (Fin 32 × Triple)).all (fun t => x.carries t.1.val)) = some (1, aLeash 2 (up.kId 0)) := by decide +kernel
theorem witness_lease_extend : awaiting.kId 0 = backHdr.queryId ∧ awaiting.extended backHdr = [1] ∧ awaiting.leash? 1 = some (aLeash 0 (up.kId 0))
    ∧ (0 : Nat) < (awaiting.part 0).extendMax.force.toNat := by decide +kernel
theorem witness_lease_deadline : let s := withTimer awaiting (.lease 1)
    s.works (s.kPart 1) = true ∧ s.timerFires (.lease 1) 64 = true ∧ s.leash? 1 = some (aLeash 0 (up.kId 0)) ∧ (aLeash 0 (up.kId 0)).live = true := by
  decide +kernel

/-! ## Queries and messages go on -/

/-- The ray's child is subtree 2, owned by `chip`, to which link 3 leads; slot 1 holds its Leash. -/
def goingOn (chip : ChipId) : State :=
  let s := (withSess (withRay { aRay with leash := some 1, wait := .forward 0 2 }) upSess).kPut 1 ⟨false, 0, none, .leash { aLeash 0 0 with live := false }⟩
  withMem { s with fwd := { s.fwd with table := [(2, ⟨none, chip⟩)], routeBase := .both 1 }, boot := { s.boot with chipId := 1 } } (2 ^ 20 + 7) [3]
theorem witness_forward : let s := withSess (goingOn 7) { upSess with ops := 0xF }
    s.works (s.kPart 0) = true ∧ s.forwardParked 0 = false ∧ (s.at 9).target 1 2 none none = .send 7 3
    ∧ (s.ray? 0).map (fun r => failedFor (r.leash.bind s.leash?) 2) = some none
    ∧ (s.ray? 0).map (fun r => s.canSend 3 (s.hdr (s.kId 0) 2 7) (s.rayMsg 0 r)) = some true
    ∧ (goingOn 1).target 1 2 none none = .here ∧ (goingOn 9).target 1 2 none none = .fail := by decide +kernel
theorem witness_forward_bundle : let s := withBundle aBundle
    s.ray? 0 = none ∧ s.bundle? 0 = some aBundle ∧ s.works 0 = true ∧ s.forwardParked 0 = false ∧ aBundle.placed = true := by decide +kernel
/-- The bundle has picked the child of subtree 2 for forwarding. -/
theorem witness_forward_sub : let b : Bundle := { aBundle with frontier := [⟨2, 1, true, 0, 1, 0x3F800000, none, none, true⟩] }
    ((withBundle b).forwardSub 0).isSome = true := by decide +kernel
def relayHdr (hops : BitVec 6) : MsgHdr := ⟨1, 2, 5, 7, 0, hops⟩
theorem witness_relay : let s := withSess (goingOn 7) { upSess with ops := 0xF }
    let s1 := ((s.at 9).arrived 3 (relayHdr 0)).owe 3 noCredits
    s.carries 3 = true ∧ knownType .leaseExtend = true ∧ (relayHdr 0).dest ≠ s.boot.chipId ∧ s1.route 0 7 = .link 3
    ∧ s1.canSend 3 (relayHdr 1) .leaseExtend = true ∧ (withSess up upSess).route 0 7 = .none := by decide +kernel

/-! ## Owner tables -/

/-- A ring message of chip 7, with its hop count. -/
def ringHdr (src : ChipId) (hops : Nat) : MsgHdr := ⟨BitVec.ofNat 32 (hops + 8192 * 5), 0, src, 0, 0, 0⟩
def ringUp : State := { withSess up upSess with cfg := { up.cfg with ringDown := 3 } }
theorem witness_ring : ringUp.carries 3 = true ∧ (ringHdr 7 0).src ≠ ringUp.boot.chipId ∧ orphan (ringHdr 7 0) = false ∧ orphan (ringHdr 7 4096) = true
    ∧ ringUp.fwd.staging = none ∧ ringUp.fwd.publish = none ∧ ringUp.fwd.epoch.get.toNat < (9 : W32).toNat ∧ ringUp.cfg.ringDown.toNat = 3
    ∧ (((ringUp.at 9).arrived 3 (ringHdr 7 0)).oweRing 3).canSend 3 (ringHdr 7 1) (.ownerEntries 9 1 [0]) = true := by decide +kernel
def staged : State := { ringUp with fwd := { ringUp.fwd with staging := some ⟨9, 1, [(0, 0)]⟩ } }
theorem witness_commit : staged.carries 3 = true ∧ staged.fwd.staging = some ⟨9, [((0 : Nat), (0 : W64))].length, [(0, 0)]⟩ ∧ staged.fwd.epoch.get.toNat < (9 : W32).toNat := by
  decide +kernel
/-- This chip's own message, number 5, returns. -/
def publishing (commit : Bool) : State :=
  let s := withQ ringUp 16 (mkQueue [mkCmd 5 publishRaw .running])
  { s with fwd := { s.fwd with ring := [⟨5, 0, ringHdr 1 0, .ownerEntries 9 1 [0]⟩], publish := some ⟨⟨16, 5⟩, 9, 1, commit⟩ } }
theorem witness_returned : (publishing false).carries 3 = true ∧ (ringHdr 1 0).src = (publishing false).boot.chipId
    ∧ (publishing false).fwd.ring.any (fun m => decide (m.seq % 2 ^ 19 = ringSeqOf (ringHdr 1 0))) = true
    ∧ (publishing false).fwd.ring.filter (fun m => !decide (m.seq % 2 ^ 19 = ringSeqOf (ringHdr 1 0))) = []
    ∧ (∃ c ∈ ((publishing true).queue 16).cmds, c.seq = 5) := by decide +kernel
theorem witness_ring_timeout : let s := withTimer (publishing false) (.ring 5)
    s.active = true ∧ s.timerFires (.ring 5) 64 = true ∧ (s.fwd.ring.find? (fun m => m.seq == 5)).map (·.tries) = some 0
    ∧ 0 < s.fwd.ringRetry.force.toNat ∧ s.fwd.ringRetry.force.toNat ≤ 3 := by decide +kernel
theorem witness_reload : up.takesGlobal .mgmt ∧ up.inStep10 = false ∧ fldN (0x900000001 : W64) 0 17 ≤ 65536
    ∧ up.fwd.epoch.get.toNat < (fld (0x900000001 : W64) 32 32).toNat ∧ up.fwd.reloading = false
    ∧ ∃ bs, up.vread up.hostPart (up.fwd.ownBase.get.toNat * 64) 8 = .ok bs ∧ (!(words64 1 bs).any ownBad) = true :=
  ⟨takesGlobal_mgmt (by decide +kernel) (by decide +kernel), by decide +kernel, by decide +kernel, by decide +kernel, by decide +kernel, ok_of (by decide +kernel)⟩
def step10 (epoch : W32) : State := { up with boot := { up.boot with state := stBooting, step := 10 }, fwd := { up.fwd with nextEpoch := epoch, ownEntries := 1 } }
theorem witness_table_fetch : (step10 9).live = true ∧ (step10 9).inStep10 = true ∧ (step10 9).boot.stall = 0 ∧ ((step10 9).part (step10 9).hostPart).mmuEnable.force = true
    ∧ (step10 0).fwd.nextEpoch = 0 ∧ (step10 9).fwd.epoch.get.toNat < (step10 9).fwd.nextEpoch.toNat
    ∧ ∃ bs, (step10 9).vread (step10 9).hostPart ((step10 9).fwd.ownBase.get.toNat * 64) 8 = .ok bs ∧ (!(words64 1 bs).any ownBad) = true :=
  ⟨by decide +kernel, by decide +kernel, by decide +kernel, by decide +kernel, by decide +kernel, by decide +kernel, ok_of (by decide +kernel)⟩

/-! ## Deadlines -/

/-- A reference frame of 1 x 1 pixels, M at 8000 and the frame at 9000 (hex). -/
def refDesc : Desc := descOf [(0, 2, 1), (2, 2, 1), (4, 1, 1), (56, 8, 0x8000), (64, 8, 0x9000)]
/-- Partition 0 with its deadline in a state, and a reference frame. -/
def withDeadline (st : BitVec 3) : State :=
  up.updPart 0 (fun x => { x with deadline := { x.deadline with state := st }, fireIrq := true, reprojIrq := true, refFrame := some refDesc })
def isBad {α : Type} (a : Acc α) : Bool := match a with | .bad _ => true | _ => false
theorem witness_preempt : let s := withTimer (withDeadline dlArmed) (.preempt 0)
    s.ready = true ∧ s.timerFires (.preempt 0) 64 = true ∧ (s.part 0).deadline.state = dlArmed
    ∧ (withTimer up (.preempt 0)).timerFires (.preempt 0) 64 = true ∧ (up.part 0).deadline.state ≠ dlArmed := by decide +kernel
/-- The decision time of an armed and of a firing deadline, with and without the TUs, the frame and its matrix; and of a deadline that is neither. -/
theorem witness_decision : ∀ st : BitVec 3, st = dlArmed ∨ st = dlFiring ∨ st = dlLate →
    let s := withTimer (withDeadline st) (.decision 0)
    let f := s.fire (.decision 0) 64
    s.ready = true ∧ s.timerFires (.decision 0) 64 = true ∧ (s.part 0).deadline.state = st ∧ (s.part 0).reproj = none ∧ 64 ≤ s.servedTus 0
    ∧ (s.part 0).refFrame = some refDesc ∧ okAnd (f.vnum 0 refDesc.reprojM 64) (fun _ => true) = true
    ∧ isBad (({ f with mmu := ⟨[], [], []⟩ } : State).vnum 0 refDesc.reprojM 64) = true
    ∧ ({ s with cfg := { s.cfg with caddies := Cfg.reset.caddies } }.servedTus 0) < 64 ∧ (up.part 0).refFrame = none := by
  rintro st (rfl | rfl | rfl) <;> decide +kernel
/-- A re-projection under way. -/
def reprojecting (st : BitVec 3) : State := (withDeadline st).updPart 0 (fun x => { x with reproj := some (refDesc, List.replicate 16 0, []) })
theorem witness_reprojection : ∀ st : BitVec 3, st = dlReproj ∨ st = dlArmed → let s := reprojecting st
    (s.part 0).reproj = some (refDesc, List.replicate 16 0, []) ∧ (s.part 0).deadline.state = st ∧ s.works 0 = true ∧ s.tile? 0 3 = none
    ∧ okAnd ((s.at 9).reprojWrites 0 refDesc (List.replicate 16 0) []) (fun l => l.length == 1 && okAnd ((s.at 9).vwriteAll 0 l) (fun _ => true)) = true := by
  rintro st (rfl | rfl) <;> decide +kernel
theorem witness_reprojection_denied :
    isBad ((({ reprojecting dlReproj with mmu := ⟨[], [], []⟩ } : State).at 9).reprojWrites 0 refDesc (List.replicate 16 0) []) = true := by decide +kernel

/-! ## Tiles -/

def tileRaw : Slot64 := raw [(0, 1, 0x20), (8, 8, 0x8000), (16, 4, 0), (24, 8, 0x5000), (36, 2, 1), (38, 2, 1)]
def splatting (v : Pass) : State := let s := withQ up 32 (mkQueue [mkCmd 5 tileRaw .running]); { s with vis := { s.vis with passes := [v] } }
def todoPass : Pass := { aPass .finally_ with todo := [0] }
theorem witness_tile_load : let s := splatting todoPass
    s.tilePasses.findSome? (fun v => (s.tileSlot 4 v.cls).map (fun k => (v, k))) = some (todoPass, 0) ∧ s.cmd? ⟨32, 5⟩ = some (mkCmd 5 tileRaw .running)
    ∧ s.pass? ⟨32, 5⟩ = some todoPass ∧ (∀ j, s.tile? 4 j = none) ∧ spProg tileRaw = false ∧ s.residents = []
    ∧ okAnd ((s.at 9).startTile todoPass (tileEnv todoPass (mkCmd 5 tileRaw .running)).tri 0) (fun px =>
        okAnd ((s.at 9).fixedTile todoPass tileRaw (tileEnv todoPass (mkCmd 5 tileRaw .running)) (binOrder (todoPass.bin 0))
          ⟨⟨s.fresh, ⟨32, 5⟩, 0, 2, 0, [], px, 0, true, List.replicate 64 0, [], 0⟩, [], 0⟩) (fun w => w.invs.isEmpty)) = true := by decide +kernel
theorem witness_tile_load_program : spProg (tileRaw ||| raw [(40, 1, 1)]) = true ∧ todoPass.bin 0 = [] := by decide +kernel
def aTile (n : Nat) : Tile := ⟨0, ⟨32, 5⟩, 0, 2, 0, List.replicate n (0, 0), Vector.replicate 256 (Pixel.clear 0), 0, true, [0], [], 0⟩
/-- Slot 3 of every tile unit is taken: a re-projection waits. -/
theorem witness_reprojection_waits : let s := reprojecting dlReproj
    let full : State := { s with vis := { s.vis with units := Vector.replicate 64 (Vector.replicate 4 (some (aTile 0))) } }
    ∀ unit : Fin 64, full.tile? unit 3 ≠ none := by
  intro s full unit h
  have : full.tile? unit 3 = some (aTile 0) := by
    show ((Vector.replicate 64 (Vector.replicate 4 (some (aTile 0))))[unit])[(3 : Fin 4)] = some (aTile 0)
    simp
  rw [this] at h
  cases h
/-- A pass whose target has a status area. -/
def statusPass : Pass := { aPass .finally_ with target := descOf [(40, 8, 0x7000)] }
def tiled (n : Nat) : State := (splatting statusPass).setTile 4 1 (some (aTile n))
theorem witness_tile_resolve : (tiled 0).tile? 4 1 = some (aTile 0) ∧ (tiled 0).pass? ⟨32, 5⟩ = some statusPass ∧ (tiled 0).cmd? ⟨32, 5⟩ = some (mkCmd 5 tileRaw .running)
    ∧ (tiled 0).works 0 = true ∧ (aTile 0).done = true ∧ (aTile 1).done = false
    ∧ okAnd (((tiled 0).at 9).vwriteAll 0 (resolveWrites statusPass (mkCmd 5 tileRaw .running) (aTile 0)).1) (fun _ => true) = true
    ∧ isBad ((({ tiled 0 with mmu := ⟨[], [], []⟩ } : State).at 9).vwriteAll 0 (resolveWrites statusPass (mkCmd 5 tileRaw .running) (aTile 0)).1) = true := by
  decide +kernel
/-- A pass waits for parking, or the summary copies of partition 0's target do. -/
def asking (size : Option (Nat × Nat)) : State :=
  let s := splatting (aPass .waiting)
  { s with vis := { s.vis with parkWait := [⟨⟨32, 5⟩, 0, 2, size⟩] } }
theorem witness_park_grant : let s := asking none
    s.nextPark = some ⟨⟨32, 5⟩, 0, 2, none⟩ ∧ s.pass? ⟨32, 5⟩ = some (aPass .waiting) ∧ 1 ≤ s.parkMax 0 ∧ 1 ≤ s.parkFree ∧ s.works 0 = true
    ∧ up.nextPark = none ∧ s.parkMax 0 < 5000 := by decide +kernel
theorem witness_park_summary : (asking (some (16, 16))).nextPark = some ⟨⟨32, 5⟩, 0, 2, some (16, 16)⟩ ∧ (asking (some (16, 16))).works 0 = true
    ∧ summaryNeed 16 16 ≤ (asking (some (16, 16))).parkFree ∧ (asking (some (16384, 16384))).parkFree < summaryNeed 16384 16384 := by decide +kernel

/-! ## Groups -/

/-- A program that may use everything. -/
def fullProg : Prog := { aProg 3 with usesTex := true, usesScorer := true, vregs := 32, sregs := 16, addr := 0x5000, codeOff := 64, codeBytes := 1024 }
/-- A call group of four lanes, running in slot 2 of core 1. -/
def aGroup : Group :=
  { newGroup 0 2 0 1 1 fullProg 3 (.call 2 3 0 []) none 0 0xF with state := .running, block := 8, vregs := [(0, Vector.replicate 32 0x8000), (1, Vector.replicate 32 0)] }
def gRef : GroupRef := ⟨1, 2⟩
def withGroup (x : Group) : State :=
  let s := up.setGroup gRef (some x)
  s.setCore 1 { s.core 1 with blocks := [⟨8, 8, 0, 1, 0, 1024, 1, fullProg, [0], []⟩] }
theorem fetches_of {s : State} {g : GroupRef} {x : Group} (h1 : s.issuing g = some x) (h2 : okAnd (s.translate x.part .exec x.codeVa) (fun _ => true) = true) :
    s.fetches g x := ⟨h1, (ok_of h2).imp (fun _ h => h.1)⟩
theorem witness_group : (withGroup aGroup).fetches gRef aGroup ∧ ((withGroup aGroup).at 9).fetches gRef aGroup :=
  ⟨fetches_of (by decide +kernel) (by decide +kernel), fetches_of (by decide +kernel) (by decide +kernel)⟩

def callHdr : Slot64 := raw [(0, 1, 3), (1, 1, 4)]
def bound : State := up.updPart 0 (fun x => { x with progs := [(3, fullProg)] })
theorem witness_call : bound.portOwner 2 = some 0 ∧ bit bound.pins.portMap 2 = true ∧ bound.works 0 = true ∧ assocGet (rb callHdr 0 1) (bound.part 0).progs = some fullProg
    ∧ fullProg.role = 3 ∧ rb callHdr 1 1 = 4 ∧ rb callHdr 8 56 = 0 ∧ bound.setter.calls = [] ∧ fullProg.groups * fullProg.cluster = 1
    ∧ bound.hasCredit 2 .vector 9 = true ∧ { bound with pins := { bound.pins with portWords := 0 } }.hasCredit 2 .vector 9 = false
    ∧ (leastBy (fun c => bound.coreLoad (coreNo (c.val + 0))) ((bound.coreSets 0 bound.sel fullProg.cluster).filter (fun c => decide (bound.queued c < 8)))).isSome = true
    ∧ assocGet (rb callHdr 0 1) (up.part 0).progs = none := by decide +kernel
def waitingGroup : Group := newGroup 0 2 0 1 1 fullProg 3 (.call 2 3 0 []) none 0 0xF
def launching : State := up.setCore 1 { up.core 1 with queue := [⟨[waitingGroup], 1⟩] }
theorem witness_launch : launching.nextLaunch 1 = some ⟨[waitingGroup], 1⟩ ∧ waitingGroup.prog.groups = 1 ∧ launching.setter.calls = []
    ∧ (∀ w ∈ (launching.core 1).queue, launching.firing w.part = false ∨ w.cls ≠ 0 ∨ (launching.part w.part).saveBase.force = 0) ∧ up.nextLaunch 1 = none := by
  decide +kernel
theorem witness_exit : Group.over { aGroup with exited := aGroup.exited ||| aGroup.active } = true ∧ aGroup.stores = 0
    ∧ Group.over { aGroup with active := 1, exited := 0 ||| 1 } = false ∧ ((withGroup { aGroup with active := 1 }).issuing gRef).isSome = true
    ∧ ((withGroup { aGroup with stores := 1 }).issuing gRef).isSome = true := by decide +kernel
/-- A triangle tile whose wait buffer has no room for what the group of block 0 at position 0 returns, whatever its room is. -/
def stuckTile : Tile := { aTile 1 with frags := List.replicate (Config.waitRoom + 1) ⟨0, 0, 1, 0, none⟩ }
def stuckEnv : TileEnv := ⟨0, true, .sat, 0⟩
theorem stuck_quad (t : Tile) (q n : Nat) (h1 : t.list.length = 1) (_h2 : t.nexts.getD q 0 = 0) (h3 : t.issued = 0) :
    retireQuad stuckEnv q n ⟨t, [], 0⟩ = ⟨t, [], 0⟩ := by
  cases n with
  | zero => rfl
  | succ n => simp [retireQuad, stuckEnv, h1, h3]
theorem stuck_tile (rs : List (Nat × List W32)) : stuckTile.accepts stuckEnv 0 0 rs = false := by
  let f1 : Frag := ⟨0, 0, 1, 0, some rs⟩
  let t1 : Tile := { aTile 1 with frags := List.replicate (Config.waitRoom + 1) f1 }
  have hn : ∀ q, t1.nexts.getD q 0 = 0 := by
    intro q
    show [0].getD q 0 = 0
    cases q <;> simp
  have hfold : ∀ l : List Nat, l.foldl (fun w q => retireQuad stuckEnv q (t1.list.length + 1) w) ⟨t1, [], 0⟩ = ⟨t1, [], 0⟩ := by
    intro l
    induction l with
    | nil => rfl
    | cons q l ih =>
      rw [List.foldl_cons, stuck_quad t1 q _ rfl (hn q) rfl]
      exact ih
  have hk : (List.range 64).any (fun q => decide (blockOf ((quadPixels q).headD 0) = f1.block) && decide (t1.nexts.getD q 0 ≤ f1.pos)) = true := by
    simp only [hn]
    show (List.range 64).any (fun q => decide (blockOf ((quadPixels q).headD 0) = 0) && decide (0 ≤ 0)) = true
    decide +kernel
  have hw : (stuckTile.withResult stuckEnv 0 0 rs).tile.frags = List.replicate (Config.waitRoom + 1) f1 := by
    have h0 : { stuckTile with frags := stuckTile.frags.map (fun f => if f.pos = 0 && f.block = 0 then { f with result := some rs } else f) } = t1 := by
      simp [stuckTile, t1, f1]
    rw [Tile.withResult, h0, retireTile, hfold]
    exact List.filter_replicate_of_pos hk
  have hu : (stuckTile.withResult stuckEnv 0 0 rs).tile.unretired f1 = 1 := by
    have h0 : { stuckTile with frags := stuckTile.frags.map (fun f => if f.pos = 0 && f.block = 0 then { f with result := some rs } else f) } = t1 := by
      simp [stuckTile, t1, f1]
    rw [Tile.withResult, h0, retireTile, hfold]
    show ((bitsOf (1 : W32) 32).filter (fun l => decide (([0] : List Nat).getD (quadOf (lanePixel 0 l)) 0 ≤ 0))).length = 1
    decide +kernel
  rw [Tile.accepts]
  generalize (stuckTile.withResult stuckEnv 0 0 rs).tile = w at hw hu ⊢
  have hg : w.waiting = Config.waitRoom + 1 := by
    rw [Tile.waiting, hw, List.filter_replicate_of_pos rfl, List.map_replicate, List.sum_replicate, hu, smul_eq_mul, Nat.mul_one]
  rw [hw, hg, List.filter_replicate_of_pos rfl]
  show ((List.replicate (Config.waitRoom + 1) f1).all (fun f => w.unretired f == 0) || decide (Config.waitRoom + 1 ≤ Config.waitRoom)) = false
  rw [decide_eq_false (Nat.not_succ_le_self _), Bool.or_false, List.replicate_succ, List.all_cons, hu]
  rfl
/-- The fragment group that worked for that tile. -/
def stuckGroup : Group := { aGroup with work := .frag 4 1 0 0 0, cmd := some ⟨32, 5⟩ }
def stuckRaw : Slot64 := tileRaw ||| raw [(40, 1, 2)]
def stuckState : State :=
  let s := withQ (withGroup stuckGroup) 32 (mkQueue [mkCmd 5 stuckRaw .running])
  ({ s with vis := { s.vis with passes := [aPass .finally_] } }).setTile 4 1 (some stuckTile)
theorem witness_exit_waits : stuckState.issuing gRef = some stuckGroup ∧ stuckGroup.stores = 0
    ∧ stuckState.fragTile 4 1 (some ⟨32, 5⟩) 0 = some (stuckTile, aPass .finally_, mkCmd 5 stuckRaw .running)
    ∧ tileEnv (aPass .finally_) (mkCmd 5 stuckRaw .running) = stuckEnv ∧ ∀ x : Group, x.work = stuckGroup.work → x.cmd = stuckGroup.cmd →
      stuckState.acceptable x = false := by
  have h : stuckState.fragTile 4 1 (some ⟨32, 5⟩) 0 = some (stuckTile, aPass .finally_, mkCmd 5 stuckRaw .running) := rfl
  have he : tileEnv (aPass .finally_) (mkCmd 5 stuckRaw .running) = stuckEnv := by decide +kernel
  refine ⟨by decide +kernel, rfl, h, he, fun x hw hc => ?_⟩
  rw [State.acceptable, hw, hc, show stuckGroup.work = .frag 4 1 0 0 0 from rfl, show stuckGroup.cmd = some ⟨32, 5⟩ from rfl]
  simp only [h, he]
  exact stuck_tile _
theorem witness_brk : ((withGroup aGroup).updPart 0 (fun x => { x with autoEnd := false })).issuing gRef = some aGroup
    ∧ ((withGroup aGroup).openOf 0).length < 64 := by decide +kernel
theorem test_brk : next (.brk gRef 9 .ok) ((withGroup aGroup).updPart 0 (fun x => { x with autoEnd := false }))
    (fun t => someAnd (t.group? gRef) (fun x => decide (x.state = .trapped) && x.trap == 9)) = true := by decide +kernel
theorem witness_barriers : aGroup.active = aGroup.launch &&& ~~~aGroup.exited ∧ ({ aGroup with active := 1 } : Group).active ≠ aGroup.launch &&& ~~~aGroup.exited
    ∧ (withGroup { aGroup with active := 1 }).issuing gRef = some { aGroup with active := 1 }
    ∧ (withGroup { aGroup with active := 1, bars := [⟨0, 1⟩] }).issuing gRef = some { aGroup with active := 1, bars := [⟨0, 1⟩] }
    ∧ ([⟨0, 1⟩] : List BarRec).any (fun r => decide (r.bar = 0) && decide (r.absent &&& 1 ≠ 0)) = true := by decide +kernel
/-- The one group of its block passes its barrier at once (R297). -/
theorem test_bar : next (.bar gRef 0 9 .ok) (withGroup aGroup) (fun t => someAnd (t.group? gRef) (fun x => decide (x.state = .running) && x.pc == aGroup.pc + 8)) = true := by
  decide +kernel
def isCells (c : Cells) (f : List (Fin 32 × Cell) → Bool) : Bool := match c with | .ok l => f l | _ => false
theorem witness_memory : (Src.v 0).fits aGroup true = true ∧ vfits aGroup 4 8 = true ∧ ((withGroup aGroup).at 9).mem.wf = true
    ∧ (∀ k : AccKind, isCells (((withGroup aGroup).at 9).cells aGroup .global k 4 (.v 0)) (fun l => l.length == 4) = true)
    ∧ isCells (((withGroup { aGroup with active := 1 }).at 9).cells { aGroup with active := 1 } .global .atomic 4 (.v 0)) (fun l => l == [(0, .mem 0x8000)]) = true
    ∧ isCells (((withGroup aGroup).at 9).cells aGroup .loc .read 4 (.imm 8)) (fun l => l.length == 4) = true := by
  refine ⟨by decide +kernel, by decide +kernel, by decide +kernel, ?_, by decide +kernel, by decide +kernel⟩
  intro k
  cases k <;> decide +kernel
def isTrap (c : Cells) (n : Nat) : Bool := match c with | .trap m => m == n | _ => false
def isFault (c : Cells) : Bool := match c with | .fault _ => true | _ => false
/-- A misaligned address, one outside the block's local store, one that does not translate; and an operand that does not exist. -/
theorem witness_memory_stops : isTrap (((withGroup aGroup).at 9).cells aGroup .global .read 4 (.imm 1)) 3 = true
    ∧ isTrap (((withGroup aGroup).at 9).cells aGroup .loc .read 4 (.imm 0x10000)) 4 = true
    ∧ isFault (({ withGroup aGroup with mmu := ⟨[], [], []⟩ } : State).cells aGroup .global .write 4 (.v 0)) = true
    ∧ vfits aGroup 4 99 = false := by decide +kernel
theorem witness_lock : let x : Group := { aGroup with spin := some (2 ^ 21) }
    (1024 * (up.part 0).spinLimit.force.toNat ≠ 0) ∧ (aGroup.spinNow 0 0).getD 0 ≤ 1024 * (up.part 0).spinLimit.force.toNat
    ∧ 1024 * (up.part 0).spinLimit.force.toNat < (x.spinNow 0 0).getD 0 ∧ ((withGroup x).at 9).issuing gRef = some x := by decide +kernel
theorem witness_texture : aGroup.prog.usesTex = true ∧ 8 + 5 ≤ aGroup.prog.vregs ∧ (Src.imm 0x8000).fits aGroup true = true ∧ (Src.imm 0).fits aGroup false = true
    ∧ okAnd (((withGroup aGroup).at 9).samples 0 { State.groupCtx gRef aGroup with source := 7 } (fun _ => 0x8000) (fun _ => 0) (fun _ => 0) (fun _ _ => 0) aGroup.lanes)
      (fun r => r.1.length == 4) = true := by decide +kernel
theorem witness_no_texture : let x : Group := { aGroup with prog := { fullProg with usesTex := false } }
    (withGroup x).issuing gRef = some x ∧ x.prog.usesTex = false := by decide +kernel
theorem witness_arithmetic : operandsOk aGroup (.v 3) false [(.v 0, false), (.s 1, false), (.imm 5, false)] = true
    ∧ operandsOk aGroup (.v 99) false [(.v 0, false)] = false ∧ (Dst.v 3).fits aGroup false = true ∧ LaneOp.moves (.shuffleOff 1) = true ∧ LaneOp.moves .ballot = false
    ∧ aGroup.prog.usesScorer = true ∧ (withGroup aGroup).formatOn aGroup 0 = true ∧ 8 + 8 ≤ aGroup.prog.vregs := by decide +kernel
/-- The group waits for its scorer instruction (R281). -/
theorem witness_scorer : let x : Group := { aGroup with wait := .score 8 0 0 0 0, state := .waiting }
    (withGroup x).groupBy? x.block x.inBlock = some x ∧ x.stepping = false
    ∧ scorerFits { aGroup with prog := { fullProg with sregs := 64 } } 8 0 0 0 0 = true ∧ scorerFits aGroup 30 0 0 0 0 = false := by decide +kernel
/-- 0x8000 plus 5, and 32-bit saturation (R280). -/
theorem test_integer_add : next (.integer gRef .add .b32 false false (.v 3) (.v 0) (.imm 5) (.imm 0) .ok) (withGroup aGroup)
    (fun t => someAnd (t.group? gRef) (fun x => x.vreg 3 2 == 0x8005)) = true := by decide +kernel
theorem test_integer_sat : next (.integer gRef .add .b32 false true (.v 3) (.v 0) (.imm 0xFFFFFFFF) (.imm 0) .ok) (withGroup aGroup)
    (fun t => someAnd (t.group? gRef) (fun x => x.vreg 3 0 == 0xFFFFFFFF)) = true := by decide +kernel
/-- A group whose divergence stack holds 16 entries in hardware, `n` of the 4 that it may spill below them. -/
def spilling (n : Nat) : Group := { aGroup with prog := { fullProg with dspill := 4 }, dstack := List.replicate 16 (3, 0), spilled := n }
theorem witness_control : aGroup.prog.sregs ≤ 16 ∧ 4 < aGroup.prog.sregs ∧ aGroup.dstack.length < 16 ∧ aGroup.dstack = [] ∧ aGroup.spilled = 0
    ∧ (withGroup { aGroup with dstack := [(3, 0)] }).issuing gRef = some { aGroup with dstack := [(3, 0)] }
    ∧ (∀ n : Fin 5, (withGroup (spilling n.val)).issuing gRef = some (spilling n.val) ∧ (spilling n.val).dstack.getLast? = some (3, 0))
    ∧ (withGroup (spilling 1)).locNum 8 ((spilling 1).spillOff 0) 8 = stackWord (0, 0) := by decide +kernel
def gWord : W32 := 0x120000
theorem witness_group_commands : (withGroup aGroup).takesPage .mgmt 0 ∧ (⟨(fld gWord 20 4).toFin, (fld gWord 16 4).toFin⟩ : GroupRef) = gRef
    ∧ (withGroup aGroup).group? gRef = some aGroup ∧ up.group? gRef = none
    ∧ (∀ st : Fin 3, let g : GState := if st = 0 then .running else if st = 1 then .halted else .trapped
        (withGroup { aGroup with state := g }).group? gRef = some { aGroup with state := g })
    ∧ ∀ sp : Fin 4, ((withGroup aGroup).updPart 0 (fun x => { x with dbgSpace := BitVec.ofFin sp })).group? gRef = some aGroup :=
  ⟨takesPage_mgmt (by decide +kernel) (by decide +kernel) (by decide +kernel), by decide +kernel⟩
theorem test_halt : next (.halt .mgmt 0 gWord) (withGroup aGroup) (fun t => someAnd (t.group? gRef) (fun x => decide (x.state = .halted))) = true := by decide +kernel

/-! ## Groups saved -/

def savedGroup : Group := { aGroup with state := .saved, kept := .running }
def savedState : State :=
  let s := up.updPart 0 (fun x => { x with saveBase := .both 0x100 })
  { s with setter := { s.setter with saved := [(gRef, savedGroup)], savedBlocks := [(1, ⟨8, 8, 0, 1, 0, 1024, 1, fullProg, [0], []⟩)] } }
theorem witness_restore : savedState.setter.saved.find? (fun e => decide (e.1 = gRef) && savedState.restoreTurn e.2) = some (gRef, savedGroup)
    ∧ savedState.works 0 = true ∧ savedState.firing 0 = false ∧ savedState.restorable (savedState.setOf 8) = true
    ∧ savedState.savedOf (savedState.setOf 8) = [(gRef, savedGroup)]
    ∧ okAnd (savedState.vread 0 (savedState.recordVa 0 gRef) (2048 + 128 * savedGroup.prog.vregs)) (fun _ => true) = true := by decide +kernel
theorem witness_restore_none : ∀ e ∈ up.setter.saved, e.1 ≠ gRef := by decide +kernel

/-! ## Translation and faults -/

/-- A 1 GiB page at 2^40, through tables at 700000 (hex). -/
def walking : State :=
  let s := withMem (withMem (withMem (withGroup aGroup) 0x700000 (leBytes 8 0x701001)) 0x701010 (leBytes 8 0x702001)) 0x702000 (leBytes 8 0x40000007)
  s.updPart 0 (fun x => { x with mmuRoot := .both 0x700 })
theorem witness_walk : walking.works 0 = true ∧ (walking.part 0).mmuEnable.force = true ∧ walking.tlbHit 0 (2 ^ 40 + 4) = none
    ∧ walking.walk 0 .write (2 ^ 40 + 4) = .ok ⟨0, 2 ^ 40, 2 ^ 30, 2 ^ 30, true, false, 2⟩
    ∧ leafAllows .write ⟨0, 2 ^ 40, 2 ^ 30, 2 ^ 30, true, false, 2⟩ (2 ^ 40 + 4) = .ok (2 ^ 30 + 4)
    ∧ walking.walk 0 .read (2 ^ 41) = .bad (stopAt .read 1 3 (2 ^ 41)) ∧ walking.tlbHit 0 (2 ^ 41) = none
    ∧ walking.issuing gRef = some aGroup ∧ (walking.tlbHit 0 5).isSome = true := by decide +kernel
def invaling : State := up.updPart 0 (fun x => { x with invals := [⟨0, 0x4000, [], []⟩, ⟨3, 0, [], []⟩] })
theorem witness_inval : invaling.takesPage .mgmt 0 ∧ (invaling.part 0).invals = [⟨0, 0x4000, [], []⟩, ⟨3, 0, [], []⟩] ∧ (up.part 0).invals = [] ∧ (up.part 0).fqHeld = [] :=
  ⟨takesPage_mgmt (by decide +kernel) (by decide +kernel) (by decide +kernel), by decide +kernel⟩
def aFault (w : List Parked) : OpenFault := ⟨5, 0, 0, 1, 0x4000, 0, 0, ⟨0, none, 0, 0, 0, 0, 0, 0⟩, 0, w⟩
/-- 64 faults of the partition are open. -/
theorem witness_brk_waits : let s : State := { withGroup aGroup with mmu := ⟨up.mmu.tlb, (List.range 64).map (fun n => { aFault [] with id := BitVec.ofNat 10 n }), []⟩ }
    64 ≤ (s.openOf 0).length ∧ s.issuing gRef = some aGroup := by decide +kernel
def faulted (w : List Parked) : State :=
  let s := withQ up 0 { mkQueue [{ mkCmd 5 nopRaw .running with parked := true }] with parked := true }
  { s with mmu := { s.mmu with faults := [aFault w] } }
theorem witness_fault : ∀ w, w = [] ∨ w = [.ring 0] ∨ w = [.command 0 5] →
    (faulted w).live = true ∧ (faulted w).errored = false ∧ ((faulted w).part 0).partError = false ∧ ((faulted w).part 0).overflow = []
    ∧ (faulted w).mmu.faults.find? (fun f => decide (f.part = 0) && decide (f.id = fld (5 : W32) 0 10)) = some (aFault w)
    ∧ ((faulted w).closeFault (aFault w)).isParked (.ring 0) = false ∧ ((faulted w).closeFault (aFault w)).isParked (.command 0 5) = false
    ∧ ((faulted w).queue 0).cur = none ∧ ((faulted w).cmd? ⟨0, 5⟩).isSome = true := by
  rintro w (rfl | rfl | rfl) <;> decide +kernel
theorem test_replay : next (.faultReplay .mgmt 0 5 (env 9)) (faulted [.ring 0]) (fun t => t.mmu.faults.isEmpty && !(t.queue 0).parked) = true := by decide +kernel
theorem test_abort : next (.faultAbort .mgmt 0 5 (env 9)) (faulted [.command 0 5])
    (fun t => someAnd (t.cmd? ⟨0, 5⟩) (fun c => c.status == stFaultAbort && decide (c.phase = .finished))) = true := by decide +kernel
theorem witness_fault_refused : (up.updPart 0 (fun x => { x with partError := true })).takesPage .mgmt 0 ∧ up.mmu.faults = [] :=
  ⟨takesPage_mgmt (by decide +kernel) (by decide +kernel) (by decide +kernel), by decide +kernel⟩

/-! ## The lock, start-up and images -/

def unlocked (s : State) : State := { s with csr := { s.csr with unlocked := .all true } }
def bootAt (step : BitVec 4) (stall : BitVec 4) : State := { up with boot := { up.boot with state := stBooting, step := step, stall := stall } }
theorem witness_lock_state : up.live = true ∧ (∀ p, Requester.mgmt ≠ .part p) ∧ up.errored = false ∧ up.isUnlocked = false ∧ (unlocked up).isUnlocked = true
    ∧ (unlocked up).fuseStall = false ∧ (unlocked (bootAt 2 1)).fuseStall = true ∧ (unlocked (bootAt 5 4)).boot.step = 5 ∧ up.boot.step ≠ 5 ∧ up.boot.mcBusy = false
    ∧ (bootAt 8 8).boot.step = 8 ∧ up.boot.chipSet = false ∧ (unlocked (bootAt 9 9)).inStep9 = true ∧ (unlocked up).inStep9 = false :=
  ⟨by decide +kernel, nofun, by decide +kernel⟩
/-- The key of R491, and another value. -/
theorem test_unlock : next (.unlock .mgmt 0x7EA5D0C5) up (fun t => t.isUnlocked) = true := by decide +kernel
theorem test_bad_key : next (.unlock .mgmt 0x7EA5D0C4) (unlocked up) (fun t => !t.isUnlocked && t.csr.badKey == 1) = true := by decide +kernel
theorem witness_votes : up.votesAgree ∧ up.upset ⟨.caps, 0, 0⟩ = up ∧ up.upset ⟨.caps, 1, 4⟩ ≠ up := by
  unfold State.votesAgree
  decide +kernel

theorem crc_zero : ∀ n, (List.replicate n (0 : Byte)).foldl crcByte 0 = 0
  | 0 => rfl
  | n + 1 => by rw [List.replicate_succ, List.foldl_cons, show crcByte 0 0 = 0 from by decide +kernel]; exact crc_zero n
theorem get_above : ∀ (m : Mem) (a : Nat), (∀ c ∈ m, c.1 < a) → m.get a = 0
  | [], _, _ => rfl
  | (k, v) :: r, a, h => by
    have hk := h (k, v) (by simp)
    simp only [Mem.get]
    rw [if_neg (by omega), if_neg (by omega)]
    exact get_above r a (fun c hc => h c (by simp [hc]))
theorem read_above (m : Mem) : ∀ n a, (∀ c ∈ m, c.1 < a) → m.read a n = List.replicate n 0
  | 0, _, _ => rfl
  | n + 1, a, h => by
    rw [Mem.read, get_above m a h, read_above m n (a + 1) (fun c hc => by have := h c hc; omega), List.replicate_succ]
/-- The CRC of an image whose first 68 bytes bring the register to 0 and whose other bytes are 0. -/
theorem crc_image (m : Mem) (a n : Nat) (h1 : ∀ c ∈ m, c.1 < a + 68) (h2 : (crcHole (m.read a 68)).foldl crcByte 0xFFFFFFFF = 0) :
    crc32 (crcHole (m.read a (68 + n))) = 0xFFFFFFFF := by
  have hl := read_len m 68 a
  rw [read_add, read_above m n (a + 68) h1]
  unfold crc32
  have : crcHole (m.read a 68 ++ List.replicate n 0) = crcHole (m.read a 68) ++ List.replicate n 0 := by
    unfold crcHole
    rw [List.take_append_of_le_length (by omega), List.drop_append_of_le_length (by omega)]
    simp
  rw [this, List.foldl_append, h2, crc_zero]
  rfl
/-- Bytes as cells. -/
def cells (a : Nat) (l : List (Nat × Nat × Nat)) : Mem :=
  ((leBytes 68 (l.map (fun f => f.2.2 % 256 ^ f.2.1 * 256 ^ f.1)).sum).zipIdx a).filterMap (fun e => if e.1 = 0 then none else some (e.2, e.1))
/-- A microcode image of 8 KiB for both devices; bytes 64 to 67 make its CRC-32 come to FFFFFFFF (hex). -/
def mcImage : Mem := cells 0x300000 [(0, 4, 0x31434D52), (4, 1, 1), (5, 1, 3), (8, 4, 8192), (12, 4, 0xFFFFFFFF), (64, 4, 0xD33BD88C)]
def mcLoading : State := { bootAt 5 0 with mem := mcImage, boot := { (bootAt 5 0).boot with mcBusy := true, mcAddr := 0x300, caps := .all 0x108080FF } }
theorem witness_microcode : mcLoading.boot.mcBusy = true ∧ mcLoading.mcReasonOf .ok = 0 ∧ mcLoading.mcReasonOf .readError ≠ 0 := by
  refine ⟨by decide +kernel, ?_, by decide +kernel⟩
  have hn : mcLoading.mem.num (4096 * mcLoading.boot.mcAddr.toNat + 8) 4 = 8192 := by decide +kernel
  have hc : crc32 (crcHole (mcLoading.mem.read (4096 * mcLoading.boot.mcAddr.toNat) 8192)) = 0xFFFFFFFF :=
    crc_image mcLoading.mem (4096 * mcLoading.boot.mcAddr.toNat) 8124 (by decide +kernel) (by decide +kernel)
  unfold State.mcReasonOf
  simp only [hn, hc]
  decide +kernel
/-- A configuration image that loads caddy 0. -/
def cfgImage : Mem := cells 0x300000 [(0, 4, 0x31494352), (4, 1, 1), (8, 4, 4096), (12, 4, 0xFFFFFFFF), (24, 1, 1), (64, 4, 0xC64FFAD1)]
def loading (step : BitVec 4) : State :=
  { bootAt step 0 with mem := cfgImage, cfg := { up.cfg with busy := true, state := 1, src := 0x300, glob := true, partMask := 1, caddyMask := 1 } }
theorem image_accepted (step : BitVec 4) (start : Bool) : (loading step).rejectCode false start = 0 := by
  have hi : (loading step).imageBytes = cfgImage.read 0x300000 4096 := rfl
  have hc : crc32 (crcHole (cfgImage.read 0x300000 4096)) = 0xFFFFFFFF :=
    crc_image cfgImage 0x300000 4028 (by decide +kernel) (by decide +kernel)
  have hm : (loading step).image = fun b n => cfgImage.num (0x300000 + b) n := rfl
  unfold State.rejectCode
  rw [hi, hc, hm]
  cases start <;> decide +kernel
theorem witness_image : (loading 6).live = true ∧ (loading 6).errored = false ∧ (loading 6).cfg.busy = true ∧ (loading 6).cfg.state = 1
    ∧ (loading 6).rejectCode false true = 0 ∧ (loading 8).rejectCode false false = 0 ∧ (loading 8).rejectCode true false ≠ 0 :=
  ⟨by decide +kernel, by decide +kernel, by decide +kernel, by decide +kernel, image_accepted 6 true, image_accepted 8 false, by decide +kernel⟩
theorem witness_image_waits : ((loading 8).checkImage true 1 1).glob.isSome = true := by decide +kernel

def w48 : Access := ⟨.mgmt, .w64, 0x48, 0x123456789ABCDEF0⟩
theorem witness_access : (w48.size = .w64 ∧ w48.off.toNat % 8 = 0) ∧ up.live = true ∧ up.errored = false ∧ (∀ p, w48.req ≠ .part p)
    ∧ (0xF1010 : BitVec 20).toNat = 0xF0000 + 0x1000 * (1 : PartId).val + 0x10 ∧ (up.part 1).resetting = false :=
  ⟨by decide +kernel, by decide +kernel, by decide +kernel, nofun, by decide +kernel⟩
theorem witness_access_refused : ¬ ((AccSize.w64 = .w32 ∧ 4 % 4 = 0) ∨ (AccSize.w64 = .w64 ∧ 4 % 8 = 0)) := by decide

theorem witness_cfg_go : bit (0x8000000000000000 : W64) 60 = up.cfg.freeze ∧ bit (0x8000000000000000 : W64) 62 = false ∧ up.cfg.busy = false ∧ 6 ≤ up.boot.step.toNat
    ∧ { up.cfg with busy := true }.busy = true ∧ bit (0x4000000000000000 : W64) 63 = false ∧ { up.cfg with busy := true, state := 3 }.state = 3
    ∧ ((up.cfg.ptab[(0 : PartId)])[(0 : Fin 4)]).shadow.get ≠ 0 ∧ (unlocked up).cfg.freeze = false := by decide +kernel
def aGlobal : GlobalSec := ⟨1, true, 300, 2, 3, 4, 0xFFFFFF, 128, 4, 4⟩
theorem witness_apply_global : let s := { up with cfg := { up.cfg with waitGlobal := some aGlobal } }
    s.live = true ∧ s.errored = false ∧ s.cfg.waitGlobal = some aGlobal ∧ s.blockIdle = true ∧ s.csr.hold = false ∧ s.sessionsDown = true := by decide +kernel
def aLoad : PartLoad := ⟨0, #v[0x800000000000FFFF, 0xFFFFFFFFFFFFFFFF, 0x0200001000000200, 0x0800000000000000], some 5, false⟩
theorem witness_apply_part : let s := { up with cfg := { up.cfg with waitPart := [aLoad] } }
    s.cfg.waitPart.find? (fun x => decide (x.part = 0)) = some aLoad ∧ s.partReady s.partIdle aLoad = true
    ∧ (s.updPart 0 (fun x => { x with hold := true })).partReady (s.updPart 0 (fun x => { x with hold := true })).partIdle aLoad = false := by decide +kernel
theorem witness_apply_caddy : let s := { up with cfg := { up.cfg with waitCaddy := [⟨2, Vector.replicate 16 CaddyEnt.none⟩] } }
    s.cfg.waitCaddy.find? (fun x => decide (x.caddy = 2)) = some ⟨2, Vector.replicate 16 CaddyEnt.none⟩ ∧ s.pinned 2 = false := by decide +kernel

/-! ## Units, power, trace and debug -/

def fenceWord : W32 := 0x25
theorem witness_fence_tu : fldN fenceWord 5 3 = (1 : Fin 8).val ∧ fldN fenceWord 0 5 = (5 : Fin 17).val ∧ bit fenceWord 8 = false ∧ bit (fenceWord ||| 0x100) 8 = true
    ∧ (unlocked up).isUnlocked = true ∧ bit (up.arr.rows[(1 : Fin 8)]).fenced 5 = false ∧ fenceWord &&& ~~~0x200#32 ≠ 0 := by decide +kernel
def rowTesting : State := { up with arr := { up.arr with rows := up.arr.rows.set 1 { up.arr.rows[(1 : Fin 8)] with fenced := 0x20, active := 0x1FFDF, testing := 0x20 } } }
theorem witness_self_test : rowTesting.live = true ∧ rowTesting.errored = false ∧ bit (rowTesting.arr.rows[(1 : Fin 8)]).testing 5 = true
    ∧ bit (rowTesting.arr.rows[(1 : Fin 8)]).fenced 5 = true := by decide +kernel
theorem test_tu_fence : next (.tuFence .mgmt fenceWord) (unlocked up) (fun t => bit (t.arr.rows[(1 : Fin 8)]).fenced 5 && t.arr.fenceEvent) = true := by decide +kernel
def east (v : BitVec 2) : State := { up with arr := { up.arr with east := v } }
theorem witness_sleep : bit (0 : W32) (sleepBit (otherHalf .east)) = false ∧ (east 0).half .east = 0 ∧ (east 0).half (otherHalf .east) = 0 ∧ (east 0).whollyIn .east = false
    ∧ (east 1).half .east = 1 ∧ (east 1).half (otherHalf .west) ≠ 0 ∧ (east 1).halfDrained .east = true ∧ (east 3).half .east = 3 := by decide +kernel
def retired : State := unlocked { up with
  kennel := { up.kennel with banksOut := 0x20, banksBack := 0x20 }
  arr := { up.arr with coresOut := 0x20, unitsOut := 0x20, coresBack := 0x20, unitsBack := 0x20 } }
theorem witness_units : fldN (0x5 : W32) 0 6 = 5 ∧ fldN (0x105 : W32) 8 3 = 1 ∧ fldN (0x205 : W32) 8 3 = 2 ∧ bit retired.kennel.banksOut 5 = true
    ∧ (∀ e ∈ retired.kennel.slots, e.1 % 64 ≠ 5) ∧ bit retired.arr.coresOut 5 = true ∧ retired.unitEmpty 1 5 = true ∧ bit retired.arr.unitsOut 5 = true
    ∧ (∀ kind : Fin 3, retired.unitTesting kind.val 5 = true) := by decide +kernel
theorem witness_power : let s := withTimer up .power
    s.active = true ∧ s.timerFires .power 64 = true ∧ s.pwr.mode.force ≠ 0 ∧ s.pwr.capW.toNat < 400 ∧ 120 < s.pwr.vSetter.toNat := by decide +kernel
/-- Above the cap: OVER_CAP, and 10 mV (two units of 5 mV) less. -/
theorem test_power : next (.powerEstimate 400 64) (withTimer up .power) (fun t => t.pwr.overCap && t.pwr.vSetter == 0x9A) = true := by decide +kernel
def draining : State := { withTimer up .blkDrain with arr := { up.arr with blkDraining := true } }
theorem witness_block_drain : up.arr.blkDraining = false ∧ draining.live = true ∧ draining.errored = false ∧ draining.arr.blkDraining = true ∧ draining.blockIdle = true
    ∧ draining.timerFires .blkDrain 64 = true ∧ (∃ f ∈ (faulted [.ring 0]).mmu.faults, f.part = 0) := by decide +kernel
theorem witness_debug : up.live = true ∧ 5 < dbgUnits (fldN (0x8000005 : W32) 24 4) 5 ∧ dbgUnits (fldN (0xF000005 : W32) 24 4) 5 ≤ 5 ∧ fldN (0x8000005 : W32) 0 24 = 5
    ∧ up.dbg.writeEn = false ∧ { up.dbg with writeEn := true }.writeEn = true ∧ up.kGet 5 = none := by decide +kernel

/-! ## Clauses at their boundaries -/

theorem witness_pack_expiry_turn : let s := (withTimer (herded true) (.packWait 0 0x400)).at 64
    s.entryPacks ⟨0, 0x400, true, [aWait 0], 0⟩ ≠ [] ∧ s.dueChoice 0 halves (s.entryPacks ⟨0, 0x400, true, [aWait 0], 0⟩) = some aPack
    ∧ ({ s with arr := { s.arr with rows := up.arr.rows.map (fun x => { x with active := 0 }) } } : State).dueChoice 0 halves
        (s.entryPacks ⟨0, 0x400, true, [aWait 0], 0⟩) = none := by decide +kernel
theorem witness_return_stays : let r : Ray := { aRay with wait := .ended 1 }
    (withRay { r with cmd := none }).canReturn 0 { r with cmd := none } = false ∧ (withRay { r with cmd := none }).returnNext 0 0 = false := by decide +kernel
theorem witness_delivery_works : (delivering true).works ((delivering true).delivPart ⟨2, 9, [4], true, 0⟩) = true := by decide +kernel
theorem witness_reduce_turn : let s := (withBundle reducing).at 9
    s.reduces reducing = true ∧ s.reduceNext reducing = true ∧ reducing.nextChunk = some [3]
    ∧ someAnd (s.fewest (reducing.reducePack [3]) 0x12 true) (fun x =>
        okAnd ((s.issueReduce (reducing.reducePack [3]) x).valueRows reducing [3]) (fun l => l.length == 1)) = true := by decide +kernel
/-- Link 2 is a ring link, link 3 a cross link. -/
theorem witness_hello_advertise : let s := inState ssAdvertise
    s.isRing 3 = false ∧ s.hears 3 = true ∧ (s.sess 3).state = ssAdvertise
    ∧ (s.sess 3).peer.setWidth 32 ≠ (8 : W32) ∧ (s.sess 3).peer.setWidth 32 = (7 : W32)
    ∧ ({ s with cfg := { s.cfg with ringDown := 3 } } : State).isRing 3 = true := by decide +kernel
theorem witness_reopen_bypass : ringUp.inStart = false ∧ ringUp.isRing 3 = true ∧ bit ringUp.pins.linkUp 3 = true ∧ (ringUp.inLinks 3 = true) := by decide +kernel
theorem witness_grantable : let s := { up with arr := { up.arr with blkDraining := true } }
    up.grantable ⟨1, 2, 0, 0, 0⟩ = ⟨1, 2, 0, 0, 0⟩ ∧ s.grantable ⟨1, 2, 0, 0, 0⟩ = noCredits := by decide +kernel
theorem witness_result_last : let p := resultPrefix 0 false 0 []
    awaiting.works (awaiting.kPart 0) = true ∧ p.last = true ∧ ({ p with last := false } : ResultPrefix).last = false
    ∧ (awaiting.updPart 0 (fun x => { x with partError := true })).works 0 = false
    ∧ (bundleAwaits 1).works ((bundleAwaits 1).kPart 0) = true ∧ (bundleAwaits 2).works ((bundleAwaits 2).kPart 0) = true
    ∧ (bundleAwaits 2).bundle? 0 = some { aBundle with leashes := [1] } := by decide +kernel
theorem witness_forward_turn : let s := (withSess (goingOn 7) { upSess with ops := 0xF }).at 9
    s.forwardNext 0 = true ∧ ({ s with fwd := { s.fwd with table := [] } } : State).target 1 2 none none = .fail := by decide +kernel
/-- The bundle forwards the child of subtree 2, which chip 7 owns. -/
def subBundle : Bundle := { aBundle with frontier := [⟨2, 1, true, 0, 1, 0x3F800000, none, none, true⟩] }
def subGoing (ops : W16) : State :=
  let s := withSess (withBundle subBundle) { upSess with ops := ops }
  withMem { s with fwd := { s.fwd with table := [(2, ⟨none, 7⟩)], routeBase := .both 1 }, boot := { s.boot with chipId := 1 } } (2 ^ 20 + 7) [3]
theorem witness_forward_bundle_link : let s := subGoing 0xF
    s.ray? 0 = none ∧ s.bundle? 0 = some subBundle ∧ s.works 0 = true ∧ s.forwardParked 0 = false ∧ subBundle.placed = true ∧ subBundle.status = 0
    ∧ subBundle.foreign = none ∧ subBundle.result = none ∧ (s.at 9).forwardLink 0 = some 3 ∧ (s.at 9).forwardNext 0 = true
    ∧ (withBundle aBundle).forwardLink 0 = none := by decide +kernel
theorem witness_relay_kind : opsOf (.reduceReq reduceBody) = 8 ∧ ((subGoing 0xF).at 9).route 8 7 = .link 3 ∧ ((subGoing 7).at 9).route 8 7 ≠ .link 3 := by
  decide +kernel
theorem witness_launch_all : ∀ c, ∀ w ∈ (launching.core c).queue, launching.firing w.part = false ∨ w.cls ≠ 0 ∨ (launching.part w.part).saveBase.force = 0 := by
  decide +kernel
theorem witness_exit_alone : ∀ k z, k ≠ gRef → stuckState.group? k = some z → z.wait ≠ .accept := by
  have h : ∀ c : Fin 16, ∀ i : Fin 16, (⟨c, i⟩ : GroupRef) = gRef ∨ stuckState.group? ⟨c, i⟩ = none := by decide +kernel
  rintro ⟨c, i⟩ z hk hz
  cases h c i with
  | inl h => exact absurd h hk
  | inr h => simp [h] at hz
theorem witness_step_counts : (aGroup.counted 3).spin = aGroup.spin ∧ (Group.counted { aGroup with spin := some 4 } 3).spin = some 7 := by decide +kernel
/-- The walk of a 1 GiB page comes to the entries of levels 4 to 2. -/
theorem witness_walk_path : (walking.at 9).forgetWalk 0 (2 ^ 40 + 4) = walking.at 9 ∧ walkPath walking.mem (2 ^ 40 + 4) 4 (walking.rootTable 0) = [(0x700000, 4), (0x701010, 3), (0x702000, 2)]
    ∧ okAnd (((walking.at 9).forgetWalk 0 (2 ^ 40 + 4)).walk 0 .write (2 ^ 40 + 4)) (fun _ => true) = true
    ∧ isBad (((walking.at 9).forgetWalk 0 (2 ^ 41)).walk 0 .read (2 ^ 41)) = true := by decide +kernel
/-- A write and a line read on the page that an invalidation removes. -/
def invalBusy : State := { up with
  ret := { up.ret with writes := [⟨6, .nobody, 0, [(0x4008, 8)]⟩] }
  herd := { up.herd with reads := [(0, 0x80, 3)] } }
theorem witness_inval_waits : invalBusy.invalWaits 0 ⟨0, 0x4000, [], []⟩ = ⟨0, 0x4000, [6], [(0, 0x80, 3)]⟩
    ∧ invalBusy.invalDone ⟨0, 0x4000, [6], [(0, 0x80, 3)]⟩ = false ∧ invalBusy.invalDone ⟨0, 0x5000, [], []⟩ = true
    ∧ up.invalDone ⟨0, 0x4000, [6], [(0, 0x80, 3)]⟩ = true ∧ invaling.invalDone ⟨0, 0x4000, [], []⟩ = true := by decide +kernel
theorem witness_chip_id : (unlocked (bootAt 9 9)).boot.stall = 9 ∧ (bootAt 9 9).isUnlocked = false ∧ (bootAt 9 9).boot.chipSet = false
    ∧ (∃ l, { ringUp with boot := (bootAt 9 9).boot }.isRing l = true ∧ (ringUp.sess l).state ≠ ssDown)
    ∧ (∃ l, { ringUp with pins := { up.pins with linkUp := 0 } }.isRing l = true ∧ (up.sess l).state = ssDown ∧ bit (0 : Byte) l.val = false) := by decide +kernel
/-- Accesses of partition 1's function: to the global block, to its own page and to page 0. -/
theorem witness_access_part : up.votesAgree ∧ (0xF1010 : BitVec 20).toNat = 0xF0000 + 0x1000 * (1 : PartId).val + 0x10 ∧ (Requester.part 1 = .part 1) ∧ (1 : PartId) ≠ 0
    ∧ up.live = true ∧ up.errored = false ∧ (up.part 1).resetting = false
    ∧ ((up.updPart 1 (fun x => { x with resetting := true })).part 1).resetting = true ∧ 0x10 / 8 * 8 ≠ 0x400 := by
  unfold State.votesAgree
  decide +kernel
theorem witness_access_error : let s : State := { up with boot := { up.boot with state := stError } }
    s.live = true ∧ s.errored = true ∧ s.actsInError 0x48 = false ∧ s.actsInError 0x8 = true ∧ s.actsInError 0x1080 = true := by decide +kernel
theorem witness_waits_apply : ({ up with cfg := { up.cfg with freeze := true } } : State).partReady (fun _ => true) aLoad = false
    ∧ ({ up with csr := { up.csr with hold := true } } : State).csr.hold = true ∧ (fenceBehind).blockIdle = false := by decide +kernel
theorem map_four {α β : Type} (v : Vector α 4) (f : α → β) : v.map f = #v[f v[0], f v[1], f v[2], f v[3]] := by
  ext i h
  match i, h with
  | 0, _ => simp
  | 1, _ => simp
  | 2, _ => simp
  | 3, _ => simp
/-- EN written into partition 1's entry, which has no queue, port or flow; a word that leaves EN 0 is another word than the one there too. -/
theorem witness_ptab : let words := up.cfg.ptab[(1 : PartId)].map (fun x => x.shadow.get)
    let mine := words.set (0 : Fin 4) 0x8000000000000000
    words[(0 : Fin 4)] = 0 ∧ (0x8000000000000000 : W64) &&& ptabFields[(0 : Fin 4)] = 0x8000000000000000 ∧ (0xFFFF : W64) &&& ptabFields[(0 : Fin 4)] = 0xFFFF
    ∧ bit mine[(0 : Fin 4)] 63 = true ∧ fldN mine[(0 : Fin 4)] 60 3 = 0 ∧ bit (0xFFFF : W64) 63 = false := by
  rw [map_four]
  decide +kernel
theorem witness_ptab_clean : let mine : PtabWords := #v[0x8000000000000000, 0, 0, 0]
    (checkPart 1 1 mine).2 = [] ∧ (resolveTable 1 [1] up.cfg.fwdReserve up.cfg.fwdStrain (up.tableDue.set (1 : PartId) (checkPart 1 1 mine).1)).2 = [] := by
  decide +kernel
/-- The spare of row 1 has passed its self-test and was called for position 5. -/
def calledRow : Row := { up.arr.rows[(1 : Fin 8)] with fenced := 0x10020, active := 0xFFDF, testing := 0x10000, spareUsed := false, callFor := some 5 }
theorem witness_spare : bit calledRow.testing 16 = true ∧ calledRow.callFor = some 5 ∧ bit calledRow.active 5 = false ∧ calledRow.spareUsed = false
    ∧ bit (up.arr.rows[(1 : Fin 8)]).active 5 = true ∧ bit (up.arr.rows[(1 : Fin 8)]).fenced 16 = false ∧ (up.arr.rows[(1 : Fin 8)]).spareUsed = false
    ∧ bit (up.arr.rows[(1 : Fin 8)]).testing 16 = false := by decide +kernel
/-- The spare serves position 5, whose own TU has passed its self-test. -/
def servedRow : Row := { calledRow with fenced := 0x20, active := 0x1FFDF, testing := 0x20, spareUsed := true, sparePos := 5, callFor := none }
theorem witness_served : bit servedRow.testing 5 = true ∧ servedRow.spareUsed = true ∧ servedRow.sparePos.toNat = 5 ∧ (servedRow.place 5).handBack = true := by decide +kernel
theorem witness_half_busy : let s : State := { (east 1) with arr := { (east 1).arr with tus := Vector.replicate 128 ⟨[aPack], [], [], up.caddyGens⟩ } }
    s.half .east = 1 ∧ s.halfDrained .east = false ∧ (east 2).half .east = 2 := by decide +kernel
/-- At the lowest voltage; in mode 0, whose limit is 320 W; below 95 % of it, and between. -/
theorem witness_power_cases : ({ up.pwr with vWest := 120, vEast := 120, vSetter := 120 }.vSetter.toNat ≤ 120) ∧ (319 ≤ 320 ∧ 95 * 320 ≤ 100 * 319 ∧ 100 * 300 < 95 * 320)
    ∧ up.pwr.frac.toNat ≤ 16 ∧ ({ up.pins with hotWest := true }.hotWest = true) := by decide +kernel
theorem witness_block_drain_on : draining.arr.blkDraining = true ∧ ({ fenceBehind with arr := { fenceBehind.arr with blkDraining := true } } : State).blockIdle = false
    ∧ (draining.csr.hold = false) ∧ ∀ p, (draining.part p).hold = false := by decide +kernel
theorem witness_debug_units : (∀ st : Fin 12, st ≠ 10 → 5 < dbgUnits st.val 5) ∧ up.ready = true ∧ (bootAt 9 0).ready = false ∧ (withRay aRay).ray? 0 = some aRay ∧ up.ray? 5 = none := by
  decide +kernel

/-! ## The queue -/

theorem test_step_front : step { up with pending := [.junctionLimit .west, .powerOn] } = exec (.junctionLimit .west) { up with pending := [.powerOn] } := rfl
theorem test_step_idle : step up = .next up := rfl

end Sys2Proof.Tests
end

section
/-!
What clamp entries, boundaries and the end of a load leave of the configuration (R471, R475, R476).
-/

namespace Sys2Proof.Machine
open Sys2Proof

/-- The configuration but for the counters of the clamp report (R476, R497). -/
def Cfg.unreported (c : Cfg) : Cfg := { c with clamps := 0, writePos := 0, overrun := false }

/-- The configuration but for the progress of a load: its report, its entries, BUSY, DONE, STATE and REJECT (R495, R497). -/
def Cfg.lasting (c : Cfg) : Cfg := { c.unreported with notes := [], busy := false, done := false, state := 0, reject := 0 }

/-- The configuration but for all that a write of RK_CFG_CTL may end or drop: the progress of a load, FREEZE and the waiting sections. -/
def Cfg.settings (c : Cfg) : Cfg := { c.lasting with freeze := false, waitPart := [], waitCaddy := [], waitGlobal := none }

/-- The configuration as a load leaves it that ends with a REJECT code (R471 step 7). -/
def Cfg.loadEnded (c : Cfg) (reject : BitVec 3) : Cfg := { c with notes := [], busy := false, done := true, state := 0, reject := reject }

/-- What two values have in common that agree once blanked: whatever the blanking leaves. -/
theorem get_of_blanked {α β : Type} (blanked : α → α) (get : α → β) (hget : ∀ x, get (blanked x) = get x) {x y : α} (h : blanked x = blanked y) :
    get x = get y := by
  rw [← hget x, h, hget]

/-- Two configurations agree in whatever can be read of a blanked one. -/
def Cfg.Agree (blanked : Cfg → Cfg) (c d : Cfg) : Prop := ∀ {β : Type} (get : Cfg → β), (∀ x, get (blanked x) = get x) → get c = get d

theorem Cfg.agree_of_blanked {blanked : Cfg → Cfg} {c d : Cfg} (h : blanked c = blanked d) : Cfg.Agree blanked c d :=
  fun get hget => get_of_blanked blanked get hget h

/-- What `f` keeps is kept where `f` runs on a condition. -/
theorem State.doIf_keeps {α : Type} (get : State → α) (s : State) (b : Bool) (f : State → State) (h : ∀ x, get (f x) = get x) :
    get (s.doIf b f) = get s := by
  unfold State.doIf; split <;> simp [h]

/-- What each step keeps is kept along a list. -/
theorem foldl_keeps {α β : Type} (get : State → β) (f : State → α → State) (h : ∀ x a, get (f x a) = get x) (l : List α) (s : State) :
    get (l.foldl f s) = get s := by
  induction l generalizing s with
  | nil => rfl
  | cons a r ih => rw [List.foldl_cons, ih, h]

@[simp] theorem State.clampEntry_cfg (s : State) (field kind source part given applied : Nat) :
    (s.clampEntry field kind source part given applied).cfg.unreported = s.cfg.unreported := by
  simp only [State.clampEntry]
  split
  · rfl
  · split <;> rfl

@[simp] theorem State.clampAll_cfg (s : State) (l : List ClampE) : (s.clampAll l).cfg.unreported = s.cfg.unreported :=
  foldl_keeps (·.cfg.unreported) _ (fun _ _ => State.clampEntry_cfg ..) _ _

@[simp] theorem State.recheckHost_cfg (s : State) : s.recheckHost.cfg.unreported = s.cfg.unreported := by
  simp only [State.recheckHost]
  split
  · rfl
  · exact State.clampEntry_cfg ..

@[simp] theorem State.recheckFlow_cfg (s : State) (p : PartId) : (s.recheckFlow p).cfg.unreported = s.cfg.unreported := by
  simp only [State.recheckFlow]
  split
  · rfl
  · exact State.clampEntry_cfg ..

@[simp] theorem State.applyPart_cfg (s : State) (p : PartId) : (s.applyPart p).cfg.unreported = s.cfg.unreported := by
  simp only [State.applyPart]
  split
  · rfl
  · simp only [State.doIf_keeps (·.cfg.unreported) _ _ _ (fun x => State.clampEntry_cfg x ..), State.setPart_cfg]

theorem State.applyFrame_cfg (s : State) (p : PartId) : (s.applyFrame p).cfg = s.cfg := by
  simp only [State.applyFrame]
  split <;> rfl

theorem State.applyBlock_cfg (s : State) : s.applyBlock.cfg = s.cfg := by
  simp only [State.applyBlock]
  split <;> rfl

theorem State.applyEpoch_cfg (s : State) : s.applyEpoch.cfg.unreported = s.cfg.unreported := by
  simp only [State.applyEpoch]
  split
  · rfl
  · exact State.doIf_keeps (·.cfg.unreported) _ _ _ (fun x => State.clampEntry_cfg x ..)

@[simp] theorem State.applyAll_cfg (s : State) : s.applyAll.cfg.unreported = s.cfg.unreported := by
  simp only [State.applyAll, State.applyEpoch_cfg, State.applyBlock_cfg]
  exact foldl_keeps (·.cfg.unreported) _ (fun x p => by rw [State.applyFrame_cfg, State.applyPart_cfg]) _ _

/-! ## The end of a load -/

theorem State.endLoad_cfg (s : State) (r : BitVec 3) : (s.endLoad r).cfg.unreported = (s.cfg.loadEnded r).unreported := by
  have h := congrArg (Cfg.loadEnded · r) (State.clampAll_cfg s (s.cfg.notes.map (·.2)))
  exact (State.doIf_keeps (·.cfg.unreported) _ s.csr.cfgIrq (·.irqBlock 6) (fun _ => rfl)).trans h

theorem State.endLoad_lasting (s : State) (r : BitVec 3) : (s.endLoad r).cfg.lasting = s.cfg.lasting :=
  (get_of_blanked Cfg.unreported Cfg.lasting (fun _ => rfl) (State.endLoad_cfg s r) : _ = (s.cfg.loadEnded r).lasting)

theorem State.endLoad_pwr (s : State) (r : BitVec 3) : (s.endLoad r).pwr = s.pwr := by
  have h := congrArg State.pwr (State.endLoad_frame s r 0x220008#48 (by decide))
  exact h

theorem State.endLoad_arr (s : State) (r : BitVec 3) : (s.endLoad r).arr = s.arr := by
  have h := congrArg State.arr (State.endLoad_frame s r 0x220008#48 (by decide))
  exact h

theorem State.endLoad_fwd (s : State) (r : BitVec 3) : (s.endLoad r).fwd = s.fwd := by
  have h := congrArg State.fwd (State.endLoad_frame s r 0x220008#48 (by decide))
  exact h

end Sys2Proof.Machine
end

section
/-!
The words of a partition entry and its fields: an entry that every check of R473 leaves alone is in the register as it was written (R498).
-/

namespace Sys2Proof.Machine
open Sys2Proof

theorem Tri.get_all {α : Type} [DecidableEq α] (x : α) : (Tri.all x).get = x := if_pos rfl

/-- The fields of an enabled entry (R468). -/
theorem partOf_enabled (w : PtabWords) (hen : bit w[0] 63 = true) :
    partOf w = ⟨true, bit w[0] 62, bit w[0] 61, bit w[0] 60, fldN w[0] 40 16, fldN w[0] 23 17, fldN w[0] 0 16, w[1].toNat,
      fldN w[2] 45 19, fldN w[2] 26 19, fldN w[2] 9 17, fldN w[3] 56 8⟩ :=
  if_neg (by rw [hen]; decide)

/-- The reserved fields of an entry's words are zero (R468). -/
def PtabWords.Plain (w : PtabWords) : Prop :=
  fldN w[0] 16 7 = 0 ∧ fldN w[0] 56 4 = 0 ∧ fldN w[2] 0 9 = 0 ∧ fldN w[3] 0 56 = 0

theorem fldN_eq {n : Nat} (x : BitVec n) (lo len : Nat) : fldN x lo len = x.toNat / 2 ^ lo % 2 ^ len := by
  simp only [fldN, BitVec.extractLsb'_toNat, Nat.shiftRight_eq_div_pow]

theorem ite_bit {n : Nat} (x : BitVec n) (i : Nat) : (if bit x i = true then 1 else 0) = x.toNat / 2 ^ i % 2 ^ 1 := by
  simp only [bit, BitVec.getLsbD, Nat.testBit_eq_decide_div_mod_eq, decide_eq_true_eq]
  split <;> omega

/-- The adjoining fields of `x` of the widths `ws` from bit `lo` on. -/
def fieldsFrom (x : Nat) : Nat → List Nat → List (Nat × Nat)
  | _, [] => []
  | lo, w :: ws => (w, x / 2 ^ lo % 2 ^ w) :: fieldsFrom x (lo + w) ws

/-- Adjoining fields packed again are the bits they were taken from. -/
theorem packN_fieldsFrom (x lo : Nat) (ws : List Nat) : packN (fieldsFrom x lo ws) = x / 2 ^ lo % 2 ^ ws.sum := by
  induction ws generalizing lo with
  | nil => simp [fieldsFrom, packN, Nat.mod_one]
  | cons w ws ih =>
    simp only [fieldsFrom, packN, ih, List.sum_cons, Nat.mod_mod, Nat.pow_add, Nat.mod_mul, Nat.div_div_eq_div_mul]

/-- Fields that are all of a word's bits in order give the word. -/
theorem ofNat_packN {x : W64} {l : List (Nat × Nat)} {ws : List Nat} (hl : l = fieldsFrom x.toNat 0 ws) (hs : ws.sum = 64) :
    BitVec.ofNat 64 (packN l) = x := by
  rw [hl, packN_fieldsFrom, hs, Nat.pow_zero, Nat.div_one, Nat.mod_eq_of_lt x.isLt, BitVec.ofNat_toNat, BitVec.setWidth_eq]

theorem pack_word0 {x : W64} (hen : bit x 63 = true) (h1 : fldN x 16 7 = 0) (h2 : fldN x 56 4 = 0) :
    BitVec.ofNat 64 (packN [(16, fldN x 0 16), (7, 0), (17, fldN x 23 17), (16, fldN x 40 16), (4, 0), (1, if bit x 60 then 1 else 0),
      (1, if bit x 61 then 1 else 0), (1, if bit x 62 then 1 else 0), (1, 1)]) = x := by
  have h3 := ite_bit x 63
  rw [if_pos hen] at h3
  rw [fldN_eq] at h1 h2
  refine ofNat_packN (ws := [16, 7, 17, 16, 4, 1, 1, 1, 1]) ?_ rfl
  simp only [fieldsFrom, ite_bit, fldN_eq, Nat.zero_add, Nat.reduceAdd, h1, h2, ← h3]

theorem pack_word2 {x : W64} (h : fldN x 0 9 = 0) :
    BitVec.ofNat 64 (packN [(9, 0), (17, fldN x 9 17), (19, fldN x 26 19), (19, fldN x 45 19)]) = x := by
  rw [fldN_eq] at h
  refine ofNat_packN (ws := [9, 17, 19, 19]) ?_ rfl
  simp only [fieldsFrom, fldN_eq, Nat.zero_add, Nat.reduceAdd, h]

theorem pack_word3 {x : W64} (h : fldN x 0 56 = 0) : BitVec.ofNat 64 (packN [(56, 0), (8, fldN x 56 8)]) = x := by
  rw [fldN_eq] at h
  refine ofNat_packN (ws := [56, 8]) ?_ rfl
  simp only [fieldsFrom, fldN_eq, Nat.zero_add, h]

theorem vector_four {α : Type} {v : Vector α 4} {a b c d : α} (ha : a = v[0]) (hb : b = v[1]) (hc : c = v[2]) (hd : d = v[3]) :
    #v[a, b, c, d] = v := by
  refine Vector.ext fun i hi => ?_
  match i, hi with
  | 0, _ => exact ha
  | 1, _ => exact hb
  | 2, _ => exact hc
  | 3, _ => exact hd

/-- An enabled entry without reserved bits has the words its fields are packed into. -/
theorem wordsOf_partOf (w : PtabWords) (hen : bit w[0] 63 = true) (hw : w.Plain) : wordsOf (partOf w) = w := by
  obtain ⟨h0, h0', h2, h3⟩ := hw
  rw [partOf_enabled w hen]
  exact vector_four (pack_word0 hen h0 h0') (by simp) (pack_word2 h2) (pack_word3 h3)

/-! ## Checks that make no entry -/

theorem rangeField_clean {src field part v top unit : Nat} (h : (rangeField src field part v top unit).2 = []) :
    (rangeField src field part v top unit).1 = v := by
  simp only [rangeField, List.append_eq_nil_iff, ite_eq_left_iff, reduceCtorEq, imp_false, not_not] at h ⊢
  omega

theorem reservedField_clean {src field part v : Nat} (h : reservedField src field part v = []) : v = 0 := by
  simpa [reservedField] using h

theorem ite_range_clean {src field part v top unit : Nat} (d : Bool)
    (h : (if d = true then (v, []) else rangeField src field part v top unit).2 = []) :
    (if d = true then (v, []) else rangeField src field part v top unit).1 = v := by
  cases d with
  | true => rfl
  | false => exact rangeField_clean h

theorem checkPart_clean {src : Nat} {p : PartId} {w : PtabWords} (hen : bit w[0] 63 = true) (h : (checkPart src p w).2 = []) :
    (checkPart src p w).1 = partOf w ∧ w.Plain := by
  have he : (partOf w).en = true := by rw [partOf_enabled w hen]
  simp only [checkPart, he, Bool.not_true, Bool.false_eq_true, ite_false, List.append_eq_nil_iff] at h ⊢
  obtain ⟨⟨⟨⟨⟨⟨⟨⟨r0, fc⟩, r1⟩, r2⟩, rq⟩, sp⟩, kq⟩, r3⟩, sq⟩ := h
  rw [rangeField_clean fc, ite_range_clean _ rq, ite_range_clean _ sp, rangeField_clean kq, ite_range_clean _ sq, ← he]
  exact ⟨rfl, reservedField_clean r0, reservedField_clean r1, reservedField_clean r2, reservedField_clean r3⟩

/-! ## The sum, reserve and overlap rules on one entry -/

theorem lowerSum_clean {src : Nat} {get : PartF → Nat} {put : PartF → Nat → PartF} {w lo : Nat} {l : List PartId} {excess : Nat} {t : PartTable}
    (h : (lowerSum src get put w lo l excess t).2 = []) : (lowerSum src get put w lo l excess t).1 = t := by
  induction l generalizing excess t with
  | nil => rfl
  | cons p r ih =>
    simp only [lowerSum] at h ⊢
    split at h
    · rename_i hc; rw [if_pos hc]; exact ih h
    · cases h

theorem spillRule_clean {src : Nat} {p : PartId} {t : PartTable} (hd : t[p].spDef = false) (h : (spillRule src [p] t).2 = []) :
    (spillRule src [p] t).1 = t := by
  simp only [spillRule, hd, Bool.false_eq_true, ite_false] at h ⊢
  split at h
  · rename_i hc; rw [if_pos hc]
  · rename_i hc
    rw [if_neg hc]
    split at h
    · rename_i hk; rw [if_pos hk]
    · cases h

theorem fillDefaults_given {p : PartId} {t : PartTable} (hr : t[p].rqDef = false) (hs : t[p].sqDef = false) :
    (fillDefaults [p] t)[p] = t[p] := by
  have hf : (if !t[p].en then t[p] else { t[p] with
      rq := if t[p].rqDef then 65536 / (max 1 (t.toList.filter (·.en)).length) / 64 * 64 else t[p].rq
      sq := if t[p].sqDef then 128 / (max 1 (t.toList.filter (·.en)).length) else t[p].sq }) = t[p] := by
    rw [hr, hs]
    exact ite_self _
  simp only [fillDefaults, List.foldl_cons, List.foldl_nil, PartTable.upd]
  exact (Vector.getElem_set_self _).trans hf

theorem overlapOne_clean {src : Nat} {p : PartId} {low : List PartF} {f : PartF} (h : (overlapOne src p low f).2 = []) :
    (overlapOne src p low f).1 = f := by
  simp only [overlapOne] at h ⊢
  split at h
  · rename_i hc; rw [if_pos hc]
  · rename_i hc
    rw [if_neg hc]
    simp only [List.append_eq_nil_iff, ite_eq_left_iff, reduceCtorEq, imp_false, not_not, ite_eq_right_iff] at h
    obtain ⟨⟨hp, hb⟩, hq⟩ := h
    rw [hp, hq, if_neg hb]

theorem PartTable.upd_getElem (t : PartTable) (q p : PartId) (f : PartF → PartF) : (t.upd q f)[p] = if q = p then f t[q] else t[p] := by
  by_cases h : q = p
  · subst h; simp [PartTable.upd]
  · rw [if_neg h]; exact Vector.getElem_set_ne _ _ (by simpa [Fin.ext_iff] using h)

theorem overlapRule_clean {src : Nat} {p : PartId} {l : List PartId} {t : PartTable} (h : (overlapRule src [p] l t).2 = []) :
    (overlapRule src [p] l t).1[p] = t[p] := by
  induction l generalizing t with
  | nil => rfl
  | cons q r ih =>
    simp only [overlapRule, List.append_eq_nil_iff] at h ⊢
    obtain ⟨hq, hr⟩ := h
    rw [ih hr, PartTable.upd_getElem]
    split
    · rename_i e
      subst e
      exact overlapOne_clean (by simpa using hq)
    · rfl

/-- An entry with no default whose checks make no clamp entry keeps its fields (R471 step 5). -/
theorem resolveTable_clean {src fwdReserve fwdStrain : Nat} {p : PartId} {t : PartTable}
    (hr : t[p].rqDef = false) (hs : t[p].sqDef = false) (hd : t[p].spDef = false)
    (h : (resolveTable src [p] fwdReserve fwdStrain t).2 = []) : (resolveTable src [p] fwdReserve fwdStrain t).1[p] = t[p] := by
  obtain ⟨x, hx⟩ : ∃ x, x = resolveTable src [p] fwdReserve fwdStrain t := ⟨_, rfl⟩
  rw [← hx] at h ⊢
  unfold resolveTable at hx
  extract_lets down t0 k r q sp ov at hx
  have e0 : t0[p] = t[p] := fillDefaults_given hr hs
  have ek : k.2 = [] → k.1 = t0 := lowerSum_clean
  have er : r.2 = [] → r.1 = k.1 := lowerSum_clean
  have eq : q.2 = [] → q.1 = r.1 := lowerSum_clean
  have es : q.1[p].spDef = false → sp.2 = [] → sp.1 = q.1 := spillRule_clean
  have eo : ov.2 = [] → ov.1[p] = sp.1[p] := overlapRule_clean
  clear_value k r q sp ov
  subst hx
  simp only [List.append_eq_nil_iff] at h
  obtain ⟨⟨⟨⟨hk, hr⟩, hq⟩, hsp⟩, hov⟩ := h
  have e : q.1[p] = t[p] := by rw [eq hq, er hr, ek hk, e0]
  rw [eo hov, es (by rw [e, hd]) hsp, e]

/-- An entry that no check changes is in the register as it was written: its words come back from the table after the rules (R498). -/
theorem wordsOf_resolved {p : PartId} {w : PtabWords} {fwdReserve fwdStrain : Nat} {t : PartTable} (hen : bit w[0] 63 = true)
    (hdef : fldN w[0] 60 3 = 0) (hc : (checkPart 1 p w).2 = [])
    (h : (resolveTable 1 [p] fwdReserve fwdStrain (t.set p (checkPart 1 p w).1)).2 = []) :
    wordsOf (resolveTable 1 [p] fwdReserve fwdStrain (t.set p (checkPart 1 p w).1)).1[p] = w := by
  obtain ⟨hf, hw⟩ := checkPart_clean hen hc
  have hp : (t.set p (checkPart 1 p w).1)[p] = partOf w := (Vector.getElem_set_self _).trans hf
  have hd : ∀ i < 3, bit w[0] (60 + i) = false := by
    intro i hi
    have h3 : fld w[0] 60 3 = 0 := BitVec.eq_of_toNat_eq hdef
    have hb := congrArg (bit · i) h3
    simpa [BitVec.getLsbD_extractLsb', hi] using hb
  have hq : (partOf w).rqDef = false ∧ (partOf w).sqDef = false ∧ (partOf w).spDef = false := by
    rw [partOf_enabled w hen]
    exact ⟨hd 1 (by decide), hd 0 (by decide), hd 2 (by decide)⟩
  rw [← hp] at hq
  obtain ⟨hrq, hsq, hsp⟩ := hq
  rw [resolveTable_clean hrq hsq hsp h, hp]
  exact wordsOf_partOf w hen hw

end Sys2Proof.Machine
end

section
/-!
A partition section applied: what the entry in force becomes, and what the higher-numbered partitions lose to it (R473, R474, log 193).
-/

namespace Sys2Proof.Machine
open Sys2Proof

/-! ## The table, entry by entry -/

/-- A partition's fields in force are those of its own words. -/
theorem State.table_congr {s t : State} {p : PartId} (h : t.cfg.ptab[p] = s.cfg.ptab[p]) : t.table[p] = s.table[p] := by
  have e : ∀ u : State, u.table[p] = partOf (u.cfg.ptab[p].map (fun w => w.force.get)) := fun u => Vector.getElem_ofFn _
  rw [e, e, h]

theorem ptab_set_ne {α : Type} (t : Vector α 16) {p q : PartId} (x : α) (h : p ≠ q) : (t.set p x)[q] = t[q] :=
  Vector.getElem_set_ne _ _ (by simpa [Fin.ext_iff] using h)

/-! ## The table as it will stand -/

/-- The table with a waiting entry in it. -/
def PartTable.withLoad (t : PartTable) (l : PartLoad) : PartTable := t.set l.part (partOf l.words)

theorem PartTable.withLoad_ne (t : PartTable) {l : PartLoad} {k : PartId} (h : l.part ≠ k) : (t.withLoad l)[k] = t[k] := ptab_set_ne t _ h

theorem PartTable.withLoad_congr {t u : PartTable} {k : PartId} (h : t[k] = u[k]) (l : PartLoad) : (t.withLoad l)[k] = (u.withLoad l)[k] := by
  by_cases hl : l.part = k
  · subst hl; exact (Vector.getElem_set_self _).trans (Vector.getElem_set_self _).symm
  · rw [t.withLoad_ne hl, u.withLoad_ne hl, h]

theorem PartTable.withLoads_congr {k : PartId} (ws : List PartLoad) {t u : PartTable} (h : t[k] = u[k]) :
    (ws.foldl PartTable.withLoad t)[k] = (ws.foldl PartTable.withLoad u)[k] := by
  induction ws generalizing t u with
  | nil => exact h
  | cons x r ih => exact ih (PartTable.withLoad_congr h x)

/-- An entry that waits for another partition does not touch the entry due for `k`. -/
theorem PartTable.withLoads_erase {k : PartId} {l : PartLoad} (hl : l.part ≠ k) (ws : List PartLoad) (t : PartTable) :
    ((ws.erase l).foldl PartTable.withLoad t)[k] = (ws.foldl PartTable.withLoad t)[k] := by
  induction ws generalizing t with
  | nil => rfl
  | cons x r ih =>
    by_cases hx : x = l
    · subst hx
      rw [List.erase_cons_head]
      exact PartTable.withLoads_congr r (t.withLoad_ne hl).symm
    · rw [List.erase_cons_tail (by simpa using hx)]
      exact ih _

/-- The state in which `l` no longer waits. -/
def State.without (s : State) (l : PartLoad) : State := { s with cfg := { s.cfg with waitPart := s.cfg.waitPart.erase l } }

/-- With `l` no longer waiting the entries due below its partition stand as before. -/
theorem State.below_without (s : State) (l : PartLoad) : (s.without l).tableDue.below l.part = s.tableDue.below l.part := by
  have h : ∀ k : PartId, k < l.part → (s.without l).tableDue[k] = s.tableDue[k] :=
    fun k hk => PartTable.withLoads_erase (ne_of_gt hk) s.cfg.waitPart s.table
  have hf : ∀ k : PartId, (decide (k < l.part) && (s.without l).tableDue[k].en) = (decide (k < l.part) && s.tableDue[k].en) := by
    intro k
    by_cases hk : k < l.part
    · rw [h k hk]
    · simp [hk]
  simp only [PartTable.below, hf]
  refine List.map_congr_left fun k hk => h k ?_
  exact of_decide_eq_true (Bool.and_eq_true_iff.1 (List.mem_filter.1 hk).2).1

/-! ## The overlap rule as an entry applies -/

/-- What partition `r` keeps of its fields in force once an entry with the fields `f` applies below it. -/
def State.leftOf (s : State) (src : Nat) (f : PartF) (r : PartId) : PartF := (overlapOne src r [f] s.table[r]).1

/-- One partition's turn in `State.takeOver`. -/
def State.takeFrom (src : Nat) (f : PartF) (a : Checked State) (r : PartId) : Checked State :=
  if a.1.leftOf src f r = a.1.table[r] then a
  else (a.1.stripPart r (a.1.leftOf src f r),
    a.2 ++ (if a.1.cfg.waitPart.any (fun l => decide (l.part = r)) then [] else (overlapOne src r [f] a.1.table[r]).2))

theorem State.takeOver_eq (s : State) (src : Nat) (p : PartId) (f : PartF) :
    s.takeOver src p f = (allParts.filter (fun r => decide (p < r))).foldl (State.takeFrom src f) (s, []) := rfl

theorem State.stripPart_ptab_ne (s : State) {r k : PartId} (f : PartF) (h : r ≠ k) : (s.stripPart r f).cfg.ptab[k] = s.cfg.ptab[k] :=
  ptab_set_ne _ _ h

theorem State.stripPart_force (s : State) (r : PartId) (f : PartF) (v : Fin 4) :
    ((s.stripPart r f).cfg.ptab[r])[v].force = .all (wordsOf f)[v] := by
  simp [State.stripPart]

/-- A turn changes the words of its own partition only. -/
theorem State.takeFrom_ptab_ne (src : Nat) (f : PartF) (a : Checked State) {r k : PartId} (h : r ≠ k) :
    (State.takeFrom src f a r).1.cfg.ptab[k] = a.1.cfg.ptab[k] := by
  unfold State.takeFrom
  split
  · rfl
  · exact State.stripPart_ptab_ne _ _ h

theorem State.takeFroms_ptab_ne (src : Nat) (f : PartF) {k : PartId} (l : List PartId) (h : k ∉ l) (a : Checked State) :
    (l.foldl (State.takeFrom src f) a).1.cfg.ptab[k] = a.1.cfg.ptab[k] := by
  induction l generalizing a with
  | nil => rfl
  | cons r t ih =>
    rw [List.mem_cons, not_or] at h
    obtain ⟨hr, ht⟩ := h
    rw [List.foldl_cons, ih ht, State.takeFrom_ptab_ne src f a (Ne.symm hr)]

/-- The words of a partition after every turn are those after its own, taken in the state before. -/
theorem State.takeFroms_ptab (src : Nat) (f : PartF) {k : PartId} (l : List PartId) (hd : l.Nodup) (hk : k ∈ l) (a : Checked State) :
    ∃ b : Checked State, b.1.cfg.ptab[k] = a.1.cfg.ptab[k]
      ∧ (l.foldl (State.takeFrom src f) a).1.cfg.ptab[k] = (State.takeFrom src f b k).1.cfg.ptab[k] := by
  obtain ⟨l1, l2, rfl⟩ := List.append_of_mem hk
  have hn := List.nodup_middle.1 hd
  rw [List.nodup_cons, List.mem_append, not_or] at hn
  obtain ⟨⟨h1, h2⟩, -⟩ := hn
  refine ⟨l1.foldl (State.takeFrom src f) a, State.takeFroms_ptab_ne src f l1 h1 a, ?_⟩
  rw [List.foldl_append, List.foldl_cons, State.takeFroms_ptab_ne src f l2 h2]

theorem State.leftOf_congr {s t : State} {r : PartId} (h : t.cfg.ptab[r] = s.cfg.ptab[r]) (src : Nat) (f : PartF) :
    t.leftOf src f r = s.leftOf src f r := by
  unfold State.leftOf; rw [State.table_congr h]

/-- The entry's own partition and those below lose nothing. -/
theorem State.takeOver_ptab_le (s : State) (src : Nat) {p r : PartId} (f : PartF) (h : r ≤ p) :
    (s.takeOver src p f).1.cfg.ptab[r] = s.cfg.ptab[r] := by
  rw [State.takeOver_eq]
  exact State.takeFroms_ptab_ne src f _ (by simpa using fun _ => h) _

/-- A partition above the entry's keeps its words where the entry takes nothing of it, and else has what is left in force. -/
theorem State.takeOver_ptab_gt (s : State) (src : Nat) {p r : PartId} (f : PartF) (h : p < r) :
    (s.leftOf src f r = s.table[r] → (s.takeOver src p f).1.cfg.ptab[r] = s.cfg.ptab[r])
    ∧ (s.leftOf src f r ≠ s.table[r] → ∀ v : Fin 4, ((s.takeOver src p f).1.cfg.ptab[r])[v].force = .all (wordsOf (s.leftOf src f r))[v]) := by
  have hd : (allParts.filter (fun r => decide (p < r))).Nodup := (List.nodup_finRange 16).filter _
  have hk : r ∈ allParts.filter (fun r => decide (p < r)) := List.mem_filter.2 ⟨List.mem_finRange r, decide_eq_true h⟩
  obtain ⟨b, hb, e⟩ := State.takeFroms_ptab src f _ hd hk (s, [])
  rw [State.takeOver_eq, e, ← State.leftOf_congr hb, ← State.table_congr hb]
  constructor
  · intro hl
    rw [State.takeFrom, if_pos hl]
    exact hb
  · intro hl v
    rw [State.takeFrom, if_neg hl]
    exact State.stripPart_force _ _ _ _

end Sys2Proof.Machine
end

section
/-!
The sections of a load and the entries of CSR writes as they apply, and the image that gives them (R470 to R474).
-/

namespace Sys2Proof.Machine
open Sys2Proof

/-! ## A partition section -/

/-- The configuration but for what an applied section leaves beside the table: FP_DEF, its clamp entries and the progress of its load. -/
def Cfg.tabled (c : Cfg) : Cfg := { c.lasting with fpDef := Vector.replicate 16 0 }

theorem Cfg.tabled_of_lasting {c d : Cfg} (h : c.lasting = d.lasting) : c.tabled = d.tabled :=
  get_of_blanked Cfg.lasting Cfg.tabled (fun _ => rfl) h

theorem Cfg.tabled_of_unreported {c d : Cfg} (h : c.unreported = d.unreported) : c.tabled = d.tabled :=
  get_of_blanked Cfg.unreported Cfg.tabled (fun _ => rfl) h

/-- SOURCE of an entry's clamp entries (R475). -/
def PartLoad.source (l : PartLoad) : Nat := if l.csr then 1 else 0

/-- The fields an entry applies with: without what the lower-numbered entries due name too. -/
def State.dueFields (s : State) (l : PartLoad) : PartF := (overlapOne l.source l.part (s.tableDue.below l.part) (partOf l.words)).1

/-- The words an entry applies with. -/
def State.dueWords (s : State) (l : PartLoad) : PtabWords := if (s.dueFields l).en then wordsOf (s.dueFields l) else l.words

/-- An entry in the table, and the higher-numbered partitions without what it names. -/
def State.tableTaken (s : State) (l : PartLoad) : State :=
  ((s.putPtab l.part (s.dueWords l)).takeOver l.source l.part (s.dueFields l)).1

theorem State.putFpDef_tabled (s : State) (p : PartId) (b : Byte) (now : Bool) : (s.putFpDef p b now).cfg.tabled = s.cfg.tabled := rfl

/-- Beside the table a section changes FP_DEF, its clamp entries and the rechecks they are for. -/
theorem State.applySection_tabled (s : State) (l : PartLoad) (now : Bool) : (s.applySection l now).cfg.tabled = (s.tableTaken l).cfg.tabled := by
  have hh : ∀ x : State, x.recheckHost.cfg.tabled = x.cfg.tabled := fun x => Cfg.tabled_of_unreported x.recheckHost_cfg
  have hf : ∀ x : State, (x.recheckFlow l.part).cfg.tabled = x.cfg.tabled := fun x => Cfg.tabled_of_unreported (x.recheckFlow_cfg l.part)
  have hc : ∀ (x : State) es, (x.clampAll es).cfg.tabled = x.cfg.tabled := fun x es => Cfg.tabled_of_unreported (x.clampAll_cfg es)
  unfold State.applySection
  extract_lets was src me ov es base conf s1 s2
  have h1 : s1.cfg.tabled = ov.1.cfg.tabled := by
    unfold s1
    split
    · exact hc _ _
    · rfl
  have h2 : s2.cfg.tabled = s1.cfg.tabled := by
    unfold s2
    split
    · exact State.putFpDef_tabled _ _ _ _
    · rfl
  calc (((s2.doIf _ (·.recheckHost)).doIf _ (·.recheckFlow l.part)).grantPorts).cfg.tabled
      = ((s2.doIf _ (·.recheckHost)).doIf _ (·.recheckFlow l.part)).cfg.tabled := rfl
    _ = (s2.doIf _ (·.recheckHost)).cfg.tabled := State.doIf_keeps (·.cfg.tabled) _ _ _ hf
    _ = s2.cfg.tabled := State.doIf_keeps (·.cfg.tabled) _ _ _ hh
    _ = ov.1.cfg.tabled := h2.trans h1

theorem State.tableTaken_waitPart (s : State) (l : PartLoad) : (s.tableTaken l).cfg.waitPart = s.cfg.waitPart := by
  have h := congrArg (·.cfg.waitPart) (State.takeOver_frame (s.putPtab l.part (s.dueWords l)) l.source l.part (s.dueFields l) 0x4000#48 (by decide))
  exact h

theorem State.tableTaken_caddies (s : State) (l : PartLoad) : (s.tableTaken l).cfg.caddies = s.cfg.caddies := by
  have h := congrArg (·.cfg.caddies) (State.takeOver_frame (s.putPtab l.part (s.dueWords l)) l.source l.part (s.dueFields l) 0x4000#48 (by decide))
  exact h

theorem State.applySection_waitPart (s : State) (l : PartLoad) (now : Bool) : (s.applySection l now).cfg.waitPart = s.cfg.waitPart :=
  (get_of_blanked Cfg.tabled Cfg.waitPart (fun _ => rfl) (s.applySection_tabled l now)).trans (s.tableTaken_waitPart l)

/-- The entry's own words, as they apply. -/
theorem State.tableTaken_self (s : State) (l : PartLoad) :
    (s.tableTaken l).cfg.ptab[l.part] = ((s.dueWords l).zipWith (· &&& ·) ptabFields).map (fun x => Sh.both (Tri.all x)) :=
  (State.takeOver_ptab_le _ _ _ (le_refl _)).trans (Vector.getElem_set_self _)

theorem State.putPtab_ne (s : State) {p r : PartId} (w : PtabWords) (h : p ≠ r) : (s.putPtab p w).cfg.ptab[r] = s.cfg.ptab[r] :=
  ptab_set_ne _ _ h

/-- Lower-numbered partitions, and those of which the entry takes nothing, keep their words. -/
theorem State.tableTaken_kept (s : State) (l : PartLoad) {r : PartId}
    (h : r < l.part ∨ (l.part < r ∧ s.leftOf l.source (s.dueFields l) r = s.table[r])) : (s.tableTaken l).cfg.ptab[r] = s.cfg.ptab[r] := by
  rcases h with h | ⟨h, hl⟩
  · exact (State.takeOver_ptab_le _ _ _ (le_of_lt h)).trans (s.putPtab_ne _ (ne_of_gt h))
  · have e := s.putPtab_ne (s.dueWords l) (ne_of_lt h)
    refine ((State.takeOver_ptab_gt _ _ _ h).1 ?_).trans e
    rw [State.leftOf_congr e, State.table_congr e, hl]

/-- A higher-numbered partition of which the entry takes something has what is left in force. -/
theorem State.tableTaken_left (s : State) (l : PartLoad) {r : PartId} (h : l.part < r)
    (hl : s.leftOf l.source (s.dueFields l) r ≠ s.table[r]) (v : Fin 4) :
    ((s.tableTaken l).cfg.ptab[r])[v].force = .all (wordsOf (s.leftOf l.source (s.dueFields l) r))[v] := by
  have e := s.putPtab_ne (s.dueWords l) (ne_of_lt h)
  have g := (State.takeOver_ptab_gt (s.putPtab l.part (s.dueWords l)) l.source (s.dueFields l) h).2
  rw [State.leftOf_congr e, State.table_congr e] at g
  exact g hl v

theorem State.dueFields_without (s : State) (l : PartLoad) : (s.without l).dueFields l = s.dueFields l := by
  unfold State.dueFields
  rw [State.below_without]

theorem State.dueWords_without (s : State) (l : PartLoad) : (s.without l).dueWords l = s.dueWords l := by
  unfold State.dueWords
  rw [State.dueFields_without]

/-! ## The rows -/

theorem exec_cfgSectionApply (sec : Section) (s : State) : exec (.cfgSectionApply sec) s = execCfgSectionApply sec s := rfl

/-- CFG_SECTION_APPLY of a partition section that cannot apply yet. -/
theorem exec_cfgSectionApply_part_waits {s : State} {p : PartId} {l : PartLoad} (hl : s.live = true) (he : s.errored = false)
    (hf : s.cfg.waitPart.find? (fun x => decide (x.part = p)) = some l) (hr : s.partReady s.partIdle l = false) :
    exec (.cfgSectionApply (.part p)) s = .next s := by
  simp [exec_cfgSectionApply, execCfgSectionApply, hl, he, hf, hr]

/-- CFG_SECTION_APPLY of a partition section at its boundary: the section leaves the list and is in the table. -/
theorem exec_cfgSectionApply_part {s : State} {p : PartId} {l : PartLoad} (hl : s.live = true) (he : s.errored = false)
    (hf : s.cfg.waitPart.find? (fun x => decide (x.part = p)) = some l) (hr : s.partReady s.partIdle l = true) :
    ∃ t, exec (.cfgSectionApply (.part p)) s = .next t ∧ t.cfg.tabled = ((s.without l).tableTaken l).cfg.tabled := by
  simp only [exec_cfgSectionApply, execCfgSectionApply, hl, he, hf, hr, Bool.not_true, Bool.or_self, Bool.false_eq_true, ite_false]
  refine ⟨_, rfl, ?_⟩
  calc _ = _ := State.doIf_keeps (·.cfg.tabled) _ _ _ (fun x => Cfg.tabled_of_lasting (x.endLoad_lasting 0))
    _ = _ := State.doIf_keeps (·.cfg.tabled) _ _ _ (fun x => Cfg.tabled_of_unreported (x.applyPart_cfg p))
    _ = _ := State.applySection_tabled (s.without l) l false

end Sys2Proof.Machine
end

section
/-!
The global section, a caddy and the image itself (R470 to R474, R501).
-/

namespace Sys2Proof.Machine
open Sys2Proof

/-! ## The global section and the caddies -/

/-- CFG_SECTION_APPLY of the global section away from a block boundary, or while block boundaries are held (R481). -/
theorem exec_cfgSectionApply_global_waits {s : State} {g : GlobalSec} (hl : s.live = true) (he : s.errored = false)
    (hg : s.cfg.waitGlobal = some g) (hb : s.blockIdle = false ∨ s.csr.hold = true) : exec (.cfgSectionApply .global) s = .next s := by
  have h : (!s.blockIdle || s.csr.hold) = true := by rcases hb with h | h <;> simp [h]
  simp [exec_cfgSectionApply, execCfgSectionApply, hl, he, hg, h]

/-- CFG_SECTION_APPLY of the global section at a block boundary. -/
theorem exec_cfgSectionApply_global {s : State} {g : GlobalSec} (hl : s.live = true) (he : s.errored = false)
    (hg : s.cfg.waitGlobal = some g) (hb : s.blockIdle = true) (hh : s.csr.hold = false) :
    ∃ t, exec (.cfgSectionApply .global) s = .next t
      ∧ t.cfg.lasting = ({ (s.applyGlobal g false).cfg with waitGlobal := none } : Cfg).lasting
      ∧ t.pwr = (s.applyGlobal g false).pwr ∧ t.arr = (s.applyGlobal g false).arr ∧ t.fwd = (s.applyGlobal g false).fwd := by
  simp only [exec_cfgSectionApply, execCfgSectionApply, hl, he, hg, hb, hh, Bool.not_true, Bool.or_self, Bool.false_eq_true, ite_false]
  exact ⟨_, rfl, State.doIf_keeps (·.cfg.lasting) _ _ _ (fun x => x.endLoad_lasting 0), State.doIf_keeps (·.pwr) _ _ _ (fun x => x.endLoad_pwr 0),
    State.doIf_keeps (·.arr) _ _ _ (fun x => x.endLoad_arr 0), State.doIf_keeps (·.fwd) _ _ _ (fun x => x.endLoad_fwd 0)⟩

theorem State.applyGlobal_pwr (s : State) (g : GlobalSec) (start : Bool) :
    (s.applyGlobal g start).pwr = { s.pwr with mode := .both g.mode, capW := g.capW } := by
  simp only [State.applyGlobal]; split <;> rfl

theorem State.applyGlobal_arr (s : State) (g : GlobalSec) (start : Bool) : (s.applyGlobal g start).arr = { s.arr with dist := .both g.dist } := by
  simp only [State.applyGlobal]; split <;> rfl

theorem State.applyGlobal_hostPart (s : State) (g : GlobalSec) (start : Bool) :
    (s.applyGlobal g start).fwd.hostPart = ⟨g.hostPart, if start then g.hostPart else s.fwd.hostPart.force⟩ := by
  simp only [State.applyGlobal]; split <;> rfl

theorem State.applyGlobal_waitPart (s : State) (g : GlobalSec) (start : Bool) : (s.applyGlobal g start).cfg.waitPart = s.cfg.waitPart := by
  simp only [State.applyGlobal]; split <;> rfl

/-- While every session is DOWN the forwarding fields apply too (R467, R474). -/
theorem State.applyGlobal_down {s : State} (g : GlobalSec) (start : Bool) (h : s.sessionsDown = true) :
    (s.applyGlobal g start).cfg = { s.cfg with ringUp := g.ringUp, ringDown := g.ringDown, fwdLinks := g.fwdLinks, fwdReserve := g.fwdReserve,
                                               fwdBundles := g.fwdBundles, fwdStrain := g.fwdStrain } := by
  simp [State.applyGlobal, h]

/-- CFG_SECTION_APPLY of a pinned caddy (R419). -/
theorem exec_cfgSectionApply_caddy_waits {s : State} {c : CaddyId} {l : CaddyLoad} (hl : s.live = true) (he : s.errored = false)
    (hf : s.cfg.waitCaddy.find? (fun x => decide (x.caddy = c)) = some l) (hp : s.pinned (BitVec.ofNat 2 c.val) = true) :
    exec (.cfgSectionApply (.caddy c)) s = .next s := by
  simp only [exec_cfgSectionApply, execCfgSectionApply, hl, he, hf, hp, Bool.not_true, Bool.or_self, Bool.false_eq_true, ite_false, ite_true]

/-- CFG_SECTION_APPLY of a caddy that nothing pins. -/
theorem exec_cfgSectionApply_caddy {s : State} {c : CaddyId} {l : CaddyLoad} (hl : s.live = true) (he : s.errored = false)
    (hf : s.cfg.waitCaddy.find? (fun x => decide (x.caddy = c)) = some l) (hp : s.pinned (BitVec.ofNat 2 c.val) = false) :
    ∃ t, exec (.cfgSectionApply (.caddy c)) s = .next t
      ∧ t.cfg.lasting = ({ s.cfg with
          waitCaddy := s.cfg.waitCaddy.erase l
          caddies := s.cfg.caddies.set l.caddy ⟨s.cfg.caddies[l.caddy].gen + 1, l.ents⟩ } : Cfg).lasting := by
  simp only [exec_cfgSectionApply, execCfgSectionApply, hl, he, hf, hp, Bool.not_true, Bool.or_self, Bool.false_eq_true, ite_false]
  exact ⟨_, rfl, State.doIf_keeps (·.cfg.lasting) _ _ _ (fun x => x.endLoad_lasting 0)⟩

/-! ## The image -/

/-- Start-up goes on to step 8 from a load that has ended, with caddy 0 selected (R501, R505). -/
def State.bootLoaded (s : State) : State :=
  (({ s.bootStep 7 with cfg := { (s.bootStep 7).cfg with sel := .all 0 } } : State).bootStep 8).stall 8 0

theorem Cfg.unreported_sel {c d : Cfg} (h : c.unreported = d.unreported) (x : Tri (BitVec 2)) :
    ({ c with sel := x } : Cfg).unreported = ({ d with sel := x } : Cfg).unreported :=
  congrArg (fun c : Cfg => { c with sel := x }) h

theorem State.bootLoaded_cfg (s : State) : s.bootLoaded.cfg = { s.cfg with sel := .all 0 } :=
  State.doIf_keeps (·.cfg) _ _ _ (fun _ => rfl)

theorem State.bootLoaded_boot (s : State) : s.bootLoaded.boot.step = 8 ∧ s.bootLoaded.boot.stall = 8 := by
  rw [State.bootLoaded, State.stall_boot]
  exact ⟨rfl, rfl⟩

/-- The state once the start-up load with the checked image `l` has applied. -/
def State.afterStart (s : State) (l : Load) : State :=
  let s2 := (({ s with cfg := { s.cfg with notes := l.notes } } : State).applyStart l).endLoad 0
  (({ s2.bootStep 7 with cfg := { (s2.bootStep 7).cfg with sel := .all 0 } } : State).bootStep 8).stall 8 0

theorem State.afterStart_eq (s : State) (l : Load) :
    s.afterStart l = ((({ s with cfg := { s.cfg with notes := l.notes } } : State).applyStart l).endLoad 0).bootLoaded := by
  simp only [State.afterStart, State.bootLoaded]

/-- The state in which the sections of the checked image `l` wait. -/
def State.loadWaits (s : State) (l : Load) : State :=
  { s with cfg := { s.cfg with
      notes := l.notes, waitGlobal := l.glob, waitPart := s.cfg.waitPart ++ l.parts, waitCaddy := l.caddies, state := 3 } }

theorem exec_cfgImageRead (readError : Bool) (s : State) : exec (.cfgImageRead readError) s = execCfgImageRead readError s := rfl

/-- CFG_IMAGE_READ without a load that waits for its image. -/
theorem exec_cfgImageRead_idle {s : State} (readError : Bool) (h : s.cfg.busy = false ∨ s.cfg.state ≠ 1) :
    exec (.cfgImageRead readError) s = .next s := by
  have hc : (!s.live || s.errored || !s.cfg.busy || decide (s.cfg.state ≠ 1)) = true := by
    rcases h with h | h
    · rw [h, Bool.not_false, Bool.or_true, Bool.true_or]
    · rw [decide_eq_true h, Bool.or_true]
  rw [exec_cfgImageRead]
  exact if_pos hc

section
variable {s : State} {readError : Bool} (hl : s.live = true) (he : s.errored = false) (hb : s.cfg.busy = true) (h1 : s.cfg.state = 1)
include hl he hb h1

theorem imageRead_taken : ¬(!s.live || s.errored || !s.cfg.busy || decide (s.cfg.state ≠ 1)) = true := by
  rw [hl, he, hb, h1]; decide

/-- A rejected image ends the load with its code; at start-up the sequence stalls with it (R472, R505). -/
theorem exec_cfgImageRead_bad (hc : s.rejectCode readError (decide (s.boot.step = 6)) ≠ 0) :
    ∃ t, exec (.cfgImageRead readError) s = .next t
      ∧ t.cfg.unreported = (s.cfg.loadEnded (s.rejectCode readError (decide (s.boot.step = 6)))).unreported
      ∧ (s.boot.step = 6 → t.boot.stall = 7) := by
  refine ⟨_, (if_neg (imageRead_taken hl he hb h1)).trans (if_pos hc), ?_, fun h6 => ?_⟩
  · refine (congrArg Cfg.unreported (State.doIf_keeps (·.cfg) _ _ _ fun x => ?_)).trans (State.endLoad_cfg _ _)
    exact State.doIf_keeps (·.cfg) _ _ _ (fun _ => rfl)
  · simp [State.doIf, h6, State.setBp]

/-- An accepted image later: its sections wait, and a load with none to wait for ends at once (R471, R474). -/
theorem exec_cfgImageRead_later (hc : s.rejectCode readError (decide (s.boot.step = 6)) = 0) (h6 : s.boot.step ≠ 6) :
    exec (.cfgImageRead readError) s = .next ((s.loadWaits (s.checkImage s.cfg.glob s.cfg.partMask s.cfg.caddyMask)).doIf
      (s.loadWaits (s.checkImage s.cfg.glob s.cfg.partMask s.cfg.caddyMask)).loadIdle (·.endLoad 0)) :=
  (if_neg (imageRead_taken hl he hb h1)).trans ((if_neg (not_not.2 hc)).trans (if_neg (by simpa using h6)))

end

/-- The entries of an image are not those of CSR writes. -/
theorem State.checkImage_csr (s : State) (selG : Bool) (selP : BitVec 16) (selC : BitVec 4) :
    ∀ x ∈ (s.checkImage selG selP selC).parts, x.csr = false := by
  intro x hx
  obtain ⟨p, -, rfl⟩ := List.mem_map.1 hx
  rfl

/-- Nothing of a load waits just where it brings no section and no section of another load waits. -/
theorem State.loadWaits_loadIdle (s : State) (l : Load) (hp : ∀ x ∈ l.parts, x.csr = false) :
    (s.loadWaits l).loadIdle = true ↔ s.cfg.waitPart.all (·.csr) = true ∧ l.glob = none ∧ l.parts = [] ∧ l.caddies = [] := by
  have h : l.parts.all (·.csr) = true ↔ l.parts = [] := by
    cases hl : l.parts with
    | nil => simp
    | cons x r => simp [hp x (by simp [hl])]
  simp only [State.loadIdle, State.loadWaits, List.all_append, Bool.and_eq_true, h, List.isEmpty_iff, Option.isNone_iff_eq_none]
  tauto

/-- Every section of the start-up load has applied and none waits. -/
theorem State.applyStart_waitPart (s : State) (l : Load) : (s.applyStart l).cfg.waitPart = [] := by
  have ha : ∀ x : State, x.applyAll.cfg.waitPart = x.cfg.waitPart := fun x =>
    get_of_blanked Cfg.unreported Cfg.waitPart (fun _ => rfl) x.applyAll_cfg
  unfold State.applyStart
  extract_lets conf s0 s1 s2 s3 zero rest
  have h1 : s1.cfg.waitPart = [] := by
    unfold s1
    split
    · exact State.applyGlobal_waitPart _ _ _
    · rfl
  calc _ = (rest.foldl (fun s c => s.loadCaddy ⟨c, zero⟩) s3).cfg.waitPart := ha _
    _ = s3.cfg.waitPart := foldl_keeps (·.cfg.waitPart) (fun s c => s.loadCaddy ⟨c, zero⟩) (fun _ _ => rfl) _ _
    _ = s2.cfg.waitPart := foldl_keeps (·.cfg.waitPart) State.loadCaddy (fun _ _ => rfl) _ _
    _ = s1.cfg.waitPart := foldl_keeps (·.cfg.waitPart) _ (fun x l => x.applySection_waitPart l true) _ _
    _ = [] := h1

theorem State.afterStart_cfg (s : State) (l : Load) :
    ∃ c : Cfg, (s.afterStart l).cfg.unreported = ({ c.loadEnded 0 with sel := .all 0 } : Cfg).unreported ∧ c.waitPart = [] := by
  refine ⟨_, ?_, State.applyStart_waitPart { s with cfg := { s.cfg with notes := l.notes } } l⟩
  rw [State.afterStart_eq, State.bootLoaded_cfg]
  exact Cfg.unreported_sel (State.endLoad_cfg _ 0) _

/-- An accepted image at start-up applies whole, and the sequence goes on to step 8 (R501, R505). -/
theorem exec_cfgImageRead_start {s : State} {readError : Bool} (hl : s.live = true) (he : s.errored = false) (hb : s.cfg.busy = true)
    (h1 : s.cfg.state = 1) (hc : s.rejectCode readError (decide (s.boot.step = 6)) = 0) (h6 : s.boot.step = 6) :
    ∃ (t : State) (c : Cfg), exec (.cfgImageRead readError) s = .next t ∧ t.cfg.unreported = ({ c.loadEnded 0 with sel := .all 0 } : Cfg).unreported
      ∧ c.waitPart = [] ∧ t.boot.step = 8 ∧ t.boot.stall = 8 := by
  obtain ⟨c, ht, hw⟩ := s.afterStart_cfg (s.checkImage true 0xFFFF 0xF)
  have e : exec (.cfgImageRead readError) s = .next (s.afterStart (s.checkImage true 0xFFFF 0xF)) :=
    (if_neg (imageRead_taken hl he hb h1)).trans ((if_neg (not_not.2 hc)).trans (if_pos (decide_eq_true h6)))
  rw [State.afterStart_eq] at e ht
  exact ⟨_, c, e, ht, hw, State.bootLoaded_boot _⟩

end Sys2Proof.Machine
end

section
/-!
Writes of the configuration registers: RK_CFG_CTL, the partition table's words and the selected caddy (R7, R8, R419, R421, R470, R474, R495,
R498).
-/

namespace Sys2Proof.Machine
open Sys2Proof

/-! ## A write of the global block -/

/-- The lock closed, as a write of the management function or the debug port leaves it (R486). -/
def State.closed (s : State) : State := { s with csr := { s.csr with unlocked := .all false } }

theorem State.globalWrite_closed {s : State} {req : Requester} (f : Bool → State → State) (hl : s.live = true) (he : s.errored = false)
    (hr : ∀ p, req ≠ .part p) : s.globalWrite req f = (f s.isUnlocked s.closed).answer .ok := by
  have hc : s.relock req = s.closed := by
    cases req with
    | part p => exact absurd rfl (hr p)
    | mgmt => rfl
    | debug => rfl
  rw [State.globalWrite, State.busWrite_global s req false false f hl (.inl he) hr, hc]

/-- A write that the lock ignored: what `State.violated` says of the whole write. -/
theorem State.lockViolation_closed (s : State) : s.closed.lockViolation.answer .ok = s.violated := by
  cases h : !s.csr.lockViol && s.csr.lvIrq with
  | false => simp only [State.lockViolation, State.closed, State.doIf, State.answer, State.violated, h, Bool.false_eq_true, ite_false, List.append_nil]
  | true => simp only [State.lockViolation, State.closed, State.doIf, State.answer, State.violated, State.irqBlock, h, ite_true]

/-- A masked write of every bit of a field gives the bits written. -/
theorem merge_allOnes {n : Nat} (a b : BitVec n) : (a &&& ~~~ BitVec.allOnes n) ||| (b &&& BitVec.allOnes n) = b := by
  ext i hi; simp

/-! ## RK_CFG_CTL -/

/-- The fields of RK_CFG_CTL that a write gives (R495). -/
def Cfg.select (c : Cfg) (v : W64) : Cfg := { c with srcWin := bit v 56, caddyMask := fld v 52 4, partMask := fld v 32 16, glob := bit v 31 }

/-- FREEZE as a write of `b` leaves it: set once, under the lock (R486, R529). -/
def State.freezeAs (s : State) (u b : Bool) : State :=
  if !decide (b ≠ s.cfg.freeze) then s else if u && !s.cfg.freeze then { s with cfg := { s.cfg with freeze := true } } else s.lockViolation

/-- A write of every bit of RK_CFG_CTL: its fields, then FREEZE, CANCEL and GO. -/
theorem State.regCfgCtl_all (s : State) (u : Bool) (v : W64) :
    s.regCfgCtl u v (BitVec.allOnes 64)
      = ((({ s with cfg := s.cfg.select v } : State).freezeAs u (bit v 60)).doIf (bit v 62) (·.cancelLoad)).doIf (bit v 63) (·.startLoad) := by
  have h4 : fld (BitVec.allOnes 64) 52 4 = BitVec.allOnes 4 := by decide
  have h16 : fld (BitVec.allOnes 64) 32 16 = BitVec.allOnes 16 := by decide
  have hb : ∀ i, i < 64 → bit (BitVec.allOnes 64) i = true := fun i h => (BitVec.getLsbD_allOnes ..).trans (decide_eq_true h)
  simp only [State.regCfgCtl, h4, h16, hb 56 (by decide), hb 31 (by decide), hb 60 (by decide),
    hb 62 (by decide), hb 63 (by decide), merge_allOnes, ite_true, Bool.true_and, State.freezeAs, Cfg.select]
  rfl

theorem bit_setBit_self (w : W64) {i : Nat} (hi : i < 64) : bit (setBit w i true) i = true := by
  simp [setBit, hi]

theorem bit_setBit_ne (w : W64) {i j : Nat} (h : i ≠ j) : bit (setBit w i true) j = bit w j := by
  simp only [setBit, ite_true, bit, BitVec.getLsbD_or, BitVec.getLsbD_shiftLeft, BitVec.getLsbD_one]
  simp only [Bool.or_eq_left_iff_imp, Bool.and_eq_true, Bool.not_eq_true', decide_eq_true_eq, decide_eq_false_iff_not]
  omega

/-- A bit set outside the fields of RK_CFG_CTL leaves them. -/
theorem Cfg.select_setBit (c : Cfg) (v : W64) {i : Nat} (h : i = 60 ∨ i = 62 ∨ i = 63) : c.select (setBit v i true) = c.select v := by
  have hb : ∀ j, j < 60 → bit (setBit v i true) j = bit v j := fun j hj => bit_setBit_ne v (by omega)
  have hf : ∀ lo len, lo + len ≤ 60 → fld (setBit v i true) lo len = fld v lo len := by
    intro lo len h
    ext k hk
    rw [BitVec.getElem_extractLsb', BitVec.getElem_extractLsb']
    exact hb _ (by omega)
  rw [Cfg.select, hb 56 (by decide), hb 31 (by decide), hf 52 4 (by decide), hf 32 16 (by decide)]
  rfl

theorem State.lockViolation_cfg (s : State) : s.lockViolation.cfg = s.cfg :=
  State.doIf_keeps (·.cfg) _ _ _ (fun _ => rfl)

theorem State.freezeAs_settings (s : State) (u b : Bool) : (s.freezeAs u b).cfg.settings = s.cfg.settings := by
  unfold State.freezeAs
  split
  · rfl
  · split
    · rfl
    · rw [State.lockViolation_cfg]

theorem State.startLoad_settings (s : State) : s.startLoad.cfg.settings = s.cfg.settings := by
  unfold State.startLoad
  split <;> rfl

/-- The configuration once a load is cancelled: its sections are gone, entries of CSR writes still wait (R474). -/
def Cfg.cancelled (c : Cfg) : Cfg := { c.loadEnded 0 with waitPart := c.waitPart.filter (·.csr), waitCaddy := [], waitGlobal := none }

theorem State.cancelLoad_running {s : State} (hb : s.cfg.busy = true) (h3 : s.cfg.state = 3) :
    s.cancelLoad.cfg.unreported = s.cfg.cancelled.unreported := by
  have h : ¬(!s.cfg.busy || decide (s.cfg.state ≠ 3)) = true := by rw [hb, h3]; decide
  refine (congrArg (fun x : State => x.cfg.unreported) (if_neg h)).trans ?_
  exact State.endLoad_cfg _ _

theorem State.cancelLoad_idle {s : State} (h : s.cfg.busy = false ∨ s.cfg.state ≠ 3) : s.cancelLoad = s := by
  refine if_pos ?_
  rcases h with h | h
  · rw [h, Bool.not_false, Bool.true_or]
  · rw [decide_eq_true h, Bool.or_true]

theorem State.cancelLoad_settings (s : State) : s.cancelLoad.cfg.settings = s.cfg.settings := by
  by_cases h : s.cfg.busy = true ∧ s.cfg.state = 3
  · obtain ⟨hb, h3⟩ := h
    exact (get_of_blanked Cfg.unreported Cfg.settings (fun _ => rfl) (State.cancelLoad_running hb h3) : _ = s.cfg.cancelled.settings)
  · rw [State.cancelLoad_idle (by simpa [or_iff_not_imp_left] using h)]

/-- A taken write of every bit of RK_CFG_CTL. -/
def State.ctlWrite (s : State) (v : W64) : State := (s.closed.regCfgCtl s.isUnlocked v (BitVec.allOnes 64)).answer .ok

section
variable {s : State} {req : Requester} (hl : s.live = true) (he : s.errored = false) (hr : ∀ p, req ≠ .part p)
include hl he hr

theorem exec_cfgGo (value : W64) : exec (.cfgGo req value) s = .next (s.ctlWrite (setBit value 63 true)) :=
  congrArg Host.Outcome.next (State.globalWrite_closed _ hl he hr)

theorem exec_cfgCancel (value : W64) : exec (.cfgCancel req value) s = .next (s.ctlWrite (setBit value 62 true)) :=
  congrArg Host.Outcome.next (State.globalWrite_closed _ hl he hr)

theorem exec_freeze (value : W64) : exec (.freeze req value) s = .next (s.ctlWrite (setBit value 60 true)) :=
  congrArg Host.Outcome.next (State.globalWrite_closed _ hl he hr)

theorem exec_ptabWrite (p : PartId) (w : Fin 4) (value : W64) :
    exec (.ptabWrite req p w value) s = .next ((s.closed.regPtab s.isUnlocked p w value (BitVec.allOnes 64)).answer .ok) :=
  congrArg Host.Outcome.next (State.globalWrite_closed _ hl he hr)

theorem exec_caddySwitch (value : W32) :
    exec (.caddySwitch req value) s = .next ((s.closed.regCaddySel (value.setWidth 64) 0xFFFFFFFF).answer .ok) :=
  congrArg Host.Outcome.next (State.globalWrite_closed _ hl he hr)

end

/-- Whatever a write of RK_CFG_CTL starts, ends or is refused, its fields are taken and the table and the caddies stay. -/
theorem State.ctlWrite_settings (s : State) (v : W64) : (s.ctlWrite v).cfg.settings = (s.cfg.select v).settings := by
  have h := State.regCfgCtl_all s.closed s.isUnlocked v
  calc (s.ctlWrite v).cfg.settings = (s.closed.regCfgCtl s.isUnlocked v (BitVec.allOnes 64)).cfg.settings := rfl
    _ = _ := congrArg (fun x : State => x.cfg.settings) h
    _ = _ := State.doIf_keeps (·.cfg.settings) _ _ _ State.startLoad_settings
    _ = _ := State.doIf_keeps (·.cfg.settings) _ _ _ State.cancelLoad_settings
    _ = _ := State.freezeAs_settings _ _ _

/-- The state with the lock closed and the fields of RK_CFG_CTL as a write gives them. -/
def State.ctlFields (s : State) (v : W64) : State := { s.closed with cfg := s.cfg.select v }

theorem State.ctlFields_setBit (s : State) (v : W64) {i : Nat} (h : i = 60 ∨ i = 62 ∨ i = 63) :
    s.ctlFields (setBit v i true) = s.ctlFields v := by
  rw [State.ctlFields, Cfg.select_setBit _ _ h]
  rfl

/-- A write of RK_CFG_CTL as it meets the fields: then FREEZE, CANCEL and GO in this order. -/
theorem State.ctlWrite_eq (s : State) (v : W64) :
    s.ctlWrite v = ((((s.ctlFields v).freezeAs s.isUnlocked (bit v 60)).doIf (bit v 62)
      (·.cancelLoad)).doIf (bit v 63) (·.startLoad)).answer .ok :=
  congrArg (fun x : State => x.answer .ok) (State.regCfgCtl_all s.closed s.isUnlocked v)

theorem State.freezeAs_same {s : State} {u b : Bool} (h : b = s.cfg.freeze) : s.freezeAs u b = s := if_pos (by simp [h])

theorem State.freezeAs_open {s : State} {u : Bool} (hf : s.cfg.freeze = false) (hu : u = true) :
    s.freezeAs u true = { s with cfg := { s.cfg with freeze := true } } :=
  (if_neg (by simp [hf])).trans (if_pos (by simp [hf, hu]))

theorem State.freezeAs_closed {s : State} {u : Bool} (hf : s.cfg.freeze = false) (hu : u = false) : s.freezeAs u true = s.lockViolation :=
  (if_neg (by simp [hf])).trans (if_neg (by simp [hu]))

/-- GO alone. -/
theorem State.ctlWrite_go {s : State} {value : W64} (hf : bit value 60 = s.cfg.freeze) (hc : bit value 62 = false) :
    s.ctlWrite (setBit value 63 true) = (s.ctlFields value).startLoad.answer .ok := by
  have h60 : bit (setBit value 63 true) 60 = s.cfg.freeze := (bit_setBit_ne value (by decide)).trans hf
  have h62 : bit (setBit value 63 true) 62 = false := (bit_setBit_ne value (by decide)).trans hc
  rw [State.ctlWrite_eq, State.ctlFields_setBit _ _ (.inr (.inr rfl)), h60, h62, bit_setBit_self value (by decide),
    State.freezeAs_same (s := s.ctlFields value) (b := s.cfg.freeze) rfl]
  rfl

/-- CANCEL alone. -/
theorem State.ctlWrite_cancel {s : State} {value : W64} (hf : bit value 60 = s.cfg.freeze) (hg : bit value 63 = false) :
    s.ctlWrite (setBit value 62 true) = (s.ctlFields value).cancelLoad.answer .ok := by
  have h60 : bit (setBit value 62 true) 60 = s.cfg.freeze := (bit_setBit_ne value (by decide)).trans hf
  have h63 : bit (setBit value 62 true) 63 = false := (bit_setBit_ne value (by decide)).trans hg
  rw [State.ctlWrite_eq, State.ctlFields_setBit _ _ (.inr (.inl rfl)), h60, h63, bit_setBit_self value (by decide),
    State.freezeAs_same (s := s.ctlFields value) (b := s.cfg.freeze) rfl]
  rfl

/-- FREEZE alone. -/
theorem State.ctlWrite_freeze {s : State} {value : W64} (hc : bit value 62 = false) (hg : bit value 63 = false) :
    s.ctlWrite (setBit value 60 true) = ((s.ctlFields value).freezeAs s.isUnlocked true).answer .ok := by
  have h62 : bit (setBit value 60 true) 62 = false := (bit_setBit_ne value (by decide)).trans hc
  have h63 : bit (setBit value 60 true) 63 = false := (bit_setBit_ne value (by decide)).trans hg
  rw [State.ctlWrite_eq, State.ctlFields_setBit _ _ (.inl rfl), h62, h63, bit_setBit_self value (by decide)]
  rfl

/-! ## The partition table's words -/

/-- The words of an entry as a read returns them. -/
def State.ptabShadow (s : State) (p : PartId) : PtabWords := s.cfg.ptab[p].map (fun x => x.shadow.get)

/-- A word of an entry with the fields of a write, its reserved bits as they were (R7, R8). -/
def ptabMerge (old value : W64) (w : Fin 4) : W64 := (old &&& ~~~ptabFields[w]) ||| (value &&& ptabFields[w])

/-- The entry `words` of partition `p` in the shadows, waiting in place of an earlier one of a CSR write (R498). -/
def State.ptabWaits (s : State) (p : PartId) (words : PtabWords) : State :=
  { s with cfg := { s.cfg with
      ptab := s.cfg.ptab.set p ((s.cfg.ptab[p]).zipWith (fun (x : Sh (Tri W64)) (y : W64) => (⟨Tri.all y, x.force⟩ : Sh (Tri W64))) words)
      waitPart := s.cfg.waitPart.filter (fun (x : PartLoad) => !(x.csr && decide (x.part = p))) ++ [⟨p, words, none, true⟩] } }

theorem State.regPtab_same {s : State} (u : Bool) {p : PartId} {w : Fin 4} {value : W64}
    (h : ptabMerge (s.ptabShadow p)[w] value w = (s.ptabShadow p)[w]) : s.regPtab u p w value (BitVec.allOnes 64) = s := by
  simp only [State.regPtab, BitVec.allOnes_and]
  exact if_pos h

theorem State.regPtab_closed {s : State} {u : Bool} {p : PartId} {w : Fin 4} {value : W64}
    (h : ptabMerge (s.ptabShadow p)[w] value w ≠ (s.ptabShadow p)[w]) (hu : u = false ∨ s.cfg.freeze = true) :
    s.regPtab u p w value (BitVec.allOnes 64) = s.lockViolation := by
  simp only [State.regPtab, BitVec.allOnes_and]
  refine (if_neg h).trans (if_pos ?_)
  rcases hu with h | h <;> simp [h]

/-- The words that wait after a write that leaves `mine` in the entry: those of the checked fields, or `mine` where its EN is 0. -/
def State.ptabChecked (s : State) (p : PartId) (mine : PtabWords) : PtabWords :=
  if bit mine[0] 63 then wordsOf (resolveTable 1 [p] s.cfg.fwdReserve s.cfg.fwdStrain (s.tableDue.set p (checkPart 1 p mine).1)).1[p] else mine

theorem State.regPtab_open {s : State} {u : Bool} {p : PartId} {w : Fin 4} {value : W64}
    (h : ptabMerge (s.ptabShadow p)[w] value w ≠ (s.ptabShadow p)[w]) (hu : u = true) (hf : s.cfg.freeze = false) :
    ∃ es, s.regPtab u p w value (BitVec.allOnes 64)
      = (s.ptabWaits p (s.ptabChecked p ((s.ptabShadow p).set w (ptabMerge (s.ptabShadow p)[w] value w)))).clampAll es := by
  simp only [State.regPtab, BitVec.allOnes_and]
  exact ⟨_, (if_neg h).trans (if_neg (by simp [hu, hf]))⟩

theorem State.ptabWaits_shadow (s : State) (p : PartId) (words : PtabWords) (v : Fin 4) :
    ((s.ptabWaits p words).cfg.ptab[p])[v].shadow = .all words[v] := by
  simp [State.ptabWaits]

theorem State.ptabWaits_force (s : State) (p q : PartId) (words : PtabWords) (v : Fin 4) :
    ((s.ptabWaits p words).cfg.ptab[q])[v].force = ((s.cfg.ptab[q])[v]).force := by
  by_cases h : p = q
  · subst h; simp [State.ptabWaits]
  · exact congrArg (fun x : Vector (Sh (Tri W64)) 4 => x[v].force) (ptab_set_ne s.cfg.ptab _ h)

theorem State.ptabWaits_shadow_ne (s : State) {p q : PartId} (words : PtabWords) (v : Fin 4) (h : q ≠ p) :
    ((s.ptabWaits p words).cfg.ptab[q])[v].shadow = ((s.cfg.ptab[q])[v]).shadow :=
  congrArg (fun x : Vector (Sh (Tri W64)) 4 => x[v].shadow) (ptab_set_ne s.cfg.ptab _ (Ne.symm h))

theorem State.ptabWaits_read (s : State) (p : PartId) (words : PtabWords) : (s.ptabWaits p words).ptabShadow p = words := by
  refine Vector.ext fun i hi => ?_
  simp [State.ptabShadow, State.ptabWaits, Tri.get_all]

/-! ## The selected caddy -/

theorem State.record_cfg (s : State) (r : TraceRec) : (s.record r).cfg = s.cfg := by
  have h := congrArg State.cfg (State.record_frame s r 0x4000240008#48 (by decide))
  exact h

theorem State.traceUnpin_cfg (s t : State) : (s.traceUnpin t).cfg = t.cfg := by
  have h := congrArg State.cfg (State.traceUnpin_frame s t 0x4000240008#48 (by decide))
  exact h

/-- A write of RK_CADDY_SEL switches the selected caddy and nothing else of the configuration. -/
theorem State.regCaddySel_cfg (s : State) (value : W32) :
    (s.regCaddySel (value.setWidth 64) 0xFFFFFFFF).cfg = { s.cfg with sel := .all (fld value 0 2) } := by
  have hm : fld (0xFFFFFFFF : W64) 0 2 = BitVec.allOnes 2 := by decide
  have hv : fld (value.setWidth 64) 0 2 = fld value 0 2 := by
    ext i hi
    simp [BitVec.getElem_extractLsb']
    omega
  simp only [State.regCaddySel, State.traceUnpin_cfg, State.record_cfg, hm, hv, merge_allOnes]

end Sys2Proof.Machine
end

section
/-!
The rows of the configuration engine, and the statement that they load and apply it (R470 to R474, R495, R498).
-/

namespace Sys2Proof.Machine
open Sys2Proof

section
variable {s : State} {req : Requester} (hl : s.live = true) (he : s.errored = false) (hr : ∀ p, req ≠ .part p)

/-! ## RK_CFG_CTL -/

/-- A write that meets the fields of RK_CFG_CTL as `value` does leaves the table and the caddies and gives the fields. -/
theorem State.ctlWrite_fields (s : State) {v value : W64} (h : s.cfg.select v = s.cfg.select value) :
    (s.ctlWrite v).pins.resp = .ok ∧ (s.ctlWrite v).cfg.ptab = s.cfg.ptab ∧ (s.ctlWrite v).cfg.caddies = s.cfg.caddies
      ∧ (s.ctlWrite v).cfg.sel = s.cfg.sel ∧ (s.ctlWrite v).cfg.srcWin = bit value 56 ∧ (s.ctlWrite v).cfg.caddyMask = fld value 52 4
      ∧ (s.ctlWrite v).cfg.partMask = fld value 32 16 ∧ (s.ctlWrite v).cfg.glob = bit value 31 := by
  have hs := s.ctlWrite_settings v
  rw [h] at hs
  have hk : Cfg.Agree Cfg.settings (s.ctlWrite v).cfg (s.cfg.select value) := Cfg.agree_of_blanked hs
  exact ⟨rfl, hk Cfg.ptab fun _ => rfl, hk Cfg.caddies fun _ => rfl, hk Cfg.sel fun _ => rfl, hk Cfg.srcWin fun _ => rfl,
    hk Cfg.caddyMask fun _ => rfl, hk Cfg.partMask fun _ => rfl, hk Cfg.glob fun _ => rfl⟩

include hl he hr

theorem exec_ctl_fields {value : W64} {i : Instr} (hi : i ∈ [Instr.cfgGo req value, .cfgCancel req value, .freeze req value]) :
    ∃ v, exec i s = .next (s.ctlWrite v) ∧ s.cfg.select v = s.cfg.select value := by
  simp only [List.mem_cons, List.not_mem_nil, or_false] at hi
  obtain rfl | rfl | rfl := hi
  · exact ⟨_, exec_cfgGo hl he hr value, Cfg.select_setBit _ _ (.inr (.inr rfl))⟩
  · exact ⟨_, exec_cfgCancel hl he hr value, Cfg.select_setBit _ _ (.inr (.inl rfl))⟩
  · exact ⟨_, exec_freeze hl he hr value, Cfg.select_setBit _ _ (.inl rfl)⟩

/-- GO starts a load while none runs, from start-up step 6 on (R470, R471). -/
theorem exec_cfgGo_starts {value : W64} (hf : bit value 60 = s.cfg.freeze) (hc : bit value 62 = false) (hb : s.cfg.busy = false)
    (h6 : 6 ≤ s.boot.step.toNat) :
    exec (.cfgGo req value) s = .next { s.written with
      cfg := { s.cfg.select value with busy := true, state := 1, clamps := 0, writePos := 0, reject := 0, notes := [] }
      boot := if s.boot.step = 6 then { s.boot with stall := 0, detail := 0, bp := bp7 1 } else s.boot } := by
  have h : ¬(s.cfg.busy || decide (s.boot.step.toNat < 6)) = true := by simp [hb, h6]
  rw [exec_cfgGo hl he hr, State.ctlWrite_go hf hc]
  exact congrArg (fun x : State => Host.Outcome.next (x.answer .ok)) (if_neg h)

theorem exec_cfgGo_ignored {value : W64} (hf : bit value 60 = s.cfg.freeze) (hc : bit value 62 = false)
    (h : s.cfg.busy = true ∨ s.boot.step.toNat < 6) :
    exec (.cfgGo req value) s = .next { s.written with cfg := s.cfg.select value } := by
  have h : (s.cfg.busy || decide (s.boot.step.toNat < 6)) = true := by simpa using h
  rw [exec_cfgGo hl he hr, State.ctlWrite_go hf hc]
  exact congrArg (fun x : State => Host.Outcome.next (x.answer .ok)) (if_pos h)

/-- CANCEL drops what has not applied and ends the load (R474). -/
theorem exec_cfgCancel_ends {value : W64} (hf : bit value 60 = s.cfg.freeze) (hg : bit value 63 = false) (hb : s.cfg.busy = true)
    (h3 : s.cfg.state = 3) :
    ∃ t, exec (.cfgCancel req value) s = .next t ∧ t.cfg.unreported = (s.cfg.select value).cancelled.unreported := by
  rw [exec_cfgCancel hl he hr, State.ctlWrite_cancel hf hg]
  exact ⟨_, rfl, State.cancelLoad_running (s := s.ctlFields value) hb h3⟩

theorem exec_cfgCancel_ignored {value : W64} (hf : bit value 60 = s.cfg.freeze) (hg : bit value 63 = false)
    (h : s.cfg.busy = false ∨ s.cfg.state ≠ 3) :
    exec (.cfgCancel req value) s = .next { s.written with cfg := s.cfg.select value } := by
  rw [exec_cfgCancel hl he hr, State.ctlWrite_cancel hf hg, State.cancelLoad_idle (s := s.ctlFields value) h]
  rfl

theorem exec_freeze_again {value : W64} (hc : bit value 62 = false) (hg : bit value 63 = false) (hf : s.cfg.freeze = true) :
    exec (.freeze req value) s = .next { s.written with cfg := s.cfg.select value } := by
  rw [exec_freeze hl he hr, State.ctlWrite_freeze hc hg, State.freezeAs_same (s := s.ctlFields value) hf.symm]
  rfl

/-- FREEZE is set once, under the open lock (R486, R495, R529). -/
theorem exec_freeze_sets {value : W64} (hc : bit value 62 = false) (hg : bit value 63 = false) (hf : s.cfg.freeze = false)
    (hu : s.isUnlocked = true) :
    exec (.freeze req value) s = .next { s.written with cfg := { s.cfg.select value with freeze := true } } := by
  rw [exec_freeze hl he hr, State.ctlWrite_freeze hc hg, State.freezeAs_open (s := s.ctlFields value) hf hu]
  rfl

theorem exec_freeze_violates {value : W64} (hc : bit value 62 = false) (hg : bit value 63 = false) (hf : s.cfg.freeze = false)
    (hu : s.isUnlocked = false) : exec (.freeze req value) s = .next { s.violated with cfg := s.cfg.select value } := by
  rw [exec_freeze hl he hr, State.ctlWrite_freeze hc hg, State.freezeAs_closed (s := s.ctlFields value) hf hu]
  exact congrArg Host.Outcome.next (State.lockViolation_closed { s with cfg := s.cfg.select value })

/-! ## The partition table's words -/

theorem exec_ptabWrite_same {p : PartId} {w : Fin 4} {value : W64} (h : ptabMerge (s.ptabShadow p)[w] value w = (s.ptabShadow p)[w]) :
    exec (.ptabWrite req p w value) s = .next s.written := by
  rw [exec_ptabWrite hl he hr, State.regPtab_same (s := s.closed) _ h]
  rfl

theorem exec_ptabWrite_violates {p : PartId} {w : Fin 4} {value : W64} (h : ptabMerge (s.ptabShadow p)[w] value w ≠ (s.ptabShadow p)[w])
    (hu : s.isUnlocked = false ∨ s.cfg.freeze = true) : exec (.ptabWrite req p w value) s = .next s.violated := by
  rw [exec_ptabWrite hl he hr, State.regPtab_closed (s := s.closed) h hu, State.lockViolation_closed]

/-- A partition word's fields go to the entry's shadows, checked, and wait (R498). -/
theorem exec_ptabWrite_waits {p : PartId} {w : Fin 4} {value : W64} (h : ptabMerge (s.ptabShadow p)[w] value w ≠ (s.ptabShadow p)[w])
    (hu : s.isUnlocked = true) (hf : s.cfg.freeze = false) :
    ∃ t, exec (.ptabWrite req p w value) s = .next t ∧ t.pins.resp = .ok ∧ t.cfg.unreported
      = (s.ptabWaits p (s.ptabChecked p ((s.ptabShadow p).set w (ptabMerge (s.ptabShadow p)[w] value w)))).cfg.unreported := by
  obtain ⟨es, e⟩ := State.regPtab_open (s := s.closed) h hu hf
  rw [exec_ptabWrite hl he hr, e]
  exact ⟨_, rfl, rfl, State.clampAll_cfg _ es⟩

end

end Sys2Proof.Machine
end

section
/-!
The configuration statement, row by row (R470 to R474, R495, R498).
-/

namespace Sys2Proof.Machine
open Sys2Proof

/-- Settles O58, row by row: `hk` reads, of the state a row ends in, what neither the clamp report nor the progress of a load touches. -/
theorem configurationLoadsAndApplies : Obligations.ConfigurationLoadsAndApplies := by
  intro req s hl he set
  refine ⟨fun hr => ⟨fun value i hi => ?fields, fun value hf hc => ⟨?go, ?goIgnored⟩, fun value hf hg => ⟨?cancel, ?cancelIgnored⟩,
    fun value hc hg => ⟨?again, ?sets, ?violates⟩, fun p w value => ⟨?same, ?closed, ?waits⟩, fun value => ?caddySwitch⟩, ?idle,
    fun readError hb h1 => ⟨fun hc => ?bad, fun hc h6 => ?start, fun hc h6 hn => ?later, fun hc h6 hg hp hd hw => ?empty⟩,
    fun g hg => ⟨?globalWaits, fun hb hh => ?global⟩, fun p l hf => ⟨?partWaits, fun hp => ?part⟩, fun c l hf => ⟨?caddyWaits, fun hp => ?caddy⟩⟩
  case fields =>
    obtain ⟨v, e, hv⟩ := exec_ctl_fields hl he hr hi
    exact ⟨_, e, s.ctlWrite_fields hv⟩
  case go => exact exec_cfgGo_starts hl he hr hf hc
  case goIgnored => exact exec_cfgGo_ignored hl he hr hf hc
  case cancel =>
    intro hb h3
    obtain ⟨t, e, ht⟩ := exec_cfgCancel_ends hl he hr hf hg hb h3
    have hk : Cfg.Agree Cfg.unreported t.cfg (s.cfg.select value).cancelled := Cfg.agree_of_blanked ht
    exact ⟨t, e, hk Cfg.busy fun _ => rfl, hk Cfg.done fun _ => rfl, hk Cfg.state fun _ => rfl, hk Cfg.reject fun _ => rfl,
      hk Cfg.waitGlobal fun _ => rfl, hk Cfg.waitCaddy fun _ => rfl, hk Cfg.waitPart fun _ => rfl, hk Cfg.ptab fun _ => rfl,
      hk Cfg.caddies fun _ => rfl⟩
  case cancelIgnored => exact exec_cfgCancel_ignored hl he hr hf hg
  case again => exact exec_freeze_again hl he hr hc hg
  case sets => exact exec_freeze_sets hl he hr hc hg
  case violates => exact exec_freeze_violates hl he hr hc hg
  case same => exact exec_ptabWrite_same hl he hr
  case closed => exact exec_ptabWrite_violates hl he hr
  case waits =>
    intro h hu hf mine ck due
    obtain ⟨t, e, hresp, ht⟩ := exec_ptabWrite_waits hl he hr h hu hf
    have hk : Cfg.Agree Cfg.unreported t.cfg (s.ptabWaits p (s.ptabChecked p mine)).cfg := Cfg.agree_of_blanked ht
    have hptab := hk Cfg.ptab fun _ => rfl
    have hwait := hk Cfg.waitPart fun _ => rfl
    have hen : bit mine[(0 : Fin 4)] 63 = true → s.ptabChecked p mine = wordsOf due.1[p] := fun h1 => if_pos h1
    refine ⟨t, e, hresp, ?_⟩
    rw [hptab, hwait]
    refine ⟨fun h0 v => ?_, fun h1 v => ?_, fun h1 hdef hck hdue => ?_, fun q v => s.ptabWaits_force p q _ v,
      fun q v hq => s.ptabWaits_shadow_ne _ v hq, _, rfl, rfl, rfl, (s.ptabWaits_read p _).symm⟩
    · have hdis : s.ptabChecked p mine = mine := if_neg (Bool.not_eq_true _ ▸ h0)
      rw [State.ptabWaits_shadow, hdis]
    · rw [State.ptabWaits_shadow, hen h1]
    · rw [State.ptabWaits_shadow, hen h1, wordsOf_resolved h1 hdef hck hdue]
      exact congrArg Tri.all (Vector.getElem_set_self _)
  case caddySwitch => exact ⟨_, exec_caddySwitch hl he hr value, State.regCaddySel_cfg s.closed value, rfl⟩
  case idle => exact fun readError => exec_cfgImageRead_idle readError
  case bad =>
    obtain ⟨t, e, ht, hstall⟩ := exec_cfgImageRead_bad hl he hb h1 hc
    have hk : Cfg.Agree Cfg.unreported t.cfg (s.cfg.loadEnded _) := Cfg.agree_of_blanked ht
    exact ⟨t, e, hk Cfg.busy fun _ => rfl, hk Cfg.done fun _ => rfl, hk Cfg.reject fun _ => rfl, hk Cfg.ptab fun _ => rfl,
      hk Cfg.caddies fun _ => rfl, hstall⟩
  case start =>
    obtain ⟨t, c, e, ht, hwait, hstep, hstall⟩ := exec_cfgImageRead_start hl he hb h1 hc h6
    have hk : Cfg.Agree Cfg.unreported t.cfg ({ c.loadEnded 0 with sel := .all 0 } : Cfg) := Cfg.agree_of_blanked ht
    exact ⟨t, e, hk Cfg.busy fun _ => rfl, hk Cfg.done fun _ => rfl, hk Cfg.reject fun _ => rfl, hstep, hstall,
      congrArg Tri.get (hk Cfg.sel fun _ => rfl), (hk Cfg.waitPart fun _ => rfl).trans hwait⟩
  case later =>
    rw [exec_cfgImageRead_later hl he hb h1 hc h6, State.doIf, if_neg]
    · rfl
    · rw [State.loadWaits_loadIdle _ _ (State.checkImage_csr _ _ _ _)]
      rintro ⟨-, hg, hp, hd⟩
      exact hn.elim (· hg) (·.elim (· hp) (· hd))
  case empty =>
    have hi := (State.loadWaits_loadIdle s _ (State.checkImage_csr _ _ _ _)).2 ⟨hw, hg, hp, hd⟩
    have hk : Cfg.Agree Cfg.unreported _ _ :=
      Cfg.agree_of_blanked (State.endLoad_cfg (s.loadWaits (s.checkImage s.cfg.glob s.cfg.partMask s.cfg.caddyMask)) 0)
    refine ⟨_, (exec_cfgImageRead_later hl he hb h1 hc h6).trans (congrArg Host.Outcome.next (if_pos hi)), ?_⟩
    exact ⟨hk Cfg.busy fun _ => rfl, hk Cfg.done fun _ => rfl, hk Cfg.reject fun _ => rfl, hk Cfg.state fun _ => rfl, hk Cfg.ptab fun _ => rfl,
      hk Cfg.caddies fun _ => rfl⟩
  case globalWaits => exact exec_cfgSectionApply_global_waits hl he hg
  case global =>
    obtain ⟨t, e, ht, hpwr, harr, hfwd⟩ := exec_cfgSectionApply_global hl he hg hb hh
    have hk : Cfg.Agree Cfg.lasting t.cfg { (s.applyGlobal g false).cfg with waitGlobal := none } := Cfg.agree_of_blanked ht
    refine ⟨t, e, hk Cfg.waitGlobal fun _ => rfl, hpwr.trans (s.applyGlobal_pwr g false), harr.trans (s.applyGlobal_arr g false),
      (congrArg Fwd.hostPart hfwd).trans (s.applyGlobal_hostPart g false), fun hdown => ?_⟩
    rw [State.applyGlobal_down g false hdown] at hk
    exact ⟨hk Cfg.ringUp fun _ => rfl, hk Cfg.ringDown fun _ => rfl, hk Cfg.fwdLinks fun _ => rfl, hk Cfg.fwdReserve fun _ => rfl,
      hk Cfg.fwdBundles fun _ => rfl, hk Cfg.fwdStrain fun _ => rfl⟩
  case partWaits => exact exec_cfgSectionApply_part_waits hl he hf
  case part =>
    obtain ⟨t, e, ht⟩ := exec_cfgSectionApply_part hl he hf hp
    obtain rfl : l.part = p := of_decide_eq_true (List.find?_some hf :)
    intro src me words left
    have hk : Cfg.Agree Cfg.tabled t.cfg ((s.without l).tableTaken l).cfg := Cfg.agree_of_blanked ht
    have hptab := hk Cfg.ptab fun _ => rfl
    have hme : (s.without l).dueFields l = me := s.dueFields_without l
    have hleft : ∀ r, (s.without l).leftOf l.source ((s.without l).dueFields l) r = left r := fun r => by rw [hme]; rfl
    refine ⟨t, e, (hk Cfg.waitPart fun _ => rfl).trans (State.tableTaken_waitPart _ _),
      (hk Cfg.caddies fun _ => rfl).trans (State.tableTaken_caddies _ _), ?_, fun r hr => ?_, fun r hr hne v => ?_⟩
    · rw [hptab, State.tableTaken_self, State.dueWords_without]
      rfl
    · rw [hptab]
      exact State.tableTaken_kept (s.without l) l (hr.imp id fun ⟨h, hl⟩ => ⟨h, (hleft r).trans hl⟩)
    · rw [hptab, State.tableTaken_left (s.without l) l hr (fun h => hne ((hleft r).symm.trans h)) v, hleft r]
  case caddyWaits => exact exec_cfgSectionApply_caddy_waits hl he hf
  case caddy =>
    obtain ⟨t, e, ht⟩ := exec_cfgSectionApply_caddy hl he hf hp
    obtain rfl : l.caddy = c := of_decide_eq_true (List.find?_some hf :)
    have hk : Cfg.Agree Cfg.lasting t.cfg _ := Cfg.agree_of_blanked ht
    exact ⟨t, e, hk Cfg.waitCaddy fun _ => rfl, hk Cfg.ptab fun _ => rfl, hk Cfg.caddies fun _ => rfl⟩

end Sys2Proof.Machine
end

section
/-!
Reset, the reports of the links and the forced reset (R19, R392, R486, R524).
-/

namespace Sys2Proof.Machine
open Sys2Proof

/-! ## Reset -/

theorem reset_queue (q : QueueId) : State.reset.queue q = Queue.reset := by
  simp [State.queue, State.reset]

theorem reset_part (p : PartId) : State.reset.part p = Part.reset := by
  simp [State.part, State.reset]

theorem reset_sess (l : LinkId) : State.reset.sess l = Session.reset := by
  simp [State.sess, State.reset, Fwd.reset]

theorem reset_group (g : GroupRef) : State.reset.group? g = none := by
  simp [State.group?, State.core, State.reset, Setter.reset, Core.reset]

theorem reset_lists (i : Fin 4) : State.reset.steep.lists[i] = [] := by
  simp [State.reset]

/-- Settles O1. -/
theorem resetLeavesTheBlockEmpty : Obligations.ResetLeavesTheBlockEmpty := by
  refine ⟨rfl, rfl, rfl, rfl, rfl, rfl, rfl, rfl, rfl, rfl, rfl, rfl, rfl, rfl, rfl, rfl, rfl, fun q => ?queue, fun p => ?part, fun l => ?sess,
    reset_group, reset_lists⟩
  case queue => rw [reset_queue]; exact ⟨rfl, rfl, rfl⟩
  case part => rw [reset_part]; exact ⟨rfl, rfl, rfl⟩
  case sess => rw [reset_sess]; rfl

/-! ## The links -/

/-- The die's report on one link, at a time (R17). -/
def State.linkReport (s : State) (l : LinkId) (t : Nat) (b : Bool) : State :=
  let s := s.at t
  { s with pins := { s.pins with linkUp := setBit s.pins.linkUp l.val b } }

theorem State.openSess_pins (s : State) (l : LinkId) (peer : Option ChipId) :
    (s.openSess l peer).pins.linkUp = s.pins.linkUp ∧ (s.openSess l peer).pins.now = s.pins.now := by
  obtain ⟨-, -, -, -, h, -⟩ := Comp.same_die (State.openSess_frame s l peer _ (by decide))
  exact ⟨h, Comp.same_now (State.openSess_frame s l peer _ (by decide))⟩

theorem State.loseSess_pins (s : State) (env : Env) (l : LinkId) (reason : BitVec 4) :
    (s.loseSess env l reason).pins.linkUp = s.pins.linkUp ∧ (s.loseSess env l reason).pins.now = s.pins.now := by
  obtain ⟨-, -, -, -, h, -⟩ := Comp.same_die (State.loseSess_frame s env l reason _ (by decide))
  exact ⟨h, Comp.same_now (State.loseSess_frame s env l reason _ (by decide))⟩

theorem State.sess_congr {s t : State} (h : Comp.sess.same s t) (l : LinkId) : t.sess l = s.sess l :=
  congrArg (fun v : Vector Session 24 => v[l]) h

theorem State.dropWaiting_sess (s : State) (l k : LinkId) : (s.dropWaiting l).sess k = s.sess k :=
  State.sess_congr (Comp.same_sess (State.dropWaiting_frame s l _ (by decide))) k

theorem State.endCmds_sess (s : State) (l k : LinkId) (drain : Bool) (st : W16) : (s.endCmds l drain st).sess k = s.sess k :=
  State.sess_congr (Comp.same_sess (State.endCmds_frame s l drain st _ (by decide))) k

theorem State.ringFailed_sess (s : State) (l k : LinkId) : (s.ringFailed l).sess k = s.sess k :=
  State.sess_congr (Comp.same_sess (State.ringFailed_frame s l _ (by decide))) k

theorem State.boot9_sess (s : State) (k : LinkId) : s.boot9.sess k = s.sess k :=
  State.sess_congr (Comp.same_sess (State.boot9_frame s _ (by decide))) k

theorem State.downSess_sess (s : State) (l : LinkId) (reason : BitVec 4) :
    ((s.downSess l reason).sess l).reason = reason ∧ ((s.downSess l reason).sess l).state = ssDown := by
  rw [State.downSess, State.dropWaiting_sess, State.sess_updSess]
  exact ⟨rfl, rfl⟩

/-- A session over which no query is out is DOWN once lost (R392). -/
theorem State.loseSess_sess {s : State} {env : Env} {l : LinkId} (reason : BitVec 4) (h : s.leashesOn l = []) :
    ((s.loseSess env l reason).sess l).reason = reason ∧ ((s.loseSess env l reason).sess l).state = ssDown := by
  have hd : (s.dropSess env l reason).sess l = (s.downSess l reason).sess l := by
    simp only [State.dropSess, h, State.loseOwners_nil, State.endCmds_sess]
    exact State.doIf_keeps (·.sess l) _ _ _ fun _ => rfl
  rw [State.loseSess, State.boot9_sess, State.ringFailed_sess, hd]
  exact s.downSess_sess l reason

/-- LINK_UP takes the report, and opens the link's session where it may train (R17, R382). -/
theorem exec_linkUp (l : LinkId) (t : Nat) (s : State) :
    exec (.linkUp l t) s = .next (s.linkReport l t true)
      ∨ exec (.linkUp l t) s = .next ((s.linkReport l t true).openSess l ((s.linkReport l t true).sess l).lastPeer) := by
  rw [show exec (.linkUp l t) s = execLinkUp l t s from rfl, execLinkUp]
  split
  · exact .inr rfl
  · exact .inl rfl

/-- LINK_DOWN takes the report; a block at work loses the link's session, or notes the reason where it is DOWN (R17, R392). -/
theorem exec_linkDown (l : LinkId) (t : Nat) (s : State) :
    exec (.linkDown l t) s
      = let s1 := s.linkReport l t false
        .next (if s.active = true ∧ (s1.sess l).state ≠ ssDown then s1.loseSess s1.env0 l rsLinkDown
          else if s.active = true then s1.updSess l (fun x => { x with reason := rsLinkDown }) else s1) := by
  rw [show exec (.linkDown l t) s = execLinkDown l t s from rfl, execLinkDown]
  simp only [State.linkReport, Bool.and_eq_true, decide_eq_true_eq]
  split
  · rename_i h
    exact congrArg Host.Outcome.next (if_pos h).symm
  · rename_i h
    refine Eq.trans ?_ (congrArg Host.Outcome.next (if_neg h).symm)
    exact (apply_ite Host.Outcome.next ..).symm

/-- Settles O12, by whether LINK_UP opens the link's session and whether LINK_DOWN finds one to lose. -/
theorem linkReportsReachTheSession : Obligations.LinkReportsReachTheSession := by
  intro l t s
  refine ⟨?up, _, exec_linkDown l t s, ?down⟩
  case up =>
    obtain h | h := exec_linkUp l t s
    · exact ⟨_, h, rfl, rfl⟩
    · exact ⟨_, h, State.openSess_pins ..⟩
  case down =>
    split
    · obtain ⟨hup, hnow⟩ := State.loseSess_pins (s.linkReport l t false) (s.linkReport l t false).env0 l rsLinkDown
      exact ⟨hup, hnow, fun _ hk => State.loseSess_sess (s := s.linkReport l t false) rsLinkDown hk⟩
    · rename_i hn
      split
      · rename_i ha
        have hd : ((s.linkReport l t false).sess l).state = ssDown := not_not.1 fun h => hn ⟨ha, h⟩
        refine ⟨rfl, rfl, fun _ _ => ?_⟩
        rw [State.sess_updSess]
        exact ⟨rfl, hd⟩
      · rename_i ha
        exact ⟨rfl, rfl, fun h => absurd h ha⟩

/-! ## The forced reset -/

theorem State.relock_closed (s : State) {req : Requester} (hr : ∀ p, req ≠ .part p) : s.relock req = s.closed := by
  cases req with
  | part p => exact absurd rfl (hr p)
  | mgmt => rfl
  | debug => rfl

theorem regBlkReset_open (s : State) : s.regBlkReset true 1 = { s with pins := { s.pins with forced := true, bypass := true } } := rfl

theorem regBlkReset_closed (s : State) : s.regBlkReset false 1 = s.lockViolation := rfl

/-- Settles O14, by whether the lock is open. -/
theorem forcedResetNeedsTheOpenLock : Obligations.ForcedResetNeedsTheOpenLock := by
  intro req s hl hr
  have e : exec (.blkReset req) s = .next ((s.closed.regBlkReset s.isUnlocked 1).answer .ok) := by
    refine congrArg Host.Outcome.next ?_
    rw [State.busWrite_global s req true false _ hl (.inr rfl) hr, State.relock_closed s hr]
  cases hu : s.isUnlocked with
  | true => exact ⟨_, e, by rw [hu]; exact ⟨rfl, rfl, fun _ => ⟨rfl, rfl, rfl⟩, nofun⟩⟩
  | false =>
    refine ⟨s.violated, ?_, rfl, rfl, nofun, fun _ => ⟨rfl, rfl, rfl⟩⟩
    rw [e, hu, regBlkReset_closed, State.lockViolation_closed]

end Sys2Proof.Machine
end

section
/-!
Credit of the fabric ports, deliveries and acknowledged writes (R10, R11, R15, R189, R288).
-/

namespace Sys2Proof.Machine
open Sys2Proof

/-! ## Credit -/

theorem State.creditOf_congr {s t : State} (h : t.ret.credit = s.ret.credit) (port : PortId) (net : Net) (group : BitVec 12) :
    t.creditOf port net group = s.creditOf port net group := by
  simp only [State.creditOf, h]

/-- Entries of other keys do not decide what a key's entry is. -/
theorem findSome?_filter_key {α β : Type} [DecidableEq α] {a k : α} (h : k ≠ a) (l : List (α × β)) :
    (l.filter (fun e => decide (e.1 ≠ a))).findSome? (fun e => if e.1 = k then some e.2 else none)
      = l.findSome? (fun e => if e.1 = k then some e.2 else none) := by
  induction l with
  | nil => rfl
  | cons e r ih =>
    by_cases he : e.1 = a
    · have hk : e.1 ≠ k := fun x => h (x.symm.trans he)
      rw [List.filter_cons_of_neg (by simp [he]), ih, List.findSome?_cons, if_neg hk]
    · rw [List.filter_cons_of_pos (by simp [he]), List.findSome?_cons, List.findSome?_cons, ih]

theorem findSome?_filter_self {α β : Type} [DecidableEq α] (a : α) (l : List (α × β)) :
    (l.filter (fun e => decide (e.1 ≠ a))).findSome? (fun e => if e.1 = a then some e.2 else none) = none := by
  simp only [List.findSome?_eq_none_iff, List.mem_filter, decide_eq_true_eq]
  exact fun e he => if_neg he.2

theorem State.creditOf_setCredit (s : State) (port : PortId) (net : Net) (group : BitVec 12) (n : Nat) :
    (s.setCredit port net group n).creditOf port net group = n := by
  simp only [State.creditOf, State.setCredit]
  split
  · rename_i h
    rw [findSome?_filter_self, h]
    rfl
  · rw [List.findSome?_cons, if_pos rfl]
    rfl

theorem State.creditOf_setCredit_ne (s : State) {port a : PortId} {net b : Net} {group g : BitVec 12} (n : Nat)
    (h : (a, b, g) ≠ (port, net, group)) : (s.setCredit port net group n).creditOf a b g = s.creditOf a b g := by
  simp only [State.creditOf, State.setCredit]
  split
  · rw [findSome?_filter_key h]
  · rw [List.findSome?_cons, if_neg (Ne.symm h), findSome?_filter_key h]

theorem State.flushReplies_nil {s : State} (h : s.setter.replies = []) : s.flushReplies = s := by
  simp only [State.flushReplies, h, State.sendReplies]
  rw [← h]

/-! ## Deliveries -/

/-- The vector words of a delivery (R11, R117). -/
def State.delivSize (s : State) (d : Deliv) : Nat := match s.delivWords d with | some l => l.length | none => 16

/-- The message of a delivery (R11, R117). -/
def State.delivMsg (s : State) (port : PortId) (group : BitVec 12) (d : Deliv) : PortMsg :=
  match s.delivWords d with
  | some l => .probe port group l.length l
  | none => .delivery port group d.recs.length (laneRecords (d.recs.filterMap (fun i => (s.retEntry? i).map (·.record))))

/-- The delivery at the head of its cell group can go out: its partition works, its port is live and its credit is there (R10, R457). -/
def State.delivGoes (s : State) (port : PortId) (group : BitVec 12) (d : Deliv) : Prop :=
  s.delivHead port group = some d ∧ s.works (s.delivPart d) = true ∧ s.portLive port = true ∧ 1 ≤ s.creditOf port .control group
    ∧ s.delivSize d ≤ s.creditOf port .vector group

/-- The delivery is sent against its credit and is no longer held. -/
def State.delivSent (s : State) (port : PortId) (group : BitVec 12) (d : Deliv) : State :=
  let s1 := ((s.drawCredit port .control group 1).drawCredit port .vector group (s.delivSize d)).sendPort (s.delivMsg port group d)
  { s1 with ret := { s1.ret with delivs := s1.ret.delivs.erase d } }

theorem State.deliver_goes {s : State} {port : PortId} {group : BitVec 12} {d : Deliv} (h : s.delivGoes port group d) :
    s.deliver port group = d.recs.foldl State.freeEntry (s.delivSent port group d) := by
  obtain ⟨hd, hw, hp, hc, hv⟩ := h
  have hv' : decide (s.delivSize d ≤ s.creditOf port .vector group) = true := decide_eq_true hv
  simp only [State.deliver, hd]
  exact if_pos (by rw [hw, hp, decide_eq_true hc]; exact hv')

theorem State.delivSent_ret (s : State) (port : PortId) (group : BitVec 12) (d : Deliv) :
    (s.delivSent port group d).ret.delivs = s.ret.delivs.erase d := rfl

/-- A delivery draws one control token and its vector words (R10). -/
theorem State.delivSent_credit {s : State} {port : PortId} {group : BitVec 12} {d : Deliv} (h : s.delivGoes port group d) :
    (s.delivSent port group d).creditOf port .control group + 1 = s.creditOf port .control group
      ∧ (s.delivSent port group d).creditOf port .vector group + s.delivSize d = s.creditOf port .vector group := by
  obtain ⟨-, -, -, hc, hv⟩ := h
  let s1 := s.drawCredit port .control group 1
  have hcontrol : (s.delivSent port group d).creditOf port .control group = s1.creditOf port .control group :=
    State.creditOf_setCredit_ne s1 _ (by simp)
  have hvector : (s.delivSent port group d).creditOf port .vector group = s1.creditOf port .vector group - s.delivSize d :=
    State.creditOf_setCredit s1 port .vector group _
  have h1 : s1.creditOf port .control group = s.creditOf port .control group - 1 := State.creditOf_setCredit ..
  have h2 : s1.creditOf port .vector group = s.creditOf port .vector group := State.creditOf_setCredit_ne s _ (by simp)
  omega

/-- Freeing an entry leaves the credit and the deliveries. -/
theorem State.freeEntry_ret (s : State) (id : Nat) :
    (s.freeEntry id).ret.credit = s.ret.credit ∧ (s.freeEntry id).ret.delivs = s.ret.delivs := by
  simp only [State.freeEntry]
  split
  · exact ⟨rfl, rfl⟩
  · split <;> exact ⟨rfl, rfl⟩

theorem State.freeEntries_sent (l : List Nat) (s : State) : (l.foldl State.freeEntry s).pins.sent = s.pins.sent :=
  Comp.same_sent (foldl_frame State.freeEntry _ (fun x i => State.freeEntry_frame x i _ (by decide)) l s)

/-- What DELIVERY does with a delivery that can go out. -/
theorem State.deliver_sends {s : State} {port : PortId} {group : BitVec 12} {d : Deliv} (h : s.delivGoes port group d) :
    (s.deliver port group).pins.sent = s.pins.sent ++ [s.delivMsg port group d]
      ∧ (s.deliver port group).creditOf port .control group + 1 = s.creditOf port .control group
      ∧ (s.deliver port group).creditOf port .vector group + s.delivSize d = s.creditOf port .vector group
      ∧ (s.deliver port group).ret.delivs = s.ret.delivs.erase d := by
  have hcredit : (s.deliver port group).ret.credit = (s.delivSent port group d).ret.credit := by
    rw [State.deliver_goes h]
    exact foldl_keeps (·.ret.credit) State.freeEntry (fun x i => (x.freeEntry_ret i).1) _ _
  have hdelivs : (s.deliver port group).ret.delivs = (s.delivSent port group d).ret.delivs := by
    rw [State.deliver_goes h]
    exact foldl_keeps (·.ret.delivs) State.freeEntry (fun x i => (x.freeEntry_ret i).2) _ _
  have hsent : (s.deliver port group).pins.sent = (s.delivSent port group d).pins.sent := by
    rw [State.deliver_goes h, State.freeEntries_sent]
  rw [State.creditOf_congr hcredit, State.creditOf_congr hcredit, hsent, hdelivs]
  exact ⟨rfl, (State.delivSent_credit h).1, (State.delivSent_credit h).2, rfl⟩

/-! ## The rows -/

theorem exec_fabricCredit {s : State} (hl : s.live = true) (port : PortId) (net : Net) (group : BitVec 12) (words : Nat) :
    exec (.fabricCredit port net group words) s
      = .next ((s.setCredit port net group (s.creditOf port net group + words)).doIf s.ready State.flushReplies) :=
  if_pos hl

/-- An acknowledged write leaves its list, and the bytes that wait for it are visible once they may be (R15, R288). -/
def State.acked (s : State) (id : Nat) : State :=
  ({ s with ret := { s.ret with writes := s.ret.writes.filter (fun x => x.num != id) } }).ackPend id

theorem exec_memoryWriteAck {s : State} {id : Nat} {w : MemWrite} (hl : s.live = true) (hw : s.ret.writes.find? (fun x => x.num == id) = some w) :
    exec (.memoryWriteAck id) s = match w.who with
      | .entry e => .next ((s.acked id).freeEntry e)
      | .command c => .next ((s.acked id).updCmd c (fun x => { x with writes := x.writes - 1 }))
      | .group core slot => .next ((s.acked id).groupAck ⟨core, slot⟩)
      | .nobody => .next (s.acked id) := by
  rw [show exec (.memoryWriteAck id) s = execMemoryWriteAck id s from rfl, execMemoryWriteAck, if_neg (by simp [hl]), hw]
  rfl

/-- Settles O36, row by row: a grant that finds no reply waiting, one in a ready block, a delivery, its expiry, and who waits for a write. -/
theorem creditIsGrantedAndDrawn : Obligations.CreditIsGrantedAndDrawn := by
  intro port group s
  refine ⟨fun net words hl => ⟨fun hr => ?grant, fun hd => ?flush⟩, fun d hd he => ?delivery, fun time d hd ht he => ?expiry,
    fun id w hl hw => ?ack⟩
  case grant =>
    let granted := s.setCredit port net group (s.creditOf port net group + words)
    have e : granted.doIf s.ready State.flushReplies = granted := by
      unfold State.doIf
      split
      · exact State.flushReplies_nil hr
      · rfl
    rw [exec_fabricCredit hl, e]
    exact ⟨_, rfl, State.creditOf_setCredit .., fun a b g h => State.creditOf_setCredit_ne s _ h⟩
  case flush => rw [exec_fabricCredit hl, State.doIf, if_pos hd]
  case delivery => exact ⟨_, if_pos hd, State.deliver_sends he⟩
  case expiry => exact ⟨_, if_pos (by rw [hd, ht]; rfl), State.deliver_sends he⟩
  case ack =>
    rw [exec_memoryWriteAck hl hw]
    exact ⟨fun e h => by rw [h]; rfl, fun c h => by rw [h]; rfl, fun k g h => by rw [h]; rfl, fun h => by rw [h]; rfl⟩

end Sys2Proof.Machine
end

section
/-!
Accesses of the control bus: the checks every access passes, and the word it reads or writes (R21, R477, R479, R485, R488, R513, R521).
-/

namespace Sys2Proof.Machine
open Sys2Proof

/-! ## The word of an access -/

theorem accOk_iff (a : Access) :
    accOk a = true ↔ (a.size = .w32 ∧ a.off.toNat % 4 = 0) ∨ (a.size = .w64 ∧ a.off.toNat % 8 = 0) := by
  cases h : a.size <;> simp [accOk, h]

theorem accUpper_iff (a : Access) : accUpper a = true ↔ a.size = .w32 ∧ a.off.toNat % 8 = 4 := by
  simp [accUpper]

theorem accTake_eq (a : Access) (w : W64) : accTake a w
    = if a.size = .w64 then w else if a.size = .w32 ∧ a.off.toNat % 8 = 4 then (fld w 32 32).setWidth 64 else (fld w 0 32).setWidth 64 := by
  simp only [accTake, accUpper_iff]

theorem accData_eq (a : Access) : accData a = if a.size = .w32 ∧ a.off.toNat % 8 = 4 then a.data <<< 32 else a.data := by
  simp only [accData, accUpper_iff]

theorem accMask_eq (a : Access) : accMask a = if a.size = .w64 then 0xFFFFFFFFFFFFFFFF
    else if a.size = .w32 ∧ a.off.toNat % 8 = 4 then 0xFFFFFFFF00000000 else 0xFFFFFFFF := by
  simp only [accMask, accUpper_iff]
  rfl

theorem accPage_global {a : Access} (h : a.off.toNat < 0xF0000) : accPage a = none := if_pos h

theorem accPage_page {a : Access} {p : PartId} {b : Nat} (hb : b < 0x1000) (h : a.off.toNat = 0xF0000 + 0x1000 * p.val + b) :
    accPage a = some p := by
  have hn : (a.off.toNat - 0xF0000) / 4096 = p.val := by omega
  rw [accPage, if_neg (by omega), hn]
  exact congrArg some (Fin.ext (by simp))

theorem accWord_page {a : Access} {p : PartId} {b : Nat} (hb : b < 0x1000) (h : a.off.toNat = 0xF0000 + 0x1000 * p.val + b) :
    accWord a % 4096 = b / 8 * 8 := by
  rw [accWord]
  omega

/-! ## Requester rights -/

/-- The requester reaches what it accesses: the page of its own partition, and the global block to read (R477). -/
def reaches (req : Requester) (page : Option PartId) (write : Bool) : Prop :=
  ∀ q, req = .part q → page = some q ∨ (page = none ∧ write = false)

theorem State.gate_go {s : State} {req : Requester} {page : Option PartId} {write : Bool} (hl : s.live = true) (h : reaches req page write) :
    s.gate req page write = .go := by
  cases req with
  | mgmt => simp [State.gate, hl]
  | debug => simp [State.gate, hl]
  | part q =>
    obtain h | ⟨h, hw⟩ := h q rfl
    · simp [State.gate, hl, h]
    · simp [State.gate, hl, h, hw]

theorem State.gate_refused {s : State} {q : PartId} {page : Option PartId} {write : Bool} (hl : s.live = true) (hp : page ≠ some q)
    (hw : page = none → write = true) : s.gate (.part q) page write = .refused s.busXpart := by
  cases page with
  | none => simp [State.gate, hl, hw rfl]
  | some p => simpa [State.gate, hl] using hp

/-! ## Writes -/

theorem State.busWrite_refused {s u : State} {req : Requester} {page : Option PartId} (inError inReset : Bool) (f : Bool → State → State)
    (h : s.gate req page true = .refused u) : s.busWrite req page inError inReset f = u := by
  simp only [State.busWrite, h]

theorem State.busWrite_errored {s : State} {req : Requester} {page : Option PartId} (inReset : Bool) (f : Bool → State → State)
    (hl : s.live = true) (hr : reaches req page true) (he : s.errored = true) : s.busWrite req page false inReset f = s.answer .ok := by
  simp [State.busWrite, State.gate_go hl hr, he]

theorem State.relock_pageClosed (s : State) (req : Requester) (page : Option PartId) : (s.relock req).pageClosed page = s.pageClosed page := by
  rw [State.relock_eq]
  rfl

theorem State.busWrite_closed {s : State} {req : Requester} {page : Option PartId} (inError : Bool) (f : Bool → State → State)
    (hl : s.live = true) (hr : reaches req page true) (he : s.errored = false) (hp : s.pageClosed page = true) :
    s.busWrite req page inError false f = (s.relock req).answer .ok := by
  simp [State.busWrite, State.gate_go hl hr, he, State.relock_pageClosed, hp]

theorem State.busWrite_acts {s : State} {req : Requester} {page : Option PartId} (inError : Bool) {inReset : Bool} (f : Bool → State → State)
    (hl : s.live = true) (hr : reaches req page true) (he : s.errored = false) (hp : s.pageClosed page = false ∨ inReset = true) :
    s.busWrite req page inError inReset f = (f s.isUnlocked (s.relock req)).answer .ok := by
  have hc : ((s.relock req).pageClosed page && !inReset) = false := by
    rw [State.relock_pageClosed]
    rcases hp with h | h <;> simp [h]
  simp [State.busWrite, State.gate_go hl hr, he, hc]

/-! ## Votes on what is read -/

theorem State.vote_agreed {α : Type} [DecidableEq α] (s : State) (item : Nat) {t : Tri α} (put : State → Tri α → State) (lost : State → State)
    (h : t.agree = true) : s.vote item t put lost = s := if_pos h

theorem State.doIf_same {s : State} {f : State → State} (b : Bool) (h : f s = s) : s.doIf b f = s := by
  cases b
  · rfl
  · exact h

/-- A read finds nothing to correct where the copies of every voted item agree (R485). -/
theorem State.voteRead_agreed {s : State} (base : Nat) (m : W64) (h : s.votesAgree) : s.voteRead base m = s := by
  obtain ⟨hptab, hbase, hepoch, hsel, hlock, hcaps⟩ := h
  simp only [State.voteRead]
  split
  · exact State.vote_agreed s _ _ _ (hptab _ _).2
  · split
    · exact State.doIf_same _ (State.vote_agreed s _ _ _ hcaps)
    · exact State.doIf_same _ (State.vote_agreed s _ _ _ hlock)
    · exact State.doIf_same _ (State.vote_agreed s _ _ _ hsel)
    · exact State.doIf_same _ (State.vote_agreed s _ _ _ hbase)
    · exact State.doIf_same _ (State.vote_agreed s _ _ _ hepoch)
    · rfl

/-! ## The rows -/

theorem exec_csrWrite_bad {a : Access} (env : Env) (s : State) (h : ¬ accOk a = true) :
    exec (.csrWrite a env) s = .next ((s.at env.t).answer .error) := if_pos (by simpa using h)

theorem exec_csrReadClear_bad {a : Access} (s : State) (h : ¬ accOk a = true) : exec (.csrReadClear a) s = .next (s.answer .error) :=
  if_pos (by simpa using h)

section
variable {a : Access} (ha : accOk a = true)
include ha

theorem exec_csrWrite_global (env : Env) (s : State) (hp : accPage a = none) : exec (.csrWrite a env) s = .next ((s.at env.t).busWrite a.req none
    ((s.at env.t).actsInError (accWord a)) false (fun u s => s.globalPut env u (accWord a) (accData a) (accMask a))) := by
  rw [show exec (.csrWrite a env) s = execCsrWrite a env s from rfl, execCsrWrite, if_neg (by simp [ha]), hp]

theorem exec_csrWrite_page (env : Env) (s : State) {p : PartId} (hp : accPage a = some p) : exec (.csrWrite a env) s = .next ((s.at env.t).busWrite
    a.req (some p) false (accWord a % 4096 == 0x400) (fun _ s => s.pagePut env p (accWord a % 4096) (accData a) (accMask a))) := by
  rw [show exec (.csrWrite a env) s = execCsrWrite a env s from rfl, execCsrWrite, if_neg (by simp [ha]), hp]

theorem exec_csrReadClear_refused {s u : State} (h : s.gate a.req (accPage a) false = .refused u) : exec (.csrReadClear a) s = .next u := by
  rw [show exec (.csrReadClear a) s = execCsrReadClear a s from rfl, execCsrReadClear, if_neg (by simp [ha]), h]

theorem exec_csrReadClear {s : State} (hl : s.live = true) (h : reaches a.req (accPage a) false) :
    exec (.csrReadClear a) s = .next (s.readWord a) := by
  rw [show exec (.csrReadClear a) s = execCsrReadClear a s from rfl, execCsrReadClear, if_neg (by simp [ha]), State.gate_go hl h]

end

/-- A read of the global block: of the RO fields for a partition function, and it clears for the management function alone (R477, R479). -/
theorem State.readWord_global {a : Access} (s : State) (hp : accPage a = none) :
    let v := s.voteRead (accWord a) (accMask a)
    let w := v.globalImage (accWord a)
    s.readWord a = match a.req with
      | .mgmt => (v.globalClear (accWord a) (accMask a)).answer (.data (accTake a w))
      | .debug => v.answer (.data (accTake a w))
      | .part _ => v.answer (.data (accTake a (w &&& globalRo (accWord a)))) := by
  cases hr : a.req <;> simp [State.readWord, accClears, hp, hr, State.doIf]

/-- A read of a partition's page clears for everyone but the debug port (R479). -/
theorem State.readWord_page {a : Access} (s : State) {p : PartId} (hp : accPage a = some p) :
    let b := accWord a % 4096
    s.readWord a = (if a.req = .debug then s else s.pageClear p b (accMask a)).answer (.data (accTake a (s.pageImage p b))) := by
  cases hr : a.req <;> simp [State.readWord, accClears, hp, hr, State.doIf]

/-! ## RK_CFG_SRC -/

theorem packed_src (d : W64) : pack64 [(12, 0), (40, (fld d 12 40).toNat)] = d &&& 0x000FFFFFFFFFF000 := by
  have h : pack64 [(12, 0), (40, (fld d 12 40).toNat)] = (fld d 12 40).setWidth 64 <<< 12 := by
    apply BitVec.eq_of_toNat_eq
    have := (fld d 12 40).isLt
    simp only [pack64, packN, BitVec.toNat_ofNat, BitVec.toNat_shiftLeft, BitVec.toNat_setWidth, Nat.shiftLeft_eq]
    omega
  rw [h]
  ext i hi
  simp only [fld, BitVec.getElem_shiftLeft, BitVec.getElem_and, BitVec.getElem_setWidth, BitVec.getLsbD_extractLsb']
  interval_cases i <;> simp

/-- A 64-bit write of RK_CFG_SRC gives SRC, and the register then reads as written but for its reserved bits (R495). -/
theorem State.globalPut_src (s : State) (env : Env) (u : Bool) (d : W64) :
    (s.globalPut env u 0x48 d (BitVec.allOnes 64)).cfg.src = fld d 12 40
      ∧ (s.globalPut env u 0x48 d (BitVec.allOnes 64)).globalImage 0x48 = d &&& 0x000FFFFFFFFFF000 := by
  have hs : (s.globalPut env u 0x48 d (BitVec.allOnes 64)).cfg.src = fld d 12 40 := by
    have hm : fld (BitVec.allOnes 64 : W64) 12 40 = BitVec.allOnes 40 := by decide
    change mixF d (BitVec.allOnes 64) 12 s.cfg.src = _
    rw [mixF, hm, merge_allOnes]
  refine ⟨hs, ?_⟩
  change pack64 [(12, 0), (40, (s.globalPut env u 0x48 d (BitVec.allOnes 64)).cfg.src.toNat)] = _
  rw [hs, packed_src]

/-! ## The statement -/

/-- The response to an access that R477 refuses is an error, and XPART counts it. -/
theorem State.busXpart_eq (s : State) :
    s.busXpart = { s with csr := { s.csr with xpart := satInc s.csr.xpart }, pins := { s.pins with resp := .error } } := rfl

/-- Settles O57, by the check an access fails, the block or page it reaches, and who makes it. -/
theorem accessesReachTheirRegister : Obligations.AccessesReachTheirRegister := by
  intro a env s off word taken upper take data mask s1 refused
  have hok : accOk a = true ↔ taken := accOk_iff a
  have hdata : data = accData a := (accData_eq a).symm
  have hmask : mask = accMask a := (accMask_eq a).symm
  have htake : take = accTake a := funext fun w => (accTake_eq a w).symm
  clear_value mask data take
  subst hdata hmask htake
  have hat : s.live = true → (s.at env.t).live = true := id
  have hae : ∀ b, s.errored = b → (s.at env.t).errored = b := fun _ => id
  refine ⟨fun h => ⟨exec_csrWrite_bad env s (hok.not.2 h), exec_csrReadClear_bad s (hok.not.2 h)⟩, fun h hl hoff => ?global,
    fun h hl p b hb hoff => ?page⟩
  case global =>
    have ha := hok.2 h
    have hp := accPage_global hoff
    have hread : exec (.csrReadClear a) s = .next (s.readWord a) :=
      exec_csrReadClear ha hl fun q _ => .inr ⟨hp, rfl⟩
    have hword := State.readWord_global s hp
    refine ⟨State.voteRead_agreed word _, fun hr => ?_, fun hr => ?_, fun q hr => ⟨?_, ?_⟩,
      fun hr => ⟨fun he => ⟨?_, fun h48 hs => ?_⟩, fun he hn => ?_⟩⟩
    · rw [hread, hword, hr]
      rfl
    · rw [hread, hword, hr]
      rfl
    · rw [hread, hword, hr]
      rfl
    · rw [exec_csrWrite_global ha env s hp, hr, State.busWrite_refused _ _ _ (State.gate_refused (hat hl) (by simp) fun _ => rfl)]
      rfl
    all_goals have hgo : reaches a.req none true := fun q hq => absurd hq (hr q)
    · rw [exec_csrWrite_global ha env s hp, State.busWrite_acts _ _ (hat hl) hgo (hae _ he) (.inl rfl)]
      rfl
    · have hw : accWord a = 0x48 := by rw [accWord, show a.off.toNat = 0x48 from h48]
      have hd : accData a = a.data := by simp [accData, accUpper, hs]
      have hm : accMask a = BitVec.allOnes 64 := if_pos hs
      obtain ⟨hsrc, himage⟩ := State.globalPut_src ((s.at env.t).relock a.req) env s.isUnlocked a.data
      refine ⟨(((s.at env.t).relock a.req).globalPut env s.isUnlocked 0x48 a.data (BitVec.allOnes 64)).answer .ok, ?_, hsrc, himage⟩
      rw [exec_csrWrite_global ha env s hp, State.busWrite_acts _ _ (hat hl) hgo (hae _ he) (.inl rfl), hw, hd, hm]
      rfl
    · have hn : (s.at env.t).actsInError (accWord a) = false := hn
      rw [exec_csrWrite_global ha env s hp, hn, State.busWrite_errored _ _ (hat hl) hgo (hae _ he)]
  case page =>
    have ha := hok.2 h
    have hp := accPage_page hb hoff
    have hw := accWord_page hb hoff
    refine ⟨fun q hr hq => ⟨?_, ?_⟩, fun hr => ?_, fun hr => ⟨fun hd => ?_, fun he hc => ?_, fun he hc hb => ?_, fun he => ?_⟩⟩
    · refine exec_csrReadClear_refused ha (u := s.busXpart) ?_
      rw [hr, hp]
      exact State.gate_refused hl (by simpa using Ne.symm hq) (by simp)
    · rw [exec_csrWrite_page ha env s hp, hr, State.busWrite_refused _ _ _ (State.gate_refused (hat hl) (by simpa using Ne.symm hq) (by simp))]
      rfl
    · rw [exec_csrReadClear ha hl (by simp [reaches, hr]), State.readWord_page s hp, hw, if_pos hr]
    all_goals have hgo : ∀ write, reaches a.req (some p) write := fun _ q hq => .inl (congrArg some (hr q hq).symm)
    · rw [exec_csrReadClear ha hl (hp ▸ hgo false), State.readWord_page s hp, hw, if_neg hd]
    · rw [exec_csrWrite_page ha env s hp, hw, State.busWrite_acts _ _ (hat hl) (hgo true) (hae _ he) (hc.imp id fun h => beq_iff_eq.2 h)]
    · rw [exec_csrWrite_page ha env s hp, hw, beq_eq_false_iff_ne.2 hb, State.busWrite_closed _ _ (hat hl) (hgo true) (hae _ he) hc]
    · rw [exec_csrWrite_page ha env s hp, State.busWrite_errored _ _ (hat hl) (hgo true) (hae _ he)]

end Sys2Proof.Machine
end

section
/-!
The power controller (R24, R30, R399, R424).
-/

namespace Sys2Proof.Machine
open Sys2Proof

/-! ## Steps of 10 mV -/

theorem stepDown_toNat (v : Byte) : (stepDown v).toNat = max 120 (v.toNat - 2) := by
  have := v.isLt
  simp only [stepDown, BitVec.toNat_ofNat]
  omega

theorem stepTo_toNat {target : Nat} (ht : target < 256) (v : Byte) :
    (stepTo target v).toNat = if target < v.toNat then max target (v.toNat - 2) else v.toNat := by
  have := v.isLt
  unfold stepTo
  split
  · simp only [BitVec.toNat_ofNat]
    omega
  · rfl

theorem stepUp_toNat {target : Nat} (ht : target < 256) (v : Byte) :
    (stepUp target v).toNat = if v.toNat < target then min target (v.toNat + 2) else v.toNat := by
  unfold stepUp
  split
  · simp only [BitVec.toNat_ofNat]
    omega
  · rfl

/-- One step toward the target from either side (R399). -/
theorem stepTo_stepUp_toNat {target : Nat} (ht : target < 256) (v : Byte) :
    (stepTo target (stepUp target v)).toNat = if v.toNat < target then min target (v.toNat + 2)
      else if target < v.toNat then max target (v.toNat - 2) else v.toNat := by
  rw [stepTo_toNat ht, stepUp_toNat ht]
  by_cases h : v.toNat < target
  · rw [if_pos h, if_pos h, if_neg (by omega)]
  · rw [if_neg h, if_neg h]

theorem modeTarget_lt (m : BitVec 2) : modeTarget m < 256 := by
  unfold modeTarget
  split
  · decide
  · split <;> decide

/-! ## A decision -/

/-- The halves above their junction limit a step lower (R424). -/
def Pwr.cooled (x : Pwr) (hotW hotE : Bool) : Pwr :=
  { x with vWest := if hotW then stepDown x.vWest else x.vWest, vEast := if hotE then stepDown x.vEast else x.vEast }

/-- The voltage of a half after its cooling, in 5 mV. -/
theorem cooled_toNat (hot : Bool) {v : Byte} {n : Nat} (h : v.toNat = n) :
    (if hot then stepDown v else v).toNat = if hot then max 120 (n - 2) else n := by
  subst h
  cases hot
  · rfl
  · exact stepDown_toNat v

/-- Every voltage is at 0.60 V (R24). -/
def Pwr.lowest (x : Pwr) : Prop := x.vWest.toNat ≤ 120 ∧ x.vEast.toNat ≤ 120 ∧ x.vSetter.toNat ≤ 120

/-- The controller with the estimate it decides on. -/
def Pwr.estimated (x : Pwr) (watts : Nat) : Pwr := { x with estW := BitVec.ofNat 9 (min watts 511) }

section
variable {x : Pwr} {hotW hotE : Bool} {watts : Nat}

theorem powerDecide_over_down (h : modeLimit x.mode.force x.capW.toNat < watts) (hl : ¬ x.lowest) :
    powerDecide x hotW hotE watts = ({ x.estimated watts with
      overCap := true, vWest := stepDown x.vWest, vEast := stepDown x.vEast, vSetter := stepDown x.vSetter } : Pwr).cooled hotW hotE := by
  have hl' : (decide (x.vWest.toNat ≤ 120) && decide (x.vEast.toNat ≤ 120) && decide (x.vSetter.toNat ≤ 120)) = false := by
    simpa [Pwr.lowest, and_assoc] using hl
  simp only [powerDecide, h, hl', Pwr.cooled, Pwr.estimated, if_true, Bool.false_eq_true, if_false]

theorem powerDecide_over_lowest (h : modeLimit x.mode.force x.capW.toNat < watts) (hl : x.lowest) :
    powerDecide x hotW hotE watts = ({ x.estimated watts with
      overCap := true, frac := if x.frac.toNat ≤ 4 then 4 else x.frac - 1 } : Pwr).cooled hotW hotE := by
  obtain ⟨h1, h2, h3⟩ := hl
  simp only [powerDecide, h, h1, h2, h3, Pwr.cooled, Pwr.estimated, if_true, decide_true, Bool.and_self]

theorem powerDecide_under_frac (h : watts ≤ modeLimit x.mode.force x.capW.toNat)
    (hu : 100 * watts < 95 * modeLimit x.mode.force x.capW.toNat) (hf : x.frac.toNat < 16) :
    powerDecide x hotW hotE watts = ({ x.estimated watts with frac := x.frac + 1 } : Pwr).cooled hotW hotE := by
  simp only [powerDecide, not_lt.2 h, hu, hf, Pwr.cooled, Pwr.estimated, if_true, if_false]

theorem powerDecide_under_move (h : watts ≤ modeLimit x.mode.force x.capW.toNat)
    (hu : 100 * watts < 95 * modeLimit x.mode.force x.capW.toNat) (hf : 16 ≤ x.frac.toNat) :
    powerDecide x hotW hotE watts = (let move := fun v => stepTo (modeTarget x.mode.force) (stepUp (modeTarget x.mode.force) v)
      ({ x.estimated watts with
        vSetter := move x.vSetter
        vWest := if hotW then x.vWest else move x.vWest
        vEast := if hotE then x.vEast else move x.vEast } : Pwr).cooled hotW hotE) := by
  simp only [powerDecide, not_lt.2 h, hu, not_lt.2 hf, Pwr.cooled, Pwr.estimated, if_true, if_false]

theorem powerDecide_near (h : watts ≤ modeLimit x.mode.force x.capW.toNat)
    (hu : 95 * modeLimit x.mode.force x.capW.toNat ≤ 100 * watts) :
    powerDecide x hotW hotE watts = (let fall := stepTo (modeTarget x.mode.force)
      ({ x.estimated watts with vWest := fall x.vWest, vEast := fall x.vEast, vSetter := fall x.vSetter } : Pwr).cooled hotW hotE) := by
  simp only [powerDecide, not_lt.2 h, not_lt.2 hu, Pwr.cooled, Pwr.estimated, if_false]

end

/-- A decision takes the estimate, and leaves the mode and the cap; OVER_CAP stays set. -/
theorem powerDecide_rest (x : Pwr) (hotW hotE : Bool) (watts : Nat) :
    let y := powerDecide x hotW hotE watts
    y.estW = BitVec.ofNat 9 (min watts 511) ∧ y.mode = x.mode ∧ y.capW = x.capW
      ∧ y.overCap = (if modeLimit x.mode.force x.capW.toNat < watts then true else x.overCap) := by
  by_cases h : modeLimit x.mode.force x.capW.toNat < watts
  · rw [if_pos h]
    by_cases hl : x.lowest
    · rw [powerDecide_over_lowest h hl]
      exact ⟨rfl, rfl, rfl, rfl⟩
    · rw [powerDecide_over_down h hl]
      exact ⟨rfl, rfl, rfl, rfl⟩
  · rw [if_neg h]
    by_cases hu : 100 * watts < 95 * modeLimit x.mode.force x.capW.toNat
    · by_cases hf : x.frac.toNat < 16
      · rw [powerDecide_under_frac (not_lt.1 h) hu hf]
        exact ⟨rfl, rfl, rfl, rfl⟩
      · rw [powerDecide_under_move (not_lt.1 h) hu (not_lt.1 hf)]
        exact ⟨rfl, rfl, rfl, rfl⟩
    · rw [powerDecide_near (not_lt.1 h) (not_lt.1 hu)]
      exact ⟨rfl, rfl, rfl, rfl⟩

/-! ## POWER_ESTIMATE -/

theorem State.record_pwr (s : State) (r : TraceRec) : (s.record r).pwr = s.pwr :=
  Comp.same_pwr (State.record_frame s r _ (by decide))

theorem exec_powerEstimate {s : State} {t : Nat} (watts : Nat) (ha : s.active = true) (ht : s.timerFires .power t = true) :
    ∃ u, exec (.powerEstimate watts t) s = .next u ∧ u.pwr = powerDecide s.pwr s.pins.hotWest s.pins.hotEast watts := by
  refine ⟨_, if_pos (by rw [ha, ht]; rfl), ?_⟩
  exact State.doIf_keeps State.pwr _ _ _ fun x => State.record_pwr x _

/-- What POWER_ESTIMATE leaves in the power controller, voltages in 5 mV (R24, R30, R399, R424). -/
def Pwr.Controlled (x y : Pwr) (hotW hotE : Bool) (watts : Nat) : Prop :=
  let lim := if x.mode.force = 0 then 320 else x.capW.toNat
  let target := if x.mode.force = 0 then 180 else if x.mode.force = 2 then 136 else 156
  let low := x.vWest.toNat ≤ 120 ∧ x.vEast.toNat ≤ 120 ∧ x.vSetter.toNat ≤ 120
  let down := fun (v : Byte) => max 120 (v.toNat - 2)
  let fall := fun (v : Byte) => if target < v.toNat then max target (v.toNat - 2) else v.toNat
  let move := fun (v : Byte) => if v.toNat < target then min target (v.toNat + 2) else fall v
  let cool := fun (hot : Bool) (v : Nat) => if hot then max 120 (v - 2) else v
  y.estW = BitVec.ofNat 9 (min watts 511) ∧ y.mode = x.mode ∧ y.capW = x.capW
    ∧ (lim < watts → y.overCap = true
      ∧ (¬ low → y.frac = x.frac ∧ y.vSetter.toNat = down x.vSetter
        ∧ y.vWest.toNat = cool hotW (down x.vWest) ∧ y.vEast.toNat = cool hotE (down x.vEast))
      ∧ (low → y.frac = (if x.frac.toNat ≤ 4 then 4 else x.frac - 1) ∧ y.vSetter = x.vSetter
        ∧ y.vWest.toNat = cool hotW x.vWest.toNat ∧ y.vEast.toNat = cool hotE x.vEast.toNat))
    ∧ (watts ≤ lim → y.overCap = x.overCap
      ∧ (100 * watts < 95 * lim → x.frac.toNat < 16 → y.frac = x.frac + 1 ∧ y.vSetter = x.vSetter
        ∧ y.vWest.toNat = cool hotW x.vWest.toNat ∧ y.vEast.toNat = cool hotE x.vEast.toNat)
      ∧ (100 * watts < 95 * lim → 16 ≤ x.frac.toNat → y.frac = x.frac ∧ y.vSetter.toNat = move x.vSetter
        ∧ y.vWest.toNat = (if hotW then down x.vWest else move x.vWest)
        ∧ y.vEast.toNat = (if hotE then down x.vEast else move x.vEast))
      ∧ (95 * lim ≤ 100 * watts → y.frac = x.frac ∧ y.vSetter.toNat = fall x.vSetter
        ∧ y.vWest.toNat = cool hotW (fall x.vWest) ∧ y.vEast.toNat = cool hotE (fall x.vEast)))

/-- A half that does not move toward the target while it is hot, but falls. -/
theorem moved_toNat {target : Nat} (ht : target < 256) (hot : Bool) (v : Byte) :
    (if hot then stepDown (if hot then v else stepTo target (stepUp target v)) else if hot then v else stepTo target (stepUp target v)).toNat
      = if hot then max 120 (v.toNat - 2) else if v.toNat < target then min target (v.toNat + 2)
        else if target < v.toNat then max target (v.toNat - 2) else v.toNat := by
  cases hot
  · exact stepTo_stepUp_toNat ht v
  · exact stepDown_toNat v

theorem powerDecide_controlled (x : Pwr) (hotW hotE : Bool) (watts : Nat) : x.Controlled (powerDecide x hotW hotE watts) hotW hotE watts := by
  have ht := modeTarget_lt x.mode.force
  obtain ⟨hest, hmode, hcap, hover⟩ := powerDecide_rest x hotW hotE watts
  refine ⟨hest, hmode, hcap, fun h => ⟨hover.trans (if_pos h), fun hl => ?down, fun hl => ?lowest⟩,
    fun h => ⟨hover.trans (if_neg (not_lt.2 h)), fun hu hf => ?frac, fun hu hf => ?move, fun hu => ?near⟩⟩
  case down =>
    rw [powerDecide_over_down h hl]
    exact ⟨rfl, stepDown_toNat _, cooled_toNat _ (stepDown_toNat _), cooled_toNat _ (stepDown_toNat _)⟩
  case lowest =>
    rw [powerDecide_over_lowest h hl]
    exact ⟨rfl, rfl, cooled_toNat _ rfl, cooled_toNat _ rfl⟩
  case frac =>
    rw [powerDecide_under_frac h hu hf]
    exact ⟨rfl, rfl, cooled_toNat _ rfl, cooled_toNat _ rfl⟩
  case move =>
    rw [powerDecide_under_move h hu hf]
    exact ⟨rfl, stepTo_stepUp_toNat ht _, moved_toNat ht .., moved_toNat ht ..⟩
  case near =>
    rw [powerDecide_near h hu]
    exact ⟨rfl, stepTo_toNat ht _, cooled_toNat _ (stepTo_toNat ht _), cooled_toNat _ (stepTo_toNat ht _)⟩

end Sys2Proof.Machine
end

section
/-!
The trace switch and the block drain (R406, R410, R414, R416, R458).
-/

namespace Sys2Proof.Machine
open Sys2Proof

/-! ## Fields of a word with one bit set -/

theorem fld_setBit (w : W64) {i lo : Nat} (n : Nat) (h : i < lo) : fld (setBit w i true) lo n = fld w lo n := by
  ext k hk
  simp [fld, setBit, BitVec.getElem_extractLsb']
  omega

/-! ## TRACE_ENABLE -/

/-- The trace as a write of RK_TRACE_CTL with ENABLE 1 leaves it (R410). -/
def Trace.enabled (x : Trace) (value : W64) : Trace :=
  { x with
    enable := true, readPos := fld value 40 24, opMask := fld value 32 8, allParts := bit value 20, part := fld value 16 4, wrap := bit value 1
    ringBase := if x.enable then x.ringBase else x.base
    ringSize := if x.enable then x.ringSize else x.size
    writePos := if x.enable then x.writePos else 0 }

theorem State.regTraceCtl_enable (s : State) (value : W64) :
    s.regTraceCtl (setBit value 0 true) (BitVec.allOnes 64) = { s with trace := s.trace.enabled value } := by
  have h40 : fld (BitVec.allOnes 64 : W64) 40 24 = BitVec.allOnes 24 := by decide
  have h32 : fld (BitVec.allOnes 64 : W64) 32 8 = BitVec.allOnes 8 := by decide
  have h16 : fld (BitVec.allOnes 64 : W64) 16 4 = BitVec.allOnes 4 := by decide
  have h0 : bit (BitVec.allOnes 64 : W64) 0 = true := by decide
  have h1 : bit (BitVec.allOnes 64 : W64) 1 = true := by decide
  have h20 : bit (BitVec.allOnes 64 : W64) 20 = true := by decide
  have v0 : bit (setBit value 0 true) 0 = true := bit_setBit_self value (by decide)
  have v1 : bit (setBit value 0 true) 1 = bit value 1 := bit_setBit_ne value (by decide)
  have v20 : bit (setBit value 0 true) 20 = bit value 20 := bit_setBit_ne value (by decide)
  simp only [State.regTraceCtl, h40, h32, h16, h0, h1, h20, v0, v1, v20, merge_allOnes, BitVec.ofNat_toNat, BitVec.setWidth_eq, if_true,
    fld_setBit value _ (show 0 < 40 by decide), fld_setBit value _ (show 0 < 32 by decide), fld_setBit value _ (show 0 < 16 by decide),
    Bool.true_and, Trace.enabled]
  cases s.trace.enable <;> rfl

theorem exec_traceEnable {s : State} {req : Requester} (hl : s.live = true) (he : s.errored = false) (hr : ∀ p, req ≠ .part p) (value : W64) :
    exec (.traceEnable req value) s = .next { s.written with trace := s.trace.enabled value } := by
  refine congrArg Host.Outcome.next ?_
  rw [State.globalWrite_closed _ hl he hr, State.regTraceCtl_enable]
  rfl

/-! ## BLK_HEEL -/

/-- What a clamp entry leaves: all but the report and memory. -/
theorem State.clampWrite_rest (s : State) (off lo part v top dflt : Nat) :
    (s.clampWrite off lo part v top dflt).2.arr = s.arr ∧ (s.clampWrite off lo part v top dflt).2.steep = s.steep
      ∧ (s.clampWrite off lo part v top dflt).2.queues = s.queues := by
  simp only [State.clampWrite]
  split
  · exact ⟨rfl, rfl, rfl⟩
  · split
    · have h := State.clampEntry_frame s (regField off lo) 0 1 part v top 0x220000#48 (by decide)
      have harr := congrArg State.arr h
      exact ⟨harr, Comp.same_steep (State.clampEntry_frame s _ 0 1 part v top _ (by decide)),
        Comp.same_queues (State.clampEntry_frame s _ 0 1 part v top _ (by decide))⟩
    · exact ⟨rfl, rfl, rfl⟩

/-- RK_SCHED_CTL as a write leaves it that asks for a drain: the drain is under way, started anew where none was. -/
theorem State.regSchedCtl_heel (s : State) {v m : W64} (hv : bit v 31 = true) (hm : bit m 31 = true) (hf : fld m 16 8 ≠ 0) :
    (s.regSchedCtl v m).arr.blkDraining = true ∧ (s.regSchedCtl v m).arr.blkLimit = (if fld v 16 8 = 0 then 10 else fld v 16 8)
      ∧ (s.regSchedCtl v m).queues = s.queues ∧ (s.arr.blkDraining = true → (s.regSchedCtl v m).steep = s.steep) := by
  unfold State.regSchedCtl
  extract_lets set a1 b1 s1 tu a2 b2 s2 lim b3 s3 b4
  have h1 : s1.arr.blkDraining = s.arr.blkDraining ∧ s1.steep = s.steep ∧ s1.queues = s.queues := by
    obtain ⟨ha, hs, hq⟩ := s.clampWrite_rest 0x228 4 0 (fldN v 4 4) 8 6
    unfold s1
    split
    · have hd : (s.clampWrite 0x228 4 0 (fldN v 4 4) 8 6).2.arr.blkDraining = s.arr.blkDraining := congrArg Arr.blkDraining ha
      exact ⟨hd, hs, hq⟩
    · exact ⟨rfl, rfl, rfl⟩
  have h2 : s2.arr.blkDraining = s1.arr.blkDraining ∧ s2.steep = s1.steep ∧ s2.queues = s1.queues := by
    obtain ⟨ha, hs, hq⟩ := s1.clampWrite_rest 0x228 0 0 (fldN v 0 3) 4 3
    unfold s2
    split
    · have hd : (s1.clampWrite 0x228 0 0 (fldN v 0 3) 4 3).2.arr.blkDraining = s1.arr.blkDraining := congrArg Arr.blkDraining ha
      exact ⟨hd, hs, hq⟩
    · exact ⟨rfl, rfl, rfl⟩
  have h3 : s3 = { s2 with arr := { s2.arr with blkLimit := if lim = 0 then 10 else lim } } := if_pos hf
  have hd : s3.arr.blkDraining = s.arr.blkDraining := by rw [h3]; exact h2.1.trans h1.1
  have hl : s3.arr.blkLimit = if lim = 0 then 10 else lim := by rw [h3]
  have hs : s3.steep = s.steep := by rw [h3]; exact h2.2.1.trans h1.2.1
  have hq : s3.queues = s.queues := by rw [h3]; exact h2.2.2.trans h1.2.2
  cases hb : s3.arr.blkDraining with
  | true =>
    rw [if_neg (by simp)]
    exact ⟨hb, hl, hq, fun _ => hs⟩
  | false =>
    rw [if_pos (by simp [hm, hv])]
    exact ⟨rfl, hl, hq, fun h => absurd (hd.symm.trans hb) (by simp [h])⟩

theorem exec_blkHeel {s : State} {req : Requester} (hl : s.live = true) (he : s.errored = false) (hr : ∀ p, req ≠ .part p) (value : W32) (t : Nat) :
    ∃ u, exec (.blkHeel req value t) s = .next u ∧ u.arr.blkDraining = true ∧ u.pins.resp = .ok
      ∧ u.arr.blkLimit = (if fld value 16 8 = 0 then 10 else fld value 16 8) ∧ u.queues = s.queues
      ∧ (s.arr.blkDraining = true → u.steep = s.steep) := by
  have hlt : (s.at t).live = true := hl
  have het : (s.at t).errored = false := he
  have hv : bit ((setBit value 31 true).setWidth 64 : W64) 31 = true := by simp [bit, setBit]
  have hf : fld ((setBit value 31 true).setWidth 64 : W64) 16 8 = fld value 16 8 := by
    ext k hk
    have h64 : 16 + k < 64 := by omega
    have hone : (2147483648#64)[16 + k] = false := by rw [← BitVec.getLsbD_eq_getElem]; interval_cases k <;> rfl
    simp [fld, setBit, BitVec.getElem_extractLsb', h64, hone]
  obtain ⟨hd, hlim, hq, hs⟩ := State.regSchedCtl_heel (s.at t).closed hv (m := 0xFFFFFFFF) (by decide) (by decide)
  rw [hf] at hlim
  refine ⟨_, congrArg Host.Outcome.next (State.globalWrite_closed _ hlt het hr), hd, rfl, hlim, hq, hs⟩

end Sys2Proof.Machine
end

section
/-!
A block drain at its boundary and at its limit (R414, R416, R458): what it leaves in each partition.
-/

namespace Sys2Proof.Machine
open Sys2Proof

/-! ## What a step leaves in a partition -/

theorem State.part_congr {s t : State} (h : Comp.parts.same s t) (p : PartId) : t.part p = s.part p :=
  congrArg (fun v : Vector Part 16 => v[p]) h

/-- What an update of every partition keeps, an update of one keeps. -/
theorem State.part_updPart_keeps {α : Type} (get : Part → α) {f : Part → Part} (h : ∀ x, get (f x) = get x) (s : State) (q p : PartId) :
    get ((s.updPart q f).part p) = get (s.part p) := by
  by_cases hqp : q = p
  · subst hqp
    rw [State.part_updPart, h]
  · rw [State.part_updPart_ne _ _ hqp]

/-- Along a list of partitions, each step of which settles its own partition and leaves the others. -/
theorem foldl_settles {α : Type} (get : State → PartId → α) (f : State → PartId → State) (settle : α → α)
    (hself : ∀ s p, get (f s p) p = settle (get s p)) (hne : ∀ s p q, q ≠ p → get (f s q) p = get s p)
    (hidem : ∀ a, settle (settle a) = settle a) (l : List PartId) (s : State) (p : PartId) :
    get (l.foldl f s) p = if p ∈ l then settle (get s p) else get s p := by
  induction l generalizing s with
  | nil => rfl
  | cons q r ih =>
    rw [List.foldl_cons, ih]
    by_cases hqp : q = p
    · subst hqp
      simp [hself, hidem]
    · rw [hne s p q hqp]
      simp [Ne.symm hqp]

theorem mem_allParts (p : PartId) : p ∈ allParts := List.mem_finRange p

/-! ## A partition's batch boundary -/

/-- Whether its boundaries are held, and two of the fields that a batch boundary applies. -/
def Part.batch (x : Part) : Bool × Sh (BitVec 40) × Sh (BitVec 6) := (x.hold, x.mmuRoot, x.waveMax)

/-- What a batch boundary makes of them: held, nothing (R481), else their shadows apply (R414). -/
def batchSettled (b : Bool × Sh (BitVec 40) × Sh (BitVec 6)) : Bool × Sh (BitVec 40) × Sh (BitVec 6) :=
  if b.1 then b else (b.1, b.2.1.apply, b.2.2.apply)

theorem batchSettled_idem (b : Bool × Sh (BitVec 40) × Sh (BitVec 6)) : batchSettled (batchSettled b) = batchSettled b := by
  obtain ⟨hold, root, wave⟩ := b
  cases hold <;> rfl

theorem State.clampEntry_part (s : State) (field kind source part given applied : Nat) (p : PartId) :
    (s.clampEntry field kind source part given applied).part p = s.part p :=
  State.part_congr (Comp.same_parts (State.clampEntry_frame s field kind source part given applied _ (by decide))) p

theorem State.putFpDef_batch (s : State) (q : PartId) (b : Byte) (now : Bool) (p : PartId) : ((s.putFpDef q b now).part p).batch = (s.part p).batch := by
  unfold State.putFpDef
  exact State.part_updPart_keeps Part.batch (by intro x; rfl) _ q p

theorem State.recheckHost_part (s : State) (p : PartId) : s.recheckHost.part p = s.part p :=
  State.part_congr (Comp.same_parts (State.recheckHost_frame s _ (by decide))) p

theorem State.recheckFlow_batch (s : State) (q p : PartId) : ((s.recheckFlow q).part p).batch = (s.part p).batch := by
  simp only [State.recheckFlow]
  split
  · rfl
  · rw [State.clampEntry_part]
    exact State.part_updPart_keeps Part.batch (by intro x; rfl) _ q p

theorem State.takeOver_part (s : State) (src : Nat) (q : PartId) (f : PartF) (p : PartId) : (s.takeOver src q f).1.part p = s.part p :=
  State.part_congr (Comp.same_parts (State.takeOver_frame s src q f _ (by decide))) p

theorem State.clampAll_part (s : State) (l : List ClampE) (p : PartId) : (s.clampAll l).part p = s.part p :=
  State.part_congr (Comp.same_parts (State.clampAll_frame s l _ (by decide))) p

theorem State.grantPorts_part (s : State) (p : PartId) : s.grantPorts.part p = s.part p := rfl

theorem State.applySection_batch (s : State) (l : PartLoad) (now : Bool) (p : PartId) :
    ((s.applySection l now).part p).batch = (s.part p).batch := by
  unfold State.applySection
  extract_lets was src me ov es _ _ s1 s2
  have h1 : s1.part p = s.part p := by
    have hov : ov.1.part p = s.part p := State.takeOver_part ..
    unfold s1
    split
    · rw [State.clampAll_part, hov]
    · exact hov
  have h2 : (s2.part p).batch = (s1.part p).batch := by
    unfold s2
    split
    · exact State.putFpDef_batch ..
    · rfl
  rw [State.grantPorts_part, State.doIf_keeps (fun x => (x.part p).batch) _ _ _ fun x => State.recheckFlow_batch x _ p,
    State.doIf_keeps (fun x => (x.part p).batch) _ _ _ fun x => congrArg Part.batch (State.recheckHost_part x p), h2, h1]

theorem State.applyPtab_batch (s : State) (at_ : PartId → Bool) (q p : PartId) : ((s.applyPtab at_ q).part p).batch = (s.part p).batch := by
  unfold State.applyPtab
  split
  · rfl
  · split
    · exact State.applySection_batch ..
    · rfl

theorem State.applyPart_batch (s : State) (p : PartId) : ((s.applyPart p).part p).batch = batchSettled (s.part p).batch := by
  by_cases h : (s.part p).hold = true
  · simp only [State.applyPart, h, batchSettled, Part.batch, if_true]
  · simp only [State.applyPart, h, Bool.false_eq_true, if_false]
    simp only [State.doIf_keeps (fun x => x.part p) _ _ _ fun x => State.clampEntry_part x .., State.part_setPart, batchSettled, Part.batch, h,
      Bool.false_eq_true, if_false]

theorem State.applyPart_part_ne (s : State) {q p : PartId} (h : q ≠ p) : (s.applyPart q).part p = s.part p := by
  by_cases hq : (s.part q).hold = true
  · simp only [State.applyPart, hq, if_true]
  · simp only [State.applyPart, hq, Bool.false_eq_true, if_false]
    simp only [State.doIf_keeps (fun x => x.part p) _ _ _ fun x => State.clampEntry_part x .., State.part_setPart_ne _ _ h]

/-- Every partition's boundary, at a block boundary (R414, R416). -/
def State.partsApply (s : State) : State := allParts.foldl (fun s p => (s.cachesClean p).boundaryPart (fun _ => true) p) s

theorem State.partsApply_batch (s : State) (p : PartId) : (s.partsApply.part p).batch = batchSettled (s.part p).batch := by
  have hpre : ∀ (s : State) (q p : PartId), ((((s.cachesClean q).applyPtab (fun _ => true) q)).part p).batch = (s.part p).batch :=
    fun s q p => State.applyPtab_batch (s.cachesClean q) _ q p
  rw [State.partsApply, foldl_settles (fun s p => (s.part p).batch) _ batchSettled _ _ batchSettled_idem, if_pos (mem_allParts p)]
  · intro s p
    rw [State.boundaryPart, State.applyPart_batch, hpre]
  · intro s p q h
    rw [State.boundaryPart, State.applyPart_part_ne _ h, hpre]

theorem State.partsApply_frame (s : State) (bm : BitVec 48) (hm : 0x452274000#48 &&& ~~~ bm = 0) : blank bm s.partsApply = blank bm s := by
  unfold State.partsApply
  refine blank_mono hm (foldl_frame _ _ (fun s p => ?_) _ _)
  exact (State.boundaryPart_frame _ _ p _ (by decide)).trans (State.cachesClean_frame s p _ (by decide))

end Sys2Proof.Machine
end

section
/-!
A block drain that ends at its boundary, or at its limit (R414, R416, R458).
-/

namespace Sys2Proof.Machine
open Sys2Proof

/-! ## At the boundary -/

/-- The block's drain has reached a block boundary (R414, R416). -/
def State.drainEnds (s : State) : State :=
  let t := (s.timerDel .blkDrain).partsApply.applyBlock
  { t with arr := { t.arr with blkDraining := false } }.irqBlock 5

theorem exec_blockDrainDone {s : State} (hl : s.live = true) (he : s.errored = false) (hd : s.arr.blkDraining = true) (hi : s.blockIdle = true) :
    exec .blockDrainDone s = .next s.drainEnds := by
  rw [show exec .blockDrainDone s = execBlockDrainDone s from rfl, execBlockDrainDone, if_pos (by simp [hl, he, hd, hi]), State.drainEnds,
    State.partsApply]

theorem exec_blockDrainDone_not {s : State} (h : s.arr.blkDraining = false ∨ s.blockIdle = false) : exec .blockDrainDone s = .next s :=
  if_neg (by obtain h | h := h <;> simp [h])

theorem State.applyBlock_part (s : State) (p : PartId) : s.applyBlock.part p = s.part p :=
  State.part_congr (Comp.same_parts (State.applyBlock_frame s _ (by decide))) p

theorem State.drainEnds_batch (s : State) (p : PartId) : (s.drainEnds.part p).batch = batchSettled (s.part p).batch := by
  have h : s.drainEnds.parts = (s.timerDel .blkDrain).partsApply.applyBlock.parts := by
    simp only [State.drainEnds, State.irqBlock_parts]
  rw [State.part_congr h, State.applyBlock_part, State.partsApply_batch]
  rfl

/-- The block's settings that a block boundary applies, and whether its boundaries are held. -/
def State.settings (s : State) : Bool × Sh Bool × Sh (BitVec 2) × Sh (BitVec 4) × Sh (BitVec 3) × Herd :=
  (s.csr.hold, s.arr.dist, s.pwr.mode, s.arr.imbSet, s.arr.imbTu, s.herd)

theorem State.settings_congr {s t : State} (h : blank 0x452274000#48 t = blank 0x452274000#48 s) : t.settings = s.settings := by
  have h' := congrArg State.settings h
  exact h'

theorem State.partsApply_settings (s : State) : s.partsApply.settings = s.settings :=
  State.settings_congr (State.partsApply_frame s _ (by decide))

theorem State.drainEnds_settings (s : State) : s.drainEnds.settings = (if s.csr.hold = true then s.settings else
    (false, s.arr.dist.apply, s.pwr.mode.apply, s.arr.imbSet.apply, s.arr.imbTu.apply,
      { s.herd with idleIssue := s.herd.idleIssue.apply, packMax := s.herd.packMax.apply, packWait := s.herd.packWait.apply })) := by
  have hc : (s.timerDel .blkDrain).partsApply.settings = s.settings := State.partsApply_settings _
  simp only [State.settings, Prod.mk.injEq] at hc ⊢
  obtain ⟨hh, h1, h2, h3, h4, h5⟩ := hc
  by_cases h : s.csr.hold = true
  · simp only [State.drainEnds, State.applyBlock, hh, h, h1, h2, h3, h4, h5, if_true, State.irqBlock_csr, State.irqBlock_arr,
      State.irqBlock_pwr, State.irqBlock_herd]
  · simp only [State.drainEnds, State.applyBlock, hh, h, h1, h2, h3, h4, h5, Bool.false_eq_true, if_false, State.irqBlock_csr, State.irqBlock_arr,
      State.irqBlock_pwr, State.irqBlock_herd]

/-- What the boundary of a block drain leaves (R414, R416). -/
theorem State.drainEnds_applies (s : State) :
    s.drainEnds.arr.blkDraining = false ∧ (∃ l, s.drainEnds.pins.irqs = l ++ [⟨true, 0, 5⟩])
      ∧ (s.csr.hold = false → s.drainEnds.arr.dist = .both s.arr.dist.shadow ∧ s.drainEnds.pwr.mode = .both s.pwr.mode.shadow
        ∧ s.drainEnds.arr.imbSet = .both s.arr.imbSet.shadow ∧ s.drainEnds.arr.imbTu = .both s.arr.imbTu.shadow
        ∧ s.drainEnds.herd.packMax = .both s.herd.packMax.shadow ∧ s.drainEnds.herd.packWait = .both s.herd.packWait.shadow
        ∧ s.drainEnds.herd.idleIssue = .both s.herd.idleIssue.shadow)
      ∧ (s.csr.hold = true → s.drainEnds.arr.dist = s.arr.dist ∧ s.drainEnds.pwr.mode = s.pwr.mode ∧ s.drainEnds.herd.packMax = s.herd.packMax)
      ∧ ∀ p, (s.part p).hold = false → (s.drainEnds.part p).mmuRoot = .both (s.part p).mmuRoot.shadow
        ∧ (s.drainEnds.part p).waveMax = .both (s.part p).waveMax.shadow := by
  refine ⟨?draining, ?irq, fun h => ?applied, fun h => ?held, fun p h => ?part⟩
  case draining => simp only [State.drainEnds, State.irqBlock_arr]
  case irq =>
    simp only [State.drainEnds, State.irqBlock_pins_irqs]
    exact ⟨_, rfl⟩
  case applied =>
    have hs := s.drainEnds_settings
    rw [if_neg (by simp [h])] at hs
    simp only [State.settings, Prod.mk.injEq] at hs
    obtain ⟨-, hdist, hmode, hset, htu, hherd⟩ := hs
    rw [hdist, hmode, hset, htu, hherd]
    exact ⟨rfl, rfl, rfl, rfl, rfl, rfl, rfl⟩
  case held =>
    have hs := s.drainEnds_settings
    rw [if_pos h] at hs
    simp only [State.settings, Prod.mk.injEq] at hs
    obtain ⟨-, hdist, hmode, -, -, hherd⟩ := hs
    rw [hdist, hmode, hherd]
    exact ⟨rfl, rfl, rfl⟩
  case part =>
    have hs := s.drainEnds_batch p
    simp only [Part.batch, batchSettled, h, Bool.false_eq_true, if_false, Prod.mk.injEq] at hs
    exact hs.2

/-! ## A partition's error state -/

/-- Whether a partition is in PARTITION_ERROR, and why (R457). -/
def Part.errs (x : Part) : Bool × BitVec 2 := (x.partError, x.peReason)

/-- The error state of a partition. -/
def State.errsOf (s : State) (p : PartId) : Bool × BitVec 2 := (s.part p).errs

theorem State.errsOf_congr {s t : State} (h : Comp.parts.same s t) (p : PartId) : t.errsOf p = s.errsOf p :=
  congrArg Part.errs (State.part_congr h p)

theorem State.errsOf_updPart {f : Part → Part} (h : ∀ x, (f x).errs = x.errs) (s : State) (q p : PartId) :
    (s.updPart q f).errsOf p = s.errsOf p :=
  State.part_updPart_keeps Part.errs h s q p

theorem State.irqPart_errs (s : State) (q : PartId) (v : BitVec 4) (p : PartId) : (s.irqPart q v).errsOf p = s.errsOf p := rfl

theorem State.vwrite_parts {s u : State} {p : PartId} {va : Nat} {bs : List Byte} (h : s.vwrite p va bs = .ok u) : Comp.parts.same s u := by
  rw [State.vwrite_eq h]
  rfl

theorem State.trapWritten_errs (s : State) (q p : PartId) : (s.trapWritten q).errsOf p = s.errsOf p := by
  rw [State.trapWritten, State.doIf_keeps (·.errsOf p) _ _ _ fun x => State.irqPart_errs x ..]
  exact State.errsOf_updPart (by intro x; rfl) s q p

theorem State.fqOne_errs {s u : State} {q : PartId} {r : Slot64} (h : s.fqOne q r = some u) (p : PartId) : u.errsOf p = s.errsOf p := by
  simp only [State.fqOne] at h
  split at h
  · exact absurd h nofun
  · split at h
    · exact absurd h nofun
    · rename_i v hv
      have hu := Option.some.inj h
      rw [← hu, State.doIf_keeps (·.errsOf p) _ _ _ fun x => State.trapWritten_errs x q p, State.irqPart_errs,
        ← State.errsOf_congr (State.vwrite_parts hv) p]
      exact State.errsOf_updPart (by intro x; rfl) v q p

theorem State.fqPush_errs (s : State) (q : PartId) (l : List Slot64) (p : PartId) : (s.fqPush q l).errsOf p = s.errsOf p := by
  induction l generalizing s with
  | nil => exact State.errsOf_updPart (by intro x; rfl) s q p
  | cons r rest ih =>
    simp only [State.fqPush]
    split
    · rename_i u hu
      rw [ih, State.fqOne_errs hu]
    · rw [State.doIf_keeps (·.errsOf p) _ _ _ fun x => State.irqPart_errs x ..]
      exact State.errsOf_updPart (by intro x; rfl) s q p

theorem State.fqRetry_errs (s : State) (q p : PartId) : (s.fqRetry q).errsOf p = s.errsOf p := by
  unfold State.fqRetry
  split
  · rfl
  · exact State.fqPush_errs ..

theorem State.fqPost_errs (s : State) (q : PartId) (notice : Bool) (r : Slot64) (p : PartId) : (s.fqPost q notice r).errsOf p = s.errsOf p := by
  have hp : ∀ f : Part → Part, (∀ x, (f x).errs = x.errs) → (s.updPart q f).errsOf p = s.errsOf p := fun f hf => State.errsOf_updPart hf s q p
  unfold State.fqPost
  extract_lets x u
  split
  · rfl
  split
  · exact hp _ (by intro x; rfl)
  split
  · exact hp _ (by intro x; rfl)
  · rw [State.fqRetry_errs]
    exact hp _ (by intro x; rfl)

theorem State.record_errs (s : State) (r : TraceRec) (p : PartId) : (s.record r).errsOf p = s.errsOf p := by
  simp only [State.record]
  repeat' split
  · rfl
  · rfl
  · rfl
  · rename_i v hv
    exact State.errsOf_congr (State.vwrite_parts hv) p
  · exact State.fqPost_errs ..

theorem State.traceUnpin_errs (s t : State) (p : PartId) : (s.traceUnpin t).errsOf p = t.errsOf p :=
  foldl_keeps (·.errsOf p) _ (fun u _ => State.doIf_keeps (·.errsOf p) u _ _ fun x => State.record_errs x _ p) _ _

/-! ## At the limit -/

/-- The block drain's bits, and the error state of a partition. -/
def State.limitView (s : State) (p : PartId) : Bool × Bool × Bool × BitVec 2 := (s.arr.blkDraining, s.arr.blkTimeout, s.errsOf p)

/-- Steps that change neither a partition nor the array keep the view. -/
theorem State.limitView_congr {s t : State} (h : blank 0xFFFFFBFBFFFF#48 t = blank 0xFFFFFBFBFFFF#48 s) (p : PartId) :
    t.limitView p = s.limitView p := by
  have h' := congrArg (State.limitView · p) h
  exact h'

theorem State.traceUnpin_view (s t : State) (p : PartId) : (s.traceUnpin t).limitView p = t.limitView p := by
  have harr : (s.traceUnpin t).arr = t.arr := by
    have h := congrArg State.arr (State.traceUnpin_frame s t 0x4000240008#48 (by decide))
    exact h
  rw [State.limitView, State.traceUnpin_errs, harr, State.limitView]

theorem State.handBack_view (s : State) (r : Fin 8) (p : PartId) : (s.handBack r).limitView p = s.limitView p := by
  simp only [State.handBack]
  split <;> rfl

theorem State.timerDel_view (s : State) (tm : Timer) (p : PartId) : (s.timerDel tm).limitView p = s.limitView p :=
  State.limitView_congr (State.timerDel_frame s tm _ (by decide)) p

theorem State.herdDrop_view (s : State) (f : HItem → Bool) (p : PartId) : (s.herdDrop f).limitView p = s.limitView p := by
  simp only [State.herdDrop, State.handBacks]
  rw [foldl_keeps (·.limitView p) _ fun x r => State.handBack_view x r p, foldl_keeps (·.limitView p) _ fun x e => State.timerDel_view x _ p]
  rfl

theorem State.dropForeign_view (s : State) (f : Foreign) (p : PartId) : (s.dropForeign f).limitView p = s.limitView p := by
  unfold State.dropForeign
  extract_lets s1 slots s2 s3 _ _ _ _ s4
  have h1 : s1.limitView p = s.limitView p := State.herdDrop_view ..
  have h2 : s2.limitView p = s1.limitView p :=
    (State.timerDel_view ..).trans (State.limitView_congr (State.kFreeAll_frame s1 slots _ (by decide)) p)
  have h3 : s3.limitView p = s2.limitView p := State.timerDel_view ..
  have h4 : s4.limitView p = s3.limitView p := rfl
  rw [State.traceUnpin_view, State.limitView_congr (State.drainCheck_frame _ _ _ (by decide)), State.limitView_congr (State.owe_frame _ _ _ _ (by decide)),
    State.limitView_congr (State.mapGroups_frame _ _ _ (by decide)), h4, h3, h2, h1]

theorem State.abortForeign_view (s : State) (p : PartId) : s.abortForeign.limitView p = s.limitView p := by
  refine foldl_keeps (·.limitView p) _ (fun x f => ?_) _ _
  rw [State.failForeign, State.dropForeign_view]
  exact State.limitView_congr (State.sendResult_frame x f _ _ (by decide)) p

theorem State.errPartition_view (s : State) (q : PartId) (reason : BitVec 2) (p : PartId) :
    (s.errPartition q reason).limitView p = if q = p then (s.arr.blkDraining, s.arr.blkTimeout, true, reason) else s.limitView p := by
  unfold State.errPartition
  extract_lets s1 _ s2 s3
  have h3 : s3.limitView p = s1.limitView p := by
    unfold s3
    rw [State.doIf_keeps (·.limitView p) _ _ _ fun x => State.limitView_congr (State.irqBlock_frame x _ _ (by decide)) p]
    exact State.limitView_congr (State.offerLog_frame s2 _ _ (by decide)) p
  have h : (s3.irqPart q (s3.part q).fqVec).limitView p = s1.limitView p := h3
  rw [h]
  by_cases hqp : q = p
  · subst hqp
    rw [if_pos rfl, State.limitView, State.errsOf, State.part_updPart]
    rfl
  · rw [if_neg hqp, State.limitView, State.errsOf, State.part_updPart_ne _ _ hqp]
    rfl

theorem State.partitionError_view (s : State) (q : PartId) (reason : BitVec 2) (p : PartId) :
    (s.partitionError q reason).limitView p = if q = p then (s.arr.blkDraining, s.arr.blkTimeout, true, reason) else s.limitView p := by
  rw [State.partitionError, State.doIf_keeps (·.limitView p) _ _ _ fun x => State.abortForeign_view x p, State.errPartition_view]

/-- A partition that holds an open fault when a block drain ends at its limit enters PARTITION_ERROR with reason DRAIN (R458). -/
def State.drainFaults (s : State) : State := allParts.foldl (fun s p => if (s.openOf p).isEmpty then s else s.partitionError p 3) s

theorem State.faults_congr {s t : State} (h : Comp.faults.same s t) : t.mmu.faults = s.mmu.faults := h

theorem State.partitionError_faults (s : State) (p : PartId) (reason : BitVec 2) : (s.partitionError p reason).mmu.faults = s.mmu.faults :=
  State.faults_congr (Comp.same_faults (State.partitionError_frame s p reason _ (by decide)))

theorem State.partitionError_openOf (s : State) (p : PartId) (reason : BitVec 2) (q : PartId) : (s.partitionError p reason).openOf q = s.openOf q := by
  rw [State.openOf, State.partitionError_faults, State.openOf]

/-- The view of a partition, and whether it holds no open fault. -/
def State.limitFaults (s : State) (p : PartId) : (Bool × Bool × Bool × BitVec 2) × Bool := (s.limitView p, (s.openOf p).isEmpty)

/-- What the end of a block drain at its limit makes of them. -/
def limitSettled (v : (Bool × Bool × Bool × BitVec 2) × Bool) : (Bool × Bool × Bool × BitVec 2) × Bool :=
  if v.2 then v else ((v.1.1, v.1.2.1, true, 3), false)

theorem limitSettled_idem (v : (Bool × Bool × Bool × BitVec 2) × Bool) : limitSettled (limitSettled v) = limitSettled v := by
  obtain ⟨w, none⟩ := v
  cases none <;> rfl

theorem State.drainFaults_view (s : State) (p : PartId) : s.drainFaults.limitFaults p = limitSettled (s.limitFaults p) := by
  rw [State.drainFaults, foldl_settles State.limitFaults _ limitSettled ?self ?other limitSettled_idem, if_pos (mem_allParts p)]
  case self =>
    intro u k
    cases h : (u.openOf k).isEmpty with
    | true => simp [State.limitFaults, limitSettled, h]
    | false =>
      simp only [State.limitFaults, limitSettled, h, Bool.false_eq_true, if_false, State.partitionError_view, State.partitionError_openOf, if_true]
      rfl
  case other =>
    intro u k q hqk
    cases h : (u.openOf q).isEmpty with
    | true => simp
    | false => simp [State.limitFaults, State.partitionError_view, State.partitionError_openOf, hqk]

/-- The limit of a block drain has passed, before the partitions with an open fault are looked at (R416). -/
def State.drainStops (s : State) (time : Nat) : State :=
  let s1 := s.fire .blkDrain time
  { s1 with arr := { s1.arr with blkDraining := false, blkTimeout := true } }

theorem exec_blkTimeout {s : State} {time : Nat} (hl : s.live = true) (he : s.errored = false) (ht : s.timerFires .blkDrain time = true) :
    exec (.blkTimeout time) s = .next ((s.drainStops time).drainFaults.irqBlock 5) := by
  rw [show exec (.blkTimeout time) s = execBlkTimeout time s from rfl, execBlkTimeout, if_pos (by simp [hl, he, ht]), State.drainStops,
    State.drainFaults]

theorem State.fire_errs (s : State) (tm : Timer) (time : Nat) (p : PartId) : (s.fire tm time).errsOf p = s.errsOf p :=
  State.record_errs ..

theorem State.fire_openOf (s : State) (tm : Timer) (time : Nat) (p : PartId) : (s.fire tm time).openOf p = s.openOf p := by
  rw [State.openOf, State.faults_congr (Comp.same_faults (State.fire_frame s tm time _ (by decide))), State.openOf]

theorem State.drainStops_view (s : State) (time : Nat) (p : PartId) :
    (s.drainStops time).limitFaults p = ((false, true, s.errsOf p), (s.openOf p).isEmpty) := by
  rw [← State.fire_errs s .blkDrain time, ← State.fire_openOf s .blkDrain time]
  simp only [State.drainStops]
  generalize s.fire .blkDrain time = u
  rfl

theorem State.irqBlock_view (s : State) (v : BitVec 4) (p : PartId) : (s.irqBlock v).limitView p = s.limitView p := rfl

/-- What the limit of a block drain leaves of it and of a partition. -/
theorem State.drainStops_drainFaults (s : State) (time : Nat) (p : PartId) :
    ((s.drainStops time).drainFaults.irqBlock 5).limitView p = if (s.openOf p).isEmpty then (false, true, s.errsOf p) else (false, true, true, 3) := by
  have h := congrArg Prod.fst (State.drainFaults_view (s.drainStops time) p)
  rw [State.drainStops_view] at h
  refine (State.irqBlock_view _ _ p).trans (h.trans ?_)
  cases (s.openOf p).isEmpty <;> rfl

theorem State.openOf_isEmpty (s : State) (p : PartId) : (s.openOf p).isEmpty = true ↔ ∀ f ∈ s.mmu.faults, f.part ≠ p := by
  simp [State.openOf]

/-- What the limit of a block drain leaves, read off the views (R416, R458). -/
theorem limit_leaves {s u : State} (hview : ∀ p, u.limitView p = if (s.openOf p).isEmpty then (false, true, s.errsOf p) else (false, true, true, 3)) :
    u.arr.blkDraining = false ∧ u.arr.blkTimeout = true
      ∧ (∀ p, (∃ f ∈ s.mmu.faults, f.part = p) → (u.part p).partError = true ∧ (u.part p).peReason = 3)
      ∧ ∀ p, (∀ f ∈ s.mmu.faults, f.part ≠ p) → (u.part p).partError = (s.part p).partError := by
  simp only [State.limitView, State.errsOf, Part.errs] at hview
  refine ⟨?draining, ?timeout, fun p h => ?faulty, fun p h => ?clean⟩
  case draining => have h := congrArg Prod.fst (hview 0); split at h <;> exact h
  case timeout => have h := congrArg (·.2.1) (hview 0); split at h <;> exact h
  case faulty =>
    obtain ⟨f, hf, hp⟩ := h
    have h := hview p
    rw [if_neg (fun ho => (s.openOf_isEmpty p).1 ho f hf hp)] at h
    simp only [Prod.mk.injEq] at h
    exact h.2.2
  case clean =>
    have h := (hview p).trans (if_pos ((s.openOf_isEmpty p).2 h))
    simp only [Prod.mk.injEq] at h
    exact h.2.2.1

end Sys2Proof.Machine
end

section
/-!
The debug window (R361, R513, R525, R526), and the obligation on the controllers and the debug window.
-/

namespace Sys2Proof.Machine
open Sys2Proof

/-! ## RK_DBG_CMD as DBG_READ and DBG_WRITE write it -/

/-- RK_DBG_CMD with an OP in place of the value's own. -/
def dbgCmdWord (op : Nat) (value : W32) : W32 := BitVec.ofNat 32 (2 ^ 28 * op + value.toNat % 2 ^ 28)

theorem dbgCmdWord_fields {op : Nat} (ho : op < 16) (value : W32) :
    fldN (dbgCmdWord op value) 28 4 = op ∧ fldN (dbgCmdWord op value) 24 4 = fldN value 24 4 ∧ fldN (dbgCmdWord op value) 0 24 = fldN value 0 24 := by
  simp only [dbgCmdWord, fldN, BitVec.extractLsb'_toNat, BitVec.toNat_ofNat, Nat.shiftRight_eq_div_pow]
  omega

/-- A command of the debug window acts on the state with the lock closed (R513, R525). -/
theorem State.dbgAccess_acts {s : State} {req : Requester} (hl : s.live = true) (hr : ∀ p, req ≠ .part p) (f : State → State) :
    s.dbgAccess req f = (f s.closed).answer .ok := by
  rw [State.dbgAccess, State.busWrite_global s req true false _ hl (.inr rfl) hr, State.relock_closed s hr]

section
variable {s : State} {value : W32}

theorem State.regDbgCmd_bad {op : Nat} (ho : op < 16) (h : dbgUnits (fldN value 24 4) (fldN value 0 24) ≤ fldN value 0 24) (check : Check) :
    s.regDbgCmd (dbgCmdWord op value) check = s.dbgBad := by
  obtain ⟨hop, hst, hi⟩ := dbgCmdWord_fields ho value
  simp only [State.regDbgCmd, hop, hst, hi, h, decide_true, Bool.or_true, if_true]

theorem State.regDbgCmd_read (h : fldN value 0 24 < dbgUnits (fldN value 24 4) (fldN value 0 24)) (check : Check) :
    s.regDbgCmd (dbgCmdWord 1 value) check = (let st := fldN value 24 4
      let i := fldN value 0 24
      State.dbgMeets { s with
        dbg := { s.dbg with data := if check = Check.failed then Config.debugUnit st i s.fresh else s.dbgUnit st i, uncorr := decide (check = Check.failed) }
        fresh := s.fresh + 1 } st i check) := by
  obtain ⟨hop, hst, hi⟩ := dbgCmdWord_fields (show 1 < 16 by decide) value
  simp only [State.regDbgCmd, hop, hst, hi, not_le.2 h, decide_false, Bool.or_false, if_true, ne_eq, not_true_eq_false, Bool.false_and,
    Bool.false_eq_true, if_false]

theorem State.regDbgCmd_closed (hc : s.dbg.writeEn = false ∨ fldN value 24 4 = 10 ∨ fldN value 24 4 = 11) (check : Check) :
    s.regDbgCmd (dbgCmdWord 2 value) check = s.dbgBad := by
  obtain ⟨hop, hst, hi⟩ := dbgCmdWord_fields (show 2 < 16 by decide) value
  have hc' : (!s.dbg.writeEn || decide (fldN value 24 4 = 10) || decide (fldN value 24 4 = 11)) = true := by simpa [or_assoc] using hc
  simp only [State.regDbgCmd, hop, hst, hi, hc', if_true]
  simp

theorem State.regDbgCmd_write (h : fldN value 0 24 < dbgUnits (fldN value 24 4) (fldN value 0 24)) (hw : s.dbg.writeEn = true)
    (h10 : fldN value 24 4 < 10) (check : Check) :
    s.regDbgCmd (dbgCmdWord 2 value) check = s.putUnit (fldN value 24 4) (fldN value 0 24) s.dbg.data := by
  obtain ⟨hop, hst, hi⟩ := dbgCmdWord_fields (show 2 < 16 by decide) value
  have hc : (!s.dbg.writeEn || decide (fldN value 24 4 = 10) || decide (fldN value 24 4 = 11)) = false := by
    simp only [hw, Bool.not_true, Bool.false_or, Bool.or_eq_false_iff, decide_eq_false_iff_not]
    omega
  simp only [State.regDbgCmd, hop, hst, hi, hc, not_le.2 h]
  simp

end

/-! ## DBG_READ and DBG_WRITE -/

theorem exec_dbgRead {s : State} {req : Requester} (hl : s.live = true) (hr : ∀ p, req ≠ .part p) (value : W32) (check : Check) :
    exec (.dbgRead req value check) s = .next ((s.closed.regDbgCmd (dbgCmdWord 1 value) check).answer .ok) :=
  congrArg Host.Outcome.next (State.dbgAccess_acts hl hr _)

theorem exec_dbgWrite {s : State} {req : Requester} (hl : s.live = true) (hr : ∀ p, req ≠ .part p) (value : W32) :
    exec (.dbgWrite req value) s = .next ((s.closed.regDbgCmd (dbgCmdWord 2 value) .ok).answer .ok) :=
  congrArg Host.Outcome.next (State.dbgAccess_acts hl hr _)

/-- What a READ meets in a corrected word is counted, in RK_KERR too for the Kennel (R118, R511). -/
theorem State.dbgMeets_corrected (s : State) (st i : Nat) :
    s.dbgMeets st i .corrected = if st = 0 ∨ st = 1 then s.kennelCorrected else s.errCorrected := by
  simp only [State.dbgMeets, Bool.or_eq_true, decide_eq_true_eq]

/-- What a READ meets in an uncorrectable word (R118, R120, R507, R512). -/
theorem State.dbgMeets_failed (s : State) (st i : Nat) :
    s.dbgMeets st i .failed = if st = 0 ∨ st = 1 then s.slotLost i else if st = 11 ∧ s.ready = true then s.errBlock 0x0F i else s := by
  simp only [State.dbgMeets, Bool.or_eq_true, Bool.and_eq_true, decide_eq_true_eq]

theorem State.putUnit_free {s : State} {i : Nat} (h : s.kGet i = none) (w : Slot64) :
    s.putUnit 0 i w = { s with kennel := { s.kennel with images := assocPut i w s.kennel.images } }
      ∧ s.putUnit 1 i w = { s with kennel := { s.kennel with
        gens := if (fld w 15 14 : BitVec 14) = 1 then assocDel i s.kennel.gens else assocPut i (fld w 15 14) s.kennel.gens } } := by
  simp only [State.putUnit, State.putSlotUnit, State.putTagUnit, h, and_self]

theorem State.putUnit_cand (s : State) (i : Nat) (w : Slot64) :
    s.putUnit 3 i w = if (s.ray? i).isSome then s.updRay i (fun r => { r with cand := candOf w })
      else { s with kennel := { s.kennel with cands := assocPut i (candOf w) s.kennel.cands } } := by
  simp only [State.putUnit, State.putCandUnit]
  cases s.ray? i <;> rfl

/-- A ray is changed the same whether or not the bus has been answered. -/
theorem State.updRay_answer (s : State) (i : Nat) (f : Ray → Ray) (r : BusResp) : (s.updRay i f).answer r = (s.answer r).updRay i f := by
  have hray : (s.answer r).ray? i = s.ray? i := rfl
  have hset : ∀ x, (s.setRay i x).answer r = (s.answer r).setRay i x := fun x => by
    have hget : (s.answer r).kGet i = s.kGet i := rfl
    simp only [State.setRay, hget]
    cases s.kGet i <;> rfl
  simp only [State.updRay, hray]
  cases s.ray? i with
  | none => rfl
  | some x => exact hset _

/-! ## The obligation -/

/-- Settles O60, command by command: the decision of the power controller, the registers that TRACE_ENABLE and BLK_HEEL write, the boundary and
the limit of a block drain, and the units of the debug window. -/
theorem controllersAndDebugAct : Obligations.ControllersAndDebugAct := by
  intro req s
  refine ⟨?power, ?written, ?drain, ?debug⟩
  case power =>
    intro watts t ha ht
    obtain ⟨u, hu, hp⟩ := exec_powerEstimate watts ha ht
    have hc := powerDecide_controlled s.pwr s.pins.hotWest s.pins.hotEast watts
    rw [← hp] at hc
    exact ⟨u, hu, hc⟩
  case written =>
    intro hl he hr
    exact ⟨exec_traceEnable hl he hr, exec_blkHeel hl he hr⟩
  case drain =>
    intro hl he
    refine ⟨exec_blockDrainDone_not, fun hd hi => ⟨_, exec_blockDrainDone hl he hd hi, s.drainEnds_applies⟩, fun time ht => ?_⟩
    obtain ⟨hdraining, htimeout, hfaulty, hclean⟩ := limit_leaves (s.drainStops_drainFaults time)
    exact ⟨_, exec_blkTimeout hl he ht, hdraining, htimeout, ⟨_, State.irqBlock_pins_irqs _ _⟩, hfaulty, hclean⟩
  case debug =>
    intro hl hr value
    refine ⟨fun hi => ⟨fun check => ?badRead, ?badWrite⟩, fun hi => ⟨?read, ?corrected, ?failed, ?closed, ?write⟩⟩
    case badRead =>
      rw [exec_dbgRead hl hr, State.regDbgCmd_bad (by decide) hi]
      rfl
    case badWrite =>
      rw [exec_dbgWrite hl hr, State.regDbgCmd_bad (by decide) hi]
      rfl
    case read =>
      rw [exec_dbgRead hl hr, State.regDbgCmd_read hi]
      rfl
    case corrected =>
      rw [exec_dbgRead hl hr, State.regDbgCmd_read hi, State.dbgMeets_corrected]
      split <;> rfl
    case failed =>
      have hx : exec (.dbgRead req value .failed) s = _ := (exec_dbgRead hl hr value .failed).trans (by
        rw [State.regDbgCmd_read hi, State.dbgMeets_failed])
      refine ⟨Config.debugUnit (fldN value 24 4) (fldN value 0 24) s.fresh, fun h => ?slot, fun h hready => ?block, fun h0 h1 h => ?marked⟩
      case slot =>
        rw [hx, if_pos h, State.relock_closed s hr]
        rfl
      case block =>
        rw [hx, if_neg (by omega), if_pos ⟨h, hready⟩, State.relock_closed s hr]
        rfl
      case marked =>
        rw [hx, if_neg (by omega), if_neg (fun hb => h.elim (absurd hb.1) fun hf => absurd (hf.symm.trans hb.2) Bool.false_ne_true),
          State.relock_closed s hr]
        rfl
    case closed =>
      intro h
      rw [exec_dbgWrite hl hr, State.regDbgCmd_closed (s := s.closed) h]
      rfl
    case write =>
      intro hw
      have hx : fldN value 24 4 < 10 → exec (.dbgWrite req value) s
          = .next ((s.closed.putUnit (fldN value 24 4) (fldN value 0 24) s.dbg.data).answer .ok) := fun h => by
        rw [exec_dbgWrite hl hr, State.regDbgCmd_write (s := s.closed) hi hw h]
        rfl
      generalize fldN value 24 4 = st at hx ⊢
      refine ⟨fun h => ?owner, fun h hk => ?slot, fun h hray => ?freeCand, fun h hray => ?cand, fun h hk => ?tag, fun h => ?unknown⟩
      case owner =>
        subst h
        exact hx (by decide)
      case slot =>
        subst h
        rw [hx (by decide), (State.putUnit_free (s := s.closed) hk _).1]
        rfl
      case freeCand =>
        subst h
        have hr' : (s.closed.ray? (fldN value 0 24)).isSome = false := by
          rw [show s.closed.ray? (fldN value 0 24) = s.ray? (fldN value 0 24) from rfl, hray]
          rfl
        rw [hx (by decide), State.putUnit_cand, hr']
        rfl
      case cand =>
        subst h
        rw [hx (by decide), State.putUnit_cand, if_pos (show (s.closed.ray? _).isSome = true from hray), State.updRay_answer]
        rfl
      case tag =>
        subst h
        rw [hx (by decide), (State.putUnit_free (s := s.closed) hk _).2]
        rfl
      case unknown =>
        rw [hx (by omega)]
        obtain h | h | h | h | h := h <;> subst h <;> rfl

end Sys2Proof.Machine
end

section
/-!
The owner tables (R360, R361, R364 to R367): what a message of the ring, a timeout and a reload leave of them.
-/

namespace Sys2Proof.Machine
open Sys2Proof

/-! ## The owner tables and the ring messages of a state -/

/-- The owner table with its epoch, its predecessor and its staging copy, and the bits of RK_OWN_STAT that tell of them (R360, R364, R390). -/
structure OwnerView where
  table : List (Nat × OwnEntry)
  epoch : Tri W32
  prevMap : List Nat
  staging : Option Staging
  bad : List Nat
  missed : Bool
  rejected : Bool
  next : W32

def State.ownerView (s : State) : OwnerView :=
  ⟨s.fwd.table, s.fwd.epoch, s.fwd.prevMap, s.fwd.staging, s.fwd.bad, s.fwd.epochMissed, s.fwd.reloadReject, s.fwd.nextEpoch⟩

/-- The tables after an epoch boundary (R364). -/
def OwnerView.renewed (x : OwnerView) (chip : ChipId) (epoch : W32) (ws : List W64) : OwnerView :=
  { x with prevMap := ownedBy x.table chip, table := ownTable ws, epoch := .all epoch, staging := none, bad := [] }

/-- The messages of this chip that are awaited, its publication, and the orphans it has retired (R20, R365). -/
structure RingView where
  ring : List RingMsg
  publish : Option Publish
  orphans : Byte
  retry : Sh (BitVec 4)

def State.ringView (s : State) : RingView := ⟨s.fwd.ring, s.fwd.publish, s.fwd.orphans, s.fwd.ringRetry⟩

theorem State.ownerView_congr {s t : State} (h : blank 0xFFFEFFFFFFFF#48 t = blank 0xFFFEFFFFFFFF#48 s) : t.ownerView = s.ownerView := by
  have h' := congrArg State.ownerView h
  exact h'

theorem State.ringView_congr {s t : State} (h : blank 0xFFFBFFFFFFFF#48 t = blank 0xFFFBFFFFFFFF#48 s) : t.ringView = s.ringView := by
  have h' := congrArg State.ringView h
  exact h'

theorem State.queue_congr {s t : State} (h : Comp.queues.same s t) (q : QueueId) : t.queue q = s.queue q :=
  congrArg (fun v : Vector Queue 64 => v[q]) h

/-! ## A message taken from the ring -/

/-- A message of the ring has been taken, and its credit is owed (R368, R377, R379). -/
def State.ringIn (s : State) (l : LinkId) (hdr : MsgHdr) (t : Nat) : State := ((s.at t).arrived l hdr).oweRing l

theorem State.epochSeen_ownerView (s : State) (lo : Byte) : (s.epochSeen lo).ownerView = s.ownerView := by
  simp only [State.epochSeen]
  split <;> rfl

theorem State.ringIn_ownerView (s : State) (l : LinkId) (hdr : MsgHdr) (t : Nat) : (s.ringIn l hdr t).ownerView = s.ownerView := by
  rw [State.ringIn, State.ownerView_congr (State.oweRing_frame _ l _ (by decide)), State.arrived, State.epochSeen_ownerView,
    State.ownerView_congr (State.heard_frame _ l _ (by decide))]
  rfl

theorem State.ringIn_frame (s : State) (l : LinkId) (hdr : MsgHdr) (t : Nat) (bm : BitVec 48) (hm : 0x230000004C#48 &&& ~~~ bm = 0) :
    blank bm (s.ringIn l hdr t) = blank bm s := by
  refine blank_mono hm ?_
  rw [State.ringIn, State.oweRing_frame _ l _ (by decide), State.arrived_frame _ l hdr _ (by decide), State.at_frame s t _ (by decide)]

theorem State.ringIn_ringView (s : State) (l : LinkId) (hdr : MsgHdr) (t : Nat) : (s.ringIn l hdr t).ringView = s.ringView :=
  State.ringView_congr (State.ringIn_frame s l hdr t _ (by decide))

theorem State.ringIn_chip (s : State) (l : LinkId) (hdr : MsgHdr) (t : Nat) : (s.ringIn l hdr t).boot.chipId = s.boot.chipId := by
  have h := congrArg (fun x => x.boot.chipId) (State.ringIn_frame s l hdr t 0x230000004C#48 (by decide))
  exact h

theorem State.ringIn_ringDown (s : State) (l : LinkId) (hdr : MsgHdr) (t : Nat) : (s.ringIn l hdr t).cfg.ringDown = s.cfg.ringDown := by
  have h := congrArg (fun x => x.cfg.ringDown) (State.ringIn_frame s l hdr t 0x230000004C#48 (by decide))
  exact h

theorem exec_ownerEntries {s : State} {l : LinkId} (hc : s.carries l = true) (hdr : MsgHdr) (epoch total : W32) (es : List W64) (t : Nat) :
    exec (.ownerEntries l hdr epoch total es t) s = .next (let s1 := s.ringIn l hdr t
      if hdr.src = s.boot.chipId then (if (s1.ringBack hdr).1 then (s1.ringBack hdr).2.commitOwn else (s1.ringBack hdr).2)
      else if orphan hdr then s1.countOrphan
      else (s1.stageEntries hdr epoch total es).passOn hdr (.ownerEntries epoch total es)) := by
  have hc' : (s.at t).carries l = true := hc
  rw [show exec (.ownerEntries l hdr epoch total es t) s = execOwnerEntries l hdr epoch total es t s from rfl, execOwnerEntries, if_neg (by simp [hc'])]
  simp only [apply_ite Host.Outcome.next]
  rfl

theorem exec_epochCommit {s : State} {l : LinkId} (hc : s.carries l = true) (hdr : MsgHdr) (epoch total : W32) (a m : W16) (t : Nat) :
    exec (.epochCommit l hdr epoch total a m t) s = .next (let s1 := s.ringIn l hdr t
      let r := (s1.ringBack hdr).2
      if hdr.src = s.boot.chipId then
        (if (s1.ringBack hdr).1 then
          ({ r with fwd := { r.fwd with applied := a.setWidth 13, missed := m.setWidth 13 } }).endPublish (decide (m = 0)) else r)
      else if orphan hdr then s1.countOrphan
      else (s1.commitOther epoch a m).1.passOn hdr (.epochCommit epoch total (s1.commitOther epoch a m).2.1 (s1.commitOther epoch a m).2.2)) := by
  have hc' : (s.at t).carries l = true := hc
  rw [show exec (.epochCommit l hdr epoch total a m t) s = execEpochCommit l hdr epoch total a m t s from rfl, execEpochCommit, if_neg (by simp [hc'])]
  simp only [apply_ite Host.Outcome.next]
  rfl

/-! ## Another chip's messages (R20, R366) -/

theorem State.send_ringView (s : State) (l : LinkId) (h : MsgHdr) (b : MsgBody) : (s.send l h b).ringView = s.ringView := by
  unfold State.send
  split
  · exact State.ringView_congr (by rw [State.sendNow, State.emit_frame _ l h b _ (by decide), State.updSess_frame s l _ _ (by decide)])
  · rfl

theorem State.downstream_ringView (s : State) (h : MsgHdr) (b : MsgBody) : (s.downstream h b).ringView = s.ringView := by
  unfold State.downstream
  split
  · exact State.send_ringView ..
  · rfl

theorem State.downstream_ownerView (s : State) (h : MsgHdr) (b : MsgBody) : (s.downstream h b).ownerView = s.ownerView :=
  State.ownerView_congr (State.downstream_frame s h b _ (by decide))

theorem State.passOn_ownerView (s : State) (h : MsgHdr) (b : MsgBody) : (s.passOn h b).ownerView = s.ownerView := State.downstream_ownerView ..

theorem State.sendNow_links (s : State) (l : LinkId) (h : MsgHdr) (b : MsgBody) : (s.sendNow l h b).pins.links = s.pins.links ++ [(l, h, b)] := by
  simp only [State.sendNow, State.emit]
  split <;> rfl

/-- A message that can go out downstream goes out there. -/
theorem State.downstream_links {s : State} {d : LinkId} (hd : s.cfg.ringDown.toNat = d.val) {h : MsgHdr} {b : MsgBody} (hs : s.canSend d h b = true) :
    (s.downstream h b).pins.links = s.pins.links ++ [(d, h, b)] := by
  have hlt : s.cfg.ringDown.toNat < 24 := hd ▸ d.isLt
  have he : (⟨s.cfg.ringDown.toNat, hlt⟩ : LinkId) = d := Fin.ext hd
  rw [State.downstream, dif_pos hlt, he, State.send, if_pos hs, State.sendNow_links]

theorem State.supersede_none {s : State} (h : s.fwd.publish = none) (epoch : W32) : s.supersede epoch = s := by
  simp only [State.supersede, h]

/-- Entries of another chip where nothing is staged and nothing is published (R366). -/
theorem State.stageEntries_fresh {s : State} (hs : s.fwd.staging = none) (hp : s.fwd.publish = none) (h : MsgHdr) (epoch total : W32) (es : List W64) :
    s.stageEntries h epoch total es = (let got := (indexed h.subtree.toNat es).foldl (fun g e => assocPut e.1 e.2 g) []
      let st := if s.fwd.epoch.get.toNat < epoch.toNat then some (Staging.mk epoch total.toNat got) else none
      { s with fwd := { s.fwd with staging := st } }) := by
  simp only [State.stageEntries, hs, State.supersede_none hp]
  split
  · rfl
  · rw [← hs]

theorem State.applyEpoch_ringView (s : State) : (s.applyEpoch.fwd.ring, s.applyEpoch.fwd.publish, s.applyEpoch.fwd.orphans)
    = (s.fwd.ring, s.fwd.publish, s.fwd.orphans) := by
  simp only [State.applyEpoch]
  split
  · rfl
  · rename_i h
    refine State.doIf_keeps (fun x => (x.fwd.ring, x.fwd.publish, x.fwd.orphans)) _ _ _ fun x => ?_
    exact congrArg (fun v => (v.ring, v.publish, v.orphans)) (State.ringView_congr (State.clampEntry_frame x _ 4 2 0 _ _ _ (by decide)))

theorem State.epochBoundary_ringView (s : State) (epoch : W32) (ws : List W64) :
    ((s.epochBoundary epoch ws).fwd.ring, (s.epochBoundary epoch ws).fwd.publish) = (s.fwd.ring, s.fwd.publish) :=
  congrArg (fun v => (v.1, v.2.1)) (State.applyEpoch_ringView _)

theorem State.epochBoundary_ownerView (s : State) (epoch : W32) (ws : List W64) :
    (s.epochBoundary epoch ws).ownerView = s.ownerView.renewed s.boot.chipId epoch ws := by
  rw [State.epochBoundary, State.ownerView_congr (State.applyEpoch_frame _ _ (by decide))]
  rfl

/-- A commit of a later epoch whose entries are all staged (R366). -/
theorem State.commitOther_staged {s : State} {epoch : W32} (he : s.fwd.epoch.get.toNat < epoch.toNat) {got : List (Nat × W64)}
    (hs : s.fwd.staging = some ⟨epoch, got.length, got⟩) (a m : W16) :
    s.commitOther epoch a m = (s.epochBoundary epoch (got.map (·.2)), a + 1, m) := by
  have hst : s.staged epoch = some (got.map (·.2)) := by simp [State.staged, hs]
  simp only [State.commitOther, if_neg (not_le.2 he), hst]

/-- A commit of a later epoch of which nothing is staged (R366). -/
theorem State.commitOther_missed {s : State} {epoch : W32} (he : s.fwd.epoch.get.toNat < epoch.toNat) (hs : s.fwd.staging = none) (a m : W16) :
    s.commitOther epoch a m = (({ s with fwd := { s.fwd with epochMissed := true } }).irqBlock 4, a, m + 1) := by
  have hst : s.staged epoch = none := by simp [State.staged, hs]
  simp only [State.commitOther, if_neg (not_le.2 he), hst]

/-! ## This chip's messages (R365) -/

theorem State.stopRing_rest (s : State) (f : RingMsg → Bool) :
    (s.stopRing f).fwd = { s.fwd with ring := s.fwd.ring.filter (fun m => !f m) } ∧ (s.stopRing f).boot = s.boot ∧ (s.stopRing f).queues = s.queues := by
  have h := foldl_keeps (fun x : State => (x.fwd, x.boot, x.queues)) (fun (s : State) (m : RingMsg) => s.timerDel (.ring m.seq)) (fun _ _ => rfl)
    (s.fwd.ring.filter f) s
  simp only [Prod.mk.injEq] at h
  obtain ⟨hf, hb, hq⟩ := h
  rw [State.stopRing, hf]
  exact ⟨rfl, hb, hq⟩

/-- The publication under way ends: its command ends, and no message is awaited any more (R365). -/
theorem State.endPublish_ends {s : State} {p : Publish} (hp : s.fwd.publish = some p) (ok : Bool) (hc : ∃ c ∈ (s.queue p.cmd.q).cmds, c.seq = p.cmd.seq) :
    (s.endPublish ok).fwd = { s.fwd with ring := [], publish := none }
      ∧ (ok = true → (s.endPublish ok).endedDone p.cmd) ∧ (ok = false → (s.endPublish ok).endedWith p.cmd stItem) := by
  obtain ⟨hf, -, hq⟩ := s.stopRing_rest (fun _ => true)
  have hc' : ∃ c ∈ ((s.stopRing fun _ => true).queue p.cmd.q).cmds, c.seq = p.cmd.seq := by rwa [State.queue_congr hq]
  have hfwd : (s.endPublish ok).fwd = { s.fwd with ring := [], publish := none } := by
    have hr : s.fwd.ring.filter (fun _ => !true) = [] := by simp
    simp only [State.endPublish, hp]
    cases ok
    all_goals
      simp only [hf, hr]
      rfl
  refine ⟨hfwd, fun h => ?_, fun h => ?_⟩
  · subst h
    simp only [State.endPublish, hp]
    exact State.endedDone_finishOk _ _ hc'
  · subst h
    simp only [State.endPublish, hp]
    exact State.endedWith_finish _ _ _ hc'

theorem State.timerAdd_ringView (s : State) (tm : Timer) (due : Nat) : (s.timerAdd tm due).ringView = s.ringView :=
  State.ringView_congr (State.timerAdd_frame s tm due _ (by decide))

theorem State.startRing_ownerView (s : State) (sub : W16) (b : MsgBody) : (s.startRing sub b).ownerView = s.ownerView :=
  State.ownerView_congr (State.startRing_frame s sub b _ (by decide))

/-- A message of this chip that starts round the ring is awaited; the publication is as it was. -/
theorem State.startRing_ringView (s : State) (sub : W16) (b : MsgBody) :
    (s.startRing sub b).ringView = { s.ringView with ring := s.fwd.ring ++ [⟨s.fwd.ringSeq, 0, s.ringHdr s.fwd.ringSeq sub, b⟩] } := by
  rw [State.startRing, State.timerAdd_ringView, State.downstream_ringView]
  rfl

/-- The last OWNER_ENTRIES of this chip has returned: it applies its own epoch, and its EPOCH_COMMIT goes round (R365). -/
theorem State.commitOwn_commits {s : State} {p : Publish} (hp : s.fwd.publish = some p) (hc : p.commit = false) (hr : s.fwd.ring = []) :
    s.commitOwn.ownerView = s.ownerView.renewed s.boot.chipId p.epoch (match s.fwd.staging with | some st => st.got.map (·.2) | none => [])
      ∧ s.commitOwn.fwd.publish = some { p with commit := true } ∧ s.commitOwn.fwd.ring.length = 1 := by
  have hb := s.epochBoundary_ringView p.epoch (match s.fwd.staging with | some st => st.got.map (·.2) | none => [])
  have hown := s.epochBoundary_ownerView p.epoch (match s.fwd.staging with | some st => st.got.map (·.2) | none => [])
  have he : (p.commit || !s.fwd.ring.isEmpty) = false := by rw [hc, hr]; rfl
  simp only [State.commitOwn, hp, he, Bool.false_eq_true, if_false]
  generalize s.epochBoundary p.epoch _ = u at hb hown ⊢
  have hring : u.fwd.ring = [] := (congrArg Prod.fst hb).trans hr
  have hv := State.startRing_ringView { u with fwd := { u.fwd with publish := some { p with commit := true } } } 0
    (.epochCommit p.epoch (BitVec.ofNat 32 p.total) 1 0)
  refine ⟨(State.startRing_ownerView ..).trans hown, congrArg RingView.publish hv, ?_⟩
  refine (congrArg (fun v => v.ring.length) hv).trans ?_
  simp [hring]

end Sys2Proof.Machine
end

section
/-!
Ring messages that do not return, the reload of the owner table and start-up step 10 (R365, R367, R390, R501, R503), and the obligation on
the owner tables.
-/

namespace Sys2Proof.Machine
open Sys2Proof

/-! ## RING_TIMEOUT (R365) -/

theorem State.fire_ringView (s : State) (tm : Timer) (t : Nat) : (s.fire tm t).ringView = s.ringView :=
  State.ringView_congr (State.fire_frame s tm t _ (by decide))

/-- A message that has not returned is sent again while its tries last (R365). -/
theorem exec_ringTimeout_again {s : State} {seq t : Nat} {m : RingMsg} (ha : s.active = true) (ht : s.timerFires (.ring seq) t = true)
    (hm : s.fwd.ring.find? (fun m => m.seq == seq) = some m) (hr : m.tries < s.fwd.ringRetry.force.toNat) :
    ∃ u, exec (.ringTimeout seq t) s = .next u ∧ u.fwd.ring = s.fwd.ring.map (fun x => if x.seq = seq then { x with tries := x.tries + 1 } else x)
      ∧ u.fwd.publish = s.fwd.publish := by
  have hv := s.fire_ringView (.ring seq) t
  have hring : (s.fire (.ring seq) t).fwd.ring = s.fwd.ring := congrArg RingView.ring hv
  have hretry : (s.fire (.ring seq) t).fwd.ringRetry = s.fwd.ringRetry := congrArg RingView.retry hv
  have hpub : (s.fire (.ring seq) t).fwd.publish = s.fwd.publish := congrArg RingView.publish hv
  rw [show exec (.ringTimeout seq t) s = execRingTimeout seq t s from rfl, execRingTimeout, if_pos (by rw [ha, ht]; rfl)]
  simp only [hring, hm, hretry, if_pos hr]
  refine ⟨_, rfl, ?_, ?_⟩
  · exact congrArg RingView.ring ((State.timerAdd_ringView ..).trans (State.downstream_ringView ..))
  · exact (congrArg RingView.publish ((State.timerAdd_ringView ..).trans (State.downstream_ringView ..))).trans hpub

/-- Its tries are over: the publication ends (R365). -/
theorem exec_ringTimeout_over {s : State} {seq t : Nat} {m : RingMsg} (ha : s.active = true) (ht : s.timerFires (.ring seq) t = true)
    (hm : s.fwd.ring.find? (fun m => m.seq == seq) = some m) (hr : s.fwd.ringRetry.force.toNat ≤ m.tries) :
    exec (.ringTimeout seq t) s = .next ((s.fire (.ring seq) t).endPublish false) := by
  have hv := s.fire_ringView (.ring seq) t
  have hring : (s.fire (.ring seq) t).fwd.ring = s.fwd.ring := congrArg RingView.ring hv
  have hretry : (s.fire (.ring seq) t).fwd.ringRetry = s.fwd.ringRetry := congrArg RingView.retry hv
  rw [show exec (.ringTimeout seq t) s = execRingTimeout seq t s from rfl, execRingTimeout, if_pos (by rw [ha, ht]; rfl)]
  simp only [hring, hm, hretry, if_neg (not_lt.2 hr)]

/-! ## A reload (R367) -/

/-- A reload that is ignored, after start-up. -/
theorem State.rejectReload_running {s : State} (h : s.inStep10 = false) :
    s.rejectReload = { s with fwd := { s.fwd with reloadReject := true } } := by
  have h' : (State.inStep10 { s with fwd := { s.fwd with reloadReject := true } }) = false := h
  simp only [State.rejectReload, h', State.doIf, Bool.false_eq_true, if_false]

/-- The entries of the table in memory: as many as RK_OWN_CTL names (R367). -/
def State.ownCount (s : State) : Nat := min s.fwd.ownEntries.toNat 65536

/-- The read of the table under the host partition's MMU root. -/
def State.ownRead (s : State) : Acc (List Byte) := s.vread s.hostPart (s.fwd.ownBase.get.toNat * 64) (8 * s.ownCount)

section
variable {s : State} {env : Env} {bs : List Byte}

theorem State.readTable_bad (h : s.inStep10 = false) (hb : s.ownRead = .ok bs) (hw : (words64 s.ownCount bs).any ownBad = true) :
    s.readTable env = { s with fwd := { s.fwd with reloadReject := true } } := by
  unfold State.ownRead State.ownCount at hb
  unfold State.ownCount at hw
  simp only [State.readTable, h, Bool.false_and, Bool.false_eq_true, if_false, hb, hw, if_true, State.rejectReload_running h, State.doIf]

theorem State.readTable_good (h : s.inStep10 = false) (hb : s.ownRead = .ok bs) (hw : (words64 s.ownCount bs).any ownBad = false) :
    s.readTable env = s.epochBoundary s.fwd.nextEpoch (words64 s.ownCount bs) := by
  unfold State.ownRead State.ownCount at hb
  unfold State.ownCount at hw
  simp only [State.readTable, h, Bool.false_and, Bool.false_eq_true, if_false, hb, hw, State.ownCount]

/-- At step 10 the table is applied and READY follows (R501, R503). -/
theorem State.readTable_step10 (h : s.inStep10 = true) (hm : (s.part s.hostPart).mmuEnable.force = true) (hb : s.ownRead = .ok bs)
    (hw : (words64 s.ownCount bs).any ownBad = false) :
    s.readTable env = (s.epochBoundary s.fwd.nextEpoch (words64 s.ownCount bs)).toReady := by
  unfold State.ownRead State.ownCount at hb
  unfold State.ownCount at hw
  simp only [State.readTable, h, hm, Bool.not_true, Bool.and_false, Bool.false_eq_true, if_false, if_true, hb, hw, State.ownCount]

end

/-! ## RK_OWN_CTL (R367, R390) -/

theorem fldN_setBit_above (w : W64) {i lo n : Nat} (h : lo + n ≤ i) : fldN (setBit w i true) lo n = fldN w lo n := by
  have hf : (fld (setBit w i true) lo n : BitVec n) = fld w lo n := by
    ext k hk
    have hki : ¬ i ≤ lo + k := by omega
    simp [fld, setBit, BitVec.getElem_extractLsb', hki]
  have h' := congrArg BitVec.toNat hf
  exact h'

/-- What OWNER_RELOAD writes to RK_OWN_CTL: the entries and the next epoch (R390). -/
def State.ownWritten (s : State) (value : W64) : State :=
  { s with fwd := { s.fwd with ownEntries := BitVec.ofNat 17 (fldN value 0 17), nextEpoch := fld value 32 32 } }

theorem State.regOwnCtl_reload (s : State) (env : Env) {value : W64} (h : fldN value 0 17 ≤ 65536) :
    s.regOwnCtl env (setBit value 31 true) (BitVec.allOnes 64) = (s.ownWritten value).reload env := by
  have hb : (bit (setBit value 31 true) 31 && bit (BitVec.allOnes 64 : W64) 31) = true := by
    rw [bit_setBit_self value (by decide)]
    decide
  have hm1 : ¬ (BitVec.allOnes 64 : W64) &&& 0x1FFFF = 0 := by decide
  have hm2 : ¬ (BitVec.allOnes 64 : W64) &&& (0xFFFFFFFF <<< 32) = 0 := by decide
  simp only [State.regOwnCtl, fldN_setBit_above value (show 0 + 17 ≤ 31 by decide), fld_setBit value 32 (show 31 < 32 by decide), hb, if_neg hm1,
    if_neg hm2, State.doIf, decide_eq_false (not_lt.2 h), Nat.min_eq_left h, Bool.false_eq_true, if_false, if_true]
  rfl

theorem State.ownWritten_ownCount (s : State) {value : W64} (h : fldN value 0 17 ≤ 65536) : (s.ownWritten value).ownCount = fldN value 0 17 := by
  simp only [State.ownCount, State.ownWritten, BitVec.toNat_ofNat]
  omega

theorem State.ownWritten_ownRead (s : State) {value : W64} (h : fldN value 0 17 ≤ 65536) :
    (s.ownWritten value).ownRead = s.vread s.hostPart (s.fwd.ownBase.get.toNat * 64) (8 * fldN value 0 17) := by
  rw [State.ownRead, s.ownWritten_ownCount h]
  exact State.vread_congr (s := s) (t := s.ownWritten value) rfl rfl rfl _ _ _

/-- OWNER_RELOAD writes RK_OWN_CTL and reloads. -/
theorem exec_ownerReload {s : State} {req : Requester} (hs : s.takesGlobal req) {value : W64} (env : Env) (h : fldN value 0 17 ≤ 65536) :
    exec (.ownerReload req value env) s = .next ((((s.at env.t).closed.ownWritten value).reload env).answer .ok) := by
  obtain ⟨hl, he, hr⟩ := hs
  have hl' : (s.at env.t).live = true := hl
  have he' : (s.at env.t).errored = false := he
  refine congrArg Host.Outcome.next ?_
  rw [State.globalWrite_closed _ hl' he' hr, State.regOwnCtl_reload _ env h]

theorem State.reload_running {s : State} (env : Env) (h : s.inStep10 = false) :
    s.reload env = if s.fwd.nextEpoch.toNat ≤ s.fwd.epoch.get.toNat ∨ s.fwd.reloading = true
      then { s with fwd := { s.fwd with reloadReject := true } } else s.readTable env := by
  simp only [State.reload, h, Bool.false_eq_true, if_false, State.rejectReload_running h, Bool.or_eq_true, decide_eq_true_eq]

section
variable {s : State} {req : Requester} {value : W64} {env : Env} (hs : s.takesGlobal req) (h10 : s.inStep10 = false) (hn : fldN value 0 17 ≤ 65536)
include hs h10 hn

/-- A RELOAD that R367 refuses leaves the table; RELOAD_REJECT is set. -/
theorem exec_ownerReload_ignored (h : (fld value 32 32 : W32).toNat ≤ s.fwd.epoch.get.toNat ∨ s.fwd.reloading = true) :
    ∃ u, exec (.ownerReload req value env) s = .next u
      ∧ u.ownerView = { s.ownerView with rejected := true, next := fld value 32 32 } := by
  have h10' : ((s.at env.t).closed.ownWritten value).inStep10 = false := h10
  have h' : ((s.at env.t).closed.ownWritten value).fwd.nextEpoch.toNat ≤ ((s.at env.t).closed.ownWritten value).fwd.epoch.get.toNat
      ∨ ((s.at env.t).closed.ownWritten value).fwd.reloading = true := h
  exact ⟨_, (exec_ownerReload hs env hn).trans (by rw [State.reload_running env h10', if_pos h']), rfl⟩

variable (he : s.fwd.epoch.get.toNat < (fld value 32 32 : W32).toNat) (hrl : s.fwd.reloading = false) {bs : List Byte}
  (hb : s.vread s.hostPart (s.fwd.ownBase.get.toNat * 64) (8 * fldN value 0 17) = .ok bs)
include he hrl hb

/-- A reload after start-up that R367 takes reads the table. -/
theorem exec_ownerReload_reads : let w := (s.at env.t).closed.ownWritten value
    exec (.ownerReload req value env) s = .next ((w.readTable env).answer .ok) ∧ w.inStep10 = false ∧ w.ownRead = .ok bs
      ∧ w.ownCount = fldN value 0 17 := by
  intro w
  have h10' : w.inStep10 = false := h10
  have h' : ¬ (w.fwd.nextEpoch.toNat ≤ w.fwd.epoch.get.toNat ∨ w.fwd.reloading = true) := by
    rintro (h | h)
    · exact absurd he (not_lt.2 h)
    · exact absurd (hrl.symm.trans h) Bool.false_ne_true
  refine ⟨(exec_ownerReload hs env hn).trans (by rw [State.reload_running env h10', if_neg h']), h10', ?_, State.ownWritten_ownCount _ hn⟩
  rw [State.ownWritten_ownRead _ hn, ← hb]
  exact State.vread_congr (s := s) (t := (s.at env.t).closed) rfl rfl rfl _ _ _

/-- A table with an entry that R361 does not allow is not applied. -/
theorem exec_ownerReload_bad (hbad : (words64 (fldN value 0 17) bs).any ownBad = true) :
    ∃ u, exec (.ownerReload req value env) s = .next u ∧ u.ownerView = { s.ownerView with rejected := true, next := fld value 32 32 } := by
  obtain ⟨hx, h10', hread, hcount⟩ := exec_ownerReload_reads hs h10 hn he hrl hb
  exact ⟨_, hx.trans (by rw [State.readTable_bad h10' hread (by rw [hcount]; exact hbad)]), rfl⟩

/-- A sound table becomes the current one, under NEXT_EPOCH. -/
theorem exec_ownerReload_good (hgood : (words64 (fldN value 0 17) bs).any ownBad = false) :
    ∃ u, exec (.ownerReload req value env) s = .next u
      ∧ u.ownerView = OwnerView.renewed { s.ownerView with next := fld value 32 32 } s.boot.chipId (fld value 32 32) (words64 (fldN value 0 17) bs) := by
  obtain ⟨hx, h10', hread, hcount⟩ := exec_ownerReload_reads hs h10 hn he hrl hb
  refine ⟨_, hx.trans (by rw [State.readTable_good h10' hread (by rw [hcount]; exact hgood), hcount]), ?_⟩
  exact State.epochBoundary_ownerView ..

end

/-! ## Step 10 of start-up (R501, R503) -/

/-- Accesses of a partition depend on memory, its root and its translations only. -/
theorem State.vread_paged {s t : State} {p : PartId} (hm : t.mem = s.mem) (hr : (t.part p).mmuRoot = (s.part p).mmuRoot)
    (he : (t.part p).mmuEnable = (s.part p).mmuEnable) (ht : t.mmu.tlb = s.mmu.tlb) (hb : t.mmu.badPtes = s.mmu.badPtes) (va n : Nat) :
    t.vread p va n = s.vread p va n := by
  have htr : ∀ k va, t.translate p k va = s.translate p k va := fun k va => by
    have hhit : t.tlbHit p va = s.tlbHit p va := by simp only [State.tlbHit, ht]
    have hwalk : t.walk p k va = s.walk p k va := by simp only [State.walk, State.rootTable, hr, he, hm, hb]
    simp only [State.translate, he, hhit, hwalk]
  have hx : ∀ l, t.xlat p .read l = s.xlat p .read l := fun l => by
    induction l with
    | nil => rfl
    | cons a r ih => simp only [State.xlat, htr, ih]
  simp only [State.vread, hx, hm]

theorem State.part_unpark (s : State) (f : Parked → Bool) (p : PartId) :
    (s.unpark f).part p = { s.part p with overflow := (s.part p).overflow.filter (fun o => !f o.work) } := by
  simp [State.part, State.unpark]

/-- A retry of step 10 begins: no reload is parked any more. -/
def State.retried (s : State) : State := s.leaveReload.setBp 0

theorem State.retried_ownRead (s : State) : s.retried.ownRead = s.ownRead := by
  have hp : s.retried.part s.hostPart = (s.unpark (fun w => match w with | .reload => true | _ => false)).part s.hostPart := rfl
  rw [State.part_unpark] at hp
  refine State.vread_paged (s := s) (t := s.retried) (p := s.hostPart) rfl ?_ ?_ rfl rfl (s.fwd.ownBase.get.toNat * 64) (8 * s.ownCount) <;> rw [hp]

theorem State.retried_mmuEnable (s : State) : (s.retried.part s.retried.hostPart).mmuEnable = (s.part s.hostPart).mmuEnable := by
  have hp : s.retried.part s.hostPart = (s.unpark (fun w => match w with | .reload => true | _ => false)).part s.hostPart := rfl
  rw [State.part_unpark] at hp
  exact hp ▸ rfl

theorem State.reload_step10 {s : State} (env : Env) (h : s.inStep10 = true) (hn : s.fwd.epoch.get.toNat < s.fwd.nextEpoch.toNat) :
    s.reload env = s.retried.readTable env := by
  have hc : (decide (s.retried.fwd.nextEpoch.toNat ≤ s.retried.fwd.epoch.get.toNat) || s.retried.fwd.reloading) = false := by
    have h1 : decide (s.fwd.nextEpoch.toNat ≤ s.fwd.epoch.get.toNat) = false := decide_eq_false (not_le.2 hn)
    exact (Bool.or_false _).trans h1
  unfold State.retried at hc ⊢
  simp only [State.reload, h, if_true, hc, Bool.false_eq_true, if_false]

/-- READY (R501 step 11). -/
theorem State.toReady_ready (s : State) : s.toReady.boot.state = stReady ∧ s.toReady.boot.step = 11 ∧ s.toReady.boot.bp = 10000 := by
  have h : s.toReady.boot = { (s.bootStep 11).boot with bp := 10000, state := stReady } := State.doIf_keeps State.boot _ _ _ fun _ => rfl
  rw [h]
  exact ⟨rfl, rfl, rfl⟩

theorem State.toReady_ownerView (s : State) : s.toReady.ownerView = s.ownerView := State.ownerView_congr (State.toReady_frame s _ (by decide))

/-- OWNER_TABLE_FETCH at step 10 that does not stall. -/
theorem exec_ownerTableFetch {s : State} (env : Env) (hl : s.live = true) (h : s.inStep10 = true) (hst : s.boot.stall = 0) :
    exec (.ownerTableFetch env) s = .next (if s.fwd.nextEpoch = 0 then (s.at env.t).toReady else (s.at env.t).reload env) := by
  have hl' : (s.at env.t).live = true := hl
  have h' : (s.at env.t).inStep10 = true := h
  have h9 : (s.at env.t).inStep9 = false := by
    have hs : s.boot.step = 10 := by simpa using (Bool.and_eq_true_iff.1 h).2
    simp [State.inStep9, State.at, hs]
  have hc : (!(s.at env.t).inStep10 || decide ((s.at env.t).boot.stall ≠ 0)) = false := by
    rw [h', show (s.at env.t).boot.stall = 0 from hst]
    rfl
  rw [show exec (.ownerTableFetch env) s = execOwnerTableFetch env s from rfl, execOwnerTableFetch]
  simp only [hl', h9, Bool.false_and, Bool.not_true, Bool.false_eq_true, if_false, hc]
  exact (apply_ite Host.Outcome.next ..).symm

/-- At step 10 a sound table becomes the current one, and the block is READY (R501, R503). -/
theorem exec_ownerTableFetch_applies {s : State} (env : Env) (hl : s.live = true) (h : s.inStep10 = true) (hst : s.boot.stall = 0)
    (he : s.fwd.epoch.get.toNat < s.fwd.nextEpoch.toNat) (hm : (s.part s.hostPart).mmuEnable.force = true) {bs : List Byte}
    (hb : s.vread s.hostPart (s.fwd.ownBase.get.toNat * 64) (8 * s.ownCount) = .ok bs) (hgood : (words64 s.ownCount bs).any ownBad = false) :
    ∃ u, exec (.ownerTableFetch env) s = .next u ∧ (u.boot.state = stReady ∧ u.boot.step = 11 ∧ u.boot.bp = 10000)
      ∧ u.ownerView = s.ownerView.renewed s.boot.chipId s.fwd.nextEpoch (words64 s.ownCount bs) := by
  have h0 : ¬ s.fwd.nextEpoch = 0 := fun h0 => by
    rw [h0] at he
    exact Nat.not_lt_zero _ he
  have hread : (s.at env.t).retried.ownRead = .ok bs := (State.retried_ownRead _).trans
    ((State.vread_congr (s := s) (t := s.at env.t) rfl rfl rfl s.hostPart (s.fwd.ownBase.get.toNat * 64) (8 * s.ownCount)).trans hb)
  have hen : ((s.at env.t).retried.part (s.at env.t).retried.hostPart).mmuEnable.force = true :=
    (congrArg Sh.force (State.retried_mmuEnable (s.at env.t))).trans hm
  have htable := State.readTable_step10 (env := env) (s := (s.at env.t).retried) h hen hread hgood
  refine ⟨_, (exec_ownerTableFetch env hl h hst).trans (by rw [if_neg h0, State.reload_step10 env (s := s.at env.t) h he, htable]),
    State.toReady_ready _, ?_⟩
  rw [State.toReady_ownerView, State.epochBoundary_ownerView]
  rfl

/-! ## The obligation -/

/-- The tables are those of an epoch boundary (R360, R364). -/
theorem OwnerView.renewed_fields {u : State} {x : OwnerView} {chip : ChipId} {epoch : W32} {ws : List W64} (h : u.ownerView = x.renewed chip epoch ws) :
    u.fwd.table = ownTable ws ∧ u.fwd.epoch = .all epoch ∧ u.fwd.prevMap = ownedBy x.table chip ∧ u.fwd.staging = none
      ∧ u.fwd.bad = [] :=
  ⟨congrArg OwnerView.table h, congrArg OwnerView.epoch h, congrArg OwnerView.prevMap h, congrArg OwnerView.staging h, congrArg OwnerView.bad h⟩

/-- The current table is as it was. -/
theorem OwnerView.kept_fields {s u : State} {x : OwnerView} (h : u.ownerView = x) (ht : x.table = s.fwd.table) (he : x.epoch = s.fwd.epoch)
    (hp : x.prevMap = s.fwd.prevMap) : u.fwd.table = s.fwd.table ∧ u.fwd.epoch = s.fwd.epoch ∧ u.fwd.prevMap = s.fwd.prevMap :=
  ⟨(congrArg OwnerView.table h).trans ht, (congrArg OwnerView.epoch h).trans he, (congrArg OwnerView.prevMap h).trans hp⟩

section
/-! What a message does to the tables, read off the state `s1` in which it has been taken. -/

variable {s s1 : State} (hv : s1.ownerView = s.ownerView) {hdr : MsgHdr} {epoch total : W32}
include hv

/-- A message retired as orphaned leaves the tables, the staging copy and the links (R20). -/
theorem State.countOrphan_counts (hrv : s1.ringView = s.ringView) :
    s1.countOrphan.fwd.orphans = satInc s.fwd.orphans
      ∧ (s1.countOrphan.fwd.table = s.fwd.table ∧ s1.countOrphan.fwd.epoch = s.fwd.epoch ∧ s1.countOrphan.fwd.prevMap = s.fwd.prevMap)
      ∧ s1.countOrphan.fwd.staging = s.fwd.staging ∧ s1.countOrphan.pins.links = s1.pins.links :=
  ⟨congrArg (fun v : RingView => satInc v.orphans) hrv, OwnerView.kept_fields hv rfl rfl rfl, congrArg OwnerView.staging hv, rfl⟩

/-- Entries of a later epoch are staged, and every message goes on (R20, R366). -/
theorem State.stageEntries_passOn (hrv : s1.ringView = s.ringView) (hst : s.fwd.staging = none) (hp : s.fwd.publish = none) (es : List W64)
    (h : MsgHdr) (b : MsgBody) :
    let u := (s1.stageEntries hdr epoch total es).passOn h b
    (u.fwd.table = s.fwd.table ∧ u.fwd.epoch = s.fwd.epoch ∧ u.fwd.prevMap = s.fwd.prevMap)
      ∧ u.fwd.staging = (if s.fwd.epoch.get.toNat < epoch.toNat
          then some ⟨epoch, total.toNat, (indexed hdr.subtree.toNat es).foldl (fun g e => assocPut e.1 e.2 g) []⟩ else none) := by
  have hst1 : s1.fwd.staging = none := (congrArg OwnerView.staging hv).trans hst
  have hp1 : s1.fwd.publish = none := (congrArg RingView.publish hrv).trans hp
  have he1 : s1.fwd.epoch = s.fwd.epoch := congrArg OwnerView.epoch hv
  rw [State.stageEntries_fresh hst1 hp1, he1]
  refine ⟨?_, congrArg OwnerView.staging (State.passOn_ownerView ..)⟩
  exact OwnerView.kept_fields (State.passOn_ownerView ..) (congrArg OwnerView.table hv) he1 (congrArg OwnerView.prevMap hv)

/-- The entries go out downstream with one hop more, where they can (R20, R366). -/
theorem State.stageEntries_onward (hrv : s1.ringView = s.ringView) (hst : s.fwd.staging = none) (hp : s.fwd.publish = none) (es : List W64) {d : LinkId}
    (hd : s1.cfg.ringDown.toNat = d.val) {b : MsgBody}
    (hsend : s1.canSend d { hdr with queryId := BitVec.ofNat 32 (packN [(13, ringHops hdr + 1), (19, ringSeqOf hdr)]) } b = true) :
    ((s1.stageEntries hdr epoch total es).passOn hdr b).pins.links
      = s1.pins.links ++ [(d, { hdr with queryId := BitVec.ofNat 32 (packN [(13, ringHops hdr + 1), (19, ringSeqOf hdr)]) }, b)] := by
  have hst1 : s1.fwd.staging = none := (congrArg OwnerView.staging hv).trans hst
  have hp1 : s1.fwd.publish = none := (congrArg RingView.publish hrv).trans hp
  rw [State.stageEntries_fresh hst1 hp1]
  extract_lets got st
  exact State.downstream_links (s := { s1 with fwd := { s1.fwd with staging := st } }) (d := d) hd hsend

/-- A commit of a later epoch that is staged whole makes it the current one (R366). -/
theorem State.commitOther_renews (hchip : s1.boot.chipId = s.boot.chipId) (he : s.fwd.epoch.get.toNat < epoch.toNat) {got : List (Nat × W64)}
    (hst : s.fwd.staging = some ⟨epoch, got.length, got⟩) (a m : W16) (h : MsgHdr) (b : MsgBody) :
    ((s1.commitOther epoch a m).1.passOn h b).ownerView = s.ownerView.renewed s.boot.chipId epoch (got.map (·.2)) := by
  have hst1 : s1.fwd.staging = some ⟨epoch, got.length, got⟩ := (congrArg OwnerView.staging hv).trans hst
  have he1 : s1.fwd.epoch = s.fwd.epoch := congrArg OwnerView.epoch hv
  rw [State.passOn_ownerView, State.commitOther_staged (he1 ▸ he) hst1, State.epochBoundary_ownerView, hv, hchip]

/-- A commit of a later epoch of which nothing is staged is missed (R366). -/
theorem State.commitOther_misses (he : s.fwd.epoch.get.toNat < epoch.toNat) (hst : s.fwd.staging = none) (a m : W16) (h : MsgHdr) (b : MsgBody) :
    ((s1.commitOther epoch a m).1.passOn h b).ownerView = { s.ownerView with missed := true } := by
  have hst1 : s1.fwd.staging = none := (congrArg OwnerView.staging hv).trans hst
  have he1 : s1.fwd.epoch = s.fwd.epoch := congrArg OwnerView.epoch hv
  rw [State.passOn_ownerView, State.commitOther_missed (he1 ▸ he) hst1, ← hv]
  rfl

/-- A message of this chip that returns is awaited no more; nothing else changes. -/
theorem State.ringBack_ownerView (h : MsgHdr) : (s1.ringBack h).2.ownerView = s.ownerView := by
  obtain ⟨hf, -, -⟩ := s1.stopRing_rest (fun m => decide (m.seq % 2 ^ 19 = ringSeqOf h))
  rw [← hv]
  simp only [State.ownerView, State.ringBack, hf]

end

/-- The last message of a publication has returned: its command ends, with the counts that it brings (R365). -/
theorem State.endPublish_counts {s : State} {p : Publish} (hp : s.fwd.publish = some p) (hc : ∃ c ∈ (s.queue p.cmd.q).cmds, c.seq = p.cmd.seq)
    (a m : W16) :
    let u := ({ s with fwd := { s.fwd with applied := a.setWidth 13, missed := m.setWidth 13 } }).endPublish (decide (m = 0))
    u.fwd = { s.fwd with applied := a.setWidth 13, missed := m.setWidth 13, ring := [], publish := none }
      ∧ (m = 0 → u.endedDone p.cmd) ∧ (m ≠ 0 → u.endedWith p.cmd stItem) := by
  obtain ⟨hf, hdone, hitem⟩ := State.endPublish_ends
    (s := { s with fwd := { s.fwd with applied := a.setWidth 13, missed := m.setWidth 13 } }) hp (decide (m = 0)) hc
  exact ⟨hf, fun h => hdone (decide_eq_true h), fun h => hitem (decide_eq_false h)⟩

/-- Settles O44, message by message: another chip's entries and commits, this chip's that return or do not, and the reload after and during
start-up. -/
theorem ownerTablesGoRoundTheRing : Obligations.OwnerTablesGoRoundTheRing := by
  intro l hdr epoch total t s s1 newTable sameTable onward awaited
  have hs1 : s.ringIn l hdr t = s1 := rfl
  have hv : s1.ownerView = s.ownerView := s.ringIn_ownerView l hdr t
  have hrv : s1.ringView = s.ringView := s.ringIn_ringView l hdr t
  have hchip : s1.boot.chipId = s.boot.chipId := s.ringIn_chip l hdr t
  have hdown : s1.cfg.ringDown = s.cfg.ringDown := s.ringIn_ringDown l hdr t
  have hqueues : Comp.queues.same s s1 := Comp.same_queues (State.ringIn_frame s l hdr t _ (by decide))
  have hentries := fun hc es => hs1 ▸ exec_ownerEntries (s := s) (l := l) hc hdr epoch total es t
  have hcommit := fun hc a m => hs1 ▸ exec_epochCommit (s := s) (l := l) hc hdr epoch total a m t
  clear_value s1
  refine ⟨fun hc hsrc => ⟨fun es ho => ?orphanEntries, fun a m ho => ?orphanCommit,
      fun ho => ⟨fun es hst hp => ?entries, fun a m he => ⟨fun got hst => ?commit, fun hst => ?missed⟩⟩⟩,
    fun hc hsrc hany p hp => ⟨fun es hpc hring => ?ownEntries, fun a m hcmd => ?ownCommit⟩,
    fun seq m ha ht hm => ⟨fun hr => exec_ringTimeout_again ha ht hm hr, fun hr p hp hcmd => ?unreturned⟩,
    fun req value env hs h10 hn => ⟨fun h => ?ignored, fun he hrl bs hb => ⟨fun hbad => ?badTable, fun hgood => ?reloaded⟩⟩,
    fun env hl h10 hst => ⟨fun h0 => ?skipped, fun he hm bs hb hgood => ?fetched⟩⟩
  case orphanEntries => exact ⟨_, (hentries hc es).trans (by rw [if_neg hsrc, if_pos ho]), State.countOrphan_counts hv hrv⟩
  case orphanCommit => exact ⟨_, (hcommit hc a m).trans (by rw [if_neg hsrc, if_pos ho]), State.countOrphan_counts hv hrv⟩
  case entries =>
    refine ⟨_, (hentries hc es).trans (by rw [if_neg hsrc, if_neg (ho ▸ Bool.false_ne_true)]), ?_⟩
    obtain ⟨hsame, hstaging⟩ := State.stageEntries_passOn hv hrv hst hp es (hdr := hdr) (epoch := epoch) (total := total) hdr (.ownerEntries epoch total es)
    exact ⟨hsame, hstaging, fun d hd hsend => State.stageEntries_onward hv hrv hst hp es (hdown ▸ hd) hsend⟩
  case commit =>
    have h := State.commitOther_renews hv hchip he hst a m hdr (.epochCommit epoch total (s1.commitOther epoch a m).2.1 (s1.commitOther epoch a m).2.2)
    exact ⟨_, (hcommit hc a m).trans (by rw [if_neg hsrc, if_neg (ho ▸ Bool.false_ne_true)]), OwnerView.renewed_fields h, congrArg OwnerView.missed h⟩
  case missed =>
    have h := State.commitOther_misses hv he hst a m hdr (.epochCommit epoch total (s1.commitOther epoch a m).2.1 (s1.commitOther epoch a m).2.2)
    exact ⟨_, (hcommit hc a m).trans (by rw [if_neg hsrc, if_neg (ho ▸ Bool.false_ne_true)]), OwnerView.kept_fields h rfl rfl rfl,
      congrArg OwnerView.missed h⟩
  case ownEntries =>
    obtain ⟨hf, hb, -⟩ := s1.stopRing_rest awaited
    have hany1 : (s1.ringBack hdr).1 = true := (congrArg (fun v : RingView => v.ring.any awaited) hrv).trans hany
    have hp1 : (s1.ringBack hdr).2.fwd.publish = some p := (congrArg Fwd.publish hf).trans ((congrArg RingView.publish hrv).trans hp)
    have hr1 : (s1.ringBack hdr).2.fwd.ring = [] :=
      (congrArg Fwd.ring hf).trans ((congrArg (fun v : RingView => v.ring.filter (fun m => !awaited m)) hrv).trans hring)
    have hv1 := State.ringBack_ownerView hv hdr
    have hchip1 : (s1.ringBack hdr).2.boot.chipId = s.boot.chipId := (congrArg Boot.chipId hb).trans hchip
    have hst1 : (s1.ringBack hdr).2.fwd.staging = s.fwd.staging := congrArg OwnerView.staging hv1
    obtain ⟨hview, hpub, hlen⟩ := State.commitOwn_commits hp1 hpc hr1
    rw [hv1, hchip1, hst1] at hview
    exact ⟨_, (hentries hc es).trans (by rw [if_pos hsrc, if_pos hany1]), OwnerView.renewed_fields hview, hpub, hlen⟩
  case ownCommit =>
    obtain ⟨hf, -, hq⟩ := s1.stopRing_rest awaited
    have hany1 : (s1.ringBack hdr).1 = true := (congrArg (fun v : RingView => v.ring.any awaited) hrv).trans hany
    have hp1 : (s1.ringBack hdr).2.fwd.publish = some p := (congrArg Fwd.publish hf).trans ((congrArg RingView.publish hrv).trans hp)
    have hq1 : (s1.ringBack hdr).2.queue p.cmd.q = s.queue p.cmd.q := (State.queue_congr hq _).trans (State.queue_congr hqueues _)
    have hv1 := State.ringBack_ownerView hv hdr
    obtain ⟨hfwd, hdone, hitem⟩ := State.endPublish_counts hp1 (hq1 ▸ hcmd) a m
    refine ⟨_, (hcommit hc a m).trans (by rw [if_pos hsrc, if_pos hany1]), congrArg Fwd.applied hfwd, congrArg Fwd.missed hfwd,
      congrArg Fwd.publish hfwd, congrArg Fwd.ring hfwd, ⟨?_, ?_, ?_⟩, hdone, hitem⟩
    · exact (congrArg Fwd.table hfwd).trans (congrArg OwnerView.table hv1)
    · exact (congrArg Fwd.epoch hfwd).trans (congrArg OwnerView.epoch hv1)
    · exact (congrArg Fwd.prevMap hfwd).trans (congrArg OwnerView.prevMap hv1)
  case unreturned =>
    have hrv1 := s.fire_ringView (.ring seq) t
    have hq1 : (s.fire (.ring seq) t).queue p.cmd.q = s.queue p.cmd.q := State.queue_congr (Comp.same_queues (State.fire_frame s _ t _ (by decide))) _
    obtain ⟨hfwd, -, hitem⟩ := State.endPublish_ends ((congrArg RingView.publish hrv1).trans hp) false (hq1 ▸ hcmd)
    exact ⟨_, exec_ringTimeout_over ha ht hm hr, congrArg Fwd.ring hfwd, congrArg Fwd.publish hfwd, hitem rfl⟩
  case ignored =>
    obtain ⟨u, hx, h⟩ := exec_ownerReload_ignored hs h10 hn h
    exact ⟨u, hx, congrArg OwnerView.rejected h, OwnerView.kept_fields h rfl rfl rfl, congrArg OwnerView.next h⟩
  case badTable =>
    obtain ⟨u, hx, h⟩ := exec_ownerReload_bad hs h10 hn he hrl hb hbad
    exact ⟨u, hx, congrArg OwnerView.rejected h, OwnerView.kept_fields h rfl rfl rfl⟩
  case reloaded =>
    obtain ⟨u, hx, h⟩ := exec_ownerReload_good hs h10 hn he hrl hb hgood
    exact ⟨u, hx, OwnerView.renewed_fields h, congrArg OwnerView.rejected h⟩
  case skipped =>
    refine ⟨_, (exec_ownerTableFetch env hl h10 hst).trans (by rw [if_pos h0]), State.toReady_ready _, ?_⟩
    exact OwnerView.kept_fields (State.toReady_ownerView _) rfl rfl rfl
  case fetched =>
    obtain ⟨u, hx, hready, h⟩ := exec_ownerTableFetch_applies env hl h10 hst he hm hb hgood
    exact ⟨u, hx, hready, OwnerView.renewed_fields h⟩

end Sys2Proof.Machine
end

section
/-!
Registers of a group, the slots of the cores, and the calls of role 3 and 5 programs (R276, R278, R279, R298).
-/

namespace Sys2Proof.Machine
open Sys2Proof

/-! ## Association lists -/

theorem assocGet_assocPut {α : Type} (i : Nat) (a : α) (l : List (Nat × α)) : assocGet i (assocPut i a l) = some a := by
  induction l with
  | nil => simp [assocPut, assocGet]
  | cons e r ih =>
    obtain ⟨k, v⟩ := e
    simp only [assocPut]
    split
    · simp [assocGet]
    · split
      · simp [assocGet]
      · rename_i hne
        have hk : ¬ k = i := fun h => hne h.symm
        simpa [assocGet, hk] using ih

theorem assocGet_assocPut_ne {α : Type} {i j : Nat} (h : j ≠ i) (a : α) (l : List (Nat × α)) : assocGet j (assocPut i a l) = assocGet j l := by
  have hi : ¬ i = j := fun e => h e.symm
  induction l with
  | nil => simp [assocPut, assocGet, hi]
  | cons e r ih =>
    obtain ⟨k, v⟩ := e
    simp only [assocPut]
    split
    · simp [assocGet, hi]
    · split
      · rename_i hk
        have hkj : ¬ k = j := hk ▸ hi
        simp [assocGet, hi, hkj]
      · simp only [assocGet, List.findSome?_cons] at ih ⊢
        rw [ih]

/-! ## Registers (R276) -/

theorem Group.vreg_setV (g : Group) (n : Nat) (f : Fin 32 → Option W32) (l : Fin 32) : (g.setV n f).vreg n l = (f l).getD (g.vreg n l) := by
  have h : assocGet n (g.setV n f).vregs = some (Vector.ofFn (fun l => (f l).getD (g.vreg n l))) := assocGet_assocPut ..
  simp only [Group.vreg, h]
  simp

theorem Group.vreg_setV_ne (g : Group) {n m : Nat} (h : m ≠ n) (f : Fin 32 → Option W32) (l : Fin 32) : (g.setV n f).vreg m l = g.vreg m l := by
  have h' : assocGet m (g.setV n f).vregs = assocGet m g.vregs := assocGet_assocPut_ne h ..
  simp only [Group.vreg, h']
  rfl

/-- Registers loaded one after the other: each lane of a register gets what its row gives. -/
theorem Group.vreg_loads (f : Nat → Fin 32 → Option W32) (ks : List Nat) (hn : ks.Nodup) (g : Group) {n : Nat} (hm : n ∈ ks) (l : Fin 32) :
    (ks.foldl (fun (g : Group) k => g.setV k (f k)) g).vreg n l = (f n l).getD (g.vreg n l) := by
  have hrest : ∀ (ks : List Nat) (g : Group), n ∉ ks → (ks.foldl (fun (g : Group) k => g.setV k (f k)) g).vreg n l = g.vreg n l := by
    intro ks
    induction ks with
    | nil => exact fun _ _ => rfl
    | cons k r ih =>
      intro g hnot
      rw [List.foldl_cons, ih _ (fun h => hnot (List.mem_cons_of_mem _ h)), Group.vreg_setV_ne _ (fun h : n = k => hnot (h ▸ List.mem_cons_self))]
  induction ks generalizing g with
  | nil => exact absurd hm List.not_mem_nil
  | cons k r ih =>
    obtain ⟨hk, hr⟩ := List.nodup_cons.1 hn
    rw [List.foldl_cons]
    by_cases hnk : n = k
    · subst hnk
      rw [hrest r _ hk, Group.vreg_setV]
    · rw [ih hr _ (List.mem_of_ne_of_mem hnk hm), Group.vreg_setV_ne _ hnk]

/-- A load changes the vector registers only. -/
theorem Group.load_rest (g : Group) (rows : List (List W32)) : g.load rows = { g with vregs := (g.load rows).vregs } := by
  have h : ∀ (ks : List Nat) (g : Group), ∃ v,
      ks.foldl (fun (g : Group) k => g.setV k (fun l => (rows[l.val]?).bind (fun r => r[k]?))) g = { g with vregs := v } := by
    intro ks
    induction ks with
    | nil => exact fun g => ⟨g.vregs, rfl⟩
    | cons k r ih =>
      intro g
      obtain ⟨v, hv⟩ := ih (g.setV k (fun l => (rows[l.val]?).bind (fun r => r[k]?)))
      exact ⟨v, hv⟩
  obtain ⟨v, hv⟩ := h (List.range (rows.foldl (fun a r => max a r.length) 0)) g
  rw [Group.load, hv]

theorem Group.vreg_load (g : Group) (rows : List (List W32)) {n : Nat} (hn : n < rows.foldl (fun a r => max a r.length) 0) (l : Fin 32) :
    (g.load rows).vreg n l = ((rows[l.val]?).bind (fun r => r[n]?)).getD (g.vreg n l) :=
  Group.vreg_loads (fun k l => (rows[l.val]?).bind (fun r => r[k]?)) _ List.nodup_range g (List.mem_range.2 hn) l

theorem foldl_max_ge (l : List (List W32)) (a : Nat) : a ≤ l.foldl (fun a r => max a r.length) a := by
  induction l generalizing a with
  | nil => exact le_rfl
  | cons r t ih => exact le_trans (le_max_left _ _) (ih _)

/-! ## Calls (R278, R279) -/

theorem State.callGroup_rest (s : State) (p : PartId) (g : Prog) (port : PortId) (hdr : Slot64) (args : List (BitVec 128)) :
    let y := s.callGroup p g port hdr args
    y.cls = 2 ∧ y.launch = BitVec.ofNat 32 (2 ^ rb hdr 1 1 - 1) ∧ y.active = y.launch ∧ y.tag = fld hdr 32 32 ∧ y.pc = BitVec.ofNat 32 g.entry := by
  simp only [State.callGroup]
  rw [Group.load_rest]
  exact ⟨rfl, rfl, rfl, rfl, rfl⟩

/-- Lane n of a call's group holds record n in v0 to v3 (R278). -/
theorem State.callGroup_vreg (s : State) (p : PartId) (g : Prog) (port : PortId) (hdr : Slot64) {args : List (BitVec 128)} (h : args.length = 32)
    (l : Fin 32) {k : Nat} (hk : k < 4) : (s.callGroup p g port hdr args).vreg k l = fld (args.getD l.val 0) (32 * k) 32 := by
  have ht : args.take 32 = args := List.take_of_length_le (by omega)
  have hl : l.val < args.length := by omega
  have hn : k < ((args.take 32).map (fun a => (List.range 4).map (fun k => (fld a (32 * k) 32 : W32)))).foldl (fun a r => max a r.length) 0 := by
    rw [ht]
    cases args with
    | nil => exact absurd h (by decide)
    | cons a r =>
      refine lt_of_lt_of_le ?_ (foldl_max_ge (r.map (fun a => (List.range 4).map (fun k => (fld a (32 * k) 32 : W32)))) 4)
      exact hk
  rw [State.callGroup, Group.vreg_load _ _ hn, ht]
  simp [hl, hk]

/-- The calls of a port, slot and program wait for one block or cluster set (R279). -/
def callOf (port : PortId) (slot : Nat) (g : Prog) (e : PortId × Prog × Slot64 × List (BitVec 128)) : Bool :=
  decide (e.1 = port) && decide (e.2.1 = g) && rb e.2.2.1 0 1 == slot

/-- The core whose load and its set's is the least, of those with room in their queue (R279, R298). -/
def State.callCore (s : State) (p : PartId) (g : Prog) : Option CoreId :=
  leastBy (fun c => ((List.range g.cluster).map (fun k => s.coreLoad (coreNo (c.val + k)))).sum)
    ((s.coreSets p s.sel g.cluster).filter (fun c => decide (s.queued c < 8)))

section
variable {s : State} {port : PortId} {slot : Nat} {g : Prog} {p : PartId}

/-- Calls that do not fill a block, or whose cores have no room, go on waiting. -/
theorem State.launchCalls_waits (hp : s.portOwner port = some p)
    (h : (s.setter.calls.filter (callOf port slot g)).length < g.groups * g.cluster ∨ s.callCore p g = none) : s.launchCalls port slot g = s := by
  have hp' : (s.portOwner port).getD 0 = p := by rw [hp]; rfl
  unfold State.launchCalls
  simp only [hp']
  split
  · rfl
  · rename_i hn
    have hnl : ¬ (s.setter.calls.filter (callOf port slot g)).length < g.groups * g.cluster := fun hl => hn (by
      rw [Bool.or_eq_true]
      exact .inl (decide_eq_true hl))
    have hb : s.callCore p g = none := h.resolve_left hnl
    unfold State.callCore at hb
    rw [hb]

/-- Calls that fill a block go to the dispatcher of the least loaded core with room. -/
theorem State.launchCalls_sends (hp : s.portOwner port = some p) (hw : s.works p = true)
    (hl : (s.setter.calls.filter (callOf port slot g)).length = g.groups * g.cluster) {c : CoreId} (hc : s.callCore p g = some c) :
    s.launchCalls port slot g = ({ s with setter := { s.setter with calls := s.setter.calls.filter (fun e => !callOf port slot g e) } } : State).enqueue c
      ⟨(s.setter.calls.filter (callOf port slot g)).map (fun e => s.callGroup p g e.1 e.2.2.1 e.2.2.2), g.cluster⟩ := by
  have hp' : (s.portOwner port).getD 0 = p := by rw [hp]; rfl
  have ht : (s.setter.calls.filter (callOf port slot g)).take (g.groups * g.cluster) = s.setter.calls.filter (callOf port slot g) :=
    List.take_of_length_le (le_of_eq hl)
  have hd : (s.setter.calls.filter (callOf port slot g)).drop (g.groups * g.cluster) = [] := List.drop_of_length_le (le_of_eq hl)
  unfold State.callCore at hc
  unfold callOf at ht hd hl ⊢
  simp only [State.launchCalls, hp', hl, hw, lt_irrefl, decide_false, Bool.not_true, Bool.or_false, Bool.false_eq_true, if_false, hc, ht, hd,
    List.append_nil]

end

theorem State.core_enqueue (s : State) (c : CoreId) (w : Waiting) : ((s.enqueue c w).core c).queue = (s.core c).queue ++ [w] := by
  rw [State.enqueue, State.core_setCore]

theorem State.core_enqueue_ne (s : State) {c d : CoreId} (w : Waiting) (h : d ≠ c) : (s.enqueue c w).core d = s.core d :=
  State.core_setCore_ne _ _ (Ne.symm h)

/-! ## CALL_MESSAGE (R278) -/

/-- A call that can be launched: of a role 3 or 5 program, with 1 to 32 lanes, its reserved bytes zero (R278). -/
def callGood (g : Prog) (hdr : Slot64) : Prop := (g.role = 3 ∨ g.role = 5) ∧ 1 ≤ rb hdr 1 1 ∧ rb hdr 1 1 ≤ 32 ∧ rb hdr 8 56 = 0

/-- The call has been taken, and waits for its block to fill. -/
def State.called (s : State) (port : PortId) (g : Prog) (hdr : Slot64) (args : List (BitVec 128)) : State :=
  { s.useCredit port .vector 9 with setter := { s.setter with calls := s.setter.calls ++ [(port, g, hdr, args)] } }

theorem State.called_mine (s : State) (port : PortId) (g : Prog) (hdr : Slot64) (args : List (BitVec 128)) :
    (s.called port g hdr args).setter.calls.filter (callOf port (rb hdr 0 1) g)
    = s.setter.calls.filter (callOf port (rb hdr 0 1) g) ++ [(port, g, hdr, args)] := by
  simp [State.called, List.filter_append, callOf]

theorem State.called_others (s : State) (port : PortId) (g : Prog) (hdr : Slot64) (args : List (BitVec 128)) :
    (s.called port g hdr args).setter.calls.filter (fun e => !callOf port (rb hdr 0 1) g e)
    = s.setter.calls.filter (fun e => !callOf port (rb hdr 0 1) g e) := by
  simp [State.called, List.filter_append, callOf]

section
variable {s : State} {port : PortId} {p : PartId} (hdr : Slot64) (args : List (BitVec 128)) (hp : s.portOwner port = some p)

include hp in
theorem exec_callMessage_starved (hc : s.hasCredit port .vector 9 = false) : exec (.callMessage port hdr args) s = .next s := by
  rw [show exec (.callMessage port hdr args) s = execCallMessage port hdr args s from rfl, execCallMessage]
  simp [hp, hc]

variable (hw : s.works p = true) (hc : s.hasCredit port .vector 9 = true)
include hp hw hc

theorem exec_callMessage_unbound (hb : assocGet (rb hdr 0 1) (s.part p).progs = none) :
    exec (.callMessage port hdr args) s = .next ((s.useCredit port .vector 9).reply p hdr 1 (List.replicate 32 0)) := by
  have hb' : assocGet (rb hdr 0 1) ((s.useCredit port .vector 9).part p).progs = none := hb
  rw [show exec (.callMessage port hdr args) s = execCallMessage port hdr args s from rfl, execCallMessage]
  simp [hp, hw, hc, hb']

variable {g : Prog} (hb : assocGet (rb hdr 0 1) (s.part p).progs = some g)
include hb

theorem exec_callMessage_refused (hg : ¬ callGood g hdr) :
    exec (.callMessage port hdr args) s = .next ((s.useCredit port .vector 9).reply p hdr 1 (List.replicate 32 0)) := by
  have hb' : assocGet (rb hdr 0 1) ((s.useCredit port .vector 9).part p).progs = some g := hb
  have hbad : ((g.role ≠ 3 && g.role ≠ 5) || decide (rb hdr 1 1 = 0) || decide (32 < rb hdr 1 1) || decide (rb hdr 8 56 ≠ 0)) = true := by
    by_contra hn
    simp only [Bool.not_eq_true, Bool.or_eq_false_iff, Bool.and_eq_false_iff, decide_eq_false_iff_not, not_not, not_lt] at hn
    obtain ⟨⟨⟨hrole, h0⟩, h32⟩, hres⟩ := hn
    exact hg ⟨hrole, Nat.one_le_iff_ne_zero.2 h0, h32, hres⟩
  rw [show exec (.callMessage port hdr args) s = execCallMessage port hdr args s from rfl, execCallMessage]
  simp only [hp, hw, hc, hb', hbad, Bool.not_true, Bool.or_false, Bool.false_eq_true, if_false, if_true]

theorem exec_callMessage_taken (hg : callGood g hdr) :
    exec (.callMessage port hdr args) s = .next ((s.called port g hdr args).launchCalls port (rb hdr 0 1) g) := by
  have hb' : assocGet (rb hdr 0 1) ((s.useCredit port .vector 9).part p).progs = some g := hb
  obtain ⟨hrole, h1, h32, hres⟩ := hg
  have hgood : ((g.role ≠ 3 && g.role ≠ 5) || decide (rb hdr 1 1 = 0) || decide (32 < rb hdr 1 1) || decide (rb hdr 8 56 ≠ 0)) = false := by
    simp only [Bool.or_eq_false_iff, Bool.and_eq_false_iff, decide_eq_false_iff_not, not_not, not_lt]
    exact ⟨⟨⟨hrole, Nat.one_le_iff_ne_zero.1 h1⟩, h32⟩, hres⟩
  rw [show exec (.callMessage port hdr args) s = execCallMessage port hdr args s from rfl, execCallMessage]
  simp only [hp, hw, hc, hb', hgood, Bool.not_true, Bool.or_false, Bool.false_eq_true, if_false]
  rfl

/-- A call whose block is not full, or for which no core has room, waits (R279). -/
theorem exec_callMessage_waits (hg : callGood g hdr)
    (hn : (s.setter.calls.filter (callOf port (rb hdr 0 1) g) ++ [(port, g, hdr, args)]).length < g.groups * g.cluster ∨ s.callCore p g = none) :
    exec (.callMessage port hdr args) s = .next (s.called port g hdr args) := by
  have hp' : (s.called port g hdr args).portOwner port = some p := hp
  have hcore : (s.called port g hdr args).callCore p g = s.callCore p g := rfl
  rw [exec_callMessage_taken hdr args hp hw hc hb hg, State.launchCalls_waits hp' (by rwa [State.called_mine s port g hdr args, hcore])]

/-- A call that fills its block sends it to a dispatcher (R279, R298). -/
theorem exec_callMessage_sends (hg : callGood g hdr)
    (hn : (s.setter.calls.filter (callOf port (rb hdr 0 1) g) ++ [(port, g, hdr, args)]).length = g.groups * g.cluster) {c : CoreId}
    (hbest : s.callCore p g = some c) :
    ∃ u, exec (.callMessage port hdr args) s = .next u
      ∧ u.setter.calls = s.setter.calls.filter (fun e => !callOf port (rb hdr 0 1) g e)
      ∧ (u.core c).queue = (s.core c).queue
        ++ [⟨(s.setter.calls.filter (callOf port (rb hdr 0 1) g) ++ [(port, g, hdr, args)]).map (fun e => s.callGroup p g e.1 e.2.2.1 e.2.2.2), g.cluster⟩]
      ∧ u.ret = (s.useCredit port .vector 9).ret ∧ ∀ d, d ≠ c → u.core d = s.core d := by
  have hp' : (s.called port g hdr args).portOwner port = some p := hp
  have hw' : (s.called port g hdr args).works p = true := hw
  have hcore : (s.called port g hdr args).callCore p g = some c := hbest
  have hmine := State.called_mine s port g hdr args
  have hx := exec_callMessage_taken hdr args hp hw hc hb hg
  rw [State.launchCalls_sends hp' hw' (by rw [hmine]; exact hn) hcore] at hx
  refine ⟨_, hx, ?_, ?_, rfl, ?_⟩
  · exact State.called_others s port g hdr args
  · rw [State.core_enqueue, hmine]
    rfl
  · intro d hd
    rw [State.core_enqueue_ne _ _ hd]
    rfl

end

end Sys2Proof.Machine
end

section
/-!
A dispatcher launches the entry that is next (R274, R276, R298).
-/

namespace Sys2Proof.Machine
open Sys2Proof

/-! ## The entry that is next (R397, R398) -/

theorem mem_insertBy {α : Type} (le : α → α → Bool) (a x : α) (l : List α) : x ∈ insertBy le a l ↔ x = a ∨ x ∈ l := by
  induction l with
  | nil => simp [insertBy]
  | cons b r ih =>
    simp only [insertBy]
    split
    · simp
    · simp only [List.mem_cons, ih]
      exact or_left_comm

theorem mem_sortBy {α : Type} (le : α → α → Bool) (x : α) (l : List α) : x ∈ sortBy le l ↔ x ∈ l := by
  induction l with
  | nil => rfl
  | cons a r ih => rw [sortBy, mem_insertBy, ih, List.mem_cons]

/-- The entry that is next can be launched. -/
theorem State.nextLaunch_launchable {s : State} {core : CoreId} {w : Waiting} (h : s.nextLaunch core = some w) : s.launchable core w = true := by
  have hmem : ∀ x, x ∈ sortBy (fun a b => decide (a.cls.toNat ≤ b.cls.toNat)) ((s.core core).queue.filter (s.launchable core)) →
      s.launchable core x = true := fun x hx => (List.mem_filter.1 ((mem_sortBy _ _ _).1 hx)).2
  unfold State.nextLaunch at h
  split at h
  · exact absurd h nofun
  · rename_i v r hl
    rw [hl] at hmem
    split at h
    · have hw := Option.some.inj h
      cases hh : (r.filter (fun x => decide (x.part = v.part) && decide (v.cls.toNat < x.cls.toNat))).head? with
      | none =>
        rw [hh] at hw
        exact hw ▸ hmem v List.mem_cons_self
      | some y =>
        rw [hh] at hw
        have hy := (List.mem_filter.1 (List.mem_of_mem_head? hh)).1
        exact hw ▸ hmem y (List.mem_cons_of_mem _ hy)
    · exact Option.some.inj h ▸ hmem v List.mem_cons_self

theorem coreNo_val (c : CoreId) : coreNo c.val = c := by
  have h := c.isLt
  refine Fin.ext ?_
  simp only [coreNo, BitVec.val_toFin, BitVec.toNat_ofNat]
  omega

/-- The core has a free slot for a single group that is next. -/
theorem State.nextLaunch_slot {s : State} {core : CoreId} {x : Group} (h : s.nextLaunch core = some ⟨[x], 1⟩) (hg : x.prog.groups = 1) :
    ∃ slot, (s.core core).freeSlots.head? = some slot := by
  have hl := State.nextLaunch_launchable h
  simp only [State.launchable, Waiting.prog?, List.head?_cons, Option.map_some, Bool.and_eq_true, List.all_eq_true] at hl
  obtain ⟨-, hcores⟩ := hl
  obtain ⟨-, ht⟩ := hcores 0 (by simp)
  rw [Nat.add_zero, coreNo_val] at ht
  simp only [Core.takes, hg, Bool.and_eq_true, decide_eq_true_eq] at ht
  cases hf : (s.core core).freeSlots with
  | nil => rw [hf] at ht; exact absurd ht.1 (by simp)
  | cons slot r => exact ⟨slot, rfl⟩

/-! ## A launch -/

/-- The local store that a block takes on a core (R273). -/
def State.freshPages (s : State) (core : CoreId) (g : Prog) : List Nat :=
  (s.core core).pickPages ((s.setter.savedBlocks.filter (fun e => decide (e.1 = core))).flatMap (fun e => e.2.pages)) g

theorem State.mem_freshPages {s : State} {core : CoreId} {g : Prog} {k : Nat} (hk : k ∈ s.freshPages core g) :
    k < localPart g.split / 1024 ∧ ∀ b ∈ (s.core core).blocks, k ∉ b.pages := by
  have hfree := List.mem_of_mem_take hk
  simp only [List.mem_append, List.mem_filter, List.mem_range, Bool.not_eq_true', List.any_eq_false, List.contains_iff_mem] at hfree
  obtain ⟨⟨hlt, hno⟩, -⟩ | ⟨⟨hlt, hno⟩, -⟩ := hfree
  · exact ⟨hlt, hno⟩
  · exact ⟨hlt, hno⟩

/-- A block of one group is held on a core (R273, R274). -/
def State.withBlock (s : State) (core : CoreId) (set : Nat) (g : Prog) : State :=
  let co := s.core core
  let b : Block := ⟨s.setter.next + 1, set, 0, 1, 0, blockBytes g, 1, g, s.freshPages core g, []⟩
  let s1 := s.setCore core { co with blocks := co.blocks ++ [b], split := g.split }
  { s1 with setter := { s1.setter with next := s.setter.next + 1 } }

theorem State.withBlock_core (s : State) (core : CoreId) (set : Nat) (g : Prog) : (s.withBlock core set g).core core
    = { s.core core with
        blocks := (s.core core).blocks ++ [⟨s.setter.next + 1, set, 0, 1, 0, blockBytes g, 1, g, s.freshPages core g, []⟩], split := g.split } :=
  State.core_setCore s core _

theorem State.withBlock_core_ne (s : State) {core d : CoreId} (h : d ≠ core) (set : Nat) (g : Prog) : (s.withBlock core set g).core d = s.core d :=
  State.core_setCore_ne _ _ (Ne.symm h)

theorem State.launchSet_one (s : State) (set : Nat) {core : CoreId} {x : Group} {slot : Fin 16} (hs : (s.core core).freeSlots.head? = some slot) :
    s.launchSet set core.val 1 1 1 [x]
      = (s.withBlock core set x.prog).placeGroup core slot { x with block := s.setter.next + 1, rank := 0, inBlock := 0 } := by
  have hfree : ((s.withBlock core set x.prog).core core).freeSlots = (s.core core).freeSlots := by rw [State.withBlock_core]; rfl
  have hplace : (s.withBlock core set x.prog).placeGroups core (s.setter.next + 1) 0 0 [x]
      = (s.withBlock core set x.prog).placeGroup core slot { x with block := s.setter.next + 1, rank := 0, inBlock := 0 } := by
    cases hf : (s.core core).freeSlots with
    | nil => rw [hf] at hs; exact absurd hs nofun
    | cons k r =>
      rw [hf] at hs
      have hk : k = slot := Option.some.inj hs
      simp only [State.placeGroups, hfree, hf, hk]
  simp only [State.launchSet, Nat.add_zero, Nat.sub_self, Nat.zero_add, coreNo_val, List.take_succ_cons, List.take_zero]
  exact hplace

/-! ## The group in its slot (R269, R276) -/

/-- A group as its launch leaves it: in a slot, with its registers s2 and s3 (R276). -/
def Group.placed (x : Group) (c : CoreId) (slot : Fin 16) (free age : Nat) : Group :=
  (({ x with state := .running, free := free, age := age } : Group).setS 2
      (BitVec.ofNat 32 (packN [(4, x.part.val), (4, c.val), (4, slot.val), (1, if x.cls = 0 then 1 else 0)]))).setS 3
    (BitVec.ofNat 32 (packN [(5, x.rank), (5, x.inBlock)]))

theorem Group.sreg_setS (g : Group) (n : Nat) (w : W32) : (g.setS n w).sreg n = w := by
  have h : assocGet n (g.setS n w).sregs = some w := assocGet_assocPut ..
  simp only [Group.sreg, h]

theorem Group.sreg_setS_ne (g : Group) {n m : Nat} (h : m ≠ n) (w : W32) : (g.setS n w).sreg m = g.sreg m := by
  have h' : assocGet m (g.setS n w).sregs = assocGet m g.sregs := assocGet_assocPut_ne h ..
  simp only [Group.sreg, h']
  rfl

theorem Group.sreg_placed_other (x : Group) (c : CoreId) (slot : Fin 16) (free age : Nat) {n : Nat} {w : W32} (h2 : n ≠ 2) (h3 : n ≠ 3)
    (hw : assocGet n x.sregs = some w) : (x.placed c slot free age).sreg n = w := by
  rw [Group.placed, Group.sreg_setS_ne _ h3, Group.sreg_setS_ne _ h2]
  simp only [Group.sreg, hw]

theorem State.placeGroup_core (s : State) (c : CoreId) (slot : Fin 16) (x : Group) : ∃ l1,
    (s.placeGroup c slot x).core c
      = { s.core c with groups := (s.core c).groups.set slot (some (x.placed c slot s.fresh s.setter.next)), l1 := l1 } :=
  ⟨_, State.core_setCore s c _⟩

theorem State.placeGroup_core_ne (s : State) {c d : CoreId} (h : d ≠ c) (slot : Fin 16) (x : Group) : (s.placeGroup c slot x).core d = s.core d :=
  State.core_setCore_ne s _ (Ne.symm h)

/-! ## GROUP_LAUNCH -/

/-- No partition preempts for DEADLINE work that waits (R300). -/
def State.noPreempt (s : State) : Prop :=
  ∀ c, ∀ w ∈ (s.core c).queue, s.firing w.part = false ∨ w.cls ≠ 0 ∨ (s.part w.part).saveBase.force = 0

theorem State.preemptPart_none {s : State} (h : s.noPreempt) (env : Env) (p : PartId) : s.preemptPart env p = s := by
  unfold State.preemptPart
  split
  · rename_i hp
    simp only [Bool.and_eq_true, decide_eq_true_eq] at hp
    obtain ⟨hf, hb⟩ := hp
    have hl : s.dlQueued p = [] := by
      simp only [State.dlQueued, List.flatMap_eq_nil_iff, List.map_eq_nil_iff, List.filter_eq_nil_iff, Bool.and_eq_true, decide_eq_true_eq]
      rintro c - w hw ⟨hwp, hwc⟩
      subst hwp
      obtain h | h | h := h c w hw
      · exact absurd (hf.symm.trans h) (by decide)
      · exact h hwc
      · exact hb h
    rw [hl]
    rfl
  · rfl

theorem State.preemptParts_none {s : State} (h : s.noPreempt) (env : Env) : allParts.foldl (fun s p => s.preemptPart env p) s = s :=
  List.foldl_fixed' (fun p => State.preemptPart_none h env p) allParts

/-- The entry leaves its queue, and its issue is counted (R397). -/
def State.issued (s : State) (core : CoreId) (w : Waiting) : State :=
  (s.setCore core { s.core core with queue := (s.core core).queue.erase w }).countIssue w.part 4

/-- A single group that is next, launched. -/
def State.launched (s : State) (core : CoreId) (x : Group) (slot : Fin 16) : State :=
  let u := s.issued core ⟨[x], 1⟩
  (u.withBlock core (u.setter.next + 1) x.prog).placeGroup core slot { x with block := u.setter.next + 1, rank := 0, inBlock := 0 }

theorem State.dispatch_one {s : State} {core : CoreId} {x : Group} {slot : Fin 16} (h : s.nextLaunch core = some ⟨[x], 1⟩)
    (hs : (s.core core).freeSlots.head? = some slot) : s.dispatch core = s.launched core x slot := by
  have hs' : ((s.issued core ⟨[x], 1⟩).core core).freeSlots.head? = some slot := by
    rw [show (s.issued core ⟨[x], 1⟩).core core = { s.core core with queue := (s.core core).queue.erase ⟨[x], 1⟩ } from State.core_setCore s core _]
    exact hs
  have hl := State.launchSet_one (x := x) (s.issued core ⟨[x], 1⟩) ((s.issued core ⟨[x], 1⟩).setter.next + 1) hs'
  have hper : [x].length / max 1 1 = 1 := by simp
  simp only [State.dispatch, h, hper]
  exact hl

theorem exec_groupLaunch {s : State} (hq : s.noPreempt) (env : Env) (core : CoreId) (hc : ((s.at env.t).dispatch core).setter.calls = []) :
    exec (.groupLaunch core env) s = .next ((s.at env.t).dispatch core) := by
  have hq' : (s.at env.t).noPreempt := hq
  rw [show exec (.groupLaunch core env) s = execGroupLaunch core env s from rfl, execGroupLaunch]
  simp only [State.preemptParts_none hq', hc, List.foldl_nil]

/-- The group of a launch, in its block. -/
def State.launchedGroup (s : State) (core : CoreId) (x : Group) (slot : Fin 16) : Group :=
  ({ x with block := s.setter.next + 1, rank := 0, inBlock := 0 } : Group).placed core slot s.fresh (s.setter.next + 1)

/-- The core of a launch: the entry has left its queue, its block is held, and the group has its slot. -/
theorem State.launched_core (s : State) (core : CoreId) (x : Group) (slot : Fin 16) : ∃ l1,
    (s.launched core x slot).core core = { s.core core with
      groups := (s.core core).groups.set slot (some (s.launchedGroup core x slot))
      queue := (s.core core).queue.erase ⟨[x], 1⟩
      blocks := (s.core core).blocks
        ++ [⟨s.setter.next + 1, s.setter.next + 1, 0, 1, 0, blockBytes x.prog, 1, x.prog, (s.issued core ⟨[x], 1⟩).freshPages core x.prog, []⟩]
      split := x.prog.split, l1 := l1 } := by
  have hi : (s.issued core ⟨[x], 1⟩).core core = { s.core core with queue := (s.core core).queue.erase ⟨[x], 1⟩ } := State.core_setCore s core _
  obtain ⟨l1, h⟩ := State.placeGroup_core ((s.issued core ⟨[x], 1⟩).withBlock core ((s.issued core ⟨[x], 1⟩).setter.next + 1) x.prog) core slot
    { x with block := (s.issued core ⟨[x], 1⟩).setter.next + 1, rank := 0, inBlock := 0 }
  refine ⟨l1, h.trans ?_⟩
  rw [State.withBlock_core, hi]
  rfl

theorem State.launched_core_ne (s : State) {core d : CoreId} (h : d ≠ core) (x : Group) (slot : Fin 16) : (s.launched core x slot).core d = s.core d := by
  rw [State.launched, State.placeGroup_core_ne _ h, State.withBlock_core_ne _ h]
  exact State.core_setCore_ne s _ (Ne.symm h)

theorem State.launched_pages {s : State} {core : CoreId} {x : Group} {k : Nat} (h : k ∈ (s.issued core ⟨[x], 1⟩).freshPages core x.prog) :
    k < localPart x.prog.split / 1024 ∧ ∀ b ∈ (s.core core).blocks, k ∉ b.pages := by
  have hi : (s.issued core ⟨[x], 1⟩).core core = { s.core core with queue := (s.core core).queue.erase ⟨[x], 1⟩ } := State.core_setCore s core _
  have hp := State.mem_freshPages h
  rw [hi] at hp
  exact hp

/-- GROUP_LAUNCH launches the single group that is next (R269, R274, R276, R298). -/
theorem exec_groupLaunch_one {s : State} (hq : s.noPreempt) (hc : s.setter.calls = []) (env : Env) {core : CoreId} {x : Group}
    (h : s.nextLaunch core = some ⟨[x], 1⟩) {slot : Fin 16} (hs : (s.core core).freeSlots.head? = some slot) :
    exec (.groupLaunch core env) s = .next ((s.at env.t).launched core x slot) := by
  have hd : (s.at env.t).dispatch core = (s.at env.t).launched core x slot := State.dispatch_one (s := s.at env.t) h hs
  rw [exec_groupLaunch hq env core (by rw [hd]; exact hc), hd]

end Sys2Proof.Machine
end

section
/-!
The end of a group: EXIT and BRK (R284, R289, R303, R305, R328), and the obligation on how groups begin and end.
-/

namespace Sys2Proof.Machine
open Sys2Proof

/-! ## The group slots under the operations of a group's end -/

theorem State.group?_congr {s t : State} (h : Comp.setter.same s t) (k : GroupRef) : t.group? k = s.group? k :=
  congrArg (fun x : Setter => (x.cores[k.core]).groups[k.slot]) h

theorem State.group?_setGroup_ne (s : State) {g k : GroupRef} (h : k ≠ g) (x : Option Group) : (s.setGroup g x).group? k = s.group? k := by
  unfold State.group? State.setGroup
  by_cases hc : g.core = k.core
  · have hs : g.slot.val ≠ k.slot.val := fun e => h (by
      cases g
      cases k
      simp only at hc e
      rw [hc, Fin.ext e])
    rw [hc, State.core_setCore]
    simp [Vector.getElem_set_ne, hs]
  · rw [State.core_setCore_ne _ _ hc]

/-- Cores changed in their blocks and lines only keep their groups. -/
theorem State.group?_mapCores {s t : State} {f : Core → Core} (hf : ∀ c, (f c).groups = c.groups) (h : t.setter.cores = s.setter.cores.map f)
    (k : GroupRef) : t.group? k = s.group? k := by
  simp only [State.group?, State.core, h, Fin.getElem_fin, Vector.getElem_map, hf]

theorem State.locPut_group? (s : State) (id off n v : Nat) (k : GroupRef) : (s.locPut id off n v).group? k = s.group? k :=
  State.group?_mapCores (by intro c; rfl) rfl k

theorem State.dropSpilled_group? (s : State) (x : Group) (m : W32) (k : GroupRef) : (s.dropSpilled x m).group? k = s.group? k :=
  foldl_keeps (·.group? k) _ (fun u _ => State.locPut_group? u ..) _ _

theorem State.freeSets_group? (s : State) (k : GroupRef) : s.freeSets.group? k = s.group? k :=
  State.group?_mapCores (by intro c; rfl) rfl k

theorem State.blockEnded_group? (s : State) (block : Nat) (k : GroupRef) : (s.blockEnded block).group? k = s.group? k :=
  (State.freeSets_group? _ k).trans (State.group?_mapCores (by intro c; rfl) rfl k)

theorem State.mapGroups_group? (s : State) (f : Group → Group) (k : GroupRef) : (s.mapGroups f).group? k = (s.group? k).map f := by
  simp [State.group?, State.core, State.mapGroups]

theorem State.rayHalt_group? (s : State) (x : Group) (halt : Bool) (k : GroupRef) : (s.rayHalt x halt).group? k = s.group? k :=
  State.group?_congr (Comp.same_setter (State.rayHalt_frame s x halt _ (by decide))) k

/-- The groups that a look at the barriers of a block lets go on (R296, R297). -/
def State.barMet (s : State) (block : Nat) (g : Group) : Bool :=
  let set := s.setOf block
  let live := s.liveGroups.filter (fun g => !g.over)
  match g.wait with
  | .bar b => g.block == block && (live.filter (fun g => g.block == block)).all (fun h => decide (arrivals g.arrived b.val ≤ arrivals h.arrived b.val))
  | .barClu b => s.setOf g.block == set
      && (live.filter (fun g => s.setOf g.block == set)).all (fun h => decide (arrivals g.cluArr b.val ≤ arrivals h.cluArr b.val))
  | _ => false

theorem State.barriers_group? (s : State) (block : Nat) (k : GroupRef) :
    (s.barriers block).group? k = (s.group? k).map (fun g => if s.barMet block g then g.wake else g) := by
  simp only [State.barriers]
  rw [foldl_keeps (·.group? k) _ (fun u x => State.rayHalt_group? u x true k), State.mapGroups_group?]
  rfl

/-- A group that waits at no barrier stays as it is. -/
theorem State.barriers_group?_other {s : State} {k : GroupRef} {x : Group} (h : s.group? k = some x) (hb : ∀ b, x.wait ≠ .bar b)
    (hc : ∀ b, x.wait ≠ .barClu b) (block : Nat) : (s.barriers block).group? k = some x := by
  have hm : s.barMet block x = false := by
    cases hw : x.wait with
    | bar b => exact absurd hw (hb b)
    | barClu b => exact absurd hw (hc b)
    | _ => simp only [State.barMet, hw]
  rw [State.barriers_group?, h, Option.map_some, hm]
  rfl

/-- No group comes to wait at EXIT by a look at the barriers. -/
theorem State.barriers_accept {s : State} {k : GroupRef} {block : Nat} {z : Group} (h : (s.barriers block).group? k = some z)
    (hz : z.wait = .accept) : s.group? k = some z := by
  rw [State.barriers_group?] at h
  obtain ⟨y, hy, he⟩ := Option.map_eq_some_iff.1 h
  split at he
  · subst he
    exact absurd hz nofun
  · rw [hy, he]

/-! ## Results that can be taken (R328) -/

/-- Whether a group's results can be taken depends on the tiles, the passes and the commands, and on its work and results. -/
theorem State.accepts_congr {s t : State} (hv : t.vis = s.vis) (hq : t.queues = s.queues) {x y : Group} (hw : y.work = x.work)
    (hr : y.results = x.results) (hc : y.cmd = x.cmd) : t.acceptable y = s.acceptable x ∧ t.partly y = s.partly x := by
  simp only [State.acceptable, State.partly, State.fragTile, State.tile?, State.pass?, State.cmd?, State.queue, hv, hq, hw, hr, hc, and_self]

theorem State.mem_residents {s : State} {e : GroupRef × Group} (h : e ∈ s.residents) : s.group? e.1 = some e.2 := by
  simp only [State.residents, List.mem_flatMap, List.mem_filterMap, Option.map_eq_some_iff] at h
  obtain ⟨c, -, k, -, x, hx, he⟩ := h
  rw [← he]
  exact hx

/-- Where no group that waits at EXIT can be taken, whole or in part, nothing happens (R328). -/
theorem State.acceptMore_none {s : State} (h : ∀ k y, s.group? k = some y → y.wait = .accept → s.acceptable y = false ∧ s.partly y = false) (n : Nat) :
    s.acceptMore n = s := by
  cases n with
  | zero => rfl
  | succ n =>
    have hf : s.residents.find? (fun e => decide (e.2.wait = .accept) && (s.acceptable e.2 || s.partly e.2)) = none := by
      rw [List.find?_eq_none]
      intro e he hp
      simp only [Bool.and_eq_true, decide_eq_true_eq, Bool.or_eq_true] at hp
      obtain ⟨hw, ha⟩ := hp
      obtain ⟨h1, h2⟩ := h e.1 e.2 (State.mem_residents he) hw
      rw [h1, h2] at ha
      exact absurd ha (by decide)
    simp only [State.acceptMore, hf]

/-! ## How an instruction comes out -/

section
variable {s s1 : State} {g : GroupRef} {env : Env} {check : Check} {x : Group} {f : State → Group → Ran}

/-- An instruction that ends its group leaves the state it gives. -/
theorem instr_gone (h : s.fetches g x) (hc : check ≠ .failed) (ha : env.hw.addr = false) (hf : f (s.seen check) x = .gone s1) :
    s.instr g env check f = s1 := by
  obtain ⟨hi, pa, ht⟩ := h
  rw [State.seen] at hf
  simp only [State.instr, hi, ht, hc, ha, Bool.false_eq_true, if_false, hf]

/-- An instruction that traps precisely. -/
theorem instr_trap {code : Nat} (h : s.fetches g x) (hc : check ≠ .failed) (ha : env.hw.addr = false) (hf : f (s.seen check) x = .trap code) :
    s.instr g env check f = (s.seen check).trap env g x code := by
  obtain ⟨hi, pa, ht⟩ := h
  rw [State.seen] at hf
  simp only [State.instr, hi, ht, hc, ha, Bool.false_eq_true, if_false, hf, State.seen]

end

/-- A corrected word changes the count of corrected words only (R512). -/
theorem State.seen_keeps {α : Type} (get : State → α) (h : ∀ s, get s.errCorrected = get s) (s : State) (check : Check) : get (s.seen check) = get s :=
  State.doIf_keeps get _ _ _ h

/-! ## EXIT (R284, R289, R328) -/

/-- A group once its active lanes have left for good (R284). -/
def Group.left (x : Group) : Group :=
  { x with exited := x.exited ||| x.active, active := 0, dstack := dropLanes x.active x.dstack,
           results := x.results ++ x.lanes.map (fun l => (l.val, x.returned l)) }

/-- A group waits in its slot. -/
def Group.waits (x : Group) (w : GWait) : Group := { x with wait := w, state := .waiting }

/-- What EXIT does. -/
def exitEffect (g : GroupRef) (s : State) (x : Group) : Ran :=
  let s1 := s.dropSpilled x x.active
  if !x.left.over then .done (s1.put g x.left) else .gone ((s1.put g x.left).wrapUp g x.left)

theorem exec_exit (g : GroupRef) (check : Check) (s : State) : exec (.exit g check) s = .next (s.instr g s.env0 check (exitEffect g)) := rfl

section
variable {s : State} {g : GroupRef} {x : Group} (h : s.fetches g x) {check : Check} (hc : check ≠ .failed)
include h hc

/-- While lanes remain the group goes on. -/
theorem exec_exit_on (ho : x.left.over = false) :
    exec (.exit g check) s = .next (((s.seen check).dropSpilled x x.active).ranTo g { x.left with pc := x.pc + 8 }) := by
  have hf : exitEffect g (s.seen check) x = .done (((s.seen check).dropSpilled x x.active).put g x.left) := if_pos (by rw [ho]; rfl)
  rw [exec_exit, instr_done h hc rfl hf (issuing_running h.1).2]
  rfl

/-- The last lanes end the group, as soon as it can end. -/
theorem exec_exit_over (ho : x.left.over = true) :
    exec (.exit g check) s = .next ((((s.seen check).dropSpilled x x.active).put g x.left).wrapUp g x.left) := by
  have hf : exitEffect g (s.seen check) x = .gone ((((s.seen check).dropSpilled x x.active).put g x.left).wrapUp g x.left) :=
    if_neg (by rw [ho]; decide)
  rw [exec_exit, instr_gone h hc rfl hf]

end

section
variable (s : State) (g : GroupRef) (x : Group)

theorem State.wrapUp_stores (h : x.stores ≠ 0) : s.wrapUp g x = (s.put g (x.waits .ending)).barriers x.block := by
  simp only [State.wrapUp, if_pos h]
  rfl

theorem State.wrapUp_refused (h : x.stores = 0) (ha : s.acceptable x = false) :
    s.wrapUp g x = ((s.put g (x.waits .accept)).barriers x.block).acceptMore 4096 := by
  simp only [State.wrapUp, h, ha, ne_eq, not_true_eq_false, if_false, Bool.not_false, if_true, Group.waits]

theorem State.wrapUp_ends (h : x.stores = 0) (ha : s.acceptable x = true) : s.wrapUp g x = (s.finishGroup g x).acceptMore 4096 := by
  simp only [State.wrapUp, h, ha]
  rfl

/-- A group that waits at EXIT, for its stores or for its results to be taken, waits at no barrier. -/
theorem State.put_waits_group? {w : GWait} (hb : ∀ b, w ≠ .bar b) (hc : ∀ b, w ≠ .barClu b) :
    ((s.put g (x.waits w)).barriers x.block).group? g = some (x.waits w) :=
  State.barriers_group?_other (State.group?_setGroup ..) hb hc x.block

end

/-- A group whose results cannot be taken, even in part, waits in its slot, where no other group waits for that (R328). -/
theorem State.wrapUp_waits {s : State} {g : GroupRef} {x : Group} (h : x.stores = 0) (ha : s.acceptable x = false) (hp : s.partly x = false)
    (ho : ∀ k z, k ≠ g → s.group? k = some z → z.wait ≠ .accept) : (s.wrapUp g x).group? g = some (x.waits .accept) := by
  have hf := State.barriers_frame (s.put g (x.waits .accept)) x.block
  have hg := s.put_waits_group? g x (w := .accept) nofun nofun
  rw [State.wrapUp_refused s g x h ha, State.acceptMore_none, hg]
  intro k y hk hy
  have hvis : ((s.put g (x.waits .accept)).barriers x.block).vis = s.vis := Comp.same_vis (hf _ (by decide))
  have hq : ((s.put g (x.waits .accept)).barriers x.block).queues = s.queues := Comp.same_queues (hf _ (by decide))
  by_cases hkg : k = g
  · subst hkg
    have he : x.waits .accept = y := Option.some.inj (hg.symm.trans hk)
    obtain ⟨h1, h2⟩ := State.accepts_congr (x := x) (y := x.waits .accept) hvis hq rfl rfl rfl
    rw [← he, h1, h2]
    exact ⟨ha, hp⟩
  · have hk' := State.barriers_accept hk hy
    rw [State.put, State.group?_setGroup_ne s hkg] at hk'
    exact absurd hy (ho k y hkg hk')

/-- A group that is over has left its slot (R284). -/
theorem State.leaveSlot_group? (s : State) (g : GroupRef) (x : Group) : (s.leaveSlot g x).group? g = none := by
  unfold State.leaveSlot
  extract_lets s0 s1 co s2
  have h1 : s1.group? g = none := State.group?_setGroup ..
  have h2 : s2.group? g = none := by
    unfold s2
    split
    · exact h1
    · unfold State.group?
      rw [State.core_setCore]
      exact h1
  have h3 : ((s2.blockEnded x.block).barriers x.block).group? g = none := by
    rw [State.barriers_group?, State.blockEnded_group?, h2]
    rfl
  rw [State.doIf_keeps (·.group? g) _ _ _ fun u => State.group?_congr (Comp.same_setter (State.flushInvs_frame u _ _ (by decide))) g, h3]

/-! ## BRK (R303) -/

theorem exec_brk {s : State} {g : GroupRef} {x : Group} {t : Nat} (h : (s.at t).fetches g x) {check : Check} (hc : check ≠ .failed) :
    exec (.brk g t check) s = .next (((s.at t).seen check).trap (s.at t).env0 g x 9) :=
  congrArg Host.Outcome.next (instr_trap h hc rfl rfl)

/-- A group that a precise trap has stopped (R303). -/
def Group.trapped (x : Group) (code : Nat) : Group := { x with state := .trapped, trap := BitVec.ofNat 8 code, stepping := false }

section
variable {s : State} {g : GroupRef} {x : Group} (h : s.group? g = some x) (env : Env) (code : Nat)
include h

/-- With 64 faults open the trap's record waits (R303). -/
theorem State.trap_waits (hf : 64 ≤ (s.openOf x.part).length) :
    s.trap env g x code = (s.setGroup g (some (x.trapped code))).updPart x.part
      (fun y => { y with overflow := y.overflow ++ [⟨.trapNote (BitVec.ofNat 8 code) x.block x.inBlock, State.groupCtx g x, 0⟩] }) := by
  have hu : s.updGroup g (fun y => { y with state := .trapped, trap := BitVec.ofNat 8 code, stepping := false }) = s.setGroup g (some (x.trapped code)) := by
    simp only [State.updGroup, h]
    rfl
  unfold State.trap
  rw [hu]
  exact if_pos hf

/-- Else the trap opens a fault on which the group is parked (R303). -/
theorem State.trap_opens (hf : (s.openOf x.part).length < 64) (ha : (s.part x.part).autoEnd = false) :
    s.trap env g x code
      = (s.setGroup g (some (x.trapped code))).openFault env x.part 1 ⟨code, 0, 0⟩ 0 (State.groupCtx g x) (.group g.core g.slot) := by
  have hu : s.updGroup g (fun y => { y with state := .trapped, trap := BitVec.ofNat 8 code, stepping := false }) = s.setGroup g (some (x.trapped code)) := by
    simp only [State.updGroup, h]
    rfl
  unfold State.trap
  rw [hu]
  refine (if_neg (not_le.2 hf)).trans ?_
  rw [ha]
  rfl

end

theorem State.openFault_faults (s : State) (env : Env) (p : PartId) (kind : Nat) (x : Xfault) (owner : ChipId) (c : FaultCtx) (w : Parked) :
    ∃ f, (s.openFault env p kind x owner c w).mmu.faults = s.mmu.faults ++ [f] ∧ f.part = p ∧ f.kind = BitVec.ofNat 8 kind
      ∧ f.cause = BitVec.ofNat 8 x.cause ∧ f.parked = [w] := by
  unfold State.openFault
  extract_lets id f _ u v
  exact ⟨f, Comp.same_faults (State.fqPost_frame v p false _ _ (by decide)), rfl, rfl, rfl, rfl⟩

theorem State.openFault_group? (s : State) (env : Env) (p : PartId) (kind : Nat) (x : Xfault) (owner : ChipId) (c : FaultCtx) (w : Parked) (k : GroupRef) :
    (s.openFault env p kind x owner c w).group? k = s.group? k :=
  State.group?_congr (Comp.same_setter (State.openFault_frame s env p kind x owner c w _ (by decide))) k

/-! ## The obligation -/

/-- Settles O47, command by command: a call by its program, its block and the room for it; a launch by the entry that is next; EXIT by whether
lanes remain, stores are out and results can be taken; BRK by the number of open faults. -/
theorem groupsBeginAndEnd : Obligations.GroupsBeginAndEnd := by
  intro s
  refine ⟨fun port hdr args p hp hw => ?call, fun core env hq hcalls => ⟨fun hn => ?nothing, fun x hx hg => ?launch⟩,
    fun g x h => ?exit, fun g x t h => ?brk⟩
  case call =>
    refine ⟨exec_callMessage_starved hdr args hp, fun hc => ⟨exec_callMessage_unbound hdr args hp hw hc, fun f hf => ?_⟩⟩
    obtain ⟨hcls, hlaunch, hactive, htag, hpc⟩ := s.callGroup_rest p f port hdr args
    refine ⟨exec_callMessage_refused hdr args hp hw hc hf, exec_callMessage_waits hdr args hp hw hc hf,
      fun hg hn c hbest => exec_callMessage_sends hdr args hp hw hc hf hg hn hbest, hcls, hlaunch, hactive, htag, hpc,
      fun hlen l k hk => State.callGroup_vreg s p f port hdr hlen l hk⟩
  case nothing =>
    have hd : (s.at env.t).dispatch core = s.at env.t := by
      have hn' : (s.at env.t).nextLaunch core = none := hn
      simp only [State.dispatch, hn']
    rw [exec_groupLaunch hq env core (by rw [hd]; exact hcalls), hd]
  case launch =>
    obtain ⟨slot, hs⟩ := State.nextLaunch_slot hx hg
    have hrun := exec_groupLaunch_one hq hcalls env hx hs
    obtain ⟨l1, hcore⟩ := (s.at env.t).launched_core core x slot
    have hother := fun d (hd : d ≠ core) => (s.at env.t).launched_core_ne hd x slot
    have hpages := fun k => State.launched_pages (s := s.at env.t) (core := core) (x := x) (k := k)
    generalize (s.at env.t).launched core x slot = u at hrun hcore hother
    refine ⟨u, slot, (s.at env.t).launchedGroup core x slot, hrun, hs, ?_, rfl, rfl, rfl, rfl, rfl, rfl, rfl, rfl,
      Group.sreg_setS_ne _ (by decide) _ |>.trans (Group.sreg_setS ..), Group.sreg_setS .., fun n w h2 h3 hw => Group.sreg_placed_other _ _ _ _ _ h2 h3 hw,
      fun k hk => ?_, congrArg Core.queue hcore, congrArg Core.split hcore, ⟨_, congrArg Core.blocks hcore, hpages⟩, hother⟩
    · rw [State.group?, hcore]
      exact Vector.getElem_set_self ..
    · rw [State.group?, hcore]
      exact Vector.getElem_set_ne slot.isLt k.isLt fun e => hk (Fin.ext e.symm)
  case exit =>
    intro y stays
    have hy : y = x.left := rfl
    clear_value y
    subst hy
    refine ⟨fun check hc => ⟨exec_exit_on h hc, fun ho hst ha => ⟨?ends, State.leaveSlot_group? ..⟩,
      fun ho hst ha => ⟨?refused, fun hp hn => ?accept⟩,
      fun ho hst => ?ending⟩, congrArg Host.Outcome.next (instr_failed h)⟩
    case ends => exact (exec_exit_over h hc ho).trans (congrArg Host.Outcome.next (State.wrapUp_ends _ _ _ hst ha))
    case refused => exact (exec_exit_over h hc ho).trans (congrArg Host.Outcome.next (State.wrapUp_refused _ _ _ hst ha))
    case accept =>
      refine ⟨_, exec_exit_over h hc ho, State.wrapUp_waits hst ha hp fun k z hkg hz => hn k z hkg ?_⟩
      rw [State.put, State.group?_setGroup_ne _ hkg, State.dropSpilled_group?, State.seen_keeps (·.group? k) (fun _ => rfl)] at hz
      exact hz
    case ending =>
      refine ⟨_, (exec_exit_over h hc ho).trans (congrArg Host.Outcome.next (State.wrapUp_stores _ _ _ hst)), State.put_waits_group? _ g x.left nofun nofun⟩
  case brk =>
    refine ⟨fun check hc => ⟨fun hf => ?full, fun hf ha => ?opens⟩, congrArg Host.Outcome.next (instr_failed h)⟩
    all_goals
      have hg : ((s.at t).seen check).group? g = some x :=
        (State.seen_keeps (·.group? g) (fun _ => rfl) _ check).trans (issuing_running h.1).1
      have hmmu : ((s.at t).seen check).mmu = s.mmu := State.seen_keeps State.mmu (fun _ => rfl) (s.at t) check
      have hpart : ((s.at t).seen check).part x.part = s.part x.part := State.seen_keeps (·.part x.part) (fun _ => rfl) (s.at t) check
      have hopen : ((s.at t).seen check).openOf x.part = s.openOf x.part := State.seen_keeps (·.openOf x.part) (fun _ => rfl) (s.at t) check
    case full =>
      refine ⟨_, (exec_brk h hc).trans (congrArg Host.Outcome.next (State.trap_waits hg _ 9 (hopen ▸ hf))), State.group?_setGroup .., hmmu, ?_⟩
      rw [State.part_updPart]
      exact congrArg (fun y : Part => y.overflow ++ [⟨.trapNote 9 x.block x.inBlock, State.groupCtx g x, 0⟩]) hpart
    case opens =>
      have hopens := State.trap_opens hg (s.at t).env0 9 (hopen ▸ hf) (hpart ▸ ha)
      obtain ⟨f, hfaults, hp, hk, hcause, hparked⟩ := State.openFault_faults (((s.at t).seen check).setGroup g (some (x.trapped 9))) (s.at t).env0 x.part 1
        ⟨9, 0, 0⟩ 0 (State.groupCtx g x) (.group g.core g.slot)
      refine ⟨_, f, (exec_brk h hc).trans (congrArg Host.Outcome.next hopens),
        (State.openFault_group? ..).trans (State.group?_setGroup ..), hfaults.trans ?_, hp, hk, hcause, hparked⟩
      exact congrArg (fun m : Mmu => m.faults ++ [f]) hmmu

end Sys2Proof.Machine
end

section
/-!
The read of a line: the matching store, FETCH and LINE_FILL (R14, R27, R163, R396 to R398, R511).
-/

namespace Sys2Proof.Machine
open Sys2Proof

/-! ## The matching store -/

/-- The entry found for a line is of that line. -/
theorem State.entry?_at {s : State} {p : PartId} {line : Nat} {e : MatchEntry} (h : s.entry? p line = some e) : e.part = p ∧ e.line = line := by
  simpa using List.find?_some h

theorem State.mem_of_entry? {s : State} {p : PartId} {line : Nat} {e : MatchEntry} (h : s.entry? p line = some e) : e ∈ s.herd.store :=
  List.mem_of_find?_eq_some h

theorem State.entry?_congr {s t : State} (h : t.herd.store = s.herd.store) (p : PartId) (line : Nat) : t.entry? p line = s.entry? p line := by
  rw [State.entry?, State.entry?, h]

/-- The PACK_WAIT timer leaves the Herder as it is. -/
theorem State.armPack_herd (s : State) (p : PartId) (line : Nat) : (s.armPack p line).herd = s.herd :=
  Comp.same_herd (State.armPack_frame s p line _ (by decide))

/-- In a list of entries, the first of a line is, once changed, the first of that line still. -/
theorem find?_changedEntry {p : PartId} {line : Nat} {e x : MatchEntry} (hp : x.part = p) (hl : x.line = line) (hi : x.items ≠ []) (l : List MatchEntry)
    (h : l.find? (fun e => decide (e.part = p) && e.line == line) = some e) :
    ((l.map (fun y => if y.part = x.part && y.line == x.line then x else y)).filter (fun y => !y.items.isEmpty)).find?
      (fun e => decide (e.part = p) && e.line == line) = some x := by
  subst hp hl
  induction l with
  | nil => cases h
  | cons y l ih =>
    by_cases hy : y.part = x.part ∧ y.line = x.line
    · simp [hy.1, hy.2, hi]
    · rw [List.find?_cons_of_neg (by simpa using hy)] at h
      have hrest := ih h
      by_cases hempty : y.items = []
      · rw [List.map_cons, if_neg (by simpa using hy), List.filter_cons_of_neg (by simpa using hempty)]
        exact hrest
      · rw [List.map_cons, if_neg (by simpa using hy), List.filter_cons_of_pos (by simpa using hempty), List.find?_cons_of_neg (by simpa using hy)]
        exact hrest

/-- An entry changed, with an item left in it, is the entry of its line. -/
theorem State.entry?_setEntry {s : State} {p : PartId} {line : Nat} {e x : MatchEntry} (h : s.entry? p line = some e) (hp : x.part = p) (hl : x.line = line)
    (hi : x.items ≠ []) : (s.setEntry x).entry? p line = some x :=
  find?_changedEntry hp hl hi _ h

/-- The entry as its line becomes present in the NC at a time (R163, R448). -/
def MatchEntry.present (e : MatchEntry) (now : Nat) : MatchEntry :=
  { e with ready := true, items := e.items.map (fun w => { w with ready := if w.since = 0 then now else w.since, since := 0 }) }

theorem State.makeReady_eq {s : State} {p : PartId} {line : Nat} {e : MatchEntry} (h : s.entry? p line = some e) :
    s.makeReady p line = (s.setEntry (e.present s.pins.now)).armPack p line := by
  rw [State.makeReady, h]; rfl

/-- The entry of a line whose items become ready (R163). -/
theorem State.makeReady_entry? {s : State} {p : PartId} {line : Nat} {e : MatchEntry} (h : s.entry? p line = some e) (hi : e.items ≠ []) :
    (s.makeReady p line).entry? p line = some (e.present s.pins.now) := by
  obtain ⟨hp, hl⟩ := State.entry?_at h
  rw [State.makeReady_eq h, State.entry?_congr (congrArg Herd.store (State.armPack_herd _ p line))]
  exact State.entry?_setEntry h hp hl (by simpa [MatchEntry.present] using hi)

/-- Items that become ready change the matching store only: not the NC, nor the reads. -/
theorem State.makeReady_nc_reads (s : State) (p : PartId) (line : Nat) :
    (s.makeReady p line).herd.nc = s.herd.nc ∧ (s.makeReady p line).herd.reads = s.herd.reads := by
  rw [State.makeReady]
  split
  · rw [State.armPack_herd]; exact ⟨rfl, rfl⟩
  · exact ⟨rfl, rfl⟩

/-! ## LINE_FILL (R27, R163) -/

/-- A line that finds a way is in the NC; the matching store and the time stay. -/
theorem State.ncFill_some {s s1 : State} {p : PartId} {line : Nat} (h : s.ncFill p line = some s1) :
    s1.inNc p line = true ∧ s1.herd.store = s.herd.store ∧ s1.pins = s.pins := by
  rw [State.ncFill] at h
  split at h
  · rename_i hin; cases h
    exact ⟨hin, rfl, rfl⟩
  · simp only at h
    split at h
    · cases h; exact ⟨by simp [State.inNc], rfl, rfl⟩
    · split at h
      · cases h; exact ⟨by simp [State.inNc], rfl, rfl⟩
      · cases h

/-- The reads without those of a line. -/
def State.dropReads (s : State) (p : PartId) (line : Nat) : State :=
  { s with herd := { s.herd with reads := s.herd.reads.filter (fun r => !(decide (r.1 = p) && r.2.1 == line)) } }

/-- LINE_FILL of a line whose read is outstanding (R163). -/
theorem exec_lineFill {s : State} {p : PartId} {line : Nat} {port : PortId} (hlive : s.live = true) (hr : (p, line, port) ∈ s.herd.reads) :
    exec (.lineFill p line) s = match s.ncFill p line with
      | some s1 => .next ((s1.dropReads p line).makeReady p line)
      | none => .next s := by
  have hany : s.herd.reads.any (fun r => decide (r.1 = p) && r.2.1 == line) = true := List.any_eq_true.2 ⟨_, hr, by simp⟩
  rw [show exec (.lineFill p line) s = execLineFill p line s from rfl, execLineFill, hlive, hany]
  rfl

/-- A line that is there and finds a way: the NC holds it, no read of it is outstanding, and its entry is ready (R27, R163). -/
theorem lineFill_present {s : State} {p : PartId} {line : Nat} {port : PortId} {e : MatchEntry} (hlive : s.live = true) (hr : (p, line, port) ∈ s.herd.reads)
    (he : s.entry? p line = some e) (hi : e.items ≠ []) (hfill : s.ncFill p line ≠ none) :
    ∃ t, exec (.lineFill p line) s = .next t ∧ t.inNc p line = true ∧ (∀ x ∈ t.herd.reads, x.1 = p → x.2.1 ≠ line)
      ∧ t.entry? p line = some (e.present s.pins.now) := by
  obtain ⟨s1, hs1⟩ := Option.ne_none_iff_exists'.1 hfill
  obtain ⟨hin, hstore, hpins⟩ := State.ncFill_some hs1
  have he1 : (s1.dropReads p line).entry? p line = some e := (State.entry?_congr hstore p line).trans he
  have hready := State.makeReady_entry? he1 hi
  have hnow : (s1.dropReads p line).pins = s.pins := hpins
  obtain ⟨hnc, hreads⟩ := State.makeReady_nc_reads (s1.dropReads p line) p line
  refine ⟨_, (exec_lineFill hlive hr).trans (by rw [hs1]), ?_, fun x hx => ?_, hready.trans (by rw [hnow])⟩
  · rw [State.inNc, hnc]; exact hin
  · rw [hreads] at hx
    simpa [imp_iff_not_or] using (List.mem_filter.1 hx).2

/-! ## The block-wide list (R397, R398) -/

theorem leastBy_mem {α : Type} {k : α → Nat} {l : List α} {a : α} (h : leastBy k l = some a) : a ∈ l := by
  induction l generalizing a with
  | nil => cases h
  | cons b r ih =>
    rw [leastBy] at h
    split at h
    · cases h; exact List.mem_cons_self
    · rename_i c hc
      split at h <;> cases h
      · exact List.mem_cons_of_mem _ (ih hc)
      · exact List.mem_cons_self

theorem lowerOf_mem {α : Type} {k : α → Turn} {a b : α} {l : List α} (h : lowerOf k a l = some b) : b ∈ l :=
  (List.mem_filter.1 (leastBy_mem h)).1

/-- What a block-wide list issues is on it. -/
theorem State.blockTurn_mem {α : Type} {s : State} {n : BitVec 4} {last : PartId} {k : α → Turn} {l : List α} {a : α}
    (h : s.blockTurn n last k l = some a) : a ∈ l := by
  rw [State.blockTurn] at h
  simp only at h
  split at h
  · cases h
  · rename_i b r hb
    have hsub : ∀ x ∈ b :: r, x ∈ l := fun x hx => by
      rw [← hb, mem_sortBy] at hx
      split at hx
      · exact hx
      · exact (List.mem_filter.1 hx).1
    have hturn : ∀ x, leastBy (fun x => robin last (k x).part) ((b :: r).filter (fun x => decide ((k x).cls = (k b).cls))) = some x → x ∈ l :=
      fun x hx => hsub x (List.mem_filter.1 (leastBy_mem hx)).1
    split at h
    · cases hlow : lowerOf k b r with
      | some x => rw [hlow] at h; cases h; exact hsub _ (List.mem_cons_of_mem _ (lowerOf_mem hlow))
      | none =>
        rw [hlow] at h
        cases ht : leastBy (fun x => robin last (k x).part) ((b :: r).filter (fun x => decide ((k x).cls = (k b).cls))) with
        | some x => rw [ht] at h; cases h; exact hturn _ ht
        | none => rw [ht] at h; cases h; exact hsub _ List.mem_cons_self
    · exact hturn a h

/-- The port of the FETCH that is next has a free place (R14). -/
theorem State.lineChoice_port {s : State} {p : PartId} {line pa : Nat} {e : MatchEntry} (h : s.lineChoice = some e) (he : e.part = p ∧ e.line = line)
    (ht : s.translate p .read (line * 128) = .ok pa) : s.portReads (portOf pa) < 2048 := by
  obtain ⟨rfl, rfl⟩ := he
  have hport : (s.fetchPort e).isSome = true := (Bool.and_eq_true_iff.1 (List.mem_filter.1 (State.blockTurn_mem h)).2).2
  by_contra hfull
  simp [State.fetchPort, ht, hfull] at hport

/-! ## FETCH (R163, R341, R511) -/

/-- The fault context of an entry's read (R445). -/
def State.fetchCtx (s : State) (e : MatchEntry) : FaultCtx := match e.items with | w :: _ => s.itemCtx w.item 0 | [] => ⟨1, none, 0, 0, 0, 0, 0, 0⟩

/-- FETCH meets an uncorrectable word of the matching store (R511). -/
theorem exec_fetch_failed {s : State} {p : PartId} {line : Nat} {env : Env} {e : MatchEntry} (he : (s.at env.t).entry? p line = some e)
    (hu : (s.at env.t).unfetched e = true) (hf : env.hw.lists = .failed) : exec (.fetch p line env) s = .next ((s.at env.t).errBlock 0x0A 0) := by
  rw [show exec (.fetch p line env) s = execFetch p line env s from rfl, execFetch]
  simp only [he, hu, hf, Bool.not_true, Bool.false_eq_true, if_false, if_true]

/-- A map that reports a page resident leaves the state as it is. -/
theorem State.resident_same {s : State} {p : PartId} {va : Nat} {c : FaultCtx} (h : (s.resident p va c).1 = true) : (s.resident p va c).2 = s := by
  rw [State.resident] at h ⊢
  simp only at h ⊢
  split at h
  · rename_i hc; rw [if_pos hc]
  · rename_i hc; rw [if_neg hc]
    split at h
    · rfl
    · cases h

/-- FETCH of a line that the map reports resident and that is translated (R163). -/
theorem exec_fetch_resident {s s1 : State} {p : PartId} {line pa : Nat} {env : Env} {e : MatchEntry} (he : (s.at env.t).entry? p line = some e)
    (hu : (s.at env.t).unfetched e = true) (hf : env.hw.lists ≠ .failed) (hs1 : (s.at env.t).seen env.hw.lists = s1)
    (hr : (s1.resident p (line * 128) (s1.fetchCtx e)).1 = true) (ht : s1.translate p .read (line * 128) = .ok pa) :
    exec (.fetch p line env) s = if s1.lineChoice = some e then .next (s1.sendFetch e (portOf pa)) else .next s1 := by
  have hsame := State.resident_same hr
  rw [State.seen] at hs1
  rw [show exec (.fetch p line env) s = execFetch p line env s from rfl, execFetch]
  simp only [he, hu, hf, Bool.not_true, Bool.false_eq_true, if_false, hs1]
  cases hitems : e.items <;> simp only [State.fetchCtx, hitems] at hr hsame <;>
    simp only [hr, hsame, ht, Bool.not_true, Bool.false_eq_true, if_false]

/-- A FETCH is one read more of its port; the matching store stays (R163). -/
theorem State.sendFetch_reads (s : State) (e : MatchEntry) (o : PortId) :
    (s.sendFetch e o).herd.reads = s.herd.reads ++ [(e.part, e.line, o)] ∧ (s.sendFetch e o).herd.store = s.herd.store := by
  rw [State.sendFetch]
  simp only
  rw [show ∀ (x : State) (r : TraceRec), (x.record r).herd = x.herd from fun x r => Comp.same_herd (State.record_frame x r _ (by decide))]
  exact ⟨rfl, rfl⟩

/-- An error of class BLOCK puts the block in ERROR (R513). -/
theorem State.errBlock_state (s : State) (src index : Nat) : (s.errBlock src index).boot.state = stError := by
  rw [State.errBlock, State.doIf_irqBlock_boot, State.offerLog]
  split <;> rfl

end Sys2Proof.Machine
end

section
/-!
O33: rays enter the Herder, through RAY_INTAKE (R61, R89, R99, R125, R159), and the line they wait for is read.
-/

namespace Sys2Proof.Machine
open Sys2Proof

/-! ## A ray in its Kennel slot (R89, R94) -/

theorem State.kGet_kPut (s : State) (i : Nat) (x : KSlot) : (s.kPut i x).kGet i = some x :=
  assocGet_assocPut i x s.kennel.slots

theorem State.kTake_kGet {s t : State} {env : Env} {p : PartId} {foreign : Bool} {prev : Option Nat} {d : KData} {i : Nat}
    (h : s.kTake env p foreign prev d = some (i, t)) : t.kGet i = some ⟨foreign, p, none, d⟩ := by
  rw [State.kTake] at h
  split at h
  · cases h
  · simp only [Option.some.injEq, Prod.mk.injEq] at h
    obtain ⟨rfl, rfl⟩ := h
    cases foreign <;> exact State.kGet_kPut _ _ _

theorem State.ray?_of_kGet {s : State} {i : Nat} {g : Bool} {p : PartId} {l : Option Nat} {ray : Ray} (h : s.kGet i = some ⟨g, p, l, .ray ray⟩) :
    s.ray? i = some ray := by
  rw [State.ray?, h]

/-- A ray admitted is in the slot it took (R89). -/
theorem State.kAdmit_ray? {s t : State} {env : Env} {p : PartId} {ray : Ray} {i : Nat} (h : s.kAdmit env p [.ray ray] = some ([i], t)) :
    t.ray? i = some ray := by
  rw [State.kAdmit] at h
  split at h
  · rw [State.kTakeAll] at h
    split at h
    · cases h
    · rename_i j s1 htake
      cases h
      exact State.ray?_of_kGet (State.kTake_kGet htake)
  · cases h

theorem State.ray?_updRay {s : State} {i : Nat} {ray : Ray} (f : Ray → Ray) (h : s.ray? i = some ray) : (s.updRay i f).ray? i = some (f ray) := by
  rw [State.updRay, h]
  simp only [State.setRay]
  cases hx : s.kGet i with
  | none => simp [State.ray?, hx] at h
  | some x => exact State.ray?_of_kGet (State.kGet_kPut s i _)

theorem State.ray?_congr {s t : State} (h : Comp.slots.same s t) (i : Nat) : t.ray? i = s.ray? i := by
  obtain ⟨h, -, -⟩ := h
  have hget : t.kGet i = s.kGet i := congrArg (assocGet i) h
  rw [State.ray?, State.ray?, hget]

/-! ## A ray enters the Herder (R162, R163) -/

/-- An entry of the matching store holds an item for a line. -/
def State.waitsFor (s : State) (i : HItem) (p : PartId) (line : Nat) : Prop :=
  ∃ e ∈ s.herd.store, e.part = p ∧ e.line = line ∧ ∃ w ∈ e.items, w.item = i

/-- An item that enters while the matching store has room waits there for its line (R163, R165). -/
theorem State.enterAs_waitsFor {s : State} {i : HItem} {p : PartId} {line : Nat} {since : Option Nat} (hi : i.isGroup = false)
    (hroom : s.herd.store.length < 32768) : (s.enterAs i p line since).waitsFor i p line := by
  rw [State.enterAs]
  simp only [hi, Bool.false_eq_true, if_false]
  cases he : s.entry? p line with
  | some e =>
    obtain ⟨hp, hl⟩ := State.entry?_at he
    rw [State.waitsFor, State.armPack_herd]
    exact ⟨_, State.mem_of_entry? (State.entry?_setEntry he hp hl (by simp)), hp, hl, _, List.mem_append_right _ List.mem_cons_self, rfl⟩
  | none =>
    simp only [if_neg (Nat.not_le_of_lt hroom)]
    rw [State.waitsFor, State.armPack_herd]
    exact ⟨_, List.mem_append_right _ List.mem_cons_self, rfl, rfl, _, List.mem_cons_self, rfl⟩

theorem State.enter_ray_waitsFor {s : State} (i : Nat) (p : PartId) (line : Nat) (hroom : s.herd.store.length < 32768) :
    (s.enter (.ray i) p line).waitsFor (.ray i) p line := by
  refine State.enterAs_waitsFor rfl ?_
  rw [show (s.updRay i _).herd = s.herd from Comp.same_herd (State.updRay_frame s i _ _ (by decide))]
  exact hroom

/-- A ray that enters the Herder is active, for its line (R162). -/
theorem State.enter_ray? {s : State} {i : Nat} {p : PartId} {line : Nat} {ray : Ray} (h : s.ray? i = some ray) :
    (s.enter (.ray i) p line).ray? i = some { ray with rstate := .active, line := line } := by
  rw [State.enter, State.enterSince, State.ray?_congr (Comp.same_slots (State.enterAs_frame _ _ p line _ _ (by decide)))]
  exact State.ray?_updRay _ h

/-! ## The record of a command -/

/-- A record is taken: the command stands at its next one (R61). -/
def State.standsAt (s : State) (r : CmdRef) (n : Nat) : Prop := s.cmdIs r (fun d => d.next = n)

/-- A command that stands at another record than before has advanced. -/
theorem State.advanced_of_standsAt {s : State} {q : QueueId} {c : Cmd} (h : s.standsAt ⟨q, c.seq⟩ (c.next + 1)) : s.advanced q c = true := by
  rw [State.advanced]
  split
  · rfl
  · rename_i d hd
    have hnext : d.next = c.next + 1 := h.2 d (List.mem_of_find?_eq_some hd) (by simpa using List.find?_some hd)
    have hne : d.next ≠ c.next := by omega
    simp [hne]

/-- The command whose records are next is one of its queue. -/
theorem State.mem_of_intakeCmd {s : State} {q : QueueId} {f : Nat → Bool} {c : Cmd} (h : s.intakeCmd q f false = some c) : c ∈ (s.queue q).cmds :=
  (List.mem_filter.1 (List.mem_of_mem_head? h)).1

/-- RAY_INTAKE takes the record of the first command that is not held (R61, R161). -/
theorem exec_rayIntake {s s1 : State} {q : QueueId} {word : Option Slot64} {env : Env} {c : Cmd} (hs1 : s.at env.t = s1) (hw : s1.works (s1.qPart q) = true)
    (hroom : s1.herd.store.length ≤ 31744) (hc : s1.intakeCmd q isTrace word.isSome = some c)
    (ha : (State.rayFrom env (s1.qPart q) q word s1 c).advanced q c = true) :
    exec (.rayIntake q word env) s = .next (State.rayFrom env (s1.qPart q) q word s1 c) := by
  obtain ⟨rest, hrest⟩ := List.head?_eq_some_iff.1 hc
  rw [show exec (.rayIntake q word env) s = execRayIntake q word env s from rfl, execRayIntake]
  simp only [hs1, hw, hrest, State.intakeTry, ha, if_true, Bool.not_true, Bool.false_or, decide_eq_true_eq, if_neg (Nat.not_lt_of_le hroom)]

/-- A well-formed ray of an unordered command that its flow's budget and the Kennel let in (R89, R159). -/
theorem State.admitRay_admitted {s t : State} {env : Env} {p : PartId} {c : Cmd} {r : CmdRef} {ray : Ray} {i : Nat} (hb : s.underBudget p ray.flow = true)
    (ho : orderedBit c.raw = false) (ha : s.kAdmit env p [.ray ray] = some ([i], t)) :
    s.admitRay env p c r ray none = (t.taken r).enter (.ray i) p (nodeVa ray / 128) := by
  simp [State.admitRay, hb, ho, ha, flowOrder]

/-- What a ray admitted to slot `i` leaves: it waits for its root's line, and its command is at the next record and keeps the descriptor for its later
rays. -/
def State.entered (t : State) (p : PartId) (c : Cmd) (r : CmdRef) (raw : Slot64) (d : Desc) (ray : Ray) (i : Nat) : State :=
  ((t.taken r).enter (.ray i) p (nodeVa ray / 128)).updCmd r
    (fun x => if x.next = c.next then x else { x with descs := assocPut (rb raw 42 2 % 1024) d x.descs })

/-- The next record of an unordered command, a well-formed ray of a usable hierarchy, is admitted (R96, R125, R159). -/
theorem State.takeRay_admitted {s t : State} {env : Env} {p : PartId} {c : Cmd} {r : CmdRef} {raw : Slot64} {h : HierBind} {d : Desc} {i : Nat}
    (hbad : s.badRay p c raw = false) (hempty : emptyRay raw = false) (hh : assocGet (rb raw 42 2 % 1024) c.hiers = some h) (hk : h.kind = 0 ∨ h.kind = 2)
    (hd : assocGet (rb raw 42 2 % 1024) c.descs = none) (hread : s.vdesc p h.addr = .ok d) (huse : d.usable h.kind.toNat = .ok)
    (hb : s.underBudget p (mkRay c r raw d h.addr).flow = true) (ho : orderedBit c.raw = false)
    (ha : s.kAdmit env p [.ray (mkRay c r raw d h.addr)] = some ([i], t)) :
    s.takeRay env p c r raw = t.entered p c r raw d (mkRay c r raw d h.addr) i := by
  have hkind : (decide (h.kind ≠ 0) && decide (h.kind ≠ 2)) = false := by
    obtain hk | hk := hk <;> simp [hk]
  rw [State.takeRay]
  simp only [hbad, hempty, hh, hkind, hd, hread, huse, Bool.false_eq_true, if_false]
  rw [State.admitRay_admitted hb ho ha, State.entered]

/-- The ray is in its slot, waits for its root's line, and its command stands at the next record. -/
theorem State.entered_holds {s t : State} {env : Env} {p : PartId} {c : Cmd} {r : CmdRef} (raw : Slot64) (d : Desc) {ray : Ray} {i : Nat}
    (ha : s.kAdmit env p [.ray ray] = some ([i], t)) (hroom : s.herd.store.length < 32768) (hc : c ∈ (s.queue r.q).cmds) (hr : c.seq = r.seq)
    (honly : ∀ d ∈ (s.queue r.q).cmds, d.seq = r.seq → d = c) :
    (t.entered p c r raw d ray i).ray? i = some { ray with rstate := .active, line := nodeVa ray / 128 }
      ∧ (t.entered p c r raw d ray i).waitsFor (.ray i) p (nodeVa ray / 128) ∧ (t.entered p c r raw d ray i).standsAt r (c.next + 1) := by
  have hherd : t.herd = s.herd := Comp.same_herd (State.kAdmit_frame _ _ _ _ ha _ (by decide))
  have hqueue : t.queue r.q = s.queue r.q := State.queue_congr (Comp.same_queues (State.kAdmit_frame _ _ _ _ ha _ (by decide))) _
  have htaken : (t.taken r).standsAt r (c.next + 1) := by
    refine State.cmdIs_updCmd t r _ _ (fun _ => rfl) ⟨c, by rw [hqueue]; exact hc, hr⟩ (fun x hx hxr => ?_)
    rw [honly x (by rw [← hqueue]; exact hx) hxr]
  have henter : ((t.taken r).enter (.ray i) p (nodeVa ray / 128)).standsAt r (c.next + 1) :=
    State.cmdIs_congr r _ (Comp.same_queues (State.enter_frame _ _ _ _ _ (by decide))) htaken
  have hray : (t.taken r).ray? i = some ray := by
    rw [State.taken, State.ray?_congr (Comp.same_slots (State.updCmd_frame t r _ _ (by decide)))]
    exact State.kAdmit_ray? ha
  refine ⟨State.enter_ray? hray, State.enter_ray_waitsFor (s := t.taken r) i p _ (hherd ▸ hroom), ?_⟩
  refine State.cmdIs_updCmd _ r _ _ (fun x => ?_) henter.1 (fun x hx hxr => ?_)
  · split <;> rfl
  · have hnext := henter.2 x hx hxr
    split <;> exact hnext

/-- RAY_INTAKE reads from memory the record of a ray that is admitted (R61, R89, R159). -/
theorem rayIntake_memory {s s1 t : State} {q : QueueId} {env : Env} {c : Cmd} {raw : Slot64} {d : Desc} {ray : Ray} {i : Nat} (hs1 : s.at env.t = s1)
    (hw : s1.works (s1.qPart q) = true) (hroom : s1.herd.store.length ≤ 31744) (honly : ∀ d ∈ (s1.queue q).cmds, d.seq = c.seq → d = c)
    (haddr : env.hw.addr = false) (hc : s1.intakeCmd q isTrace false = some c) (ho : orderedBit c.raw = false)
    (hraw : s1.vslot (s1.qPart q) (rb c.raw 8 8 + 64 * c.next) = .ok raw) (ha : s1.kAdmit env (s1.qPart q) [.ray ray] = some ([i], t))
    (ht : s1.takeRay env (s1.qPart q) c ⟨q, c.seq⟩ raw = t.entered (s1.qPart q) c ⟨q, c.seq⟩ raw d ray i) :
    ∃ u, exec (.rayIntake q none env) s = .next u ∧ u.ray? i = some { ray with rstate := .active, line := nodeVa ray / 128 }
      ∧ u.waitsFor (.ray i) (s1.qPart q) (nodeVa ray / 128) ∧ ∃ y ∈ (u.queue q).cmds, y.seq = c.seq ∧ y.next = c.next + 1 := by
  obtain ⟨hray, hwait, hnext⟩ := State.entered_holds (p := s1.qPart q) (r := ⟨q, c.seq⟩) raw d ha (by omega) (State.mem_of_intakeCmd hc) rfl honly
  have hturn : s1.orderTurn q c = true := by simp [State.orderTurn, ho]
  have hfrom : State.rayFrom env (s1.qPart q) q none s1 c = t.entered (s1.qPart q) c ⟨q, c.seq⟩ raw d ray i := by
    rw [State.rayFrom]
    simp only [hturn, haddr, hraw, ht, Bool.not_true, Bool.false_eq_true, if_false]
  have hexec := exec_rayIntake (word := none) hs1 hw hroom hc (hfrom ▸ State.advanced_of_standsAt hnext)
  obtain ⟨⟨y, hy, hys⟩, hall⟩ := hnext
  exact ⟨_, hexec.trans (congrArg _ hfrom), hray, hwait, y, hy, hys, hall y hy hys⟩

/-- RAY_INTAKE takes a record from the vector network as it comes, against its sender's credit (R10, R61). -/
theorem rayIntake_vector {s s1 : State} {q : QueueId} {env : Env} {c : Cmd} {w : Slot64} (hs1 : s.at env.t = s1) (hw : s1.works (s1.qPart q) = true)
    (hroom : s1.herd.store.length ≤ 31744) (hc : s1.intakeCmd q isTrace true = some c) (hturn : s1.orderTurn q c = true)
    (hport : s1.portLive (srcPort c.raw) = true) (hcredit : s1.hasCredit (srcPort c.raw) .vector 1 = true)
    (ha : (s1.takeRay env (s1.qPart q) c ⟨q, c.seq⟩ w).advanced q c = true) :
    exec (.rayIntake q (some w) env) s = .next ((s1.takeRay env (s1.qPart q) c ⟨q, c.seq⟩ w).useCredit (srcPort c.raw) .vector 1) := by
  have hfrom : State.rayFrom env (s1.qPart q) q (some w) s1 c = (s1.takeRay env (s1.qPart q) c ⟨q, c.seq⟩ w).useCredit (srcPort c.raw) .vector 1 := by
    rw [State.rayFrom]
    simp only [hturn, hport, hcredit, ha, Bool.not_true, Bool.or_true, Bool.and_true, Bool.false_eq_true, if_false, if_true, State.doIf]
  have hadv : (State.rayFrom env (s1.qPart q) q (some w) s1 c).advanced q c = true := by
    rw [hfrom]
    have hqueues : ((s1.takeRay env (s1.qPart q) c ⟨q, c.seq⟩ w).useCredit (srcPort c.raw) .vector 1).queues
        = (s1.takeRay env (s1.qPart q) c ⟨q, c.seq⟩ w).queues := Comp.same_queues (State.useCredit_frame _ _ _ _ _ (by decide))
    rw [State.advanced, State.cmd?, State.queue] at ha ⊢
    rw [hqueues]; exact ha
  rw [← hfrom]
  exact exec_rayIntake hs1 hw hroom hc hadv

/-! ## The three together -/

/-- FETCH of a line whose entry has not been read (R14, R163, R397, R398, R511). -/
theorem fetch_acts {s s1 : State} {p : PartId} {line : Nat} {env : Env} {e : MatchEntry} (hs1 : (s.at env.t).seen env.hw.lists = s1)
    (he : s1.entry? p line = some e) (hu : s1.unfetched e = true) :
    (env.hw.lists = .failed → ∃ t, exec (.fetch p line env) s = .next t ∧ t.boot.state = stError ∧ t.herd = s.herd)
    ∧ ∀ pa, env.hw.lists ≠ .failed → (s1.resident p (line * 128) (s1.fetchCtx e)).1 = true →
      (s1.resident p (line * 128) (s1.fetchCtx e)).2.translate p .read (line * 128) = .ok pa →
      ((s1.resident p (line * 128) (s1.fetchCtx e)).2.lineChoice = some e → s1.portReads (portOf pa) < 2048
        ∧ ∃ t, exec (.fetch p line env) s = .next t ∧ t.herd.reads = s.herd.reads ++ [(p, line, portOf pa)] ∧ t.herd.store = s.herd.store)
      ∧ ((s1.resident p (line * 128) (s1.fetchCtx e)).2.lineChoice ≠ some e → exec (.fetch p line env) s = .next s1) := by
  have hherd : s1.herd = s.herd := hs1 ▸ State.seen_keeps State.herd (fun _ => rfl) (s.at env.t) env.hw.lists
  have he0 : (s.at env.t).entry? p line = some e := (State.seen_keeps (·.entry? p line) (fun _ => rfl) _ env.hw.lists).symm.trans (by rw [hs1]; exact he)
  have hu0 : (s.at env.t).unfetched e = true := (State.seen_keeps (·.unfetched e) (fun _ => rfl) _ env.hw.lists).symm.trans (by rw [hs1]; exact hu)
  refine ⟨fun hf => ⟨_, exec_fetch_failed he0 hu0 hf, State.errBlock_state _ _ _, Comp.same_herd (State.errBlock_frame _ _ _ _ (by decide))⟩,
    fun pa hf hr ht => ?_⟩
  rw [State.resident_same hr] at ht ⊢
  have hexec := exec_fetch_resident he0 hu0 hf hs1 hr ht
  obtain ⟨hp, hl⟩ := State.entry?_at he
  refine ⟨fun hnext => ⟨State.lineChoice_port hnext ⟨hp, hl⟩ ht, _, hexec.trans (if_pos hnext), ?_⟩, fun hnot => hexec.trans (if_neg hnot)⟩
  obtain ⟨hreads, hstore⟩ := State.sendFetch_reads s1 e (portOf pa)
  rw [hreads, hstore, hherd, hp, hl]
  exact ⟨rfl, rfl⟩

/-- Settles O33: the three instructions in turn. -/
theorem raysEnterTheHerder : Obligations.RaysEnterTheHerder := by
  unfold Obligations.RaysEnterTheHerder
  refine ⟨fun q env c s hw hroom honly haddr => ⟨fun raw d h i s2 hc ho hraw hbad hempty hh hk hd hread huse hb ha => ?_,
    fun w hc hturn hport hcredit ha => ?_⟩, fun p line env e s he hu => ?_, fun p line port e s hlive hr he hi => ⟨fun hfill => ?_, fun hfill => ?_⟩⟩
  · exact rayIntake_memory (s1 := s.at env.t) rfl hw hroom honly haddr hc ho hraw ha (State.takeRay_admitted hbad hempty hh hk hd hread huse hb ho ha)
  · exact rayIntake_vector (s1 := s.at env.t) rfl hw hroom hc hturn hport hcredit ha
  · exact fetch_acts rfl he hu
  · exact (exec_lineFill hlive hr).trans (by rw [hfill])
  · exact lineFill_present hlive hr he hi hfill

end Sys2Proof.Machine
end

section
/-!
The registers of a queue slot: RK_QCTL (R47) and RK_QWHISTLE (R44, R48).
-/

namespace Sys2Proof.Machine
open Sys2Proof

/-! ## Fields of a written word -/

theorem getLsbD_setBit_ne {n i j : Nat} (w : BitVec n) (b : Bool) (h : j ≠ i) : (setBit w i b).getLsbD j = w.getLsbD j := by
  have h1 : ((1#n) <<< i).getLsbD j = false := by simp; omega
  by_cases hj : j < n
  · cases b
    · rw [setBit, if_neg (by decide), BitVec.getLsbD_and, BitVec.getLsbD_not, h1, decide_eq_true hj]
      exact Bool.and_true _
    · rw [setBit, if_pos rfl, BitVec.getLsbD_or, h1, Bool.or_false]
  · rw [BitVec.getLsbD_of_ge _ _ (by omega), BitVec.getLsbD_of_ge _ _ (by omega)]

/-- A bit written below a field leaves the field. -/
theorem fld_setBit_below {n i lo : Nat} (w : BitVec n) (b : Bool) (len : Nat) (h : i < lo) : fld (setBit w i b) lo len = fld w lo len := by
  ext k hk
  rw [fld, fld, BitVec.getElem_extractLsb', BitVec.getElem_extractLsb', getLsbD_setBit_ne w b (by omega)]

/-! ## A register of a slot that holds a queue -/

/-- A write to the register of a queue, carried out: the lock closes, the register acts, and the bus answers. -/
theorem exec_queueEnable {s : State} {req : Requester} {p : PartId} {slot : Fin 64} {q : QueueId} (h : s.takesPage req p)
    (hq : s.slotQueue p slot.val = some q) (v : W32) (env : Env) :
    exec (.queueEnable req p slot v env) s = .next ((((s.at env.t).relock req).writeQctl env q (v ||| 1)).answer .ok) :=
  congrArg Host.Outcome.next (State.queueSlotWrite_taken (s.at env.t) req p slot q _ h hq)

theorem exec_queueDisable {s : State} {req : Requester} {p : PartId} {slot : Fin 64} {q : QueueId} (h : s.takesPage req p)
    (hq : s.slotQueue p slot.val = some q) (v : W32) :
    exec (.queueDisable req p slot v) s = .next (((s.relock req).writeQctl (s.relock req).env0 q (v &&& ~~~1#32)).answer .ok) :=
  congrArg Host.Outcome.next (State.queueSlotWrite_taken s req p slot q _ h hq)

theorem exec_queueResume {s : State} {req : Requester} {p : PartId} {slot : Fin 64} {q : QueueId} (h : s.takesPage req p)
    (hq : s.slotQueue p slot.val = some q) (v : W32) :
    exec (.queueResume req p slot v) s
      = .next (((s.relock req).writeQctl (s.relock req).env0 q (setBit (v ||| 2) 0 ((s.relock req).queue q).enable)).answer .ok) :=
  congrArg Host.Outcome.next (State.queueSlotWrite_taken s req p slot q _ h hq)

theorem exec_whistle {s : State} {req : Requester} {p : PartId} {slot : Fin 64} {q : QueueId} (h : s.takesPage req p)
    (hq : s.slotQueue p slot.val = some q) (v : W32) :
    exec (.whistle req p slot v) s = .next (((s.relock req).whistleAt p q (fldN v 0 17)).answer .ok) :=
  congrArg Host.Outcome.next (State.queueSlotWrite_taken s req p slot q _ h hq)

theorem State.relock_queues (s : State) (req : Requester) : (s.relock req).queues = s.queues := by rw [State.relock_eq]

theorem State.relock_queue (s : State) (req : Requester) (q : QueueId) : (s.relock req).queue q = s.queue q :=
  State.queue_congr (State.relock_queues s req) q

theorem State.setQueue_setQueue (s : State) (q : QueueId) (x y : Queue) : (s.setQueue q x).setQueue q y = s.setQueue q y := by
  simp [State.setQueue]

/-! ## RK_QCTL (R47) -/

/-- The queue's part of any write of RK_QCTL: CPL_VEC, and ERR_STOP under RESUME. -/
def Queue.ctlWritten (x : Queue) (v : W32) : Queue := { x with vec := fld v 8 4, errStop := x.errStop && !bit v 1 }

/-- The queue as an enable under descriptor `d` leaves it. -/
def Queue.enabledBy (x : Queue) (d : Slot64) : Queue :=
  queueFrom { x with enable := true, head := 0, tail := 0, cplWrite := 0, cur := none, fetched := [], last := none, shown := none, waited := 0 } d

theorem State.writeQctl_kept {s : State} {env : Env} {q : QueueId} {v : W32} (h : bit v 0 = (s.queue q).enable) :
    s.writeQctl env q v = s.setQueue q ((s.queue q).ctlWritten v) := by
  have on : ¬ (bit v 0 && !(s.queue q).enable) = true := by rw [h]; simp
  have off : ¬ (!bit v 0 && (s.queue q).enable) = true := by rw [h]; simp
  exact (if_neg on).trans (if_neg off)

theorem State.writeQctl_disables {s : State} {env : Env} {q : QueueId} {v : W32} (hv : bit v 0 = false) (he : (s.queue q).enable = true) :
    s.writeQctl env q v = (s.setQueue q ((s.queue q).ctlWritten v)).updQueue q (fun x => { x with enable := false }) :=
  (if_neg (by rw [hv]; simp)).trans (if_pos (by rw [hv, he]; rfl))

theorem State.writeQctl_enables {s : State} {env : Env} {q : QueueId} {v : W32} (hv : bit v 0 = true) (he : (s.queue q).enable = false) :
    s.writeQctl env q v = (s.setQueue q ((s.queue q).ctlWritten v)).enableQueue env q :=
  if_pos (by rw [hv, he]; rfl)

/-- An enable in a READY block under a valid descriptor (R41, R47, R502). -/
theorem State.enableQueue_valid {s : State} {env : Env} {q : QueueId} {d : Slot64} (hr : s.ready = true)
    (hm : (s.part (s.qPart q)).mmuEnable.force = true) (hd : s.vslot (s.qPart q) ((s.queue q).desc.toNat * 64) = .ok d) (hok : qdescOk d = true) :
    s.enableQueue env q = s.setQueue q ((s.queue q).enabledBy d) := by
  simp only [State.enableQueue, hr, Bool.not_true, Bool.false_eq_true, if_false, State.readQdesc, State.queue_updQueue]
  have hpart : ∀ f p, (s.updQueue q f).part p = s.part p := fun _ _ => rfl
  have hqp : ∀ f, (s.updQueue q f).qPart q = s.qPart q := fun _ => rfl
  simp only [hqp, hpart, hm, State.vslot_congr (State.updQueue_mem s q _) (State.updQueue_parts s q _) (State.updQueue_mmu s q _), hd, hok]
  exact State.setQueue_setQueue s q _ _

/-! ## The three writes -/

/-- A write answered ok has made `x` of a queue and left the others as they were. -/
def State.queueWritten (s t : State) (q : QueueId) (x : Queue) : Prop :=
  t.pins.resp = .ok ∧ t.queue q = x ∧ ∀ k, k ≠ q → t.queue k = s.queue k

theorem State.queueWritten_answer {s u : State} (h : u.queues = s.queues) (q : QueueId) (x : Queue) :
    s.queueWritten ((u.setQueue q x).answer .ok) q x :=
  ⟨rfl, State.queue_setQueue u q x, fun k hk => (State.queue_setQueue_ne u x hk.symm).trans (State.queue_congr h k)⟩

section
variable {s : State} {req : Requester} {p : PartId} {slot : Fin 64} {q : QueueId} (hp : s.takesPage req p) (hq : s.slotQueue p slot.val = some q) (v : W32)
include hp hq

theorem queueEnable_writes {env : Env} {d : Slot64} (hr : s.ready = true) (he : (s.queue q).enable = false)
    (hm : (s.part (s.qPart q)).mmuEnable.force = true) (hd : s.vslot (s.qPart q) ((s.queue q).desc.toNat * 64) = .ok d) (hok : qdescOk d = true) :
    ∃ t, exec (.queueEnable req p slot v env) s = .next t ∧ s.queueWritten t q (((s.queue q).ctlWritten (v ||| 1)).enabledBy d) := by
  have hx : ((s.at env.t).relock req).queue q = s.queue q := State.relock_queue (s.at env.t) req q
  have hr' : (((s.at env.t).relock req).setQueue q (((s.queue q).ctlWritten (v ||| 1)))).ready = true := by rw [State.relock_eq]; exact hr
  refine ⟨_, exec_queueEnable hp hq v env, ?_⟩
  rw [State.writeQctl_enables (by simp) (hx ▸ he), hx]
  rw [State.enableQueue_valid (d := d) hr' (by rw [State.relock_eq]; exact hm) ?_ hok, State.queue_setQueue, State.setQueue_setQueue]
  · exact State.queueWritten_answer (State.relock_queues (s.at env.t) req) q _
  · rw [State.queue_setQueue, State.qPart_congr (s := s) (by rw [State.relock_eq]; rfl),
      State.vslot_congr (s := s) (by rw [State.relock_eq]; rfl) (by rw [State.relock_eq]; rfl) (by rw [State.relock_eq]; rfl)]
    exact hd

theorem queueDisable_writes (he : (s.queue q).enable = true) :
    ∃ t, exec (.queueDisable req p slot v) s = .next t
      ∧ s.queueWritten t q { (s.queue q).ctlWritten (v &&& ~~~1#32) with enable := false } := by
  refine ⟨_, exec_queueDisable hp hq v, ?_⟩
  rw [State.writeQctl_disables (by simp) (by rw [State.relock_queue]; exact he), State.updQueue, State.setQueue_setQueue, State.queue_setQueue, State.relock_queue]
  exact State.queueWritten_answer (State.relock_queues s req) q _

theorem queueResume_writes :
    ∃ t, exec (.queueResume req p slot v) s = .next t
      ∧ s.queueWritten t q ((s.queue q).ctlWritten (setBit (v ||| 2) 0 (s.queue q).enable)) := by
  refine ⟨_, exec_queueResume hp hq v, ?_⟩
  rw [State.writeQctl_kept (by cases ((s.relock req).queue q).enable <;> simp [setBit]), State.relock_queue]
  exact State.queueWritten_answer (State.relock_queues s req) q _

end

/-- The three writes of a bit below CPL_VEC leave it. -/
theorem fld_qctlVec (v : W32) (b : Bool) :
    fld (v ||| 1) 8 4 = fld v 8 4 ∧ fld (v &&& ~~~1#32) 8 4 = fld v 8 4 ∧ fld (setBit (v ||| 2) 0 b) 8 4 = fld v 8 4 := by
  have h1 : v ||| 1 = setBit v 0 true := by simp [setBit]
  have h0 : v &&& ~~~1#32 = setBit v 0 false := by simp [setBit]
  have h2 : v ||| 2 = setBit v 1 true := by simp [setBit]
  rw [h1, h0, h2]
  refine ⟨fld_setBit_below v _ 4 (by decide), fld_setBit_below v _ 4 (by decide), ?_⟩
  rw [fld_setBit_below _ _ 4 (by decide), fld_setBit_below v _ 4 (by decide)]

theorem exec_queueDisableDone {s : State} {q : QueueId} (hr : s.ready = true) (hd : (s.queue q).enabled = true) (he : (s.queue q).enable = false)
    (hc : (s.queue q).cmds = []) :
    exec (.queueDisableDone q) s = .next (s.setQueue q { s.queue q with enabled := false, cur := none, fetched := [] }) :=
  if_pos (by simp [hr, hd, he, hc])

/-- Settles O15: each write is the register's part of it on a slot that holds a queue. -/
theorem queueControlEnablesDisablesAndResumes : Obligations.QueueControlEnablesDisablesAndResumes := by
  intro req p slot q v s hp hq
  obtain ⟨von, voff, vres⟩ := fld_qctlVec v (s.queue q).enable
  refine ⟨fun env d hr he hm hd hok => ?_, fun he => ?_, ?_, fun hr hen he hc => ?_⟩
  · obtain ⟨t, ht, ok, hx, hk⟩ := queueEnable_writes hp hq v (env := env) hr he hm hd hok
    exact ⟨t, ht, ok, by rw [hx]; exact ⟨rfl, rfl, rfl, rfl, rfl, von, rfl, rfl, rfl, rfl, rfl, rfl, rfl, rfl⟩, hk⟩
  · obtain ⟨t, ht, ok, hx, hk⟩ := queueDisable_writes hp hq v he
    exact ⟨t, ht, ok, by rw [hx], by rw [hx]; rfl, by rw [hx]; rfl, by rw [hx]; exact voff, hk⟩
  · obtain ⟨t, ht, ok, hx, hk⟩ := queueResume_writes hp hq v
    refine ⟨t, ht, ok, ?_, by rw [hx]; rfl, by rw [hx]; rfl, by rw [hx]; rfl, by rw [hx]; exact vres, hk⟩
    have h1 : bit (setBit (v ||| 2) 0 (s.queue q).enable) 1 = true := by
      rw [bit, getLsbD_setBit_ne _ _ (by decide)]
      simp
    rw [hx]
    simp only [Queue.ctlWritten, h1, Bool.not_true, Bool.and_false]
  · exact ⟨_, exec_queueDisableDone hr hen he hc, by rw [State.queue_setQueue], by rw [State.queue_setQueue],
      fun k hk => State.queue_setQueue_ne s _ hk.symm⟩

/-! ## Whistles (R44) -/

/-- A Whistle that reaches its queue (R43). -/
theorem State.whistleAt_reaches {s : State} {p : PartId} {q : QueueId} (t : Nat) (hr : s.ready = true) (he : (s.part p).partError = false)
    (hs : (s.part p).resetting = false) : s.whistleAt p q t = s.updQueue q (fun x => whistleQueue x t) :=
  if_neg (by simp [hr, he, hs])

theorem whistleQueue_eq (x : Queue) (v : Nat) :
    if x.enabled = true ∧ v < 2 * x.entries ∧ aheadOf x v ≤ x.entries ∧ aheadOf x x.tail ≤ aheadOf x v
    then whistleQueue x v = { x with tail := v } else whistleQueue x v = { x with badWhistle := true } := by
  split
  next h => exact if_pos (by simpa [and_assoc] using h)
  next h => exact if_neg (by simpa [and_assoc] using h)

/-- What a Whistle makes of the queues, from any state that holds the same queues. -/
theorem State.whistled_updQueue {s u : State} (h : u.queues = s.queues) (q : QueueId) (v : Nat) :
    let x := s.queue q
    let t := u.updQueue q (fun x => whistleQueue x v)
    (if x.enabled = true ∧ v < 2 * x.entries ∧ aheadOf x v ≤ x.entries ∧ aheadOf x x.tail ≤ aheadOf x v
      then t.queue q = { x with tail := v } else t.queue q = { x with badWhistle := true })
    ∧ ∀ k, k ≠ q → t.queue k = s.queue k := by
  have hq : (u.updQueue q (fun x => whistleQueue x v)).queue q = whistleQueue (s.queue q) v := by
    rw [State.queue_updQueue, State.queue_congr h]
  refine ⟨?_, fun k hk => (State.queue_updQueue_ne u _ hk.symm).trans (State.queue_congr h k)⟩
  rw [hq]
  exact whistleQueue_eq (s.queue q) v

theorem exec_scalarWhistle {s : State} {port : PortId} {p : PartId} (w : W32) (hc : s.hasCredit port .scalar 1 = true) (hp : s.portOwner port = some p) :
    exec (.scalarWhistle port w) s = .next (match s.slotQueue p (fldN w 26 6) with
      | none => s.useCredit port .scalar 1
      | some q => (s.useCredit port .scalar 1).whistleAt p q (fldN w 0 17)) := by
  show execScalarWhistle port w s = _
  simp only [execScalarWhistle, hc, hp, Bool.not_true, Bool.false_eq_true, if_false]
  cases s.slotQueue p (fldN w 26 6) <;> rfl

theorem exec_scalarWhistle_noCredit {s : State} {port : PortId} (w : W32) (hc : s.hasCredit port .scalar 1 = false) :
    exec (.scalarWhistle port w) s = .next s :=
  if_pos (by rw [hc]; rfl)

/-- Settles O16: both ways a Whistle reaches its queue are `whistleQueue`. -/
theorem whistleMovesTheTailForward : Obligations.WhistleMovesTheTailForward := by
  intro p s hr he hs
  refine ⟨fun req slot v q hp hq => ?_, fun port w hw => ⟨fun hc => ?_, exec_scalarWhistle_noCredit w⟩⟩
  · have h : (s.relock req).whistleAt p q (fldN v 0 17) = (s.relock req).updQueue q (fun x => whistleQueue x (fldN v 0 17)) :=
      State.whistleAt_reaches _ (by rw [State.relock_eq]; exact hr) (by rw [State.relock_eq]; exact he) (by rw [State.relock_eq]; exact hs)
    refine ⟨_, exec_whistle hp hq v, rfl, ?_⟩
    rw [h]
    exact State.whistled_updQueue (State.relock_queues s req) q _
  · refine ⟨_, exec_scalarWhistle w hc hw, ?_, fun q hq => ?_, fun hq => ?_⟩
    · cases s.slotQueue p (fldN w 26 6) with
      | none => rfl
      | some q => simp only [State.whistleAt_reaches (s := s.useCredit port .scalar 1) (q := q) _ hr he hs, State.updQueue_ret]
    · rw [hq]
      simp only [State.whistleAt_reaches (s := s.useCredit port .scalar 1) (q := q) _ hr he hs]
      exact State.whistled_updQueue rfl q _
    · rw [hq]
      rfl

end Sys2Proof.Machine
end

section
/-!
NOP, TRACE_RAYS, FENCE and SIGNAL_VALUE (R58, R60, R68, R70), and the progress shadow (R79).
-/

namespace Sys2Proof.Machine
open Sys2Proof

/-! ## A command that begins -/

/-- The queue of a command that begins holds it. -/
theorem State.holds_of_beginning {s : State} {q : QueueId} {op : Nat} {c : Cmd} (h : s.beginning q op = some c) :
    ∃ d ∈ (s.queue q).cmds, d.seq = c.seq :=
  ⟨c, State.beginning_mem h, rfl⟩

/-- What a change of a command's record makes of what held of it. -/
theorem State.cmdIs.updCmd {s : State} {r : CmdRef} {P Q : Cmd → Prop} (h : s.cmdIs r P) (f : Cmd → Cmd) (hf : ∀ c, (f c).seq = c.seq)
    (hPQ : ∀ c, P c → Q (f c)) : (s.updCmd r f).cmdIs r Q :=
  State.cmdIs_updCmd s r f Q hf h.1 (fun c hc hs => hPQ c (h.2 c hc hs))

theorem exec_nop {s : State} {q : QueueId} {c : Cmd} (h : s.beginning q 0x00 = some c) : exec (.nop q) s = .next (s.finishOk ⟨q, c.seq⟩) := by
  show execNop q s = _
  rw [execNop, h]

theorem exec_traceRays {s : State} {q : QueueId} {c : Cmd} (h : s.beginning q 0x01 = some c) :
    exec (.traceRays q) s = .next (s.begin ⟨q, c.seq⟩) := by
  show execTraceRays q s = _
  rw [execTraceRays, h]

theorem exec_fence {s : State} {q : QueueId} {c : Cmd} (h : s.beginning q 0x40 = some c) :
    exec (.fence q) s = .next (if s.fenceMet q c then s.finishOk ⟨q, c.seq⟩ else s) := by
  show execFence q s = _
  rw [execFence, h]
  exact (apply_ite _ _ _ _).symm

/-- Settles O20: each row is one change of the record of the command that begins. -/
theorem nopTraceAndFenceChangeOnlyTheirCommand : Obligations.NopTraceAndFenceChangeOnlyTheirCommand := by
  intro q c s
  refine ⟨fun h => ⟨_, exec_nop h, State.endedDone_finishOk s _ (State.holds_of_beginning h), _, rfl⟩,
    fun h => ⟨_, exec_traceRays h, State.isRunning_begin s _ (State.holds_of_beginning h), _, rfl⟩, fun h hm => ?_, fun h hm => ?_⟩
  · exact ⟨_, exec_fence h, by rw [hm]; exact State.endedDone_finishOk s _ (State.holds_of_beginning h), _, by rw [hm]; rfl⟩
  · rw [exec_fence h, hm]
    rfl

/-! ## SIGNAL_VALUE (R70) -/

theorem Mem.num_lt (m : Mem) (a n : Nat) : m.num a n < 256 ^ n := by
  have h := leNat_lt (m.read a n)
  rwa [Mem.read_length] at h

/-- A number written to memory reads back. -/
theorem Mem.num_write (m : Mem) (a n v : Nat) (h : m.wf = true) : (m.write a (leBytes n v)).num a n = v % 256 ^ n := by
  have hr := Mem.read_write m a (leBytes n v) h
  rw [leBytes_length] at hr
  rw [Mem.num, hr, leNat_leBytes]

/-- The result of an operation on two words is a word. -/
theorem signalOp_lt {old val : Nat} (op : Nat) (ho : old < 2 ^ 64) (hv : val < 2 ^ 64) : signalOp op old val < 2 ^ 64 := by
  unfold signalOp
  split
  · exact hv
  split
  · exact Nat.mod_lt _ (by decide)
  · exact max_lt ho hv

/-- The word of a SIGNAL_VALUE written and its command ended, before the WAIT_VALUEs look again. -/
def State.signalled (s : State) (q : QueueId) (c : Cmd) (pa : Nat) : State :=
  ((s.poke pa (leBytes 8 (signalOp (rb c.raw 24 1) (s.mem.num pa 8) (rb c.raw 16 8)))).finishOk ⟨q, c.seq⟩).noteWrite (.command ⟨q, c.seq⟩)
    (s.qPart q) [(rb c.raw 8 8, 8)]

theorem exec_signalValue {s : State} {q : QueueId} {env : Env} {c : Cmd} {pa : Nat} (h : (s.at env.t).beginning q 0x42 = some c)
    (hd : ∀ d ∈ (s.queue q).cmds, c.seq ≤ d.seq) (ht : (s.at env.t).translate ((s.at env.t).qPart q) .atomic (rb c.raw 8 8) = .ok pa) :
    exec (.signalValue q env) s = .next (((s.at env.t).signalled q c pa).waitAll env (s.qPart q)) := by
  have he : ¬ ((s.at env.t).queue q).cmds.any (fun d => decide (d.seq < c.seq)) = true := by
    rw [List.any_eq_true]
    rintro ⟨d, hm, hl⟩
    exact absurd (hd d hm) (Nat.not_le.2 (of_decide_eq_true hl))
  show execSignalValue q env s = _
  simp only [execSignalValue, h, if_neg he, ht]
  rfl

theorem State.signalled_ends {s : State} {q : QueueId} {c : Cmd} (pa : Nat) (h : ∃ d ∈ (s.queue q).cmds, d.seq = c.seq) :
    (s.signalled q c pa).endedDone ⟨q, c.seq⟩ :=
  State.cmdIs_congr (s := ((s.poke pa (leBytes 8 (signalOp (rb c.raw 24 1) (s.mem.num pa 8) (rb c.raw 16 8)))).finishOk ⟨q, c.seq⟩).updCmd ⟨q, c.seq⟩
    (fun x => { x with writes := x.writes + 1 })) ⟨q, c.seq⟩ _ rfl
    (State.cmdIs.updCmd (State.endedDone_finishOk (s.poke pa _) ⟨q, c.seq⟩ h) _ (fun _ => rfl) (fun _ hc => hc))

/-- A SIGNAL_VALUE leaves every command its opcode. -/
theorem State.signalled_noWait {s : State} (q : QueueId) (c : Cmd) (pa : Nat) (h : ∀ k d, d ∈ (s.queue k).cmds → opOf d.raw ≠ 0x41) :
    ∀ k d, d ∈ ((s.signalled q c pa).queue k).cmds → opOf d.raw ≠ 0x41 := by
  intro k d hd
  obtain ⟨d1, h1, e1⟩ := State.mem_updCmd hd
  obtain ⟨d0, h0, e0⟩ := State.mem_updCmd h1
  have e01 : d1.raw = d0.raw := by rcases e0 with rfl | rfl <;> rfl
  have e12 : d.raw = d1.raw := by rcases e1 with rfl | rfl <;> rfl
  rw [e12, e01]
  exact h k d0 h0

/-- Settles O22: the word is written where the address translates to, and no WAIT_VALUE looks again. -/
theorem signalValueWritesItsWord : Obligations.SignalValueWritesItsWord := by
  intro q env c pa s s1 old val hm h hd ht hw
  have hv : signalOp (rb c.raw 24 1) old val < 2 ^ 64 := signalOp_lt _ (Mem.num_lt s.mem pa 8) (Nat.mod_lt _ (by decide))
  refine ⟨_, exec_signalValue h hd ht, ?_, ?_, ?_⟩ <;> rw [State.waitAll_none _ _ _ (State.signalled_noWait (s := s1) q c pa hw)]
  · exact (Mem.num_write s.mem pa 8 _ hm).trans (Nat.mod_eq_of_lt hv)
  · intro a ha
    exact Mem.get_write_ne _ _ _ _ hm (by rw [leBytes_length]; exact ha)
  · exact State.signalled_ends pa (State.holds_of_beginning h)

/-! ## The progress shadow (R79) -/

/-- The shadow's time has come: its timer does not run, or fires. -/
def State.shadowDue (s : State) (q : QueueId) (t : Nat) : Bool := (s.timerDue (.progress q)).isNone || s.timerFires (.progress q) t

theorem State.shadowDue_iff (s : State) (q : QueueId) (t : Nat) :
    s.shadowDue q t = true ↔ s.timerDue (.progress q) = none ∨ s.timerFires (.progress q) t = true := by
  rw [State.shadowDue, Bool.or_eq_true, Option.isNone_iff_eq_none]

/-- The 1,024 ns of a shadow begin again. -/
def State.shadowAgain (s : State) (q : QueueId) : State := (s.timerDel (.progress q)).timerAdd (.progress q) (s.pins.now + 1024)

section
variable {s : State} {q : QueueId} {env : Env} (hr : s.ready = true) (he : (s.queue q).enabled = true) (hk : (s.queue q).cplParked = false)
  (hs : (s.part (s.qPart q)).resetting = false)
include hr he hk hs

/-- No condition on the queue holds its shadow back. -/
theorem progressShadow_open : (!(s.at env.t).ready || !((s.at env.t).queue q).enabled || ((s.at env.t).queue q).cplParked
    || ((s.at env.t).part ((s.at env.t).qPart q)).resetting) = false := by
  show (!s.ready || !(s.queue q).enabled || (s.queue q).cplParked || (s.part (s.qPart q)).resetting) = false
  rw [hr, he, hk, hs]
  rfl

theorem exec_progressShadow_none (h : reported (s.queue q) = none) : exec (.progressShadow q env) s = .next (s.at env.t) := by
  show execProgressShadow q env s = _
  have h1 : reported ((s.at env.t).queue q) = none := h
  simp only [execProgressShadow, progressShadow_open hr he hk hs, h1, Bool.false_eq_true, if_false]

variable {tag : W32} {op : Byte} {entry index done total : Nat} (h : reported (s.queue q) = some (tag, op, entry, index, done, total))
include h

theorem exec_progressShadow_same (hw : (s.queue q).shown = some (tag, entry, index)) (hd : s.shadowDue q env.t = false) :
    exec (.progressShadow q env) s = .next (s.at env.t) := by
  show execProgressShadow q env s = _
  have h1 : reported ((s.at env.t).queue q) = some (tag, op, entry, index, done, total) := h
  have hc : (!decide (((s.at env.t).queue q).shown ≠ some (tag, entry, index)) && !(s.at env.t).shadowDue q env.t) = true := by
    rw [show ((s.at env.t).queue q).shown = some (tag, entry, index) from hw, show (s.at env.t).shadowDue q env.t = false from hd]
    simp
  simp only [execProgressShadow, progressShadow_open hr he hk hs, h1, Bool.false_eq_true, if_false]
  exact if_pos hc

theorem exec_progressShadow_written {s2 : State} (hc : (s.queue q).shown ≠ some (tag, entry, index) ∨ s.shadowDue q env.t = true)
    (hw : ((s.at env.t).shadowAgain q).vwrite ((s.at env.t).qPart q) ((s.at env.t).queue q).cplAddr
      (shadowBytes ((s.at env.t).shadowAgain q) (tag, op, entry, index, done, total)) = .ok s2) :
    exec (.progressShadow q env) s = .next (s2.updQueue q (fun y => { y with shown := some (tag, entry, index) })) := by
  show execProgressShadow q env s = _
  have h1 : reported ((s.at env.t).queue q) = some (tag, op, entry, index, done, total) := h
  have hn : ¬ (!decide (((s.at env.t).queue q).shown ≠ some (tag, entry, index)) && !(s.at env.t).shadowDue q env.t) = true := by
    rcases hc with hc | hc
    · rw [decide_eq_true (show ((s.at env.t).queue q).shown ≠ some (tag, entry, index) from hc)]
      simp
    · rw [show (s.at env.t).shadowDue q env.t = true from hc]
      simp
  simp only [execProgressShadow, progressShadow_open hr he hk hs, h1, Bool.false_eq_true, if_false]
  refine (if_neg hn).trans ?_
  rw [State.shadowAgain] at hw
  rw [hw]

end

/-- Settles O19: what is written under the timers of before is written under those set again. -/
theorem progressShadowIsWrittenOnAChange : Obligations.ProgressShadowIsWrittenOnAChange := by
  intro q env s s1 hr he hk hs
  refine ⟨exec_progressShadow_none hr he hk hs, fun tag op entry index done total h => ⟨fun hc => ?_, fun s2 hc hw => ?_⟩⟩
  · exact exec_progressShadow_same hr he hk hs h hc.1 (Bool.eq_false_iff.2 (fun hd => hc.2 ((State.shadowDue_iff s q env.t).1 hd)))
  · have hw' : (s1.shadowAgain q).vwrite _ _ _ = .ok _ := State.vwrite_mem (s := s1) (t := s1.shadowAgain q) rfl rfl rfl hw
    refine ⟨_, exec_progressShadow_written hr he hk hs h (hc.imp_right (State.shadowDue_iff s q env.t).2) hw', rfl, ?_, ?_, fun k hn => ?_⟩
    · exact timed_self (s1.timerDel (.progress q)) (.progress q) _
    · exact State.queue_updQueue _ q _
    · exact State.queue_updQueue_ne _ _ hn.symm

end Sys2Proof.Machine
end

section
/-!
BIND_HIERARCHY and BIND_PROGRAM (R72, R73, R271), COPY (R451) and RESIDENCY (R340).
-/

namespace Sys2Proof.Machine
open Sys2Proof

/-! ## Bindings (R72, R73, R271) -/

section
variable {s : State} {q : QueueId} {c : Cmd}

theorem exec_bindHierarchy_empties (h : s.beginning q 0x50 = some c) (ha : rb c.raw 16 8 = 0) :
    exec (.bindHierarchy q) s
      = .next ((s.updPart (s.qPart q) (fun x => { x with hiers := assocDel (rb c.raw 8 2) x.hiers })).finishOk ⟨q, c.seq⟩) := by
  show execBindHierarchy q s = _
  simp only [execBindHierarchy, h, if_pos ha]

theorem exec_bindHierarchy_notEnabled (h : s.beginning q 0x50 = some c) (ha : rb c.raw 16 8 ≠ 0)
    (hk : bit (s.caddyEnt c.caddy (s.qPart q)).kinds (rb c.raw 10 1) = false) :
    exec (.bindHierarchy q) s = .next (s.finish ⟨q, c.seq⟩ stNotBound) := by
  show execBindHierarchy q s = _
  simp only [execBindHierarchy, h, if_neg ha, hk, Bool.not_false, if_true]

theorem exec_bindHierarchy_binds (h : s.beginning q 0x50 = some c) (ha : rb c.raw 16 8 ≠ 0)
    (hk : bit (s.caddyEnt c.caddy (s.qPart q)).kinds (rb c.raw 10 1) = true) :
    exec (.bindHierarchy q) s = .next ((s.updPart (s.qPart q) (fun x =>
      { x with hiers := assocPut (rb c.raw 8 2) ⟨BitVec.ofNat 3 (rb c.raw 10 1), rb c.raw 16 8⟩ x.hiers })).finishOk ⟨q, c.seq⟩) := by
  show execBindHierarchy q s = _
  simp only [execBindHierarchy, h, if_neg ha, hk, Bool.not_true, Bool.false_eq_true, if_false]

variable {env : Env}

theorem exec_bindProgram_empties (h : (s.at env.t).beginning q 0x51 = some c) (ha : rb c.raw 16 8 = 0) :
    exec (.bindProgram q env) s = .next (((s.at env.t).updPart (s.qPart q)
      (fun x => { x with progs := assocDel (rb c.raw 8 1) x.progs })).finishOk ⟨q, c.seq⟩) := by
  show execBindProgram q env s = _
  simp only [execBindProgram, h, if_pos ha]
  rfl

theorem exec_bindProgram_binds {hd : Slot64} {g : Prog} (h : (s.at env.t).beginning q 0x51 = some c) (ha : rb c.raw 16 8 ≠ 0)
    (hv : (s.at env.t).vslot ((s.at env.t).qPart q) (rb c.raw 16 8) = .ok hd) (hg : progOfHeader c.raw hd = some g)
    (ht : g.usesTex = true → s.hasTex = true) (hc : (s.at env.t).coreSet ((s.at env.t).qPart q) c.caddy ≠ [])
    (hcs : 1 < max 1 (rb c.raw 11 1) → (s.at env.t).coreSets ((s.at env.t).qPart q) c.caddy (max 1 (rb c.raw 11 1)) ≠ []) :
    exec (.bindProgram q env) s = .next (((s.at env.t).updPart (s.qPart q)
      (fun x => { x with progs := assocPut (rb c.raw 8 1) g x.progs })).finishOk ⟨q, c.seq⟩) := by
  have tex : ¬ (g.usesTex && !(s.at env.t).hasTex) = true := by
    cases hu : g.usesTex with
    | false => simp
    | true => rw [show (s.at env.t).hasTex = true from ht hu]; simp
  have cores : ¬ (((s.at env.t).coreSet ((s.at env.t).qPart q) c.caddy).isEmpty || (decide (1 < max 1 (rb c.raw 11 1))
      && ((s.at env.t).coreSets ((s.at env.t).qPart q) c.caddy (max 1 (rb c.raw 11 1))).isEmpty)) = true := by
    rw [Bool.or_eq_true, Bool.and_eq_true, decide_eq_true_eq, List.isEmpty_iff, List.isEmpty_iff]
    rintro (hn | ⟨hl, hn⟩)
    · exact hc hn
    · exact hcs hl hn
  show execBindProgram q env s = _
  simp only [execBindProgram, h, if_neg ha, hv, hg, if_neg tex]
  exact if_neg cores

end

theorem State.part_updPart_finishOk (s : State) (p : PartId) (f : Part → Part) (r : CmdRef) : ((s.updPart p f).finishOk r).part p = f (s.part p) :=
  State.part_updPart s p f

/-- Settles O25: each way a binding goes is one equation of its row. -/
theorem bindingsSetAndEmptyTheirSlot : Obligations.BindingsSetAndEmptyTheirSlot := by
  intro q env c s p r s1
  have done : ∀ {u : State}, u.queues = s.queues → (∃ d ∈ (s.queue q).cmds, d.seq = c.seq) → (u.finishOk r).endedDone r := fun hu he =>
    State.endedDone_finishOk _ r (by rw [State.queue_congr hu]; exact he)
  refine ⟨fun h => ?_, fun h ha => ?_, fun hd g h ha hv hg ht hc hcs => ?_⟩
  · have held := State.holds_of_beginning h
    by_cases ha : rb c.raw 16 8 = 0
    · exact ⟨_, exec_bindHierarchy_empties h ha, rfl, fun _ => ⟨done rfl held, congrArg Part.hiers (State.part_updPart_finishOk s p _ r)⟩,
        fun hn => absurd ha hn, fun hn => absurd ha hn⟩
    cases hk : bit (s.caddyEnt c.caddy p).kinds (rb c.raw 10 1) with
    | true =>
      exact ⟨_, exec_bindHierarchy_binds h ha hk, rfl, fun hn => absurd hn ha,
        fun _ _ => ⟨done rfl held, congrArg Part.hiers (State.part_updPart_finishOk s p _ r)⟩, fun _ hn => absurd hn (by decide)⟩
    | false =>
      exact ⟨_, exec_bindHierarchy_notEnabled h ha hk, rfl, fun hn => absurd hn ha, fun _ hn => absurd hn (by decide),
        fun _ _ => ⟨State.endedWith_finish s r _ held, rfl⟩⟩
  · exact ⟨_, exec_bindProgram_empties h ha, done rfl (State.holds_of_beginning h), congrArg Part.progs (State.part_updPart_finishOk s1 p _ r)⟩
  · exact ⟨_, exec_bindProgram_binds h ha hv hg ht hc hcs, done rfl (State.holds_of_beginning h), congrArg Part.progs (State.part_updPart_finishOk s1 p _ r)⟩

/-! ## COPY (R451) -/

/-- A change of a command's record keeps the command in its queue. -/
theorem State.held_updCmd {s : State} {r : CmdRef} (h : ∃ c ∈ (s.queue r.q).cmds, c.seq = r.seq) {f : Cmd → Cmd} (hf : ∀ c, (f c).seq = c.seq) :
    ∃ c ∈ ((s.updCmd r f).queue r.q).cmds, c.seq = r.seq :=
  (State.cmdIs_updCmd s r f (fun _ => True) hf h (fun _ _ _ => trivial)).1

theorem State.queue_updCmd_ne (s : State) {r : CmdRef} (f : Cmd → Cmd) {k : QueueId} (h : k ≠ r.q) : (s.updCmd r f).queue k = s.queue k :=
  State.queue_updQueue_ne s _ h.symm

/-- The command that a row takes up again or begins is one the queue holds. -/
theorem State.runOrBegin_mem {s : State} {q : QueueId} {op : Nat} {c : Cmd} (h : s.runOrBegin q op = some c) : c ∈ (s.queue q).cmds := by
  simp only [State.runOrBegin] at h
  split at h
  next d hd =>
    split at h
    · cases h
      exact List.mem_of_find?_eq_some hd
    · cases h
  next => exact State.beginning_mem h

/-- A copy that has reached its end. -/
theorem State.copyFrom_end (s : State) (p : PartId) (src dst total f : Nat) : s.copyFrom p src dst total f total = ⟨s, total, none⟩ := by
  cases f with
  | zero => rfl
  | succ f => exact if_pos (le_refl total)

/-- A copy within one page of the destination is one chunk. -/
theorem State.copyFrom_page {s s2 : State} {p : PartId} {src dst n f : Nat} {bs : List Byte} (hn : 0 < n) (hd : dst % 4096 + n ≤ 4096)
    (hr : s.vread p src n = .ok bs) (hw : s.vwrite p dst bs = .ok s2) : s.copyFrom p src dst n (f + 1) 0 = ⟨s2, n, none⟩ := by
  have hl : chunkLen dst n 0 = n := by
    unfold chunkLen
    omega
  have hc : s.copyChunk p (src + 0) (dst + 0) n = .ok s2 := by
    simp only [State.copyChunk, Nat.add_zero, hr, hw]
  simp only [State.copyFrom, Nat.not_le.2 hn, if_false, hl, hc, Nat.zero_add]
  exact State.copyFrom_end s2 p src dst n f

/-- A COPY within one page, carried out: the state that has written the bytes notes the write, and the command ends. -/
theorem exec_copy_page {s s2 : State} {q : QueueId} {inFlight : Nat} {env : Env} {c : Cmd} {bs : List Byte}
    (h : (s.at env.t).runOrBegin q 0x30 = some c) (h0 : c.done = 0) (hn : 0 < rb c.raw 24 8) (hd : rb c.raw 16 8 % 4096 + rb c.raw 24 8 ≤ 4096)
    (hr : ((s.at env.t).updCmd ⟨q, c.seq⟩ (fun y => { y with phase := .running })).vread (s.qPart q) (rb c.raw 8 8) (rb c.raw 24 8) = .ok bs)
    (hw : ((s.at env.t).updCmd ⟨q, c.seq⟩ (fun y => { y with phase := .running })).vwrite (s.qPart q) (rb c.raw 16 8) bs = .ok s2) :
    exec (.copy q inFlight env) s = .next (((s2.updCmd ⟨q, c.seq⟩ (fun y => { y with done := rb c.raw 24 8 })).noteWrite (.command ⟨q, c.seq⟩)
      (s.qPart q) [(rb c.raw 16 8 + c.done, rb c.raw 24 8 - c.done)]).finishOk ⟨q, c.seq⟩) := by
  show execCopy q inFlight env s = _
  have hx := State.copyFrom_page (f := rb c.raw 24 8 / 4096 + 1) hn hd hr hw
  rw [← h0] at hx
  simp only [execCopy, h]
  rw [show (s.at env.t).qPart q = s.qPart q from rfl, hx]

/-! ## RESIDENCY (R340) -/

/-- The base of the partition's window (R340). -/
def State.windowBase (s : State) (p : PartId) : Nat := 2 ^ 40 * (s.part p).winBase.force.toNat

/-- The first page of the window that a RESIDENCY names. -/
def State.residentPage (s : State) (p : PartId) (raw : Slot64) : Nat := (rb raw 8 8 - s.windowBase p) / 65536

/-- The byte of the residency map that holds that page's bit. -/
def State.residentByte (s : State) (p : PartId) (raw : Slot64) : Nat := 4096 * (s.part p).mapAddr.force.toNat + s.residentPage p raw / 8

section
variable {s : State} {q : QueueId} {env : Env} {c : Cmd}

theorem exec_residency_outside (h : (s.at env.t).beginning q 0x31 = some c)
    (ho : rb c.raw 8 8 < (s.at env.t).windowBase ((s.at env.t).qPart q)
      ∨ (s.at env.t).windowBase ((s.at env.t).qPart q) + 2 ^ 40 < rb c.raw 8 8 + 65536 * rb c.raw 16 4) :
    exec (.residency q env) s = .next ((s.at env.t).finish ⟨q, c.seq⟩ stBadField) := by
  show execResidency q env s = _
  simp only [execResidency, h]
  exact if_pos (by simpa [State.windowBase] using ho)

theorem exec_residency_inside {s2 : State} {bs : List Byte} (h : (s.at env.t).beginning q 0x31 = some c)
    (hb : (s.at env.t).windowBase ((s.at env.t).qPart q) ≤ rb c.raw 8 8)
    (he : rb c.raw 8 8 + 65536 * rb c.raw 16 4 ≤ (s.at env.t).windowBase ((s.at env.t).qPart q) + 2 ^ 40)
    (hr : (s.at env.t).vread ((s.at env.t).qPart q) ((s.at env.t).residentByte ((s.at env.t).qPart q) c.raw)
      (((s.at env.t).residentPage ((s.at env.t).qPart q) c.raw + rb c.raw 16 4 + 7) / 8
        - (s.at env.t).residentPage ((s.at env.t).qPart q) c.raw / 8) = .ok bs)
    (hw : (s.at env.t).vwrite ((s.at env.t).qPart q) ((s.at env.t).residentByte ((s.at env.t).qPart q) c.raw)
      (markPages ((s.at env.t).residentPage ((s.at env.t).qPart q) c.raw / 8) ((s.at env.t).residentPage ((s.at env.t).qPart q) c.raw)
        ((s.at env.t).residentPage ((s.at env.t).qPart q) c.raw + rb c.raw 16 4) (rb c.raw 20 1 == 0) bs) = .ok s2) :
    exec (.residency q env) s = .next ((s2.noteWrite (.command ⟨q, c.seq⟩) (s.qPart q)
      [((s.at env.t).residentByte ((s.at env.t).qPart q) c.raw, bs.length)]).finishOk ⟨q, c.seq⟩) := by
  have hin : ¬ (rb c.raw 8 8 < (s.at env.t).windowBase ((s.at env.t).qPart q)
      || decide ((s.at env.t).windowBase ((s.at env.t).qPart q) + 2 ^ 40 < rb c.raw 8 8 + 65536 * rb c.raw 16 4)) = true := by
    simpa using ⟨hb, he⟩
  show execResidency q env s = _
  simp only [execResidency, h]
  refine (if_neg hin).trans ?_
  simp only [State.residentByte, State.residentPage, State.windowBase] at hr hw ⊢
  rw [hr]
  dsimp only
  rw [hw]
  rfl

end

/-- What the end of a command that has written the bytes of `s2` leaves. -/
theorem State.noteWrite_finishOk_ends {s : State} {q : QueueId} {c : Cmd} (p : PartId) (l : List (Nat × Nat))
    (h : ∃ d ∈ (s.queue q).cmds, d.seq = c.seq) :
    let t := (s.noteWrite (.command ⟨q, c.seq⟩) p l).finishOk ⟨q, c.seq⟩
    t.mem = s.mem ∧ t.endedDone ⟨q, c.seq⟩ ∧ ∀ k, k ≠ q → t.queue k = s.queue k := by
  have noted := State.held_updCmd (r := ⟨q, c.seq⟩) h (f := fun x => { x with writes := x.writes + 1 }) (fun _ => rfl)
  refine ⟨rfl, State.endedDone_finishOk _ _ noted, fun k hk => ?_⟩
  exact (State.queue_updCmd_ne _ _ hk).trans (State.queue_updCmd_ne s _ hk)

/-- Settles O31: both commands end behind the note of the bytes they have written. -/
theorem copyAndResidencyWriteTheirBytes : Obligations.CopyAndResidencyWriteTheirBytes := by
  intro q env c s s1 p r
  refine ⟨?_, fun h => ⟨fun ho => ?_, fun bs s2 hb he hr hw => ?_⟩⟩
  · rintro n bs s2 h h0 rfl hn hd hr hw
    have begun := State.held_updCmd (s := s1) (r := r) ⟨c, State.runOrBegin_mem h, rfl⟩ (f := fun y => { y with phase := .running }) (fun _ => rfl)
    have hr' := (State.vread_congr (s := s1) (t := s1.updCmd r (fun y => { y with phase := .running })) rfl rfl rfl p _ _).trans hr
    have hw' := State.vwrite_mem (s := s1) (t := s1.updCmd r (fun y => { y with phase := .running })) rfl rfl rfl hw
    obtain ⟨hm, hx, hk⟩ := State.noteWrite_finishOk_ends p [(rb c.raw 16 8 + c.done, rb c.raw 24 8 - c.done)]
      (State.held_updCmd (s := { s1.updCmd r (fun y => { y with phase := .running }) with mem := s2.mem }) begun
        (f := fun y => { y with done := rb c.raw 24 8 }) (fun _ => rfl))
    refine ⟨_, exec_copy_page h h0 hn hd hr' hw', hm, hx, fun k hn => (hk k hn).trans ?_⟩
    exact (State.queue_updCmd_ne _ _ hn).trans (State.queue_updCmd_ne s1 _ hn)
  · exact ⟨_, exec_residency_outside h ho, State.endedWith_finish s1 r _ (State.holds_of_beginning h), rfl⟩
  · have e := State.vwrite_eq hw
    have hq : s2.queues = s.queues := by rw [e]; rfl
    obtain ⟨hm, hx, hk⟩ := State.noteWrite_finishOk_ends (s := s2) (q := q) (c := c) p
      [(4096 * (s.part p).mapAddr.force.toNat + (rb c.raw 8 8 - 2 ^ 40 * (s.part p).winBase.force.toNat) / 65536 / 8, bs.length)]
      (by rw [State.queue_congr hq]; exact State.holds_of_beginning h)
    exact ⟨_, exec_residency_inside h hb he hr hw, hm, hx, fun k hn => (hk k hn).trans (State.queue_congr hq k)⟩

end Sys2Proof.Machine
end

section
/-!
SET_DEADLINE (R73, R342, R346), and how PROBE and PROBE_REDUCE begin (R63, R72, R81).
-/

namespace Sys2Proof.Machine
open Sys2Proof

/-! ## What a deadline's end leaves -/

theorem State.deadlineIdle_deadline (s : State) (p : PartId) : ((s.deadlineIdle p).part p).deadline = ⟨dlIdle, none, false, false, false⟩ :=
  congrArg Part.deadline (State.part_updPart ((s.timerDel (.preempt p)).timerDel (.decision p)) p _)

theorem State.dropSummary_deadline (s : State) (p : PartId) : ((s.dropSummary p).part p).deadline = (s.part p).deadline := by
  unfold State.dropSummary
  split
  · rfl
  · rw [State.part_updPart]
    rfl

/-! ## SET_DEADLINE -/

/-- The deadline disarmed, before its command ends. -/
def State.disarmed (s : State) (p : PartId) : State := ((s.keepLate p).deadlineIdle p).doIf (!s.presenting p) (·.dropSummary p)

/-- The deadline armed with its decision time, before its pre-emption time is set. -/
def State.armedAt (s : State) (p : PartId) (raw : Slot64) : State :=
  ((((s.keepLate p).timerDel (.preempt p)).timerDel (.decision p)).updPart p
    (fun x => { x with deadline := ⟨dlArmed, none, true, bit raw 193, bit raw 192⟩ })).doIf (bit raw 192)
      (·.timerAdd (.decision p) (rb raw 8 8 - rb raw 20 4))

theorem State.disarmed_queues (s : State) (p : PartId) : (s.disarmed p).queues = s.queues :=
  ((State.doIf_queues _ _ _ (fun x => Comp.same_queues (State.dropSummary_frame x p _ (by decide)))).trans
    (Comp.same_queues (State.deadlineIdle_frame _ p _ (by decide)))).trans (Comp.same_queues (State.keepLate_frame s p _ (by decide)))

theorem State.disarmed_deadline (s : State) (p : PartId) : ((s.disarmed p).part p).deadline.state = dlIdle := by
  have h := congrArg Deadline.state (State.deadlineIdle_deadline (s.keepLate p) p)
  unfold State.disarmed State.doIf
  split
  · rw [State.dropSummary_deadline]
    exact h
  · exact h

theorem State.armedAt_queues (s : State) (p : PartId) (raw : Slot64) : (s.armedAt p raw).queues = s.queues := by
  refine (State.doIf_queues _ _ (·.timerAdd (.decision p) _) (fun _ => rfl)).trans ?_
  rw [State.updPart_queues, State.timerDel_queues, State.timerDel_queues]
  exact Comp.same_queues (State.keepLate_frame s p _ (by decide))

theorem State.armedAt_deadline (s : State) (p : PartId) (raw : Slot64) :
    ((s.armedAt p raw).part p).deadline = ⟨dlArmed, none, true, bit raw 193, bit raw 192⟩ :=
  congrArg Part.deadline ((State.doIf_part _ _ (·.timerAdd (.decision p) _) p (fun _ => rfl)).trans
    (State.part_updPart (((s.keepLate p).timerDel (.preempt p)).timerDel (.decision p)) p _))

theorem State.armedAt_timed {raw : Slot64} (s : State) (p : PartId) (h : bit raw 192 = true) :
    (s.armedAt p raw).timed (.decision p) (rb raw 8 8 - rb raw 20 4) := by
  rw [State.armedAt, State.doIf, if_pos h]
  exact timed_self _ _ _

theorem State.arm_eq (s : State) (env : Env) (p : PartId) (raw : Slot64) :
    s.arm env p raw = if rb raw 8 8 - rb raw 16 4 < s.pins.now then (s.armedAt p raw).enterFiring env p
      else (s.armedAt p raw).timerAdd (.preempt p) (rb raw 8 8 - rb raw 16 4) := rfl

section
variable {s : State} {q : QueueId} {t : Nat} {c : Cmd} (h : (s.at t).beginning q 0x52 = some c)
include h

theorem exec_setDeadline_disarm (hd : rb c.raw 8 8 = 0) :
    exec (.setDeadline q t) s
      = .next (if (s.part (s.qPart q)).reproj.isSome then s.at t else ((s.at t).disarmed (s.qPart q)).finishOk ⟨q, c.seq⟩) := by
  show execSetDeadline q t s = _
  simp only [execSetDeadline, h, if_pos hd]
  rfl

theorem exec_setDeadline_quota (hd : rb c.raw 8 8 ≠ 0) (hb : bit c.raw 192 = true) (hs : (s.at t).shareTus ((s.at t).qPart q) < 64) :
    exec (.setDeadline q t) s = .next ((s.at t).finish ⟨q, c.seq⟩ stQuota) := by
  show execSetDeadline q t s = _
  simp only [execSetDeadline, h, if_neg hd, hb, hs, decide_true, Bool.and_self, if_true]

theorem exec_setDeadline_arm (hd : rb c.raw 8 8 ≠ 0) (hs : ¬ (bit c.raw 192 = true ∧ (s.at t).shareTus ((s.at t).qPart q) < 64)) :
    exec (.setDeadline q t) s = .next (((s.at t).arm (s.at t).env0 (s.qPart q) c.raw).finishOk ⟨q, c.seq⟩) := by
  have hn : ¬ (bit c.raw 192 && decide ((s.at t).shareTus ((s.at t).qPart q) < 64)) = true := by
    rw [Bool.and_eq_true, decide_eq_true_eq]
    exact hs
  show execSetDeadline q t s = _
  simp only [execSetDeadline, h, if_neg hd, if_neg hn]
  rfl

end

/-- Settles O26: `armedAt` is the state that FIRING begins from, or that waits for its pre-emption time. -/
theorem setDeadlineArmsOrDisarms : Obligations.SetDeadlineArmsOrDisarms := by
  intro q t c s s1 p r d armed h
  have held : ∀ {u : State}, u.queues = s.queues → ∃ x ∈ (u.queue r.q).cmds, x.seq = r.seq := fun hu => by
    rw [State.queue_congr hu]
    exact State.holds_of_beginning h
  refine ⟨fun hd hr => ?_, fun hd hr => ?_, fun hd hb hs => ?_, fun hd hs => ⟨fun hp => ?_, fun hp => ?_⟩⟩
  · refine ⟨(s1.disarmed p).finishOk r, ?_, State.endedDone_finishOk _ r (held (State.disarmed_queues s1 p)), State.disarmed_deadline s1 p⟩
    rw [exec_setDeadline_disarm h hd, if_neg (by rw [hr]; decide)]
  · rw [exec_setDeadline_disarm h hd, if_pos (Option.isSome_iff_ne_none.2 hr)]
  · exact ⟨_, exec_setDeadline_quota h hd hb hs, State.endedWith_finish s1 r _ (State.holds_of_beginning h), rfl⟩
  · refine ⟨((s1.armedAt p c.raw).timerAdd (.preempt p) (d - rb c.raw 16 4)).finishOk r, ?_,
      State.endedDone_finishOk _ r (held (State.armedAt_queues s1 p c.raw)), State.armedAt_deadline s1 p c.raw, ?_, fun hb => ?_⟩
    · rw [exec_setDeadline_arm h hd hs, State.arm_eq, if_neg (Nat.not_lt.2 hp)]
    · exact timed_self (s1.armedAt p c.raw) (.preempt p) _
    · exact (timed_timerAdd (s1.armedAt p c.raw) (.preempt p) (.decision p) _ _).2 (.inr (State.armedAt_timed s1 p hb))
  · refine ⟨s1.armedAt p c.raw, State.armedAt_deadline s1 p c.raw, State.armedAt_timed s1 p, ?_⟩
    rw [exec_setDeadline_arm h hd hs, State.arm_eq, if_pos hp]

/-! ## The Retriever without ordered flows and deliveries -/

theorem State.delivLast_none {s : State} (h : s.ret.delivs = []) : s.delivLast = s := by
  rw [State.delivLast, h]
  rfl

theorem State.releaseRuns_noFlow {s : State} (env : Env) (n : Nat) (h : s.ret.flows = []) : s.releaseRuns env n = s := by
  cases n with
  | zero => rfl
  | succ n =>
    have same : ({ s.ret with flows := s.ret.flows.filter (fun f => decide (f.rel < f.next)) } : Ret) = s.ret := by rw [h]; rw [List.filter_nil, ← h]
    simp only [State.releaseRuns, h, List.findSome?_nil]
    rw [h] at same
    rw [same]

theorem State.releaseAll_noFlow {s : State} (env : Env) (hf : s.ret.flows = []) (hd : s.ret.delivs = []) : s.releaseAll env = s := by
  rw [State.releaseAll, State.releaseRuns_noFlow env _ hf]
  exact State.delivLast_none hd

/-- With no ordered flow a command that takes in no more items releases nothing. -/
theorem State.skipRest_noFlow {s : State} (env : Env) (p : PartId) (r : CmdRef) (hf : s.ret.flows = []) (hd : s.ret.delivs = []) :
    s.skipRest env p r = s ∨ s.skipRest env p r = s.updCmd r (fun x => { x with last := x.next }) := by
  have hi : ∀ c flow, s.skipItems p c flow = s := by
    intro c flow
    unfold State.skipItems
    split
    · rw [hf, List.map_nil, ← hf]
    · rfl
  unfold State.skipRest
  split
  · split
    · refine .inr ?_
      rw [hi]
      exact State.releaseAll_noFlow env hf hd
    · exact .inl rfl
  · exact .inl rfl

/-! ## PROBE and PROBE_REDUCE begin (R72, R125) -/

/-- A probe command that names no fitting binding ends. -/
def State.probeUnbound (s : State) (env : Env) (q : QueueId) (c : Cmd) : State :=
  ((s.skipRest env (s.qPart q) ⟨q, c.seq⟩).finish ⟨q, c.seq⟩ stNotBound).delivLast

/-- A probe command that begins keeps the descriptors it has read. -/
def State.probeBegun (s : State) (q : QueueId) (c : Cmd) (l : List (Nat × Desc)) : State :=
  (s.updCmd ⟨q, c.seq⟩ (fun c => { c with descs := l })).begin ⟨q, c.seq⟩

theorem State.probeUnbound_ends {s : State} (env : Env) {q : QueueId} {c : Cmd} (h : ∃ d ∈ (s.queue q).cmds, d.seq = c.seq)
    (hf : s.ret.flows = []) (hd : s.ret.delivs = []) :
    (s.probeUnbound env q c).endedWith ⟨q, c.seq⟩ stNotBound ∧ (s.probeUnbound env q c).mem = s.mem := by
  unfold State.probeUnbound
  rcases State.skipRest_noFlow env (s.qPart q) ⟨q, c.seq⟩ hf hd with e | e <;> rw [e]
  · rw [State.delivLast_none (s := s.finish _ _) hd]
    exact ⟨State.endedWith_finish s _ _ h, rfl⟩
  · rw [State.delivLast_none (s := (s.updCmd _ _).finish _ _) hd]
    exact ⟨State.endedWith_finish _ _ _ (State.held_updCmd (r := ⟨q, c.seq⟩) h (fun _ => rfl)), rfl⟩

theorem State.probeBegun_is {s : State} {q : QueueId} {c : Cmd} (l : List (Nat × Desc)) (h : ∃ d ∈ (s.queue q).cmds, d.seq = c.seq) :
    (s.probeBegun q c l).cmdIs ⟨q, c.seq⟩ (fun x => x.phase = .running ∧ x.descs = l) :=
  (State.cmdIs_updCmd s ⟨q, c.seq⟩ (fun c => { c with descs := l }) (fun x => x.descs = l) (fun _ => rfl) h (fun _ _ _ => rfl)).updCmd _
    (fun _ => rfl) (fun _ hx => ⟨rfl, hx⟩)

section
variable {s : State} {env : Env} {q : QueueId} {op : Nat} {c : Cmd} (h : (s.at env.t).beginning q op = some c)
include h

theorem beginProbe_noHier (hb : boundTo c.hiers (rb c.raw 34 2) [1, 3] = none) : s.beginProbe env q op = (s.at env.t).probeUnbound env q c := by
  simp only [State.beginProbe, h, hb]
  rfl

theorem beginProbe_noValues {hr : HierBind} (ho : op ≠ 2) (hb : boundTo c.hiers (rb c.raw 34 2) [1, 3] = some hr)
    (hv : boundTo c.hiers (rb c.raw 36 2) [4] = none) : s.beginProbe env q op = (s.at env.t).probeUnbound env q c := by
  simp only [State.beginProbe, h, hb, hv, if_neg ho]
  rfl

theorem beginProbe_reads {hr : HierBind} {d : Desc} (ho : op = 2) (hb : boundTo c.hiers (rb c.raw 34 2) [1, 3] = some hr)
    (hd : (s.at env.t).vdesc ((s.at env.t).qPart q) hr.addr = .ok d) : s.beginProbe env q op = (s.at env.t).probeBegun q c [(0, d)] := by
  simp only [State.beginProbe, h, hb, if_pos ho, hd]
  rfl

theorem beginProbe_readsBoth {hr v : HierBind} {d e : Desc} (ho : op ≠ 2) (hb : boundTo c.hiers (rb c.raw 34 2) [1, 3] = some hr)
    (hv : boundTo c.hiers (rb c.raw 36 2) [4] = some v) (hd : (s.at env.t).vdesc ((s.at env.t).qPart q) hr.addr = .ok d)
    (he : (s.at env.t).vdesc ((s.at env.t).qPart q) v.addr = .ok e) : s.beginProbe env q op = (s.at env.t).probeBegun q c [(0, d), (1, e)] := by
  simp only [State.beginProbe, h, hb, hv, if_neg ho, hd, he]
  rfl

end

/-- Settles O27: a probe command ends unbound or begins with what it has read. -/
theorem probesBeginUnderTheirBindings : Obligations.ProbesBeginUnderTheirBindings := by
  intro q env c s s1 r unbound begun
  have un : ∀ {i : Instr} {op : Nat}, s1.beginning q op = some c → exec i s = .next (s1.probeUnbound env q c) → unbound i := fun h hx =>
    ⟨_, hx, rfl, fun _ hf hd => State.probeUnbound_ends env (State.holds_of_beginning h) hf hd⟩
  have be : ∀ {i : Instr} {op : Nat} {l : List (Nat × Desc)}, s1.beginning q op = some c → exec i s = .next (s1.probeBegun q c l) → begun i l :=
    fun h hx => ⟨_, hx, State.probeBegun_is _ (State.holds_of_beginning h), _, rfl⟩
  refine ⟨fun h => ⟨fun hb => ?_, fun hr d hb hd => ?_⟩, fun h => ⟨fun hb => ?_, fun hr hb => ⟨fun hv => ?_, fun v d e hv hd he => ?_⟩⟩⟩
  · exact un h (congrArg Host.Outcome.next (beginProbe_noHier h hb))
  · exact be h (congrArg Host.Outcome.next (beginProbe_reads h rfl hb hd))
  · exact un h (congrArg Host.Outcome.next (beginProbe_noHier h hb))
  · exact un h (congrArg Host.Outcome.next (beginProbe_noValues h (by decide) hb hv))
  · exact be h (congrArg Host.Outcome.next (beginProbe_readsBoth h (by decide) hb hv hd he))

end Sys2Proof.Machine
end

section
/-!
FWD_SESSION OPEN and DRAIN (R67, R379, R382, R392), and OWNER_PUBLISH (R66, R361, R365).
-/

namespace Sys2Proof.Machine
open Sys2Proof

/-! ## A session that enters a state (R379) -/

/-- The FWD_SESSION commands that wait depend on their part of the state only. -/
theorem State.fwdCmds_congr {s t : State} (h : blank 0xFFFBFFFFFFFF#48 t = blank 0xFFFBFFFFFFFF#48 s) : t.fwd.cmds = s.fwd.cmds := by
  have h' := congrArg (fun x : State => x.fwd.cmds) h
  exact h'

theorem State.timerAdd_sess (s : State) (tm : Timer) (due : Nat) (l : LinkId) : (s.timerAdd tm due).sess l = s.sess l := by
  simp only [State.sess, State.timerAdd_fwd]

theorem State.timerDel_sess (s : State) (tm : Timer) (l : LinkId) : (s.timerDel tm).sess l = s.sess l := by
  simp only [State.sess, State.timerDel_fwd]

theorem State.irqBlock_sess (s : State) (v : BitVec 4) (l : LinkId) : (s.irqBlock v).sess l = s.sess l := by
  simp only [State.sess, State.irqBlock_fwd]

theorem State.sendState_sess (s : State) (l k : LinkId) : (s.sendState l).sess k = s.sess k :=
  State.sess_congr (Comp.same_sess (State.sendState_frame s l _ (by decide))) k

theorem State.enterSess_sess (s : State) (l : LinkId) {st : BitVec 3} (h : st ≠ ssCredit) :
    (s.enterSess l st).sess l = { s.sess l with state := st, tries := 0 } := by
  have hc : decide (st = ssCredit) = false := decide_eq_false h
  simp only [State.enterSess, hc, State.doIf, Bool.false_eq_true, if_false]
  rw [State.timerAdd_sess, State.timerDel_sess, State.sendState_sess, State.sess_updSess]

theorem State.quietLink_sess (s : State) (l k : LinkId) : (s.quietLink l).sess k = s.sess k := by
  simp only [State.quietLink, State.timerDel_sess]

theorem State.dropWaiting_cmds (s : State) (l : LinkId) : (s.dropWaiting l).fwd.cmds = s.fwd.cmds := rfl

theorem State.quietLink_cmds (s : State) (l : LinkId) : (s.quietLink l).fwd.cmds = s.fwd.cmds := by
  simp only [State.quietLink, State.timerDel_fwd]

theorem State.updSess_cmds (s : State) (l : LinkId) (f : Session → Session) : (s.updSess l f).fwd.cmds = s.fwd.cmds := rfl

theorem State.openSess_sess (s : State) (l : LinkId) (peer : Option ChipId) :
    ((s.openSess l peer).sess l).state = ssListen ∧ ((s.openSess l peer).sess l).auto = (s.sess l).auto
      ∧ ((s.openSess l peer).sess l).expected = peer := by
  rw [State.openSess, State.listen, State.enterSess_sess _ l (by decide), State.dropWaiting_sess, State.sess_updSess, State.quietLink_sess,
    State.sess_updSess]
  exact ⟨rfl, rfl, rfl⟩

theorem State.openSess_cmds (s : State) (l : LinkId) (peer : Option ChipId) : (s.openSess l peer).fwd.cmds = s.fwd.cmds := by
  rw [State.openSess, State.listen, State.fwdCmds_congr (State.enterSess_frame _ l ssListen _ (by decide)), State.dropWaiting_cmds,
    State.updSess_cmds, State.quietLink_cmds, State.updSess_cmds]

theorem State.openSess_queues (s : State) (l : LinkId) (peer : Option ChipId) : (s.openSess l peer).queues = s.queues :=
  Comp.same_queues (State.openSess_frame s l peer _ (by decide))

/-! ## A session that drains (R379, R392) -/

/-- DRAIN_DONE has gone out on a link. -/
def State.sentDone (s : State) (l : LinkId) : State :=
  (s.emit l (s.hdr 0 0 (s.sess l).peer) .drainDone).updSess l (fun x => { x with doneSent := true })

theorem State.sentDone_sess (s : State) (l : LinkId) : (s.sentDone l).sess l = { s.sess l with doneSent := true } := by
  rw [State.sentDone, State.sess_updSess, State.sess_congr (Comp.same_sess (State.emit_frame s l _ _ _ (by decide)))]

theorem State.drainCheck_eq (s : State) (l : LinkId) : s.drainCheck l
    = if (s.sess l).state ≠ ssDrain then s
      else
        let s1 := if !(s.sess l).doneSent && s.drained l then s.sentDone l else s
        if (s1.sess l).doneSent && (s1.sess l).doneSeen then s1.endDrain l rsDrained else s1 := rfl

/-- A link whose peer has not sent its DRAIN_DONE stays as it is, or sends its own. -/
theorem State.drainCheck_waits {s : State} {l : LinkId} (h : (s.sess l).doneSeen = false) : s.drainCheck l = s ∨ s.drainCheck l = s.sentDone l := by
  have hs : ((s.sentDone l).sess l).doneSeen = false := by rw [State.sentDone_sess]; exact h
  rw [State.drainCheck_eq]
  split
  · exact .inl rfl
  · dsimp only
    split
    · rw [hs, Bool.and_false]
      exact .inr rfl
    · rw [h, Bool.and_false]
      exact .inl rfl

theorem State.finishOk_sess (s : State) (r : CmdRef) (l : LinkId) : (s.finishOk r).sess l = s.sess l := rfl

theorem State.awaitSess_sess (s : State) (l : LinkId) (drain : Bool) (r : CmdRef) (k : LinkId) : (s.awaitSess l drain r).sess k = s.sess k := rfl

/-- The session has entered DRAIN, before it is looked at. -/
def State.draining (s : State) (l : LinkId) : State := (((s.timerDel (.keepTx l)).timerDel (.keepRx l)).enterSess l ssDrain).irqBlock 4

theorem State.draining_sess (s : State) (l : LinkId) : (s.draining l).sess l = { s.sess l with state := ssDrain, tries := 0 } := by
  rw [State.draining, State.irqBlock_sess, State.enterSess_sess _ l (by decide), State.timerDel_sess, State.timerDel_sess]

theorem State.draining_cmds (s : State) (l : LinkId) : (s.draining l).fwd.cmds = s.fwd.cmds := by
  rw [State.draining, State.irqBlock_fwd, State.fwdCmds_congr (State.enterSess_frame _ l ssDrain _ (by decide)), State.timerDel_fwd, State.timerDel_fwd]

theorem State.draining_queues (s : State) (l : LinkId) : (s.draining l).queues = s.queues := by
  have h := Comp.same_queues (State.enterSess_frame ((s.timerDel (.keepTx l)).timerDel (.keepRx l)) l ssDrain _ (by decide))
  rw [State.draining, State.irqBlock_queues]
  exact h

theorem State.sentDone_cmds (s : State) (l : LinkId) : (s.sentDone l).fwd.cmds = s.fwd.cmds := by
  rw [State.sentDone, State.updSess_cmds, State.fwdCmds_congr (State.emit_frame s l _ _ _ (by decide))]

theorem State.sentDone_queues (s : State) (l : LinkId) : (s.sentDone l).queues = s.queues := by
  rw [State.sentDone, State.updSess_queues]
  exact Comp.same_queues (State.emit_frame s l _ _ _ (by decide))

/-- A session enters DRAIN from a state in which the peer has not finished. -/
theorem State.startDrain_drains {s : State} {l : LinkId} (h : (s.sess l).doneSeen = false) :
    ((s.startDrain l).sess l).state = ssDrain ∧ ((s.startDrain l).sess l).auto = (s.sess l).auto ∧ (s.startDrain l).fwd.cmds = s.fwd.cmds
      ∧ (s.startDrain l).queues = s.queues := by
  have hd : ((s.draining l).sess l).doneSeen = false := by rw [State.draining_sess]; exact h
  have he : s.startDrain l = (s.draining l).drainCheck l := rfl
  rcases State.drainCheck_waits hd with e | e <;> rw [he, e]
  · rw [State.draining_sess]
    exact ⟨rfl, rfl, State.draining_cmds s l, State.draining_queues s l⟩
  · rw [State.sentDone_sess, State.draining_sess]
    exact ⟨rfl, rfl, (State.sentDone_cmds _ l).trans (State.draining_cmds s l), (State.sentDone_queues _ l).trans (State.draining_queues s l)⟩

/-! ## FWD_SESSION -/

/-- A FWD_SESSION command has put its link under the rule of R382, or taken it out, and waits. -/
def State.awaits (s : State) (l : LinkId) (drain : Bool) (r : CmdRef) : State := (s.updSess l (fun x => { x with auto := !drain })).awaitSess l drain r

theorem State.awaits_sess (s : State) (l : LinkId) (drain : Bool) (r : CmdRef) : (s.awaits l drain r).sess l = { s.sess l with auto := !drain } := by
  rw [State.awaits, State.awaitSess_sess, State.sess_updSess]

theorem State.awaits_mem (s : State) (l : LinkId) (drain : Bool) (r : CmdRef) : (l, drain, r) ∈ (s.awaits l drain r).fwd.cmds :=
  List.mem_append_right _ (List.mem_singleton_self _)

theorem State.awaits_runs {s : State} (l : LinkId) (drain : Bool) {r : CmdRef} (h : ∃ c ∈ (s.queue r.q).cmds, c.seq = r.seq) :
    (s.awaits l drain r).isRunning r :=
  State.isRunning_begin (s.updSess l (fun x => { x with auto := !drain })) r h

section
variable {s : State} {q : QueueId} {time : Nat} {c : Cmd} (h : (s.at time).beginning q 0x32 = some c)
include h

theorem exec_fwdSessionOpen_linkDown (ho : rb c.raw 9 1 = 0) (hl : bit s.pins.linkUp (sessLink c.raw).val = false) :
    exec (.fwdSessionOpen q time) s
      = .next (((s.at time).updSess (sessLink c.raw) (fun x => { x with auto := true })).finish ⟨q, c.seq⟩ stLinkDown) := by
  show execFwdSessionOpen q time s = _
  have hl' : (!bit (s.at time).pins.linkUp (sessLink c.raw).val) = true := by rw [show (s.at time).pins.linkUp = s.pins.linkUp from rfl, hl]; rfl
  simp only [execFwdSessionOpen, h, ho, ne_eq, not_true_eq_false, if_false]
  exact if_pos hl'

theorem exec_fwdSessionOpen_linkUp (ho : rb c.raw 9 1 = 0) (hl : bit s.pins.linkUp (sessLink c.raw).val = true) :
    exec (.fwdSessionOpen q time) s = .next (let l := sessLink c.raw
      let r : CmdRef := ⟨q, c.seq⟩
      if (s.sess l).state = ssUp then ((s.at time).updSess l (fun x => { x with auto := true })).finishOk r
      else if (s.sess l).state = ssDown then ((s.at time).awaits l false r).openSess l (some (BitVec.ofNat 20 (rb c.raw 12 4)))
      else (s.at time).awaits l false r) := by
  show execFwdSessionOpen q time s = _
  have hl' : ¬ (!bit (s.at time).pins.linkUp (sessLink c.raw).val) = true := by rw [show (s.at time).pins.linkUp = s.pins.linkUp from rfl, hl]; simp
  simp only [execFwdSessionOpen, h, ho, ne_eq, not_true_eq_false, if_false]
  refine (if_neg hl').trans ?_
  rw [State.sess_updSess]
  simp only [apply_ite Host.Outcome.next]
  rfl

theorem exec_fwdSessionDrain (ho : rb c.raw 9 1 = 1) :
    exec (.fwdSessionDrain q time) s = .next (let l := sessLink c.raw
      let r : CmdRef := ⟨q, c.seq⟩
      if (s.sess l).state = ssDown then ((s.at time).updSess l (fun x => { x with auto := false })).finishOk r
      else if (s.sess l).state = ssUp then ((s.at time).awaits l true r).startDrain l
      else (s.at time).awaits l true r) := by
  show execFwdSessionDrain q time s = _
  simp only [execFwdSessionDrain, h, ho, ne_eq, not_true_eq_false, if_false]
  rw [State.sess_updSess]
  simp only [apply_ite Host.Outcome.next]
  rfl

end

/-! ## OWNER_PUBLISH (R361, R365) -/

/-- The publication of a table staged, before its messages go round the ring. -/
def State.tableStaged (s : State) (r : CmdRef) (epoch : W32) (n : Nat) (ws : List W64) : State :=
  let s1 := s.updCmd r (fun c => { c with phase := .running, done := n })
  { s1 with fwd := { s1.fwd with staging := some ⟨epoch, n, indexed 0 ws⟩, publish := some ⟨r, epoch, n, false⟩ } }

/-- A table's messages start round the ring. -/
def State.sendTable (s : State) (epoch : W32) (n : Nat) (ws : List W64) : State :=
  (tableParts (n + 1) 0 ws).foldl (fun s x => s.startRing (BitVec.ofNat 16 x.1) (.ownerEntries epoch (BitVec.ofNat 32 n) x.2)) s

theorem State.startRing_kept (s : State) (sub : W16) (b : MsgBody) :
    (s.startRing sub b).fwd.staging = s.fwd.staging ∧ (s.startRing sub b).fwd.publish = s.fwd.publish ∧ (s.startRing sub b).queues = s.queues :=
  ⟨congrArg OwnerView.staging (State.startRing_ownerView s sub b), congrArg RingView.publish (State.startRing_ringView s sub b),
    Comp.same_queues (State.startRing_frame s sub b _ (by decide))⟩

theorem State.sendTable_kept (s : State) (epoch : W32) (n : Nat) (ws : List W64) :
    (s.sendTable epoch n ws).fwd.staging = s.fwd.staging ∧ (s.sendTable epoch n ws).fwd.publish = s.fwd.publish
      ∧ (s.sendTable epoch n ws).queues = s.queues := by
  unfold State.sendTable
  induction tableParts (n + 1) 0 ws generalizing s with
  | nil => exact ⟨rfl, rfl, rfl⟩
  | cons x xs ih =>
    obtain ⟨h1, h2, h3⟩ := State.startRing_kept s (BitVec.ofNat 16 x.1) (.ownerEntries epoch (BitVec.ofNat 32 n) x.2)
    obtain ⟨i1, i2, i3⟩ := ih (s.startRing (BitVec.ofNat 16 x.1) (.ownerEntries epoch (BitVec.ofNat 32 n) x.2))
    exact ⟨i1.trans h1, i2.trans h2, i3.trans h3⟩

theorem exec_ownerPublish {s : State} {q : QueueId} {env : Env} {c : Cmd} {bs : List Byte} (h : (s.at env.t).beginning q 0x33 = some c)
    (hp : s.fwd.publish = none) (hr : (s.at env.t).vread ((s.at env.t).qPart q) (rb c.raw 8 8) (8 * rb c.raw 16 4) = .ok bs) :
    exec (.ownerPublish q env) s = .next (let ws := words64 (rb c.raw 16 4) bs
      let epoch := BitVec.ofNat 32 (rb c.raw 20 4)
      if ws.any ownBad then (s.at env.t).finish ⟨q, c.seq⟩ stBadField
      else ((s.at env.t).tableStaged ⟨q, c.seq⟩ epoch (rb c.raw 16 4) ws).sendTable epoch (rb c.raw 16 4) ws) := by
  show execOwnerPublish q env s = _
  have hp' : ¬ (s.at env.t).fwd.publish.isSome = true := by rw [show (s.at env.t).fwd.publish = none from hp]; simp
  simp only [execOwnerPublish, h, if_neg hp', hr, apply_ite Host.Outcome.next]
  rfl

/-- Settles O32, by what each command meets at its session, and by the rules of the table. -/
theorem sessionCommandsMoveTheirSession : Obligations.SessionCommandsMoveTheirSession := by
  intro q c s r l
  refine ⟨fun time h ho => ⟨fun hl => ?_, fun hl hs => ?_, fun hl hs => ?_, fun hl hs hd => ?_⟩,
    fun time h ho => ⟨fun hs => ?_, fun hs hn => ?_, fun hs hd => ?_⟩, fun env bs h hp hr => ⟨fun hb => ?_, fun hb => ?_⟩⟩
  · exact ⟨_, exec_fwdSessionOpen_linkDown h ho hl, State.endedWith_finish _ r _ (State.holds_of_beginning h), rfl⟩
  · refine ⟨_, (exec_fwdSessionOpen_linkUp h ho hl).trans (congrArg _ (if_pos hs)), State.endedDone_finishOk _ r (State.holds_of_beginning h), ?_⟩
    rw [State.finishOk_sess, State.sess_updSess]
    exact ⟨rfl, hs⟩
  · have hu : ¬ (s.sess l).state = ssUp := by rw [hs]; decide
    obtain ⟨h1, h2, h3⟩ := State.openSess_sess ((s.at time).awaits l false r) l (some (BitVec.ofNat 20 (rb c.raw 12 4)))
    refine ⟨_, (exec_fwdSessionOpen_linkUp h ho hl).trans (congrArg _ ((if_neg hu).trans (if_pos hs))), ?_, h2.trans ?_, h1, h3, ?_⟩
    · exact State.cmdIs_congr r _ (State.openSess_queues _ l _) (State.awaits_runs l false (State.holds_of_beginning h))
    · rw [State.awaits_sess]
      rfl
    · rw [State.openSess_cmds]
      exact State.awaits_mem ..
  · refine ⟨_, (exec_fwdSessionOpen_linkUp h ho hl).trans (congrArg _ ((if_neg hs).trans (if_neg hd))),
      State.awaits_runs l false (State.holds_of_beginning h), ?_, ?_, State.awaits_mem ..⟩ <;> rw [State.awaits_sess] <;> rfl
  · refine ⟨_, (exec_fwdSessionDrain h ho).trans (congrArg _ (if_pos hs)), State.endedDone_finishOk _ r (State.holds_of_beginning h), ?_⟩
    rw [State.finishOk_sess, State.sess_updSess]
  · have hd : ¬ (s.sess l).state = ssDown := by rw [hs]; decide
    have hn' : (((s.at time).awaits l true r).sess l).doneSeen = false := by rw [State.awaits_sess]; exact hn
    obtain ⟨h1, h2, h3, h4⟩ := State.startDrain_drains hn'
    refine ⟨_, (exec_fwdSessionDrain h ho).trans (congrArg _ ((if_neg hd).trans (if_pos hs))), ?_, h2.trans ?_, h1, ?_⟩
    · exact State.cmdIs_congr r _ h4 (State.awaits_runs l true (State.holds_of_beginning h))
    · rw [State.awaits_sess]
      rfl
    · rw [h3]
      exact State.awaits_mem ..
  · refine ⟨_, (exec_fwdSessionDrain h ho).trans (congrArg _ ((if_neg hd).trans (if_neg hs))),
      State.awaits_runs l true (State.holds_of_beginning h), ?_, ?_, State.awaits_mem ..⟩ <;> rw [State.awaits_sess] <;> rfl
  · exact ⟨_, (exec_ownerPublish h hp hr).trans (congrArg _ (if_pos hb)), State.endedWith_finish _ r _ (State.holds_of_beginning h), rfl⟩
  · obtain ⟨h1, h2, h3⟩ := State.sendTable_kept ((s.at env.t).tableStaged r (BitVec.ofNat 32 (rb c.raw 20 4)) (rb c.raw 16 4) (words64 (rb c.raw 16 4) bs))
      (BitVec.ofNat 32 (rb c.raw 20 4)) (rb c.raw 16 4) (words64 (rb c.raw 16 4) bs)
    refine ⟨_, (exec_ownerPublish h hp hr).trans (congrArg _ (if_neg (by rw [hb]; decide))), ?_, h1, h2⟩
    exact State.cmdIs_congr r _ h3 (State.cmdIs_updCmd (s.at env.t) r _ _ (fun _ => rfl) (State.holds_of_beginning h) (fun _ _ _ => rfl))

end Sys2Proof.Machine
end

section
/-!
COMPLETION_RECORD (R55 to R57, R74, R75).
-/

namespace Sys2Proof.Machine
open Sys2Proof

/-! ## Writes of a partition depend on memory, its root and its translations only -/

section
variable {s t : State} {p : PartId} (hm : t.mem = s.mem) (hu : t.mmu = s.mmu) (hr : (t.part p).mmuRoot = (s.part p).mmuRoot)
  (he : (t.part p).mmuEnable = (s.part p).mmuEnable)
include hm hu hr he

theorem State.xlat_paged (k : AccKind) (l : List (Nat × Nat)) : t.xlat p k l = s.xlat p k l := by
  induction l with
  | nil => rfl
  | cons a r ih => simp only [State.xlat, State.translate, State.tlbHit, State.walk, State.rootTable, hm, hu, hr, he, ih]

theorem State.vwrite_paged {u : State} {va : Nat} {bs : List Byte} (h : s.vwrite p va bs = .ok u) : t.vwrite p va bs = .ok { t with mem := u.mem } := by
  simp only [State.vwrite, State.vwriteAs] at h ⊢
  rw [State.xlat_paged hm hu hr he]
  split at h
  · cases h
  · cases h
    simp only [hm]

end

/-! ## A command leaves its queue -/

/-- A queue that a command has left. -/
def Queue.retired (x : Queue) (c : Cmd) (wrote : Bool) : Queue :=
  { x with cmds := x.cmds.filter (fun d => decide (d.seq ≠ c.seq)), last := if c.index = 0xFFFF then x.last else some (progressOf c),
           cplWrite := if wrote then (x.cplWrite + 1) % (2 * x.cplEntries) else x.cplWrite,
           errStop := x.errStop || (wrote && isError c.status && x.stopOnErr) }

theorem Queue.retired_cmds {x : Queue} {c : Cmd} {l : List Cmd} (wrote : Bool) (h : x.cmds = c :: l) (hl : ∀ d ∈ l, d.seq ≠ c.seq) :
    (x.retired c wrote).cmds = l := by
  have hf : l.filter (fun d => decide (d.seq ≠ c.seq)) = l := List.filter_eq_self.2 (fun d hd => decide_eq_true (hl d hd))
  simp only [Queue.retired, h]
  rw [List.filter_cons_of_neg (by simp), hf]

/-- With the trace off no caddy that is no longer pinned is recorded. -/
theorem State.traceUnpin_off {s t : State} (h : t.trace.enable = false) : s.traceUnpin t = t := by
  unfold State.traceUnpin
  induction List.range 4 with
  | nil => rfl
  | cons a r ih =>
    have h1 : ∀ b, t.doIf b (·.record (TraceRec.of 0x0B 0 0 a)) = t := fun b => by
      cases b
      · rfl
      · exact State.record_off t _ h
    rw [List.foldl_cons, h1, ih]

theorem State.traceUnpin_queues (s t : State) : (s.traceUnpin t).queues = t.queues := Comp.same_queues (State.traceUnpin_frame s t _ (by decide))

theorem State.retire_queue (s : State) (q : QueueId) (c : Cmd) (wrote : Bool) : (s.retire q c wrote).queue q = (s.queue q).retired c wrote :=
  (State.queue_congr (State.traceUnpin_queues s _) q).trans (State.queue_updQueue s q _)

theorem State.retire_queue_ne (s : State) {q k : QueueId} (c : Cmd) (wrote : Bool) (h : k ≠ q) : (s.retire q c wrote).queue k = s.queue k :=
  (State.queue_congr (State.traceUnpin_queues s _) k).trans (State.queue_updQueue_ne s _ h.symm)

theorem State.retire_off {s : State} (q : QueueId) (c : Cmd) (wrote : Bool) (h : s.trace.enable = false) :
    s.retire q c wrote = s.updQueue q (fun x => x.retired c wrote) :=
  State.traceUnpin_off h

/-! ## What a completion does beside its record -/

theorem State.onComplete_plain (s : State) (q : QueueId) {c : Cmd} (h : c.presents = false) :
    s.onComplete q c = s.doIf (zeroRect c.raw) (·.applyFrame (s.qPart q)) := by
  simp only [State.onComplete, h, State.doIf, Bool.false_eq_true, if_false]

/-- A VIS frame boundary (R352) leaves the queues, memory and the partition's translations. -/
theorem State.applyFrame_kept (s : State) (p : PartId) :
    (s.applyFrame p).queues = s.queues ∧ (s.applyFrame p).mem = s.mem ∧ (s.applyFrame p).pins = s.pins ∧ (s.applyFrame p).trace = s.trace
      ∧ (s.applyFrame p).mmu = s.mmu ∧ (s.applyFrame p).cfg = s.cfg ∧ ((s.applyFrame p).part p).mmuRoot = (s.part p).mmuRoot
      ∧ ((s.applyFrame p).part p).mmuEnable = (s.part p).mmuEnable := by
  unfold State.applyFrame
  split
  · exact ⟨rfl, rfl, rfl, rfl, rfl, rfl, rfl, rfl⟩
  · rw [State.part_updPart]
    exact ⟨rfl, rfl, rfl, rfl, rfl, rfl, rfl, rfl⟩

theorem State.onComplete_kept (s : State) (q : QueueId) {c : Cmd} (h : c.presents = false) :
    let t := s.onComplete q c
    t.queues = s.queues ∧ t.mem = s.mem ∧ t.pins = s.pins ∧ t.trace = s.trace ∧ t.mmu = s.mmu ∧ t.cfg = s.cfg
      ∧ (t.part (s.qPart q)).mmuRoot = (s.part (s.qPart q)).mmuRoot ∧ (t.part (s.qPart q)).mmuEnable = (s.part (s.qPart q)).mmuEnable := by
  rw [State.onComplete_plain s q h]
  cases zeroRect c.raw
  · exact ⟨rfl, rfl, rfl, rfl, rfl, rfl, rfl, rfl⟩
  · exact State.applyFrame_kept s (s.qPart q)

/-! ## The record -/

/-- Where the next completion record of a queue lies (R74). -/
def State.recordAt (s : State) (q : QueueId) : Nat := (s.queue q).cplAddr + 64 + 32 * ((s.queue q).cplWrite % (s.queue q).cplEntries)

/-- The completion record of a command, with the PHASE of its pass. -/
def State.recordOf (s : State) (q : QueueId) (c : Cmd) : List Byte :=
  completionBytes s c (if (s.queue q).cplWrite < (s.queue q).cplEntries then 1 else 0)

theorem completeHead_silent {s : State} (env : Env) (q : QueueId) {c : Cmd} (h : c.record = false) (he : isError c.status = false) :
    s.completeHead env q c = s.retire q c false := by
  simp only [State.completeHead, h, he, Bool.or_self, Bool.false_eq_true, if_false]

theorem completeHead_records {s s2 : State} (env : Env) (q : QueueId) {c : Cmd} (h : c.record = true ∨ isError c.status = true)
    (hw : s.vwrite (s.qPart q) (s.recordAt q) (s.recordOf q c) = .ok s2) :
    s.completeHead env q c = (s2.retire q c true).doIf (irqBit c.raw) (·.irqPart (s.qPart q) (s.queue q).vec) := by
  have hb : (c.record || isError c.status) = true := Bool.or_eq_true_iff.2 h
  simp only [State.recordAt, State.recordOf] at hw
  simp only [State.completeHead, hb, if_true, hw]

theorem exec_completionRecord {s : State} {q : QueueId} {env : Env} {c : Cmd} {l : List Cmd} (hr : s.ready = true)
    (hk : (s.queue q).cplParked = false) (hs : (s.part (s.qPart q)).resetting = false) (hc : (s.queue q).cmds = c :: l)
    (hf : c.phase = .finished) (hw : c.writes = 0) (hp : c.presents = false) :
    exec (.completionRecord q env) s = .next (((s.at env.t).onComplete q c).completeHead env q c) := by
  have h0 : ¬ (!(s.at env.t).ready || ((s.at env.t).queue q).cplParked || ((s.at env.t).part ((s.at env.t).qPart q)).resetting) = true := by
    show ¬ (!s.ready || (s.queue q).cplParked || (s.part (s.qPart q)).resetting) = true
    rw [hr, hk, hs]
    decide
  have h1 : ((s.at env.t).queue q).cmds = c :: l := hc
  have h2 : (s.at env.t).canComplete q c = true := by
    simp only [State.canComplete, State.presentWaits, hf, hw, hp, decide_true, Bool.false_and, Bool.not_false, Bool.and_true]
    rfl
  show execCompletionRecord q env s = _
  simp only [execCompletionRecord, if_neg h0, h1, h2, if_true]

theorem State.doIf_irqPart_queue (s : State) (b : Bool) (p : PartId) (v : BitVec 4) (k : QueueId) :
    (s.doIf b (·.irqPart p v)).queue k = s.queue k :=
  State.queue_congr (State.doIf_queues s b _ (fun x => State.irqPart_queues x p v)) k

/-- Settles O18: the row is a frame boundary at most, the record, and the command's leaving. -/
theorem completionRetiresTheOldestCommand : Obligations.CompletionRetiresTheOldestCommand := by
  intro q env c l s s1 p x hr hk hs hc hd hf hw hp
  obtain ⟨kq, km, kp, kt, ku, kc, kr, ke⟩ := State.onComplete_kept s1 q hp
  have hq : ∀ k, (s1.onComplete q c).queue k = s.queue k := State.queue_congr kq
  have hx := exec_completionRecord (env := env) hr hk hs hc hf hw hp
  refine ⟨fun hn he => ?_, fun s2 hn hv => ?_⟩
  · refine ⟨_, hx.trans (congrArg _ (completeHead_silent env q hn he)), ?_, ?_, fun ht => ?_, fun k hne => ?_⟩
    · rw [State.retire_queue, hq]
      exact Queue.retired_cmds false hc hd
    · rw [State.retire_queue, hq]
      rfl
    · rw [State.retire_off q c false (by rw [kt]; exact ht), State.updQueue_mem, State.updQueue_pins, km, kp]
      exact ⟨rfl, rfl⟩
    · rw [State.retire_queue_ne _ c false hne, hq]
  · have hqp : (s1.onComplete q c).qPart q = p := State.qPart_congr (s := s) (by rw [kc]; rfl) q
    have hat : (s1.onComplete q c).recordAt q = x.cplAddr + 64 + 32 * (x.cplWrite % x.cplEntries) := by rw [State.recordAt, hq]
    have hof : (s1.onComplete q c).recordOf q c = completionBytes s1 c (if x.cplWrite < x.cplEntries then 1 else 0) := by
      rw [State.recordOf, hq, completionBytes, kp]
      rfl
    have hv' : (s1.onComplete q c).vwrite ((s1.onComplete q c).qPart q) ((s1.onComplete q c).recordAt q) ((s1.onComplete q c).recordOf q c)
        = .ok { s1.onComplete q c with mem := s2.mem } := by
      rw [hqp, hat, hof]
      exact State.vwrite_paged km ku kr ke hv
    have hq2 : ∀ k, ({ s1.onComplete q c with mem := s2.mem } : State).queue k = s.queue k := hq
    refine ⟨_, hx.trans (congrArg _ (completeHead_records env q hn hv')), ?_, ?_, ?_, fun ht => ?_, fun k hne => ?_⟩
    · rw [State.doIf_irqPart_queue, State.retire_queue, hq2]
      exact Queue.retired_cmds true hc hd
    · rw [State.doIf_irqPart_queue, State.retire_queue, hq2]
      rfl
    · rw [State.doIf_irqPart_queue, State.retire_queue, hq2]
      exact congrArg (x.errStop || · && x.stopOnErr) (Bool.true_and _)
    · rw [State.retire_off (s := { s1.onComplete q c with mem := s2.mem }) q c true (by show (s1.onComplete q c).trace.enable = false; rw [kt]; exact ht),
        hqp, hq]
      cases irqBit c.raw
      · exact ⟨rfl, (congrArg Pins.irqs kp).trans (List.append_nil _).symm⟩
      · exact ⟨rfl, congrArg (fun z : Pins => z.irqs ++ [⟨false, p, x.vec⟩]) kp⟩
    · rw [State.doIf_irqPart_queue, State.retire_queue_ne _ c true hne, hq2]

end Sys2Proof.Machine
end

section
/-!
COMMAND_FETCH (R42, R52, R511) and COMMAND_ADMIT (R53, R314, R315).
-/

namespace Sys2Proof.Machine
open Sys2Proof

/-! ## Fetch (R42, R52) -/

theorem State.fetchCount_queue (s : State) (q : QueueId) : (s.fetchCount q).queue q = { s.queue q with waited := 0 } := by
  simp [State.fetchCount, State.queue]

theorem State.fetchCount_mem (s : State) (q : QueueId) : (s.fetchCount q).mem = s.mem := by
  simp only [State.fetchCount]

theorem State.fetchCount_parts (s : State) (q : QueueId) : (s.fetchCount q).parts = s.parts := by
  simp only [State.fetchCount]

theorem State.fetchCount_mmu (s : State) (q : QueueId) : (s.fetchCount q).mmu = s.mmu := by
  simp only [State.fetchCount]

/-- The slot is counted and a corrected read noted (R52, R511). -/
def State.fetchSlot (s : State) (q : QueueId) (c : Check) : State := (s.fetchCount q).doIf (decide (c = .corrected)) State.errCorrected

theorem State.fetchSlot_kept (s : State) (q : QueueId) (c : Check) :
    (s.fetchSlot q c).queue q = { s.queue q with waited := 0 } ∧ (s.fetchSlot q c).mem = s.mem ∧ (s.fetchSlot q c).parts = s.parts
      ∧ (s.fetchSlot q c).mmu = s.mmu := by
  rw [State.fetchSlot]
  refine ⟨?_, (State.doIf_keeps (·.mem) _ _ _ State.errCorrected_mem).trans (State.fetchCount_mem s q),
    (State.doIf_keeps (·.parts) _ _ _ State.errCorrected_parts).trans (State.fetchCount_parts s q),
    (State.doIf_keeps (·.mmu) _ _ _ State.errCorrected_mmu).trans (State.fetchCount_mmu s q)⟩
  rw [← State.fetchCount_queue]
  exact State.queue_congr (State.doIf_queues _ _ _ State.errCorrected_queues) q

/-- A queue whose entry under way has given its next command. -/
def Queue.fetchedCmd (x : Queue) (f : Fetching) (raw : Slot64) : Queue :=
  let y : Queue := { x with fetched := x.fetched ++ [({ entry := f.entry, index := f.next, raw := raw, st := 0 } : Fetched)] }
  if f.count ≤ f.next + 1 then { y with cur := none, head := nextPos y } else { y with cur := some { f with next := f.next + 1 } }

theorem State.fetchCmd_reads {s : State} {p : PartId} {f : Fetching} {raw : Slot64} (env : Env) (q : QueueId)
    (h : s.vslot p (f.addr + 64 * f.next) = .ok raw) : s.fetchCmd env p q f = s.updQueue q (fun x => x.fetchedCmd f raw) := by
  simp only [State.fetchCmd, h]
  rfl

section
variable {s : State} {q : QueueId} {env : Env} (hr : (s.at env.t).ready = true) (hc : (s.at env.t).fetchChoice = some q)
include hr hc

theorem exec_commandFetch_failed (hl : env.hw.lists = .failed) : exec (.commandFetch env) s = .next ((s.at env.t).errBlock 0x12 q.val) := by
  show execCommandFetch env s = _
  simp only [execCommandFetch, hr, hc, Bool.not_true, Bool.false_eq_true, if_false]
  exact if_pos hl

theorem exec_commandFetch_reads {f : Fetching} {raw : Slot64} (hl : env.hw.lists ≠ .failed) (hf : ((s.at env.t).queue q).cur = some f)
    (hv : (s.at env.t).vslot ((s.at env.t).qPart q) (f.addr + 64 * f.next) = .ok raw) :
    exec (.commandFetch env) s = .next (((s.at env.t).fetchSlot q env.hw.lists).updQueue q (fun x => x.fetchedCmd f raw)) := by
  obtain ⟨kq, km, kp, kt⟩ := State.fetchSlot_kept (s.at env.t) q env.hw.lists
  have hcur : (((s.at env.t).fetchSlot q env.hw.lists).queue q).cur = some f := by rw [kq]; exact hf
  have hv' := (State.vslot_congr km kp kt ((s.at env.t).qPart q) (f.addr + 64 * f.next)).trans hv
  show execCommandFetch env s = _
  simp only [execCommandFetch, hr, hc, Bool.not_true, Bool.false_eq_true, if_false]
  refine (if_neg hl).trans ?_
  rw [State.fetchSlot] at hcur
  rw [hcur, ← State.fetchCmd_reads env q hv']
  rfl

end

/-! ## Admission (R53) -/

theorem updSeq_append_one {n : Nat} {f : Cmd → Cmd} {l : List Cmd} {c : Cmd} (hl : ∀ d ∈ l, d.seq ≠ n) (hc : c.seq = n) :
    updSeq n f (l ++ [c]) = l ++ [f c] := by
  have h : updSeq n f l = l := by
    unfold updSeq
    conv_rhs => rw [← List.map_id l]
    exact List.map_congr_left (fun d hd => if_neg (hl d hd))
  rw [updSeq, List.map_append, ← updSeq, h, List.map_singleton, if_pos hc]

/-- The place in its flow of the command that is admitted next, and the state that has given it (R81). -/
def State.flowed (s : State) (q : QueueId) (f : Fetched) : Nat × State :=
  if f.st = 0 && decide (checkCmd s (s.qPart q) q f.raw = 0) && orderedBit f.raw
  then s.takeFlow (s.qPart q) q (flowField f.raw) (itemsTotal f.raw) else (0, s)

/-- The command that is admitted next (R53). -/
def State.nextCmd (s : State) (q : QueueId) (f : Fetched) : Cmd := admitted s (s.qPart q) q f s.nextSeq (s.flowed q f).1

/-- The queue with that command admitted. -/
def State.joined (s : State) (q : QueueId) (f : Fetched) : State :=
  (s.flowed q f).2.updQueue q (fun x => { x with fetched := x.fetched.drop 1, cmds := x.cmds ++ [s.nextCmd q f], seq := s.nextSeq + 1 })

theorem State.admitOne_eq (s : State) (env : Env) (q : QueueId) (f : Fetched) :
    s.admitOne env q f = if (s.nextCmd q f).phase = .admitted && isSplat (opOf f.raw) && !zeroRect f.raw
      then (s.joined q f).readTarget env q (s.nextCmd q f) else s.joined q f := rfl

theorem State.flowed_kept (s : State) (q : QueueId) (f : Fetched) :
    (s.flowed q f).2.queues = s.queues ∧ (s.flowed q f).2.mem = s.mem ∧ (s.flowed q f).2.parts = s.parts ∧ (s.flowed q f).2.mmu = s.mmu
      ∧ (s.flowed q f).2.cfg = s.cfg := by
  unfold State.flowed State.takeFlow
  split
  · split <;> exact ⟨rfl, rfl, rfl, rfl, rfl⟩
  · exact ⟨rfl, rfl, rfl, rfl, rfl⟩

theorem State.joined_queue {s : State} {q : QueueId} {f : Fetched} {l : List Fetched} (h : (s.queue q).fetched = f :: l) :
    ((s.joined q f).queue q).fetched = l ∧ ((s.joined q f).queue q).cmds = (s.queue q).cmds ++ [s.nextCmd q f] := by
  rw [State.joined, State.queue_updQueue, State.queue_congr (State.flowed_kept s q f).1]
  simp only [h, List.drop_one, List.tail_cons, and_self]

theorem State.joined_vdesc (s : State) (q : QueueId) (f : Fetched) (p : PartId) (va : Nat) : (s.joined q f).vdesc p va = s.vdesc p va := by
  obtain ⟨-, hm, hp, ht, -⟩ := State.flowed_kept s q f
  exact State.vdesc_congr (s := s) (t := s.joined q f) hm hp ht p va

theorem State.joined_qPart (s : State) (q : QueueId) (f : Fetched) : (s.joined q f).qPart q = s.qPart q := by
  obtain ⟨-, -, -, -, hc⟩ := State.flowed_kept s q f
  exact State.qPart_congr (s := s) (t := s.joined q f) (congrArg Cfg.ptab hc) q

/-! ## The descriptor of a SPLAT command (R314, R315) -/

/-- A SPLAT command with its descriptor. -/
def Cmd.targeted (c : Cmd) (d : Desc) : Cmd := { c with descs := [(0, d)], presents := d.present && opOf c.raw == 0x20 }

/-- A SPLAT command after the checks of its descriptor. -/
def Cmd.checked (c : Cmd) (d : Desc) : Cmd :=
  if splatCheck c d ≠ stOk then
    { c.targeted d with phase := .finished, status := splatCheck c d, done := if oneItem (opOf c.raw) then c.total else c.done }
  else c.targeted d

theorem State.bindFrame_queues (s : State) (p : PartId) (r : CmdRef) (cls : BitVec 2) : (s.bindFrame p r cls).queues = s.queues :=
  Comp.same_queues (State.bindFrame_frame s p r cls _ (by decide))

theorem State.askSummary_queues (s : State) (p : PartId) (r : CmdRef) (cls : BitVec 2) (w h : Nat) :
    (s.askSummary p r cls w h).queues = s.queues :=
  Comp.same_queues (State.askSummary_frame s p r cls w h _ (by decide))

/-- A change of the record of the command last admitted. -/
theorem State.updCmd_last {s : State} {q : QueueId} {n : Nat} {l : List Cmd} {c : Cmd} (f : Cmd → Cmd) (hq : (s.queue q).cmds = l ++ [c])
    (hl : ∀ x ∈ l, x.seq ≠ n) (hc : c.seq = n) :
    ((s.updCmd ⟨q, n⟩ f).queue q).fetched = (s.queue q).fetched ∧ ((s.updCmd ⟨q, n⟩ f).queue q).cmds = l ++ [f c] := by
  rw [State.updCmd, State.queue_updQueue, hq, updSeq_append_one hl hc]
  exact ⟨rfl, rfl⟩

/-- The command last admitted has its descriptor read. -/
theorem State.readTarget_queue {s : State} {env : Env} {q : QueueId} {c : Cmd} {l : List Cmd} {d : Desc} (hq : (s.queue q).cmds = l ++ [c])
    (hl : ∀ x ∈ l, x.seq ≠ c.seq) (hd : s.vdesc (s.qPart q) (rb c.raw 24 8) = .ok d) :
    ((s.readTarget env q c).queue q).fetched = (s.queue q).fetched ∧ ((s.readTarget env q c).queue q).cmds = l ++ [c.checked d] := by
  obtain ⟨h1, h2⟩ := State.updCmd_last (fun x => { x with descs := [(0, d)], presents := d.present && opOf c.raw == 0x20 }) hq hl rfl
  simp only [State.readTarget, hd]
  split
  next hs =>
    obtain ⟨h3, h4⟩ := State.updCmd_last
      (fun x => { x with phase := .finished, status := splatCheck c d, done := if oneItem (opOf x.raw) then x.total else x.done }) h2 hl rfl
    rw [Cmd.checked, if_pos hs]
    exact ⟨h3.trans h1, h4⟩
  next hs =>
    rw [State.queue_congr (State.doIf_queues _ _ _ (fun x => (State.askSummary_queues _ _ _ _ _ _).trans (State.bindFrame_queues x _ _ _))),
      Cmd.checked, if_neg hs]
    exact ⟨h1, h2⟩

theorem exec_commandAdmit {s : State} {q : QueueId} {env : Env} {f : Fetched} {l : List Fetched} (hr : (s.at env.t).ready = true)
    (hh : (s.at env.t).qHeld q = false) (hk : cplFull ((s.at env.t).queue q) = false) (hf : ((s.at env.t).queue q).fetched = f :: l) :
    exec (.commandAdmit q env) s = .next ((s.at env.t).admitOne env q f) := by
  show execCommandAdmit q env s = _
  simp only [execCommandAdmit, hr, hh, hk, hf, Bool.not_true, Bool.or_self, Bool.false_eq_true, if_false]

/-- What R53 has a command keep of its fetch and of the modes and bindings in force. -/
def Cmd.capturedFrom (c : Cmd) (s : State) (q : QueueId) (f : Fetched) : Prop :=
  c.raw = f.raw ∧ c.entry = f.entry ∧ c.index = f.index ∧ c.seq = s.nextSeq ∧ c.caddy = s.sel ∧ c.gen = (s.caddy s.sel).gen
    ∧ c.cls = (s.queue q).prio ∧ c.hiers = (s.part (s.qPart q)).hiers ∧ c.progs = (s.part (s.qPart q)).progs

theorem State.nextCmd_captured (s : State) (q : QueueId) (f : Fetched) : (s.nextCmd q f).capturedFrom s q f :=
  ⟨rfl, rfl, rfl, rfl, rfl, rfl, rfl, rfl, rfl⟩

theorem Cmd.checked_captured {c : Cmd} {s : State} {q : QueueId} {f : Fetched} (d : Desc) (h : c.capturedFrom s q f) : (c.checked d).capturedFrom s q f := by
  unfold Cmd.checked
  split
  · exact h
  · exact h

theorem Cmd.checked_status {c : Cmd} (d : Desc) (hs : c.status = stOk) (hp : c.phase = .admitted) :
    (c.checked d).descs = [(0, d)] ∧ (c.checked d).status = splatCheck (c.checked d) d
      ∧ (c.checked d).phase = (if (c.checked d).status = 0 then .admitted else .finished) := by
  unfold Cmd.checked
  split
  next h => exact ⟨rfl, rfl, (if_neg h).symm⟩
  next h =>
    have h0 : splatCheck c d = stOk := not_not.1 h
    exact ⟨rfl, hs.trans h0.symm, hp.trans (if_pos hs).symm⟩

/-- The status that the checks of R53 give a fetched command. -/
def State.admitStatus (s : State) (q : QueueId) (f : Fetched) : W16 := if f.st ≠ 0 then f.st else checkCmd s (s.qPart q) q f.raw

theorem State.nextCmd_status (s : State) (q : QueueId) (f : Fetched) :
    (s.nextCmd q f).status = s.admitStatus q f ∧ (s.nextCmd q f).phase = (if s.admitStatus q f = 0 then .admitted else .finished) := ⟨rfl, rfl⟩

theorem State.admitOne_plain {s : State} {env : Env} {q : QueueId} {f : Fetched}
    (h : ¬ (s.admitStatus q f = 0 ∧ isSplat (opOf f.raw) = true ∧ zeroRect f.raw = false)) : s.admitOne env q f = s.joined q f := by
  rw [State.admitOne_eq, (State.nextCmd_status s q f).2]
  refine if_neg (fun hn => h ?_)
  rw [Bool.and_eq_true, Bool.and_eq_true, decide_eq_true_eq, Bool.not_eq_true'] at hn
  obtain ⟨⟨hp, hs⟩, hz⟩ := hn
  refine ⟨?_, hs, hz⟩
  by_contra hne
  rw [if_neg hne] at hp
  cases hp

theorem State.admitOne_reads {s : State} {env : Env} {q : QueueId} {f : Fetched} (h0 : s.admitStatus q f = 0) (hs : isSplat (opOf f.raw) = true)
    (hz : zeroRect f.raw = false) : s.admitOne env q f = (s.joined q f).readTarget env q (s.nextCmd q f) := by
  rw [State.admitOne_eq, (State.nextCmd_status s q f).2, if_pos h0, hs, hz]
  rfl

/-- Settles O17: the fetch is `fetchedCmd` of the queue, the admission `nextCmd` behind its commands, its descriptor read where R314 says. -/
theorem fetchAndAdmissionTakeCommandsInOrder : Obligations.FetchAndAdmissionTakeCommandsInOrder := by
  intro q env s s1
  refine ⟨fun hr hc hl => ?_, fun f raw hr hc hl hf hv => ?_, fun f l hr hh hk hf hd => ⟨fun hn => ?_, fun d hn hv => ?_⟩⟩
  · exact ⟨_, exec_commandFetch_failed hr hc hl, State.errBlock_state .., Comp.same_queues (State.errBlock_frame s1 _ _ _ (by decide))⟩
  · have hx := State.queue_updQueue (s1.fetchSlot q env.hw.lists) q (fun x => x.fetchedCmd f raw)
    rw [(State.fetchSlot_kept s1 q env.hw.lists).1] at hx
    refine ⟨_, exec_commandFetch_reads hr hc hl hf hv, ?_, ?_, fun hlt => ?_, fun hle => ?_⟩ <;> rw [hx, Queue.fetchedCmd]
    · split <;> rfl
    · split <;> rfl
    · rw [if_neg (Nat.not_le.2 hlt)]
      exact ⟨rfl, rfl⟩
    · rw [if_pos hle]
      exact ⟨rfl, rfl⟩
  · obtain ⟨h1, h2⟩ := State.joined_queue (s := s1) hf
    obtain ⟨h3, h4⟩ := State.nextCmd_status s1 q f
    refine ⟨_, s1.nextCmd q f, exec_commandAdmit hr hh hk hf, ?_, h3, h4⟩
    rw [State.admitOne_plain hn]
    exact ⟨h1, h2, State.nextCmd_captured s1 q f⟩
  · obtain ⟨h0, hs, hz⟩ := hn
    obtain ⟨h1, h2⟩ := State.joined_queue (s := s1) hf
    have hv' : (s1.joined q f).vdesc ((s1.joined q f).qPart q) (rb (s1.nextCmd q f).raw 24 8) = .ok d := by
      rw [State.joined_qPart, State.joined_vdesc]
      exact hv
    obtain ⟨h3, h4⟩ := State.readTarget_queue (env := env) h2 hd hv'
    refine ⟨_, (s1.nextCmd q f).checked d, exec_commandAdmit hr hh hk hf, ?_, Cmd.checked_status d h0 (if_pos h0)⟩
    rw [State.admitOne_reads h0 hs hz]
    exact ⟨h3.trans h1, h4, Cmd.checked_captured d (State.nextCmd_captured s1 q f)⟩

end Sys2Proof.Machine
end

section
/-!
WAIT_VALUE's poll under a lost word of a Steep list (R69, R511), and a HEEL's timeout under a trace whose ring faults (R415, R409).
-/

namespace Sys2Proof.Machine
open Sys2Proof

/-! ## A poll whose timer's list is lost (R511) -/

theorem State.errBlock_notReady (s : State) (src index : Nat) : (s.errBlock src index).ready = false := by
  rw [State.ready, State.errBlock_state]
  exact Bool.and_false _

/-- Where the read of the Steep list is uncorrectable the block enters ERROR, and no timer acts. -/
theorem exec_waitValuePoll_lost {s : State} {q : QueueId} {env : Env} (hr : s.ready = true) (hf : s.timerFires (.waitPoll q) env.t = true)
    (hl : env.hw.lists = .failed) :
    exec (.waitValuePoll q env) s = .next ((s.at env.t).errBlock 0x0B (Timer.waitPoll q).list.val) := by
  have hw : s.doIf (s.ready && s.timerFires (.waitPoll q) env.t) (·.steepWord env (.waitPoll q))
      = (s.at env.t).errBlock 0x0B (Timer.waitPoll q).list.val := by
    rw [hr, hf, Bool.and_self, State.doIf, if_pos rfl, State.steepWord, hl]
  show execWaitValuePoll q env s = _
  simp only [execWaitValuePoll, hw, State.errBlock_notReady, Bool.false_and, Bool.false_eq_true, if_false]

/-- A WAIT_VALUE for at least 0 at address 0, running. -/
def polledCmd : Cmd :=
  { seq := 5, entry := 0, index := 0, raw := 0x41, phase := .running, status := 0, done := 0, total := 1, itemBad := false, writes := 0, next := 0,
    last := 0, intakeAt := 0, hold := false, parked := false, ovf := 1, caddy := 0, gen := 0, cls := 2, flowSeq := 0, hiers := [], progs := [],
    descs := [], offset := 0, record := false, presents := false, held := 0 }

/-- A block in service whose queue 0 waits on a word that is mapped, its poll due at 64 ns. -/
def polled : State :=
  ({ State.reset with
    pins := { Pins.reset with inReset := false }
    boot := { Boot.reset with state := stReady }
    parts := State.reset.parts.set 0 { Part.reset with mmuEnable := .both true }
    queues := State.reset.queues.set 0 { Queue.reset with enable := true, enabled := true, cmds := [polledCmd] }
    mmu := { tlb := [⟨0, 0, 2 ^ 40, 0, true, true, 4⟩], badPtes := [], faults := [] } } : State).timerAdd (.waitPoll 0) 64

/-- A step at 64 ns in which the read of the Steep list is uncorrectable. -/
def badListEnv : Env := ⟨64, [], [], [], 0, .ok, ⟨false, .ok, .failed, []⟩⟩

theorem polled_queue : (polled.queue 0).cmds = [polledCmd] := rfl

theorem polled_fires : polled.ready = true ∧ polled.timerFires (.waitPoll 0) 64 = true := by decide

theorem polled_fire : polled.fire (.waitPoll 0) 64 = polled.timerTake (.waitPoll 0) 64 := State.record_off _ _ rfl

theorem polledCmd_word : polledCmd.raw.toNat = 0x41 :=
  Nat.mod_eq_of_lt (Nat.lt_of_lt_of_le (by decide : 0x41 < 2 ^ 7) (Nat.pow_le_pow_right (by decide) (by decide)))

theorem polledCmd_fields : opOf polledCmd.raw = 0x41 ∧ rb polledCmd.raw 8 8 = 0 ∧ rb polledCmd.raw 24 1 = 0 ∧ rb polledCmd.raw 16 8 = 0 := by
  simp only [opOf, rb, nfld, polledCmd_word]
  decide

theorem polled_waiting : (polled.fire (.waitPoll 0) 64).waiting 0 = some polledCmd := by
  have hq : ((polled.timerTake (.waitPoll 0) 64).queue 0).cmds = [polledCmd] := polled_queue
  rw [polled_fire, State.waiting, hq, List.find?_cons_of_pos]
  rw [polledCmd_fields.1]
  rfl

theorem polled_reads : (polled.fire (.waitPoll 0) 64).vnum ((polled.fire (.waitPoll 0) 64).qPart 0) (rb polledCmd.raw 8 8) 8 = .ok 0 := by
  obtain ⟨-, ha, -⟩ := polledCmd_fields
  rw [polled_fire, State.vnum_congr (s := polled) (t := polled.timerTake (.waitPoll 0) 64) rfl rfl rfl,
    State.qPart_congr (s := polled) (t := polled.timerTake (.waitPoll 0) 64) rfl, ha]
  decide

theorem polled_met : waitHolds (rb polledCmd.raw 24 1) 0 (rb polledCmd.raw 16 8) = true := by
  obtain ⟨-, -, hc, hv⟩ := polledCmd_fields
  rw [hc, hv]
  rfl

/-- Refutes O21: where the poll's timer fires and the read of its Steep list is uncorrectable, the block enters ERROR and the command whose
condition is met stays running. -/
theorem not_waitValueWaitsPollsAndTimesOut : ¬ Obligations.WaitValueWaitsPollsAndTimesOut := by
  intro h
  obtain ⟨-, h2, -⟩ := h 0 badListEnv polledCmd polled
  obtain ⟨hr, hf⟩ := polled_fires
  obtain ⟨t, ht, -, hm, -⟩ := h2 0 hr hf polled_waiting polled_reads
  obtain ⟨hd, -, -⟩ := hm polled_met
  rw [exec_waitValuePoll_lost hr hf rfl] at ht
  cases ht
  have hq : (((polled.at badListEnv.t).errBlock 0x0B (Timer.waitPoll 0).list.val).queue 0).cmds = [polledCmd] :=
    (congrArg Queue.cmds (State.queue_congr (Comp.same_queues (State.errBlock_frame (polled.at badListEnv.t) _ _ _ (by decide))) 0)).trans polled_queue
  obtain ⟨hp, -⟩ := hd.2 polledCmd (by rw [hq]; exact List.mem_singleton_self _) rfl
  cases hp

/-! ## A trace whose ring faults (R409, R446) -/

/-- With translation off a write of any byte faults. -/
theorem State.vwrite_off {s : State} {p : PartId} (hm : (s.part p).mmuEnable.force = false) (va : Nat) {bs : List Byte} (hb : bs.length ≠ 0) :
    ∃ x, s.vwrite p va bs = .bad x := by
  have ht : ∃ x, s.translate p .write va = .bad x := by
    unfold State.translate
    split
    · exact ⟨_, rfl⟩
    · exact ⟨_, if_pos (by rw [hm]; rfl)⟩
  obtain ⟨x, hx⟩ := ht
  refine ⟨x, ?_⟩
  simp only [State.vwrite, State.vwriteAs, pieces, pagePieces, if_neg hb, State.xlat, hx]

/-- A notice joins the records held while the fault queue cannot be written. -/
theorem State.notice_held {s : State} {p : PartId} (hb : (s.part p).fqBase.force ≠ 0) (he : s.errored = false) (hh : (s.part p).fqHeld = [])
    (hf : (s.part p).fqFault = true) (x : Xfault) (c : FaultCtx) :
    ∃ r, s.notice p x c = s.updPart p (fun y => { y with fqHeld := y.fqHeld ++ [r] }) := by
  have h0 : ¬ (decide ((s.part p).fqBase.force = 0) || s.errored) = true := by
    rw [he, Bool.or_false, decide_eq_true_eq]
    exact hb
  have h1 : ¬ (true && decide (64 ≤ ((s.part p).fqHeld.filter (fun h => fldN h 64 8 == 4)).length)) = true := by
    rw [hh]
    decide
  refine ⟨faultRecord s p 4 x 0 0 c, ?_⟩
  rw [State.notice, State.fqPost]
  refine (if_neg h0).trans ((if_neg h1).trans (if_pos hf))

/-- The trace off, with one record more dropped. -/
def State.traceLost (s : State) : State := { s.traceDrop with trace := { s.traceDrop.trace with enable := false } }

/-- A record whose write faults turns the trace off and leaves a notice with the ring's partition. -/
theorem State.record_lost {s : State} {r : TraceRec} (hs : s.traceSel r = true) (he : s.errored = false) (hb : s.bufferFull = false)
    (hw : s.trace.wrap = true) (hm : (s.part s.trace.part.toFin).mmuEnable.force = false) :
    ∃ x, s.record r = s.traceLost.notice s.trace.part.toFin x ⟨9, none, 0, 0, 0, 0, 0, 0⟩ := by
  have h0 : ¬ (!s.traceSel r || s.errored) = true := by rw [hs, he]; decide
  have h1 : ¬ s.bufferFull = true := by rw [hb]; decide
  have h2 : ∀ b, ¬ (!s.trace.wrap && b) = true := fun b => by rw [hw]; simp
  obtain ⟨x, hx⟩ := State.vwrite_off hm (4096 * s.trace.ringBase.toNat + 32 * (s.trace.writePos.toNat % 2 ^ (s.trace.ringSize.toNat + 8)))
    (bs := leBytes 32 (packN [(64, s.pins.now), (8, r.dec), (8, r.op), (8, r.cls + 4 * r.caddy + 16 * r.part), (8, r.reason),
        (32, r.item), (16, r.unit % 256 + 256 * r.kind), (8, r.count), (8, r.depth), (64, r.line), (32, 0)]))
    (by rw [leBytes_length]; decide)
  refine ⟨x, ?_⟩
  rw [State.record, if_neg h0, if_neg h1]
  refine (if_neg (h2 _)).trans ?_
  simp only [hx]
  rfl

/-! ## A HEEL at its limit (R415) -/

theorem exec_drainTimeout {s : State} {q : QueueId} {t : Nat} {c : Cmd} (hr : s.ready = true) (hf : s.timerFires (.heel q) t = true)
    (hm : s.heelMet q = false) (hc : (s.fire (.heel q) t).heelOf q = some c) :
    exec (.drainTimeout q t) s = .next (let f := s.fire (.heel q) t
      (f.finish ⟨q, c.seq⟩ stDrainTimeout).doIf (f.scopeFault (f.qPart q) (f.inScope q (rb c.raw 8 1)) (rb c.raw 8 1 == 2))
        (·.partitionError (f.qPart q) 3)) := by
  show execDrainTimeout q t s = _
  simp only [execDrainTimeout, hr, hf, hm, hc, Bool.not_false, Bool.and_self, if_true]

/-- A scope in which a work command runs is not empty. -/
theorem State.scopeEmpty_running {s : State} {p : PartId} {f : QueueId → Bool} {q : QueueId} {c : Cmd} (hq : q ∈ s.queuesOf p) (hf : f q = true)
    (hc : c ∈ (s.queue q).cmds) (hw : isWork (opOf c.raw) = true) (hp : c.phase = .running) (whole : Bool) : s.scopeEmpty p f whole = false := by
  have ha : (s.queuesOf p).any (fun q => (whole || f q) && (s.queue q).cmds.any (fun c =>
      (isWork (opOf c.raw) && c.phase != .finished) || decide (c.writes ≠ 0))) = true := by
    refine List.any_eq_true.2 ⟨q, hq, ?_⟩
    rw [hf, Bool.or_true, Bool.true_and]
    refine List.any_eq_true.2 ⟨c, hc, ?_⟩
    rw [hw, hp]
    rfl
  simp only [State.scopeEmpty, ha, Bool.not_true, Bool.and_false, Bool.false_and]

/-- A command of opcode `op` that runs, its other fields zero. -/
def runningCmd (seq op : Nat) : Cmd :=
  { seq := seq, entry := 0, index := 0, raw := BitVec.ofNat 512 op, phase := .running, status := 0, done := 0, total := 1, itemBad := false,
    writes := 0, next := 0, last := 1, intakeAt := 0, hold := true, parked := false, ovf := 1, caddy := 0, gen := 0, cls := 2, flowSeq := 0,
    hiers := [], progs := [], descs := [], offset := 0, record := false, presents := false, held := 0 }

theorem runningCmd_fields (seq : Nat) {op : Nat} (h : op < 256) : opOf (runningCmd seq op).raw = op ∧ rb (runningCmd seq op).raw 8 1 = 0 := by
  have hn : (runningCmd seq op).raw.toNat = op := by
    refine (BitVec.toNat_ofNat op 512).trans (Nat.mod_eq_of_lt ?_)
    exact Nat.lt_of_lt_of_le (show op < 2 ^ 8 from h) (Nat.pow_le_pow_right (by decide) (by decide))
  simp only [opOf, rb, nfld, hn]
  omega

/-- A block in service: queue 0 of partition 0 drains behind a TRACE_RAYS that runs, the HEEL's limit at 64 ns. The trace is on; its ring lies in
partition 0, whose translation is off, and whose fault queue could not be written before. -/
def heelTraced : State :=
  ({ State.reset with
    pins := { Pins.reset with inReset := false }
    boot := { Boot.reset with state := stReady }
    cfg := { Cfg.reset with ptab := Cfg.reset.ptab.set 0 #v[.both (.all 0x8000000000000001), .both (.all 1), .both (.all 0), .both (.all 0)] }
    parts := State.reset.parts.set 0 { Part.reset with fqBase := .both 1, fqFault := true }
    queues := State.reset.queues.set 0 { Queue.reset with enable := true, enabled := true, cmds := [runningCmd 4 0x01, runningCmd 5 0x43] }
    trace := { Trace.reset with enable := true, allParts := true, wrap := true } } : State).timerAdd (.heel 0) 64

theorem heelTraced_cmds : (heelTraced.queue 0).cmds = [runningCmd 4 0x01, runningCmd 5 0x43] := rfl

theorem heelTraced_fires : heelTraced.ready = true ∧ heelTraced.timerFires (.heel 0) 64 = true := by decide

theorem heelTraced_owner : heelTraced.queueOwner 0 = some 0 := by decide

/-- The HEEL of a queue whose commands are those of `heelTraced`. -/
theorem State.heelOf_second {s : State} (h : (s.queue 0).cmds = [runningCmd 4 0x01, runningCmd 5 0x43]) : s.heelOf 0 = some (runningCmd 5 0x43) := by
  obtain ⟨h4, -⟩ := runningCmd_fields 4 (op := 0x01) (by decide)
  obtain ⟨h5, -⟩ := runningCmd_fields 5 (op := 0x43) (by decide)
  rw [State.heelOf, h, List.find?_cons_of_neg (by rw [h4]; decide), List.find?_cons_of_pos (by rw [h5]; rfl)]

theorem heelTraced_notMet : heelTraced.heelMet 0 = false := by
  have hq : (0 : QueueId) ∈ heelTraced.queuesOf (heelTraced.qPart 0) := by
    rw [State.qPart, heelTraced_owner]
    exact List.mem_filter.2 ⟨List.mem_finRange _, by rw [heelTraced_owner]; rfl⟩
  obtain ⟨h4, -⟩ := runningCmd_fields 4 (op := 0x01) (by decide)
  obtain ⟨-, h5⟩ := runningCmd_fields 5 (op := 0x43) (by decide)
  rw [State.heelMet, State.heelOf_second heelTraced_cmds]
  exact State.scopeEmpty_running hq (by rw [h5]; rfl) (by rw [heelTraced_cmds]; exact List.mem_cons_self) (by rw [h4]; rfl) rfl _

theorem heelTraced_traces : let s := heelTraced.timerTake (.heel 0) 64
    s.traceSel ((heelTraced.at 64).timerRec (.heel 0)) = true ∧ s.errored = false ∧ s.bufferFull = false ∧ s.trace.wrap = true
      ∧ (s.part s.trace.part.toFin).mmuEnable.force = false := by decide

theorem heelTraced_holds : let s := (heelTraced.timerTake (.heel 0) 64).traceLost
    (s.part 0).fqBase.force ≠ 0 ∧ s.errored = false ∧ (s.part 0).fqHeld = [] ∧ (s.part 0).fqFault = true := by decide

/-- The timer's STEEP_FIRE leaves a notice with partition 0. -/
theorem heelTraced_fire : ∃ r, heelTraced.fire (.heel 0) 64
    = (heelTraced.timerTake (.heel 0) 64).traceLost.updPart 0 (fun y => { y with fqHeld := y.fqHeld ++ [r] }) := by
  obtain ⟨hs, he, hb, hw, hm⟩ := heelTraced_traces
  obtain ⟨x, hx⟩ := State.record_lost hs he hb hw hm
  obtain ⟨h1, h2, h3, h4⟩ := heelTraced_holds
  obtain ⟨r, hr⟩ := State.notice_held h1 h2 h3 h4 x ⟨9, none, 0, 0, 0, 0, 0, 0⟩
  exact ⟨r, hx.trans hr⟩

/-- Refutes O23: with no fault of the HEEL's scope open, the trace record of its timer still leaves a notice in the partition's fault queue. -/
theorem not_heelDrainsOrTimesOut : ¬ Obligations.HeelDrainsOrTimesOut := by
  intro h
  obtain ⟨-, -, h3⟩ := h 0 (runningCmd 5 0x43) heelTraced
  obtain ⟨hr, hf⟩ := heelTraced_fires
  obtain ⟨r, hx⟩ := heelTraced_fire
  have hc : (heelTraced.fire (.heel 0) 64).heelOf 0 = some (runningCmd 5 0x43) := State.heelOf_second (by rw [hx]; rfl)
  have ho : ∀ p f whole, (heelTraced.fire (.heel 0) 64).scopeFault p f whole = false := fun p f whole => by rw [hx]; rfl
  obtain ⟨u, hu, -, hp⟩ := (h3 64 hr hc).2 hf heelTraced_notMet
  rw [exec_drainTimeout hr hf heelTraced_notMet hc] at hu
  dsimp only at hu
  rw [ho] at hu
  cases hu
  have hparts : (heelTraced.fire (.heel 0) 64).parts = heelTraced.parts := hp.2 (ho _ _ _)
  have held : ((heelTraced.fire (.heel 0) 64).part 0).fqHeld = [] := congrArg Part.fqHeld (State.part_congr hparts 0)
  rw [hx, State.part_updPart] at held
  exact absurd held (List.append_ne_nil_of_right_ne_nil _ (List.cons_ne_nil r []))

end Sys2Proof.Machine
end

section
/-!
BUNDLE_ADMIT (R61, R113), BOUND (R203 to R209), SCORE (R214 to R216), BOUND_RETURN (R210) and HEAP_MERGE (R216).
-/

namespace Sys2Proof.Machine
open Sys2Proof

/-! ## Bundles -/

theorem State.bundle?_congr {s t : State} (h : t.strain = s.strain) (n : Nat) : t.bundle? n = s.bundle? n := by
  rw [State.bundle?, State.bundle?, h]

theorem State.bundle?_head {s : State} {h : Nat} {b : Bundle} (hb : s.bundle? h = some b) : b.head = h := by
  simpa using List.find?_some hb

/-- A change of a bundle that leaves its number. -/
theorem State.bundle?_updBundle {s : State} {h : Nat} {b : Bundle} {f : Bundle → Bundle} (hb : s.bundle? h = some b) (hf : ∀ x, (f x).head = x.head) :
    (s.updBundle h f).bundle? h = some (f b) := by
  have key : ((fun x : Bundle => x.head == h) ∘ fun x => if x.head = h then f x else x) = fun x => x.head == h := by
    funext x
    simp only [Function.comp]
    split
    · rw [hf]
    · rfl
  rw [State.bundle?] at hb ⊢
  simp only [State.updBundle, List.find?_map, key, hb, Option.map_some]
  rw [if_pos (State.bundle?_head (s := s) hb)]

theorem State.chain_congr {s t : State} (h : t.kennel = s.kennel) (n : Nat) (l : Option Nat) : t.chain n l = s.chain n l := by
  induction n generalizing l with
  | zero => rfl
  | succ n ih =>
    cases l with
    | none => rfl
    | some i => simp only [State.chain, State.kNext, State.kGet, h, ih]

theorem State.queryRows_congr {s t : State} (h : t.kennel = s.kennel) (b : Bundle) : t.queryRows b = s.queryRows b := by
  simp only [State.queryRows, State.bundleSlots, State.kNext, State.kGet, h, State.chain_congr h]

/-! ## BUNDLE_ADMIT (R61) -/

/-- With every foreign bundle placed none is placed. -/
theorem State.placeForeign_placed {s : State} (env : Env) (n : Nat) (h : ∀ b ∈ s.strain.bundles, b.placed = true) : s.placeForeign env n = s := by
  cases n with
  | zero => rfl
  | succ n =>
    have hn : s.strain.bundles.find? (fun b => !b.placed) = none := List.find?_eq_none.2 (fun b hb => by rw [h b hb]; decide)
    simp only [State.placeForeign, hn]

/-- BUNDLE_ADMIT takes the record of the first command that is not held. -/
theorem exec_bundleAdmit {s s1 : State} {q : QueueId} {words : List Slot64} {env : Env} {c : Cmd} {p : PartId} (hs1 : s.at env.t = s1) (hq : s1.qPart q = p)
    (hw : s1.works (p) = true) (hp : ∀ b ∈ s1.strain.bundles, b.placed = true)
    (hc : s1.intakeCmd q isProbe (!words.isEmpty) = some c) (ha : (State.bundleFrom env (p) q words s1 c).advanced q c = true) :
    exec (.bundleAdmit q words env) s = .next (State.bundleFrom env (p) q words s1 c) := by
  subst hq
  obtain ⟨rest, hrest⟩ := List.head?_eq_some_iff.1 hc
  have hr : s1.ready = true := by
    rw [State.works, Bool.and_eq_true, Bool.and_eq_true] at hw
    exact hw.1.1
  show execBundleAdmit q words env s = _
  simp only [execBundleAdmit, hs1, hr, State.placeForeign_placed env _ hp, ite_self, hw, hrest, State.intakeTry, ha, Bool.not_true, Bool.false_eq_true,
    if_false, if_true]

/-- Slots of the bundle that a word heads. -/
def headSlots (w : Slot64) : Nat := if headSized w then slotsOfHead w else 1

theorem State.bundleFrom_memory {s : State} {env : Env} {p : PartId} {q : QueueId} {c : Cmd} {w : Slot64} {bs : List Byte} (ho : s.orderTurn q c = true)
    (ha : env.hw.addr = false) (hv : s.vslot p c.intakeAt = .ok w) (hr : s.vread p c.intakeAt (64 * headSlots w) = .ok bs) :
    State.bundleFrom env p q [] s c = s.takeBundle env p c ⟨q, c.seq⟩ (slotsOf (headSlots w + 1) bs) := by
  rw [headSlots] at hr
  simp only [State.bundleFrom, ho, ha, hv, hr, Bool.not_true, Bool.false_eq_true, if_false]
  rfl

theorem State.bundleFrom_port {s : State} {env : Env} {p : PartId} {q : QueueId} {c : Cmd} {w : Slot64} {ws : List Slot64} (ho : s.orderTurn q c = true)
    (hl : s.portLive (srcPort c.raw) = true) (hc : s.hasCredit (srcPort c.raw) .vector (headSlots w) = true) (hn : headSlots w ≤ (w :: ws).length)
    (ha : (s.takeBundle env p c ⟨q, c.seq⟩ ((w :: ws).take (headSlots w))).advanced q c = true) :
    State.bundleFrom env p q (w :: ws) s c
      = (s.takeBundle env p c ⟨q, c.seq⟩ ((w :: ws).take (headSlots w))).useCredit (srcPort c.raw) .vector (headSlots w) := by
  rw [headSlots] at hc hn ha ⊢
  simp only [State.bundleFrom, ho, hl, hc, decide_eq_true hn, ha, State.doIf, Bool.not_true, Bool.or_true, Bool.and_self, Bool.false_eq_true, if_false,
    if_true]

theorem State.advanced_useCredit (s : State) (o : PortId) (n : Net) (k : Nat) (q : QueueId) (c : Cmd) :
    (s.useCredit o n k).advanced q c = s.advanced q c := by
  have hq := Comp.same_queues (State.useCredit_frame s o n k _ (by decide))
  rw [State.advanced, State.advanced, State.cmd?, State.cmd?, State.queue_congr hq]

/-! ## Packs of one operation -/

theorem State.residentRun_same {s : State} {p : PartId} {va n : Nat} {c : FaultCtx} (h : (s.residentRun p va n c).1 = true) :
    s.residentRun p va n c = (true, s) := by
  refine Prod.ext h ?_
  rw [State.residentRun] at h ⊢
  split at h
  next hc =>
    rw [if_pos hc]
    exact State.resident_same h
  next hc =>
    have h1 : (s.resident p va c).1 = true := by
      rw [Bool.or_eq_true, not_or] at hc
      simpa using hc.1
    rw [if_neg hc, State.resident_same h, State.resident_same h1]

section
variable {s : State} {k : Pack} {w : HWait} {o : ProbeOp} (hk : k.items = [w]) (ho : w.item = .op o)
include hk ho

/-- A pack whose bundle no error has ended stands whole. -/
theorem State.standingOps_one {b : Bundle} (hb : s.bundle? o.bundle = some b) (h0 : b.status = 0) : s.standingOps k = k := by
  have hw : ({ k with items := [w] } : Pack) = k := by rw [← hk]
  rw [State.standingOps, hk, List.filter_cons_of_pos (by simp only [ho, hb, h0, decide_true]), List.filter_nil, hw]

theorem State.packOps_one (f : State → HWait → ProbeOp → State) : s.packOps f k = f s w o := by
  simp only [State.packOps, hk, List.foldl_cons, List.foldl_nil, ho]

theorem State.packGroups_one (f : State → Nat → Nat → State) : s.packGroups f k = s := by
  simp only [State.packGroups, hk, List.foldl_cons, List.foldl_nil, ho]

end

theorem State.tuTake_part (s : State) (tu : TuId) (k : Pack) (p : PartId) : (s.tuTake tu k).part p = s.part p :=
  State.part_congr (Comp.same_parts (State.tuTake_frame s tu k _ (by decide))) p

/-! ## BOUND (R203 to R209) -/

section
variable {s : State} {env : Env} {tu : TuId} {k : Pack} {w : HWait} {o : ProbeOp} {b : Bundle} (hp : ((s.at env.t).tuPlace tu).isSome = true)
  (hk : k.items = [w]) (ho : w.item = .op o) (hb : ((s.at env.t).tuTake tu k).bundle? o.bundle = some b) (h0 : b.status = 0)
  (ha : env.hw.addr = false) (hw : env.hw.words = [])
include hp hk ho hb h0 ha hw

/-- A BOUND of one bundle is its operation, once the pack has left its TU's queue. -/
theorem exec_bound_one (hn : (s.at env.t).tuNext tu [2] = some k) :
    exec (.bound tu .ok env) s = .next (((s.at env.t).tuTake tu k).boundOp env tu k w o) := by
  have hp' : ((s.at env.t).tuPlace tu).isNone = false := by rw [← Option.not_isSome, hp]; rfl
  show execBound tu .ok env s = _
  simp only [execBound, hp', hn, hw, State.bundleWords, List.foldl_nil, State.standingOps_one hk ho hb h0, ha, Bool.false_eq_true, if_false,
    State.packOps_one hk ho]

/-- A SCORE of one bundle is its operation, once the pack has left its TU's queue; what it found of R259 is reported. -/
theorem exec_score_one (hn : (s.at env.t).tuNext tu [3] = some k) :
    exec (.score tu .ok env) s = .next ((((s.at env.t).tuTake tu k).scoreOp env tu k w o).flushInvs k.part) := by
  have hp' : ((s.at env.t).tuPlace tu).isNone = false := by rw [← Option.not_isSome, hp]; rfl
  show execScore tu .ok env s = _
  simp only [execScore, hp', hn, hw, State.bundleWords, List.foldl_nil, State.standingOps_one hk ho hb h0, ha, Bool.false_eq_true, if_false,
    State.packOps_one hk ho, State.packGroups_one hk ho]

end

/-- A bundle with its projection records (R204, R234). -/
def Bundle.projectedTo (b : Bundle) (pr : List Proj) : Bundle := { b with proj := pr, unbounded := pr.any (fun x => !isFin32 x.eps) }

/-- The bundle's projection records are formed, and UNBOUNDED noted in its partition (R234). -/
def State.noteProjected (s : State) (b : Bundle) (pr : List Proj) : State :=
  (s.updBundle b.head (fun x => x.projectedTo pr)).updPart b.part (fun x => { x with unbounded := x.unbounded || pr.any (fun x => !isFin32 x.eps) })

/-- The result of a BOUND against the node in `v` (R205 to R208). -/
def State.boundResult (s : State) (b : Bundle) (o : ProbeOp) (e : FEntry) (pr : List Proj) (v : Nat) : BoundRes :=
  ⟨o.id, boundKids (b.projectedTo pr) (s.queryRows (b.projectedTo pr)).1 v e.taken o.alive, false, false⟩

theorem State.noteProjected_queryRows (s : State) (b c : Bundle) (pr : List Proj) : (s.noteProjected b pr).queryRows c = s.queryRows c :=
  State.queryRows_congr (by rw [State.noteProjected, State.updPart_kennel, State.updBundle_kennel]) c

theorem State.boundOp_tests {s : State} {env : Env} {tu : TuId} {k : Pack} {w : HWait} {o : ProbeOp} {b : Bundle} {e : FEntry} {pr : List Proj} {v : Nat}
    (hb : s.bundle? o.bundle = some b) (he : b.frontier.find? (fun e => e.busy == some o.id) = some e)
    (hr : (s.residentRun b.part (b.desc.base + 640 * childIdx o.child) 640 (s.itemCtx (.op o) tu.val)).1 = true)
    (hp : s.projected b = .ok pr) (hv : s.vnum b.part (b.desc.base + 640 * childIdx o.child) 640 = .ok v) :
    s.boundOp env tu k w o = (s.noteProjected b pr).updBundle b.head (fun x => { x with boundRes := x.boundRes ++ [s.boundResult b o e pr v] }) := by
  have hq := State.noteProjected_queryRows s b (b.projectedTo pr) pr
  simp only [State.noteProjected, Bundle.projectedTo] at hq
  simp only [State.boundOp, hb, he, State.residentRun_same hr, Bool.not_true, Bool.false_eq_true, if_false, hp, hv, hq]
  rfl

theorem State.noteProjected_bundle {s : State} {h : Nat} {b : Bundle} (hb : s.bundle? h = some b) (pr : List Proj) :
    (s.noteProjected b pr).bundle? h = some (b.projectedTo pr) := by
  rw [State.noteProjected, State.bundle?_congr (State.updPart_strain _ _ _), State.bundle?_head hb]
  exact State.bundle?_updBundle hb (fun _ => rfl)

/-! ## SCORE (R214 to R216) -/

/-- The keys of leaf `j` in the words `kn` and `sn` of its rows and scales. -/
def leafKeys (d : Desc) (j kn sn : Nat) : List (Nat × List Val × List Nat) :=
  ((List.range 32).filter (fun i => decide (32 * j + i < d.keyCount))).map (fun i =>
    (32 * j + i, rowVals d.kfmt d.dim (kn / 256 ^ (d.dim * (elemBytes d.kfmt).getD 1 * i)), rowScales d.kfmt d.dim (sn / 256 ^ (d.dim / 32 * i))))

/-- The scores of a bundle's queries alive in an operation against those keys. -/
def State.scoresOf (s : State) (b : Bundle) (o : ProbeOp) (kn sn : Nat) : List (Nat × Nat × Sigma) :=
  (List.range b.q).flatMap (fun n => if bit o.alive n then leafScores b (s.queryRows b).1 ((s.queryRows b).2.getD n ([], [])) n
    (leafKeys b.desc (childIdx o.child) kn sn) else [])

/-- The result that the Strainer is given (R215, R216). -/
def scoreResult (o : ProbeOp) (l : List (Nat × Nat × Sigma)) : ScoreRes :=
  ⟨o.id, l.map (fun x => (x.1, ⟨x.2.1, x.2.2.hi, x.2.2.lo, 0⟩)),
    (l.filter (fun x => isNan32 x.2.2.hi)).foldl (fun (w : W32) x => setBit w x.1 true) 0, false, o.alive, false⟩

/-- The row's length in bytes, the bytes of a leaf's scales and where they lie. -/
def rowBytes (d : Desc) : Nat := d.dim * (elemBytes d.kfmt).getD 1
def scaleBytes (d : Desc) : Nat := if (elemBytes d.kfmt).getD 1 = 1 then d.dim else 0
def scaleVa (d : Desc) (j : Nat) : Nat := d.scaleAddr + 32 * j * (d.dim / 32)

theorem State.scoreOp_bundle {s : State} {env : Env} {tu : TuId} {k : Pack} {w : HWait} {o : ProbeOp} {b : Bundle} {kn sn : Nat}
    (hb : s.bundle? o.bundle = some b)
    (hr : (s.residentRun b.part (b.desc.leafVa (childIdx o.child)) (32 * rowBytes b.desc) (s.itemCtx (.op o) tu.val)).1 = true)
    (hs : scaleBytes b.desc ≠ 0 →
      (s.residentRun b.part (scaleVa b.desc (childIdx o.child)) (scaleBytes b.desc) (s.itemCtx (.op o) tu.val)).1 = true)
    (hkn : s.vnum b.part (b.desc.leafVa (childIdx o.child)) (32 * rowBytes b.desc) = .ok kn)
    (hsn : s.vnum b.part (scaleVa b.desc (childIdx o.child)) (scaleBytes b.desc) = .ok sn) :
    (s.scoreOp env tu k w o).bundle? o.bundle = some { b with scoreRes := b.scoreRes ++ [scoreResult o (s.scoresOf b o kn sn)] } := by
  simp only [rowBytes, scaleBytes, scaleVa] at hr hs hkn hsn
  have e1 := State.residentRun_same hr
  have e2 : (if (!true || decide ((if (elemBytes b.desc.kfmt).getD 1 = 1 then b.desc.dim else 0) = 0)) = true then (true, s)
      else s.residentRun b.part (b.desc.scaleAddr + 32 * childIdx o.child * (b.desc.dim / 32))
        (if (elemBytes b.desc.kfmt).getD 1 = 1 then b.desc.dim else 0) (s.itemCtx (.op o) tu.val)) = (true, s) := by
    refine ite_eq_left_iff.2 (fun hn => State.residentRun_same (hs (fun h0 => hn ?_)))
    rw [h0]
    rfl
  simp only [State.scoreOp, hb, e1]
  simp only [e2]
  simp only [hkn, hsn, Bool.not_true, Bool.false_eq_true, if_false]
  rw [State.bundle?_congr (Comp.same_strain (State.bufferAdd_frame _ tu b.head _ (by decide)))]
  conv_lhs => rw [State.bundle?_head hb]
  refine (State.bundle?_updBundle (b := b) ?_ ?_).trans ?_
  on_goal 3 => rfl
  on_goal 2 => exact fun _ => rfl
  rw [State.bundle?_congr (Comp.same_strain (State.pushInvs_frame _ _ _ (by decide))),
    State.bundle?_congr (Comp.same_strain (State.fpOverflows_frame _ _ _ _ (by decide))), hb]

/-! ## BOUND_RETURN and HEAP_MERGE (R210, R213, R216) -/

section
variable {s : State} {h : Nat} {env : Env} {b : Bundle} (hb : (s.at env.t).bundle? h = some b) (hw : (s.at env.t).works b.part = true)
  (hd : b.state ≠ .done)
include hb hw hd

theorem exec_boundReturn : exec (.boundReturn h env) s = .next (((s.at env.t).takeBound h).goOn env h) := by
  show execBoundReturn h env s = _
  simp only [execBoundReturn, hb, hw, Bool.not_true, Bool.false_eq_true, if_false, if_neg hd]

theorem exec_heapMerge : exec (.heapMerge h .ok env) s = .next (((s.at env.t).takeScore h).goOn env h) := by
  show execHeapMerge h .ok env s = _
  simp only [execHeapMerge, hb, hw, Bool.not_true, Bool.false_eq_true, if_false, if_neg hd]

end

/-- The frontier once the result of an operation is taken (R210). -/
def Bundle.frontierAfter (b : Bundle) (x : BoundRes) : List FEntry :=
  match b.frontier.find? (fun e => e.busy == some x.op) with
  | none => b.frontier
  | some e => insertKids (decide (b.solo = some x.op)) b.frontier e x.kids

/-- A bundle whose oldest BOUND result the Strainer has taken. -/
def Bundle.boundTaken (b : Bundle) (x : BoundRes) (r : List BoundRes) : Bundle :=
  let al := match b.inflight.find? (fun o => o.id == x.op) with | some o => o.alive | none => 0
  { (if x.nonres then b.mark al qsNonres else b) with
    boundRes := r, inflight := b.inflight.filter (fun o => o.id != x.op), frontier := b.frontierAfter x
    solo := if b.solo = some x.op then none else b.solo }

theorem Bundle.boundTaken_head (b : Bundle) (x : BoundRes) (r : List BoundRes) : (b.boundTaken x r).head = b.head := by
  unfold Bundle.boundTaken
  cases x.nonres <;> rfl

theorem Bundle.boundTaken_heaps (b : Bundle) (x : BoundRes) (r : List BoundRes) : (b.boundTaken x r).heaps = b.heaps := by
  unfold Bundle.boundTaken
  cases x.nonres <;> rfl

theorem State.takeBound_eq {s : State} {h : Nat} {b : Bundle} {x : BoundRes} {r : List BoundRes} (hb : s.bundle? h = some b)
    (hx : b.boundRes = x :: r) :
    s.takeBound h = (s.updBundle h (fun _ => b.boundTaken x r)).doIf (decide (b.frontier.length < 56) && decide (56 ≤ (b.frontierAfter x).length))
      (·.updPart b.part (fun y => { y with tight := satInc y.tight })) := by
  simp only [State.takeBound, hb, hx]
  rfl

theorem State.bundle?_replaced {s : State} {h : Nat} {b y : Bundle} (hb : s.bundle? h = some b) (hy : y.head = h) :
    (s.updBundle h (fun _ => y)).bundle? h = some y := by
  have key : ((fun x : Bundle => x.head == h) ∘ fun x => if x.head = h then y else x) = fun x => x.head == h := by
    funext x
    simp only [Function.comp]
    split
    next hx => rw [hy, hx]
    next => rfl
  have hh := State.bundle?_head hb
  rw [State.bundle?] at hb ⊢
  simp only [State.updBundle, List.find?_map, key, hb, Option.map_some, if_pos hh]

theorem State.takeBound_bundle {s : State} {h : Nat} {b : Bundle} {x : BoundRes} {r : List BoundRes} (hb : s.bundle? h = some b)
    (hx : b.boundRes = x :: r) : (s.takeBound h).bundle? h = some (b.boundTaken x r) := by
  rw [State.takeBound_eq hb hx, State.bundle?_congr (State.doIf_keeps (·.strain) _ _ _ (fun z => State.updPart_strain z _ _))]
  exact State.bundle?_replaced hb ((b.boundTaken_head x r).trans (State.bundle?_head hb))

/-- A bundle whose SCORE result `x` the Strainer has taken, `r` staying. -/
def Bundle.scoreTakenOf (b : Bundle) (x : ScoreRes) (r : List ScoreRes) : Bundle :=
  let b1 := (mergeCands b x.cands).mark x.invalid qsInvalid
  { (if x.nonres then b1.mark x.alive qsNonres else b1) with
    scoreRes := r, inflight := b.inflight.filter (fun o => o.id != x.op),
    frontier := b.frontier.filter (fun e => e.busy != some x.op), solo := if b.solo = some x.op then none else b.solo }

theorem Bundle.scoreTakenOf_head (b : Bundle) (x : ScoreRes) (r : List ScoreRes) : (b.scoreTakenOf x r).head = b.head := by
  unfold Bundle.scoreTakenOf
  cases x.nonres <;> rfl

theorem Bundle.scoreTakenOf_heaps (b : Bundle) (x : ScoreRes) (r : List ScoreRes) : (b.scoreTakenOf x r).heaps
    = x.cands.foldl (fun hs c => hs.set c.1 (heapInsert b.nanRank b.k (hs.getD c.1 []) c.2)) b.heaps := by
  unfold Bundle.scoreTakenOf
  cases x.nonres <;> rfl

/-- A bundle whose oldest SCORE result, if any, the Strainer has taken. -/
def Bundle.scoreTaken (b : Bundle) : Bundle :=
  match b.scoreRes with
  | [] => b
  | x :: r => b.scoreTakenOf x r

theorem Bundle.scoreTaken_head (b : Bundle) : b.scoreTaken.head = b.head := by
  unfold Bundle.scoreTaken
  split
  · rfl
  · exact b.scoreTakenOf_head _ _

theorem Bundle.scoreTaken_eq {b : Bundle} {x : ScoreRes} {r : List ScoreRes} (hx : b.scoreRes = x :: r) : b.scoreTaken = b.scoreTakenOf x r := by
  rw [Bundle.scoreTaken, hx]

theorem State.takeScore_bundle {s : State} {h : Nat} {b : Bundle} (hb : s.bundle? h = some b) : (s.takeScore h).bundle? h = some b.scoreTaken :=
  State.bundle?_updBundle (f := Bundle.scoreTaken) hb Bundle.scoreTaken_head

/-- Settles O37: each row's equation, and what it makes of its bundle. -/
theorem bundlesAreBoundedAndScored : Obligations.BundlesAreBoundedAndScored := by
  intro env s s1
  refine ⟨fun q c hw hpl ho => ⟨?_, ?_⟩, fun tu k w o b e hp hk hi hb h0 ha hws => ⟨fun hn he pr v hr hpr hv => ?_, fun hn kn sn hr hs hkn hsn => ?_⟩,
    fun h b hb hw hd => ⟨fun x r hx => ?_, fun x r hx => ?_⟩⟩
  · intro w bs hc hv n t hr ht haddr
    have hx := State.bundleFrom_memory ho haddr hv hr
    rw [exec_bundleAdmit (s1 := s1) (p := s.qPart q) (words := []) rfl rfl hw hpl hc (by rw [hx]; exact ht), hx]
    rfl
  · intro w ws port n t hc hl hcr hn ht
    have hx := State.bundleFrom_port (env := env) ho hl hcr hn ht
    rw [exec_bundleAdmit (s1 := s1) (p := s.qPart q) (words := w :: ws) rfl rfl hw hpl hc (by rw [hx, State.advanced_useCredit]; exact ht), hx]
    rfl
  · refine ⟨_, exec_bound_one hp hk hi hb h0 ha hws hn, ?_, ?_⟩ <;> rw [State.boundOp_tests hb he hr hpr hv]
    · conv_lhs => rw [State.bundle?_head hb]
      exact State.bundle?_updBundle (State.noteProjected_bundle hb pr) (fun _ => rfl)
    · rw [State.part_congr (State.updBundle_parts _ _ _), State.noteProjected, State.part_updPart, State.part_congr (State.updBundle_parts _ _ _),
        State.tuTake_part]
      rfl
  · refine ⟨_, exec_score_one hp hk hi hb h0 ha hws hn, ?_⟩
    rw [State.bundle?_congr (Comp.same_strain (State.flushInvs_frame _ k.part _ (by decide)))]
    exact State.scoreOp_bundle hb hr hs hkn hsn
  · exact ⟨exec_boundReturn hb hw hd, _, State.takeBound_bundle hb hx, rfl, rfl, rfl, b.boundTaken_heaps x r⟩
  · exact ⟨exec_heapMerge hb hw hd, b.scoreTakenOf x r, by rw [State.takeScore_bundle hb, Bundle.scoreTaken_eq hx], rfl, rfl, rfl, b.scoreTakenOf_heaps x r⟩

end Sys2Proof.Machine
end

section
/-!
KEEPALIVE, KEEPALIVE_TIMER, KEEPALIVE_LOST, CREDIT_RETURN and CREDIT_RETURN_TIMER (R87, R377, R379, R411, R416).
-/

namespace Sys2Proof.Machine
open Sys2Proof

/-! ## A timer that acts leaves the sessions (R379, R400) -/

/-- What a timer that acts changes: the time, interrupts, partitions, memory, the Steep lists and the trace. -/
theorem State.fire_blank (s : State) (tm : Timer) (t : Nat) : blank 0x600024000C#48 (s.fire tm t) = blank 0x600024000C#48 s :=
  State.fire_frame s tm t _ (by decide)

theorem State.fire_sess (s : State) (tm : Timer) (t : Nat) (l : LinkId) : (s.fire tm t).sess l = s.sess l := by
  have h := congrArg (State.sess · l) (s.fire_blank tm t)
  exact h

theorem State.fire_links (s : State) (tm : Timer) (t : Nat) : (s.fire tm t).pins.links = s.pins.links := by
  have h := congrArg (·.pins.links) (s.fire_blank tm t)
  exact h

theorem State.fire_hdr (s : State) (tm : Timer) (t : Nat) (id : W32) (sub : W16) (dest : ChipId) : (s.fire tm t).hdr id sub dest = s.hdr id sub dest := by
  have h := congrArg (State.hdr · id sub dest) (s.fire_blank tm t)
  exact h

theorem State.fire_leashesOn (s : State) (tm : Timer) (t : Nat) (l : LinkId) : (s.fire tm t).leashesOn l = s.leashesOn l := by
  have h := congrArg (State.leashesOn · l) (s.fire_blank tm t)
  exact h

theorem State.fire_grantable (s : State) (tm : Timer) (t : Nat) (c : Credits) : (s.fire tm t).grantable c = s.grantable c := by
  have h := congrArg (State.grantable · c) (s.fire_blank tm t)
  exact h

/-! ## A message that leaves (R379) -/

theorem State.emit_links (s : State) (l : LinkId) (h : MsgHdr) (b : MsgBody) : (s.emit l h b).pins.links = s.pins.links ++ [(l, h, b)] := by
  unfold State.emit
  split <;> rfl

theorem State.emit_sess (s : State) (l : LinkId) (h : MsgHdr) (b : MsgBody) (k : LinkId) : (s.emit l h b).sess k = s.sess k :=
  State.sess_congr (Comp.same_sess (State.emit_frame s l h b _ (by decide))) k

theorem State.emit_waiting (s : State) (l : LinkId) (h : MsgHdr) (b : MsgBody) : (s.emit l h b).fwd.waiting = s.fwd.waiting := by
  unfold State.emit
  split <;> rfl

/-! ## A message that arrives (R368, R379) -/

theorem State.headerSeen_blank (s : State) (l : LinkId) (lo : Byte) (t : Nat) :
    blank 0x210000000C#48 ((s.at t).headerSeen l lo) = blank 0x210000000C#48 s := by
  simp [State.headerSeen]

theorem State.headerSeen_carries (s : State) (l : LinkId) (lo : Byte) (t : Nat) : ((s.at t).headerSeen l lo).carries l = s.carries l := by
  have h := congrArg (State.carries · l) (s.headerSeen_blank l lo t)
  exact h

theorem State.headerSeen_sess (s : State) (l : LinkId) (lo : Byte) (t : Nat) : ((s.at t).headerSeen l lo).sess l = s.sess l := by
  have h := congrArg (State.sess · l) (s.headerSeen_blank l lo t)
  exact h

theorem State.headerSeen_now (s : State) (l : LinkId) (lo : Byte) (t : Nat) : ((s.at t).headerSeen l lo).pins.now = max s.pins.now t := by
  have h : blank 0x2100000008#48 ((s.at t).headerSeen l lo) = blank 0x2100000008#48 (s.at t) := by simp [State.headerSeen]
  have h' := congrArg (·.pins.now) h
  exact h'

/-! ## Credit that comes back (R377) -/

/-- A CREDIT_RETURN has arrived and its credit is in the pools; what waits has not been tried yet. -/
def State.credited (s : State) (l : LinkId) (lo : Byte) (c : Credits) (t : Nat) : State :=
  (((s.at t).headerSeen l lo).heard l).updSess l (fun x => { x with credit := x.credit.add c })

theorem State.credited_sess (s : State) (l : LinkId) (lo : Byte) (c : Credits) (t : Nat) :
    (s.credited l lo c t).sess l = { s.sess l with credit := (s.sess l).credit.add c } := by
  rw [State.credited, State.sess_updSess, State.sess_congr (Comp.same_sess (State.heard_frame _ l _ (by decide))), State.headerSeen_sess]

theorem State.credited_blank (s : State) (l : LinkId) (lo : Byte) (c : Credits) (t : Nat) :
    blank 0x230000000C#48 (s.credited l lo c t) = blank 0x230000000C#48 s := by
  simp [State.credited, State.headerSeen]

theorem State.credited_kept (s : State) (l : LinkId) (lo : Byte) (c : Credits) (t : Nat) :
    (s.credited l lo c t).pins.links = s.pins.links ∧ (s.credited l lo c t).fwd.waiting = s.fwd.waiting := by
  have h := congrArg (fun x : State => (x.pins.links, x.fwd.waiting)) (s.credited_blank l lo c t)
  exact ⟨congrArg Prod.fst h, congrArg Prod.snd h⟩

theorem exec_creditReturn {s : State} {l : LinkId} (hc : s.carries l = true) (lo : Byte) (c : Credits) (t : Nat) :
    exec (.creditReturn l lo c t) s = .next ((s.credited l lo c t).sendWaiting l) := by
  show execCreditReturn l lo c t s = _
  rw [execCreditReturn, if_pos ((s.headerSeen_carries l lo t).trans hc)]
  rfl

/-- Where nothing waits on a link nothing is tried. -/
theorem State.sendWaiting_none {s : State} {l : LinkId} (h : ∀ w ∈ s.fwd.waiting, w.1 ≠ l) : s.sendWaiting l = s := by
  have hn : s.fwd.waiting.filter (fun x => decide (x.1 = l)) = [] := List.filter_eq_nil_iff.2 (fun w hw => by simpa using h w hw)
  have hs : s.fwd.waiting.filter (fun x => decide (x.1 ≠ l)) = s.fwd.waiting := List.filter_eq_self.2 (fun w hw => decide_eq_true (h w hw))
  rw [State.sendWaiting, hn, hs]
  rfl

/-- The state with no message waiting. -/
def State.noWaiting (s : State) : State := { s with fwd := { s.fwd with waiting := [] } }

/-- The one message that waits is tried. -/
theorem State.sendWaiting_one {s : State} {l : LinkId} {h : MsgHdr} {b : MsgBody} (hw : s.fwd.waiting = [(l, h, b)]) :
    s.sendWaiting l = s.noWaiting.send l h b := by
  have hn : s.fwd.waiting.filter (fun x => decide (x.1 = l)) = [(l, h, b)] := by rw [hw]; simp
  have hs : s.fwd.waiting.filter (fun x => decide (x.1 ≠ l)) = [] := by rw [hw]; simp
  rw [State.sendWaiting, hn, hs]
  rfl

/-- A message whose class waits nowhere goes out against its credit on a session that is UP (R377, R379). -/
theorem State.send_within {s : State} {l : LinkId} {h : MsgHdr} {b : MsgBody} (hu : (s.sess l).state = ssUp)
    (hc : (creditCost (s.sess l).peer h b).within (s.sess l).credit = true) (hw : s.fwd.waiting = []) : s.send l h b = s.sendNow l h b := by
  rw [State.send, if_pos (by simp [State.canSend, hu, hc, hw])]

/-- A message without credit waits (R377). -/
theorem State.send_beyond {s : State} {l : LinkId} {h : MsgHdr} {b : MsgBody} (hc : (creditCost (s.sess l).peer h b).within (s.sess l).credit = false) :
    s.send l h b = { s with fwd := { s.fwd with waiting := s.fwd.waiting ++ [(l, h, b)] } } := by
  rw [State.send, if_neg (by simp [State.canSend, hc])]

theorem State.sendNow_sess (s : State) (l : LinkId) (h : MsgHdr) (b : MsgBody) :
    (s.sendNow l h b).sess l = { s.sess l with credit := (s.sess l).credit.sub (creditCost (s.sess l).peer h b) } := by
  rw [State.sendNow, State.emit_sess, State.sess_updSess]

/-! ## The timers (R377, R379) -/

theorem exec_keepalive {s : State} {l : LinkId} (hc : s.carries l = true) (lo : Byte) (t : Nat) :
    exec (.keepalive l lo t) s = .next (((s.at t).headerSeen l lo).heard l) := by
  show execKeepalive l lo t s = _
  rw [execKeepalive, if_pos ((s.headerSeen_carries l lo t).trans hc)]

section
variable {s : State} {l : LinkId} {t : Nat} (ha : s.active = true)
include ha

theorem exec_keepaliveTimer (ht : s.timerFires (.keepTx l) t = true) (hu : (s.sess l).state = ssUp) :
    exec (.keepaliveTimer l t) s = .next ((s.fire (.keepTx l) t).emit l (s.hdr 0 0 (s.sess l).peer) .keepalive) := by
  show execKeepaliveTimer l t s = _
  simp only [execKeepaliveTimer, ha, ht, Bool.and_self, if_true, State.fire_sess, hu, State.fire_hdr]

theorem exec_keepaliveLost (ht : s.timerFires (.keepRx l) t = true) (hu : (s.sess l).state = ssUp) :
    exec (.keepaliveLost l t) s = .next ((s.fire (.keepRx l) t).loseSess (s.fire (.keepRx l) t).env0 l rsKeepalive) := by
  show execKeepaliveLost l t s = _
  simp only [execKeepaliveLost, ha, ht, hu, decide_true, Bool.and_self, if_true]

theorem exec_creditReturnTimer (ht : s.timerFires (.creditRet l) t = true) :
    exec (.creditReturnTimer l t) s = .next ((s.fire (.creditRet l) t).payBack l) := by
  show execCreditReturnTimer l t s = _
  rw [execCreditReturnTimer, if_pos (by rw [ha, ht]; rfl)]

end

/-- The session whose peer has been silent is DOWN, with nothing of it left (R379, R392). -/
theorem State.downSess_is (s : State) (l : LinkId) (reason : BitVec 4) : (s.downSess l reason).sess l
    = { s.sess l with state := ssDown, reason := reason, tries := 0, credit := noCredits, owed := noCredits, granted := 0,
                      doneSent := false, doneSeen := false, settled := true } := by
  rw [State.downSess, State.dropWaiting_sess, State.sess_updSess, State.quietLink_sess]

/-- A session lost in UP raises vector 4, ends the commands that wait on it and loses the owners behind it (R379, R384). -/
theorem State.loseSess_up {s : State} {l : LinkId} (hu : (s.sess l).state = ssUp) (env : Env) (reason : BitVec 4) :
    s.loseSess env l reason = ((((((s.downSess l reason).irqBlock 4).endCmds l false stSessionFail).endCmds l true stOk).loseOwners env
      (s.leashesOn l)).ringFailed l).boot9 := by
  simp only [State.loseSess, State.dropSess, hu, decide_true]
  rfl

/-! ## Credit owed (R377, R411, R416) -/

/-- What is owed to a link's peer has gone out but for what is withheld; the timer for the rest does not run yet. -/
def State.repaid (s : State) (l : LinkId) : State :=
  let out := s.grantable (s.sess l).owed
  let s1 := (s.timerDel (.creditRet l)).updSess l (fun x => { x with owed := (s.sess l).owed.sub out, granted := x.granted + out.qEnd })
  if out = noCredits then s1 else s1.emit l (s.hdr 0 0 (s.sess l).peer) (.creditReturn out)

theorem State.payBack_eq (s : State) (l : LinkId) : s.payBack l
    = if (s.sess l).owed.sub (s.grantable (s.sess l).owed) = noCredits then s.repaid l
      else (s.repaid l).timerAdd (.creditRet l) (s.pins.now + 1000) := rfl

theorem State.payBack_links (s : State) (l : LinkId) : let out := s.grantable (s.sess l).owed
    (s.payBack l).pins.links = if out = noCredits then s.pins.links else s.pins.links ++ [(l, s.hdr 0 0 (s.sess l).peer, .creditReturn out)] := by
  have hr : (s.payBack l).pins.links = (s.repaid l).pins.links := by
    rw [State.payBack_eq]
    split <;> rfl
  by_cases h : s.grantable (s.sess l).owed = noCredits
  · simp only [hr, State.repaid, if_pos h]
    rfl
  · simp only [hr, State.repaid, if_neg h, State.emit_links]
    rfl

theorem State.payBack_sess (s : State) (l : LinkId) : let out := s.grantable (s.sess l).owed
    (s.payBack l).sess l = { s.sess l with owed := (s.sess l).owed.sub out, granted := (s.sess l).granted + out.qEnd } := by
  have hr : (s.payBack l).sess l = (s.repaid l).sess l := by
    rw [State.payBack_eq]
    split
    · rfl
    · exact State.timerAdd_sess ..
  rw [hr, State.repaid]
  split
  · rw [State.sess_updSess, State.timerDel_sess]
  · rw [State.emit_sess, State.sess_updSess, State.timerDel_sess]

/-- Settles O40: what arrives on a session, the credit that lets what waits go, the two timers and what a session owes. -/
theorem keepalivesAndCreditServeTheSession : Obligations.KeepalivesAndCreditServeTheSession := by
  intro l lo t s x a went
  refine ⟨fun hc => ⟨?_, fun c hn => ?_, fun c h b hw => ?_⟩, fun ha => ⟨fun ht hu => ?_, fun ht hu => ?_, fun ht => ?_⟩⟩
  · rw [exec_keepalive hc, State.heard, State.headerSeen_sess, State.headerSeen_now]
  · obtain ⟨hl, hq⟩ := s.credited_kept l lo c t
    refine ⟨_, exec_creditReturn hc lo c t, ?_⟩
    rw [State.sendWaiting_none (by rw [hq]; exact hn)]
    exact ⟨s.credited_sess l lo c t, hl, hq⟩
  · obtain ⟨u, hu', hl, hq, hs⟩ : ∃ u, u = s.credited l lo c t ∧ u.pins.links = s.pins.links ∧ u.fwd.waiting = s.fwd.waiting
        ∧ u.sess l = { x with credit := x.credit.add c } := ⟨_, rfl, (s.credited_kept l lo c t).1, (s.credited_kept l lo c t).2, s.credited_sess l lo c t⟩
    have hn : u.noWaiting.sess l = { x with credit := x.credit.add c } := hs
    refine ⟨fun hin hu => ⟨_, exec_creditReturn hc lo c t, ?_⟩, fun hout => ⟨_, exec_creditReturn hc lo c t, ?_⟩⟩ <;>
      rw [← hu', State.sendWaiting_one (hq.trans hw)]
    · rw [State.send_within (by rw [hn]; exact hu) (by rw [hn]; exact hin) rfl, State.sendNow_sess, hn]
      exact ⟨State.emit_waiting .., (State.emit_links ..).trans (by rw [← hl]; rfl), rfl⟩
    · rw [State.send_beyond (by rw [hn]; exact hout)]
      exact ⟨rfl, hl, hs⟩
  · refine ⟨_, exec_keepaliveTimer ha ht hu, ?_, ?_⟩
    · exact (State.emit_links ..).trans (by rw [State.fire_links])
    · rw [State.emit_sess, State.fire_sess]
  · refine ⟨?_, ?_⟩
    · rw [exec_keepaliveLost ha ht hu, State.loseSess_up ((s.fire_sess _ t l).symm ▸ hu), State.fire_leashesOn]
    · rw [State.irqBlock_sess, State.downSess_is, State.fire_sess]
  · have hl := (s.fire (.creditRet l) t).payBack_links l
    have hs := (s.fire (.creditRet l) t).payBack_sess l
    simp only [State.fire_sess, State.fire_grantable, State.fire_hdr, State.fire_links] at hl hs
    exact ⟨_, exec_creditReturnTimer ha ht, fun h => hl.trans (if_neg h), fun h => hl.trans (if_pos h), hs⟩

end Sys2Proof.Machine
end

section
/-!
RK_SET_GRPCMD and its operations on single groups (R304, R306, R311).
-/

namespace Sys2Proof.Machine
open Sys2Proof

/-! ## The word of a group command (R306) -/

/-- The group that a group command's CORE and SLOT name. -/
def grpRef (value : W32) : GroupRef := ⟨(fld value 20 4).toFin, (fld value 16 4).toFin⟩

/-- The command with its operation. -/
def grpWord (value op : W32) : W32 := (value &&& ~~~0xF#32) ||| op

section
variable {op : W32} (h : op.toNat < 16) (value : W32)
include h

theorem getLsbD_grpWord_high {i : Nat} (hi : 4 ≤ i) : (grpWord value op).getLsbD i = value.getLsbD i := by
  have ho : op.getLsbD i = false := Nat.testBit_lt_two_pow (Nat.lt_of_lt_of_le (show op.toNat < 2 ^ 4 from h) (Nat.pow_le_pow_right (by decide) hi))
  have hf : (0xF#32).getLsbD i = false := Nat.testBit_lt_two_pow (Nat.lt_of_lt_of_le (show 15 < 2 ^ 4 by decide) (Nat.pow_le_pow_right (by decide) hi))
  rw [grpWord, BitVec.getLsbD_or, BitVec.getLsbD_and, BitVec.getLsbD_not, ho, hf]
  by_cases hw : i < 32
  · simp [hw]
  · simp [BitVec.getLsbD_of_ge value i (by omega)]

theorem grpRef_grpWord : grpRef (grpWord value op) = grpRef value := by
  have hf : ∀ lo, 4 ≤ lo → fld (grpWord value op) lo 4 = fld value lo 4 := by
    intro lo hlo
    ext k hk
    rw [fld, fld, BitVec.getElem_extractLsb', BitVec.getElem_extractLsb', getLsbD_grpWord_high h value (by omega)]
  rw [grpRef, grpRef, hf 20 (by decide), hf 16 (by decide)]

theorem fldN_grpWord : fldN (grpWord value op) 0 4 = op.toNat := by
  have hf : fld (grpWord value op) 0 4 = fld op 0 4 := by
    ext k hk
    have hm : (0xF#32).getLsbD k = true := by
      interval_cases k <;> decide
    rw [fld, fld, BitVec.getElem_extractLsb', BitVec.getElem_extractLsb', Nat.zero_add, grpWord, BitVec.getLsbD_or, BitVec.getLsbD_and,
      BitVec.getLsbD_not, hm]
    simp
  have hn : (fld op 0 4).toNat = op.toNat := by
    rw [fld, BitVec.extractLsb'_toNat, Nat.shiftRight_zero]
    exact Nat.mod_eq_of_lt h
  exact (congrArg BitVec.toNat hf).trans hn

end

/-! ## The operation of a command (R306) -/

/-- What an operation does with the group `x` at `g`. -/
def State.groupOp (s : State) (p : PartId) (g : GroupRef) (x : Group) (op : Nat) (check : Check) : State :=
  match op with
  | 1 => s.haltGroup p g x
  | 2 => s.resumeGroup p g x false
  | 3 => s.resumeGroup p g x true
  | 4 => s.restartGroup p g x
  | 5 => s.endCmd p g x
  | 6 => s.checked g x (s.dbgWord x (s.part p).dbgSpace (s.part p).dbgIndex.toNat).isSome check (·.readGroup p x)
  | 7 => s.checked g x (s.dbgPut g x (s.part p).dbgSpace (s.part p).dbgIndex.toNat 0).isSome check (·.writeGroup p g x)
  | _ => s.badGroupCmd p

/-- No group, or one of another partition: BAD_CMD. -/
theorem State.regGrpCmd_bad {s : State} {p : PartId} {v : W32} (h : ∀ y, s.group? (grpRef v) = some y → y.part ≠ p) (steps : Nat) (check : Check) :
    s.regGrpCmd p v steps check = s.badGroupCmd p := by
  unfold State.regGrpCmd
  extract_lets g
  change ∀ y, s.group? g = some y → y.part ≠ p at h
  cases hg : s.group? g with
  | none => rfl
  | some y => exact if_pos (h y hg)

/-- A group of the partition: the operation, once the spin counter is brought up to date where the operation does so. -/
theorem State.regGrpCmd_own {s u : State} {p : PartId} {v : W32} {x y : Group} {steps : Nat} (hx : s.group? (grpRef v) = some x) (hp : x.part = p)
    (hc : s.countSpin (grpRef v) v steps = u) (hy : u.group? (grpRef v) = some y) (check : Check) :
    s.regGrpCmd p v steps check = u.groupOp p (grpRef v) y (fldN v 0 4) check := by
  subst hc
  unfold State.regGrpCmd
  extract_lets g
  change s.group? g = some x at hx
  change (s.countSpin g v steps).group? g = some y at hy
  rw [hx]
  refine (if_neg (not_not.2 hp)).trans ?_
  rw [hy]
  rfl

/-- Only READ and WRITE bring the spin counter up to date. -/
theorem State.countSpin_other (s : State) (g : GroupRef) {v : W32} (h6 : fldN v 0 4 ≠ 6) (h7 : fldN v 0 4 ≠ 7) (steps : Nat) :
    s.countSpin g v steps = s := by
  unfold State.countSpin
  cases s.group? g with
  | none => rfl
  | some x => exact if_neg (by simp only [Bool.and_eq_true, Bool.or_eq_true, beq_iff_eq, h6, h7, or_self, and_false, not_false_eq_true])

/-- A group that is neither HALTED nor TRAPPED keeps its spin counter. -/
theorem State.countSpin_running {s : State} {g : GroupRef} {x : Group} (hx : s.group? g = some x) (h : ¬ (x.state = .halted ∨ x.state = .trapped))
    (v : W32) (steps : Nat) : s.countSpin g v steps = s := by
  rw [not_or] at h
  simp [State.countSpin, hx, h.1, h.2]

theorem State.countSpin_stopped {s : State} {g : GroupRef} {x : Group} (hx : s.group? g = some x) (h : x.state = .halted ∨ x.state = .trapped)
    {v : W32} (hv : fldN v 0 4 = 6 ∨ fldN v 0 4 = 7) (steps : Nat) : s.countSpin g v steps = s.put g (x.counted steps) := by
  have hs : ((decide (x.state = .halted) || decide (x.state = .trapped)) && (fldN v 0 4 == 6 || fldN v 0 4 == 7)) = true := by
    rcases h with h | h <;> rcases hv with hv | hv <;> rw [h, hv] <;> rfl
  simp only [State.countSpin, hx, hs, if_true]

/-! ## The row of a command -/

/-- A group command that is carried out. -/
theorem State.grpCmdRow_taken {s : State} {req : Requester} {p : PartId} (h : s.takesPage req p) (value op : W32) (steps : Nat) (check : Check) :
    s.grpCmdRow req p value op steps check = ((s.relock req).regGrpCmd p (grpWord value op) steps check).answer .ok :=
  State.busWrite_page s req p false false (fun _ u => u.regGrpCmd p (grpWord value op) steps check) h

theorem State.relock_group? (s : State) (req : Requester) (g : GroupRef) : (s.relock req).group? g = s.group? g := by
  rw [State.relock_eq]
  rfl

theorem State.relock_part (s : State) (req : Requester) (p : PartId) : (s.relock req).part p = s.part p := by
  rw [State.relock_eq]
  rfl

/-- The write with which BAD_CMD is set and nothing else happens (R306). -/
def State.refusesGroup (s : State) (req : Requester) (p : PartId) : State := ((s.relock req).badGroupCmd p).answer .ok

section
variable {s : State} {req : Requester} {p : PartId} {value : W32} (ht : s.takesPage req p)
include ht

theorem State.grpCmdRow_bad (h : ∀ y, s.group? (grpRef value) = some y → y.part ≠ p) {op : W32} (ho : op.toNat < 16) (steps : Nat) (check : Check) :
    s.grpCmdRow req p value op steps check = s.refusesGroup req p := by
  rw [State.grpCmdRow_taken ht, State.regGrpCmd_bad (by rwa [grpRef_grpWord ho, State.relock_group?])]
  rfl

/-- The seven commands of the obligation. -/
theorem exec_groupCommand_bad (h : ∀ y, s.group? (grpRef value) = some y → y.part ≠ p) (steps : Nat) (check : Check) :
    ∀ i ∈ [Instr.halt req p value, .resume req p value, .stepGroup req p value, .restart req p value, .endGroup req p value,
      .groupRead req p value steps check, .groupWrite req p value steps check], exec i s = .next (s.refusesGroup req p) := by
  have hb := fun (op : W32) (ho : op.toNat < 16) n c => congrArg (Host.Outcome.next (φ := Fault) (ρ := Refusal)) (State.grpCmdRow_bad ht h ho n c)
  intro i hi
  simp only [List.mem_cons, List.not_mem_nil, or_false] at hi
  rcases hi with rfl | rfl | rfl | rfl | rfl | rfl | rfl
  · exact hb 1 (by decide) 0 .ok
  · exact hb 2 (by decide) 0 .ok
  · exact hb 3 (by decide) 0 .ok
  · exact hb 4 (by decide) 0 .ok
  · exact hb 5 (by decide) 0 .ok
  · exact hb 6 (by decide) steps check
  · exact hb 7 (by decide) steps check

variable {x : Group} (hx : s.group? (grpRef value) = some x) (hp : x.part = p)
include hx hp

theorem State.grpCmdRow_own {op : W32} (ho : op.toNat < 16) {steps : Nat} {u : State} {y : Group}
    (hc : (s.relock req).countSpin (grpRef value) (grpWord value op) steps = u) (hy : u.group? (grpRef value) = some y) (check : Check) :
    s.grpCmdRow req p value op steps check = (u.groupOp p (grpRef value) y op.toNat check).answer .ok := by
  have hr := grpRef_grpWord ho value
  rw [State.grpCmdRow_taken ht, State.regGrpCmd_own (u := u) (y := y) (by rw [hr, State.relock_group?]; exact hx) hp (by rw [hr]; exact hc) (by rw [hr]; exact hy),
    hr, fldN_grpWord ho]

/-- A command other than READ and WRITE. -/
theorem State.grpCmdRow_plain {op : W32} (ho : op.toNat < 6) (steps : Nat) (check : Check) :
    s.grpCmdRow req p value op steps check = ((s.relock req).groupOp p (grpRef value) x op.toNat check).answer .ok := by
  have hf := fldN_grpWord (op := op) (by omega) value
  exact State.grpCmdRow_own ht hx hp (by omega) (State.countSpin_other _ _ (by omega) (by omega) _) ((s.relock_group? req _).trans hx) check

theorem exec_halt : exec (.halt req p value) s = .next (((s.relock req).haltGroup p (grpRef value) x).answer .ok) :=
  congrArg Host.Outcome.next (State.grpCmdRow_plain ht hx hp (op := 1) (by decide) 0 .ok)

theorem exec_resume : exec (.resume req p value) s = .next (((s.relock req).resumeGroup p (grpRef value) x false).answer .ok) :=
  congrArg Host.Outcome.next (State.grpCmdRow_plain ht hx hp (op := 2) (by decide) 0 .ok)

theorem exec_stepGroup : exec (.stepGroup req p value) s = .next (((s.relock req).resumeGroup p (grpRef value) x true).answer .ok) :=
  congrArg Host.Outcome.next (State.grpCmdRow_plain ht hx hp (op := 3) (by decide) 0 .ok)

theorem exec_restart : exec (.restart req p value) s = .next (((s.relock req).restartGroup p (grpRef value) x).answer .ok) :=
  congrArg Host.Outcome.next (State.grpCmdRow_plain ht hx hp (op := 4) (by decide) 0 .ok)

theorem exec_endGroup : exec (.endGroup req p value) s = .next (((s.relock req).endCmd p (grpRef value) x).answer .ok) :=
  congrArg Host.Outcome.next (State.grpCmdRow_plain ht hx hp (op := 5) (by decide) 0 .ok)

end

/-! ## HALT, RESUME, STEP, RESTART and END (R304, R306) -/

/-- A group that READ, WRITE and END act on (R304, R311). -/
def Group.stopped (x : Group) : Prop := x.state = .halted ∨ x.state = .trapped

section
variable (s : State) (p : PartId) (g : GroupRef) {x : Group}

theorem State.haltGroup_halts (h : x.state = .running ∨ x.state = .waiting) :
    s.haltGroup p g x = (s.put g { x with state := .halted, stepping := false }).rayHalt x true := by
  rcases h with h | h <;> simp only [State.haltGroup, h]

theorem State.haltGroup_stopped (h : x.stopped) : s.haltGroup p g x = s := by
  rcases h with h | h <;> simp only [State.haltGroup, h]

theorem State.resumeGroup_goes (h : x.state = .halted) (step : Bool) : s.resumeGroup p g x step = (s.put g (x.goOn step)).rayHalt x false := if_pos h

theorem State.resumeGroup_bad (h : x.state ≠ .halted) (step : Bool) : s.resumeGroup p g x step = s.badGroupCmd p := if_neg h

/-- A group that issues its trapping instruction again. -/
def Group.restarted (x : Group) : Group := { x with state := .running, spin := none, wait := .none }

theorem State.restartGroup_goes (h : x.state = .trapped) (hc : x.trap ≠ 1) :
    s.restartGroup p g x = (s.unpark (fun w => decide (w = Parked.group g.core g.slot))).put g x.restarted := by
  exact if_pos (by rw [h, decide_eq_true hc]; rfl)

theorem State.restartGroup_bad (h : x.state ≠ .trapped ∨ x.trap = 1) : s.restartGroup p g x = s.badGroupCmd p := by
  refine if_neg (fun ht => ?_)
  rw [Bool.and_eq_true, decide_eq_true_eq, decide_eq_true_eq] at ht
  exact h.elim (fun hs => hs ht.1) ht.2

theorem State.endCmd_ends (h : x.stopped) : s.endCmd p g x = s.endGroup g x := by
  rw [State.endCmd, if_pos (by rcases h with h | h <;> simp [h])]

theorem State.endCmd_bad (h : ¬ x.stopped) : s.endCmd p g x = s.badGroupCmd p := by
  rw [Group.stopped, not_or] at h
  rw [State.endCmd, if_neg (by simp [h.1, h.2])]

end

/-- Work that has been unparked is parked nowhere. -/
theorem State.unpark_isParked (s : State) (w : Parked) : (s.unpark (fun v => decide (v = w))).isParked w = false := by
  simp [State.isParked, State.unpark, Vector.any_eq_false]

/-! ## The words of a group (R299, R311) -/

/-- The vector register of one lane, written through the window: the lane in the low five bits of `i`, the register above them (R311). -/
def Group.setLane (x : Group) (i : Nat) (w : W32) : Group := x.setV (i / 32) (fun l => if l.val = i % 32 then some w else none)

section
variable (s : State) (g : GroupRef) (x : Group)

theorem State.dbgWord_vector {i : Nat} (h : i / 32 < x.prog.vregs) : s.dbgWord x 0 i = some (x.vreg (i / 32) (BitVec.ofNat 5 i).toFin) :=
  if_pos h

theorem State.dbgWord_scalar {i : Nat} (h : i < x.prog.sregs) : s.dbgWord x 1 i = some (x.sreg i) := if_pos h

theorem State.dbgWord_local {i : Nat} (h : i < x.prog.localBytes) (h4 : i % 4 = 0) :
    s.dbgWord x 3 i = some (BitVec.ofNat 32 (s.locNum x.block i 4)) := by
  simp [State.dbgWord, h, h4]

theorem State.dbgWord_state {y : Group} (h : y.stopped) : s.dbgWord y 2 3 = some (if y.state = .halted then 3 else 4) := by
  rcases h with h | h <;> simp [State.dbgWord, gstateCode, h]

theorem State.dbgPut_vector {i : Nat} (h : i / 32 < x.prog.vregs) (w : W32) :
    s.dbgPut g x 0 i w = some (s.put g (x.setLane i w)) := if_pos h

theorem State.dbgPut_scalar {i : Nat} (h : i < x.prog.sregs) (w : W32) : s.dbgPut g x 1 i w = some (s.put g (x.setS i w)) := if_pos h

theorem State.dbgPut_local {i : Nat} (h : i < x.prog.localBytes) (h4 : i % 4 = 0) (w : W32) :
    s.dbgPut g x 3 i w = some (s.locPut x.block i 4 w.toNat) := by
  simp [State.dbgPut, h, h4]

/-- The word that SPACE and INDEX name is not there (R311). -/
def Group.lacks (x : Group) (space : BitVec 2) (i : Nat) : Prop :=
  space = 0 ∧ x.prog.vregs ≤ i / 32 ∨ space = 1 ∧ x.prog.sregs ≤ i ∨ space = 2 ∧ 6 ≤ i ∨ space = 3 ∧ (x.prog.localBytes ≤ i ∨ i % 4 ≠ 0)

theorem State.dbgWord_none {space : BitVec 2} {i : Nat} (h : x.lacks space i) : s.dbgWord x space i = none := by
  rcases h with ⟨rfl, h⟩ | ⟨rfl, h⟩ | ⟨rfl, h⟩ | ⟨rfl, h⟩
  · exact if_neg (not_lt.2 h)
  · exact if_neg (not_lt.2 h)
  · obtain ⟨k, rfl⟩ : ∃ k, i = k + 6 := ⟨i - 6, by omega⟩
    rfl
  · have hn : ¬ (decide (i < x.prog.localBytes) && decide (i % 4 = 0)) = true := by simpa [imp_iff_not_or] using h
    simp [State.dbgWord, hn]

theorem State.dbgPut_none {space : BitVec 2} {i : Nat} (h : x.lacks space i ∨ space = 2 ∧ (i = 3 ∨ i = 5)) (w : W32) :
    s.dbgPut g x space i w = none := by
  rcases h with (⟨rfl, h⟩ | ⟨rfl, h⟩ | ⟨rfl, h⟩ | ⟨rfl, h⟩) | ⟨rfl, rfl | rfl⟩
  · exact if_neg (not_lt.2 h)
  · exact if_neg (not_lt.2 h)
  · obtain ⟨k, rfl⟩ : ∃ k, i = k + 6 := ⟨i - 6, by omega⟩
    rfl
  · have hn : ¬ (decide (i < x.prog.localBytes) && decide (i % 4 = 0)) = true := by simpa [imp_iff_not_or] using h
    simp [State.dbgPut, hn]
  · rfl
  · rfl

end

theorem Group.vreg_setLane (x : Group) (i : Nat) (w : W32) (n : Nat) (k : Fin 32) :
    (x.setLane i w).vreg n k
      = if n = i / 32 ∧ k = (BitVec.ofNat 5 i).toFin then w else x.vreg n k := by
  have hk : k = (BitVec.ofNat 5 i).toFin ↔ k.val = i % 32 := by rw [Fin.ext_iff]; rfl
  by_cases hn : n = i / 32
  · subst hn
    rw [Group.setLane, Group.vreg_setV]
    by_cases hv : k.val = i % 32
    · rw [if_pos hv, if_pos ⟨rfl, hk.2 hv⟩, Option.getD_some]
    · rw [if_neg hv, if_neg (fun h => hv (hk.1 h.2)), Option.getD_none]
  · rw [Group.setLane, Group.vreg_setV_ne _ hn, if_neg (fun h => hn h.1)]

theorem Group.sreg_setS_ite (x : Group) (i : Nat) (w : W32) (n : Nat) : (x.setS i w).sreg n = if n = i then w else x.sreg n := by
  by_cases hn : n = i
  · subst hn
    rw [Group.sreg_setS, if_pos rfl]
  · rw [Group.sreg_setS_ne _ hn, if_neg hn]

/-- A group put back holds the same blocks. -/
theorem State.put_blocksAll (s : State) (g : GroupRef) (x : Group) : (s.put g x).blocksAll = s.blocksAll := by
  have h : (s.put g x).setter.cores.toList.map (·.blocks) = s.setter.cores.toList.map (·.blocks) := by
    rw [← Vector.toList_map, ← Vector.toList_map]
    congr 1
    ext i hi
    simp only [State.put, State.setGroup, State.setCore, State.core, Vector.getElem_map, Vector.getElem_set]
    split
    · rename_i hc
      subst hc
      rfl
    · rfl
  simp only [State.blocksAll, List.flatMap_def, h]
  rfl

theorem State.put_locNum (s : State) (g : GroupRef) (x : Group) (id off n : Nat) : (s.put g x).locNum id off n = s.locNum id off n := by
  rw [State.locNum, State.put_blocksAll]
  rfl

/-! ## READ and WRITE (R305, R311) -/

section
variable {s : State} {p : PartId} {g : GroupRef} {y : Group} (h : y.stopped) (check : Check)
include h

/-- A word that is not there is not looked at. -/
theorem State.checked_noRead (hn : s.dbgWord y (s.part p).dbgSpace (s.part p).dbgIndex.toNat = none) :
    s.groupOp p g y 6 check = s.badGroupCmd p := by
  have hs : (decide (y.state = .halted) || decide (y.state = .trapped)) = true := by rcases h with h | h <;> simp [h]
  simp only [State.groupOp, State.checked, State.readGroup, hn, hs]
  rfl

theorem State.checked_reads {w : W32} (hw : s.dbgWord y (s.part p).dbgSpace (s.part p).dbgIndex.toNat = some w) :
    s.groupOp p g y 6 check
      = if check = .failed then s.containGroup g y else (s.seen check).updPart p (fun z => { z with dbgData := w }) := by
  have hs : (decide (y.state = .halted) || decide (y.state = .trapped)) = true := by rcases h with h | h <;> simp [h]
  have hc : s.errCorrected.dbgWord y (s.errCorrected.part p).dbgSpace (s.errCorrected.part p).dbgIndex.toNat = some w := hw
  simp only [State.groupOp, State.checked, State.readGroup, hw, hs, hc]
  cases check <;> rfl

theorem State.checked_noWrite (hn : ∀ w, s.dbgPut g y (s.part p).dbgSpace (s.part p).dbgIndex.toNat w = none) :
    s.groupOp p g y 7 check = s.badGroupCmd p := by
  have hs : (decide (y.state = .halted) || decide (y.state = .trapped)) = true := by rcases h with h | h <;> simp [h]
  simp only [State.groupOp, State.checked, State.writeGroup, hn, hs]
  rfl

theorem State.checked_writes {put : State → W32 → State} (hw : ∀ u w, State.dbgPut u g y (s.part p).dbgSpace (s.part p).dbgIndex.toNat w = some (put u w)) :
    s.groupOp p g y 7 check = if check = .failed then s.containGroup g y else put (s.seen check) (s.part p).dbgData := by
  have hs : (decide (y.state = .halted) || decide (y.state = .trapped)) = true := by rcases h with h | h <;> simp [h]
  have hp : s.errCorrected.part p = s.part p := rfl
  simp only [State.groupOp, State.checked, State.writeGroup, hw, hs, hp]
  cases check <;> rfl

end

/-- A group that runs is neither read nor written. -/
theorem State.groupOp_running (s : State) (p : PartId) (g : GroupRef) {y : Group} (h : ¬ y.stopped) {op : Nat} (ho : op = 6 ∨ op = 7) (check : Check) :
    s.groupOp p g y op check = s.badGroupCmd p := by
  rw [Group.stopped, not_or] at h
  rcases ho with rfl | rfl <;>
    simp [State.groupOp, State.checked, State.readGroup, State.writeGroup, h.1, h.2]

section
variable {s : State} {req : Requester} {p : PartId} {value : W32} (ht : s.takesPage req p) {x : Group} (hx : s.group? (grpRef value) = some x)
  (hp : x.part = p) (steps : Nat) (check : Check)
include ht hx hp

/-- READ and WRITE of a group that stands act on the group with its spin counter up to date (R295). -/
theorem State.grpCmdRow_counted {op : W32} (ho : op.toNat = 6 ∨ op.toNat = 7) (h : x.stopped) :
    s.grpCmdRow req p value op steps check
      = (((s.relock req).put (grpRef value) (x.counted steps)).groupOp p (grpRef value) (x.counted steps) op.toNat check).answer .ok := by
  have ho' : op.toNat < 16 := by omega
  exact State.grpCmdRow_own ht hx hp ho' (State.countSpin_stopped ((s.relock_group? req _).trans hx) h (by rw [fldN_grpWord ho']; exact ho) steps)
    (State.group?_setGroup ..) check

theorem State.grpCmdRow_running {op : W32} (ho : op.toNat = 6 ∨ op.toNat = 7) (h : ¬ x.stopped) :
    s.grpCmdRow req p value op steps check = s.refusesGroup req p := by
  have hg := (s.relock_group? req (grpRef value)).trans hx
  rw [State.grpCmdRow_own ht hx hp (by omega) (State.countSpin_running hg h _ steps) hg, State.groupOp_running _ p _ h ho]
  rfl

end

/-- READ or WRITE has brought the spin counter of its group up to date (R295). -/
def State.spun (s : State) (req : Requester) (value : W32) (x : Group) (steps : Nat) : State := (s.relock req).put (grpRef value) (x.counted steps)

theorem State.spun_part (s : State) (req : Requester) (value : W32) (x : Group) (steps : Nat) (p : PartId) : (s.spun req value x steps).part p = s.part p :=
  s.relock_part req p

theorem State.spun_locNum (s : State) (req : Requester) (value : W32) (x : Group) (steps id off n : Nat) :
    (s.spun req value x steps).locNum id off n = s.locNum id off n := by
  rw [State.spun, State.put_locNum, State.relock_eq]
  rfl

section
variable {s : State} {req : Requester} {p : PartId} {value : W32} (ht : s.takesPage req p) {x : Group} (hx : s.group? (grpRef value) = some x)
  (hp : x.part = p) (steps : Nat) (check : Check) (h : x.stopped)
include ht hx hp h

theorem exec_groupRead_stopped : exec (.groupRead req p value steps check) s
    = .next (((s.spun req value x steps).groupOp p (grpRef value) (x.counted steps) 6 check).answer .ok) :=
  congrArg Host.Outcome.next (State.grpCmdRow_counted ht hx hp steps check (op := 6) (.inl rfl) h)

theorem exec_groupWrite_stopped : exec (.groupWrite req p value steps check) s
    = .next (((s.spun req value x steps).groupOp p (grpRef value) (x.counted steps) 7 check).answer .ok) :=
  congrArg Host.Outcome.next (State.grpCmdRow_counted ht hx hp steps check (op := 7) (.inr rfl) h)

/-- READ finds a word (R305, R311). -/
theorem exec_groupRead_reads {w : W32}
    (hw : (s.spun req value x steps).dbgWord (x.counted steps) (s.part p).dbgSpace (s.part p).dbgIndex.toNat = some w) :
    exec (.groupRead req p value steps check) s = .next ((if check = .failed then (s.spun req value x steps).containGroup (grpRef value) (x.counted steps)
      else ((s.spun req value x steps).seen check).updPart p (fun y => { y with dbgData := w })).answer .ok) := by
  rw [← s.spun_part req value x steps p] at hw
  rw [exec_groupRead_stopped ht hx hp steps check h, State.checked_reads (y := x.counted steps) h check hw]

/-- WRITE finds a word that it can write (R305, R311). -/
theorem exec_groupWrite_writes {put : State → W32 → State}
    (hw : ∀ (u : State) w, u.dbgPut (grpRef value) (x.counted steps) (s.part p).dbgSpace (s.part p).dbgIndex.toNat w = some (put u w)) :
    exec (.groupWrite req p value steps check) s = .next ((if check = .failed then (s.spun req value x steps).containGroup (grpRef value) (x.counted steps)
      else put ((s.spun req value x steps).seen check) (s.part p).dbgData).answer .ok) := by
  rw [← s.spun_part req value x steps p] at hw ⊢
  rw [exec_groupWrite_stopped ht hx hp steps check h, State.checked_writes (y := x.counted steps) h check hw]

/-- READ of a word that is not there is a BAD_CMD (R311). -/
theorem exec_groupRead_lacks (hl : x.lacks (s.part p).dbgSpace (s.part p).dbgIndex.toNat) :
    exec (.groupRead req p value steps check) s = .next (((s.spun req value x steps).badGroupCmd p).answer .ok) := by
  rw [← s.spun_part req value x steps p] at hl
  rw [exec_groupRead_stopped ht hx hp steps check h, State.checked_noRead (y := x.counted steps) h check (State.dbgWord_none _ _ hl)]

/-- WRITE of a word that is not there, or that is read-only, is a BAD_CMD (R311). -/
theorem exec_groupWrite_lacks (hl : x.lacks (s.part p).dbgSpace (s.part p).dbgIndex.toNat
      ∨ (s.part p).dbgSpace = 2 ∧ ((s.part p).dbgIndex.toNat = 3 ∨ (s.part p).dbgIndex.toNat = 5)) :
    exec (.groupWrite req p value steps check) s = .next (((s.spun req value x steps).badGroupCmd p).answer .ok) := by
  rw [← s.spun_part req value x steps p] at hl
  rw [exec_groupWrite_stopped ht hx hp steps check h, State.checked_noWrite (y := x.counted steps) h check (State.dbgPut_none _ _ _ hl)]

end

/-- A choice under the bus's answer, taken apart. -/
theorem next_answer_ite {c : Prop} [Decidable c] {o : Host.Outcome State Fault Refusal} {a b : State} (h : o = .next ((if c then a else b).answer .ok)) :
    (c → o = .next (a.answer .ok)) ∧ (¬ c → o = .next (b.answer .ok)) :=
  ⟨fun hc => by rw [h, if_pos hc], fun hc => by rw [h, if_neg hc]⟩

/-! ## The obligation -/

/-- Settles O53: the group that the command names, what each operation does in each state of it, and each word of RK_SET_DBG_ADDR. -/
theorem groupCommandsActOnTheirGroup : Obligations.GroupCommandsActOnTheirGroup := by
  intro req p value steps check s ht g s0 rd wr bad all stopped index space
  refine ⟨fun hn => exec_groupCommand_bad ht (fun y hy => nomatch hn.symm.trans hy) steps check, fun x hx => ⟨fun hp =>
    exec_groupCommand_bad ht (fun y hy => (Option.some.inj (hx.symm.trans hy)) ▸ hp) steps check, fun hp => ?_⟩⟩
  have hr := s.relock_group? req
  refine ⟨fun h => ?_, fun h => ?_, fun h => ⟨?_, ?_⟩, fun h => ⟨?_, ?_⟩, fun h hc => ?_, fun h => ?_, fun h => ⟨?_, State.leaveSlot_group? ..⟩,
    fun h => ⟨?_, ?_, ?_⟩, fun h => ?words⟩
  · rw [exec_halt ht hx hp, State.haltGroup_halts _ p _ h]; rfl
  · rw [exec_halt ht hx hp, State.haltGroup_stopped _ p _ h]
  · rw [exec_resume ht hx hp, State.resumeGroup_goes _ p _ h]; rfl
  · rw [exec_stepGroup ht hx hp, State.resumeGroup_goes _ p _ h]; rfl
  · exact (exec_resume ht hx hp).trans (by rw [State.resumeGroup_bad _ p _ h]; rfl)
  · exact (exec_stepGroup ht hx hp).trans (by rw [State.resumeGroup_bad _ p _ h]; rfl)
  · refine ⟨((s0.unpark (fun w => decide (w = .group g.core g.slot))).put g x.restarted).answer .ok, ?_, State.group?_setGroup ..,
      s0.unpark_isParked (.group g.core g.slot), fun k hk => (State.group?_setGroup_ne _ hk _).trans (hr k)⟩
    rw [exec_restart ht hx hp, State.restartGroup_goes _ p _ h hc]
    rfl
  · exact (exec_restart ht hx hp).trans (by rw [State.restartGroup_bad _ p _ h]; rfl)
  · rw [exec_endGroup ht hx hp, State.endCmd_ends _ p _ h]; rfl
  · exact (exec_endGroup ht hx hp).trans (by rw [State.endCmd_bad _ p _ h]; rfl)
  · exact congrArg Host.Outcome.next (State.grpCmdRow_running ht hx hp steps check (op := 6) (.inl rfl) h)
  · exact congrArg Host.Outcome.next (State.grpCmdRow_running ht hx hp steps check (op := 7) (.inr rfl) h)
  case words =>
    intro y0 sc s1 noRead noWrite reads writes w
    have hrd : ∀ {w}, sc.dbgWord y0 space index = some w → reads w := fun hw => next_answer_ite (exec_groupRead_reads ht hx hp steps check h hw)
    have hwt : ∀ {put : State → W32 → State}, (∀ (u : State) w, u.dbgPut g y0 space index w = some (put u w)) →
        (check = .failed → exec wr s = .next ((sc.containGroup g y0).answer .ok)) ∧ (check ≠ .failed → exec wr s = .next ((put s1 w).answer .ok)) :=
      fun hw => next_answer_ite (exec_groupWrite_writes ht hx hp steps check h hw)
    have hwg : ∀ f : W32 → Group, (∀ (u : State) w, u.dbgPut g y0 space index w = some (u.put g (f w))) → writes (f w) := fun _ hw => hwt hw
    have lacks : x.lacks space index → noRead ∧ noWrite := fun hl =>
      ⟨exec_groupRead_lacks ht hx hp steps check h hl, exec_groupWrite_lacks ht hx hp steps check h (.inl hl)⟩
    have fixed : space = 2 → index = 3 ∨ index = 5 → noWrite := fun hs hi => exec_groupWrite_lacks ht hx hp steps check h (.inr ⟨hs, hi⟩)
    have hloc : sc.locNum x.block index 4 = s.locNum x.block index 4 := s.spun_locNum ..
    clear_value space index
    refine ⟨fun hs hi => ?vector, fun hs hi => lacks (.inl ⟨hs, hi⟩), fun hs hi => ?scalar, fun hs hi => lacks (.inr (.inl ⟨hs, hi⟩)), fun hs => ?state,
      fun hs hi h4 => ?store, fun hs hi => lacks (.inr (.inr (.inr ⟨hs, hi⟩)))⟩
    case vector =>
      subst hs
      exact ⟨hrd (State.dbgWord_vector _ _ hi), _,
        hwg (y0.setLane index) (State.dbgPut_vector · g y0 hi ·), rfl, y0.vreg_setLane index w⟩
    case scalar =>
      subst hs
      exact ⟨hrd (State.dbgWord_scalar _ _ hi), _, hwg (y0.setS index) (State.dbgPut_scalar · g y0 hi ·), rfl, y0.sreg_setS_ite index w⟩
    case state =>
      subst hs
      refine ⟨?_, ?_, ?_, ?_, ?_, ?_, fun hi => lacks (.inr (.inr (.inl ⟨rfl, hi⟩)))⟩ <;> intro hi <;> subst hi
      · exact ⟨hrd rfl, hwt (fun _ _ => rfl)⟩
      · exact ⟨hrd rfl, hwt (fun _ _ => rfl)⟩
      · exact ⟨hrd rfl, hwt (fun _ _ => rfl)⟩
      · exact ⟨hrd (State.dbgWord_state _ (y := y0) h), fixed rfl (.inl rfl)⟩
      · exact ⟨hrd rfl, hwt (fun _ _ => rfl)⟩
      · exact ⟨hrd (congrArg some (BitVec.ofNat_toNat 32 x.trap)), fixed rfl (.inr rfl)⟩
    case store =>
      subst hs
      exact ⟨hrd ((State.dbgWord_local _ _ hi h4).trans (congrArg (fun n => some (BitVec.ofNat 32 n)) hloc)), hwt (State.dbgPut_local · g y0 hi h4 ·)⟩

end Sys2Proof.Machine
end

section
/-!
SPILL_SLOT_GRANT, SPILL_WAIT_TIMEOUT (R90, R105, R183, R185) and RETURN (R188, R383, R397, R511): a ray that waits or has ended.
-/

namespace Sys2Proof.Machine
open Sys2Proof

/-! ## The Kennel's slots (R89, R92) -/

theorem assocGet_assocDel {α : Type} (i j : Nat) (l : List (Nat × α)) : assocGet j (assocDel i l) = if j = i then none else assocGet j l := by
  unfold assocGet assocDel
  induction l with
  | nil => simp
  | cons e r ih =>
    rw [List.filter_cons, List.findSome?_cons]
    by_cases he : e.1 = i
    · rw [if_neg (by simpa using he), ih, he]
      by_cases hj : j = i
      · rw [if_pos hj, if_pos hj]
      · rw [if_neg (Ne.symm hj)]
    · rw [if_pos (by simpa using he), List.findSome?_cons, ih]
      by_cases hj : j = i
      · simp only [if_pos hj, if_neg (fun h : e.1 = j => he (h.trans hj))]
      · rw [if_neg hj, if_neg hj]

theorem State.kGet_congr {s t : State} (h : t.kennel.slots = s.kennel.slots) (i : Nat) : t.kGet i = s.kGet i := congrArg (assocGet i) h

theorem State.kGet_kPut_ite (s : State) (i : Nat) (x : KSlot) (j : Nat) : (s.kPut i x).kGet j = if j = i then some x else s.kGet j := by
  by_cases h : j = i
  · rw [if_pos h, h, State.kGet_kPut]
  · rw [if_neg h]
    exact assocGet_assocPut_ne h ..

theorem State.kGet_kFree (s : State) (i j : Nat) : (s.kFree i).kGet j = if j = i then none else s.kGet j := assocGet_assocDel ..

theorem State.kGet_kFreeAll (s : State) (l : List Nat) (j : Nat) : (s.kFreeAll l).kGet j = if j ∈ l then none else s.kGet j := by
  induction l generalizing s with
  | nil => simp [State.kFreeAll]
  | cons i r ih =>
    show ((s.kFree i).kFreeAll r).kGet j = _
    rw [ih, State.kGet_kFree]
    by_cases hj : j = i <;> simp [hj]

/-- A ray's own slot only changes. -/
theorem State.kGet_updRay_ne (s : State) {i j : Nat} (h : j ≠ i) (f : Ray → Ray) : (s.updRay i f).kGet j = s.kGet j := by
  rw [State.updRay]
  split
  · rw [State.setRay]
    split
    · rw [State.kGet_kPut_ite, if_neg h]
    · rfl
  · rfl

theorem State.kGet_kLink_ne (s : State) {i j : Nat} (h : j ≠ i) (l : Option Nat) : (s.kLink i l).kGet j = s.kGet j := by
  rw [State.kLink]
  split
  · rw [State.kGet_kPut_ite, if_neg h]
  · rfl

theorem State.ray?_of_same {s t : State} {i : Nat} (h : t.kGet i = s.kGet i) : t.ray? i = s.ray? i := by rw [State.ray?, State.ray?, h]

/-- A link is no part of the ray. -/
theorem State.ray?_kLink (s : State) (i : Nat) (l : Option Nat) : (s.kLink i l).ray? i = s.ray? i := by
  rw [State.kLink]
  cases h : s.kGet i with
  | none => rfl
  | some x =>
    simp only [State.ray?, State.kGet_kPut, h]
    rcases x with ⟨_, _, _, _ | _⟩ <;> rfl

theorem State.raySlots_congr {s t : State} (h : t.kennel.slots = s.kennel.slots) (i : Nat) : t.raySlots i = s.raySlots i := by
  have hg : t.kGet = s.kGet := funext (State.kGet_congr h)
  have hn : t.kNext = s.kNext := funext (fun k => by rw [State.kNext, State.kNext, hg])
  have hc : ∀ n o, t.chain n o = s.chain n o := by
    intro n
    induction n with
    | zero => exact fun _ => rfl
    | succ n ih => exact fun o => by cases o with
      | none => rfl
      | some k => rw [State.chain, State.chain, ih, hn]
  simp only [State.raySlots, State.ray?, hg, hn, hc]

/-! ## The auxiliary slots of a ray (R92, R186) -/

/-- A ray with no auxiliary slot. -/
def Ray.bare (r : Ray) : Ray := { r with inst := none, leash := none, ts := { r.ts with inInst := false, ext := false, short := [] } }

/-- A ray's auxiliary slots freed, before the ray forgets them. -/
def State.auxFreed (s : State) (i : Nat) : State :=
  let s0 := match (s.ray? i).bind (·.leash) with | some l => s.timerDel (.lease l) | none => s
  s0.kFreeAll ((s.raySlots i).filter (fun k => k != i))

theorem State.freeAux_eq (s : State) (i : Nat) : s.freeAux i = ((s.auxFreed i).kLink i none).updRay i Ray.bare := by
  unfold State.freeAux State.auxFreed
  cases (s.ray? i).bind (·.leash) with
  | none => rfl
  | some l => rfl

theorem State.kGet_auxFreed (s : State) (i k : Nat) : (s.auxFreed i).kGet k = if k ∈ s.raySlots i ∧ k ≠ i then none else s.kGet k := by
  have h0 : ∀ u : State, u.kennel = s.kennel → (u.kFreeAll ((s.raySlots i).filter (fun k => k != i))).kGet k
      = if k ∈ s.raySlots i ∧ k ≠ i then none else s.kGet k := by
    intro u hu
    rw [State.kGet_kFreeAll, State.kGet_congr (congrArg (·.slots) hu)]
    simp
  unfold State.auxFreed
  split
  · exact h0 _ rfl
  · exact h0 _ rfl

theorem State.freeAux_frees (s : State) {i k : Nat} (hk : k ∈ s.raySlots i) (hi : k ≠ i) : (s.freeAux i).kGet k = none := by
  rw [State.freeAux_eq, State.kGet_updRay_ne _ hi, State.kGet_kLink_ne _ hi, State.kGet_auxFreed, if_pos ⟨hk, hi⟩]

theorem State.freeAux_ray? {s : State} {i : Nat} {r : Ray} (h : s.ray? i = some r) : (s.freeAux i).ray? i = some r.bare := by
  rw [State.freeAux_eq]
  refine State.ray?_updRay _ ?_
  rw [State.ray?_kLink, State.ray?_of_same (s := s) (by rw [State.kGet_auxFreed, if_neg (by simp)]), h]

/-- A ray that ends has no auxiliary slot left (R186). -/
theorem State.endRay_frees (s : State) {i k : Nat} (hk : k ∈ s.raySlots i) (hi : k ≠ i) (code : Nat) : (s.endRay i code).kGet k = none := by
  rw [State.endRay, State.kGet_updRay_ne _ hi, State.freeAux_frees _ (by rwa [State.raySlots_congr (s := s) (t := s.timerDel (.spill i)) rfl]) hi]

theorem State.endRay_ray? {s : State} {i : Nat} {r : Ray} (h : s.ray? i = some r) (code : Nat) :
    (s.endRay i code).ray? i = some { r.bare with wait := .ended (BitVec.ofNat 8 code), rstate := .active, doneAt := s.pins.now } :=
  State.ray?_updRay _ (State.freeAux_ray? (s := s.timerDel (.spill i)) h)

/-! ## A timer that acts (R401) -/

theorem State.fire_slots (s : State) (tm : Timer) (t : Nat) : (s.fire tm t).kennel.slots = s.kennel.slots := by
  have h := congrArg (·.kennel.slots) (s.fire_frame tm t 0x600024000C#48 (by decide))
  exact h

theorem State.fire_now (s : State) (tm : Timer) (t : Nat) : (s.fire tm t).pins.now = max s.pins.now t := by
  have h := congrArg (·.pins.now) (State.record_frame (s.timerTake tm t) ((s.at t).timerRec tm) 0x6000240008#48 (by decide))
  exact h

/-! ## SPILL_SLOT_GRANT and SPILL_WAIT_TIMEOUT (R90, R105, R183) -/

section
variable {s : State} {ray : Nat} {r : Ray} (hr : s.ray? ray = some r) (hw : r.rstate = .spillWait)
include hr hw

/-- What a grant gives a ray that waits for an auxiliary slot (R183). -/
theorem exec_spillSlotGrant (h : s.works (s.kPart ray) = true) (slot : Nat) : exec (.spillSlotGrant ray slot) s =
    (let env : Env := { s.env0 with slots := [slot] }
    let off := (s.timerDel (.spill ray)).updRay ray (fun r => { r with rstate := .active })
    match r.wait with
    | .spillPush pushes next =>
      match s.kAux env (s.kPart ray) (s.kIsForeign ray) (.ext ray []) with
      | none => .next s
      | some _ => .next (off.applyMoves env ray (stackMoves r.ts.cur next r.ts.short pushes) pushes)
    | .spillInst _ =>
      match off.kAux env (s.kPart ray) (s.kIsForeign ray) (.inst ⟨r.origin, r.dir, 0, r.ts, 0, 0, 0, r.base, r.root⟩) with
      | none => .next s
      | some (k, s1) => .next ((s1.updRay ray (fun r => { r with inst := some k })).resumeRay ray)
    | .spillLeash child sub =>
      match off.kAux env (s.kPart ray) (s.kIsForeign ray) (.leash (Leash.fresh 0)) with
      | none => .next s
      | some (k, s1) => .next (s1.updRay ray (fun r => { r with leash := some k, wait := .forward child sub, doneAt := s.pins.now }))
    | _ => .next s) := by
  show execSpillSlotGrant ray slot s = _
  unfold execSpillSlotGrant
  rw [hr]
  exact if_neg (by simp [hw, h])

theorem exec_spillWaitTimeout {t : Nat} (h : s.ready = true) (ht : s.timerFires (.spill ray) t = true) :
    exec (.spillWaitTimeout ray t) s = .next ((s.fire (.spill ray) t).endRay ray 0x12) := by
  have hr' : (s.fire (.spill ray) t).ray? ray = some r := (State.ray?_of_same (State.kGet_congr (s.fire_slots ..) ray)).trans hr
  show execSpillWaitTimeout ray t s = _
  simp only [execSpillWaitTimeout, h, ht, Bool.and_self, if_true, hr', hw]

end

/-! ## RETURN (R188, R383, R397, R511) -/

/-- A return has been counted on its list and its candidate entry checked. -/
def State.returnChecked (s : State) (p : PartId) (ray : Nat) (check : Check) : State :=
  let s0 := s.returned p ray
  if check = .failed then s0.errContained p 1 ray (s0.kId ray).toNat else s0.seen check

/-- Neither the count nor the check changes what the return reads. -/
theorem State.returnChecked_blank (s : State) (p : PartId) (ray : Nat) (check : Check) :
    blank 0x14001240008#48 (s.returnChecked p ray check) = blank 0x14001240008#48 s := by
  unfold State.returnChecked
  cases check with
  | ok => exact State.returned_frame _ _ _ _ (by decide)
  | corrected => exact (State.errCorrected_frame _ _ (by decide)).trans (State.returned_frame _ _ _ _ (by decide))
  | failed => exact (State.errContained_frame _ _ _ _ _ _ (by decide)).trans (State.returned_frame _ _ _ _ (by decide))

section
variable (s : State) (p : PartId) (ray : Nat) (check : Check)

theorem State.returnChecked_foreign? : (s.returnChecked p ray check).foreign? ray = s.foreign? ray := by
  have h := congrArg (State.foreign? · ray) (s.returnChecked_blank p ray check)
  exact h

theorem State.returnChecked_cmd? (cr : CmdRef) : (s.returnChecked p ray check).cmd? cr = s.cmd? cr := by
  have h := congrArg (State.cmd? · cr) (s.returnChecked_blank p ray check)
  exact h

theorem State.returnChecked_env0 : (s.returnChecked p ray check).env0 = s.env0 := by
  have h := congrArg State.env0 (s.returnChecked_blank p ray check)
  exact h

theorem State.returnChecked_kId : (s.returnChecked p ray check).kId ray = s.kId ray := by
  have h := congrArg (State.kId · ray) (s.returnChecked_blank p ray check)
  exact h

end

section
variable {s : State} {ray : Nat} {r : Ray} (hr : s.ray? ray = some r) (check : Check)
include hr

/-- A ray that cannot leave, or is not its list's next, stays (R188, R397). -/
theorem exec_returnRay_stays (h : ∀ code, r.wait = .ended code → s.canReturn ray r = false ∨ s.returnNext (s.kPart ray) ray = false) :
    exec (.returnRay ray check) s = .next s := by
  show execReturnRay ray check s = _
  unfold execReturnRay
  rw [hr]
  dsimp only
  cases hw : r.wait with
  | ended code => exact if_pos (by rcases h code hw with h | h <;> simp [h])
  | _ => rfl

/-- What becomes of a ray that leaves (R188, R383). -/
theorem exec_returnRay_leaves {code : BitVec 8} (hw : r.wait = .ended code) (hk : s.works (s.kPart ray) = true) (hc : s.canReturn ray r = true)
    (hn : s.returnNext (s.kPart ray) ray = true) : exec (.returnRay ray check) s =
    (let p := s.kPart ray
    let n : Nat := if check = .failed then 0x17 else code.toNat
    let s1 := s.returnChecked p ray check
    match s.foreign? ray with
    | some f => .next ((s1.sendResult f (rayBody r f n)).dropForeign f)
    | none => match r.cmd with
      | none => .next s1
      | some cr => match s.cmd? cr with
        | none => .next s1
        | some c => .next ((((s1.timerDel (.spill ray)).kFreeAll (s1.raySlots ray)).drainAll).acceptRay s.env0 p r.flow c cr r.index
            (hitRecord r (s.kId ray) n))) := by
  rw [← s.returnChecked_foreign? (s.kPart ray) ray check, ← s.returnChecked_env0 (s.kPart ray) ray check,
    ← s.returnChecked_kId (s.kPart ray) ray check]
  simp only [← s.returnChecked_cmd? (s.kPart ray) ray check]
  show execReturnRay ray check s = _
  unfold execReturnRay
  rw [hr]
  simp only [hw, hk, hc, hn]
  cases check <;> rfl

end

/-- Settles O35: the three waits that a slot serves, the wait that ran out, and the ray that leaves or stays. -/
theorem waitingRaysGoOnOrEnd : Obligations.WaitingRaysGoOnOrEnd := by
  intro ray slot r s hr env p off
  refine ⟨fun hw hk => ?grant, fun t hw hs ht => ?timeout, fun code check hw hk hc hn => ?leaves, fun h check => exec_returnRay_stays hr check h⟩
  case grant =>
    have hx := exec_spillSlotGrant hr hw hk slot
    refine ⟨fun pushes next x hp ha => ?_, fun n k s1 hp ha => ?_, fun child sub k s1 hp ha => ?_⟩
    · rw [hx, hp]
      dsimp only
      rw [show s.kAux _ _ _ _ = some x from ha]
    · rw [hx, hp]
      dsimp only
      rw [ha]
    · rw [hx, hp]
      dsimp only
      rw [ha]
  case timeout =>
    have hf := s.fire_slots (.spill ray) t
    refine ⟨_, exec_spillWaitTimeout hr hw hs ht, fun k hk hne => State.endRay_frees _ (by rwa [State.raySlots_congr hf]) hne _, ?_⟩
    rw [State.endRay_ray? ((State.ray?_of_same (State.kGet_congr hf ray)).trans hr), State.fire_now]
    rfl
  case leaves =>
    have hx := exec_returnRay_leaves hr check hw hk hc hn
    refine ⟨fun cr c hf hcr hcm => ?_, fun f hf => ?_⟩
    · rw [hx]
      simp only [hf, hcr, hcm]
      rfl
    · rw [hx]
      simp only [hf]
      rfl

end Sys2Proof.Machine
end

section
/-!
PACK_ISSUE, PACK_WAIT_EXPIRY (R164, R165, R168, R344, R397), TEST (R169 to R175, R511) and INVOKE (R180, R298): packs and groups leave the Herder for
their unit.
-/

namespace Sys2Proof.Machine
open Sys2Proof

/-! ## What the trace and the timers leave alone (R401, R408) -/

theorem State.record_herd (s : State) (r : TraceRec) : (s.record r).herd = s.herd := Comp.same_herd (s.record_frame r _ (by decide))

theorem State.record_tus (s : State) (r : TraceRec) : (s.record r).arr.tus = s.arr.tus := Comp.same_tus (s.record_frame r _ (by decide))

theorem State.record_core (s : State) (r : TraceRec) (c : CoreId) : (s.record r).core c = s.core c := by
  have h := congrArg (State.core · c) (s.record_frame r 0x4000240008#48 (by decide))
  exact h

/-- A timer that acts changes what its trace record changes. -/
theorem State.fire_tus (s : State) (tm : Timer) (t : Nat) : (s.fire tm t).arr.tus = s.arr.tus := State.record_tus ..

theorem State.fire_herd (s : State) (tm : Timer) (t : Nat) : (s.fire tm t).herd = s.herd := State.record_herd ..

theorem State.fire_core (s : State) (tm : Timer) (t : Nat) (c : CoreId) : (s.fire tm t).core c = s.core c := State.record_core ..

theorem State.armGroup_herd (s : State) (p : PartId) (cls caddy : BitVec 2) (slot : Nat) : (s.armGroup p cls caddy slot).herd = s.herd :=
  Comp.same_herd (s.armGroup_frame p cls caddy slot _ (by decide))

theorem State.armGroup_core (s : State) (p : PartId) (cls caddy : BitVec 2) (slot : Nat) (c : CoreId) :
    (s.armGroup p cls caddy slot).core c = s.core c := by
  have h := congrArg (State.core · c) (s.armGroup_frame p cls caddy slot 0x2000000000#48 (by decide))
  exact h

/-! ## A pack leaves its entry (R164, R168) -/

/-- A pack's items have left their entry. -/
def State.withoutPack (s : State) (k : Pack) : State :=
  match s.entry? k.part k.line with
  | some e => (s.setEntry { e with items := e.items.filter (fun w => !k.items.contains w) }).armPack k.part k.line
  | none => s

/-- No entry of the pack's line holds an item of the pack. -/
theorem State.withoutPack_store (s : State) (k : Pack) {e : MatchEntry} (he : e ∈ (s.withoutPack k).herd.store) (hp : e.part = k.part)
    (hl : e.line = k.line) : ∀ w ∈ e.items, w ∉ k.items := by
  unfold State.withoutPack at he
  split at he
  next e0 h0 =>
    obtain ⟨hp0, hl0⟩ := State.entry?_at h0
    rw [State.armPack_herd, State.setEntry] at he
    obtain ⟨x, -, hx⟩ := List.mem_map.1 (List.mem_filter.1 he).1
    split at hx
    · rw [← hx]
      intro w hw
      simpa using (List.mem_filter.1 hw).2
    · next hne =>
      subst hx
      simp [hp, hl, hp0, hl0] at hne
  next h0 =>
    have hno := List.find?_eq_none.1 h0 e he
    simp [hp, hl] at hno

theorem State.withoutPack_tus (s : State) (k : Pack) : (s.withoutPack k).arr.tus = s.arr.tus := by
  unfold State.withoutPack
  split
  · exact Comp.same_tus (State.armPack_frame _ _ _ _ (by decide))
  · rfl

theorem State.withoutPack_unmatched (s : State) (k : Pack) : (s.withoutPack k).herd.unmatched = s.herd.unmatched := by
  unfold State.withoutPack
  split
  · rw [State.armPack_herd]
    rfl
  · rfl

/-- A pack in a TU's input queue. -/
def State.pushPack (s : State) (k : Pack) (n : TuId) : State :=
  { s with arr := { s.arr with tus := s.arr.tus.set n { s.arr.tus[n] with queue := (s.arr.tus[n]).queue ++ [k] } } }

/-- A pack of TESTs has its size kept. -/
def State.packSized (s : State) (k : Pack) : State :=
  if packOp k = 1 then { s with herd := { s.herd with packs := (k.items.length :: s.herd.packs).take 4096 } } else s

theorem State.packSized_keeps (s : State) (k : Pack) : (s.packSized k).arr.tus = s.arr.tus ∧ (s.packSized k).herd.store = s.herd.store
    ∧ (s.packSized k).herd.unmatched = s.herd.unmatched := by
  unfold State.packSized
  split <;> exact ⟨rfl, rfl, rfl⟩

/-- The pack is in its TU's queue and counted on its list; the trace has not told it yet. -/
def State.queuedPack (s : State) (k : Pack) (n : TuId) : State :=
  (((s.withoutPack k).pushPack k n).packSized k).countIssue k.part (packOp k)

section
variable (s : State) (k : Pack) (n : TuId)

theorem State.queuedPack_tus : (s.queuedPack k n).arr.tus = s.arr.tus.set n { s.arr.tus[n] with queue := (s.arr.tus[n]).queue ++ [k] } := by
  rw [← s.withoutPack_tus k]
  exact (State.packSized_keeps ((s.withoutPack k).pushPack k n) k).1

theorem State.queuedPack_herd : (s.queuedPack k n).herd.store = (s.withoutPack k).herd.store
    ∧ (s.queuedPack k n).herd.unmatched = (s.withoutPack k).herd.unmatched :=
  (State.packSized_keeps ((s.withoutPack k).pushPack k n) k).2

variable (why reason : Nat) (starve : Bool)

theorem State.issue_eq : s.issue k n why reason starve =
    (((s.queuedPack k n).doIf starve (·.record { s.packTrace k 1 why n.val (s.tuDepth n) with dec := 4, reason := 0 })).record
      (s.packTrace k 1 why n.val (s.tuDepth n))).record (s.packTrace k 2 reason n.val (s.tuDepth n)) := rfl

/-- The trace tells the issue and leaves the Herder and the TUs. -/
theorem State.issue_traced : (s.issue k n why reason starve).herd = (s.queuedPack k n).herd
    ∧ (s.issue k n why reason starve).arr.tus = (s.queuedPack k n).arr.tus := by
  rw [State.issue_eq, State.record_herd, State.record_herd, State.record_tus, State.record_tus]
  exact ⟨State.doIf_keeps State.herd _ _ _ (fun x => x.record_herd _), State.doIf_keeps (·.arr.tus) _ _ _ (fun x => x.record_tus _)⟩

theorem State.issue_tus : (s.issue k n why reason starve).arr.tus = s.arr.tus.set n { s.arr.tus[n] with queue := (s.arr.tus[n]).queue ++ [k] } :=
  (s.issue_traced k n why reason starve).2.trans (s.queuedPack_tus k n)

theorem State.issue_store : (s.issue k n why reason starve).herd.store = (s.withoutPack k).herd.store :=
  (congrArg (·.store) (s.issue_traced k n why reason starve).1).trans (s.queuedPack_herd k n).1

theorem State.issue_unmatched : (s.issue k n why reason starve).herd.unmatched = s.herd.unmatched :=
  (congrArg (·.unmatched) (s.issue_traced k n why reason starve).1).trans ((s.queuedPack_herd k n).2.trans (s.withoutPack_unmatched k))

end

/-- The pack `k` has joined the input queue of the TU `n`, no other TU has changed, and no entry of the pack's line holds an item of it. -/
def Pack.joined (k : Pack) (n : TuId) (s u : State) : Prop :=
  (u.arr.tus[n]).queue = (s.arr.tus[n]).queue ++ [k] ∧ (∀ m : TuId, m ≠ n → u.arr.tus[m] = s.arr.tus[m])
    ∧ ∀ e ∈ u.herd.store, e.part = k.part → e.line = k.line → ∀ w ∈ e.items, w ∉ k.items

/-- An issue from a state whose TUs are those of `s`. -/
theorem State.issue_joined {s s1 : State} (h : s1.arr.tus = s.arr.tus) (k : Pack) (n : TuId) (why reason : Nat) (starve : Bool) :
    k.joined n s (s1.issue k n why reason starve) := by
  have ht := s1.issue_tus k n why reason starve
  rw [h] at ht
  refine ⟨by rw [ht]; simp, fun m hm => ?_, fun e he => s1.withoutPack_store k (s1.issue_store k n why reason starve ▸ he)⟩
  rw [ht]
  exact Vector.getElem_set_ne _ _ (fun hv => hm (Fin.ext hv.symm))

/-! ## PACK_ISSUE and PACK_WAIT_EXPIRY (R164, R165, R344, R397) -/

/-- The pack of a line that is at its moment and that its ready list issues next (R164, R397). -/
def State.packGoing (s : State) (p : PartId) (line : Nat) (why : IssueWhy) (d : HalfTimes) : Option Ready :=
  (match s.entry? p line with | some e => s.entryPacks e | none => []).find? (fun (r : Ready) =>
    (match why with | .full => r.full | .idle => s.idleOk d r.pack) && decide (s.listChoice d p (packOp r.pack) = some r.pack))

section
variable {p : PartId} {line : Nat} {why : IssueWhy} {d : HalfTimes} {t : Nat} {s : State} {n : TuId} {reason : Nat}

/-- The unmatched list without an item. -/
def State.withoutWaiter (s : State) (w : HWait) : State := { s with herd := { s.herd with unmatched := s.herd.unmatched.erase w } }

/-- The pack that goes, or else the item of the unmatched list that does (R164, R165). -/
theorem exec_packIssue (hw : (s.at t).works p = true) : exec (.packIssue p line why d t) s =
    (let s1 := s.at t
    match s1.packGoing p line why d with
    | some r => match s1.chooseTu r.pack d with
      | some c => .next (s1.issue r.pack c.1 (match why with | .full => 1 | .idle => 3) c.2 (s1.starves d r.pack))
      | none => .next s1
    | none => match s1.unmatchedNext with
      | some (w, n, reason) => if w.part = p && w.line == line then .next ((s1.withoutWaiter w).issue ⟨p, line, [w]⟩ n 0 reason false) else .next s1
      | none => .next s1) := by
  show execPackIssue p line why d t s = _
  exact if_neg (by rw [hw]; decide)

variable {e : MatchEntry} (hw : s.works p = true) (ht : s.timerFires (.packWait p line) t = true) (he : (s.at t).entry? p line = some e)
  (hne : (s.at t).entryPacks e ≠ [])
include hw ht he hne

theorem exec_packWaitExpiry : exec (.packWaitExpiry p line d t) s =
    (let s1 := s.at t
    match s1.dueChoice p d (s1.entryPacks e) with
    | some k => match s1.chooseTu k d with
      | some c => .next ((s1.fire (.packWait p line) t).issue k c.1 2 c.2 (s1.starves d k))
      | none => .next s1
    | none => .next s1) := by
  show execPackWaitExpiry p line d t s = _
  unfold execPackWaitExpiry
  refine (if_pos (by rw [hw, ht]; rfl)).trans ?_
  extract_lets s1 packs
  have hk : packs = s1.entryPacks e := by simp only [packs, s1, he]
  rw [hk]
  exact if_neg (by rwa [List.isEmpty_iff])

end

/-! ## TEST (R120, R169 to R175, R511) -/

/-- A TU has taken its next pack and its rays have met the Kennel words given up or corrected (R120, R168). -/
def State.tested (s : State) (tu : TuId) (k : Pack) (words : List (Nat × Check)) : State :=
  words.foldl (fun s w => s.kennelWord k.part k.items w) ((s.tuTake tu k).setLastTu tu k)

section
variable {tu : TuId} {words : List (Nat × Check)} {env : Env} {k : Pack} {s : State}

theorem exec_test (hp : ((s.at env.t).tuPlace tu).isSome = true) (hk : (s.at env.t).tuNext tu [1] = some k) (check : Check) :
    exec (.test tu check words env) s =
    (let s2 := (s.at env.t).tested tu k words
    let l := s2.standing k.items
    if env.hw.addr then .next (s2.endPack 6 tu { k with items := l })
    else match check with
    | .failed => .next ((s2.endPack 3 tu { k with items := l }).residueError tu)
    | .corrected => .next (s2.errCorrected.visitPack env k.part tu.val k.line l)
    | .ok => .next (s2.visitPack env k.part tu.val k.line l)) := by
  show execTest tu check words env s = _
  have hn : ((s.at env.t).tuPlace tu).isNone = false := by rw [← Option.not_isSome, hp]; rfl
  simp only [execTest, hn, Bool.false_eq_true, if_false, hk]
  cases check <;> rfl

end

/-- A pack of one ray whose visit is over. -/
theorem State.visitPack_out {s s3 : State} {env : Env} {p : PartId} {tu line i : Nat} {w : HWait} (hi : w.item = .ray i)
    (hv : s.visitRay env p i tu line = .out s3) : s.visitPack env p tu line [w] = s3.flushInvs p := by
  simp only [State.visitPack, State.visitAll, hi, hv]

/-- A pack of which an access fails parks whole (R169, R450). -/
theorem State.visitPack_bad {s s3 : State} {env : Env} {p : PartId} {tu line : Nat} {l : List HWait} {x : Xfault}
    (hv : s.visitAll env p tu line l = .bad s3 x) : s.visitPack env p tu line l = s.parkPack env p tu x l := by
  rw [State.visitPack, hv]

/-! ## INVOKE (R164, R180, R298) -/

section
variable (s : State) (c : CoreId) (x : Group) (l : List Invoke) (why : Nat)

theorem State.sendGroup_core (d : CoreId) : (s.sendGroup c x l why).core d = (s.enqueue c ⟨[x], 1⟩).core d := by
  unfold State.sendGroup
  rw [State.record_core, State.record_core]
  rfl

theorem State.sendGroup_invokes : (s.sendGroup c x l why).herd.invokes = s.herd.invokes.filter (fun v => !l.contains v) := by
  unfold State.sendGroup
  rw [State.record_herd, State.record_herd]
  rfl

end

section
variable {p : PartId} {cls : BitVec 2} {caddy : CaddyId} {slot : Fin 256} {t : Nat} {s : State} {x : Group} {c : CoreId}

theorem exec_invoke (hw : (s.at t).works p = true)
    (hx : (s.at t).rayGroup p cls (BitVec.ofNat 2 caddy.val) slot.val ((s.at t).gather p cls (BitVec.ofNat 2 caddy.val) slot.val) = some x)
    (hc : (s.at t).pickCore (BitVec.ofNat 2 caddy.val) x.key = some c) : exec (.invoke p cls caddy slot t) s =
    (let s1 := s.at t
    let cd : BitVec 2 := BitVec.ofNat 2 caddy.val
    let l := s1.gather p cls cd slot.val
    let due := s1.timerFires (.groupWait p cls cd slot.val) t
    if s1.groupMoment c l due then
      .next (((s1.doIf due (·.fire (.groupWait p cls cd slot.val) t)).sendGroup c x l (s1.groupWhy l due)).armGroup p cls cd slot.val)
    else .next s1) := by
  show execInvoke p cls caddy slot t s = _
  simp only [execInvoke, hw, Bool.not_true, Bool.false_eq_true, if_false, hx, hc]
  cases (s.at t).groupMoment c _ _ <;> rfl

end

/-- Settles O34: a pack's way to its TU at each of its moments, the visit that a TU makes with it, and a group's way to its core. -/
theorem packsGoToTheirUnit : Obligations.PacksGoToTheirUnit := by
  refine ⟨?issue, ?expiry, ?test, ?invoke⟩
  case issue =>
    intro p line why d t n reason s s1 go hw
    have hx := exec_packIssue (line := line) (why := why) (d := d) hw
    refine ⟨fun r hg hc => ?_, fun w hg hu hp hl => ?_⟩
    · have hg' : s1.packGoing p line why d = some r := hg
      simp only [s1] at hg' hc
      simp only [hg', hc] at hx
      exact ⟨_, hx, State.issue_joined rfl ..⟩
    · have hg' : s1.packGoing p line why d = none := hg
      simp only [s1] at hg' hu
      simp only [hg', hu] at hx
      exact ⟨_, hx.trans (if_pos (by simp [hp, hl])), State.issue_joined rfl .., State.issue_unmatched ..⟩
  case expiry =>
    intro p line d t e s s1 hw ht he hne
    have hx := exec_packWaitExpiry (d := d) hw ht he hne
    refine ⟨fun k n reason hk hc => ?_, fun hk => ?_⟩
    · simp only [s1] at hk hc
      simp only [hk, hc] at hx
      exact ⟨_, hx, State.issue_joined (State.fire_tus ..) ..⟩
    · simp only [s1] at hk
      simp only [hk] at hx
      exact hx
  case test =>
    intro tu words env k s s1 s2 l hp hk
    have hx := exec_test (words := words) hp hk
    refine ⟨fun ha check => (hx check).trans (if_pos ha), fun ha => ?_⟩
    have hv := fun check => (hx check).trans (if_neg (by rw [ha]; decide))
    refine ⟨hv .ok, hv .corrected, hv .failed, fun w i s3 hl hi ho => ?_, fun s3 x hb => ?_⟩
    · exact (hv .ok).trans (congrArg Host.Outcome.next (by rw [← State.visitPack_out hi ho, ← hl]; rfl))
    · exact (hv .ok).trans (congrArg Host.Outcome.next (State.visitPack_bad hb))
  case invoke =>
    intro p cls caddy slot t x c s s1 cd l hw hx hc
    have he := exec_invoke hw hx hc
    refine ⟨fun hm => he.trans (if_neg (by rw [hm]; decide)), fun hm => ⟨_, he.trans (if_pos hm), ?_⟩⟩
    have hq := fun k => State.doIf_keeps (State.core · k) s1 (s1.timerFires (.groupWait p cls cd slot.val) t) (·.fire (.groupWait p cls cd slot.val) t)
      (fun x => x.fire_core ..)
    have hh := State.doIf_keeps State.herd s1 (s1.timerFires (.groupWait p cls cd slot.val) t) (·.fire (.groupWait p cls cd slot.val) t)
      (fun x => x.fire_herd ..)
    refine ⟨?_, fun k hk => ?_, ?_⟩
    · rw [State.armGroup_core, State.sendGroup_core, State.core_enqueue, hq]
      rfl
    · rw [State.armGroup_core, State.sendGroup_core, State.core_enqueue_ne _ _ hk, hq]
      rfl
    · rw [State.armGroup_herd, State.sendGroup_invokes, hh]
      rfl

end Sys2Proof.Machine
end

section
/-!
What the writes of a BUILD command leave (R141, R142, R15): the hierarchy's image in memory, the command's own record and the list of outstanding
writes; the reads of a later stage of the command see that memory and nothing else of it.
-/

namespace Sys2Proof.Machine
open Sys2Proof

/-! ## The reads of a BUILD command depend on memory, the pages and the memory management unit only -/

section
variable {s t : State} (hm : t.mem = s.mem) (hp : t.parts = s.parts) (ht : t.mmu = s.mmu)
include hm hp ht

theorem State.blasBox_congr (p : PartId) (v : Nat) : t.blasBox p v = s.blasBox p v := by
  simp only [State.blasBox, State.vdesc_congr hm hp ht]

theorem State.primRec_congr (p : PartId) (kind : Nat) (sigma4 : Bool) (v : Nat) : t.primRec p kind sigma4 v = s.primRec p kind sigma4 v := by
  simp only [State.primRec, State.blasBox_congr hm hp ht]

theorem State.primRecs_congr (p : PartId) (kind : Nat) (sigma4 : Bool) (l : List Nat) : t.primRecs p kind sigma4 l = s.primRecs p kind sigma4 l := by
  induction l with
  | nil => rfl
  | cons v r ih => simp only [State.primRecs, State.primRec_congr hm hp ht, ih]

theorem State.inputRecs_congr (p : PartId) (c : Cmd) : t.inputRecs p c = s.inputRecs p c := by
  simp only [State.inputRecs, State.vnum_congr hm hp ht, State.primRecs_congr hm hp ht]

theorem State.memWalk_congr (p : PartId) (isBox : Bool) (base f : Nat) (l : List (Nat × Nat)) : t.memWalk p isBox base f l = s.memWalk p isBox base f l := by
  induction f generalizing l with
  | zero => cases l <;> rfl
  | succ f ih =>
    cases l with
    | nil => rfl
    | cons x r => simp only [State.memWalk, State.vnum_congr hm hp ht, ih]

theorem State.memWalks_congr (p : PartId) (isBox : Bool) (base f : Nat) (l : List Nat) : t.memWalks p isBox base f l = s.memWalks p isBox base f l := by
  induction l with
  | nil => rfl
  | cons u r ih => simp only [State.memWalks, State.memWalk_congr hm hp ht, ih]

theorem State.memLeaves_congr (p : PartId) (base : Nat) (l : List (Nat × Nat)) : t.memLeaves p base l = s.memLeaves p base l := by
  induction l with
  | nil => rfl
  | cons x r ih => simp only [State.memLeaves, State.vnum_congr hm hp ht, ih]

/-- A write fails in both states or in neither, and it leaves the same memory. -/
theorem State.vwrite_congr (p : PartId) (va : Nat) (bs : List Byte) :
    t.vwrite p va bs = match s.vwrite p va bs with | .bad x => .bad x | .ok u => .ok { t with mem := u.mem } := by
  simp only [State.vwrite, State.vwriteAs, State.xlat_congr hm hp ht, hm]
  cases s.xlat p .write (pieces va bs.length) <;> rfl

end

/-- A run of writes goes equally far in states of one memory and one translation, and leaves the same memory. -/
theorem State.vwriteSome_congr {s t : State} (hm : t.mem = s.mem) (hp : t.parts = s.parts) (ht : t.mmu = s.mmu) (p : PartId)
    (ws : List (Nat × List Byte)) (n : Nat) :
    t.vwriteSome p ws n = ⟨{ t with mem := (s.vwriteSome p ws n).s.mem }, (s.vwriteSome p ws n).n, (s.vwriteSome p ws n).bad⟩ := by
  induction ws generalizing s t n with
  | nil => simp only [State.vwriteSome, ← hm]
  | cons w r ih =>
    simp only [State.vwriteSome, State.vwrite_congr hm hp ht]
    cases h : s.vwrite p w.1 w.2 with
    | bad x => simp only [← hm]
    | ok u =>
      have e := State.vwrite_eq h
      have hp' : t.parts = u.parts := by rw [e]; exact hp
      have ht' : t.mmu = u.mmu := by rw [e]; exact ht
      exact ih (s := u) (t := { t with mem := u.mem }) rfl hp' ht' (n + 1)

/-- A run of writes changes memory only. -/
theorem State.vwriteSome_eq (s : State) (p : PartId) (ws : List (Nat × List Byte)) (n : Nat) :
    (s.vwriteSome p ws n).s = { s with mem := (s.vwriteSome p ws n).s.mem } :=
  congrArg Wrote.s (State.vwriteSome_congr rfl rfl rfl p ws n)

@[simp] theorem State.vwriteSome_queue (s : State) (p : PartId) (ws : List (Nat × List Byte)) (n : Nat) (k : QueueId) :
    (s.vwriteSome p ws n).s.queue k = s.queue k := by
  rw [State.vwriteSome_eq]
  rfl

/-! ## The state behind a BUILD command's writes -/

/-- The time has no part in whose queue it is. -/
theorem State.at_qPart (s : State) (t : Nat) (q : QueueId) : (s.at t).qPart q = s.qPart q := rfl

/-- To the accesses of the command `r` and to the other queues `t` is `s`; the queue of `r` is of partition `p` and holds `r` still. -/
structure State.Noted (r : CmdRef) (p : PartId) (s t : State) : Prop where
  mem    : t.mem = s.mem
  parts  : t.parts = s.parts
  mmu    : t.mmu = s.mmu
  owner  : t.qPart r.q = p
  others : ∀ k, k ≠ r.q → t.queue k = s.queue k
  held   : ∃ c ∈ (t.queue r.q).cmds, c.seq = r.seq

/-- A command that begins has written nothing. -/
theorem State.Noted.beginning {s : State} {t : Nat} {q : QueueId} {op : Nat} {c : Cmd} (h : (s.at t).beginning q op = some c) :
    State.Noted ⟨q, c.seq⟩ (s.qPart q) (s.at t) (s.at t) :=
  ⟨rfl, rfl, rfl, rfl, fun _ _ => rfl, State.holds_of_beginning h⟩

section
variable {s t : State} {r : CmdRef} {p : PartId} (h : State.Noted r p s t)
include h

theorem State.Noted.noteWrite (l : List (Nat × Nat)) : State.Noted r p s (t.noteWrite (.command r) p l) :=
  ⟨h.mem, h.parts, h.mmu, h.owner, fun k hk => (State.queue_updCmd_ne t _ hk).trans (h.others k hk), State.held_updCmd h.held (fun _ => rfl)⟩

theorem State.Noted.noteIf (b : Bool) (l : List (Nat × Nat)) : State.Noted r p s (t.doIf b (·.noteWrite (.command r) p l)) := by
  cases b
  · exact h
  · exact h.noteWrite l

/-- Behind more writes of the command, memory is that of the writes alone, and the same access fails, if one does. -/
theorem State.Noted.write (ws : List (Nat × List Byte)) :
    State.Noted r p (s.vwriteSome p ws 0).s (t.buildWrite r ws).s ∧ (t.buildWrite r ws).bad = (s.vwriteSome p ws 0).bad := by
  have wrote : State.Noted r p (s.vwriteSome p ws 0).s { t with mem := (s.vwriteSome p ws 0).s.mem } := by
    rw [State.vwriteSome_eq s]
    exact ⟨rfl, h.parts, h.mmu, h.owner, h.others, h.held⟩
  rw [State.buildWrite, h.owner, State.vwriteSome_congr h.mem h.parts h.mmu p ws 0]
  exact ⟨wrote.noteIf _ _, rfl⟩

/-- The end of a build whose writes all go through. -/
theorem State.Noted.buildOut_done {ws : List (Nat × List Byte)} (hb : (s.vwriteSome p ws 0).bad = none) (env : Env) (dst : Nat)
    (marks : List (Nat × Nat)) :
    let u := t.buildOut env r dst ws marks none
    u.mem = (s.vwriteSome p ws 0).s.mem ∧ u.endedDone r ∧ ∀ k, k ≠ r.q → u.queue k = s.queue k := by
  obtain ⟨hn, hbad⟩ := h.write ws
  simp only [State.buildOut, hbad, hb]
  exact ⟨hn.mem, State.endedDone_finishOk _ r hn.held,
    fun k hk => (State.queue_updCmd_ne _ _ hk).trans ((hn.others k hk).trans (State.vwriteSome_queue ..))⟩

/-- The end of a build with a status, behind writes that all go through. -/
theorem State.Noted.buildOut_failed {ws : List (Nat × List Byte)} (hb : (s.vwriteSome p ws 0).bad = none) (env : Env) (dst : Nat)
    (marks : List (Nat × Nat)) (st : W16) :
    let u := t.buildOut env r dst ws marks (some st)
    u.mem = (s.vwriteSome p ws 0).s.mem ∧ u.endedWith r st ∧ ∀ k, k ≠ r.q → u.queue k = s.queue k := by
  obtain ⟨hn, hbad⟩ := h.write ws
  simp only [State.buildOut, hbad, hb]
  exact ⟨hn.mem, State.endedWith_finish _ r st hn.held,
    fun k hk => (State.queue_updCmd_ne _ _ hk).trans ((hn.others k hk).trans (State.vwriteSome_queue ..))⟩

/-- The end of a refit whose writes all go through. -/
theorem State.Noted.refitOut_done {ws : List (Nat × List Byte)} (hb : (s.vwriteSome p ws 0).bad = none) (env : Env) (dst pre : Nat)
    (marks : List (Nat × Nat)) :
    let u := t.refitOut env r dst pre ws marks
    u.mem = (s.vwriteSome p ws 0).s.mem ∧ u.endedDone r ∧ ∀ k, k ≠ r.q → u.queue k = s.queue k := by
  have same : t.refitOut env r dst pre ws marks = t.buildOut env r dst ws marks none := by
    simp only [State.refitOut, State.buildOut, (h.write ws).2, hb]
  rw [same]
  exact h.buildOut_done hb env dst marks

end

/-- Where the writes `w` go through, a command ends with its work done, and it leaves their memory and the other queues as they were. -/
def State.writesBy (s : State) (i : Instr) (r : CmdRef) (w : Wrote) : Prop :=
  w.bad = none → ∃ u, exec i s = .next u ∧ u.mem = w.s.mem ∧ u.endedDone r ∧ ∀ k, k ≠ r.q → u.queue k = s.queue k

theorem State.Noted.buildOut_writes {s a t : State} {r : CmdRef} {p : PartId} (h : State.Noted r p a t) {ws : List (Nat × List Byte)} {i : Instr}
    {env : Env} {dst : Nat} {marks : List (Nat × Nat)} (hx : exec i s = .next (t.buildOut env r dst ws marks none))
    (hq : ∀ k, a.queue k = s.queue k) : s.writesBy i r (a.vwriteSome p ws 0) := by
  intro hb
  obtain ⟨hm, hend, hk⟩ := h.buildOut_done hb env dst marks
  exact ⟨_, hx, hm, hend, fun k hne => (hk k hne).trans (hq k)⟩

end Sys2Proof.Machine
end

section
/-!
BUILD_BOX and BUILD_REFIT (R141, R142, R146, R147): what each row makes of the state, and the image that it leaves.
-/

namespace Sys2Proof.Machine
open Sys2Proof

/-- The first writes of a build that replaces its hierarchy: the descriptor emptied, then what the engine leaves in scratch (R141, R142). -/
def State.startBuild (s : State) (r : CmdRef) (c : Cmd) (d : Desc) (size : Nat) (scratch : List (Nat × Byte)) : Wrote :=
  s.buildWrite r (emptyFirst (rb c.raw 24 8) d ++ scratchWrites c size scratch)

/-- A command that ends with BAD_FIELD at its checks leaves memory as it was. -/
theorem ends_badField_of_finish {s : State} {r : CmdRef} {o : Host.Outcome State Fault Refusal} (t : Nat)
    (h : ∃ c ∈ (s.queue r.q).cmds, c.seq = r.seq) (ho : o = .next ((s.at t).finish r stBadField)) :
    ∃ u, o = .next u ∧ u.endedWith r stBadField ∧ u.mem = s.mem :=
  ⟨_, ho, State.endedWith_finish (s.at t) r _ h, rfl⟩

section
variable {q : QueueId} {env : Env} {c : Cmd} {d : Desc} {scratch : List (Nat × Byte)} {s : State}

theorem exec_buildBox_bad (h : (s.at env.t).beginning q 0x10 = some c) (hd : (s.at env.t).vdesc (s.qPart q) (rb c.raw 24 8) = .ok d)
    (hs : d.softOk 0 false = false) : exec (.buildBox q scratch env) s = .next ((s.at env.t).finish ⟨q, c.seq⟩ stBadField) := by
  show execBuildBox q scratch env s = _
  simp only [execBuildBox, h]
  rw [State.at_qPart, hd]
  exact if_pos (by rw [hs]; rfl)

/-- A BUILD_BOX behind its checks: the outcome turns on whether its collapsed tree fits in NODE_CAP (R146). -/
theorem exec_buildBox {w : Wrote} {recs : List PrimRec} (h : (s.at env.t).beginning q 0x10 = some c)
    (hd : (s.at env.t).vdesc (s.qPart q) (rb c.raw 24 8) = .ok d) (hs : d.softOk 0 false = true)
    (hw : (s.at env.t).startBuild ⟨q, c.seq⟩ c d (32 * rb c.raw 16 4 + 2 ^ 22) scratch = w) (hb : w.bad = none)
    (hr : w.s.inputRecs (s.qPart q) c = .ok recs) :
    let dst := rb c.raw 24 8
    let kind := rb c.raw 40 1 % 8 + 1
    let leafMax := 4 * 2 ^ (rb c.raw 40 1 / 16 % 4)
    let base := collapsed (recs.map (·.box)) leafMax
    let need := (layTree kind ((parseTree base).getD [])).next
    let t := buildTree (bit c.raw 323) kind leafMax d.cap recs base
    exec (.buildBox q scratch env) s = .next (if d.cap < need
      then w.s.buildOut env ⟨q, c.seq⟩ dst [wr (dst + 16) 4 need, seqWrite dst d] [] (some stBadField)
      else w.s.buildOut env ⟨q, c.seq⟩ dst (boxImage c d recs t) (boxMarks kind t) none) := by
  subst hw
  intro dst kind leafMax base need t
  show execBuildBox q scratch env s = _
  simp only [execBuildBox, h]
  rw [State.at_qPart, hd]
  simp only [hs, Bool.not_true, Bool.false_eq_true, if_false]
  rw [State.startBuild] at hb hr
  rw [hb]
  dsimp only
  rw [hr]
  exact (apply_ite _ _ _ _).symm

theorem exec_buildRefit_bad (h : (s.at env.t).beginning q 0x13 = some c) (hd : (s.at env.t).vdesc (s.qPart q) (rb c.raw 24 8) = .ok d)
    (hx : d.softOk 0 true = false ∨ d.primCount ≠ rb c.raw 16 4 ∨ d.primKind ≠ rb c.raw 40 1 % 8 + 1) :
    exec (.buildRefit q scratch env) s = .next ((s.at env.t).finish ⟨q, c.seq⟩ stBadField) := by
  show execBuildRefit q scratch env s = _
  simp only [execBuildRefit, h]
  rw [State.at_qPart, hd]
  exact if_pos (by simpa [or_assoc] using hx)

/-- A BUILD_REFIT that its descriptor allows, all it reads being there (R147). -/
theorem exec_buildRefit {recs : List PrimRec} {ns : List MemNode} {leaves : List (Nat × Nat)} (h : (s.at env.t).beginning q 0x13 = some c)
    (hd : (s.at env.t).vdesc (s.qPart q) (rb c.raw 24 8) = .ok d) (hs : d.softOk 0 true = true) (hc : d.primCount = rb c.raw 16 4)
    (hk : d.primKind = rb c.raw 40 1 % 8 + 1) (hr : (s.at env.t).inputRecs (s.qPart q) c = .ok recs)
    (hw : (s.at env.t).memWalk (s.qPart q) true d.base (d.used + 1) (if d.empty then [] else [(d.root, 1)]) = .ok (some ns))
    (hl : (s.at env.t).memLeaves (s.qPart q) d.base ((leafKids ns).map (fun k => (k.2.idx, leafUnits k.2.kind k.2.n))) = .ok leaves) :
    let dst := rb c.raw 24 8
    let kind := rb c.raw 40 1 % 8 + 1
    let places := if kind = 2 then instPlaces (fun i => instUnit (recs.getD i ⟨0, none, 0⟩)) (unitInsts leaves (leafKids ns)) (List.range (rb c.raw 16 4))
      else []
    let prims := refitPrims kind leaves places (leafKids ns) 0
    let img := refitImage kind recs prims ns
    let sw := scratchWrites c (8 * d.used + 2 ^ 20) scratch
    exec (.buildRefit q scratch env) s = .next ((s.at env.t).refitOut env ⟨q, c.seq⟩ dst sw.length (sw ++ unitWrites d.base 128 img.1
        ++ [wr (dst + 40) 4 (recs.filter (fun x => x.box.isNone)).length] ++ rootBoxWrites dst img.2 ++ [seqWrite dst d])
      (runMarks sw.length (prims.map (fun l => (leafUnits kind l.2.length, l.2.length))))) := by
  show execBuildRefit q scratch env s = _
  have allowed : (!d.softOk 0 true || d.primCount != rb c.raw 16 4 || d.primKind != rb c.raw 40 1 % 8 + 1) = false := by simp [hs, hc, hk]
  simp only [execBuildRefit, h]
  rw [State.at_qPart, hd]
  simp only [allowed, Bool.false_eq_true, if_false, hr, hw, hl]

end

/-- Settles O28: each way a build or a refit goes is one equation of its row, and the note of its writes leaves its image as it is. -/
theorem boxBuildsWriteTheirImage : Obligations.BoxBuildsWriteTheirImage := by
  intro q env c d scratch s s1 p r n dst kind badField hd
  refine ⟨fun h => ?build, fun h => ?refit⟩
  all_goals have held := State.holds_of_beginning h
  case build =>
    refine ⟨fun hs => ends_badField_of_finish env.t held (exec_buildBox_bad h hd hs), ?_⟩
    intro recs hs a leafMax base need t b ha hr hb
    obtain ⟨hn, hbad⟩ := (State.Noted.beginning h).write (emptyFirst dst d ++ scratchWrites c (32 * n + 2 ^ 22) scratch)
    have hx := exec_buildBox h hd hs rfl (hbad.trans ha) ((State.inputRecs_congr hn.mem hn.parts hn.mmu p c).trans hr)
    by_cases hc : d.cap < need
    · simp only [b, if_pos hc] at hb ⊢
      obtain ⟨hm, hend, hk⟩ := hn.buildOut_failed hb env dst [] stBadField
      exact ⟨_, hx.trans (congrArg Host.Outcome.next (if_pos hc)), hm, fun hle => absurd hc (Nat.not_lt.2 hle), fun _ => hend,
        fun k hne => (hk k hne).trans (State.vwriteSome_queue ..)⟩
    · simp only [b, if_neg hc] at hb ⊢
      obtain ⟨hm, hend, hk⟩ := hn.buildOut_done hb env dst (boxMarks kind t)
      exact ⟨_, hx.trans (congrArg Host.Outcome.next (if_neg hc)), hm, fun _ => hend, fun hlt => absurd hlt hc,
        fun k hne => (hk k hne).trans (State.vwriteSome_queue ..)⟩
  case refit =>
    refine ⟨fun hx => ends_badField_of_finish env.t held (exec_buildRefit_bad h hd hx), ?_⟩
    intro recs ns leaves hs hc hk hr hw ks hl places img b hb
    exact ⟨_, exec_buildRefit h hd hs hc hk hr hw hl, (State.Noted.beginning h).refitOut_done hb env dst _ _⟩

end Sys2Proof.Machine
end

section
/-!
BUILD_KEYS and BUILD_INSERT (R139, R142, R147 to R151): what each row makes of the state, and an entry's record of its keys.
-/

namespace Sys2Proof.Machine
open Sys2Proof

/-! ## BUILD_KEYS -/

/-- The writes of a BUILD_KEYS whose keys meet R139, in order (R142, R148, R149). -/
def keysImage (c : Cmd) (d : Desc) (scratch : List (Nat × Byte)) (pm : List (List W32)) (ys : List KeyY) : List (Nat × List Byte) :=
  let n := rb c.raw 16 4
  let dst := rb c.raw 24 8
  let keep := bit c.raw 320
  let bs := leafBoxes (deltaOf pm) n ys
  let box := fun j => bs.getD j ⟨([], []), 0⟩
  let t := keyTree 0 ((leafPlaces keep n box).map (fun j => (j, box j)))
  emptyFirst dst d ++ scratchWrites c (320 * cdiv n 32 + 2 ^ 20) scratch ++ unitWrites d.base 640 t.2.2
    ++ [wr (dst + 2) 2 (if keep then 2 else 0), wr (dst + 16) 4 t.2.2.length, wr (dst + 38) 1 t.2.1,
        wr (dst + 66) 2 (rb c.raw 56 2), wr (dst + 72) 4 n, wr (dst + 80) 8 (rb c.raw 8 8), wr (dst + 96) 8 (rb c.raw 48 8),
        wr (dst + 104) 4 (deltaOf pm).toNat, seqWrite dst d, wr (dst + 4) 4 t.1]

section
variable {q : QueueId} {env : Env} {c : Cmd} {d : Desc} {scratch : List (Nat × Byte)} {s : State}

theorem exec_buildKeys_bad (h : (s.at env.t).beginning q 0x11 = some c) (hd : (s.at env.t).vdesc (s.qPart q) (rb c.raw 24 8) = .ok d)
    (hx : d.softOk 1 false = false ∨ (s.at env.t).fmtOn c.caddy (s.qPart q) d.kfmt = false ∨ d.keyCap < rb c.raw 16 4
      ∨ d.cap < keyCapUnits d.keyCap) : exec (.buildKeys q scratch env) s = .next ((s.at env.t).finish ⟨q, c.seq⟩ stBadField) := by
  show execBuildKeys q scratch env s = _
  simp only [execBuildKeys, h]
  rw [State.at_qPart, hd]
  exact if_pos (by simpa [or_assoc] using hx)

section
variable {pn : Nat} (h : (s.at env.t).beginning q 0x11 = some c) (hd : (s.at env.t).vdesc (s.qPart q) (rb c.raw 24 8) = .ok d)
  (hs : d.softOk 1 false = true) (hf : (s.at env.t).fmtOn c.caddy (s.qPart q) d.kfmt = true) (hn : rb c.raw 16 4 ≤ d.keyCap)
  (hu : keyCapUnits d.keyCap ≤ d.cap) (hp : (s.at env.t).vnum (s.qPart q) (rb c.raw 48 8) (64 * rb c.raw 56 2) = .ok pn)
include h hd hs hf hn hu hp

/-- A projection or a key that meets R139 ends the command before it has written anything. -/
theorem exec_buildKeys_r139 (hx : deltaBad (pRows (rb c.raw 56 2) pn) = true ∨ (s.at env.t).keysOf (s.qPart q)
      ⟨d.kfmt, rb c.raw 56 2, rb c.raw 8 8, d.scaleAddr⟩ (pRows (rb c.raw 56 2) pn) 0 (rb c.raw 16 4) = .ok none) :
    exec (.buildKeys q scratch env) s = .next ((s.at env.t).finish ⟨q, c.seq⟩ stBadField) := by
  show execBuildKeys q scratch env s = _
  simp only [execBuildKeys, h]
  rw [State.at_qPart, hd]
  simp only [hs, hf, hp, Bool.not_true, Bool.or_self, Nat.not_lt.2 hn, Nat.not_lt.2 hu, decide_false, Bool.false_eq_true, if_false]
  by_cases hb : deltaBad (pRows (rb c.raw 56 2) pn) = true
  · exact if_pos hb
  · rw [if_neg hb, hx.resolve_left hb]

theorem exec_buildKeys {ys : List KeyY} (hb : deltaBad (pRows (rb c.raw 56 2) pn) = false)
    (hy : (s.at env.t).keysOf (s.qPart q) ⟨d.kfmt, rb c.raw 56 2, rb c.raw 8 8, d.scaleAddr⟩ (pRows (rb c.raw 56 2) pn) 0 (rb c.raw 16 4)
      = .ok (some ys)) :
    exec (.buildKeys q scratch env) s = .next ((s.at env.t).buildOut env ⟨q, c.seq⟩ (rb c.raw 24 8)
      (keysImage c d scratch (pRows (rb c.raw 56 2) pn) ys) [(0, rb c.raw 16 4)] none) := by
  show execBuildKeys q scratch env s = _
  simp only [execBuildKeys, h]
  rw [State.at_qPart, hd]
  simp only [hs, hf, hp, hb, hy, Bool.not_true, Bool.or_self, Nat.not_lt.2 hn, Nat.not_lt.2 hu, decide_false, Bool.false_eq_true,
    if_false]
  rfl

theorem buildKeys_writes {ys : List KeyY} {b : Wrote} (hδ : deltaBad (pRows (rb c.raw 56 2) pn) = false)
    (hy : (s.at env.t).keysOf (s.qPart q) ⟨d.kfmt, rb c.raw 56 2, rb c.raw 8 8, d.scaleAddr⟩ (pRows (rb c.raw 56 2) pn) 0 (rb c.raw 16 4)
      = .ok (some ys)) (hb : (s.at env.t).vwriteSome (s.qPart q) (keysImage c d scratch (pRows (rb c.raw 56 2) pn) ys) 0 = b) :
    s.writesBy (.buildKeys q scratch env) ⟨q, c.seq⟩ b := by
  subst hb
  exact (State.Noted.beginning h).buildOut_writes (exec_buildKeys h hd hs hf hn hu hp hδ hy) (fun _ => rfl)

end
end

/-! ## BUILD_INSERT -/

/-- Writes that all go through change memory only. -/
theorem State.vwriteAll_eq {s u : State} {p : PartId} {ws : List (Nat × List Byte)} (h : s.vwriteAll p ws = .ok u) : u = { s with mem := u.mem } := by
  induction ws generalizing s with
  | nil => cases h; rfl
  | cons w r ih =>
    simp only [State.vwriteAll] at h
    split at h
    · cases h
    next s1 h1 =>
      have e := ih h
      rw [State.vwrite_eq h1] at e
      exact e

/-- The changed record of a command stands in its queue. -/
theorem State.mem_updCmd_self {s : State} {r : CmdRef} {c : Cmd} (h : c ∈ (s.queue r.q).cmds) (hs : c.seq = r.seq) (f : Cmd → Cmd) :
    f c ∈ ((s.updCmd r f).queue r.q).cmds := by
  rw [State.updCmd, State.queue_updQueue]
  exact List.mem_map.2 ⟨c, h, if_pos hs⟩

/-- The note of a command's writes leaves its progress as it is. -/
theorem State.mem_noteIf {s : State} {r : CmdRef} {c : Cmd} (h : c ∈ (s.queue r.q).cmds) (hs : c.seq = r.seq) (b : Bool) (p : PartId)
    (l : List (Nat × Nat)) :
    ∃ y ∈ ((s.doIf b (·.noteWrite (.command r) p l)).queue r.q).cmds, y.seq = r.seq ∧ y.next = c.next ∧ y.done = c.done := by
  cases b
  · exact ⟨c, h, hs, rfl, rfl⟩
  · exact ⟨_, State.mem_updCmd_self h hs (fun x => { x with writes := x.writes + 1 }), hs, rfl, rfl⟩

/-- The keys of an entry inserted into the index of descriptor `d` from where it stands: the index after them, how many, what stopped them. -/
def State.entryKeys (s : State) (p : PartId) (d : Desc) (pn keys : Nat) : Ins × Nat × Option (Option Xfault) :=
  s.insKeys p d.base d.cap ⟨d.kfmt, d.dim, d.keyAddr, d.scaleAddr⟩ (pRows d.dim pn) d.delta keys 0 ⟨d.root, d.used, d.depth, d.keyCount, []⟩

/-- The command's record after an entry of `m` keys. -/
def Cmd.entryDone (m : Nat) (y : Cmd) : Cmd := { y with phase := .running, next := y.next + 1, done := y.done + m, offset := 0, descs := [] }

section
variable {env : Env} {c : Cmd} {d : Desc} {s : State} {r : CmdRef} {p : PartId} {dst keys pn : Nat} {x : Ins × Nat × Option (Option Xfault)}
  (hq : s.qPart r.q = p) (hp : s.vnum p d.pAddr (64 * d.dim) = .ok pn) (hx : s.entryKeys p d pn keys = x)
include hq hp hx

/-- An entry whose first key meets R139 or finds no room. -/
theorem State.insEntry_first (hn : x.2.2 = some none) (h0 : x.2.1 = 0) : s.insEntry env c r dst keys d d = s.finish r stBadField := by
  rw [State.entryKeys] at hx
  simp only [State.insEntry, hq, hp, Nat.sub_self, Nat.sub_zero, hx, hn, h0, if_true]

/-- An entry all of whose keys are inserted and whose writes go through. -/
theorem State.insEntry_done {s2 : State} {ws : List (Nat × List Byte)} (hn : x.2.2 = none)
    (hl : unitWrites d.base 640 x.1.nodes ++ insFields dst d x.1 = ws) (hw : s.vwriteAll p ws = .ok s2) :
    s.insEntry env c r dst keys d d = ((s2.doIf (!ws.isEmpty) (·.noteWrite (.command r) p (spansOf ws))).updCmd r (Cmd.entryDone x.2.1)).doIf
      (decide (c.total ≤ c.done + x.2.1)) (·.finishOk r) := by
  rw [State.entryKeys] at hx
  simp only [State.insEntry, hq, hp, Nat.sub_self, Nat.sub_zero, hx, hn, hl, hw]
  rfl

end

/-- What an entry's end leaves (R77, R150): memory as it was written, and the command done or behind that entry. -/
theorem State.entryEnd {s : State} {r : CmdRef} {p : PartId} {c : Cmd} (m : Nat) (b : Bool) (l : List (Nat × Nat)) (h : c ∈ (s.queue r.q).cmds)
    (hs : c.seq = r.seq) :
    let u := ((s.doIf b (·.noteWrite (.command r) p l)).updCmd r (Cmd.entryDone m)).doIf (decide (c.total ≤ c.done + m)) (·.finishOk r)
    u.mem = s.mem ∧ (∀ k, k ≠ r.q → u.queue k = s.queue k) ∧ (c.total ≤ c.done + m → u.endedDone r)
      ∧ (c.done + m < c.total → u.isRunning r ∧ ∃ y ∈ (u.queue r.q).cmds, y.seq = c.seq ∧ y.next = c.next + 1 ∧ y.done = c.done + m) := by
  obtain ⟨y, hy, hys, hyn, hyd⟩ := State.mem_noteIf h hs b p l
  have others : ∀ k, k ≠ r.q → ((s.doIf b (·.noteWrite (.command r) p l)).updCmd r (Cmd.entryDone m)).queue k = s.queue k := fun k hk =>
    (State.queue_updCmd_ne _ _ hk).trans (State.doIf_keeps (State.queue · k) s b _ (fun x => State.queue_updCmd_ne x _ hk))
  have mem : ((s.doIf b (·.noteWrite (.command r) p l)).updCmd r (Cmd.entryDone m)).mem = s.mem :=
    State.doIf_keeps State.mem s b _ (fun _ => rfl)
  have here := State.mem_updCmd_self hy hys (Cmd.entryDone m)
  by_cases hle : c.total ≤ c.done + m
  · simp only [hle, decide_true, State.doIf, if_true]
    refine ⟨mem, fun k hk => (State.queue_updCmd_ne _ _ hk).trans (others k hk), fun _ => ?_, fun hlt => absurd hle (Nat.not_le.2 hlt)⟩
    exact State.endedDone_finishOk _ r ⟨_, here, hys⟩
  · simp only [hle, decide_false, State.doIf, Bool.false_eq_true, if_false]
    refine ⟨mem, others, fun hx => absurd hx id, fun _ => ⟨?_, _, here, hys.trans hs.symm, congrArg (· + 1) hyn, congrArg (· + m) hyd⟩⟩
    exact State.cmdIs_updCmd _ r _ _ (fun _ => rfl) ⟨y, hy, hys⟩ (fun _ _ _ => rfl)

/-- The destination and the number of keys of the entry that a BUILD_INSERT comes to: its own, or those of its list's next entry (R150). -/
def State.nextEntry (s : State) (p : PartId) (c : Cmd) (dest keys : Nat) : Prop :=
  (bit c.raw 320 = false ∧ dest = rb c.raw 24 8 ∧ keys = rb c.raw 16 4)
    ∨ ∃ e, bit c.raw 320 = true ∧ s.vnum p (rb c.raw 8 8 + 16 * c.next) 16 = .ok e ∧ dest = by_ e 0 8 % 2 ^ 57 ∧ dest % 64 = 0
        ∧ keys = by_ e 8 4 ∧ 0 < keys ∧ c.done + keys ≤ rb c.raw 16 4

section
variable {q : QueueId} {env : Env} {c : Cmd} {d : Desc} {s : State} (h : (s.at env.t).runOrBegin q 0x12 = some c)
include h

/-- An entry of no keys is passed over. -/
theorem exec_buildInsert_skips {e : Nat} (hl : bit c.raw 320 = true)
    (he : (s.at env.t).vnum (s.qPart q) (rb c.raw 8 8 + 16 * c.next) 16 = .ok e) (h0 : by_ e 8 4 = 0) :
    exec (.buildInsert q env) s = .next ((s.at env.t).updCmd ⟨q, c.seq⟩ (fun y => { y with phase := .running, next := y.next + 1 })) := by
  show execBuildInsert q env s = _
  simp only [execBuildInsert, h, hl]
  rw [State.at_qPart, he]
  exact if_pos h0

section
variable {dest keys : Nat} (h0 : c.descs = []) (he : (s.at env.t).nextEntry (s.qPart q) c dest keys)
  (hd : (s.at env.t).vdesc (s.qPart q) dest = .ok d)
include h0 he hd

/-- An entry with keys is applied, unless its descriptor does not fit. -/
theorem exec_buildInsert_entry : exec (.buildInsert q env) s =
    .next (if !d.softOk 1 true || decide (d.keyCap - d.keyCount < keys) || d.dim != rb c.raw 56 2
      then (s.at env.t).finish ⟨q, c.seq⟩ stBadField else (s.at env.t).insEntry env c ⟨q, c.seq⟩ dest keys d d) := by
  show execBuildInsert q env s = _
  simp only [execBuildInsert, h]
  rw [State.at_qPart]
  rcases he with ⟨hl, rfl, rfl⟩ | ⟨e, hl, hv, rfl, ha, rfl, hk, hle⟩
  · simp only [hl, hd, h0]
    rfl
  · have ok : ((c.descs.isEmpty && decide (rb c.raw 16 4 < c.done + by_ e 8 4)) || by_ e 0 8 % 2 ^ 57 % 64 != 0) = false := by
      rw [ha, decide_eq_false (Nat.not_lt.2 hle), Bool.and_false]
      rfl
    simp only [hl, hv, hd, ok, Nat.pos_iff_ne_zero.1 hk, if_false, Bool.not_true, Bool.false_eq_true]
    simp only [h0]
    rfl

theorem exec_buildInsert_bad (hx : d.softOk 1 true = false ∨ d.keyCap - d.keyCount < keys ∨ d.dim ≠ rb c.raw 56 2) :
    exec (.buildInsert q env) s = .next ((s.at env.t).finish ⟨q, c.seq⟩ stBadField) :=
  (exec_buildInsert_entry h h0 he hd).trans (congrArg Host.Outcome.next (if_pos (by simpa [or_assoc] using hx)))

theorem exec_buildInsert_fits (hs : d.softOk 1 true = true) (hk : keys ≤ d.keyCap - d.keyCount) (hdim : d.dim = rb c.raw 56 2) :
    exec (.buildInsert q env) s = .next ((s.at env.t).insEntry env c ⟨q, c.seq⟩ dest keys d d) := by
  have allowed : (!d.softOk 1 true || decide (d.keyCap - d.keyCount < keys) || d.dim != rb c.raw 56 2) = false := by
    rw [hs, decide_eq_false (Nat.not_lt.2 hk), bne_eq_false_iff_eq.2 hdim]
    rfl
  exact (exec_buildInsert_entry h h0 he hd).trans (congrArg Host.Outcome.next (if_neg (Bool.eq_false_iff.1 allowed)))

/-- What a BUILD_INSERT leaves whose entry fits and goes through (R77, R150). -/
theorem buildInsert_inserts {pn : Nat} {x : Ins × Nat × Option (Option Xfault)} {s2 : State} (hs : d.softOk 1 true = true)
    (hk : keys ≤ d.keyCap - d.keyCount) (hdim : d.dim = rb c.raw 56 2) (hp : (s.at env.t).vnum (s.qPart q) d.pAddr (64 * d.dim) = .ok pn)
    (hx : (s.at env.t).entryKeys (s.qPart q) d pn keys = x) (hn : x.2.2 = none)
    (hw : (s.at env.t).vwriteAll (s.qPart q) (unitWrites d.base 640 x.1.nodes ++ insFields dest d x.1) = .ok s2) :
    ∃ u, exec (.buildInsert q env) s = .next u ∧ u.mem = s2.mem ∧ (∀ k, k ≠ q → u.queue k = s.queue k)
      ∧ (c.total ≤ c.done + x.2.1 → u.endedDone ⟨q, c.seq⟩)
      ∧ (c.done + x.2.1 < c.total → u.isRunning ⟨q, c.seq⟩
        ∧ ∃ y ∈ (u.queue q).cmds, y.seq = c.seq ∧ y.next = c.next + 1 ∧ y.done = c.done + x.2.1) := by
  have same : ∀ k, s2.queue k = s.queue k := fun k => by
    rw [State.vwriteAll_eq hw]
    rfl
  have held : c ∈ (s2.queue q).cmds := by
    rw [same]
    exact State.runOrBegin_mem h
  obtain ⟨hm, hothers, hend, hrun⟩ := State.entryEnd (r := ⟨q, c.seq⟩) (p := s.qPart q) x.2.1 (!(unitWrites d.base 640 x.1.nodes
    ++ insFields dest d x.1).isEmpty) (spansOf (unitWrites d.base 640 x.1.nodes ++ insFields dest d x.1)) held rfl
  have applied := State.insEntry_done (s := s.at env.t) (env := env) (c := c) (r := ⟨q, c.seq⟩) rfl hp hx hn rfl hw
  exact ⟨_, (exec_buildInsert_fits h h0 he hd hs hk hdim).trans (congrArg Host.Outcome.next applied), hm,
    fun k hne => (hothers k hne).trans (same k), hend, hrun⟩

end

end

end Sys2Proof.Machine
end

section
/-!
BUILD_COMPACT and BUILD_SPLIT (R147, R153 to R157): what each row makes of the state, the destination emptied before the source is walked.
-/

namespace Sys2Proof.Machine
open Sys2Proof

/-! ## BUILD_COMPACT -/

/-- The writes of a BUILD_COMPACT that copies a source that is not sharded, its parts walked and its leaves read (R153). -/
def compactImage (c : Cmd) (src d : Desc) (parts : List (List MemNode)) (leaves : List (Nat × Nat)) : List (Nat × List Byte) :=
  let dst := rb c.raw 24 8
  let ns := parts.flatMap id
  let lens := boxLeafUnits d.isBox ns
  let lay := layParts d.isBox parts ⟨[], [], 0⟩
  copyWrites d.isBox d.base lay.1 (fun _ => none) ns (cleanLeaves ns leaves) lens ++ copiedFields dst src
    ++ [wr (dst + 2) 2 (4 + src.byte 2 1 / 2 % 2 * 2), wr (dst + 16) 4 lay.1.next, seqWrite dst d, wr (dst + 4) 4 (newRoot d.isBox lay.1 src.root)]

/-- The box that a source's bottom nodes give its leaf `j`. -/
def bottomBox (parts : List (List MemNode)) (j : Nat) : KBox :=
  (((bottomBoxes (parts.flatMap id)).find? (fun b => b.1 == j)).map (·.2)).getD ⟨([], []), 0⟩

/-- Its leaves in the order of RECLUSTER. -/
def reclusterPlaces (src : Desc) (parts : List (List MemNode)) : List Nat := leafPlaces false src.keyCount (bottomBox parts)

/-- The tree that RECLUSTER builds over them. -/
def reclusterTree (src : Desc) (parts : List (List MemNode)) : Nat × Nat × List (Nat × Nat) :=
  keyTree 0 ((reclusterPlaces src parts).map (fun j => (j, bottomBox parts j)))

/-- Each of those leaves is one that the source holds. -/
def reclusterKnown (src : Desc) (parts : List (List MemNode)) : Bool :=
  let single := if src.root / 2 ^ 22 = 1 then [src.root % 2 ^ 22] else []
  (reclusterPlaces src parts).all (fun j => (bottomBoxes (parts.flatMap id)).any (fun b => b.1 == j) || single.contains j)

/-- The writes of a RECLUSTER of a source that is not sharded (R153). -/
def reclusterImage (c : Cmd) (src d : Desc) (parts : List (List MemNode)) : List (Nat × List Byte) :=
  let dst := rb c.raw 24 8
  let t := reclusterTree src parts
  unitWrites d.base 640 t.2.2 ++ copiedFields dst src
    ++ [wr (dst + 2) 2 4, wr (dst + 16) 4 t.2.2.length, wr (dst + 38) 1 t.2.1, seqWrite dst d, wr (dst + 4) 4 t.1]

/-- A read of no bytes succeeds. -/
theorem State.vnum_zero (s : State) (p : PartId) (va : Nat) : s.vnum p va 0 = .ok 0 := rfl

section
variable {s : State} {env : Env} {c : Cmd} {r : CmdRef} {src d : Desc} {p : PartId} {parts : List (List MemNode)} (hp : s.qPart r.q = p)
  (hs : src.isSharded = false)
include hp

include hs in
theorem State.compactPlain_fits {leaves : List (Nat × Nat)}
    (hw : s.memWalks p d.isBox src.base (src.used + 1) (rootNode d.isBox src.root) = .ok (some parts))
    (hc : (layParts d.isBox parts ⟨[], [], 0⟩).1.next ≤ d.cap)
    (hl : s.memLeaves p src.base (boxLeafUnits d.isBox (parts.flatMap id)) = .ok leaves) :
    s.compactPlain env c r src d = s.buildOut env r (rb c.raw 24 8) (compactImage c src d parts leaves)
      (copyMarks 0 (parts.flatMap id) (boxLeafUnits d.isBox (parts.flatMap id))) none := by
  simp only [State.compactPlain, hp, State.subTable, hs, Bool.false_eq_true, if_false, List.flatMap_nil, List.append_nil, hw, Nat.not_lt.2 hc, hl,
    Bool.false_and, Nat.mul_zero, State.vnum_zero]
  rfl

theorem State.recluster_fits (hw : s.memWalks p false src.base (src.used + 1) (rootNode false src.root) = .ok (some parts))
    (hk : reclusterKnown src parts = true) (hc : (reclusterTree src parts).2.2.length ≤ d.cap) :
    s.recluster env c r src d = s.buildOut env r (rb c.raw 24 8) (reclusterImage c src d parts)
      ((List.range (reclusterTree src parts).2.2.length).map (fun i => (i + 1, 1))) none := by
  simp only [State.recluster, hp, hw]
  have known : (!reclusterKnown src parts) = false := by rw [hk]; rfl
  exact (if_neg (Bool.eq_false_iff.1 known)).trans (if_neg (Nat.not_lt.2 hc))

end

section
variable {q : QueueId} {env : Env} {c : Cmd} {d src : Desc} {scratch : List (Nat × Byte)} {s : State} (h : (s.at env.t).beginning q 0x14 = some c)
  (hd : (s.at env.t).vdesc (s.qPart q) (rb c.raw 24 8) = .ok d) (hsrc : (s.at env.t).vdesc (s.qPart q) (rb c.raw 8 8) = .ok src)
include h hd hsrc

theorem exec_buildCompact_bad (hx : src.source = false ∨ d.softOk src.kind false = false ∨ rb c.raw 16 4 ≠ src.used ∨ areasOverlap d src = true
      ∨ (bit c.raw 320 = true ∧ d.isBox = true)) :
    exec (.buildCompact q scratch env) s = .next ((s.at env.t).finish ⟨q, c.seq⟩ stBadField) := by
  show execBuildCompact q scratch env s = _
  simp only [execBuildCompact, h]
  rw [State.at_qPart, hd, hsrc]
  exact if_pos (by simpa [or_assoc] using hx)

/-- A BUILD_COMPACT behind its checks and first writes. -/
theorem exec_buildCompact {w : Wrote} (hfrom : src.source = true) (hsoft : d.softOk src.kind false = true) (hused : rb c.raw 16 4 = src.used)
    (hapart : areasOverlap d src = false) (hfmt : (bit c.raw 320 && d.isBox) = false)
    (hw : (s.at env.t).startBuild ⟨q, c.seq⟩ c d (4 * rb c.raw 16 4 + 2 ^ 20) scratch = w) (hb : w.bad = none) :
    exec (.buildCompact q scratch env) s = .next (if bit c.raw 320 && src.isSharded then w.s.reclusterShards env c ⟨q, c.seq⟩ src d
      else if bit c.raw 320 then w.s.recluster env c ⟨q, c.seq⟩ src d else w.s.compactPlain env c ⟨q, c.seq⟩ src d) := by
  subst hw
  show execBuildCompact q scratch env s = _
  have allowed : (!src.source || !d.softOk src.kind false || rb c.raw 16 4 != src.used || areasOverlap d src || (bit c.raw 320 && d.isBox)) = false := by
    rw [hfrom, hsoft, bne_eq_false_iff_eq.2 hused, hapart, hfmt]
    rfl
  simp only [execBuildCompact, h]
  rw [State.at_qPart, hd, hsrc]
  simp only [allowed, Bool.false_eq_true, if_false]
  rw [State.startBuild] at hb
  rw [hb]
  rfl

section
variable {a b : Wrote} {parts : List (List MemNode)} (hfrom : src.source = true) (hsoft : d.softOk src.kind false = true) (hused : rb c.raw 16 4 = src.used)
  (hapart : areasOverlap d src = false) (hsh : src.isSharded = false)
  (ha : (s.at env.t).vwriteSome (s.qPart q) (emptyFirst (rb c.raw 24 8) d ++ scratchWrites c (4 * rb c.raw 16 4 + 2 ^ 20) scratch) 0 = a)
  (hbad : a.bad = none)
include hfrom hsoft hused hapart hsh ha hbad

/-- A copy of a source that is not sharded: its image behind the destination's emptying. -/
theorem buildCompact_copies {leaves : List (Nat × Nat)} (hre : bit c.raw 320 = false)
    (hw : a.s.memWalks (s.qPart q) d.isBox src.base (src.used + 1) (rootNode d.isBox src.root) = .ok (some parts))
    (hcap : (layParts d.isBox parts ⟨[], [], 0⟩).1.next ≤ d.cap)
    (hl : a.s.memLeaves (s.qPart q) src.base (boxLeafUnits d.isBox (parts.flatMap id)) = .ok leaves)
    (hb : a.s.vwriteSome (s.qPart q) (compactImage c src d parts leaves) 0 = b) : s.writesBy (.buildCompact q scratch env) ⟨q, c.seq⟩ b := by
  subst ha hb
  obtain ⟨hn, hstart⟩ := (State.Noted.beginning h).write
    (emptyFirst (rb c.raw 24 8) d ++ scratchWrites c (4 * rb c.raw 16 4 + 2 ^ 20) scratch)
  have go := exec_buildCompact h hd hsrc hfrom hsoft hused hapart (by rw [hre]; rfl) rfl (hstart.trans hbad)
  simp only [hre, Bool.false_and, Bool.false_eq_true, if_false] at go
  exact hn.buildOut_writes (go.trans (congrArg Host.Outcome.next (State.compactPlain_fits hn.owner hsh
    ((State.memWalks_congr hn.mem hn.parts hn.mmu ..).trans hw) hcap ((State.memLeaves_congr hn.mem hn.parts hn.mmu ..).trans hl))))
    (fun _ => State.vwriteSome_queue ..)

/-- A RECLUSTER of a source that is not sharded: its image behind the destination's emptying. -/
theorem buildCompact_regroups (hre : bit c.raw 320 = true) (hbox : d.isBox = false)
    (hw : a.s.memWalks (s.qPart q) false src.base (src.used + 1) (rootNode false src.root) = .ok (some parts))
    (hk : reclusterKnown src parts = true) (hcap : (reclusterTree src parts).2.2.length ≤ d.cap)
    (hb : a.s.vwriteSome (s.qPart q) (reclusterImage c src d parts) 0 = b) : s.writesBy (.buildCompact q scratch env) ⟨q, c.seq⟩ b := by
  subst ha hb
  obtain ⟨hn, hstart⟩ := (State.Noted.beginning h).write
    (emptyFirst (rb c.raw 24 8) d ++ scratchWrites c (4 * rb c.raw 16 4 + 2 ^ 20) scratch)
  have go := exec_buildCompact h hd hsrc hfrom hsoft hused hapart (by rw [hbox, Bool.and_false]) rfl (hstart.trans hbad)
  simp only [hre, hsh, Bool.and_false, Bool.false_eq_true, if_false, if_true] at go
  exact hn.buildOut_writes (go.trans (congrArg Host.Outcome.next (State.recluster_fits hn.owner
    ((State.memWalks_congr hn.mem hn.parts hn.mmu ..).trans hw) hk hcap))) (fun _ => State.vwriteSome_queue ..)

end

end

/-! ## BUILD_SPLIT -/

/-- The subtrees that R155 cuts off a walked source, in the order of their IDs. -/
def splitRoots (isBox : Bool) (root subtrees maxNodes : Nat) (ns : List MemNode) : List Nat :=
  let found := splitCands isBox ns subtrees maxNodes (ns.length + 1) ((rootNode isBox root).flatMap (internalKids isBox ns))
  (ns.map (·.unit)).filter found.contains

/-- The layout of a split: the top tree, then each subtree from an aligned unit (R156). -/
def splitLay (isBox : Bool) (root base a : Nat) (ns : List MemNode) (cands : List Nat) : CopyLay × List (Nat × Nat) :=
  let top := nodesFrom isBox ns (fun u => cands.contains u) (2 * ns.length + 1) (rootNode isBox root)
  laySubs isBox base a (cands.map (subtreeNodes isBox ns)) (layPart isBox false (fun u => cands.contains u) 0 top ⟨[], [], 0⟩)

/-- The writes of a BUILD_SPLIT, its source's nodes walked and its leaves read (R156). -/
def cutImage (c : Cmd) (src d : Desc) (maxNodes idBase a : Nat) (ns : List MemNode) (leaves : List (Nat × Nat)) : List (Nat × List Byte) :=
  let cands := splitRoots src.isBox src.root (rb c.raw 58 4) maxNodes ns
  splitImage c src d ns cands idBase (splitLay src.isBox src.root d.base a ns cands) (cleanLeaves ns leaves) (cands.map (subtreeNodes src.isBox ns))

theorem State.splitRun_fits {s : State} {env : Env} {c : Cmd} {r : CmdRef} {src d : Desc} {p : PartId} {maxNodes idBase a : Nat}
    {parts : List (List MemNode)} {ns : List MemNode} {cands : List Nat} {leaves : List (Nat × Nat)} (hp : s.qPart r.q = p)
    (hw : s.memWalks p src.isBox src.base (src.used + 1) (rootNode src.isBox src.root) = .ok (some parts)) (hns : parts.flatMap id = ns)
    (hcands : splitRoots src.isBox src.root (rb c.raw 58 4) maxNodes ns = cands) (hn : cands.length ≤ rb c.raw 58 4)
    (hm : maxNodes ≠ 0 → ∀ x ∈ cands, subtreeUnits src.isBox ns x ≤ maxNodes)
    (hc : (splitLay src.isBox src.root d.base a ns cands).1.next ≤ d.cap)
    (hl : s.memLeaves p src.base (boxLeafUnits src.isBox ns) = .ok leaves) :
    ∃ marks, s.splitRun env c r src d maxNodes idBase a = s.buildOut env r (rb c.raw 24 8)
      (cutImage c src d maxNodes idBase a ns leaves) marks none := by
  have small : (maxNodes != 0 && cands.any (fun x => decide (maxNodes < subtreeUnits src.isBox ns x))) = false := by
    simp only [Bool.and_eq_false_imp, bne_iff_ne, List.any_eq_false, decide_eq_true_eq, Nat.not_lt]
    exact hm
  have fits : (decide (rb c.raw 58 4 < cands.length) || (maxNodes != 0 && cands.any (fun x => decide (maxNodes < subtreeUnits src.isBox ns x)))
      || decide (d.cap < (splitLay src.isBox src.root d.base a ns cands).1.next)) = false := by
    rw [small, decide_eq_false (Nat.not_lt.2 hn), decide_eq_false (Nat.not_lt.2 hc)]
    rfl
  subst hns hcands
  simp only [State.splitRun, hp, hw, hl]
  exact ⟨_, if_neg (Bool.eq_false_iff.1 fits)⟩

section
variable {q : QueueId} {env : Env} {c : Cmd} {d src : Desc} {scratch : List (Nat × Byte)} {s : State} {pv : Nat}
  (h : (s.at env.t).beginning q 0x15 = some c) (hd : (s.at env.t).vdesc (s.qPart q) (rb c.raw 24 8) = .ok d)
  (hsrc : (s.at env.t).vdesc (s.qPart q) (rb c.raw 8 8) = .ok src) (hv : (s.at env.t).vnum (s.qPart q) (rb c.raw 48 8) 64 = .ok pv)
include h hd hsrc hv

theorem exec_buildSplit_bad (hx : splitPlan pv = none ∨ src.source = false ∨ src.isSharded = true ∨ rb c.raw 16 4 ≠ src.used
      ∨ areasOverlap src d = true) : exec (.buildSplit q scratch env) s = .next ((s.at env.t).finish ⟨q, c.seq⟩ stBadField) := by
  show execBuildSplit q scratch env s = _
  simp only [execBuildSplit, h]
  rw [State.at_qPart, hd, hsrc, hv]
  dsimp only
  cases hpl : splitPlan pv with
  | none => rfl
  | some plan =>
    have refused := hx.resolve_left (by rw [hpl]; exact Option.some_ne_none plan)
    refine if_pos ?_
    rcases refused with e | e | e | e <;> simp [e]

/-- A BUILD_SPLIT behind its checks and first writes. -/
theorem exec_buildSplit {maxNodes idBase a : Nat} {w : Wrote} (hpl : splitPlan pv = some (maxNodes, idBase, a)) (hfrom : src.source = true)
    (hsh : src.isSharded = false) (hsoft : d.softOk (src.kind + 2) false = true) (hused : rb c.raw 16 4 = src.used) (hids : idBase + rb c.raw 58 4 ≤ 65536)
    (hapart : areasOverlap src d = false)
    (hroom : src.used * unitBytes src.isBox + rb c.raw 58 4 * 2 ^ a ≤ d.cap * unitBytes src.isBox)
    (hw : (s.at env.t).startBuild ⟨q, c.seq⟩ c d (8 * rb c.raw 16 4 + 2 ^ 20) scratch = w) (hb : w.bad = none) :
    exec (.buildSplit q scratch env) s = .next (w.s.splitRun env c ⟨q, c.seq⟩ src d maxNodes idBase a) := by
  subst hw
  show execBuildSplit q scratch env s = _
  have allowed : (!src.source || src.isSharded || !d.softOk (src.kind + 2) false || rb c.raw 16 4 != src.used
      || decide (65536 < idBase + rb c.raw 58 4) || areasOverlap src d
      || decide (d.cap * unitBytes src.isBox < src.used * unitBytes src.isBox + rb c.raw 58 4 * 2 ^ a)) = false := by
    rw [hfrom, hsh, hsoft, bne_eq_false_iff_eq.2 hused, decide_eq_false (Nat.not_lt.2 hids), hapart, decide_eq_false (Nat.not_lt.2 hroom)]
    rfl
  simp only [execBuildSplit, h]
  rw [State.at_qPart, hd, hsrc, hv]
  simp only [hpl, allowed, Bool.false_eq_true, if_false]
  rw [State.startBuild] at hb
  rw [hb]
  rfl

/-- A BUILD_SPLIT whose checks pass: its image behind the destination's emptying. -/
theorem buildSplit_splits {maxNodes idBase a : Nat} {w b : Wrote} {parts : List (List MemNode)} {ns : List MemNode} {cands : List Nat}
    {leaves : List (Nat × Nat)} (hpl : splitPlan pv = some (maxNodes, idBase, a)) (hfrom : src.source = true) (hsh : src.isSharded = false)
    (hsoft : d.softOk (src.kind + 2) false = true) (hused : rb c.raw 16 4 = src.used) (hids : idBase + rb c.raw 58 4 ≤ 65536)
    (hapart : areasOverlap src d = false) (hroom : src.used * unitBytes src.isBox + rb c.raw 58 4 * 2 ^ a ≤ d.cap * unitBytes src.isBox)
    (ha : (s.at env.t).vwriteSome (s.qPart q) (emptyFirst (rb c.raw 24 8) d ++ scratchWrites c (8 * rb c.raw 16 4 + 2 ^ 20) scratch) 0 = w)
    (hbad : w.bad = none) (hw : w.s.memWalks (s.qPart q) src.isBox src.base (src.used + 1) (rootNode src.isBox src.root) = .ok (some parts))
    (hns : parts.flatMap id = ns) (hcands : splitRoots src.isBox src.root (rb c.raw 58 4) maxNodes ns = cands)
    (hn : cands.length ≤ rb c.raw 58 4) (hm : maxNodes ≠ 0 → ∀ x ∈ cands, subtreeUnits src.isBox ns x ≤ maxNodes)
    (hc : (splitLay src.isBox src.root d.base a ns cands).1.next ≤ d.cap)
    (hl : w.s.memLeaves (s.qPart q) src.base (boxLeafUnits src.isBox ns) = .ok leaves)
    (hb : w.s.vwriteSome (s.qPart q) (cutImage c src d maxNodes idBase a ns leaves) 0 = b) :
    s.writesBy (.buildSplit q scratch env) ⟨q, c.seq⟩ b := by
  subst ha hb
  obtain ⟨noted, hstart⟩ := (State.Noted.beginning h).write
    (emptyFirst (rb c.raw 24 8) d ++ scratchWrites c (8 * rb c.raw 16 4 + 2 ^ 20) scratch)
  obtain ⟨marks, run⟩ := State.splitRun_fits (env := env) (idBase := idBase) noted.owner
    ((State.memWalks_congr noted.mem noted.parts noted.mmu ..).trans hw) hns hcands hn hm hc
    ((State.memLeaves_congr noted.mem noted.parts noted.mmu ..).trans hl)
  exact noted.buildOut_writes ((exec_buildSplit h hd hsrc hv hpl hfrom hsh hsoft hused hids hapart hroom rfl (hstart.trans hbad)).trans
    (congrArg Host.Outcome.next run)) (fun _ => State.vwriteSome_queue ..)

end

/-! ## The four builds -/

/-- Settles O29: each way a build goes is one equation of its row; the note of its writes leaves its image, and what it reads behind the first
of them, as it is. -/
theorem keyBuildsWriteTheirImage : Obligations.KeyBuildsWriteTheirImage := by
  intro q env c d src scratch s s1 p r n dst dim badField writes
  refine ⟨fun h hd => ?keys, fun h h0 => ?insert, fun h hd hsrc => ?compact, fun h hd hsrc pv hv => ?split⟩
  case keys =>
    have held := State.holds_of_beginning h
    refine ⟨fun hx => ends_badField_of_finish env.t held (exec_buildKeys_bad h hd hx), ?_⟩
    intro pn hs hf hn hu keep pm keys hp
    refine ⟨fun hx => ends_badField_of_finish env.t held (exec_buildKeys_r139 h hd hs hf hn hu hp hx), ?_⟩
    intro ys hb hy bs box t
    exact buildKeys_writes h hd hs hf hn hu hp hb hy rfl
  case insert =>
    have hc := State.runOrBegin_mem h
    refine ⟨fun e hl he hz => ?_, fun dest keys he hd => ⟨fun hx => ?_, ?_⟩⟩
    · have here := State.mem_updCmd_self (r := r) hc rfl (fun y => { y with phase := .running, next := y.next + 1 })
      exact ⟨_, exec_buildInsert_skips h hl he hz, rfl, State.cmdIs_updCmd s1 r _ _ (fun _ => rfl) ⟨c, hc, rfl⟩ (fun _ _ _ => rfl), _, here, rfl, rfl⟩
    · exact ends_badField_of_finish env.t ⟨c, hc, rfl⟩ (exec_buildInsert_bad h h0 he hd hx)
    · intro pn hs hk hdim hp x
      refine ⟨fun hx hm => ends_badField_of_finish env.t ⟨c, hc, rfl⟩ ((exec_buildInsert_fits h h0 he hd hs hk hdim).trans
        (congrArg Host.Outcome.next ?_)), fun s2 hx hw => buildInsert_inserts h h0 he hd hs hk hdim hp rfl hx hw⟩
      exact State.insEntry_first rfl hp rfl hx hm
  case compact =>
    have held := State.holds_of_beginning h
    intro re
    refine ⟨fun hx => ends_badField_of_finish env.t held (exec_buildCompact_bad h hd hsrc hx), ?_⟩
    intro hfrom hsoft hused hapart a ha
    refine ⟨fun parts leaves hre hsh hw => ?copies, fun parts hre hbox hsh hw => ?regroups⟩
    case copies =>
      intro ns lens lay hcap hl
      exact buildCompact_copies h hd hsrc hfrom hsoft hused hapart hsh rfl ha hre hw hcap hl rfl
    case regroups =>
      intro bs single box place t hk hcap
      exact buildCompact_regroups h hd hsrc hfrom hsoft hused hapart hsh rfl ha hre hbox hw hk hcap rfl
  case split =>
    have held := State.holds_of_beginning h
    refine ⟨fun hx => ends_badField_of_finish env.t held (exec_buildSplit_bad h hd hsrc hv hx), ?_⟩
    intro maxNodes idBase a parts leaves hpl box subtrees hfrom hsh hsoft hused hids hapart hroom w1 ha hw ns found cands top subs lay hn hm hc hl
    exact buildSplit_splits h hd hsrc hv hpl hfrom hsh hsoft hused hids hapart hroom rfl ha hw rfl rfl hn hm hc hl rfl

end Sys2Proof.Machine
end

section
/-!
RAY_RESULT, PROBE_RESULT, REDUCE_RESULT (R185, R227, R228, R375, R376, R387, R457), LEASE_EXTEND and LEASE_DEADLINE (R384, R385, R511): what comes back
to the origin of a forwarded query, and an owner that is not heard of.
-/

namespace Sys2Proof.Machine
open Sys2Proof

/-! ## A result that arrives (R368, R377) -/

/-- A result for this chip has been taken, and its credit is owed. -/
def State.resultIn (s : State) (l : LinkId) (hdr : MsgHdr) (b : MsgBody) (t : Nat) : State := ((s.at t).arrived l hdr).oweResult l b

theorem State.resultIn_blank (s : State) (l : LinkId) (hdr : MsgHdr) (b : MsgBody) (t : Nat) :
    blank 0x230000004C#48 (s.resultIn l hdr b t) = blank 0x230000004C#48 s := by
  simp [State.resultIn]

section
variable (s : State) (l : LinkId) (hdr : MsgHdr) (b : MsgBody) (t : Nat)

theorem State.resultIn_works (i : Nat) : (s.resultIn l hdr b t).works ((s.resultIn l hdr b t).kPart i) = s.works (s.kPart i) := by
  have h := congrArg (fun x : State => x.works (x.kPart i)) (s.resultIn_blank l hdr b t)
  exact h

theorem State.resultIn_slots : (s.resultIn l hdr b t).kennel.slots = s.kennel.slots := by
  have h := congrArg (·.kennel.slots) (s.resultIn_blank l hdr b t)
  exact h

theorem State.resultIn_bundle? (i : Nat) : (s.resultIn l hdr b t).bundle? i = s.bundle? i := by
  have h := congrArg (State.bundle? · i) (s.resultIn_blank l hdr b t)
  exact h

theorem State.resultIn_staleDrop : (s.resultIn l hdr b t).fwd.staleDrop = s.fwd.staleDrop := by
  have h := congrArg (·.fwd.staleDrop) (s.resultIn_blank l hdr b t)
  exact h

end

theorem State.arrived_slots (s : State) (l : LinkId) (hdr : MsgHdr) (t : Nat) : ((s.at t).arrived l hdr).kennel.slots = s.kennel.slots := by
  have h := congrArg (·.kennel.slots) (State.arrived_frame (s.at t) l hdr 0x2100000008#48 (by decide))
  exact h

theorem State.arrived_extendMax (s : State) (l : LinkId) (hdr : MsgHdr) (t k : Nat) : let u := (s.at t).arrived l hdr
    (u.part (u.kPart k)).extendMax = (s.part (s.kPart k)).extendMax := by
  have h := congrArg (fun u : State => (u.part (u.kPart k)).extendMax) (State.arrived_frame (s.at t) l hdr 0x2100000008#48 (by decide))
  exact h

theorem State.staleResult_staleDrop (s : State) : s.staleResult.fwd.staleDrop = satInc s.fwd.staleDrop := rfl

theorem State.staleResult_slots (s : State) : s.staleResult.kennel.slots = s.kennel.slots := rfl

/-! ## What a RESULT comes to (R185, R375, R376, R386) -/

/-- What a ray goes on to with a result of its forward that is DONE. -/
theorem State.rayDone_eq {s : State} {i : Nat} {r : Ray} (hr : s.ray? i = some r) (k : Nat) (x : Leash) (pre : ResultPrefix) (hit : Rec32) :
    s.rayDone i k x pre hit =
    (let m := mergeHit r hit
    let y := markHit m.1 hit (decide (x.reissues ≠ 0))
    let s3 := (s.restLeash k).setRay i { y with wait := .none, rstate := .active }
    let s4 := s3.leafDone i x.entry.toNat
    if 16 ≤ fldN hit 160 8 then s3.endRay i (fldN hit 160 8)
    else if pre.last = false then s.setRay i y
    else if pre.ended || (m.2 && bit r.flags 0) then s4.finishRay i else s4.resumeRay i) := by
  simp only [State.rayDone, hr, Bool.not_eq_true']

/-- An owner that cannot serve a bundle's query is lost (R376, R386). -/
theorem State.bundleResult_lost {pre : ResultPrefix} (h : pre.result = 2 ∨ pre.result = 3) (s : State) (env : Env) (i k : Nat) (x : Leash) :
    s.bundleResult env i k x pre = s.reissueBundle env i [k] := by
  rcases h with h | h <;> simp only [State.bundleResult, h, BitVec.reduceEq, decide_false, decide_true, Bool.or_false, Bool.or_true, if_false, if_true]

/-- A query that failed at its owner fails its bundle (R376). -/
theorem State.bundleResult_failed {pre : ResultPrefix} (h : pre.result = 4) (s : State) (env : Env) (i k : Nat) (x : Leash) :
    s.bundleResult env i k x pre = s.failBundle env i 3 := by
  simp only [State.bundleResult, h, BitVec.reduceEq, decide_false, Bool.or_false, Bool.false_eq_true, if_false, if_true]

/-! ## RAY_RESULT (R185, R387) -/

section
variable {s : State} {l : LinkId} {hdr : MsgHdr} (hc : s.carries l = true) (hd : hdr.dest = s.boot.chipId)
include hc hd

section
variable {pre : ResultPrefix} {hit : Rec32} {env : Env}

/-- A result that fits no live Leash is dropped and counted (R387). -/
theorem exec_rayResult_stale (hl : (s.resultIn l hdr (.rayResult pre hit) env.t).liveLeash hdr 0 (fun _ => true) = none) :
    exec (.rayResult l hdr pre hit env) s = .next (s.resultIn l hdr (.rayResult pre hit) env.t).staleResult := by
  have hc' : (s.at env.t).carries l = true := hc
  rw [State.resultIn] at hl
  show execRayResult l hdr pre hit env s = _
  simp only [execRayResult, hc', hd, hl, State.at_boot, Bool.not_true, Bool.false_eq_true, if_false, ne_eq, not_true]
  rfl

variable {k : Nat} {x : Leash} (hl : (s.resultIn l hdr (.rayResult pre hit) env.t).liveLeash hdr 0 (fun _ => true) = some (k, x))
include hl

/-- What each RESULT comes to for a ray under a live Leash (R375, R376, R386). -/
theorem exec_rayResult_live : exec (.rayResult l hdr pre hit env) s =
    (let s2 := s.resultIn l hdr (.rayResult pre hit) env.t
    let i := slotOfId hdr.queryId
    .next (if s.works (s.kPart i) = false then s2
      else if pre.result = 0 then s2.rayDone i k x pre hit
      else if pre.result = 1 then s2.remoteFault env (s2.kPart i) k x pre.faultVa (s2.itemCtx (.ray i) 0) (.remoteRay i)
      else if pre.result = 2 ∨ pre.result = 3 then s2.reissueRay i
      else if pre.result = 4 then s2.endRay i 0x17
      else s2.staleResult)) := by
  have hc' : (s.at env.t).carries l = true := hc
  have hw := s.resultIn_works l hdr (.rayResult pre hit) env.t (slotOfId hdr.queryId)
  rw [State.resultIn] at hl hw
  show execRayResult l hdr pre hit env s = _
  simp only [execRayResult, hc', hd, hl, hw, State.at_boot, Bool.not_true, Bool.false_eq_true, if_false, ne_eq, not_true, apply_ite Host.Outcome.next,
    Bool.not_eq_true', Bool.or_eq_true, decide_eq_true_eq]
  rfl

end

/-! ## PROBE_RESULT and REDUCE_RESULT (R227, R228, R375, R376) -/

/-- A probe result of a bundle under a live Leash. -/
theorem exec_probeResult_live {pre : ResultPrefix} {lists : List (List ProbeEntry)} {env : Env} {b : Bundle} {k : Nat} {x : Leash}
    (hb : s.bundle? (slotOfId hdr.queryId) = some b) (hw : s.works (s.kPart (slotOfId hdr.queryId)) = true)
    (hl : (s.resultIn l hdr (.probeResult pre b.precise lists) env.t).liveLeash hdr 1 (fun _ => true) = some (k, x)) :
    exec (.probeResult l hdr pre lists env) s =
    (let s2 := s.resultIn l hdr (.probeResult pre b.precise lists) env.t
    let i := slotOfId hdr.queryId
    .next (if pre.result = 0 then s2.probePart env i k x pre lists else s2.bundleResult env i k x pre)) := by
  have hc' : (s.at env.t).carries l = true := hc
  have hb' : (s.at env.t).bundle? (slotOfId hdr.queryId) = some b := hb
  have hw' := (s.resultIn_works l hdr (.probeResult pre b.precise lists) env.t (slotOfId hdr.queryId)).trans hw
  rw [State.resultIn] at hl hw'
  show execProbeResult l hdr pre lists env s = _
  simp only [execProbeResult, hc', hd, hb', hl, hw', State.at_boot, Bool.not_true, Bool.false_eq_true, if_false, ne_eq, not_true,
    apply_ite Host.Outcome.next]
  rfl

/-- A reduce result of a bundle under a live Leash whose request carries the triples' queries. -/
theorem exec_reduceResult_live {pre : ResultPrefix} {triples : List (Fin 32 × Triple)} {env : Env} {k : Nat} {x : Leash}
    (hw : s.works (s.kPart (slotOfId hdr.queryId)) = true)
    (hl : (s.resultIn l hdr (.reduceResult pre triples) env.t).liveLeash hdr 2 (fun x => triples.all (fun t => x.carries t.1.val)) = some (k, x)) :
    exec (.reduceResult l hdr pre triples env) s =
    (let s2 := s.resultIn l hdr (.reduceResult pre triples) env.t
    let i := slotOfId hdr.queryId
    .next (if pre.result = 0 then s2.reducePart env i k x pre triples else s2.bundleResult env i k x pre)) := by
  have hc' : (s.at env.t).carries l = true := hc
  have hw' := (s.resultIn_works l hdr (.reduceResult pre triples) env.t (slotOfId hdr.queryId)).trans hw
  rw [State.resultIn] at hl hw'
  show execReduceResult l hdr pre triples env s = _
  simp only [execReduceResult, hc', hd, hl, hw', State.at_boot, Bool.not_true, Bool.false_eq_true, if_false, ne_eq, not_true,
    apply_ite Host.Outcome.next]
  rfl

/-! ## LEASE_EXTEND (R385) -/

/-- A LEASE_EXTEND for the query that its slot holds is for every Leash it fits. -/
theorem exec_leaseExtend (hi : s.kId (slotOfId hdr.queryId) = hdr.queryId) (t : Nat) :
    exec (.leaseExtend l hdr t) s = .next ((s.extended hdr).foldl State.extendLease ((s.at t).arrived l hdr)) := by
  have hc' : (s.at t).carries l = true := hc
  have hi' : (s.at t).kId (slotOfId hdr.queryId) = hdr.queryId := hi
  have he : ((s.at t).arrived l hdr).extended hdr = s.extended hdr := by
    have h := congrArg (State.extended · hdr) (State.arrived_frame (s.at t) l hdr 0x2100000008#48 (by decide))
    exact h
  show execLeaseExtend l hdr t s = _
  simp only [execLeaseExtend, hc', hd, hi', he, State.at_boot, Bool.not_true, Bool.false_eq_true, if_false, ne_eq, not_true]

end

theorem State.kGet_of_leash? {s : State} {k : Nat} {x : Leash} (h : s.leash? k = some x) : ∃ g p n, s.kGet k = some ⟨g, p, n, .leash x⟩ := by
  rw [State.leash?] at h
  split at h
  next g p n y hy =>
    cases h
    exact ⟨g, p, n, hy⟩
  next => cases h

theorem State.leash?_updLeash {s : State} {k : Nat} {x : Leash} (h : s.leash? k = some x) (f : Leash → Leash) :
    (s.updLeash k f).leash? k = some (f x) := by
  obtain ⟨g, p, n, hk⟩ := State.kGet_of_leash? h
  simp only [State.updLeash, hk, State.leash?, State.kGet_kPut]

/-- A Leash's own slot only changes. -/
theorem State.kGet_updLeash_ne (s : State) {k n : Nat} (h : n ≠ k) (f : Leash → Leash) : (s.updLeash k f).kGet n = s.kGet n := by
  rw [State.updLeash]
  split
  · rw [State.kGet_kPut_ite, if_neg h]
  · rfl

theorem State.armLease_kGet (s : State) (k : Nat) (p : PartId) : (s.armLease k p).kGet = s.kGet := rfl

section
variable {s : State} {k : Nat} {x : Leash} (hx : s.leash? k = some x)
include hx

/-- A Leash below EXTEND_MAX counts one extension more, and no other slot changes. -/
theorem State.extendLease_extends (h : x.extends_.toNat < (s.part (s.kPart k)).extendMax.force.toNat) :
    (s.extendLease k).leash? k = some { x with extends_ := x.extends_ + 1 } ∧ ∀ n, n ≠ k → (s.extendLease k).kGet n = s.kGet n := by
  have he : (s.extendLease k).kGet = (s.updLeash k (fun x => { x with extends_ := x.extends_ + 1 })).kGet := by
    simp only [State.extendLease, hx, h, if_true, State.armLease_kGet]
  refine ⟨?_, fun n hn => ?_⟩
  · rw [State.leash?, he]
    exact State.leash?_updLeash hx _
  · rw [he, State.kGet_updLeash_ne s hn]

theorem State.extendLease_full (h : (s.part (s.kPart k)).extendMax.force.toNat ≤ x.extends_.toNat) : s.extendLease k = s := by
  simp only [State.extendLease, hx, Nat.not_lt.2 h, if_false]

end

/-! ## LEASE_DEADLINE (R384, R511) -/

theorem State.errBlock_kennel (s : State) (src index : Nat) : (s.errBlock src index).kennel = s.kennel := by
  have h := congrArg State.kennel (s.errBlock_frame src index 0x1000000010A#48 (by decide))
  exact h

section
variable {s : State} {slot : Nat} {env : Env} (hw : s.works (s.kPart slot) = true) (ht : s.timerFires (.lease slot) env.t = true)
include hw ht

/-- The deadline of a live Leash loses its owner. -/
theorem exec_leaseDeadline {x : Leash} (hx : s.leash? slot = some x) (hl : x.live = true) (ho : env.hw.lists = .ok) :
    exec (.leaseDeadline slot env) s = .next ((s.fire (.lease slot) env.t).loseOwners env [slot]) := by
  have hx' : (s.fire (.lease slot) env.t).leash? slot = some x := by
    rw [State.leash?, State.kGet_congr (s.fire_slots ..)]
    exact hx
  show execLeaseDeadline slot env s = _
  simp only [execLeaseDeadline, State.steepWord, ho, State.doIf, ite_self, hw, ht, Bool.and_self, if_true, hx', hl]

/-- Where the read of the Steep list is uncorrectable the block enters ERROR, and the deadline does not act. -/
theorem exec_leaseDeadline_lost (ho : env.hw.lists = .failed) :
    exec (.leaseDeadline slot env) s = .next ((s.at env.t).errBlock 0x0B (Timer.lease slot).list.val) := by
  have hs : s.doIf (s.works (s.kPart slot) && s.timerFires (.lease slot) env.t) (·.steepWord env (.lease slot))
      = (s.at env.t).errBlock 0x0B (Timer.lease slot).list.val := by
    rw [hw, ht, Bool.and_self, State.doIf, if_pos rfl, State.steepWord, ho]
  have hn : ∀ p, ((s.at env.t).errBlock 0x0B (Timer.lease slot).list.val).works p = false := fun p => by
    rw [State.works, State.errBlock_notReady]
    rfl
  show execLeaseDeadline slot env s = _
  simp only [execLeaseDeadline, hs, hn, Bool.false_and, Bool.false_eq_true, if_false]

end

/-! ## The obligation -/

/-- Settles O42: each result is one equation of its row, with a Leash that fits and without one; the extension counts on its Leash only. -/
theorem resultsReachTheirLeash : Obligations.ResultsReachTheirLeash := by
  intro l hdr env s s1 i
  refine ⟨fun hc hd => ⟨fun pre hit => ?ray, fun pre lists b hb hw => ?probe, fun pre triples b hb hw => ?reduce, fun hi k x hk hx => ?extend⟩,
    fun slot x hw ht hx hl => ?deadline⟩
  case ray =>
    refine ⟨fun hl => ⟨_, exec_rayResult_stale hc hd hl, ?_, ?_⟩, fun k x hl => ?_⟩
    · rw [State.staleResult_staleDrop, State.resultIn_staleDrop]
    · rw [State.staleResult_slots, State.resultIn_slots]
    · have hx := exec_rayResult_live hc hd hl
      refine ⟨fun hw => hx.trans (congrArg Host.Outcome.next (if_pos hw)), fun hw => ?_⟩
      have hx' := hx.trans (congrArg Host.Outcome.next (if_neg (by rw [hw]; decide)))
      refine ⟨fun h r hr => ?_, fun h => ?_, fun h => ?_, fun h => ?_⟩
      · exact hx'.trans (congrArg Host.Outcome.next ((if_pos h).trans (State.rayDone_eq hr ..)))
      · simp only [h, BitVec.reduceEq, if_false, if_true] at hx'
        exact hx'
      · simp only [show pre.result ≠ 0 ∧ pre.result ≠ 1 by rcases h with h | h <;> simp [h], h, if_false, if_true] at hx'
        exact hx'
      · simp only [h, BitVec.reduceEq, if_false, if_true, or_self] at hx'
        exact hx'
  case probe =>
    intro s2 k x hl h0 cands b1
    have hx := (exec_probeResult_live hc hd hb hw hl).trans (congrArg Host.Outcome.next (if_pos h0))
    have hb2 : s2.bundle? i = some b := (s.resultIn_bundle? ..).trans hb
    refine ⟨fun h => ?_, fun h => hx.trans (congrArg Host.Outcome.next ?_)⟩
    · have hp : s2.probePart env i k x pre lists = s2.updBundle i (fun _ => b1) := by
        simp only [State.probePart, hb2, h, Bool.not_false, if_true]
        rfl
      exact ⟨_, hx.trans (congrArg Host.Outcome.next hp), State.bundle?_replaced hb2 (show b.head = i from State.bundle?_head hb2), s.resultIn_slots ..⟩
    · refine Eq.trans (b := s2.probePart env i k x pre lists) rfl ?_
      simp only [State.probePart, hb2, h, Bool.not_true, Bool.false_eq_true, if_false]
      rfl
  case reduce =>
    intro s2 k x hl carried joined
    have hx := exec_reduceResult_live hc hd hw hl
    have hb2 : s2.bundle? i = some b := (s.resultIn_bundle? ..).trans hb
    refine ⟨fun h0 h => ⟨?_, State.bundle?_updBundle hb2 (fun _ => rfl)⟩, fun h0 h => ?_, fun h => ?_, fun h => ?_⟩
    · exact hx.trans (congrArg Host.Outcome.next ((if_pos h0).trans (if_neg (by rw [h]; decide))))
    · exact hx.trans (congrArg Host.Outcome.next ((if_pos h0).trans (if_pos h)))
    · exact hx.trans (congrArg Host.Outcome.next ((if_neg (by rcases h with h | h <;> rw [h] <;> decide)).trans (State.bundleResult_lost h ..)))
    · exact hx.trans (congrArg Host.Outcome.next ((if_neg (by rw [h]; decide)).trans (State.bundleResult_failed h ..)))
  case extend =>
    intro top
    have hx' := exec_leaseExtend hc hd hi env.t
    rw [hk] at hx'
    have hg : s1.kGet = s.kGet := funext (fun n => State.kGet_congr (s.arrived_slots l hdr env.t) n)
    have hl1 : s1.leash? k = some x := by rw [State.leash?, hg]; exact hx
    have ht1 : (s1.part (s1.kPart k)).extendMax.force.toNat = top :=
      congrArg (·.force.toNat) (s.arrived_extendMax l hdr env.t k)
    rw [← ht1]
    refine ⟨fun h => ⟨_, hx', ?_⟩, fun h => hx'.trans (congrArg Host.Outcome.next (State.extendLease_full hl1 h))⟩
    obtain ⟨hk1, hn1⟩ := State.extendLease_extends hl1 h
    exact ⟨hk1, fun n hn => (hn1 n hn).trans (congrFun hg n)⟩
  case deadline =>
    exact ⟨exec_leaseDeadline hw ht hx hl, fun ho => ⟨_, exec_leaseDeadline_lost hw ht ho, State.errBlock_state .., State.errBlock_kennel ..⟩⟩

end Sys2Proof.Machine
end

section
/-!
FORWARD (R362, R385, R397, R408, R409): a forward whose trace record overwrites its route byte.
-/

namespace Sys2Proof.Machine
open Sys2Proof

/-! ## FORWARD -/

/-- A ray that is ready to be forwarded goes when the block-wide list gives it the turn, on the route as its issue leaves it (R397, R408). -/
theorem exec_forward_issued {s : State} {i : Nat} {r : Ray} {child : Nat} {sub : W16} {l : LinkId} {env : Env} (hr : s.ray? i = some r)
    (hf : r.wait = .forward child sub) (ha : r.rstate = .active) (hw : s.works (s.kPart i) = true) (hp : s.forwardParked i = false)
    (hn : env.hw.words = []) (hl : (s.at env.t).forwardLink i = some l) (ht : (s.at env.t).forwardNext i = true) :
    exec (.forward i .ok env) s = .next (((s.at env.t).forwardIssued i l).forwardRay env i r child sub none) := by
  have hr' : (s.at env.t).ray? i = some r := hr
  have hi : ((s.at env.t).forwardIssued i l).ray? i = some r := by
    have h := congrArg (State.ray? · i) (State.forwardIssued_frame (s.at env.t) i l 0x4401240008#48 (by decide))
    exact h.trans hr'
  have hw' : (s.at env.t).works ((s.at env.t).slotOwner i) = true := by
    rw [State.slotOwner, hr']
    exact hw
  have hp' : (s.at env.t).forwardParked i = false := hp
  show execForward i .ok env s = _
  simp only [execForward, hw', hp', Bool.not_true, Bool.or_false, Bool.false_eq_true, if_false, State.forwardWords, hr', hn, List.foldl_nil,
    State.forwardTurn, hl, ht, if_true, State.forwardSlot, hi, hf, ha]

/-- A ray whose target fails sends nothing (R362). -/
theorem State.forwardRay_fails_links {s : State} {r : Ray} {sub : W16}
    (h : s.target 1 sub.toNat (failedFor (r.leash.bind s.leash?) sub) none = .fail) (env : Env) (i child : Nat) :
    (s.forwardRay env i r child sub none).pins.links = s.pins.links := by
  rw [State.forwardRay, h]
  exact Comp.same_links (State.rayFwdFail_frame s i _ (by decide))

theorem State.forwardIssued_links (s : State) (i : Nat) (l : LinkId) : (s.forwardIssued i l).pins.links = s.pins.links :=
  Comp.same_links (State.forwardIssued_frame s i l _ (by decide))

/-! ## A trace ring over the route table (R369, R409) -/

/-- A ray in slot 0 whose child lies in subtree 2, its Leash in slot 1, its other fields zero. -/
def forwardedRay : Ray :=
  { origin := #v[0, 0, 0], dir := #v[0, 0, 0], tmin := 0, tmax := 0, flow := 0, flags := 0, vis := 0, rstate := .active, hier := 0, payload := 0,
    ts := ⟨false, [], false, 0⟩, visit := Visit.clear, cand := ⟨0, 0, 0, 0, false, false, false, false, false⟩, wait := .forward 0 2, cmd := none,
    index := 0, cls := 0, caddy := 0, gen := 0, ovf := 0, kind := 2, base := 0, root := 0, desc := 0, inst := none, leash := some 1, line := 0,
    subBase := (0, 0, 0), doneAt := 0, since := 0 }

/-- A block in service whose MMU maps the first page of the host partition onto itself. The route table and the ring of the trace, which is on, both
begin at address 0. Chip 9 owns subtree 2; its route byte is 0, for link 0, whose session is UP. -/
def tracedRoute : State :=
  { State.reset with
    pins := { Pins.reset with inReset := false }
    boot := { Boot.reset with state := stReady }
    parts := State.reset.parts.set 0 { Part.reset with mmuEnable := .both true }
    kennel := { Kennel.reset with slots := [(0, ⟨false, 0, none, .ray forwardedRay⟩), (1, ⟨false, 0, none, .leash (Leash.fresh 0)⟩)] }
    fwd := { Fwd.reset with
      table := [(2, ⟨none, 9⟩)]
      sess := Fwd.reset.sess.set 0 { Session.reset with state := ssUp, peer := 9, ops := 1, credit := ⟨1, 0, 0, 0, 0⟩ } }
    mmu := ⟨[⟨0, 0, 4096, 0, true, true, 0⟩], [], []⟩
    trace := { Trace.reset with enable := true, allParts := true, wrap := true } }

/-- A step at time 0 that meets no error. -/
def quietEnv : Env := ⟨0, [], [], [], 0, .ok, .clean⟩

theorem tracedRoute_holds : tracedRoute.works (tracedRoute.kPart 0) = true ∧ tracedRoute.forwardParked 0 = false := by decide

theorem tracedRoute_sends : (tracedRoute.at 0).target 1 2 (failedFor (some (Leash.fresh 0)) 2) none = .send 9 0 := by decide

theorem tracedRoute_credit :
    tracedRoute.canSend 0 (tracedRoute.hdr (tracedRoute.kId 0) 2 9) (tracedRoute.rayMsg 0 forwardedRay) = true := by decide

theorem tracedRoute_next : (tracedRoute.at 0).forwardLink 0 = some 0 ∧ (tracedRoute.at 0).forwardNext 0 = true := by decide

/-- Byte 9 of the record is the operation, 7: link 7, whose session is DOWN. -/
theorem tracedRoute_overwritten : let u := (tracedRoute.at 0).forwardIssued 0 0
    u.target 1 2 (failedFor (forwardedRay.leash.bind u.leash?) 2) none = .fail := by decide

theorem tracedRoute_forward : exec (.forward 0 .ok quietEnv) tracedRoute
    = .next (((tracedRoute.at 0).forwardIssued 0 0).forwardRay quietEnv 0 forwardedRay 0 2 none) := by
  obtain ⟨hw, hp⟩ := tracedRoute_holds
  obtain ⟨hl, ht⟩ := tracedRoute_next
  exact exec_forward_issued (env := quietEnv) rfl rfl rfl hw hp rfl hl ht

/-- Refutes O43: a forward that has its turn, its credit and its Leash is not sent where the trace record of its issue overwrites its route byte. -/
theorem not_queriesAndMessagesGoOn : ¬ Obligations.QueriesAndMessagesGoOn := by
  intro h
  obtain ⟨hw, hp⟩ := tracedRoute_holds
  obtain ⟨-, ht⟩ := tracedRoute_next
  obtain ⟨-, -, -, -, hsend⟩ := (h quietEnv tracedRoute).1 0 forwardedRay 0 2 .ok rfl rfl rfl hw hp rfl
  obtain ⟨-, -, hgoes⟩ := hsend 9 0 tracedRoute_sends
  obtain ⟨u, -, hu, hlinks, -⟩ := hgoes 1 (Leash.fresh 0) tracedRoute_credit ht rfl (by decide) rfl
  have hx := tracedRoute_forward.symm.trans hu
  rw [← Host.Outcome.next.inj hx, State.forwardRay_fails_links tracedRoute_overwritten, State.forwardIssued_links] at hlinks
  exact absurd hlinks.symm (List.append_ne_nil_of_right_ne_nil _ (List.cons_ne_nil _ []))

end Sys2Proof.Machine
end

section
/-!
REDUCE (R224, R226, R405) and LSE_MERGE (R225, R264, R265).
-/

namespace Sys2Proof.Machine
open Sys2Proof

/-! ## REDUCE (R224, R226) -/

/-- The queries that have keys in a chunk with these value rows, with their terms and what the leaf scorer makes of them (R224). -/
def Bundle.chunkParts (b : Bundle) (rows : List VRow) : List (Fin 32 × List (W32 × VRow) × Triple × Tally × Option Nat) :=
  (List.finRange 32).filterMap (fun j =>
    let ts := chunkTerms (b.xlists.getD j.val []) rows
    if ts.isEmpty then none else some (j, ts, chunkTriple (ovfOf b.ovf) b.vdesc.dim (ts.map (fun x => (x.1, x.2.row)))))

/-- The triples of a chunk with these value rows, one for each query that has a key in it. -/
def Bundle.chunkTriples (b : Bundle) (rows : List VRow) : List (Fin 32 × Triple) := (b.chunkParts rows).map (fun x => (x.1, x.2.2.1))

/-- A bundle that a reduced chunk has left, its triples waiting; `invalid` are the queries that the chunk marks INVALID. -/
def Bundle.chunkReduced (b : Bundle) (chunk : List Nat) (triples : List (Fin 32 × Triple)) (invalid : W32) : Bundle :=
  { b.mark invalid qsInvalid with chunks := b.chunks.filter (fun c => decide (c ≠ chunk)), triples := b.triples ++ triples }

theorem Bundle.chunkTriples_eq (b : Bundle) (rows : List VRow) : b.chunkTriples rows = (List.finRange 32).filterMap (fun j =>
    let ts := chunkTerms (b.xlists.getD j.val []) rows
    if ts.isEmpty then none else some (j, (chunkTriple (ovfOf b.ovf) b.vdesc.dim (ts.map (fun x => (x.1, x.2.row)))).1)) := by
  rw [Bundle.chunkTriples, Bundle.chunkParts, List.map_filterMap]
  refine List.filterMap_congr (fun j _ => ?_)
  by_cases h : (chunkTerms (b.xlists.getD j.val []) rows).isEmpty
  · simp only [h, if_true, Option.map_none]
  · simp only [h, Bool.false_eq_true, if_false, Option.map_some]

/-- REDUCE of a chunk reports its flags (R258, R259) and changes its bundle. -/
theorem State.reduceChunk_eq (s : State) (b : Bundle) (chunk : List Nat) (rows : List VRow) : ∃ inv ovf invalid,
    s.reduceChunk b chunk rows = ((s.fpInvalids b.part inv).fpOverflows b.part ovf).updBundle b.head
      (fun x => x.chunkReduced chunk (b.chunkTriples rows) invalid) :=
  ⟨_, _, _, rfl⟩

theorem State.fpReports_bundle (s : State) (p : PartId) (l : List FpInv) (n h : Nat) :
    ((s.fpInvalids p l).fpOverflows p n).bundle? h = s.bundle? h := by
  rw [State.bundle?_congr (Comp.same_strain (State.fpOverflows_frame _ p n _ (by decide))),
    State.bundle?_congr (Comp.same_strain (State.fpInvalids_frame s p l _ (by decide)))]

theorem State.issueReduce_bundle (s : State) (k : Pack) (c : TuId × Nat) (h : Nat) : (s.issueReduce k c).bundle? h = s.bundle? h :=
  State.bundle?_congr (Comp.same_strain (State.issueReduce_frame s k c _ (by decide))) h

theorem State.reduceChunk_bundle {s : State} {h : Nat} {b : Bundle} (hb : s.bundle? h = some b) (chunk : List Nat) (rows : List VRow) :
    ∃ invalid, (s.reduceChunk b chunk rows).bundle? h = some (b.chunkReduced chunk (b.chunkTriples rows) invalid) := by
  obtain ⟨inv, ovf, invalid, he⟩ := State.reduceChunk_eq s b chunk rows
  refine ⟨invalid, ?_⟩
  rw [he, State.bundle?_head hb]
  exact State.bundle?_updBundle ((State.fpReports_bundle s _ _ _ _).trans hb) (fun _ => rfl)

theorem exec_reduce {s : State} {h : Nat} {env : Env} {b : Bundle} {chunk : List Nat} {c : TuId × Nat} {rows : List VRow}
    (hb : (s.at env.t).bundle? h = some b) (hw : (s.at env.t).works b.part = true) (hr : (s.at env.t).reduces b = true)
    (ht : (s.at env.t).reduceNext b = true) (hc : b.nextChunk = some chunk) (hf : (s.at env.t).fewest (b.reducePack chunk) 0x12 true = some c)
    (ha : env.hw.addr = false) (hv : ((s.at env.t).issueReduce (b.reducePack chunk) c).valueRows b chunk = .ok rows) :
    exec (.reduce h .ok env) s = .next (((s.at env.t).issueReduce (b.reducePack chunk) c).reduceChunk b chunk rows) := by
  show execReduce h .ok env s = _
  simp only [execReduce, hb, hw, hr, ht, hc, hf, ha, State.runReduce1, hv, Bool.not_true, Bool.or_self, Bool.false_eq_true, if_false]

/-! ## LSE_MERGE (R225, R264, R265) -/

theorem getD_set_self {α : Type} {l : List α} {n : Nat} (hn : n < l.length) (x d : α) : (l.set n x).getD n d = x := by
  simp [List.getD, hn]

section
variable {s : State} {h : Nat} {b : Bundle} {j : Fin 32} {t : Triple} (hb : s.bundle? h = some b)
include hb

/-- A query's first triple is taken as it is. -/
theorem State.mergeOne_first (ha : b.accs.getD j.val none = none) : (s.mergeOne b j t).bundle? h =
    some { b with triples := b.triples.erase (j, t), accs := b.accs.set j.val (some t) } := by
  have hh := State.bundle?_head hb
  subst hh
  simp only [State.mergeOne, ha]
  exact State.bundle?_replaced hb rfl

/-- A later triple of a query is merged into what the query has. -/
theorem State.mergeOne_later {a : Triple} (ha : b.accs.getD j.val none = some a) : ∃ invalid, (s.mergeOne b j t).bundle? h =
    some { b.mark invalid qsInvalid with
      triples := b.triples.erase (j, t), accs := b.accs.set j.val (some (lseMerge (ovfOf b.ovf) a t).1) } := by
  have hh := State.bundle?_head hb
  subst hh
  simp only [State.mergeOne, ha]
  exact ⟨_, State.bundle?_replaced ((State.fpReports_bundle s _ _ _ _).trans hb) rfl⟩

/-- While more triples of the query are owed, the merge is all that a turn of LSE_MERGE does. -/
theorem State.mergeTriple_owing {y : Bundle} (ht : b.triples.find? (fun t => decide (t.1 = j)) = some (j, t))
    (hy : (s.mergeOne b j t).bundle? h = some y) (ho : (s.mergeOne b j t).owing y j.val = true) (env : Env) :
    s.mergeTriple env h j = s.mergeOne b j t := by
  simp only [State.mergeTriple, hb, ht, hy, ho, if_true]

end

theorem exec_lseMerge {s : State} {h : Nat} {env : Env} {b : Bundle} (hb : (s.at env.t).bundle? h = some b)
    (hw : (s.at env.t).works b.part = true) (hd : b.state ≠ .done) (j : Fin 32) :
    exec (.lseMerge h j .ok env) s = .next ((s.at env.t).mergeTriple env h j) := by
  show execLseMerge h j .ok env s = _
  simp only [execLseMerge, hb, hw, Bool.not_true, Bool.false_eq_true, if_false, if_neg hd]

/-! ## The obligation -/

/-- Settles O38: a turn of REDUCE is the reduction of the chunk, a turn of LSE_MERGE the merge of one triple while more are owed, and each
is read off the bundle it leaves. -/
theorem chunksReduceAndTriplesMerge : Obligations.ChunksReduceAndTriplesMerge := by
  intro h env b s s1 hb hw
  refine ⟨fun chunk n reason rows hr ht hc hf ha hv => ?_, fun j t hd hfind hj y hy ho => ⟨?_, ?_⟩⟩
  · obtain ⟨invalid, hy⟩ := State.reduceChunk_bundle ((State.issueReduce_bundle s1 (b.reducePack chunk) (n, reason) h).trans hb) chunk rows
    exact ⟨_, _, exec_reduce hb hw hr ht hc hf ha hv, hy, rfl, rfl, congrArg (b.triples ++ ·) (b.chunkTriples_eq rows)⟩
  · rw [exec_lseMerge hb hw hd, State.mergeTriple_owing hb hfind hy ho]
  · cases ha : b.accs.getD j.val none with
    | none =>
      cases Option.some.inj (hy.symm.trans (State.mergeOne_first hb ha))
      exact ⟨rfl, fun _ => getD_set_self hj _ _, nofun⟩
    | some a =>
      obtain ⟨invalid, hm⟩ := State.mergeOne_later (t := t) hb ha
      cases Option.some.inj (hy.symm.trans hm)
      refine ⟨rfl, nofun, fun a' h => ?_⟩
      cases h
      exact getD_set_self hj _ _

end Sys2Proof.Machine
end

section
/-!
Lane arithmetic (R239, R241 to R249, R252, R253, R256, R276, R280, R281): what an instruction on registers writes, and the scorer's wait.
-/

namespace Sys2Proof

/-- The destination `k` registers further on. -/
def Dst.shift (d : Dst) (k : Nat) : Dst :=
  match d with
  | .v n => .v (n + k)
  | .s n => .s (n + k)

end Sys2Proof

namespace Sys2Proof.Machine
open Sys2Proof

/-! ## Results in registers (R276) -/

/-- `regs` results written from a destination on, one register each. -/
def Group.writes (x : Group) (d : Dst) (regs : Nat) (f : Nat → Fin 32 → W32) : Group :=
  (List.range regs).foldl (fun y k => y.write (d.shift k) (f k)) x

section
variable (x : Group) (d : Dst) (n : Nat) (f : Nat → Fin 32 → W32)

theorem Group.writes_one (w : Fin 32 → W32) : x.writes d 1 (fun _ => w) = x.write d w := by
  cases d <;> rfl

theorem Group.writes_two (w : Fin 32 → W64) : x.writes d 2 (fun k l => fld (w l) (32 * k) 32) = x.write64 d w := by
  cases d <;> rfl

theorem Group.writes_succ (k : Nat) : x.writes d (k + 1) f = (x.writes d k f).write (d.shift k) (f k) := by
  rw [Group.writes, List.range_succ, List.foldl_append]
  rfl

/-- Results go to registers only. -/
theorem Group.write_rest (w : Fin 32 → W32) : x.write d w = { x with vregs := (x.write d w).vregs, sregs := (x.write d w).sregs } := by
  cases d with
  | v n => rfl
  | s n =>
    simp only [Group.write]
    cases x.lanes <;> rfl

theorem Group.writes_rest (k : Nat) : x.writes d k f = { x with vregs := (x.writes d k f).vregs, sregs := (x.writes d k f).sregs } := by
  induction k with
  | zero => rfl
  | succ k ih =>
    rw [Group.writes_succ, Group.write_rest]
    generalize (x.writes d k f).write (d.shift k) (f k) = z
    rw [ih]

theorem Group.writes_on (k : Nat) (l : Fin 32) : (x.writes d k f).on l = x.on l := by
  rw [Group.writes_rest]
  rfl

theorem Group.writes_lanes (k : Nat) : (x.writes d k f).lanes = x.lanes := by
  rw [Group.writes_rest]
  rfl

theorem Group.vreg_write (w : Fin 32 → W32) (m : Nat) (l : Fin 32) :
    (x.write (.v n) w).vreg m l = if m = n ∧ x.on l = true then w l else x.vreg m l := by
  rw [Group.write]
  by_cases hm : m = n
  · subst hm
    rw [Group.vreg_setV]
    by_cases ho : x.on l = true <;> simp [ho]
  · rw [Group.vreg_setV_ne _ hm, if_neg (fun h => hm h.1)]

/-- A vector destination takes the results in its active lanes, and no scalar register changes. -/
theorem Group.writes_vector (k : Nat) : (x.writes (.v n) k f).sregs = x.sregs
    ∧ ∀ m l, (x.writes (.v n) k f).vreg m l = if n ≤ m ∧ m < n + k ∧ x.on l = true then f (m - n) l else x.vreg m l := by
  induction k with
  | zero => exact ⟨rfl, fun m l => (if_neg (by omega)).symm⟩
  | succ k ih =>
    obtain ⟨hs, hv⟩ := ih
    rw [Group.writes_succ]
    refine ⟨hs, fun m l => ?_⟩
    rw [Dst.shift, Group.vreg_write, Group.writes_on, hv]
    by_cases hm : m = n + k
    · subst hm
      simp
    · have hlt : m < n + (k + 1) ↔ m < n + k := by omega
      simp only [hm, false_and, if_false, hlt]

theorem Group.writes_scalar_none (h : x.lanes = []) (k : Nat) : x.writes (.s n) k f = x := by
  induction k with
  | zero => rfl
  | succ k ih =>
    rw [Group.writes_succ, ih, Dst.shift, Group.write]
    simp only [h]

/-- A scalar destination takes the results of the first active lane, and no vector register changes. -/
theorem Group.writes_scalar {l : Fin 32} {r : List (Fin 32)} (h : x.lanes = l :: r) (k : Nat) : (x.writes (.s n) k f).vregs = x.vregs
    ∧ ∀ m, (x.writes (.s n) k f).sreg m = if n ≤ m ∧ m < n + k then f (m - n) l else x.sreg m := by
  induction k with
  | zero => exact ⟨rfl, fun m => (if_neg (by omega)).symm⟩
  | succ k ih =>
    obtain ⟨hv, hs⟩ := ih
    have hw : x.writes (.s n) (k + 1) f = (x.writes (.s n) k f).setS (n + k) (f k l) := by
      rw [Group.writes_succ, Dst.shift, Group.write]
      simp only [Group.writes_lanes, h]
    rw [hw]
    refine ⟨hv, fun m => ?_⟩
    rw [Group.sreg_setS_ite, hs]
    by_cases hm : m = n + k
    · subst hm
      simp
    · have hlt : m < n + (k + 1) ↔ m < n + k := by omega
      simp only [hm, if_false, hlt]

/-- An instruction that puts its results into registers leaves its group behind it, with these written. -/
theorem Group.wrote_writes (k : Nat) : x.wrote { x.writes d k f with pc := (x.writes d k f).pc + 8 } d k f := by
  refine ⟨?_, ?_⟩
  · rw [Group.writes_rest]
  · cases d with
    | v n => exact x.writes_vector n f k
    | s n =>
      cases h : x.lanes with
      | nil =>
        rw [Group.writes_scalar_none x n f h]
        exact ⟨rfl, fun _ => rfl⟩
      | cons l r =>
        obtain ⟨hv, hs⟩ := x.writes_scalar n f h k
        exact ⟨hv, hs⟩

end

/-- The result of an active lane. -/
theorem Group.wrote_vreg {x y : Group} {n : Nat} {w : Fin 32 → W32} (h : x.wrote y (.v n) 1 (fun _ => w)) {l : Fin 32} (hl : x.on l = true) :
    y.vreg n l = w l := by
  obtain ⟨-, -, hv⟩ := h
  rw [hv, if_pos ⟨le_rfl, Nat.lt_succ_self n, hl⟩]

/-! ## How an instruction on registers comes out (R269, R303, R305) -/

section
variable {s s1 : State} {g : GroupRef} {check : Check} {x x' : Group} {f : State → Group → Ran} {i : Instr}
  (hi : exec i s = .next (s.instr g s.env0 check f)) (h : s.fetches g x)
include hi h

/-- The three ways of an instruction on registers: its group ends with an uncorrectable word, it traps with ILLEGAL_INSTR where it is not legal, and
else it has its effect. -/
theorem instr_ways {legal : Bool} {r : Ran} {done : Prop} (hf : f (s.seen check) x = if !legal then .trap 2 else r)
    (hdone : check ≠ .failed → f (s.seen check) x = r → done) :
    (check = .failed → exec i s = .next (s.containGroup g x))
      ∧ (check ≠ .failed → (legal = false → exec i s = .next ((s.seen check).trap s.env0 g x 2)) ∧ (legal = true → done)) := by
  refine ⟨fun hc => ?_, fun hc => ⟨fun hl => ?_, fun hl => hdone hc ?_⟩⟩
  · subst hc
    rw [hi, instr_failed h]
  · rw [hl] at hf
    rw [hi, instr_trap h hc rfl hf]
  · rw [hf, hl]
    rfl

/-- An instruction that writes some registers, of the group as its report leaves it. -/
theorem instr_writes (hc : check ≠ .failed) {d : Dst} {k : Nat} {w : Nat → Fin 32 → W32} (hx : x'.state = x.state)
    (hf : f (s.seen check) x = .done (s1.put g (x'.writes d k w))) : ∃ y, exec i s = .next (s1.ranTo g y) ∧ x'.wrote y d k w := by
  have hrun : (x'.writes d k w).state = .running := by
    rw [Group.writes_rest]
    exact hx.trans (issuing_running h.1).2
  exact ⟨_, hi.trans (congrArg Host.Outcome.next (instr_done h hc rfl hf hrun)), x'.wrote_writes d w k⟩

theorem instr_write (hc : check ≠ .failed) {d : Dst} {w : Fin 32 → W32} (hx : x'.state = x.state)
    (hf : f (s.seen check) x = .done (s1.put g (x'.write d w))) : ∃ y, exec i s = .next (s1.ranTo g y) ∧ x'.wrote y d 1 (fun _ => w) :=
  instr_writes hi h hc hx (by rw [Group.writes_one]; exact hf)

theorem instr_write64 (hc : check ≠ .failed) {d : Dst} {w : Fin 32 → W64} (hx : x'.state = x.state)
    (hf : f (s.seen check) x = .done (s1.put g (x'.write64 d w))) :
    ∃ y, exec i s = .next (s1.ranTo g y) ∧ x'.wrote y d 2 (fun k l => fld (w l) (32 * k) 32) :=
  instr_writes hi h hc hx (by rw [Group.writes_two]; exact hf)

end

/-! ## Integer results (R257, R280) -/

theorem intOf_toInt (signed : Bool) (a : W32) : intOf 32 signed a.toNat = if signed then a.toInt else (a.toNat : Int) := by
  have ha : a.toNat % 2 ^ 32 = a.toNat := Nat.mod_eq_of_lt a.isLt
  rw [intOf, sext, BitVec.toInt_eq_toNat_cond, ha]
  have hlt : a.toNat < 2 ^ (32 - 1) ↔ 2 * a.toNat < 2 ^ 32 := by omega
  simp only [hlt]
  rfl

/-- A word is the wrap of the integer it stands for. -/
theorem ofInt_intOf (signed : Bool) (a : W32) : BitVec.ofInt 32 (intOf 32 signed a.toNat) = a := by
  rw [intOf_toInt]
  cases signed with
  | false => exact (BitVec.ofInt_natCast 32 a.toNat).trans (BitVec.ofNat_toNat ..)
  | true => exact BitVec.ofInt_toInt

theorem intOf_inj (signed : Bool) (a b : W32) : intOf 32 signed a.toNat = intOf 32 signed b.toNat ↔ a = b :=
  ⟨fun h => by rw [← ofInt_intOf signed a, h, ofInt_intOf], fun h => by rw [h]⟩

theorem intOf_zero (signed : Bool) : intOf 32 signed (0 : W32).toNat = 0 := by
  cases signed <;> rfl

/-- A wrapped result of 32 bits in its register. -/
theorem widen_wrapN (signed : Bool) (i : Int) : widen 32 signed (wrapN 32 i) = BitVec.ofInt 32 i := by
  refine BitVec.eq_of_toNat_eq ?_
  rw [BitVec.toNat_ofInt]
  cases signed with
  | false =>
    simp only [widen, wrapN, Bool.false_eq_true, if_false, BitVec.toNat_ofNat]
    omega
  | true =>
    simp only [widen, wrapN, sext, if_true, BitVec.toNat_ofNat]
    split_ifs <;> omega

section
variable (signed : Bool) (a b : W32) (c : Nat)

theorem widen_add : widen 32 signed (intEval .add 32 signed false a.toNat b.toNat c) = a + b := by
  refine (widen_wrapN signed (intOf 32 signed a.toNat + intOf 32 signed b.toNat)).trans ?_
  rw [BitVec.ofInt_add, ofInt_intOf, ofInt_intOf]

theorem widen_sub : widen 32 signed (intEval .sub 32 signed false a.toNat b.toNat c) = a - b := by
  refine (widen_wrapN signed (intOf 32 signed a.toNat - intOf 32 signed b.toNat)).trans ?_
  rw [sub_eq_add_neg, BitVec.ofInt_add, BitVec.ofInt_neg, ofInt_intOf, ofInt_intOf, BitVec.sub_eq_add_neg]

theorem widen_add_sat : (widen 32 false (intEval .add 32 false true a.toNat b.toNat c)).toNat = min (2 ^ 32 - 1) (a.toNat + b.toNat) := by
  have ha := a.isLt
  have hb := b.isLt
  simp only [intEval, intOf_toInt, intFit, intLo, intHi, widen, wrapN, Bool.false_eq_true, if_false, if_true, BitVec.toNat_ofNat]
  split_ifs <;> omega

theorem flag_eq (sat : Bool) : BitVec.ofNat 32 (intEval .eq 32 signed sat a.toNat b.toNat c) = if a = b then 1 else 0 := by
  by_cases h : a = b <;> simp [intEval, intOf_inj, h]

theorem widen_div_zero (sat : Bool) : widen 32 signed (intEval .div 32 signed sat a.toNat (0 : W32).toNat c) = 0 := by
  rw [intEval]
  simp only [intOf_zero, if_true]
  exact (widen_wrapN signed 0).trans rfl

theorem widen_rem_zero (sat : Bool) : widen 32 signed (intEval .rem 32 signed sat a.toNat (0 : W32).toNat c) = a := by
  rw [intEval]
  simp only [intOf_zero, if_true]
  rw [widen_wrapN, ofInt_intOf]

end

/-- The register that a 32-bit operation leaves. -/
def intWord (op : IntOp) (signed sat : Bool) (a b : W32) (c : Nat) : W32 :=
  let r := intEval op 32 signed sat a.toNat b.toNat c
  if op.compares then BitVec.ofNat 32 r else widen 32 signed r

theorem intWord_cases (op : IntOp) (signed sat : Bool) (a b : W32) (c : Nat) : let w := intWord op signed sat a b c
    (op = .add → sat = false → w = a + b) ∧ (op = .sub → sat = false → w = a - b)
      ∧ (op = .add → sat = true → signed = false → w.toNat = min (2 ^ 32 - 1) (a.toNat + b.toNat))
      ∧ (op = .eq → w = if a = b then 1 else 0) ∧ (op = .div → b = 0 → w = 0) ∧ (op = .rem → b = 0 → w = a) := by
  refine ⟨?_, ?_, ?_, ?_, ?_, ?_⟩ <;> rintro rfl
  · rintro rfl
    exact widen_add signed a b c
  · rintro rfl
    exact widen_sub signed a b c
  · rintro rfl rfl
    exact widen_add_sat a b c
  · exact flag_eq signed a b c sat
  · rintro rfl
    exact widen_div_zero signed a c sat
  · rintro rfl
    exact widen_rem_zero signed a c sat

/-! ## Lane exchange (R280) -/

theorem Group.mem_lanes {x : Group} {l : Fin 32} : l ∈ x.lanes ↔ x.on l = true := by
  simp [Group.lanes, Group.on]

/-- The lane that an operation moves to each lane. -/
def laneFrom (x : Group) (op : LaneOp) (idx : Src) (l : Fin 32) : Int :=
  match op with
  | .shuffleOff d => (l.val : Int) + d
  | .broadcast k => (k.val : Int)
  | _ => (idx.val x l).toInt

/-- A shuffle gives the value of its source lane where that is active. -/
theorem shuffle_from {s : State} {x : Group} {a : Src} {from_ : Fin 32 → Int} {l k : Fin 32} (hk : x.on k = true) (hf : from_ l = (k.val : Int)) :
    shuffle s x a from_ l = a.val x k := by
  have hfind : x.lanes.find? (fun j => (j.val : Int) == from_ l) = some k := by
    cases hj : x.lanes.find? (fun j => (j.val : Int) == from_ l) with
    | none => exact absurd (List.find?_eq_none.1 hj k (Group.mem_lanes.2 hk)) (by simp [hf])
    | some j =>
      have hjk := List.find?_some hj
      rw [hf, beq_iff_eq, Nat.cast_inj] at hjk
      rw [Fin.ext hjk]
  have hfrom : shuffleFrom x (from_ l) = some k := by
    rw [shuffleFrom, hfind, hf]
    simp
  simp only [shuffle, hfrom]

theorem shuffle_congr {s t : State} (h : t.fresh = s.fresh) (x : Group) (a : Src) (from_ : Fin 32 → Int) :
    shuffle t x a from_ = shuffle s x a from_ := by
  funext l
  simp only [shuffle, h]

/-! ## The scorer (R280, R281) -/

/-- A look at the barriers leaves the Herder, the memory and the queues. -/
theorem State.barriers_keeps (s : State) (block : Nat) : (s.barriers block).herd = s.herd ∧ (s.barriers block).mem = s.mem
    ∧ (s.barriers block).queues = s.queues :=
  ⟨Comp.same_herd (State.barriers_frame s block _ (by decide)), Comp.same_mem (State.barriers_frame s block _ (by decide)),
    Comp.same_queues (State.barriers_frame s block _ (by decide))⟩

/-- An instruction that makes its group wait has moved on. -/
theorem instr_hold {s s1 : State} {g : GroupRef} {env : Env} {check : Check} {x : Group} {f : State → Group → Ran} {w : GWait} (h : s.fetches g x)
    (hc : check ≠ .failed) (ha : env.hw.addr = false) (hf : f (s.seen check) x = .hold s1 w) (hg : s1.group? g = some x) :
    s.instr g env check f = (s1.put g (({ x with pc := x.pc + 8 } : Group).waits w)).barriers x.block := by
  obtain ⟨hi, pa, ht⟩ := h
  rw [State.seen] at hf
  simp only [State.instr, hi, ht, hc, ha, Bool.false_eq_true, if_false, hf, State.updGroup, hg, State.put, Group.waits]

theorem Group.vreg_wake (x : Group) (n : Nat) (l : Fin 32) : x.wake.vreg n l = x.vreg n l := rfl

/-- The scores written, the group goes on. -/
def Group.scored (x : Group) (dst : Nat) (qfmt kfmt : BitVec 3) (queries keys : Nat) : Group :=
  (x.writes (.v dst) 8 (fun j l => (scorerScore x qfmt kfmt queries keys j l).hi)).wake

section
variable {x : Group} {dst : Nat} {qfmt kfmt : BitVec 3} {queries keys : Nat}

/-- The return of a scorer instruction reports and leaves its group scored (R259, R281). -/
theorem State.scoreGroup_eq {s : State} (hx : s.groupBy? x.block x.inBlock = some x) (hw : x.wait = .score dst qfmt kfmt queries keys)
    (hs : x.stepping = false) :
    let r := scorerScore x qfmt kfmt queries keys
    let all := (List.range 8).flatMap (fun j => x.lanes.map (fun l => (j, l.val, r j l)))
    let inv := (all.filter (fun e => e.2.2.inv)).map (fun e => (⟨fsScore, e.1, e.2.1, 0⟩ : FpInv))
    s.scoreGroup x.block x.inBlock
      = ((s.fpInvalids x.part inv).fpOverflows x.part (all.filter (fun e => e.2.2.ovf)).length).updGroupBy x.block x.inBlock
        (fun _ => x.scored dst qfmt kfmt queries keys) := by
  simp only [State.scoreGroup, hx, hw, hs, Bool.false_and, State.doIf, Bool.false_eq_true, if_false]
  rfl

/-- What a group that was not stepping keeps when its scores are written. -/
theorem Group.scored_rest (hs : x.stepping = false) : let y := x.scored dst qfmt kfmt queries keys
    y.wait = .none ∧ y.pc = x.pc ∧ y.sregs = x.sregs ∧ y.invs = x.invs ∧ y.ovfs = x.ovfs ∧ (x.state = .waiting → y.state = .running) := by
  have hz := x.writes_rest (.v dst) (fun j l => (scorerScore x qfmt kfmt queries keys j l).hi) 8
  obtain ⟨hsregs, -⟩ := x.writes_vector dst (fun j l => (scorerScore x qfmt kfmt queries keys j l).hi) 8
  rw [hsregs] at hz
  intro y
  have hy : y = Group.wake _ := congrArg Group.wake hz
  rw [hy]
  refine ⟨rfl, rfl, rfl, rfl, rfl, fun hst => ?_⟩
  simp [Group.wake, hs, hst]

variable (x dst qfmt kfmt queries keys)

/-- Each active lane has the scores of its key in the eight registers (R280). -/
theorem Group.vreg_scored (n : Nat) (l : Fin 32) : (x.scored dst qfmt kfmt queries keys).vreg n l
    = if dst ≤ n ∧ n < dst + 8 ∧ x.on l = true then (scorerScore x qfmt kfmt queries keys (n - dst) l).hi else x.vreg n l := by
  obtain ⟨-, hv⟩ := x.writes_vector dst (fun j l => (scorerScore x qfmt kfmt queries keys j l).hi) 8
  rw [Group.scored, Group.vreg_wake, hv]

end

/-! ## The obligation -/

/-- Settles O51: each row's three ways, with the registers that its effect writes; the scorer's wait, and what its return leaves. -/
theorem laneArithmeticWritesItsDestination : Obligations.LaneArithmeticWritesItsDestination := by
  refine ⟨fun g x check s h => ⟨fun op w signed sat dst a b c => ?integer, fun op f dst a b c => ?float, fun src dst sat d a => ?convert,
      fun fn dst a => ?special, fun op dst a idx => ?exchange⟩,
    fun g x dst qfmt kfmt queries keys check t s h => ?scorer, fun x dst qfmt kfmt queries keys s hx hw hs => ?score⟩
  case integer =>
    refine instr_ways rfl h rfl (fun hc hr => ?_)
    cases hwd : decide (w.bits = 64) && !op.compares with
    | true =>
      obtain ⟨y, he, hy⟩ := instr_write64 (i := .integer g op w signed sat dst a b c check) rfl h hc rfl (hr.trans (if_pos hwd))
      refine ⟨y, he, fun _ => hy, nofun, fun d _ h32 => ?_⟩
      subst h32
      exact absurd hwd Bool.false_ne_true
    | false =>
      obtain ⟨y, he, hy⟩ := instr_write (i := .integer g op w signed sat dst a b c check) rfl h hc rfl (hr.trans (if_neg (by rw [hwd]; decide)))
      refine ⟨y, he, nofun, fun _ => hy, fun d hd h32 l hl => ?_⟩
      subst hd h32
      rw [Group.wrote_vreg hy hl]
      exact intWord_cases op signed sat (a.val x l) (b.val x l) (c.val x l).toNat
  case float =>
    have hok : ∀ k : Bool, (decide (f = .e4m3) || decide (f = .e5m2) || !k) = !(decide (f ≠ .e4m3) && decide (f ≠ .e5m2) && k) := by
      cases f <;> decide
    exact instr_ways rfl h (if_congr (Bool.eq_iff_iff.1 (hok _)) rfl rfl) (fun hc hr => instr_write rfl h hc rfl hr)
  case convert => exact instr_ways rfl h rfl (fun hc hr => instr_write rfl h hc rfl hr)
  case special => exact instr_ways rfl h rfl (fun hc hr => instr_write rfl h hc rfl hr)
  case exchange =>
    have hok : (!dst.fits x false || !a.fits x false || !idx.fits x false || (op.moves && !dst.vector))
        = !(dst.fits x false && a.fits x false && idx.fits x false && (!op.moves || dst.vector)) := by simp
    refine instr_ways rfl h (if_congr (Bool.eq_iff_iff.1 hok) rfl rfl) (fun hc hr => ⟨fun hm => ?moves, fun hm => ?folds⟩)
    case moves =>
      have hfresh : (s.seen check).fresh = s.fresh := State.seen_keeps State.fresh (fun _ => rfl) s check
      rw [← hfresh, ← shuffle_congr hfresh]
      have hrun : ∃ y, exec (.laneExchange g op dst a idx check) s
            = .next (({ s.seen check with fresh := (s.seen check).fresh + 1 } : State).ranTo g y)
          ∧ x.wrote y dst 1 (fun _ => shuffle (s.seen check) x a (laneFrom x op idx)) := by
        cases op with
        | shuffleIdx => exact instr_write rfl h hc rfl hr
        | shuffleOff d => exact instr_write rfl h hc rfl hr
        | broadcast k => exact instr_write rfl h hc rfl hr
        | _ => cases hm
      obtain ⟨y, he, hy⟩ := hrun
      refine ⟨y, he, hy, fun d l k hd hl hk hf => ?_⟩
      subst hd
      rw [Group.wrote_vreg hy hl, shuffle_from hk hf]
    case folds =>
      refine instr_write rfl h hc rfl (hr.trans ?_)
      cases op with
      | shuffleIdx => cases hm
      | shuffleOff d => cases hm
      | broadcast k => cases hm
      | _ => rfl
  case scorer =>
    intro s1 i ok item
    have hillegal : (!x.prog.usesScorer || !s1.formatOn x qfmt || !s1.formatOn x kfmt || !scorerFits x dst qfmt kfmt queries keys) = !ok := by
      have hfmt : ∀ f, s1.formatOn x f = s.formatOn x f := fun f => State.seen_keeps (·.formatOn x f) (fun _ => rfl) (s.at t) check
      rw [hfmt, hfmt]
      simp [ok]
    refine ⟨fun hc => ?_, fun hc hl => ?_, fun hc hl => ?_⟩
    · subst hc
      exact congrArg Host.Outcome.next (instr_failed h)
    · exact congrArg Host.Outcome.next (instr_trap h hc rfl (if_pos (hillegal.trans (congrArg (! ·) hl))))
    · have hg : s1.group? g = some x := (State.seen_keeps (·.group? g) (fun _ => rfl) (s.at t) check).trans (issuing_running h.1).1
      have hherd : s1.herd = s.herd := State.seen_keeps State.herd (fun _ => rfl) (s.at t) check
      have hmem : s1.mem = s.mem := State.seen_keeps State.mem (fun _ => rfl) (s.at t) check
      have hqueues : s1.queues = s.queues := State.seen_keeps State.queues (fun _ => rfl) (s.at t) check
      obtain ⟨hbherd, hbmem, hbqueues⟩ := State.barriers_keeps ((s1.enterAs item x.part 0 none).put g
        (({ x with pc := x.pc + 8 } : Group).waits (.score dst qfmt kfmt queries keys))) x.block
      refine ⟨_, congrArg Host.Outcome.next (instr_hold h hc rfl (if_neg (by rw [hillegal, hl]; decide)) hg),
        State.put_waits_group? _ g _ nofun nofun, hbherd.trans ?_, hbmem.trans hmem, hbqueues.trans hqueues⟩
      rw [← hherd]
      rfl
  case score =>
    obtain ⟨hwait, hpc, hsregs, hinvs, hovfs, hstate⟩ := Group.scored_rest (dst := dst) (qfmt := qfmt) (kfmt := kfmt) (queries := queries) (keys := keys) hs
    exact ⟨_, State.scoreGroup_eq hx hw hs, hwait, hpc, hsregs, hinvs, hovfs, hstate, x.vreg_scored dst qfmt kfmt queries keys⟩

end Sys2Proof.Machine
end

section
/-!
Control instructions (R269, R280, R283, R284): branches, calls and the divergence stack.
-/

namespace Sys2Proof.Machine
open Sys2Proof

/-! ## The group and its state word -/

/-- A corrected word leaves the group that issues where it stands. -/
theorem State.seen_put {s : State} {g : GroupRef} {x : Group} (h : s.fetches g x) (check : Check) : (s.seen check).put g x = s.seen check :=
  setGroup_self ((State.seen_keeps (·.group? g) (fun _ => rfl) s check).trans (issuing_running h.1).1)

/-! ## The spill area (R283) -/

/-- The two words of a divergence-stack entry, read back from its eight bytes. -/
theorem State.refill_eq {s : State} {x : Group} {w : W32 × W32} (h : s.locNum x.block (x.spillOff (x.spilled - 1)) 8 = stackWord w) :
    s.refill x = w := by
  have h1 := w.1.isLt
  have h2 := w.2.isLt
  refine Prod.ext (BitVec.eq_of_toNat_eq ?_) (BitVec.eq_of_toNat_eq ?_) <;>
    simp only [State.refill, h, stackWord, BitVec.toNat_ofNat] <;> omega

/-! ## The instructions -/

section
variable {s : State} {g : GroupRef} {x : Group} {check : Check} (h : s.fetches g x) (hc : check ≠ .failed)
include h hc

theorem exec_branch (target : W32) : exec (.branch g target check) s = .next ((s.seen check).ranTo g { x with pc := target }) :=
  congrArg Host.Outcome.next (instr_jump h hc rfl (congrArg (Ran.jump · target) (State.seen_put h check).symm) (issuing_running h.1).2)

/-- A link outside the scalar registers. -/
theorem exec_programCall_illegal {link : Nat} (hl : x.prog.sregs ≤ link) (target : Option W32) :
    exec (.programCall g target link check) s = .next ((s.seen check).trap s.env0 g x 2) := by
  refine congrArg Host.Outcome.next (instr_trap h hc rfl (if_pos ?_))
  simp [Src.fits, hl]

theorem exec_programCall_return {link : Nat} (hl : link < x.prog.sregs) :
    exec (.programCall g none link check) s = .next ((s.seen check).ranTo g { x with pc := x.sreg link }) := by
  refine congrArg Host.Outcome.next (instr_jump h hc rfl ((if_neg ?_).trans (congrArg (Ran.jump · (x.sreg link)) (State.seen_put h check).symm))
    (issuing_running h.1).2)
  simp [Src.fits, Nat.succ_le_of_lt hl]

theorem exec_programCall_call {link : Nat} (hl : link < x.prog.sregs) (t : W32) :
    exec (.programCall g (some t) link check) s = .next ((s.seen check).ranTo g { x.setS link (x.pc + 8) with pc := t }) := by
  refine congrArg Host.Outcome.next (instr_jump h hc rfl (if_neg ?_) (issuing_running h.1).2)
  simp [Src.fits, Nat.succ_le_of_lt hl]

end

/-- A group that has pushed its active mask and the reconvergence point, the named lanes active (R283). -/
def Group.pushed (x : Group) (reconv active : W32) : Group := { x with dstack := (x.active, reconv) :: x.dstack, active := x.active &&& active }

/-- A group that has popped the entry of mask `m`, with the stack `r` below it (R283). -/
def Group.popped (x : Group) (m : W32) (r : List (W32 × W32)) : Group := { x with dstack := r, active := m &&& ~~~x.exited }

/-- What DIVERGENCE_PUSH does. -/
def pushEffect (g : GroupRef) (reconv active : W32) (s : State) (x : Group) : Ran :=
  let y := x.pushed reconv active
  if x.dstack.length < 16 then .done (s.put g y)
  else if x.prog.dspill ≤ x.spilled then .trap 5
  else
    let s1 := s.locPut x.block (x.spillOff x.spilled) 8 (stackWord (x.dstack.getLast?.getD (0, 0)))
    .done (s1.put g { y with dstack := y.dstack.dropLast, spilled := x.spilled + 1 })

/-- What DIVERGENCE_POP does. -/
def popEffect (g : GroupRef) (s : State) (x : Group) : Ran :=
  match x.dstack with
  | [] => .trap 2
  | e :: r =>
    let y := x.popped e.1 r
    .done (s.put g (if x.spilled = 0 then y else { y with dstack := r ++ [s.refill x], spilled := x.spilled - 1 }))

/-- The row's own function is `pushEffect`. -/
theorem exec_divergencePush (g : GroupRef) (reconv active : W32) (t : Nat) (check : Check) (s : State) :
    exec (.divergencePush g reconv active t check) s = .next ((s.at t).instr g (s.at t).env0 check (pushEffect g reconv active)) := rfl

/-- The row's own function is `popEffect`. -/
theorem exec_divergencePop (g : GroupRef) (t : Nat) (check : Check) (s : State) :
    exec (.divergencePop g t check) s = .next ((s.at t).instr g (s.at t).env0 check (popEffect g)) := rfl

section
variable {s : State} {g : GroupRef} {x : Group} {check : Check} {env : Env} (h : s.fetches g x) (hc : check ≠ .failed) (ha : env.hw.addr = false)
include h hc ha

section
variable (reconv active : W32)

theorem instr_push_held (hn : x.dstack.length < 16) :
    s.instr g env check (pushEffect g reconv active) = (s.seen check).ranTo g { x.pushed reconv active with pc := x.pc + 8 } :=
  instr_done h hc ha (if_pos hn) (issuing_running h.1).2

/-- The oldest hardware entry moves to the spill area. -/
theorem instr_push_spills (hn : 16 ≤ x.dstack.length) (hs : x.spilled < x.prog.dspill) {e : W32 × W32} (he : x.dstack.getLast? = some e) :
    s.instr g env check (pushEffect g reconv active)
      = ((s.seen check).locPut x.block (x.spillOff x.spilled) 8 (stackWord e)).ranTo g
        { x.pushed reconv active with pc := x.pc + 8, dstack := (x.pushed reconv active).dstack.dropLast, spilled := x.spilled + 1 } := by
  refine instr_done (y := { x.pushed reconv active with dstack := (x.pushed reconv active).dstack.dropLast, spilled := x.spilled + 1 }) h hc ha ?_
    (issuing_running h.1).2
  rw [pushEffect, if_neg (not_lt.2 hn), if_neg (not_le.2 hs), he, Option.getD_some]

theorem instr_push_overflows (hn : 16 ≤ x.dstack.length) (hs : x.prog.dspill ≤ x.spilled) :
    s.instr g env check (pushEffect g reconv active) = (s.seen check).trap env g x 5 :=
  instr_trap h hc ha ((if_neg (not_lt.2 hn)).trans (if_pos hs))

end

theorem instr_pop_empty (hd : x.dstack = []) : s.instr g env check (popEffect g) = (s.seen check).trap env g x 2 :=
  instr_trap h hc ha (by rw [popEffect, hd])

section
variable {e : W32 × W32} {r : List (W32 × W32)} (hd : x.dstack = e :: r)
include hd

theorem instr_pop_held (hs : x.spilled = 0) :
    s.instr g env check (popEffect g) = (s.seen check).ranTo g { x.popped e.1 r with pc := x.pc + 8 } :=
  instr_done h hc ha (by simp only [popEffect, hd, if_pos hs]) (issuing_running h.1).2

/-- The newest spilled entry comes back. -/
theorem instr_pop_refills (hs : x.spilled ≠ 0) {w : W32 × W32} (hw : (s.seen check).locNum x.block (x.spillOff (x.spilled - 1)) 8 = stackWord w) :
    s.instr g env check (popEffect g)
      = (s.seen check).ranTo g { x.popped e.1 r with pc := x.pc + 8, dstack := r ++ [w], spilled := x.spilled - 1 } :=
  instr_done (y := { x.popped e.1 r with dstack := r ++ [w], spilled := x.spilled - 1 }) h hc ha
    (by simp only [popEffect, hd, if_neg hs, State.refill_eq hw]) (issuing_running h.1).2

end

end

/-! ## The obligation -/

/-- Settles O52: a branch and a call set the PC, a push and a pop go by the number of entries held and spilled. -/
theorem controlMovesThePcAndTheStack : Obligations.ControlMovesThePcAndTheStack := by
  refine ⟨fun g x check s h => ⟨fun hc target link t => ?failed, fun hc => ⟨exec_branch h hc, fun link =>
      ⟨exec_programCall_illegal h hc, fun hl => ⟨exec_programCall_return h hc hl, fun t => ?call⟩⟩⟩⟩,
    fun g x t check s h => ⟨fun hc => ?failedStack, fun hc => ⟨fun reconv active => ?push, fun hd => ?empty, fun e r hd => ?pop⟩⟩⟩
  case failed =>
    subst hc
    exact ⟨congrArg Host.Outcome.next (instr_failed h), congrArg Host.Outcome.next (instr_failed h)⟩
  case call =>
    exact ⟨_, exec_programCall_call h hc hl t, rfl, x.sreg_setS link (x.pc + 8), fun n hn => x.sreg_setS_ne hn (x.pc + 8)⟩
  case failedStack =>
    subst hc
    exact ⟨congrArg Host.Outcome.next (instr_failed h), fun _ _ => congrArg Host.Outcome.next (instr_failed h)⟩
  case push =>
    exact ⟨fun hn => congrArg Host.Outcome.next (instr_push_held h hc rfl reconv active hn),
      fun hn hs e he => congrArg Host.Outcome.next (instr_push_spills h hc rfl reconv active hn hs he),
      fun hn hs => congrArg Host.Outcome.next (instr_push_overflows h hc rfl reconv active hn hs)⟩
  case empty => exact congrArg Host.Outcome.next (instr_pop_empty h hc rfl hd)
  case pop =>
    have hloc : ∀ off, ((s.at t).seen check).locNum x.block off 8 = s.locNum x.block off 8 := fun off =>
      State.seen_keeps (·.locNum x.block off 8) (fun _ => rfl) (s.at t) check
    exact ⟨fun hs => congrArg Host.Outcome.next (instr_pop_held h hc rfl hd hs),
      fun hs w hw => congrArg Host.Outcome.next (instr_pop_refills h hc rfl hd hs ((hloc _).trans hw))⟩

end Sys2Proof.Machine
end

section
/-!
Barriers and fences (R288, R296, R297): BAR, BAR.CLU, FENCE.SYS, FENCE.BLK and FENCE.CLU.
-/

namespace Sys2Proof.Machine
open Sys2Proof

/-! ## A group that waits at its next instruction -/

/-- An instruction that leaves its group waiting has moved on. -/
theorem instr_holds {s s1 : State} {g : GroupRef} {env : Env} {check : Check} {x y : Group} {f : State → Group → Ran} {w : GWait} (h : s.fetches g x)
    (hc : check ≠ .failed) (ha : env.hw.addr = false) (hf : f (s.seen check) x = .hold (s1.put g y) w) :
    s.instr g env check f = (s1.put g (({ y with pc := y.pc + 8 } : Group).waits w)).barriers x.block := by
  obtain ⟨hi, pa, ht⟩ := h
  rw [State.seen] at hf
  simp only [State.instr, hi, ht, hc, ha, Bool.false_eq_true, if_false, hf, State.put, State.updGroup, group?_setGroup, setGroup_setGroup, Group.waits]

/-- A group that a precise trap stops stays in its slot, unless the partition ends its trapped groups (R303, R304). -/
theorem State.trap_group? {s : State} {g : GroupRef} {x : Group} (h : s.group? g = some x) (env : Env) (code : Nat)
    (ha : (s.part x.part).autoEnd = false) : (s.trap env g x code).group? g = some (x.trapped code) := by
  by_cases hf : 64 ≤ (s.openOf x.part).length
  · rw [State.trap_waits h env code hf]
    exact State.group?_setGroup ..
  · rw [State.trap_opens h env code (not_le.1 hf) ha, State.openFault_group?]
    exact State.group?_setGroup ..

/-- The group that issues stands where it stood once its words are read. -/
theorem State.seen_group? {s : State} {g : GroupRef} {x : Group} (h : s.fetches g x) (check : Check) : (s.seen check).group? g = some x :=
  (State.seen_keeps (·.group? g) (fun _ => rfl) s check).trans (issuing_running h.1).1

/-! ## Barriers (R296, R297) -/

theorem State.put_setOf (s : State) (g : GroupRef) (x : Group) (block : Nat) : (s.put g x).setOf block = s.setOf block := by
  rw [State.setOf, State.put_blocksAll]
  rfl

/-- The groups that a group at a barrier of its block waits for. -/
def State.blockPeers (s : State) (x : Group) : List Group := s.liveGroups.filter (fun h => !h.over && h.block == x.block)

/-- The groups that a group at a barrier of its cluster set waits for. -/
def State.setPeers (s : State) (x : Group) : List Group := s.liveGroups.filter (fun h => !h.over && s.setOf h.block == s.setOf x.block)

section
variable (s : State) {x : Group}

/-- A barrier is met once every group that counts has arrived as often. -/
theorem State.barMet_bar {b : Fin 16} (hw : x.wait = .bar b) :
    s.barMet x.block x = true ↔ ∀ h ∈ s.blockPeers x, arrivals x.arrived b.val ≤ arrivals h.arrived b.val := by
  simp only [State.barMet, hw, beq_self_eq_true, Bool.true_and, List.filter_filter, List.all_eq_true, decide_eq_true_eq, State.blockPeers, Bool.and_comm]

theorem State.barMet_barClu {b : Fin 4} (hw : x.wait = .barClu b) :
    s.barMet x.block x = true ↔ ∀ h ∈ s.setPeers x, arrivals x.cluArr b.val ≤ arrivals h.cluArr b.val := by
  simp only [State.barMet, hw, beq_self_eq_true, Bool.true_and, List.filter_filter, List.all_eq_true, decide_eq_true_eq, State.setPeers, Bool.and_comm]

end

/-- A group that has come to a barrier goes on where the barrier is met, and waits where some group is still behind. -/
theorem State.barriers_arrival (s : State) (g : GroupRef) (y : Group) (peers : List Group) (seen : Group → Nat) (n : Nat)
    (hm : (s.put g y).barMet y.block y = true ↔ ∀ h ∈ peers, n + 1 ≤ seen h) :
    ((∀ h ∈ peers, n + 1 ≤ seen h) → ((s.put g y).barriers y.block).group? g = some y.wake)
      ∧ ((∃ h ∈ peers, seen h ≤ n) → ((s.put g y).barriers y.block).group? g = some y) := by
  have hg : ((s.put g y).barriers y.block).group? g = some (if (s.put g y).barMet y.block y then y.wake else y) := by
    rw [State.barriers_group?, State.put, State.group?_setGroup]
    rfl
  refine ⟨fun hall => hg.trans (congrArg some (if_pos (hm.2 hall))), fun ⟨h, hp, hn⟩ => hg.trans (congrArg some (if_neg fun ht => ?_))⟩
  exact absurd (hm.1 ht h hp) (by omega)

theorem State.barriers_err (s : State) (block : Nat) : (s.barriers block).err = s.err :=
  Comp.same_err (State.barriers_frame s block _ (by decide))

/-- A group that has arrived at a barrier of its block. -/
def Group.atBar (x : Group) (b : Fin 16) (bars : List BarRec) : Group :=
  { x with pc := x.pc + 8, arrived := assocPut b.val (arrivals x.arrived b.val + 1) x.arrived, bars := bars, wait := .bar b, state := .waiting }

/-- A group that has arrived at a barrier of its cluster set. -/
def Group.atBarClu (x : Group) (b : Fin 4) : Group :=
  { x with pc := x.pc + 8, cluArr := assocPut b.val (arrivals x.cluArr b.val + 1) x.cluArr, wait := .barClu b, state := .waiting }

theorem arrivals_assocPut (b n : Nat) (l : List (Nat × Nat)) : arrivals (assocPut b n l) b = n := by
  rw [arrivals, assocGet_assocPut, Option.getD_some]

theorem State.barMet_atBar (s : State) (x : Group) (b : Fin 16) (bars : List BarRec) : s.barMet (x.atBar b bars).block (x.atBar b bars) = true
    ↔ ∀ h ∈ s.blockPeers x, arrivals x.arrived b.val + 1 ≤ arrivals h.arrived b.val := by
  rw [s.barMet_bar (x := x.atBar b bars) (b := b) rfl, Group.atBar, arrivals_assocPut]
  rfl

theorem State.barMet_atBarClu (s : State) (x : Group) (b : Fin 4) : s.barMet (x.atBarClu b).block (x.atBarClu b) = true
    ↔ ∀ h ∈ s.setPeers x, arrivals x.cluArr b.val + 1 ≤ arrivals h.cluArr b.val := by
  rw [s.barMet_barClu (x := x.atBarClu b) (b := b) rfl, Group.atBarClu, arrivals_assocPut]
  rfl

/-- What BAR does. -/
def barEffect (g : GroupRef) (b : Fin 16) (s : State) (x : Group) : Ran :=
  let full := x.launch &&& ~~~x.exited
  let others := x.bars.filter (fun r => decide (r.bar ≠ b))
  let go := fun bars => Ran.hold (s.put g { x with arrived := arrive b.val x.arrived, bars := bars }) (.bar b)
  if x.active = full then go others
  else if x.bars.any (fun r => decide (r.bar = b) && decide (r.absent &&& x.active ≠ 0)) then .trap 7
  else if x.prog.barPartialOk then go (⟨b, full &&& ~~~x.active⟩ :: others)
  else .trap 6

theorem exec_bar (g : GroupRef) (b : Fin 16) (t : Nat) (check : Check) (s : State) :
    exec (.bar g b t check) s = .next ((s.at t).instr g (s.at t).env0 check (barEffect g b)) := rfl

section
variable {s : State} {g : GroupRef} {x : Group} {check : Check} (h : s.fetches g x) (hc : check ≠ .failed)
include h hc

/-- An arrival, with its record of absent lanes. -/
theorem instr_bar_arrives {env : Env} (ha : env.hw.addr = false) {b : Fin 16} {bars : List BarRec}
    (hf : barEffect g b (s.seen check) x = .hold ((s.seen check).put g { x with arrived := arrive b.val x.arrived, bars := bars }) (.bar b)) :
    let u := s.instr g env check (barEffect g b)
    ((∀ h ∈ (s.put g (x.atBar b bars)).blockPeers x, arrivals x.arrived b.val + 1 ≤ arrivals h.arrived b.val) → u.group? g = some (x.atBar b bars).wake)
      ∧ ((∃ h ∈ (s.put g (x.atBar b bars)).blockPeers x, arrivals h.arrived b.val ≤ arrivals x.arrived b.val) → u.group? g = some (x.atBar b bars))
      ∧ u.mem = s.mem ∧ u.queues = s.queues ∧ u.err = (s.seen check).err := by
  intro u
  have hu : u = ((s.seen check).put g (x.atBar b bars)).barriers x.block :=
    instr_holds (s1 := s.seen check) (y := { x with arrived := arrive b.val x.arrived, bars := bars }) (w := .bar b) h hc ha hf
  have hpeers : ((s.seen check).put g (x.atBar b bars)).blockPeers x = (s.put g (x.atBar b bars)).blockPeers x :=
    State.seen_keeps (fun t => (t.put g (x.atBar b bars)).blockPeers x) (fun _ => rfl) s check
  obtain ⟨hgo, hwait⟩ := State.barriers_arrival (s.seen check) g (x.atBar b bars) _ (fun h => arrivals h.arrived b.val) _ (State.barMet_atBar ..)
  obtain ⟨-, hmem, hqueues⟩ := ((s.seen check).put g (x.atBar b bars)).barriers_keeps x.block
  rw [hu, ← hpeers]
  exact ⟨hgo, hwait, hmem.trans (State.seen_keeps State.mem (fun _ => rfl) s check), hqueues.trans (State.seen_keeps State.queues (fun _ => rfl) s check),
    State.barriers_err ..⟩

theorem exec_barClu_arrives (b : Fin 4) :
    let y := x.atBarClu b
    let peers := (s.put g y).liveGroups.filter (fun h => !h.over && s.setOf h.block == s.setOf x.block)
    ∃ u, exec (.barClu g b check) s = .next u
      ∧ ((∀ h ∈ peers, arrivals x.cluArr b.val + 1 ≤ arrivals h.cluArr b.val) → u.group? g = some y.wake)
      ∧ ((∃ h ∈ peers, arrivals h.cluArr b.val ≤ arrivals x.cluArr b.val) → u.group? g = some y)
      ∧ u.mem = s.mem ∧ u.queues = s.queues ∧ u.err = (s.seen check).err := by
  intro y peers
  have hpeers : ((s.seen check).put g y).setPeers x = peers := by
    refine (State.seen_keeps (fun t => (t.put g y).setPeers x) (fun _ => rfl) s check).trans ?_
    simp only [State.setPeers, State.put_setOf, peers]
  obtain ⟨hgo, hwait⟩ := State.barriers_arrival (s.seen check) g y peers (fun h => arrivals h.cluArr b.val) _
    (hpeers ▸ State.barMet_atBarClu ..)
  obtain ⟨-, hmem, hqueues⟩ := ((s.seen check).put g y).barriers_keeps x.block
  exact ⟨_, congrArg Host.Outcome.next (instr_holds h hc rfl rfl), hgo, hwait, hmem.trans (State.seen_keeps State.mem (fun _ => rfl) s check),
    hqueues.trans (State.seen_keeps State.queues (fun _ => rfl) s check), State.barriers_err ..⟩

/-- A trap at a barrier. -/
theorem instr_bar_traps {env : Env} (ha : env.hw.addr = false) {b : Fin 16} {code : Byte} (hf : barEffect g b (s.seen check) x = .trap code.toNat) :
    s.instr g env check (barEffect g b) = (s.seen check).trap env g x code.toNat
      ∧ ((s.part x.part).autoEnd = false → (s.instr g env check (barEffect g b)).group? g
        = some { x with state := .trapped, trap := code, stepping := false }) := by
  have hi := instr_trap h hc ha hf
  refine ⟨hi, fun hend => ?_⟩
  rw [hi, State.trap_group? (State.seen_group? h check) env code.toNat ((congrArg Part.autoEnd (State.seen_keeps (·.part x.part) (fun _ => rfl) s check)).trans hend),
    Group.trapped, BitVec.ofNat_toNat, BitVec.setWidth_eq]

end

/-! ## Stores that become visible (R288) -/

theorem State.publish_setter (s : State) : s.publish.setter = { s.setter with pend := stillPending s.setter.pend } :=
  foldl_keeps State.setter (fun s (e : PendStore) => s.poke e.pa [e.value]) (fun _ _ => rfl) _ _

theorem mem_stillPending {e : PendStore} {l : List PendStore} (h : e ∈ stillPending l) : e ∈ l ∧ e.go = false := by
  induction l with
  | nil => exact absurd h List.not_mem_nil
  | cons a r ih =>
    rw [stillPending] at h
    split at h
    · exact ⟨List.mem_cons_of_mem _ (ih h).1, (ih h).2⟩
    · rename_i ha
      rcases List.mem_cons.1 h with rfl | h
      · exact ⟨List.mem_cons_self, by simp_all⟩
      · exact ⟨List.mem_cons_of_mem _ (ih h).1, (ih h).2⟩

section
variable (s : State) (block inBlock : Nat)

/-- No acknowledged byte of a group whose fence has completed is hidden any more. -/
theorem State.loosen_shows : ∀ e ∈ (s.loosen block inBlock).setter.pend, e.acked = true → e.block ≠ block ∨ e.inBlock ≠ inBlock := by
  intro e he hacked
  rw [State.loosen, State.publish_setter] at he
  obtain ⟨hmem, hgo⟩ := mem_stillPending he
  obtain ⟨a, -, rfl⟩ := List.mem_map.1 hmem
  split at hgo
  · rename_i hmine
    rw [if_pos hmine] at hacked
    rw [PendStore.go, hacked] at hgo
    exact absurd hgo nofun
  · rename_i hmine
    rw [if_neg hmine]
    simpa [imp_iff_not_or] using hmine

theorem State.loosen_group? (k : GroupRef) : (s.loosen block inBlock).group? k = s.group? k := by
  have hcores : (s.loosen block inBlock).setter.cores = s.setter.cores := by
    rw [State.loosen, State.publish_setter]
    rfl
  rw [State.group?, State.core, hcores]
  rfl

end

/-- A core changed in its lines only keeps its groups. -/
theorem State.setL1_group? (s : State) (c : CoreId) (l : List (PartId × Nat × BitVec 1024)) (k : GroupRef) :
    (s.setCore c { s.core c with l1 := l }).group? k = s.group? k := by
  unfold State.group?
  by_cases hc : c = k.core
  · rw [hc, State.core_setCore]
  · rw [State.core_setCore_ne _ _ hc]

theorem State.put_l1 (s : State) (g : GroupRef) (x : Group) (c : CoreId) : ((s.put g x).core c).l1 = (s.core c).l1 := by
  unfold State.put State.setGroup
  by_cases hc : g.core = c
  · rw [hc, State.core_setCore]
  · rw [State.core_setCore_ne _ _ hc]

theorem State.barriers_l1 (s : State) (block : Nat) (c : CoreId) : ((s.barriers block).core c).l1 = (s.core c).l1 := by
  simp only [State.barriers]
  rw [foldl_keeps (fun t => (t.core c).l1) _ (fun u x => congrArg (fun z : Setter => (z.cores[c]).l1)
    (Comp.same_setter (State.rayHalt_frame u x true _ (by decide))))]
  simp [State.core, State.mapGroups]

/-! ## Fences (R288) -/

section
variable {s : State} {g : GroupRef} {x : Group} {check : Check} (h : s.fetches g x) (hc : check ≠ .failed)
include h hc

/-- An instruction that leaves its group as it was only goes on. -/
theorem instr_passes {s1 : State} {env : Env} {f : State → Group → Ran} (ha : env.hw.addr = false) (hf : f (s.seen check) x = .done s1)
    (hg : s1.group? g = some x) : s.instr g env check f = s1.ranTo g { x with pc := x.pc + 8 } :=
  instr_done h hc ha (hf.trans (congrArg Ran.done (setGroup_self hg).symm)) (issuing_running h.1).2

/-- With no store or atomic outstanding the group's stores become visible, and the core's L1 is empty. -/
theorem exec_fenceSys_passes (hs : x.stores = 0) :
    let s1 := (s.seen check).loosen x.block x.inBlock
    exec (.fenceSys g check) s = .next ((s1.setCore g.core { s1.core g.core with l1 := [] }).ranTo g { x with pc := x.pc + 8 }) := by
  refine congrArg Host.Outcome.next (instr_passes h hc rfl (if_neg (not_not.2 hs)) ?_)
  rw [State.setL1_group?, State.loosen_group?, State.seen_group? h check]

theorem exec_fenceSys_waits (hs : x.stores ≠ 0) : ∃ u, exec (.fenceSys g check) s = .next u
    ∧ u.group? g = some { x with pc := x.pc + 8, wait := .fence, state := .waiting } ∧ (u.core g.core).l1 = (s.core g.core).l1 ∧ u.mem = s.mem := by
  refine ⟨_, congrArg Host.Outcome.next (instr_hold h hc rfl (if_pos hs) (State.seen_group? h check)),
    State.put_waits_group? _ g ({ x with pc := x.pc + 8 } : Group) nofun nofun, ?_, ?_⟩
  · rw [State.barriers_l1, State.put_l1]
    exact State.seen_keeps (fun t => (t.core g.core).l1) (fun _ => rfl) s check
  · obtain ⟨-, hmem, -⟩ := ((s.seen check).put g (({ x with pc := x.pc + 8 } : Group).waits .fence)).barriers_keeps x.block
    exact hmem.trans (State.seen_keeps State.mem (fun _ => rfl) s check)

end

/-! ## The obligation -/

/-- Settles O48: a barrier by the lanes that are there and the groups that have arrived, a fence by the stores that are outstanding. -/
theorem barriersAndFencesHoldTheirGroup : Obligations.BarriersAndFencesHoldTheirGroup := by
  refine ⟨fun g x b t s h => ⟨fun check hc => ?bar, congrArg Host.Outcome.next (instr_failed h)⟩,
    fun g x s h => ⟨fun b => ⟨fun check hc => exec_barClu_arrives h hc b, congrArg Host.Outcome.next (instr_failed h)⟩,
      fun check hc => ⟨fun hs => ⟨exec_fenceSys_passes h hc hs, State.loosen_shows _ _ _⟩, exec_fenceSys_waits h hc, ?fence, ?fence⟩,
      congrArg Host.Outcome.next (instr_failed h), congrArg Host.Outcome.next (instr_failed h), congrArg Host.Outcome.next (instr_failed h)⟩⟩
  case bar =>
    refine ⟨fun hfull => ?whole, fun hfull hagain hok => ?part, fun hfull hagain => ?again, fun hfull hagain hok => ?absent⟩
    case whole => exact ⟨_, exec_bar .., instr_bar_arrives h hc rfl (if_pos hfull)⟩
    case part =>
      exact ⟨_, exec_bar .., instr_bar_arrives h hc rfl ((if_neg hfull).trans ((if_neg (Bool.eq_false_iff.1 hagain)).trans (if_pos hok)))⟩
    case again =>
      obtain ⟨hi, hend⟩ := instr_bar_traps (env := (s.at t).env0) h hc rfl (code := 7) ((if_neg hfull).trans (if_pos hagain))
      exact ⟨congrArg Host.Outcome.next hi, fun ha => ⟨_, exec_bar .., hend ha⟩⟩
    case absent =>
      obtain ⟨hi, hend⟩ := instr_bar_traps (env := (s.at t).env0) h hc rfl (code := 6)
        ((if_neg hfull).trans ((if_neg (Bool.eq_false_iff.1 hagain)).trans (if_neg (by rw [hok]; decide))))
      exact ⟨congrArg Host.Outcome.next hi, fun ha => ⟨_, exec_bar .., hend ha⟩⟩
  all_goals exact congrArg Host.Outcome.next (instr_passes h hc rfl rfl (State.seen_group? h check))

end Sys2Proof.Machine
end

section
/-!
Texture samples (R330, R338, R339, R341): TEX and TEXLOD.
-/

namespace Sys2Proof.Machine
open Sys2Proof

/-! ## Results in the registers of the active lanes -/

/-- Vector registers set in the active lanes, one after the other, are results written. -/
theorem Group.setV_eq_writes (x : Group) (n k : Nat) {f : Nat → Fin 32 → Option W32} {w : Nat → Fin 32 → W32}
    (hf : ∀ j l, f j l = if x.on l then some (w j l) else none) :
    (List.range k).foldl (fun (y : Group) j => y.setV (n + j) (f j)) x = x.writes (.v n) k w := by
  induction k with
  | zero => rw [Group.writes, List.range_zero, List.foldl_nil, List.foldl_nil]
  | succ k ih =>
    have hk : f k = fun l => if (x.writes (.v n) k w).on l then some (w k l) else none := funext fun l => by rw [hf, Group.writes_on]
    rw [List.range_succ, List.foldl_append, ih, Group.writes_succ, List.foldl_cons, List.foldl_nil, hk, Dst.shift, Group.write]

/-- An instruction that writes some registers, of the group as its report leaves it, at a time and with choices of its own. -/
theorem instr_done_writes {s s1 : State} {g : GroupRef} {env : Env} {check : Check} {x x' : Group} {f : State → Group → Ran} {d : Dst} {k : Nat}
    {w : Nat → Fin 32 → W32} (h : s.fetches g x) (hc : check ≠ .failed) (ha : env.hw.addr = false) (hx : x'.state = x.state)
    (hf : f (s.seen check) x = .done (s1.put g (x'.writes d k w))) : ∃ y, s.instr g env check f = s1.ranTo g y ∧ x'.wrote y d k w := by
  have hrun : (x'.writes d k w).state = .running := by
    rw [Group.writes_rest]
    exact hx.trans (issuing_running h.1).2
  exact ⟨_, instr_done h hc ha hf hrun, x'.wrote_writes d w k⟩

section
variable {s : State} {g : GroupRef} {env : Env} {check : Check} {x : Group} {f : State → Group → Ran} (h : s.fetches g x) (hc : check ≠ .failed)
include h hc

/-- A residue error of the address arithmetic ends the group before its access is issued (R510, R511). -/
theorem instr_residue (ha : env.hw.addr = true) : s.instr g env check f = (s.lostGroup 6 g x).acceptMore 4096 := by
  obtain ⟨hi, pa, ht⟩ := h
  simp only [State.instr, hi, ht, hc, ha, if_false, if_true]

/-- An access that fails parks the group (R454). -/
theorem instr_fault (ha : env.hw.addr = false) {e : Xfault} (hf : f (s.seen check) x = .fault e) :
    s.instr g env check f = (s.seen check).memFault env g x e := by
  obtain ⟨hi, pa, ht⟩ := h
  rw [State.seen] at hf
  simp only [State.instr, hi, ht, hc, ha, Bool.false_eq_true, if_false, hf, State.seen]

end

/-! ## Samples (R339) -/

/-- Every lane that samples has its sample, in their order. -/
theorem State.samples_lanes {p : PartId} {c : FaultCtx} {desc : Fin 32 → Nat} {u v : Fin 32 → W32} {lod : Fin 32 → TexDesc → W32} {lanes : List (Fin 32)}
    {s t : State} {l : List (Fin 32 × Sample)} (h : s.samples p c desc u v lod lanes = .ok (l, t)) : l.map (·.1) = lanes := by
  induction lanes generalizing s l t with
  | nil =>
    rw [State.samples_nil] at h
    obtain ⟨hl, -⟩ := Prod.mk.inj (Acc.ok.inj h)
    rw [← hl, List.map_nil]
  | cons a r ih =>
    rw [State.samples_cons] at h
    split at h
    · exact absurd h nofun
    split at h
    · exact absurd h nofun
    split at h
    · exact absurd h nofun
    · rename_i hr
      obtain ⟨hl, -⟩ := Prod.mk.inj (Acc.ok.inj h)
      rw [← hl, List.map_cons, ih hr]

/-- The sample of a lane is found where the lane is active. -/
theorem find?_sample {x : Group} {l : List (Fin 32 × Sample)} (h : l.map (·.1) = x.lanes) (j : Fin 32) :
    (l.find? (fun e => decide (e.1 = j))).isSome = x.on j := by
  rw [Bool.eq_iff_iff, ← Group.mem_lanes, ← h, List.find?_isSome, List.mem_map]
  simp only [decide_eq_true_eq]

/-- A register that TEX leaves of a lane's sample. -/
def sampleReg (l : List (Fin 32 × Sample)) (k : Nat) (j : Fin 32) : W32 :=
  match l.find? (fun e => decide (e.1 = j)) with
  | some e => e.2.regs.getD k 0
  | none => 0

theorem find?_sampleReg {x : Group} {l : List (Fin 32 × Sample)} (h : l.map (·.1) = x.lanes) (k : Nat) (j : Fin 32) :
    (l.find? (fun e => decide (e.1 = j))).map (fun e => e.2.regs.getD k 0) = if x.on j then some (sampleReg l k j) else none := by
  rw [← find?_sample h, sampleReg]
  cases l.find? (fun e => decide (e.1 = j)) <;> rfl

/-! ## The instructions -/

/-- The operands of TEX and TEXLOD exist, and the group declares the texture unit. -/
def texFits (x : Group) (dst : Nat) (desc u v : Src) : Prop :=
  x.prog.usesTex = true ∧ dst + 5 ≤ x.prog.vregs ∧ desc.fits x true = true ∧ u.fits x false = true ∧ v.fits x false = true

/-- The samples of a group's active lanes. -/
def State.texSamples (s : State) (g : GroupRef) (x : Group) (desc u v : Src) (f : Fin 32 → TexDesc → W32) : Acc (List (Fin 32 × Sample) × State) :=
  s.samples x.part { State.groupCtx g x with source := 7 } (fun l => (desc.val64 x l).toNat) (u.val x) (v.val x) f x.lanes

/-- A group with the samples of its lanes in five registers. -/
def Group.sampled (x : Group) (dst : Nat) (l : List (Fin 32 × Sample)) : Group :=
  (List.range 5).foldl (fun (y : Group) k => y.setV (dst + k) (fun i => (l.find? (fun e => decide (e.1 = i))).map (fun e => e.2.regs.getD k 0))) x

/-- What TEX and TEXLOD do where their operands exist. -/
def texRan (g : GroupRef) (dst : Nat) (desc u v : Src) (f : Fin 32 → TexDesc → W32) (s : State) (x : Group) : Ran :=
  match s.texSamples g x desc u v f with
  | .bad e => .fault e
  | .ok (l, s1) => .done ((s1.texMarks x l).put g ((s.report x ((l.filter (fun e => e.2.inv)).map (·.1.val)) 0).sampled dst l))

/-- What TEX and TEXLOD do. -/
def texEffect (g : GroupRef) (dst : Nat) (desc u v lod : Src) (f : Group → Fin 32 → TexDesc → W32) (s : State) (x : Group) : Ran :=
  if !x.prog.usesTex || decide (x.prog.vregs < dst + 5) || !desc.fits x true || !u.fits x false || !v.fits x false || !lod.fits x false then .trap 2
  else texRan g dst desc u v (f x) s x

theorem texEffect_legal {x : Group} {dst : Nat} {desc u v lod : Src} (hl : texFits x dst desc u v) (hlod : lod.fits x false = true) (g : GroupRef)
    (f : Group → Fin 32 → TexDesc → W32) (s : State) : texEffect g dst desc u v lod f s x = texRan g dst desc u v (f x) s x := by
  obtain ⟨htex, hdst, hdesc, hu, hv⟩ := hl
  exact if_neg (by simp [htex, hdst, hdesc, hu, hv, hlod])

/-- The sampling rows' own function is `texEffect`. -/
theorem State.texInstr_eq (s : State) (g : GroupRef) (check : Check) (env : Env) (dst : Nat) (desc u v lod : Src) (f : Group → Fin 32 → TexDesc → W32) :
    s.texInstr g check env dst desc u v lod f = (s.at env.t).instr g env check (texEffect g dst desc u v lod f) := rfl

section
variable {s : State} {g : GroupRef} {x : Group} {check : Check} {env : Env} {dst : Nat} {desc u v lod : Src} {f : Group → Fin 32 → TexDesc → W32}
  (h : s.fetches g x) (hc : check ≠ .failed) (ha : env.hw.addr = false)
include h hc ha

theorem instr_tex_illegal (hl : ¬ (texFits x dst desc u v ∧ lod.fits x false = true)) :
    s.instr g env check (texEffect g dst desc u v lod f) = (s.seen check).trap env g x 2 := by
  refine instr_trap h hc ha (if_pos ?_)
  by_contra hn
  refine hl ?_
  simpa [texFits, and_assoc] using hn

/-- Each active lane's sample reaches its five registers; an access that fails parks the group. -/
theorem instr_tex_runs (hl : texFits x dst desc u v) (hlod : lod.fits x false = true) : let vals := (s.seen check).texSamples g x desc u v (f x)
    let i := s.instr g env check (texEffect g dst desc u v lod f)
    (∀ e, vals = .bad e → i = (s.seen check).memFault env g x e)
      ∧ ∀ l s2, vals = .ok (l, s2) → ∃ y, i = (s2.texMarks x l).ranTo g y
        ∧ ((s.seen check).report x ((l.filter (fun e => e.2.inv)).map (·.1.val)) 0).wrote y (.v dst) 5 (sampleReg l) := by
  refine ⟨fun e he => instr_fault h hc ha ?_, fun l s2 hok => instr_done_writes h hc ha rfl ?_⟩
  · rw [texEffect_legal hl hlod, texRan, he]
  · rw [texEffect_legal hl hlod, texRan, hok]
    exact congrArg (fun y => Ran.done ((s2.texMarks x l).put g y))
      (Group.setV_eq_writes _ dst 5 fun k j => find?_sampleReg (State.samples_lanes hok) k j)

end

/-! ## The obligation -/

/-- Settles O50: TEX and TEXLOD by whether their operands exist and their samples can be read. -/
theorem textureSamplesReachTheirLanes : Obligations.TextureSamplesReachTheirLanes := by
  intro g x dst desc u v lod check env s s0 s1 h tex texlod fits ctx vals illegal runs
  have htex : exec tex s = .next (s0.instr g env check (texEffect g dst desc u v (.imm 0) (fun x => texLodOf x u v))) := rfl
  have hlod : exec texlod s = .next (s0.instr g env check (texEffect g dst desc u v lod (fun x l _ => lod.val x l))) := rfl
  refine ⟨fun hc ha => ?residue, fun hc ha => ⟨fun hf => ?tex, fun hf hl => ?texlod, fun hf => ?illegal, fun hl => ?noLod⟩, fun hc => ?failed,
    fun p d a b c hd => ?sample⟩
  case residue => exact ⟨htex.trans (congrArg _ (instr_residue h hc ha)), hlod.trans (congrArg _ (instr_residue h hc ha))⟩
  case tex =>
    have hrun : runs tex (texLodOf x u v) := by
      obtain ⟨hbad, hok⟩ := instr_tex_runs (lod := .imm 0) (f := fun x => texLodOf x u v) h hc ha hf rfl
      refine ⟨fun e he => htex.trans (congrArg _ (hbad e he)), fun l s2 hl => ?_⟩
      obtain ⟨y, hi, hy⟩ := hok l s2 hl
      exact ⟨y, htex.trans (congrArg _ hi), hy⟩
    refine ⟨hrun, fun hwork => ?_⟩
    have hzero : texLodOf x u v = fun _ _ => 0 := by
      unfold texLodOf
      cases hw : x.work with
      | frag a b c d e => exact absurd hw (hwork a b c d e)
      | _ => rfl
    exact hzero ▸ hrun
  case texlod =>
    obtain ⟨hbad, hok⟩ := instr_tex_runs (lod := lod) (f := fun x l _ => lod.val x l) h hc ha hf hl
    refine ⟨fun e he => hlod.trans (congrArg _ (hbad e he)), fun l s2 hl => ?_⟩
    obtain ⟨y, hi, hy⟩ := hok l s2 hl
    exact ⟨y, hlod.trans (congrArg _ hi), hy⟩
  case illegal =>
    exact ⟨htex.trans (congrArg _ (instr_tex_illegal h hc ha fun hl => hf hl.1)), hlod.trans (congrArg _ (instr_tex_illegal h hc ha fun hl => hf hl.1))⟩
  case noLod => exact hlod.trans (congrArg _ (instr_tex_illegal h hc ha fun hf => Bool.false_ne_true (hl.symm.trans hf.2)))
  case failed =>
    subst hc
    exact ⟨htex.trans (congrArg _ (instr_failed h)), hlod.trans (congrArg _ (instr_failed h))⟩
  case sample => exact if_pos (by rw [hd]; rfl)

end Sys2Proof.Machine
end

section
/-!
Local store of a saved block (R285, R302): the refutation of the obligation on memory accesses.
-/

namespace Sys2Proof.Machine
open Sys2Proof

/-! ## A group whose block is saved -/

/-- A program of one group a block with 1 KiB of local store. -/
def strayProg : Prog := ⟨3, 0, 1, 0x5000, false, true, false, 16, 16, 1024, 1, 0, 64, 64, 0⟩

/-- A group of one lane, running, with 1 in v0. -/
def strayGroup : Group :=
  { newGroup 0 2 0 1 1 strayProg 3 (.call 2 3 0 []) none 0 1 with state := .running, block := 8, vregs := [(0, Vector.replicate 32 1)] }

def strayRef : GroupRef := ⟨0, 0⟩

/-- A block in service, in which the group runs and its block is among the saved ones: no core holds the local store. -/
def stray : State :=
  ({ State.reset with
    pins := { Pins.reset with inReset := false }
    boot := { Boot.reset with state := stReady }
    parts := State.reset.parts.set 0 { Part.reset with mmuEnable := .both true }
    mmu := { tlb := [⟨0, 0, 2 ^ 40, 0, true, true, 4⟩], badPtes := [], faults := [] }
    setter := { State.reset.setter with savedBlocks := [(0, ⟨8, 8, 0, 1, 0, 1024, 1, strayProg, [0], []⟩)] } } : State).setGroup strayRef (some strayGroup)

def strayEnv : Env := ⟨9, [], [], [], 0, .ok, .clean⟩

theorem stray_fetches : (stray.at 9).fetches strayRef strayGroup :=
  ⟨by decide +kernel, 0x5040, by decide +kernel⟩

/-- The store's address lies in the group's local store. -/
theorem stray_cells : ((stray.at 9).seen .ok).cells strayGroup .loc .write 4 (.imm 8) = .ok [(0, .loc 8 8)] := by decide +kernel

/-- The store changes the blocks on the cores only (R302), and the byte it names stays 0. -/
theorem stray_lost : (((stray.at 9).seen .ok).storeCell strayRef strayGroup (.loc 8 8) 4 (strayGroup.storeVal 0 4 0)).locNum 8 8 4 = 0 := by decide +kernel

theorem strayGroup_storeVal : strayGroup.storeVal 0 4 0 = 1 := by decide +kernel

theorem stray_wf : ∀ b ∈ stray.blocksAll, b.store.wf = true := by decide +kernel

/-- Refutes O49: a STORE to local store whose block is saved leaves nothing there. The statement asks for the stored value in every state whose
local stores are well formed; it names no core that holds the block. -/
theorem not_groupsAccessMemory : ¬ Obligations.GroupsAccessMemory := by
  intro h
  obtain ⟨-, hstore, -⟩ := h strayRef strayGroup .loc (.imm 8) .ok strayEnv stray stray_fetches
  obtain ⟨-, -, hruns⟩ := hstore .w32 0
  obtain ⟨-, hlegal⟩ := hruns nofun rfl
  obtain ⟨-, -, -, -, hdone⟩ := hlegal (by decide)
  obtain ⟨-, -, -, -, hlocal⟩ := hdone _ stray_cells
  obtain ⟨-, hlast⟩ := hlocal stray_wf
  have hval := hlast (0, .loc 8 8) List.mem_cons_self 8 8 rfl (fun d hd hlt => by
    rw [List.mem_singleton.1 hd] at hlt
    exact absurd hlt (lt_irrefl _))
  exact absurd (stray_lost.symm.trans (hval.trans strayGroup_storeVal)) (by decide)

end Sys2Proof.Machine
end

section
/-!
What DEADLINE service leaves alone (R300, R343): no deadline or re-projection changes, and every interrupt message stays.
-/

namespace Sys2Proof.Machine
open Sys2Proof

/-! ## What a partition's deadline and re-projection go by -/

/-- A partition's deadline, its re-projection, and the settings of their interrupts (R342, R346, R347, R358, R359). -/
structure DlView where
  deadline   : Deadline
  reproj     : Option (Desc × List W32 × List (Nat × W16))
  denied     : Bool
  reprojIrq  : Bool
  fireIrq    : Bool
  vec        : BitVec 4
  refFrame   : Option Desc
  refSummary : List (Nat × W16)

def Part.dlView (x : Part) : DlView :=
  ⟨x.deadline, x.reproj, x.reprojDenied, x.reprojIrq, x.fireIrq, x.dlVec, x.refFrame, x.refSummary⟩

/-- `t` comes after `s` with every deadline as it was and every interrupt message still there. -/
structure State.dlKept (s t : State) : Prop where
  view : ∀ p, (t.part p).dlView = (s.part p).dlView
  irqs : s.pins.irqs <+: t.pins.irqs

namespace State.dlKept

theorem refl (s : State) : s.dlKept s := ⟨fun _ => rfl, List.prefix_rfl⟩

theorem trans {s t u : State} (h : s.dlKept t) (h' : t.dlKept u) : s.dlKept u :=
  ⟨fun p => (h'.view p).trans (h.view p), h.irqs.trans h'.irqs⟩

theorem of_eq {s t : State} (hp : t.parts = s.parts) (hi : t.pins.irqs = s.pins.irqs) : s.dlKept t :=
  ⟨fun p => congrArg Part.dlView (State.part_congr hp p), hi ▸ List.prefix_rfl⟩

/-- Steps that change neither a partition nor the interrupts. -/
theorem of_blank {s t : State} (h : blank 0xFFFFFFFBFFF7#48 t = blank 0xFFFFFFFBFFF7#48 s) : s.dlKept t :=
  of_eq (same_of_blank h .parts (by decide)) (same_of_blank h .irqs (by decide))

theorem doIf {s : State} {b : Bool} {f : State → State} (h : ∀ t : State, t.dlKept (f t)) : s.dlKept (s.doIf b f) := by
  unfold State.doIf
  split
  · exact h s
  · exact refl s

theorem foldl {α : Type} {f : State → α → State} (h : ∀ (t : State) a, t.dlKept (f t a)) (l : List α) (s : State) : s.dlKept (l.foldl f s) := by
  induction l generalizing s with
  | nil => exact refl s
  | cons a r ih => exact (h s a).trans (ih (f s a))

end State.dlKept

/-! ## Partitions, interrupts and errors -/

section
variable (s : State) (p : PartId)

theorem State.setPart_dlKept {x : Part} (h : x.dlView = (s.part p).dlView) : s.dlKept (s.setPart p x) := by
  refine ⟨fun q => ?_, List.prefix_rfl⟩
  by_cases hq : p = q
  · subst hq
    rw [State.part_setPart, h]
  · rw [State.part_setPart_ne _ _ hq]

theorem State.updPart_dlKept {f : Part → Part} (h : ∀ x, (f x).dlView = x.dlView) : s.dlKept (s.updPart p f) := s.setPart_dlKept p (h _)

/-- Every partition changed alike. -/
theorem State.mapParts_dlKept {t : State} {f : Part → Part} (h : ∀ x, (f x).dlView = x.dlView) (hp : t.parts = s.parts.map f)
    (hi : t.pins.irqs = s.pins.irqs) : s.dlKept t := by
  refine ⟨fun q => ?_, hi ▸ List.prefix_rfl⟩
  simp only [State.part, hp, Fin.getElem_fin, Vector.getElem_map, h]

theorem State.irqPart_dlKept (v : BitVec 4) : s.dlKept (s.irqPart p v) := ⟨fun _ => rfl, List.prefix_append ..⟩

theorem State.irqBlock_dlKept (v : BitVec 4) : s.dlKept (s.irqBlock v) := ⟨fun _ => rfl, List.prefix_append ..⟩

theorem State.errContained_dlKept (src index item : Nat) : s.dlKept (s.errContained p src index item) := by
  unfold State.errContained
  extract_lets _ s1 s2
  have h1 : s.dlKept s1 := .of_eq rfl rfl
  have h2 : s1.dlKept s2 := s1.updPart_dlKept p (by intro x; rfl)
  exact (h1.trans h2).trans ((State.dlKept.of_blank (s2.offerLog_frame _ _ (by decide))).trans (.doIf fun t => t.irqBlock_dlKept 7))

theorem State.errPartition_dlKept (reason : BitVec 2) : s.dlKept (s.errPartition p reason) := by
  unfold State.errPartition
  extract_lets s1 _ s2 s3
  have h1 : s.dlKept s1 := s.updPart_dlKept p (by intro x; rfl)
  have h2 : s1.dlKept s2 := .of_eq rfl rfl
  have h3 : s2.dlKept s3 := (State.dlKept.of_blank (s2.offerLog_frame _ _ (by decide))).trans (.doIf fun t => t.irqBlock_dlKept 7)
  exact ((h1.trans h2).trans h3).trans (s3.irqPart_dlKept p _)

end

/-! ## The fault queue, the trace and faults (R407, R444 to R446) -/

section
variable (s : State) (p : PartId)

theorem State.vwrite_dlKept {s u : State} {p : PartId} {va : Nat} {bs : List Byte} (h : s.vwrite p va bs = .ok u) : s.dlKept u :=
  .of_blank (State.vwrite_frame h _ (by decide))

theorem State.trapWritten_dlKept : s.dlKept (s.trapWritten p) :=
  (s.updPart_dlKept p (by intro x; rfl)).trans (.doIf fun t => t.irqPart_dlKept p _)

theorem State.fqOne_dlKept {s u : State} {p : PartId} {r : Slot64} (h : s.fqOne p r = some u) : s.dlKept u := by
  simp only [State.fqOne] at h
  split at h
  · exact absurd h nofun
  · split at h
    · exact absurd h nofun
    · rename_i v hv
      rw [← Option.some.inj h]
      exact (State.vwrite_dlKept hv).trans ((v.updPart_dlKept p (by intro x; rfl)).trans
        ((State.irqPart_dlKept _ p _).trans (.doIf fun t => t.trapWritten_dlKept p)))

theorem State.fqPush_dlKept (l : List Slot64) : s.dlKept (s.fqPush p l) := by
  induction l generalizing s with
  | nil => exact s.updPart_dlKept p (by intro x; rfl)
  | cons r rest ih =>
    simp only [State.fqPush]
    split
    · rename_i u hu
      exact (State.fqOne_dlKept hu).trans (ih u)
    · exact (s.updPart_dlKept p (by intro x; rfl)).trans (.doIf fun t => t.irqPart_dlKept p _)

theorem State.fqRetry_dlKept : s.dlKept (s.fqRetry p) := by
  unfold State.fqRetry
  split
  · exact .refl s
  · exact s.fqPush_dlKept p _

theorem State.fqPost_dlKept (notice : Bool) (r : Slot64) : s.dlKept (s.fqPost p notice r) := by
  unfold State.fqPost
  extract_lets x s1
  have h1 : s.dlKept s1 := s.updPart_dlKept p (by intro x; rfl)
  split
  · exact .refl s
  split
  · exact s.updPart_dlKept p (by intro x; rfl)
  split
  · exact h1
  · exact h1.trans (s1.fqRetry_dlKept p)

theorem State.notice_dlKept (x : Xfault) (c : FaultCtx) : s.dlKept (s.notice p x c) := s.fqPost_dlKept p true _

theorem State.record_dlKept (r : TraceRec) : s.dlKept (s.record r) := by
  simp only [State.record]
  split
  · exact .refl s
  split
  · exact .of_eq rfl rfl
  split
  · exact .of_eq rfl rfl
  split
  · rename_i u hu
    exact (State.vwrite_dlKept hu).trans (.of_eq rfl rfl)
  · refine .trans ?_ (State.notice_dlKept ..)
    exact .of_eq rfl rfl

theorem State.fire_dlKept (tm : Timer) (t : Nat) : s.dlKept (s.fire tm t) := by
  have h : s.dlKept (s.timerTake tm t) := .of_blank (s.timerTake_frame tm t _ (by decide))
  exact h.trans ((s.timerTake tm t).record_dlKept _)

theorem State.openFault_dlKept (env : Env) (kind : Nat) (x : Xfault) (owner : ChipId) (c : FaultCtx) (w : Parked) :
    s.dlKept (s.openFault env p kind x owner c w) := by
  unfold State.openFault
  extract_lets id f _ s1 s2
  have h1 : s.dlKept s1 := .of_eq rfl rfl
  have h2 : s1.dlKept s2 := s1.updPart_dlKept p (by intro x; rfl)
  exact (h1.trans h2).trans (s2.fqPost_dlKept p false _)

theorem State.fault_dlKept (env : Env) (kind : Nat) (x : Xfault) (owner : ChipId) (c : FaultCtx) (w : Parked) :
    s.dlKept (s.fault env p kind x owner c w) := by
  unfold State.fault
  extract_lets s1 _ s2
  have h1 : s.dlKept s1 := (State.dlKept.of_blank (s.park_frame w _ (by decide))).trans (State.record_dlKept _ _)
  have h2 : s1.dlKept s2 := .of_eq rfl rfl
  split
  · exact (h1.trans h2).trans (s2.updPart_dlKept p (by intro x; rfl))
  split
  · exact h1.trans (s1.updPart_dlKept p (by intro x; rfl))
  · exact h1.trans (s1.openFault_dlKept p env kind x owner c w)

theorem State.unpark_dlKept (f : Parked → Bool) : s.dlKept (s.unpark f) := s.mapParts_dlKept (by intro x; rfl) rfl rfl

theorem State.renameParked_dlKept (a b : Parked) : s.dlKept (s.renameParked a b) := s.mapParts_dlKept (by intro x; rfl) rfl rfl

end

/-! ## Entry into PARTITION_ERROR (R384, R457) -/

section
variable (s : State)

theorem State.traceUnpin_dlKept (t : State) : t.dlKept (s.traceUnpin t) :=
  .foldl (fun _ _ => .doIf fun v => v.record_dlKept _) _ _

theorem State.dropForeign_dlKept (f : Foreign) : s.dlKept (s.dropForeign f) := by
  unfold State.dropForeign
  extract_lets s1 slots s2 s3 _ _ _ _ s4
  have h1 : s.dlKept s1 := .of_blank (s.herdDrop_frame _ _ (by decide))
  have h2 : s1.dlKept s2 := (State.dlKept.of_blank (s1.kFreeAll_frame slots _ (by decide))).trans (.of_eq rfl rfl)
  have h4 : s2.dlKept s4 := .of_eq rfl rfl
  have h5 : s4.dlKept _ := .of_blank ((s4.mapGroups (Group.forget f.slot)).owe_frame f.link ⟨f.slots, 0, 0, 0, 0⟩ _ (by decide))
  exact ((h1.trans h2).trans (h4.trans h5)).trans ((State.dlKept.of_blank (State.drainCheck_frame _ f.link _ (by decide))).trans (s.traceUnpin_dlKept _))

theorem State.failForeign_dlKept (f : Foreign) (result va : Nat) : s.dlKept (s.failForeign f result va) :=
  (State.dlKept.of_blank (s.sendResult_frame f _ _ (by decide))).trans (State.dropForeign_dlKept _ f)

theorem State.partitionError_dlKept (p : PartId) (reason : BitVec 2) : s.dlKept (s.partitionError p reason) :=
  (s.errPartition_dlKept p reason).trans (.doIf fun _ => .foldl (fun u f => u.failForeign_dlKept f 3 0) _ _)

end

/-! ## The end of a group (R259, R284, R304, R326) -/

section
variable (s : State)

theorem State.fpInvalids_dlKept (p : PartId) (l : List FpInv) : s.dlKept (s.fpInvalids p l) := by
  unfold State.fpInvalids
  split
  · exact .refl s
  · extract_lets x
    exact (s.setPart_dlKept p (by rfl)).trans (.doIf fun t => t.irqPart_dlKept p _)

theorem State.fpOverflows_dlKept (p : PartId) (n : Nat) : s.dlKept (s.fpOverflows p n) := by
  unfold State.fpOverflows
  split
  · exact .refl s
  · extract_lets x
    exact (s.setPart_dlKept p (by rfl)).trans (.doIf fun t => t.irqPart_dlKept p _)

theorem State.flushInvs_dlKept (p : PartId) : s.dlKept (s.flushInvs p) := by
  unfold State.flushInvs
  refine .trans ?_ (State.fpInvalids_dlKept _ p s.herd.invs)
  exact .of_eq rfl rfl

theorem State.putTile_dlKept (u : Fin 64) (k : Fin 4) (p : PartId) (w : TileOut) : s.dlKept (s.putTile u k p w) :=
  (State.dlKept.of_blank (s.setTile_frame u k _ _ (by decide))).trans ((State.fpInvalids_dlKept _ p _).trans (State.fpOverflows_dlKept _ p _))

theorem State.fragNow_dlKept (u : Fin 64) (k : Fin 4) (cmd : Option CmdRef) (serial pos : Nat) (block : Fin 8) (rs : List (Nat × List W32)) :
    s.dlKept (s.fragNow u k cmd serial pos block rs) := by
  unfold State.fragNow
  split
  · exact .refl s
  · exact s.putTile_dlKept u k _ _

theorem State.fragDone_dlKept (u : Fin 64) (k : Fin 4) (cmd : Option CmdRef) (serial pos : Nat) (block : Fin 8)
    (rs : Option (List (Nat × List W32))) : s.dlKept (s.fragDone u k cmd serial pos block rs) := by
  unfold State.fragDone
  split
  · exact .refl s
  · exact s.putTile_dlKept u k _ _

theorem State.reportGroup_dlKept (x : Group) : s.dlKept (s.reportGroup x) := by
  unfold State.reportGroup
  extract_lets s1
  have h1 : s.dlKept s1 := (State.dlKept.of_blank (s.pushInvs_frame x.invs _ (by decide))).trans (State.fpOverflows_dlKept _ x.part x.ovfs)
  split
  · exact h1.trans (.doIf fun t => .of_blank (t.markFrag_frame _ _ _ _ _ (by decide)))
  · exact h1

/-- A group's stores become visible and its scorer instruction is given up. -/
theorem State.released_dlKept (x : Group) : s.dlKept (((s.reportGroup x).loosen x.block x.inBlock).dropScorer x) :=
  (s.reportGroup_dlKept x).trans ((State.dlKept.of_blank (State.loosen_frame _ _ _ _ (by decide))).trans
    (.of_blank (State.dropScorer_frame _ x _ (by decide))))

theorem State.leaveSlot_dlKept (g : GroupRef) (x : Group) : s.dlKept (s.leaveSlot g x) := by
  unfold State.leaveSlot
  extract_lets s0 s1 co s2
  have h0 : s.dlKept s0 := s.released_dlKept x
  have h1 : s0.dlKept s1 := ((State.dlKept.of_blank (s0.dropWrites_frame g _ (by decide))).trans (State.unpark_dlKept _ _)).trans
    (.of_blank (State.setGroup_frame _ g none _ (by decide)))
  have h2 : s1.dlKept s2 := by
    unfold s2
    split
    · exact .refl s1
    · exact .of_eq rfl rfl
  have h3 : s2.dlKept ((s2.blockEnded x.block).barriers x.block) :=
    (State.dlKept.of_blank (s2.blockEnded_frame x.block _ (by decide))).trans (.of_blank (State.barriers_frame _ x.block _ (by decide)))
  exact ((h0.trans h1).trans (h2.trans h3)).trans (.doIf fun t => t.flushInvs_dlKept x.part)

theorem State.giveResults_dlKept (x : Group) : s.dlKept (s.giveResults x) := by
  unfold State.giveResults
  split
  · refine .foldl (fun t l => ?_) _ _
    split
    · exact .of_blank (t.laneVerdict_frame _ _ _ _ (by decide))
    · exact .refl t
  · exact .of_blank (s.reply_frame _ _ _ _ _ (by decide))
  · exact s.fragDone_dlKept ..

theorem State.failResults_dlKept (x : Group) (code : Nat) : s.dlKept (s.failResults x code) := by
  unfold State.failResults
  split
  · refine .foldl (fun t i => ?_) _ _
    split
    · split
      · exact .of_blank (t.endRay_frame _ _ _ (by decide))
      · exact .refl t
    · exact .refl t
  · exact .of_blank (s.reply_frame _ _ _ _ _ (by decide))
  · exact s.fragDone_dlKept ..

theorem State.finishGroup_dlKept (g : GroupRef) (x : Group) : s.dlKept (s.finishGroup g x) :=
  ((s.leaveSlot_dlKept g x).trans (State.giveResults_dlKept _ x)).trans (State.flushInvs_dlKept _ x.part)

theorem State.acceptSome_dlKept (x : Group) : s.dlKept (s.acceptSome x) := by
  unfold State.acceptSome
  split
  · exact s.fragNow_dlKept ..
  · exact .refl s

theorem State.acceptMore_dlKept (n : Nat) : s.dlKept (s.acceptMore n) := by
  induction n generalizing s with
  | zero => exact .refl s
  | succ n ih =>
    simp only [State.acceptMore]
    split
    · refine .trans ?_ (ih _)
      split
      · exact s.finishGroup_dlKept ..
      · exact s.acceptSome_dlKept _
    · exact .refl s

theorem State.containGroup_dlKept (g : GroupRef) (x : Group) : s.dlKept (s.containGroup g x) := by
  have h : s.dlKept (s.lostGroup 8 g x) := (((s.errContained_dlKept ..).trans (State.leaveSlot_dlKept _ g x)).trans
    (State.failResults_dlKept _ x 0x17)).trans (State.flushInvs_dlKept _ x.part)
  exact h.trans ((State.dlKept.of_blank (State.coreUncorr_frame _ g.core _ (by decide))).trans (State.acceptMore_dlKept _ 4096))

theorem State.wrapUp_dlKept (g : GroupRef) (x : Group) : s.dlKept (s.wrapUp g x) := by
  unfold State.wrapUp
  extract_lets stay
  have hstay : ∀ w, s.dlKept (stay w) := fun w => (State.dlKept.of_blank (s.setGroup_frame g _ _ (by decide))).trans
    (.of_blank (State.barriers_frame _ x.block _ (by decide)))
  split
  · exact hstay .ending
  split
  · exact (hstay .accept).trans (State.acceptMore_dlKept _ 4096)
  · exact (s.finishGroup_dlKept g x).trans (State.acceptMore_dlKept _ 4096)

theorem State.groupAck_dlKept (g : GroupRef) : s.dlKept (s.groupAck g) := by
  have hput : ∀ y, s.dlKept (s.put g y) := fun y => .of_blank (s.setGroup_frame g (some y) _ (by decide))
  unfold State.groupAck
  split
  · exact .refl s
  · rename_i x _
    extract_lets y
    split
    · exact hput y
    split
    · exact (hput y).trans (State.wrapUp_dlKept _ g y)
    · refine .trans ?_ (.doIf fun t => .of_blank (t.rayHalt_frame _ true _ (by decide)))
      refine .trans ((hput y.wake).trans (.of_blank (State.loosen_frame _ x.block x.inBlock _ (by decide)))) ?_
      exact .of_eq rfl rfl
    · exact hput y

end

/-! ## Saving groups (R300 to R302, R456) -/

section
variable (s : State) (env : Env)

theorem State.settle_dlKept (g : GroupRef) : s.dlKept (s.settle g) := by
  unfold State.settle
  split
  · split
    · exact .refl s
    · refine .trans ?_ (State.groupAck_dlKept _ g)
      exact (State.dlKept.of_blank (s.mapPend_frame _ _ (by decide))).trans ((State.dlKept.of_blank (State.dropWrites_frame _ g _ (by decide))).trans
        (.of_blank (State.setGroup_frame _ g _ _ (by decide))))
  · exact .refl s

theorem State.lateFault_dlKept (g : GroupRef) : s.dlKept (s.lateFault env g) := by
  unfold State.lateFault
  split
  · split
    · exact s.fault_dlKept ..
    · exact .refl s
  · exact .refl s

theorem State.containBad_dlKept (l : List GroupRef) : s.dlKept (s.containBad env l) := by
  refine .trans (.foldl (fun t _ => .of_blank (t.errCorrected_frame _ (by decide))) _ s) (.foldl (fun t g => ?_) _ _)
  split
  · exact t.containGroup_dlKept g _
  · exact .refl t

theorem State.saveFault_dlKept (p : PartId) (ctx : FaultCtx) (x : Xfault) (g : GroupRef) (reason : BitVec 2) :
    s.dlKept (s.saveFault env p ctx x g reason) :=
  .trans (.doIf fun t => (t.openFault_dlKept ..).trans (State.unpark_dlKept _ _)) (State.partitionError_dlKept _ p reason)

theorem State.saveGroup_dlKept (g : GroupRef) : s.dlKept (s.saveGroup env g) := by
  unfold State.saveGroup
  split
  · exact .refl s
  split
  · exact .refl s
  split
  · exact (s.released_dlKept _).trans (((State.dlKept.of_blank (State.setGroup_frame _ g none _ (by decide))).trans
      (.of_blank (State.dropWrites_frame _ g _ (by decide)))).trans (State.saveFault_dlKept ..))
  · rename_i u hu
    have h : s.dlKept (u.setGroup g none) :=
      (State.dlKept.of_blank (State.vwriteAll_frame hu _ (by decide))).trans (.of_blank (u.setGroup_frame g none _ (by decide)))
    exact h.trans ((State.renameParked_dlKept _ _ _).trans (.of_eq rfl rfl))

theorem State.saveBlocks_dlKept (p : PartId) (set : Nat) (c : CoreId) : s.dlKept (s.saveBlocks env p set c) := by
  unfold State.saveBlocks
  extract_lets co bs s1 _ s2
  have h2 : s.dlKept s2 := .of_eq rfl rfl
  split
  · exact .refl s
  split
  · rename_i u hu
    exact h2.trans (.of_blank (State.vwriteAll_frame hu _ (by decide)))
  · refine .trans (h2.trans ?_) (State.saveFault_dlKept ..)
    exact .of_eq rfl rfl

theorem State.saveSet_dlKept (p : PartId) (set : Nat) : s.dlKept (s.saveSet env p set) := by
  unfold State.saveSet
  extract_lets s0 s1 s2
  have h0 : s.dlKept s0 := .foldl (fun t g => (t.lateFault_dlKept env g).trans (State.settle_dlKept _ g)) _ _
  have h1 : s0.dlKept s1 := s0.containBad_dlKept env _
  have h2 : s1.dlKept s2 := .foldl (fun t g => t.saveGroup_dlKept env g) _ _
  exact (h0.trans h1).trans (h2.trans (.foldl (fun t c => t.saveBlocks_dlKept env p set c) _ _))

theorem State.makeRoom_dlKept (p : PartId) (l : List (CoreId × Waiting)) (n : Nat) : s.dlKept (s.makeRoom env p l n) := by
  induction n generalizing s with
  | zero => exact .refl s
  | succ n ih =>
    simp only [State.makeRoom]
    split
    · exact .refl s
    split
    · exact .refl s
    · rename_i set _
      exact (s.saveSet_dlKept env p set).trans (.trans (.foldl (fun t _ => t.record_dlKept _) _ _) (ih _))

theorem State.preemptPart_dlKept (p : PartId) : s.dlKept (s.preemptPart env p) := by
  unfold State.preemptPart
  split
  · exact .foldl (fun t k => t.makeRoom_dlKept env p _ 64) _ _
  · exact .refl s

/-! ## DEADLINE service (R343) -/

theorem State.yieldTu_dlKept (p : PartId) (n : TuId) : s.dlKept (s.yieldTu p n) := by
  unfold State.yieldTu
  extract_lets t out _ s1
  have h1 : s.dlKept s1 := .of_eq rfl rfl
  refine h1.trans (.trans (.foldl (fun u k => ?_) _ _) (.of_blank (State.handBacks_frame _ _ (by decide))))
  exact (u.record_dlKept _).trans (.of_blank (State.unpack_frame _ k _ (by decide)))

theorem State.yieldTus_dlKept (p : PartId) (l : List TuId) : s.dlKept (l.foldl (fun s n => s.yieldTu p n) s) := .foldl (fun t n => t.yieldTu_dlKept p n) l s

theorem State.armPacks_dlKept (p : PartId) (l : List MatchEntry) : s.dlKept (l.foldl (fun s e => s.armPack p e.line) s) :=
  .foldl (fun t e => .of_blank (t.armPack_frame p e.line _ (by decide))) l s

theorem State.beginService_dlKept (p : PartId) : s.dlKept (s.beginService env p) := by
  unfold State.beginService
  extract_lets s2 s3
  exact (s.yieldTus_dlKept p (List.finRange 128)).trans ((s2.armPacks_dlKept p _).trans (s3.preemptPart_dlKept env p))

end

end Sys2Proof.Machine
end

section
/-!
Deadlines and late re-projection (R342, R343, R346 to R348, R511): PREEMPTION_TIMER, DECISION_TIMER and REPROJECTION_PRESENT.
-/

namespace Sys2Proof.Machine
open Sys2Proof

/-! ## What the steps before keep -/

section
variable {s t : State} (h : s.dlKept t) (p : PartId)
include h

theorem State.dlKept.deadline : (t.part p).deadline = (s.part p).deadline := congrArg DlView.deadline (h.view p)
theorem State.dlKept.reproj : (t.part p).reproj = (s.part p).reproj := congrArg DlView.reproj (h.view p)
theorem State.dlKept.denied : (t.part p).reprojDenied = (s.part p).reprojDenied := congrArg DlView.denied (h.view p)
theorem State.dlKept.reprojIrq : (t.part p).reprojIrq = (s.part p).reprojIrq := congrArg DlView.reprojIrq (h.view p)
theorem State.dlKept.fireIrq : (t.part p).fireIrq = (s.part p).fireIrq := congrArg DlView.fireIrq (h.view p)
theorem State.dlKept.vec : (t.part p).dlVec = (s.part p).dlVec := congrArg DlView.vec (h.view p)
theorem State.dlKept.refFrame : (t.part p).refFrame = (s.part p).refFrame := congrArg DlView.refFrame (h.view p)
theorem State.dlKept.refSummary : (t.part p).refSummary = (s.part p).refSummary := congrArg DlView.refSummary (h.view p)

end

section
variable (s : State) (p : PartId)

/-- What is in service is set apart from what a timer that acts changes. -/
theorem State.fire_servedTus (tm : Timer) (t : Nat) : (s.fire tm t).servedTus p = s.servedTus p := by
  have h := congrArg (State.servedTus · p) (s.fire_blank tm t)
  exact h

theorem State.fire_presents (tm : Timer) (t : Nat) : (s.fire tm t).pins.presents = s.pins.presents :=
  Comp.same_presents (s.fire_frame tm t _ (by decide))

theorem State.irqIf_part (b : Bool) (v : BitVec 4) (q : PartId) : (s.doIf b (·.irqPart p v)).part q = s.part q := s.doIf_part b _ q fun _ => rfl

theorem State.irqIf_mem (b : Bool) (v : BitVec 4) : (s.doIf b (·.irqPart p v)).mem = s.mem := State.doIf_keeps State.mem s b _ fun _ => rfl

theorem State.irqIf_presents (b : Bool) (v : BitVec 4) : (s.doIf b (·.irqPart p v)).pins.presents = s.pins.presents :=
  State.doIf_keeps (·.pins.presents) s b _ fun _ => rfl

theorem State.mem_irqIf {b : Bool} (hb : b = true) (v : BitVec 4) : (⟨false, p, v⟩ : Irq) ∈ (s.doIf b (·.irqPart p v)).pins.irqs := by
  rw [hb]
  exact List.mem_append_right _ (List.mem_singleton.mpr rfl)

/-! ## A deadline that fires (R342) -/

theorem State.setDl_part (st : BitVec 3) : (s.setDl p st).part p = { s.part p with deadline := { (s.part p).deadline with state := st } } :=
  s.part_updPart p _

theorem State.setFiring_part : (s.setFiring p).part p = { s.part p with deadline := { (s.part p).deadline with state := dlFiring } } :=
  (State.irqIf_part _ p _ _ p).trans (s.setDl_part p dlFiring)

theorem State.enterFiring_dlKept (env : Env) : (s.setFiring p).dlKept (s.enterFiring env p) := (s.setFiring p).beginService_dlKept env p

theorem State.enterFiring_deadline (env : Env) :
    ((s.enterFiring env p).part p).deadline = { (s.part p).deadline with state := dlFiring } := by
  rw [(s.enterFiring_dlKept p env).deadline p, s.setFiring_part p]

theorem State.enterFiring_irq (env : Env) (h : (s.part p).fireIrq = true) :
    ⟨false, p, (s.part p).dlVec⟩ ∈ (s.enterFiring env p).pins.irqs :=
  (s.enterFiring_dlKept p env).irqs.subset (State.mem_irqIf _ p h _)

/-! ## A re-projection that is denied (R346, R358) -/

/-- `u` is reached from `s` by denying the re-projection of `p`. -/
structure State.ReprojDenied (s u : State) (p : PartId) : Prop where
  firing : (u.part p).deadline.state = dlFiring
  flag : (u.part p).reprojDenied = true
  gone : (u.part p).reproj = none
  presents : u.pins.presents = s.pins.presents
  irq : (s.part p).reprojIrq = true → ⟨false, p, (s.part p).dlVec⟩ ∈ u.pins.irqs

variable {s p}

/-- Steps before the denial that keep what it goes by. -/
theorem State.ReprojDenied.after {t u : State} (h : t.ReprojDenied u p) (hk : s.dlKept t) (hp : t.pins.presents = s.pins.presents) :
    s.ReprojDenied u p :=
  ⟨h.firing, h.flag, h.gone, h.presents.trans hp, fun hi => hk.vec p ▸ h.irq ((hk.reprojIrq p).trans hi)⟩

theorem State.denyReproj_denied (h : (s.part p).deadline.state = dlReproj ∨ (s.part p).deadline.state = dlFiring) :
    s.ReprojDenied (s.denyReproj p) p := by
  unfold State.denyReproj
  extract_lets s1
  have hst : (s1.part p).deadline.state = dlFiring := by
    rcases h with h | h
    · simp only [s1, h, decide_true, State.doIf, if_true, State.setFiring_part]
    · simp only [s1, h, State.doIf, show decide (dlFiring = dlReproj) = false from rfl, Bool.false_eq_true, if_false]
  have hpres : s1.pins.presents = s.pins.presents :=
    State.doIf_keeps (·.pins.presents) s _ _ fun x => Comp.same_presents (x.setFiring_frame p _ (by decide))
  have hpart := (State.irqIf_part (s1.updPart p (fun x => { x with reprojDenied := true, reproj := none })) p (s.part p).reprojIrq
    (s.part p).dlVec p).trans (s1.part_updPart p _)
  exact ⟨by rw [hpart]; exact hst, by rw [hpart], by rw [hpart], (State.irqIf_presents ..).trans hpres, fun hi => State.mem_irqIf _ p hi _⟩

/-- A decision that denies: an armed deadline fires first. -/
theorem State.decided_denied {armed : Bool} {env : Env} (ha : armed = decide ((s.part p).deadline.state = dlArmed))
    (h : (s.part p).deadline.state = dlArmed ∨ (s.part p).deadline.state = dlFiring) :
    s.ReprojDenied ((s.doIf armed (·.enterFiring env p)).denyReproj p) p := by
  subst ha
  rcases h with h | h
  · simp only [h, decide_true, State.doIf, if_true]
    have hd := State.denyReproj_denied (s := s.enterFiring env p) (p := p) (.inr (by rw [State.enterFiring_deadline]))
    have hk := s.enterFiring_dlKept p env
    have hp : (s.enterFiring env p).pins.presents = s.pins.presents := Comp.same_presents (s.enterFiring_frame env p _ (by decide))
    refine ⟨hd.firing, hd.flag, hd.gone, hd.presents.trans hp, fun hi => ?_⟩
    have hv := hk.vec p
    have hr := hk.reprojIrq p
    rw [State.setFiring_part] at hv hr
    exact hv ▸ hd.irq (hr.trans hi)
  · simp only [h, State.doIf, show decide (dlFiring = dlArmed) = false from rfl, Bool.false_eq_true, if_false]
    exact State.denyReproj_denied (.inr h)

end

/-! ## The decision (R346, R348) -/

section
variable {s : State} {p : PartId} {env : Env} {check : Check} {d : Desc}
  (h : (s.part p).deadline.state = dlArmed ∨ (s.part p).deadline.state = dlFiring)
include h

/-- A denial behind steps that keep what the decision goes by. -/
theorem State.decided_denied_after {t : State} (hk : s.dlKept t) (hp : t.pins.presents = s.pins.presents) :
    s.ReprojDenied ((t.doIf (decide ((s.part p).deadline.state = dlArmed)) (·.enterFiring env p)).denyReproj p) p :=
  (State.decided_denied (by rw [hk.deadline p]) (by rw [hk.deadline p]; exact h)).after hk hp

theorem State.decideReproj_noFrame (hf : s.reprojFrame p = none) : s.ReprojDenied (s.decideReproj env p check) p := by
  simp only [State.decideReproj, hf]
  exact State.decided_denied rfl h

theorem State.decideReproj_lost : s.ReprojDenied (s.decideReproj env p .failed) p := by
  cases hf : s.reprojFrame p with
  | none => exact State.decideReproj_noFrame h hf
  | some d =>
    simp only [State.decideReproj, hf, if_true]
    exact State.decided_denied_after h (s.errContained_dlKept ..) (Comp.same_presents (s.errContained_frame _ _ _ _ _ (by decide)))

end

/-- A summary word that is read leaves what the decision goes by. -/
theorem State.corrected_dlKept (s : State) (b : Bool) : s.dlKept (s.doIf b State.errCorrected) :=
  .doIf fun t => .of_blank (t.errCorrected_frame _ (by decide))

section
variable {s : State} {p : PartId} {env : Env} {check : Check} {d : Desc}

theorem State.decideReproj_bad {x : Xfault} (h : (s.part p).deadline.state = dlArmed ∨ (s.part p).deadline.state = dlFiring)
    (hf : s.reprojFrame p = some d) (hc : check ≠ .failed)
    (hx : (s.doIf (decide (check = .corrected)) State.errCorrected).vnum p d.reprojM 64 = .bad x) :
    s.ReprojDenied (s.decideReproj env p check) p := by
  simp only [State.decideReproj, hf, hc, if_false, hx]
  refine State.decided_denied_after h ((s.corrected_dlKept _).trans (State.notice_dlKept ..)) ?_
  exact (Comp.same_presents (State.notice_frame _ _ _ _ _ (by decide))).trans
    (State.doIf_keeps (·.pins.presents) s _ _ fun y => Comp.same_presents (y.errCorrected_frame _ (by decide)))

/-- The state in which a re-projection has begun. -/
theorem State.decideReproj_begins {mv : Nat} (hf : s.reprojFrame p = some d) (hc : check ≠ .failed)
    (hx : (s.doIf (decide (check = .corrected)) State.errCorrected).vnum p d.reprojM 64 = .ok mv) :
    ((s.decideReproj env p check).part p).deadline.state = dlReproj
      ∧ ((s.decideReproj env p check).part p).reproj = some (d, (List.range 16).map (fun i => recW mv (4 * i)), (s.part p).refSummary)
      ∧ ((s.decideReproj env p check).part p).reprojDenied = (s.part p).reprojDenied := by
  simp only [State.decideReproj, hf, hc, if_false, hx]
  have hk : State.dlKept _ (State.doIf _ (decide ((s.part p).deadline.state = dlArmed)) (·.beginService env p)) :=
    .doIf (s := ((s.doIf (decide (check = .corrected)) State.errCorrected).setDl p dlReproj).updPart p
      (fun y => { y with reproj := some (d, (List.range 16).map (fun i => recW mv (4 * i)), (s.part p).refSummary) }))
      fun t => t.beginService_dlKept env p
  rw [hk.deadline p, hk.reproj p, hk.denied p]
  simp only [State.part_updPart, State.setDl_part]
  exact ⟨trivial, trivial, (s.corrected_dlKept _).denied p⟩

end

/-! ## The re-projected frame (R348, R350) -/

section
variable {s : State} {p : PartId} {d : Desc} {m : List W32} {sum : List (Nat × W16)}

/-- An access that faults leaves a notice and denies the re-projection. -/
theorem State.noticed_denied (h : (s.part p).deadline.state = dlReproj) (x : Xfault) (c : FaultCtx) :
    s.ReprojDenied ((s.notice p x c).denyReproj p) p :=
  (State.denyReproj_denied (.inl (((s.notice_dlKept p x c).deadline p) ▸ h))).after (s.notice_dlKept p x c)
    (Comp.same_presents (s.notice_frame p x c _ (by decide)))

theorem State.reproject_bad {x : Xfault} (h : (s.part p).deadline.state = dlReproj)
    (hx : s.reprojWrites p d m sum = .bad x ∨ ∃ l, s.reprojWrites p d m sum = .ok l ∧ s.vwriteAll p l = .bad x) :
    s.ReprojDenied (s.reproject p d m sum) p := by
  rcases hx with hx | ⟨l, hl, hx⟩
  · simp only [State.reproject, hx]
    exact State.noticed_denied h _ _
  · simp only [State.reproject, hl, hx]
    exact State.noticed_denied h _ _

/-- The partition once its re-projected frame is presented. -/
def Part.reprojected (x : Part) : Part :=
  { x with
    deadline := { x.deadline with state := if x.deadline.state = dlReproj then dlLate else x.deadline.state }
    reprojections := satInc x.reprojections, frame := x.frame + 1, presented := satInc x.presented, reproj := none }

theorem State.setDlIf_part (t : State) (c : Prop) [Decidable c] (st : BitVec 3) :
    (t.doIf (decide c) (·.setDl p st)).part p
      = { t.part p with deadline := { (t.part p).deadline with state := if c then st else (t.part p).deadline.state } } := by
  by_cases hc : c
  · simp only [hc, decide_true, State.doIf, if_true, State.setDl_part]
  · simp only [hc, decide_false, State.doIf, Bool.false_eq_true, if_false]

theorem State.setDlIf_keeps {α : Type} {get : State → α} (hg : ∀ t : State, get (t.setDl p dlLate) = get t) (t : State) (b : Bool) :
    get (t.doIf b (·.setDl p dlLate)) = get t := State.doIf_keeps get t b _ hg

theorem State.sendPresent_part (t : State) (surface : Nat) (reproj late : Bool) :
    (t.sendPresent p surface reproj late).part p = { t.part p with frame := (t.part p).frame + 1, presented := satInc (t.part p).presented } := by
  rw [State.sendPresent, State.part_updPart]
  rfl

section
variable {l : List (Nat × List Byte)} {s2 : State} (hl : s.reprojWrites p d m sum = .ok l) (hw : s.vwriteAll p l = .ok s2)
include hl hw

theorem State.reproject_mem : (s.reproject p d m sum).mem = s2.mem := by
  simp only [State.reproject, hl, hw]
  exact (State.irqIf_mem ..).trans (State.setDlIf_keeps (get := State.mem) (fun _ => rfl) ..)

theorem State.reproject_part : (s.reproject p d m sum).part p = (s.part p).reprojected := by
  have hpart : ∀ k, (s2.noteWrite .nobody p k).part p = s.part p :=
    fun _ => State.part_congr (same_of_blank (State.vwriteAll_frame hw 0x200000#48 (by decide)) .parts (by decide)) p
  simp only [State.reproject, hl, hw]
  rw [State.irqIf_part, State.part_updPart, State.setDlIf_part, State.sendPresent_part, hpart]
  rfl

theorem State.reproject_presents :
    (s.reproject p d m sum).pins.presents = s.pins.presents ++ [⟨BitVec.ofNat 64 d.reprojOut, (s.part p).frame, true, false, p⟩] := by
  have hpart : ∀ k, (s2.noteWrite .nobody p k).part p = s.part p :=
    fun _ => State.part_congr (same_of_blank (State.vwriteAll_frame hw 0x200000#48 (by decide)) .parts (by decide)) p
  have hpres : s2.pins.presents = s.pins.presents := Comp.same_presents (State.vwriteAll_frame hw _ (by decide))
  simp only [State.reproject, hl, hw]
  refine (State.irqIf_presents ..).trans ((State.setDlIf_keeps (get := (·.pins.presents)) (fun _ => rfl) ..).trans ?_)
  rw [← hpres, ← hpart (spansOf l)]
  rfl

theorem State.reproject_irq (hi : (s.part p).reprojIrq = true) : ⟨false, p, (s.part p).dlVec⟩ ∈ (s.reproject p d m sum).pins.irqs := by
  simp only [State.reproject, hl, hw]
  exact State.mem_irqIf _ p hi _

end

end

/-! ## The rows -/

section
variable {s : State} {p : PartId} {env : Env}

/-- A Steep list that reads well changes nothing. -/
theorem State.steepWordIf_ok (b : Bool) (tm : Timer) (hl : env.hw.lists = .ok) : s.doIf b (·.steepWord env tm) = s :=
  State.doIf_same b (by rw [State.steepWord, hl])

/-- Where the read of the Steep list is uncorrectable, the block is in ERROR. -/
theorem State.steepWordIf_lost {tm : Timer} (hr : s.ready = true) (hf : s.timerFires tm env.t = true) (hl : env.hw.lists = .failed) :
    s.doIf (s.ready && s.timerFires tm env.t) (·.steepWord env tm) = (s.at env.t).errBlock 0x0B tm.list.val := by
  rw [hr, hf, Bool.and_self, State.doIf, if_pos rfl, State.steepWord, hl]

theorem State.errBlock_parts (src index : Nat) : (s.errBlock src index).parts = s.parts :=
  same_of_blank (s.errBlock_frame src index _ (by decide)) .parts (m := 0x1000000010A#48) (by decide)

theorem exec_preemptionTimer_ok (hr : s.ready = true) (hf : s.timerFires (.preempt p) env.t = true) (hl : env.hw.lists = .ok) :
    exec (.preemptionTimer p env) s = .next (if ((s.fire (.preempt p) env.t).part p).deadline.state = dlArmed
      then (s.fire (.preempt p) env.t).enterFiring env p else s.fire (.preempt p) env.t) := by
  show execPreemptionTimer p env s = _
  simp only [execPreemptionTimer, State.steepWordIf_ok _ _ hl, hr, hf, Bool.and_self, if_true]

theorem exec_preemptionTimer_lost (hr : s.ready = true) (hf : s.timerFires (.preempt p) env.t = true) (hl : env.hw.lists = .failed) :
    exec (.preemptionTimer p env) s = .next ((s.at env.t).errBlock 0x0B (Timer.preempt p).list.val) := by
  show execPreemptionTimer p env s = _
  simp only [execPreemptionTimer, State.steepWordIf_lost hr hf hl, State.errBlock_notReady, Bool.false_and, Bool.false_eq_true, if_false]

theorem exec_decisionTimer_lost {check : Check} (hr : s.ready = true) (hf : s.timerFires (.decision p) env.t = true) (hl : env.hw.lists = .failed) :
    exec (.decisionTimer p check env) s = .next ((s.at env.t).errBlock 0x0B (Timer.decision p).list.val) := by
  show execDecisionTimer p check env s = _
  simp only [execDecisionTimer, State.steepWordIf_lost hr hf hl, State.errBlock_notReady, Bool.false_and, Bool.false_eq_true, if_false]

/-- A decision waits for a re-projection under way. -/
theorem exec_decisionTimer_waits {check : Check} (hn : (s.part p).reproj ≠ none) (hl : env.hw.lists = .ok) :
    exec (.decisionTimer p check env) s = .next s := by
  have hn' : (s.part p).reproj.isNone = false := Option.isNone_eq_false_iff.mpr (Option.isSome_iff_ne_none.mpr hn)
  show execDecisionTimer p check env s = _
  simp only [execDecisionTimer, State.steepWordIf_ok _ _ hl, hn', Bool.and_false, Bool.false_and, Bool.false_eq_true, if_false]

theorem exec_decisionTimer_ok {check : Check} (hr : s.ready = true) (hn : (s.part p).reproj = none) (hf : s.timerFires (.decision p) env.t = true)
    (hl : env.hw.lists = .ok) :
    exec (.decisionTimer p check env) s = .next (if (s.part p).deadline.state = dlArmed ∨ (s.part p).deadline.state = dlFiring
      then (s.fire (.decision p) env.t).decideReproj env p check else s.fire (.decision p) env.t) := by
  show execDecisionTimer p check env s = _
  simp only [execDecisionTimer, State.steepWordIf_ok _ _ hl, hr, hf, hn, Option.isNone_none, Bool.and_self, if_true, Bool.or_eq_true,
    decide_eq_true_eq, (s.fire_dlKept (.decision p) env.t).deadline p]

end

end Sys2Proof.Machine
end

section
/-!
Restoring saved groups (R300, R456), and the obligation on deadlines, re-projection and restores.
-/

namespace Sys2Proof.Machine
open Sys2Proof

/-! ## A saved set returns (R300, R456) -/

section
variable (s : State) (set : Nat)

/-- A core that keeps its groups. -/
theorem State.group?_setCore {c : CoreId} {x : Core} (h : x.groups = (s.core c).groups) (k : GroupRef) : (s.setCore c x).group? k = s.group? k := by
  by_cases hc : c = k.core
  · subst hc
    rw [State.group?, State.core_setCore, h]
    rfl
  · rw [State.group?, State.core_setCore_ne _ _ hc]
    rfl

theorem State.restoreBlocks_group? (k : GroupRef) : (s.restoreBlocks set).group? k = s.group? k := by
  unfold State.restoreBlocks
  extract_lets bs _ s1
  have h1 : s1.group? k = s.group? k := rfl
  refine .trans (foldl_keeps (State.group? · k) _ (fun t e => ?_) bs s1) h1
  exact t.group?_setCore (by rfl) k

/-- What a change of the cores and of the saved blocks keeps. -/
theorem State.restoreBlocks_keeps {α : Type} (get : State → α) (hc : ∀ (t : State) c x, get (t.setCore c x) = get t)
    (hb : get { s with setter := { s.setter with savedBlocks := s.setter.savedBlocks.filter (fun e => e.2.set != set) } } = get s) :
    get (s.restoreBlocks set) = get s := by
  unfold State.restoreBlocks
  extract_lets bs _ s1
  refine .trans (foldl_keeps get _ (fun t e => ?_) bs s1) hb
  exact hc ..

theorem State.restoreBlocks_saved : (s.restoreBlocks set).setter.saved = s.setter.saved :=
  s.restoreBlocks_keeps set (·.setter.saved) (fun _ _ _ => rfl) rfl

theorem State.restoreBlocks_parts : (s.restoreBlocks set).parts = s.parts := s.restoreBlocks_keeps set (·.parts) (fun _ _ _ => rfl) rfl

theorem State.restoreBlocks_vread (p : PartId) (va n : Nat) : (s.restoreBlocks set).vread p va n = s.vread p va n :=
  State.vread_congr (s.restoreBlocks_keeps set (·.mem) (fun _ _ _ => rfl) rfl) (s.restoreBlocks_parts set)
    (s.restoreBlocks_keeps set (·.mmu) (fun _ _ _ => rfl) rfl) p va n

end

section
variable {s : State} {env : Env} {g : GroupRef} {x : Group}

/-- A group whose record can be read returns to its slot. -/
theorem State.restoreGroup_ok {bs : List Byte} (hp : (s.part x.part).partError = false)
    (hr : s.vread x.part (s.recordVa x.part g) (2048 + 128 * x.prog.vregs) = .ok bs) :
    (s.restoreGroup env g x).group? g = some x.restored ∧ (∀ k, k ≠ g → (s.restoreGroup env g x).group? k = s.group? k)
      ∧ (s.restoreGroup env g x).setter.saved = s.setter.saved.filter (fun e => decide (e.1 ≠ g) || decide (e.2.block ≠ x.block)) := by
  simp only [State.restoreGroup, hp, hr, Bool.false_eq_true, if_false]
  have hg : ∀ (t : State) b k, (t.doIf b (·.rayHalt x true)).group? k = t.group? k :=
    fun t b k => State.doIf_keeps (State.group? · k) t b _ fun u => u.rayHalt_group? x true k
  have hs : ∀ (t : State) b, (t.doIf b (·.rayHalt x true)).setter = t.setter :=
    fun t b => State.doIf_keeps (·.setter) t b _ fun u => Comp.same_setter (u.rayHalt_frame x true _ (by decide))
  refine ⟨(hg ..).trans ?_, fun k hk => (hg ..).trans ?_, ?_⟩
  · exact State.group?_setGroup _ g _
  · exact State.group?_setGroup_ne _ hk _
  · rw [hs]
    rfl

/-- A set of one group returns to its slot. -/
theorem exec_groupRestore_one (hf : s.setter.saved.find? (fun e => decide (e.1 = g) && s.restoreTurn e.2) = some (g, x))
    (hw : s.works x.part = true) (hn : s.firing x.part = false) (hr : s.restorable (s.setOf x.block) = true)
    (ho : s.savedOf (s.setOf x.block) = [(g, x)]) :
    exec (.groupRestore g env) s = .next ((((s.at env.t).restoreBlocks (s.setOf x.block)).restoreGroup env g x).acceptMore 256) := by
  show execGroupRestore g env s = _
  have hf' : (s.at env.t).setter.saved.find? (fun e => decide (e.1 = g) && (s.at env.t).restoreTurn e.2) = some (g, x) := hf
  have hw' : (s.at env.t).works x.part = true := hw
  have hn' : (s.at env.t).firing x.part = false := hn
  have hr' : (s.at env.t).restorable ((s.at env.t).setOf x.block) = true := hr
  have ho' : (s.at env.t).savedOf ((s.at env.t).setOf x.block) = [(g, x)] := ho
  simp only [execGroupRestore, hf', hw', hn', hr', ho', Bool.not_true, Bool.or_self, Bool.false_eq_true, if_false, List.foldl_cons, List.foldl_nil]
  rfl

theorem groupRestored {bs : List Byte} (hf : s.setter.saved.find? (fun e => decide (e.1 = g) && s.restoreTurn e.2) = some (g, x))
    (hw : s.works x.part = true) (hn : s.firing x.part = false) (hr : s.restorable (s.setOf x.block) = true)
    (ho : s.savedOf (s.setOf x.block) = [(g, x)]) (hv : s.vread x.part (s.recordVa x.part g) (2048 + 128 * x.prog.vregs) = .ok bs)
    (hx : x.wait ≠ .accept) (ha : ∀ k y, s.group? k = some y → y.wait ≠ .accept) :
    ∃ u, exec (.groupRestore g env) s = .next u ∧ u.group? g = some x.restored ∧ (∀ k, k ≠ g → u.group? k = s.group? k)
      ∧ u.setter.saved = s.setter.saved.filter (fun e => decide (e.1 ≠ g) || decide (e.2.block ≠ x.block)) := by
  have hpart : ∀ p, ((s.at env.t).restoreBlocks (s.setOf x.block)).part p = s.part p := State.part_congr (State.restoreBlocks_parts ..)
  have hp : (s.part x.part).partError = false := by
    simp only [State.works, Bool.and_eq_true, Bool.not_eq_true'] at hw
    exact hw.1.2
  have hread : ((s.at env.t).restoreBlocks (s.setOf x.block)).vread x.part
      (State.recordVa ((s.at env.t).restoreBlocks (s.setOf x.block)) x.part g) (2048 + 128 * x.prog.vregs) = .ok bs := by
    rw [State.recordVa, hpart, State.restoreBlocks_vread]
    rw [State.vread_congr (State.at_mem ..) (State.at_parts ..) (State.at_mmu ..)]
    exact hv
  obtain ⟨hg, hk, hs⟩ := State.restoreGroup_ok (env := env) ((congrArg Part.partError (hpart x.part)).trans hp) hread
  have hk' : ∀ k, k ≠ g → (((s.at env.t).restoreBlocks (s.setOf x.block)).restoreGroup env g x).group? k = s.group? k :=
    fun k hne => (hk k hne).trans (State.restoreBlocks_group? ..)
  refine ⟨_, exec_groupRestore_one hf hw hn hr ho, ?_⟩
  rw [State.acceptMore_none]
  · exact ⟨hg, hk', hs.trans (by rw [State.restoreBlocks_saved]; rfl)⟩
  · intro k y hy hwait
    by_cases hkg : k = g
    · subst hkg
      rw [hg] at hy
      rw [← Option.some.inj hy] at hwait
      exact absurd hwait hx
    · exact absurd hwait (ha k y ((hk' k hkg).symm.trans hy))

/-- Without a saved group that has this slot, only time passes. -/
theorem exec_groupRestore_none (h : ∀ e ∈ s.setter.saved, e.1 ≠ g) : exec (.groupRestore g env) s = .next (s.at env.t) := by
  show execGroupRestore g env s = _
  have hf : (s.at env.t).setter.saved.find? (fun e => decide (e.1 = g) && (s.at env.t).restoreTurn e.2) = none := by
    rw [List.find?_eq_none]
    intro e he
    simp [h e he]
  simp only [execGroupRestore, hf]

end

/-! ## REPROJECTION_PRESENT -/

section
variable {s : State} {p : PartId} {env : Env} {d : Desc} {m : List W32} {sum : List (Nat × W16)}

theorem exec_reprojectionPresent_idle (h : (s.part p).reproj = none) : exec (.reprojectionPresent p env) s = .next (s.at env.t) := by
  show execReprojectionPresent p env s = _
  have h' : ((s.at env.t).part p).reproj = none := h
  simp only [execReprojectionPresent, h']

theorem exec_reprojectionPresent_busy (h : (s.part p).reproj = some (d, m, sum)) (hu : ∀ unit, s.tile? unit 3 ≠ none) :
    exec (.reprojectionPresent p env) s = .next (s.at env.t) := by
  show execReprojectionPresent p env s = _
  have h' : ((s.at env.t).part p).reproj = some (d, m, sum) := h
  have hany : (List.finRange 64).any (fun u => ((s.at env.t).tile? u 3).isNone) = false := by
    rw [List.any_eq_false]
    intro u _
    exact fun hn => hu u (Option.isNone_iff_eq_none.mp hn)
  simp only [execReprojectionPresent, h', hany, Bool.and_false, Bool.false_eq_true, if_false]

theorem exec_reprojectionPresent_free (h : (s.part p).reproj = some (d, m, sum)) (hw : s.works p = true) (hu : ∃ unit, s.tile? unit 3 = none) :
    exec (.reprojectionPresent p env) s = .next ((s.at env.t).reproject p d m sum) := by
  show execReprojectionPresent p env s = _
  have h' : ((s.at env.t).part p).reproj = some (d, m, sum) := h
  have hw' : (s.at env.t).works p = true := hw
  obtain ⟨unit, hunit⟩ := hu
  have hunit' : ((s.at env.t).tile? unit 3).isNone = true := by
    rw [Option.isNone_iff_eq_none]
    exact hunit
  have hany : (List.finRange 64).any (fun u => ((s.at env.t).tile? u 3).isNone) = true := List.any_of_mem (List.mem_finRange unit) hunit'
  simp only [execReprojectionPresent, h', hw', hany, Bool.and_self, if_true]

end

end Sys2Proof.Machine
end

section
/-!
The obligation on deadlines, re-projection and restores (R300, R342, R343, R346 to R348, R456, R511), from the rules of its rows.
-/

namespace Sys2Proof.Machine
open Sys2Proof

section
variable {s : State} {p : PartId} {env : Env} {check : Check}

/-- PREEMPTION_TIMER of an armed deadline. -/
theorem preemptionFires (hr : s.ready = true) (hf : s.timerFires (.preempt p) env.t = true) (hl : env.hw.lists = .ok)
    (hst : (s.part p).deadline.state = dlArmed) :
    ∃ u, exec (.preemptionTimer p env) s = .next u ∧ (u.part p).deadline = { (s.part p).deadline with state := dlFiring }
      ∧ ((s.part p).fireIrq = true → ⟨false, p, (s.part p).dlVec⟩ ∈ u.pins.irqs) := by
  have hk := s.fire_dlKept (.preempt p) env.t
  refine ⟨(s.fire (.preempt p) env.t).enterFiring env p, ?_, ?_, fun hi => ?_⟩
  · rw [exec_preemptionTimer_ok hr hf hl, hk.deadline p, if_pos hst]
  · rw [State.enterFiring_deadline, hk.deadline p]
  · rw [← hk.vec p]
    exact State.enterFiring_irq _ p env ((hk.fireIrq p).trans hi)

/-- A denial by DECISION_TIMER, with the timer that acts before it. -/
theorem decisionDenied (hr : s.ready = true) (hn : (s.part p).reproj = none) (hf : s.timerFires (.decision p) env.t = true)
    (hl : env.hw.lists = .ok) (hst : (s.part p).deadline.state = dlArmed ∨ (s.part p).deadline.state = dlFiring)
    (hd : (s.fire (.decision p) env.t).ReprojDenied ((s.fire (.decision p) env.t).decideReproj env p check) p) :
    ∃ u, exec (.decisionTimer p check env) s = .next u ∧ s.ReprojDenied u p :=
  ⟨_, (exec_decisionTimer_ok hr hn hf hl).trans (by rw [if_pos hst]), hd.after (s.fire_dlKept _ _) (s.fire_presents _ _)⟩

/-- The reference frame is the same once the timer has acted. -/
theorem State.fire_reprojFrame (tm : Timer) (t : Nat) :
    (s.fire tm t).reprojFrame p = if 64 ≤ s.servedTus p then (s.part p).refFrame else none := by
  rw [State.reprojFrame, State.fire_servedTus, (s.fire_dlKept tm t).refFrame p]

theorem State.ReprojDenied.outcome {i : Instr} (h : ∃ u, exec i s = .next u ∧ s.ReprojDenied u p) :
    ∃ u, exec i s = .next u ∧ (u.part p).deadline.state = dlFiring ∧ (u.part p).reprojDenied = true ∧ (u.part p).reproj = none
      ∧ u.pins.presents = s.pins.presents ∧ ((s.part p).reprojIrq = true → ⟨false, p, (s.part p).dlVec⟩ ∈ u.pins.irqs) := by
  obtain ⟨u, hu, hd⟩ := h
  exact ⟨u, hu, hd.firing, hd.flag, hd.gone, hd.presents, hd.irq⟩

end

/-- Settles O45: DEADLINE service keeps every deadline and every interrupt message, so each outcome is that of the step that sets it. -/
theorem deadlinesFireAndReproject : Obligations.DeadlinesFireAndReproject := by
  unfold Obligations.DeadlinesFireAndReproject
  intro p env s st denied
  refine ⟨fun hr hf hl => ⟨preemptionFires hr hf hl, fun hst => ?_⟩, fun hr hl => ⟨fun hf => ?_, fun check hf => ?_⟩,
    fun check hr hn hf hl => ⟨fun hst => ⟨fun d hs hd hc => ⟨fun mv hmv => ?_, fun x hx => ?_⟩, fun hno => ?_⟩, fun ha hfi => ?_⟩,
    fun check hn hl => exec_decisionTimer_waits hn hl,
    fun d m sum hm hw => ⟨exec_reprojectionPresent_busy hm, fun hu => ⟨fun l s2 hl hv => ?_, fun x hst hx => ?_⟩⟩,
    exec_reprojectionPresent_idle, fun g x hf hw hn hr ho hb hx ha => ?_, fun g hg => exec_groupRestore_none hg⟩
  · rw [exec_preemptionTimer_ok hr hf hl, (s.fire_dlKept _ _).deadline p, if_neg hst]
  · exact ⟨_, exec_preemptionTimer_lost hr hf hl, State.errBlock_state .., State.errBlock_parts ..⟩
  · exact ⟨_, exec_decisionTimer_lost hr hf hl, State.errBlock_state .., State.errBlock_parts ..⟩
  · have hk := s.fire_dlKept (.decision p) env.t
    obtain ⟨h1, h2, h3⟩ := State.decideReproj_begins (env := env) (State.fire_reprojFrame _ _ |>.trans (by rw [if_pos hs, hd])) hc hmv
    exact ⟨_, (exec_decisionTimer_ok hr hn hf hl).trans (by rw [if_pos hst]), h1, h2.trans (by rw [hk.refSummary p]), h3.trans (hk.denied p)⟩
  · refine State.ReprojDenied.outcome (decisionDenied hr hn hf hl hst (State.decideReproj_bad ?_ ?_ hc hx))
    · rw [(s.fire_dlKept _ _).deadline p]
      exact hst
    · rw [State.fire_reprojFrame, if_pos hs, hd]
  · have hst' : ((s.fire (.decision p) env.t).part p).deadline.state = dlArmed ∨ ((s.fire (.decision p) env.t).part p).deadline.state = dlFiring := by
      rw [(s.fire_dlKept _ _).deadline p]
      exact hst
    refine State.ReprojDenied.outcome (decisionDenied hr hn hf hl hst ?_)
    rcases hno with hno | hno | hno
    · exact State.decideReproj_noFrame hst' (by rw [State.fire_reprojFrame, if_neg (Nat.not_le.mpr hno)])
    · exact State.decideReproj_noFrame hst' (by rw [State.fire_reprojFrame, hno, ite_self])
    · rw [hno]
      exact State.decideReproj_lost hst'
  · rw [exec_decisionTimer_ok hr hn hf hl, if_neg (not_or.mpr ⟨ha, hfi⟩)]
  · have hp := State.reproject_part hl hv
    refine ⟨_, exec_reprojectionPresent_free hm hw hu, State.reproject_mem hl hv, ?_, State.reproject_presents hl hv, ?_, ?_, ?_,
      State.reproject_irq hl hv⟩
    all_goals rw [hp]; rfl
  · have hd := State.reproject_bad (s := s.at env.t) hst hx
    exact State.ReprojDenied.outcome ⟨_, exec_reprojectionPresent_free hm hw hu, hd.firing, hd.flag, hd.gone, hd.presents, hd.irq⟩
  · obtain ⟨bs, hv⟩ := hb
    exact groupRestored hf hw hn hr ho hv hx ha

end Sys2Proof.Machine
end

section
/-!
SPLAT_FWD and SPLAT_BWD (R312 to R337): which pass they bin, what a forward pass does with the outcome of its binning, and what a backward pass
leaves in memory.
-/

namespace Sys2Proof.Machine
open Sys2Proof

/-! ## SPLAT_FWD -/

section
variable {s s1 s2 : State} {q : QueueId} {env : Env} {c : Cmd} {v : Pass}

/-- The end of a command leaves no other pass to bin in its queue. -/
theorem State.binning_finishOk {op n : Nat} (h : s.binning q op = none) : (s.finishOk ⟨q, n⟩).binning q op = none := by
  simp only [State.binning, List.findSome?_eq_none_iff, State.finishOk, State.updCmd, State.queue_updQueue, updSeq, List.forall_mem_map] at h ⊢
  intro d hd
  by_cases hn : d.seq = n
  · rw [if_pos hn]
    rfl
  · rw [if_neg hn]
    exact h d hd

/-- SPLAT_FWD bins the pass that is binning, that of the command it has just begun too. -/
theorem exec_splatFwd_bins (hw : (s.at env.t).works (s.qPart q) = true)
    (hs : s2 = s.at env.t ∨ ((s.at env.t).binning q 0x20 = none ∧ ∃ c0, (s.at env.t).beginning q 0x20 = some c0 ∧ s2 = (s.at env.t).beginSplat env q c0))
    (hb : s2.binning q 0x20 = some (c, v)) : exec (.splatFwd q env) s = .next (s2.binPass env q c v) := by
  show execSplatFwd q env s = _
  rw [execSplatFwd]
  simp only [State.at_qPart, hw, Bool.not_true, Bool.false_eq_true, if_false]
  rcases hs with rfl | ⟨hn, c0, hc, rfl⟩
  · simp only [hb]
  · simp only [hn, hc, hb]

/-- A command whose beginning leaves nothing to bin has only begun. -/
theorem exec_splatFwd_begins (hw : (s.at env.t).works (s.qPart q) = true) (hn : (s.at env.t).binning q 0x20 = none)
    (hc : (s.at env.t).beginning q 0x20 = some c) (hb : ((s.at env.t).beginSplat env q c).binning q 0x20 = none) :
    exec (.splatFwd q env) s = .next ((s.at env.t).beginSplat env q c) := by
  show execSplatFwd q env s = _
  rw [execSplatFwd]
  simp only [State.at_qPart, hw, Bool.not_true, Bool.false_eq_true, if_false, hn, hc, hb]

/-- A command with a zero rectangle ends as it begins (R315). -/
theorem State.beginSplat_zero (h : zeroRect c.raw = true) : s.beginSplat env q c = s.finishOk ⟨q, c.seq⟩ := if_pos h

/-- A command whose summary copies are not granted has not begun (R347). -/
theorem State.beginSplat_waits {d : Desc} (hz : zeroRect c.raw = false) (hd : assocGet 0 c.descs = some d) (hp : c.presents = true)
    (hw : s.summaryWaits (s.qPart q) = true) : s.beginSplat env q c = s := by
  simp only [State.beginSplat, hz, hd, hp, hw, Bool.false_eq_true, if_false, Bool.and_self, if_true]

/-- A pass that has binned its last primitive goes on to its tiles. -/
theorem State.binPass_done {y : Pass} (h : s.binFrom c.raw true (rb c.raw 16 4 - v.prim) v = .done s1 y) :
    s.binPass env q c v = s1.updPass ⟨q, c.seq⟩ (fun _ => { y with phase := .finally_, todo := y.active }) := by
  simp only [State.binPass, h]

/-- The first pass whose bins are full waits for depth parking (R331). -/
theorem State.binPass_full_waits {y : Pass} (h : s.binFrom c.raw true (rb c.raw 16 4 - v.prim) v = .full s1 y) (hg : y.granted = 0) :
    (s.binPass env q c v).vis = { (s1.updPass ⟨q, c.seq⟩ (fun _ => { y with phase := .waiting })).vis with
      parkWait := s1.vis.parkWait ++ [⟨⟨q, c.seq⟩, v.part, v.cls, none⟩] } := by
  simp only [State.binPass, h, hg, if_true]
  rfl

/-- A pass with a grant renders what it holds; one that holds nothing goes on binning later (R331, R332). -/
theorem State.binPass_full_renders {y : Pass} (h : s.binFrom c.raw true (rb c.raw 16 4 - v.prim) v = .full s1 y) (hg : y.granted ≠ 0) :
    s.binPass env q c v = s1.updPass ⟨q, c.seq⟩ (fun _ => if y.held.isEmpty then y else { y with phase := .partly, todo := y.held }) := by
  simp only [State.binPass, h, hg, if_false]

end

/-! ## SPLAT_BWD -/

/-- The tiles that a backward pass renders, those without gradients, and those it defers, beside the entries of the other passes (R313, R335). -/
def State.bwdTaken (s : State) (r : CmdRef) (v : Pass) : List Nat × List Nat × List Nat := bwdKeep v (s.binOthers r) v.active

/-- A pass with tiles has room for none of them. -/
def bwdWaits (v : Pass) (keep : List Nat × List Nat × List Nat) : Prop := v.active ≠ [] ∧ keep.1 = [] ∧ keep.2.1 = []

/-- The status bytes of a backward pass: of the tiles replayed, and of those without gradients (R316, R335). -/
def bwdBytes (l : List BwdDone) (fls : List (Nat × Nat × Fl)) (deep : List Nat) : List (Nat × Byte) :=
  l.map (fun x => (x.tile, bwdByte x fls)) ++ deep.map (fun t => (t, (8 : Byte)))

/-- Where the status area takes those bytes, and with the command's last pass the header (R316). -/
def bwdWrites (v : Pass) (c : Cmd) (bytes : List (Nat × Byte)) : List (Nat × List Byte) :=
  if v.target.statusAddr = 0 then [] else bytes.map (fun b => (v.target.statusAddr + 64 + b.1, [b.2]))
    ++ (if c.last ≤ c.done + bytes.length then [(v.target.statusAddr, headerBytes v)] else [])

/-- A corrected word leaves the tiles that the pass takes (R512). -/
theorem State.seen_bwdTaken (s : State) (check : Check) (r : CmdRef) (v : Pass) : (s.seen check).bwdTaken r v = s.bwdTaken r v :=
  State.seen_keeps (·.bwdTaken r v) (fun _ => rfl) s check

section
variable {s s2 : State} {q : QueueId} {env : Env} {c : Cmd} {v v1 : Pass} {order : List (Nat × Nat)}

/-- SPLAT_BWD runs the pass that is to bin, the words of VIS read. -/
theorem exec_splatBwd_runs {check : Check} (hw : (s.at env.t).works (s.qPart q) = true) (hc : check ≠ .failed)
    (hb : (s.at env.t).binning q 0x21 = some (c, v)) :
    exec (.splatBwd q order check env) s = .next (((s.at env.t).seen check).bwdPass env q order c v) := by
  show execSplatBwd q order check env s = _
  rw [execSplatBwd]
  simp only [State.at_qPart, hw, Bool.not_true, Bool.false_eq_true, if_false, hb, State.bwdRun, if_neg hc]
  rfl

/-- The tiles of a backward pass wait for room in bin memory (R313). -/
theorem State.bwdPass_waits (h : s.binFrom c.raw false (rb c.raw 16 4) v = .done s2 v1) (hk : bwdWaits v1 (s.bwdTaken ⟨q, c.seq⟩ v1)) :
    s.bwdPass env q order c v = s := by
  obtain ⟨ha, hr, hn⟩ := hk
  rw [State.bwdTaken] at hr hn
  simp [State.bwdPass, h, hr, hn, ha]

/-- A backward pass that has room leaves its gradients and its status bytes in memory (R334 to R337). -/
theorem State.bwdPass_mem {l : List BwdDone} {s3 s4 : State} {fls : List (Nat × Nat × Fl)}
    (h : s.binFrom c.raw false (rb c.raw 16 4) v = .done s2 v1) (hr : ¬ bwdWaits v1 (s.bwdTaken ⟨q, c.seq⟩ v1))
    (hl : s2.bwdTiles v1 c (s.bwdTaken ⟨q, c.seq⟩ v1).1 = .ok l)
    (hg : s2.applyGrads v.part (ovfOf c.ovf) (rb c.raw 56 1 == 1) (rb c.raw 48 8) v1.target.chans (bwdOrder order (bwdRecords l)) = .ok (s3, fls))
    (hs : s3.vwriteAll v.part (bwdWrites v1 c (bwdBytes l fls (s.bwdTaken ⟨q, c.seq⟩ v1).2.1)) = .ok s4) :
    (s.bwdPass env q order c v).mem = s4.mem := by
  have hroom : ((s.bwdTaken ⟨q, c.seq⟩ v1).1.isEmpty && (s.bwdTaken ⟨q, c.seq⟩ v1).2.1.isEmpty && !v1.active.isEmpty) = false := by
    rw [Bool.eq_false_iff]
    simpa [bwdWaits, and_comm, and_left_comm] using hr
  rw [State.bwdTaken] at hroom hl hs
  rw [bwdWrites, bwdBytes] at hs
  simp only [State.bwdPass, h, hroom, Bool.false_eq_true, if_false, hl, hg]
  simp only [decide_eq_true_eq, hs]
  exact Comp.same_mem (by simp)

end

/-! ## The obligation -/

/-- Settles O30: a command that begins bins only where its beginning leaves a pass to bin; from there each outcome is that of its binning. -/
theorem splatPassesBinTheirPrimitives : Obligations.SplatPassesBinTheirPrimitives := by
  unfold Obligations.SplatPassesBinTheirPrimitives
  intro q env s s1 hw
  refine ⟨fun c hn hc => ⟨fun hz => ?zero, fun d hz hd hp hs => ?summary⟩, fun s2 c v hs hb => ⟨fun s3 y hf => ?done, fun s3 y hf => ?full⟩,
    fun order check c v s2 v1 hck hb hf => ⟨fun hk => ?waits, fun l s3 fls s4 hk hl hg hv => ?writes⟩⟩
  case zero =>
    have he := State.beginSplat_zero (s := s1) (env := env) (q := q) hz
    refine ⟨_, exec_splatFwd_begins hw hn hc (he ▸ State.binning_finishOk hn), ?_, ?_⟩
    · rw [he]; exact State.endedDone_finishOk s1 _ (State.holds_of_beginning hc)
    · rw [he]; rfl
  case summary =>
    have he := State.beginSplat_waits (env := env) hz hd hp hs
    exact (exec_splatFwd_begins hw hn hc (he.symm ▸ hn)).trans (congrArg _ he)
  case done => exact (exec_splatFwd_bins hw hs hb).trans (congrArg _ (State.binPass_done hf))
  case full =>
    refine ⟨_, exec_splatFwd_bins hw hs hb, fun hg => ?_, State.binPass_full_renders hf⟩
    rw [State.binPass_full_waits hf hg]
    exact ⟨rfl, rfl⟩
  case waits =>
    exact (exec_splatBwd_runs hw hck hb).trans (congrArg _ (State.bwdPass_waits hf ((s1.seen_bwdTaken check _ _).symm ▸ hk)))
  case writes =>
    have e := s1.seen_bwdTaken check ⟨q, c.seq⟩ v1
    exact ⟨_, exec_splatBwd_runs hw hck hb, State.bwdPass_mem hf (e.symm ▸ hk) (e.symm ▸ hl) hg (e.symm ▸ hv)⟩

end Sys2Proof.Machine
end

section
/-!
TILE_LOAD, TILE_RESOLVE and PARK_GRANT (R321 to R332, R345, R347): what each leaves of its tiles, passes, commands and of depth parking where no
group waits at EXIT.
-/

namespace Sys2Proof.Machine
open Sys2Proof

/-! ## Passes, tiles and commands -/

section
variable {s t : State} {r : CmdRef}

theorem State.pass?_cmd {v : Pass} (h : s.pass? r = some v) : v.cmd = r := by simpa using List.find?_some h

/-- The pass of a command after a change that keeps whose it is. -/
theorem State.pass?_updPass {f : Pass → Pass} (hf : ∀ v, v.cmd = r → (f v).cmd = r) : (s.updPass r f).pass? r = (s.pass? r).map f := by
  have hp : (fun v : Pass => decide (v.cmd = r)) ∘ (fun v => if v.cmd = r then f v else v) = fun v => decide (v.cmd = r) := by
    funext v
    by_cases h : v.cmd = r
    · simp [h, hf v h]
    · simp [h]
  simp only [State.pass?, State.updPass, List.find?_map, hp]
  refine Option.map_congr fun v hv => if_pos ?_
  simpa using List.find?_some hv

theorem State.pass?_congr (h : t.vis.passes = s.vis.passes) (r : CmdRef) : t.pass? r = s.pass? r := by rw [State.pass?, State.pass?, h]

theorem State.tile?_congr (h : t.vis.units = s.vis.units) (u : Fin 64) (k : Fin 4) : t.tile? u k = s.tile? u k := by rw [State.tile?, State.tile?, h]

theorem State.tile?_setTile (s : State) (u : Fin 64) (k : Fin 4) (x : Option Tile) : (s.setTile u k x).tile? u k = x := by
  simp [State.tile?, State.setTile]

theorem State.tile?_setTile_ne (s : State) (u : Fin 64) {k j : Fin 4} (x : Option Tile) (h : j ≠ k) : (s.setTile u k x).tile? u j = s.tile? u j := by
  have hv : k.val ≠ j.val := fun e => h (Fin.ext e.symm)
  simp [State.tile?, State.setTile, Vector.getElem_set_ne, hv]

theorem State.cmd?_congr (h : t.queues = s.queues) (r : CmdRef) : t.cmd? r = s.cmd? r := by rw [State.cmd?, State.cmd?, State.queue, State.queue, h]

theorem State.held_of_cmd? {c : Cmd} (h : s.cmd? r = some c) : ∃ d ∈ (s.queue r.q).cmds, d.seq = r.seq :=
  ⟨c, List.mem_of_find?_eq_some h, by simpa using List.find?_some h⟩

end

/-! ## No group waits at EXIT (R328) -/

/-- No group waits at EXIT for its tile to take its results. -/
def State.noneAtExit (s : State) : Prop := ∀ g x, s.group? g = some x → x.wait ≠ .accept

theorem State.noneAtExit_congr {s t : State} (h : s.noneAtExit) (hs : t.setter = s.setter) : t.noneAtExit := by
  intro g x hx
  refine h g x (Eq.trans ?_ hx)
  rw [State.group?, State.group?, State.core, State.core, hs]

theorem State.acceptMore_idle {s : State} (h : s.noneAtExit) (n : Nat) : s.acceptMore n = s :=
  State.acceptMore_none (fun g x hx ha => absurd ha (h g x hx)) n

/-! ## A command ends at once (R328, R330, R450) -/

/-- The pass of a command and its requests, grants and tiles are gone. -/
def State.dropSplat (s : State) (r : CmdRef) : State :=
  { s with vis := { s.vis with
    passes := s.vis.passes.filter (fun v => decide (v.cmd ≠ r))
    parkUsed := s.vis.parkUsed - (match s.pass? r with | some v => v.granted | none => 0)
    parkWait := s.vis.parkWait.filter (fun w => decide (w.cmd ≠ r) || w.size.isSome)
    units := s.vis.units.map (fun (u : Vector (Option Tile) 4) => u.map (fun (k : Option Tile) => match k with
      | some t => if t.cmd = r then none else some t
      | none => none)) } }

/-- The record of a command that ends at once. -/
def Cmd.stopped (st : W16) (c : Cmd) : Cmd := { c with phase := .finished, status := st, parked := false }

theorem State.endSplat_idle {s : State} (h : s.noneAtExit) (r : CmdRef) (st : W16) :
    s.endSplat r st = (s.dropSplat r).updCmd r (Cmd.stopped st) := by
  have hi : ((s.dropSplat r).updCmd r (Cmd.stopped st)).noneAtExit := State.noneAtExit_congr h rfl
  exact State.acceptMore_idle hi 4096

theorem State.dropSplat_pass? (s : State) (r : CmdRef) : (s.dropSplat r).pass? r = none := by
  simp [State.pass?, State.dropSplat]

theorem State.dropSplat_tile? {s : State} {u : Fin 64} {k : Fin 4} (h : s.tile? u k = none) (r : CmdRef) : (s.dropSplat r).tile? u k = none := by
  rw [State.tile?] at h
  simp only [Fin.getElem_fin] at h
  simp [State.tile?, State.dropSplat, h]

theorem State.containSplat_idle {s : State} (h : s.noneAtExit) (src unit : Nat) (v : Pass) :
    s.containSplat src unit v = ((s.errContained v.part src unit 0).dropSplat v.cmd).updCmd v.cmd (Cmd.stopped stContained) :=
  State.endSplat_idle (State.noneAtExit_congr h (Comp.same_setter (by simp))) _ _

/-- What an uncorrectable word or a residue error leaves: the command has ended CONTAINED, and nothing has reached memory (R330, R511). -/
theorem State.containSplat_ends {s : State} (h : s.noneAtExit) (src unit : Nat) {v : Pass} (he : ∃ c ∈ (s.queue v.cmd.q).cmds, c.seq = v.cmd.seq) :
    (s.containSplat src unit v).endedWith v.cmd stContained ∧ (s.containSplat src unit v).pass? v.cmd = none
      ∧ (s.containSplat src unit v).mem = s.mem ∧ (s.containSplat src unit v).noneAtExit := by
  have hq : (s.errContained v.part src unit 0).queues = s.queues := Comp.same_queues (by simp)
  have hs : (s.errContained v.part src unit 0).setter = s.setter := Comp.same_setter (by simp)
  have hm : (s.errContained v.part src unit 0).mem = s.mem := Comp.same_mem (by simp)
  rw [State.containSplat_idle h]
  refine ⟨State.cmdIs_updCmd _ _ _ _ (fun _ => rfl) ?_ (fun _ _ _ => ⟨rfl, rfl⟩), State.dropSplat_pass? _ _, hm, State.noneAtExit_congr h hs⟩
  show ∃ c ∈ ((s.errContained v.part src unit 0).queue v.cmd.q).cmds, c.seq = v.cmd.seq
  rw [State.queue, hq]
  exact he

theorem State.containSplat_tile? {s : State} (h : s.noneAtExit) (src unit : Nat) (v : Pass) {u : Fin 64} {k : Fin 4} (ht : s.tile? u k = none) :
    (s.containSplat src unit v).tile? u k = none := by
  rw [State.containSplat_idle h]
  refine State.dropSplat_tile? ?_ v.cmd
  have hv : (s.errContained v.part src unit 0).vis = s.vis := Comp.same_vis (by simp)
  rw [State.tile?_congr (congrArg _ hv), ht]

/-! ## TILE_LOAD -/

/-- Nothing retires of a tile whose list is empty. -/
theorem retireQuad_nil (e : TileEnv) (q : Nat) {t : Tile} (h : t.list = []) : ∀ n, retireQuad e q n ⟨t, [], 0⟩ = ⟨t, [], 0⟩
  | 0 => rfl
  | n + 1 => by simp [retireQuad, h]

theorem retireTile_nil (e : TileEnv) {t : Tile} (h : t.list = []) (hf : t.frags = []) : retireTile e t = ⟨t, [], 0⟩ := by
  have hw : (List.range 64).foldl (fun w q => retireQuad e q (t.list.length + 1) w) ⟨t, [], 0⟩ = ⟨t, [], 0⟩ :=
    List.foldl_fixed' (fun q => retireQuad_nil e q h _) _
  obtain ⟨serial, cmd, part, cls, tile, list, pixels, status, final, nexts, frags, issued⟩ := t
  subst hf
  rw [retireTile]
  simp only [hw, List.filter_nil]

/-- Blending a primitive changes the pixels of its tile only. -/
theorem fixedPrim_tile (e : TileEnv) (w : TileOut) (f : Prim) : ∃ px, (fixedPrim e w f).tile = { w.tile with pixels := px } := ⟨_, rfl⟩

/-- Blending a list changes the pixels of its tile only. -/
theorem State.fixedTile_tile {s : State} {v : Pass} {raw : Slot64} {e : TileEnv} {l : List (W32 × Nat)} {w x : TileOut}
    (h : s.fixedTile v raw e l w = .ok x) : ∃ px, x.tile = { w.tile with pixels := px } := by
  induction l generalizing w with
  | nil => cases h; exact ⟨_, rfl⟩
  | cons a r ih =>
    obtain ⟨key, i⟩ := a
    rw [State.fixedTile] at h
    split at h
    · cases h; exact ⟨_, rfl⟩
    · split at h
      · cases h
      · rename_i f _
        obtain ⟨px, hx⟩ := ih h
        obtain ⟨px', hf⟩ := fixedPrim_tile e w f
        exact ⟨px, by rw [hx, hf]⟩

/-- The tile that a pass starts, with its start state. -/
def State.newTile (s : State) (v : Pass) (n : Nat) (px : Vector Pixel 256) : Tile :=
  ⟨s.fresh, v.cmd, v.part, v.cls, n, binOrder (v.bin n), px, (assocGet n v.status).getD 0, decide (v.phase = .finally_), List.replicate 64 0, [], 0⟩

/-- A pass gives its next tile to a unit. -/
def State.takeTile (s : State) (v : Pass) : State := { s.updPass v.cmd (fun y => { y with todo := y.todo.drop 1 }) with fresh := s.fresh + 1 }

/-- A tile with its whole list retired. -/
def Tile.finished (t : Tile) : Tile := { t with nexts := List.replicate 64 t.list.length, issued := t.list.length }

section
variable {s : State} {env : Env} {unit : Fin 64} {k : Fin 4} {v : Pass} {c : Cmd} {n : Nat} {px : Vector Pixel 256}
  (hpx : s.startTile v (tileEnv v c).tri n = .ok px)
include hpx

/-- A tile of a command that names no program is blended whole (R324, R325). -/
theorem State.loadTile_fixed {w : TileOut} (hp : spProg c.raw = false)
    (hw : s.fixedTile v c.raw (tileEnv v c) (binOrder (v.bin n)) ⟨s.newTile v n px, [], 0⟩ = .ok w) :
    s.loadTile env unit k v c n = (s.takeTile v).putTile unit k v.part { w with tile := w.tile.finished } := by
  have hl : w.tile.list = binOrder (v.bin n) := by
    obtain ⟨px', hx⟩ := State.fixedTile_tile hw
    rw [hx]; rfl
  rw [State.newTile] at hw
  simp only [State.loadTile, hpx, hp, Bool.false_eq_true, if_false, hw, Tile.finished, hl]
  rfl

/-- A tile of a command that names a program has its start state where it holds no entry (R323). -/
theorem State.loadTile_empty (hp : spProg c.raw = true) (hb : v.bin n = []) :
    s.loadTile env unit k v c n = (s.takeTile v).putTile unit k v.part ⟨s.newTile v n px, [], 0⟩ := by
  have hr : retireTile (tileEnv v c) (s.newTile v n px) = ⟨s.newTile v n px, [], 0⟩ := retireTile_nil _ (by rw [State.newTile, hb]; rfl) rfl
  rw [← hr]
  simp only [State.loadTile, hpx, hp, if_true]
  rfl

end

/-- An empty slot has nothing to issue. -/
theorem State.issueSlot_none {s : State} (env : Env) {unit : Fin 64} {k : Fin 4} (h : s.tile? unit k = none) : s.issueSlot env unit k = s := by
  simp only [State.issueSlot, h]

/-- A slot whose tile has nothing to issue stays as it is. -/
theorem State.issueSlot_idle {s : State} (env : Env) {unit : Fin 64} {k : Fin 4}
    (h : ∀ t c, s.tile? unit k = some t → s.cmd? t.cmd = some c → spProg c.raw = false ∨ t.list = []) : s.issueSlot env unit k = s := by
  unfold State.issueSlot
  split
  next => rfl
  next t ht =>
    split
    next v c hv hc =>
      rcases h t c ht hc with hp | hl
      · simp [hp]
      · simp only [hl, List.length_nil, State.issueTile]
        split
        · rfl
        · split <;> rfl
    next => rfl

/-- The slot that a unit's next tile takes, and the pass it comes from (R321). -/
def State.tileNext (s : State) (unit : Fin 64) : Option (Pass × Fin 4) :=
  s.tilePasses.findSome? (fun v => (s.tileSlot unit v.cls).map (fun k => (v, k)))

/-- The tile that a slot shows, INVALID marked where its retirement reported it (R330). -/
def TileOut.shown (w : TileOut) : Tile := if w.invs.isEmpty then w.tile else w.tile.mark 0

/-- INVALID is in the status byte alone. -/
theorem TileOut.shown_eq (w : TileOut) : ∃ b, w.shown = { w.tile with status := b } := by
  unfold TileOut.shown
  split
  · exact ⟨_, rfl⟩
  · exact ⟨_, rfl⟩

section
variable (s : State) (unit : Fin 64) (k : Fin 4) (p : PartId) (v : Pass) (w : TileOut)

theorem State.putTile_vis : (s.putTile unit k p w).vis = (s.setTile unit k (some w.shown)).vis :=
  Comp.same_vis (by simp [State.putTile, TileOut.shown])

theorem State.putTile_tile? : (s.putTile unit k p w).tile? unit k = some w.shown := by
  rw [State.tile?_congr (congrArg _ (s.putTile_vis unit k p w)), State.tile?_setTile]

theorem State.putTile_tile?_ne {j : Fin 4} (h : j ≠ k) : (s.putTile unit k p w).tile? unit j = s.tile? unit j := by
  rw [State.tile?_congr (congrArg _ (s.putTile_vis unit k p w)), State.tile?_setTile_ne _ _ _ h]

theorem State.putTile_pass? (r : CmdRef) : (s.putTile unit k p w).pass? r = s.pass? r :=
  State.pass?_congr (congrArg Vis.passes (s.putTile_vis unit k p w)) r

theorem State.putTile_queues : (s.putTile unit k p w).queues = s.queues := Comp.same_queues (by simp)

theorem State.putTile_setter : (s.putTile unit k p w).setter = s.setter := Comp.same_setter (by simp)

theorem State.putTile_mem : (s.putTile unit k p w).mem = s.mem := Comp.same_mem (by simp)

/-- A tile that has nothing to issue leaves its unit's slots as they are, where the others are empty. -/
theorem State.putTile_idle {env : Env} {c : Cmd} (hs : ∀ j, s.tile? unit j = none) (hc : s.cmd? w.tile.cmd = some c)
    (hw : spProg c.raw = false ∨ w.tile.list = []) (j : Fin 4) : (s.putTile unit k p w).issueSlot env unit j = s.putTile unit k p w := by
  by_cases hj : j = k
  · refine State.issueSlot_idle env fun t d ht hd => ?_
    obtain ⟨b, hb⟩ := w.shown_eq
    rw [hj, State.putTile_tile?, hb] at ht
    cases ht
    rw [State.cmd?_congr (s.putTile_queues unit k p w)] at hd
    cases hc.symm.trans hd
    exact hw
  · exact State.issueSlot_none env ((s.putTile_tile?_ne unit k p w hj).trans (hs j))

theorem State.takeTile_pass? (h : s.pass? v.cmd = some v) : (s.takeTile v).pass? v.cmd = some { v with todo := v.todo.drop 1 } := by
  have hp : (s.takeTile v).pass? v.cmd = (s.pass? v.cmd).map (fun y => { y with todo := y.todo.drop 1 }) := State.pass?_updPass (fun _ hv => hv)
  rw [hp, h]
  rfl

end

section
variable {s : State} {env : Env} {unit : Fin 64} {k : Fin 4} {v : Pass} {c : Cmd} {n : Nat} {r : List Nat} {check : Check}
  (hn : (s.at env.t).tileNext unit = some (v, k)) (ht : v.todo = n :: r) (hc : (s.at env.t).cmd? v.cmd = some c)
include hn ht hc

/-- The next tile enters its slot, where nothing is then left to issue. -/
theorem exec_tileLoad_loads (hk : check ≠ .failed) (ha : env.hw.addr = false)
    (hs : ∀ j, (((s.at env.t).seen check).loadTile env unit k v c n).issueSlot env unit j = ((s.at env.t).seen check).loadTile env unit k v c n)
    (hi : (((s.at env.t).seen check).loadTile env unit k v c n).noneAtExit) :
    exec (.tileLoad unit check env) s = .next (((s.at env.t).seen check).loadTile env unit k v c n) := by
  rw [State.tileNext] at hn
  show execTileLoad unit check env s = _
  rw [execTileLoad]
  simp only [hn, ht, hc, if_neg hk, ha, Bool.false_eq_true, if_false]
  rw [← State.seen, List.foldl_fixed' (fun k => hs k), State.acceptMore_idle hi]

/-- What a unit has once the next tile has entered its slot, where the tile leaves nothing to issue (R321, R322). -/
theorem exec_tileLoad_takes (hk : check ≠ .failed) (ha : env.hw.addr = false) (hi : s.noneAtExit) (hs : ∀ j, s.tile? unit j = none)
    (hv : s.pass? v.cmd = some v) {w : TileOut}
    (hl : ((s.at env.t).seen check).loadTile env unit k v c n = (((s.at env.t).seen check).takeTile v).putTile unit k v.part w)
    (hcmd : w.tile.cmd = v.cmd) (hw : spProg c.raw = false ∨ w.tile.list = []) :
    ∃ u t y, exec (.tileLoad unit check env) s = .next u ∧ u.tile? unit k = some t ∧ (∃ b, t = { w.tile with status := b })
      ∧ (∀ j, j ≠ k → u.tile? unit j = none) ∧ u.pass? v.cmd = some y ∧ y.todo = r ∧ u.mem = s.mem := by
  let s1 := (s.at env.t).seen check
  have hkeep : ∀ {α : Type} (get : State → α), (∀ s, get s.errCorrected = get s) → get s1 = get (s.at env.t) :=
    fun get h => State.seen_keeps get h _ check
  have hnone : ∀ j, (s1.takeTile v).tile? unit j = none := fun j => (hkeep (·.tile? unit j) (fun _ => rfl)).trans (hs j)
  have hcmd' : (s1.takeTile v).cmd? w.tile.cmd = some c := hcmd ▸ (hkeep (·.cmd? v.cmd) (fun _ => rfl)).trans hc
  have hset : ((s1.takeTile v).putTile unit k v.part w).setter = s.setter := (State.putTile_setter ..).trans (hkeep (·.setter) (fun _ => rfl))
  have hrun := exec_tileLoad_loads hn ht hc hk ha (hl ▸ State.putTile_idle _ unit k _ w hnone hcmd' hw) (hl ▸ State.noneAtExit_congr hi hset)
  refine ⟨_, w.shown, { v with todo := v.todo.drop 1 }, hrun.trans (congrArg _ hl), State.putTile_tile? .., w.shown_eq,
    fun j hj => (State.putTile_tile?_ne _ _ _ _ _ hj).trans (hnone j), ?_, by simp [ht], ?_⟩
  · exact (State.putTile_pass? ..).trans (State.takeTile_pass? _ v ((hkeep (·.pass? v.cmd) (fun _ => rfl)).trans hv))
  · exact (State.putTile_mem ..).trans (hkeep (·.mem) (fun _ => rfl))

/-- An uncorrectable word of VIS, or a residue error of its address arithmetic, ends the command (R330, R511). -/
theorem exec_tileLoad_contains (hbad : check = .failed ∨ env.hw.addr = true) (hi : s.noneAtExit) (hs : ∀ j, s.tile? unit j = none) :
    ∃ src, exec (.tileLoad unit check env) s = .next ((s.at env.t).containSplat src unit.val v) := by
  rw [State.tileNext] at hn
  have hi' : (s.at env.t).noneAtExit := State.noneAtExit_congr hi rfl
  have he : ∀ src, ((((s.at env.t).containSplat src unit.val v).slotOrder unit).foldl (fun s k => s.issueSlot env unit k)
      ((s.at env.t).containSplat src unit.val v)).acceptMore 4096 = (s.at env.t).containSplat src unit.val v := by
    intro src
    obtain ⟨-, -, -, hx⟩ := State.containSplat_ends hi' src unit.val (State.held_of_cmd? hc)
    rw [List.foldl_fixed' fun k => State.issueSlot_none env (State.containSplat_tile? hi' src unit.val v (hs k)), State.acceptMore_idle hx]
  refine ⟨if check = .failed then 9 else 6, ?_⟩
  show execTileLoad unit check env s = _
  rw [execTileLoad, ← he]
  simp only [hn, ht, hc]
  rcases hbad with hk | ha
  · simp only [hk, if_true]
  · simp only [ha, if_true, apply_ite (fun src => (s.at env.t).containSplat src unit.val v)]

end

/-! ## TILE_RESOLVE -/

section
variable {s : State} {env : Env} {unit : Fin 64} {slot : Fin 4} {t : Tile} {v : Pass} {c : Cmd} {check : Check}
  (ht : (s.at env.t).tile? unit slot = some t) (hv : (s.at env.t).pass? t.cmd = some v) (hc : (s.at env.t).cmd? t.cmd = some c)
include ht hv hc

/-- A tile that has not retired, or whose command or partition holds it, stays. -/
theorem exec_tileResolve_waits (h : c.parked = true ∨ (s.at env.t).works v.part = false ∨ t.done = false) :
    exec (.tileResolve unit slot check env) s = .next (s.at env.t) := by
  show execTileResolve unit slot check env s = _
  rw [execTileResolve]
  simp only [ht, hv, hc]
  refine if_pos ?_
  rcases h with h | h | h <;> simp [h]

variable (hp : c.parked = false) (hw : (s.at env.t).works v.part = true) (hd : t.done = true)
include hp hw hd

/-- An uncorrectable word of VIS ends the command (R330). -/
theorem exec_tileResolve_contains : exec (.tileResolve unit slot .failed env) s = .next ((s.at env.t).containSplat 9 unit.val v) := by
  show execTileResolve unit slot .failed env s = _
  rw [execTileResolve]
  simp only [ht, hv, hc, hp, hw, hd, Bool.not_true, Bool.or_false, Bool.false_eq_true, if_false, if_true]

/-- A write that faults parks the command (R330). -/
theorem exec_tileResolve_faults (hk : check ≠ .failed) {x : Xfault}
    (hx : ((s.at env.t).seen check).vwriteAll v.part (resolveWrites v c t).1 = .bad x) :
    exec (.tileResolve unit slot check env) s = .next (((s.at env.t).seen check).fault env v.part 0 x 0
      (((s.at env.t).seen check).cmdCtx t.cmd 7) (.command t.cmd.q t.cmd.seq)) := by
  rw [State.seen] at hx ⊢
  show execTileResolve unit slot check env s = _
  rw [execTileResolve]
  simp only [ht, hv, hc, hp, hw, hd, Bool.not_true, Bool.or_false, Bool.false_eq_true, if_false, if_neg hk, hx]

/-- A tile whose writes go through is resolved. -/
theorem exec_tileResolve_writes (hk : check ≠ .failed) {s2 : State}
    (hx : ((s.at env.t).seen check).vwriteAll v.part (resolveWrites v c t).1 = .ok s2) :
    exec (.tileResolve unit slot check env) s = .next ((((s2.noteWrite (.command t.cmd) v.part (spansOf (resolveWrites v c t).1)).fpOverflows v.part
      (resolveWrites v c t).2).resolved unit slot v c t).acceptMore 4096) := by
  rw [State.seen] at hx
  show execTileResolve unit slot check env s = _
  rw [execTileResolve]
  simp only [ht, hv, hc, hp, hw, hd, Bool.not_true, Bool.or_false, Bool.false_eq_true, if_false, if_neg hk, hx]

end

/-! ### What a resolve leaves (R316, R330, R331) -/

section
variable (s : State) (r : CmdRef) (raw : Slot64)

theorem State.beginPass_units (f : Pass → Pass) : (s.beginPass r f).vis.units = s.vis.units := by
  unfold State.beginPass
  split <;> rfl

theorem State.passStep_units : (s.passStep r raw).vis.units = s.vis.units := by
  unfold State.passStep
  split
  next => rfl
  next v hv =>
    split
    · rfl
    · split
      · rfl
      · split
        · exact s.beginPass_units ..
        · dsimp only
          split
          · exact s.beginPass_units ..
          · rfl
      · rfl

end

section
variable (s : State) (unit : Fin 64) (slot : Fin 4) (v : Pass) (c : Cmd) (t : Tile)

/-- A tile that is resolved leaves its slot. -/
theorem State.resolved_tile? : (s.resolved unit slot v c t).tile? unit slot = none := by
  have hu : (s.resolved unit slot v c t).vis.units = (s.setTile unit slot none).vis.units := by
    unfold State.resolved
    split
    · refine (State.passStep_units _ _ _).trans ?_
      unfold State.doIf
      split <;> rfl
    · exact State.passStep_units _ _ _
  rw [State.tile?_congr hu, State.tile?_setTile]

/-- A final resolve is one item of its command (R78, R109). -/
theorem State.resolved_done {n : Nat} (hv : v.cmd = t.cmd) (h : s.cmdIs t.cmd (fun d => d.done = n)) :
    (s.resolved unit slot v c t).cmdIs t.cmd (fun d => d.done = n + (if t.final then 1 else 0)) := by
  unfold State.resolved
  rw [hv]
  split
  · refine State.cmdIs.updCmd (State.cmdIs_congr t.cmd _ (Comp.same_queues (by simp)) h) _ ?_ ?_
    · intro d
      dsimp only
      split <;> rfl
    · rintro d rfl
      dsimp only
      split <;> rfl
  · exact State.cmdIs_congr t.cmd _ (Comp.same_queues (by simp)) h

end

/-- What a resolve leaves once its writes have gone through. -/
theorem State.resolved_written {s s2 : State} {time : Nat} {check : Check} {v : Pass} {c : Cmd} {t : Tile} (hi : s.noneAtExit)
    (hx : ((s.at time).seen check).vwriteAll v.part (resolveWrites v c t).1 = .ok s2) (unit : Fin 64) (slot : Fin 4) (hv : v.cmd = t.cmd) :
    let u := ((s2.noteWrite (.command t.cmd) v.part (spansOf (resolveWrites v c t).1)).fpOverflows v.part (resolveWrites v c t).2).resolved unit slot v c t
    u.noneAtExit ∧ u.mem = s2.mem
      ∧ (s.cmdIs t.cmd (fun d => d.done = c.done) → u.cmdIs t.cmd (fun d => d.done = c.done + (if t.final then 1 else 0))) := by
  intro u
  have hset : s2.setter = s.setter :=
    (congrArg State.setter (State.vwriteAll_eq hx)).trans (State.seen_keeps (·.setter) (fun _ => rfl) (s.at time) check)
  have hq : s2.queues = s.queues :=
    (congrArg State.queues (State.vwriteAll_eq hx)).trans (State.seen_keeps (·.queues) (fun _ => rfl) (s.at time) check)
  have hu : u.setter = s2.setter := Comp.same_setter (by simp [u])
  refine ⟨State.noneAtExit_congr hi (hu.trans hset), Comp.same_mem (by simp [u]), fun h => State.resolved_done _ unit slot v c t hv ?_⟩
  have hnote : (s2.noteWrite (.command t.cmd) v.part (spansOf (resolveWrites v c t).1)).cmdIs t.cmd (fun d => d.done = c.done) :=
    (State.cmdIs_congr t.cmd _ hq h).updCmd (fun x => { x with writes := x.writes + 1 }) (fun _ => rfl) (fun _ hd => hd)
  exact State.cmdIs_congr t.cmd _ (Comp.same_queues (by simp)) hnote

/-! ## PARK_GRANT (R331, R332, R347) -/

section
variable {s : State} {p : PartId} {grant : Nat} {w : ParkReq}

theorem exec_parkGrant_none (h : s.nextPark = none) : exec (.parkGrant p grant) s = .next s := by
  show execParkGrant p grant s = _
  simp only [execParkGrant, h]

variable (hn : s.nextPark = some w)
include hn

/-- The first request that waits is of another partition, or of one that does not issue work. -/
theorem exec_parkGrant_other (h : w.part ≠ p ∨ s.works p = false) : exec (.parkGrant p grant) s = .next s := by
  show execParkGrant p grant s = _
  simp only [execParkGrant, hn]
  exact if_pos (by simpa using h)

variable (hp : w.part = p) (hw : s.works p = true)
include hp hw

/-- A summary reservation waits until its two copies fit. -/
theorem exec_parkGrant_summary {a b : Nat} (hs : w.size = some (a, b)) : exec (.parkGrant p grant) s
    = .next (if s.parkFree < summaryNeed a b then s else (s.dropParkWait (fun x => decide (x = w))).grantSummary p a b) := by
  show execParkGrant p grant s = _
  simp only [execParkGrant, hn, hp, hw, hs, ne_eq, not_true_eq_false, decide_false, Bool.not_true, Bool.or_self, Bool.false_eq_true, if_false]
  exact (apply_ite _ _ _ _).symm

variable {v : Pass} (hs : w.size = none) (hv : s.pass? w.cmd = some v)
include hs hv

/-- A grant is of at least one entry, and of no more than its partition may have or are free (R352). -/
theorem exec_parkGrant_pass : exec (.parkGrant p grant) s = .next (if grant = 0 ∨ s.parkMax p < grant ∨ s.parkFree < grant then s
    else (s.dropParkWait (fun x => decide (x = w))).grantPass v grant) := by
  show execParkGrant p grant s = _
  simp only [execParkGrant, hn, hp, hw, hs, hv, ne_eq, not_true_eq_false, decide_false, Bool.not_true, Bool.or_self, Bool.false_eq_true, if_false,
    Bool.or_eq_true, decide_eq_true_eq, or_assoc]
  exact (apply_ite _ _ _ _).symm

end

/-- The requests that wait once one is served are the others. -/
theorem State.dropParkWait_parkWait (s : State) (w : ParkReq) :
    (s.dropParkWait (fun x => decide (x = w))).vis.parkWait = s.vis.parkWait.filter (fun y => decide (y ≠ w)) := by
  simp [State.dropParkWait]

/-- A pass with its entries: the leading tiles are its active set, the others are deferred (R331). -/
def Pass.granting (v : Pass) (grant : Nat) : Pass :=
  { v with active := v.active.take grant, deferred := v.deferred ++ v.active.drop grant, granted := (v.active.take grant).length
           bins := v.bins.filter (fun e => (v.active.take grant).contains e.1) }

/-- A pass renders what it holds, or goes on binning (R331, R332). -/
def Pass.onward (y : Pass) : Pass := if y.held.isEmpty then { y with phase := .binning } else { y with phase := .partly, todo := y.held }

theorem Pass.onward_eq (y : Pass) : y.onward = { y with phase := .binning } ∨ y.onward = { y with phase := .partly, todo := y.held } :=
  ite_eq_or_eq _ _ _

theorem State.grantPass_pass? {s : State} {v : Pass} (grant : Nat) (hv : s.pass? v.cmd = some v) :
    (s.grantPass v grant).pass? v.cmd = some (v.granting grant).onward := by
  have hc : (v.granting grant).onward.cmd = v.cmd := by rcases (v.granting grant).onward_eq with h | h <;> rw [h] <;> rfl
  have hg : (s.grantPass v grant).pass? v.cmd = (s.pass? v.cmd).map (fun _ => (v.granting grant).onward) :=
    State.pass?_updPass (s := { s with vis := { s.vis with parkUsed := s.vis.parkUsed + (v.active.take grant).length } }) (fun _ _ => hc)
  rw [hg, hv]
  rfl

/-- What PARK_GRANT leaves of the pass whose request waited. -/
theorem State.dropParkWait_grantPass {s : State} {w : ParkReq} {v : Pass} (grant : Nat) (hv : s.pass? w.cmd = some v) :
    ∃ y, ((s.dropParkWait (fun x => decide (x = w))).grantPass v grant).pass? v.cmd = some y
      ∧ y.active = v.active.take grant ∧ y.deferred = v.deferred ++ v.active.drop grant ∧ y.granted = (v.active.take grant).length
      ∧ y.bins = v.bins.filter (fun e => (v.active.take grant).contains e.1) ∧ (y.phase = .binning ∨ y.phase = .partly) := by
  have hcv : v.cmd = w.cmd := State.pass?_cmd hv
  refine ⟨(v.granting grant).onward, State.grantPass_pass? grant (hcv ▸ hv), ?_⟩
  rcases (v.granting grant).onward_eq with h | h <;> rw [h]
  · exact ⟨rfl, rfl, rfl, rfl, .inl rfl⟩
  · exact ⟨rfl, rfl, rfl, rfl, .inr rfl⟩

/-! ## The obligation -/

/-- Settles O46: where no group waits at EXIT each step is that of its tile, its pass or its request alone. -/
theorem tilesAreLoadedAndResolved : Obligations.TilesAreLoadedAndResolved := by
  unfold Obligations.TilesAreLoadedAndResolved
  intro env s (hi : s.noneAtExit)
  refine ⟨fun unit v k c n r hn ht hc hv hs => ⟨fun check px hk ha => ?load, fun check hbad => ?lost⟩,
    fun unit slot t v c ht hv hc => ⟨fun check h => exec_tileResolve_waits ht hv hc h,
      fun hp hw hd => ⟨fun check hk => ⟨fun s2 hx => ?written, fun x hx => exec_tileResolve_faults ht hv hc hp hw hd hk hx⟩, ?contained⟩⟩,
    fun p grant h => exec_parkGrant_none h,
    fun p grant w hn => ⟨exec_parkGrant_other hn, fun a b hp hw hsz => ⟨fun h => ?waits, fun h => ?summary⟩,
      fun v hp hw hsz hv => ⟨fun h => ?denied, fun h0 hmax hfree => ?granted⟩⟩⟩
  case load =>
    intro s1 l tile loads hpx
    have htile : tile = s1.newTile v n px := (State.seen_keeps (·.newTile v n px) (fun _ => rfl) (s.at env.t) check).symm
    have takes : ∀ (w : TileOut) a ns i, s1.loadTile env unit k v c n = (s1.takeTile v).putTile unit k v.part w →
        w.tile = { tile with pixels := a, nexts := ns, issued := i } → spProg c.raw = false ∨ l = [] → loads a := by
      intro w a ns i hl hw hp
      obtain ⟨u, t, y, hu, ht', ⟨b, hb⟩, hrest, hy, hyr, hm⟩ :=
        exec_tileLoad_takes hn ht hc hk ha hi hs hv hl (by rw [hw]) (by rw [hw]; exact hp)
      rw [hw] at hb
      subst hb
      exact ⟨u, _, y, hu, ht', rfl, rfl, rfl, rfl, rfl, rfl, hrest, hy, hyr, hm⟩
    refine ⟨fun w hp hw => ?fixed, fun hp hb => ?empty⟩
    case fixed =>
      obtain ⟨a, hx⟩ := State.fixedTile_tile hw
      have hfin : w.tile.finished
          = { tile with pixels := w.tile.pixels, nexts := List.replicate 64 w.tile.list.length, issued := w.tile.list.length } := by
        rw [Tile.finished, hx]
      rw [htile] at hw
      exact takes _ _ _ _ (State.loadTile_fixed hpx hp hw) hfin (.inl hp)
    case empty =>
      exact takes ⟨s1.newTile v n px, [], 0⟩ px _ _ (State.loadTile_empty hpx hp hb) htile.symm (.inr (congrArg binOrder hb))
  case lost =>
    obtain ⟨src, hx⟩ := exec_tileLoad_contains hn ht hc hbad hi hs
    obtain ⟨he, hp, hm, -⟩ := State.containSplat_ends (s := s.at env.t) hi src unit.val (State.held_of_cmd? hc)
    exact ⟨_, hx, he, hp, hm⟩
  case contained =>
    have hcv : v.cmd = t.cmd := State.pass?_cmd hv
    obtain ⟨he, -, hm, -⟩ := State.containSplat_ends (s := s.at env.t) hi 9 unit.val (v := v) (hcv ▸ State.held_of_cmd? hc)
    exact ⟨_, exec_tileResolve_contains ht hv hc hp hw hd, hcv ▸ he, hm⟩
  case written =>
    obtain ⟨hidle, hmem, hdone⟩ := State.resolved_written hi hx unit slot (State.pass?_cmd hv)
    refine ⟨_, (exec_tileResolve_writes ht hv hc hp hw hd hk hx).trans (by rw [State.acceptMore_idle hidle]), hmem,
      State.resolved_tile? .., fun h => ?_⟩
    exact hdone ⟨State.held_of_cmd? hc, fun d hd hs => by rw [h d hd hs]⟩
  case waits => exact (exec_parkGrant_summary hn hp hw hsz).trans (by rw [if_pos h])
  case summary =>
    subst hp
    refine ⟨(s.dropParkWait (fun x => decide (x = w))).grantSummary w.part a b,
      (exec_parkGrant_summary hn rfl hw hsz).trans (by rw [if_neg (Nat.not_lt.mpr h)]), ?_, rfl, s.dropParkWait_parkWait w, rfl, rfl, rfl⟩
    rw [State.grantSummary, State.part_updPart]
  case denied => exact (exec_parkGrant_pass hn hp hw hsz hv).trans (by rw [if_pos h])
  case granted =>
    obtain ⟨y, hy, hact, hdef, hgr, hbins, hph⟩ := State.dropParkWait_grantPass grant hv
    exact ⟨_, y, (exec_parkGrant_pass hn hp hw hsz hv).trans (by rw [if_neg (by omega)]), rfl, hy, hact, hdef, hgr, hbins, hph,
      s.dropParkWait_parkWait w, rfl⟩

end Sys2Proof.Machine
end
